-- ==== Sys2Proof/Word.lean ====
section
/-!
DEFINITION. The word types of the engine (spec/00_scope.md R4, R6) and the plainest reading of a bit field.
-/
namespace Sys2Proof

/-- A register word: R4. -/
abbrev Word := BitVec 32

/-- A 64-bit quantity: R6. -/
abbrev DWord := BitVec 64

/-- The 128-byte descriptor of R95. -/
abbrev DescBits := BitVec 1024

end Sys2Proof
end

