-- ==== Sys2Proof/Syntax.lean ====
section
/-!
DEFINITION. The commands that reach the engine, one constructor of Instr per row of spec/opcode_table.json. An operand is
what the outside world supplies with the command: a register offset and data, a fetched descriptor with the buffers that
it names, a frame, a row, an image as read. Operand types that are records are declared first.
-/
namespace Sys2Proof

/-- The 256 bytes of a Larder entry (spec/07_shelver_crates_and_tiers.md R294). -/
abbrev LarderBits := BitVec 2048

/-- A Rafter frame as received (spec/16_rafter_link.md R533): the 16-byte header, the payload in 64-bit words, the four bytes of its
CRC, and for SYNC and SYNC_REPLY the Tally and fraction of its arrival in units of 2^-16 t. -/
structure RxFrame where
  hdr : BitVec 128
  payload : List DWord
  crc : Word
  arrival : Nat
deriving DecidableEq, Repr

/-- A fault as its unit detects it (spec/18_errors_and_redundancy.md R576): what the record takes from the detector. `cls` is
used for the codes whose class depends on the memory or the reader (SRAM_UE, STORE_POISON). `sub` names the ring, slot or
command concerned where the code's action needs one. -/
structure FaultIn where
  code : Nat
  unit : Nat
  cls : Nat
  part : Nat
  rqid : Nat
  gen : Nat
  pid : Nat
  pidV : Bool
  inst : Nat
  sub : Nat
  syndrome : Nat
  addr : Nat
deriving DecidableEq, Repr

/-- One sibling of a context image: its entry of 256 bytes (spec/14_preemption_and_context.md R481) and its generated tokens, which the
history pages of section 1 hold. -/
structure ImageSib where
  entry : BitVec 2048
  tokens : List Nat
deriving DecidableEq, Repr

/-- One request of a context image (R480, section 1). -/
structure ImageReq where
  param : DescBits
  prompt : List Nat
  bias : List Nat
  sibs : List ImageSib
deriving DecidableEq, Repr

/-- A group entry of an EXPORT image (R482) with the Cellar addresses of its crates in the copy's directory; a later appearance has none. -/
structure ImageGroup where
  entry : BitVec 256
  crates : List Nat
deriving DecidableEq, Repr

/-- A step of a context image (R480, section 3): header, slots and crate list of its packet, its row-control entries, and a bit for each slot
that has committed. -/
structure ImageStep where
  hdr : BitVec 512
  slots : List (BitVec 256)
  ents : List DWord
  ctl : List (BitVec 256)
  committed : List Bool
deriving DecidableEq, Repr

/-- A context image (R480): the header and what its sections hold. Sections 5 to 7 are bytes that the array lays out. -/
structure Image where
  hdr : BitVec 2048
  shape : List DWord
  reqs : List ImageReq
  groups : List ImageGroup
  step : Option ImageStep
  waiting : Option ImageStep
  bins : List (BitVec 256)
  array : List (BitVec 8)
deriving DecidableEq, Repr

/-- A part of a model load that another engine leads (spec/05_batch_composition.md R219): the lead's chip and its instance index, the
owner's partition, the chips of the placement, and the bytes of weights that stay in Cellar (spec/07_shelver_crates_and_tiers.md R303). -/
structure LoadPart where
  chip : Nat
  inst : Nat
  owner : Nat
  chips : List Nat
  excess : Nat
deriving DecidableEq, Repr

/-- The engine's role in a model load: it leads, with the array's answer to its tile mask (spec/13_partitions_shares_isolation.md R444), or it
is told of a load that another engine leads: it holds a part of it, or passes its frames on (spec/16_rafter_link.md R539). -/
inductive LoadRole where
  | lead (tilesOk : Bool)
  | part (p : LoadPart)
deriving DecidableEq, Repr

/-- What ends a residency: an UNLOAD_MODEL descriptor, or the lead of a followed instance (its chip, and its instance index there). -/
inductive Unload where
  | fetched (desc : DescBits)
  | byLead (chip inst : Nat)
deriving DecidableEq, Repr

/-- A context whose save is complete on every chip, and the shape words of the instance's other chips (R480), in ascending chip index. -/
structure Saved where
  inst : Nat
  shapes : List DWord
deriving DecidableEq, Repr

/-- What a restore reads: the EXPORT image, and the shape words of the instance's other chips as they stand, in ascending chip index. -/
structure RestoreSource where
  image : Option Image
  shapes : List DWord
deriving DecidableEq, Repr

/-- What a takeover copies from a lost lead's shadow (spec/18_errors_and_redundancy.md R597): by slot of the first record on
the lost lead, the parameter block, the prompt, the bias list and each sibling's generated tokens. -/
structure ShadowReq where
  slot : Nat
  param : DescBits
  prompt : List Nat
  bias : List Nat
  tokens : List (List Nat)
deriving DecidableEq, Repr


/-- The commands of the engine: one constructor per row of the opcode table. The docstring of each gives the row's rule and
summary. -/
inductive Instr where
  /-- REGISTER_WRITE (R7): A host write to a register field that has no row of its own takes effect by its access type, subject to the enable, lock and held-write rules. -/
  | registerWrite (off : Nat) (size : Nat) (data : DWord)
  /-- BAD_ACCESS (R5): A register access of another size or alignment has no effect, reads 0 and records BAD_ACCESS. -/
  | badAccess (off : Nat) (size : Nat) (write : Bool)
  /-- PAIR_LOW_READ (R6): A 32-bit read of the low word of a 64-bit pair latches the high word for the next read. -/
  | pairLowRead (off : Nat) (size : Nat)
  /-- PAIR_HIGH_WRITE (R621): A 32-bit write of the high word of a writable pair commits both words together. -/
  | pairHighWrite (off : Nat) (data : Word)
  /-- IDLE_EDGE (R58): At each whole multiple of 10,000 t an idle instance or idle engine takes an idle edge for its RWS fields, deadline checks and Gate re-evaluation. -/
  | idleEdge
  /-- STEP_EDGE (R62): At a step's edge, captured values become active, engine-wide fields apply, held writes are accepted, deadlines are checked, deferred requests are re-evaluated and the array starts the step. -/
  | stepEdge (inst : Nat)
  /-- QUEUED_DEADLINE_CHECK (R149): At each whole multiple of 10,000 t, the Ledger ends QUEUED or HELD requests and siblings of SAVED LOCAL contexts whose DEADLINE_LAST has passed. -/
  | queuedDeadlineCheck
  /-- DEADLINE_FIRST_PASS (R148): In the first tick past a nonzero DEADLINE_FIRST without a first token, the engine raises DEADLINE_FIRST_MISSED once. -/
  | deadlineFirstPass (slot : Nat)
  /-- CST_FRAME_BOUNDARY (R66): At a CST frame boundary, a pending bank switch takes effect, TAL_CST_BASE is rewritten and bars on partitions are lifted. -/
  | cstFrameBoundary
  /-- CST_SLOT_START (R72): When a slot not usable by a partition begins while it has a step outstanding, the partition overruns and is barred from open slots. -/
  | cstSlotStart
  /-- CST_ENTRY_COMMIT (R64): A write of TAL_CST_DATA_HI commits the CST entry that TAL_CST_ADDR selects. -/
  | cstEntryCommit (data : Word)
  /-- EDGE_LEAD_WRITE (R49): A write of TAL_EDGE_LEAD_n sets the requested edge lead and raises EDGE_LEAD_CLAMPED when the effective value differs. -/
  | edgeLeadWrite (n : Nat) (data : Word)
  /-- RING_CFG_WRITE (R80): A write of HAT_RING_CFG configures or enables the selected ring, raising RING_CFG_BAD when enabling is not allowed. -/
  | ringCfgWrite (data : Word)
  /-- DOORBELL_SNOOP (R83): A host write snoops a held doorbell line, and Hatch re-reads it and takes the new count. -/
  | doorbellSnoop (ring : Nat) (count : Nat)
  /-- DOORBELL_POLL (R84): Every POLL × 1,000 t Hatch re-reads every held doorbell line. -/
  | doorbellPoll (counts : List (Nat × Nat))
  /-- HAT_DBWIN (R627): A write of COUNT to a ring's MMIO doorbell slot publishes the ring's tail or head. -/
  | hatDbwin (ring : Nat) (count : Nat)
  /-- SUBMIT (R97): A fetched SUBMIT descriptor is checked, a Ledger record and history pages are allocated, and the request passes to the Gate. -/
  | submit (desc : DescBits) (larder : Option LarderBits) (prompt : List Word) (bias : List DWord)
  /-- ADMIT (R96): An ADMIT order releases a held request to the Gate. -/
  | admitOrder (desc : DescBits)
  /-- RESUME (R96): A RESUME order returns paused siblings to their prior state. -/
  | resume (desc : DescBits)
  /-- MODIFY (R146): A MODIFY order replaces DEADLINE_LAST or MAX_NEW of every live sibling. -/
  | modify (desc : DescBits)
  /-- PREEMPT (R96): A PREEMPT order pauses the request's running siblings. -/
  | preempt (desc : DescBits)
  /-- CANCEL (R108): A CANCEL order ends every live sibling with ST_CANCELLED. -/
  | cancel (desc : DescBits)
  /-- LOAD_MODEL (R170): A LOAD_MODEL descriptor is decided by the fit check and, when accepted, starts loading the model.
  In the other role the load is another engine's, which has accepted it: this chip is in its placement, or is only told of it. -/
  | loadModel (desc : DescBits) (larder : Option LarderBits) (segs : List (BitVec 128)) (role : LoadRole)
  /-- UNLOAD_MODEL (R173): An UNLOAD_MODEL makes the model non-resident for new requests and releases residency when its last request is released.
  The other form is a lead's release of the residency of an instance that this engine follows, or has been told of. -/
  | unloadModel (request : Unload)
  /-- NOP (R96): A NOP descriptor completes with ST_OK. -/
  | nop (desc : DescBits)
  /-- HEAD_ADVANCE (R92): When a descriptor and its prompt and bias buffers are fully read, Hatch advances the ring's head and writes the pointer line. -/
  | headAdvance (ring : Nat)
  /-- OVERFLOW_DRAIN (R112): Records held in the overflow area are written to their completion ring as the driver frees entries. -/
  | overflowDrain (ring : Nat)
  /-- HELLO_GO (R121): A GO write of HAT_HELLO_SELECT runs the hello exchange and agrees or rejects the selected version. -/
  | helloGo (data : Word)
  /-- RECORD_FILL (R131): A spilled Ledger record needed by the engine becomes hot again. -/
  | recordFill (slot : Nat)
  /-- SLOT_RELEASE (R138): When all siblings have ended and all records, entries and crates are released, the Ledger frees the request's slots. -/
  | slotRelease (slot : Nat)
  /-- LEDGER_PEEK (R133): A write of LED_PEEK_SLOT takes a snapshot of that slot's record into LED_PEEK_DATA. -/
  | ledgerPeek (data : Word)
  /-- ADMISSION_BUCKET_REFILL (R159): At each whole multiple of 1,000,000 t each partition's admission bucket gains RATE blocks up to BURST. -/
  | admissionBucketRefill
  /-- PREFIX_MATCH (R273): The Shelver's prefix match of an admitted request ends, sharing matched groups and setting POS. -/
  | prefixMatch (slot : Nat)
  /-- INSTANCE_TRIGGER (R175): An idle instance with an eligible sibling triggers a composition. -/
  | instanceTrigger (inst : Nat)
  /-- ARRAY_STEP_DONE (R174): The array reports step-done, resolving a rowless step or starting the step timer. -/
  | arrayStepDone (inst : Nat)
  /-- COMPOSE_START (R176): The Composer starts a queued composition, captures instance-view fields and runs the partition's program. -/
  | composeStart
  /-- CYCLE_LIMIT (R248): When CYCLES reaches STW_LIMIT, the composition ends with its appended slots and COMPOSE_OVERRUN is raised. -/
  | cycleLimit
  /-- NOP_SCALAR (R235): Scalar NOP does nothing. -/
  | nopScalar (y : Bool)
  /-- ADD (R235): Scalar ADD writes A + B. -/
  | sAdd (y : Bool) (g : BitVec 3) (gn : Bool) (d : BitVec 5) (a : BitVec 5) (b : BitVec 5)
  /-- SUB (R235): Scalar SUB writes A − B. -/
  | sSub (y : Bool) (g : BitVec 3) (gn : Bool) (d : BitVec 5) (a : BitVec 5) (b : BitVec 5)
  /-- AND (R235): Scalar AND writes A AND B. -/
  | sAnd (y : Bool) (g : BitVec 3) (gn : Bool) (d : BitVec 5) (a : BitVec 5) (b : BitVec 5)
  /-- OR (R235): Scalar OR writes A OR B. -/
  | sOr (y : Bool) (g : BitVec 3) (gn : Bool) (d : BitVec 5) (a : BitVec 5) (b : BitVec 5)
  /-- XOR (R235): Scalar XOR writes A XOR B. -/
  | sXor (y : Bool) (g : BitVec 3) (gn : Bool) (d : BitVec 5) (a : BitVec 5) (b : BitVec 5)
  /-- SHL (R235): Scalar SHL shifts A left by B. -/
  | sShl (y : Bool) (g : BitVec 3) (gn : Bool) (d : BitVec 5) (a : BitVec 5) (b : BitVec 5)
  /-- SHR (R235): Scalar SHR shifts A right logically by B. -/
  | sShr (y : Bool) (g : BitVec 3) (gn : Bool) (d : BitVec 5) (a : BitVec 5) (b : BitVec 5)
  /-- MUL (R235): Scalar MUL writes the low 64 bits of A × B. -/
  | sMul (y : Bool) (g : BitVec 3) (gn : Bool) (d : BitVec 5) (a : BitVec 5) (b : BitVec 5)
  /-- MIN (R235): Scalar MIN writes the signed minimum. -/
  | sMin (y : Bool) (g : BitVec 3) (gn : Bool) (d : BitVec 5) (a : BitVec 5) (b : BitVec 5)
  /-- MAX (R235): Scalar MAX writes the signed maximum. -/
  | sMax (y : Bool) (g : BitVec 3) (gn : Bool) (d : BitVec 5) (a : BitVec 5) (b : BitVec 5)
  /-- MINU (R235): Scalar MINU writes the unsigned minimum. -/
  | sMinu (y : Bool) (g : BitVec 3) (gn : Bool) (d : BitVec 5) (a : BitVec 5) (b : BitVec 5)
  /-- MAXU (R235): Scalar MAXU writes the unsigned maximum. -/
  | sMaxu (y : Bool) (g : BitVec 3) (gn : Bool) (d : BitVec 5) (a : BitVec 5) (b : BitVec 5)
  /-- ADDI (R235): Scalar ADDI adds a sign-extended immediate. -/
  | sAddi (y : Bool) (g : BitVec 3) (gn : Bool) (d : BitVec 5) (a : BitVec 5) (imm : BitVec 18)
  /-- ANDI (R235): Scalar ANDI ANDs a sign-extended immediate. -/
  | sAndi (y : Bool) (g : BitVec 3) (gn : Bool) (d : BitVec 5) (a : BitVec 5) (imm : BitVec 18)
  /-- ORI (R235): Scalar ORI ORs a sign-extended immediate. -/
  | sOri (y : Bool) (g : BitVec 3) (gn : Bool) (d : BitVec 5) (a : BitVec 5) (imm : BitVec 18)
  /-- SHLI (R235): Scalar SHLI shifts left by an immediate. -/
  | sShli (y : Bool) (g : BitVec 3) (gn : Bool) (d : BitVec 5) (a : BitVec 5) (imm : BitVec 18)
  /-- SHRI (R235): Scalar SHRI shifts right by an immediate. -/
  | sShri (y : Bool) (g : BitVec 3) (gn : Bool) (d : BitVec 5) (a : BitVec 5) (imm : BitVec 18)
  /-- LI (R235): Scalar LI loads a sign-extended immediate. -/
  | sLi (y : Bool) (g : BitVec 3) (gn : Bool) (d : BitVec 5) (imm : BitVec 18)
  /-- CEQ (R235): CEQ sets a predicate to A = B. -/
  | sCeq (y : Bool) (g : BitVec 3) (gn : Bool) (d : BitVec 5) (a : BitVec 5) (b : BitVec 5)
  /-- CLT (R235): CLT sets a predicate to signed A < B. -/
  | sClt (y : Bool) (g : BitVec 3) (gn : Bool) (d : BitVec 5) (a : BitVec 5) (b : BitVec 5)
  /-- CLTU (R235): CLTU sets a predicate to unsigned A < B. -/
  | sCltu (y : Bool) (g : BitVec 3) (gn : Bool) (d : BitVec 5) (a : BitVec 5) (b : BitVec 5)
  /-- CEQI (R235): CEQI compares A for equality with an immediate. -/
  | sCeqi (y : Bool) (g : BitVec 3) (gn : Bool) (d : BitVec 5) (a : BitVec 5) (imm : BitVec 18)
  /-- CLTI (R235): CLTI compares A signed-less-than an immediate. -/
  | sClti (y : Bool) (g : BitVec 3) (gn : Bool) (d : BitVec 5) (a : BitVec 5) (imm : BitVec 18)
  /-- PCNT (R235): PCNT writes the number of set bits of a predicate. -/
  | sPcnt (y : Bool) (g : BitVec 3) (gn : Bool) (d : BitVec 5) (a : BitVec 3)
  /-- PAND (R235): PAND ANDs two predicates. -/
  | sPand (y : Bool) (g : BitVec 3) (gn : Bool) (d : BitVec 3) (a : BitVec 3) (b : BitVec 3)
  /-- PNOT (R235): PNOT inverts a predicate. -/
  | sPnot (y : Bool) (g : BitVec 3) (gn : Bool) (d : BitVec 3) (a : BitVec 3)
  /-- GETC (R236): GETC reads a context register. -/
  | sGetc (y : Bool) (g : BitVec 3) (gn : Bool) (d : BitVec 5) (idx : BitVec 5)
  /-- SETC (R236): SETC writes an RW context register. -/
  | sSetc (g : BitVec 3) (gn : Bool) (a : BitVec 5) (idx : BitVec 5)
  /-- LD (R235): LD loads a 64-bit DMEM word. -/
  | sLd (g : BitVec 3) (gn : Bool) (d : BitVec 5) (a : BitVec 5) (imm : BitVec 18)
  /-- ST (R235): ST stores a 64-bit DMEM word. -/
  | sSt (g : BitVec 3) (gn : Bool) (d : BitVec 5) (a : BitVec 5) (imm : BitVec 18)
  /-- BR (R235): BR branches by an immediate offset. -/
  | sBr (g : BitVec 3) (gn : Bool) (imm : BitVec 18)
  /-- BRZ (R235): BRZ branches when A is zero. -/
  | sBrz (g : BitVec 3) (gn : Bool) (a : BitVec 5) (imm : BitVec 18)
  /-- BRNZ (R235): BRNZ branches when A is nonzero. -/
  | sBrnz (g : BitVec 3) (gn : Bool) (a : BitVec 5) (imm : BitVec 18)
  /-- END (R247): END closes the composition with its slots, EST and CFG, after a 41-cycle hold. -/
  | sEnd (g : BitVec 3) (gn : Bool)
  /-- WIDE_NOP (R237): Wide NOP does nothing. -/
  | wideNop
  /-- WADD (R237): WADD adds wide registers lane by lane. -/
  | wAdd (g : BitVec 3) (gn : Bool) (d : BitVec 5) (a : BitVec 5) (b : BitVec 5)
  /-- WSUB (R237): WSUB subtracts lane by lane. -/
  | wSub (g : BitVec 3) (gn : Bool) (d : BitVec 5) (a : BitVec 5) (b : BitVec 5)
  /-- WAND (R237): WAND ANDs lane by lane. -/
  | wAnd (g : BitVec 3) (gn : Bool) (d : BitVec 5) (a : BitVec 5) (b : BitVec 5)
  /-- WOR (R237): WOR ORs lane by lane. -/
  | wOr (g : BitVec 3) (gn : Bool) (d : BitVec 5) (a : BitVec 5) (b : BitVec 5)
  /-- WMIN (R237): WMIN takes the signed minimum lane by lane. -/
  | wMin (g : BitVec 3) (gn : Bool) (d : BitVec 5) (a : BitVec 5) (b : BitVec 5)
  /-- WMAX (R237): WMAX takes the signed maximum lane by lane. -/
  | wMax (g : BitVec 3) (gn : Bool) (d : BitVec 5) (a : BitVec 5) (b : BitVec 5)
  /-- WMINU (R237): WMINU takes the unsigned minimum lane by lane. -/
  | wMinu (g : BitVec 3) (gn : Bool) (d : BitVec 5) (a : BitVec 5) (b : BitVec 5)
  /-- WMAXU (R237): WMAXU takes the unsigned maximum lane by lane. -/
  | wMaxu (g : BitVec 3) (gn : Bool) (d : BitVec 5) (a : BitVec 5) (b : BitVec 5)
  /-- WMUL (R237): WMUL multiplies lane by lane. -/
  | wMul (g : BitVec 3) (gn : Bool) (d : BitVec 5) (a : BitVec 5) (b : BitVec 5)
  /-- WSHLI (R237): WSHLI shifts each lane left by an immediate. -/
  | wShli (g : BitVec 3) (gn : Bool) (d : BitVec 5) (a : BitVec 5) (imm : BitVec 16)
  /-- WSHRI (R237): WSHRI shifts each lane right by an immediate. -/
  | wShri (g : BitVec 3) (gn : Bool) (d : BitVec 5) (a : BitVec 5) (imm : BitVec 16)
  /-- WMOV (R237): WMOV copies a wide register. -/
  | wMov (g : BitVec 3) (gn : Bool) (d : BitVec 5) (a : BitVec 5)
  /-- WBC (R237): WBC broadcasts a scalar to every lane. -/
  | wBc (g : BitVec 3) (gn : Bool) (d : BitVec 5) (c : BitVec 5)
  /-- WLI (R237): WLI loads an immediate into every lane. -/
  | wLi (g : BitVec 3) (gn : Bool) (d : BitVec 5) (imm : BitVec 16)
  /-- WGET (R237): WGET reads one lane into a scalar. -/
  | wGet (d : BitVec 5) (a : BitVec 5) (imm : BitVec 16)
  /-- WCEQ (R237): WCEQ sets predicate bits from lane equality. -/
  | wCeq (g : BitVec 3) (gn : Bool) (a : BitVec 5) (b : BitVec 5) (c : BitVec 3)
  /-- WCLT (R237): WCLT sets predicate bits from signed lane comparison. -/
  | wClt (g : BitVec 3) (gn : Bool) (a : BitVec 5) (b : BitVec 5) (c : BitVec 3)
  /-- WCLTU (R237): WCLTU sets predicate bits from unsigned lane comparison. -/
  | wCltu (g : BitVec 3) (gn : Bool) (a : BitVec 5) (b : BitVec 5) (c : BitVec 3)
  /-- WBIT (R237): WBIT sets predicate bits from one bit of each lane. -/
  | wBit (g : BitVec 3) (gn : Bool) (a : BitVec 5) (c : BitVec 3) (imm : BitVec 16)
  /-- WSUM (R237): WSUM sums the enabled lanes into a scalar. -/
  | wSum (g : BitVec 3) (gn : Bool) (d : BitVec 5) (a : BitVec 5)
  /-- WSORT (R237): WSORT sorts enabled lanes and permutes a second register alike. -/
  | wSort (g : BitVec 3) (gn : Bool) (d : BitVec 5) (a : BitVec 5) (b : BitVec 5) (c : BitVec 5)
  /-- KBEGIN (R239): KBEGIN arms the selection unit in a mode with both passes. -/
  | kBegin (g : BitVec 3) (gn : Bool) (imm : BitVec 16)
  /-- KSEL (R240): KSEL draws up to four candidates in key order. -/
  | kSel (g : BitVec 3) (gn : Bool) (d : BitVec 5) (c : BitVec 3)
  /-- LSCAN (R241): LSCAN scans up to four candidates in Ledger slot order. -/
  | lScan (g : BitVec 3) (gn : Bool) (d : BitVec 5) (c : BitVec 3)
  /-- LFLD (R243): LFLD gathers a Ledger field of each candidate. -/
  | lFld (g : BitVec 3) (gn : Bool) (d : BitVec 5) (a : BitVec 5) (imm : BitVec 16)
  /-- WFIT (R244): WFIT fits the wants to the budget and computes grants. -/
  | wFit (g : BitVec 3) (gn : Bool) (d : BitVec 5) (a : BitVec 5) (b : BitVec 5) (c : BitVec 3)
  /-- APPEND (R245): APPEND checks and appends slots for the granted candidates, pinning their crates. -/
  | append (g : BitVec 3) (gn : Bool) (d : BitVec 5) (a : BitVec 5) (b : BitVec 5)
  /-- STEP_EMIT (R204): When the composition is complete, the previous step has committed and epoch, leave and split conditions hold, the Composer binds slots, places the edge and emits the packet, row control and broadcast. -/
  | stepEmit (inst : Nat)
  /-- EPOCH_DRAINED (R222): The array reports that no token of the old epoch remains in the instance's region. -/
  | epochDrained (inst : Nat)
  /-- ARRAY_CONFIG_LOADED (R635): The array reports a configuration load complete, fixing the Shelf region and completing a model load or restore. -/
  | arrayConfigLoaded (inst : Nat) (shelfMib : Nat) (groups : List Nat)
  /-- ARRAY_CONFIG_FAILED (R170): The array reports a configuration load failed, and the model load completes with ST_ENGINE_FAULT. -/
  | arrayConfigFailed (inst : Nat)
  /-- PROGRAM_LOAD (R253): A GO write of STW_LOAD_CTL starts loading a program image into a slot. -/
  | programLoad (data : Word)
  /-- PROGRAM_LOAD_END (R254): A program load ends, replacing the slot or refusing the image, and raises PROG_LOADED or PROG_REFUSED. -/
  | programLoadEnd (image : List (BitVec 8)) (readOk : Bool)
  /-- STW_VIEW_WRITE (R626): A write through the Steward debug memory view changes a DMEM page only while the Steward is halted. -/
  | stwViewWrite (off : Nat) (size : Nat) (data : DWord)
  /-- CMP_PART_PROG_WRITE (R227): A write of CMP_PART_PROG selecting an empty slot raises PROG_EMPTY. -/
  | cmpPartProgWrite (data : Word)
  /-- PIECE_START (R324): A free Pantry pipe takes the first admitted piece, after leave for BULK and regulator admission. -/
  | pieceStart
  /-- PIECE_DONE (R328): A Pantry piece completes, and a command whose pieces are all written completes to the Shelver. -/
  | pieceDone (pipe : Nat) (error : Nat) (src : List (BitVec 8))
  /-- OLD_FRAMES_FREED (R284): The old frames of a moved group are freed once every step open at completion has resolved. -/
  | oldFramesFreed (group : Nat)
  /-- CELLAR_STREAM_GRANT (R459): The array asks Keeper for a 65,536 B Cellar streaming grant, admitted by the owner's Cellar bucket. -/
  | cellarStreamGrant (inst : Nat)
  /-- LOGIT_ROW (R335): A logit row arrives at the logit port and is checked, accepted into a gang or discarded; the last row of a step triggers the next composition. -/
  | logitRow (tag : DWord) (len : Nat) (fmt : Nat) (payload : List (BitVec 8))
  /-- ROW_CONTROL_JOIN (R339): The control half of a slot arrives and joins its rows, starting counting, key resolution and draw jumps. -/
  | rowControlJoin (inst : Nat) (slot : Nat)
  /-- DATA_TIMER_EXPIRY (R339): A slot waiting for its control half reaches SMP_JOIN_TIMEOUT and is lost. -/
  | dataTimerExpiry (inst : Nat) (slot : Nat)
  /-- STEP_TIMER_EXPIRY (R340): The step timer reaches SMP_JOIN_TIMEOUT and slots with missing rows or unready draws are lost. -/
  | stepTimerExpiry (inst : Nat)
  /-- ROW_SAMPLED (R351): A lane finishes its passes over a row and its token is ready. -/
  | rowSampled (inst : Nat) (slot : Nat) (row : Nat)
  /-- SLOT_COMMIT (R365): A slot commits its tokens, updating history, POS, Sieve state and states, and its step resolves when it is the last. -/
  | slotCommit (inst : Nat) (slot : Nat) (nprop : Nat) (tokens : List Nat) (parents : List Nat)
  /-- SPARE_LANE_IN_SERVICE (R369): A powered-up spare Sampler lane takes the logical number of a retired lane. -/
  | spareLaneInService (lane : Nat)
  /-- MASK_PAGE_FETCH (R391): A mask page fetched from Store is expanded into the mask cache. -/
  | maskPageFetch (gid : Nat) (cls : Nat) (page : Nat)
  /-- GRAMMAR_INSTALL (R384): A GO write of SIV_INSTALL_CTL with OP 0 starts installing a grammar image. -/
  | grammarInstall (data : Word)
  /-- GRAMMAR_INSTALL_END (R384): A grammar install ends, writing the directory or refusing the image. -/
  | grammarInstallEnd (image : List (BitVec 8)) (larder : Option LarderBits) (readOk : Bool)
  /-- GRAMMAR_REMOVE (R385): A GO write of SIV_INSTALL_CTL with OP 1 removes a grammar or sets it draining. -/
  | grammarRemove (data : Word)
  /-- JUMP_DONE (R410): The jump-ahead unit completes a jump and loads the requesting generator. -/
  | jumpDone
  /-- SERVICE_REQUEST (R413): The array's service request is answered with draws of the named slot or with zeros. -/
  | serviceRequest (req : BitVec 128)
  /-- RSU_PROBE (R397): A GO write of RSU_PROBE_CTL computes the draw of the probe coordinate. -/
  | rsuProbe (data : Word)
  /-- BIN_PUSH (R419): The array pushes an operation, which Bins checks, numbers and places in a bank or spill ring. -/
  | binPush (entry : BitVec 256)
  /-- TAKE (R420): A small core's TAKE closes its held entry and is given an entry or waits. -/
  | take (core : Nat)
  /-- DONE (R431): A small core's DONE closes its entry and reports small-core time to Keeper. -/
  | done (core : Nat)
  /-- HOLD_BEAT (R427): Every 4,000 t Bins sends a HOLD beat to each waiting TAKE. -/
  | holdBeat (core : Nat)
  /-- TAKE_TIMEOUT (R428): A TAKE that has waited BIN_TAKE_WAIT is answered with NO_WORK. -/
  | takeTimeout (core : Nat)
  /-- AFF_RELEASE (R421): An entry's affinity hint expires and waiting TAKEs are served again. -/
  | affRelease
  /-- NO_DISPATCHER (R429): A core's port answers a TAKE with NO_DISPATCHER after 10,000 t without an answer or beat. -/
  | noDispatcher (core : Nat)
  /-- REFILL (R433): While enough bank places are free, Bins moves entries from Store into banks. -/
  | refill
  /-- ACTIVITY_POINT (R454): At each whole multiple of 10,000 t Keeper judges partition activity and updates GVT and passes. -/
  | activityPoint
  /-- REGULATOR_REFILL (R457): At each whole multiple of 1,024 t the buckets gain RATE and Rafter reserved credits are reset. -/
  | regulatorRefill
  /-- ACCT_INTERVAL_CLOSE (R469): At each accounting interval's close Keeper writes slowdown and partition accounting records. -/
  | acctIntervalClose
  /-- SLICE_END (R449): A sliced partition's slice ends and Keeper chooses the next instance. -/
  | sliceEnd (pid : Nat)
  /-- PARTITION_CTL_WRITE (R442): A write of KPR_PART_CTL sets a partition in or out of service, its mode and share. -/
  | partitionCtlWrite (data : Word)
  /-- TILES_WRITE (R443): A write of KPR_PART_TILES gives tile groups, or raises TILE_CONFLICT. -/
  | tilesWrite (data : Word)
  /-- RAF_RESV_WRITE (R463): A write of KPR_PART_RAF_RESV sets reserved link shares, or raises RESV_OVER. -/
  | rafResvWrite (data : Word)
  /-- SAVE_DRAIN (R473): A drain save of a context is started by the driver or by Keeper. -/
  | saveDrain (cmd : Option Word) (inst : Nat)
  /-- SAVE_FREEZE (R476): A freeze save of a context chooses a halt Tally and sends FREEZE to followers. -/
  | saveFreeze (cmd : Option Word) (inst : Nat)
  /-- FREEZE_HALT (R476): At the halt Tally the array halts the instance and the image is written. -/
  | freezeHalt (inst : Nat)
  /-- SAVE_COMPLETE (R472): A context image is complete on every chip and the context becomes SAVED. -/
  | saveComplete (saved : Saved)
  /-- RESTORE (R484): A restore of a LOCAL context or EXPORT image is checked and started. -/
  | restore (cmd : Option Word) (inst : Nat) (source : RestoreSource)
  /-- RESTORE_COMPLETE (R483): A restore completes and the context becomes RESIDENT. -/
  | restoreComplete (inst : Nat)
  /-- DISCARD (R479): A DISCARD command frees an image and its Cellar copy. -/
  | discard (data : Word) (image : Option Image)
  /-- ACQUIRE (R491): The array acquires a semaphore for a context, which is granted, refused or waits, starting a donation when the holder is swapped. -/
  | acquire (sem : Nat) (inst : Nat)
  /-- RELEASE (R491): The holding context releases a semaphore, which passes to the next waiter. -/
  | release (sem : Nat) (inst : Nat)
  /-- DONATION_LONG (R496): A borrowed slice lasting KPR_DONATE_WARN raises DONATION_LONG. -/
  | donationLong (sem : Nat)
  /-- BLOCK_WINDOW_EXPIRY (R500): When every resident context has been blocked for KPR_BLOCK_WINDOW, Keeper evicts one and restores a runnable context. -/
  | blockWindowExpiry
  /-- LEAVE_WINDOW_START (R506): At each 10,000 t window start Keeper takes the delivered draw, sets the baseline, attributes energy and decides queued leave. -/
  | leaveWindowStart (draw : Option Nat)
  /-- LEAVE_START (R503): At a grant's start Tally the requester is told and its operation may start. -/
  | leaveStart
  /-- LEAVE_WAIT_EXPIRY (R510): A leave request that has waited KPR_LEAVE_WAIT is refused for PREFILL or marked late for CONFIG and BULK. -/
  | leaveWaitExpiry
  /-- LANE_TRAINED (R529): A Rafter lane completes training with FEC lock and moves to IDENT. -/
  | laneTrained (lane : Nat)
  /-- LANE_TRAIN_TIMEOUT (R529): A lane without lock for 500,000,000 t retrains, and is disabled on the third failure. -/
  | laneTrainTimeout (lane : Nat)
  /-- IDENT_TIMEOUT (R529): A lane in IDENT without a valid IDENT for 1,000,000 t returns to PHY. -/
  | identTimeout (lane : Nat)
  /-- IDENT_RESEND (R529): A lane in IDENT sends IDENT every 10,000 t until answered. -/
  | identResend (lane : Nat)
  /-- FEC_LOCK_LOSS (R529): A lane loses FEC lock and returns to PHY with LANE_DOWN. -/
  | fecLockLoss (lane : Nat)
  /-- LINK_SILENCE (R553): A link silent for 2 × INTERVAL goes to PHY and PEER_LOST is flooded for the silent chip. -/
  | linkSilence (link : Nat)
  /-- SPARE_JOIN (R524): A logical lane out of ACTIVE for 2 × INTERVAL asks for the spare, which trains as that lane. -/
  | spareJoin (lane : Nat)
  /-- IDENT (R530): A received IDENT frame places the lane ACTIVE, COURTESY or DISABLED and may remap it. -/
  | ident (lane : Nat) (frame : RxFrame)
  /-- SYNC_SEND (R547): At each whole multiple of INTERVAL the engine sends SYNC on every ACTIVE or COURTESY link. -/
  | syncSend
  /-- SYNC (R547): A received SYNC is answered with SYNC_REPLY and updates the status table and CST check. -/
  | sync (lane : Nat) (frame : RxFrame)
  /-- SYNC_REPLY (R550): A SYNC_REPLY yields θ, which steers the servo and moves the Tally state. -/
  | syncReply (lane : Nat) (frame : RxFrame)
  /-- TALLY_PARENT_TIMEOUT (R551): No Tally parent for 2 × INTERVAL moves ACQUIRING to FREE or LOCKED to HOLDOVER. -/
  | tallyParentTimeout
  /-- HOLDOVER_BOUND_RISE (R551): In HOLDOVER ERR_BOUND rises by 1 every 200,000 t, and above 50 t the engine enters FREE. -/
  | holdoverBoundRise
  /-- CREDIT (R536): A received CREDIT returns S credits, grants B holds or requests a resend. -/
  | credit (link : Nat) (frame : RxFrame)
  /-- CREDIT_REQ (R536): A received CREDIT_REQ asks for B-class buffers for an instance. -/
  | creditReq (link : Nat) (frame : RxFrame)
  /-- CREDIT_RETURN (R536): A received CREDIT_RETURN gives a B hold back in full. -/
  | creditReturn (link : Nat) (frame : RxFrame)
  /-- PEER_LOST (R554): A received PEER_LOST is forwarded and the engine drops the chip, declaring or discarding affected steps. -/
  | peerLost (link : Nat) (frame : RxFrame)
  /-- STEP_BCAST (R540): A received STEP_BCAST segment is forwarded, and a follower holding all stripes arms the step or sends STEP_LATE. -/
  | stepBcast (link : Nat) (frame : RxFrame)
  /-- STEP_LATE (R53): A lead receiving STEP_LATE declares the step lost, sends STEP_ABORT and recomposes. -/
  | stepLate (link : Nat) (frame : RxFrame)
  /-- STEP_ABORT (R53): A follower receiving STEP_ABORT tells its array to discard the step. -/
  | stepAbort (link : Nat) (frame : RxFrame)
  /-- FREEZE (R476): A follower receiving FREEZE halts at the halt Tally, or at once if it has passed. -/
  | freeze (link : Nat) (frame : RxFrame)
  /-- SHELVER (R544): A follower applies the Shelver records of a SHELVER frame in order. -/
  | shelver (link : Nat) (frame : RxFrame)
  /-- MIRROR (R593): A buddy stores received mirror entries and acknowledges them. -/
  | mirror (link : Nat) (frame : RxFrame)
  /-- MIRROR_ACK (R591): A received MIRROR_ACK releases held completion records. -/
  | mirrorAck (link : Nat) (frame : RxFrame)
  /-- ORDER (R546): A peer order frame is stamped, resolved and answered with ORDER_REPLY or SUPERSEDED. -/
  | order (link : Nat) (frame : RxFrame)
  /-- SUPERSEDED (R118): A received SUPERSEDED frame reports that the sender's order lost. -/
  | superseded (link : Nat) (frame : RxFrame)
  /-- ORDER_REPLY (R546): A received ORDER_REPLY reports the status of the sender's order. -/
  | orderReply (link : Nat) (frame : RxFrame)
  /-- MAP_LOAD (R527): A GO write of RAF_MAP_CTL starts loading a topology map. -/
  | mapLoad (data : Word)
  /-- MAP_LOAD_END (R528): A topology map load ends, taking effect or being refused, and lanes and edge floors are rechecked. -/
  | mapLoadEnd (image : List (BitVec 8)) (readOk : Bool)
  /-- BUDDY_TIMEOUT (R594): A buddy with no ACTIVE link for 2 × INTERVAL becomes LOST. -/
  | buddyTimeout (ring : Bool)
  /-- POWER_ON (R557): Package power good resets the engine. -/
  | powerOn
  /-- CHIP (R557): A chip warm reset resets the engine. -/
  | chip
  /-- DRIVER_RESET (R557): A GLB_RESET write with UNIT 0 and the correct key resets the engine. -/
  | driverReset (data : Word)
  /-- UNIT_RESET (R560): A GLB_RESET write with UNIT 1–12 and the correct key resets a disabled subsystem. -/
  | unitReset (data : Word)
  /-- RESET_KEY_BAD (R561): A GLB_RESET write with a wrong key has no effect and raises RESET_KEY_BAD. -/
  | resetKeyBad (data : Word)
  /-- CLOCK (R557): The clock monitor finds a clock off nominal or stopped and resets the engine. -/
  | clock
  /-- RESET_RELEASE (R556): An engine leaves reset, loading TAL_NOW from the management controller. -/
  | resetRelease
  /-- TALLY_COPY (R555): Every 10,000 t while LOCKED the management controller copies the engine's Tally. -/
  | tallyCopy
  /-- IMAGE_LOAD (R570): A GO write of GLB_IMG_CTL starts loading the configuration image. -/
  | imageLoad (data : Word)
  /-- IMAGE_LOAD_END (R571): A configuration image is accepted or refused; acceptance applies trims, retires marked lanes and clears OFFLINE. -/
  | imageLoadEnd (image : List (BitVec 8)) (readOk : Bool) (straps : Nat) (cxl : Bool)
  /-- GLB_INIT (R573): A GO write of GLB_INIT starts clearing the Store areas. -/
  | glbInit (data : Word)
  /-- INIT_DONE (R573): Clearing completes and STAGE becomes 3. -/
  | initDone
  /-- GLB_LOCK (R572): Setting GLB_LOCK makes RWL fields read-only and moves STAGE to 4. -/
  | glbLock (data : Word)
  /-- DOMAIN_WAKE_DONE (R565): A waking power domain completes its wake and is ON. -/
  | domainWakeDone (dom : Nat)
  /-- DOMAIN_IDLE_GATE (R565): An auto-gated domain idle for GLB_PWR_CTL.IDLE goes OFF. -/
  | domainIdleGate (dom : Nat)
  /-- LEDGER_BANK_RETAIN (R565): A Ledger bank without access for 10,000 t goes to RETAIN. -/
  | ledgerBankRetain (bank : Nat)
  /-- FAULT (R578): A detected fault is captured or counted and its unit acts, halting the unit or starting a quiesce by escalation. -/
  | fault (f : FaultIn)
  /-- QUIESCE_WAIT_EXPIRY (R585): Steps still outstanding RAS_QUIESCE_WAIT after the quiesce began are declared lost. -/
  | quiesceWaitExpiry
  /-- POP (R581): A write of RAS_UNIT_POP.POP moves CAP2 to CAP1 or clears CAP1 and HANDLING. -/
  | pop (data : Word)
  /-- TAKEOVER (R597): A GO write of RAS_TAKEOVER checks and takes over a lost lead's mirrored requests. -/
  | takeover (data : Word) (shadow : List ShadowReq)
  /-- CNT_SEL_WRITE (R602): A write of CNT_SEL_n sets a counter's source and filters and zeroes it. -/
  | cntSelWrite (n : Nat) (data : Word)
  /-- CLEAR (R603): A write of CNT_CTL.CLEAR sets every counter to 0. -/
  | clear (data : Word)
  /-- CNT_FREEZE_AT (R603): An armed freeze stops counting at the Tally in CNT_FREEZE_AT. -/
  | cntFreezeAt
  /-- OPEN (R609): The debug OPEN command opens the port when PORT_EN is set. -/
  | dbgOpen
  /-- CLOSE (R609): The debug CLOSE command clears breakpoints, resumes halted units and closes the port. -/
  | dbgClose
  /-- HALT_ENGINE (R610): The debug HALT command with ADDR[0] 0 halts the engine's fetching, composition and emission. -/
  | haltEngine
  /-- HALT_STEWARD (R611): The debug HALT command with ADDR[0] 1 halts the Steward before its next bundle. -/
  | haltSteward
  /-- RESUME_ENGINE (R610): The debug RESUME command with ADDR[0] 0 resumes the engine. -/
  | resumeEngine
  /-- RESUME_STEWARD (R611): The debug RESUME command with ADDR[0] 1 resumes the Steward. -/
  | resumeSteward
  /-- DBG_STEP (R611): The debug STEP command issues one Steward bundle and halts it again. -/
  | dbgStep
  /-- BRK_CFG (R612): The debug BRK_CFG command sets a breakpoint's type and actions. -/
  | brkCfg (addr : Nat)
  /-- BRK_VAL (R612): The debug BRK_VAL command sets a breakpoint's value. -/
  | brkVal (addr : Nat) (data : DWord)
  /-- READ (R614): The debug READ command returns a 64-bit word of an engine space. -/
  | dbgRead (space : Nat) (addr : Nat)
  /-- WRITE (R614): The debug WRITE command sets a word and its check bits while the required unit is halted. -/
  | dbgWrite (space : Nat) (addr : Nat) (data : DWord)
  /-- WRITE_RAW (R615): The debug WRITE_RAW command sets data bits and leaves check bits unchanged. -/
  | dbgWriteRaw (space : Nat) (addr : Nat) (data : DWord)
  /-- DEBUG (R609): The debug RESET command with the correct key is an engine reset with source DEBUG. -/
  | dbgReset (data : DWord)
  /-- BREAKPOINT_HIT (R612): A breakpoint hits, taking its halt, trace or event actions. -/
  | breakpointHit (brk : Nat)
deriving DecidableEq, Repr

end Sys2Proof
end

