-- ==== Sys2Proof/Decode.lean ====
section
/-!
DEFINITION. The command that a word spells. spec/opcode_table.json gives none of its rows any bits, so no word spells a
command here; the 128-bit bundles of the Steward (spec/06_steward_core.md R230) are read in Machine/Bundle.lean.
-/
namespace Sys2Proof

/-- The command that the word `w` of `nbits` bits spells by the opcode table: none, for no row has bits. -/
def decodeTableWord (_nbits _w : Nat) : Option Instr := none

end Sys2Proof
end

