-- ==== Sys2Proof/Config.lean ====
section
/-!
DEFINITION. What spec/ leaves open: free values, constants with no body, so that a statement about the model holds whatever
they are (assumption log 2).
-/
namespace Sys2Proof.Config

/-- A free value: the n-th value the spec does not state (frame addresses, words of memories whose layout the engine keeps
to itself, undefined context registers). -/
opaque freeValue : Nat → BitVec 64

/-- SHA-384 of the configuration public key, as the mask ROM holds it (spec/17_reset_power_domains_bringup.md R570 check 3);
the spec does not give its value. -/
opaque keyDigest : BitVec 384

end Sys2Proof.Config
end

