-- ==== Sys2Proof/Machine/RegTable.lean ====
section
/-!
DEFINITION. The register map of spec/20_register_map.md R616: one row per register, with its reset word and the bits of
each access type of R7 (spec/00_scope.md). Rows carry the layouts that the chapters of spec/ give.
-/
namespace Sys2Proof.Machine

/-- What selects the copy of a register: R619. `none`: one copy. -/
inductive Sel where
  | none | hatRing | gatPart | gatInst | cmpPart | cmpInst | stwSlot | shvPart | shvInst | shvModel
  | sivGrammar | binLevel | binCluster | kprPart | kprSem | rasUnit
deriving DecidableEq, Repr

/-- The place of a register in a 64-bit quantity of R6. -/
inductive PairPos where
  | single | low | high
deriving DecidableEq, Repr

/-- One register: offset, copies and stride, selector, reset word, and the bits of each access type (R7). `dag` is the
mark of R616: the register may be written while its window's enable field is set. -/
structure RegRow where
  name : String
  off : Nat
  n : Nat
  stride : Nat
  sel : Sel
  pair : PairPos
  dag : Bool
  rst : Word
  rw : Word
  rwsE : Word
  rwsI : Word
  rwl : Word
  w1c : Word
  w1s : Word
  wo : Word
  ro : Word
deriving DecidableEq, Repr

/-- Registers of window GLB (R616), part 0. -/
def regsGlb0 : List RegRow :=
  [ ⟨"GLB_ID", 0x0, 1, 0, .none, .single, false, 0xB00004,
     0, 0, 0, 0, 0, 0, 0, 0xFFFFFF⟩,
    ⟨"GLB_STATUS", 0x4, 1, 0, .none, .single, false, 0x1,
     0, 0, 0, 0, 0, 0, 0, 0xF⟩,
    ⟨"GLB_LOCK", 0x8, 1, 0, .none, .single, false, 0,
     0, 0, 0, 0, 0, 0x1, 0, 0⟩,
    ⟨"GLB_RESET", 0xC, 1, 0, .none, .single, false, 0,
     0, 0, 0, 0, 0, 0, 0xFFFFF, 0⟩,
    ⟨"GLB_RESET_CAUSE", 0x10, 1, 0, .none, .single, false, 0x1,
     0, 0, 0, 0, 0, 0, 0, 0x7⟩,
    ⟨"GLB_SERIAL_LO", 0x14, 1, 0, .none, .low, false, 0,
     0, 0, 0, 0, 0, 0, 0, 0xFFFFFFFF⟩,
    ⟨"GLB_SERIAL_HI", 0x18, 1, 0, .none, .high, false, 0,
     0, 0, 0, 0, 0, 0, 0, 0xFFFFFFFF⟩,
    ⟨"GLB_IMG_ADDR_LO", 0x20, 1, 0, .none, .low, false, 0,
     0xFFFFFFC0, 0, 0, 0, 0, 0, 0, 0⟩,
    ⟨"GLB_IMG_ADDR_HI", 0x24, 1, 0, .none, .high, false, 0,
     0xFFFFFFFF, 0, 0, 0, 0, 0, 0, 0⟩,
    ⟨"GLB_IMG_CTL", 0x28, 1, 0, .none, .single, false, 0,
     0, 0, 0, 0, 0, 0, 0x80000000, 0xF1⟩,
    ⟨"GLB_INIT", 0x2C, 1, 0, .none, .single, false, 0,
     0, 0, 0, 0, 0, 0, 0x80000000, 0x3⟩,
    ⟨"GLB_PWR_CTL", 0x40, 1, 0, .none, .single, false, 0x186A001,
     0xFFFFFF01, 0, 0, 0, 0, 0, 0, 0⟩,
    ⟨"GLB_PD_STATE_n", 0x80, 7, 4, .none, .single, false, 0,
     0, 0, 0, 0, 0, 0, 0, 0xFFFFFFFF⟩ ]

/-- Registers of window HAT (R616), part 0. -/
def regsHat0 : List RegRow :=
  [ ⟨"HAT_CTL", 0x1000, 1, 0, .none, .single, false, 0x3E800,
     0xFFFFFF01, 0, 0, 0, 0, 0, 0, 0⟩,
    ⟨"HAT_STATUS", 0x1004, 1, 0, .none, .single, false, 0x1,
     0, 0, 0, 0, 0, 0, 0, 0x1FF0F⟩,
    ⟨"HAT_HELLO_OFFER", 0x1010, 1, 0, .none, .single, false, 0x3020200,
     0, 0, 0, 0, 0, 0, 0, 0xFFFFFFFF⟩,
    ⟨"HAT_HELLO_CAPS", 0x1014, 1, 0, .none, .single, false, 0x1E,
     0, 0, 0, 0, 0, 0, 0, 0x1F⟩,
    ⟨"HAT_HELLO_SELECT", 0x1018, 1, 0, .none, .single, false, 0,
     0xFFFF, 0, 0, 0, 0, 0, 0x80000000, 0⟩,
    ⟨"HAT_HELLO_NONCE", 0x101C, 1, 0, .none, .single, false, 0,
     0xFFFFFFFF, 0, 0, 0, 0, 0, 0, 0⟩,
    ⟨"HAT_HELLO_RESULT", 0x1020, 1, 0, .none, .single, false, 0,
     0, 0, 0, 0, 0, 0, 0, 0xFFFF00F3⟩,
    ⟨"HAT_HELLO_ECHO", 0x1024, 1, 0, .none, .single, false, 0,
     0, 0, 0, 0, 0, 0, 0, 0xFFFFFFFF⟩,
    ⟨"HAT_RING_SEL", 0x1040, 1, 0, .none, .single, true, 0,
     0xFF, 0, 0, 0, 0, 0, 0, 0⟩,
    ⟨"HAT_RING_BASE_LO", 0x1044, 1, 0, .hatRing, .low, true, 0,
     0xFFFFF000, 0, 0, 0, 0, 0, 0, 0⟩,
    ⟨"HAT_RING_BASE_HI", 0x1048, 1, 0, .hatRing, .high, true, 0,
     0xFFFFFFFF, 0, 0, 0, 0, 0, 0, 0⟩,
    ⟨"HAT_RING_DB_LO", 0x104C, 1, 0, .hatRing, .low, true, 0,
     0xFFFFFFC0, 0, 0, 0, 0, 0, 0, 0⟩,
    ⟨"HAT_RING_DB_HI", 0x1050, 1, 0, .hatRing, .high, true, 0,
     0xFFFFFFFF, 0, 0, 0, 0, 0, 0, 0⟩,
    ⟨"HAT_RING_CFG", 0x1054, 1, 0, .hatRing, .single, true, 0x10000000,
     0x3FFF7FFF, 0, 0, 0, 0, 0, 0, 0⟩,
    ⟨"HAT_RING_HEAD", 0x1058, 1, 0, .hatRing, .single, false, 0,
     0, 0, 0, 0, 0, 0, 0, 0xFFFFFFFF⟩,
    ⟨"HAT_RING_TAIL", 0x105C, 1, 0, .hatRing, .single, false, 0,
     0, 0, 0, 0, 0, 0, 0, 0xFFFFFFFF⟩,
    ⟨"HAT_EVT_LOST", 0x1060, 1, 0, .hatRing, .single, false, 0,
     0, 0, 0, 0, 0xFFFFFFFF, 0, 0, 0⟩,
    ⟨"HAT_OVF_BASE_LO", 0x1064, 1, 0, .none, .low, false, 0,
     0xFFE00000, 0, 0, 0, 0, 0, 0, 0⟩,
    ⟨"HAT_OVF_BASE_HI", 0x1068, 1, 0, .none, .high, false, 0,
     0xFFFFFFFF, 0, 0, 0, 0, 0, 0, 0⟩,
    ⟨"HAT_OVF_COUNT", 0x106C, 1, 0, .none, .single, false, 0,
     0, 0, 0, 0, 0, 0, 0, 0x7FFFFFF⟩ ]

/-- Registers of window LED (R616), part 0. -/
def regsLed0 : List RegRow :=
  [ ⟨"LED_CTL", 0x2000, 1, 0, .none, .single, false, 0,
     0x1, 0, 0, 0, 0, 0, 0, 0⟩,
    ⟨"LED_CAP", 0x2004, 1, 0, .none, .single, false, 0x20000,
     0x7FFFFF, 0, 0, 0, 0, 0, 0, 0⟩,
    ⟨"LED_SPILL_BASE_LO", 0x2008, 1, 0, .none, .low, false, 0,
     0xFFF00000, 0, 0, 0, 0, 0, 0, 0⟩,
    ⟨"LED_SPILL_BASE_HI", 0x200C, 1, 0, .none, .high, false, 0,
     0xFFFFFFFF, 0, 0, 0, 0, 0, 0, 0⟩,
    ⟨"LED_HIST_BASE_LO", 0x2010, 1, 0, .none, .low, false, 0,
     0xFFFFF000, 0, 0, 0, 0, 0, 0, 0⟩,
    ⟨"LED_HIST_BASE_HI", 0x2014, 1, 0, .none, .high, false, 0,
     0xFFFFFFFF, 0, 0, 0, 0, 0, 0, 0⟩,
    ⟨"LED_HIST_PAGES", 0x2018, 1, 0, .none, .single, false, 0,
     0x1FFFFFF, 0, 0, 0, 0, 0, 0, 0⟩,
    ⟨"LED_STATUS", 0x2020, 1, 0, .none, .single, false, 0,
     0, 0, 0, 0, 0, 0, 0, 0x7FFFFF⟩,
    ⟨"LED_HOT", 0x2024, 1, 0, .none, .single, false, 0,
     0, 0, 0, 0, 0, 0, 0, 0x3FFFF⟩,
    ⟨"LED_HIST_FREE", 0x2028, 1, 0, .none, .single, false, 0,
     0, 0, 0, 0, 0, 0, 0, 0x1FFFFFF⟩,
    ⟨"LED_PEEK_SLOT", 0x2030, 1, 0, .none, .single, true, 0,
     0xFFFFFF, 0, 0, 0, 0, 0, 0, 0⟩,
    ⟨"LED_PEEK_DATA_n", 0x2080, 32, 4, .none, .single, false, 0,
     0, 0, 0, 0, 0, 0, 0, 0xFFFFFFFF⟩ ]

/-- Registers of window GAT (R616), part 0. -/
def regsGat0 : List RegRow :=
  [ ⟨"GAT_CTL", 0x3000, 1, 0, .none, .single, false, 0x4000,
     0x1, 0xFF00, 0, 0, 0, 0, 0, 0⟩,
    ⟨"GAT_MARGIN", 0x3004, 1, 0, .none, .single, false, 0x2710,
     0, 0xFFFFFF, 0, 0, 0, 0, 0, 0⟩,
    ⟨"GAT_CHIP_STORE", 0x3008, 1, 0, .none, .single, false, 0x3C0,
     0, 0, 0, 0xFFF, 0, 0, 0, 0⟩,
    ⟨"GAT_PART_SEL", 0x3010, 1, 0, .none, .single, true, 0,
     0x3F, 0, 0, 0, 0, 0, 0, 0⟩,
    ⟨"GAT_PART_LIVE_MAX", 0x3014, 1, 0, .gatPart, .single, false, 0,
     0, 0x7FFFFF, 0, 0, 0, 0, 0, 0⟩,
    ⟨"GAT_PART_CTX_MAX", 0x3018, 1, 0, .gatPart, .single, false, 0,
     0, 0xFFFFFFFF, 0, 0, 0, 0, 0, 0⟩,
    ⟨"GAT_PART_RATE", 0x301C, 1, 0, .gatPart, .single, false, 0,
     0, 0xFFFFFF, 0, 0, 0, 0, 0, 0⟩,
    ⟨"GAT_PART_BURST", 0x3020, 1, 0, .gatPart, .single, false, 0,
     0, 0xFFFFFFFF, 0, 0, 0, 0, 0, 0⟩,
    ⟨"GAT_PART_REQ", 0x3024, 1, 0, .gatPart, .single, false, 0x3F,
     0, 0x3F, 0, 0, 0, 0, 0, 0⟩,
    ⟨"GAT_PART_REQ_CTX", 0x3028, 1, 0, .gatPart, .single, false, 0,
     0, 0xFFFFFFFF, 0, 0, 0, 0, 0, 0⟩,
    ⟨"GAT_PART_DEFER", 0x302C, 1, 0, .gatPart, .single, false, 0x100001,
     0, 0xFFFF01, 0, 0, 0, 0, 0, 0⟩,
    ⟨"GAT_PART_DEFER_TTL", 0x3030, 1, 0, .gatPart, .single, false, 0,
     0, 0xFFFFFFFF, 0, 0, 0, 0, 0, 0⟩,
    ⟨"GAT_PART_KV_AHEAD", 0x3034, 1, 0, .gatPart, .single, false, 0,
     0, 0xFFFF, 0, 0, 0, 0, 0, 0⟩,
    ⟨"GAT_PART_USE", 0x3040, 1, 0, .gatPart, .single, false, 0,
     0, 0, 0, 0, 0, 0, 0, 0x7FFFFF⟩,
    ⟨"GAT_PART_CTX_USE", 0x3044, 1, 0, .gatPart, .single, false, 0,
     0, 0, 0, 0, 0, 0, 0, 0xFFFFFFFF⟩,
    ⟨"GAT_PART_BUCKET", 0x3048, 1, 0, .gatPart, .single, false, 0,
     0, 0, 0, 0, 0, 0, 0, 0xFFFFFFFF⟩,
    ⟨"GAT_PART_DEFERRED", 0x304C, 1, 0, .gatPart, .single, false, 0,
     0, 0, 0, 0, 0, 0, 0, 0xFFFF⟩,
    ⟨"GAT_INST_SEL", 0x3080, 1, 0, .none, .single, true, 0,
     0xF, 0, 0, 0, 0, 0, 0, 0⟩,
    ⟨"GAT_INST_STEP_EST", 0x3084, 1, 0, .gatInst, .single, true, 0xEA60,
     0xFFFFFF, 0, 0, 0, 0, 0, 0, 0⟩,
    ⟨"GAT_INST_CHUNK_EST", 0x3088, 1, 0, .gatInst, .single, false, 0x200,
     0, 0, 0x3FFFF, 0, 0, 0, 0, 0⟩ ]

/-- Registers of window GAT (R616), part 1. -/
def regsGat1 : List RegRow :=
  [ ⟨"GAT_INST_TPS", 0x308C, 1, 0, .gatInst, .single, false, 0x100,
     0, 0, 0xFFFF, 0, 0, 0, 0, 0⟩ ]

/-- Registers of window CMP (R616), part 0. -/
def regsCmp0 : List RegRow :=
  [ ⟨"CMP_CTL", 0x4000, 1, 0, .none, .single, false, 0,
     0x1, 0, 0, 0, 0, 0, 0, 0⟩,
    ⟨"CMP_STATUS", 0x4004, 1, 0, .none, .single, false, 0,
     0, 0, 0, 0, 0, 0, 0, 0x1F1F⟩,
    ⟨"CMP_PKT_BASE_LO", 0x4008, 1, 0, .none, .low, false, 0,
     0xFC000000, 0, 0, 0, 0, 0, 0, 0⟩,
    ⟨"CMP_PKT_BASE_HI", 0x400C, 1, 0, .none, .high, false, 0,
     0xFFFFFFFF, 0, 0, 0, 0, 0, 0, 0⟩,
    ⟨"CMP_DRAFT_BASE_LO", 0x4010, 1, 0, .none, .low, false, 0,
     0xC0000000, 0, 0, 0, 0, 0, 0, 0⟩,
    ⟨"CMP_DRAFT_BASE_HI", 0x4014, 1, 0, .none, .high, false, 0,
     0xFFFFFFFF, 0, 0, 0, 0, 0, 0, 0⟩,
    ⟨"CMP_DRAFT_COUNT", 0x4018, 1, 0, .none, .single, false, 0,
     0x3FFFF, 0, 0, 0, 0, 0, 0, 0⟩,
    ⟨"CMP_URGENT", 0x401C, 1, 0, .none, .single, false, 0x30D40,
     0, 0xFFFFFFFF, 0, 0, 0, 0, 0, 0⟩,
    ⟨"CMP_PART_SEL", 0x4020, 1, 0, .none, .single, true, 0,
     0x3F, 0, 0, 0, 0, 0, 0, 0⟩,
    ⟨"CMP_PART_PROG", 0x4024, 1, 0, .cmpPart, .single, false, 0,
     0, 0x7, 0, 0, 0, 0, 0, 0⟩,
    ⟨"CMP_INST_SEL", 0x4040, 1, 0, .none, .single, true, 0,
     0xF, 0, 0, 0, 0, 0, 0, 0⟩,
    ⟨"CMP_INST_CFG", 0x4044, 1, 0, .cmpInst, .single, false, 0x40000000,
     0, 0, 0x7FFF0000, 0, 0, 0, 0, 0x33F⟩,
    ⟨"CMP_INST_BUDGET", 0x4048, 1, 0, .cmpInst, .single, false, 0x40000,
     0, 0, 0x7FFFF, 0, 0, 0, 0, 0⟩,
    ⟨"CMP_INST_CHUNK", 0x404C, 1, 0, .cmpInst, .single, false, 0x800,
     0, 0, 0x7FFFF, 0, 0, 0, 0, 0⟩,
    ⟨"CMP_INST_EST_FIXED", 0x4050, 1, 0, .cmpInst, .single, false, 0x2710,
     0, 0, 0xFFFFFF, 0, 0, 0, 0, 0⟩,
    ⟨"CMP_INST_EST_PER_KTOK", 0x4054, 1, 0, .cmpInst, .single, false, 0x1388,
     0, 0, 0xFFFFFF, 0, 0, 0, 0, 0⟩,
    ⟨"CMP_INST_EPOCH", 0x4058, 1, 0, .cmpInst, .single, false, 0,
     0, 0, 0, 0, 0, 0, 0, 0xFFF1FF⟩,
    ⟨"CMP_INST_STEP_LO", 0x4060, 1, 0, .cmpInst, .low, false, 0,
     0, 0, 0, 0, 0, 0, 0, 0xFFFFFFFF⟩,
    ⟨"CMP_INST_STEP_HI", 0x4064, 1, 0, .cmpInst, .high, false, 0,
     0, 0, 0, 0, 0, 0, 0, 0xFFFFFFFF⟩,
    ⟨"CMP_INST_LAST", 0x4068, 1, 0, .cmpInst, .single, false, 0,
     0, 0, 0, 0, 0, 0, 0, 0x7FFFFFFF⟩ ]

/-- Registers of window CMP (R616), part 1. -/
def regsCmp1 : List RegRow :=
  [ ⟨"CMP_INST_TOKENS", 0x406C, 1, 0, .cmpInst, .single, false, 0,
     0, 0, 0, 0, 0, 0, 0, 0x7FFFF⟩,
    ⟨"CMP_REJECT", 0x4080, 1, 0, .none, .single, false, 0,
     0, 0, 0, 0, 0xFFFFFFFF, 0, 0, 0⟩,
    ⟨"CMP_VOID", 0x4084, 1, 0, .none, .single, false, 0,
     0, 0, 0, 0, 0xFFFFFFFF, 0, 0, 0⟩ ]

/-- Registers of window STW (R616), part 0. -/
def regsStw0 : List RegRow :=
  [ ⟨"STW_CTL", 0x5000, 1, 0, .none, .single, false, 0,
     0x1, 0, 0, 0, 0, 0, 0, 0⟩,
    ⟨"STW_ISA", 0x5004, 1, 0, .none, .single, false, 0x101,
     0, 0, 0, 0, 0, 0, 0, 0xFFFF⟩,
    ⟨"STW_LIMIT", 0x5008, 1, 0, .none, .single, false, 0xBB80,
     0, 0xFFFF, 0, 0, 0, 0, 0, 0⟩,
    ⟨"STW_LOAD_ADDR_LO", 0x5010, 1, 0, .none, .low, true, 0,
     0xFFFFFFC0, 0, 0, 0, 0, 0, 0, 0⟩,
    ⟨"STW_LOAD_ADDR_HI", 0x5014, 1, 0, .none, .high, true, 0,
     0xFFFFFFFF, 0, 0, 0, 0, 0, 0, 0⟩,
    ⟨"STW_LOAD_CTL", 0x5018, 1, 0, .none, .single, true, 0x1,
     0xF, 0, 0, 0, 0, 0, 0x80000000, 0⟩,
    ⟨"STW_LOAD_STATUS", 0x501C, 1, 0, .none, .single, false, 0,
     0, 0, 0, 0, 0, 0, 0, 0xF1⟩,
    ⟨"STW_SLOT_SEL", 0x5020, 1, 0, .none, .single, true, 0,
     0x7, 0, 0, 0, 0, 0, 0, 0⟩,
    ⟨"STW_SLOT_INFO", 0x5024, 1, 0, .stwSlot, .single, false, 0,
     0, 0, 0, 0, 0, 0, 0, 0xFFFF3FFF⟩,
    ⟨"STW_SLOT_ID_LO", 0x5028, 1, 0, .stwSlot, .low, false, 0,
     0, 0, 0, 0, 0, 0, 0, 0xFFFFFFFF⟩,
    ⟨"STW_SLOT_ID_HI", 0x502C, 1, 0, .stwSlot, .high, false, 0,
     0, 0, 0, 0, 0, 0, 0, 0xFFFFFFFF⟩,
    ⟨"STW_OVERRUNS", 0x5030, 1, 0, .none, .single, false, 0,
     0, 0, 0, 0, 0xFFFFFFFF, 0, 0, 0⟩,
    ⟨"STW_FAULTS", 0x5034, 1, 0, .none, .single, false, 0,
     0, 0, 0, 0, 0xFFFFFFFF, 0, 0, 0⟩,
    ⟨"STW_LAST_FAULT", 0x5038, 1, 0, .none, .single, false, 0,
     0, 0, 0, 0, 0, 0, 0, 0xFFFFF⟩,
    ⟨"STW_VIEW_PAGE", 0x5040, 1, 0, .none, .single, true, 0,
     0x3F, 0, 0, 0, 0, 0, 0, 0⟩ ]

/-- Registers of window SHV (R616), part 0. -/
def regsShv0 : List RegRow :=
  [ ⟨"SHV_CTL", 0x6000, 1, 0, .none, .single, false, 0,
     0x1, 0, 0, 0, 0, 0, 0, 0⟩,
    ⟨"SHV_STATUS", 0x6004, 1, 0, .none, .single, false, 0,
     0, 0, 0, 0, 0, 0, 0, 0x3FF⟩,
    ⟨"SHV_CRT_BASE_LO", 0x6008, 1, 0, .none, .low, false, 0,
     0x80000000, 0, 0, 0, 0, 0, 0, 0⟩,
    ⟨"SHV_CRT_BASE_HI", 0x600C, 1, 0, .none, .high, false, 0,
     0xFFFFFFFF, 0, 0, 0, 0, 0, 0, 0⟩,
    ⟨"SHV_MAP_BASE_LO", 0x6010, 1, 0, .none, .low, false, 0,
     0xFFFFF000, 0, 0, 0, 0, 0, 0, 0⟩,
    ⟨"SHV_MAP_BASE_HI", 0x6014, 1, 0, .none, .high, false, 0,
     0xFFFFFFFF, 0, 0, 0, 0, 0, 0, 0⟩,
    ⟨"SHV_MAP_NODES", 0x6018, 1, 0, .none, .single, false, 0,
     0x3FFFFFF, 0, 0, 0, 0, 0, 0, 0⟩,
    ⟨"SHV_MAP_FREE", 0x601C, 1, 0, .none, .single, false, 0,
     0, 0, 0, 0, 0, 0, 0, 0x3FFFFFF⟩,
    ⟨"SHV_PFX_BASE_LO", 0x6020, 1, 0, .none, .low, false, 0,
     0xFFFFF000, 0, 0, 0, 0, 0, 0, 0⟩,
    ⟨"SHV_PFX_BASE_HI", 0x6024, 1, 0, .none, .high, false, 0,
     0xFFFFFFFF, 0, 0, 0, 0, 0, 0, 0⟩,
    ⟨"SHV_PFX_CFG", 0x6028, 1, 0, .none, .single, false, 0x40010,
     0x1F, 0x3FFFF00, 0, 0, 0, 0, 0, 0⟩,
    ⟨"SHV_SIB_BASE_LO", 0x602C, 1, 0, .none, .low, false, 0,
     0xFFFFF000, 0, 0, 0, 0, 0, 0, 0⟩,
    ⟨"SHV_SIB_BASE_HI", 0x6030, 1, 0, .none, .high, false, 0,
     0xFFFFFFFF, 0, 0, 0, 0, 0, 0, 0⟩,
    ⟨"SHV_FDIR_BASE_LO", 0x6034, 1, 0, .none, .low, false, 0,
     0xFF000000, 0, 0, 0, 0, 0, 0, 0⟩,
    ⟨"SHV_FDIR_BASE_HI", 0x6038, 1, 0, .none, .high, false, 0,
     0xFFFFFFFF, 0, 0, 0, 0, 0, 0, 0⟩,
    ⟨"SHV_STORE_BASE_LO", 0x603C, 1, 0, .none, .low, false, 0,
     0xC0000000, 0, 0, 0, 0, 0, 0, 0⟩,
    ⟨"SHV_STORE_BASE_HI", 0x6040, 1, 0, .none, .high, false, 0,
     0xFFFFFFFF, 0, 0, 0, 0, 0, 0, 0⟩,
    ⟨"SHV_STORE_SIZE", 0x6044, 1, 0, .none, .single, false, 0x3C0,
     0x7FF, 0, 0, 0, 0, 0, 0, 0⟩,
    ⟨"SHV_LARDER_BASE_LO", 0x6048, 1, 0, .none, .low, false, 0,
     0, 0, 0, 0xFFF00000, 0, 0, 0, 0⟩,
    ⟨"SHV_LARDER_BASE_HI", 0x604C, 1, 0, .none, .high, false, 0,
     0, 0, 0, 0xFFFFFFFF, 0, 0, 0, 0⟩ ]

/-- Registers of window SHV (R616), part 1. -/
def regsShv1 : List RegRow :=
  [ ⟨"SHV_WM", 0x6050, 1, 0, .none, .single, false, 0xF0D04020,
     0, 0xFFFFFFFF, 0, 0, 0, 0, 0, 0⟩,
    ⟨"SHV_PROMOTE", 0x6054, 1, 0, .none, .single, false, 0x40,
     0, 0xFFFF, 0, 0, 0, 0, 0, 0⟩,
    ⟨"SHV_PART_SEL", 0x6060, 1, 0, .none, .single, true, 0,
     0x3F, 0, 0, 0, 0, 0, 0, 0⟩,
    ⟨"SHV_PART_SHARE", 0x6064, 1, 0, .shvPart, .single, false, 0xC0,
     0, 0xFF, 0, 0, 0, 0, 0, 0⟩,
    ⟨"SHV_INST_SEL", 0x6080, 1, 0, .none, .single, true, 0,
     0xF, 0, 0, 0, 0, 0, 0, 0⟩,
    ⟨"SHV_INST_QUOTA", 0x6084, 1, 0, .shvInst, .single, false, 0,
     0, 0, 0xFFFFFF, 0, 0, 0, 0, 0⟩,
    ⟨"SHV_INST_USE", 0x6088, 1, 0, .shvInst, .single, false, 0,
     0, 0, 0, 0, 0, 0, 0, 0xFFFFFF⟩,
    ⟨"SHV_INST_CELLAR", 0x608C, 1, 0, .shvInst, .single, false, 0,
     0, 0, 0xFFFFFFF, 0, 0, 0, 0, 0⟩,
    ⟨"SHV_INST_CELLAR_USE", 0x6090, 1, 0, .shvInst, .single, false, 0,
     0, 0, 0, 0, 0, 0, 0, 0xFFFFFF⟩,
    ⟨"SHV_INST_SHELF", 0x6094, 1, 0, .shvInst, .single, false, 0,
     0, 0, 0, 0, 0, 0, 0, 0x7FF⟩,
    ⟨"SHV_INST_STREAM", 0x6098, 1, 0, .shvInst, .single, false, 0,
     0, 0, 0, 0, 0, 0, 0, 0xFFFF⟩,
    ⟨"SHV_MODEL_SEL", 0x60A0, 1, 0, .none, .single, true, 0,
     0xFFF, 0, 0, 0, 0, 0, 0, 0⟩,
    ⟨"SHV_MODEL_STATE", 0x60A4, 1, 0, .shvModel, .single, false, 0,
     0, 0, 0, 0, 0, 0, 0, 0xFF⟩,
    ⟨"SHV_PFX_HITS", 0x60C0, 1, 0, .none, .single, false, 0,
     0, 0, 0, 0, 0xFFFFFFFF, 0, 0, 0⟩,
    ⟨"SHV_SPLITS", 0x60C4, 1, 0, .none, .single, false, 0,
     0, 0, 0, 0, 0xFFFFFFFF, 0, 0, 0⟩,
    ⟨"SHV_MOVES", 0x60C8, 1, 0, .none, .single, false, 0,
     0, 0, 0, 0, 0xFFFFFFFF, 0, 0, 0⟩,
    ⟨"SHV_PIN_FAIL", 0x60CC, 1, 0, .none, .single, false, 0,
     0, 0, 0, 0, 0xFFFFFFFF, 0, 0, 0⟩ ]

/-- Registers of window PAN (R616), part 0. -/
def regsPan0 : List RegRow :=
  [ ⟨"PAN_CTL", 0x7000, 1, 0, .none, .single, false, 0,
     0x1, 0, 0, 0, 0, 0, 0, 0⟩,
    ⟨"PAN_STATUS", 0x7004, 1, 0, .none, .single, false, 0xF,
     0, 0, 0, 0, 0, 0, 0, 0xFFFFF1F⟩,
    ⟨"PAN_SEED_n", 0x7010, 4, 4, .none, .single, false, 0,
     0, 0, 0, 0xFFFFFFFF, 0, 0, 0, 0⟩,
    ⟨"PAN_CMDS", 0x7040, 1, 0, .none, .single, false, 0,
     0, 0, 0, 0, 0xFFFFFFFF, 0, 0, 0⟩,
    ⟨"PAN_SAT", 0x7044, 1, 0, .none, .single, false, 0,
     0, 0, 0, 0, 0xFFFFFFFF, 0, 0, 0⟩,
    ⟨"PAN_NONFINITE", 0x7048, 1, 0, .none, .single, false, 0,
     0, 0, 0, 0, 0xFFFFFFFF, 0, 0, 0⟩,
    ⟨"PAN_FAILS", 0x704C, 1, 0, .none, .single, false, 0,
     0, 0, 0, 0, 0xFFFFFFFF, 0, 0, 0⟩,
    ⟨"PAN_LAST_CMD_n", 0x7080, 8, 4, .none, .single, false, 0,
     0, 0, 0, 0, 0, 0, 0, 0xFFFFFFFF⟩ ]

/-- Registers of window SMP (R616), part 0. -/
def regsSmp0 : List RegRow :=
  [ ⟨"SMP_CTL", 0x8000, 1, 0, .none, .single, false, 0,
     0x1, 0, 0, 0, 0, 0, 0, 0⟩,
    ⟨"SMP_STATUS", 0x8004, 1, 0, .none, .single, false, 0x440,
     0, 0, 0, 0, 0, 0, 0, 0xFF077F⟩,
    ⟨"SMP_JOIN_TIMEOUT", 0x8008, 1, 0, .none, .single, false, 0x4E20,
     0, 0xFFFFFF, 0, 0, 0, 0, 0, 0⟩,
    ⟨"SMP_CTRL_BASE_LO", 0x8010, 1, 0, .none, .low, false, 0,
     0xFF000000, 0, 0, 0, 0, 0, 0, 0⟩,
    ⟨"SMP_CTRL_BASE_HI", 0x8014, 1, 0, .none, .high, false, 0,
     0xFFFFFFFF, 0, 0, 0, 0, 0, 0, 0⟩,
    ⟨"SMP_PEN_BASE_LO", 0x8018, 1, 0, .none, .low, false, 0,
     0xF0000000, 0, 0, 0, 0, 0, 0, 0⟩,
    ⟨"SMP_PEN_BASE_HI", 0x801C, 1, 0, .none, .high, false, 0,
     0xFFFFFFFF, 0, 0, 0, 0, 0, 0, 0⟩,
    ⟨"SMP_RETIRED_n", 0x8020, 3, 4, .none, .single, false, 0,
     0, 0, 0, 0, 0, 0, 0, 0xFFFFFFFF⟩,
    ⟨"SMP_ROWS", 0x8040, 1, 0, .none, .single, false, 0,
     0, 0, 0, 0, 0xFFFFFFFF, 0, 0, 0⟩,
    ⟨"SMP_DISCARD_EPOCH", 0x8044, 1, 0, .none, .single, false, 0,
     0, 0, 0, 0, 0xFFFFFFFF, 0, 0, 0⟩,
    ⟨"SMP_DISCARD_STALE", 0x8048, 1, 0, .none, .single, false, 0,
     0, 0, 0, 0, 0xFFFFFFFF, 0, 0, 0⟩,
    ⟨"SMP_DISCARD_BAD", 0x804C, 1, 0, .none, .single, false, 0,
     0, 0, 0, 0, 0xFFFFFFFF, 0, 0, 0⟩,
    ⟨"SMP_LOST", 0x8050, 1, 0, .none, .single, false, 0,
     0, 0, 0, 0, 0xFFFFFFFF, 0, 0, 0⟩,
    ⟨"SMP_NONFINITE", 0x8054, 1, 0, .none, .single, false, 0,
     0, 0, 0, 0, 0xFFFFFFFF, 0, 0, 0⟩,
    ⟨"SMP_REFINE", 0x8058, 1, 0, .none, .single, false, 0,
     0, 0, 0, 0, 0xFFFFFFFF, 0, 0, 0⟩,
    ⟨"SMP_DRAFT_NODES", 0x805C, 1, 0, .none, .single, false, 0,
     0, 0, 0, 0, 0xFFFFFFFF, 0, 0, 0⟩,
    ⟨"SMP_DRAFT_ACCEPTED", 0x8060, 1, 0, .none, .single, false, 0,
     0, 0, 0, 0, 0xFFFFFFFF, 0, 0, 0⟩,
    ⟨"SMP_LANE_MAP_n", 0x8100, 64, 4, .none, .single, false, 0x80,
     0, 0, 0, 0, 0, 0, 0, 0xFF⟩ ]

/-- Registers of window SIV (R616), part 0. -/
def regsSiv0 : List RegRow :=
  [ ⟨"SIV_CTL", 0x9000, 1, 0, .none, .single, false, 0,
     0x1, 0, 0, 0, 0, 0, 0, 0⟩,
    ⟨"SIV_STATUS", 0x9004, 1, 0, .none, .single, false, 0xF,
     0, 0, 0, 0, 0, 0, 0, 0xFFF0F⟩,
    ⟨"SIV_DIR_BASE_LO", 0x9008, 1, 0, .none, .low, false, 0,
     0xFFE00000, 0, 0, 0, 0, 0, 0, 0⟩,
    ⟨"SIV_DIR_BASE_HI", 0x900C, 1, 0, .none, .high, false, 0,
     0xFFFFFFFF, 0, 0, 0, 0, 0, 0, 0⟩,
    ⟨"SIV_STACK_BASE_LO", 0x9010, 1, 0, .none, .low, false, 0,
     0xFFFFF000, 0, 0, 0, 0, 0, 0, 0⟩,
    ⟨"SIV_STACK_BASE_HI", 0x9014, 1, 0, .none, .high, false, 0,
     0xFFFFFFFF, 0, 0, 0, 0, 0, 0, 0⟩,
    ⟨"SIV_INSTALL_ADDR_LO", 0x9020, 1, 0, .none, .low, true, 0,
     0xFFFFF000, 0, 0, 0, 0, 0, 0, 0⟩,
    ⟨"SIV_INSTALL_ADDR_HI", 0x9024, 1, 0, .none, .high, true, 0,
     0xFFFFFFFF, 0, 0, 0, 0, 0, 0, 0⟩,
    ⟨"SIV_INSTALL_CTL", 0x9028, 1, 0, .none, .single, true, 0,
     0x1FFFF, 0, 0, 0, 0, 0, 0x80000000, 0⟩,
    ⟨"SIV_INSTALL_STATUS", 0x902C, 1, 0, .none, .single, false, 0,
     0, 0, 0, 0, 0, 0, 0, 0xF1⟩,
    ⟨"SIV_GRAMMAR_SEL", 0x9030, 1, 0, .none, .single, true, 0,
     0xFFFF, 0, 0, 0, 0, 0, 0, 0⟩,
    ⟨"SIV_GRAMMAR_INFO", 0x9034, 1, 0, .sivGrammar, .single, false, 0,
     0, 0, 0, 0, 0, 0, 0, 0xFFF3⟩,
    ⟨"SIV_GRAMMAR_LIVE", 0x9038, 1, 0, .sivGrammar, .single, false, 0,
     0, 0, 0, 0, 0, 0, 0, 0xFFFFFF⟩,
    ⟨"SIV_ROWS", 0x9040, 1, 0, .none, .single, false, 0,
     0, 0, 0, 0, 0xFFFFFFFF, 0, 0, 0⟩,
    ⟨"SIV_CACHE_MISS", 0x9044, 1, 0, .none, .single, false, 0,
     0, 0, 0, 0, 0xFFFFFFFF, 0, 0, 0⟩,
    ⟨"SIV_STALL", 0x9048, 1, 0, .none, .single, false, 0,
     0, 0, 0, 0, 0xFFFFFFFF, 0, 0, 0⟩,
    ⟨"SIV_PRUNED", 0x904C, 1, 0, .none, .single, false, 0,
     0, 0, 0, 0, 0xFFFFFFFF, 0, 0, 0⟩,
    ⟨"SIV_ENDS", 0x9050, 1, 0, .none, .single, false, 0,
     0, 0, 0, 0, 0xFFFFFFFF, 0, 0, 0⟩ ]

/-- Registers of window RSU (R616), part 0. -/
def regsRsu0 : List RegRow :=
  [ ⟨"RSU_CTL", 0xA000, 1, 0, .none, .single, false, 0,
     0x1, 0, 0, 0, 0, 0, 0, 0⟩,
    ⟨"RSU_STATUS", 0xA004, 1, 0, .none, .single, false, 0x3F44,
     0, 0, 0, 0, 0, 0, 0, 0x3F7F⟩,
    ⟨"RSU_SVC_SEED_n", 0xA010, 4, 4, .none, .single, false, 0,
     0, 0, 0, 0xFFFFFFFF, 0, 0, 0, 0⟩,
    ⟨"RSU_PROBE_n", 0xA040, 8, 4, .none, .single, true, 0,
     0xFFFFFFFF, 0, 0, 0, 0, 0, 0, 0⟩,
    ⟨"RSU_PROBE_8", 0xA060, 1, 0, .none, .single, true, 0,
     0x3F, 0, 0, 0, 0, 0, 0, 0⟩,
    ⟨"RSU_PROBE_CTL", 0xA064, 1, 0, .none, .single, true, 0,
     0, 0, 0, 0, 0, 0, 0x80000000, 0x1⟩,
    ⟨"RSU_PROBE_OUT_LO", 0xA068, 1, 0, .none, .low, false, 0,
     0, 0, 0, 0, 0, 0, 0, 0xFFFFFFFF⟩,
    ⟨"RSU_PROBE_OUT_HI", 0xA06C, 1, 0, .none, .high, false, 0,
     0, 0, 0, 0, 0, 0, 0, 0xFFFFFFFF⟩,
    ⟨"RSU_JUMPS", 0xA080, 1, 0, .none, .single, false, 0,
     0, 0, 0, 0, 0xFFFFFFFF, 0, 0, 0⟩,
    ⟨"RSU_SVC_DRAWS", 0xA084, 1, 0, .none, .single, false, 0,
     0, 0, 0, 0, 0xFFFFFFFF, 0, 0, 0⟩,
    ⟨"RSU_SVC_BAD", 0xA088, 1, 0, .none, .single, false, 0,
     0, 0, 0, 0, 0xFFFFFFFF, 0, 0, 0⟩ ]

/-- Registers of window BIN (R616), part 0. -/
def regsBin0 : List RegRow :=
  [ ⟨"BIN_CTL", 0xB000, 1, 0, .none, .single, false, 0,
     0x1, 0, 0, 0, 0, 0, 0, 0⟩,
    ⟨"BIN_STATUS", 0xB004, 1, 0, .none, .single, false, 0xFF,
     0, 0, 0, 0, 0, 0, 0, 0x3FFFFF⟩,
    ⟨"BIN_SPILL_BASE_LO", 0xB008, 1, 0, .none, .low, false, 0,
     0xFFFFF000, 0, 0, 0, 0, 0, 0, 0⟩,
    ⟨"BIN_SPILL_BASE_HI", 0xB00C, 1, 0, .none, .high, false, 0,
     0xFFFFFFFF, 0, 0, 0, 0, 0, 0, 0⟩,
    ⟨"BIN_SPILL_DEPTH", 0xB010, 1, 0, .none, .single, false, 0x10,
     0x1F, 0, 0, 0, 0, 0, 0, 0⟩,
    ⟨"BIN_SPILLED", 0xB014, 1, 0, .none, .single, false, 0,
     0, 0, 0, 0, 0, 0, 0, 0x7FFFFFF⟩,
    ⟨"BIN_AFF_WAIT", 0xB018, 1, 0, .none, .single, false, 0x7D0,
     0, 0xFFFFFF, 0, 0, 0, 0, 0, 0⟩,
    ⟨"BIN_TAKE_WAIT", 0xB01C, 1, 0, .none, .single, false, 0xF4240,
     0, 0xFFFFFFFF, 0, 0, 0, 0, 0, 0⟩,
    ⟨"BIN_REFILL", 0xB020, 1, 0, .none, .single, false, 0x400,
     0, 0x3FFF, 0, 0, 0, 0, 0, 0⟩,
    ⟨"BIN_LEVEL_SEL", 0xB030, 1, 0, .none, .single, true, 0,
     0x3F, 0, 0, 0, 0, 0, 0, 0⟩,
    ⟨"BIN_LEVEL_COUNT", 0xB034, 1, 0, .binLevel, .single, false, 0,
     0, 0, 0, 0, 0, 0, 0, 0x7FFFFFF⟩,
    ⟨"BIN_CLUSTER_SEL", 0xB040, 1, 0, .none, .single, true, 0,
     0xF, 0, 0, 0, 0, 0, 0, 0⟩,
    ⟨"BIN_CLUSTER_PART_LO", 0xB044, 1, 0, .binCluster, .low, false, 0xFFFFFFFF,
     0, 0xFFFFFFFF, 0, 0, 0, 0, 0, 0⟩,
    ⟨"BIN_CLUSTER_PART_HI", 0xB048, 1, 0, .binCluster, .high, false, 0xFFFFFFFF,
     0, 0xFFFFFFFF, 0, 0, 0, 0, 0, 0⟩,
    ⟨"BIN_TRACE_BASE_LO", 0xB060, 1, 0, .none, .low, true, 0,
     0xFFFFF000, 0, 0, 0, 0, 0, 0, 0⟩,
    ⟨"BIN_TRACE_BASE_HI", 0xB064, 1, 0, .none, .high, true, 0,
     0xFFFFFFFF, 0, 0, 0, 0, 0, 0, 0⟩,
    ⟨"BIN_TRACE_CFG", 0xB068, 1, 0, .none, .single, true, 0xFF1000,
     0xFF1F01, 0, 0, 0, 0, 0, 0, 0⟩,
    ⟨"BIN_TRACE_HEAD", 0xB06C, 1, 0, .none, .single, false, 0,
     0, 0, 0, 0, 0, 0, 0, 0xFFFFFFFF⟩,
    ⟨"BIN_PUSHES", 0xB080, 1, 0, .none, .single, false, 0,
     0, 0, 0, 0, 0xFFFFFFFF, 0, 0, 0⟩,
    ⟨"BIN_TAKES", 0xB084, 1, 0, .none, .single, false, 0,
     0, 0, 0, 0, 0xFFFFFFFF, 0, 0, 0⟩ ]

/-- Registers of window BIN (R616), part 1. -/
def regsBin1 : List RegRow :=
  [ ⟨"BIN_SPILLS", 0xB088, 1, 0, .none, .single, false, 0,
     0, 0, 0, 0, 0xFFFFFFFF, 0, 0, 0⟩,
    ⟨"BIN_REFILLS", 0xB08C, 1, 0, .none, .single, false, 0,
     0, 0, 0, 0, 0xFFFFFFFF, 0, 0, 0⟩,
    ⟨"BIN_PURGED", 0xB090, 1, 0, .none, .single, false, 0,
     0, 0, 0, 0, 0xFFFFFFFF, 0, 0, 0⟩,
    ⟨"BIN_PUSH_STALL", 0xB094, 1, 0, .none, .single, false, 0,
     0, 0, 0, 0, 0xFFFFFFFF, 0, 0, 0⟩,
    ⟨"BIN_PUSH_BAD", 0xB098, 1, 0, .none, .single, false, 0,
     0, 0, 0, 0, 0xFFFFFFFF, 0, 0, 0⟩,
    ⟨"BIN_LOST", 0xB09C, 1, 0, .none, .single, false, 0,
     0, 0, 0, 0, 0xFFFFFFFF, 0, 0, 0⟩ ]

/-- Registers of window KPR (R616), part 0. -/
def regsKpr0 : List RegRow :=
  [ ⟨"KPR_CTL", 0xC000, 1, 0, .none, .single, false, 0,
     0x1, 0, 0, 0, 0, 0, 0, 0⟩,
    ⟨"KPR_STATUS", 0xC004, 1, 0, .none, .single, false, 0,
     0, 0, 0, 0, 0, 0, 0, 0x7F7F⟩,
    ⟨"KPR_PART_SEL", 0xC010, 1, 0, .none, .single, true, 0,
     0x3F, 0, 0, 0, 0, 0, 0, 0⟩,
    ⟨"KPR_PART_CTL", 0xC014, 1, 0, .kprPart, .single, true, 0x1000000,
     0x7, 0xFFFF0000, 0, 0, 0, 0, 0, 0⟩,
    ⟨"KPR_PART_TILES", 0xC018, 1, 0, .kprPart, .single, true, 0,
     0xFFFF, 0, 0, 0, 0, 0, 0, 0⟩,
    ⟨"KPR_PART_GUESTS_LO", 0xC01C, 1, 0, .kprPart, .low, false, 0,
     0, 0xFFFFFFFF, 0, 0, 0, 0, 0, 0⟩,
    ⟨"KPR_PART_GUESTS_HI", 0xC020, 1, 0, .kprPart, .high, false, 0,
     0, 0xFFFFFFFF, 0, 0, 0, 0, 0, 0⟩,
    ⟨"KPR_PART_SLICE", 0xC024, 1, 0, .kprPart, .single, false, 0x989680,
     0, 0xFFFFFFFF, 0, 0, 0, 0, 0, 0⟩,
    ⟨"KPR_PART_PASS_LO", 0xC028, 1, 0, .kprPart, .low, false, 0,
     0, 0, 0, 0, 0, 0, 0, 0xFFFFFFFF⟩,
    ⟨"KPR_PART_PASS_HI", 0xC02C, 1, 0, .kprPart, .high, false, 0,
     0, 0, 0, 0, 0, 0, 0, 0xFFFFFFFF⟩,
    ⟨"KPR_PART_STORE_RATE", 0xC030, 1, 0, .kprPart, .single, false, 0,
     0, 0xFFFFFFFF, 0, 0, 0, 0, 0, 0⟩,
    ⟨"KPR_PART_STORE_BURST", 0xC034, 1, 0, .kprPart, .single, false, 0,
     0, 0xFFFFFFFF, 0, 0, 0, 0, 0, 0⟩,
    ⟨"KPR_PART_STORE_LEVEL", 0xC038, 1, 0, .kprPart, .single, false, 0,
     0, 0, 0, 0, 0, 0, 0, 0xFFFFFFFF⟩,
    ⟨"KPR_PART_CELLAR_RATE", 0xC03C, 1, 0, .kprPart, .single, false, 0,
     0, 0xFFFFFFFF, 0, 0, 0, 0, 0, 0⟩,
    ⟨"KPR_PART_CELLAR_BURST", 0xC040, 1, 0, .kprPart, .single, false, 0,
     0, 0xFFFFFFFF, 0, 0, 0, 0, 0, 0⟩,
    ⟨"KPR_PART_CELLAR_LEVEL", 0xC044, 1, 0, .kprPart, .single, false, 0,
     0, 0, 0, 0, 0, 0, 0, 0xFFFFFFFF⟩,
    ⟨"KPR_PART_RAF_RATE", 0xC048, 1, 0, .kprPart, .single, false, 0,
     0, 0xFFFFFFFF, 0, 0, 0, 0, 0, 0⟩,
    ⟨"KPR_PART_RAF_BURST", 0xC04C, 1, 0, .kprPart, .single, false, 0,
     0, 0xFFFFFFFF, 0, 0, 0, 0, 0, 0⟩,
    ⟨"KPR_PART_RAF_LEVEL", 0xC050, 1, 0, .kprPart, .single, false, 0,
     0, 0, 0, 0, 0, 0, 0, 0xFFFFFFFF⟩,
    ⟨"KPR_PART_RAF_RESV", 0xC054, 1, 0, .kprPart, .single, false, 0,
     0, 0xFFFF, 0, 0, 0, 0, 0, 0⟩ ]

/-- Registers of window KPR (R616), part 1. -/
def regsKpr1 : List RegRow :=
  [ ⟨"KPR_PART_SLOW", 0xC058, 1, 0, .kprPart, .single, false, 0,
     0, 0, 0, 0, 0, 0, 0, 0xFFFF⟩,
    ⟨"KPR_PART_SLOW_LIMIT", 0xC05C, 1, 0, .kprPart, .single, false, 0,
     0, 0xFFFF, 0, 0, 0, 0, 0, 0⟩,
    ⟨"KPR_GVT_LO", 0xC080, 1, 0, .none, .low, false, 0,
     0, 0, 0, 0, 0, 0, 0, 0xFFFFFFFF⟩,
    ⟨"KPR_GVT_HI", 0xC084, 1, 0, .none, .high, false, 0,
     0, 0, 0, 0, 0, 0, 0, 0xFFFFFFFF⟩,
    ⟨"KPR_ACCT_INTERVAL", 0xC088, 1, 0, .none, .single, false, 0xF4240,
     0, 0xFFFFFFFF, 0, 0, 0, 0, 0, 0⟩,
    ⟨"KPR_SLOW_BASE_LO", 0xC08C, 1, 0, .none, .low, false, 0,
     0xFFFFF000, 0, 0, 0, 0, 0, 0, 0⟩,
    ⟨"KPR_SLOW_BASE_HI", 0xC090, 1, 0, .none, .high, false, 0,
     0xFFFFFFFF, 0, 0, 0, 0, 0, 0, 0⟩,
    ⟨"KPR_SLOW_CFG", 0xC094, 1, 0, .none, .single, false, 0xA,
     0x1F, 0, 0, 0, 0, 0, 0, 0⟩,
    ⟨"KPR_SLOW_HEAD", 0xC098, 1, 0, .none, .single, false, 0,
     0, 0, 0, 0, 0, 0, 0, 0xFFFFFFFF⟩,
    ⟨"KPR_CTX_CMD", 0xC100, 1, 0, .none, .single, true, 0,
     0xFF0F7F, 0, 0, 0, 0, 0, 0x80000000, 0⟩,
    ⟨"KPR_CTX_ADDR_LO", 0xC104, 1, 0, .none, .low, true, 0,
     0xFFFFF000, 0, 0, 0, 0, 0, 0, 0⟩,
    ⟨"KPR_CTX_ADDR_HI", 0xC108, 1, 0, .none, .high, true, 0,
     0xFFFFFFFF, 0, 0, 0, 0, 0, 0, 0⟩,
    ⟨"KPR_CTX_STATUS", 0xC10C, 1, 0, .none, .single, false, 0,
     0, 0, 0, 0, 0, 0, 0, 0xFF01⟩,
    ⟨"KPR_CTX_BYTES_LO", 0xC110, 1, 0, .none, .low, false, 0,
     0, 0, 0, 0, 0, 0, 0, 0xFFFFFFFF⟩,
    ⟨"KPR_CTX_BYTES_HI", 0xC114, 1, 0, .none, .high, false, 0,
     0, 0, 0, 0, 0, 0, 0, 0xFFFFFFFF⟩,
    ⟨"KPR_SAVE_BASE_LO", 0xC118, 1, 0, .none, .low, false, 0,
     0xC0000000, 0, 0, 0, 0, 0, 0, 0⟩,
    ⟨"KPR_SAVE_BASE_HI", 0xC11C, 1, 0, .none, .high, false, 0,
     0xFFFFFFFF, 0, 0, 0, 0, 0, 0, 0⟩,
    ⟨"KPR_SAVE_SIZE", 0xC120, 1, 0, .none, .single, false, 0,
     0xFF, 0, 0, 0, 0, 0, 0, 0⟩,
    ⟨"KPR_BLOCK_WINDOW", 0xC124, 1, 0, .none, .single, false, 0x30D40,
     0, 0xFFFFFFFF, 0, 0, 0, 0, 0, 0⟩,
    ⟨"KPR_DONATE_WARN", 0xC128, 1, 0, .none, .single, false, 0x1E8480,
     0, 0xFFFFFFFF, 0, 0, 0, 0, 0, 0⟩ ]

/-- Registers of window KPR (R616), part 2. -/
def regsKpr2 : List RegRow :=
  [ ⟨"KPR_SAVE_RATE", 0xC12C, 1, 0, .none, .single, false, 0x1F40,
     0, 0x3FFF, 0, 0, 0, 0, 0, 0⟩,
    ⟨"KPR_SEM_SEL", 0xC140, 1, 0, .none, .single, true, 0,
     0x3F, 0, 0, 0, 0, 0, 0, 0⟩,
    ⟨"KPR_SEM_STATE", 0xC144, 1, 0, .kprSem, .single, false, 0,
     0, 0, 0, 0, 0, 0, 0, 0xFF0FFF⟩,
    ⟨"KPR_SEM_PART_LO", 0xC148, 1, 0, .kprSem, .low, false, 0,
     0, 0xFFFFFFFF, 0, 0, 0, 0, 0, 0⟩,
    ⟨"KPR_SEM_PART_HI", 0xC14C, 1, 0, .kprSem, .high, false, 0,
     0, 0xFFFFFFFF, 0, 0, 0, 0, 0, 0⟩,
    ⟨"KPR_CTX_STATE_n", 0xC180, 16, 4, .none, .single, false, 0,
     0, 0, 0, 0, 0, 0, 0, 0x3F⟩,
    ⟨"KPR_SAVES_DRAIN", 0xC1C0, 1, 0, .none, .single, false, 0,
     0, 0, 0, 0, 0xFFFFFFFF, 0, 0, 0⟩,
    ⟨"KPR_SAVES_FREEZE", 0xC1C4, 1, 0, .none, .single, false, 0,
     0, 0, 0, 0, 0xFFFFFFFF, 0, 0, 0⟩,
    ⟨"KPR_RESTORES", 0xC1C8, 1, 0, .none, .single, false, 0,
     0, 0, 0, 0, 0xFFFFFFFF, 0, 0, 0⟩,
    ⟨"KPR_EVICTIONS", 0xC1CC, 1, 0, .none, .single, false, 0,
     0, 0, 0, 0, 0xFFFFFFFF, 0, 0, 0⟩,
    ⟨"KPR_DONATIONS", 0xC1D0, 1, 0, .none, .single, false, 0,
     0, 0, 0, 0, 0xFFFFFFFF, 0, 0, 0⟩,
    ⟨"KPR_SEM_DENIED", 0xC1D4, 1, 0, .none, .single, false, 0,
     0, 0, 0, 0, 0xFFFFFFFF, 0, 0, 0⟩,
    ⟨"KPR_PWR_CAP", 0xC200, 1, 0, .none, .single, false, 0x12C0,
     0, 0x1FFF, 0, 0, 0, 0, 0, 0⟩,
    ⟨"KPR_PWR_CAP_MAX", 0xC204, 1, 0, .none, .single, false, 0x12C0,
     0, 0, 0, 0x1FFF, 0, 0, 0, 0⟩,
    ⟨"KPR_PWR_GUARD", 0xC208, 1, 0, .none, .single, false, 0xA0,
     0, 0xFFF, 0, 0, 0, 0, 0, 0⟩,
    ⟨"KPR_PWR_DRAW", 0xC20C, 1, 0, .none, .single, false, 0,
     0, 0, 0, 0, 0, 0, 0, 0x1FFF⟩,
    ⟨"KPR_PWR_BASE", 0xC210, 1, 0, .none, .single, false, 0,
     0, 0, 0, 0, 0, 0, 0, 0x1FFF⟩,
    ⟨"KPR_PWR_LEAVE", 0xC214, 1, 0, .none, .single, false, 0,
     0, 0, 0, 0, 0, 0, 0, 0x1FFF⟩,
    ⟨"KPR_LEAVE_AMT", 0xC218, 1, 0, .none, .single, false, 0x4B03C1E0,
     0, 0x7FFFFFFF, 0, 0, 0, 0, 0, 0⟩,
    ⟨"KPR_LEAVE_PREFILL", 0xC21C, 1, 0, .none, .single, false, 0x200008,
     0, 0x7FFFFFF, 0, 0, 0, 0, 0, 0⟩ ]

/-- Registers of window KPR (R616), part 3. -/
def regsKpr3 : List RegRow :=
  [ ⟨"KPR_LEAVE_WAIT", 0xC220, 1, 0, .none, .single, false, 0x4E20,
     0, 0xFFFFFF, 0, 0, 0, 0, 0, 0⟩,
    ⟨"KPR_LEAVE_QUEUE", 0xC224, 1, 0, .none, .single, false, 0,
     0, 0, 0, 0, 0, 0, 0, 0x7F⟩,
    ⟨"KPR_LEAVE_GRANTS", 0xC240, 1, 0, .none, .single, false, 0,
     0, 0, 0, 0, 0xFFFFFFFF, 0, 0, 0⟩,
    ⟨"KPR_LEAVE_REFUSED", 0xC244, 1, 0, .none, .single, false, 0,
     0, 0, 0, 0, 0xFFFFFFFF, 0, 0, 0⟩,
    ⟨"KPR_LEAVE_LATE", 0xC248, 1, 0, .none, .single, false, 0,
     0, 0, 0, 0, 0xFFFFFFFF, 0, 0, 0⟩,
    ⟨"KPR_POWER_OVER", 0xC24C, 1, 0, .none, .single, false, 0,
     0, 0, 0, 0, 0xFFFFFFFF, 0, 0, 0⟩,
    ⟨"KPR_ACCT_BASE_LO", 0xC260, 1, 0, .none, .low, false, 0,
     0xFFFFF000, 0, 0, 0, 0, 0, 0, 0⟩,
    ⟨"KPR_ACCT_BASE_HI", 0xC264, 1, 0, .none, .high, false, 0,
     0xFFFFFFFF, 0, 0, 0, 0, 0, 0, 0⟩,
    ⟨"KPR_ACCT_CFG", 0xC268, 1, 0, .none, .single, false, 0x110,
     0x11F, 0, 0, 0, 0, 0, 0, 0⟩,
    ⟨"KPR_ACCT_HEAD", 0xC26C, 1, 0, .none, .single, false, 0,
     0, 0, 0, 0, 0, 0, 0, 0xFFFFFFFF⟩,
    ⟨"KPR_ACCT_READ", 0xC270, 1, 0, .none, .single, true, 0,
     0xFFFFFFFF, 0, 0, 0, 0, 0, 0, 0⟩,
    ⟨"KPR_ACCT_LOST", 0xC274, 1, 0, .none, .single, false, 0,
     0, 0, 0, 0, 0xFFFFFFFF, 0, 0, 0⟩,
    ⟨"KPR_ACCT_UNATTR_LO", 0xC278, 1, 0, .none, .low, false, 0,
     0, 0, 0, 0, 0, 0, 0, 0xFFFFFFFF⟩,
    ⟨"KPR_ACCT_UNATTR_HI", 0xC27C, 1, 0, .none, .high, false, 0,
     0, 0, 0, 0, 0, 0, 0, 0xFFFFFFFF⟩ ]

/-- Registers of window RAF (R616), part 0. -/
def regsRaf0 : List RegRow :=
  [ ⟨"RAF_CTL", 0xD000, 1, 0, .none, .single, false, 0,
     0x1, 0, 0, 0, 0, 0, 0, 0⟩,
    ⟨"RAF_STATUS", 0xD004, 1, 0, .none, .single, false, 0,
     0, 0, 0, 0, 0, 0, 0, 0x1FFF⟩,
    ⟨"RAF_VERSION", 0xD008, 1, 0, .none, .single, false, 0x2010200,
     0, 0, 0, 0, 0, 0, 0, 0xFFFFFFFF⟩,
    ⟨"RAF_POS", 0xD00C, 1, 0, .none, .single, false, 0,
     0, 0, 0, 0, 0, 0, 0, 0x3FFFFF⟩,
    ⟨"RAF_MAP_ADDR_LO", 0xD010, 1, 0, .none, .low, true, 0,
     0xFFFFFFC0, 0, 0, 0, 0, 0, 0, 0⟩,
    ⟨"RAF_MAP_ADDR_HI", 0xD014, 1, 0, .none, .high, true, 0,
     0xFFFFFFFF, 0, 0, 0, 0, 0, 0, 0⟩,
    ⟨"RAF_MAP_CTL", 0xD018, 1, 0, .none, .single, true, 0,
     0x2, 0, 0, 0, 0, 0, 0x80000000, 0xF1⟩,
    ⟨"RAF_MAP_ID", 0xD01C, 1, 0, .none, .single, false, 0,
     0, 0, 0, 0, 0, 0, 0, 0xFFFFFFFF⟩,
    ⟨"RAF_SYNC_CFG", 0xD020, 1, 0, .none, .single, false, 0x186A0,
     0, 0xFFFFFF, 0, 0, 0, 0, 0, 0⟩,
    ⟨"RAF_TIME", 0xD024, 1, 0, .none, .single, false, 0xFF,
     0, 0, 0, 0, 0, 0, 0, 0xFFF⟩,
    ⟨"RAF_OFFSET", 0xD028, 1, 0, .none, .single, false, 0,
     0, 0, 0, 0, 0, 0, 0, 0xFFFFFFFF⟩,
    ⟨"RAF_RATE", 0xD02C, 1, 0, .none, .single, false, 0,
     0, 0, 0, 0, 0, 0, 0, 0xFFFFFFFF⟩,
    ⟨"RAF_REMAP_LO", 0xD030, 1, 0, .none, .low, false, 0x76543210,
     0, 0, 0, 0, 0, 0, 0, 0xFFFFFFFF⟩,
    ⟨"RAF_REMAP_HI", 0xD034, 1, 0, .none, .high, false, 0xBA98,
     0, 0, 0, 0, 0, 0, 0, 0xFFFF⟩,
    ⟨"RAF_LANE_n", 0xD040, 12, 4, .none, .single, false, 0,
     0, 0, 0, 0, 0, 0, 0, 0xFFFF3FF7⟩,
    ⟨"RAF_CRC_ERR", 0xD080, 1, 0, .none, .single, false, 0,
     0, 0, 0, 0, 0xFFFFFFFF, 0, 0, 0⟩,
    ⟨"RAF_RETRY", 0xD084, 1, 0, .none, .single, false, 0,
     0, 0, 0, 0, 0xFFFFFFFF, 0, 0, 0⟩,
    ⟨"RAF_RELAYED", 0xD088, 1, 0, .none, .single, false, 0,
     0, 0, 0, 0, 0xFFFFFFFF, 0, 0, 0⟩,
    ⟨"RAF_LATE_SENT", 0xD08C, 1, 0, .none, .single, false, 0,
     0, 0, 0, 0, 0xFFFFFFFF, 0, 0, 0⟩,
    ⟨"RAF_SYNC_MISSED", 0xD090, 1, 0, .none, .single, false, 0,
     0, 0, 0, 0, 0xFFFFFFFF, 0, 0, 0⟩ ]

/-- Registers of window TAL (R616), part 0. -/
def regsTal0 : List RegRow :=
  [ ⟨"TAL_NOW_LO", 0xE000, 1, 0, .none, .low, false, 0,
     0, 0, 0, 0, 0, 0, 0, 0xFFFFFFFF⟩,
    ⟨"TAL_NOW_HI", 0xE004, 1, 0, .none, .high, false, 0,
     0, 0, 0, 0, 0, 0, 0, 0xFFFFFFFF⟩,
    ⟨"TAL_FRAC", 0xE008, 1, 0, .none, .single, false, 0,
     0, 0, 0, 0, 0, 0, 0, 0xFFFF⟩,
    ⟨"TAL_STATUS", 0xE00C, 1, 0, .none, .single, false, 0xFF00,
     0, 0, 0, 0, 0, 0, 0, 0xFF03⟩,
    ⟨"TAL_CST_CTL", 0xE020, 1, 0, .none, .single, false, 0x7D000,
     0x1, 0xFFFFF02, 0, 0, 0, 0, 0, 0x4⟩,
    ⟨"TAL_CST_BASE_LO", 0xE024, 1, 0, .none, .low, false, 0,
     0xFFFFFFFF, 0, 0, 0, 0, 0, 0, 0⟩,
    ⟨"TAL_CST_BASE_HI", 0xE028, 1, 0, .none, .high, false, 0,
     0xFFFFFFFF, 0, 0, 0, 0, 0, 0, 0⟩,
    ⟨"TAL_CST_NSLOT", 0xE02C, 1, 0, .none, .single, true, 0,
     0x1FFF1FFF, 0, 0, 0, 0, 0, 0, 0⟩,
    ⟨"TAL_CST_ADDR", 0xE030, 1, 0, .none, .single, true, 0,
     0x10FFF, 0, 0, 0, 0, 0, 0, 0⟩,
    ⟨"TAL_CST_DATA_LO", 0xE034, 1, 0, .none, .low, true, 0,
     0xFFFFFFFF, 0, 0, 0, 0, 0, 0, 0⟩,
    ⟨"TAL_CST_DATA_HI", 0xE038, 1, 0, .none, .high, true, 0,
     0xFFFFFFFF, 0, 0, 0, 0, 0, 0, 0⟩,
    ⟨"TAL_CST_LEN_LO", 0xE03C, 1, 0, .none, .low, false, 0,
     0, 0, 0, 0, 0, 0, 0, 0xFFFFFFFF⟩,
    ⟨"TAL_CST_LEN_HI", 0xE040, 1, 0, .none, .high, false, 0,
     0, 0, 0, 0, 0, 0, 0, 0xFFFFFFFF⟩,
    ⟨"TAL_CST_CRC", 0xE044, 1, 0, .none, .single, false, 0,
     0, 0, 0, 0, 0, 0, 0, 0xFFFFFFFF⟩,
    ⟨"TAL_CST_BARRED_LO", 0xE048, 1, 0, .none, .low, false, 0,
     0, 0, 0, 0, 0, 0, 0, 0xFFFFFFFF⟩,
    ⟨"TAL_CST_BARRED_HI", 0xE04C, 1, 0, .none, .high, false, 0,
     0, 0, 0, 0, 0, 0, 0, 0xFFFFFFFF⟩,
    ⟨"TAL_EDGE_LEAD_n", 0xE080, 16, 4, .none, .single, false, 0xFA0,
     0, 0, 0xFFFFF, 0, 0, 0, 0, 0⟩,
    ⟨"TAL_EDGE_FLOOR_n", 0xE0C0, 16, 4, .none, .single, false, 0x1F4,
     0, 0, 0, 0, 0, 0, 0, 0xFFFFF⟩ ]

/-- Registers of window RAS (R616), part 0. -/
def regsRas0 : List RegRow :=
  [ ⟨"RAS_CTL", 0xF000, 1, 0, .none, .single, false, 0,
     0x1, 0, 0, 0, 0, 0, 0, 0⟩,
    ⟨"RAS_STATUS", 0xF004, 1, 0, .none, .single, false, 0,
     0, 0, 0, 0, 0, 0, 0, 0x3FFFF⟩,
    ⟨"RAS_QUIESCE_CAUSE", 0xF008, 1, 0, .none, .single, false, 0,
     0, 0, 0, 0, 0, 0, 0, 0x1FFFF⟩,
    ⟨"RAS_QUIESCE_WAIT", 0xF00C, 1, 0, .none, .single, false, 0xF4240,
     0xFFFFFFFF, 0, 0, 0, 0, 0, 0, 0⟩,
    ⟨"RAS_CORRECTED", 0xF010, 1, 0, .none, .single, false, 0,
     0, 0, 0, 0, 0xFFFFFFFF, 0, 0, 0⟩,
    ⟨"RAS_UNIT_SEL", 0xF020, 1, 0, .none, .single, false, 0x1,
     0x1F, 0, 0, 0, 0, 0, 0, 0⟩,
    ⟨"RAS_UNIT_STATE", 0xF024, 1, 0, .rasUnit, .single, false, 0,
     0, 0, 0, 0, 0xFFFF0000, 0, 0, 0xF⟩,
    ⟨"RAS_UNIT_POP", 0xF028, 1, 0, .rasUnit, .single, false, 0,
     0, 0, 0, 0, 0, 0, 0x1, 0⟩,
    ⟨"RAS_CAP1_n", 0xF040, 8, 4, .rasUnit, .single, false, 0,
     0, 0, 0, 0, 0, 0, 0, 0xFFFFFFFF⟩,
    ⟨"RAS_CAP2_n", 0xF060, 8, 4, .rasUnit, .single, false, 0,
     0, 0, 0, 0, 0, 0, 0, 0xFFFFFFFF⟩,
    ⟨"RAS_MIRROR_CTL", 0xF080, 1, 0, .none, .single, false, 0x1,
     0x1, 0, 0, 0, 0, 0, 0, 0x7F7F00⟩,
    ⟨"RAS_MIRROR_STATE", 0xF084, 1, 0, .none, .single, false, 0,
     0, 0, 0, 0, 0, 0, 0, 0xFFFFFF0F⟩,
    ⟨"RAS_MIRROR_BASE_LO", 0xF088, 1, 0, .none, .low, false, 0,
     0xFFFFF000, 0, 0, 0, 0, 0, 0, 0⟩,
    ⟨"RAS_MIRROR_BASE_HI", 0xF08C, 1, 0, .none, .high, false, 0,
     0xFFFFFFFF, 0, 0, 0, 0, 0, 0, 0⟩,
    ⟨"RAS_SHADOW_BASE_LO", 0xF090, 1, 0, .none, .low, false, 0,
     0, 0, 0, 0xFFF00000, 0, 0, 0, 0⟩,
    ⟨"RAS_SHADOW_BASE_HI", 0xF094, 1, 0, .none, .high, false, 0,
     0, 0, 0, 0xFFFFFFFF, 0, 0, 0, 0⟩,
    ⟨"RAS_SHADOW_STRIDE", 0xF098, 1, 0, .none, .single, false, 0,
     0, 0, 0, 0xFF, 0, 0, 0, 0⟩,
    ⟨"RAS_TAKEOVER", 0xF0A0, 1, 0, .none, .single, false, 0,
     0x3F, 0, 0, 0, 0, 0, 0x80000000, 0⟩,
    ⟨"RAS_TAKEOVER_STATUS", 0xF0A4, 1, 0, .none, .single, false, 0,
     0, 0, 0, 0, 0, 0, 0, 0xFFFFFFF1⟩ ]

/-- Registers of window CNT (R616), part 0. -/
def regsCnt0 : List RegRow :=
  [ ⟨"CNT_CTL", 0x10000, 1, 0, .none, .single, true, 0,
     0x7, 0, 0, 0, 0, 0, 0x80000000, 0x8⟩,
    ⟨"CNT_FREEZE_AT_LO", 0x10008, 1, 0, .none, .low, true, 0,
     0xFFFFFFFF, 0, 0, 0, 0, 0, 0, 0⟩,
    ⟨"CNT_FREEZE_AT_HI", 0x1000C, 1, 0, .none, .high, true, 0,
     0xFFFFFFFF, 0, 0, 0, 0, 0, 0, 0⟩,
    ⟨"CNT_TRC_BASE_LO", 0x10010, 1, 0, .none, .low, false, 0,
     0xFFFFF000, 0, 0, 0, 0, 0, 0, 0⟩,
    ⟨"CNT_TRC_BASE_HI", 0x10014, 1, 0, .none, .high, false, 0,
     0xFFFFFFFF, 0, 0, 0, 0, 0, 0, 0⟩,
    ⟨"CNT_TRC_CFG", 0x10018, 1, 0, .none, .single, false, 0xFFF1000,
     0xFFFF1F01, 0, 0, 0, 0, 0, 0, 0⟩,
    ⟨"CNT_TRC_HEAD", 0x1001C, 1, 0, .none, .single, false, 0,
     0, 0, 0, 0, 0, 0, 0, 0xFFFFFFFF⟩,
    ⟨"CNT_TRC_LOST", 0x10020, 1, 0, .none, .single, false, 0,
     0, 0, 0, 0, 0xFFFFFFFF, 0, 0, 0⟩,
    ⟨"CNT_SEL_n", 0x10100, 64, 4, .none, .single, true, 0,
     0xFFFFFFF, 0, 0, 0, 0x80000000, 0, 0, 0⟩,
    ⟨"CNT_VAL_n_LO", 0x10200, 64, 8, .none, .low, false, 0,
     0, 0, 0, 0, 0, 0, 0, 0xFFFFFFFF⟩,
    ⟨"CNT_VAL_n_HI", 0x10204, 64, 8, .none, .high, false, 0,
     0, 0, 0, 0, 0, 0, 0, 0xFFFFFFFF⟩ ]

/-- Registers of window DBG (R616), part 0. -/
def regsDbg0 : List RegRow :=
  [ ⟨"DBG_CTL", 0x11000, 1, 0, .none, .single, false, 0,
     0, 0, 0, 0x1, 0, 0, 0, 0⟩,
    ⟨"DBG_STATUS", 0x11004, 1, 0, .none, .single, false, 0,
     0, 0, 0, 0, 0xF0, 0, 0, 0x7⟩,
    ⟨"DBG_BRK_HITS", 0x11008, 1, 0, .none, .single, false, 0,
     0, 0, 0, 0, 0xFFFFFFFF, 0, 0, 0⟩ ]

/-- Registers of window DBW (R616), part 0. -/
def regsDbw0 : List RegRow :=
  [ ⟨"HAT_DBWIN_n", 0x1C000, 256, 64, .none, .single, false, 0,
     0, 0, 0, 0, 0, 0, 0xFFFFFFFF, 0⟩ ]

/-- Every register of the engine: R616. -/
def regTable : List RegRow :=
  regsGlb0 ++ regsHat0 ++ regsLed0 ++ regsGat0 ++ regsGat1 ++ regsCmp0 ++ regsCmp1 ++ regsStw0 ++ regsShv0 ++ regsShv1 ++ regsPan0 ++ regsSmp0 ++ regsSiv0 ++ regsRsu0 ++ regsBin0 ++ regsBin1 ++ regsKpr0 ++ regsKpr1 ++ regsKpr2 ++ regsKpr3 ++ regsRaf0 ++ regsTal0 ++ regsRas0 ++ regsCnt0 ++ regsDbg0 ++ regsDbw0

/-- A bit field of a register: offset of the register and bit range [high:low]. -/
structure Fld where
  off : Nat
  hi : Nat
  lo : Nat
deriving DecidableEq, Repr

/-- The field of copy `n` of an indexed register with the given stride. -/
def Fld.at (f : Fld) (stride n : Nat) : Fld := { f with off := f.off + stride * n }

/-- The width of a field. -/
def Fld.width (f : Fld) : Nat := f.hi + 1 - f.lo

end Sys2Proof.Machine

/-! Names of the fields: REGISTER_FIELD, as the chapters of spec/ write PREFIX_REGISTER.FIELD. -/
namespace Sys2Proof.Machine.F

def GLB_ID_PART : Fld := ⟨0x0, 15, 0⟩
def GLB_ID_STEPPING : Fld := ⟨0x0, 23, 16⟩
def GLB_STATUS_STAGE : Fld := ⟨0x4, 2, 0⟩
def GLB_STATUS_QUIESCED : Fld := ⟨0x4, 3, 3⟩
def GLB_LOCK_LOCK : Fld := ⟨0x8, 0, 0⟩
def GLB_RESET_KEY : Fld := ⟨0xC, 15, 0⟩
def GLB_RESET_UNIT : Fld := ⟨0xC, 19, 16⟩
def GLB_RESET_CAUSE_CAUSE : Fld := ⟨0x10, 2, 0⟩
def GLB_SERIAL_LO_SERIAL : Fld := ⟨0x14, 31, 0⟩
def GLB_SERIAL_HI_SERIAL : Fld := ⟨0x18, 31, 0⟩
def GLB_IMG_ADDR_LO_ADDR : Fld := ⟨0x20, 31, 0⟩
def GLB_IMG_ADDR_HI_ADDR : Fld := ⟨0x24, 31, 0⟩
def GLB_IMG_CTL_BUSY : Fld := ⟨0x28, 0, 0⟩
def GLB_IMG_CTL_RESULT : Fld := ⟨0x28, 7, 4⟩
def GLB_IMG_CTL_GO : Fld := ⟨0x28, 31, 31⟩
def GLB_INIT_BUSY : Fld := ⟨0x2C, 0, 0⟩
def GLB_INIT_DONE : Fld := ⟨0x2C, 1, 1⟩
def GLB_INIT_GO : Fld := ⟨0x2C, 31, 31⟩
def GLB_PWR_CTL_AUTO_GATE : Fld := ⟨0x40, 0, 0⟩
def GLB_PWR_CTL_IDLE : Fld := ⟨0x40, 31, 8⟩
def GLB_PD_STATE_n_STATE : Fld := ⟨0x80, 31, 0⟩
def HAT_CTL_EN : Fld := ⟨0x1000, 0, 0⟩
def HAT_CTL_POLL : Fld := ⟨0x1000, 31, 8⟩
def HAT_STATUS_OFFLINE : Fld := ⟨0x1004, 0, 0⟩
def HAT_STATUS_HELLO_DONE : Fld := ⟨0x1004, 1, 1⟩
def HAT_STATUS_FETCH_STOPPED : Fld := ⟨0x1004, 2, 2⟩
def HAT_STATUS_CXL_CACHE : Fld := ⟨0x1004, 3, 3⟩
def HAT_STATUS_RINGS_EN : Fld := ⟨0x1004, 16, 8⟩
def HAT_HELLO_OFFER_MIN_VER : Fld := ⟨0x1010, 15, 0⟩
def HAT_HELLO_OFFER_MAX_VER : Fld := ⟨0x1010, 31, 16⟩
def HAT_HELLO_CAPS_CXL_CACHE : Fld := ⟨0x1014, 0, 0⟩
def HAT_HELLO_CAPS_SIBLINGS : Fld := ⟨0x1014, 1, 1⟩
def HAT_HELLO_CAPS_GRAMMAR : Fld := ⟨0x1014, 2, 2⟩
def HAT_HELLO_CAPS_SPEC_TREE : Fld := ⟨0x1014, 3, 3⟩
def HAT_HELLO_CAPS_MIN_P : Fld := ⟨0x1014, 4, 4⟩
def HAT_HELLO_SELECT_VER : Fld := ⟨0x1018, 15, 0⟩
def HAT_HELLO_SELECT_GO : Fld := ⟨0x1018, 31, 31⟩
def HAT_HELLO_NONCE_NONCE : Fld := ⟨0x101C, 31, 0⟩
def HAT_HELLO_RESULT_STATE : Fld := ⟨0x1020, 1, 0⟩
def HAT_HELLO_RESULT_REASON : Fld := ⟨0x1020, 7, 4⟩
def HAT_HELLO_RESULT_VER : Fld := ⟨0x1020, 31, 16⟩
def HAT_HELLO_ECHO_ECHO : Fld := ⟨0x1024, 31, 0⟩
def HAT_RING_SEL_RING : Fld := ⟨0x1040, 7, 0⟩
def HAT_RING_BASE_LO_BASE : Fld := ⟨0x1044, 31, 0⟩
def HAT_RING_BASE_HI_BASE : Fld := ⟨0x1048, 31, 0⟩
def HAT_RING_DB_LO_DB : Fld := ⟨0x104C, 31, 0⟩
def HAT_RING_DB_HI_DB : Fld := ⟨0x1050, 31, 0⟩
def HAT_RING_CFG_KIND : Fld := ⟨0x1054, 1, 0⟩
def HAT_RING_CFG_DB_MODE : Fld := ⟨0x1054, 2, 2⟩
def HAT_RING_CFG_EN : Fld := ⟨0x1054, 3, 3⟩
def HAT_RING_CFG_LOG2_DEPTH : Fld := ⟨0x1054, 7, 4⟩
def HAT_RING_CFG_PID : Fld := ⟨0x1054, 13, 8⟩
def HAT_RING_CFG_FILTER_ALL : Fld := ⟨0x1054, 14, 14⟩
def HAT_RING_CFG_CQ : Fld := ⟨0x1054, 23, 16⟩
def HAT_RING_CFG_BURST : Fld := ⟨0x1054, 29, 24⟩
def HAT_RING_HEAD_COUNT : Fld := ⟨0x1058, 31, 0⟩
def HAT_RING_TAIL_COUNT : Fld := ⟨0x105C, 31, 0⟩
def HAT_EVT_LOST_LOST : Fld := ⟨0x1060, 31, 0⟩
def HAT_OVF_BASE_LO_BASE : Fld := ⟨0x1064, 31, 0⟩
def HAT_OVF_BASE_HI_BASE : Fld := ⟨0x1068, 31, 0⟩
def HAT_OVF_COUNT_COUNT : Fld := ⟨0x106C, 26, 0⟩
def LED_CTL_EN : Fld := ⟨0x2000, 0, 0⟩
def LED_CAP_CAP : Fld := ⟨0x2004, 22, 0⟩
def LED_SPILL_BASE_LO_BASE : Fld := ⟨0x2008, 31, 0⟩
def LED_SPILL_BASE_HI_BASE : Fld := ⟨0x200C, 31, 0⟩
def LED_HIST_BASE_LO_BASE : Fld := ⟨0x2010, 31, 0⟩
def LED_HIST_BASE_HI_BASE : Fld := ⟨0x2014, 31, 0⟩
def LED_HIST_PAGES_PAGES : Fld := ⟨0x2018, 24, 0⟩
def LED_STATUS_LIVE : Fld := ⟨0x2020, 22, 0⟩
def LED_HOT_HOT : Fld := ⟨0x2024, 17, 0⟩
def LED_HIST_FREE_FREE : Fld := ⟨0x2028, 24, 0⟩
def LED_PEEK_SLOT_SLOT : Fld := ⟨0x2030, 23, 0⟩
def LED_PEEK_DATA_n_DATA : Fld := ⟨0x2080, 31, 0⟩
def GAT_CTL_EN : Fld := ⟨0x3000, 0, 0⟩
def GAT_CTL_REEVAL : Fld := ⟨0x3000, 15, 8⟩
def GAT_MARGIN_MARGIN : Fld := ⟨0x3004, 23, 0⟩
def GAT_CHIP_STORE_GIB : Fld := ⟨0x3008, 11, 0⟩
def GAT_PART_SEL_PID : Fld := ⟨0x3010, 5, 0⟩
def GAT_PART_LIVE_MAX_MAX : Fld := ⟨0x3014, 22, 0⟩
def GAT_PART_CTX_MAX_MAX : Fld := ⟨0x3018, 31, 0⟩
def GAT_PART_RATE_RATE : Fld := ⟨0x301C, 23, 0⟩
def GAT_PART_BURST_BURST : Fld := ⟨0x3020, 31, 0⟩
def GAT_PART_REQ_MAX_NSIB : Fld := ⟨0x3024, 5, 0⟩
def GAT_PART_REQ_CTX_MAX : Fld := ⟨0x3028, 31, 0⟩
def GAT_PART_DEFER_DEFER_EN : Fld := ⟨0x302C, 0, 0⟩
def GAT_PART_DEFER_DEFER_MAX : Fld := ⟨0x302C, 23, 8⟩
def GAT_PART_DEFER_TTL_TTL : Fld := ⟨0x3030, 31, 0⟩
def GAT_PART_KV_AHEAD_AHEAD : Fld := ⟨0x3034, 15, 0⟩
def GAT_PART_USE_LIVE : Fld := ⟨0x3040, 22, 0⟩
def GAT_PART_CTX_USE_USE : Fld := ⟨0x3044, 31, 0⟩
def GAT_PART_BUCKET_LEVEL : Fld := ⟨0x3048, 31, 0⟩
def GAT_PART_DEFERRED_COUNT : Fld := ⟨0x304C, 15, 0⟩
def GAT_INST_SEL_INST : Fld := ⟨0x3080, 3, 0⟩
def GAT_INST_STEP_EST_EST : Fld := ⟨0x3084, 23, 0⟩
def GAT_INST_CHUNK_EST_CHUNK : Fld := ⟨0x3088, 17, 0⟩
def GAT_INST_TPS_TPS : Fld := ⟨0x308C, 15, 0⟩
def CMP_CTL_EN : Fld := ⟨0x4000, 0, 0⟩
def CMP_STATUS_INST : Fld := ⟨0x4004, 3, 0⟩
def CMP_STATUS_BUSY : Fld := ⟨0x4004, 4, 4⟩
def CMP_STATUS_QUEUED : Fld := ⟨0x4004, 12, 8⟩
def CMP_PKT_BASE_LO_BASE : Fld := ⟨0x4008, 31, 0⟩
def CMP_PKT_BASE_HI_BASE : Fld := ⟨0x400C, 31, 0⟩
def CMP_DRAFT_BASE_LO_BASE : Fld := ⟨0x4010, 31, 0⟩
def CMP_DRAFT_BASE_HI_BASE : Fld := ⟨0x4014, 31, 0⟩
def CMP_DRAFT_COUNT_COUNT : Fld := ⟨0x4018, 17, 0⟩
def CMP_URGENT_URGENT : Fld := ⟨0x401C, 31, 0⟩
def CMP_PART_SEL_PID : Fld := ⟨0x4020, 5, 0⟩
def CMP_PART_PROG_PROG : Fld := ⟨0x4024, 2, 0⟩
def CMP_INST_SEL_INST : Fld := ⟨0x4040, 3, 0⟩
def CMP_INST_CFG_OWNER : Fld := ⟨0x4044, 5, 0⟩
def CMP_INST_CFG_LEAD : Fld := ⟨0x4044, 8, 8⟩
def CMP_INST_CFG_ACTIVE : Fld := ⟨0x4044, 9, 9⟩
def CMP_INST_CFG_MAX_SLOTS : Fld := ⟨0x4044, 30, 16⟩
def CMP_INST_BUDGET_BUDGET : Fld := ⟨0x4048, 18, 0⟩
def CMP_INST_CHUNK_CHUNK_MAX : Fld := ⟨0x404C, 18, 0⟩
def CMP_INST_EST_FIXED_FIXED : Fld := ⟨0x4050, 23, 0⟩
def CMP_INST_EST_PER_KTOK_PER_KTOK : Fld := ⟨0x4054, 23, 0⟩
def CMP_INST_EPOCH_CUR : Fld := ⟨0x4058, 3, 0⟩
def CMP_INST_EPOCH_NEXT : Fld := ⟨0x4058, 7, 4⟩
def CMP_INST_EPOCH_CHANGING : Fld := ⟨0x4058, 8, 8⟩
def CMP_INST_EPOCH_CFG : Fld := ⟨0x4058, 15, 12⟩
def CMP_INST_EPOCH_OLD_OUT : Fld := ⟨0x4058, 23, 16⟩
def CMP_INST_STEP_LO_STEP : Fld := ⟨0x4060, 31, 0⟩
def CMP_INST_STEP_HI_STEP : Fld := ⟨0x4064, 31, 0⟩
def CMP_INST_LAST_CYCLES : Fld := ⟨0x4068, 15, 0⟩
def CMP_INST_LAST_SLOTS : Fld := ⟨0x4068, 30, 16⟩
def CMP_INST_TOKENS_TOKENS : Fld := ⟨0x406C, 18, 0⟩
def CMP_REJECT_COUNT : Fld := ⟨0x4080, 31, 0⟩
def CMP_VOID_COUNT : Fld := ⟨0x4084, 31, 0⟩
def STW_CTL_EN : Fld := ⟨0x5000, 0, 0⟩
def STW_ISA_MINOR : Fld := ⟨0x5004, 7, 0⟩
def STW_ISA_MAJOR : Fld := ⟨0x5004, 15, 8⟩
def STW_LIMIT_CYCLES : Fld := ⟨0x5008, 15, 0⟩
def STW_LOAD_ADDR_LO_ADDR : Fld := ⟨0x5010, 31, 0⟩
def STW_LOAD_ADDR_HI_ADDR : Fld := ⟨0x5014, 31, 0⟩
def STW_LOAD_CTL_SLOT : Fld := ⟨0x5018, 2, 0⟩
def STW_LOAD_CTL_SPACE : Fld := ⟨0x5018, 3, 3⟩
def STW_LOAD_CTL_GO : Fld := ⟨0x5018, 31, 31⟩
def STW_LOAD_STATUS_BUSY : Fld := ⟨0x501C, 0, 0⟩
def STW_LOAD_STATUS_RESULT : Fld := ⟨0x501C, 7, 4⟩
def STW_SLOT_SEL_SLOT : Fld := ⟨0x5020, 2, 0⟩
def STW_SLOT_INFO_NBUNDLE : Fld := ⟨0x5024, 12, 0⟩
def STW_SLOT_INFO_VALID : Fld := ⟨0x5024, 13, 13⟩
def STW_SLOT_INFO_MINOR : Fld := ⟨0x5024, 23, 16⟩
def STW_SLOT_INFO_MAJOR : Fld := ⟨0x5024, 31, 24⟩
def STW_SLOT_ID_LO_ID : Fld := ⟨0x5028, 31, 0⟩
def STW_SLOT_ID_HI_ID : Fld := ⟨0x502C, 31, 0⟩
def STW_OVERRUNS_COUNT : Fld := ⟨0x5030, 31, 0⟩
def STW_FAULTS_COUNT : Fld := ⟨0x5034, 31, 0⟩
def STW_LAST_FAULT_PC : Fld := ⟨0x5038, 12, 0⟩
def STW_LAST_FAULT_SLOT : Fld := ⟨0x5038, 15, 13⟩
def STW_LAST_FAULT_CAUSE : Fld := ⟨0x5038, 19, 16⟩
def STW_VIEW_PAGE_PAGE : Fld := ⟨0x5040, 5, 0⟩
def SHV_CTL_EN : Fld := ⟨0x6000, 0, 0⟩
def SHV_STATUS_MOVES : Fld := ⟨0x6004, 9, 0⟩
def SHV_CRT_BASE_LO_BASE : Fld := ⟨0x6008, 31, 0⟩
def SHV_CRT_BASE_HI_BASE : Fld := ⟨0x600C, 31, 0⟩
def SHV_MAP_BASE_LO_BASE : Fld := ⟨0x6010, 31, 0⟩
def SHV_MAP_BASE_HI_BASE : Fld := ⟨0x6014, 31, 0⟩
def SHV_MAP_NODES_NODES : Fld := ⟨0x6018, 25, 0⟩
def SHV_MAP_FREE_FREE : Fld := ⟨0x601C, 25, 0⟩
def SHV_PFX_BASE_LO_BASE : Fld := ⟨0x6020, 31, 0⟩
def SHV_PFX_BASE_HI_BASE : Fld := ⟨0x6024, 31, 0⟩
def SHV_PFX_CFG_LOG2_ENTRIES : Fld := ⟨0x6028, 4, 0⟩
def SHV_PFX_CFG_MAX_BLOCKS : Fld := ⟨0x6028, 25, 8⟩
def SHV_SIB_BASE_LO_BASE : Fld := ⟨0x602C, 31, 0⟩
def SHV_SIB_BASE_HI_BASE : Fld := ⟨0x6030, 31, 0⟩
def SHV_FDIR_BASE_LO_BASE : Fld := ⟨0x6034, 31, 0⟩
def SHV_FDIR_BASE_HI_BASE : Fld := ⟨0x6038, 31, 0⟩
def SHV_STORE_BASE_LO_BASE : Fld := ⟨0x603C, 31, 0⟩
def SHV_STORE_BASE_HI_BASE : Fld := ⟨0x6040, 31, 0⟩
def SHV_STORE_SIZE_GIB : Fld := ⟨0x6044, 10, 0⟩
def SHV_LARDER_BASE_LO_BASE : Fld := ⟨0x6048, 31, 0⟩
def SHV_LARDER_BASE_HI_BASE : Fld := ⟨0x604C, 31, 0⟩
def SHV_WM_SHELF_LOW : Fld := ⟨0x6050, 7, 0⟩
def SHV_WM_SHELF_HIGH : Fld := ⟨0x6050, 15, 8⟩
def SHV_WM_QUOTA_LOW : Fld := ⟨0x6050, 23, 16⟩
def SHV_WM_QUOTA_HIGH : Fld := ⟨0x6050, 31, 24⟩
def SHV_PROMOTE_MAX : Fld := ⟨0x6054, 15, 0⟩
def SHV_PART_SEL_PID : Fld := ⟨0x6060, 5, 0⟩
def SHV_PART_SHARE_DOMAIN : Fld := ⟨0x6064, 5, 0⟩
def SHV_PART_SHARE_OWN : Fld := ⟨0x6064, 6, 6⟩
def SHV_PART_SHARE_SHARE_EN : Fld := ⟨0x6064, 7, 7⟩
def SHV_INST_SEL_INST : Fld := ⟨0x6080, 3, 0⟩
def SHV_INST_QUOTA_BLOCKS : Fld := ⟨0x6084, 23, 0⟩
def SHV_INST_USE_BLOCKS : Fld := ⟨0x6088, 23, 0⟩
def SHV_INST_CELLAR_BLOCKS : Fld := ⟨0x608C, 23, 0⟩
def SHV_INST_CELLAR_FMT : Fld := ⟨0x608C, 27, 24⟩
def SHV_INST_CELLAR_USE_BLOCKS : Fld := ⟨0x6090, 23, 0⟩
def SHV_INST_SHELF_MIB : Fld := ⟨0x6094, 10, 0⟩
def SHV_INST_STREAM_INCREASE : Fld := ⟨0x6098, 15, 0⟩
def SHV_MODEL_SEL_MID : Fld := ⟨0x60A0, 11, 0⟩
def SHV_MODEL_STATE_STATE : Fld := ⟨0x60A4, 2, 0⟩
def SHV_MODEL_STATE_STREAM : Fld := ⟨0x60A4, 3, 3⟩
def SHV_MODEL_STATE_INST : Fld := ⟨0x60A4, 7, 4⟩
def SHV_PFX_HITS_COUNT : Fld := ⟨0x60C0, 31, 0⟩
def SHV_SPLITS_COUNT : Fld := ⟨0x60C4, 31, 0⟩
def SHV_MOVES_COUNT : Fld := ⟨0x60C8, 31, 0⟩
def SHV_PIN_FAIL_COUNT : Fld := ⟨0x60CC, 31, 0⟩
def PAN_CTL_EN : Fld := ⟨0x7000, 0, 0⟩
def PAN_STATUS_PIPES_OK : Fld := ⟨0x7004, 3, 0⟩
def PAN_STATUS_BULK : Fld := ⟨0x7004, 4, 4⟩
def PAN_STATUS_DEMAND : Fld := ⟨0x7004, 16, 8⟩
def PAN_STATUS_BACKGROUND : Fld := ⟨0x7004, 27, 17⟩
def PAN_SEED_n_SEED : Fld := ⟨0x7010, 31, 0⟩
def PAN_CMDS_COUNT : Fld := ⟨0x7040, 31, 0⟩
def PAN_SAT_COUNT : Fld := ⟨0x7044, 31, 0⟩
def PAN_NONFINITE_COUNT : Fld := ⟨0x7048, 31, 0⟩
def PAN_FAILS_INTACT : Fld := ⟨0x704C, 15, 0⟩
def PAN_FAILS_LOST : Fld := ⟨0x704C, 31, 16⟩
def PAN_LAST_CMD_n_DATA : Fld := ⟨0x7080, 31, 0⟩
def SMP_CTL_EN : Fld := ⟨0x8000, 0, 0⟩
def SMP_STATUS_ACTIVE : Fld := ⟨0x8004, 6, 0⟩
def SMP_STATUS_SPARES : Fld := ⟨0x8004, 10, 8⟩
def SMP_STATUS_JOIN_USED : Fld := ⟨0x8004, 23, 16⟩
def SMP_JOIN_TIMEOUT_TIMEOUT : Fld := ⟨0x8008, 23, 0⟩
def SMP_CTRL_BASE_LO_BASE : Fld := ⟨0x8010, 31, 0⟩
def SMP_CTRL_BASE_HI_BASE : Fld := ⟨0x8014, 31, 0⟩
def SMP_PEN_BASE_LO_BASE : Fld := ⟨0x8018, 31, 0⟩
def SMP_PEN_BASE_HI_BASE : Fld := ⟨0x801C, 31, 0⟩
def SMP_RETIRED_n_LANES : Fld := ⟨0x8020, 31, 0⟩
def SMP_ROWS_COUNT : Fld := ⟨0x8040, 31, 0⟩
def SMP_DISCARD_EPOCH_COUNT : Fld := ⟨0x8044, 31, 0⟩
def SMP_DISCARD_STALE_COUNT : Fld := ⟨0x8048, 31, 0⟩
def SMP_DISCARD_BAD_COUNT : Fld := ⟨0x804C, 31, 0⟩
def SMP_LOST_COUNT : Fld := ⟨0x8050, 31, 0⟩
def SMP_NONFINITE_COUNT : Fld := ⟨0x8054, 31, 0⟩
def SMP_REFINE_COUNT : Fld := ⟨0x8058, 31, 0⟩
def SMP_DRAFT_NODES_COUNT : Fld := ⟨0x805C, 31, 0⟩
def SMP_DRAFT_ACCEPTED_COUNT : Fld := ⟨0x8060, 31, 0⟩
def SMP_LANE_MAP_n_PHYS : Fld := ⟨0x8100, 6, 0⟩
def SMP_LANE_MAP_n_VALID : Fld := ⟨0x8100, 7, 7⟩
def SIV_CTL_EN : Fld := ⟨0x9000, 0, 0⟩
def SIV_STATUS_ENGINES_OK : Fld := ⟨0x9004, 3, 0⟩
def SIV_STATUS_CACHE_PINNED : Fld := ⟨0x9004, 19, 8⟩
def SIV_DIR_BASE_LO_BASE : Fld := ⟨0x9008, 31, 0⟩
def SIV_DIR_BASE_HI_BASE : Fld := ⟨0x900C, 31, 0⟩
def SIV_STACK_BASE_LO_BASE : Fld := ⟨0x9010, 31, 0⟩
def SIV_STACK_BASE_HI_BASE : Fld := ⟨0x9014, 31, 0⟩
def SIV_INSTALL_ADDR_LO_ADDR : Fld := ⟨0x9020, 31, 0⟩
def SIV_INSTALL_ADDR_HI_ADDR : Fld := ⟨0x9024, 31, 0⟩
def SIV_INSTALL_CTL_GRAMMAR_ID : Fld := ⟨0x9028, 15, 0⟩
def SIV_INSTALL_CTL_OP : Fld := ⟨0x9028, 16, 16⟩
def SIV_INSTALL_CTL_GO : Fld := ⟨0x9028, 31, 31⟩
def SIV_INSTALL_STATUS_BUSY : Fld := ⟨0x902C, 0, 0⟩
def SIV_INSTALL_STATUS_RESULT : Fld := ⟨0x902C, 7, 4⟩
def SIV_GRAMMAR_SEL_ID : Fld := ⟨0x9030, 15, 0⟩
def SIV_GRAMMAR_INFO_STATE : Fld := ⟨0x9034, 1, 0⟩
def SIV_GRAMMAR_INFO_MID : Fld := ⟨0x9034, 15, 4⟩
def SIV_GRAMMAR_LIVE_LIVE : Fld := ⟨0x9038, 23, 0⟩
def SIV_ROWS_COUNT : Fld := ⟨0x9040, 31, 0⟩
def SIV_CACHE_MISS_COUNT : Fld := ⟨0x9044, 31, 0⟩
def SIV_STALL_COUNT : Fld := ⟨0x9048, 31, 0⟩
def SIV_PRUNED_COUNT : Fld := ⟨0x904C, 31, 0⟩
def SIV_ENDS_COUNT : Fld := ⟨0x9050, 31, 0⟩
def RSU_CTL_EN : Fld := ⟨0xA000, 0, 0⟩
def RSU_STATUS_LANE_GENS : Fld := ⟨0xA004, 6, 0⟩
def RSU_STATUS_PAN_GENS : Fld := ⟨0xA004, 11, 8⟩
def RSU_STATUS_SVC_OK : Fld := ⟨0xA004, 12, 12⟩
def RSU_STATUS_JUMP_OK : Fld := ⟨0xA004, 13, 13⟩
def RSU_SVC_SEED_n_SEED : Fld := ⟨0xA010, 31, 0⟩
def RSU_PROBE_n_COORD : Fld := ⟨0xA040, 31, 0⟩
def RSU_PROBE_CTL_BUSY : Fld := ⟨0xA064, 0, 0⟩
def RSU_PROBE_CTL_GO : Fld := ⟨0xA064, 31, 31⟩
def RSU_PROBE_OUT_LO_DRAW : Fld := ⟨0xA068, 31, 0⟩
def RSU_PROBE_OUT_HI_DRAW : Fld := ⟨0xA06C, 31, 0⟩
def RSU_JUMPS_COUNT : Fld := ⟨0xA080, 31, 0⟩
def RSU_SVC_DRAWS_COUNT : Fld := ⟨0xA084, 31, 0⟩
def RSU_SVC_BAD_COUNT : Fld := ⟨0xA088, 31, 0⟩
def BIN_CTL_EN : Fld := ⟨0xB000, 0, 0⟩
def BIN_STATUS_BANKS_OK : Fld := ⟨0xB004, 7, 0⟩
def BIN_STATUS_ONCHIP : Fld := ⟨0xB004, 21, 8⟩
def BIN_SPILL_BASE_LO_BASE : Fld := ⟨0xB008, 31, 0⟩
def BIN_SPILL_BASE_HI_BASE : Fld := ⟨0xB00C, 31, 0⟩
def BIN_SPILL_DEPTH_LOG2_DEPTH : Fld := ⟨0xB010, 4, 0⟩
def BIN_SPILLED_COUNT : Fld := ⟨0xB014, 26, 0⟩
def BIN_AFF_WAIT_WAIT : Fld := ⟨0xB018, 23, 0⟩
def BIN_TAKE_WAIT_WAIT : Fld := ⟨0xB01C, 31, 0⟩
def BIN_REFILL_LOW : Fld := ⟨0xB020, 13, 0⟩
def BIN_LEVEL_SEL_LEVEL : Fld := ⟨0xB030, 5, 0⟩
def BIN_LEVEL_COUNT_COUNT : Fld := ⟨0xB034, 26, 0⟩
def BIN_CLUSTER_SEL_CLUSTER : Fld := ⟨0xB040, 3, 0⟩
def BIN_CLUSTER_PART_LO_PART : Fld := ⟨0xB044, 31, 0⟩
def BIN_CLUSTER_PART_HI_PART : Fld := ⟨0xB048, 31, 0⟩
def BIN_TRACE_BASE_LO_BASE : Fld := ⟨0xB060, 31, 0⟩
def BIN_TRACE_BASE_HI_BASE : Fld := ⟨0xB064, 31, 0⟩
def BIN_TRACE_CFG_EN : Fld := ⟨0xB068, 0, 0⟩
def BIN_TRACE_CFG_LOG2_RECORDS : Fld := ⟨0xB068, 12, 8⟩
def BIN_TRACE_CFG_KINDS : Fld := ⟨0xB068, 23, 16⟩
def BIN_TRACE_HEAD_HEAD : Fld := ⟨0xB06C, 31, 0⟩
def BIN_PUSHES_COUNT : Fld := ⟨0xB080, 31, 0⟩
def BIN_TAKES_COUNT : Fld := ⟨0xB084, 31, 0⟩
def BIN_SPILLS_COUNT : Fld := ⟨0xB088, 31, 0⟩
def BIN_REFILLS_COUNT : Fld := ⟨0xB08C, 31, 0⟩
def BIN_PURGED_COUNT : Fld := ⟨0xB090, 31, 0⟩
def BIN_PUSH_STALL_COUNT : Fld := ⟨0xB094, 31, 0⟩
def BIN_PUSH_BAD_COUNT : Fld := ⟨0xB098, 31, 0⟩
def BIN_LOST_COUNT : Fld := ⟨0xB09C, 31, 0⟩
def KPR_CTL_EN : Fld := ⟨0xC000, 0, 0⟩
def KPR_STATUS_ACTIVE : Fld := ⟨0xC004, 6, 0⟩
def KPR_STATUS_IN_SERVICE : Fld := ⟨0xC004, 14, 8⟩
def KPR_PART_SEL_PID : Fld := ⟨0xC010, 5, 0⟩
def KPR_PART_CTL_EN : Fld := ⟨0xC014, 0, 0⟩
def KPR_PART_CTL_MODE : Fld := ⟨0xC014, 2, 1⟩
def KPR_PART_CTL_SHARE : Fld := ⟨0xC014, 31, 16⟩
def KPR_PART_TILES_GROUPS : Fld := ⟨0xC018, 15, 0⟩
def KPR_PART_GUESTS_LO_GUESTS : Fld := ⟨0xC01C, 31, 0⟩
def KPR_PART_GUESTS_HI_GUESTS : Fld := ⟨0xC020, 31, 0⟩
def KPR_PART_SLICE_SLICE : Fld := ⟨0xC024, 31, 0⟩
def KPR_PART_PASS_LO_PASS : Fld := ⟨0xC028, 31, 0⟩
def KPR_PART_PASS_HI_PASS : Fld := ⟨0xC02C, 31, 0⟩
def KPR_PART_STORE_RATE_RATE : Fld := ⟨0xC030, 31, 0⟩
def KPR_PART_STORE_BURST_BURST : Fld := ⟨0xC034, 31, 0⟩
def KPR_PART_STORE_LEVEL_LEVEL : Fld := ⟨0xC038, 31, 0⟩
def KPR_PART_CELLAR_RATE_RATE : Fld := ⟨0xC03C, 31, 0⟩
def KPR_PART_CELLAR_BURST_BURST : Fld := ⟨0xC040, 31, 0⟩
def KPR_PART_CELLAR_LEVEL_LEVEL : Fld := ⟨0xC044, 31, 0⟩
def KPR_PART_RAF_RATE_RATE : Fld := ⟨0xC048, 31, 0⟩
def KPR_PART_RAF_BURST_BURST : Fld := ⟨0xC04C, 31, 0⟩
def KPR_PART_RAF_LEVEL_LEVEL : Fld := ⟨0xC050, 31, 0⟩
def KPR_PART_RAF_RESV_RING : Fld := ⟨0xC054, 7, 0⟩
def KPR_PART_RAF_RESV_SLED : Fld := ⟨0xC054, 15, 8⟩
def KPR_PART_SLOW_SLOW : Fld := ⟨0xC058, 15, 0⟩
def KPR_PART_SLOW_LIMIT_LIMIT : Fld := ⟨0xC05C, 15, 0⟩
def KPR_GVT_LO_GVT : Fld := ⟨0xC080, 31, 0⟩
def KPR_GVT_HI_GVT : Fld := ⟨0xC084, 31, 0⟩
def KPR_ACCT_INTERVAL_INTERVAL : Fld := ⟨0xC088, 31, 0⟩
def KPR_SLOW_BASE_LO_BASE : Fld := ⟨0xC08C, 31, 0⟩
def KPR_SLOW_BASE_HI_BASE : Fld := ⟨0xC090, 31, 0⟩
def KPR_SLOW_CFG_LOG2_BLOCKS : Fld := ⟨0xC094, 4, 0⟩
def KPR_SLOW_HEAD_HEAD : Fld := ⟨0xC098, 31, 0⟩
def KPR_CTX_CMD_OP : Fld := ⟨0xC100, 2, 0⟩
def KPR_CTX_CMD_MODE : Fld := ⟨0xC100, 3, 3⟩
def KPR_CTX_CMD_DEST : Fld := ⟨0xC100, 4, 4⟩
def KPR_CTX_CMD_LOGICAL_ONLY : Fld := ⟨0xC100, 5, 5⟩
def KPR_CTX_CMD_SPACE : Fld := ⟨0xC100, 6, 6⟩
def KPR_CTX_CMD_INST : Fld := ⟨0xC100, 11, 8⟩
def KPR_CTX_CMD_RING : Fld := ⟨0xC100, 23, 16⟩
def KPR_CTX_CMD_GO : Fld := ⟨0xC100, 31, 31⟩
def KPR_CTX_ADDR_LO_ADDR : Fld := ⟨0xC104, 31, 0⟩
def KPR_CTX_ADDR_HI_ADDR : Fld := ⟨0xC108, 31, 0⟩
def KPR_CTX_STATUS_BUSY : Fld := ⟨0xC10C, 0, 0⟩
def KPR_CTX_STATUS_STATUS : Fld := ⟨0xC10C, 15, 8⟩
def KPR_CTX_BYTES_LO_BYTES : Fld := ⟨0xC110, 31, 0⟩
def KPR_CTX_BYTES_HI_BYTES : Fld := ⟨0xC114, 31, 0⟩
def KPR_SAVE_BASE_LO_BASE : Fld := ⟨0xC118, 31, 0⟩
def KPR_SAVE_BASE_HI_BASE : Fld := ⟨0xC11C, 31, 0⟩
def KPR_SAVE_SIZE_GIB : Fld := ⟨0xC120, 7, 0⟩
def KPR_BLOCK_WINDOW_WINDOW : Fld := ⟨0xC124, 31, 0⟩
def KPR_DONATE_WARN_WARN : Fld := ⟨0xC128, 31, 0⟩
def KPR_SAVE_RATE_RATE : Fld := ⟨0xC12C, 13, 0⟩
def KPR_SEM_SEL_SEM : Fld := ⟨0xC140, 5, 0⟩
def KPR_SEM_STATE_HELD : Fld := ⟨0xC144, 0, 0⟩
def KPR_SEM_STATE_SWAPPED : Fld := ⟨0xC144, 1, 1⟩
def KPR_SEM_STATE_PID : Fld := ⟨0xC144, 7, 2⟩
def KPR_SEM_STATE_INST : Fld := ⟨0xC144, 11, 8⟩
def KPR_SEM_STATE_WAITERS : Fld := ⟨0xC144, 23, 16⟩
def KPR_SEM_PART_LO_PART : Fld := ⟨0xC148, 31, 0⟩
def KPR_SEM_PART_HI_PART : Fld := ⟨0xC14C, 31, 0⟩
def KPR_CTX_STATE_n_STATE : Fld := ⟨0xC180, 1, 0⟩
def KPR_CTX_STATE_n_HELD : Fld := ⟨0xC180, 2, 2⟩
def KPR_CTX_STATE_n_FROZEN : Fld := ⟨0xC180, 3, 3⟩
def KPR_CTX_STATE_n_BLOCKED : Fld := ⟨0xC180, 4, 4⟩
def KPR_CTX_STATE_n_DONATING : Fld := ⟨0xC180, 5, 5⟩
def KPR_SAVES_DRAIN_COUNT : Fld := ⟨0xC1C0, 31, 0⟩
def KPR_SAVES_FREEZE_COUNT : Fld := ⟨0xC1C4, 31, 0⟩
def KPR_RESTORES_COUNT : Fld := ⟨0xC1C8, 31, 0⟩
def KPR_EVICTIONS_COUNT : Fld := ⟨0xC1CC, 31, 0⟩
def KPR_DONATIONS_COUNT : Fld := ⟨0xC1D0, 31, 0⟩
def KPR_SEM_DENIED_COUNT : Fld := ⟨0xC1D4, 31, 0⟩
def KPR_PWR_CAP_CAP : Fld := ⟨0xC200, 12, 0⟩
def KPR_PWR_CAP_MAX_MAX : Fld := ⟨0xC204, 12, 0⟩
def KPR_PWR_GUARD_GUARD : Fld := ⟨0xC208, 11, 0⟩
def KPR_PWR_DRAW_UNITS : Fld := ⟨0xC20C, 12, 0⟩
def KPR_PWR_BASE_UNITS : Fld := ⟨0xC210, 12, 0⟩
def KPR_PWR_LEAVE_UNITS : Fld := ⟨0xC214, 12, 0⟩
def KPR_LEAVE_AMT_CONFIG : Fld := ⟨0xC218, 9, 0⟩
def KPR_LEAVE_AMT_BULK : Fld := ⟨0xC218, 19, 10⟩
def KPR_LEAVE_AMT_PREFILL_MAX : Fld := ⟨0xC218, 30, 20⟩
def KPR_LEAVE_PREFILL_PER_KTOK : Fld := ⟨0xC21C, 7, 0⟩
def KPR_LEAVE_PREFILL_THRESH : Fld := ⟨0xC21C, 26, 8⟩
def KPR_LEAVE_WAIT_WAIT : Fld := ⟨0xC220, 23, 0⟩
def KPR_LEAVE_QUEUE_COUNT : Fld := ⟨0xC224, 6, 0⟩
def KPR_LEAVE_GRANTS_COUNT : Fld := ⟨0xC240, 31, 0⟩
def KPR_LEAVE_REFUSED_COUNT : Fld := ⟨0xC244, 31, 0⟩
def KPR_LEAVE_LATE_COUNT : Fld := ⟨0xC248, 31, 0⟩
def KPR_POWER_OVER_COUNT : Fld := ⟨0xC24C, 31, 0⟩
def KPR_ACCT_BASE_LO_BASE : Fld := ⟨0xC260, 31, 0⟩
def KPR_ACCT_BASE_HI_BASE : Fld := ⟨0xC264, 31, 0⟩
def KPR_ACCT_CFG_LOG2_RECORDS : Fld := ⟨0xC268, 4, 0⟩
def KPR_ACCT_CFG_REQ_EN : Fld := ⟨0xC268, 8, 8⟩
def KPR_ACCT_HEAD_COUNT : Fld := ⟨0xC26C, 31, 0⟩
def KPR_ACCT_READ_COUNT : Fld := ⟨0xC270, 31, 0⟩
def KPR_ACCT_LOST_COUNT : Fld := ⟨0xC274, 31, 0⟩
def KPR_ACCT_UNATTR_LO_NJ : Fld := ⟨0xC278, 31, 0⟩
def KPR_ACCT_UNATTR_HI_NJ : Fld := ⟨0xC27C, 31, 0⟩
def RAF_CTL_EN : Fld := ⟨0xD000, 0, 0⟩
def RAF_STATUS_ACTIVE : Fld := ⟨0xD004, 11, 0⟩
def RAF_STATUS_SPARE_USED : Fld := ⟨0xD004, 12, 12⟩
def RAF_VERSION_MIN_VER : Fld := ⟨0xD008, 15, 0⟩
def RAF_VERSION_MAX_VER : Fld := ⟨0xD008, 31, 16⟩
def RAF_POS_POS : Fld := ⟨0xD00C, 21, 0⟩
def RAF_MAP_ADDR_LO_ADDR : Fld := ⟨0xD010, 31, 0⟩
def RAF_MAP_ADDR_HI_ADDR : Fld := ⟨0xD014, 31, 0⟩
def RAF_MAP_CTL_BUSY : Fld := ⟨0xD018, 0, 0⟩
def RAF_MAP_CTL_SPACE : Fld := ⟨0xD018, 1, 1⟩
def RAF_MAP_CTL_RESULT : Fld := ⟨0xD018, 7, 4⟩
def RAF_MAP_CTL_GO : Fld := ⟨0xD018, 31, 31⟩
def RAF_MAP_ID_MAP_ID : Fld := ⟨0xD01C, 31, 0⟩
def RAF_SYNC_CFG_INTERVAL : Fld := ⟨0xD020, 23, 0⟩
def RAF_TIME_PARENT : Fld := ⟨0xD024, 3, 0⟩
def RAF_TIME_DEPTH : Fld := ⟨0xD024, 7, 4⟩
def RAF_TIME_VOTING : Fld := ⟨0xD024, 9, 8⟩
def RAF_TIME_MASTER : Fld := ⟨0xD024, 10, 10⟩
def RAF_TIME_ACTING : Fld := ⟨0xD024, 11, 11⟩
def RAF_OFFSET_THETA : Fld := ⟨0xD028, 31, 0⟩
def RAF_RATE_RATE : Fld := ⟨0xD02C, 31, 0⟩
def RAF_REMAP_LO_MAP : Fld := ⟨0xD030, 31, 0⟩
def RAF_REMAP_HI_MAP : Fld := ⟨0xD034, 31, 0⟩
def RAF_LANE_n_STATE : Fld := ⟨0xD040, 2, 0⟩
def RAF_LANE_n_PEER_LANE : Fld := ⟨0xD040, 7, 4⟩
def RAF_LANE_n_PEER : Fld := ⟨0xD040, 13, 8⟩
def RAF_LANE_n_VER : Fld := ⟨0xD040, 31, 16⟩
def RAF_CRC_ERR_COUNT : Fld := ⟨0xD080, 31, 0⟩
def RAF_RETRY_COUNT : Fld := ⟨0xD084, 31, 0⟩
def RAF_RELAYED_COUNT : Fld := ⟨0xD088, 31, 0⟩
def RAF_LATE_SENT_COUNT : Fld := ⟨0xD08C, 31, 0⟩
def RAF_SYNC_MISSED_COUNT : Fld := ⟨0xD090, 31, 0⟩
def TAL_NOW_LO_NOW : Fld := ⟨0xE000, 31, 0⟩
def TAL_NOW_HI_NOW : Fld := ⟨0xE004, 31, 0⟩
def TAL_FRAC_FRAC : Fld := ⟨0xE008, 15, 0⟩
def TAL_STATUS_STATE : Fld := ⟨0xE00C, 1, 0⟩
def TAL_STATUS_ERR_BOUND : Fld := ⟨0xE00C, 15, 8⟩
def TAL_CST_CTL_EN : Fld := ⟨0xE020, 0, 0⟩
def TAL_CST_CTL_BANK : Fld := ⟨0xE020, 1, 1⟩
def TAL_CST_CTL_ACTIVE_BANK : Fld := ⟨0xE020, 2, 2⟩
def TAL_CST_CTL_GUARD : Fld := ⟨0xE020, 27, 8⟩
def TAL_CST_BASE_LO_BASE : Fld := ⟨0xE024, 31, 0⟩
def TAL_CST_BASE_HI_BASE : Fld := ⟨0xE028, 31, 0⟩
def TAL_CST_NSLOT_N0 : Fld := ⟨0xE02C, 12, 0⟩
def TAL_CST_NSLOT_N1 : Fld := ⟨0xE02C, 28, 16⟩
def TAL_CST_ADDR_SLOT : Fld := ⟨0xE030, 11, 0⟩
def TAL_CST_ADDR_BANK_SEL : Fld := ⟨0xE030, 16, 16⟩
def TAL_CST_DATA_LO_DATA : Fld := ⟨0xE034, 31, 0⟩
def TAL_CST_DATA_HI_DATA : Fld := ⟨0xE038, 31, 0⟩
def TAL_CST_LEN_LO_LEN : Fld := ⟨0xE03C, 31, 0⟩
def TAL_CST_LEN_HI_LEN : Fld := ⟨0xE040, 31, 0⟩
def TAL_CST_CRC_CRC : Fld := ⟨0xE044, 31, 0⟩
def TAL_CST_BARRED_LO_BARRED : Fld := ⟨0xE048, 31, 0⟩
def TAL_CST_BARRED_HI_BARRED : Fld := ⟨0xE04C, 31, 0⟩
def TAL_EDGE_LEAD_n_LEAD : Fld := ⟨0xE080, 19, 0⟩
def TAL_EDGE_FLOOR_n_FLOOR : Fld := ⟨0xE0C0, 19, 0⟩
def RAS_CTL_LOG_CORRECTED : Fld := ⟨0xF000, 0, 0⟩
def RAS_STATUS_HANDLING : Fld := ⟨0xF004, 15, 0⟩
def RAS_STATUS_QUIESCING : Fld := ⟨0xF004, 16, 16⟩
def RAS_STATUS_QUIESCED : Fld := ⟨0xF004, 17, 17⟩
def RAS_QUIESCE_CAUSE_CODE : Fld := ⟨0xF008, 11, 0⟩
def RAS_QUIESCE_CAUSE_UNIT : Fld := ⟨0xF008, 16, 12⟩
def RAS_QUIESCE_WAIT_WAIT : Fld := ⟨0xF00C, 31, 0⟩
def RAS_CORRECTED_COUNT : Fld := ⟨0xF010, 31, 0⟩
def RAS_UNIT_SEL_UNIT : Fld := ⟨0xF020, 4, 0⟩
def RAS_UNIT_STATE_HANDLING : Fld := ⟨0xF024, 0, 0⟩
def RAS_UNIT_STATE_CAP1_V : Fld := ⟨0xF024, 1, 1⟩
def RAS_UNIT_STATE_CAP2_V : Fld := ⟨0xF024, 2, 2⟩
def RAS_UNIT_STATE_HALTED : Fld := ⟨0xF024, 3, 3⟩
def RAS_UNIT_STATE_OVERFLOW : Fld := ⟨0xF024, 31, 16⟩
def RAS_UNIT_POP_POP : Fld := ⟨0xF028, 0, 0⟩
def RAS_CAP1_n_DATA : Fld := ⟨0xF040, 31, 0⟩
def RAS_CAP2_n_DATA : Fld := ⟨0xF060, 31, 0⟩
def RAS_MIRROR_CTL_EN : Fld := ⟨0xF080, 0, 0⟩
def RAS_MIRROR_CTL_BUDDY : Fld := ⟨0xF080, 13, 8⟩
def RAS_MIRROR_CTL_BUDDY_V : Fld := ⟨0xF080, 14, 14⟩
def RAS_MIRROR_CTL_RING_BUDDY : Fld := ⟨0xF080, 21, 16⟩
def RAS_MIRROR_CTL_RING_BUDDY_V : Fld := ⟨0xF080, 22, 22⟩
def RAS_MIRROR_STATE_SLED : Fld := ⟨0xF084, 1, 0⟩
def RAS_MIRROR_STATE_RING : Fld := ⟨0xF084, 3, 2⟩
def RAS_MIRROR_STATE_UNACKED : Fld := ⟨0xF084, 31, 8⟩
def RAS_MIRROR_BASE_LO_BASE : Fld := ⟨0xF088, 31, 0⟩
def RAS_MIRROR_BASE_HI_BASE : Fld := ⟨0xF08C, 31, 0⟩
def RAS_SHADOW_BASE_LO_BASE : Fld := ⟨0xF090, 31, 0⟩
def RAS_SHADOW_BASE_HI_BASE : Fld := ⟨0xF094, 31, 0⟩
def RAS_SHADOW_STRIDE_GIB : Fld := ⟨0xF098, 7, 0⟩
def RAS_TAKEOVER_CHIP : Fld := ⟨0xF0A0, 5, 0⟩
def RAS_TAKEOVER_GO : Fld := ⟨0xF0A0, 31, 31⟩
def RAS_TAKEOVER_STATUS_BUSY : Fld := ⟨0xF0A4, 0, 0⟩
def RAS_TAKEOVER_STATUS_RESULT : Fld := ⟨0xF0A4, 7, 4⟩
def RAS_TAKEOVER_STATUS_COUNT : Fld := ⟨0xF0A4, 31, 8⟩
def CNT_CTL_EN : Fld := ⟨0x10000, 0, 0⟩
def CNT_CTL_FREEZE : Fld := ⟨0x10000, 1, 1⟩
def CNT_CTL_ARM : Fld := ⟨0x10000, 2, 2⟩
def CNT_CTL_FROZEN : Fld := ⟨0x10000, 3, 3⟩
def CNT_CTL_CLEAR : Fld := ⟨0x10000, 31, 31⟩
def CNT_FREEZE_AT_LO_TALLY : Fld := ⟨0x10008, 31, 0⟩
def CNT_FREEZE_AT_HI_TALLY : Fld := ⟨0x1000C, 31, 0⟩
def CNT_TRC_BASE_LO_BASE : Fld := ⟨0x10010, 31, 0⟩
def CNT_TRC_BASE_HI_BASE : Fld := ⟨0x10014, 31, 0⟩
def CNT_TRC_CFG_EN : Fld := ⟨0x10018, 0, 0⟩
def CNT_TRC_CFG_LOG2_RECORDS : Fld := ⟨0x10018, 12, 8⟩
def CNT_TRC_CFG_KINDS : Fld := ⟨0x10018, 31, 16⟩
def CNT_TRC_HEAD_HEAD : Fld := ⟨0x1001C, 31, 0⟩
def CNT_TRC_LOST_COUNT : Fld := ⟨0x10020, 31, 0⟩
def CNT_SEL_n_SRC : Fld := ⟨0x10100, 15, 0⟩
def CNT_SEL_n_PID : Fld := ⟨0x10100, 21, 16⟩
def CNT_SEL_n_PID_EN : Fld := ⟨0x10100, 22, 22⟩
def CNT_SEL_n_INST : Fld := ⟨0x10100, 26, 23⟩
def CNT_SEL_n_INST_EN : Fld := ⟨0x10100, 27, 27⟩
def CNT_SEL_n_OVF : Fld := ⟨0x10100, 31, 31⟩
def CNT_VAL_n_LO_VALUE : Fld := ⟨0x10200, 31, 0⟩
def CNT_VAL_n_HI_VALUE : Fld := ⟨0x10204, 31, 0⟩
def DBG_CTL_PORT_EN : Fld := ⟨0x11000, 0, 0⟩
def DBG_STATUS_OPEN : Fld := ⟨0x11004, 0, 0⟩
def DBG_STATUS_ENGINE_HALTED : Fld := ⟨0x11004, 1, 1⟩
def DBG_STATUS_STW_HALTED : Fld := ⟨0x11004, 2, 2⟩
def DBG_STATUS_BRK_HIT : Fld := ⟨0x11004, 7, 4⟩
def DBG_BRK_HITS_COUNT : Fld := ⟨0x11008, 31, 0⟩
def HAT_DBWIN_n_COUNT : Fld := ⟨0x1C000, 31, 0⟩

end Sys2Proof.Machine.F
end

