-- ==== Sys2Proof/Machine/Tab.lean ====
section
/-!
DEFINITION. Sparse tables: lists of key and value pairs with strictly rising keys, the one form in which State holds
registers, slots, pages and other numbered items.
-/
namespace Sys2Proof.Machine

/-- A sparse table by number. -/
abbrev Tab (α : Type) := List (Nat × α)

/-- The value at a key, if the table lists one. -/
def tget {α : Type} (t : Tab α) (k : Nat) : Option α :=
  match t with
  | [] => none
  | (j, v) :: r => if k = j then some v else tget r k

/-- The table with `v` at `k`. -/
def tput {α : Type} (t : Tab α) (k : Nat) (v : α) : Tab α :=
  match t with
  | [] => [(k, v)]
  | (j, u) :: r =>
    if k = j then (k, v) :: r else if k < j then (k, v) :: (j, u) :: r else (j, u) :: tput r k v

/-- The table without an entry at `k`. -/
def tdel {α : Type} (t : Tab α) (k : Nat) : Tab α :=
  match t with
  | [] => []
  | (j, u) :: r => if k = j then tdel r k else (j, u) :: tdel r k

/-- The value at a key, or the default of an unlisted key. -/
def tgetD {α : Type} (t : Tab α) (k : Nat) (d : α) : α := (tget t k).getD d

/-- Write `v` at `k` in canonical form: a value equal to the default `d` is not listed. -/
def tsetD {α : Type} [DecidableEq α] (t : Tab α) (k : Nat) (v d : α) : Tab α :=
  if v = d then tdel t k else tput t k v

/-- Change the value at a key, if the table lists one. -/
def tmod {α : Type} (t : Tab α) (k : Nat) (f : α → α) : Tab α :=
  match tget t k with
  | some v => tput t k (f v)
  | none => t

/-- Strictly rising keys. -/
def Tab.sorted {α : Type} (t : Tab α) : Bool :=
  match t with
  | [] => true
  | (j, _) :: r =>
    (match r with
     | [] => true
     | (k, _) :: _ => decide (j < k)) && Tab.sorted r

/-- Every value of the table changed by `f`. -/
def tmap {α : Type} (t : Tab α) (f : Nat → α → α) : Tab α := t.map (fun p => (p.1, f p.1 p.2))

end Sys2Proof.Machine
end

