-- ==== Sys2Proof/Machine/State.lean ====
section
/-!
DEFINITION. The state of the engine as plain data: every register, ring, table, queue and buffer that spec/ gives it, the
reset sequencer and the queue of waiting commands; the faults and refusals; and the state right after reset.
-/
namespace Sys2Proof.Machine

/-- A fault: no command of this block stops the machine with a fault; every fault of the engine is a record in State
(spec/18_errors_and_redundancy.md R576). The one constructor marks a value the model cannot form. -/
inductive Fault where
  /-- Raised by nothing: kept so that the type is not empty. Safe. -/
  | unreachable
deriving DecidableEq, Repr

/-- Why a command has no meaning. -/
inductive Refusal where
  /-- The command of this mnemonic has no meaning in the model yet. Safe. -/
  | notModelled (mnemonic : String)
  /-- A SETC that names a context register index R236 does not list, which the spec calls undefined. Safe. -/
  | undefinedContextWrite
  /-- A KBEGIN mode that R239 calls undefined. Safe. -/
  | undefinedSelectionMode
deriving DecidableEq, Repr

/-! ### Records that leave the engine -/

/-- A completion record of R102 (spec/03_hatch_rings_and_doorbells.md). PHASE is set where the record is written. -/
structure CmpRec where
  status : Nat
  final : Bool := false
  cont : Bool := false
  order : Bool := false
  logprob : Bool := false
  ntok : Nat := 0
  sib : Nat := 63
  gen : Nat := 0
  ring : Nat := 0
  rqid : Nat := 0
  tag : Nat := 0
  stamp : Nat := 0
  step : Nat := 0
  toks : List Nat := []
deriving DecidableEq, Repr

/-- An event record of R109. PHASE and LOST are set where the record is written. -/
structure EvtRec where
  code : Nat
  pid : Nat := 0
  /-- The event concerns a partition (Scope P of R599). -/
  part : Bool := false
  unit : Nat := 0
  fault : Nat := 0
  stamp : Nat := 0
  rqid : Nat := 0
  gen : Nat := 0
  arg : Nat := 0
  /-- The instance ARG names, for the filter of R601. -/
  inst : Option Nat := none
deriving DecidableEq, Repr

/-- A decision trace record of R604 (spec/19_counters_trace_debug.md). -/
structure TraceRec where
  kind : Nat
  inst : Nat := 0
  pid : Nat := 0
  pidV : Bool := false
  status : Nat := 0
  sib : Nat := 0
  rqid : Nat := 0
  step : Nat := 0
  gen : Nat := 0
  arg : Nat := 0
  stamp : Nat := 0
deriving DecidableEq, Repr

/-- A fault record of R576 (spec/18_errors_and_redundancy.md). -/
structure FaultRec where
  code : Nat
  cls : Nat := 1
  escalated : Bool := false
  handling : Bool := false
  unit : Nat := 0
  part : Nat := 0x7F
  rqid : Nat := 0
  stamp : Nat := 0
  gen : Nat := 0
  pid : Nat := 0
  pidV : Bool := false
  inst : Nat := 0
  syndrome : Nat := 0
  addr : Nat := 0
deriving DecidableEq, Repr

/-! ### Slots and steps (spec/05_batch_composition.md) -/

/-- A crate-list entry of R212. -/
structure CrateEnt where
  crate : Nat
  lg : Nat
  block : Nat
  tier : Nat
  use : Nat
deriving DecidableEq, Repr

/-- A slot of a composition or packet: R210, with the Ledger slot of its sibling's record, the drafts reserved (R195),
the entries reserved (R196), whether it has been bound (R199), whether its commit or loss has been resolved, and whether it
is a slot re-issued for a lost one (R200, R202, R206). KIND: 0 VOID, 1 DECODE, 2 PREFILL, 3 TREE. -/
structure Slot where
  kind : Nat := 0
  last : Bool := false
  copy : Bool := false
  dset : Bool := false
  ndraft : Nat := 0
  gen : Nat := 0
  rqid : Nat := 0
  sib : Nat := 0
  lslot : Nat := 0
  draft : Nat := 0
  pos : Nat := 0
  ntok : Nat := 0
  /-- Tokens reserved at composition (R195, R201). -/
  tok : Nat := 0
  ncrate : Nat := 0
  root : Nat := 0
  rootV : Bool := false
  src : Nat := 0
  drawSlot : Nat := 0
  drawStep : Nat := 0
  rsv : Nat := 0
  copyN : Nat := 0
  /-- Groups that the slot's APPEND has pinned (R287), those of a lost slot that it re-issues among them (R202). -/
  pins : List Nat := []
  /-- Crate entries reserved at composition (R196). -/
  ents : List CrateEnt := []
  bound : Bool := false
  reissue : Bool := false
  done : Bool := false
  lost : Bool := false
  /-- A slot that re-issues a lost one by an append of its own: the pins and the void entries of that append (R200, R202). -/
  own : List Nat := []
  ownEnts : Nat := 0
  /-- A lost slot: its step and its index there, by which carried slots are ordered (R202, R206). -/
  lostStep : Nat := 0
  lostIdx : Nat := 0
deriving DecidableEq, Repr

/-- A packet header of R209. -/
structure Packet where
  epoch : Nat
  inst : Nat
  mid : Nat
  cfg : Nat
  owner : Nat
  leadInst : Nat
  step : Nat
  edge : Nat
  emit : Nat
  est : Nat
  slots : List Slot
  ents : List CrateEnt
deriving DecidableEq, Repr

/-- A step that has been emitted (lead) or armed (follower) and has not resolved: R207. -/
structure Step where
  num : Nat
  edge : Nat
  emit : Nat
  est : Nat
  epoch : Nat
  cfg : Nat := 0
  slots : List Slot
  /-- The edge has been taken. -/
  started : Bool := false
  /-- The array has reported step-done. -/
  arrayDone : Bool := false
  /-- Tally at which the step timer of R340 expires, once started. -/
  timer : Option Nat := none
  /-- The trigger for the following step has been given (R25). -/
  triggered : Bool := false
  /-- The number that its composition had among all compositions (R284). -/
  uid : Nat := 0
deriving DecidableEq, Repr

/-- The composition of an instance in COMPOSING or WAITING (R207). -/
structure Comp where
  num : Nat
  start : Nat
  waiting : Bool := false
  slots : List Slot := []
  est : Nat := 0
  cfg : Nat := 0
  rejects : Nat := 0
  prog : Nat := 0
  cycles : Nat := 0
  /-- PREFILL tokens need leave of R504 and it has been asked for. -/
  leaveOk : Bool := true
  /-- First Tally at which the edge may fall: the start of the step's leave (R503). -/
  notBefore : Nat := 0
  /-- Submission rings whose completion ring was blocked when the composition started (R113). -/
  blocked : List Nat := []
  /-- Sum of LFLD WANT by partition at the start (R467). -/
  wants : Tab Nat := []
  /-- Its number among all compositions, which no other one takes (R284). -/
  uid : Nat := 0
deriving DecidableEq, Repr

/-! ### Units -/

/-- A ring's counters (spec/03_hatch_rings_and_doorbells.md R77 to R92): configuration is in the ring's registers. -/
structure Ring where
  head : Nat := 0
  tail : Nat := 0
  /-- SUB: position of the next descriptor to fetch. -/
  fetched : Nat := 0
  /-- SUB: doorbell stamps, each with the count up to which it covers (R88), oldest first. -/
  stamps : List (Nat × Nat) := []
  /-- EVT: LOST is to be set in the next record written (R111). -/
  lostFlag : Bool := false
  /-- CMP: records of this ring held in the overflow area, oldest first (R112). -/
  ovf : List CmpRec := []
  /-- Tally of the last overrun: EN that the driver sets in the same tick reads 0 (R89, R623). -/
  overAt : Option Nat := none
deriving DecidableEq, Repr

/-- An order waiting under R116: its fields and its source (a ring and its position there, or a peer chip). -/
structure Order where
  opcode : Nat
  rqid : Nat
  gen : Nat
  stamp : Nat
  peer : Option Nat := none
  ring : Nat := 0
  seq : Nat := 0
  tag : Nat := 0
  flags : Nat := 0
  deadline : Nat := 0
  maxNew : Nat := 0
deriving DecidableEq, Repr

/-- What is found of a SUBMIT when it is fetched, whatever it then waits for: its place in the numbering of orders (R168), the outcome of the
check of GRAMMAR_ID (R386), and whether LED_CTL.EN was set (R114). -/
structure AtFetch where
  seq : Nat
  gramOk : Bool
  ledOn : Bool
deriving DecidableEq, Repr

/-- A descriptor fetched behind an order of its ring that is not yet applied (R91): its ring, its doorbell stamp, what was found at its fetch,
and the command. -/
structure Behind where
  ring : Nat
  stamp : Nat
  found : AtFetch
  cmd : Instr
deriving DecidableEq, Repr

/-- Hatch. -/
structure Hat where
  rings : Tab Ring := []
  /-- Agreed version, if any (R122). -/
  version : Option Nat := none
  /-- The ring served last and the descriptors left of its turn (R90). The spec names no starting ring: the model's choice is that ring 0
  comes first after reset (assumption log 59). -/
  rrRing : Nat := 255
  rrLeft : Nat := 0
  /-- Orders fetched or received and not yet applied (R116). -/
  orders : List Order := []
  orderSeq : Nat := 0
  /-- Descriptors fetched behind an order of their ring that is not yet applied (R91), in fetch order. -/
  behind : List Behind := []
  /-- Completion records held for a mirror acknowledgement (R591), with the mirror number each waits for. -/
  heldRecs : List (Nat × CmpRec) := []
  /-- Next Tally from which the poll of R84 may run again. -/
  nextPoll : Nat := 0
  /-- The overflow area (R112): how many records it has taken, and the records by place; a place keeps its record after the ring has it. -/
  overNext : Nat := 0
  ovfArea : Tab CmpRec := []
deriving DecidableEq, Repr

/-- A Ledger record: the fields of R133 and, below them, the model's own bookkeeping for rules that name it. -/
structure LRec where
  state : Nat
  kind : Bool := false
  hold : Bool := false
  sib : Nat := 0
  gen : Nat
  rqid : Nat
  mid : Nat := 0
  inst : Nat := 0
  ring : Nat := 0
  nsib : Nat := 0
  nextSib : Nat := 0xFFFFFF
  userTag : Nat := 0
  deadlineFirst : Nat := 0
  deadlineLast : Nat := 0
  promptLen : Nat := 0
  pos : Nat := 0
  maxNew : Nat := 0
  newCount : Nat := 0
  lastToken : Nat := 0
  prior : Nat := 0
  draftN : Nat := 0
  draft : Nat := 0
  draftV : Bool := false
  dsetLast : Bool := false
  submitStamp : Nat := 0
  admitStamp : Nat := 0
  firstStamp : Nat := 0
  crateRoot : Nat := 0
  rootV : Bool := false
  ctxCharge : Nat := 0
  sieve : Nat := 0
  lastStep : Nat := 0
  copyN : Nat := 0
  hist : Nat := 0
  qnext : Nat := 0xFFFFFF
  drawSlot : Nat := 0
  /-- DEADLINE_FIRST_MISSED has been raised for the request (R148). -/
  firstMissed : Bool := false
  /-- Tally of the first deferral (R154). -/
  deferredAt : Option Nat := none
  /-- History pages reserved and held for generated tokens (R631). -/
  pagesResv : Nat := 0
  pages : List Nat := []
  /-- Prompt and bias pages, first record only (R136). -/
  promptPages : List Nat := []
  biasPages : List Nat := []
  /-- Positions whose prefill replays committed tokens (R598): tokens to replay beyond the prompt. -/
  replay : Nat := 0
  /-- PRIOR of a PAUSED sibling that is SWAPPED, kept for its RESUME. -/
  priorPaused : Nat := 0
  /-- This sibling's first token still comes through the shared LAST row of R141. -/
  shared : Bool := true
  /-- Proposals posted for the sibling's next slot (R193, R359). -/
  posted : Nat := 0
deriving DecidableEq, Repr

/-- The Ledger (spec/04_ledger_and_admission.md). -/
structure Led where
  recs : Tab LRec := []
  /-- Last GEN issued for a slot (R16); an unlisted slot has issued none. -/
  gens : Tab Nat := []
  /-- Slots from this number up have never been allocated; they precede the freed slots in the list of R132. -/
  fresh : Nat := 0
  freed : List Nat := []
  /-- Records held hot, most recently used first (R128, R129). -/
  hot : List Nat := []
  /-- Parameter blocks by slot of the first record (R134). -/
  params : Tab DescBits := []
  /-- Prompt tokens and bias words as copied at SUBMIT, by first slot (R135, R136). -/
  prompts : Tab (List Nat) := []
  bias : Tab (List Nat) := []
  /-- Generated tokens by sibling slot, oldest first (R137). -/
  gent : Tab (List Nat) := []
  /-- History pages: pages from this number up have never been taken; then the freed ones (R637). -/
  pageFresh : Nat := 0
  pageFreed : List Nat := []
  /-- Pages in the pool, as GLB_INIT found it. -/
  pageCount : Nat := 0
  pagesReserved : Nat := 0
deriving DecidableEq, Repr

/-- The Gate. -/
structure Gat where
  live : Tab Nat := []
  ctxUse : Tab Nat := []
  bucket : Tab Nat := []
  /-- Deferred requests by first slot, in SUBMIT_STAMP order (R166). -/
  deferq : List Nat := []
  /-- Fetched requests not yet evaluated (R634), in Hatch fetch order: the place of each in the numbering of orders, and its first slot. -/
  fresh : List (Nat × Nat) := []
  nextRefill : Nat := 0
  /-- GAT_INST_STEP_EST as last written by the driver, by instance index (R163); an unlisted one holds its reset value. -/
  est : Tab Nat := []
  /-- What the end of this tick owes (R151, R634; the model's own): the instances that have had an edge in it, rising; of an idle edge of the
  engine, the instances that were idle; whether requests that no Gate has admitted are to be checked against their deadlines; and the
  instances whose deferred requests are to be evaluated again, 16 for requests of no instance. -/
  edges : List Nat := []
  idles : Option (List Nat) := none
  queued : Bool := false
  again : List Nat := []
deriving DecidableEq, Repr

/-- One instance index 0 to 15 (R36, R219), lead or follower, with its composition and step (R207) and epoch (R220). -/
structure Inst where
  active : Bool := false
  lead : Bool := false
  owner : Nat := 0
  mid : Nat := 0
  /-- Chip indexes of the instance. -/
  chips : List Nat := []
  leadChip : Nat := 0
  leadInst : Nat := 0
  /-- Submission ring that carried the LOAD_MODEL, and whether the load is still in progress (R170, R297). -/
  ring : Nat := 0
  loading : Bool := false
  stepNo : Nat := 0
  lastEdge : Option Nat := none
  comp : Option Comp := none
  step : Option Step := none
  /-- Slots of lost steps to be placed before the program runs, in order (R202, R206, R638). -/
  carried : List Slot := []
  /-- Compose window open (R59) and trigger Tally waiting in the queue of R176. -/
  win : Bool := false
  trig : Option Nat := none
  /-- R179: a composition ended with no slot and nothing of R179 has happened since. -/
  quiet : Bool := false
  epoch : Nat := 0
  nextEpoch : Nat := 0
  changing : Bool := false
  cfg : Nat := 0
  newCfg : Nat := 0
  /-- The pending change: the load is complete, and no token of the old epoch remains (R222). -/
  cfgLoaded : Bool := true
  drained : Bool := true
  lastCycles : Nat := 0
  lastSlots : Nat := 0
  lastTokens : Nat := 0
  /-- Follower: segments of broadcasts received, by step (R540). -/
  segs : List (Nat × Nat) := []
deriving DecidableEq, Repr

/-- The Composer. -/
structure Cmp where
  insts : Tab Inst := []
  /-- Draft indexes: never used from here up, and the freed ones (R191). -/
  draftFresh : Nat := 0
  draftFreed : List Nat := []
  /-- Compositions and armed steps so far: the number that the next one takes (R284). -/
  nextUid : Nat := 0
  /-- The packets last built in the buffers of R208, by 2 * instance + the low bit of the step number. -/
  packets : Tab Packet := []
deriving DecidableEq, Repr

/-- The Tally and the cyclic slot table (spec/02_tally_and_step_time.md, spec/16_rafter_link.md R549 to R552). -/
structure Tal where
  /-- Fraction accumulator in units of 2^-40/6 t (R564). -/
  acc : Nat := 0
  state : Nat := 0
  errBound : Nat := 255
  bank0 : Tab DWord := []
  bank1 : Tab DWord := []
  activeBank : Bool := false
  /-- A bank switch waits for the frame boundary (R66). -/
  switchAt : Option Nat := none
  /-- Partitions barred from open slots (R72), rising. -/
  barred : List Nat := []
  /-- Next Tally from which a frame boundary and a slot start may be taken (the model's own). -/
  nextFrame : Nat := 0
  nextSlot : Nat := 0
  /-- Sum of the jumps of R40 since the release of reset: the Tally less this has run without a jump. -/
  jumped : Int := 0
deriving DecidableEq, Repr

/-- A unit's fault captures (spec/18_errors_and_redundancy.md R578). The overflow count is in the unit's register. -/
structure Cap where
  cap1 : Option FaultRec := none
  cap2 : Option FaultRec := none
  handling : Bool := false
  halted : Bool := false
deriving DecidableEq, Repr

/-- A buddy (R587 to R594). state: 0 OFF, 1 SYNCING, 2 CURRENT, 3 LOST. -/
structure Buddy where
  chip : Option Nat := none
  state : Nat := 0
  /-- Mirror number last sent and last acknowledged (R593). -/
  sent : Nat := 0
  acked : Nat := 0
  /-- SYNCING: the mirror number of each live record's entry in the resync, by slot (R594). -/
  syncs : Tab Nat := []
deriving DecidableEq, Repr

/-- A mirrored record held for a lead (R593): the durable fields, by lead chip and slot. -/
structure Mirror where
  chip : Nat
  slot : Nat
  rc : LRec
  stack : List Nat := []
deriving DecidableEq, Repr

/-- RAS. -/
structure Ras where
  caps : Tab Cap := []
  quiescing : Bool := false
  quiesced : Bool := false
  quiesceAt : Nat := 0
  causeCode : Nat := 0
  causeUnit : Nat := 0
  sled : Buddy := {}
  ring : Buddy := {}
  mirrors : List Mirror := []
  /-- Chips taken over since the map was loaded (R596). -/
  taken : List Nat := []
deriving DecidableEq, Repr

/-- A breakpoint of R612. -/
structure Brk where
  typ : Nat := 0
  acts : Nat := 0
  val : Nat := 0
  /-- The occasion of the last hit: a Tally, or for type PC the place in the composition that runs (the model's own). -/
  hitAt : Option Nat := none
  /-- Type LEDGER: the STATE of its slot when the tick began (the model's own). -/
  was : Nat := 0
deriving DecidableEq, Repr

/-- Counters (values by number, R600), the trace ring's place in the register file, and the debug port (R606 to R615). -/
structure Dbg where
  cnt : Tab Nat := []
  isOpen : Bool := false
  engineHalted : Bool := false
  stwHalted : Bool := false
  /-- DBG_STEP: one bundle may issue. -/
  stepOne : Bool := false
  /-- The tick in which the port has last changed a halt of the engine, or of the Steward, and whether it was stopped when that tick began:
  the port acts after the engine's own actions of the tick (R613). -/
  haltWas : Option (Nat × Bool) := none
  stwWas : Option (Nat × Bool) := none
  /-- Tally of a RESUME of the engine whose consequences are taken in the next tick (R613, R628). -/
  resumed : Option Nat := none
  /-- Tally of the last command that the open port has taken: it is complete when that tick is over (R607). -/
  cmdAt : Option Nat := none
  /-- Tally of the last CLEAR of the counters (R603). -/
  clearAt : Option Nat := none
  brks : Tab Brk := []
  /-- The capture of the last command: status, op, address, data (R606). -/
  capStatus : Nat := 0
  capOp : Nat := 0
  capAddr : Nat := 0
  capData : Nat := 0
  /-- Words written through the port (R614, R615), by space * 2^40 + address: the data, and the word with which its check bits
  agree. Of Steward memory only the words whose check bits differ from their data are listed. -/
  mem : Tab (DWord × DWord) := []
  /-- Extents of Store that GLB_INIT is clearing, and those that it has cleared since the release of reset (R573): base and bytes. -/
  clearing : List (Nat × Nat) := []
  cleared : List (Nat × Nat) := []
  /-- The units that have worked in their SRAMs since these were last cleared (R558, R560), rising; those of another unit still hold zeros
  (the model's own). -/
  worked : List Nat := []
deriving DecidableEq, Repr

/-- A power domain (spec/17_reset_power_domains_bringup.md R565): 0 OFF, 1 WAKING, 2 ON, 3 RETAIN. -/
structure Dom where
  st : Nat
  /-- WAKING: Tally at which the wake completes. -/
  due : Nat := 0
  /-- Tally of the last use. -/
  used : Nat := 0
  /-- The unit's EN was cleared while WAKING (R568). -/
  drop : Bool := false
  /-- Retired until engine reset (R567). -/
  retired : Bool := false
  /-- The Tally at which auto-gating or entry to RETAIN last took it from ON (R568). -/
  gated : Option Nat := none
deriving DecidableEq, Repr

/-- A waiting TAKE (R425 to R429). -/
structure TakeW where
  core : Nat
  since : Nat
  lastBeat : Nat
deriving DecidableEq, Repr

/-- What outlives or gates the units: the reset sequencer and the bring-up stage (R555 to R573). -/
structure Boot where
  /-- In reset or unpowered (R125, R574), and the sources asserted. -/
  absent : Bool := false
  cause : Nat := 1
  stage : Nat := 1
  offline : Bool := true
  locked : Bool := false
  /-- The management controller's Tally counter and, in reset, its fraction in sixths (R555): its value when the engine's Tally less
  its jumps stood at cmcAt, from where the counter runs on with it; and the next Tally from which it may copy again. -/
  cmc : Nat := 0
  cmcAcc : Nat := 0
  cmcAt : Int := 0
  nextCopy : Nat := 0
  imgBusy : Bool := false
  imgResult : Nat := 0
  initBusy : Bool := false
  initDone : Bool := false
  initDue : Nat := 0
  serial : Nat := 0
  chipPos : Nat := 0
  cxlCache : Bool := false
  /-- Signed path delays of the 12 physical lanes, in 2^-16 t (R569). -/
  cal : List Int := []
  /-- TAKEs that wait at the cores' ports while the engine is absent (R429), with the controller's counter as their Tally. -/
  takes : List TakeW := []
deriving DecidableEq, Repr

/-- A register write that a syllable has queued for the end of its bundle (R233). -/
inductive BWrite where
  | scalar (r : Nat) (v : DWord)
  | lane (i : Nat) (v : DWord)
  | pred (r : Nat) (v : BitVec 4)
  | ctx (i : Nat) (v : DWord)
  | mem (word : Nat) (v : DWord)
deriving DecidableEq, Repr

/-- A program slot (R225, R252). -/
structure Prog where
  valid : Bool := false
  nbundle : Nat := 0
  entry : Nat := 0
  major : Nat := 0
  minor : Nat := 0
  id : Nat := 0
deriving DecidableEq, Repr

/-- The Ledger's records and the instances as a tick's first commit or order found them, with that tick (R242; the model's own). -/
structure Seen where
  tick : Nat
  recs : Tab LRec
  insts : Tab Inst
deriving DecidableEq, Repr

/-- The Steward (spec/06_steward_core.md). -/
structure Stw where
  /-- Scalar registers, wide lanes (4 r + lane) and predicates; an unlisted one holds 0 (q0 is R232's). -/
  s : Tab DWord := []
  v : Tab DWord := []
  q : Tab (BitVec 4) := []
  /-- The composition running: instance, program slot and bundle index. -/
  run : Option Nat := none
  prog : Nat := 0
  pc : Nat := 0
  cycles : Nat := 0
  /-- Writes queued by the syllables of the bundle that is open, its branch target, END and a DMEM fault (R233, R249). -/
  wr : List BWrite := []
  target : Option Int := none
  ending : Bool := false
  dmemFault : Bool := false
  /-- Context registers 15 and 16, FIT_STOP (17). -/
  cfg : Nat := 0
  est : DWord := 0
  fitStop : Bool := false
  /-- Selection unit: mode of the last KBEGIN, records drawn by KSEL, LSCAN's cursor (R239 to R241). -/
  mode : Option Nat := none
  drawn : List Nat := []
  cursor : Nat := 0
  /-- What a bundle of this tick sees of the Ledger, where a commit or an order has changed it since (R242). -/
  seen : Option Seen := none
  /-- Partition pass values captured at the start of the compose window. -/
  passes : Tab Nat := []
  progs : Tab Prog := []
  /-- Instruction memory: 4,096 slot + bundle. Data memory: 8,192 slot + word. -/
  imem : Tab (BitVec 128) := []
  dmem : Tab DWord := []
  /-- A load in progress (R253): slot. -/
  load : Option Nat := none
  loadResult : Nat := 0
  faultPc : Nat := 0
  faultSlot : Nat := 0
  faultCause : Nat := 0
deriving DecidableEq, Repr

/-- A group of crates (R255 to R257), keyed by its base crate ID. kind: 0 private, 1 shared, 2 draft. state: 1 LIVE,
2 MOVING, 3 RELEASED (a FREE group is not listed). tier: 0 Shelf, 1 Store, 2 Cellar. -/
structure Grp where
  kind : Nat := 0
  state : Nat := 1
  full : Bool := false
  tier : Nat := 0
  fmt : Nat := 0
  dest : Nat := 0
  inst : Nat := 0
  ref : Nat := 1
  pin : Nat := 0
  addr : Nat := 0
  key : Nat := 0
  heat : Nat := 0
  block : Nat := 0
  /-- Private and draft: Ledger slot of the sibling, and the half of a draft group. -/
  owner : Nat := 0
  half : Bool := false
  /-- The move has been retried once (R287). -/
  retried : Bool := false
  /-- Address at DEST of the move in progress. -/
  destAddr : Nat := 0
deriving DecidableEq, Repr

/-- A sibling's crate map and word (R260 to R263): root and leaf nodes, groups by block, RESV, MATCHING, SPLIT. AWAY is
counted from the groups. -/
structure SMap where
  root : Option Nat := none
  leaves : Tab Nat := []
  blocks : Tab Nat := []
  resv : Nat := 0
  matching : Bool := false
  split : Bool := false
  /-- Map nodes still reserved for the request (R636), first record only. -/
  nodes : Nat := 0
  /-- Draft groups by half (R280). -/
  draft0 : Option Nat := none
  draft1 : Option Nat := none
deriving DecidableEq, Repr

/-- A valid prefix entry (R272). -/
structure Pfx where
  hash : Nat
  group : Nat
  parent : Nat
  mid : Nat
  domain : Nat
  toks : List Nat
deriving DecidableEq, Repr

/-- A model on this chip (R294, R297): the fields of its Larder entry that the engine keeps, its residency state
(0 ABSENT, 1 LOADING, 2 RESIDENT, 3 PARKED) and the load or unload in progress. -/
structure Model where
  state : Nat := 0
  nlg : Nat := 1
  ncfg : Nat := 1
  kvFmt : Nat := 0
  vocab : Nat := 1
  ctxLen : Nat := 1
  crateBytes : Nat := 4096
  refStep : Nat := 0
  weightBytes : Nat := 0
  /-- The instance of the MID on this chip: the one that this engine leads, where it takes part in several (R36). -/
  inst : Nat := 0
  stream : Bool := false
  streamInc : Nat := 0
  /-- Bytes this chip's weights hold in Store, and the order of parking. -/
  chipBytes : Nat := 0
  parkedAt : Nat := 0
  nchip : Nat := 1
  /-- The LOAD_MODEL to be answered: ring, USER_TAG, status, step-time increase. -/
  loadRing : Nat := 0
  loadTag : Nat := 0
  loadStatus : Nat := 0
  loadInc : Nat := 0
  /-- Weights in place (R297). -/
  weightsIn : Bool := false
  /-- An UNLOAD_MODEL waits for the last release: ring and USER_TAG (R173). -/
  unload : Option (Nat × Nat) := none
  /-- Marked segments of R303: offset and bytes. -/
  marked : List (Nat × Nat) := []
  /-- LOADING: the segments to be marked and the step-time increase, when the load completes (R303, R304). -/
  toMark : List (Nat × Nat) := []
  toInc : Nat := 0
  /-- Chips of the placement: those that hold the weights while PARKED (R299). -/
  chips : List Nat := []
  /-- Cellar addresses of the entry, its segment table with NSEG, and its configuration images (R294). -/
  entryAddr : Nat := 0
  segAddr : Nat := 0
  nseg : Nat := 0
  cfgAddr : Nat := 0
deriving DecidableEq, Repr

/-- What the Shelver keeps for an instance: quota at load, the quota committed beyond it (R265), layer groups of this chip, Shelf
region. -/
structure ShvInst where
  qLoad : Nat := 0
  q : Nat := 0
  lgs : List Nat := [0]
  shelfMib : Nat := 0
deriving DecidableEq, Repr

/-- A copy or move command of the Shelver in flight, by Pantry command number. what: 0 tier move, 1 split copy, 2 weight
copy, 3 context image. -/
structure ShvOp where
  what : Nat := 0
  grp : Nat := 0
  src : Nat := 0
  slot : Nat := 0
  dest : Nat := 0
  mid : Nat := 0
  /-- Chips whose report of a Cellar move is awaited (R292); a move names a holder by RQID (src), GEN and sibling (slot). -/
  waiting : List Nat := []
  gen : Nat := 0
  /-- The pieces here are done. -/
  here : Bool := false
  /-- DST_FMT of the command (R319). -/
  fmt : Nat := 0
  /-- A split copy on a follower: the sibling of its directory. -/
  rqid : Nat := 0
  sib : Nat := 0
deriving DecidableEq, Repr

/-- Old frames of a moved group, held for the compositions and steps open at completion, by their numbers (R284). -/
structure Frames where
  grp : Nat
  inst : Nat
  tier : Nat
  addr : Nat
  bytes : Nat
  steps : List Nat
deriving DecidableEq, Repr

/-- The Shelver (spec/07_shelver_crates_and_tiers.md). -/
structure Shv where
  groups : Tab Grp := []
  maps : Tab SMap := []
  pfx : Tab Pfx := []
  models : Tab Model := []
  insts : Tab ShvInst := []
  ops : Tab ShvOp := []
  frames : List Frames := []
  nodesUsed : Nat := 0
  nodesResv : Nat := 0
  /-- Siblings whose Cellar groups are to be promoted, in the order of the triggers (R282, R283). -/
  recalls : List Nat := []
  /-- Follower directory (R291): maps by instance, RQID and sibling index. -/
  fdir : List (Nat × Nat × Nat × SMap) := []
  /-- Map nodes from this number up have never been taken (the model's own). -/
  nodesTop : Nat := 0
  /-- What the end of this tick owes (R288): the instances whose tiers are to be balanced, and whether recalls are to be tried (the model's
  own). -/
  balances : List Nat := []
  recallDue : Bool := false
  /-- Moves that have failed with the source intact, to be tried once more at the end of this tick (R287, R288): group and destination; and
  the positions written in it of which a full block's bucket has no free way, whose entry waits for the tick's matches (R276): slot, first
  position and number (the model's own). -/
  retries : List (Nat × Nat) := []
  late : List (Nat × Nat × Nat) := []
deriving DecidableEq, Repr

/-- A Pantry command of R319, with the pieces not yet started and not yet written (R321). -/
structure PanCmd where
  kind : Nat
  demand : Bool := false
  srcFmt : Nat := 0
  dstFmt : Nat := 0
  srcTier : Nat := 1
  dstTier : Nat := 1
  pid : Nat := 0
  id : Nat := 0
  mid : Nat := 0
  inst : Nat := 0
  group : Nat := 0
  lm1 : Nat := 0
  dstGroup : Nat := 0
  srcAddr : Nat := 0
  dstAddr : Nat := 0
  /-- Pieces in all, started, written. -/
  pieces : Nat := 1
  started : Nat := 0
  written : Nat := 0
  /-- Pieces to re-run after a pipe fault (R331). -/
  rerun : List Nat := []
  /-- BULK: leave given (R326). -/
  leaveOk : Bool := false
  /-- Request that the command is for, and whether its bytes are to be counted for it: it moves or copies a private group of a request of this
  engine's Ledger (R516). -/
  rqid : Nat := 0
  own : Bool := false
deriving DecidableEq, Repr

/-- A pipe running a piece: command number and piece index. -/
structure PanPiece where
  cmd : Nat
  piece : Nat
deriving DecidableEq, Repr

/-- The Pantry (spec/08_pantry_codec.md). -/
structure Pan where
  demand : List PanCmd := []
  background : List PanCmd := []
  /-- Commands with every piece started and not all written. -/
  running : List PanCmd := []
  /-- Commands the Shelver holds because their queue is full (R323). -/
  held : List PanCmd := []
  pipes : Tab PanPiece := []
  /-- Retired pipes (R331), rising. -/
  retired : List Nat := []
  nextId : Nat := 0
  lastCmd : Option PanCmd := none
deriving DecidableEq, Repr

/-- Row control of R215. -/
structure RowCtl where
  tag : Nat
  rqid : Nat
  gen : Nat
  sib : Nat
  rows : Nat
  drawStep : Nat
  ndraw : Nat
  kind : Nat
  dset : Bool
  draft : Nat
  drawSlot : Nat
deriving DecidableEq, Repr

/-- What a sampled row gives: for each drawing sibling its token (none where the row yields no token, R353), and the
values that its log-probability entry needs: rank, d of the token, S_all, and the first keys of A. -/
structure RowOut where
  toks : List (Option Nat)
  ranks : List Nat := []
  ds : List Nat := []
  sall : Nat := 0
  top : List (Nat × Nat) := []
  /-- The mask allowed no token (R353, R393). -/
  maskEmpty : Bool := false
deriving DecidableEq, Repr

/-- The intake of a constrained row's mask by one lane of its gang (R390): the next page that its slice needs, its last one, and whether
the lane holds its intake for a page. -/
structure LaneIn where
  next : Nat
  last : Nat
  waits : Bool := false
deriving DecidableEq, Repr

/-- A row accepted into a gang of lanes (R335, R354); gang 0 for a row received and discarded (R360, R389). cls: the mask class
of its key, for a constrained row whose control has joined (R375, R388); intake: its lanes' progress through the mask. -/
structure Row where
  fmt : Nat
  len : Nat
  data : List (BitVec 8)
  lane : Nat
  gang : Nat
  res : Option RowOut := none
  cls : Option Nat := none
  intake : List LaneIn := []
  /-- The pages of the mask that its lanes have taken in, by number (R390). -/
  mask : Tab Nat := []
deriving DecidableEq, Repr

/-- A row-bearing slot of an outstanding step (R339), keyed by instance * 16,384 + slot.
st: 0 PENDING, 1 WAIT_CONTROL, 2 OPEN, 3 LOST, 4 COMMITTED. It holds a join entry in states 1 and 2 (R338). ctl: the control half,
once it has arrived. -/
structure SmpSlot where
  st : Nat := 0
  ctl : Option RowCtl := none
  rows : Tab Row := []
  /-- Tally at which the data timer expires. -/
  due : Option Nat := none
deriving DecidableEq, Repr

/-- The draft block of one half (R359). -/
structure DraftBlk where
  nprop : Nat := 0
  nacc : Nat := 0
  toks : Tab Nat := []
  parents : Tab Nat := []
  path : List Nat := []
deriving DecidableEq, Repr

/-- The Sampler (spec/09_sampler.md). -/
structure Smp where
  slots : Tab SmpSlot := []
  /-- Row-control entries last written to the control area (R337), by (2 * instance + the low bit of the step number) * 16,384 + slot. -/
  area : Tab RowCtl := []
  /-- Draft blocks by 2 * draft index + half. -/
  drafts : Tab DraftBlk := []
  /-- Count tables in use, by physical lane (R346): the slot and row that they are of, and the counts by token. -/
  counts : Tab (Nat × Nat × Tab Nat) := []
  /-- Physical lane of a logical lane when it differs from its own number; none: absent (R369, R370). -/
  map : Tab (Option Nat) := []
  retired : List Nat := []
  /-- Spares waiting, in the order they are used, and spares powering up: (spare, logical lane). -/
  spares : List Nat := [64, 65, 66, 67]
  waking : List (Nat × Nat) := []
  exhausted : Bool := false
deriving DecidableEq, Repr

/-- A grammar directory entry (R383), with the image as the engine read it. -/
structure Gram where
  valid : Bool := false
  draining : Bool := false
  mid : Nat := 0
  addr : Nat := 0
  live : Nat := 0
  bytes : Nat := 0
  image : List (BitVec 8) := []
deriving DecidableEq, Repr

/-- A page of the mask cache (R391), most recently used first in the cache's list: its tag, its place among the 2,048, and its bitmap with
the page's first token as bit 0. -/
structure MaskPage where
  gid : Nat
  cls : Nat
  page : Nat
  way : Nat
  bits : Nat
deriving DecidableEq, Repr

/-- The Sieve (spec/10_sieve.md). -/
structure Siv where
  dir : Tab Gram := []
  /-- Stack lines by Ledger slot, bottom symbol first (R373). -/
  pdaStacks : Tab (List Nat) := []
  cache : List MaskPage := []
  retired : List Nat := []
  /-- An install in progress: GRAMMAR_ID and address (R384). -/
  install : Option (Nat × Nat) := none
  result : Nat := 0
deriving DecidableEq, Repr

/-- A generator's state (R399). -/
structure Gen where
  s0 : DWord
  s1 : DWord
  s2 : DWord
  s3 : DWord
deriving DecidableEq, Repr

/-- A jump waiting in the jump-ahead unit (R410, R411): rank, then unit, then the coordinate's seed and position. gen: 0 to
67 lanes, 68 to 71 Pantry, 72 service, 73 probe. use: what the load is for (a slot's draws: instance * 16,384 + slot and
sibling; a Pantry piece: command and piece). -/
structure Jump where
  rank : Nat
  gen : Nat
  seed : Nat
  pos : Nat
  key : Nat := 0
  sub : Nat := 0
deriving DecidableEq, Repr

/-- The Random Stream Unit (spec/11_random_streams.md). -/
structure Rsu where
  gens : Tab Gen := []
  queue : List Jump := []
  /-- Loads completed for slots: (instance * 16,384 + slot, sibling) with the loaded state. -/
  ready : List (Nat × Nat × Gen) := []
  /-- Generators out of service. -/
  bad : List Nat := []
  jumpOk : Bool := true
  svcOk : Bool := true
  probeBusy : Bool := false
  probeOut : DWord := 0
deriving DecidableEq, Repr

/-- A Bins entry (R417). bank: the bank that holds it, or none in Store. -/
structure BinEnt where
  level : Nat
  inst : Nat
  epoch : Nat
  step : Nat
  pid : Nat
  aff : Nat
  affV : Bool
  opid : Nat
  seq : Nat
  arg : Nat
  arg2 : Nat
  enq : Nat
  bank : Option Nat := none
  /-- The hint's expiry has been acted on (R424, R441). -/
  released : Bool := false
deriving DecidableEq, Repr

/-- Bins (spec/12_bins_task_dispatch.md): entries by level then in SEQ order. -/
structure Bin where
  entries : List BinEnt := []
  seqs : Tab Nat := []
  waiting : List TakeW := []
  /-- Entries held by cores with the Tally of the ENTRY answer (R431). -/
  held : Tab (BinEnt × Nat) := []
  retired : List Nat := []
  /-- Pushes that the push lanes hold because their level's spill ring is full (R435), oldest first. -/
  stalled : List (BitVec 256) := []
  /-- Entries appended to a level's spill ring so far: its place modulo the ring's depth (R432). -/
  tails : Tab Nat := []
  /-- Cores whose DONE or next TAKE has come while the domain of Bins is WAKING: their entries are closed when it is ON (R431, R566). -/
  closes : List Nat := []
  /-- The Tally whose turn of R424 has been taken, if any, and the levels whose spill rings were full at its end (R628; the model's own). -/
  servedAt : Option Nat := none
  fullLevels : List Nat := []
deriving DecidableEq, Repr

/-- A partition's scheduler and accounting state (spec/13_partitions_shares_isolation.md, spec/15_power_leave_and_accounting.md). -/
structure KPart where
  pass : Nat := 0
  active : Bool := false
  /-- Bucket levels in bytes (R457). -/
  store : Int := 0
  cellar : Int := 0
  raf : Int := 0
  /-- EN has been cleared and the siblings then live have not all ended (R442): slot + 2^24 * GEN, and
  2^40 * (STEP + 1) of the step then outstanding that holds the sibling, and 2^90 * the Tally of the write. -/
  leaving : List Nat := []
  /-- Interval sums of R467. -/
  aTicks : Nat := 0
  cTicks : Nat := 0
  bTicks : Nat := 0
  /-- Quantities since the last partition record (spec/15 R517): engine ns, small-core ns, bytes, energy in nJ. -/
  engineNs : Nat := 0
  coreNs : Nat := 0
  storeB : Nat := 0
  cellarB : Nat := 0
  rafB : Nat := 0
  energy : Nat := 0
  /-- Engine ns of the current leave window (R514). -/
  winNs : Nat := 0
  /-- The first interval after the partition's last record, and whether a record has been put off since because the accounting ring was full
  (R520). -/
  acctNext : Nat := 0
  acctLate : Bool := false
  /-- Pending rows of the ordered tokens: reserved link credit by direction (R462). -/
  credits : Tab Nat := []
deriving DecidableEq, Repr

/-- A context (R471, R472). state: 0 RESIDENT, 1 SAVING, 2 SAVED, 3 RESTORING. -/
structure Ctx where
  state : Nat := 0
  held : Bool := false
  /-- The image holds array state. -/
  frozen : Bool := false
  /-- Running in a borrowed slice. -/
  donating : Bool := false
  /-- The save in progress: a freeze, an EXPORT (to an address), started by Keeper, its halt Tally and whether the array has halted;
  the context is held at its end. -/
  freeze : Bool := false
  exported : Option Nat := none
  byKeeper : Bool := false
  haltAt : Option Nat := none
  halted : Bool := false
  holdAfter : Bool := false
  /-- The driver's SAVE waits for RESIDENT (R501): the command word. -/
  saveAfter : Option Nat := none
  /-- What Keeper wants: 1 a drain save, 2 a freeze save, 3 a restore. -/
  want : Nat := 0
  /-- The driver has made the context the next choice at a slice end (R501). -/
  next : Bool := false
  /-- A drain: the flush step has been emitted, or was not needed (R473). -/
  flushed : Bool := false
  /-- The image: its epoch, CFG, bytes, the shape words of the instance's chips (R445), its Bins entries, and whether it is gone. -/
  imgEpoch : Nat := 0
  imgCfg : Nat := 0
  imgBytes : Nat := 0
  imgShape : List Nat := []
  imgBins : List BinEnt := []
  gone : Bool := false
  /-- Bytes that the image takes, or will take, in the area of LOCAL images. -/
  area : Nat := 0
  /-- An EXPORT save: the groups of which Cellar copies have been asked for, with the copies' addresses (R479). -/
  copies : Option (List (Nat × Nat)) := none
  /-- A restore: array state ignored, configuration loaded, and the Tally at which the later of load and array read ends. -/
  logicalOnly : Bool := false
  cfgIn : Bool := false
  readyAt : Nat := 0
  /-- Slice of a sliced partition: start Tally and ticks used before the slice clock stopped (R449, R494). -/
  sliceStart : Option Nat := none
  sliceUsed : Nat := 0
deriving DecidableEq, Repr

/-- A semaphore (R491): holder and waiters by local instance, with each waiter's request Tally. -/
structure Sem where
  holder : Option Nat := none
  swapped : Bool := false
  waiters : List (Nat × Nat) := []
deriving DecidableEq, Repr

/-- A donation (R493): the semaphore, holder, waiter, contexts displaced in order of saving, those still to be saved, and
the start of the borrowed slice. -/
structure Donation where
  sem : Nat
  holder : Nat
  waiter : Nat
  /-- The waiter's owning partition. -/
  wpid : Nat := 0
  saved : List Nat := []
  toSave : List Nat := []
  start : Option Nat := none
  warned : Bool := false
  wasHeld : Bool := false
  /-- The semaphore has been released; the holder is being drained (R493 items 4 and 5). -/
  closing : Bool := false
deriving DecidableEq, Repr

/-- A leave request or grant (spec/15 R503 to R510). cls: 0 CONFIG, 1 BULK, 2 PREFILL. -/
structure Leave where
  cls : Nat
  amt : Nat
  pid : Nat
  /-- Instance of a CONFIG or PREFILL request; Pantry command of a BULK request. -/
  who : Nat
  /-- Local instance of a BULK command (R509). -/
  inst : Nat := 0
  step : Nat := 0
  since : Nat := 0
  start : Nat := 0
  started : Bool := false
  late : Bool := false
  /-- Asked for while KPR_CTL.EN is clear (R505). -/
  unmade : Bool := false
  /-- Tally of the release; a released grant is kept until its last window's energy is attributed (R506, R515). -/
  ended : Option Nat := none
  /-- The tokens by partition that share the charge (R512). -/
  split : List (Nat × Nat) := []
deriving DecidableEq, Repr

/-- What a request has used (spec/15 R518). -/
structure ReqAcct where
  engineNs : Nat := 0
  coreNs : Nat := 0
  energy : Nat := 0
  storeB : Nat := 0
  cellarB : Nat := 0
  rafB : Nat := 0
  tokens : Nat := 0
  prefixPos : Nat := 0
deriving DecidableEq, Repr

/-- Keeper. -/
structure Kpr where
  parts : Tab KPart := []
  gvt : Nat := 0
  ctxs : Tab Ctx := []
  sems : Tab Sem := []
  dons : List Donation := []
  /-- Contexts displaced by a donation that has ended, in the order in which they were saved and are to be restored (R493). -/
  back : List Nat := []
  /-- Semaphores on which SEM_DEADLOCK has been raised for the chain standing. -/
  deadlocked : List Nat := []
  blockSince : Option Nat := none
  /-- The driver's command in progress: INST. -/
  cmd : Option Nat := none
  cmdStatus : Nat := 0
  imgBytes : Nat := 0
  /-- EXPORT images that stand: address (and 2^64 for Cellar) and groups of their Cellar copies. -/
  exports : List (Nat × Nat) := []
  /-- Power (spec/15): quarter-watt units. -/
  draw : Nat := 0
  base : Option Nat := none
  rampFree : Nat := 0
  committed : Nat := 0
  overCap : Bool := false
  grants : List Leave := []
  queue : List Leave := []
  /-- Requests held because the queue is full (R510). -/
  heldReqs : List Leave := []
  /-- Tokens reported at emission by instance * 64 + partition (R198) and the wants of its composition (R467). -/
  toks : Tab Nat := []
  wants : Tab Nat := []
  gots : Tab Nat := []
  reqs : Tab ReqAcct := []
  unattr : Nat := 0
  rho : Nat := 0
  /-- Streaming grants outstanding by instance, in bytes (R459, R489). -/
  streamGrants : Tab Nat := []
  streamWait : List (Nat × Nat) := []
  winStart : Nat := 0
  /-- What the end of this tick owes (R466, R513): the decision of leave requests, and the admission of waiting requests (the model's own). -/
  deciding : Bool := false
  admitting : Bool := false
  /-- A step has resolved or a slot been lost in this tick: its end is an activity point (R454, R466; the model's own). -/
  pointDue : Bool := false
  /-- Tokens of slots lost since the emission of the step outstanding, by instance * 64 + partition: they are charged (R456). -/
  lostToks : Tab Nat := []
  nextPoint : Nat := 0
  nextRefill : Nat := 0
  nextClose : Nat := 0
  nextWindow : Nat := 0
deriving DecidableEq, Repr

/-- A Rafter physical lane (spec/16_rafter_link.md R529). st: 0 OFF, 1 PHY, 2 IDENT, 3 ACTIVE, 4 COURTESY, 5 DISABLED. -/
structure Lane where
  st : Nat := 0
  /-- Tally of entry into the state, of the last IDENT sent and of the last frame received. -/
  since : Nat := 0
  identSent : Nat := 0
  lastFrame : Nat := 0
  fails : Nat := 0
  /-- The peer's identity: chip position, physical lane, MAP_ID, VER_MIN and VER_MAX. -/
  peerPos : Nat := 0
  peerLane : Nat := 0
  peerMap : Nat := 0
  verMin : Nat := 0
  verMax : Nat := 0
  ver : Nat := 0
  /-- Logical lane that it serves (R523, R530). -/
  log : Option Nat := none
deriving DecidableEq, Repr

/-- A frame (R533). words: the payload in 64-bit words, as the frame type's rule lays it out. -/
structure Frame where
  typ : Nat
  src : Nat := 0
  dst : Nat := 0
  pid : Nat := 0
  pidV : Bool := false
  inst : Nat := 0
  seq : Nat := 0
  arg : Nat := 0
  len : Nat := 0
  words : List Nat := []
deriving DecidableEq, Repr

/-- A link direction to a neighbour (R535, R536), by link number: 0 to 6 the sled lanes, 7 up and 8 down the ring. -/
structure Link where
  sendSeq : Nat := 0
  recvSeq : Nat := 0
  /-- Sequenced frames sent and not acknowledged, oldest first. -/
  unacked : List Frame := []
  /-- S frames sent less S_DONE received leaves this many credits of 48. -/
  sSent : Nat := 0
  sDone : Nat := 0
  /-- S frames received and consumed. -/
  sConsumed : Nat := 0
  /-- B holds granted to this sender by instance, and those granted by this receiver. -/
  bHeld : Tab Nat := []
  bGiven : Tab Nat := []
  bFree : Nat := 80
  /-- Sender: the instances that have asked for a hold and not given it back. Receiver: requests for holds that wait for free buffers. -/
  bAsked : List Nat := []
  bAsks : List (Nat × Nat) := []
  /-- Frames waiting (R465), oldest first, and the PID last served from reserved credit. -/
  waiting : List Frame := []
  rrPid : Nat := 63
  /-- A gap has been reported and the expected frame has not come (R535). -/
  gap : Bool := false
deriving DecidableEq, Repr

/-- A chip of the topology map (R526). -/
structure MapEnt where
  present : Bool := false
  master : Bool := false
  buddy : Nat := 0
deriving DecidableEq, Repr

/-- A status table entry (R548). -/
structure ChipStat where
  freeGib : Nat := 0
  cstCrc : Nat := 0
  stamp : Nat := 0
deriving DecidableEq, Repr

/-- A neighbour's last SYNC as a possible Tally parent (R549), by logical lane. -/
structure Adv where
  state : Nat := 0
  depth : Nat := 15
  errBound : Nat := 255
  voting : Nat := 0
  voteTheta : Int := 0
deriving DecidableEq, Repr

/-- A broadcast being received by a follower (R538 to R540): lead chip, lead instance, step, segments held as
(stripe, segment, last), the header of segment 0 and the slots by index. -/
structure Bcast where
  src : Nat
  inst : Nat
  step : Nat
  segs : List (Nat × Nat × Bool) := []
  hdr : List Nat := []
  slots : Tab Slot := []
  /-- The step has been aborted, or this engine has answered STEP_LATE for it. -/
  dead : Bool := false
deriving DecidableEq, Repr

/-- Rafter. -/
structure Raf where
  lanes : Tab Lane := []
  /-- Physical lane of each logical lane when it differs from its own number (R523). -/
  remap : Tab Nat := []
  /-- Tally at which a logical lane last left ACTIVE. -/
  downAt : Tab Nat := []
  spareAsked : Option Nat := none
  links : Tab Link := []
  /-- The loaded map: MAP_ID, NPRESENT, NMASTER, entries. -/
  mapLoaded : Bool := false
  mapId : Nat := 0
  npresent : Nat := 0
  chips : Tab MapEnt := []
  mapBusy : Bool := false
  mapResult : Nat := 0
  stat : Tab ChipStat := []
  adv : Tab Adv := []
  /-- Tally synchronisation (R547 to R552). -/
  parent : Option Nat := none
  depth : Nat := 15
  theta : Int := 0
  /-- Masters: last offsets by link. -/
  thetas : List (Nat × Int) := []
  servoAcc : Int := 0
  rate : Int := 0
  locked8 : Nat := 0
  nextRise : Nat := 0
  syncOpen : Bool := false
  /-- Masters that have left the vote, rising. -/
  mastersOut : List Nat := []
  nextSync : Nat := 0
  /-- PEER_LOST frames already seen: lost chip and Tally of detection. -/
  seenLost : List (Nat × Nat) := []
  lost : List Nat := []
  bcasts : List Bcast := []
  /-- Placements of other engines' instances, by lead chip and index there, for forwarding where this engine takes no part (R539). -/
  plans : List (Nat × Nat × List Nat) := []
  /-- Tally at which ACQUIRING or LOCKED lost its last parent (R551). -/
  orphanAt : Option Nat := none
  /-- Answers received to orders sent to peers: order number and status. -/
  sentOrders : List (Nat × Nat) := []
  mirrorNo : Nat := 0
  /-- The mirror number of each slot's latest entry (R591). -/
  entries : Tab Nat := []
deriving DecidableEq, Repr

/-- A message to the array or another partner on the chip, or an answer to one. -/
inductive ArrMsg where
  | packet (p : Packet) (addr : Nat)
  | discardStep (inst step : Nat)
  | startStep (inst step : Nat)
  | loadConfig (inst cfg : Nat) (tiles : Nat) (addr : Nat)
  | checkConfigs (mid tiles : Nat)
  | halt (inst tally : Nat)
  | service (draws : List DWord)
  | binEntries (inst epoch count : Nat)
  | semGranted (sem inst : Nat)
  | semRefused (sem inst : Nat)
  | streamGrant (inst bytes : Nat)
  | engineAbsent
  | restoreState (inst : Nat)
deriving DecidableEq, Repr

/-- What the engine has done outside itself. -/
inductive Out where
  | completion (ring pos phase : Nat) (r : CmpRec)
  | overflow (addr : Nat) (r : CmpRec)
  | event (ring pos phase : Nat) (lost : Bool) (r : EvtRec)
  | pointerLine (ring count : Nat)
  | logprob (addr : Nat) (words : List Word)
  | trace (idx : Nat) (r : TraceRec)
  | binTrace (idx stamp kind core : Nat) (coreV : Bool) (wait : Nat) (e : BinEnt)
  | slowBlock (n : Nat) (slow : List (Nat × Nat × Nat × Nat × Nat))
  | acctPart (idx pid span first close : Nat) (vals : List Nat)
  | acctReq (idx pid gen rqid tag : Nat) (vals : List Nat)
  | rowControl (addr : Nat) (c : RowCtl)
  | draftPath (addr : Nat) (acc : List Nat)
  | array (m : ArrMsg)
  | coreAnswer (core code : Nat) (e : Option BinEnt)
  | frame (link : Nat) (f : Frame)
  | laneFrame (lane : Nat) (f : Frame)
  | pantryBytes (cmd piece addr : Nat) (bytes : List (BitVec 8))
  | areaCleared (base bytes : Nat)
  /-- Words written to the shadow in Cellar, from an address on (R589). -/
  | shadow (addr : Nat) (words : List Nat)
  | image (inst : Nat) (addr bytes : Nat) (m : Image)
  | imageReloc (addr : Nat) (sibs : List (BitVec 2048))
  | debugWord (space addr : Nat) (data : DWord) (raw : Bool)
  | leaveTold (cls who start : Nat)
  | cmcTally (t : Nat)
deriving DecidableEq, Repr

/-- The engine's units and everything that an engine reset returns to its reset value. -/
structure Eng where
  /-- The Tally (R39). -/
  now : Nat := 0
  /-- Registers as last written, by offset * 65,536 + selected item; an unlisted one holds its reset word. -/
  regs : Tab Word := []
  /-- RWS fields in force, and the captured instance views (R56, R60). -/
  act : Tab Word := []
  cap : Tab Word := []
  /-- Accepted RWS writes not yet in force: key, word, Tally of acceptance (R9), oldest first. -/
  pend : List (Nat × Word × Nat) := []
  /-- Held writes of instances whose compose window is open: instance, key, word (R61), oldest first. -/
  held : List (Nat × Nat × Word) := []
  /-- Held low words of writable pairs (R621) and latched high words of pairs (R6), by the low word's offset. -/
  pairLow : Tab Word := []
  latch : Tab Word := []
  tal : Tal := {}
  hat : Hat := {}
  led : Led := {}
  gat : Gat := {}
  cmp : Cmp := {}
  stw : Stw := {}
  shv : Shv := {}
  pan : Pan := {}
  smp : Smp := {}
  siv : Siv := {}
  rsu : Rsu := {}
  bin : Bin := {}
  kpr : Kpr := {}
  raf : Raf := {}
  ras : Ras := {}
  dbg : Dbg := {}
  /-- Power domains other than OFF, by number (R565). -/
  pd : Tab Dom := []
  /-- Next Tally at which the periodic rows may act again (the model's own). -/
  nextIdle : Nat := 0
  nextQueued : Nat := 0
  /-- The answer of the last register read (the model's own). -/
  readData : DWord := 0
  /-- What the engine has sent and written outside, newest first (the model's own). -/
  out : List Out := []
  /-- Counter of the free values (the model's own). -/
  free : Nat := 0
deriving DecidableEq, Repr

/-- The engine with its reset sequencer, and the queue of commands that wait, first in first out. -/
structure State where
  boot : Boot
  eng : Eng
  pending : List Instr
  /-- The engine as each engine reset found it, the latest first, its outputs left out: Store keeps what it had written there (R558). -/
  old : List Eng := []
deriving DecidableEq, Repr

/-- Domains right after reset: PD00, PD96 and PD97 ON and PD07 in RETAIN (spec/17 R565, GLB_PD_STATE). -/
def resetDomains : Tab Dom := [(0, { st := 2 }), (7, { st := 3 }), (96, { st := 2 }), (97, { st := 2 })]

/-- The engine right after the release of an engine reset (R556, R558, R616). -/
def Eng.reset (tally : Nat) : Eng := { now := tally, pd := resetDomains }

/-- The machine right after its first reset, a POWER_ON reset (R557), with the management controller's counter at 0
(assumption log 1). -/
def State.reset : State := { boot := {}, eng := Eng.reset 0, pending := [] }

end Sys2Proof.Machine
end

