-- ==== Sys2Proof/Machine/Ops.lean ====
section
/-!
DEFINITION. The named operations over registers, rings, counters, traces, time and faults that every meaning uses.
-/
namespace Sys2Proof.Machine

/-! ### Bit fields -/

/-- Bits [hi:lo] of a number. -/
def bitsOf (v hi lo : Nat) : Nat := v / 2 ^ lo % 2 ^ (hi + 1 - lo)

/-- One bit of a number. -/
def bitOf (v i : Nat) : Bool := v / 2 ^ i % 2 = 1

/-- A word with bits [hi:lo] replaced. -/
def setBits (w : Word) (hi lo v : Nat) : Word :=
  let m : Word := BitVec.ofNat 32 ((2 ^ (hi + 1 - lo) - 1) * 2 ^ lo)
  (w &&& ~~~m) ||| (BitVec.ofNat 32 (v % 2 ^ (hi + 1 - lo) * 2 ^ lo))

/-- 1 for true. -/
def b2n (b : Bool) : Nat := if b then 1 else 0

/-- Division rounded up; 0 for a divisor of 0. -/
def cdiv (a b : Nat) : Nat := if b = 0 then 0 else (a + b - 1) / b

/-- The least multiple of `p` that is at least `t`. -/
def roundUp (t p : Nat) : Nat := if p = 0 then t else (t + p - 1) / p * p

/-- 2^32, the modulus of ring counts. -/
def two32 : Nat := 4294967296

/-- An amount limited to `n` bits by saturation. -/
def satN (n v : Nat) : Nat := min v (2 ^ n - 1)

/-- A list with element `i` changed. -/
def lmod {α : Type} (l : List α) (i : Nat) (f : α → α) : List α :=
  match l, i with
  | [], _ => []
  | x :: r, 0 => f x :: r
  | x :: r, k + 1 => x :: lmod r k f

/-- A number put into a strictly rising list. -/
def sinsert (l : List Nat) (x : Nat) : List Nat :=
  match l with
  | [] => [x]
  | y :: r => if x = y then y :: r else if x < y then x :: y :: r else y :: sinsert r x

/-- Insertion into a list ordered by `le`, after its equals. -/
def oinsert {α : Type} (le : α → α → Bool) (x : α) (l : List α) : List α :=
  match l with
  | [] => [x]
  | y :: r => if le y x then y :: oinsert le x r else x :: y :: r

/-- Insertion into a list ordered by `le`, before its equals. -/
def oput {α : Type} (le : α → α → Bool) (x : α) (l : List α) : List α :=
  match l with
  | [] => [x]
  | y :: r => if le x y then x :: y :: r else y :: oput le x r

/-- Stable insertion sort. -/
def osort {α : Type} (le : α → α → Bool) (l : List α) : List α := l.foldr (oput le) []

/-! ### Registers (spec/20_register_map.md) -/

/-- The register row that an offset lies in, with the number of the copy. -/
def findRow (off : Nat) (rows : List RegRow) : Option (RegRow × Nat) :=
  match rows with
  | [] => none
  | r :: t =>
    if r.off ≤ off ∧ (if r.stride = 0 then off = r.off else (off - r.off) % r.stride = 0 ∧ (off - r.off) / r.stride < r.n) then
      some (r, if r.stride = 0 then 0 else (off - r.off) / r.stride)
    else findRow off t

/-- The rows of the window that an offset lies in. -/
def rowsAt (off : Nat) : List RegRow :=
  match off / 0x1000 with
  | 0 => regsGlb0
  | 1 => regsHat0
  | 2 => regsLed0
  | 3 => regsGat0 ++ regsGat1
  | 4 => regsCmp0 ++ regsCmp1
  | 5 => regsStw0
  | 6 => regsShv0 ++ regsShv1
  | 7 => regsPan0
  | 8 => regsSmp0
  | 9 => regsSiv0
  | 10 => regsRsu0
  | 11 => regsBin0 ++ regsBin1
  | 12 => regsKpr0 ++ regsKpr1 ++ regsKpr2 ++ regsKpr3
  | 13 => regsRaf0
  | 14 => regsTal0
  | 15 => regsRas0
  | 16 => regsCnt0
  | 17 => regsDbg0
  | _ => if 0x1C000 ≤ off then regsDbw0 else []

/-- The register at an offset: R616. -/
def regRow (off : Nat) : Option (RegRow × Nat) := findRow off (rowsAt off)

/-- The reset word of the register at an offset. -/
def rstWord (off : Nat) : Word :=
  match regRow off with
  | some (r, _) => r.rst
  | none => 0

/-- The key of a register copy. -/
def regKey (off sel : Nat) : Nat := off * 65536 + sel

/-- The word of a register as last written. -/
def Eng.reg (e : Eng) (off : Nat) (sel : Nat := 0) : Word := tgetD e.regs (regKey off sel) (rstWord off)

/-- A field as last written. -/
def Eng.fv (e : Eng) (f : Fld) (sel : Nat := 0) : Nat := bitsOf (e.reg f.off sel).toNat f.hi f.lo

/-- A one-bit field as last written. -/
def Eng.fb (e : Eng) (f : Fld) (sel : Nat := 0) : Bool := e.fv f sel = 1

/-- Put a whole word into a register copy. -/
def Eng.putReg (e : Eng) (off sel : Nat) (w : Word) : Eng :=
  { e with regs := tsetD e.regs (regKey off sel) w (rstWord off) }

/-- The engine's own change of a field. -/
def Eng.poke (e : Eng) (f : Fld) (v : Nat) (sel : Nat := 0) : Eng :=
  e.putReg f.off sel (setBits (e.reg f.off sel) f.hi f.lo v)

/-- An RWS field in force (R56). -/
def Eng.av (e : Eng) (f : Fld) (sel : Nat := 0) : Nat :=
  bitsOf (tgetD e.act (regKey f.off sel) (rstWord f.off)).toNat f.hi f.lo

/-- An instance-view field as a composition uses it: the captured value (R60). -/
def Eng.cv (e : Eng) (f : Fld) (sel : Nat := 0) : Nat :=
  bitsOf (tgetD e.cap (regKey f.off sel) (rstWord f.off)).toNat f.hi f.lo

/-- A 64-bit quantity as last written (R6). -/
def Eng.pairv (e : Eng) (off : Nat) (sel : Nat := 0) : Nat := (e.reg off sel).toNat + two32 * (e.reg (off + 4) sel).toNat

/-- Write a 64-bit quantity. -/
def Eng.pokePair (e : Eng) (off : Nat) (v : Nat) (sel : Nat := 0) : Eng :=
  (e.putReg off sel (BitVec.ofNat 32 v)).putReg (off + 4) sel (BitVec.ofNat 32 (v / two32))

/-- A 32-bit event count that saturates at 0xFFFF_FFFF. A count and a write that clears it in the same tick take effect in the order of the
queue (R623; DESIGN CHOICE, assumption log 64). -/
def Eng.bump (e : Eng) (f : Fld) (n : Nat := 1) (sel : Nat := 0) : Eng := e.poke f (satN 32 (e.fv f sel + n)) sel

/-- Append to what the engine has done outside. -/
def Eng.emit (e : Eng) (o : Out) : Eng := { e with out := o :: e.out }

/-- A message to the array. -/
def Eng.tell (e : Eng) (m : ArrMsg) : Eng := e.emit (.array m)

/-- The next free value, and the engine with the counter advanced. -/
def Eng.fresh (e : Eng) : DWord × Eng := (Config.freeValue e.free, { e with free := e.free + 1 })

/-! ### Counters (spec/19_counters_trace_debug.md R600 to R603) -/

/-- Whether counting is stopped in the tick `t`. -/
def Eng.cntStopped (e : Eng) (t : Nat) : Bool :=
  !e.fb F.CNT_CTL_EN || e.fb F.CNT_CTL_FREEZE || (e.fb F.CNT_CTL_ARM && decide (e.pairv 0x10008 ≤ t))

/-- Whether counter n selects an amount of source `src` for a partition and instance. -/
def Eng.cntSelects (e : Eng) (n src : Nat) (pid inst : Option Nat) : Bool :=
  let w := (e.reg (0x10100 + 4 * n)).toNat
  decide (bitsOf w 15 0 = src ∧ src ≠ 0)
    && (!bitOf w 22 || decide (pid = some (bitsOf w 21 16)))
    && (!bitOf w 27 || decide (inst = some (bitsOf w 26 23)))

/-- Add to counter n; a wrap sets OVF (R602). -/
def Eng.cntAdd (e : Eng) (n amt : Nat) : Eng :=
  let v := tgetD e.dbg.cnt n 0 + amt
  let e := { e with dbg := { e.dbg with cnt := tsetD e.dbg.cnt n (v % 2 ^ 64) 0 } }
  if 2 ^ 64 ≤ v then e.poke ⟨0x10100 + 4 * n, 31, 31⟩ 1 else e

/-- The numbers of the 64 counters. -/
def cntRange : List Nat := List.range 64

/-- Add an amount of a source to the counters that select it (R600, R601), unless counting is stopped. -/
def Eng.countAmt (e : Eng) (src amt : Nat) (pid : Option Nat := none) (inst : Option Nat := none) : Eng :=
  if e.cntStopped e.now || amt = 0 then e
  else cntRange.foldl (fun e n => if e.cntSelects n src pid inst then e.cntAdd n amt else e) e

/-- Count an amount that arises in this tick; none is counted in the tick of a CLEAR (R603). -/
def Eng.count (e : Eng) (src amt : Nat) (pid : Option Nat := none) (inst : Option Nat := none) : Eng :=
  if e.dbg.clearAt = some e.now then e else e.countAmt src amt pid inst

/-! ### Rings -/

/-- A ring's counters. -/
def Eng.ring (e : Eng) (r : Nat) : Ring := tgetD e.hat.rings r {}

/-- Replace a ring's counters. -/
def Eng.setRing (e : Eng) (r : Nat) (x : Ring) : Eng :=
  { e with hat := { e.hat with rings := tsetD e.hat.rings r x {} } }

/-- Whether a ring's EN is set. -/
def Eng.ringEn (e : Eng) (r : Nat) : Bool := e.fb F.HAT_RING_CFG_EN r

/-- Kind of a ring: 0 SUB, 1 CMP, 2 EVT. -/
def Eng.ringKind (e : Eng) (r : Nat) : Nat := e.fv F.HAT_RING_CFG_KIND r

/-- Depth of a ring (R76). -/
def Eng.ringDepth (e : Eng) (r : Nat) : Nat := 2 ^ (e.fv F.HAT_RING_CFG_LOG2_DEPTH r + 4)

/-- Filled entries of a ring (R77). -/
def Eng.ringFill (e : Eng) (r : Nat) : Nat := ((e.ring r).tail + two32 - (e.ring r).head) % two32

/-- PHASE of a record at position p (R104). -/
def Eng.ringPhase (e : Eng) (r p : Nat) : Nat := 1 - p / e.ringDepth r % 2

/-- The numbers of the 256 rings. -/
def ringRange : List Nat := List.range 256

/-- Write an event record to one event ring, or drop it (R111, R633). -/
def Eng.eventTo (e : Eng) (v : EvtRec) (r : Nat) : Eng :=
  let g := e.ring r
  if !e.fb F.HAT_CTL_EN || decide (e.ringDepth r ≤ e.ringFill r) then
    (e.setRing r { g with lostFlag := true }).bump F.HAT_EVT_LOST_LOST 1 r
  else
    let e := e.emit (.event r g.tail (e.ringPhase r g.tail) g.lostFlag v)
    let t := (g.tail + 1) % two32
    (e.setRing r { g with tail := t, lostFlag := false }).emit (.pointerLine r t)

/-- Whether an event ring receives an event (R110). -/
def Eng.ringTakes (e : Eng) (v : EvtRec) (r : Nat) : Bool :=
  e.ringEn r && decide (e.ringKind r = 2)
    && (e.fb F.HAT_RING_CFG_FILTER_ALL r || (v.part && decide (e.fv F.HAT_RING_CFG_PID r = v.pid)))

/-- Raise an event (R599): counted, then offered to every ring that selects it. -/
def Eng.raise (e : Eng) (v : EvtRec) : Eng :=
  let v := { v with stamp := e.now }
  let e := e.count v.code 1 (some v.pid) v.inst
  ringRange.foldl (fun e r => if e.ringTakes v r then e.eventTo v r else e) e

/-- An engine-wide event of a code, unit and argument. -/
def Eng.raiseE (e : Eng) (code unit arg : Nat) (inst : Option Nat := none) : Eng :=
  e.raise { code, unit, arg, inst }

/-- An event that concerns a partition. -/
def Eng.raiseP (e : Eng) (code unit pid arg : Nat) (inst : Option Nat := none) : Eng :=
  e.raise { code, unit, arg, pid, part := true, inst }

/-- The unit number that an event about a window offset carries (R109). -/
def unitOfOff (off : Nat) : Nat :=
  match off / 0x1000 with
  | 0 => 15
  | 1 => 1 | 2 => 2 | 3 => 3 | 4 => 4 | 5 => 5 | 6 => 6 | 7 => 7 | 8 => 8 | 9 => 9 | 10 => 10 | 11 => 11 | 12 => 12
  | 13 => 13 | 14 => 14 | 15 => 16 | 16 => 16 | 17 => 15
  | _ => if 0x1C000 ≤ off then 1 else if 0x18000 ≤ off then 5 else 15

/-- BAD_ACCESS (R5, R599), raised by GLB; one about the Steward debug memory view carries the Steward's number and one about
the doorbell window Hatch's (R109; assumption log 62). -/
def Eng.badAccess (e : Eng) (off : Nat) (write : Bool) : Eng :=
  e.raiseE 0x0001 (if 0x1C000 ≤ off % 2 ^ 17 then 1 else if 0x18000 ≤ off % 2 ^ 17 then 5 else 15) (off % 2 ^ 17 + 2 ^ 17 * b2n write)

/-- WRITE_WHILE_ENABLED (R11). -/
def Eng.wwe (e : Eng) (off : Nat) : Eng := e.raiseE 0x0002 (unitOfOff off) (off % 2 ^ 17)

/-- WRITE_AFTER_LOCK (R12). -/
def Eng.wal (e : Eng) (off : Nat) : Eng := e.raiseE 0x0003 (unitOfOff off) (off % 2 ^ 17)

/-- BRINGUP_ORDER (R572). -/
def Eng.bringupOrder (e : Eng) (off stage : Nat) : Eng := e.raiseE 0x0005 15 (off % 2 ^ 17 + 2 ^ 32 * stage)

/-! ### Trace (R604) -/

/-- Write a decision trace record. -/
def Eng.trace (e : Eng) (t : TraceRec) : Eng :=
  if e.fb F.CNT_TRC_CFG_EN && bitOf (e.fv F.CNT_TRC_CFG_KINDS) t.kind then
    let h := e.fv F.CNT_TRC_HEAD_HEAD
    let n := 2 ^ max 7 (min 24 (e.fv F.CNT_TRC_CFG_LOG2_RECORDS))
    let e := e.emit (.trace (h % n) { t with stamp := e.now })
    (e.poke F.CNT_TRC_HEAD_HEAD ((h + 1) % two32)).count 0x101B 1 (if t.pidV then some t.pid else none) (some t.inst)
  else e

/-! ### Completion records (R79, R102, R112, R113, R633) -/

/-- The completion ring of a submission ring. -/
def Eng.cqOf (e : Eng) (sub : Nat) : Nat := e.fv F.HAT_RING_CFG_CQ sub

/-- Whether a completion ring can take no record directly now. -/
def Eng.cmpFull (e : Eng) (c : Nat) : Bool :=
  !e.fb F.HAT_CTL_EN || !e.ringEn c || decide (e.ringKind c ≠ 1) || decide (e.ringDepth c ≤ e.ringFill c)

/-- Whether a completion ring is blocked (R80, R113, R633): it holds records in the overflow area, or it is not enabled. -/
def Eng.blocked (e : Eng) (c : Nat) : Bool := !(e.ring c).ovf.isEmpty || !e.ringEn c

/-- Write a record at the tail of a completion ring. -/
def Eng.cmpWrite (e : Eng) (c : Nat) (v : CmpRec) : Eng :=
  let g := e.ring c
  let t := (g.tail + 1) % two32
  ((e.emit (.completion c g.tail (e.ringPhase c g.tail) v)).setRing c { g with tail := t }).emit (.pointerLine c t)

/-- Address of a place of the overflow area, which holds 2^26 records of 64 bytes (R112; assumption log 70). -/
def Eng.ovfAddr (e : Eng) (k : Nat) : Nat := e.pairv 0x1064 + 64 * (k % 2 ^ 26)

/-- A record is written to the next place of the overflow area. -/
def Eng.ovfWrite (e : Eng) (v : CmpRec) : Eng :=
  let k := e.hat.overNext
  { e.emit (.overflow (e.ovfAddr k) v) with hat := { e.hat with overNext := k + 1, ovfArea := tput e.hat.ovfArea (k % 2 ^ 26) v } }

/-- Write a completion record, or place it in the overflow area. -/
def Eng.complete (e : Eng) (v : CmpRec) : Eng :=
  let c := e.cqOf v.ring
  if e.blocked c || e.cmpFull c then
    let g := e.ring c
    (e.setRing c { g with ovf := g.ovf ++ [v] }).ovfWrite v
  else e.cmpWrite c v

/-- Move overflow records of a completion ring to the ring while it has free entries (R112). -/
def drainOvf (e : Eng) (c : Nat) (fuel : List CmpRec) : Eng :=
  match fuel with
  | [] => e
  | v :: rest =>
    if e.cmpFull c then e
    else
      let g := e.ring c
      drainOvf ((e.setRing c { g with ovf := rest }).cmpWrite c v) c rest

/-- Records held in the overflow area. -/
def Eng.ovfCount (e : Eng) : Nat := e.hat.rings.foldl (fun n p => n + p.2.ovf.length) 0

/-! ### Instances and steps -/

/-- The 16 instance indexes. -/
def instRange : List Nat := List.range 16

/-- An instance. -/
def Eng.inst (e : Eng) (i : Nat) : Inst := tgetD e.cmp.insts i {}

/-- Replace an instance. -/
def Eng.setInst (e : Eng) (i : Nat) (x : Inst) : Eng :=
  { e with cmp := { e.cmp with insts := tsetD e.cmp.insts i x {} } }

/-- Change an instance. -/
def Eng.modInst (e : Eng) (i : Nat) (f : Inst → Inst) : Eng := e.setInst i (f (e.inst i))

/-- An instance is idle: no composition in progress and no step outstanding (R57). On a follower a composition is in progress while its
compose window is open (R59, R218). -/
def Eng.instIdle (e : Eng) (i : Nat) : Bool :=
  let x := e.inst i
  x.comp.isNone && x.step.isNone && x.trig.isNone && (x.lead || !x.win)

/-- The engine is idle (R57). -/
def Eng.idle (e : Eng) : Bool := instRange.all e.instIdle

/-- The active instances. -/
def Eng.activeInsts (e : Eng) : List Nat := instRange.filter (fun i => (e.inst i).active)

/-- A Keeper partition. -/
def Eng.part (e : Eng) (p : Nat) : KPart := tgetD e.kpr.parts p {}

/-- Replace a Keeper partition. -/
def Eng.setPart (e : Eng) (p : Nat) (x : KPart) : Eng :=
  { e with kpr := { e.kpr with parts := tsetD e.kpr.parts p x {} } }

/-- Change a Keeper partition. -/
def Eng.modPart (e : Eng) (p : Nat) (f : KPart → KPart) : Eng := e.setPart p (f (e.part p))

/-- A context. -/
def Eng.ctx (e : Eng) (i : Nat) : Ctx := tgetD e.kpr.ctxs i {}

/-- Replace a context. -/
def Eng.setCtx (e : Eng) (i : Nat) (x : Ctx) : Eng :=
  { e with kpr := { e.kpr with ctxs := tsetD e.kpr.ctxs i x {} } }

/-- Change a context. -/
def Eng.modCtx (e : Eng) (i : Nat) (f : Ctx → Ctx) : Eng := e.setCtx i (f (e.ctx i))

/-- The Shelver's figures of an instance. -/
def Eng.shvi (e : Eng) (i : Nat) : ShvInst := tgetD e.shv.insts i {}

/-- Replace the Shelver's figures of an instance. -/
def Eng.setShvi (e : Eng) (i : Nat) (x : ShvInst) : Eng :=
  { e with shv := { e.shv with insts := tsetD e.shv.insts i x {} } }

/-- A model's residency record. -/
def Eng.model (e : Eng) (m : Nat) : Model := tgetD e.shv.models m {}

/-- Replace a model's residency record. -/
def Eng.setModel (e : Eng) (m : Nat) (x : Model) : Eng :=
  { e with shv := { e.shv with models := tsetD e.shv.models m x {} } }

/-- A Ledger record; a FREE slot has none. -/
def Eng.rc (e : Eng) (s : Nat) : Option LRec := tget e.led.recs s

/-- Put a Ledger record. -/
def Eng.setRc (e : Eng) (s : Nat) (r : LRec) : Eng := { e with led := { e.led with recs := tput e.led.recs s r } }

/-- Change a Ledger record, if the slot holds one. -/
def Eng.modRc (e : Eng) (s : Nat) (f : LRec → LRec) : Eng := { e with led := { e.led with recs := tmod e.led.recs s f } }

/-- Partition of an RQID (R14). -/
def rqPid (rqid : Nat) : Nat := rqid / 2 ^ 26 % 64

/-- Slot of an RQID (R14). -/
def rqSlot (rqid : Nat) : Nat := rqid % 2 ^ 24

/-- A record is live: in none of FREE, FINISHED and CANCELLED. -/
def LRec.live (r : LRec) : Bool := decide (1 ≤ r.state ∧ r.state ≤ 8)

/-- The slots of a request's sibling records, from its first slot along NEXT_SIB (R140). -/
def sibSlots (e : Eng) (slot : Nat) (fuel : Nat) : List Nat :=
  match fuel with
  | 0 => []
  | k + 1 =>
    match e.rc slot with
    | none => []
    | some r => slot :: (if r.nextSib = 0xFFFFFF then [] else sibSlots e r.nextSib k)

/-- The slots of every sibling of the request whose first record is at `slot`. -/
def Eng.sibs (e : Eng) (slot : Nat) : List Nat := sibSlots e slot 64

/-! ### Time (R39, R564) -/

/-- A regulated request that waits: its partition, the buckets that it is charged to (Store, Cellar, Rafter), and whether the pipe, port or
link that it waits for is serving another partition (R467). -/
structure Waiter where
  pid : Nat
  store : Bool := false
  cellar : Bool := false
  raf : Bool := false
  behind : Bool
deriving DecidableEq, Repr

/-- A command of another partition than `p` that `hit` selects has a piece on a pipe. -/
def Eng.pipeServes (e : Eng) (p : Nat) (hit : PanCmd → Bool) : Bool :=
  e.pan.pipes.any (fun x => (e.pan.running ++ e.pan.demand ++ e.pan.background).any
    (fun c => decide (c.id = x.2.cmd ∧ c.pid ≠ p) && hit c))

/-- A command's data lie in tier `t`. -/
def PanCmd.touches (c : PanCmd) (t : Nat) : Bool := decide (c.srcTier = t ∨ c.dstTier = t)

/-- A command that copies a group for an EXPORT: no regulator holds it or charges it (R479, R490). -/
def Eng.imageCmd (e : Eng) (c : PanCmd) : Bool := (tget e.shv.ops c.id).any (fun op => decide (op.what = 3))

/-- A command with a piece to start that Keeper regulates: not a copy of an image, and not a BULK command that waits for its leave (R326,
R490). -/
def Eng.regulated (e : Eng) (c : PanCmd) : Bool := !e.imageCmd c && (decide (c.kind ≠ 3) || c.leaveOk)

/-- The regulated requests that wait: Pantry commands with a piece to start, or to re-run (R331), for a pipe, streaming requests for the
cellar port, and frames held at a link.
The model's choice of what serves another partition, where R467 says no more: a piece on a pipe; for the port, a piece that reads or
writes Cellar, or a streaming grant given; for a link, a frame sent and not acknowledged (DESIGN CHOICE, assumption log 72). -/
def Eng.waiters (e : Eng) : List Waiter :=
  ((e.pan.demand ++ e.pan.background ++ e.pan.running.filter (fun c => !c.rerun.isEmpty)).filter e.regulated).map (fun c =>
      { pid := c.pid, store := c.touches 1, cellar := c.touches 2, behind := e.pipeServes c.pid (fun _ => true) })
    ++ e.kpr.streamWait.map (fun x =>
      let p := (e.inst x.1).owner
      { pid := p, cellar := true,
        behind := e.pipeServes p (fun c => c.touches 2) || e.kpr.streamGrants.any (fun g => decide ((e.inst g.1).owner ≠ p)) })
    ++ e.raf.links.flatMap (fun l => (l.2.waiting.filter (fun f => f.pidV)).map (fun f =>
      { pid := f.pid, raf := true, behind := l.2.unacked.any (fun g => g.pidV && decide (g.pid ≠ f.pid)) }))

/-- Every bucket that a waiting request is charged to stands above 0 or is unregulated. -/
def Eng.bucketsOpen (e : Eng) (w : Waiter) : Bool :=
  let k := e.part w.pid
  (!w.store || decide (e.av F.KPR_PART_STORE_RATE_RATE w.pid = 0) || decide (0 < k.store))
    && (!w.cellar || decide (e.av F.KPR_PART_CELLAR_RATE_RATE w.pid = 0) || decide (0 < k.cellar))
    && (!w.raf || decide (e.av F.KPR_PART_RAF_RATE_RATE w.pid = 0) || decide (0 < k.raf))

/-- The sums that Keeper keeps by tick (R467): A_p and B_p over `dt` ticks. -/
def Eng.tickParts (e : Eng) (dt : Nat) : Eng :=
  let w := e.waiters
  (List.range 64).foldl (fun e p =>
    let k := e.part p
    let mine := w.filter (fun x => decide (x.pid = p))
    if k.active || !mine.isEmpty then
      e.setPart p { k with
        aTicks := k.aTicks + dt
        bTicks := k.bTicks + (if mine.any (fun x => x.behind && e.bucketsOpen x) then dt else 0) }
    else e) e

/-- Ticks of a span of `dt` from `now` on that an armed freeze lets count, but for the tick of a CLEAR (R603). -/
def Eng.cntSpan (e : Eng) (dt : Nat) : Nat :=
  (if e.fb F.CNT_CTL_ARM then min dt (e.pairv 0x10008 - e.now) else dt) - (if e.dbg.clearAt = some e.now then 1 else 0)

/-- A push lane holds a push because its level's spill ring is full, and Bins serves (R435). -/
def Eng.lanesHeld (e : Eng) : Bool :=
  e.fb F.BIN_CTL_EN && decide ((tgetD e.pd 87 { st := 0 }).st = 2) && !(tgetD e.ras.caps 11 {}).halted
    && e.bin.stalled.any (fun w => e.bin.fullLevels.contains (w.toNat % 64))

/-- `n` cycles pass for the pushes that the push lanes hold (R435). -/
def Eng.stall (e : Eng) (n : Nat) : Eng := if e.lanesHeld then e.bump F.BIN_PUSH_STALL_COUNT n else e

/-- Logical lanes that hold a row not yet sampled: source LANE_BUSY (R600). -/
def Eng.lanesBusy (e : Eng) : Nat :=
  ((List.range 64).filter (fun n => e.smp.slots.any (fun s => s.2.rows.any (fun r =>
    r.2.res.isNone && decide (r.2.lane ≤ n ∧ n < r.2.lane + r.2.gang))))).length

/-- The Tally moves on to `t`; never backward (R40). Sources that count by tick gain what the span gives. -/
def Eng.pass (e : Eng) (t : Nat) : Eng :=
  if t ≤ e.now then e
  else
    let dt := t - e.now
    let n := e.cntSpan dt
    let e := e.countAmt 0x1000 n
    let e := e.smp.slots.foldl (fun e s =>
      if s.2.st = 1 then
        let x := e.inst (s.1 / 16384)
        let pid := match x.step with
          | some st => (st.slots.getD (s.1 % 16384) {}).rqid / 2 ^ 26 % 64
          | none => x.owner
        e.countAmt 0x1009 n (some pid) (some (s.1 / 16384))
      else e) e
    let e := e.countAmt 0x101A (n * e.lanesBusy)
    let e := e.tickParts dt
    { e with now := t }

/-- Carry the Tally forward to `t`; never backward (R40). A span of ticks counts as 6/5 cycles of CLK_CTL a tick (assumption log 64). -/
def Eng.advance (e : Eng) (t : Nat) : Eng := (e.stall ((t - e.now) * 6 / 5)).pass t

/-- The scale of the accumulator of R564: one tick is 6 * 2^40 units of 2^-40/6 t. -/
def accTick : Nat := 6 * 2 ^ 40

/-- What one CLK_CTL cycle adds at a servo rate in parts of 2^-40 (R550, R564). -/
def accGain (rate : Int) : Nat := 5 * ((2 : Int) ^ 40 + rate).toNat

/-- `n` cycles of CLK_CTL pass. -/
def Eng.cycles (e : Eng) (n : Nat) : Eng :=
  let a := e.tal.acc + n * accGain e.raf.rate
  let e := { e with tal := { e.tal with acc := a % accTick } }
  (e.stall n).pass (e.now + a / accTick)

/-- TAL_FRAC: the fraction in units of 2^-16 t. -/
def Eng.frac (e : Eng) : Nat := e.tal.acc / 6 / 2 ^ 24

/-! ### Halts of the port (R610, R611, R613) -/

/-- The engine's own actions are stopped by a halt: one that the port sets or ends in this tick counts from the next one on (R610, R613). -/
def Eng.stopped (e : Eng) : Bool :=
  match e.dbg.haltWas with
  | some (t, was) => if t = e.now then was else e.dbg.engineHalted
  | none => e.dbg.engineHalted

/-- The Steward is stopped before its next bundle, in the same way (R611, R613). -/
def Eng.stwStopped (e : Eng) : Bool :=
  let halted := e.dbg.stwHalted && !e.dbg.stepOne
  match e.dbg.stwWas with
  | some (t, was) => if t = e.now then was else halted
  | none => halted

/-! ### Units, faults (R576 to R580) and power domains (R565) -/

/-- A unit has worked in its SRAMs: they no longer hold the zeros of a reset (R558, R560). -/
def Eng.works (e : Eng) (u : Nat) : Eng := { e with dbg := { e.dbg with worked := sinsert e.dbg.worked u } }

/-- A unit's captures. -/
def Eng.cap_ (e : Eng) (u : Nat) : Cap := tgetD e.ras.caps u {}

/-- Replace a unit's captures. -/
def Eng.setCap (e : Eng) (u : Nat) (c : Cap) : Eng := { e with ras := { e.ras with caps := tsetD e.ras.caps u c {} } }

/-- A unit is halted (R584). -/
def Eng.unitHalted (e : Eng) (u : Nat) : Bool := (e.cap_ u).halted

/-- Some unit's HANDLING bit is set. -/
def Eng.anyHandling (e : Eng) : Bool := e.ras.caps.any (fun c => c.2.handling)

/-- The FAULT event of a captured fault (R579). -/
def Eng.faultEvent (e : Eng) (f : FaultRec) : Eng :=
  e.raise { code := 0x0006, unit := f.unit, pid := if f.pidV then f.pid else 0, part := f.pidV, fault := f.code,
            rqid := f.rqid, gen := f.gen, arg := f.cls + 256 * f.part }

/-- Capture a fault of class CONTAINED or above, or a logged CORRECTED one (R578, R579). -/
def Eng.capture (e : Eng) (f : FaultRec) : Eng :=
  let f := { f with stamp := e.now, handling := e.anyHandling }
  let e := if f.cls = 0 then e.bump F.RAS_CORRECTED_COUNT else e
  if f.cls = 0 ∧ !e.fb F.RAS_CTL_LOG_CORRECTED then e
  else
    let c := e.cap_ f.unit
    if !c.handling then (e.setCap f.unit { c with cap1 := some f, handling := true }).faultEvent f
    else if c.cap2.isNone then (e.setCap f.unit { c with cap2 := some f }).faultEvent f
    else e.poke F.RAS_UNIT_STATE_OVERFLOW (satN 16 (e.fv F.RAS_UNIT_STATE_OVERFLOW f.unit + 1)) f.unit

/-- Set bits of a doubleword. -/
def ones64 (w : DWord) : Nat := ((List.range 64).filter (fun i => w.getLsbD i)).length

/-- A memory of a unit corrects a single-bit error: SRAM_CE, of class CORRECTED (R577, R615). -/
def Eng.corrected (e : Eng) (unit : Nat) : Eng := e.capture { code := 0x010, cls := 0, unit }

/-- A power domain; an unlisted one is OFF. -/
def Eng.dom (e : Eng) (d : Nat) : Dom := tgetD e.pd d { st := 0 }

/-- Replace a power domain. -/
def Eng.setDom (e : Eng) (d : Nat) (x : Dom) : Eng := { e with pd := tsetD e.pd d x { st := 0 } }

/-- The wake latency of a domain from its state (R565). -/
def wakeLatency (d st : Nat) : Nat :=
  if 1 ≤ d ∧ d ≤ 4 then (if st = 3 then 150 else 4000)
  else if d = 7 then 150
  else if 10 ≤ d ∧ d ≤ 13 then 1500
  else if 14 ≤ d ∧ d ≤ 81 then 2500
  else if 82 ≤ d ∧ d ≤ 85 then 1500
  else if d = 98 then 1000
  else if 89 ≤ d ∧ d ≤ 94 then 0
  else 4000

/-- A domain is needed: it wakes from OFF or RETAIN, and its use is noted (R565, R566). A retired one stays OFF (R567), and one that
auto-gating or RETAIN took from ON in this tick stays ON (R568). -/
def Eng.wake (e : Eng) (d : Nat) : Eng :=
  let x := e.dom d
  if x.retired then e
  else if (x.st = 0 ∨ x.st = 3) ∧ x.gated = some e.now then e.setDom d { x with st := 2, used := e.now }
  else if x.st = 0 ∨ x.st = 3 then
    if wakeLatency d x.st = 0 then e.setDom d { x with st := 2, used := e.now }
    else e.setDom d { x with st := 1, due := e.now + wakeLatency d x.st, used := e.now, drop := false }
  else e.setDom d { x with used := e.now, drop := false }

/-- A unit that needs a domain waits until it is ON (R566). -/
def Eng.needOn (e : Eng) (d : Nat) : Eng :=
  let e := e.wake d
  let x := e.dom d
  if x.st = 1 then let e := e.advance x.due; e.setDom d { x with st := 2, used := e.now } else e

/-- A domain goes to OFF, or to RETAIN for the Steward; a waking one completes its wake first (R568). -/
def Eng.gate (e : Eng) (d : Nat) : Eng :=
  let x := e.dom d
  if x.st = 1 then e.setDom d { x with drop := true }
  else e.setDom d { x with st := if d = 7 then 3 else 0, gated := none }

/-- Auto-gating takes a domain OFF, or entry to RETAIN a Ledger bank; a need in the same tick keeps it ON (R568). -/
def Eng.autoGate (e : Eng) (d st : Nat) : Eng := e.setDom d { e.dom d with st, gated := some e.now }

/-- A domain is ON. -/
def Eng.domOn (e : Eng) (d : Nat) : Bool := decide ((e.dom d).st = 2)

/-- The domain of a retired part is OFF until engine reset (R567, R568). -/
def Eng.retireDom (e : Eng) (d : Nat) : Eng := e.setDom d { st := 0, retired := true }

/-- Quiesce has begun or is complete (R585, R586). -/
def Eng.quiet (e : Eng) : Bool := e.ras.quiescing || e.ras.quiesced

/-- A command's effect on the engine's units while the engine is out of reset; with the engine absent nothing answers
(R125, R574). -/
def live (s : State) (f : Eng → Eng) : Host.Outcome State Fault Refusal :=
  if s.boot.absent then .next s else .next { s with eng := f s.eng }

/-- A request of the array or of a small core: with the engine absent, the chip's port logic answers it (R574). -/
def liveOr (s : State) (absent : Eng → Eng) (f : Eng → Eng) : Host.Outcome State Fault Refusal :=
  if s.boot.absent then .next { s with eng := absent s.eng } else .next { s with eng := f s.eng }

end Sys2Proof.Machine
end

