-- ==== Sys2Proof/Machine/Bytes.lean ====
section
/-!
DEFINITION. Little-endian byte views of descriptors, records and images (spec/00_scope.md R3), and the three check sums that
spec/ names: CRC-32 (spec/07 R294), CRC-64 (spec/07 R271) and the header CRC of frames.
-/
namespace Sys2Proof.Machine

/-- A byte. -/
abbrev Byte := BitVec 8

/-- Bits [hi:lo] of the field that begins at byte `off` of a record held as one little-endian number (R3). -/
def recField {n : Nat} (d : BitVec n) (off hi lo : Nat) : Nat := bitsOf d.toNat (8 * off + hi) (8 * off + lo)

/-- One bit of a record. -/
def recBit {n : Nat} (d : BitVec n) (off i : Nat) : Bool := bitOf d.toNat (8 * off + i)

/-- The first `n` bytes of a number, low byte first. -/
def leBytes (n v : Nat) : List Nat :=
  match n with
  | 0 => []
  | k + 1 => v % 256 :: leBytes k (v / 256)

/-- The number that bytes spell, low byte first. -/
def leNat (l : List Nat) : Nat :=
  match l with
  | [] => 0
  | b :: r => b + 256 * leNat r

/-- Bytes of an image as numbers. -/
def natBytes (l : List Byte) : List Nat := l.map (fun b => b.toNat)

/-- `n` bytes at `off` as a little-endian number; bytes beyond the end read 0. -/
def imgField (l : List Nat) (off n : Nat) : Nat := leNat ((l.drop off).take n)

/-- `n` bits of CRC-32 (reflected, polynomial 0xEDB8_8320). -/
def crc32Bits (n c : Nat) : Nat :=
  match n with
  | 0 => c
  | k + 1 => crc32Bits k (if c % 2 = 1 then (c / 2) ^^^ 0xEDB88320 else c / 2)

/-- CRC-32 register after bytes. -/
def crc32Run (c : Nat) (l : List Nat) : Nat :=
  match l with
  | [] => c
  | b :: r => crc32Run (crc32Bits 8 (c ^^^ b)) r

/-- CRC-32 with the IEEE 802.3 polynomial. -/
def crc32 (l : List Nat) : Nat := crc32Run 0xFFFFFFFF l ^^^ 0xFFFFFFFF

/-- `n` bits of CRC-64, most significant bit first. -/
def crc64Bits (n c : Nat) : Nat :=
  match n with
  | 0 => c
  | k + 1 => crc64Bits k (if 2 ^ 63 ≤ c then (c * 2 % 2 ^ 64) ^^^ 0x42F0E1EBA9EA3693 else c * 2 % 2 ^ 64)

/-- CRC-64 register after bytes. -/
def crc64Run (c : Nat) (l : List Nat) : Nat :=
  match l with
  | [] => c
  | b :: r => crc64Run (crc64Bits 8 (c ^^^ (b * 2 ^ 56))) r

/-- CRC-64 with the ECMA-182 polynomial, all ones at start and end, not reflected (R271). -/
def crc64 (l : List Nat) : Nat := crc64Run (2 ^ 64 - 1) l ^^^ (2 ^ 64 - 1)

/-- The low `n` bits of a two's complement number as an integer. -/
def sgn (n v : Nat) : Int := if v % 2 ^ n < 2 ^ (n - 1) then (v % 2 ^ n : Nat) else (v % 2 ^ n : Nat) - (2 ^ n : Int)

/-- An integer as an n-bit two's complement number. -/
def unsgn (n : Nat) (v : Int) : Nat := (v % (2 ^ n : Int)).toNat

/-- Least element of a list by a measure. -/
def leastBy {α : Type} (m : α → Nat) (l : List α) : Option α :=
  l.foldl (fun acc x => match acc with
    | none => some x
    | some y => if m x < m y then some x else some y) none

/-- Sum of a measure over a list. -/
def sumBy {α : Type} (m : α → Nat) (l : List α) : Nat := l.foldl (fun n x => n + m x) 0

end Sys2Proof.Machine
end

