-- ==== Sys2Proof/Machine/Leave.lean ====
section
/-!
DEFINITION. Power leave (spec/15_power_leave_and_accounting.md R502 to R513): requests, grants and releases.
-/
namespace Sys2Proof.Machine

/-- The effective cap in quarter watts (R507). -/
def Eng.capEff (e : Eng) : Nat := max 2400 (min 6000 (min (e.av F.KPR_PWR_CAP_CAP) (e.fv F.KPR_PWR_CAP_MAX_MAX)))

/-- The baseline: cap less GUARD while no delivery stands (R506). -/
def Eng.baseline (e : Eng) : Int :=
  match e.kpr.base with
  | some b => b
  | none => (e.capEff : Int) - e.av F.KPR_PWR_GUARD_GUARD

/-- Headroom (R507). -/
def Eng.headroom (e : Eng) : Int := (e.capEff : Int) - e.baseline - e.av F.KPR_PWR_GUARD_GUARD - e.kpr.committed

/-- The profile of a grant of `a` units from `s` at Tally `x` (R504). -/
def leaveProfile (a s x : Nat) : Nat := if x < s then 0 else min a (200 * ((x - s) / 1000 + 1))

/-- Ticks of [lo, hi) that lie in [a, b). -/
def overlap (lo hi a b : Nat) : Nat := min hi b - max lo a

/-- The sum of a grant's profile over the ticks of [a, b) (R506, R515). -/
def profileSum (amt s a b : Nat) : Nat :=
  let k := cdiv amt 200
  sumBy (fun i => min amt (200 * (i + 1)) * overlap (s + 1000 * i) (s + 1000 * (i + 1)) a b) (List.range k)
    + amt * overlap (s + 1000 * k) (max b (s + 1000 * k)) a b

/-- The unit-ticks of a grant in the window [a, b), up to its release (R511). -/
def Leave.sum (l : Leave) (a b : Nat) : Nat := profileSum l.amt l.start a (min b (l.ended.getD b))

/-- The local instance of a request. -/
def Leave.home (l : Leave) : Nat := if l.cls = 1 then l.inst else l.who

/-- Queue order (R509): Tally made, class, local instance, then command number. -/
def Leave.before (x y : Leave) : Bool :=
  decide (x.since < y.since ∨ (x.since = y.since ∧ (x.cls < y.cls ∨ (x.cls = y.cls ∧ (x.home < y.home ∨ (x.home = y.home ∧ x.who ≤ y.who))))))

/-- Move held requests into the queue while it has places (R509). -/
def leaveFill (queue held : List Leave) : List Leave × List Leave :=
  let ready := osort Leave.before (held.filter (fun l => !l.unmade))
  let n := 64 - queue.length
  (osort Leave.before (queue ++ ready.take n), ready.drop n ++ held.filter (fun l => l.unmade))

/-- The LEAVE record of a grant, or of a refusal with ST_REFUSED_BUDGET (R604). -/
def Eng.leaveTrace (e : Eng) (l : Leave) (status : Nat) : Eng :=
  e.trace { kind := 9, inst := if l.cls = 1 then l.inst else l.who, pid := l.pid, pidV := true, status,
            step := if l.cls = 2 then l.step else 0, arg := l.cls + 4 * l.amt + 2 ^ 16 * (if status = 0 then l.start % 2 ^ 48 else 0) }

/-- Try the requests of the queue in order (R508, R510). `stop` is set behind a late request that still waits. -/
def leaveTry (e : Eng) (stop : Bool) (q : List Leave) : Eng × List Leave :=
  match q with
  | [] => (e, [])
  | l :: r =>
    if stop || e.kpr.overCap || decide (e.headroom < l.amt) then
      let x := leaveTry e (stop || l.late) r
      (x.1, l :: x.2)
    else
      let s := max (e.now + 400) e.kpr.rampFree
      let g := { l with start := s }
      let e := { e with kpr := { e.kpr with
        committed := e.kpr.committed + l.amt, rampFree := s + cdiv l.amt 200 * 1000,
        grants := e.kpr.grants ++ [g] } }
      let e := (e.bump F.KPR_LEAVE_GRANTS_COUNT).leaveTrace g 0
      let tot := max 1 (sumBy (fun x => x.2) l.split)
      let e := l.split.foldl (fun e p => e.count 0x1019 (l.amt * p.2 / tot) (some p.1)) e
      let e := e.count 0x1019 (l.amt - sumBy (fun p => l.amt * p.2 / tot) l.split) none
      let e :=
        if l.cls = 2 then
          e.modInst l.who (fun x => { x with
            comp := x.comp.map (fun c => { c with leaveOk := true, notBefore := max c.notBefore s }) })
        else e
      leaveTry e stop r

/-- Keeper acts: it is enabled and not halted, and its domain is ON (R566, R584). -/
def Eng.kprOn (e : Eng) : Bool := e.fb F.KPR_CTL_EN && !e.unitHalted 12 && e.domOn 88

/-- Waiting requests are to be decided at the end of this tick (R513). -/
def Eng.leaveDecide (e : Eng) : Eng := { e with kpr := { e.kpr with deciding := true } }

/-- Fill the queue from the held requests and try it, until no grant frees a place for one that is held (R508, R509). -/
def leaveRun (e : Eng) (fuel : List Leave) : Eng :=
  let f := leaveFill e.kpr.queue e.kpr.heldReqs
  let x := leaveTry { e with kpr := { e.kpr with queue := f.1, heldReqs := f.2 } } false f.1
  let e := { x.1 with kpr := { x.1.kpr with queue := x.2 } }
  match fuel with
  | [] => e
  | _ :: r => if x.2.length < f.1.length && f.2.any (fun l => !l.unmade) then leaveRun e r else e

/-- The waiting requests are decided in queue order, once their turn has come in the tick (R508, R513). -/
def Eng.leaveSettle (e : Eng) : Eng :=
  if e.kpr.deciding && e.kprOn then leaveRun { e with kpr := { e.kpr with deciding := false } } e.kpr.heldReqs else e

/-- A request for leave (R503, R505). A request of 0 units is not made: its operation starts at once, and the caller sees
to that. -/
def Eng.leaveAsk (e : Eng) (l : Leave) : Eng :=
  let l := { l with since := e.now, unmade := !e.fb F.KPR_CTL_EN }
  ({ e with kpr := { e.kpr with heldReqs := e.kpr.heldReqs ++ [l] } }).leaveDecide

/-- KPR_CTL.EN is set: no delivery stands (R506). -/
def Eng.baseNone (e : Eng) : Eng := { e with kpr := { e.kpr with base := none } }

/-- Keeper is in service again: the requests that waited for it are made (R505). -/
def Eng.leaveEnable (e : Eng) : Eng :=
  ({ e with kpr := { e.kpr with
      heldReqs := e.kpr.heldReqs.map (fun (l : Leave) => if l.unmade then { l with unmade := false, since := e.now } else l) } }).leaveDecide

/-- Release the grants that `hit` selects, and withdraw the requests (R511). -/
def Eng.leaveRelease (e : Eng) (hit : Leave → Bool) : Eng :=
  let amt := sumBy (fun (l : Leave) => l.amt) (e.kpr.grants.filter (fun (l : Leave) => hit l && l.ended.isNone))
  ({ e with kpr := { e.kpr with
      committed := e.kpr.committed - amt
      grants := e.kpr.grants.map (fun (l : Leave) => if hit l && l.ended.isNone then { l with ended := some e.now } else l)
      queue := e.kpr.queue.filter (fun (l : Leave) => !hit l)
      heldReqs := e.kpr.heldReqs.filter (fun (l : Leave) => !hit l) } }).leaveDecide

/-- An operation has ended: class and owner. -/
def Eng.leaveEnd (e : Eng) (cls who : Nat) : Eng := e.leaveRelease (fun l => decide (l.cls = cls ∧ l.who = who))

/-- The PREFILL step of a number has resolved, or was lost or discarded. -/
def Eng.leaveEndStep (e : Eng) (i num : Nat) : Eng := e.leaveRelease (fun l => decide (l.cls = 2 ∧ l.who = i ∧ l.step = num))

/-- The amount that a step with `p` PREFILL tokens asks for; 0 below the threshold (R502). -/
def Eng.prefillAmount (e : Eng) (p : Nat) : Nat :=
  if p < e.av F.KPR_LEAVE_PREFILL_THRESH then 0
  else min (e.av F.KPR_LEAVE_PREFILL_PER_KTOK * cdiv p 1024) (e.av F.KPR_LEAVE_AMT_PREFILL_MAX)

end Sys2Proof.Machine
end

