-- ==== Sys2Proof/Machine/Charge.lean ====
section
/-!
DEFINITION. Keeper's regulators and charges (spec/13_partitions_shares_isolation.md R452 to R468, spec/15 R514, R516).
-/
namespace Sys2Proof.Machine

/-- A bucket level after a charge, saturated at -2^31 (R457). -/
def levelSub (l : Int) (n : Nat) : Int := max (-(2 ^ 31 : Int)) (l - n)

/-- RATE fields of the three buckets in force for a partition: Store, Cellar, Rafter. -/
def Eng.rates (e : Eng) (p : Nat) : Nat × Nat × Nat :=
  (e.av F.KPR_PART_STORE_RATE_RATE p, e.av F.KPR_PART_CELLAR_RATE_RATE p, e.av F.KPR_PART_RAF_RATE_RATE p)

/-- Whether a request of these bytes is admitted (R458): every bucket charged stands above 0 or is unregulated. -/
def Eng.regOpen (e : Eng) (p st ce ra : Nat) : Bool :=
  let k := e.part p
  let r := e.rates p
  !e.fb F.KPR_CTL_EN
    || ((decide (st = 0 ∨ r.1 = 0) || decide (0 < k.store))
      && (decide (ce = 0 ∨ r.2.1 = 0) || decide (0 < k.cellar))
      && (decide (ra = 0 ∨ r.2.2 = 0) || decide (0 < k.raf)))

/-- Charge bytes to a partition's buckets (R458, R461) and to its accounts (R514). -/
def Eng.regCharge (e : Eng) (p st ce ra : Nat) : Eng :=
  let r := e.rates p
  let on := e.fb F.KPR_CTL_EN
  e.modPart p (fun k => { k with
    store := if on && decide (r.1 ≠ 0) then levelSub k.store st else k.store
    cellar := if on && decide (r.2.1 ≠ 0) then levelSub k.cellar ce else k.cellar
    raf := if on && decide (r.2.2 ≠ 0) then levelSub k.raf ra else k.raf
    storeB := k.storeB + st
    cellarB := k.cellarB + ce
    rafB := k.rafB + ra })

/-- Add bytes back to the bucket levels (R489): waiting requests may then be admitted at the end of the tick (R458, R466). The quantities
charged stand (R514). -/
def Eng.regReturn (e : Eng) (p st ce : Nat) : Eng :=
  let r := e.rates p
  let e := e.modPart p (fun k => { k with
    store := if r.1 ≠ 0 then k.store + st else k.store
    cellar := if r.2.1 ≠ 0 then k.cellar + ce else k.cellar })
  { e with kpr := { e.kpr with admitting := true } }

/-- Refill of one bucket (R457). -/
def refill1 (rate burst : Nat) (l : Int) : Int := if rate = 0 then l else max l (min (burst : Int) (l + rate))

/-- The slot of the active CST bank that a Tally value lies in: PID, OPEN and the Tally at which the next slot starts; none
outside the table (R65). -/
def cstFind (bank : Tab DWord) (n base x : Nat) (i : Nat) (fuel : Nat) : Option (Nat × Bool × Nat) :=
  match fuel with
  | 0 => none
  | k + 1 =>
    if n ≤ i then none
    else
      let w := (tgetD bank i 0).toNat
      let d := bitsOf w 31 0
      if x < base + d then some (bitsOf w 37 32, bitOf w 38, base + d) else cstFind bank n (base + d) x (i + 1) k

/-- The entries of a bank. -/
def Eng.cstBank (e : Eng) (b : Bool) : Tab DWord := if b then e.tal.bank1 else e.tal.bank0

/-- NSLOT of a bank. -/
def Eng.cstN (e : Eng) (b : Bool) : Nat := if b then e.fv F.TAL_CST_NSLOT_N1 else e.fv F.TAL_CST_NSLOT_N0

/-- Frame length of a bank (R65). -/
def Eng.cstLen (e : Eng) (b : Bool) : Nat :=
  sumBy (fun i => bitsOf (tgetD (e.cstBank b) i 0).toNat 31 0) (List.range (e.cstN b))

/-- TAL_CST_BASE. -/
def Eng.cstBase (e : Eng) : Nat := e.pairv 0xE024

/-- The slot at a Tally value: PID, OPEN, start of the next slot. Values before the base are open (R65). -/
def Eng.slotAt (e : Eng) (x : Nat) : Nat × Bool × Nat :=
  let b := e.tal.activeBank
  let len := e.cstLen b
  if len = 0 then (0, true, x + 1)
  else if x < e.cstBase then (0, true, e.cstBase)
  else
    let f := e.cstBase + (x - e.cstBase) / len * len
    (cstFind (e.cstBank b) (e.cstN b) f x 0 4096).getD (0, true, f + len)

/-- Whether the CST governs edges. R68 does not say what is usable while TAL_CST_CTL.EN is set and the active bank's frame has no length: the
model's choice is that the table then does not govern (DESIGN CHOICE, assumption log 69). -/
def Eng.cstOn (e : Eng) : Bool := e.fb F.TAL_CST_CTL_EN && decide (e.cstLen e.tal.activeBank ≠ 0)

/-- Whether the slot at x is usable by partition p (R68). -/
def Eng.usable (e : Eng) (p x : Nat) : Bool :=
  let s := e.slotAt x
  if s.2.1 then !e.tal.barred.contains p else decide (s.1 = p)

/-- Whether x lies in a slot that partition p owns (R453). -/
def Eng.slotOwned (e : Eng) (p x : Nat) : Bool :=
  e.cstOn && (let s := e.slotAt x; !s.2.1 && decide (s.1 = p) && decide (e.cstBase ≤ x))

/-- The 64 partitions. -/
def partRange : List Nat := List.range 64

/-- Change a request's figures (R516), by the slot of its first record. -/
def Eng.modReq (e : Eng) (k : Nat) (f : ReqAcct → ReqAcct) : Eng :=
  { e with kpr := { e.kpr with reqs := tsetD e.kpr.reqs k (f (tgetD e.kpr.reqs k {})) {} } }

/-- The partition that pays for partition p's part of a step of an instance: the waiter's in place of the holder's in a borrowed
slice (R494). -/
def Eng.payer (e : Eng) (i edge p : Nat) : Nat :=
  if p ≠ (e.inst i).owner then p
  else match e.kpr.dons.find? (fun d => decide (d.holder = i) && (match d.start with
    | some t => decide (t ≤ edge)
    | none => false)) with
    | some d => d.wpid
    | none => p

/-- Tokens of the step of an instance, by partition, as the Composer reported them at emission (R198). -/
def Eng.stepTok (e : Eng) (i p : Nat) : Nat := tgetD e.kpr.toks (i * 64 + p) 0

/-- Its tokens in all. -/
def Eng.stepTotal (e : Eng) (i : Nat) : Nat := sumBy (e.stepTok i) partRange

/-- Charge partition `p` for `n` of the tokens of a step (R452, R453, R494). -/
def Eng.chargePart (e : Eng) (i : Nat) (st : Step) (p n : Nat) : Eng :=
  if n = 0 then e
  else
    let c := (e.now - st.edge) * n / e.stepTotal i
    let own := decide (p = (e.inst i).owner) && e.slotOwned p st.edge
    let q := e.payer i st.edge p
    e.modPart q (fun k => { k with
      engineNs := (k.engineNs + c) % 2 ^ 64
      winNs := k.winNs + c
      pass := if own then k.pass else (k.pass + c * 65536 / max (e.av F.KPR_PART_CTL_SHARE q) 1) % 2 ^ 64 })

/-- NTOK of the slots that `hit` selects. -/
def tokSum (l : List Slot) (hit : Slot → Bool) : Nat := sumBy (fun (s : Slot) => if hit s then s.ntok else 0) l

/-- Charge the requests of the slots `l` of a step: each its NTOK in them, and of the PREFILL grant its share by PREFILL tokens (R516). -/
def Eng.chargeReqs (e : Eng) (i : Nat) (st : Step) (l : List Slot) : Eng :=
  let total := e.stepTotal i
  let pre := tokSum st.slots (fun s => decide (s.kind = 2))
  let gs := e.kpr.grants.filter (fun (g : Leave) => decide (g.cls = 2 ∧ g.who = i ∧ g.step = st.num))
  let en := sumBy (fun (g : Leave) => g.sum g.start e.now) gs / 4
  let live := l.filter (fun s => decide (s.kind ≠ 0))
  ((live.map (fun s => rqSlot s.rqid)).eraseDups).foldl (fun e k =>
    let mine := fun (s : Slot) => decide (rqSlot s.rqid = k)
    let ns := (e.now - st.edge) * tokSum live mine / total
    let g := if pre = 0 then 0 else en * tokSum live (fun s => mine s && decide (s.kind = 2)) / pre
    e.modReq k (fun a => { a with engineNs := a.engineNs + ns, energy := a.energy + ns * e.kpr.rho / 2 ^ 32 + g })) e

/-- A slot of an outstanding step is lost: it is charged as if it had resolved now (R456), and not again with its step. -/
def Eng.chargeSlot (e : Eng) (i : Nat) (st : Step) (s : Slot) : Eng :=
  let k := i * 64 + rqPid s.rqid
  if s.kind = 0 ∨ s.lost = true ∨ e.stepTotal i = 0 ∨ !e.fb F.KPR_CTL_EN then e
  else
    let e := (e.chargePart i st (rqPid s.rqid) s.ntok).chargeReqs i st [s]
    { e with kpr := { e.kpr with lostToks := tsetD e.kpr.lostToks k (tgetD e.kpr.lostToks k 0 + s.ntok) 0 } }

/-- The interference that partition `p` met in a step that resolves now (R467). -/
def Eng.interfere (e : Eng) (i : Nat) (st : Step) (p : Nat) : Eng :=
  let total := e.stepTotal i
  let d := min (tgetD e.kpr.wants (i * 64 + p) 0 - tgetD e.kpr.gots (i * 64 + p) 0) (total - e.stepTok i p)
  if d = 0 then e else e.modPart p (fun k => { k with cTicks := k.cTicks + (e.now - st.edge) * d / total })

/-- The interference that each partition met in a step that resolves now (R467). -/
def Eng.interfereAll (e : Eng) (i : Nat) (st : Step) : Eng :=
  if e.stepTotal i = 0 ∨ !e.fb F.KPR_CTL_EN then e else partRange.foldl (fun e p => e.interfere i st p) e

/-- Charge a step of an instance that resolved, or was lost, now (R452, R453, R456, R494), with the figures of its requests (R516). Slots lost before have been charged at their loss. -/
def Eng.chargeStep (e : Eng) (i : Nat) (st : Step) : Eng :=
  if e.stepTotal i = 0 ∨ !e.fb F.KPR_CTL_EN then e
  else
    let e' := partRange.foldl (fun e p =>
      e.chargePart i st p (e.stepTok i p - tgetD e.kpr.lostToks (i * 64 + p) 0)) e
    e'.chargeReqs i st (st.slots.filter (fun s => !s.lost))

/-- Bytes of Pantry or Rafter traffic charged to a request's figures (R516), by the slot of its first record. -/
def Eng.reqBytes (e : Eng) (k st ce ra : Nat) : Eng :=
  e.modReq k (fun a => { a with storeB := a.storeB + st, cellarB := a.cellarB + ce, rafB := a.rafB + ra })

/-- Slowdown in 1/256 (R468). -/
def slowdown (a c b : Nat) : Nat :=
  if a = 0 then 0 else min (a * 256 / max (a - min (c + b) a) 1) 0xFFFF

end Sys2Proof.Machine
end

