-- ==== Sys2Proof/Machine/Send.lean ====
section
/-!
DEFINITION. Rafter's links as a sender (spec/16_rafter_link.md R521 to R537, R465): wiring, routes, credits and the order in
which a link direction sends.
-/
namespace Sys2Proof.Machine

/-- This chip's index: sled * 8 + slot (RAF_POS bits [5:0]). -/
def Eng.self (e : Eng) : Nat := e.fv F.RAF_POS_POS % 64

/-- The nine links. -/
def linkRange : List Nat := List.range 9

/-- The chip at the far end of a link of `me` (R521). -/
def linkPeer (me l : Nat) : Nat :=
  let s := me / 8
  let k := me % 8
  if l < 7 then 8 * s + (k + l + 1) % 8
  else if l = 7 then 8 * ((s + 1) % 8) + k
  else 8 * ((s + 7) % 8) + k

/-- The logical lanes of a link (R521, R522). -/
def linkLanes (l : Nat) : List Nat := if l < 7 then [l] else if l = 7 then [7, 8] else [9, 10]

/-- The link of a logical lane. -/
def laneLink (n : Nat) : Nat := if n < 7 then n else if n < 9 then 7 else 8

/-- The physical lane that serves a logical lane (R523). -/
def Eng.physOf (e : Eng) (n : Nat) : Nat := tgetD e.raf.remap n n

/-- A physical lane's state. -/
def Eng.lane (e : Eng) (p : Nat) : Lane := tgetD e.raf.lanes p {}

/-- Replace a physical lane. -/
def Eng.setLane (e : Eng) (p : Nat) (x : Lane) : Eng := { e with raf := { e.raf with lanes := tsetD e.raf.lanes p x {} } }

/-- A link direction. -/
def Eng.link (e : Eng) (l : Nat) : Link := tgetD e.raf.links l {}

/-- Replace a link direction. -/
def Eng.setLink (e : Eng) (l : Nat) (x : Link) : Eng := { e with raf := { e.raf with links := tsetD e.raf.links l x {} } }

/-- Physical lanes that serve a link and are in one of the given states. -/
def Eng.lanesOf (e : Eng) (l : Nat) (sts : List Nat) : List Nat :=
  (List.range 12).filter (fun p =>
    let x := e.lane p
    sts.contains x.st && (match x.log with | some n => (linkLanes l).contains n | none => false))

/-- Some lane of the link is ACTIVE. -/
def Eng.linkActive (e : Eng) (l : Nat) : Bool := !(e.lanesOf l [3]).isEmpty

/-- Some lane of the link is ACTIVE or COURTESY. -/
def Eng.linkUp (e : Eng) (l : Nat) : Bool := !(e.lanesOf l [3, 4]).isEmpty

/-- The link that joins `me` to a neighbouring chip. -/
def linkTo (me c : Nat) : Option Nat := linkRange.find? (fun l => decide (linkPeer me l = c))

/-- The chips passed from sled `s` along ring `k` to sled `t`, upward or downward, `t` included. -/
def ringWalk (s t k : Nat) (up : Bool) (fuel : Nat) : List Nat :=
  match fuel with
  | 0 => []
  | f + 1 =>
    if s = t then []
    else
      let n := if up then (s + 1) % 8 else (s + 7) % 8
      (8 * n + k) :: ringWalk n t k up f

/-- The routes of R537 from one chip to another, as the chips passed, in the order in which they are tried. -/
def routes (me dst : Nat) (up : Bool) : List (List Nat) :=
  let s := me / 8
  let k := me % 8
  let t := dst / 8
  let j := dst % 8
  if s = t then [[dst]]
  else
    let one := fun (u : Bool) => ringWalk s t k u 8 ++ (if j = k then [] else [dst])
    let two := fun (u : Bool) => (if j = k then [] else [8 * s + j]) ++ ringWalk s t j u 8
    [one up, two up, one (!up), two (!up)]

/-- Whether the ring direction of a frame that is not an instance's is upward: the shorter one, up on a tie (R537). -/
def shortUp (me dst : Nat) : Bool := decide ((dst / 8 + 8 - me / 8) % 8 ≤ 4)

/-- The sleds of an instance's path (R300): the start and length of the shortest run that holds every sled of the chips. -/
def pathOf (chips : List Nat) : Nat × Nat :=
  let sleds := (List.range 8).filter (fun s => chips.any (fun c => decide (c / 8 = s)))
  let len := fun (a : Nat) => sleds.foldl (fun m s => max m ((s + 8 - a) % 8)) 0
  match leastBy len sleds with
  | some a => (a, len a + 1)
  | none => (0, 0)

/-- Whether a sled lies on a path. -/
def onPath (p : Nat × Nat) (s : Nat) : Bool := decide ((s + 8 - p.1) % 8 < p.2)

/-- Ring direction of an instance's frames from `me` to `dst`: along the path. -/
def pathUp (p : Nat × Nat) (me dst : Nat) : Bool :=
  decide ((me / 8 + 8 - p.1) % 8 ≤ (dst / 8 + 8 - p.1) % 8)

/-- A placement is wrapped when its path holds a sled without a chip of it (R300). -/
def wrapped (chips : List Nat) : Bool :=
  let p := pathOf chips
  (List.range 8).any (fun s => onPath p s && !(chips.any (fun c => decide (c / 8 = s))))

/-- The first link of the first usable route: its own link is ACTIVE and no chip passed is lost. -/
def Eng.nextLink (e : Eng) (dst : Nat) (up : Bool) : Option Nat :=
  let ok := (routes e.self dst up).filterMap (fun r =>
    match r with
    | [] => none
    | c :: _ =>
      match linkTo e.self c with
      | some l => if e.linkActive l && !(r.any (fun x => e.raf.lost.contains x)) then some l else none
      | none => none)
  ok.head?

/-- Credit class of a frame type: 0 none, 1 S, 2 B (R534). -/
def frameClass (t : Nat) : Nat :=
  if t = 5 ∨ t = 6 ∨ t = 7 ∨ t = 0x10 ∨ t = 0x11 ∨ t = 0x12 ∨ t = 0x13 ∨ t = 0x21 ∨ t = 0x29 ∨ t = 0x2A then 1
  else if t = 0x18 ∨ t = 0x20 ∨ t = 0x28 then 2
  else 0

/-- Frames that are charged to the bucket and never wait for it (R461). -/
def frameUrgent (t : Nat) : Bool := decide (t = 0x10 ∨ t = 0x11 ∨ t = 0x12)

/-- Bytes of a frame on the wire (R533). -/
def Frame.bytes (f : Frame) : Nat := 20 + f.len

/-- Whether a link has a credit for a frame (R536). -/
def Link.hasCredit (k : Link) (f : Frame) : Bool :=
  if frameClass f.typ = 1 then decide (k.sSent < k.sDone + 48)
  else if frameClass f.typ = 2 then decide (0 < tgetD k.bHeld f.inst 0)
  else true

/-- Reserved credit of a partition on a link. -/
def Eng.resv (e : Eng) (p l : Nat) : Nat := tgetD (e.part p).credits l 0

/-- The first frame that R465 selects on a link, with its order. -/
def Eng.linkPick (e : Eng) (l : Nat) : Option (Frame × Nat) :=
  let k := e.link l
  let w := k.waiting.filter (fun f => k.hasCredit f)
  match w.find? (fun f => !f.pidV) with
  | some f => some (f, 1)
  | none =>
    let rr := ((List.range 64).map (fun i => (k.rrPid + 1 + i) % 64)).find? (fun p =>
      decide (0 < e.resv p l) && w.any (fun f => decide (f.pid = p)))
    match rr with
    | some p => (w.find? (fun f => decide (f.pid = p))).map (fun f => (f, 2))
    | none =>
      let ok := w.filter (fun f => frameUrgent f.typ || e.regOpen f.pid 0 0 f.bytes)
      (leastBy (fun (f : Frame) => (e.part f.pid).pass * 64 + f.pid) ok).map (fun f => (f, 3))

/-- A list without its first element equal to `x`. -/
def dropFirst {α : Type} [DecidableEq α] (x : α) (l : List α) : List α :=
  match l with
  | [] => []
  | y :: r => if x = y then r else y :: dropFirst x r

/-- Send one frame on a link now (R465, R535, R536). -/
def Eng.linkSend (e : Eng) (l : Nat) (f : Frame) (order : Nat) : Eng :=
  let k := e.link l
  let c := frameClass f.typ
  let g := if c = 0 then f else { f with seq := k.sendSeq }
  let k' := { k with
    waiting := dropFirst f k.waiting
    sendSeq := if c = 0 then k.sendSeq else (k.sendSeq + 1) % 65536
    unacked := if c = 0 then k.unacked else k.unacked ++ [g]
    sSent := if c = 1 then k.sSent + 1 else k.sSent
    bHeld := if c = 2 then tsetD k.bHeld f.inst (tgetD k.bHeld f.inst 0 - 1) 0 else k.bHeld
    rrPid := if order = 2 then f.pid else k.rrPid }
  let e := (e.setLink l k').emit (.frame l g)
  let e := e.count 0x1014 g.bytes (if f.pidV then some f.pid else none)
  if f.pidV then
    let e := e.regCharge f.pid 0 0 g.bytes
    if order = 2 then e.modPart f.pid (fun p => { p with credits := tsetD p.credits l (e.resv f.pid l - g.bytes) 0 }) else e
  else e

/-- Send every waiting frame of a link that may go now. -/
def linkFlush (e : Eng) (l : Nat) (fuel : List Frame) : Eng :=
  match fuel with
  | [] => e
  | _ :: r =>
    match e.linkPick l with
    | none => e
    | some (f, o) => linkFlush (e.linkSend l f o) l r

/-- Send what may go on a link. -/
def Eng.flush (e : Eng) (l : Nat) : Eng :=
  if e.fb F.RAF_CTL_EN && e.linkActive l then linkFlush e l (e.link l).waiting else e

/-- Queue a frame on a link, with a CREDIT_REQ for the first B frame of an instance that has no hold (R536), and send. -/
def Eng.linkPut (e : Eng) (l : Nat) (f : Frame) : Eng :=
  let k := e.link l
  let ask := decide (frameClass f.typ = 2) && !k.bAsked.contains f.inst
  let req : List Frame := if ask then [{ typ := 5, src := e.self, dst := linkPeer e.self l, arg := f.inst + 16 * 8 }] else []
  (e.setLink l { k with
    waiting := k.waiting ++ req ++ [f], bAsked := if ask then sinsert k.bAsked f.inst else k.bAsked }).flush l

/-- Give an instance's hold on a link back in full (R536): its unused credits now, those in flight as the receiver consumes their frames. -/
def Eng.holdReturn (e : Eng) (l i : Nat) : Eng :=
  let k := e.link l
  if k.bAsked.contains i then
    (e.setLink l { k with bHeld := tdel k.bHeld i, bAsked := k.bAsked.filter (fun x => decide (x ≠ i)) }).linkPut l
      { typ := 6, src := e.self, dst := linkPeer e.self l, inst := i, arg := i + 16 * (tgetD k.bHeld i 0 % 16) }
  else e

/-- PEER_LOST for a chip (R537, R554). -/
def Eng.peerLostEvent (e : Eng) (c : Nat) : Eng := e.raiseE 0x00A5 13 c

/-- Send a frame from this engine toward its destination; with no route it is discarded (R537). -/
def Eng.sendVia (e : Eng) (f : Frame) (up : Bool) : Eng :=
  if e.ras.quiesced || decide (f.dst = e.self) then e
  else
    match e.nextLink f.dst up with
    | some l => e.linkPut l f
    | none => e.peerLostEvent f.dst

/-- Send a frame that is not an instance's. -/
def Eng.send (e : Eng) (f : Frame) : Eng :=
  let f := { f with src := e.self }
  e.sendVia f (shortUp e.self f.dst)

/-- Send a frame of an instance, charged to its owner but for FREEZE, which R460 does not list (R460, R537); it carries the lead's index
(R219). -/
def Eng.sendInst (e : Eng) (i : Nat) (f : Frame) : Eng :=
  let x := e.inst i
  let own := decide (f.typ ≠ 0x13)
  let f := { f with src := e.self, pid := if own then x.owner else 0, pidV := own, inst := if x.lead then i else x.leadInst }
  e.sendVia f (pathUp (pathOf x.chips) e.self f.dst)

/-- Send PEER_LOST on every ACTIVE link but `except` (R553). -/
def Eng.flood (e : Eng) (src c t : Nat) (except : Option Nat) : Eng :=
  linkRange.foldl (fun e l =>
    if except = some l || !e.linkActive l then e
    else e.linkPut l { typ := 7, src, dst := linkPeer e.self l, arg := c + 256 * (t % 2 ^ 56) }) e

/-- The other chips of an instance. -/
def Eng.others (e : Eng) (i : Nat) : List Nat := (e.inst i).chips.filter (fun c => decide (c ≠ e.self))

/-- A record of R544. -/
structure ShvRec where
  kind : Nat
  sib : Nat := 0
  gen : Nat := 0
  rqid : Nat := 0
  a : Nat := 0
  b : Nat := 0
  hash : Nat := 0
  c : Nat := 0
deriving DecidableEq, Repr

/-- The words of a record of R544. -/
def ShvRec.words (r : ShvRec) : List Nat :=
  [r.kind + 16 * r.sib + 2 ^ 16 * r.gen + 2 ^ 32 * r.rqid, r.a % two32 + two32 * (r.b % two32), r.hash, r.c]

/-- The lead tells every follower of an instance one Shelver event (R290). -/
def Eng.shvTell (e : Eng) (i : Nat) (r : ShvRec) : Eng :=
  if (e.inst i).lead then
    (e.others i).foldl (fun e c => e.sendInst i { typ := 0x18, dst := c, len := 32, words := r.words }) e
  else e

end Sys2Proof.Machine
end

