-- ==== Sys2Proof/Machine/BinOps.lean ====
section
/-!
DEFINITION. Bins' operations (spec/12_bins_task_dispatch.md R417 to R441): ready lists, service, spilling, purges, freezing and the
decision trace.
-/
namespace Sys2Proof.Machine

/-- Bins is in service: EN is set and the unit is not halted. -/
def Eng.binServes (e : Eng) : Bool := e.fb F.BIN_CTL_EN && !e.unitHalted 11

/-- Bins serves: it is in service and its domain is ON (R566). -/
def Eng.binOn (e : Eng) : Bool := e.binServes && e.domOn 87

/-- An entry with every field 0. -/
def BinEnt.zero : BinEnt :=
  { level := 0, inst := 0, epoch := 0, step := 0, pid := 0, aff := 0, affV := false, opid := 0, seq := 0, arg := 0, arg2 := 0, enq := 0 }

/-- Write a record of the decision trace (R441). -/
def Eng.binTrace (e : Eng) (kind : Nat) (core : Option Nat) (wait : Nat) (b : BinEnt) : Eng :=
  if e.fb F.BIN_TRACE_CFG_EN && bitOf (e.fv F.BIN_TRACE_CFG_KINDS) kind then
    let h := e.fv F.BIN_TRACE_HEAD_HEAD
    let n := 2 ^ max 7 (min 24 (e.fv F.BIN_TRACE_CFG_LOG2_RECORDS))
    (e.emit (.binTrace (h % n) e.now kind (core.getD 0) core.isSome (satN 16 wait) b)).poke F.BIN_TRACE_HEAD_HEAD ((h + 1) % two32)
  else e

/-- Ticks since the acceptance of an entry, modulo 2^32. -/
def Eng.binAge (e : Eng) (b : BinEnt) : Nat := (e.now + two32 - b.enq) % two32

/-- The hint of an entry has expired (R421). -/
def Eng.hintOver (e : Eng) (b : BinEnt) : Bool := decide (e.av F.BIN_AFF_WAIT_WAIT ≤ e.binAge b)

/-- The partitions that a cluster's cores serve. -/
def Eng.clusterMask (e : Eng) (c : Nat) : Nat := e.av F.BIN_CLUSTER_PART_LO_PART c + two32 * e.av F.BIN_CLUSTER_PART_HI_PART c

/-- A core may take an entry (R421). A hint that has expired stays expired: `released` is set when it does (R424 item 5). -/
def Eng.mayTake (e : Eng) (core : Nat) (b : BinEnt) : Bool :=
  bitOf (e.clusterMask (core / 8)) b.pid && (!b.affV || decide (b.aff = core / 8) || b.released)

/-- Entries of an instance and epoch. -/
def Eng.binCount (e : Eng) (i epoch : Nat) : Nat := (e.bin.entries.filter (fun b => decide (b.inst = i ∧ b.epoch = epoch))).length

/-- Report the entries of an instance and epoch to the array (R437). -/
def Eng.binReport (e : Eng) (i epoch : Nat) : Eng := e.tell (.binEntries i epoch (e.binCount i epoch))

/-- Report the counts of the instances and epochs of entries that have left Bins (R437). -/
def Eng.binReports (e : Eng) (gone : List BinEnt) : Eng :=
  (gone.map (fun b => (b.inst, b.epoch))).eraseDups.foldl (fun e x => e.binReport x.1 x.2) e

/-- Entries in a bank. -/
def Eng.bankUse (e : Eng) (k : Nat) : Nat := (e.bin.entries.filter (fun b => decide (b.bank = some k))).length

/-- The lowest bank in service with a free place. -/
def Eng.bankFree (e : Eng) : Option Nat :=
  (List.range 8).find? (fun k => !e.bin.retired.contains k && decide (e.bankUse k < 1024))

/-- Free bank places. -/
def Eng.bankPlaces (e : Eng) : Nat := sumBy (fun k => if e.bin.retired.contains k then 0 else 1024 - e.bankUse k) (List.range 8)

/-- Entries of a level in Store. -/
def Eng.spilled (e : Eng) (l : Nat) : Nat := (e.bin.entries.filter (fun b => decide (b.level = l) && b.bank.isNone)).length

/-- Entries that a spill ring holds (R432). -/
def Eng.spillDepth (e : Eng) : Nat := 2 ^ max 10 (min 20 (e.fv F.BIN_SPILL_DEPTH_LOG2_DEPTH))

/-- An entry put at the end of its level. -/
def binInsert (b : BinEnt) (l : List BinEnt) : List BinEnt := oinsert (fun (x y : BinEnt) => decide (x.level ≤ y.level)) b l

/-- An entry put at the head of its level. -/
def binHead (b : BinEnt) (l : List BinEnt) : List BinEnt :=
  l.filter (fun x => decide (x.level < b.level)) ++ b :: l.filter (fun x => decide (b.level ≤ x.level))

/-- Replace the entries. -/
def Eng.setBins (e : Eng) (l : List BinEnt) : Eng := { e with bin := { e.bin with entries := l } }

/-- Answer a core. -/
def Eng.coreAnswer (e : Eng) (core code : Nat) (b : Option BinEnt) : Eng := e.emit (.coreAnswer core code b)

/-- Give an entry to a waiting core (R426). -/
def Eng.giveEntry (e : Eng) (core : Nat) (b : BinEnt) : Eng :=
  let e := e.setBins (dropFirst b e.bin.entries)
  let e := { e with bin := { e.bin with held := tput e.bin.held core (b, e.now), waiting := e.bin.waiting.filter (fun w => decide (w.core ≠ core)) } }
  let e := (e.bump F.BIN_TAKES_COUNT).count 0x1013 1 (some b.pid) (some b.inst)
  ((e.binTrace 3 (some core) (e.binAge b) b).coreAnswer core 0 (some b)).binReport b.inst b.epoch

/-- Act on the hints that have expired (R424 item 5). -/
def Eng.binHints (e : Eng) : Eng :=
  let hit := fun (b : BinEnt) => b.affV && !b.released && e.hintOver b
  let l := e.bin.entries
  let e := (l.filter hit).foldl (fun e b => e.binTrace 6 none 0 b) e
  e.setBins (l.map (fun b => if hit b then { b with released := true } else b))

/-- Serve waiting TAKEs in the order of their arrival (R423). -/
def binServe (e : Eng) (ws : List TakeW) : Eng :=
  match ws with
  | [] => e
  | w :: r =>
    match e.bin.entries.find? (e.mayTake w.core) with
    | some b => binServe (e.giveEntry w.core b) r
    | none => binServe e r

/-- Steps 5 and 6 of R424: they follow every push, purge, DONE and TAKE of the tick. -/
def Eng.binRun (e : Eng) : Eng :=
  if e.binOn then let e := e.binHints; binServe e e.bin.waiting else e

/-- BIN_CTL.EN has been cleared: the port of every core whose TAKE waits answers NO_DISPATCHER at once (R429). -/
def Eng.binStop (e : Eng) : Eng :=
  let w := e.bin.waiting
  w.foldl (fun e x => e.coreAnswer x.core 2 none) { e with bin := { e.bin with waiting := [] } }

/-- An entry is appended to its level's spill ring (R432). -/
def Eng.spillNext (e : Eng) (l : Nat) : Eng :=
  { e with bin := { e.bin with tails := tsetD e.bin.tails l ((tgetD e.bin.tails l 0 + 1) % two32) 0 } }

/-- Place of the `k`-th entry in Store of a level in its spill ring: they take the places before the next append's, in order
(assumption log 66). -/
def Eng.spillPlace (e : Eng) (l k : Nat) : Nat := (tgetD e.bin.tails l 0 + two32 + k - e.spilled l) % e.spillDepth

/-- Store address of the `k`-th entry in Store of a level (R432). -/
def Eng.spillAddr (e : Eng) (l k : Nat) : Nat := e.pairv 0xB008 + (l * e.spillDepth + e.spillPlace l k) * 32

/-- Close the entry that a core holds, if any (R431). -/
def Eng.binClose (e : Eng) (core : Nat) : Eng :=
  match tget e.bin.held core with
  | none => e
  | some h =>
    let dt := e.now - h.2
    let e := { e with bin := { e.bin with held := tdel e.bin.held core } }
    let e := if e.fb F.KPR_CTL_EN then e.modPart h.1.pid (fun k => { k with coreNs := k.coreNs + dt }) else e
    e.binTrace 4 (some core) dt h.1

/-- Remove an instance's entries of a step (R436). -/
def Eng.binPurge (e : Eng) (i step : Nat) : Eng :=
  let hit := fun (b : BinEnt) => decide (b.inst = i ∧ b.step = step % 65536)
  let gone := e.bin.entries.filter hit
  if gone.isEmpty then e
  else
    let e := e.setBins (e.bin.entries.filter (fun b => !hit b))
    (gone.foldl (fun e b => (e.bump F.BIN_PURGED_COUNT).binTrace 5 none 0 b) e).binReports gone

/-- Take a partition's entries of an instance out of the lists, level by level in SEQ order (R438). -/
def Eng.binFreeze (e : Eng) (i : Nat) : List BinEnt × Eng :=
  let hit := fun (b : BinEnt) => decide (b.inst = i)
  (e.bin.entries.filter hit, e.setBins (e.bin.entries.filter (fun b => !hit b)))

/-- Put frozen entries back at the heads of their levels in the same order (R438): last first, each with the SEQ below the first in
use. -/
def Eng.binThaw (e : Eng) (i : Nat) (l : List BinEnt) : Eng :=
  l.reverse.foldl (fun e b =>
    let first := e.bin.entries.find? (fun x => decide (x.level = b.level))
    let seq := match first with
      | some x => (x.seq + two32 - 1) % two32
      | none => (tgetD e.bin.seqs b.level 0 + two32 - 1) % two32
    let b : BinEnt := { b with inst := i, seq, enq := e.now % two32, released := false, bank := e.bankFree }
    e.setBins (binHead b e.bin.entries)) e

/-- Move one entry from Store into a bank (R433). -/
def Eng.refillOne (e : Eng) : Option Eng :=
  if e.bankPlaces < e.av F.BIN_REFILL_LOW then none
  else
    match e.bin.entries.find? (fun b => b.bank.isNone), e.bankFree with
    | some b, some k =>
      let e := e.setBins (e.bin.entries.map (fun x => if x = b then { x with bank := some k } else x))
      some ((e.bump F.BIN_REFILLS_COUNT).binTrace 2 none 0 b)
    | _, _ => none

/-- Refill while R433 lets it. -/
def binRefill (e : Eng) (fuel : Nat) : Eng :=
  match fuel with
  | 0 => e
  | k + 1 =>
    match e.refillOne with
    | some e => binRefill e k
    | none => e

/-- A bank is retired (R439): the entries that can be read move to another bank or to Store, and `lost` are lost (R440). Answers the
lost entries. -/
def Eng.retireBank (e : Eng) (k : Nat) (lost : List Nat) : List BinEnt × Eng :=
  let inBank := e.bin.entries.filter (fun b => decide (b.bank = some k))
  let gone := ((List.range inBank.length).zip inBank).filterMap (fun p => if lost.contains p.1 then some p.2 else none)
  let e := { e with bin := { e.bin with retired := sinsert e.bin.retired k } }
  let e := e.setBins (e.bin.entries.filter (fun b => !gone.contains b))
  let e := (inBank.filter (fun b => !gone.contains b)).foldl (fun e b =>
    let k := e.bankFree
    let e := e.setBins (e.bin.entries.map (fun x => if x = b then { x with bank := k } else x))
    if k.isNone then e.spillNext b.level else e) e
  let e := e.raiseE 0x0080 11 k
  let e := gone.foldl (fun e b =>
    (e.bump F.BIN_LOST_COUNT).raiseP 0x0081 11 b.pid (b.opid + two32 * b.step)) e
  (gone, e.binReports gone)

end Sys2Proof.Machine
end

