-- ==== Sys2Proof/Machine/Operands.lean ====
section
/-!
DEFINITION. The operand forms of the engine: descriptors as fetched and every record layout that spec/ gives in bytes, as
readers and writers over one little-endian number.
-/
namespace Sys2Proof.Machine

/-- A number built from fields: byte offset, high bit, low bit, value. -/
def putFields (l : List (Nat × Nat × Nat × Nat)) : Nat :=
  sumBy (fun (f : Nat × Nat × Nat × Nat) => f.2.2.2 % 2 ^ (f.2.1 + 1 - f.2.2.1) * 2 ^ (8 * f.1 + f.2.2.1)) l

/-! ### Descriptors (spec/03_hatch_rings_and_doorbells.md R97, R100, R101) -/

/-- The SUBMIT descriptor (R97). -/
structure SubDesc where
  opcode : Nat
  hold : Bool
  grammarEn : Bool
  specEn : Bool
  stopEn : Bool
  mid : Nat
  nsib : Nat
  nlogprob : Nat
  userTag : Nat
  promptAddr : Nat
  promptLen : Nat
  maxNew : Nat
  deadlineFirst : Nat
  deadlineLast : Nat
  seed : Nat
  temperature : Nat
  topP : Nat
  minP : Nat
  topK : Nat
  repPenalty : Nat
  presence : Nat
  freq : Nat
  window : Nat
  biasAddr : Nat
  biasCount : Nat
  grammarId : Nat
  maxDraft : Nat
  tree : Bool
  stopToken : Nat
  logprobAddr : Nat
deriving DecidableEq, Repr

/-- Read a SUBMIT descriptor. -/
def subOf (d : DescBits) : SubDesc :=
  { opcode := recField d 0 7 0
    hold := recBit d 1 0
    grammarEn := recBit d 1 1
    specEn := recBit d 1 2
    stopEn := recBit d 1 3
    mid := recField d 2 11 0
    nsib := recField d 4 5 0
    nlogprob := recField d 5 7 0
    userTag := recField d 8 63 0
    promptAddr := recField d 0x10 63 0
    promptLen := recField d 0x18 31 0
    maxNew := recField d 0x1C 31 0
    deadlineFirst := recField d 0x20 63 0
    deadlineLast := recField d 0x28 63 0
    seed := recField d 0x30 127 0
    temperature := recField d 0x40 31 0
    topP := recField d 0x44 31 0
    minP := recField d 0x48 31 0
    topK := recField d 0x4C 20 0
    repPenalty := recField d 0x50 31 0
    presence := recField d 0x54 31 0
    freq := recField d 0x58 31 0
    window := recField d 0x5C 31 0
    biasAddr := recField d 0x60 63 0
    biasCount := recField d 0x68 12 0
    grammarId := recField d 0x6C 15 0
    maxDraft := recField d 0x70 6 0
    tree := recBit d 0x70 7
    stopToken := recField d 0x74 19 0
    logprobAddr := recField d 0x78 63 0 }

/-- Reserved bits of a SUBMIT are 0. -/
def subReservedOk (d : DescBits) : Bool :=
  decide (recField d 1 7 4 = 0 ∧ recField d 2 15 12 = 0 ∧ recField d 4 7 6 = 0 ∧ recField d 6 15 0 = 0
    ∧ recField d 0x4C 31 21 = 0 ∧ recField d 0x68 31 13 = 0 ∧ recField d 0x6E 15 0 = 0 ∧ recField d 0x71 23 0 = 0
    ∧ recField d 0x74 31 20 = 0)

/-- The parameter block (R134): the descriptor with PROMPT_ADDR and BIAS_ADDR rewritten. -/
def paramBlock (d : DescBits) (prompt bias : Nat) : DescBits :=
  let z := d.toNat - recField d 0x10 63 0 * 2 ^ (8 * 0x10) - recField d 0x60 63 0 * 2 ^ (8 * 0x60)
  BitVec.ofNat 1024 (z + prompt % 2 ^ 64 * 2 ^ (8 * 0x10) + bias % 2 ^ 64 * 2 ^ (8 * 0x60))

/-- The order descriptor (R100). -/
structure OrdDesc where
  opcode : Nat
  setDeadline : Bool
  setMaxNew : Bool
  gen : Nat
  userTag : Nat
  rqid : Nat
  deadlineLast : Nat
  maxNew : Nat
deriving DecidableEq, Repr

/-- Read an order descriptor. -/
def ordOf (d : DescBits) : OrdDesc :=
  { opcode := recField d 0 7 0
    setDeadline := recBit d 1 0
    setMaxNew := recBit d 1 1
    gen := recField d 4 15 0
    userTag := recField d 8 63 0
    rqid := recField d 0x10 31 0
    deadlineLast := recField d 0x18 63 0
    maxNew := recField d 0x20 31 0 }

/-- An order's fields lie in their ranges and its reserved bits are 0 (R99, R100). An order other than MODIFY ignores MODIFY's
flags and values. -/
def ordOk (d : DescBits) : Bool :=
  let o := ordOf d
  decide (recField d 1 7 2 = 0 ∧ recField d 2 15 0 = 0 ∧ recField d 6 15 0 = 0 ∧ recField d 0x14 31 0 = 0
    ∧ recField d 0x24 31 0 = 0 ∧ recField d 0x28 703 0 = 0)
    && !(decide (o.opcode = 4) && o.setMaxNew && decide (o.maxNew = 0))

/-- The LOAD_MODEL and UNLOAD_MODEL descriptor (R101). -/
structure LoadDesc where
  opcode : Nat
  pinned : Bool
  allowStream : Bool
  mid : Nat
  nchip : Nat
  userTag : Nat
  placement : Nat
  kvReserve : Nat
deriving DecidableEq, Repr

/-- Read a LOAD_MODEL descriptor. -/
def loadOf (d : DescBits) : LoadDesc :=
  { opcode := recField d 0 7 0
    pinned := recBit d 1 0
    allowStream := recBit d 1 1
    mid := recField d 2 11 0
    nchip := recField d 4 6 0
    userTag := recField d 8 63 0
    placement := recField d 0x10 63 0
    kvReserve := recField d 0x18 63 0 }

/-- The set bits of a number below 64. -/
def bitList (v : Nat) : List Nat := (List.range 64).filter (fun i => bitOf v i)

/-- A LOAD_MODEL's fields lie in their ranges and its reserved bits are 0. -/
def loadOk (d : DescBits) : Bool :=
  let o := loadOf d
  decide (recField d 1 7 2 = 0 ∧ recField d 2 15 12 = 0 ∧ recField d 4 31 7 = 0 ∧ recField d 0x20 63 0 = 0
    ∧ recField d 0x28 703 0 = 0)
    && decide (1 ≤ o.nchip ∧ o.nchip ≤ 64)
    && (!o.pinned || decide ((bitList o.placement).length = o.nchip))

/-- An UNLOAD_MODEL uses OPCODE, MID and USER_TAG alone (R101). -/
def unloadOk (d : DescBits) : Bool :=
  decide (recField d 1 7 0 = 0 ∧ recField d 2 15 12 = 0 ∧ recField d 4 31 0 = 0 ∧ recField d 0x10 895 0 = 0)

/-- A NOP uses OPCODE and USER_TAG alone (assumption log 21). -/
def nopOk (d : DescBits) : Bool := decide (recField d 1 55 0 = 0 ∧ recField d 0x10 895 0 = 0)

/-! ### The Ledger record (spec/04_ledger_and_admission.md R133) -/

/-- Bytes of a Ledger record; the durable fields alone when `durable` is set. -/
def LRec.bits (r : LRec) (durable : Bool) : Nat :=
  let k := fun (v : Nat) => if durable then 0 else v
  putFields
    [(0, 3, 0, r.state), (0, 4, 4, b2n r.kind), (0, 5, 5, k (b2n r.hold)), (1, 5, 0, r.sib), (2, 15, 0, r.gen),
     (4, 31, 0, r.rqid), (8, 11, 0, r.mid), (8, 15, 12, r.inst), (0xA, 7, 0, r.ring), (0xB, 5, 0, r.nsib)]
  + putFields
    [(0xC, 23, 0, r.nextSib), (0x10, 63, 0, r.userTag), (0x18, 63, 0, r.deadlineFirst), (0x20, 63, 0, r.deadlineLast),
     (0x28, 31, 0, r.promptLen), (0x2C, 31, 0, r.pos), (0x30, 31, 0, r.maxNew), (0x34, 31, 0, r.newCount),
     (0x38, 19, 0, r.lastToken), (0x3C, 3, 0, r.prior)]
  + putFields
    [(0x3C, 10, 4, k r.draftN), (0x3C, 27, 11, k r.draft), (0x3C, 28, 28, k (b2n r.draftV)), (0x3C, 29, 29, k (b2n r.dsetLast)),
     (0x40, 63, 0, r.submitStamp), (0x48, 63, 0, r.admitStamp), (0x50, 63, 0, r.firstStamp), (0x58, 25, 0, r.crateRoot),
     (0x58, 26, 26, b2n r.rootV), (0x5C, 31, 0, r.ctxCharge)]
  + putFields
    [(0x60, 63, 0, r.sieve), (0x68, 47, 0, r.lastStep), (0x6E, 6, 0, k r.copyN), (0x70, 63, 0, r.hist),
     (0x78, 23, 0, k r.qnext), (0x78, 47, 24, r.drawSlot)]

/-- Read a Ledger record. -/
def recOf (d : BitVec 1024) : LRec :=
  { state := recField d 0 3 0
    kind := recBit d 0 4
    hold := recBit d 0 5
    sib := recField d 1 5 0
    gen := recField d 2 15 0
    rqid := recField d 4 31 0
    mid := recField d 8 11 0
    inst := recField d 8 15 12
    ring := recField d 0xA 7 0
    nsib := recField d 0xB 5 0
    nextSib := recField d 0xC 23 0
    userTag := recField d 0x10 63 0
    deadlineFirst := recField d 0x18 63 0
    deadlineLast := recField d 0x20 63 0
    promptLen := recField d 0x28 31 0
    pos := recField d 0x2C 31 0
    maxNew := recField d 0x30 31 0
    newCount := recField d 0x34 31 0
    lastToken := recField d 0x38 19 0
    prior := recField d 0x3C 3 0
    draftN := recField d 0x3C 10 4
    draft := recField d 0x3C 27 11
    draftV := recBit d 0x3C 28
    dsetLast := recBit d 0x3C 29
    submitStamp := recField d 0x40 63 0
    admitStamp := recField d 0x48 63 0
    firstStamp := recField d 0x50 63 0
    crateRoot := recField d 0x58 25 0
    rootV := recBit d 0x58 26
    ctxCharge := recField d 0x5C 31 0
    sieve := recField d 0x60 63 0
    lastStep := recField d 0x68 47 0
    copyN := recField d 0x6E 6 0
    hist := recField d 0x70 63 0
    qnext := recField d 0x78 23 0
    drawSlot := recField d 0x78 47 24 }

/-! ### Records written to rings -/

/-- A completion record (R102) with its PHASE. -/
def CmpRec.bits (r : CmpRec) (phase : Nat) : Nat :=
  putFields
    [(0, 7, 0, r.status), (1, 0, 0, phase), (1, 1, 1, b2n r.final), (1, 2, 2, b2n r.cont), (1, 3, 3, b2n r.order),
     (1, 4, 4, b2n r.logprob), (2, 3, 0, r.ntok), (3, 5, 0, r.sib), (4, 15, 0, r.gen), (6, 7, 0, r.ring)]
  + putFields
    [(8, 31, 0, r.rqid), (0x10, 63, 0, r.tag), (0x18, 63, 0, r.stamp), (0x20, 47, 0, r.step),
     (0x28, 191, 0, sumBy (fun (p : Nat × Nat) => p.2 % two32 * 2 ^ (32 * p.1)) ((List.range 6).zip r.toks))]

/-- An event record (R109) with its PHASE and LOST. -/
def EvtRec.bits (r : EvtRec) (phase : Nat) (lost : Bool) : Nat :=
  putFields
    [(0, 15, 0, r.code), (2, 0, 0, phase), (2, 1, 1, b2n lost), (2, 7, 2, r.pid), (3, 7, 0, r.unit), (4, 11, 0, r.fault),
     (8, 63, 0, r.stamp), (0x10, 31, 0, r.rqid), (0x14, 15, 0, r.gen), (0x18, 63, 0, r.arg)]

/-- A decision trace record (R604). -/
def TraceRec.bits (r : TraceRec) : Nat :=
  putFields
    [(0, 63, 0, r.stamp), (8, 3, 0, r.kind), (8, 7, 4, r.inst), (9, 5, 0, r.pid), (9, 6, 6, b2n r.pidV),
     (0xA, 7, 0, r.status), (0xB, 5, 0, r.sib), (0xC, 31, 0, r.rqid), (0x10, 47, 0, r.step), (0x16, 15, 0, r.gen),
     (0x18, 63, 0, r.arg)]

/-- A fault record (R576). -/
def FaultRec.bits (r : FaultRec) : Nat :=
  putFields
    [(0, 11, 0, r.code), (0, 13, 12, r.cls), (0, 14, 14, b2n r.escalated), (0, 15, 15, b2n r.handling), (2, 4, 0, r.unit),
     (3, 6, 0, r.part), (4, 31, 0, r.rqid), (8, 63, 0, r.stamp), (0x10, 15, 0, r.gen), (0x12, 5, 0, r.pid),
     (0x12, 6, 6, b2n r.pidV), (0x13, 3, 0, r.inst), (0x14, 31, 0, r.syndrome), (0x18, 63, 0, r.addr)]

/-! ### Packets, tags and control (spec/05_batch_composition.md R209 to R215) -/

/-- Sum of NTOK over slots. -/
def slotTokens (l : List Slot) : Nat := sumBy (fun (s : Slot) => s.ntok) l

/-- A packet header (R209). -/
def Packet.header (p : Packet) : Nat :=
  putFields
    [(0, 7, 0, 1), (1, 3, 0, p.epoch), (1, 7, 4, p.inst), (2, 11, 0, p.mid), (2, 15, 12, p.cfg), (4, 5, 0, p.owner),
     (4, 9, 6, p.leadInst), (8, 47, 0, p.step), (0x10, 63, 0, p.edge), (0x18, 63, 0, p.emit)]
  + putFields
    [(0x20, 31, 0, p.est), (0x24, 14, 0, p.slots.length), (0x28, 18, 0, slotTokens p.slots), (0x2C, 31, 0, p.ents.length)]

/-- A slot entry (R210). -/
def Slot.bits (s : Slot) : Nat :=
  putFields
    [(0, 1, 0, s.kind), (0, 2, 2, b2n s.last), (0, 3, 3, b2n s.copy), (0, 4, 4, b2n s.dset), (1, 6, 0, s.ndraft),
     (2, 15, 0, s.gen), (4, 31, 0, s.rqid), (8, 5, 0, s.sib), (8, 22, 6, s.draft), (0xC, 31, 0, s.pos)]
  + putFields
    [(0x10, 18, 0, s.ntok), (0x10, 31, 19, s.ncrate), (0x14, 25, 0, s.root), (0x14, 26, 26, b2n s.rootV),
     (0x18, 39, 0, s.src), (0x18, 63, 40, s.drawSlot)]

/-- Read a slot entry of a broadcast. -/
def slotOf (w : Nat) : Slot :=
  let d := BitVec.ofNat 256 w
  { kind := recField d 0 1 0
    last := recBit d 0 2
    copy := recBit d 0 3
    dset := recBit d 0 4
    ndraft := recField d 1 6 0
    gen := recField d 2 15 0
    rqid := recField d 4 31 0
    sib := recField d 8 5 0
    draft := recField d 8 22 6
    pos := recField d 0xC 31 0
    ntok := recField d 0x10 18 0
    ncrate := recField d 0x10 31 19
    root := recField d 0x14 25 0
    rootV := recBit d 0x14 26
    src := recField d 0x18 39 0
    drawSlot := recField d 0x18 63 40
    bound := true }

/-- A crate-list entry (R212). -/
def CrateEnt.bits (c : CrateEnt) : Nat :=
  putFields [(0, 25, 0, c.crate), (0, 31, 26, c.lg), (0, 55, 32, c.block), (0, 57, 56, c.tier), (0, 59, 58, c.use)]

/-- A row tag (R214). -/
def rowTag (step slot row epoch inst : Nat) : Nat :=
  putFields [(0, 15, 0, step), (0, 29, 16, slot), (0, 36, 30, row), (0, 40, 37, epoch), (0, 44, 41, inst)]

/-- A row-control entry (R215). -/
def RowCtl.bits (c : RowCtl) : Nat :=
  putFields
    [(0, 63, 0, c.tag), (8, 31, 0, c.rqid), (0xC, 15, 0, c.gen), (0xE, 5, 0, c.sib), (0xF, 6, 0, c.rows),
     (0x10, 31, 0, c.drawStep), (0x14, 5, 0, c.ndraw), (0x15, 1, 0, c.kind), (0x15, 2, 2, b2n c.dset),
     (0x18, 16, 0, c.draft)]
  + putFields [(0x18, 40, 17, c.drawSlot)]

/-- A Bins entry (spec/12_bins_task_dispatch.md R417). -/
def BinEnt.bits (b : BinEnt) : Nat :=
  putFields
    [(0, 5, 0, b.level), (1, 3, 0, b.inst), (1, 7, 4, b.epoch), (2, 15, 0, b.step), (4, 5, 0, b.pid), (4, 9, 6, b.aff),
     (4, 10, 10, b2n b.affV), (8, 31, 0, b.opid), (0xC, 31, 0, b.seq), (0x10, 63, 0, b.arg)]
  + putFields [(0x18, 31, 0, b.arg2), (0x1C, 31, 0, b.enq)]

/-- Read a Bins entry. -/
def binEntOf (w : BitVec 256) : BinEnt :=
  { level := recField w 0 5 0, inst := recField w 1 3 0, epoch := recField w 1 7 4, step := recField w 2 15 0, pid := recField w 4 5 0,
    aff := recField w 4 9 6, affV := recBit w 4 10, opid := recField w 8 31 0, seq := recField w 0xC 31 0, arg := recField w 0x10 63 0,
    arg2 := recField w 0x18 31 0, enq := recField w 0x1C 31 0 }

/-! ### Frames (spec/16_rafter_link.md R533) -/

/-- Read a received frame. -/
def frameOf (f : RxFrame) : Frame :=
  { typ := recField f.hdr 0 7 0
    src := recField f.hdr 1 5 0
    dst := recField f.hdr 2 5 0
    pid := recField f.hdr 3 5 0
    pidV := recBit f.hdr 3 6
    len := recField f.hdr 4 11 0
    inst := recField f.hdr 4 15 12
    seq := recField f.hdr 6 15 0
    arg := recField f.hdr 8 63 0
    words := f.payload.map (fun w => w.toNat) }

/-- The header of a frame. -/
def Frame.header (f : Frame) : Nat :=
  putFields
    [(0, 7, 0, f.typ), (1, 5, 0, f.src), (2, 5, 0, f.dst), (3, 5, 0, f.pid), (3, 6, 6, b2n f.pidV), (4, 11, 0, f.len),
     (4, 15, 12, f.inst), (6, 15, 0, f.seq), (8, 63, 0, f.arg)]

/-- A payload of 64-bit words as bytes. -/
def wordBytes (l : List Nat) : List Nat := l.flatMap (fun w => leBytes 8 w)

/-- The CRC-32 of a header and `len` bytes of payload (R533). -/
def frameCrc (header len : Nat) (words : List Nat) : Nat := crc32 (leBytes 16 header ++ (wordBytes words).take len)

/-- The CRC-32 that a frame is sent with. -/
def Frame.crc (f : Frame) : Nat := frameCrc f.header f.len f.words

/-- The bytes of a frame on the wire: header, payload, CRC (R533). -/
def Frame.wire (f : Frame) : List Nat := leBytes 16 f.header ++ (wordBytes f.words).take f.len ++ leBytes 4 f.crc

/-- A received frame's CRC is the one of its header and payload. -/
def rxOk (m : RxFrame) : Bool :=
  decide (m.crc.toNat = frameCrc m.hdr.toNat (recField m.hdr 4 11 0) (m.payload.map (fun w => w.toNat)))

/-- A number cut into 64-bit words, `n` of them. -/
def toWords (n v : Nat) : List Nat :=
  match n with
  | 0 => []
  | k + 1 => v % 2 ^ 64 :: toWords k (v / 2 ^ 64)

/-- The number that 64-bit words spell. -/
def ofWords (l : List Nat) : Nat :=
  match l with
  | [] => 0
  | w :: r => w % 2 ^ 64 + 2 ^ 64 * ofWords r

end Sys2Proof.Machine
end

