-- ==== Sys2Proof/Machine/Bins.lean ====
section
/-!
DEFINITION. The meanings of Bins' commands (spec/12_bins_task_dispatch.md).
-/
namespace Sys2Proof.Machine

/-- The fields that the array writes in a push (R417). -/
def pushOf (w : BitVec 256) : BinEnt := { binEntOf w with pid := 0, seq := 0, enq := 0 }

/-- A push that R418 does not discard. -/
def Eng.pushOk (e : Eng) (w : BitVec 256) : Bool :=
  let b := pushOf w
  let x := e.inst b.inst
  decide (recField w 0 7 6 = 0 ∧ recField w 4 31 11 = 0) && x.active
    && (decide (b.epoch = x.epoch) || (x.changing && decide (b.epoch = x.nextEpoch)))
    && (match x.step with
      | some st => decide (st.num % 65536 = b.step)
      | none => false)

/-- A push is accepted: numbered and placed (R419, R432). -/
def Eng.pushAccept (e : Eng) (b : BinEnt) (bank : Option Nat) : Eng :=
  let e := e.works 11
  let seq := tgetD e.bin.seqs b.level 0
  let b : BinEnt := { b with pid := (e.inst b.inst).owner, seq, enq := e.now % two32, bank }
  let e := { e with bin := { e.bin with seqs := tsetD e.bin.seqs b.level ((seq + 1) % two32) 0, entries := binInsert b e.bin.entries } }
  let e := ((e.bump F.BIN_PUSHES_COUNT).count 0x1012 1 (some b.pid) (some b.inst)).binTrace 0 none 0 b
  let e := if bank.isNone then ((e.spillNext b.level).bump F.BIN_SPILLS_COUNT).binTrace 1 none 0 b else e
  e.binReport b.inst b.epoch

/-- A push reaches its lane: it is held while its level's spill ring is full, with every later push of the level behind it, and else discarded
or accepted (R418, R432, R435). -/
def Eng.pushIn (e : Eng) (entry : BitVec 256) : Eng :=
  let b := pushOf entry
  let sp := e.spilled b.level
  let bank := if sp = 0 then e.bankFree else none
  if (bank.isNone && decide (e.spillDepth ≤ sp)) || e.bin.stalled.any (fun w => decide ((pushOf w).level = b.level)) then
    { e with bin := { e.bin with stalled := e.bin.stalled ++ [entry] } }
  else if !e.pushOk entry then e.bump F.BIN_PUSH_BAD_COUNT
  else e.pushAccept b bank

/-- BIN_PUSH: the array pushes an entry; waiting TAKEs are served at the end of the tick (R424). While the domain of Bins is WAKING the push
lanes hold it (R566). -/
def execBinPush (entry : BitVec 256) (s : State) : Host.Outcome State Fault Refusal :=
  liveOr s (fun e => e.tell .engineAbsent) (fun e =>
    if e.binOn then e.pushIn entry
    else if e.binServes then { e with bin := { e.bin with stalled := e.bin.stalled ++ [entry] } }
    else e)

/-- The levels whose spill rings are full. -/
def Eng.levelsFull (e : Eng) : List Nat := (List.range 64).filter (fun l => decide (e.spillDepth ≤ e.spilled l))

/-- Held pushes whose level's spill ring had a place at the end of the last tick. -/
def Eng.pushesFree (e : Eng) : List (BitVec 256) :=
  if e.binOn then e.bin.stalled.filter (fun w => !e.bin.fullLevels.contains (pushOf w).level) else []

/-- The push lanes give what they hold and their rings have places for: first of all in a tick (R424 item 1). -/
def Eng.binOpen (e : Eng) : Eng :=
  let l := e.pushesFree
  if l.isEmpty then e
  else l.foldl Eng.pushIn { e with bin := { e.bin with stalled := e.bin.stalled.filter (fun w => !l.contains w) } }

/-- Bins' part of a tick once every push, purge, DONE and TAKE of it has come (R424), once in the tick (R628): what has waited for the domain
of Bins to be ON, hints that have expired are released, and waiting TAKEs are served. -/
def Eng.binTick (e : Eng) : Eng :=
  if e.binOn && decide (e.bin.servedAt ≠ some e.now) then
    let e := e.binOpen
    let e := (e.bin.closes.foldl Eng.binClose { e with bin := { e.bin with closes := [] } }).binRun
    { e with bin := { e.bin with servedAt := some e.now, fullLevels := e.levelsFull } }
  else e

/-- A core closes the entry it holds (R431). While the domain of Bins is WAKING the message waits (R566); a Bins out of service takes none. -/
def Eng.closeHeld (e : Eng) (core : Nat) : Eng :=
  if e.binOn then e.binClose core
  else if e.binServes && (tget e.bin.held core).isSome then { e with bin := { e.bin with closes := sinsert e.bin.closes core } }
  else e

/-- A TAKE at a core's port while the engine is absent: it takes the place of one of that port that waits (R429). -/
def Boot.portTake (b : Boot) (core : Nat) : Boot :=
  let w : TakeW := { core, since := b.cmc, lastBeat := b.cmc }
  { b with takes := b.takes.filter (fun w => decide (w.core ≠ core)) ++ [w] }

/-- TAKE: a core asks for an entry (R425): the entry it holds is closed, a TAKE of it that still waits is answered with NO_WORK, and
the new one waits to be served at the end of the tick (R424). With BIN_CTL.EN clear the answer is NO_DISPATCHER at once; with the engine
absent the TAKE waits at the core's port (R429). -/
def execTake (core : Nat) (s : State) : Host.Outcome State Fault Refusal :=
  if s.boot.absent then
    .next (if 128 ≤ core then s else { s with boot := s.boot.portTake core })
  else live s (fun e =>
    if 128 ≤ core then e
    else if !e.fb F.BIN_CTL_EN then e.coreAnswer core 2 none
    else
      let e := e.closeHeld core
      let again := e.bin.waiting.any (fun w => decide (w.core = core))
      let e := if again then ({ e with bin := { e.bin with waiting := e.bin.waiting.filter (fun w => decide (w.core ≠ core)) } }).coreAnswer core 1 none
        else e
      let e := if again then e.binTrace 7 (some core) 0 BinEnt.zero else e
      let w : TakeW := { core, since := e.now, lastBeat := e.now }
      { e with bin := { e.bin with waiting := oinsert (fun (x y : TakeW) =>
          decide (x.since < y.since ∨ (x.since = y.since ∧ x.core ≤ y.core))) w e.bin.waiting } })

/-- DONE: a core closes the entry it holds (R431). -/
def execDone (core : Nat) (s : State) : Host.Outcome State Fault Refusal := live s (fun e => e.closeHeld core)

/-- HOLD_BEAT: the beat that a waiting TAKE is owed, 200 t after its arrival and every 4,000 t after that (R427). -/
def atHoldBeat (core : Nat) (s : State) : Host.Outcome State Fault Refusal :=
  live s (fun e =>
    match e.bin.waiting.find? (fun w => decide (w.core = core)) with
    | none => e
    | some w =>
      if !e.binOn then e
      else
        let e := e.advance (if w.lastBeat = w.since then w.since + 200 else w.lastBeat + 4000)
        ({ e with bin := { e.bin with waiting := e.bin.waiting.map (fun (x : TakeW) => if x.core = core then { x with lastBeat := e.now } else x) } }).coreAnswer core 3 none)

/-- TAKE_TIMEOUT: a TAKE has waited BIN_TAKE_WAIT ticks (R428). -/
def atTakeTimeout (core : Nat) (s : State) : Host.Outcome State Fault Refusal :=
  live s (fun e =>
    match e.bin.waiting.find? (fun w => decide (w.core = core)) with
    | none => e
    | some w =>
      let n := e.av F.BIN_TAKE_WAIT_WAIT
      if n = 0 ∨ !e.binOn then e
      else
        let e := e.advance (w.since + n)
        let e := { e with bin := { e.bin with waiting := e.bin.waiting.filter (fun x => decide (x.core ≠ core)) } }
        (e.binTrace 7 (some core) 0 BinEnt.zero).coreAnswer core 1 none)

/-- AFF_RELEASE: the hint that ends first ends; waiting TAKEs are served again at the end of its tick (R421, R424). -/
def atAffRelease (s : State) : Host.Outcome State Fault Refusal :=
  live s (fun e =>
    let l := e.bin.entries.filter (fun b => b.affV && !b.released)
    match leastBy (fun b => e.av F.BIN_AFF_WAIT_WAIT - e.binAge b) l with
    | none => e
    | some b => if e.binOn then (e.advance (e.now + (e.av F.BIN_AFF_WAIT_WAIT - e.binAge b))).binHints else e)

/-- A port's TAKE is given up while the engine is absent: the controller's counter runs on to 10,000 t after its last beat (R429). -/
def State.portGivesUp (s : State) (w : TakeW) : State :=
  { s with
    boot := { s.boot with cmc := max s.boot.cmc (w.lastBeat + 10000), takes := s.boot.takes.filter (fun x => decide (x.core ≠ w.core)) }
    eng := s.eng.coreAnswer w.core 2 none }

/-- NO_DISPATCHER: a core's port has waited 10,000 t with neither answer nor beat (R429): the engine is absent, or Bins has stopped
answering. -/
def atNoDispatcher (core : Nat) (s : State) : Host.Outcome State Fault Refusal :=
  if s.boot.absent then
    .next (match s.boot.takes.find? (fun w => decide (w.core = core)) with
      | some w => s.portGivesUp w
      | none => s)
  else live s (fun e =>
    match e.bin.waiting.find? (fun w => decide (w.core = core)) with
    | none => e
    | some w =>
      if e.fb F.BIN_CTL_EN && !e.binOn then
        let e := e.advance (w.lastBeat + 10000)
        ({ e with bin := { e.bin with waiting := e.bin.waiting.filter (fun x => decide (x.core ≠ core)) } }).coreAnswer core 2 none
      else e)

/-- REFILL: Bins moves entries from Store into banks while enough places are free (R433). -/
def execRefill (s : State) : Host.Outcome State Fault Refusal :=
  live s (fun e => if e.binOn then binRefill e e.bin.entries.length else e)

end Sys2Proof.Machine
end

