-- ==== Sys2Proof/Machine/Float.lean ====
section
/-!
DEFINITION. Exact numbers and the floating formats of the engine: the storage formats of spec/08_pantry_codec.md R305, the row
formats of spec/09_sampler.md R334 and R336, and the binary32 and binary64 operations of R343 and R366.
-/
namespace Sys2Proof.Machine

/-! ### Exact binary numbers -/

/-- The number (-1)^neg * m * 2^e. -/
structure Dy where
  neg : Bool := false
  m : Nat
  e : Int := 0
deriving DecidableEq, Repr

/-- Zero. -/
def Dy.zero : Dy := { m := 0 }

/-- Negation. -/
def Dy.flip (x : Dy) : Dy := { x with neg := !x.neg }

/-- The magnitude as a multiple of 2^q, for q at most the exponent. -/
def Dy.units (x : Dy) (q : Int) : Int :=
  let v : Int := (x.m * 2 ^ (x.e - q).toNat : Nat)
  if x.neg then -v else v

/-- An integer multiple of 2^q. -/
def dyOf (v : Int) (q : Int) : Dy := { neg := decide (v < 0), m := v.natAbs, e := q }

/-- Exact sum. A sum of two zeros is negative only when both are. -/
def Dy.add (x y : Dy) : Dy :=
  let q := min x.e y.e
  let s := dyOf (x.units q + y.units q) q
  if s.m = 0 then { s with neg := x.neg && y.neg && decide (x.m = 0 ∧ y.m = 0) } else s

/-- Exact product. -/
def Dy.mul (x y : Dy) : Dy := { neg := xor x.neg y.neg, m := x.m * y.m, e := x.e + y.e }

/-- Order of values. -/
def Dy.lt (x y : Dy) : Bool :=
  let q := min x.e y.e
  decide (x.units q < y.units q)

/-- floor(log2) of a nonzero magnitude. -/
def Dy.log2 (x : Dy) : Int := (Nat.log2 x.m : Int) + x.e

/-- The integer part of |x| / 2^q, and the excess in units of 2^-k of a quantum, truncated. -/
def Dy.quot (x : Dy) (q : Int) (k : Nat) : Nat × Nat :=
  if q ≤ x.e then (x.m * 2 ^ (x.e - q).toNat, 0)
  else
    let sh := (q - x.e).toNat
    (x.m / 2 ^ sh, x.m % 2 ^ sh * 2 ^ k / 2 ^ sh)

/-- |x| / 2^q rounded to nearest, ties to even. -/
def Dy.nearest (x : Dy) (q : Int) : Nat :=
  if q ≤ x.e then x.m * 2 ^ (x.e - q).toNat
  else
    let sh := (q - x.e).toNat
    let n := x.m / 2 ^ sh
    let r := x.m % 2 ^ sh
    if 2 ^ sh < 2 * r ∨ (2 * r = 2 ^ sh ∧ n % 2 = 1) then n + 1 else n

/-- Rounded to nearest, ties to even, to `p` significant bits and no quantum below 2^qmin. -/
def Dy.round (x : Dy) (p : Nat) (qmin : Int) : Dy :=
  if x.m = 0 then x
  else
    let q := max (x.log2 + 1 - p) qmin
    { x with m := x.nearest q, e := q }

/-! ### Formats -/

/-- A floating format: exponent and mantissa bits, bias, whether it has infinities, whether it has a NaN, and its largest
finite value as a multiple of a power of two. -/
structure Fmt where
  eb : Nat
  mb : Nat
  bias : Int
  inf : Bool
  nan : Bool
  maxM : Nat
  maxE : Int
deriving DecidableEq, Repr

/-- bfloat16. -/
def fBF16 : Fmt := ⟨8, 7, 127, true, true, 255, 120⟩
/-- IEEE binary16. -/
def fFP16 : Fmt := ⟨5, 10, 15, true, true, 2047, 5⟩
/-- IEEE binary32. -/
def fFP32 : Fmt := ⟨8, 23, 127, true, true, 16777215, 104⟩
/-- OCP FP8 E4M3. -/
def fE4M3 : Fmt := ⟨4, 3, 7, false, true, 14, 5⟩
/-- OCP FP8 E5M2. -/
def fE5M2 : Fmt := ⟨5, 2, 15, true, true, 7, 13⟩
/-- OCP FP6 E3M2. -/
def fE3M2 : Fmt := ⟨3, 2, 3, false, false, 7, 2⟩
/-- OCP FP6 E2M3. -/
def fE2M3 : Fmt := ⟨2, 3, 1, false, false, 15, -1⟩
/-- OCP FP4 E2M1. -/
def fE2M1 : Fmt := ⟨2, 1, 1, false, false, 3, 1⟩

/-- Bits of a format. -/
def Fmt.bits (f : Fmt) : Nat := 1 + f.eb + f.mb

/-- The smallest normal exponent. -/
def Fmt.emin (f : Fmt) : Int := 1 - f.bias

/-- The largest finite value. -/
def Fmt.maxf (f : Fmt) : Dy := { m := f.maxM, e := f.maxE }

/-- What an element decodes to. -/
inductive FVal where
  | nan
  | inf (neg : Bool)
  | fin (x : Dy)
deriving DecidableEq, Repr

/-- Decode an element. -/
def Fmt.decode (f : Fmt) (v : Nat) : FVal :=
  let m := v % 2 ^ f.mb
  let ex := v / 2 ^ f.mb % 2 ^ f.eb
  let neg := bitOf v (f.eb + f.mb)
  let top := decide (ex = 2 ^ f.eb - 1)
  if top && f.inf then (if m = 0 then .inf neg else .nan)
  else if top && f.nan && decide (m = 2 ^ f.mb - 1) then .nan
  else if ex = 0 then .fin { neg, m, e := f.emin - f.mb }
  else .fin { neg, m := 2 ^ f.mb + m, e := (ex : Int) - f.bias - f.mb }

/-- Encode a value that the format holds: `n` quanta of 2^(e - mb), for n below 2^(mb + 1). -/
def Fmt.encode (f : Fmt) (neg : Bool) (n : Nat) (e : Int) : Nat :=
  let s := b2n neg * 2 ^ (f.eb + f.mb)
  if n < 2 ^ f.mb then s + n else s + (e + f.bias).toNat * 2 ^ f.mb + (n - 2 ^ f.mb)

/-- The largest finite value's code. -/
def Fmt.maxCode (f : Fmt) (neg : Bool) : Nat := f.encode neg f.maxM (f.maxE + f.mb)

/-- The canonical NaN (R315). -/
def Fmt.canonNan (f : Fmt) : Nat :=
  if f = fBF16 then 0x7FC0 else if f = fFP16 then 0x7E00 else if f = fE4M3 then 0x7F else if f = fE5M2 then 0x7E else 0x7FC00000

/-- Round a finite value into a format, with the exact value's quantum and saturation of R313 and R314: the code, and whether it
saturated. `u` is the draw of a stochastic rounding, none for nearest, ties to even. -/
def Fmt.roundInto (f : Fmt) (x : Dy) (u : Option Nat) : Nat × Bool :=
  if x.m = 0 then (f.encode x.neg 0 f.emin, false)
  else
    let e := max x.log2 f.emin
    let q := e - f.mb
    let n := match u with
      | some u => let r := x.quot q 16; if 65536 ≤ r.2 + u then r.1 + 1 else r.1
      | none => x.nearest q
    let up := decide (n = 2 ^ (f.mb + 1))
    let n' := if up then 2 ^ f.mb else n
    let e' := if up then e + 1 else e
    if f.maxf.lt { m := n', e := e' - f.mb } then (f.maxCode x.neg, true) else (f.encode x.neg n' e', false)

/-! ### binary32 and binary64 (R343, R366) -/

/-- A finite binary32 value from its bits. -/
def f32Val (b : Nat) : Dy :=
  match fFP32.decode b with
  | .fin x => x
  | .inf neg => { neg, m := 16777215, e := 104 }
  | .nan => Dy.zero

/-- The binary32 code of a value, rounded to nearest, ties to even, saturated at 0x7F7F_FFFF (R343). -/
def f32Of (x : Dy) : Nat := (fFP32.roundInto x none).1

/-- binary32 sum. -/
def f32Add (a b : Nat) : Nat := f32Of ((f32Val a).add (f32Val b))
/-- binary32 difference. -/
def f32Sub (a b : Nat) : Nat := f32Of ((f32Val a).add (f32Val b).flip)
/-- binary32 product. -/
def f32Mul (a b : Nat) : Nat := f32Of ((f32Val a).mul (f32Val b))

/-- binary32 quotient: an exact quotient kept with a sticky bit and rounded once. Division by 0 saturates. -/
def f32Div (a b : Nat) : Nat :=
  let x := f32Val a
  let y := f32Val b
  let neg := xor x.neg y.neg
  if y.m = 0 then fFP32.maxCode neg
  else
    let n := x.m * 2 ^ 64
    let q := n / y.m
    let st := if n % y.m = 0 then 0 else 1
    f32Of { neg, m := 2 * q + st, e := x.e - y.e - 65 }

/-- The value of binary64 nearest to an exact one. -/
def f64Round (x : Dy) : Dy := x.round 53 (-1074)

/-- binary32 of a whole number. -/
def f32OfNat (n : Nat) : Nat := f32Of { m := n }

/-- A binary32 code is above zero. -/
def f32Pos (b : Nat) : Bool := decide (0 < b ∧ b < 2 ^ 31)

/-! ### Roots and logarithms -/

/-- Newton's iteration for an integer square root. -/
def sqrtIter (n x fuel : Nat) : Nat :=
  match fuel with
  | 0 => x
  | k + 1 =>
    let y := (x + n / max 1 x) / 2
    if y < x then sqrtIter n y k else x

/-- The integer part of a square root. -/
def isqrt (n : Nat) : Nat := if n = 0 then 0 else sqrtIter n (2 ^ (Nat.log2 n / 2 + 1)) (Nat.log2 n + 8)

/-- `k` square roots in turn. -/
def rootOf2 (n k : Nat) : Nat :=
  match k with
  | 0 => n
  | j + 1 => rootOf2 (isqrt n) j

/-- t[j] of R348: round(2^62 * 2^(-j / 1024)), from the integer part of the 1,024th root of 2^(63 * 1024 - j). -/
def weightTable (j : Nat) : Nat := (rootOf2 (2 ^ (63 * 1024 - j)) 10 + 1) / 2

/-- Fractional bits of the logarithms. -/
def lnBits : Nat := 256

/-- The sum of z^(2k+1) / (2k+1) for k from `k` on, in fixed point: `p` is z^(2k+1), `z2` is z^2. -/
def atanhSum (p z2 k fuel : Nat) : Nat :=
  match fuel with
  | 0 => 0
  | f + 1 => p / (2 * k + 1) + atanhSum (p * z2 / 2 ^ lnBits) z2 (k + 1) f

/-- ln of a / b for b ≤ a ≤ 2 b, in fixed point. -/
def lnRatio (a b : Nat) : Nat :=
  let z := (a - b) * 2 ^ lnBits / (a + b)
  2 * atanhSum z (z * z / 2 ^ lnBits) 0 96

/-- ln(s * 2^-59) for s at least 2^59, rounded to nearest binary64 (R366). -/
def lnMass (s : Nat) : Dy :=
  let k := Nat.log2 s
  f64Round { m := (k - 59) * lnRatio 2 1 + lnRatio s (2 ^ k), e := -(lnBits : Int) }

end Sys2Proof.Machine
end

