-- ==== Sys2Proof/Machine/Codec.lean ====
section
/-!
DEFINITION. Requantization (spec/08_pantry_codec.md R305 to R315): the elements and scales of a crate, and the conversion of one
crate.
-/
namespace Sys2Proof.Machine

/-- The element format of a storage format code (R305). -/
def elemFmt (code : Nat) : Fmt :=
  match code with
  | 0 => fBF16
  | 1 => fFP16
  | 2 => fE4M3
  | 3 => fE5M2
  | 4 => fE4M3
  | 5 => fE5M2
  | 6 => fE3M2
  | 7 => fE2M3
  | _ => fE2M1

/-- Codes of the MX formats. -/
def isMx (code : Nat) : Bool := decide (4 ≤ code)

/-- Scale emax of an MX format. -/
def mxEmax (code : Nat) : Int :=
  match code with
  | 4 => 8
  | 5 => 15
  | 6 => 4
  | _ => 2

/-- Element j of 32, read from its block's element bytes as one little-endian number (R308). -/
def blockElem (code block j : Nat) : Nat :=
  let w := (elemFmt code).bits
  block / 2 ^ (w * j) % 2 ^ w

/-- Bytes that 32 elements take without their scale. -/
def blockBytes (code : Nat) : Nat := 4 * (elemFmt code).bits

/-- The block of element bytes number k. -/
def blockAt (code : Nat) (src : List Nat) (k : Nat) : Nat := leNat ((src.drop (blockBytes code * k)).take (blockBytes code))

/-- The scale byte of block k of a crate of `elems` elements (R307). -/
def scaleAt (code elems : Nat) (src : List Nat) (k : Nat) : Nat := src.getD (elems / 32 * blockBytes code + k) 0

/-- The exact values of a block (R311). An MX block with scale byte 0xFF holds NaNs. -/
def blockVals (code elems : Nat) (src : List Nat) (k : Nat) : List FVal :=
  let b := blockAt code src k
  let sc := scaleAt code elems src k
  (List.range 32).map (fun j =>
    let v := (elemFmt code).decode (blockElem code b j)
    if isMx code then
      if sc = 0xFF then .nan
      else match v with
        | .fin x => .fin { x with e := x.e + ((sc : Int) - 127) }
        | y => y
    else v)

/-- Put a list of elements of `w` bits together, first lowest. -/
def packElems (w : Nat) (l : List Nat) : Nat :=
  match l with
  | [] => 0
  | x :: r => x % 2 ^ w + 2 ^ w * packElems w r

/-- An element in a plain destination: the code, and whether it is counted in PAN_SAT (R313 to R315). -/
def plainElem (f : Fmt) (v : FVal) (u : Option Nat) : Nat × Bool :=
  match v with
  | .nan => (f.canonNan, false)
  | .inf neg => if f.inf then (b2n neg * 2 ^ (f.eb + f.mb) + (2 ^ f.eb - 1) * 2 ^ f.mb, false) else (f.maxCode neg, true)
  | .fin x => f.roundInto x u

/-- The largest magnitude of a block, if all its values are finite. -/
def blockMax (l : List FVal) : Option Dy :=
  l.foldl (fun acc v =>
    match acc, v with
    | some a, .fin x => let y := { x with neg := false }; some (if a.lt y then y else a)
    | _, _ => none) (some Dy.zero)

/-- The scale exponent of a block (R312); none where the scale byte is 0xFF. -/
def blockScale (code : Nat) (l : List FVal) : Option Int :=
  match blockMax l with
  | none => none
  | some a => if a.m = 0 then some (-127) else some (max (-127) (min 127 (a.log2 - mxEmax code)))

/-- A converted block: its elements packed, its scale byte, elements saturated, and whether the scale is 0xFF. `us` are the
draws of its 32 elements, none for a promotion. -/
def convBlock (dst : Nat) (l : List FVal) (us : Option (List Nat)) : Nat × Nat × Nat × Bool :=
  let f := elemFmt dst
  let u := fun (j : Nat) => us.map (fun x => x.getD j 0)
  if isMx dst then
    match blockScale dst l with
    | none => (0, 0xFF, 0, true)
    | some x =>
      let es := ((List.range 32).zip l).map (fun p => match p.2 with
        | .fin v => f.roundInto { v with e := v.e - x } (u p.1)
        | _ => (0, false))
      (packElems f.bits (es.map (fun p => p.1)), (x + 127).toNat, (es.filter (fun p => p.2)).length, false)
  else
    let es := ((List.range 32).zip l).map (fun p => plainElem f p.2 (u p.1))
    (packElems f.bits (es.map (fun p => p.1)), 0, (es.filter (fun p => p.2)).length, false)

/-- A crate of `elems` elements converted (R310, R311): bytes, elements saturated, blocks written with scale byte 0xFF. `draws`
are the draws of its elements in order, none for a promotion. -/
def convCrate (src dst elems : Nat) (bytes : List Nat) (draws : Option (List DWord)) : List Nat × Nat × Nat :=
  if src = dst then (bytes, 0, 0)
  else
    let us := draws.map (fun l => l.map (fun d => d.toNat / 2 ^ 48))
    let bs := (List.range (elems / 32)).map (fun k =>
      convBlock dst (blockVals src elems bytes k) (us.map (fun l => (l.drop (32 * k)).take 32)))
    let body := bs.flatMap (fun b => leBytes (blockBytes dst) b.1)
    let scales := if isMx dst then bs.map (fun b => b.2.1) else []
    (body ++ scales, sumBy (fun (b : Nat × Nat × Nat × Bool) => b.2.2.1) bs, sumBy (fun (b : Nat × Nat × Nat × Bool) => b2n b.2.2.2) bs)

end Sys2Proof.Machine
end

