-- ==== Sys2Proof/Machine/Automaton.lean ====
section
/-!
DEFINITION. The Sieve's pushdown automata (spec/10_sieve.md R371 to R382): grammar images, keys, classes, edges and the
outcome of applying an edge; the checks of an install (R384).
-/
namespace Sys2Proof.Machine

/-- A configuration (R371): state and stack, bottom symbol first. -/
structure Pda where
  state : Nat
  stack : List Nat
deriving DecidableEq, Repr

/-- The key of a configuration (R375): STATE, TOP0, TOP1. -/
def Pda.key (c : Pda) : Nat × Nat × Nat :=
  let r := c.stack.reverse
  (c.state, r.getD 0 0, r.getD 1 0)

/-- The SIEVE field (R372). -/
def Pda.field (c : Pda) : Nat :=
  let k := c.key
  c.state % 2 ^ 20 + 2 ^ 20 * c.stack.length + 2 ^ 28 * k.2.1 + 2 ^ 36 * k.2.2

/-- A field of `w` bytes of an image. -/
abbrev GImg := List Nat

/-- VOCAB of an image's header (R378). -/
def gVocab (g : GImg) : Nat := imgField g 0x0C 4 % 2 ^ 21

/-- 2^LOG2_KEYS. -/
def gKeys (g : GImg) : Nat := 2 ^ (imgField g 0x18 4 % 32)

/-- The key table entry at an index (R379). -/
def gKeyAt (g : GImg) (i : Nat) : Nat := imgField g (imgField g 0x20 4 + 16 * i) 16

/-- An entry matches a key and is valid. -/
def keyIs (w : Nat) (k : Nat × Nat × Nat) : Bool :=
  bitOf w 36 && decide (bitsOf w 19 0 = k.1 ∧ bitsOf w 27 20 = k.2.1 ∧ bitsOf w 35 28 = k.2.2)

/-- Probe from an index for a key (R379). -/
def gProbe (g : GImg) (k : Nat × Nat × Nat) (i fuel : Nat) : Option Nat :=
  match fuel with
  | 0 => none
  | f + 1 =>
    let w := gKeyAt g i
    if keyIs w k then some w
    else if bitOf w 36 then gProbe g k ((i + 1) % gKeys g) f else none

/-- The key table entry of a key (R379). -/
def gFind (g : GImg) (k : Nat × Nat × Nat) : Option Nat :=
  gProbe g k ((k.1 * 65536 + k.2.2 * 256 + k.2.1) % gKeys g) 16

/-- A class entry (R380). -/
structure GClass where
  form : Nat
  defV : Bool
  maskAt : Nat
  maskN : Nat
  edgeAt : Nat
  edgeN : Nat
  dflt : Nat
deriving DecidableEq, Repr

/-- The class entry of a class. -/
def gClass (g : GImg) (c : Nat) : GClass :=
  let o := imgField g 0x24 4 + 32 * c
  let w := imgField g o 4
  { form := bitsOf w 1 0, defV := bitOf w 2, maskAt := imgField g (o + 4) 4, maskN := imgField g (o + 8) 4,
    edgeAt := imgField g (o + 0xC) 4, edgeN := imgField g (o + 0x10) 4, dflt := imgField g (o + 0x18) 8 }

/-- Token i of a LIST mask. -/
def gListAt (g : GImg) (c : GClass) (i : Nat) : Nat := imgField g (c.maskAt + 4 * i) 4

/-- Edge i of a class. -/
def gEdgeAt (g : GImg) (c : GClass) (i : Nat) : Nat := imgField g (c.edgeAt + 8 * i) 8

/-- A class allows a token (R376, R382). -/
def gAllows (g : GImg) (c : GClass) (t : Nat) : Bool :=
  if c.form = 0 then bitOf (imgField g (c.maskAt + t / 8) 1) (t % 8) && decide (t < gVocab g)
  else if c.form = 1 then (List.range c.maskN).any (fun i => decide (gListAt g c i % 2 ^ 20 = t))
  else if c.form = 2 then decide (t < gVocab g)
  else false

/-- A class's mask is empty. -/
def gEmpty (g : GImg) (c : GClass) : Bool :=
  if c.form = 0 then !((List.range (gVocab g)).any (gAllows g c))
  else if c.form = 1 then decide (c.maskN = 0)
  else if c.form = 2 then decide (gVocab g = 0)
  else true

/-- The listed edge of a token. -/
def gListed (g : GImg) (c : GClass) (t : Nat) : Option Nat :=
  ((List.range c.edgeN).find? (fun i => decide (gEdgeAt g c i % 2 ^ 20 = t))).map (gEdgeAt g c)

/-- The edge of a token (R376). -/
def gEdge (g : GImg) (c : GClass) (t : Nat) : Option Nat :=
  match gListed g c t with
  | some e => some e
  | none => if c.defV then some c.dflt else none

/-- The class of a configuration; none for a key with no entry (R375). -/
def Pda.cls (g : GImg) (p : Pda) : Option Nat := (gFind g p.key).map (fun w => bitsOf w 87 64)

/-- A token is allowed in a configuration. -/
def Pda.allows (g : GImg) (p : Pda) (t : Nat) : Bool :=
  match p.cls g with
  | some c => gAllows g (gClass g c) t
  | none => false

/-- The mask of a configuration is empty. -/
def Pda.empty (g : GImg) (p : Pda) : Bool :=
  match p.cls g with
  | some c => gEmpty g (gClass g c)
  | none => true

/-- A configuration is accepting. -/
def Pda.accepting (g : GImg) (p : Pda) : Bool :=
  match gFind g p.key with
  | some w => bitOf w 37
  | none => false

/-- The outcome of applying an edge (R377). -/
inductive PdaOut where
  | notAllowed | dead | overflow | ended | continues
deriving DecidableEq, Repr

/-- Apply the edge of a token (R377). -/
def Pda.apply (g : GImg) (p : Pda) (t : Nat) : PdaOut × Pda :=
  match p.cls g with
  | none => (.notAllowed, p)
  | some ci =>
    let c := gClass g ci
    if !gAllows g c t then (.notAllowed, p)
    else
      match gEdge g c t with
      | none => (.notAllowed, p)
      | some e =>
        let pop := bitsOf e 21 20
        let n := bitsOf e 23 22
        let d := p.stack.length
        let syms := (if 1 ≤ n then [bitsOf e 31 24] else []) ++ (if 2 ≤ n then [bitsOf e 39 32] else [])
        let q : Pda := { state := bitsOf e 59 40, stack := p.stack.take (d - pop) ++ syms }
        if d < pop then (.dead, p)
        else if 64 < d - pop + n then (.overflow, p)
        else if q.accepting g && q.empty g then (.ended, q)
        else if q.empty g then (.dead, q)
        else (.continues, q)

/-! ### Checks of an install (R384) -/

/-- A list of numbers rises strictly. -/
def rising (l : List Nat) : Bool :=
  match l with
  | [] => true
  | a :: r => (match r with
    | [] => true
    | b :: _ => decide (a < b)) && rising r

/-- An edge is in form: POP and NPUSH at most 2, pushed symbols nonzero, NEXT below NSTATE, reserved bits 0. -/
def edgeOk (nstate e : Nat) : Bool :=
  let n := bitsOf e 23 22
  decide (bitsOf e 21 20 ≤ 2 ∧ n ≤ 2 ∧ bitsOf e 59 40 < nstate ∧ bitsOf e 63 60 = 0)
    && (decide (n = 0) || decide (bitsOf e 31 24 ≠ 0)) && (decide (n < 2) || decide (bitsOf e 39 32 ≠ 0))

/-- Check 6 for a class. -/
def classOk (g : GImg) (i : Nat) : Bool :=
  let c := gClass g i
  let o := imgField g 0x24 4 + 32 * i
  let sz := imgField g 0x28 4
  let ns := imgField g 0x14 4
  let mlen := if c.form = 0 then cdiv (gVocab g) 8 else if c.form = 1 then 4 * c.maskN else 0
  decide (imgField g o 4 < 8 ∧ imgField g (o + 0x14) 4 = 0)
    && (decide (2 ≤ c.form) || decide (c.maskAt + mlen ≤ sz)) && (decide (c.form = 1) || decide (c.maskN = 0)) && decide (c.edgeAt + 8 * c.edgeN ≤ sz)
    && (decide (c.form ≠ 1) || (rising ((List.range c.maskN).map (gListAt g c))
          && (List.range c.maskN).all (fun k => decide (gListAt g c k < 2 ^ 20))))
    && rising ((List.range c.edgeN).map (fun k => gEdgeAt g c k % 2 ^ 20))
    && (List.range c.edgeN).all (fun k => edgeOk ns (gEdgeAt g c k))
    && edgeOk ns c.dflt && decide (c.dflt % 2 ^ 20 = 0)

/-- Check 6 (R384). -/
def imageForm (g : GImg) : Bool :=
  let sz := imgField g 0x28 4
  let ns := imgField g 0x14 4
  let nc := imgField g 0x1C 4
  let lk := imgField g 0x18 4
  let z := fun (a n : Nat) => decide (imgField g a n = 0)
  decide (4 ≤ lk ∧ lk ≤ 24 ∧ 1 ≤ ns ∧ ns ≤ 2 ^ 20 ∧ 1 ≤ nc ∧ nc < 2 ^ 24 ∧ imgField g 0x10 4 < ns ∧ sz % 64 = 0
      ∧ imgField g 8 4 < 4096 ∧ imgField g 0xC 4 < 2 ^ 21)
    && z 6 2 && z 0x2C 16
    && decide (imgField g 0x20 4 + 16 * 2 ^ lk ≤ sz ∧ imgField g 0x24 4 + 32 * nc ≤ sz)
    && (List.range (2 ^ lk)).all (fun i =>
        let w := gKeyAt g i
        decide (bitsOf w 63 38 = 0 ∧ bitsOf w 127 88 = 0)
          && decide (bitsOf w 87 64 < nc)
          && (!bitOf w 36 || (gFind g (bitsOf w 19 0, bitsOf w 27 20, bitsOf w 35 28)).isSome))
    && (List.range nc).all (classOk g)

/-- Check 8 for a class (R384). -/
def classEdges (g : GImg) (i : Nat) : Bool :=
  let c := gClass g i
  (List.range (max (gVocab g) (2 ^ 20))).all (fun t =>
    if gAllows g c t then (gEdge g c t).isSome else (gListed g c t).isNone)

/-- The first check of R384 that fails, or 1. `larderVocab`: VOCAB of the Larder entry of the image's MID, if it stands. -/
def installResult (g : GImg) (larderVocab : Option Nat) (busy readOk : Bool) : Nat :=
  let sz := imgField g 0x28 4
  if imgField g 0 4 ≠ 0x56454953 then 2
  else if imgField g 0x3C 4 ≠ crc32 (g.take 0x3C ++ (g.take sz).drop 0x40) then 3
  else if imgField g 5 1 ≠ 1 then 4
  else if larderVocab ≠ some (gVocab g) then 5
  else if !imageForm g then 6
  else
    match gFind g (imgField g 0x10 4, 0, 0) with
    | none => 7
    | some w =>
      if (gClass g (bitsOf w 87 64)).form = 3 then 7
      else if !(List.range (imgField g 0x1C 4)).all (classEdges g) then 8
      else if busy then 9
      else if !readOk then 10
      else 1

/-! ### Configurations of siblings -/

/-- A grammar directory entry. -/
def Eng.gram (e : Eng) (id : Nat) : Gram := tgetD e.siv.dir id {}

/-- Replace a directory entry. -/
def Eng.setGram (e : Eng) (id : Nat) (x : Gram) : Eng := { e with siv := { e.siv with dir := tsetD e.siv.dir id x {} } }

/-- The image of a grammar. -/
def Eng.gramImg (e : Eng) (id : Nat) : GImg := natBytes (e.gram id).image

/-- The configuration of a slot's record (R372, R373). -/
def Eng.pda (e : Eng) (s : Nat) : Pda :=
  match e.rc s with
  | some r => { state := r.sieve % 2 ^ 20, stack := tgetD e.siv.pdaStacks s [] }
  | none => { state := 0, stack := [] }

/-- Write a configuration to a slot's record and stack line. -/
def Eng.setPda (e : Eng) (s : Nat) (p : Pda) : Eng :=
  let e := e.modRc s (fun r => { r with sieve := p.field })
  { e with siv := { e.siv with pdaStacks := tsetD e.siv.pdaStacks s p.stack [] } }

/-- An entry whose grammar is removed: VALID clears, and nothing hangs on the entry any more (R383, R385). -/
def Gram.removed (g : Gram) : Gram := { g with valid := false, draining := false, live := 0 }

/-- LIVE of a grammar falls by `n`; a draining entry left at 0 goes (R385). -/
def Eng.gramDrop (e : Eng) (id n : Nat) : Eng :=
  let g := e.gram id
  let l := g.live - n
  if g.draining && decide (l = 0) then (e.setGram id g.removed).raiseE 0x0072 9 id
  else e.setGram id { g with live := l }

end Sys2Proof.Machine
end

