-- ==== Sys2Proof/Machine/Shv.lean ====
section
/-!
DEFINITION. The Shelver's tables (spec/07_shelver_crates_and_tiers.md): groups, maps, quotas, the room answer, pins, tier moves
and the Pantry's queues (spec/08_pantry_codec.md R319 to R323).
-/
namespace Sys2Proof.Machine

/-! ### Formats and the Larder -/

/-- Bytes per 32 elements of a storage format (R305); 0 for a reserved code. -/
def fmtBytes (f : Nat) : Nat := [64, 64, 32, 32, 33, 33, 25, 25, 17].getD f 0

/-- Elements of a crate (R306). -/
def crateElems (crateBytes kvFmt : Nat) : Nat := crateBytes * 32 / max 1 (fmtBytes kvFmt)

/-- Bytes of a crate in a format (R307). -/
def crateSize (elems f : Nat) : Nat := elems * fmtBytes f / 32

/-- Bytes of a crate's frame (R307). -/
def frameSize (elems f : Nat) : Nat := roundUp (crateSize elems f) 4096

/-- Whether a Larder entry stands (R296, R306) for a MID. -/
def larderOk (d : LarderBits) (mid : Nat) : Bool :=
  let f := recField d 0x04 14 11
  let cb := recField d 0x10 31 0
  decide (recField d 0xFC 31 0 = crc32 (leBytes 0xFC d.toNat))
    && recBit d 0 12
    && decide (recField d 0 11 0 = mid)
    && decide (1 ≤ recField d 4 6 0 ∧ recField d 4 6 0 ≤ 64)
    && decide (1 ≤ recField d 8 20 0 ∧ recField d 8 20 0 ≤ 1048576)
    && decide (1 ≤ recField d 0xC 24 0 ∧ recField d 0xC 24 0 ≤ 16777216)
    && decide (cb ≠ 0 ∧ cb % 4096 = 0)
    && decide (fmtBytes f ≠ 0)
    && decide (cb * 32 % max 1 (fmtBytes f) = 0 ∧ crateElems cb f % 32 = 0)

/-- The entry of a MID as the engine reads it: none where R296 treats it as absent. -/
def larderOf (d : Option LarderBits) (mid : Nat) : Option LarderBits :=
  match d with
  | some b => if larderOk b mid then some b else none
  | none => none

/-! ### Instances -/

/-- The model of an instance. -/
def Eng.instModel (e : Eng) (i : Nat) : Model := e.model (e.inst i).mid

/-- An instance is resident on this chip (R297): its MID is RESIDENT here, and its own load is not in progress. -/
def Eng.instIn (e : Eng) (i : Nat) : Bool := decide ((e.instModel i).state = 2) && !(e.inst i).loading

/-- Layer groups that this chip holds for an instance: L. -/
def Eng.shvL (e : Eng) (i : Nat) : Nat := max 1 (e.shvi i).lgs.length

/-- The least power of two that is at least n. -/
def pow2Up (n : Nat) : Nat := if n ≤ 1 then 1 else 2 ^ (Nat.log2 (n - 1) + 1)

/-- Bytes of one group in the model's KV format: L * CRATE_BYTES. -/
def Eng.groupBytes (e : Eng) (i : Nat) : Nat := e.shvL i * (e.instModel i).crateBytes

/-- A group. -/
def Eng.grp (e : Eng) (g : Nat) : Option Grp := tget e.shv.groups g

/-- Put a group. -/
def Eng.setGrp (e : Eng) (g : Nat) (x : Grp) : Eng := { e with shv := { e.shv with groups := tput e.shv.groups g x } }

/-- Change a group. -/
def Eng.modGrp (e : Eng) (g : Nat) (f : Grp → Grp) : Eng := { e with shv := { e.shv with groups := tmod e.shv.groups g f } }

/-- Free a group. -/
def Eng.freeGrp (e : Eng) (g : Nat) : Eng := { e with shv := { e.shv with groups := tdel e.shv.groups g } }

/-- A sibling's map. -/
def Eng.smap (e : Eng) (s : Nat) : Option SMap := tget e.shv.maps s

/-- Put a map. -/
def Eng.setMap (e : Eng) (s : Nat) (x : SMap) : Eng := { e with shv := { e.shv with maps := tput e.shv.maps s x } }

/-- Change a map. -/
def Eng.modMap (e : Eng) (s : Nat) (f : SMap → SMap) : Eng := { e with shv := { e.shv with maps := tmod e.shv.maps s f } }

/-- Local instance of a slot's record. -/
def Eng.slotInst (e : Eng) (s : Nat) : Nat :=
  match e.rc s with
  | some r => r.inst
  | none => 16

/-- Blocks reserved and not allocated for an instance's requests: those of this engine's own and those of the follower directory. -/
def Eng.resvBlocks (e : Eng) (i : Nat) : Nat :=
  sumBy (fun (p : Nat × SMap) => if e.slotInst p.1 = i then p.2.resv else 0) e.shv.maps
    + sumBy (fun (x : Nat × Nat × Nat × SMap) => if x.1 = i then x.2.2.2.resv else 0) e.shv.fdir

/-- A group is resident: in Shelf or Store, or on its way from Cellar (R266, R283). -/
def Grp.resident (g : Grp) : Bool := decide (g.tier ≠ 2) || decide (g.state = 2 ∧ g.dest ≠ 2)

/-- Resident use (R266). -/
def Eng.resUse (e : Eng) (i : Nat) : Nat :=
  sumBy (fun (p : Nat × Grp) => b2n (decide (p.2.inst = i) && p.2.resident)) e.shv.groups + e.resvBlocks i

/-- Groups of an instance in Cellar. -/
def Eng.cellarUse (e : Eng) (i : Nat) : Nat :=
  sumBy (fun (p : Nat × Grp) => b2n (decide (p.2.inst = i ∧ p.2.tier = 2))) e.shv.groups

/-- Bytes of the Shelver's Store area. -/
def Eng.storeArea (e : Eng) : Nat := e.fv F.SHV_STORE_SIZE_GIB * 2 ^ 30

/-- Bytes of Store that a model's weights hold. -/
def Eng.weightHeld (e : Eng) (st : Nat → Bool) : Nat :=
  sumBy (fun (p : Nat × Model) => if st p.2.state then p.2.chipBytes else 0) e.shv.models

/-- The quota Q (R265): the load value, or the larger one that a write of SHV_INST_QUOTA has committed. -/
def Eng.quota (e : Eng) (i : Nat) : Nat := max (e.shvi i).qLoad (e.shvi i).q

/-- Bytes committed to the quotas of the chip's other instances. -/
def Eng.quotaOthers (e : Eng) (i : Nat) : Nat :=
  sumBy (fun j => if j = i ∨ !(e.inst j).active then 0 else e.quota j * e.groupBytes j) instRange

/-- Groups that the chip's Store can back for an instance (R265). -/
def Eng.quotaRoom (e : Eng) (i : Nat) : Nat :=
  (e.storeArea - e.weightHeld (fun s => decide (s = 1 ∨ s = 2)) - e.quotaOthers i) / max 1 (e.groupBytes i)

/-- Store free for loads on this chip: neither weights of LOADING, RESIDENT or PARKED models nor quotas (R298). -/
def Eng.freeStore (e : Eng) : Nat :=
  e.storeArea - e.weightHeld (fun s => decide (s ≠ 0)) - e.quotaOthers 16

/-- Free map nodes. -/
def Eng.nodesFree (e : Eng) : Nat := e.fv F.SHV_MAP_NODES_NODES - e.shv.nodesUsed - e.shv.nodesResv

/-- Bytes of an instance's Shelf region taken. -/
def Eng.shelfUsed (e : Eng) (i : Nat) : Nat :=
  sumBy (fun (p : Nat × Grp) => if p.2.inst = i ∧ (p.2.tier = 0 ∨ (p.2.state = 2 ∧ p.2.dest = 0)) then e.groupBytes i else 0) e.shv.groups
    + sumBy (fun (f : Frames) => if f.inst = i ∧ f.tier = 0 then f.bytes else 0) e.shv.frames

/-- Bytes of an instance's Shelf region (R635). -/
def Eng.shelfSize (e : Eng) (i : Nat) : Nat := (e.shvi i).shelfMib * 2 ^ 20

/-- Free Shelf of the region; 0 when the groups occupy more than it (R635). -/
def Eng.shelfFree (e : Eng) (i : Nat) : Nat := e.shelfSize i - e.shelfUsed i

/-! ### Crate IDs and keys -/

/-- The lowest free multiple of `lp`, past the ID ranges listed in rising order. -/
def freeBase (lp : Nat) (used : List (Nat × Nat)) (cand : Nat) : Nat :=
  match used with
  | [] => cand
  | (b, n) :: r => if cand + lp ≤ b then cand else freeBase lp r (max cand (roundUp (b + n) lp))

/-- A base crate ID for a new group of an instance (R255): the lowest free one (assumption log 7). -/
def Eng.newBase (e : Eng) (i : Nat) : Nat :=
  freeBase (pow2Up (e.shvL i)) (e.shv.groups.map (fun p => (p.1, pow2Up (e.shvL p.2.inst)))) 0

/-- The draw RQID of a request (R403). -/
def drawRqid (rqid drawSlot : Nat) : Nat := rqid / 2 ^ 24 % 256 * 2 ^ 24 + drawSlot % 2 ^ 24

/-- Logical key of a private group (R259). -/
def privKey (r : LRec) (block : Nat) : Nat := drawRqid r.rqid r.drawSlot + 2 ^ 32 * r.sib + 2 ^ 38 * block

/-- Allocate a group on Shelf or in Store (R269, R280, R281, R287): kind 0 private, 2 draft. Answers its base ID. -/
def Eng.newGroup (e : Eng) (i kind key block owner : Nat) (half : Bool) : Nat × Eng :=
  let b := e.newBase i
  let size := e.shelfSize i
  let shelf :=
    if kind = 2 then decide (size ≠ 0 ∧ e.groupBytes i ≤ e.shelfFree i)
    else decide (size ≠ 0 ∧ size * e.av F.SHV_WM_SHELF_LOW < e.shelfFree i * 256)
  let f := (e.works 6).fresh
  let addr := f.1.toNat / 4096 * 4096
  (b, f.2.setGrp b
    { kind, key, block, owner, half, addr, inst := i, tier := if shelf then 0 else 1, fmt := (e.instModel i).kvFmt,
      heat := e.now })

/-! ### The room answer and reservations -/

/-- Top block and own blocks of R161. -/
def topBlock (p a : Nat) : Nat := (p + a) / 64

/-- Blocks that the Gate asks for: crates_needed of R161 with one layer group. -/
def blocksNeeded (p n a : Nat) : Nat :=
  let t := topBlock p a
  (t + 1) + n * (t - p / 64 + 1)

/-- Map nodes that R636 reserves. -/
def nodesNeeded (p n a : Nat) : Nat := (n + 1) * (1 + cdiv (topBlock p a + 1) 512)

/-- Shared groups that the prefix table alone holds, in Shelf or Store: E of R267. -/
def Eng.evictable (e : Eng) (i : Nat) : Nat :=
  sumBy (fun (p : Nat × Grp) => b2n (decide (p.2.inst = i ∧ p.2.kind = 1 ∧ p.2.ref = 1 ∧ p.2.tier ≠ 2))) e.shv.groups

/-- The Shelver's answer to the Gate. -/
inductive Room where
  | now | later | never
deriving DecidableEq, Repr

/-- The room answer of R267 for `b` blocks and `nodes` map nodes. -/
def Eng.room (e : Eng) (i b nodes : Nat) : Room :=
  if !e.fb F.SHV_CTL_EN then .later
  else if e.quota i < b then .never
  else if e.quota i + e.evictable i < b + e.resUse i then .later
  else if e.nodesFree < nodes then .later
  else .now

/-! ### Holders -/

/-- The Ledger slots of the siblings whose maps name a group. -/
def Eng.holders (e : Eng) (g : Nat) : List Nat :=
  (e.shv.maps.filter (fun p => p.2.blocks.any (fun b => decide (b.2 = g)) || decide (p.2.draft0 = some g ∨ p.2.draft1 = some g))).map
    (fun p => p.1)

/-- A sibling is PAUSED or SWAPPED. -/
def Eng.sleeping (e : Eng) (s : Nat) : Bool :=
  match e.rc s with
  | some r => decide (r.state = 7 ∨ r.state = 8)
  | none => false

/-- A lost slot of a sibling has still to run (R202, R206): its blocks stay where a step can read them (R262). -/
def Eng.lostWaits (e : Eng) (s : Nat) : Bool :=
  match e.rc s with
  | none => false
  | some r =>
    let x := e.inst r.inst
    (x.carried ++ (match x.comp with
      | some c => c.slots.filter (fun (y : Slot) => y.reissue)
      | none => [])).any (fun y => decide (y.lslot = s ∧ y.kind ≠ 0))

/-- A group is cold (R282). R282 names no exception for a sibling of which a lost slot has still to run; the model's choice, for R262, is that
its groups are not cold (DESIGN CHOICE, assumption log 75). -/
def Eng.cold (e : Eng) (g : Nat) (x : Grp) : Bool :=
  decide (x.kind ≠ 2)
    && (if x.kind = 1 ∧ x.ref = 1 then true
      else (!(e.holders g).isEmpty && (e.holders g).all (fun s => e.sleeping s && !e.lostWaits s)))

/-- AWAY of a sibling (R263, R285): its groups in Cellar or moving to or from it. -/
def Eng.away (e : Eng) (s : Nat) : Nat :=
  match e.smap s with
  | none => 0
  | some m => sumBy (fun (b : Nat × Nat) =>
      match e.grp b.2 with
      | some g => b2n (decide (g.tier = 2) || decide (g.state = 2 ∧ g.dest = 2))
      | none => 0) m.blocks

/-- The end of this tick owes the moves that the triggers of R282 call for in an instance: move starts come last in a tick (R288). -/
def Eng.balance (e : Eng) (i : Nat) : Eng := { e with shv := { e.shv with balances := sinsert e.shv.balances i } }

/-- The end of this tick owes another try of the recalls that wait (R282, R283, R288). -/
def Eng.recallAll (e : Eng) : Eng := { e with shv := { e.shv with recallDue := true } }

/-- Drop one holder of a group (R287). A shared group that the table alone then holds has turned cold (R282). -/
def Eng.dropRef (e : Eng) (g : Nat) : Eng :=
  match e.grp g with
  | none => e
  | some x =>
    let e := if x.kind = 1 ∧ x.ref = 2 then e.balance x.inst else e
    let y := { x with ref := x.ref - 1 }
    if y.ref = 0 then
      if x.state = 2 then e.setGrp g { y with state := 3 }
      else if y.pin = 0 then (e.freeGrp g).recallAll else e.setGrp g y
    else e.setGrp g y

/-- Release one pin of a group (R287). One without holders that is moving is then RELEASED; one that no pin holds any more may be a candidate
of R282. -/
def Eng.unpin (e : Eng) (g : Nat) : Eng :=
  match e.grp g with
  | none => e
  | some x =>
    let y := { x with pin := x.pin - 1 }
    if y.ref = 0 ∧ y.pin = 0 then (if x.state = 1 then (e.freeGrp g).recallAll else e.setGrp g { y with state := 3 })
    else if y.pin = 0 then (e.setGrp g y).balance x.inst
    else e.setGrp g y

/-- Release the pins of a slot, those of its own append among them. -/
def Eng.unpinSlot (e : Eng) (s : Slot) : Eng := (s.pins ++ s.own).foldl (fun e g => e.unpin g) e

/-! ### The follower directory (R291) -/

/-- The directory's map of a sibling. -/
def Eng.fmap (e : Eng) (i rqid sib : Nat) : Option SMap :=
  (e.shv.fdir.find? (fun x => decide (x.1 = i ∧ x.2.1 = rqid ∧ x.2.2.1 = sib))).map (fun x => x.2.2.2)

/-- Take a sibling out of the directory. -/
def Eng.fdel (e : Eng) (i rqid sib : Nat) : Eng :=
  { e with shv := { e.shv with fdir := e.shv.fdir.filter (fun x => !decide (x.1 = i ∧ x.2.1 = rqid ∧ x.2.2.1 = sib)) } }

/-- Put a sibling's map into the directory. -/
def Eng.fput (e : Eng) (i rqid sib : Nat) (m : SMap) : Eng :=
  let e := e.fdel i rqid sib
  { e with shv := { e.shv with fdir := (i, rqid, sib, m) :: e.shv.fdir } }

/-- The positions [pos, pos + n) of a followed sibling have been written and their step has resolved: blocks that are full become
FULL (R257, R282). -/
def Eng.ffull (e : Eng) (i rqid sib pos n : Nat) : Eng :=
  match e.fmap i rqid sib with
  | none => e
  | some m => (m.blocks.filter (fun b => decide (pos / 64 ≤ b.1 ∧ 64 * (b.1 + 1) ≤ pos + n))).foldl
      (fun e b => e.modGrp b.2 (fun x => { x with full := true })) e

/-! ### Prefix entries (R271 to R276) -/

/-- LOG2_ENTRIES within 3 to 24 (R272). -/
def Eng.pfxLog (e : Eng) : Nat := max 3 (min 24 (e.fv F.SHV_PFX_CFG_LOG2_ENTRIES))

/-- The indices of the bucket of a hash. -/
def Eng.pfxBucket (e : Eng) (h : Nat) : List Nat :=
  let b := h % 2 ^ (e.pfxLog - 3)
  (List.range 8).map (fun w => 8 * b + w)

/-- The sharing domain of a partition (R271). -/
def Eng.domain (e : Eng) (p : Nat) : Nat := if e.av F.SHV_PART_SHARE_OWN p = 1 then p else e.av F.SHV_PART_SHARE_DOMAIN p

/-- Hash of a block (R271). -/
def blockHash (prev mid dom : Nat) (toks : List Nat) : Nat :=
  crc64 (leBytes 8 prev ++ leBytes 2 mid ++ [dom, 0] ++ toks.flatMap (fun t => leBytes 4 t))

/-- The prefix entry that matches a block. -/
def Eng.pfxFind (e : Eng) (h mid dom parent : Nat) (toks : List Nat) : Option (Nat × Pfx) :=
  ((e.pfxBucket h).filterMap (fun i =>
    match tget e.shv.pfx i with
    | some p => if p.hash = h ∧ p.mid = mid ∧ p.domain = dom ∧ p.toks = toks ∧ p.parent = parent then some (i, p) else none
    | none => none)).head?

/-- Remove the entry at an index, and free its group when the table alone held it (R276). -/
def Eng.pfxDrop (e : Eng) (i : Nat) : Eng :=
  match tget e.shv.pfx i with
  | none => e
  | some p =>
    let inst := match e.grp p.group with
      | some g => g.inst
      | none => 16
    let e := { e with shv := { e.shv with pfx := tdel e.shv.pfx i } }
    (e.dropRef p.group).shvTell inst { kind := 4, hash := p.hash }

/-- The entry of a shared group. -/
def Eng.pfxOf (e : Eng) (g : Nat) : Option Nat := (e.shv.pfx.find? (fun p => decide (p.2.group = g))).map (fun p => p.1)

/-- Whether this engine may evict an entry (R276): the table alone holds its group, and it is of an instance that this engine leads (R290). -/
def Eng.pfxIdle (e : Eng) (p : Pfx) : Bool :=
  match e.grp p.group with
  | some g => decide (g.ref = 1) && (e.inst g.inst).lead
  | none => false

/-- HEAT of a group. -/
def Eng.heatOf (e : Eng) (g : Nat) : Nat :=
  match e.grp g with
  | some x => x.heat
  | none => 0

/-- Evict entries of an instance, oldest HEAT first, until `n` blocks of the quota are free (R276). -/
def evictFor (e : Eng) (i n fuel : Nat) : Eng :=
  match fuel with
  | 0 => e
  | k + 1 =>
    if e.resUse i + n ≤ e.quota i then e
    else
      let c := e.shv.pfx.filter (fun p => e.pfxIdle p.2 && (match e.grp p.2.group with
        | some g => decide (g.inst = i ∧ g.tier ≠ 2)
        | none => false))
      match leastBy (fun (p : Nat × Pfx) => e.heatOf p.2.group) c with
      | none => e
      | some p => evictFor (e.pfxDrop p.1) i n k

/-! ### Commands to the Pantry (spec/08_pantry_codec.md R319 to R323) -/

/-- The domains of the pipes wake when a piece is queued (R565). -/
def Eng.wakePipes (e : Eng) : Eng := [10, 11, 12, 13].foldl (fun e d => e.wake d) e

/-- Place a command in its queue, or hold it while the queue is full (R323). A BULK command asks for its leave on the way (R326);
one for which the amount is 0 needs none. -/
def Eng.panPut (e : Eng) (c : PanCmd) : Eng :=
  if c.demand && decide (c.kind ≠ 3) then
    if e.pan.demand.length < 256 then
      { e with pan := { e.pan with demand := e.pan.demand ++ [c], lastCmd := some c } }.wakePipes
    else { e with pan := { e.pan with held := e.pan.held ++ [c] } }
  else
    if e.pan.background.length < 1024 then
      let amt := if c.kind = 3 then e.av F.KPR_LEAVE_AMT_BULK else 0
      let c := { c with leaveOk := decide (amt = 0) }
      let e := { e with pan := { e.pan with background := e.pan.background ++ [c], lastCmd := some c } }.wakePipes
      if amt = 0 then e
      else e.leaveAsk { cls := 1, amt, pid := c.pid, who := c.id, inst := c.inst, since := e.now, split := [(c.pid, 1)] }
    else { e with pan := { e.pan with held := e.pan.held ++ [c] } }

/-- Issue a command with its number, and note what it is for. -/
def Eng.panIssue (e : Eng) (c : PanCmd) (op : ShvOp) : Eng :=
  let id := e.pan.nextId
  let e := { e with pan := { e.pan with nextId := (id + 1) % 65536 } }
  let e := { e with shv := { e.shv with ops := tput e.shv.ops id { op with fmt := c.dstFmt } } }
  e.panPut { c with id }

/-- Move held commands whose queues have room (R323). -/
def Eng.panFill (e : Eng) : Eng :=
  let h := e.pan.held
  h.foldl (fun e c => e.panPut c) { e with pan := { e.pan with held := [] } }

/-- Partition charged for a group's moves: its sibling's, which the draw RQID of the group's key carries (R259, R403), or the instance owner's
for a shared group. -/
def Eng.grpPid (e : Eng) (g : Grp) : Nat := if g.kind = 1 then (e.inst g.inst).owner else rqPid (g.key % two32)

/-- RQID charged for a group's moves. -/
def Eng.grpRqid (e : Eng) (g : Grp) : Nat :=
  if g.kind = 1 then 0
  else match e.rc g.owner with
    | some r => r.rqid
    | none => 0

/-- Format that a group takes in a tier (R281, R309). -/
def Eng.tierFmt (e : Eng) (i tier : Nat) : Nat :=
  let kv := (e.instModel i).kvFmt
  let c := e.av F.SHV_INST_CELLAR_FMT i
  if tier = 2 then (if fmtBytes c = 0 then kv else c) else kv

/-- The MOVE command of a group. -/
def Eng.moveCmd (e : Eng) (b : Nat) (g : Grp) (dest addr : Nat) (demand : Bool) : PanCmd :=
  { kind := 1, demand, srcFmt := g.fmt, dstFmt := e.tierFmt g.inst dest, srcTier := g.tier, dstTier := dest,
    pid := e.grpPid g, mid := (e.inst g.inst).mid, inst := g.inst, group := b, lm1 := e.shvL g.inst - 1, dstAddr := addr,
    pieces := e.shvL g.inst, rqid := e.grpRqid g, own := decide (g.kind ≠ 1) && (e.rc g.owner).isSome }

/-- The block that a record about a group's Cellar move names, with a sibling that holds it. A group that no sibling holds is named by
the hash of its prefix entry (assumption log 53). -/
def Eng.cellarRec (e : Eng) (b : Nat) (g : Grp) (kind : Nat) : ShvRec :=
  let hs := e.holders b
  match e.rc (if hs.contains g.owner then g.owner else hs.headD 0xFFFFFF) with
  | some r => { kind, sib := r.sib, gen := r.gen, rqid := r.rqid, a := g.block }
  | none => { kind, a := g.block, hash := g.key }

/-- Start the move of a group (R284, R287); the followers of the lead are told of a Cellar move (R290). -/
def Eng.moveStart (e : Eng) (b : Nat) (g : Grp) (dest : Nat) (demand : Bool) : Eng :=
  let f := (e.works 6).fresh
  let addr := f.1.toNat / 4096 * 4096
  let e := f.2.setGrp b { g with state := 2, dest, destAddr := addr, retried := false }
  let far := decide (dest = 2 ∨ g.tier = 2)
  let r := e.cellarRec b g (if dest = 2 then 7 else 8)
  let e := if far then e.shvTell g.inst r else e
  let wait := if far && (e.inst g.inst).lead then e.others g.inst else []
  e.panIssue (e.moveCmd b g dest addr demand) { what := 0, grp := b, src := r.rqid, slot := r.sib, gen := r.gen, dest, waiting := wait }

/-- Candidates of a tier move in HEAT order. -/
def Eng.moveCands (e : Eng) (i tier : Nat) (ok : Nat → Grp → Bool) : List (Nat × Grp) :=
  osort (fun a b => decide (a.2.heat ≤ b.2.heat))
    (e.shv.groups.filter (fun p => decide (p.2.inst = i ∧ p.2.tier = tier ∧ p.2.state = 1 ∧ p.2.kind ≠ 2) && ok p.1 p.2))

/-- Demote Shelf groups, oldest first, until free Shelf would exceed SHELF_HIGH / 256 (R282): `leaving` bytes are on their way out of
what the groups occupy, which may be more than the region (R635). -/
def shelfDown (e : Eng) (i : Nat) (leaving : Nat) (l : List (Nat × Grp)) : Eng :=
  match l with
  | [] => e
  | p :: r =>
    if e.shelfSize i * e.av F.SHV_WM_SHELF_HIGH < (e.shelfSize i - (e.shelfUsed i - leaving)) * 256 then e
    else shelfDown (e.moveStart p.1 p.2 1 false) i (leaving + e.groupBytes i) r

/-- Demote cold Store groups to Cellar, oldest first, until resident use is at most QUOTA_LOW / 256 of Q (R282); with the
allowance full, shared groups that the table alone holds are evicted. -/
def cellarDown (e : Eng) (i : Nat) (leaving : Nat) (l : List (Nat × Grp)) : Eng :=
  match l with
  | [] => e
  | p :: r =>
    if (e.resUse i - leaving) * 256 ≤ e.av F.SHV_WM_QUOTA_LOW * e.quota i then e
    else if e.cellarUse i + leaving < e.av F.SHV_INST_CELLAR_BLOCKS i then
      cellarDown (e.moveStart p.1 p.2 2 false) i (leaving + 1) r
    else if p.2.kind = 1 ∧ p.2.ref = 1 then
      cellarDown (match e.pfxOf p.1 with
        | some x => e.pfxDrop x
        | none => e) i leaving r
    else cellarDown e i leaving r

/-- Groups of an instance on their way to a tier. -/
def Eng.movingTo (e : Eng) (i src dest : Nat) : Nat :=
  sumBy (fun (p : Nat × Grp) => b2n (decide (p.2.inst = i ∧ p.2.state = 2 ∧ p.2.tier = src ∧ p.2.dest = dest))) e.shv.groups

/-- Start the moves that the triggers of R282 call for, Shelf to Store and Store to Cellar. A follower starts no Cellar move
(R290). -/
def Eng.balanceNow (e : Eng) (i : Nat) : Eng :=
  if !e.fb F.SHV_CTL_EN then e
  else
    let e :=
      if e.shelfUsed i ≠ 0 ∧ e.shelfFree i * 256 < e.shelfSize i * e.av F.SHV_WM_SHELF_LOW + b2n (decide (e.shelfSize i < e.shelfUsed i)) then
        shelfDown e i (e.movingTo i 0 1 * e.groupBytes i)
          (e.moveCands i 0 (fun b g => g.full || (decide (g.pin = 0) && e.cold b g)))
      else e
    if (e.inst i).lead && decide (e.av F.SHV_INST_CELLAR_BLOCKS i ≠ 0)
        && decide (e.av F.SHV_WM_QUOTA_HIGH * e.quota i < e.resUse i * 256) then
      cellarDown e i (e.movingTo i 1 2) (e.moveCands i 1 (fun b g => decide (g.pin = 0) && e.cold b g))
    else e

/-- Promotions from Store to Shelf at an edge, newest first (R282). -/
def shelfUp (e : Eng) (i : Nat) (n : Nat) (l : List (Nat × Grp)) : Eng :=
  match n, l with
  | 0, _ => e
  | _, [] => e
  | k + 1, p :: r =>
    if e.shelfFree i < e.groupBytes i ∨ e.shelfFree i * 256 ≤ e.shelfSize i * e.av F.SHV_WM_SHELF_HIGH then e
    else shelfUp (e.moveStart p.1 p.2 0 false) i k r

/-- The Store to Shelf moves of an instance's edge. -/
def Eng.edgePromote (e : Eng) (i : Nat) : Eng :=
  if !e.fb F.SHV_CTL_EN || decide (e.shelfSize i = 0) then e
  else shelfUp e i (e.av F.SHV_PROMOTE_MAX)
    (e.moveCands i 1 (fun b g => g.full || (decide (g.pin = 0) && e.cold b g))).reverse

/-- The Store to Cellar rule of R282 for an instance that this engine leads. -/
def Eng.cellarRule (e : Eng) (i : Nat) : Eng :=
  if (e.inst i).lead && decide (e.av F.SHV_INST_CELLAR_BLOCKS i ≠ 0) then
    cellarDown e i (e.movingTo i 1 2) (e.moveCands i 1 (fun b x => decide (x.pin = 0) && e.cold b x))
  else e

/-- Promote a group from Cellar (R283): while the quota has no room for it, the Store to Cellar rule makes room first; where that starts
nothing, prefix entries that nobody holds are evicted (R276). -/
def Eng.promote (e : Eng) (b : Nat) (g : Grp) : Eng :=
  if e.resUse g.inst < e.quota g.inst then (e.moveStart b g 1 true).balance g.inst
  else
    let e := e.cellarRule g.inst
    let e := if e.movingTo g.inst 1 2 = 0 then evictFor e g.inst 1 e.shv.pfx.length else e
    if e.resUse g.inst < e.quota g.inst then (e.moveStart b g 1 true).balance g.inst else e

/-- Promote the Cellar groups of a sibling (R274, R282, R283), as far as there is room. -/
def Eng.recallSib (e : Eng) (s : Nat) : Eng :=
  match e.smap s with
  | none => e
  | some m =>
    if !e.fb F.SHV_CTL_EN then e
    else m.blocks.foldl (fun e b =>
      match e.grp b.2 with
      | some g => if g.tier = 2 ∧ g.state = 1 then e.promote b.2 g else e
      | none => e) e

/-- A trigger of R282 for the Cellar groups of a sibling: it joins those that wait. -/
def Eng.recall (e : Eng) (s : Nat) : Eng :=
  if e.away s = 0 then e
  else
    let e := if e.shv.recalls.contains s then e else { e with shv := { e.shv with recalls := e.shv.recalls ++ [s] } }
    e.recallAll

/-- Promote for the siblings that wait, in the order of their triggers (R282, R283); those that sleep again or have nothing in Cellar any
more wait no longer. -/
def Eng.recallNow (e : Eng) : Eng :=
  let l := e.shv.recalls.filter (fun s => !e.sleeping s && decide (e.away s ≠ 0))
  l.foldl Eng.recallSib { e with shv := { e.shv with recalls := l } }

/-- A move that has failed with the source intact is tried once more (R287), where R282 still allows it: a promotion from Cellar always, another
move for a FULL group on the chip's own tiers or a cold one without pins. -/
def Eng.retryMove (e : Eng) (b dest : Nat) : Eng :=
  match e.grp b with
  | none => e
  | some g =>
    if g.state ≠ 1 then e
    else if g.tier = 2 || (g.full && decide (dest ≠ 2)) || (decide (g.pin = 0) && e.cold b g) then
      (e.moveStart b g dest (decide (g.tier = 2))).modGrp b (fun x => { x with retried := true })
    else e.setGrp b { g with retried := false }

/-- The moves that wait to be tried once more start again. -/
def Eng.retryMoves (e : Eng) : Eng :=
  let l := e.shv.retries
  l.foldl (fun e x => e.retryMove x.1 x.2) { e with shv := { e.shv with retries := [] } }

/-- The move starts of a tick (R288): moves tried again and recalls first, then the moves of the instances whose triggers have stood in it. They
wait while a domain of the Shelver is WAKING (R566). -/
def Eng.moveTick (e : Eng) : Eng :=
  if e.fb F.SHV_CTL_EN && !(e.domOn 8 && e.domOn 9) then e
  else
  let due := e.shv.recallDue
  let l := e.shv.balances
  let e := { e with shv := { e.shv with recallDue := false, balances := [] } }
  l.foldl Eng.balanceNow (if due then e.retryMoves.recallNow else e.retryMoves)

/-! ### Maps -/

/-- The map nodes of a map. -/
def SMap.nodeList (m : SMap) : List Nat := m.root.toList ++ m.leaves.map (fun p => p.2)

/-- The map nodes in use. -/
def Eng.nodesTaken (e : Eng) : List Nat :=
  e.shv.maps.flatMap (fun p => p.2.nodeList) ++ e.shv.fdir.flatMap (fun x => x.2.2.2.nodeList)

/-- The `n` lowest map nodes that are not in use, rising (assumption log 54). -/
def Eng.newNodes (e : Eng) (n : Nat) : List Nat :=
  let u := e.nodesTaken
  ((List.range (u.length + n)).filter (fun k => !u.contains k)).take n

/-- The lowest map node that is not in use. -/
def Eng.newNode (e : Eng) : Nat := (e.newNodes 1).headD 0

/-- Count `n` map nodes as in use, `resv` of them from reservations. -/
def Eng.nodesCount (e : Eng) (n resv : Nat) : Eng :=
  let u := e.shv.nodesUsed + n
  { e with shv := { e.shv with nodesUsed := u, nodesResv := e.shv.nodesResv - resv, nodesTop := max e.shv.nodesTop u } }

/-- Take a map node for a request: from its reservation, else from the pool (R636). -/
def Eng.takeNode (e : Eng) (first : Nat) : Option (Nat × Eng) :=
  match e.smap first with
  | none => none
  | some m =>
    if 0 < m.nodes then some (e.newNode, (e.setMap first { m with nodes := m.nodes - 1 }).nodesCount 1 1)
    else if 0 < e.nodesFree then some (e.newNode, e.nodesCount 1 0)
    else none

/-- Name a group for a block in a sibling's map, with a leaf if the range has none (R262). -/
def Eng.mapPut (e : Eng) (s first block g : Nat) : Option Eng :=
  match e.smap s with
  | none => none
  | some m =>
    if (tget m.leaves (block / 512)).isSome then some (e.setMap s { m with blocks := tput m.blocks block g })
    else
      match e.takeNode first with
      | none => none
      | some (n, e) => some (e.modMap s (fun m => { m with leaves := tput m.leaves (block / 512) n, blocks := tput m.blocks block g }))

/-- The further siblings of a request that prefill of themselves: after a takeover, where tokens are to be replayed (R598). -/
def Eng.replayers (e : Eng) (first : Nat) : List Nat :=
  ((e.sibs first).drop 1).filter (fun s => (e.rc s).any (fun r => decide (r.state < 9 ∧ r.replay ≠ 0) && !r.shared))

/-- Give a sibling that replays a map of its own, with a root from its request's reservation (R598, R636). -/
def Eng.ownRoot (e : Eng) (first s : Nat) : Eng :=
  match e.takeNode first with
  | none => e
  | some (n, e) => (e.setMap s { root := some n }).modRc s (fun r => { r with crateRoot := n, rootV := true })

/-- Reserve for an admitted request (R155, R268, R636): blocks and map nodes in the first record's word, sibling 0's root, and
the match to come. A further sibling that replays has a root of its own (R598). -/
def Eng.reserve (e : Eng) (first b nodes : Nat) : Eng :=
  let e := evictFor e (e.slotInst first) b e.shv.pfx.length
  let e := { e with shv := { e.shv with nodesResv := e.shv.nodesResv + nodes } }
  let e := e.setMap first { resv := b, nodes, matching := true }
  match e.takeNode first with
  | none => e
  | some (n, e) =>
    let e := e.modMap first (fun m => { m with root := some n })
    let e := e.modRc first (fun r => { r with crateRoot := n, rootV := true })
    let e := (e.replayers first).foldl (fun e s => e.ownRoot first s) e
    match e.rc first with
    | some r => e.shvTell r.inst { kind := 1, gen := r.gen, rqid := r.rqid, a := b }
    | none => e

/-- The first record's slot of a sibling. -/
def Eng.firstOf (e : Eng) (s : Nat) : Nat :=
  match e.rc s with
  | some r => rqSlot r.rqid
  | none => s

/-- Take one block of a request's reservation, or of the quota (R269); none where neither can supply it. -/
def Eng.takeBlock (e : Eng) (i first : Nat) : Option Eng :=
  match e.smap first with
  | none => if e.resUse i < e.quota i then some e else none
  | some m =>
    if 0 < m.resv then some (e.setMap first { m with resv := m.resv - 1 })
    else if e.resUse i < e.quota i then some e
    else none

/-- Return what is left of a request's reservation when its last sibling drops its holdings (R270, R636). -/
def Eng.dropReservation (e : Eng) (first : Nat) : Eng :=
  match e.smap first with
  | none => e
  | some m => { e with shv := { e.shv with maps := tdel e.shv.maps first, nodesResv := e.shv.nodesResv - m.nodes } }

/-- Drop all the holdings of a sibling that has ended (R270), and the rest of the request's reservation when `last`. The first
record's word keeps the reservation until then. -/
def Eng.dropHoldings (e : Eng) (s : Nat) (last : Bool) : Eng :=
  match e.rc s with
  | none => e
  | some r =>
    let first := rqSlot r.rqid
    let e := match e.smap s with
      | none => e
      | some m =>
        let e := m.blocks.foldl (fun e b => e.dropRef b.2) e
        let e := match m.draft0 with
          | some g => e.dropRef g
          | none => e
        let e := match m.draft1 with
          | some g => e.dropRef g
          | none => e
        let used := if m.root = none then 0 else 1 + m.leaves.length
        let e := { e with shv := { e.shv with nodesUsed := e.shv.nodesUsed - used } }
        let e := e.shvTell r.inst { kind := 6, sib := r.sib, gen := r.gen, rqid := r.rqid }
        (if s = first then e.setMap s { resv := m.resv, nodes := m.nodes } else { e with shv := { e.shv with maps := tdel e.shv.maps s } }).recallAll
    if !last then e
    else if (e.smap first).isSome then (e.dropReservation first).recallAll
    else e

/-! ### The match (R273, R274) -/

/-- The matched prefix of a prompt: indices and entries of blocks 0, 1, 2 and so on. -/
def matchRun (e : Eng) (mid dom : Nat) (prev parent : Nat) (toks : List Nat) (fuel : Nat) : List (Nat × Pfx) :=
  match fuel with
  | 0 => []
  | k + 1 =>
    let h := blockHash prev mid dom (toks.take 64)
    match e.pfxFind h mid dom parent (toks.take 64) with
    | none => []
    | some (i, p) =>
      match e.grp p.group with
      | some g => if 65535 ≤ g.ref then [] else (i, p) :: matchRun e mid dom h i (toks.drop 64) k
      | none => []

/-- The hash of every whole block of a prompt, in order. -/
def hashRun (mid dom prev : Nat) (toks : List Nat) (fuel : Nat) : List Nat :=
  match fuel with
  | 0 => []
  | k + 1 =>
    let h := blockHash prev mid dom (toks.take 64)
    h :: hashRun mid dom h (toks.drop 64) k

/-- Hold the matched groups for sibling 0, from block `k` on. -/
def holdRun (e : Eng) (s first k : Nat) (l : List (Nat × Pfx)) : Eng :=
  match l with
  | [] => e
  | p :: r =>
    let e := e.modGrp p.2.group (fun g => { g with ref := g.ref + 1, heat := e.now })
    holdRun ((e.mapPut s first k p.2.group).getD e) s first (k + 1) r

/-- A block's group becomes the shared group of the entry at index `i` (R275). -/
def Eng.pfxEnter (e : Eng) (i : Nat) (r : LRec) (block b mid dom hash parent : Nat) (toks : List Nat) : Eng :=
  let e := { e with shv := { e.shv with pfx := tput e.shv.pfx i { hash, group := b, parent, mid, domain := dom, toks } } }
  let e := e.modGrp b (fun g => { g with kind := 1, full := true, key := hash, ref := g.ref + 1, heat := e.now })
  e.shvTell r.inst { kind := 3, sib := r.sib, gen := r.gen, rqid := r.rqid, a := block, b := parent, hash }

/-- Enter a private group of a request in the prefix table (R275): the block's index and hash, its parent's entry. Where its bucket has no
way, an entry is evicted for it at the end of the tick, after the tick's matches (R276): `upto` is then the end of the positions written, and
none at that end. -/
def Eng.insertBlock (e : Eng) (s block : Nat) (mid dom hash parent : Nat) (toks : List Nat) (upto : Option Nat) : Eng :=
  match e.smap s, e.rc s with
  | some m, some r =>
    match tget m.blocks block with
    | none => e
    | some b =>
      match e.grp b with
      | none => e
      | some g =>
        if g.kind ≠ 0 ∨ g.state ≠ 1 then e
        else
          let bucket := e.pfxBucket hash
          let twin := bucket.any (fun i => match tget e.shv.pfx i with
            | some p => decide (p.hash = hash ∧ p.mid = mid ∧ p.domain = dom ∧ p.toks = toks)
            | none => false)
          if twin then e
          else
            let way := match bucket.find? (fun i => (tget e.shv.pfx i).isNone) with
              | some i => some i
              | none => leastBy (fun i => match tget e.shv.pfx i with
                  | some p => e.heatOf p.group
                  | none => 0) (bucket.filter (fun i => match tget e.shv.pfx i with
                  | some p => e.pfxIdle p
                  | none => false))
            match way, upto with
            | none, _ => e
            | some i, some u =>
              if (tget e.shv.pfx i).isSome then
                { e with shv := { e.shv with late := e.shv.late ++ [(s, 64 * block, u - 64 * block)] } }
              else e.pfxEnter i r block b mid dom hash parent toks
            | some i, none => (e.pfxDrop i).pfxEnter i r block b mid dom hash parent toks
  | _, _ => e

/-! ### Pins (R213, R264, R269, R287) -/

/-- A group by block of a sibling's map. -/
def Eng.blockGrp (e : Eng) (s block : Nat) : Option Nat :=
  match e.smap s with
  | some m => tget m.blocks block
  | none => none

/-- The sibling whose map a slot of sibling `s` uses for a block: before the split, sibling 0's for the blocks that lie wholly
within the prompt (R264, R277), which the sibling never writes. -/
def Eng.mapOf (e : Eng) (s block : Nat) : Nat :=
  match e.rc s with
  | some r => if r.shared ∧ 64 * (block + 1) ≤ r.promptLen then rqSlot r.rqid else s
  | none => s

/-- A sibling other than 0 whose request's LAST row has not committed: it has no map or sibling word of its own (R264). -/
def Eng.unsplit (e : Eng) (s : Nat) : Bool :=
  match e.rc s with
  | some r => r.shared && decide (s ≠ rqSlot r.rqid)
  | none => false

/-- Pin one group: refused while it is MOVING or gone. -/
def Eng.pinGrp (e : Eng) (g : Nat) : Option Eng :=
  match e.grp g with
  | none => none
  | some x => if x.state = 1 then some (e.setGrp g { x with pin := x.pin + 1, heat := e.now }) else none

/-- Pin, allocating where the map names no group, every block from `b` on for `n` blocks. Answers the groups pinned. -/
def pinBlocks (e : Eng) (s first i b : Nat) (n : Nat) : Option (List Nat × Eng) :=
  match n with
  | 0 => some ([], e)
  | k + 1 =>
    let got : Option (Nat × Eng) :=
      match e.blockGrp s b with
      | some g => some (g, e)
      | none =>
        match e.takeBlock i first, e.rc s with
        | some e, some r =>
          let x := e.newGroup i 0 (privKey r b) b s false
          (x.2.mapPut s first b x.1).map (fun e => (x.1, e))
        | _, _ => none
    match got with
    | none => none
    | some (g, e) =>
      match e.pinGrp g with
      | none => none
      | some e => (pinBlocks e s first i (b + 1) k).map (fun x => (g :: x.1, x.2))

/-- The crates of a group by layer group: the crate of rank k among the chip's layer groups in ascending order is the base plus k (R255). -/
def Eng.lgRanks (e : Eng) (i : Nat) : List (Nat × Nat) :=
  (osort (fun a b => decide (a ≤ b)) (e.shvi i).lgs).zip (List.range (e.shvL i))

/-- The crate IDs and tiers of a group as crate-list entries (R212), one per layer group. -/
def Eng.entsOf (e : Eng) (g block use : Nat) : List CrateEnt :=
  match e.grp g with
  | none => []
  | some x => (e.lgRanks x.inst).map (fun p =>
      { crate := g + p.2, lg := p.1, block := if use = 0 then block else 0, tier := x.tier, use })

/-- A void crate-list entry (R212). -/
def voidEnt (c : CrateEnt) : CrateEnt := { c with tier := 3 }

/-- A split copy is in flight for a group, as source or destination (R279, R322). -/
def Eng.splitting (e : Eng) (g : Nat) : Bool := e.shv.ops.any (fun p => decide (p.2.what = 1 ∧ (p.2.grp = g ∨ p.2.src = g)))

/-- Whether the Shelver can pin a sibling (R264), its blocks from `b` for `n`: nothing away, no match running, no group
moving, and a group for every block it writes. Until the commit of the LAST row a further sibling is judged by sibling 0's map and word. -/
def Eng.canPin (e : Eng) (s b n : Nat) : Bool :=
  match e.rc s with
  | none => false
  | some r =>
    let first := rqSlot r.rqid
    let t := if r.shared then first else s
    match e.smap t with
    | none => false
    | some m =>
      let miss := ((List.range n).filter (fun k => (e.blockGrp (e.mapOf s (b + k)) (b + k)).isNone)).length
      let resv := match e.smap first with
        | some f => f.resv
        | none => 0
      e.fb F.SHV_CTL_EN && decide (e.away t = 0) && !m.matching
        && (List.range n).all (fun k => match e.blockGrp (e.mapOf s (b + k)) (b + k) with
          | some g => (match e.grp g with
            | some x => decide (x.state = 1)
            | none => false)
          | none => true)
        && decide (miss ≤ resv + (e.quota r.inst - e.resUse r.inst))

/-! ### Draft groups (R191, R280) -/

/-- Give a sibling a draft index and its two draft groups, if both can be had. R191 does not say which free index is given: the model's choice
is that indices never given come first, ascending from 0, then the freed ones in the order of their return (DESIGN CHOICE, assumption log
75). -/
def Eng.giveDraft (e : Eng) (s : Nat) : Eng :=
  match e.rc s, e.smap s with
  | some r, some m =>
    let cap := min 131072 (e.fv F.CMP_DRAFT_COUNT_COUNT)
    let idx := if e.cmp.draftFresh < cap then some e.cmp.draftFresh else e.cmp.draftFreed.head?
    match idx with
    | none => e
    | some d =>
      if r.draftV ∨ e.quota r.inst < e.resUse r.inst + 2 ∨ !e.fb F.SHV_CTL_EN then e
      else
        let e := if e.cmp.draftFresh < cap then { e with cmp := { e.cmp with draftFresh := d + 1 } }
          else { e with cmp := { e.cmp with draftFreed := e.cmp.draftFreed.drop 1 } }
        let k := drawRqid r.rqid r.drawSlot + 2 ^ 32 * r.sib
        let a := e.newGroup r.inst 2 k 0 s false
        let b := a.2.newGroup r.inst 2 (k + 2 ^ 38) 0 s true
        let e := b.2.setMap s { m with draft0 := some a.1, draft1 := some b.1 }
        let e := { e with smp := { e.smp with drafts := tdel (tdel e.smp.drafts (2 * d)) (2 * d + 1) } }
        (e.setRc s { r with draft := d, draftV := true }).balance r.inst
  | _, _ => e

/-- Take a sibling's draft index and groups back. -/
def Eng.dropDraft (e : Eng) (s : Nat) : Eng :=
  match e.rc s with
  | none => e
  | some r =>
    if r.draftV then
      let e := { e with cmp := { e.cmp with draftFreed := e.cmp.draftFreed ++ [r.draft] } }
      let e := match e.smap s with
        | some m =>
          let e := match m.draft0 with
            | some g => e.dropRef g
            | none => e
          let e := match m.draft1 with
            | some g => e.dropRef g
            | none => e
          e.setMap s { m with draft0 := none, draft1 := none }
        | none => e
      e.modRc s (fun r => { r with draftV := false, draft := 0, copyN := 0, dsetLast := false })
    else e

end Sys2Proof.Machine
end

