-- ==== Sys2Proof/Machine/Led.lean ====
section
/-!
DEFINITION. The Ledger's operations (spec/04_ledger_and_admission.md R126 to R151): slots, hot records, history pages, mirrors
of durable fields (spec/18 R587 to R591), completion records, and the ending of siblings.
-/
namespace Sys2Proof.Machine

/-! ### Slots and hot records -/

/-- Hot places: those that a buddy's mirrors take are not the Ledger's (spec/18 R593, "Redundancy by scale"). -/
def Eng.hotCap (e : Eng) : Nat :=
  if e.ras.ring.chip.isSome then 112640 else if e.ras.sled.chip.isSome then 122880 else 131072

/-- A record that must stay hot (R129). -/
def Eng.pinnedHot (e : Eng) (s : Nat) : Bool :=
  match e.rc s with
  | some r => decide (3 ≤ r.state ∧ r.state ≤ 6)
  | none => false

/-- Hot places that are free or can be freed by spilling (R130, R162). -/
def Eng.hotRoom (e : Eng) : Nat := e.hotCap - (e.led.hot.filter e.pinnedHot).length

/-- The list without its last element that may be spilled (R129). -/
def spillOne (e : Eng) (l : List Nat) : List Nat :=
  match l.reverse.find? (fun s => !e.pinnedHot s) with
  | some s => l.filter (fun x => decide (x ≠ s))
  | none => l

/-- The list with its least recently used elements spilled until at most `cap` are left, or only pinned ones (R129). -/
def spillTo (e : Eng) (cap : Nat) (l : List Nat) (fuel : List Nat) : List Nat :=
  match fuel with
  | [] => l
  | _ :: r => if l.length ≤ cap then l else spillTo e cap (spillOne e l) r

/-- Hot records beyond the places that are left to them are spilled (R129, R593). -/
def Eng.trimHot (e : Eng) : Eng := { e with led := { e.led with hot := spillTo e e.hotCap e.led.hot e.led.hot } }

/-- A record is read or written (R128, R129, R565): its bank is in use, and a hot record is the most recently used. -/
def Eng.recUse (e : Eng) (s : Nat) : Eng :=
  let e := if e.fb F.LED_CTL_EN then e.wake (1 + s % 4) else e
  let h := e.led.hot
  if h.contains s then { e with led := { e.led with hot := s :: h.filter (fun x => decide (x ≠ s)) } } else e

/-- Make a record hot, or note its use (R129, R130). R129 does not say what happens to a record that enters a pinned state while no hot place
can be freed: the model's choice is that it stays in its home line (DESIGN CHOICE, assumption log 70). Nor does R128 say whether the 131,072
places are 32,768 for each bank: the model's choice is that they are one pool of the engine (DESIGN CHOICE, assumption log 74). -/
def Eng.touch (e : Eng) (s : Nat) : Eng :=
  let e := e.recUse s
  let h := e.led.hot
  if h.contains s then e
  else
    let h := spillTo e (e.hotCap - 1) h h
    if h.length < e.hotCap then { e.works 2 with led := { e.led with hot := s :: h } } else e

/-- Slots in use. -/
def Eng.ledCap (e : Eng) : Nat := e.fv F.LED_CAP_CAP

/-- Free slots (R114: none while LED_CTL.EN is clear). -/
def Eng.slotsFree (e : Eng) : Nat :=
  if e.fb F.LED_CTL_EN then (e.ledCap - e.led.fresh) + e.led.freed.length else 0

/-- The next generation of a slot (R16). -/
def nextGen (g : Nat) : Nat := if 0xFFFF ≤ g then 1 else g + 1

/-- Take the slot at the head of the free list (R132) and advance its GEN (R16). The spec gives the list no first order: the model's choice
is that slots never allocated come first, ascending from slot 0 (assumption log 58); nor does it say what becomes of freed slots at or above
a LED_CAP.CAP that has been lowered: the model hands them out as any other (DESIGN CHOICE, assumption log 70). -/
def Eng.takeSlot (e : Eng) : Option (Nat × Nat × Eng) :=
  let pick : Option (Nat × Eng) :=
    if e.led.fresh < e.ledCap then some (e.led.fresh, { e with led := { e.led with fresh := e.led.fresh + 1 } })
    else match e.led.freed with
      | [] => none
      | s :: r => some (s, { e with led := { e.led with freed := r } })
  pick.map (fun p =>
    let g := nextGen (tgetD e.led.gens p.1 0)
    (p.1, g, { p.2 with led := { p.2.led with gens := tput p.2.led.gens p.1 g } }))

/-- Take `n` slots in order. -/
def takeSlots (e : Eng) (n : Nat) : Option (List (Nat × Nat) × Eng) :=
  match n with
  | 0 => some ([], e)
  | k + 1 =>
    match e.takeSlot with
    | none => none
    | some (s, g, e) => (takeSlots e k).map (fun x => ((s, g) :: x.1, x.2))

/-! ### History pages (R135, R136, R631, R637) -/

/-- Pages in the free list. -/
def Eng.pagesListed (e : Eng) : Nat := (e.led.pageCount - e.led.pageFresh) + e.led.pageFreed.length

/-- Free pages: listed and not reserved (R631). -/
def Eng.pagesFree (e : Eng) : Nat := e.pagesListed - e.led.pagesReserved

/-- Take the page at the head of the list. -/
def Eng.takePage (e : Eng) : Option (Nat × Eng) :=
  if e.led.pageFresh < e.led.pageCount then
    some (e.led.pageFresh, { e with led := { e.led with pageFresh := e.led.pageFresh + 1 } })
  else match e.led.pageFreed with
    | [] => none
    | p :: r => some (p, { e with led := { e.led with pageFreed := r } })

/-- Take `n` pages in order. -/
def takePages (e : Eng) (n : Nat) : List Nat × Eng :=
  match n with
  | 0 => ([], e)
  | k + 1 =>
    match e.takePage with
    | none => ([], e)
    | some (p, e) => let x := takePages e k; (p :: x.1, x.2)

/-- Store address of a history page. -/
def Eng.pageAddr (e : Eng) (p : Nat) : Nat := e.pairv 0x2010 + 4096 * p

/-- Pages of a number of tokens. -/
def tokenPages (n : Nat) : Nat := cdiv n 1020

/-- Store byte address of the word of prompt position `p` (R135, R210). -/
def Eng.promptWord (e : Eng) (first p : Nat) : Nat :=
  match e.rc first with
  | some r =>
    match r.promptPages[p / 1020]? with
    | some g => e.pageAddr g + 4 * (p % 1020)
    | none => 0
  | none => 0

/-- Append a committed token to a sibling's history, with a page from its reservation when the chain needs one. -/
def Eng.histPut (e : Eng) (s t : Nat) : Eng :=
  let l := tgetD e.led.gent s []
  let e := { e with led := { e.led with gent := tput e.led.gent s (l ++ [t]) } }
  if l.length % 1020 = 0 then
    match e.rc s, e.takePage with
    | some r, some (p, e) =>
      let had := decide (0 < r.pagesResv)
      let e := { e with led := { e.led with pagesReserved := e.led.pagesReserved - b2n had } }
      e.setRc s { r with pages := r.pages ++ [p], pagesResv := r.pagesResv - b2n had, hist := if r.hist = 0 then e.pageAddr p else r.hist }
    | _, _ => e
  else e

/-! ### Mirroring (spec/18 R587 to R593) -/

/-- Mirroring is on (R587); a stride of 0 disables it. -/
def Eng.mirrorOn (e : Eng) : Bool :=
  e.fb F.RAS_MIRROR_CTL_EN && e.raf.mapLoaded && decide (e.fv F.RAS_SHADOW_STRIDE_GIB ≠ 0)

/-- The parameter block of a request, by its first slot. -/
def Eng.param (e : Eng) (first : Nat) : SubDesc := subOf ((tget e.led.params first).getD 0)

/-- The stack line of a slot (spec/10 R373): 64 bytes, the bottom symbol first. -/
def Eng.stackLine (e : Eng) (s : Nat) : Nat :=
  sumBy (fun (p : Nat × Nat) => p.2 % 256 * 256 ^ p.1) ((List.range 64).zip (tgetD e.siv.pdaStacks s []))

/-- The words of a MIRROR entry (R545). -/
def Eng.mirrorWords (e : Eng) (s : Nat) (r : LRec) (stack : Bool) : List Nat :=
  [s + 2 ^ 24 * b2n stack] ++ toWords 16 (r.bits true) ++ (if stack then toWords 8 (e.stackLine s) else [])

/-- Charge bytes to a partition's Cellar bucket without an account (R589). -/
def Eng.cellarLevel (e : Eng) (p n : Nat) : Eng :=
  if e.av F.KPR_PART_CELLAR_RATE_RATE p = 0 then e
  else e.modPart p (fun k => { k with cellar := levelSub k.cellar n })

/-- Send a MIRROR frame of a record to one buddy. -/
def Eng.mirrorTo (e : Eng) (c n s : Nat) (r : LRec) : Eng :=
  let w := e.mirrorWords s r (e.param (rqSlot r.rqid)).grammarEn
  let f : Frame := {
    typ := 0x20, dst := c, pid := rqPid r.rqid, pidV := true, inst := r.inst, arg := n, len := 8 * w.length, words := w }
  (e.send f).reqBytes (rqSlot r.rqid) 0 0 f.bytes

/-- A buddy that mirrors go to: SYNCING or CURRENT. -/
def Buddy.takes (b : Buddy) : Bool := b.chip.isSome && decide (b.state = 1 ∨ b.state = 2)

/-- Byte address of this chip's shadow in Cellar (R589). -/
def Eng.shadowBase (e : Eng) : Nat := e.pairv 0xF090 + e.self * e.fv F.RAS_SHADOW_STRIDE_GIB * 2 ^ 30

/-- Byte address of a page of the history pool in the shadow (R589). -/
def Eng.shadowPage (e : Eng) (p : Nat) : Nat := e.shadowBase + roundUp (e.ledCap * 128) (2 ^ 20) + 4096 * p

/-- The words of a bias list (R98), two to an entry. -/
def biasWords (l : List Nat) : List Nat := l.flatMap (fun v => [v % two32, v / two32 % two32])

/-- `n` 32-bit words of a number, the lowest first. -/
def halves (n v : Nat) : List Nat := (List.range n).map (fun k => v / two32 ^ k % two32)

/-- The words of a chain of history pages from word `k` on, as the shadow takes them (R135, R589): those of each page, and the address of the
page behind it where that page is among them. -/
def Eng.shadowChain (e : Eng) (pages words : List Nat) (k : Nat) : List Out :=
  ((List.range pages.length).zip pages).flatMap (fun p =>
    let lo := max k (1020 * p.1)
    let here := (words.drop lo).take (1020 * (p.1 + 1) - lo)
    let next := match pages[p.1 + 1]? with
      | some q => if k ≤ 1020 * (p.1 + 1) then [Out.shadow (e.shadowPage p.2 + 4080) (halves 2 (e.pageAddr q))] else []
      | none => []
    (if here.isEmpty then [] else [Out.shadow (e.shadowPage p.2 + 4 * (lo - 1020 * p.1)) here]) ++ next)

/-- What an entry relies on that the shadow is yet to take (R589): with `block` the parameter block, the prompt and the bias list of the request
whose first record is `s`; the last `n` words of the sibling's history. -/
def Eng.shadowOf (e : Eng) (s : Nat) (r : LRec) (block : Bool) (n : Nat) : List Out :=
  let own := tgetD e.led.gent s []
  (if block then
    Out.shadow (e.shadowBase + 128 * s) (halves 32 ((tget e.led.params s).getD 0).toNat)
      :: e.shadowChain r.promptPages (tgetD e.led.prompts s []) 0
      ++ e.shadowChain r.biasPages (biasWords (tgetD e.led.bias s [])) 0
  else []) ++ (if n = 0 then [] else e.shadowChain r.pages own (own.length - n))

/-- Bytes of the words that the shadow takes. -/
def shadowBytes (l : List Out) : Nat :=
  sumBy (fun o => match o with
    | .shadow _ w => 4 * w.length
    | _ => 0) l

/-- Write to the shadow, charged to a partition's Cellar regulator without waiting for it (R589). -/
def Eng.shadowPut (e : Eng) (p : Nat) (l : List Out) : Eng :=
  let e := e.cellarLevel p (shadowBytes l)
  { e with out := e.out ++ l }

/-- Send a record to the buddies under the next mirror number (R588), after the shadow has taken what the entry relies on (R589). A FREE record
is sent with STATE 0. -/
def Eng.mirrorRec (e : Eng) (s : Nat) (r : LRec) (block : Bool := false) (words : Nat := 0) : Eng :=
  if !e.mirrorOn then e
  else
    let n := e.raf.mirrorNo + 1
    let e := { e with raf := { e.raf with mirrorNo := n, entries := tput e.raf.entries s n } }
    let e := e.shadowPut (rqPid r.rqid) (e.shadowOf s r block words)
    let go := fun (e : Eng) (b : Buddy) =>
      match b.chip with
      | some c => if b.takes then e.mirrorTo c n s r else e
      | none => e
    let e := go (go e e.ras.sled) e.ras.ring
    let up := fun (b : Buddy) => if b.takes then { b with sent := n } else b
    { e with ras := { e.ras with sled := up e.ras.sled, ring := up e.ras.ring } }

/-- Mirror a slot's record as it stands. -/
def Eng.mirror (e : Eng) (s : Nat) (block : Bool := false) (words : Nat := 0) : Eng :=
  match e.rc s with
  | some r => e.mirrorRec s r block words
  | none => e

/-- Whether a buddy must still acknowledge the entry numbered `n` before a record of request `rqid` is written (R591, R594): a
CURRENT buddy, or a SYNCING one that has acknowledged the request's entries of the resync. -/
def Eng.buddyOwes (e : Eng) (b : Buddy) (rqid n : Nat) : Bool :=
  let synced := (e.sibs (rqSlot rqid)).all (fun s => decide (tgetD b.syncs s 0 ≤ b.acked))
  e.mirrorOn && decide (b.acked < n ∧ n ≤ b.sent) && (decide (b.state = 2) || (decide (b.state = 1) && synced))

/-- Some buddy owes the acknowledgement of entry `n`. -/
def Eng.mirrorOwed (e : Eng) (rqid n : Nat) : Bool := e.buddyOwes e.ras.sled rqid n || e.buddyOwes e.ras.ring rqid n

/-- The mirror number of the entry that covers a record (R591): the latest one of its sibling, or for a record of the whole request of any of its
siblings. -/
def Eng.coverOf (e : Eng) (v : CmpRec) : Nat :=
  let l := (e.sibs (rqSlot v.rqid)).filter (fun s => decide (v.sib = 0x3F) || (e.rc s).any (fun r => decide (r.sib = v.sib)))
  l.foldl (fun m s => max m (tgetD e.raf.entries s 0)) 0

/-- A record of the same request is in a list of held ones. -/
def heldBefore (l : List (Nat × CmpRec)) (v : CmpRec) : Bool := l.any (fun x => decide (x.2.rqid = v.rqid ∧ x.2.gen = v.gen))

/-- Write a record of a request: held while a buddy owes the acknowledgement of the entry that covers it, and behind held records of its own
request (R591). -/
def Eng.report (e : Eng) (v : CmpRec) : Eng :=
  let n := e.coverOf v
  if e.mirrorOwed v.rqid n || heldBefore e.hat.heldRecs v then
    { e with hat := { e.hat with heldRecs := e.hat.heldRecs ++ [(n, v)] } }
  else e.complete v

/-- Write the held records that wait for no acknowledgement any more, those of one request in order; `kept` still wait. -/
def releaseHeld (e : Eng) (kept l : List (Nat × CmpRec)) : Eng :=
  match l with
  | [] => { e with hat := { e.hat with heldRecs := kept } }
  | (n, v) :: r =>
    if e.mirrorOwed v.rqid n || heldBefore kept v then releaseHeld e (kept ++ [(n, v)]) r else releaseHeld (e.complete v) kept r

/-- Write every held record that is free to go. -/
def Eng.mirrorFree (e : Eng) : Eng := releaseHeld e [] e.hat.heldRecs

/-! ### Requests and siblings -/

/-- The record of the request's first slot if an RQID and GEN name a request (R14 to R17, R127, R139): its slot. -/
def Eng.named (e : Eng) (rqid gen : Nat) : Option Nat :=
  if rqid / 2 ^ 24 % 4 ≠ 0 then none
  else
    let s := rqSlot rqid
    if 0x400000 ≤ s then none
    else match e.rc s with
      | some r => if r.kind = false ∧ r.rqid = rqid ∧ r.gen = gen ∧ gen ≠ 0 then some s else none
      | none => none

/-- The ORDER record of a request, or of an order naming it. -/
def ordRec (status : Nat) (ring gen rqid tag stamp : Nat) (final : Bool := false) : CmpRec :=
  { status, final, order := true, sib := 0x3F, gen, ring, rqid, tag, stamp }

/-- Whether a slot of a step is one of a sibling: its own, or its request's prefill while it shares that (R141). -/
def slotHas (s : Nat) (r : LRec) (x : Slot) : Bool :=
  decide (x.kind ≠ 0) && (decide (x.lslot = s) || (r.shared && decide (x.lslot = rqSlot r.rqid)))

/-- Slots of an instance that bind a sibling to work not yet resolved: those of the outstanding step, and lost ones that wait
to be placed or have been (R202, R206). -/
def Inst.openSlots (x : Inst) : List Slot :=
  (match x.step with
    | some st => st.slots
    | none => []) ++ x.carried ++ (match x.comp with
    | some c => c.slots.filter (fun (y : Slot) => y.reissue)
    | none => [])

/-- A step that contains the sibling is outstanding, or a lost slot of it is still to run. -/
def Eng.inStep (e : Eng) (s : Nat) : Bool :=
  match e.rc s with
  | none => false
  | some r => (e.inst r.inst).openSlots.any (slotHas s r)

/-- A step that contains the sibling is outstanding (R243 field 13). -/
def Eng.outstanding (e : Eng) (s : Nat) : Bool :=
  match e.rc s with
  | none => false
  | some r => ((e.inst r.inst).step).any (fun st => st.slots.any (slotHas s r))

/-- The slot of the outstanding step that is the sibling's own. -/
def Eng.ownSlot (e : Eng) (s : Nat) : Option Slot :=
  match e.rc s with
  | none => none
  | some r =>
    match (e.inst r.inst).step with
    | some st => st.slots.find? (fun x => decide (x.kind ≠ 0 ∧ x.lslot = s))
    | none => none

/-- The sibling's slot of the outstanding step while its commit or loss is open. -/
def Eng.openSlot (e : Eng) (s : Nat) : Option Slot := (e.ownSlot s).filter (fun x => !x.done)

/-- Every sibling of the request has ended. -/
def Eng.allEnded (e : Eng) (first : Nat) : Bool :=
  (e.sibs first).all (fun s => match e.rc s with
    | some r => !r.live
    | none => true)

/-- Drop the holdings of an ended sibling that no outstanding step contains (R270). -/
def Eng.reap (e : Eng) (s : Nat) : Eng :=
  match e.rc s with
  | none => e
  | some r =>
    if r.live || e.inStep s then e
    else
      let first := rqSlot r.rqid
      let fin := (e.sibs first).all (fun x => match e.rc x with
        | some q => !q.live && !e.inStep x && (decide (x = s) || (e.smap x).isNone
            || (decide (x = first) && (match e.smap x with
              | some m => m.blocks.isEmpty
              | none => true)))
        | none => true)
      (e.dropDraft s).dropHoldings s fin

/-- Hand a request to the Gate: it is evaluated in Hatch fetch order, of which `seq` is its place (R168, R634). -/
def Eng.queueFresh (e : Eng) (seq first : Nat) : Eng :=
  { e with gat := { e.gat with fresh := oinsert (fun (x y : Nat × Nat) => decide (x.1 ≤ y.1)) (seq, first) e.gat.fresh } }

/-- Take a request out of the Gate's queues once no sibling of it waits there. -/
def Eng.unqueue (e : Eng) (first : Nat) : Eng :=
  let keep := (e.sibs first).any (fun s => match e.rc s with
    | some r => decide (r.state = 1)
    | none => false)
  if keep then e
  else { e with gat := { e.gat with
    deferq := e.gat.deferq.filter (fun x => decide (x ≠ first)), fresh := e.gat.fresh.filter (fun x => decide (x.2 ≠ first)) } }

/-- Put a sibling in FINISHED or CANCELLED, without a record. -/
def Eng.stopSib (e : Eng) (s state : Nat) : Eng :=
  let e := (e.recUse s).modRc s (fun r => { r with state, draftN := 0 })
  let e := e.mirror s
  let e := e.reap s
  e.unqueue (e.firstOf s)

/-- End a sibling in a FINAL record with NTOK = 0 (R144, R630). `at_` gives the stamp and step of the commit that ended it. -/
def Eng.endSib (e : Eng) (s status : Nat) (at_ : Option (Nat × Nat) := none) : Eng :=
  match e.rc s with
  | none => e
  | some r =>
    if !r.live then e
    else
      let st := at_.getD (e.now, 0)
      let e := e.stopSib s (if status = 0x19 then 10 else 9)
      e.report { status, final := true, sib := r.sib, gen := r.gen, ring := r.ring, rqid := r.rqid, tag := r.userTag,
                 stamp := st.1, step := st.2 }

/-- End a whole request in one FINAL record with SIB = 0x3F (R106, R149). -/
def Eng.endRequest (e : Eng) (first status : Nat) (order : Bool := true) : Eng :=
  match e.rc first with
  | none => e
  | some r =>
    let e := (e.sibs first).foldl (fun e s => e.stopSib s 9) e
    e.report { status, final := true, order, sib := 0x3F, gen := r.gen, ring := r.ring, rqid := r.rqid, tag := r.userTag,
               stamp := e.now }

/-- Change the state of a sibling and mirror it. -/
def Eng.setState (e : Eng) (s state : Nat) : Eng := (e.modRc s (fun r => { r with state })).mirror s

/-! ### Record accounts of partitions -/

/-- Slots held by a partition (R160). -/
def Eng.liveOf (e : Eng) (p : Nat) : Nat := tgetD e.gat.live p 0

/-- Context blocks charged to a partition (R157). -/
def Eng.ctxOf (e : Eng) (p : Nat) : Nat := tgetD e.gat.ctxUse p 0

/-- Add to a partition's slots. -/
def Eng.addLive (e : Eng) (p n : Nat) : Eng :=
  { e with gat := { e.gat with live := tsetD e.gat.live p (e.liveOf p + n) 0 } }

/-- The record of a slot as LED_PEEK shows it: QNEXT from the deferral queue (R166). The spec does not say what the other fields of a FREE
slot show: the model's choice is zeros (DESIGN CHOICE, assumption log 74). -/
def Eng.recView (e : Eng) (s : Nat) : Nat :=
  match e.rc s with
  | none => 0
  | some r =>
    let q := e.gat.deferq.filter (fun x => match e.rc x with
      | some y => decide (rqPid y.rqid = rqPid r.rqid)
      | none => false)
    let nx := match (q.dropWhile (fun x => decide (x ≠ s))).drop 1 with
      | x :: _ => x
      | [] => 0xFFFFFF
    { r with qnext := nx }.bits false

end Sys2Proof.Machine
end

