-- ==== Sys2Proof/Machine/Tier.lean ====
section
/-!
DEFINITION. The Shelver's reactions (spec/07_shelver_crates_and_tiers.md): completed moves and copies, lost groups, the split of
a request's siblings and the entry of full blocks in the prefix table.
-/
namespace Sys2Proof.Machine

/-- The steps open on the chip: composing, waiting, outstanding or armed (R284), by the numbers of their compositions. -/
def Eng.openSteps (e : Eng) : List Nat :=
  instRange.flatMap (fun i =>
    let x := e.inst i
    (match x.comp with
      | some c => [c.uid]
      | none => []) ++ (match x.step with
      | some s => [s.uid]
      | none => []))

/-- Hold the old frames of a moved group for the steps open now (R284). -/
def Eng.holdFrames (e : Eng) (b : Nat) (g : Grp) : Eng :=
  let st := e.openSteps
  if st.isEmpty then e
  else
    let f : Frames := { grp := b, inst := g.inst, tier := g.tier, addr := g.addr, bytes := e.groupBytes g.inst, steps := st }
    { e with shv := { e.shv with frames := e.shv.frames ++ [f] } }

/-- A group is taken out of every map that names it: nothing that its holders drop later touches the ID's next group (R287). -/
def Eng.unmapGrp (e : Eng) (b : Nat) : Eng :=
  let cut := fun (m : SMap) => { m with
    blocks := m.blocks.filter (fun x => decide (x.2 ≠ b))
    draft0 := if m.draft0 = some b then none else m.draft0
    draft1 := if m.draft1 = some b then none else m.draft1 }
  { e with shv := { e.shv with
      maps := e.shv.maps.map (fun p => (p.1, cut p.2))
      fdir := e.shv.fdir.map (fun x => (x.1, x.2.1, x.2.2.1, cut x.2.2.2)) } }

/-- No slot of a composition or step names a group any more: what they release later leaves the ID's next group alone (R287). -/
def Eng.unpinLost (e : Eng) (b : Nat) : Eng :=
  let cut := fun (s : Slot) => { s with pins := s.pins.filter (fun g => decide (g ≠ b)), own := s.own.filter (fun g => decide (g ≠ b)) }
  { e with cmp := { e.cmp with insts := tmap e.cmp.insts (fun _ x => { x with
    comp := x.comp.map (fun c => { c with slots := c.slots.map cut })
    step := x.step.map (fun c => { c with slots := c.slots.map cut })
    carried := x.carried.map cut }) } }

/-- A group's source is lost (R289): its holders end, its prefix entry goes, and RAS records the fault. -/
def Eng.groupLost (e : Eng) (b : Nat) (g : Grp) : Eng :=
  let hs := e.holders b
  let e := match e.pfxOf b with
    | some i => { e with shv := { e.shv with pfx := tdel e.shv.pfx i } }
    | none => e
  let e := e.capture { code := 0x033, unit := 6, inst := g.inst, addr := g.addr, pid := e.grpPid g, pidV := true }
  (hs.foldl (fun e s => e.endSib s 0x3A) (((e.unmapGrp b).unpinLost b).freeGrp b)).recallAll

/-- A follower's part of a Cellar move that the lead has started (R292): the command goes to the Pantry. A sibling waits for a promotion only
(R319). -/
def Eng.farMove (e : Eng) (b : Nat) (g : Grp) (op : ShvOp) : Eng :=
  e.panIssue { e.moveCmd b g op.dest g.destAddr (decide (op.dest ≠ 2)) with rqid := if g.kind = 1 then 0 else op.src } op

/-- The Ledger slot that stands for "no record here" in what a follower keeps. -/
def noSlot : Nat := 0xFFFFFF

/-- A tier move has ended, to the format `fmt` of its command: outcome 0 done, 1 the source lost, 2 the source intact (R287, R292). -/
def Eng.moveEnd (e : Eng) (op : ShvOp) (fmt out : Nat) : Eng :=
  match e.grp op.grp with
  | none => e
  | some g =>
    let far := decide (op.dest = 2 ∨ g.tier = 2)
    let e := if out = 0 then e.bump F.SHV_MOVES_COUNT else e
    let e := if out = 0 && far && !(e.inst g.inst).lead then
        let r : ShvRec := {
          kind := 9, sib := op.slot, gen := op.gen, rqid := op.src, a := g.block, b := b2n (decide (op.dest ≠ 2)),
          hash := if op.src = 0 then g.key else 0 }
        e.sendInst g.inst { typ := 0x18, dst := (e.inst g.inst).leadChip, len := 32, words := r.words }
      else e
    if g.state = 3 then ((e.unpinLost op.grp).freeGrp op.grp).recallAll
    else if out = 0 then
      let e := e.holdFrames op.grp g
      let e := e.setGrp op.grp { g with state := 1, tier := op.dest, addr := g.destAddr, fmt, retried := false }
      (e.balance g.inst).recallAll
    else if out = 1 then e.groupLost op.grp { g with state := 1 }
    else if g.retried then e.setGrp op.grp { g with state := 1, retried := false }
    else if (e.inst g.inst).lead || !far then
      let e := e.setGrp op.grp { g with state := 1, retried := true }
      { e with shv := { e.shv with retries := e.shv.retries ++ [(op.grp, op.dest)] } }
    else (e.setGrp op.grp { g with retried := true }).farMove op.grp g { op with here := false }

/-- Issue the split copy of a group for a sibling (R278). -/
def Eng.splitCopy (e : Eng) (s src dst i : Nat) : Eng :=
  let pid := match e.rc s with
    | some r => rqPid r.rqid
    | none => 0
  let tiers := fun (b : Nat) => match e.grp b with
    | some g => g.tier
    | none => 1
  let e := e.modMap s (fun m => { m with split := true })
  (e.panIssue
    { kind := 2, demand := true, srcTier := tiers src, dstTier := tiers dst, pid, mid := (e.inst i).mid, inst := i, group := src, dstGroup := dst, lm1 := e.shvL i - 1,
      pieces := e.shvL i, own := (e.rc s).isSome, rqid := match e.rc s with
        | some r => r.rqid
        | none => 0 }
    { what := 1, grp := dst, src, slot := s }).bump F.SHV_SPLITS_COUNT

/-- SPLIT of a followed sibling in the directory (R263, R291). -/
def Eng.fsplitBit (e : Eng) (i rqid sib : Nat) (on : Bool) : Eng :=
  match e.fmap i rqid sib with
  | some m => e.fput i rqid sib { m with split := on }
  | none => e

/-- Issue the split copy of a group for a followed sibling (R278, R291). -/
def Eng.fsplitCopy (e : Eng) (i rqid sib src dst : Nat) : Eng :=
  let tiers := fun (b : Nat) => ((e.grp b).map (fun y => y.tier)).getD 1
  ((e.fsplitBit i rqid sib true).panIssue
    { kind := 2, demand := true, srcTier := tiers src, dstTier := tiers dst, pid := rqPid rqid, mid := (e.inst i).mid, inst := i, group := src,
      dstGroup := dst, lm1 := e.shvL i - 1, pieces := e.shvL i, rqid }
    { what := 1, grp := dst, src, slot := noSlot, rqid, sib }).bump F.SHV_SPLITS_COUNT

/-- A split copy has ended. With the source intact it is issued once more, and a second failure ends the sibling. -/
def Eng.copyEnd (e : Eng) (op : ShvOp) (out : Nat) : Eng :=
  let again : Bool := match e.grp op.grp with
    | some g => !g.retried
    | none => false
  let i := ((e.grp op.grp).map (fun g => g.inst)).getD 16
  if decide (out = 2) && again then
    let e := e.modGrp op.grp (fun g => { g with retried := true })
    if op.slot = noSlot then e.fsplitCopy i op.rqid op.sib op.src op.grp else e.splitCopy op.slot op.src op.grp (e.slotInst op.slot)
  else
    let e := if op.slot = noSlot then e.fsplitBit i op.rqid op.sib false else e.modMap op.slot (fun m => { m with split := false })
    let e := e.modGrp op.grp (fun g => { g with retried := false })
    if out = 1 then
      match e.grp op.src with
      | some g => (e.groupLost op.src g).endSib op.slot 0x3A
      | none => e.endSib op.slot 0x3A
    else if out = 2 then e.endSib op.slot 0x3A
    else e

/-- The leaf ranges that blocks lie in, rising. -/
def leafRanges (l : Tab Nat) : List Nat := l.foldl (fun acc b => sinsert acc (b.1 / 512)) []

/-- Give sibling `s` its own map, a copy of sibling 0's (R277), with nodes from the request's reservation. Groups wholly beyond
the prompt, which sibling 0's own next slot may have taken, are not copied (R213; assumption log 35). -/
def Eng.copyMap (e : Eng) (first s : Nat) : Eng :=
  match e.smap first, e.rc first with
  | some m, some r =>
    let blocks := m.blocks.filter (fun b => decide (64 * b.1 < r.promptLen))
    let ranges := leafRanges blocks
    let nodes := e.newNodes (1 + ranges.length)
    let root := nodes.headD 0
    let fromResv := min nodes.length m.nodes
    let e := (e.modMap first (fun x => { x with nodes := x.nodes - fromResv })).nodesCount nodes.length fromResv
    let e := blocks.foldl (fun e b => e.modGrp b.2 (fun g => { g with ref := g.ref + 1, heat := e.now })) e
    let e := e.setMap s { root := some root, leaves := ranges.zip (nodes.drop 1), blocks }
    e.modRc s (fun r => { r with crateRoot := root, rootV := true })
  | _, _ => e

/-- Split one sibling off sibling 0's partial block (R278): a new group, from the request's reservation or the quota, and a copy into it.
Answers whether a group was found. -/
def Eng.splitOne (e : Eng) (first s block i : Nat) : Bool × Eng :=
  match e.blockGrp first block, e.rc s with
  | some src, some r =>
    match e.takeBlock i first with
    | none => (false, (e.dropRef src).modMap s (fun m => { m with blocks := tdel m.blocks block }))
    | some e =>
      let x := e.newGroup i 0 (privKey r block) block s false
      let e := (x.2.dropRef src).modMap s (fun m => { m with blocks := tput m.blocks block x.1 })
      (true, e.splitCopy s src x.1 i)
  | _, _ => (true, e)

/-- The split at the commit of a LAST row (R277, R278): answers the siblings for which no group was found. -/
def Eng.splitRequest (e : Eng) (first : Nat) : List Nat × Eng :=
  match e.rc first with
  | none => ([], e)
  | some r =>
    let others := (e.sibs first).drop 1
    let e := others.foldl (fun e s => (e.copyMap first s).mirror s) e
    let e := match others with
      | [] => e
      | _ :: _ => others.foldl (fun e s => match e.rc s with
          | some q => e.shvTell r.inst { kind := 5, sib := q.sib, gen := q.gen, rqid := q.rqid, a := r.promptLen / 64 }
          | none => e) e
    if r.promptLen % 64 = 0 then ([], e)
    else
      let x := others.foldl (fun (acc : List Nat × Eng) s =>
        let x := acc.2.splitOne first s (r.promptLen / 64) r.inst
        (if x.1 then acc.1 else acc.1 ++ [s], x.2)) (([] : List Nat), e)
      (x.1, x.2.balance r.inst)

/-- Positions [pos, pos + n) of a sibling have been written and their step has resolved: blocks that are full become FULL, and
those of the prompt enter the prefix table (R275). `atEnd`: at the end of the tick, where entries may be evicted (R276). -/
def Eng.blocksWritten (e : Eng) (s pos n : Nat) (atEnd : Bool := false) : Eng :=
  match e.rc s with
  | none => e
  | some r =>
    let first := rqSlot r.rqid
    let pid := rqPid r.rqid
    let toks := tgetD e.led.prompts first []
    let dom := e.domain pid
    let b0 := pos / 64
    let full := (List.range ((pos + n) / 64 - b0)).map (fun k => b0 + k)
    let share := decide (e.av F.SHV_PART_SHARE_SHARE_EN pid = 1)
    let hs := if full.isEmpty || !share then [] else hashRun r.mid dom 0 toks (min ((pos + n) / 64) (r.promptLen / 64))
    full.foldl (fun e b =>
      let e := match e.blockGrp s b with
        | some g => e.modGrp g (fun x => { x with full := true })
        | none => e
      if share && decide (64 * (b + 1) ≤ r.promptLen) then
        let parent : Option Nat := if b = 0 then some 0x1FFFFFF else match e.blockGrp s (b - 1) with
          | some g => e.pfxOf g
          | none => none
        match parent, hs[b]? with
        | some p, some h => e.insertBlock s b r.mid dom h p ((toks.drop (64 * b)).take 64) (if atEnd then none else some (pos + n))
        | _, _ => e
      else e) e

/-- Blocks that found no free way of their bucket enter the prefix table, once the tick's matches are done (R276). -/
def Eng.lateBlocks (e : Eng) : Eng :=
  let l := e.shv.late
  l.foldl (fun e x => e.blocksWritten x.1 x.2.1 x.2.2 true) { e with shv := { e.shv with late := [] } }

/-- Free the old frames of a group whose open steps have all resolved (R284). -/
def Eng.framesFree (e : Eng) (grp : Nat) : Eng :=
  let st := e.openSteps
  { e with shv := { e.shv with frames := e.shv.frames.filter (fun f => decide (f.grp ≠ grp) || f.steps.any (fun x => st.contains x)) } }

end Sys2Proof.Machine
end

