-- ==== Sys2Proof/Machine/Elig.lean ====
section
/-!
DEFINITION. Eligibility for composition (spec/05_batch_composition.md R180, R185) and Keeper's activity points (spec/13 R454,
R455).
-/
namespace Sys2Proof.Machine

/-! ### What a bundle sees (R242) -/

/-- A bundle is open: some of its syllables have been given as commands, and its wide syllable has not. -/
def Eng.bundleOpen (e : Eng) : Bool := !e.stw.wr.isEmpty || e.stw.target.isSome || e.stw.ending || e.stw.dmemFault

/-- What the bundle of this tick sees, where a commit or an order of the tick has come before it. -/
def Eng.seenNow (e : Eng) : Option Seen := e.stw.seen.filter (fun v => decide (v.tick = e.now) || e.bundleOpen)

/-- A commit or an order is about to be applied: the bundle of this tick does not see it (R242). -/
def Eng.noteSeen (e : Eng) : Eng :=
  match e.seenNow with
  | some _ => e
  | none => { e with stw := { e.stw with seen := some { tick := e.now, recs := e.led.recs, insts := e.cmp.insts } } }

/-! ### Eligibility (R180, R185) -/

/-- The request's LAST chunk is in the outstanding step and may still commit (R181, R185): its slot. -/
def Eng.lastOut (e : Eng) (first : Nat) : Option Slot :=
  match e.rc first with
  | none => none
  | some r =>
    match (e.inst r.inst).step with
    | some st => st.slots.find? (fun x => decide (x.kind = 2 ∧ x.lslot = first) && x.last && !x.done)
    | none => none

/-- The last position counted as the prompt's, plus 1: the prompt, and the tokens to replay after a takeover (R598). -/
def LRec.prefillEnd (r : LRec) : Nat := r.promptLen + r.replay

/-- The sibling is to decode in the next slot: it has drawn its first token, or its LAST chunk is outstanding. -/
def Eng.decodes (e : Eng) (s : Nat) : Bool :=
  match e.rc s with
  | none => false
  | some r => decide (r.state = 5 ∨ r.state = 6) || (e.lastOut (if r.shared then rqSlot r.rqid else s)).isSome

/-- Largest advance of POS that the commit of the sibling's outstanding step can give: k of R196. -/
def Eng.advanceMax (e : Eng) (s : Nat) : Nat :=
  match e.rc s with
  | none => 0
  | some r =>
    match e.lastOut (if r.shared then rqSlot r.rqid else s) with
    | some l => l.ntok
    | none => match e.openSlot s with
      | some x => if x.kind = 1 ∨ x.kind = 3 then 1 + x.ndraft else 0
      | none => 0

/-- POS that a sibling's next slot starts from, before any outstanding commit. -/
def Eng.basePos (e : Eng) (s : Nat) : Nat :=
  match e.rc s with
  | none => 0
  | some r => if r.shared then (match e.rc (rqSlot r.rqid) with
      | some f => f.pos
      | none => r.pos) else r.pos

/-- The blocks that a slot of a sibling can write (R196): the first and how many. `n` is the chunk of a PREFILL slot. -/
def Eng.slotBlocks (e : Eng) (s : Nat) (prefill : Bool) (n : Nat) : Nat × Nat :=
  match e.rc s with
  | none => (0, 0)
  | some r =>
    let p := e.basePos s
    if prefill then (p / 64, (p + n - 1) / 64 + 1 - p / 64)
    else
      let lo := (p - r.copyN) / 64
      let hi := (p + e.advanceMax s) / 64
      (lo, hi + 1 - lo)

/-- A sibling other than 0 may be composed: it has its own state, or its LAST chunk is outstanding (R185). -/
def Eng.ownTurn (e : Eng) (s : Nat) : Bool :=
  match e.rc s with
  | none => false
  | some r => decide (s = rqSlot r.rqid) || !r.shared || (e.lastOut (rqSlot r.rqid)).isSome

/-- The conditions of R180 on a record for a composition that starts at `c`, but for the Shelver's and for whose turn it is
(R185). `blk` tells whether a submission ring's completion ring counts as blocked. -/
def Eng.eligFor (e : Eng) (i s c : Nat) (blk : Nat → Bool) : Bool :=
  match e.rc s with
  | none => false
  | some r =>
    decide (3 ≤ r.state ∧ r.state ≤ 6) && decide (r.inst = i) && !blk r.ring
      && decide (r.deadlineLast = 0 ∨ c ≤ r.deadlineLast) && decide (r.newCount < r.maxNew)

/-- The conditions of R180 on a record as it stands now. -/
def Eng.eligRec (e : Eng) (i s c : Nat) : Bool := e.eligFor i s c (fun r => e.blocked (e.cqOf r)) && e.ownTurn s

/-- A sibling is eligible (R180). -/
def Eng.eligible (e : Eng) (i s c : Nat) : Bool :=
  e.eligRec i s c && (let b := e.slotBlocks s (!e.decodes s) 1; e.canPin s b.1 b.2)

/-- The Ledger slots of an instance's eligible siblings, rising. -/
def Eng.eligSlots (e : Eng) (i c : Nat) : List Nat :=
  (e.led.recs.filter (fun p => e.eligible i p.1 c)).map (fun p => p.1)

/-- An instance is in step alignment (R41, R44): it has one chip, or the Tally is LOCKED or in HOLDOVER. -/
def Eng.aligned (e : Eng) (i : Nat) : Bool :=
  decide ((e.inst i).chips.length ≤ 1) || decide (e.tal.state = 2 ∨ e.tal.state = 3)

/-- The engine may compose steps of an instance (R44, R167 to R178, R442, R554, R585): it leads it, the Composer is enabled, its
owner is in service, its context is resident with no save begun, no chip of it is lost, and a multi-chip one is in a Tally
domain. -/
def Eng.mayCompose (e : Eng) (i : Nat) : Bool :=
  let x := e.inst i
  let c := e.ctx i
  x.active && x.lead && e.fb F.CMP_CTL_EN && e.fb F.KPR_PART_CTL_EN x.owner && !e.quiet && !e.stopped
    && !e.unitHalted 4 && !e.unitHalted 5
    && decide (c.state = 0 ∧ c.want = 0) && !c.frozen
    && !(x.chips.any (fun k => e.raf.lost.contains k))
    && e.aligned i
    && decide (x.stepNo < 0xFFFFFFFFFFFF)

/-- The instance's model is resident, so that its siblings can be served. -/
def Eng.hasEligible (e : Eng) (i : Nat) : Bool := e.led.recs.any (fun p => e.eligible i p.1 e.now)

/-- Partitions with a slot in an outstanding step. -/
def Eng.stepPids (e : Eng) : List Nat :=
  instRange.flatMap (fun i => match (e.inst i).step with
    | some st => (st.slots.filter (fun x => decide (x.kind ≠ 0))).map (fun x => rqPid x.rqid)
    | none => [])

/-! ### Blocked contexts (spec/14 R498) -/

/-- The context of an instance, led or followed by this engine, is resident (R471, R472). -/
def Eng.ctxHere (e : Eng) (i : Nat) : Bool := (e.inst i).active && e.instIn i && decide ((e.ctx i).state = 0)

/-- The context of an instance that this engine leads is resident. -/
def Eng.ctxResident (e : Eng) (i : Nat) : Bool := (e.inst i).lead && e.ctxHere i

/-- A context waits on a semaphore. -/
def Eng.semWaits (e : Eng) (i : Nat) : Bool := e.kpr.sems.any (fun k => k.2.waiters.any (fun w => decide (w.1 = i)))

/-- A context has a part in a donation (R500). -/
def Eng.inDonation (e : Eng) (i : Nat) : Bool :=
  e.kpr.dons.any (fun d => decide (d.holder = i ∨ d.waiter = i) || d.saved.contains i || d.toSave.contains i)

/-- A resident context is blocked (R498). The siblings of a followed instance have no records here: its context is blocked when it waits on a
semaphore or has no step outstanding (assumption log 28). -/
def Eng.ctxBlocked (e : Eng) (i : Nat) : Bool :=
  e.ctxHere i
    && (e.semWaits i || ((e.inst i).step.isNone
      && e.led.recs.all (fun p => !(decide (p.2.inst = i ∧ 3 ≤ p.2.state ∧ p.2.state ≤ 6)) || decide (0 < e.away p.1))))

/-- Note since when every resident context has been blocked; one in a donation does not count as blocked (R500). -/
def Eng.watchBlock (e : Eng) : Eng :=
  let r := instRange.filter e.ctxHere
  let all := !r.isEmpty && r.all (fun i => e.ctxBlocked i && !e.inDonation i)
  { e with kpr := { e.kpr with blockSince := if all then some (e.kpr.blockSince.getD e.now) else none } }

/-- The end of this tick is an activity point: its step resolutions and their charges come first (R454, R466). -/
def Eng.pointLater (e : Eng) : Eng := { e with kpr := { e.kpr with pointDue := true } }

/-- An activity point (R454, R455): partitions found active, GVT, and the passes of those that become active. Where every partition active so
far is found inactive, GVT keeps the least of their passes. -/
def Eng.activity (e : Eng) : Eng :=
  if !e.fb F.KPR_CTL_EN then e
  else
    let el := (e.led.recs.filter (fun p => e.eligible p.2.inst p.1 e.now)).map (fun p => rqPid p.2.rqid)
    let on := fun p => el.contains p || e.stepPids.contains p
    let was := partRange.filter (fun p => (e.part p).active)
    let old := was.filter on
    let gvt0 := match leastBy (fun p => (e.part p).pass) (if old.isEmpty then was else old) with
      | some p => (e.part p).pass
      | none => e.kpr.gvt
    let e := partRange.foldl (fun e p =>
      let k := e.part p
      let a := on p
      if a = k.active then e
      else if a then e.setPart p { k with active := true, pass := max k.pass gvt0 }
      else e.setPart p { k with active := false }) e
    let gvt := match leastBy (fun p => (e.part p).pass) (partRange.filter (fun p => (e.part p).active)) with
      | some p => (e.part p).pass
      | none => gvt0
    { e with kpr := { e.kpr with gvt } }

/-- A sibling's work waits on a halted unit (R584): the Ledger, Shelver, Sampler or RSU; the Pantry for a move or copy of its
groups; the Sieve for a constrained one; Rafter for a multi-chip instance. -/
def Eng.waitsHalted (e : Eng) (s : Nat) : Bool :=
  match e.rc s with
  | none => false
  | some r =>
    let split := match e.smap s with
      | some m => m.split || m.matching
      | none => false
    e.unitHalted 2 || e.unitHalted 6 || e.unitHalted 8 || e.unitHalted 10
      || (e.unitHalted 7 && (split || decide (0 < e.away s)))
      || ((e.unitHalted 9 || decide (4 ≤ e.siv.retired.length)) && (e.param (rqSlot r.rqid)).grammarEn)
      || (e.unitHalted 13 && decide (1 < (e.inst r.inst).chips.length))

end Sys2Proof.Machine
end

