-- ==== Sys2Proof/Machine/Gate.lean ====
section
/-!
DEFINITION. The Gate (spec/04_ledger_and_admission.md R152 to R168, R631, R634): the four checks, admission, deferral and
refusal.
-/
namespace Sys2Proof.Machine

/-- The outcome of an evaluation, with the deciding check of R152 and the refusal code. -/
inductive GateOut where
  | letIn (inst : Nat)
  | defer (check code : Nat)
  | refuse (check code : Nat)
deriving DecidableEq, Repr

/-- A partition may use an instance: it owns it or is a guest of its owner (R447). -/
def Eng.guestOk (e : Eng) (i p : Nat) : Bool :=
  let o := (e.inst i).owner
  decide (p = o) || bitOf (e.av F.KPR_PART_GUESTS_LO_GUESTS o + two32 * e.av F.KPR_PART_GUESTS_HI_GUESTS o) p

/-- The resident instance of a MID that this engine leads (R152). -/
def Eng.leadInst (e : Eng) (mid : Nat) : Option Nat :=
  e.activeInsts.find? (fun i => (e.inst i).lead && decide ((e.inst i).mid = mid ∧ (e.model mid).unload = none) && e.instIn i)

/-- The instance that a LOAD_MODEL of the MID in progress on this engine creates (R172). -/
def Eng.loadingInst (e : Eng) (mid : Nat) : Option Nat :=
  e.activeInsts.find? (fun i => (e.inst i).lead && (e.inst i).loading && decide ((e.inst i).mid = mid))

/-- A LOAD_MODEL of the MID is in progress on this engine. -/
def Eng.loading (e : Eng) (mid : Nat) : Bool := (e.loadingInst mid).isSome

/-- This engine follows an instance of the MID and leads none (R32). -/
def Eng.followsOnly (e : Eng) (mid : Nat) : Bool :=
  e.activeInsts.any (fun i => !(e.inst i).lead && decide ((e.inst i).mid = mid))
    && !(e.activeInsts.any (fun i => (e.inst i).lead && decide ((e.inst i).mid = mid)))

/-- A request's context charge in blocks (R157). -/
def ctxCharge (p n m : Nat) : Nat := cdiv (p + (n + 1) * m) 64

/-- est_first of R164. -/
def Eng.estFirst (e : Eng) (i p : Nat) : Nat :=
  (cdiv p (max 1 (e.av F.GAT_INST_CHUNK_EST_CHUNK i)) + 1) * e.fv F.GAT_INST_STEP_EST_EST i + e.av F.GAT_MARGIN_MARGIN

/-- TPS in force, 0 taken as 0x100. -/
def Eng.tps (e : Eng) (i : Nat) : Nat := if e.av F.GAT_INST_TPS_TPS i = 0 then 0x100 else e.av F.GAT_INST_TPS_TPS i

/-- est_last of R164. -/
def Eng.estLast (e : Eng) (i p m : Nat) : Nat :=
  e.estFirst i p + cdiv ((m - 1) * 256) (e.tps i) * e.fv F.GAT_INST_STEP_EST_EST i

/-- Check 1 (R152, R153, R447): the instance, or the outcome. -/
def Eng.checkResidency (e : Eng) (mid p : Nat) : Except GateOut Nat :=
  match e.leadInst mid with
  | some i => if e.guestOk i p then .ok i else .error (.refuse 1 0x12)
  | none => if e.loading mid then .error (.defer 1 0x12) else .error (.refuse 1 0x12)

/-- Check 2 (R153, R156 to R159). -/
def Eng.checkBudget (e : Eng) (r : LRec) (p : Nat) : Option GateOut :=
  let n := r.nsib
  let c := ctxCharge r.promptLen n r.maxNew
  let maxN := e.av F.GAT_PART_REQ_MAX_NSIB p
  let maxC := e.av F.GAT_PART_REQ_CTX_MAX p
  let ctxMax := e.av F.GAT_PART_CTX_MAX_MAX p
  let rate := e.av F.GAT_PART_RATE_RATE p
  if (maxN ≠ 0 ∧ maxN < n) ∨ (maxC ≠ 0 ∧ maxC < r.promptLen + r.maxNew) then some (.refuse 2 0x10)
  else if (ctxMax ≠ 0 ∧ ctxMax < c) ∨ (rate ≠ 0 ∧ e.av F.GAT_PART_BURST_BURST p < c) then some (.refuse 2 0x10)
  else if (ctxMax ≠ 0 ∧ ctxMax < e.ctxOf p + c) ∨ (rate ≠ 0 ∧ tgetD e.gat.bucket p 0 < c) then some (.defer 2 0x10)
  else none

/-- Check 3 (R153, R161, R162, R267). -/
def Eng.checkRoom (e : Eng) (r : LRec) (i p : Nat) : Option GateOut :=
  let a := e.av F.GAT_PART_KV_AHEAD_AHEAD p
  match e.room i (blocksNeeded r.promptLen r.nsib a) (nodesNeeded r.promptLen r.nsib a) with
  | .never => some (.refuse 3 0x13)
  | .later => some (.defer 3 0x13)
  | .now =>
    if e.hotRoom < r.nsib + 1 ∨ e.pagesFree < (r.nsib + 1) * tokenPages r.maxNew then some (.defer 3 0x13) else none

/-- Check 4 (R165). -/
def Eng.checkDeadline (e : Eng) (r : LRec) (i : Nat) : Option GateOut :=
  if (r.deadlineFirst ≠ 0 ∧ r.deadlineFirst < e.now + e.estFirst i r.promptLen)
      ∨ (r.deadlineLast ≠ 0 ∧ r.deadlineLast < e.now + e.estLast i r.promptLen r.maxNew) then some (.refuse 4 0x11)
  else none

/-- Deferred requests of a partition. -/
def Eng.deferredOf (e : Eng) (p : Nat) : Nat :=
  (e.gat.deferq.filter (fun s => match e.rc s with
    | some r => decide (rqPid r.rqid = p)
    | none => false)).length

/-- A defer stands, or becomes a refusal (R154). The spec does not say whether DEFER_MAX is tested again at a re-evaluation: the model's
choice is that it is tested at the first deferral only (assumption log 57). -/
def Eng.deferOr (e : Eng) (r : LRec) (p : Nat) (o : GateOut) : GateOut :=
  match o with
  | .defer c k =>
    let ttl := e.av F.GAT_PART_DEFER_TTL_TTL p
    let late : Bool := match r.deferredAt with
      | some t => decide (ttl ≠ 0 ∧ ttl < e.now - t)
      | none => decide (e.av F.GAT_PART_DEFER_DEFER_MAX p ≤ e.deferredOf p)
    if e.av F.GAT_PART_DEFER_DEFER_EN p = 0 then .refuse c k else if late then .refuse c k else .defer c k
  | x => x

/-- The Gate's outcome for a request (R152). -/
def Eng.gateOut (e : Eng) (r : LRec) : GateOut :=
  let p := rqPid r.rqid
  let o : GateOut :=
    match e.checkResidency r.mid p with
    | .error x => x
    | .ok i =>
      match e.checkBudget r p with
      | some x => x
      | none =>
        match e.checkRoom r i p with
        | some x => x
        | none =>
          match e.checkDeadline r i with
          | some x => x
          | none => .letIn i
  e.deferOr r p o

/-- The instance that a request under evaluation is for: the one of its MID that this engine leads or is loading, where there is one (R601,
R604). -/
def Eng.reqInst (e : Eng) (r : LRec) : Option Nat := (e.leadInst r.mid).or (e.loadingInst r.mid)

/-- The trace record of an evaluation. -/
def Eng.gateTrace (e : Eng) (r : LRec) (i : Option Nat) (status check : Nat) : Eng :=
  e.trace { kind := 0, inst := i.getD 0, pid := rqPid r.rqid, pidV := true, status, sib := 0x3F, rqid := r.rqid, gen := r.gen, arg := check }

/-- The instance is swapped out (R448). -/
def Eng.swappedOut (e : Eng) (i : Nat) : Bool := decide ((e.ctx i).state ≠ 0)

/-- Admit a request to an instance (R155, R157, R159, R162, R268, R374, R448, R631). -/
def Eng.letIn (e : Eng) (first i : Nat) (r : LRec) : Eng :=
  let p := rqPid r.rqid
  let c := ctxCharge r.promptLen r.nsib r.maxNew
  let a := e.av F.GAT_PART_KV_AHEAD_AHEAD p
  let pages := tokenPages r.maxNew
  let sw := e.swappedOut i
  let e := { e with gat := { e.gat with
    ctxUse := tsetD e.gat.ctxUse p (e.ctxOf p + c) 0
    bucket := if e.av F.GAT_PART_RATE_RATE p = 0 then e.gat.bucket else tsetD e.gat.bucket p (tgetD e.gat.bucket p 0 - c) 0
    deferq := e.gat.deferq.filter (fun x => decide (x ≠ first)) } }
  let mine := (e.sibs first).filter (fun s => (e.rc s).any (fun (q : LRec) => decide (q.state = 1)))
  let e := mine.foldl (fun e s =>
    let held := match e.rc s with
      | some q => q.pages.length
      | none => 0
    let fresh := match e.rc s with
      | some q => decide (q.newCount = 0)
      | none => true
    let e := { e with led := { e.led with pagesReserved := e.led.pagesReserved + (pages - held) } }
    let e := e.modRc s (fun q => { q with
      state := if sw then 8 else 3
      prior := if sw then 3 else q.prior
      inst := i
      admitStamp := e.now
      pagesResv := pages - held
      ctxCharge := if s = first then c else 0
      draftN := 0 })
    let e := if (e.param first).grammarEn && fresh then
        e.setPda s { state := imgField (e.gramImg (e.param first).grammarId) 0x10 4, stack := [] }
      else e
    e.touch s) e
  let e := e.reserve first (blocksNeeded r.promptLen r.nsib a) (nodesNeeded r.promptLen r.nsib a)
  let e := mine.foldl (fun e s => e.mirror s (decide (s = first))) e
  let e := e.modInst i (fun x => { x with quiet := false })
  let e := (e.count 0x100B 1 (some p) (some i)).gateTrace r (some i) 0 0
  (e.report (ordRec 0 r.ring r.gen r.rqid r.userTag e.now)).balance i

/-- Refuse a request with a code, by a check (R152). -/
def Eng.gateRefuse (e : Eng) (first : Nat) (r : LRec) (check code : Nat) : Eng :=
  ((e.count 0x100D 1 (some (rqPid r.rqid)) (e.reqInst r)).gateTrace r (e.reqInst r) code check).endRequest first code

/-- A request for a model that is being loaded belongs to the instance that the load creates (R172). -/
def Eng.joinLoad (e : Eng) (first : Nat) (r : LRec) : Eng :=
  match e.loadingInst r.mid with
  | some i => (e.sibs first).foldl (fun e s =>
      if (e.rc s).any (fun q => decide (q.inst ≠ i)) then ((e.recUse s).modRc s (fun q => { q with inst := i })).mirror s else e) e
  | none => e

/-- Evaluate one request in QUEUED. R166 gives no order to deferred requests with equal SUBMIT_STAMP: the model's choice is that the one
deferred later stands behind its equals (DESIGN CHOICE, assumption log 70). -/
def Eng.evaluate (e : Eng) (first : Nat) : Eng :=
  match e.rc first with
  | none => e
  | some r =>
    if r.state ≠ 1 then e
    else
      let p := rqPid r.rqid
      let o := e.gateOut r
      let e := (e.recUse first).joinLoad first r
      let r := (e.rc first).getD r
      match o with
      | .letIn i => e.letIn first i r
      | .refuse c k => e.gateRefuse first r c k
      | .defer c _ =>
        let e := (e.count 0x100C 1 (some p) (e.reqInst r)).gateTrace r (e.reqInst r) 1 c
        if r.deferredAt.isSome then e
        else
          let e := e.modRc first (fun q => { q with deferredAt := some e.now })
          let le := fun (x y : Nat) => match e.rc x, e.rc y with
            | some a, some b => decide (a.submitStamp ≤ b.submitStamp)
            | _, _ => true
          let e := { e with gat := { e.gat with deferq := oinsert le first e.gat.deferq } }
          e.report (ordRec 1 r.ring r.gen r.rqid r.userTag e.now)

/-- The Gate is in service: it is enabled, neither it nor the engine is halted, and no quiesce has begun (R585, R610, R634). -/
def Eng.gateServes (e : Eng) : Bool := e.fb F.GAT_CTL_EN && !e.quiet && !e.stopped && !e.unitHalted 3

/-- The Gate decides: it is in service and its domain is ON (R566). -/
def Eng.gateOn (e : Eng) : Bool := e.gateServes && e.domOn 5

/-- An instance has an edge in this tick; what it owes is done at the tick's end (R151). -/
def Eng.markEdge (e : Eng) (i : Nat) : Eng := { e with gat := { e.gat with edges := sinsert e.gat.edges i } }

/-- Evaluate the newly fetched requests in fetch order (R168, R634). -/
def Eng.gateFresh (e : Eng) : Eng :=
  if e.gateOn then
    let l := e.gat.fresh
    l.foldl (fun e x => e.evaluate x.2) { e with gat := { e.gat with fresh := [] } }
  else e

/-- The deferred requests of an instance are to be evaluated again at this tick's end (R151, R167). -/
def Eng.markAgain (e : Eng) (i : Nat) : Eng := { e with gat := { e.gat with again := sinsert e.gat.again i } }

/-- Deferred requests of an instance, oldest first: those of its MID. -/
def Eng.deferredFor (e : Eng) (i : Nat) : List Nat :=
  e.gat.deferq.filter (fun s => match e.rc s with
    | some r => decide (r.mid = (e.inst i).mid)
    | none => false)

/-- Deferred requests of models of which no instance is left, oldest first (assumption log 31). -/
def Eng.deferredOrphans (e : Eng) : List Nat :=
  e.gat.deferq.filter (fun s => match e.rc s with
    | some r => !(e.activeInsts.any (fun i => decide ((e.inst i).mid = r.mid)))
    | none => false)

/-- Re-evaluate up to REEVAL deferred requests of an instance, oldest first (R167); 16 stands for those of no instance. -/
def Eng.reevaluate (e : Eng) (i : Nat) : Eng :=
  ((if i = 16 then e.deferredOrphans else e.deferredFor i).take (e.av F.GAT_CTL_REEVAL)).foldl (fun e s => e.evaluate s) e

/-- The Gate's decisions of a tick: the re-evaluations that its edges call for, then the requests newly fetched (R151, R167, R168, R634).
While the Gate's domain is WAKING both wait (R566). -/
def Eng.gateTick (e : Eng) : Eng :=
  let l := e.gat.again
  if e.gateServes && !e.domOn 5 then e
  else
    let e := { e with gat := { e.gat with again := [] } }
    if e.gateOn then (l.foldl (fun e i => e.reevaluate i) e).gateFresh else e

/-- The step-period estimate at an edge (R163): `m` ticks since the previous one. -/
def stepEst (est m : Nat) : Nat := ((est : Int) + ((m : Int) - est).tdiv 8).toNat

/-- Refuse every deferred request of a model whose load ended without residency (R172). R172 names the tick of completion, and a Gate that is
not in service then decides nothing (R610, R634): the requests stay deferred, and are refused when they are evaluated again (assumption log 57). -/
def Eng.refuseLoading (e : Eng) (mid : Nat) : Eng :=
  if !e.gateServes then e
  else (e.gat.deferq.filter (fun s => match e.rc s with
    | some r => decide (r.mid = mid)
    | none => false)).foldl (fun e s => match e.rc s with
      | some r => e.gateRefuse s r 1 0x12
      | none => e) e

end Sys2Proof.Machine
end

