-- ==== Sys2Proof/Machine/Sems.lean ====
section
/-!
DEFINITION. Keeper's semaphores (spec/14_preemption_and_context.md R491, R492, R497).
-/
namespace Sys2Proof.Machine

/-- The 64 semaphores. -/
def semRange : List Nat := List.range 64

/-- A semaphore. -/
def Eng.sem (e : Eng) (k : Nat) : Sem := tgetD e.kpr.sems k {}

/-- Replace a semaphore. -/
def Eng.setSem (e : Eng) (k : Nat) (x : Sem) : Eng := { e with kpr := { e.kpr with sems := tsetD e.kpr.sems k x {} } }

/-- Order of waiters (R491): request Tally, owner's PID, local instance. -/
def Eng.waitKey (e : Eng) (w : Nat × Nat) : Nat := (w.2 * 64 + (e.inst w.1).owner) * 16 + w.1

/-- Pass a semaphore that has no holder any more to its next waiter (R491, R497). -/
def Eng.semNext (e : Eng) (k : Nat) : Eng :=
  let x := e.sem k
  match leastBy e.waitKey x.waiters with
  | none => e.setSem k {}
  | some w =>
    let y : Sem := { holder := some w.1, swapped := decide ((e.ctx w.1).state ≠ 0), waiters := x.waiters.filter (fun z => decide (z ≠ w)) }
    (e.setSem k y).tell (.semGranted k w.1)

/-- A holder's partition has left service or its instance is released (R497). -/
def Eng.semBreak (e : Eng) (i : Nat) : Eng :=
  semRange.foldl (fun e k =>
    let x := e.sem k
    if x.holder = some i then (e.semNext k).raiseP 0x0095 12 (e.inst i).owner k else e) e

/-- An instance waits on no semaphore any more. -/
def Eng.semLeave (e : Eng) (i : Nat) : Eng :=
  semRange.foldl (fun e k =>
    let x := e.sem k
    if x.waiters.any (fun w => decide (w.1 = i)) then e.setSem k { x with waiters := x.waiters.filter (fun w => decide (w.1 ≠ i)) }
    else e) e

end Sys2Proof.Machine
end

