-- ==== Sys2Proof/Machine/Loads.lean ====
section
/-!
DEFINITION. Model loads and residency (spec/04_ledger_and_admission.md R169 to R173, spec/07_shelver_crates_and_tiers.md R294 to
R304), the edge-lead floor (spec/02 R48, R49) and configuration loads (spec/05 R221).
-/
namespace Sys2Proof.Machine

/-! ### Edge lead (R48, R49) -/

/-- Ring hops between two sleds. -/
def ringHops (a b : Nat) : Nat := min ((b + 8 - a) % 8) ((a + 8 - b) % 8)

/-- The floor of an instance of these chips led by `lead` (R48). -/
def edgeFloor (chips : List Nat) (lead : Nat) : Nat :=
  if chips.length ≤ 1 then 500
  else if chips.all (fun c => decide (c / 8 = lead / 8)) then 1500
  else 1500 + 1000 * chips.foldl (fun m c => max m (ringHops (lead / 8) (c / 8))) 0

/-- The effective edge lead for a requested one (R49). -/
def Eng.leadEff (e : Eng) (i req : Nat) : Nat := min (max req (e.fv (F.TAL_EDGE_FLOOR_n_FLOOR.at 4 i))) 100000

/-- EDGE_LEAD_CLAMPED for an instance index and a requested lead (R49). -/
def Eng.leadClamped (e : Eng) (i req : Nat) : Eng :=
  let eff := e.leadEff i req
  if eff = req then e
  else
    let x := e.inst i
    e.raise { code := 0x0030, unit := 14, part := x.active, pid := if x.active then x.owner else 0, inst := some i,
              arg := i + 2 ^ 32 * eff }

/-- The requested lead last written for an index: a held write's if one waits (R61). -/
def Eng.leadWritten (e : Eng) (i : Nat) : Nat := e.fv (F.TAL_EDGE_LEAD_n_LEAD.at 4 i)

/-- Recompute the floor of an index (R48, R528), with the event of R49 when the effective lead comes to differ. -/
def Eng.floorSet (e : Eng) (i : Nat) : Eng :=
  let x := e.inst i
  let f := if x.active then edgeFloor x.chips x.leadChip else 500
  let w := e.leadWritten i
  let was := e.leadEff i w
  let e := e.poke (F.TAL_EDGE_FLOOR_n_FLOOR.at 4 i) f
  if was = w then e.leadClamped i w else e

/-! ### Configuration loads (R221, R483) -/

/-- Ask the array to load a configuration of an instance from the images of its Larder entry (R294): after leave for CONFIG (R502,
R503). -/
def Eng.askConfig (e : Eng) (i cfg : Nat) : Eng :=
  let amt := e.av F.KPR_LEAVE_AMT_CONFIG
  let x := e.inst i
  let tiles := e.fv F.KPR_PART_TILES_GROUPS x.owner
  if amt = 0 then e.tell (.loadConfig i cfg tiles (e.instModel i).cfgAddr)
  else e.leaveAsk { cls := 0, amt, pid := x.owner, who := i, step := cfg, since := e.now, split := [(x.owner, 1)] }

/-! ### The fit check -/

/-- The other chips of a sled that a load may take, in the order of R299: those on which the MID is PARKED, more free Store, lower
slot. A chip counts as holding the MID PARKED while it is PARKED here and the chip was in its placement (assumption log 56). -/
def Eng.sledChips (e : Eng) (mid s : Nat) : List Nat :=
  let free := fun (c : Nat) => (tgetD e.raf.stat c {}).freeGib
  let m := e.model mid
  let parked := fun (c : Nat) => decide (m.state = 3) && m.chips.contains c
  osort (fun a b => if parked a = parked b then decide (free b ≤ free a) else parked a)
    (((List.range 8).map (fun j => 8 * s + j)).filter (fun c =>
      decide (c ≠ e.self) && (tgetD e.raf.chips c {}).present && !e.raf.lost.contains c))

/-- The sleds that a load without PINNED takes beside its own (R299): whichever sled adjoining the arc reports the more free Store,
the lower one on a tie. `lo` and `len` give the run of sleds taken. A sled without a chip to take would make the placement wrapped, which
the Shelver never chooses (R301): the arc does not grow over it. -/
def growArc (e : Eng) (mid n lo len : Nat) (got : List Nat) (fuel : Nat) : List Nat :=
  match fuel with
  | 0 => got
  | k + 1 =>
    if n ≤ got.length then got
    else
      let sum := fun (s : Nat) => sumBy (fun c => (tgetD e.raf.stat c {}).freeGib) (e.sledChips mid s)
      let below := (lo + 7) % 8
      let above := (lo + len) % 8
      let up := (e.sledChips mid below).isEmpty
        || (!(e.sledChips mid above).isEmpty
          && (decide (sum below < sum above) || (decide (sum below = sum above) && decide (above < below))))
      let cs := e.sledChips mid (if up then above else below)
      if cs.isEmpty then got
      else growArc e mid n (if up then lo else below) (len + 1) (got ++ cs.take (n - got.length)) k

/-- The placement that the Shelver chooses for NCHIP chips (R299): this chip, its sled's, then the adjoining sleds'. -/
def Eng.choose (e : Eng) (mid n : Nat) : List Nat :=
  let s := e.self / 8
  osort (fun a b => decide (a ≤ b)) (growArc e mid n s 1 ([e.self] ++ (e.sledChips mid s).take (n - 1)) 7)

/-- Store of this chip free for a load (R298): free Store and what PARKED weights hold. -/
def Eng.storeForLoad (e : Eng) : Nat := e.storeArea - e.weightHeld (fun s => decide (s = 1 ∨ s = 2)) - e.quotaOthers 16

/-- The Store of a placement: S of R170, R298. -/
def Eng.storeOf (e : Eng) (chips : List Nat) : Nat :=
  sumBy (fun c => if c = e.self then e.storeForLoad else (tgetD e.raf.stat c {}).freeGib * 2 ^ 30) chips

/-- A segment's bytes, HEAT and KIND (R295). -/
def segOf (d : BitVec 128) : Nat × Nat × Nat := (bitsOf d.toNat 95 64, bitsOf d.toNat 111 96, bitsOf d.toNat 119 112)

/-- The segments marked for streaming until they reach the excess (R303): KIND 1 first, then ascending HEAT. -/
def markSegs (excess : Nat) (l : List (BitVec 128)) : List (BitVec 128) :=
  match l with
  | [] => []
  | s :: r => if excess = 0 then [] else s :: markSegs (excess - (segOf s).1) r

/-- Segments in the order of marking. -/
def segOrder (l : List (BitVec 128)) : List (BitVec 128) :=
  let by_ := fun (a b : BitVec 128) => decide ((segOf a).2.1 ≤ (segOf b).2.1)
  osort by_ (l.filter (fun s => decide ((segOf s).2.2 = 1))) ++ osort by_ (l.filter (fun s => decide ((segOf s).2.2 ≠ 1)))

/-- The step-time increase of R304 in units of 0.01 %. -/
def streamIncrease (marked : List (BitVec 128)) (nchip refStep : Nat) : Nat :=
  if marked.isEmpty then 0
  else if refStep = 0 then 0xFFFF
  else
    let bs := cdiv (sumBy (fun s => (segOf s).1 * (segOf s).2.1) marked) 65536
    min (cdiv (bs * 10000) (nchip * 800 * refStep)) 0xFFFF

/-- What R170 decides for a load. -/
inductive LoadOut where
  | done (status chips : Nat)
  | go (marked : List (BitVec 128)) (chips : List Nat)
deriving DecidableEq, Repr

/-- Ring-link reservation of at least 12.5 % for a wrapped placement (R301). -/
def Eng.pathReserved (e : Eng) (p : Nat) : Bool := decide (32 ≤ e.av F.KPR_PART_RAF_RESV_RING p)

/-- The chips of a load: those that it pins, or those that the Shelver chooses (R299). -/
def Eng.loadChips (e : Eng) (o : LoadDesc) : List Nat := if o.pinned then bitList o.placement else e.choose o.mid o.nchip

/-- Rows 1 to 4 of R170 for a LOAD_MODEL that the ring of partition `p` carried. -/
def Eng.loadEarly (e : Eng) (o : LoadDesc) (p : Nat) (larder : Option LarderBits) : Option LoadOut :=
  if (larderOf larder o.mid).isNone then some (.done 0x12 0)
  else if e.activeInsts.any (fun i => (e.inst i).lead && decide ((e.inst i).mid = o.mid)) then some (.done 0 0)
  else if 16 ≤ e.activeInsts.length then some (.done 0x10 0)
  else if wrapped (e.loadChips o) && !(o.pinned && e.pathReserved p) then some (.done 0x14 0)
  else none

/-- Rows 5 to 8 of R170. For a GAT_CHIP_STORE of 0 the quotient of R171 is not defined; the count is then 127 (DESIGN CHOICE,
assumption log 57). -/
def Eng.loadFit (e : Eng) (o : LoadDesc) (d : LarderBits) (segs : List (BitVec 128)) (tilesOk : Bool) : LoadOut :=
  let chips := e.loadChips o
  let segs := segs.take (recField d 0x30 31 0)
  let f := recField d 0x18 63 0 + o.kvReserve * recField d 0x10 31 0
  let s := e.storeOf chips
  let c := e.fv F.GAT_CHIP_STORE_GIB * 2 ^ 30
  let need := min 127 (if c = 0 then 127 else cdiv f c)
  if !tilesOk then .done 0x20 0
  else if chips.length < o.nchip then .done 0x20 need
  else if f ≤ s then .go [] chips
  else if f - s ≤ s / 8 ∧ o.allowStream ∧ f - s ≤ sumBy (fun x => (segOf x).1) segs then
    .go (markSegs (f - s) (segOrder segs)) chips
  else .done 0x20 need

/-- The decision of R170 for a LOAD_MODEL that the ring of partition `p` carried. -/
def Eng.loadDecide (e : Eng) (o : LoadDesc) (p : Nat) (larder : Option LarderBits) (segs : List (BitVec 128)) (tilesOk : Bool) :
    LoadOut :=
  match e.loadEarly o p larder, larderOf larder o.mid with
  | some out, _ => out
  | none, some d => e.loadFit o d segs tilesOk
  | none, none => .done 0x12 0

/-- The ORDER record of a LOAD_MODEL or UNLOAD_MODEL (R103). -/
def loadRec (status ring tag stamp chips inc : Nat) : CmpRec :=
  { status, order := true, sib := 0x3F, ring, tag, stamp, toks := [if status = 0x20 then chips else 0, if status = 0x21 then inc else 0] }

/-- The lowest instance index that is not in use. -/
def Eng.freeInst (e : Eng) : Nat := (instRange.find? (fun i => !(e.inst i).active)).getD 15

/-- Free PARKED weights, parked longest first, until `need` bytes of Store are free beside the quotas committed (R265, R297, R298). -/
def unpark (e : Eng) (need : Nat) (fuel : Nat) : Eng :=
  match fuel with
  | 0 => e
  | k + 1 =>
    if e.weightHeld (fun s => decide (s ≠ 0)) + e.quotaOthers 16 + need ≤ e.storeArea then e
    else
      match leastBy (fun (p : Nat × Model) => p.2.parkedAt) (e.shv.models.filter (fun p => decide (p.2.state = 3))) with
      | none => e
      | some p => unpark (e.setModel p.1 { p.2 with state := 0, chipBytes := 0, weightsIn := false }) need k

/-- Commit what SHV_INST_QUOTA in force asks of an instance beyond its quota at load, as far as Store can back it; PARKED weights make
way for it (R265). -/
def Eng.quotaTake (e : Eng) (i : Nat) : Eng :=
  if !(e.inst i).active then e
  else
    let x := e.shvi i
    let e := e.setShvi i { x with q := max x.qLoad (min (e.av F.SHV_INST_QUOTA_BLOCKS i) (e.quotaRoom i)) }
    (unpark e 0 e.shv.models.length).recallAll

/-- STEP_EST of an instance index without a step starts from the value last written (R163). -/
def Eng.estReset (e : Eng) (i : Nat) : Eng := e.poke F.GAT_INST_STEP_EST_EST (tgetD e.gat.est i 0xEA60) i

/-- Bytes of weights that this chip holds of a model over `n` chips with `marked` bytes left in Cellar. -/
def chipShare (weight marked n : Nat) : Nat := cdiv (weight - marked) n

/-- The model of a load that begins on this chip, as its Larder entry gives it (R294, R297, R303). -/
def Eng.loadModel (e : Eng) (o : LoadDesc) (d : LarderBits) (marked : List (BitVec 128)) (x : Inst) (i : Nat) : Model :=
  let wb := recField d 0x18 63 0
  let share := chipShare wb (sumBy (fun s => (segOf s).1) marked) x.chips.length
  { state := 1, nlg := recField d 4 6 0, ncfg := recField d 4 10 7 + 1, kvFmt := recField d 4 14 11, vocab := recField d 8 20 0,
    ctxLen := recField d 0xC 24 0, crateBytes := recField d 0x10 31 0, refStep := recField d 0x14 31 0, weightBytes := wb, inst := i,
    chipBytes := share, nchip := x.chips.length, loadRing := x.ring, loadTag := o.userTag,
    loadStatus := if marked.isEmpty then 0 else 0x21, weightsIn := decide ((e.model o.mid).state = 3) || decide (share = 0),
    toMark := marked.map (fun s => (bitsOf s.toNat 63 0, (segOf s).1)),
    toInc := streamIncrease marked x.chips.length (recField d 0x14 31 0),
    loadInc := streamIncrease marked x.chips.length (recField d 0x14 31 0), chips := x.chips,
    entryAddr := e.pairv 0x6048 + 256 * o.mid, segAddr := recField d 0x28 63 0, nseg := recField d 0x30 31 0,
    cfgAddr := recField d 0x38 63 0 }

/-- An instance index is taken, with the quota of R265 that its load asks for. The layer groups of a chip of several are those that its
configuration names (spec/07, before R255); of a chip alone they are all. -/
def Eng.instEnter (e : Eng) (i : Nat) (x : Inst) (q nlg : Nat) : Eng :=
  let e := e.setInst i x
  let e := (e.setShvi i { qLoad := q, lgs := if x.chips.length ≤ 1 then List.range nlg else [] }).quotaTake i
  ((e.setCtx i {}).estReset i).floorSet i

/-- A load of a MID that is LOADING or RESIDENT here already for another instance (R36): its weights and their marks stay as they are, and what
is to be answered is noted for a load that this engine leads. -/
def Model.joined (m old : Model) (lead : Bool) : Model :=
  if lead then { old with inst := m.inst, loadRing := m.loadRing, loadTag := m.loadTag, loadStatus := m.loadStatus, loadInc := m.loadInc }
  else old

/-- Start an accepted load on this chip (R170 rows 6 and 7, R219, R265, R297, R303). `x` is the instance that this engine takes part in. Where
the MID is here already for another instance, which R36 allows and R297 does not speak of, the weights are not copied again and only the
configuration is loaded (DESIGN CHOICE, assumption log 76). -/
def Eng.loadStart (e : Eng) (o : LoadDesc) (d : LarderBits) (marked : List (BitVec 128)) (x : Inst) : Eng :=
  let i := e.freeInst
  let old := e.model o.mid
  let nlg := recField d 4 6 0
  let x := { x with loading := true }
  let m := e.loadModel o d marked x i
  let q := o.kvReserve / max 1 nlg
  if old.state = 1 ∨ old.state = 2 then
    let e := (e.setModel o.mid (m.joined old x.lead)).instEnter i x q nlg
    if old.state = 2 ∨ old.weightsIn = true then e.askConfig i 0 else e
  else
    let parked := decide (old.state = 3)
    let e := e.setModel o.mid { m with chipBytes := if parked then old.chipBytes else 0 }
    let e := unpark e (if parked then 0 else m.chipBytes) e.shv.models.length
    let e := (e.setModel o.mid m).instEnter i x q nlg
    if m.weightsIn then e.askConfig i 0
    else
      e.panIssue
        { kind := 3, srcTier := 2, dstTier := 1, pid := x.owner, mid := o.mid, inst := i, group := cdiv m.chipBytes 4096,
          srcAddr := recField d 0x20 63 0, dstAddr := e.pairv 0x603C, pieces := cdiv (cdiv m.chipBytes 4096 * 4096) (2 ^ 21) }
        { what := 2, mid := o.mid, dest := 1 }

/-- The placements of other engines' instances without that of the lead `c` and its instance `i`. -/
def Raf.plansBut (r : Raf) (c i : Nat) : List (Nat × Nat × List Nat) := r.plans.filter (fun p => decide (p.1 ≠ c ∨ p.2.1 ≠ i))

/-- What this engine takes of a load of another lead's. Where its chip is in the placement it takes part (R36, R219): the lead's three values
and its own index are noted. Otherwise it notes the placement, along which it passes the instance's frames on (R539). The spec names no frame
that brings either; the LOAD_MODEL command does (assumption log 13). -/
def Eng.loadPart (e : Eng) (q : LoadPart) (o : LoadDesc) (larder : Option LarderBits) (segs : List (BitVec 128)) : Eng :=
  if !q.chips.contains e.self then
    if q.chip = e.self then e
    else { e with raf := { e.raf with plans := (q.chip, q.inst, q.chips) :: e.raf.plansBut q.chip q.inst } }
  else
  match larderOf larder o.mid with
  | none => e
  | some d =>
    if decide (q.chip = e.self ∨ 16 ≤ e.activeInsts.length) || e.activeInsts.any (fun k =>
        !(e.inst k).lead && decide ((e.inst k).leadChip = q.chip ∧ (e.inst k).leadInst = q.inst)) then e
    else e.loadStart o d (markSegs q.excess (segOrder (segs.take (recField d 0x30 31 0))))
      { active := true, owner := q.owner, mid := o.mid, chips := q.chips, leadChip := q.chip, leadInst := q.inst }

/-- Accept the held writes of an instance (R61). -/
def Eng.acceptHeld (e : Eng) (i : Nat) : Eng :=
  let h := e.held.filter (fun x => decide (x.1 = i))
  { e with held := e.held.filter (fun x => decide (x.1 ≠ i)), pend := e.pend ++ h.map (fun x => (x.2.1, x.2.2, e.now)) }

/-- The compose window of an instance closes without an edge (R61). -/
def Eng.closeWindow (e : Eng) (i : Nat) : Eng := (e.modInst i (fun x => { x with win := false })).acceptHeld i

/-- An instance index is no longer in use: a compose window still open closes, so that its held writes take effect at idle edges (R61,
R624). -/
def Eng.dropInst (e : Eng) (i : Nat) : Eng :=
  let e := ((e.closeWindow i).leaveEnd 0 i).semLeave i
  let e := e.semBreak i
  let e := e.setInst i {}
  let e := e.setShvi i {}
  let e := (e.setCtx i {}).estReset i
  e.floorSet i

/-- The lead of a load answers it; a follower's part is answered by none. -/
def Eng.loadAnswer (e : Eng) (i : Nat) (m : Model) (status inc : Nat) : Eng :=
  if (e.inst i).lead then e.complete (loadRec status m.loadRing m.loadTag e.now 0 inc) else e

/-- Another instance of a MID that this engine takes part in than `i`. -/
def Eng.otherInst (e : Eng) (mid i : Nat) : Option Nat := e.activeInsts.find? (fun j => decide (j ≠ i ∧ (e.inst j).mid = mid))

/-- The instances of a MID of which the load is in progress. -/
def Eng.loadingOf (e : Eng) (mid : Nat) : List Nat := e.activeInsts.filter (fun j => (e.inst j).loading && decide ((e.inst j).mid = mid))

/-- The load of an instance has failed after acceptance (R170): the model is ABSENT here, unless another instance of it stays (R297;
assumption log 76). Requests deferred for it are refused (R172). -/
def Eng.instFail (e : Eng) (i : Nat) : Eng :=
  let mid := (e.inst i).mid
  let m := e.model mid
  let lead := (e.inst i).lead
  let e := e.loadAnswer i m 0x3A 0
  let e := e.setModel mid (match e.otherInst mid i with
    | some j => { m with inst := if m.inst = i then j else m.inst }
    | none => {})
  let e := e.dropInst i
  if lead then e.refuseLoading mid else e

/-- The weight copy of a MID has failed: every load of it in progress fails (R170, R330). -/
def Eng.loadFail (e : Eng) (mid : Nat) : Eng := (e.loadingOf mid).foldl Eng.instFail e

/-- The weights of a MID are in place: each instance being loaded asks for its first configuration (R297). -/
def Eng.weightsDone (e : Eng) (mid : Nat) : Eng :=
  (e.loadingOf mid).foldl (fun e i => e.askConfig i 0) (e.setModel mid { e.model mid with weightsIn := true })

/-- Instances of one sliced partition other than `i`: they hold its tile groups in turn (R446, R448). -/
def Eng.rivals (e : Eng) (i : Nat) : List Nat :=
  let o := (e.inst i).owner
  if e.fv F.KPR_PART_CTL_MODE o ≠ 1 then []
  else e.activeInsts.filter (fun j => decide (j ≠ i) && (e.inst j).lead && decide ((e.inst j).owner = o) && e.instIn j)

/-- A context holds its tile groups: it is not SAVED. -/
def Eng.occupies (e : Eng) (i : Nat) : Bool := decide ((e.ctx i).state ≠ 2)

/-- No other context holds tile groups that a context needs. -/
def Eng.regionFree (e : Eng) (i : Nat) : Bool := (e.rivals i).all (fun j => !e.occupies j)

/-- A newly resident instance of a sliced partition starts a slice, or is swapped out while another one runs (R448, R449). -/
def Eng.sliceEnter (e : Eng) (i : Nat) : Eng :=
  if e.fv F.KPR_PART_CTL_MODE (e.inst i).owner ≠ 1 then e
  else if e.regionFree i then e.modCtx i (fun c => { c with sliceStart := some e.now })
  else e.modCtx i (fun c => { c with state := 2 })

/-- The load of an instance has completed with residency (R172, R297): its weights are in place and its first configuration is loaded. A
streamed load marks its segments now (R303). -/
def Eng.loadDone (e : Eng) (i : Nat) : Eng :=
  let mid := (e.inst i).mid
  let m := e.model mid
  let e := e.modInst i (fun x => { x with loading := false })
  let e := if m.state = 2 then e
    else e.setModel mid { m with
      state := 2, stream := !m.toMark.isEmpty, streamInc := m.toInc, marked := m.toMark, toMark := [], toInc := 0 }
  let e := e.loadAnswer i m m.loadStatus m.loadInc
  (e.sliceEnter i).markAgain i

/-- The prefix entries of an instance go with it, and the lines of the follower directory with the groups that they hold (R291, R595). -/
def Eng.holdingsClear (e : Eng) (i : Nat) : Eng :=
  let e := (e.shv.pfx.filter (fun p => match e.grp p.2.group with
    | some g => decide (g.inst = i)
    | none => false)).foldl (fun e p => e.pfxDrop p.1) e
  let l := e.shv.fdir.filter (fun x => decide (x.1 = i))
  if l.isEmpty then e
  else
    let e := l.foldl (fun e x => (x.2.2.2.blocks.map (fun b => b.2) ++ x.2.2.2.draft0.toList ++ x.2.2.2.draft1.toList).foldl (fun e g => e.dropRef g) e) e
    let nodes := sumBy (fun (x : Nat × Nat × Nat × SMap) => x.2.2.2.nodeList.length) l
    { e with shv := { e.shv with fdir := e.shv.fdir.filter (fun x => decide (x.1 ≠ i)), nodesUsed := e.shv.nodesUsed - nodes } }

/-- The weight copy of a MID that is in flight concerns nobody any more. -/
def Eng.copyForget (e : Eng) (mid : Nat) : Eng :=
  { e with shv := { e.shv with ops := e.shv.ops.filter (fun p => decide (p.2.what ≠ 2 ∨ p.2.mid ≠ mid)) } }

/-- Release residency of an instance (R173, R297, R595): the model PARKED where no other instance of it is here, the index free, the
UNLOAD_MODEL answered. One whose weights are still on their way has failed to load: it is ABSENT (DESIGN CHOICE, assumption log 76). -/
def Eng.unloadDone (e : Eng) (i : Nat) : Eng :=
  let mid := (e.inst i).mid
  let m := e.model mid
  let lead := (e.inst i).lead
  let e := match e.otherInst mid i with
    | some j => e.setModel mid { m with inst := if m.inst = i then j else m.inst, unload := if lead then none else m.unload }
    | none =>
      if m.state = 1 ∧ m.weightsIn = false then (e.setModel mid {}).copyForget mid
      else e.setModel mid { m with
        state := 3, parkedAt := e.now, unload := none, stream := false, streamInc := 0, marked := [], toMark := [], toInc := 0 }
  let e := (e.holdingsClear i).dropInst i
  match lead, m.unload with
  | true, some (ring, tag) => e.complete (loadRec 0 ring tag e.now 0 0)
  | _, _ => e

/-- Admitted requests of an instance that still hold slots. -/
def Eng.instRequests (e : Eng) (i : Nat) : Bool := e.led.recs.any (fun p => decide (p.2.inst = i ∧ p.2.admitStamp ≠ 0))

end Sys2Proof.Machine
end

