-- ==== Sys2Proof/Machine/Rng.lean ====
section
/-!
DEFINITION. The draw function of the Random Stream Unit (spec/11_random_streams.md R397 to R403, R406): the generator's
transition, its scrambler, the root of a seed, stream positions and jumps.
-/
namespace Sys2Proof.Machine

/-- One application of T (R399). -/
def Gen.step (g : Gen) : Gen :=
  let x := g.s1 <<< 17
  let s2 := g.s2 ^^^ g.s0
  let s3 := g.s3 ^^^ g.s1
  let s1 := g.s1 ^^^ s2
  let s0 := g.s0 ^^^ s3
  { s0, s1, s2 := s2 ^^^ x, s3 := s3.rotateLeft 45 }

/-- The scrambler (R400). -/
def Gen.scramble (g : Gen) : DWord := (g.s0 + g.s3).rotateLeft 23 * 0xE5A34C71B06D93C9 + g.s1

/-- mix of R401. -/
def mix (x : DWord) : DWord :=
  let x := (x ^^^ (x >>> 31)) * 0x8E2F61D5A37B94C3
  let x := (x ^^^ (x >>> 29)) * 0x5B1DE807C94A2F6D
  x ^^^ (x >>> 32)

/-- The root of a 128-bit seed (R401). -/
def rootOf (seed : Nat) : Gen :=
  let a : DWord := BitVec.ofNat 64 seed
  let b : DWord := BitVec.ofNat 64 (seed / 2 ^ 64)
  let r := fun (c : DWord) => mix (a ^^^ c) ^^^ (mix (b ^^^ c)).rotateLeft 32
  let g : Gen := { s0 := r 1, s1 := r 2, s2 := r 3, s3 := r 4 }
  if g = { s0 := 0, s1 := 0, s2 := 0, s3 := 0 } then { g with s0 := 1 } else g

/-- The stream number N (R397). -/
def streamNo (mid rqid sib step purpose : Nat) : Nat :=
  purpose % 16 + 16 * (step % 2 ^ 48) + 2 ^ 52 * (sib % 64) + 2 ^ 58 * (rqid % 2 ^ 32) + 2 ^ 90 * (mid % 2 ^ 12)

/-- The stream position P of an element. -/
def streamPos (n element : Nat) : Nat := n * 2 ^ 64 + element

/-- A state as one 256-bit number. -/
def Gen.pack (g : Gen) : Nat := g.s0.toNat + 2 ^ 64 * g.s1.toNat + 2 ^ 128 * g.s2.toNat + 2 ^ 192 * g.s3.toNat

/-- The state that a 256-bit number spells. -/
def genOf (v : Nat) : Gen :=
  { s0 := BitVec.ofNat 64 v, s1 := BitVec.ofNat 64 (v / 2 ^ 64), s2 := BitVec.ofNat 64 (v / 2 ^ 128), s3 := BitVec.ofNat 64 (v / 2 ^ 192) }

/-- A linear map over F2 by its columns, applied to a vector. -/
def mapApply (cols : List Nat) (v : Nat) : Nat :=
  match cols with
  | [] => 0
  | c :: r => Nat.xor (if v % 2 = 1 then c else 0) (mapApply r (v / 2))

/-- One map after another, by columns. -/
def mapAfter (a b : List Nat) : List Nat := b.map (fun v => mapApply a v)

/-- The columns of T. -/
def stepCols : List Nat := (List.range 256).map (fun k => (genOf (2 ^ k)).step.pack)

/-- The map to the power of a number of at most `bits` bits, applied to a vector. -/
def mapPow (m : List Nat) (p v : Nat) (bits : Nat) : Nat :=
  match bits with
  | 0 => v
  | k + 1 => if p = 0 then v else mapPow (mapAfter m m) (p / 2) (if p % 2 = 1 then mapApply m v else v) k

/-- T applied `p` times, for p below 2^166 (R398, R410). -/
def Gen.jump (g : Gen) (p : Nat) : Gen := genOf (mapPow stepCols p g.pack 166)

/-- The state from which the draw at a coordinate is scrambled (R406). -/
def genAt (seed mid rqid sib step purpose element : Nat) : Gen :=
  (rootOf seed).jump (streamPos (streamNo mid rqid sib step purpose) element)

/-- The draw at a coordinate (R397). -/
def drawAt (seed mid rqid sib step purpose element : Nat) : DWord := (genAt seed mid rqid sib step purpose element).scramble

/-- `n` consecutive draws from a loaded state. -/
def Gen.draws (g : Gen) (n : Nat) : List DWord :=
  match n with
  | 0 => []
  | k + 1 => g.scramble :: g.step.draws k

end Sys2Proof.Machine
end

