-- ==== Sys2Proof/Machine/Pantry.lean ====
section
/-!
DEFINITION. The Pantry's pipes (spec/08_pantry_codec.md R319 to R332), the end of the Shelver's commands, and streaming grants
(spec/13 R459).
-/
namespace Sys2Proof.Machine

/-! ### Pieces -/

/-- Elements of the crates of a command's instance. -/
def Eng.cmdElems (e : Eng) (c : PanCmd) : Nat := crateElems (e.instModel c.inst).crateBytes (e.instModel c.inst).kvFmt

/-- Formats that a command reads and writes: those of a MOVE, and the KV format for a COPY, which converts nothing (R319). -/
def Eng.cmdFmts (e : Eng) (c : PanCmd) : Nat × Nat :=
  if c.kind = 1 then (c.srcFmt, c.dstFmt) else let kv := (e.instModel c.inst).kvFmt; (kv, kv)

/-- Bytes that a piece reads and writes (R307, R321). -/
def Eng.pieceBytes (e : Eng) (c : PanCmd) (k : Nat) : Nat × Nat :=
  if c.kind = 3 then let n := min (2 ^ 21) (c.group * 4096 - k * 2 ^ 21); (n, n)
  else (crateSize (e.cmdElems c) (e.cmdFmts c).1, frameSize (e.cmdElems c) (e.cmdFmts c).2)

/-- Where a piece is written: crate `k` of a MOVE at DST_ADDR + k frames of DST_FMT (R320), of a COPY at the destination group's
address + k frames, and a BULK's piece 2 MiB after the one before it (R321). -/
def Eng.pieceAddr (e : Eng) (c : PanCmd) (k : Nat) : Nat :=
  if c.kind = 3 then c.dstAddr + k * 2 ^ 21
  else
    let base := if c.kind = 1 then c.dstAddr else match e.grp c.dstGroup with
      | some g => g.addr
      | none => 0
    base + k * frameSize (e.cmdElems c) (e.cmdFmts c).2

/-- Bytes of a piece charged to the Store and Cellar buckets (R325). -/
def Eng.pieceCharge (e : Eng) (c : PanCmd) (k : Nat) : Nat × Nat :=
  let b := e.pieceBytes c k
  let on := fun (t : Nat) => (if c.srcTier = t then b.1 else 0) + (if c.dstTier = t then b.2 else 0)
  (on 1, on 2)

/-- The next piece of a command: one to re-run, or the first not started. -/
def PanCmd.next (c : PanCmd) : Option Nat := match c.rerun with
  | k :: _ => some k
  | [] => if c.started < c.pieces then some c.started else none

/-- The first piece that may start, in queue order (R324): one that is not admitted is passed over with every later piece of
its PID. A copy of an image is held by no regulator, and so not by another piece that is (R490). -/
def pickPiece (e : Eng) (barred : List Nat) (l : List PanCmd) : Option (PanCmd × Nat) :=
  match l with
  | [] => none
  | c :: r =>
    match c.next with
    | none => pickPiece e barred r
    | some k =>
      let b := e.pieceCharge c k
      if e.imageCmd c || (!barred.contains c.pid && (decide (c.kind ≠ 3) || c.leaveOk) && e.regOpen c.pid b.1 b.2 0) then some (c, k)
      else pickPiece e (c.pid :: barred) r

/-- A pipe is in service, with its generator, and runs nothing. -/
def Eng.pipeFree (e : Eng) (p : Nat) : Bool := !e.pan.retired.contains p && (tget e.pan.pipes p).isNone

/-- A free pipe whose domain is ON (R566). -/
def Eng.freePipe (e : Eng) : Option Nat := [0, 1, 2, 3].find? (fun p => e.pipeFree p && e.domOn (10 + p))

/-- The free pipes wake for a piece (R565). -/
def Eng.pipesWake (e : Eng) : Eng := ([0, 1, 2, 3].filter e.pipeFree).foldl (fun e p => e.wake (10 + p)) e

/-- A command whose piece `k` has started. -/
def PanCmd.start (c : PanCmd) (k : Nat) : PanCmd :=
  match c.rerun with
  | j :: r => if j = k then { c with rerun := r } else c
  | [] => { c with started := k + 1 }

/-- Put a command back where it belongs: in its queue while it has pieces to start, among the running ones after. -/
def Eng.panUpdate (e : Eng) (c : PanCmd) : Eng :=
  let rep := fun (l : List PanCmd) => l.map (fun (x : PanCmd) => if x.id = c.id then c else x)
  let out := fun (l : List PanCmd) => l.filter (fun (x : PanCmd) => decide (x.id ≠ c.id))
  if c.next.isSome then
    { e with pan := { e.pan with demand := rep e.pan.demand, background := rep e.pan.background, running := rep e.pan.running } }
  else
    ({ e with pan := { e.pan with
        demand := out e.pan.demand, background := out e.pan.background, running := out e.pan.running ++ [c] } }).panFill

/-- The seed of PAN_SEED. -/
def Eng.panSeed (e : Eng) : Nat := e.pairv 0x7010 + 2 ^ 64 * e.pairv 0x7018

/-- The layer group of crate `k` of an instance's groups (R255). -/
def Eng.crateLg (e : Eng) (i k : Nat) : Nat := (((e.lgRanks i).map (fun p => p.1))[k]?).getD 0

/-- The generator load of a piece (R316, R409): the position of element 0 of its crate's stream. -/
def Eng.panJump (e : Eng) (c : PanCmd) (k pipe : Nat) : Jump :=
  let key := match e.grp c.group with
    | some g => g.key
    | none => 0
  let stp := key / 2 ^ 38 % 2 ^ 26 + 2 ^ 26 * e.crateLg c.inst k
  { rank := 3, gen := 68 + pipe, seed := e.panSeed, pos := streamPos (streamNo c.mid (key % 2 ^ 32) (key / 2 ^ 32 % 64) stp 8) 0 }

/-- A piece converts (R310). -/
def PanCmd.converts (c : PanCmd) : Bool := decide (c.kind = 1 ∧ c.srcFmt ≠ c.dstFmt)

/-- Start a piece on a pipe (R321, R324, R325). A piece waits for its pipe while no free one is ON (R566). -/
def Eng.pieceStart (e : Eng) : Eng :=
  let again := e.pan.running.filter (fun (c : PanCmd) => c.next.isSome)
  match e.freePipe, pickPiece e [] (again.filter (fun c => c.demand) ++ e.pan.demand ++ again.filter (fun c => !c.demand) ++ e.pan.background) with
  | none, some _ => e.pipesWake
  | some p, some (c, k) =>
    let e := (e.wake (10 + p)).works 7
    let b := e.pieceCharge c k
    let e := if e.imageCmd c then e.modPart c.pid (fun q => { q with storeB := q.storeB + b.1, cellarB := q.cellarB + b.2 })
      else e.regCharge c.pid b.1 b.2 0
    let e := if c.own then e.reqBytes (rqSlot c.rqid) b.1 b.2 0 else e
    let e := e.panUpdate (c.start k)
    let e := { e with pan := { e.pan with pipes := tput e.pan.pipes p { cmd := c.id, piece := k } } }
    if c.converts then { e with rsu := { e.rsu with queue := e.rsu.queue ++ [e.panJump c k p] } } else e
  | _, _ => e

/-- A command by number. -/
def Eng.panCmd (e : Eng) (id : Nat) : Option PanCmd :=
  (e.pan.running ++ e.pan.demand ++ e.pan.background).find? (fun (c : PanCmd) => decide (c.id = id))

/-- Take a command out of every list. -/
def Eng.panDrop (e : Eng) (id : Nat) : Eng :=
  let out := fun (l : List PanCmd) => l.filter (fun (x : PanCmd) => decide (x.id ≠ id))
  ({ e with pan := { e.pan with demand := out e.pan.demand, background := out e.pan.background, running := out e.pan.running } }).panFill

/-- The Shelver acts on the end of a command (R284, R287, R328 to R330): 0 done, 1 source lost, 2 source intact. A Cellar move of
a lead waits for every chip of the instance (R292). -/
def Eng.opEnd (e : Eng) (id out : Nat) : Eng :=
  match tget e.shv.ops id with
  | none => e
  | some op =>
    if op.what = 0 ∧ out = 0 ∧ !op.waiting.isEmpty then { e with shv := { e.shv with ops := tput e.shv.ops id { op with here := true } } }
    else
      let e := { e with shv := { e.shv with ops := tdel e.shv.ops id } }
      match op.what with
      | 0 => e.moveEnd op op.fmt out
      | 1 => e.copyEnd op out
      | 3 => e
      | _ =>
        if out = 0 then e.weightsDone op.mid else e.loadFail op.mid

/-- A command ends (R328, R329): counted, its leave released, and reported to the Shelver. -/
def Eng.cmdEnd (e : Eng) (c : PanCmd) (out : Nat) : Eng :=
  let e := e.panDrop c.id
  let e := if out = 0 then e.bump F.PAN_CMDS_COUNT
    else if out = 1 then e.poke F.PAN_FAILS_LOST (satN 16 (e.fv F.PAN_FAILS_LOST + 1))
    else e.poke F.PAN_FAILS_INTACT (satN 16 (e.fv F.PAN_FAILS_INTACT + 1))
  let e := if c.kind = 3 then e.leaveEnd 1 c.id else e
  e.opEnd c.id out

/-- A demotion that converts: its elements are rounded stochastically (R310). -/
def PanCmd.draws (c : PanCmd) : Bool := c.converts && decide (c.dstTier = 2)

/-- A piece has been read and written: its bytes (R310 to R317) with the frame's rest 0 (R307), and the saturated elements and 0xFF
scales counted. -/
def Eng.pieceWrite (e : Eng) (c : PanCmd) (k pipe : Nat) (src : List Nat) : Eng :=
  let n := e.cmdElems c
  let draws := if c.draws then
      match tget e.rsu.gens (68 + pipe) with
      | some g => some (g.draws n)
      | none => none
    else none
  let r := if c.kind = 1 then convCrate c.srcFmt c.dstFmt n src draws else (src, 0, 0)
  let b := e.pieceBytes c k
  let e := (e.bump F.PAN_SAT_COUNT r.2.1).bump F.PAN_NONFINITE_COUNT r.2.2
  let e := (e.count 0x100F b.1 (some c.pid) (some c.inst)).count 0x1010 b.2 (some c.pid) (some c.inst)
  let pad := if c.kind = 3 then [] else List.replicate (b.2 - r.1.length) 0
  e.emit (.pantryBytes c.id k (e.pieceAddr c k) ((r.1 ++ pad).map (fun v => BitVec.ofNat 8 v)))

/-- The generator load that a pipe's piece waits for is still to come. -/
def Eng.pipeWaits (e : Eng) (pipe : Nat) (c : PanCmd) : Bool :=
  e.rsu.queue.any (fun (j : Jump) => decide (j.gen = 68 + pipe)) || (c.draws && (tget e.rsu.gens (68 + pipe)).isNone)

/-- A pipe's piece ends with error 0 none, 1 in its source, 2 in its destination (R328, R329). A piece without error whose generator
load is still to come is not done. -/
def Eng.pieceDone (e : Eng) (pipe error : Nat) (src : List Nat) : Eng :=
  match tget e.pan.pipes pipe with
  | none => e
  | some x =>
    let free := { e with pan := { e.pan with pipes := tdel e.pan.pipes pipe } }
    match e.panCmd x.cmd with
    | none => free
    | some c =>
      if decide (error = 0) && e.pipeWaits pipe c then e
      else
        let e := free.setDom (10 + pipe) { free.dom (10 + pipe) with used := e.now }
        if error ≠ 0 then
          let e := if error = 1 then
              e.capture { code := 0x031, unit := 7, part := pipe, rqid := c.rqid, pid := c.pid, pidV := true, inst := c.inst, addr := c.srcAddr }
            else e
          ({ e with rsu := { e.rsu with queue := e.rsu.queue.filter (fun (j : Jump) => decide (j.gen ≠ 68 + pipe)) } }).cmdEnd c error
        else
          let e := e.pieceWrite c x.piece pipe src
          let c := { c with written := c.written + 1 }
          let e := e.panUpdate c
          if c.written = c.pieces then e.cmdEnd c 0 else e

/-! ### Meanings -/

/-- PIECE_START: a free pipe takes the first piece that is admitted (R324). -/
def execPieceStart (s : State) : Host.Outcome State Fault Refusal :=
  live s (fun e => if e.fb F.PAN_CTL_EN && !e.unitHalted 7 then e.pieceStart else e)

/-- PIECE_DONE: a pipe reports its piece (R328). -/
def execPieceDone (pipe error : Nat) (src : List (BitVec 8)) (s : State) : Host.Outcome State Fault Refusal :=
  live s (fun e => e.pieceDone pipe error (natBytes src))

/-- OLD_FRAMES_FREED: the old frames of a moved group are freed once every step open at its completion has resolved (R284). -/
def execOldFramesFreed (group : Nat) (s : State) : Host.Outcome State Fault Refusal := live s (fun e => e.framesFree group)

/-- Give an instance its next streaming grant, if the owner's Cellar bucket admits it (R458, R459). -/
def Eng.streamGive (e : Eng) (i : Nat) : Option Eng :=
  let p := (e.inst i).owner
  if e.regOpen p 0 65536 0 then
    let e := e.regCharge p 0 65536 0
    let e := { e with kpr := { e.kpr with streamGrants := tsetD e.kpr.streamGrants i (tgetD e.kpr.streamGrants i 0 + 65536) 0 } }
    some ((e.count 0x1011 65536 (some p) (some i)).tell (.streamGrant i 65536))
  else none

/-- Streaming requests that wait are tried in the order in which they arrived (R466 item 5). -/
def Eng.streamRetry (e : Eng) : Eng :=
  let w := e.kpr.streamWait
  w.foldl (fun e x =>
    match e.streamGive x.1 with
    | some e => e
    | none => { e with kpr := { e.kpr with streamWait := e.kpr.streamWait ++ [x] } }) { e with kpr := { e.kpr with streamWait := [] } }

/-- CELLAR_STREAM_GRANT: the array asks for a grant of 65,536 B; it waits while the bucket does not let it through (R459). -/
def execCellarStreamGrant (inst : Nat) (s : State) : Host.Outcome State Fault Refusal :=
  liveOr s (fun e => e.tell .engineAbsent) (fun e =>
    if !(e.inst inst).active then e
    else if (e.kpr.streamWait.filter (fun x => decide ((e.inst x.1).owner = (e.inst inst).owner))).isEmpty then
      match e.streamGive inst with
      | some e => e
      | none => { e with kpr := { e.kpr with streamWait := e.kpr.streamWait ++ [(inst, e.now)] } }
    else { e with kpr := { e.kpr with streamWait := e.kpr.streamWait ++ [(inst, e.now)] } })

end Sys2Proof.Machine
end

