-- ==== Sys2Proof/Machine/Views.lean ====
section
/-!
DEFINITION. The views of RWS fields (spec/02_tally_and_step_time.md R56 to R63): capture, edges, held writes and the bank switch
of R66.
-/
namespace Sys2Proof.Machine

/-- Offsets of the instance-view registers that a select register addresses. -/
def instOffs : List Nat := [0x3088, 0x308C, 0x4044, 0x4048, 0x404C, 0x4050, 0x4054, 0x6084, 0x608C]

/-- Keys of the instance-view fields of instance `i` (R56). -/
def instKeys (i : Nat) : List Nat := regKey (0xE080 + 4 * i) 0 :: instOffs.map (fun o => regKey o i)

/-- The instance whose view a register copy is; none for an engine-wide view. -/
def keyInst (k : Nat) : Option Nat :=
  let off := k / 65536
  if instOffs.contains off then some (k % 65536)
  else if 0xE080 ≤ off ∧ off < 0xE0C0 then some ((off - 0xE080) / 4)
  else none

/-- The word of a register copy by key, as last written. -/
def Eng.keyWord (e : Eng) (k : Nat) : Word := tgetD e.regs k (rstWord (k / 65536))

/-- Capture the pending instance-view values (R60): the registers as last written. Where a step lost before its edge has left its window open
(assumption log 60), writes held in that window are among them, and come into force at the edge at which they are accepted, not at the one
after it: the spec has no rule for such a window (DESIGN CHOICE, assumption log 60). -/
def Eng.captureViews (e : Eng) (i : Nat) : Eng :=
  { e with cap := (instKeys i).foldl (fun t k => tsetD t k (e.keyWord k) (rstWord (k / 65536))) e.cap }

/-- The first frame boundary at or after `x` (R65). A table without length has none, and `x` itself stands in for it. -/
def Eng.frameStart (e : Eng) (x : Nat) : Nat :=
  let len := e.cstLen e.tal.activeBank
  if len = 0 then x else if x ≤ e.cstBase then e.cstBase else e.cstBase + cdiv (x - e.cstBase) len * len

/-- An accepted write takes effect (R9). A new BANK arms the switch of R66: one that differs from the bit in force, which the spec does not
say, so that BANK written again with the same value after a CST_REJECTED arms none (DESIGN CHOICE, assumption log 60). A new quota is
committed as far as Store backs it (R265). -/
def Eng.takeEffect (e : Eng) (k : Nat) (w : Word) : Eng :=
  let was := tgetD e.act k (rstWord (k / 65536))
  let e := { e with act := tsetD e.act k w (rstWord (k / 65536)) }
  if k = regKey 0xE020 0 ∧ bitOf was.toNat 1 ≠ bitOf w.toNat 1 then
    { e with tal := { e.tal with
        switchAt := if bitOf w.toNat 1 = e.tal.activeBank then none else some (e.frameStart e.now) } }
  else if k / 65536 = 0x6084 ∧ was ≠ w then (e.quotaTake (k % 65536)).balance (k % 65536)
  else if k / 65536 = 0x608C ∧ was ≠ w then (e.balance (k % 65536)).recallAll
  else if k = regKey F.SHV_WM_SHELF_LOW.off 0 ∧ was ≠ w then e.activeInsts.foldl Eng.balance e
  else e

/-- Bucket RATE registers. -/
def rateOffs : List Nat := [0xC030, 0xC03C, 0xC048]

/-- A RATE that takes a nonzero value from 0 sets its level to BURST, and one that becomes 0 lets waiting requests in at the end of its tick (R457,
R466). -/
def Eng.rateStart (e : Eng) (was : Nat) (k : Nat) : Eng :=
  let off := k / 65536
  let p := k % 65536
  let now := (tgetD e.act k 0).toNat
  if !rateOffs.contains off || decide (was ≠ 0 ↔ now ≠ 0) then e
  else if now = 0 then { e with kpr := { e.kpr with admitting := true } }
  else if off = 0xC030 then e.modPart p (fun x => { x with store := e.av F.KPR_PART_STORE_BURST_BURST p })
  else if off = 0xC03C then e.modPart p (fun x => { x with cellar := e.av F.KPR_PART_CELLAR_BURST_BURST p })
  else e.modPart p (fun x => { x with raf := e.av F.KPR_PART_RAF_BURST_BURST p })

/-- The last of the writes to each register copy (R9), in the order in which they were accepted. -/
def lastWrites (l : List (Nat × Word × Nat)) : List (Nat × Word × Nat) :=
  match l with
  | [] => []
  | x :: r => if r.any (fun y => decide (y.1 = x.1)) then lastWrites r else x :: lastWrites r

/-- The accepted writes that `p` selects take effect, the last for each register copy (R9), with what follows from new rates (R457) and a new cap
(R508). -/
def Eng.applyPend (e : Eng) (p : Nat × Word × Nat → Bool) : Eng :=
  let hit := e.pend.filter p
  if hit.isEmpty then e
  else
    let last := lastWrites hit
    let was := last.map (fun x => (x.1, (tgetD e.act x.1 0).toNat))
    let e := last.foldl (fun e x => e.takeEffect x.1 x.2.1) { e with pend := e.pend.filter (fun x => !p x) }
    (was.foldl (fun e x => e.rateStart x.2 x.1) e).leaveDecide

/-- A write to a register with RWS fields: a read returns it at once, and it is accepted now or held (R9, R61). -/
def Eng.rwsWrite (e : Eng) (off sel : Nat) (w : Word) : Eng :=
  let e := e.putReg off sel w
  let k := regKey off sel
  match keyInst k with
  | some i => if (e.inst i).win then { e with held := e.held ++ [(i, k, w)] } else { e with pend := e.pend ++ [(k, w, e.now)] }
  | none => { e with pend := e.pend ++ [(k, w, e.now)] }

/-- Items 1 to 3 of R62 at an edge of an instance. -/
def Eng.edgeViews (e : Eng) (i : Nat) : Eng :=
  let e := { e with pend := e.pend.filter (fun x => decide (keyInst x.1 ≠ some i)) }
  let e := (instKeys i).foldl (fun e k => e.takeEffect k (tgetD e.cap k (rstWord (k / 65536)))) e
  let e := e.applyPend (fun x => (keyInst x.1).isNone && decide (x.2.2 < e.now))
  e.closeWindow i

/-- An idle edge of the idle instances and, when all are idle, of the engine (R58). -/
def Eng.idleViews (e : Eng) : Eng :=
  let all := e.idle
  e.applyPend (fun x => decide (x.2.2 < e.now) && (match keyInst x.1 with
    | some i => e.instIdle i
    | none => all))

/-- The first Tally after now at which a barred partition is barred no more (R72). -/
def Eng.barEnd (e : Eng) : Nat := e.frameStart (e.now + 1)

/-- Whether the slot at `x` will be usable by `p` (R68), with the bar of R72 until the next frame boundary. -/
def Eng.usableAt (e : Eng) (p x : Nat) : Bool :=
  let s := e.slotAt x
  if s.2.1 then !(e.tal.barred.contains p && decide (x < e.barEnd)) else decide (s.1 = p)

/-- Every slot from `t` to `last` is usable (R69). -/
def edgeWalk (e : Eng) (p t last fuel : Nat) : Bool :=
  match fuel with
  | 0 => true
  | k + 1 => if last ≤ t then true else e.usableAt p t && edgeWalk e p (e.slotAt t).2.2 last k

/-- R69. -/
def Eng.edgePermitted (e : Eng) (p x est : Nat) : Bool :=
  !e.cstOn || edgeWalk e p x (x + est + e.av F.TAL_CST_CTL_GUARD) (est + e.av F.TAL_CST_CTL_GUARD)

/-- The starts of slots after `t`, up to `last`. -/
def slotStarts (e : Eng) (t last fuel : Nat) : List Nat :=
  match fuel with
  | 0 => []
  | k + 1 =>
    let n := (e.slotAt t).2.2
    if last < n then [] else n :: slotStarts e n last k

/-- The edge of R70 and R71 for a first candidate, with whether CST_NO_FIT is raised; none where no slot usable by the partition
starts in the two frames after which the table only repeats. -/
def Eng.placeEdge (e : Eng) (p c est : Nat) : Option (Nat × Bool) :=
  if e.edgePermitted p c est then some (c, false)
  else
    let len := e.cstLen e.tal.activeBank
    let starts := (slotStarts e c (c + 2 * len) 16384).filter (fun x => e.usableAt p x)
    match starts.find? (fun x => e.edgePermitted p x est) with
    | some x => some (x, false)
    | none => starts.head?.map (fun x => (x, true))

end Sys2Proof.Machine
end

