-- ==== Sys2Proof/Machine/Compose.lean ====
section
/-!
DEFINITION. The Composer (spec/05_batch_composition.md R174 to R224): triggers, candidates and their order, appending and binding
slots, the end of a composition, and the end of a step.
-/
namespace Sys2Proof.Machine

/-! ### Slots -/

/-- A slot that gives logit rows: DECODE, TREE, or PREFILL with LAST. -/
def Slot.rowed (x : Slot) : Bool := decide (x.kind = 1 ∨ x.kind = 3) || (decide (x.kind = 2) && x.last)

/-- Rows of a slot (R215). -/
def Slot.rows (x : Slot) : Nat := if x.kind = 3 then 1 + x.ndraft else if x.rowed then 1 else 0

/-- Tokens reserved by slots. -/
def reservedOf (l : List Slot) : Nat := sumBy (fun (x : Slot) => x.tok) l

/-- Crate-list entries of slots. -/
def cratesOf (l : List Slot) : Nat := sumBy (fun (x : Slot) => x.ncrate) l

/-- Most entries of a crate list (R208). -/
def crateListMax : Nat := 196576

/-- Most slots of a packet. -/
def packetSlots : Nat := 16384

/-! ### Captured limits -/

/-- Captured BUDGET (R184). -/
def Eng.budget (e : Eng) (i : Nat) : Nat := min 262144 (e.cv F.CMP_INST_BUDGET_BUDGET i)

/-- Captured MAX_SLOTS; 0 and larger values stand for 16,384. -/
def Eng.maxSlots (e : Eng) (i : Nat) : Nat :=
  let v := e.cv F.CMP_INST_CFG_MAX_SLOTS i
  if v = 0 ∨ packetSlots < v then packetSlots else v

/-- Captured CHUNK_MAX, at least 64. -/
def Eng.chunkMax (e : Eng) (i : Nat) : Nat := max 64 (e.cv F.CMP_INST_CHUNK_CHUNK_MAX i)

/-- BUDGET_LEFT. -/
def Eng.budgetLeft (e : Eng) (i : Nat) (c : Comp) : Nat := e.budget i - reservedOf c.slots

/-- SLOTS_LEFT. -/
def Eng.slotsLeft (e : Eng) (i : Nat) (c : Comp) : Nat := e.maxSlots i - c.slots.length

/-- CRATES_LEFT. -/
def Comp.cratesLeft (c : Comp) : Nat := crateListMax - cratesOf c.slots

/-- A composition with nothing in it. -/
def Comp.none : Comp := { num := 0, start := 0 }

/-- An instance's composition. -/
def Eng.comp (e : Eng) (i : Nat) : Comp := (e.inst i).comp.getD Comp.none

/-- Change an instance's composition. -/
def Eng.modComp (e : Eng) (i : Nat) (f : Comp → Comp) : Eng := e.modInst i (fun x => { x with comp := x.comp.map f })

/-! ### What a bundle sees (R242) -/

/-- The engine as the bundle of this tick sees it: the Ledger's records and the outstanding step of instance `i` as they stood before the
tick's commits and orders (R242). Drafts given at the start of the composition are seen. -/
def Eng.asSeen (e : Eng) (i : Nat) : Eng :=
  match e.seenNow with
  | none => e
  | some v =>
    let recs := v.recs.map (fun p => (p.1, match e.rc p.1 with
      | some r => { p.2 with draftV := r.draftV, draft := r.draft }
      | none => p.2))
    ({ e with led := { e.led with recs } }).modInst i (fun x => { x with step := (tgetD v.insts i {}).step })

/-! ### Candidates (R180, R239, R243) -/

/-- The class of a sibling: `some true` for the prefill pass, `some false` for the decode pass, none for one that no slot of its
own can be given (R185). -/
def Eng.candCls (e : Eng) (s : Nat) : Option Bool :=
  match e.rc s with
  | none => Option.none
  | some r =>
    if !e.ownTurn s then Option.none
    else if e.decodes s then some false
    else if r.state = 3 ∨ r.state = 4 then some true
    else Option.none

/-- The conditions of R180 for the composition `c`, pinning apart. -/
def Eng.candOk (e : Eng) (i s : Nat) (c : Comp) : Bool := e.eligFor i s c.start (fun r => c.blocked.contains r)

/-- The candidates of an instance's composition, by rising slot, with their class. -/
def Eng.candidates (e : Eng) (i : Nat) : List (Nat × Bool) :=
  let e := e.asSeen i
  let c := e.comp i
  e.led.recs.filterMap (fun p =>
    if e.candOk i p.1 c then (e.candCls p.1).map (fun k => (p.1, k)) else Option.none)

/-- Partition of a sibling. -/
def Eng.sibPid (e : Eng) (s : Nat) : Nat :=
  match e.rc s with
  | some r => rqPid r.rqid
  | none => 0

/-- MAX_DRAFT as LFLD gives it: 0 without a draft index. -/
def Eng.maxDraft (e : Eng) (s : Nat) : Nat :=
  match e.rc s with
  | some r => if r.draftV then (e.param (rqSlot r.rqid)).maxDraft else 0
  | none => 0

/-- REM of a sibling in the prefill class. -/
def Eng.remPrompt (e : Eng) (s : Nat) : Nat :=
  match e.rc s with
  | some r => r.prefillEnd - r.pos
  | none => 0

/-- WANT (LFLD field 12). -/
def Eng.want (e : Eng) (i s : Nat) (prefill : Bool) : Nat :=
  if prefill then min (e.remPrompt s) (e.chunkMax i / 64 * 64) else 1 + e.maxDraft s

/-- The relevant deadline: DEADLINE_FIRST before the first token, DEADLINE_LAST after it. -/
def LRec.relDeadline (r : LRec) : Nat := if r.newCount = 0 then r.deadlineFirst else r.deadlineLast

/-- Slack at START; none without a deadline. -/
def Eng.slack (e : Eng) (i s start : Nat) : Option Int :=
  match e.rc s with
  | none => Option.none
  | some r =>
    if r.relDeadline = 0 then Option.none
    else
      let chunk := max 1 (e.cv F.GAT_INST_CHUNK_EST_CHUNK i)
      let tps := if e.cv F.GAT_INST_TPS_TPS i = 0 then 0x100 else e.cv F.GAT_INST_TPS_TPS i
      let steps := if r.newCount = 0 then cdiv (r.prefillEnd - e.basePos s) chunk + 1 else cdiv ((r.maxNew - r.newCount) * 256) tps
      some ((r.relDeadline : Int) - start - (steps * e.fv F.GAT_INST_STEP_EST_EST i : Nat))

/-- Lexicographic order. -/
def lexLe (a b : List Nat) : Bool :=
  match a, b with
  | [], _ => true
  | _, [] => false
  | x :: r, y :: t => decide (x < y) || (decide (x = y) && lexLe r t)

/-- The key of a candidate: mode 0 the default order of ranks 1 to 5, mode 1 the order of submission (R239). -/
def Eng.candKey (e : Eng) (i mode s start : Nat) : List Nat :=
  match e.rc s with
  | none => []
  | some r =>
    let tail := [r.submitStamp, r.rqid, r.sib]
    if mode = 0 then
      match e.slack i s start with
      | some k =>
        if k < e.av F.CMP_URGENT_URGENT then [0, (k + 2 ^ 80).toNat] ++ tail
        else [1, tgetD e.stw.passes (rqPid r.rqid) 0] ++ tail
      | none => [1, tgetD e.stw.passes (rqPid r.rqid) 0] ++ tail
    else tail

/-- The handle of a candidate (R238). -/
def handleOf (s sib : Nat) (prefill : Bool) : Nat := s + 2 ^ 24 * sib + 2 ^ 30 * b2n prefill

/-- The handle of a candidate in the Ledger. -/
def Eng.handle (e : Eng) (p : Nat × Bool) : Nat :=
  match e.rc p.1 with
  | some r => handleOf p.1 r.sib p.2
  | none => 0

/-- The sibling's slot and class that a handle names, if its bits can name one. -/
def Eng.unhandle (e : Eng) (h : Nat) : Option (Nat × Bool) :=
  if 2 ^ 31 ≤ h then Option.none
  else
    match e.rc (h % 2 ^ 24) with
    | some r => if r.sib = h / 2 ^ 24 % 64 then some (h % 2 ^ 24, bitOf h 30) else Option.none
    | none => Option.none

/-- The current candidate that a handle names (R243). -/
def Eng.candidate (e : Eng) (i h : Nat) : Option (Nat × Bool) :=
  let e := e.asSeen i
  match e.unhandle h with
  | none => Option.none
  | some p => if e.candOk i p.1 (e.comp i) && decide (e.candCls p.1 = some p.2) then some p else Option.none

/-! ### Binding (R199 to R203) -/

/-- The slot of the outstanding step whose commit or loss a sibling waits for: its own row-bearing slot, or its request's LAST
chunk while it shares that. -/
def Eng.waitsOn (e : Eng) (s : Nat) : Option Slot :=
  match e.rc s with
  | none => Option.none
  | some r =>
    match (e.inst r.inst).step with
    | none => Option.none
    | some st => st.slots.find? (fun (x : Slot) => x.rowed && !x.done && slotHas s r x)

/-- Siblings of an instance that wait on a halted unit, or on a Sieve with no engine left, end at its composition, where no commit of theirs is
to come first (R396, R584). -/
def Eng.haltEnds (e : Eng) (i : Nat) : Eng :=
  (e.led.recs.filter (fun p => decide (p.2.inst = i ∧ 3 ≤ p.2.state ∧ p.2.state ≤ 6) && e.waitsHalted p.1 && (e.waitsOn p.1).isNone)).foldl
    (fun e p => e.endSib p.1 0x3A) e

/-- Store address of the history word of a position: a prompt word, or a generated one that a replay prefills (R598). -/
def Eng.historyWord (e : Eng) (r : LRec) (p : Nat) : Nat :=
  if p < r.promptLen then e.promptWord (rqSlot r.rqid) p
  else
    match r.pages[(p - r.promptLen) / 1020]? with
    | some g => e.pageAddr g + 4 * ((p - r.promptLen) % 1020)
    | none => 0

/-- The BIND record of a slot bound other than as composed: its index and the row of R200 that applied (R604). -/
def Eng.traceBind (e : Eng) (i idx row : Nat) (x : Slot) : Eng :=
  e.trace { kind := 4, inst := i, pid := rqPid x.rqid, pidV := true, sib := x.sib, rqid := x.rqid, gen := x.gen,
            step := (e.comp i).num, arg := idx + 2 ^ 16 * row }

/-- Void a slot (R200, R210, R211; row 0 for a refusal of leave, R510): its entries stay, all void. -/
def Eng.voidSlot (e : Eng) (i idx row : Nat) (x : Slot) : Slot × Eng :=
  let e := (e.bump F.CMP_VOID_COUNT).count 0x1004 1 (some (rqPid x.rqid)) (some i)
  let e := if row = 0 then e else e.traceBind i idx row x
  ({ x with kind := 0, last := false, copy := false, dset := false, ndraft := 0, ntok := 0, src := 0, drawSlot := 0, drawStep := 0,
            draft := 0, root := 0, rootV := false, ents := x.ents.map voidEnt, bound := true, reissue := false }, e)

/-- Complete the crate entries of a slot that was appended for a sibling without a map of its own (R264): the block that it writes is
pinned now, allocated where the split gave none. Any other slot has its pins already. -/
def Eng.pinBound (e : Eng) (x : Slot) (r : LRec) : Option (Slot × Eng) :=
  if x.kind = 2 ∨ !x.pins.isEmpty then some (x, e)
  else
    match pinBlocks e x.lslot (rqSlot r.rqid) r.inst (r.pos / 64) 1 with
    | none => none
    | some (gs, e) =>
      let mine := gs.flatMap (fun g => e.entsOf g (r.pos / 64) 0)
      let ents := x.ents.map (fun (c : CrateEnt) => (mine.find? (fun m => decide (m.block = c.block ∧ m.lg = c.lg))).getD c)
      some ({ x with pins := gs, ents }, e.balance r.inst)

/-- The entries that a bound slot uses; the others become void (R199). -/
def bindEnts (tree copy : Bool) (lo hi : Nat) (l : List CrateEnt) : List CrateEnt :=
  l.map (fun (c : CrateEnt) =>
    if c.use = 0 then (if lo ≤ c.block ∧ c.block ≤ hi then c else voidEnt c)
    else if c.use = 1 then (if tree then c else voidEnt c)
    else if copy then c else voidEnt c)

/-- Bind a slot to its sibling's record (R199, R200 but for its first and fourth rows, R203). One whose entries cannot be completed is
void (assumption log 55). -/
def Eng.bindSlot (e : Eng) (i idx : Nat) (x : Slot) : Slot × Eng :=
  match e.rc x.lslot with
  | none => e.voidSlot i idx 2 x
  | some r =>
    if !e.ownTurn x.lslot then e.voidSlot i idx 1 x
    else if r.state = 9 then e.voidSlot i idx 2 x
    else if !(decide (3 ≤ r.state ∧ r.state ≤ 6)) then e.voidSlot i idx 3 x
    else if r.maxNew ≤ r.newCount then e.voidSlot i idx 5 x
    else
      match e.pinBound x r with
      | none => e.voidSlot i idx 0 x
      | some (x, e) =>
      let y : Slot :=
        if x.kind = 2 then
          { x with
            pos := r.pos, src := e.historyWord r r.pos, drawStep := if x.last then r.newCount else 0, drawSlot := r.drawSlot,
            root := r.crateRoot, rootV := r.rootV, bound := true }
        else
          let copy := r.draftV && decide (0 < r.copyN)
          let nd := if x.kind = 3 then min r.posted x.rsv else 0
          let tree := decide (0 < nd)
          { x with
            kind := if tree then 3 else 1, ndraft := nd, ntok := 1 + nd, pos := r.pos, src := r.lastToken % 2 ^ 20,
            drawStep := r.newCount, drawSlot := r.drawSlot, dset := r.draftV && !r.dsetLast, copy, copyN := r.copyN,
            draft := if tree || copy then r.draft else 0, root := r.crateRoot, rootV := r.rootV,
            ents := bindEnts tree copy ((r.pos - r.copyN) / 64) (r.pos / 64) x.ents, bound := true }
      let row := if x.kind ≠ 3 then 0 else if y.kind = 1 then 6 else if y.ndraft < x.rsv then 7 else 0
      let e := if row = 0 then e else e.traceBind i idx row y
      (y, e)

/-- A lost slot placed by itself: it keeps its pins and entries (R202). -/
def reissued (lost : Slot) : Slot :=
  { lost with
    tok := lost.ntok, pins := lost.pins ++ lost.own, own := [], ownEnts := 0, bound := true, reissue := true, done := false,
    lost := false }

/-- A slot bound identical to a lost one (R200 first row, R202): it keeps the pins of both and the entries of the lost slot; the
rest of the composed slot's entries are void. Where the lost slot has more entries than the composed one reserved, the packet's crate list
grows by them, without another look at its room (R208): R200 binds the slot whatever its entries are, and gives no other outcome (DESIGN
CHOICE, assumption log 75). -/
def reissueOf (x lost : Slot) : Slot :=
  let rest := (x.ents.drop lost.ents.length).map voidEnt
  { reissued lost with
    tok := max x.tok lost.ntok, own := x.pins ++ x.own, ownEnts := rest.length, ents := lost.ents ++ rest,
    ncrate := (lost.ents ++ rest).length }

/-- What is left of a re-issued slot when its composition is discarded: the lost slot, without the append of its own. -/
def Slot.bare (x : Slot) : Slot :=
  let ents := x.ents.take (x.ents.length - x.ownEnts)
  { x with tok := x.ntok, own := [], ownEnts := 0, ents, ncrate := ents.length }

/-- Carried slots stand in the order of their lost steps and then of their slots (R202, R206). -/
def Slot.carriedLe (a b : Slot) : Bool :=
  decide (a.lostStep < b.lostStep) || decide (a.lostStep = b.lostStep ∧ a.lostIdx ≤ b.lostIdx)

/-- Carry a slot of an instance. -/
def Inst.carry (x : Inst) (s : Slot) : Inst := { x with carried := oinsert Slot.carriedLe s x.carried }

/-- Put the lost slots of an instance into its composition, in order, as far as the packet has room (R202); the rest stay. Where one does
not fit, R202 does not say whether later ones are placed: the model's choice is that those that fit are (DESIGN CHOICE, assumption log
71). -/
def Eng.placeCarried (e : Eng) (i : Nat) : Eng :=
  let x := e.inst i
  match x.comp with
  | none => e
  | some c =>
    let r := x.carried.foldl (fun (acc : List Slot × List Slot) (l : Slot) =>
      if acc.1.length < packetSlots ∧ cratesOf acc.1 + l.ncrate ≤ crateListMax then (acc.1 ++ [reissued l], acc.2)
      else (acc.1, acc.2 ++ [l])) (c.slots, [])
    e.setInst i { x with comp := some { c with slots := r.1 }, carried := r.2 }

/-- Bind the slots of a list that `p` selects, in order; the list starts at index `idx`. -/
def bindWhere (e : Eng) (i idx : Nat) (p : Eng → Slot → Bool) (l : List Slot) : List Slot × Eng :=
  match l with
  | [] => ([], e)
  | x :: r =>
    let y := if !x.bound && p e x then e.bindSlot i idx x else (x, e)
    let t := bindWhere y.2 i (idx + 1) p r
    (y.1 :: t.1, t.2)

/-- Bind every slot of an instance's composition whose sibling waits for nothing. -/
def Eng.bindSlots (e : Eng) (i : Nat) : Eng :=
  match (e.inst i).comp with
  | none => e
  | some c =>
    let r := bindWhere e i 0 (fun e x => (e.waitsOn x.lslot).isNone) c.slots
    r.2.modComp i (fun c => { c with slots := r.1 })

/-- Void the slots of a composition that `p` selects and that are not void yet, under a row of R200; the list starts at index
`idx`. -/
def voidWhere (e : Eng) (i idx row : Nat) (p : Slot → Bool) (l : List Slot) : List Slot × Eng :=
  match l with
  | [] => ([], e)
  | x :: r =>
    let y := if decide (x.kind ≠ 0) && p x then e.voidSlot i idx row x else (x, e)
    let t := voidWhere y.2 i (idx + 1) row p r
    (y.1 :: t.1, t.2)

/-- Every slot of a composition is void. -/
def allVoid (l : List Slot) : Bool := l.all (fun (x : Slot) => decide (x.kind = 0))

/-- A row-bearing slot of the outstanding step has been lost (R200 first row, R185, R202): the slot composed for its sibling is
bound identical to it, those of its request's other siblings bind as VOID after a LAST row, and without a composed slot it is
appended to a waiting composition or carried. R202 speaks of a waiting composition: with none running or waiting, the model's choice is that
the slot is placed before the program of the next one (DESIGN CHOICE, assumption log 71). -/
def Eng.reissueLost (e : Eng) (i : Nat) (lost : Slot) : Eng :=
  match (e.inst i).comp with
  | none => e.modInst i (fun x => x.carry lost)
  | some c =>
    let has := c.slots.any (fun (y : Slot) => decide (y.lslot = lost.lslot))
    let l := c.slots.map (fun (y : Slot) => if y.lslot = lost.lslot then reissueOf y lost else y)
    let e := e.modComp i (fun c => { c with slots := l })
    let e := ((List.range c.slots.length).zip c.slots).foldl (fun e (p : Nat × Slot) =>
      if p.2.lslot = lost.lslot then e.traceBind i p.1 1 lost else e) e
    let e :=
      if lost.last then
        let v := voidWhere e i 0 1 (fun y => decide (y.rqid = lost.rqid ∧ y.lslot ≠ lost.lslot)) l
        v.2.modComp i (fun c => { c with slots := v.1 })
      else e
    if has then e
    else
      let e := e.modInst i (fun x => x.carry lost)
      if c.waiting then e.placeCarried i else e

/-! ### Appending (R182, R195, R196, R245) -/

/-- What an append needs of the crate list: blocks to pin (first and how many), draft crates written and read, and the half. -/
structure Need where
  lo : Nat
  n : Nat
  write : Bool
  read : Bool
  half : Bool
deriving DecidableEq, Repr

/-- The entries that R196 reserves for a slot of a sibling. -/
def Eng.needOf (e : Eng) (s : Nat) (prefill tree : Bool) (g : Nat) : Need :=
  let b := e.slotBlocks s prefill g
  match e.rc s with
  | none => { lo := b.1, n := b.2, write := false, read := false, half := false }
  | some r =>
    let o := e.openSlot s
    let half := match o with
      | some x => if x.kind = 1 ∨ x.kind = 3 then !x.dset else !r.dsetLast
      | none => !r.dsetLast
    let copies : Bool := match o with
      | some x => decide (x.kind = 3)
      | none => decide (0 < r.copyN)
    { lo := b.1, n := b.2, write := tree, read := r.draftV && !prefill && copies, half }

/-- Crate-list entries of a need for `l` layer groups. -/
def Need.entries (n : Need) (l : Nat) : Nat := l * (n.n + b2n n.write + b2n n.read)

/-- The draft group of a half. -/
def Eng.draftGrp (e : Eng) (s : Nat) (half : Bool) : Option Nat :=
  match e.smap s with
  | some m => if half then m.draft1 else m.draft0
  | none => Option.none

/-- Pin a list of groups. -/
def pinAll (e : Eng) (l : List Nat) : Option Eng :=
  match l with
  | [] => some e
  | g :: r =>
    match e.pinGrp g with
    | none => Option.none
    | some e => pinAll e r

/-- The entries kept for blocks that are pinned at binding only (R264): `n` blocks from `b`. -/
def Eng.voidEnts (e : Eng) (i b n : Nat) : List CrateEnt :=
  (List.range n).flatMap (fun k => (e.lgRanks i).map (fun p => { crate := 0, lg := p.1, block := b + k, tier := 3, use := 0 }))

/-- Pin what a need asks for (R213, R264, R269): the groups pinned and the entries. A sibling without a map of its own pins nothing yet:
its entries are completed at binding. -/
def Eng.pinNeed (e : Eng) (s i : Nat) (n : Need) : Option (List Nat × List CrateEnt × Eng) :=
  if e.unsplit s then (if e.canPin s n.lo n.n && !n.write && !n.read then some ([], e.voidEnts i n.lo n.n, e) else Option.none)
  else
  let b := match e.canPin s n.lo n.n with
    | true => pinBlocks e s (e.firstOf s) i n.lo n.n
    | false => Option.none
  match b with
  | none => Option.none
  | some (gs, e) =>
    let w := if n.write then e.draftGrp s n.half else Option.none
    let r := if n.read then e.draftGrp s (!n.half) else Option.none
    if (n.write && w.isNone) || (n.read && r.isNone) then Option.none
    else
      let blocks := ((List.range n.n).zip gs).flatMap (fun p => e.entsOf p.2 (n.lo + p.1) 0)
      let we := w.toList.flatMap (fun g => e.entsOf g 0 1)
      let re := r.toList.flatMap (fun g => e.entsOf g 0 2)
      (pinAll e (w.toList ++ r.toList)).map (fun e => (gs ++ w.toList ++ r.toList, blocks ++ we ++ re, e))

/-- Append one lane's candidate (R245): the code, the slot index, the entries reserved, and the engine. -/
def Eng.appendOne (e : Eng) (i h g : Nat) : Nat × Nat × Nat × Eng :=
  let c := e.comp i
  let idx := c.slots.length
  let v := e.asSeen i
  match v.unhandle h with
  | none => (1, 0, 0, e)
  | some (s, pre) =>
    match v.rc s with
    | none => (1, 0, 0, e)
    | some r =>
      let turn := v.ownTurn s
      let fit := if pre then
          decide (g ≤ v.remPrompt s ∧ g ≤ e.chunkMax i) && (decide (g = v.remPrompt s) || decide ((r.pos + g) % 64 = 0))
        else decide (g - 1 ≤ v.maxDraft s)
      let need := v.needOf s pre (!pre && decide (1 < g)) g
      let cnt := need.entries (e.shvL i)
      let code :=
        if g = 0 ∨ !v.candOk i s c ∨ (turn ∧ v.candCls s ≠ some pre) then 1
        else if c.slots.any (fun (y : Slot) => decide (y.lslot = s)) then 2
        else if e.budgetLeft i c < g then 3
        else if e.slotsLeft i c = 0 then 4
        else if !turn || !fit then 5
        else if 8191 < cnt ∨ c.cratesLeft < cnt then 6
        else 0
      if code ≠ 0 then (code, 0, 0, e)
      else
        match e.pinNeed s i need with
        | none => (7, 0, 0, e)
        | some (pins, ents, e) =>
          let last := pre && decide (g = v.remPrompt s)
          let x : Slot :=
            { kind := if pre then 2 else if 1 < g then 3 else 1, last, ndraft := if pre then 0 else g - 1, gen := r.gen, rqid := r.rqid,
              sib := r.sib, lslot := s, pos := v.basePos s, ntok := g, tok := g, ncrate := ents.length,
              rsv := if pre then 0 else g - 1, pins, ents, dset := need.half && r.draftV }
          let lost := (e.inst i).carried.find? (fun (y : Slot) => decide (y.lslot = s ∧ y.kind ≠ 0))
          let y := match lost with
            | some l => (reissueOf x l, (e.traceBind i idx 1 l).modInst i (fun z => { z with carried := z.carried.filter (fun (y : Slot) => decide (y.lslot ≠ s ∨ y.kind = 0)) }))
            | none => if (e.waitsOn s).isNone then e.bindSlot i idx x else (x, e)
          (0, idx, cnt, (y.2.modComp i (fun c => { c with slots := c.slots ++ [y.1] })).balance i)

/-- A rejected lane is counted (R183); every decision is traced. -/
def Eng.appendLane (e : Eng) (i h g : Nat) : Nat × Nat × Eng :=
  let a := e.appendOne i h g
  let c := e.comp i
  let e := if a.1 = 0 then a.2.2.2
    else (a.2.2.2.bump F.CMP_REJECT_COUNT).modComp i (fun c => { c with rejects := c.rejects + 1 })
  let e := if a.1 = 7 then e.bump F.SHV_PIN_FAIL_COUNT else e
  let s := h % 2 ^ 24
  let e := match e.rc s with
    | some r => e.trace { kind := 2, inst := i, pid := rqPid r.rqid, pidV := true, sib := r.sib, rqid := r.rqid, gen := r.gen,
                          step := c.num, arg := a.1 + 2 ^ 16 * a.2.1 + 2 ^ 32 * (g % 2 ^ 19) }
    | none => e.trace { kind := 2, inst := i, pid := (e.inst i).owner, pidV := true, step := c.num, arg := a.1 + 2 ^ 32 * (g % 2 ^ 19) }
  (if a.1 = 0 then 2 ^ 16 * a.2.1 else a.1, a.2.2.1, e)

/-! ### Discarding and ending compositions -/

/-- Release the pins of slots; those that re-issue a lost slot go back to the carried ones, with the pins of the lost slot (R202). -/
def Eng.dropSlots (e : Eng) (i : Nat) (l : List Slot) : Eng :=
  l.foldl (fun e (x : Slot) =>
    if x.reissue then (x.own.foldl (fun e g => e.unpin g) e).modInst i (fun y => y.carry x.bare) else e.unpinSlot x) e

/-- The one COMPOSE_REJECT event of a composition that ends with rejections (R183). -/
def Eng.rejectEvent (e : Eng) (i : Nat) (c : Comp) : Eng :=
  if c.rejects = 0 then e else e.raiseP 0x0041 4 (e.inst i).owner (satN 16 c.rejects + 2 ^ 16 * i) (some i)

/-- Discard the composition of an instance, running or waiting: no step number is used, its pins, budget and leave are released
and its window closes (R206, R638). -/
def Eng.discardComp (e : Eng) (i : Nat) : Eng :=
  match (e.inst i).comp with
  | none => e
  | some c =>
    let e := e.dropSlots i c.slots
    let e := if c.waiting then e else e.rejectEvent i c
    let e := if e.stw.run = some i then { e with stw := { e.stw with run := Option.none, wr := [], target := Option.none, ending := false, dmemFault := false } } else e
    let e := e.modInst i (fun x => { x with comp := Option.none })
    (e.leaveEndStep i c.num).closeWindow i

/-- Siblings that have ended and that nothing open contains any more drop their holdings. -/
def Eng.reapSlots (e : Eng) (l : List Slot) : Eng :=
  l.foldl (fun e (x : Slot) => (e.sibs (rqSlot x.rqid)).foldl (fun e s => e.reap s) e) e

/-- Clearing CMP_CTL.EN discards every composition and drops every trigger that waits (R638). -/
def Eng.discardAll (e : Eng) : Eng :=
  instRange.foldl (fun e i => (e.discardComp i).modInst i (fun x => { x with trig := Option.none, quiet := false })) e

/-- The instance triggers (R173 to R176, R638). A trigger of an instance that may compose no step now is dropped: R175 gives a
new one when it may. A halted engine still queues the trigger (R610). -/
def Eng.giveTrigger (e : Eng) (i : Nat) : Eng :=
  let x := e.inst i
  let open_ := { e with dbg := { e.dbg with engineHalted := false, haltWas := Option.none } }
  if open_.mayCompose i && x.comp.isNone && x.trig.isNone then e.setInst i { x with trig := some e.now }
  else e

/-- An idle instance with an eligible sibling triggers (R175). -/
def Eng.selfTrigger (e : Eng) (i : Nat) : Eng := if e.instIdle i && e.hasEligible i then e.giveTrigger i else e

/-- A waiting composition of which binding has voided every slot (R205): nothing is emitted and the instance triggers at once. -/
def Eng.allVoidEnd (e : Eng) (i : Nat) : Eng :=
  let c := e.comp i
  let e := e.dropSlots i c.slots
  let e := e.modInst i (fun x => { x with comp := Option.none })
  ((e.leaveEndStep i c.num).closeWindow i).giveTrigger i

/-- The row of R207 for a waiting composition whose slots binding has all voided. -/
def Eng.voidCheck (e : Eng) (i : Nat) : Eng :=
  let c := e.comp i
  if c.waiting && !c.slots.isEmpty && c.slots.all (fun (x : Slot) => x.bound) && allVoid c.slots then e.allVoidEnd i else e

/-- Bind what can be bound, with what follows where every slot is void. -/
def Eng.bindReady (e : Eng) (i : Nat) : Eng := (e.bindSlots i).voidCheck i

/-- A composition ends with no slot (R179): nothing is emitted and its window closes. -/
def Eng.endEmpty (e : Eng) (i : Nat) : Eng :=
  let c := e.comp i
  let e := e.dropSlots i c.slots
  let e := e.modInst i (fun x => { x with comp := Option.none, quiet := true })
  (e.leaveEndStep i c.num).closeWindow i

/-- PREFILL tokens of slots by partition. -/
def prefillSplit (l : List Slot) : List (Nat × Nat) :=
  partRange.filterMap (fun p =>
    let n := sumBy (fun (x : Slot) => if x.kind = 2 ∧ rqPid x.rqid = p then x.ntok else 0) l
    if n = 0 then Option.none else some (p, n))

/-- The composition that the Steward runs ends with the slots appended so far (R247, R248): EST and CFG from the context
registers, R179 and R223, the epoch change of R220 and R221, and the leave of R502. Context register EST is 64 bits wide and the packet's EST
field 32 (R209, R236): the model's choice is that the register is cut to 32 bits here, and that R69 is tested with the cut value (DESIGN CHOICE,
assumption log 75). -/
def Eng.endComp (e : Eng) (i : Nat) : Eng :=
  let w := e.stw
  let e := { e with stw := { w with run := Option.none, wr := [], target := Option.none, ending := false, dmemFault := false } }
  let e := e.modInst i (fun x => { x with lastCycles := satN 16 w.cycles })
  let e := e.placeCarried i
  let c := e.comp i
  let cfg := w.cfg % 16
  let e := e.modComp i (fun c => { c with waiting := true, est := w.est.toNat % two32, cfg, cycles := w.cycles })
  let e := e.trace { kind := 3, inst := i, pid := (e.inst i).owner, pidV := true, step := c.num,
                     arg := c.slots.length + 2 ^ 16 * satN 16 w.cycles + 2 ^ 32 * (w.est.toNat % two32) }
  let e := e.rejectEvent i c
  let x := e.inst i
  if c.slots.isEmpty || (x.changing && decide (cfg ≠ x.newCfg)) then e.endEmpty i
  else
    let e :=
      if !x.changing && decide (cfg ≠ x.cfg) then
        let e := e.setInst i { x with changing := true, nextEpoch := (x.epoch + 1) % 16, newCfg := cfg, cfgLoaded := false, drained := false }
        let e := e.trace { kind := 8, inst := i, pid := x.owner, pidV := true, step := c.num, arg := x.epoch + 16 * ((x.epoch + 1) % 16) }
        e.askConfig i cfg
      else e
    let e := e.bindReady i
    let split := prefillSplit c.slots
    let amt := e.prefillAmount (sumBy (fun (p : Nat × Nat) => p.2) split)
    if amt = 0 then e
    else if (e.inst i).comp.isNone then e
    else
      let e := e.modComp i (fun c => { c with leaveOk := false })
      e.leaveAsk { cls := 2, amt, pid := x.owner, who := i, step := c.num, since := e.now, split }

/-- A program fault (R249): the slots appended are withdrawn, the fault is recorded, and the default program runs for the same
trigger. cause: 1 DMEM range, 2 past the last bundle. -/
def Eng.progFault (e : Eng) (i cause : Nat) : Eng :=
  let w := e.stw
  let c := e.comp i
  let e := e.dropSlots i c.slots
  let e := e.modComp i (fun c => { c with slots := [] })
  let e := e.placeCarried i
  let word := w.pc % 2 ^ 13 + 2 ^ 13 * w.prog + 2 ^ 16 * cause
  let e := e.raiseP 0x0044 5 (e.inst i).owner word
  let e := e.bump F.STW_FAULTS_COUNT
  let x := e.inst i
  { e with stw := { e.stw with
      s := [], v := [], q := [], prog := 0, pc := 0, cycles := 0, wr := [], target := Option.none, ending := false, dmemFault := false,
      cfg := if x.changing then x.newCfg else x.cfg, est := 0, fitStop := false, mode := Option.none, drawn := [], cursor := 0,
      faultPc := w.pc, faultSlot := w.prog, faultCause := cause } }

/-! ### The end of a step -/

/-- POS of the PREFILL slots without LAST advances at the trigger that follows their step (R189). -/
def Eng.advanceChunks (e : Eng) (st : Step) : Eng :=
  st.slots.foldl (fun e (x : Slot) =>
    if x.kind = 2 ∧ !x.last then
      match e.rc x.lslot with
      | some r =>
        ((e.recUse x.lslot).setRc x.lslot { r with pos := x.pos + x.ntok }).mirror x.lslot
      | none => e
    else e) e

/-- The trigger that follows an outstanding step (R25, R174), once. -/
def Eng.stepTrigger (e : Eng) (i : Nat) : Eng :=
  match (e.inst i).step with
  | none => e
  | some st =>
    if st.triggered then e
    else
      let e := e.modInst i (fun x => { x with step := some { st with triggered := true } })
      (e.advanceChunks st).giveTrigger i

/-- Tokens, wants and gots of an instance's step are cleared at its end. -/
def Eng.clearToks (e : Eng) (i : Nat) : Eng :=
  let keep := fun (t : Tab Nat) => t.filter (fun p => decide (p.1 / 64 ≠ i))
  { e with kpr := { e.kpr with
    toks := keep e.kpr.toks, wants := keep e.kpr.wants, gots := keep e.kpr.gots, lostToks := keep e.kpr.lostToks } }

/-- A jump of the queue loads a generator for a slot that `p` selects by its key. -/
def Jump.serves (j : Jump) (p : Nat → Bool) : Bool := decide (j.gen < 68) && p j.key

/-- The draws of the slots that `p` selects by their keys go: those loaded and those asked for. No other slot then takes them (R357,
R408). -/
def Eng.dropDraws (e : Eng) (p : Nat → Bool) : Eng :=
  { e with rsu := { e.rsu with ready := e.rsu.ready.filter (fun r => !p r.1), queue := e.rsu.queue.filter (fun j => !j.serves p) } }

/-- What the Sampler and the join keep of an instance's step goes with it: its slots, the count tables of its rows (R346, R358) and its
draws. The control area keeps its entries (R337). -/
def Eng.clearRows (e : Eng) (i : Nat) : Eng :=
  { e with smp := { e.smp with slots := e.smp.slots.filter (fun p => decide (p.1 / 16384 ≠ i)),
                               counts := e.smp.counts.filter (fun p => decide (p.2.1 / 16384 ≠ i)) } }.dropDraws (fun k => decide (k / 16384 = i))

/-- The positions that a resolved step has written (R275): a chunk, or the input of a decode slot behind the copy that it carried
(R194). A follower marks the blocks that are full by what its slots show. -/
def Eng.stepBlocks (e : Eng) (i : Nat) (st : Step) : Eng :=
  st.slots.foldl (fun e (x : Slot) =>
    let lo := if x.kind = 2 ∨ !x.copy then x.pos else x.pos - x.copyN
    let n := x.pos - lo + (if x.kind = 2 then x.ntok else 1)
    if x.kind = 0 ∨ x.lost then e
    else if (e.inst i).lead then e.blocksWritten x.lslot lo n
    else e.ffull i x.rqid x.sib lo n) e

/-- A flush step has ended (R474): its time goes to the owner's engine-ns alone, and the copies that it carried are done. -/
def Eng.flushEnd (e : Eng) (i : Nat) (st : Step) : Eng :=
  let dur := e.now - st.edge
  let e := if e.fb F.KPR_CTL_EN then
      e.modPart (e.inst i).owner (fun k => { k with engineNs := k.engineNs + dur, winNs := k.winNs + dur })
    else e
  st.slots.foldl (fun e (x : Slot) =>
    if x.copy then (e.blocksWritten x.lslot (x.pos - x.copyN) x.copyN).modRc x.lslot (fun r => { r with copyN := 0 }) else e) e

/-- A quiesce is complete once no step is outstanding (R585 items 5 and 6): every live sibling ends, PEER_LOST naming this chip is
flooded, and the lanes stop. -/
def Eng.quiesceCheck (e : Eng) : Eng :=
  if !e.ras.quiescing || instRange.any (fun i => (e.inst i).step.isSome) then e
  else
    let e := (e.led.recs.filter (fun p => p.2.live)).foldl (fun e p => e.endSib p.1 0x39) e
    let e := e.flood e.self e.self e.now Option.none
    let e := { e with raf := { e.raf with lanes := [] }, ras := { e.ras with quiescing := false, quiesced := true } }
    let e := (List.range 6).foldl (fun e k => e.gate (89 + k)) e
    e.raiseE 0x0008 16 (e.ras.causeCode + 2 ^ 16 * e.ras.causeUnit)

/-- An outstanding step has resolved (R207): it is charged, its pins and leave are released, and siblings that have ended drop
their holdings. A lost slot's pins stay with its re-issue (R202). -/
def Eng.resolveStep (e : Eng) (i : Nat) : Eng :=
  match (e.inst i).step with
  | none => e
  | some st =>
    let e := if !(e.inst i).lead then e else if allVoid st.slots then e.flushEnd i st else (e.interfereAll i st).chargeStep i st
    let e := (e.clearToks i).clearRows i
    let e := e.modInst i (fun x => { x with step := Option.none })
    let e := st.slots.foldl (fun e (x : Slot) => if x.lost then e else e.unpinSlot x) e
    let e := e.stepBlocks i st
    let e := (e.leaveEndStep i st.num).reapSlots st.slots
    (((e.bindReady i).balance i).pointLater).quiesceCheck

/-- The outstanding step resolves once every row-bearing slot has committed or been lost (R207). -/
def Eng.stepCheck (e : Eng) (i : Nat) : Eng :=
  match (e.inst i).step with
  | none => e
  | some st =>
    let rowed := st.slots.filter (fun (x : Slot) => x.rowed)
    if rowed.isEmpty || !(rowed.all (fun (x : Slot) => x.done)) then e else (e.stepTrigger i).resolveStep i

/-- A step is declared lost (R53, R206): the array discards it, the next composition is discarded, and every sibling of the step
is placed before the program of the new composition, which starts at once, one with a VOID slot by a VOID slot; a slot that has committed is
not placed again (assumption log 65). The spec names no close for the compose window of a step lost before its edge with no composition to discard: the model's choice is
that the window stays open, and its held writes wait, until a later window of the instance closes (R61, assumption log 60). -/
def Eng.stepLost (e : Eng) (i : Nat) : Eng :=
  match (e.inst i).step with
  | none => e
  | some st =>
    let e := (e.tell (.discardStep i st.num)).binPurge i st.num
    let e := e.discardComp i
    let e := e.chargeStep i st
    let slots := ((List.range st.slots.length).zip st.slots).map (fun p => { p.2 with lostStep := st.num, lostIdx := p.1 })
    let again := slots.filter (fun (x : Slot) => !(x.done && !x.lost))
    let gone := st.slots.filter (fun (x : Slot) => x.done && !x.lost)
    let e := (e.clearToks i).clearRows i
    let e := e.modInst i (fun x =>
      (again.filter (fun (y : Slot) => !(x.carried.any (fun (z : Slot) => decide (z.lslot = y.lslot))))).foldl Inst.carry
        { x with step := Option.none })
    let e := gone.foldl (fun e (x : Slot) => e.unpinSlot x) e
    let e := (e.leaveEndStep i st.num).reapSlots st.slots
    ((e.giveTrigger i).pointLater).quiesceCheck

end Sys2Proof.Machine
end

