-- ==== Sys2Proof/Machine/Emit.lean ====
section
/-!
DEFINITION. Starting compositions and emitting steps (spec/05_batch_composition.md R176, R204 to R224; spec/02 R69 to R71;
spec/16_rafter_link.md R538 to R541).
-/
namespace Sys2Proof.Machine

/-! ### Starting a composition -/

/-- The domains that a composition needs are ON: the Composer's, and the Steward's where it is enabled (R566). -/
def Eng.composerOn (e : Eng) : Bool := e.domOn 6 && (!e.fb F.STW_CTL_EN || e.domOn 7)

/-- The queued trigger that is served next (R176): earliest Tally, then lowest index, among instances that may compose. -/
def Eng.nextTrigger (e : Eng) : Option Nat :=
  if e.composerOn then
    leastBy (fun i => ((e.inst i).trig.getD 0) * 16 + i)
      (instRange.filter (fun i => (e.inst i).trig.isSome && (e.inst i).comp.isNone && e.mayCompose i))
  else none

/-- The program slot that runs for an instance (R177, R227). -/
def Eng.progSlot (e : Eng) (i : Nat) : Nat :=
  let p := e.av F.CMP_PART_PROG_PROG (e.inst i).owner
  if p ≠ 0 ∧ (tgetD e.stw.progs p {}).valid then p else 0

/-- WANT by partition over the candidates (R467). -/
def Eng.wantsOf (e : Eng) (i : Nat) : Tab Nat :=
  (e.candidates i).foldl (fun t p => tsetD t (e.sibPid p.1) (tgetD t (e.sibPid p.1) 0 + e.want i p.1 p.2) 0) []

/-- The number of the next composition is taken (R284). -/
def Eng.takeUid (e : Eng) : Eng := { e with cmp := { e.cmp with nextUid := e.cmp.nextUid + 1 } }

/-- Start the composition of an instance: views captured, drafts given where there are some (R191), lost slots placed, and the Steward set to
the program's entry with its registers at 0 (R228). R191 does not say which sibling is given a draft where fewer are free than wanted, nor when
one that waits is tried again: the model's choice is the order of their Ledger slots, and the start of a composition (DESIGN CHOICE, assumption
log 75). -/
def Eng.composeStart (e : Eng) (i : Nat) : Eng :=
  let e := (e.modInst i (fun x => { x with trig := Option.none })).haltEnds i
  let e := e.activity
  let e := e.captureViews i
  let x := e.inst i
  let blocked := ringRange.filter (fun r => decide (e.ringKind r = 0) && e.blocked (e.cqOf r))
  let c : Comp := { num := x.stepNo + 1, start := e.now, blocked, prog := e.progSlot i, uid := e.cmp.nextUid }
  let e := ((e.takeUid.works 4).works 6).setInst i { x with comp := some c, win := true, quiet := false }
  let e := (e.led.recs.filter (fun p => decide (p.2.inst = i) && decide (p.2.state = 5 ∨ p.2.state = 6) && !p.2.draftV
      && (e.param (rqSlot p.2.rqid)).specEn)).foldl (fun e p => e.giveDraft p.1) e
  let prog := e.progSlot i
  let e := e.trace { kind := 1, inst := i, pid := x.owner, pidV := true, step := x.stepNo + 1, arg := prog + 2 ^ 8 * e.budget i }
  if !e.fb F.STW_CTL_EN then (e.modInst i (fun x => { x with lastCycles := 0 })).endEmpty i
  else
    let e := e.placeCarried i
    let e := e.modComp i (fun c => { c with wants := e.wantsOf i })
    let passes := partRange.foldl (fun t p => tsetD t p (e.part p).pass 0) ([] : Tab Nat)
    { e with stw := { e.stw with
        s := [], v := [], q := [], run := some i, prog, pc := (tgetD e.stw.progs prog {}).entry, cycles := 0, wr := [],
        target := Option.none, ending := false, dmemFault := false, cfg := if x.changing then x.newCfg else x.cfg, est := 0,
        fitStop := false, mode := Option.none, drawn := [], cursor := 0, passes } }

/-! ### Emission -/

/-- A waiting packet names a group whose split copy is in flight (R279). -/
def Eng.splitWait (e : Eng) (l : List Slot) : Bool := l.any (fun (x : Slot) => x.pins.any (fun g => e.splitting g))

/-- The Composer emits: no quiesce has begun, and neither the engine nor the unit is halted (R584, R585, R610). -/
def Eng.emitOn (e : Eng) : Bool := !e.quiet && !e.stopped && !e.unitHalted 4

/-- The conditions of R41, R204, R222, R279, R442, R476 and R503 on an instance's waiting composition. -/
def Eng.emitReady (e : Eng) (i : Nat) : Bool :=
  let x := e.inst i
  match x.comp with
  | none => false
  | some c =>
    c.waiting && x.step.isNone && c.slots.all (fun (y : Slot) => y.bound) && c.leaveOk && (!x.changing || (x.cfgLoaded && x.drained))
      && e.aligned i && !e.splitWait c.slots && e.fb F.CMP_CTL_EN && e.fb F.KPR_PART_CTL_EN x.owner
      && e.emitOn
      && decide (x.stepNo < 0xFFFFFFFFFFFF) && (let k := e.ctx i; decide (k.state = 0) || (decide (k.state = 1) && !k.freeze))


/-- Void the slots whose DEADLINE_LAST lies below the edge (R200), but for those bound identical to a lost slot. -/
def Eng.deadlineVoid (e : Eng) (i edge : Nat) : Eng :=
  let c := e.comp i
  let late := fun (x : Slot) => !x.reissue && (match e.rc x.lslot with
    | some r => decide (r.deadlineLast ≠ 0 ∧ r.deadlineLast < edge)
    | none => true)
  let v := voidWhere e i 0 4 late c.slots
  v.2.modComp i (fun c => { c with slots := v.1 })

/-- Every block that lies below the POS of a slot's sibling resolves to a group in Shelf or Store (R262). -/
def Eng.belowHere (e : Eng) (x : Slot) : Bool :=
  (List.range (cdiv x.pos 64)).all (fun b => match e.blockGrp (e.mapOf x.lslot b) b with
    | some g => (e.grp g).any (fun y => decide (y.tier ≠ 2))
    | none => false)

/-- Void the slots of siblings that have been cancelled or paused since they were bound and of which a block has left Shelf and Store, or is
dropped (R262): as R200 does at binding. Those bound identical to a lost slot keep their blocks (R282; assumption log 75). -/
def Eng.tierVoid (e : Eng) (i : Nat) : Eng :=
  let c := e.comp i
  let v := voidWhere e i 0 3 (fun x => !x.reissue && !e.belowHere x) c.slots
  v.2.modComp i (fun c => { c with slots := v.1 })

/-- Store address of a packet (R208). -/
def Eng.packetAddr (e : Eng) (i step : Nat) : Nat := e.pairv 0x4008 / 2 ^ 26 * 2 ^ 26 + (2 * i + step % 2) * 2 ^ 21

/-- A packet is built in its buffer, which keeps it until a later one takes its place, and is shown to the array (R208, R217). -/
def Eng.putPacket (e : Eng) (i step : Nat) (p : Packet) : Eng :=
  ({ e with cmp := { e.cmp with packets := tput e.cmp.packets (2 * i + step % 2) p } }).tell (.packet p (e.packetAddr i step))

/-- The row-control entry of a row-bearing slot (R215). -/
def Eng.rowCtl (e : Eng) (i step epoch idx : Nat) (x : Slot) : RowCtl :=
  let nd := match e.rc x.lslot with
    | some r => if x.kind = 2 ∧ r.shared then r.nsib else 0
    | none => 0
  { tag := rowTag step idx 0 epoch i, rqid := x.rqid, gen := x.gen, sib := x.sib, rows := x.rows, drawStep := x.drawStep, ndraw := nd,
    kind := x.kind, dset := x.dset, draft := if x.kind = 3 then x.draft else 0, drawSlot := x.drawSlot }

/-- Address of a row-control entry in the control area (R337). -/
def Eng.ctrlAddr (e : Eng) (i step idx : Nat) : Nat := e.pairv 0x8010 + (2 * i + step % 2) * 2 ^ 19 + 32 * idx

/-- Write the row control of a step and make its row-bearing slots PENDING (R337, R339). -/
def sendControl (e : Eng) (i step epoch : Nat) (l : List (Nat × Slot)) : Eng :=
  match l with
  | [] => e
  | p :: r =>
    if p.2.rowed then
      let c := e.rowCtl i step epoch p.1 p.2
      let k := i * 16384 + p.1
      let e := e.emit (.rowControl (e.ctrlAddr i step p.1) c)
      sendControl { e with smp := { e.smp with area := tput e.smp.area ((2 * i + step % 2) * 16384 + p.1) c, slots := tput e.smp.slots k {} } } i step epoch r
    else sendControl e i step epoch r

/-! ### The broadcast (R538 to R541) -/

/-- The slots of a stripe, ascending. -/
def stripeSlots (m : Nat) (l : List Slot) : List Slot :=
  (((List.range l.length).zip l).filter (fun p => decide (p.1 % 7 = m))).map (fun p => p.2)

/-- Cut a list into runs of at most `n`. -/
def chunks {α : Type} (n : Nat) (l : List α) (fuel : Nat) : List (List α) :=
  match fuel with
  | 0 => []
  | k + 1 => if l.isEmpty then [] else l.take n :: chunks n (l.drop n) k

/-- The 64-bit words of a slot entry as broadcast. -/
def bcastWords (x : Slot) : List Nat := toWords 4 (Slot.bits { x with root := 0, rootV := false, ncrate := 0 })

/-- The payloads of a stripe's segments in order. -/
def stripeSegs (p : Packet) (m : Nat) : List (List Nat) :=
  let s := stripeSlots m p.slots
  (toWords 8 p.header ++ (s.take 62).flatMap bcastWords) :: (chunks 64 (s.drop 62) s.length).map (fun l => l.flatMap bcastWords)

/-- The frames of a stripe. -/
def stripeFrames (p : Packet) (m : Nat) : List Frame :=
  let segs := stripeSegs p m
  ((List.range segs.length).zip segs).map (fun s =>
    { typ := 0x10, len := 8 * s.2.length, words := s.2,
      arg := p.step % 2 ^ 48 + 2 ^ 48 * m + 2 ^ 51 * b2n (decide (s.1 + 1 = segs.length)) + 2 ^ 52 * s.1 })

/-- The holder of stripe m for a lead: the m-th other slot of its sled. -/
def stripeHolder (lead m : Nat) : Nat := ((List.range 8).map (fun k => 8 * (lead / 8) + k)).filter (fun c => decide (c ≠ lead)) |>.getD m lead

/-- The chips that one engine hands a stripe on to (R539, R541): chips of the instance in its own sled, and its own slot in the
next sled of the path, both ways from the lead's sled and onward elsewhere. -/
def bcastNext (self lead : Nat) (chips : List Nat) : List Nat :=
  let p := pathOf chips
  let s := self / 8
  let k := self % 8
  let sled := chips.filter (fun c => decide (c / 8 = s ∧ c ≠ self ∧ c ≠ lead))
  let up := (s + 1) % 8
  let dn := (s + 7) % 8
  let ls := lead / 8
  let d := (s + 8 - p.1) % 8
  let dl := (ls + 8 - p.1) % 8
  let goUp := decide (dl ≤ d) && onPath p up && decide (d + 1 < p.2)
  let goDn := decide (d ≤ dl) && onPath p dn && decide (0 < d)
  sled ++ (if goUp then [8 * up + k] else []) ++ (if goDn then [8 * dn + k] else [])

/-- Send the broadcast of a step (R50, R538, R539, R541). -/
def Eng.broadcast (e : Eng) (i : Nat) (p : Packet) : Eng :=
  let x := e.inst i
  if (e.others i).isEmpty then e
  else
    (List.range 7).foldl (fun e m =>
      let h := stripeHolder e.self m
      let ok := match linkTo e.self h with
        | some l => e.linkActive l
        | none => false
      let dsts := if ok then [h] else bcastNext e.self e.self x.chips
      (stripeFrames p m).foldl (fun e f => dsts.foldl (fun e d => e.sendInst i { f with dst := d }) e) e) e

/-! ### Emitting -/

/-- The transitions of R144 that a composed step causes (R204). The siblings that share a prefill have the state of the first record (R141);
one that replays a prefill of its own (R598) changes by its own slot. -/
def Eng.emitStates (e : Eng) (l : List Slot) : Eng :=
  l.foldl (fun e (x : Slot) =>
    match e.rc x.lslot with
    | none => e
    | some r =>
      if x.kind = 0 then e
      else
        let e := e.setRc x.lslot { r with draftN := x.ndraft }
        if x.kind = 2 ∧ r.state = 3 then
          (e.sibs (rqSlot r.rqid)).foldl (fun e s =>
            if (e.rc s).any (fun q => decide (q.state = 3) && (decide (s = x.lslot) || (r.shared && q.shared))) then e.setState s 4 else e) e
        else if x.kind = 3 ∧ r.state = 5 then e.setState x.lslot 6
        else e) e

/-- Counters and Keeper's figures of an emitted step (R198, R467, R600). Tokens appended for a slot that was voided since count as got. -/
def Eng.emitCounts (e : Eng) (i : Nat) (c : Comp) : Eng :=
  let e := e.count 0x1001 1 (some (e.inst i).owner) (some i)
  let e := c.slots.foldl (fun e (x : Slot) =>
    let p := rqPid x.rqid
    let k := i * 64 + p
    let e := { e with kpr := { e.kpr with gots := tsetD e.kpr.gots k (tgetD e.kpr.gots k 0 + x.tok) 0 } }
    if x.kind = 0 then e
    else
      let e := (e.count 0x1002 1 (some p) (some i)).count 0x1003 x.ntok (some p) (some i)
      { e with kpr := { e.kpr with toks := tsetD e.kpr.toks k (tgetD e.kpr.toks k 0 + x.ntok) 0 } }) (e.clearToks i)
  { e with kpr := { e.kpr with wants := c.wants.foldl (fun t p => tsetD t (i * 64 + p.1) p.2 0) e.kpr.wants } }

/-- Wake every lane for a step with row-bearing slots (R565). -/
def Eng.wakeLanes (e : Eng) : Eng := (List.range 64).foldl (fun e n => e.wake (14 + n)) e

/-- Emit the packet of a waiting composition at `edge` less the edge lead (R27, R50, R70, R204, R207, R224). A flush step of the old
configuration leaves a pending epoch change as it is (R220, R474). -/
def Eng.emitPacket (e : Eng) (i edge : Nat) : Eng :=
  let c := e.comp i
  let x := e.inst i
  let num := x.stepNo + 1
  let turn := x.changing && decide (c.cfg = x.newCfg)
  let epoch := if turn then x.nextEpoch else x.epoch
  let p : Packet :=
    { epoch, inst := i, mid := x.mid, cfg := c.cfg, owner := x.owner, leadInst := i, step := num, edge, emit := e.now, est := c.est,
      slots := c.slots, ents := c.slots.flatMap (fun (y : Slot) => y.ents) }
  let st : Step := { num, edge, emit := e.now, est := c.est, epoch, cfg := c.cfg, slots := c.slots, uid := c.uid }
  let e := e.emitCounts i c
  let e := e.setInst i { x with
    comp := Option.none, step := some st, stepNo := num, epoch, cfg := c.cfg, changing := x.changing && !turn,
    cfgLoaded := x.cfgLoaded || turn, drained := x.drained || turn,
    lastSlots := (c.slots.filter (fun (y : Slot) => decide (y.kind ≠ 0))).length, lastTokens := slotTokens c.slots }
  let e := e.emitStates c.slots
  let e := e.putPacket i num p
  let e := sendControl (e.clearRows i) i num epoch ((List.range c.slots.length).zip c.slots)
  let e := if c.slots.any (fun (y : Slot) => y.rowed) then e.wakeLanes else e
  let e := e.broadcast i p
  let e := if turn then
      e.trace { kind := 8, inst := i, pid := x.owner, pidV := true, step := num, arg := x.epoch + 16 * epoch + 2 ^ 8 }
    else e
  e.trace { kind := 5, inst := i, pid := x.owner, pidV := true, step := num, arg := edge }

/-- STEP_EMIT: emission of the waiting composition of an instance once its conditions hold. -/
def Eng.stepEmit (e : Eng) (i : Nat) : Eng :=
  let e := e.bindReady i
  if !e.emitReady i then e
  else
    let c := e.comp i
    let x := e.inst i
    if allVoid c.slots then e.allVoidEnd i
    else
      let lead := e.leadEff i (e.cv (F.TAL_EDGE_LEAD_n_LEAD.at 4 i))
      match e.placeEdge x.owner (max (e.now + lead) c.notBefore) c.est with
      | none => e
      | some (edge, nofit) =>
        let e := e.advance (edge - lead)
        let e := if nofit then e.raiseP 0x0032 14 x.owner edge else e
        let e := (e.tierVoid i).deadlineVoid i edge
        if allVoid (e.comp i).slots then e.allVoidEnd i else e.emitPacket i edge

end Sys2Proof.Machine
end

