-- ==== Sys2Proof/Machine/Logits.lean ====
section
/-!
DEFINITION. The arithmetic of one logit row (spec/09_sampler.md R334, R336, R343 to R353, R354, R366, R629): decoding, controls,
keys, weights, the kept set, the draw, log-probabilities and the passes that a row takes.
-/
namespace Sys2Proof.Machine

/-! ### Decoding (R334, R336) -/

/-- Payload bytes of 32 entries of a row format. -/
def rowBytes32 (fmt : Nat) : Nat := [128, 64, 64, 33, 33].getD fmt 128

/-- Payload bytes of a row. -/
def rowBytes (fmt len : Nat) : Nat := if fmt ≤ 2 then len * rowBytes32 fmt / 32 else cdiv len 32 * 33

/-- Element format of a row format. -/
def rowFmt (fmt : Nat) : Fmt := [fFP32, fBF16, fFP16, fE4M3, fE5M2].getD fmt fFP32

/-- The largest finite binary32 code. -/
def f32Max : Nat := 0x7F7FFFFF

/-- A decoded value as binary32, and 1 where it counts in SMP_NONFINITE: none excludes the entry (R336). -/
def clip (v : FVal) (scale : Int) : Option Nat × Nat :=
  match v with
  | .nan => (none, 1)
  | .inf neg => (some (f32Max + b2n neg * 2 ^ 31), 1)
  | .fin x =>
    let y : Dy := { x with e := x.e + scale }
    let big := (fFP32.maxf).lt { y with neg := false }
    (some (f32Of y), b2n big)

/-- `n` entries of a row of plain numbers, `w` bytes each. -/
def plainEntries (fmt w n : Nat) (data : List Nat) : List (Option Nat × Nat) :=
  match n with
  | 0 => []
  | k + 1 => clip ((rowFmt fmt).decode (leNat (data.take w))) 0 :: plainEntries fmt w k (data.drop w)

/-- The entries of a block of 32 elements and its scale byte; 0xFF marks a block without numbers. -/
def blockEntries (fmt : Nat) (b : List Nat) : List (Option Nat × Nat) :=
  let x := b.getD 32 0
  (List.range 32).map (fun j => if x = 255 then (none, 1) else clip ((rowFmt fmt).decode (b.getD j 0)) ((x : Int) - 127))

/-- The entries of `n` blocks. -/
def blocksEntries (fmt n : Nat) (data : List Nat) : List (Option Nat × Nat) :=
  match n with
  | 0 => []
  | k + 1 => blockEntries fmt (data.take 33) ++ blocksEntries fmt k (data.drop 33)

/-- The decoded entries of a row in token order. -/
def rowEntries (fmt len : Nat) (data : List Nat) : List (Option Nat × Nat) :=
  if fmt ≤ 2 then plainEntries fmt (rowBytes32 fmt / 32) len data else (blocksEntries fmt ((len + 31) / 32) data).take len

/-- Entries that count in SMP_NONFINITE. -/
def rowBad (l : List (Option Nat × Nat)) : Nat := sumBy (fun (p : Option Nat × Nat) => p.2) l

/-! ### Controls (R344, R345) -/

/-- The sampling controls of a request's parameter block, binary32 fields as codes. -/
structure Controls where
  temp : Nat
  topP : Nat
  minP : Nat
  topK : Nat
  rep : Nat
  pres : Nat
  freq : Nat
  window : Nat
  nlogprob : Nat
  bias : List (Nat × Nat)
deriving DecidableEq, Repr

/-- A binary32 code is a zero. -/
def f32Zero (b : Nat) : Bool := decide (b % 2 ^ 31 = 0)

/-- The binary32 code of 1.0. -/
def f32One : Nat := 0x3F800000

/-- Some penalty is in force. -/
def Controls.penal (c : Controls) : Bool := decide (c.rep ≠ f32One) || !f32Zero c.freq || !f32Zero c.pres

/-- Occurrences by token over the window of a sequence (R345). -/
def countTokens (window : Nat) (seq : List Nat) : Tab Nat :=
  let s := if window = 0 then seq else seq.drop (seq.length - window)
  s.foldl (fun t i => tput t i (tgetD t i 0 + 1)) []

/-- Steps 1 to 4 and 6 of R344 on an entry of token `i` that occurs `c` times. -/
def control (k : Controls) (c i x : Nat) : Nat :=
  let x := if 0 < c ∧ k.rep ≠ f32One then (if f32Pos x then f32Div x k.rep else f32Mul x k.rep) else x
  let x := if decide (0 < c) && !f32Zero k.freq then f32Sub x (f32Mul (f32OfNat c) k.freq) else x
  let x := if decide (0 < c) && !f32Zero k.pres then f32Sub x k.pres else x
  let x := k.bias.foldl (fun x p => if p.1 = i then f32Add x p.2 else x) x
  if f32Pos k.temp then f32Div x k.temp else x

/-! ### Keys and weights (R347, R348) -/

/-- The weight of an entry at distance `d` from the largest (R348). -/
def weight (d : Nat) : Nat :=
  if 0x42800000 ≤ d then 0
  else
    let dd := ((f32Val d).quot (-40) 0).1
    let y := dd * 0x171547652B82FE177 / 2 ^ 64
    let n := y / 2 ^ 40
    if 60 ≤ n then 0
    else
      let f := y % 2 ^ 40
      let u := f % 2 ^ 30 * 0xB17217F7D1CF79AC / 2 ^ 40
      let p3 := u * 0x2AAAAAAAAAAAAAAB / 2 ^ 64
      let p2 := u * (2 ^ 63 - p3) / 2 ^ 64
      let p1 := 2 ^ 64 - u * (2 ^ 64 - p2) / 2 ^ 64
      weightTable (f / 2 ^ 30) * p1 / 2 ^ (67 + n)

/-- An entry of the allowed set: key, token, distance and weight. -/
structure KeyEnt where
  key : Nat
  tok : Nat
  d : Nat
  w : Nat
deriving DecidableEq, Repr

/-- The larger of two binary32 codes. -/
def f32Larger (a b : Nat) : Nat := if (f32Val a).lt (f32Val b) then b else a

/-- The allowed set in key order from the allowed entries (token, z) (R347, R348). -/
def keyed (l : List (Nat × Nat)) : List KeyEnt :=
  match l with
  | [] => []
  | p :: r =>
    let m := r.foldl (fun m q => f32Larger m q.2) p.2
    let ks := l.map (fun q =>
      let d := f32Sub m q.2 % 2 ^ 31
      ({ key := d * 2 ^ 20 + q.1, tok := q.1, d, w := weight d } : KeyEnt))
    osort (fun a b => decide (a.key ≤ b.key)) ks

/-- The mass of a list of entries (R349). -/
def massOf (l : List KeyEnt) : Nat := sumBy (fun (k : KeyEnt) => k.w) l

/-! ### The kept set and the draw (R350 to R352) -/

/-- ceil(n * x) for a binary32 x that is not negative. -/
def ceilMul (n x : Nat) : Nat :=
  let v := f32Val x
  let m := n * v.m
  if 0 ≤ v.e then m * 2 ^ v.e.toNat else cdiv m (2 ^ (-v.e).toNat)

/-- The shortest prefix whose mass reaches a target. -/
def prefixMass (target run : Nat) (l : List KeyEnt) : List KeyEnt :=
  match l with
  | [] => []
  | k :: r => if target ≤ run + k.w then [k] else k :: prefixMass target (run + k.w) r

/-- S_k of R350. -/
def topKSet (c : Controls) (a : List KeyEnt) : List KeyEnt := if c.topK = 0 then a else a.take c.topK

/-- S_p of R350. -/
def topPSet (c : Controls) (sk : List KeyEnt) : List KeyEnt :=
  if c.topP = f32One then sk else prefixMass (ceilMul (massOf sk) c.topP) 0 sk

/-- Z of R350. -/
def keptSet (c : Controls) (sp : List KeyEnt) : List KeyEnt :=
  if f32Zero c.minP then sp
  else
    let t := ceilMul (2 ^ 59) c.minP
    sp.filter (fun k => decide (t ≤ k.w))

/-- The first entry at which the running mass exceeds a target (R351). -/
def firstOver (g run : Nat) (l : List KeyEnt) : Option KeyEnt :=
  match l with
  | [] => none
  | k :: r => if g < run + k.w then some k else firstOver g (run + k.w) r

/-- The entry that a draw value takes from the allowed set: R351 with T > 0, R352 with T = 0. -/
def pick (c : Controls) (a : List KeyEnt) (u : Nat) : Option KeyEnt :=
  if f32Pos c.temp then
    let z := keptSet c (topPSet c (topKSet c a))
    firstOver (u * massOf z / 2 ^ 64) 0 z
  else a.head?

/-- Rank of an entry in key order, from 1, saturated (R367). -/
def rankOf (a : List KeyEnt) (k : KeyEnt) : Nat := min 4095 ((a.takeWhile (fun x => decide (x.key < k.key))).length + 1)

/-- The log-probability of a distance in a row of mass `sall`, binary32 (R366). -/
def logProb (sall d : Nat) : Nat := f32Of (f64Round ((f32Val d).flip.add (lnMass sall).flip))

/-! ### Passes (R354, R629) -/

/-- Narrow the bucket of a key in 11-bit steps while it holds more than 2,048 entries: the shift, and the narrowing passes. -/
def narrow (a : List KeyEnt) (key : Nat) (shifts : List Nat) : Nat × Nat :=
  match shifts with
  | [] => (0, 0)
  | sh :: r =>
    if r.isEmpty || decide ((a.filter (fun k => decide (k.key / 2 ^ sh = key / 2 ^ sh))).length ≤ 2048) then (sh, 0)
    else let x := narrow a key r; (x.1, x.2 + 1)

/-- Passes for a list of selects, each given by the key it ends at: held buckets take none (R629). -/
def gatherPasses (a : List KeyEnt) (held : List (Nat × Nat)) (sel : List Nat) : Nat :=
  match sel with
  | [] => 0
  | k :: r =>
    if held.any (fun h => decide (k / 2 ^ h.1 = h.2)) then gatherPasses a held r
    else
      let x := narrow a k [40, 29, 18, 7, 0]
      1 + x.2 + gatherPasses a ((x.1, k / 2 ^ x.1) :: held) r

/-- The passes of a row (R629): pass 1, then top-k, top-p and one draw for each value. -/
def rowPasses (c : Controls) (a : List KeyEnt) (us : List Nat) : Nat :=
  if !f32Pos c.temp then (if c.nlogprob = 0 then 0 else 1)
  else
    let sk := topKSet c a
    let sp := topPSet c sk
    let k1 := if 0 < c.topK ∧ c.topK < a.length then (sk.getLast?.map (fun k => k.key)).toList else []
    let k2 := if c.topP = f32One then [] else (sp.getLast?.map (fun k => k.key)).toList
    let k3 := us.filterMap (fun u => (pick c a u).map (fun k => k.key))
    1 + gatherPasses a [] (k1 ++ k2 ++ k3)

/-! ### Gangs (R354) -/

/-- Lanes of the gang for a row. -/
def gangSize (fmt len : Nat) : Nat :=
  let n := cdiv (len * rowBytes32 fmt) (32 * 1048576)
  if n ≤ 1 then 1 else if n ≤ 2 then 2 else 4

/-- The slice of lane `k` of a row's gang (R354): its first entry and the entry after its last. The first lanes take a block of 32 entries
more, and the last slice ends at LEN. -/
def sliceOf (fmt len k : Nat) : Nat × Nat :=
  let g := gangSize fmt len
  let b := cdiv len 32
  let start := fun (k : Nat) => min len (32 * (k * (b / g) + min k (b % g)))
  (start k, start (k + 1))

/-- Bytes of lane `k`'s slice of a row. -/
def sliceBytes (fmt len k : Nat) : Nat :=
  let s := sliceOf fmt len k
  cdiv ((s.2 - s.1) * rowBytes32 fmt) 32

end Sys2Proof.Machine
end

