-- ==== Sys2Proof/Machine/SmpOps.lean ====
section
/-!
DEFINITION. The Sampler's operations (spec/09_sampler.md R335 to R342, R354, R359 to R370) and the Sieve's part in them
(spec/10_sieve.md R388 to R396): slots, lanes, draft nodes, losing a slot, and retiring a lane.
-/
namespace Sys2Proof.Machine

/-- Key of a slot of an instance's outstanding step. -/
def smpKey (i idx : Nat) : Nat := i * 16384 + idx

/-- The place of a slot's entry in the control area, by the half of the outstanding step (R337). -/
def Eng.areaKey (e : Eng) (i idx : Nat) : Nat :=
  (2 * i + (match (e.inst i).step with
    | some st => st.num % 2
    | none => 0)) * 16384 + idx

/-- A row-bearing slot. -/
def Eng.smpSlot (e : Eng) (k : Nat) : Option SmpSlot := tget e.smp.slots k

/-- Change a row-bearing slot. -/
def Eng.modSmp (e : Eng) (k : Nat) (f : SmpSlot → SmpSlot) : Eng := { e with smp := { e.smp with slots := tmod e.smp.slots k f } }

/-- The Sampler takes work. -/
def Eng.smpOn (e : Eng) : Bool := e.fb F.SMP_CTL_EN && !e.unitHalted 8

/-- The Sieve takes work, with an engine in service. -/
def Eng.sieveOn (e : Eng) : Bool := e.fb F.SIV_CTL_EN && !e.unitHalted 9 && decide (e.siv.retired.length < 4)

/-- The join timeout (R339, R340). -/
def Eng.joinTimeout (e : Eng) : Nat := max 1000 (e.av F.SMP_JOIN_TIMEOUT_TIMEOUT)

/-- Join entries in use (R338). -/
def Eng.joinUsed (e : Eng) : Nat := (e.smp.slots.filter (fun p => decide (p.2.st = 1 ∨ p.2.st = 2))).length

/-! ### Lanes (R354, R369, R370) -/

/-- Physical lane of a logical lane. -/
def Eng.lanePhys (e : Eng) (n : Nat) : Option Nat := tgetD e.smp.map n (some n)

/-- Logical lanes with a physical lane: SMP_STATUS.ACTIVE. -/
def Eng.lanesActive (e : Eng) : Nat := ((List.range 64).filter (fun n => (e.lanePhys n).isSome)).length

/-- A logical lane can take rows: it has a physical lane, in service. -/
def Eng.laneOk (e : Eng) (n : Nat) : Bool := (e.lanePhys n).isSome && !(e.smp.waking.any (fun w => decide (w.2 = n)))

/-- Slices that a logical lane holds of rows not yet sampled, in bytes. -/
def Eng.laneHeld (e : Eng) (n : Nat) : List Nat :=
  e.smp.slots.flatMap (fun p => p.2.rows.filterMap (fun r =>
    if r.2.res.isNone && decide (r.2.lane ≤ n ∧ n < r.2.lane + r.2.gang) then some (sliceBytes r.2.fmt r.2.len (n - r.2.lane)) else none))

/-- A lane has room for a slice: it is free, or it double-buffers two slices of at most 512 KiB. -/
def laneRoom (held : List Nat) (b : Nat) : Bool :=
  held.isEmpty || (decide (held.length < 2) && (b :: held).all (fun x => decide (x ≤ 524288)))

/-- The gang that takes a row: aligned, every lane in service and with room; the least laden, then the lowest. -/
def Eng.gangFor (e : Eng) (fmt len : Nat) : Option Nat :=
  let g := gangSize fmt len
  let lanes := fun (s : Nat) => (List.range g).map (fun k => s + k)
  let starts := ((List.range (64 / g)).map (fun k => g * k)).filter (fun s =>
    (lanes s).all (fun n => e.laneOk n && laneRoom (e.laneHeld n) (sliceBytes fmt len (n - s))))
  leastBy (fun s => sumBy (fun n => (e.laneHeld n).length) (lanes s) * 64 + s) starts

/-! ### Draft nodes (R359, R360, R389) -/

/-- A valid draft node: token, parent, depth, the tokens of its path, whether it is pruned, and for a constrained sibling the
configuration reached at it. -/
structure Node where
  tok : Nat
  parent : Nat
  depth : Nat
  path : List Nat
  pruned : Bool := false
  pda : Option Pda := none
deriving DecidableEq, Repr

/-- Key of a draft block: draft index and half. -/
def draftKey (d : Nat) (half : Bool) : Nat := 2 * d + b2n half

/-- The image of a request's grammar, if it has one. -/
def Eng.reqGrammar (e : Eng) (first : Nat) : Option GImg :=
  let p := e.param first
  if p.grammarEn then some (e.gramImg p.grammarId) else none

/-- The configuration of a constrained sibling. -/
def Eng.sibPda (e : Eng) (s : Nat) (g : Option GImg) : Option Pda := if g.isSome then some (e.pda s) else none

/-- One more node of a TREE slot, if it is valid (R360), with its pruning (R389). -/
def addNode (g : Option GImg) (root : Option Pda) (vocab : Nat) (tree : Bool) (b : DraftBlk) (t : Tab Node) (j : Nat) : Tab Node :=
  let tok := tgetD b.toks j 0
  let par := tgetD b.parents j 0
  let up : Option Node := if par = 0 then some { tok := 0, parent := 0, depth := 0, path := [], pda := root } else tget t par
  match up with
  | none => t
  | some u =>
    if vocab ≤ tok ∨ j ≤ par ∨ (!tree ∧ par ≠ j - 1) then t
    else
      let n : Node := { tok, parent := par, depth := u.depth + 1, path := u.path ++ [tok], pruned := u.pruned }
      match g, u.pda with
      | some g, some p =>
        let x := p.apply g tok
        if u.pruned || decide (x.1 ≠ .continues) then tput t j { n with pruned := true } else tput t j { n with pda := some x.2 }
      | _, _ => tput t j n

/-- The valid nodes of a TREE slot (R359, R360). -/
def Eng.nodesOf (e : Eng) (i : Nat) (x : Slot) : Tab Node :=
  if x.kind ≠ 3 then []
  else
    let first := e.firstOf x.lslot
    let g := e.reqGrammar first
    let b := tgetD e.smp.drafts (draftKey x.draft (!x.dset)) {}
    (List.range x.ndraft).foldl (fun t j =>
      addNode g (e.sibPda x.lslot g) (e.instModel i).vocab (e.param first).tree b t (j + 1)) []

/-! ### Slots of the outstanding step -/

/-- A slot of an instance's outstanding step. -/
def Eng.stepSlot (e : Eng) (i idx : Nat) : Option (Step × Slot) :=
  match (e.inst i).step with
  | none => none
  | some st => (st.slots[idx]?).map (fun x => (st, x))

/-- Change a slot of an instance's outstanding step. -/
def Eng.modStepSlot (e : Eng) (i idx : Nat) (f : Slot → Slot) : Eng :=
  e.modInst i (fun x => { x with step := x.step.map (fun st => { st with slots := lmod st.slots idx f }) })

/-- Rows of a slot that have been received. -/
def SmpSlot.got (s : SmpSlot) (n : Nat) : Nat := (s.rows.filter (fun r => decide (r.1 < n))).length

/-- A row of the outstanding step is still expected (R25, R342). -/
def Eng.rowsExpected (e : Eng) (i : Nat) : Bool :=
  match (e.inst i).step with
  | none => false
  | some st => ((List.range st.slots.length).zip st.slots).any (fun p =>
      p.2.rowed && !p.2.done && decide ((tgetD e.smp.slots (smpKey i p.1) {}).got p.2.rows < p.2.rows))

/-- The trigger of R25 once no row of the step is expected. -/
def Eng.lastRow (e : Eng) (i : Nat) : Eng := if e.rowsExpected i then e else e.stepTrigger i

/-! ### Count tables (R346) -/

/-- The controls of a request (R97, R344). -/
def Eng.controls (e : Eng) (first : Nat) : Controls :=
  let p := e.param first
  { temp := p.temperature, topP := p.topP, minP := p.minP, topK := p.topK, rep := p.repPenalty, pres := p.presence, freq := p.freq,
    window := p.window, nlogprob := p.nlogprob, bias := (tgetD e.led.bias first []).map (fun w => (w % 2 ^ 20, w / two32)) }

/-- The sequence of R345 for a row: prompt, generated tokens, path of the node. -/
def Eng.rowHistory (e : Eng) (x : Slot) (path : List Nat) : List Nat :=
  tgetD e.led.prompts (e.firstOf x.lslot) [] ++ tgetD e.led.gent x.lslot [] ++ path

/-- The physical lanes of a row's gang. -/
def Eng.rowLanes (e : Eng) (r : Row) : List Nat := (List.range r.gang).filterMap (fun n => e.lanePhys (r.lane + n))

/-- The count table of a physical lane is complete for a row. -/
def Eng.tableOf (e : Eng) (k j lane : Nat) : Option (Tab Nat) :=
  match tget e.smp.counts lane with
  | some t => if t.1 = k ∧ t.2.1 = j then some t.2.2 else none
  | none => none

/-- A row that is on its way through its lanes: joined, and not yet sampled. -/
def Eng.rowOn (e : Eng) (k j : Nat) : Bool :=
  match e.smpSlot k with
  | some s => decide (s.st = 2) && (tget s.rows j).any (fun r => r.res.isNone)
  | none => false

/-- Count the history of a joined row, if its request has penalties, into the tables of its lanes that are free. -/
def Eng.countRow (e : Eng) (k j : Nat) (r : Row) : Eng :=
  match e.stepSlot (k / 16384) (k % 16384) with
  | none => e
  | some (_, x) =>
    let c := e.controls (e.firstOf x.lslot)
    if !c.penal || !e.rowOn k j then e
    else
      let path := ((tget (e.nodesOf (k / 16384) x) j).map (fun n => n.path)).getD []
      let t := countTokens c.window (e.rowHistory x path)
      (e.rowLanes r).foldl (fun e n =>
        if (tget e.smp.counts n).isSome then e else { e with smp := { e.smp with counts := tput e.smp.counts n (k, j, t) } }) e

/-- The tables of rows that have been sampled or lost are cleared, and the next rows of their lanes are counted (R346). -/
def Eng.countFill (e : Eng) : Eng :=
  let e := { e with smp := { e.smp with counts := e.smp.counts.filter (fun p => e.rowOn p.2.1 p.2.2.1) } }
  e.smp.slots.foldl (fun e s => s.2.rows.foldl (fun e r => e.countRow s.1 r.1 r.2) e) e

/-- The counts of a row, complete in every lane of its gang; none while one is not. -/
def Eng.rowCounts (e : Eng) (k j : Nat) (r : Row) : Option (Tab Nat) :=
  match e.rowLanes r with
  | [] => none
  | n :: l => if l.all (fun m => (e.tableOf k j m).isSome) then e.tableOf k j n else none

/-- A slot is lost (R342): its rows are discarded, its lanes and join entry are free, it is charged as if it had resolved now (R456), its
sibling is re-issued, and activity is judged (R454). cause: 1 data timer, 2 step timer, 3 lane retired. -/
def Eng.loseSlot (e : Eng) (i idx cause : Nat) : Eng :=
  match e.stepSlot i idx with
  | none => e
  | some (st, x) =>
    if x.done then e
    else
      let k := smpKey i idx
      let e := (e.modSmp k (fun _ => { st := 3 })).countFill
      let e := ((e.dropDraws (fun q => decide (q = k))).bump F.SMP_LOST_COUNT).chargeSlot i st x
      let p := rqPid x.rqid
      let e := e.raise { code := 0x0060, unit := 8, pid := p, part := true, rqid := x.rqid, gen := x.gen,
                         arg := st.num % 2 ^ 48 + 2 ^ 48 * idx }
      let e := e.trace { kind := 7, inst := i, pid := p, pidV := true, status := 0x3F, sib := x.sib, rqid := x.rqid,
                         step := st.num, gen := x.gen, arg := idx + 2 ^ 16 * cause }
      let e := e.modStepSlot i idx (fun y => { y with done := true, lost := true })
      let e := ((e.reissueLost i { x with lostStep := st.num, lostIdx := idx }).bindReady i).pointLater
      (e.lastRow i).stepCheck i

/-! ### The join (R335, R339, R388, R407, R408) -/

/-- The siblings that draw from a slot's rows: index and Ledger slot. -/
def Eng.drawers (e : Eng) (x : Slot) (ndraw : Nat) : List (Nat × Nat) :=
  if x.kind = 2 ∧ 0 < ndraw then
    ((e.sibs (e.firstOf x.lslot)).filterMap (fun s => (e.rc s).map (fun r => (r.sib, s)))).filter (fun p => decide (p.1 ≤ ndraw))
  else [(x.sib, x.lslot)]

/-- Request the draws of a slot at the lane that serves the first lane of its gang, whether or not its tokens will use them (R352, R407, R408). -/
def Eng.askDraws (e : Eng) (i idx lane : Nat) (x : Slot) (c : RowCtl) : Eng :=
  let first := e.firstOf x.lslot
  let k := smpKey i idx
  let gen := (e.lanePhys lane).getD lane
  let js := (e.drawers x c.ndraw).map (fun (p : Nat × Nat) =>
    ({ rank := 1, gen, seed := (e.param first).seed,
       pos := streamPos (streamNo (e.inst i).mid (drawRqid c.rqid c.drawSlot) p.1 c.drawStep 0) 0, key := k, sub := p.1 } : Jump))
  { e with rsu := { e.rsu with queue := e.rsu.queue ++ js } }

/-- Pages of 32,768 tokens of a vocabulary. -/
def maskPages (vocab : Nat) : Nat := cdiv vocab 32768

/-- The bitmap of a page of a class that the cache holds. -/
def Eng.pageHas (e : Eng) (gid cls page : Nat) : Nat :=
  match e.siv.cache.find? (fun p => decide (p.gid = gid ∧ p.cls = cls ∧ p.page = page)) with
  | some p => p.bits
  | none => 0

/-- The pages that a lane has taken in between two of its states. -/
def taken (a b : LaneIn) : List Nat := (List.range (b.next - a.next)).map (fun n => a.next + n)

/-- A mask page is in the cache. -/
def Eng.pageIn (e : Eng) (gid cls page : Nat) : Bool := e.siv.cache.any (fun p => decide (p.gid = gid ∧ p.cls = cls ∧ p.page = page))

/-- A lane takes in its pages in order as far as the cache holds them; where it comes to hold its intake for one, it counts a stall
(R390). -/
def laneIntake (held : Nat → Bool) (l : LaneIn) (fuel : Nat) : LaneIn × Nat :=
  match fuel with
  | 0 => (l, 0)
  | f + 1 =>
    if l.last < l.next then ({ l with waits := false }, 0)
    else if held l.next then laneIntake held { l with next := l.next + 1, waits := false } f
    else ({ l with waits := true }, b2n (!l.waits))

/-- The lanes of a row's gang before their intake: the pages that each slice needs. -/
def laneStarts (r : Row) : List LaneIn :=
  (List.range r.gang).map (fun k =>
    let s := sliceOf r.fmt r.len k
    if s.2 ≤ s.1 then { next := 1, last := 0 } else { next := s.1 / 32768, last := (s.2 - 1) / 32768 })

/-- A page of the mask cache holds a word with a parity error: an odd number of bits in error (R615). -/
def Eng.pageBad (e : Eng) (p : MaskPage) : Bool :=
  e.dbg.mem.any (fun x => decide (x.1 / 512 = 3 * 2 ^ 31 + p.way)
    && decide (ones64 (x.2.2 ^^^ BitVec.ofNat 64 (p.bits / 2 ^ (64 * (x.1 % 512)))) % 2 = 1))

/-- A page that is about to be read and has a parity error is dropped, to be fetched again; it is CORRECTED ("Protection" of
spec/18_errors_and_redundancy.md, R615). -/
def Eng.pageCheck (e : Eng) (gid cls page : Nat) : Eng :=
  match e.siv.cache.find? (fun p => decide (p.gid = gid ∧ p.cls = cls ∧ p.page = page)) with
  | none => e
  | some p =>
    if e.pageBad p then
      let mem := e.dbg.mem.filter (fun x => decide (x.1 / 512 ≠ 3 * 2 ^ 31 + p.way))
      ({ e with siv := { e.siv with cache := e.siv.cache.filter (fun q => decide (q.way ≠ p.way)) }, dbg := { e.dbg with mem } }).corrected 9
    else e

/-- The pages that the lanes of a row have still to take in. -/
def Row.wants (r : Row) : List Nat := r.intake.flatMap (fun x => (List.range (x.last + 1 - x.next)).map (fun n => x.next + n))

/-- The lanes of a constrained row take in what they can of its mask, and keep it (R390). An empty mask is not taken in. -/
def Eng.rowIntake (e : Eng) (k j gid : Nat) (g : GImg) (r : Row) : Eng :=
  match r.cls with
  | none => e
  | some c =>
    if gEmpty g (gClass g c) || r.res.isSome then e
    else
      let e := if e.dbg.mem.isEmpty then e else r.wants.foldl (fun e p => e.pageCheck gid c p) e
      let l := r.intake.map (fun (x : LaneIn) => laneIntake (e.pageIn gid c) x (x.last + 2 - x.next))
      let got := (r.intake.zip l).flatMap (fun x => taken x.1 x.2.1)
      let mask := got.foldl (fun t p => tput t p (e.pageHas gid c p)) r.mask
      (e.modSmp k (fun s => { s with rows := tmod s.rows j (fun r => { r with mask, intake := l.map (fun x => x.1) }) })).bump F.SIV_STALL_COUNT
        (sumBy (fun (x : LaneIn × Nat) => x.2) l)

/-- Every lane of a row's gang has taken in its part of the mask. -/
def Row.maskIn (r : Row) : Bool := r.intake.all (fun l => decide (l.last < l.next))

/-- Every joined row of a grammar goes on with its intake. -/
def Eng.intakeAll (e : Eng) (gid : Nat) : Eng :=
  (e.smp.slots.filter (fun p => decide (p.2.st = 2))).foldl (fun e p =>
    match e.stepSlot (p.1 / 16384) (p.1 % 16384) with
    | none => e
    | some (_, x) =>
      let d := e.param (e.firstOf x.lslot)
      if d.grammarEn && decide (d.grammarId = gid) then
        p.2.rows.foldl (fun e r => e.rowIntake p.1 r.1 gid (e.gramImg gid) r.2) e
      else e) e

/-- The checks and marks of a row that need the slot's control (R335, R360, R388, R389). -/
def Eng.joinRow (e : Eng) (i idx j : Nat) (x : Slot) (c : RowCtl) : Eng :=
  let k := smpKey i idx
  if c.rows ≤ j then
    (e.modSmp k (fun s => { s with rows := tdel s.rows j })).bump F.SMP_DISCARD_STALE_COUNT
  else
    let drop := fun (e : Eng) => e.modSmp k (fun s => { s with
      rows := tmod s.rows j (fun r => { r with gang := 0, data := [], res := some { toks := [] } }) })
    let first := e.firstOf x.lslot
    match e.reqGrammar first, tget (e.nodesOf i x) j with
    | none, nd => if 0 < j && nd.isNone then drop e else e
    | some g, nd =>
      if 0 < j && nd.isNone then drop e
      else if nd.any (fun n => n.pruned) then (drop e).bump F.SIV_PRUNED_COUNT
      else
        let p : Option Pda := match nd with
          | some n => n.pda
          | none => some (e.pda x.lslot)
        match p with
        | none => e
        | some p =>
          let cls := p.cls g
          let e := e.modSmp k (fun s => { s with rows := tmod s.rows j (fun r => { r with cls, intake := laneStarts r }) })
          match e.smpSlot k with
          | none => e
          | some s => match tget s.rows j with
            | some r => e.rowIntake k j (e.param first).grammarId g r
            | none => e

/-- The Sieve's engines in service wake at the control half of a constrained slot, and its keys wait for one (R395, R565, R566). -/
def Eng.sieveWake (e : Eng) : Eng :=
  let l := ([0, 1, 2, 3] : List Nat).filter (fun n => !e.siv.retired.contains n)
  let e := l.foldl (fun e n => e.wake (82 + n)) e
  match l with
  | n :: _ => e.needOn (82 + n)
  | [] => e

/-- Row and control of a slot are both here: it is OPEN, its draws are asked for, and its rows are checked (R339). -/
def Eng.joinSlot (e : Eng) (i idx : Nat) (x : Slot) (c : RowCtl) : Eng :=
  match e.smpSlot (smpKey i idx) with
  | none => e
  | some s =>
    let e := e.modSmp (smpKey i idx) (fun s => { s with st := 2, due := none })
    let lane := match s.rows with
      | (_, r) :: _ => r.lane
      | [] => 0
    let e := e.askDraws i idx lane x c
    (s.rows.foldl (fun e r => e.joinRow i idx r.1 x c) e).countFill

/-- The generators of an instance's open slots are loaded again by their coordinates (R415). -/
def Eng.redraw (e : Eng) (i : Nat) : Eng :=
  let l := e.smp.slots.filter (fun p => decide (p.1 / 16384 = i ∧ p.2.st = 2) && p.2.rows.any (fun r => r.2.res.isNone))
  l.foldl (fun e p =>
    match e.stepSlot i (p.1 % 16384), p.2.ctl, p.2.rows with
    | some (_, x), some c, (_, r) :: _ => e.askDraws i (p.1 % 16384) r.lane x c
    | _, _, _ => e) (e.dropDraws (fun k => decide (k / 16384 = i)))

/-! ### Lanes that fail (R368 to R370) -/

/-- Slots with an unsampled row in a logical lane or its gang. -/
def Eng.laneSlots (e : Eng) (n : Nat) : List Nat :=
  (e.smp.slots.filter (fun p => decide (p.2.st = 1 ∨ p.2.st = 2) && p.2.rows.any (fun r =>
    r.2.res.isNone && decide (r.2.lane ≤ n ∧ n < r.2.lane + r.2.gang)))).map (fun p => p.1)

/-- Retire a physical lane (R368 to R370). -/
def Eng.retireLane (e : Eng) (phys : Nat) : Eng :=
  if e.smp.retired.contains phys || decide (68 ≤ phys) then e
  else
    let e := { e with smp := { e.smp with retired := sinsert e.smp.retired phys } }
    let e := e.retireDom (14 + phys)
    match (List.range 64).find? (fun n => decide (e.lanePhys n = some phys)) with
    | none =>
      let e := { e with smp := { e.smp with spares := e.smp.spares.filter (fun x => decide (x ≠ phys)) } }
      e.raiseE 0x0061 8 (phys + 2 ^ 8 * 0x7F + 2 ^ 16 * 0x7F)
    | some n =>
      let e := { e with smp := { e.smp with waking := e.smp.waking.filter (fun w => decide (w.2 ≠ n)) } }
      let lost := e.laneSlots n
      match e.smp.spares with
      | sp :: rest =>
        let e := { e with smp := { e.smp with spares := rest, map := tput e.smp.map n (some sp), waking := e.smp.waking ++ [(sp, n)] } }
        let e := (e.wake (14 + sp)).raiseE 0x0061 8 (phys + 2 ^ 8 * n + 2 ^ 16 * sp)
        lost.foldl (fun e k => e.loseSlot (k / 16384) (k % 16384) 3) e
      | [] =>
        let e := { e with smp := { e.smp with map := tput e.smp.map n none } }
        let e := e.raiseE 0x0061 8 (phys + 2 ^ 8 * n + 2 ^ 16 * 0x7F)
        let e := if e.smp.exhausted then e else ({ e with smp := { e.smp with exhausted := true } }).raiseE 0x0062 8 n
        lost.foldl (fun e k => e.loseSlot (k / 16384) (k % 16384) 3) e

end Sys2Proof.Machine
end

