-- ==== Sys2Proof/Machine/Images.lean ====
section
/-!
DEFINITION. Context images (spec/14_preemption_and_context.md R480 to R482): the bytes of the sections and the CRC over them, and what a
save puts into an image. Where R480 leaves the packing of sections 1 and 3 open it is the model's (assumption log 73).
-/
namespace Sys2Proof.Machine

/-! ### An image as bytes -/

/-- A field of an image's header. -/
def imgHdr (m : Image) (off hi lo : Nat) : Nat := recField m.hdr off hi lo

/-- Token or bias words in pages of 4,096 bytes with 1,020 words each, the rest of a page 0. -/
def imgPages (words : List Nat) (pages : Nat) : List Nat :=
  match pages with
  | 0 => []
  | k + 1 =>
    let w := words.take 1020
    (w ++ List.replicate (1024 - w.length) 0).flatMap (leBytes 4) ++ imgPages (words.drop 1020) k

/-- A request in section 1: its parameter block, its history pages, its bias copy and its sibling entries. -/
def imgReqBytes (q : ImageReq) : List Nat :=
  leBytes 128 q.param.toNat ++ imgPages q.prompt (tokenPages q.prompt.length)
    ++ q.sibs.flatMap (fun s => imgPages s.tokens (tokenPages s.tokens.length))
    ++ imgPages (biasWords q.bias) (tokenPages (2 * q.bias.length)) ++ q.sibs.flatMap (fun s => leBytes 256 s.entry.toNat)

/-- A step in section 3. -/
def imgStepBytes (t : ImageStep) : List Nat :=
  leBytes 64 t.hdr.toNat ++ t.slots.flatMap (fun w => leBytes 32 w.toNat) ++ t.ents.flatMap (fun w => leBytes 8 w.toNat)
    ++ t.ctl.flatMap (fun w => leBytes 32 w.toNat)
    ++ leBytes (cdiv t.committed.length 8) (sumBy (fun (p : Nat × Bool) => b2n p.2 * 2 ^ p.1) ((List.range t.committed.length).zip t.committed))

/-- The sections of an image. -/
def imgSections (m : Image) : List (List Nat) :=
  [m.shape.flatMap (fun w => leBytes 8 w.toNat), m.reqs.flatMap imgReqBytes,
   m.groups.flatMap (fun g => leBytes 32 g.entry.toNat) ++ m.groups.flatMap (fun g => g.crates.flatMap (leBytes 8)),
   (m.step.toList ++ m.waiting.toList).flatMap imgStepBytes, m.bins.flatMap (fun w => leBytes 32 w.toNat), natBytes m.array]

/-- The CRC-32 over bytes 0x00 to 0xFB and every section. -/
def imgCrc (m : Image) : Nat := crc32 (leBytes 0xFC m.hdr.toNat ++ (imgSections m).flatten)

/-- MAGIC, VERSION and CRC are correct (R484). -/
def imgValid (m : Image) : Bool :=
  decide (imgHdr m 0 31 0 = 0x4D495043 ∧ imgHdr m 4 15 0 = 0x0100 ∧ imgHdr m 0xFC 31 0 = imgCrc m)

/-! ### Sibling entries (R481) -/

/-- The sibling entry of a slot: the Ledger record, the stack line and ORIG_RQID, the draw RQID of the request (R403). -/
def Eng.sibEntry (e : Eng) (s : Nat) : BitVec 2048 :=
  match e.rc s with
  | none => 0
  | some r => BitVec.ofNat 2048
      (e.recView s % 2 ^ 1024 + 2 ^ 1024 * (e.stackLine s % 2 ^ 512) + 2 ^ (8 * 0xC0) * (drawRqid r.rqid r.drawSlot % two32))

/-- A sibling entry with the RQID and GEN that a restore issued in RELOC_RQID and RELOC_GEN. -/
def relocate (d : BitVec 2048) (rqid gen : Nat) : BitVec 2048 :=
  let z := d.toNat - recField d 0xC4 47 0 * 2 ^ (8 * 0xC4)
  BitVec.ofNat 2048 (z + (rqid % two32 + two32 * (gen % 65536)) * 2 ^ (8 * 0xC4))

/-- The record of a sibling entry, with the DRAW_SLOT that ORIG_RQID gives. -/
def sibRec (s : ImageSib) : LRec := { recOf (s.entry.setWidth 1024) with drawSlot := recField s.entry 0xC0 23 0 }

/-- The stack line of a sibling entry. -/
def sibStack (s : ImageSib) : List Nat := leBytes 64 (recField s.entry 0x80 511 0)

/-! ### What a save writes -/

/-- The Ledger slots of an instance's admitted requests. -/
def Eng.instSlots (e : Eng) (i : Nat) : List Nat :=
  (e.led.recs.filter (fun p => decide (p.2.inst = i ∧ p.2.admitStamp ≠ 0))).map (fun p => p.1)

/-- The first slots of an instance's admitted requests. -/
def Eng.instReqs (e : Eng) (i : Nat) : List Nat := (e.instSlots i).filter (fun s => decide (e.firstOf s = s))

/-- Section 1: the requests of an instance. -/
def Eng.imageReqs (e : Eng) (i : Nat) : List ImageReq :=
  (e.instReqs i).map (fun s =>
    { param := (tget e.led.params s).getD 0, prompt := tgetD e.led.prompts s [], bias := tgetD e.led.bias s []
      sibs := (e.sibs s).map (fun x => { entry := e.sibEntry x, tokens := tgetD e.led.gent x [] }) })

/-- Whether a sibling's map names a group. -/
def Eng.mapHas (e : Eng) (s b : Nat) : Bool :=
  match e.smap s with
  | some m => m.blocks.any (fun p => decide (p.2 = b))
  | none => false

/-- HOLDERS of a group among the siblings of a request (R482). -/
def Eng.holderBits (e : Eng) (first b : Nat) : Nat :=
  sumBy (fun s => if e.mapHas s b then 2 ^ ((e.rc s).map (fun r => r.sib)).getD 0 else 0) (e.sibs first)

/-- A group entry (R482). LG is the group's first layer group on this chip (assumption log 73). -/
def Eng.groupEntry (e : Eng) (g : Grp) (req holders same : Nat) : BitVec 256 :=
  let lg := ((e.lgRanks g.inst).head?.map (fun p => p.1)).getD 0
  BitVec.ofNat 256 (putFields
    [(0, 63, 0, g.key), (8, 5, 0, lg), (8, 23, 6, g.block), (8, 27, 24, e.tierFmt g.inst 2), (8, 28, 28, b2n (decide (g.kind = 1))),
     (8, 29, 29, b2n g.full), (0xC, 31, 0, req), (0x10, 63, 0, holders), (0x18, 31, 0, same)])

/-- Addresses of a group's crates at `a`, one frame after another (R320). -/
def Eng.crateRun (e : Eng) (g : Grp) (a : Nat) : List Nat :=
  let m := e.instModel g.inst
  (e.lgRanks g.inst).map (fun p => a + p.2 * frameSize (crateElems m.crateBytes m.kvFmt) (e.tierFmt g.inst 2))

/-- Section 2: the groups of the instance's requests, each once for every request that holds it, with the addresses of its Cellar copy. -/
def Eng.imageGroups (e : Eng) (i : Nat) (copies : List (Nat × Nat)) : List ImageGroup :=
  let reqs := e.instReqs i
  let all := ((List.range reqs.length).zip reqs).flatMap (fun q =>
    (copies.filter (fun c => decide (e.holderBits q.2 c.1 ≠ 0))).map (fun c => (q.1, q.2, c)))
  (((List.range all.length).zip all).map (fun x =>
    match e.grp x.2.2.2.1 with
    | none => { entry := 0, crates := [] }
    | some g =>
      let at0 := (all.map (fun y => y.2.2.1)).idxOf x.2.2.2.1
      let first := decide (at0 = x.1)
      { entry := e.groupEntry g x.2.1 (e.holderBits x.2.2.1 x.2.2.2.1) (if first then 0xFFFFFFFF else at0)
        crates := if first then e.crateRun g x.2.2.2.2 else [] }) : List ImageGroup)

/-- A step in section 3: its packet, its row-control entries and its committed-slot bitmap. -/
def Eng.imageStep (e : Eng) (i : Nat) (num epoch cfg edge emit est : Nat) (l : List Slot) : ImageStep :=
  let x := e.inst i
  let ents := l.flatMap (fun (s : Slot) => s.ents)
  let p : Packet :=
    { epoch, inst := i, mid := x.mid, cfg, owner := x.owner, leadInst := i, step := num, edge, emit, est, slots := l, ents }
  { hdr := BitVec.ofNat 512 p.header, slots := l.map (fun s => BitVec.ofNat 256 s.bits), ents := ents.map (fun c => BitVec.ofNat 64 c.bits)
    ctl := ((List.range l.length).filter (fun k => (l.getD k {}).rowed)).map (fun k =>
      BitVec.ofNat 256 ((tget e.smp.area ((2 * i + num % 2) * 16384 + k)).map RowCtl.bits |>.getD 0))
    committed := l.map (fun s => s.done && !s.lost) }

/-- The outstanding step of section 3. -/
def Eng.imageOut (e : Eng) (i : Nat) : Option ImageStep :=
  (e.inst i).step.map (fun st => e.imageStep i st.num st.epoch st.cfg st.edge st.emit st.est st.slots)

/-- The waiting step of section 3, with its pending CFG and epoch (R478). -/
def Eng.imageWait (e : Eng) (i : Nat) : Option ImageStep :=
  let x := e.inst i
  (x.comp.filter (fun c => c.waiting)).map (fun c =>
    e.imageStep i c.num (if x.changing && decide (c.cfg = x.newCfg) then x.nextEpoch else x.epoch) c.cfg 0 0 c.est c.slots)

/-- The header of an image (R480) but for its CRC: sections one after another behind it, `array` bytes of array state last. -/
def Eng.imageHdr (e : Eng) (i : Nat) (m : Image) (freeze export_ : Bool) (array : Nat) : Nat :=
  let x := e.inst i
  let lens := ((imgSections m).take 5).map (fun l => l.length) ++ [array]
  putFields
    [(0, 31, 0, 0x4D495043), (4, 15, 0, 0x0100), (6, 0, 0, b2n freeze), (6, 1, 1, b2n export_), (6, 2, 2, b2n m.waiting.isSome),
     (7, 5, 0, x.owner), (8, 11, 0, x.mid), (8, 15, 12, x.cfg), (0xA, 3, 0, x.epoch), (0xB, 6, 0, x.chips.length), (0xC, 31, 0, m.reqs.length)]
  + putFields [(0x10, 63, 0, e.now), (0x18, 47, 0, x.stepNo)]
  + sumBy (fun (k : Nat) => 2 ^ (8 * (0x40 + 16 * k)) * ((256 + sumBy id (lens.take k)) % 2 ^ 64 + 2 ^ 64 * (lens.getD k 0 % 2 ^ 64)))
      (List.range 6)

/-- The image of a context as a save writes it (R479 to R482, R438): `shape` its shape words, `bins` its Bins entries, and for an EXPORT the
addresses of the groups' copies. The CRC over the array state, which only the array knows, is `arrayCrc`. -/
def Eng.imageOf (e : Eng) (i : Nat) (shape : List Nat) (bins : List BinEnt) (freeze : Bool) (copies : Option (List (Nat × Nat)))
    (array arrayCrc : Nat) : Image :=
  let m : Image :=
    { hdr := 0, shape := shape.map (BitVec.ofNat 64), reqs := e.imageReqs i
      groups := match copies with
        | some l => e.imageGroups i l
        | none => []
      step := if freeze then e.imageOut i else none, waiting := if freeze then e.imageWait i else none
      bins := bins.map (fun b => BitVec.ofNat 256 b.bits), array := [] }
  let h := e.imageHdr i m freeze copies.isSome array
  let m := { m with hdr := BitVec.ofNat 2048 h }
  { m with hdr := BitVec.ofNat 2048 (h + 2 ^ (8 * 0xFC) * ((if freeze then arrayCrc else imgCrc m) % two32)) }

end Sys2Proof.Machine
end

