-- ==== Sys2Proof/Machine/CtxOps.lean ====
section
/-!
DEFINITION. What saves, restores and donations are made of (spec/14_preemption_and_context.md): the shape and size of an image,
what a save returns and withdraws, the start and the end of a save and of a restore, donations.
-/
namespace Sys2Proof.Machine

/-- Tile groups of a partition on this chip. -/
def Eng.tileMask (e : Eng) (p : Nat) : Nat := e.fv F.KPR_PART_TILES_GROUPS p

/-- Bits set in a 16-bit mask. -/
def popc16 (v : Nat) : Nat := sumBy (fun k => b2n (bitOf v k)) (List.range 16)

/-- The shape of a partition on this chip (R445): tile-group mask, and above it the clusters open to it. -/
def Eng.shape (e : Eng) (p : Nat) : Nat :=
  e.tileMask p + 2 ^ 16 * sumBy (fun c => if bitOf (e.clusterMask c) p then 2 ^ c else 0) (List.range 16)

/-- The shape words of an instance's chips (R445, R480), in ascending chip index: `others` are those of its other chips. -/
def Eng.shapeWords (e : Eng) (i : Nat) (others : List DWord) : List Nat :=
  let x := e.inst i
  let k := (x.chips.filter (fun c => decide (c < e.self))).length
  let l := others.map (fun w => w.toNat)
  l.take k ++ [e.fv F.RAF_POS_POS + 2 ^ 22 * e.shape x.owner] ++ l.drop k

/-- Two lists of shape words give different shapes (R484): chips are matched in order, wherever they stand. -/
def shapesDiffer (a b : List Nat) : Bool := decide (a.map (fun w => bitsOf w 53 22) ≠ b.map (fun w => bitsOf w 53 22))

/-- Array state of a freeze image on one chip: 96 MiB of Shelf and 2 MiB of the rest for each tile group ("Save timing"). -/
def Eng.arrayBytes (e : Eng) (i : Nat) : Nat := popc16 (e.tileMask (e.inst i).owner) * (98 * 2 ^ 20)

/-- The rate of freeze writes and reads. -/
def Eng.saveRate (e : Eng) : Nat := min 8000 (e.av F.KPR_SAVE_RATE_RATE)

/-- Room left in the area of LOCAL images for the image of context `i` (R479): what the other contexts' images take, or will take. -/
def Eng.areaFree (e : Eng) (i : Nat) : Nat :=
  e.fv F.KPR_SAVE_SIZE_GIB * 2 ^ 30 - sumBy (fun (p : Nat × Ctx) => if p.1 = i then 0 else p.2.area) e.kpr.ctxs

/-! ### What Keeper wants -/

/-- Keeper wants a context restored. -/
def Eng.wantRestore (e : Eng) (i : Nat) : Eng := e.modCtx i (fun c => { c with want := 3 })

/-- Keeper wants a context saved by drain. -/
def Eng.wantDrain (e : Eng) (i : Nat) : Eng := e.modCtx i (fun c => { c with want := 1, area := 0 })

/-- Keeper wants a context saved by freeze, or by drain where its image finds no room (R479). What the image will take beside the array
state is a free value until it is written. -/
def Eng.wantFreeze (e : Eng) (i : Nat) : Eng :=
  let f := e.fresh
  let n := e.arrayBytes i + f.1.toNat % two32
  if n ≤ e.areaFree i then f.2.modCtx i (fun c => { c with want := 2, area := n }) else e.wantDrain i

/-! ### Semaphores and donations (R491 to R497) -/

/-- The semaphores on which a context waits. -/
def Eng.waitedSems (e : Eng) (i : Nat) : List Nat := semRange.filter (fun k => (e.sem k).waiters.any (fun w => decide (w.1 = i)))

/-- The chain of waiters from holder `h` on comes to a context of `seen`, which it has passed. -/
def chainReturns (e : Eng) (seen : List Nat) (h : Nat) (fuel : Nat) : Bool :=
  match fuel with
  | 0 => false
  | f + 1 => seen.contains h || (e.waitedSems h).any (fun k => match (e.sem k).holder with
    | some g => chainReturns e (h :: seen) g f
    | none => false)

/-- A chain of waiters that starts at a semaphore returns to a context already in it (R495). -/
def Eng.semCycle (e : Eng) (k : Nat) : Bool :=
  match (e.sem k).holder with
  | some h => (e.sem k).waiters.any (fun w => chainReturns e [w.1] h 17)
  | none => false

/-- Raise SEM_DEADLOCK for a semaphore whose chain has come to return, once while it stands (R495). -/
def Eng.semWatch (e : Eng) (k : Nat) : Eng :=
  let e := { e with kpr := { e.kpr with deadlocked := e.kpr.deadlocked.filter (fun x => e.semCycle x) } }
  if e.semCycle k && !e.kpr.deadlocked.contains k then
    match leastBy e.waitKey (e.sem k).waiters with
    | some w => ({ e with kpr := { e.kpr with deadlocked := e.kpr.deadlocked ++ [k] } }).raiseP 0x0093 12 (e.inst w.1).owner k
    | none => e
  else e

/-- Start a donation (R493): the contexts that occupy the holder's tile groups are to be saved by freeze, then the holder is
restored. -/
def Eng.donateStart (e : Eng) (k h w : Nat) : Eng :=
  let occ := (e.rivals h).filter e.occupies
  let d : Donation := { sem := k, holder := h, waiter := w, wpid := (e.inst w).owner, toSave := occ, wasHeld := (e.ctx h).held }
  let e := ({ e with kpr := { e.kpr with dons := e.kpr.dons ++ [d] } }).bump F.KPR_DONATIONS_COUNT
  let e := occ.foldl (fun e j => if (e.ctx j).state = 1 then e else e.wantFreeze j) e
  if occ.isEmpty then e.wantRestore h else e

/-- A semaphore that is HELD_BY_SWAPPED and waited for starts a donation, unless one serves it or its chain returns (R493, R495). -/
def Eng.donate (e : Eng) (k : Nat) : Eng :=
  let x := e.sem k
  match x.holder, leastBy e.waitKey x.waiters with
  | some h, some w =>
    if x.swapped && e.kprOn && decide ((e.ctx h).state = 2) && !(e.ctx h).gone && !e.semCycle k
        && !(e.kpr.dons.any (fun d => decide (d.sem = k ∨ d.holder = h))) then e.donateStart k h w.1
    else e
  | _, _ => e

/-- Start every donation that is due. -/
def Eng.donateAll (e : Eng) : Eng := semRange.foldl (fun e k => (e.semWatch k).donate k) e

/-- Change the donations that `p` selects. -/
def Eng.modDon (e : Eng) (p : Donation → Bool) (f : Donation → Donation) : Eng :=
  { e with kpr := { e.kpr with dons := e.kpr.dons.map (fun d => if p d then f d else d) } }

/-- A donation's holder has been saved: the displaced contexts are restored in the order in which they were saved (R493). -/
def Eng.donateEnd (e : Eng) (d : Donation) : Eng :=
  let e := { e with kpr := { e.kpr with dons := e.kpr.dons.filter (fun x => decide (x.sem ≠ d.sem)) } }
  let e := e.modCtx d.holder (fun c => { c with held := d.wasHeld, donating := false })
  let l := d.saved.filter (fun j => decide ((e.ctx j).state = 2))
  l.foldl Eng.wantRestore { e with kpr := { e.kpr with back := e.kpr.back ++ l } }

/-- A displaced context whose turn to be restored has not come: one saved before it is still wanted back (R493). -/
def Eng.backWaits (e : Eng) (i : Nat) : Bool :=
  let l := e.kpr.back.filter (fun j => decide ((e.ctx j).state = 2 ∧ (e.ctx j).want = 3) && !(e.ctx j).gone)
  l.contains i && decide (l.head? ≠ some i)

/-- A context has become SAVED: the donations that it concerns go on. -/
def Eng.donateSaved (e : Eng) (i : Nat) : Eng :=
  let e := e.modDon (fun d => d.toSave.contains i) (fun d =>
    { d with toSave := d.toSave.filter (fun j => decide (j ≠ i)), saved := d.saved ++ [i] })
  let e := (e.kpr.dons.filter (fun d => d.toSave.isEmpty && d.start.isNone && !d.closing && decide ((e.ctx d.holder).state = 2))).foldl
    (fun e d => e.wantRestore d.holder) e
  (e.kpr.dons.filter (fun d => d.closing && decide (d.holder = i))).foldl (fun e d => e.donateEnd d) e

/-! ### What a save returns and withdraws (R286, R473, R476, R489) -/

/-- The move of a group has been withdrawn before it started: it is LIVE where it was, and FREE when nobody holds it any more (R287). -/
def Eng.moveWithdrawn (e : Eng) (b : Nat) : Eng :=
  match e.grp b with
  | some g => if g.state = 3 then ((e.unpinLost b).freeGrp b).recallAll else (e.setGrp b { g with state := 1, retried := false }).recallAll
  | none => e

/-- Withdraw the queued moves of a context's groups: those of which no piece has started. -/
def Eng.withdrawMoves (e : Eng) (i : Nat) : Eng :=
  let hit := fun (c : PanCmd) => decide (c.inst = i ∧ c.kind = 1 ∧ c.started = 0)
  let l := (e.pan.demand ++ e.pan.background ++ e.pan.held).filter hit
  l.foldl (fun e c =>
    match tget e.shv.ops c.id with
    | some op =>
      if op.what ≠ 0 then e
      else
        let e := { e with pan := { e.pan with held := e.pan.held.filter (fun (x : PanCmd) => decide (x.id ≠ c.id)) },
                          shv := { e.shv with ops := tdel e.shv.ops c.id } }
        (e.panDrop c.id).moveWithdrawn op.grp
    | none => e) e

/-- A move of a context's groups is in flight. -/
def Eng.movesOpen (e : Eng) (i : Nat) : Bool :=
  e.shv.ops.any (fun p => decide (p.2.what = 0) && (match e.grp p.2.grp with
    | some g => decide (g.inst = i)
    | none => false))

/-- Return the credits of a context (R489): the unused bytes of its streaming grants, a free value up to what was granted, and its
holds on the peers' link buffers. -/
def Eng.returnCredits (e : Eng) (i : Nat) : Eng :=
  let n := tgetD e.kpr.streamGrants i 0
  let f := e.fresh
  let e := if n = 0 then e else f.2.regReturn (e.inst i).owner 0 (f.1.toNat % (n + 1))
  let e := { e with kpr := { e.kpr with streamGrants := tdel e.kpr.streamGrants i,
                                        streamWait := e.kpr.streamWait.filter (fun x => decide (x.1 ≠ i)) } }
  linkRange.foldl (fun e l => e.holdReturn l i) e

/-! ### Images -/

/-- The frozen step and the waiting composition of an image go with it (R488, R501): its slots hold nothing any more. -/
def Eng.imageDrop (e : Eng) (i : Nat) : Eng :=
  let e := e.modCtx i (fun c => { c with gone := true, frozen := false, imgBins := [], want := 0, next := false, area := 0 })
  let e := { e with kpr := { e.kpr with back := e.kpr.back.filter (fun j => decide (j ≠ i)) } }
  let e := e.discardComp i
  match (e.inst i).step with
  | none => e
  | some st =>
    let e := (e.clearToks i).clearRows i
    let e := e.modInst i (fun x => { x with step := none, carried := [] })
    let e := st.slots.foldl (fun e (x : Slot) => e.unpinSlot x) e
    (e.leaveEndStep i st.num).reapSlots st.slots

/-- The driver's command ends with a status. -/
def Eng.cmdDone (e : Eng) (status : Nat) : Eng := { e with kpr := { e.kpr with cmd := none, cmdStatus := status } }

/-- The CONTEXT record of R604. op: 1 a save, 2 a restore. -/
def Eng.ctxTrace (e : Eng) (i op mode dest status : Nat) (keeper : Bool) : Eng :=
  e.trace { kind := 10, inst := i, pid := (e.inst i).owner, pidV := true, status, arg := op + 8 * mode + 16 * dest + 32 * b2n keeper }

/-! ### Saves -/

/-- Bytes that a save or a restore of a context moves: they are in its owner's accounting, and no regulator holds or charges them (R490). -/
def Eng.ownBytes (e : Eng) (i st ce ra : Nat) : Eng :=
  e.modPart (e.inst i).owner (fun k => { k with storeB := k.storeB + st, cellarB := k.cellarB + ce, rafB := k.rafB + ra })

/-- Bytes of an image in Store, where an address has no 2^64, or in Cellar. -/
def Eng.imageTraffic (e : Eng) (i addr n : Nat) : Eng := if addr < 2 ^ 64 then e.ownBytes i n 0 0 else e.ownBytes i 0 n 0

/-- A save starts (R472, R473, R476): a freeze chooses the halt Tally and tells the followers and the array. -/
def Eng.saveStart (e : Eng) (i : Nat) (freeze : Bool) (export_ : Option Nat) (keeper : Bool) : Eng :=
  let h := e.now + e.leadEff i (e.av (F.TAL_EDGE_LEAD_n_LEAD.at 4 i))
  let e := e.modCtx i (fun c => { c with
    state := 1, want := 0, freeze, exported := export_, byKeeper := keeper, holdAfter := !keeper, halted := false,
    haltAt := if freeze then some h else none, flushed := false, gone := false, copies := none,
    area := if freeze ∧ export_ = none then c.area else 0 })
  if freeze then
    let e := (e.others i).foldl (fun e c => e.sendInst i { typ := 0x13, dst := c, arg := h }) e
    (e.ownBytes i 0 0 ((e.others i).length * 20)).tell (.halt i h)
  else e

/-- Ask for the Cellar copies of an EXPORT: of every group that a sibling of the context holds, in SHV_INST_CELLAR.FMT (R479). Where a copy
goes is a free value. -/
def Eng.exportCopies (e : Eng) (i : Nat) : Eng :=
  let held := e.shv.groups.filter (fun p => decide (p.2.inst = i ∧ p.2.kind ≠ 2) && (e.instSlots i).any (fun s => e.mapHas s p.1))
  held.foldl (fun e p =>
    let f := e.fresh
    let a := f.1.toNat / 4096 * 4096
    let e := f.2.modCtx i (fun c => { c with copies := c.copies.map (fun l => l ++ [(p.1, a)]) })
    e.panIssue { e.moveCmd p.1 p.2 2 a false with pid := (e.inst i).owner, rqid := 0, own := false } { what := 3, grp := p.1, dest := i })
    (e.modCtx i (fun c => { c with copies := some [] }))

/-- A Cellar copy of an EXPORT of the context is still to be made. -/
def Eng.copiesOpen (e : Eng) (i : Nat) : Bool := e.shv.ops.any (fun p => decide (p.2.what = 3 ∧ p.2.dest = i))

/-- A sibling of the context has a pending copy (R194, R473). -/
def Eng.pendingCopy (e : Eng) (i : Nat) : Bool :=
  e.led.recs.any (fun p => decide (p.2.inst = i ∧ 0 < p.2.copyN) && p.2.live && p.2.draftV)

/-- A drain has come to rest: no composition, no step, and the flush step behind it where one is needed. -/
def Eng.drained (e : Eng) (i : Nat) : Bool :=
  let x := e.inst i
  x.comp.isNone && x.step.isNone && ((e.ctx i).flushed || !e.pendingCopy i)

/-- The slot of the flush step for a sibling with a pending copy (R474): VOID, with COPY and DSET, naming the copied positions and
the draft crates that are read. -/
def Eng.flushSlot (e : Eng) (s : Nat) (r : LRec) : Slot :=
  let lo := (r.pos - r.copyN) / 64
  let ents := ((List.range ((r.pos - 1) / 64 + 1 - lo)).map (fun k => lo + k)).flatMap (fun b => match e.blockGrp s b with
    | some g => e.entsOf g b 0
    | none => [])
  let rd := match e.draftGrp s r.dsetLast with
    | some g => e.entsOf g 0 2
    | none => []
  { kind := 0, copy := true, dset := !r.dsetLast, gen := r.gen, rqid := r.rqid, sib := r.sib, lslot := s, draft := r.draft, pos := r.pos,
    ents := ents ++ rd, ncrate := (ents ++ rd).length, root := r.crateRoot, rootV := r.rootV, copyN := r.copyN, bound := true }

/-- Emit the flush step of a drain whose last step has resolved (R473, R474). Its compose window opens with it and closes at its edge
(R59, R60). -/
def Eng.emitFlush (e : Eng) (i : Nat) : Eng :=
  let l := (e.led.recs.filter (fun p => decide (p.2.inst = i ∧ 0 < p.2.copyN) && p.2.live && p.2.draftV)).map (fun p => e.flushSlot p.1 p.2)
  let e := (e.captureViews i).modInst i (fun x => { x with win := true })
  let x := e.inst i
  let lead := e.leadEff i (e.cv (F.TAL_EDGE_LEAD_n_LEAD.at 4 i))
  match e.placeEdge x.owner (e.now + lead) 0 with
  | none => e.closeWindow i
  | some (edge, nofit) =>
    let c : Comp := { num := x.stepNo + 1, start := e.now, waiting := true, slots := l, cfg := x.cfg, uid := e.cmp.nextUid }
    let e := e.takeUid.advance (edge - lead)
    let e := if nofit then e.raiseP 0x0032 14 x.owner edge else e
    let e := (e.modInst i (fun x => { x with comp := some c })).modCtx i (fun c => { c with flushed := true })
    e.emitPacket i edge

/-- The flush step of a context is due: a step number is left for it (R18), a multi-chip instance is in alignment (R41), and the Composer emits
(R610). -/
def Eng.flushDue (e : Eng) (i : Nat) : Bool :=
  let x := e.inst i
  let c := e.ctx i
  decide (c.state = 1) && !c.freeze && !c.flushed && x.lead && x.comp.isNone && x.step.isNone && e.pendingCopy i
    && e.aligned i && e.emitOn && decide (x.stepNo < 0xFFFFFFFFFFFF)

/-- Siblings of a saved context enter SWAPPED (R144, R472). -/
def Eng.swapOut (e : Eng) (i : Nat) : Eng :=
  (e.instSlots i).foldl (fun e s =>
    match e.rc s with
    | some r =>
      if 1 ≤ r.state ∧ r.state ≤ 7 then
        ((e.setRc s { r with prior := r.state, state := 8, priorPaused := r.prior }).recUse s).mirror s
      else e
    | none => e) e

/-- Siblings in SWAPPED return to PRIOR (R144, R472). -/
def Eng.swapIn (e : Eng) (i : Nat) : Eng :=
  (e.instSlots i).foldl (fun e s =>
    match e.rc s with
    | some r =>
      if r.state = 8 then
        ((e.setRc s { r with state := r.prior, prior := if r.prior = 7 then r.priorPaused else r.prior }).touch s).mirror s
      else e
    | none => e) e

/-- Semaphores of a holder take or lose HELD_BY_SWAPPED (R492). -/
def Eng.semSwap (e : Eng) (i : Nat) (swapped : Bool) : Eng :=
  semRange.foldl (fun e k => if (e.sem k).holder = some i then e.setSem k { e.sem k with swapped } else e) e

/-- The image of a context is complete (R472, R475, R479, R490): it is written where DEST says. `others` are the shape words of the instance's
other chips. -/
def Eng.saveEnd (e : Eng) (i : Nat) (others : List DWord) : Eng :=
  let c := e.ctx i
  let x := e.inst i
  let e := e.swapOut i
  let e := if c.freeze then e else (e.instSlots i).foldl (fun e s => e.dropDraft s) e
  let shape := e.shapeWords i others
  let array := if c.freeze then e.arrayBytes i * max 1 x.chips.length else 0
  let f := e.fresh
  let e := if c.freeze then f.2 else e
  let m := e.imageOf i shape c.imgBins c.freeze (c.exported.bind (fun _ => c.copies)) array (f.1.toNat % two32)
  let bytes := 256 + sumBy (fun (l : List Nat) => l.length) (imgSections m) + array
  let addr := c.exported.getD (e.pairv 0xC118)
  let moved := e.kpr.dons.any (fun d => d.toSave.contains i)
  let used := match c.sliceStart with
    | some t => if moved then c.sliceUsed + (e.now - t) else 0
    | none => 0
  let e := e.modInst i (fun x => { x with trig := none })
  let e := e.modCtx i (fun c => { c with
    state := 2, held := c.holdAfter || c.exported.isSome || (c.held && c.byKeeper), frozen := c.freeze, imgEpoch := x.epoch, imgCfg := x.cfg,
    imgBytes := bytes, imgShape := shape, sliceStart := none, sliceUsed := used, donating := false, haltAt := none, copies := none
    area := if c.freeze ∧ c.exported = none then bytes else 0 })
  let e := { e with kpr := { e.kpr with imgBytes := bytes } }
  let e := (e.imageTraffic i addr bytes).emit (.image i addr bytes m)
  let e := match c.exported with
    | some a => { e with kpr := { e.kpr with exports := (e.kpr.exports.filter (fun (y : Nat × Nat) => decide (y.1 ≠ a))) ++ [(a, m.groups.length)] } }
    | none => e
  let e := if c.freeze then e.bump F.KPR_SAVES_FREEZE_COUNT else e.bump F.KPR_SAVES_DRAIN_COUNT
  let e := e.ctxTrace i 1 (b2n c.freeze) (b2n c.exported.isSome) 0 c.byKeeper
  let e := if e.kpr.cmd = some i then e.cmdDone 0 else e
  let e := (((e.semSwap i true).donateSaved i).donateAll).balance i
  if c.gone then e.imageDrop i else e

/-! ### Restores -/

/-- A restore starts (R472, R483): leave is asked for the load of the image's CFG, and the array reads its state beside it. -/
def Eng.restoreStart (e : Eng) (i : Nat) (logical : Bool) (from_ : Option Nat) : Eng :=
  let c := e.ctx i
  let whole := c.frozen && !logical
  let t := if whole then e.now + cdiv (e.arrayBytes i) e.saveRate else e.now
  let e := e.modCtx i (fun c => { c with state := 3, want := 0, next := false, cfgIn := false, readyAt := t, logicalOnly := logical, exported := from_ })
  let e := { e with kpr := { e.kpr with back := e.kpr.back.filter (fun j => decide (j ≠ i)) } }
  let e := e.imageTraffic i (from_.getD (e.pairv 0xC118)) c.imgBytes
  let e := if whole then e.tell (.restoreState i) else e
  e.askConfig i c.imgCfg

/-- Every slot of a frozen step that has not committed is lost (R342, R485), those without rows first. -/
def Eng.loseFrozen (e : Eng) (i : Nat) : Eng :=
  match (e.inst i).step with
  | none => e
  | some st =>
    let l := ((List.range st.slots.length).zip st.slots).filter (fun p => decide (p.2.kind ≠ 0) && !p.2.done)
    let e := (l.filter (fun p => !p.2.rowed)).foldl (fun e p => e.loseSlot i p.1 5) e
    let e := (l.filter (fun p => p.2.rowed)).foldl (fun e p => e.loseSlot i p.1 5) e
    match (e.inst i).step with
    | none => e
    | some _ => e.resolveStep i

/-- Bins entries of an instance whose epoch is neither its own nor the pending one are discarded (R487, R418). -/
def Eng.binEpochs (e : Eng) (i : Nat) : Eng :=
  let x := e.inst i
  let ok := fun (b : BinEnt) => decide (b.inst ≠ i ∨ b.epoch = x.epoch) || (x.changing && decide (b.epoch = x.nextEpoch))
  let off := (e.bin.entries.filter (fun b => !ok b)).map (fun b => b.epoch)
  off.eraseDups.foldl (fun e ep => e.binReport i ep) { e with bin := { e.bin with entries := e.bin.entries.filter ok } }

/-- The region of a restored context holds the image's configuration: a pending change loads its own again, and waits for the array's report
of the old epoch where the array's state is back (R222, R478). -/
def Eng.pendAgain (e : Eng) (i : Nat) (array : Bool) : Eng :=
  let x := e.inst i
  if x.changing then
    (e.modInst i (fun x => { x with cfgLoaded := false, drained := x.drained || !array })).askConfig i x.newCfg
  else e

/-- A restore completes (R472, R477, R478, R485, R487): the Cellar groups of its siblings are recalled (R282), and the generators of open
slots are loaded again (R415). A context that a donation restored runs in a borrowed slice, with no slice of its own (R493). -/
def Eng.restoreEnd (e : Eng) (i : Nat) : Eng :=
  let c := e.ctx i
  let sliced := decide (e.fv F.KPR_PART_CTL_MODE (e.inst i).owner = 1)
  let e := e.modInst i (fun x => { x with
    epoch := c.imgEpoch, cfg := c.imgCfg, quiet := false,
    step := if c.frozen then x.step.map (fun st => { st with arrayDone := false, timer := none }) else x.step })
  let don := e.kpr.dons.any (fun d => decide (d.holder = i) && d.start.isNone && !d.closing)
  let e := e.modCtx i (fun c => { c with
    state := 0, held := false, frozen := false, cfgIn := false, area := 0, imgBins := [], donating := don, logicalOnly := false,
    sliceStart := if sliced && !don then some e.now else none })
  let e := e.modDon (fun d => decide (d.holder = i) && d.start.isNone && !d.closing) (fun d => { d with start := some e.now })
  let e := e.swapIn i
  let e := (e.binThaw i c.imgBins).binEpochs i
  let e := (c.imgBins.map (fun b => b.epoch)).eraseDups.foldl (fun e ep => e.binReport i ep) e
  let e := e.semSwap i false
  let e := if c.frozen then (if c.logicalOnly then e.loseFrozen i else e.redraw i) else e
  let e := e.pendAgain i (c.frozen && !c.logicalOnly)
  let e := (e.instSlots i).foldl (fun e s => e.recall s) e
  let e := e.bump F.KPR_RESTORES_COUNT
  let e := e.ctxTrace i 2 (b2n c.frozen) (b2n c.exported.isSome) 0 (decide (e.kpr.cmd ≠ some i))
  let e := match c.saveAfter with
    | some _ => e
    | none => if e.kpr.cmd = some i then e.cmdDone 0 else e
  e.donateAll

end Sys2Proof.Machine
end

