-- ==== Sys2Proof/Machine/HatchOps.lean ====
section
/-!
DEFINITION. Hatch's operations (spec/03_hatch_rings_and_doorbells.md): doorbell counts, the order of fetching, the checks of a
descriptor, the resolution of contending orders and their effects on requests.
-/
namespace Sys2Proof.Machine

/-! ### Doorbells (R82 to R89) -/

/-- RING_OVERRUN (R89): EN clears, and the head stands where it stood, so that no descriptor beyond those already fetched is. Orders fetched
before the count came, waiting under R116, are still applied: the rule speaks of descriptors that the count covers and names no order that
is withdrawn (DESIGN CHOICE, assumption log 74). -/
def Eng.ringOverrun (e : Eng) (r count : Nat) : Eng :=
  let e := (e.poke F.HAT_RING_CFG_EN 0 r).setRing r { e.ring r with overAt := some e.now }
  e.raiseP 0x0011 1 (e.fv F.HAT_RING_CFG_PID r) (r + two32 * (count % two32))

/-- Take a published count of an enabled ring (R88, R89). -/
def Eng.takeCount (e : Eng) (r count stamp : Nat) : Eng :=
  let g := e.ring r
  let c := count % two32
  if !e.ringEn r || e.unitHalted 1 then e
  else if e.ringKind r = 0 then
    let d := (c + two32 - g.head) % two32
    if e.ringDepth r < d then e.ringOverrun r c
    else if d ≤ e.ringFill r then e
    else e.setRing r { g with tail := c, stamps := g.stamps ++ [(stamp, c)] }
  else
    let d := (c + two32 - g.head) % two32
    if e.ringFill r < d then e.ringOverrun r c else e.setRing r { g with head := c }

/-! ### Fetching (R90 to R92, R113, R115, R633) -/

/-- A submission ring has a descriptor that Hatch may fetch. -/
def Eng.canFetch (e : Eng) (r : Nat) : Bool :=
  e.ringEn r && decide (e.ringKind r = 0) && !e.blocked (e.cqOf r) && decide ((e.ring r).fetched ≠ (e.ring r).tail)

/-- The ring that Hatch fetches from next (R90), with what is left of its turn. -/
def Eng.fetchRing (e : Eng) : Option (Nat × Nat) :=
  if !e.fb F.HAT_CTL_EN || e.quiet || e.stopped || e.unitHalted 1 then none
  else if 0 < e.hat.rrLeft ∧ e.canFetch e.hat.rrRing then some (e.hat.rrRing, e.hat.rrLeft)
  else
    (((List.range 256).map (fun k => (e.hat.rrRing + 1 + k) % 256)).find? e.canFetch).map (fun r =>
      (r, if e.fv F.HAT_RING_CFG_BURST r = 0 then 64 else e.fv F.HAT_RING_CFG_BURST r))

/-- The stamp of a ring's next descriptor (R88). -/
def Ring.nextStamp (g : Ring) : Nat :=
  match g.stamps with
  | x :: _ => x.1
  | [] => 0

/-- Fetch one descriptor: its ring, its doorbell stamp, and the engine with the position taken. -/
def Eng.fetch (e : Eng) : Option (Nat × Nat × Eng) :=
  e.fetchRing.map (fun p =>
    let g := e.ring p.1
    let f := (g.fetched + 1) % two32
    let e' := e.setRing p.1 { g with fetched := f, stamps := g.stamps.filter (fun x => decide (x.2 ≠ f)) }
    (p.1, g.nextStamp, { e' with hat := { e'.hat with rrRing := p.1, rrLeft := p.2 - 1 } }))

/-- The opcodes of R96. -/
def opcodeKnown (op : Nat) : Bool := [1, 2, 3, 4, 5, 6, 0x10, 0x11, 0x3F].contains op

/-- Partition of a ring. -/
def Eng.ringPid (e : Eng) (r : Nat) : Nat := e.fv F.HAT_RING_CFG_PID r

/-- The ORDER record that answers a descriptor which names no request. -/
def Eng.answer (e : Eng) (r status tag : Nat) (final : Bool := false) : Eng :=
  e.complete (ordRec status r 0 0 tag e.now final)

/-! ### SUBMIT (R97 to R99, R123, R156, R386, R632) -/

/-- A binary32 number is finite. -/
def f32Finite (w : Nat) : Bool := decide (w / 2 ^ 23 % 256 ≠ 255)

/-- A finite binary32 number lies in [0, 1]; −0.0 is 0.0. -/
def f32Unit (w : Nat) : Bool := decide (w ≤ 0x3F800000 ∨ w = 0x80000000)

/-- A field or flag that the agreed version does not include is 0 (R122, R123). -/
def verOk (o : SubDesc) (ver : Nat) : Bool :=
  (decide (0x0202 ≤ ver) || decide (o.nsib = 0))
    && (decide (0x0300 ≤ ver) || (!o.grammarEn && !o.specEn && decide (o.grammarId = 0 ∧ o.maxDraft = 0)))
    && (decide (0x0301 ≤ ver) || !o.tree) && (decide (0x0302 ≤ ver) || decide (o.minP = 0))

/-- A word of a prompt or the first word of a bias entry is in form (R98). -/
def tokOk (vocab : Option Nat) (w : Nat) : Bool :=
  decide (w < 2 ^ 20) && (match vocab with
    | some v => decide (w < v)
    | none => true)

/-- The fields of a SUBMIT lie in their ranges (R97, R99), but for the checks that need the Larder entry. -/
def subFieldsOk (o : SubDesc) : Bool :=
  decide (o.nlogprob ≤ 20 ∧ o.promptAddr % 4 = 0 ∧ 1 ≤ o.promptLen ∧ o.promptLen ≤ 16777216 ∧ 1 ≤ o.maxNew
      ∧ o.biasCount ≤ 4096 ∧ o.maxDraft ≤ 64)
    && f32Finite o.temperature && decide (o.temperature ≤ 2 ^ 31)
    && f32Finite o.topP && f32Unit o.topP && f32Pos o.topP
    && f32Finite o.minP && f32Unit o.minP
    && f32Finite o.repPenalty && f32Pos o.repPenalty && f32Finite o.presence && f32Finite o.freq
    && (decide (o.biasCount = 0) || decide (o.biasAddr ≠ 0 ∧ o.biasAddr % 8 = 0))
    && (decide (o.nlogprob = 0) || decide (o.logprobAddr ≠ 0))

/-- GRAMMAR_ID may be named by a SUBMIT (R386, R396). -/
def Eng.grammarOk (e : Eng) (o : SubDesc) : Bool :=
  !o.grammarEn
    || (let g := e.gram o.grammarId
        g.valid && !g.draining && decide (g.mid = o.mid) && decide (e.siv.retired.length < 4))

/-- Whether a SUBMIT is in form, but for the check of GRAMMAR_ID; one that is not completes with ST_BAD_DESC. -/
def Eng.subCheck (e : Eng) (d : DescBits) (l : Option LarderBits) (prompt : List Word) (bias : List DWord) : Bool :=
  let o := subOf d
  let v := l.map (fun b => recField b 8 20 0)
  subReservedOk d && verOk o (e.hat.version.getD 0) && subFieldsOk o
    && (match l with
      | some b => decide (o.topK ≤ recField b 8 20 0 ∧ o.stopToken < recField b 8 20 0
          ∧ o.promptLen + o.maxNew ≤ recField b 0xC 24 0)
      | none => true)
    && prompt.all (fun w => tokOk v w.toNat)
    && bias.all (fun w => tokOk v (w.toNat % two32) && f32Finite (w.toNat / two32))

/-- Allocate the records of an accepted SUBMIT (R136, R140, R143): slots and pages are at hand. Every record holds the first one's GEN (R140);
each slot's own count has advanced with its taking (R16). The spec does not say which GEN a sibling's slot has at its next use as a first
record: the model's choice is the next of its own count (DESIGN CHOICE, assumption log 70). -/
def Eng.subAlloc (e : Eng) (r stamp seq : Nat) (d : DescBits) (slots : List (Nat × Nat)) (prompt : List Word) (bias : List DWord) : Eng :=
  let o := subOf d
  let p := e.ringPid r
  match slots with
  | [] => e
  | (s0, g0) :: _ =>
    let rqid := p * 2 ^ 26 + s0
    let pp := takePages e (tokenPages o.promptLen)
    let bp := takePages pp.2 (cdiv (o.biasCount * 8) 4080)
    let e := bp.2
    let addr := fun (l : List Nat) => match l with
      | x :: _ => e.pageAddr x
      | [] => 0
    let e := { e with led := { e.led with
      params := tput e.led.params s0 (paramBlock d (addr pp.1) (addr bp.1))
      prompts := tput e.led.prompts s0 (prompt.map (fun (w : Word) => w.toNat))
      bias := if bias.isEmpty then e.led.bias else tput e.led.bias s0 (bias.map (fun (w : DWord) => w.toNat)) } }
    let e := ((List.range slots.length).zip slots).foldl (fun e x =>
      let rec_ : LRec := {
        state := if o.hold then 2 else 1, kind := decide (x.1 ≠ 0), hold := o.hold, sib := x.1, gen := g0, rqid, mid := o.mid,
        ring := r, nsib := o.nsib, nextSib := (slots.getD (x.1 + 1) (0xFFFFFF, 0)).1, userTag := o.userTag,
        deadlineFirst := o.deadlineFirst, deadlineLast := o.deadlineLast, promptLen := o.promptLen, maxNew := o.maxNew,
        submitStamp := stamp, drawSlot := s0, promptPages := if x.1 = 0 then pp.1 else [], biasPages := if x.1 = 0 then bp.1 else [] }
      (e.setRc x.2.1 rec_).touch x.2.1) e
    let e := e.addLive p slots.length
    let e := if o.grammarEn then e.setGram o.grammarId { e.gram o.grammarId with live := (e.gram o.grammarId).live + slots.length } else e
    let e := slots.foldl (fun e x => e.mirror x.1 (decide (x.1 = s0))) e
    if o.hold then e.report (ordRec 2 r g0 rqid o.userTag e.now) else e.queueFresh seq s0

/-- Apply a fetched SUBMIT (R32, R81, R99, R114, R136, R160, R442, R632). `at_` is what was found when it was fetched (R114, R386). -/
def Eng.subApply (e : Eng) (r stamp : Nat) (at_ : AtFetch) (d : DescBits) (larder : Option LarderBits) (prompt : List Word) (bias : List DWord) : Eng :=
  let o := subOf d
  let p := e.ringPid r
  let l := larderOf larder o.mid
  let n := o.nsib + 1
  let lm := e.av F.GAT_PART_LIVE_MAX_MAX p
  if !e.fb F.KPR_PART_CTL_EN p then e.answer r 0x38 o.userTag true
  else if !at_.gramOk || !e.subCheck d l prompt bias then e.answer r 0x2B o.userTag true
  else if l.isNone then e.answer r 0x12 o.userTag true
  else if e.followsOnly o.mid then e.answer r 0x28 o.userTag true
  else if lm ≠ 0 ∧ lm < e.liveOf p + n then e.answer r 0x10 o.userTag true
  else if at_.ledOn = false ∨ e.slotsFree < n ∨ e.pagesFree < tokenPages o.promptLen + cdiv (o.biasCount * 8) 4080 then e.answer r 0x15 o.userTag true
  else
    match takeSlots e n with
    | none => e.answer r 0x15 o.userTag true
    | some (sl, e) => e.subAlloc r stamp at_.seq d sl prompt bias

/-! ### Orders (R100, R116 to R119, R142 to R147) -/

/-- Rank of an order's kind (R117): smaller wins. -/
def ordRank (op : Nat) : Nat := if op = 6 then 0 else if op = 5 then 1 else if op = 4 then 2 else if op = 3 then 3 else 4

/-- The winner among two contending orders is the first (R117). Row 5 leaves two orders of one stamp from one peer; the spec gives no
further row: the model's choice is the lower order number, the frame's ARG (assumption log 59). -/
def Order.beats (a b : Order) : Bool :=
  if ordRank a.opcode ≠ ordRank b.opcode then decide (ordRank a.opcode < ordRank b.opcode)
  else match a.peer, b.peer with
    | none, some _ => true
    | some _, none => false
    | none, none => decide (a.ring < b.ring ∨ (a.ring = b.ring ∧ a.seq < b.seq))
    | some x, some y => decide (x < y ∨ (x = y ∧ a.seq < b.seq))

/-- An order is listed for a state (R144). -/
def ordListed (op state : Nat) : Bool :=
  if op = 2 then decide (state = 2)
  else if op = 3 then decide (state = 7)
  else if op = 5 then decide (3 ≤ state ∧ state ≤ 6)
  else decide (1 ≤ state ∧ state ≤ 8)

/-- The live siblings of a request to which an order applies (R142). -/
def Eng.ordTargets (e : Eng) (op first : Nat) : List Nat :=
  (e.sibs first).filter (fun s => match e.rc s with
    | some r => ordListed op r.state
    | none => false)

/-- History pages that a MODIFY adds to a sibling's reservation, and takes from it (R631). -/
def resizeBy (r : LRec) (maxNew : Nat) : Nat × Nat :=
  let w := tokenPages maxNew - r.pages.length
  (w - r.pagesResv, r.pagesResv - w)

/-- The status of an order (R119, R142, R631). -/
def Eng.ordStatus (e : Eng) (o : Order) : Nat :=
  match e.named o.rqid o.gen with
  | none => 0x29
  | some s =>
    if e.allEnded s then 0x29
    else
      let t := e.ordTargets o.opcode s
      if t.isEmpty then 0x2A
      else if o.opcode = 4 ∧ o.flags / 2 % 2 = 1 then
        let d := t.foldl (fun (a : Nat × Nat) x => match e.rc x with
          | some r => if r.admitStamp = 0 then a else (a.1 + (resizeBy r o.maxNew).1, a.2 + (resizeBy r o.maxNew).2)
          | none => a) (0, 0)
        if e.pagesFree + d.2 < d.1 then 0x15 else 0
      else 0

/-- The state changes of an order (R144, R146, R147, R631). A RESUME makes the record hot, as its state asks (R129). -/
def Eng.ordChange (e : Eng) (o : Order) (first : Nat) : Eng :=
  (e.ordTargets o.opcode first).foldl (fun e s =>
    match e.rc s with
    | none => e
    | some r =>
      let e := e.recUse s
      if o.opcode = 2 then e.setState s 1
      else if o.opcode = 3 then
        let e := ((e.setState s r.prior).touch s).recall s
        e.modInst r.inst (fun x => { x with quiet := false })
      else if o.opcode = 5 then ((e.modRc s (fun r => { r with prior := r.state, state := 7 })).mirror s).balance r.inst
      else if o.opcode = 4 then
        let e := if o.flags % 2 = 1 then e.modRc s (fun r => { r with deadlineLast := o.deadline }) else e
        let e := if o.flags / 2 % 2 = 1 then
            let z := resizeBy r o.maxNew
            let n := if r.admitStamp = 0 then r.pagesResv else r.pagesResv + z.1 - z.2
            let e := { e with led := { e.led with pagesReserved := e.led.pagesReserved + n - r.pagesResv } }
            e.modRc s (fun r => { r with maxNew := o.maxNew, pagesResv := n })
          else e
        e.mirror s
      else e) e

/-- A state in which a MODIFY at or below NEW_COUNT ends a sibling that no step contains (R144, R146). R146 ends any sibling without a step;
R144 lists the three states. They differ for a sibling that replays committed tokens after a takeover (QUEUED, ADMITTED or PREFILLING): the
model's choice is R144's list (DESIGN CHOICE, assumption log 74). -/
def modifyEnds (state : Nat) : Bool := decide (state = 5 ∨ state = 7 ∨ state = 8)

/-- What follows an order's ORDER record in its tick: the ends of a CANCEL or MODIFY; after an ADMIT the request is one that the Gate has not
evaluated, and the tick's end evaluates it (R106, R108, R146, R151). Its place in fetch order is then the ADMIT's (R168; assumption log 74). -/
def Eng.ordFollow (e : Eng) (o : Order) (first : Nat) (t : List Nat) : Eng :=
  if o.opcode = 6 then t.foldl (fun e s => e.endSib s 0x19) e
  else if o.opcode = 4 ∧ o.flags / 2 % 2 = 1 then
    t.foldl (fun e s => match e.rc s with
      | some r => if r.maxNew ≤ r.newCount ∧ modifyEnds r.state ∧ !e.inStep s then e.endSib s 9 else e
      | none => e) e
  else if o.opcode = 2 then e.queueFresh (if o.peer.isNone then o.seq else e.hat.orderSeq) first
  else e

/-- Answer an order: a completion record, or a frame to the peer that sent it (R118, R546). -/
def Eng.ordAnswer (e : Eng) (o : Order) (status : Nat) : Eng :=
  let e := e.trace { kind := 11, pid := rqPid o.rqid, pidV := true, status, sib := 0x3F, rqid := o.rqid, gen := o.gen,
                     arg := o.opcode + 2 ^ 8 * (match o.peer with
                       | none => o.ring
                       | some c => c + 2 ^ 8) }
  match o.peer with
  | none => e.report (ordRec status o.ring o.gen o.rqid o.tag e.now)
  | some c =>
    if status = 0x1A then e.send { typ := 0x29, dst := c, arg := o.seq }
    else e.send { typ := 0x2A, dst := c, arg := o.seq, len := 8, words := [status] }

/-- Every descriptor with a stamp up to `t`, on every enabled ring that is not blocked, has been fetched (R116). -/
def Eng.fetchedUpTo (e : Eng) (t : Nat) : Bool :=
  ringRange.all (fun r =>
    !(e.ringEn r && decide (e.ringKind r = 0) && !e.blocked (e.cqOf r) && decide ((e.ring r).fetched ≠ (e.ring r).tail))
      || decide (t < (e.ring r).nextStamp))

/-- Two orders contend (R116). -/
def Order.contends (a b : Order) : Bool := decide (a.rqid = b.rqid ∧ a.gen = b.gen ∧ a.stamp = b.stamp)

/-- The winner of a set of contending orders. -/
def winner (o : Order) (l : List Order) : Order :=
  match l with
  | [] => o
  | x :: r => winner (if x.beats o then x else o) r

/-- The records that a look at a request reads (R129): those of its siblings, or the one that stands in the slot that its RQID names. -/
def Eng.lookUp (e : Eng) (rqid gen : Nat) : Eng :=
  match e.named rqid gen with
  | some s => (e.sibs s).foldl Eng.recUse e
  | none => if (e.rc (rqSlot rqid)).isSome then e.recUse (rqSlot rqid) else e

/-- Resolve one set of contending orders (R117, R118): the winner is applied, every loser is answered. Where the RQID names no live request,
R119 gives each order ST_NO_REQUEST and R118 gives every loser ST_SUPERSEDED: the model's choice is that the losers of the contention are
still answered ST_SUPERSEDED (DESIGN CHOICE, assumption log 74). -/
def Eng.ordSet (e : Eng) (o : Order) : Eng :=
  let e := e.noteSeen.lookUp o.rqid o.gen
  let set := e.hat.orders.filter (fun x => x.contends o)
  let w := winner o set
  let e := { e with hat := { e.hat with orders := e.hat.orders.filter (fun x => !x.contends o) } }
  let lose := fun (e : Eng) => (set.filter (fun x => decide (x ≠ w))).foldl (fun e x => e.ordAnswer x 0x1A) e
  let st := e.ordStatus w
  match e.named w.rqid w.gen with
  | some s =>
    if st = 0 then
      let t := e.ordTargets w.opcode s
      (lose ((e.ordChange w s).ordAnswer w 0)).ordFollow w s t
    else lose (e.ordAnswer w st)
  | none => lose (e.ordAnswer w st)

/-! ### Loads -/

/-- Apply a fetched LOAD_MODEL (R99, R169 to R172, R442). The array checks the configurations against the owner's mask (R444). R24 gives the
decision whether the model fits to the Gate, and R634 lets a Gate whose EN is clear decide nothing, but no rule says where a load would wait:
the model decides it when it is fetched, whether or not the Gate is in service (DESIGN CHOICE, assumption log 57). -/
def Eng.loadApply (e : Eng) (r : Nat) (d : DescBits) (larder : Option LarderBits) (segs : List (BitVec 128)) (tilesOk : Bool) : Eng :=
  let o := loadOf d
  let p := e.ringPid r
  if !e.fb F.KPR_PART_CTL_EN p then e.answer r 0x38 o.userTag
  else if !loadOk d || (o.pinned && !bitOf o.placement e.self) then e.answer r 0x2B o.userTag
  else
    let e := if (e.loadEarly o p larder).isNone then e.tell (.checkConfigs o.mid (e.fv F.KPR_PART_TILES_GROUPS p)) else e
    match e.loadDecide o p larder segs tilesOk with
    | .done st n => e.complete (loadRec st r o.userTag e.now n 0)
    | .go marked chips =>
      match larderOf larder o.mid with
      | some b =>
        e.loadStart o b marked { active := true, lead := true, owner := p, mid := o.mid, chips, leadChip := e.self, leadInst := e.freeInst, ring := r }
      | none => e

/-- Apply a fetched UNLOAD_MODEL (R32, R99, R173, R442; assumption log 32). -/
def Eng.unloadApply (e : Eng) (r : Nat) (d : DescBits) : Eng :=
  let o := loadOf d
  if !e.fb F.KPR_PART_CTL_EN (e.ringPid r) then e.answer r 0x38 o.userTag
  else if !unloadOk d then e.answer r 0x2B o.userTag
  else if e.followsOnly o.mid then e.answer r 0x28 o.userTag
  else
    match e.activeInsts.find? (fun i => (e.inst i).lead && decide ((e.inst i).mid = o.mid)) with
    | none => e.answer r 0x12 o.userTag
    | some i =>
      let m := e.model o.mid
      if e.instIn i = false ∨ m.unload ≠ none then e.answer r 0x2A o.userTag
      else
        let e := e.setModel o.mid { m with unload := some (r, o.userTag) }
        if e.instRequests i then e else e.unloadDone i

/-- The lead `c` has released the residency of its instance `i`, which this engine follows (R173, R297): the model is PARKED here, and the
engine takes part no more; an engine outside the placement forgets it (R539). The spec names no frame that tells it; the UNLOAD_MODEL command does (assumption log 13). -/
def Eng.unloadPart (e : Eng) (c i : Nat) : Eng :=
  match e.activeInsts.find? (fun k => !(e.inst k).lead && decide ((e.inst k).leadChip = c ∧ (e.inst k).leadInst = i)) with
  | none => { e with raf := { e.raf with plans := e.raf.plansBut c i } }
  | some k => e.unloadDone k

/-- Apply a fetched NOP (R96, R99, R442). -/
def Eng.nopApply (e : Eng) (r : Nat) (d : DescBits) : Eng :=
  let tag := recField d 8 63 0
  if !e.fb F.KPR_PART_CTL_EN (e.ringPid r) then e.answer r 0x38 tag
  else if !nopOk d then e.answer r 0x2B tag
  else e.answer r 0 tag

/-- What is found of a descriptor at its fetch, whatever it waits for: GRAMMAR_ID of a SUBMIT (R386), and LED_CTL.EN (R114). -/
def Eng.fetchCheck (e : Eng) (c : Instr) : AtFetch :=
  { seq := e.hat.orderSeq
    gramOk := match c with
      | .submit d _ _ _ => e.grammarOk (subOf d)
      | _ => true
    ledOn := e.fb F.LED_CTL_EN }

/-- Apply a descriptor that names no existing request. -/
def Eng.descApply (e : Eng) (r stamp : Nat) (at_ : AtFetch) (c : Instr) : Eng :=
  match c with
  | .submit d l p b => e.subApply r stamp at_ d l p b
  | .loadModel d l s (.lead t) => e.loadApply r d l s t
  | .loadModel _ _ _ (.part _) => e
  | .unloadModel (.fetched d) => e.unloadApply r d
  | .unloadModel (.byLead _ _) => e
  | .nop d => e.nopApply r d
  | _ => e

/-! ### Resolution (R91, R116) -/

/-- An order of ring `r` is not yet applied. -/
def Eng.ordWaits (e : Eng) (r : Nat) : Bool := e.hat.orders.any (fun o => o.peer.isNone && decide (o.ring = r))

/-- A descriptor held must stay so: an order or a descriptor that precedes it in its ring is not yet applied (R91). -/
def Eng.mustStay (e : Eng) (x : Behind) : Bool :=
  e.hat.orders.any (fun o => o.peer.isNone && decide (o.ring = x.ring ∧ o.seq < x.found.seq)) || e.hat.behind.any (fun y => decide (y.ring = x.ring))

/-- Apply the descriptors held behind orders, as far as what precedes them in their rings has been applied (R91). -/
def applyBehind (e : Eng) (l : List Behind) : Eng :=
  match l with
  | [] => e
  | x :: t =>
    let e := if e.mustStay x then { e with hat := { e.hat with behind := e.hat.behind ++ [x] } }
      else e.descApply x.ring x.stamp x.found x.cmd
    applyBehind e t

/-- An order may be resolved: the tick of its stamp is over, so that every order of that stamp has come, every descriptor of a stamp up to
it has been fetched (R116), and no descriptor held behind another order precedes it in its ring (R91). -/
def Eng.ordReady (e : Eng) (o : Order) : Bool :=
  decide (o.stamp < e.now) && e.fetchedUpTo o.stamp
    && !(o.peer.isNone && e.hat.behind.any (fun x => decide (x.ring = o.ring ∧ x.found.seq < o.seq)))

/-- The winner of the set that an order contends in. -/
def Eng.setWinner (e : Eng) (o : Order) : Order := winner o (e.hat.orders.filter (fun x => x.contends o))

/-- What precedes the winner of an order's set in its ring, is selected by `bars`, and does not contend with it, has been applied (R91). -/
def Eng.setFree (e : Eng) (bars : Order → Bool) (o : Order) : Bool :=
  let w := e.setWinner o
  w.peer.isSome
    || (!e.hat.behind.any (fun x => decide (x.ring = w.ring ∧ x.found.seq < w.seq))
      && !e.hat.orders.any (fun x => x.peer.isNone && decide (x.ring = w.ring ∧ x.seq < w.seq) && !x.contends w && bars x))

/-- The set of contending orders to be resolved next: of the oldest stamp, in order of arrival, one whose winner is preceded by nothing (R91).
Where there is none, one whose winner is preceded by losers of other sets alone, which are not applied; where there is none either, every
winner of the stamp waits for another one's set, the contention rules decide within the stamp, and the first set goes. -/
def Eng.nextSet (e : Eng) : Option Order :=
  let l := e.hat.orders.filter e.ordReady
  match leastBy (fun (o : Order) => o.stamp) l with
  | none => none
  | some first =>
    let l := l.filter (fun o => decide (o.stamp = first.stamp))
    (l.find? (e.setFree (fun _ => true))).or ((l.find? (e.setFree (fun x => decide (e.setWinner x = x)))).or (some first))

/-- Resolve every set of contending orders that is ready, in order of stamp and arrival, and what waited behind them. -/
def resolveLoop (e : Eng) (fuel : Nat) : Eng :=
  match fuel with
  | 0 => e
  | k + 1 =>
    match e.nextSet with
    | none => e
    | some o =>
      let e := e.ordSet o
      let l := e.hat.behind
      resolveLoop (applyBehind { e with hat := { e.hat with behind := [] } } l) k

/-- Resolve what can be resolved now. -/
def Eng.resolve (e : Eng) : Eng := resolveLoop e e.hat.orders.length

/-- The step of a fetched descriptor of opcode `op`: `f` applies it. A descriptor with another listed opcode is not this
command's; one with an unlisted opcode completes with ST_BAD_OPCODE (R96), or with ST_PARTITION_OFF on a ring of a partition out of service
(R442). -/
def Eng.fetched (e : Eng) (op : Nat) (d : DescBits) (f : Eng → Nat → Nat → Eng) : Eng :=
  let x := recField d 0 7 0
  if x ≠ op ∧ opcodeKnown x then e
  else
    match e.fetch with
    | none => e
    | some (r, stamp, e) =>
      let e := if x = 1 then e.count 0x100A 1 (some (e.ringPid r)) else e
      (if x ≠ op then e.answer r (if e.fb F.KPR_PART_CTL_EN (e.ringPid r) then 0x2C else 0x38) (recField d 8 63 0) else f e r stamp).resolve

/-- A fetched descriptor that names no existing request: it waits behind an order of its ring that is not yet applied (R91). -/
def Eng.descFetched (e : Eng) (op : Nat) (d : DescBits) (c : Instr) : Eng :=
  e.fetched op d (fun e r stamp =>
    let found := e.fetchCheck c
    if e.ordWaits r then
      let x : Behind := { ring := r, stamp, found, cmd := c }
      { e with hat := { e.hat with behind := e.hat.behind ++ [x], orderSeq := e.hat.orderSeq + 1 } }
    else e.descApply r stamp found c)

/-- A fetched order (R81, R99, R100, R116, R442). -/
def Eng.ordFetched (e : Eng) (op : Nat) (d : DescBits) : Eng :=
  e.fetched op d (fun e r stamp =>
    let o := ordOf d
    let p := e.ringPid r
    let ans := fun (st : Nat) => e.complete (ordRec st r o.gen o.rqid o.userTag e.now)
    if !e.fb F.KPR_PART_CTL_EN p then ans 0x38
    else if rqPid o.rqid ≠ p then ans 0x2D
    else if !ordOk d then ans 0x2B
    else
      let x : Order := {
        opcode := op, rqid := o.rqid, gen := o.gen, stamp, ring := r, seq := e.hat.orderSeq, tag := o.userTag,
        flags := b2n o.setDeadline + 2 * b2n o.setMaxNew, deadline := o.deadlineLast, maxNew := o.maxNew }
      { e with hat := { e.hat with orders := e.hat.orders ++ [x], orderSeq := e.hat.orderSeq + 1 } })

end Sys2Proof.Machine
end

