-- ==== Sys2Proof/Machine/Adopt.lean ====
section
/-!
DEFINITION. Requests that reach the Ledger otherwise than by SUBMIT: from a context image (spec/14_preemption_and_context.md R481 to
R487) and from a lost lead's shadow (spec/18_errors_and_redundancy.md R597, R598).
-/
namespace Sys2Proof.Machine

/-- A request to adopt: its parameter block, prompt, bias list, and each sibling's record, generated tokens and stack line. -/
structure Adopted where
  param : DescBits
  prompt : List Nat
  bias : List Nat
  sibs : List (LRec × List Nat × List Nat)

/-- History pages that a request's prompt, bias list and generated tokens take. -/
def Adopted.pages (a : Adopted) : Nat :=
  tokenPages a.prompt.length + cdiv (a.bias.length * 8) 4080 + sumBy (fun x => tokenPages x.2.1.length) a.sibs

/-- Put one adopted sibling's record in its slot, with its history pages and as many symbols of its stack line as DEPTH says (R373). What
a PAUSED sibling returns to is not in a record of STATE SWAPPED: it is judged from its tokens and its POS (assumption log 61). -/
def Eng.adoptSib (e : Eng) (slot next : Nat) (kind : Bool) (r : LRec) (toks stack : List Nat) (pp bp : List Nat) : Eng :=
  let g := takePages e (tokenPages toks.length)
  let e := g.2
  let hist := match g.1 with
    | x :: _ => e.pageAddr x
    | [] => 0
  let r : LRec := { r with
    kind, nextSib := next, draft := 0, draftV := false, dsetLast := false, draftN := 0, copyN := 0, posted := 0, crateRoot := 0,
    rootV := false, pages := g.1, hist, promptPages := if kind then [] else pp, biasPages := if kind then [] else bp,
    qnext := 0xFFFFFF, priorPaused := if 0 < r.newCount then 5 else if 0 < r.pos then 4 else 3 }
  let e := (e.setRc slot r).touch slot
  let stack := stack.take (bitsOf r.sieve 27 20)
  let e := if toks.isEmpty then e else { e with led := { e.led with gent := tput e.led.gent slot toks } }
  { e with siv := { e.siv with pdaStacks := tsetD e.siv.pdaStacks slot stack [] } }

/-- Allocate slots and pages for a request and put its records in them under a new RQID and GEN (R16, R486, R597). `f` changes
each record as its source requires. Answers the slots. -/
def Eng.adopt (e : Eng) (p ring : Nat) (a : Adopted) (f : LRec → LRec) : Option (List Nat × Eng) :=
  match takeSlots e a.sibs.length with
  | none => none
  | some ([], _) => none
  | some ((s0, g0) :: rest, e) =>
    let slots := s0 :: rest.map (fun x => x.1)
    let o := subOf a.param
    let rqid := p * 2 ^ 26 + s0
    let pp := takePages e (tokenPages a.prompt.length)
    let bp := takePages pp.2 (cdiv (a.bias.length * 8) 4080)
    let e := bp.2
    let addr := fun (l : List Nat) => match l with
      | x :: _ => e.pageAddr x
      | [] => 0
    let e := { e with led := { e.led with
      params := tput e.led.params s0 (paramBlock a.param (addr pp.1) (addr bp.1))
      prompts := tput e.led.prompts s0 a.prompt
      bias := if a.bias.isEmpty then e.led.bias else tput e.led.bias s0 a.bias } }
    let e := ((List.range slots.length).zip (slots.zip a.sibs)).foldl (fun e x =>
      let r := f { x.2.2.1 with rqid, gen := g0, ring }
      e.adoptSib x.2.1 (slots.getD (x.1 + 1) 0xFFFFFF) (decide (x.1 ≠ 0)) r x.2.2.2.1 x.2.2.2.2 pp.1 bp.1) e
    let e := e.addLive p slots.length
    let e := if o.grammarEn then e.setGram o.grammarId { e.gram o.grammarId with live := (e.gram o.grammarId).live + slots.length } else e
    some (slots, e)

/-! ### EXPORT images -/

/-- A request of an image. -/
def reqAdopted (q : ImageReq) : Adopted :=
  { param := q.param, prompt := q.prompt, bias := q.bias
    sibs := q.sibs.map (fun s => (sibRec s, s.tokens, sibStack s)) }

/-- Charge the requests of an image to the partition's budgets, if every one passes the checks of R156 to R160; `used` slots are those of the
image's earlier requests. -/
def Eng.budgetReqs (e : Eng) (p : Nat) (l : List ImageReq) (used : Nat := 0) : Option Eng :=
  match l with
  | [] => some e
  | q :: r =>
    let o := subOf q.param
    let x : LRec := { state := 1, rqid := p * 2 ^ 26, gen := 1, nsib := o.nsib, promptLen := o.promptLen, maxNew := o.maxNew }
    let lm := e.av F.GAT_PART_LIVE_MAX_MAX p
    if (e.checkBudget x p).isSome ∨ (lm ≠ 0 ∧ lm < e.liveOf p + used + q.sibs.length) then none
    else
      let c := ctxCharge o.promptLen o.nsib o.maxNew
      ({ e with gat := { e.gat with
          ctxUse := tsetD e.gat.ctxUse p (e.ctxOf p + c) 0
          bucket := if e.av F.GAT_PART_RATE_RATE p = 0 then e.gat.bucket else tsetD e.gat.bucket p (tgetD e.gat.bucket p 0 - c) 0 } }).budgetReqs p r (used + q.sibs.length)

/-- The shape that an image gives differs from the partition's on the instance's chips (R484). -/
def Eng.shapeDiffers (e : Eng) (i : Nat) (m : Image) (others : List DWord) : Bool :=
  decide (imgHdr m 0xB 6 0 ≠ (e.inst i).chips.length) || shapesDiffer (m.shape.map (fun w => w.toNat)) (e.shapeWords i others)

/-- Groups of an image, later appearances apart. -/
def imgGroups (m : Image) : Nat := (m.groups.filter (fun g => decide (bitsOf g.entry.toNat 223 192 = 0xFFFFFFFF))).length

/-- What the checks of R484 say of an image for an instance: 0 when every one passes. R472 lets a restore start from SAVED alone, so an
instance whose context is in another state gives ST_BAD_STATE (assumption log 28). -/
def Eng.imageCheck (e : Eng) (i ring : Nat) (logical : Bool) (m : Image) (others : List DWord) : Nat :=
  let x := e.inst i
  let p := e.ringPid ring
  let need := sumBy (fun (q : ImageReq) => (reqAdopted q).pages) m.reqs
  if !imgValid m then 0x2B
  else if !(x.active && x.lead && decide (x.mid = imgHdr m 8 11 0) && e.instIn i) then 0x12
  else if (e.ctx i).state ≠ 2 then 0x2A
  else if p ≠ imgHdr m 7 5 0 then 0x2D
  else if recBit m.hdr 6 0 && !logical && e.shapeDiffers i m others then 0x22
  else if (e.budgetReqs p m.reqs).isNone then 0x10
  else if e.slotsFree < sumBy (fun (q : ImageReq) => q.sibs.length) m.reqs ∨ e.pagesFree < need then 0x15
  else if e.quota i < e.resUse i + imgGroups m then 0x13
  else 0

/-- The slots of an image's requests as restored: for each request its old RQID and its siblings' indexes and slots. -/
abbrev Placed := List (Nat × List (Nat × Nat))

/-- Restore the requests of an image (R486 items 1 to 3): siblings that have not ended are in SWAPPED. -/
def Eng.placeReqs (e : Eng) (i p ring : Nat) (l : List ImageReq) (acc : Placed) : Placed × Eng :=
  match l with
  | [] => (acc, e)
  | q :: r =>
    let o := subOf q.param
    let a := reqAdopted q
    let old := match a.sibs with
      | x :: _ => x.1.rqid
      | [] => 0
    let f := fun (x : LRec) => { x with
      inst := i, state := if x.live then 8 else x.state, shared := decide (x.prior ≤ 4)
      pagesResv := if x.live then tokenPages o.maxNew - tokenPages x.newCount else 0
      ctxCharge := if x.sib = 0 then ctxCharge o.promptLen o.nsib o.maxNew else 0 }
    match e.adopt p ring a f with
    | none => e.placeReqs i p ring r acc
    | some (slots, e) =>
      let resv := sumBy (fun s => match e.rc s with
        | some x => x.pagesResv
        | none => 0) slots
      let e := { e with led := { e.led with pagesReserved := e.led.pagesReserved + resv } }
      let e := slots.foldl (fun e s =>
        match e.rc s with
        | some x =>
          if s ≠ slots.headD 0 ∧ x.shared then e
          else
            let e := e.setMap s {}
            match e.takeNode s with
            | some (n, e) => (e.modMap s (fun m => { m with root := some n })).modRc s (fun x => { x with crateRoot := n, rootV := true })
            | none => e
        | none => e) e
      let e := slots.foldl (fun e s => e.mirror s (decide (s = slots.headD 0)) (tgetD e.led.gent s []).length) e
      e.placeReqs i p ring r (acc ++ [(old, slots.filterMap (fun s => (e.rc s).map (fun x => (x.sib, s))))])

/-- Restore one group entry (R482, R486 item 4): a new group in Cellar, or the one that SAME or an equal KEY names, held by the
siblings that HOLDERS lists. An entry whose layer group is none of this chip's is another chip's (assumption log 73). -/
def Eng.placeGroup (e : Eng) (i : Nat) (pl : Placed) (t : List Nat) (g : ImageGroup) : List Nat × Eng :=
  let v := g.entry.toNat
  let key := bitsOf v 63 0
  let block := bitsOf v 87 70
  let same := bitsOf v 223 192
  let sibs := (pl.getD (bitsOf v 127 96) (0, [])).2
  let hs := sibs.filter (fun x => bitOf (bitsOf v 191 128) x.1)
  let rank := ((e.lgRanks i).find? (fun p => decide (p.1 = bitsOf v 69 64))).map (fun p => p.2)
  match rank, hs with
  | none, _ => (t ++ [0], e)
  | _, [] => (t ++ [0], e)
  | some k, h :: _ =>
    let fmt := bitsOf v 91 88
    let m := e.instModel i
    let addr := g.crates.headD 0 - k * frameSize (crateElems m.crateBytes m.kvFmt) fmt
    let known : Option Nat :=
      if same ≠ 0xFFFFFFFF then t[same]?
      else (e.shv.groups.find? (fun p => decide (p.2.inst = i ∧ p.2.key = key ∧ p.2.block = block) && t.contains p.1)).map (fun p => p.1)
    let r : Nat × Eng := match known with
      | some b => (b, e)
      | none =>
        let n := e.newGroup i 0 key block h.2 false
        (n.1, n.2.modGrp n.1 (fun x => { x with tier := 2, fmt, addr, full := bitOf v 93, ref := 0 }))
    let e := hs.foldl (fun e x =>
      if e.blockGrp x.2 block = some r.1 then e
      else match e.mapPut x.2 (e.firstOf x.2) block r.1 with
        | some e => e.modGrp r.1 (fun y => { y with ref := y.ref + 1 })
        | none => e) r.2
    (t ++ [r.1], e)

/-- Enter the shared FULL groups of the restored requests in the prefix table where R275 permits (R486 item 4). -/
def Eng.placeShared (e : Eng) (pl : Placed) (groups : List (Nat × ImageGroup)) : Eng :=
  let hit := groups.filter (fun g => bitOf g.2.entry.toNat 92 && bitOf g.2.entry.toNat 93 && decide (bitsOf g.2.entry.toNat 223 192 = 0xFFFFFFFF))
  let hit := osort (fun a b => decide (bitsOf a.2.entry.toNat 87 70 ≤ bitsOf b.2.entry.toNat 87 70)) hit
  hit.foldl (fun e g =>
    let b := bitsOf g.2.entry.toNat 87 70
    match ((pl.getD (bitsOf g.2.entry.toNat 127 96) (0, [])).2).head? with
    | none => e
    | some h =>
      match e.rc h.2 with
      | none => e
      | some r =>
        let toks := tgetD e.led.prompts (rqSlot r.rqid) []
        let dom := e.domain (rqPid r.rqid)
        let hs := hashRun r.mid dom 0 toks (b + 1)
        let parent : Option Nat := if b = 0 then some 0x1FFFFFF else (e.blockGrp h.2 (b - 1)).bind (fun x => e.pfxOf x)
        match parent, hs[b]? with
        | some p, some w =>
          if e.av F.SHV_PART_SHARE_SHARE_EN (rqPid r.rqid) = 1 ∧ 64 * (b + 1) ≤ r.promptLen then
            e.insertBlock h.2 b r.mid dom w p ((toks.drop (64 * b)).take 64) (some (64 * b + 64))
          else e
        | _, _ => e) e

/-- A slot of an image's frozen step as restored: void when its request was not. -/
def Eng.placeSlot (e : Eng) (pl : Placed) (w : BitVec 256 × Bool) : Slot :=
  let x := slotOf w.1.toNat
  let hit := (pl.find? (fun q => decide (q.1 = x.rqid))).bind (fun q => (q.2.find? (fun s => decide (s.1 = x.sib))).map (fun s => s.2))
  match hit with
  | none => { kind := 0, bound := true, done := true }
  | some s =>
    match e.rc s with
    | none => { kind := 0, bound := true, done := true }
    | some r =>
      let ents := ((List.range (x.ntok / 64 + 2)).map (fun k => x.pos / 64 + k)).flatMap (fun b => match e.blockGrp s b with
        | some g => e.entsOf g b 0
        | none => [])
      { x with
        rqid := r.rqid, gen := r.gen, lslot := s, draft := 0, copy := false, drawStep := if x.kind = 2 ∧ !x.last then 0 else r.newCount,
        drawSlot := r.drawSlot, tok := x.ntok, root := r.crateRoot, rootV := r.rootV, ents, ncrate := ents.length
        src := if x.kind = 2 then e.promptWord (rqSlot r.rqid) x.pos else x.src
        done := w.2 && x.rowed, lost := false }

/-- The slots of an image's step as restored. -/
def Eng.placeSlots (e : Eng) (pl : Placed) (t : ImageStep) : List Slot :=
  ((List.range t.slots.length).zip t.slots).map (fun w => e.placeSlot pl (w.2, t.committed.getD w.1 false))

/-- A field of the packet header of an image's step (R209). -/
def stepHdr (t : ImageStep) (off hi lo : Nat) : Nat := recField t.hdr off hi lo

/-- The frozen step of an image is outstanding on the instance again (R486 item 4). On an instance that has a frozen step of its own, one step
being outstanding at most (R26), the image's slots that have not committed are re-issued as lost ones are (R485; assumption log 28). -/
def Eng.placeStep (e : Eng) (i : Nat) (t : ImageStep) (pl : Placed) : Eng :=
  let num := stepHdr t 8 47 0
  let l := e.placeSlots pl t
  if (e.inst i).step.isSome then
    let lost := (((List.range l.length).zip l).filter (fun p => decide (p.2.kind ≠ 0) && !p.2.done)).map
      (fun p => { p.2 with lost := true, lostStep := num, lostIdx := p.1 })
    e.modInst i (fun x => { x with carried := x.carried ++ lost })
  else
    let epoch := stepHdr t 1 3 0
    let st : Step :=
      { num, edge := e.now, emit := e.now, est := stepHdr t 0x20 31 0, epoch, cfg := stepHdr t 2 15 12, slots := l, started := true,
        triggered := true, uid := e.cmp.nextUid }
    let e := e.takeUid.modInst i (fun x => { x with step := some st, stepNo := max x.stepNo num })
    let e := sendControl e i num epoch (((List.range l.length).zip l).filter (fun p => !p.2.done))
    e.stepCheck i

/-- The waiting composition of an image waits on the instance again, with its pending CFG and epoch (R478), unless the instance has one of
its own: its slots are then composed anew. -/
def Eng.placeWait (e : Eng) (i : Nat) (imgEpoch : Nat) (t : ImageStep) (pl : Placed) : Eng :=
  if (e.inst i).comp.isSome then e
  else
    let epoch := stepHdr t 1 3 0
    let cfg := stepHdr t 2 15 12
    let l := (e.placeSlots pl t).map (fun (s : Slot) => { s with done := false })
    let num := (e.inst i).stepNo + 1
    let c : Comp := { num, start := e.now, waiting := true, slots := l, est := stepHdr t 0x20 31 0, cfg, uid := e.cmp.nextUid }
    e.takeUid.modInst i (fun x => { x with
      comp := some c, changing := decide (epoch ≠ imgEpoch), nextEpoch := if epoch ≠ imgEpoch then epoch else x.nextEpoch
      newCfg := if epoch ≠ imgEpoch then cfg else x.newCfg })

/-- The sibling entries of an image with the RQID and GEN that the restore issued (R481, R486 item 2). -/
def Eng.relocated (e : Eng) (pl : Placed) (m : Image) : List (BitVec 2048) :=
  (m.reqs.zip pl).flatMap (fun q => (q.1.sibs.zip q.2.2).map (fun s =>
    match e.rc s.2.2 with
    | some r => relocate s.1.entry r.rqid r.gen
    | none => s.1.entry))

/-- Restore an EXPORT image into an instance (R486, R487): the context is RESTORING until the image's CFG is loaded, and its Bins entries
then go back to the heads of their levels (R438). A context with a frozen step of its own keeps its own array state, and LOGICAL_ONLY then, or
with a drain image, ignores none (R485; assumption log 28). -/
def Eng.restoreImage (e : Eng) (i ring : Nat) (logical : Bool) (addr : Nat) (m : Image) : Eng :=
  let p := e.ringPid ring
  let own := (e.ctx i).frozen
  let e := (e.budgetReqs p m.reqs).getD e
  let r := e.placeReqs i p ring m.reqs []
  let e := r.2.emit (.imageReloc addr (r.2.relocated r.1 m))
  let g := m.groups.foldl (fun (acc : List Nat × Eng) x => acc.2.placeGroup i r.1 acc.1 x) (([] : List Nat), e)
  let e := g.2.placeShared r.1 (g.1.zip m.groups)
  let e := (r.1.flatMap (fun q => q.2.map (fun s => s.2))).foldl (fun e s => e.recall s) e
  let e := match m.step with
    | some t => e.placeStep i t r.1
    | none => e
  let e := match m.waiting with
    | some t => e.placeWait i (imgHdr m 0xA 3 0) t r.1
    | none => e
  let e := e.modCtx i (fun c => { c with
    frozen := own || recBit m.hdr 6 0, imgEpoch := imgHdr m 0xA 3 0, imgCfg := imgHdr m 8 15 12,
    held := false, gone := false, imgBytes := 256 + sumBy (fun (l : List Nat) => l.length) (imgSections m)
    imgBins := c.imgBins ++ m.bins.map binEntOf })
  e.restoreStart i (logical && recBit m.hdr 6 0 && !own) (some addr)

end Sys2Proof.Machine
end

