-- ==== Sys2Proof/Machine/Context.lean ====
section
/-!
DEFINITION. The meanings of the commands of saves, restores, semaphores and donations (spec/14_preemption_and_context.md).
-/
namespace Sys2Proof.Machine

/-! ### The driver's command (KPR_CTX_CMD) -/

/-- INST of a command word. -/
def ctxInst (w : Word) : Nat := bitsOf w.toNat 11 8

/-- The command word is put in its register; GO reads 0. -/
def Eng.ctxCmdWrite (e : Eng) (w : Word) : Eng := e.putReg 0xC100 0 (w &&& 0x00FF0F7F)

/-- A command word starts operation `op`: GO is set and no command is in progress. -/
def Eng.ctxGo (e : Eng) (w : Word) (op : Nat) : Bool := bitOf w.toNat 31 && e.kpr.cmd.isNone && decide (bitsOf w.toNat 2 0 = op)

/-- The image address of a command: KPR_CTX_ADDR, with 2^64 added for Cellar. -/
def Eng.ctxAddr (e : Eng) (w : Word) : Nat := e.pairv 0xC104 / 4096 * 4096 + 2 ^ 64 * b2n (bitOf w.toNat 6)

/-- The driver's SAVE (R479, R501). One that meets a save in progress joins it; one that meets a restore waits for RESIDENT. -/
def Eng.driverSave (e : Eng) (w : Word) : Eng :=
  let i := ctxInst w
  let c := e.ctx i
  let x := e.inst i
  let busy := { e with kpr := { e.kpr with cmd := some i } }
  let dest := if bitOf w.toNat 4 then some (e.ctxAddr w) else none
  if !(x.active && x.lead && e.instIn i) then e.cmdDone 0x2A
  else if c.state = 1 then busy.modCtx i (fun c => { c with holdAfter := true })
  else if c.state = 3 then busy.modCtx i (fun c => { c with saveAfter := some w.toNat })
  else if c.state = 2 then e.cmdDone 0x2A
  else if bitOf w.toNat 3 then
    let e := busy.wantFreeze i
    let frz := decide ((e.ctx i).want = 2) || dest.isSome
    let f := e.fresh
    let e := if dest.isSome then f.2.modCtx i (fun c => { c with imgBytes := e.arrayBytes i + f.1.toNat % two32 }) else e
    e.saveStart i frz dest false
  else busy.saveStart i false dest false

/-- SAVE_DRAIN: a drain save is started (R473): by the driver, or by Keeper once the step outstanding has resolved (R451, R493). -/
def execSaveDrain (cmd : Option Word) (inst : Nat) (s : State) : Host.Outcome State Fault Refusal :=
  live s (fun e =>
    match cmd with
    | some w =>
      let go := e.ctxGo w 1 && !bitOf w.toNat 3 && decide (ctxInst w = inst)
      if go then (e.ctxCmdWrite w).driverSave w else e
    | none =>
      let c := e.ctx inst
      if e.kprOn && e.ctxResident inst && decide (c.want = 1) && (e.inst inst).step.isNone then e.saveStart inst false none true else e)

/-- SAVE_FREEZE: a freeze save is started (R476). -/
def execSaveFreeze (cmd : Option Word) (inst : Nat) (s : State) : Host.Outcome State Fault Refusal :=
  live s (fun e =>
    match cmd with
    | some w =>
      let go := e.ctxGo w 1 && bitOf w.toNat 3 && decide (ctxInst w = inst)
      if go then (e.ctxCmdWrite w).driverSave w else e
    | none =>
      if e.kprOn && e.ctxResident inst && decide ((e.ctx inst).want = 2) then e.saveStart inst true none true else e)

/-- FREEZE_HALT: the array halts the instance at the halt Tally, or on receipt of a later frame (R476, R477, R438). -/
def atFreezeHalt (inst : Nat) (s : State) : Host.Outcome State Fault Refusal :=
  live s (fun e =>
    let c := e.ctx inst
    match c.haltAt with
    | some h =>
      if c.state ≠ 1 ∨ c.halted = true then e
      else
        let e := e.advance h
        let b := e.binFreeze inst
        let e := b.2.modCtx inst (fun c => { c with halted := true, haltAt := some e.now, imgBins := b.1 })
        let e := (b.1.map (fun x => x.epoch)).eraseDups.foldl (fun e ep => e.binReport inst ep) e
        let e := e.modInst inst (fun x => { x with step := x.step.map (fun st => { st with arrayDone := false, timer := none }) })
        if c.exported.isSome && c.copies.isNone then e.exportCopies inst else e
    | none => e)

/-- A slot of the frozen step whose rows have all arrived has still to commit (R476 item 4). -/
def Eng.rowsToCommit (e : Eng) (i : Nat) : Bool :=
  match (e.inst i).step with
  | none => false
  | some st => ((List.range st.slots.length).zip st.slots).any (fun p =>
      p.2.rowed && !p.2.done && (match e.smpSlot (i * 16384 + p.1) with
        | some k => decide (k.rows.length = p.2.rows)
        | none => false))

/-- What remains of a save once its instance has come to rest (R286, R473, R476, R489), and the time that the image takes. An EXPORT waits for
its copies in Cellar (R479). -/
def Eng.saveFinish (e : Eng) (i : Nat) (others : List DWord) : Eng :=
  let c := e.ctx i
  let e := e.withdrawMoves i
  if e.movesOpen i || (c.freeze && decide (e.saveRate = 0)) then e
  else if c.exported.isSome && c.copies.isNone then e.exportCopies i
  else if e.copiesOpen i then e
  else
    let e := e.returnCredits i
    let e :=
      if c.freeze then e.advance (c.haltAt.getD e.now + 15000 + cdiv (e.arrayBytes i) e.saveRate + 2000)
      else if c.exported.isNone then e.advance (e.now + 2000) else e
    e.saveEnd i others

/-- SAVE_COMPLETE: the image of a context is complete on every chip (R472); the other chips have reported their shapes. -/
def atSaveComplete (saved : Saved) (s : State) : Host.Outcome State Fault Refusal :=
  live s (fun e =>
    let inst := saved.inst
    let c := e.ctx inst
    if c.state ≠ 1 then e
    else if c.freeze then 
      (if c.halted && decide (e.stw.run ≠ some inst) && !e.rowsToCommit inst then e.saveFinish inst saved.shapes else e)
    else if e.drained inst then e.saveFinish inst saved.shapes else e)

/-- What the checks of R484 say of a LOCAL restore: 0 when every one passes. -/
def Eng.localCheck (e : Eng) (i ring : Nat) (logical : Bool) (others : List DWord) : Nat :=
  let c := e.ctx i
  let x := e.inst i
  if c.gone then 0x2B
  else if !(x.active && decide (c.state = 2)) then 0x2A
  else if e.ringPid ring ≠ x.owner then 0x2D
  else if c.frozen && !logical && shapesDiffer c.imgShape (e.shapeWords i others) then 0x22
  else 0

/-- A restore command ends with a refusal. -/
def Eng.restoreRefused (e : Eng) (i dest status : Nat) : Eng := (e.cmdDone status).ctxTrace i 2 0 dest status false

/-- The driver's RESTORE (R484, R501). A held context whose region another one occupies is the next choice at that one's slice
end. -/
def Eng.driverRestore (e : Eng) (w : Word) (image : Option Image) (others : List DWord) : Eng :=
  let i := ctxInst w
  let ring := bitsOf w.toNat 23 16
  let logical := bitOf w.toNat 5
  let busy := { e with kpr := { e.kpr with cmd := some i } }
  if bitOf w.toNat 4 then
    match image with
    | none => e.restoreRefused i 1 0x2B
    | some m =>
      let st := e.imageCheck i ring logical m others
      if st ≠ 0 then e.restoreRefused i 1 st else busy.restoreImage i ring logical (e.ctxAddr w) m
  else
    let st := e.localCheck i ring logical others
    if st ≠ 0 then e.restoreRefused i 0 st
    else if !e.regionFree i then (e.modCtx i (fun c => { c with held := false, next := true, logicalOnly := logical })).cmdDone 0
    else busy.restoreStart i logical none

/-- RESTORE: the driver's command, or Keeper's restore of a context that it wants once its region is free (R451, R493, R500). -/
def execRestore (cmd : Option Word) (inst : Nat) (source : RestoreSource) (s : State) : Host.Outcome State Fault Refusal :=
  live s (fun e =>
    match cmd with
    | some w => if e.ctxGo w 2 && decide (ctxInst w = inst) then (e.ctxCmdWrite w).driverRestore w source.image source.shapes else e
    | none =>
      let c := e.ctx inst
      if e.kprOn && decide (c.state = 2 ∧ c.want = 3) && !c.gone && e.regionFree inst && !e.backWaits inst then e.restoreStart inst (c.next && c.logicalOnly) none else e)

/-- RESTORE_COMPLETE: 2,000 t after the later of the load and the array's read (R472, R483). A SAVE that waited starts (R501). -/
def atRestoreComplete (inst : Nat) (s : State) : Host.Outcome State Fault Refusal :=
  live s (fun e =>
    let c := e.ctx inst
    if !(decide (c.state = 3) && c.cfgIn) then e
    else
      let e := (e.advance (c.readyAt + 2000)).restoreEnd inst
      match c.saveAfter with
      | some w => ({ e with kpr := { e.kpr with cmd := none } }.modCtx inst (fun c => { c with saveAfter := none })).driverSave (BitVec.ofNat 32 w)
      | none => e)

/-- DISCARD: an image and its Cellar copy are freed (R479, R488): one at KPR_CTX_ADDR, or the image of a LOCAL context. -/
def execDiscard (data : Word) (image : Option Image) (s : State) : Host.Outcome State Fault Refusal :=
  live s (fun e =>
    if !e.ctxGo data 3 then e
    else
      let a := e.ctxAddr data
      let e := e.ctxCmdWrite data
      if bitOf data.toNat 4 then
        match image with
        | some m => if imgValid m then
            ({ e with kpr := { e.kpr with exports := e.kpr.exports.filter (fun y => decide (y.1 ≠ a)) } }).cmdDone 0
          else e.cmdDone 0x2B
        | none => e.cmdDone 0x2B
      else if (e.ctx (ctxInst data)).state = 2 then ((e.imageDrop (ctxInst data)).cmdDone 0) else e.cmdDone 0x2A)

/-! ### Semaphores (R491 to R497) -/

/-- Bits of KPR_SEM_PART of a semaphore. -/
def Eng.semMask (e : Eng) (k : Nat) : Nat := e.av F.KPR_SEM_PART_LO_PART k + two32 * e.av F.KPR_SEM_PART_HI_PART k

/-- ACQUIRE: granted, refused, or waiting; a wait for a semaphore that is HELD_BY_SWAPPED starts a donation (R491, R493, R495). With
the engine in reset or unpowered the array is answered so (R574). -/
def execAcquire (sem inst : Nat) (s : State) : Host.Outcome State Fault Refusal :=
  liveOr s (fun e => e.tell .engineAbsent) (fun e =>
    if !(e.inst inst).active || decide (64 ≤ sem) || e.unitHalted 12 then e
    else if !bitOf (e.semMask sem) (e.inst inst).owner then (e.bump F.KPR_SEM_DENIED_COUNT).tell (.semRefused sem inst)
    else
      let x := e.sem sem
      match x.holder with
      | none => (e.setSem sem { x with holder := some inst, swapped := decide ((e.ctx inst).state = 2) }).tell (.semGranted sem inst)
      | some _ =>
        if x.waiters.any (fun w => decide (w.1 = inst)) then e
        else (((e.setSem sem { x with waiters := x.waiters ++ [(inst, e.now)] }).semWatch sem).donate sem))

/-- RELEASE: the holding context alone releases a semaphore, which passes to the next waiter. In a donation the holder composes
nothing further and is to be saved by drain (R491, R493). -/
def execRelease (sem inst : Nat) (s : State) : Host.Outcome State Fault Refusal :=
  liveOr s (fun e => e.tell .engineAbsent) (fun e =>
    if (e.sem sem).holder ≠ some inst ∨ e.unitHalted 12 = true then e
    else
      let e := e.semNext sem
      let hit := fun (d : Donation) => decide (d.sem = sem ∧ d.holder = inst) && d.start.isSome && !d.closing
      let e := if e.kpr.dons.any hit then (e.modDon hit (fun d => { d with closing := true })).wantDrain inst else e
      e.donateAll)

/-- DONATION_LONG: a borrowed slice has lasted KPR_DONATE_WARN ticks (R496). -/
def atDonationLong (sem : Nat) (s : State) : Host.Outcome State Fault Refusal :=
  live s (fun e =>
    match e.kpr.dons.find? (fun d => decide (d.sem = sem) && d.start.isSome && !d.warned) with
    | some d =>
      let e := e.advance (d.start.getD e.now + e.av F.KPR_DONATE_WARN_WARN)
      let e := e.modDon (fun x => decide (x.sem = sem)) (fun x => { x with warned := true })
      e.raiseP 0x0094 12 d.wpid (sem + 2 ^ 8 * d.holder) (some d.holder)
    | none => e)

/-! ### Eviction (R498 to R500) -/

/-- A swapped-out context is runnable (R498). -/
def Eng.runnable (e : Eng) (i : Nat) : Bool :=
  let c := e.ctx i
  (e.inst i).active && (e.inst i).lead && decide (c.state = 2 ∧ c.want = 0) && !c.held && !c.gone
    && (e.instSlots i).any (fun s => match e.rc s with
      | some r => decide (r.state = 8 ∧ 3 ≤ r.prior ∧ r.prior ≤ 6) && decide (e.away s = 0)
      | none => false)
    && !((e.waitedSems i).any (fun k => match (e.sem k).holder with
      | some h => e.ctxResident h
      | none => false))

/-- Pass of a context's owning partition. -/
def Eng.ctxPass (e : Eng) (i : Nat) : Nat := (e.part (e.inst i).owner).pass

/-- The runnable context that is taken: lowest pass, PID, index (R500). -/
def Eng.takeRunnable (e : Eng) : Option Nat :=
  leastBy (fun i => (e.ctxPass i * 64 + (e.inst i).owner) * 16 + i) (instRange.filter e.runnable)

/-- The context that makes way for it: of those blocked that hold its tile groups the smallest share deficit, that is the largest
pass, then the higher PID and index (R499, R500). -/
def Eng.evictee (e : Eng) (r : Nat) : Option Nat :=
  leastBy (fun i => 2 ^ 80 - ((e.ctxPass i * 64 + (e.inst i).owner) * 16 + i)) ((e.rivals r).filter (fun i => e.ctxBlocked i && !e.inDonation i))

/-- BLOCK_WINDOW_EXPIRY: every resident context has been blocked for KPR_BLOCK_WINDOW ticks and some context is runnable (R500). A context that
a slice end has chosen makes way under R451 (R501). -/
def atBlockWindowExpiry (s : State) : Host.Outcome State Fault Refusal :=
  live s (fun e =>
    let w := e.av F.KPR_BLOCK_WINDOW_WINDOW
    let e := e.watchBlock
    match e.kprOn && decide (w ≠ 0), e.kpr.blockSince, e.takeRunnable with
    | true, some t, some r =>
      let e := e.advance (t + w)
      let e := { e with kpr := { e.kpr with blockSince := some e.now } }
      match e.evictee r with
      | some v =>
        if (e.ctx v).want ≠ 0 then e
        else
          let e := if (e.inst v).step.isSome then e.wantFreeze v else e.wantDrain v
          (e.wantRestore r).bump F.KPR_EVICTIONS_COUNT
      | none => if e.regionFree r then e.wantRestore r else e
    | _, _, _ => e)

end Sys2Proof.Machine
end

