-- ==== Sys2Proof/Machine/LinkOps.lean ====
section
/-!
DEFINITION. Rafter's operations (spec/16_rafter_link.md): lane states, identity and placement (R529 to R532), links cut (R542),
the loss of a chip (R553, R554, R594, R595), what a receiver does with any frame (R533 to R537), and the Tally tree (R549).
-/
namespace Sys2Proof.Machine

/-- RAF_SYNC_CFG.INTERVAL as treated. -/
def Eng.syncInterval (e : Eng) : Nat := max 10000 (e.av F.RAF_SYNC_CFG_INTERVAL)

/-- Rafter runs: EN set, not halted, and not stopped by a quiesce (R585). -/
def Eng.rafOn (e : Eng) : Bool := e.fb F.RAF_CTL_EN && !e.ras.quiesced && !e.unitHalted 13

/-- This engine's highest protocol version (R531). -/
def rafMaxVer : Nat := 0x0201

/-- The physical lanes. -/
def laneRange : List Nat := List.range 12

/-! ### Step loss at a lead (R53) -/

/-- Declare the outstanding step of an instance lost: the followers are told, and the step is composed again (R53, R206). -/
def Eng.declareLost (e : Eng) (i : Nat) : Eng :=
  match (e.inst i).step with
  | none => e
  | some st =>
    let e := (e.others i).foldl (fun e c => e.sendInst i { typ := 0x12, dst := c, arg := st.num % 2 ^ 48 }) e
    let e := e.trace { kind := 7, inst := i, pid := (e.inst i).owner, pidV := true, status := 0x3F, sib := 0x3F, step := st.num,
                       arg := 0x3FFF + 2 ^ 16 * 4 }
    e.stepLost i

/-- A follower sends STEP_LATE for a step to the lead, or to `dst` for an instance that it does not take part in (R52, R542). -/
def Eng.lateSend (e : Eng) (f : Frame) (up : Bool) : Eng := (e.sendVia { f with typ := 0x11, src := e.self } up).bump F.RAF_LATE_SENT_COUNT

/-- The instance index by which this engine follows instance `i` of chip `c`. -/
def Eng.followed (e : Eng) (c i : Nat) : Option Nat :=
  e.activeInsts.find? (fun k =>
    let x := e.inst k
    !x.lead && decide (x.leadChip = c ∧ x.leadInst = i))

/-! ### Lanes (R521 to R531) -/

/-- The domain of a lane's pair (R521). -/
def lanePd (p : Nat) : Nat := 89 + p / 2

/-- Put a lane in a state, with the domain of its pair (R521, R565). -/
def Eng.laneTo (e : Eng) (p st : Nat) : Eng :=
  let x := e.lane p
  let up := decide (st = 3 ∨ st = 4)
  let e := match x.log with
    | some n => if x.st = 3 ∧ st ≠ 3 then { e with raf := { e.raf with downAt := tput e.raf.downAt n e.now } } else e
    | none => e
  let e := e.setLane p { x with st, since := e.now, log := if up then x.log else none, ver := if up then x.ver else 0 }
  if st ≠ 0 then e.wake (lanePd p)
  else if (e.lane (p / 2 * 2)).st = 0 ∧ (e.lane (p / 2 * 2 + 1)).st = 0 then e.gate (lanePd p)
  else e

/-- The chip that a physical lane leads to by R521; the spare leads where the lane that it stands in for leads. -/
def Eng.lanePeer (e : Eng) (p : Nat) : Nat :=
  linkPeer e.self (laneLink (if p = 11 then e.raf.spareAsked.getD 0 else p))

/-- Send a frame of no link on a lane. -/
def Eng.laneSend (e : Eng) (p : Nat) (f : Frame) : Eng := (e.emit (.laneFrame p f)).count 0x1014 f.bytes

/-- Send IDENT on a lane (R529, R534). -/
def Eng.sendIdent (e : Eng) (p : Nat) : Eng :=
  let w := e.fv F.RAF_POS_POS + 2 ^ 22 * p + 2 ^ 26 * b2n (decide (p = 11)) + two32 * e.raf.mapId
  let f : Frame := { typ := 1, src := e.self, dst := e.lanePeer p, len := 16, words := [w, 0x0200 + 2 ^ 16 * rafMaxVer] }
  (e.setLane p { e.lane p with identSent := e.now }).laneSend p f

/-- EN is set with a map loaded: every lane in OFF starts to train (R529), but the spare, which waits for R524. -/
def Eng.lanesStart (e : Eng) : Eng :=
  if e.rafOn && e.raf.mapLoaded then
    (List.range 11).foldl (fun e p => if (e.lane p).st = 0 then e.laneTo p 1 else e) e
  else e

/-- Logical lanes served by physical lanes other than `p`. -/
def Eng.served (e : Eng) (p : Nat) : List Nat :=
  laneRange.filterMap (fun q => if q = p then none else (e.lane q).log)

/-- Where R530 places a lane, from its peer's position and physical lane: none where rows 1 to 3 apply. -/
def Eng.placeLane (e : Eng) (p pos q : Nat) : Option Nat :=
  let me := e.fv F.RAF_POS_POS
  let c := pos % 64
  let s := e.self / 8
  let k := e.self % 8
  let cs := c / 8
  let ck := c % 8
  let used := e.served p
  let free := fun (l : List Nat) => l.find? (fun n => !used.contains n)
  let inRack := decide (pos / 64 = me / 64) && (tgetD e.raf.chips c {}).present
  if !inRack then none
  else if p < 7 then
    if cs = s ∧ ck ≠ k ∧ q < 7 then free [(ck + 7 - k) % 8] else none
  else if p < 11 then
    if !(decide (ck = k) && decide (7 ≤ q ∧ q < 11)) then none
    else if cs = (s + 1) % 8 then free [7, 8]
    else if cs = (s + 7) % 8 then free [9, 10]
    else none
  else
    match e.raf.spareAsked with
    | some l => if c = linkPeer e.self (laneLink l) ∧ q = 11 then free [l] else none
    | none => none

/-- Version in use on a link (R22, R531). -/
def linkVer (peerMax : Nat) : Nat := min rafMaxVer peerMax

/-- Note that a lane serves a logical lane (R523, R530). -/
def Eng.remapTo (e : Eng) (l p : Nat) : Eng :=
  { e with raf := { e.raf with remap := tsetD e.raf.remap l p l } }

/-! ### Buddies (R587, R594) -/

/-- Send a live record's entry to a buddy in a resync, with all that it relies on in the shadow (R589). -/
def Eng.resyncOne (e : Eng) (ring : Bool) (c s : Nat) (r : LRec) : Eng :=
  let n := e.raf.mirrorNo + 1
  let e := (e.recUse s).shadowPut (rqPid r.rqid) (e.shadowOf s r (!r.kind) (tgetD e.led.gent s []).length)
  let e := ({ e with raf := { e.raf with mirrorNo := n } }).mirrorTo c n s r
  let note := fun (b : Buddy) => { b with sent := n, syncs := tput b.syncs s n }
  { e with ras := if ring then { e.ras with ring := note e.ras.ring } else { e.ras with sled := note e.ras.sled } }

/-- A buddy is reachable: every live record is sent, and it is SYNCING, or CURRENT where there is none (R594). -/
def Eng.resync (e : Eng) (ring : Bool) : Eng :=
  let b := if ring then e.ras.ring else e.ras.sled
  match b.chip with
  | none => e
  | some c =>
    let live := e.led.recs.filter (fun p => p.2.live)
    let b : Buddy := { chip := some c, state := if live.isEmpty then 2 else 1, sent := e.raf.mirrorNo, acked := e.raf.mirrorNo }
    let e := { e with ras := if ring then { e.ras with ring := b } else { e.ras with sled := b } }
    live.foldl (fun e p => e.resyncOne ring c p.1 p.2) e

/-- Tally at which the link to a chip last left ACTIVE. -/
def Eng.linkDownAt (e : Eng) (c : Nat) : Nat :=
  match linkTo e.self c with
  | some l => (linkLanes l).foldl (fun m n => max m (tgetD e.raf.downAt n 0)) 0
  | none => 0

/-- The link to a chip is ACTIVE. -/
def Eng.reaches (e : Eng) (c : Nat) : Bool :=
  match linkTo e.self c with
  | some l => e.linkActive l
  | none => false

/-- A chip has become reachable: a buddy that is neither SYNCING nor CURRENT is sent everything (R594). -/
def Eng.buddyBack (e : Eng) (c : Nat) : Eng :=
  if !e.mirrorOn then e
  else
    let e := if e.ras.sled.chip = some c ∧ !e.ras.sled.takes then e.resync false else e
    if e.ras.ring.chip = some c ∧ !e.ras.ring.takes then e.resync true else e

/-- The buddies of R587 under the loaded map and RAS_MIRROR_CTL. -/
def Eng.buddiesSet (e : Eng) : Eng :=
  let me := e.self
  let up := 8 * ((me / 8 + 1) % 8) + me % 8
  let sled := if e.mirrorOn then some (tgetD e.raf.chips me {}).buddy else none
  let ring := if e.mirrorOn && decide (16 ≤ e.raf.npresent) && (tgetD e.raf.chips up {}).present then some up else none
  let set_ := fun (b : Buddy) (c : Option Nat) => if b.chip = c then b else ({ chip := c } : Buddy)
  let e := { e with ras := { e.ras with sled := set_ e.ras.sled sled, ring := set_ e.ras.ring ring } }
  let e := match sled with
    | some c => if e.reaches c then e.buddyBack c else e
    | none => e
  let e := match ring with
    | some c => if e.reaches c then e.buddyBack c else e
    | none => e
  e.mirrorFree.trimHot

/-- A buddy is lost: what is held for it is released (R594). -/
def Eng.buddyLost (e : Eng) (ring : Bool) : Eng :=
  let b := if ring then e.ras.ring else e.ras.sled
  match b.chip with
  | none => e
  | some c =>
    if b.state = 3 then e
    else
      let b := { b with state := 3 }
      let e := { e with ras := if ring then { e.ras with ring := b } else { e.ras with sled := b } }
      (e.raiseE 0x00B0 16 (c + 256 * b2n ring)).mirrorFree

/-! ### The Tally tree (R549, R552) -/

/-- The masters of the map, by chip. -/
def Eng.masters (e : Eng) : List Nat := (List.range 64).filter (fun c => (tgetD e.raf.chips c {}).master)

/-- Masters still in the vote (R552). -/
def Eng.voters (e : Eng) : List Nat := e.masters.filter (fun c => !e.raf.mastersOut.contains c && !e.raf.lost.contains c)

/-- The middle one of three masters in consecutive sleds of one slot (R527, R552). -/
def middleMaster (l : List Nat) : Option Nat :=
  l.find? (fun c =>
    let near := fun (d : Nat) => l.any (fun x => decide (x % 8 = c % 8 ∧ x / 8 = (c / 8 + d) % 8))
    near 1 && near 7)

/-- The acting master (R552). -/
def Eng.acting (e : Eng) : Option Nat :=
  let v := e.voters
  match middleMaster e.masters with
  | some m => if v.contains m then some m else v.head?
  | none => v.head?

/-- This chip is a voting master. -/
def Eng.isMaster (e : Eng) : Bool := e.raf.mapLoaded && e.voters.contains e.self

/-- This chip is the acting master. -/
def Eng.isActing (e : Eng) : Bool := e.raf.mapLoaded && decide (e.acting = some e.self)

/-- The acting master stands at depth 0 in LOCKED (R549). -/
def Eng.actingSet (e : Eng) : Eng :=
  if e.isActing && e.rafOn then
    { e with raf := { e.raf with parent := none, depth := 0 }, tal := { e.tal with state := 2, errBound := 0 } }
  else e

/-- ERR_BOUND by R551. -/
def errBoundOf (state depth old : Nat) : Nat :=
  if state = 2 then cdiv depth 4 else if state = 3 then old else 255

/-- The array discards the outstanding or armed step of an instance, and its pins are released (R53). -/
def Eng.stepDiscard (e : Eng) (i : Nat) : Eng :=
  match (e.inst i).step with
  | some st =>
    let e := (e.tell (.discardStep i st.num)).binPurge i st.num
    st.slots.foldl (fun (e : Eng) y => e.unpinSlot y) (e.modInst i (fun x => { x with step := none }))
  | none => e

/-- The step of an instance has been emitted or armed and its edge has not been taken. -/
def Eng.stepAhead (e : Eng) (i : Nat) : Bool := (e.inst i).step.any (fun st => !st.started)

/-- The engine leaves the step alignment of a multi-chip instance (R43): a step whose edge has not been taken is lost, at a lead as under
R53; a follower discards it. A step that runs goes on to its end (DEDUCED, assumption log 60). -/
def Eng.leaveAlign (e : Eng) (i : Nat) : Eng :=
  let x := e.inst i
  if x.chips.length ≤ 1 ∨ !e.stepAhead i then e
  else if x.lead then e.declareLost i
  else (e.stepDiscard i).closeWindow i

/-- Put the Tally in a state (R551). A FREE engine is in the step alignment of no multi-chip instance (R41, R43). -/
def Eng.tallyTo (e : Eng) (st : Nat) : Eng :=
  let e := { e with tal := { e.tal with state := st, errBound := errBoundOf st e.raf.depth e.tal.errBound },
                    raf := { e.raf with locked8 := 0, nextRise := e.now + 200000 } }
  if st = 0 then e.activeInsts.foldl Eng.leaveAlign { e with raf := { e.raf with parent := none, depth := 15 } } else e

/-- Logical lanes that can lead to a parent: an ACTIVE or COURTESY link whose peer advertises a depth in LOCKED (R549). -/
def Eng.parentCands (e : Eng) : List (Nat × Nat) :=
  laneRange.filterMap (fun n =>
    let a := tgetD e.raf.adv n {}
    let c := linkPeer e.self (laneLink n)
    let up := laneRange.any (fun p => decide ((e.lane p).log.map laneLink = some (laneLink n) ∧ ((e.lane p).st = 3 ∨ (e.lane p).st = 4)))
    if n < 11 && up && decide (a.state = 2 ∧ a.depth < 15) && !e.raf.lost.contains c then some (n, a.depth) else none)

/-- Select the parent (R549): least depth, a sled lane before a ring link, the lower chip. -/
def Eng.selectParent (e : Eng) : Eng :=
  if e.isActing then e.actingSet
  else
    let key := fun (p : Nat × Nat) => (p.2 * 2 + b2n (decide (7 ≤ p.1))) * 1024 + linkPeer e.self (laneLink p.1) * 16 + p.1
    match leastBy key e.parentCands with
    | none =>
      { e with raf := { e.raf with parent := none, orphanAt := if e.raf.orphanAt.isSome then e.raf.orphanAt else some e.now } }
    | some p =>
      let new := decide (e.raf.parent ≠ some p.1)
      let depth := min 15 (p.2 + 1)
      let e := { e with raf := { e.raf with parent := some p.1, depth, syncOpen := e.raf.syncOpen && !new, orphanAt := none } }
      if e.tal.state = 2 ∧ 8 < depth then e.tallyTo 3
      else if e.tal.state = 0 then e
      else { e with tal := { e.tal with errBound := errBoundOf e.tal.state depth e.tal.errBound } }

/-! ### Loss of a link and of a chip (R542, R553, R554) -/

/-- The edge of the step that a broadcast segment belongs to, where this engine knows it. -/
def Eng.bcastEdge (e : Eng) (f : Frame) : Option Nat :=
  let step := f.arg % 2 ^ 48
  if f.src = e.self then
    match (e.inst f.inst).step with
    | some st => if st.num % 2 ^ 48 = step then some st.edge else none
    | none => none
  else
    match e.raf.bcasts.find? (fun b => decide (b.src = f.src ∧ b.inst = f.inst ∧ b.step = step ∧ b.hdr ≠ [])) with
    | some b => some (b.hdr.getD 2 0)
    | none => none

/-- The chips of the instance that a frame of it belongs to, as this engine knows them: those of one that it follows, or of a placement that it
has been told of (R539; assumption log 13). The lead is the frame's destination or its source: STEP_LATE goes to it, and so does MOVE_DONE, which
names the index of an instance that the destination leads; a frame to this engine is of an instance of its own. -/
def Eng.frameChips (e : Eng) (f : Frame) : List Nat :=
  let of := fun (c : Nat) => match e.followed c f.inst with
    | some i => (e.inst i).chips
    | none => ((e.raf.plans.find? (fun p => decide (p.1 = c ∧ p.2.1 = f.inst))).map (fun p => p.2.2)).getD []
  let toLead := decide (f.typ = 0x11 ∨ (f.typ = 0x18 ∧ f.words.headD 0 % 16 = 9))
  if toLead then (if f.dst = e.self then (e.inst f.inst).chips else of f.dst) else of f.src

/-- Ring direction toward `dst` of a frame of an instance: along its path, or the shorter way where the engine does not know it. -/
def Eng.instUp (e : Eng) (f : Frame) (dst : Nat) : Bool :=
  match e.frameChips f with
  | [] => shortUp e.self dst
  | c => pathUp (pathOf c) e.self dst

/-- STEP_LATE to the lead of the instance of a broadcast segment that this engine can no longer pass on (R542). -/
def Eng.lateFor (e : Eng) (f : Frame) : Eng :=
  e.lateSend { typ := 0x11, dst := f.src, pid := f.pid, pidV := f.pidV, inst := f.inst, arg := f.arg % 2 ^ 48 } (e.instUp f f.src)

/-- STEP_LATE for the steps whose segments a link that went out of ACTIVE can no longer carry (R542). -/
def Eng.linkCut (e : Eng) (l : Nat) : Eng :=
  let k := e.link l
  let segs := k.waiting.filter (fun f => decide (f.typ = 0x10))
  let open_ := segs.filter (fun f => match e.bcastEdge f with
    | some t => decide (e.now < t)
    | none => decide (f.src ≠ e.self))
  let e := e.setLink l { k with waiting := k.waiting.filter (fun f => decide (f.typ ≠ 0x10)) }
  (open_.foldl (fun (acc : List (Nat × Nat × Nat) × Eng) f =>
    let key := (f.src, f.inst, f.arg % 2 ^ 48)
    if acc.1.contains key then acc
    else
      let e := acc.2
      let e := if f.src = e.self then e.declareLost f.inst else e.lateFor f
      (acc.1 ++ [key], e)) (([] : List (Nat × Nat × Nat)), e)).2

/-- A follower's instance whose lead is lost: the armed step is discarded and the residency released, to PARKED (R554, R595). -/
def Eng.leadGone (e : Eng) (i : Nat) : Eng :=
  let x := e.inst i
  let e := e.stepDiscard i
  let e := { e with raf := { e.raf with bcasts := e.raf.bcasts.filter (fun b => decide (b.src ≠ x.leadChip ∨ b.inst ≠ x.leadInst)) } }
  e.unloadDone i

/-- What an engine does on learning that a chip is lost (R554, R594, R595). -/
def Eng.learnLost (e : Eng) (c t : Nat) : Eng :=
  let seen := { e with raf := { e.raf with seenLost := e.raf.seenLost ++ [(c, t)] } }
  if e.raf.lost.contains c ∨ c = e.self then seen
  else
    let e := { seen with raf := { seen.raf with
      lost := sinsert seen.raf.lost c, plans := seen.raf.plans.filter (fun p => decide (p.1 ≠ c)) } }
    let e := if e.raf.mapLoaded then e.selectParent else e
    let e := e.activeInsts.foldl (fun e i =>
      let x := e.inst i
      if x.lead && x.chips.contains c then
        ((e.declareLost i).discardComp i).raiseP 0x00A5 13 x.owner (c + 256 * i + 2 ^ 12) (some i)
      else if !x.lead && decide (x.leadChip = c) then e.leadGone i
      else e) e
    let e := if e.ras.sled.chip = some c then e.buddyLost false else e
    if e.ras.ring.chip = some c then e.buddyLost true else e

/-- This engine has found a chip silent: it floods PEER_LOST and learns the loss (R553, R554). -/
def Eng.chipSilent (e : Eng) (c : Nat) : Eng := (e.flood e.self c e.now none).learnLost c (e.now % 2 ^ 56)

/-- A chip answers again: its loss is over. -/
def Eng.chipBack (e : Eng) (c : Nat) : Eng := { e with raf := { e.raf with lost := e.raf.lost.filter (fun x => decide (x ≠ c)) } }

/-- A lane leaves ACTIVE or COURTESY for a state in which it serves nothing; the link may go out of ACTIVE with it (R542). -/
def Eng.laneOut (e : Eng) (p st : Nat) : Eng :=
  match (e.lane p).log with
  | none => e.laneTo p st
  | some n =>
    let l := laneLink n
    let was := e.linkActive l
    let e := e.laneTo p st
    let e := if was && !e.linkActive l then e.linkCut l else e
    if e.raf.mapLoaded then e.selectParent else e

/-- A lane's peer identity is decided (R530). -/
def Eng.decideLane (e : Eng) (p : Nat) : Eng :=
  let x := e.lane p
  let me := e.raf.mapId
  let e := e.setLane p { x with log := none }
  match e.placeLane p x.peerPos x.peerLane with
  | none => ((e.setLane p x).laneOut p 5).raiseE 0x00A1 13 (p + 256 * (x.peerPos % 2 ^ 22))
  | some l =>
    let c := x.peerPos % 64
    let court := decide (x.verMax / 256 ≠ 2 ∨ x.peerMap ≠ me)
    let was := match x.log with
      | some n => some (laneLink n, (e.setLane p x).linkActive (laneLink n))
      | none => none
    let e := e.setLane p { x with log := some l, ver := linkVer x.verMax }
    let e := e.remapTo l p
    let e := if l = p then e else e.raiseE 0x00A2 13 (l + 16 * p)
    if court then
      let e := e.laneTo p 4
      let e := e.raiseE 0x00A3 13 (l + 2 ^ 16 * x.verMax)
      let e := if x.peerMap ≠ me then e.raiseE 0x00A4 13 x.peerMap else e
      match was with
      | some (k, true) => if e.linkActive k then e else e.linkCut k
      | _ => e
    else
      let e := (e.laneTo p 3).chipBack c
      ((e.selectParent).buddyBack c).flush (laneLink l)

/-! ### Receiving (R532 to R537) -/

/-- The listed frame types (R534). -/
def frameTypes : List Nat := [1, 2, 3, 4, 5, 6, 7, 0x10, 0x11, 0x12, 0x13, 0x18, 0x20, 0x21, 0x28, 0x29, 0x2A]

/-- Count the bytes of a received frame. -/
def Eng.rxCount (e : Eng) (f : Frame) : Eng := e.count 0x1015 f.bytes (if f.pidV then some f.pid else none)

/-- Note that a frame has arrived on a link (R553). -/
def Eng.heard (e : Eng) (l : Nat) (f : Frame) : Eng :=
  let e := e.rxCount f
  (e.lanesOf l [3, 4]).foldl (fun e p => e.setLane p { e.lane p with lastFrame := e.now }) e

/-- Send a CREDIT on a link (R535, R536): S_DONE, NEXT_SEQ, RETRY, and grants by instance. -/
def Eng.creditSend (e : Eng) (l : Nat) (retry : Bool) (words : List (Nat × Nat)) : Eng :=
  let k := e.link l
  let w := sumBy (fun (p : Nat × (Nat × Nat)) => (p.2.1 + 16 * p.2.2) * 2 ^ (16 * p.1)) ((List.range words.length).zip words)
  e.linkPut l { typ := 4, src := e.self, dst := linkPeer e.self l, arg := k.sConsumed % 65536 + 2 ^ 16 * k.recvSeq + two32 * b2n retry,
                len := 2 * words.length, words := if words.isEmpty then [] else [w] }

/-- Grant what the free B buffers of a link allow, in order of request (R536). -/
def grantHolds (e : Eng) (l : Nat) (fuel : List (Nat × Nat)) : Eng :=
  match fuel with
  | [] => e
  | _ :: rest =>
    let k := e.link l
    match k.bAsks with
    | [] => e
    | (i, n) :: more =>
      let g := min n k.bFree
      if g = 0 then e
      else
        let k := { k with bFree := k.bFree - g, bGiven := tsetD k.bGiven i (tgetD k.bGiven i 0 + g) 0,
                          bAsks := if g = n then more else (i, n - g) :: more }
        grantHolds ((e.setLink l k).creditSend l false [(i, g)]) l rest

/-- A credited frame has been consumed: its credit goes back, to the hold of its INST if that stands (R536). -/
def Eng.consumed (e : Eng) (l : Nat) (f : Frame) : Eng :=
  let k := e.link l
  if frameClass f.typ = 1 then (e.setLink l { k with sConsumed := k.sConsumed + 1 }).creditSend l false []
  else if frameClass f.typ = 2 then
    if (tget k.bGiven f.inst).isSome then e.creditSend l false [(f.inst, 1)] else e
  else e

/-- A frame is discarded and counted (R534). -/
def Eng.badFrame (e : Eng) : Eng := e.bump F.RAF_CRC_ERR_COUNT

/-- Frames of an instance (R537). -/
def frameOfInst (t : Nat) : Bool := decide (t = 0x10 ∨ t = 0x11 ∨ t = 0x12 ∨ t = 0x13 ∨ t = 0x18)

/-- Pass a frame on toward its destination: along the ring the way it came, and from a sled lane along an instance's path, or the shorter
way (R537). -/
def Eng.relay (e : Eng) (l : Nat) (f : Frame) : Eng :=
  e.sendVia f (if l = 8 then true else if l = 7 then false else if frameOfInst f.typ then e.instUp f f.dst else shortUp e.self f.dst)

/-- A sequenced frame is the one that its link expects, or is discarded; the first of a gap asks for a resend (R535). -/
def Eng.inOrder (e : Eng) (l : Nat) (f : Frame) (ok : Bool) : Bool × Eng :=
  let k := e.link l
  if ok && decide (f.seq = k.recvSeq) then
    (true, e.setLink l { k with recvSeq := (k.recvSeq + 1) % 65536, gap := false })
  else if k.gap then (false, e)
  else (false, (e.setLink l { k with gap := true }).creditSend l true [])

/-- A frame of type `t` arrives on a link: the checks of R532 to R535, the relay of R537, and `act` on a frame for this engine.
A frame of another listed type is not this command's. -/
def Eng.recv (e : Eng) (l t : Nat) (m : RxFrame) (act : Eng → Frame → Eng) : Eng :=
  let f := frameOf m
  if !e.rafOn || !e.linkUp l || decide (9 ≤ l) then e
  else if frameTypes.contains f.typ && decide (f.typ ≠ t) then e
  else
    let e := e.heard l f
    let permitted := decide (f.typ = t) && (e.linkActive l || decide (t = 2 ∨ t = 3 ∨ t = 4))
    if !permitted then e.badFrame
    else if frameClass t = 0 then (if rxOk m then act e f else e.badFrame)
    else
      let e := if rxOk m then e else e.badFrame
      let o := e.inOrder l f (rxOk m)
      if !o.1 then o.2
      else
        let e := o.2
        let e := if f.dst = e.self then act e f else e.relay l f
        e.consumed l f

end Sys2Proof.Machine
end

