-- ==== Sys2Proof/Machine/Lanes.lean ====
section
/-!
DEFINITION. Lanes and the topology map: the commands LANE_TRAINED, LANE_TRAIN_TIMEOUT, IDENT_TIMEOUT, IDENT_RESEND,
FEC_LOCK_LOSS, LINK_SILENCE, SPARE_JOIN, IDENT, MAP_LOAD and MAP_LOAD_END (spec/16_rafter_link.md R521 to R532, R553).
-/
namespace Sys2Proof.Machine

/-- LANE_DOWN (R529). -/
def Eng.laneDownEvent (e : Eng) (p : Nat) : Eng := e.raiseE 0x00A0 13 p

/-- A lane in service returns to PHY (R529): LINK_FAULT is captured (R577). -/
def Eng.laneLost (e : Eng) (p : Nat) : Eng := ((e.capture { code := 0x080, unit := 13, part := p }).laneOut p 1).laneDownEvent p

/-- LANE_TRAINED: training is complete and FEC lock has held; IDENT is sent (R529). -/
def execLaneTrained (lane : Nat) (s : State) : Host.Outcome State Fault Refusal :=
  live s (fun e =>
    if e.rafOn && decide (lane < 12 ∧ (e.lane lane).st = 1) then
      let e := e.laneTo lane 2
      (e.setLane lane { e.lane lane with fails := 0 }).sendIdent lane
    else e)

/-- LANE_TRAIN_TIMEOUT: 500,000,000 t without lock; the third failure in a row disables the lane (R529). -/
def atLaneTrainTimeout (lane : Nat) (s : State) : Host.Outcome State Fault Refusal :=
  live s (fun e =>
    if e.rafOn && decide (lane < 12 ∧ (e.lane lane).st = 1) then
      let x := e.lane lane
      let e := e.advance (x.since + 500000000)
      if 2 ≤ x.fails then ((e.setLane lane { x with fails := 0 }).laneTo lane 5).laneDownEvent lane
      else (e.setLane lane { x with fails := x.fails + 1 }).laneTo lane 1
    else e)

/-- IDENT_TIMEOUT: 1,000,000 t in IDENT without a valid IDENT (R529). -/
def atIdentTimeout (lane : Nat) (s : State) : Host.Outcome State Fault Refusal :=
  live s (fun e =>
    if e.rafOn && decide (lane < 12 ∧ (e.lane lane).st = 2) then
      (e.advance ((e.lane lane).since + 1000000)).laneTo lane 1
    else e)

/-- IDENT_RESEND: IDENT is sent again after 10,000 t, until the lane's time in IDENT is over (R529). -/
def atIdentResend (lane : Nat) (s : State) : Host.Outcome State Fault Refusal :=
  live s (fun e =>
    let x := e.lane lane
    if e.rafOn && decide (lane < 12 ∧ x.st = 2 ∧ x.identSent + 10000 < x.since + 1000000) then
      (e.advance (x.identSent + 10000)).sendIdent lane
    else e)

/-- FEC_LOCK_LOSS: a lane in service returns to PHY; with the link's last lane gone its chip has gone silent (R529, R542, R554). -/
def execFecLockLoss (lane : Nat) (s : State) : Host.Outcome State Fault Refusal :=
  live s (fun e =>
    match (e.lane lane).log with
    | none => e
    | some n =>
      if !e.rafOn then e
      else
        let l := laneLink n
        let e := e.laneLost lane
        if e.linkUp l then e else e.chipSilent (linkPeer e.self l))

/-- LINK_SILENCE: no frame for 2 × INTERVAL; the link's lanes go to PHY and PEER_LOST is flooded (R529, R553, R554). -/
def atLinkSilence (link : Nat) (s : State) : Host.Outcome State Fault Refusal :=
  live s (fun e =>
    let up := e.lanesOf link [3, 4]
    if !e.rafOn || decide (9 ≤ link) || up.isEmpty then e
    else
      let last := up.foldl (fun m p => max m (e.lane p).lastFrame) 0
      let e := e.advance (last + 2 * e.syncInterval)
      let e := up.foldl (fun e p => e.laneLost p) e
      e.chipSilent (linkPeer e.self link))

/-- SPARE_JOIN: a logical lane has been out of ACTIVE for 2 × INTERVAL; the free spare trains in its place (R524). -/
def atSpareJoin (lane : Nat) (s : State) : Host.Outcome State Fault Refusal :=
  live s (fun e =>
    let served := laneRange.any (fun p => decide ((e.lane p).st = 3 ∧ (e.lane p).log = some lane))
    if !e.rafOn || !e.raf.mapLoaded || decide (11 ≤ lane) || served || decide ((e.lane 11).st ≠ 0) then e
    else
      let e := e.advance (tgetD e.raf.downAt lane 0 + 2 * e.syncInterval)
      let e := { e with raf := { e.raf with spareAsked := some lane } }
      (e.laneTo 11 1).raiseE 0x00A6 13 lane)

/-- Take the identity that an IDENT carries (R534). -/
def Eng.takeIdent (e : Eng) (p : Nat) (f : Frame) : Eng :=
  let w0 := f.words.getD 0 0
  let w1 := f.words.getD 1 0
  e.setLane p { e.lane p with
    peerPos := bitsOf w0 21 0, peerLane := bitsOf w0 25 22, peerMap := bitsOf w0 63 32, verMin := bitsOf w1 15 0,
    verMax := bitsOf w1 31 16, lastFrame := e.now }

/-- IDENT: a lane in IDENT is placed by its peer's identity (R530). -/
def execIdent (lane : Nat) (frame : RxFrame) (s : State) : Host.Outcome State Fault Refusal :=
  live s (fun e =>
    let f := frameOf frame
    if !e.rafOn || decide (12 ≤ lane) || decide ((e.lane lane).st < 2 ∨ 4 < (e.lane lane).st) then e
    else if frameTypes.contains f.typ && decide (f.typ ≠ 1) then e
    else if !rxOk frame || decide (f.typ ≠ 1) || decide (f.len ≠ 16) then (e.rxCount f).badFrame
    else if (e.lane lane).st = 2 then ((e.rxCount f).takeIdent lane f).decideLane lane
    else (e.rxCount f).setLane lane { e.lane lane with lastFrame := e.now })

/-! ### The topology map (R526 to R528) -/

/-- The map entry of a chip. -/
def mapEnt (img : List Nat) (c : Nat) : MapEnt :=
  let w := imgField img (0x40 + 16 * c) 4
  { present := bitOf w 0, master := bitOf w 1, buddy := bitsOf w 7 2 }

/-- The 64 chips. -/
def chipRange : List Nat := List.range 64

/-- Three masters in one slot of three consecutive sleds. -/
def mastersInLine (l : List Nat) : Bool := (middleMaster l).isSome

/-- RAF_MAP_CTL.RESULT of a map as read (R527). -/
def mapResult (pos : Nat) (img : List Nat) (readOk : Bool) : Nat :=
  let ent := mapEnt img
  let present := chipRange.filter (fun c => (ent c).present)
  let masters := chipRange.filter (fun c => (ent c).master)
  let np := bitsOf (imgField img 0xC 4) 6 0
  let nm := bitsOf (imgField img 0xC 4) 8 7
  if imgField img 0 4 ≠ 0x50464152 ∨ imgField img 4 2 ≠ 0x0100 ∨ np ≠ present.length then 2
  else if imgField img 0x3C 4 ≠ crc32 (img.take 0x3C ++ (img.drop 0x40).take 1024) then 3
  else if imgField img 6 2 ≠ pos / 64 then 4
  else if !(ent (pos % 64)).present then 5
  else if nm ≠ (if 16 ≤ np then 3 else 1) ∨ masters.length ≠ nm ∨ !(masters.all (fun c => (ent c).present))
      ∨ (nm = 3 ∧ !mastersInLine masters) then 6
  else if !(present.all (fun c => (ent (ent c).buddy).present && decide ((ent c).buddy / 8 = c / 8 ∧ (ent c).buddy ≠ c))) then 7
  else if !readOk ∨ img.length < 1088 then 8
  else 1

/-- MAP_LOAD: GO starts a load unless one is in progress (R526, R527). -/
def execMapLoad (data : Word) (s : State) : Host.Outcome State Fault Refusal :=
  live s (fun e =>
    let e := e.poke F.RAF_MAP_CTL_SPACE (bitsOf data.toNat 1 1)
    if bitOf data.toNat 31 && !e.raf.mapBusy then { e with raf := { e.raf with mapBusy := true } } else e)

/-- A loaded map takes effect (R48, R528, R529, R552, R587, R596). -/
def Eng.mapTake (e : Eng) (img : List Nat) : Eng :=
  let chips := chipRange.foldl (fun t c => tsetD t c (mapEnt img c) {}) []
  let raf := { e.raf with
    chips := chips, mapLoaded := true, mapId := imgField img 8 4, npresent := bitsOf (imgField img 0xC 4) 6 0,
    mastersOut := [] }
  let e := { e with raf := raf, ras := { e.ras with taken := [] } }
  let e := instRange.foldl (fun e i => e.floorSet i) e
  let e := laneRange.foldl (fun e p =>
    let st := (e.lane p).st
    if st = 3 ∨ st = 4 then e.decideLane p
    else if st = 5 ∧ e.fb F.RAF_CTL_EN then (e.setLane p { e.lane p with fails := 0 }).laneTo p 1
    else e) e
  ((e.lanesStart).selectParent).buddiesSet

/-- MAP_LOAD_END: the first check that fails refuses the map and leaves the loaded one in force (R527, R528). -/
def execMapLoadEnd (image : List (BitVec 8)) (readOk : Bool) (s : State) : Host.Outcome State Fault Refusal :=
  live s (fun e =>
    if !e.raf.mapBusy then e
    else
      let img := natBytes image
      let r := mapResult (e.fv F.RAF_POS_POS) img readOk
      let e := { e with raf := { e.raf with mapBusy := false, mapResult := r } }
      if r = 1 then e.mapTake img else e)

/-- RAF_CTL.EN is set: the lanes train and a master takes its place; or cleared: every lane is OFF (R529). -/
def Eng.rafEnable (e : Eng) (on : Bool) : Eng :=
  if on then (e.lanesStart).actingSet
  else
    let e := laneRange.foldl (fun e p => e.laneOut p 0) e
    { e with raf := { e.raf with spareAsked := none } }

end Sys2Proof.Machine
end

