-- ==== Sys2Proof/Machine/Follow.lean ====
section
/-!
DEFINITION. What a follower does with the lead's frames (spec/05_batch_composition.md R216 to R219, spec/07 R290 to R293,
spec/16 R538 to R544): its directory, Shelver records, and the arming of broadcast steps.
-/
namespace Sys2Proof.Machine

/-! ### Groups of a followed sibling (R291) -/

/-- Take one group against the request's reservation, which its first sibling's word holds, or against the quota (R269, R293); a draft
group against the quota only (R280). -/
def Eng.ftake (e : Eng) (i rqid : Nat) (draft : Bool) : Option Eng :=
  match e.fmap i rqid 0 with
  | some m =>
    if !draft && decide (0 < m.resv) then some (e.fput i rqid 0 { m with resv := m.resv - 1 })
    else if e.resUse i < e.quota i then some e
    else none
  | none => if e.resUse i < e.quota i then some e else none

/-- Name a group in a sibling's map, with a leaf node where the block's range has none (R260). -/
def Eng.fname (e : Eng) (i rqid sib block g : Nat) : Eng :=
  match e.fmap i rqid sib with
  | none => e
  | some m =>
    let m := { m with blocks := tput m.blocks block g }
    if (tget m.leaves (block / 512)).isSome then e.fput i rqid sib m
    else (e.fput i rqid sib { m with leaves := tput m.leaves (block / 512) e.newNode }).nodesCount 1 0

/-- A new private group of a block, for the draw RQID `draw` of its request (R259). -/
def Eng.fnew (e : Eng) (i draw rqid sib block : Nat) : Option (Nat × Eng) :=
  (e.ftake i rqid false).map (fun e =>
    let x := e.newGroup i 0 (draw + two32 * sib + 2 ^ 38 * block) block noSlot false
    (x.1, x.2.fname i rqid sib block x.1))

/-- Groups for `n` blocks from `b`, pinned for the step: those of the map, and new ones. -/
def fblocks (e : Eng) (i draw rqid sib b n : Nat) : Option (List (Nat × Nat) × Eng) :=
  match n with
  | 0 => some ([], e)
  | k + 1 =>
    let got : Option (Nat × Eng) := match (e.fmap i rqid sib).bind (fun m => tget m.blocks b) with
      | some g => some (g, e)
      | none => e.fnew i draw rqid sib b
    match got with
    | none => none
    | some (g, e) =>
      match e.pinGrp g with
      | none => none
      | some e => (fblocks e i draw rqid sib (b + 1) k).map (fun r => ((b, g) :: r.1, r.2))

/-- The draft group of a half (R280). -/
def SMap.half (m : SMap) (half : Bool) : Option Nat := if half then m.draft1 else m.draft0

/-- The draft group that a TREE slot writes: the half that DSET names (R264, R280). -/
def Eng.fdraft (e : Eng) (i : Nat) (x : Slot) : Option (List Nat × Eng) :=
  if x.kind ≠ 3 then some ([], e)
  else
    match e.fmap i x.rqid x.sib with
    | none => none
    | some m =>
      match m.half x.dset with
      | some g => (e.pinGrp g).map (fun e => ([g], e))
      | none =>
        match e.ftake i x.rqid true with
        | none => none
        | some e =>
          let y := e.newGroup i 2 (drawRqid x.rqid x.drawSlot + two32 * x.sib + 2 ^ 38 * b2n x.dset) 0 noSlot x.dset
          let e := y.2.fput i x.rqid x.sib (if x.dset then { m with draft1 := some y.1 } else { m with draft0 := some y.1 })
          (e.pinGrp y.1).map (fun e => ([y.1], e))

/-- The blocks that a slot writes by its own input (R186, R193): the first and how many. -/
def Slot.span (x : Slot) : Nat × Nat :=
  let n := if x.kind = 2 then x.ntok else if x.kind = 0 then 0 else 1
  (x.pos / 64, if n = 0 then 0 else (x.pos + n - 1) / 64 + 1 - x.pos / 64)

/-- The blocks that the copy of a slot with COPY can reach before those that the slot's own input writes (R194): those of the 64 positions
below POS. How many positions are copied, 64 at most, is not broadcast: a block that the map names is left out unless the sibling alone owns
its group (R213), and one that it does not name is one that the copy writes first. -/
def Eng.copyBlocks (e : Eng) (m : SMap) (x : Slot) : List Nat :=
  if !x.copy || decide (x.pos = 0) then []
  else [(x.pos - 64) / 64, (x.pos - 1) / 64].eraseDups.filter (fun b =>
    !(decide (x.span.1 ≤ b ∧ b < x.span.1 + x.span.2))
      && (match tget m.blocks b with
        | some g => (e.grp g).any (fun y => decide (y.kind = 0 ∧ y.ref = 1))
        | none => true))

/-- Groups for a list of blocks, pinned for the step: those of the map, and new ones. -/
def fblockList (e : Eng) (i draw rqid sib : Nat) (l : List Nat) : Option (List (Nat × Nat) × Eng) :=
  match l with
  | [] => some ([], e)
  | b :: r =>
    match fblocks e i draw rqid sib b 1 with
    | none => none
    | some (x, e) => (fblockList e i draw rqid sib r).map (fun y => (x ++ y.1, y.2))

/-- A split copy is in flight for a group that a slot of a step would write (R213, R279). -/
def Eng.armWaits (e : Eng) (i : Nat) (l : List Slot) : Bool :=
  l.any (fun x => match e.fmap i x.rqid x.sib with
    | some m => (List.range x.span.2).any (fun k => (tget m.blocks (x.span.1 + k)).any e.splitting)
    | none => false)

/-- The prefix entries of an instance and a sharing domain that continue a chain behind entry `parent` (R271). -/
def Eng.chain (e : Eng) (i dom parent : Nat) : List (Nat × Pfx) :=
  e.shv.pfx.filter (fun p => decide (p.2.parent = parent ∧ p.2.domain = dom) && (e.grp p.2.group).any (fun g => decide (g.inst = i ∧ g.ref < 65535)))

/-- Hold the `n` matched blocks from `k` on for a sibling of a request (R274, R290). The record names no entry: where several continue
the chain, which one is a free value (assumption log 44). -/
def Eng.fmatch (e : Eng) (i rqid sib k parent n : Nat) : Eng :=
  match n with
  | 0 => e
  | j + 1 =>
    let f := e.fresh
    let l := e.chain i (e.domain (rqPid rqid)) parent
    match l[f.1.toNat % max 1 l.length]? with
    | none => e
    | some p =>
      let e := f.2.modGrp p.2.group (fun g => { g with ref := g.ref + 1, heat := e.now })
      (e.fname i rqid sib k p.2.group).fmatch i rqid sib (k + 1) p.1 j

/-- A further sibling that replays after a takeover prefills of itself, and no record of R290 opens it: at its first PREFILL slot the follower
gives it a line with a map of its own, with the matched blocks below the slot's POS (R598; DESIGN CHOICE, assumption log 45). -/
def Eng.freplay (e : Eng) (i : Nat) (x : Slot) : Eng :=
  if x.kind = 2 ∧ x.sib ≠ 0 ∧ (e.fmap i x.rqid x.sib).isNone = true ∧ (e.fmap i x.rqid 0).isSome = true then
    ((e.fput i x.rqid x.sib { root := some e.newNode }).nodesCount 1 0).fmatch i x.rqid x.sib 0 0x1FFFFFF (min (x.pos / 64) 262144)
  else e

/-- Fill a slot's crate fields for this chip (R217, R291): none where a group or the sibling is missing (R293). -/
def Eng.armSlot (e : Eng) (i : Nat) (x : Slot) : Option (Slot × Eng) :=
  if x.kind = 0 ∧ x.copy = false then some ({ x with ncrate := 0 }, e)
  else
    let e := e.freplay i x
    match e.fmap i x.rqid x.sib with
    | none => none
    | some m =>
      match fblockList e i (drawRqid x.rqid x.drawSlot) x.rqid x.sib (e.copyBlocks m x) with
      | none => none
      | some (old, e) =>
        match fblocks e i (drawRqid x.rqid x.drawSlot) x.rqid x.sib x.span.1 x.span.2 with
        | none => none
        | some (gs, e) =>
          match e.fdraft i x with
          | none => none
          | some (w, e) =>
            let r := if x.copy then (m.half (!x.dset)).toList else []
            match pinAll e r with
            | none => none
            | some e =>
              let gs := old ++ gs
              let m := (e.fmap i x.rqid x.sib).getD m
              let ents := gs.flatMap (fun p => e.entsOf p.2 p.1 0) ++ w.flatMap (fun g => e.entsOf g 0 1) ++ r.flatMap (fun g => e.entsOf g 0 2)
              some ({ x with
                lslot := noSlot, ents, ncrate := ents.length, root := m.root.getD 0, rootV := m.root.isSome
                pins := gs.map (fun p => p.2) ++ w ++ r }, e)

/-- Fill every slot of a step. -/
def armSlots (e : Eng) (i : Nat) (l : List Slot) : Option (List Slot × Eng) :=
  match l with
  | [] => some ([], e)
  | x :: r =>
    match e.armSlot i x with
    | none => none
    | some (y, e) => (armSlots e i r).map (fun z => (y :: z.1, z.2))

/-! ### Shelver records (R290, R544) -/

/-- Read a record. -/
def shvRecOf (w : List Nat) : ShvRec :=
  let g := fun (k : Nat) => w.getD k 0
  { kind := bitsOf (g 0) 3 0, sib := bitsOf (g 0) 9 4, gen := bitsOf (g 0) 31 16, rqid := bitsOf (g 0) 63 32,
    a := bitsOf (g 1) 31 0, b := bitsOf (g 1) 63 32, hash := g 2, c := g 3 }

/-- Enter a follower's block in its prefix table (R275, R290). It evicts nothing on its own account: the lead's EVICT has made the way
free. The record carries no tokens. -/
def Eng.finsert (e : Eng) (i : Nat) (r : ShvRec) (g : Nat) : Eng :=
  match (e.pfxBucket r.hash).find? (fun k => (tget e.shv.pfx k).isNone) with
  | none => e
  | some k =>
    let p : Pfx := { hash := r.hash, group := g, parent := r.b, mid := (e.inst i).mid, domain := e.domain (rqPid r.rqid), toks := [] }
    let e := { e with shv := { e.shv with pfx := tput e.shv.pfx k p } }
    e.modGrp g (fun x => { x with kind := 1, full := true, key := r.hash, ref := x.ref + 1, heat := e.now })

/-- The split of a sibling off sibling 0 (R277, R278): whole blocks shared, the partial one copied. -/
def Eng.fsplit (e : Eng) (i : Nat) (r : ShvRec) : Eng :=
  match e.fmap i r.rqid 0 with
  | none => e
  | some m =>
    let whole := m.blocks.filter (fun b => decide (b.1 < r.a))
    let ranges := leafRanges whole
    let nodes := e.newNodes (1 + ranges.length)
    let e := whole.foldl (fun e b => e.modGrp b.2 (fun g => { g with ref := g.ref + 1, heat := e.now })) e
    let e := (e.fput i r.rqid r.sib { root := nodes.head?, leaves := ranges.zip (nodes.drop 1), blocks := whole }).nodesCount nodes.length 0
    match tget m.blocks r.a with
    | none => e
    | some src =>
      let draw := ((e.grp src).map (fun g => g.key % two32)).getD r.rqid
      match e.fnew i draw r.rqid r.sib r.a with
      | none => e
      | some (g, e) => e.fsplitCopy i r.rqid r.sib src g

/-- Another sibling of a request stands in the directory with a map. -/
def Eng.fothers (e : Eng) (i rqid sib : Nat) : Bool :=
  e.shv.fdir.any (fun x => decide (x.1 = i ∧ x.2.1 = rqid ∧ x.2.2.1 ≠ sib) && x.2.2.2.root.isSome)

/-- A sibling's holdings are dropped (R270); the first sibling's word keeps the reservation until the last sibling drops its own. -/
def Eng.fdrop (e : Eng) (i : Nat) (r : ShvRec) : Eng :=
  match e.fmap i r.rqid r.sib with
  | none => e
  | some m =>
    let e := (m.blocks.map (fun b => b.2) ++ m.draft0.toList ++ m.draft1.toList).foldl (fun e g => e.dropRef g) e
    let e := { e with shv := { e.shv with nodesUsed := e.shv.nodesUsed - m.nodeList.length } }
    if e.fothers i r.rqid r.sib then
      (if r.sib = 0 then e.fput i r.rqid 0 { resv := m.resv } else e.fdel i r.rqid r.sib)
    else (e.fdel i r.rqid r.sib).fdel i r.rqid 0

/-- The group that a record names (R290): a block of a sibling, or for a group of the prefix table alone the entry's hash. -/
def Eng.recGroup (e : Eng) (i : Nat) (r : ShvRec) : Option Nat :=
  if r.rqid = 0 then (e.shv.pfx.find? (fun p => decide (p.2.hash = r.hash) && (e.grp p.2.group).any (fun g => decide (g.inst = i)))).map (fun p => p.2.group)
  else (e.fmap i r.rqid r.sib).bind (fun m => tget m.blocks r.a)

/-- A Cellar move that the lead has started (R290, R292). -/
def Eng.fmove (e : Eng) (i : Nat) (r : ShvRec) (dest : Nat) : Eng :=
  match e.recGroup i r with
  | none => e
  | some b =>
    match e.grp b with
    | none => e
    | some g =>
      let f := e.fresh
      let addr := f.1.toNat / 4096 * 4096
      let g := { g with state := 2, dest, destAddr := addr, retried := false }
      (f.2.setGrp b g).farMove b g { what := 0, grp := b, src := r.rqid, slot := r.sib, gen := r.gen, dest }

/-- A follower applies one record. -/
def Eng.shvApply (e : Eng) (i : Nat) (r : ShvRec) : Eng :=
  match r.kind with
  | 1 => (e.fput i r.rqid 0 { resv := r.a, matching := true, root := some e.newNode }).nodesCount 1 0
  | 2 =>
    match e.fmap i r.rqid 0 with
    | some m => (e.fput i r.rqid 0 { m with matching := false, resv := m.resv - r.a }).fmatch i r.rqid 0 0 0x1FFFFFF (min r.a 262144)
    | none => e
  | 3 =>
    match (e.fmap i r.rqid r.sib).bind (fun m => tget m.blocks r.a) with
    | some g => e.finsert i r g
    | none => e
  | 4 =>
    match e.shv.pfx.find? (fun p => decide (p.2.hash = r.hash) && (e.grp p.2.group).any (fun g => decide (g.inst = i))) with
    | some p => e.pfxDrop p.1
    | none => e
  | 5 => e.fsplit i r
  | 6 => e.fdrop i r
  | 7 => e.fmove i r 2
  | 8 => e.fmove i r 1
  | _ => e

/-- MOVE_DONE at the lead (R292): the move is complete when every chip has reported it and it is done here. -/
def Eng.moveReport (e : Eng) (i c : Nat) (r : ShvRec) : Eng :=
  let hit := e.shv.ops.find? (fun p =>
    p.2.waiting.contains c && decide (p.2.what = 0 ∧ p.2.src = r.rqid ∧ p.2.slot = r.sib ∧ p.2.gen = r.gen ∧ (p.2.dest = 2 ↔ r.b = 0))
      && (match e.grp p.2.grp with
        | some g => decide (g.inst = i ∧ g.block = r.a) && (decide (r.rqid ≠ 0) || decide (g.key = r.hash))
        | none => false))
  match hit with
  | none => e
  | some (id, op) =>
    let op := { op with waiting := op.waiting.filter (fun x => decide (x ≠ c)) }
    let e := { e with shv := { e.shv with ops := tput e.shv.ops id op } }
    if op.waiting.isEmpty && op.here then e.opEnd id 0 else e

/-! ### Broadcasts (R51, R52, R540) -/

/-- Index in the step of the k-th slot of a segment of a stripe (R538). -/
def segSlot (m seg k : Nat) : Nat := 7 * ((if seg = 0 then 0 else 62 + 64 * (seg - 1)) + k) + m

/-- The slots of a segment's words. -/
def segSlots (w : List Nat) (fuel : List Nat) : List Slot :=
  match fuel with
  | [] => []
  | _ :: r => if w.length < 4 then [] else slotOf (ofWords (w.take 4)) :: segSlots (w.drop 4) r

/-- Keep one segment of a broadcast. A repeated one changes nothing. -/
def Bcast.take (b : Bcast) (m seg : Nat) (last : Bool) (w : List Nat) : Bcast :=
  if b.segs.any (fun s => decide (s.1 = m ∧ s.2.1 = seg)) then b
  else
    let body := if seg = 0 then w.drop 8 else w
    let l := segSlots body body
    { b with
      segs := b.segs ++ [(m, seg, last)]
      hdr := if seg = 0 then w.take 8 else b.hdr
      slots := ((List.range l.length).zip l).foldl (fun t p => tput t (segSlot m seg p.1) p.2) b.slots }

/-- The LAST segments of all seven stripes are held (R540). -/
def Bcast.whole (b : Bcast) : Bool :=
  (List.range 7).all (fun m => b.segs.any (fun s => s.2.2 && decide (s.1 = m)))

/-- Put a broadcast's record, and forget those of earlier steps of its instance. -/
def Eng.bcastPut (e : Eng) (b : Bcast) : Eng :=
  let keep := e.raf.bcasts.filter (fun x => decide (x.src ≠ b.src ∨ x.inst ≠ b.inst ∨ b.step < x.step))
  { e with raf := { e.raf with bcasts := keep ++ [b] } }

/-- The broadcast record of a step. -/
def Eng.bcastGet (e : Eng) (src inst step : Nat) : Bcast :=
  (e.raf.bcasts.find? (fun x => decide (x.src = src ∧ x.inst = inst ∧ x.step = step))).getD { src, inst, step }

/-- A follower does not arm a step: STEP_LATE goes to the lead (R52, R293). -/
def Eng.lateTold (e : Eng) (i : Nat) (b : Bcast) (code unit : Nat) : Eng :=
  let x := e.inst i
  let e := e.sendInst i { typ := 0x11, dst := x.leadChip, arg := b.step }
  let e := (e.bump F.RAF_LATE_SENT_COUNT).raiseP code unit x.owner (b.step + 2 ^ 48 * i) (some i)
  e.bcastPut { b with dead := true }

/-- The fields of a broadcast's header that an arming follower keeps (R209, R217). -/
structure BcastHdr where
  epoch : Nat
  mid : Nat
  cfg : Nat
  owner : Nat
  edge : Nat
  emit : Nat
  est : Nat
  nslot : Nat

/-- Read a broadcast's header. -/
def Bcast.head (b : Bcast) : BcastHdr :=
  let h := fun (k : Nat) => b.hdr.getD k 0
  { epoch := bitsOf (h 0) 11 8, mid := bitsOf (h 0) 27 16, cfg := bitsOf (h 0) 31 28, owner := bitsOf (h 0) 37 32, edge := h 2, emit := h 3,
    est := bitsOf (h 4) 31 0, nslot := bitsOf (h 4) 46 32 }

/-- The slots of a broadcast, in order. -/
def Bcast.slotList (b : Bcast) : List Slot := (List.range b.head.nslot).map (fun k => tgetD b.slots k {})

/-- The follower's step is armed with the slots `l` as filled for this chip: its packet goes to the array (R51, R217). -/
def Eng.armed (e : Eng) (i : Nat) (b : Bcast) (l : List Slot) : Eng :=
  let h := b.head
  let leadInst := (e.inst i).leadInst
  let st : Step := { num := b.step, edge := h.edge, emit := h.emit, est := h.est, epoch := h.epoch, cfg := h.cfg, slots := l, uid := e.cmp.nextUid }
  let p : Packet := {
    epoch := h.epoch, inst := i, mid := h.mid, cfg := h.cfg, owner := h.owner, leadInst, step := b.step, edge := h.edge, emit := h.emit
    est := h.est, slots := l, ents := l.flatMap (fun (y : Slot) => y.ents) }
  let e := e.takeUid.modInst i (fun y => { y with step := some st, stepNo := b.step, epoch := h.epoch, cfg := h.cfg })
  ((e.putPacket i b.step p).bcastPut { b with dead := true }).balance i

/-- A broadcast received in time is not armed (R293): its compose window closes, and STEP_LATE goes to the lead. -/
def Eng.armFails (e : Eng) (i : Nat) (b : Bcast) : Eng := (e.lateTold i b 0x0050 6).closeWindow i

/-- A follower arms a step whose broadcast it has received in time (R51, R293). A halted engine arms none (R610), and while a split copy
of a written group is in flight the broadcast waits (R213). One that waits past its edge is discarded, as R540 discards a segment of such a
step (assumption log 69); an engine that is quiesced, or that has left the Tally domain, discards it as well. -/
def Eng.arm (e : Eng) (i : Nat) (b : Bcast) : Eng :=
  if e.quiet || !e.aligned i then (e.bcastPut { b with dead := true }).closeWindow i
  else if e.stopped || e.armWaits i b.slotList then
    if b.head.edge < e.now then (e.bcastPut { b with dead := true }).closeWindow i else e.bcastPut b
  else
    match armSlots e i b.slotList with
    | none => e.armFails i b
    | some (l, e) => e.armed i b l

/-- A follower has received a broadcast (R540): R51 and R52 are judged at this moment, and one in time opens the compose window of its step
and captures the instance's view (R59, R60, R218). An earlier step of the instance that it still holds has resolved at the lead, which
emits no step before (R26): it resolves here too. -/
def Eng.received (e : Eng) (i : Nat) (b : Bcast) : Eng :=
  let h := b.head
  if e.quiet || !e.aligned i || (e.inst i).step.any (fun st => decide (b.step ≤ st.num)) then e.bcastPut { b with dead := true }
  else if h.edge < e.now + 300 then e.lateTold i b 0x0040 4
  else ((((e.resolveStep i).modInst i (fun y => { y with mid := h.mid, owner := h.owner, win := true })).captureViews i).arm i b)

/-- Broadcasts that have been received and not armed, for a halt or a split copy, are armed. -/
def Eng.armHeld (e : Eng) : Eng :=
  (e.raf.bcasts.filter (fun (b : Bcast) => !b.dead && b.whole)).foldl (fun e b =>
    match e.followed b.src b.inst with
    | some i => e.arm i b
    | none => e) e

/-- A segment for a follower: kept, and the broadcast received once all are held (R540). -/
def Eng.segTake (e : Eng) (i : Nat) (f : Frame) : Eng :=
  let b := e.bcastGet f.src f.inst (f.arg % 2 ^ 48)
  let gone := decide (b.hdr ≠ [] ∧ b.hdr.getD 2 0 ≤ e.now)
  if b.dead || b.whole || gone then e
  else
    let b := b.take (bitsOf f.arg 50 48) (bitsOf f.arg 63 52) (bitOf f.arg 51) f.words
    if b.whole then e.received i b else e.bcastPut b

/-- The chips to which an engine that has received a segment on link `l` passes it on (R539): in the lead's sled the holder of its stripe does,
and in another sled a chip that it reached on its ring. -/
def Eng.passOn (e : Eng) (l : Nat) (f : Frame) : List Nat :=
  let chips := e.frameChips f
  let here := decide (f.src / 8 = e.self / 8)
  if chips.isEmpty then []
  else if (if here then decide (stripeHolder f.src (bitsOf f.arg 50 48) = e.self) else decide (l = 7 ∨ l = 8)) then
    bcastNext e.self f.src chips
  else []

/-- Forward a segment (R539): to each chip of R539 over its link, or STEP_LATE where the link is not ACTIVE (R542). -/
def Eng.forward (e : Eng) (l : Nat) (f : Frame) : Eng :=
  (e.passOn l f).foldl (fun e d =>
    match linkTo e.self d with
    | some k => if e.linkActive k then (e.linkPut k { f with dst := d }).bump F.RAF_RELAYED_COUNT else e.lateFor f
    | none => e) e

/-- A step that a follower has armed, or may yet, is discarded, and its compose window closes (R53, R61). -/
def Eng.abort (e : Eng) (i src inst step : Nat) : Eng :=
  let b := e.bcastGet src inst step
  let e := e.bcastPut { b with dead := true }
  if (e.inst i).step.any (fun st => decide (st.num % 2 ^ 48 = step)) then (e.stepDiscard i).closeWindow i
  else if b.whole && !b.dead then e.closeWindow i
  else e

end Sys2Proof.Machine
end

