-- ==== Sys2Proof/Machine/Sync.lean ====
section
/-!
DEFINITION. Tally synchronisation: the commands SYNC_SEND, SYNC, SYNC_REPLY, TALLY_PARENT_TIMEOUT and HOLDOVER_BOUND_RISE
(spec/16_rafter_link.md R547 to R552).
-/
namespace Sys2Proof.Machine

/-! ### Stamps -/

/-- The calibration of a physical lane, in 2^-16 t (R547, R569). -/
def calOf (cal : List Int) (p : Nat) : Int := cal.getD p 0

/-- The engine's Tally and fraction in 2^-16 t. -/
def Eng.stamp16 (e : Eng) : Int := (e.now * 65536 + e.frac : Nat)

/-- A PHY stamp of a lane: Tally and fraction with the lane's calibration. -/
def phyStamp (t : Int) (cal : List Int) (p : Nat) : Int := t + calOf cal p

/-- A stamp as the Tally's word and the word that begins with the fraction (R548). -/
def stampWords (t : Int) : List Nat :=
  let v := unsgn 80 t
  [v / 65536, v % 65536]

/-- A stamp from its two words. -/
def stampOf (t f : Nat) : Int := (t * 65536 + f % 65536 : Nat)

/-- CRC-32 of the active bank's first NSLOT entries (TAL_CST_CRC). -/
def Eng.cstCrc (e : Eng) : Nat :=
  let b := e.tal.activeBank
  crc32 ((List.range (e.cstN b)).flatMap (fun i => leBytes 8 (tgetD (e.cstBank b) i 0).toNat))

/-- This engine's own figures in the status table (R548). The spec calls FREE_GIB the sender's free Store for R299: the model's choice is the
Store that a load may take, weights of PARKED models included, in whole GiB and at most 2,047 (assumption log 57). -/
def Eng.ownStat (e : Eng) : ChipStat := { freeGib := min 2047 (e.storeForLoad / 2 ^ 30), cstCrc := e.cstCrc, stamp := e.now }

/-- A link of another voting master, if there is one beside `l` (R552). -/
def Eng.otherMaster (e : Eng) (l : Nat) : Option Nat :=
  [7, 8].find? (fun k => decide (k ≠ l) && e.voters.contains (linkPeer e.self k))

/-- The VOTING mask: by rank of the masters (R548). -/
def Eng.votingMask (e : Eng) : Nat :=
  let m := e.masters
  sumBy (fun (p : Nat × Nat) => if e.voters.contains p.2 then 2 ^ p.1 else 0) ((List.range m.length).zip m) % 8

/-- The two words of a STATUS entry. -/
def Eng.statWords (e : Eng) (c : Nat) : List Nat :=
  let x := tgetD e.raf.stat c {}
  [c + 2 ^ 6 * b2n ((tget e.raf.stat c).isSome) + 2 ^ 16 * x.freeGib + two32 * x.cstCrc, x.stamp % 2 ^ 64]

/-- The SYNC payload for a lane of link `l` (R548). -/
def Eng.syncWords (e : Eng) (cal : List Int) (l p : Nat) : List Nat :=
  let t := stampWords (phyStamp e.stamp16 cal p)
  let own := e.ownStat
  let vt : Int := if e.isMaster then match e.otherMaster l with
      | some k => ((e.raf.thetas.find? (fun x => decide (x.1 = k))).map (fun x => x.2)).getD 0
      | none => 0
    else 0
  let n := e.now / e.syncInterval
  [t.getD 0 0,
   t.getD 1 0 + 2 ^ 16 * e.tal.state + 2 ^ 18 * e.raf.depth + 2 ^ 24 * e.tal.errBound + two32 * own.freeGib,
   own.cstCrc + two32 * e.votingMask, unsgn 32 vt]
    ++ (List.range 4).flatMap (fun k => e.statWords ((4 * n + k) % 64))

/-- The lane that carries a link's SYNC: the lowest logical lane in service. -/
def Eng.syncLane (e : Eng) (l : Nat) : Option Nat :=
  leastBy (fun p => (e.lane p).log.getD 15) (e.lanesOf l [3, 4])

/-- SYNC_SEND: at each whole multiple of INTERVAL (R547, R548); an exchange with the parent still unanswered is missed. -/
def atSyncSend (s : State) : Host.Outcome State Fault Refusal :=
  live s (fun e =>
    if !e.rafOn then e
    else
      let e := e.advance (roundUp (max e.now e.raf.nextSync) e.syncInterval)
      let e := if e.raf.syncOpen && e.raf.parent.isSome then e.bump F.RAF_SYNC_MISSED_COUNT else e
      let raf := { e.raf with
        nextSync := e.now + 1, syncOpen := e.raf.parent.isSome, stat := tput e.raf.stat e.self e.ownStat }
      let e := { e with raf := raf }
      linkRange.foldl (fun e l =>
        match e.syncLane l with
        | some p => e.laneSend p { typ := 2, src := e.self, dst := linkPeer e.self l, len := 96, words := e.syncWords s.boot.cal l p }
        | none => e) e)

/-! ### SYNC -/

/-- A follower compares its table with its lead's (R75). -/
def Eng.cstCompare (e : Eng) (c crc : Nat) : Eng :=
  if e.activeInsts.any (fun i => !(e.inst i).lead && decide ((e.inst i).leadChip = c)) && decide (e.cstCrc ≠ crc) then
    e.raiseE 0x0034 14 (e.cstCrc + two32 * crc)
  else e

/-- Keep the figures of a chip if they are its latest, the chip's own or relayed by another, and compare its CRC (R75, R548). Figures later
than the chip's loss show that it answers again. -/
def Eng.statPut (e : Eng) (c : Nat) (x : ChipStat) : Eng :=
  if c = e.self ∨ (tget e.raf.stat c).isSome ∧ x.stamp ≤ (tgetD e.raf.stat c {}).stamp then e
  else
    let e := { e with raf := { e.raf with stat := tput e.raf.stat c x } }
    let e := if e.raf.lost.contains c && e.raf.seenLost.all (fun y => decide (y.1 ≠ c ∨ y.2 < x.stamp)) then e.chipBack c else e
    e.cstCompare c x.cstCrc

/-- What a SYNC's payload tells of its sender and of other chips (R548, R549, R552). It takes the place of what the link's last SYNC told,
whichever lane that came on. -/
def Eng.syncTake (e : Eng) (n c : Nat) (w : List Nat) : Eng :=
  let g := fun (k : Nat) => w.getD k 0
  let a : Adv := {
    state := bitsOf (g 1) 17 16, depth := bitsOf (g 1) 21 18, errBound := bitsOf (g 1) 31 24, voting := bitsOf (g 2) 34 32,
    voteTheta := sgn 32 (bitsOf (g 3) 31 0) }
  let raf := { e.raf with adv := tput (e.raf.adv.filter (fun p => decide (laneLink p.1 ≠ laneLink n))) n a }
  let e := { e with raf := raf }
  let m := e.masters
  let out := if a.voting = 0 then [] else
    ((List.range m.length).zip m).filterMap (fun (p : Nat × Nat) => if bitOf a.voting p.1 then none else some p.2)
  let e := { e with raf := { e.raf with mastersOut := out.foldl sinsert e.raf.mastersOut } }
  let e := e.statPut c { freeGib := bitsOf (g 1) 42 32, cstCrc := bitsOf (g 2) 31 0, stamp := g 0 }
  (List.range 4).foldl (fun e k =>
    let x := g (4 + 2 * k)
    if bitOf x 6 then e.statPut (x % 64) { freeGib := bitsOf x 26 16, cstCrc := bitsOf x 63 32, stamp := g (5 + 2 * k) } else e) e

/-- A SYNC or SYNC_REPLY of length `len` that a lane in service may take: its logical lane; or the frame is discarded. -/
def Eng.syncFrame (e : Eng) (p t len : Nat) (m : RxFrame) (act : Eng → Nat → Frame → Eng) : Eng :=
  let f := frameOf m
  match (e.lane p).log with
  | none => e
  | some n =>
    if !e.rafOn || (frameTypes.contains f.typ && decide (f.typ ≠ t)) then e
    else
      let e := e.rxCount f
      let e := e.setLane p { e.lane p with lastFrame := e.now }
      if !rxOk m || decide (f.typ ≠ t ∨ f.len ≠ len) then e.badFrame else act e n f

/-- SYNC: answered with t1, t2 and t3; the sender's advertisement and figures are kept (R75, R547 to R549). -/
def execSync (lane : Nat) (frame : RxFrame) (s : State) : Host.Outcome State Fault Refusal :=
  live s (fun e =>
    e.syncFrame lane 2 96 frame (fun e n f =>
      let cal := s.boot.cal
      let t1 := [f.words.getD 0 0, f.words.getD 1 0 % 65536]
      let w := t1 ++ stampWords (phyStamp frame.arrival cal lane) ++ stampWords (phyStamp e.stamp16 cal lane)
      let e := e.laneSend lane { typ := 3, src := e.self, dst := linkPeer e.self (laneLink n), len := 48, words := w }
      ((e.syncTake n (linkPeer e.self (laneLink n)) f.words)).selectParent))

/-! ### SYNC_REPLY -/

/-- The servo (R550): the new sum and the rate. -/
def servo (acc theta : Int) (interval : Nat) : Int × Int :=
  let acc := acc + theta
  let p := (theta * 2 ^ 23).tdiv interval
  let i := (acc * 2 ^ 20).tdiv interval
  (acc, max (-(2 ^ 26 : Int)) (min (2 ^ 26) (p + i)))

/-- Steer the advance of the fraction. -/
def Eng.steer (e : Eng) (theta : Int) : Eng :=
  let r := servo e.raf.servoAcc theta e.syncInterval
  { e with raf := { e.raf with servoAcc := sgn 64 (unsgn 64 r.1), rate := r.2 } }

/-- Half a tick and 50 ticks in units of 2^-16 t. -/
def thetaSmall (t : Int) : Bool := decide (t.natAbs ≤ 32768)

/-- Set the Tally by the jump of R40. The periodic commands take up the new Tally. -/
def Eng.jumpTo (e : Eng) (t : Int) : Eng :=
  let v := unsgn 80 t
  { e with
    now := v / 65536
    nextIdle := 0
    nextQueued := 0
    tal := { e.tal with
      acc := v % 65536 * (6 * 2 ^ 24)
      nextFrame := 0
      nextSlot := 0
      jumped := e.tal.jumped + ((v / 65536 : Nat) : Int) - e.now }
    hat := { e.hat with nextPoll := 0 }
    gat := { e.gat with nextRefill := 0 }
    kpr := { e.kpr with nextPoint := 0, nextRefill := 0, nextClose := 0, nextWindow := 0 }
    raf := { e.raf with nextSync := 0 } }

/-- The rows of R551 that an exchange with the parent can meet, after the servo. -/
def Eng.tallyStep (e : Eng) (theta : Int) : Eng :=
  let st := e.tal.state
  if (st = 2 ∨ st = 3) ∧ 50 * 65536 < theta.natAbs then e.tallyTo 0
  else if st = 2 then (if 8 < e.raf.depth then e.tallyTo 3 else e)
  else
    let n := if thetaSmall theta then e.raf.locked8 + 1 else 0
    let e := { e with raf := { e.raf with locked8 := n } }
    if 8 ≤ n ∧ e.raf.depth ≤ 8 then e.tallyTo 2 else e

/-- The median of three numbers. -/
def median3 (a b c : Int) : Int := max (min a b) (min (max a b) c)

/-- Offsets of the two other masters from this one, where both are known (R552). -/
def Eng.masterThetas (e : Eng) : Option (Int × Int) :=
  let th := fun (l : Nat) => (e.raf.thetas.find? (fun x => decide (x.1 = l))).map (fun x => x.2)
  let isM := fun (l : Nat) => e.voters.contains (linkPeer e.self l)
  let far := fun (l : Nat) => ((e.raf.adv.find? (fun p => decide (laneLink p.1 = l))).map (fun p => p.2.voteTheta)).getD 0
  if isM 7 && isM 8 then
    match th 7, th 8 with
    | some a, some b => some (a, b)
    | _, _ => none
  else if isM 7 then (th 7).map (fun a => (a, a + far 7))
  else if isM 8 then (th 8).map (fun a => (a, a + far 8))
  else none

/-- A voting master steers toward the median of the three, or leaves the vote (R552). -/
def Eng.masterVote (e : Eng) : Eng :=
  match e.masterThetas with
  | none => e
  | some (a, b) =>
    if 8 * 65536 < a.natAbs ∧ 8 * 65536 < b.natAbs ∧ (a - b).natAbs ≤ 2 * 65536 then
      let e := { e with raf := { e.raf with mastersOut := sinsert e.raf.mastersOut e.self } }
      (e.raiseE 0x00A7 14 e.self).selectParent
    else e.steer (median3 0 a b)

/-- An exchange on logical lane `n` has given θ and t4 (R547, R550 to R552). -/
def Eng.exchange (e : Eng) (n : Nat) (theta t4 : Int) : Eng :=
  let l := laneLink n
  let voting := e.isMaster && decide (3 ≤ e.voters.length)
  let atMaster := voting && e.voters.contains (linkPeer e.self l)
  let e := if e.isMaster then
      { e with raf := { e.raf with thetas := (l, theta) :: e.raf.thetas.filter (fun x => decide (x.1 ≠ l)) } }
    else e
  let e := if atMaster then e.masterVote else e
  if e.raf.parent.map laneLink ≠ some l ∨ e.isActing then e
  else
    let e := { e with raf := { e.raf with syncOpen := false, theta } }
    if e.tal.state = 0 then (e.jumpTo (t4 + theta)).tallyTo 1
    else (if voting then e else e.steer theta).tallyStep theta

/-- SYNC_REPLY: the offset θ steers the servo and moves the Tally state (R547, R550, R551). -/
def execSyncReply (lane : Nat) (frame : RxFrame) (s : State) : Host.Outcome State Fault Refusal :=
  live s (fun e =>
    e.syncFrame lane 3 48 frame (fun e n f =>
      let g := fun (k : Nat) => f.words.getD k 0
      let t1 := stampOf (g 0) (g 1)
      let t2 := stampOf (g 2) (g 3)
      let t3 := stampOf (g 4) (g 5)
      let t4 := phyStamp frame.arrival s.boot.cal lane
      e.exchange n (sgn 48 (unsgn 48 (((t2 - t1) + (t3 - t4)).tdiv 2))) t4))

/-! ### Timeouts -/

/-- TALLY_PARENT_TIMEOUT: no parent for 2 × INTERVAL since the last one was lost: ACQUIRING ends in FREE and LOCKED in HOLDOVER (R551). -/
def atTallyParentTimeout (s : State) : Host.Outcome State Fault Refusal :=
  live s (fun e =>
    match e.raf.parent, e.raf.orphanAt with
    | none, some t =>
      if e.isActing || decide (e.tal.state = 0 ∨ e.tal.state = 3) then e
      else
        let e := e.advance (t + 2 * e.syncInterval)
        if e.tal.state = 1 then e.tallyTo 0 else e.tallyTo 3
    | _, _ => e)

/-- HOLDOVER_BOUND_RISE: ERR_BOUND rises every 200,000 t; above 50 t the engine is FREE (R43, R551). -/
def atHoldoverBoundRise (s : State) : Host.Outcome State Fault Refusal :=
  live s (fun e =>
    if e.tal.state ≠ 3 then e
    else
      let e := e.advance e.raf.nextRise
      let b := e.tal.errBound + 1
      let e := { e with tal := { e.tal with errBound := b }, raf := { e.raf with nextRise := e.now + 200000 } }
      if 50 < b then e.tallyTo 0 else e)

end Sys2Proof.Machine
end

