-- ==== Sys2Proof/Machine/Frames.lean ====
section
/-!
DEFINITION. The frames of links: the commands CREDIT, CREDIT_REQ, CREDIT_RETURN, PEER_LOST, STEP_BCAST, STEP_LATE, STEP_ABORT,
FREEZE, SHELVER, MIRROR, MIRROR_ACK, ORDER, SUPERSEDED and ORDER_REPLY (spec/16_rafter_link.md R534 to R546).
-/
namespace Sys2Proof.Machine

/-- The INST and COUNT words of a CREDIT (R534). -/
def creditWords (len : Nat) (w : List Nat) : List (Nat × Nat) :=
  (List.range (min 16 (len / 2))).map (fun k =>
    let v := w.getD (k / 4) 0 / 2 ^ (16 * (k % 4)) % 65536
    (v % 16, v / 16))

/-- A CREDIT returns S credits, acknowledges sequenced frames, asks for a resend or gives B credits (R535, R536). -/
def Eng.creditTake (e : Eng) (l : Nat) (f : Frame) : Eng :=
  let k := e.link l
  let back := (bitsOf f.arg 15 0 + 65536 - k.sDone % 65536) % 65536
  let next := bitsOf f.arg 31 16
  let open_ := k.unacked.filter (fun g => decide ((g.seq + 65536 - next) % 65536 < 32768))
  let held := ((creditWords f.len f.words).filter (fun p => k.bAsked.contains p.1)).foldl (fun t p => tsetD t p.1 (tgetD t p.1 0 + p.2) 0) k.bHeld
  let k := { k with sDone := min k.sSent (k.sDone + back), unacked := open_, bHeld := held }
  let e := e.setLink l k
  let e := if bitOf f.arg 32 && !open_.isEmpty && e.linkActive l then
      (open_.foldl (fun e g => (e.emit (.frame l g)).count 0x1014 g.bytes (if g.pidV then some g.pid else none)) e).bump F.RAF_RETRY_COUNT
    else e
  e.flush l

/-- CREDIT. -/
def execCredit (link : Nat) (frame : RxFrame) (s : State) : Host.Outcome State Fault Refusal :=
  live s (fun e => e.recv link 4 frame (fun e f => e.creditTake link f))

/-- CREDIT_REQ: a hold of 1 to 8 buffers is asked for and granted from those free (R536). -/
def execCreditReq (link : Nat) (frame : RxFrame) (s : State) : Host.Outcome State Fault Refusal :=
  live s (fun e => e.recv link 5 frame (fun e f =>
    let n := bitsOf f.arg 7 4
    if n = 0 ∨ 8 < n then e
    else
      let k := e.link link
      let asks := k.bAsks ++ [(f.arg % 16, n)]
      grantHolds (e.setLink link { k with bAsks := asks }) link asks))

/-- CREDIT_RETURN: the hold is given back (R536). The frames of a link come in order and a frame is consumed as it comes, so every frame that
the hold's credits have been used for has been consumed, and all of its buffers are free. -/
def execCreditReturn (link : Nat) (frame : RxFrame) (s : State) : Host.Outcome State Fault Refusal :=
  live s (fun e => e.recv link 6 frame (fun e f =>
    let k := e.link link
    let i := f.arg % 16
    let k := { k with
      bFree := k.bFree + tgetD k.bGiven i 0, bGiven := tdel k.bGiven i, bAsks := k.bAsks.filter (fun a => decide (a.1 ≠ i)) }
    grantHolds (e.setLink link k) link k.bAsks))

/-- PEER_LOST: forwarded once, and the loss learnt (R553, R554). -/
def execPeerLost (link : Nat) (frame : RxFrame) (s : State) : Host.Outcome State Fault Refusal :=
  live s (fun e => e.recv link 7 frame (fun e f =>
    let c := f.arg % 64
    let t := bitsOf f.arg 63 8
    if e.raf.seenLost.contains (c, t) then e else (e.flood f.src c t (some link)).learnLost c t))

/-- STEP_BCAST: a segment is forwarded, and kept by a follower of its instance (R539, R540). -/
def execStepBcast (link : Nat) (frame : RxFrame) (s : State) : Host.Outcome State Fault Refusal :=
  live s (fun e => e.recv link 0x10 frame (fun e f =>
    let e := e.forward link f
    match e.followed f.src f.inst with
    | some i => e.segTake i f
    | none => e))

/-- STEP_LATE: the lead declares the step lost (R53, R206). -/
def execStepLate (link : Nat) (frame : RxFrame) (s : State) : Host.Outcome State Fault Refusal :=
  live s (fun e => e.recv link 0x11 frame (fun e f =>
    let x := e.inst f.inst
    match x.step with
    | some st => if x.active && x.lead && decide (st.num % 2 ^ 48 = f.arg % 2 ^ 48) then e.declareLost f.inst else e
    | none => e))

/-- STEP_ABORT: a follower's array discards the step (R53). -/
def execStepAbort (link : Nat) (frame : RxFrame) (s : State) : Host.Outcome State Fault Refusal :=
  live s (fun e => e.recv link 0x12 frame (fun e f =>
    match e.followed f.src f.inst with
    | some i => e.abort i f.src f.inst (f.arg % 2 ^ 48)
    | none => e))

/-- FREEZE: a follower halts the instance at the halt Tally, or at once if it has passed (R476). -/
def execFreeze (link : Nat) (frame : RxFrame) (s : State) : Host.Outcome State Fault Refusal :=
  live s (fun e => e.recv link 0x13 frame (fun e f =>
    match e.followed f.src f.inst with
    | some i =>
      let h := max f.arg e.now
      (e.modCtx i (fun c => { c with state := 1, freeze := true, halted := false, haltAt := some h })).tell (.halt i h)
    | none => e))

/-- The records of a SHELVER frame. -/
def shvRecs (w : List Nat) (fuel : List Nat) : List ShvRec :=
  match fuel with
  | [] => []
  | _ :: r => if w.length < 4 then [] else shvRecOf w :: shvRecs (w.drop 4) r

/-- SHELVER: a follower applies the records in order; the lead takes MOVE_DONE (R290, R292, R544). -/
def execShelver (link : Nat) (frame : RxFrame) (s : State) : Host.Outcome State Fault Refusal :=
  live s (fun e => e.recv link 0x18 frame (fun e f =>
    (shvRecs f.words f.words).foldl (fun e r =>
      if r.kind = 9 then (if (e.inst f.inst).lead then e.moveReport f.inst f.src r else e)
      else
        match e.followed f.src f.inst with
        | some i => e.shvApply i r
        | none => e) e))

/-! ### Mirroring (R545, R588 to R594) -/

/-- Keep one mirrored entry for chip `c`, or remove it where its STATE is FREE (R593). -/
def Eng.mirrorKeep (e : Eng) (c : Nat) (m : Mirror) : Eng :=
  let rest := e.ras.mirrors.filter (fun x => decide (x.chip ≠ c ∨ x.slot ≠ m.slot))
  { e with ras := { e.ras with mirrors := if m.rc.state = 0 then rest else rest ++ [m] } }

/-- Apply the entries of a MIRROR payload (R545). A stack line holds as many symbols as DEPTH says (R373). -/
def mirrorTake (e : Eng) (c : Nat) (w fuel : List Nat) : Eng :=
  match fuel with
  | [] => e
  | _ :: r =>
    if w.length < 17 then e
    else
      let h := w.getD 0 0
      let stack := bitOf h 24
      let n := if stack then 25 else 17
      let rc := recOf (BitVec.ofNat 1024 (ofWords ((w.drop 1).take 16)))
      let line := if stack then (wordBytes ((w.drop 17).take 8)).take (bitsOf rc.sieve 27 20) else []
      mirrorTake (e.mirrorKeep c { chip := c, slot := bitsOf h 23 0, rc, stack := line }) c (w.drop n) r

/-- MIRROR: the entries are kept and the mirror number acknowledged (R593). -/
def execMirror (link : Nat) (frame : RxFrame) (s : State) : Host.Outcome State Fault Refusal :=
  live s (fun e => e.recv link 0x20 frame (fun e f =>
    (mirrorTake e f.src f.words f.words).send { typ := 0x21, dst := f.src, arg := f.arg }))

/-- A buddy has applied mirrors up to `n`: it is CURRENT once every entry of the resync is acknowledged (R594). -/
def Buddy.ack (b : Buddy) (c n : Nat) : Buddy :=
  if b.chip ≠ some c ∨ !b.takes then b
  else
    let b := { b with acked := max b.acked n }
    if b.state = 1 ∧ b.syncs.all (fun p => decide (p.2 ≤ b.acked)) then { b with state := 2, syncs := [] } else b

/-- MIRROR_ACK: held records that wait for no acknowledgement any more are written (R591, R594). -/
def execMirrorAck (link : Nat) (frame : RxFrame) (s : State) : Host.Outcome State Fault Refusal :=
  live s (fun e => e.recv link 0x21 frame (fun e f =>
    ({ e with ras := { e.ras with sled := e.ras.sled.ack f.src f.arg, ring := e.ras.ring.ack f.src f.arg } }).mirrorFree))

/-! ### Orders between engines (R118, R546) -/

/-- An order from a peer: stamped, resolved and answered (R116 to R119, R546). -/
def Eng.peerOrder (e : Eng) (f : Frame) : Eng :=
  let d : DescBits := BitVec.ofNat 1024 (ofWords (f.words.take 16))
  let o := ordOf d
  let no := fun (st : Nat) => e.send { typ := 0x2A, dst := f.src, arg := f.arg, len := 8, words := [st] }
  if o.opcode < 2 ∨ 6 < o.opcode then no 0x2C
  else if !ordOk d then no 0x2B
  else
    let x : Order := {
      opcode := o.opcode, rqid := o.rqid, gen := o.gen, stamp := e.now, peer := some f.src, seq := f.arg, tag := o.userTag,
      flags := b2n o.setDeadline + 2 * b2n o.setMaxNew, deadline := o.deadlineLast, maxNew := o.maxNew }
    ({ e with hat := { e.hat with orders := e.hat.orders ++ [x] } }).resolve

/-- ORDER. -/
def execOrder (link : Nat) (frame : RxFrame) (s : State) : Host.Outcome State Fault Refusal :=
  live s (fun e => e.recv link 0x28 frame (fun e f => e.peerOrder f))

/-- Note the answer to an order that this engine has sent. -/
def Eng.orderAnswered (e : Eng) (n status : Nat) : Eng :=
  { e with raf := { e.raf with sentOrders := e.raf.sentOrders ++ [(n, status)] } }

/-- SUPERSEDED: the order lost its contention (R117, R118). -/
def execSuperseded (link : Nat) (frame : RxFrame) (s : State) : Host.Outcome State Fault Refusal :=
  live s (fun e => e.recv link 0x29 frame (fun e f => e.orderAnswered f.arg 0x1A))

/-- ORDER_REPLY: the order's completion status (R546). -/
def execOrderReply (link : Nat) (frame : RxFrame) (s : State) : Host.Outcome State Fault Refusal :=
  live s (fun e => e.recv link 0x2A frame (fun e f => e.orderAnswered f.arg (f.words.getD 0 0 % 256)))

end Sys2Proof.Machine
end

