-- ==== Sys2Proof/Machine/Power.lean ====
section
/-!
DEFINITION. The meanings of the commands of power leave (spec/15_power_leave_and_accounting.md).
-/
namespace Sys2Proof.Machine

/-- A charge in nJ to a partition's energy. -/
def Eng.addEnergy (e : Eng) (p n : Nat) : Eng := if n = 0 then e else e.modPart p (fun k => { k with energy := k.energy + n })

/-- The energy of one grant over the window [a, b), charged to the partitions that R502 names: what it charges in all, and the
engine. -/
def Eng.grantEnergy (e : Eng) (l : Leave) (a b : Nat) : Nat × Eng :=
  let en := l.sum a b / 4
  let tot := sumBy (fun (x : Nat × Nat) => x.2) l.split
  if l.split.isEmpty then (en, e.addEnergy l.pid en)
  else
    let parts := l.split.map (fun (x : Nat × Nat) => (x.1, en * x.2 / max 1 tot))
    (sumBy (fun (x : Nat × Nat) => x.2) parts, parts.foldl (fun e x => e.addEnergy x.1 x.2) e)

/-- Attribute the energy of the window [a, b) that ends with a delivered draw (R515), and the rate of the remainder (R516). -/
def Eng.attribute (e : Eng) (draw a b : Nat) : Eng :=
  let total := draw * 2500
  let g := e.kpr.grants.foldl (fun (acc : Nat × Nat × Eng) l =>
    let r := acc.2.2.grantEnergy l a b
    (acc.1 + l.sum a b / 4, acc.2.1 + r.1, r.2)) (0, 0, e)
  let e := g.2.2
  let rest := total - g.1
  let ns := sumBy (fun p => (e.part p).winNs) partRange
  let given := if ns = 0 then 0 else sumBy (fun p => rest * (e.part p).winNs / ns) partRange
  let e := if ns = 0 then e else partRange.foldl (fun e p => e.addEnergy p (rest * (e.part p).winNs / ns)) e
  { e with kpr := { e.kpr with unattr := e.kpr.unattr + (total - g.2.1 - given), rho := if ns = 0 then 0 else rest * 2 ^ 32 / ns } }

/-- The draw of the window just ended is delivered (R505, R506, R512, R515). -/
def Eng.deliver (e : Eng) (draw : Nat) : Eng :=
  let a := e.kpr.winStart
  let b := e.now
  let lm := sumBy (fun (l : Leave) => l.sum a b) e.kpr.grants / max 1 (b - a)
  let hi := decide (e.capEff < draw)
  let e := { e with kpr := { e.kpr with draw, base := some (draw - lm), overCap := hi } }
  let e := if hi then (e.bump F.KPR_POWER_OVER_COUNT).raiseE 0x0098 12 draw else e
  e.attribute draw a b

/-- DRAW_MISSING (spec/18 R577): no draw has been delivered; the baseline leaves no headroom until the next delivery. -/
def Eng.drawMissing (e : Eng) : Eng :=
  ({ e with kpr := { e.kpr with base := none } }).capture { code := 0x090, unit := 12 }

/-- LEAVE_WINDOW_START: at each whole multiple of 10,000 t. `draw` is what the management controller delivers. -/
def atLeaveWindowStart (draw : Option Nat) (s : State) : Host.Outcome State Fault Refusal :=
  live s (fun e =>
    let t := roundUp (max e.now e.kpr.nextWindow) 10000
    let e := e.advance t
    let e := if e.kprOn then (match draw with
      | some d => e.deliver (d % 8192)
      | none => e.drawMissing) else e
    let e := partRange.foldl (fun e p => e.modPart p (fun k => { k with winNs := 0 })) e
    let e := { e with kpr := { e.kpr with
      nextWindow := t + 1, winStart := t, grants := e.kpr.grants.filter (fun (l : Leave) => l.ended.isNone) } }
    if e.kprOn then e.leaveDecide else e)

/-- The requester is told that its grant has started, and its operation may start (R503). -/
def Eng.leaveBegin (e : Eng) (l : Leave) : Eng :=
  let e := { e with kpr := { e.kpr with grants := e.kpr.grants.map (fun (g : Leave) =>
    if g.cls = l.cls ∧ g.who = l.who ∧ g.start = l.start ∧ g.step = l.step then { g with started := true } else g) } }
  let e := e.emit (.leaveTold l.cls l.who l.start)
  if l.cls = 0 then e.tell (.loadConfig l.who l.step (e.tileMask (e.inst l.who).owner) (e.instModel l.who).cfgAddr)
  else if l.cls = 1 then
    let on := fun (c : PanCmd) => if c.id = l.who then { c with leaveOk := true } else c
    { e with pan := { e.pan with demand := e.pan.demand.map on, background := e.pan.background.map on } }
  else e

/-- LEAVE_START: the start Tally of the earliest grant not yet started has come (R503). -/
def atLeaveStart (s : State) : Host.Outcome State Fault Refusal :=
  live s (fun e =>
    match leastBy (fun (l : Leave) => l.start) (e.kpr.grants.filter (fun (l : Leave) => !l.started && l.ended.isNone)) with
    | some l => (e.advance l.start).leaveBegin l
    | none => e)

/-- A PREFILL request is refused (R510): every PREFILL slot of the waiting step is void, and with no slot left the instance triggers
again (R205). -/
def Eng.leaveRefuse (e : Eng) (l : Leave) : Eng :=
  let i := l.who
  let e := (e.bump F.KPR_LEAVE_REFUSED_COUNT).raiseP 0x0096 12 (e.inst i).owner (l.amt + 2 ^ 16 * (l.step % 2 ^ 48))
  let e := e.leaveTrace l 0x10
  let e := { e with kpr := { e.kpr with queue := e.kpr.queue.filter (fun (x : Leave) => decide (x ≠ l)),
                                        heldReqs := e.kpr.heldReqs.filter (fun (x : Leave) => decide (x ≠ l)) } }
  let c := e.comp i
  if c.num ≠ l.step then e
  else
    let v := voidWhere e i 0 0 (fun x => decide (x.kind = 2)) c.slots
    let e := v.2.modComp i (fun c => { c with slots := v.1, leaveOk := true })
    if allVoid (e.comp i).slots then e.allVoidEnd i else e

/-- A CONFIG or BULK request is late (R510). -/
def Eng.leaveLate (e : Eng) (l : Leave) : Eng :=
  let e := (e.bump F.KPR_LEAVE_LATE_COUNT).raiseP 0x0097 12 l.pid (l.cls + 2 ^ 16 * l.amt)
  let mark := fun (x : Leave) => if x = l then { x with late := true } else x
  ({ e with kpr := { e.kpr with queue := e.kpr.queue.map mark, heldReqs := e.kpr.heldReqs.map mark } }).leaveDecide

/-- LEAVE_WAIT_EXPIRY: the request that has waited longest has waited KPR_LEAVE_WAIT ticks (R510). -/
def atLeaveWaitExpiry (s : State) : Host.Outcome State Fault Refusal :=
  live s (fun e =>
    let w := e.av F.KPR_LEAVE_WAIT_WAIT
    let l := (e.kpr.queue ++ e.kpr.heldReqs).filter (fun (x : Leave) => !x.unmade && !x.late)
    match e.kprOn && decide (w ≠ 0), l with
    | true, x :: r =>
      let first := r.foldl (fun (a b : Leave) => if b.before a && !a.before b then b else a) x
      let e := e.advance (first.since + w)
      if first.cls = 2 then (e.leaveRefuse first).leaveDecide else e.leaveLate first
    | _, _ => e)

end Sys2Proof.Machine
end

