-- ==== Sys2Proof/Machine/Commit.lean ====
section
/-!
DEFINITION. Sampling a row and committing a slot (spec/09_sampler.md R344 to R367; spec/10_sieve.md R390 to R396; spec/04 R141 to
R150; spec/03 R102, R106).
-/
namespace Sys2Proof.Machine

/-! ### Sampling a row -/

/-- The draw of a sibling for a slot at an element, once its generator's load is complete (R406, R407). -/
def Eng.drawFor (e : Eng) (k sib depth : Nat) : Option Nat :=
  (e.rsu.ready.find? (fun p => decide (p.1 = k ∧ p.2.1 = sib))).map (fun p =>
    (((List.range depth).foldl (fun (g : Gen) _ => g.step) p.2.2).scramble).toNat)

/-- The draws of a row for every sibling that draws from it; none while one is not ready. -/
def drawsFor (e : Eng) (k depth : Nat) (sibs : List Nat) : Option (List Nat) :=
  match sibs with
  | [] => some []
  | s :: r =>
    match e.drawFor k s depth, drawsFor e k depth r with
    | some u, some l => some (u :: l)
    | _, _ => none

/-- The allowed set of a row in key order (R344 to R348). `counts` are those of its lanes' tables (R346), and `mask` tells which tokens
the mask allows. -/
def Eng.rowSet (e : Eng) (x : Slot) (r : Row) (counts : Tab Nat) (mask : Nat → Bool) : List KeyEnt :=
  let c := e.controls (e.firstOf x.lslot)
  let ents := rowEntries r.fmt r.len (natBytes r.data)
  keyed (((List.range r.len).zip ents).filterMap (fun p =>
    match p.2.1 with
    | some v => if mask p.1 then some (p.1, control c (tgetD counts p.1 0) p.1 v) else none
    | none => none))

/-- What a row gives for each drawing sibling's value (R350 to R353, R366). -/
def rowOut (c : Controls) (a : List KeyEnt) (us : List Nat) : RowOut :=
  let ks := us.map (pick c a)
  { toks := ks.map (fun k => k.map (fun x => x.tok))
    ranks := ks.map (fun k => (k.map (rankOf a)).getD 0)
    ds := ks.map (fun k => (k.map (fun x => x.d)).getD 0)
    sall := massOf a
    top := (a.take c.nlogprob).map (fun x => (x.tok, x.d)) }

/-- The mask of a row's key is empty, or its key has no entry (R394). -/
def Eng.maskEmpty (e : Eng) (x : Slot) (r : Row) : Bool :=
  match e.reqGrammar (e.firstOf x.lslot), r.cls with
  | some g, some c => gEmpty g (gClass g c)
  | some _, none => true
  | none, _ => false

/-- A row's lanes have taken in its whole mask, or it needs none (R390). -/
def Eng.maskReady (e : Eng) (x : Slot) (r : Row) : Bool :=
  (e.reqGrammar (e.firstOf x.lslot)).isNone || (e.sieveOn && (e.maskEmpty x r || r.maskIn))

/-- The bit of a token in the pages that a row's lanes have taken in (R390). -/
def Row.maskBit (r : Row) (t : Nat) : Bool := bitOf (tgetD r.mask (t / 32768) 0) (t % 32768)

/-- A row waits for its lanes' count tables (R346): its request has penalties, and one is not complete. -/
def Eng.countWaits (e : Eng) (k j : Nat) (x : Slot) (r : Row) : Bool :=
  (e.controls (e.firstOf x.lslot)).penal && (e.rowCounts k j r).isNone

/-- A row waits at the draw stage (R351, R408): nothing but a draw that is not ready keeps it from its token. -/
def Eng.drawWaits (e : Eng) (k j : Nat) (x : Slot) (c : RowCtl) (r : Row) : Bool :=
  f32Pos (e.controls (e.firstOf x.lslot)).temp && r.res.isNone && e.maskReady x r && !e.maskEmpty x r && !e.countWaits k j x r
    && (drawsFor e k 0 ((e.drawers x c.ndraw).map (fun d => d.1))).isNone

/-- Pages of a class become the most recently used (R391). -/
def Eng.usePages (e : Eng) (gid cls : Nat) : Eng :=
  let hit := fun (p : MaskPage) => decide (p.gid = gid ∧ p.cls = cls)
  { e with siv := { e.siv with cache := e.siv.cache.filter hit ++ e.siv.cache.filter (fun p => !hit p) } }

/-- A lane has finished with a row (R351 to R354): its result is kept, and the gang is free and without it from now on (R565). -/
def Eng.sampleRow (e : Eng) (i idx j : Nat) (x : Slot) (c : RowCtl) (r : Row) : Eng :=
  let k := smpKey i idx
  let first := e.firstOf x.lslot
  let ct := e.controls first
  let sibs := (e.drawers x c.ndraw).map (fun p => p.1)
  let nd := tget (e.nodesOf i x) j
  let depth := (nd.map (fun n => n.depth)).getD 0
  let put := fun (e : Eng) (o : RowOut) =>
    let e := (e.modSmp k (fun s => { s with rows := tmod s.rows j (fun r => { r with res := some o, data := [] }) })).countFill
    (e.rowLanes r).foldl (fun e p => e.wake (14 + p)) e
  if e.maskEmpty x r then put e { toks := sibs.map (fun _ => none), maskEmpty := true }
  else
    let us := if f32Pos ct.temp then drawsFor e k depth sibs else some (sibs.map (fun _ => 0))
    match us with
    | none => e
    | some us =>
      let mask := if (e.reqGrammar first).isSome then r.maskBit else fun _ => true
      let a := e.rowSet x r ((e.rowCounts k j r).getD []) mask
      let e := put e (rowOut ct a us)
      let e := (e.bump F.SMP_ROWS_COUNT).bump F.SMP_REFINE_COUNT (rowPasses ct a us - 3)
      match e.reqGrammar first, r.cls with
      | some _, some cl => (e.bump F.SIV_ROWS_COUNT).usePages (e.param first).grammarId cl
      | _, _ => e

/-! ### The walk (R362, R363, R393) -/

/-- A token drawn, with what its log-probability entry needs. -/
structure Drawn where
  tok : Nat
  rank : Nat
  d : Nat
  sall : Nat
  top : List (Nat × Nat)
deriving DecidableEq, Repr

/-- What a walk settles: tokens, accepted nodes, the ending status if a token ends the sibling, the configuration reached, and
whether a row gave no token (true: the mask allowed none). -/
structure Walk where
  out : List Drawn := []
  acc : List Nat := []
  ending : Option Nat := none
  pda : Option Pda := none
  noTok : Option Bool := none
deriving DecidableEq, Repr

/-- What a walk reads: nodes, the rows' results, which draw of a row is the sibling's, its stop token, the tokens it may still
commit, and its grammar. -/
structure WalkIn where
  nodes : Tab Node
  rows : Tab Row
  which : Nat
  stop : Option Nat
  left : Nat
  g : Option GImg

/-- The draw of a sibling from a row. -/
def RowOut.drawn (o : RowOut) (k : Nat) : Option Drawn :=
  match o.toks[k]? with
  | some (some t) => some { tok := t, rank := o.ranks.getD k 0, d := o.ds.getD k 0, sall := o.sall, top := o.top }
  | _ => none

/-- The status with which a token ends a sibling: the first row of R393 that holds. `n` is the number of tokens so far. -/
def endsSibling (w : WalkIn) (tok n : Nat) (o : Option PdaOut) : Option Nat :=
  if w.stop = some tok then some 0x08
  else if o = some .overflow then some 0x31
  else if o = some .dead ∨ o = some .notAllowed then some 0x30
  else if o = some .ended then some 0x0A
  else if w.left ≤ n then some 0x09
  else none

/-- The walk from a node (R362). -/
def walkFrom (w : WalkIn) (node : Nat) (k : Walk) (fuel : Nat) : Walk :=
  match fuel with
  | 0 => k
  | f + 1 =>
    match tget w.rows node with
    | none => k
    | some r =>
      match r.res with
      | none => k
      | some o =>
        match o.drawn w.which with
        | none => { k with noTok := some o.maskEmpty }
        | some d =>
          let out := k.out ++ [d]
          let a := match w.g, k.pda with
            | some g, some p => (fun (x : PdaOut × Pda) => (some x.1, some x.2)) (p.apply g d.tok)
            | _, _ => (none, k.pda)
          let en := endsSibling w d.tok out.length a.1
          let k := { k with out, pda := a.2, ending := en }
          if en.isSome then k
          else
            match w.nodes.find? (fun p => decide (p.2.parent = node ∧ p.2.tok = d.tok) && !p.2.pruned) with
            | none => k
            | some c => walkFrom w c.1 { k with acc := k.acc ++ [c.1] } f

/-! ### Records and log-probabilities -/

/-- The words of a log-probability entry (R367). -/
def logprobWords (n : Nat) (d : Drawn) : List Word :=
  let pairs := (List.range n).flatMap (fun r =>
    match d.top[r]? with
    | some t => [BitVec.ofNat 32 t.1, BitVec.ofNat 32 (logProb d.sall t.2)]
    | none => [0, 0])
  [BitVec.ofNat 32 (d.tok + 2 ^ 20 * d.rank), BitVec.ofNat 32 (logProb d.sall d.d)] ++ pairs

/-- Write the log-probability entries of tokens from number `g` on (R94, R367). -/
def logprobPut (e : Eng) (p : SubDesc) (sib g : Nat) (l : List Drawn) : Eng :=
  match l with
  | [] => e
  | d :: r =>
    let n := p.nlogprob
    let e := if g < p.maxNew then e.emit (.logprob (p.logprobAddr + (sib * p.maxNew + g) * 8 * (1 + n)) (logprobWords n d)) else e
    logprobPut e p sib (g + 1) r

/-- The token records of one commit (R106): six tokens a record, CONT on all but the last, FINAL and the ending status on the last
where the sibling ends. LOGPROB where every token of the record has an entry. -/
def tokenRecs (base : CmpRec) (p : SubDesc) (g : Nat) (ending : Option Nat) (l : List Nat) (fuel : Nat) : List CmpRec :=
  match fuel with
  | 0 => []
  | f + 1 =>
    let t := l.take 6
    let rest := l.drop 6
    let lp := decide (p.nlogprob ≠ 0 ∧ g + t.length ≤ p.maxNew)
    if rest.isEmpty then
      [{ base with status := ending.getD 0, final := ending.isSome, logprob := lp, ntok := t.length, toks := t }]
    else { base with cont := true, logprob := lp, ntok := 6, toks := t } :: tokenRecs base p (g + 6) ending rest f

/-! ### Settling a sibling (R365) -/

/-- Fields of a record after a commit of a walk (R364, R365). `pos` is the new POS. -/
def commitRec (r : LRec) (st : Step) (x : Slot) (w : Walk) (pos now posted : Nat) : LRec :=
  let n := w.out.length
  let state := if w.ending.isSome then 9 else if r.state = 7 ∨ r.state = 8 then r.state else 5
  { r with
    state
    prior := if state = 7 ∨ state = 8 then 5 else r.prior
    newCount := r.newCount + n
    pos
    lastToken := (w.out.getLast?.map (fun d => d.tok)).getD r.lastToken
    lastStep := st.num
    firstStamp := if r.firstStamp = 0 then now else r.firstStamp
    draftN := 0
    dsetLast := if r.draftV then x.dset else r.dsetLast
    copyN := w.acc.length
    posted := if r.draftV then posted else 0
    shared := false
    replay := 0 }

/-- Settle one sibling of a committing slot: the ending it meets without tokens (R145, R146, R150), or its walk. Answers the walk
that it committed, with the code that the sibling ended with. R120 names no code for a request under 3.x that is still live once a new hello has
agreed a version below 3.0 (R124): the model's choice is that it ends with 0x0A, 0x30 or 0x31 as before (DESIGN CHOICE, assumption log 74). -/
def Eng.settle (e : Eng) (i idx : Nat) (st : Step) (x : Slot) (s which posted : Nat) (root : Option Pda) : Walk × Eng :=
  match e.rc s with
  | none => ({}, e)
  | some r =>
    let at_ := some (e.now, st.num)
    let first := rqSlot r.rqid
    let p := e.param first
    if !r.live then ({}, e)
    else if r.deadlineLast ≠ 0 ∧ r.deadlineLast < e.now then ({ ending := some 0x18 }, e.endSib s 0x18 at_)
    else if p.grammarEn && decide (4 ≤ e.siv.retired.length) then ({ ending := some 0x3A }, e.endSib s 0x3A at_)
    else if r.maxNew ≤ r.newCount then ({ ending := some 0x09 }, e.endSib s 0x09 at_)
    else
      let rows := (tgetD e.smp.slots (smpKey i idx) {}).rows
      let w := walkFrom { nodes := e.nodesOf i x, rows, which, stop := if p.stopEn then some p.stopToken else none,
                          left := r.maxNew - r.newCount, g := e.reqGrammar first } 0 { pda := root } 66
      let toks := w.out.map (fun d => d.tok)
      let n := toks.length
      let e :=
        if n = 0 then e
        else
          let pos := if x.kind = 2 then r.prefillEnd else r.pos + n
          let e := toks.foldl (fun e t => e.histPut s t) e
          let e := (e.recUse s).modRc s (fun q => commitRec q st x w pos e.now posted)
          let e := match w.pda with
            | some q => e.setPda s q
            | none => e
          let e := e.mirror s false n
          let e := e.count 0x1006 n (some (rqPid r.rqid)) (some i)
          let e := e.modReq first (fun a => { a with tokens := a.tokens + n })
          let e := if p.nlogprob = 0 then e else logprobPut e p r.sib r.newCount w.out
          let base : CmpRec := { status := 0, sib := r.sib, gen := r.gen, ring := r.ring, rqid := r.rqid, tag := r.userTag,
                                 stamp := e.now, step := st.num }
          (tokenRecs base p r.newCount w.ending toks n).foldl (fun e v => e.report v) e
      let siv := w.ending = some 0x30 ∨ w.ending = some 0x31 ∨ w.ending = some 0x0A ∨ w.noTok = some true
      let e := if siv then e.bump F.SIV_ENDS_COUNT else e
      match w.noTok with
      | some true => ({ w with ending := some 0x30 }, e.endSib s 0x30 at_)
      | some false =>
        let e := e.capture { code := 0x023, unit := 8, rqid := r.rqid, gen := r.gen, pid := rqPid r.rqid, pidV := true, inst := i }
        ({ w with ending := some 0x3A }, e.endSib s 0x3A at_)
      | none => if w.ending.isNone && e.waitsHalted s then ({ w with ending := some 0x3A }, e.endSib s 0x3A at_) else (w, e)

/-! ### Committing a slot -/

/-- The array's proposals for the next slot, as it has written them into half DSET of the sibling's draft block (R359). -/
def Eng.putProposals (e : Eng) (d : Nat) (half : Bool) (nprop : Nat) (toks parents : List Nat) : Eng :=
  let k := draftKey d half
  let tab := fun (l : List Nat) (m : Nat) => ((List.range (min 64 l.length)).zip l).foldl (fun t p => tput t (p.1 + 1) (p.2 % m)) ([] : Tab Nat)
  let b := tgetD e.smp.drafts k {}
  let b := { b with nprop := min 64 nprop, toks := tab toks (2 ^ 20), parents := tab parents 128 }
  { e with smp := { e.smp with drafts := tput e.smp.drafts k b } }

/-- Store address of a draft block (R359). -/
def Eng.draftAddr (e : Eng) (d : Nat) (half : Bool) : Nat := e.pairv 0x4010 + 8192 * d + 4096 * b2n half

/-- NACC and PATH of a committed slot (R359, R364). -/
def Eng.putPath (e : Eng) (d : Nat) (half : Bool) (acc : List Nat) : Eng :=
  let b := tgetD e.smp.drafts (draftKey d half) {}
  let e := e.emit (.draftPath (e.draftAddr d half) acc)
  { e with smp := { e.smp with drafts := tput e.smp.drafts (draftKey d half) { b with nacc := acc.length, path := acc } } }

/-- A constrained slot with no Sieve engine left: its rows are not sampled, and its siblings end at its commit (R396). -/
def Eng.sieveless (e : Eng) (x : Slot) : Bool := (e.param (e.firstOf x.lslot)).grammarEn && decide (4 ≤ e.siv.retired.length)

/-- Every row of a slot has been received and sampled. -/
def SmpSlot.ready (s : SmpSlot) (n : Nat) : Bool := (List.range n).all (fun j => (tgetD s.rows j { fmt := 0, len := 0, data := [], lane := 0, gang := 0 }).res.isSome)

/-- The siblings of a LAST row settle in order (R141, R190), and the request splits (R277, R278). Answers sibling 0's walk and the
tokens of all. -/
def Eng.commitLast (e : Eng) (i idx : Nat) (st : Step) (x : Slot) (c : RowCtl) : Walk × Nat × Eng :=
  let first := e.firstOf x.lslot
  let ds := e.drawers x c.ndraw
  let root := e.sibPda x.lslot (e.reqGrammar first)
  let r := ((List.range ds.length).zip ds).foldl (fun (acc : List Walk × Eng) p =>
    let y := acc.2.settle i idx st x p.2.2 p.1 0 root
    (acc.1 ++ [y.1], y.2)) (([] : List Walk), e)
  let n := sumBy (fun (w : Walk) => w.out.length) r.1
  let shared := decide (1 < ds.length)
  let e := if n = 0 ∨ !shared then r.2
    else
      let y := r.2.splitRequest first
      y.1.foldl (fun e s => e.endSib s 0x13 (some (e.now, st.num))) y.2
  let e := ds.foldl (fun e (p : Nat × Nat) =>
    match e.rc p.2 with
    | some q => if q.state = 5 ∧ (e.param first).specEn then e.giveDraft p.2 else e
    | none => e) e
  (r.1.getD 0 {}, n, e)

/-- A DECODE or TREE slot settles (R362 to R364). -/
def Eng.commitOne (e : Eng) (i idx : Nat) (st : Step) (x : Slot) : Walk × Nat × Eng :=
  let root := e.sibPda x.lslot (e.reqGrammar (e.firstOf x.lslot))
  let nodes := if x.kind = 3 then (e.nodesOf i x).length else 0
  let p := some (rqPid x.rqid)
  let e := (e.bump F.SMP_DRAFT_NODES_COUNT nodes).count 0x1016 nodes p (some i)
  let dr := match e.rc x.lslot with
    | some r => if r.draftV then some r.draft else none
    | none => none
  let posted := match dr with
    | some d => (tgetD e.smp.drafts (draftKey d x.dset) {}).nprop
    | none => 0
  let y := e.settle i idx st x x.lslot 0 posted root
  let a := y.1.acc.length
  let e := (y.2.bump F.SMP_DRAFT_ACCEPTED_COUNT a).count 0x1017 a p (some i)
  let e := match dr with
    | some d => e.putPath d x.dset y.1.acc
    | none => e
  (y.1, y.1.out.length, e)

/-- A slot commits (R365): its tokens are settled, its lanes and join entry are free, and its sibling's next slot is bound. -/
def Eng.commitSlot (e : Eng) (i idx nprop : Nat) (toks parents : List Nat) (st : Step) (x : Slot) (c : RowCtl) : Eng :=
  let k := smpKey i idx
  let e := e.noteSeen
  let e := match e.rc x.lslot with
    | some r => if r.draftV && decide (x.kind ≠ 2) then e.putProposals r.draft x.dset nprop toks parents else e
    | none => e
  let y := if x.kind = 2 then e.commitLast i idx st x c else e.commitOne i idx st x
  let e := y.2.2
  let e := e.trace { kind := 6, inst := i, pid := rqPid x.rqid, pidV := true, status := y.1.ending.getD 0, sib := x.sib,
                     rqid := x.rqid, step := st.num, gen := x.gen, arg := y.2.1 % 128 + 2 ^ 8 * y.1.acc.length + 2 ^ 16 * idx }
  let e := (e.modSmp k (fun _ => { st := 4 })).countFill
  let e := (e.dropDraws (fun q => decide (q = k))).modStepSlot i idx (fun y => { y with done := true })
  (e.bindReady i).stepCheck i

end Sys2Proof.Machine
end

