-- ==== Sys2Proof/Machine/Sampler.lean ====
section
/-!
DEFINITION. The meanings of the Sampler's commands (spec/09_sampler.md).
-/
namespace Sys2Proof.Machine

/-- Bytes that a row takes on the port: header and payload. -/
def portBytes (fmt len : Nat) : Nat := 32 + rowBytes fmt len

/-- A discarded row: counted, its bytes on the port all the same (R335). -/
def Eng.discardRow (e : Eng) (f : Fld) (fmt len : Nat) : Eng := (e.bump f).count 0x1008 (portBytes fmt len)

/-- A row of a slot is accepted into a gang (R335, R336, R339): the join with a control half that has come, the data timer
otherwise, and the trigger of R25. -/
def Eng.acceptRow (e : Eng) (i idx j fmt len lane : Nat) (payload : List (BitVec 8)) (x : Slot) : Eng :=
  let k := smpKey i idx
  let e := e.works 8
  let e := (List.range (gangSize fmt len)).foldl (fun e n => match e.lanePhys (lane + n) with
    | some p => e.needOn (14 + p)
    | none => e) e
  let e := (e.count 0x1008 (portBytes fmt len)).count 0x1007 len (some (rqPid x.rqid)) (some i)
  let e := e.bump F.SMP_NONFINITE_COUNT (rowBad (rowEntries fmt len (natBytes payload)))
  let r : Row := { fmt, len, data := payload, lane, gang := gangSize fmt len }
  let e := e.modSmp k (fun s => { s with rows := tput s.rows j r })
  let s := tgetD e.smp.slots k {}
  let e := match s.st, s.ctl with
    | 0, some c => e.joinSlot i idx x c
    | 0, none => e.modSmp k (fun s => { s with st := 1, due := some (e.now + e.joinTimeout) })
    | 2, some c => (e.joinRow i idx j x c).countFill
    | _, _ => e
  e.lastRow i

/-- LOGIT_ROW: a row is checked under R335 and accepted or discarded. The port takes no header that finds no lane, or no join entry
for a slot that needs one (R338, R354), nor any while SMP_CTL.EN is clear. -/
def atLogitRow (tag : DWord) (len fmt : Nat) (payload : List (BitVec 8)) (s : State) : Host.Outcome State Fault Refusal :=
  live s (fun e =>
    let t := tag.toNat
    let i := bitsOf t 44 41
    let idx := bitsOf t 29 16
    let j := bitsOf t 36 30
    let x := e.inst i
    if !e.smpOn then e
    else if 4 < fmt ∨ !(x.active && x.lead) ∨ len ≠ (e.instModel i).vocab then e.discardRow F.SMP_DISCARD_BAD_COUNT fmt len
    else
      match x.step with
      | none => e.discardRow F.SMP_DISCARD_STALE_COUNT fmt len
      | some st =>
        if bitsOf t 40 37 ≠ st.epoch then e.discardRow F.SMP_DISCARD_EPOCH_COUNT fmt len
        else
          match st.slots[idx]?, e.smpSlot (smpKey i idx) with
          | some sl, some ss =>
            let past := match ss.ctl with
              | some c => decide (c.rows ≤ j)
              | none => false
            if decide (bitsOf t 15 0 ≠ st.num % 65536 ∨ 3 ≤ ss.st) || (tget ss.rows j).isSome || past then
              e.discardRow F.SMP_DISCARD_STALE_COUNT fmt len
            else if ss.st = 0 ∧ 128 ≤ e.joinUsed then e
            else
              match e.gangFor fmt len with
              | none => e
              | some lane => e.acceptRow i idx j fmt len lane payload sl
          | _, _ => e.discardRow F.SMP_DISCARD_STALE_COUNT fmt len)

/-- ROW_CONTROL_JOIN: the control half of a slot has arrived (R337). The Sieve computes the keys of a constrained slot's rows (R388),
and the slot joins the rows that wait for it (R339). -/
def atRowControlJoin (inst slot : Nat) (s : State) : Host.Outcome State Fault Refusal :=
  live s (fun e =>
    let k := smpKey inst slot
    match e.stepSlot inst slot, e.smpSlot k, tget e.smp.area (e.areaKey inst slot) with
    | some (_, x), some ss, some c =>
      if ss.ctl.isSome || decide (3 ≤ ss.st) || !e.smpOn then e
      else
        let e := e.modSmp k (fun s => { s with ctl := some c })
        let e :=
          if (e.reqGrammar (e.firstOf x.lslot)).isSome && e.sieveOn then
            let keys := 1 + ((e.nodesOf inst x).filter (fun n => !n.2.pruned)).length
            e.sieveWake.count 0x1018 keys (some (rqPid x.rqid)) (some inst)
          else e
        if ss.st = 1 then e.joinSlot inst slot x c else e
    | _, _, _ => e)

/-- DATA_TIMER_EXPIRY: the data timer of a slot in WAIT_CONTROL ends, and the slot is lost then (R339). -/
def atDataTimerExpiry (inst slot : Nat) (s : State) : Host.Outcome State Fault Refusal :=
  live s (fun e =>
    match e.smpSlot (smpKey inst slot) with
    | none => e
    | some ss =>
      match ss.st, ss.due with
      | 1, some t => (e.advance t).loseSlot inst slot 1
      | _, _ => e)

/-- A slot that the step timer loses (R339): a row has not been received, or one waits at the draw stage for a draw that is not ready. -/
def Eng.stepTimerHits (e : Eng) (i : Nat) (p : Nat × Slot) : Bool :=
  let k := smpKey i p.1
  let s := tgetD e.smp.slots k {}
  let waits := match s.ctl with
    | some c => s.rows.any (fun r => e.drawWaits k r.1 p.2 c r.2)
    | none => false
  p.2.rowed && !p.2.done && decide (s.st = 0 ∨ s.st = 2) && (decide (s.got p.2.rows < p.2.rows) || (decide (s.st = 2) && waits))

/-- STEP_TIMER_EXPIRY: the step timer of an instance's outstanding step ends (R339, R340). -/
def atStepTimerExpiry (inst : Nat) (s : State) : Host.Outcome State Fault Refusal :=
  live s (fun e =>
    match (e.inst inst).step with
    | none => e
    | some st =>
      match st.timer with
      | none => e
      | some t =>
        let e := e.advance t
        let e := e.modInst inst (fun x => { x with step := x.step.map (fun y => { y with timer := none }) })
        (((List.range st.slots.length).zip st.slots).filter (e.stepTimerHits inst)).foldl (fun e p => e.loseSlot inst p.1 2) e)

/-- ROW_SAMPLED: a lane's passes over a row are done. The row waits at intake for its mask pages, before its first pass for its count
tables, and at the draw stage for its draws (R346, R351, R390, R408). -/
def execRowSampled (inst slot row : Nat) (s : State) : Host.Outcome State Fault Refusal :=
  live s (fun e =>
    match e.stepSlot inst slot, e.smpSlot (smpKey inst slot) with
    | some (_, x), some ss =>
      match ss.ctl, tget ss.rows row with
      | some c, some r =>
        if ss.st = 2 ∧ r.res = none ∧ e.smpOn ∧ e.maskReady x r ∧ !e.countWaits (smpKey inst slot) row x r then e.sampleRow inst slot row x c r else e
      | _, _ => e
    | _, _ => e)

/-- SLOT_COMMIT: every row of a slot is sampled and its tokens settle (R339, R365). The operands are what the array has written for the
sibling's next slot: NPROP, and the tokens and parents of nodes 1 up (R359). A constrained slot waits for the Sieve (R392); with no Sieve
engine left it comes to its commit once its rows have been received (R396). -/
def execSlotCommit (inst slot nprop : Nat) (tokens parents : List Nat) (s : State) : Host.Outcome State Fault Refusal :=
  live s (fun e =>
    match e.stepSlot inst slot, e.smpSlot (smpKey inst slot) with
    | some (st, x), some ss =>
      match ss.ctl with
      | some c =>
        let held := (e.reqGrammar (e.firstOf x.lslot)).isSome && !e.sieveOn && decide (e.siv.retired.length < 4)
        let due := ss.ready x.rows || (e.sieveless x && decide (ss.got x.rows = x.rows))
        if ss.st = 2 ∧ due ∧ !held ∧ e.smpOn then e.commitSlot inst slot nprop tokens parents st x c else e
      | none => e
    | _, _ => e)

/-- SPARE_LANE_IN_SERVICE: the spare that serves a logical lane is powered and takes rows (R369). -/
def atSpareLaneInService (lane : Nat) (s : State) : Host.Outcome State Fault Refusal :=
  live s (fun e =>
    match e.smp.waking.find? (fun w => decide (w.2 = lane)) with
    | none => e
    | some w =>
      let e := e.needOn (14 + w.1)
      { e with smp := { e.smp with waking := e.smp.waking.filter (fun y => decide (y ≠ w)) } })

end Sys2Proof.Machine
end

