-- ==== Sys2Proof/Machine/Sieve.lean ====
section
/-!
DEFINITION. The meanings of the Sieve's commands (spec/10_sieve.md R383 to R391, R395).
-/
namespace Sys2Proof.Machine

/-- A page of the mask cache is held for a row that is not yet sampled (R391). -/
def Eng.pageHeld (e : Eng) (p : MaskPage) : Bool :=
  e.smp.slots.any (fun s => decide (s.2.st = 2) && s.2.rows.any (fun r => r.2.res.isNone && decide (r.2.cls = some p.cls))
    && (match e.stepSlot (s.1 / 16384) (s.1 % 16384) with
      | some (_, x) => decide ((e.param (e.firstOf x.lslot)).grammarId = p.gid)
      | none => false))

/-- The cache with one page less: the least recently used that is not held. -/
def dropPage (e : Eng) (l : List MaskPage) : List MaskPage :=
  match l.reverse.find? (fun p => !e.pageHeld p) with
  | some p => l.filter (fun q => decide (q ≠ p))
  | none => l

/-- The bitmap of a page of a class, whatever the class's form (R382, R391). -/
def pageBits (g : GImg) (cls page : Nat) : Nat :=
  sumBy (fun i => if gAllows g (gClass g cls) (32768 * page + i) then 2 ^ i else 0) (List.range (min 32768 (gVocab g - 32768 * page)))

/-- The lowest place of the cache that no page of the list takes. -/
def freeWay (l : List MaskPage) : Nat := ((List.range 2048).find? (fun w => !(l.any (fun p => decide (p.way = w))))).getD 0

/-- MASK_PAGE_FETCH: a page of a class's mask comes from Store into the cache, as a bitmap (R391), and the lanes that wait for it go on with
their intake (R390). It waits while every page is held. -/
def execMaskPageFetch (gid cls page : Nat) (s : State) : Host.Outcome State Fault Refusal :=
  live s (fun e =>
    let g := e.gramImg gid
    if !(e.gram gid).valid || !e.sieveOn || decide (imgField g 0x1C 4 ≤ cls ∨ maskPages (gVocab g) ≤ page) || e.pageIn gid cls page then e
    else
      let l := if e.siv.cache.length < 2048 then e.siv.cache else dropPage e e.siv.cache
      if 2048 ≤ l.length then e
      else
        let p : MaskPage := { gid, cls, page, way := freeWay l, bits := pageBits g cls page }
        let mem := (List.range 512).foldl (fun m k => tdel m (3 * 2 ^ 40 + 512 * p.way + k)) e.dbg.mem
        let e := ({ e with siv := { e.siv with cache := p :: l }, dbg := { e.dbg with mem } }).works 9
        (e.bump F.SIV_CACHE_MISS_COUNT).intakeAll gid)

/-- GRAMMAR_INSTALL: a GO write of SIV_INSTALL_CTL with OP 0 starts an install, unless one is in progress (R383). -/
def execGrammarInstall (data : Word) (s : State) : Host.Outcome State Fault Refusal :=
  live s (fun e =>
    let d := data.toNat
    let e := (e.poke F.SIV_INSTALL_CTL_GRAMMAR_ID (bitsOf d 15 0)).poke F.SIV_INSTALL_CTL_OP (bitsOf d 16 16)
    if !bitOf d 31 || bitOf d 16 || e.siv.install.isSome then e
    else { e with siv := { e.siv with install := some (bitsOf d 15 0, e.pairv 0x9020 / 4096 * 4096), result := 0 } })

/-- VOCAB of the Larder entry of a model, if the entry stands (R296). -/
def larderVocab (l : Option LarderBits) (mid : Nat) : Option Nat := (larderOf l mid).map (fun d => recField d 8 20 0)

/-- GRAMMAR_INSTALL_END: the checks of R384 have read the image. -/
def execGrammarInstallEnd (image : List (BitVec 8)) (larder : Option LarderBits) (readOk : Bool) (s : State) :
    Host.Outcome State Fault Refusal :=
  live s (fun e =>
    match e.siv.install with
    | none => e
    | some (id, addr) =>
      let g := natBytes image
      let old := e.gram id
      let r := installResult g (larderVocab larder (imgField g 8 2 % 4096)) (old.valid || old.draining) readOk
      let e := { e with siv := { e.siv with install := none, result := r } }
      if r = 1 then
        let e := { e with siv := { e.siv with cache := e.siv.cache.filter (fun p => decide (p.gid ≠ id)) } }
        let x : Gram := { valid := true, mid := imgField g 8 2 % 4096, addr, bytes := imgField g 0x28 4, image }
        (e.setGram id x).raiseE 0x0070 9 id
      else e.raiseE 0x0071 9 (id + 2 ^ 16 * r))

/-- GRAMMAR_REMOVE: a GO write of SIV_INSTALL_CTL with OP 1 removes a grammar at once, or sets it draining (R385). -/
def execGrammarRemove (data : Word) (s : State) : Host.Outcome State Fault Refusal :=
  live s (fun e =>
    let d := data.toNat
    let id := bitsOf d 15 0
    let e := (e.poke F.SIV_INSTALL_CTL_GRAMMAR_ID id).poke F.SIV_INSTALL_CTL_OP (bitsOf d 16 16)
    if !bitOf d 31 || !bitOf d 16 || e.siv.install.isSome then e
    else
      let g := e.gram id
      let res := fun (e : Eng) (r : Nat) => { e with siv := { e.siv with result := r } }
      if !g.valid then res e 9
      else if g.live = 0 then (res (e.setGram id g.removed) 1).raiseE 0x0072 9 id
      else res (e.setGram id { g with draining := true }) 1)

/-- A Sieve engine fails (R395, R396): it is retired and its work is re-run on the others. -/
def Eng.retireSieve (e : Eng) (n : Nat) : Eng :=
  if e.siv.retired.contains n || decide (4 ≤ n) then e
  else (({ e with siv := { e.siv with retired := sinsert e.siv.retired n } }).retireDom (82 + n)).raiseE 0x0073 9 n

end Sys2Proof.Machine
end

