-- ==== Sys2Proof/Machine/FaultOps.lean ====
section
/-!
DEFINITION. What a fault does (spec/18_errors_and_redundancy.md R575 to R586): its class, the action of its unit, a halted unit,
and quiesce.
-/
namespace Sys2Proof.Machine

/-! ### Codes, units and classes (R575, R577, "Protection") -/

/-- The unit of a fault code; a code of any unit takes the detector's. -/
def faultUnit (f : FaultIn) : Nat :=
  match f.code with
  | 0x001 => 15 | 0x002 => 14 | 0x003 => 16 | 0x013 => 1
  | 0x020 | 0x021 | 0x022 | 0x023 => 8
  | 0x030 | 0x031 | 0x032 => 7
  | 0x033 => 6
  | 0x040 | 0x041 => 9
  | 0x050 | 0x051 | 0x052 => 10
  | 0x060 | 0x061 => 11
  | 0x070 | 0x071 => 5
  | 0x080 => 13
  | 0x090 => 12
  | _ => f.unit

/-- Class of a memory or poison error by the unit whose memory or read it is ("Protection"); elsewhere as detected. -/
def memClass (f : FaultIn) : Nat :=
  match f.unit with
  | 2 => if f.cls = 0 then 0 else 1
  | 6 | 9 | 16 => 0
  | 4 | 5 | 7 | 8 | 11 => 1
  | 3 | 12 | 13 => 3
  | _ => min f.cls 3

/-- The class of a listed fault code (R577); none for a reserved code. -/
def faultClass (f : FaultIn) : Option Nat :=
  match f.code with
  | 0x001 | 0x002 | 0x003 | 0x004 => some 3
  | 0x010 => some 0
  | 0x011 | 0x012 => some (memClass f)
  | 0x022 | 0x032 | 0x051 => some 2
  | 0x013 | 0x020 | 0x021 | 0x023 | 0x030 | 0x031 | 0x033 | 0x040 | 0x041 | 0x050 | 0x052 | 0x060 | 0x061 | 0x070 | 0x071
  | 0x080 | 0x090 => some 1
  | _ => none

/-! ### Quiesce (R585) -/

/-- Queued Pantry commands are withdrawn; those with a piece started run only what has started (R585 item 3). -/
def Eng.withdrawQueued (e : Eng) : Eng :=
  let all := e.pan.demand ++ e.pan.background
  let begun := all.filter (fun c => decide (c.started ≠ 0))
  let gone := all.filter (fun c => decide (c.started = 0)) ++ e.pan.held
  let e := { e with pan := { e.pan with demand := [], background := [], held := [], running := e.pan.running ++ begun } }
  gone.foldl (fun e c =>
    match tget e.shv.ops c.id with
    | some op =>
      let e := { e with shv := { e.shv with ops := tdel e.shv.ops c.id } }
      if op.what = 0 then e.moveWithdrawn op.grp else e
    | none => e) e

/-- A quiesce starts (R585 items 1 to 3). During one, no second starts (R586). -/
def Eng.quiesceStart (e : Eng) (code unit : Nat) : Eng :=
  if e.quiet then e
  else
    let e := { e with ras := { e.ras with quiescing := true, quiesceAt := e.now, causeCode := code, causeUnit := unit } }
    ((e.discardAll).withdrawQueued).quiesceCheck

/-- A unit halts (R584). -/
def Eng.haltUnit (e : Eng) (u : Nat) : Eng := (e.setCap u { e.cap_ u with halted := true }).raiseE 0x0007 16 u

/-! ### Actions of units (R577, R580) -/

/-- HOST_ABORT: the ring's EN is cleared and RING_FAULT raised. -/
def Eng.ringFault (e : Eng) (r : Nat) : Eng :=
  if 256 ≤ r then e else (e.poke F.HAT_RING_CFG_EN 0 r).raiseP 0x0012 1 (e.ringPid r) r

/-- Put a command whose piece must be run again at the head of its queue (R331); with the queue full (R323) it stays among the running ones,
from where the piece starts as soon. -/
def Eng.rerunPiece (e : Eng) (id piece : Nat) : Eng :=
  match e.panCmd id with
  | none => e
  | some c =>
    let out := fun (l : List PanCmd) => l.filter (fun (x : PanCmd) => decide (x.id ≠ id))
    let c := { c with rerun := c.rerun ++ [piece] }
    let q := out (if c.demand then e.pan.demand else e.pan.background)
    if q.length < (if c.demand then 256 else 1024) then
      { e with pan := { e.pan with
        running := out e.pan.running, demand := if c.demand then c :: q else e.pan.demand, background := if c.demand then e.pan.background else c :: q } }
    else { e with pan := { e.pan with running := c :: out e.pan.running } }

/-- Every command fails with its source intact, those that the Shelver issues again among them (R332). -/
def panFailAll (e : Eng) (fuel : Nat) : Eng :=
  match fuel with
  | 0 => e
  | k + 1 =>
    match e.pan.running ++ e.pan.demand ++ e.pan.background with
    | [] => e
    | c :: _ => panFailAll (e.cmdEnd c 2) k

/-- Retire a pipe (R331, R332). -/
def Eng.retirePipe (e : Eng) (p : Nat) : Eng :=
  if 4 ≤ p ∨ e.pan.retired.contains p then e
  else
    let e := { e with
      pan := { e.pan with retired := sinsert e.pan.retired p, pipes := tdel e.pan.pipes p }
      rsu := { e.rsu with queue := e.rsu.queue.filter (fun j => decide (j.gen ≠ 68 + p)) } }
    (e.retireDom (10 + p)).raiseE 0x0051 7 p

/-- A pipe faults: retired, and its piece run again elsewhere. -/
def Eng.pipeFault (e : Eng) (p : Nat) : Eng :=
  let x := tget e.pan.pipes p
  let e := e.retirePipe p
  let e := match x with
    | some x => e.rerunPiece x.cmd x.piece
    | none => e
  if e.pan.retired.length < 4 then e
  else panFailAll e (4 * (e.pan.running ++ e.pan.demand ++ e.pan.background ++ e.pan.held).length)

/-- The step of an entry that Bins has lost is lost (R440): declared by the lead, or reported to it. -/
def Eng.binStepLost (e : Eng) (b : BinEnt) : Eng :=
  let x := e.inst b.inst
  match x.step with
  | none => e
  | some st =>
    if st.num % 65536 ≠ b.step then e
    else if x.lead then e.declareLost b.inst
    else
      (e.sendInst b.inst { typ := 0x11, dst := x.leadChip, arg := st.num % 2 ^ 48 }).bump F.RAF_LATE_SENT_COUNT

/-- A bank faults (R439, R440): bit k of `mask` set: its k-th entry cannot be read. -/
def Eng.bankFault (e : Eng) (k mask : Nat) : Eng :=
  if 8 ≤ k ∨ e.bin.retired.contains k then e
  else
    let r := e.retireBank k ((List.range 1024).filter (fun j => bitOf mask j))
    r.1.foldl (fun e b => (e.capture { code := 0x061, unit := 11, part := k, pid := b.pid, pidV := true, inst := b.inst }).binStepLost b) r.2

/-- An entry is lost (R440), by its place among the entries that Bins holds. -/
def Eng.entryLost (e : Eng) (k : Nat) : Eng :=
  match e.bin.entries[k]? with
  | none => e
  | some b =>
    let e := e.setBins (e.bin.entries.filter (fun x => decide (x ≠ b)))
    (((e.bump F.BIN_LOST_COUNT).raiseP 0x0081 11 b.pid (b.opid + two32 * b.step)).binReports [b]).binStepLost b

/-- PROG_IMEM: the slot's image is no longer valid; a composition running it goes on with the default program (R227). -/
def Eng.imemFault (e : Eng) (slot : Nat) : Eng :=
  if slot = 0 ∨ 8 ≤ slot then e
  else
    let e := { e with stw := { e.stw with progs := tmod e.stw.progs slot (fun p => { p with valid := false }) } }
    match e.stw.run with
    | some i => if e.stw.prog = slot then e.progFault i 0 else e
    | none => e

/-- PROG_DMEM: handled as a program fault (R249). -/
def Eng.dmemFault (e : Eng) : Eng :=
  match e.stw.run with
  | some i => e.progFault i 1
  | none => e

/-- A lane in service returns to PHY; with the link's last lane gone its chip has gone silent (R529, R542, R553, R554). -/
def Eng.laneLoss (e : Eng) (p : Nat) : Eng :=
  match (e.lane p).log with
  | none => e
  | some n =>
    let e := (e.laneOut p 1).raiseE 0x00A0 13 p
    if e.linkUp (laneLink n) then e else e.chipSilent (linkPeer e.self (laneLink n))

/-- All siblings of a request end with ST_ENGINE_FAULT. -/
def Eng.requestFault (e : Eng) (rqid gen : Nat) : Eng :=
  match e.named rqid gen with
  | some s => (e.sibs s).foldl (fun e x => e.endSib x 0x3A) e
  | none => e

/-- A command's source is lost (R329). -/
def Eng.sourceLost (e : Eng) (id : Nat) : Eng :=
  match e.panCmd id with
  | some c =>
    let e := { e with pan := { e.pan with pipes := e.pan.pipes.filter (fun p => decide (p.2.cmd ≠ id)) } }
    e.cmdEnd c 1
  | none => e

/-- The action of a unit on its own memory ("Protection"). -/
def Eng.memAction (e : Eng) (f : FaultIn) : Eng :=
  match f.unit with
  | 2 => if f.cls = 0 then e else e.requestFault f.rqid f.gen
  | 4 => if (e.inst f.inst).comp.isSome then (e.discardComp f.inst).giveTrigger f.inst else e
  | 5 => if f.sub = 0 then e.dmemFault else e.imemFault f.sub
  | 7 => e.pipeFault f.part
  | 8 => if f.part < 68 then e.retireLane f.part else e.loseSlot f.inst f.sub 3
  | 9 => { e with siv := { e.siv with cache := e.siv.cache.filter (fun p => decide (p.way ≠ f.sub)) } }
  | 11 => e.bankFault f.part f.sub
  | _ => e

/-- The reader's action on poisoned data: as for its own read error. -/
def Eng.poisonAction (e : Eng) (f : FaultIn) : Eng :=
  match f.unit with
  | 7 => e.sourceLost f.sub
  | 11 => e.entryLost f.sub
  | _ => e.memAction f

/-- The action of R577 for a fault, whether or not it was captured (R580). -/
def Eng.faultAction (e : Eng) (f : FaultIn) : Eng :=
  match f.code with
  | 0x011 => e.memAction f
  | 0x012 => e.poisonAction f
  | 0x013 => e.ringFault f.sub
  | 0x020 | 0x021 => e.retireLane f.part
  | 0x023 =>
    match e.named f.rqid f.gen with
    | some s => ((e.sibs s).filter (fun x => match e.rc x with
        | some r => decide (r.sib = f.sub)
        | none => false)).foldl (fun e x => e.endSib x 0x3A) e
    | none => e
  | 0x030 => e.pipeFault f.part
  | 0x031 => e.sourceLost f.sub
  | 0x032 => panFailAll e (4 * (e.pan.running ++ e.pan.demand ++ e.pan.background ++ e.pan.held).length)
  | 0x040 => e.retireSieve f.part
  | 0x050 =>
    let e := { e with rsu := { e.rsu with bad := sinsert e.rsu.bad f.sub } }
    if f.sub < 68 then e.retireLane f.sub else e.pipeFault (f.sub - 68)
  | 0x051 => { e with rsu := { e.rsu with jumpOk := false } }
  | 0x052 =>
    let n := (e.rsu.queue.filter (fun j => decide (j.gen = 72))).length
    let e := { e with rsu := { e.rsu with svcOk := false, queue := e.rsu.queue.filter (fun j => decide (j.gen ≠ 72)) } }
    (List.range n).foldl (fun e _ => e.tell .engineAbsent) e
  | 0x060 => e.bankFault f.part f.sub
  | 0x061 => e.entryLost f.sub
  | 0x070 => e.imemFault f.sub
  | 0x071 => e.dmemFault
  | 0x080 => e.laneLoss f.part
  | 0x090 => { e with kpr := { e.kpr with base := none } }
  | _ => e

/-- The record of a fault (R576). -/
def faultRec (f : FaultIn) (cls unit : Nat) (escalated : Bool) : FaultRec :=
  { code := f.code, cls, escalated, unit, part := f.part % 128, rqid := f.rqid, gen := f.gen, pid := f.pid, pidV := f.pidV,
    inst := f.inst, syndrome := f.syndrome, addr := f.addr }

/-- A fault is captured and acted on (R578, R580, R583). A lost group is recorded where its loss is carried out (R289). -/
def Eng.fault (e : Eng) (f : FaultIn) : Eng :=
  match faultClass f with
  | none => e
  | some cls =>
    let u := faultUnit f
    let esc := decide (cls = 3) || (decide (cls = 2) && e.anyHandling)
    if f.code = 0x033 then
      match e.grp f.sub with
      | some g => e.groupLost f.sub g
      | none => e
    else
      let e := e.capture (faultRec f cls u (esc && !e.quiet))
      let e := e.faultAction f
      if esc then e.quiesceStart f.code u
      else if cls = 2 then e.haltUnit u
      else e

/-- A fault that another one brings about. -/
def bareFault (code : Nat) : FaultIn :=
  { code, unit := 0, cls := 1, part := 0x7F, rqid := 0, gen := 0, pid := 0, pidV := false, inst := 0, sub := 0, syndrome := 0, addr := 0 }

/-- A fault, and what follows where it has taken the last lane, pipe or Sieve engine (R332, R370, R396). The faults of one tick, with its POPs,
are taken in the order of the queue (R582; DESIGN CHOICE, assumption log 64). -/
def Eng.faultAll (e : Eng) (f : FaultIn) : Eng :=
  let lanes := decide (0 < e.lanesActive)
  let pipes := decide (e.pan.retired.length < 4)
  let sieves := decide (e.siv.retired.length < 4)
  let e := e.fault f
  let e := if lanes && decide (e.lanesActive = 0) then e.fault (bareFault 0x022) else e
  let e := if pipes && decide (4 ≤ e.pan.retired.length) then e.fault (bareFault 0x032) else e
  if sieves && decide (4 ≤ e.siv.retired.length) then e.fault (bareFault 0x041) else e

end Sys2Proof.Machine
end

