-- ==== Sys2Proof/Machine/Errors.lean ====
section
/-!
DEFINITION. Errors and redundancy: the commands BUDDY_TIMEOUT, FAULT, QUIESCE_WAIT_EXPIRY, POP and TAKEOVER
(spec/18_errors_and_redundancy.md).
-/
namespace Sys2Proof.Machine

/-- A buddy that no ACTIVE link reaches becomes LOST once its link has been out of ACTIVE for 2 × INTERVAL (R594). `ring` names the ring buddy. -/
def atBuddyTimeout (ring : Bool) (s : State) : Host.Outcome State Fault Refusal :=
  live s (fun e =>
    let b := if ring then e.ras.ring else e.ras.sled
    match b.chip with
    | none => e
    | some c => if b.state ≠ 3 ∧ e.reaches c = false then (e.advance (e.linkDownAt c + 2 * e.syncInterval)).buddyLost ring else e)

/-- FAULT: captured or counted, with its unit's action, a halt or a quiesce (R578 to R586). -/
def execFault (f : FaultIn) (s : State) : Host.Outcome State Fault Refusal := live s (fun e => e.faultAll f)

/-- The step of an instance that a quiesce gives up (R585 item 4). -/
def Eng.giveUp (e : Eng) (i : Nat) : Eng :=
  let x := e.inst i
  match x.step with
  | none => e
  | some st =>
    if x.lead then e.declareLost i
    else (e.abort i x.leadChip x.leadInst (st.num % 2 ^ 48)).quiesceCheck

/-- QUIESCE_WAIT_EXPIRY: every step still outstanding RAS_QUIESCE_WAIT ticks after Q is declared lost (R585). -/
def atQuiesceWaitExpiry (s : State) : Host.Outcome State Fault Refusal :=
  live s (fun e =>
    if !e.ras.quiescing then e
    else
      let e := e.advance (e.ras.quiesceAt + e.fv F.RAS_QUIESCE_WAIT_WAIT)
      (instRange.foldl (fun e i => e.giveUp i) e).quiesceCheck)

/-- POP: the second capture moves up, or HANDLING clears (R581); while RAS_UNIT_SEL names nothing, BAD_ACCESS (R620). -/
def execPop (data : Word) (s : State) : Host.Outcome State Fault Refusal :=
  live s (fun e =>
    let u := e.fv F.RAS_UNIT_SEL_UNIT
    if u = 0 ∨ 16 < u then e.badAccess 0xF028 true
    else if !bitOf data.toNat 0 then e
    else
      let c := e.cap_ u
      match c.cap2 with
      | some r => e.setCap u { c with cap1 := some r, cap2 := none }
      | none => e.setCap u { c with cap1 := none, handling := false })

/-! ### Takeover (R596 to R598) -/

/-- The ring buddy of a chip (R587): its own slot of the next sled. -/
def ringBuddyOf (n : Nat) : Nat := 8 * ((n / 8 + 1) % 8) + n % 8

/-- RAS_TAKEOVER_STATUS.RESULT (R596). This engine holds the mirrors of chip `n` where it holds an entry of it; a takeover removes none (assumption
log 45). -/
def Eng.takeoverCheck (e : Eng) (n : Nat) : Nat :=
  let m := tgetD e.raf.chips n {}
  let sled := e.raf.mapLoaded && m.present && decide (m.buddy = e.self)
  let ring := e.raf.mapLoaded && decide (16 ≤ e.raf.npresent ∧ ringBuddyOf n = e.self)
  if !e.raf.lost.contains n then 2
  else if !(sled || ring) || !e.ras.mirrors.any (fun m => decide (m.chip = n)) then 3
  else if !sled && !e.raf.lost.contains m.buddy then 4
  else if e.ras.taken.contains n then 5
  else 1

/-- A mirrored record as a takeover starts it: queued for the Gate, its committed tokens to be replayed (R597, R598). -/
def takenRec (r : LRec) : LRec :=
  { r with
    state := 1, hold := false, pos := 0, replay := r.newCount, shared := decide (r.newCount = 0), admitStamp := 0, deferredAt := none
    pagesResv := 0, ctxCharge := 0, prior := 0, firstMissed := false, inst := 0 }

/-- What a takeover adopts of one mirrored request: its live siblings and its shadow (R597 items 1 and 2). -/
def takenReq (l : List Mirror) (shadow : List ShadowReq) : Adopted :=
  let slot := match l.find? (fun m => !m.rc.kind) with
    | some m => m.slot
    | none => (l.map (fun m => rqSlot m.rc.rqid)).headD 0
  let sh : ShadowReq := (shadow.find? (fun x => decide (x.slot = slot))).getD { slot, param := 0, prompt := [], bias := [], tokens := [] }
  { param := sh.param, prompt := sh.prompt, bias := sh.bias
    sibs := l.map (fun m => (m.rc, sh.tokens.getD m.rc.sib [], m.stack)) }

/-- Take over one request (R597). Answers whether it was taken. -/
def Eng.takeReq (e : Eng) (l : List Mirror) (shadow : List ShadowReq) : Bool × Eng :=
  match l with
  | [] => (false, e)
  | m :: _ =>
    let r := m.rc
    let p := rqPid r.rqid
    if !decide (e.ringKind r.ring = 0 ∧ e.ringPid r.ring = p) then
      (false, e.raise { code := 0x00B2, unit := 16, pid := p, part := true, rqid := r.rqid, gen := r.gen, arg := r.ring })
    else
      let a := takenReq l shadow
      if e.pagesFree < a.pages then
        (false, e.complete { (ordRec 0x15 r.ring r.gen r.rqid r.userTag e.now true) with sib := 0x3F })
      else
        match e.adopt p r.ring a takenRec with
        | none => (false, e.complete (ordRec 0x15 r.ring r.gen r.rqid r.userTag e.now true))
        | some (slots, e) =>
          let s0 := slots.headD 0
          let new := match e.rc s0 with
            | some x => (x.rqid, x.gen)
            | none => (0, 0)
          let e := slots.foldl (fun e s => e.mirror s (decide (s = s0)) (tgetD e.led.gent s []).length) e
          let e := e.queueFresh e.hat.orderSeq s0
          (true, e.raise { code := 0x00B1, unit := 16, pid := p, part := true, rqid := r.rqid, gen := r.gen,
                           arg := new.1 + two32 * new.2 })

/-- Take over every mirrored request of a chip that has a live sibling, by request. -/
def Eng.takeAll (e : Eng) (n : Nat) (shadow : List ShadowReq) : Nat × Eng :=
  let all := e.ras.mirrors.filter (fun m => decide (m.chip = n) && m.rc.live)
  let ids := (all.map (fun m => m.rc.rqid)).eraseDups
  ids.foldl (fun (acc : Nat × Eng) q =>
    let l := osort (fun (a b : Mirror) => decide (a.rc.sib ≤ b.rc.sib)) (all.filter (fun m => decide (m.rc.rqid = q)))
    let r := acc.2.takeReq l shadow
    (acc.1 + b2n r.1, r.2)) (0, e)

/-- TAKEOVER: a write of RAS_TAKEOVER; GO starts a takeover of CHIP (R596, R597). -/
def execTakeover (data : Word) (shadow : List ShadowReq) (s : State) : Host.Outcome State Fault Refusal :=
  live s (fun e =>
    let n := bitsOf data.toNat 5 0
    let e := e.poke F.RAS_TAKEOVER_CHIP n
    if !bitOf data.toNat 31 then e
    else
      let r := e.takeoverCheck n
      let e := e.poke F.RAS_TAKEOVER_STATUS_RESULT r
      if r ≠ 1 then e
      else
        let x := e.takeAll n shadow
        let e := x.2.poke F.RAS_TAKEOVER_STATUS_COUNT x.1
        { e with ras := { e.ras with taken := sinsert e.ras.taken n } })

end Sys2Proof.Machine
end

