-- ==== Sys2Proof/Machine/Random.lean ====
section
/-!
DEFINITION. The Random Stream Unit's jump-ahead unit, service generator and probe (spec/11_random_streams.md R406 to R413).
-/
namespace Sys2Proof.Machine

/-- The next jump that the unit accepts (R411): lane generators, the service generator, Pantry generators, the probe; lower unit
first, then the one that has waited longest. -/
def Eng.nextJump (e : Eng) : Option Jump := leastBy (fun (j : Jump) => j.rank * 128 + j.gen) e.rsu.queue

/-- A generator is out of service: its load is never made. -/
def Eng.genBad (e : Eng) (g : Nat) : Bool := e.rsu.bad.contains g || (decide (g = 72) && !e.rsu.svcOk)

/-- A completed jump is handed to its requester: a slot's draw, a pipe's generator, the service request or the probe. -/
def Eng.jumpGive (e : Eng) (j : Jump) : Eng :=
  let g := (rootOf j.seed).jump j.pos
  let e := { e with rsu := { e.rsu with queue := dropFirst j e.rsu.queue } }
  let e := e.bump F.RSU_JUMPS_COUNT
  if e.genBad j.gen then e
  else if j.gen < 68 then
    if (tgetD e.smp.slots j.key {}).st = 2 then { e with rsu := { e.rsu with ready := e.rsu.ready ++ [(j.key, j.sub, g)] } } else e
  else if j.gen < 72 then { e with rsu := { e.rsu with gens := tput e.rsu.gens j.gen g } }
  else if j.gen = 72 then (e.bump F.RSU_SVC_DRAWS_COUNT j.key).tell (.service (g.draws j.key))
  else { e with rsu := { e.rsu with probeBusy := false, probeOut := g.scramble } }

/-- The RSU works: it is enabled and not halted, and its domain is ON (R566, R584). -/
def Eng.rsuOn (e : Eng) : Bool := e.fb F.RSU_CTL_EN && !e.unitHalted 10 && e.domOn 86

/-- JUMP_DONE: the jump-ahead unit completes the jump that it accepted (R410). -/
def execJumpDone (s : State) : Host.Outcome State Fault Refusal :=
  live s (fun e =>
    if !e.rsuOn || !e.rsu.jumpOk then e
    else match e.nextJump with
      | some j => e.jumpGive j
      | none => e)

/-- The service seed. -/
def Eng.svcSeed (e : Eng) : Nat := e.pairv 0xA010 + 2 ^ 64 * e.pairv 0xA018

/-- The slot that a service request names, if R413 finds nothing wrong with it. -/
def Eng.svcSlot (e : Eng) (r : BitVec 128) : Option Slot :=
  let i := (r.extractLsb' 0 4).toNat
  match (e.inst i).step with
  | none => none
  | some st =>
    match st.slots[(r.extractLsb' 20 14).toNat]? with
    | none => none
    | some x =>
      if (r.extractLsb' 4 16).toNat = st.num % 65536 ∧ (r.extractLsb' 34 4).toNat = st.epoch ∧ x.kind ≠ 0
          ∧ (r.extractLsb' 40 32).toNat + (r.extractLsb' 72 16).toNat ≤ 0xFFFFFFFF then some x
      else none

/-- SERVICE_REQUEST: the array asks for draws (R412). A request that names no slot of the step is answered with zeros (R413); any
other waits for its jump. With the engine absent, or the service generator out of service, the answer is ENGINE_ABSENT (R574,
R577). A halted RSU takes no request (R584). -/
def execServiceRequest (req : BitVec 128) (s : State) : Host.Outcome State Fault Refusal :=
  liveOr s (fun e => e.tell .engineAbsent) (fun e =>
    let n := (req.extractLsb' 72 16).toNat + 1
    if e.unitHalted 10 then e
    else if !e.rsu.svcOk then e.tell .engineAbsent
    else match e.svcSlot req with
    | none => (e.bump F.RSU_SVC_BAD_COUNT).tell (.service (List.replicate n 0))
    | some x =>
      let i := (req.extractLsb' 0 4).toNat
      let sn := streamNo (e.inst i).mid (drawRqid x.rqid x.drawSlot) x.sib x.pos (12 + (req.extractLsb' 38 2).toNat)
      let j : Jump := { rank := 2, gen := 72, seed := e.svcSeed, pos := streamPos sn (req.extractLsb' 40 32).toNat, key := n }
      { e with rsu := { e.rsu with queue := e.rsu.queue ++ [j] } })

/-- The packed coordinate of the probe registers. -/
def Eng.probeCoord (e : Eng) : Nat :=
  sumBy (fun n => (e.reg (0xA040 + 4 * n)).toNat * 2 ^ (32 * n)) (List.range 9)

/-- RSU_PROBE: a write of RSU_PROBE_CTL with GO starts the draw of the probe coordinate; no effect while BUSY is 1, or while
the RSU is halted (R584). -/
def execRsuProbe (data : Word) (s : State) : Host.Outcome State Fault Refusal :=
  live s (fun e =>
    if !data.getLsbD 31 || e.rsu.probeBusy || e.unitHalted 10 then e
    else
      let c := e.probeCoord
      let f := fun (hi lo : Nat) => bitsOf c hi lo
      let j : Jump := { rank := 4, gen := 73, seed := f 127 0, pos := streamPos (streamNo (f 139 128) (f 171 140) (f 177 172) (f 225 178) (f 229 226)) (f 261 230) }
      { e with rsu := { e.rsu with probeBusy := true, queue := e.rsu.queue ++ [j] } })

end Sys2Proof.Machine
end

