-- ==== Sys2Proof/Machine/StwOps.lean ====
section
/-!
DEFINITION. The Steward's mechanics (spec/06_steward_core.md R228 to R249): register files, guards, the writes that a bundle
queues, and the end of a bundle. A bundle is the X and Y syllables that have executed and the V syllable that closes it.
-/
namespace Sys2Proof.Machine

/-- Cycle limit in force; values below 4,096 stand for 4,096. -/
def Eng.stwLimit (e : Eng) : Nat := max 4096 (e.av F.STW_LIMIT_CYCLES)

/-- The occasion on which a breakpoint may hit, of which there is one hit: the Tally, or for type PC the place in the composition that runs. -/
def Eng.brkKey (e : Eng) (b : Brk) : Nat := if b.typ = 3 then (e.comp (e.stw.run.getD 0)).uid * two32 + e.stw.cycles else e.now

/-- A breakpoint of type PC hits: its bundle is next to issue (R612). -/
def Eng.pcHits (e : Eng) (b : Brk) : Bool :=
  decide (b.typ = 3 ∧ b.hitAt ≠ some (e.brkKey b)) && e.stw.run.isSome && !e.bundleOpen
    && decide (e.stw.prog = bitsOf b.val 2 0 ∧ e.stw.pc = bitsOf b.val 14 3)

/-- The next bundle waits for a breakpoint that halts the Steward before it issues (R611 to R613). -/
def Eng.pcStops (e : Eng) : Bool := e.dbg.brks.any (fun p => bitOf p.2.acts 1 && e.pcHits p.2)

/-- The Steward may issue: a composition runs, the limit has not been reached, and it is neither halted (R611) nor out of
service. -/
def Eng.stwIssues (e : Eng) : Bool :=
  e.stw.run.isSome && decide (e.stw.cycles < e.stwLimit) && !e.stwStopped && !e.pcStops && !e.unitHalted 5

/-- A scalar register; s0 reads 0. -/
def Eng.sreg (e : Eng) (r : Nat) : DWord := if r = 0 then 0 else tgetD e.stw.s r 0

/-- A lane of a wide register. -/
def Eng.vlane (e : Eng) (r l : Nat) : DWord := tgetD e.stw.v (4 * r + l) 0

/-- A predicate register; q0 reads 0b1111. -/
def Eng.preg (e : Eng) (r : Nat) : BitVec 4 := if r = 0 then 15 else tgetD e.stw.q r 0

/-- The four lanes. -/
def lanes4 : List Nat := [0, 1, 2, 3]

/-- Bit l of a predicate. -/
def pbit (q : BitVec 4) (l : Nat) : Bool := q.getLsbD l

/-- Whether a guard enables a lane (R232). -/
def Eng.guardLane (e : Eng) (g : BitVec 3) (gn : Bool) (l : Nat) : Bool := xor (pbit (e.preg g.toNat) l) gn

/-- Queue a write for the end of the bundle (R233). -/
def Eng.later (e : Eng) (w : BWrite) : Eng := { e with stw := { e.stw with wr := e.stw.wr ++ [w] } }

/-- A predicate with every bit equal. -/
def pall (b : Bool) : BitVec 4 := if b then 15 else 0

/-- A predicate from its four bits. -/
def pmask (f : Nat → Bool) : BitVec 4 := BitVec.ofNat 4 (sumBy (fun l => if f l then 2 ^ l else 0) lanes4)

/-- A write takes effect; writes to s0 and q0 are discarded. -/
def Eng.bundleWrite (e : Eng) (w : BWrite) : Eng :=
  match w with
  | .scalar r v => if r = 0 then e else { e with stw := { e.stw with s := tsetD e.stw.s r v 0 } }
  | .lane k v => { e with stw := { e.stw with v := tsetD e.stw.v k v 0 } }
  | .pred r v => if r = 0 then e else { e with stw := { e.stw with q := tsetD e.stw.q r v 0 } }
  | .ctx k v => if k = 15 then { e with stw := { e.stw with cfg := v.toNat } } else if k = 16 then { e with stw := { e.stw with est := v } } else e
  | .mem k v =>
    { e with
      stw := { e.stw with dmem := tsetD e.stw.dmem k v 0 }
      dbg := { e.dbg with mem := tdel e.dbg.mem (6 * 2 ^ 40 + 28 * 2048 + k) } }

/-- Bundles of the program that runs; slot 0 holds the 11 of the default program (R225). -/
def Eng.progLen (e : Eng) : Nat := if e.stw.prog = 0 then 11 else (tgetD e.stw.progs e.stw.prog {}).nbundle

/-- The writes of the bundle take effect and its cycles are counted (R233, R234, R600): nothing of it is open any more. -/
def Eng.bundleEnd (e : Eng) (n : Nat) : Eng :=
  let w := e.stw
  let e := w.wr.foldl (fun e x => e.bundleWrite x) { e with stw := { w with wr := [], seen := none }, dbg := { e.dbg with stepOne := false } }
  let e := { e with stw := { e.stw with cycles := e.stw.cycles + n, target := none, ending := false, dmemFault := false } }
  match w.run with
  | some i => e.count 0x1005 n (some (e.inst i).owner) (some i)
  | none => e

/-- What follows a bundle: the next one, the end of the composition or a fault (R233, R247, R249). `w` is the Steward as the bundle left it.
Where the composition has gone in the bundle's hold, nothing follows. -/
def Eng.bundleNext (e : Eng) (i uid : Nat) (w : Stw) : Eng :=
  if e.stw.run ≠ some i ∨ (e.comp i).uid ≠ uid then e
  else if w.dmemFault then e.progFault i 1
  else if w.ending then e.endComp i
  else
    let t := w.target.getD ((w.pc : Int) + 1)
    let e := { e with stw := { e.stw with pc := t.toNat } }
    if t < 0 ∨ (e.progLen : Int) ≤ t then e.progFault i 2 else e

/-- The Steward issues a syllable of the state: the engine is out of reset and a composition runs. -/
def State.issues (s : State) : Bool := !s.boot.absent && s.eng.stwIssues

/-- A scalar syllable: it acts when the Steward issues and bit 0 of its guard allows (R232). -/
def scalar (g : BitVec 3) (gn : Bool) (s : State) (f : Eng → Eng) : Host.Outcome State Fault Refusal :=
  live s (fun e => if e.stwIssues && e.guardLane g gn 0 then f e else e)

/-- A scalar syllable that writes one register. -/
def scalarTo (g : BitVec 3) (gn : Bool) (d : BitVec 5) (s : State) (f : Eng → DWord) : Host.Outcome State Fault Refusal :=
  scalar g gn s (fun e => e.later (.scalar d.toNat (f e)))

/-- A scalar syllable that writes one predicate; the field's upper bits are 0 (R231). -/
def predTo (g : BitVec 3) (gn : Bool) (d : Nat) (s : State) (f : Eng → BitVec 4) : Host.Outcome State Fault Refusal :=
  scalar g gn s (fun e => e.later (.pred (d % 8) (f e)))

/-- Write the enabled lanes of a wide register. -/
def Eng.laneWrites (e : Eng) (g : BitVec 3) (gn : Bool) (d : Nat) (f : Nat → DWord) : Eng :=
  lanes4.foldl (fun x l => if e.guardLane g gn l then x.later (.lane (4 * d + l) (f l)) else x) e

/-- The sign-extended 18-bit immediate. -/
def imm18 (x : BitVec 18) : DWord := x.signExtend 64

/-- The sign-extended 16-bit immediate. -/
def imm16 (x : BitVec 16) : DWord := x.signExtend 64

/-! ### Context registers (R236) -/

/-- The value of a listed context register. -/
def Eng.ctxReg (e : Eng) (k : Nat) : Option DWord :=
  let i := e.stw.run.getD 0
  let c := e.comp i
  let x := e.inst i
  let n := fun (v : Nat) => some (BitVec.ofNat 64 v)
  match k with
  | 0 => n i
  | 1 => n c.start
  | 2 => n e.now
  | 3 => n (e.budget i)
  | 4 => n (e.budgetLeft i c)
  | 5 => n (e.slotsLeft i c)
  | 6 => n c.cratesLeft
  | 7 => n (reservedOf c.slots)
  | 8 => n (e.chunkMax i)
  | 9 => n (e.av F.CMP_URGENT_URGENT)
  | 10 => n (e.fv F.GAT_INST_STEP_EST_EST i)
  | 11 => n (e.cv F.CMP_INST_EST_FIXED_FIXED i)
  | 12 => n (e.cv F.CMP_INST_EST_PER_KTOK_PER_KTOK i)
  | 13 => n x.cfg
  | 14 => n (if x.changing then 16 + x.newCfg else 0)
  | 15 => n e.stw.cfg
  | 16 => some e.stw.est
  | 17 => n (b2n e.stw.fitStop)
  | 18 => n x.owner
  | 19 => n c.rejects
  | 20 => n e.stw.cycles
  | _ => none

/-! ### Data memory (R226, R249) -/

/-- A byte address lies so that its 64-bit word is within the 64 KiB. -/
def dmemOk (a : DWord) : Bool := decide (a.toNat + 8 ≤ 65536)

/-- A word of the running program's DMEM. -/
def Eng.dmemWord (e : Eng) (k : Nat) : DWord := tgetD e.stw.dmem (8192 * e.stw.prog + k) 0

/-- The word that a DMEM word's check bits agree with, where WRITE_RAW has left the two apart (R615). -/
def Eng.dmemCheck (e : Eng) (k : Nat) : DWord :=
  ((tget e.dbg.mem (6 * 2 ^ 40 + 28 * 2048 + 8192 * e.stw.prog + k)).map (fun x => x.2)).getD (e.dmemWord k)

/-- Bits in error of a DMEM word. -/
def Eng.dmemErrors (e : Eng) (k : Nat) : Nat := ones64 (e.dmemCheck k ^^^ e.dmemWord k)

/-- The words that the 64-bit word at a byte address lies in. -/
def dmemWords (a : DWord) : List Nat := if a.toNat % 8 = 0 then [a.toNat / 8] else [a.toNat / 8, a.toNat / 8 + 1]

/-- The 64-bit word at a byte address, little-endian (R3), as its check bits give it. -/
def Eng.dmemRead (e : Eng) (a : DWord) : DWord :=
  let w := a.toNat / 8
  let lo := (e.dmemCheck w).toNat
  let hi := (e.dmemCheck (w + 1)).toNat
  BitVec.ofNat 64 ((lo + 2 ^ 64 * hi) / 2 ^ (8 * (a.toNat % 8)))

/-- Queue the store of a 64-bit word at a byte address. -/
def Eng.dmemStore (e : Eng) (a v : DWord) : Eng :=
  let w := a.toNat / 8
  let sh := 8 * (a.toNat % 8)
  let k := 8192 * e.stw.prog + w
  if sh = 0 then e.later (.mem k v)
  else
    let lo := (e.dmemWord w).toNat
    let hi := (e.dmemWord (w + 1)).toNat
    let x := (lo + 2 ^ 64 * hi) % 2 ^ sh + v.toNat * 2 ^ sh + (lo + 2 ^ 64 * hi) / 2 ^ (64 + sh) * 2 ^ (64 + sh)
    (e.later (.mem k (BitVec.ofNat 64 x))).later (.mem (k + 1) (BitVec.ofNat 64 (x / 2 ^ 64)))

/-- A DMEM access outside its 64 KiB faults the program when the bundle ends. -/
def Eng.dmemFaulted (e : Eng) : Eng := { e with stw := { e.stw with dmemFault := true } }

/-- Load a 64-bit word into a scalar register at the bundle's end. A single-bit error is corrected; another is PROG_DMEM, and the program faults
(R249, R577, R615). -/
def Eng.dmemLoad (e : Eng) (d : Nat) (a : DWord) : Eng :=
  if !dmemOk a then e.dmemFaulted
  else if (dmemWords a).any (fun k => decide (2 ≤ e.dmemErrors k)) then
    (e.capture { code := 0x071, unit := 5, inst := e.stw.run.getD 0 }).dmemFaulted
  else
    let v := e.dmemRead a
    (if (dmemWords a).any (fun k => decide (e.dmemErrors k = 1)) then e.corrected 5 else e).later (.scalar d v)

/-- A branch to this bundle plus an immediate, after the bundle (R233). -/
def Eng.branch (e : Eng) (imm : BitVec 18) : Eng :=
  { e with stw := { e.stw with target := some ((e.stw.pc : Int) + imm.toInt) } }

/-! ### The selection unit (R239 to R241) -/

/-- The candidates that KSEL has still to draw, in the order of what the bundle sees of them (R242). -/
def Eng.kselOrder (e : Eng) (i mode : Nat) : List (Nat × Bool) :=
  let e := e.asSeen i
  let c := (e.candidates i).filter (fun p => !e.stw.drawn.contains p.1)
  let start := (e.comp i).start
  let key := fun (p : Nat × Bool) => e.candKey i mode p.1 start
  let sort := fun (l : List (Nat × Bool)) => osort (fun a b => lexLe (key a) (key b)) l
  sort (c.filter (fun p => !p.2)) ++ sort (c.filter (fun p => p.2))

/-- The candidates that KSEL may draw now (R240). -/
def Eng.kselReady (e : Eng) (i : Nat) : List (Nat × Bool) :=
  let c := e.comp i
  match e.stw.mode with
  | none => []
  | some m => if e.stw.fitStop || decide (e.slotsLeft i c = 0 ∨ e.budgetLeft i c = 0) then [] else e.kselOrder i m

/-- Candidates put into the enabled lanes, lane 0 upward: unfilled enabled lanes hold 0. -/
def Eng.fillLanes (e : Eng) (g : BitVec 3) (gn : Bool) (d : BitVec 5) (c : BitVec 3) (l : List (Nat × Bool)) : Eng :=
  let on := lanes4.filter (fun k => e.guardLane g gn k)
  let pos := fun (k : Nat) => (on.takeWhile (fun j => decide (j ≠ k))).length
  let e' := e.laneWrites g gn d.toNat (fun k => match l[pos k]? with
    | some p => BitVec.ofNat 64 ((e.asSeen (e.stw.run.getD 0)).handle p)
    | none => 0)
  e'.later (.pred c.toNat (pmask (fun k => on.contains k && decide (pos k < l.length))))

/-- Enabled lanes of a guard. -/
def Eng.enabledLanes (e : Eng) (g : BitVec 3) (gn : Bool) : List Nat := lanes4.filter (fun k => e.guardLane g gn k)

/-- LFLD of one candidate (R243); none for a field that is not listed. -/
def Eng.ledgerField (e : Eng) (i : Nat) (p : Nat × Bool) (k : Nat) : Option DWord :=
  match e.rc p.1 with
  | none => some 0
  | some r =>
    let n := fun (v : Nat) => some (BitVec.ofNat 64 v)
    match k with
    | 0 => n (rqPid r.rqid)
    | 1 => n r.state
    | 2 => n r.pos
    | 3 => n r.promptLen
    | 4 => n r.newCount
    | 5 => n r.maxNew
    | 6 => n r.relDeadline
    | 7 => n r.submitStamp
    | 8 => match e.slack i p.1 (e.comp i).start with
      | some x => some (BitVec.ofInt 64 x)
      | none => n 0x7FFFFFFFFFFFFFFF
    | 9 => n (tgetD e.stw.passes (rqPid r.rqid) 0)
    | 10 => n (e.maxDraft p.1)
    | 11 => n (if p.2 then e.remPrompt p.1 else 0)
    | 12 => n (e.want i p.1 p.2)
    | 13 => n (b2n (e.outstanding p.1))
    | 14 => n (r.rqid + 2 ^ 32 * r.gen + 2 ^ 48 * r.sib)
    | 15 => n r.userTag
    | _ => none

/-- The grants of WFIT (R244) for the lanes from one on: want, class and enable of each; with whether FIT_STOP is set. -/
def wfit (l : List (Nat × Bool × Bool)) (avail slots : Nat) (stop fit : Bool) : List Nat × Bool :=
  match l with
  | [] => ([], fit)
  | (want, cls, en) :: r =>
    if !en || stop then let x := wfit r avail slots stop fit; (0 :: x.1, x.2)
    else if slots = 0 then let x := wfit r avail slots true fit; (0 :: x.1, x.2)
    else
      let whole := decide (want ≤ avail)
      let gran := if cls then 64 else 1
      let cut := avail / gran * gran
      let g := if whole then want else if cut < gran then 0 else cut
      let x := wfit r (avail - g) (if g = 0 then slots else slots - 1) (!whole) (fit || !whole)
      (g :: x.1, x.2)

/-- The lanes of an APPEND in order: results by lane, and the entries reserved. -/
def appendLanes (e : Eng) (i : Nat) (l : List (Nat × Nat × Nat)) : List (Nat × Nat) × Nat × Eng :=
  match l with
  | [] => ([], 0, e)
  | (lane, h, g) :: r =>
    let a := e.appendLane i h g
    let x := appendLanes a.2.2 i r
    ((lane, a.1) :: x.1, a.2.1 + x.2.1, x.2.2)

/-- The permutation of WSORT: enabled lanes by their value, ties by lane. -/
def sortLanes (on : List Nat) (key : Nat → Nat) : List Nat := osort (fun a b => decide (key a ≤ key b)) on

end Sys2Proof.Machine
end

