-- ==== Sys2Proof/Machine/Bundle.lean ====
section
/-!
DEFINITION. Bundles of a composition program (spec/06_steward_core.md R229 to R237): their syllables, the checks of R253 on them,
and the default program of slot 0.
-/
namespace Sys2Proof.Machine

/-- A scalar syllable's fields (R230). -/
structure SSyl where
  op : Nat
  g : BitVec 3
  gn : Bool
  d : BitVec 5
  a : BitVec 5
  b : BitVec 18
deriving DecidableEq, Repr

/-- A wide syllable's fields (R231). -/
structure VSyl where
  op : Nat
  g : BitVec 3
  gn : Bool
  d : BitVec 5
  a : BitVec 5
  b : BitVec 5
  c : BitVec 5
  imm : BitVec 16
deriving DecidableEq, Repr

/-- Read a scalar syllable from its 40 bits. -/
def ssylOf (w : BitVec 40) : SSyl :=
  { op := (w.extractLsb' 32 8).toNat, g := w.extractLsb' 29 3, gn := w.getLsbD 28, d := w.extractLsb' 23 5, a := w.extractLsb' 18 5,
    b := w.extractLsb' 0 18 }

/-- Read a wide syllable from its 48 bits. -/
def vsylOf (w : BitVec 48) : VSyl :=
  { op := (w.extractLsb' 40 8).toNat, g := w.extractLsb' 37 3, gn := w.getLsbD 36, d := w.extractLsb' 31 5, a := w.extractLsb' 26 5,
    b := w.extractLsb' 21 5, c := w.extractLsb' 16 5, imm := w.extractLsb' 0 16 }

/-- The X, Y and V syllables of a bundle (R229). -/
def bundleX (b : BitVec 128) : SSyl := ssylOf (b.extractLsb' 0 40)
/-- The Y syllable. -/
def bundleY (b : BitVec 128) : SSyl := ssylOf (b.extractLsb' 40 40)
/-- The V syllable. -/
def bundleV (b : BitVec 128) : VSyl := vsylOf (b.extractLsb' 80 48)

/-- The command that a scalar syllable of a unit spells; none for an illegal one (R235). -/
def SSyl.instr (x : SSyl) (y : Bool) : Option Instr :=
  let rb : BitVec 5 := x.b.extractLsb' 13 5
  let p := fun (r : BitVec 5) => (r.extractLsb' 0 3 : BitVec 3)
  let idx : BitVec 5 := x.b.extractLsb' 0 5
  match x.op with
  | 0x00 => some (.nopScalar y)
  | 0x01 => some (.sAdd y x.g x.gn x.d x.a rb)
  | 0x02 => some (.sSub y x.g x.gn x.d x.a rb)
  | 0x03 => some (.sAnd y x.g x.gn x.d x.a rb)
  | 0x04 => some (.sOr y x.g x.gn x.d x.a rb)
  | 0x05 => some (.sXor y x.g x.gn x.d x.a rb)
  | 0x06 => some (.sShl y x.g x.gn x.d x.a rb)
  | 0x07 => some (.sShr y x.g x.gn x.d x.a rb)
  | 0x08 => some (.sMul y x.g x.gn x.d x.a rb)
  | 0x09 => some (.sMin y x.g x.gn x.d x.a rb)
  | 0x0A => some (.sMax y x.g x.gn x.d x.a rb)
  | 0x0B => some (.sMinu y x.g x.gn x.d x.a rb)
  | 0x0C => some (.sMaxu y x.g x.gn x.d x.a rb)
  | 0x10 => some (.sAddi y x.g x.gn x.d x.a x.b)
  | 0x11 => some (.sAndi y x.g x.gn x.d x.a x.b)
  | 0x12 => some (.sOri y x.g x.gn x.d x.a x.b)
  | 0x13 => some (.sShli y x.g x.gn x.d x.a x.b)
  | 0x14 => some (.sShri y x.g x.gn x.d x.a x.b)
  | 0x15 => some (.sLi y x.g x.gn x.d x.b)
  | 0x18 => some (.sCeq y x.g x.gn x.d x.a rb)
  | 0x19 => some (.sClt y x.g x.gn x.d x.a rb)
  | 0x1A => some (.sCltu y x.g x.gn x.d x.a rb)
  | 0x1B => some (.sCeqi y x.g x.gn x.d x.a x.b)
  | 0x1C => some (.sClti y x.g x.gn x.d x.a x.b)
  | 0x1D => some (.sPcnt y x.g x.gn x.d (p x.a))
  | 0x1E => some (.sPand y x.g x.gn (p x.d) (p x.a) (p rb))
  | 0x1F => some (.sPnot y x.g x.gn (p x.d) (p x.a))
  | 0x20 => some (.sGetc y x.g x.gn x.d idx)
  | 0x21 => if y then some (.sSetc x.g x.gn x.a idx) else none
  | 0x22 => if y then some (.sLd x.g x.gn x.d x.a x.b) else none
  | 0x23 => if y then some (.sSt x.g x.gn x.d x.a x.b) else none
  | 0x30 => if y then none else some (.sBr x.g x.gn x.b)
  | 0x31 => if y then none else some (.sBrz x.g x.gn x.a x.b)
  | 0x32 => if y then none else some (.sBrnz x.g x.gn x.a x.b)
  | 0x3F => if y then none else some (.sEnd x.g x.gn)
  | _ => none

/-- The command that a wide syllable spells (R237). -/
def VSyl.instr (x : VSyl) : Option Instr :=
  let pc : BitVec 3 := x.c.extractLsb' 0 3
  match x.op with
  | 0x00 => some .wideNop
  | 0x01 => some (.wAdd x.g x.gn x.d x.a x.b)
  | 0x02 => some (.wSub x.g x.gn x.d x.a x.b)
  | 0x03 => some (.wAnd x.g x.gn x.d x.a x.b)
  | 0x04 => some (.wOr x.g x.gn x.d x.a x.b)
  | 0x05 => some (.wMin x.g x.gn x.d x.a x.b)
  | 0x06 => some (.wMax x.g x.gn x.d x.a x.b)
  | 0x07 => some (.wMinu x.g x.gn x.d x.a x.b)
  | 0x08 => some (.wMaxu x.g x.gn x.d x.a x.b)
  | 0x09 => some (.wMul x.g x.gn x.d x.a x.b)
  | 0x0A => some (.wShli x.g x.gn x.d x.a x.imm)
  | 0x0B => some (.wShri x.g x.gn x.d x.a x.imm)
  | 0x0C => some (.wMov x.g x.gn x.d x.a)
  | 0x0D => some (.wBc x.g x.gn x.d x.c)
  | 0x0E => some (.wLi x.g x.gn x.d x.imm)
  | 0x0F => some (.wGet x.d x.a x.imm)
  | 0x10 => some (.wCeq x.g x.gn x.a x.b pc)
  | 0x11 => some (.wClt x.g x.gn x.a x.b pc)
  | 0x12 => some (.wCltu x.g x.gn x.a x.b pc)
  | 0x13 => some (.wBit x.g x.gn x.a pc x.imm)
  | 0x14 => some (.wSum x.g x.gn x.d x.a)
  | 0x18 => some (.wSort x.g x.gn x.d x.a x.b x.c)
  | 0x20 => some (.kBegin x.g x.gn x.imm)
  | 0x21 => some (.kSel x.g x.gn x.d pc)
  | 0x22 => some (.lScan x.g x.gn x.d pc)
  | 0x23 => some (.lFld x.g x.gn x.d x.a x.imm)
  | 0x24 => some (.wFit x.g x.gn x.d x.a x.b pc)
  | 0x25 => some (.append x.g x.gn x.d x.a x.b)
  | _ => none

/-- The commands of a bundle, in the order X, Y, V. -/
def bundleInstrs (b : BitVec 128) : Option (List Instr) :=
  match (bundleX b).instr false, (bundleY b).instr true, (bundleV b).instr with
  | some x, some y, some v => some [x, y, v]
  | _, _, _ => none

/-! ### The checks of R253 -/

/-- The opcode is defined in some scalar unit (check 5). -/
def SSyl.opDefined (x : SSyl) : Bool := (x.instr false).isSome || (x.instr true).isSome

/-- Check 5 for a bundle. -/
def opsDefined (b : BitVec 128) : Bool := (bundleX b).opDefined && (bundleY b).opDefined && (bundleV b).instr.isSome

/-- A predicate field's upper bits are 0. -/
def predField (r : BitVec 5) : Bool := decide (r.toNat < 8)

/-- R-form operations (R235). -/
def SSyl.rForm (x : SSyl) : Bool := decide ((1 ≤ x.op ∧ x.op ≤ 0x0C) ∨ (0x18 ≤ x.op ∧ x.op ≤ 0x1A) ∨ (0x1D ≤ x.op ∧ x.op ≤ 0x1F))

/-- A scalar syllable at bundle `k` of `n` is well formed (check 8). -/
def SSyl.ok (x : SSyl) (y : Bool) (k n : Nat) : Bool :=
  let idx := x.b.toNat % 32
  let target := (k : Int) + x.b.toInt
  (x.instr y).isSome
    && (x.op ≠ 0 || decide (x.g = 0 ∧ x.gn = false ∧ x.d = 0 ∧ x.a = 0 ∧ x.b = 0))
    && (!x.rForm || decide (x.b.toNat % 2 ^ 13 = 0))
    && (!decide (0x18 ≤ x.op ∧ x.op ≤ 0x1C) || predField x.d)
    && (!decide (x.op = 0x1D) || predField x.a)
    && (!decide (x.op = 0x1E) || (predField x.d && predField x.a && predField (x.b.extractLsb' 13 5)))
    && (!decide (x.op = 0x1F) || (predField x.d && predField x.a))
    && (!decide (x.op = 0x20) || decide (idx ≤ 20))
    && (!decide (x.op = 0x21) || decide (idx = 15 ∨ idx = 16))
    && (!decide (0x30 ≤ x.op ∧ x.op ≤ 0x32) || decide (0 ≤ target ∧ target < n))

/-- A wide syllable is well formed (check 8). -/
def VSyl.ok (x : VSyl) : Bool :=
  x.instr.isSome
    && (x.op ≠ 0 || decide (x.g = 0 ∧ x.gn = false ∧ x.d = 0 ∧ x.a = 0 ∧ x.b = 0 ∧ x.c = 0 ∧ x.imm = 0))
    && (!decide ((0x10 ≤ x.op ∧ x.op ≤ 0x13) ∨ x.op = 0x21 ∨ x.op = 0x22 ∨ x.op = 0x24) || predField x.c)
    && (!decide (x.op = 0x20) || decide (x.imm.toNat ≤ 1))
    && (!decide (x.op = 0x23) || decide (x.imm.toNat ≤ 15))

/-- Registers that a scalar syllable writes: file (0 scalar, 1 wide, 2 predicate) and number. -/
def SSyl.writes (x : SSyl) : List (Nat × Nat) :=
  if (1 ≤ x.op ∧ x.op ≤ 0x0C) ∨ (0x10 ≤ x.op ∧ x.op ≤ 0x15) ∨ x.op = 0x1D ∨ x.op = 0x20 ∨ x.op = 0x22 then [(0, x.d.toNat)]
  else if (0x18 ≤ x.op ∧ x.op ≤ 0x1C) ∨ x.op = 0x1E ∨ x.op = 0x1F then [(2, x.d.toNat)]
  else []

/-- Registers that a wide syllable writes. -/
def VSyl.writes (x : VSyl) : List (Nat × Nat) :=
  if (1 ≤ x.op ∧ x.op ≤ 0x0E) ∨ x.op = 0x23 ∨ x.op = 0x25 then [(1, x.d.toNat)]
  else if x.op = 0x0F ∨ x.op = 0x14 then [(0, x.d.toNat)]
  else if 0x10 ≤ x.op ∧ x.op ≤ 0x13 then [(2, x.c.toNat)]
  else if x.op = 0x18 then [(1, x.d.toNat), (1, x.c.toNat)]
  else if x.op = 0x21 ∨ x.op = 0x22 ∨ x.op = 0x24 then [(1, x.d.toNat), (2, x.c.toNat)]
  else []

/-- Two lists have no element in common. -/
def disjoint (a b : List (Nat × Nat)) : Bool := a.all (fun x => !b.contains x)

/-- Bundle `k` of a program of `n` bundles is well formed (check 8). -/
def bundleOk (k n : Nat) (b : BitVec 128) : Bool :=
  let x := bundleX b
  let y := bundleY b
  let v := bundleV b
  x.ok false k n && y.ok true k n && v.ok
    && disjoint x.writes y.writes && disjoint x.writes v.writes && disjoint y.writes v.writes

/-! ### The default program (R250 and its listing) -/

/-- A bundle of the default program; q0 guards what is not named. -/
def defaultBundle (k : Nat) : List Instr :=
  match k with
  | 0 => [.sGetc false 0 false 2 11, .sGetc true 0 false 3 12, .kBegin 0 false 0]
  | 1 => [.nopScalar false, .nopScalar true, .kSel 0 false 1 1]
  | 2 => [.sBr 1 true 3, .nopScalar true, .lFld 1 false 2 1 12]
  | 3 => [.nopScalar false, .nopScalar true, .wFit 1 false 3 2 1 3]
  | 4 => [.sBr 0 false (BitVec.ofInt 18 (-3)), .nopScalar true, .append 3 false 4 1 3]
  | 5 => [.sGetc false 0 false 1 7, .nopScalar true, .wideNop]
  | 6 => [.sMul false 0 false 4 1 3, .nopScalar true, .wideNop]
  | 7 => [.sAddi false 0 false 4 4 1023, .nopScalar true, .wideNop]
  | 8 => [.sShri false 0 false 4 4 10, .nopScalar true, .wideNop]
  | 9 => [.sAdd false 0 false 4 4 2, .nopScalar true, .wideNop]
  | _ => [.sEnd 0 false, .sSetc 0 false 4 16, .wideNop]

/-- The commands of the bundle at the program counter, if it holds one. -/
def Eng.bundleAt (e : Eng) : Option (List Instr) :=
  if e.stw.prog = 0 then (if e.stw.pc < 11 then some (defaultBundle e.stw.pc) else none)
  else bundleInstrs (tgetD e.stw.imem (4096 * e.stw.prog + e.stw.pc) 0)

end Sys2Proof.Machine
end

