-- ==== Sys2Proof/Machine/Programs.lean ====
section
/-!
DEFINITION. Composition programs and the Steward's memory view (spec/06_steward_core.md R225 to R227, R251 to R254,
spec/20_register_map.md R625, R626), and the writes that govern the counters (spec/19_counters_trace_debug.md R602, R603).
-/
namespace Sys2Proof.Machine

/-! ### Loading a program -/

/-- PROGRAM_LOAD: a write of STW_LOAD_CTL. SLOT and SPACE are set; GO starts a load unless one is in progress. PD07 is ON during a
load (R565). -/
def execProgramLoad (data : Word) (s : State) : Host.Outcome State Fault Refusal :=
  live s (fun e =>
    let d := data.toNat
    let e := (e.poke F.STW_LOAD_CTL_SLOT (bitsOf d 2 0)).poke F.STW_LOAD_CTL_SPACE (bitsOf d 3 3)
    if !bitOf d 31 || e.stw.load.isSome then e
    else ({ e with stw := { e.stw with load := some (bitsOf d 2 0), loadResult := 0 } }).wake 7)

/-- The bundles of an image, from a count that check 6 allows. -/
def progBundles (g : List Nat) (n : Nat) : List (BitVec 128) :=
  (List.range n).map (fun k => BitVec.ofNat 128 (imgField g (64 + 16 * k) 16))

/-- A partition's active or pending PROG names the slot. -/
def Eng.progNamed (e : Eng) (slot : Nat) : Bool :=
  partRange.any (fun p => decide (e.fv F.CMP_PART_PROG_PROG p = slot ∨ e.av F.CMP_PART_PROG_PROG p = slot))

/-- Every bundle is well formed, from bundle `k` of `n` on. -/
def bundlesOk (n k : Nat) (l : List (BitVec 128)) : Bool :=
  match l with
  | [] => true
  | b :: r => bundleOk k n b && bundlesOk n (k + 1) r

/-- The RESULT of a load (R253): the first check that fails, or 1. -/
def Eng.progCheck (e : Eng) (slot : Nat) (g : List Nat) (readOk : Bool) : Nat :=
  let nb := imgField g 8 4
  let nd := imgField g 0xC 4
  let bundles := progBundles g (min nb 4096)
  if imgField g 0 4 ≠ 0x44575453 then 2
  else if crc32 (g.take 0x3C ++ (g.drop 0x40).take (16 * nb + nd)) ≠ imgField g 0x3C 4 then 3
  else if imgField g 4 2 / 256 ≠ 1 then 4
  else if !bundles.all opsDefined then 5
  else if slot = 0 ∨ nb = 0 ∨ 4096 < nb ∨ nd % 8 ≠ 0 ∨ 65536 < nd ∨ nb ≤ imgField g 0x10 4 then 6
  else if e.progNamed slot then 7
  else if !bundlesOk nb 0 bundles then 8
  else if !readOk then 9
  else 1

/-- An accepted image replaces the slot's contents (R254): the rest of DMEM is 0. -/
def Eng.progTake (e : Eng) (slot : Nat) (g : List Nat) : Eng :=
  let nb := imgField g 8 4
  let nd := imgField g 0xC 4
  let imem := (progBundles g nb).zipIdx.foldl (fun t x => tput t (4096 * slot + x.2) x.1)
    (e.stw.imem.filter (fun p => decide (p.1 / 4096 ≠ slot)))
  let dmem := (List.range (nd / 8)).foldl
    (fun t k => tsetD t (8192 * slot + k) (BitVec.ofNat 64 (imgField g (64 + 16 * nb + 8 * k) 8)) 0)
    (e.stw.dmem.filter (fun p => decide (p.1 / 8192 ≠ slot)))
  let p : Prog := { valid := true, nbundle := nb, entry := imgField g 0x10 4, major := imgField g 4 2 / 256,
                    minor := imgField g 4 2 % 256, id := imgField g 0x18 8 }
  let mem := e.dbg.mem.filter (fun p => decide (p.1 / 2 ^ 40 ≠ 6 ∨ p.1 % 2 ^ 40 < 28 * 2048 ∨ (p.1 % 2 ^ 40 - 28 * 2048) / 8192 ≠ slot))
  { e with stw := { e.stw with imem, dmem, progs := tput e.stw.progs slot p }, dbg := { e.dbg with mem } }

/-- PROGRAM_LOAD_END: the checks of R253 have read the image. -/
def atProgramLoadEnd (image : List (BitVec 8)) (readOk : Bool) (s : State) : Host.Outcome State Fault Refusal :=
  live s (fun e =>
    match e.stw.load with
    | none => e
    | some slot =>
      let e := e.needOn 7
      let g := natBytes image
      let r := e.progCheck slot g readOk
      let e := { e with stw := { e.stw with load := none, loadResult := r } }
      let e := if e.fb F.STW_CTL_EN then e else e.gate 7
      if r = 1 then (e.progTake slot g).raiseE 0x0045 5 slot else e.raiseE 0x0046 5 (slot + 16 * r))

/-- CMP_PART_PROG_WRITE: the program of the partition that CMP_PART_SEL selects (R177, R227). -/
def execCmpPartProgWrite (data : Word) (s : State) : Host.Outcome State Fault Refusal :=
  live s (fun e =>
    let p := e.fv F.CMP_PART_SEL_PID
    let n := bitsOf data.toNat 2 0
    let e := e.rwsWrite 0x4024 p (data &&& 7)
    if n ≠ 0 ∧ (tgetD e.stw.progs n {}).valid = false then e.raiseP 0x0043 5 p n else e)

/-! ### The memory view (R625, R626) -/

/-- The word of DMEM that a 64-bit word of a page shows: pages 28 to 59. -/
def viewWord (page k : Nat) : Nat := 8192 * ((page - 28) / 4) + 2048 * ((page - 28) % 4) + k

/-- The instruction bundle that a 64-bit word of a page lies in, and whether it is the bundle's upper half: pages 0 to 27. -/
def viewBundle (page k : Nat) : Nat × Bool := (4096 * (1 + page / 4) + 1024 * (page % 4) + k / 2, decide (k % 2 = 1))

/-- A 64-bit word of a page; an instruction page of a slot without an image reads 0. -/
def Eng.pageWord (e : Eng) (page k : Nat) : DWord :=
  if 60 ≤ page then 0
  else if 28 ≤ page then tgetD e.stw.dmem (viewWord page k) 0
  else if (tgetD e.stw.progs (1 + page / 4) {}).valid = false then 0
  else
    let b := viewBundle page k
    let v := tgetD e.stw.imem b.1 0
    if b.2 then v.extractLsb' 64 64 else v.extractLsb' 0 64

/-- Set a word of a DMEM page, with its check bits. -/
def Eng.setPageWord (e : Eng) (page k : Nat) (w : DWord) : Eng :=
  { e with stw := { e.stw with dmem := tsetD e.stw.dmem (viewWord page k) w 0 }, dbg := { e.dbg with mem := tdel e.dbg.mem (6 * 2 ^ 40 + 2048 * page + k) } }

/-- A write through the view of `size` bytes at a window offset. -/
def Eng.viewWrite (e : Eng) (off size : Nat) (data : DWord) : Eng :=
  let page := e.fv F.STW_VIEW_PAGE_PAGE
  let at_ := off - 0x18000
  let k := at_ / 8
  if off < 0x18000 ∨ 0x1C000 ≤ off ∨ (size ≠ 4 ∧ size ≠ 8) ∨ off % size ≠ 0 ∨ page < 28 ∨ 60 ≤ page then e.badAccess off true
  else
    let old := e.pageWord page k
    let w : DWord :=
      if size = 8 then data
      else if at_ % 8 = 4 then data.extractLsb' 0 32 ++ old.extractLsb' 0 32
      else old.extractLsb' 32 32 ++ data.extractLsb' 0 32
    if e.dbg.stwHalted then e.setPageWord page k w
    else if w = old then e
    else e.wwe off

/-- STW_VIEW_WRITE. -/
def execStwViewWrite (off size : Nat) (data : DWord) (s : State) : Host.Outcome State Fault Refusal :=
  live s (fun e => e.viewWrite off size data)

/-! ### Counters (R602, R603) -/

/-- CNT_SEL_WRITE: a write of CNT_SEL_n sets its source and filters and zeroes its counter; a 1 in OVF clears that bit. -/
def execCntSelWrite (n : Nat) (data : Word) (s : State) : Host.Outcome State Fault Refusal :=
  live s (fun e =>
    if 64 ≤ n then e
    else
      let old := e.reg (0x10100 + 4 * n)
      let w := (data &&& 0x0FFFFFFF) ||| (old &&& ~~~data &&& 0x80000000)
      let e := e.putReg (0x10100 + 4 * n) 0 w
      { e with dbg := { e.dbg with cnt := tdel e.dbg.cnt n } })

/-- The fields of CNT_CTL that software sets. -/
def Eng.cntCtl (e : Eng) (stage : Nat) (data : Word) : Eng :=
  if data.getLsbD 0 && !e.fb F.CNT_CTL_EN && decide (stage < 4) then (e.putReg 0x10000 0 (data &&& 6)).bringupOrder 0x10000 stage
  else e.putReg 0x10000 0 (data &&& 7)

/-- CLEAR: a write of CNT_CTL with CLEAR set. -/
def execClear (data : Word) (s : State) : Host.Outcome State Fault Refusal :=
  live s (fun e =>
    if !bitOf data.toNat 31 then e
    else
      let e := e.cntCtl s.boot.stage data
      { e with dbg := { e.dbg with cnt := [], clearAt := some e.now } })

/-- CNT_FREEZE_AT: the Tally comes to an armed freeze. -/
def atCntFreezeAt (s : State) : Host.Outcome State Fault Refusal :=
  live s (fun e => if e.fb F.CNT_CTL_ARM then e.advance (e.pairv 0x10008) else e)

end Sys2Proof.Machine
end

