-- ==== Sys2Proof/Machine/Crypto.lean ====
section
/-!
DEFINITION. The two functions by which the configuration image is checked (spec/17_reset_power_domains_bringup.md R569, R570): the
hash SHA-384 and the verification of an ECDSA signature over the curve P-384, as the standards that carry those names define them
(assumption log 40).
-/
namespace Sys2Proof.Machine

/-! ### SHA-384 -/

/-- 2^64. -/
def two64 : Nat := 18446744073709551616

/-- Rotation of a 64-bit word to the right. -/
def rotr (n x : Nat) : Nat := x / 2 ^ n + x % 2 ^ n * 2 ^ (64 - n)

/-- Round constants 0 to 19. -/
def shaK0 : List Nat :=
  [0x428A2F98D728AE22, 0x7137449123EF65CD, 0xB5C0FBCFEC4D3B2F, 0xE9B5DBA58189DBBC,
   0x3956C25BF348B538, 0x59F111F1B605D019, 0x923F82A4AF194F9B, 0xAB1C5ED5DA6D8118,
   0xD807AA98A3030242, 0x12835B0145706FBE, 0x243185BE4EE4B28C, 0x550C7DC3D5FFB4E2,
   0x72BE5D74F27B896F, 0x80DEB1FE3B1696B1, 0x9BDC06A725C71235, 0xC19BF174CF692694,
   0xE49B69C19EF14AD2, 0xEFBE4786384F25E3, 0x0FC19DC68B8CD5B5, 0x240CA1CC77AC9C65]

/-- Round constants 20 to 39. -/
def shaK1 : List Nat :=
  [0x2DE92C6F592B0275, 0x4A7484AA6EA6E483, 0x5CB0A9DCBD41FBD4, 0x76F988DA831153B5,
   0x983E5152EE66DFAB, 0xA831C66D2DB43210, 0xB00327C898FB213F, 0xBF597FC7BEEF0EE4,
   0xC6E00BF33DA88FC2, 0xD5A79147930AA725, 0x06CA6351E003826F, 0x142929670A0E6E70,
   0x27B70A8546D22FFC, 0x2E1B21385C26C926, 0x4D2C6DFC5AC42AED, 0x53380D139D95B3DF,
   0x650A73548BAF63DE, 0x766A0ABB3C77B2A8, 0x81C2C92E47EDAEE6, 0x92722C851482353B]

/-- Round constants 40 to 59. -/
def shaK2 : List Nat :=
  [0xA2BFE8A14CF10364, 0xA81A664BBC423001, 0xC24B8B70D0F89791, 0xC76C51A30654BE30,
   0xD192E819D6EF5218, 0xD69906245565A910, 0xF40E35855771202A, 0x106AA07032BBD1B8,
   0x19A4C116B8D2D0C8, 0x1E376C085141AB53, 0x2748774CDF8EEB99, 0x34B0BCB5E19B48A8,
   0x391C0CB3C5C95A63, 0x4ED8AA4AE3418ACB, 0x5B9CCA4F7763E373, 0x682E6FF3D6B2B8A3,
   0x748F82EE5DEFB2FC, 0x78A5636F43172F60, 0x84C87814A1F0AB72, 0x8CC702081A6439EC]

/-- Round constants 60 to 79. -/
def shaK3 : List Nat :=
  [0x90BEFFFA23631E28, 0xA4506CEBDE82BDE9, 0xBEF9A3F7B2C67915, 0xC67178F2E372532B,
   0xCA273ECEEA26619C, 0xD186B8C721C0C207, 0xEADA7DD6CDE0EB1E, 0xF57D4F7FEE6ED178,
   0x06F067AA72176FBA, 0x0A637DC5A2C898A6, 0x113F9804BEF90DAE, 0x1B710B35131C471B,
   0x28DB77F523047D84, 0x32CAAB7B40C72493, 0x3C9EBE0A15C9BEBC, 0x431D67C49C100D4C,
   0x4CC5D4BECB3E42B6, 0x597F299CFC657E2A, 0x5FCB6FAB3AD6FAEC, 0x6C44198C4A475817]

/-- The first hash value. -/
def shaH0 : List Nat :=
  [0xCBBB9D5DC1059ED8, 0x629A292A367CD507, 0x9159015A3070DD17, 0x152FECD8F70E5939,
   0x67332667FFC00B31, 0x8EB44A8768581511, 0xDB0C2E0D64F98FA7, 0x47B5481DBEFA4FA4]

/-- Element of a list of words. -/
def wordAt (l : List Nat) (i : Nat) : Nat := l.getD i 0

/-- The word of the message schedule that follows a window of sixteen. -/
def shaNext (w : List Nat) : Nat :=
  let s0 := fun (x : Nat) => rotr 1 x ^^^ rotr 8 x ^^^ x / 2 ^ 7
  let s1 := fun (x : Nat) => rotr 19 x ^^^ rotr 61 x ^^^ x / 2 ^ 6
  (s1 (wordAt w 14) + wordAt w 9 + s0 (wordAt w 1) + wordAt w 0) % two64

/-- One round on the eight working words. -/
def shaRound (h : List Nat) (k w : Nat) : List Nat :=
  let a := wordAt h 0
  let b := wordAt h 1
  let c := wordAt h 2
  let e := wordAt h 4
  let ch := (e &&& wordAt h 5) ^^^ ((two64 - 1 - e) &&& wordAt h 6)
  let maj := (a &&& b) ^^^ (a &&& c) ^^^ (b &&& c)
  let t1 := wordAt h 7 + (rotr 14 e ^^^ rotr 18 e ^^^ rotr 41 e) + ch + k + w
  let t2 := (rotr 28 a ^^^ rotr 34 a ^^^ rotr 39 a) + maj
  [(t1 + t2) % two64, a, b, c, (wordAt h 3 + t1) % two64, e, wordAt h 5, wordAt h 6]

/-- The rounds of one block, over the round constants left. -/
def shaRounds (h w : List Nat) (ks : List Nat) : List Nat :=
  match ks with
  | [] => h
  | k :: r => shaRounds (shaRound h k (wordAt w 0)) (w.drop 1 ++ [shaNext w]) r

/-- Add two lists of words. -/
def addWords (a b : List Nat) : List Nat :=
  match a, b with
  | x :: p, y :: q => (x + y) % two64 :: addWords p q
  | _, _ => []

/-- The number that bytes spell, high byte first. -/
def beNat (l : List Nat) : Nat := l.foldl (fun n b => 256 * n + b) 0

/-- `n` words of eight bytes each. -/
def beWords (n : Nat) (l : List Nat) : List Nat :=
  match n with
  | 0 => []
  | k + 1 => beNat (l.take 8) :: beWords k (l.drop 8)

/-- Hash `n` blocks of 128 bytes. -/
def shaBlocks (n : Nat) (h l : List Nat) : List Nat :=
  match n with
  | 0 => h
  | k + 1 =>
    shaBlocks k (addWords h (shaRounds h (beWords 16 (l.take 128)) (shaK0 ++ shaK1 ++ shaK2 ++ shaK3))) (l.drop 128)

/-- The bytes of a number, high byte first. -/
def beBytes (n v : Nat) : List Nat := (leBytes n v).reverse

/-- SHA-384 of bytes, as a number of 384 bits. -/
def sha384 (l : List Nat) : Nat :=
  let n := l.length
  let blocks := (n + 17 + 127) / 128
  let msg := l ++ [0x80] ++ List.replicate (128 * blocks - n - 17) 0 ++ beBytes 16 (8 * n)
  (shaBlocks blocks shaH0 msg).take 6 |>.foldl (fun a w => two64 * a + w) 0

/-! ### ECDSA over P-384 -/

/-- The prime of the field. -/
def ecP : Nat := 2 ^ 384 - 2 ^ 128 - 2 ^ 96 + 2 ^ 32 - 1

/-- The order of the base point. -/
def ecN : Nat := 0xFFFFFFFFFFFFFFFFFFFFFFFFFFFFFFFFFFFFFFFFFFFFFFFFC7634D81F4372DDF581A0DB248B0A77AECEC196ACCC52973

/-- The coefficient b of the curve; its a is -3. -/
def ecB : Nat := 0xB3312FA7E23EE7E4988E056BE3F82D19181D9C6EFE8141120314088F5013875AC656398D8A2ED19D2A85C8EDD3EC2AEF

/-- Coordinates of the base point. -/
def ecGx : Nat := 0xAA87CA22BE8B05378EB1C71EF320AD746E1D3B628BA79B9859F741E082542A385502F25DBF55296C3A545E3872760AB7

def ecGy : Nat := 0x3617DE4A96262C6F5D9E98BF9292DC29F8F41DBD289A147CE9DA3113B5F0B8C00A60B1CE1D7E819D7A431D7C90EA0E5F

/-- x^k modulo m, by the low `n` bits of k. -/
def powMod (m n x k acc : Nat) : Nat :=
  match n with
  | 0 => acc
  | j + 1 => powMod m j (x * x % m) (k / 2) (if k % 2 = 1 then acc * x % m else acc)

/-- The inverse modulo a prime below 2^384. -/
def invMod (m x : Nat) : Nat := powMod m 384 (x % m) (m - 2) 1

/-- Subtraction in the field. -/
def fsub (a b : Nat) : Nat := (a + ecP - b % ecP) % ecP

/-- A point (X, Y, Z) that stands for (X / Z^2, Y / Z^3); Z = 0 for the point at infinity. -/
structure EcPt where
  x : Nat
  y : Nat
  z : Nat
deriving DecidableEq, Repr

/-- Twice a point. -/
def ecDouble (p : EcPt) : EcPt :=
  if p.z = 0 ∨ p.y = 0 then ⟨1, 1, 0⟩
  else
    let z2 := p.z * p.z % ecP
    let m := 3 * (fsub p.x z2) * (p.x + z2) % ecP
    let y2 := p.y * p.y % ecP
    let s := 4 * p.x * y2 % ecP
    let x := fsub (m * m) (2 * s)
    ⟨x, fsub (m * fsub s x) (8 * y2 * y2), 2 * p.y * p.z % ecP⟩

/-- The sum of two points. -/
def ecAdd (p q : EcPt) : EcPt :=
  if p.z = 0 then q
  else if q.z = 0 then p
  else
    let z1 := p.z * p.z % ecP
    let z2 := q.z * q.z % ecP
    let u1 := p.x * z2 % ecP
    let u2 := q.x * z1 % ecP
    let s1 := p.y * z2 % ecP * q.z % ecP
    let s2 := q.y * z1 % ecP * p.z % ecP
    let h := fsub u2 u1
    let r := fsub s2 s1
    if h = 0 then (if r = 0 then ecDouble p else ⟨1, 1, 0⟩)
    else
      let h2 := h * h % ecP
      let h3 := h2 * h % ecP
      let v := u1 * h2 % ecP
      let x := fsub (fsub (r * r) h3) (2 * v)
      ⟨x, fsub (r * fsub v x) (s1 * h3), p.z * q.z % ecP * h % ecP⟩

/-- k times a point, by the low `n` bits of k. -/
def ecMul (n k : Nat) (p acc : EcPt) : EcPt :=
  match n with
  | 0 => acc
  | j + 1 => ecMul j (k / 2) (ecDouble p) (if k % 2 = 1 then ecAdd acc p else acc)

/-- A point of the curve. -/
def onCurve (x y : Nat) : Bool :=
  decide (x < ecP ∧ y < ecP ∧ y * y % ecP = fsub (x * x * x + ecB) (3 * x))

/-- The signature (r, s) of a digest is valid for a public key (qx, qy). -/
def ecdsaOk (qx qy digest r s : Nat) : Bool :=
  if r = 0 ∨ ecN ≤ r ∨ s = 0 ∨ ecN ≤ s ∨ onCurve qx qy = false then false
  else
    let w := invMod ecN s
    let a := ecMul 384 (digest * w % ecN) ⟨ecGx, ecGy, 1⟩ ⟨1, 1, 0⟩
    let b := ecMul 384 (r * w % ecN) ⟨qx, qy, 1⟩ ⟨1, 1, 0⟩
    let t := ecAdd a b
    if t.z = 0 then false
    else
      let i := invMod ecP t.z
      decide (t.x * i % ecP * i % ecP % ecN = r)

end Sys2Proof.Machine
end

