-- ==== Sys2Proof/Machine/Reset.lean ====
section
/-!
DEFINITION. Reset, the configuration image, bring-up and power domains (spec/17_reset_power_domains_bringup.md).
-/
namespace Sys2Proof.Machine

/-! ### The management controller's counter (R555, R556) -/

/-- The Tally less its jumps: what a counter that free-runs beside it has gained. -/
def Eng.ran (e : Eng) : Int := (e.now : Int) - e.tal.jumped

/-- The controller's counter. -/
def State.cmcNow (s : State) : Nat :=
  if s.boot.absent then s.boot.cmc else ((s.boot.cmc : Int) + (s.eng.ran - s.boot.cmcAt)).toNat

/-! ### Engine resets (R557 to R559, R562) -/

/-- The cores' TAKEs that wait when the engine goes absent wait on at their ports (R429), the ticks since the last beat kept. -/
def State.portTakes (s : State) : List TakeW :=
  if s.boot.absent then s.boot.takes
  else s.eng.bin.waiting.map (fun w =>
    let t := s.cmcNow - (s.eng.now - w.lastBeat)
    { core := w.core, since := t, lastBeat := t })

/-- An engine reset of a source is asserted: the engine answers nothing until its release. Store keeps what the engine had written there
(R558). The queue gives it before the rest of its tick (R562; DESIGN CHOICE, assumption log 64). -/
def State.resetBy (s : State) (cause : Nat) : State :=
  { s with
    boot := { s.boot with absent := true, cause, cmc := s.cmcNow, cmcAcc := 0, takes := s.portTakes }
    eng := { Eng.reset 0 with
      out := s.eng.out, free := s.eng.free, dbg := { mem := s.eng.dbg.mem.filter (fun p => decide (p.1 / 2 ^ 40 = 10)) } }
    old := if s.boot.absent then s.old else { s.eng with out := [] } :: s.old }

/-- POWER_ON. -/
def execPowerOn (s : State) : Host.Outcome State Fault Refusal := .next (s.resetBy 1)

/-- CHIP. -/
def execChip (s : State) : Host.Outcome State Fault Refusal := .next (s.resetBy 2)

/-- The KEY of GLB_RESET (R561). -/
def resetKey : Nat := 0xD54A

/-- DRIVER_RESET: a write of GLB_RESET with UNIT 0 and the correct KEY. -/
def execDriverReset (data : Word) (s : State) : Host.Outcome State Fault Refusal :=
  if s.boot.absent = false ∧ bitsOf data.toNat 15 0 = resetKey ∧ bitsOf data.toNat 19 16 = 0 then .next (s.resetBy 3) else .next s

/-- CLOCK. -/
def execClock (s : State) : Host.Outcome State Fault Refusal := if s.boot.absent then .next s else .next (s.resetBy 4)

/-- RESET_RELEASE: the last source is removed, and the engine leaves reset (R556, R558). No dispatcher serves while BIN_CTL.EN is clear:
the TAKEs that wait at the ports are answered (R429). -/
def execResetRelease (s : State) : Host.Outcome State Fault Refusal :=
  if s.boot.absent then
    .next { s with
      boot := { cause := s.boot.cause, cmc := s.boot.cmc, cmcAt := s.boot.cmc }
      eng := { Eng.reset s.boot.cmc with
        out := (s.boot.takes.map (fun w => Out.coreAnswer w.core 2 none)).reverse ++ s.eng.out, free := s.eng.free, dbg := s.eng.dbg } }
  else .next s

/-- TALLY_COPY: the controller copies the Tally of a LOCKED engine once every 10,000 t (R555). -/
def atTallyCopy (s : State) : Host.Outcome State Fault Refusal :=
  if s.boot.absent then .next s
  else if s.eng.tal.state ≠ 2 then .next s
  else
    let t := roundUp (max s.eng.now (if s.boot.nextCopy ≤ s.eng.now + 1 then s.boot.nextCopy else 0)) 10000
    let e := s.eng.advance t
    .next { s with
      boot := { s.boot with cmc := e.now, cmcAt := e.ran, nextCopy := t + 1 }
      eng := e.emit (.cmcTally e.now) }

/-! ### Unit resets (R560, R561, R584) -/

/-- A register with no field that software configures: a count, or one that only shows. -/
def RegRow.shows (r : RegRow) : Bool := decide (r.rw = 0 ∧ r.rwsE = 0 ∧ r.rwsI = 0 ∧ r.rwl = 0 ∧ r.wo = 0)

/-- The registers of a window that a unit reset returns to their reset values; those of the hello exchange stand. -/
def unitReg (u off : Nat) : Bool :=
  decide (off / 0x1000 = u) && !(decide (0x1010 ≤ off ∧ off ≤ 0x1024)) && (match regRow off with
    | some (r, _) => r.shows
    | none => false)

/-- The Composer's own state of an instance is cleared. -/
def Eng.instClear (e : Eng) (i : Nat) : Eng :=
  let e := match (e.inst i).step with
    | some st => st.slots.foldl (fun e y => Eng.unpinSlot e y) e
    | none => e
  (e.modInst i (fun x => { x with step := none, carried := [], trig := none, quiet := false, segs := [] })).closeWindow i

/-- The generators are loaded again by jump for the draws still to be made: the slots' and those of the pieces that pipes run (R310, R317,
R414, R415). -/
def Eng.rsuReload (e : Eng) : Eng :=
  let e := e.pan.pipes.foldl (fun e p =>
    match e.panCmd p.2.cmd with
    | some c => if c.converts then { e with rsu := { e.rsu with queue := e.rsu.queue ++ [e.panJump c p.2.piece p.1] } } else e
    | none => e) e
  instRange.foldl (fun e i => e.redraw i) e

/-- The unit whose SRAMs a space of the debug port shows (R614). -/
def spaceUnit (space : Nat) : Option Nat :=
  match space with
  | 0 => some 2
  | 1 => some 6
  | 2 => some 8
  | 3 => some 9
  | 4 => some 7
  | 5 => some 4
  | 8 => some 11
  | _ => none

/-- The SRAMs of a unit hold zeros (R558, R560): nothing that the port wrote there stands. -/
def Eng.sramClear (e : Eng) (u : Nat) : Eng :=
  { e with dbg := { e.dbg with
      worked := e.dbg.worked.filter (fun x => decide (x ≠ u))
      mem := e.dbg.mem.filter (fun p => decide (spaceUnit (p.1 / 2 ^ 40) ≠ some u)) } }

/-- What a unit keeps in its queues is cleared; what it keeps in Store, such as completion records in the overflow area (R112), and its
retired parts, stay. The RSU's service and jump-ahead units are back in service (R577). The array hears that Bins holds nothing (R437). -/
def Eng.queueClear (e : Eng) (u : Nat) : Eng :=
  match u with
  | 1 => { e with hat := {
      version := e.hat.version, overNext := e.hat.overNext, ovfArea := e.hat.ovfArea
      rings := e.hat.rings.filterMap (fun p => if p.2.ovf.isEmpty then none else some (p.1, { ovf := p.2.ovf })) } }
  | 2 => { e with led := { gens := e.led.gens, pageCount := e.led.pageCount } }
  | 3 => { e with gat := { est := e.gat.est } }
  | 4 =>
    let e := instRange.foldl (fun e i => Eng.instClear e i) e.discardAll
    { e with cmp := { e.cmp with draftFresh := 0, draftFreed := [] } }
  | 5 => { e with stw := {} }
  | 6 => { e with shv := { e.shv with ops := [], frames := [], recalls := [], recallDue := false, balances := [], retries := [], late := [] } }
  | 7 => { e with pan := { retired := e.pan.retired, nextId := e.pan.nextId } }
  | 8 => { e with smp := { e.smp with slots := [] } }
  | 9 => { e with siv := { e.siv with cache := [], install := none, result := 0 } }
  | 10 => ({ e with rsu := { bad := e.rsu.bad } }).rsuReload
  | 11 => ({ e with bin := { retired := e.bin.retired } }).binReports e.bin.entries
  | 12 => { e with kpr := {} }
  | _ => e

/-- A unit's SRAMs and queues are cleared (R560). -/
def Eng.unitClear (e : Eng) (u : Nat) : Eng := (e.queueClear u).sramClear u

/-- The enable field of unit 1 to 12. -/
def unitEn (u : Nat) : Fld := ⟨0x1000 * u, 0, 0⟩

/-- A unit reset (R560): with EN clear; it also lets a halted unit return to service (R584). -/
def Eng.unitReset (e : Eng) (u : Nat) : Eng :=
  if e.fb (unitEn u) then e.wwe 0xC
  else
    let e := e.unitClear u
    let e := { e with regs := e.regs.filter (fun p => !unitReg u (p.1 / 65536)) }
    if e.unitHalted u then e.setCap u { e.cap_ u with halted := false } else e

/-- UNIT_RESET: a write of GLB_RESET with UNIT 1 to 12 and the correct KEY. -/
def execUnitReset (data : Word) (s : State) : Host.Outcome State Fault Refusal :=
  live s (fun e =>
    let u := bitsOf data.toNat 19 16
    if bitsOf data.toNat 15 0 = resetKey ∧ 1 ≤ u ∧ u ≤ 12 then e.unitReset u else e)

/-- RESET_KEY_BAD: a write of GLB_RESET with another KEY. -/
def execResetKeyBad (data : Word) (s : State) : Host.Outcome State Fault Refusal :=
  live s (fun e =>
    let k := bitsOf data.toNat 15 0
    if k = resetKey then e else e.raiseE 0x0004 15 k)

/-! ### The configuration image (R569 to R571) -/

/-- A change of the bring-up state together with the engine. -/
def bootUp (s : State) (f : Boot → Eng → Boot × Eng) : Host.Outcome State Fault Refusal :=
  if s.boot.absent then .next s
  else
    let x := f s.boot s.eng
    .next { s with boot := x.1, eng := x.2 }

/-- IMAGE_LOAD: a write of GLB_IMG_CTL with GO (R570, R572). -/
def execImageLoad (data : Word) (s : State) : Host.Outcome State Fault Refusal :=
  bootUp s (fun b e =>
    if !bitOf data.toNat 31 || b.imgBusy then (b, e)
    else if b.stage ≠ 1 then (b, e.bringupOrder 0x28 b.stage)
    else ({ b with imgBusy := true }, e))

/-- BYTES of an image. -/
def imgBytes (g : List Nat) : Nat := imgField g 0xC 4

/-- Check 2 of R570: MAGIC, VERSION, BYTES, and every offset and length within BYTES. -/
def imgShapeOk (g : List Nat) : Bool :=
  let n := imgBytes g
  decide (imgField g 0 4 = 0x31474643 ∧ imgField g 4 2 = 0x100 ∧ n % 64 = 0 ∧ 0x140 ≤ n ∧ n ≤ 65536
    ∧ imgField g 0x30 4 + imgField g 0x34 4 ≤ n ∧ imgField g 0x38 4 + 96 ≤ n)

/-- `n` bytes at `off` of an image; bytes that are not there read 0. -/
def imgSpan (g : List Nat) (off n : Nat) : List Nat := (List.range n).map (fun k => (g.drop (off + k)).headD 0)

/-- Bytes at the start of an image, as far as it reaches, and zeros beyond. -/
def padTo (n : Nat) (g : List Nat) : List Nat :=
  let l := g.take n
  l ++ List.replicate (n - l.length) 0

/-- Check 3: the key's digest. -/
def imgKeyOk (g : List Nat) : Bool := decide (sha384 (imgSpan g 0x40 97) = Config.keyDigest.toNat)

/-- Check 4: the signature over the bytes before and after SIG; the key is in SEC1 uncompressed form. -/
def imgSigOk (g : List Nat) : Bool :=
  let l := padTo (imgBytes g) g
  decide (imgField g 0x40 1 = 4)
    && ecdsaOk (beNat (imgSpan g 0x41 48)) (beNat (imgSpan g 0x71 48)) (sha384 (l.take 0xC0 ++ l.drop 0x120))
      (beNat (imgSpan g 0xC0 48)) (beNat (imgSpan g 0xF0 48))

/-- The RESULT of an image (R570): the first check that fails, or 1. -/
def imgCheck (g : List Nat) (readOk : Bool) (straps : Nat) : Nat :=
  if !imgShapeOk g then 2
  else if !imgKeyOk g then 3
  else if !imgSigOk g then 4
  else if imgField g 6 2 ≠ 0x0004 ∨ imgField g 8 1 ≠ 0xB0 then 5
  else if imgField g 0x10 4 % 64 ≠ straps % 64 then 6
  else if !readOk then 7
  else 1

/-- The path delays of the 12 physical lanes. -/
def imgCal (g : List Nat) : List Int := (List.range 12).map (fun p => sgn 64 (imgField g (imgField g 0x38 4 + 8 * p) 8))

/-- The physical Sampler lanes that REPAIR marks. -/
def imgRepair (g : List Nat) : List Nat := (List.range 68).filter (fun n => bitOf (imgField g 0x20 9) n)

/-- The engine's part of the acceptance of an image (R571). -/
def Eng.imgTake (e : Eng) (g : List Nat) : Eng :=
  let e := e.poke F.RAF_POS_POS (imgField g 0x10 4 % 2 ^ 22)
  (imgRepair g).foldl (fun e n => e.retireLane n) e

/-- IMAGE_LOAD_END: the image is verified, and accepted or refused. -/
def execImageLoadEnd (image : List (BitVec 8)) (readOk : Bool) (straps : Nat) (cxl : Bool) (s : State) :
    Host.Outcome State Fault Refusal :=
  bootUp s (fun b e =>
    if !b.imgBusy then (b, e)
    else
      let g := natBytes image
      let r := imgCheck g readOk straps
      if r ≠ 1 then ({ b with imgBusy := false, imgResult := r }, e)
      else
        ({ b with
            imgBusy := false, imgResult := 1, stage := 2, offline := false, cxlCache := cxl,
            serial := imgField g 0x18 8, chipPos := imgField g 0x10 4 % 2 ^ 22, cal := imgCal g },
          (e.poke F.HAT_HELLO_CAPS_CXL_CACHE (b2n cxl)).imgTake g))

/-! ### Bring-up (R572, R573) -/

/-- The areas of R573: base and bytes, from the registers as they stand. -/
def Eng.initAreas (e : Eng) : List (Nat × Nat) :=
  [(e.pairv 0x2008, 2 * e.ledCap * 128), (e.pairv 0x6008, 2 ^ 31), (e.pairv 0x6010, e.fv F.SHV_MAP_NODES_NODES * 4096),
   (e.pairv 0x6020, 2 ^ e.pfxLog * 256), (e.pairv 0x602C, e.ledCap * 8), (e.pairv 0x6034, 2 ^ 24),
   (e.pairv 0x9010, e.ledCap * 64), (e.pairv 0x9008, 2 ^ 21), (e.pairv 0x4008, 2 ^ 26), (e.pairv 0x8010, 2 ^ 24),
   (e.pairv 0x8018, 272 * 2 ^ 20)]

/-- GLB_INIT: a write of GLB_INIT with GO. -/
def execGlbInit (data : Word) (s : State) : Host.Outcome State Fault Refusal :=
  bootUp s (fun b e =>
    if !bitOf data.toNat 31 then (b, e)
    else if b.stage ≠ 2 then (b, e.bringupOrder 0x2C b.stage)
    else if b.initBusy then (b, e)
    else
      let l := e.initAreas
      let t := cdiv (sumBy (fun (x : Nat × Nat) => x.2) l) 16000
      let e := l.foldl (fun e x => e.emit (.areaCleared x.1 x.2)) e
      ({ b with initBusy := true, initDue := e.now + t },
        { e with led := { e.led with pageCount := e.fv F.LED_HIST_PAGES_PAGES }, dbg := { e.dbg with clearing := l } }))

/-- A Store address lies in one of the extents. -/
def inAreas (l : List (Nat × Nat)) (a : Nat) : Bool := l.any (fun x => decide (x.1 ≤ a ∧ a < x.1 + x.2))

/-- The areas hold zeros (R573): nothing that the port wrote there stands, no grammar is installed, and every stack line is empty. -/
def Eng.areasDone (e : Eng) : Eng :=
  let l := e.dbg.clearing
  { e with
    siv := { e.siv with dir := [], pdaStacks := [] }
    dbg := { e.dbg with
      clearing := [], cleared := e.dbg.cleared ++ l
      mem := e.dbg.mem.filter (fun p => !(decide (p.1 / 2 ^ 40 = 10) && inAreas l (8 * (p.1 % 2 ^ 40)))) } }

/-- INIT_DONE: the areas are cleared. -/
def atInitDone (s : State) : Host.Outcome State Fault Refusal :=
  bootUp s (fun b e =>
    if !b.initBusy then (b, e)
    else ({ b with initBusy := false, initDone := true, stage := 3 }, (e.advance b.initDue).areasDone))

/-- GLB_LOCK: a write of GLB_LOCK with LOCK set. -/
def execGlbLock (data : Word) (s : State) : Host.Outcome State Fault Refusal :=
  bootUp s (fun b e =>
    if !bitOf data.toNat 0 then (b, e)
    else if b.stage ≠ 3 then (b, e.bringupOrder 0x8 b.stage)
    else ({ b with locked := true, stage := 4 }, e))

/-! ### Power domains (R565 to R568) -/

/-- A domain has come ON: its unit does what has waited for it (R566). -/
def Eng.domainUp (e : Eng) (d : Nat) : Eng :=
  if d = 88 ∧ e.fb F.KPR_CTL_EN then e.leaveEnable else if d = 95 ∧ e.fb F.RAF_CTL_EN then e.rafEnable true else e

/-- DOMAIN_WAKE_DONE: the wake of a domain is complete; a unit whose EN was cleared meanwhile then lets it go (R568). -/
def atDomainWakeDone (dom : Nat) (s : State) : Host.Outcome State Fault Refusal :=
  live s (fun e =>
    let x := e.dom dom
    if x.st ≠ 1 then e
    else
      let e := e.advance x.due
      if x.drop then e.setDom dom { x with st := if dom = 7 then 3 else 0, drop := false }
      else (e.setDom dom { x with st := 2, used := e.now }).domainUp dom)

/-- A domain is auto-gated: Pantry pipes, Sampler lanes 0 to 63, Sieve engines (R565). -/
def autoDom (d : Nat) : Bool := decide (10 ≤ d ∧ d ≤ 77) || decide (82 ≤ d ∧ d ≤ 85)

/-- A part of the domain is at work. -/
def Eng.domBusy (e : Eng) (d : Nat) : Bool :=
  if d ≤ 13 then (tget e.pan.pipes (d - 10)).isSome
  else if d ≤ 77 then
    e.smp.slots.any (fun p => p.2.rows.any (fun r => r.2.res.isNone
      && (List.range r.2.gang).any (fun k => decide (e.lanePhys (r.2.lane + k) = some (d - 14)))))
  else false

/-- DOMAIN_IDLE_GATE: an auto-gated domain has been idle for GLB_PWR_CTL.IDLE. -/
def atDomainIdleGate (dom : Nat) (s : State) : Host.Outcome State Fault Refusal :=
  live s (fun e =>
    let x := e.dom dom
    if !autoDom dom || !e.fb F.GLB_PWR_CTL_AUTO_GATE || decide (x.st ≠ 2) || e.domBusy dom then e
    else (e.advance (x.used + e.fv F.GLB_PWR_CTL_IDLE)).autoGate dom 0)

/-- LEDGER_BANK_RETAIN: a Ledger bank has had no access for 10,000 t. -/
def atLedgerBankRetain (bank : Nat) (s : State) : Host.Outcome State Fault Refusal :=
  live s (fun e =>
    let d := 1 + bank
    let x := e.dom d
    if 4 ≤ bank ∨ x.st ≠ 2 then e
    else
      (e.advance (x.used + 10000)).autoGate d 3)

end Sys2Proof.Machine
end

