-- ==== Sys2Proof/Machine/Composer.lean ====
section
/-!
DEFINITION. The meanings of the Composer's commands (spec/05_batch_composition.md).
-/
namespace Sys2Proof.Machine

/-- INSTANCE_TRIGGER: an idle instance with an eligible sibling triggers (R175). After a composition with no slot it waits for
what R179 names. -/
def execInstanceTrigger (inst : Nat) (s : State) : Host.Outcome State Fault Refusal :=
  live s (fun e => if (e.inst inst).quiet then e else e.selfTrigger inst)

/-- ARRAY_STEP_DONE: the array has sent every row of the outstanding step (R340), or a step without rows has ended (R174). A
follower's step is outstanding until this report: no Sampler commits there, and R57 names no end (DESIGN CHOICE, assumption log 69). -/
def execArrayStepDone (inst : Nat) (s : State) : Host.Outcome State Fault Refusal :=
  live s (fun e =>
    match (e.inst inst).step with
    | none => e
    | some st =>
      if !st.started || st.arrayDone then e
      else
        let rowed := (e.inst inst).lead && st.slots.any (fun (x : Slot) => x.rowed)
        let timer := if rowed then some (e.now + e.joinTimeout) else Option.none
        let e := e.modInst inst (fun x => { x with step := some { st with arrayDone := true, timer } })
        if rowed then e
        else if (e.inst inst).lead then (e.stepTrigger inst).resolveStep inst
        else (e.advanceChunks st).resolveStep inst)

/-- COMPOSE_START: the Composer takes the next queued trigger and starts its composition (R176). -/
def execComposeStart (s : State) : Host.Outcome State Fault Refusal :=
  live s (fun e =>
    match e.stw.run, e.nextTrigger with
    | none, some i => e.composeStart i
    | _, _ => e)

/-- STEP_EMIT: the waiting composition of an instance is emitted (R204), or the flush step of its drain (R473). -/
def atStepEmit (inst : Nat) (s : State) : Host.Outcome State Fault Refusal :=
  live s (fun e => if e.flushDue inst then e.emitFlush inst else e.stepEmit inst)

/-- EPOCH_DRAINED: no token of the old epoch remains in the instance's region (R222). -/
def execEpochDrained (inst : Nat) (s : State) : Host.Outcome State Fault Refusal :=
  live s (fun e =>
    if (e.inst inst).changing then e.modInst inst (fun x => { x with drained := true }) else e)

/-- ARRAY_CONFIG_LOADED: the array has loaded the configuration asked for. It completes a model load or a restore's
configuration, or is one condition of the waiting epoch change (R170, R222, R483). The Shelf region and the layer groups that
the array reports are taken at each load, and the moves that a smaller region calls for start (R282, R635). -/
def execArrayConfigLoaded (inst shelfMib : Nat) (groups : List Nat) (s : State) : Host.Outcome State Fault Refusal :=
  live s (fun e =>
    let x := e.inst inst
    if !x.active then e
    else
      let e := (e.leaveEnd 0 inst).setShvi inst { e.shvi inst with shelfMib, lgs := if groups.isEmpty then (e.shvi inst).lgs else groups }
      let e := e.balance inst
      let m := e.model x.mid
      let e := if x.loading then e.quotaTake inst else e
      if x.loading && (m.weightsIn || decide (m.state = 2)) then e.loadDone inst
      else if (e.ctx inst).state = 3 then e.modCtx inst (fun c => { c with cfgIn := true, readyAt := max c.readyAt e.now })
      else if x.changing then e.modInst inst (fun x => { x with cfgLoaded := true })
      else e)

/-- ARRAY_CONFIG_FAILED: a configuration load has failed. A model load fails with it (R170); the load of an epoch change or of a
restore is asked for once more (assumption log 36). -/
def execArrayConfigFailed (inst : Nat) (s : State) : Host.Outcome State Fault Refusal :=
  live s (fun e =>
    let x := e.inst inst
    if !x.active then e
    else
      let e := e.leaveEnd 0 inst
      if x.loading then e.instFail inst
      else if (e.ctx inst).state = 3 then e.askConfig inst (e.ctx inst).imgCfg
      else if x.changing && !x.cfgLoaded then e.askConfig inst x.newCfg
      else e)

end Sys2Proof.Machine
end

