-- ==== Sys2Proof/Machine/Hatch.lean ====
section
/-!
DEFINITION. The commands of Hatch (spec/03_hatch_rings_and_doorbells.md): ring configuration, doorbells, fetched descriptors,
head advance, overflow drain and the hello exchange.
-/
namespace Sys2Proof.Machine

/-- The first multiple of `period` at or after both `now` and `next`. -/
def Eng.dueAt (e : Eng) (next period : Nat) : Nat := roundUp (max e.now next) period

/-- Writable bits of HAT_RING_CFG other than EN. -/
def ringCfgMask : Nat := 0x3FFF7FF7

/-- RING_CFG_BAD (R80, R86, R121). -/
def Eng.ringCfgBad (e : Eng) (r pid : Nat) : Eng := e.raiseP 0x0010 1 pid r

/-- Setting EN with the configuration word `w` of ring `r` is allowed (R80, R86, R121); reserved codes of KIND and LOG2_DEPTH
are not (assumption log 33). -/
def Eng.ringMayEnable (e : Eng) (w : Nat) : Bool :=
  let q := bitsOf w 23 16
  e.hat.version.isSome && decide (bitsOf w 1 0 ≠ 3 ∧ bitsOf w 7 4 ≤ 12)
    && (bitOf w 2 || (decide (e.fv F.HAT_HELLO_CAPS_CXL_CACHE = 1) && decide (0x0201 ≤ e.hat.version.getD 0)))
    && (decide (bitsOf w 1 0 ≠ 0) || decide (e.ringKind q = 1 ∧ e.ringPid q = bitsOf w 13 8))

/-- Some enabled submission ring names `r` as its completion ring. -/
def Eng.isCq (e : Eng) (r : Nat) : Bool :=
  ringRange.any (fun s => e.ringEn s && decide (e.ringKind s = 0 ∧ e.cqOf s = r))

/-- An instance with a sibling whose completion ring is `c`. -/
def Eng.ringInsts (e : Eng) (c : Nat) : List Nat :=
  instRange.filter (fun i => e.led.recs.any (fun p => decide (p.2.inst = i) && p.2.live && decide (e.cqOf p.2.ring = c)))

/-- A completion ring leaves the blocked state: the wait of R179 ends for every instance with a sibling whose records go to it. -/
def Eng.unblocked (e : Eng) (c : Nat) : Eng := (e.ringInsts c).foldl (fun e i => e.modInst i (fun x => { x with quiet := false })) e

/-- A write of HAT_RING_CFG (R80, R86, R104, R121, R179, R617, R618). Counts start from 0 when EN is set (assumption log 34). An overrun of the
tick clears EN behind the driver's write (R623). -/
def Eng.ringCfgWrite (e : Eng) (data : Word) : Eng :=
  let r := e.fv F.HAT_RING_SEL_RING
  let old := (e.reg 0x1054 r).toNat
  let d := data.toNat
  let en := bitOf d 3
  let differs := decide (d &&& ringCfgMask ≠ old &&& ringCfgMask)
  if bitOf old 3 then
    let e := if differs then e.wwe 0x1054 else e
    if en then e else (e.poke F.HAT_RING_CFG_EN 0 r).resolve
  else if e.isCq r && decide (bitsOf d 1 0 ≠ bitsOf old 1 0 ∨ bitsOf d 13 8 ≠ bitsOf old 13 8) then e.wwe 0x1054
  else
    let e := e.putReg 0x1054 r (BitVec.ofNat 32 (d &&& ringCfgMask))
    if !en then e
    else if !e.ringMayEnable d then e.ringCfgBad r (bitsOf d 13 8)
    else
      let g := e.ring r
      let e := (e.poke F.HAT_RING_CFG_EN 1 r).setRing r { ovf := g.ovf, lostFlag := g.lostFlag }
      if g.overAt = some e.now then (e.setRing r { e.ring r with overAt := g.overAt }).poke F.HAT_RING_CFG_EN 0 r
      else (if e.blocked r then e else e.unblocked r).resolve

/-- A write of HAT_RING_CFG. -/
def execRingCfgWrite (data : Word) (s : State) : Host.Outcome State Fault Refusal := live s (fun e => e.ringCfgWrite data)

/-- A held doorbell line is snooped and read again (R82, R83, R88, R89). -/
def execDoorbellSnoop (ring count : Nat) (s : State) : Host.Outcome State Fault Refusal :=
  live s (fun e => if e.fv F.HAT_RING_CFG_DB_MODE ring = 0 then (e.takeCount ring count e.now).resolve else e)

/-- The periodic re-read of the held doorbell lines (R84, R88). -/
def atDoorbellPoll (counts : List (Nat × Nat)) (s : State) : Host.Outcome State Fault Refusal :=
  live s (fun e =>
    let p := e.fv F.HAT_CTL_POLL * 1000
    if p = 0 then e
    else
      let t := e.dueAt e.hat.nextPoll p
      let e := e.advance t
      let e := { e with hat := { e.hat with nextPoll := t + 1 } }
      (counts.foldl (fun e c => if e.fv F.HAT_RING_CFG_DB_MODE c.1 = 0 then e.takeCount c.1 c.2 e.now else e) e).resolve)

/-- A write of COUNT in a ring's doorbell slot (R85, R627). -/
def execHatDbwin (ring count : Nat) (s : State) : Host.Outcome State Fault Refusal :=
  live s (fun e =>
    if e.ringEn ring && decide (e.fv F.HAT_RING_CFG_DB_MODE ring = 1) then (e.takeCount ring count e.now).resolve
    else e.badAccess (0x1C000 + 64 * ring) true)

/-- A SUBMIT is fetched (R97). Its prompt and bias list are as read: of the lengths that it names. -/
def execSubmit (desc : DescBits) (larder : Option LarderBits) (prompt : List Word) (bias : List DWord) (s : State) :
    Host.Outcome State Fault Refusal :=
  live s (fun e =>
    let o := subOf desc
    if recField desc 0 7 0 = 1 ∧ subFieldsOk o = true ∧ (prompt.length ≠ o.promptLen ∨ bias.length ≠ o.biasCount) then e
    else e.descFetched 1 desc (.submit desc larder prompt bias))

/-- An ADMIT is fetched (R96, R106, R108). -/
def execAdmitOrder (desc : DescBits) (s : State) : Host.Outcome State Fault Refusal := live s (fun e => e.ordFetched 2 desc)

/-- A RESUME is fetched (R96, R144). -/
def execResume (desc : DescBits) (s : State) : Host.Outcome State Fault Refusal := live s (fun e => e.ordFetched 3 desc)

/-- A MODIFY is fetched (R146, R147, R631). -/
def execModify (desc : DescBits) (s : State) : Host.Outcome State Fault Refusal := live s (fun e => e.ordFetched 4 desc)

/-- A PREEMPT is fetched (R96, R144). -/
def execPreempt (desc : DescBits) (s : State) : Host.Outcome State Fault Refusal := live s (fun e => e.ordFetched 5 desc)

/-- A CANCEL is fetched (R108, R144, R145). -/
def execCancel (desc : DescBits) (s : State) : Host.Outcome State Fault Refusal := live s (fun e => e.ordFetched 6 desc)

/-- A LOAD_MODEL is fetched (R170). `tilesOk`: the array's check of the configurations under R444. -/
def execLoadModel (desc : DescBits) (larder : Option LarderBits) (segs : List (BitVec 128)) (role : LoadRole)
    (s : State) : Host.Outcome State Fault Refusal :=
  live s (fun e =>
    match role with
    | .lead _ => e.descFetched 0x10 desc (.loadModel desc larder segs role)
    | .part q => e.loadPart q (loadOf desc) larder segs)

/-- An UNLOAD_MODEL is fetched (R173). -/
def execUnloadModel (request : Unload) (s : State) : Host.Outcome State Fault Refusal :=
  live s (fun e =>
    match request with
    | .fetched desc => e.descFetched 0x11 desc (.unloadModel request)
    | .byLead chip inst => e.unloadPart chip inst)

/-- A NOP is fetched (R96). -/
def execNop (desc : DescBits) (s : State) : Host.Outcome State Fault Refusal := live s (fun e => e.descFetched 0x3F desc (.nop desc))

/-- Hatch advances a submission ring's head past what it has finished reading, and writes the pointer line (R92). -/
def execHeadAdvance (ring : Nat) (s : State) : Host.Outcome State Fault Refusal :=
  live s (fun e =>
    let g := e.ring ring
    if e.ringKind ring = 0 ∧ g.head ≠ g.fetched then (e.setRing ring { g with head := g.fetched }).emit (.pointerLine ring g.fetched)
    else e)

/-- Records in the overflow area go to their completion ring as it has free entries (R112); leaving the blocked state ends the
wait of R179. -/
def execOverflowDrain (ring : Nat) (s : State) : Host.Outcome State Fault Refusal :=
  live s (fun e =>
    let was := e.blocked ring
    let e := drainOvf e ring (e.ring ring).ovf
    if was && !e.blocked ring then e.unblocked ring else e)

/-- The hello exchange (R121, R122, R124, R572). -/
def Eng.hello (e : Eng) (stage : Nat) (data : Word) : Eng :=
  let v := bitsOf data.toNat 15 0
  if e.fb F.HAT_CTL_EN || ringRange.any e.ringEn then e.wwe 0x1018
  else
    let e := e.poke F.HAT_HELLO_SELECT_VER v
    let e := e.poke F.HAT_HELLO_ECHO_ECHO (e.fv F.HAT_HELLO_NONCE_NONCE)
    let ok := [0x0200, 0x0201, 0x0202, 0x0300, 0x0301, 0x0302].contains v
    let res := fun (e : Eng) (st why : Nat) =>
      ((e.poke F.HAT_HELLO_RESULT_STATE st).poke F.HAT_HELLO_RESULT_REASON why).poke F.HAT_HELLO_RESULT_VER (e.hat.version.getD 0)
    if stage = 1 then res e 2 2
    else if ok then res { e with hat := { e.hat with version := some v } } 1 0
    else res e 2 1

/-- A write of HAT_HELLO_SELECT with GO set. -/
def execHelloGo (data : Word) (s : State) : Host.Outcome State Fault Refusal :=
  live s (fun e => if bitOf data.toNat 31 then e.hello s.boot.stage data else e)

end Sys2Proof.Machine
end

