-- ==== Sys2Proof/Machine/Ledger.lean ====
section
/-!
DEFINITION. The commands of the Ledger and the Gate's clockwork (spec/04_ledger_and_admission.md), and the end of a prefix match
(spec/07_shelver_crates_and_tiers.md R268, R273, R274).
-/
namespace Sys2Proof.Machine

/-- A spilled record is hot again (R131). -/
def execRecordFill (slot : Nat) (s : State) : Host.Outcome State Fault Refusal :=
  live s (fun e => if (e.rc slot).isSome && !e.led.hot.contains slot then e.touch slot else e)

/-! ### Accounting ring (R517, R519, R520) -/

/-- Records that the accounting ring holds. -/
def Eng.acctSize (e : Eng) : Nat := 2 ^ max 7 (min 24 (e.fv F.KPR_ACCT_CFG_LOG2_RECORDS))

/-- The accounting ring is full. -/
def Eng.acctFull (e : Eng) : Bool :=
  decide ((e.fv F.KPR_ACCT_HEAD_COUNT + two32 - e.fv F.KPR_ACCT_READ_COUNT) % two32 = e.acctSize)

/-- Advance KPR_ACCT_HEAD. -/
def Eng.acctNext (e : Eng) : Eng := e.poke F.KPR_ACCT_HEAD_COUNT ((e.fv F.KPR_ACCT_HEAD_COUNT + 1) % two32)

/-- The request record of a release (R519). -/
def Eng.acctRelease (e : Eng) (first : Nat) (r : LRec) : Eng :=
  let a := tgetD e.kpr.reqs first {}
  let e := { e with kpr := { e.kpr with reqs := tdel e.kpr.reqs first } }
  if !e.fb F.KPR_ACCT_CFG_REQ_EN || !e.fb F.KPR_CTL_EN then e
  else if e.acctFull then e.bump F.KPR_ACCT_LOST_COUNT
  else
    (e.emit (.acctReq (e.fv F.KPR_ACCT_HEAD_COUNT % e.acctSize) (rqPid r.rqid) r.gen r.rqid r.userTag
      [a.engineNs, a.tokens % two32, a.prefixPos % two32, a.storeB, a.cellarB, a.rafB, a.energy])).acctNext

/-! ### Release (R138) -/

/-- A request may be released: every sibling has ended and no step contains one, every record has been written, and the Shelver
has released every crate. -/
def Eng.releasable (e : Eng) (first : Nat) (r : LRec) : Bool :=
  let ss := e.sibs first
  e.allEnded first && !(e.hat.heldRecs.any (fun x => decide (x.2.rqid = r.rqid ∧ x.2.gen = r.gen)))
    && ss.all (fun s => !e.inStep s && (e.smap s).isNone)
    && !(e.shv.groups.any (fun g => decide (g.2.kind ≠ 1) && ss.contains g.2.owner))

/-- Free a request's slots, pages and charges (R132, R138, R157, R160, R386, R631, R637). The spec orders neither the slots of one request
nor its chains of pages among themselves: the model's choice is that its slots join the free list in sibling order, and its pages as the
prompt's chain, the bias list's, then each sibling's in sibling order (assumption log 58). Nor does it say when the reservation that an ended
sibling has not used returns to the pool: here it is at the release of its request (DESIGN CHOICE, assumption log 70). -/
def Eng.releaseReq (e : Eng) (first : Nat) (r : LRec) : Eng :=
  let ss := e.sibs first
  let p := rqPid r.rqid
  let o := e.param first
  let recs := ss.filterMap (fun s => e.rc s)
  let pages := r.promptPages ++ r.biasPages ++ recs.flatMap (fun q => q.pages)
  let resv := sumBy (fun (q : LRec) => q.pagesResv) recs
  let e := ss.foldl (fun e s => match e.rc s with
    | some q => e.mirrorRec s { q with state := 0 }
    | none => e) e
  let e := e.acctRelease first r
  let e := { e with gat := { e.gat with ctxUse := tsetD e.gat.ctxUse p (e.ctxOf p - r.ctxCharge) 0, live := tsetD e.gat.live p (e.liveOf p - ss.length) 0 } }
  let e := { e with led := { e.led with
    recs := ss.foldl tdel e.led.recs
    freed := e.led.freed ++ ss
    hot := e.led.hot.filter (fun x => !ss.contains x)
    params := tdel e.led.params first
    prompts := tdel e.led.prompts first
    bias := tdel e.led.bias first
    gent := ss.foldl tdel e.led.gent
    pageFreed := e.led.pageFreed ++ pages
    pagesReserved := e.led.pagesReserved - resv } }
  let e := { e with siv := { e.siv with pdaStacks := ss.foldl tdel e.siv.pdaStacks } }
  let e := if o.grammarEn then e.gramDrop o.grammarId ss.length else e
  if decide (r.admitStamp ≠ 0) && (e.inst r.inst).lead && (e.instModel r.inst).unload.isSome && !e.instRequests r.inst then e.unloadDone r.inst
  else e

/-- Release of a request by the slot of its first record. Holdings that an ended sibling still has are dropped first (R270). -/
def execSlotRelease (slot : Nat) (s : State) : Host.Outcome State Fault Refusal :=
  live s (fun e =>
    match e.rc slot with
    | none => e
    | some r =>
      if r.kind then e
      else
        let e' := (e.sibs slot).foldl (fun e x => e.reap x) e
        if e'.releasable slot r then e'.releaseReq slot r else e)

/-- A write of LED_PEEK_SLOT takes a snapshot of the slot's record (R133). -/
def execLedgerPeek (data : Word) (s : State) : Host.Outcome State Fault Refusal :=
  live s (fun e =>
    let n := bitsOf data.toNat 23 0
    let e := if (e.rc n).isSome then e.recUse n else e
    let v := e.recView n
    let e := e.poke F.LED_PEEK_SLOT_SLOT n
    (List.range 32).foldl (fun e k => e.putReg (0x2080 + 4 * k) 0 (BitVec.ofNat 32 (v / 2 ^ (32 * k)))) e)

/-- The refill of the admission buckets at a whole multiple of 1,000,000 t (R159). -/
def atAdmissionBucketRefill (s : State) : Host.Outcome State Fault Refusal :=
  live s (fun e =>
    let t := roundUp (max e.now e.gat.nextRefill) 1000000
    let e := e.advance t
    let e := { e with gat := { e.gat with nextRefill := t + 1 } }
    partRange.foldl (fun e p =>
      let rate := e.av F.GAT_PART_RATE_RATE p
      if rate = 0 then e
      else
        let b := tgetD e.gat.bucket p 0
        { e with gat := { e.gat with bucket := tsetD e.gat.bucket p (max b (min (e.av F.GAT_PART_BURST_BURST p) (b + rate))) 0 } }) e)

/-! ### The prefix match (R268, R273, R274) -/

/-- The match of an admitted request ends. Siblings that replay of themselves share the matched blocks with sibling 0 (R598). -/
def Eng.matchEnd (e : Eng) (first : Nat) (r : LRec) : Eng :=
  let p := rqPid r.rqid
  let toks := tgetD e.led.prompts first []
  let n := min (e.av F.SHV_PFX_CFG_MAX_BLOCKS) ((r.promptLen - 1) / 64)
  let run := if e.av F.SHV_PART_SHARE_SHARE_EN p = 1 then matchRun e r.mid (e.domain p) 0 0x1FFFFFF toks n else []
  let m := run.length
  let e := holdRun e first first 0 run
  let e := e.modMap first (fun x => { x with resv := x.resv - m, matching := false })
  let e := (e.recUse first).modRc first (fun q => { q with pos := 64 * m })
  let e := (e.replayers first).foldl (fun e s =>
    (((holdRun e s first 0 run).recUse s).modRc s (fun q => { q with pos := 64 * m })).mirror s) e
  let e := if m = 0 then e else e.bump F.SHV_PFX_HITS_COUNT m
  let e := e.count 0x100E m (some p) (some r.inst)
  let e := e.modReq first (fun a => { a with prefixPos := a.prefixPos + 64 * m })
  let e := e.shvTell r.inst { kind := 2, gen := r.gen, rqid := r.rqid, a := m }
  (((e.mirror first).recall first).recallAll)

/-- The prefix match of the request whose first record is `slot` ends. -/
def execPrefixMatch (slot : Nat) (s : State) : Host.Outcome State Fault Refusal :=
  live s (fun e =>
    match e.rc slot, e.smap slot with
    | some r, some m => if m.matching then e.matchEnd slot r else e
    | _, _ => e)

end Sys2Proof.Machine
end

