-- ==== Sys2Proof/Machine/Keeper.lean ====
section
/-!
DEFINITION. The meanings of Keeper's commands (spec/13_partitions_shares_isolation.md).
-/
namespace Sys2Proof.Machine

/-- ACTIVITY_POINT: at each whole multiple of 10,000 t (R454, R455). -/
def atActivityPoint (s : State) : Host.Outcome State Fault Refusal :=
  live s (fun e =>
    let t := roundUp (max e.now e.kpr.nextPoint) 10000
    let e := e.advance t
    ({ e with kpr := { e.kpr with nextPoint := t + 1 } }).activity)

/-! ### Refills (R457, R462, R466) -/

/-- Reserved credit of a partition on a link for one window of 1,024 t (R462): RING / 256 of 51,200 B, SLED / 256 of 25,600 B. -/
def Eng.windowCredit (e : Eng) (p l : Nat) : Nat :=
  if l < 7 then 25600 * e.av F.KPR_PART_RAF_RESV_SLED p / 256 else 51200 * e.av F.KPR_PART_RAF_RESV_RING p / 256

/-- The buckets gain RATE up to BURST, and the reserved credits are set anew. -/
def Eng.refillPart (e : Eng) (p : Nat) : Eng :=
  let r := e.rates p
  let credits := linkRange.foldl (fun t l => tsetD t l (e.windowCredit p l) 0) ([] : Tab Nat)
  e.modPart p (fun k => { k with
    store := refill1 r.1 (e.av F.KPR_PART_STORE_BURST_BURST p) k.store
    cellar := refill1 r.2.1 (e.av F.KPR_PART_CELLAR_BURST_BURST p) k.cellar
    raf := refill1 r.2.2 (e.av F.KPR_PART_RAF_BURST_BURST p) k.raf
    credits })

/-- REGULATOR_REFILL: at each whole multiple of 1,024 t. Waiting requests are admitted at the end of the tick (R466 items 1 and 5). -/
def atRegulatorRefill (s : State) : Host.Outcome State Fault Refusal :=
  live s (fun e =>
    let t := roundUp (max e.now e.kpr.nextRefill) 1024
    let e := e.advance t
    let e := { e with kpr := { e.kpr with nextRefill := t + 1 } }
    if !e.kprOn then e
    else
      let e := partRange.foldl Eng.refillPart e
      { e with kpr := { e.kpr with admitting := true } })

/-! ### The close of an accounting interval (R467 to R470, R518, R520) -/

/-- The interval in force: values below 10,000 are treated as 10,000. -/
def Eng.interval (e : Eng) : Nat := max 10000 (e.av F.KPR_ACCT_INTERVAL_INTERVAL)

/-- The slowdown record of a partition: A, C, B, SLOW, PID (R469). -/
def Eng.slowRec (e : Eng) (p : Nat) : Nat × Nat × Nat × Nat × Nat :=
  let k := e.part p
  (satN 32 k.aTicks, satN 32 k.cTicks, satN 32 k.bTicks, slowdown k.aTicks k.cTicks k.bTicks, p)

/-- A partition's slowdown is shown, and reported when it exceeds a nonzero limit (R469, R470). -/
def Eng.slowReport (e : Eng) (n p : Nat) : Eng :=
  let k := e.part p
  let v := slowdown k.aTicks k.cTicks k.bTicks
  let e := e.poke F.KPR_PART_SLOW_SLOW v p
  let lim := e.av F.KPR_PART_SLOW_LIMIT_LIMIT p
  if lim ≠ 0 ∧ lim < v then e.raiseP 0x0092 12 p (v + 2 ^ 16 * n) else e

/-- The quantities of a partition since its last record (R518). -/
def KPart.quantities (k : KPart) : List Nat := [k.engineNs, k.coreNs, k.storeB, k.cellarB, k.rafB, k.energy]

/-- The partition record of interval `n` (R518); one put off while the ring was full covers every interval since the last (R520). -/
def Eng.acctPart (e : Eng) (n p : Nat) : Eng :=
  let k := e.part p
  if k.quantities.all (fun v => decide (v = 0)) then e
  else if e.acctFull then e.setPart p { k with acctLate := true }
  else
    let first := if k.acctLate then k.acctNext else n
    let span := satN 16 ((n + two32 - first) % two32 + 1)
    let e := (e.emit (.acctPart (e.fv F.KPR_ACCT_HEAD_COUNT % e.acctSize) p span first e.now k.quantities)).acctNext
    e.setPart p { k with engineNs := 0, coreNs := 0, storeB := 0, cellarB := 0, rafB := 0, energy := 0, acctNext := (n + 1) % two32, acctLate := false }

/-- ACCT_INTERVAL_CLOSE: at each whole multiple of KPR_ACCT_INTERVAL. -/
def atAcctIntervalClose (s : State) : Host.Outcome State Fault Refusal :=
  live s (fun e =>
    let t := roundUp (max e.now e.kpr.nextClose) e.interval
    let e := e.advance t
    let e := { e with kpr := { e.kpr with nextClose := t + 1 } }
    if !e.kprOn then e
    else
      let n := e.fv F.KPR_SLOW_HEAD_HEAD
      let e := (e.emit (.slowBlock n (partRange.map e.slowRec))).poke F.KPR_SLOW_HEAD_HEAD ((n + 1) % two32)
      let e := partRange.foldl (fun e p => e.slowReport n p) e
      let e := partRange.foldl (fun e p => e.acctPart n p) e
      partRange.foldl (fun e p => e.modPart p (fun k => { k with aTicks := 0, cTicks := 0, bTicks := 0 })) e)

/-! ### Slices (R448 to R451) -/

/-- The running instance of a sliced partition. -/
def Eng.running (e : Eng) (p : Nat) : Option Nat :=
  e.activeInsts.find? (fun i => decide ((e.inst i).owner = p) && e.ctxResident i && (e.ctx i).sliceStart.isSome && decide ((e.ctx i).want = 0))

/-- SLICE in force. -/
def Eng.sliceLen (e : Eng) (p : Nat) : Nat := max 100000 (e.av F.KPR_PART_SLICE_SLICE p)

/-- The instance that follows `i` when its slice ends (R450, R501): the driver's choice, else the first after it with a sibling
whose PRIOR is a state from 3 to 6. -/
def Eng.sliceNext (e : Eng) (i : Nat) : Option Nat :=
  let order := ((List.range 16).map (fun k => (i + 1 + k) % 16)).filter (fun j => (e.rivals i).contains j
    && decide ((e.ctx j).state = 2) && !(e.ctx j).held && !(e.ctx j).gone)
  match order.find? (fun j => (e.ctx j).next) with
  | some j => some j
  | none => order.find? (fun j => (e.instSlots j).any (fun s => match e.rc s with
    | some r => decide (r.state = 8 ∧ 3 ≤ r.prior ∧ r.prior ≤ 6)
    | none => false))

/-- SLICE_END: the slice of a partition's running instance ends (R449): at its length, at once when the instance has no eligible
sibling and no step outstanding or when the partition is out of service. -/
def atSliceEnd (pid : Nat) (s : State) : Host.Outcome State Fault Refusal :=
  live s (fun e =>
    match e.kprOn && decide (e.fv F.KPR_PART_CTL_MODE pid = 1), e.running pid with
    | true, some i =>
      let c := e.ctx i
      let off := !e.fb F.KPR_PART_CTL_EN pid
      let early := off || (!e.hasEligible i && (e.inst i).step.isNone)
      let due := c.sliceStart.getD e.now + (e.sliceLen pid - c.sliceUsed)
      let e := if early then e else e.advance due
      match if off then none else e.sliceNext i with
      | none => e.modCtx i (fun c => { c with sliceStart := some e.now, sliceUsed := 0 })
      | some j => (e.wantDrain i).wantRestore j
    | _, _ => e)

/-! ### Register writes with a meaning of their own -/

/-- The partition that KPR_PART_SEL addresses. -/
def Eng.partSel (e : Eng) : Nat := e.fv F.KPR_PART_SEL_PID

/-- A partition owns an instance in LOADING or RESIDENT. -/
def Eng.ownsInst (e : Eng) (p : Nat) : Bool :=
  e.activeInsts.any (fun i => (e.inst i).lead && decide ((e.inst i).owner = p ∧ ((e.instModel i).state = 1 ∨ (e.instModel i).state = 2)))

/-- STEP + 1 of the outstanding step that holds a sibling; 0 without one. -/
def Eng.stepTag (e : Eng) (s : Nat) (r : LRec) : Nat :=
  match (e.inst r.inst).step with
  | some st => if st.slots.any (slotHas s r) then st.num + 1 else 0
  | none => 0

/-- The LOCAL image of a swapped-out context is discarded (R501): one being written once it is complete, one being read at once. A driver's
RESTORE that was reading it ends; the spec gives it no status, and the model's choice is ST_BAD_DESC, as for a LOCAL restore of an image that is
gone (DESIGN CHOICE, assumption log 28). -/
def Eng.imageLost (e : Eng) (i : Nat) : Eng :=
  let c := e.ctx i
  if c.state = 0 ∨ c.exported.isSome then e
  else if c.state = 1 then e.modCtx i (fun c => { c with gone := true })
  else
    let e := if c.state = 3 then (e.leaveEnd 0 i).modCtx i (fun c => { c with state := 2 }) else e
    let e := e.imageDrop i
    if c.state = 3 ∧ e.kpr.cmd = some i then e.cmdDone 0x2B else e

/-- A partition leaves service (R442, R497, R501): the siblings then live are noted, its instances compose no more, its LOCAL images are
discarded, and its semaphores are freed, those of contexts that this engine follows among them (R471). A composition that is running or
waiting is discarded (assumption log 71). -/
def Eng.partLeave (e : Eng) (p : Nat) : Eng :=
  let was := ((e.part p).leaving).map (fun x => x % 2 ^ 40)
  let l := (e.led.recs.filter (fun r => decide (rqPid r.2.rqid = p) && r.2.live && !was.contains (r.1 + 2 ^ 24 * r.2.gen))).map
    (fun r => r.1 + 2 ^ 24 * r.2.gen + 2 ^ 40 * e.stepTag r.1 r.2 + 2 ^ 90 * e.now)
  let e := e.modPart p (fun k => { k with leaving := k.leaving ++ l })
  let own := e.activeInsts.filter (fun i => decide ((e.inst i).owner = p))
  let e := (own.filter (fun i => (e.inst i).lead)).foldl (fun e i => (e.modInst i (fun x => { x with trig := none })).discardComp i) e
  let e := own.foldl (fun e i => e.imageLost i) e
  (own.foldl (fun e i => e.semBreak i) e).donateAll

/-- PARTITION_CTL_WRITE: EN, MODE and SHARE of the partition selected (R442, R446). -/
def execPartitionCtlWrite (data : Word) (s : State) : Host.Outcome State Fault Refusal :=
  live s (fun e =>
    let p := e.partSel
    let was := e.fb F.KPR_PART_CTL_EN p
    let mode := e.fv F.KPR_PART_CTL_MODE p
    let fixed := decide (bitsOf data.toNat 2 1 ≠ mode) && e.ownsInst p
    let w := if fixed then setBits data 2 1 mode else data
    let e := e.rwsWrite 0xC014 p (w &&& 0xFFFF0007)
    let e := if fixed then e.wwe 0xC014 else e
    if was && !e.fb F.KPR_PART_CTL_EN p then e.partLeave p else e)

/-- TILES_WRITE: the tile groups of the partition selected (R443). -/
def execTilesWrite (data : Word) (s : State) : Host.Outcome State Fault Refusal :=
  live s (fun e =>
    let p := e.partSel
    let g := bitsOf data.toNat 15 0
    let others := (partRange.filter (fun q => decide (q ≠ p))).map (fun q => e.tileMask q)
    if others.any (fun m => decide (m &&& g ≠ 0)) then e.raiseP 0x0090 12 p g
    else if g ≠ e.tileMask p ∧ e.ownsInst p = true then e.wwe 0xC018
    else e.poke F.KPR_PART_TILES_GROUPS g p)

/-- A resident instance of a partition, led or followed by this engine, has a wrapped placement (R302). -/
def Eng.ownsWrapped (e : Eng) (p : Nat) : Bool :=
  e.activeInsts.any (fun i => decide ((e.inst i).owner = p) && wrapped (e.inst i).chips && e.instIn i)

/-- RAF_RESV_WRITE: the reserved link shares of the partition selected (R302, R463). A write lowers the reservation when its RING is below
the one last written. -/
def execRafResvWrite (data : Word) (s : State) : Host.Outcome State Fault Refusal :=
  live s (fun e =>
    let p := e.partSel
    let ring := bitsOf data.toNat 7 0
    let sled := bitsOf data.toNat 15 8
    let others := partRange.filter (fun q => decide (q ≠ p))
    if 256 < ring + sumBy (fun q => e.fv F.KPR_PART_RAF_RESV_RING q) others
        ∨ 256 < sled + sumBy (fun q => e.fv F.KPR_PART_RAF_RESV_SLED q) others then e.raiseP 0x0091 12 p (bitsOf data.toNat 15 0)
    else if ring < 32 ∧ ring < e.fv F.KPR_PART_RAF_RESV_RING p ∧ e.ownsWrapped p = true then e.wwe 0xC054
    else e.rwsWrite 0xC054 p (data &&& 0xFFFF))

end Sys2Proof.Machine
end

