-- ==== Sys2Proof/Machine/Time.lean ====
section
/-!
DEFINITION. What happens at a Tally value (spec/02_tally_and_step_time.md, spec/04_ledger_and_admission.md): step edges, idle
edges, deadlines, and the cyclic slot table.
-/
namespace Sys2Proof.Machine

/-! ### Siblings that end at an edge -/

/-- The step of a swapped-out context is frozen: it is no step that commits first (R442, R476, R501). -/
def Eng.stepFrozen (e : Eng) (i : Nat) : Bool :=
  let c := e.ctx i
  decide (c.state = 2 ∨ c.state = 3) || (decide (c.state = 1) && c.freeze && c.halted)

/-- A sibling noted when its partition's EN cleared is due to end (R442): its record is still live, `hit` selects it, and no
step that was outstanding then still holds it, unless it is frozen. An edge in the tick of the write is not after it. -/
def Eng.leaveDue (e : Eng) (hit : Nat → LRec → Bool) (x : Nat) : Bool :=
  match e.rc (x % 2 ^ 24) with
  | none => false
  | some r =>
    decide (r.gen = x / 2 ^ 24 % 65536) && r.live && hit (x % 2 ^ 24) r
      && (match (e.inst r.inst).step with
        | some st => decide (st.num + 1 ≠ x / 2 ^ 40 % 2 ^ 50) || e.stepFrozen r.inst
        | none => true)
      && decide (x / 2 ^ 90 < e.now)

/-- A sibling noted when its partition's EN cleared is still live. -/
def Eng.leaveStands (e : Eng) (x : Nat) : Bool :=
  match e.rc (x % 2 ^ 24) with
  | none => false
  | some r => decide (r.gen = x / 2 ^ 24 % 65536) && r.live

/-- End the siblings of partition `p` that R442 ends at an edge. -/
def Eng.leavePart (e : Eng) (hit : Nat → LRec → Bool) (p : Nat) : Eng :=
  let l := (e.part p).leaving
  if l.isEmpty then e
  else
    let due := l.filter (e.leaveDue hit)
    let keep := l.filter (fun x => !e.leaveDue hit x && e.leaveStands x)
    due.foldl (fun e x => e.endSib (x % 2 ^ 24) 0x38) (e.modPart p (fun k => { k with leaving := keep }))

/-- R442 at an edge, over every partition. -/
def Eng.leaveEnds (e : Eng) (hit : Nat → LRec → Bool) : Eng := partRange.foldl (fun e p => e.leavePart hit p) e

/-- An admitted sibling of an instance. -/
def LRec.onInst (r : LRec) (i : Nat) : Bool := decide (r.inst = i ∧ 3 ≤ r.state ∧ r.state ≤ 8)

/-- A request that no Gate has admitted: QUEUED or HELD. -/
def LRec.waitsGate (r : LRec) : Bool := decide (r.state = 1 ∨ r.state = 2)

/-- DEADLINE_LAST has passed at this edge (R149). -/
def Eng.lastPassed (e : Eng) (r : LRec) : Bool := decide (r.deadlineLast ≠ 0 ∧ r.deadlineLast < e.now)

/-- End the siblings that `hit` selects whose DEADLINE_LAST has passed. -/
def Eng.deadlineEnds (e : Eng) (hit : LRec → Bool) : Eng :=
  (e.led.recs.filter (fun p => hit p.2 && p.2.live && e.lastPassed p.2)).foldl (fun e p => e.endSib p.1 0x18) e

/-- The siblings that an edge of an instance ends, once the Gate has decided (R151): the deadline check (R149) and the siblings of partitions
out of service (R442). -/
def Eng.edgeEnds (e : Eng) (i : Nat) : Eng :=
  let e := e.deadlineEnds (fun r => r.onInst i)
  e.leaveEnds (fun _ r => r.onInst i)

/-! ### Step edges (R55, R62, R163, R282) -/

/-- The step-period estimate takes up an edge (R163). The spec gives no period for an instance's first edge and no limit for a long one: the
model's choice is that the first edge leaves the estimate, and that it is kept modulo 2^24 (assumption log 57). -/
def Eng.estEdge (e : Eng) (i : Nat) : Eng :=
  let x := e.inst i
  let e := match x.lastEdge with
    | some t => e.poke F.GAT_INST_STEP_EST_EST (stepEst (e.fv F.GAT_INST_STEP_EST_EST i) (e.now - t)) i
    | none => e
  e.modInst i (fun x => { x with lastEdge := some e.now })

/-- The edge of an instance's outstanding step. The Gate's re-evaluations, the checks of deadlines and the moves that it calls for come at the
end of its tick (R151, R288). -/
def Eng.stepEdge (e : Eng) (i : Nat) : Eng :=
  let x := e.inst i
  match x.step with
  | none => e
  | some st =>
    if st.started || !e.aligned i then e
    else
      let e := (e.advance st.edge).edgeViews i
      let e := (e.modInst i (fun x => { x with step := some { st with started := true } })).tell (.startStep i st.num)
      (e.estEdge i).markEdge i

/-- STEP_EDGE: the Tally reaches the edge of the outstanding step of an instance. -/
def atStepEdge (inst : Nat) (s : State) : Host.Outcome State Fault Refusal := live s (fun e => e.stepEdge inst)

/-! ### Idle edges (R58) -/

/-- The idle edge of the engine at the present Tally: views first, the rest for the instances then idle at the end of its tick (R151). -/
def Eng.idleEdge (e : Eng) : Eng :=
  let e := e.idleViews
  { e with gat := { e.gat with idles := some (e.activeInsts.filter e.instIdle) } }

/-- IDLE_EDGE: the Tally reaches a whole multiple of 10,000. -/
def atIdleEdge (s : State) : Host.Outcome State Fault Refusal :=
  live s (fun e =>
    let t := e.dueAt e.nextIdle 10000
    let e := e.advance t
    ({ e with nextIdle := t + 1 }).idleEdge)

/-! ### Deadlines of requests (R148, R149, R488, R501) -/

/-- A context is SAVED with DEST LOCAL, its image discarded or not (R488, R501). -/
def Eng.savedLocal (e : Eng) (i : Nat) : Bool := (e.inst i).active && decide ((e.ctx i).state = 2 ∧ (e.ctx i).exported = none)

/-- The checks made at each whole multiple of 10,000 whether or not an instance is idle. R106 makes the one record of a request that no Gate has
admitted an ORDER record, and R630 counts it among those that are not: the model's choice is R106's (DESIGN CHOICE, assumption log 70). -/
def Eng.queuedCheck (e : Eng) : Eng :=
  let l := e.led.recs.filter (fun p => p.2.waitsGate && decide (rqSlot p.2.rqid = p.1) && e.lastPassed p.2)
  let e := l.foldl (fun e p => e.endRequest p.1 0x18) e
  let saved := e.activeInsts.filter e.savedLocal
  let e := e.deadlineEnds (fun r => saved.any (fun i => r.onInst i))
  let out := e.activeInsts.filter (fun i => decide ((e.ctx i).state ≠ 0))
  e.leaveEnds (fun _ r => out.any (fun i => r.onInst i))

/-- QUEUED_DEADLINE_CHECK: the Tally reaches a whole multiple of 10,000; the checks come after the Gate's decisions of the tick (R151). -/
def atQueuedDeadlineCheck (s : State) : Host.Outcome State Fault Refusal :=
  live s (fun e =>
    let t := e.dueAt e.nextQueued 10000
    let e := e.advance t
    { e with nextQueued := t + 1, gat := { e.gat with queued := true } })

/-- No sibling of a request has drawn a token, and one is in a state from 3 to 8 (R148). -/
def Eng.firstWaits (e : Eng) (first : Nat) : Bool :=
  let l := (e.sibs first).filterMap e.rc
  l.all (fun r => decide (r.firstStamp = 0)) && l.any (fun r => decide (3 ≤ r.state ∧ r.state ≤ 8))

/-- DEADLINE_FIRST_PASS: the first tick beyond a request's DEADLINE_FIRST. -/
def atDeadlineFirstPass (slot : Nat) (s : State) : Host.Outcome State Fault Refusal :=
  live s (fun e =>
    match e.rc slot with
    | none => e
    | some r =>
      if r.deadlineFirst = 0 ∨ r.firstMissed = true ∨ rqSlot r.rqid ≠ slot ∨ e.firstWaits slot = false then e
      else
        let e := ((e.advance (r.deadlineFirst + 1)).recUse slot).modRc slot (fun r => { r with firstMissed := true })
        e.raise { code := 0x0020, unit := 2, pid := rqPid r.rqid, part := true, rqid := r.rqid, gen := r.gen,
                  arg := r.deadlineFirst })

/-! ### The cyclic slot table (R64 to R72) -/

/-- A bank may become the active one (R67). -/
def Eng.bankOk (e : Eng) (b : Bool) : Bool :=
  decide (e.cstN b ≠ 0)
    && (List.range (e.cstN b)).all (fun i => decide (1000 ≤ bitsOf (tgetD (e.cstBank b) i 0).toNat 31 0))

/-- The bank switch that waits is made or refused at the boundary `x` (R66, R67). -/
def Eng.bankSwitch (e : Eng) (x : Nat) : Eng :=
  let b := decide (e.av F.TAL_CST_CTL_BANK = 1)
  let e := { e with tal := { e.tal with switchAt := none } }
  if b = e.tal.activeBank then e
  else if !e.bankOk b then e.raiseE 0x0031 14 (b2n b)
  else ({ e with tal := { e.tal with activeBank := b } }.poke F.TAL_CST_CTL_ACTIVE_BANK (b2n b)).pokePair 0xE024 x

/-- The work of the frame boundary at `x` (R66, R72). -/
def Eng.frameBoundary (e : Eng) (x : Nat) : Eng :=
  let e := { e with tal := { e.tal with barred := [], nextFrame := x + 1 } }
  match e.tal.switchAt with
  | some t => if t ≤ x then e.bankSwitch x else e
  | none => e

/-- The frame boundary that comes next: that of a waiting switch when it has passed. -/
def Eng.nextBoundary (e : Eng) : Nat :=
  match e.tal.switchAt with
  | some t => if t ≤ e.now then t else e.frameStart (max e.now e.tal.nextFrame)
  | none => e.frameStart (max e.now e.tal.nextFrame)

/-- CST_FRAME_BOUNDARY: a frame of the active bank ends. -/
def atCstFrameBoundary (s : State) : Host.Outcome State Fault Refusal :=
  live s (fun e =>
    if e.cstLen e.tal.activeBank = 0 ∧ e.tal.switchAt.isNone = true then e
    else
      let x := e.nextBoundary
      (e.advance x).frameBoundary x)

/-- The first start of a slot at or after `t`. -/
def Eng.slotFrom (e : Eng) (t : Nat) : Nat := if t ≤ e.cstBase then e.cstBase else (e.slotAt (t - 1)).2.2

/-- The lowest instance of a partition, led by this engine, that has a step outstanding. -/
def Eng.outstandingOf (e : Eng) (p : Nat) : Option Nat :=
  e.activeInsts.find? (fun i => (e.inst i).lead && decide ((e.inst i).owner = p) && (e.inst i).step.isSome)

/-- A slot begins at the present Tally: the partitions that it is not usable by and that have a step outstanding overrun (R72). -/
def Eng.slotBegins (e : Eng) : Eng :=
  let late := partRange.filter (fun p => !e.usable p e.now && (e.outstandingOf p).isSome)
  late.foldl (fun e p =>
    let e := { e with tal := { e.tal with barred := sinsert e.tal.barred p } }
    e.raiseP 0x0033 14 p ((e.outstandingOf p).getD 0 + 2 ^ 8 * (e.barEnd % 2 ^ 56)) (e.outstandingOf p)) e

/-- CST_SLOT_START: the next slot of the active bank begins; a frame boundary that falls there is taken first. -/
def atCstSlotStart (s : State) : Host.Outcome State Fault Refusal :=
  live s (fun e =>
    if !e.cstOn then e
    else
      let x := e.slotFrom (max e.now e.tal.nextSlot)
      let e := e.advance x
      let e := if e.frameStart x = x ∧ e.tal.nextFrame ≤ x then e.frameBoundary x else e
      ({ e with tal := { e.tal with nextSlot := x + 1 } }).slotBegins)

/-- The entry that TAL_CST_ADDR selects. -/
def Eng.cstEntry (e : Eng) : DWord := tgetD (e.cstBank (e.fb F.TAL_CST_ADDR_BANK_SEL)) (e.fv F.TAL_CST_ADDR_SLOT) 0

/-- Commit an entry (R64): bits [63:39] are reserved. A commit to the active bank while EN is set has no effect (R11). -/
def Eng.cstCommit (e : Eng) (v : Nat) : Eng :=
  let b := e.fb F.TAL_CST_ADDR_BANK_SEL
  let n := e.fv F.TAL_CST_ADDR_SLOT
  let w : DWord := BitVec.ofNat 64 (v % 2 ^ 39)
  if e.fb F.TAL_CST_CTL_EN ∧ b = e.tal.activeBank then (if w = e.cstEntry then e else e.wwe 0xE034)
  else if b then { e with tal := { e.tal with bank1 := tsetD e.tal.bank1 n w 0 } }
  else { e with tal := { e.tal with bank0 := tsetD e.tal.bank0 n w 0 } }

/-- CST_ENTRY_COMMIT: a 32-bit write of TAL_CST_DATA_HI (R64, R621): with the held low word, or the entry's own. -/
def execCstEntryCommit (data : Word) (s : State) : Host.Outcome State Fault Refusal :=
  live s (fun e =>
    let k := 0xE034
    let lo := match tget e.pairLow k with
      | some w => w.toNat
      | none => bitsOf e.cstEntry.toNat 31 0
    ({ e with pairLow := tdel e.pairLow k }).cstCommit (lo + two32 * data.toNat))

/-- EDGE_LEAD_WRITE: a write of TAL_EDGE_LEAD_n (R49, R56, R61). -/
def execEdgeLeadWrite (n : Nat) (data : Word) (s : State) : Host.Outcome State Fault Refusal :=
  live s (fun e =>
    if 16 ≤ n then e
    else (e.rwsWrite (0xE080 + 4 * n) 0 (data &&& 0xFFFFF)).leadClamped n (bitsOf data.toNat 19 0))

end Sys2Proof.Machine
end

