-- ==== Sys2Proof/Machine/Reads.lean ====
section
/-!
DEFINITION. What a register reads as (spec/00_scope.md R6 to R8, spec/20_register_map.md R616 to R620): the fields that show the
state of a unit, placed over the word that software last wrote.
-/
namespace Sys2Proof.Machine

/-- Fields placed over a word: (high bit, low bit, value). -/
def overlay (w : Word) (l : List (Nat × Nat × Nat)) : Word := l.foldl (fun w f => setBits w f.1 f.2.1 f.2.2) w

/-- Half of a 64-bit quantity: the low word at offset `lo`. -/
def halfOf (off lo v : Nat) : Word := BitVec.ofNat 32 (if off = lo then v else v / two32)

/-- A 32-bit field that is the whole word. -/
def whole (v : Nat) : Word := BitVec.ofNat 32 v

/-- A mask of `n` bits. -/
def maskOf (n : Nat) (f : Nat → Bool) : Nat := sumBy (fun i => if f i then 2 ^ i else 0) (List.range n)

/-- A signed number limited to 32 bits. -/
def sat32 (v : Int) : Nat := unsgn 32 (max (-(2 ^ 31 : Int)) (min (2 ^ 31 - 1) v))

/-- The select value in force for a register copy (R619). -/
def Eng.selOf (e : Eng) (s : Sel) : Nat :=
  match s with
  | .none => 0
  | .hatRing => e.fv F.HAT_RING_SEL_RING
  | .gatPart => e.fv F.GAT_PART_SEL_PID
  | .gatInst => e.fv F.GAT_INST_SEL_INST
  | .cmpPart => e.fv F.CMP_PART_SEL_PID
  | .cmpInst => e.fv F.CMP_INST_SEL_INST
  | .stwSlot => e.fv F.STW_SLOT_SEL_SLOT
  | .shvPart => e.fv F.SHV_PART_SEL_PID
  | .shvInst => e.fv F.SHV_INST_SEL_INST
  | .shvModel => e.fv F.SHV_MODEL_SEL_MID
  | .sivGrammar => e.fv F.SIV_GRAMMAR_SEL_ID
  | .binLevel => e.fv F.BIN_LEVEL_SEL_LEVEL
  | .binCluster => e.fv F.BIN_CLUSTER_SEL_CLUSTER
  | .kprPart => e.fv F.KPR_PART_SEL_PID
  | .kprSem => e.fv F.KPR_SEM_SEL_SEM
  | .rasUnit => e.fv F.RAS_UNIT_SEL_UNIT

/-- A select value names an item (R620). -/
def selNames (s : Sel) (v : Nat) : Bool :=
  match s with
  | .rasUnit => decide (1 ≤ v ∧ v ≤ 16)
  | _ => true

/-! ### Units -/

/-- Hatch. -/
def Eng.hatFields (e : Eng) (off sel : Nat) (w : Word) (offline : Bool) : Word :=
  match off with
  | 0x1004 => overlay w [(0, 0, b2n offline), (1, 1, b2n e.hat.version.isSome), (2, 2, b2n e.quiet),
      (3, 3, e.fv F.HAT_HELLO_CAPS_CXL_CACHE), (16, 8, (ringRange.filter e.ringEn).length)]
  | 0x1058 => whole (e.ring sel).head
  | 0x105C => whole (e.ring sel).tail
  | 0x106C => whole e.ovfCount
  | _ => w

/-- The Ledger and the Gate. -/
def Eng.ledFields (e : Eng) (off sel : Nat) (w : Word) : Word :=
  match off with
  | 0x2020 => whole e.led.recs.length
  | 0x2024 => whole e.led.hot.length
  | 0x2028 => whole e.pagesFree
  | 0x3040 => whole (e.liveOf sel)
  | 0x3044 => whole (e.ctxOf sel)
  | 0x3048 => whole (tgetD e.gat.bucket sel 0)
  | 0x304C => whole (e.deferredOf sel)
  | _ => w

/-- The Composer. -/
def Eng.cmpFields (e : Eng) (off sel : Nat) (w : Word) : Word :=
  let x := e.inst sel
  match off with
  | 0x4004 => overlay 0 [(3, 0, e.stw.run.getD 0), (4, 4, b2n e.stw.run.isSome),
      (12, 8, (instRange.filter (fun i => (e.inst i).trig.isSome)).length)]
  | 0x4044 => overlay w [(5, 0, x.owner), (8, 8, b2n x.lead), (9, 9, b2n x.active)]
  | 0x4058 => overlay 0 [(3, 0, x.epoch), (7, 4, if x.changing then x.nextEpoch else 0), (8, 8, b2n x.changing), (15, 12, x.cfg),
      (23, 16, b2n (x.changing && x.step.isSome))]
  | 0x4060 => halfOf off 0x4060 x.stepNo
  | 0x4064 => halfOf off 0x4060 (x.stepNo % 2 ^ 48)
  | 0x4068 => overlay 0 [(15, 0, x.lastCycles), (30, 16, x.lastSlots)]
  | 0x406C => whole x.lastTokens
  | _ => w

/-- The Steward. -/
def Eng.stwFields (e : Eng) (off sel : Nat) (w : Word) : Word :=
  let p := tgetD e.stw.progs sel {}
  match off with
  | 0x501C => overlay 0 [(0, 0, b2n e.stw.load.isSome), (7, 4, e.stw.loadResult)]
  | 0x5024 =>
    if sel = 0 then overlay 0 [(12, 0, 11), (13, 13, 1), (23, 16, 0), (31, 24, 1)]
    else overlay 0 [(12, 0, p.nbundle), (13, 13, b2n p.valid), (23, 16, p.minor), (31, 24, p.major)]
  | 0x5028 | 0x502C => halfOf off 0x5028 p.id
  | 0x5038 => overlay 0 [(12, 0, e.stw.faultPc), (15, 13, e.stw.faultSlot), (19, 16, e.stw.faultCause)]
  | _ => w

/-- The Shelver. -/
def Eng.shvFields (e : Eng) (off sel : Nat) (w : Word) : Word :=
  let m := e.model sel
  match off with
  | 0x6004 => whole (e.shv.ops.filter (fun p => decide (p.2.what = 0))).length
  | 0x601C => whole e.nodesFree
  | 0x6088 => whole (e.resUse sel)
  | 0x6090 => whole (e.cellarUse sel)
  | 0x6094 => whole (e.shvi sel).shelfMib
  | 0x6098 => whole (if (e.inst sel).active then (e.instModel sel).streamInc else 0)
  | 0x60A4 => overlay 0 [(2, 0, m.state), (3, 3, b2n m.stream), (7, 4, if m.state = 1 ∨ m.state = 2 then m.inst else 0)]
  | _ => w

/-- A Pantry command in the layout of R319. -/
def PanCmd.bits (c : PanCmd) : Nat :=
  c.kind % 8 + 2 ^ 3 * b2n c.demand + 2 ^ 8 * (c.srcFmt % 16) + 2 ^ 12 * (c.dstFmt % 16) + 2 ^ 16 * (c.srcTier % 4)
    + 2 ^ 18 * (c.dstTier % 4) + 2 ^ 24 * (c.pid % 64) + 2 ^ 32 * (c.id % 65536) + 2 ^ 48 * (c.mid % 4096) + 2 ^ 60 * (c.inst % 16)
    + 2 ^ 64 * (if c.kind = 3 then c.group % two32 else c.group % 2 ^ 26 + 2 ^ 26 * (c.lm1 % 64)) + 2 ^ 96 * (c.dstGroup % 2 ^ 26)
    + 2 ^ 128 * (c.srcAddr % 2 ^ 64) + 2 ^ 192 * (c.dstAddr % 2 ^ 64)

/-- The Pantry. -/
def Eng.panFields (e : Eng) (off : Nat) (w : Word) : Word :=
  if off = 0x7004 then
    overlay 0 [(3, 0, maskOf 4 (fun n => !e.pan.retired.contains n)),
      (4, 4, b2n ((e.pan.running ++ e.pan.demand ++ e.pan.background).any (fun (c : PanCmd) => decide (c.kind = 3 ∧ c.started ≠ 0)))),
      (16, 8, e.pan.demand.length), (27, 17, e.pan.background.length)]
  else if 0x7080 ≤ off ∧ off < 0x70A0 then
    match e.pan.lastCmd with
    | some c => whole (c.bits / 2 ^ (8 * (off - 0x7080)))
    | none => 0
  else w

/-- The Sampler. -/
def Eng.smpFields (e : Eng) (off : Nat) (w : Word) : Word :=
  if off = 0x8004 then
    overlay 0 [(6, 0, ((List.range 64).filter (fun n => (e.lanePhys n).isSome)).length), (10, 8, e.smp.spares.length), (23, 16, e.joinUsed)]
  else if 0x8020 ≤ off ∧ off < 0x802C then
    let k := 8 * (off - 0x8020)
    whole (maskOf 32 (fun b => decide (k + b < 68) && e.smp.retired.contains (k + b)))
  else if 0x8100 ≤ off ∧ off < 0x8200 then
    match e.lanePhys ((off - 0x8100) / 4) with
    | some p => overlay 0 [(6, 0, p), (7, 7, 1)]
    | none => 0
  else w

/-- The Sieve. -/
def Eng.sivFields (e : Eng) (off sel : Nat) (w : Word) : Word :=
  let g := e.gram sel
  match off with
  | 0x9004 => overlay 0 [(3, 0, maskOf 4 (fun n => !e.siv.retired.contains n)), (19, 8, (e.siv.cache.filter e.pageHeld).length)]
  | 0x902C => overlay 0 [(0, 0, b2n e.siv.install.isSome), (7, 4, e.siv.result)]
  | 0x9034 => if !g.valid then 0 else overlay 0 [(1, 0, if g.draining then 2 else 1), (15, 4, g.mid)]
  | 0x9038 => whole g.live
  | _ => w

/-- The RSU. -/
def Eng.rsuFields (e : Eng) (off : Nat) (w : Word) : Word :=
  match off with
  | 0xA004 => overlay 0 [(6, 0, ((List.range 68).filter (fun n => !e.rsu.bad.contains n)).length),
      (11, 8, maskOf 4 (fun n => !e.rsu.bad.contains (68 + n))), (12, 12, b2n e.rsu.svcOk), (13, 13, b2n e.rsu.jumpOk)]
  | 0xA064 => overlay 0 [(0, 0, b2n e.rsu.probeBusy)]
  | 0xA068 | 0xA06C => halfOf off 0xA068 e.rsu.probeOut.toNat
  | _ => w

/-- Bins. -/
def Eng.binFields (e : Eng) (off sel : Nat) (w : Word) : Word :=
  match off with
  | 0xB004 => overlay 0 [(7, 0, maskOf 8 (fun n => !e.bin.retired.contains n)),
      (21, 8, (e.bin.entries.filter (fun b => b.bank.isSome)).length)]
  | 0xB014 => whole (e.bin.entries.filter (fun b => b.bank.isNone)).length
  | 0xB034 => whole (e.bin.entries.filter (fun b => decide (b.level = sel))).length
  | _ => w

/-- A context's word of KPR_CTX_STATE. -/
def Eng.ctxWord (e : Eng) (i : Nat) : Word :=
  let c := e.ctx i
  overlay 0 [(1, 0, c.state), (2, 2, b2n c.held), (3, 3, b2n c.frozen), (4, 4, b2n (e.ctxBlocked i)), (5, 5, b2n c.donating)]

/-- A semaphore's word of KPR_SEM_STATE. -/
def Eng.semWord (e : Eng) (n : Nat) : Word :=
  let k := tgetD e.kpr.sems n {}
  let h := k.holder.getD 0
  if k.holder.isNone then overlay 0 [(23, 16, k.waiters.length)]
  else overlay 0 [(0, 0, 1), (1, 1, b2n k.swapped), (7, 2, (e.inst h).owner), (11, 8, h), (23, 16, k.waiters.length)]

/-- Keeper. -/
def Eng.kprFields (e : Eng) (off sel : Nat) (w : Word) : Word :=
  let k := e.part sel
  match off with
  | 0xC004 => overlay 0 [(6, 0, (partRange.filter (fun p => (e.part p).active)).length),
      (14, 8, (partRange.filter (fun p => e.fb F.KPR_PART_CTL_EN p)).length)]
  | 0xC028 | 0xC02C => halfOf off 0xC028 k.pass
  | 0xC038 => whole (sat32 k.store)
  | 0xC044 => whole (sat32 k.cellar)
  | 0xC050 => whole (sat32 k.raf)
  | 0xC080 | 0xC084 => halfOf off 0xC080 e.kpr.gvt
  | 0xC10C => overlay 0 [(0, 0, b2n e.kpr.cmd.isSome), (15, 8, e.kpr.cmdStatus)]
  | 0xC110 | 0xC114 => halfOf off 0xC110 e.kpr.imgBytes
  | 0xC144 => e.semWord sel
  | 0xC20C => whole e.kpr.draw
  | 0xC210 => whole e.baseline.toNat
  | 0xC214 => whole e.kpr.committed
  | 0xC224 => whole e.kpr.queue.length
  | 0xC278 | 0xC27C => halfOf off 0xC278 e.kpr.unattr
  | _ => if 0xC180 ≤ off ∧ off < 0xC1C0 then e.ctxWord ((off - 0xC180) / 4) else w

/-- A logical lane is served by a physical lane in ACTIVE. -/
def Eng.laneServed (e : Eng) (l : Nat) : Bool := laneRange.any (fun p => decide ((e.lane p).log = some l ∧ (e.lane p).st = 3))

/-- Rafter. -/
def Eng.rafFields (e : Eng) (off : Nat) (w : Word) : Word :=
  let map := sumBy (fun l => 16 ^ l * (tgetD e.raf.remap l l % 16)) laneRange
  match off with
  | 0xD004 => overlay 0 [(11, 0, maskOf 12 e.laneServed), (12, 12, b2n (e.lane 11).log.isSome)]
  | 0xD018 => overlay w [(0, 0, b2n e.raf.mapBusy), (7, 4, e.raf.mapResult)]
  | 0xD01C => whole e.raf.mapId
  | 0xD024 => overlay 0 [(3, 0, e.raf.parent.getD 15), (7, 4, e.raf.depth), (9, 8, if e.raf.mapLoaded then e.voters.length else 0),
      (10, 10, b2n e.isMaster), (11, 11, b2n e.isActing)]
  | 0xD028 => whole (sat32 e.raf.theta)
  | 0xD02C => whole (sat32 e.raf.rate)
  | 0xD030 | 0xD034 => halfOf off 0xD030 map
  | _ =>
    if 0xD040 ≤ off ∧ off < 0xD070 then
      let x := e.lane ((off - 0xD040) / 4)
      overlay 0 [(2, 0, x.st), (7, 4, x.peerLane), (13, 8, x.peerPos % 64), (31, 16, if x.st = 3 ∨ x.st = 4 then x.ver else 0)]
    else w

/-- The Tally. -/
def Eng.talFields (e : Eng) (off : Nat) (w : Word) : Word :=
  match off with
  | 0xE000 | 0xE004 => halfOf off 0xE000 e.now
  | 0xE008 => whole e.frac
  | 0xE00C => overlay 0 [(1, 0, e.tal.state), (15, 8, min 255 e.tal.errBound)]
  | 0xE034 | 0xE038 => halfOf off 0xE034 e.cstEntry.toNat
  | 0xE03C | 0xE040 => halfOf off 0xE03C (e.cstLen e.tal.activeBank)
  | 0xE044 => whole e.cstCrc
  | 0xE048 | 0xE04C => halfOf off 0xE048 (maskOf 64 (fun p => e.tal.barred.contains p))
  | _ => w

/-- A word of a captured fault record. -/
def capWord (c : Option FaultRec) (k : Nat) : Word :=
  match c with
  | some f => whole (f.bits / 2 ^ (32 * k))
  | none => 0

/-- RAS. -/
def Eng.rasFields (e : Eng) (off sel : Nat) (w : Word) : Word :=
  let c := e.cap_ sel
  let b := fun (y : Buddy) => (y.chip.getD 0, b2n y.chip.isSome)
  match off with
  | 0xF004 => overlay 0 [(15, 0, maskOf 16 (fun u => (e.cap_ (u + 1)).handling)), (16, 16, b2n e.ras.quiescing), (17, 17, b2n e.quiet)]
  | 0xF008 => overlay 0 [(11, 0, e.ras.causeCode), (16, 12, e.ras.causeUnit)]
  | 0xF024 => overlay w [(0, 0, b2n c.handling), (1, 1, b2n c.cap1.isSome), (2, 2, b2n c.cap2.isSome), (3, 3, b2n c.halted)]
  | 0xF080 => overlay w [(13, 8, (b e.ras.sled).1), (14, 14, (b e.ras.sled).2), (21, 16, (b e.ras.ring).1), (22, 22, (b e.ras.ring).2)]
  | 0xF084 => overlay 0 [(1, 0, e.ras.sled.state), (3, 2, e.ras.ring.state),
      (31, 8, satN 24 ((e.ras.sled.sent - e.ras.sled.acked) + (e.ras.ring.sent - e.ras.ring.acked)))]
  | _ =>
    if 0xF040 ≤ off ∧ off < 0xF060 then capWord c.cap1 ((off - 0xF040) / 4)
    else if 0xF060 ≤ off ∧ off < 0xF080 then capWord c.cap2 ((off - 0xF060) / 4)
    else w

/-- Counting is stopped (R603). -/
def Eng.cntFrozen (e : Eng) : Bool := e.fb F.CNT_CTL_FREEZE || (e.fb F.CNT_CTL_ARM && decide (e.pairv 0x10008 ≤ e.now))

/-- Counters and the debug registers. -/
def Eng.dbgFields (e : Eng) (off : Nat) (w : Word) : Word :=
  if off = 0x10000 then overlay w [(3, 3, b2n e.cntFrozen)]
  else if 0x10200 ≤ off ∧ off < 0x10400 then
    let n := (off - 0x10200) / 8
    halfOf off (0x10200 + 8 * n) (tgetD e.dbg.cnt n 0)
  else if off = 0x11004 then overlay w [(0, 0, b2n e.dbg.isOpen), (1, 1, b2n e.dbg.engineHalted), (2, 2, b2n e.dbg.stwHalted)]
  else w

/-- GLB. -/
def glbFields (b : Boot) (e : Eng) (off : Nat) (w : Word) : Word :=
  match off with
  | 0x4 => overlay 0 [(2, 0, b.stage), (3, 3, b2n e.quiet)]
  | 0x8 => whole (b2n b.locked)
  | 0x10 => whole b.cause
  | 0x14 | 0x18 => halfOf off 0x14 b.serial
  | 0x28 => overlay 0 [(0, 0, b2n b.imgBusy), (7, 4, b.imgResult)]
  | 0x2C => overlay 0 [(0, 0, b2n b.initBusy), (1, 1, b2n b.initDone)]
  | _ =>
    if 0x80 ≤ off ∧ off < 0x9C then
      let d := 4 * (off - 0x80)
      whole (sumBy (fun j => if d + j < 99 then 4 ^ j * (e.dom (d + j)).st else 0) (List.range 16))
    else w

/-- What a register copy reads as. -/
def fieldsAt (b : Boot) (e : Eng) (off sel : Nat) (w : Word) : Word :=
  match off / 0x1000 with
  | 0 => glbFields b e off w
  | 1 => e.hatFields off sel w b.offline
  | 2 | 3 => e.ledFields off sel w
  | 4 => e.cmpFields off sel w
  | 5 => e.stwFields off sel w
  | 6 => e.shvFields off sel w
  | 7 => e.panFields off w
  | 8 => e.smpFields off w
  | 9 => e.sivFields off sel w
  | 10 => e.rsuFields off w
  | 11 => e.binFields off sel w
  | 12 => e.kprFields off sel w
  | 13 => e.rafFields off w
  | 14 => e.talFields off w
  | 15 => e.rasFields off sel w
  | _ => e.dbgFields off w

/-- The 32-bit word at an aligned offset: a register, a word of the Steward's view (R625), or 0. -/
def wordAtOff (b : Boot) (e : Eng) (off : Nat) : Word :=
  if 0x18000 ≤ off ∧ off < 0x1C000 then
    let w := e.pageWord (e.fv F.STW_VIEW_PAGE_PAGE) ((off - 0x18000) / 8)
    if off % 8 = 4 then w.extractLsb' 32 32 else w.extractLsb' 0 32
  else
    match regRow off with
    | none => 0
    | some (r, _) =>
      let sel := e.selOf r.sel
      if !selNames r.sel sel then 0 else fieldsAt b e off sel (e.reg off sel)

/-- The place of an offset in a pair. -/
def pairPos (off : Nat) : PairPos :=
  match regRow off with
  | some (r, _) => r.pair
  | none => .single

/-- A 64-bit access is aligned to a register pair, a doorbell slot (R627) or a doubleword of the Steward's view. -/
def wideOk (off : Nat) : Bool :=
  decide (off % 8 = 0)
    && (decide (pairPos off = .low) || decide (0x18000 ≤ off ∧ off < 0x1C000) || decide (0x1C000 ≤ off ∧ off < 0x20000 ∧ off % 64 = 0))

/-- An access of an accepted size and alignment (R4, R5). -/
def accessOk (off size : Nat) : Bool :=
  decide (off < 0x20000) && ((decide (size = 4) && decide (off % 4 = 0)) || (decide (size = 8) && wideOk off))

/-- A read while the engine is out of reset (R4 to R6): the answer is left in readData. -/
def Eng.busRead (e : Eng) (b : Boot) (off size : Nat) : Eng :=
  if !accessOk off size then ({ e with readData := 0 }).badAccess off false
  else if size = 8 then { e with readData := wordAtOff b e (off + 4) ++ wordAtOff b e off }
  else
    match pairPos off, tget e.latch (off - 4) with
    | .low, _ => { e with readData := (wordAtOff b e off).setWidth 64, latch := tput e.latch off (wordAtOff b e (off + 4)) }
    | .high, some w => { e with readData := w.setWidth 64, latch := tdel e.latch (off - 4) }
    | _, _ => { e with readData := (wordAtOff b e off).setWidth 64 }

/-- A read while the engine is absent (R125). -/
def Eng.absentRead (e : Eng) (off size : Nat) : Eng :=
  { e with readData := if off = 0x1004 ∧ size = 4 then 1 else 0 }

/-- PAIR_LOW_READ: a read of a register; that of a pair's low word latches its high word (R6). -/
def execPairLowRead (off size : Nat) (s : State) : Host.Outcome State Fault Refusal :=
  liveOr s (fun e => e.absentRead off size) (fun e => e.busRead s.boot off size)

/-- BAD_ACCESS: an access of another size or alignment has no effect, reads 0 and is recorded (R5). -/
def execBadAccess (off size : Nat) (write : Bool) (s : State) : Host.Outcome State Fault Refusal :=
  liveOr s (fun e => if write then e else { e with readData := 0 }) (fun e =>
    if accessOk off size then e
    else if write then e.badAccess off true
    else ({ e with readData := 0 }).badAccess off false)

end Sys2Proof.Machine
end

