-- ==== Sys2Proof/Machine/Bus.lean ====
section
/-!
DEFINITION. Writes of the register window (spec/00_scope.md R4 to R13, spec/20_register_map.md R617 to R627): access types, enable
fields, the lock, held words of pairs, and what setting or clearing an enable field does.
-/
namespace Sys2Proof.Machine

/-! ### Enable fields (R565, R617, R618) -/

/-- The enable field that governs the RW fields of a window; GLB, RAS and DBG have none (R617). -/
def enableOf (off : Nat) : Option Fld :=
  match off / 0x1000 with
  | 14 => some F.TAL_CST_CTL_EN
  | 16 => some F.CNT_CTL_EN
  | n => if 1 ≤ n ∧ n ≤ 13 then some ⟨0x1000 * n, 0, 0⟩ else none

/-- The domains that are OFF, or RETAIN, while EN of the unit of a window is clear. -/
def enDoms (n : Nat) : List Nat :=
  match n with
  | 2 => [1, 2, 3, 4]
  | 3 => [5]
  | 4 => [6]
  | 5 => [7]
  | 6 => [8, 9]
  | 10 => [86]
  | 11 => [87]
  | 12 => [88]
  | 13 => [95]
  | _ => []

/-- The auto-gated domains of the unit of a window. -/
def autoDoms (n : Nat) : List Nat :=
  match n with
  | 7 => [10, 11, 12, 13]
  | 8 => (List.range 64).map (fun k => 14 + k)
  | 9 => [82, 83, 84, 85]
  | _ => []

/-- The auto-gated domains of the enabled units stay ON while AUTO_GATE is 0 (R565). -/
def Eng.autoWake (e : Eng) : Eng :=
  [7, 8, 9].foldl (fun e n => if e.fb ⟨0x1000 * n, 0, 0⟩ then (autoDoms n).foldl (fun e d => e.wake d) e else e) e

/-- EN of the unit of window `n` has been set. What needs a domain that is WAKING waits for it (R566). -/
def Eng.unitOn (e : Eng) (n : Nat) : Eng :=
  let e := (enDoms n).foldl (fun e d => e.wake d) e
  let e := if e.fb F.GLB_PWR_CTL_AUTO_GATE then e else (autoDoms n).foldl (fun e d => e.wake d) e
  match n with
  | 1 => e.resolve
  | 3 => e
  | 4 => instRange.foldl (fun e i => e.modInst i (fun x => { x with quiet := false })) e
  | 12 => (if e.domOn 88 then e.leaveEnable else e).baseNone
  | 13 => if e.domOn 95 then e.rafEnable true else e
  | _ => e

/-- EN of the unit of window `n` has been cleared. PD07 stays ON during a program load; requests that Keeper's buckets hold are admitted (R458). -/
def Eng.unitOff (e : Eng) (n : Nat) : Eng :=
  let e :=
    match n with
    | 4 => e.discardAll
    | 11 => e.binStop
    | 12 => { e with kpr := { e.kpr with admitting := true } }
    | 13 => e.rafEnable false
    | _ => e
  let e := if n = 5 ∧ e.stw.load.isSome then e else (enDoms n).foldl (fun e d => e.gate d) e
  if e.fb F.GLB_PWR_CTL_AUTO_GATE then e else (autoDoms n).foldl (fun e d => e.gate d) e

/-- A write of the enable field of window `n` (R572, R617): setting a unit's EN is accepted at stage 4 only. -/
def Eng.enWrite (e : Eng) (n stage : Nat) (on : Bool) : Eng :=
  let f : Fld := ⟨0x1000 * n, 0, 0⟩
  let was := e.fb f
  if on && !was then
    if stage < 4 then e.bringupOrder (0x1000 * n) stage else (e.poke f 1).unitOn n
  else if was && !on then (e.poke f 0).unitOff n
  else e

/-- A write of the enable field of a window whose unit does nothing else at it: TAL and CNT (R572, R617). -/
def Eng.plainEnWrite (e : Eng) (f : Fld) (stage : Nat) (on : Bool) : Eng :=
  if on && !e.fb f && decide (stage < 4) then e.bringupOrder f.off stage else e.poke f (b2n on)

/-! ### One register (R7 to R12) -/

/-- The bits of a register that may be written as RW. -/
def RegRow.rws (r : RegRow) : Word := r.rwsE ||| r.rwsI

/-- Bits of the enable field within a register. -/
def enBits (off : Nat) : Word :=
  match enableOf off with
  | some f => if f.off = off then 1 else 0
  | none => 0

/-- The RW bits of a register copy that R11 keeps from being written now. TAL_CST_NSLOT keeps the active bank's count, and the base and
doorbell address of a ring are kept by the ring's own EN. -/
def Eng.rwHeld (e : Eng) (r : RegRow) (off sel : Nat) : Word :=
  let on := match enableOf off with
    | some f => e.fb f
    | none => false
  if off = 0xE02C then
    if e.fb F.TAL_CST_CTL_EN then (if e.tal.activeBank then 0x1FFF0000 else 0x00001FFF) else 0
  else if 0x1044 ≤ off ∧ off ≤ 0x1050 then if e.ringEn sel then r.rw else 0
  else if on && !r.dag then r.rw &&& ~~~enBits off
  else 0

/-- LED_CAP.CAP is taken as the nearer bound (R126). -/
def capTaken (off : Nat) (w : Word) : Word :=
  if off = 0x2004 then
    let c := bitsOf w.toNat 22 0
    BitVec.ofNat 32 (max 1 (min 4194304 c))
  else w

/-- What a write of one word of a register copy leaves, with the enable field untouched: RW and RWS bits as written, RWL bits while the
lock is clear, W1C bits cleared. -/
def Eng.wordAfter (e : Eng) (r : RegRow) (off sel : Nat) (locked : Bool) (data : Word) : Word :=
  let old := e.reg off sel
  let data := capTaken off data
  let open_ := (r.rw &&& ~~~e.rwHeld r off sel &&& ~~~enBits off) ||| r.rws ||| (if locked then 0 else r.rwl)
  (old &&& ~~~(open_ ||| r.w1c)) ||| (data &&& open_) ||| (old &&& ~~~data &&& r.w1c)

/-- A write would change an RW bit that is kept. -/
def Eng.wweDue (e : Eng) (r : RegRow) (off sel : Nat) (data : Word) : Bool :=
  decide ((capTaken off data ^^^ e.reg off sel) &&& e.rwHeld r off sel ≠ 0)

/-- A write would change an RWL bit after the lock. -/
def Eng.walDue (e : Eng) (r : RegRow) (off sel : Nat) (locked : Bool) (data : Word) : Bool :=
  locked && decide ((data ^^^ e.reg off sel) &&& r.rwl ≠ 0)

/-- The words of one write: a register, or both registers of a pair, take their new values; the events of R11 and R12 name the lower
offset. -/
def Eng.wordsWrite (e : Eng) (off0 sel : Nat) (locked : Bool) (l : List (RegRow × Nat × Word)) : Eng :=
  let wwe := l.any (fun (x : RegRow × Nat × Word) => e.wweDue x.1 x.2.1 sel x.2.2)
  let wal := l.any (fun (x : RegRow × Nat × Word) => e.walDue x.1 x.2.1 sel locked x.2.2)
  let e := l.foldl (fun (e : Eng) (x : RegRow × Nat × Word) =>
    let w := e.wordAfter x.1 x.2.1 sel locked x.2.2
    if x.1.rws = 0 then e.putReg x.2.1 sel w else e.rwsWrite x.2.1 sel w) e
  let e := if wwe then e.wwe off0 else e
  if wal then e.wal off0 else e

/-- What follows from a write besides the register's own fields: the unit's EN, AUTO_GATE, mirroring that goes on or off (R587), and the value that
GAT_INST_STEP_EST starts from again (R163). -/
def Eng.afterWrite (e : Eng) (was : Eng) (off stage : Nat) (data : Word) : Eng :=
  let n := off / 0x1000
  if off = 0xE020 then e.plainEnWrite F.TAL_CST_CTL_EN stage (bitOf data.toNat 0)
  else if 1 ≤ n ∧ n ≤ 13 ∧ off = 0x1000 * n then e.enWrite n stage (bitOf data.toNat 0)
  else if off = 0x3084 then { e with gat := { e.gat with est := tput e.gat.est (e.selOf .gatInst) (bitsOf data.toNat 23 0) } }
  else if off = 0x40 then if was.fb F.GLB_PWR_CTL_AUTO_GATE && !e.fb F.GLB_PWR_CTL_AUTO_GATE then e.autoWake else e
  else if off = 0xF080 ∨ off = 0xF098 then if was.mirrorOn != e.mirrorOn then e.buddiesSet else e
  else e

/-- A write of one register that stands alone, or of one half of a pair that is not writable. -/
def Eng.oneWrite (e : Eng) (b : Boot) (off : Nat) (data : Word) : Eng :=
  match regRow off with
  | none => e
  | some (r, _) =>
    let sel := e.selOf r.sel
    if !selNames r.sel sel then e.badAccess off true
    else (e.wordsWrite off sel b.locked [(r, off, data)]).afterWrite e off b.stage data

/-! ### Pairs (R6, R621, R622) -/

/-- Some field of a register may be written. -/
def RegRow.writable (r : RegRow) : Bool := decide (r.rw ||| r.rws ||| r.rwl ||| r.w1c ||| r.w1s ||| r.wo ≠ 0)

/-- The low offset of the writable pair that an offset lies in. -/
def pairOf (off : Nat) : Option Nat :=
  match regRow off with
  | none => none
  | some (r, _) =>
    match r.pair with
    | .low => match regRow (off + 4) with
      | some (h, _) => if r.writable && h.writable then some off else none
      | none => none
    | .high => match regRow (off - 4) with
      | some (l, _) => if r.writable && l.writable then some (off - 4) else none
      | none => none
    | .single => none

/-- Both words of a writable pair are committed; a held low word is dropped. -/
def Eng.pairWrite (e : Eng) (b : Boot) (off : Nat) (lo hi : Word) : Eng :=
  match regRow off, regRow (off + 4) with
  | some (r, _), some (h, _) =>
    let sel := e.selOf r.sel
    if !selNames r.sel sel then e.badAccess off true
    else ({ e with pairLow := tdel e.pairLow off }).wordsWrite off sel b.locked [(r, off, lo), (h, off + 4, hi)]
  | _, _ => e

/-- A 32-bit write of the high word of a writable pair: with the held low word, or with the current one. -/
def Eng.highWrite (e : Eng) (b : Boot) (off : Nat) (data : Word) : Eng :=
  match pairOf off with
  | none => e
  | some lo =>
    if lo = off then e
    else
      let cur := match regRow lo with
        | some (r, _) => e.reg lo (e.selOf r.sel)
        | none => 0
      e.pairWrite b lo ((tget e.pairLow lo).getD cur) data

/-- PAIR_HIGH_WRITE: a 32-bit write of the high word of a writable pair commits both words (R621); that of TAL_CST_DATA commits an
entry (R64). -/
def execPairHighWrite (off : Nat) (data : Word) (s : State) : Host.Outcome State Fault Refusal :=
  if off = 0xE038 then execCstEntryCommit data s else live s (fun e => e.highWrite s.boot off data)

/-! ### The whole window -/

/-- A write of GLB_RESET (R557, R560, R561). -/
def glbReset (data : Word) (s : State) : Host.Outcome State Fault Refusal :=
  let u := bitsOf data.toNat 19 16
  if bitsOf data.toNat 15 0 ≠ resetKey then execResetKeyBad data s
  else if u = 0 then execDriverReset data s
  else execUnitReset data s

/-- A write of KPR_CTX_CMD: the command that OP names, if GO starts one. An image that the command would read from outside is not
there (assumption log 41). -/
def ctxCmd (data : Word) (s : State) : Host.Outcome State Fault Refusal :=
  let d := data.toNat
  let i := ctxInst data
  if bitOf d 31 && s.eng.kpr.cmd.isNone && decide (bitsOf d 2 0 = 1) then
    if bitOf d 3 then execSaveFreeze (some data) i s else execSaveDrain (some data) i s
  else if bitOf d 31 && s.eng.kpr.cmd.isNone && decide (bitsOf d 2 0 = 2) then execRestore (some data) i ⟨none, []⟩ s
  else if bitOf d 31 && s.eng.kpr.cmd.isNone && decide (bitsOf d 2 0 = 3) then execDiscard data none s
  else live s (fun e => e.ctxCmdWrite data)

/-- A 32-bit write of a register whose writing is a command of its own; none for the others. -/
def ownRow (off : Nat) (data : Word) (s : State) : Option (Host.Outcome State Fault Refusal) :=
  match off with
  | 0x8 => some (execGlbLock data s)
  | 0xC => some (glbReset data s)
  | 0x28 => some (execImageLoad data s)
  | 0x2C => some (execGlbInit data s)
  | 0x1018 => if bitOf data.toNat 31 then some (execHelloGo data s) else none
  | 0x1054 => some (execRingCfgWrite data s)
  | 0x2030 => some (execLedgerPeek data s)
  | 0x4024 => some (execCmpPartProgWrite data s)
  | 0x5018 => some (execProgramLoad data s)
  | 0x9028 => some (if bitOf data.toNat 16 then execGrammarRemove data s else execGrammarInstall data s)
  | 0xA064 => some (execRsuProbe data s)
  | 0xC014 => some (execPartitionCtlWrite data s)
  | 0xC018 => some (execTilesWrite data s)
  | 0xC054 => some (execRafResvWrite data s)
  | 0xC100 => some (ctxCmd data s)
  | 0xD018 => some (execMapLoad data s)
  | 0xF028 => some (execPop data s)
  | 0xF0A0 => some (execTakeover data [] s)
  | 0x10000 => some (if bitOf data.toNat 31 then execClear data s else live s (fun e => e.cntCtl s.boot.stage data))
  | _ =>
    if 0xE080 ≤ off ∧ off < 0xE0C0 then some (execEdgeLeadWrite ((off - 0xE080) / 4) data s)
    else if 0x10100 ≤ off ∧ off < 0x10200 then some (execCntSelWrite ((off - 0x10100) / 4) data s)
    else none

/-- A 32-bit write. -/
def write32 (off : Nat) (data : Word) (s : State) : Host.Outcome State Fault Refusal :=
  match ownRow off data s with
  | some o => o
  | none =>
    match pairOf off with
    | some lo =>
      if lo = off then live s (fun e => { e with pairLow := tput e.pairLow off data })
      else execPairHighWrite off data s
    | none => live s (fun e => e.oneWrite s.boot off data)

/-- A 64-bit write of a register pair. -/
def write64 (off : Nat) (data : DWord) (s : State) : Host.Outcome State Fault Refusal :=
  match pairOf off with
  | some _ => live s (fun e => e.pairWrite s.boot off (data.extractLsb' 0 32) (data.extractLsb' 32 32))
  | none => .next s

/-- REGISTER_WRITE: a host write of `size` bytes at a window offset (R4, R5, R7 to R13). -/
def execRegisterWrite (off size : Nat) (data : DWord) (s : State) : Host.Outcome State Fault Refusal :=
  if s.boot.absent then .next s
  else if !accessOk off size then execBadAccess off size true s
  else if 0x1C000 ≤ off then
    if off % 64 = 0 then execHatDbwin ((off - 0x1C000) / 64) (data.toNat % two32) s else .next s
  else if 0x18000 ≤ off then execStwViewWrite off size data s
  else if size = 8 then write64 off data s
  else write32 off (data.setWidth 32) s

end Sys2Proof.Machine
end

