-- ==== Sys2Proof/Machine/Store.lean ====
section
/-!
DEFINITION. The tables that the spec keeps in Store, by address: what a 32-bit word of each holds, from the state that the engine keeps of
it. The crate table, map nodes, sibling words and prefix entries of spec/07; the home lines, parameter blocks and history pages of spec/04;
packets, draft blocks and row control of spec/05 and spec/09; count tables; the Sieve's directory and stack lines of spec/10; the spill rings
of spec/12; the mirrored entries of spec/18. A word whose content no rule fixes now is not answered (assumption log 5).
-/
namespace Sys2Proof.Machine

/-- The 32-bit word at byte `off` of an item held as one little-endian number. -/
def wordIn (v off : Nat) : Nat := v / 2 ^ (8 * off) % two32

/-- Where address `a` lies in a table of `n` items of `size` bytes at `base`: the item, and the offset in it. -/
def tablePlace (base size n a : Nat) : Option (Nat × Nat) :=
  if base ≤ a ∧ a < base + size * n then some ((a - base) / size, (a - base) % size) else none

/-- A word of a table: `item` gives an item's bytes as one number, where they are known. -/
def tableWord (base size n a : Nat) (item : Nat → Option Nat) : Option Nat :=
  (tablePlace base size n a).bind (fun p => (item p.1).map (fun v => wordIn v p.2))

/-! ### The Ledger (spec/04_ledger_and_admission.md) -/

/-- Address of a slot's home line (R126). -/
def Eng.homeLine (e : Eng) (s : Nat) : Nat := e.pairv 0x2008 + s * 128

/-- Address of the parameter block of the request whose first record is `s` (R134). -/
def Eng.paramAddr (e : Eng) (s : Nat) : Nat := e.pairv 0x2008 + e.ledCap * 128 + s * 128

/-- A home line: the record of a slot that is not hot (R128, R129). -/
def Eng.lineAt (e : Eng) (s : Nat) : Option Nat := if e.led.hot.contains s then none else (e.rc s).map (fun _ => e.recView s)

/-- A word of the home lines or of the parameter blocks. -/
def Eng.ledgerWord (e : Eng) (a : Nat) : Option Nat :=
  (tableWord (e.homeLine 0) 128 e.ledCap a e.lineAt).or
    (tableWord (e.paramAddr 0) 128 e.ledCap a (fun s => (tget e.led.params s).map (fun d => d.toNat)))

/-- The chains of history pages with the words that they hold: the prompt and the bias list of each request, and each sibling's tokens
(R135 to R137). -/
def Eng.chains (e : Eng) : List (List Nat × List Nat) :=
  e.led.recs.flatMap (fun p =>
    [(p.2.promptPages, tgetD e.led.prompts p.1 []), (p.2.biasPages, biasWords (tgetD e.led.bias p.1 [])), (p.2.pages, tgetD e.led.gent p.1 [])])

/-- Word `k` of the `n`-th page of a chain: a token word, or the address of the next page, 0 for the last (R135). -/
def Eng.chainWord (e : Eng) (pages words : List Nat) (n k : Nat) : Option Nat :=
  if k < 1020 then words[1020 * n + k]?
  else if k < 1022 then
    some (wordIn (match pages[n + 1]? with
      | some q => e.pageAddr q
      | none => 0) (4 * (k - 1020)))
  else none

/-- A word of the overflow area: the record that each place last took (R112). -/
def Eng.overflowWord (e : Eng) (a : Nat) : Option Nat :=
  tableWord (e.ovfAddr 0) 64 (2 ^ 26) a (fun k => (tget e.hat.ovfArea k).map (fun r => r.bits 0))

/-- A word of the history pages. -/
def Eng.historyAt (e : Eng) (a : Nat) : Option Nat :=
  (tablePlace (e.pageAddr 0) 4096 e.led.pageCount a).bind (fun p =>
    (e.chains.find? (fun c => c.1.contains p.1)).bind (fun c => e.chainWord c.1 c.2 (c.1.idxOf p.1) (p.2 / 4)))

/-! ### The Shelver (spec/07_shelver_crates_and_tiers.md) -/

/-- Address of the crate of rank `k` of a group: the group's frames lie one after another (R320). -/
def Eng.crateAddr (e : Eng) (g : Grp) (k : Nat) : Nat :=
  let m := e.instModel g.inst
  g.addr + k * frameSize (crateElems m.crateBytes m.kvFmt) g.fmt

/-- A crate-table entry (R257, R258): the crate of rank `k` and layer group `lg` of a group. -/
def Eng.crateBits (e : Eng) (g : Grp) (k lg : Nat) : Nat :=
  putFields
    [(0, 2, 0, g.state), (0, 3, 3, b2n (decide (g.kind = 1))), (0, 4, 4, b2n g.full), (0, 5, 5, b2n (decide (g.kind = 2))), (0, 7, 6, g.tier),
     (1, 3, 0, g.fmt), (1, 5, 4, g.dest), (2, 5, 0, lg), (3, 3, 0, g.inst), (4, 15, 0, g.ref)]
  + putFields [(6, 15, 0, g.pin), (8, 63, 0, e.crateAddr g k), (0x10, 63, 0, g.key), (0x18, 63, 0, g.heat)]

/-- The group that holds a crate ID, with the crate's rank and layer group (R255). -/
def Eng.crateOf (e : Eng) (id : Nat) : Option (Grp × Nat × Nat) :=
  e.shv.groups.findSome? (fun p =>
    ((e.lgRanks p.2.inst).find? (fun x => decide (p.1 + x.2 = id))).map (fun x => (p.2, x.2, x.1)))

/-- A map-node entry (R260): the number that it names, SHARED and FULL. -/
def nodeEntry (id : Nat) (shared full : Bool) : Nat := id % 2 ^ 26 + 2 ^ 26 + 2 ^ 27 * b2n shared + 2 ^ 28 * b2n full

/-- Entry `j` of the leaf of blocks from `512 k` on (R260, R274): an entry that is not valid reads 0 (assumption log 54). -/
def Eng.leafEntry (e : Eng) (m : SMap) (k j : Nat) : Nat :=
  match tget m.blocks (512 * k + j) with
  | none => 0
  | some g =>
    match e.grp g with
    | some x => nodeEntry g (decide (x.kind = 1)) x.full
    | none => nodeEntry g false false

/-- Entry `j` of map node `n`, where a map holds the node (R260). -/
def Eng.nodeAt (e : Eng) (n j : Nat) : Option Nat :=
  (e.shv.maps.map (fun p => p.2) ++ e.shv.fdir.map (fun x => x.2.2.2)).findSome? (fun m =>
    if m.root = some n then
      some (match tget m.leaves j with
        | some l => nodeEntry l false false
        | none => 0)
    else (m.leaves.find? (fun p => decide (p.2 = n))).map (fun p => e.leafEntry m p.1 j))

/-- Where the array reads position `p` of layer group `lg` through the root node `root` (R261): tier and address, or absent. -/
def Eng.locate (e : Eng) (root p lg : Nat) : Option (Nat × Nat) :=
  let b := p / 64
  let valid := fun (w : Nat) => if bitOf w 26 then some (w % 2 ^ 26) else none
  ((e.nodeAt root (b / 512)).bind valid).bind (fun l => ((e.nodeAt l (b % 512)).bind valid).bind (fun g =>
    (e.grp g).bind (fun x => ((e.lgRanks x.inst).find? (fun y => decide (y.1 = lg))).map (fun y => (x.tier, e.crateAddr x y.2)))))

/-- The sibling word of a slot (R263). -/
def Eng.sibWord (e : Eng) (s : Nat) : Option Nat :=
  (e.smap s).map (fun m =>
    putFields [(0, 23, 0, m.resv), (0, 47, 24, e.away s), (0, 48, 48, b2n m.matching), (0, 49, 49, b2n m.split)])

/-- A valid prefix entry (R272). -/
def Pfx.bits (p : Pfx) : Nat :=
  putFields
    [(0, 63, 0, p.hash), (8, 25, 0, p.group), (8, 26, 26, 1), (0xC, 24, 0, p.parent), (0x10, 11, 0, p.mid), (0x10, 17, 12, p.domain)]
  + 2 ^ (8 * 0x20) * sumBy (fun (t : Nat × Nat) => t.2 % 2 ^ 20 * 2 ^ (20 * t.1)) ((List.range 64).zip p.toks)

/-- A word of the crate table, the map nodes, the sibling words or the prefix table. -/
def Eng.shelverWord (e : Eng) (a : Nat) : Option Nat :=
  ((tableWord (e.pairv 0x6008) 32 (2 ^ 26) a (fun id => (e.crateOf id).map (fun x => e.crateBits x.1 x.2.1 x.2.2))).or
    ((tablePlace (e.pairv 0x6010) 4096 (e.fv F.SHV_MAP_NODES_NODES) a).bind (fun p =>
      (e.nodeAt p.1 (p.2 / 8)).map (fun v => wordIn v (p.2 % 8))))).or
  ((tableWord (e.pairv 0x602C) 8 e.ledCap a e.sibWord).or
    (tableWord (e.pairv 0x6020) 256 (2 ^ e.pfxLog) a (fun k => (tget e.shv.pfx k).map Pfx.bits)))

/-! ### The Composer and the Sampler (spec/05_batch_composition.md, spec/09_sampler.md) -/

/-- A word of a packet: header, slot table, crate list (R208 to R212). -/
def Packet.word (p : Packet) (off : Nat) : Option Nat :=
  if off < 0x40 then some (wordIn p.header off)
  else if off < 0x100 then none
  else if off < 0x80100 then (p.slots[(off - 0x100) / 32]?).map (fun x => wordIn x.bits (off % 32))
  else (p.ents[(off - 0x80100) / 8]?).map (fun x => wordIn x.bits (off % 8))

/-- A draft block (R359). -/
def DraftBlk.bits (b : DraftBlk) : Nat :=
  putFields [(0, 6, 0, b.nprop), (1, 6, 0, b.nacc)]
  + 2 ^ (8 * 0x40) * sumBy (fun j => (tgetD b.toks (j + 1) 0 % 2 ^ 20 + 2 ^ 20 * (tgetD b.parents (j + 1) 0 % 128)) * 2 ^ (32 * j)) (List.range 64)
  + 2 ^ (8 * 0x140) * sumBy (fun (p : Nat × Nat) => p.2 % 128 * 2 ^ (8 * p.1)) ((List.range b.path.length).zip b.path)

/-- The bytes of a draft block that its rules have had written: a node beyond NPROP and a path entry beyond NACC are not known. -/
def DraftBlk.word (b : DraftBlk) (off : Nat) : Option Nat :=
  if off = 0 then some (wordIn b.bits 0)
  else if off < 0x40 then none
  else if off < 0x140 then (if off / 4 < 0x10 + b.nprop then some (wordIn b.bits off) else none)
  else if off < 0x140 + b.nacc then some (wordIn b.bits off)
  else none

/-- The row-control entry of slot `i` in the half `h` of an instance's control area (R337). -/
def Eng.ctrlAt (e : Eng) (n h i : Nat) : Option Nat :=
  (tget e.smp.area ((2 * n + h) * 16384 + i)).map RowCtl.bits

/-- A word of the packet buffers, the draft blocks, the row-control area or the count tables (R346). -/
def Eng.stepWord (e : Eng) (a : Nat) : Option Nat :=
  (((tablePlace (e.packetAddr 0 0) (2 ^ 21) 32 a).bind (fun p => (tget e.cmp.packets p.1).bind (fun k => k.word p.2))).or
    ((tablePlace (e.draftAddr 0 false) 4096 (2 ^ 18) a).bind (fun p => (tget e.smp.drafts p.1).bind (fun b => b.word p.2)))).or
  ((tableWord (e.ctrlAddr 0 0 0) 32 (2 ^ 19) a (fun k => e.ctrlAt (k / 32768) (k / 16384 % 2) (k % 16384))).or
    ((tablePlace (e.pairv 0x8018) (2 ^ 22) 68 a).bind (fun p => (tget e.smp.counts p.1).map (fun c => tgetD c.2.2 (p.2 / 4) 0))))

/-! ### The Sieve and Bins (spec/10_sieve.md, spec/12_bins_task_dispatch.md) -/

/-- A grammar directory entry (R383). -/
def Gram.bits (g : Gram) : Nat :=
  putFields
    [(0, 0, 0, b2n g.valid), (0, 1, 1, b2n g.draining), (0, 15, 4, g.mid), (8, 63, 0, g.addr), (0x10, 23, 0, g.live), (0x14, 31, 0, g.bytes)]

/-- A word of the grammar directory or of the stack lines (R373, R383). -/
def Eng.sieveWord (e : Eng) (a : Nat) : Option Nat :=
  (tableWord (e.pairv 0x9008) 32 65536 a (fun g => (tget e.siv.dir g).map Gram.bits)).or
    (tableWord (e.pairv 0x9010) 64 e.ledCap a (fun s => (tget e.siv.pdaStacks s).map (fun _ => e.stackLine s)))

/-- The entries of a level in Store, in SEQ order. -/
def Eng.spilledOf (e : Eng) (l : Nat) : List BinEnt := e.bin.entries.filter (fun b => decide (b.level = l) && b.bank.isNone)

/-- The entry at a place of a level's spill ring (R432). -/
def Eng.spillAt (e : Eng) (l n : Nat) : Option Nat :=
  let x := e.spilledOf l
  (((List.range x.length).zip x).find? (fun p => decide (e.spillPlace l p.1 = n))).map (fun p => p.2.bits)

/-- A word of the spill rings. -/
def Eng.spillWord (e : Eng) (a : Nat) : Option Nat :=
  tableWord (e.pairv 0xB008) 32 (64 * e.spillDepth) a (fun k => e.spillAt (k / e.spillDepth) (k % e.spillDepth))

/-! ### The mirror cache (spec/18_errors_and_redundancy.md) -/

/-- The mirrored entries that lie in Store (R593): those received longest ago, beyond the hot places that the cache takes. The spec does not say
which entries spill (DESIGN CHOICE, assumption log 45). -/
def Eng.mirrorsSpilled (e : Eng) : List Mirror := e.ras.mirrors.take (e.ras.mirrors.length - (131072 - e.hotCap))

/-- A mirrored entry: the record with its durable fields, and the stack line (R545, R593). -/
def Mirror.bits (m : Mirror) : Nat :=
  m.rc.bits true + 2 ^ 1024 * sumBy (fun (p : Nat × Nat) => p.2 % 256 * 256 ^ p.1) ((List.range 64).zip m.stack)

/-- A word of the spilled entries, at (chip index × LED_CAP.CAP + slot) × 192. -/
def Eng.mirrorWord (e : Eng) (a : Nat) : Option Nat :=
  tableWord (e.pairv 0xF088) 192 (64 * e.ledCap) a (fun k =>
    (e.mirrorsSpilled.find? (fun m => decide (m.chip = k / e.ledCap ∧ m.slot = k % e.ledCap))).map Mirror.bits)

/-! ### A word of Store -/

/-- The 32-bit word of Store at an address that is a multiple of 4, where a table fixes it. -/
def Eng.tableFixes (e : Eng) (a : Nat) : Option Nat :=
  (((e.ledgerWord a).or (e.historyAt a)).or (((e.shelverWord a).or (e.stepWord a)).or ((e.sieveWord a).or (e.spillWord a)))).or ((e.overflowWord a).or (e.mirrorWord a))

/-- A place of a cleared area that may have held an item since: a line or block of a slot once taken, a map node once taken, a part of a
packet buffer in use, and the follower directory while it holds a map. What no table fixes there now is not known. -/
def Eng.leftOver (e : Eng) (a : Nat) : Bool :=
  (tablePlace (e.homeLine 0) 128 e.led.fresh a).isSome || (tablePlace (e.paramAddr 0) 128 e.led.fresh a).isSome
    || (tablePlace (e.pairv 0x6010) 4096 e.shv.nodesTop a).isSome
    || (tablePlace (e.packetAddr 0 0) (2 ^ 21) 32 a).any (fun p => (tget e.cmp.packets p.1).isSome)
    || (inAreas [(e.pairv 0x6034, 2 ^ 24)] a && !e.shv.fdir.isEmpty)

/-- What a 32-bit word of Store holds, where it is known: the latest engine first, then as each engine reset found it (R558). In an area that
GLB_INIT has cleared, what no table fixes is 0 (R573); the engine leaves 0 where an entry of the crate table, the prefix table, a directory,
a sibling word, a stack line or a count table is not in use (assumption log 54). -/
def storeWord (l : List Eng) (a : Nat) : Option Nat :=
  match l with
  | [] => none
  | e :: r =>
    match e.tableFixes a with
    | some v => some v
    | none =>
      if inAreas e.dbg.clearing a then none
      else if inAreas e.dbg.cleared a then (if e.leftOver a then none else some 0)
      else storeWord r a

/-- The 64-bit word of Store at index `k` as the port reads it (R614): a half that is not known is a free value. `old` are the engines as
the resets found them. -/
def Eng.storeDword (e : Eng) (old : List Eng) (k : Nat) : DWord × Eng :=
  let lo := storeWord (e :: old) (8 * k)
  let hi := storeWord (e :: old) (8 * k + 4)
  let f := if lo.isSome && hi.isSome then (0, e) else e.fresh
  (BitVec.ofNat 64 ((lo.getD (f.1.toNat % two32)) + two32 * (hi.getD (f.1.toNat / two32))), f.2)

end Sys2Proof.Machine
end

