-- ==== Sys2Proof/Machine/Debug.lean ====
section
/-!
DEFINITION. The debug port (spec/19_counters_trace_debug.md R606 to R615): its commands, the spaces it reads and writes, breakpoints,
and the halts of the engine and of the Steward. A command completes at once (assumption log 42).
-/
namespace Sys2Proof.Machine

/-! ### The capture register (R606, R608) -/

/-- The result of a command: status, its OP and ADDR, and data read. -/
def Eng.captured (e : Eng) (op addr status data : Nat) : Eng :=
  { e with dbg := { e.dbg with capStatus := status, capOp := op, capAddr := addr % 2 ^ 40, capData := data, cmdAt := some e.now } }

/-- A command while the port is open; LOCKED while it is not (R608). One in the tick of another is discarded and reported as BUSY (R607). -/
def portOpen (op addr : Nat) (s : State) (f : Eng → Eng) : Host.Outcome State Fault Refusal :=
  live s (fun e =>
    if !e.dbg.isOpen then e.captured op addr 5 0
    else if e.dbg.cmdAt = some e.now then e.captured op addr 1 0
    else f (e.captured op addr 0 0))

/-! ### Halts (R610, R611) -/

/-- The argument of DBG_HALTED for a breakpoint, or for a command. -/
def haltArg (scope : Nat) (brk : Option Nat) : Nat :=
  match brk with
  | some i => scope + 4 * i + 16
  | none => scope

/-- The port is about to change a halt of the engine: what its own actions of this tick go by stays (R613). -/
def Eng.noteHalt (e : Eng) : Eng := { e with dbg := { e.dbg with haltWas := some (e.now, e.stopped) } }

/-- The same of the Steward. -/
def Eng.noteStw (e : Eng) : Eng := { e with dbg := { e.dbg with stwWas := some (e.now, e.stwStopped) } }

/-- Halt the engine. -/
def Eng.haltEngine (e : Eng) (brk : Option Nat) : Eng :=
  if e.dbg.engineHalted then e
  else
    let e := e.noteHalt
    ({ e with dbg := { e.dbg with engineHalted := true } }).raiseE 0x00C1 15 (haltArg 0 brk)

/-- Halt the Steward before its next bundle. -/
def Eng.haltSteward (e : Eng) (brk : Option Nat) : Eng :=
  if e.dbg.stwHalted then e
  else
    let e := e.noteStw
    ({ e with dbg := { e.dbg with stwHalted := true, stepOne := false } }).raiseE 0x00C1 15 (haltArg 1 brk)

/-- Resume the engine. The port acts after the engine's own actions of the tick (R613), so what the halt held back goes on in the next
one (R628): `resumed` marks it. -/
def Eng.resumeEngine (e : Eng) : Eng :=
  if !e.dbg.engineHalted then e
  else
    let e := e.noteHalt
    ({ e with dbg := { e.dbg with engineHalted := false, resumed := some e.now } }).raiseE 0x00C2 15 0

/-- A tick after a RESUME of the engine: orders that waited are applied and steps that a follower holds are armed; the requests fetched before
the halt are evaluated with those of the tick (R610, R628). -/
def Eng.afterResume (e : Eng) : Eng :=
  match e.dbg.resumed with
  | none => e
  | some t =>
    if e.stopped || decide (e.now ≤ t) then e
    else ((({ e with dbg := { e.dbg with resumed := none } })).resolve).armHeld

/-- Resume the Steward. -/
def Eng.resumeSteward (e : Eng) : Eng :=
  if !e.dbg.stwHalted then e
  else
    let e := e.noteStw
    ({ e with dbg := { e.dbg with stwHalted := false, stepOne := false } }).raiseE 0x00C2 15 1

/-- OPEN: LOCKED while PORT_EN is 0; else PD98 wakes and the port is open (R608, R609). -/
def atDbgOpen (s : State) : Host.Outcome State Fault Refusal :=
  live s (fun e =>
    if !e.fb F.DBG_CTL_PORT_EN then e.captured 1 0 5 0
    else if e.dbg.cmdAt = some e.now then e.captured 1 0 1 0
    else
      let e := (e.captured 1 0 0 0).needOn 98
      if e.dbg.isOpen then e else ({ e with dbg := { e.dbg with isOpen := true } }).raiseE 0x00C0 15 0)

/-- CLOSE: every breakpoint is cleared, what is halted resumes, and PD98 may go OFF (R609). -/
def execDbgClose (s : State) : Host.Outcome State Fault Refusal :=
  portOpen 2 0 s (fun e =>
    let e := { e with dbg := { e.dbg with brks := [] } }
    let e := (e.resumeEngine).resumeSteward
    ({ e with dbg := { e.dbg with isOpen := false } }).gate 98)

/-- HALT of the engine (R610). -/
def execHaltEngine (s : State) : Host.Outcome State Fault Refusal := portOpen 3 0 s (fun e => e.haltEngine none)

/-- HALT of the Steward (R611). -/
def execHaltSteward (s : State) : Host.Outcome State Fault Refusal := portOpen 3 1 s (fun e => e.haltSteward none)

/-- RESUME of the engine. -/
def execResumeEngine (s : State) : Host.Outcome State Fault Refusal := portOpen 4 0 s (fun e => e.resumeEngine)

/-- RESUME of the Steward. -/
def execResumeSteward (s : State) : Host.Outcome State Fault Refusal := portOpen 4 1 s (fun e => e.resumeSteward)

/-- STEP: one bundle may issue; NOT_HALTED while the Steward is not halted (R611). -/
def execDbgStep (s : State) : Host.Outcome State Fault Refusal :=
  portOpen 5 0 s (fun e =>
    if e.dbg.stwHalted then
      let e := e.noteStw
      { e with dbg := { e.dbg with stepOne := true } }
    else e.captured 5 0 3 0)

/-! ### Breakpoints (R612, R613) -/

/-- A breakpoint. -/
def Eng.brk (e : Eng) (i : Nat) : Brk := tgetD e.dbg.brks i {}

/-- Replace a breakpoint. -/
def Eng.setBrk (e : Eng) (i : Nat) (b : Brk) : Eng := { e with dbg := { e.dbg with brks := tsetD e.dbg.brks i b {} } }

/-- STATE of a slot's record; FREE for a slot without one. -/
def Eng.slotState (e : Eng) (n : Nat) : Nat :=
  match e.rc n with
  | some r => r.state
  | none => 0

/-- A breakpoint as it is armed: one of type LEDGER starts from its slot's STATE. -/
def Eng.brkArmed (e : Eng) (b : Brk) : Brk := { b with hitAt := none, was := e.slotState (bitsOf b.val 23 0) }

/-- BRK_CFG: index, type and actions. -/
def execBrkCfg (addr : Nat) (s : State) : Host.Outcome State Fault Refusal :=
  portOpen 6 addr s (fun e =>
    let i := bitsOf addr 1 0
    e.setBrk i (e.brkArmed { e.brk i with typ := bitsOf addr 4 2, acts := bitsOf addr 8 5 }))

/-- BRK_VAL: index and value. -/
def execBrkVal (addr : Nat) (data : DWord) (s : State) : Host.Outcome State Fault Refusal :=
  portOpen 7 addr s (fun e =>
    let i := bitsOf addr 1 0
    e.setBrk i (e.brkArmed { e.brk i with val := data.toNat }))

/-- A breakpoint hits in this tick (R612): TALLY in the tick V; LEDGER where its slot's record has changed its STATE in the tick, to the one
named or to any; PC where its bundle is next to issue; EMIT where its step's packet has been emitted. It hits once on each occasion. -/
def Eng.brkHits (e : Eng) (b : Brk) : Bool :=
  let v := b.val
  match b.typ with
  | 1 => decide (e.now = v ∧ b.hitAt ≠ some e.now)
  | 2 =>
    let st := e.slotState (bitsOf v 23 0)
    decide (st ≠ b.was ∧ b.hitAt ≠ some e.now) && (bitOf v 28 || decide (st = bitsOf v 27 24))
  | 3 => e.pcHits b
  | 4 =>
    match (e.inst (bitsOf v 3 0)).step with
    | some st => decide (st.num % 2 ^ 48 = bitsOf v 51 4 ∧ st.emit = e.now ∧ b.hitAt ≠ some e.now)
    | none => false
  | _ => false

/-- The actions of a hit. One of type PC halts the Steward before the bundle that is next. -/
def Eng.brkActs (e : Eng) (i : Nat) (b : Brk) : Eng :=
  let acts := b.acts
  let halts := bitOf acts 0 || bitOf acts 1
  let e := if bitOf acts 0 then e.haltEngine (some i) else e
  let e := if bitOf acts 1 then e.haltSteward (some i) else e
  let e := if bitOf acts 1 && decide (b.typ = 3) then { e with dbg := { e.dbg with stwWas := none } } else e
  let e := if bitOf acts 2 then e.poke F.CNT_TRC_CFG_EN 0 else e
  if bitOf acts 3 && !halts then e.raiseE 0x00C1 15 (haltArg 0 (some i)) else e

/-- A breakpoint hits: its bit of DBG_STATUS.BRK_HIT is set, the hit is counted, and its actions are taken (R612). -/
def Eng.brkHit (e : Eng) (i : Nat) : Eng :=
  let b := e.brk i
  let e := (e.setBrk i { b with hitAt := some (e.brkKey b) }).poke ⟨0x11004, 4 + i, 4 + i⟩ 1
  (e.bump F.DBG_BRK_HITS_COUNT).brkActs i b

/-- The breakpoint hits of a tick, last in it (R613); then the next tick's changes of STATE are watched for. -/
def Eng.brkTick (e : Eng) : Eng :=
  if e.dbg.brks.isEmpty then e
  else
    let e := ([0, 1, 2, 3] : List Nat).foldl (fun e i => if e.brkHits (e.brk i) then e.brkHit i else e) e
    { e with dbg := { e.dbg with brks := e.dbg.brks.map (fun p => (p.1, { p.2 with was := e.slotState (bitsOf p.2.val 23 0) })) } }

/-- The Tally at which a breakpoint may hit: V for one of type TALLY, where it is still to come. -/
def Eng.brkAt (e : Eng) (b : Brk) : Eng := if b.typ = 1 ∧ e.now ≤ b.val then e.advance b.val else e

/-- BREAKPOINT_HIT: a breakpoint hits where its type and value allow. -/
def atBreakpointHit (i : Nat) (s : State) : Host.Outcome State Fault Refusal :=
  live s (fun e =>
    let x := e.brkAt (e.brk i)
    if i < 4 ∧ x.brkHits (e.brk i) = true then x.brkHit i else e)

/-! ### Spaces (R614, R615) -/

/-- Words of a space; none for one that is not listed. -/
def spaceSize (space : Nat) : Option Nat :=
  match space with
  | 0 => some (2 ^ 21)
  | 1 => some (2 ^ 21)
  | 2 => some (68 * 2 ^ 17)
  | 3 => some (2 ^ 20)
  | 4 => some (4 * 2 ^ 18)
  | 5 => some (2 ^ 18)
  | 6 => some (60 * 2048)
  | 7 => some 184
  | 8 => some (8 * 4096)
  | 9 => some 0x20000
  | 10 => some (2 ^ 37)
  | _ => none

/-- An address names a word of a space. -/
def spaceHolds (space addr size : Nat) : Bool :=
  decide (addr < size) && (space ≠ 9 || decide (addr % 4 = 0)) && !(decide (space = 7) && decide (addr = 162))

/-- The key of a word of the port's memories. -/
def memKey (space addr : Nat) : Nat := space * 2 ^ 40 + addr

/-- Steward registers as the port shows them. A context register holds a value while a composition runs; at other times the value is
free. -/
def Eng.stwWord (e : Eng) (addr : Nat) : DWord × Eng :=
  if addr < 32 then (e.sreg addr, e)
  else if addr < 160 then (e.vlane ((addr - 32) / 4) ((addr - 32) % 4), e)
  else if addr = 160 then (BitVec.ofNat 64 (sumBy (fun r => 16 ^ r * (e.preg r).toNat) (List.range 8)), e)
  else if addr = 161 then (BitVec.ofNat 64 (e.stw.prog + 8 * e.stw.pc), e)
  else
    match if e.stw.run.isSome then e.ctxReg (addr - 163) else none with
    | some v => (v, e)
    | none => e.fresh

/-- The word that a memory of the engine's state holds at an address of a space: Steward memory, and the pages of the mask cache, page `n`
of the cache at words 512 n to 512 n + 511. R614 does not say where the Ledger's hot SRAM, the crate-table cache, the row buffers, the Pantry's
staging, the packet buffers and the banks of Bins keep an item, so what State holds there is at none of their addresses (DESIGN CHOICE,
assumption logs 42 and 68). -/
def Eng.heldWord (e : Eng) (space addr : Nat) : Option DWord :=
  if space = 6 then some (e.pageWord (addr / 2048) (addr % 2048))
  else if space = 3 then
    (e.siv.cache.find? (fun p => decide (p.way = addr / 512))).map (fun p => BitVec.ofNat 64 (p.bits / 2 ^ (64 * (addr % 512))))
  else none

/-- Set such a word, with check bits that agree with it. -/
def Eng.setHeld (e : Eng) (space addr : Nat) (w : DWord) : Eng :=
  if space = 6 then e.setPageWord (addr / 2048) (addr % 2048) w
  else
    let k := 2 ^ (64 * (addr % 512))
    let put := fun (p : MaskPage) =>
      if p.way = addr / 512 then { p with bits := p.bits - p.bits / k % 2 ^ 64 * k + w.toNat * k } else p
    { e with
      siv := { e.siv with cache := e.siv.cache.map put }
      dbg := { e.dbg with mem := tdel e.dbg.mem (memKey space addr) } }

/-- The memories of a space still hold the zeros of a reset (R558, R560). -/
def Eng.sramZero (e : Eng) (space : Nat) : Bool := (spaceUnit space).any (fun u => !e.dbg.worked.contains u)

/-- The data of a word, the word that its check bits agree with, and the engine. A word of Store that nothing has written through the port
is what Store holds there; a word of another memory that nothing has written so is 0 while its unit has not worked since a reset cleared it,
and free after that (assumption log 42). -/
def Eng.rawWord (e : Eng) (old : List Eng) (space addr : Nat) : DWord × DWord × Eng :=
  match e.heldWord space addr, tget e.dbg.mem (memKey space addr) with
  | some w, m => (w, (m.map (fun x => x.2)).getD w, e)
  | none, some x => (x.1, x.2, e)
  | none, none =>
    let f := if space = 10 then e.storeDword old addr else if e.sramZero space then (0, e) else e.fresh
    (f.1, f.1, f.2)

/-- The addresses whose words share check bits with a word ("Protection" of spec/18_errors_and_redundancy.md): 128 bits in the row buffers, an entry of 32 B in Bins. -/
def codeword (space addr : Nat) : List Nat :=
  if space = 2 then [addr / 2 * 2, addr / 2 * 2 + 1]
  else if space = 8 then (List.range 4).map (fun k => addr / 4 * 4 + k)
  else [addr]

/-- Bits in error among the words listed of a space. -/
def Eng.bitErrors (e : Eng) (space addr : Nat) : Nat :=
  sumBy (fun a => match tget e.dbg.mem (memKey space a) with
    | some x => ones64 (x.2 ^^^ (e.heldWord space a).getD x.1)
    | none => 0) (codeword space addr)

/-- READ of a word of a memory: a correctable error is corrected in the value returned, another returns UE (R615). The mask cache has parity:
an odd number of errors is uncorrectable, and an even number is not seen. -/
def Eng.memRead (e : Eng) (old : List Eng) (space addr : Nat) : Eng :=
  let n := e.bitErrors space addr
  let x := e.rawWord old space addr
  let ok := fun (w : DWord) => x.2.2.captured 8 addr 0 w.toNat
  if space = 3 then (if n % 2 = 1 then e.captured 8 addr 6 0 else ok x.1)
  else if 2 ≤ n then e.captured 8 addr 6 0
  else ok x.2.1

/-- READ: a word of a space (R614, R615). The queue gives an access of space 9 behind the tick's other accesses (R619; DESIGN CHOICE, assumption
log 64). -/
def execDbgRead (space addr : Nat) (s : State) : Host.Outcome State Fault Refusal :=
  portOpen 8 addr s (fun e =>
    match spaceSize space with
    | none => e.captured 8 addr 2 0
    | some n =>
      if !spaceHolds space addr n then e.captured 8 addr 4 0
      else if space = 7 then let x := e.stwWord addr; x.2.captured 8 addr 0 x.1.toNat
      else if space = 9 then e.captured 8 addr 0 (wordAtOff s.boot e addr).toNat
      else e.memRead s.old space addr)

/-- A WRITE of a space may be made now (R614). -/
def Eng.mayWrite (e : Eng) (space addr : Nat) : Bool :=
  if space = 6 then e.dbg.stwHalted && decide (28 * 2048 ≤ addr)
  else if space = 7 then e.dbg.stwHalted && decide (addr ≤ 160)
  else if space = 9 then true
  else e.dbg.engineHalted

/-- Set a Steward register; s0 and q0 discard what is written. -/
def Eng.stwSet (e : Eng) (addr : Nat) (w : DWord) : Eng :=
  if addr < 32 then e.bundleWrite (.scalar addr w)
  else if addr < 160 then e.bundleWrite (.lane (addr - 32) w)
  else (List.range 8).foldl (fun e r => e.bundleWrite (.pred r (BitVec.ofNat 4 (w.toNat / 16 ^ r)))) e

/-- WRITE to a space other than the registers. One to a memory of which R614 does not say where it keeps its items, or to Store, is the port's
alone (DESIGN CHOICE, assumption logs 42 and 68). -/
def Eng.spaceWrite (e : Eng) (space addr : Nat) (w : DWord) : Eng :=
  if space = 7 then e.stwSet addr w
  else if (e.heldWord space addr).isSome then e.setHeld space addr w
  else { e with dbg := { e.dbg with mem := tput e.dbg.mem (memKey space addr) (w, w) } }

/-- WRITE: a word together with its check bits (R614, R615). One to space 9 acts as the host's. -/
def execDbgWrite (space addr : Nat) (data : DWord) (s : State) : Host.Outcome State Fault Refusal :=
  match spaceSize space with
  | none => portOpen 9 addr s (fun e => e.captured 9 addr 2 0)
  | some n =>
    if !spaceHolds space addr n then portOpen 9 addr s (fun e => e.captured 9 addr 4 0)
    else if space = 9 ∧ s.eng.dbg.isOpen = true ∧ s.eng.dbg.cmdAt ≠ some s.eng.now ∧ s.boot.absent = false then
      execRegisterWrite addr 4 (data &&& 0xFFFFFFFF) { s with eng := s.eng.captured 9 addr 0 0 }
    else portOpen 9 addr s (fun e => if e.mayWrite space addr then e.spaceWrite space addr data else e.captured 9 addr 3 0)

/-- WRITE_RAW lists a space (R608). -/
def rawSpace (space : Nat) : Bool := decide (space ≤ 6 ∨ space = 8)

/-- Set the data bits of a word and keep its check bits. -/
def Eng.rawWrite (e : Eng) (old : List Eng) (space addr : Nat) (w : DWord) : Eng :=
  let x := e.rawWord old space addr
  let held := (e.heldWord space addr).isSome
  let e := if held then x.2.2.setHeld space addr w else x.2.2
  { e with dbg := { e.dbg with mem := if held && decide (w = x.2.1) then tdel e.dbg.mem (memKey space addr) else tput e.dbg.mem (memKey space addr) (w, x.2.1) } }

/-- WRITE_RAW: data bits without check bits (R615). -/
def execDbgWriteRaw (space addr : Nat) (data : DWord) (s : State) : Host.Outcome State Fault Refusal :=
  portOpen 10 addr s (fun e =>
    match spaceSize space with
    | none => e.captured 10 addr 2 0
    | some n =>
      if !rawSpace space then e.captured 10 addr 2 0
      else if !spaceHolds space addr n then e.captured 10 addr 4 0
      else if e.mayWrite space addr then e.rawWrite s.old space addr data
      else e.captured 10 addr 3 0)

/-- RESET: an engine reset with source DEBUG, or RESET_KEY_BAD (R557, R609). -/
def execDbgReset (data : DWord) (s : State) : Host.Outcome State Fault Refusal :=
  let k := bitsOf data.toNat 15 0
  if s.boot.absent = false ∧ s.eng.dbg.isOpen = true ∧ s.eng.dbg.cmdAt ≠ some s.eng.now ∧ k = resetKey then .next (s.resetBy 5)
  else portOpen 15 0 s (fun e => e.raiseE 0x0004 15 k)

end Sys2Proof.Machine
end

