-- ==== Sys2Proof/Machine/Tick.lean ====
section
/-!
DEFINITION. The end of a Tally tick (spec/00_scope.md R628): what the units do of themselves once every command of the tick has been taken, in
the order that R151, R288, R424, R466 and R513 give; and how a command that carries the Tally forward passes it (assumption logs 63, 64).
-/
namespace Sys2Proof.Machine

/-- Pantry commands present while no pipe is left fail with their sources intact (R332). -/
def Eng.pipesGone (e : Eng) : Eng :=
  if e.pan.retired.length < 4 then e
  else panFailAll e (4 * (e.pan.running ++ e.pan.demand ++ e.pan.background ++ e.pan.held).length)

/-- The instances that have had an edge in this tick: of a step, or the idle edge that they took. -/
def Eng.edgeInsts (e : Eng) : List Nat := (e.gat.idles.getD []).foldl sinsert e.gat.edges

/-- The Gate's decisions of the tick (R151 item 3): the re-evaluations of the instances that this engine leads, and of requests of no
instance at an idle edge of the engine, then the requests newly fetched. -/
def Eng.decideTick (e : Eng) : Eng :=
  let l := e.edgeInsts.filter (fun i => (e.inst i).lead)
  let e := l.foldl Eng.markAgain e
  (if e.gat.idles.isSome then e.markAgain 16 else e).gateTick

/-- The checks of deadlines, and of partitions out of service, at the tick's edges (R149, R442; R151 item 4). -/
def Eng.checkTick (e : Eng) : Eng :=
  let e := e.edgeInsts.foldl Eng.edgeEnds e
  let e := if e.gat.idles.isSome then e.leaveEnds (fun _ r => r.waitsGate) else e
  if e.gat.queued then e.queuedCheck else e

/-- Idle instances with an eligible sibling trigger at their idle edge (R175, R179). -/
def Eng.triggerTick (e : Eng) : Eng :=
  (e.gat.idles.getD []).foldl (fun e i => (e.modInst i (fun x => { x with quiet := false })).selfTrigger i) e

/-- Waiting requests are admitted, in the order in which they arrived, where a refill or a change of a rate may let them (R457, R466). -/
def Eng.admitTick (e : Eng) : Eng :=
  if e.kpr.admitting then
    linkRange.foldl (fun e l => e.flush l) ({ e with kpr := { e.kpr with admitting := false } }).streamRetry
  else e

/-- Move starts come last (R288): those that the tick's triggers call for, and the promotions of its edges (R282). -/
def Eng.startTick (e : Eng) : Eng := e.edgeInsts.foldl Eng.edgePromote e.moveTick

/-- The tick's edges have had all that they owe. -/
def Eng.edgesDone (e : Eng) : Eng := { e with gat := { e.gat with edges := [], idles := none, queued := false } }

/-- The activity points that the tick's step resolutions call for (R454, R466 item 3). -/
def Eng.pointTick (e : Eng) : Eng :=
  if e.kpr.pointDue then ({ e with kpr := { e.kpr with pointDue := false } }).activity else e

/-- The end of the present tick. Moves that fail come first (R288), then the blocks that enter the prefix table (R276); steps armed, Bins and
Keeper follow what touches requests; breakpoint hits come last (R613). -/
def Eng.tickEnd (e : Eng) : Eng :=
  let e := (((e.pipesGone).lateBlocks).afterResume).resolve
  let e := (((e.decideTick).checkTick).triggerTick).armHeld
  let e := ((((e.binTick).pointTick).admitTick).leaveSettle).watchBlock
  (e.startTick.edgesDone).brkTick

/-- The next tick has work that this one leaves it (R628): pushes that find room, orders whose stamp is past, what a RESUME lets go on, and
what the end of this tick has called for behind its place in the order. -/
def Eng.owesNext (e : Eng) : Bool :=
  !e.pushesFree.isEmpty || ({ e with now := e.now + 1 } : Eng).nextSet.isSome || (e.dbg.resumed.isSome && !e.dbg.engineHalted)
    || e.kpr.admitting || e.kpr.pointDue || !e.shv.late.isEmpty

/-- The first Tally at which a breakpoint of type TALLY hits before `t`. -/
def Eng.brkNext (e : Eng) (t : Nat) : Option Nat :=
  leastBy (fun n => n) (e.dbg.brks.filterMap (fun p => if p.2.typ = 1 ∧ e.now < p.2.val ∧ p.2.val < t then some p.2.val else none))

/-- Where the Tally stops next on its way to `t`: in the next tick, where that has work, or where a breakpoint hits. -/
def Eng.nextStop (e : Eng) (t : Nat) : Option Nat := if e.owesNext then some (e.now + 1) else e.brkNext t

/-- The present tick is over; what its first commit or order found is of no account to a bundle that begins later (R242). -/
def Eng.tickLeft (e : Eng) : Eng :=
  let e := e.tickEnd
  if e.bundleOpen then e else { e with stw := { e.stw with seen := none } }

/-- The ticks from the present one to `t`: each that has work is ended, and the next one begins with the pushes that the lanes have held. -/
def ticksTo (e : Eng) (t fuel : Nat) : Eng :=
  match fuel with
  | 0 => e
  | k + 1 =>
    let e := e.tickLeft
    match e.nextStop t with
    | none => e
    | some n =>
      let e := (e.advance n).binOpen
      if n < t then ticksTo e t k else e

/-- What comes before the tick `t`, to which the Tally is carried forward. -/
def Eng.tickOver (e : Eng) (t : Nat) : Eng := ticksTo e t (e.bin.stalled.length + e.hat.orders.length + e.hat.behind.length + 16)

/-- A command that may carry the Tally forward: where `f` does so, the tick that it leaves ends first, and every tick on the way that has
work. -/
def timed (s : State) (f : State → Host.Outcome State Fault Refusal) : Host.Outcome State Fault Refusal :=
  match f s with
  | .next t => if s.eng.now < t.eng.now && !s.boot.absent then f { s with eng := s.eng.tickOver t.eng.now } else .next t
  | o => o

/-- `n` cycles of CLK_CTL pass, with the end of the ticks that they leave. -/
def Eng.passCycles (e : Eng) (n : Nat) : Eng :=
  let c := e.cycles n
  if e.now < c.now then
    let x := e.tickOver c.now
    let x := { x with tal := { x.tal with acc := c.tal.acc } }
    if x.now = e.now then (x.stall n).pass c.now else x.advance c.now
  else c

end Sys2Proof.Machine
end

