-- ==== Sys2Proof/Machine/Dated.lean ====
section
/-!
DEFINITION. The meanings of the commands that carry the Tally forward to what they do: each is its effect at that Tally value, behind the end
of the tick that it leaves (spec/00_scope.md R628; assumption log 64).
-/
namespace Sys2Proof.Machine

/-- HOLD_BEAT: the beat that a waiting TAKE is owed, 200 t after its arrival and every 4,000 t after that (R427). -/
def execHoldBeat (core : Nat) (s : State) : Host.Outcome State Fault Refusal :=
  timed s (atHoldBeat core)

/-- TAKE_TIMEOUT: a TAKE has waited BIN_TAKE_WAIT ticks (R428). -/
def execTakeTimeout (core : Nat) (s : State) : Host.Outcome State Fault Refusal :=
  timed s (atTakeTimeout core)

/-- AFF_RELEASE: the hint that ends first ends; waiting TAKEs are served again at the end of its tick (R421, R424). -/
def execAffRelease (s : State) : Host.Outcome State Fault Refusal :=
  timed s atAffRelease

/-- NO_DISPATCHER: a core's port has waited 10,000 t with neither answer nor beat (R429): the engine is absent, or Bins has stopped
answering. -/
def execNoDispatcher (core : Nat) (s : State) : Host.Outcome State Fault Refusal :=
  timed s (atNoDispatcher core)

/-- FREEZE_HALT: the array halts the instance at the halt Tally, or on receipt of a later frame (R476, R477, R438). -/
def execFreezeHalt (inst : Nat) (s : State) : Host.Outcome State Fault Refusal :=
  timed s (atFreezeHalt inst)

/-- SAVE_COMPLETE: the image of a context is complete on every chip (R472); the other chips have reported their shapes. -/
def execSaveComplete (saved : Saved) (s : State) : Host.Outcome State Fault Refusal :=
  timed s (atSaveComplete saved)

/-- RESTORE_COMPLETE: 2,000 t after the later of the load and the array's read (R472, R483). A SAVE that waited starts (R501). -/
def execRestoreComplete (inst : Nat) (s : State) : Host.Outcome State Fault Refusal :=
  timed s (atRestoreComplete inst)

/-- DONATION_LONG: a borrowed slice has lasted KPR_DONATE_WARN ticks (R496). -/
def execDonationLong (sem : Nat) (s : State) : Host.Outcome State Fault Refusal :=
  timed s (atDonationLong sem)

/-- BLOCK_WINDOW_EXPIRY: every resident context has been blocked for KPR_BLOCK_WINDOW ticks and some context is runnable (R500). -/
def execBlockWindowExpiry (s : State) : Host.Outcome State Fault Refusal :=
  timed s atBlockWindowExpiry

/-- QUIESCE_WAIT_EXPIRY: every step still outstanding RAS_QUIESCE_WAIT ticks after Q is declared lost (R585). -/
def execQuiesceWaitExpiry (s : State) : Host.Outcome State Fault Refusal :=
  timed s atQuiesceWaitExpiry

/-- BUDDY_TIMEOUT: a buddy cannot be reached without a link that has been out of ACTIVE for 2 × INTERVAL; it is LOST (R594). -/
def execBuddyTimeout (ring : Bool) (s : State) : Host.Outcome State Fault Refusal :=
  timed s (atBuddyTimeout ring)

/-- The periodic re-read of the held doorbell lines (R84, R88). -/
def execDoorbellPoll (counts : List (Nat × Nat)) (s : State) : Host.Outcome State Fault Refusal :=
  timed s (atDoorbellPoll counts)

/-- ACTIVITY_POINT: at each whole multiple of 10,000 t (R454, R455). -/
def execActivityPoint (s : State) : Host.Outcome State Fault Refusal :=
  timed s atActivityPoint

/-- REGULATOR_REFILL: at each whole multiple of 1,024 t; then waiting requests are tried (R466 items 1 and 5). -/
def execRegulatorRefill (s : State) : Host.Outcome State Fault Refusal :=
  timed s atRegulatorRefill

/-- ACCT_INTERVAL_CLOSE: at each whole multiple of KPR_ACCT_INTERVAL. -/
def execAcctIntervalClose (s : State) : Host.Outcome State Fault Refusal :=
  timed s atAcctIntervalClose

/-- SLICE_END: the slice of a partition's running instance ends (R449): at its length, at once when the instance has no eligible sibling
and no step outstanding or when the partition is out of service. -/
def execSliceEnd (pid : Nat) (s : State) : Host.Outcome State Fault Refusal :=
  timed s (atSliceEnd pid)

/-- LANE_TRAIN_TIMEOUT: 500,000,000 t without lock; the third failure in a row disables the lane (R529). -/
def execLaneTrainTimeout (lane : Nat) (s : State) : Host.Outcome State Fault Refusal :=
  timed s (atLaneTrainTimeout lane)

/-- IDENT_TIMEOUT: 1,000,000 t in IDENT without a valid IDENT (R529). -/
def execIdentTimeout (lane : Nat) (s : State) : Host.Outcome State Fault Refusal :=
  timed s (atIdentTimeout lane)

/-- IDENT_RESEND: IDENT is sent again after 10,000 t, until the lane's time in IDENT is over (R529). -/
def execIdentResend (lane : Nat) (s : State) : Host.Outcome State Fault Refusal :=
  timed s (atIdentResend lane)

/-- LINK_SILENCE: no frame for 2 × INTERVAL; the link's lanes go to PHY and PEER_LOST is flooded (R529, R553, R554). -/
def execLinkSilence (link : Nat) (s : State) : Host.Outcome State Fault Refusal :=
  timed s (atLinkSilence link)

/-- SPARE_JOIN: a logical lane has been out of ACTIVE for 2 × INTERVAL; the free spare trains in its place (R524). -/
def execSpareJoin (lane : Nat) (s : State) : Host.Outcome State Fault Refusal :=
  timed s (atSpareJoin lane)

/-- The refill of the admission buckets at a whole multiple of 1,000,000 t (R159). -/
def execAdmissionBucketRefill (s : State) : Host.Outcome State Fault Refusal :=
  timed s atAdmissionBucketRefill

/-- LEAVE_WINDOW_START: at each whole multiple of 10,000 t. `draw` is what the management controller delivers. -/
def execLeaveWindowStart (draw : Option Nat) (s : State) : Host.Outcome State Fault Refusal :=
  timed s (atLeaveWindowStart draw)

/-- LEAVE_START: the start Tally of the earliest grant not yet started has come (R503). -/
def execLeaveStart (s : State) : Host.Outcome State Fault Refusal :=
  timed s atLeaveStart

/-- LEAVE_WAIT_EXPIRY: the request that has waited longest has waited KPR_LEAVE_WAIT ticks (R510). -/
def execLeaveWaitExpiry (s : State) : Host.Outcome State Fault Refusal :=
  timed s atLeaveWaitExpiry

/-- CNT_FREEZE_AT: the Tally comes to an armed freeze. -/
def execCntFreezeAt (s : State) : Host.Outcome State Fault Refusal :=
  timed s atCntFreezeAt

/-- TALLY_COPY: the controller copies the Tally of a LOCKED engine once every 10,000 t (R555). -/
def execTallyCopy (s : State) : Host.Outcome State Fault Refusal :=
  timed s atTallyCopy

/-- INIT_DONE: the areas are cleared. -/
def execInitDone (s : State) : Host.Outcome State Fault Refusal :=
  timed s atInitDone

/-- DOMAIN_WAKE_DONE: the wake of a domain is complete; a unit whose EN was cleared meanwhile then lets it go (R568). -/
def execDomainWakeDone (dom : Nat) (s : State) : Host.Outcome State Fault Refusal :=
  timed s (atDomainWakeDone dom)

/-- DOMAIN_IDLE_GATE: an auto-gated domain has been idle for GLB_PWR_CTL.IDLE. -/
def execDomainIdleGate (dom : Nat) (s : State) : Host.Outcome State Fault Refusal :=
  timed s (atDomainIdleGate dom)

/-- LEDGER_BANK_RETAIN: a Ledger bank has had no access for 10,000 t. -/
def execLedgerBankRetain (bank : Nat) (s : State) : Host.Outcome State Fault Refusal :=
  timed s (atLedgerBankRetain bank)

/-- DATA_TIMER_EXPIRY: the data timer of a slot in WAIT_CONTROL ends, and the slot is lost then (R339). -/
def execDataTimerExpiry (inst slot : Nat) (s : State) : Host.Outcome State Fault Refusal :=
  timed s (atDataTimerExpiry inst slot)

/-- STEP_TIMER_EXPIRY: the step timer of an instance's outstanding step ends (R339, R340). -/
def execStepTimerExpiry (inst : Nat) (s : State) : Host.Outcome State Fault Refusal :=
  timed s (atStepTimerExpiry inst)

/-- SYNC_SEND: at each whole multiple of INTERVAL (R547, R548); an exchange with the parent still unanswered is missed. -/
def execSyncSend (s : State) : Host.Outcome State Fault Refusal :=
  timed s atSyncSend

/-- TALLY_PARENT_TIMEOUT: no parent for 2 × INTERVAL since the last one was lost: ACQUIRING ends in FREE and LOCKED in HOLDOVER (R551). -/
def execTallyParentTimeout (s : State) : Host.Outcome State Fault Refusal :=
  timed s atTallyParentTimeout

/-- HOLDOVER_BOUND_RISE: ERR_BOUND rises every 200,000 t; above 50 t the engine is FREE (R43, R551). -/
def execHoldoverBoundRise (s : State) : Host.Outcome State Fault Refusal :=
  timed s atHoldoverBoundRise

/-- IDLE_EDGE: the Tally reaches a whole multiple of 10,000. -/
def execIdleEdge (s : State) : Host.Outcome State Fault Refusal :=
  timed s atIdleEdge

/-- STEP_EDGE: the Tally reaches the edge of the outstanding step of an instance. -/
def execStepEdge (inst : Nat) (s : State) : Host.Outcome State Fault Refusal :=
  timed s (atStepEdge inst)

/-- QUEUED_DEADLINE_CHECK: the Tally reaches a whole multiple of 10,000. -/
def execQueuedDeadlineCheck (s : State) : Host.Outcome State Fault Refusal :=
  timed s atQueuedDeadlineCheck

/-- DEADLINE_FIRST_PASS: the first tick beyond a request's DEADLINE_FIRST. -/
def execDeadlineFirstPass (slot : Nat) (s : State) : Host.Outcome State Fault Refusal :=
  timed s (atDeadlineFirstPass slot)

/-- CST_FRAME_BOUNDARY: a frame of the active bank ends. -/
def execCstFrameBoundary (s : State) : Host.Outcome State Fault Refusal :=
  timed s atCstFrameBoundary

/-- CST_SLOT_START: the next slot of the active bank begins; a frame boundary that falls there is taken first. -/
def execCstSlotStart (s : State) : Host.Outcome State Fault Refusal :=
  timed s atCstSlotStart

/-- STEP_EMIT: the waiting composition of an instance is emitted (R204), or the flush step of its drain (R473). -/
def execStepEmit (inst : Nat) (s : State) : Host.Outcome State Fault Refusal :=
  timed s (atStepEmit inst)

/-- BREAKPOINT_HIT: a breakpoint hits where its type and value allow. -/
def execBreakpointHit (i : Nat) (s : State) : Host.Outcome State Fault Refusal :=
  timed s (atBreakpointHit i)

/-- LOGIT_ROW: a row is checked under R335 and accepted or discarded. The port takes no header that finds no lane, or no join entry for a
slot that needs one (R338, R354), nor any while SMP_CTL.EN is clear. -/
def execLogitRow (tag : DWord) (len fmt : Nat) (payload : List (BitVec 8)) (s : State) : Host.Outcome State Fault Refusal :=
  timed s (atLogitRow tag len fmt payload)

/-- ROW_CONTROL_JOIN: the control half of a slot has arrived (R337). The Sieve computes the keys of a constrained slot's rows (R388), and
the slot joins the rows that wait for it (R339). -/
def execRowControlJoin (inst slot : Nat) (s : State) : Host.Outcome State Fault Refusal :=
  timed s (atRowControlJoin inst slot)

/-- SPARE_LANE_IN_SERVICE: the spare that serves a logical lane is powered and takes rows (R369). -/
def execSpareLaneInService (lane : Nat) (s : State) : Host.Outcome State Fault Refusal :=
  timed s (atSpareLaneInService lane)

/-- PROGRAM_LOAD_END: the checks of R253 have read the image. -/
def execProgramLoadEnd (image : List (BitVec 8)) (readOk : Bool) (s : State) : Host.Outcome State Fault Refusal :=
  timed s (atProgramLoadEnd image readOk)

/-- OPEN: LOCKED while PORT_EN is 0; else PD98 wakes and the port is open (R608, R609). -/
def execDbgOpen (s : State) : Host.Outcome State Fault Refusal :=
  timed s atDbgOpen

end Sys2Proof.Machine
end

