-- ==== Sys2Proof/Machine/Steward.lean ====
section
/-!
DEFINITION. The meanings of the Steward's scalar syllables (spec/06_steward_core.md R235, R236) and of the cycle limit (R248).
`y` names the unit that executes the syllable, which changes nothing of its effect. While no composition runs on the Steward, a
syllable is not issued.
-/
namespace Sys2Proof.Machine

/-- CYCLE_LIMIT: CYCLES has reached the limit, and the composition ends with the slots appended so far (R248). -/
def execCycleLimit (s : State) : Host.Outcome State Fault Refusal :=
  live s (fun e =>
    match e.stw.run with
    | none => e
    | some i =>
      if e.stw.cycles < e.stwLimit ∨ e.stwStopped then e
      else
        let x := e.inst i
        let arg := satN 16 e.stw.cycles + 2 ^ 16 * i
        let e := (e.raiseP 0x0042 5 x.owner arg (some i)).bump F.STW_OVERRUNS_COUNT
        e.endComp i)

/-- NOP: nothing (R235). -/
def execNopScalar (_y : Bool) (s : State) : Host.Outcome State Fault Refusal := live s (fun e => e)

/-- ADD: D = A + B. -/
def execSAdd (_y : Bool) (g : BitVec 3) (gn : Bool) (d a b : BitVec 5) (s : State) : Host.Outcome State Fault Refusal :=
  scalarTo g gn d s (fun e => let a := e.sreg a.toNat; let b := e.sreg b.toNat; a + b)

/-- SUB: D = A - B. -/
def execSSub (_y : Bool) (g : BitVec 3) (gn : Bool) (d a b : BitVec 5) (s : State) : Host.Outcome State Fault Refusal :=
  scalarTo g gn d s (fun e => let a := e.sreg a.toNat; let b := e.sreg b.toNat; a - b)

/-- AND: D = A AND B. -/
def execSAnd (_y : Bool) (g : BitVec 3) (gn : Bool) (d a b : BitVec 5) (s : State) : Host.Outcome State Fault Refusal :=
  scalarTo g gn d s (fun e => let a := e.sreg a.toNat; let b := e.sreg b.toNat; a &&& b)

/-- OR: D = A OR B. -/
def execSOr (_y : Bool) (g : BitVec 3) (gn : Bool) (d a b : BitVec 5) (s : State) : Host.Outcome State Fault Refusal :=
  scalarTo g gn d s (fun e => let a := e.sreg a.toNat; let b := e.sreg b.toNat; a ||| b)

/-- XOR: D = A XOR B. -/
def execSXor (_y : Bool) (g : BitVec 3) (gn : Bool) (d a b : BitVec 5) (s : State) : Host.Outcome State Fault Refusal :=
  scalarTo g gn d s (fun e => let a := e.sreg a.toNat; let b := e.sreg b.toNat; a ^^^ b)

/-- SHL: D = A shifted left by bits [5:0] of B. -/
def execSShl (_y : Bool) (g : BitVec 3) (gn : Bool) (d a b : BitVec 5) (s : State) : Host.Outcome State Fault Refusal :=
  scalarTo g gn d s (fun e => let a := e.sreg a.toNat; let b := e.sreg b.toNat; a <<< (b.toNat % 64))

/-- SHR: D = A shifted right by bits [5:0] of B. -/
def execSShr (_y : Bool) (g : BitVec 3) (gn : Bool) (d a b : BitVec 5) (s : State) : Host.Outcome State Fault Refusal :=
  scalarTo g gn d s (fun e => let a := e.sreg a.toNat; let b := e.sreg b.toNat; a >>> (b.toNat % 64))

/-- MUL: D = the low 64 bits of A times B. -/
def execSMul (_y : Bool) (g : BitVec 3) (gn : Bool) (d a b : BitVec 5) (s : State) : Host.Outcome State Fault Refusal :=
  scalarTo g gn d s (fun e => let a := e.sreg a.toNat; let b := e.sreg b.toNat; a * b)

/-- MIN: D = the lesser, signed. -/
def execSMin (_y : Bool) (g : BitVec 3) (gn : Bool) (d a b : BitVec 5) (s : State) : Host.Outcome State Fault Refusal :=
  scalarTo g gn d s (fun e => let a := e.sreg a.toNat; let b := e.sreg b.toNat; if a.slt b then a else b)

/-- MAX: D = the greater, signed. -/
def execSMax (_y : Bool) (g : BitVec 3) (gn : Bool) (d a b : BitVec 5) (s : State) : Host.Outcome State Fault Refusal :=
  scalarTo g gn d s (fun e => let a := e.sreg a.toNat; let b := e.sreg b.toNat; if a.slt b then b else a)

/-- MINU: D = the lesser, unsigned. -/
def execSMinu (_y : Bool) (g : BitVec 3) (gn : Bool) (d a b : BitVec 5) (s : State) : Host.Outcome State Fault Refusal :=
  scalarTo g gn d s (fun e => let a := e.sreg a.toNat; let b := e.sreg b.toNat; if a.ult b then a else b)

/-- MAXU: D = the greater, unsigned. -/
def execSMaxu (_y : Bool) (g : BitVec 3) (gn : Bool) (d a b : BitVec 5) (s : State) : Host.Outcome State Fault Refusal :=
  scalarTo g gn d s (fun e => let a := e.sreg a.toNat; let b := e.sreg b.toNat; if a.ult b then b else a)

/-- ADDI: D = A + sext(imm). -/
def execSAddi (_y : Bool) (g : BitVec 3) (gn : Bool) (d a : BitVec 5) (imm : BitVec 18) (s : State) : Host.Outcome State Fault Refusal :=
  scalarTo g gn d s (fun e => e.sreg a.toNat + imm18 imm)

/-- ANDI: D = A AND sext(imm). -/
def execSAndi (_y : Bool) (g : BitVec 3) (gn : Bool) (d a : BitVec 5) (imm : BitVec 18) (s : State) : Host.Outcome State Fault Refusal :=
  scalarTo g gn d s (fun e => e.sreg a.toNat &&& imm18 imm)

/-- ORI: D = A OR sext(imm). -/
def execSOri (_y : Bool) (g : BitVec 3) (gn : Bool) (d a : BitVec 5) (imm : BitVec 18) (s : State) : Host.Outcome State Fault Refusal :=
  scalarTo g gn d s (fun e => e.sreg a.toNat ||| imm18 imm)

/-- SHLI: D = A shifted left by imm[5:0]. -/
def execSShli (_y : Bool) (g : BitVec 3) (gn : Bool) (d a : BitVec 5) (imm : BitVec 18) (s : State) : Host.Outcome State Fault Refusal :=
  scalarTo g gn d s (fun e => e.sreg a.toNat <<< (imm.toNat % 64))

/-- SHRI: D = A shifted right by imm[5:0]. -/
def execSShri (_y : Bool) (g : BitVec 3) (gn : Bool) (d a : BitVec 5) (imm : BitVec 18) (s : State) : Host.Outcome State Fault Refusal :=
  scalarTo g gn d s (fun e => e.sreg a.toNat >>> (imm.toNat % 64))

/-- LI: D = sext(imm). -/
def execSLi (_y : Bool) (g : BitVec 3) (gn : Bool) (d : BitVec 5) (imm : BitVec 18) (s : State) : Host.Outcome State Fault Refusal :=
  scalarTo g gn d s (fun _ => imm18 imm)

/-- CEQ: every bit of qD = (A = B). -/
def execSCeq (_y : Bool) (g : BitVec 3) (gn : Bool) (d a b : BitVec 5) (s : State) : Host.Outcome State Fault Refusal :=
  predTo g gn d.toNat s (fun e => let a := e.sreg a.toNat; let b := e.sreg b.toNat; pall (decide (a = b)))

/-- CLT: every bit of qD = (A < B, signed). -/
def execSClt (_y : Bool) (g : BitVec 3) (gn : Bool) (d a b : BitVec 5) (s : State) : Host.Outcome State Fault Refusal :=
  predTo g gn d.toNat s (fun e => let a := e.sreg a.toNat; let b := e.sreg b.toNat; pall (a.slt b))

/-- CLTU: every bit of qD = (A < B, unsigned). -/
def execSCltu (_y : Bool) (g : BitVec 3) (gn : Bool) (d a b : BitVec 5) (s : State) : Host.Outcome State Fault Refusal :=
  predTo g gn d.toNat s (fun e => let a := e.sreg a.toNat; let b := e.sreg b.toNat; pall (a.ult b))

/-- CEQI: every bit of qD = (A = sext(imm)). -/
def execSCeqi (_y : Bool) (g : BitVec 3) (gn : Bool) (d a : BitVec 5) (imm : BitVec 18) (s : State) : Host.Outcome State Fault Refusal :=
  predTo g gn d.toNat s (fun e => pall (decide (e.sreg a.toNat = imm18 imm)))

/-- CLTI: every bit of qD = (A < sext(imm), signed). -/
def execSClti (_y : Bool) (g : BitVec 3) (gn : Bool) (d a : BitVec 5) (imm : BitVec 18) (s : State) : Host.Outcome State Fault Refusal :=
  predTo g gn d.toNat s (fun e => pall ((e.sreg a.toNat).slt (imm18 imm)))

/-- PCNT: D = the number of set bits of qA. -/
def execSPcnt (_y : Bool) (g : BitVec 3) (gn : Bool) (d : BitVec 5) (a : BitVec 3) (s : State) : Host.Outcome State Fault Refusal :=
  scalarTo g gn d s (fun e => BitVec.ofNat 64 (sumBy (fun l => b2n (pbit (e.preg a.toNat) l)) lanes4))

/-- PAND: qD = qA AND qB. -/
def execSPand (_y : Bool) (g : BitVec 3) (gn : Bool) (d a b : BitVec 3) (s : State) : Host.Outcome State Fault Refusal :=
  predTo g gn d.toNat s (fun e => e.preg a.toNat &&& e.preg b.toNat)

/-- PNOT: qD = NOT qA. -/
def execSPnot (_y : Bool) (g : BitVec 3) (gn : Bool) (d a : BitVec 3) (s : State) : Host.Outcome State Fault Refusal :=
  predTo g gn d.toNat s (fun e => ~~~ e.preg a.toNat)

/-- GETC: D = a context register (R236). One that is not listed is undefined: its value is free. -/
def execSGetc (_y : Bool) (g : BitVec 3) (gn : Bool) (d : BitVec 5) (idx : BitVec 5) (s : State) : Host.Outcome State Fault Refusal :=
  scalar g gn s (fun e =>
    match e.ctxReg idx.toNat with
    | some v => e.later (.scalar d.toNat v)
    | none => let f := e.fresh; f.2.later (.scalar d.toNat f.1))

/-- SETC: a context register = A. CFG and EST take it; a listed read-only one discards it; one that is not listed is undefined,
and a program that names it is refused at its load (R253). A syllable that its guard keeps from acting does nothing (R232). -/
def execSSetc (g : BitVec 3) (gn : Bool) (a : BitVec 5) (idx : BitVec 5) (s : State) : Host.Outcome State Fault Refusal :=
  if 20 < idx.toNat ∧ s.issues = true ∧ s.eng.guardLane g gn 0 = true then .refused .undefinedContextWrite
  else scalar g gn s (fun e => e.later (.ctx idx.toNat (e.sreg a.toNat)))

/-- LD: D = the 64-bit DMEM word at A + sext(imm); outside the 64 KiB the program faults (R249). -/
def execSLd (g : BitVec 3) (gn : Bool) (d a : BitVec 5) (imm : BitVec 18) (s : State) : Host.Outcome State Fault Refusal :=
  scalar g gn s (fun e => e.dmemLoad d.toNat (e.sreg a.toNat + imm18 imm))

/-- ST: the 64-bit DMEM word at A + sext(imm) = register D; outside the 64 KiB the program faults (R249). -/
def execSSt (g : BitVec 3) (gn : Bool) (d a : BitVec 5) (imm : BitVec 18) (s : State) : Host.Outcome State Fault Refusal :=
  scalar g gn s (fun e =>
    let x := e.sreg a.toNat + imm18 imm
    if dmemOk x then e.dmemStore x (e.sreg d.toNat) else e.dmemFaulted)

/-- BR: branch to this bundle plus the immediate. -/
def execSBr (g : BitVec 3) (gn : Bool) (imm : BitVec 18) (s : State) : Host.Outcome State Fault Refusal :=
  scalar g gn s (fun e => e.branch imm)

/-- BRZ: BR when A = 0. -/
def execSBrz (g : BitVec 3) (gn : Bool) (a : BitVec 5) (imm : BitVec 18) (s : State) : Host.Outcome State Fault Refusal :=
  scalar g gn s (fun e => if e.sreg a.toNat = 0 then e.branch imm else e)

/-- BRNZ: BR when A is not 0. -/
def execSBrnz (g : BitVec 3) (gn : Bool) (a : BitVec 5) (imm : BitVec 18) (s : State) : Host.Outcome State Fault Refusal :=
  scalar g gn s (fun e => if e.sreg a.toNat = 0 then e else e.branch imm)

/-- END: the composition ends when the bundle does, after a hold of 41 cycles (R233, R247). -/
def execSEnd (g : BitVec 3) (gn : Bool) (s : State) : Host.Outcome State Fault Refusal :=
  scalar g gn s (fun e => { e with stw := { e.stw with ending := true } })

end Sys2Proof.Machine
end

