-- ==== Sys2Proof/Machine/Wide.lean ====
section
/-!
DEFINITION. The meanings of the Steward's wide and engine syllables (spec/06_steward_core.md R237 to R246). Each closes its bundle.
-/
namespace Sys2Proof.Machine

/-- The bundle ends after `hold` cycles, or END's 41 when that is more: its writes take effect, the cycles pass, and what follows it
comes (R233, R234, R247, R249). The next bundle sees the tick's commits and orders (R242). -/
def Eng.closeBundle (e : Eng) (hold : Nat) : Eng :=
  match e.stw.run with
  | none => e
  | some i =>
    let n := if e.stw.ending then max hold 41 else hold
    ((e.bundleEnd n).passCycles n).bundleNext i (e.comp i).uid e.stw

/-- A wide syllable: it writes, and closes its bundle after `hold` cycles. -/
def wide (s : State) (hold : Nat) (f : Eng → Eng) : Host.Outcome State Fault Refusal :=
  live s (fun e => if e.stwIssues then (f e).closeBundle hold else e)

/-- A wide syllable of one cycle that computes each enabled lane. -/
def wideTo (g : BitVec 3) (gn : Bool) (d : BitVec 5) (s : State) (f : Eng → Nat → DWord) : Host.Outcome State Fault Refusal :=
  wide s 1 (fun e => e.laneWrites g gn d.toNat (f e))

/-- A wide comparison: a bit for each enabled lane, 0 for the others. -/
def wideCmp (g : BitVec 3) (gn : Bool) (c : BitVec 3) (s : State) (f : Eng → Nat → Bool) : Host.Outcome State Fault Refusal :=
  wide s 1 (fun e => e.later (.pred c.toNat (pmask (fun l => e.guardLane g gn l && f e l))))

/-- Wide NOP: nothing but the end of its bundle. -/
def execWideNop (s : State) : Host.Outcome State Fault Refusal := wide s 1 (fun e => e)

/-- WADD: each enabled lane of vD = vA op vB. -/
def execWAdd (g : BitVec 3) (gn : Bool) (d a b : BitVec 5) (s : State) : Host.Outcome State Fault Refusal :=
  wideTo g gn d s (fun e l => let a := e.vlane a.toNat l; let b := e.vlane b.toNat l; a + b)

/-- WSUB: each enabled lane of vD = vA op vB. -/
def execWSub (g : BitVec 3) (gn : Bool) (d a b : BitVec 5) (s : State) : Host.Outcome State Fault Refusal :=
  wideTo g gn d s (fun e l => let a := e.vlane a.toNat l; let b := e.vlane b.toNat l; a - b)

/-- WAND: each enabled lane of vD = vA op vB. -/
def execWAnd (g : BitVec 3) (gn : Bool) (d a b : BitVec 5) (s : State) : Host.Outcome State Fault Refusal :=
  wideTo g gn d s (fun e l => let a := e.vlane a.toNat l; let b := e.vlane b.toNat l; a &&& b)

/-- WOR: each enabled lane of vD = vA op vB. -/
def execWOr (g : BitVec 3) (gn : Bool) (d a b : BitVec 5) (s : State) : Host.Outcome State Fault Refusal :=
  wideTo g gn d s (fun e l => let a := e.vlane a.toNat l; let b := e.vlane b.toNat l; a ||| b)

/-- WMIN: each enabled lane of vD = vA op vB. -/
def execWMin (g : BitVec 3) (gn : Bool) (d a b : BitVec 5) (s : State) : Host.Outcome State Fault Refusal :=
  wideTo g gn d s (fun e l => let a := e.vlane a.toNat l; let b := e.vlane b.toNat l; if a.slt b then a else b)

/-- WMAX: each enabled lane of vD = vA op vB. -/
def execWMax (g : BitVec 3) (gn : Bool) (d a b : BitVec 5) (s : State) : Host.Outcome State Fault Refusal :=
  wideTo g gn d s (fun e l => let a := e.vlane a.toNat l; let b := e.vlane b.toNat l; if a.slt b then b else a)

/-- WMINU: each enabled lane of vD = vA op vB. -/
def execWMinu (g : BitVec 3) (gn : Bool) (d a b : BitVec 5) (s : State) : Host.Outcome State Fault Refusal :=
  wideTo g gn d s (fun e l => let a := e.vlane a.toNat l; let b := e.vlane b.toNat l; if a.ult b then a else b)

/-- WMAXU: each enabled lane of vD = vA op vB. -/
def execWMaxu (g : BitVec 3) (gn : Bool) (d a b : BitVec 5) (s : State) : Host.Outcome State Fault Refusal :=
  wideTo g gn d s (fun e l => let a := e.vlane a.toNat l; let b := e.vlane b.toNat l; if a.ult b then b else a)

/-- WMUL: each enabled lane of vD = vA op vB. -/
def execWMul (g : BitVec 3) (gn : Bool) (d a b : BitVec 5) (s : State) : Host.Outcome State Fault Refusal :=
  wideTo g gn d s (fun e l => let a := e.vlane a.toNat l; let b := e.vlane b.toNat l; a * b)

/-- WSHLI: each enabled lane of vA shifted left by IMM[5:0]. -/
def execWShli (g : BitVec 3) (gn : Bool) (d a : BitVec 5) (imm : BitVec 16) (s : State) : Host.Outcome State Fault Refusal :=
  wideTo g gn d s (fun e l => e.vlane a.toNat l <<< (imm.toNat % 64))

/-- WSHRI: each enabled lane of vA shifted right by IMM[5:0]. -/
def execWShri (g : BitVec 3) (gn : Bool) (d a : BitVec 5) (imm : BitVec 16) (s : State) : Host.Outcome State Fault Refusal :=
  wideTo g gn d s (fun e l => e.vlane a.toNat l >>> (imm.toNat % 64))

/-- WMOV: vD = vA. -/
def execWMov (g : BitVec 3) (gn : Bool) (d a : BitVec 5) (s : State) : Host.Outcome State Fault Refusal :=
  wideTo g gn d s (fun e l => e.vlane a.toNat l)

/-- WBC: each lane of vD = sC. -/
def execWBc (g : BitVec 3) (gn : Bool) (d c : BitVec 5) (s : State) : Host.Outcome State Fault Refusal :=
  wideTo g gn d s (fun e _ => e.sreg c.toNat)

/-- WLI: each lane of vD = sext(IMM). -/
def execWLi (g : BitVec 3) (gn : Bool) (d : BitVec 5) (imm : BitVec 16) (s : State) : Host.Outcome State Fault Refusal :=
  wideTo g gn d s (fun _ _ => imm16 imm)

/-- WGET: sD = lane IMM[1:0] of vA. -/
def execWGet (d a : BitVec 5) (imm : BitVec 16) (s : State) : Host.Outcome State Fault Refusal :=
  wide s 1 (fun e => e.later (.scalar d.toNat (e.vlane a.toNat (imm.toNat % 4))))

/-- WCEQ: a bit of qC for each lane; disabled lanes give 0. -/
def execWCeq (g : BitVec 3) (gn : Bool) (a b : BitVec 5) (c : BitVec 3) (s : State) : Host.Outcome State Fault Refusal :=
  wideCmp g gn c s (fun e l => let a := e.vlane a.toNat l; let b := e.vlane b.toNat l; decide (a = b))

/-- WCLT: a bit of qC for each lane; disabled lanes give 0. -/
def execWClt (g : BitVec 3) (gn : Bool) (a b : BitVec 5) (c : BitVec 3) (s : State) : Host.Outcome State Fault Refusal :=
  wideCmp g gn c s (fun e l => let a := e.vlane a.toNat l; let b := e.vlane b.toNat l; a.slt b)

/-- WCLTU: a bit of qC for each lane; disabled lanes give 0. -/
def execWCltu (g : BitVec 3) (gn : Bool) (a b : BitVec 5) (c : BitVec 3) (s : State) : Host.Outcome State Fault Refusal :=
  wideCmp g gn c s (fun e l => let a := e.vlane a.toNat l; let b := e.vlane b.toNat l; a.ult b)

/-- WBIT: bit of qC per lane = bit IMM[5:0] of vA; disabled lanes give 0. -/
def execWBit (g : BitVec 3) (gn : Bool) (a : BitVec 5) (c : BitVec 3) (imm : BitVec 16) (s : State) : Host.Outcome State Fault Refusal :=
  wideCmp g gn c s (fun e l => (e.vlane a.toNat l).getLsbD (imm.toNat % 64))

/-- WSUM: sD = the sum of the enabled lanes of vA. -/
def execWSum (g : BitVec 3) (gn : Bool) (d a : BitVec 5) (s : State) : Host.Outcome State Fault Refusal :=
  wide s 1 (fun e => e.later (.scalar d.toNat ((e.enabledLanes g gn).foldl (fun n l => n + e.vlane a.toNat l) 0)))

/-- WSORT: the enabled lanes of vA in unsigned ascending order into vD, ties by lane, and vB by the same permutation into vC. -/
def execWSort (g : BitVec 3) (gn : Bool) (d a b c : BitVec 5) (s : State) : Host.Outcome State Fault Refusal :=
  wide s 1 (fun e =>
    let on := e.enabledLanes g gn
    let perm := sortLanes on (fun l => (e.vlane a.toNat l).toNat)
    (on.zip perm).foldl (fun x p => (x.later (.lane (4 * d.toNat + p.1) (e.vlane a.toNat p.2))).later
      (.lane (4 * c.toNat + p.1) (e.vlane b.toNat p.2))) e)

/-- KBEGIN: arms the selection unit in mode IMM and holds issue 2,000 cycles (R239). Modes other than 0 and 1 are undefined; a syllable
with no lane enabled does nothing with its mode (R232). -/
def execKBegin (g : BitVec 3) (gn : Bool) (imm : BitVec 16) (s : State) : Host.Outcome State Fault Refusal :=
  if 1 < imm.toNat ∧ s.issues = true ∧ (s.eng.enabledLanes g gn).isEmpty = false then .refused .undefinedSelectionMode
  else wide s 2000 (fun e =>
    if (e.enabledLanes g gn).isEmpty then e else { e with stw := { e.stw with mode := some imm.toNat } })

/-- KSEL: draws the next candidates into vD; qC = the lanes filled (R240). -/
def execKSel (g : BitVec 3) (gn : Bool) (d : BitVec 5) (c : BitVec 3) (s : State) : Host.Outcome State Fault Refusal :=
  wide s 1 (fun e =>
    let l := (e.kselReady (e.stw.run.getD 0)).take (e.enabledLanes g gn).length
    let e := e.fillLanes g gn d c l
    { e with stw := { e.stw with drawn := e.stw.drawn ++ l.map (fun p => p.1) } })

/-- LSCAN: the next candidates in slot order into vD; qC = the lanes filled (R241). -/
def execLScan (g : BitVec 3) (gn : Bool) (d : BitVec 5) (c : BitVec 3) (s : State) : Host.Outcome State Fault Refusal :=
  wide s 1 (fun e =>
    let l := ((e.candidates (e.stw.run.getD 0)).filter (fun p => decide (e.stw.cursor ≤ p.1))).take (e.enabledLanes g gn).length
    let e := e.fillLanes g gn d c l
    match l.getLast? with
    | some p => { e with stw := { e.stw with cursor := p.1 + 1 } }
    | none => e)

/-- LFLD: each lane of vD = field IMM of the candidate whose handle is in vA, 0 for a lane that names none (R242, R243). A field that is
not listed has a free value. -/
def execLFld (g : BitVec 3) (gn : Bool) (d a : BitVec 5) (imm : BitVec 16) (s : State) : Host.Outcome State Fault Refusal :=
  wide s 1 (fun e =>
    let i := e.stw.run.getD 0
    (e.enabledLanes g gn).foldl (fun x l =>
      match e.candidate i (e.vlane a.toNat l).toNat with
      | none => x.later (.lane (4 * d.toNat + l) 0)
      | some p =>
        match (e.asSeen i).ledgerField i p imm.toNat with
        | some v => x.later (.lane (4 * d.toNat + l) v)
        | none => let f := x.fresh; f.2.later (.lane (4 * d.toNat + l) f.1)) e)

/-- WFIT: fits the wants in vA to the budget, with the classes of the handles in vB; vD = grants, qC = lanes granted (R244). -/
def execWFit (g : BitVec 3) (gn : Bool) (d a b : BitVec 5) (c : BitVec 3) (s : State) : Host.Outcome State Fault Refusal :=
  wide s 1 (fun e =>
    let i := e.stw.run.getD 0
    let k := e.comp i
    let ins := lanes4.map (fun l => ((e.vlane a.toNat l).toNat, (e.vlane b.toNat l).getLsbD 30, e.guardLane g gn l))
    let r := wfit ins (e.budgetLeft i k) (e.slotsLeft i k) false false
    let e := e.laneWrites g gn d.toNat (fun l => BitVec.ofNat 64 (r.1.getD l 0))
    let e := e.later (.pred c.toNat (pmask (fun l => decide (0 < r.1.getD l 0))))
    if r.2 then { e with stw := { e.stw with fitStop := true } } else e)

/-- APPEND: appends the handles in vA with the grants in vB; vD = results (R245). It holds issue 8 cycles, and one more for each 8
entries, or part of 8, beyond 64 (R246). -/
def execAppend (g : BitVec 3) (gn : Bool) (d a b : BitVec 5) (s : State) : Host.Outcome State Fault Refusal :=
  live s (fun e =>
    if e.stwIssues then
      let i := e.stw.run.getD 0
      let ins := (e.enabledLanes g gn).map (fun l => (l, (e.vlane a.toNat l).toNat, (e.vlane b.toNat l).toNat))
      let r := appendLanes e i ins
      let e := r.1.foldl (fun x p => x.later (.lane (4 * d.toNat + p.1) (BitVec.ofNat 64 p.2))) r.2.2
      e.closeBundle (8 + cdiv (r.2.1 - 64) 8)
    else e)

end Sys2Proof.Machine
end

