-- ==== Sys2Proof/Machine/Dispatch.lean ====
section
/-!
DEFINITION. What each command does: one arm per constructor of Instr, each one direct call of its meaning.
-/
namespace Sys2Proof.Machine

/-- The effect of a command on everything but the queue. -/
def exec (i : Instr) (s : State) : Host.Outcome State Fault Refusal :=
  match i with
  | .registerWrite off size data => Sys2Proof.Machine.execRegisterWrite off size data s
  | .badAccess off size write => Sys2Proof.Machine.execBadAccess off size write s
  | .pairLowRead off size => Sys2Proof.Machine.execPairLowRead off size s
  | .pairHighWrite off data => Sys2Proof.Machine.execPairHighWrite off data s
  | .idleEdge => Sys2Proof.Machine.execIdleEdge s
  | .stepEdge inst => Sys2Proof.Machine.execStepEdge inst s
  | .queuedDeadlineCheck => Sys2Proof.Machine.execQueuedDeadlineCheck s
  | .deadlineFirstPass slot => Sys2Proof.Machine.execDeadlineFirstPass slot s
  | .cstFrameBoundary => Sys2Proof.Machine.execCstFrameBoundary s
  | .cstSlotStart => Sys2Proof.Machine.execCstSlotStart s
  | .cstEntryCommit data => Sys2Proof.Machine.execCstEntryCommit data s
  | .edgeLeadWrite n data => Sys2Proof.Machine.execEdgeLeadWrite n data s
  | .ringCfgWrite data => Sys2Proof.Machine.execRingCfgWrite data s
  | .doorbellSnoop ring count => Sys2Proof.Machine.execDoorbellSnoop ring count s
  | .doorbellPoll counts => Sys2Proof.Machine.execDoorbellPoll counts s
  | .hatDbwin ring count => Sys2Proof.Machine.execHatDbwin ring count s
  | .submit desc larder prompt bias => Sys2Proof.Machine.execSubmit desc larder prompt bias s
  | .admitOrder desc => Sys2Proof.Machine.execAdmitOrder desc s
  | .resume desc => Sys2Proof.Machine.execResume desc s
  | .modify desc => Sys2Proof.Machine.execModify desc s
  | .preempt desc => Sys2Proof.Machine.execPreempt desc s
  | .cancel desc => Sys2Proof.Machine.execCancel desc s
  | .loadModel desc larder segs role => Sys2Proof.Machine.execLoadModel desc larder segs role s
  | .unloadModel request => Sys2Proof.Machine.execUnloadModel request s
  | .nop desc => Sys2Proof.Machine.execNop desc s
  | .headAdvance ring => Sys2Proof.Machine.execHeadAdvance ring s
  | .overflowDrain ring => Sys2Proof.Machine.execOverflowDrain ring s
  | .helloGo data => Sys2Proof.Machine.execHelloGo data s
  | .recordFill slot => Sys2Proof.Machine.execRecordFill slot s
  | .slotRelease slot => Sys2Proof.Machine.execSlotRelease slot s
  | .ledgerPeek data => Sys2Proof.Machine.execLedgerPeek data s
  | .admissionBucketRefill => Sys2Proof.Machine.execAdmissionBucketRefill s
  | .prefixMatch slot => Sys2Proof.Machine.execPrefixMatch slot s
  | .instanceTrigger inst => Sys2Proof.Machine.execInstanceTrigger inst s
  | .arrayStepDone inst => Sys2Proof.Machine.execArrayStepDone inst s
  | .composeStart => Sys2Proof.Machine.execComposeStart s
  | .cycleLimit => Sys2Proof.Machine.execCycleLimit s
  | .nopScalar y => Sys2Proof.Machine.execNopScalar y s
  | .sAdd y g gn d a b => Sys2Proof.Machine.execSAdd y g gn d a b s
  | .sSub y g gn d a b => Sys2Proof.Machine.execSSub y g gn d a b s
  | .sAnd y g gn d a b => Sys2Proof.Machine.execSAnd y g gn d a b s
  | .sOr y g gn d a b => Sys2Proof.Machine.execSOr y g gn d a b s
  | .sXor y g gn d a b => Sys2Proof.Machine.execSXor y g gn d a b s
  | .sShl y g gn d a b => Sys2Proof.Machine.execSShl y g gn d a b s
  | .sShr y g gn d a b => Sys2Proof.Machine.execSShr y g gn d a b s
  | .sMul y g gn d a b => Sys2Proof.Machine.execSMul y g gn d a b s
  | .sMin y g gn d a b => Sys2Proof.Machine.execSMin y g gn d a b s
  | .sMax y g gn d a b => Sys2Proof.Machine.execSMax y g gn d a b s
  | .sMinu y g gn d a b => Sys2Proof.Machine.execSMinu y g gn d a b s
  | .sMaxu y g gn d a b => Sys2Proof.Machine.execSMaxu y g gn d a b s
  | .sAddi y g gn d a imm => Sys2Proof.Machine.execSAddi y g gn d a imm s
  | .sAndi y g gn d a imm => Sys2Proof.Machine.execSAndi y g gn d a imm s
  | .sOri y g gn d a imm => Sys2Proof.Machine.execSOri y g gn d a imm s
  | .sShli y g gn d a imm => Sys2Proof.Machine.execSShli y g gn d a imm s
  | .sShri y g gn d a imm => Sys2Proof.Machine.execSShri y g gn d a imm s
  | .sLi y g gn d imm => Sys2Proof.Machine.execSLi y g gn d imm s
  | .sCeq y g gn d a b => Sys2Proof.Machine.execSCeq y g gn d a b s
  | .sClt y g gn d a b => Sys2Proof.Machine.execSClt y g gn d a b s
  | .sCltu y g gn d a b => Sys2Proof.Machine.execSCltu y g gn d a b s
  | .sCeqi y g gn d a imm => Sys2Proof.Machine.execSCeqi y g gn d a imm s
  | .sClti y g gn d a imm => Sys2Proof.Machine.execSClti y g gn d a imm s
  | .sPcnt y g gn d a => Sys2Proof.Machine.execSPcnt y g gn d a s
  | .sPand y g gn d a b => Sys2Proof.Machine.execSPand y g gn d a b s
  | .sPnot y g gn d a => Sys2Proof.Machine.execSPnot y g gn d a s
  | .sGetc y g gn d idx => Sys2Proof.Machine.execSGetc y g gn d idx s
  | .sSetc g gn a idx => Sys2Proof.Machine.execSSetc g gn a idx s
  | .sLd g gn d a imm => Sys2Proof.Machine.execSLd g gn d a imm s
  | .sSt g gn d a imm => Sys2Proof.Machine.execSSt g gn d a imm s
  | .sBr g gn imm => Sys2Proof.Machine.execSBr g gn imm s
  | .sBrz g gn a imm => Sys2Proof.Machine.execSBrz g gn a imm s
  | .sBrnz g gn a imm => Sys2Proof.Machine.execSBrnz g gn a imm s
  | .sEnd g gn => Sys2Proof.Machine.execSEnd g gn s
  | .wideNop => Sys2Proof.Machine.execWideNop s
  | .wAdd g gn d a b => Sys2Proof.Machine.execWAdd g gn d a b s
  | .wSub g gn d a b => Sys2Proof.Machine.execWSub g gn d a b s
  | .wAnd g gn d a b => Sys2Proof.Machine.execWAnd g gn d a b s
  | .wOr g gn d a b => Sys2Proof.Machine.execWOr g gn d a b s
  | .wMin g gn d a b => Sys2Proof.Machine.execWMin g gn d a b s
  | .wMax g gn d a b => Sys2Proof.Machine.execWMax g gn d a b s
  | .wMinu g gn d a b => Sys2Proof.Machine.execWMinu g gn d a b s
  | .wMaxu g gn d a b => Sys2Proof.Machine.execWMaxu g gn d a b s
  | .wMul g gn d a b => Sys2Proof.Machine.execWMul g gn d a b s
  | .wShli g gn d a imm => Sys2Proof.Machine.execWShli g gn d a imm s
  | .wShri g gn d a imm => Sys2Proof.Machine.execWShri g gn d a imm s
  | .wMov g gn d a => Sys2Proof.Machine.execWMov g gn d a s
  | .wBc g gn d c => Sys2Proof.Machine.execWBc g gn d c s
  | .wLi g gn d imm => Sys2Proof.Machine.execWLi g gn d imm s
  | .wGet d a imm => Sys2Proof.Machine.execWGet d a imm s
  | .wCeq g gn a b c => Sys2Proof.Machine.execWCeq g gn a b c s
  | .wClt g gn a b c => Sys2Proof.Machine.execWClt g gn a b c s
  | .wCltu g gn a b c => Sys2Proof.Machine.execWCltu g gn a b c s
  | .wBit g gn a c imm => Sys2Proof.Machine.execWBit g gn a c imm s
  | .wSum g gn d a => Sys2Proof.Machine.execWSum g gn d a s
  | .wSort g gn d a b c => Sys2Proof.Machine.execWSort g gn d a b c s
  | .kBegin g gn imm => Sys2Proof.Machine.execKBegin g gn imm s
  | .kSel g gn d c => Sys2Proof.Machine.execKSel g gn d c s
  | .lScan g gn d c => Sys2Proof.Machine.execLScan g gn d c s
  | .lFld g gn d a imm => Sys2Proof.Machine.execLFld g gn d a imm s
  | .wFit g gn d a b c => Sys2Proof.Machine.execWFit g gn d a b c s
  | .append g gn d a b => Sys2Proof.Machine.execAppend g gn d a b s
  | .stepEmit inst => Sys2Proof.Machine.execStepEmit inst s
  | .epochDrained inst => Sys2Proof.Machine.execEpochDrained inst s
  | .arrayConfigLoaded inst shelfMib groups => Sys2Proof.Machine.execArrayConfigLoaded inst shelfMib groups s
  | .arrayConfigFailed inst => Sys2Proof.Machine.execArrayConfigFailed inst s
  | .programLoad data => Sys2Proof.Machine.execProgramLoad data s
  | .programLoadEnd image readOk => Sys2Proof.Machine.execProgramLoadEnd image readOk s
  | .stwViewWrite off size data => Sys2Proof.Machine.execStwViewWrite off size data s
  | .cmpPartProgWrite data => Sys2Proof.Machine.execCmpPartProgWrite data s
  | .pieceStart => Sys2Proof.Machine.execPieceStart s
  | .pieceDone pipe error src => Sys2Proof.Machine.execPieceDone pipe error src s
  | .oldFramesFreed group => Sys2Proof.Machine.execOldFramesFreed group s
  | .cellarStreamGrant inst => Sys2Proof.Machine.execCellarStreamGrant inst s
  | .logitRow tag len fmt payload => Sys2Proof.Machine.execLogitRow tag len fmt payload s
  | .rowControlJoin inst slot => Sys2Proof.Machine.execRowControlJoin inst slot s
  | .dataTimerExpiry inst slot => Sys2Proof.Machine.execDataTimerExpiry inst slot s
  | .stepTimerExpiry inst => Sys2Proof.Machine.execStepTimerExpiry inst s
  | .rowSampled inst slot row => Sys2Proof.Machine.execRowSampled inst slot row s
  | .slotCommit inst slot nprop tokens parents => Sys2Proof.Machine.execSlotCommit inst slot nprop tokens parents s
  | .spareLaneInService lane => Sys2Proof.Machine.execSpareLaneInService lane s
  | .maskPageFetch gid cls page => Sys2Proof.Machine.execMaskPageFetch gid cls page s
  | .grammarInstall data => Sys2Proof.Machine.execGrammarInstall data s
  | .grammarInstallEnd image larder readOk => Sys2Proof.Machine.execGrammarInstallEnd image larder readOk s
  | .grammarRemove data => Sys2Proof.Machine.execGrammarRemove data s
  | .jumpDone => Sys2Proof.Machine.execJumpDone s
  | .serviceRequest req => Sys2Proof.Machine.execServiceRequest req s
  | .rsuProbe data => Sys2Proof.Machine.execRsuProbe data s
  | .binPush entry => Sys2Proof.Machine.execBinPush entry s
  | .take core => Sys2Proof.Machine.execTake core s
  | .done core => Sys2Proof.Machine.execDone core s
  | .holdBeat core => Sys2Proof.Machine.execHoldBeat core s
  | .takeTimeout core => Sys2Proof.Machine.execTakeTimeout core s
  | .affRelease => Sys2Proof.Machine.execAffRelease s
  | .noDispatcher core => Sys2Proof.Machine.execNoDispatcher core s
  | .refill => Sys2Proof.Machine.execRefill s
  | .activityPoint => Sys2Proof.Machine.execActivityPoint s
  | .regulatorRefill => Sys2Proof.Machine.execRegulatorRefill s
  | .acctIntervalClose => Sys2Proof.Machine.execAcctIntervalClose s
  | .sliceEnd pid => Sys2Proof.Machine.execSliceEnd pid s
  | .partitionCtlWrite data => Sys2Proof.Machine.execPartitionCtlWrite data s
  | .tilesWrite data => Sys2Proof.Machine.execTilesWrite data s
  | .rafResvWrite data => Sys2Proof.Machine.execRafResvWrite data s
  | .saveDrain cmd inst => Sys2Proof.Machine.execSaveDrain cmd inst s
  | .saveFreeze cmd inst => Sys2Proof.Machine.execSaveFreeze cmd inst s
  | .freezeHalt inst => Sys2Proof.Machine.execFreezeHalt inst s
  | .saveComplete saved => Sys2Proof.Machine.execSaveComplete saved s
  | .restore cmd inst source => Sys2Proof.Machine.execRestore cmd inst source s
  | .restoreComplete inst => Sys2Proof.Machine.execRestoreComplete inst s
  | .discard data image => Sys2Proof.Machine.execDiscard data image s
  | .acquire sem inst => Sys2Proof.Machine.execAcquire sem inst s
  | .release sem inst => Sys2Proof.Machine.execRelease sem inst s
  | .donationLong sem => Sys2Proof.Machine.execDonationLong sem s
  | .blockWindowExpiry => Sys2Proof.Machine.execBlockWindowExpiry s
  | .leaveWindowStart draw => Sys2Proof.Machine.execLeaveWindowStart draw s
  | .leaveStart => Sys2Proof.Machine.execLeaveStart s
  | .leaveWaitExpiry => Sys2Proof.Machine.execLeaveWaitExpiry s
  | .laneTrained lane => Sys2Proof.Machine.execLaneTrained lane s
  | .laneTrainTimeout lane => Sys2Proof.Machine.execLaneTrainTimeout lane s
  | .identTimeout lane => Sys2Proof.Machine.execIdentTimeout lane s
  | .identResend lane => Sys2Proof.Machine.execIdentResend lane s
  | .fecLockLoss lane => Sys2Proof.Machine.execFecLockLoss lane s
  | .linkSilence link => Sys2Proof.Machine.execLinkSilence link s
  | .spareJoin lane => Sys2Proof.Machine.execSpareJoin lane s
  | .ident lane frame => Sys2Proof.Machine.execIdent lane frame s
  | .syncSend => Sys2Proof.Machine.execSyncSend s
  | .sync lane frame => Sys2Proof.Machine.execSync lane frame s
  | .syncReply lane frame => Sys2Proof.Machine.execSyncReply lane frame s
  | .tallyParentTimeout => Sys2Proof.Machine.execTallyParentTimeout s
  | .holdoverBoundRise => Sys2Proof.Machine.execHoldoverBoundRise s
  | .credit link frame => Sys2Proof.Machine.execCredit link frame s
  | .creditReq link frame => Sys2Proof.Machine.execCreditReq link frame s
  | .creditReturn link frame => Sys2Proof.Machine.execCreditReturn link frame s
  | .peerLost link frame => Sys2Proof.Machine.execPeerLost link frame s
  | .stepBcast link frame => Sys2Proof.Machine.execStepBcast link frame s
  | .stepLate link frame => Sys2Proof.Machine.execStepLate link frame s
  | .stepAbort link frame => Sys2Proof.Machine.execStepAbort link frame s
  | .freeze link frame => Sys2Proof.Machine.execFreeze link frame s
  | .shelver link frame => Sys2Proof.Machine.execShelver link frame s
  | .mirror link frame => Sys2Proof.Machine.execMirror link frame s
  | .mirrorAck link frame => Sys2Proof.Machine.execMirrorAck link frame s
  | .order link frame => Sys2Proof.Machine.execOrder link frame s
  | .superseded link frame => Sys2Proof.Machine.execSuperseded link frame s
  | .orderReply link frame => Sys2Proof.Machine.execOrderReply link frame s
  | .mapLoad data => Sys2Proof.Machine.execMapLoad data s
  | .mapLoadEnd image readOk => Sys2Proof.Machine.execMapLoadEnd image readOk s
  | .buddyTimeout ring => Sys2Proof.Machine.execBuddyTimeout ring s
  | .powerOn => Sys2Proof.Machine.execPowerOn s
  | .chip => Sys2Proof.Machine.execChip s
  | .driverReset data => Sys2Proof.Machine.execDriverReset data s
  | .unitReset data => Sys2Proof.Machine.execUnitReset data s
  | .resetKeyBad data => Sys2Proof.Machine.execResetKeyBad data s
  | .clock => Sys2Proof.Machine.execClock s
  | .resetRelease => Sys2Proof.Machine.execResetRelease s
  | .tallyCopy => Sys2Proof.Machine.execTallyCopy s
  | .imageLoad data => Sys2Proof.Machine.execImageLoad data s
  | .imageLoadEnd image readOk straps cxl => Sys2Proof.Machine.execImageLoadEnd image readOk straps cxl s
  | .glbInit data => Sys2Proof.Machine.execGlbInit data s
  | .initDone => Sys2Proof.Machine.execInitDone s
  | .glbLock data => Sys2Proof.Machine.execGlbLock data s
  | .domainWakeDone dom => Sys2Proof.Machine.execDomainWakeDone dom s
  | .domainIdleGate dom => Sys2Proof.Machine.execDomainIdleGate dom s
  | .ledgerBankRetain bank => Sys2Proof.Machine.execLedgerBankRetain bank s
  | .fault f => Sys2Proof.Machine.execFault f s
  | .quiesceWaitExpiry => Sys2Proof.Machine.execQuiesceWaitExpiry s
  | .pop data => Sys2Proof.Machine.execPop data s
  | .takeover data shadow => Sys2Proof.Machine.execTakeover data shadow s
  | .cntSelWrite n data => Sys2Proof.Machine.execCntSelWrite n data s
  | .clear data => Sys2Proof.Machine.execClear data s
  | .cntFreezeAt => Sys2Proof.Machine.execCntFreezeAt s
  | .dbgOpen => Sys2Proof.Machine.execDbgOpen s
  | .dbgClose => Sys2Proof.Machine.execDbgClose s
  | .haltEngine => Sys2Proof.Machine.execHaltEngine s
  | .haltSteward => Sys2Proof.Machine.execHaltSteward s
  | .resumeEngine => Sys2Proof.Machine.execResumeEngine s
  | .resumeSteward => Sys2Proof.Machine.execResumeSteward s
  | .dbgStep => Sys2Proof.Machine.execDbgStep s
  | .brkCfg addr => Sys2Proof.Machine.execBrkCfg addr s
  | .brkVal addr data => Sys2Proof.Machine.execBrkVal addr data s
  | .dbgRead space addr => Sys2Proof.Machine.execDbgRead space addr s
  | .dbgWrite space addr data => Sys2Proof.Machine.execDbgWrite space addr data s
  | .dbgWriteRaw space addr data => Sys2Proof.Machine.execDbgWriteRaw space addr data s
  | .dbgReset data => Sys2Proof.Machine.execDbgReset data s
  | .breakpointHit brk => Sys2Proof.Machine.execBreakpointHit brk s

end Sys2Proof.Machine
end

