-- ==== Sys2Proof/Machine/Idle.lean ====
section
/-!
DEFINITION. What a step does on an empty queue: the engine's clock runs (spec/17_reset_power_domains_bringup.md R555, R564), and the
Steward issues the bundles of the composition that runs on it (spec/06_steward_core.md R229, R248).
-/
namespace Sys2Proof.Machine

/-- Commands one after another, up to the first that stops. -/
def runAll (l : List Instr) (s : State) : Host.Outcome State Fault Refusal :=
  match l with
  | [] => .next s
  | c :: r =>
    match exec c s with
    | .next t => runAll r t
    | o => o

/-- The Steward's limit has been reached, and it is not halted (R248). -/
def Eng.limitDue (e : Eng) : Bool := e.stw.run.isSome && decide (e.stwLimit ≤ e.stw.cycles) && !e.stwStopped

/-- The controller's counter in reset gains 5/6 t in a cycle of 1.2 GHz. -/
def Boot.cmcCycle (b : Boot) : Boot :=
  if 6 ≤ b.cmcAcc + 5 then { b with cmc := b.cmc + 1, cmcAcc := b.cmcAcc - 1 } else { b with cmcAcc := b.cmcAcc + 5 }

/-- One cycle of CLK_CTL passes. -/
def State.tick (s : State) : State := { s with eng := s.eng.passCycles 1 }

/-- The breakpoint of type PC that hits before the next bundle issues (R612). -/
def Eng.pcNext (e : Eng) : Option Nat := ([0, 1, 2, 3] : List Nat).find? (fun i => e.pcHits (e.brk i))

/-- The commands that the Steward issues now: those of the bundle at its program counter, unless one is open. -/
def Eng.issueNow (e : Eng) : Option (List Instr) := if e.stwIssues && !e.bundleOpen then e.bundleAt else none

/-- The step on an empty queue: a breakpoint at the Steward's next bundle, its limit, that bundle, or a cycle of the clock. -/
def idleStep (s : State) : Host.Outcome State Fault Refusal :=
  if s.boot.absent then .next { s with boot := s.boot.cmcCycle }
  else
    match s.eng.pcNext with
    | some i => .next { s with eng := s.eng.brkHit i }
    | none =>
      if s.eng.limitDue then execCycleLimit s
      else
        match s.eng.issueNow with
        | some l => runAll l s
        | none => .next s.tick

end Sys2Proof.Machine
end

