-- ==== Sys2Proof/Safety.lean ====
section
/-!
DEFINITION. What counts as a safe state and a safe change of the block, in the terms that claims use: the relations between the
bring-up fields, and the frames of the shared operations.
-/
namespace Sys2Proof

/-- The bring-up stages and flags agree: STAGE is 1 to 4 (R571, R572); OFFLINE is set exactly in stage 1; the lock holds
exactly in stage 4; clearing has completed exactly from stage 3 on; an image load runs only in stage 1 and clearing only
in stage 2. -/
structure Machine.Boot.Good (b : Machine.Boot) : Prop where
  stage : 1 ≤ b.stage ∧ b.stage ≤ 4
  offline : b.offline = true ↔ b.stage = 1
  locked : b.locked = true ↔ b.stage = 4
  done : b.initDone = true ↔ 3 ≤ b.stage
  busyInit : b.initBusy = true → b.stage = 2
  busyImg : b.imgBusy = true → b.stage = 1

/-- A step that stops neither with a fault nor a refusal. -/
def Machine.Runs (s : Machine.State) : Prop := ∃ t, Machine.step s = .next t

/-- The state with another engine: the sequencer and the queue as they were. -/
def Machine.State.withEng (s : Machine.State) (e : Machine.Eng) : Machine.State := { s with eng := e }

/-- The commands that carry the Tally forward to what they do. -/
def Instr.dated (c : Instr) : Bool :=
  match c with
  | .holdBeat _ | .takeTimeout _ | .affRelease | .noDispatcher _ | .freezeHalt _ | .saveComplete _ | .restoreComplete _
  | .donationLong _ | .blockWindowExpiry | .quiesceWaitExpiry | .doorbellPoll _ | .activityPoint | .regulatorRefill
  | .acctIntervalClose | .sliceEnd _ | .laneTrainTimeout _ | .identTimeout _ | .identResend _ | .linkSilence _ | .spareJoin _
  | .admissionBucketRefill | .leaveWindowStart _ | .leaveStart | .leaveWaitExpiry | .cntFreezeAt | .tallyCopy | .initDone
  | .domainWakeDone _ | .domainIdleGate _ | .ledgerBankRetain _ | .dataTimerExpiry _ _ | .stepTimerExpiry _ | .syncSend
  | .tallyParentTimeout | .holdoverBoundRise | .idleEdge | .stepEdge _ | .queuedDeadlineCheck | .deadlineFirstPass _
  | .cstFrameBoundary | .cstSlotStart | .stepEmit _ | .breakpointHit _ | .logitRow _ _ _ _ | .rowControlJoin _ _
  | .spareLaneInService _ | .programLoadEnd _ _ | .dbgOpen | .buddyTimeout _ => true
  | _ => false

/-- Nothing is left to do before the Tally goes on, to whatever value (R628): every unit has done what the present tick owes, no later tick has
work that this one leaves it, and no breakpoint of type TALLY lies ahead. -/
def Machine.State.Settled (s : Machine.State) : Prop := s.eng.tickLeft = s.eng ∧ ∀ t, s.eng.nextStop t = none

/-- The state once its present tick is over. -/
def Machine.State.tickLeft (s : Machine.State) : Machine.State := { s with eng := s.eng.tickLeft }

/-- The units have nothing to do of themselves but Bins: no RESUME, order, broadcast, composition, decision, activity point or move is pending,
no commit or order and no edge has fallen in the tick, the Pantry has a pipe, and no breakpoint is armed. -/
def Machine.Eng.Rested (e : Machine.Eng) : Prop :=
  e.dbg.resumed = none ∧ e.hat.orders = [] ∧ e.raf.bcasts = [] ∧ e.pan.retired.length < 4 ∧ e.stw.run = none ∧
    e.gat.edges = [] ∧ e.gat.idles = none ∧ e.gat.queued = false ∧ e.gat.again = [] ∧ e.gat.fresh = [] ∧
    e.kpr.admitting = false ∧ e.kpr.deciding = false ∧ e.watchBlock = e ∧ e.shv.recallDue = false ∧ e.shv.balances = [] ∧
    e.shv.late = [] ∧ e.shv.retries = [] ∧ e.kpr.pointDue = false ∧ e.dbg.brks = [] ∧ e.stw.seen = none

/-- The registers that count what is reported: HAT_EVT_LOST, the OVF bits of CNT_SEL_n and CNT_TRC_HEAD. -/
def Machine.tallyReg (off : Nat) : Bool :=
  decide (off = 0x1060 ∨ off = 0x1001C) || decide (0x10100 ≤ off ∧ off < 0x10200)

/-- The registers that count what is reported or the passing of time: BIN_PUSH_STALL beside those. -/
def Machine.timeReg (off : Nat) : Bool := Machine.tallyReg off || decide (off = 0xB094)

/-- All that counting, tracing and the raising of events may change (R111, R599 to R604): the registers that count, the tails and
LOST flags of event rings, the counters, and what has been sent, to which they only add. -/
structure Machine.Eng.Reports (e e' : Machine.Eng) : Prop where
  rest : e' = { e with
    regs := e'.regs, out := e'.out
    hat := { e.hat with rings := e'.hat.rings }
    dbg := { e.dbg with cnt := e'.dbg.cnt } }
  regs : ∀ off sel, sel < 65536 → Machine.tallyReg off = false → e'.reg off sel = e.reg off sel
  rings : ∀ r, e'.ring r = { e.ring r with tail := (e'.ring r).tail, lostFlag := (e'.ring r).lostFlag }
  ring : ∀ r, r < 256 → e.ringKind r ≠ 2 → e'.ring r = e.ring r
  out : ∃ l, e'.out = l ++ e.out

/-- All that the passing of time alone may change (R39, R435, R467, R603): the Tally, which does not run backward, the counters with the
OVF bits of CNT_SEL_n, BIN_PUSH_STALL, and the ticks that Keeper sums by partition. -/
structure Machine.Eng.Passes (e e' : Machine.Eng) : Prop where
  rest : e' = { e with
    now := e'.now, regs := e'.regs
    dbg := { e.dbg with cnt := e'.dbg.cnt }
    kpr := { e.kpr with parts := e'.kpr.parts } }
  now : e.now ≤ e'.now
  regs : ∀ off sel, sel < 65536 → Machine.timeReg off = false → e'.reg off sel = e.reg off sel
  parts : ∀ p, e'.part p = { e.part p with aTicks := (e'.part p).aTicks, bTicks := (e'.part p).bTicks }

/-- A part of the engine is as it was, by number: the unit numbers of spec/01_engine_overview.md, with 0 the Tally, 15 the power domains,
17 the counters and the debug port, 18 the RWS values in force, captured, accepted and held, 19 the words held and latched of pairs. -/
def Machine.Eng.partSame (u : Nat) (e e' : Machine.Eng) : Prop :=
  match u with
  | 0 => e'.now = e.now
  | 1 => e'.hat = e.hat
  | 2 => e'.led = e.led
  | 3 => e'.gat = e.gat
  | 4 => e'.cmp = e.cmp
  | 5 => e'.stw = e.stw
  | 6 => e'.shv = e.shv
  | 7 => e'.pan = e.pan
  | 8 => e'.smp = e.smp
  | 9 => e'.siv = e.siv
  | 10 => e'.rsu = e.rsu
  | 11 => e'.bin = e.bin
  | 12 => e'.kpr = e.kpr
  | 13 => e'.raf = e.raf
  | 14 => e'.tal = e.tal
  | 15 => e'.pd = e.pd
  | 16 => e'.ras = e.ras
  | 17 => e'.dbg = e.dbg
  | 18 => e'.act = e.act ∧ e'.cap = e.cap ∧ e'.pend = e.pend ∧ e'.held = e.held
  | 19 => e'.pairLow = e.pairLow ∧ e'.latch = e.latch
  | _ => True

/-- Only the parts and the registers listed have changed, beside the registers that count, BIN_PUSH_STALL where the Tally may have; and to what has been sent something may have
been added. -/
structure Machine.Eng.Only (us offs : List Nat) (e e' : Machine.Eng) : Prop where
  parts : ∀ u, u ∉ us → e.partSame u e'
  regs : ∀ off sel, sel < 65536 → off ∉ offs → Machine.tallyReg off = false → (off = 0xB094 → 0 ∉ us) → e'.reg off sel = e.reg off sel
  out : ∃ l, e'.out = l ++ e.out

/-- Only that much of the engine has changed, and nothing of the reset sequencer and the queue. -/
def Machine.State.Only (parts offs : List Nat) (s t : Machine.State) : Prop :=
  t.boot = s.boot ∧ t.pending = s.pending ∧ s.eng.Only parts offs t.eng

end Sys2Proof
end

