-- ==== Sys2Proof/Certificates/Slice0/Obligations.lean ====
section
/-!
DEFINITION. The statements for the provers. Each docstring says which rule of spec/ a statement formalises, or that it states the
model's own choice.
-/

open Sys2Proof Sys2Proof.Machine

/-! ### The whole block -/

/-- A step with a command in front of the queue is that command's effect with the queue's rest (the block's rule of commands). -/
def Obligations.StepRunsFrontCommand : Prop :=
  ∀ (c : Instr) (rest : List Instr) (s : State), s.pending = c :: rest → step s = exec c { s with pending := rest }

/-- Every command answers a next state, whatever the state, and leaves the queue alone; but for a SETC that acts with an index that R236
calls undefined and a KBEGIN that acts with a mode that R239 does. -/
def Obligations.EveryCommandCompletes : Prop :=
  ∀ (c : Instr) (s : State),
    (∀ g gn a idx, c = .sSetc g gn a idx → s.issues = true → s.eng.guardLane g gn 0 = true → idx.toNat ≤ 20) →
    (∀ g gn imm, c = .kBegin g gn imm → s.issues = true → s.eng.enabledLanes g gn ≠ [] → imm.toNat ≤ 1) →
    ∃ t, exec c s = .next t ∧ t.pending = s.pending

/-- A command that carries the Tally forward finds the tick that it leaves at its end (R628): its answer is the one that it gives where that
tick has ended, provided that nothing is then left to do in it. The step on an empty queue, where the Steward has nothing to issue, is a cycle
of CLK_CTL (R555, R564); and cycles that carry the Tally forward find the tick ended in the same way. The order of a tick's parts, and what
the cycles find of it, are the model's in part (assumption logs 63 and 64). -/
def Obligations.DatedCommandsEndTheTick : Prop :=
  (∀ (c : Instr) (s : State), c.dated = true → s.boot.absent = false →
    ∃ t, exec c s = .next t ∧ (s.eng.now < t.eng.now → s.tickLeft.Settled → exec c s.tickLeft = .next t)) ∧
  (∀ s : State, s.pending = [] → s.boot.absent = false → s.eng.pcNext = none → s.eng.limitDue = false → s.eng.issueNow = none →
    step s = .next (s.withEng (s.eng.passCycles 1))) ∧
  (∀ (n : Nat) (s : State), s.tickLeft.Settled → s.eng.now < (s.eng.cycles n).now → s.tickLeft.eng.now = s.eng.now →
    let x := s.tickLeft.eng
    s.eng.passCycles n = (({ x with tal := { x.tal with acc := (s.eng.cycles n).tal.acc } } : Eng).stall n).pass (s.eng.cycles n).now)

/-- A SETC of an index from 21 on (R236) and a KBEGIN of a mode from 2 on (R239) stop, by name, where the Steward issues them and their guard
lets them act (R232), and nothing else stops them. -/
def Obligations.UndefinedStewardOperandsStop : Prop :=
  (∀ (g : BitVec 3) (gn : Bool) (a idx : BitVec 5) (s : State),
      exec (.sSetc g gn a idx) s = .refused .undefinedContextWrite ↔ 20 < idx.toNat ∧ s.issues = true ∧ s.eng.guardLane g gn 0 = true) ∧
  (∀ (g : BitVec 3) (gn : Bool) (imm : BitVec 16) (s : State),
      exec (.kBegin g gn imm) s = .refused .undefinedSelectionMode ↔ 1 < imm.toNat ∧ s.issues = true ∧ s.eng.enabledLanes g gn ≠ [])

/-- Every command keeps the bring-up stages and flags in agreement (R556, R571, R572), from every state in which they agree. -/
def Obligations.StepKeepsBringUp : Prop :=
  ∀ (s t : State), s.boot.Good → step s = .next t → t.boot.Good

/-- After reset the bring-up stages and flags agree. -/
def Obligations.ResetBringUp : Prop := State.reset.boot.Good

/-- Only the end of an image load moves the stage to 2, only the end of clearing to 3 and only GLB_LOCK, in stage 3, to 4; nothing but
the release of an engine reset returns it to 1 (R571, R572). -/
def Obligations.StageMovesOnlyByBringUp : Prop :=
  ∀ (c : Instr) (s t : State), exec c s = .next t → t.boot.stage ≠ s.boot.stage →
    (t.boot.stage = 1 ∧ s.boot.absent = true ∧ c = .resetRelease) ∨
    (t.boot.stage = 2 ∧ s.boot.imgBusy = true ∧ ∃ image readOk straps cxl, c = .imageLoadEnd image readOk straps cxl) ∨
    (t.boot.stage = 3 ∧ s.boot.initBusy = true ∧ c = .initDone) ∨
    (t.boot.stage = 4 ∧ s.boot.stage = 3 ∧
      ((∃ data, c = .glbLock data) ∨ (∃ data, c = .registerWrite 8 4 data) ∨ ∃ data, c = .dbgWrite 9 8 data))

/-- While the engine is absent no command changes it but the release of reset and the reset sources: nothing leaves it but the answer
ENGINE_ABSENT to the array and answers to small cores, of the chip's port logic, and a read of the bus answers 1 at HAT_STATUS and 0 elsewhere
(R125, R574). Of the sequencer only the TAKEs that wait at the cores' ports change, and the
controller's counter runs on to the end of a port's wait (R429). -/
def Obligations.AbsentEngineIsUntouched : Prop :=
  ∀ (c : Instr) (s t : State), s.boot.absent = true → c ≠ .resetRelease → c ≠ .powerOn → c ≠ .chip → exec c s = .next t →
    ((∀ core, c ≠ .take core ∧ c ≠ .noDispatcher core) → t.boot = s.boot) ∧
      t.boot = { s.boot with takes := t.boot.takes, cmc := t.boot.cmc } ∧ s.boot.cmc ≤ t.boot.cmc ∧
      t.pending = s.pending ∧
      t.eng = { s.eng with readData := t.eng.readData, out := t.eng.out } ∧
      t.eng.readData = (match c with
        | .pairLowRead off size => if off = 0x1004 ∧ size = 4 then 1 else 0
        | .badAccess _ _ false => 0
        | _ => s.eng.readData) ∧
      ∃ l, t.eng.out = l ++ s.eng.out ∧ ∀ o ∈ l, o = .array .engineAbsent ∨ ∃ core code, o = .coreAnswer core code none

/-! ### Registers -/

/-- An access of another size or alignment than R4 accepts (a word at a multiple of 4, or eight bytes) has no effect on a write,
reads 0, and is recorded as BAD_ACCESS (R5, R599). That the event's UNIT is 1 for the doorbell window, 5 for the Steward's view and 15 for
every other access is the model's reading (assumption log 62). -/
def Obligations.BadAccessHasNoEffect : Prop :=
  ∀ (off size : Nat) (data : DWord) (s : State), s.boot.absent = false →
    (size ≠ 4 ∧ size ≠ 8) ∨ off % 4 ≠ 0 ∨ (size = 8 ∧ off % 8 ≠ 0) →
    let unit := if 0x1C000 ≤ off % 2 ^ 17 then 1 else if 0x18000 ≤ off % 2 ^ 17 then 5 else 15
    let bad := fun (write : Bool) (e : Eng) => e.raise { code := 0x0001, unit, arg := off % 2 ^ 17 + 2 ^ 17 * write.toNat }
    exec (.registerWrite off size data) s = .next (s.withEng (bad true s.eng)) ∧
    exec (.badAccess off size true) s = .next (s.withEng (bad true s.eng)) ∧
    exec (.badAccess off size false) s = .next (s.withEng (bad false { s.eng with readData := 0 })) ∧
    exec (.pairLowRead off size) s = .next (s.withEng (bad false { s.eng with readData := 0 }))

/-- A 32-bit write of a register that stands alone and is no command of its own, in the copy that its select register names (R8, R620): each
bit takes the value of its access type (R7, R8): an RW bit the bit written, unless an enable field keeps it (R11); an RWS bit the bit written; an
RWL bit the bit written while the lock is clear, and no other (R12); a W1C bit 0 where a 1 is written; every other bit stays. A register with
RWS bits is accepted to take effect at a later edge (R9), or held while the compose window of the instance whose view it is of is open (R61):
what is in force stays. No other copy and no other register changes but those that count, and the units are left as they were. -/
def Obligations.RegisterWriteByAccessType : Prop :=
  ∀ (off : Nat) (data : DWord) (s : State) (r : RegRow) (n k : Nat), s.boot.absent = false →
    off < 0x18000 → off % 4 = 0 → off % 0x1000 ≠ 0 → off ∉ ([0x40, 0x2004, 0x3084, 0xE020, 0xF080, 0xF098] : List Nat) →
    tallyReg off = false →
    let sel := s.eng.selOf r.sel
    ownRow off (data.setWidth 32) s = none → pairOf off = none → regRow off = some (r, n) → selNames r.sel sel = true →
    (r.rw ||| r.rws ||| r.rwl) &&& r.w1c = 0 → k < 32 →
    let kept := s.eng.rwHeld r off sel ||| enBits off
    let key := regKey off sel
    ∃ t, exec (.registerWrite off 4 data) s = .next t ∧
      (t.eng.reg off sel).getLsbD k =
        (if (r.rw.getLsbD k && !kept.getLsbD k) || r.rws.getLsbD k || (r.rwl.getLsbD k && !s.boot.locked) then data.getLsbD k
         else if r.w1c.getLsbD k then (s.eng.reg off sel).getLsbD k && !data.getLsbD k
         else (s.eng.reg off sel).getLsbD k) ∧
      (∀ o i, i < 65536 → o ≠ off ∨ i ≠ sel → tallyReg o = false → t.eng.reg o i = s.eng.reg o i) ∧
      (r.rws = 0 → t.eng.pend = s.eng.pend ∧ t.eng.held = s.eng.held) ∧
      (r.rws ≠ 0 → match keyInst key with
        | some i =>
          if (s.eng.inst i).win then t.eng.held = s.eng.held ++ [(i, key, t.eng.reg off sel)] ∧ t.eng.pend = s.eng.pend
          else t.eng.pend = s.eng.pend ++ [(key, t.eng.reg off sel, s.eng.now)] ∧ t.eng.held = s.eng.held
        | none => t.eng.pend = s.eng.pend ++ [(key, t.eng.reg off sel, s.eng.now)] ∧ t.eng.held = s.eng.held) ∧
      t = { s with eng := { s.eng with
        regs := t.eng.regs, out := t.eng.out, pend := t.eng.pend, held := t.eng.held
        hat := { s.eng.hat with rings := t.eng.hat.rings }
        dbg := { s.eng.dbg with cnt := t.eng.dbg.cnt } } }

/-- A 32-bit write of the low word of a writable pair is held and changes no register; that of the high word then commits both words
(R621): the bits that may be written take the words written. The pair here selects nothing, has RW fields only, and is under no
enable field that is set. -/
def Obligations.PairCommitsWithHighWord : Prop :=
  ∀ (off : Nat) (lo : DWord) (hi : Word) (s : State) (r h : RegRow) (n m : Nat), s.boot.absent = false →
    off + 4 < 0x18000 → off % 4 = 0 → ownRow off (lo.setWidth 32) s = none → pairOf off = some off → pairOf (off + 4) = some off →
    off ≠ 0xE034 → off ≠ 0x2000 → off ≠ 0x2004 →
    regRow off = some (r, n) → regRow (off + 4) = some (h, m) → r.sel = .none →
    r.rws = 0 → h.rws = 0 → r.w1c = 0 → h.w1c = 0 → r.rwl = 0 → h.rwl = 0 →
    s.eng.rwHeld r off 0 = 0 → s.eng.rwHeld h (off + 4) 0 = 0 → enBits off = 0 → enBits (off + 4) = 0 →
    let u := s.withEng { s.eng with pairLow := tput s.eng.pairLow off (lo.setWidth 32) }
    exec (.registerWrite off 4 lo) s = .next u ∧
    ∃ t, exec (.pairHighWrite (off + 4) hi) u = .next t ∧
      t.eng.reg off 0 = (s.eng.reg off 0 &&& ~~~r.rw) ||| (lo.setWidth 32 &&& r.rw) ∧
      t.eng.reg (off + 4) 0 = (s.eng.reg (off + 4) 0 &&& ~~~h.rw) ||| (hi &&& h.rw) ∧
      tget t.eng.pairLow off = none ∧
      (∀ o i, i < 65536 → (o ≠ off ∧ o ≠ off + 4) ∨ i ≠ 0 → t.eng.reg o i = s.eng.reg o i) ∧
      t = s.withEng { s.eng with regs := t.eng.regs, pairLow := t.eng.pairLow }

/-- A 32-bit read of the low word of a 64-bit quantity latches the high word, and the next 32-bit read of the high word returns what was
latched, whatever has changed since; a 64-bit read returns both words from the same instant, the word of the lower offset as the low one (R6). -/
def Obligations.PairReadIsOneInstant : Prop :=
  ∀ (off : Nat) (s : State), s.boot.absent = false → off + 4 < 0x20000 → off % 4 = 0 → pairPos off = .low → pairPos (off + 4) = .high →
    ∃ t, exec (.pairLowRead off 4) s = .next t ∧
      t = s.withEng { s.eng with readData := t.eng.readData, latch := t.eng.latch } ∧
      t.eng.readData = (wordAtOff s.boot s.eng off).setWidth 64 ∧
      (∀ u : State, u.boot.absent = false → tget u.eng.latch off = tget t.eng.latch off →
        ∃ v, exec (.pairLowRead (off + 4) 4) u = .next v ∧
          v = u.withEng { u.eng with readData := v.eng.readData, latch := v.eng.latch } ∧
          v.eng.readData = (wordAtOff s.boot s.eng (off + 4)).setWidth 64 ∧ tget v.eng.latch off = none) ∧
      (off % 8 = 0 → exec (.pairLowRead off 8) s = .next (s.withEng { s.eng with
        readData := wordAtOff s.boot s.eng (off + 4) ++ wordAtOff s.boot s.eng off }))

/-- A write of an RWS field of the engine-wide view is read back at once, and it is accepted to take effect at a later edge: what is
in force stays (R9). TAL_EDGE_LEAD_n is of an instance's view, and while that instance's compose window is open its write is
held (R61); where the lead asked for is not the effective one, from the floor of the instance up to 100,000, EDGE_LEAD_CLAMPED gives the
effective lead and the instance (R49). -/
def Obligations.RwsWriteWaitsForAnEdge : Prop :=
  (∀ (e : Eng) (off sel : Nat) (w : Word), keyInst (regKey off sel) = none →
    let e' := e.rwsWrite off sel w
    e'.reg off sel = w ∧ e'.act = e.act ∧ e'.pend = e.pend ++ [(regKey off sel, w, e.now)] ∧
      e' = { e with regs := e'.regs, pend := e'.pend }) ∧
  (∀ (n : Nat) (data : Word) (s : State), s.boot.absent = false → n < 16 →
    let w := data &&& 0xFFFFF
    let key := regKey (0xE080 + 4 * n) 0
    let x := s.eng.inst n
    let eff := min (max (data.toNat % 2 ^ 20) (s.eng.fv (F.TAL_EDGE_FLOOR_n_FLOOR.at 4 n))) 100000
    ∃ e : Eng, e.reg (0xE080 + 4 * n) 0 = w ∧
      (∀ off sel, sel < 65536 → off ≠ 0xE080 + 4 * n ∨ sel ≠ 0 → e.reg off sel = s.eng.reg off sel) ∧
      e = { s.eng with
        regs := e.regs
        held := if x.win then s.eng.held ++ [(n, key, w)] else s.eng.held
        pend := if x.win then s.eng.pend else s.eng.pend ++ [(key, w, s.eng.now)] } ∧
      exec (.edgeLeadWrite n data) s = .next (s.withEng (if eff = data.toNat % 2 ^ 20 then e else
        e.raise { code := 0x0030, unit := 14, part := x.active, pid := if x.active then x.owner else 0, inst := some n,
                  arg := n + 2 ^ 32 * eff })))

/-- Raising an event changes only what reports, and does so ring by ring: an enabled event ring that selects the event (R110) with a
free entry is given the record, with the Tally, at its tail, with its PHASE and the ring's LOST flag, which clears (R104, R109, R111);
one without a free entry, or while Hatch is not enabled, loses it: LOST is set for its next record and HAT_EVT_LOST counts (R111). -/
def Obligations.EventsReachTheirRings : Prop :=
  ∀ (e : Eng) (v : EvtRec) (r : Nat), r < 256 →
    let e' := e.raise v
    let takes := e.ringEn r && decide (e.ringKind r = 2) &&
      (e.fb F.HAT_RING_CFG_FILTER_ALL r || (v.part && decide (e.fv F.HAT_RING_CFG_PID r = v.pid)))
    e.Reports e' ∧
    (takes = true → e.fb F.HAT_CTL_EN = true → e.ringFill r < e.ringDepth r →
      e'.ring r = { e.ring r with tail := ((e.ring r).tail + 1) % 2 ^ 32, lostFlag := false } ∧
      .event r (e.ring r).tail (e.ringPhase r (e.ring r).tail) (e.ring r).lostFlag { v with stamp := e.now } ∈ e'.out) ∧
    (takes = true → e.fb F.HAT_CTL_EN = false ∨ e.ringDepth r ≤ e.ringFill r →
      e'.ring r = { e.ring r with lostFlag := true } ∧
      e'.fv F.HAT_EVT_LOST_LOST r = min (e.fv F.HAT_EVT_LOST_LOST r + 1) (2 ^ 32 - 1)) ∧
    (takes = false → e'.ring r = e.ring r ∧ e'.fv F.HAT_EVT_LOST_LOST r = e.fv F.HAT_EVT_LOST_LOST r)

/-! ### The Steward's scalar syllables -/

/-- Scalar syllables that write a scalar register (R235): when the Steward issues and bit 0 of the guard allows (R232), each queues for
the end of the bundle (R233) the value that the table gives, modulo 2^64, shift counts taken from bits [5:0]; nothing else changes. -/
def Obligations.ScalarResults : Prop :=
  ∀ (y gn : Bool) (g : BitVec 3) (d a b : BitVec 5) (p : BitVec 3) (imm : BitVec 18) (s : State),
    s.boot.absent = false → s.eng.stwIssues = true → s.eng.guardLane g gn 0 = true →
    let A := s.eng.sreg a.toNat
    let B := s.eng.sreg b.toNat
    let I := BitVec.ofInt 64 imm.toInt
    let q := fun (v : DWord) => s.withEng { s.eng with stw := { s.eng.stw with wr := s.eng.stw.wr ++ [.scalar d.toNat v] } }
    exec (.sAdd y g gn d a b) s = .next (q (BitVec.ofNat 64 (A.toNat + B.toNat))) ∧
    exec (.sSub y g gn d a b) s = .next (q (BitVec.ofInt 64 (A.toInt - B.toInt))) ∧
    exec (.sMul y g gn d a b) s = .next (q (BitVec.ofNat 64 (A.toNat * B.toNat))) ∧
    exec (.sAnd y g gn d a b) s = .next (q (A &&& B)) ∧
    exec (.sOr y g gn d a b) s = .next (q (A ||| B)) ∧
    exec (.sXor y g gn d a b) s = .next (q (A ^^^ B)) ∧
    exec (.sShl y g gn d a b) s = .next (q (BitVec.ofNat 64 (A.toNat * 2 ^ (B.toNat % 64)))) ∧
    exec (.sShr y g gn d a b) s = .next (q (BitVec.ofNat 64 (A.toNat / 2 ^ (B.toNat % 64)))) ∧
    exec (.sMin y g gn d a b) s = .next (q (BitVec.ofInt 64 (min A.toInt B.toInt))) ∧
    exec (.sMax y g gn d a b) s = .next (q (BitVec.ofInt 64 (max A.toInt B.toInt))) ∧
    exec (.sMinu y g gn d a b) s = .next (q (BitVec.ofNat 64 (min A.toNat B.toNat))) ∧
    exec (.sMaxu y g gn d a b) s = .next (q (BitVec.ofNat 64 (max A.toNat B.toNat))) ∧
    exec (.sAddi y g gn d a imm) s = .next (q (A + I)) ∧
    exec (.sAndi y g gn d a imm) s = .next (q (A &&& I)) ∧
    exec (.sOri y g gn d a imm) s = .next (q (A ||| I)) ∧
    exec (.sShli y g gn d a imm) s = .next (q (BitVec.ofNat 64 (A.toNat * 2 ^ (imm.toNat % 64)))) ∧
    exec (.sShri y g gn d a imm) s = .next (q (BitVec.ofNat 64 (A.toNat / 2 ^ (imm.toNat % 64)))) ∧
    exec (.sLi y g gn d imm) s = .next (q I) ∧
    exec (.sPcnt y g gn d p) s = .next (q (BitVec.ofNat 64 (((List.range 4).filter (fun l => (s.eng.preg p.toNat).getLsbD l)).length)))

/-- Scalar syllables that write a predicate (R235): every bit of it is the comparison, or it is the AND or the complement of
predicates; it is queued for the end of the bundle, and nothing else changes. -/
def Obligations.ScalarPredicates : Prop :=
  ∀ (y gn : Bool) (g e f h : BitVec 3) (d a b : BitVec 5) (imm : BitVec 18) (s : State),
    s.boot.absent = false → s.eng.stwIssues = true → s.eng.guardLane g gn 0 = true →
    let A := s.eng.sreg a.toNat
    let B := s.eng.sreg b.toNat
    let q := fun (r : Nat) (v : BitVec 4) => s.withEng { s.eng with stw := { s.eng.stw with wr := s.eng.stw.wr ++ [.pred r v] } }
    let all := fun (c : Bool) => BitVec.fill 4 c
    exec (.sCeq y g gn d a b) s = .next (q (d.toNat % 8) (all (decide (A = B)))) ∧
    exec (.sClt y g gn d a b) s = .next (q (d.toNat % 8) (all (decide (A.toInt < B.toInt)))) ∧
    exec (.sCltu y g gn d a b) s = .next (q (d.toNat % 8) (all (decide (A.toNat < B.toNat)))) ∧
    exec (.sCeqi y g gn d a imm) s = .next (q (d.toNat % 8) (all (decide (A.toInt = imm.toInt)))) ∧
    exec (.sClti y g gn d a imm) s = .next (q (d.toNat % 8) (all (decide (A.toInt < imm.toInt)))) ∧
    exec (.sPand y g gn e f h) s = .next (q e.toNat (s.eng.preg f.toNat &&& s.eng.preg h.toNat)) ∧
    exec (.sPnot y g gn e f) s = .next (q e.toNat (s.eng.preg f.toNat ^^^ 15))

/-- The other scalar syllables (R235, R236, R249): NOP changes nothing; GETC reads a listed context register, SETC writes one; LD and ST
reach the 64-bit word of DMEM at an aligned byte address in its 64 KiB, and an access beyond it faults the program when the bundle
ends; a word that the port has left with one bit in error is read corrected, which RAS reports, and one with more is PROG_DMEM and faults the
program so (R577, R615); a taken branch sets the bundle to go on at; END ends the program with its bundle. A GETC of an index that R236 does not list completes,
and what it reads is free: some value is queued (assumption log 2). -/
def Obligations.ScalarOthers : Prop :=
  ∀ (y gn : Bool) (g : BitVec 3) (d a idx : BitVec 5) (imm : BitVec 18) (s : State),
    s.boot.absent = false → s.eng.stwIssues = true → s.eng.guardLane g gn 0 = true →
    let A := s.eng.sreg a.toNat
    let at_ := (A.toInt + imm.toInt) % 2 ^ 64
    let w := fun (x : Stw) => s.withEng { s.eng with stw := x }
    let q := fun (x : BWrite) => w { s.eng.stw with wr := s.eng.stw.wr ++ [x] }
    let to_ := w { s.eng.stw with target := some (s.eng.stw.pc + imm.toInt) }
    exec (.nopScalar y) s = .next s ∧
    (∀ v, s.eng.ctxReg idx.toNat = some v → exec (.sGetc y g gn d idx) s = .next (q (.scalar d.toNat v))) ∧
    (20 < idx.toNat →
      ∃ v, exec (.sGetc y g gn d idx) s = .next (s.withEng { s.eng with
        stw := { s.eng.stw with wr := s.eng.stw.wr ++ [.scalar d.toNat v] }, free := s.eng.free + 1 })) ∧
    (idx.toNat ≤ 20 → exec (.sSetc g gn a idx) s = .next (q (.ctx idx.toNat A))) ∧
    (at_ % 8 = 0 → at_ ≤ 65528 →
      let k := at_.toNat / 8
      let load := exec (.sLd g gn d a imm) s
      (s.eng.dmemErrors k = 0 → load = .next (q (.scalar d.toNat (s.eng.dmemWord k)))) ∧
      (s.eng.dmemErrors k = 1 →
        load = .next (s.withEng ((s.eng.corrected 5).later (.scalar d.toNat (s.eng.dmemCheck k))))) ∧
      (2 ≤ s.eng.dmemErrors k →
        load = .next (s.withEng (s.eng.capture { code := 0x071, unit := 5, inst := s.eng.stw.run.getD 0 }).dmemFaulted))) ∧
    (at_ % 8 = 0 → at_ ≤ 65528 →
      exec (.sSt g gn d a imm) s = .next (q (.mem (8192 * s.eng.stw.prog + at_.toNat / 8) (s.eng.sreg d.toNat)))) ∧
    (65528 < at_ → exec (.sLd g gn d a imm) s = .next (w { s.eng.stw with dmemFault := true }) ∧
      exec (.sSt g gn d a imm) s = .next (w { s.eng.stw with dmemFault := true })) ∧
    exec (.sBr g gn imm) s = .next to_ ∧
    exec (.sBrz g gn a imm) s = .next (if A = 0 then to_ else s) ∧
    exec (.sBrnz g gn a imm) s = .next (if A = 0 then s else to_) ∧
    exec (.sEnd g gn) s = .next (w { s.eng.stw with ending := true })

/-- A scalar syllable whose guard is closed does nothing (R232), whatever its operands. -/
def Obligations.GuardedScalarsDoNothing : Prop :=
  ∀ (y gn : Bool) (g e f : BitVec 3) (d a b idx : BitVec 5) (imm : BitVec 18) (s : State),
    s.eng.guardLane g gn 0 = false →
    ∀ c ∈ [Instr.sAdd y g gn d a b, .sSub y g gn d a b, .sMul y g gn d a b, .sAnd y g gn d a b, .sOr y g gn d a b,
        .sXor y g gn d a b, .sShl y g gn d a b, .sShr y g gn d a b, .sMin y g gn d a b, .sMax y g gn d a b, .sMinu y g gn d a b,
        .sMaxu y g gn d a b, .sAddi y g gn d a imm, .sAndi y g gn d a imm, .sOri y g gn d a imm, .sShli y g gn d a imm,
        .sShri y g gn d a imm, .sLi y g gn d imm, .sPcnt y g gn d e, .sCeq y g gn d a b, .sClt y g gn d a b, .sCltu y g gn d a b,
        .sCeqi y g gn d a imm, .sClti y g gn d a imm, .sPand y g gn e f e, .sPnot y g gn e f, .sGetc y g gn d idx,
        .sSetc g gn a idx, .sLd g gn d a imm, .sSt g gn d a imm, .sBr g gn imm, .sBrz g gn a imm, .sBrnz g gn a imm, .sEnd g gn],
      exec c s = .next s

/-! ### The Steward's wide syllables and bundles -/

/-- A bundle closes when its wide syllable has executed (R233, R234): the writes that its syllables queued take effect, the last to a
register standing, those of SETC to CFG and EST among them (R236); s0 and q0 keep reading 0 and 0b1111 (register files of spec/06); the cycles
of the hold are counted and pass on the clock (R564); and the program goes on at the branch target or at the next bundle, when that lies in the
program. Nothing else of the engine changes but what the passing of time may. Stated where the hold leaves the Tally where it is, or the tick
that it leaves has nothing left to do (assumption log 64). -/
def Obligations.BundleCloses : Prop :=
  ∀ (s : State) (i : Nat), s.boot.absent = false → s.eng.stwIssues = true → s.eng.stw.run = some i →
    s.eng.stw.ending = false → s.eng.stw.dmemFault = false →
    let next := s.eng.stw.target.getD (s.eng.stw.pc + 1)
    let end_ := s.eng.bundleEnd 1
    0 ≤ next → next < s.eng.progLen → (end_.cycles 1).now = end_.now ∨ (s.withEng end_).Settled →
    let writes := s.eng.stw.wr.reverse
    ∃ t, exec .wideNop s = .next t ∧
      (∀ r, t.eng.sreg r = if r = 0 then 0 else
        (writes.findSome? (fun w => match w with
          | .scalar k v => if k = r then some v else none
          | _ => none)).getD (s.eng.sreg r)) ∧
      (∀ r l, t.eng.vlane r l = (writes.findSome? (fun w => match w with
          | .lane k v => if k = 4 * r + l then some v else none
          | _ => none)).getD (s.eng.vlane r l)) ∧
      (∀ r, t.eng.preg r = if r = 0 then 15 else
        (writes.findSome? (fun w => match w with
          | .pred k v => if k = r then some v else none
          | _ => none)).getD (s.eng.preg r)) ∧
      (∀ j, tgetD t.eng.stw.dmem j 0 = (writes.findSome? (fun w => match w with
          | .mem k v => if k = j then some v else none
          | _ => none)).getD (tgetD s.eng.stw.dmem j 0)) ∧
      (∀ k, tget t.eng.dbg.mem k =
        if s.eng.stw.wr.any (fun w => match w with
          | .mem j _ => decide (k = 6 * 2 ^ 40 + 28 * 2048 + j)
          | _ => false) then none else tget s.eng.dbg.mem k) ∧
      t.eng.stw.cfg = (writes.findSome? (fun w => match w with
        | .ctx k v => if k = 15 then some v.toNat else none
        | _ => none)).getD s.eng.stw.cfg ∧
      t.eng.stw.est = (writes.findSome? (fun w => match w with
        | .ctx k v => if k = 16 then some v else none
        | _ => none)).getD s.eng.stw.est ∧
      t.eng.now * accTick + t.eng.tal.acc = s.eng.now * accTick + s.eng.tal.acc + accGain s.eng.raf.rate ∧
      (∀ off sel, sel < 65536 → timeReg off = false → t.eng.reg off sel = s.eng.reg off sel) ∧
      t = s.withEng { s.eng with
        now := t.eng.now, regs := t.eng.regs
        tal := { s.eng.tal with acc := t.eng.tal.acc }
        stw := { s.eng.stw with
          s := t.eng.stw.s, v := t.eng.stw.v, q := t.eng.stw.q, dmem := t.eng.stw.dmem, cfg := t.eng.stw.cfg, est := t.eng.stw.est
          pc := next.toNat, cycles := s.eng.stw.cycles + 1, wr := [], target := none, seen := none }
        kpr := { s.eng.kpr with parts := t.eng.kpr.parts }
        dbg := { s.eng.dbg with stepOne := false, cnt := t.eng.dbg.cnt, mem := t.eng.dbg.mem } }

/-- Wide syllables that write lanes (R237): each queues, for the lanes that R232 enables and no other, the value that the table gives,
and closes its bundle after one cycle. -/
def Obligations.WideResults : Prop :=
  ∀ (gn : Bool) (g : BitVec 3) (d a b : BitVec 5) (imm : BitVec 16) (s : State), s.boot.absent = false → s.eng.stwIssues = true →
    let A := s.eng.vlane a.toNat
    let B := s.eng.vlane b.toNat
    let on := (List.range 4).filter (fun l => (s.eng.preg g.toNat).getLsbD l != gn)
    let close := fun (w : List BWrite) =>
      s.withEng (({ s.eng with stw := { s.eng.stw with wr := s.eng.stw.wr ++ w } } : Eng).closeBundle 1)
    let q := fun (f : Nat → DWord) => close (on.map (fun l => .lane (4 * d.toNat + l) (f l)))
    exec .wideNop s = .next (close []) ∧
    exec (.wAdd g gn d a b) s = .next (q (fun l => BitVec.ofNat 64 ((A l).toNat + (B l).toNat))) ∧
    exec (.wSub g gn d a b) s = .next (q (fun l => BitVec.ofInt 64 ((A l).toInt - (B l).toInt))) ∧
    exec (.wAnd g gn d a b) s = .next (q (fun l => A l &&& B l)) ∧
    exec (.wOr g gn d a b) s = .next (q (fun l => A l ||| B l)) ∧
    exec (.wMin g gn d a b) s = .next (q (fun l => BitVec.ofInt 64 (min (A l).toInt (B l).toInt))) ∧
    exec (.wMax g gn d a b) s = .next (q (fun l => BitVec.ofInt 64 (max (A l).toInt (B l).toInt))) ∧
    exec (.wMinu g gn d a b) s = .next (q (fun l => BitVec.ofNat 64 (min (A l).toNat (B l).toNat))) ∧
    exec (.wMaxu g gn d a b) s = .next (q (fun l => BitVec.ofNat 64 (max (A l).toNat (B l).toNat))) ∧
    exec (.wMul g gn d a b) s = .next (q (fun l => BitVec.ofNat 64 ((A l).toNat * (B l).toNat))) ∧
    exec (.wShli g gn d a imm) s = .next (q (fun l => BitVec.ofNat 64 ((A l).toNat * 2 ^ (imm.toNat % 64)))) ∧
    exec (.wShri g gn d a imm) s = .next (q (fun l => BitVec.ofNat 64 ((A l).toNat / 2 ^ (imm.toNat % 64)))) ∧
    exec (.wMov g gn d a) s = .next (q A) ∧
    exec (.wBc g gn d b) s = .next (q (fun _ => s.eng.sreg b.toNat)) ∧
    exec (.wLi g gn d imm) s = .next (q (fun _ => BitVec.ofInt 64 imm.toInt))

/-- Wide syllables that write a scalar register or a predicate, and WSORT (R237): WGET takes one lane whatever the guard; a comparison
or WBIT gives a bit for each lane, 0 for the disabled ones; WSUM adds the enabled lanes; WSORT puts the enabled lanes of vA in
ascending order, ties by lane, and applies the same permutation to vB. Each closes its bundle after one cycle. -/
def Obligations.WideReductions : Prop :=
  ∀ (gn : Bool) (g c : BitVec 3) (d a b e : BitVec 5) (imm : BitVec 16) (s : State), s.boot.absent = false → s.eng.stwIssues = true →
    let A := s.eng.vlane a.toNat
    let B := s.eng.vlane b.toNat
    let en := fun (l : Nat) => (s.eng.preg g.toNat).getLsbD l != gn
    let on := (List.range 4).filter en
    let close := fun (w : List BWrite) =>
      s.withEng (({ s.eng with stw := { s.eng.stw with wr := s.eng.stw.wr ++ w } } : Eng).closeBundle 1)
    let bits := fun (t : Nat → Bool) (v : BitVec 4) => ∀ l < 4, v.getLsbD l = (en l && t l)
    exec (.wGet d a imm) s = .next (close [.scalar d.toNat (A (imm.toNat % 4))]) ∧
    (∃ v, exec (.wCeq g gn a b c) s = .next (close [.pred c.toNat v]) ∧ bits (fun l => decide (A l = B l)) v) ∧
    (∃ v, exec (.wClt g gn a b c) s = .next (close [.pred c.toNat v]) ∧ bits (fun l => decide ((A l).toInt < (B l).toInt)) v) ∧
    (∃ v, exec (.wCltu g gn a b c) s = .next (close [.pred c.toNat v]) ∧ bits (fun l => decide ((A l).toNat < (B l).toNat)) v) ∧
    (∃ v, exec (.wBit g gn a c imm) s = .next (close [.pred c.toNat v]) ∧ bits (fun l => (A l).getLsbD (imm.toNat % 64)) v) ∧
    exec (.wSum g gn d a) s = .next (close [.scalar d.toNat (BitVec.ofNat 64 ((on.map (fun l => (A l).toNat)).sum))]) ∧
    ∃ perm : List Nat, perm.Perm on ∧ perm.Pairwise (fun l m => (A l).toNat < (A m).toNat ∨ (A l = A m ∧ l < m)) ∧
      exec (.wSort g gn d a b e) s = .next (close ((on.zip perm).flatMap (fun p =>
        [.lane (4 * d.toNat + p.1) (A p.2), .lane (4 * e.toNat + p.1) (B p.2)])))

/-! ### The Tally, edges and the cyclic slot table -/

/-- Edges (R55 to R63). At an idle edge, the next whole multiple of 10,000, every write accepted before it takes effect: each register
copy takes the last word accepted for it; here no instance is active and no write is of the cyclic table or a bucket rate, which do
more. At the edge of an outstanding step of an instance in step alignment (R41) the captured values of the instance's view come in force, a
new quota among them as far as Store backs it (R265); then the writes of engine-wide fields accepted before the edge take effect, here of none
that does more; and the writes held since the window opened are accepted at the edge, to take effect at a later one (R61, R62). The array is told
to start the step, and the estimate of the step period moves an eighth of the way to the period measured (R163), kept modulo 2^24, which is
the model's choice (assumption log 57). What else an edge calls for is noted, and done at the end of its tick (R151, R288). Stated for a
state whose present tick is over (Settled, assumption log 64). -/
def Obligations.EdgesPutWritesInForce : Prop :=
  ∀ (i : Nat) (st : Step) (s : State), s.boot.absent = false → s.Settled →
    let e := s.eng
    let T := roundUp (max e.now e.nextIdle) 10000
    let due := e.pend.filter (fun x => decide (x.2.2 < T))
    (e.activeInsts = [] → e.idle = true →
      (∀ x ∈ e.pend, keyInst x.1 = none ∧ x.1 ≠ regKey 0xE020 0 ∧ x.1 / 65536 ∉ rateOffs) →
      ∃ t, exec .idleEdge s = .next t ∧ t.eng.now = T ∧ T % 10000 = 0 ∧ t.eng.nextIdle = T + 1 ∧
        t.eng.pend = e.pend.filter (fun x => decide (T ≤ x.2.2)) ∧
        (∀ k, tgetD t.eng.act k (rstWord (k / 65536)) = match due.reverse.find? (fun x => decide (x.1 = k)) with
          | some x => x.2.1
          | none => tgetD e.act k (rstWord (k / 65536))) ∧
        t.eng.held = e.held ∧ t.eng.cap = e.cap ∧ t.eng.gat = { e.gat with idles := some [] } ∧ s.Only [0, 3, 12, 17, 18] [] t) ∧
    (i < 16 → (e.inst i).step = some st → st.started = false → e.aligned i = true →
      let now := max e.now st.edge
      let hit := fun (x : Nat × Word × Nat) => (keyInst x.1).isNone && decide (x.2.2 < now)
      (∀ x ∈ e.pend, hit x = true → x.1 ≠ regKey 0xE020 0 ∧ x.1 ≠ regKey 0x6050 0 ∧ x.1 / 65536 ∉ rateOffs) →
      let quota := fun (view : Tab Word) => tgetD view (regKey 0x6084 i) (rstWord 0x6084)
      let cellar := fun (view : Tab Word) => tgetD view (regKey 0x608C i) (rstWord 0x608C)
      ∃ t, exec (.stepEdge i) s = .next t ∧ t.eng.now = now ∧
        t.eng.inst i = { e.inst i with step := some { st with started := true }, win := false, lastEdge := some now } ∧
        (∀ j, j ≠ i → t.eng.inst j = e.inst j) ∧
        (∀ k, tgetD t.eng.act k (rstWord (k / 65536)) =
          if k ∈ instKeys i then tgetD e.cap k (rstWord (k / 65536))
          else match (e.pend.filter hit).reverse.find? (fun x => decide (x.1 = k)) with
            | some x => x.2.1
            | none => tgetD e.act k (rstWord (k / 65536))) ∧
        t.eng.pend = e.pend.filter (fun x => !hit x && decide (keyInst x.1 ≠ some i)) ++
          (e.held.filter (fun x => decide (x.1 = i))).map (fun x => (x.2.1, x.2.2, now)) ∧
        t.eng.held = e.held.filter (fun x => decide (x.1 ≠ i)) ∧ t.eng.cap = e.cap ∧
        t.eng.out = .array (.startStep i st.num) :: e.out ∧
        (∀ was, (e.inst i).lastEdge = some was → t.eng.fv F.GAT_INST_STEP_EST_EST i =
          stepEst (e.fv F.GAT_INST_STEP_EST_EST i) (now - was) % 2 ^ 24) ∧
        (quota e.cap = quota e.act → cellar e.cap = cellar e.act → t.eng.shv = e.shv) ∧
        ((e.inst i).active = true → quota e.cap ≠ quota e.act →
          t.eng.shvi i = { e.shvi i with q := max (e.shvi i).qLoad (min (bitsOf (quota e.cap).toNat 23 0) (e.quotaRoom i)) }) ∧
        t.eng.gat = { e.gat with edges := sinsert e.gat.edges i } ∧ s.Only [0, 3, 4, 6, 12, 17, 18] [0x3084] t)

/-- The cyclic slot table (R64 to R72). A write of TAL_CST_DATA_HI commits the entry that TAL_CST_ADDR selects, with the low word held
before it, bits [63:39] reading 0. At a frame boundary every bar ends, and a bank switch that waits is made when R67 allows it: the bank
selected is the active one from the boundary on, which TAL_CST_BASE takes. At the start of a slot that falls on no boundary, every
partition that may not use it and has a step outstanding is barred, and no other: that its step is one of an active instance that this
engine leads is the model's reading (assumption log 20). Where the Tally goes on, a state whose present tick is over (assumption log 64). -/
def Obligations.CyclicSlotTable : Prop :=
  ∀ (data lo : Word) (x : Nat) (s : State), s.boot.absent = false →
    let e := s.eng
    let bank := e.fb F.TAL_CST_ADDR_BANK_SEL
    let n := e.fv F.TAL_CST_ADDR_SLOT
    (tget e.pairLow 0xE034 = some lo → e.fb F.TAL_CST_CTL_EN = false ∨ bank ≠ e.tal.activeBank →
      ∃ t, exec (.cstEntryCommit data) s = .next t ∧
        tgetD (t.eng.cstBank bank) n 0 = BitVec.ofNat 64 ((lo.toNat + 2 ^ 32 * data.toNat) % 2 ^ 39) ∧
        (∀ k, k ≠ n → tgetD (t.eng.cstBank bank) k 0 = tgetD (e.cstBank bank) k 0) ∧ t.eng.cstBank (!bank) = e.cstBank (!bank) ∧
        tget t.eng.pairLow 0xE034 = none ∧
        t = s.withEng { e with
          pairLow := t.eng.pairLow, tal := { e.tal with bank0 := t.eng.tal.bank0, bank1 := t.eng.tal.bank1 } }) ∧
    (s.Settled → e.tal.switchAt = some x → e.now ≤ x → x < 2 ^ 64 → e.frameStart (max e.now e.tal.nextFrame) = x →
      let b := decide (e.av F.TAL_CST_CTL_BANK = 1)
      b ≠ e.tal.activeBank → e.bankOk b = true →
      ∃ t, exec .cstFrameBoundary s = .next t ∧ t.eng.now = x ∧ t.eng.cstBase = x ∧ t.eng.fb F.TAL_CST_CTL_ACTIVE_BANK = b ∧
        t.eng.tal = { e.tal with barred := [], nextFrame := x + 1, switchAt := none, activeBank := b } ∧
        s.Only [0, 12, 14, 17] [0xE020, 0xE024, 0xE028] t) ∧
    (s.Settled → e.cstOn = true → e.slotFrom (max e.now e.tal.nextSlot) = x → e.now ≤ x → e.frameStart x ≠ x →
      ∃ t, exec .cstSlotStart s = .next t ∧ t.eng.now = x ∧
        (∀ p, p ∈ t.eng.tal.barred ↔ p ∈ e.tal.barred ∨
          (p < 64 ∧ e.usable p x = false ∧ ∃ i, i < 16 ∧ (e.inst i).active = true ∧ (e.inst i).lead = true ∧ (e.inst i).owner = p ∧
            (e.inst i).step.isSome = true)) ∧
        t.eng.tal = { e.tal with nextSlot := x + 1, barred := t.eng.tal.barred } ∧ s.Only [0, 1, 12, 14, 17] [] t)

/-! ### Hatch -/

/-- Rings and doorbells (R80 to R92). A count that a doorbell publishes on an enabled ring is taken: on a submission ring, as its new
tail with the stamp of the tick, when it is ahead of the tail held and within the depth; on the others, as the new head, when no
entry beyond those filled is given back. Setting EN of a ring that was not enabled configures it and starts its counts from 0, keeping
its overflow area (assumption log 34), and ends the wait of R179 for the instances whose records go to it where it is then not blocked; clearing
EN keeps the configuration; one that follows an overrun of the ring in the same tick leaves it not enabled (R89, R623). A pending LOST flag
stays with a ring that is configured again (R111). The head of a submission ring moves past what has been read, and the pointer line is written.
Stated where no order waits, and the periodic re-read for a state whose present tick is over; that the re-reads fall at whole multiples of the
period is the model's choice of their phase (assumption log 4). -/
def Obligations.RingsAndDoorbells : Prop :=
  ∀ (data : Word) (r count : Nat) (s : State), s.boot.absent = false → s.eng.hat.orders = [] → r < 256 →
    let e := s.eng
    let g := e.ring r
    let c := count % 2 ^ 32
    let d := (c + 2 ^ 32 - g.head) % 2 ^ 32
    let taken := fun (t : Nat) => if e.ringKind r = 0 then { g with tail := c, stamps := g.stamps ++ [(t, c)] } else { g with head := c }
    let mode := e.fv F.HAT_RING_CFG_DB_MODE r
    let period := 1000 * e.fv F.HAT_CTL_POLL
    let T := roundUp (max e.now e.hat.nextPoll) period
    (e.ringEn r = true → e.unitHalted 1 = false →
      (e.ringKind r = 0 ∧ e.ringFill r < d ∧ d ≤ e.ringDepth r) ∨ (e.ringKind r ≠ 0 ∧ d ≤ e.ringFill r) →
      (mode = 0 → exec (.doorbellSnoop r count) s = .next (s.withEng (e.setRing r (taken e.now)))) ∧
      (mode = 1 → exec (.hatDbwin r count) s = .next (s.withEng (e.setRing r (taken e.now)))) ∧
      (mode = 0 → period ≠ 0 → s.Settled →
        ∃ t, exec (.doorbellPoll [(r, count)]) s = .next t ∧ t.eng.now = T ∧ t.eng.ring r = taken T ∧
          (∀ k, k ≠ r → t.eng.ring k = e.ring k) ∧ t.eng.hat = { e.hat with rings := t.eng.hat.rings, nextPoll := T + 1 } ∧
          s.Only [0, 1, 12, 17] [] t)) ∧
    (e.fv F.HAT_RING_SEL_RING = r → data.getLsbD 3 = true → e.ringEn r = false → e.isCq r = false →
      (e.putReg 0x1054 r (data &&& 0x3FFF7FF7)).ringMayEnable data.toNat = true →
      let late := decide (g.overAt = some e.now)
      ∃ t, exec (.ringCfgWrite data) s = .next t ∧ t.eng.reg 0x1054 r = (data &&& 0x3FFF7FF7) ||| (if late then 0 else 8) ∧
        t.eng.ring r = { ovf := g.ovf, lostFlag := g.lostFlag, overAt := if late then g.overAt else none } ∧
        (∀ k, k ≠ r → t.eng.ring k = e.ring k) ∧ t.eng.hat = { e.hat with rings := t.eng.hat.rings } ∧
        (∀ i, t.eng.inst i = { e.inst i with
          quiet := (e.inst i).quiet && (late || !g.ovf.isEmpty || !(t.eng.ringInsts r).contains i) }) ∧
        t.eng.cmp = { e.cmp with insts := t.eng.cmp.insts } ∧ s.Only [1, 4] [0x1054] t) ∧
    (e.fv F.HAT_RING_SEL_RING = r → data = e.reg 0x1054 r &&& ~~~8 → e.ringEn r = true →
      ∃ t, exec (.ringCfgWrite data) s = .next t ∧ t.eng.reg 0x1054 r = data ∧ s.Only [] [0x1054] t ∧
        ∀ k, k < 65536 → k ≠ r → t.eng.reg 0x1054 k = e.reg 0x1054 k) ∧
    (e.ringKind r = 0 → g.head ≠ g.fetched →
      exec (.headAdvance r) s = .next (s.withEng { e.setRing r { g with head := g.fetched } with
        out := .pointerLine r g.fetched :: e.out }))

/-- Completion records (R79, R102 to R104, R112). A record goes to the completion ring of its submission ring: at its tail, with its
PHASE, and the pointer line is written; or, while that ring holds records over, is not enabled or has no free entry, to the end of those
that it holds over, and to the next place of the overflow area at HAT_OVF_BASE in Store, of 2^26 places (the model's places: assumption
log 70). No other ring changes. A drain of an overflow area, from every state whose counts are 32-bit, gives its ring as many records
as it has free entries, the oldest first, each with its place, its PHASE and the pointer line after it, and keeps the rest; the ring that it
frees of the blocked state ends the wait of R179 for the instances whose records go to it. A write of HAT_HELLO_SELECT without GO does
nothing; one while Hatch or a ring is enabled is WRITE_WHILE_ENABLED (R11, R121); any other echoes the nonce, and agrees the version named
(STATE 1), or leaves the agreed one with STATE 2 and REASON 2 in stage 1 (R572), 1 for a version that R122 does not list. -/
def Obligations.CompletionsAndHello : Prop :=
  ∀ (v : CmpRec) (c0 : Nat) (data : Word) (s : State), s.boot.absent = false →
    let e := s.eng
    let c := e.cqOf v.ring
    let g := e.ring c
    let e' := e.complete v
    let room := e.fb F.HAT_CTL_EN && e.ringEn c && decide (e.ringKind c = 1 ∧ e.ringFill c < e.ringDepth c)
    let next := (g.tail + 1) % 2 ^ 32
    let h := e.ring c0
    let opened := e.fb F.HAT_CTL_EN && e.ringEn c0 && decide (e.ringKind c0 = 1)
    let n := if opened then min h.ovf.length (e.ringDepth c0 - e.ringFill c0) else 0
    let pos := fun (k : Nat) => (h.tail + k) % 2 ^ 32
    let version := data.toNat % 2 ^ 16
    let go := data.getLsbD 31
    let busy := e.fb F.HAT_CTL_EN || (List.range 256).any e.ringEn
    let listed := [0x0200, 0x0201, 0x0202, 0x0300, 0x0301, 0x0302].contains version
    let agreed := decide (s.boot.stage ≠ 1) && listed
    let at_ := e.hat.overNext
    e' = { e with out := e'.out, hat := { e.hat with rings := e'.hat.rings, overNext := e'.hat.overNext, ovfArea := e'.hat.ovfArea } } ∧
    (∀ k, k ≠ c → e'.ring k = e.ring k) ∧
    (room = true → g.ovf = [] → e'.ring c = { g with tail := next } ∧ e'.hat.overNext = at_ ∧ e'.hat.ovfArea = e.hat.ovfArea ∧
      e'.out = .pointerLine c next :: .completion c g.tail (e.ringPhase c g.tail) v :: e.out) ∧
    (room = false ∨ g.ovf ≠ [] → e'.ring c = { g with ovf := g.ovf ++ [v] } ∧ e'.hat.overNext = at_ + 1 ∧
      e'.hat.ovfArea = tput e.hat.ovfArea (at_ % 2 ^ 26) v ∧
      e'.out = .overflow (e.pairv 0x1064 + 64 * (at_ % 2 ^ 26)) v :: e.out) ∧
    (h.head < 2 ^ 32 → h.tail < 2 ^ 32 →
      ∃ t, exec (.overflowDrain c0) s = .next t ∧ t.eng.ring c0 = { h with ovf := h.ovf.drop n, tail := pos n } ∧
        t.eng.out = (List.range n).reverse.flatMap (fun k =>
          [.pointerLine c0 (pos (k + 1)), .completion c0 (pos k) (e.ringPhase c0 (pos k)) (h.ovf.getD k v)]) ++ e.out ∧
        (∀ k, k ≠ c0 → t.eng.ring k = e.ring k) ∧ t.eng.hat = { e.hat with rings := t.eng.hat.rings } ∧
        (∀ i, t.eng.inst i = { e.inst i with
          quiet := (e.inst i).quiet && !(decide (h.ovf ≠ [] ∧ n = h.ovf.length) && (e.ringInsts c0).contains i) }) ∧
        t.eng.cmp = { e.cmp with insts := t.eng.cmp.insts } ∧ s.Only [1, 4] [] t) ∧
    (go = false → exec (.helloGo data) s = .next s) ∧
    (go = true → busy = true →
      exec (.helloGo data) s = .next (s.withEng (e.raise { code := 0x0002, unit := 1, arg := 0x1018 }))) ∧
    (go = true → busy = false →
      ∃ t, exec (.helloGo data) s = .next t ∧ t.eng.hat = { e.hat with version := if agreed then some version else e.hat.version } ∧
        t.eng.fv F.HAT_HELLO_SELECT_VER = version ∧ t.eng.fv F.HAT_HELLO_ECHO_ECHO = e.fv F.HAT_HELLO_NONCE_NONCE ∧
        t.eng.fv F.HAT_HELLO_RESULT_STATE = (if agreed then 1 else 2) ∧
        t.eng.fv F.HAT_HELLO_RESULT_REASON = (if agreed then 0 else if s.boot.stage = 1 then 2 else 1) ∧
        t.eng.fv F.HAT_HELLO_RESULT_VER = (t.eng.hat.version.getD 0) % 2 ^ 16 ∧ s.Only [1] [0x1018, 0x1020, 0x1024] t)

/-- Orders, fetched and resolved at once (R96, R116 to R119, R142 to R147, R631). On a request of one sibling, ADMIT makes a HELD request QUEUED
and hands it to the Gate; RESUME gives a PAUSED sibling the state that it had; PREEMPT makes one that is ADMITTED, PREFILLING, DECODING or
SPECULATING PAUSED, and keeps its state; MODIFY sets the deadline; CANCEL ends it, with a FINAL record beside the ORDER record that answers
each. No other record of the Ledger changes; the record is the most recently used of the hot ones (R129), and of the power domains only its
bank's is used (R128, R565). The bundle of the tick sees the records as they were (R242). On a request of any number of siblings, PREEMPT and
MODIFY change every sibling in a state that lists them and no other record: MODIFY sets the deadline, the largest number of tokens, or both,
and with that number the pages reserved of those admitted, where the pages suffice; of one that has as many tokens already, DECODING, PAUSED
or SWAPPED with no step outstanding, here the only sibling, it is the end. Stated for an order whose stamp's tick is over and whose contenders
have all come (R116), a ring with room for the records, with no order waiting and mirroring off; for RESUME, a sibling with nothing in Cellar;
for ends, one with no work outstanding and no holdings. -/
def Obligations.OrdersTakeEffect : Prop :=
  ∀ (d : DescBits) (r stamp : Nat) (e1 : Eng) (q : LRec) (s : State), s.boot.absent = false →
    let e := s.eng
    let o := ordOf d
    let x := rqSlot o.rqid
    let op := recField d 0 7 0
    let c := e.cqOf r
    let g := e.ring c
    let rec_ := ordRec 0 r o.gen o.rqid o.userTag e.now
    let final : CmpRec := { status := 0x19, final := true, sib := q.sib, gen := q.gen, ring := q.ring, rqid := q.rqid, tag := q.userTag,
                            stamp := e.now, step := 0 }
    let ended := fun (status : Nat) (t : State) =>
      e.ringFill c + 1 < e.ringDepth c → g.tail < 2 ^ 32 → g.head < 2 ^ 32 →
        .completion c ((g.tail + 1) % 2 ^ 32) (e.ringPhase c ((g.tail + 1) % 2 ^ 32)) { final with status } ∈ t.eng.out
    let wroteIn := fun (t : State) => (∀ y, y ≠ x → t.eng.rc y = e.rc y) ∧ t.eng.now = e.now ∧
      .completion c g.tail (e.ringPhase c g.tail) rec_ ∈ t.eng.out ∧
      (x ∈ e.led.hot → t.eng.led.hot = x :: e.led.hot.filter (fun y => decide (y ≠ x))) ∧
      t.eng.stw = { e.stw with seen := some (e.seenNow.getD { tick := e.now, recs := e.led.recs, insts := e.cmp.insts }) } ∧
      ∀ k, k ≠ 1 + x % 4 → t.eng.dom k = e.dom k
    let wrote := fun (t : State) => wroteIn t ∧ t.eng.led = { e.led with recs := t.eng.led.recs, hot := t.eng.led.hot }
    let modified := fun (v : LRec) => { v with
      deadlineLast := if o.setDeadline then o.deadlineLast else v.deadlineLast
      maxNew := if o.setMaxNew then o.maxNew else v.maxNew
      pagesResv := if o.setMaxNew && decide (v.admitStamp ≠ 0) then tokenPages o.maxNew - v.pages.length else v.pagesResv }
    let listed := fun (a b : Nat) => (e.sibs x).filter (fun y => (e.rc y).any (fun v => decide (a ≤ v.state ∧ v.state ≤ b)))
    let total := fun (f : LRec → Nat) => (((listed 1 8).filterMap e.rc).map (fun v => if o.setMaxNew ∧ v.admitStamp ≠ 0 then f v else 0)).sum
    let pagesSuffice := total (fun v => tokenPages o.maxNew - v.pages.length - v.pagesResv) ≤
      e.pagesFree + total (fun v => v.pagesResv - (tokenPages o.maxNew - v.pages.length))
    let reserved := fun (t : State) => total (fun v => v.pagesResv) ≤ e.led.pagesReserved →
      t.eng.led.pagesReserved + total (fun v => v.pagesResv) = e.led.pagesReserved + total (fun v => tokenPages o.maxNew - v.pages.length)
    e.hat.orders = [] → e.hat.behind = [] → e.hat.heldRecs = [] → e.mirrorOn = false →
    r < 256 → e.fetch = some (r, stamp, e1) → stamp < e.now → e1.fetchedUpTo stamp = true → c ≠ r → g.ovf = [] → e.cmpFull c = false →
    e.ringEn c = true →
    rqPid o.rqid = e.ringPid r → e.fb F.KPR_PART_CTL_EN (e.ringPid r) = true → ordOk d = true →
    e.named o.rqid o.gen = some x → e.rc x = some q →
    ((e.sibs x).Nodup →
      (op = 5 → listed 3 6 ≠ [] →
        ∃ t, exec (.preempt d) s = .next t ∧
          (∀ y, t.eng.rc y = (e.rc y).map (fun v => if y ∈ listed 3 6 then { v with prior := v.state, state := 7 } else v)) ∧
          .completion c g.tail (e.ringPhase c g.tail) rec_ ∈ t.eng.out ∧ t.eng.led = { e.led with recs := t.eng.led.recs, hot := t.eng.led.hot } ∧
          t.eng.shv = { e.shv with balances := ((listed 3 6).filterMap e.rc).foldl (fun l v => sinsert l v.inst) e.shv.balances } ∧
          s.Only [1, 2, 5, 6, 15, 17] [] t) ∧
      (op = 4 → listed 1 8 ≠ [] → pagesSuffice → (o.setMaxNew = true → ∀ v ∈ (listed 1 8).filterMap e.rc, v.newCount < o.maxNew) →
        ∃ t, exec (.modify d) s = .next t ∧
          (∀ y, t.eng.rc y = (e.rc y).map (fun v => if y ∈ listed 1 8 then modified v else v)) ∧
          .completion c g.tail (e.ringPhase c g.tail) rec_ ∈ t.eng.out ∧ reserved t ∧
          t.eng.led = { e.led with recs := t.eng.led.recs, hot := t.eng.led.hot, pagesReserved := t.eng.led.pagesReserved } ∧
          s.Only [1, 2, 5, 15, 17] [] t)) ∧
    (q.nextSib = 0xFFFFFF →
    (op = 2 → q.state = 2 →
      ∃ t, exec (.admitOrder d) s = .next t ∧ t.eng.rc x = some { q with state := 1 } ∧ wrote t ∧
        t.eng.gat = (e.queueFresh e1.hat.orderSeq x).gat ∧ s.Only [1, 2, 3, 5, 15, 17] [] t) ∧
    (op = 3 → q.state = 7 → e.away x = 0 →
      ∃ t, exec (.resume d) s = .next t ∧ t.eng.rc x = some { q with state := q.prior } ∧ wrote t ∧
        (∀ i, t.eng.inst i = if i = q.inst then { e.inst i with quiet := false } else e.inst i) ∧ s.Only [1, 2, 4, 5, 15, 17] [] t) ∧
    (op = 4 → o.setDeadline = true → o.setMaxNew = false → q.live = true →
      ∃ t, exec (.modify d) s = .next t ∧ t.eng.rc x = some { q with deadlineLast := o.deadlineLast } ∧ wrote t ∧
        s.Only [1, 2, 5, 15, 17] [] t) ∧
    (op = 5 → 3 ≤ q.state → q.state ≤ 6 →
      ∃ t, exec (.preempt d) s = .next t ∧ t.eng.rc x = some { q with prior := q.state, state := 7 } ∧ wrote t ∧
        t.eng.shv = { e.shv with balances := sinsert e.shv.balances q.inst } ∧ s.Only [1, 2, 5, 6, 15, 17] [] t) ∧
    ((e.inst q.inst).openSlots = [] → q.draftV = false → e.smap x = none → q.ring = r →
      (op = 6 → q.live = true →
        ∃ t, exec (.cancel d) s = .next t ∧ t.eng.rc x = some { q with state := 10, draftN := 0 } ∧ wrote t ∧ ended 0x19 t ∧
          s.Only [1, 2, 3, 5, 15, 17] [] t) ∧
      (op = 4 → o.setMaxNew = true → o.maxNew ≤ q.newCount → q.state = 5 ∨ q.state = 7 ∨ q.state = 8 → pagesSuffice →
        ∃ t, exec (.modify d) s = .next t ∧ t.eng.rc x = some { modified q with state := 9, draftN := 0 } ∧ wroteIn t ∧ reserved t ∧ ended 9 t ∧
          t.eng.led = { e.led with recs := t.eng.led.recs, hot := t.eng.led.hot, pagesReserved := t.eng.led.pagesReserved } ∧
          s.Only [1, 2, 3, 5, 15, 17] [] t)))

/-! ### Bins -/

/-- Bins while it serves (R417 to R431). A push that R418 accepts, with no push of its level held, takes the next SEQ of its level, the
partition of its instance and a bank place, and goes to the end of its level; what the array must report goes out. A TAKE waits until the
tick's end (R424). There, with no hint among the entries, a TAKE that waits alone is given the first entry of the lowest level that its
cluster may take, which leaves the lists and is held by the core, or it waits on. A DONE closes the entry held, and Keeper counts the core's
time for its partition. The end of the tick is the step on an empty queue whose cycle carries the Tally to the next (assumption logs 63 and 64), stated here for an
engine with nothing else to do in it. The bank is the lowest free one by the model's choice (assumption log 26). -/
def Obligations.EntriesArePushedAndTaken : Prop :=
  ∀ (entry : BitVec 256) (core k : Nat) (w : TakeW) (s : State), s.boot.absent = false → s.eng.binOn = true → s.eng.bin.stalled = [] →
    let p := pushOf entry
    let seq := tgetD s.eng.bin.seqs p.level 0
    let b : BinEnt := { p with pid := (s.eng.inst p.inst).owner, seq, enq := s.eng.now % 2 ^ 32, bank := some k }
    let parts := [0, 11, 12, 17]
    let offs := [0xB06C, 0xB080, 0xB084]
    (s.eng.pushOk entry = true → s.eng.spilled p.level = 0 → s.eng.bankFree = some k →
      ∃ t, exec (.binPush entry) s = .next t ∧
        t.eng.bin = { s.eng.bin with
          entries := binInsert b s.eng.bin.entries, seqs := tsetD s.eng.bin.seqs p.level ((seq + 1) % 2 ^ 32) 0 } ∧
        .array (.binEntries p.inst p.epoch (t.eng.binCount p.inst p.epoch)) ∈ t.eng.out ∧ t.eng.now = s.eng.now ∧ s.Only parts offs t) ∧
    (core < 128 → tget s.eng.bin.held core = none → s.eng.bin.waiting = [] →
      ∃ t, exec (.take core) s = .next t ∧ t.eng.out = s.eng.out ∧
        t.eng.bin = { s.eng.bin with waiting := [{ core, since := s.eng.now, lastBeat := s.eng.now }] } ∧ s.Only [11] [] t) ∧
    (s.pending = [] → s.eng.Rested → s.eng.bin.closes = [] → s.eng.bin.servedAt ≠ some s.eng.now → accTick ≤ s.eng.tal.acc + accGain s.eng.raf.rate →
      s.eng.bin.waiting = [w] → (∀ b ∈ s.eng.bin.entries, b.affV = false) →
      ∃ t, step s = .next t ∧ s.Only (14 :: parts) offs t ∧
        t.eng.now * accTick + t.eng.tal.acc = s.eng.now * accTick + s.eng.tal.acc + accGain s.eng.raf.rate ∧
        match s.eng.bin.entries.find? (s.eng.mayTake w.core) with
        | some x => t.eng.bin = { s.eng.bin with
            entries := dropFirst x s.eng.bin.entries, held := tput s.eng.bin.held w.core (x, s.eng.now), waiting := []
            servedAt := some s.eng.now, fullLevels := t.eng.levelsFull } ∧
            .coreAnswer w.core 0 (some x) ∈ t.eng.out ∧ .array (.binEntries x.inst x.epoch (t.eng.binCount x.inst x.epoch)) ∈ t.eng.out
        | none => t.eng.bin = { s.eng.bin with servedAt := some s.eng.now, fullLevels := t.eng.levelsFull } ∧ t.eng.out = s.eng.out) ∧
    (∀ h, tget s.eng.bin.held core = some h → s.eng.fb F.KPR_CTL_EN = true →
      ∃ t, exec (.done core) s = .next t ∧ t.eng.bin = { s.eng.bin with held := tdel s.eng.bin.held core } ∧
        (t.eng.part h.1.pid).coreNs = (s.eng.part h.1.pid).coreNs + (s.eng.now - h.2) ∧
        (∀ q, q ≠ h.1.pid → t.eng.part q = s.eng.part q) ∧ s.Only [11, 12] offs t)

/-- TAKEs that wait (R425 to R430): a HOLD beat is answered while the TAKE waits and is counted from the last one; one that has waited
BIN_TAKE_WAIT is answered NO_WORK; one whose unit, though enabled, does not serve is answered NO_DISPATCHER 10,000 t after its last beat, and so is one that waits
at its core's port while the engine is absent, by the controller's counter; with BIN_CTL.EN clear a TAKE is answered NO_DISPATCHER at once. An
entry whose hint has expired is released to every cluster (R421, R424), and an entry in Store moves to a free bank while there is room
(R433). Where the Tally goes on, a state whose present tick is over. The first beat at 200 t and the lowest free bank are the model's choices (assumption log 26). -/
def Obligations.TakesWaitAndEntriesMove : Prop :=
  ∀ (core k : Nat) (w : TakeW) (b : BinEnt) (s : State),
    let e := s.eng
    let rest := e.bin.waiting.filter (fun x => decide (x.core ≠ core))
    let n := e.av F.BIN_TAKE_WAIT_WAIT
    let parts := [0, 11, 12, 17]
    (s.boot.absent = false → s.Settled → e.bin.waiting.find? (fun x => decide (x.core = core)) = some w →
      (e.binOn = true →
        ∃ t, exec (.holdBeat core) s = .next t ∧
          t.eng.now = max e.now (if w.lastBeat = w.since then w.since + 200 else w.lastBeat + 4000) ∧
          t.eng.bin = { e.bin with
            waiting := e.bin.waiting.map (fun x => if x.core = core then { x with lastBeat := t.eng.now } else x) } ∧
          t.eng.out = .coreAnswer core 3 none :: e.out ∧ s.Only parts [] t) ∧
      (e.binOn = true → n ≠ 0 →
        ∃ t, exec (.takeTimeout core) s = .next t ∧ t.eng.now = max e.now (w.since + n) ∧ t.eng.bin = { e.bin with waiting := rest } ∧
          .coreAnswer core 1 none ∈ t.eng.out ∧ s.Only parts [0xB06C] t) ∧
      (e.fb F.BIN_CTL_EN = true → e.binOn = false →
        ∃ t, exec (.noDispatcher core) s = .next t ∧ t.eng.now = max e.now (w.lastBeat + 10000) ∧
          t.eng.bin = { e.bin with waiting := rest } ∧ t.eng.out = .coreAnswer core 2 none :: e.out ∧ s.Only parts [] t)) ∧
    (s.boot.absent = true → core < 128 →
      exec (.take core) s = .next { s with boot := { s.boot with
        takes := s.boot.takes.filter (fun x => decide (x.core ≠ core)) ++ [{ core, since := s.boot.cmc, lastBeat := s.boot.cmc }] } }) ∧
    (s.boot.absent = true → s.boot.takes.find? (fun x => decide (x.core = core)) = some w →
      exec (.noDispatcher core) s = .next { s with
        boot := { s.boot with
          cmc := max s.boot.cmc (w.lastBeat + 10000), takes := s.boot.takes.filter (fun x => decide (x.core ≠ core)) }
        eng := { e with out := .coreAnswer core 2 none :: e.out } }) ∧
    (s.boot.absent = false → e.fb F.BIN_CTL_EN = false → core < 128 →
      exec (.take core) s = .next (s.withEng { e with out := .coreAnswer core 2 none :: e.out })) ∧
    (s.boot.absent = false → e.binOn = true → e.bin.entries = [b] →
      (b.affV = true → b.released = false → b.enq < 2 ^ 32 → e.now - b.enq < 2 ^ 24 → b.enq ≤ e.now →
        e.now - b.enq ≤ e.av F.BIN_AFF_WAIT_WAIT → s.Settled →
        ∃ t, exec .affRelease s = .next t ∧ t.eng.now = b.enq + e.av F.BIN_AFF_WAIT_WAIT ∧
          t.eng.bin = { e.bin with entries := [{ b with released := true }] } ∧ s.Only parts [0xB06C] t) ∧
      (b.bank = none → e.av F.BIN_REFILL_LOW ≤ e.bankPlaces → e.bankFree = some k →
        ∃ t, exec .refill s = .next t ∧ t.eng.bin = { e.bin with entries := [{ b with bank := some k }] } ∧
          s.Only [11] [0xB06C, 0xB08C] t))

/-! ### Reset, bring-up and power domains -/

/-- A reset source holds the whole engine in reset and is the cause that R558 reads (R555 to R559); DRIVER takes the KEY of R561, and
the sources of R557 are numbered 1 to 5. The release gives the reset state: OFFLINE in stage 1, every register at its reset word, the Tally
at the management controller's counter (R556), and the domains that R565 names ON or in RETAIN. The cores' TAKEs that wait are kept at
their ports, and the release, with BIN_CTL.EN clear, answers them NO_DISPATCHER (R429). Store stands (R558): the words that the debug port
wrote there, and the tables as the engine left them. What has been sent and the counter of the free values stand: they are the model's own
(assumption logs 1 and 2). -/
def Obligations.EngineResets : Prop :=
  ∀ (data : Word) (word : DWord) (s : State),
    let held := fun (k : Nat) => ({ s with
      boot := { s.boot with absent := true, cause := k, cmc := s.cmcNow, cmcAcc := 0, takes := s.portTakes }
      eng := { Eng.reset 0 with
        out := s.eng.out, free := s.eng.free, dbg := { mem := s.eng.dbg.mem.filter (fun p => decide (p.1 / 2 ^ 40 = 10)) } }
      old := if s.boot.absent then s.old else { s.eng with out := [] } :: s.old } : State)
    exec .powerOn s = .next (held 1) ∧ exec .chip s = .next (held 2) ∧
    (s.boot.absent = false → data.toNat % 2 ^ 20 = 0xD54A → exec (.driverReset data) s = .next (held 3)) ∧
    (s.boot.absent = false → exec .clock s = .next (held 4)) ∧
    (s.boot.absent = false → s.eng.dbg.isOpen = true → s.eng.dbg.cmdAt ≠ some s.eng.now → word.toNat % 2 ^ 16 = 0xD54A →
      exec (.dbgReset word) s = .next (held 5)) ∧
    ∀ k, ∃ t, exec .resetRelease (held k) = .next t ∧ t.boot.absent = false ∧ t.boot.Good ∧ t.boot.stage = 1 ∧ t.boot.cause = k ∧
      t.eng.now = s.cmcNow ∧ (∀ off sel, t.eng.reg off sel = rstWord off) ∧ t.eng.led.recs = [] ∧ t.eng.cmp.insts = [] ∧
      t.eng.hat = ({} : Hat) ∧ (∀ u, t.eng.unitHalted u = false) ∧
      (∀ d, (t.eng.dom d).st = if d = 0 ∨ d = 96 ∨ d = 97 then 2 else if d = 7 then 3 else 0) ∧
      t.boot.takes = [] ∧ t.eng.out = (s.portTakes.map (fun w => Out.coreAnswer w.core 2 none)).reverse ++ s.eng.out ∧
      t.pending = s.pending ∧ t.eng.free = s.eng.free ∧ t.old = (held k).old ∧ t.eng.dbg = (held k).eng.dbg

/-- GLB_RESET (R560, R561): a KEY other than that of R561 changes nothing and raises RESET_KEY_BAD with it; a unit reset of a unit whose
EN is set changes nothing and raises WRITE_WHILE_ENABLED; one of a unit whose EN is clear clears it, and returns a halted unit to service
(R584). Registers outside the unit's window stay, and so do the fields that software configures; the Composer's is stated where no instance
is listed. The RSU's service and jump-ahead return to service, and the draws still to be made are asked for again (R415, R577). The overflow
area, which lies in Store, stands (R112); the array hears that Bins holds nothing (R437); what the debug port wrote in the unit's SRAMs is
cleared, and in no other memory. R560 says that a unit's SRAMs and queues are cleared and what stands: what that is, unit by unit, is the
model's reading (assumption log 49). -/
def Obligations.UnitResets : Prop :=
  ∀ (data : Word) (s : State), s.boot.absent = false →
    let key := data.toNat % 2 ^ 16
    let u := data.toNat / 2 ^ 16 % 16
    (key ≠ 0xD54A → exec (.resetKeyBad data) s = .next (s.withEng (s.eng.raise { code := 0x0004, unit := 15, arg := key }))) ∧
    (key = 0xD54A → 1 ≤ u → u ≤ 12 → (s.eng.reg (4096 * u) 0).getLsbD 0 = true →
      exec (.unitReset data) s = .next (s.withEng (s.eng.raise { code := 0x0002, unit := 15, arg := 0xC }))) ∧
    (key = 0xD54A → 1 ≤ u → u ≤ 12 → (s.eng.reg (4096 * u) 0).getLsbD 0 = false → u ≠ 4 ∨ s.eng.cmp.insts = [] →
      ∃ t, exec (.unitReset data) s = .next t ∧ t.eng.unitHalted u = false ∧ t.boot = s.boot ∧ t.pending = s.pending ∧
        (∀ off sel, sel < 65536 → t.eng.reg off sel = if unitReg u off then rstWord off else s.eng.reg off sel) ∧
        (u = 1 → t.eng.hat = {
          version := s.eng.hat.version, overNext := s.eng.hat.overNext, ovfArea := s.eng.hat.ovfArea, rings := t.eng.hat.rings } ∧
          ∀ r, t.eng.ring r = { ovf := (s.eng.ring r).ovf }) ∧ (u = 2 → t.eng.led.recs = []) ∧
        (u = 3 → t.eng.gat = { est := s.eng.gat.est }) ∧ (u = 5 → t.eng.stw = {}) ∧
        (u = 6 → t.eng.shv = { s.eng.shv with
          ops := [], frames := [], recalls := [], recallDue := false, balances := [], retries := [], late := [] }) ∧ (u = 8 → t.eng.smp = { s.eng.smp with slots := [] }) ∧
        (u = 10 → t.eng.rsu = { bad := s.eng.rsu.bad, queue := t.eng.rsu.queue }) ∧
        (u = 11 → t.eng.bin = { retired := s.eng.bin.retired } ∧
          ∀ b ∈ s.eng.bin.entries, .array (.binEntries b.inst b.epoch 0) ∈ t.eng.out) ∧
        (∀ k, tget t.eng.dbg.mem k = if spaceUnit (k / 2 ^ 40) = some u then none else tget s.eng.dbg.mem k) ∧ (u = 12 → t.eng.kpr = {}) ∧
        (u ≠ 1 → t.eng.hat = s.eng.hat) ∧ (u ≠ 2 → t.eng.led = s.eng.led) ∧ (u ≠ 3 → t.eng.gat = s.eng.gat) ∧ (u ≠ 5 → t.eng.stw = s.eng.stw) ∧
        (u ≠ 7 → t.eng.pan = s.eng.pan) ∧ (u ≠ 8 → t.eng.smp = s.eng.smp) ∧ (u ≠ 9 → t.eng.siv = s.eng.siv) ∧
        (u ≠ 10 → t.eng.rsu = s.eng.rsu) ∧ (u ≠ 11 → t.eng.bin = s.eng.bin) ∧ t.eng.raf = s.eng.raf ∧ t.eng.now = s.eng.now)

/-- The configuration image and bring-up (R570 to R573): GO in stage 1 starts a load; its end stores the RESULT, and RESULT 1 alone brings
stage 2 and ends OFFLINE; GO of GLB_INIT in stage 2 clears the areas of R573, whose end brings stage 3 with the directory and the stacks of
the Sieve empty and nothing of the debug port's left in them; LOCK in stage 3 brings stage 4. Each in another stage changes nothing and
raises BRINGUP_ORDER with its offset and the stage. The management controller copies the Tally of a LOCKED engine (R555): that the copies
fall at multiples of 10,000 is the model's choice of their phase, and so is that they go on from the Tally as it is after a jump back
(assumption log 47). What time brings is stated where the present tick has nothing left to do. -/
def Obligations.BringUpSequence : Prop :=
  ∀ (data : Word) (image : List (BitVec 8)) (readOk cxl : Bool) (straps : Nat) (s : State), s.boot.absent = false →
    let order := fun (off : Nat) => s.withEng (s.eng.raise { code := 0x0005, unit := 15, arg := off + 2 ^ 32 * s.boot.stage })
    (data.getLsbD 31 = true → s.boot.imgBusy = false →
      exec (.imageLoad data) s = .next (if s.boot.stage = 1 then { s with boot := { s.boot with imgBusy := true } } else order 0x28)) ∧
    (s.boot.imgBusy = true →
      let r := imgCheck (natBytes image) readOk straps
      ∃ t, exec (.imageLoadEnd image readOk straps cxl) s = .next t ∧ t.boot.imgBusy = false ∧ t.boot.imgResult = r ∧
        t.boot.stage = (if r = 1 then 2 else s.boot.stage) ∧ t.boot.offline = (if r = 1 then false else s.boot.offline) ∧
        t.boot.absent = false ∧ t.boot.locked = s.boot.locked ∧ t.boot.initDone = s.boot.initDone ∧ t.pending = s.pending ∧
        (r ≠ 1 → t.eng = s.eng)) ∧
    (data.getLsbD 31 = true → s.boot.initBusy = false →
      if s.boot.stage = 2 then
        ∃ t, exec (.glbInit data) s = .next t ∧ t.boot = { s.boot with initBusy := true, initDue := t.boot.initDue } ∧
          s.eng.now ≤ t.boot.initDue ∧
          t.eng = { s.eng with
            out := s.eng.initAreas.reverse.map (fun x => .areaCleared x.1 x.2) ++ s.eng.out
            led := { s.eng.led with pageCount := (s.eng.reg 0x2018 0).toNat % 2 ^ 25 }
            dbg := { s.eng.dbg with clearing := s.eng.initAreas } }
      else exec (.glbInit data) s = .next (order 0x2C)) ∧
    (s.boot.initBusy = true → s.Settled →
      let u := s.eng.advance s.boot.initDue
      let l := s.eng.dbg.clearing
      ∃ t, exec .initDone s = .next t ∧ t.boot = { s.boot with initBusy := false, initDone := true, stage := 3 } ∧ t.pending = s.pending ∧
        (∀ k, tget t.eng.dbg.mem k = if k / 2 ^ 40 = 10 ∧ inAreas l (8 * (k % 2 ^ 40)) = true then none else tget s.eng.dbg.mem k) ∧
        t.eng = { u with
          siv := { s.eng.siv with dir := [], pdaStacks := [] }
          dbg := { u.dbg with clearing := [], cleared := u.dbg.cleared ++ l, mem := t.eng.dbg.mem } }) ∧
    (data.getLsbD 0 = true →
      exec (.glbLock data) s = .next (if s.boot.stage = 3 then { s with boot := { s.boot with locked := true, stage := 4 } } else order 8)) ∧
    (s.Settled → s.eng.tal.state = 2 → ∀ t,
      let next := if s.boot.nextCopy ≤ s.eng.now + 1 then s.boot.nextCopy else 0
      t % 10000 = 0 → s.eng.now ≤ t → next ≤ t → t < s.eng.now + 10000 ∨ t < next + 10000 →
      exec .tallyCopy s = .next { s with
        boot := { s.boot with cmc := t, cmcAt := t - s.eng.tal.jumped, nextCopy := t + 1 }
        eng := (s.eng.advance t).emit (.cmcTally t) })

/-- Power domains (R565 to R568): a WAKING domain is ON when its wake is complete, or goes back to OFF (to RETAIN, the Steward's) when
its unit's EN was cleared meanwhile; an auto-gated domain goes OFF when it has been idle for GLB_PWR_CTL.IDLE; a Ledger bank goes to
RETAIN after 10,000 t without an access. No other domain changes, and nothing but time passes; but that Keeper, whose domain comes ON, makes
the requests that waited for it (R505, R566), and Rafter starts its lanes. Stated for a state whose present tick is over. -/
def Obligations.DomainsChangeState : Prop :=
  ∀ (d b : Nat) (s : State), s.boot.absent = false → s.Settled →
    let x := s.eng.dom d
    let y := s.eng.dom (1 + b)
    let idle := (s.eng.reg 0x40 0).toNat / 2 ^ 8
    (x.st = 1 →
      ∃ t, exec (.domainWakeDone d) s = .next t ∧ (t.eng.dom d).st = (if x.drop then (if d = 7 then 3 else 0) else 2) ∧
        (∀ k, k ≠ d → t.eng.dom k = s.eng.dom k) ∧
        (d = 88 → x.drop = false → s.eng.fb F.KPR_CTL_EN = true → (∀ l ∈ t.eng.kpr.heldReqs, l.unmade = false) ∧
          t = s.withEng { s.eng.advance x.due with pd := t.eng.pd, kpr := t.eng.kpr }) ∧
        ((d = 88 → s.eng.fb F.KPR_CTL_EN = false) → (d = 95 → s.eng.fb F.RAF_CTL_EN = false) →
          t = s.withEng { s.eng.advance x.due with pd := t.eng.pd })) ∧
    ((10 ≤ d ∧ d ≤ 77) ∨ (82 ≤ d ∧ d ≤ 85) → s.eng.fb F.GLB_PWR_CTL_AUTO_GATE = true → x.st = 2 → s.eng.domBusy d = false →
      ∃ t, exec (.domainIdleGate d) s = .next t ∧ (t.eng.dom d).st = 0 ∧ (∀ k, k ≠ d → t.eng.dom k = s.eng.dom k) ∧
        t = s.withEng { s.eng.advance (x.used + idle) with pd := t.eng.pd }) ∧
    (b < 4 → y.st = 2 →
      ∃ t, exec (.ledgerBankRetain b) s = .next t ∧ (t.eng.dom (1 + b)).st = 3 ∧ (∀ k, k ≠ 1 + b → t.eng.dom k = s.eng.dom k) ∧
        t = s.withEng { s.eng.advance (y.used + 10000) with pd := t.eng.pd })

/-! ### Counters and the debug port -/

/-- A counter that selects a source adds what the source gives, modulo 2^64, while counting is not stopped, and a wrap sets its OVF; no
other counter changes. A write of CNT_SEL_n sets its counter to 0 (R602): SRC, the filters and their enables take the word written, and
OVF stays unless a 1 is written to it. CLEAR sets every counter to 0, and what arises later in its tick is not counted (R603); CNT_CTL takes
the fields written, but for EN before stage 4, which gives BRINGUP_ORDER (R572). At an armed freeze the Tally is that of CNT_FREEZE_AT, from a
state whose present tick is over; that a command carries the Tally there is the model's choice (assumption log 4), and so is the order of the
tick (assumption log 64). -/
def Obligations.CountersWrapAndClear : Prop :=
  ∀ (src amt n : Nat) (pid inst : Option Nat) (data : Word) (s : State), n < 64 → s.boot.absent = false →
    let e := s.eng
    let e' := e.count src amt pid inst
    let old := e.reg (0x10100 + 4 * n) 0
    let v := tgetD e.dbg.cnt n 0
    let stage := s.boot.stage
    (e.cntStopped e.now = false → e.dbg.clearAt ≠ some e.now → 0 < amt →
      if e.cntSelects n src pid inst then
        tgetD e'.dbg.cnt n 0 = (v + amt) % 2 ^ 64 ∧
          e'.reg (0x10100 + 4 * n) 0 = (if 2 ^ 64 ≤ v + amt then old ||| 0x80000000 else old)
      else tgetD e'.dbg.cnt n 0 = v ∧ e'.reg (0x10100 + 4 * n) 0 = old) ∧
    (e.cntStopped e.now = true ∨ e.dbg.clearAt = some e.now → e' = e) ∧
    (∃ t, exec (.cntSelWrite n data) s = .next t ∧ tgetD t.eng.dbg.cnt n 0 = 0 ∧
      (∀ k, k ≠ n → tget t.eng.dbg.cnt k = tget e.dbg.cnt k) ∧
      t.eng.reg (0x10100 + 4 * n) 0 = (data &&& 0x0FFFFFFF) ||| (old &&& ~~~data &&& 0x80000000) ∧
      t = s.withEng { e with regs := t.eng.regs, dbg := { e.dbg with cnt := t.eng.dbg.cnt } } ∧
      ∀ o i, i < 65536 → o ≠ 0x10100 + 4 * n ∨ i ≠ 0 → t.eng.reg o i = e.reg o i) ∧
    (data.getLsbD 31 = true →
      let x := if data.getLsbD 0 && !(e.reg 0x10000 0).getLsbD 0 && decide (stage < 4) then
          (e.putReg 0x10000 0 (data &&& 6)).raise { code := 0x0005, unit := 15, arg := 0x10000 + 2 ^ 32 * stage }
        else e.putReg 0x10000 0 (data &&& 7)
      exec (.clear data) s = .next (s.withEng { x with dbg := { x.dbg with cnt := [], clearAt := some e.now } })) ∧
    ((e.reg 0x10000 0).getLsbD 2 = true → s.Settled →
      exec .cntFreezeAt s = .next (s.withEng (e.advance ((e.reg 0x10008 0).toNat + 2 ^ 32 * (e.reg 0x1000C 0).toNat))))

/-- Every command of the debug port but OPEN answers LOCKED while the port is not open, and OPEN while DBG_CTL.PORT_EN is 0; nothing else
happens. PORT_EN is RWL (R608). -/
def Obligations.DebugPortLocked : Prop :=
  (∃ r n, regRow 0x11000 = some (r, n) ∧ r.rwl.getLsbD 0 = true) ∧
  ∀ (space addr : Nat) (data : DWord) (s : State), s.boot.absent = false →
    let locked := fun (op addr : Nat) => s.withEng { s.eng with
      dbg := { s.eng.dbg with capStatus := 5, capOp := op, capAddr := addr % 2 ^ 40, capData := 0, cmdAt := some s.eng.now } }
    (s.eng.dbg.isOpen = false →
      exec .dbgClose s = .next (locked 2 0) ∧ exec .haltEngine s = .next (locked 3 0) ∧ exec .haltSteward s = .next (locked 3 1) ∧
      exec .resumeEngine s = .next (locked 4 0) ∧ exec .resumeSteward s = .next (locked 4 1) ∧ exec .dbgStep s = .next (locked 5 0) ∧
      exec (.brkCfg addr) s = .next (locked 6 addr) ∧ exec (.brkVal addr data) s = .next (locked 7 addr) ∧
      exec (.dbgRead space addr) s = .next (locked 8 addr) ∧ exec (.dbgWrite space addr data) s = .next (locked 9 addr) ∧
      exec (.dbgWriteRaw space addr data) s = .next (locked 10 addr) ∧ exec (.dbgReset data) s = .next (locked 15 0)) ∧
    ((s.eng.reg 0x11000 0).getLsbD 0 = false → exec .dbgOpen s = .next (locked 1 0))

/-- OPEN with PORT_EN set opens the port, with PD98 ON, and raises DBG_OPENED when it was closed; with PORT_EN clear it answers LOCKED and
opens nothing (R608). CLOSE clears every breakpoint, resumes what is halted, each with DBG_RESUMED of its scope, and lets PD98 go OFF,
once it is ON if it is waking (R568, R609); a port that is not open answers LOCKED. What a halt of the engine has held back goes on in a
later tick (R613, R628; the marks that say so are the model's, assumption log 42). Every command in the tick of another is discarded with BUSY
(R607): that a command takes one tick is the model's choice (assumption log 42). OPEN is stated for a state whose present tick is over. -/
def Obligations.DebugPortOpensAndCloses : Prop :=
  ∀ (s : State), s.boot.absent = false →
    let e := s.eng
    let p := e.dom 98
    let now := some e.now
    let open_ := fun (e : Eng) => ({ e with dbg := { e.dbg with isOpen := true } } : Eng).raise { code := 0x00C0, unit := 15 }
    let engineOn := fun (e : Eng) => if e.dbg.engineHalted = false then e
      else ({ e with dbg := { e.dbg with engineHalted := false, resumed := some e.now, haltWas := some (e.now, e.stopped) } } : Eng).raise {
        code := 0x00C2, unit := 15 }
    let stwOn := fun (e : Eng) => if e.dbg.stwHalted = false then e
      else ({ e with dbg := { e.dbg with stwHalted := false, stepOne := false, stwWas := some (e.now, e.stwStopped) } } : Eng).raise {
        code := 0x00C2, unit := 15, arg := 1 }
    let busy := fun (op addr : Nat) => s.withEng { e with
      dbg := { e.dbg with capStatus := 1, capOp := op, capAddr := addr % 2 ^ 40, capData := 0, cmdAt := now } }
    (e.dbg.isOpen = true → e.dbg.cmdAt = now → ∀ (space addr : Nat) (data : DWord),
      exec .dbgClose s = .next (busy 2 0) ∧ exec .haltEngine s = .next (busy 3 0) ∧ exec .haltSteward s = .next (busy 3 1) ∧
      exec .resumeEngine s = .next (busy 4 0) ∧ exec .resumeSteward s = .next (busy 4 1) ∧ exec .dbgStep s = .next (busy 5 0) ∧
      exec (.brkCfg addr) s = .next (busy 6 addr) ∧ exec (.brkVal addr data) s = .next (busy 7 addr) ∧
      exec (.dbgRead space addr) s = .next (busy 8 addr) ∧ exec (.dbgWrite space addr data) s = .next (busy 9 addr) ∧
      exec (.dbgWriteRaw space addr data) s = .next (busy 10 addr) ∧ exec (.dbgReset data) s = .next (busy 15 0)) ∧
    (e.dbg.cmdAt = now → (e.reg 0x11000 0).getLsbD 0 = true → exec .dbgOpen s = .next (busy 1 0)) ∧
    (e.dbg.cmdAt ≠ now → s.Settled → ∃ t, exec .dbgOpen s = .next t ∧ s.Only [0, 1, 12, 15, 17] [] t ∧ t.eng.dbg.capOp = 1 ∧ t.eng.dbg.capAddr = 0 ∧
      t.eng.dbg.capData = 0 ∧
      (if (e.reg 0x11000 0).getLsbD 0 = true then
        let e1 := ({ e with dbg := { e.dbg with capStatus := 0, capOp := 1, capAddr := 0, capData := 0, cmdAt := now } } : Eng).needOn 98
        t = s.withEng (if e.dbg.isOpen then e1 else open_ e1) ∧ t.eng.dbg.isOpen = true ∧ t.eng.dbg.capStatus = 0 ∧
          (p.retired = false → p.st ≤ 3 → (t.eng.dom 98).st = 2 ∧
            t.eng.now = (if p.st = 2 ∨ (p.st ≠ 1 ∧ p.gated = some e.now) then e.now else if p.st = 1 then max e.now p.due else e.now + 1000)) ∧
          ∀ d, d ≠ 98 → t.eng.dom d = e.dom d
      else t.eng.dbg = { e.dbg with capStatus := 5, capOp := 1, capAddr := 0, capData := 0, cmdAt := now } ∧ t.eng.pd = e.pd ∧ t.eng.now = e.now)) ∧
    (e.dbg.cmdAt ≠ now → ∃ t, exec .dbgClose s = .next t ∧ s.Only [1, 15, 17] [] t ∧ t.eng.dbg.capOp = 2 ∧ t.eng.dbg.capAddr = 0 ∧ t.eng.dbg.capData = 0 ∧
      (if e.dbg.isOpen = true then
        let e1 := ({ e with dbg := { e.dbg with capStatus := 0, capOp := 2, capAddr := 0, capData := 0, cmdAt := now, brks := [] } } : Eng)
        let e2 := stwOn (engineOn e1)
        t = s.withEng { e2 with dbg := { e2.dbg with isOpen := false }, pd := t.eng.pd } ∧
          t.eng.dbg.isOpen = false ∧ t.eng.dbg.engineHalted = false ∧ t.eng.dbg.stwHalted = false ∧ t.eng.dbg.brks = [] ∧
          t.eng.dbg.capStatus = 0 ∧ t.eng.dom 98 = (if p.st = 1 then { p with drop := true } else { p with st := 0, gated := none }) ∧
          ∀ d, d ≠ 98 → t.eng.dom d = e.dom d
      else t.eng.dbg = { e.dbg with capStatus := 5, capOp := 2, capAddr := 0, capData := 0, cmdAt := now } ∧ t.eng.pd = e.pd))

/-- HALT and RESUME, of the engine and of the Steward, change the halt and raise DBG_HALTED or DBG_RESUMED with the scope, when the halt
changes; STEP lets one bundle of a halted Steward issue and answers NOT_HALTED otherwise (R609 to R611). The port acts after the engine's own
actions of the tick (R613): those of this tick go by the halt as it was, and what a halt held back goes on in a later tick (R628). That no event
is raised when the halt does not change is the model's choice, and the marks that keep the halt of the tick are the model's (assumption log 42).
Stated for the first command of its tick (R607). -/
def Obligations.DebugHalts : Prop :=
  ∀ (s : State), s.boot.absent = false → s.eng.dbg.isOpen = true → s.eng.dbg.cmdAt ≠ some s.eng.now →
    let e := s.eng
    let hw := some (e.now, e.stopped)
    let sw := some (e.now, e.stwStopped)
    let ok := fun (op addr : Nat) (d : Dbg) => { d with capStatus := 0, capOp := op, capAddr := addr, capData := 0, cmdAt := some e.now }
    let ev := fun (code scope : Nat) (d : Dbg) => s.withEng (({ e with dbg := d } : Eng).raise { code, unit := 15, arg := scope })
    exec .haltEngine s = .next (if e.dbg.engineHalted then s.withEng { e with dbg := ok 3 0 e.dbg }
      else ev 0x00C1 0 (ok 3 0 { e.dbg with engineHalted := true, haltWas := hw })) ∧
    exec .haltSteward s = .next (if e.dbg.stwHalted then s.withEng { e with dbg := ok 3 1 e.dbg }
      else ev 0x00C1 1 (ok 3 1 { e.dbg with stwHalted := true, stepOne := false, stwWas := sw })) ∧
    exec .resumeEngine s = .next (if e.dbg.engineHalted then ev 0x00C2 0 (ok 4 0 {
        e.dbg with engineHalted := false, resumed := some e.now, haltWas := hw })
      else s.withEng { e with dbg := ok 4 0 e.dbg }) ∧
    exec .resumeSteward s = .next (if e.dbg.stwHalted then ev 0x00C2 1 (ok 4 1 { e.dbg with stwHalted := false, stepOne := false, stwWas := sw })
      else s.withEng { e with dbg := ok 4 1 e.dbg }) ∧
    exec .dbgStep s = .next (if e.dbg.stwHalted then s.withEng { e with dbg := ok 5 0 { e.dbg with stepOne := true, stwWas := sw } }
      else s.withEng { e with dbg := { ok 5 0 e.dbg with capStatus := 3 } }) ∧
    ∀ t : State, (exec .haltEngine s = .next t ∨ exec .resumeEngine s = .next t → t.eng.stopped = e.stopped) ∧
      (exec .haltSteward s = .next t ∨ exec .resumeSteward s = .next t ∨ exec .dbgStep s = .next t → t.eng.stwStopped = e.stwStopped)

/-- Breakpoints (R612): BRK_CFG sets the type and actions of the breakpoint that ADDR names and BRK_VAL its value, and it is then to hit anew; a
TALLY breakpoint hits once when the Tally comes to its value: its HIT bit is set, DBG_BRK_HITS counts, and an action of bit 0 halts the engine,
whose own actions of the tick go by the halt as it was (R613); from a state whose present tick is over, with nothing left to do on the way. The
marks of a hit and of the halt of the tick are the model's (assumption log 42). -/
def Obligations.BreakpointsHit : Prop :=
  ∀ (addr k : Nat) (data : DWord) (s : State), s.boot.absent = false →
    let set := fun (op : Nat) (brks : Tab Brk) => s.withEng { s.eng with dbg := { s.eng.dbg with
      brks, capStatus := 0, capOp := op, capAddr := addr % 2 ^ 40, capData := 0, cmdAt := some s.eng.now } }
    let b := s.eng.brk (addr % 4)
    let k0 := s.eng.brk k
    (s.eng.dbg.isOpen = true → s.eng.dbg.cmdAt ≠ some s.eng.now →
      (∃ t, exec (.brkCfg addr) s = .next t ∧
        t.eng.brk (addr % 4) = { b with typ := addr / 4 % 8, acts := addr / 32 % 16, hitAt := none, was := s.eng.slotState (b.val % 2 ^ 24) } ∧
        (∀ j, j ≠ addr % 4 → t.eng.brk j = s.eng.brk j) ∧ t = set 6 t.eng.dbg.brks) ∧
      ∃ t, exec (.brkVal addr data) s = .next t ∧
        t.eng.brk (addr % 4) = { b with val := data.toNat, hitAt := none, was := s.eng.slotState (data.toNat % 2 ^ 24) } ∧
        (∀ j, j ≠ addr % 4 → t.eng.brk j = s.eng.brk j) ∧ t = set 7 t.eng.dbg.brks) ∧
    (k < 4 → s.eng.tickLeft = s.eng → s.eng.nextStop k0.val = none → k0.typ = 1 → k0.acts ≤ 1 → s.eng.now ≤ k0.val → k0.hitAt ≠ some k0.val →
      ∃ t, exec (.breakpointHit k) s = .next t ∧ t.eng.now = k0.val ∧
        (t.eng.reg 0x11004 0).getLsbD (4 + k) = true ∧
        (t.eng.reg 0x11008 0).toNat = min ((s.eng.reg 0x11008 0).toNat + 1) (2 ^ 32 - 1) ∧
        t.eng.dbg.engineHalted = (s.eng.dbg.engineHalted || decide (k0.acts = 1)) ∧
        (s.eng.dbg.haltWas.all (fun w => decide (w.1 < s.eng.now)) = true → t.eng.stopped = s.eng.dbg.engineHalted) ∧
        t.eng.brk k = { k0 with hitAt := some k0.val } ∧ (∀ j, j ≠ k → t.eng.brk j = s.eng.brk j) ∧ t.eng.led = s.eng.led ∧ t.eng.cmp = s.eng.cmp ∧ t.eng.stw = s.eng.stw ∧ t.boot = s.boot)

/-- READ, WRITE and WRITE_RAW (R614, R615), of an array memory while the engine is halted and every word's check bits agree: a word that
WRITE has set is read back; one bit changed by WRITE_RAW is corrected in the value read, and in the mask cache, which has parity, it
gives UE; two bits changed give UE with DATA 0 but in the mask cache, where the changed word is read. The words of the mask cache's pages are
read and written as the pages hold them. A space that is not listed answers BAD_SPACE, an address beyond its space BAD_ADDR, a WRITE while
the engine runs NOT_HALTED; a READ of space 9 gives the register's word as the bus reads it, and a WRITE there acts as the host's; a READ of a
word of Store that the port has not written gives what the tables there hold, and one of an SRAM that a reset has cleared and whose unit has not
worked since gives 0 (R558, R560). (The
model's memories of the port: assumption logs 5, 42 and 68.) A command is stated for the first of its tick, and the next for a later tick (R607). -/
def Obligations.DebugWords : Prop :=
  ∀ (space addr i j : Nat) (data : DWord) (s : State), s.boot.absent = false → s.eng.dbg.isOpen = true →
    s.eng.dbg.cmdAt ≠ some s.eng.now →
    let later := fun (x y : State) => y.boot = x.boot ∧ y.old = x.old ∧ y.eng = { x.eng with now := y.eng.now } ∧ x.eng.now < y.eng.now
    let cap := fun (op status : Nat) (w : DWord) => s.withEng { s.eng with
      dbg := { s.eng.dbg with capStatus := status, capOp := op, capAddr := addr % 2 ^ 40, capData := w.toNat, cmdAt := some s.eng.now } }
    let arrays := [0, 1, 2, 3, 4, 5, 8, 10]
    (10 < space → exec (.dbgRead space addr) s = .next (cap 8 2 0) ∧ exec (.dbgWrite space addr data) s = .next (cap 9 2 0) ∧
      exec (.dbgWriteRaw space addr data) s = .next (cap 10 2 0)) ∧
    (∀ n, spaceSize space = some n → n ≤ addr →
      exec (.dbgRead space addr) s = .next (cap 8 4 0) ∧ exec (.dbgWrite space addr data) s = .next (cap 9 4 0)) ∧
    (addr < 0x20000 → addr % 4 = 0 →
      exec (.dbgRead 9 addr) s = .next (cap 8 0 ((wordAtOff s.boot s.eng addr).setWidth 64)) ∧
        exec (.dbgWrite 9 addr data) s = exec (.registerWrite addr 4 (data &&& 0xFFFFFFFF)) (cap 9 0 0)) ∧
    (addr < 2 ^ 37 → tget s.eng.dbg.mem (10 * 2 ^ 40 + addr) = none →
      ∃ t, exec (.dbgRead 10 addr) s = .next t ∧ t.eng.dbg.capStatus = 0 ∧ t.eng.dbg.capData = (s.eng.storeDword s.old addr).1.toNat) ∧
    (∀ n u, spaceUnit space = some u → u ∉ s.eng.dbg.worked → spaceSize space = some n → addr < n → s.eng.heldWord space addr = none →
      (∀ k, k / 2 ^ 40 = space → tget s.eng.dbg.mem k = none) → exec (.dbgRead space addr) s = .next (cap 8 0 0)) ∧
    (∀ p, s.eng.siv.cache = [p] → p.way = addr / 512 → addr < 2 ^ 20 → (∀ k x, tget s.eng.dbg.mem k ≠ some x) →
      let at_ := fun (b : Nat) => b / 2 ^ (64 * (addr % 512)) % 2 ^ 64
      exec (.dbgRead 3 addr) s = .next (cap 8 0 (BitVec.ofNat 64 (at_ p.bits))) ∧
      (s.eng.dbg.engineHalted = true → i < 64 →
        ∃ t q, exec (.dbgWrite 3 addr data) s = .next t ∧ t.eng.siv.cache = [q] ∧ q = { p with bits := q.bits } ∧
          q.bits = p.bits - at_ p.bits * 2 ^ (64 * (addr % 512)) + data.toNat * 2 ^ (64 * (addr % 512)) ∧ at_ q.bits = data.toNat ∧
          s.Only [9, 17] [] t ∧
          ∀ t', later t t' → ∃ v, exec (.dbgWriteRaw 3 addr (data ^^^ BitVec.twoPow 64 i)) t' = .next v ∧
            ∀ v', later v v' → ∃ u, exec (.dbgRead 3 addr) v' = .next u ∧ u.eng.dbg.capStatus = 6 ∧ u.eng.dbg.capData = 0)) ∧
    (∀ n, space ∈ arrays → spaceSize space = some n → addr < n →
      (s.eng.dbg.engineHalted = false → exec (.dbgWrite space addr data) s = .next (cap 9 3 0)) ∧
      (s.eng.dbg.engineHalted = true → (∀ k x, tget s.eng.dbg.mem k = some x → x.1 = x.2) →
        (space = 3 → ∀ p ∈ s.eng.siv.cache, p.way ≠ addr / 512) →
        ∃ t, exec (.dbgWrite space addr data) s = .next t ∧ t.eng.dbg.capStatus = 0 ∧
          t = s.withEng { s.eng with dbg := { s.eng.dbg with
            mem := t.eng.dbg.mem, capStatus := 0, capOp := 9, capAddr := addr % 2 ^ 40, capData := 0, cmdAt := some s.eng.now } } ∧
          ∀ t', later t t' →
          (∃ u, exec (.dbgRead space addr) t' = .next u ∧ u.eng.dbg.capStatus = 0 ∧ u.eng.dbg.capData = data.toNat) ∧
          (i < 64 → space ≠ 10 → ∃ v, exec (.dbgWriteRaw space addr (data ^^^ BitVec.twoPow 64 i)) t' = .next v ∧ v.eng.dbg.capStatus = 0 ∧
            ∀ v', later v v' → ∃ u, exec (.dbgRead space addr) v' = .next u ∧
            (if space = 3 then u.eng.dbg.capStatus = 6 ∧ u.eng.dbg.capData = 0
             else u.eng.dbg.capStatus = 0 ∧ u.eng.dbg.capData = data.toNat)) ∧
          (i < j → j < 64 → space ≠ 10 →
            let w := data ^^^ BitVec.twoPow 64 i ^^^ BitVec.twoPow 64 j
            ∃ v, exec (.dbgWriteRaw space addr w) t' = .next v ∧ ∀ v', later v v' → ∃ u, exec (.dbgRead space addr) v' = .next u ∧
              (if space = 3 then u.eng.dbg.capStatus = 0 ∧ u.eng.dbg.capData = w.toNat
               else u.eng.dbg.capStatus = 6 ∧ u.eng.dbg.capData = 0))))

/-! ### The Ledger and descriptors -/

/-- The Ledger's clockwork and records (R130 to R138, R148, R149, R519). At a multiple of 10,000 the check of waiting requests is called for,
and made at the end of its tick, after the Gate's decisions (R151): a QUEUED request whose DEADLINE_LAST has passed then ends in one FINAL
record (ORDER by the model's choice, assumption log 70); DEADLINE_FIRST passing marks the request and raises DEADLINE_FIRST_MISSED. A filled record is the
most recently used of the hot ones, and where every place is taken the least recently used one that is not pinned goes. A release
frees the slot, the pages and the charges, with the request's accounting record; that the prompt's pages are listed first, the bias list's
next and the sibling's last is the model's choice (assumption log 58). A peek shows the record, which is then the most recently
used if it is hot. At the end of a prefix match
(R268, R273, R274) sibling 0 holds the matched run of blocks, whose reservations go back, and starts behind it; without sharing it starts
at 0. Where the Tally goes on, stated for a state whose present tick is over; the end of the check's tick for an engine with nothing else to do
in it (assumption log 64). Stated for requests of one sibling with no holdings, without mirroring and with no partition on its way out; a match on an
instance of this chip alone, with no group in Cellar and a prompt that one leaf of the map covers. -/
def Obligations.RecordsOfTheLedger : Prop :=
  ∀ (slot : Nat) (data : Word) (r : LRec) (m : SMap) (s : State), s.boot.absent = false →
    let e := s.eng
    let T := e.dueAt e.nextQueued 10000
    let c := e.cqOf r.ring
    let g := e.ring c
    let v : CmpRec := { status := 0x18, final := true, order := true, sib := 0x3F, gen := r.gen, ring := r.ring, rqid := r.rqid
                        tag := r.userTag, stamp := e.now }
    let D := max e.now (r.deadlineFirst + 1)
    let ev : EvtRec := { code := 0x0020, unit := 2, pid := rqPid r.rqid, part := true, rqid := r.rqid, gen := r.gen
                         arg := r.deadlineFirst, inst := some r.inst, stamp := D }
    let others := fun (t : State) => ∀ y, y ≠ slot → t.eng.rc y = e.rc y
    let d := 1 + slot % 4
    let x := e.dom d
    let p := rqPid r.rqid
    let a := tgetD e.kpr.reqs slot {}
    let head := e.fv F.KPR_ACCT_HEAD_COUNT
    let n := data.toNat % 2 ^ 24
    let toks := tgetD e.led.prompts slot []
    let most := min (e.av F.SHV_PFX_CFG_MAX_BLOCKS) ((r.promptLen - 1) / 64)
    let run := if e.av F.SHV_PART_SHARE_SHARE_EN p = 1 then matchRun e r.mid (e.domain p) 0 0x1FFFFFF toks most else []
    let h := run.length
    (s.Settled →
      ∃ t, exec .queuedDeadlineCheck s = .next t ∧ t.eng.now = T ∧ t.eng.nextQueued = T + 1 ∧ t.eng.gat = { e.gat with queued := true } ∧
        s.Only [0, 3, 12, 17] [] t) ∧
    (e.rc slot = some r → rqSlot r.rqid = slot → r.nextSib = 0xFFFFFF → r.draftV = false → e.smap slot = none →
      (e.gat.queued = true → ({ e with gat := { e.gat with queued := false } } : Eng).Rested → e.binOn = false ∨ e.bin.servedAt = some e.now →
        r.state = 1 ∨ r.state = 2 → r.deadlineLast ≠ 0 → r.deadlineLast < e.now → e.led.recs.sorted = true →
        (∀ y q, y ≠ slot → e.rc y = some q → q.waitsGate = true → q.deadlineLast = 0 ∨ e.now ≤ q.deadlineLast) → e.mirrorOn = false →
        e.hat.heldRecs = [] → (∀ i, i < 16 → e.savedLocal i = false) → (∀ q, q < 64 → (e.part q).leaving = []) →
        e.blocked c = false → e.cmpFull c = false →
        let t := s.tickLeft
        t.eng.rc slot = some { r with state := 9, draftN := 0 } ∧ others t ∧ .completion c g.tail (e.ringPhase c g.tail) v ∈ t.eng.out ∧
          t.eng.gat = { e.gat with deferq := e.gat.deferq.filter (fun y => decide (y ≠ slot)), queued := false } ∧
          s.Only [1, 2, 3, 15, 17] [] t) ∧
      (s.Settled → r.deadlineFirst ≠ 0 → r.firstMissed = false → r.firstStamp = 0 → 3 ≤ r.state → r.state ≤ 8 →
        ∃ t, exec (.deadlineFirstPass slot) s = .next t ∧ t.eng.now = D ∧ t.eng.rc slot = some { r with firstMissed := true } ∧ others t ∧
          (∀ k, k < 256 → e.ringEn k = true → e.ringKind k = 2 → e.fb F.HAT_RING_CFG_FILTER_ALL k = true → e.fb F.HAT_CTL_EN = true →
            e.ringFill k < e.ringDepth k →
            .event k (e.ring k).tail (e.ringPhase k (e.ring k).tail) (e.ring k).lostFlag ev ∈ t.eng.out) ∧
          s.Only [0, 1, 2, 12, 15, 17] [] t) ∧
      (r.kind = false → r.live = false → (e.inst r.inst).openSlots = [] → e.hat.heldRecs = [] → e.mirrorOn = false →
        (∀ k ∈ e.shv.groups, k.2.kind = 1 ∨ k.2.owner ≠ slot) → (e.param slot).grammarEn = false → (e.instModel r.inst).unload = none →
        ∃ t, exec (.slotRelease slot) s = .next t ∧ t.eng.rc slot = none ∧ others t ∧
          t.eng.led = { e.led with
            recs := t.eng.led.recs, freed := e.led.freed ++ [slot], hot := e.led.hot.filter (fun y => decide (y ≠ slot))
            params := tdel e.led.params slot, prompts := tdel e.led.prompts slot, bias := tdel e.led.bias slot
            gent := tdel e.led.gent slot, pageFreed := e.led.pageFreed ++ (r.promptPages ++ r.biasPages ++ r.pages)
            pagesReserved := e.led.pagesReserved - r.pagesResv } ∧
          (∀ q, t.eng.ctxOf q = if q = p then e.ctxOf p - r.ctxCharge else e.ctxOf q) ∧
          (∀ q, t.eng.liveOf q = if q = p then e.liveOf p - 1 else e.liveOf q) ∧ t.eng.siv = { e.siv with
            pdaStacks := tdel e.siv.pdaStacks slot } ∧
          (e.fb F.KPR_ACCT_CFG_REQ_EN = true → e.fb F.KPR_CTL_EN = true → e.acctFull = false →
            .acctReq (head % e.acctSize) p r.gen r.rqid r.userTag
              [a.engineNs, a.tokens % 2 ^ 32, a.prefixPos % 2 ^ 32, a.storeB, a.cellarB, a.rafB, a.energy] ∈ t.eng.out ∧
            t.eng.fv F.KPR_ACCT_HEAD_COUNT = (head + 1) % 2 ^ 32) ∧
          (e.fb F.KPR_ACCT_CFG_REQ_EN = false → t.eng.out = e.out ∧ s.Only [2, 3, 9, 12] [] t) ∧
          s.Only [2, 3, 9, 12] [0xC26C, 0xC274] t)) ∧
    (e.rc slot = some r → slot ∉ e.led.hot →
      ∃ t, exec (.recordFill slot) s = .next t ∧ t.eng.led = { e.led with hot := t.eng.led.hot } ∧
        (e.led.hot.length < e.hotCap → t.eng.led.hot = slot :: e.led.hot) ∧
        (∀ l y m, e.led.hot = l ++ y :: m → e.led.hot.length = e.hotCap → y ∉ l → e.pinnedHot y = false →
          (∀ z ∈ m, e.pinnedHot z = true) → t.eng.led.hot = slot :: (l ++ m)) ∧
        (∀ k, k ≠ d → t.eng.dom k = e.dom k) ∧
        (e.fb F.LED_CTL_EN = false → t.eng.dom d = x) ∧
        (e.fb F.LED_CTL_EN = true → x.retired = false → t.eng.dom d =
          if (x.st = 0 ∨ x.st = 3) ∧ x.gated = some e.now then { x with st := 2, used := e.now }
          else if x.st = 0 ∨ x.st = 3 then { x with st := 1, due := e.now + (if x.st = 3 then 150 else 4000), used := e.now, drop := false }
          else { x with used := e.now, drop := false }) ∧
        s.Only [2, 15, 17] [] t) ∧
    (∃ t, exec (.ledgerPeek data) s = .next t ∧ t.eng.fv F.LED_PEEK_SLOT_SLOT = n ∧
      (e.rc n = none → ∀ k, k < 32 → t.eng.reg (0x2080 + 4 * k) = 0) ∧
      (∀ q, e.rc n = some q → n ∉ e.gat.deferq → ∀ k, k < 32 →
        t.eng.reg (0x2080 + 4 * k) = BitVec.ofNat 32 (({ q with qnext := 0xFFFFFF } : LRec).bits false / 2 ^ (32 * k))) ∧
      t.eng.led = { e.led with hot := if (e.rc n).isSome ∧ n ∈ e.led.hot then n :: e.led.hot.filter (fun y => decide (y ≠ n)) else e.led.hot } ∧
      (∀ j, j ≠ 1 + n % 4 ∨ e.rc n = none → t.eng.dom j = e.dom j) ∧
      s.Only [2, 15] (0x2030 :: (List.range 32).map (fun k => 0x2080 + 4 * k)) t) ∧
    (e.rc slot = some r → e.smap slot = some m → m.matching = true → r.nextSib = 0xFFFFFF → r.promptLen ≤ 32768 →
      (tget m.leaves 0).isSome = true → (e.inst r.inst).chips = [e.self] → e.mirrorOn = false → (∀ x ∈ e.shv.groups, x.2.tier ≠ 2) →
      ∃ t m', exec (.prefixMatch slot) s = .next t ∧ t.eng.rc slot = some { r with pos := 64 * h } ∧
        (∀ y, y ≠ slot → t.eng.rc y = e.rc y ∧ t.eng.smap y = e.smap y) ∧ t.eng.smap slot = some m' ∧
        m' = { m with matching := false, resv := m.resv - h, blocks := m'.blocks } ∧
        (∀ j q, run[j]? = some q → tget m'.blocks j = some q.2.group) ∧ (∀ j, h ≤ j → tget m'.blocks j = tget m.blocks j) ∧
        (∀ x, (∀ q ∈ run, q.2.group ≠ x) → t.eng.grp x = e.grp x) ∧
        t.eng.fv F.SHV_PFX_HITS_COUNT = (if h = 0 then e.fv F.SHV_PFX_HITS_COUNT
          else min (e.fv F.SHV_PFX_HITS_COUNT + h) (2 ^ 32 - 1)) ∧
        tgetD t.eng.kpr.reqs slot {} = { a with prefixPos := a.prefixPos + 64 * h } ∧
        (∀ k, k ≠ d → t.eng.dom k = e.dom k) ∧ s.Only [2, 6, 12, 15, 17] [0x60C0] t)

/-- Fetched descriptors that make requests and models (R96 to R99, R132 to R136, R143, R170, R173, R297). A NOP is answered. A SUBMIT in form takes
the next slot and generation and the history pages of its prompt, QUEUED and before the Gate, or HELD and answered so; that slots never used
are taken in ascending order is the model's choice (assumption log 58). A LOAD_MODEL that
R170 turns down is answered; one that it lets through makes the model LOADING on a free instance index, which this chip leads, and asks
for the weights. An UNLOAD_MODEL waits for the instance's requests; without any the model is PARKED, or stays where another instance of it is
here (assumption log 76), the index is free, writes held for it are accepted (R624), and it is answered. Where GRAMMAR_ID may not be named at
the fetch (R386), a SUBMIT answers ST_BAD_DESC; that this record is FINAL is the model's reading (assumption log 11). A load that another engine leads, with this
chip in its placement, makes a free instance index that of the part which this chip takes in it, and its end frees the index; where this chip
is outside the placement only that placement is noted, for the forwarding of R539, and forgotten at the end (that the commands bring all of
this is the model's choice, assumption log 13). Stated where no order waits and the completion ring has room; for SUBMIT, of one sibling, from slots and pages
never used; for loads, with no PARKED model, no leave needed, no semaphores and no shared prefix. -/
def Obligations.DescriptorsAreApplied : Prop :=
  ∀ (d : DescBits) (larder : Option LarderBits) (b : LarderBits) (prompt : List Word) (bias : List DWord) (segs marked : List (BitVec 128))
    (tilesOk : Bool) (chips : List Nat) (r stamp i st k : Nat) (e1 : Eng) (q : LoadPart) (s : State), s.boot.absent = false →
    let e := s.eng
    let op := recField d 0 7 0
    let tag := recField d 8 63 0
    let p := e.ringPid r
    let c := e.cqOf r
    let g := e.ring c
    let answered := fun (t : State) (v : CmpRec) => .completion c g.tail (e.ringPhase c g.tail) v ∈ t.eng.out
    let taken := fun (t : State) => (t.eng.ring r).fetched = ((e.ring r).fetched + 1) % 2 ^ 32
    let o := subOf d
    let x := e.led.fresh
    let gen := nextGen (tgetD e.led.gens x 0)
    let np := tokenPages o.promptLen
    let nb := cdiv (o.biasCount * 8) 4080
    let lm := e.av F.GAT_PART_LIVE_MAX_MAX p
    let rqid := p * 2 ^ 26 + x
    let new : LRec := {
      state := if o.hold then 2 else 1, hold := o.hold, sib := 0, gen, rqid, mid := o.mid, ring := r, nsib := 0, userTag := o.userTag
      deadlineFirst := o.deadlineFirst, deadlineLast := o.deadlineLast, promptLen := o.promptLen, maxNew := o.maxNew
      submitStamp := stamp, drawSlot := x, promptPages := (List.range np).map (fun j => e.led.pageFresh + j)
      biasPages := (List.range nb).map (fun j => e.led.pageFresh + np + j) }
    let l := loadOf d
    let fi := e.freeInst
    let share := chipShare (recField b 0x18 63 0) (sumBy (fun z => (segOf z).1) marked) chips.length
    let cmd : PanCmd := {
      kind := 3, srcTier := 2, dstTier := 1, pid := p, mid := l.mid, inst := fi, group := cdiv share 4096, srcAddr := recField b 0x20 63 0
      dstAddr := e.pairv 0x603C, pieces := cdiv (cdiv share 4096 * 4096) (2 ^ 21), id := e.pan.nextId, leaveOk := true }
    let m := e.model l.mid
    let otherModels := fun (t : State) => ∀ z, z ≠ l.mid → t.eng.model z = e.model z
    ((∀ j, j ∈ e.activeInsts → (e.inst j).lead = true ∨ (e.inst j).leadChip ≠ q.chip ∨ (e.inst j).leadInst ≠ q.inst) →
      q.chip ≠ e.self → e.self ∈ q.chips → e.activeInsts.length < 16 → larderOf larder l.mid = some b →
      ∃ t, exec (.loadModel d larder segs (.part q)) s = .next t ∧
        ∀ j, t.eng.inst j = if j = fi then
          { active := true, owner := q.owner, mid := l.mid, chips := q.chips, leadChip := q.chip, leadInst := q.inst, loading := true }
          else e.inst j) ∧
    (e.activeInsts.find? (fun j => !(e.inst j).lead && decide ((e.inst j).leadChip = q.chip ∧ (e.inst j).leadInst = q.inst)) = some i →
      e.shv.pfx = [] → e.kpr.sems = [] →
      ∃ t, exec (.unloadModel (.byLead q.chip q.inst)) s = .next t ∧ (∀ j, t.eng.inst j = if j = i then {} else e.inst j)) ∧
    (e.self ∉ q.chips → q.chip ≠ e.self → exec (.loadModel d larder segs (.part q)) s =
      .next (s.withEng { e with raf := { e.raf with plans := (q.chip, q.inst, q.chips) :: e.raf.plansBut q.chip q.inst } })) ∧
    (e.activeInsts.find? (fun j => !(e.inst j).lead && decide ((e.inst j).leadChip = q.chip ∧ (e.inst j).leadInst = q.inst)) = none →
      exec (.unloadModel (.byLead q.chip q.inst)) s =
        .next (s.withEng { e with raf := { e.raf with plans := e.raf.plansBut q.chip q.inst } })) ∧
    (e.hat.orders = [] → e.hat.behind = [] → e.fetch = some (r, stamp, e1) → c ≠ r → e.blocked c = false → e.cmpFull c = false →
    e.fb F.KPR_PART_CTL_EN p = true →
    (op = 0x3F → nopOk d = true →
      ∃ t, exec (.nop d) s = .next t ∧ taken t ∧ answered t (ordRec 0 r 0 0 tag e.now) ∧ s.Only [1] [] t) ∧
    (op = 1 → e.grammarOk o = false →
      ∃ t, exec (.submit d larder prompt bias) s = .next t ∧ taken t ∧ answered t (ordRec 0x2B r 0 0 o.userTag e.now true) ∧
        s.Only [1, 17] [] t) ∧
    (op = 1 → prompt.length = o.promptLen → bias.length = o.biasCount → o.nsib = 0 → e.grammarOk o = true →
      e.subCheck d (larderOf larder o.mid) prompt bias = true → (larderOf larder o.mid).isSome = true → e.followsOnly o.mid = false →
      lm = 0 ∨ e.liveOf p + 1 ≤ lm → e.fb F.LED_CTL_EN = true → x < e.ledCap → np + nb ≤ e.pagesFree →
      e.led.pageFresh + np + nb ≤ e.led.pageCount → e.mirrorOn = false → e.hat.heldRecs = [] →
      ∃ t, exec (.submit d larder prompt bias) s = .next t ∧ taken t ∧ t.eng.rc x = some new ∧ (∀ y, y ≠ x → t.eng.rc y = e.rc y) ∧
        t.eng.led = { e.led with
          fresh := x + 1, gens := tput e.led.gens x gen, pageFresh := e.led.pageFresh + np + nb
          params := tput e.led.params x (paramBlock d (e.pageAddr e.led.pageFresh) (if nb = 0 then 0 else e.pageAddr (e.led.pageFresh + np)))
          prompts := tput e.led.prompts x (prompt.map (fun (w : Word) => w.toNat))
          bias := if bias = [] then e.led.bias else tput e.led.bias x (bias.map (fun (w : DWord) => w.toNat))
          recs := t.eng.led.recs, hot := t.eng.led.hot } ∧
        t.eng.liveOf p = e.liveOf p + 1 ∧ (o.hold = false → t.eng.gat.fresh = (e.queueFresh e1.hat.orderSeq x).gat.fresh) ∧
        (o.hold = true → answered t (ordRec 2 r gen rqid o.userTag e.now)) ∧
        t.eng.siv = (if o.grammarEn then (e.setGram o.grammarId { e.gram o.grammarId with live := (e.gram o.grammarId).live + 1 }).siv
          else e.siv) ∧
        s.Only [1, 2, 3, 9, 15, 17] [] t) ∧
    (op = 0x10 → loadOk d = true → (l.pinned = true → bitOf l.placement e.self = true) →
      (e.loadDecide l p larder segs tilesOk = .done st k →
        ∃ t, exec (.loadModel d larder segs (.lead tilesOk)) s = .next t ∧ taken t ∧ answered t (loadRec st r tag e.now k 0) ∧ s.Only [1] [] t) ∧
      (e.loadDecide l p larder segs tilesOk = .go marked chips → larderOf larder l.mid = some b → (∀ z ∈ e.shv.models, z.2.state ≠ 3) →
        m.state = 0 → share ≠ 0 → e.av F.KPR_LEAVE_AMT_BULK = 0 → e.pan.background.length < 1024 →
        ∃ t, exec (.loadModel d larder segs (.lead tilesOk)) s = .next t ∧ taken t ∧
          .array (.checkConfigs l.mid (e.fv F.KPR_PART_TILES_GROUPS p)) ∈ t.eng.out ∧ (t.eng.model l.mid).state = 1 ∧ (t.eng.model l.mid).inst = fi ∧
          (t.eng.model l.mid).loadRing = r ∧ (t.eng.model l.mid).loadTag = tag ∧ (t.eng.model l.mid).chipBytes = share ∧
          (t.eng.model l.mid).weightsIn = false ∧ (t.eng.model l.mid).loadStatus = (if marked = [] then 0 else 0x21) ∧ otherModels t ∧
          (∀ j, t.eng.inst j = if j = fi then
            { active := true, lead := true, owner := p, mid := l.mid, chips, leadChip := e.self, leadInst := fi, ring := r, loading := true }
            else e.inst j) ∧
          t.eng.fv (F.TAL_EDGE_FLOOR_n_FLOOR.at 4 fi) = edgeFloor chips e.self ∧
          t.eng.fv F.GAT_INST_STEP_EST_EST fi = tgetD e.gat.est fi 0xEA60 % 2 ^ 24 ∧
          t.eng.pan = { e.pan with
            nextId := (e.pan.nextId + 1) % 65536, background := e.pan.background ++ [cmd], lastCmd := some cmd } ∧
          s.Only [1, 4, 6, 7, 12, 15, 17] [0x3084, 0xE0C0 + 4 * fi] t)) ∧
    (op = 0x11 → unloadOk d = true →
      e.activeInsts.find? (fun j => (e.inst j).lead && decide ((e.inst j).mid = l.mid)) = some i → e.instIn i = true → m.unload = none →
      (e.instRequests i = true →
        ∃ t, exec (.unloadModel (.fetched d)) s = .next t ∧ taken t ∧ t.eng.model l.mid = { m with unload := some (r, tag) } ∧ otherModels t ∧
          s.Only [1, 6] [] t) ∧
      (e.instRequests i = false → e.shv.pfx = [] → e.kpr.sems = [] →
        ∃ t, exec (.unloadModel (.fetched d)) s = .next t ∧ taken t ∧ otherModels t ∧ (∀ j, t.eng.inst j = if j = i then {} else e.inst j) ∧
          t.eng.model l.mid = (match e.activeInsts.find? (fun j => decide (j ≠ i ∧ (e.inst j).mid = l.mid)) with
            | some j => { m with inst := if m.inst = i then j else m.inst }
            | none => { m with
              state := 3, parkedAt := e.now, stream := false, streamInc := 0, marked := [], toMark := [], toInc := 0 }) ∧
          t.eng.fv F.GAT_INST_STEP_EST_EST i = tgetD e.gat.est i 0xEA60 % 2 ^ 24 ∧
          t.eng.held = e.held.filter (fun y => decide (y.1 ≠ i)) ∧
          t.eng.pend = e.pend ++ (e.held.filter (fun y => decide (y.1 = i))).map (fun y => (y.2.1, y.2.2, e.now)) ∧
          t.eng.act = e.act ∧ t.eng.cap = e.cap ∧
          answered t (loadRec 0 r tag e.now 0 0) ∧ s.Only [1, 4, 6, 12, 17, 18] [0x3084, 0xE0C0 + 4 * i] t)))

/-! ### Composition and programs -/

/-- Triggers, compositions and steps (R174 to R177, R204 to R207, R222, R228, R247, R248, R340). An idle instance with an eligible sibling
triggers, at the present Tally. The Composer starts the composition that is next: its views are captured, its window opens and the
Steward starts at the program's entry. At the cycle limit the composition ends with the slots appended so far and waits, and the overrun
is counted. STEP-DONE starts the timer of a lead's step that has rows. A step is emitted one edge lead before its edge: the packet is built in
its buffer and goes to the array, and the step is outstanding. The array's report that no token of the old epoch remains is kept while an
epoch changes. Stated with no lost slot to place and no halted unit, mirroring off; for emission, on this chip alone, with slots that are
bound and whose blocks lie in Shelf or Store (R262), and without the cyclic table, from a state whose present tick is over. EST is the 64-bit
context register cut to 32 bits: the model's choice (assumption log 75). -/
def Obligations.StepsAreComposed : Prop :=
  ∀ (i : Nat) (st : Step) (c : Comp) (s : State), s.boot.absent = false → i < 16 →
    let e := s.eng
    let x := e.inst i
    let w := e.stw
    let others := fun (t : State) => ∀ j, j ≠ i → t.eng.inst j = e.inst j
    let prog := e.progSlot i
    let lead := e.leadEff i (e.cv (F.TAL_EDGE_LEAD_n_LEAD.at 4 i))
    let edge := max (e.now + lead) c.notBefore
    let num := x.stepNo + 1
    let epoch := if x.changing then x.nextEpoch else x.epoch
    let out : Step := { num, edge, emit := edge - lead, est := c.est, epoch, cfg := c.cfg, slots := c.slots, uid := c.uid }
    let p : Packet := {
      epoch, inst := i, mid := x.mid, cfg := c.cfg, owner := x.owner, leadInst := i, step := num, edge, emit := edge - lead, est := c.est
      slots := c.slots, ents := c.slots.flatMap (fun y => y.ents) }
    (e.mayCompose i = true → e.instIdle i = true → x.quiet = false → e.hasEligible i = true →
      exec (.instanceTrigger i) s = .next (s.withEng (e.setInst i { x with trig := some e.now }))) ∧
    (x.step = some st → st.started = true → st.arrayDone = false →
      (x.lead = true → (∃ y ∈ st.slots, y.rowed = true) →
        exec (.arrayStepDone i) s = .next (s.withEng
          (e.setInst i { x with step := some { st with arrayDone := true, timer := some (e.now + e.joinTimeout) } }))) ∧
      ((∀ y ∈ st.slots, y.rowed = false) → ∃ t, exec (.arrayStepDone i) s = .next t ∧ (t.eng.inst i).step = none)) ∧
    (w.run = none → e.nextTrigger = some i → e.fb F.STW_CTL_EN = true → x.carried = [] → (∀ u, e.unitHalted u = false) →
      e.siv.retired.length < 4 → (∀ q ∈ e.led.recs, (e.param (rqSlot q.2.rqid)).specEn = false) →
      ∃ t d, exec .composeStart s = .next t ∧ others t ∧
        t.eng.inst i = { x with trig := none, comp := some d, win := true, quiet := false } ∧ d.num = num ∧ d.start = e.now ∧
        d.waiting = false ∧ d.slots = [] ∧ d.prog = prog ∧
        t.eng.stw = { w with
          s := [], v := [], q := [], run := some i, prog, pc := (tgetD w.progs prog {}).entry, cycles := 0, wr := [], target := none
          ending := false, dmemFault := false, cfg := if x.changing then x.newCfg else x.cfg, est := 0, fitStop := false, mode := none
          drawn := [], cursor := 0, passes := t.eng.stw.passes } ∧
        (∀ q, q < 64 → tgetD t.eng.stw.passes q 0 = (t.eng.part q).pass) ∧
        (∀ k ∈ instKeys i, tgetD t.eng.cap k (rstWord (k / 65536)) = e.keyWord k) ∧
        t.eng.act = e.act ∧ t.eng.pend = e.pend ∧ t.eng.held = e.held ∧ s.Only [4, 5, 12, 17, 18] [] t) ∧
    (w.run = some i → e.stwLimit ≤ w.cycles → e.stwStopped = false → x.comp = some c → x.carried = [] →
      x.changing = false → w.cfg % 16 = x.cfg → (∃ y ∈ c.slots, y.kind ≠ 0) → (∀ y ∈ c.slots, y.bound = true ∧ y.kind ≠ 2) →
      ∃ t, exec .cycleLimit s = .next t ∧ others t ∧
        t.eng.inst i = { x with
          lastCycles := min w.cycles (2 ^ 16 - 1)
          comp := some { c with waiting := true, est := w.est.toNat % 2 ^ 32, cfg := x.cfg, cycles := w.cycles } } ∧
        t.eng.stw = { w with run := none, wr := [], target := none, ending := false, dmemFault := false } ∧
        t.eng.fv F.STW_OVERRUNS_COUNT = min (e.fv F.STW_OVERRUNS_COUNT + 1) (2 ^ 32 - 1) ∧ s.Only [1, 4, 5, 17] [0x5030] t) ∧
    (s.Settled → x.comp = some c → e.emitReady i = true → (∀ y ∈ c.slots, y.bound = true) → (∃ y ∈ c.slots, y.kind ≠ 0) → e.cstOn = false →
      (x.changing = true → c.cfg = x.newCfg) →
      (∀ y ∈ c.slots, y.reissue = false →
        e.belowHere y = true ∧ ∃ r, e.rc y.lslot = some r ∧ (r.deadlineLast = 0 ∨ edge ≤ r.deadlineLast)) →
      e.others i = [] → e.mirrorOn = false →
      ∃ t, exec (.stepEmit i) s = .next t ∧ others t ∧ t.eng.now = edge - lead ∧ .array (.packet p (e.packetAddr i num)) ∈ t.eng.out ∧
        t.eng.inst i = { x with
          comp := none, step := some out, stepNo := num, epoch, cfg := c.cfg, changing := false
          cfgLoaded := x.cfgLoaded || x.changing, drained := x.drained || x.changing
          lastSlots := (t.eng.inst i).lastSlots, lastTokens := (t.eng.inst i).lastTokens } ∧
        tget t.eng.cmp.packets (2 * i + num % 2) = some p ∧ s.Only [0, 2, 4, 8, 10, 12, 15, 17] [] t) ∧
    exec (.epochDrained i) s = .next (if x.changing then s.withEng (e.setInst i { x with drained := true }) else s)

/-- Configurations and programs (R170 to R173, R222, R226, R227, R252 to R254, R483, R625, R635). The array's report that a configuration is loaded
completes a model load, a restore's part or the epoch change that waits, and its layer groups are taken; a failed one fails the load, or
the array is asked again. GO starts a program load; at its end RESULT is the first check that fails, and an image that passes replaces
the slot's bundles and data, the rest of the data at 0. A write through the view reaches data memory while the Steward is halted. A
partition's program is accepted to come in force at an edge, with an event if its slot is empty. Loads are stated where this engine is
the lead, outside a sliced partition, and failures with no deferred request and no semaphore; a tick that a program load's end leaves has
nothing left to do. The model's choices: asking again (assumption log 36); a RESULT of 0 while a load is busy (log 50); a 64-bit write of the
view at any offset that is a multiple of 8 (log 41); what stays of a MID with another instance here (log 76). -/
def Obligations.ConfigurationsAndPrograms : Prop :=
  ∀ (i mib slot off size : Nat) (groups : List Nat) (data : Word) (wide : DWord) (image : List (BitVec 8)) (readOk : Bool) (s : State),
    s.boot.absent = false → i < 16 →
    let e := s.eng
    let x := e.inst i
    let m := e.model x.mid
    let k := e.ctx i
    let c := e.cqOf m.loadRing
    let g := e.ring c
    let loading := x.loading = true
    let other := e.activeInsts.find? (fun j => decide (j ≠ i ∧ (e.inst j).mid = x.mid))
    let shv : ShvInst := { e.shvi i with shelfMib := mib, lgs := if groups = [] then (e.shvi i).lgs else groups }
    let shvIs := fun (t : State) => t.eng.shvi i = shv
    let asked := fun (t : State) (cfg : Nat) => .array (.loadConfig i cfg (e.fv F.KPR_PART_TILES_GROUPS x.owner) m.cfgAddr) ∈ t.eng.out
    let answered := fun (t : State) (v : CmpRec) => .completion c g.tail (e.ringPhase c g.tail) v ∈ t.eng.out
    let d := data.toNat
    let dom := e.dom 7
    let img := natBytes image
    let nb := imgField img 8 4
    let nd := imgField img 0xC 4
    let res := e.progCheck slot img readOk
    let page := e.fv F.STW_VIEW_PAGE_PAGE
    let kw := (off - 0x18000) / 8
    let key := 8192 * ((page - 28) / 4) + 2048 * ((page - 28) % 4) + kw
    let old := tgetD e.stw.dmem key 0
    let new : DWord := if size = 8 then wide
      else if off % 8 = 4 then wide.extractLsb' 0 32 ++ old.extractLsb' 0 32 else old.extractLsb' 32 32 ++ wide.extractLsb' 0 32
    let pt := e.fv F.CMP_PART_SEL_PID
    (x.active = true →
      (loading → x.lead = true → m.weightsIn = true ∨ m.state = 2 → m.state ≠ 3 → e.fv F.KPR_PART_CTL_MODE x.owner ≠ 1 →
        e.blocked c = false → e.cmpFull c = false →
        ∃ t, exec (.arrayConfigLoaded i mib groups) s = .next t ∧ t.eng.shvi i = { shv with q := (t.eng.shvi i).q } ∧
          shv.qLoad ≤ (t.eng.shvi i).q ∧ (t.eng.shvi i).q ≤ max shv.qLoad (e.av F.SHV_INST_QUOTA_BLOCKS i) ∧
          t.eng.gat = { e.gat with again := sinsert e.gat.again i } ∧
          t.eng.model x.mid = (if m.state = 2 then m else { m with
            state := 2, stream := decide (m.toMark ≠ []), streamInc := m.toInc, marked := m.toMark, toMark := [], toInc := 0 }) ∧
          (∀ j, t.eng.inst j = if j = i then { x with loading := false } else e.inst j) ∧
          answered t (loadRec m.loadStatus m.loadRing m.loadTag e.now 0 m.loadInc) ∧ s.Only [1, 3, 4, 6, 12] [] t) ∧
      (¬loading → k.state = 3 →
        ∃ t, exec (.arrayConfigLoaded i mib groups) s = .next t ∧ shvIs t ∧
          t.eng.ctx i = { k with cfgIn := true, readyAt := max k.readyAt e.now } ∧ s.Only [6, 12] [] t) ∧
      (¬loading → k.state ≠ 3 → x.changing = true →
        ∃ t, exec (.arrayConfigLoaded i mib groups) s = .next t ∧ shvIs t ∧
          (∀ j, t.eng.inst j = if j = i then { x with cfgLoaded := true } else e.inst j) ∧ s.Only [4, 6, 12] [] t) ∧
      (loading → x.lead = true → e.gat.deferq = [] → e.kpr.sems = [] → e.blocked c = false → e.cmpFull c = false →
        ∃ t, exec (.arrayConfigFailed i) s = .next t ∧ (∀ j, t.eng.inst j = if j = i then {} else e.inst j) ∧
          t.eng.model x.mid = (match other with
            | some j => { m with inst := if m.inst = i then j else m.inst }
            | none => {}) ∧
          t.eng.fv F.GAT_INST_STEP_EST_EST i = tgetD e.gat.est i 0xEA60 % 2 ^ 24 ∧
          t.eng.held = e.held.filter (fun y => decide (y.1 ≠ i)) ∧
          t.eng.pend = e.pend ++ (e.held.filter (fun y => decide (y.1 = i))).map (fun y => (y.2.1, y.2.2, e.now)) ∧
          t.eng.act = e.act ∧ t.eng.cap = e.cap ∧
          answered t (loadRec 0x3A m.loadRing m.loadTag e.now 0 0) ∧ s.Only [1, 4, 6, 12, 17, 18] [0x3084, 0xE0C0 + 4 * i] t) ∧
      (¬loading → e.av F.KPR_LEAVE_AMT_CONFIG = 0 →
        (k.state = 3 → ∃ t, exec (.arrayConfigFailed i) s = .next t ∧ asked t k.imgCfg ∧ s.Only [12] [] t) ∧
        (k.state ≠ 3 → x.changing = true → x.cfgLoaded = false →
          ∃ t, exec (.arrayConfigFailed i) s = .next t ∧ asked t x.newCfg ∧ s.Only [12] [] t))) ∧
    (∃ t, exec (.programLoad data) s = .next t ∧ t.eng.fv F.STW_LOAD_CTL_SLOT = d % 8 ∧ t.eng.fv F.STW_LOAD_CTL_SPACE = d / 8 % 2 ∧
      (data.getLsbD 31 = true → e.stw.load = none →
        t.eng.stw = { e.stw with load := some (d % 8), loadResult := 0 } ∧
        (dom.retired = false → dom.st = 3 → dom.gated ≠ some e.now → t.eng.dom 7 = { dom with st := 1, due := e.now + 150, used := e.now, drop := false })) ∧
      (data.getLsbD 31 = false ∨ e.stw.load ≠ none → s.Only [] [0x5018] t) ∧ s.Only [5, 15] [0x5018] t) ∧
    (s.Settled → e.stw.load = some slot →
      ∃ t, exec (.programLoadEnd image readOk) s = .next t ∧ t.eng.stw.load = none ∧ t.eng.stw.loadResult = res ∧
        (res ≠ 1 → t.eng.stw = { e.stw with load := none, loadResult := res }) ∧
        (res = 1 →
          tget t.eng.stw.progs slot = some {
            valid := true, nbundle := nb, entry := imgField img 0x10 4, major := imgField img 4 2 / 256, minor := imgField img 4 2 % 256
            id := imgField img 0x18 8 } ∧
          (∀ j, j < nb → tget t.eng.stw.imem (4096 * slot + j) = some (BitVec.ofNat 128 (imgField img (64 + 16 * j) 16))) ∧
          (∀ j, j < 8192 → tgetD t.eng.stw.dmem (8192 * slot + j) 0 =
            if j < nd / 8 then BitVec.ofNat 64 (imgField img (64 + 16 * nb + 8 * j) 8) else 0) ∧
          (∀ j, j ≠ slot → tget t.eng.stw.progs j = tget e.stw.progs j) ∧
          (∀ j, j / 4096 ≠ slot → tget t.eng.stw.imem j = tget e.stw.imem j) ∧
          (∀ j, j / 8192 ≠ slot → tget t.eng.stw.dmem j = tget e.stw.dmem j)) ∧
        s.Only [0, 1, 5, 12, 15, 17] [] t) ∧
    (0x18000 ≤ off → off < 0x1C000 → size = 4 ∨ size = 8 → off % size = 0 → 28 ≤ page → page < 60 → e.dbg.stwHalted = true →
      exec (.stwViewWrite off size wide) s = .next (s.withEng { e with
        stw := { e.stw with dmem := tsetD e.stw.dmem key new 0 }
        dbg := { e.dbg with mem := tdel e.dbg.mem (6 * 2 ^ 40 + 2048 * page + kw) } })) ∧
    (∃ t, exec (.cmpPartProgWrite data) s = .next t ∧ t.eng.reg 0x4024 pt = data &&& 7 ∧
      (∀ j, j < 65536 → j ≠ pt → t.eng.reg 0x4024 j = e.reg 0x4024 j) ∧ t.eng.pend = e.pend ++ [(regKey 0x4024 pt, data &&& 7, e.now)] ∧
      t.eng.act = e.act ∧ t.eng.cap = e.cap ∧ t.eng.held = e.held ∧ s.Only [1, 17, 18] [0x4024] t ∧
      (d % 8 = 0 ∨ (tgetD e.stw.progs (d % 8) {}).valid = true → s.Only [18] [0x4024] t))

/-- The selection unit and APPEND (R239 to R246). KBEGIN arms a mode, 0 or 1, and holds issue 2,000 cycles; with no lane enabled it only
holds issue, and another mode, which R239 calls undefined, is refused where a lane is. KSEL and LSCAN put the next candidates into the enabled lanes, lane 0 upward, with 0 in the lanes that none is left
for, and qC tells the lanes filled. LFLD reads a field of the candidates, 0 for a lane that names none; a field not listed has a
free value. WFIT grants no lane more than it wants, nor all more than the budget left. APPEND appends in lane order: an appended slot goes to the
end of the composition, and a lane that is turned away changes nothing but its count; it holds issue 8 cycles and more for long crate
lists. A bundle's writes are queued to its end. That candidates skip a lane that is not enabled, in lane order, is the model's reading of R240
(assumption log 19); the value of a field that R243 does not list is free (log 2). -/
def Obligations.SelectionResults : Prop :=
  ∀ (gn : Bool) (g c : BitVec 3) (d a b : BitVec 5) (imm : BitVec 16) (s : State),
    (2 ≤ imm.toNat → s.issues = true → s.eng.enabledLanes g gn ≠ [] →
      exec (.kBegin g gn imm) s = .refused .undefinedSelectionMode) ∧
    (s.boot.absent = false → s.eng.stwIssues = true →
      let e := s.eng
      let i := e.stw.run.getD 0
      let A := e.vlane a.toNat
      let B := e.vlane b.toNat
      let on := (List.range 4).filter (fun l => (e.preg g.toNat).getLsbD l != gn)
      let close := fun (n : Nat) (w : Stw) (l : List BWrite) =>
        s.withEng (({ e with stw := { w with wr := e.stw.wr ++ l } } : Eng).closeBundle n)
      let filled := fun (l : List (Nat × Bool)) (v : BitVec 4) =>
        (List.range on.length).map (fun k => BWrite.lane (4 * d.toNat + on.getD k 0) (match l[k]? with
          | some p => BitVec.ofNat 64 ((e.asSeen i).handle p)
          | none => 0)) ++ [.pred c.toNat v]
      let marks := fun (v : BitVec 4) (n : Nat) => ∀ l, l < 4 → v.getLsbD l = decide (l ∈ on.take n)
      let drew := (e.kselReady i).take on.length
      let next := ((e.candidates i).filter (fun p => decide (e.stw.cursor ≤ p.1))).take on.length
      let ins := on.map (fun l => (l, (A l).toNat, (B l).toNat))
      let r := appendLanes e i ins
      (imm.toNat < 2 ∨ on = [] → exec (.kBegin g gn imm) s = .next (close 2000 (if on = [] then e.stw else { e.stw with mode := some imm.toNat }) [])) ∧
      (∃ v, exec (.kSel g gn d c) s = .next (close 1 { e.stw with drawn := e.stw.drawn ++ drew.map (fun p => p.1) } (filled drew v)) ∧
        marks v drew.length) ∧
      (e.stw.fitStop = true ∨ e.slotsLeft i (e.comp i) = 0 ∨ e.budgetLeft i (e.comp i) = 0 → drew = []) ∧
      (∃ v, exec (.lScan g gn d c) s = .next (close 1 { e.stw with cursor := ((next.getLast?.map (fun p => p.1 + 1)).getD e.stw.cursor) }
        (filled next v)) ∧ marks v next.length) ∧
      (∃ (n : Nat) (v : Nat → DWord), exec (.lFld g gn d a imm) s = .next (s.withEng (({ e with
            free := n, stw := { e.stw with wr := e.stw.wr ++ on.map (fun l => BWrite.lane (4 * d.toNat + l) (v l)) } } : Eng).closeBundle 1)) ∧
          (imm.toNat ≤ 15 → n = e.free) ∧
          ∀ l ∈ on, (e.candidate i (A l).toNat = none → v l = 0) ∧
            ∀ p q, e.candidate i (A l).toNat = some p → (e.asSeen i).rc p.1 = some q → imm.toNat ≤ 7 →
              v l = BitVec.ofNat 64 ([rqPid q.rqid, q.state, q.pos, q.promptLen, q.newCount, q.maxNew, q.relDeadline,
                q.submitStamp].getD imm.toNat 0)) ∧
      (∃ (v : BitVec 4) (f : Nat → Nat) (stop : Bool),
        exec (.wFit g gn d a b c) s = .next (close 1 { e.stw with fitStop := e.stw.fitStop || stop }
          (on.map (fun l => BWrite.lane (4 * d.toNat + l) (BitVec.ofNat 64 (f l))) ++ [.pred c.toNat v])) ∧
        (∀ l ∈ on, f l ≤ (A l).toNat) ∧ ((on.map f).sum ≤ e.budgetLeft i (e.comp i)) ∧
        (on.filter (fun l => decide (f l ≠ 0))).length ≤ e.slotsLeft i (e.comp i) ∧
        (∀ l, l < 4 → v.getLsbD l = decide (l ∈ on ∧ f l ≠ 0)) ∧
        ((on.map (fun l => (A l).toNat)).sum ≤ e.budgetLeft i (e.comp i) → on.length ≤ e.slotsLeft i (e.comp i) →
          stop = false ∧ ∀ l ∈ on, f l = (A l).toNat)) ∧
      exec (.append g gn d a b) s = .next (s.withEng (({ r.2.2 with
        stw := { e.stw with wr := e.stw.wr ++ r.1.map (fun p => BWrite.lane (4 * d.toNat + p.1) (BitVec.ofNat 64 p.2)) } } : Eng).closeBundle
          (8 + (r.2.1 - 64 + 7) / 8))) ∧
      (∀ h n, (e.inst i).comp.isSome = true →
        let z := e.appendOne i h n
        (z.1 ≠ 0 → z.2.2.2 = e) ∧
        (z.1 = 0 → z.2.1 = (e.comp i).slots.length ∧ ∃ y, (z.2.2.2.comp i).slots = (e.comp i).slots ++ [y] ∧ y.lslot = h % 2 ^ 24 ∧
          (y.reissue = false → y.tok = n))))

/-! ### The Pantry, the Sampler, the Sieve and random streams -/

/-- Pantry pieces, old frames and streaming (R284, R321 to R330, R458, R459). A free pipe takes the first piece that is admitted, its bytes are
charged, and a piece that converts asks for its generator load. A piece done frees its pipe; its bytes are written at the place of its
crate, with zeros to the frame's end, and with the last
piece the command has ended, here a weight copy, after which the array is asked for the configuration of each instance being loaded. Old frames go once no step open at
the move's completion is open. A streaming grant of 65,536 bytes is given and charged where the bucket lets it through, and waits
otherwise. Stated with no command held back by a full queue. That the lowest free pipe is taken, and what a converting piece is charged, are
the model's choices (assumption log 22). -/
def Obligations.PiecesAndGrants : Prop :=
  ∀ (p k pipe i grp : Nat) (c : PanCmd) (src : List (BitVec 8)) (op : ShvOp) (s : State),
    let e := s.eng
    let b := e.pieceCharge c k
    let dom := e.dom (10 + pipe)
    let c' : PanCmd := { c with written := c.written + 1 }
    let frame := src ++ (if c.kind = 3 then [] else List.replicate ((e.pieceBytes c k).2 - src.length) 0)
    let m := e.model op.mid
    let own := (e.inst i).owner
    let again := e.pan.running.filter (fun y => y.next.isSome)
    (s.boot.absent = true → exec (.cellarStreamGrant i) s = .next (s.withEng { e with out := .array .engineAbsent :: e.out })) ∧
    (s.boot.absent = false →
      (e.fb F.PAN_CTL_EN = true → e.unitHalted 7 = false → e.freePipe = some p → e.pan.held = [] →
        pickPiece e [] (again.filter (fun y => y.demand) ++ e.pan.demand ++ again.filter (fun y => !y.demand) ++ e.pan.background) = some (c, k) →
        ∃ t, exec .pieceStart s = .next t ∧ (∀ q, tget t.eng.pan.pipes q = if q = p then some { cmd := c.id, piece := k } else tget e.pan.pipes q) ∧
          (c.rerun = [] → t.eng.panCmd c.id = some { c with started := k + 1 }) ∧
          (t.eng.part c.pid).storeB = (e.part c.pid).storeB + b.1 ∧ (t.eng.part c.pid).cellarB = (e.part c.pid).cellarB + b.2 ∧
          (∀ q, q ≠ c.pid → (t.eng.part q).storeB = (e.part q).storeB ∧ (t.eng.part q).cellarB = (e.part q).cellarB) ∧
          t.eng.rsu = { e.rsu with queue := if c.kind = 1 ∧ c.srcFmt ≠ c.dstFmt then e.rsu.queue ++ [e.panJump c k p] else e.rsu.queue } ∧
          (∀ j, j ≠ 10 + p → t.eng.dom j = e.dom j) ∧ s.Only [7, 10, 12, 15, 17] [] t) ∧
      (tget e.pan.pipes pipe = some { cmd := c.id, piece := k } → e.panCmd c.id = some c → e.pipeWaits pipe c = false →
        e.pan.held = [] →
        (c'.written ≠ c.pieces →
          ∃ t, exec (.pieceDone pipe 0 src) s = .next t ∧
            (∀ q, tget t.eng.pan.pipes q = if q = pipe then none else tget e.pan.pipes q) ∧ t.eng.panCmd c.id = some c' ∧
            (c.kind ≠ 1 → .pantryBytes c.id k (e.pieceAddr c k) frame ∈ t.eng.out) ∧ t.eng.dom (10 + pipe) = { dom with used := e.now } ∧
            s.Only [7, 12, 15, 17] [0x7044, 0x7048] t) ∧
        (c'.written = c.pieces → c.kind = 3 → tget e.shv.ops c.id = some op → op.what = 2 →
          e.av F.KPR_LEAVE_AMT_CONFIG = 0 →
          ∃ t, exec (.pieceDone pipe 0 src) s = .next t ∧ t.eng.panCmd c.id = none ∧
            .pantryBytes c.id k (e.pieceAddr c k) src ∈ t.eng.out ∧
            t.eng.fv F.PAN_CMDS_COUNT = min (e.fv F.PAN_CMDS_COUNT + 1) (2 ^ 32 - 1) ∧ tget t.eng.shv.ops c.id = none ∧
            t.eng.model op.mid = { m with weightsIn := true } ∧
            (∀ j ∈ e.loadingOf op.mid,
              .array (.loadConfig j 0 (e.fv F.KPR_PART_TILES_GROUPS (e.inst j).owner) (e.instModel j).cfgAddr) ∈ t.eng.out) ∧
            s.Only [6, 7, 12, 15, 17] [0x7040, 0x7044, 0x7048] t)) ∧
      exec (.oldFramesFreed grp) s = .next (s.withEng { e with shv := { e.shv with
        frames := e.shv.frames.filter (fun f => decide (f.grp ≠ grp) || f.steps.any (fun x => e.openSteps.contains x)) } }) ∧
      ((e.inst i).active = true → (∀ x ∈ e.kpr.streamWait, (e.inst x.1).owner ≠ own) →
        (e.regOpen own 0 65536 0 = true →
          ∃ t, exec (.cellarStreamGrant i) s = .next t ∧ .array (.streamGrant i 65536) ∈ t.eng.out ∧
            (∀ j, tgetD t.eng.kpr.streamGrants j 0 = tgetD e.kpr.streamGrants j 0 + (if j = i then 65536 else 0)) ∧
            (t.eng.part own).cellarB = (e.part own).cellarB + 65536 ∧
            (e.fb F.KPR_CTL_EN = true → e.av F.KPR_PART_CELLAR_RATE_RATE own ≠ 0 →
              (t.eng.part own).cellar = max (-(2 ^ 31 : Int)) ((e.part own).cellar - 65536)) ∧
            (∀ q, q ≠ own → t.eng.part q = e.part q) ∧ s.Only [12, 17] [] t) ∧
        (e.regOpen own 0 65536 0 = false →
          exec (.cellarStreamGrant i) s = .next (s.withEng { e with kpr := { e.kpr with streamWait := e.kpr.streamWait ++ [(i, e.now)] } }))))

/-- Rows and slots of the Sampler (R335 to R342, R351 to R354, R362 to R369). A row that passes R335 is kept with its gang, and the first one of a slot without
its control starts the data timer; a row of another length or format is discarded and counted. A control half that comes first is kept. A
slot whose data timer ends, or that the step timer finds without its rows, is lost and its sibling carried to be placed again. A lane's
passes give the row's draw, once the count tables that its penalties need are complete. A DECODE slot whose row is sampled commits its token to the sibling, with the completion record. Stated with
another row of the step still to come, no composition, and, for sampling and commits, for siblings without grammar and drafts, with a page
of history open, mirroring off and nothing halted. A spare lane is in service once it is powered. What carries the Tally forward is
stated where the tick that it leaves has nothing left to do. The model's choices: where the lost slot waits while there is no composition
(assumption log 71); which gang takes a row, and when the timers start (log 23). -/
def Obligations.RowsAreSampledAndCommitted : Prop :=
  ∀ (tag : DWord) (len fmt lane i idx j n T : Nat) (payload : List (BitVec 8)) (toks parents : List Nat) (st : Step) (x y : Slot)
    (ss : SmpSlot) (c : RowCtl) (rw : Row) (o : RowOut) (d : Drawn) (r : LRec) (w : Nat × Nat) (s : State), s.boot.absent = false → i < 16 →
    let e := s.eng
    let v := e.inst i
    let k := i * 16384 + idx
    let others := fun (t : State) => ∀ q, q ≠ k → t.eng.smpSlot q = e.smpSlot q
    let pending := fun (ok : SmpSlot → Bool) => ∃ m, m ≠ idx ∧ st.slots[m]? = some y ∧ y.rowed = true ∧ y.done = false ∧
      ok (tgetD e.smp.slots (i * 16384 + m) {}) = true ∧ (tgetD e.smp.slots (i * 16384 + m) {}).got y.rows < y.rows
    let lost := fun (t : State) (now : Nat) (st' : Step) => t.eng.now = now ∧ t.eng.smpSlot k = some { st := 3 } ∧ others t ∧
      t.eng.inst i = { v with
        carried := oinsert Slot.carriedLe { x with lostStep := st.num, lostIdx := idx } v.carried, step := some { st' with slots := lmod st.slots idx (fun q => { q with done := true, lost := true }) } } ∧
      t.eng.fv F.SMP_LOST_COUNT = min (e.fv F.SMP_LOST_COUNT + 1) (2 ^ 32 - 1) ∧ s.Only [0, 1, 4, 8, 10, 12, 17] [0x8050] t
    let first := rqSlot r.rqid
    let q := e.cqOf r.ring
    let p := e.param first
    let hist := tgetD e.led.gent x.lslot []
    let done : CmpRec := {
      status := 0, logprob := decide (p.nlogprob ≠ 0 ∧ r.newCount + 1 ≤ p.maxNew), ntok := 1, toks := [d.tok], sib := r.sib, gen := r.gen
      ring := r.ring, rqid := r.rqid, tag := r.userTag, stamp := e.now, step := st.num }
    (e.smpOn = true → tag.toNat / 2 ^ 41 % 16 = i → 4 < fmt ∨ len ≠ (e.instModel i).vocab →
      ∃ t, exec (.logitRow tag len fmt payload) s = .next t ∧
        t.eng.fv F.SMP_DISCARD_BAD_COUNT = min (e.fv F.SMP_DISCARD_BAD_COUNT + 1) (2 ^ 32 - 1) ∧ s.Only [17] [0x804C] t) ∧
    (s.Settled → e.smp.waking.find? (fun z => decide (z.2 = lane)) = some w →
      ∃ t, exec (.spareLaneInService lane) s = .next t ∧ t.eng.smp = { e.smp with
          waking := e.smp.waking.filter (fun z => decide (z ≠ w)) } ∧ s.Only [0, 8, 12, 15, 17] [] t) ∧
    (v.step = some st → st.slots[idx]? = some x → e.smpSlot k = some ss → idx < 16384 →
      (s.Settled → e.smpOn = true → tag.toNat / 2 ^ 41 % 16 = i → tag.toNat / 2 ^ 16 % 2 ^ 14 = idx → tag.toNat / 2 ^ 30 % 2 ^ 7 = j →
        tag.toNat / 2 ^ 37 % 16 = st.epoch → tag.toNat % 2 ^ 16 = st.num % 65536 → fmt ≤ 4 → v.active = true → v.lead = true →
        len = (e.instModel i).vocab → ss.st = 0 → ss.ctl = none → tget ss.rows j = none → e.joinUsed < 128 → e.gangFor fmt len = some lane →
        pending (fun _ => true) →
        ∃ t, exec (.logitRow tag len fmt payload) s = .next t ∧ others t ∧
          t.eng.smpSlot k = some { ss with
            st := 1, due := some (t.eng.now + e.joinTimeout)
            rows := tput ss.rows j { fmt, len, data := payload, lane, gang := gangSize fmt len } } ∧
          s.Only [0, 8, 12, 15, 17] [0x8054] t) ∧
      (e.smpOn = true → ss.ctl = none → ss.st = 0 → tget e.smp.area ((2 * i + st.num % 2) * 16384 + idx) = some c → (e.param (e.firstOf x.lslot)).grammarEn = false →
        ∃ t, exec (.rowControlJoin i idx) s = .next t ∧ t.eng.smpSlot k = some { ss with ctl := some c } ∧ others t ∧ s.Only [8] [] t) ∧
      (s.Settled → v.comp = none → x.done = false →
        (ss.st = 1 → ss.due = some T → pending (fun _ => true) →
          ∃ t, exec (.dataTimerExpiry i idx) s = .next t ∧ lost t (max e.now T) st) ∧
        (st.timer = some T → ((List.range st.slots.length).zip st.slots).filter (e.stepTimerHits i) = [(idx, x)] → pending (fun _ => true) →
          ∃ t, exec (.stepTimerExpiry i) s = .next t ∧ lost t (max e.now T) { st with timer := none })) ∧
      (e.smpOn = true → ss.ctl = some c → ss.st = 2 → x.kind = 1 → e.rc x.lslot = some r → p.grammarEn = false →
        (tget ss.rows j = some rw → rw.res = none → f32Pos p.temperature = false → e.countWaits k j x rw = false →
          let out := rowOut (e.controls first) (e.rowSet x rw ((e.rowCounts k j rw).getD []) (fun _ => true)) [0]
          ∃ t, exec (.rowSampled i idx j) s = .next t ∧ t.eng.smpSlot k = some { ss with
              rows := tput ss.rows j { rw with res := some out, data := [] } } ∧ others t ∧
            t.eng.fv F.SMP_ROWS_COUNT = min (e.fv F.SMP_ROWS_COUNT + 1) (2 ^ 32 - 1) ∧ s.Only [8, 15] [0x8040, 0x8058] t) ∧
        (tget ss.rows 0 = some rw → rw.res = some o → o.drawn 0 = some d → r.state = 5 → r.draftV = false → p.stopEn = false ∨ p.stopToken ≠ d.tok →
          r.newCount + 2 ≤ r.maxNew → r.deadlineLast = 0 ∨ e.now ≤ r.deadlineLast → hist.length % 1020 ≠ 0 → e.mirrorOn = false →
          e.hat.heldRecs = [] → (∀ u, e.unitHalted u = false) → e.blocked q = false → e.cmpFull q = false → v.comp = none →
          (∃ m, m ≠ idx ∧ st.slots[m]? = some y ∧ y.rowed = true ∧ y.done = false) →
          ∃ t, exec (.slotCommit i idx n toks parents) s = .next t ∧ t.eng.smpSlot k = some { st := 4 } ∧ others t ∧
            t.eng.inst i = { v with step := some { st with slots := lmod st.slots idx (fun z => { z with done := true }) } } ∧
            t.eng.rc x.lslot = some { r with
              newCount := r.newCount + 1, pos := r.pos + 1, lastToken := d.tok, lastStep := st.num
              firstStamp := if r.firstStamp = 0 then e.now else r.firstStamp, draftN := 0, copyN := 0, posted := 0, shared := false
              replay := 0 } ∧
            (∀ z, z ≠ x.lslot → t.eng.rc z = e.rc z) ∧ tgetD t.eng.led.gent x.lslot [] = hist ++ [d.tok] ∧
            .completion q (e.ring q).tail (e.ringPhase q (e.ring q).tail) done ∈ t.eng.out ∧
            (tgetD t.eng.kpr.reqs first {}).tokens = (tgetD e.kpr.reqs first {}).tokens + 1 ∧
            t.eng.stw = { e.stw with seen := some (e.seenNow.getD { tick := e.now, recs := e.led.recs, insts := e.cmp.insts }) } ∧
            s.Only [1, 2, 4, 5, 8, 10, 12, 15, 17] [0x805C, 0x8060] t)))

/-- Grammars, mask pages and draws (R383 to R386, R391, R397 to R413). A GO write starts an install unless one is in progress, or removes a
grammar at once or once its last request has gone; an install's end stores the first check that fails, or takes the image. A mask page
that is fetched is the most recently used, in a place of its own, as the bitmap of the tokens that the class allows; the rows that wait for
it go on with their intake. The jump-ahead unit hands the state it has reached to the one that asked: a slot's draws, a
pipe, the service, which answers with the draws from there on, or the probe. A service request that names no slot of the step is answered
with zeros, and the service is absent with the engine. The probe's coordinate waits for its jump. A halted RSU takes neither. The fetch is
stated with no word written by the debug port in a state of its own; a RESULT of 0 from GO to an install's end is the model's reading
(assumption log 50). -/
def Obligations.GrammarsAndDraws : Prop :=
  ∀ (gid cls page id addr : Nat) (data : Word) (image : List (BitVec 8)) (larder : Option LarderBits) (readOk : Bool) (req : BitVec 128)
    (j : Jump) (x : Slot) (s : State),
    let e := s.eng
    let f := fun (hi lo : Nat) => data.toNat / 2 ^ lo % 2 ^ (hi + 1 - lo)
    let go := data.getLsbD 31
    let op := data.getLsbD 16
    let regs := fun (t : State) => t.eng.fv F.SIV_INSTALL_CTL_GRAMMAR_ID = f 15 0 ∧ t.eng.fv F.SIV_INSTALL_CTL_OP = f 16 16
    let g := e.gram (f 15 0)
    let img := natBytes image
    let old := e.gram id
    let res := installResult img (larderVocab larder (imgField img 8 2 % 4096)) (old.valid || old.draining) readOk
    let word := e.gramImg gid
    let gen := (rootOf j.seed).jump j.pos
    let n := (req.extractLsb' 72 16).toNat + 1
    let sent := fun (o : ArrMsg) => s.withEng { e with out := .array o :: e.out }
    let svc := streamNo (e.inst (req.extractLsb' 0 4).toNat).mid (drawRqid x.rqid x.drawSlot) x.sib x.pos (12 + (req.extractLsb' 38 2).toNat)
    let coord := e.probeCoord
    let cf := fun (hi lo : Nat) => coord / 2 ^ lo % 2 ^ (hi + 1 - lo)
    let probe : Jump := { rank := 4, gen := 73, seed := cf 127 0
                          pos := streamNo (cf 139 128) (cf 171 140) (cf 177 172) (cf 225 178) (cf 229 226) * 2 ^ 64 + cf 261 230 }
    (s.boot.absent = true → exec (.serviceRequest req) s = .next (sent .engineAbsent)) ∧
    (s.boot.absent = false →
      (∃ t, exec (.grammarInstall data) s = .next t ∧ regs t ∧
        (go = true → op = false → e.siv.install = none →
          t.eng.siv = { e.siv with install := some (f 15 0, e.pairv 0x9020 / 4096 * 4096), result := 0 }) ∧
        (go = false ∨ op = true ∨ e.siv.install ≠ none → t.eng.siv = e.siv) ∧ s.Only [9] [0x9028] t) ∧
      (∃ t, exec (.grammarRemove data) s = .next t ∧ regs t ∧
        (go = true → op = true → e.siv.install = none →
          (g.valid = false → t.eng.siv = { e.siv with result := 9 }) ∧
          (g.valid = true → t.eng.siv.result = 1 ∧ t.eng.gram (f 15 0) =
            if g.live = 0 then { g with valid := false, draining := false, live := 0 } else { g with draining := true })) ∧
        (∀ z, z ≠ f 15 0 → t.eng.gram z = e.gram z) ∧ s.Only [1, 9, 17] [0x9028] t) ∧
      (e.siv.install = some (id, addr) →
        ∃ t, exec (.grammarInstallEnd image larder readOk) s = .next t ∧ t.eng.siv.install = none ∧ t.eng.siv.result = res ∧
          t.eng.gram id = (if res = 1 then { valid := true, mid := imgField img 8 2 % 4096, addr, bytes := imgField img 0x28 4, image }
            else old) ∧
          (∀ z, z ≠ id → t.eng.gram z = e.gram z) ∧
          t.eng.siv.cache = (if res = 1 then e.siv.cache.filter (fun p => decide (p.gid ≠ id)) else e.siv.cache) ∧ s.Only [1, 9, 17] [] t) ∧
      ((e.gram gid).valid = true → e.sieveOn = true → cls < imgField word 0x1C 4 → page < maskPages (gVocab word) →
        e.pageIn gid cls page = false → e.siv.cache.length < 2048 → e.dbg.mem = [] →
        ∃ t b, exec (.maskPageFetch gid cls page) s = .next t ∧
          t.eng.siv = { e.siv with cache := { gid, cls, page, way := freeWay e.siv.cache, bits := b } :: e.siv.cache } ∧
          (∀ k, k < 32768 → bitOf b k =
            (decide (32768 * page + k < gVocab word) && gAllows word (gClass word cls) (32768 * page + k))) ∧
          (∀ p ∈ e.siv.cache, p.way ≠ freeWay e.siv.cache) ∧ t.eng.smp = { e.smp with slots := t.eng.smp.slots } ∧
          (∀ k, (t.eng.smpSlot k).map (fun z => { z with rows := [] }) = (e.smpSlot k).map (fun z => { z with rows := [] }) ∧
            ∀ m, ((t.eng.smpSlot k).bind (fun z => tget z.rows m)).map (fun y => { y with intake := [], mask := [] }) =
              ((e.smpSlot k).bind (fun z => tget z.rows m)).map (fun y => { y with intake := [], mask := [] })) ∧
          t.eng.fv F.SIV_CACHE_MISS_COUNT = min (e.fv F.SIV_CACHE_MISS_COUNT + 1) (2 ^ 32 - 1) ∧ s.Only [8, 9, 17] [0x9044, 0x9048] t) ∧
      (e.rsuOn = true → e.rsu.jumpOk = true → e.nextJump = some j →
        ∃ t, exec .jumpDone s = .next t ∧ t.eng.rsu.queue = dropFirst j e.rsu.queue ∧
          t.eng.fv F.RSU_JUMPS_COUNT = min (e.fv F.RSU_JUMPS_COUNT + 1) (2 ^ 32 - 1) ∧
          (e.genBad j.gen = false →
            (j.gen < 68 → (tgetD e.smp.slots j.key {}).st = 2 → t.eng.rsu.ready = e.rsu.ready ++ [(j.key, j.sub, gen)]) ∧
            (68 ≤ j.gen → j.gen < 72 → tget t.eng.rsu.gens j.gen = some gen) ∧
            (j.gen = 72 → .array (.service (gen.draws j.key)) ∈ t.eng.out) ∧
            (72 < j.gen → t.eng.rsu.probeBusy = false ∧ t.eng.rsu.probeOut = gen.scramble)) ∧
          s.Only [10] [0xA080, 0xA084] t) ∧
      (e.unitHalted 10 = true → exec (.serviceRequest req) s = .next s ∧ exec (.rsuProbe data) s = .next s) ∧
      (e.unitHalted 10 = false → e.rsu.svcOk = false → exec (.serviceRequest req) s = .next (sent .engineAbsent)) ∧
      (e.unitHalted 10 = false → e.rsu.svcOk = true → e.svcSlot req = none →
        ∃ t, exec (.serviceRequest req) s = .next t ∧ .array (.service (List.replicate n 0)) ∈ t.eng.out ∧
          t.eng.fv F.RSU_SVC_BAD_COUNT = min (e.fv F.RSU_SVC_BAD_COUNT + 1) (2 ^ 32 - 1) ∧ s.Only [] [0xA088] t) ∧
      (e.unitHalted 10 = false → e.rsu.svcOk = true → e.svcSlot req = some x →
        exec (.serviceRequest req) s = .next (s.withEng { e with rsu := { e.rsu with queue := e.rsu.queue ++
          [{ rank := 2, gen := 72, seed := e.pairv 0xA010 + 2 ^ 64 * e.pairv 0xA018, pos := svc * 2 ^ 64 + (req.extractLsb' 40 32).toNat
             key := n }] } })) ∧
      (e.unitHalted 10 = false → go = true → e.rsu.probeBusy = false →
        exec (.rsuProbe data) s = .next (s.withEng { e with rsu := { e.rsu with probeBusy := true, queue := e.rsu.queue ++ [probe] } })))

/-! ### Keeper: periods, partitions, contexts and power -/

/-- Keeper's and the Gate's periods (R454 to R457, R462, R159, R467 to R469). At a multiple of 10,000 the partitions with an eligible sibling
or a slot in a step are found active, and one that becomes active starts at the virtual time. At a multiple of 1,024 every bucket gains
its RATE up to BURST, the reserved link credits are set anew, and the end of the tick tries the requests that wait; at one of 1,000,000 the
admission buckets gain theirs. At the end of an accounting interval the slowdown block is written, with SLOW of every partition, and the
sums start at 0. Stated where the tick that is left has nothing left to do. -/
def Obligations.RefillsAndPoints : Prop :=
  ∀ (s : State), s.boot.absent = false → s.Settled →
    let e := s.eng
    let due := fun (next period : Nat) => roundUp (max e.now next) period
    let up := fun (rate burst : Nat) (l : Int) => if rate = 0 then l else max l (min (burst : Int) (l + rate))
    (e.fb F.KPR_CTL_EN = true →
      let T := due e.kpr.nextPoint 10000
      let a := e.advance T
      ∃ t, exec .activityPoint s = .next t ∧ t.eng.now = T ∧ t.eng.kpr.nextPoint = T + 1 ∧
        (∀ p, p < 64 → (t.eng.part p).active =
          (a.led.recs.any (fun x => a.eligible x.2.inst x.1 T && decide (rqPid x.2.rqid = p)) || a.stepPids.contains p)) ∧
        (∀ p, p < 64 → (e.part p).active = true ∨ (t.eng.part p).active = false → (t.eng.part p).pass = (e.part p).pass) ∧
        ((∀ p, p < 64 → (e.part p).active = false) → ∀ p, p < 64 → (t.eng.part p).active = true →
          (t.eng.part p).pass = max (e.part p).pass e.kpr.gvt) ∧
        s.Only [0, 12, 17] [] t) ∧
    (e.kprOn = true →
      let T := due e.kpr.nextRefill 1024
      ∃ t, exec .regulatorRefill s = .next t ∧ t.eng.now = T ∧ t.eng.kpr.nextRefill = T + 1 ∧ t.eng.kpr.admitting = true ∧
        (∀ p, p < 64 →
          (t.eng.part p).store = up (e.av F.KPR_PART_STORE_RATE_RATE p) (e.av F.KPR_PART_STORE_BURST_BURST p) (e.part p).store ∧
          (t.eng.part p).cellar = up (e.av F.KPR_PART_CELLAR_RATE_RATE p) (e.av F.KPR_PART_CELLAR_BURST_BURST p) (e.part p).cellar ∧
          (t.eng.part p).raf = up (e.av F.KPR_PART_RAF_RATE_RATE p) (e.av F.KPR_PART_RAF_BURST_BURST p) (e.part p).raf ∧
          ∀ l, l < 9 → tgetD (t.eng.part p).credits l 0 =
            if l < 7 then 25600 * e.av F.KPR_PART_RAF_RESV_SLED p / 256 else 51200 * e.av F.KPR_PART_RAF_RESV_RING p / 256) ∧
        s.Only [0, 12, 17] [] t) ∧
    (let T := due e.gat.nextRefill 1000000
      ∃ t, exec .admissionBucketRefill s = .next t ∧ t.eng.now = T ∧
        (∀ p, p < 64 → tgetD t.eng.gat.bucket p 0 =
          (let b := tgetD e.gat.bucket p 0
           if e.av F.GAT_PART_RATE_RATE p = 0 then b else max b (min (e.av F.GAT_PART_BURST_BURST p) (b + e.av F.GAT_PART_RATE_RATE p)))) ∧
        t.eng.gat = { e.gat with nextRefill := T + 1, bucket := t.eng.gat.bucket } ∧ s.Only [0, 3, 12, 17] [] t) ∧
    (e.kprOn = true →
      let T := due e.kpr.nextClose (max 10000 (e.av F.KPR_ACCT_INTERVAL_INTERVAL))
      let a := e.advance T
      let n := e.fv F.KPR_SLOW_HEAD_HEAD
      let slow := fun (p : Nat) =>
        let k := a.part p
        if k.aTicks = 0 then 0 else min (k.aTicks * 256 / max (k.aTicks - min (k.cTicks + k.bTicks) k.aTicks) 1) 0xFFFF
      ∃ t, exec .acctIntervalClose s = .next t ∧ t.eng.now = T ∧ t.eng.kpr.nextClose = T + 1 ∧
        .slowBlock n ((List.range 64).map (fun p =>
          let k := a.part p
          (min k.aTicks (2 ^ 32 - 1), min k.cTicks (2 ^ 32 - 1), min k.bTicks (2 ^ 32 - 1), slow p, p))) ∈ t.eng.out ∧
        t.eng.fv F.KPR_SLOW_HEAD_HEAD = (n + 1) % 2 ^ 32 ∧ (∀ p, p < 64 → t.eng.fv F.KPR_PART_SLOW_SLOW p = slow p) ∧
        (∀ p, p < 64 → (t.eng.part p).aTicks = 0 ∧ (t.eng.part p).cTicks = 0 ∧ (t.eng.part p).bTicks = 0) ∧
        s.Only [0, 1, 12, 17] [0xC058, 0xC098, 0xC26C] t)

/-- Writes of a partition's registers (R302, R442 to R446, R463, R470). KPR_PART_CTL takes EN, MODE and SHARE at an edge, unless MODE would
change while the partition owns a loading or resident instance: then MODE is kept and WRITE_WHILE_ENABLED raised. Clearing EN notes every
live sibling of the partition. KPR_PART_TILES takes groups that no other partition holds; KPR_PART_RAF_RESV shares that stay within 256 with
those of the others; each is else refused with its event. Clearing EN is stated where no semaphore is held and the partition has no instance
here. That EN and SHARE of a write whose MODE is kept still take effect is the model's reading of R446 (assumption log 27). -/
def Obligations.PartitionRegisters : Prop :=
  ∀ (data : Word) (i : Nat) (s : State), s.boot.absent = false →
    let e := s.eng
    let p := e.fv F.KPR_PART_SEL_PID
    let en := e.fb F.KPR_PART_CTL_EN p
    let mode := e.fv F.KPR_PART_CTL_MODE p
    let g := data.toNat % 2 ^ 16
    let ring := data.toNat % 2 ^ 8
    let sled := data.toNat / 2 ^ 8 % 2 ^ 8
    let leads := fun (k : Nat) => (e.inst k).active = true ∧ (e.inst k).lead = true ∧ (e.inst k).owner = p
    let owns := i < 16 ∧ leads i ∧ ((e.instModel i).state = 1 ∨ (e.instModel i).state = 2)
    let others := (List.range 64).filter (fun q => decide (q ≠ p))
    let taken := fun (off : Nat) (w : Word) (t : State) => t.eng.reg off p = w ∧ t.eng.pend = e.pend ++ [(regKey off p, w, e.now)] ∧
      (∀ o j, j < 65536 → o ≠ off ∨ j ≠ p → t.eng.reg o j = e.reg o j) ∧ t = s.withEng { e with regs := t.eng.regs, pend := t.eng.pend }
    let tooMuch := 256 < ring + (others.map (fun q => e.fv F.KPR_PART_RAF_RESV_RING q)).sum ∨
      256 < sled + (others.map (fun q => e.fv F.KPR_PART_RAF_RESV_SLED q)).sum
    (data.getLsbD 0 = true ∨ en = false → data.toNat / 2 % 4 = mode ∨ (∀ k, k < 16 → ¬ leads k) →
      ∃ t, exec (.partitionCtlWrite data) s = .next t ∧ taken 0xC014 (data &&& 0xFFFF0007) t) ∧
    (data.getLsbD 0 = true ∨ en = false → data.toNat / 2 % 4 ≠ mode → owns →
      ∃ u, taken 0xC014 ((data &&& 0xFFFF0001) ||| BitVec.ofNat 32 (2 * mode)) (s.withEng u) ∧
        exec (.partitionCtlWrite data) s = .next (s.withEng (u.raise { code := 0x0002, unit := 12, arg := 0xC014 }))) ∧
    (data.getLsbD 0 = false → en = true → (∀ k, k < 16 → (e.inst k).active = true → (e.inst k).owner ≠ p) → e.kpr.sems = [] →
      ∃ t, exec (.partitionCtlWrite data) s = .next t ∧ t.eng.reg 0xC014 p = data &&& 0xFFFF0007 ∧
        t.eng.pend = e.pend ++ [(regKey 0xC014 p, data &&& 0xFFFF0007, e.now)] ∧
        (∀ x r, e.rc x = some r → rqPid r.rqid = p → r.live = true → x < 2 ^ 24 → r.gen < 2 ^ 16 →
          ∃ y ∈ (t.eng.part p).leaving, y % 2 ^ 40 = x + 2 ^ 24 * r.gen) ∧ s.Only [12, 18] [0xC014] t) ∧
    ((∃ q ∈ others, e.fv F.KPR_PART_TILES_GROUPS q &&& g ≠ 0) →
      exec (.tilesWrite data) s = .next (s.withEng (e.raise { code := 0x0090, unit := 12, pid := p, part := true, arg := g }))) ∧
    ((∀ q ∈ others, e.fv F.KPR_PART_TILES_GROUPS q &&& g = 0) →
      (g ≠ e.fv F.KPR_PART_TILES_GROUPS p → owns →
        exec (.tilesWrite data) s = .next (s.withEng (e.raise { code := 0x0002, unit := 12, arg := 0xC018 }))) ∧
      (g = e.fv F.KPR_PART_TILES_GROUPS p ∨ (∀ k, k < 16 → ¬ leads k) →
        ∃ t, exec (.tilesWrite data) s = .next t ∧ t.eng.fv F.KPR_PART_TILES_GROUPS p = g ∧
          (∀ o j, j < 65536 → o ≠ 0xC018 ∨ j ≠ p → t.eng.reg o j = e.reg o j) ∧ t = s.withEng { e with regs := t.eng.regs })) ∧
    (tooMuch → exec (.rafResvWrite data) s =
      .next (s.withEng (e.raise { code := 0x0091, unit := 12, pid := p, part := true, arg := g }))) ∧
    (¬ tooMuch → (ring < 32 → ring < e.fv F.KPR_PART_RAF_RESV_RING p → i < 16 → (e.inst i).active = true → (e.inst i).owner = p → e.instIn i = true →
        wrapped (e.inst i).chips = true →
        exec (.rafResvWrite data) s = .next (s.withEng (e.raise { code := 0x0002, unit := 12, arg := 0xC054 }))) ∧
      (32 ≤ ring ∨ e.fv F.KPR_PART_RAF_RESV_RING p ≤ ring ∨ (∀ k, k < 16 → (e.inst k).active = true → (e.inst k).owner ≠ p) →
        ∃ t, exec (.rafResvWrite data) s = .next t ∧ taken 0xC054 (data &&& 0xFFFF) t))

/-- Semaphores (R491 to R497, R574). An ACQUIRE by an instance whose partition may not use the semaphore is refused and counted; one of a
free semaphore is granted; one of a semaphore held waits with its Tally, here where the holder is resident and waits for nothing. A RELEASE
by the holder frees the semaphore, or passes it to the waiter first by request Tally, owner's PID and instance; here no donation is open
and nothing else is waited for. A donation whose borrowed slice has lasted KPR_DONATE_WARN raises DONATION_LONG once. With the engine
absent both requests of the array are answered so. -/
def Obligations.SemaphoresPass : Prop :=
  ∀ (sem inst : Nat) (s : State),
    let e := s.eng
    let x := e.sem sem
    let o := (e.inst inst).owner
    let mine := (e.av F.KPR_SEM_PART_LO_PART sem + 2 ^ 32 * e.av F.KPR_SEM_PART_HI_PART sem) / 2 ^ o % 2 = 1
    let rest := fun (t : State) => ∀ k, k ≠ sem → t.eng.sem k = e.sem k
    (s.boot.absent = true →
      exec (.acquire sem inst) s = .next (s.withEng { e with out := .array .engineAbsent :: e.out }) ∧
      exec (.release sem inst) s = .next (s.withEng { e with out := .array .engineAbsent :: e.out })) ∧
    (s.boot.absent = false → sem < 64 → e.unitHalted 12 = false →
      ((e.inst inst).active = true → ¬ mine →
        ∃ t, exec (.acquire sem inst) s = .next t ∧ t.eng.out = .array (.semRefused sem inst) :: e.out ∧
          t.eng.fv F.KPR_SEM_DENIED_COUNT = min (e.fv F.KPR_SEM_DENIED_COUNT + 1) (2 ^ 32 - 1) ∧ s.Only [] [0xC1D4] t) ∧
      ((e.inst inst).active = true → mine → x.holder = none →
        ∃ t, exec (.acquire sem inst) s = .next t ∧ t.eng.out = .array (.semGranted sem inst) :: e.out ∧ rest t ∧
          t.eng.sem sem = { x with holder := some inst, swapped := decide ((e.ctx inst).state = 2) } ∧
          t = s.withEng { e with out := t.eng.out, kpr := { e.kpr with sems := t.eng.kpr.sems } }) ∧
      (∀ h, (e.inst inst).active = true → mine → x.holder = some h → x.swapped = false → h ≠ inst → (∀ w ∈ x.waiters, w.1 ≠ inst) →
        (∀ k, k < 64 → ∀ w ∈ (e.sem k).waiters, w.1 ≠ h) →
        ∃ t, exec (.acquire sem inst) s = .next t ∧ t.eng.sem sem = { x with waiters := x.waiters ++ [(inst, e.now)] } ∧ rest t ∧
          t.eng.out = e.out ∧ s.Only [12] [] t) ∧
      (x.holder = some inst → e.kpr.dons = [] → (∀ k, k < 64 → k ≠ sem → (e.sem k).waiters = []) →
        (x.waiters = [] →
          ∃ t, exec (.release sem inst) s = .next t ∧ t.eng.sem sem = {} ∧ rest t ∧ t.eng.out = e.out ∧ s.Only [12] [] t) ∧
        ∀ w ∈ x.waiters, (e.ctx w.1).state = 0 → (∀ v ∈ x.waiters, (e.inst v.1).owner < 64 ∧ v.1 < 16) →
          (∀ v ∈ x.waiters, v ≠ w → v.1 ≠ w.1 ∧ (w.2 < v.2 ∨ (w.2 = v.2 ∧ ((e.inst w.1).owner < (e.inst v.1).owner ∨
            ((e.inst w.1).owner = (e.inst v.1).owner ∧ w.1 < v.1))))) →
          ∃ t, exec (.release sem inst) s = .next t ∧ rest t ∧ t.eng.out = .array (.semGranted sem w.1) :: e.out ∧
            t.eng.sem sem = { holder := some w.1, swapped := false, waiters := x.waiters.filter (fun v => decide (v ≠ w)) } ∧
            s.Only [12] [] t)) ∧
    (s.boot.absent = false → s.Settled → ∀ d at_, e.kpr.dons = [d] → d.sem = sem → d.start = some at_ → d.warned = false →
      let a := e.advance (at_ + e.av F.KPR_DONATE_WARN_WARN)
      exec (.donationLong sem) s = .next (s.withEng (({ a with kpr := { a.kpr with dons := [{ d with warned := true }] } } : Eng).raise
        { code := 0x0094, unit := 12, pid := d.wpid, part := true, arg := sem + 2 ^ 8 * d.holder, inst := some d.holder })))

/-- Saves of a context (R472 to R479, R501). A drain or a freeze that Keeper wants, or the driver commands, makes a resident context SAVING;
a freeze tells the array to halt at the Tally that is the edge lead of R49 from now. At the halt Tally the array halts, and the Bins
entries of the instance go to its image. A save that has come to rest completes 2,000 t later for a LOCAL drain, once its copies are made
for an EXPORT, or when the freeze image is written: the image holds the instance's requests and the chips' shapes, the context is SAVED,
every sibling of it SWAPPED with its state kept in PRIOR, and the save is counted. Stated with mirroring off, no donation or waiter on a
semaphore, nothing of the instance in the Pantry or on the links, and nothing left to do in the tick that a save's time leaves. The model's
choices: 0x2A for a SAVE of an instance that is not resident or is SAVED, the Tally at which a freeze is complete, and when a driver's freeze
becomes a drain (assumption log 28); the bytes of an image (log 73). -/
def Obligations.ContextsAreSaved : Prop :=
  ∀ (w : Word) (inst : Nat) (shapes : List DWord) (s : State), s.boot.absent = false → inst < 16 →
    let e := s.eng
    let x := e.inst inst
    let c := e.ctx inst
    let rest := fun (t : State) => ∀ k, k ≠ inst → t.eng.ctx k = e.ctx k
    let lead := min (max (e.av (F.TAL_EDGE_LEAD_n_LEAD.at 4 inst)) (e.fv (F.TAL_EDGE_FLOOR_n_FLOOR.at 4 inst))) 100000
    let go := w.getLsbD 31 = true ∧ e.kpr.cmd = none ∧ w.toNat % 8 = 1 ∧ w.toNat / 2 ^ 8 % 16 = inst
    let saving : Ctx := { c with
      state := 1, want := 0, freeze := false, exported := none, byKeeper := true, holdAfter := false, halted := false, haltAt := none
      flushed := false, gone := false, copies := none, area := 0 }
    let frozen : Ctx := { saving with freeze := true, haltAt := some (e.now + lead), area := c.area }
    let home := x.active = true ∧ x.lead = true ∧ e.instIn inst = true ∧ c.state = 0
    (home → e.kprOn = true →
      (c.want = 1 → x.step = none →
        ∃ t, exec (.saveDrain none inst) s = .next t ∧ t.eng.ctx inst = saving ∧ rest t ∧
          t = s.withEng { e with kpr := { e.kpr with ctxs := t.eng.kpr.ctxs } }) ∧
      (c.want = 2 → (∀ k ∈ x.chips, k = e.self) →
        ∃ t, exec (.saveFreeze none inst) s = .next t ∧ t.eng.ctx inst = frozen ∧ rest t ∧ (∀ p, t.eng.part p = e.part p) ∧
          t = s.withEng { e with
            out := .array (.halt inst (e.now + lead)) :: e.out, kpr := { e.kpr with ctxs := t.eng.kpr.ctxs, parts := t.eng.kpr.parts } })) ∧
    (go → w.getLsbD 3 = false →
      (home → w.getLsbD 4 = false →
        ∃ t, exec (.saveDrain (some w) inst) s = .next t ∧ t.eng.ctx inst = { saving with byKeeper := false, holdAfter := true } ∧ rest t ∧
          t.eng.kpr = { e.kpr with cmd := some inst, ctxs := t.eng.kpr.ctxs } ∧ t.eng.reg 0xC100 = w &&& 0x00FF0F7F ∧
          s.Only [12] [0xC100] t) ∧
      (x.active = false ∨ e.instIn inst = false ∨ c.state = 2 →
        ∃ t, exec (.saveDrain (some w) inst) s = .next t ∧ t.eng.kpr = { e.kpr with cmd := none, cmdStatus := 0x2A } ∧
          s.Only [12] [0xC100] t)) ∧
    (go → w.getLsbD 3 = true → home → w.getLsbD 4 = false → (∀ k ∈ x.chips, k = e.self) →
      ∃ t, exec (.saveFreeze (some w) inst) s = .next t ∧ (t.eng.ctx inst).state = 1 ∧ (t.eng.ctx inst).holdAfter = true ∧
        t.eng.kpr.cmd = some inst ∧ rest t ∧
        ((t.eng.ctx inst).freeze = true → t.eng.out = .array (.halt inst (e.now + lead)) :: e.out ∧
          (t.eng.ctx inst).haltAt = some (e.now + lead) ∧ (t.eng.ctx inst).area ≤ e.areaFree inst) ∧ s.Only [12] [0xC100] t) ∧
    (∀ h, s.Settled → c.state = 1 → c.halted = false → c.haltAt = some h → e.now ≤ h → c.exported = none ∨ c.copies ≠ none →
      ∃ t, exec (.freezeHalt inst) s = .next t ∧ t.eng.now = h ∧ rest t ∧
        t.eng.ctx inst = { c with halted := true, haltAt := some h, imgBins := e.bin.entries.filter (fun b => decide (b.inst = inst)) } ∧
        t.eng.bin = { e.bin with entries := e.bin.entries.filter (fun b => decide (b.inst ≠ inst)) } ∧
        t.eng.inst inst = { x with step := x.step.map (fun st => { st with arrayDone := false, timer := none }) } ∧
        (∀ k, k ≠ inst → t.eng.inst k = e.inst k) ∧ s.Only [0, 4, 11, 12, 17] [] t) ∧
    (s.Settled → c.state = 1 → (if c.freeze then c.halted = true ∧ e.stw.run ≠ some inst ∧ e.rowsToCommit inst = false ∧
          e.av F.KPR_SAVE_RATE_RATE ≠ 0 ∧ c.haltAt.isSome = true
        else x.comp = none ∧ x.step = none ∧ c.flushed = true) →
      (c.exported.isSome = true → c.copies.isSome = true) → c.gone = false →
      e.led.recs.sorted = true → (∀ k r, e.rc k = some r → r.draftV = false) → e.mirrorOn = false → e.kpr.dons = [] →
      (∀ k, k < 64 → (e.sem k).waiters = []) → e.shv.ops = [] → (∀ y ∈ e.pan.demand ++ e.pan.background ++ e.pan.held, y.inst ≠ inst) →
      tget e.kpr.streamGrants inst = none → (∀ l, l < 9 → inst ∉ (e.link l).bAsked) →
      let done := if c.freeze then c.haltAt.getD 0 + 15000 + cdiv (e.arrayBytes inst) (min 8000 (e.av F.KPR_SAVE_RATE_RATE)) + 2000
        else if c.exported = none then e.now + 2000 else e.now
      let array := if c.freeze then e.arrayBytes inst * max 1 x.chips.length else 0
      let counted := if c.freeze then F.KPR_SAVES_FREEZE_COUNT else F.KPR_SAVES_DRAIN_COUNT
      ∃ t b m, exec (.saveComplete { inst, shapes }) s = .next t ∧ t.eng.now = max e.now done ∧
        .image inst (c.exported.getD (e.pairv 0xC118)) b m ∈ t.eng.out ∧ b = 256 + ((imgSections m).map (fun l => l.length)).sum + array ∧
        m.shape = (e.shapeWords inst shapes).map (BitVec.ofNat 64) ∧ m.reqs = t.eng.imageReqs inst ∧
        (t.eng.ctx inst).state = 2 ∧ (t.eng.ctx inst).frozen = c.freeze ∧ (t.eng.ctx inst).imgBytes = b ∧
        (t.eng.ctx inst).held = (c.holdAfter || c.exported.isSome || (c.held && c.byKeeper)) ∧ rest t ∧
        (∀ k, t.eng.rc k = (e.rc k).map (fun r => if r.inst = inst ∧ r.admitStamp ≠ 0 ∧ 1 ≤ r.state ∧ r.state ≤ 7
          then { r with prior := r.state, state := 8, priorPaused := r.prior } else r)) ∧
        (∀ k, k < 64 → (t.eng.sem k).swapped = ((e.sem k).swapped || decide ((e.sem k).holder = some inst))) ∧
        (e.kpr.cmd = some inst → t.eng.kpr.cmd = none ∧ t.eng.kpr.cmdStatus = 0) ∧
        t.eng.fv counted = min (e.fv counted + 1) (2 ^ 32 - 1) ∧
        s.Only [0, 2, 4, 6, 12, 15, 17] [0xC1C0, 0xC1C4] t)

/-- Restores and what ends an image (R472, R479, R483 to R488, R500, R501). A restore that Keeper wants, or the driver commands, makes a
SAVED context whose region is free RESTORING and asks for its configuration; where another one holds its tile groups the driver's
choice is noted for the slice end. A restore completes 2,000 t after the later of the load and the array's read: the context is resident
in the image's epoch and configuration, each SWAPPED sibling returns to PRIOR, Bins entries of other epochs are gone, and the restore is
counted. An EXPORT image that is missing or not valid is refused. A DISCARD drops the image of a LOCAL context, or an EXPORT image that is
valid. Stated where no grant of leave is needed, with mirroring off, no donation and no waiter, for a context with nothing frozen, no
change pending and no group in Cellar, and with nothing left to do in the tick that a restore's time leaves. The model's choices (assumption
log 28): ST_OK at once for a driver's RESTORE whose region another context holds, and 0x2A for a DISCARD of a context that is not SAVED. -/
def Obligations.ContextsAreRestored : Prop :=
  ∀ (w : Word) (source : RestoreSource) (image : Option Image) (m : Image) (inst : Nat) (s : State), s.boot.absent = false → inst < 16 →
    let e := s.eng
    let x := e.inst inst
    let c := e.ctx inst
    let rest := fun (t : State) => ∀ k, k ≠ inst → t.eng.ctx k = e.ctx k
    let go := fun (op : Nat) => w.getLsbD 31 = true ∧ e.kpr.cmd = none ∧ w.toNat % 8 = op ∧ w.toNat / 2 ^ 8 % 16 = inst
    let logical := w.getLsbD 5
    let ask := Out.array (.loadConfig inst c.imgCfg (e.fv F.KPR_PART_TILES_GROUPS x.owner) (e.instModel inst).cfgAddr)
    let restoring : Ctx := { c with
      state := 3, want := 0, next := false, cfgIn := false, readyAt := e.now, logicalOnly := false, exported := none }
    let read := fun (t : State) => ∀ p, t.eng.part p = { e.part p with storeB := (e.part p).storeB + if p = x.owner then c.imgBytes else 0 }
    let addr := e.pairv 0xC104 / 4096 * 4096 + 2 ^ 64 * (w.getLsbD 6).toNat
    (e.av F.KPR_LEAVE_AMT_CONFIG = 0 → c.state = 2 → c.gone = false → c.frozen = false →
      (e.kprOn = true → c.want = 3 → c.next = false → e.regionFree inst = true → e.backWaits inst = false →
        ∃ t, exec (.restore none inst source) s = .next t ∧ t.eng.ctx inst = restoring ∧ rest t ∧ read t ∧
          t = s.withEng { e with out := ask :: e.out, kpr := { e.kpr with
            ctxs := t.eng.kpr.ctxs, parts := t.eng.kpr.parts, back := e.kpr.back.filter (fun j => decide (j ≠ inst)) } }) ∧
      (go 2 → w.getLsbD 4 = false → x.active = true → e.ringPid (w.toNat / 2 ^ 16 % 256) = x.owner →
        (e.regionFree inst = true →
          ∃ t, exec (.restore (some w) inst source) s = .next t ∧ t.eng.ctx inst = { restoring with logicalOnly := logical } ∧ rest t ∧
            read t ∧ t.eng.kpr.cmd = some inst ∧ t.eng.out = ask :: e.out ∧ s.Only [12] [0xC100] t) ∧
        (e.regionFree inst = false →
          ∃ t, exec (.restore (some w) inst source) s = .next t ∧ t.eng.kpr.cmd = none ∧ t.eng.kpr.cmdStatus = 0 ∧ rest t ∧
            t.eng.ctx inst = { c with held := false, next := true, logicalOnly := logical } ∧ s.Only [12] [0xC100] t))) ∧
    (go 2 → (if w.getLsbD 4 then ∀ y, source.image = some y → imgValid y = false else c.gone = true) →
      ∃ t, exec (.restore (some w) inst source) s = .next t ∧ t.eng.kpr = { e.kpr with cmd := none, cmdStatus := 0x2B } ∧
        s.Only [12, 17] [0xC100] t) ∧
    (s.Settled → c.state = 3 → c.cfgIn = true → x.changing = false → c.saveAfter = none → c.logicalOnly = false → c.imgBins = [] → e.kpr.dons = [] →
      (∀ k, k < 64 → (e.sem k).waiters = []) → e.led.recs.sorted = true → e.mirrorOn = false →
      (∀ z ∈ e.shv.groups, z.2.tier ≠ 2 ∧ (z.2.state = 2 → z.2.dest ≠ 2)) →
      ∃ t, exec (.restoreComplete inst) s = .next t ∧ t.eng.now = max e.now (c.readyAt + 2000) ∧ rest t ∧
        t.eng.inst inst = { x with epoch := c.imgEpoch, cfg := c.imgCfg, quiet := false, step := if c.frozen then x.step.map (fun st =>
          { st with arrayDone := false, timer := none }) else x.step } ∧ (∀ k, k ≠ inst → t.eng.inst k = e.inst k) ∧
        t.eng.ctx inst = { c with
          state := 0, held := false, frozen := false, cfgIn := false, area := 0, imgBins := [], donating := false, logicalOnly := false
          sliceStart := if e.fv F.KPR_PART_CTL_MODE x.owner = 1 then some t.eng.now else none } ∧
        (∀ k, t.eng.rc k = (e.rc k).map (fun r => if r.inst = inst ∧ r.admitStamp ≠ 0 ∧ r.state = 8
          then { r with state := r.prior, prior := if r.prior = 7 then r.priorPaused else r.prior } else r)) ∧
        (∀ k, k < 64 → (t.eng.sem k).swapped = ((e.sem k).swapped && decide ((e.sem k).holder ≠ some inst))) ∧
        (e.kpr.cmd = some inst → t.eng.kpr.cmd = none ∧ t.eng.kpr.cmdStatus = 0) ∧
        t.eng.bin = { e.bin with entries := e.bin.entries.filter (fun b => decide (b.inst ≠ inst ∨ b.epoch = c.imgEpoch)) } ∧
        t.eng.fv F.KPR_RESTORES_COUNT = min (e.fv F.KPR_RESTORES_COUNT + 1) (2 ^ 32 - 1) ∧ s.Only [0, 2, 4, 10, 11, 12, 15, 17] [0xC1C8] t) ∧
    (go 3 →
      (w.getLsbD 4 = false → c.state = 2 → x.comp = none → x.step = none →
        ∃ t, exec (.discard w image) s = .next t ∧ rest t ∧ t.eng.kpr.cmd = none ∧ t.eng.kpr.cmdStatus = 0 ∧
          t.eng.ctx inst = { c with gone := true, frozen := false, imgBins := [], want := 0, next := false, area := 0 } ∧
          s.Only [12] [0xC100] t) ∧
      (w.getLsbD 4 = false → c.state ≠ 2 →
        ∃ t, exec (.discard w image) s = .next t ∧ t.eng.kpr = { e.kpr with cmd := none, cmdStatus := 0x2A } ∧ s.Only [12] [0xC100] t) ∧
      (w.getLsbD 4 = true → imgValid m = true →
        ∃ t, exec (.discard w (some m)) s = .next t ∧ s.Only [12] [0xC100] t ∧
          t.eng.kpr = { e.kpr with cmd := none, cmdStatus := 0, exports := e.kpr.exports.filter (fun y => decide (y.1 ≠ addr)) }))

/-- Slices and evictions (R448 to R450, R498 to R501). When the slice of a sliced partition's running instance has lasted SLICE, the instance
starts another one where no other wants the region, and else is to be saved by drain, and the driver's choice to be restored. When every resident
context has been blocked for KPR_BLOCK_WINDOW and a context is runnable, one that makes way is to be saved and the runnable one restored, and
the eviction is counted. Stated where the tick that is left has nothing left to do. -/
def Obligations.SlicesAndEvictions : Prop :=
  ∀ (pid i j : Nat) (s : State), s.boot.absent = false → s.Settled → i < 16 →
    let e := s.eng
    let c := e.ctx i
    let u := e.watchBlock
    let w := e.av F.KPR_BLOCK_WINDOW_WINDOW
    (e.kprOn = true →
      (∀ from_, e.fv F.KPR_PART_CTL_MODE pid = 1 → e.fb F.KPR_PART_CTL_EN pid = true → e.running pid = some i → c.sliceStart = some from_ →
        (e.inst i).step.isSome = true →
        let T := max e.now (from_ + (max 100000 (e.av F.KPR_PART_SLICE_SLICE pid) - c.sliceUsed))
        (e.rivals i = [] →
          ∃ t, exec (.sliceEnd pid) s = .next t ∧ t.eng.now = T ∧ t.eng.ctx i = { c with sliceStart := some T, sliceUsed := 0 } ∧
            (∀ k, k ≠ i → t.eng.ctx k = e.ctx k) ∧ s.Only [0, 12, 17] [] t) ∧
        (e.rivals i = [j] → (e.ctx j).state = 2 → (e.ctx j).held = false → (e.ctx j).gone = false → (e.ctx j).next = true →
          ∃ t, exec (.sliceEnd pid) s = .next t ∧ t.eng.now = T ∧ t.eng.ctx i = { c with want := 1, area := 0 } ∧
            t.eng.ctx j = { e.ctx j with want := 3 } ∧ (∀ k, k ≠ i → k ≠ j → t.eng.ctx k = e.ctx k) ∧ s.Only [0, 12, 17] [] t)) ∧
      (∀ from_, w ≠ 0 → u.kpr.blockSince = some from_ → u.takeRunnable = some j →
        let a := u.advance (from_ + w)
        ({ a with kpr := { a.kpr with blockSince := some a.now } } : Eng).evictee j = some i → (e.inst i).step = none → c.want = 0 →
        ∃ t, exec .blockWindowExpiry s = .next t ∧ t.eng.now = max e.now (from_ + w) ∧ t.eng.ctx i = { c with want := 1, area := 0 } ∧
          t.eng.ctx j = { e.ctx j with want := 3 } ∧ (∀ k, k ≠ i → k ≠ j → t.eng.ctx k = e.ctx k) ∧
          t.eng.fv F.KPR_EVICTIONS_COUNT = min (e.fv F.KPR_EVICTIONS_COUNT + 1) (2 ^ 32 - 1) ∧ s.Only [0, 12, 17] [0xC1CC] t))

/-- Power leave (R503 to R516). At a window's start the draw delivered becomes the baseline, here with no grant standing; its energy is
attributed by engine time, what nobody used is counted as unattributed, and a draw above the cap is counted and raised; with none delivered
the baseline is withdrawn and DRAW_MISSING captured. At the start of a grant its requester is told, and its configuration load or its
Pantry command goes on. A request that has waited KPR_LEAVE_WAIT is late, or for PREFILL refused, here of a step that is no longer
composed. The end of the tick then decides the requests that wait. Stated where the tick that is left has nothing left to do. -/
def Obligations.PowerLeaveRuns : Prop :=
  ∀ (d : Nat) (g : Leave) (s : State), s.boot.absent = false → s.Settled → s.eng.kprOn = true → d < 8192 →
    let e := s.eng
    let T := roundUp (max e.now e.kpr.nextWindow) 10000
    let cap := max 2400 (min 6000 (min (e.av F.KPR_PWR_CAP_CAP) (e.fv F.KPR_PWR_CAP_MAX_MAX)))
    let ns := ((List.range 64).map (fun p => (e.part p).winNs)).sum
    let share := fun (p : Nat) => if ns = 0 then 0 else d * 2500 * (e.part p).winNs / ns
    let stays := (e.kpr.grants.filter (fun l => l.ended.isNone))
    let on := fun (c : PanCmd) => if g.cls = 1 ∧ c.id = g.who then { c with leaveOk := true } else c
    let W := max e.now (g.since + e.av F.KPR_LEAVE_WAIT_WAIT)
    ((e.kpr.grants = [] →
        ∃ t, exec (.leaveWindowStart (some d)) s = .next t ∧ t.eng.now = T ∧ t.eng.kpr.deciding = true ∧ t.eng.kpr.draw = d ∧ t.eng.kpr.base = some d ∧
          t.eng.kpr.overCap = decide (cap < d) ∧ t.eng.kpr.winStart = T ∧ t.eng.kpr.nextWindow = T + 1 ∧
          (∀ p, p < 64 → (t.eng.part p).energy = (e.part p).energy + share p ∧ (t.eng.part p).winNs = 0) ∧
          t.eng.kpr.unattr = e.kpr.unattr + (d * 2500 - ((List.range 64).map share).sum) ∧
          t.eng.fv F.KPR_POWER_OVER_COUNT =
            (if cap < d then min (e.fv F.KPR_POWER_OVER_COUNT + 1) (2 ^ 32 - 1) else e.fv F.KPR_POWER_OVER_COUNT) ∧
          s.Only [0, 1, 12, 17] [0xC24C] t) ∧
      ∃ t, exec (.leaveWindowStart none) s = .next t ∧ t.eng.now = T ∧
        t.eng.kpr = { (e.advance T).kpr with
          base := none, nextWindow := T + 1, winStart := T, grants := stays, deciding := true, parts := t.eng.kpr.parts } ∧
        (∀ p, p < 64 → t.eng.part p = { (e.advance T).part p with winNs := 0 }) ∧
        ((e.cap_ 12).handling = false → (t.eng.cap_ 12).handling = true ∧
          ∃ f, (t.eng.cap_ 12).cap1 = some f ∧ f.code = 0x090 ∧ f.unit = 12 ∧ f.cls = 1 ∧ f.stamp = T) ∧
        (∀ u, u ≠ 12 → t.eng.cap_ u = e.cap_ u) ∧ s.Only [0, 1, 12, 16, 17] [0xF024] t) ∧
    (e.kpr.grants = [g] → g.started = false → g.ended = none → e.now ≤ g.start →
      ∃ t, exec .leaveStart s = .next t ∧ t.eng.now = g.start ∧ t.eng.kpr.grants = [{ g with started := true }] ∧
        .leaveTold g.cls g.who g.start ∈ t.eng.out ∧
        (g.cls = 0 → .array (.loadConfig g.who g.step (e.fv F.KPR_PART_TILES_GROUPS (e.inst g.who).owner)
          (e.instModel g.who).cfgAddr) ∈ t.eng.out) ∧
        t.eng.pan = { e.pan with demand := e.pan.demand.map on, background := e.pan.background.map on } ∧
        s.Only [0, 7, 12, 17] [] t) ∧
    (e.kpr.queue = [g] → e.kpr.heldReqs = [] → g.unmade = false → g.late = false → e.av F.KPR_LEAVE_WAIT_WAIT ≠ 0 →
      (g.cls ≠ 2 →
        ∃ t, exec .leaveWaitExpiry s = .next t ∧ t.eng.now = W ∧ t.eng.kpr.deciding = true ∧ t.eng.kpr.queue = [{ g with late := true }] ∧
          t.eng.fv F.KPR_LEAVE_LATE_COUNT = min (e.fv F.KPR_LEAVE_LATE_COUNT + 1) (2 ^ 32 - 1) ∧ s.Only [0, 1, 12, 17] [0xC248] t) ∧
      (g.cls = 2 → g.step ≠ ((e.inst g.who).comp.getD Comp.none).num →
        ∃ t, exec .leaveWaitExpiry s = .next t ∧ t.eng.now = W ∧ t.eng.kpr.deciding = true ∧ t.eng.kpr.queue = [] ∧ t.eng.kpr.heldReqs = [] ∧
          t.eng.fv F.KPR_LEAVE_REFUSED_COUNT = min (e.fv F.KPR_LEAVE_REFUSED_COUNT + 1) (2 ^ 32 - 1) ∧
          s.Only [0, 1, 12, 17] [0xC244] t))

/-! ### Rafter -/

/-- Lanes (R521 to R531, R553, R554). A trained lane sends IDENT; one without lock for 500,000,000 t tries again, and is disabled after the
third time; one without an IDENT for 1,000,000 t trains again, and until then IDENT is sent every 10,000 t. A lane in service that loses lock
trains again and raises LANE_DOWN, here while another one keeps its link. A link that has been silent for 2 intervals loses its lanes and its
chip is lost, here with no instance and no map; a logical lane out of ACTIVE for as long is given the spare. An IDENT puts its
lane in ACTIVE where R530 places it, in COURTESY where version or map differ, and disables it where no row places it. What carries the
Tally forward is stated where the tick that is left has nothing left to do. The model's readings (assumption log 30): that the IDENT which puts a
lane in ACTIVE ends the loss of its chip, that VER_MAX gives the peer's major version, and that a logical lane never ACTIVE left it at Tally 0. -/
def Obligations.LanesChangeState : Prop :=
  ∀ (lane : Nat) (frame : RxFrame) (s : State), s.boot.absent = false → s.eng.rafOn = true → lane < 12 →
    let e := s.eng
    let x := e.lane lane
    let rest := fun (t : State) => ∀ p, p ≠ lane → t.eng.lane p = e.lane p
    let out1 : Lane := { x with st := 1, log := none, ver := 0 }
    let identFrame := fun (f : Frame) => f.typ = 1 ∧ f.src = e.self ∧ f.dst = e.lanePeer lane ∧ f.len = 16 ∧
      f.words = [e.fv F.RAF_POS_POS + 2 ^ 22 * lane + (if lane = 11 then 2 ^ 26 else 0) + 2 ^ 32 * e.raf.mapId, 0x02010200]
    let interval := max 10000 (e.av F.RAF_SYNC_CFG_INTERVAL)
    (x.st = 1 →
      (∃ t f, exec (.laneTrained lane) s = .next t ∧ t.eng.out = .laneFrame lane f :: e.out ∧ identFrame f ∧ rest t ∧
        t.eng.lane lane = { out1 with st := 2, since := e.now, fails := 0, identSent := e.now } ∧ s.Only [13, 15, 17] [] t) ∧
      (s.Settled → let T := max e.now (x.since + 500000000)
        ∃ t, exec (.laneTrainTimeout lane) s = .next t ∧ t.eng.now = T ∧ rest t ∧ s.Only [0, 1, 12, 13, 15, 17] [] t ∧
          t.eng.lane lane = if x.fails < 2 then { out1 with since := T, fails := x.fails + 1 } else { out1 with st := 5, since := T, fails := 0 })) ∧
    (s.Settled → x.st = 2 →
      (∃ t, exec (.identTimeout lane) s = .next t ∧ t.eng.now = max e.now (x.since + 1000000) ∧ rest t ∧
        t.eng.lane lane = { out1 with since := t.eng.now } ∧ s.Only [0, 12, 13, 15, 17] [] t) ∧
      (x.identSent + 10000 < x.since + 1000000 →
        ∃ t f, exec (.identResend lane) s = .next t ∧ t.eng.now = max e.now (x.identSent + 10000) ∧ rest t ∧
          t.eng.out = .laneFrame lane f :: e.out ∧ identFrame f ∧ t.eng.lane lane = { x with identSent := t.eng.now } ∧
          s.Only [0, 12, 13, 17] [] t)) ∧
    (∀ n q m, x.log = some n → q < 12 → q ≠ lane → (e.lane q).st = 3 → (e.lane q).log = some m →
      (linkLanes (laneLink n)).contains m = true →
      ∃ t, exec (.fecLockLoss lane) s = .next t ∧ t.eng.lane lane = { out1 with since := e.now } ∧ rest t ∧ t.eng.now = e.now ∧
        s.Only [1, 13, 14, 15, 16, 17] [0xF024] t) ∧
    (∀ link, s.Settled → link < 9 → (e.lanesOf link [3, 4]) ≠ [] → (∀ i, i < 16 → (e.inst i).active = false) → e.raf.mapLoaded = false →
      (e.link link).waiting = [] → e.ras.sled.chip = none → e.ras.ring.chip = none →
      let last := ((e.lanesOf link [3, 4]).map (fun p => (e.lane p).lastFrame)).foldl max 0
      ∃ t, exec (.linkSilence link) s = .next t ∧ t.eng.now = max e.now (last + 2 * interval) ∧ linkPeer e.self link ∈ t.eng.raf.lost ∧
        (∀ p, p ∈ e.lanesOf link [3, 4] → (t.eng.lane p).st = 1 ∧ (t.eng.lane p).log = none) ∧
        (∀ p, p ∉ e.lanesOf link [3, 4] → t.eng.lane p = e.lane p) ∧ s.Only [0, 1, 12, 13, 15, 16, 17] [0xF024] t) ∧
    (∀ n, s.Settled → n < 11 → e.raf.mapLoaded = true → (∀ p, p < 12 → (e.lane p).st = 3 → (e.lane p).log ≠ some n) → (e.lane 11).st = 0 →
      ∃ t, exec (.spareJoin n) s = .next t ∧ t.eng.now = max e.now (tgetD e.raf.downAt n 0 + 2 * interval) ∧
        t.eng.raf.spareAsked = some n ∧ t.eng.lane 11 = { e.lane 11 with st := 1, since := t.eng.now, log := none, ver := 0 } ∧
        (∀ p, p ≠ 11 → t.eng.lane p = e.lane p) ∧ s.Only [0, 1, 12, 13, 15, 17] [] t) ∧
    (let f := frameOf frame
      let w0 := f.words.getD 0 0
      let w1 := f.words.getD 1 0
      let pos := w0 % 2 ^ 22
      let peer : Lane := { x with
        peerPos := pos, peerLane := w0 / 2 ^ 22 % 2 ^ 4, peerMap := w0 / 2 ^ 32 % 2 ^ 32, verMin := w1 % 2 ^ 16
        verMax := w1 / 2 ^ 16 % 2 ^ 16, lastFrame := e.now }
      let fits := peer.verMax / 256 = 2 ∧ peer.peerMap = e.raf.mapId
      x.st = 2 → x.log = none → rxOk frame = true → f.typ = 1 → f.len = 16 →
      (∀ n, e.placeLane lane pos peer.peerLane = some n → n < 11 →
        (fits → e.mirrorOn = false → (e.link (laneLink n)).waiting = [] →
          ∃ t, exec (.ident lane frame) s = .next t ∧ rest t ∧ tgetD t.eng.raf.remap n n = lane ∧
            t.eng.lane lane = { peer with st := 3, since := e.now, log := some n, ver := min 0x0201 peer.verMax } ∧
            t.eng.raf.lost = e.raf.lost.filter (fun c => decide (c ≠ pos % 64)) ∧ s.Only [1, 13, 14, 15, 17] [] t) ∧
        (¬ fits →
          ∃ t, exec (.ident lane frame) s = .next t ∧ rest t ∧
            t.eng.lane lane = { peer with st := 4, since := e.now, log := some n, ver := min 0x0201 peer.verMax } ∧
            s.Only [1, 13, 15, 17] [] t)) ∧
      (e.placeLane lane pos peer.peerLane = none →
        ∃ t, exec (.ident lane frame) s = .next t ∧ rest t ∧
          t.eng.lane lane = { peer with st := 5, since := e.now, log := none, ver := 0 } ∧ s.Only [1, 13, 15, 17] [] t))

/-- Tally synchronisation (R43, R547 to R551). At a multiple of INTERVAL a SYNC goes out on each link in service, and an exchange still open is
counted as missed. A SYNC is answered with its stamps and the sender's advertisement kept in place of what the link
told before; one with a bad CRC is counted and discarded. An
answer from the parent gives the offset: in FREE the Tally takes the parent's time and the engine is ACQUIRING; in LOCKED the servo
is steered; beyond 50 t the engine is FREE. With no parent for 2 intervals since the last was lost ACQUIRING ends in FREE and LOCKED in
HOLDOVER, in which the bound rises every 200,000 t up to 50. Stated for an engine that is no master; the lane's calibration is 0 where a
stamp is given; for the way to FREE, with no step of a multi-chip instance whose edge is to come; and for what carries the Tally forward, with
nothing left to do in the tick that is left. That a quotient is cut toward 0, and that FREE becomes ACQUIRING at the parent's first answer, are the
model's readings (assumption log 43). -/
def Obligations.TallySynchronises : Prop :=
  ∀ (lane n lost : Nat) (frame : RxFrame) (s : State), s.boot.absent = false → s.eng.rafOn = true →
    let e := s.eng
    let f := frameOf frame
    let w := fun (k : Nat) => f.words.getD k 0
    let heard : Lane := { e.lane lane with lastFrame := e.now }
    let rest := fun (t : State) => ∀ p, p ≠ lane → t.eng.lane p = e.lane p
    let interval := max 10000 (e.av F.RAF_SYNC_CFG_INTERVAL)
    let stamp := fun (a b : Nat) => ((a * 65536 + b % 65536 : Nat) : Int)
    let t4 : Int := frame.arrival
    let theta := sgn 48 (unsgn 48 (((stamp (w 2) (w 3) - stamp (w 0) (w 1)) + (stamp (w 4) (w 5) - t4)).tdiv 2))
    let free := fun (t : State) => t.eng.tal.state = 0 ∧ t.eng.tal.errBound = 255 ∧ t.eng.raf.parent = none ∧ t.eng.raf.depth = 15
    let calm := ∀ i, i < 16 → (e.inst i).active = true → (e.inst i).chips.length ≤ 1 ∨ e.stepAhead i = false
    (s.Settled → ∃ t, exec .syncSend s = .next t ∧ t.eng.now = roundUp (max e.now e.raf.nextSync) interval ∧ t.eng.raf.nextSync = t.eng.now + 1 ∧
      t.eng.raf.syncOpen = e.raf.parent.isSome ∧
      t.eng.fv F.RAF_SYNC_MISSED_COUNT = (if e.raf.syncOpen = true ∧ e.raf.parent.isSome = true
        then min (e.fv F.RAF_SYNC_MISSED_COUNT + 1) (2 ^ 32 - 1) else e.fv F.RAF_SYNC_MISSED_COUNT) ∧
      (∀ l, l < 9 → e.lanesOf l [3, 4] ≠ [] → ∃ p ∈ e.lanesOf l [3, 4], ∃ g, .laneFrame p g ∈ t.eng.out ∧ g.typ = 2 ∧ g.len = 96 ∧
        g.src = e.self ∧ g.dst = linkPeer e.self l) ∧ s.Only [0, 12, 13, 17] [0xD090] t) ∧
    ((e.lane lane).log = some n →
      (rxOk frame = true → f.typ = 2 → f.len = 96 →
        ∃ t g, exec (.sync lane frame) s = .next t ∧ .laneFrame lane g ∈ t.eng.out ∧ g.typ = 3 ∧ g.len = 48 ∧
          g.dst = linkPeer e.self (laneLink n) ∧ g.words.take 2 = [w 0, w 1 % 65536] ∧ t.eng.lane lane = heard ∧ rest t ∧
          (∀ m, m ≠ n → laneLink m = laneLink n → tget t.eng.raf.adv m = none) ∧
          tget t.eng.raf.adv n = some {
            state := w 1 / 2 ^ 16 % 4, depth := w 1 / 2 ^ 18 % 16, errBound := w 1 / 2 ^ 24 % 256,
            voting := w 2 / 2 ^ 32 % 8, voteTheta := sgn 32 (w 3 % 2 ^ 32) } ∧ s.Only [1, 13, 14, 17] [] t) ∧
      (rxOk frame = false → f.typ = 2 →
        ∃ t, exec (.sync lane frame) s = .next t ∧ t.eng.lane lane = heard ∧ rest t ∧
          t.eng.fv F.RAF_CRC_ERR_COUNT = min (e.fv F.RAF_CRC_ERR_COUNT + 1) (2 ^ 32 - 1) ∧ s.Only [13, 17] [0xD080] t) ∧
      (rxOk frame = true → f.typ = 3 → f.len = 48 → e.isMaster = false → e.isActing = false →
        e.raf.parent.map laneLink = some (laneLink n) →
        s.boot.cal.getD lane 0 = 0 →
        (e.tal.state = 0 →
          ∃ t, exec (.syncReply lane frame) s = .next t ∧ t.eng.tal.state = 1 ∧ t.eng.now = unsgn 80 (t4 + theta) / 65536 ∧
            t.eng.raf.theta = theta ∧ t.eng.raf.syncOpen = false ∧ s.Only [0, 1, 3, 12, 13, 14, 17] [] t) ∧
        (e.tal.state = 2 → theta.natAbs ≤ 50 * 65536 → e.raf.depth ≤ 8 →
          ∃ t, exec (.syncReply lane frame) s = .next t ∧ t.eng.raf.theta = theta ∧ t.eng.raf.syncOpen = false ∧
            t.eng.raf.rate = max (-(2 ^ 26 : Int)) (min (2 ^ 26)
              ((theta * 2 ^ 23).tdiv interval + ((e.raf.servoAcc + theta) * 2 ^ 20).tdiv interval)) ∧
            t.eng.raf.servoAcc = sgn 64 (unsgn 64 (e.raf.servoAcc + theta)) ∧ s.Only [13, 17] [] t) ∧
        (e.tal.state = 2 ∨ e.tal.state = 3 → 50 * 65536 < theta.natAbs → calm →
          ∃ t, exec (.syncReply lane frame) s = .next t ∧ free t ∧ s.Only [13, 14, 17] [] t))) ∧
    (s.Settled → e.isActing = false → e.raf.parent = none → e.raf.orphanAt = some lost →
      let T := max e.now (lost + 2 * interval)
      (e.tal.state = 1 → calm →
        ∃ t, exec .tallyParentTimeout s = .next t ∧ t.eng.now = T ∧ free t ∧ s.Only [0, 12, 13, 14, 17] [] t) ∧
      (e.tal.state = 2 →
        ∃ t, exec .tallyParentTimeout s = .next t ∧ t.eng.now = T ∧ t.eng.tal.state = 3 ∧ t.eng.tal.errBound = e.tal.errBound ∧
          t.eng.raf.parent = none ∧ t.eng.raf.nextRise = T + 200000 ∧ s.Only [0, 12, 13, 14, 17] [] t)) ∧
    (s.Settled → e.tal.state = 3 → e.tal.errBound < 50 ∨ calm →
      ∃ t, exec .holdoverBoundRise s = .next t ∧ t.eng.now = max e.now e.raf.nextRise ∧ s.Only [0, 12, 13, 14, 17] [] t ∧
        (if 50 ≤ e.tal.errBound then free t else t.eng.tal.state = 3 ∧ t.eng.tal.errBound = e.tal.errBound + 1 ∧
          t.eng.raf.nextRise = t.eng.now + 200000 ∧ t.eng.raf.parent = e.raf.parent))

/-- Link credits and the loss of a peer (R533 to R537, R553, R554). A CREDIT returns S credits up to those sent, acknowledges the frames before
NEXT_SEQ, gives B credits to an instance that has asked for them, and with RETRY has the frames still open sent again. A CREDIT_REQ is granted from the free buffers and a
CREDIT_RETURN ends the hold, of which every buffer is then free; a PEER_LOST not seen before is forwarded on every other ACTIVE link that has a credit
and the chip is lost. Each sequenced frame that is the one expected is taken, and its S credit returned. Stated with nothing waiting on the
link, no request for buffers open and, for PEER_LOST, with no instance and no map. That RAF_RETRY counts an occasion, and not each frame sent
again, is the model's reading (assumption log 44). -/
def Obligations.LinkCredits : Prop :=
  ∀ (link : Nat) (frame : RxFrame) (s : State), s.boot.absent = false → s.eng.rafOn = true → link < 9 → s.eng.linkActive link = true →
    rxOk frame = true → (s.eng.link link).waiting = [] → (s.eng.link link).bAsks = [] →
    let e := s.eng
    let f := frameOf frame
    let k := e.link link
    let rest := fun (t : State) => ∀ l, l ≠ link → t.eng.link l = e.link l
    let i := f.arg % 16
    let n := f.arg / 16 % 16
    let given := tgetD k.bGiven i 0
    let took : Link := { k with recvSeq := (k.recvSeq + 1) % 65536, gap := false, sConsumed := k.sConsumed + 1 }
    let expected := f.dst = e.self ∧ f.seq = k.recvSeq
    let open_ := k.unacked.filter (fun g => decide ((g.seq + 65536 - f.arg / 2 ^ 16 % 2 ^ 16) % 65536 < 32768))
    let again := f.arg / 2 ^ 32 % 2 = 1 ∧ open_ ≠ []
    let b := if f.len = 2 then (f.words.getD 0 0 % 16, f.words.getD 0 0 % 65536 / 16) else (0, 0)
    let c := f.arg % 64
    let at_ := f.arg / 2 ^ 8 % 2 ^ 56
    (f.typ = 4 → f.len = 0 ∨ f.len = 2 →
      ∃ t, exec (.credit link frame) s = .next t ∧ rest t ∧
        t.eng.link link = { k with
          sDone := min k.sSent (k.sDone + (f.arg % 65536 + 65536 - k.sDone % 65536) % 65536)
          unacked := open_, bHeld := (t.eng.link link).bHeld } ∧
        (∀ j, tgetD (t.eng.link link).bHeld j 0 = tgetD k.bHeld j 0 + (if j = b.1 ∧ j ∈ k.bAsked then b.2 else 0)) ∧
        (again → (∀ g ∈ open_, .frame link g ∈ t.eng.out) ∧
          t.eng.fv F.RAF_RETRY_COUNT = min (e.fv F.RAF_RETRY_COUNT + 1) (2 ^ 32 - 1)) ∧ s.Only [13, 17] [0xD084] t) ∧
    (f.typ = 5 → expected → 1 ≤ n → n ≤ 8 → n ≤ k.bFree →
      ∃ t g, exec (.creditReq link frame) s = .next t ∧ rest t ∧ .frame link g ∈ t.eng.out ∧ g.typ = 4 ∧ g.len = 2 ∧ g.words = [i + 16 * n] ∧
        t.eng.link link = { took with bFree := k.bFree - n, bGiven := tsetD k.bGiven i (given + n) 0 } ∧ s.Only [13, 17] [] t) ∧
    (f.typ = 6 → expected →
      ∃ t, exec (.creditReturn link frame) s = .next t ∧ rest t ∧
        t.eng.link link = { took with bFree := k.bFree + given, bGiven := tdel k.bGiven i } ∧ s.Only [13, 17] [] t) ∧
    (f.typ = 7 → expected → (∀ j, j < 16 → (e.inst j).active = false) → e.raf.mapLoaded = false → e.ras.sled.chip = none →
      e.ras.ring.chip = none → c ≠ e.self → (c, at_) ∉ e.raf.seenLost →
      ∃ t, exec (.peerLost link frame) s = .next t ∧ c ∈ t.eng.raf.lost ∧ (c, at_) ∈ t.eng.raf.seenLost ∧
        (∀ l, l < 9 → l ≠ link → e.linkActive l = true → (e.link l).waiting = [] → (e.link l).sSent < (e.link l).sDone + 48 →
          ∃ g, .frame l g ∈ t.eng.out ∧ g.typ = 7 ∧ g.src = f.src ∧ g.dst = linkPeer e.self l ∧ g.arg = c + 256 * at_) ∧
        t.eng.link link = took ∧ s.Only [12, 13, 17] [] t)

/-- What an engine does with the frames of an instance's step (R53, R206, R290, R476, R539, R540, R544). A follower keeps a segment of a step that
it may still arm, here where nothing is to be forwarded and the broadcast is not yet whole; at STEP_ABORT the array discards the step and
its window closes; at FREEZE the instance halts at the halt Tally, or at once; the record of a match starts a sibling's map. The lead
declares a step lost for which STEP_LATE comes: the array discards it, and its slots that have not committed, VOID ones among them, are carried to
the next one with its number and their places in it (R202); here with no composition open, no sibling ended and nothing in Bins. That a committed
slot is not carried is the model's reading (assumption log 65). -/
def Obligations.PeerFramesOfSteps : Prop :=
  ∀ (link i : Nat) (st : Step) (frame : RxFrame) (s : State), s.boot.absent = false → s.eng.rafOn = true → link < 9 →
    s.eng.linkActive link = true → rxOk frame = true →
    let e := s.eng
    let f := frameOf frame
    let x := e.inst i
    let step := f.arg % 2 ^ 48
    let b := e.bcastGet f.src f.inst step
    let b' := b.take (f.arg / 2 ^ 48 % 8) (f.arg / 2 ^ 52 % 2 ^ 12) (decide (f.arg / 2 ^ 51 % 2 = 1)) f.words
    let insts := fun (t : State) => ∀ j, j ≠ i → t.eng.inst j = e.inst j
    let again := (((List.range st.slots.length).zip st.slots).map (fun p => { p.2 with lostStep := st.num, lostIdx := p.1 })).filter
      (fun (y : Slot) => !(y.done && !y.lost))
    f.dst = e.self → f.seq = (e.link link).recvSeq →
    (f.typ = 0x10 → e.followed f.src f.inst = some i → bcastNext e.self f.src x.chips = [] → b.dead = false → b.hdr = [] ∨ e.now < b.hdr.getD 2 0 →
      b'.whole = false →
      ∃ t, exec (.stepBcast link frame) s = .next t ∧ t.eng.bcastGet f.src f.inst step = b' ∧
        (∀ y z, y ≠ f.src ∨ z ≠ f.inst → ∀ n, t.eng.bcastGet y z n = e.bcastGet y z n) ∧ s.Only [12, 13, 17] [] t) ∧
    (f.typ = 0x11 → i = f.inst → x.active = true → x.lead = true → x.step = some st → st.num % 2 ^ 48 = step → x.comp = none →
      x.carried = [] → e.bin.entries = [] → (∀ k r, e.rc k = some r → r.live = true) → e.ras.quiescing = false →
      ∃ t, exec (.stepLate link frame) s = .next t ∧ .array (.discardStep i st.num) ∈ t.eng.out ∧ (t.eng.inst i).step = none ∧
        (t.eng.inst i).carried = again ∧ insts t ∧ s.Only [1, 4, 6, 8, 10, 12, 13, 17] [] t) ∧
    (f.typ = 0x12 → e.followed f.src f.inst = some i → x.step = some st → st.num % 2 ^ 48 = step → e.bin.entries = [] →
      ∃ t, exec (.stepAbort link frame) s = .next t ∧ .array (.discardStep i st.num) ∈ t.eng.out ∧
        t.eng.inst i = { x with step := none, win := false } ∧ insts t ∧ (t.eng.bcastGet f.src f.inst step).dead = true ∧
        s.Only [4, 6, 12, 13, 17, 18] [] t) ∧
    (f.typ = 0x13 → e.followed f.src f.inst = some i →
      ∃ t, exec (.freeze link frame) s = .next t ∧ .array (.halt i (max f.arg e.now)) ∈ t.eng.out ∧
        t.eng.ctx i = { e.ctx i with state := 1, freeze := true, halted := false, haltAt := some (max f.arg e.now) } ∧
        (∀ j, j ≠ i → t.eng.ctx j = e.ctx j) ∧ s.Only [12, 13, 17] [] t) ∧
    (f.typ = 0x18 → e.followed f.src f.inst = some i → f.words.length = 4 → (shvRecOf f.words).kind = 1 →
      let r := shvRecOf f.words
      ∃ t node, exec (.shelver link frame) s = .next t ∧ t.eng.fmap i r.rqid 0 = some { resv := r.a, matching := true, root := some node } ∧
        (∀ y, y ∈ t.eng.shv.fdir ↔ y = (i, r.rqid, 0, { resv := r.a, matching := true, root := some node }) ∨
          (y ∈ e.shv.fdir ∧ ¬ (y.1 = i ∧ y.2.1 = r.rqid ∧ y.2.2.1 = 0))) ∧ s.Only [6, 12, 13, 17] [] t)

/-- Mirrors, orders of peers and the topology map (R526 to R528, R545, R546, R588 to R594). A MIRROR entry is kept by chip and slot, or removed where
its STATE is FREE, and is acknowledged; an acknowledgement lets a held record out, here the only one. An ORDER of a peer with an unlisted
opcode is answered with ST_BAD_OPCODE; another takes its place among the orders with the Tally of its arrival as its stamp, to be resolved once that
tick is over (R116, R117); the step on an empty queue then applies a PREEMPT of a running request and answers it, stated for an order that waits
alone in an engine with nothing else to do, Bins off, and a tick that ends with the cycle (assumption log 63). The answers to this engine's own orders are noted.
GO starts a map load; its end stores the RESULT, and only a map that passes every check takes effect, here with no lane in service. That an
acknowledgement carries the frame's own ARG, and the status of a bad opcode, are the model's readings (assumption log 44). -/
def Obligations.MirrorsOrdersAndMap : Prop :=
  ∀ (link r : Nat) (frame : RxFrame) (data : Word) (image : List (BitVec 8)) (readOk : Bool) (q : LRec) (v : CmpRec) (p : Order) (s : State),
    s.boot.absent = false →
    let e := s.eng
    let f := frameOf frame
    let k := e.link link
    let m : Mirror := { chip := f.src, slot := f.words.getD 0 0 % 2 ^ 24, rc := recOf (BitVec.ofNat 1024 (ofWords ((f.words.drop 1).take 16))) }
    let others := e.ras.mirrors.filter (fun y => decide (y.chip ≠ m.chip ∨ y.slot ≠ m.slot))
    let sent := fun (t : State) (typ : Nat) (w : List Nat) => e.nextLink f.src (shortUp e.self f.src) = some r → (e.link r).waiting = [] →
      (e.link r).sSent < (e.link r).sDone + 48 →
      ∃ g, .frame r g ∈ t.eng.out ∧ g.typ = typ ∧ g.src = e.self ∧ g.dst = f.src ∧ g.arg = f.arg ∧ g.words = w
    let o := ordOf (BitVec.ofNat 1024 (ofWords (f.words.take 16)))
    let order : Order := {
      opcode := o.opcode, rqid := o.rqid, gen := o.gen, stamp := e.now, peer := some f.src, seq := f.arg, tag := o.userTag
      flags := b2n o.setDeadline + 2 * b2n o.setMaxNew, deadline := o.deadlineLast, maxNew := o.maxNew }
    let x := rqSlot p.rqid
    let c := e.cqOf v.ring
    let img := natBytes image
    let result := mapResult (e.fv F.RAF_POS_POS) img readOk
    (e.rafOn = true → link < 9 → e.linkActive link = true → rxOk frame = true → f.dst = e.self → f.seq = k.recvSeq → f.src ≠ e.self →
      (f.typ = 0x20 → f.words.length = 17 → f.words.getD 0 0 / 2 ^ 24 % 2 = 0 →
        ∃ t, exec (.mirror link frame) s = .next t ∧ sent t 0x21 [] ∧
          t.eng.ras = { e.ras with mirrors := if m.rc.state = 0 then others else others ++ [m] } ∧ s.Only [1, 12, 13, 16, 17] [] t) ∧
      (∀ n, f.typ = 0x21 → e.ras.sled.chip = some f.src → e.ras.sled.state = 2 → e.ras.ring.chip = none → e.ras.ring.state = 0 →
        e.hat.heldRecs = [(n, v)] → n ≤ f.arg →
        ∃ t, exec (.mirrorAck link frame) s = .next t ∧ t.eng.ras = { e.ras with sled := { e.ras.sled with
            acked := max e.ras.sled.acked f.arg } } ∧ t.eng.hat.heldRecs = [] ∧
          (e.blocked c = false → e.cmpFull c = false → .completion c (e.ring c).tail (e.ringPhase c (e.ring c).tail) v ∈ t.eng.out) ∧
          s.Only [1, 12, 13, 16, 17] [] t) ∧
      (f.typ = 0x28 → o.opcode < 2 ∨ 6 < o.opcode →
        ∃ t, exec (.order link frame) s = .next t ∧ sent t 0x2A [0x2C] ∧ s.Only [1, 12, 13, 17] [] t) ∧
      (f.typ = 0x28 → 2 ≤ o.opcode → o.opcode ≤ 6 → ordOk (BitVec.ofNat 1024 (ofWords (f.words.take 16))) = true → e.hat.orders = [] →
        ∃ t, exec (.order link frame) s = .next t ∧ t.eng.hat = { e.hat with orders := [order] } ∧ s.Only [1, 12, 13, 17] [] t) ∧
      (f.typ = 0x29 →
        ∃ t, exec (.superseded link frame) s = .next t ∧ t.eng.raf.sentOrders = e.raf.sentOrders ++ [(f.arg, 0x1A)] ∧
          s.Only [12, 13, 17] [] t) ∧
      (f.typ = 0x2A →
        ∃ t, exec (.orderReply link frame) s = .next t ∧ s.Only [12, 13, 17] [] t ∧
          t.eng.raf.sentOrders = e.raf.sentOrders ++ [(f.arg, f.words.getD 0 0 % 256)])) ∧
    (∀ src, s.pending = [] → ({ e with hat := { e.hat with orders := [] } } : Eng).Rested → e.now < s.tick.eng.now → e.binOn = false →
      e.bin.stalled = [] → e.hat.orders = [p] → e.hat.behind = [] → p.peer = some src → p.opcode = 5 → p.stamp < e.now →
      e.fetchedUpTo p.stamp = true → e.mirrorOn = false → e.fb F.SHV_CTL_EN = false → e.named p.rqid p.gen = some x → e.rc x = some q →
      q.nextSib = 0xFFFFFF → 3 ≤ q.state → q.state ≤ 6 →
      ∃ t, step s = .next t ∧ t.eng.rc x = some { q with prior := q.state, state := 7 } ∧ (∀ y, y ≠ x → t.eng.rc y = e.rc y) ∧
        t.eng.hat.orders = [] ∧
        (e.rafOn = true → src ≠ e.self → e.nextLink src (shortUp e.self src) = some r → (e.link r).waiting = [] → (e.link r).sSent < (e.link r).sDone + 48 →
          ∃ g, .frame r g ∈ t.eng.out ∧ g.typ = 0x2A ∧ g.src = e.self ∧ g.dst = src ∧ g.arg = p.seq ∧ g.words = [0]) ∧
        s.Only [0, 1, 2, 5, 6, 12, 13, 14, 15, 17] [] t) ∧
    (∃ t, exec (.mapLoad data) s = .next t ∧ t.eng.raf = { e.raf with mapBusy := e.raf.mapBusy || data.getLsbD 31 } ∧
      t.eng.fv F.RAF_MAP_CTL_SPACE = data.toNat / 2 % 2 ∧ s.Only [13] [0xD018] t) ∧
    (e.raf.mapBusy = true →
      (result ≠ 1 → exec (.mapLoadEnd image readOk) s =
        .next (s.withEng { e with raf := { e.raf with mapBusy := false, mapResult := result } })) ∧
      (result = 1 → (∀ p, p < 12 → (e.lane p).st ≠ 3 ∧ (e.lane p).st ≠ 4) →
        ∃ t, exec (.mapLoadEnd image readOk) s = .next t ∧ t.eng.raf.mapBusy = false ∧ t.eng.raf.mapResult = 1 ∧
          t.eng.raf.mapLoaded = true ∧ t.eng.raf.mapId = imgField img 8 4 ∧ t.eng.ras.taken = [] ∧
          (∀ ch, ch < 64 → tgetD t.eng.raf.chips ch {} = mapEnt img ch) ∧
          s.Only [1, 2, 12, 13, 14, 15, 16, 17] ((List.range 16).map (fun i => 0xE0C0 + 4 * i)) t))

/-! ### Faults and redundancy -/

/-- Faults (R576 to R586). FAULT: a CORRECTED fault is counted, and captured only where it is to be logged. A CONTAINED one, here
DRAW_MISSING, is captured in its unit's first free place with the Tally, or counted as an overflow; a UNIT fault halts its unit, here the
RSU's jump unit with nothing else being handled; an ENGINE fault starts a quiesce, here with a step outstanding, no composition and an
idle Pantry. POP moves the second capture up, or ends the handling. -/
def Obligations.FaultsAreCapturedAndPopped : Prop :=
  ∀ (f : FaultIn) (data : Word) (i : Nat) (st : Step) (s : State), s.boot.absent = false →
    let e := s.eng
    let u := e.fv F.RAS_UNIT_SEL_UNIT
    let c := e.cap_ u
    let rest := fun (n : Nat) (t : State) => ∀ k, k ≠ n → t.eng.cap_ k = e.cap_ k
    let log := e.fb F.RAS_CTL_LOG_CORRECTED
    let captured := fun (n cls : Nat) (esc : Bool) (t : State) => (t.eng.cap_ n).handling = true ∧ ∃ r, (t.eng.cap_ n).cap1 = some r ∧
      r.code = f.code ∧ r.cls = cls ∧ r.unit = n ∧ r.escalated = esc ∧ r.stamp = e.now ∧ r.rqid = f.rqid ∧ r.gen = f.gen ∧ r.addr = f.addr
    (f.code = 0x010 → f.unit < 64 →
      ∃ t, exec (.fault f) s = .next t ∧ t.eng.fv F.RAS_CORRECTED_COUNT = min (e.fv F.RAS_CORRECTED_COUNT + 1) (2 ^ 32 - 1) ∧
        (log = true → (e.cap_ f.unit).handling = false → captured f.unit 0 false t) ∧
        (log = false → t.eng.ras = e.ras ∧ t.eng.out = e.out) ∧ s.Only [1, 16, 17] [0xF010, 0xF024] t) ∧
    (f.code = 0x090 →
      ∃ t, exec (.fault f) s = .next t ∧ t.eng.kpr = { e.kpr with base := none } ∧ rest 12 t ∧ s.Only [1, 12, 16, 17] [0xF024] t ∧
        ((e.cap_ 12).handling = false → captured 12 1 false t) ∧
        ((e.cap_ 12).handling = true → ∀ r, (e.cap_ 12).cap2 = some r → t.eng.cap_ 12 = e.cap_ 12 ∧
          t.eng.fv F.RAS_UNIT_STATE_OVERFLOW 12 = min (e.fv F.RAS_UNIT_STATE_OVERFLOW 12 + 1) (2 ^ 16 - 1))) ∧
    (f.code = 0x051 → e.anyHandling = false →
      ∃ t, exec (.fault f) s = .next t ∧ t.eng.rsu = { e.rsu with jumpOk := false } ∧ (t.eng.cap_ 10).halted = true ∧ rest 10 t ∧
        captured 10 2 false t ∧ s.Only [1, 10, 16, 17] [0xF024] t) ∧
    (f.code = 0x001 → e.quiet = false → i < 16 → (e.inst i).step = some st → (∀ k, (e.inst k).comp = none) → e.pan.demand = [] →
      e.pan.background = [] → e.pan.held = [] →
      ∃ t, exec (.fault f) s = .next t ∧ t.eng.ras.quiescing = true ∧ t.eng.ras.quiesced = false ∧ t.eng.ras.quiesceAt = e.now ∧
        t.eng.ras.causeCode = 1 ∧ t.eng.ras.causeUnit = 15 ∧ (∀ k, k < 16 → t.eng.inst k = { e.inst k with trig := none, quiet := false }) ∧
        ((e.cap_ 15).handling = false → captured 15 3 true t) ∧ s.Only [1, 4, 16, 17] [0xF024] t) ∧
    (1 ≤ u → u ≤ 16 → data.getLsbD 0 = true →
      ∃ t, exec (.pop data) s = .next t ∧ rest u t ∧ t = s.withEng { e with ras := { e.ras with caps := t.eng.ras.caps } } ∧
        t.eng.cap_ u = match c.cap2 with
          | some r => { c with cap1 := some r, cap2 := none }
          | none => { c with cap1 := none, handling := false })

/-- Redundancy and the end of a quiesce (R585, R594, R596 to R598). QUIESCE_WAIT_EXPIRY: RAS_QUIESCE_WAIT after its start the quiesce declares
the step that is left lost and is complete, here of a lead alone with no records and no link, in a tick with nothing left to do.
BUDDY_TIMEOUT: a buddy out of reach becomes LOST once its link has been out of ACTIVE for 2 intervals, here with no record held. TAKEOVER: a
refused one has its RESULT, and one of a chip whose mirrors hold no live record takes none over and keeps them. -/
def Obligations.LossesAreMet : Prop :=
  ∀ (data : Word) (ring : Bool) (i : Nat) (st : Step) (shadow : List ShadowReq) (s : State), s.boot.absent = false →
    let e := s.eng
    let b := if ring then e.ras.ring else e.ras.sled
    let lost := { b with state := 3 }
    let n := data.toNat % 2 ^ 6
    (s.Settled → e.ras.quiescing = true → i < 16 → (e.inst i).step = some st → (e.inst i).lead = true → (e.inst i).comp = none →
      (∀ k ∈ (e.inst i).chips, k = e.self) → (∀ k, k < 16 → k ≠ i → (e.inst k).step = none) → e.led.recs = [] → e.bin.entries = [] →
      (∀ l, l < 9 → e.linkActive l = false) →
      ∃ t, exec .quiesceWaitExpiry s = .next t ∧ t.eng.now = max e.now (e.ras.quiesceAt + e.fv F.RAS_QUIESCE_WAIT_WAIT) ∧
        t.eng.ras = { e.ras with quiescing := false, quiesced := true } ∧ (t.eng.inst i).step = none ∧
        .array (.discardStep i st.num) ∈ t.eng.out ∧ t.eng.raf = { e.raf with lanes := [] } ∧
        s.Only [0, 1, 4, 6, 8, 10, 12, 13, 15, 16, 17] [0xC240] t) ∧
    (∀ ch, s.Settled → b.chip = some ch → b.state ≠ 3 → e.reaches ch = false → e.hat.heldRecs = [] →
      let a := e.advance (e.linkDownAt ch + 2 * max 10000 (e.av F.RAF_SYNC_CFG_INTERVAL))
      exec (.buddyTimeout ring) s = .next (s.withEng
        (({ a with ras := if ring then { a.ras with ring := lost } else { a.ras with sled := lost } } : Eng).raise
          { code := 0x00B0, unit := 16, arg := ch + 256 * ring.toNat }))) ∧
    (data.getLsbD 31 = true → n ∉ e.raf.lost →
      ∃ t, exec (.takeover data shadow) s = .next t ∧ t.eng.fv F.RAS_TAKEOVER_CHIP = n ∧
        t.eng.fv F.RAS_TAKEOVER_STATUS_RESULT = 2 ∧ s.Only [] [0xF0A0, 0xF0A4] t) ∧
    (data.getLsbD 31 = true → e.takeoverCheck n = 1 → (∀ m ∈ e.ras.mirrors, m.chip = n → m.rc.live = false) →
      ∃ t, exec (.takeover data shadow) s = .next t ∧ t.eng.fv F.RAS_TAKEOVER_CHIP = n ∧
        t.eng.fv F.RAS_TAKEOVER_STATUS_RESULT = 1 ∧ t.eng.fv F.RAS_TAKEOVER_STATUS_COUNT = 0 ∧
        t.eng.ras = { e.ras with taken := sinsert e.ras.taken n } ∧ s.Only [16] [0xF0A0, 0xF0A4] t)
end

