-- ==== Sys2Proof/Laws/State.lean ====
section
/-!
SUPPORT. The small lemmas of State: what each named update leaves, field by field, and what a command's shape (on the units, on the
sequencer) says of the state after it.
-/
namespace Sys2Proof.Machine

/-! ### putReg -/

@[simp] theorem Eng.putReg_now (e : Eng) (off sel : Nat) (w : Word) : (e.putReg off sel w).now = e.now := rfl
@[simp] theorem Eng.putReg_act (e : Eng) (off sel : Nat) (w : Word) : (e.putReg off sel w).act = e.act := rfl
@[simp] theorem Eng.putReg_cap (e : Eng) (off sel : Nat) (w : Word) : (e.putReg off sel w).cap = e.cap := rfl
@[simp] theorem Eng.putReg_pend (e : Eng) (off sel : Nat) (w : Word) : (e.putReg off sel w).pend = e.pend := rfl
@[simp] theorem Eng.putReg_held (e : Eng) (off sel : Nat) (w : Word) : (e.putReg off sel w).held = e.held := rfl
@[simp] theorem Eng.putReg_pairLow (e : Eng) (off sel : Nat) (w : Word) : (e.putReg off sel w).pairLow = e.pairLow := rfl
@[simp] theorem Eng.putReg_latch (e : Eng) (off sel : Nat) (w : Word) : (e.putReg off sel w).latch = e.latch := rfl
@[simp] theorem Eng.putReg_tal (e : Eng) (off sel : Nat) (w : Word) : (e.putReg off sel w).tal = e.tal := rfl
@[simp] theorem Eng.putReg_hat (e : Eng) (off sel : Nat) (w : Word) : (e.putReg off sel w).hat = e.hat := rfl
@[simp] theorem Eng.putReg_led (e : Eng) (off sel : Nat) (w : Word) : (e.putReg off sel w).led = e.led := rfl
@[simp] theorem Eng.putReg_gat (e : Eng) (off sel : Nat) (w : Word) : (e.putReg off sel w).gat = e.gat := rfl
@[simp] theorem Eng.putReg_cmp (e : Eng) (off sel : Nat) (w : Word) : (e.putReg off sel w).cmp = e.cmp := rfl
@[simp] theorem Eng.putReg_stw (e : Eng) (off sel : Nat) (w : Word) : (e.putReg off sel w).stw = e.stw := rfl
@[simp] theorem Eng.putReg_shv (e : Eng) (off sel : Nat) (w : Word) : (e.putReg off sel w).shv = e.shv := rfl
@[simp] theorem Eng.putReg_pan (e : Eng) (off sel : Nat) (w : Word) : (e.putReg off sel w).pan = e.pan := rfl
@[simp] theorem Eng.putReg_smp (e : Eng) (off sel : Nat) (w : Word) : (e.putReg off sel w).smp = e.smp := rfl
@[simp] theorem Eng.putReg_siv (e : Eng) (off sel : Nat) (w : Word) : (e.putReg off sel w).siv = e.siv := rfl
@[simp] theorem Eng.putReg_rsu (e : Eng) (off sel : Nat) (w : Word) : (e.putReg off sel w).rsu = e.rsu := rfl
@[simp] theorem Eng.putReg_bin (e : Eng) (off sel : Nat) (w : Word) : (e.putReg off sel w).bin = e.bin := rfl
@[simp] theorem Eng.putReg_kpr (e : Eng) (off sel : Nat) (w : Word) : (e.putReg off sel w).kpr = e.kpr := rfl
@[simp] theorem Eng.putReg_raf (e : Eng) (off sel : Nat) (w : Word) : (e.putReg off sel w).raf = e.raf := rfl
@[simp] theorem Eng.putReg_ras (e : Eng) (off sel : Nat) (w : Word) : (e.putReg off sel w).ras = e.ras := rfl
@[simp] theorem Eng.putReg_dbg (e : Eng) (off sel : Nat) (w : Word) : (e.putReg off sel w).dbg = e.dbg := rfl
@[simp] theorem Eng.putReg_pd (e : Eng) (off sel : Nat) (w : Word) : (e.putReg off sel w).pd = e.pd := rfl
@[simp] theorem Eng.putReg_nextIdle (e : Eng) (off sel : Nat) (w : Word) : (e.putReg off sel w).nextIdle = e.nextIdle := rfl
@[simp] theorem Eng.putReg_nextQueued (e : Eng) (off sel : Nat) (w : Word) : (e.putReg off sel w).nextQueued = e.nextQueued := rfl
@[simp] theorem Eng.putReg_readData (e : Eng) (off sel : Nat) (w : Word) : (e.putReg off sel w).readData = e.readData := rfl
@[simp] theorem Eng.putReg_out (e : Eng) (off sel : Nat) (w : Word) : (e.putReg off sel w).out = e.out := rfl
@[simp] theorem Eng.putReg_free (e : Eng) (off sel : Nat) (w : Word) : (e.putReg off sel w).free = e.free := rfl

/-! ### poke -/

@[simp] theorem Eng.poke_now (e : Eng) (f : Fld) (v sel : Nat) : (e.poke f v sel).now = e.now := rfl
@[simp] theorem Eng.poke_act (e : Eng) (f : Fld) (v sel : Nat) : (e.poke f v sel).act = e.act := rfl
@[simp] theorem Eng.poke_cap (e : Eng) (f : Fld) (v sel : Nat) : (e.poke f v sel).cap = e.cap := rfl
@[simp] theorem Eng.poke_pend (e : Eng) (f : Fld) (v sel : Nat) : (e.poke f v sel).pend = e.pend := rfl
@[simp] theorem Eng.poke_held (e : Eng) (f : Fld) (v sel : Nat) : (e.poke f v sel).held = e.held := rfl
@[simp] theorem Eng.poke_pairLow (e : Eng) (f : Fld) (v sel : Nat) : (e.poke f v sel).pairLow = e.pairLow := rfl
@[simp] theorem Eng.poke_latch (e : Eng) (f : Fld) (v sel : Nat) : (e.poke f v sel).latch = e.latch := rfl
@[simp] theorem Eng.poke_tal (e : Eng) (f : Fld) (v sel : Nat) : (e.poke f v sel).tal = e.tal := rfl
@[simp] theorem Eng.poke_hat (e : Eng) (f : Fld) (v sel : Nat) : (e.poke f v sel).hat = e.hat := rfl
@[simp] theorem Eng.poke_led (e : Eng) (f : Fld) (v sel : Nat) : (e.poke f v sel).led = e.led := rfl
@[simp] theorem Eng.poke_gat (e : Eng) (f : Fld) (v sel : Nat) : (e.poke f v sel).gat = e.gat := rfl
@[simp] theorem Eng.poke_cmp (e : Eng) (f : Fld) (v sel : Nat) : (e.poke f v sel).cmp = e.cmp := rfl
@[simp] theorem Eng.poke_stw (e : Eng) (f : Fld) (v sel : Nat) : (e.poke f v sel).stw = e.stw := rfl
@[simp] theorem Eng.poke_shv (e : Eng) (f : Fld) (v sel : Nat) : (e.poke f v sel).shv = e.shv := rfl
@[simp] theorem Eng.poke_pan (e : Eng) (f : Fld) (v sel : Nat) : (e.poke f v sel).pan = e.pan := rfl
@[simp] theorem Eng.poke_smp (e : Eng) (f : Fld) (v sel : Nat) : (e.poke f v sel).smp = e.smp := rfl
@[simp] theorem Eng.poke_siv (e : Eng) (f : Fld) (v sel : Nat) : (e.poke f v sel).siv = e.siv := rfl
@[simp] theorem Eng.poke_rsu (e : Eng) (f : Fld) (v sel : Nat) : (e.poke f v sel).rsu = e.rsu := rfl
@[simp] theorem Eng.poke_bin (e : Eng) (f : Fld) (v sel : Nat) : (e.poke f v sel).bin = e.bin := rfl
@[simp] theorem Eng.poke_kpr (e : Eng) (f : Fld) (v sel : Nat) : (e.poke f v sel).kpr = e.kpr := rfl
@[simp] theorem Eng.poke_raf (e : Eng) (f : Fld) (v sel : Nat) : (e.poke f v sel).raf = e.raf := rfl
@[simp] theorem Eng.poke_ras (e : Eng) (f : Fld) (v sel : Nat) : (e.poke f v sel).ras = e.ras := rfl
@[simp] theorem Eng.poke_dbg (e : Eng) (f : Fld) (v sel : Nat) : (e.poke f v sel).dbg = e.dbg := rfl
@[simp] theorem Eng.poke_pd (e : Eng) (f : Fld) (v sel : Nat) : (e.poke f v sel).pd = e.pd := rfl
@[simp] theorem Eng.poke_nextIdle (e : Eng) (f : Fld) (v sel : Nat) : (e.poke f v sel).nextIdle = e.nextIdle := rfl
@[simp] theorem Eng.poke_nextQueued (e : Eng) (f : Fld) (v sel : Nat) : (e.poke f v sel).nextQueued = e.nextQueued := rfl
@[simp] theorem Eng.poke_readData (e : Eng) (f : Fld) (v sel : Nat) : (e.poke f v sel).readData = e.readData := rfl
@[simp] theorem Eng.poke_out (e : Eng) (f : Fld) (v sel : Nat) : (e.poke f v sel).out = e.out := rfl
@[simp] theorem Eng.poke_free (e : Eng) (f : Fld) (v sel : Nat) : (e.poke f v sel).free = e.free := rfl

/-! ### bump -/

@[simp] theorem Eng.bump_now (e : Eng) (f : Fld) (n sel : Nat) : (e.bump f n sel).now = e.now := rfl
@[simp] theorem Eng.bump_act (e : Eng) (f : Fld) (n sel : Nat) : (e.bump f n sel).act = e.act := rfl
@[simp] theorem Eng.bump_cap (e : Eng) (f : Fld) (n sel : Nat) : (e.bump f n sel).cap = e.cap := rfl
@[simp] theorem Eng.bump_pend (e : Eng) (f : Fld) (n sel : Nat) : (e.bump f n sel).pend = e.pend := rfl
@[simp] theorem Eng.bump_held (e : Eng) (f : Fld) (n sel : Nat) : (e.bump f n sel).held = e.held := rfl
@[simp] theorem Eng.bump_pairLow (e : Eng) (f : Fld) (n sel : Nat) : (e.bump f n sel).pairLow = e.pairLow := rfl
@[simp] theorem Eng.bump_latch (e : Eng) (f : Fld) (n sel : Nat) : (e.bump f n sel).latch = e.latch := rfl
@[simp] theorem Eng.bump_tal (e : Eng) (f : Fld) (n sel : Nat) : (e.bump f n sel).tal = e.tal := rfl
@[simp] theorem Eng.bump_hat (e : Eng) (f : Fld) (n sel : Nat) : (e.bump f n sel).hat = e.hat := rfl
@[simp] theorem Eng.bump_led (e : Eng) (f : Fld) (n sel : Nat) : (e.bump f n sel).led = e.led := rfl
@[simp] theorem Eng.bump_gat (e : Eng) (f : Fld) (n sel : Nat) : (e.bump f n sel).gat = e.gat := rfl
@[simp] theorem Eng.bump_cmp (e : Eng) (f : Fld) (n sel : Nat) : (e.bump f n sel).cmp = e.cmp := rfl
@[simp] theorem Eng.bump_stw (e : Eng) (f : Fld) (n sel : Nat) : (e.bump f n sel).stw = e.stw := rfl
@[simp] theorem Eng.bump_shv (e : Eng) (f : Fld) (n sel : Nat) : (e.bump f n sel).shv = e.shv := rfl
@[simp] theorem Eng.bump_pan (e : Eng) (f : Fld) (n sel : Nat) : (e.bump f n sel).pan = e.pan := rfl
@[simp] theorem Eng.bump_smp (e : Eng) (f : Fld) (n sel : Nat) : (e.bump f n sel).smp = e.smp := rfl
@[simp] theorem Eng.bump_siv (e : Eng) (f : Fld) (n sel : Nat) : (e.bump f n sel).siv = e.siv := rfl
@[simp] theorem Eng.bump_rsu (e : Eng) (f : Fld) (n sel : Nat) : (e.bump f n sel).rsu = e.rsu := rfl
@[simp] theorem Eng.bump_bin (e : Eng) (f : Fld) (n sel : Nat) : (e.bump f n sel).bin = e.bin := rfl
@[simp] theorem Eng.bump_kpr (e : Eng) (f : Fld) (n sel : Nat) : (e.bump f n sel).kpr = e.kpr := rfl
@[simp] theorem Eng.bump_raf (e : Eng) (f : Fld) (n sel : Nat) : (e.bump f n sel).raf = e.raf := rfl
@[simp] theorem Eng.bump_ras (e : Eng) (f : Fld) (n sel : Nat) : (e.bump f n sel).ras = e.ras := rfl
@[simp] theorem Eng.bump_dbg (e : Eng) (f : Fld) (n sel : Nat) : (e.bump f n sel).dbg = e.dbg := rfl
@[simp] theorem Eng.bump_pd (e : Eng) (f : Fld) (n sel : Nat) : (e.bump f n sel).pd = e.pd := rfl
@[simp] theorem Eng.bump_nextIdle (e : Eng) (f : Fld) (n sel : Nat) : (e.bump f n sel).nextIdle = e.nextIdle := rfl
@[simp] theorem Eng.bump_nextQueued (e : Eng) (f : Fld) (n sel : Nat) : (e.bump f n sel).nextQueued = e.nextQueued := rfl
@[simp] theorem Eng.bump_readData (e : Eng) (f : Fld) (n sel : Nat) : (e.bump f n sel).readData = e.readData := rfl
@[simp] theorem Eng.bump_out (e : Eng) (f : Fld) (n sel : Nat) : (e.bump f n sel).out = e.out := rfl
@[simp] theorem Eng.bump_free (e : Eng) (f : Fld) (n sel : Nat) : (e.bump f n sel).free = e.free := rfl

/-! ### pokePair -/

@[simp] theorem Eng.pokePair_now (e : Eng) (off v sel : Nat) : (e.pokePair off v sel).now = e.now := rfl
@[simp] theorem Eng.pokePair_act (e : Eng) (off v sel : Nat) : (e.pokePair off v sel).act = e.act := rfl
@[simp] theorem Eng.pokePair_cap (e : Eng) (off v sel : Nat) : (e.pokePair off v sel).cap = e.cap := rfl
@[simp] theorem Eng.pokePair_pend (e : Eng) (off v sel : Nat) : (e.pokePair off v sel).pend = e.pend := rfl
@[simp] theorem Eng.pokePair_held (e : Eng) (off v sel : Nat) : (e.pokePair off v sel).held = e.held := rfl
@[simp] theorem Eng.pokePair_pairLow (e : Eng) (off v sel : Nat) : (e.pokePair off v sel).pairLow = e.pairLow := rfl
@[simp] theorem Eng.pokePair_latch (e : Eng) (off v sel : Nat) : (e.pokePair off v sel).latch = e.latch := rfl
@[simp] theorem Eng.pokePair_tal (e : Eng) (off v sel : Nat) : (e.pokePair off v sel).tal = e.tal := rfl
@[simp] theorem Eng.pokePair_hat (e : Eng) (off v sel : Nat) : (e.pokePair off v sel).hat = e.hat := rfl
@[simp] theorem Eng.pokePair_led (e : Eng) (off v sel : Nat) : (e.pokePair off v sel).led = e.led := rfl
@[simp] theorem Eng.pokePair_gat (e : Eng) (off v sel : Nat) : (e.pokePair off v sel).gat = e.gat := rfl
@[simp] theorem Eng.pokePair_cmp (e : Eng) (off v sel : Nat) : (e.pokePair off v sel).cmp = e.cmp := rfl
@[simp] theorem Eng.pokePair_stw (e : Eng) (off v sel : Nat) : (e.pokePair off v sel).stw = e.stw := rfl
@[simp] theorem Eng.pokePair_shv (e : Eng) (off v sel : Nat) : (e.pokePair off v sel).shv = e.shv := rfl
@[simp] theorem Eng.pokePair_pan (e : Eng) (off v sel : Nat) : (e.pokePair off v sel).pan = e.pan := rfl
@[simp] theorem Eng.pokePair_smp (e : Eng) (off v sel : Nat) : (e.pokePair off v sel).smp = e.smp := rfl
@[simp] theorem Eng.pokePair_siv (e : Eng) (off v sel : Nat) : (e.pokePair off v sel).siv = e.siv := rfl
@[simp] theorem Eng.pokePair_rsu (e : Eng) (off v sel : Nat) : (e.pokePair off v sel).rsu = e.rsu := rfl
@[simp] theorem Eng.pokePair_bin (e : Eng) (off v sel : Nat) : (e.pokePair off v sel).bin = e.bin := rfl
@[simp] theorem Eng.pokePair_kpr (e : Eng) (off v sel : Nat) : (e.pokePair off v sel).kpr = e.kpr := rfl
@[simp] theorem Eng.pokePair_raf (e : Eng) (off v sel : Nat) : (e.pokePair off v sel).raf = e.raf := rfl
@[simp] theorem Eng.pokePair_ras (e : Eng) (off v sel : Nat) : (e.pokePair off v sel).ras = e.ras := rfl
@[simp] theorem Eng.pokePair_dbg (e : Eng) (off v sel : Nat) : (e.pokePair off v sel).dbg = e.dbg := rfl
@[simp] theorem Eng.pokePair_pd (e : Eng) (off v sel : Nat) : (e.pokePair off v sel).pd = e.pd := rfl
@[simp] theorem Eng.pokePair_nextIdle (e : Eng) (off v sel : Nat) : (e.pokePair off v sel).nextIdle = e.nextIdle := rfl
@[simp] theorem Eng.pokePair_nextQueued (e : Eng) (off v sel : Nat) : (e.pokePair off v sel).nextQueued = e.nextQueued := rfl
@[simp] theorem Eng.pokePair_readData (e : Eng) (off v sel : Nat) : (e.pokePair off v sel).readData = e.readData := rfl
@[simp] theorem Eng.pokePair_out (e : Eng) (off v sel : Nat) : (e.pokePair off v sel).out = e.out := rfl
@[simp] theorem Eng.pokePair_free (e : Eng) (off v sel : Nat) : (e.pokePair off v sel).free = e.free := rfl

/-! ### emit -/

@[simp] theorem Eng.emit_now (e : Eng) (o : Out) : (e.emit o).now = e.now := rfl
@[simp] theorem Eng.emit_regs (e : Eng) (o : Out) : (e.emit o).regs = e.regs := rfl
@[simp] theorem Eng.emit_act (e : Eng) (o : Out) : (e.emit o).act = e.act := rfl
@[simp] theorem Eng.emit_cap (e : Eng) (o : Out) : (e.emit o).cap = e.cap := rfl
@[simp] theorem Eng.emit_pend (e : Eng) (o : Out) : (e.emit o).pend = e.pend := rfl
@[simp] theorem Eng.emit_held (e : Eng) (o : Out) : (e.emit o).held = e.held := rfl
@[simp] theorem Eng.emit_pairLow (e : Eng) (o : Out) : (e.emit o).pairLow = e.pairLow := rfl
@[simp] theorem Eng.emit_latch (e : Eng) (o : Out) : (e.emit o).latch = e.latch := rfl
@[simp] theorem Eng.emit_tal (e : Eng) (o : Out) : (e.emit o).tal = e.tal := rfl
@[simp] theorem Eng.emit_hat (e : Eng) (o : Out) : (e.emit o).hat = e.hat := rfl
@[simp] theorem Eng.emit_led (e : Eng) (o : Out) : (e.emit o).led = e.led := rfl
@[simp] theorem Eng.emit_gat (e : Eng) (o : Out) : (e.emit o).gat = e.gat := rfl
@[simp] theorem Eng.emit_cmp (e : Eng) (o : Out) : (e.emit o).cmp = e.cmp := rfl
@[simp] theorem Eng.emit_stw (e : Eng) (o : Out) : (e.emit o).stw = e.stw := rfl
@[simp] theorem Eng.emit_shv (e : Eng) (o : Out) : (e.emit o).shv = e.shv := rfl
@[simp] theorem Eng.emit_pan (e : Eng) (o : Out) : (e.emit o).pan = e.pan := rfl
@[simp] theorem Eng.emit_smp (e : Eng) (o : Out) : (e.emit o).smp = e.smp := rfl
@[simp] theorem Eng.emit_siv (e : Eng) (o : Out) : (e.emit o).siv = e.siv := rfl
@[simp] theorem Eng.emit_rsu (e : Eng) (o : Out) : (e.emit o).rsu = e.rsu := rfl
@[simp] theorem Eng.emit_bin (e : Eng) (o : Out) : (e.emit o).bin = e.bin := rfl
@[simp] theorem Eng.emit_kpr (e : Eng) (o : Out) : (e.emit o).kpr = e.kpr := rfl
@[simp] theorem Eng.emit_raf (e : Eng) (o : Out) : (e.emit o).raf = e.raf := rfl
@[simp] theorem Eng.emit_ras (e : Eng) (o : Out) : (e.emit o).ras = e.ras := rfl
@[simp] theorem Eng.emit_dbg (e : Eng) (o : Out) : (e.emit o).dbg = e.dbg := rfl
@[simp] theorem Eng.emit_pd (e : Eng) (o : Out) : (e.emit o).pd = e.pd := rfl
@[simp] theorem Eng.emit_nextIdle (e : Eng) (o : Out) : (e.emit o).nextIdle = e.nextIdle := rfl
@[simp] theorem Eng.emit_nextQueued (e : Eng) (o : Out) : (e.emit o).nextQueued = e.nextQueued := rfl
@[simp] theorem Eng.emit_readData (e : Eng) (o : Out) : (e.emit o).readData = e.readData := rfl
@[simp] theorem Eng.emit_free (e : Eng) (o : Out) : (e.emit o).free = e.free := rfl

/-! ### tell -/

@[simp] theorem Eng.tell_now (e : Eng) (m : ArrMsg) : (e.tell m).now = e.now := rfl
@[simp] theorem Eng.tell_regs (e : Eng) (m : ArrMsg) : (e.tell m).regs = e.regs := rfl
@[simp] theorem Eng.tell_act (e : Eng) (m : ArrMsg) : (e.tell m).act = e.act := rfl
@[simp] theorem Eng.tell_cap (e : Eng) (m : ArrMsg) : (e.tell m).cap = e.cap := rfl
@[simp] theorem Eng.tell_pend (e : Eng) (m : ArrMsg) : (e.tell m).pend = e.pend := rfl
@[simp] theorem Eng.tell_held (e : Eng) (m : ArrMsg) : (e.tell m).held = e.held := rfl
@[simp] theorem Eng.tell_pairLow (e : Eng) (m : ArrMsg) : (e.tell m).pairLow = e.pairLow := rfl
@[simp] theorem Eng.tell_latch (e : Eng) (m : ArrMsg) : (e.tell m).latch = e.latch := rfl
@[simp] theorem Eng.tell_tal (e : Eng) (m : ArrMsg) : (e.tell m).tal = e.tal := rfl
@[simp] theorem Eng.tell_hat (e : Eng) (m : ArrMsg) : (e.tell m).hat = e.hat := rfl
@[simp] theorem Eng.tell_led (e : Eng) (m : ArrMsg) : (e.tell m).led = e.led := rfl
@[simp] theorem Eng.tell_gat (e : Eng) (m : ArrMsg) : (e.tell m).gat = e.gat := rfl
@[simp] theorem Eng.tell_cmp (e : Eng) (m : ArrMsg) : (e.tell m).cmp = e.cmp := rfl
@[simp] theorem Eng.tell_stw (e : Eng) (m : ArrMsg) : (e.tell m).stw = e.stw := rfl
@[simp] theorem Eng.tell_shv (e : Eng) (m : ArrMsg) : (e.tell m).shv = e.shv := rfl
@[simp] theorem Eng.tell_pan (e : Eng) (m : ArrMsg) : (e.tell m).pan = e.pan := rfl
@[simp] theorem Eng.tell_smp (e : Eng) (m : ArrMsg) : (e.tell m).smp = e.smp := rfl
@[simp] theorem Eng.tell_siv (e : Eng) (m : ArrMsg) : (e.tell m).siv = e.siv := rfl
@[simp] theorem Eng.tell_rsu (e : Eng) (m : ArrMsg) : (e.tell m).rsu = e.rsu := rfl
@[simp] theorem Eng.tell_bin (e : Eng) (m : ArrMsg) : (e.tell m).bin = e.bin := rfl
@[simp] theorem Eng.tell_kpr (e : Eng) (m : ArrMsg) : (e.tell m).kpr = e.kpr := rfl
@[simp] theorem Eng.tell_raf (e : Eng) (m : ArrMsg) : (e.tell m).raf = e.raf := rfl
@[simp] theorem Eng.tell_ras (e : Eng) (m : ArrMsg) : (e.tell m).ras = e.ras := rfl
@[simp] theorem Eng.tell_dbg (e : Eng) (m : ArrMsg) : (e.tell m).dbg = e.dbg := rfl
@[simp] theorem Eng.tell_pd (e : Eng) (m : ArrMsg) : (e.tell m).pd = e.pd := rfl
@[simp] theorem Eng.tell_nextIdle (e : Eng) (m : ArrMsg) : (e.tell m).nextIdle = e.nextIdle := rfl
@[simp] theorem Eng.tell_nextQueued (e : Eng) (m : ArrMsg) : (e.tell m).nextQueued = e.nextQueued := rfl
@[simp] theorem Eng.tell_readData (e : Eng) (m : ArrMsg) : (e.tell m).readData = e.readData := rfl
@[simp] theorem Eng.tell_free (e : Eng) (m : ArrMsg) : (e.tell m).free = e.free := rfl

/-! ### setRing -/

@[simp] theorem Eng.setRing_now (e : Eng) (r : Nat) (x : Ring) : (e.setRing r x).now = e.now := rfl
@[simp] theorem Eng.setRing_regs (e : Eng) (r : Nat) (x : Ring) : (e.setRing r x).regs = e.regs := rfl
@[simp] theorem Eng.setRing_act (e : Eng) (r : Nat) (x : Ring) : (e.setRing r x).act = e.act := rfl
@[simp] theorem Eng.setRing_cap (e : Eng) (r : Nat) (x : Ring) : (e.setRing r x).cap = e.cap := rfl
@[simp] theorem Eng.setRing_pend (e : Eng) (r : Nat) (x : Ring) : (e.setRing r x).pend = e.pend := rfl
@[simp] theorem Eng.setRing_held (e : Eng) (r : Nat) (x : Ring) : (e.setRing r x).held = e.held := rfl
@[simp] theorem Eng.setRing_pairLow (e : Eng) (r : Nat) (x : Ring) : (e.setRing r x).pairLow = e.pairLow := rfl
@[simp] theorem Eng.setRing_latch (e : Eng) (r : Nat) (x : Ring) : (e.setRing r x).latch = e.latch := rfl
@[simp] theorem Eng.setRing_tal (e : Eng) (r : Nat) (x : Ring) : (e.setRing r x).tal = e.tal := rfl
@[simp] theorem Eng.setRing_led (e : Eng) (r : Nat) (x : Ring) : (e.setRing r x).led = e.led := rfl
@[simp] theorem Eng.setRing_gat (e : Eng) (r : Nat) (x : Ring) : (e.setRing r x).gat = e.gat := rfl
@[simp] theorem Eng.setRing_cmp (e : Eng) (r : Nat) (x : Ring) : (e.setRing r x).cmp = e.cmp := rfl
@[simp] theorem Eng.setRing_stw (e : Eng) (r : Nat) (x : Ring) : (e.setRing r x).stw = e.stw := rfl
@[simp] theorem Eng.setRing_shv (e : Eng) (r : Nat) (x : Ring) : (e.setRing r x).shv = e.shv := rfl
@[simp] theorem Eng.setRing_pan (e : Eng) (r : Nat) (x : Ring) : (e.setRing r x).pan = e.pan := rfl
@[simp] theorem Eng.setRing_smp (e : Eng) (r : Nat) (x : Ring) : (e.setRing r x).smp = e.smp := rfl
@[simp] theorem Eng.setRing_siv (e : Eng) (r : Nat) (x : Ring) : (e.setRing r x).siv = e.siv := rfl
@[simp] theorem Eng.setRing_rsu (e : Eng) (r : Nat) (x : Ring) : (e.setRing r x).rsu = e.rsu := rfl
@[simp] theorem Eng.setRing_bin (e : Eng) (r : Nat) (x : Ring) : (e.setRing r x).bin = e.bin := rfl
@[simp] theorem Eng.setRing_kpr (e : Eng) (r : Nat) (x : Ring) : (e.setRing r x).kpr = e.kpr := rfl
@[simp] theorem Eng.setRing_raf (e : Eng) (r : Nat) (x : Ring) : (e.setRing r x).raf = e.raf := rfl
@[simp] theorem Eng.setRing_ras (e : Eng) (r : Nat) (x : Ring) : (e.setRing r x).ras = e.ras := rfl
@[simp] theorem Eng.setRing_dbg (e : Eng) (r : Nat) (x : Ring) : (e.setRing r x).dbg = e.dbg := rfl
@[simp] theorem Eng.setRing_pd (e : Eng) (r : Nat) (x : Ring) : (e.setRing r x).pd = e.pd := rfl
@[simp] theorem Eng.setRing_nextIdle (e : Eng) (r : Nat) (x : Ring) : (e.setRing r x).nextIdle = e.nextIdle := rfl
@[simp] theorem Eng.setRing_nextQueued (e : Eng) (r : Nat) (x : Ring) : (e.setRing r x).nextQueued = e.nextQueued := rfl
@[simp] theorem Eng.setRing_readData (e : Eng) (r : Nat) (x : Ring) : (e.setRing r x).readData = e.readData := rfl
@[simp] theorem Eng.setRing_out (e : Eng) (r : Nat) (x : Ring) : (e.setRing r x).out = e.out := rfl
@[simp] theorem Eng.setRing_free (e : Eng) (r : Nat) (x : Ring) : (e.setRing r x).free = e.free := rfl
@[simp] theorem Eng.setRing_hat_version (e : Eng) (r : Nat) (x : Ring) : (e.setRing r x).hat.version = e.hat.version := rfl
@[simp] theorem Eng.setRing_hat_rrRing (e : Eng) (r : Nat) (x : Ring) : (e.setRing r x).hat.rrRing = e.hat.rrRing := rfl
@[simp] theorem Eng.setRing_hat_rrLeft (e : Eng) (r : Nat) (x : Ring) : (e.setRing r x).hat.rrLeft = e.hat.rrLeft := rfl
@[simp] theorem Eng.setRing_hat_orders (e : Eng) (r : Nat) (x : Ring) : (e.setRing r x).hat.orders = e.hat.orders := rfl
@[simp] theorem Eng.setRing_hat_orderSeq (e : Eng) (r : Nat) (x : Ring) : (e.setRing r x).hat.orderSeq = e.hat.orderSeq := rfl
@[simp] theorem Eng.setRing_hat_behind (e : Eng) (r : Nat) (x : Ring) : (e.setRing r x).hat.behind = e.hat.behind := rfl
@[simp] theorem Eng.setRing_hat_heldRecs (e : Eng) (r : Nat) (x : Ring) : (e.setRing r x).hat.heldRecs = e.hat.heldRecs := rfl
@[simp] theorem Eng.setRing_hat_nextPoll (e : Eng) (r : Nat) (x : Ring) : (e.setRing r x).hat.nextPoll = e.hat.nextPoll := rfl

/-! ### setInst -/

@[simp] theorem Eng.setInst_now (e : Eng) (i : Nat) (x : Inst) : (e.setInst i x).now = e.now := rfl
@[simp] theorem Eng.setInst_regs (e : Eng) (i : Nat) (x : Inst) : (e.setInst i x).regs = e.regs := rfl
@[simp] theorem Eng.setInst_act (e : Eng) (i : Nat) (x : Inst) : (e.setInst i x).act = e.act := rfl
@[simp] theorem Eng.setInst_cap (e : Eng) (i : Nat) (x : Inst) : (e.setInst i x).cap = e.cap := rfl
@[simp] theorem Eng.setInst_pend (e : Eng) (i : Nat) (x : Inst) : (e.setInst i x).pend = e.pend := rfl
@[simp] theorem Eng.setInst_held (e : Eng) (i : Nat) (x : Inst) : (e.setInst i x).held = e.held := rfl
@[simp] theorem Eng.setInst_pairLow (e : Eng) (i : Nat) (x : Inst) : (e.setInst i x).pairLow = e.pairLow := rfl
@[simp] theorem Eng.setInst_latch (e : Eng) (i : Nat) (x : Inst) : (e.setInst i x).latch = e.latch := rfl
@[simp] theorem Eng.setInst_tal (e : Eng) (i : Nat) (x : Inst) : (e.setInst i x).tal = e.tal := rfl
@[simp] theorem Eng.setInst_hat (e : Eng) (i : Nat) (x : Inst) : (e.setInst i x).hat = e.hat := rfl
@[simp] theorem Eng.setInst_led (e : Eng) (i : Nat) (x : Inst) : (e.setInst i x).led = e.led := rfl
@[simp] theorem Eng.setInst_gat (e : Eng) (i : Nat) (x : Inst) : (e.setInst i x).gat = e.gat := rfl
@[simp] theorem Eng.setInst_stw (e : Eng) (i : Nat) (x : Inst) : (e.setInst i x).stw = e.stw := rfl
@[simp] theorem Eng.setInst_shv (e : Eng) (i : Nat) (x : Inst) : (e.setInst i x).shv = e.shv := rfl
@[simp] theorem Eng.setInst_pan (e : Eng) (i : Nat) (x : Inst) : (e.setInst i x).pan = e.pan := rfl
@[simp] theorem Eng.setInst_smp (e : Eng) (i : Nat) (x : Inst) : (e.setInst i x).smp = e.smp := rfl
@[simp] theorem Eng.setInst_siv (e : Eng) (i : Nat) (x : Inst) : (e.setInst i x).siv = e.siv := rfl
@[simp] theorem Eng.setInst_rsu (e : Eng) (i : Nat) (x : Inst) : (e.setInst i x).rsu = e.rsu := rfl
@[simp] theorem Eng.setInst_bin (e : Eng) (i : Nat) (x : Inst) : (e.setInst i x).bin = e.bin := rfl
@[simp] theorem Eng.setInst_kpr (e : Eng) (i : Nat) (x : Inst) : (e.setInst i x).kpr = e.kpr := rfl
@[simp] theorem Eng.setInst_raf (e : Eng) (i : Nat) (x : Inst) : (e.setInst i x).raf = e.raf := rfl
@[simp] theorem Eng.setInst_ras (e : Eng) (i : Nat) (x : Inst) : (e.setInst i x).ras = e.ras := rfl
@[simp] theorem Eng.setInst_dbg (e : Eng) (i : Nat) (x : Inst) : (e.setInst i x).dbg = e.dbg := rfl
@[simp] theorem Eng.setInst_pd (e : Eng) (i : Nat) (x : Inst) : (e.setInst i x).pd = e.pd := rfl
@[simp] theorem Eng.setInst_nextIdle (e : Eng) (i : Nat) (x : Inst) : (e.setInst i x).nextIdle = e.nextIdle := rfl
@[simp] theorem Eng.setInst_nextQueued (e : Eng) (i : Nat) (x : Inst) : (e.setInst i x).nextQueued = e.nextQueued := rfl
@[simp] theorem Eng.setInst_readData (e : Eng) (i : Nat) (x : Inst) : (e.setInst i x).readData = e.readData := rfl
@[simp] theorem Eng.setInst_out (e : Eng) (i : Nat) (x : Inst) : (e.setInst i x).out = e.out := rfl
@[simp] theorem Eng.setInst_free (e : Eng) (i : Nat) (x : Inst) : (e.setInst i x).free = e.free := rfl
@[simp] theorem Eng.setInst_cmp_draftFresh (e : Eng) (i : Nat) (x : Inst) : (e.setInst i x).cmp.draftFresh = e.cmp.draftFresh := rfl
@[simp] theorem Eng.setInst_cmp_draftFreed (e : Eng) (i : Nat) (x : Inst) : (e.setInst i x).cmp.draftFreed = e.cmp.draftFreed := rfl

/-! ### modInst -/

@[simp] theorem Eng.modInst_now (e : Eng) (i : Nat) (f : Inst → Inst) : (e.modInst i f).now = e.now := rfl
@[simp] theorem Eng.modInst_regs (e : Eng) (i : Nat) (f : Inst → Inst) : (e.modInst i f).regs = e.regs := rfl
@[simp] theorem Eng.modInst_act (e : Eng) (i : Nat) (f : Inst → Inst) : (e.modInst i f).act = e.act := rfl
@[simp] theorem Eng.modInst_cap (e : Eng) (i : Nat) (f : Inst → Inst) : (e.modInst i f).cap = e.cap := rfl
@[simp] theorem Eng.modInst_pend (e : Eng) (i : Nat) (f : Inst → Inst) : (e.modInst i f).pend = e.pend := rfl
@[simp] theorem Eng.modInst_held (e : Eng) (i : Nat) (f : Inst → Inst) : (e.modInst i f).held = e.held := rfl
@[simp] theorem Eng.modInst_pairLow (e : Eng) (i : Nat) (f : Inst → Inst) : (e.modInst i f).pairLow = e.pairLow := rfl
@[simp] theorem Eng.modInst_latch (e : Eng) (i : Nat) (f : Inst → Inst) : (e.modInst i f).latch = e.latch := rfl
@[simp] theorem Eng.modInst_tal (e : Eng) (i : Nat) (f : Inst → Inst) : (e.modInst i f).tal = e.tal := rfl
@[simp] theorem Eng.modInst_hat (e : Eng) (i : Nat) (f : Inst → Inst) : (e.modInst i f).hat = e.hat := rfl
@[simp] theorem Eng.modInst_led (e : Eng) (i : Nat) (f : Inst → Inst) : (e.modInst i f).led = e.led := rfl
@[simp] theorem Eng.modInst_gat (e : Eng) (i : Nat) (f : Inst → Inst) : (e.modInst i f).gat = e.gat := rfl
@[simp] theorem Eng.modInst_stw (e : Eng) (i : Nat) (f : Inst → Inst) : (e.modInst i f).stw = e.stw := rfl
@[simp] theorem Eng.modInst_shv (e : Eng) (i : Nat) (f : Inst → Inst) : (e.modInst i f).shv = e.shv := rfl
@[simp] theorem Eng.modInst_pan (e : Eng) (i : Nat) (f : Inst → Inst) : (e.modInst i f).pan = e.pan := rfl
@[simp] theorem Eng.modInst_smp (e : Eng) (i : Nat) (f : Inst → Inst) : (e.modInst i f).smp = e.smp := rfl
@[simp] theorem Eng.modInst_siv (e : Eng) (i : Nat) (f : Inst → Inst) : (e.modInst i f).siv = e.siv := rfl
@[simp] theorem Eng.modInst_rsu (e : Eng) (i : Nat) (f : Inst → Inst) : (e.modInst i f).rsu = e.rsu := rfl
@[simp] theorem Eng.modInst_bin (e : Eng) (i : Nat) (f : Inst → Inst) : (e.modInst i f).bin = e.bin := rfl
@[simp] theorem Eng.modInst_kpr (e : Eng) (i : Nat) (f : Inst → Inst) : (e.modInst i f).kpr = e.kpr := rfl
@[simp] theorem Eng.modInst_raf (e : Eng) (i : Nat) (f : Inst → Inst) : (e.modInst i f).raf = e.raf := rfl
@[simp] theorem Eng.modInst_ras (e : Eng) (i : Nat) (f : Inst → Inst) : (e.modInst i f).ras = e.ras := rfl
@[simp] theorem Eng.modInst_dbg (e : Eng) (i : Nat) (f : Inst → Inst) : (e.modInst i f).dbg = e.dbg := rfl
@[simp] theorem Eng.modInst_pd (e : Eng) (i : Nat) (f : Inst → Inst) : (e.modInst i f).pd = e.pd := rfl
@[simp] theorem Eng.modInst_nextIdle (e : Eng) (i : Nat) (f : Inst → Inst) : (e.modInst i f).nextIdle = e.nextIdle := rfl
@[simp] theorem Eng.modInst_nextQueued (e : Eng) (i : Nat) (f : Inst → Inst) : (e.modInst i f).nextQueued = e.nextQueued := rfl
@[simp] theorem Eng.modInst_readData (e : Eng) (i : Nat) (f : Inst → Inst) : (e.modInst i f).readData = e.readData := rfl
@[simp] theorem Eng.modInst_out (e : Eng) (i : Nat) (f : Inst → Inst) : (e.modInst i f).out = e.out := rfl
@[simp] theorem Eng.modInst_free (e : Eng) (i : Nat) (f : Inst → Inst) : (e.modInst i f).free = e.free := rfl
@[simp] theorem Eng.modInst_cmp_draftFresh (e : Eng) (i : Nat) (f : Inst → Inst) : (e.modInst i f).cmp.draftFresh = e.cmp.draftFresh := rfl
@[simp] theorem Eng.modInst_cmp_draftFreed (e : Eng) (i : Nat) (f : Inst → Inst) : (e.modInst i f).cmp.draftFreed = e.cmp.draftFreed := rfl

/-! ### setPart -/

@[simp] theorem Eng.setPart_now (e : Eng) (p : Nat) (x : KPart) : (e.setPart p x).now = e.now := rfl
@[simp] theorem Eng.setPart_regs (e : Eng) (p : Nat) (x : KPart) : (e.setPart p x).regs = e.regs := rfl
@[simp] theorem Eng.setPart_act (e : Eng) (p : Nat) (x : KPart) : (e.setPart p x).act = e.act := rfl
@[simp] theorem Eng.setPart_cap (e : Eng) (p : Nat) (x : KPart) : (e.setPart p x).cap = e.cap := rfl
@[simp] theorem Eng.setPart_pend (e : Eng) (p : Nat) (x : KPart) : (e.setPart p x).pend = e.pend := rfl
@[simp] theorem Eng.setPart_held (e : Eng) (p : Nat) (x : KPart) : (e.setPart p x).held = e.held := rfl
@[simp] theorem Eng.setPart_pairLow (e : Eng) (p : Nat) (x : KPart) : (e.setPart p x).pairLow = e.pairLow := rfl
@[simp] theorem Eng.setPart_latch (e : Eng) (p : Nat) (x : KPart) : (e.setPart p x).latch = e.latch := rfl
@[simp] theorem Eng.setPart_tal (e : Eng) (p : Nat) (x : KPart) : (e.setPart p x).tal = e.tal := rfl
@[simp] theorem Eng.setPart_hat (e : Eng) (p : Nat) (x : KPart) : (e.setPart p x).hat = e.hat := rfl
@[simp] theorem Eng.setPart_led (e : Eng) (p : Nat) (x : KPart) : (e.setPart p x).led = e.led := rfl
@[simp] theorem Eng.setPart_gat (e : Eng) (p : Nat) (x : KPart) : (e.setPart p x).gat = e.gat := rfl
@[simp] theorem Eng.setPart_cmp (e : Eng) (p : Nat) (x : KPart) : (e.setPart p x).cmp = e.cmp := rfl
@[simp] theorem Eng.setPart_stw (e : Eng) (p : Nat) (x : KPart) : (e.setPart p x).stw = e.stw := rfl
@[simp] theorem Eng.setPart_shv (e : Eng) (p : Nat) (x : KPart) : (e.setPart p x).shv = e.shv := rfl
@[simp] theorem Eng.setPart_pan (e : Eng) (p : Nat) (x : KPart) : (e.setPart p x).pan = e.pan := rfl
@[simp] theorem Eng.setPart_smp (e : Eng) (p : Nat) (x : KPart) : (e.setPart p x).smp = e.smp := rfl
@[simp] theorem Eng.setPart_siv (e : Eng) (p : Nat) (x : KPart) : (e.setPart p x).siv = e.siv := rfl
@[simp] theorem Eng.setPart_rsu (e : Eng) (p : Nat) (x : KPart) : (e.setPart p x).rsu = e.rsu := rfl
@[simp] theorem Eng.setPart_bin (e : Eng) (p : Nat) (x : KPart) : (e.setPart p x).bin = e.bin := rfl
@[simp] theorem Eng.setPart_raf (e : Eng) (p : Nat) (x : KPart) : (e.setPart p x).raf = e.raf := rfl
@[simp] theorem Eng.setPart_ras (e : Eng) (p : Nat) (x : KPart) : (e.setPart p x).ras = e.ras := rfl
@[simp] theorem Eng.setPart_dbg (e : Eng) (p : Nat) (x : KPart) : (e.setPart p x).dbg = e.dbg := rfl
@[simp] theorem Eng.setPart_pd (e : Eng) (p : Nat) (x : KPart) : (e.setPart p x).pd = e.pd := rfl
@[simp] theorem Eng.setPart_nextIdle (e : Eng) (p : Nat) (x : KPart) : (e.setPart p x).nextIdle = e.nextIdle := rfl
@[simp] theorem Eng.setPart_nextQueued (e : Eng) (p : Nat) (x : KPart) : (e.setPart p x).nextQueued = e.nextQueued := rfl
@[simp] theorem Eng.setPart_readData (e : Eng) (p : Nat) (x : KPart) : (e.setPart p x).readData = e.readData := rfl
@[simp] theorem Eng.setPart_out (e : Eng) (p : Nat) (x : KPart) : (e.setPart p x).out = e.out := rfl
@[simp] theorem Eng.setPart_free (e : Eng) (p : Nat) (x : KPart) : (e.setPart p x).free = e.free := rfl
@[simp] theorem Eng.setPart_kpr_gvt (e : Eng) (p : Nat) (x : KPart) : (e.setPart p x).kpr.gvt = e.kpr.gvt := rfl
@[simp] theorem Eng.setPart_kpr_ctxs (e : Eng) (p : Nat) (x : KPart) : (e.setPart p x).kpr.ctxs = e.kpr.ctxs := rfl
@[simp] theorem Eng.setPart_kpr_sems (e : Eng) (p : Nat) (x : KPart) : (e.setPart p x).kpr.sems = e.kpr.sems := rfl
@[simp] theorem Eng.setPart_kpr_dons (e : Eng) (p : Nat) (x : KPart) : (e.setPart p x).kpr.dons = e.kpr.dons := rfl
@[simp] theorem Eng.setPart_kpr_deadlocked (e : Eng) (p : Nat) (x : KPart) : (e.setPart p x).kpr.deadlocked = e.kpr.deadlocked := rfl
@[simp] theorem Eng.setPart_kpr_blockSince (e : Eng) (p : Nat) (x : KPart) : (e.setPart p x).kpr.blockSince = e.kpr.blockSince := rfl
@[simp] theorem Eng.setPart_kpr_cmd (e : Eng) (p : Nat) (x : KPart) : (e.setPart p x).kpr.cmd = e.kpr.cmd := rfl
@[simp] theorem Eng.setPart_kpr_cmdStatus (e : Eng) (p : Nat) (x : KPart) : (e.setPart p x).kpr.cmdStatus = e.kpr.cmdStatus := rfl
@[simp] theorem Eng.setPart_kpr_imgBytes (e : Eng) (p : Nat) (x : KPart) : (e.setPart p x).kpr.imgBytes = e.kpr.imgBytes := rfl
@[simp] theorem Eng.setPart_kpr_exports (e : Eng) (p : Nat) (x : KPart) : (e.setPart p x).kpr.exports = e.kpr.exports := rfl
@[simp] theorem Eng.setPart_kpr_draw (e : Eng) (p : Nat) (x : KPart) : (e.setPart p x).kpr.draw = e.kpr.draw := rfl
@[simp] theorem Eng.setPart_kpr_base (e : Eng) (p : Nat) (x : KPart) : (e.setPart p x).kpr.base = e.kpr.base := rfl
@[simp] theorem Eng.setPart_kpr_rampFree (e : Eng) (p : Nat) (x : KPart) : (e.setPart p x).kpr.rampFree = e.kpr.rampFree := rfl
@[simp] theorem Eng.setPart_kpr_committed (e : Eng) (p : Nat) (x : KPart) : (e.setPart p x).kpr.committed = e.kpr.committed := rfl
@[simp] theorem Eng.setPart_kpr_overCap (e : Eng) (p : Nat) (x : KPart) : (e.setPart p x).kpr.overCap = e.kpr.overCap := rfl
@[simp] theorem Eng.setPart_kpr_grants (e : Eng) (p : Nat) (x : KPart) : (e.setPart p x).kpr.grants = e.kpr.grants := rfl
@[simp] theorem Eng.setPart_kpr_queue (e : Eng) (p : Nat) (x : KPart) : (e.setPart p x).kpr.queue = e.kpr.queue := rfl
@[simp] theorem Eng.setPart_kpr_heldReqs (e : Eng) (p : Nat) (x : KPart) : (e.setPart p x).kpr.heldReqs = e.kpr.heldReqs := rfl
@[simp] theorem Eng.setPart_kpr_toks (e : Eng) (p : Nat) (x : KPart) : (e.setPart p x).kpr.toks = e.kpr.toks := rfl
@[simp] theorem Eng.setPart_kpr_wants (e : Eng) (p : Nat) (x : KPart) : (e.setPart p x).kpr.wants = e.kpr.wants := rfl
@[simp] theorem Eng.setPart_kpr_gots (e : Eng) (p : Nat) (x : KPart) : (e.setPart p x).kpr.gots = e.kpr.gots := rfl
@[simp] theorem Eng.setPart_kpr_reqs (e : Eng) (p : Nat) (x : KPart) : (e.setPart p x).kpr.reqs = e.kpr.reqs := rfl
@[simp] theorem Eng.setPart_kpr_unattr (e : Eng) (p : Nat) (x : KPart) : (e.setPart p x).kpr.unattr = e.kpr.unattr := rfl
@[simp] theorem Eng.setPart_kpr_rho (e : Eng) (p : Nat) (x : KPart) : (e.setPart p x).kpr.rho = e.kpr.rho := rfl
@[simp] theorem Eng.setPart_kpr_streamGrants (e : Eng) (p : Nat) (x : KPart) : (e.setPart p x).kpr.streamGrants = e.kpr.streamGrants := rfl
@[simp] theorem Eng.setPart_kpr_streamWait (e : Eng) (p : Nat) (x : KPart) : (e.setPart p x).kpr.streamWait = e.kpr.streamWait := rfl
@[simp] theorem Eng.setPart_kpr_winStart (e : Eng) (p : Nat) (x : KPart) : (e.setPart p x).kpr.winStart = e.kpr.winStart := rfl
@[simp] theorem Eng.setPart_kpr_nextPoint (e : Eng) (p : Nat) (x : KPart) : (e.setPart p x).kpr.nextPoint = e.kpr.nextPoint := rfl
@[simp] theorem Eng.setPart_kpr_nextRefill (e : Eng) (p : Nat) (x : KPart) : (e.setPart p x).kpr.nextRefill = e.kpr.nextRefill := rfl
@[simp] theorem Eng.setPart_kpr_nextClose (e : Eng) (p : Nat) (x : KPart) : (e.setPart p x).kpr.nextClose = e.kpr.nextClose := rfl
@[simp] theorem Eng.setPart_kpr_nextWindow (e : Eng) (p : Nat) (x : KPart) : (e.setPart p x).kpr.nextWindow = e.kpr.nextWindow := rfl

/-! ### modPart -/

@[simp] theorem Eng.modPart_now (e : Eng) (p : Nat) (f : KPart → KPart) : (e.modPart p f).now = e.now := rfl
@[simp] theorem Eng.modPart_regs (e : Eng) (p : Nat) (f : KPart → KPart) : (e.modPart p f).regs = e.regs := rfl
@[simp] theorem Eng.modPart_act (e : Eng) (p : Nat) (f : KPart → KPart) : (e.modPart p f).act = e.act := rfl
@[simp] theorem Eng.modPart_cap (e : Eng) (p : Nat) (f : KPart → KPart) : (e.modPart p f).cap = e.cap := rfl
@[simp] theorem Eng.modPart_pend (e : Eng) (p : Nat) (f : KPart → KPart) : (e.modPart p f).pend = e.pend := rfl
@[simp] theorem Eng.modPart_held (e : Eng) (p : Nat) (f : KPart → KPart) : (e.modPart p f).held = e.held := rfl
@[simp] theorem Eng.modPart_pairLow (e : Eng) (p : Nat) (f : KPart → KPart) : (e.modPart p f).pairLow = e.pairLow := rfl
@[simp] theorem Eng.modPart_latch (e : Eng) (p : Nat) (f : KPart → KPart) : (e.modPart p f).latch = e.latch := rfl
@[simp] theorem Eng.modPart_tal (e : Eng) (p : Nat) (f : KPart → KPart) : (e.modPart p f).tal = e.tal := rfl
@[simp] theorem Eng.modPart_hat (e : Eng) (p : Nat) (f : KPart → KPart) : (e.modPart p f).hat = e.hat := rfl
@[simp] theorem Eng.modPart_led (e : Eng) (p : Nat) (f : KPart → KPart) : (e.modPart p f).led = e.led := rfl
@[simp] theorem Eng.modPart_gat (e : Eng) (p : Nat) (f : KPart → KPart) : (e.modPart p f).gat = e.gat := rfl
@[simp] theorem Eng.modPart_cmp (e : Eng) (p : Nat) (f : KPart → KPart) : (e.modPart p f).cmp = e.cmp := rfl
@[simp] theorem Eng.modPart_stw (e : Eng) (p : Nat) (f : KPart → KPart) : (e.modPart p f).stw = e.stw := rfl
@[simp] theorem Eng.modPart_shv (e : Eng) (p : Nat) (f : KPart → KPart) : (e.modPart p f).shv = e.shv := rfl
@[simp] theorem Eng.modPart_pan (e : Eng) (p : Nat) (f : KPart → KPart) : (e.modPart p f).pan = e.pan := rfl
@[simp] theorem Eng.modPart_smp (e : Eng) (p : Nat) (f : KPart → KPart) : (e.modPart p f).smp = e.smp := rfl
@[simp] theorem Eng.modPart_siv (e : Eng) (p : Nat) (f : KPart → KPart) : (e.modPart p f).siv = e.siv := rfl
@[simp] theorem Eng.modPart_rsu (e : Eng) (p : Nat) (f : KPart → KPart) : (e.modPart p f).rsu = e.rsu := rfl
@[simp] theorem Eng.modPart_bin (e : Eng) (p : Nat) (f : KPart → KPart) : (e.modPart p f).bin = e.bin := rfl
@[simp] theorem Eng.modPart_raf (e : Eng) (p : Nat) (f : KPart → KPart) : (e.modPart p f).raf = e.raf := rfl
@[simp] theorem Eng.modPart_ras (e : Eng) (p : Nat) (f : KPart → KPart) : (e.modPart p f).ras = e.ras := rfl
@[simp] theorem Eng.modPart_dbg (e : Eng) (p : Nat) (f : KPart → KPart) : (e.modPart p f).dbg = e.dbg := rfl
@[simp] theorem Eng.modPart_pd (e : Eng) (p : Nat) (f : KPart → KPart) : (e.modPart p f).pd = e.pd := rfl
@[simp] theorem Eng.modPart_nextIdle (e : Eng) (p : Nat) (f : KPart → KPart) : (e.modPart p f).nextIdle = e.nextIdle := rfl
@[simp] theorem Eng.modPart_nextQueued (e : Eng) (p : Nat) (f : KPart → KPart) : (e.modPart p f).nextQueued = e.nextQueued := rfl
@[simp] theorem Eng.modPart_readData (e : Eng) (p : Nat) (f : KPart → KPart) : (e.modPart p f).readData = e.readData := rfl
@[simp] theorem Eng.modPart_out (e : Eng) (p : Nat) (f : KPart → KPart) : (e.modPart p f).out = e.out := rfl
@[simp] theorem Eng.modPart_free (e : Eng) (p : Nat) (f : KPart → KPart) : (e.modPart p f).free = e.free := rfl
@[simp] theorem Eng.modPart_kpr_gvt (e : Eng) (p : Nat) (f : KPart → KPart) : (e.modPart p f).kpr.gvt = e.kpr.gvt := rfl
@[simp] theorem Eng.modPart_kpr_ctxs (e : Eng) (p : Nat) (f : KPart → KPart) : (e.modPart p f).kpr.ctxs = e.kpr.ctxs := rfl
@[simp] theorem Eng.modPart_kpr_sems (e : Eng) (p : Nat) (f : KPart → KPart) : (e.modPart p f).kpr.sems = e.kpr.sems := rfl
@[simp] theorem Eng.modPart_kpr_dons (e : Eng) (p : Nat) (f : KPart → KPart) : (e.modPart p f).kpr.dons = e.kpr.dons := rfl
@[simp] theorem Eng.modPart_kpr_deadlocked (e : Eng) (p : Nat) (f : KPart → KPart) : (e.modPart p f).kpr.deadlocked = e.kpr.deadlocked := rfl
@[simp] theorem Eng.modPart_kpr_blockSince (e : Eng) (p : Nat) (f : KPart → KPart) : (e.modPart p f).kpr.blockSince = e.kpr.blockSince := rfl
@[simp] theorem Eng.modPart_kpr_cmd (e : Eng) (p : Nat) (f : KPart → KPart) : (e.modPart p f).kpr.cmd = e.kpr.cmd := rfl
@[simp] theorem Eng.modPart_kpr_cmdStatus (e : Eng) (p : Nat) (f : KPart → KPart) : (e.modPart p f).kpr.cmdStatus = e.kpr.cmdStatus := rfl
@[simp] theorem Eng.modPart_kpr_imgBytes (e : Eng) (p : Nat) (f : KPart → KPart) : (e.modPart p f).kpr.imgBytes = e.kpr.imgBytes := rfl
@[simp] theorem Eng.modPart_kpr_exports (e : Eng) (p : Nat) (f : KPart → KPart) : (e.modPart p f).kpr.exports = e.kpr.exports := rfl
@[simp] theorem Eng.modPart_kpr_draw (e : Eng) (p : Nat) (f : KPart → KPart) : (e.modPart p f).kpr.draw = e.kpr.draw := rfl
@[simp] theorem Eng.modPart_kpr_base (e : Eng) (p : Nat) (f : KPart → KPart) : (e.modPart p f).kpr.base = e.kpr.base := rfl
@[simp] theorem Eng.modPart_kpr_rampFree (e : Eng) (p : Nat) (f : KPart → KPart) : (e.modPart p f).kpr.rampFree = e.kpr.rampFree := rfl
@[simp] theorem Eng.modPart_kpr_committed (e : Eng) (p : Nat) (f : KPart → KPart) : (e.modPart p f).kpr.committed = e.kpr.committed := rfl
@[simp] theorem Eng.modPart_kpr_overCap (e : Eng) (p : Nat) (f : KPart → KPart) : (e.modPart p f).kpr.overCap = e.kpr.overCap := rfl
@[simp] theorem Eng.modPart_kpr_grants (e : Eng) (p : Nat) (f : KPart → KPart) : (e.modPart p f).kpr.grants = e.kpr.grants := rfl
@[simp] theorem Eng.modPart_kpr_queue (e : Eng) (p : Nat) (f : KPart → KPart) : (e.modPart p f).kpr.queue = e.kpr.queue := rfl
@[simp] theorem Eng.modPart_kpr_heldReqs (e : Eng) (p : Nat) (f : KPart → KPart) : (e.modPart p f).kpr.heldReqs = e.kpr.heldReqs := rfl
@[simp] theorem Eng.modPart_kpr_toks (e : Eng) (p : Nat) (f : KPart → KPart) : (e.modPart p f).kpr.toks = e.kpr.toks := rfl
@[simp] theorem Eng.modPart_kpr_wants (e : Eng) (p : Nat) (f : KPart → KPart) : (e.modPart p f).kpr.wants = e.kpr.wants := rfl
@[simp] theorem Eng.modPart_kpr_gots (e : Eng) (p : Nat) (f : KPart → KPart) : (e.modPart p f).kpr.gots = e.kpr.gots := rfl
@[simp] theorem Eng.modPart_kpr_reqs (e : Eng) (p : Nat) (f : KPart → KPart) : (e.modPart p f).kpr.reqs = e.kpr.reqs := rfl
@[simp] theorem Eng.modPart_kpr_unattr (e : Eng) (p : Nat) (f : KPart → KPart) : (e.modPart p f).kpr.unattr = e.kpr.unattr := rfl
@[simp] theorem Eng.modPart_kpr_rho (e : Eng) (p : Nat) (f : KPart → KPart) : (e.modPart p f).kpr.rho = e.kpr.rho := rfl
@[simp] theorem Eng.modPart_kpr_streamGrants (e : Eng) (p : Nat) (f : KPart → KPart) : (e.modPart p f).kpr.streamGrants = e.kpr.streamGrants := rfl
@[simp] theorem Eng.modPart_kpr_streamWait (e : Eng) (p : Nat) (f : KPart → KPart) : (e.modPart p f).kpr.streamWait = e.kpr.streamWait := rfl
@[simp] theorem Eng.modPart_kpr_winStart (e : Eng) (p : Nat) (f : KPart → KPart) : (e.modPart p f).kpr.winStart = e.kpr.winStart := rfl
@[simp] theorem Eng.modPart_kpr_nextPoint (e : Eng) (p : Nat) (f : KPart → KPart) : (e.modPart p f).kpr.nextPoint = e.kpr.nextPoint := rfl
@[simp] theorem Eng.modPart_kpr_nextRefill (e : Eng) (p : Nat) (f : KPart → KPart) : (e.modPart p f).kpr.nextRefill = e.kpr.nextRefill := rfl
@[simp] theorem Eng.modPart_kpr_nextClose (e : Eng) (p : Nat) (f : KPart → KPart) : (e.modPart p f).kpr.nextClose = e.kpr.nextClose := rfl
@[simp] theorem Eng.modPart_kpr_nextWindow (e : Eng) (p : Nat) (f : KPart → KPart) : (e.modPart p f).kpr.nextWindow = e.kpr.nextWindow := rfl

/-! ### setCtx -/

@[simp] theorem Eng.setCtx_now (e : Eng) (i : Nat) (x : Ctx) : (e.setCtx i x).now = e.now := rfl
@[simp] theorem Eng.setCtx_regs (e : Eng) (i : Nat) (x : Ctx) : (e.setCtx i x).regs = e.regs := rfl
@[simp] theorem Eng.setCtx_act (e : Eng) (i : Nat) (x : Ctx) : (e.setCtx i x).act = e.act := rfl
@[simp] theorem Eng.setCtx_cap (e : Eng) (i : Nat) (x : Ctx) : (e.setCtx i x).cap = e.cap := rfl
@[simp] theorem Eng.setCtx_pend (e : Eng) (i : Nat) (x : Ctx) : (e.setCtx i x).pend = e.pend := rfl
@[simp] theorem Eng.setCtx_held (e : Eng) (i : Nat) (x : Ctx) : (e.setCtx i x).held = e.held := rfl
@[simp] theorem Eng.setCtx_pairLow (e : Eng) (i : Nat) (x : Ctx) : (e.setCtx i x).pairLow = e.pairLow := rfl
@[simp] theorem Eng.setCtx_latch (e : Eng) (i : Nat) (x : Ctx) : (e.setCtx i x).latch = e.latch := rfl
@[simp] theorem Eng.setCtx_tal (e : Eng) (i : Nat) (x : Ctx) : (e.setCtx i x).tal = e.tal := rfl
@[simp] theorem Eng.setCtx_hat (e : Eng) (i : Nat) (x : Ctx) : (e.setCtx i x).hat = e.hat := rfl
@[simp] theorem Eng.setCtx_led (e : Eng) (i : Nat) (x : Ctx) : (e.setCtx i x).led = e.led := rfl
@[simp] theorem Eng.setCtx_gat (e : Eng) (i : Nat) (x : Ctx) : (e.setCtx i x).gat = e.gat := rfl
@[simp] theorem Eng.setCtx_cmp (e : Eng) (i : Nat) (x : Ctx) : (e.setCtx i x).cmp = e.cmp := rfl
@[simp] theorem Eng.setCtx_stw (e : Eng) (i : Nat) (x : Ctx) : (e.setCtx i x).stw = e.stw := rfl
@[simp] theorem Eng.setCtx_shv (e : Eng) (i : Nat) (x : Ctx) : (e.setCtx i x).shv = e.shv := rfl
@[simp] theorem Eng.setCtx_pan (e : Eng) (i : Nat) (x : Ctx) : (e.setCtx i x).pan = e.pan := rfl
@[simp] theorem Eng.setCtx_smp (e : Eng) (i : Nat) (x : Ctx) : (e.setCtx i x).smp = e.smp := rfl
@[simp] theorem Eng.setCtx_siv (e : Eng) (i : Nat) (x : Ctx) : (e.setCtx i x).siv = e.siv := rfl
@[simp] theorem Eng.setCtx_rsu (e : Eng) (i : Nat) (x : Ctx) : (e.setCtx i x).rsu = e.rsu := rfl
@[simp] theorem Eng.setCtx_bin (e : Eng) (i : Nat) (x : Ctx) : (e.setCtx i x).bin = e.bin := rfl
@[simp] theorem Eng.setCtx_raf (e : Eng) (i : Nat) (x : Ctx) : (e.setCtx i x).raf = e.raf := rfl
@[simp] theorem Eng.setCtx_ras (e : Eng) (i : Nat) (x : Ctx) : (e.setCtx i x).ras = e.ras := rfl
@[simp] theorem Eng.setCtx_dbg (e : Eng) (i : Nat) (x : Ctx) : (e.setCtx i x).dbg = e.dbg := rfl
@[simp] theorem Eng.setCtx_pd (e : Eng) (i : Nat) (x : Ctx) : (e.setCtx i x).pd = e.pd := rfl
@[simp] theorem Eng.setCtx_nextIdle (e : Eng) (i : Nat) (x : Ctx) : (e.setCtx i x).nextIdle = e.nextIdle := rfl
@[simp] theorem Eng.setCtx_nextQueued (e : Eng) (i : Nat) (x : Ctx) : (e.setCtx i x).nextQueued = e.nextQueued := rfl
@[simp] theorem Eng.setCtx_readData (e : Eng) (i : Nat) (x : Ctx) : (e.setCtx i x).readData = e.readData := rfl
@[simp] theorem Eng.setCtx_out (e : Eng) (i : Nat) (x : Ctx) : (e.setCtx i x).out = e.out := rfl
@[simp] theorem Eng.setCtx_free (e : Eng) (i : Nat) (x : Ctx) : (e.setCtx i x).free = e.free := rfl
@[simp] theorem Eng.setCtx_kpr_parts (e : Eng) (i : Nat) (x : Ctx) : (e.setCtx i x).kpr.parts = e.kpr.parts := rfl
@[simp] theorem Eng.setCtx_kpr_gvt (e : Eng) (i : Nat) (x : Ctx) : (e.setCtx i x).kpr.gvt = e.kpr.gvt := rfl
@[simp] theorem Eng.setCtx_kpr_sems (e : Eng) (i : Nat) (x : Ctx) : (e.setCtx i x).kpr.sems = e.kpr.sems := rfl
@[simp] theorem Eng.setCtx_kpr_dons (e : Eng) (i : Nat) (x : Ctx) : (e.setCtx i x).kpr.dons = e.kpr.dons := rfl
@[simp] theorem Eng.setCtx_kpr_deadlocked (e : Eng) (i : Nat) (x : Ctx) : (e.setCtx i x).kpr.deadlocked = e.kpr.deadlocked := rfl
@[simp] theorem Eng.setCtx_kpr_blockSince (e : Eng) (i : Nat) (x : Ctx) : (e.setCtx i x).kpr.blockSince = e.kpr.blockSince := rfl
@[simp] theorem Eng.setCtx_kpr_cmd (e : Eng) (i : Nat) (x : Ctx) : (e.setCtx i x).kpr.cmd = e.kpr.cmd := rfl
@[simp] theorem Eng.setCtx_kpr_cmdStatus (e : Eng) (i : Nat) (x : Ctx) : (e.setCtx i x).kpr.cmdStatus = e.kpr.cmdStatus := rfl
@[simp] theorem Eng.setCtx_kpr_imgBytes (e : Eng) (i : Nat) (x : Ctx) : (e.setCtx i x).kpr.imgBytes = e.kpr.imgBytes := rfl
@[simp] theorem Eng.setCtx_kpr_exports (e : Eng) (i : Nat) (x : Ctx) : (e.setCtx i x).kpr.exports = e.kpr.exports := rfl
@[simp] theorem Eng.setCtx_kpr_draw (e : Eng) (i : Nat) (x : Ctx) : (e.setCtx i x).kpr.draw = e.kpr.draw := rfl
@[simp] theorem Eng.setCtx_kpr_base (e : Eng) (i : Nat) (x : Ctx) : (e.setCtx i x).kpr.base = e.kpr.base := rfl
@[simp] theorem Eng.setCtx_kpr_rampFree (e : Eng) (i : Nat) (x : Ctx) : (e.setCtx i x).kpr.rampFree = e.kpr.rampFree := rfl
@[simp] theorem Eng.setCtx_kpr_committed (e : Eng) (i : Nat) (x : Ctx) : (e.setCtx i x).kpr.committed = e.kpr.committed := rfl
@[simp] theorem Eng.setCtx_kpr_overCap (e : Eng) (i : Nat) (x : Ctx) : (e.setCtx i x).kpr.overCap = e.kpr.overCap := rfl
@[simp] theorem Eng.setCtx_kpr_grants (e : Eng) (i : Nat) (x : Ctx) : (e.setCtx i x).kpr.grants = e.kpr.grants := rfl
@[simp] theorem Eng.setCtx_kpr_queue (e : Eng) (i : Nat) (x : Ctx) : (e.setCtx i x).kpr.queue = e.kpr.queue := rfl
@[simp] theorem Eng.setCtx_kpr_heldReqs (e : Eng) (i : Nat) (x : Ctx) : (e.setCtx i x).kpr.heldReqs = e.kpr.heldReqs := rfl
@[simp] theorem Eng.setCtx_kpr_toks (e : Eng) (i : Nat) (x : Ctx) : (e.setCtx i x).kpr.toks = e.kpr.toks := rfl
@[simp] theorem Eng.setCtx_kpr_wants (e : Eng) (i : Nat) (x : Ctx) : (e.setCtx i x).kpr.wants = e.kpr.wants := rfl
@[simp] theorem Eng.setCtx_kpr_gots (e : Eng) (i : Nat) (x : Ctx) : (e.setCtx i x).kpr.gots = e.kpr.gots := rfl
@[simp] theorem Eng.setCtx_kpr_reqs (e : Eng) (i : Nat) (x : Ctx) : (e.setCtx i x).kpr.reqs = e.kpr.reqs := rfl
@[simp] theorem Eng.setCtx_kpr_unattr (e : Eng) (i : Nat) (x : Ctx) : (e.setCtx i x).kpr.unattr = e.kpr.unattr := rfl
@[simp] theorem Eng.setCtx_kpr_rho (e : Eng) (i : Nat) (x : Ctx) : (e.setCtx i x).kpr.rho = e.kpr.rho := rfl
@[simp] theorem Eng.setCtx_kpr_streamGrants (e : Eng) (i : Nat) (x : Ctx) : (e.setCtx i x).kpr.streamGrants = e.kpr.streamGrants := rfl
@[simp] theorem Eng.setCtx_kpr_streamWait (e : Eng) (i : Nat) (x : Ctx) : (e.setCtx i x).kpr.streamWait = e.kpr.streamWait := rfl
@[simp] theorem Eng.setCtx_kpr_winStart (e : Eng) (i : Nat) (x : Ctx) : (e.setCtx i x).kpr.winStart = e.kpr.winStart := rfl
@[simp] theorem Eng.setCtx_kpr_nextPoint (e : Eng) (i : Nat) (x : Ctx) : (e.setCtx i x).kpr.nextPoint = e.kpr.nextPoint := rfl
@[simp] theorem Eng.setCtx_kpr_nextRefill (e : Eng) (i : Nat) (x : Ctx) : (e.setCtx i x).kpr.nextRefill = e.kpr.nextRefill := rfl
@[simp] theorem Eng.setCtx_kpr_nextClose (e : Eng) (i : Nat) (x : Ctx) : (e.setCtx i x).kpr.nextClose = e.kpr.nextClose := rfl
@[simp] theorem Eng.setCtx_kpr_nextWindow (e : Eng) (i : Nat) (x : Ctx) : (e.setCtx i x).kpr.nextWindow = e.kpr.nextWindow := rfl

/-! ### modCtx -/

@[simp] theorem Eng.modCtx_now (e : Eng) (i : Nat) (f : Ctx → Ctx) : (e.modCtx i f).now = e.now := rfl
@[simp] theorem Eng.modCtx_regs (e : Eng) (i : Nat) (f : Ctx → Ctx) : (e.modCtx i f).regs = e.regs := rfl
@[simp] theorem Eng.modCtx_act (e : Eng) (i : Nat) (f : Ctx → Ctx) : (e.modCtx i f).act = e.act := rfl
@[simp] theorem Eng.modCtx_cap (e : Eng) (i : Nat) (f : Ctx → Ctx) : (e.modCtx i f).cap = e.cap := rfl
@[simp] theorem Eng.modCtx_pend (e : Eng) (i : Nat) (f : Ctx → Ctx) : (e.modCtx i f).pend = e.pend := rfl
@[simp] theorem Eng.modCtx_held (e : Eng) (i : Nat) (f : Ctx → Ctx) : (e.modCtx i f).held = e.held := rfl
@[simp] theorem Eng.modCtx_pairLow (e : Eng) (i : Nat) (f : Ctx → Ctx) : (e.modCtx i f).pairLow = e.pairLow := rfl
@[simp] theorem Eng.modCtx_latch (e : Eng) (i : Nat) (f : Ctx → Ctx) : (e.modCtx i f).latch = e.latch := rfl
@[simp] theorem Eng.modCtx_tal (e : Eng) (i : Nat) (f : Ctx → Ctx) : (e.modCtx i f).tal = e.tal := rfl
@[simp] theorem Eng.modCtx_hat (e : Eng) (i : Nat) (f : Ctx → Ctx) : (e.modCtx i f).hat = e.hat := rfl
@[simp] theorem Eng.modCtx_led (e : Eng) (i : Nat) (f : Ctx → Ctx) : (e.modCtx i f).led = e.led := rfl
@[simp] theorem Eng.modCtx_gat (e : Eng) (i : Nat) (f : Ctx → Ctx) : (e.modCtx i f).gat = e.gat := rfl
@[simp] theorem Eng.modCtx_cmp (e : Eng) (i : Nat) (f : Ctx → Ctx) : (e.modCtx i f).cmp = e.cmp := rfl
@[simp] theorem Eng.modCtx_stw (e : Eng) (i : Nat) (f : Ctx → Ctx) : (e.modCtx i f).stw = e.stw := rfl
@[simp] theorem Eng.modCtx_shv (e : Eng) (i : Nat) (f : Ctx → Ctx) : (e.modCtx i f).shv = e.shv := rfl
@[simp] theorem Eng.modCtx_pan (e : Eng) (i : Nat) (f : Ctx → Ctx) : (e.modCtx i f).pan = e.pan := rfl
@[simp] theorem Eng.modCtx_smp (e : Eng) (i : Nat) (f : Ctx → Ctx) : (e.modCtx i f).smp = e.smp := rfl
@[simp] theorem Eng.modCtx_siv (e : Eng) (i : Nat) (f : Ctx → Ctx) : (e.modCtx i f).siv = e.siv := rfl
@[simp] theorem Eng.modCtx_rsu (e : Eng) (i : Nat) (f : Ctx → Ctx) : (e.modCtx i f).rsu = e.rsu := rfl
@[simp] theorem Eng.modCtx_bin (e : Eng) (i : Nat) (f : Ctx → Ctx) : (e.modCtx i f).bin = e.bin := rfl
@[simp] theorem Eng.modCtx_raf (e : Eng) (i : Nat) (f : Ctx → Ctx) : (e.modCtx i f).raf = e.raf := rfl
@[simp] theorem Eng.modCtx_ras (e : Eng) (i : Nat) (f : Ctx → Ctx) : (e.modCtx i f).ras = e.ras := rfl
@[simp] theorem Eng.modCtx_dbg (e : Eng) (i : Nat) (f : Ctx → Ctx) : (e.modCtx i f).dbg = e.dbg := rfl
@[simp] theorem Eng.modCtx_pd (e : Eng) (i : Nat) (f : Ctx → Ctx) : (e.modCtx i f).pd = e.pd := rfl
@[simp] theorem Eng.modCtx_nextIdle (e : Eng) (i : Nat) (f : Ctx → Ctx) : (e.modCtx i f).nextIdle = e.nextIdle := rfl
@[simp] theorem Eng.modCtx_nextQueued (e : Eng) (i : Nat) (f : Ctx → Ctx) : (e.modCtx i f).nextQueued = e.nextQueued := rfl
@[simp] theorem Eng.modCtx_readData (e : Eng) (i : Nat) (f : Ctx → Ctx) : (e.modCtx i f).readData = e.readData := rfl
@[simp] theorem Eng.modCtx_out (e : Eng) (i : Nat) (f : Ctx → Ctx) : (e.modCtx i f).out = e.out := rfl
@[simp] theorem Eng.modCtx_free (e : Eng) (i : Nat) (f : Ctx → Ctx) : (e.modCtx i f).free = e.free := rfl
@[simp] theorem Eng.modCtx_kpr_parts (e : Eng) (i : Nat) (f : Ctx → Ctx) : (e.modCtx i f).kpr.parts = e.kpr.parts := rfl
@[simp] theorem Eng.modCtx_kpr_gvt (e : Eng) (i : Nat) (f : Ctx → Ctx) : (e.modCtx i f).kpr.gvt = e.kpr.gvt := rfl
@[simp] theorem Eng.modCtx_kpr_sems (e : Eng) (i : Nat) (f : Ctx → Ctx) : (e.modCtx i f).kpr.sems = e.kpr.sems := rfl
@[simp] theorem Eng.modCtx_kpr_dons (e : Eng) (i : Nat) (f : Ctx → Ctx) : (e.modCtx i f).kpr.dons = e.kpr.dons := rfl
@[simp] theorem Eng.modCtx_kpr_deadlocked (e : Eng) (i : Nat) (f : Ctx → Ctx) : (e.modCtx i f).kpr.deadlocked = e.kpr.deadlocked := rfl
@[simp] theorem Eng.modCtx_kpr_blockSince (e : Eng) (i : Nat) (f : Ctx → Ctx) : (e.modCtx i f).kpr.blockSince = e.kpr.blockSince := rfl
@[simp] theorem Eng.modCtx_kpr_cmd (e : Eng) (i : Nat) (f : Ctx → Ctx) : (e.modCtx i f).kpr.cmd = e.kpr.cmd := rfl
@[simp] theorem Eng.modCtx_kpr_cmdStatus (e : Eng) (i : Nat) (f : Ctx → Ctx) : (e.modCtx i f).kpr.cmdStatus = e.kpr.cmdStatus := rfl
@[simp] theorem Eng.modCtx_kpr_imgBytes (e : Eng) (i : Nat) (f : Ctx → Ctx) : (e.modCtx i f).kpr.imgBytes = e.kpr.imgBytes := rfl
@[simp] theorem Eng.modCtx_kpr_exports (e : Eng) (i : Nat) (f : Ctx → Ctx) : (e.modCtx i f).kpr.exports = e.kpr.exports := rfl
@[simp] theorem Eng.modCtx_kpr_draw (e : Eng) (i : Nat) (f : Ctx → Ctx) : (e.modCtx i f).kpr.draw = e.kpr.draw := rfl
@[simp] theorem Eng.modCtx_kpr_base (e : Eng) (i : Nat) (f : Ctx → Ctx) : (e.modCtx i f).kpr.base = e.kpr.base := rfl
@[simp] theorem Eng.modCtx_kpr_rampFree (e : Eng) (i : Nat) (f : Ctx → Ctx) : (e.modCtx i f).kpr.rampFree = e.kpr.rampFree := rfl
@[simp] theorem Eng.modCtx_kpr_committed (e : Eng) (i : Nat) (f : Ctx → Ctx) : (e.modCtx i f).kpr.committed = e.kpr.committed := rfl
@[simp] theorem Eng.modCtx_kpr_overCap (e : Eng) (i : Nat) (f : Ctx → Ctx) : (e.modCtx i f).kpr.overCap = e.kpr.overCap := rfl
@[simp] theorem Eng.modCtx_kpr_grants (e : Eng) (i : Nat) (f : Ctx → Ctx) : (e.modCtx i f).kpr.grants = e.kpr.grants := rfl
@[simp] theorem Eng.modCtx_kpr_queue (e : Eng) (i : Nat) (f : Ctx → Ctx) : (e.modCtx i f).kpr.queue = e.kpr.queue := rfl
@[simp] theorem Eng.modCtx_kpr_heldReqs (e : Eng) (i : Nat) (f : Ctx → Ctx) : (e.modCtx i f).kpr.heldReqs = e.kpr.heldReqs := rfl
@[simp] theorem Eng.modCtx_kpr_toks (e : Eng) (i : Nat) (f : Ctx → Ctx) : (e.modCtx i f).kpr.toks = e.kpr.toks := rfl
@[simp] theorem Eng.modCtx_kpr_wants (e : Eng) (i : Nat) (f : Ctx → Ctx) : (e.modCtx i f).kpr.wants = e.kpr.wants := rfl
@[simp] theorem Eng.modCtx_kpr_gots (e : Eng) (i : Nat) (f : Ctx → Ctx) : (e.modCtx i f).kpr.gots = e.kpr.gots := rfl
@[simp] theorem Eng.modCtx_kpr_reqs (e : Eng) (i : Nat) (f : Ctx → Ctx) : (e.modCtx i f).kpr.reqs = e.kpr.reqs := rfl
@[simp] theorem Eng.modCtx_kpr_unattr (e : Eng) (i : Nat) (f : Ctx → Ctx) : (e.modCtx i f).kpr.unattr = e.kpr.unattr := rfl
@[simp] theorem Eng.modCtx_kpr_rho (e : Eng) (i : Nat) (f : Ctx → Ctx) : (e.modCtx i f).kpr.rho = e.kpr.rho := rfl
@[simp] theorem Eng.modCtx_kpr_streamGrants (e : Eng) (i : Nat) (f : Ctx → Ctx) : (e.modCtx i f).kpr.streamGrants = e.kpr.streamGrants := rfl
@[simp] theorem Eng.modCtx_kpr_streamWait (e : Eng) (i : Nat) (f : Ctx → Ctx) : (e.modCtx i f).kpr.streamWait = e.kpr.streamWait := rfl
@[simp] theorem Eng.modCtx_kpr_winStart (e : Eng) (i : Nat) (f : Ctx → Ctx) : (e.modCtx i f).kpr.winStart = e.kpr.winStart := rfl
@[simp] theorem Eng.modCtx_kpr_nextPoint (e : Eng) (i : Nat) (f : Ctx → Ctx) : (e.modCtx i f).kpr.nextPoint = e.kpr.nextPoint := rfl
@[simp] theorem Eng.modCtx_kpr_nextRefill (e : Eng) (i : Nat) (f : Ctx → Ctx) : (e.modCtx i f).kpr.nextRefill = e.kpr.nextRefill := rfl
@[simp] theorem Eng.modCtx_kpr_nextClose (e : Eng) (i : Nat) (f : Ctx → Ctx) : (e.modCtx i f).kpr.nextClose = e.kpr.nextClose := rfl
@[simp] theorem Eng.modCtx_kpr_nextWindow (e : Eng) (i : Nat) (f : Ctx → Ctx) : (e.modCtx i f).kpr.nextWindow = e.kpr.nextWindow := rfl

/-! ### setShvi -/

@[simp] theorem Eng.setShvi_now (e : Eng) (i : Nat) (x : ShvInst) : (e.setShvi i x).now = e.now := rfl
@[simp] theorem Eng.setShvi_regs (e : Eng) (i : Nat) (x : ShvInst) : (e.setShvi i x).regs = e.regs := rfl
@[simp] theorem Eng.setShvi_act (e : Eng) (i : Nat) (x : ShvInst) : (e.setShvi i x).act = e.act := rfl
@[simp] theorem Eng.setShvi_cap (e : Eng) (i : Nat) (x : ShvInst) : (e.setShvi i x).cap = e.cap := rfl
@[simp] theorem Eng.setShvi_pend (e : Eng) (i : Nat) (x : ShvInst) : (e.setShvi i x).pend = e.pend := rfl
@[simp] theorem Eng.setShvi_held (e : Eng) (i : Nat) (x : ShvInst) : (e.setShvi i x).held = e.held := rfl
@[simp] theorem Eng.setShvi_pairLow (e : Eng) (i : Nat) (x : ShvInst) : (e.setShvi i x).pairLow = e.pairLow := rfl
@[simp] theorem Eng.setShvi_latch (e : Eng) (i : Nat) (x : ShvInst) : (e.setShvi i x).latch = e.latch := rfl
@[simp] theorem Eng.setShvi_tal (e : Eng) (i : Nat) (x : ShvInst) : (e.setShvi i x).tal = e.tal := rfl
@[simp] theorem Eng.setShvi_hat (e : Eng) (i : Nat) (x : ShvInst) : (e.setShvi i x).hat = e.hat := rfl
@[simp] theorem Eng.setShvi_led (e : Eng) (i : Nat) (x : ShvInst) : (e.setShvi i x).led = e.led := rfl
@[simp] theorem Eng.setShvi_gat (e : Eng) (i : Nat) (x : ShvInst) : (e.setShvi i x).gat = e.gat := rfl
@[simp] theorem Eng.setShvi_cmp (e : Eng) (i : Nat) (x : ShvInst) : (e.setShvi i x).cmp = e.cmp := rfl
@[simp] theorem Eng.setShvi_stw (e : Eng) (i : Nat) (x : ShvInst) : (e.setShvi i x).stw = e.stw := rfl
@[simp] theorem Eng.setShvi_pan (e : Eng) (i : Nat) (x : ShvInst) : (e.setShvi i x).pan = e.pan := rfl
@[simp] theorem Eng.setShvi_smp (e : Eng) (i : Nat) (x : ShvInst) : (e.setShvi i x).smp = e.smp := rfl
@[simp] theorem Eng.setShvi_siv (e : Eng) (i : Nat) (x : ShvInst) : (e.setShvi i x).siv = e.siv := rfl
@[simp] theorem Eng.setShvi_rsu (e : Eng) (i : Nat) (x : ShvInst) : (e.setShvi i x).rsu = e.rsu := rfl
@[simp] theorem Eng.setShvi_bin (e : Eng) (i : Nat) (x : ShvInst) : (e.setShvi i x).bin = e.bin := rfl
@[simp] theorem Eng.setShvi_kpr (e : Eng) (i : Nat) (x : ShvInst) : (e.setShvi i x).kpr = e.kpr := rfl
@[simp] theorem Eng.setShvi_raf (e : Eng) (i : Nat) (x : ShvInst) : (e.setShvi i x).raf = e.raf := rfl
@[simp] theorem Eng.setShvi_ras (e : Eng) (i : Nat) (x : ShvInst) : (e.setShvi i x).ras = e.ras := rfl
@[simp] theorem Eng.setShvi_dbg (e : Eng) (i : Nat) (x : ShvInst) : (e.setShvi i x).dbg = e.dbg := rfl
@[simp] theorem Eng.setShvi_pd (e : Eng) (i : Nat) (x : ShvInst) : (e.setShvi i x).pd = e.pd := rfl
@[simp] theorem Eng.setShvi_nextIdle (e : Eng) (i : Nat) (x : ShvInst) : (e.setShvi i x).nextIdle = e.nextIdle := rfl
@[simp] theorem Eng.setShvi_nextQueued (e : Eng) (i : Nat) (x : ShvInst) : (e.setShvi i x).nextQueued = e.nextQueued := rfl
@[simp] theorem Eng.setShvi_readData (e : Eng) (i : Nat) (x : ShvInst) : (e.setShvi i x).readData = e.readData := rfl
@[simp] theorem Eng.setShvi_out (e : Eng) (i : Nat) (x : ShvInst) : (e.setShvi i x).out = e.out := rfl
@[simp] theorem Eng.setShvi_free (e : Eng) (i : Nat) (x : ShvInst) : (e.setShvi i x).free = e.free := rfl
@[simp] theorem Eng.setShvi_shv_groups (e : Eng) (i : Nat) (x : ShvInst) : (e.setShvi i x).shv.groups = e.shv.groups := rfl
@[simp] theorem Eng.setShvi_shv_maps (e : Eng) (i : Nat) (x : ShvInst) : (e.setShvi i x).shv.maps = e.shv.maps := rfl
@[simp] theorem Eng.setShvi_shv_pfx (e : Eng) (i : Nat) (x : ShvInst) : (e.setShvi i x).shv.pfx = e.shv.pfx := rfl
@[simp] theorem Eng.setShvi_shv_models (e : Eng) (i : Nat) (x : ShvInst) : (e.setShvi i x).shv.models = e.shv.models := rfl
@[simp] theorem Eng.setShvi_shv_ops (e : Eng) (i : Nat) (x : ShvInst) : (e.setShvi i x).shv.ops = e.shv.ops := rfl
@[simp] theorem Eng.setShvi_shv_frames (e : Eng) (i : Nat) (x : ShvInst) : (e.setShvi i x).shv.frames = e.shv.frames := rfl
@[simp] theorem Eng.setShvi_shv_nodesUsed (e : Eng) (i : Nat) (x : ShvInst) : (e.setShvi i x).shv.nodesUsed = e.shv.nodesUsed := rfl
@[simp] theorem Eng.setShvi_shv_nodesResv (e : Eng) (i : Nat) (x : ShvInst) : (e.setShvi i x).shv.nodesResv = e.shv.nodesResv := rfl
@[simp] theorem Eng.setShvi_shv_fdir (e : Eng) (i : Nat) (x : ShvInst) : (e.setShvi i x).shv.fdir = e.shv.fdir := rfl

/-! ### setModel -/

@[simp] theorem Eng.setModel_now (e : Eng) (m : Nat) (x : Model) : (e.setModel m x).now = e.now := rfl
@[simp] theorem Eng.setModel_regs (e : Eng) (m : Nat) (x : Model) : (e.setModel m x).regs = e.regs := rfl
@[simp] theorem Eng.setModel_act (e : Eng) (m : Nat) (x : Model) : (e.setModel m x).act = e.act := rfl
@[simp] theorem Eng.setModel_cap (e : Eng) (m : Nat) (x : Model) : (e.setModel m x).cap = e.cap := rfl
@[simp] theorem Eng.setModel_pend (e : Eng) (m : Nat) (x : Model) : (e.setModel m x).pend = e.pend := rfl
@[simp] theorem Eng.setModel_held (e : Eng) (m : Nat) (x : Model) : (e.setModel m x).held = e.held := rfl
@[simp] theorem Eng.setModel_pairLow (e : Eng) (m : Nat) (x : Model) : (e.setModel m x).pairLow = e.pairLow := rfl
@[simp] theorem Eng.setModel_latch (e : Eng) (m : Nat) (x : Model) : (e.setModel m x).latch = e.latch := rfl
@[simp] theorem Eng.setModel_tal (e : Eng) (m : Nat) (x : Model) : (e.setModel m x).tal = e.tal := rfl
@[simp] theorem Eng.setModel_hat (e : Eng) (m : Nat) (x : Model) : (e.setModel m x).hat = e.hat := rfl
@[simp] theorem Eng.setModel_led (e : Eng) (m : Nat) (x : Model) : (e.setModel m x).led = e.led := rfl
@[simp] theorem Eng.setModel_gat (e : Eng) (m : Nat) (x : Model) : (e.setModel m x).gat = e.gat := rfl
@[simp] theorem Eng.setModel_cmp (e : Eng) (m : Nat) (x : Model) : (e.setModel m x).cmp = e.cmp := rfl
@[simp] theorem Eng.setModel_stw (e : Eng) (m : Nat) (x : Model) : (e.setModel m x).stw = e.stw := rfl
@[simp] theorem Eng.setModel_pan (e : Eng) (m : Nat) (x : Model) : (e.setModel m x).pan = e.pan := rfl
@[simp] theorem Eng.setModel_smp (e : Eng) (m : Nat) (x : Model) : (e.setModel m x).smp = e.smp := rfl
@[simp] theorem Eng.setModel_siv (e : Eng) (m : Nat) (x : Model) : (e.setModel m x).siv = e.siv := rfl
@[simp] theorem Eng.setModel_rsu (e : Eng) (m : Nat) (x : Model) : (e.setModel m x).rsu = e.rsu := rfl
@[simp] theorem Eng.setModel_bin (e : Eng) (m : Nat) (x : Model) : (e.setModel m x).bin = e.bin := rfl
@[simp] theorem Eng.setModel_kpr (e : Eng) (m : Nat) (x : Model) : (e.setModel m x).kpr = e.kpr := rfl
@[simp] theorem Eng.setModel_raf (e : Eng) (m : Nat) (x : Model) : (e.setModel m x).raf = e.raf := rfl
@[simp] theorem Eng.setModel_ras (e : Eng) (m : Nat) (x : Model) : (e.setModel m x).ras = e.ras := rfl
@[simp] theorem Eng.setModel_dbg (e : Eng) (m : Nat) (x : Model) : (e.setModel m x).dbg = e.dbg := rfl
@[simp] theorem Eng.setModel_pd (e : Eng) (m : Nat) (x : Model) : (e.setModel m x).pd = e.pd := rfl
@[simp] theorem Eng.setModel_nextIdle (e : Eng) (m : Nat) (x : Model) : (e.setModel m x).nextIdle = e.nextIdle := rfl
@[simp] theorem Eng.setModel_nextQueued (e : Eng) (m : Nat) (x : Model) : (e.setModel m x).nextQueued = e.nextQueued := rfl
@[simp] theorem Eng.setModel_readData (e : Eng) (m : Nat) (x : Model) : (e.setModel m x).readData = e.readData := rfl
@[simp] theorem Eng.setModel_out (e : Eng) (m : Nat) (x : Model) : (e.setModel m x).out = e.out := rfl
@[simp] theorem Eng.setModel_free (e : Eng) (m : Nat) (x : Model) : (e.setModel m x).free = e.free := rfl
@[simp] theorem Eng.setModel_shv_groups (e : Eng) (m : Nat) (x : Model) : (e.setModel m x).shv.groups = e.shv.groups := rfl
@[simp] theorem Eng.setModel_shv_maps (e : Eng) (m : Nat) (x : Model) : (e.setModel m x).shv.maps = e.shv.maps := rfl
@[simp] theorem Eng.setModel_shv_pfx (e : Eng) (m : Nat) (x : Model) : (e.setModel m x).shv.pfx = e.shv.pfx := rfl
@[simp] theorem Eng.setModel_shv_insts (e : Eng) (m : Nat) (x : Model) : (e.setModel m x).shv.insts = e.shv.insts := rfl
@[simp] theorem Eng.setModel_shv_ops (e : Eng) (m : Nat) (x : Model) : (e.setModel m x).shv.ops = e.shv.ops := rfl
@[simp] theorem Eng.setModel_shv_frames (e : Eng) (m : Nat) (x : Model) : (e.setModel m x).shv.frames = e.shv.frames := rfl
@[simp] theorem Eng.setModel_shv_nodesUsed (e : Eng) (m : Nat) (x : Model) : (e.setModel m x).shv.nodesUsed = e.shv.nodesUsed := rfl
@[simp] theorem Eng.setModel_shv_nodesResv (e : Eng) (m : Nat) (x : Model) : (e.setModel m x).shv.nodesResv = e.shv.nodesResv := rfl
@[simp] theorem Eng.setModel_shv_fdir (e : Eng) (m : Nat) (x : Model) : (e.setModel m x).shv.fdir = e.shv.fdir := rfl

/-! ### setRc -/

@[simp] theorem Eng.setRc_now (e : Eng) (s : Nat) (r : LRec) : (e.setRc s r).now = e.now := rfl
@[simp] theorem Eng.setRc_regs (e : Eng) (s : Nat) (r : LRec) : (e.setRc s r).regs = e.regs := rfl
@[simp] theorem Eng.setRc_act (e : Eng) (s : Nat) (r : LRec) : (e.setRc s r).act = e.act := rfl
@[simp] theorem Eng.setRc_cap (e : Eng) (s : Nat) (r : LRec) : (e.setRc s r).cap = e.cap := rfl
@[simp] theorem Eng.setRc_pend (e : Eng) (s : Nat) (r : LRec) : (e.setRc s r).pend = e.pend := rfl
@[simp] theorem Eng.setRc_held (e : Eng) (s : Nat) (r : LRec) : (e.setRc s r).held = e.held := rfl
@[simp] theorem Eng.setRc_pairLow (e : Eng) (s : Nat) (r : LRec) : (e.setRc s r).pairLow = e.pairLow := rfl
@[simp] theorem Eng.setRc_latch (e : Eng) (s : Nat) (r : LRec) : (e.setRc s r).latch = e.latch := rfl
@[simp] theorem Eng.setRc_tal (e : Eng) (s : Nat) (r : LRec) : (e.setRc s r).tal = e.tal := rfl
@[simp] theorem Eng.setRc_hat (e : Eng) (s : Nat) (r : LRec) : (e.setRc s r).hat = e.hat := rfl
@[simp] theorem Eng.setRc_gat (e : Eng) (s : Nat) (r : LRec) : (e.setRc s r).gat = e.gat := rfl
@[simp] theorem Eng.setRc_cmp (e : Eng) (s : Nat) (r : LRec) : (e.setRc s r).cmp = e.cmp := rfl
@[simp] theorem Eng.setRc_stw (e : Eng) (s : Nat) (r : LRec) : (e.setRc s r).stw = e.stw := rfl
@[simp] theorem Eng.setRc_shv (e : Eng) (s : Nat) (r : LRec) : (e.setRc s r).shv = e.shv := rfl
@[simp] theorem Eng.setRc_pan (e : Eng) (s : Nat) (r : LRec) : (e.setRc s r).pan = e.pan := rfl
@[simp] theorem Eng.setRc_smp (e : Eng) (s : Nat) (r : LRec) : (e.setRc s r).smp = e.smp := rfl
@[simp] theorem Eng.setRc_siv (e : Eng) (s : Nat) (r : LRec) : (e.setRc s r).siv = e.siv := rfl
@[simp] theorem Eng.setRc_rsu (e : Eng) (s : Nat) (r : LRec) : (e.setRc s r).rsu = e.rsu := rfl
@[simp] theorem Eng.setRc_bin (e : Eng) (s : Nat) (r : LRec) : (e.setRc s r).bin = e.bin := rfl
@[simp] theorem Eng.setRc_kpr (e : Eng) (s : Nat) (r : LRec) : (e.setRc s r).kpr = e.kpr := rfl
@[simp] theorem Eng.setRc_raf (e : Eng) (s : Nat) (r : LRec) : (e.setRc s r).raf = e.raf := rfl
@[simp] theorem Eng.setRc_ras (e : Eng) (s : Nat) (r : LRec) : (e.setRc s r).ras = e.ras := rfl
@[simp] theorem Eng.setRc_dbg (e : Eng) (s : Nat) (r : LRec) : (e.setRc s r).dbg = e.dbg := rfl
@[simp] theorem Eng.setRc_pd (e : Eng) (s : Nat) (r : LRec) : (e.setRc s r).pd = e.pd := rfl
@[simp] theorem Eng.setRc_nextIdle (e : Eng) (s : Nat) (r : LRec) : (e.setRc s r).nextIdle = e.nextIdle := rfl
@[simp] theorem Eng.setRc_nextQueued (e : Eng) (s : Nat) (r : LRec) : (e.setRc s r).nextQueued = e.nextQueued := rfl
@[simp] theorem Eng.setRc_readData (e : Eng) (s : Nat) (r : LRec) : (e.setRc s r).readData = e.readData := rfl
@[simp] theorem Eng.setRc_out (e : Eng) (s : Nat) (r : LRec) : (e.setRc s r).out = e.out := rfl
@[simp] theorem Eng.setRc_free (e : Eng) (s : Nat) (r : LRec) : (e.setRc s r).free = e.free := rfl
@[simp] theorem Eng.setRc_led_gens (e : Eng) (s : Nat) (r : LRec) : (e.setRc s r).led.gens = e.led.gens := rfl
@[simp] theorem Eng.setRc_led_fresh (e : Eng) (s : Nat) (r : LRec) : (e.setRc s r).led.fresh = e.led.fresh := rfl
@[simp] theorem Eng.setRc_led_freed (e : Eng) (s : Nat) (r : LRec) : (e.setRc s r).led.freed = e.led.freed := rfl
@[simp] theorem Eng.setRc_led_hot (e : Eng) (s : Nat) (r : LRec) : (e.setRc s r).led.hot = e.led.hot := rfl
@[simp] theorem Eng.setRc_led_params (e : Eng) (s : Nat) (r : LRec) : (e.setRc s r).led.params = e.led.params := rfl
@[simp] theorem Eng.setRc_led_prompts (e : Eng) (s : Nat) (r : LRec) : (e.setRc s r).led.prompts = e.led.prompts := rfl
@[simp] theorem Eng.setRc_led_bias (e : Eng) (s : Nat) (r : LRec) : (e.setRc s r).led.bias = e.led.bias := rfl
@[simp] theorem Eng.setRc_led_gent (e : Eng) (s : Nat) (r : LRec) : (e.setRc s r).led.gent = e.led.gent := rfl
@[simp] theorem Eng.setRc_led_pageFresh (e : Eng) (s : Nat) (r : LRec) : (e.setRc s r).led.pageFresh = e.led.pageFresh := rfl
@[simp] theorem Eng.setRc_led_pageFreed (e : Eng) (s : Nat) (r : LRec) : (e.setRc s r).led.pageFreed = e.led.pageFreed := rfl
@[simp] theorem Eng.setRc_led_pageCount (e : Eng) (s : Nat) (r : LRec) : (e.setRc s r).led.pageCount = e.led.pageCount := rfl
@[simp] theorem Eng.setRc_led_pagesReserved (e : Eng) (s : Nat) (r : LRec) : (e.setRc s r).led.pagesReserved = e.led.pagesReserved := rfl

/-! ### modRc -/

@[simp] theorem Eng.modRc_now (e : Eng) (s : Nat) (f : LRec → LRec) : (e.modRc s f).now = e.now := rfl
@[simp] theorem Eng.modRc_regs (e : Eng) (s : Nat) (f : LRec → LRec) : (e.modRc s f).regs = e.regs := rfl
@[simp] theorem Eng.modRc_act (e : Eng) (s : Nat) (f : LRec → LRec) : (e.modRc s f).act = e.act := rfl
@[simp] theorem Eng.modRc_cap (e : Eng) (s : Nat) (f : LRec → LRec) : (e.modRc s f).cap = e.cap := rfl
@[simp] theorem Eng.modRc_pend (e : Eng) (s : Nat) (f : LRec → LRec) : (e.modRc s f).pend = e.pend := rfl
@[simp] theorem Eng.modRc_held (e : Eng) (s : Nat) (f : LRec → LRec) : (e.modRc s f).held = e.held := rfl
@[simp] theorem Eng.modRc_pairLow (e : Eng) (s : Nat) (f : LRec → LRec) : (e.modRc s f).pairLow = e.pairLow := rfl
@[simp] theorem Eng.modRc_latch (e : Eng) (s : Nat) (f : LRec → LRec) : (e.modRc s f).latch = e.latch := rfl
@[simp] theorem Eng.modRc_tal (e : Eng) (s : Nat) (f : LRec → LRec) : (e.modRc s f).tal = e.tal := rfl
@[simp] theorem Eng.modRc_hat (e : Eng) (s : Nat) (f : LRec → LRec) : (e.modRc s f).hat = e.hat := rfl
@[simp] theorem Eng.modRc_gat (e : Eng) (s : Nat) (f : LRec → LRec) : (e.modRc s f).gat = e.gat := rfl
@[simp] theorem Eng.modRc_cmp (e : Eng) (s : Nat) (f : LRec → LRec) : (e.modRc s f).cmp = e.cmp := rfl
@[simp] theorem Eng.modRc_stw (e : Eng) (s : Nat) (f : LRec → LRec) : (e.modRc s f).stw = e.stw := rfl
@[simp] theorem Eng.modRc_shv (e : Eng) (s : Nat) (f : LRec → LRec) : (e.modRc s f).shv = e.shv := rfl
@[simp] theorem Eng.modRc_pan (e : Eng) (s : Nat) (f : LRec → LRec) : (e.modRc s f).pan = e.pan := rfl
@[simp] theorem Eng.modRc_smp (e : Eng) (s : Nat) (f : LRec → LRec) : (e.modRc s f).smp = e.smp := rfl
@[simp] theorem Eng.modRc_siv (e : Eng) (s : Nat) (f : LRec → LRec) : (e.modRc s f).siv = e.siv := rfl
@[simp] theorem Eng.modRc_rsu (e : Eng) (s : Nat) (f : LRec → LRec) : (e.modRc s f).rsu = e.rsu := rfl
@[simp] theorem Eng.modRc_bin (e : Eng) (s : Nat) (f : LRec → LRec) : (e.modRc s f).bin = e.bin := rfl
@[simp] theorem Eng.modRc_kpr (e : Eng) (s : Nat) (f : LRec → LRec) : (e.modRc s f).kpr = e.kpr := rfl
@[simp] theorem Eng.modRc_raf (e : Eng) (s : Nat) (f : LRec → LRec) : (e.modRc s f).raf = e.raf := rfl
@[simp] theorem Eng.modRc_ras (e : Eng) (s : Nat) (f : LRec → LRec) : (e.modRc s f).ras = e.ras := rfl
@[simp] theorem Eng.modRc_dbg (e : Eng) (s : Nat) (f : LRec → LRec) : (e.modRc s f).dbg = e.dbg := rfl
@[simp] theorem Eng.modRc_pd (e : Eng) (s : Nat) (f : LRec → LRec) : (e.modRc s f).pd = e.pd := rfl
@[simp] theorem Eng.modRc_nextIdle (e : Eng) (s : Nat) (f : LRec → LRec) : (e.modRc s f).nextIdle = e.nextIdle := rfl
@[simp] theorem Eng.modRc_nextQueued (e : Eng) (s : Nat) (f : LRec → LRec) : (e.modRc s f).nextQueued = e.nextQueued := rfl
@[simp] theorem Eng.modRc_readData (e : Eng) (s : Nat) (f : LRec → LRec) : (e.modRc s f).readData = e.readData := rfl
@[simp] theorem Eng.modRc_out (e : Eng) (s : Nat) (f : LRec → LRec) : (e.modRc s f).out = e.out := rfl
@[simp] theorem Eng.modRc_free (e : Eng) (s : Nat) (f : LRec → LRec) : (e.modRc s f).free = e.free := rfl
@[simp] theorem Eng.modRc_led_gens (e : Eng) (s : Nat) (f : LRec → LRec) : (e.modRc s f).led.gens = e.led.gens := rfl
@[simp] theorem Eng.modRc_led_fresh (e : Eng) (s : Nat) (f : LRec → LRec) : (e.modRc s f).led.fresh = e.led.fresh := rfl
@[simp] theorem Eng.modRc_led_freed (e : Eng) (s : Nat) (f : LRec → LRec) : (e.modRc s f).led.freed = e.led.freed := rfl
@[simp] theorem Eng.modRc_led_hot (e : Eng) (s : Nat) (f : LRec → LRec) : (e.modRc s f).led.hot = e.led.hot := rfl
@[simp] theorem Eng.modRc_led_params (e : Eng) (s : Nat) (f : LRec → LRec) : (e.modRc s f).led.params = e.led.params := rfl
@[simp] theorem Eng.modRc_led_prompts (e : Eng) (s : Nat) (f : LRec → LRec) : (e.modRc s f).led.prompts = e.led.prompts := rfl
@[simp] theorem Eng.modRc_led_bias (e : Eng) (s : Nat) (f : LRec → LRec) : (e.modRc s f).led.bias = e.led.bias := rfl
@[simp] theorem Eng.modRc_led_gent (e : Eng) (s : Nat) (f : LRec → LRec) : (e.modRc s f).led.gent = e.led.gent := rfl
@[simp] theorem Eng.modRc_led_pageFresh (e : Eng) (s : Nat) (f : LRec → LRec) : (e.modRc s f).led.pageFresh = e.led.pageFresh := rfl
@[simp] theorem Eng.modRc_led_pageFreed (e : Eng) (s : Nat) (f : LRec → LRec) : (e.modRc s f).led.pageFreed = e.led.pageFreed := rfl
@[simp] theorem Eng.modRc_led_pageCount (e : Eng) (s : Nat) (f : LRec → LRec) : (e.modRc s f).led.pageCount = e.led.pageCount := rfl
@[simp] theorem Eng.modRc_led_pagesReserved (e : Eng) (s : Nat) (f : LRec → LRec) : (e.modRc s f).led.pagesReserved = e.led.pagesReserved := rfl

/-! ### setCap -/

@[simp] theorem Eng.setCap_now (e : Eng) (u : Nat) (c : Cap) : (e.setCap u c).now = e.now := rfl
@[simp] theorem Eng.setCap_regs (e : Eng) (u : Nat) (c : Cap) : (e.setCap u c).regs = e.regs := rfl
@[simp] theorem Eng.setCap_act (e : Eng) (u : Nat) (c : Cap) : (e.setCap u c).act = e.act := rfl
@[simp] theorem Eng.setCap_cap (e : Eng) (u : Nat) (c : Cap) : (e.setCap u c).cap = e.cap := rfl
@[simp] theorem Eng.setCap_pend (e : Eng) (u : Nat) (c : Cap) : (e.setCap u c).pend = e.pend := rfl
@[simp] theorem Eng.setCap_held (e : Eng) (u : Nat) (c : Cap) : (e.setCap u c).held = e.held := rfl
@[simp] theorem Eng.setCap_pairLow (e : Eng) (u : Nat) (c : Cap) : (e.setCap u c).pairLow = e.pairLow := rfl
@[simp] theorem Eng.setCap_latch (e : Eng) (u : Nat) (c : Cap) : (e.setCap u c).latch = e.latch := rfl
@[simp] theorem Eng.setCap_tal (e : Eng) (u : Nat) (c : Cap) : (e.setCap u c).tal = e.tal := rfl
@[simp] theorem Eng.setCap_hat (e : Eng) (u : Nat) (c : Cap) : (e.setCap u c).hat = e.hat := rfl
@[simp] theorem Eng.setCap_led (e : Eng) (u : Nat) (c : Cap) : (e.setCap u c).led = e.led := rfl
@[simp] theorem Eng.setCap_gat (e : Eng) (u : Nat) (c : Cap) : (e.setCap u c).gat = e.gat := rfl
@[simp] theorem Eng.setCap_cmp (e : Eng) (u : Nat) (c : Cap) : (e.setCap u c).cmp = e.cmp := rfl
@[simp] theorem Eng.setCap_stw (e : Eng) (u : Nat) (c : Cap) : (e.setCap u c).stw = e.stw := rfl
@[simp] theorem Eng.setCap_shv (e : Eng) (u : Nat) (c : Cap) : (e.setCap u c).shv = e.shv := rfl
@[simp] theorem Eng.setCap_pan (e : Eng) (u : Nat) (c : Cap) : (e.setCap u c).pan = e.pan := rfl
@[simp] theorem Eng.setCap_smp (e : Eng) (u : Nat) (c : Cap) : (e.setCap u c).smp = e.smp := rfl
@[simp] theorem Eng.setCap_siv (e : Eng) (u : Nat) (c : Cap) : (e.setCap u c).siv = e.siv := rfl
@[simp] theorem Eng.setCap_rsu (e : Eng) (u : Nat) (c : Cap) : (e.setCap u c).rsu = e.rsu := rfl
@[simp] theorem Eng.setCap_bin (e : Eng) (u : Nat) (c : Cap) : (e.setCap u c).bin = e.bin := rfl
@[simp] theorem Eng.setCap_kpr (e : Eng) (u : Nat) (c : Cap) : (e.setCap u c).kpr = e.kpr := rfl
@[simp] theorem Eng.setCap_raf (e : Eng) (u : Nat) (c : Cap) : (e.setCap u c).raf = e.raf := rfl
@[simp] theorem Eng.setCap_dbg (e : Eng) (u : Nat) (c : Cap) : (e.setCap u c).dbg = e.dbg := rfl
@[simp] theorem Eng.setCap_pd (e : Eng) (u : Nat) (c : Cap) : (e.setCap u c).pd = e.pd := rfl
@[simp] theorem Eng.setCap_nextIdle (e : Eng) (u : Nat) (c : Cap) : (e.setCap u c).nextIdle = e.nextIdle := rfl
@[simp] theorem Eng.setCap_nextQueued (e : Eng) (u : Nat) (c : Cap) : (e.setCap u c).nextQueued = e.nextQueued := rfl
@[simp] theorem Eng.setCap_readData (e : Eng) (u : Nat) (c : Cap) : (e.setCap u c).readData = e.readData := rfl
@[simp] theorem Eng.setCap_out (e : Eng) (u : Nat) (c : Cap) : (e.setCap u c).out = e.out := rfl
@[simp] theorem Eng.setCap_free (e : Eng) (u : Nat) (c : Cap) : (e.setCap u c).free = e.free := rfl
@[simp] theorem Eng.setCap_ras_quiescing (e : Eng) (u : Nat) (c : Cap) : (e.setCap u c).ras.quiescing = e.ras.quiescing := rfl
@[simp] theorem Eng.setCap_ras_quiesced (e : Eng) (u : Nat) (c : Cap) : (e.setCap u c).ras.quiesced = e.ras.quiesced := rfl
@[simp] theorem Eng.setCap_ras_quiesceAt (e : Eng) (u : Nat) (c : Cap) : (e.setCap u c).ras.quiesceAt = e.ras.quiesceAt := rfl
@[simp] theorem Eng.setCap_ras_causeCode (e : Eng) (u : Nat) (c : Cap) : (e.setCap u c).ras.causeCode = e.ras.causeCode := rfl
@[simp] theorem Eng.setCap_ras_causeUnit (e : Eng) (u : Nat) (c : Cap) : (e.setCap u c).ras.causeUnit = e.ras.causeUnit := rfl
@[simp] theorem Eng.setCap_ras_sled (e : Eng) (u : Nat) (c : Cap) : (e.setCap u c).ras.sled = e.ras.sled := rfl
@[simp] theorem Eng.setCap_ras_ring (e : Eng) (u : Nat) (c : Cap) : (e.setCap u c).ras.ring = e.ras.ring := rfl
@[simp] theorem Eng.setCap_ras_mirrors (e : Eng) (u : Nat) (c : Cap) : (e.setCap u c).ras.mirrors = e.ras.mirrors := rfl
@[simp] theorem Eng.setCap_ras_taken (e : Eng) (u : Nat) (c : Cap) : (e.setCap u c).ras.taken = e.ras.taken := rfl

/-! ### setDom -/

@[simp] theorem Eng.setDom_now (e : Eng) (d : Nat) (x : Dom) : (e.setDom d x).now = e.now := rfl
@[simp] theorem Eng.setDom_regs (e : Eng) (d : Nat) (x : Dom) : (e.setDom d x).regs = e.regs := rfl
@[simp] theorem Eng.setDom_act (e : Eng) (d : Nat) (x : Dom) : (e.setDom d x).act = e.act := rfl
@[simp] theorem Eng.setDom_cap (e : Eng) (d : Nat) (x : Dom) : (e.setDom d x).cap = e.cap := rfl
@[simp] theorem Eng.setDom_pend (e : Eng) (d : Nat) (x : Dom) : (e.setDom d x).pend = e.pend := rfl
@[simp] theorem Eng.setDom_held (e : Eng) (d : Nat) (x : Dom) : (e.setDom d x).held = e.held := rfl
@[simp] theorem Eng.setDom_pairLow (e : Eng) (d : Nat) (x : Dom) : (e.setDom d x).pairLow = e.pairLow := rfl
@[simp] theorem Eng.setDom_latch (e : Eng) (d : Nat) (x : Dom) : (e.setDom d x).latch = e.latch := rfl
@[simp] theorem Eng.setDom_tal (e : Eng) (d : Nat) (x : Dom) : (e.setDom d x).tal = e.tal := rfl
@[simp] theorem Eng.setDom_hat (e : Eng) (d : Nat) (x : Dom) : (e.setDom d x).hat = e.hat := rfl
@[simp] theorem Eng.setDom_led (e : Eng) (d : Nat) (x : Dom) : (e.setDom d x).led = e.led := rfl
@[simp] theorem Eng.setDom_gat (e : Eng) (d : Nat) (x : Dom) : (e.setDom d x).gat = e.gat := rfl
@[simp] theorem Eng.setDom_cmp (e : Eng) (d : Nat) (x : Dom) : (e.setDom d x).cmp = e.cmp := rfl
@[simp] theorem Eng.setDom_stw (e : Eng) (d : Nat) (x : Dom) : (e.setDom d x).stw = e.stw := rfl
@[simp] theorem Eng.setDom_shv (e : Eng) (d : Nat) (x : Dom) : (e.setDom d x).shv = e.shv := rfl
@[simp] theorem Eng.setDom_pan (e : Eng) (d : Nat) (x : Dom) : (e.setDom d x).pan = e.pan := rfl
@[simp] theorem Eng.setDom_smp (e : Eng) (d : Nat) (x : Dom) : (e.setDom d x).smp = e.smp := rfl
@[simp] theorem Eng.setDom_siv (e : Eng) (d : Nat) (x : Dom) : (e.setDom d x).siv = e.siv := rfl
@[simp] theorem Eng.setDom_rsu (e : Eng) (d : Nat) (x : Dom) : (e.setDom d x).rsu = e.rsu := rfl
@[simp] theorem Eng.setDom_bin (e : Eng) (d : Nat) (x : Dom) : (e.setDom d x).bin = e.bin := rfl
@[simp] theorem Eng.setDom_kpr (e : Eng) (d : Nat) (x : Dom) : (e.setDom d x).kpr = e.kpr := rfl
@[simp] theorem Eng.setDom_raf (e : Eng) (d : Nat) (x : Dom) : (e.setDom d x).raf = e.raf := rfl
@[simp] theorem Eng.setDom_ras (e : Eng) (d : Nat) (x : Dom) : (e.setDom d x).ras = e.ras := rfl
@[simp] theorem Eng.setDom_dbg (e : Eng) (d : Nat) (x : Dom) : (e.setDom d x).dbg = e.dbg := rfl
@[simp] theorem Eng.setDom_nextIdle (e : Eng) (d : Nat) (x : Dom) : (e.setDom d x).nextIdle = e.nextIdle := rfl
@[simp] theorem Eng.setDom_nextQueued (e : Eng) (d : Nat) (x : Dom) : (e.setDom d x).nextQueued = e.nextQueued := rfl
@[simp] theorem Eng.setDom_readData (e : Eng) (d : Nat) (x : Dom) : (e.setDom d x).readData = e.readData := rfl
@[simp] theorem Eng.setDom_out (e : Eng) (d : Nat) (x : Dom) : (e.setDom d x).out = e.out := rfl
@[simp] theorem Eng.setDom_free (e : Eng) (d : Nat) (x : Dom) : (e.setDom d x).free = e.free := rfl

/-! ### later -/

@[simp] theorem Eng.later_now (e : Eng) (w : BWrite) : (e.later w).now = e.now := rfl
@[simp] theorem Eng.later_regs (e : Eng) (w : BWrite) : (e.later w).regs = e.regs := rfl
@[simp] theorem Eng.later_act (e : Eng) (w : BWrite) : (e.later w).act = e.act := rfl
@[simp] theorem Eng.later_cap (e : Eng) (w : BWrite) : (e.later w).cap = e.cap := rfl
@[simp] theorem Eng.later_pend (e : Eng) (w : BWrite) : (e.later w).pend = e.pend := rfl
@[simp] theorem Eng.later_held (e : Eng) (w : BWrite) : (e.later w).held = e.held := rfl
@[simp] theorem Eng.later_pairLow (e : Eng) (w : BWrite) : (e.later w).pairLow = e.pairLow := rfl
@[simp] theorem Eng.later_latch (e : Eng) (w : BWrite) : (e.later w).latch = e.latch := rfl
@[simp] theorem Eng.later_tal (e : Eng) (w : BWrite) : (e.later w).tal = e.tal := rfl
@[simp] theorem Eng.later_hat (e : Eng) (w : BWrite) : (e.later w).hat = e.hat := rfl
@[simp] theorem Eng.later_led (e : Eng) (w : BWrite) : (e.later w).led = e.led := rfl
@[simp] theorem Eng.later_gat (e : Eng) (w : BWrite) : (e.later w).gat = e.gat := rfl
@[simp] theorem Eng.later_cmp (e : Eng) (w : BWrite) : (e.later w).cmp = e.cmp := rfl
@[simp] theorem Eng.later_shv (e : Eng) (w : BWrite) : (e.later w).shv = e.shv := rfl
@[simp] theorem Eng.later_pan (e : Eng) (w : BWrite) : (e.later w).pan = e.pan := rfl
@[simp] theorem Eng.later_smp (e : Eng) (w : BWrite) : (e.later w).smp = e.smp := rfl
@[simp] theorem Eng.later_siv (e : Eng) (w : BWrite) : (e.later w).siv = e.siv := rfl
@[simp] theorem Eng.later_rsu (e : Eng) (w : BWrite) : (e.later w).rsu = e.rsu := rfl
@[simp] theorem Eng.later_bin (e : Eng) (w : BWrite) : (e.later w).bin = e.bin := rfl
@[simp] theorem Eng.later_kpr (e : Eng) (w : BWrite) : (e.later w).kpr = e.kpr := rfl
@[simp] theorem Eng.later_raf (e : Eng) (w : BWrite) : (e.later w).raf = e.raf := rfl
@[simp] theorem Eng.later_ras (e : Eng) (w : BWrite) : (e.later w).ras = e.ras := rfl
@[simp] theorem Eng.later_dbg (e : Eng) (w : BWrite) : (e.later w).dbg = e.dbg := rfl
@[simp] theorem Eng.later_pd (e : Eng) (w : BWrite) : (e.later w).pd = e.pd := rfl
@[simp] theorem Eng.later_nextIdle (e : Eng) (w : BWrite) : (e.later w).nextIdle = e.nextIdle := rfl
@[simp] theorem Eng.later_nextQueued (e : Eng) (w : BWrite) : (e.later w).nextQueued = e.nextQueued := rfl
@[simp] theorem Eng.later_readData (e : Eng) (w : BWrite) : (e.later w).readData = e.readData := rfl
@[simp] theorem Eng.later_out (e : Eng) (w : BWrite) : (e.later w).out = e.out := rfl
@[simp] theorem Eng.later_free (e : Eng) (w : BWrite) : (e.later w).free = e.free := rfl
@[simp] theorem Eng.later_stw_s (e : Eng) (w : BWrite) : (e.later w).stw.s = e.stw.s := rfl
@[simp] theorem Eng.later_stw_v (e : Eng) (w : BWrite) : (e.later w).stw.v = e.stw.v := rfl
@[simp] theorem Eng.later_stw_q (e : Eng) (w : BWrite) : (e.later w).stw.q = e.stw.q := rfl
@[simp] theorem Eng.later_stw_run (e : Eng) (w : BWrite) : (e.later w).stw.run = e.stw.run := rfl
@[simp] theorem Eng.later_stw_prog (e : Eng) (w : BWrite) : (e.later w).stw.prog = e.stw.prog := rfl
@[simp] theorem Eng.later_stw_pc (e : Eng) (w : BWrite) : (e.later w).stw.pc = e.stw.pc := rfl
@[simp] theorem Eng.later_stw_cycles (e : Eng) (w : BWrite) : (e.later w).stw.cycles = e.stw.cycles := rfl
@[simp] theorem Eng.later_stw_target (e : Eng) (w : BWrite) : (e.later w).stw.target = e.stw.target := rfl
@[simp] theorem Eng.later_stw_ending (e : Eng) (w : BWrite) : (e.later w).stw.ending = e.stw.ending := rfl
@[simp] theorem Eng.later_stw_dmemFault (e : Eng) (w : BWrite) : (e.later w).stw.dmemFault = e.stw.dmemFault := rfl
@[simp] theorem Eng.later_stw_cfg (e : Eng) (w : BWrite) : (e.later w).stw.cfg = e.stw.cfg := rfl
@[simp] theorem Eng.later_stw_est (e : Eng) (w : BWrite) : (e.later w).stw.est = e.stw.est := rfl
@[simp] theorem Eng.later_stw_fitStop (e : Eng) (w : BWrite) : (e.later w).stw.fitStop = e.stw.fitStop := rfl
@[simp] theorem Eng.later_stw_mode (e : Eng) (w : BWrite) : (e.later w).stw.mode = e.stw.mode := rfl
@[simp] theorem Eng.later_stw_drawn (e : Eng) (w : BWrite) : (e.later w).stw.drawn = e.stw.drawn := rfl
@[simp] theorem Eng.later_stw_cursor (e : Eng) (w : BWrite) : (e.later w).stw.cursor = e.stw.cursor := rfl
@[simp] theorem Eng.later_stw_passes (e : Eng) (w : BWrite) : (e.later w).stw.passes = e.stw.passes := rfl
@[simp] theorem Eng.later_stw_progs (e : Eng) (w : BWrite) : (e.later w).stw.progs = e.stw.progs := rfl
@[simp] theorem Eng.later_stw_imem (e : Eng) (w : BWrite) : (e.later w).stw.imem = e.stw.imem := rfl
@[simp] theorem Eng.later_stw_dmem (e : Eng) (w : BWrite) : (e.later w).stw.dmem = e.stw.dmem := rfl
@[simp] theorem Eng.later_stw_load (e : Eng) (w : BWrite) : (e.later w).stw.load = e.stw.load := rfl
@[simp] theorem Eng.later_stw_loadResult (e : Eng) (w : BWrite) : (e.later w).stw.loadResult = e.stw.loadResult := rfl
@[simp] theorem Eng.later_stw_faultPc (e : Eng) (w : BWrite) : (e.later w).stw.faultPc = e.stw.faultPc := rfl
@[simp] theorem Eng.later_stw_faultSlot (e : Eng) (w : BWrite) : (e.later w).stw.faultSlot = e.stw.faultSlot := rfl
@[simp] theorem Eng.later_stw_faultCause (e : Eng) (w : BWrite) : (e.later w).stw.faultCause = e.stw.faultCause := rfl

/-! ### noteHalt -/

@[simp] theorem Eng.noteHalt_now (e : Eng) : e.noteHalt.now = e.now := rfl
@[simp] theorem Eng.noteHalt_regs (e : Eng) : e.noteHalt.regs = e.regs := rfl
@[simp] theorem Eng.noteHalt_act (e : Eng) : e.noteHalt.act = e.act := rfl
@[simp] theorem Eng.noteHalt_cap (e : Eng) : e.noteHalt.cap = e.cap := rfl
@[simp] theorem Eng.noteHalt_pend (e : Eng) : e.noteHalt.pend = e.pend := rfl
@[simp] theorem Eng.noteHalt_held (e : Eng) : e.noteHalt.held = e.held := rfl
@[simp] theorem Eng.noteHalt_pairLow (e : Eng) : e.noteHalt.pairLow = e.pairLow := rfl
@[simp] theorem Eng.noteHalt_latch (e : Eng) : e.noteHalt.latch = e.latch := rfl
@[simp] theorem Eng.noteHalt_tal (e : Eng) : e.noteHalt.tal = e.tal := rfl
@[simp] theorem Eng.noteHalt_hat (e : Eng) : e.noteHalt.hat = e.hat := rfl
@[simp] theorem Eng.noteHalt_led (e : Eng) : e.noteHalt.led = e.led := rfl
@[simp] theorem Eng.noteHalt_gat (e : Eng) : e.noteHalt.gat = e.gat := rfl
@[simp] theorem Eng.noteHalt_cmp (e : Eng) : e.noteHalt.cmp = e.cmp := rfl
@[simp] theorem Eng.noteHalt_stw (e : Eng) : e.noteHalt.stw = e.stw := rfl
@[simp] theorem Eng.noteHalt_shv (e : Eng) : e.noteHalt.shv = e.shv := rfl
@[simp] theorem Eng.noteHalt_pan (e : Eng) : e.noteHalt.pan = e.pan := rfl
@[simp] theorem Eng.noteHalt_smp (e : Eng) : e.noteHalt.smp = e.smp := rfl
@[simp] theorem Eng.noteHalt_siv (e : Eng) : e.noteHalt.siv = e.siv := rfl
@[simp] theorem Eng.noteHalt_rsu (e : Eng) : e.noteHalt.rsu = e.rsu := rfl
@[simp] theorem Eng.noteHalt_bin (e : Eng) : e.noteHalt.bin = e.bin := rfl
@[simp] theorem Eng.noteHalt_kpr (e : Eng) : e.noteHalt.kpr = e.kpr := rfl
@[simp] theorem Eng.noteHalt_raf (e : Eng) : e.noteHalt.raf = e.raf := rfl
@[simp] theorem Eng.noteHalt_ras (e : Eng) : e.noteHalt.ras = e.ras := rfl
@[simp] theorem Eng.noteHalt_pd (e : Eng) : e.noteHalt.pd = e.pd := rfl
@[simp] theorem Eng.noteHalt_nextIdle (e : Eng) : e.noteHalt.nextIdle = e.nextIdle := rfl
@[simp] theorem Eng.noteHalt_nextQueued (e : Eng) : e.noteHalt.nextQueued = e.nextQueued := rfl
@[simp] theorem Eng.noteHalt_readData (e : Eng) : e.noteHalt.readData = e.readData := rfl
@[simp] theorem Eng.noteHalt_out (e : Eng) : e.noteHalt.out = e.out := rfl
@[simp] theorem Eng.noteHalt_free (e : Eng) : e.noteHalt.free = e.free := rfl
@[simp] theorem Eng.noteHalt_dbg_engineHalted (e : Eng) : (e.noteHalt).dbg.engineHalted = e.dbg.engineHalted := rfl
@[simp] theorem Eng.noteHalt_dbg_haltWas (e : Eng) : (e.noteHalt).dbg.haltWas = some (e.now, e.stopped) := rfl
@[simp] theorem Eng.noteHalt_dbg_stwWas (e : Eng) : (e.noteHalt).dbg.stwWas = e.dbg.stwWas := rfl

/-! ### noteStw -/

@[simp] theorem Eng.noteStw_now (e : Eng) : e.noteStw.now = e.now := rfl
@[simp] theorem Eng.noteStw_regs (e : Eng) : e.noteStw.regs = e.regs := rfl
@[simp] theorem Eng.noteStw_act (e : Eng) : e.noteStw.act = e.act := rfl
@[simp] theorem Eng.noteStw_cap (e : Eng) : e.noteStw.cap = e.cap := rfl
@[simp] theorem Eng.noteStw_pend (e : Eng) : e.noteStw.pend = e.pend := rfl
@[simp] theorem Eng.noteStw_held (e : Eng) : e.noteStw.held = e.held := rfl
@[simp] theorem Eng.noteStw_pairLow (e : Eng) : e.noteStw.pairLow = e.pairLow := rfl
@[simp] theorem Eng.noteStw_latch (e : Eng) : e.noteStw.latch = e.latch := rfl
@[simp] theorem Eng.noteStw_tal (e : Eng) : e.noteStw.tal = e.tal := rfl
@[simp] theorem Eng.noteStw_hat (e : Eng) : e.noteStw.hat = e.hat := rfl
@[simp] theorem Eng.noteStw_led (e : Eng) : e.noteStw.led = e.led := rfl
@[simp] theorem Eng.noteStw_gat (e : Eng) : e.noteStw.gat = e.gat := rfl
@[simp] theorem Eng.noteStw_cmp (e : Eng) : e.noteStw.cmp = e.cmp := rfl
@[simp] theorem Eng.noteStw_stw (e : Eng) : e.noteStw.stw = e.stw := rfl
@[simp] theorem Eng.noteStw_shv (e : Eng) : e.noteStw.shv = e.shv := rfl
@[simp] theorem Eng.noteStw_pan (e : Eng) : e.noteStw.pan = e.pan := rfl
@[simp] theorem Eng.noteStw_smp (e : Eng) : e.noteStw.smp = e.smp := rfl
@[simp] theorem Eng.noteStw_siv (e : Eng) : e.noteStw.siv = e.siv := rfl
@[simp] theorem Eng.noteStw_rsu (e : Eng) : e.noteStw.rsu = e.rsu := rfl
@[simp] theorem Eng.noteStw_bin (e : Eng) : e.noteStw.bin = e.bin := rfl
@[simp] theorem Eng.noteStw_kpr (e : Eng) : e.noteStw.kpr = e.kpr := rfl
@[simp] theorem Eng.noteStw_raf (e : Eng) : e.noteStw.raf = e.raf := rfl
@[simp] theorem Eng.noteStw_ras (e : Eng) : e.noteStw.ras = e.ras := rfl
@[simp] theorem Eng.noteStw_pd (e : Eng) : e.noteStw.pd = e.pd := rfl
@[simp] theorem Eng.noteStw_nextIdle (e : Eng) : e.noteStw.nextIdle = e.nextIdle := rfl
@[simp] theorem Eng.noteStw_nextQueued (e : Eng) : e.noteStw.nextQueued = e.nextQueued := rfl
@[simp] theorem Eng.noteStw_readData (e : Eng) : e.noteStw.readData = e.readData := rfl
@[simp] theorem Eng.noteStw_out (e : Eng) : e.noteStw.out = e.out := rfl
@[simp] theorem Eng.noteStw_free (e : Eng) : e.noteStw.free = e.free := rfl
@[simp] theorem Eng.noteStw_dbg_stwHalted (e : Eng) : (e.noteStw).dbg.stwHalted = e.dbg.stwHalted := rfl
@[simp] theorem Eng.noteStw_dbg_stwWas (e : Eng) : (e.noteStw).dbg.stwWas = some (e.now, e.stwStopped) := rfl
@[simp] theorem Eng.noteStw_dbg_haltWas (e : Eng) : (e.noteStw).dbg.haltWas = e.dbg.haltWas := rfl

/-! ### pointLater -/

@[simp] theorem Eng.pointLater_now (e : Eng) : e.pointLater.now = e.now := rfl
@[simp] theorem Eng.pointLater_regs (e : Eng) : e.pointLater.regs = e.regs := rfl
@[simp] theorem Eng.pointLater_act (e : Eng) : e.pointLater.act = e.act := rfl
@[simp] theorem Eng.pointLater_cap (e : Eng) : e.pointLater.cap = e.cap := rfl
@[simp] theorem Eng.pointLater_pend (e : Eng) : e.pointLater.pend = e.pend := rfl
@[simp] theorem Eng.pointLater_held (e : Eng) : e.pointLater.held = e.held := rfl
@[simp] theorem Eng.pointLater_pairLow (e : Eng) : e.pointLater.pairLow = e.pairLow := rfl
@[simp] theorem Eng.pointLater_latch (e : Eng) : e.pointLater.latch = e.latch := rfl
@[simp] theorem Eng.pointLater_tal (e : Eng) : e.pointLater.tal = e.tal := rfl
@[simp] theorem Eng.pointLater_hat (e : Eng) : e.pointLater.hat = e.hat := rfl
@[simp] theorem Eng.pointLater_led (e : Eng) : e.pointLater.led = e.led := rfl
@[simp] theorem Eng.pointLater_gat (e : Eng) : e.pointLater.gat = e.gat := rfl
@[simp] theorem Eng.pointLater_cmp (e : Eng) : e.pointLater.cmp = e.cmp := rfl
@[simp] theorem Eng.pointLater_stw (e : Eng) : e.pointLater.stw = e.stw := rfl
@[simp] theorem Eng.pointLater_shv (e : Eng) : e.pointLater.shv = e.shv := rfl
@[simp] theorem Eng.pointLater_pan (e : Eng) : e.pointLater.pan = e.pan := rfl
@[simp] theorem Eng.pointLater_smp (e : Eng) : e.pointLater.smp = e.smp := rfl
@[simp] theorem Eng.pointLater_siv (e : Eng) : e.pointLater.siv = e.siv := rfl
@[simp] theorem Eng.pointLater_rsu (e : Eng) : e.pointLater.rsu = e.rsu := rfl
@[simp] theorem Eng.pointLater_bin (e : Eng) : e.pointLater.bin = e.bin := rfl
@[simp] theorem Eng.pointLater_raf (e : Eng) : e.pointLater.raf = e.raf := rfl
@[simp] theorem Eng.pointLater_ras (e : Eng) : e.pointLater.ras = e.ras := rfl
@[simp] theorem Eng.pointLater_dbg (e : Eng) : e.pointLater.dbg = e.dbg := rfl
@[simp] theorem Eng.pointLater_pd (e : Eng) : e.pointLater.pd = e.pd := rfl
@[simp] theorem Eng.pointLater_nextIdle (e : Eng) : e.pointLater.nextIdle = e.nextIdle := rfl
@[simp] theorem Eng.pointLater_nextQueued (e : Eng) : e.pointLater.nextQueued = e.nextQueued := rfl
@[simp] theorem Eng.pointLater_readData (e : Eng) : e.pointLater.readData = e.readData := rfl
@[simp] theorem Eng.pointLater_out (e : Eng) : e.pointLater.out = e.out := rfl
@[simp] theorem Eng.pointLater_free (e : Eng) : e.pointLater.free = e.free := rfl
@[simp] theorem Eng.pointLater_kpr_pointDue (e : Eng) : (e.pointLater).kpr.pointDue = true := rfl
@[simp] theorem Eng.pointLater_kpr_parts (e : Eng) : (e.pointLater).kpr.parts = e.kpr.parts := rfl

/-! ### withEng -/

@[simp] theorem State.withEng_eng (s : State) (e : Eng) : (s.withEng e).eng = e := rfl

@[simp] theorem State.withEng_boot (s : State) (e : Eng) : (s.withEng e).boot = s.boot := rfl

@[simp] theorem State.withEng_pending (s : State) (e : Eng) : (s.withEng e).pending = s.pending := rfl

/-! ### The shapes of a command -/

/-- Out of reset, a command of the units changes them as it says. -/
theorem live_up {s : State} (h : s.boot.absent = false) (f : Eng → Eng) : live s f = .next (s.withEng (f s.eng)) := by
  simp [live, h, State.withEng]

/-- With the engine absent nothing happens. -/
theorem live_absent {s : State} (h : s.boot.absent = true) (f : Eng → Eng) : live s f = .next s := by
  simp [live, h]

/-- All that a command of the units can do. -/
theorem live_spec (s : State) (f : Eng → Eng) :
    (s.boot.absent = true ∧ live s f = .next s) ∨ (s.boot.absent = false ∧ live s f = .next (s.withEng (f s.eng))) := by
  cases h : s.boot.absent
  · exact .inr ⟨rfl, live_up h f⟩
  · exact .inl ⟨rfl, live_absent h f⟩

theorem liveOr_up {s : State} (h : s.boot.absent = false) (a f : Eng → Eng) : liveOr s a f = .next (s.withEng (f s.eng)) := by
  simp [liveOr, h, State.withEng]

theorem liveOr_absent {s : State} (h : s.boot.absent = true) (a f : Eng → Eng) : liveOr s a f = .next (s.withEng (a s.eng)) := by
  simp [liveOr, h, State.withEng]

/-- All that a request of the array or of a small core can do. -/
theorem liveOr_spec (s : State) (a f : Eng → Eng) :
    (s.boot.absent = true ∧ liveOr s a f = .next (s.withEng (a s.eng)))
      ∨ (s.boot.absent = false ∧ liveOr s a f = .next (s.withEng (f s.eng))) := by
  cases h : s.boot.absent
  · exact .inr ⟨rfl, liveOr_up h a f⟩
  · exact .inl ⟨rfl, liveOr_absent h a f⟩

theorem bootUp_up {s : State} (h : s.boot.absent = false) (f : Boot → Eng → Boot × Eng) :
    bootUp s f = .next { s with boot := (f s.boot s.eng).1, eng := (f s.boot s.eng).2 } := by
  simp [bootUp, h]

/-- All that a command of the reset sequencer can do. -/
theorem bootUp_spec (s : State) (f : Boot → Eng → Boot × Eng) :
    (s.boot.absent = true ∧ bootUp s f = .next s)
      ∨ (s.boot.absent = false ∧ bootUp s f = .next { s with boot := (f s.boot s.eng).1, eng := (f s.boot s.eng).2 }) := by
  cases h : s.boot.absent
  · exact .inr ⟨rfl, bootUp_up h f⟩
  · exact .inl ⟨rfl, by simp [bootUp, h]⟩

/-- Fields that reporting leaves. -/

theorem Eng.Reports.now_eq {e e' : Eng} (h : e.Reports e') : e'.now = e.now := by
  have k := congrArg Eng.now h.rest; exact k
theorem Eng.Reports.act_eq {e e' : Eng} (h : e.Reports e') : e'.act = e.act := by
  have k := congrArg Eng.act h.rest; exact k
theorem Eng.Reports.cap_eq {e e' : Eng} (h : e.Reports e') : e'.cap = e.cap := by
  have k := congrArg Eng.cap h.rest; exact k
theorem Eng.Reports.pend_eq {e e' : Eng} (h : e.Reports e') : e'.pend = e.pend := by
  have k := congrArg Eng.pend h.rest; exact k
theorem Eng.Reports.held_eq {e e' : Eng} (h : e.Reports e') : e'.held = e.held := by
  have k := congrArg Eng.held h.rest; exact k
theorem Eng.Reports.pairLow_eq {e e' : Eng} (h : e.Reports e') : e'.pairLow = e.pairLow := by
  have k := congrArg Eng.pairLow h.rest; exact k
theorem Eng.Reports.latch_eq {e e' : Eng} (h : e.Reports e') : e'.latch = e.latch := by
  have k := congrArg Eng.latch h.rest; exact k
theorem Eng.Reports.tal_eq {e e' : Eng} (h : e.Reports e') : e'.tal = e.tal := by
  have k := congrArg Eng.tal h.rest; exact k
theorem Eng.Reports.led_eq {e e' : Eng} (h : e.Reports e') : e'.led = e.led := by
  have k := congrArg Eng.led h.rest; exact k
theorem Eng.Reports.gat_eq {e e' : Eng} (h : e.Reports e') : e'.gat = e.gat := by
  have k := congrArg Eng.gat h.rest; exact k
theorem Eng.Reports.cmp_eq {e e' : Eng} (h : e.Reports e') : e'.cmp = e.cmp := by
  have k := congrArg Eng.cmp h.rest; exact k
theorem Eng.Reports.stw_eq {e e' : Eng} (h : e.Reports e') : e'.stw = e.stw := by
  have k := congrArg Eng.stw h.rest; exact k
theorem Eng.Reports.shv_eq {e e' : Eng} (h : e.Reports e') : e'.shv = e.shv := by
  have k := congrArg Eng.shv h.rest; exact k
theorem Eng.Reports.pan_eq {e e' : Eng} (h : e.Reports e') : e'.pan = e.pan := by
  have k := congrArg Eng.pan h.rest; exact k
theorem Eng.Reports.smp_eq {e e' : Eng} (h : e.Reports e') : e'.smp = e.smp := by
  have k := congrArg Eng.smp h.rest; exact k
theorem Eng.Reports.siv_eq {e e' : Eng} (h : e.Reports e') : e'.siv = e.siv := by
  have k := congrArg Eng.siv h.rest; exact k
theorem Eng.Reports.rsu_eq {e e' : Eng} (h : e.Reports e') : e'.rsu = e.rsu := by
  have k := congrArg Eng.rsu h.rest; exact k
theorem Eng.Reports.bin_eq {e e' : Eng} (h : e.Reports e') : e'.bin = e.bin := by
  have k := congrArg Eng.bin h.rest; exact k
theorem Eng.Reports.kpr_eq {e e' : Eng} (h : e.Reports e') : e'.kpr = e.kpr := by
  have k := congrArg Eng.kpr h.rest; exact k
theorem Eng.Reports.raf_eq {e e' : Eng} (h : e.Reports e') : e'.raf = e.raf := by
  have k := congrArg Eng.raf h.rest; exact k
theorem Eng.Reports.ras_eq {e e' : Eng} (h : e.Reports e') : e'.ras = e.ras := by
  have k := congrArg Eng.ras h.rest; exact k
theorem Eng.Reports.pd_eq {e e' : Eng} (h : e.Reports e') : e'.pd = e.pd := by
  have k := congrArg Eng.pd h.rest; exact k
theorem Eng.Reports.nextIdle_eq {e e' : Eng} (h : e.Reports e') : e'.nextIdle = e.nextIdle := by
  have k := congrArg Eng.nextIdle h.rest; exact k
theorem Eng.Reports.nextQueued_eq {e e' : Eng} (h : e.Reports e') : e'.nextQueued = e.nextQueued := by
  have k := congrArg Eng.nextQueued h.rest; exact k
theorem Eng.Reports.readData_eq {e e' : Eng} (h : e.Reports e') : e'.readData = e.readData := by
  have k := congrArg Eng.readData h.rest; exact k
theorem Eng.Reports.free_eq {e e' : Eng} (h : e.Reports e') : e'.free = e.free := by
  have k := congrArg Eng.free h.rest; exact k

theorem Eng.Passes.act_eq {e e' : Eng} (h : e.Passes e') : e'.act = e.act := by
  have k := congrArg Eng.act h.rest; exact k
theorem Eng.Passes.cap_eq {e e' : Eng} (h : e.Passes e') : e'.cap = e.cap := by
  have k := congrArg Eng.cap h.rest; exact k
theorem Eng.Passes.pend_eq {e e' : Eng} (h : e.Passes e') : e'.pend = e.pend := by
  have k := congrArg Eng.pend h.rest; exact k
theorem Eng.Passes.held_eq {e e' : Eng} (h : e.Passes e') : e'.held = e.held := by
  have k := congrArg Eng.held h.rest; exact k
theorem Eng.Passes.pairLow_eq {e e' : Eng} (h : e.Passes e') : e'.pairLow = e.pairLow := by
  have k := congrArg Eng.pairLow h.rest; exact k
theorem Eng.Passes.latch_eq {e e' : Eng} (h : e.Passes e') : e'.latch = e.latch := by
  have k := congrArg Eng.latch h.rest; exact k
theorem Eng.Passes.tal_eq {e e' : Eng} (h : e.Passes e') : e'.tal = e.tal := by
  have k := congrArg Eng.tal h.rest; exact k
theorem Eng.Passes.hat_eq {e e' : Eng} (h : e.Passes e') : e'.hat = e.hat := by
  have k := congrArg Eng.hat h.rest; exact k
theorem Eng.Passes.led_eq {e e' : Eng} (h : e.Passes e') : e'.led = e.led := by
  have k := congrArg Eng.led h.rest; exact k
theorem Eng.Passes.gat_eq {e e' : Eng} (h : e.Passes e') : e'.gat = e.gat := by
  have k := congrArg Eng.gat h.rest; exact k
theorem Eng.Passes.cmp_eq {e e' : Eng} (h : e.Passes e') : e'.cmp = e.cmp := by
  have k := congrArg Eng.cmp h.rest; exact k
theorem Eng.Passes.stw_eq {e e' : Eng} (h : e.Passes e') : e'.stw = e.stw := by
  have k := congrArg Eng.stw h.rest; exact k
theorem Eng.Passes.shv_eq {e e' : Eng} (h : e.Passes e') : e'.shv = e.shv := by
  have k := congrArg Eng.shv h.rest; exact k
theorem Eng.Passes.pan_eq {e e' : Eng} (h : e.Passes e') : e'.pan = e.pan := by
  have k := congrArg Eng.pan h.rest; exact k
theorem Eng.Passes.smp_eq {e e' : Eng} (h : e.Passes e') : e'.smp = e.smp := by
  have k := congrArg Eng.smp h.rest; exact k
theorem Eng.Passes.siv_eq {e e' : Eng} (h : e.Passes e') : e'.siv = e.siv := by
  have k := congrArg Eng.siv h.rest; exact k
theorem Eng.Passes.rsu_eq {e e' : Eng} (h : e.Passes e') : e'.rsu = e.rsu := by
  have k := congrArg Eng.rsu h.rest; exact k
theorem Eng.Passes.bin_eq {e e' : Eng} (h : e.Passes e') : e'.bin = e.bin := by
  have k := congrArg Eng.bin h.rest; exact k
theorem Eng.Passes.raf_eq {e e' : Eng} (h : e.Passes e') : e'.raf = e.raf := by
  have k := congrArg Eng.raf h.rest; exact k
theorem Eng.Passes.ras_eq {e e' : Eng} (h : e.Passes e') : e'.ras = e.ras := by
  have k := congrArg Eng.ras h.rest; exact k
theorem Eng.Passes.pd_eq {e e' : Eng} (h : e.Passes e') : e'.pd = e.pd := by
  have k := congrArg Eng.pd h.rest; exact k
theorem Eng.Passes.nextIdle_eq {e e' : Eng} (h : e.Passes e') : e'.nextIdle = e.nextIdle := by
  have k := congrArg Eng.nextIdle h.rest; exact k
theorem Eng.Passes.nextQueued_eq {e e' : Eng} (h : e.Passes e') : e'.nextQueued = e.nextQueued := by
  have k := congrArg Eng.nextQueued h.rest; exact k
theorem Eng.Passes.readData_eq {e e' : Eng} (h : e.Passes e') : e'.readData = e.readData := by
  have k := congrArg Eng.readData h.rest; exact k
theorem Eng.Passes.out_eq {e e' : Eng} (h : e.Passes e') : e'.out = e.out := by
  have k := congrArg Eng.out h.rest; exact k
theorem Eng.Passes.free_eq {e e' : Eng} (h : e.Passes e') : e'.free = e.free := by
  have k := congrArg Eng.free h.rest; exact k

end Sys2Proof.Machine
end

