-- ==== Sys2Proof/Laws/Shape.lean ====
section
/-!
SUPPORT. The shape of every command: whether it acts on the units, answers a partner, acts on the reset sequencer, or is one of the
few that do otherwise.
-/
namespace Sys2Proof.Machine

/-- The command acts on the units, and does nothing while the engine is absent. -/
def OnUnits (c : Instr) (s : State) : Prop := ∃ f, exec c s = live s f

/-- An answer leaves the engine but for what has been sent and the word read. -/
def Answers (e e' : Eng) : Prop := e' = { e with readData := e'.readData, out := e'.out } ∧ ∃ l, e'.out = l ++ e.out

/-- The command asks something of the engine, and the chip's port logic answers while the engine is absent. -/
def Asks (c : Instr) (s : State) : Prop := ∃ a f, exec c s = liveOr s a f ∧ ∀ e, Answers e (a e)

/-- The commands of neither shape. -/
def OwnShape (c : Instr) : Bool :=
  match c with
  | .registerWrite _ _ _ => true
  | .sSetc _ _ _ _ => true
  | .kBegin _ _ _ => true
  | .take _ => true
  | .noDispatcher _ => true
  | .driverReset _ => true
  | .clock => true
  | .resetRelease => true
  | .tallyCopy => true
  | .powerOn => true
  | .chip => true
  | .imageLoad _ => true
  | .imageLoadEnd _ _ _ _ => true
  | .glbInit _ => true
  | .initDone => true
  | .glbLock _ => true
  | .dbgWrite _ _ _ => true
  | .dbgReset _ => true
  | _ => false

theorem Answers.tell (e : Eng) (m : ArrMsg) : Answers e (e.tell m) := ⟨rfl, [.array m], rfl⟩

theorem Answers.read (e : Eng) (off size : Nat) : Answers e (e.absentRead off size) := ⟨rfl, [], rfl⟩

/-- A command that may carry the Tally forward acts on the units, where what it does does: with the end of the present tick first, if it
carries the Tally forward (R628). -/
theorem timed_live (s : State) {f : State → Host.Outcome State Fault Refusal} {g : Eng → Eng} (h : ∀ e, f { s with eng := e } = live { s with eng := e } g) :
    ∃ k, timed s f = live s k := by
  refine ⟨fun e => if e.now < (g e).now then g (e.tickOver (g e).now) else g e, ?_⟩
  unfold timed
  rw [show f s = live s g from h s.eng]
  unfold live
  by_cases ha : s.boot.absent = true
  · simp [ha]
  · by_cases hn : s.eng.now < (g s.eng).now <;> simp [ha, hn, h, live]

/-- A command that may carry the Tally forward runs on the state as it stands, or with the ticks before it ended first (R628). -/
theorem timed_next {s t : State} {f : State → Host.Outcome State Fault Refusal} (h : timed s f = .next t) :
    f s = .next t ∨ ∃ n, f { s with eng := s.eng.tickOver n } = .next t := by
  unfold timed at h
  split at h
  · next u hu =>
    split at h
    · exact .inr ⟨_, h⟩
    · cases h; exact .inl hu
  · exact .inl h

/-- Where the present tick leaves nothing to do behind it, it alone ends before the Tally goes on. -/
theorem Eng.tickOver_left (e : Eng) (h : ∀ t, e.tickLeft.nextStop t = none) (n : Nat) : e.tickOver n = e.tickLeft := by
  unfold Eng.tickOver ticksTo
  dsimp only
  rw [h n]

/-- In a settled tick the Tally goes on at once. -/
theorem State.Settled.tickOver {s : State} (h : s.Settled) (n : Nat) : s.eng.tickOver n = s.eng :=
  (s.eng.tickOver_left (fun t => by rw [h.1]; exact h.2 t) n).trans h.1

/-- In a settled tick a dated command is its effect alone. -/
theorem timed_settled (s : State) (f : State → Host.Outcome State Fault Refusal) (h : s.Settled) : timed s f = f s := by
  unfold timed
  cases hf : f s <;> simp [h.tickOver, hf]

/-- What carries the Tally forward answers as it does where the tick that it leaves is over (R628). -/
theorem timed_again (s t : State) (f : State → Host.Outcome State Fault Refusal) (h : timed s f = .next t) (ha : s.boot.absent = false)
    (ht : s.eng.now < t.eng.now) (hs : s.tickLeft.Settled) : timed s.tickLeft f = .next t := by
  rw [timed_settled _ _ hs]
  unfold timed at h
  cases hf : f s with
  | next u =>
    rw [hf] at h
    by_cases hu : s.eng.now < u.eng.now
    · simp only [hu, ha, decide_true, Bool.not_false, Bool.and_self, if_true, s.eng.tickOver_left hs.2] at h
      exact h
    · simp only [hu, decide_false, Bool.false_and, Bool.false_eq_true, if_false, Host.Outcome.next.injEq] at h
      subst h
      exact absurd ht hu
  | _ => rw [hf] at h; simp at h

/-- Every command has one of the shapes. -/
theorem exec_shape (c : Instr) (s : State) : OnUnits c s ∨ Asks c s ∨ OwnShape c = true := by
  cases c
  case registerWrite => exact .inr (.inr rfl)
  case badAccess =>
    right; left; dsimp only [Asks, exec, execBadAccess]
    exact ⟨_, _, rfl, fun e => by split; exacts [⟨rfl, [], rfl⟩, ⟨rfl, [], rfl⟩]⟩
  case pairLowRead => right; left; dsimp only [Asks, exec, execPairLowRead]; exact ⟨_, _, rfl, fun e => Answers.read e _ _⟩
  case pairHighWrite => left; dsimp only [OnUnits, exec, execPairHighWrite, execCstEntryCommit]; split <;> exact ⟨_, rfl⟩
  case idleEdge => left; exact timed_live s (fun _ => rfl)
  case stepEdge => left; exact timed_live s (fun _ => rfl)
  case queuedDeadlineCheck => left; exact timed_live s (fun _ => rfl)
  case deadlineFirstPass => left; exact timed_live s (fun _ => rfl)
  case cstFrameBoundary => left; exact timed_live s (fun _ => rfl)
  case cstSlotStart => left; exact timed_live s (fun _ => rfl)
  case cstEntryCommit => left; dsimp only [OnUnits, exec, execCstEntryCommit]; exact ⟨_, rfl⟩
  case edgeLeadWrite => left; dsimp only [OnUnits, exec, execEdgeLeadWrite]; exact ⟨_, rfl⟩
  case ringCfgWrite => left; dsimp only [OnUnits, exec, execRingCfgWrite]; exact ⟨_, rfl⟩
  case doorbellSnoop => left; dsimp only [OnUnits, exec, execDoorbellSnoop]; exact ⟨_, rfl⟩
  case doorbellPoll => left; exact timed_live s (fun _ => rfl)
  case hatDbwin => left; dsimp only [OnUnits, exec, execHatDbwin]; exact ⟨_, rfl⟩
  case submit => left; dsimp only [OnUnits, exec, execSubmit]; exact ⟨_, rfl⟩
  case admitOrder => left; dsimp only [OnUnits, exec, execAdmitOrder]; exact ⟨_, rfl⟩
  case resume => left; dsimp only [OnUnits, exec, execResume]; exact ⟨_, rfl⟩
  case modify => left; dsimp only [OnUnits, exec, execModify]; exact ⟨_, rfl⟩
  case preempt => left; dsimp only [OnUnits, exec, execPreempt]; exact ⟨_, rfl⟩
  case cancel => left; dsimp only [OnUnits, exec, execCancel]; exact ⟨_, rfl⟩
  case loadModel => left; dsimp only [OnUnits, exec, execLoadModel]; exact ⟨_, rfl⟩
  case unloadModel => left; dsimp only [OnUnits, exec, execUnloadModel]; exact ⟨_, rfl⟩
  case nop => left; dsimp only [OnUnits, exec, execNop]; exact ⟨_, rfl⟩
  case headAdvance => left; dsimp only [OnUnits, exec, execHeadAdvance]; exact ⟨_, rfl⟩
  case overflowDrain => left; dsimp only [OnUnits, exec, execOverflowDrain]; exact ⟨_, rfl⟩
  case helloGo => left; dsimp only [OnUnits, exec, execHelloGo]; exact ⟨_, rfl⟩
  case recordFill => left; dsimp only [OnUnits, exec, execRecordFill]; exact ⟨_, rfl⟩
  case slotRelease => left; dsimp only [OnUnits, exec, execSlotRelease]; exact ⟨_, rfl⟩
  case ledgerPeek => left; dsimp only [OnUnits, exec, execLedgerPeek]; exact ⟨_, rfl⟩
  case admissionBucketRefill => left; exact timed_live s (fun _ => rfl)
  case prefixMatch => left; dsimp only [OnUnits, exec, execPrefixMatch]; exact ⟨_, rfl⟩
  case instanceTrigger => left; dsimp only [OnUnits, exec, execInstanceTrigger]; exact ⟨_, rfl⟩
  case arrayStepDone => left; dsimp only [OnUnits, exec, execArrayStepDone]; exact ⟨_, rfl⟩
  case composeStart => left; dsimp only [OnUnits, exec, execComposeStart]; exact ⟨_, rfl⟩
  case cycleLimit => left; dsimp only [OnUnits, exec, execCycleLimit]; exact ⟨_, rfl⟩
  case nopScalar => left; dsimp only [OnUnits, exec, execNopScalar]; exact ⟨_, rfl⟩
  case sAdd => left; dsimp only [OnUnits, exec, execSAdd, scalarTo, scalar]; exact ⟨_, rfl⟩
  case sSub => left; dsimp only [OnUnits, exec, execSSub, scalarTo, scalar]; exact ⟨_, rfl⟩
  case sAnd => left; dsimp only [OnUnits, exec, execSAnd, scalarTo, scalar]; exact ⟨_, rfl⟩
  case sOr => left; dsimp only [OnUnits, exec, execSOr, scalarTo, scalar]; exact ⟨_, rfl⟩
  case sXor => left; dsimp only [OnUnits, exec, execSXor, scalarTo, scalar]; exact ⟨_, rfl⟩
  case sShl => left; dsimp only [OnUnits, exec, execSShl, scalarTo, scalar]; exact ⟨_, rfl⟩
  case sShr => left; dsimp only [OnUnits, exec, execSShr, scalarTo, scalar]; exact ⟨_, rfl⟩
  case sMul => left; dsimp only [OnUnits, exec, execSMul, scalarTo, scalar]; exact ⟨_, rfl⟩
  case sMin => left; dsimp only [OnUnits, exec, execSMin, scalarTo, scalar]; exact ⟨_, rfl⟩
  case sMax => left; dsimp only [OnUnits, exec, execSMax, scalarTo, scalar]; exact ⟨_, rfl⟩
  case sMinu => left; dsimp only [OnUnits, exec, execSMinu, scalarTo, scalar]; exact ⟨_, rfl⟩
  case sMaxu => left; dsimp only [OnUnits, exec, execSMaxu, scalarTo, scalar]; exact ⟨_, rfl⟩
  case sAddi => left; dsimp only [OnUnits, exec, execSAddi, scalarTo, scalar]; exact ⟨_, rfl⟩
  case sAndi => left; dsimp only [OnUnits, exec, execSAndi, scalarTo, scalar]; exact ⟨_, rfl⟩
  case sOri => left; dsimp only [OnUnits, exec, execSOri, scalarTo, scalar]; exact ⟨_, rfl⟩
  case sShli => left; dsimp only [OnUnits, exec, execSShli, scalarTo, scalar]; exact ⟨_, rfl⟩
  case sShri => left; dsimp only [OnUnits, exec, execSShri, scalarTo, scalar]; exact ⟨_, rfl⟩
  case sLi => left; dsimp only [OnUnits, exec, execSLi, scalarTo, scalar]; exact ⟨_, rfl⟩
  case sCeq => left; dsimp only [OnUnits, exec, execSCeq, predTo, scalar]; exact ⟨_, rfl⟩
  case sClt => left; dsimp only [OnUnits, exec, execSClt, predTo, scalar]; exact ⟨_, rfl⟩
  case sCltu => left; dsimp only [OnUnits, exec, execSCltu, predTo, scalar]; exact ⟨_, rfl⟩
  case sCeqi => left; dsimp only [OnUnits, exec, execSCeqi, predTo, scalar]; exact ⟨_, rfl⟩
  case sClti => left; dsimp only [OnUnits, exec, execSClti, predTo, scalar]; exact ⟨_, rfl⟩
  case sPcnt => left; dsimp only [OnUnits, exec, execSPcnt, scalarTo, scalar]; exact ⟨_, rfl⟩
  case sPand => left; dsimp only [OnUnits, exec, execSPand, predTo, scalar]; exact ⟨_, rfl⟩
  case sPnot => left; dsimp only [OnUnits, exec, execSPnot, predTo, scalar]; exact ⟨_, rfl⟩
  case sGetc => left; dsimp only [OnUnits, exec, execSGetc, scalar]; exact ⟨_, rfl⟩
  case sSetc => exact .inr (.inr rfl)
  case sLd => left; dsimp only [OnUnits, exec, execSLd, scalar]; exact ⟨_, rfl⟩
  case sSt => left; dsimp only [OnUnits, exec, execSSt, scalar]; exact ⟨_, rfl⟩
  case sBr => left; dsimp only [OnUnits, exec, execSBr, scalar]; exact ⟨_, rfl⟩
  case sBrz => left; dsimp only [OnUnits, exec, execSBrz, scalar]; exact ⟨_, rfl⟩
  case sBrnz => left; dsimp only [OnUnits, exec, execSBrnz, scalar]; exact ⟨_, rfl⟩
  case sEnd => left; dsimp only [OnUnits, exec, execSEnd, scalar]; exact ⟨_, rfl⟩
  case wideNop => left; dsimp only [OnUnits, exec, execWideNop, wide]; exact ⟨_, rfl⟩
  case wAdd => left; dsimp only [OnUnits, exec, execWAdd, wideTo, wide]; exact ⟨_, rfl⟩
  case wSub => left; dsimp only [OnUnits, exec, execWSub, wideTo, wide]; exact ⟨_, rfl⟩
  case wAnd => left; dsimp only [OnUnits, exec, execWAnd, wideTo, wide]; exact ⟨_, rfl⟩
  case wOr => left; dsimp only [OnUnits, exec, execWOr, wideTo, wide]; exact ⟨_, rfl⟩
  case wMin => left; dsimp only [OnUnits, exec, execWMin, wideTo, wide]; exact ⟨_, rfl⟩
  case wMax => left; dsimp only [OnUnits, exec, execWMax, wideTo, wide]; exact ⟨_, rfl⟩
  case wMinu => left; dsimp only [OnUnits, exec, execWMinu, wideTo, wide]; exact ⟨_, rfl⟩
  case wMaxu => left; dsimp only [OnUnits, exec, execWMaxu, wideTo, wide]; exact ⟨_, rfl⟩
  case wMul => left; dsimp only [OnUnits, exec, execWMul, wideTo, wide]; exact ⟨_, rfl⟩
  case wShli => left; dsimp only [OnUnits, exec, execWShli, wideTo, wide]; exact ⟨_, rfl⟩
  case wShri => left; dsimp only [OnUnits, exec, execWShri, wideTo, wide]; exact ⟨_, rfl⟩
  case wMov => left; dsimp only [OnUnits, exec, execWMov, wideTo, wide]; exact ⟨_, rfl⟩
  case wBc => left; dsimp only [OnUnits, exec, execWBc, wideTo, wide]; exact ⟨_, rfl⟩
  case wLi => left; dsimp only [OnUnits, exec, execWLi, wideTo, wide]; exact ⟨_, rfl⟩
  case wGet => left; dsimp only [OnUnits, exec, execWGet, wide]; exact ⟨_, rfl⟩
  case wCeq => left; dsimp only [OnUnits, exec, execWCeq, wideCmp, wide]; exact ⟨_, rfl⟩
  case wClt => left; dsimp only [OnUnits, exec, execWClt, wideCmp, wide]; exact ⟨_, rfl⟩
  case wCltu => left; dsimp only [OnUnits, exec, execWCltu, wideCmp, wide]; exact ⟨_, rfl⟩
  case wBit => left; dsimp only [OnUnits, exec, execWBit, wideCmp, wide]; exact ⟨_, rfl⟩
  case wSum => left; dsimp only [OnUnits, exec, execWSum, wide]; exact ⟨_, rfl⟩
  case wSort => left; dsimp only [OnUnits, exec, execWSort, wide]; exact ⟨_, rfl⟩
  case kBegin => exact .inr (.inr rfl)
  case kSel => left; dsimp only [OnUnits, exec, execKSel, wide]; exact ⟨_, rfl⟩
  case lScan => left; dsimp only [OnUnits, exec, execLScan, wide]; exact ⟨_, rfl⟩
  case lFld => left; dsimp only [OnUnits, exec, execLFld, wide]; exact ⟨_, rfl⟩
  case wFit => left; dsimp only [OnUnits, exec, execWFit, wide]; exact ⟨_, rfl⟩
  case append => left; dsimp only [OnUnits, exec, execAppend]; exact ⟨_, rfl⟩
  case stepEmit => left; exact timed_live s (fun _ => rfl)
  case epochDrained => left; dsimp only [OnUnits, exec, execEpochDrained]; exact ⟨_, rfl⟩
  case arrayConfigLoaded => left; dsimp only [OnUnits, exec, execArrayConfigLoaded]; exact ⟨_, rfl⟩
  case arrayConfigFailed => left; dsimp only [OnUnits, exec, execArrayConfigFailed]; exact ⟨_, rfl⟩
  case programLoad => left; dsimp only [OnUnits, exec, execProgramLoad]; exact ⟨_, rfl⟩
  case programLoadEnd => left; exact timed_live s (fun _ => rfl)
  case stwViewWrite => left; dsimp only [OnUnits, exec, execStwViewWrite]; exact ⟨_, rfl⟩
  case cmpPartProgWrite => left; dsimp only [OnUnits, exec, execCmpPartProgWrite]; exact ⟨_, rfl⟩
  case pieceStart => left; dsimp only [OnUnits, exec, execPieceStart]; exact ⟨_, rfl⟩
  case pieceDone => left; dsimp only [OnUnits, exec, execPieceDone]; exact ⟨_, rfl⟩
  case oldFramesFreed => left; dsimp only [OnUnits, exec, execOldFramesFreed]; exact ⟨_, rfl⟩
  case cellarStreamGrant => right; left; dsimp only [Asks, exec, execCellarStreamGrant]; exact ⟨_, _, rfl, fun e => Answers.tell e _⟩
  case logitRow => left; exact timed_live s (fun _ => rfl)
  case rowControlJoin => left; exact timed_live s (fun _ => rfl)
  case dataTimerExpiry => left; exact timed_live s (fun _ => rfl)
  case stepTimerExpiry => left; exact timed_live s (fun _ => rfl)
  case rowSampled => left; dsimp only [OnUnits, exec, execRowSampled]; exact ⟨_, rfl⟩
  case slotCommit => left; dsimp only [OnUnits, exec, execSlotCommit]; exact ⟨_, rfl⟩
  case spareLaneInService => left; exact timed_live s (fun _ => rfl)
  case maskPageFetch => left; dsimp only [OnUnits, exec, execMaskPageFetch]; exact ⟨_, rfl⟩
  case grammarInstall => left; dsimp only [OnUnits, exec, execGrammarInstall]; exact ⟨_, rfl⟩
  case grammarInstallEnd => left; dsimp only [OnUnits, exec, execGrammarInstallEnd]; exact ⟨_, rfl⟩
  case grammarRemove => left; dsimp only [OnUnits, exec, execGrammarRemove]; exact ⟨_, rfl⟩
  case jumpDone => left; dsimp only [OnUnits, exec, execJumpDone]; exact ⟨_, rfl⟩
  case serviceRequest => right; left; dsimp only [Asks, exec, execServiceRequest]; exact ⟨_, _, rfl, fun e => Answers.tell e _⟩
  case rsuProbe => left; dsimp only [OnUnits, exec, execRsuProbe]; exact ⟨_, rfl⟩
  case binPush => right; left; dsimp only [Asks, exec, execBinPush]; exact ⟨_, _, rfl, fun e => Answers.tell e _⟩
  case take => exact .inr (.inr rfl)
  case done => left; dsimp only [OnUnits, exec, execDone]; exact ⟨_, rfl⟩
  case holdBeat => left; exact timed_live s (fun _ => rfl)
  case takeTimeout => left; exact timed_live s (fun _ => rfl)
  case affRelease => left; exact timed_live s (fun _ => rfl)
  case noDispatcher => exact .inr (.inr rfl)
  case refill => left; dsimp only [OnUnits, exec, execRefill]; exact ⟨_, rfl⟩
  case activityPoint => left; exact timed_live s (fun _ => rfl)
  case regulatorRefill => left; exact timed_live s (fun _ => rfl)
  case acctIntervalClose => left; exact timed_live s (fun _ => rfl)
  case sliceEnd => left; exact timed_live s (fun _ => rfl)
  case partitionCtlWrite => left; dsimp only [OnUnits, exec, execPartitionCtlWrite]; exact ⟨_, rfl⟩
  case tilesWrite => left; dsimp only [OnUnits, exec, execTilesWrite]; exact ⟨_, rfl⟩
  case rafResvWrite => left; dsimp only [OnUnits, exec, execRafResvWrite]; exact ⟨_, rfl⟩
  case saveDrain => left; dsimp only [OnUnits, exec, execSaveDrain]; exact ⟨_, rfl⟩
  case saveFreeze => left; dsimp only [OnUnits, exec, execSaveFreeze]; exact ⟨_, rfl⟩
  case freezeHalt => left; exact timed_live s (fun _ => rfl)
  case saveComplete => left; exact timed_live s (fun _ => rfl)
  case restore => left; dsimp only [OnUnits, exec, execRestore]; exact ⟨_, rfl⟩
  case restoreComplete => left; exact timed_live s (fun _ => rfl)
  case discard => left; dsimp only [OnUnits, exec, execDiscard]; exact ⟨_, rfl⟩
  case acquire => right; left; dsimp only [Asks, exec, execAcquire]; exact ⟨_, _, rfl, fun e => Answers.tell e _⟩
  case release => right; left; dsimp only [Asks, exec, execRelease]; exact ⟨_, _, rfl, fun e => Answers.tell e _⟩
  case donationLong => left; exact timed_live s (fun _ => rfl)
  case blockWindowExpiry => left; exact timed_live s (fun _ => rfl)
  case leaveWindowStart => left; exact timed_live s (fun _ => rfl)
  case leaveStart => left; exact timed_live s (fun _ => rfl)
  case leaveWaitExpiry => left; exact timed_live s (fun _ => rfl)
  case laneTrained => left; dsimp only [OnUnits, exec, execLaneTrained]; exact ⟨_, rfl⟩
  case laneTrainTimeout => left; exact timed_live s (fun _ => rfl)
  case identTimeout => left; exact timed_live s (fun _ => rfl)
  case identResend => left; exact timed_live s (fun _ => rfl)
  case fecLockLoss => left; dsimp only [OnUnits, exec, execFecLockLoss]; exact ⟨_, rfl⟩
  case linkSilence => left; exact timed_live s (fun _ => rfl)
  case spareJoin => left; exact timed_live s (fun _ => rfl)
  case ident => left; dsimp only [OnUnits, exec, execIdent]; exact ⟨_, rfl⟩
  case syncSend =>
    left; apply timed_live s; intro e; dsimp only [atSyncSend]
  case sync => left; dsimp only [OnUnits, exec, execSync]; exact ⟨_, rfl⟩
  case syncReply => left; dsimp only [OnUnits, exec, execSyncReply]; exact ⟨_, rfl⟩
  case tallyParentTimeout => left; exact timed_live s (fun _ => rfl)
  case holdoverBoundRise => left; exact timed_live s (fun _ => rfl)
  case credit => left; dsimp only [OnUnits, exec, execCredit]; exact ⟨_, rfl⟩
  case creditReq => left; dsimp only [OnUnits, exec, execCreditReq]; exact ⟨_, rfl⟩
  case creditReturn => left; dsimp only [OnUnits, exec, execCreditReturn]; exact ⟨_, rfl⟩
  case peerLost => left; dsimp only [OnUnits, exec, execPeerLost]; exact ⟨_, rfl⟩
  case stepBcast => left; dsimp only [OnUnits, exec, execStepBcast]; exact ⟨_, rfl⟩
  case stepLate => left; dsimp only [OnUnits, exec, execStepLate]; exact ⟨_, rfl⟩
  case stepAbort => left; dsimp only [OnUnits, exec, execStepAbort]; exact ⟨_, rfl⟩
  case freeze => left; dsimp only [OnUnits, exec, execFreeze]; exact ⟨_, rfl⟩
  case shelver => left; dsimp only [OnUnits, exec, execShelver]; exact ⟨_, rfl⟩
  case mirror => left; dsimp only [OnUnits, exec, execMirror]; exact ⟨_, rfl⟩
  case mirrorAck => left; dsimp only [OnUnits, exec, execMirrorAck]; exact ⟨_, rfl⟩
  case order => left; dsimp only [OnUnits, exec, execOrder]; exact ⟨_, rfl⟩
  case superseded => left; dsimp only [OnUnits, exec, execSuperseded]; exact ⟨_, rfl⟩
  case orderReply => left; dsimp only [OnUnits, exec, execOrderReply]; exact ⟨_, rfl⟩
  case mapLoad => left; dsimp only [OnUnits, exec, execMapLoad]; exact ⟨_, rfl⟩
  case mapLoadEnd => left; dsimp only [OnUnits, exec, execMapLoadEnd]; exact ⟨_, rfl⟩
  case buddyTimeout => left; exact timed_live s (fun _ => rfl)
  case powerOn => exact .inr (.inr rfl)
  case chip => exact .inr (.inr rfl)
  case driverReset => exact .inr (.inr rfl)
  case unitReset => left; dsimp only [OnUnits, exec, execUnitReset]; exact ⟨_, rfl⟩
  case resetKeyBad => left; dsimp only [OnUnits, exec, execResetKeyBad]; exact ⟨_, rfl⟩
  case clock => exact .inr (.inr rfl)
  case resetRelease => exact .inr (.inr rfl)
  case tallyCopy => exact .inr (.inr rfl)
  case imageLoad => exact .inr (.inr rfl)
  case imageLoadEnd => exact .inr (.inr rfl)
  case glbInit => exact .inr (.inr rfl)
  case initDone => exact .inr (.inr rfl)
  case glbLock => exact .inr (.inr rfl)
  case domainWakeDone => left; exact timed_live s (fun _ => rfl)
  case domainIdleGate => left; exact timed_live s (fun _ => rfl)
  case ledgerBankRetain => left; exact timed_live s (fun _ => rfl)
  case fault => left; dsimp only [OnUnits, exec, execFault]; exact ⟨_, rfl⟩
  case quiesceWaitExpiry => left; exact timed_live s (fun _ => rfl)
  case pop => left; dsimp only [OnUnits, exec, execPop]; exact ⟨_, rfl⟩
  case takeover => left; dsimp only [OnUnits, exec, execTakeover]; exact ⟨_, rfl⟩
  case cntSelWrite => left; dsimp only [OnUnits, exec, execCntSelWrite]; exact ⟨_, rfl⟩
  case clear => left; dsimp only [OnUnits, exec, execClear]; exact ⟨_, rfl⟩
  case cntFreezeAt => left; exact timed_live s (fun _ => rfl)
  case dbgOpen => left; exact timed_live s (fun _ => rfl)
  case dbgClose => left; dsimp only [OnUnits, exec, execDbgClose, portOpen]; exact ⟨_, rfl⟩
  case haltEngine => left; dsimp only [OnUnits, exec, execHaltEngine, portOpen]; exact ⟨_, rfl⟩
  case haltSteward => left; dsimp only [OnUnits, exec, execHaltSteward, portOpen]; exact ⟨_, rfl⟩
  case resumeEngine => left; dsimp only [OnUnits, exec, execResumeEngine, portOpen]; exact ⟨_, rfl⟩
  case resumeSteward => left; dsimp only [OnUnits, exec, execResumeSteward, portOpen]; exact ⟨_, rfl⟩
  case dbgStep => left; dsimp only [OnUnits, exec, execDbgStep, portOpen]; exact ⟨_, rfl⟩
  case brkCfg => left; dsimp only [OnUnits, exec, execBrkCfg, portOpen]; exact ⟨_, rfl⟩
  case brkVal => left; dsimp only [OnUnits, exec, execBrkVal, portOpen]; exact ⟨_, rfl⟩
  case dbgRead => left; dsimp only [OnUnits, exec, execDbgRead, portOpen]; exact ⟨_, rfl⟩
  case dbgWrite => exact .inr (.inr rfl)
  case dbgWriteRaw => left; dsimp only [OnUnits, exec, execDbgWriteRaw, portOpen]; exact ⟨_, rfl⟩
  case dbgReset => exact .inr (.inr rfl)
  case breakpointHit => left; exact timed_live s (fun _ => rfl)

/-- What a write of a register can be. -/
inductive WriteShape (off size : Nat) (data : DWord) (s : State) (o : Host.Outcome State Fault Refusal) : Prop where
  | units (f : Eng → Eng) (h : o = live s f)
  | none (h : o = .next s)
  | lock (d : Word) (ho : off = 8) (hs : size = 4) (h : o = execGlbLock d s)
  | image (d : Word) (h : o = execImageLoad d s)
  | init (d : Word) (h : o = execGlbInit d s)
  | reset (d : Word) (h : o = execDriverReset d s)

theorem glbReset_shape (data : Word) (s : State) : (∃ f, glbReset data s = live s f) ∨ glbReset data s = execDriverReset data s := by
  unfold glbReset
  extract_lets u
  split
  · exact .inl ⟨_, rfl⟩
  · split
    · exact .inr rfl
    · exact .inl ⟨_, rfl⟩

theorem ctxCmd_shape (data : Word) (s : State) : ∃ f, ctxCmd data s = live s f := by
  unfold ctxCmd
  extract_lets d i
  repeat' split
  all_goals exact ⟨_, rfl⟩

theorem ownRow_shape (off : Nat) (data : DWord) (w : Word) (s : State) (o : Host.Outcome State Fault Refusal)
    (h : ownRow off w s = some o) : WriteShape off 4 data s o := by
  unfold ownRow at h
  split at h
  case h_1 => cases h; exact .lock w rfl rfl rfl
  case h_2 =>
    cases h
    rcases glbReset_shape w s with ⟨f, k⟩ | k
    · exact .units f k
    · exact .reset w k
  case h_3 => cases h; exact .image w rfl
  case h_4 => cases h; exact .init w rfl
  case h_15 => cases h; obtain ⟨f, k⟩ := ctxCmd_shape w s; exact .units f k
  all_goals
    repeat' split at h
  all_goals
    cases h
  all_goals exact .units _ rfl

theorem badAccess_units (off size : Nat) (s : State) : ∃ f, execBadAccess off size true s = live s f :=
  ⟨fun e => if accessOk off size then e else e.badAccess off true, by simp [execBadAccess, liveOr, live]⟩

theorem pairHighWrite_units (off : Nat) (data : Word) (s : State) : ∃ f, execPairHighWrite off data s = live s f := by
  dsimp only [execPairHighWrite, execCstEntryCommit]; split <;> exact ⟨_, rfl⟩

theorem registerWrite_shape (off size : Nat) (data : DWord) (s : State) :
    WriteShape off size data s (execRegisterWrite off size data s) := by
  unfold execRegisterWrite
  split
  · exact .none rfl
  · split
    · obtain ⟨f, k⟩ := badAccess_units off size s; exact .units f k
    · next hok =>
      split
      · split
        · exact .units _ rfl
        · exact .none rfl
      · split
        · exact .units _ rfl
        · split
          · unfold write64; split
            · exact .units _ rfl
            · exact .none rfl
          · next h8 =>
            have h4 : size = 4 := by
              simp only [accessOk, Bool.not_eq_true', Bool.not_eq_false] at hok
              simp at hok; omega
            subst h4
            unfold write32
            split
            · next o ho => exact ownRow_shape off data _ s o ho
            · split
              · split
                · exact .units _ rfl
                · obtain ⟨f, k⟩ := pairHighWrite_units off (data.setWidth 32) s; exact .units f k
              · exact .units _ rfl

end Sys2Proof.Machine
end

