-- ==== Sys2Proof/Laws/Boot.lean ====
section
/-!
SUPPORT. What each command does to the reset sequencer: every command is one of eleven moves.
-/
namespace Sys2Proof.Machine

/-- A command of the units answers a next state. -/
theorem live_next (s f) : ∃ t, live s f = .next t ∧ t.pending = s.pending ∧ t.boot = s.boot := by
  rcases live_spec s f with ⟨_, h⟩ | ⟨_, h⟩ <;> exact ⟨_, h, rfl, rfl⟩
/-- A request of a partner answers a next state. -/
theorem liveOr_next (s a f) : ∃ t, liveOr s a f = .next t ∧ t.pending = s.pending ∧ t.boot = s.boot := by
  rcases liveOr_spec s a f with ⟨_, h⟩ | ⟨_, h⟩ <;> exact ⟨_, h, rfl, rfl⟩
/-- A command of the sequencer answers a next state. -/
theorem bootUp_next (s f) : ∃ t, bootUp s f = .next t ∧ t.pending = s.pending := by
  rcases bootUp_spec s f with ⟨_, h⟩ | ⟨_, h⟩ <;> exact ⟨_, h, rfl⟩

/-- What a command can do to the reset sequencer. -/
inductive BootMove (c : Instr) (s t : State) : Prop where
  | same (h : t.boot = s.boot)
  | copy (a : Nat) (b : Int) (d : Nat) (h : t.boot = { s.boot with cmc := a, cmcAt := b, nextCopy := d })
  | reset (k a : Nat) (l : List TakeW) (h : t.boot = { s.boot with absent := true, cause := k, cmc := a, cmcAcc := 0, takes := l })
  | ports (ha : s.boot.absent = true) (a : Nat) (l : List TakeW) (h : t.boot = { s.boot with cmc := a, takes := l })
  | rel (ha : s.boot.absent = true) (hc : c = .resetRelease) (h : t.boot = { cause := s.boot.cause, cmc := s.boot.cmc, cmcAt := s.boot.cmc })
  | img (h1 : s.boot.stage = 1) (h : t.boot = { s.boot with imgBusy := true })
  | imgBad (r : Nat) (h : t.boot = { s.boot with imgBusy := false, imgResult := r })
  | imgGood (h1 : s.boot.imgBusy = true) (hc : ∃ image readOk straps cxl, c = .imageLoadEnd image readOk straps cxl)
      (r : Boot) (h : t.boot = { r with imgBusy := false, initBusy := s.boot.initBusy, initDone := s.boot.initDone, locked := s.boot.locked, stage := 2, offline := false })
  | init (h1 : s.boot.stage = 2) (n : Nat) (h : t.boot = { s.boot with initBusy := true, initDue := n })
  | done (h1 : s.boot.initBusy = true) (hc : c = .initDone) (h : t.boot = { s.boot with initBusy := false, initDone := true, stage := 3 })
  | lock (h1 : s.boot.stage = 3) (hc : (∃ data, c = .glbLock data) ∨ (∃ data, c = .registerWrite 8 4 data) ∨ ∃ data, c = .dbgWrite 9 8 data)
      (h : t.boot = { s.boot with locked := true, stage := 4 })

theorem live_boot {c : Instr} {s t : State} {f} (h : live s f = .next t) : BootMove c s t := by
  obtain ⟨u, h', _, k⟩ := live_next s f
  rw [h'] at h; cases h; exact .same k

theorem lock_boot {c : Instr} {s t : State} {d} (hc : (∃ data, c = .glbLock data) ∨ (∃ data, c = .registerWrite 8 4 data) ∨ ∃ data, c = .dbgWrite 9 8 data)
   (h : execGlbLock d s = .next t) : BootMove c s t := by
  unfold execGlbLock at h
  rcases bootUp_spec s (fun b e =>
    if !bitOf d.toNat 0 then (b, e)
    else if b.stage ≠ 3 then (b, e.bringupOrder 0x8 b.stage)
    else ({ b with locked := true, stage := 4 }, e)) with ⟨_, k⟩ | ⟨_, k⟩ <;> rw [k] at h <;> cases h
  · exact .same rfl
  · split
    · exact .same rfl
    · split
      · exact .same rfl
      · next h3 => exact .lock (by simpa using h3) hc rfl

theorem image_boot {c : Instr} {s t : State} {d} (h : execImageLoad d s = .next t) : BootMove c s t := by
  unfold execImageLoad at h
  rcases bootUp_spec s (fun b e =>
    if !bitOf d.toNat 31 || b.imgBusy then (b, e)
    else if b.stage ≠ 1 then (b, e.bringupOrder 0x28 b.stage)
    else ({ b with imgBusy := true }, e)) with ⟨_, k⟩ | ⟨_, k⟩ <;> rw [k] at h <;> cases h
  · exact .same rfl
  · split
    · exact .same rfl
    · split
      · exact .same rfl
      · next h3 => exact .img (by simpa using h3) rfl

theorem init_boot {c : Instr} {s t : State} {d} (h : execGlbInit d s = .next t) : BootMove c s t := by
  have hb : execGlbInit d s = bootUp s _ := rfl
  rw [hb] at h
  cases ha : s.boot.absent
  · rw [bootUp_up ha] at h; cases h
    split
    · exact .same rfl
    · split
      · exact .same rfl
      · next h3 =>
        split
        · exact .same rfl
        · exact .init (by simpa using h3) _ rfl
  · unfold bootUp at h; rw [if_pos ha] at h; cases h; exact .same rfl

theorem driver_boot {c : Instr} {s t : State} {d} (h : execDriverReset d s = .next t) : BootMove c s t := by
  unfold execDriverReset at h
  split at h <;> cases h
  · exact .reset 3 _ _ rfl
  · exact .same rfl

theorem regw_boot {c : Instr} {s t : State} {off size data}
   (hc : off = 8 → size = 4 → (∃ data, c = .glbLock data) ∨ (∃ data, c = .registerWrite 8 4 data) ∨ ∃ data, c = .dbgWrite 9 8 data)
   (h : execRegisterWrite off size data s = .next t) : BootMove c s t := by
  rcases registerWrite_shape off size data s with ⟨f, k⟩ | k | ⟨d, h1, h2, k⟩ | ⟨d, k⟩ | ⟨d, k⟩ | ⟨d, k⟩ <;> rw [k] at h
  · exact live_boot h
  · cases h; exact .same rfl
  · exact lock_boot (hc h1 h2) h
  · exact image_boot h
  · exact init_boot h
  · exact driver_boot h

/-- The way in which the sequencer moves does not depend on the engine. -/
theorem BootMove.of_eng {c : Instr} {s t : State} {e : Eng} (h : BootMove c { s with eng := e } t) : BootMove c s t := by
  cases h with
  | same h => exact .same h
  | copy a b d h => exact .copy a b d h
  | reset k a l h => exact .reset k a l h
  | ports ha a l h => exact .ports ha a l h
  | rel ha hc h => exact .rel ha hc h
  | img h1 h => exact .img h1 h
  | imgBad r h => exact .imgBad r h
  | imgGood h1 hc r h => exact .imgGood h1 hc r h
  | init h1 n h => exact .init h1 n h
  | done h1 hc h => exact .done h1 hc h
  | lock h1 hc h => exact .lock h1 hc h

theorem init_done_boot {s t : State} (h : atInitDone s = .next t) : BootMove .initDone s t := by
  have hb : atInitDone s = bootUp s _ := rfl
  rw [hb] at h
  cases ha : s.boot.absent
  · rw [bootUp_up ha] at h; cases h
    split
    · exact .same rfl
    · next hbz => exact .done (by simpa using hbz) rfl rfl
  · unfold bootUp at h; rw [if_pos ha] at h; cases h; exact .same rfl

/-- Every command moves the sequencer in one of these ways. -/
theorem boot_move (c : Instr) (s t : State) (h : exec c s = .next t) : BootMove c s t := by
  rcases exec_shape c s with ⟨f, k⟩ | ⟨a, f, k, _⟩ | ho
  · rw [k] at h; exact live_boot h
  · rw [k] at h
    obtain ⟨u, h', _, k⟩ := liveOr_next s a f
    rw [h'] at h; cases h; exact .same k
  · cases c <;> (try cases ho) <;> dsimp only [exec] at h
    · exact regw_boot (fun h1 h2 => by subst h1 h2; exact .inr (.inl ⟨_, rfl⟩)) h
    · unfold execSSetc scalar at h; split at h <;> [cases h; exact live_boot h]
    · unfold execKBegin wide at h; split at h <;> [cases h; exact live_boot h]
    · unfold execTake at h
      split at h
      · next ha =>
        split at h <;> cases h
        · exact .same rfl
        · exact .ports ha _ _ rfl
      · exact live_boot h
    · rcases timed_next h with h | ⟨_, h⟩ <;> unfold atNoDispatcher at h <;> split at h
      · next ha =>
        split at h <;> cases h
        · exact .ports ha _ _ rfl
        · exact .same rfl
      · exact live_boot h
      · next ha =>
        split at h <;> cases h
        · exact .ports ha _ _ rfl
        · exact .same rfl
      · exact (live_boot h).of_eng
    · cases h; exact .reset 1 _ _ rfl
    · cases h; exact .reset 2 _ _ rfl
    · exact driver_boot h
    · unfold execClock at h; split at h <;> cases h; exact .same rfl; exact .reset 4 _ _ rfl
    · unfold execResetRelease at h; split at h <;> cases h
      · exact .rel ‹_› rfl rfl
      · exact .same rfl
    · rcases timed_next h with h | ⟨_, h⟩ <;> unfold atTallyCopy at h <;> split at h
      · cases h; exact .same rfl
      · split at h <;> cases h
        · exact .same rfl
        · exact .copy _ _ _ rfl
      · cases h; exact .same rfl
      · split at h <;> cases h
        · exact .same rfl
        · exact .copy _ _ _ rfl
    · exact image_boot h
    · next im ro st cx =>
      have hb : execImageLoadEnd im ro st cx s = bootUp s _ := rfl
      rw [hb] at h
      cases ha : s.boot.absent
      · rw [bootUp_up ha] at h; cases h
        dsimp only
        split
        · exact .same rfl
        · next hbz =>
          split
          · exact .imgBad _ rfl
          · exact .imgGood (by simpa using hbz) ⟨_, _, _, _, rfl⟩ { s.boot with imgResult := 1, cxlCache := cx, serial := imgField (natBytes im) 0x18 8, chipPos := imgField (natBytes im) 0x10 4 % 2 ^ 22, cal := imgCal (natBytes im) } rfl
      · unfold bootUp at h; rw [if_pos ha] at h; cases h; exact .same rfl
    · exact init_boot h
    · rcases timed_next h with h | ⟨_, h⟩
      · exact init_done_boot h
      · exact (init_done_boot h).of_eng
    · exact lock_boot (.inl ⟨_, rfl⟩) h
    · next sp ad d =>
      unfold execDbgWrite at h
      split at h
      · exact live_boot h
      · split at h
        · exact live_boot h
        · split at h
          · next h9 =>
            have : BootMove (.dbgWrite sp ad d) { s with eng := s.eng.captured 9 ad 0 0 } t :=
              regw_boot (fun h1 h2 => by subst h1; rw [h9.1]; exact .inr (.inr ⟨_, rfl⟩)) h
            cases this with
            | same h => exact .same h
            | copy a b d h => exact .copy a b d h
            | reset k a l h => exact .reset k a l h
            | ports ha a l h => exact .ports ha a l h
            | rel ha hc h => cases hc
            | img h1 h => exact .img h1 h
            | imgBad r h => exact .imgBad r h
            | imgGood h1 hc r h => obtain ⟨_, _, _, _, hc⟩ := hc; cases hc
            | init h1 n h => exact .init h1 n h
            | done h1 hc h => cases hc
            | lock h1 hc h => exact .lock h1 hc h
          · exact live_boot h
    · unfold execDbgReset at h
      dsimp only at h
      split at h
      · cases h; exact .reset 5 _ _ rfl
      · exact live_boot h

end Sys2Proof.Machine
end

