-- ==== Sys2Proof/Laws/Tab.lean ====
section
/-!
SUPPORT. The laws of sparse tables: a read after a write, and that the canonical form (rising keys, no entry at the default) is
kept by each operation.
-/
namespace Sys2Proof.Machine

@[simp] theorem tget_nil {α : Type} (k : Nat) : tget ([] : Tab α) k = none := rfl

@[simp] theorem tgetD_nil {α : Type} (k : Nat) (d : α) : tgetD ([] : Tab α) k d = d := rfl

@[simp] theorem tget_tput_same {α : Type} (t : Tab α) (k : Nat) (v : α) : tget (tput t k v) k = some v := by
  induction t with
  | nil => simp [tput, tget]
  | cons p r ih => simp only [tput]; split <;> [simp [tget]; skip]; split <;> simp_all [tget]

theorem tget_tput_ne {α : Type} (t : Tab α) {j k : Nat} (v : α) (h : j ≠ k) : tget (tput t k v) j = tget t j := by
  induction t with
  | nil => simp [tput, tget, h]
  | cons p r ih => simp only [tput]; split <;> [simp_all [tget]; skip]; split <;> simp_all [tget]

@[simp] theorem tget_tdel_same {α : Type} (t : Tab α) (k : Nat) : tget (tdel t k) k = none := by
  induction t with
  | nil => rfl
  | cons p r ih => simp only [tdel]; split <;> simp_all [tget]

theorem tget_tdel_ne {α : Type} (t : Tab α) {j k : Nat} (h : j ≠ k) : tget (tdel t k) j = tget t j := by
  induction t with
  | nil => rfl
  | cons p r ih => simp only [tdel]; split <;> simp_all [tget]

/-- Reading a key just written gives the value written. -/
@[simp] theorem tgetD_tsetD_same {α : Type} [DecidableEq α] (t : Tab α) (k : Nat) (v d : α) : tgetD (tsetD t k v d) k d = v := by
  simp only [tsetD]; split <;> simp_all [tgetD]

/-- A write leaves every other key alone. -/
theorem tgetD_tsetD_ne {α : Type} [DecidableEq α] (t : Tab α) {j k : Nat} (v d : α) (h : j ≠ k) :
    tgetD (tsetD t k v d) j d = tgetD t j d := by
  simp only [tsetD]; split <;> simp [tgetD, tget_tput_ne, tget_tdel_ne, h]

theorem tgetD_tsetD {α : Type} [DecidableEq α] (t : Tab α) (j k : Nat) (v d : α) :
    tgetD (tsetD t k v d) j d = if j = k then v else tgetD t j d := by
  split
  · next h => subst h; simp
  · next h => exact tgetD_tsetD_ne t v d h

theorem tget_tmod {α : Type} (t : Tab α) (j k : Nat) (f : α → α) :
    tget (tmod t k f) j = if j = k then (tget t k).map f else tget t j := by
  unfold tmod
  split
  · next v h =>
    split
    · next e => subst e; simp [h]
    · next e => exact tget_tput_ne _ _ e
  · next h => split <;> simp_all

/-- A key below every key of the table. -/
def Tab.below {α : Type} (k : Nat) (t : Tab α) : Bool :=
  match t with
  | [] => true
  | (j, _) :: _ => decide (k < j)

theorem Tab.sorted_cons {α : Type} (p : Nat × α) (r : Tab α) : Tab.sorted (p :: r) = (Tab.below p.1 r && Tab.sorted r) := by
  cases r <;> simp [Tab.sorted, Tab.below]

theorem Tab.below_tput {α : Type} (t : Tab α) (i k : Nat) (v : α) (hi : i < k) (h : Tab.below i t = true) :
    Tab.below i (tput t k v) = true := by
  cases t with
  | nil => simpa [tput, Tab.below] using hi
  | cons p r => simp only [tput]; split <;> [simp_all [Tab.below]; skip]; split <;> simp_all [Tab.below]

/-- A write of a value keeps the keys rising. -/
theorem Tab.sorted_tput {α : Type} (t : Tab α) (k : Nat) (v : α) (h : Tab.sorted t = true) : Tab.sorted (tput t k v) = true := by
  induction t with
  | nil => rfl
  | cons p r ih =>
    rw [Tab.sorted_cons] at h
    simp only [Bool.and_eq_true] at h
    simp only [tput]
    split
    · next e => rw [Tab.sorted_cons]; simp_all
    · split
      · next e f => rw [Tab.sorted_cons, Tab.sorted_cons, h.1, h.2]; simp [Tab.below, f]
      · next e f => rw [Tab.sorted_cons, ih h.2, Tab.below_tput _ _ _ _ (by omega) h.1]; rfl

theorem Tab.below_tdel {α : Type} (t : Tab α) (i k : Nat) (hs : Tab.sorted t = true) (h : Tab.below i t = true) :
    Tab.below i (tdel t k) = true := by
  induction t with
  | nil => rfl
  | cons p r ih =>
    rw [Tab.sorted_cons] at hs
    simp only [Bool.and_eq_true] at hs
    simp only [tdel]
    split
    · refine ih hs.2 ?_
      cases r with
      | nil => rfl
      | cons q r => simp_all [Tab.below]; omega
    · simpa [Tab.below] using h

/-- Taking a key out keeps the keys rising. -/
theorem Tab.sorted_tdel {α : Type} (t : Tab α) (k : Nat) (h : Tab.sorted t = true) : Tab.sorted (tdel t k) = true := by
  induction t with
  | nil => rfl
  | cons p r ih =>
    have h' := h
    rw [Tab.sorted_cons] at h
    simp only [Bool.and_eq_true] at h
    simp only [tdel]
    split
    · exact ih h.2
    · rw [Tab.sorted_cons, ih h.2, Tab.below_tdel _ _ _ h.2 h.1]; rfl

/-- A write in canonical form keeps the keys rising. -/
theorem Tab.sorted_tsetD {α : Type} [DecidableEq α] (t : Tab α) (k : Nat) (v d : α) (h : Tab.sorted t = true) :
    Tab.sorted (tsetD t k v d) = true := by
  unfold tsetD; split
  · exact Tab.sorted_tdel t k h
  · exact Tab.sorted_tput t k v h

/-- No entry of the table is equal to what an unlisted key reads as. -/
def Tab.noDef {α : Type} [DecidableEq α] (t : Tab α) (d : α) : Bool := t.all (fun p => decide (p.2 ≠ d))

theorem Tab.noDef_cons {α : Type} [DecidableEq α] (p : Nat × α) (r : Tab α) (d : α) :
    Tab.noDef (p :: r) d = (decide (p.2 ≠ d) && Tab.noDef r d) := by simp [Tab.noDef]

theorem Tab.noDef_tput {α : Type} [DecidableEq α] (t : Tab α) (k : Nat) (v d : α) (hv : v ≠ d) (h : Tab.noDef t d = true) :
    Tab.noDef (tput t k v) d = true := by
  induction t with
  | nil => simp [tput, Tab.noDef, hv]
  | cons p r ih =>
    rw [Tab.noDef_cons, Bool.and_eq_true] at h
    simp only [tput]
    split
    · rw [Tab.noDef_cons]; simp [hv, h.2]
    · split
      · rw [Tab.noDef_cons, Tab.noDef_cons]; simpa [hv, h.2] using h.1
      · rw [Tab.noDef_cons, ih h.2, h.1]; rfl

theorem Tab.noDef_tdel {α : Type} [DecidableEq α] (t : Tab α) (k : Nat) (d : α) (h : Tab.noDef t d = true) :
    Tab.noDef (tdel t k) d = true := by
  induction t with
  | nil => rfl
  | cons p r ih =>
    rw [Tab.noDef_cons, Bool.and_eq_true] at h
    simp only [tdel]
    split
    · exact ih h.2
    · rw [Tab.noDef_cons, ih h.2, h.1]; rfl

/-- A write in canonical form lists no default. -/
theorem Tab.noDef_tsetD {α : Type} [DecidableEq α] (t : Tab α) (k : Nat) (v d : α) (h : Tab.noDef t d = true) :
    Tab.noDef (tsetD t k v d) d = true := by
  unfold tsetD; split
  · exact Tab.noDef_tdel t k d h
  · next hv => exact Tab.noDef_tput t k v d hv h

end Sys2Proof.Machine
end

