-- ==== Sys2Proof/Laws/Ops.lean ====
section
/-!
SUPPORT. The laws of the shared operations: register reads after writes, and what counting, tracing, raising events and the
passing of time may change.
-/
namespace Sys2Proof.Machine

/-! ### Registers -/

theorem regKey_inj {o p i j : Nat} (hi : i < 65536) (hj : j < 65536) (h : regKey o i = regKey p j) : o = p ∧ i = j := by
  unfold regKey at h; omega

/-- Reading a register copy just put gives the word put. -/
@[simp] theorem Eng.reg_putReg_same (e : Eng) (off sel : Nat) (w : Word) : (e.putReg off sel w).reg off sel = w := by
  simp [Eng.reg, Eng.putReg]

/-- Putting a register copy leaves every other copy alone. -/
theorem Eng.reg_putReg_ne (e : Eng) (off sel : Nat) (w : Word) {o i : Nat} (hs : sel < 65536) (hi : i < 65536)
    (h : o ≠ off ∨ i ≠ sel) : (e.putReg off sel w).reg o i = e.reg o i := by
  by_cases ho : o = off
  · subst ho
    simp only [Eng.reg, Eng.putReg]
    exact tgetD_tsetD_ne _ _ _ (fun hk => by have := regKey_inj hi hs hk; omega)
  · have hk : regKey o i ≠ regKey off sel := fun hk => ho (regKey_inj hi hs hk).1
    simp only [Eng.reg, Eng.putReg, tsetD]
    split <;> simp [tgetD, tget_tput_ne, tget_tdel_ne, hk]

/-! ### Reports: closed under composition -/

theorem Eng.Reports.refl (e : Eng) : e.Reports e :=
  ⟨rfl, fun _ _ _ _ => rfl, fun _ => rfl, fun _ _ _ => rfl, [], rfl⟩

theorem Eng.Reports.kind {e e' : Eng} (h : e.Reports e') (r : Nat) (hr : r < 65536) : e'.ringKind r = e.ringKind r := by
  simp only [Eng.ringKind, Eng.fv]
  rw [h.regs _ _ hr (by rfl)]

theorem Eng.Reports.trans {a b c : Eng} (h : a.Reports b) (k : b.Reports c) : a.Reports c := by
  refine ⟨?_, fun o i hi ht => ?_, fun r => ?_, fun r hr h2 => ?_, ?_⟩
  · rw [k.rest, h.rest]
  · rw [k.regs o i hi ht, h.regs o i hi ht]
  · have h1 := h.rings r
    have h2 := k.rings r
    rw [h1] at h2
    exact h2
  · rw [k.ring r hr (by rwa [h.kind r (by omega)]), h.ring r hr h2]
  · obtain ⟨l, hl⟩ := h.out
    obtain ⟨m, hm⟩ := k.out
    exact ⟨m ++ l, by rw [hm, hl, List.append_assoc]⟩

theorem Eng.Reports.foldl {α : Type} (l : List α) (f : Eng → α → Eng) (hf : ∀ (e : Eng) x, x ∈ l → e.Reports (f e x)) (e : Eng) :
    e.Reports (l.foldl f e) := by
  induction l generalizing e with
  | nil => exact Eng.Reports.refl e
  | cons x r ih =>
    exact (hf e x (by simp)).trans (ih (fun e y hy => hf e y (by simp [hy])) (f e x))

/-- A change of a register that counts. -/
theorem Eng.Reports.putReg (e : Eng) (off sel : Nat) (w : Word) (hs : sel < 65536) (h : tallyReg off = true) :
    e.Reports (e.putReg off sel w) := by
  refine ⟨rfl, fun o i hi ht => ?_, fun _ => rfl, fun _ _ _ => rfl, [], rfl⟩
  exact e.reg_putReg_ne off sel w hs hi (Or.inl (fun c => by rw [c, h] at ht; cases ht))

theorem Eng.Reports.poke (e : Eng) (f : Fld) (v sel : Nat) (hs : sel < 65536) (h : tallyReg f.off = true) :
    e.Reports (e.poke f v sel) := Eng.Reports.putReg e _ _ _ hs h

theorem Eng.Reports.bump (e : Eng) (f : Fld) (n sel : Nat) (hs : sel < 65536) (h : tallyReg f.off = true) :
    e.Reports (e.bump f n sel) := Eng.Reports.poke e f _ sel hs h

theorem Eng.Reports.emit (e : Eng) (o : Out) : e.Reports (e.emit o) :=
  ⟨rfl, fun _ _ _ _ => rfl, fun _ => rfl, fun _ _ _ => rfl, [o], rfl⟩

theorem Eng.Reports.setCnt (e : Eng) (t : Tab Nat) : e.Reports { e with dbg := { e.dbg with cnt := t } } :=
  ⟨rfl, fun _ _ _ _ => rfl, fun _ => rfl, fun _ _ _ => rfl, [], rfl⟩

theorem Eng.ring_setRing (e : Eng) (r : Nat) (x : Ring) (i : Nat) : (e.setRing r x).ring i = if i = r then x else e.ring i := by
  simp only [Eng.ring, Eng.setRing, tgetD_tsetD]

/-- A change of the tail and LOST flag of an event ring. -/
theorem Eng.Reports.setRing (e : Eng) (r tl : Nat) (b : Bool) (h : e.ringKind r = 2) :
    e.Reports (e.setRing r { e.ring r with tail := tl, lostFlag := b }) := by
  refine ⟨rfl, fun _ _ _ _ => rfl, fun i => ?_, fun i _ hi => ?_, [], rfl⟩
  · rw [Eng.ring_setRing]; split
    · next c => subst c; rfl
    · rfl
  · rw [Eng.ring_setRing]; split
    · next c => subst c; exact absurd h hi
    · rfl

/-! ### What counting, events and traces change -/

theorem Eng.cntAdd_reports (e : Eng) (n amt : Nat) (hn : n < 64) : e.Reports (e.cntAdd n amt) := by
  unfold Eng.cntAdd
  dsimp only
  refine (Eng.Reports.setCnt e (tsetD e.dbg.cnt n ((tgetD e.dbg.cnt n 0 + amt) % 2 ^ 64) 0)).trans ?_
  split
  · exact Eng.Reports.poke _ _ _ _ (by decide) (by simp [tallyReg]; omega)
  · exact Eng.Reports.refl _

/-- Counting an amount of a source changes only counters and their OVF bits. -/
theorem Eng.countAmt_reports (e : Eng) (src amt : Nat) (pid inst : Option Nat) : e.Reports (e.countAmt src amt pid inst) := by
  unfold Eng.countAmt
  split
  · exact Eng.Reports.refl e
  · refine Eng.Reports.foldl _ _ (fun e n hn => ?_) e
    split
    · exact Eng.cntAdd_reports e n amt (by simpa [cntRange] using hn)
    · exact Eng.Reports.refl e

/-- Counting an amount changes only counters and their OVF bits; none is counted in the tick of a CLEAR (R603). -/
theorem Eng.count_reports (e : Eng) (src amt : Nat) (pid inst : Option Nat) : e.Reports (e.count src amt pid inst) := by
  unfold Eng.count
  split
  · exact Eng.Reports.refl e
  · exact Eng.countAmt_reports e src amt pid inst

theorem Eng.eventTo_reports (e : Eng) (v : EvtRec) (r : Nat) (hr : r < 256) (h : e.ringKind r = 2) : e.Reports (e.eventTo v r) := by
  unfold Eng.eventTo
  split
  · exact (Eng.Reports.setRing e r (e.ring r).tail true h).trans (Eng.Reports.bump _ _ _ _ (by omega) (by rfl))
  · exact ((Eng.Reports.emit e _).trans (Eng.Reports.setRing (e.emit _) r _ false h)).trans (Eng.Reports.emit _ _)

/-- Raising an event changes only what reports. -/
theorem Eng.raise_reports (e : Eng) (v : EvtRec) : e.Reports (e.raise v) := by
  unfold Eng.raise
  refine (Eng.count_reports e _ _ _ _).trans (Eng.Reports.foldl _ _ (fun e r hr => ?_) _)
  split
  · next h =>
    refine Eng.eventTo_reports e _ r (by simpa [ringRange] using hr) ?_
    simp only [Eng.ringTakes, Bool.and_eq_true, decide_eq_true_eq] at h
    exact h.1.2
  · exact Eng.Reports.refl e

theorem Eng.raiseE_reports (e : Eng) (code unit arg : Nat) (i : Option Nat) : e.Reports (e.raiseE code unit arg i) :=
  by unfold Eng.raiseE; exact Eng.raise_reports e _

theorem Eng.raiseP_reports (e : Eng) (code unit pid arg : Nat) (i : Option Nat) : e.Reports (e.raiseP code unit pid arg i) :=
  by unfold Eng.raiseP; exact Eng.raise_reports e _

theorem Eng.badAccess_reports (e : Eng) (off : Nat) (w : Bool) : e.Reports (e.badAccess off w) := by
  unfold Eng.badAccess; exact Eng.raiseE_reports e _ _ _ _

theorem Eng.wwe_reports (e : Eng) (off : Nat) : e.Reports (e.wwe off) := by
  unfold Eng.wwe; exact Eng.raiseE_reports e _ _ _ _

theorem Eng.wal_reports (e : Eng) (off : Nat) : e.Reports (e.wal off) := by
  unfold Eng.wal; exact Eng.raiseE_reports e _ _ _ _

theorem Eng.bringupOrder_reports (e : Eng) (off stage : Nat) : e.Reports (e.bringupOrder off stage) := by
  unfold Eng.bringupOrder; exact Eng.raiseE_reports e _ _ _ _

/-- A decision trace record changes only what reports. -/
theorem Eng.trace_reports (e : Eng) (t : TraceRec) : e.Reports (e.trace t) := by
  unfold Eng.trace
  split
  · exact ((Eng.Reports.emit e _).trans (Eng.Reports.poke _ _ _ _ (by decide) (by rfl))).trans (Eng.count_reports _ _ _ _ _)
  · exact Eng.Reports.refl e

/-! ### What the passing of time changes -/

theorem tallyReg_of_timeReg {off : Nat} (h : timeReg off = false) : tallyReg off = false := by
  simp only [timeReg, Bool.or_eq_false_iff] at h; exact h.1

theorem timeReg_of {off : Nat} (h : tallyReg off = false) (k : off ≠ 0xB094) : timeReg off = false := by
  simp [timeReg, h, k]

theorem Eng.Passes.refl (e : Eng) : e.Passes e := ⟨rfl, Nat.le_refl _, fun _ _ _ _ => rfl, fun _ => rfl⟩

theorem Eng.Passes.trans {a b c : Eng} (h : a.Passes b) (k : b.Passes c) : a.Passes c := by
  refine ⟨?_, Nat.le_trans h.now k.now, fun o i hi ht => ?_, fun p => ?_⟩
  · rw [k.rest, h.rest]
  · rw [k.regs o i hi ht, h.regs o i hi ht]
  · have h1 := h.parts p
    have h2 := k.parts p
    rw [h1] at h2
    exact h2

theorem Eng.Passes.foldl {α : Type} (l : List α) (f : Eng → α → Eng) (hf : ∀ (e : Eng) x, x ∈ l → e.Passes (f e x)) (e : Eng) :
    e.Passes (l.foldl f e) := by
  induction l generalizing e with
  | nil => exact Eng.Passes.refl e
  | cons x r ih =>
    exact (hf e x (by simp)).trans (ih (fun e y hy => hf e y (by simp [hy])) (f e x))

theorem Eng.Passes.setCnt (e : Eng) (t : Tab Nat) : e.Passes { e with dbg := { e.dbg with cnt := t } } :=
  ⟨rfl, Nat.le_refl _, fun _ _ _ _ => rfl, fun _ => rfl⟩

theorem Eng.Passes.poke (e : Eng) (f : Fld) (v sel : Nat) (hs : sel < 65536) (h : timeReg f.off = true) :
    e.Passes (e.poke f v sel) :=
  ⟨rfl, Nat.le_refl _, fun o i hi ho => e.reg_putReg_ne _ sel _ hs hi (Or.inl (fun c => by rw [c, h] at ho; cases ho)), fun _ => rfl⟩

theorem Eng.cntAdd_passes (e : Eng) (n amt : Nat) (hn : n < 64) : e.Passes (e.cntAdd n amt) := by
  unfold Eng.cntAdd
  dsimp only
  refine (Eng.Passes.setCnt e (tsetD e.dbg.cnt n ((tgetD e.dbg.cnt n 0 + amt) % 2 ^ 64) 0)).trans ?_
  split
  · exact Eng.Passes.poke _ _ _ _ (by decide) (by simp [timeReg, tallyReg]; omega)
  · exact Eng.Passes.refl _

/-- Counting an amount of a source is what the passing of time may change. -/
theorem Eng.countAmt_passes (e : Eng) (src amt : Nat) (pid inst : Option Nat) : e.Passes (e.countAmt src amt pid inst) := by
  unfold Eng.countAmt
  split
  · exact Eng.Passes.refl e
  · refine Eng.Passes.foldl _ _ (fun e n hn => ?_) e
    split
    · exact Eng.cntAdd_passes e n amt (by simpa [cntRange] using hn)
    · exact Eng.Passes.refl e

theorem Eng.part_setPart (e : Eng) (p : Nat) (x : KPart) (i : Nat) : (e.setPart p x).part i = if i = p then x else e.part i := by
  simp only [Eng.part, Eng.setPart, tgetD_tsetD]

theorem Eng.tickParts_passes (e : Eng) (dt : Nat) : e.Passes (e.tickParts dt) := by
  unfold Eng.tickParts
  refine Eng.Passes.foldl _ _ (fun e p _ => ?_) e
  dsimp only
  split
  · refine ⟨rfl, Nat.le_refl _, fun _ _ _ _ => rfl, fun i => ?_⟩
    rw [Eng.part_setPart]; split
    · next c => subst c; rfl
    · rfl
  · exact Eng.Passes.refl e

theorem Eng.Passes.setNow (e : Eng) (t : Nat) (h : e.now ≤ t) : e.Passes { e with now := t } :=
  ⟨rfl, h, fun _ _ _ _ => rfl, fun _ => rfl⟩

theorem Eng.Passes.now_foldl_eq {α : Type} (l : List α) (f : Eng → α → Eng) (hf : ∀ (e : Eng) x, (f e x).now = e.now) (e : Eng) :
    (l.foldl f e).now = e.now := by
  induction l generalizing e with
  | nil => rfl
  | cons x r ih => rw [List.foldl_cons, ih, hf]

@[simp] theorem Eng.count_now (e : Eng) (src amt : Nat) (pid inst : Option Nat) : (e.count src amt pid inst).now = e.now := by
  rw [(e.count_reports src amt pid inst).rest]

@[simp] theorem Eng.countAmt_now (e : Eng) (src amt : Nat) (pid inst : Option Nat) : (e.countAmt src amt pid inst).now = e.now := by
  rw [(e.countAmt_reports src amt pid inst).rest]

@[simp] theorem Eng.tickParts_now (e : Eng) (dt : Nat) : (e.tickParts dt).now = e.now := by
  unfold Eng.tickParts
  refine Eng.Passes.now_foldl_eq _ _ (fun e p => ?_) e
  dsimp only
  split <;> rfl

/-- Cycles that the push lanes wait change only BIN_PUSH_STALL (R435). -/
theorem Eng.stall_passes (e : Eng) (n : Nat) : e.Passes (e.stall n) := by
  unfold Eng.stall
  split
  · exact Eng.Passes.poke _ _ _ _ (by decide) (by rfl)
  · exact Eng.Passes.refl e

@[simp] theorem Eng.stall_now (e : Eng) (n : Nat) : (e.stall n).now = e.now := by
  unfold Eng.stall; split <;> rfl

@[simp] theorem Eng.stall_tal (e : Eng) (n : Nat) : (e.stall n).tal = e.tal := by
  unfold Eng.stall; split <;> rfl

/-- The Tally's moving on changes only what the passing of time may change. -/
theorem Eng.pass_passes (e : Eng) (t : Nat) : e.Passes (e.pass t) := by
  unfold Eng.pass
  split
  · exact Eng.Passes.refl e
  · next h =>
    extract_lets dt n e1 e2 e3 e4
    have h1 : e.Passes e1 := e.countAmt_passes _ _ _ _
    have h2 : e1.Passes e2 := by
      refine Eng.Passes.foldl _ _ (fun a s _ => ?_) e1
      split
      · exact a.countAmt_passes _ _ _ _
      · exact Eng.Passes.refl a
    have n2 : e2.now = e1.now := by
      refine Eng.Passes.now_foldl_eq _ _ (fun a s => ?_) e1
      split
      · exact a.countAmt_now _ _ _ _
      · rfl
    have h3 : e2.Passes e3 := e2.countAmt_passes _ _ _ _
    have h4 : e3.Passes e4 := e3.tickParts_passes dt
    have n4 : e4.now = e.now := by
      rw [show e4.now = e3.now from e3.tickParts_now dt, show e3.now = e2.now from e2.countAmt_now _ _ _ _, n2]
      exact e.countAmt_now _ _ _ _
    exact (((h1.trans h2).trans h3).trans h4).trans (Eng.Passes.setNow e4 t (by omega))

/-- Carrying the Tally forward changes only what the passing of time may change. -/
theorem Eng.advance_passes (e : Eng) (t : Nat) : e.Passes (e.advance t) := (e.stall_passes _).trans (Eng.pass_passes _ t)

theorem Eng.pass_now (e : Eng) (t : Nat) : (e.pass t).now = max e.now t := by
  unfold Eng.pass
  split
  · omega
  · next h => exact (Nat.max_eq_right (Nat.le_of_not_le h)).symm

/-- The Tally after carrying it forward: never backward. -/
@[simp] theorem Eng.advance_now (e : Eng) (t : Nat) : (e.advance t).now = max e.now t := by
  unfold Eng.advance
  rw [Eng.pass_now, Eng.stall_now]

/-- What `n` cycles of CLK_CTL leave: the passing of time and the fraction, and in all exactly what the cycles add (R564). -/
theorem Eng.cycles_spec (e : Eng) (n : Nat) :
    e.cycles n = { e with
      now := (e.cycles n).now, regs := (e.cycles n).regs
      tal := { e.tal with acc := (e.cycles n).tal.acc }
      dbg := { e.dbg with cnt := (e.cycles n).dbg.cnt }
      kpr := { e.kpr with parts := (e.cycles n).kpr.parts } } ∧
    (e.cycles n).now * accTick + (e.cycles n).tal.acc = e.now * accTick + e.tal.acc + n * accGain e.raf.rate ∧
    (∀ off sel, sel < 65536 → timeReg off = false → (e.cycles n).reg off sel = e.reg off sel) := by
  unfold Eng.cycles
  dsimp only
  generalize hE : ({ e with tal := { e.tal with acc := (e.tal.acc + n * accGain e.raf.rate) % accTick } } : Eng) = E
  have hp := (E.stall_passes n).trans (Eng.pass_passes (E.stall n) (e.now + (e.tal.acc + n * accGain e.raf.rate) / accTick))
  have hn := Eng.pass_now (E.stall n) (e.now + (e.tal.acc + n * accGain e.raf.rate) / accTick)
  rw [Eng.stall_now] at hn
  have hEn : E.now = e.now := by rw [← hE]
  have hr : ∀ o i, E.reg o i = e.reg o i := fun o i => by rw [← hE]; rfl
  rw [hEn] at *
  generalize (E.stall n).pass (e.now + (e.tal.acc + n * accGain e.raf.rate) / accTick) = r at hp hn ⊢
  refine ⟨?_, ?_, fun o i hi ht => (hp.regs o i hi ht).trans (hr o i)⟩
  · have h1 := hp.rest
    have h2 : r.tal = E.tal := by have k := congrArg Eng.tal h1; exact k
    rw [h2]
    conv_lhs => rw [h1]
    rw [← hE]
  · have h2 : r.tal = E.tal := by have k := congrArg Eng.tal hp.rest; exact k
    rw [h2, hn, ← hE]
    dsimp only
    rw [Nat.max_eq_right (Nat.le_add_right _ _), Nat.add_mul]
    have := Nat.div_add_mod (e.tal.acc + n * accGain e.raf.rate) accTick
    have h3 := Nat.mul_comm ((e.tal.acc + n * accGain e.raf.rate) / accTick) accTick
    omega

end Sys2Proof.Machine
end

