-- ==== Sys2Proof/Laws/Fields.lean ====
section
/-!
SUPPORT. Fields of registers after a field has been written: the field itself, and every other.
-/
namespace Sys2Proof.Machine

/-- A bit of a field taken out of a number. -/
theorem bitsOf_testBit (v hi lo i : Nat) : (bitsOf v hi lo).testBit i = (decide (i < hi + 1 - lo) && v.testBit (lo + i)) := by
  unfold bitsOf
  rw [Nat.testBit_mod_two_pow, Nat.testBit_div_two_pow, Nat.add_comm i lo]

/-- A bit of a word in which a field has been replaced. -/
theorem setBits_lsb (w : Word) (hi lo v i : Nat) (hi32 : i < 32) :
    (setBits w hi lo v).getLsbD i = if lo ≤ i ∧ i < hi + 1 then v.testBit (i - lo) else w.getLsbD i := by
  unfold setBits
  simp only [BitVec.getLsbD_or, BitVec.getLsbD_and, BitVec.getLsbD_not, BitVec.getLsbD_ofNat, ← Nat.shiftLeft_eq,
    Nat.testBit_shiftLeft, Nat.testBit_two_pow_sub_one, Nat.testBit_mod_two_pow, hi32, decide_true, Bool.true_and]
  by_cases h1 : lo ≤ i
  · by_cases h2 : i < hi + 1
    · have h3 : i - lo < hi + 1 - lo := by omega
      simp [h1, h2, h3]
    · have h3 : ¬ i - lo < hi + 1 - lo := by omega
      simp [h1, h2, h3]
  · simp [h1]

/-- A field that has been written reads what was written, cut to its width. -/
theorem bitsOf_setBits_same (w : Word) (hi lo v : Nat) (h : hi < 32) :
    bitsOf (setBits w hi lo v).toNat hi lo = v % 2 ^ (hi + 1 - lo) := by
  apply Nat.eq_of_testBit_eq
  intro i
  rw [bitsOf_testBit, Nat.testBit_mod_two_pow, BitVec.testBit_toNat]
  by_cases hi2 : i < hi + 1 - lo
  · rw [setBits_lsb _ _ _ _ _ (by omega), if_pos (by omega)]
    simp
  · simp [hi2]

/-- A field beside the one written reads as before. -/
theorem bitsOf_setBits_other (w : Word) (hi lo v a b : Nat) (h : a < 32) (hd : a < lo ∨ hi < b) :
    bitsOf (setBits w hi lo v).toNat a b = bitsOf w.toNat a b := by
  apply Nat.eq_of_testBit_eq
  intro i
  rw [bitsOf_testBit, bitsOf_testBit, BitVec.testBit_toNat, BitVec.testBit_toNat]
  by_cases hi2 : i < a + 1 - b
  · rw [setBits_lsb _ _ _ _ _ (by omega), if_neg (by omega)]
  · simp [hi2]

variable (e : Eng)

/-- A field written. -/
theorem Eng.fv_poke_same (f : Fld) (v sel : Nat) (h : f.hi < 32) : (e.poke f v sel).fv f sel = v % 2 ^ (f.hi + 1 - f.lo) := by
  unfold Eng.fv Eng.poke
  rw [Eng.reg_putReg_same, bitsOf_setBits_same _ _ _ _ h]

/-- A field of another register, or of another copy of it. -/
theorem Eng.fv_poke_ne (f g : Fld) (v sel t : Nat) (hs : sel < 65536) (ht : t < 65536) (h : g.off ≠ f.off ∨ t ≠ sel) :
    (e.poke f v sel).fv g t = e.fv g t := by
  unfold Eng.fv Eng.poke
  rw [Eng.reg_putReg_ne _ _ _ _ hs ht h]

/-- Another field of the register. -/
theorem Eng.fv_poke_beside (f g : Fld) (v sel : Nat) (h : g.off = f.off) (hg : g.hi < 32) (hd : g.hi < f.lo ∨ f.hi < g.lo) :
    (e.poke f v sel).fv g sel = e.fv g sel := by
  unfold Eng.fv Eng.poke
  rw [h, Eng.reg_putReg_same, bitsOf_setBits_other _ _ _ _ _ _ hg hd]

/-- A bit of another register, or of another copy of it. -/
theorem Eng.fb_poke_ne (f g : Fld) (v sel t : Nat) (hs : sel < 65536) (ht : t < 65536) (h : g.off ≠ f.off ∨ t ≠ sel) :
    (e.poke f v sel).fb g t = e.fb g t := by
  unfold Eng.fb; rw [Eng.fv_poke_ne e f g v sel t hs ht h]

/-- A one-bit field written with 0 or 1. -/
theorem Eng.fb_poke_same (f : Fld) (b : Bool) (sel : Nat) (h : f.hi < 32) (hw : f.hi = f.lo) :
    (e.poke f (b2n b) sel).fb f sel = b := by
  unfold Eng.fb; rw [Eng.fv_poke_same e f _ sel h, hw]
  cases b <;> simp [b2n]

/-- A 64-bit quantity written. -/
theorem Eng.pairv_pokePair (off v sel : Nat) (hs : sel < 65536) : (e.pokePair off v sel).pairv off sel = v % 2 ^ 64 := by
  unfold Eng.pairv Eng.pokePair
  rw [Eng.reg_putReg_same, Eng.reg_putReg_ne _ _ _ _ hs hs (.inl (by omega)), Eng.reg_putReg_same]
  simp only [two32, BitVec.toNat_ofNat]
  omega

/-- A register that is neither half of the 64-bit quantity written. -/
theorem Eng.reg_pokePair_ne (off v sel : Nat) {o i : Nat} (hs : sel < 65536) (hi : i < 65536) (h : (o ≠ off ∧ o ≠ off + 4) ∨ i ≠ sel) :
    (e.pokePair off v sel).reg o i = e.reg o i := by
  unfold Eng.pokePair
  rw [Eng.reg_putReg_ne _ _ _ _ hs hi (by omega), Eng.reg_putReg_ne _ _ _ _ hs hi (by omega)]

end Sys2Proof.Machine
end

