-- ==== Sys2Proof/Laws/Time.lean ====
section
/-!
SUPPORT. What the passing of time, counting and the raising of events leave as it was, field by field: one lemma for each, from
Eng.Passes and Eng.Reports.
-/
namespace Sys2Proof.Machine

variable (e : Eng)

@[simp] theorem Eng.advance_act (t : Nat) : (e.advance t).act = e.act := (Eng.advance_passes e t).act_eq
@[simp] theorem Eng.advance_cap (t : Nat) : (e.advance t).cap = e.cap := (Eng.advance_passes e t).cap_eq
@[simp] theorem Eng.advance_pend (t : Nat) : (e.advance t).pend = e.pend := (Eng.advance_passes e t).pend_eq
@[simp] theorem Eng.advance_held (t : Nat) : (e.advance t).held = e.held := (Eng.advance_passes e t).held_eq
@[simp] theorem Eng.advance_pairLow (t : Nat) : (e.advance t).pairLow = e.pairLow := (Eng.advance_passes e t).pairLow_eq
@[simp] theorem Eng.advance_latch (t : Nat) : (e.advance t).latch = e.latch := (Eng.advance_passes e t).latch_eq
@[simp] theorem Eng.advance_tal (t : Nat) : (e.advance t).tal = e.tal := (Eng.advance_passes e t).tal_eq
@[simp] theorem Eng.advance_hat (t : Nat) : (e.advance t).hat = e.hat := (Eng.advance_passes e t).hat_eq
@[simp] theorem Eng.advance_led (t : Nat) : (e.advance t).led = e.led := (Eng.advance_passes e t).led_eq
@[simp] theorem Eng.advance_gat (t : Nat) : (e.advance t).gat = e.gat := (Eng.advance_passes e t).gat_eq
@[simp] theorem Eng.advance_cmp (t : Nat) : (e.advance t).cmp = e.cmp := (Eng.advance_passes e t).cmp_eq
@[simp] theorem Eng.advance_stw (t : Nat) : (e.advance t).stw = e.stw := (Eng.advance_passes e t).stw_eq
@[simp] theorem Eng.advance_shv (t : Nat) : (e.advance t).shv = e.shv := (Eng.advance_passes e t).shv_eq
@[simp] theorem Eng.advance_pan (t : Nat) : (e.advance t).pan = e.pan := (Eng.advance_passes e t).pan_eq
@[simp] theorem Eng.advance_smp (t : Nat) : (e.advance t).smp = e.smp := (Eng.advance_passes e t).smp_eq
@[simp] theorem Eng.advance_siv (t : Nat) : (e.advance t).siv = e.siv := (Eng.advance_passes e t).siv_eq
@[simp] theorem Eng.advance_rsu (t : Nat) : (e.advance t).rsu = e.rsu := (Eng.advance_passes e t).rsu_eq
@[simp] theorem Eng.advance_bin (t : Nat) : (e.advance t).bin = e.bin := (Eng.advance_passes e t).bin_eq
@[simp] theorem Eng.advance_raf (t : Nat) : (e.advance t).raf = e.raf := (Eng.advance_passes e t).raf_eq
@[simp] theorem Eng.advance_ras (t : Nat) : (e.advance t).ras = e.ras := (Eng.advance_passes e t).ras_eq
@[simp] theorem Eng.advance_pd (t : Nat) : (e.advance t).pd = e.pd := (Eng.advance_passes e t).pd_eq
@[simp] theorem Eng.advance_nextIdle (t : Nat) : (e.advance t).nextIdle = e.nextIdle := (Eng.advance_passes e t).nextIdle_eq
@[simp] theorem Eng.advance_nextQueued (t : Nat) : (e.advance t).nextQueued = e.nextQueued := (Eng.advance_passes e t).nextQueued_eq
@[simp] theorem Eng.advance_readData (t : Nat) : (e.advance t).readData = e.readData := (Eng.advance_passes e t).readData_eq
@[simp] theorem Eng.advance_out (t : Nat) : (e.advance t).out = e.out := (Eng.advance_passes e t).out_eq
@[simp] theorem Eng.advance_free (t : Nat) : (e.advance t).free = e.free := (Eng.advance_passes e t).free_eq
@[simp] theorem Eng.advance_kpr_gvt (t : Nat) : (e.advance t).kpr.gvt = e.kpr.gvt := by rw [(Eng.advance_passes e t).rest]
@[simp] theorem Eng.advance_kpr_ctxs (t : Nat) : (e.advance t).kpr.ctxs = e.kpr.ctxs := by rw [(Eng.advance_passes e t).rest]
@[simp] theorem Eng.advance_kpr_sems (t : Nat) : (e.advance t).kpr.sems = e.kpr.sems := by rw [(Eng.advance_passes e t).rest]
@[simp] theorem Eng.advance_kpr_dons (t : Nat) : (e.advance t).kpr.dons = e.kpr.dons := by rw [(Eng.advance_passes e t).rest]
@[simp] theorem Eng.advance_kpr_deadlocked (t : Nat) : (e.advance t).kpr.deadlocked = e.kpr.deadlocked := by rw [(Eng.advance_passes e t).rest]
@[simp] theorem Eng.advance_kpr_blockSince (t : Nat) : (e.advance t).kpr.blockSince = e.kpr.blockSince := by rw [(Eng.advance_passes e t).rest]
@[simp] theorem Eng.advance_kpr_cmd (t : Nat) : (e.advance t).kpr.cmd = e.kpr.cmd := by rw [(Eng.advance_passes e t).rest]
@[simp] theorem Eng.advance_kpr_cmdStatus (t : Nat) : (e.advance t).kpr.cmdStatus = e.kpr.cmdStatus := by rw [(Eng.advance_passes e t).rest]
@[simp] theorem Eng.advance_kpr_imgBytes (t : Nat) : (e.advance t).kpr.imgBytes = e.kpr.imgBytes := by rw [(Eng.advance_passes e t).rest]
@[simp] theorem Eng.advance_kpr_exports (t : Nat) : (e.advance t).kpr.exports = e.kpr.exports := by rw [(Eng.advance_passes e t).rest]
@[simp] theorem Eng.advance_kpr_draw (t : Nat) : (e.advance t).kpr.draw = e.kpr.draw := by rw [(Eng.advance_passes e t).rest]
@[simp] theorem Eng.advance_kpr_base (t : Nat) : (e.advance t).kpr.base = e.kpr.base := by rw [(Eng.advance_passes e t).rest]
@[simp] theorem Eng.advance_kpr_rampFree (t : Nat) : (e.advance t).kpr.rampFree = e.kpr.rampFree := by rw [(Eng.advance_passes e t).rest]
@[simp] theorem Eng.advance_kpr_committed (t : Nat) : (e.advance t).kpr.committed = e.kpr.committed := by rw [(Eng.advance_passes e t).rest]
@[simp] theorem Eng.advance_kpr_overCap (t : Nat) : (e.advance t).kpr.overCap = e.kpr.overCap := by rw [(Eng.advance_passes e t).rest]
@[simp] theorem Eng.advance_kpr_grants (t : Nat) : (e.advance t).kpr.grants = e.kpr.grants := by rw [(Eng.advance_passes e t).rest]
@[simp] theorem Eng.advance_kpr_queue (t : Nat) : (e.advance t).kpr.queue = e.kpr.queue := by rw [(Eng.advance_passes e t).rest]
@[simp] theorem Eng.advance_kpr_heldReqs (t : Nat) : (e.advance t).kpr.heldReqs = e.kpr.heldReqs := by rw [(Eng.advance_passes e t).rest]
@[simp] theorem Eng.advance_kpr_toks (t : Nat) : (e.advance t).kpr.toks = e.kpr.toks := by rw [(Eng.advance_passes e t).rest]
@[simp] theorem Eng.advance_kpr_wants (t : Nat) : (e.advance t).kpr.wants = e.kpr.wants := by rw [(Eng.advance_passes e t).rest]
@[simp] theorem Eng.advance_kpr_gots (t : Nat) : (e.advance t).kpr.gots = e.kpr.gots := by rw [(Eng.advance_passes e t).rest]
@[simp] theorem Eng.advance_kpr_reqs (t : Nat) : (e.advance t).kpr.reqs = e.kpr.reqs := by rw [(Eng.advance_passes e t).rest]
@[simp] theorem Eng.advance_kpr_unattr (t : Nat) : (e.advance t).kpr.unattr = e.kpr.unattr := by rw [(Eng.advance_passes e t).rest]
@[simp] theorem Eng.advance_kpr_rho (t : Nat) : (e.advance t).kpr.rho = e.kpr.rho := by rw [(Eng.advance_passes e t).rest]
@[simp] theorem Eng.advance_kpr_streamGrants (t : Nat) : (e.advance t).kpr.streamGrants = e.kpr.streamGrants := by rw [(Eng.advance_passes e t).rest]
@[simp] theorem Eng.advance_kpr_streamWait (t : Nat) : (e.advance t).kpr.streamWait = e.kpr.streamWait := by rw [(Eng.advance_passes e t).rest]
@[simp] theorem Eng.advance_kpr_winStart (t : Nat) : (e.advance t).kpr.winStart = e.kpr.winStart := by rw [(Eng.advance_passes e t).rest]
@[simp] theorem Eng.advance_kpr_nextPoint (t : Nat) : (e.advance t).kpr.nextPoint = e.kpr.nextPoint := by rw [(Eng.advance_passes e t).rest]
@[simp] theorem Eng.advance_kpr_nextRefill (t : Nat) : (e.advance t).kpr.nextRefill = e.kpr.nextRefill := by rw [(Eng.advance_passes e t).rest]
@[simp] theorem Eng.advance_kpr_nextClose (t : Nat) : (e.advance t).kpr.nextClose = e.kpr.nextClose := by rw [(Eng.advance_passes e t).rest]
@[simp] theorem Eng.advance_kpr_nextWindow (t : Nat) : (e.advance t).kpr.nextWindow = e.kpr.nextWindow := by rw [(Eng.advance_passes e t).rest]
@[simp] theorem Eng.raise_now (v : EvtRec) : (e.raise v).now = e.now := (Eng.raise_reports e v).now_eq
@[simp] theorem Eng.raiseE_now (c u a : Nat) (i : Option Nat) : (e.raiseE c u a i).now = e.now := (Eng.raiseE_reports e c u a i).now_eq
@[simp] theorem Eng.raiseP_now (c u p a : Nat) (i : Option Nat) : (e.raiseP c u p a i).now = e.now := (Eng.raiseP_reports e c u p a i).now_eq
@[simp] theorem Eng.raise_act (v : EvtRec) : (e.raise v).act = e.act := (Eng.raise_reports e v).act_eq
@[simp] theorem Eng.raiseE_act (c u a : Nat) (i : Option Nat) : (e.raiseE c u a i).act = e.act := (Eng.raiseE_reports e c u a i).act_eq
@[simp] theorem Eng.raiseP_act (c u p a : Nat) (i : Option Nat) : (e.raiseP c u p a i).act = e.act := (Eng.raiseP_reports e c u p a i).act_eq
@[simp] theorem Eng.count_act (c a : Nat) (p i : Option Nat) : (e.count c a p i).act = e.act := (Eng.count_reports e c a p i).act_eq
@[simp] theorem Eng.raise_cap (v : EvtRec) : (e.raise v).cap = e.cap := (Eng.raise_reports e v).cap_eq
@[simp] theorem Eng.raiseE_cap (c u a : Nat) (i : Option Nat) : (e.raiseE c u a i).cap = e.cap := (Eng.raiseE_reports e c u a i).cap_eq
@[simp] theorem Eng.raiseP_cap (c u p a : Nat) (i : Option Nat) : (e.raiseP c u p a i).cap = e.cap := (Eng.raiseP_reports e c u p a i).cap_eq
@[simp] theorem Eng.count_cap (c a : Nat) (p i : Option Nat) : (e.count c a p i).cap = e.cap := (Eng.count_reports e c a p i).cap_eq
@[simp] theorem Eng.raise_pend (v : EvtRec) : (e.raise v).pend = e.pend := (Eng.raise_reports e v).pend_eq
@[simp] theorem Eng.raiseE_pend (c u a : Nat) (i : Option Nat) : (e.raiseE c u a i).pend = e.pend := (Eng.raiseE_reports e c u a i).pend_eq
@[simp] theorem Eng.raiseP_pend (c u p a : Nat) (i : Option Nat) : (e.raiseP c u p a i).pend = e.pend := (Eng.raiseP_reports e c u p a i).pend_eq
@[simp] theorem Eng.count_pend (c a : Nat) (p i : Option Nat) : (e.count c a p i).pend = e.pend := (Eng.count_reports e c a p i).pend_eq
@[simp] theorem Eng.raise_held (v : EvtRec) : (e.raise v).held = e.held := (Eng.raise_reports e v).held_eq
@[simp] theorem Eng.raiseE_held (c u a : Nat) (i : Option Nat) : (e.raiseE c u a i).held = e.held := (Eng.raiseE_reports e c u a i).held_eq
@[simp] theorem Eng.raiseP_held (c u p a : Nat) (i : Option Nat) : (e.raiseP c u p a i).held = e.held := (Eng.raiseP_reports e c u p a i).held_eq
@[simp] theorem Eng.count_held (c a : Nat) (p i : Option Nat) : (e.count c a p i).held = e.held := (Eng.count_reports e c a p i).held_eq
@[simp] theorem Eng.raise_pairLow (v : EvtRec) : (e.raise v).pairLow = e.pairLow := (Eng.raise_reports e v).pairLow_eq
@[simp] theorem Eng.raiseE_pairLow (c u a : Nat) (i : Option Nat) : (e.raiseE c u a i).pairLow = e.pairLow := (Eng.raiseE_reports e c u a i).pairLow_eq
@[simp] theorem Eng.raiseP_pairLow (c u p a : Nat) (i : Option Nat) : (e.raiseP c u p a i).pairLow = e.pairLow := (Eng.raiseP_reports e c u p a i).pairLow_eq
@[simp] theorem Eng.count_pairLow (c a : Nat) (p i : Option Nat) : (e.count c a p i).pairLow = e.pairLow := (Eng.count_reports e c a p i).pairLow_eq
@[simp] theorem Eng.raise_latch (v : EvtRec) : (e.raise v).latch = e.latch := (Eng.raise_reports e v).latch_eq
@[simp] theorem Eng.raiseE_latch (c u a : Nat) (i : Option Nat) : (e.raiseE c u a i).latch = e.latch := (Eng.raiseE_reports e c u a i).latch_eq
@[simp] theorem Eng.raiseP_latch (c u p a : Nat) (i : Option Nat) : (e.raiseP c u p a i).latch = e.latch := (Eng.raiseP_reports e c u p a i).latch_eq
@[simp] theorem Eng.count_latch (c a : Nat) (p i : Option Nat) : (e.count c a p i).latch = e.latch := (Eng.count_reports e c a p i).latch_eq
@[simp] theorem Eng.raise_tal (v : EvtRec) : (e.raise v).tal = e.tal := (Eng.raise_reports e v).tal_eq
@[simp] theorem Eng.raiseE_tal (c u a : Nat) (i : Option Nat) : (e.raiseE c u a i).tal = e.tal := (Eng.raiseE_reports e c u a i).tal_eq
@[simp] theorem Eng.raiseP_tal (c u p a : Nat) (i : Option Nat) : (e.raiseP c u p a i).tal = e.tal := (Eng.raiseP_reports e c u p a i).tal_eq
@[simp] theorem Eng.count_tal (c a : Nat) (p i : Option Nat) : (e.count c a p i).tal = e.tal := (Eng.count_reports e c a p i).tal_eq
@[simp] theorem Eng.raise_led (v : EvtRec) : (e.raise v).led = e.led := (Eng.raise_reports e v).led_eq
@[simp] theorem Eng.raiseE_led (c u a : Nat) (i : Option Nat) : (e.raiseE c u a i).led = e.led := (Eng.raiseE_reports e c u a i).led_eq
@[simp] theorem Eng.raiseP_led (c u p a : Nat) (i : Option Nat) : (e.raiseP c u p a i).led = e.led := (Eng.raiseP_reports e c u p a i).led_eq
@[simp] theorem Eng.count_led (c a : Nat) (p i : Option Nat) : (e.count c a p i).led = e.led := (Eng.count_reports e c a p i).led_eq
@[simp] theorem Eng.raise_gat (v : EvtRec) : (e.raise v).gat = e.gat := (Eng.raise_reports e v).gat_eq
@[simp] theorem Eng.raiseE_gat (c u a : Nat) (i : Option Nat) : (e.raiseE c u a i).gat = e.gat := (Eng.raiseE_reports e c u a i).gat_eq
@[simp] theorem Eng.raiseP_gat (c u p a : Nat) (i : Option Nat) : (e.raiseP c u p a i).gat = e.gat := (Eng.raiseP_reports e c u p a i).gat_eq
@[simp] theorem Eng.count_gat (c a : Nat) (p i : Option Nat) : (e.count c a p i).gat = e.gat := (Eng.count_reports e c a p i).gat_eq
@[simp] theorem Eng.raise_cmp (v : EvtRec) : (e.raise v).cmp = e.cmp := (Eng.raise_reports e v).cmp_eq
@[simp] theorem Eng.raiseE_cmp (c u a : Nat) (i : Option Nat) : (e.raiseE c u a i).cmp = e.cmp := (Eng.raiseE_reports e c u a i).cmp_eq
@[simp] theorem Eng.raiseP_cmp (c u p a : Nat) (i : Option Nat) : (e.raiseP c u p a i).cmp = e.cmp := (Eng.raiseP_reports e c u p a i).cmp_eq
@[simp] theorem Eng.count_cmp (c a : Nat) (p i : Option Nat) : (e.count c a p i).cmp = e.cmp := (Eng.count_reports e c a p i).cmp_eq
@[simp] theorem Eng.raise_stw (v : EvtRec) : (e.raise v).stw = e.stw := (Eng.raise_reports e v).stw_eq
@[simp] theorem Eng.raiseE_stw (c u a : Nat) (i : Option Nat) : (e.raiseE c u a i).stw = e.stw := (Eng.raiseE_reports e c u a i).stw_eq
@[simp] theorem Eng.raiseP_stw (c u p a : Nat) (i : Option Nat) : (e.raiseP c u p a i).stw = e.stw := (Eng.raiseP_reports e c u p a i).stw_eq
@[simp] theorem Eng.count_stw (c a : Nat) (p i : Option Nat) : (e.count c a p i).stw = e.stw := (Eng.count_reports e c a p i).stw_eq
@[simp] theorem Eng.raise_shv (v : EvtRec) : (e.raise v).shv = e.shv := (Eng.raise_reports e v).shv_eq
@[simp] theorem Eng.raiseE_shv (c u a : Nat) (i : Option Nat) : (e.raiseE c u a i).shv = e.shv := (Eng.raiseE_reports e c u a i).shv_eq
@[simp] theorem Eng.raiseP_shv (c u p a : Nat) (i : Option Nat) : (e.raiseP c u p a i).shv = e.shv := (Eng.raiseP_reports e c u p a i).shv_eq
@[simp] theorem Eng.count_shv (c a : Nat) (p i : Option Nat) : (e.count c a p i).shv = e.shv := (Eng.count_reports e c a p i).shv_eq
@[simp] theorem Eng.raise_pan (v : EvtRec) : (e.raise v).pan = e.pan := (Eng.raise_reports e v).pan_eq
@[simp] theorem Eng.raiseE_pan (c u a : Nat) (i : Option Nat) : (e.raiseE c u a i).pan = e.pan := (Eng.raiseE_reports e c u a i).pan_eq
@[simp] theorem Eng.raiseP_pan (c u p a : Nat) (i : Option Nat) : (e.raiseP c u p a i).pan = e.pan := (Eng.raiseP_reports e c u p a i).pan_eq
@[simp] theorem Eng.count_pan (c a : Nat) (p i : Option Nat) : (e.count c a p i).pan = e.pan := (Eng.count_reports e c a p i).pan_eq
@[simp] theorem Eng.raise_smp (v : EvtRec) : (e.raise v).smp = e.smp := (Eng.raise_reports e v).smp_eq
@[simp] theorem Eng.raiseE_smp (c u a : Nat) (i : Option Nat) : (e.raiseE c u a i).smp = e.smp := (Eng.raiseE_reports e c u a i).smp_eq
@[simp] theorem Eng.raiseP_smp (c u p a : Nat) (i : Option Nat) : (e.raiseP c u p a i).smp = e.smp := (Eng.raiseP_reports e c u p a i).smp_eq
@[simp] theorem Eng.count_smp (c a : Nat) (p i : Option Nat) : (e.count c a p i).smp = e.smp := (Eng.count_reports e c a p i).smp_eq
@[simp] theorem Eng.raise_siv (v : EvtRec) : (e.raise v).siv = e.siv := (Eng.raise_reports e v).siv_eq
@[simp] theorem Eng.raiseE_siv (c u a : Nat) (i : Option Nat) : (e.raiseE c u a i).siv = e.siv := (Eng.raiseE_reports e c u a i).siv_eq
@[simp] theorem Eng.raiseP_siv (c u p a : Nat) (i : Option Nat) : (e.raiseP c u p a i).siv = e.siv := (Eng.raiseP_reports e c u p a i).siv_eq
@[simp] theorem Eng.count_siv (c a : Nat) (p i : Option Nat) : (e.count c a p i).siv = e.siv := (Eng.count_reports e c a p i).siv_eq
@[simp] theorem Eng.raise_rsu (v : EvtRec) : (e.raise v).rsu = e.rsu := (Eng.raise_reports e v).rsu_eq
@[simp] theorem Eng.raiseE_rsu (c u a : Nat) (i : Option Nat) : (e.raiseE c u a i).rsu = e.rsu := (Eng.raiseE_reports e c u a i).rsu_eq
@[simp] theorem Eng.raiseP_rsu (c u p a : Nat) (i : Option Nat) : (e.raiseP c u p a i).rsu = e.rsu := (Eng.raiseP_reports e c u p a i).rsu_eq
@[simp] theorem Eng.count_rsu (c a : Nat) (p i : Option Nat) : (e.count c a p i).rsu = e.rsu := (Eng.count_reports e c a p i).rsu_eq
@[simp] theorem Eng.raise_bin (v : EvtRec) : (e.raise v).bin = e.bin := (Eng.raise_reports e v).bin_eq
@[simp] theorem Eng.raiseE_bin (c u a : Nat) (i : Option Nat) : (e.raiseE c u a i).bin = e.bin := (Eng.raiseE_reports e c u a i).bin_eq
@[simp] theorem Eng.raiseP_bin (c u p a : Nat) (i : Option Nat) : (e.raiseP c u p a i).bin = e.bin := (Eng.raiseP_reports e c u p a i).bin_eq
@[simp] theorem Eng.count_bin (c a : Nat) (p i : Option Nat) : (e.count c a p i).bin = e.bin := (Eng.count_reports e c a p i).bin_eq
@[simp] theorem Eng.raise_kpr (v : EvtRec) : (e.raise v).kpr = e.kpr := (Eng.raise_reports e v).kpr_eq
@[simp] theorem Eng.raiseE_kpr (c u a : Nat) (i : Option Nat) : (e.raiseE c u a i).kpr = e.kpr := (Eng.raiseE_reports e c u a i).kpr_eq
@[simp] theorem Eng.raiseP_kpr (c u p a : Nat) (i : Option Nat) : (e.raiseP c u p a i).kpr = e.kpr := (Eng.raiseP_reports e c u p a i).kpr_eq
@[simp] theorem Eng.count_kpr (c a : Nat) (p i : Option Nat) : (e.count c a p i).kpr = e.kpr := (Eng.count_reports e c a p i).kpr_eq
@[simp] theorem Eng.raise_raf (v : EvtRec) : (e.raise v).raf = e.raf := (Eng.raise_reports e v).raf_eq
@[simp] theorem Eng.raiseE_raf (c u a : Nat) (i : Option Nat) : (e.raiseE c u a i).raf = e.raf := (Eng.raiseE_reports e c u a i).raf_eq
@[simp] theorem Eng.raiseP_raf (c u p a : Nat) (i : Option Nat) : (e.raiseP c u p a i).raf = e.raf := (Eng.raiseP_reports e c u p a i).raf_eq
@[simp] theorem Eng.count_raf (c a : Nat) (p i : Option Nat) : (e.count c a p i).raf = e.raf := (Eng.count_reports e c a p i).raf_eq
@[simp] theorem Eng.raise_ras (v : EvtRec) : (e.raise v).ras = e.ras := (Eng.raise_reports e v).ras_eq
@[simp] theorem Eng.raiseE_ras (c u a : Nat) (i : Option Nat) : (e.raiseE c u a i).ras = e.ras := (Eng.raiseE_reports e c u a i).ras_eq
@[simp] theorem Eng.raiseP_ras (c u p a : Nat) (i : Option Nat) : (e.raiseP c u p a i).ras = e.ras := (Eng.raiseP_reports e c u p a i).ras_eq
@[simp] theorem Eng.count_ras (c a : Nat) (p i : Option Nat) : (e.count c a p i).ras = e.ras := (Eng.count_reports e c a p i).ras_eq
@[simp] theorem Eng.raise_pd (v : EvtRec) : (e.raise v).pd = e.pd := (Eng.raise_reports e v).pd_eq
@[simp] theorem Eng.raiseE_pd (c u a : Nat) (i : Option Nat) : (e.raiseE c u a i).pd = e.pd := (Eng.raiseE_reports e c u a i).pd_eq
@[simp] theorem Eng.raiseP_pd (c u p a : Nat) (i : Option Nat) : (e.raiseP c u p a i).pd = e.pd := (Eng.raiseP_reports e c u p a i).pd_eq
@[simp] theorem Eng.count_pd (c a : Nat) (p i : Option Nat) : (e.count c a p i).pd = e.pd := (Eng.count_reports e c a p i).pd_eq
@[simp] theorem Eng.raise_nextIdle (v : EvtRec) : (e.raise v).nextIdle = e.nextIdle := (Eng.raise_reports e v).nextIdle_eq
@[simp] theorem Eng.raiseE_nextIdle (c u a : Nat) (i : Option Nat) : (e.raiseE c u a i).nextIdle = e.nextIdle := (Eng.raiseE_reports e c u a i).nextIdle_eq
@[simp] theorem Eng.raiseP_nextIdle (c u p a : Nat) (i : Option Nat) : (e.raiseP c u p a i).nextIdle = e.nextIdle := (Eng.raiseP_reports e c u p a i).nextIdle_eq
@[simp] theorem Eng.count_nextIdle (c a : Nat) (p i : Option Nat) : (e.count c a p i).nextIdle = e.nextIdle := (Eng.count_reports e c a p i).nextIdle_eq
@[simp] theorem Eng.raise_nextQueued (v : EvtRec) : (e.raise v).nextQueued = e.nextQueued := (Eng.raise_reports e v).nextQueued_eq
@[simp] theorem Eng.raiseE_nextQueued (c u a : Nat) (i : Option Nat) : (e.raiseE c u a i).nextQueued = e.nextQueued := (Eng.raiseE_reports e c u a i).nextQueued_eq
@[simp] theorem Eng.raiseP_nextQueued (c u p a : Nat) (i : Option Nat) : (e.raiseP c u p a i).nextQueued = e.nextQueued := (Eng.raiseP_reports e c u p a i).nextQueued_eq
@[simp] theorem Eng.count_nextQueued (c a : Nat) (p i : Option Nat) : (e.count c a p i).nextQueued = e.nextQueued := (Eng.count_reports e c a p i).nextQueued_eq
@[simp] theorem Eng.raise_readData (v : EvtRec) : (e.raise v).readData = e.readData := (Eng.raise_reports e v).readData_eq
@[simp] theorem Eng.raiseE_readData (c u a : Nat) (i : Option Nat) : (e.raiseE c u a i).readData = e.readData := (Eng.raiseE_reports e c u a i).readData_eq
@[simp] theorem Eng.raiseP_readData (c u p a : Nat) (i : Option Nat) : (e.raiseP c u p a i).readData = e.readData := (Eng.raiseP_reports e c u p a i).readData_eq
@[simp] theorem Eng.count_readData (c a : Nat) (p i : Option Nat) : (e.count c a p i).readData = e.readData := (Eng.count_reports e c a p i).readData_eq
@[simp] theorem Eng.raise_free (v : EvtRec) : (e.raise v).free = e.free := (Eng.raise_reports e v).free_eq
@[simp] theorem Eng.raiseE_free (c u a : Nat) (i : Option Nat) : (e.raiseE c u a i).free = e.free := (Eng.raiseE_reports e c u a i).free_eq
@[simp] theorem Eng.raiseP_free (c u p a : Nat) (i : Option Nat) : (e.raiseP c u p a i).free = e.free := (Eng.raiseP_reports e c u p a i).free_eq
@[simp] theorem Eng.count_free (c a : Nat) (p i : Option Nat) : (e.count c a p i).free = e.free := (Eng.count_reports e c a p i).free_eq

/-- What is in force does not change with time. -/
@[simp] theorem Eng.advance_av (t : Nat) (f : Fld) (sel : Nat) : (e.advance t).av f sel = e.av f sel := by
  simp only [Eng.av, Eng.advance_act]

/-- A register that counts nothing reads after a passing of time as before it. -/
theorem Eng.advance_reg (t off sel : Nat) (hs : sel < 65536) (ht : timeReg off = false) : (e.advance t).reg off sel = e.reg off sel :=
  (Eng.advance_passes e t).regs off sel hs ht

/-- A field of such a register. -/
theorem Eng.advance_fv (t : Nat) (f : Fld) (sel : Nat) (hs : sel < 65536) (ht : timeReg f.off = false) :
    (e.advance t).fv f sel = e.fv f sel := by
  simp only [Eng.fv, Eng.advance_reg e t f.off sel hs ht]

/-- A bit of such a register. -/
theorem Eng.advance_fb (t : Nat) (f : Fld) (sel : Nat) (hs : sel < 65536) (ht : timeReg f.off = false) :
    (e.advance t).fb f sel = e.fb f sel := by
  simp only [Eng.fb, Eng.advance_fv e t f sel hs ht]

/-- An instance. -/
@[simp] theorem Eng.advance_inst (t i : Nat) : (e.advance t).inst i = e.inst i := by simp only [Eng.inst, Eng.advance_cmp]

/-- A context. -/
@[simp] theorem Eng.advance_ctx (t i : Nat) : (e.advance t).ctx i = e.ctx i := by simp only [Eng.ctx, Eng.advance_kpr_ctxs]

/-- A Ledger record. -/
@[simp] theorem Eng.advance_rc (t i : Nat) : (e.advance t).rc i = e.rc i := by simp only [Eng.rc, Eng.advance_led]

/-- Whether an instance is idle. -/
@[simp] theorem Eng.advance_instIdle (t i : Nat) : (e.advance t).instIdle i = e.instIdle i := by
  simp only [Eng.instIdle, Eng.advance_inst]

/-- Which instances are active. -/
@[simp] theorem Eng.advance_activeInsts (t : Nat) : (e.advance t).activeInsts = e.activeInsts := by
  simp only [Eng.activeInsts, Eng.advance_inst]

/-- Whether the engine is idle. -/
@[simp] theorem Eng.advance_idle (t : Nat) : (e.advance t).idle = e.idle := by
  have h : (e.advance t).instIdle = e.instIdle := funext (fun i => Eng.advance_instIdle e t i)
  unfold Eng.idle
  rw [h]

/-- A power domain after one has been replaced. -/
theorem Eng.dom_setDom (d k : Nat) (x : Dom) : (e.setDom d x).dom k = if k = d then x else e.dom k := by
  unfold Eng.dom Eng.setDom
  dsimp only
  split
  · next h => subst h; exact tgetD_tsetD_same _ _ _ _
  · next h => exact tgetD_tsetD_ne _ _ _ h

/-- A power domain is not changed by time. -/
@[simp] theorem Eng.advance_dom (t d : Nat) : (e.advance t).dom d = e.dom d := by simp only [Eng.dom, Eng.advance_pd]

/-- What waiting for a domain may change: the passing of time, and that domain. -/
theorem Eng.needOn_rest (d : Nat) :
    e.needOn d = { e with
      now := (e.needOn d).now, regs := (e.needOn d).regs, pd := (e.needOn d).pd
      dbg := { e.dbg with cnt := (e.needOn d).dbg.cnt }
      kpr := { e.kpr with parts := (e.needOn d).kpr.parts } } := by
  have hw : ∃ p, e.wake d = { e with pd := p } := by
    unfold Eng.wake
    dsimp only
    repeat' split
    all_goals exact ⟨_, rfl⟩
  obtain ⟨p, hp⟩ := hw
  unfold Eng.needOn
  rw [hp]
  dsimp only
  split
  · have h := (Eng.advance_passes ({ e with pd := p } : Eng) (({ e with pd := p } : Eng).dom d).due).rest
    generalize ({ e with pd := p } : Eng).advance (({ e with pd := p } : Eng).dom d).due = a at *
    have hpd : a.pd = p := by rw [h]
    unfold Eng.setDom
    dsimp only
    rw [hpd]
    conv_lhs => rw [h]
  · rfl

/-- Waiting for a domain leaves the other domains. -/
theorem Eng.needOn_dom_ne {d k : Nat} (h : k ≠ d) : (e.needOn d).dom k = e.dom k := by
  have hw : (e.wake d).dom k = e.dom k := by
    unfold Eng.wake
    dsimp only
    split
    · rfl
    · repeat' split
      all_goals rw [Eng.dom_setDom, if_neg h]
  unfold Eng.needOn
  dsimp only
  split
  · rw [Eng.dom_setDom, if_neg h, Eng.advance_dom, hw]
  · exact hw

/-- Waiting for a domain that is OFF takes its wake latency and leaves it ON; for one that is ON, or gated in this very tick, no time. -/
theorem Eng.needOn_on {d : Nat} (hr : (e.dom d).retired = false) (hs : (e.dom d).st = 0 ∨ (e.dom d).st = 2) :
    ((e.needOn d).dom d).st = 2 ∧ ((e.needOn d).dom d).retired = false ∧
      (e.needOn d).now = e.now + (if (e.dom d).st = 0 ∧ (e.dom d).gated ≠ some e.now then wakeLatency d 0 else 0) := by
  have on : ∀ x : Dom, e.wake d = e.setDom d x → x.st = 2 → x.retired = (e.dom d).retired →
      ((e.needOn d).dom d).st = 2 ∧ ((e.needOn d).dom d).retired = false ∧ (e.needOn d).now = e.now := by
    intro x hw h2 hx
    unfold Eng.needOn
    rw [hw]
    dsimp only
    rw [Eng.dom_setDom, if_pos rfl, if_neg (by omega), Eng.dom_setDom, if_pos rfl]
    exact ⟨h2, hx.trans hr, rfl⟩
  rcases hs with h | h
  · by_cases hg : (e.dom d).gated = some e.now
    · rw [if_neg (fun c => c.2 hg)]
      exact on { e.dom d with st := 2, used := e.now } (by simp [Eng.wake, hr, h, hg]) rfl rfl
    · rw [if_pos ⟨h, hg⟩]
      by_cases hz : wakeLatency d 0 = 0
      · rw [hz]
        exact on { e.dom d with st := 2, used := e.now } (by simp [Eng.wake, hr, h, hg, hz]) rfl rfl
      · have hw : e.wake d = e.setDom d { e.dom d with st := 1, due := e.now + wakeLatency d 0, used := e.now, drop := false } := by
          simp [Eng.wake, hr, h, hg, hz]
        unfold Eng.needOn
        rw [hw]
        dsimp only
        rw [Eng.dom_setDom, if_pos rfl, if_pos rfl, Eng.dom_setDom, if_pos rfl]
        refine ⟨rfl, hr, ?_⟩
        show ((e.setDom d _).advance _).now = _
        rw [Eng.advance_now]
        show max e.now _ = _
        dsimp only
        omega
  · rw [if_neg (fun c => by omega)]
    exact on { e.dom d with used := e.now, drop := false } (by simp [Eng.wake, hr, h]) h rfl

end Sys2Proof.Machine
end

