-- ==== Sys2Proof/Laws/Only.lean ====
section
/-!
SUPPORT. The frame Eng.Only: it composes, and each shared operation keeps to the parts and registers that it names.
-/
namespace Sys2Proof.Machine

variable {us offs : List Nat}

/-- Parts that are as they were in two steps are as they were. -/
theorem Eng.partSame_trans {a b c : Eng} (u : Nat) (h : a.partSame u b) (k : b.partSame u c) : a.partSame u c := by
  unfold Eng.partSame at *
  split
  case h_19 =>
    obtain ⟨a1, a2, a3, a4⟩ := h
    obtain ⟨b1, b2, b3, b4⟩ := k
    exact ⟨b1.trans a1, b2.trans a2, b3.trans a3, b4.trans a4⟩
  case h_20 => exact ⟨k.1.trans h.1, k.2.trans h.2⟩
  case h_21 => trivial
  all_goals exact Eq.trans k h

/-- Nothing has changed. -/
theorem Eng.Only.refl (e : Eng) : e.Only us offs e :=
  ⟨fun u _ => by unfold Eng.partSame; split <;> simp, fun _ _ _ _ _ _ => rfl, ⟨[], rfl⟩⟩

/-- Two changes in turn. -/
theorem Eng.Only.trans {a b c : Eng} (h : a.Only us offs b) (k : b.Only us offs c) : a.Only us offs c :=
  ⟨fun u hu => Eng.partSame_trans u (h.parts u hu) (k.parts u hu),
    fun o s hs ho ht h0 => (k.regs o s hs ho ht h0).trans (h.regs o s hs ho ht h0),
    by obtain ⟨l, hl⟩ := h.out; obtain ⟨m, hm⟩ := k.out; exact ⟨m ++ l, by rw [hm, hl, List.append_assoc]⟩⟩

/-- A fold of such changes. -/
theorem Eng.Only.foldl {α : Type} (l : List α) (f : Eng → α → Eng) (hf : ∀ (e : Eng) x, x ∈ l → e.Only us offs (f e x)) (e : Eng) :
    e.Only us offs (l.foldl f e) := by
  induction l generalizing e with
  | nil => exact Eng.Only.refl e
  | cons a l ih => exact (hf e a (by simp)).trans (ih (fun e x hx => hf e x (by simp [hx])) _)

/-- A choice between two such changes. -/
theorem Eng.Only.ite {c : Prop} [Decidable c] {e a b : Eng} (h : c → e.Only us offs a) (k : ¬c → e.Only us offs b) :
    e.Only us offs (if c then a else b) := by
  split
  · next x => exact h x
  · next x => exact k x

/-- A write of a listed register. -/
theorem Eng.Only.putReg (e : Eng) (off sel : Nat) (w : Word) (hs : sel < 65536) (h : off ∈ offs) : e.Only us offs (e.putReg off sel w) :=
  ⟨fun u _ => by unfold Eng.partSame; split <;> simp,
    fun o s hs' ho _ _ => Eng.reg_putReg_ne e off sel w hs hs' (.inl (fun h' => ho (h' ▸ h))), ⟨[], rfl⟩⟩

/-- A change of a field of a listed register. -/
theorem Eng.Only.poke (e : Eng) (f : Fld) (v sel : Nat) (hs : sel < 65536) (h : f.off ∈ offs) : e.Only us offs (e.poke f v sel) :=
  Eng.Only.putReg e f.off sel _ hs h

/-- A count in a listed register. -/
theorem Eng.Only.bump (e : Eng) (f : Fld) (n sel : Nat) (hs : sel < 65536) (h : f.off ∈ offs) : e.Only us offs (e.bump f n sel) :=
  Eng.Only.poke e f _ sel hs h

/-- Something is sent. -/
theorem Eng.Only.emit (e : Eng) (o : Out) : e.Only us offs (e.emit o) :=
  ⟨fun u _ => by unfold Eng.partSame; split <;> simp, fun _ _ _ _ _ _ => rfl, ⟨[o], rfl⟩⟩

/-- Something is told to the array. -/
theorem Eng.Only.tell (e : Eng) (m : ArrMsg) : e.Only us offs (e.tell m) := Eng.Only.emit e (.array m)

/-- What counts, traces or raises events changes Hatch's rings and the counters. -/
theorem Eng.Only.of_reports {e e' : Eng} (h : e.Reports e') (h1 : 1 ∈ us) (h17 : 17 ∈ us) : e.Only us offs e' := by
  refine ⟨fun u hu => ?_, fun o s hs _ ht _ => h.regs o s hs ht, h.out⟩
  have h1' : u ≠ 1 := fun x => hu (x ▸ h1)
  have h17' : u ≠ 17 := fun x => hu (x ▸ h17)
  unfold Eng.partSame
  rw [h.rest]
  split <;> simp_all

/-- Counting changes the counters alone. -/
theorem Eng.Only.count (e : Eng) (src amt : Nat) (p i : Option Nat) (h17 : 17 ∈ us) : e.Only us offs (e.count src amt p i) := by
  have hh : ∀ (l : List Nat) (e : Eng), (l.foldl (fun e n => if e.cntSelects n src p i then e.cntAdd n amt else e) e).hat = e.hat ∧
      (l.foldl (fun e n => if e.cntSelects n src p i then e.cntAdd n amt else e) e).out = e.out := by
    intro l
    induction l with
    | nil => intro e; exact ⟨rfl, rfl⟩
    | cons a l ih =>
      intro e
      rw [List.foldl_cons]
      have h2 : (if e.cntSelects a src p i then e.cntAdd a amt else e).hat = e.hat ∧
          (if e.cntSelects a src p i then e.cntAdd a amt else e).out = e.out := by
        split
        · unfold Eng.cntAdd
          dsimp only
          split <;> exact ⟨rfl, rfl⟩
        · exact ⟨rfl, rfl⟩
      exact ⟨(ih _).1.trans h2.1, (ih _).2.trans h2.2⟩
  have hr := e.count_reports src amt p i
  have hc : (e.count src amt p i).hat = e.hat ∧ (e.count src amt p i).out = e.out := by
    unfold Eng.count Eng.countAmt
    repeat' split
    · exact ⟨rfl, rfl⟩
    · exact ⟨rfl, rfl⟩
    · exact hh _ e
  refine ⟨fun u hu => ?_, fun o s hs _ ht _ => hr.regs o s hs ht, ⟨[], hc.2⟩⟩
  have h17' : u ≠ 17 := fun x => hu (x ▸ h17)
  unfold Eng.partSame
  split <;> first | exact hc.1 | trivial | exact absurd rfl h17' | (rw [hr.rest]; done) | (rw [hr.rest]; exact ⟨rfl, rfl, rfl, rfl⟩) | (rw [hr.rest]; exact ⟨rfl, rfl⟩)

/-- The passing of time changes the Tally, Keeper's sums and the counters. -/
theorem Eng.Only.advance (e : Eng) (t : Nat) (h0 : 0 ∈ us) (h12 : 12 ∈ us) (h17 : 17 ∈ us) : e.Only us offs (e.advance t) := by
  have h := e.advance_passes t
  refine ⟨fun u hu => ?_, fun o s hs _ ht hz => h.regs o s hs (timeReg_of ht (fun c => hz c h0)), ⟨[], by rw [h.rest]; rfl⟩⟩
  have a : u ≠ 0 := fun x => hu (x ▸ h0)
  have b : u ≠ 12 := fun x => hu (x ▸ h12)
  have c : u ≠ 17 := fun x => hu (x ▸ h17)
  unfold Eng.partSame
  rw [h.rest]
  split <;> simp_all

/-- An event. -/
theorem Eng.Only.raise (e : Eng) (v : EvtRec) (h1 : 1 ∈ us) (h17 : 17 ∈ us) : e.Only us offs (e.raise v) :=
  .of_reports (e.raise_reports v) h1 h17

/-- A trace record. -/
theorem Eng.Only.trace (e : Eng) (v : TraceRec) (h1 : 1 ∈ us) (h17 : 17 ∈ us) : e.Only us offs (e.trace v) :=
  .of_reports (e.trace_reports v) h1 h17

/-- Waiting for a domain changes that domain beside what time does. -/
theorem Eng.Only.needOn (e : Eng) (d : Nat) (h0 : 0 ∈ us) (h12 : 12 ∈ us) (h15 : 15 ∈ us) (h17 : 17 ∈ us) :
    e.Only us offs (e.needOn d) := by
  have hregs : ∀ off sel, sel < 65536 → timeReg off = false → (e.needOn d).reg off sel = e.reg off sel := by
    intro o s hs ht
    have hw : ∀ x, ((e.wake d).advance x).reg o s = e.reg o s := by
      intro x
      rw [Eng.advance_reg _ _ _ _ hs ht]
      unfold Eng.wake
      dsimp only
      repeat' split
      all_goals rfl
    have hw0 : (e.wake d).reg o s = e.reg o s := by
      unfold Eng.wake
      dsimp only
      repeat' split
      all_goals rfl
    unfold Eng.needOn
    dsimp only
    split
    · exact hw _
    · exact hw0
  have h := e.needOn_rest d
  generalize e.needOn d = x at *
  refine ⟨fun u hu => ?_, fun o s hs _ ht hz => hregs o s hs (timeReg_of ht (fun c => hz c h0)), ⟨[], by rw [h]; rfl⟩⟩
  have a : u ≠ 0 := fun x => hu (x ▸ h0)
  have b : u ≠ 12 := fun x => hu (x ▸ h12)
  have c : u ≠ 17 := fun x => hu (x ▸ h17)
  have f : u ≠ 15 := fun x => hu (x ▸ h15)
  unfold Eng.partSame
  rw [h]
  clear h hregs
  split <;> simp_all

/-- A part listed is replaced, and nothing else. -/
theorem Eng.Only.of_parts {e e' : Eng} (hr : e'.regs = e.regs) (ho : e'.out = e.out) (hp : ∀ u, u ∉ us → e.partSame u e') :
    e.Only us offs e' :=
  ⟨hp, fun _ _ _ _ _ _ => by unfold Eng.reg; rw [hr], ⟨[], ho⟩⟩

end Sys2Proof.Machine
end

