-- ==== Sys2Proof/Laws/Regs.lean ====
section
/-!
SUPPORT. The laws of register writes: RWS writes, the words of one write, and held low words.
-/
namespace Sys2Proof.Machine

/-- An accepted write of an engine-wide RWS register: read back at once, in force later. -/
theorem Eng.rwsWrite_wide (e : Eng) {off sel : Nat} (w : Word) (h : keyInst (regKey off sel) = none) :
    e.rwsWrite off sel w = { e.putReg off sel w with pend := e.pend ++ [(regKey off sel, w, e.now)] } := by
  simp only [Eng.rwsWrite, h]; rfl

/-- A write of an RWS register of an instance's view: held while the instance's compose window is open. -/
theorem Eng.rwsWrite_inst (e : Eng) {off sel i : Nat} (w : Word) (h : keyInst (regKey off sel) = some i) :
    e.rwsWrite off sel w =
      if (e.inst i).win then { e.putReg off sel w with held := e.held ++ [(i, regKey off sel, w)] }
      else { e.putReg off sel w with pend := e.pend ++ [(regKey off sel, w, e.now)] } := by
  simp only [Eng.rwsWrite, h]; rfl

/-- Whatever its view, an RWS write reads back. -/
@[simp] theorem Eng.rwsWrite_reg (e : Eng) (off sel : Nat) (w : Word) : (e.rwsWrite off sel w).reg off sel = w := by
  cases h : keyInst (regKey off sel) with
  | none => rw [Eng.rwsWrite_wide e w h]; exact Eng.reg_putReg_same e off sel w
  | some i => rw [Eng.rwsWrite_inst e w h]; split <;> exact Eng.reg_putReg_same e off sel w

/-- The write of one register without RWS fields: its new word, and events. -/
theorem Eng.wordsWrite_one (e : Eng) (off0 off sel : Nat) (locked : Bool) (r : RegRow) (d : Word) (h : r.rws = 0) :
    (e.putReg off sel (e.wordAfter r off sel locked d)).Reports (e.wordsWrite off0 sel locked [(r, off, d)]) := by
  unfold Eng.wordsWrite
  simp only [List.foldl, List.any, Bool.or_false, h, if_true]
  split <;> split
  · exact (Eng.wwe_reports _ _).trans (Eng.wal_reports _ _)
  · exact Eng.wal_reports _ _
  · exact Eng.wwe_reports _ _
  · exact Eng.Reports.refl _

/-- The write of both registers of a pair without RWS fields. -/
theorem Eng.wordsWrite_two (e : Eng) (off0 o1 o2 sel : Nat) (locked : Bool) (r1 r2 : RegRow) (d1 d2 : Word)
    (h1 : r1.rws = 0) (h2 : r2.rws = 0) :
    let e1 := e.putReg o1 sel (e.wordAfter r1 o1 sel locked d1)
    (e1.putReg o2 sel (e1.wordAfter r2 o2 sel locked d2)).Reports (e.wordsWrite off0 sel locked [(r1, o1, d1), (r2, o2, d2)]) := by
  intro e1
  unfold Eng.wordsWrite
  simp only [List.foldl, List.any, Bool.or_false, h1, h2, if_true]
  split <;> split
  · exact (Eng.wwe_reports _ _).trans (Eng.wal_reports _ _)
  · exact Eng.wal_reports _ _
  · exact Eng.wwe_reports _ _
  · exact Eng.Reports.refl _

/-- The word of a register with RW fields only, none of which is kept. -/
theorem Eng.wordAfter_open (e : Eng) (r : RegRow) (off sel : Nat) (locked : Bool) (d : Word)
    (hk : e.rwHeld r off sel = 0) (hb : enBits off = 0) (hs : r.rws = 0) (hl : r.rwl = 0) (hc : r.w1c = 0) (ho : off ≠ 0x2004) :
    e.wordAfter r off sel locked d = (e.reg off sel &&& ~~~r.rw) ||| (d &&& r.rw) := by
  have z : ~~~(0 : Word) = BitVec.allOnes 32 := by decide
  have y : (0#32 : Word) = 0 := rfl
  simp only [Eng.wordAfter, capTaken, hk, hb, hs, hl, hc, ho, if_false, ite_self, z, BitVec.and_allOnes]
  simp

/-- Such a write of both registers of a pair raises no event. -/
theorem Eng.wordsWrite_pair (e : Eng) (off0 o1 o2 sel : Nat) (locked : Bool) (r1 r2 : RegRow) (d1 d2 : Word)
    (h1 : r1.rws = 0) (h2 : r2.rws = 0) (k1 : e.rwHeld r1 o1 sel = 0) (k2 : e.rwHeld r2 o2 sel = 0) (l1 : r1.rwl = 0) (l2 : r2.rwl = 0) :
    let e1 := e.putReg o1 sel (e.wordAfter r1 o1 sel locked d1)
    e.wordsWrite off0 sel locked [(r1, o1, d1), (r2, o2, d2)] = e1.putReg o2 sel (e1.wordAfter r2 o2 sel locked d2) := by
  intro e1
  unfold Eng.wordsWrite
  simp [List.foldl, List.any, h1, h2, Eng.wweDue, Eng.walDue, k1, k2, l1, l2, e1]

end Sys2Proof.Machine
end

