-- ==== Sys2Proof/Laws/Work.lean ====
section
/-!
SUPPORT. The laws of the Ledger's use of records, of packets and withdrawn moves, and of the work at a tick's end on an empty queue.
-/
namespace Sys2Proof.Machine

variable {us offs : List Nat}

/-- The Ledger's part replaced beside which nothing changes. -/
theorem Eng.Only.setLed (e : Eng) (x : Led) (h : 2 ∈ us) : e.Only us offs { e with led := x } :=
  .of_parts rfl rfl (fun u hu => by unfold Eng.partSame; split <;> simp_all)

/-- The Composer's part replaced beside which nothing changes. -/
theorem Eng.Only.setCmp (e : Eng) (x : Cmp) (h : 4 ∈ us) : e.Only us offs { e with cmp := x } :=
  .of_parts rfl rfl (fun u hu => by unfold Eng.partSame; split <;> simp_all)

/-- A domain that is woken changes the domains and nothing else. -/
theorem Eng.Only.wake (e : Eng) (d : Nat) (h : 15 ∈ us) : e.Only us offs (e.wake d) := by
  unfold Eng.wake
  dsimp only
  repeat' split
  all_goals
    first
    | exact .refl e
    | exact .of_parts rfl rfl (fun u hu => by unfold Eng.partSame; split <;> simp_all [Eng.setDom])

/-- The use of a record wakes its bank (R128, R565) and moves it within the hot ones (R129); nothing else changes. -/
theorem Eng.Only.recUse (e : Eng) (s : Nat) (h2 : 2 ∈ us) (h15 : 15 ∈ us) : e.Only us offs (e.recUse s) := by
  have hw : e.Only us offs (if e.fb F.LED_CTL_EN then e.wake (1 + s % 4) else e) := .ite (fun _ => .wake e _ h15) (fun _ => .refl e)
  unfold Eng.recUse
  dsimp only
  generalize (if e.fb F.LED_CTL_EN = true then e.wake (1 + s % 4) else e) = x at *
  split
  · exact hw.trans (.setLed _ _ h2)
  · exact hw

/-- A domain that is woken leaves the Ledger. -/
@[simp] theorem Eng.wake_led (e : Eng) (d : Nat) : (e.wake d).led = e.led := by
  unfold Eng.wake
  dsimp only
  repeat' split
  all_goals rfl

/-- The use of a record makes no record hot and none cold. -/
theorem Eng.mem_recUse_hot (e : Eng) (s x : Nat) : x ∈ (e.recUse s).led.hot ↔ x ∈ e.led.hot := by
  have hw : (if e.fb F.LED_CTL_EN then e.wake (1 + s % 4) else e).led = e.led := by split <;> simp
  unfold Eng.recUse
  dsimp only
  rw [hw]
  generalize (if e.fb F.LED_CTL_EN = true then e.wake (1 + s % 4) else e) = y at *
  split
  · next h =>
    simp only [List.mem_cons, List.mem_filter, decide_eq_true_eq]
    exact ⟨fun k => k.elim (fun y => y ▸ (by simpa using h)) And.left, fun k => (em (x = s)).imp_right (fun y => ⟨k, y⟩)⟩
  · rw [hw]

/-- The record used is the most recently used of the hot ones, if it is one of them (R129). -/
theorem Eng.recUse_first (e : Eng) (s : Nat) (h : s ∈ e.led.hot) : (e.recUse s).led.hot.head? = some s := by
  have hw : (if e.fb F.LED_CTL_EN then e.wake (1 + s % 4) else e).led = e.led := by split <;> simp
  unfold Eng.recUse
  dsimp only
  rw [hw]
  simp [h]

/-- A packet built changes the packet buffers and is sent to the array (R208). -/
theorem Eng.Only.putPacket (e : Eng) (i step : Nat) (p : Packet) (h : 4 ∈ us) : e.Only us offs (e.putPacket i step p) :=
  .trans (.setCmp e _ h) (.tell _ _)

/-- The packet last built of an instance in a buffer is the one read there (R208). -/
theorem Eng.putPacket_get (e : Eng) (i step : Nat) (p : Packet) :
    tget (e.putPacket i step p).cmp.packets (2 * i + step % 2) = some p := by
  simp [Eng.putPacket, Eng.tell, Eng.emit]

/-- A queued move withdrawn changes the groups, and the pins of slots that named one that is gone (R286, R287). -/
theorem Eng.Only.moveWithdrawn (e : Eng) (b : Nat) (h : 6 ∈ us) (h4 : 4 ∈ us) : e.Only us offs (e.moveWithdrawn b) := by
  unfold Eng.moveWithdrawn
  repeat' split
  all_goals
    first
    | exact .refl e
    | exact .of_parts rfl rfl (fun u hu => by unfold Eng.partSame; split <;> simp_all [Eng.freeGrp, Eng.setGrp, Eng.recallAll, Eng.unpinLost])

/-- A RELEASED group whose queued move is withdrawn is gone, and any other one is LIVE again (R286, R287). -/
theorem Eng.moveWithdrawn_grp (e : Eng) (b : Nat) (g : Grp) (h : e.grp b = some g) :
    (e.moveWithdrawn b).grp b = if g.state = 3 then none else some { g with state := 1, retried := false } := by
  unfold Eng.moveWithdrawn
  rw [h]
  dsimp only
  split <;> simp [Eng.grp, Eng.freeGrp, Eng.setGrp, Eng.recallAll, Eng.unpinLost, *]

/-- Without a RESUME to follow up nothing goes on (R613, R628). -/
@[simp] theorem Eng.afterResume_none (e : Eng) (h : e.dbg.resumed = none) : e.afterResume = e := by
  unfold Eng.afterResume
  rw [h]

/-- What a RESUME lets go on waits for its tick to be over (R628). -/
theorem Eng.afterResume_wait (e : Eng) (t : Nat) (h : e.dbg.resumed = some t) (k : e.now ≤ t) : e.afterResume = e := by
  unfold Eng.afterResume
  simp [h, k]

/-- An order is not resolved in the tick of its stamp (R116). -/
theorem Eng.ordReady_stamp (e : Eng) (o : Order) (h : e.ordReady o = true) : o.stamp < e.now := by
  simp only [Eng.ordReady, Bool.and_eq_true, decide_eq_true_eq] at h
  exact h.1.1

end Sys2Proof.Machine
end

