-- ==== Sys2Proof/Machine/Port.lean ====
section
/-!
DEFINITION. The debug port as its TAP sees it (spec/19_counters_trace_debug.md R606 to R609): the 120-bit word that Update-DR issues, the command
that it names, and what Capture-DR and DSL_STAT load.
-/
namespace Sys2Proof.Machine

/-- The fields of a word shifted into DSL_CMD (R606). -/
structure PortWord where
  op : Nat
  space : Nat
  addr : Nat
  data : DWord
deriving DecidableEq, Repr

/-- Read a word shifted in. -/
def portWordOf (w : BitVec 120) : PortWord :=
  { op := w.toNat % 2 ^ 8, space := w.toNat / 2 ^ 8 % 2 ^ 8, addr := w.toNat / 2 ^ 16 % 2 ^ 40, data := BitVec.ofNat 64 (w.toNat / 2 ^ 56) }

/-- The command that a word names (R608); none for an OP that is not listed. -/
def PortWord.command (p : PortWord) : Option Instr :=
  match p.op with
  | 0x01 => some .dbgOpen
  | 0x02 => some .dbgClose
  | 0x03 => some (if bitOf p.addr 0 then .haltSteward else .haltEngine)
  | 0x04 => some (if bitOf p.addr 0 then .resumeSteward else .resumeEngine)
  | 0x05 => some .dbgStep
  | 0x06 => some (.brkCfg p.addr)
  | 0x07 => some (.brkVal p.addr p.data)
  | 0x08 => some (.dbgRead p.space p.addr)
  | 0x09 => some (.dbgWrite p.space p.addr p.data)
  | 0x0A => some (.dbgWriteRaw p.space p.addr p.data)
  | 0x0F => some (.dbgReset p.data)
  | _ => none

/-- The ADDR of the command reported is the word's (R606), also where the command has no use for it. -/
def State.portAddr (s : State) (p : PortWord) : State :=
  if s.eng.dbg.capOp = p.op then { s with eng := { s.eng with dbg := { s.eng.dbg with capAddr := p.addr } } } else s

/-- Update-DR issues the command that a word names; BAD_OP for an OP that is not listed, and LOCKED or BUSY before that (R606 to R609). -/
def updateDr (w : BitVec 120) (s : State) : Host.Outcome State Fault Refusal :=
  let p := portWordOf w
  match p.command with
  | none => portOpen p.op p.addr s (fun e => e.captured p.op p.addr 2 0)
  | some c =>
    match exec c s with
    | .next t => .next (t.portAddr p)
    | x => x

/-- What Capture-DR loads: the STATUS, OP, ADDR and data of the last command (R606). -/
def Eng.captureDr (e : Eng) : BitVec 120 :=
  BitVec.ofNat 120 (e.dbg.capStatus % 2 ^ 8 + 2 ^ 8 * (e.dbg.capOp % 2 ^ 8) + 2 ^ 16 * (e.dbg.capAddr % 2 ^ 40) + 2 ^ 56 * (e.dbg.capData % 2 ^ 64))

/-- What DSL_STAT captures: DBG_STATUS (R606). -/
def State.captureStat (s : State) : Word := wordAtOff s.boot s.eng 0x11004

end Sys2Proof.Machine
end

