-- ==== Sys2Proof/Machine/Records.lean ====
section
/-!
DEFINITION. The bytes that the engine's records have in memory and where they lie: the rings of spec/03 R76 to R78, the log-probability
entries of spec/09 R367, the row-control area of R337, and the rings of Bins (spec/12 R441), of Keeper (spec/13 R469, spec/15 R517)
and of the decision trace (spec/19 R604).
-/
namespace Sys2Proof.Machine

/-- A write to memory: host memory or Store, the byte address, the number of bytes, and their little-endian value. -/
structure MemWrite where
  host : Bool
  addr : Nat
  size : Nat
  value : Nat
deriving DecidableEq, Repr

/-- A record of the Bins trace (R441). -/
def binTraceBits (stamp kind core : Nat) (coreV : Bool) (wait : Nat) (b : BinEnt) : Nat :=
  putFields
    [(0, 63, 0, stamp), (8, 3, 0, kind), (8, 9, 4, b.level), (8, 15, 10, b.pid), (8, 22, 16, if coreV then core else 0),
     (8, 23, 23, b2n coreV), (8, 27, 24, b.inst), (8, 31, 28, b.epoch)]
  + putFields [(0xC, 31, 0, b.seq), (0x10, 31, 0, b.opid), (0x14, 15, 0, b.step), (0x16, 15, 0, wait), (0x18, 63, 0, b.arg)]

/-- A record of the slowdown block of interval `n` (R469): A, C, B, SLOW and the partition. -/
def slowBits (n : Nat) (x : Nat × Nat × Nat × Nat × Nat) : Nat :=
  putFields
    [(0, 31, 0, x.1), (4, 31, 0, x.2.1), (8, 31, 0, x.2.2.1), (0xC, 15, 0, x.2.2.2.1), (0xE, 5, 0, x.2.2.2.2), (0xF, 7, 0, n % 256)]

/-- Equal items of `size` bytes laid out one after another. -/
def laidOut (size : Nat) (l : List Nat) : Nat :=
  sumBy (fun (p : Nat × Nat) => p.2 * 2 ^ (8 * size * p.1)) ((List.range l.length).zip l)

/-- A partition record (R518). -/
def acctPartBits (pid span first close : Nat) (vals : List Nat) : Nat :=
  putFields [(0, 3, 0, 1), (1, 5, 0, pid), (2, 15, 0, span), (4, 31, 0, first % two32), (8, 63, 0, close)]
  + laidOut 8 ((vals.take 6).map (fun v => v % 2 ^ 64)) * 2 ^ 128

/-- A request record (R519): ENGINE_NS, TOKENS, PREFIX, and the four figures that follow. -/
def acctReqBits (pid gen rqid tag : Nat) (vals : List Nat) : Nat :=
  putFields
    [(0, 3, 0, 2), (1, 5, 0, pid), (2, 15, 0, gen), (4, 31, 0, rqid), (8, 63, 0, tag), (0x10, 63, 0, vals.getD 0 0 % 2 ^ 64),
     (0x18, 31, 0, vals.getD 1 0 % two32), (0x1C, 31, 0, vals.getD 2 0 % two32)]
  + laidOut 8 (((vals.drop 3).take 4).map (fun v => v % 2 ^ 64)) * 2 ^ 256

/-- Bytes of an entry of a ring by its kind: submission, completion, event (R76). -/
def ringEntry (kind : Nat) : Nat := if kind = 0 then 128 else if kind = 1 then 64 else 32

/-- Host address of the entry at position `p` of a ring (R76, R77). -/
def Eng.ringAddr (e : Eng) (r p : Nat) : Nat := e.pairv 0x1044 r + p % e.ringDepth r * ringEntry (e.ringKind r)

/-- Host address of a ring's pointer line (R76, R78). -/
def Eng.pointerAddr (e : Eng) (r : Nat) : Nat := e.pairv 0x1044 r + e.ringDepth r * ringEntry (e.ringKind r)

/-- A ring's record in two posted writes: bytes 0x08 on first, bytes 0x00 to 0x07 after them (R105, R109). -/
def twoWrites (addr size value : Nat) : List MemWrite :=
  [{ host := true, addr := addr + 8, size := size - 8, value := value / 2 ^ 64 }, { host := true, addr, size := 8, value := value % 2 ^ 64 }]

/-- What a record writes to memory, oldest first: host memory for the rings of Hatch and log-probabilities, Store for the others.
Outputs that are no memory record write nothing. A record in the overflow area has PHASE 0: it is set where a ring takes the record (R112). -/
def Eng.written (e : Eng) (o : Out) : List MemWrite :=
  match o with
  | .completion r p ph v => twoWrites (e.ringAddr r p) 64 (v.bits ph)
  | .overflow a v => [{ host := false, addr := a, size := 64, value := v.bits 0 }]
  | .event r p ph lost v => twoWrites (e.ringAddr r p) 32 (v.bits ph lost)
  | .pointerLine r c => [{ host := true, addr := e.pointerAddr r, size := 64, value := c % two32 }]
  | .logprob a w => [{ host := true, addr := a, size := 4 * w.length, value := laidOut 4 (w.map (fun x => x.toNat)) }]
  | .trace i r => [{ host := false, addr := e.pairv 0x10010 + 32 * i, size := 32, value := r.bits }]
  | .binTrace i t k c cv w b => [{ host := false, addr := e.pairv 0xB060 + 32 * i, size := 32, value := binTraceBits t k c cv w b }]
  | .slowBlock n l =>
    [{ host := false, addr := e.pairv 0xC08C + n % 2 ^ max 4 (min 20 (e.fv F.KPR_SLOW_CFG_LOG2_BLOCKS)) * 1024, size := 1024,
       value := laidOut 16 (l.map (slowBits n)) }]
  | .acctPart i p sp f c v => [{ host := false, addr := e.pairv 0xC260 + 64 * i, size := 64, value := acctPartBits p sp f c v }]
  | .acctReq i p g q t v => [{ host := false, addr := e.pairv 0xC260 + 64 * i, size := 64, value := acctReqBits p g q t v }]
  | .rowControl a c => [{ host := false, addr := a, size := 32, value := c.bits }]
  | _ => []

end Sys2Proof.Machine
end

