-- ==== Sys2Proof/WellFormed.lean ====
section
/-!
DEFINITION. The operand ranges of the commands: what the spec's numbering admits (spec/00_scope.md R14, spec/20_register_map.md R616).
A command outside them names nothing of the engine and its meaning leaves the state as it is or takes the rule for an
unlisted item.
-/
namespace Sys2Proof

/-- Whether the operands of a command lie in their ranges. -/
def Instr.wf (i : Instr) : Bool :=
  match i with
  | .registerWrite off size _ => decide (off < 0x20000) && decide (size = 1 ∨ size = 2 ∨ size = 4 ∨ size = 8)
  | .badAccess off size _ => decide (off < 0x20000) && decide (size = 1 ∨ size = 2 ∨ size = 4 ∨ size = 8)
  | .pairLowRead off size => decide (off < 0x20000) && decide (size = 1 ∨ size = 2 ∨ size = 4 ∨ size = 8)
  | .pairHighWrite off _ => decide (off < 0x20000)
  | .idleEdge => true
  | .stepEdge inst => decide (inst < 16)
  | .queuedDeadlineCheck => true
  | .deadlineFirstPass slot => decide (slot < 0x400000)
  | .cstFrameBoundary => true
  | .cstSlotStart => true
  | .cstEntryCommit _ => true
  | .edgeLeadWrite n _ => decide (n < 16)
  | .ringCfgWrite _ => true
  | .doorbellSnoop ring count => decide (ring < 256) && decide (count < 4294967296)
  | .doorbellPoll _ => true
  | .hatDbwin ring count => decide (ring < 256) && decide (count < 4294967296)
  | .submit _ _ _ _ => true
  | .admitOrder _ => true
  | .resume _ => true
  | .modify _ => true
  | .preempt _ => true
  | .cancel _ => true
  | .loadModel _ _ _ (.lead _) => true
  | .loadModel _ _ _ (.part p) =>
    decide (p.chip < 64) && decide (p.inst < 16) && decide (p.owner < 64) && p.chips.all (fun c => decide (c < 64))
  | .unloadModel (.fetched _) => true
  | .unloadModel (.byLead c i) => decide (c < 64) && decide (i < 16)
  | .nop _ => true
  | .headAdvance ring => decide (ring < 256)
  | .overflowDrain ring => decide (ring < 256)
  | .helloGo _ => true
  | .recordFill slot => decide (slot < 0x400000)
  | .slotRelease slot => decide (slot < 0x400000)
  | .ledgerPeek _ => true
  | .admissionBucketRefill => true
  | .prefixMatch slot => decide (slot < 0x400000)
  | .instanceTrigger inst => decide (inst < 16)
  | .arrayStepDone inst => decide (inst < 16)
  | .composeStart => true
  | .cycleLimit => true
  | .nopScalar _ => true
  | .sAdd _ _ _ _ _ _ => true
  | .sSub _ _ _ _ _ _ => true
  | .sAnd _ _ _ _ _ _ => true
  | .sOr _ _ _ _ _ _ => true
  | .sXor _ _ _ _ _ _ => true
  | .sShl _ _ _ _ _ _ => true
  | .sShr _ _ _ _ _ _ => true
  | .sMul _ _ _ _ _ _ => true
  | .sMin _ _ _ _ _ _ => true
  | .sMax _ _ _ _ _ _ => true
  | .sMinu _ _ _ _ _ _ => true
  | .sMaxu _ _ _ _ _ _ => true
  | .sAddi _ _ _ _ _ _ => true
  | .sAndi _ _ _ _ _ _ => true
  | .sOri _ _ _ _ _ _ => true
  | .sShli _ _ _ _ _ _ => true
  | .sShri _ _ _ _ _ _ => true
  | .sLi _ _ _ _ _ => true
  | .sCeq _ _ _ _ _ _ => true
  | .sClt _ _ _ _ _ _ => true
  | .sCltu _ _ _ _ _ _ => true
  | .sCeqi _ _ _ _ _ _ => true
  | .sClti _ _ _ _ _ _ => true
  | .sPcnt _ _ _ _ _ => true
  | .sPand _ _ _ _ _ _ => true
  | .sPnot _ _ _ _ _ => true
  | .sGetc _ _ _ _ _ => true
  | .sSetc _ _ _ _ => true
  | .sLd _ _ _ _ _ => true
  | .sSt _ _ _ _ _ => true
  | .sBr _ _ _ => true
  | .sBrz _ _ _ _ => true
  | .sBrnz _ _ _ _ => true
  | .sEnd _ _ => true
  | .wideNop => true
  | .wAdd _ _ _ _ _ => true
  | .wSub _ _ _ _ _ => true
  | .wAnd _ _ _ _ _ => true
  | .wOr _ _ _ _ _ => true
  | .wMin _ _ _ _ _ => true
  | .wMax _ _ _ _ _ => true
  | .wMinu _ _ _ _ _ => true
  | .wMaxu _ _ _ _ _ => true
  | .wMul _ _ _ _ _ => true
  | .wShli _ _ _ _ _ => true
  | .wShri _ _ _ _ _ => true
  | .wMov _ _ _ _ => true
  | .wBc _ _ _ _ => true
  | .wLi _ _ _ _ => true
  | .wGet _ _ _ => true
  | .wCeq _ _ _ _ _ => true
  | .wClt _ _ _ _ _ => true
  | .wCltu _ _ _ _ _ => true
  | .wBit _ _ _ _ _ => true
  | .wSum _ _ _ _ => true
  | .wSort _ _ _ _ _ _ => true
  | .kBegin _ _ _ => true
  | .kSel _ _ _ _ => true
  | .lScan _ _ _ _ => true
  | .lFld _ _ _ _ _ => true
  | .wFit _ _ _ _ _ _ => true
  | .append _ _ _ _ _ => true
  | .stepEmit inst => decide (inst < 16)
  | .epochDrained inst => decide (inst < 16)
  | .arrayConfigLoaded inst _ _ => decide (inst < 16)
  | .arrayConfigFailed inst => decide (inst < 16)
  | .programLoad _ => true
  | .programLoadEnd _ _ => true
  | .stwViewWrite off size _ => decide (off < 0x20000) && decide (size = 1 ∨ size = 2 ∨ size = 4 ∨ size = 8)
  | .cmpPartProgWrite _ => true
  | .pieceStart => true
  | .pieceDone pipe error _ => decide (pipe < 4) && decide (error < 3)
  | .oldFramesFreed _ => true
  | .cellarStreamGrant inst => decide (inst < 16)
  | .logitRow _ _ _ _ => true
  | .rowControlJoin inst slot => decide (inst < 16) && decide (slot < 16384)
  | .dataTimerExpiry inst slot => decide (inst < 16) && decide (slot < 16384)
  | .stepTimerExpiry inst => decide (inst < 16)
  | .rowSampled inst slot row => decide (inst < 16) && decide (slot < 16384) && decide (row < 65)
  | .slotCommit inst slot _ _ _ => decide (inst < 16) && decide (slot < 16384)
  | .spareLaneInService lane => decide (lane < 68)
  | .maskPageFetch gid _ _ => decide (gid < 65536)
  | .grammarInstall _ => true
  | .grammarInstallEnd _ _ _ => true
  | .grammarRemove _ => true
  | .jumpDone => true
  | .serviceRequest _ => true
  | .rsuProbe _ => true
  | .binPush _ => true
  | .take core => decide (core < 128)
  | .done core => decide (core < 128)
  | .holdBeat core => decide (core < 128)
  | .takeTimeout core => decide (core < 128)
  | .affRelease => true
  | .noDispatcher core => decide (core < 128)
  | .refill => true
  | .activityPoint => true
  | .regulatorRefill => true
  | .acctIntervalClose => true
  | .sliceEnd pid => decide (pid < 64)
  | .partitionCtlWrite _ => true
  | .tilesWrite _ => true
  | .rafResvWrite _ => true
  | .saveDrain _ inst => decide (inst < 16)
  | .saveFreeze _ inst => decide (inst < 16)
  | .freezeHalt inst => decide (inst < 16)
  | .saveComplete saved => decide (saved.inst < 16)
  | .restore _ inst _ => decide (inst < 16)
  | .restoreComplete inst => decide (inst < 16)
  | .discard _ _ => true
  | .acquire sem inst => decide (sem < 64) && decide (inst < 16)
  | .release sem inst => decide (sem < 64) && decide (inst < 16)
  | .donationLong sem => decide (sem < 64)
  | .blockWindowExpiry => true
  | .leaveWindowStart _ => true
  | .leaveStart => true
  | .leaveWaitExpiry => true
  | .laneTrained lane => decide (lane < 12)
  | .laneTrainTimeout lane => decide (lane < 12)
  | .identTimeout lane => decide (lane < 12)
  | .identResend lane => decide (lane < 12)
  | .fecLockLoss lane => decide (lane < 12)
  | .linkSilence link => decide (link < 9)
  | .spareJoin lane => decide (lane < 12)
  | .ident lane _ => decide (lane < 12)
  | .syncSend => true
  | .sync lane _ => decide (lane < 12)
  | .syncReply lane _ => decide (lane < 12)
  | .tallyParentTimeout => true
  | .holdoverBoundRise => true
  | .credit link _ => decide (link < 9)
  | .creditReq link _ => decide (link < 9)
  | .creditReturn link _ => decide (link < 9)
  | .peerLost link _ => decide (link < 9)
  | .stepBcast link _ => decide (link < 9)
  | .stepLate link _ => decide (link < 9)
  | .stepAbort link _ => decide (link < 9)
  | .freeze link _ => decide (link < 9)
  | .shelver link _ => decide (link < 9)
  | .mirror link _ => decide (link < 9)
  | .mirrorAck link _ => decide (link < 9)
  | .order link _ => decide (link < 9)
  | .superseded link _ => decide (link < 9)
  | .orderReply link _ => decide (link < 9)
  | .mapLoad _ => true
  | .mapLoadEnd _ _ => true
  | .buddyTimeout _ => true
  | .powerOn => true
  | .chip => true
  | .driverReset _ => true
  | .unitReset _ => true
  | .resetKeyBad _ => true
  | .clock => true
  | .resetRelease => true
  | .tallyCopy => true
  | .imageLoad _ => true
  | .imageLoadEnd _ _ _ _ => true
  | .glbInit _ => true
  | .initDone => true
  | .glbLock _ => true
  | .domainWakeDone dom => decide (dom < 99)
  | .domainIdleGate dom => decide (dom < 99)
  | .ledgerBankRetain bank => decide (bank < 4)
  | .fault _ => true
  | .quiesceWaitExpiry => true
  | .pop _ => true
  | .takeover _ _ => true
  | .cntSelWrite n _ => decide (n < 64)
  | .clear _ => true
  | .cntFreezeAt => true
  | .dbgOpen => true
  | .dbgClose => true
  | .haltEngine => true
  | .haltSteward => true
  | .resumeEngine => true
  | .resumeSteward => true
  | .dbgStep => true
  | .brkCfg _ => true
  | .brkVal _ _ => true
  | .dbgRead space _ => decide (space < 256)
  | .dbgWrite space _ _ => decide (space < 256)
  | .dbgWriteRaw space _ _ => decide (space < 256)
  | .dbgReset _ => true
  | .breakpointHit brk => decide (brk < 4)

/-- The well-formed commands. -/
abbrev WellFormed (i : Instr) : Prop := i.wf = true

end Sys2Proof
end

