-- ==== Sys2Proof/Tests/Slice0.lean ====
section
/-!
SUPPORT. Small tests: an ill-formed command for each check of WellFormed, a few single steps, and states that meet the hypotheses of the
statements. Expected results are worked out by hand from the rules of spec/ that the meanings cite.
-/
open Sys2Proof Sys2Proof.Machine

set_option maxRecDepth 100000
set_option Elab.async false
set_option exponentiation.threshold 4096

namespace Sys2Proof.Tests

/-! ### Small states -/

/-- A state in service: bring-up flags as after reset, nothing waiting. -/
def on (e : Eng) : State := { boot := {}, eng := e, pending := [] }

/-- The engine right after reset. -/
def e0 : Eng := Eng.reset 0

/-- Fields of registers set: field, selected copy, value. -/
def put (l : List (Fld × Nat × Nat)) (e : Eng) : Eng := l.foldl (fun e x => e.poke x.1 x.2.2 x.2.1) e

/-- Fields of registers in force. -/
def force (l : List (Fld × Nat × Nat)) (e : Eng) : Eng :=
  l.foldl (fun e x =>
    let k := regKey x.1.off x.2.1
    { e with act := tput e.act k (setBits (tgetD e.act k (rstWord x.1.off)) x.1.hi x.1.lo x.2.2) }) e

/-- Power domains ON. -/
def doms (l : List Nat) (e : Eng) : Eng := l.foldl (fun e d => e.setDom d { st := 2 }) e

/-- A next state. -/
def nextOf (o : Host.Outcome State Fault Refusal) : State :=
  match o with
  | .next t => t
  | _ => State.reset

/-- The end of the present tick leaves an engine as it is, with nothing for the next one and no breakpoint of type TALLY ahead. -/
def settled (e : Eng) : Bool :=
  decide (e.tickLeft = e) && !e.owesNext && e.dbg.brks.all (fun p => !decide (p.2.typ = 1 ∧ e.now < p.2.val))
theorem settled_spec (s : State) (h : settled s.eng = true) : s.Settled := by
  simp only [settled, Bool.and_eq_true, decide_eq_true_eq, Bool.not_eq_true', List.all_eq_true, decide_eq_false_iff_not] at h
  obtain ⟨⟨h1, h2⟩, h3⟩ := h
  refine ⟨h1, fun t => ?_⟩
  have : s.eng.dbg.brks.filterMap (fun p => if p.2.typ = 1 ∧ s.eng.now < p.2.val ∧ p.2.val < t then some p.2.val else none) = [] := by
    rw [List.filterMap_eq_nil_iff]
    intro p hp
    exact if_neg (fun ⟨a, b, _⟩ => h3 p hp ⟨a, b⟩)
  simp [Eng.nextStop, h2, Eng.brkNext, this, leastBy]

/-! ### Ill-formed commands -/

theorem test_wf_registers : ∀ i ∈ [Instr.registerWrite 0x20000 4 0, .registerWrite 0 3 0, .badAccess 0x20000 4 true, .badAccess 0 3 true,
    .pairLowRead 0x20000 4, .pairLowRead 0 16, .pairHighWrite 0x20000 0, .stwViewWrite 0x20000 4 0, .stwViewWrite 0x18000 3 0,
    .edgeLeadWrite 16 0, .cntSelWrite 64 0], i.wf = false := by decide
theorem test_wf_rings : ∀ i ∈ [Instr.doorbellSnoop 256 0, .doorbellSnoop 0 4294967296, .hatDbwin 256 0, .hatDbwin 0 4294967296,
    .headAdvance 256, .overflowDrain 256], i.wf = false := by decide
theorem test_wf_slots : ∀ i ∈ [Instr.deadlineFirstPass 0x400000, .recordFill 0x400000, .slotRelease 0x400000, .prefixMatch 0x400000],
    i.wf = false := by decide
theorem test_wf_instances : ∀ i ∈ [Instr.stepEdge 16, .instanceTrigger 16, .arrayStepDone 16, .stepEmit 16, .epochDrained 16,
    .arrayConfigLoaded 16 0 [], .arrayConfigFailed 16, .cellarStreamGrant 16, .stepTimerExpiry 16, .saveDrain none 16, .saveFreeze none 16,
    .freezeHalt 16, .saveComplete { inst := 16, shapes := [] }, .restore none 16 { image := none, shapes := [] }, .restoreComplete 16], i.wf = false := by decide
theorem test_wf_sampler : ∀ i ∈ [Instr.rowControlJoin 16 0, .rowControlJoin 0 16384, .dataTimerExpiry 16 0, .dataTimerExpiry 0 16384,
    .rowSampled 16 0 0, .rowSampled 0 16384 0, .rowSampled 0 0 65, .slotCommit 16 0 0 [] [], .slotCommit 0 16384 0 [] [],
    .spareLaneInService 68, .maskPageFetch 65536 0 0, .pieceDone 4 0 [], .pieceDone 0 3 []], i.wf = false := by decide
theorem test_wf_cores : ∀ i ∈ [Instr.take 128, .done 128, .holdBeat 128, .takeTimeout 128, .noDispatcher 128], i.wf = false := by decide
theorem test_wf_keeper : ∀ i ∈ [Instr.sliceEnd 64, .acquire 64 0, .acquire 0 16, .release 64 0, .release 0 16, .donationLong 64],
    i.wf = false := by decide
/-- A frame with an empty header. -/
def fr0 : RxFrame := { hdr := 0, payload := [], crc := 0, arrival := 0 }
theorem test_wf_lanes : ∀ i ∈ [Instr.laneTrained 12, .laneTrainTimeout 12, .identTimeout 12, .identResend 12, .fecLockLoss 12, .linkSilence 9,
    .spareJoin 12, .ident 12 fr0, .sync 12 fr0, .syncReply 12 fr0, .credit 9 fr0, .creditReq 9 fr0, .creditReturn 9 fr0, .peerLost 9 fr0,
    .stepBcast 9 fr0, .stepLate 9 fr0, .stepAbort 9 fr0, .freeze 9 fr0, .shelver 9 fr0, .mirror 9 fr0, .mirrorAck 9 fr0, .order 9 fr0,
    .superseded 9 fr0, .orderReply 9 fr0], i.wf = false := by decide
theorem test_wf_domains : ∀ i ∈ [Instr.domainWakeDone 99, .domainIdleGate 99, .ledgerBankRetain 4, .dbgRead 256 0, .dbgWrite 256 0 0,
    .dbgWriteRaw 256 0 0, .breakpointHit 4], i.wf = false := by decide
theorem test_wf_last : ∀ i ∈ [Instr.registerWrite 0x1FFFC 4 0, .stepEdge 15, .deadlineFirstPass 0x3FFFFF, .hatDbwin 255 4294967295,
    .rowSampled 15 16383 64, .take 127, .laneTrained 11, .credit 8 fr0, .domainWakeDone 98, .breakpointHit 3], i.wf = true := by decide

/-! ### The block as a whole -/

theorem test_power_on : (nextOf (exec .powerOn State.reset)).boot.absent = true := by decide
theorem test_reset_release : (nextOf (exec .resetRelease (nextOf (exec .chip State.reset)))).boot.cause = 2 := by decide
theorem test_queue : (nextOf (step { State.reset with pending := [.powerOn, .chip] })).pending = [.chip] := by decide
theorem test_idle : (nextOf (step State.reset)).pending = [] := by decide
theorem test_no_word_spells_a_command (n w : Nat) : decodeTableWord n w = none := rfl

/-! ### States that meet the statements: bring-up and registers -/

theorem meets_EveryCommandCompletes_last_index (g : BitVec 3) (gn : Bool) (a idx : BitVec 5) (h : Instr.sSetc 0 false 0 20 = .sSetc g gn a idx) :
    idx.toNat ≤ 20 := by cases h; decide
theorem meets_EveryCommandCompletes_last_mode (g : BitVec 3) (gn : Bool) (imm : BitVec 16) (h : Instr.kBegin 0 false 1 = .kBegin g gn imm) :
    imm.toNat ≤ 1 := by cases h; decide
theorem meets_EveryCommandCompletes_absent : (nextOf (exec .powerOn State.reset)).issues = false := by decide

theorem meets_Dated : let s := on { e0 with now := 1 }
    Instr.idleEdge.dated = true ∧ s.boot.absent = false ∧ s.eng.now < (nextOf (exec .idleEdge s)).eng.now ∧ settled s.tickLeft.eng = true := by
  decide +kernel
theorem meets_Dated_step : let s := on { e0 with tal := { acc := accTick - 1 } }
    s.pending = [] ∧ s.eng.pcNext = none ∧ s.eng.limitDue = false ∧ s.eng.issueNow = none ∧ s.eng.now < (s.eng.cycles 1).now ∧
      settled s.tickLeft.eng = true ∧ s.tickLeft.eng.now = s.eng.now := by decide +kernel

/-- The sequencer in stage 1, an image load going on. -/
def b1 : Boot := { imgBusy := true }
/-- The sequencer in stage 2, clearing. -/
def b2 : Boot := { stage := 2, offline := false, initBusy := true }
/-- The sequencer in stage 3. -/
def b3 : Boot := { stage := 3, offline := false, initDone := true }

theorem meets_StepKeepsBringUp : b2.Good :=
  ⟨by decide, by decide, by decide, by decide, by decide, by decide⟩
theorem meets_StepKeepsBringUp_next : (nextOf (step { on e0 with boot := b2, pending := [.initDone] })).boot.stage = 3 := by decide
theorem meets_StageMoves_release :
    (nextOf (exec .resetRelease { on e0 with boot := { b3 with absent := true } })).boot.stage = 1 := by decide
theorem meets_StageMoves_lock : (nextOf (exec (.registerWrite 8 4 1) { on e0 with boot := b3 })).boot.stage = 4 := by decide
theorem meets_AbsentEngine :
    (nextOf (exec (.acquire 0 0) { on e0 with boot := { absent := true } })).eng.out = [.array .engineAbsent] := by decide
theorem meets_AbsentEngine_take :
    (nextOf (exec (.take 127) { on e0 with boot := { absent := true } })).boot.takes = [{ core := 127, since := 0, lastBeat := 0 }] := by decide

theorem meets_BadAccess_size : (on e0).boot.absent = false ∧ (3 ≠ 4 ∧ 3 ≠ 8) := by decide
theorem meets_BadAccess_align : (on e0).boot.absent = false ∧ (6 % 4 ≠ 0 ∨ (8 = 8 ∧ 4 % 8 ≠ 0)) := by decide
theorem meets_BadAccess_window : (0x1C000 : Nat) ≤ 0x1C000 % 2 ^ 17 ∧ ¬ 0x1C000 ≤ 0x1BFFF % 2 ^ 17 ∧
    (0x18000 : Nat) ≤ 0x1BFFF % 2 ^ 17 ∧ ¬ 0x18000 ≤ 0x17FFF % 2 ^ 17 ∧ 0x1C001 % 4 ≠ 0 := by decide
/-- The conditions of RegisterWriteByAccessType on an engine. -/
def writable (e : Eng) (off : Nat) (data : DWord) : Bool :=
  decide (off < 0x18000 ∧ off % 4 = 0 ∧ off % 0x1000 ≠ 0 ∧ off ∉ ([0x40, 0x2004, 0x3084, 0xE020, 0xF080, 0xF098] : List Nat)) && !tallyReg off &&
    (ownRow off (data.setWidth 32) (on e)).isNone && (pairOf off).isNone &&
    (match regRow off with
     | some (r, _) => selNames r.sel (e.selOf r.sel) && decide ((r.rw ||| r.rws ||| r.rwl) &&& r.w1c = 0)
     | none => false)
theorem meets_RegisterWrite_rw : writable e0 0xA060 0xFFFFFFFFFFFFFFFF = true := by decide
theorem meets_RegisterWrite_rwl : writable e0 0xC204 0xFFFFFFFFFFFFFFFF = true := by decide
theorem meets_RegisterWrite_w1c : writable e0 0xA080 0xFFFFFFFFFFFFFFFF = true := by decide
theorem meets_RegisterWrite_rws : writable e0 0xB01C 0xFFFFFFFFFFFFFFFF = true ∧ keyInst (regKey 0xB01C 0) = none ∧
    (regRow 0xB01C).any (fun x => decide (x.1.rws ≠ 0)) = true := by decide
theorem meets_RegisterWrite_selected : let e := put [(F.SHV_INST_SEL_INST, 0, 15)] e0
    writable e 0x6084 9 = true ∧ e.selOf .shvInst = 15 ∧ keyInst (regKey 0x6084 15) = some 15 ∧ (e.inst 15).win = false ∧
      ((e.setInst 15 { win := true }).inst 15).win = true ∧ writable (e.setInst 15 { win := true }) 0x6084 9 = true := by decide
theorem test_register_selected : let t := nextOf (exec (.registerWrite 0x6084 4 9) (on (put [(F.SHV_INST_SEL_INST, 0, 15)] e0)))
    t.eng.reg 0x6084 15 = 9 ∧ t.eng.reg 0x6084 0 = 0 ∧ t.eng.pend = [(regKey 0x6084 15, 9, 0)] ∧ t.eng.act = e0.act := by decide
theorem meets_PairCommits : ∃ r n h m, 0x24 < 0x18000 ∧ 0x20 % 4 = 0 ∧ (ownRow 0x20 0xFFFFFFFF (on e0)).isNone = true ∧
    pairOf 0x20 = some 0x20 ∧ pairOf 0x24 = some 0x20 ∧ regRow 0x20 = some (r, n) ∧ regRow 0x24 = some (h, m) ∧ r.sel = .none ∧
    r.rws = 0 ∧ h.rws = 0 ∧ r.w1c = 0 ∧ h.w1c = 0 ∧ r.rwl = 0 ∧ h.rwl = 0 ∧ e0.rwHeld r 0x20 0 = 0 ∧ e0.rwHeld h 0x24 0 = 0 ∧
    enBits 0x20 = 0 ∧ enBits 0x24 = 0 := ⟨_, _, _, _, by decide, by decide, by decide, by decide, by decide, rfl, rfl, by decide⟩
theorem meets_PairRead : 0x14 + 4 < 0x20000 ∧ 0x14 % 4 = 0 ∧ pairPos 0x14 = .low ∧ pairPos 0x18 = .high := by decide
theorem meets_RwsWrite : keyInst (regKey 0xE020 0) = none ∧ (15 : Nat) < 16 := by decide
/-- The floor of instance 15 is 500 t. -/
def floor15 : Eng := put [(F.TAL_EDGE_FLOOR_n_FLOOR.at 4 15, 0, 500)] e0
theorem meets_RwsWrite_clamped : let eff := fun (w : Nat) => min (max (w % 2 ^ 20) (floor15.fv (F.TAL_EDGE_FLOOR_n_FLOOR.at 4 15))) 100000
    eff 499 = 500 ∧ eff 500 = 500 ∧ eff 100000 = 100000 ∧ eff 100001 = 100000 := by decide
/-- An engine with Hatch enabled and the event ring 255, of every event and 16 entries. -/
def evOn : Eng := put [(F.HAT_CTL_EN, 0, 1), (F.HAT_RING_CFG_KIND, 255, 2), (F.HAT_RING_CFG_FILTER_ALL, 255, 1), (F.HAT_RING_CFG_EN, 255, 1)] e0
/-- Whether ring 255 selects an event. -/
def ev255 (e : Eng) (v : EvtRec) : Bool := e.ringEn 255 && decide (e.ringKind 255 = 2) &&
  (e.fb F.HAT_RING_CFG_FILTER_ALL 255 || (v.part && decide (e.fv F.HAT_RING_CFG_PID 255 = v.pid)))
theorem test_edge_lead_clamped :
    let e := (put [(F.TAL_EDGE_FLOOR_n_FLOOR.at 4 15, 0, 500)] evOn).setInst 15 { active := true, owner := 3, win := true }
    let t := (nextOf (exec (.edgeLeadWrite 15 499) (on e))).eng
    t.held = [(15, regKey 0xE0BC 0, 499)] ∧ t.out.any (fun o => match o with
      | .event 255 _ _ _ v => decide (v.code = 0x30 ∧ v.pid = 3 ∧ v.arg = 15 + 2 ^ 32 * 500)
      | _ => false) = true := by decide
theorem meets_Events_room : ev255 evOn { code := 1 } = true ∧ evOn.fb F.HAT_CTL_EN = true ∧ evOn.ringFill 255 < evOn.ringDepth 255 := by decide
theorem meets_Events_full : let e := evOn.setRing 255 { tail := 16 }
    ev255 e { code := 1 } = true ∧ e.ringDepth 255 ≤ e.ringFill 255 := by decide
theorem meets_Events_off : ev255 e0 { code := 1 } = false := by decide

/-! ### The Steward -/

/-- The Steward in a composition of instance 0, with s1, s2, q1 and v1 set. -/
def stwOn : Eng := { e0 with stw := {
  run := some 0, s := [(1, 65528), (2, 65536)], v := [(4, 1), (5, 2), (6, 3), (7, 4)], q := [(1, 5)] } }
theorem meets_Scalars : (on stwOn).boot.absent = false ∧ stwOn.stwIssues = true ∧ stwOn.guardLane 1 false 0 = true := by decide
theorem meets_Scalars_last_cycle : ({ stwOn with stw := { stwOn.stw with cycles := 4095 } } : Eng).stwIssues = true := by decide
theorem meets_ScalarOthers_getc : (stwOn.ctxReg 20).isSome = true := by decide
theorem meets_ScalarOthers_memory : ((stwOn.sreg 1).toInt + (0 : BitVec 18).toInt) % 2 ^ 64 = 65528 := by decide
theorem meets_ScalarOthers_beyond : 65528 < ((stwOn.sreg 2).toInt + (0 : BitVec 18).toInt) % 2 ^ 64 := by decide
/-- DMEM words 0 and 1 of the program with one bit, and two, changed by the port. -/
def stwErr : Eng := { stwOn with dbg := { mem := [(6 * 2 ^ 40 + 28 * 2048, (0, 1)), (6 * 2 ^ 40 + 28 * 2048 + 1, (0, 3))] } }
theorem meets_ScalarOthers_check : stwErr.dmemErrors 0 = 1 ∧ stwErr.dmemErrors 1 = 2 ∧ stwErr.dmemErrors 8191 = 0 ∧ stwErr.stwIssues = true := by decide
theorem meets_UndefinedStewardOperands : 20 < (21 : BitVec 5).toNat ∧ 1 < (2 : BitVec 16).toNat ∧ (on stwOn).issues = true ∧
    stwOn.guardLane 0 false 0 = true ∧ stwOn.enabledLanes 0 false ≠ [] ∧ stwOn.enabledLanes 0 true = [] := by decide
theorem test_setc_stops : exec (.sSetc 0 false 0 21) (on stwOn) = .refused .undefinedContextWrite := rfl
theorem test_setc_closed : (nextOf (exec (.sSetc 0 true 0 21) (on stwOn))).eng.stw.wr = [] := by decide
theorem test_kbegin_stops : exec (.kBegin 0 false 2) (on stwOn) = .refused .undefinedSelectionMode := rfl
theorem meets_ScalarOthers_unlisted : stwOn.stwIssues = true ∧ stwOn.guardLane 0 false 0 = true ∧ 20 < (21 : BitVec 5).toNat := by decide
theorem meets_GuardedScalars : stwOn.guardLane 0 true 0 = false := by decide
theorem meets_BundleCloses : stwOn.stwIssues = true ∧ stwOn.stw.run = some 0 ∧ stwOn.stw.ending = false ∧ stwOn.stw.dmemFault = false ∧
    0 ≤ stwOn.stw.target.getD (stwOn.stw.pc + 1) ∧ stwOn.stw.target.getD (stwOn.stw.pc + 1) < stwOn.progLen ∧
    ((stwOn.bundleEnd 1).cycles 1).now = (stwOn.bundleEnd 1).now := by decide
theorem meets_BundleCloses_tick : let e := { stwOn with tal := { acc := accTick - 1 } }
    ((e.bundleEnd 1).cycles 1).now ≠ (e.bundleEnd 1).now ∧ settled (e.bundleEnd 1) = true := by decide +kernel
theorem test_setc : (nextOf (exec .wideNop (nextOf (exec (.sSetc 0 false 1 15) (on stwOn))))).eng.stw.cfg = 65528 := by decide
theorem test_bundle : (nextOf (exec .wideNop (nextOf (exec (.sAdd false 0 false 3 1 2) (on stwOn))))).eng.sreg 3 = 131064 := by decide
theorem test_wide_sum : (nextOf (exec (.wSum 1 false 3 1) (on stwOn))).eng.sreg 3 = 4 := by decide

/-! ### Edges, the cyclic slot table and Hatch -/

/-- A step with no slot. -/
def st0 : Step := { num := 1, edge := 100, emit := 50, est := 10, epoch := 0, slots := [] }
/-- A slot of Ledger slot 5, bound. -/
def slot5 : Slot := { kind := 1, lslot := 5, rqid := 3 * 2 ^ 26 + 5, bound := true }
/-- Instance `i` led by this chip, with the step `st`. -/
def stepping (i : Nat) (st : Step) (e : Eng) : Eng :=
  e.setInst i { active := true, lead := true, owner := 3, mid := 7, chips := [0], step := some st }

theorem meets_Edges_idle : let e : Eng := { e0 with now := 9999, pend := [(regKey 0xC014 63, 1, 9999)] }
    e.gat.fresh = [] ∧ e.gat.deferq = [] ∧ e.activeInsts = [] ∧ e.idle = true ∧ e.fb F.KPR_CTL_EN = false ∧
      ∀ x ∈ e.pend, keyInst x.1 = none ∧ x.1 ≠ regKey 0xE020 0 ∧ x.1 / 65536 ∉ rateOffs ∧ settled e = true := by decide +kernel
theorem meets_Edges_leaving (p : Nat) : (({ e0 with now := 9999, pend := [(regKey 0xC014 63, 1, 9999)] } : Eng).part p).leaving = [] := rfl
theorem meets_Edges_step : let e := stepping 15 st0 e0
    (e.inst 15).step = some st0 ∧ st0.started = false ∧ e.aligned 15 = true ∧ e.pend = [] ∧ e.held = [] ∧ e.fb F.SHV_CTL_EN = false ∧
      ∀ p ∈ e.led.recs, p.2.deadlineLast = 0 ∧ settled e = true := by decide +kernel
theorem meets_Edges_waiting : let e : Eng := { stepping 15 st0 e0 with
      pend := [(regKey 0xB01C 0, 5, 99), (regKey 0xB01C 0, 6, 100), (regKey 0x6084 15, 9, 0)], held := [(15, regKey 0x6084 15, 8), (14, regKey 0x6084 14, 7)] }
    e.aligned 15 = true ∧ settled e = true ∧
      ∀ x ∈ e.pend, (keyInst x.1).isNone ∧ x.2.2 < 100 → x.1 ≠ regKey 0xE020 0 ∧ x.1 ≠ regKey 0x6050 0 ∧ x.1 / 65536 ∉ rateOffs := by decide +kernel
theorem meets_Edges_chips : (({ e0 with tal := { state := 2 } } : Eng).setInst 15 { chips := [0, 1] }).aligned 15 = true ∧
    (e0.setInst 15 { chips := [0, 1] }).aligned 15 = false := by decide
theorem meets_Edges_quota : let e : Eng := { stepping 15 st0 e0 with cap := [(regKey 0x6084 15, 9)] }
    (e.inst 15).active = true ∧ tgetD e.cap (regKey 0x6084 15) (rstWord 0x6084) ≠ tgetD e.act (regKey 0x6084 15) (rstWord 0x6084) ∧
      regKey 0x6084 15 ∈ instKeys 15 ∧ settled e = true := by decide +kernel
theorem test_step_edge : (nextOf (exec (.stepEdge 15) (on (stepping 15 st0 e0)))).eng.now = 100 := by decide

/-- The cyclic table on: one slot of 1,000 t of partition 2 in bank 0, one in bank 1. -/
def cst : Eng :=
  let e := put [(F.TAL_CST_CTL_EN, 0, 1), (F.TAL_CST_NSLOT_N0, 0, 1), (F.TAL_CST_NSLOT_N1, 0, 1)] e0
  { e with tal := { e.tal with bank0 := [(0, 2 * 2 ^ 32 + 1000)], bank1 := [(0, 1000)] } }
theorem meets_Cst_entry : let e : Eng := { put [(F.TAL_CST_ADDR_BANK_SEL, 0, 1), (F.TAL_CST_ADDR_SLOT, 0, 4095)] cst with pairLow := [(0xE034, 7)] }
    tget e.pairLow 0xE034 = some 7 ∧ e.fb F.TAL_CST_ADDR_BANK_SEL ≠ e.tal.activeBank := by decide
theorem meets_Cst_frame : let e : Eng := force [(F.TAL_CST_CTL_BANK, 0, 1)] { cst with tal := { cst.tal with switchAt := some 1000 }, now := 1 }
    e.tal.switchAt = some 1000 ∧ e.now ≤ 1000 ∧ e.frameStart (max e.now e.tal.nextFrame) = 1000 ∧
      decide (e.av F.TAL_CST_CTL_BANK = 1) ≠ e.tal.activeBank ∧ e.bankOk true = true ∧ settled e = true := by decide +kernel
/-- Two slots, of 1,000 t each, and a step of partition 3 outstanding at 1 t. -/
def cst2 : Eng := stepping 0 st0 { put [(F.TAL_CST_NSLOT_N0, 0, 2)] cst with
  now := 1, tal := { bank0 := [(0, 3 * 2 ^ 32 + 1000), (1, 2 * 2 ^ 32 + 1000)] } }
theorem meets_Cst_slot : cst2.cstOn = true ∧ cst2.slotFrom (max cst2.now cst2.tal.nextSlot) = 1000 ∧ cst2.now ≤ 1000 ∧
    cst2.frameStart 1000 ≠ 1000 ∧ cst2.usable 3 1000 = false ∧ settled cst2 = true := by decide +kernel
theorem test_overrun : (nextOf (exec .cstSlotStart (on cst2))).eng.tal.barred = [3] := by decide

/-- Hatch on, partition 3 enabled, submission ring 0 and completion ring 1 of it with 16 entries each; one descriptor published at 0. -/
def rings : Eng :=
  let e := put [(F.HAT_CTL_EN, 0, 1), (F.HAT_RING_CFG_CQ, 0, 1), (F.HAT_RING_CFG_PID, 0, 3), (F.HAT_RING_CFG_EN, 0, 1), (F.HAT_RING_CFG_KIND, 1, 1),
    (F.HAT_RING_CFG_PID, 1, 3), (F.HAT_RING_CFG_EN, 1, 1), (F.KPR_PART_CTL_EN, 3, 1)] e0
  e.setRing 0 { tail := 1, stamps := [(0, 1)] }
theorem meets_Rings_full : let e := rings
    e.ringEn 0 = true ∧ e.unitHalted 1 = false ∧ e.ringKind 0 = 0 ∧ e.ringFill 0 < 16 ∧ 16 ≤ e.ringDepth 0 ∧
      e.fv F.HAT_RING_CFG_DB_MODE 0 = 0 := by decide
theorem meets_Rings_head : let e := rings.setRing 1 { tail := 1 }
    e.ringEn 1 = true ∧ e.ringKind 1 ≠ 0 ∧ 1 ≤ e.ringFill 1 := by decide
theorem meets_Rings_poll : (put [(F.HAT_CTL_POLL, 0, 1)] rings).fv F.HAT_CTL_POLL = 1 ∧
    (put [(F.HAT_RING_CFG_DB_MODE, 0, 1)] rings).fv F.HAT_RING_CFG_DB_MODE = 1 ∧ settled (put [(F.HAT_CTL_POLL, 0, 1)] rings) = true := by decide +kernel
theorem test_doorbell : ((nextOf (exec (.doorbellSnoop 0 16) (on rings))).eng.ring 0).tail = 16 := by decide
theorem meets_Rings_enable : let e : Eng := { put [(F.HAT_RING_SEL_RING, 0, 255)] e0 with hat := { version := some 0x0302 } }
    e.fv F.HAT_RING_SEL_RING = 255 ∧ (0xD : Word).getLsbD 3 = true ∧ e.ringEn 255 = false ∧ e.isCq 255 = false ∧
      (e.putReg 0x1054 255 (0xD &&& 0x3FFF7FF7)).ringMayEnable 0xD = true := by decide
theorem meets_Rings_late : let e := { put [(F.HAT_RING_SEL_RING, 0, 255)] (e0.setRing 255 { overAt := some 0 }) with hat := { version := some 0x0302, rings := [(255, { overAt := some 0 })] } }
    (e.ring 255).overAt = some e.now ∧ e.fv F.HAT_RING_SEL_RING = 255 ∧ e.ringEn 255 = false ∧
      (e.putReg 0x1054 255 (0xD &&& 0x3FFF7FF7)).ringMayEnable 0xD = true := by decide
theorem meets_Rings_disable : rings.fv F.HAT_RING_SEL_RING = 0 ∧ rings.ringEn 0 = true := by decide
theorem meets_Rings_move : let e := rings.setRing 0 { tail := 1, fetched := 1 }
    e.ringKind 0 = 0 ∧ (e.ring 0).head ≠ (e.ring 0).fetched := by decide

/-- The completion ring of ring 0 has room. -/
def cqRoom (e : Eng) : Bool := e.fb F.HAT_CTL_EN && e.ringEn 1 && decide (e.ringKind 1 = 1 ∧ e.ringFill 1 < e.ringDepth 1)
theorem meets_Completions_room : rings.cqOf 0 = 1 ∧ cqRoom (rings.setRing 1 { tail := 15 }) = true ∧ (rings.ring 1).ovf = [] := by decide
theorem meets_Completions_full : cqRoom (rings.setRing 1 { tail := 16 }) = false := by decide
theorem meets_Completions_over : cqRoom (rings.setRing 1 { ovf := [{ status := 1 }] }) = true := by decide
/-- Completion ring 1 with two free entries and three records over. -/
def over3 : Eng := rings.setRing 1 { head := 0xFFFFFFFE, tail := 12, ovf := [{ status := 1 }, { status := 2 }, { status := 3 }] }
theorem meets_Drain : (over3.ring 1).head < 2 ^ 32 ∧ (over3.ring 1).tail < 2 ^ 32 ∧ over3.ringDepth 1 - over3.ringFill 1 = 2 := by decide
theorem test_drain : let t := nextOf (exec (.overflowDrain 1) (on over3))
    (t.eng.ring 1).tail = 14 ∧ (t.eng.ring 1).ovf.map (fun v => v.status) = [3] := by decide
theorem meets_Hello : (0x80000302 : Word).getLsbD 31 = true ∧ b3.stage ≠ 1 ∧ e0.fb F.HAT_CTL_EN = false ∧
    (0x80000302 : Word).toNat % 2 ^ 16 ∈ [0x0200, 0x0201, 0x0202, 0x0300, 0x0301, 0x0302] := by decide
theorem meets_Hello_rings : ∀ r, r < 256 → e0.ringEn r = false := by decide

/-! ### Orders -/

/-- A descriptor from its fields: byte, high bit, low bit, value. -/
def desc (l : List (Nat × Nat × Nat × Nat)) : DescBits := BitVec.ofNat 1024 (putFields l)
/-- An order on request 5 of partition 3, generation 1. -/
def ord (op : Nat) : DescBits := desc [(0, 7, 0, op), (1, 0, 0, if op = 4 then 1 else 0), (4, 15, 0, 1), (0x10, 31, 0, 3 * 2 ^ 26 + 5), (0x18, 63, 0, 9)]
/-- Request 5 of partition 3 in a state, of model 7 on instance 2. -/
def rq (state : Nat) : LRec := { state, gen := 1, rqid := 3 * 2 ^ 26 + 5, mid := 7, inst := 2, ring := 0, promptLen := 70, maxNew := 8 }
/-- The rings with request 5. -/
def asked (r : LRec) : Eng := { rings with led := { rings.led with recs := [(5, r)] } }
/-- The tick after the doorbell's. -/
def later (e : Eng) : Eng := { e with now := 1 }
/-- What the clauses of OrdersTakeEffect have in common. -/
def orderMet (d : DescBits) (q : LRec) : Bool :=
  let e := later (asked q)
  e.hat.orders.isEmpty && e.hat.behind.isEmpty && e.hat.heldRecs.isEmpty && !e.mirrorOn && !e.fb F.SHV_CTL_EN &&
    (match e.fetch with
     | some (r, stamp, e1) => decide (r = 0 ∧ stamp < e.now) && e1.fetchedUpTo stamp
     | none => false) &&
    decide (e.cqOf 0 = 1) && (e.ring 1).ovf.isEmpty && !e.cmpFull 1 && e.ringEn 1 && decide (rqPid (ordOf d).rqid = e.ringPid 0) &&
    e.fb F.KPR_PART_CTL_EN (e.ringPid 0) && ordOk d && decide (e.named (ordOf d).rqid (ordOf d).gen = some 5) && decide (q.nextSib = 0xFFFFFF)
theorem meets_Orders : orderMet (ord 2) (rq 2) ∧ orderMet (ord 3) (rq 7) ∧ orderMet (ord 4) (rq 5) ∧ orderMet (ord 5) (rq 6) ∧
    orderMet (ord 6) (rq 3) := by decide
theorem meets_Orders_admit : recField (ord 2) 0 7 0 = 2 ∧ (asked (rq 2)).gateOn = false := by decide
theorem meets_Orders_resume : (rq 7).state = 7 ∧ (asked (rq 7)).away 5 = 0 := by decide
theorem meets_Orders_hot : 5 ∈ ({ asked (rq 5) with led := { hot := [7, 5] } } : Eng).led.hot := by decide
theorem meets_Orders_modify : (ordOf (ord 4)).setDeadline = true ∧ (ordOf (ord 4)).setMaxNew = false ∧ (rq 8).live = true := by decide
theorem meets_Orders_cancel : let e := asked (rq 3)
    (rq 3).live = true ∧ (e.inst 2).openSlots = [] ∧ (rq 3).draftV = false ∧ e.smap 5 = none ∧ e.ringFill 1 + 1 < e.ringDepth 1 := by decide
/-- Request 5 with a second sibling, in Ledger slot 6, in a state, and pages for more tokens. -/
def two (a b : LRec) : Eng :=
  let e := later (asked { a with nextSib := 6 })
  { e with led := { e.led with pageCount := 64, recs := [(5, { a with nextSib := 6 }), (6, { b with kind := true, sib := 1 })] } }
/-- A MODIFY of the deadline, the largest number of tokens, or both. -/
def modD (flags n : Nat) : DescBits :=
  desc [(0, 7, 0, 4), (1, 1, 0, flags), (4, 15, 0, 1), (0x10, 31, 0, 3 * 2 ^ 26 + 5), (0x18, 63, 0, 9), (0x20, 31, 0, n)]
theorem meets_Orders_siblings : let e := two (rq 5) { rq 7 with admitStamp := 1 }
    e.sibs 5 = [5, 6] ∧ (e.sibs 5).Nodup ∧ e.named (3 * 2 ^ 26 + 5) 1 = some 5 ∧ (e.rc 5).isSome = true ∧
      ((e.sibs 5).filter (fun y => (e.rc y).any (fun v => decide (3 ≤ v.state ∧ v.state ≤ 6)))) = [5] ∧ orderMet (ord 5) (rq 5) = true := by decide
theorem meets_Orders_modify_siblings : ordOk (modD 3 4080) = true ∧ (ordOf (modD 3 4080)).setMaxNew = true ∧ (ordOf (modD 3 4080)).setDeadline = true ∧
    (ordOf (modD 3 4080)).maxNew = 4080 ∧ tokenPages 4080 ≤ (two (rq 5) { rq 7 with admitStamp := 1 }).pagesFree ∧ orderMet (modD 3 4080) (rq 5) = true := by decide
theorem meets_Orders_modify_end : let r := { rq 7 with newCount := 8 }
    ordOk (modD 2 8) = true ∧ (ordOf (modD 2 8)).setMaxNew = true ∧ (ordOf (modD 2 8)).maxNew ≤ r.newCount ∧ r.admitStamp = 0 ∧ orderMet (modD 2 8) r = true := by decide
theorem test_preempt_siblings : let t := nextOf (exec (.preempt (ord 5)) (on (two (rq 5) (rq 2))))
    (t.eng.rc 5).map (fun r => r.state) = some 7 ∧ (t.eng.rc 6).map (fun r => r.state) = some 2 := by decide
theorem test_preempt : (((nextOf (exec (.preempt (ord 5)) (on (later (asked (rq 6)))))).eng.rc 5).map (fun r => (r.state, r.prior))) = some (7, 6) := by
  decide
theorem test_preempt_waits : (nextOf (exec (.preempt (ord 5)) (on (asked (rq 6))))).eng.hat.orders.length = 1 := by decide

/-! ### Bins -/

/-- Bins on, its domain ON, and instance 0 with step 1. -/
def bins : Eng := stepping 0 st0 { put [(F.BIN_CTL_EN, 0, 1)] e0 with pd := [(87, { st := 2 })] }
/-- An entry of instance 0 in its step. -/
def ent : BinEnt := { BinEnt.zero with step := 1, pid := 3 }
theorem meets_Bins : bins.binOn = true ∧ bins.bin.stalled = [] ∧ bins.bin.waiting = [] ∧ tget bins.bin.held 127 = none ∧ (bins.dom 87).st = 2 ∧ (bins.dom 87).retired = false := by decide
theorem meets_Bins_push : bins.pushOk (0x10000 + 63) = true ∧ (pushOf (0x10000 + 63)).affV = false ∧ bins.spilled 63 = 0 ∧
    bins.bankFree = some 0 := by decide
/-- An entry for the cluster of core 127, whose TAKE waits or not. -/
def offered (l : List TakeW) : Eng := { force [(F.BIN_CLUSTER_PART_LO_PART, 15, 8)] bins with bin := { entries := [ent], waiting := l } }
theorem meets_Bins_serve : let w : TakeW := { core := 127, since := 0, lastBeat := 0 }
    (on (offered [w])).pending = [] ∧ (offered [w]).bin.waiting = [w] ∧ (∀ b ∈ (offered [w]).bin.entries, b.affV = false) ∧
      (offered [w]).bin.entries.find? ((offered [w]).mayTake 127) = some ent ∧
      (offered [w]).bin.entries.find? ((force [(F.BIN_CLUSTER_PART_LO_PART, 15, 0)] (offered [w])).mayTake 127) = none := by decide
theorem meets_Bins_rested : (offered []).Rested := by unfold Eng.Rested; decide +kernel
/-- In the last cycle of the tick. -/
def lastCycle (e : Eng) : Eng := { e with tal := { e.tal with acc := accTick - 1 } }
theorem meets_Bins_tick : let e := lastCycle (offered [{ core := 127, since := 0, lastBeat := 0 }])
    (on e).pending = [] ∧ e.Rested ∧ e.bin.servedAt ≠ some e.now ∧ accTick ≤ e.tal.acc + accGain e.raf.rate := by unfold Eng.Rested; decide +kernel
theorem test_take : (nextOf (exec (.take 127) (on (offered [])))).eng.bin.held = [] ∧
    (nextOf (step (nextOf (exec (.take 127) (on (lastCycle (offered []))))))).eng.bin.held = [(127, (ent, 0))] := by decide
theorem meets_Bins_done : let e : Eng := { put [(F.KPR_CTL_EN, 0, 1)] bins with bin := { held := [(127, (ent, 0))] }, now := 5 }
    e.binOn = true ∧ tget e.bin.held 127 = some (ent, 0) ∧ e.fb F.KPR_CTL_EN = true := by decide
/-- A TAKE of core 127 waits. -/
def takes : Eng := { force [(F.BIN_TAKE_WAIT_WAIT, 0, 1)] bins with bin := { waiting := [{ core := 127, since := 0, lastBeat := 0 }], servedAt := some 0 } }
theorem meets_Takes : takes.binOn = true ∧ takes.bin.waiting.find? (fun x => decide (x.core = 127)) = some { core := 127, since := 0, lastBeat := 0 } ∧
    takes.av F.BIN_TAKE_WAIT_WAIT ≠ 0 ∧ settled takes = true := by decide +kernel
theorem meets_Takes_absent : ({ absent := true, takes := [{ core := 127, since := 0, lastBeat := 0 }] } : Boot).takes.find?
    (fun x => decide (x.core = 127)) = some { core := 127, since := 0, lastBeat := 0 } := by decide
theorem meets_Takes_off : e0.fb F.BIN_CTL_EN = false := by decide
theorem meets_Takes_halted : ({ takes with ras := { caps := [(11, { halted := true })] } } : Eng).unitHalted 11 = true := by decide
theorem meets_Hint : let b : BinEnt := { ent with affV := true, enq := 4294967295 }
    let e : Eng := { force [(F.BIN_AFF_WAIT_WAIT, 0, 9)] bins with bin := { entries := [b], servedAt := some (4294967295 + 9) }, now := 4294967295 + 9 }
    e.binOn = true ∧ e.bin.entries = [b] ∧ b.affV = true ∧ b.released = false ∧ b.enq ≤ e.now ∧ b.enq < 2 ^ 32 ∧ e.now - b.enq < 2 ^ 24 ∧ e.now - b.enq ≤ e.av F.BIN_AFF_WAIT_WAIT ∧ settled e = true := by decide +kernel
theorem meets_Refill : let e : Eng := { bins with bin := { entries := [ent] } }
    e.bin.entries = [ent] ∧ ent.bank = none ∧ e.av F.BIN_REFILL_LOW ≤ e.bankPlaces ∧ e.bankFree = some 0 := by decide

/-! ### Reset, bring-up, domains, counters and the debug port -/

theorem meets_EngineResets : (0xD54A : Word).toNat % 2 ^ 20 = 0xD54A ∧ (0xD54A : DWord).toNat % 2 ^ 16 = 0xD54A ∧
    ({ e0 with dbg := { isOpen := true } } : Eng).dbg.isOpen = true := by decide
theorem test_reset_answers : (nextOf (exec .resetRelease (nextOf (exec .chip (on takes))))).eng.out = [.coreAnswer 127 2 none] := by decide
theorem test_driver_reset : (nextOf (exec (.driverReset 0xD54A) (on e0))).boot.cause = 3 := by decide
theorem meets_UnitResets : (0xCD54A : Word).toNat % 2 ^ 16 = 0xD54A ∧ (0xCD54A : Word).toNat / 2 ^ 16 % 16 = 12 ∧
    (e0.reg (4096 * 12) 0).getLsbD 0 = false ∧ ((put [(F.KPR_CTL_EN, 0, 1)] e0).reg (4096 * 12) 0).getLsbD 0 = true ∧
    (0xCD54B : Word).toNat % 2 ^ 16 ≠ 0xD54A := by decide
theorem meets_UnitResets_composer : (0x4D54A : Word).toNat / 2 ^ 16 % 16 = 4 ∧ e0.cmp.insts = [] := by decide
theorem meets_BringUp : (0x80000000 : Word).getLsbD 31 = true ∧ (1 : Word).getLsbD 0 = true ∧ ({} : Boot).imgBusy = false ∧ b1.imgBusy = true ∧
    b2.initBusy = true ∧ b2.stage = 2 ∧ b3.initBusy = false ∧ b3.stage = 3 := by decide
theorem test_image_unread : (nextOf (exec (.imageLoadEnd [] false 0 false) { on e0 with boot := b1 })).boot.stage = 1 := by decide
theorem meets_BringUp_time : settled e0 = true ∧ b2.initBusy = true := by decide +kernel
theorem meets_BringUp_copies : let e : Eng := { e0 with now := 1, tal := { state := 2 } }
    e.tal.state = 2 ∧ 10000 % 10000 = 0 ∧ e.now ≤ 10000 ∧ ({} : Boot).nextCopy ≤ 10000 ∧ 10000 < e.now + 10000 ∧ settled e = true := by decide +kernel
/-- Domains to wake, to gate and to put in RETAIN. -/
def domsOn : Eng := put [(F.GLB_PWR_CTL_AUTO_GATE, 0, 1)]
  { e0 with pd := [(4, { st := 2 }), (7, { st := 1, drop := true }), (10, { st := 2 }), (85, { st := 2 })] }
theorem meets_Domains : (domsOn.dom 7).st = 1 ∧ domsOn.fb F.GLB_PWR_CTL_AUTO_GATE = true ∧ (domsOn.dom 10).st = 2 ∧
    domsOn.domBusy 10 = false ∧ (domsOn.dom 85).st = 2 ∧ domsOn.domBusy 85 = false ∧ (domsOn.dom (1 + 3)).st = 2 ∧ settled domsOn = true := by decide +kernel

/-- Counting on, counter 63 of source 0x0101 at its end. -/
def cntOn : Eng := { put [(F.CNT_CTL_EN, 0, 1), (F.CNT_SEL_n_SRC.at 4 63, 0, 0x101)] e0 with dbg := { cnt := [(63, 2 ^ 64 - 1)] } }
theorem meets_Counters : cntOn.cntStopped cntOn.now = false ∧ cntOn.cntSelects 63 0x101 none none = true ∧ cntOn.cntSelects 63 0x102 none none = false ∧
    e0.cntStopped e0.now = true := by decide
theorem test_counter_wraps : tgetD (cntOn.count 0x101 1 none none).dbg.cnt 63 0 = 0 ∧
    ((cntOn.count 0x101 1 none none).reg (0x10100 + 4 * 63) 0).getLsbD 31 = true := by decide
theorem meets_Counters_clear : (0x80000000 : Word).getLsbD 31 = true ∧ ((put [(F.CNT_CTL_ARM, 0, 1)] e0).reg 0x10000 0).getLsbD 2 = true ∧ settled (put [(F.CNT_CTL_ARM, 0, 1)] e0) = true := by decide +kernel

/-- The debug port open, the engine and the Steward halted. -/
def dbgOn : Eng := { put [(F.DBG_CTL_PORT_EN, 0, 1)] e0 with
  dbg := { isOpen := true, engineHalted := true, stwHalted := true, brks := [(3, { typ := 1, acts := 1, val := 5 })] }, now := 5 }
theorem meets_DebugPortLocked : e0.dbg.isOpen = false ∧ (e0.reg 0x11000 0).getLsbD 0 = false := by decide
theorem meets_DebugOpen : let e := put [(F.DBG_CTL_PORT_EN, 0, 1)] e0
    (e.reg 0x11000 0).getLsbD 0 = true ∧ e.dbg.isOpen = false ∧ (e.dom 98).retired = false ∧ (e.dom 98).st ≤ 3 ∧ settled e = true := by decide +kernel
theorem meets_DebugOpen_closed : (e0.reg 0x11000 0).getLsbD 0 ≠ true := by decide
theorem meets_DebugClose : dbgOn.dbg.isOpen = true ∧ dbgOn.dbg.engineHalted = true ∧ dbgOn.dbg.stwHalted = true ∧ e0.dbg.isOpen ≠ true := by decide
theorem test_debug_open : (nextOf (exec .dbgOpen (on (put [(F.DBG_CTL_PORT_EN, 0, 1)] e0)))).eng.now = 1000 := by decide
theorem test_debug_close : let t := nextOf (exec .dbgClose (on dbgOn))
    t.eng.dbg.isOpen = false ∧ t.eng.dbg.brks = [] ∧ t.eng.dbg.resumed = some 5 := by decide
theorem meets_DebugPort_busy : let e : Eng := { dbgOn with dbg := { dbgOn.dbg with cmdAt := some 5 } }
    e.dbg.isOpen = true ∧ e.dbg.cmdAt = some e.now ∧ (e.reg 0x11000 0).getLsbD 0 = true ∧ dbgOn.dbg.cmdAt ≠ some dbgOn.now := by decide
theorem test_debug_busy : (nextOf (exec .haltEngine (nextOf (exec .resumeEngine (on dbgOn))))).eng.dbg.capStatus = 1 := by decide
theorem meets_Breakpoints : let e : Eng := { dbgOn with now := 4 }
    e.tickLeft = e ∧ e.nextStop (e.brk 3).val = none ∧ (e.brk 3).typ = 1 ∧ (e.brk 3).acts ≤ 1 ∧ e.now ≤ (e.brk 3).val ∧
      (e.brk 3).hitAt ≠ some (e.brk 3).val ∧ e.dbg.haltWas = none := by decide +kernel
theorem test_breakpoint : (nextOf (exec (.breakpointHit 3) (on { dbgOn with dbg := { dbgOn.dbg with engineHalted := false } }))).eng.dbg.engineHalted = true := by
  decide
theorem meets_DebugWords : ∀ n ∈ spaceSize 8, n - 1 < n ∧ n ≤ n := by decide
theorem meets_DebugWords_listed : ∀ space ∈ [0, 1, 2, 3, 4, 5, 8, 10], (spaceSize space).isSome = true := by decide
theorem meets_DebugWords_page : let p : MaskPage := { gid := 0, cls := 0, page := 0, way := 2047, bits := 0 }
    let e : Eng := { dbgOn with siv := { cache := [p] } }
    e.siv.cache = [p] ∧ p.way = (2047 * 512 + 511) / 512 ∧ 2047 * 512 + 511 < 2 ^ 20 ∧ e.dbg.mem = [] := by decide
theorem meets_DebugWords_store : tget dbgOn.dbg.mem (10 * 2 ^ 40 + (2 ^ 37 - 1)) = none := by decide
theorem meets_DebugWords_clear : let e : Eng := { dbgOn with dbg := { dbgOn.dbg with worked := [3] } }
    spaceUnit 1 = some 6 ∧ 6 ∉ e.dbg.worked ∧ (spaceSize 1).isSome = true ∧ e.heldWord 1 0 = none ∧ e.dbg.mem = [] := by decide
theorem meets_DebugWords_noPage : ∀ p ∈ dbgOn.siv.cache, p.way ≠ 0 := by decide
theorem meets_DebugWords_halted : dbgOn.dbg.engineHalted = true ∧ dbgOn.dbg.mem = [] ∧ (0x1FFFC : Nat) < 0x20000 ∧ 0x1FFFC % 4 = 0 := by decide
/-- The state in the next tick. -/
def nextTick (s : State) : State := s.withEng { s.eng with now := s.eng.now + 1 }
theorem test_debug_parity : let t := nextTick (nextOf (exec (.dbgWrite 3 0 0) (on dbgOn)))
    (nextOf (exec (.dbgRead 3 0) (nextTick (nextOf (exec (.dbgWriteRaw 3 0 1) t))))).eng.dbg.capStatus = 6 := by
  decide

theorem test_port_word : (portWordOf (BitVec.ofNat 120 (8 + 10 * 2 ^ 8 + 5 * 2 ^ 16 + 7 * 2 ^ 56))).command = some (.dbgRead 10 5) := by decide
theorem test_port_bad_op : (nextOf (updateDr 0x0B (on dbgOn))).eng.captureDr = BitVec.ofNat 120 (2 + 2 ^ 8 * 11) := by decide

/-! ### The Ledger and descriptors -/

/-- Request 5 waits at the Gate since before 1 t, and the check is called for. -/
def overdue : Eng := { asked { rq 1 with deadlineLast := 1 } with now := 2, gat := { queued := true } }
theorem meets_Queued : let r := { rq 1 with deadlineLast := 1 }
    let e := overdue
    e.rc 5 = some r ∧ rqSlot r.rqid = 5 ∧ r.nextSib = 0xFFFFFF ∧ r.draftV = false ∧ e.smap 5 = none ∧ e.gat.queued = true ∧
      ({ e with gat := { e.gat with queued := false } } : Eng).Rested ∧ e.binOn = false ∧ r.deadlineLast ≠ 0 ∧
      r.deadlineLast < e.now ∧ e.led.recs.sorted = true ∧ e.mirrorOn = false ∧ e.hat.heldRecs = [] ∧
      (∀ i, i < 16 → e.savedLocal i = false) ∧ (∀ q, q < 64 → (e.part q).leaving = []) ∧ e.blocked 1 = false ∧ e.cmpFull 1 = false := by
  unfold Eng.Rested; decide +kernel
theorem test_queued : ((on overdue).tickLeft.eng.rc 5).map (fun r => r.state) = some 9 := by decide +kernel
theorem meets_Queued_others (y : Nat) (q : LRec) (h : y ≠ 5) (hq : overdue.rc y = some q) : q.waitsGate = false := by
  simp [overdue, asked, Eng.rc, tget, h] at hq
theorem meets_DeadlineFirst : let r := { rq 8 with deadlineFirst := 4 }
    r.deadlineFirst ≠ 0 ∧ r.firstMissed = false ∧ r.firstStamp = 0 ∧ 3 ≤ r.state ∧ r.state ≤ 8 ∧ settled (asked r) = true := by decide +kernel
theorem meets_SlotRelease : let e := put [(F.KPR_CTL_EN, 0, 1), (F.KPR_ACCT_CFG_REQ_EN, 0, 1)] (asked (rq 9))
    (rq 9).kind = false ∧ (rq 9).live = false ∧ (e.inst 2).openSlots = [] ∧ e.hat.heldRecs = [] ∧ e.mirrorOn = false ∧ e.shv.groups = [] ∧
      (e.param 5).grammarEn = false ∧ (e.instModel 2).unload = none ∧ e.acctFull = false := by decide
theorem meets_RecordFill : let e := asked (rq 5)
    e.rc 5 = some (rq 5) ∧ 5 ∉ e.led.hot ∧ e.led.hot.length < e.hotCap ∧ e.pinnedHot 6 = false := by decide
/-- A Ledger with the records `hot` hot. -/
def hotOf (hot : List Nat) : Eng := { e0 with led := { hot, recs := [(131072, rq 1)] } }
theorem meets_RecordFill_full : let l := List.range 131071
    (hotOf (l ++ [131071])).rc 131072 = some (rq 1) ∧ 131072 ∉ l ++ [131071] ∧ (l ++ [131071]).length = (hotOf (l ++ [131071])).hotCap ∧
      131071 ∉ l ∧ (hotOf (l ++ [131071])).pinnedHot 131071 = false := by
  intro l
  have h : ∀ x, x ∈ l ↔ x < 131071 := fun x => List.mem_range
  have n : l.length = 131071 := List.length_range
  clear_value l
  refine ⟨rfl, ?_, ?_, ?_, rfl⟩
  · simp [h]
  · rw [List.length_append, n]; rfl
  · simp [h]
theorem meets_Peek : (0xFF000005 : Word).toNat % 2 ^ 24 = 5 ∧ (asked (rq 5)).rc 5 = some (rq 5) ∧ 5 ∉ (asked (rq 5)).gat.deferq ∧
    (asked (rq 5)).rc 0 = none := by decide
theorem meets_Peek_hot : 5 ∈ (hotOf [7, 5]).led.hot ∧ ((hotOf [7, 131072]).rc 131072).isSome = true ∧ 131072 ∈ (hotOf [7, 131072]).led.hot := by decide
theorem meets_PrefixMatch : let m : SMap := { matching := true, leaves := [(0, 0)], resv := 2 }
    let e : Eng := { (asked (rq 5)).setInst 2 { active := true, lead := true, mid := 7, chips := [0] } with shv := { maps := [(5, m)] } }
    e.rc 5 = some (rq 5) ∧ e.smap 5 = some m ∧ m.matching = true ∧ (rq 5).promptLen ≤ 32768 ∧ (tget m.leaves 0).isSome = true ∧
      (e.inst (rq 5).inst).chips = [e.self] ∧ e.mirrorOn = false ∧ e.shv.groups = [] := by decide

/-- The rings before a descriptor with the Ledger on: 16 slots, 64 pages. -/
def fetching : Eng := { put [(F.LED_CTL_EN, 0, 1), (F.LED_CAP_CAP, 0, 16)] rings with led := { pageCount := 64 } }
/-- What the clauses of DescriptorsAreApplied have in common. -/
def fetchMet (e : Eng) : Bool :=
  e.hat.orders.isEmpty && e.hat.behind.isEmpty && e.fetch.isSome && decide (e.fetchRing.map (fun p => p.1) = some 0) && decide (e.cqOf 0 = 1) &&
    !e.blocked 1 && !e.cmpFull 1 && e.fb F.KPR_PART_CTL_EN (e.ringPid 0)
/-- A NOP, and an UNLOAD_MODEL of model 7. -/
def nopD : DescBits := desc [(0, 7, 0, 0x3F), (8, 63, 0, 1)]
def unloadD : DescBits := desc [(0, 7, 0, 0x11), (2, 11, 0, 7), (8, 63, 0, 1)]
/-- A LOAD_MODEL of model 7 on chip 0. -/
def loadD : DescBits := desc [(0, 7, 0, 0x10), (1, 0, 0, 1), (2, 11, 0, 7), (4, 6, 0, 1), (0x10, 63, 0, 1)]
theorem meets_Nop : fetchMet fetching = true ∧ recField nopD 0 7 0 = 0x3F ∧ nopOk nopD = true := by decide
theorem test_nop : (nextOf (exec (.nop nopD) (on fetching))).eng.ring 1 = { tail := 1 } := by decide
theorem meets_Load_absent : recField loadD 0 7 0 = 0x10 ∧ loadOk loadD = true ∧ (loadOf loadD).pinned = true ∧
    bitOf (loadOf loadD).placement fetching.self = true := by decide
/-- The body of model 7's Larder entry: format 0, one layer group, 1,000 tokens, crates of 4,096 bytes, 4,096 bytes of weights. -/
def larderBody : Nat := putFields
  [(0, 11, 0, 7), (0, 12, 12, 1), (4, 6, 0, 1), (8, 20, 0, 1000), (0xC, 24, 0, 4096), (0x10, 31, 0, 4096), (0x18, 63, 0, 4096)]
/-- The entry with its CRC. -/
def larder7 : LarderBits := BitVec.ofNat 2048 (larderBody + crc32 (leBytes 0xFC larderBody) * 2 ^ (8 * 0xFC))
theorem meets_Load_go : let e := force [(F.KPR_LEAVE_AMT_BULK, 0, 0)] (put [(F.SHV_STORE_SIZE_GIB, 0, 1)] fetching)
    e.loadDecide (loadOf loadD) 3 (some larder7) [] true = .go [] [0] ∧ larderOf (some larder7) 7 = some larder7 ∧ e.shv.models = [] ∧
      chipShare (recField larder7 0x18 63 0) 0 1 ≠ 0 ∧ e.av F.KPR_LEAVE_AMT_BULK = 0 ∧ e.pan.background.length < 1024 := by decide
/-- A SUBMIT of two tokens for model 7, HELD. -/
def subD : DescBits := desc [(0, 7, 0, 1), (1, 0, 0, 1), (2, 11, 0, 7), (0x10, 63, 0, 64), (0x18, 31, 0, 2), (0x1C, 31, 0, 4), (0x44, 31, 0, 0x3F800000),
  (0x50, 31, 0, 0x3F800000)]
theorem meets_Submit : let o := subOf subD
    o.hold = true ∧ [(999 : Word), 0].length = o.promptLen ∧ ([] : List DWord).length = o.biasCount ∧ o.nsib = 0 ∧ o.grammarEn = false ∧
      fetching.grammarOk o = true ∧ fetching.subCheck subD (larderOf (some larder7) 7) [999, 0] [] = true ∧ (larderOf (some larder7) o.mid).isSome = true ∧
      fetching.followsOnly 7 = false ∧ fetching.av F.GAT_PART_LIVE_MAX_MAX 3 = 0 ∧ fetching.fb F.LED_CTL_EN = true ∧
      fetching.led.fresh < fetching.ledCap ∧ tokenPages o.promptLen + cdiv (o.biasCount * 8) 4080 ≤ fetching.pagesFree ∧
      fetching.led.pageFresh + 1 ≤ fetching.led.pageCount ∧ fetching.mirrorOn = false := by decide
/-- A SUBMIT that names grammar 65535. -/
def subG : DescBits := desc [(0, 7, 0, 1), (1, 1, 1, 1), (2, 11, 0, 7), (0x6C, 15, 0, 65535)]
theorem meets_Submit_grammar : let g : Gram := { valid := true, mid := 7 }
    (subOf subG).grammarEn = true ∧ fetching.grammarOk (subOf subG) = false ∧
      ({ fetching with siv := { dir := [(65535, g)] } } : Eng).grammarOk (subOf subG) = true := by decide
theorem test_submit : ((nextOf (exec (.submit subD (some larder7) [999, 0] []) (on fetching))).eng.rc 0).map (fun r => (r.state, r.gen)) = some (2, 1) := by
  decide
theorem meets_Load_done : ∃ st k, fetching.loadDecide (loadOf loadD) 3 none [] true = .done st k := ⟨_, _, rfl⟩
/-- Chip 1 leads a load of model 7 as its instance 2, in which this chip takes part. -/
def partD : LoadPart := { chip := 1, inst := 2, owner := 3, chips := [0, 1], excess := 0 }
theorem meets_Load_part : (∀ j, j ∈ e0.activeInsts → (e0.inst j).lead = true ∨ (e0.inst j).leadChip ≠ partD.chip ∨ (e0.inst j).leadInst ≠ partD.inst) ∧
    partD.chip ≠ e0.self ∧ e0.self ∈ partD.chips ∧ e0.activeInsts.length < 16 ∧ larderOf (some larder7) (loadOf loadD).mid = some larder7 := by decide +kernel
theorem test_load_part : ((nextOf (exec (.loadModel loadD (some larder7) [] (.part partD)) (on e0))).eng.inst 0).leadChip = 1 := by decide +kernel
/-- The same load of chips 1 and 2 only. -/
theorem meets_Load_told : e0.self ∉ ({ partD with chips := [1, 2] } : LoadPart).chips ∧ partD.chip ≠ e0.self := by decide
theorem test_load_told : (nextOf (exec (.loadModel loadD none [] (.part { partD with chips := [1, 2] })) (on e0))).eng.frameChips
    { typ := 0x10, src := 1, inst := 2 } = [1, 2] := by decide +kernel
theorem meets_Unload_told : e0.activeInsts.find? (fun j => !(e0.inst j).lead && decide ((e0.inst j).leadChip = 1 ∧ (e0.inst j).leadInst = 2)) = none := by decide
theorem meets_Unload_part : let e := e0.setInst 15 { active := true, chips := [0, 1], leadChip := 1, leadInst := 2 }
    e.activeInsts.find? (fun j => !(e.inst j).lead && decide ((e.inst j).leadChip = 1 ∧ (e.inst j).leadInst = 2)) = some 15 ∧ e.shv.pfx = [] ∧
      e.kpr.sems = [] := by decide
theorem meets_Unload : let e : Eng := { fetching.setInst 2 { active := true, lead := true, mid := 7, owner := 3, chips := [0] } with
      shv := { models := [(7, { state := 2, inst := 2 })] } }
    fetchMet e = true ∧ unloadOk unloadD = true ∧
      e.activeInsts.find? (fun j => (e.inst j).lead && decide ((e.inst j).mid = (loadOf unloadD).mid)) = some 2 ∧
      e.instIn 2 = true ∧ (e.model 7).unload = none ∧ e.instRequests 2 = false ∧ e.shv.pfx = [] ∧ e.kpr.sems = [] ∧
      e.activeInsts.find? (fun j => decide (j ≠ 2 ∧ (e.inst j).mid = 7)) = none := by decide
theorem meets_Unload_other : let e : Eng := { (fetching.setInst 2 { active := true, lead := true, mid := 7, owner := 3, chips := [0] }).setInst 15 {
      active := true, mid := 7, chips := [0, 1], leadChip := 1 } with shv := { models := [(7, { state := 2, inst := 2 })] }, held := [(2, regKey 0x6084 2, 9)] }
    e.activeInsts.find? (fun j => (e.inst j).lead && decide ((e.inst j).mid = 7)) = some 2 ∧ e.instIn 2 = true ∧
      e.activeInsts.find? (fun j => decide (j ≠ 2 ∧ (e.inst j).mid = 7)) = some 15 := by decide

/-! ### Composition, programs and the selection unit -/

/-- Instance 2 of this chip, of partition 3 and model 7, with request 5 eligible. -/
def serving : Eng :=
  let e := doms [6, 7] (put [(F.CMP_CTL_EN, 0, 1), (F.STW_CTL_EN, 0, 1), (F.SHV_CTL_EN, 0, 1)] (asked (rq 4)))
  { e.setInst 2 { active := true, lead := true, owner := 3, mid := 7, chips := [0], leadInst := 2 } with
    shv := {
      maps := [(5, { resv := 2, root := some 0, leaves := [(0, 1)] })], models := [(7, { state := 2, inst := 2, vocab := 1000 })]
      insts := [(2, { qLoad := 16, shelfMib := 16 })] } }
/-- Instance 2 changed. -/
def inst2 (f : Inst → Inst) : Eng := serving.modInst 2 f
theorem meets_Trigger : serving.mayCompose 2 = true ∧ serving.instIdle 2 = true ∧ (serving.inst 2).quiet = false ∧ serving.hasEligible 2 = true := by decide
theorem meets_StepDone : let x := { slot5 with kind := 1 }
    x.rowed = true ∧ ({ slot5 with kind := 2 } : Slot).rowed = false ∧ ((inst2 (fun y => { y with step := some { st0 with slots := [x], started := true } })).inst 2).lead = true := by
  decide
theorem meets_ComposeStart : let e := inst2 (fun y => { y with trig := some 0 })
    e.stw.run = none ∧ e.nextTrigger = some 2 ∧ e.fb F.STW_CTL_EN = true ∧ (e.inst 2).carried = [] ∧ e.siv.retired.length < 4 ∧
      ∀ q ∈ e.led.recs, (e.param (rqSlot q.2.rqid)).specEn = false := by decide
theorem meets_ComposeStart_halted (u : Nat) : (inst2 (fun y => { y with trig := some 0 })).unitHalted u = false := rfl
/-- A composition with one slot. -/
def comp1 : Comp := { num := 1, start := 0, slots := [slot5] }
theorem meets_CycleLimit : let e : Eng := { inst2 (fun y => { y with comp := some comp1 }) with stw := { run := some 2, cycles := 48000 } }
    e.stwLimit ≤ e.stw.cycles ∧ e.stwStopped = false ∧ (e.inst 2).comp = some comp1 ∧ (e.inst 2).carried = [] ∧ (e.inst 2).changing = false ∧
      e.stw.cfg % 16 = (e.inst 2).cfg ∧ (∃ y ∈ comp1.slots, y.kind ≠ 0) ∧ ∀ y ∈ comp1.slots, y.bound = true ∧ y.kind ≠ 2 := by decide
theorem meets_StepEmit : let c := { comp1 with waiting := true }
    let e := inst2 (fun y => { y with comp := some c })
    e.emitReady 2 = true ∧ (∀ y ∈ c.slots, y.bound = true) ∧ (∃ y ∈ c.slots, y.kind ≠ 0) ∧ e.cstOn = false ∧ e.others 2 = [] ∧ e.mirrorOn = false ∧
      (e.inst 2).changing = false ∧ (∀ y ∈ c.slots, e.belowHere y = true ∧ (e.rc y.lslot).map (fun r => r.deadlineLast) = some 0) ∧
      settled e = true := by decide +kernel
theorem test_step_emit : ((nextOf (exec (.stepEmit 2) (on (inst2 (fun y => { y with comp := some { comp1 with waiting := true } }))))).eng.inst 2).stepNo = 1 := by
  decide
theorem meets_EpochDrained : let e := inst2 (fun y => { y with changing := true })
    (e.inst 2).changing = true ∧ (e.inst 2).step = none := by decide

/-- Model 7 loading on instance 2, its weights in. -/
def loading : Eng := (inst2 (fun y => { y with loading := true })).setModel 7 { state := 1, inst := 2, weightsIn := true, loadRing := 0, loadTag := 9 }
theorem meets_ConfigLoaded : (loading.inst 2).active = true ∧ (loading.inst 2).lead = true ∧ (loading.inst 2).loading = true ∧
    (loading.model 7).weightsIn = true ∧ (loading.model 7).state ≠ 3 ∧ loading.gat.deferq = [] ∧ loading.fv F.KPR_PART_CTL_MODE 3 ≠ 1 ∧
    loading.blocked 1 = false ∧ loading.cmpFull 1 = false ∧ loading.kpr.sems = [] ∧
    loading.activeInsts.find? (fun j => decide (j ≠ 2 ∧ (loading.inst j).mid = 7)) = none := by decide
theorem meets_ConfigLoaded_other : let e := (loading.setModel 7 { state := 2, inst := 15 }).setInst 15 { active := true, mid := 7, chips := [0, 1], leadChip := 1 }
    (e.inst 2).loading = true ∧ (e.model 7).state = 2 ∧ e.activeInsts.find? (fun j => decide (j ≠ 2 ∧ (e.inst j).mid = 7)) = some 15 := by decide
theorem meets_ConfigRestore : let e := serving.setCtx 2 { state := 3 }
    (e.inst 2).loading = false ∧ (e.ctx 2).state = 3 := by decide
theorem meets_ConfigFailed : let e := force [(F.KPR_LEAVE_AMT_CONFIG, 0, 0)] (put [(F.KPR_CTL_EN, 0, 1)]
      (inst2 (fun y => { y with changing := true, cfgLoaded := false })))
    e.av F.KPR_LEAVE_AMT_CONFIG = 0 ∧ e.fb F.KPR_CTL_EN = true ∧ (e.ctx 2).state ≠ 3 ∧ (e.inst 2).changing = true ∧ (e.inst 2).cfgLoaded = false := by decide
theorem meets_ProgramLoad : (0x80000007 : Word).getLsbD 31 = true ∧ e0.stw.load = none ∧ (e0.dom 7).retired = false ∧ (e0.dom 7).st = 3 := by decide
/-- A program image before its check sum: one bundle of NOPs, and no data. -/
def progBody : Nat := putFields [(0, 31, 0, 0x44575453), (4, 15, 0, 0x100), (8, 31, 0, 1)]
/-- The bytes of the image. -/
def progImage : List (BitVec 8) :=
  (leBytes 80 (progBody + crc32 (leBytes 0x3C progBody ++ leBytes 16 0) * 2 ^ (8 * 0x3C))).map (BitVec.ofNat 8)
theorem meets_ProgramLoadEnd : let e : Eng := { e0 with stw := { load := some 7 } }
    e.stw.load = some 7 ∧ e.progCheck 7 (natBytes progImage) true = 1 ∧ e.progCheck 7 (natBytes progImage) false = 9 ∧ settled e = true := by decide +kernel
theorem meets_ViewWrite : let e : Eng := put [(F.STW_VIEW_PAGE_PAGE, 0, 59)] dbgOn
    0x18000 ≤ 0x1BFFC ∧ 0x1BFFC < 0x1C000 ∧ 0x1BFFC % 4 = 0 ∧ e.fv F.STW_VIEW_PAGE_PAGE = 59 ∧ e.dbg.stwHalted = true := by decide
theorem meets_PartProg : (8 : Word).toNat % 8 = 0 ∧ (tgetD e0.stw.progs 7 {}).valid = false := by decide

/-- The composition of instance 2 on the Steward. -/
def composing : Eng := { inst2 (fun y => { y with comp := some { comp1 with slots := [] } }) with stw := { run := some 2, v := [(4, 1)], q := [(1, 5)] } }
theorem meets_Selection : composing.stwIssues = true ∧ (2 : BitVec 16).toNat = 2 ∧ (1 : BitVec 16).toNat < 2 ∧ (composing.inst 2).comp.isSome = true := by decide
theorem meets_Selection_refused : 2 ≤ (2 : BitVec 16).toNat ∧ (on composing).issues = true ∧ composing.enabledLanes 0 false ≠ [] := by decide
theorem meets_Selection_stop : ({ composing with stw := { composing.stw with fitStop := true } } : Eng).stw.fitStop = true := by decide
theorem meets_Selection_candidate : (composing.candidate 2 (composing.handle (5, true))).isSome = true ∧ composing.candidate 2 0 = none := by decide
theorem meets_Selection_fit : ([] : List Nat).sum ≤ composing.budgetLeft 2 (composing.comp 2) := by decide
theorem test_kbegin : (nextOf (exec (.kBegin 0 false 1) (on composing))).eng.stw.mode = some 1 := by decide
theorem test_append : (composing.appendOne 2 (composing.handle (5, true)) 64).1 = 0 := by decide

/-! ### The Pantry, the Sampler, the Sieve and random streams -/

/-- A weight copy of one piece, with leave. -/
def copyW : PanCmd := { kind := 3, id := 4, leaveOk := true }
theorem meets_PieceStart : let e : Eng := { doms [10] (put [(F.PAN_CTL_EN, 0, 1)] e0) with pan := { background := [copyW] } }
    e.fb F.PAN_CTL_EN = true ∧ e.unitHalted 7 = false ∧ e.freePipe = some 0 ∧ e.pan.held = [] ∧
      pickPiece e [] (e.pan.demand ++ e.pan.background) = some (copyW, 0) := by decide
theorem meets_PieceDone_last : let e : Eng := force [(F.KPR_LEAVE_AMT_CONFIG, 0, 0)] { put [(F.KPR_CTL_EN, 0, 1)] e0 with
      pan := { running := [{ copyW with started := 1 }], pipes := [(3, { cmd := 4, piece := 0 })] }, shv := { ops := [(4, { what := 2, mid := 7 })] } }
    tget e.pan.pipes 3 = some { cmd := 4, piece := 0 } ∧ e.panCmd 4 = some { copyW with started := 1 } ∧ e.rsu.queue = [] ∧ e.pan.held = [] ∧
      e.pipeWaits 3 { copyW with started := 1 } = false ∧ copyW.written + 1 = copyW.pieces ∧ (tget e.shv.ops 4).map (fun o => o.what) = some 2 ∧
      e.av F.KPR_LEAVE_AMT_CONFIG = 0 := by decide
theorem meets_PieceDone_asks : loading.loadingOf 7 = [2] := by decide
theorem meets_PieceDone_more : ({ copyW with pieces := 2 } : PanCmd).written + 1 ≠ ({ copyW with pieces := 2 } : PanCmd).pieces := by decide
theorem meets_StreamGrant : (serving.inst 2).active = true ∧ serving.kpr.streamWait = [] ∧ serving.regOpen 3 0 65536 0 = true := by decide
theorem meets_StreamGrant_waits : (force [(F.KPR_PART_CELLAR_RATE_RATE, 3, 1)] (put [(F.KPR_CTL_EN, 0, 1)] serving)).regOpen 3 0 65536 0 = false := by decide

/-- A DECODE slot of request 5, with one row. -/
def slotD : Slot := { slot5 with gen := 1, ntok := 1, tok := 1 }
/-- A step with that slot, last of `n`, the ones before alike. -/
def stepD : Step := { st0 with slots := [slotD, slotD] }
/-- Its control. -/
def ctlD : RowCtl := { tag := 0, rqid := 3 * 2 ^ 26 + 5, gen := 1, sib := 0, rows := 1, drawStep := 1, ndraw := 1, kind := 1, dset := false, draft := 0, drawSlot := 5 }
/-- The Sampler on, the step of two slots outstanding on instance 2, the second slot as `x`. -/
def sampling (r : LRec) (x : SmpSlot) : Eng :=
  { put [(F.SMP_CTL_EN, 0, 1)] (inst2 (fun y => { y with step := some stepD })) with
    led := { serving.led with recs := [(5, r)], gent := [(5, [1])] }, smp := { slots := [(32768, {}), (32769, x)] } }
/-- The tag of row 0 of slot 1 of that step. -/
def tagD : DWord := 1 + 1 * 2 ^ 16 + 2 * 2 ^ 41
theorem meets_Rows_common : let e := sampling (rq 5) {}
    (e.inst 2).step = some stepD ∧ stepD.slots[1]? = some slotD ∧ e.smpSlot (2 * 16384 + 1) = some {} := by decide
theorem meets_LogitRow : let e := sampling (rq 5) {}
    e.smpOn = true ∧ tagD.toNat / 2 ^ 41 % 16 = 2 ∧ tagD.toNat / 2 ^ 16 % 2 ^ 14 = 1 ∧ tagD.toNat / 2 ^ 30 % 2 ^ 7 = 0 ∧
      tagD.toNat / 2 ^ 37 % 16 = stepD.epoch ∧ tagD.toNat % 2 ^ 16 = stepD.num % 65536 ∧ (e.inst 2).active = true ∧ (e.inst 2).lead = true ∧
      1000 = (e.instModel 2).vocab ∧ e.joinUsed < 128 ∧ e.gangFor 4 1000 = some 0 ∧ settled e = true := by decide +kernel
theorem meets_Rows_pending : let e := sampling (rq 5) {}
    stepD.slots[0]? = some slotD ∧ slotD.rowed = true ∧ slotD.done = false ∧ (tgetD e.smp.slots (2 * 16384 + 0) {}).got slotD.rows < slotD.rows := by decide
theorem meets_SpareLane : let e : Eng := { sampling (rq 5) {} with smp := { waking := [(64, 67)] } }
    e.smp.waking.find? (fun z => decide (z.2 = 67)) = some (64, 67) ∧ settled e = true := by decide +kernel
theorem meets_ControlJoin : let e : Eng := { sampling (rq 5) {} with smp := { slots := [(32768, {}), (32769, {})], area := [(81921, ctlD)] } }
    e.smpOn = true ∧ stepD.num = 1 ∧ tget e.smp.area ((2 * 2 + 1 % 2) * 16384 + 1) = some ctlD ∧ (e.param (e.firstOf slotD.lslot)).grammarEn = false := by decide
theorem meets_DataTimer : let e := sampling (rq 5) { st := 1, due := some 9 }
    (e.inst 2).comp = none ∧ (e.smpSlot 32769).map (fun x => (x.st, x.due)) = some (1, some 9) ∧ settled e = true := by decide +kernel
theorem meets_StepTimer : let e : Eng := { (sampling (rq 5) {}).modInst 2 (fun y => { y with step := some { stepD with timer := some 9 } }) with
      smp := { slots := [(32768, { st := 1 }), (32769, {})] } }
    ((List.range stepD.slots.length).zip stepD.slots).filter (e.stepTimerHits 2) = [(1, slotD)] ∧
      (tgetD e.smp.slots (2 * 16384 + 0) {}).got slotD.rows < slotD.rows ∧ settled e = true := by decide +kernel
/-- A row of the second slot, and its result. -/
def rowD : Row := { fmt := 0, len := 1000, data := [], lane := 0, gang := 1 }
def outD : RowOut := { toks := [some 9] }
theorem meets_RowSampled : let a := sampling (rq 5) { st := 2, ctl := some ctlD, rows := [(0, rowD)] }
    let e : Eng := { a with smp := { a.smp with counts := [(0, (32769, 0, []))] } }
    e.smpOn = true ∧ slotD.kind = 1 ∧ e.rc slotD.lslot = some (rq 5) ∧ (e.param 5).grammarEn = false ∧ rowD.res = none ∧
      f32Pos (e.param 5).temperature = false ∧ e.countWaits 32769 0 slotD rowD = false := by decide
theorem meets_SlotCommit : let r := { rq 5 with newCount := 1, shared := false }
    let e := sampling r { st := 2, ctl := some ctlD, rows := [(0, { rowD with res := some outD })] }
    (outD.drawn 0).isSome = true ∧ r.state = 5 ∧ r.draftV = false ∧ (e.param 5).stopEn = false ∧ r.newCount + 2 ≤ r.maxNew ∧ r.deadlineLast = 0 ∧
      (tgetD e.led.gent 5 []).length % 1020 ≠ 0 ∧ e.mirrorOn = false ∧ e.hat.heldRecs = [] ∧ e.blocked 1 = false ∧ e.cmpFull 1 = false ∧
      (e.inst 2).comp = none := by decide
theorem test_slot_commit : ((nextOf (exec (.slotCommit 2 1 0 [] []) (on (sampling { rq 5 with newCount := 1, shared := false }
    { st := 2, ctl := some ctlD, rows := [(0, { rowD with res := some outD })] })))).eng.rc 5).map (fun r => r.lastToken) = some 9 := by decide

theorem meets_Grammar_words : (0x80000005 : Word).getLsbD 31 = true ∧ (0x80000005 : Word).getLsbD 16 = false ∧ (0x80010005 : Word).getLsbD 16 = true ∧
    e0.siv.install = none ∧ (e0.gram 5).valid = false ∧ (({ e0 with siv := { dir := [(5, { valid := true, live := 1 })] } } : Eng).gram 5).valid = true := by decide
theorem meets_GrammarInstallEnd : ({ e0 with siv := { install := some (5, 4096) } } : Eng).siv.install = some (5, 4096) := by decide
/-- The start of an image of one class and 32,769 tokens. -/
def gramHead : List (BitVec 8) := (leBytes 0x28 (putFields [(0x0C, 31, 0, 32769), (0x1C, 31, 0, 1)])).map (BitVec.ofNat 8)
theorem meets_MaskPage : let e : Eng := { put [(F.SIV_CTL_EN, 0, 1)] e0 with siv := { dir := [(65535, { valid := true, image := gramHead })] } }
    (e.gram 65535).valid = true ∧ e.sieveOn = true ∧ 0 < imgField (e.gramImg 65535) 0x1C 4 ∧ 1 < maskPages (gVocab (e.gramImg 65535)) ∧
      e.pageIn 65535 0 1 = false ∧ e.siv.cache.length < 2048 ∧ e.dbg.mem = [] := by decide
/-- Jumps of each kind of generator. -/
def jmp (g : Nat) : Jump := { rank := 0, gen := g, seed := 1, pos := 2, key := 1 }
theorem meets_Jumps : ∀ g ∈ [67, 71, 72, 73], let e : Eng := { doms [86] (put [(F.RSU_CTL_EN, 0, 1)] e0) with
      rsu := { queue := [jmp g] }, smp := { slots := [(1, { st := 2 })] } }
    e.rsuOn = true ∧ e.rsu.jumpOk = true ∧ e.nextJump = some (jmp g) ∧ e.genBad g = false ∧ (tgetD e.smp.slots 1 {}).st = 2 := by decide
theorem meets_Service : let e := stepping 0 { st0 with slots := [slot5] } e0
    e.rsu.svcOk = true ∧ e.svcSlot 16 = some slot5 ∧ e.svcSlot 0 = none ∧ e.rsu.probeBusy = false := by decide
theorem meets_Service_halted : ({ e0 with ras := { caps := [(10, { halted := true })] } } : Eng).unitHalted 10 = true ∧ e0.unitHalted 10 = false := by decide
theorem meets_Service_off : ({ e0 with rsu := { svcOk := false } } : Eng).rsu.svcOk = false := by decide

/-! ### Keeper -/

/-- Keeper on. -/
def kprE : Eng := doms [88] (put [(F.KPR_CTL_EN, 0, 1)] e0)
theorem meets_Periods : kprE.fb F.KPR_CTL_EN = true ∧ kprE.kprOn = true ∧ kprE.kpr.streamWait = [] ∧
    (∀ l, l < 9 → (kprE.link l).waiting = []) ∧ ∀ p, p < 64 → (kprE.part p).active = false ∧ settled kprE = true := by decide +kernel
theorem test_refill : ((nextOf (exec .regulatorRefill (on (force [(F.KPR_PART_STORE_RATE_RATE, 63, 5), (F.KPR_PART_STORE_BURST_BURST, 63, 3)] kprE)))).eng.part 63).store = 3 := by
  decide

/-- Partition 3 selected and enabled in whole mode, with instance 2 resident. -/
def parts : Eng := put [(F.KPR_PART_SEL_PID, 0, 3)] serving
theorem meets_PartitionCtl_free (k : Nat) : ¬ ((e0.inst k).active = true ∧ (e0.inst k).lead = true ∧ (e0.inst k).owner = 0) :=
  fun h => Bool.false_ne_true h.1
theorem meets_PartitionCtl_owns : let e := parts
    (7 : Word).getLsbD 0 = true ∧ (7 : Word).toNat / 2 % 4 ≠ e.fv F.KPR_PART_CTL_MODE 3 ∧ (e.inst 2).active = true ∧ (e.inst 2).lead = true ∧
      (e.inst 2).owner = e.fv F.KPR_PART_SEL_PID ∧ (e.instModel 2).state = 2 ∧ e.instIn 2 = true := by decide
theorem meets_PartitionCtl_clear : let e := put [(F.KPR_PART_CTL_EN, 0, 1)] e0
    (0 : Word).getLsbD 0 = false ∧ e.fb F.KPR_PART_CTL_EN 0 = true ∧ e.kpr.sems = [] := by decide
theorem meets_Tiles_taken : let e := put [(F.KPR_PART_TILES_GROUPS, 63, 1)] e0
    e.fv F.KPR_PART_TILES_GROUPS 63 &&& ((1 : Word).toNat % 2 ^ 16) ≠ 0 := by decide
theorem meets_Tiles_free : ∀ q ∈ (List.range 64).filter (fun q => decide (q ≠ 3)), parts.fv F.KPR_PART_TILES_GROUPS q &&& 1 = 0 := by decide
theorem meets_Tiles_owns : (1 : Nat) ≠ parts.fv F.KPR_PART_TILES_GROUPS 3 := by decide
theorem meets_RafResv : let e := put [(F.KPR_PART_RAF_RESV_RING, 63, 255)] parts
    let others := (List.range 64).filter (fun q => decide (q ≠ 3))
    256 < 2 + (others.map (fun q => e.fv F.KPR_PART_RAF_RESV_RING q)).sum ∧ ¬ 256 < 1 + (others.map (fun q => e.fv F.KPR_PART_RAF_RESV_RING q)).sum := by decide
theorem meets_RafResv_wrapped : wrapped [0, 16] = true := by decide

/-- Semaphore 63 of partition 3 only; instances 2 and 4 of it. -/
def sems (x : Sem) : Eng :=
  let e := (force [(F.KPR_SEM_PART_LO_PART, 63, 8)] serving).setInst 4 { active := true, lead := true, owner := 3, mid := 8 }
  { e with kpr := { e.kpr with sems := [(63, x)] }, now := 9 }
/-- Whether an instance's partition may use semaphore 63. -/
def mine (e : Eng) (i : Nat) : Bool :=
  decide ((e.av F.KPR_SEM_PART_LO_PART 63 + 2 ^ 32 * e.av F.KPR_SEM_PART_HI_PART 63) / 2 ^ (e.inst i).owner % 2 = 1)
theorem meets_Acquire : (sems {}).unitHalted 12 = false ∧ ((sems {}).inst 2).active = true ∧ mine (sems {}) 2 = true ∧ ((sems {}).sem 63).holder = none := by decide
theorem meets_Acquire_denied : (stepping 0 st0 e0).av F.KPR_SEM_PART_LO_PART 63 = 0 ∧ mine (stepping 0 st0 e0) 0 = false := by decide
theorem meets_Acquire_waits : let e := sems { holder := some 4 }
    mine e 2 = true ∧ (e.sem 63).holder = some 4 ∧ (e.sem 63).swapped = false ∧ (∀ w ∈ (e.sem 63).waiters, w.1 ≠ 2) ∧
      ∀ k, k < 64 → ∀ w ∈ (e.sem k).waiters, w.1 ≠ 4 := by decide
theorem meets_Release : let e := sems { holder := some 2 }
    (e.sem 63).holder = some 2 ∧ e.kpr.dons = [] ∧ (∀ k, k < 64 → k ≠ 63 → (e.sem k).waiters = []) ∧ (e.sem 63).waiters = [] := by decide
theorem meets_Release_waiter : let e := sems { holder := some 2, waiters := [(5, 7), (4, 7)] }
    (∀ v ∈ (e.sem 63).waiters, (e.inst v.1).owner < 64 ∧ v.1 < 16) ∧ (e.ctx 5).state = 0 ∧
      ∀ v ∈ (e.sem 63).waiters, v ≠ (5, 7) → v.1 ≠ 5 ∧ (7 < v.2 ∨ (7 = v.2 ∧ ((e.inst 5).owner < (e.inst v.1).owner ∨
        ((e.inst 5).owner = (e.inst v.1).owner ∧ 5 < v.1)))) := by decide
theorem test_release : ((nextOf (exec (.release 63 2) (on (sems { holder := some 2, waiters := [(5, 7), (4, 7)] })))).eng.sem 63).holder = some 5 := by decide
theorem meets_DonationLong : let d : Donation := { sem := 63, holder := 2, waiter := 4, wpid := 3, start := some 5 }
    let e : Eng := { sems { holder := some 2 } with kpr := { dons := [d] } }
    d.sem = 63 ∧ e.kpr.dons = [d] ∧ d.start = some 5 ∧ d.warned = false ∧ settled e = true := by decide +kernel

/-- Instance 2 resident under Keeper, as its context is. -/
def ctxE (c : Ctx) : Eng := (doms [88] (put [(F.KPR_CTL_EN, 0, 1)] serving)).setCtx 2 c
theorem meets_Save_home : let e := ctxE { want := 1 }
    (e.inst 2).active = true ∧ (e.inst 2).lead = true ∧ e.instIn 2 = true ∧ (e.ctx 2).state = 0 ∧
      e.kprOn = true ∧ (e.ctx 2).want = 1 ∧ (e.inst 2).step = none ∧ ∀ k ∈ (e.inst 2).chips, k = e.self := by decide
/-- GO of an operation on instance 2. -/
def ctxGo (op : Nat) : Word := BitVec.ofNat 32 (2 ^ 31 + op + 2 ^ 8 * 2)
theorem meets_Save_go : (ctxGo 1).getLsbD 31 = true ∧ serving.kpr.cmd = none ∧ (ctxGo 1).toNat % 8 = 1 ∧ (ctxGo 1).toNat / 2 ^ 8 % 16 = 2 ∧
    (ctxGo 1).getLsbD 3 = false ∧ (ctxGo 1).getLsbD 4 = false ∧ (ctxGo 9).toNat % 8 = 1 ∧ (ctxGo 9).getLsbD 3 = true ∧ (ctxGo 9).getLsbD 4 = false := by decide
theorem meets_Save_saved : ((ctxE { state := 2 }).ctx 2).state = 2 := by decide
theorem meets_FreezeHalt : let e := ctxE { state := 1, haltAt := some 9 }
    (e.ctx 2).state = 1 ∧ (e.ctx 2).halted = false ∧ (e.ctx 2).haltAt = some 9 ∧ e.now ≤ 9 ∧ settled e = true := by decide +kernel
theorem meets_SaveComplete_common : let e := ctxE { state := 1, flushed := true }
    e.led.recs.sorted = true ∧ e.mirrorOn = false ∧ e.kpr.dons = [] ∧ (∀ k, k < 64 → (e.sem k).waiters = []) ∧ e.shv.ops = [] ∧
      (∀ y ∈ e.pan.demand ++ e.pan.background ++ e.pan.held, y.inst ≠ 2) ∧ tget e.kpr.streamGrants 2 = none ∧
      (∀ l, l < 9 → 2 ∉ (e.link l).bAsked) ∧ (∀ x ∈ e.led.recs, x.2.draftV = false) ∧ (e.ctx 2).gone = false ∧
      e.rowsToCommit 2 = false := by decide
theorem meets_SaveComplete_drain : let e := ctxE { state := 1, flushed := true }
    (e.inst 2).comp = none ∧ (e.inst 2).step = none ∧ (e.ctx 2).flushed = true ∧ (e.ctx 2).exported = none ∧ settled e = true := by decide +kernel
theorem meets_SaveComplete_freeze : let e := force [(F.KPR_SAVE_RATE_RATE, 0, 1)] (ctxE { state := 1, freeze := true, halted := true, haltAt := some 9 })
    (e.ctx 2).halted = true ∧ e.stw.run ≠ some 2 ∧ e.av F.KPR_SAVE_RATE_RATE ≠ 0 ∧ (e.ctx 2).haltAt.isSome = true ∧ settled e = true := by decide +kernel
theorem test_save_complete : ((nextOf (exec (.saveComplete { inst := 2, shapes := [] }) (on (ctxE { state := 1, flushed := true })))).eng.ctx 2).state = 2 := by decide

theorem meets_Restore : let e := force [(F.KPR_LEAVE_AMT_CONFIG, 0, 0)] (ctxE { state := 2, want := 3 })
    e.kprOn = true ∧ e.av F.KPR_LEAVE_AMT_CONFIG = 0 ∧ (e.ctx 2).state = 2 ∧ (e.ctx 2).gone = false ∧ (e.ctx 2).frozen = false ∧
      e.backWaits 2 = false ∧ (e.ctx 2).want = 3 ∧ (e.ctx 2).next = false ∧ e.regionFree 2 = true ∧ (ctxGo 2).toNat % 8 = 2 ∧
      (ctxGo 2).getLsbD 4 = false ∧ (e.inst 2).active = true ∧ e.ringPid ((ctxGo 2).toNat / 2 ^ 16 % 256) = (e.inst 2).owner := by decide
/-- Two instances of sliced partition 3, the second resident. -/
def sliced (c d : Ctx) : Eng :=
  let e := (put [(F.KPR_PART_CTL_MODE, 3, 1)] (ctxE c)).setInst 4 { active := true, lead := true, owner := 3, mid := 8, chips := [0] }
  (e.setModel 8 { state := 2, inst := 4 }).setCtx 4 d
theorem meets_Restore_held : (sliced { state := 2 } {}).regionFree 2 = false := by decide
theorem meets_Restore_gone : ((ctxE { state := 2, gone := true }).ctx 2).gone = true := by decide
theorem meets_RestoreComplete : let e := ctxE { state := 3, cfgIn := true }
    e.shv.groups = [] ∧ (e.inst 2).changing = false ∧ (e.ctx 2).state = 3 ∧ (e.ctx 2).cfgIn = true ∧ (e.ctx 2).saveAfter = none ∧ (e.ctx 2).logicalOnly = false ∧ (e.ctx 2).imgBins = [] ∧ settled e = true := by decide +kernel
theorem meets_Discard : (ctxGo 3).toNat % 8 = 3 ∧ (ctxGo 3).getLsbD 4 = false ∧ (ctxGo 0x13).toNat % 8 = 3 ∧ (ctxGo 0x13).getLsbD 4 = true := by decide
/-- An EXPORT image of nothing but its header. -/
def image0 : Image :=
  let m : Image := {
    hdr := BitVec.ofNat 2048 (putFields [(0, 31, 0, 0x4D495043), (4, 15, 0, 0x0100)]), shape := [], reqs := [], groups := [], step := none
    waiting := none, bins := [], array := [] }
  { m with hdr := m.hdr ||| BitVec.ofNat 2048 (imgCrc m * 2 ^ (8 * 0xFC)) }
theorem meets_Images : imgValid image0 = true ∧ imgValid { image0 with hdr := 0 } = false ∧ (ctxGo 0x12).getLsbD 4 = true ∧
    (ctxGo 0x12).toNat % 8 = 2 := by decide +kernel
theorem test_discard : ((nextOf (exec (.discard (ctxGo 3) none) (on (ctxE { state := 2 })))).eng.ctx 2).gone = true := by decide

theorem meets_SliceEnd : let e := ((sliced { sliceStart := some 5 } { state := 2, next := true }).modInst 2 (fun y => { y with step := some st0 }))
    e.kprOn = true ∧ e.fv F.KPR_PART_CTL_MODE 3 = 1 ∧ e.fb F.KPR_PART_CTL_EN 3 = true ∧ e.running 3 = some 2 ∧ (e.ctx 2).sliceStart = some 5 ∧
      (e.inst 2).step.isSome = true ∧ e.rivals 2 = [4] ∧ (e.ctx 4).state = 2 ∧ (e.ctx 4).held = false ∧ (e.ctx 4).gone = false ∧
      (e.ctx 4).next = true ∧ settled e = true := by decide +kernel
theorem meets_SliceEnd_alone : let e := (sliced { sliceStart := some 5 } {}).setModel 8 {}
    e.rivals 2 = [] ∧ e.running 3 = some 2 ∧ settled e = true := by decide +kernel

theorem meets_BlockWindow : let e := sliced {} { state := 2 }
    let e : Eng := force [(F.KPR_BLOCK_WINDOW_WINDOW, 0, 100)] { e with
      led := { recs := [(5, { rq 8 with prior := 4, inst := 4, admitStamp := 1 })] }, kpr := { e.kpr with blockSince := some 0 } }
    let u := e.watchBlock
    let a := u.advance (0 + 100)
    e.kprOn = true ∧ (e.ctx 2).want = 0 ∧ e.av F.KPR_BLOCK_WINDOW_WINDOW ≠ 0 ∧ u.kpr.blockSince = some 0 ∧ u.takeRunnable = some 4 ∧
      ({ a with kpr := { a.kpr with blockSince := some a.now } } : Eng).evictee 4 = some 2 ∧ (e.inst 2).step = none ∧ settled e = true := by decide +kernel

/-- A grant of leave for a Pantry command, and a request that waits. -/
def grantB : Leave := { cls := 1, amt := 40, pid := 3, who := 4, start := 9 }
def waitP : Leave := { cls := 2, amt := 40, pid := 3, who := 2, step := 7 }
theorem meets_PowerWindow : kprE.kprOn = true ∧ kprE.kpr.queue = [] ∧ kprE.kpr.heldReqs = [] ∧ kprE.kpr.grants = [] ∧ (kprE.cap_ 12).handling = false ∧ settled kprE = true := by decide +kernel
theorem meets_LeaveStart : let e : Eng := { kprE with kpr := { grants := [grantB] } }
    e.kprOn = true ∧ e.kpr.grants = [grantB] ∧ grantB.started = false ∧ grantB.ended = none ∧ e.now ≤ grantB.start ∧ settled e = true := by decide +kernel
theorem meets_LeaveWait : let e : Eng := force [(F.KPR_LEAVE_WAIT_WAIT, 0, 5)] { kprE with kpr := { queue := [grantB], overCap := true } }
    e.kpr.queue = [grantB] ∧ e.kpr.heldReqs = [] ∧ grantB.unmade = false ∧ grantB.late = false ∧ e.av F.KPR_LEAVE_WAIT_WAIT ≠ 0 ∧ grantB.cls ≠ 2 ∧
      e.kpr.overCap = true ∧ settled e = true := by decide +kernel
theorem meets_LeaveWait_prefill : waitP.cls = 2 ∧ waitP.step ≠ ((kprE.inst waitP.who).comp.getD Comp.none).num := by decide
theorem test_over_cap : (nextOf (exec (.leaveWindowStart (some 8191)) (on kprE))).eng.kpr.overCap = true := by decide

/-! ### Rafter -/

/-- Rafter on, with the lanes given. -/
def lanes (l : Tab Lane) : Eng := { put [(F.RAF_CTL_EN, 0, 1)] e0 with raf := { lanes := l } }
/-- Lanes 0, 7 and 8 in service. -/
def link0 : Eng := lanes [(0, { st := 3, log := some 0 }), (7, { st := 3, log := some 7 }), (8, { st := 3, log := some 8 })]
/-- A frame as received, with its own check. -/
def rx (f : Frame) : RxFrame :=
  { hdr := BitVec.ofNat 128 f.header, payload := f.words.map (BitVec.ofNat 64), crc := BitVec.ofNat 32 f.crc, arrival := 0 }
theorem meets_rxOk : rxOk (rx { typ := 7, src := 1, arg := 2 + 256 * 9 }) = true ∧ rxOk (rx { typ := 3, src := 1, len := 48, words := [0, 0, 50, 0, 50, 0] }) = true ∧
    rxOk { rx { typ := 2, src := 1 } with crc := 0 } = false := by decide +kernel
theorem meets_Lanes : (lanes []).rafOn = true ∧ ((lanes [(11, { st := 1 })]).lane 11).st = 1 ∧ ((lanes [(11, { st := 2, identSent := 5 })]).lane 11).st = 2 ∧
    5 + 10000 < 0 + 1000000 ∧ settled (lanes [(11, { st := 1 })]) = true ∧ settled (lanes [(11, { st := 2, identSent := 5 })]) = true := by decide +kernel
theorem test_lane_disabled : ((nextOf (exec (.laneTrainTimeout 11) (on (lanes [(11, { st := 1, fails := 2 })])))).eng.lane 11).st = 5 := by decide
theorem meets_FecLoss : (link0.lane 7).log = some 7 ∧ (8 : Nat) ≠ 7 ∧ (link0.lane 8).st = 3 ∧ (link0.lane 8).log = some 8 ∧
    (linkLanes (laneLink 7)).contains 8 = true := by decide
theorem meets_Silence : link0.lanesOf 7 [3, 4] ≠ [] ∧ (∀ i, i < 16 → (link0.inst i).active = false) ∧ link0.raf.mapLoaded = false ∧
    (link0.link 7).waiting = [] ∧ link0.ras.sled.chip = none ∧ link0.ras.ring.chip = none ∧ settled link0 = true := by decide +kernel
theorem meets_SpareJoin : let e : Eng := { link0 with raf := { link0.raf with mapLoaded := true } }
    e.raf.mapLoaded = true ∧ (∀ p, p < 12 → (e.lane p).st = 3 → (e.lane p).log ≠ some 10) ∧ (e.lane 11).st = 0 ∧ settled e = true := by decide +kernel
/-- The IDENT of chip 1 on its lane 6, of map 0 and versions 0x0200 to `ver`. -/
def identF (ver : Nat) : Frame := { typ := 1, src := 1, len := 16, words := [1 + 6 * 2 ^ 22, 0x0200 + 2 ^ 16 * ver] }
/-- Lane 0 in IDENT, chip 1 present or not. -/
def inIdent (p : Bool) : Eng := { lanes [(0, { st := 2 })] with raf := { lanes := [(0, { st := 2 })], chips := [(1, { present := p })] } }
theorem meets_Ident : let f := frameOf (rx (identF 0x0201))
    f.typ = 1 ∧ f.len = 16 ∧ (inIdent true).placeLane 0 1 6 = some 0 ∧ (inIdent false).placeLane 0 1 6 = none ∧
      f.words.getD 1 0 / 2 ^ 16 % 2 ^ 16 / 256 = 2 ∧ (inIdent true).mirrorOn = false ∧ ((inIdent true).link 0).waiting = [] := by decide
theorem test_ident : ((nextOf (exec (.ident 0 (rx (identF 0x0201))) (on (inIdent true)))).eng.lane 0).st = 3 ∧
    ((nextOf (exec (.ident 0 (rx (identF 0x0301))) (on (inIdent true)))).eng.lane 0).st = 4 := by decide

/-- Synchronised with the parent on lane 0, in a Tally state. -/
def timed (st : Nat) : Eng := { link0 with raf := { link0.raf with parent := some 0, depth := 1 }, tal := { state := st } }
/-- An answer whose stamps are `d` ticks ahead. -/
def replyF (d : Nat) : Frame := { typ := 3, src := 1, len := 48, words := [0, 0, d, 0, d, 0] }
theorem meets_Sync : ((timed 2).lane 0).log = some 0 ∧ (frameOf (rx { typ := 2, len := 96 })).typ = 2 ∧ (frameOf (rx { typ := 2, len := 96 })).len = 96 ∧ settled (timed 2) = true := by decide +kernel
theorem meets_SyncReply : let f := frameOf (rx (replyF 50))
    f.typ = 3 ∧ f.len = 48 ∧ (timed 2).isMaster = false ∧ (timed 2).isActing = false ∧ (timed 2).raf.parent = some 0 ∧ ({} : Boot).cal.getD 0 0 = 0 ∧
      (timed 2).raf.depth ≤ 8 := by decide
theorem test_sync_reply : (nextOf (exec (.syncReply 0 (rx (replyF 50))) (on (timed 2)))).eng.tal.state = 2 ∧
    (nextOf (exec (.syncReply 0 (rx (replyF 51))) (on (timed 2)))).eng.tal.state = 0 ∧
    (nextOf (exec (.syncReply 0 (rx (replyF 50))) (on (timed 0)))).eng.tal.state = 1 := by decide
theorem meets_ParentTimeout : ∀ st ∈ [1, 2], let e : Eng := { timed st with raf := { link0.raf with orphanAt := some 7 } }
    e.tal.state = st ∧ e.isActing = false ∧ e.raf.parent = none ∧ e.raf.orphanAt = some 7 ∧ settled e = true := by decide +kernel
theorem meets_Sync_calm : let e := (timed 2).setInst 15 { active := true, chips := [0, 1], step := some { st0 with started := true } }
    ∀ i, i < 16 → (e.inst i).active = true → (e.inst i).chips.length ≤ 1 ∨ e.stepAhead i = false := by decide
theorem meets_Holdover : (timed 3).tal.state = 3 ∧ (timed 1).tal.state = 1 ∧ settled (timed 3) = true ∧ settled (timed 1) = true := by decide +kernel

theorem meets_Links : link0.rafOn = true ∧ link0.linkActive 0 = true ∧ link0.linkActive 7 = true ∧ (link0.link 0).waiting = [] ∧ (link0.link 0).bAsks = [] ∧
    link0.self = 0 := by decide
/-- The link with a frame that waits for its acknowledgement. -/
def sentOne : Eng := { link0 with raf := { link0.raf with links := [(0, { sendSeq := 1, sSent := 1, unacked := [{ typ := 7, seq := 0 }] })] } }
theorem meets_Credit : let f := frameOf (rx { typ := 4, src := 1, len := 2, arg := 2 ^ 32, words := [0x15] })
    f.typ = 4 ∧ f.len = 2 ∧ f.arg / 2 ^ 32 % 2 = 1 ∧
      (sentOne.link 0).unacked.filter (fun g => decide ((g.seq + 65536 - f.arg / 2 ^ 16 % 2 ^ 16) % 65536 < 32768)) ≠ [] := by decide
theorem test_retry : ((nextOf (exec (.credit 0 (rx { typ := 4, src := 1, arg := 2 ^ 32 })) (on sentOne))).eng.fv F.RAF_RETRY_COUNT) = 1 := by decide
theorem meets_CreditReq : let f := frameOf (rx { typ := 5, src := 1, arg := 15 + 16 * 8 })
    f.typ = 5 ∧ f.dst = link0.self ∧ f.seq = (link0.link 0).recvSeq ∧ f.arg % 16 = 15 ∧ f.arg / 16 % 16 = 8 ∧ 8 ≤ (link0.link 0).bFree := by decide
theorem meets_PeerLost : let f := frameOf (rx { typ := 7, src := 1, arg := 2 + 256 * 9 })
    f.typ = 7 ∧ f.dst = link0.self ∧ f.arg % 64 ≠ link0.self ∧ (f.arg % 64, f.arg / 2 ^ 8 % 2 ^ 56) ∉ link0.raf.seenLost ∧ link0.raf.mapLoaded = false ∧
      (link0.link 7).sSent < (link0.link 7).sDone + 48 ∧ ∀ j, j < 16 → (link0.inst j).active = false := by decide
theorem test_peer_lost : (nextOf (exec (.peerLost 0 (rx { typ := 7, src := 1, arg := 2 + 256 * 9 })) (on link0))).eng.raf.lost = [2] := by decide

/-- Instance 15 follows instance 2 of chip 1. -/
def following : Eng := link0.setInst 15 { active := true, chips := [0, 1], leadChip := 1, leadInst := 2, step := some st0 }
theorem meets_StepBcast : let f := frameOf (rx { typ := 0x10, src := 1, inst := 2, arg := 2 })
    f.typ = 0x10 ∧ following.followed 1 2 = some 15 ∧ bcastNext following.self 1 (following.inst 15).chips = [] ∧
      (following.bcastGet 1 2 2).dead = false ∧ (following.bcastGet 1 2 2).hdr = [] ∧
      ((following.bcastGet 1 2 2).take 0 0 false f.words).whole = false := by decide
theorem meets_StepLate : let e : Eng := { stepping 15 { st0 with slots := [slot5] } link0 with led := { recs := [] } }
    let f := frameOf (rx { typ := 0x11, src := 1, inst := 15, arg := 1 })
    f.typ = 0x11 ∧ f.inst = 15 ∧ (e.inst 15).lead = true ∧ st0.num % 2 ^ 48 = f.arg % 2 ^ 48 ∧ (e.inst 15).comp = none ∧ (e.inst 15).carried = [] ∧
      e.bin.entries = [] ∧ e.ras.quiescing = false ∧ e.kpr.queue = [] ∧ e.kpr.heldReqs = [] := by decide
theorem meets_StepAbort : let f := frameOf (rx { typ := 0x12, src := 1, inst := 2, arg := 1 })
    f.typ = 0x12 ∧ following.followed f.src f.inst = some 15 ∧ (following.inst 15).step = some st0 ∧ st0.num % 2 ^ 48 = f.arg % 2 ^ 48 ∧
      following.bin.entries = [] := by decide
theorem test_freeze : ((nextOf (exec (.freeze 0 (rx { typ := 0x13, src := 1, inst := 2, arg := 9 })) (on following))).eng.ctx 15).haltAt = some 9 := by decide
theorem meets_ShelverRec : let f := frameOf (rx { typ := 0x18, src := 1, inst := 2, words := [1 + 2 ^ 32 * 5, 3, 0, 0] })
    f.typ = 0x18 ∧ f.words.length = 4 ∧ (shvRecOf f.words).kind = 1 := by decide

theorem meets_Mirror : let f := frameOf (rx { typ := 0x20, src := 1, words := 5 :: toWords 16 ((rq 4).bits true) })
    f.typ = 0x20 ∧ f.words.length = 17 ∧ f.words.getD 0 0 / 2 ^ 24 % 2 = 0 ∧ f.src ≠ link0.self ∧
      link0.nextLink 1 (shortUp link0.self 1) = some 0 ∧ (link0.link 0).sSent < (link0.link 0).sDone + 48 := by decide
theorem test_mirror : ((nextOf (exec (.mirror 0 (rx { typ := 0x20, src := 1, words := 5 :: toWords 16 ((rq 4).bits true) })) (on link0))).eng.ras.mirrors.map
    (fun m => (m.chip, m.slot, m.rc.state))) = [(1, 5, 4)] := by decide
theorem meets_MirrorAck : let v : CmpRec := { status := 0 }
    let e : Eng := { link0 with ras := { sled := { chip := some 1, state := 2 } }, hat := { heldRecs := [(4, v)] } }
    e.ras.sled.chip = some 1 ∧ e.ras.sled.state = 2 ∧ e.ras.ring.chip = none ∧ e.ras.ring.state = 0 ∧ e.hat.heldRecs = [(4, v)] ∧ 4 ≤ 4 := by decide
/-- The order as a frame of chip 1. -/
def ordF (op : Nat) : RxFrame := rx { typ := 0x28, src := 1, words := toWords 16 (ord op).toNat }
theorem meets_PeerOrder : ∀ op ∈ [2, 6], let d : DescBits := BitVec.ofNat 1024 (ofWords ((frameOf (ordF op)).words.take 16))
    (frameOf (ordF op)).typ = 0x28 ∧ (ordOf d).opcode = op ∧ ordOk d = true ∧ link0.hat.orders = [] := by decide
/-- A PREEMPT of chip 1 that waits. -/
def peerO : Order := { opcode := 5, rqid := 3 * 2 ^ 26 + 5, gen := 1, stamp := 0, peer := some 1, seq := 4 }
/-- The link, nothing to fetch, a running request and the order, in the tick after its stamp's. -/
def peerOrd : Eng := lastCycle { link0 with led := { recs := [(5, rq 6)] }, hat := { orders := [peerO] }, now := 1 }
theorem meets_PeerOrder_applied : ({ peerOrd with hat := { peerOrd.hat with orders := [] } } : Eng).Rested ∧ peerOrd.now < (on peerOrd).tick.eng.now ∧
    peerOrd.binOn = false ∧ peerOrd.bin.stalled = [] ∧ peerOrd.hat.orders = [peerO] ∧ peerOrd.hat.behind = [] ∧ peerO.stamp < peerOrd.now ∧
    peerOrd.fetchedUpTo peerO.stamp = true ∧ peerOrd.mirrorOn = false ∧ peerOrd.fb F.SHV_CTL_EN = false ∧
    peerOrd.named peerO.rqid peerO.gen = some 5 ∧ peerOrd.rc 5 = some (rq 6) ∧ (rq 6).nextSib = 0xFFFFFF ∧ peerOrd.rafOn = true ∧ 1 ≠ peerOrd.self ∧
    peerOrd.nextLink 1 (shortUp peerOrd.self 1) = some 0 ∧ (peerOrd.link 0).waiting = [] ∧ (peerOrd.link 0).sSent < (peerOrd.link 0).sDone + 48 := by
  unfold Eng.Rested; decide +kernel
theorem test_peer_order : let t := nextOf (step (on peerOrd))
    (t.eng.rc 5).map (fun r => (r.state, r.prior)) = some (7, 6) ∧ t.eng.hat.orders = [] := by decide
theorem meets_PeerOrder_unlisted : ∀ op ∈ [1, 7],
    (ordOf (BitVec.ofNat 1024 (ofWords ((frameOf (ordF op)).words.take 16)))).opcode = op ∧ (op < 2 ∨ 6 < op) := by decide
/-- A map of two chips, before its check sum. -/
def mapBody : Nat := putFields [(0, 31, 0, 0x50464152), (4, 15, 0, 0x0100), (8, 31, 0, 5), (0xC, 31, 0, 2 + 2 ^ 7), (0x40, 31, 0, 7), (0x50, 31, 0, 1)]
/-- Its bytes. -/
def mapImage : List (BitVec 8) :=
  (leBytes 1088 (mapBody + crc32 (leBytes 0x3C mapBody ++ (leBytes 1088 mapBody).drop 0x40) * 2 ^ (8 * 0x3C))).map (BitVec.ofNat 8)
theorem meets_MapLoadEnd : mapResult (e0.fv F.RAF_POS_POS) (natBytes mapImage) true = 1 := by decide +kernel
theorem meets_MapLoadEnd_unread : mapResult (e0.fv F.RAF_POS_POS) (natBytes mapImage) false = 8 ∧
    ({ e0 with raf := { mapBusy := true } } : Eng).raf.mapBusy = true := by decide +kernel
theorem meets_MapLoadEnd_lanes : ∀ p, p < 12 → (e0.lane p).st ≠ 3 ∧ (e0.lane p).st ≠ 4 := by decide

/-! ### Faults -/

/-- A fault of a unit. -/
def flt (code unit : Nat) : FaultIn :=
  { code, unit, cls := 0, part := 0, rqid := 0, gen := 0, pid := 0, pidV := false, inst := 0, sub := 0, syndrome := 0, addr := 0 }
theorem meets_FaultsAreCaptured : (flt 0x010 63).unit < 64 ∧ (e0.cap_ 63).handling = false ∧ e0.anyHandling = false ∧ (put [(F.RAS_CTL_LOG_CORRECTED, 0, 1)] e0).fb F.RAS_CTL_LOG_CORRECTED = true := by
  decide
theorem meets_FaultsAreCaptured_full : let r : FaultRec := { code := 0x090, unit := 12 }
    let e := e0.setCap 12 { cap1 := some r, cap2 := some r, handling := true }
    (e.cap_ 12).handling = true ∧ (e.cap_ 12).cap2 = some r := by decide
theorem test_unit_fault : ((nextOf (exec (.fault (flt 0x051 10)) (on e0))).eng.cap_ 10).halted = true := by decide
theorem meets_EngineFault : let e := stepping 15 st0 e0
    e.quiet = false ∧ (e.inst 15).step = some st0 ∧ e.pan.demand = [] ∧ e.pan.background = [] ∧ e.pan.held = [] := by decide
theorem meets_EngineFault_comps (k : Nat) : ((stepping 15 st0 e0).inst k).comp = none := by
  simp only [stepping, Eng.setInst, Eng.inst]
  by_cases h : k = 15
  · subst h; decide
  · simp [tsetD, tgetD, tget, tput, e0, Eng.reset, h]
theorem meets_Losses_quiesce : let e : Eng := { stepping 15 st0 e0 with ras := { quiescing := true } }
    e.ras.quiescing = true ∧ (e.inst 15).lead = true ∧ (e.inst 15).comp = none ∧ (∀ k ∈ (e.inst 15).chips, k = e.self) ∧
      (∀ k, k < 16 → k ≠ 15 → (e.inst k).step = none) ∧ e.led.recs = [] ∧ e.bin.entries = [] ∧ ∀ l, l < 9 → e.linkActive l = false ∧ settled e = true := by decide +kernel
theorem test_quiesced : (nextOf (exec .quiesceWaitExpiry (on { stepping 15 st0 e0 with ras := { quiescing := true } }))).eng.ras.quiesced = true := by decide
theorem meets_FaultsArePopped : (put [(F.RAS_UNIT_SEL_UNIT, 0, 16)] e0).fv F.RAS_UNIT_SEL_UNIT = 16 ∧ (1 : Word).getLsbD 0 = true := by decide
theorem meets_Losses_buddy : let e : Eng := { e0 with ras := { ring := { chip := some 8, state := 1 } } }
    e.ras.ring.chip = some 8 ∧ e.ras.ring.state ≠ 3 ∧ e.reaches 8 = false ∧ e.hat.heldRecs = [] ∧ settled e = true := by decide +kernel
theorem meets_Losses_takeover : let e : Eng := { e0 with
      raf := { mapLoaded := true, lost := [1], chips := [(1, { present := true, buddy := 0 })] }, ras := { mirrors := [{ chip := 1, slot := 5, rc := rq 9 }] } }
    e.takeoverCheck 1 = 1 ∧ 63 ∉ e.raf.lost ∧ ∀ m ∈ e.ras.mirrors, m.chip = 1 → m.rc.live = false := by decide

end Sys2Proof.Tests
end

section
/-!
Reads of the register window (spec/00_scope.md R4 to R6) and the statement O12: a 64-bit quantity is read as of one instant.
-/
namespace Sys2Proof.Machine

/-- A 32-bit access is accepted at every aligned offset of the window (R4). -/
theorem accessOk_four {off : Nat} (hin : off < 0x20000) (ha : off % 4 = 0) : accessOk off 4 = true := by
  simp [accessOk, hin, ha]

/-- A 64-bit access is accepted at an aligned register pair (R5). -/
theorem accessOk_eight_of_low {off : Nat} (hin : off < 0x20000) (ha : off % 8 = 0) (hlow : pairPos off = .low) :
    accessOk off 8 = true := by
  simp [accessOk, wideOk, hin, ha, hlow]

/-- PAIR_LOW_READ while the engine is out of reset is a read of the bus. -/
theorem exec_pairLowRead_up {s : State} (h : s.boot.absent = false) (off size : Nat) :
    exec (.pairLowRead off size) s = .next (s.withEng (s.eng.busRead s.boot off size)) := by
  change execPairLowRead off size s = _
  exact liveOr_up h _ _

section
variable {e : Eng} {b : Boot} {off : Nat}

/-- A 32-bit read of a pair's low word latches the high word of the same instant (R6). -/
theorem Eng.busRead_low (hok : accessOk off 4 = true) (hlow : pairPos off = .low) :
    e.busRead b off 4 = { e with
      readData := (wordAtOff b e off).setWidth 64
      latch := tput e.latch off (wordAtOff b e (off + 4)) } := by
  simp [Eng.busRead, hok, hlow]

/-- A 32-bit read of a pair's high word answers the word latched, whatever the register holds by then, and uses it up (R6). -/
theorem Eng.busRead_high_latched {w : Word} (hok : accessOk (off + 4) 4 = true) (hhigh : pairPos (off + 4) = .high)
    (hw : tget e.latch off = some w) :
    e.busRead b (off + 4) 4 = { e with readData := w.setWidth 64, latch := tdel e.latch off } := by
  simp [Eng.busRead, hok, hhigh, hw]

/-- A 64-bit read answers both words of one instant and leaves the latches alone (R6). -/
theorem Eng.busRead_eight (hok : accessOk off 8 = true) :
    e.busRead b off 8 = { e with readData := wordAtOff b e (off + 4) ++ wordAtOff b e off } := by
  simp [Eng.busRead, hok]

end

/-- Settles O12: the read of the low word puts the high word of that instant in the latch, and the read of the high word answers from
the latch alone. What lies between the two reads is any state that keeps the latch, so a change of the select register is among it:
the latch belongs to the pair and not to the item selected, which is the model's reading (assumption log 41). -/
theorem pairReadIsOneInstant : Obligations.PairReadIsOneInstant := by
  intro off s hup hin ha hlow hhigh
  have hinLow : off < 0x20000 := by omega
  have hokLow : accessOk off 4 = true := accessOk_four hinLow ha
  have hokHigh : accessOk (off + 4) 4 = true := accessOk_four hin (by omega)
  refine ⟨_, exec_pairLowRead_up hup off 4, ?_⟩
  rw [Eng.busRead_low hokLow hlow]
  refine ⟨rfl, rfl, fun u hu hkept => ?highRead, fun ha8 => ?wideRead⟩
  case highRead =>
    have hlatched : tget u.eng.latch off = some (wordAtOff s.boot s.eng (off + 4)) :=
      hkept.trans (tget_tput_same _ _ _)
    refine ⟨_, exec_pairLowRead_up hu (off + 4) 4, ?_⟩
    rw [Eng.busRead_high_latched hokHigh hhigh hlatched]
    exact ⟨rfl, rfl, tget_tdel_same _ _⟩
  case wideRead =>
    rw [exec_pairLowRead_up hup, Eng.busRead_eight (accessOk_eight_of_low hinLow ha8 hlow)]

end Sys2Proof.Machine
end

section
/-!
The debug port's answer LOCKED (spec/19_counters_trace_debug.md R608) and the statement O34: a port that is not open takes no command but
OPEN, and OPEN is refused while DBG_CTL.PORT_EN is 0.
-/
namespace Sys2Proof.Machine

/-- A dated command that leaves the Tally where it stands ends no tick (R628). -/
theorem timed_sameTick {s t : State} {f : State → Host.Outcome State Fault Refusal} (hf : f s = .next t) (hnow : t.eng.now = s.eng.now) :
    timed s f = .next t := by
  simp [timed, hf, hnow]

/-- A one-bit field is set exactly where its register has the bit. -/
theorem Eng.fb_bit (e : Eng) (off i sel : Nat) : e.fb ⟨off, i, i⟩ sel = (e.reg off sel).getLsbD i := by
  simp [Eng.fb, Eng.fv, bitsOf, ← BitVec.testBit_toNat, Nat.testBit_eq_decide_div_mod_eq]

/-- The state in which a command's result is LOCKED: the capture register holds it, and nothing else has changed (R606, R608). -/
def State.portLocked (s : State) (op addr : Nat) : State := s.withEng (s.eng.captured op addr 5 0)

section
variable {s : State} (hup : s.boot.absent = false)
include hup

/-- OPEN answers LOCKED while PORT_EN is 0. It carries no Tally forward, so no tick ends before it. -/
theorem execDbgOpen_locked (hen : s.eng.fb F.DBG_CTL_PORT_EN = false) : execDbgOpen s = .next (s.portLocked 1 0) := by
  have hat : atDbgOpen s = .next (s.portLocked 1 0) := by
    rw [atDbgOpen, live_up hup]
    simp [hen, State.portLocked]
  exact timed_sameTick hat rfl

variable (hclosed : s.eng.dbg.isOpen = false)
include hclosed

/-- A command of the port answers LOCKED while the port is not open, whatever it would do. -/
theorem portOpen_closed (op addr : Nat) (f : Eng → Eng) : portOpen op addr s f = .next (s.portLocked op addr) := by
  rw [portOpen, live_up hup]
  simp [hclosed, State.portLocked]

/-- WRITE answers LOCKED whatever its space and address: the way to the registers (space 9) asks for an open port first. -/
theorem execDbgWrite_closed (space addr : Nat) (data : DWord) : execDbgWrite space addr data s = .next (s.portLocked 9 addr) := by
  have locked := portOpen_closed hup hclosed 9 addr
  unfold execDbgWrite
  split
  case h_1 => exact locked _
  case h_2 n _ =>
    cases spaceHolds space addr n
    case false => exact locked (fun e => e.captured 9 addr 4 0)
    case true => simp [hclosed, locked]

/-- RESET answers LOCKED whatever its KEY: neither the reset nor RESET_KEY_BAD comes of it. -/
theorem execDbgReset_closed (data : DWord) : execDbgReset data s = .next (s.portLocked 15 0) := by
  simp [execDbgReset, hclosed, portOpen_closed hup]

end

/-- DBG_CTL.PORT_EN is RWL. -/
theorem portEn_rwl : ∃ r n, regRow 0x11000 = some (r, n) ∧ r.rwl.getLsbD 0 = true := ⟨_, _, rfl, rfl⟩

/-- Settles O34: a port that is not open is asked for before anything that a command does, also where the command comes in the tick of
another, and PORT_EN before anything that OPEN does. -/
theorem debugPortLocked : Obligations.DebugPortLocked := by
  refine ⟨portEn_rwl, fun space addr data s hup => ⟨fun hclosed => ?notOpen, fun hen => ?notEnabled⟩⟩
  case notOpen =>
    have locked := portOpen_closed hup hclosed
    dsimp only [exec, execDbgClose, execHaltEngine, execHaltSteward, execResumeEngine, execResumeSteward, execDbgStep, execBrkCfg, execBrkVal,
      execDbgRead, execDbgWriteRaw]
    exact ⟨locked 2 0 _, locked 3 0 _, locked 3 1 _, locked 4 0 _, locked 4 1 _, locked 5 0 _, locked 6 addr _, locked 7 addr _,
      locked 8 addr _, execDbgWrite_closed hup hclosed space addr data, locked 10 addr _, execDbgReset_closed hup hclosed data⟩
  case notEnabled =>
    exact execDbgOpen_locked hup ((s.eng.fb_bit 0x11000 0 0).trans hen)

end Sys2Proof.Machine
end

section
/-!
The whole block: a step takes the command in front of the queue (O1), the bring-up stages and flags stay in agreement (O5, O6) and the
stage moves only by the bring-up commands (O7); what stops the Steward (O4). All of it rests on the one list of what a command may do to
the reset sequencer, `BootMove`.
-/
namespace Sys2Proof.Machine

/-- Settles O1: the queue's rest is what the command finds. -/
theorem stepRunsFrontCommand : Obligations.StepRunsFrontCommand := by
  intro c rest s h
  simp [step, h]

/-- Settles O6. -/
theorem resetBringUp : Obligations.ResetBringUp := by
  constructor <;> decide

/-- A move of the sequencer keeps the stages and flags in agreement. -/
theorem BootMove.keeps_good {c : Instr} {s t : State} (m : BootMove c s t) (g : s.boot.Good) : t.boot.Good := by
  obtain ⟨stage, offline, locked, done, busyInit, busyImg⟩ := g
  cases m with
  | same h => rw [h]; exact ⟨stage, offline, locked, done, busyInit, busyImg⟩
  | copy a b d h => rw [h]; exact ⟨stage, offline, locked, done, busyInit, busyImg⟩
  | reset k a l h => rw [h]; exact ⟨stage, offline, locked, done, busyInit, busyImg⟩
  | ports ha a l h => rw [h]; exact ⟨stage, offline, locked, done, busyInit, busyImg⟩
  | rel ha hc h => rw [h]; constructor <;> simp
  | img h1 h => rw [h]; exact ⟨stage, offline, locked, done, busyInit, fun _ => h1⟩
  | imgBad r h => rw [h]; exact ⟨stage, offline, locked, done, busyInit, nofun⟩
  | imgGood h1 hc r h =>
    have atOne : s.boot.stage = 1 := busyImg h1
    rw [h]
    simp only [atOne] at locked done busyInit
    constructor <;> simp_all
  | init h1 n h => rw [h]; exact ⟨stage, offline, locked, done, fun _ => h1, busyImg⟩
  | done h1 hc h =>
    have atTwo : s.boot.stage = 2 := busyInit h1
    rw [h]
    simp only [atTwo] at offline locked busyImg
    constructor <;> simp_all
  | lock h1 hc h =>
    rw [h]
    simp only [h1] at offline done busyInit busyImg
    constructor <;> simp_all

/-- A command keeps the stages and flags in agreement. -/
theorem exec_keeps_good {c : Instr} {s t : State} (g : s.boot.Good) (h : exec c s = .next t) : t.boot.Good :=
  (boot_move c s t h).keeps_good g

/-- Commands one after another keep the stages and flags in agreement. -/
theorem runAll_keeps_good (l : List Instr) {s t : State} (g : s.boot.Good) (h : runAll l s = .next t) : t.boot.Good := by
  induction l generalizing s with
  | nil => cases h; exact g
  | cons c r ih =>
    unfold runAll at h
    split at h
    case h_1 u hu => exact ih (exec_keeps_good g hu) h
    case h_2 stops => exact absurd h (stops t)

/-- A cycle of the controller's counter touches neither a stage nor a flag. -/
theorem Boot.cmcCycle_good {b : Boot} (g : b.Good) : b.cmcCycle.Good := by
  unfold Boot.cmcCycle
  split <;> exact ⟨g.stage, g.offline, g.locked, g.done, g.busyInit, g.busyImg⟩

/-- The step on an empty queue keeps the stages and flags in agreement. -/
theorem idleStep_keeps_good {s t : State} (g : s.boot.Good) (h : idleStep s = .next t) : t.boot.Good := by
  unfold idleStep at h
  split at h
  · cases h; exact Boot.cmcCycle_good g
  · split at h
    · cases h; exact g
    · split at h
      · exact exec_keeps_good (c := .cycleLimit) g h
      · split at h
        · exact runAll_keeps_good _ g h
        · cases h; exact g

/-- Settles O5: a step is a command or the engine's own work, and each of the moves that the sequencer can make keeps the agreement. -/
theorem stepKeepsBringUp : Obligations.StepKeepsBringUp := by
  intro s t g h
  unfold step at h
  split at h
  · exact idleStep_keeps_good g h
  · next c rest _ => exact exec_keeps_good (s := { s with pending := rest }) g h

/-- Settles O7: of the moves that the sequencer can make only four change the stage. -/
theorem stageMovesOnlyByBringUp : Obligations.StageMovesOnlyByBringUp := by
  intro c s t h moved
  cases boot_move c s t h with
  | rel ha hc h => exact .inl ⟨by rw [h], ha, hc⟩
  | imgGood h1 hc r h => exact .inr (.inl ⟨by rw [h], h1, hc⟩)
  | done h1 hc h => exact .inr (.inr (.inl ⟨by rw [h], h1, hc⟩))
  | lock h1 hc h => exact .inr (.inr (.inr ⟨by rw [h], h1, hc⟩))
  | same h => exact absurd (by rw [h]) moved
  | copy a b d h => exact absurd (by rw [h]) moved
  | reset k a l h => exact absurd (by rw [h]) moved
  | ports ha a l h => exact absurd (by rw [h]) moved
  | img h1 h => exact absurd (by rw [h]) moved
  | imgBad r h => exact absurd (by rw [h]) moved
  | init h1 n h => exact absurd (by rw [h]) moved

/-- A command of the units stops for no reason. -/
theorem live_ne_refused (s : State) (f : Eng → Eng) (r : Refusal) : live s f ≠ .refused r := by
  obtain ⟨t, h, -⟩ := live_next s f
  simp [h]

/-- Settles O4: the stop is the first branch of each of the two commands, and the other branch answers a next state. -/
theorem undefinedStewardOperandsStop : Obligations.UndefinedStewardOperandsStop := by
  refine ⟨fun g gn a idx s => ?setc, fun g gn imm s => ?kbegin⟩
  case setc =>
    change execSSetc g gn a idx s = _ ↔ _
    unfold execSSetc
    split
    · next stops => simpa using stops
    · next goes => exact iff_of_false (live_ne_refused _ _ _) (by simpa using goes)
  case kbegin =>
    change execKBegin g gn imm s = _ ↔ _
    unfold execKBegin
    split
    · next stops => simpa [List.isEmpty_iff] using stops
    · next goes => exact iff_of_false (live_ne_refused _ _ _) (by simpa [List.isEmpty_iff] using goes)

end Sys2Proof.Machine
end

section
/-!
Every command answers a next state and leaves the queue alone (O2), and while the engine is absent it changes nothing but what the chip's
port logic answers (O8): the shapes of `exec_shape`, and the commands of neither shape one by one.
-/
namespace Sys2Proof.Machine

/-- An outcome is a next state with the queue of `s`. -/
def Completes (s : State) (o : Host.Outcome State Fault Refusal) : Prop := ∃ t, o = .next t ∧ t.pending = s.pending

theorem Completes.next {s t : State} (h : t.pending = s.pending) : Completes s (.next t) := ⟨t, rfl, h⟩

theorem live_completes (s : State) (f : Eng → Eng) : Completes s (live s f) :=
  let ⟨t, h, hp, _⟩ := live_next s f
  ⟨t, h, hp⟩

theorem liveOr_completes (s : State) (a f : Eng → Eng) : Completes s (liveOr s a f) :=
  let ⟨t, h, hp, _⟩ := liveOr_next s a f
  ⟨t, h, hp⟩

theorem bootUp_completes (s : State) (f : Boot → Eng → Boot × Eng) : Completes s (bootUp s f) := bootUp_next s f

/-- A command that may carry the Tally forward completes where what it does completes on every engine. -/
theorem timed_completes {s : State} {f : State → Host.Outcome State Fault Refusal}
    (h : ∀ e, Completes s (f { s with eng := e })) : Completes s (timed s f) := by
  obtain ⟨t, ht, hp⟩ := h s.eng
  unfold timed
  rw [show f s = .next t from ht]
  dsimp only
  split
  · exact h _
  · exact .next hp

theorem execDriverReset_completes (data : Word) (s : State) : Completes s (execDriverReset data s) := by
  unfold execDriverReset
  split <;> exact .next rfl

/-- A write of a register, to whatever command it comes to, completes. -/
theorem execRegisterWrite_completes (off size : Nat) (data : DWord) (s : State) : Completes s (execRegisterWrite off size data s) := by
  cases registerWrite_shape off size data s with
  | units f h => rw [h]; exact live_completes s f
  | none h => rw [h]; exact .next rfl
  | lock d _ _ h => rw [h]; exact bootUp_completes s _
  | image d h => rw [h]; exact bootUp_completes s _
  | init d h => rw [h]; exact bootUp_completes s _
  | reset d h => rw [h]; exact execDriverReset_completes d s

theorem execTake_completes (core : Nat) (s : State) : Completes s (execTake core s) := by
  unfold execTake
  split
  · split <;> exact .next rfl
  · exact live_completes s _

theorem atNoDispatcher_completes (core : Nat) (s : State) : Completes s (atNoDispatcher core s) := by
  unfold atNoDispatcher
  split
  · split <;> exact .next rfl
  · exact live_completes s _

theorem atTallyCopy_completes (s : State) : Completes s (atTallyCopy s) := by
  unfold atTallyCopy
  split
  · exact .next rfl
  · split <;> exact .next rfl

theorem execResetRelease_completes (s : State) : Completes s (execResetRelease s) := by
  unfold execResetRelease
  split <;> exact .next rfl

theorem execClock_completes (s : State) : Completes s (execClock s) := by
  unfold execClock
  split <;> exact .next rfl

theorem execDbgWrite_completes (space addr : Nat) (data : DWord) (s : State) : Completes s (execDbgWrite space addr data s) := by
  unfold execDbgWrite
  split
  · exact live_completes s _
  · split
    · exact live_completes s _
    · split
      · exact execRegisterWrite_completes addr 4 _ { s with eng := s.eng.captured 9 addr 0 0 }
      · exact live_completes s _

theorem execDbgReset_completes (data : DWord) (s : State) : Completes s (execDbgReset data s) := by
  unfold execDbgReset
  dsimp only
  split
  · exact .next rfl
  · exact live_completes s _

/-- Settles O2: the commands of the two common shapes complete by them, and each of the others by its own branches; the two hypotheses are
those under which the two undefined operands stop. -/
theorem everyCommandCompletes : Obligations.EveryCommandCompletes := by
  intro c s hset hbegin
  change Completes s (exec c s)
  rcases exec_shape c s with ⟨f, h⟩ | ⟨a, f, h, -⟩ | own
  · rw [h]; exact live_completes s f
  · rw [h]; exact liveOr_completes s a f
  · cases c <;> (try exact absurd own Bool.false_ne_true) <;> clear own <;> dsimp only [exec]
    case registerWrite off size data => exact execRegisterWrite_completes off size data s
    case sSetc g gn a idx =>
      unfold execSSetc
      split
      · next stops => exact absurd (hset g gn a idx rfl stops.2.1 stops.2.2) (by omega)
      · exact live_completes s _
    case kBegin g gn imm =>
      unfold execKBegin
      split
      · next stops =>
        have enabled : s.eng.enabledLanes g gn ≠ [] := by simpa [List.isEmpty_iff] using stops.2.2
        exact absurd (hbegin g gn imm rfl stops.2.1 enabled) (by omega)
      · exact live_completes s _
    case take core => exact execTake_completes core s
    case noDispatcher core => exact timed_completes (fun e => atNoDispatcher_completes core { s with eng := e })
    case powerOn => exact .next rfl
    case chip => exact .next rfl
    case driverReset data => exact execDriverReset_completes data s
    case clock => exact execClock_completes s
    case resetRelease => exact execResetRelease_completes s
    case tallyCopy => exact timed_completes (fun e => atTallyCopy_completes { s with eng := e })
    case imageLoad => exact bootUp_completes s _
    case imageLoadEnd => exact bootUp_completes s _
    case glbInit => exact bootUp_completes s _
    case initDone => exact timed_completes (fun e => bootUp_completes { s with eng := e } _)
    case glbLock => exact bootUp_completes s _
    case dbgWrite space addr data => exact execDbgWrite_completes space addr data s
    case dbgReset data => exact execDbgReset_completes data s

end Sys2Proof.Machine
end

section
/-!
While the engine is absent (O8): what the chip's port logic answers to, the TAKEs at the cores' ports, and nothing else (R125, R429, R574).
-/
namespace Sys2Proof.Machine

/-- The commands that something answers while the engine is absent, or that wait at a port, and the reset sources and the release. -/
def portLogic (c : Instr) : Bool :=
  match c with
  | .binPush _ | .cellarStreamGrant _ | .serviceRequest _ | .acquire _ _ | .release _ _ | .pairLowRead _ _ | .badAccess _ _ _
  | .take _ | .noDispatcher _ | .resetRelease | .powerOn | .chip => true
  | _ => false

section
variable {s : State} (absent : s.boot.absent = true)
include absent

theorem bootUp_absent (f : Boot → Eng → Boot × Eng) : bootUp s f = .next s := by simp [bootUp, absent]

theorem execDriverReset_absent (data : Word) : execDriverReset data s = .next s := by simp [execDriverReset, absent]

/-- A write of a register is lost. -/
theorem execRegisterWrite_absent (off size : Nat) (data : DWord) : execRegisterWrite off size data s = .next s := by
  cases registerWrite_shape off size data s with
  | units f h => rw [h, live_absent absent]
  | none h => exact h
  | lock d _ _ h => rw [h]; exact if_pos absent
  | image d h => rw [h]; exact if_pos absent
  | init d h => rw [h]; exact if_pos absent
  | reset d h => rw [h]; exact execDriverReset_absent absent d

/-- The Steward issues nothing. -/
theorem issues_absent : s.issues = false := by simp [State.issues, absent]

/-- A dated command does nothing but what the port logic answers. -/
theorem exec_dated_absent {c : Instr} (dated : c.dated = true) (quiet : portLogic c = false) : exec c s = .next s := by
  cases c <;> (try exact absurd dated Bool.false_ne_true) <;> (try exact absurd quiet.symm Bool.false_ne_true)
  case tallyCopy => exact timed_sameTick (if_pos absent) rfl
  case initDone => exact timed_sameTick (bootUp_absent absent _) rfl
  all_goals exact timed_sameTick (live_absent absent _) rfl

/-- A command of its own shape does nothing but what the port logic answers. -/
theorem exec_own_absent {c : Instr} (own : OwnShape c = true) (quiet : portLogic c = false) : exec c s = .next s := by
  cases c <;> (try exact absurd own Bool.false_ne_true) <;> (try exact absurd quiet.symm Bool.false_ne_true)
  case registerWrite off size data => exact execRegisterWrite_absent absent off size data
  case sSetc g gn a idx =>
    change execSSetc g gn a idx s = _
    simp [execSSetc, issues_absent absent, scalar, live_absent absent]
  case kBegin g gn imm =>
    change execKBegin g gn imm s = _
    simp [execKBegin, issues_absent absent, wide, live_absent absent]
  case driverReset data => exact execDriverReset_absent absent data
  case clock => exact if_pos absent
  case tallyCopy => exact timed_sameTick (if_pos absent) rfl
  case imageLoad => exact if_pos absent
  case imageLoadEnd => exact if_pos absent
  case glbInit => exact if_pos absent
  case initDone => exact timed_sameTick (bootUp_absent absent _) rfl
  case glbLock => exact if_pos absent
  case dbgWrite space addr data =>
    have port : ∀ f, portOpen 9 addr s f = .next s := fun f => live_absent absent _
    change execDbgWrite space addr data s = _
    unfold execDbgWrite
    split
    · exact port _
    · split <;> simp [absent, port]
  case dbgReset data =>
    have port : ∀ f, portOpen 15 0 s f = .next s := fun f => live_absent absent _
    change execDbgReset data s = _
    simp [execDbgReset, absent, port]

/-- No command but those of the port logic and the reset sources changes anything. -/
theorem exec_absent {c : Instr} (quiet : portLogic c = false) : exec c s = .next s := by
  cases own : OwnShape c
  case true => exact exec_own_absent absent own quiet
  case false =>
  cases dated : c.dated
  case true => exact exec_dated_absent absent dated quiet
  case false =>
    cases c <;> (try exact absurd own.symm Bool.false_ne_true) <;> (try exact absurd dated.symm Bool.false_ne_true) <;>
      (try exact absurd quiet.symm Bool.false_ne_true)
    case pairHighWrite off data =>
      change execPairHighWrite off data s = _
      unfold execPairHighWrite
      split <;> exact live_absent absent _
    all_goals exact if_pos absent

/-- A request that the port logic answers changes nothing but what it answers. -/
theorem liveOr_absent_eq {a f : Eng → Eng} {t : State} (h : liveOr s a f = .next t) : t = s.withEng (a s.eng) := by
  rw [liveOr_absent absent] at h
  exact (Host.Outcome.next.inj h).symm

/-- A request of the array is answered ENGINE_ABSENT. -/
theorem tell_absent_eq {f : Eng → Eng} {t : State} (h : liveOr s (fun e => e.tell .engineAbsent) f = .next t) :
    t = s.withEng (s.eng.tell .engineAbsent) := liveOr_absent_eq absent h

end

/-- What the port logic may send while the engine is absent: ENGINE_ABSENT to the array, and answers to small cores. -/
def PortAnswer (o : Out) : Prop := o = .array .engineAbsent ∨ ∃ core code, o = .coreAnswer core code none

/-- The state is untouched but for the ports' TAKEs and the controller's counter, the word read, which is `d`, and the port logic's answers. -/
def UntouchedBut (c : Instr) (s t : State) (d : DWord) : Prop :=
  ((∀ core, c ≠ .take core ∧ c ≠ .noDispatcher core) → t.boot = s.boot) ∧
    t.boot = { s.boot with takes := t.boot.takes, cmc := t.boot.cmc } ∧ s.boot.cmc ≤ t.boot.cmc ∧
    t.pending = s.pending ∧ t.eng = { s.eng with readData := t.eng.readData, out := t.eng.out } ∧ t.eng.readData = d ∧
    ∃ l, t.eng.out = l ++ s.eng.out ∧ ∀ o ∈ l, PortAnswer o

theorem UntouchedBut.refl (c : Instr) (s : State) : UntouchedBut c s s s.eng.readData :=
  ⟨fun _ => rfl, rfl, le_rfl, rfl, rfl, rfl, [], rfl, by simp⟩

theorem UntouchedBut.read (c : Instr) (s : State) (d : DWord) : UntouchedBut c s (s.withEng { s.eng with readData := d }) d :=
  ⟨fun _ => rfl, rfl, le_rfl, rfl, rfl, rfl, [], rfl, by simp⟩

theorem UntouchedBut.tell (c : Instr) (s : State) : UntouchedBut c s (s.withEng (s.eng.tell .engineAbsent)) s.eng.readData :=
  ⟨fun _ => rfl, rfl, le_rfl, rfl, rfl, rfl, [_], rfl, fun _ ho => .inl (List.mem_singleton.mp ho)⟩

/-- A TAKE waits at its core's port. -/
theorem UntouchedBut.take (s : State) (core : Nat) :
    UntouchedBut (.take core) s { s with boot := s.boot.portTake core } s.eng.readData :=
  ⟨fun other => absurd rfl (other core).1, rfl, le_rfl, rfl, rfl, rfl, [], rfl, by simp⟩

/-- A port gives its TAKE up and answers the core. -/
theorem UntouchedBut.givesUp (s : State) (core : Nat) (w : TakeW) :
    UntouchedBut (.noDispatcher core) s (s.portGivesUp w) s.eng.readData :=
  ⟨fun other => absurd rfl (other core).2, rfl, le_max_left _ _, rfl, rfl, rfl, [_], rfl,
    fun _ ho => .inr ⟨_, _, List.mem_singleton.mp ho⟩⟩

theorem take_untouched {s t : State} (absent : s.boot.absent = true) (core : Nat) (h : execTake core s = .next t) :
    UntouchedBut (.take core) s t s.eng.readData := by
  unfold execTake at h
  rw [if_pos absent] at h
  split at h <;> cases h
  · exact .refl _ s
  · exact .take s core

theorem noDispatcher_untouched {s t : State} (absent : s.boot.absent = true) (core : Nat)
    (h : execNoDispatcher core s = .next t) : UntouchedBut (.noDispatcher core) s t s.eng.readData := by
  unfold execNoDispatcher timed at h
  simp only [atNoDispatcher, absent, if_true, Bool.not_true, Bool.and_false, Bool.false_eq_true, if_false] at h
  split at h <;> cases h
  · exact .givesUp s core _
  · exact .refl _ s

/-- Settles O8: the commands outside the port logic change nothing at all, and each of the others its own answer or port. -/
theorem absentEngineIsUntouched : Obligations.AbsentEngineIsUntouched := by
  intro c s t absent notRelease notPower notChip h
  change UntouchedBut c s t _
  cases quiet : portLogic c
  case false =>
    rw [exec_absent absent quiet] at h
    cases h
    split
    · cases quiet
    · cases quiet
    · exact .refl c s
  case true =>
    cases c <;> (try exact absurd quiet Bool.false_ne_true)
    case resetRelease => exact absurd rfl notRelease
    case powerOn => exact absurd rfl notPower
    case chip => exact absurd rfl notChip
    all_goals dsimp only [exec, execPairLowRead, execBadAccess, execBinPush, execCellarStreamGrant, execServiceRequest, execAcquire,
      execRelease] at h
    case pairLowRead off size => rw [liveOr_absent_eq absent h]; exact .read _ s _
    case badAccess off size write =>
      rw [liveOr_absent_eq absent h]
      cases write
      · exact .read _ s 0
      · exact .refl _ s
    case binPush entry => rw [tell_absent_eq absent h]; exact .tell _ s
    case cellarStreamGrant inst => rw [tell_absent_eq absent h]; exact .tell _ s
    case serviceRequest req => rw [tell_absent_eq absent h]; exact .tell _ s
    case acquire sem inst => rw [tell_absent_eq absent h]; exact .tell _ s
    case release sem inst => rw [tell_absent_eq absent h]; exact .tell _ s
    case take core => exact take_untouched absent core h
    case noDispatcher core => exact noDispatcher_untouched absent core h

end Sys2Proof.Machine
end

section
/-!
The ends of ticks that dated commands and the clock's cycles find (O3), and accesses that R4 does not accept (O9).
-/
namespace Sys2Proof.Machine

/-! ### Dated commands (R628) -/

/-- A dated command is its effect behind the end of the ticks that it leaves. -/
theorem exec_dated {c : Instr} (dated : c.dated = true) : ∃ f, ∀ s, exec c s = timed s f := by
  cases c <;> (try exact absurd dated Bool.false_ne_true) <;> exact ⟨_, fun _ => rfl⟩

/-- A dated command answers a next state. -/
theorem exec_dated_next {c : Instr} (dated : c.dated = true) (s : State) : ∃ t, exec c s = .next t := by
  obtain ⟨t, h, -⟩ := everyCommandCompletes c s (fun _ _ _ _ hc => by subst hc; cases dated) (fun _ _ _ hc => by subst hc; cases dated)
  exact ⟨t, h⟩

/-- Cycles that carry the Tally forward pass behind the end of the tick, where that leaves nothing to do and is in the same tick. -/
theorem Eng.passCycles_settled (e : Eng) (n : Nat) (stops : ∀ t, e.tickLeft.nextStop t = none) (on : e.now < (e.cycles n).now)
    (same : e.tickLeft.now = e.now) :
    e.passCycles n =
      (({ e.tickLeft with tal := { e.tickLeft.tal with acc := (e.cycles n).tal.acc } } : Eng).stall n).pass (e.cycles n).now := by
  unfold Eng.passCycles
  simp only [on, if_true, e.tickOver_left stops, same]

/-- Settles O3: a dated command is `timed` of its effect, and `timed` runs the effect on the state whose tick has ended. -/
theorem datedCommandsEndTheTick : Obligations.DatedCommandsEndTheTick := by
  refine ⟨fun c s dated up => ?command, fun s empty up pc limit issue => ?cycle, fun n s settled on same => ?cycles⟩
  case command =>
    obtain ⟨f, hf⟩ := exec_dated dated
    obtain ⟨t, ht⟩ := exec_dated_next dated s
    refine ⟨t, ht, fun forward settled => ?_⟩
    rw [hf] at ht ⊢
    exact timed_again s t f ht up forward settled
  case cycle => simp [step, empty, idleStep, up, pc, limit, issue, State.tick, State.withEng]
  case cycles => exact s.eng.passCycles_settled n settled.2 on same

/-! ### Accesses of another size or alignment (R4, R5) -/

/-- An access of another size or alignment is not accepted. -/
theorem accessOk_bad {off size : Nat} (bad : (size ≠ 4 ∧ size ≠ 8) ∨ off % 4 ≠ 0 ∨ (size = 8 ∧ off % 8 ≠ 0)) :
    accessOk off size = false := by
  by_contra ok
  simp [accessOk, wideOk] at ok
  omega

/-- Settles O9: each of the four routes asks whether the access is accepted before it does anything. -/
theorem badAccessHasNoEffect : Obligations.BadAccessHasNoEffect := by
  intro off size data s up bad unit record
  have refused := accessOk_bad bad
  have recorded : ∀ w e, record w e = e.badAccess off w := fun w e => by cases w <;> rfl
  have write : execBadAccess off size true s = .next (s.withEng (record true s.eng)) := by
    simp [execBadAccess, liveOr_up up, refused, recorded]
  refine ⟨?_, write, ?_, ?_⟩
  · change execRegisterWrite off size data s = _
    simpa [execRegisterWrite, up, refused] using write
  · change execBadAccess off size false s = _
    simp [execBadAccess, liveOr_up up, refused, recorded]
  · rw [exec_pairLowRead_up up, Eng.busRead]
    simp [refused, recorded]

end Sys2Proof.Machine
end

section
/-!
Writes that wait for an edge (O13) and the event rings (O14). An event goes to the rings one after another, so what one ring gets is told
by the moment at which its turn comes: every other ring's turn keeps this ring and its count of lost events (`Eng.RingKept`).
-/
namespace Sys2Proof.Machine

/-! ### Writes of RWS fields (R9, R49, R61) -/

/-- TAL_EDGE_LEAD_n is a register of the view of `Inst` n. -/
theorem keyInst_edgeLead : ∀ n < 16, keyInst (regKey (0xE080 + 4 * n) 0) = some n := by decide

/-- An accepted or held write of an RWS register changes its word, and the list that it waits in. -/
theorem Eng.rwsWrite_inst_eq (e : Eng) {off sel i : Nat} (w : Word) (h : keyInst (regKey off sel) = some i) :
    e.rwsWrite off sel w = { e.putReg off sel w with
      held := if (e.inst i).win then e.held ++ [(i, regKey off sel, w)] else e.held
      pend := if (e.inst i).win then e.pend else e.pend ++ [(regKey off sel, w, e.now)] } := by
  rw [e.rwsWrite_inst w h]
  split <;> rfl

/-- A register beside the one written. -/
theorem Eng.rwsWrite_reg_ne (e : Eng) {off sel i o k : Nat} (w : Word) (h : keyInst (regKey off sel) = some i) (hs : sel < 65536) (hk : k < 65536)
    (other : o ≠ off ∨ k ≠ sel) : (e.rwsWrite off sel w).reg o k = e.reg o k := by
  rw [e.rwsWrite_inst_eq w h]
  exact e.reg_putReg_ne off sel w hs hk other

/-- Settles O13: an RWS write puts the word and joins the list that the view's compose window names; nothing else of it is asked. -/
theorem rwsWriteWaitsForAnEdge : Obligations.RwsWriteWaitsForAnEdge := by
  refine ⟨fun e off sel w wide => ?engineWide, fun n data s up hn => ?edgeLead⟩
  case engineWide =>
    rw [e.rwsWrite_wide w wide]
    exact ⟨e.reg_putReg_same off sel w, rfl, rfl, rfl⟩
  case edgeLead =>
    intro w key x eff
    have ofInst := keyInst_edgeLead n hn
    refine ⟨s.eng.rwsWrite (0xE080 + 4 * n) 0 w, s.eng.rwsWrite_reg _ _ _,
      fun off sel hs other => s.eng.rwsWrite_reg_ne w ofInst (by decide) hs other, ?_, ?_⟩
    · rw [s.eng.rwsWrite_inst_eq w ofInst]
      rfl
    · have asked : bitsOf data.toNat 19 0 = data.toNat % 2 ^ 20 := by simp [bitsOf]
      have floor : (s.eng.rwsWrite (0xE080 + 4 * n) 0 w).leadEff n (data.toNat % 2 ^ 20) = eff := by
        simp only [Eng.leadEff, Eng.fv, Fld.at]
        rw [s.eng.rwsWrite_reg_ne w ofInst (by decide) (by decide) (.inl (by simp only [F.TAL_EDGE_FLOOR_n_FLOOR]; omega))]
        rfl
      have insts : (s.eng.rwsWrite (0xE080 + 4 * n) 0 w).inst n = x := by rw [s.eng.rwsWrite_inst_eq w ofInst]; rfl
      change execEdgeLeadWrite n data s = _
      rw [execEdgeLeadWrite, live_up up]
      change Host.Outcome.next (s.withEng (if 16 ≤ n then s.eng else
        (s.eng.rwsWrite (0xE080 + 4 * n) 0 w).leadClamped n (bitsOf data.toNat 19 0))) = _
      simp only [if_neg (show ¬16 ≤ n by omega), asked, Eng.leadClamped, insts, floor]

/-! ### Events and their rings (R104, R109 to R111) -/

/-- What reports has changed, but for what one event ring holds and has lost. -/
structure Eng.RingKept (r : Nat) (e e' : Eng) : Prop where
  reports : e.Reports e'
  ring : e'.ring r = e.ring r
  lost : e'.reg 0x1060 r = e.reg 0x1060 r

section
variable {r : Nat}

theorem Eng.RingKept.refl (e : Eng) : e.RingKept r e := ⟨.refl e, rfl, rfl⟩

theorem Eng.RingKept.trans {a b c : Eng} (h : a.RingKept r b) (k : b.RingKept r c) : a.RingKept r c :=
  ⟨h.reports.trans k.reports, k.ring.trans h.ring, k.lost.trans h.lost⟩

theorem Eng.RingKept.foldl {α : Type} (l : List α) (f : Eng → α → Eng) (hf : ∀ (e : Eng) x, x ∈ l → e.RingKept r (f e x)) (e : Eng) :
    e.RingKept r (l.foldl f e) := by
  induction l generalizing e with
  | nil => exact .refl e
  | cons x l ih => exact (hf e x (by simp)).trans (ih (fun e y hy => hf e y (by simp [hy])) (f e x))

/-- A counter that adds. -/
theorem Eng.cntAdd_ringKept (e : Eng) (n amt : Nat) (hr : r < 256) (hn : n < 64) : e.RingKept r (e.cntAdd n amt) := by
  refine ⟨e.cntAdd_reports n amt hn, ?_, ?_⟩ <;> unfold Eng.cntAdd <;> dsimp only <;> split
  · rfl
  · rfl
  · exact Eng.reg_putReg_ne _ _ _ _ (by decide) (by omega) (.inl (by dsimp only; omega))
  · rfl

/-- Counting keeps every ring. -/
theorem Eng.count_ringKept (e : Eng) (src amt : Nat) (pid inst : Option Nat) (hr : r < 256) : e.RingKept r (e.count src amt pid inst) := by
  unfold Eng.count Eng.countAmt
  split
  · exact .refl e
  · split
    · exact .refl e
    · refine .foldl _ _ (fun e n hn => ?_) e
      split
      · exact e.cntAdd_ringKept n amt hr (by simpa [cntRange] using hn)
      · exact .refl e

/-- The turn of another event ring. -/
theorem Eng.eventTo_ringKept (e : Eng) (v : EvtRec) {k : Nat} (hr : r < 256) (hk : k < 256) (kind : e.ringKind k = 2) (other : r ≠ k) :
    e.RingKept r (e.eventTo v k) := by
  refine ⟨e.eventTo_reports v k hk kind, ?_, ?_⟩ <;> unfold Eng.eventTo <;> dsimp only <;> split
  · exact (Eng.ring_setRing _ _ _ _).trans (if_neg other)
  · exact (Eng.ring_setRing _ _ _ _).trans (if_neg other)
  · exact Eng.reg_putReg_ne _ _ _ _ (by omega) (by omega) (.inr other)
  · rfl

/-- Fields of registers that count nothing stand while only reports change. -/
theorem Eng.Reports.fv {e e' : Eng} (h : e.Reports e') (f : Fld) (sel : Nat) (hs : sel < 65536) (ht : tallyReg f.off = false) :
    e'.fv f sel = e.fv f sel := by
  simp only [Eng.fv, h.regs _ _ hs ht]

theorem Eng.Reports.fb {e e' : Eng} (h : e.Reports e') (f : Fld) (sel : Nat) (hs : sel < 65536) (ht : tallyReg f.off = false) :
    e'.fb f sel = e.fb f sel := by
  simp only [Eng.fb, h.fv f sel hs ht]

/-- What an event ring selects stands while only reports change. -/
theorem Eng.Reports.takes {e e' : Eng} (h : e.Reports e') (v : EvtRec) (hr : r < 256) : e'.ringTakes v r = e.ringTakes v r := by
  have hs : r < 65536 := by omega
  unfold Eng.ringTakes Eng.ringEn Eng.ringKind
  rw [h.fb F.HAT_RING_CFG_EN r hs rfl, h.fv F.HAT_RING_CFG_KIND r hs rfl, h.fb F.HAT_RING_CFG_FILTER_ALL r hs rfl,
    h.fv F.HAT_RING_CFG_PID r hs rfl]

theorem Eng.Reports.depth {e e' : Eng} (h : e.Reports e') (hr : r < 256) : e'.ringDepth r = e.ringDepth r := by
  simp only [Eng.ringDepth, h.fv F.HAT_RING_CFG_LOG2_DEPTH r (by omega) rfl]

/-- Raising an event: this ring's turn, between the counting with the turns of the rings before it and the turns of those after it. -/
theorem Eng.raise_turn (e : Eng) (v : EvtRec) (hr : r < 256) :
    ∃ m, e.RingKept r m ∧
      (if m.ringTakes { v with stamp := e.now } r then m.eventTo { v with stamp := e.now } r else m).RingKept r (e.raise v) := by
  obtain ⟨before, after, cut⟩ := List.append_of_mem (List.mem_range.mpr hr)
  have once : (before ++ r :: after).Nodup := cut ▸ List.nodup_range
  have inRange : ∀ k ∈ before ++ r :: after, k < 256 := fun k hk => List.mem_range.mp (cut ▸ hk)
  have turn : ∀ (a : Eng) k, k ∈ before ++ r :: after → r ≠ k →
      a.RingKept r (if a.ringTakes { v with stamp := e.now } k then a.eventTo { v with stamp := e.now } k else a) := by
    intro a k hk other
    split
    · next takes =>
      refine a.eventTo_ringKept _ hr (inRange k hk) ?_ other
      simp only [Eng.ringTakes, Bool.and_eq_true, decide_eq_true_eq] at takes
      exact takes.1.2
    · exact .refl a
  simp only [List.nodup_append, List.nodup_cons] at once
  refine ⟨_, (e.count_ringKept v.code 1 (some v.pid) v.inst hr).trans
    (.foldl before _ (fun a k hk => turn a k (by simp [hk]) (fun same => ?_)) _), ?_⟩
  · exact once.2.2 k hk r (by simp) same.symm
  · unfold Eng.raise ringRange
    rw [cut, List.foldl_append, List.foldl_cons]
    exact .foldl after _ (fun a k hk => turn a k (by simp [hk]) (fun same => once.2.1.1 (same ▸ hk))) _

/-- A ring with a free entry is given the record at its tail. -/
theorem Eng.eventTo_free (e : Eng) (v : EvtRec) (on : e.fb F.HAT_CTL_EN = true) (free : e.ringFill r < e.ringDepth r) :
    (e.eventTo v r).ring r = { e.ring r with tail := ((e.ring r).tail + 1) % 2 ^ 32, lostFlag := false } ∧
      .event r (e.ring r).tail (e.ringPhase r (e.ring r).tail) (e.ring r).lostFlag v ∈ (e.eventTo v r).out := by
  unfold Eng.eventTo
  simp only [on, Nat.not_le.mpr free, Bool.not_true, decide_false, Bool.or_false, Bool.false_eq_true, if_false]
  exact ⟨(Eng.ring_setRing _ _ _ _).trans (if_pos rfl), by simp [Eng.emit, Eng.setRing]⟩

/-- A ring without one marks and counts the loss. -/
theorem Eng.eventTo_full (e : Eng) (v : EvtRec) (full : e.fb F.HAT_CTL_EN = false ∨ e.ringDepth r ≤ e.ringFill r) :
    (e.eventTo v r).ring r = { e.ring r with lostFlag := true } ∧
      (e.eventTo v r).fv F.HAT_EVT_LOST_LOST r = min (e.fv F.HAT_EVT_LOST_LOST r + 1) (2 ^ 32 - 1) := by
  have lost : (!e.fb F.HAT_CTL_EN || decide (e.ringDepth r ≤ e.ringFill r)) = true := by simpa using full
  unfold Eng.eventTo
  simp only [lost, if_true]
  refine ⟨(Eng.ring_setRing _ _ _ _).trans (if_pos rfl), ?_⟩
  rw [Eng.bump, Eng.fv_poke_same _ _ _ _ (by decide)]
  exact Nat.mod_eq_of_lt (Nat.lt_of_le_of_lt (Nat.min_le_right _ _) (by decide))

end

/-- Settles O14: the ring's own turn, seen through the turns before and after it, which keep it. -/
theorem eventsReachTheirRings : Obligations.EventsReachTheirRings := by
  intro e v r hr e' takes
  obtain ⟨m, before, after⟩ := e.raise_turn v hr
  have asTaken : m.ringTakes { v with stamp := e.now } r = takes := (before.reports.takes _ hr).trans rfl
  have fill : m.ringFill r = e.ringFill r := by simp only [Eng.ringFill, before.ring]
  have depth := before.reports.depth hr
  have phase : m.ringPhase r (e.ring r).tail = e.ringPhase r (e.ring r).tail := by simp only [Eng.ringPhase, depth]
  have count : ∀ {a b : Eng}, b.reg 0x1060 r = a.reg 0x1060 r → b.fv F.HAT_EVT_LOST_LOST r = a.fv F.HAT_EVT_LOST_LOST r :=
    fun h => by simp only [Eng.fv, F.HAT_EVT_LOST_LOST, h]
  rw [asTaken] at after
  refine ⟨e.raise_reports v, fun taken on free => ?given, fun taken full => ?lost, fun notTaken => ?other⟩
  case given =>
    rw [taken, if_pos rfl] at after
    obtain ⟨ring, sent⟩ := m.eventTo_free { v with stamp := e.now } ((before.reports.fb F.HAT_CTL_EN 0 (by decide) rfl).trans on) (by rwa [fill, depth])
    rw [before.ring] at ring sent
    rw [phase] at sent
    obtain ⟨l, out⟩ := after.reports.out
    exact ⟨after.ring.trans ring, by rw [out]; exact List.mem_append_right l sent⟩
  case lost =>
    rw [taken, if_pos rfl] at after
    obtain ⟨ring, counted⟩ := m.eventTo_full { v with stamp := e.now } (by rwa [fill, depth, before.reports.fb F.HAT_CTL_EN 0 (by decide) rfl])
    rw [before.ring] at ring
    exact ⟨after.ring.trans ring, by rw [count after.lost, counted, count before.lost]⟩
  case other =>
    rw [notTaken, if_neg Bool.false_ne_true] at after
    exact ⟨after.ring.trans before.ring, count (after.lost.trans before.lost)⟩

end Sys2Proof.Machine
end

section
/-!
The Steward's scalar syllables (O15 to O18): one rule for a syllable that acts, one for a guard that is closed, and the values of the
table R235 in the words of their numbers.
-/
namespace Sys2Proof.Machine

/-! ### The values of the table -/

theorem shl_value (A : DWord) (n : Nat) : A <<< n = BitVec.ofNat 64 (A.toNat * 2 ^ n) := by
  apply BitVec.eq_of_toNat_eq
  simp [Nat.shiftLeft_eq]

theorem shr_value (A : DWord) (n : Nat) : A >>> n = BitVec.ofNat 64 (A.toNat / 2 ^ n) := by
  apply BitVec.eq_of_toNat_eq
  have fits : A.toNat / 2 ^ n < 2 ^ 64 := Nat.lt_of_le_of_lt (Nat.div_le_self _ _) A.isLt
  rw [BitVec.toNat_ushiftRight, Nat.shiftRight_eq_div_pow, BitVec.toNat_ofNat, Nat.mod_eq_of_lt fits]

theorem sub_value (A B : DWord) : A - B = BitVec.ofInt 64 (A.toInt - B.toInt) := by
  apply BitVec.eq_of_toInt_eq
  simp [BitVec.toInt_sub]

theorem mul_value (A B : DWord) : A * B = BitVec.ofNat 64 (A.toNat * B.toNat) := by
  apply BitVec.eq_of_toNat_eq
  simp

theorem add_value (A B : DWord) : A + B = BitVec.ofNat 64 (A.toNat + B.toNat) := by
  apply BitVec.eq_of_toNat_eq
  simp

theorem slt_iff (A B : DWord) : A.slt B = true ↔ A.toInt < B.toInt := by simp [BitVec.slt]

theorem ult_iff (A B : DWord) : A.ult B = true ↔ A.toNat < B.toNat := by simp [BitVec.ult]

theorem min_value (A B : DWord) : (if A.slt B then A else B) = BitVec.ofInt 64 (min A.toInt B.toInt) := by
  simp only [slt_iff]
  split
  · next less => rw [min_eq_left less.le, BitVec.ofInt_toInt]
  · next more => rw [min_eq_right (not_lt.mp more), BitVec.ofInt_toInt]

theorem max_value (A B : DWord) : (if A.slt B then B else A) = BitVec.ofInt 64 (max A.toInt B.toInt) := by
  simp only [slt_iff]
  split
  · next less => rw [max_eq_right less.le, BitVec.ofInt_toInt]
  · next more => rw [max_eq_left (not_lt.mp more), BitVec.ofInt_toInt]

theorem minu_value (A B : DWord) : (if A.ult B then A else B) = BitVec.ofNat 64 (min A.toNat B.toNat) := by
  simp only [ult_iff]
  split
  · next less => rw [min_eq_left less.le, BitVec.ofNat_toNat, BitVec.setWidth_eq]
  · next more => rw [min_eq_right (not_lt.mp more), BitVec.ofNat_toNat, BitVec.setWidth_eq]

theorem maxu_value (A B : DWord) : (if A.ult B then B else A) = BitVec.ofNat 64 (max A.toNat B.toNat) := by
  simp only [ult_iff]
  split
  · next less => rw [max_eq_right less.le, BitVec.ofNat_toNat, BitVec.setWidth_eq]
  · next more => rw [max_eq_left (not_lt.mp more), BitVec.ofNat_toNat, BitVec.setWidth_eq]

/-- The number of lanes that a predicate has set. -/
theorem pcnt_value (q : BitVec 4) :
    sumBy (fun l => b2n (pbit q l)) lanes4 = ((List.range 4).filter (fun l => q.getLsbD l)).length := by
  revert q; decide

theorem pall_fill (c : Bool) : pall c = BitVec.fill 4 c := by revert c; decide

theorem pnot_value (q : BitVec 4) : ~~~q = q ^^^ 15 := by revert q; decide

/-- The sign-extended immediate reads as the immediate does. -/
theorem imm18_toInt (imm : BitVec 18) : (imm18 imm).toInt = imm.toInt := BitVec.toInt_signExtend_of_le (by decide)

/-- An address with its immediate, modulo 2^64. -/
theorem address_value (A : DWord) (imm : BitVec 18) : ((A + imm18 imm).toNat : Int) = (A.toInt + imm.toInt) % 2 ^ 64 := by
  have h : A + imm18 imm = BitVec.ofInt 64 (A.toInt + imm.toInt) := by
    rw [BitVec.ofInt_add, BitVec.ofInt_toInt]; rfl
  rw [h, BitVec.toNat_ofInt]
  omega

/-! ### A syllable that acts, and one that its guard keeps from acting (R232) -/

/-- A scalar syllable that the Steward issues and its guard allows. -/
theorem scalar_acts {s : State} (up : s.boot.absent = false) (issues : s.eng.stwIssues = true) {g : BitVec 3} {gn : Bool}
    (allowed : s.eng.guardLane g gn 0 = true) (f : Eng → Eng) : scalar g gn s f = .next (s.withEng (f s.eng)) := by
  rw [scalar, live_up up, issues, allowed]
  rfl

/-- A scalar syllable whose guard is closed. -/
theorem scalar_guarded {s : State} {g : BitVec 3} {gn : Bool} (closed : s.eng.guardLane g gn 0 = false) (f : Eng → Eng) :
    scalar g gn s f = .next s := by
  simp [scalar, live, closed]

section
variable {s : State} (up : s.boot.absent = false) (issues : s.eng.stwIssues = true) {g : BitVec 3} {gn : Bool}
  (allowed : s.eng.guardLane g gn 0 = true)
include up issues allowed

/-- A scalar syllable queues the value of its table row. -/
theorem scalarTo_acts (d : BitVec 5) {f : Eng → DWord} {v : DWord} (value : f s.eng = v) :
    scalarTo g gn d s f = .next (s.withEng { s.eng with stw := { s.eng.stw with wr := s.eng.stw.wr ++ [.scalar d.toNat v] } }) := by
  rw [scalarTo, scalar_acts up issues allowed, value]
  rfl

/-- A scalar syllable queues the predicate of its table row. -/
theorem predTo_acts (d : Nat) {f : Eng → BitVec 4} {v : BitVec 4} (value : f s.eng = v) :
    predTo g gn d s f = .next (s.withEng { s.eng with stw := { s.eng.stw with wr := s.eng.stw.wr ++ [.pred (d % 8) v] } }) := by
  rw [predTo, scalar_acts up issues allowed, value]
  rfl

end

/-- Settles O15: each row of the table is its value in `scalarTo_acts`. -/
theorem scalarResults : Obligations.ScalarResults := by
  intro y gn g d a b p imm s up issues allowed A B I q
  have row : ∀ {f : Eng → DWord} {v : DWord}, f s.eng = v → scalarTo g gn d s f = .next (q v) :=
    scalarTo_acts up issues allowed d
  dsimp only [exec, execSAdd, execSSub, execSMul, execSAnd, execSOr, execSXor, execSShl, execSShr, execSMin, execSMax, execSMinu, execSMaxu,
    execSAddi, execSAndi, execSOri, execSShli, execSShri, execSLi, execSPcnt]
  exact ⟨row (add_value A B), row (sub_value A B), row (mul_value A B), row rfl, row rfl, row rfl, row (shl_value A _),
    row (shr_value A _), row (min_value A B), row (max_value A B), row (minu_value A B), row (maxu_value A B), row rfl, row rfl, row rfl,
    row (shl_value A _), row (shr_value A _), row rfl, row (congrArg (BitVec.ofNat 64) (pcnt_value _))⟩

/-- Settles O16. -/
theorem scalarPredicates : Obligations.ScalarPredicates := by
  intro y gn g e f h d a b imm s up issues allowed A B q all
  have row : ∀ (r : Nat) {f : Eng → BitVec 4} {v : BitVec 4}, f s.eng = v → predTo g gn r s f = .next (q (r % 8) v) :=
    fun r => predTo_acts up issues allowed r
  have pred : ∀ r : BitVec 3, r.toNat % 8 = r.toNat := fun r => Nat.mod_eq_of_lt r.isLt
  have compared : ∀ {c c' : Bool}, c = c' → pall c = all c' := fun same => same ▸ pall_fill _
  have immediate : ∀ x : DWord, x = imm18 imm ↔ x.toInt = imm.toInt := fun x => by rw [← imm18_toInt, BitVec.toInt_inj]
  dsimp only [exec, execSCeq, execSClt, execSCltu, execSCeqi, execSClti, execSPand, execSPnot]
  refine ⟨row _ (compared rfl), row _ (compared rfl), row _ (compared (decide_eq_decide.mpr Iff.rfl)), row _ (compared ?_), row _ (compared ?_),
    ?_, ?_⟩
  · exact decide_eq_decide.mpr (immediate A)
  · rw [BitVec.slt, imm18_toInt]
  · have := row e.toNat (f := fun x => x.preg f.toNat &&& x.preg h.toNat) rfl
    rwa [pred] at this
  · have := row e.toNat (f := fun x => ~~~x.preg f.toNat) (pnot_value _)
    rwa [pred] at this

/-- Settles O18: every one of the syllables is `scalar` of its effect; a SETC whose guard is closed does not come to its stop either. -/
theorem guardedScalarsDoNothing : Obligations.GuardedScalarsDoNothing := by
  intro y gn g e f d a b idx imm s closed
  have nothing : ∀ f, scalar g gn s f = .next s := scalar_guarded closed
  have setc : execSSetc g gn a idx s = .next s := by simp [execSSetc, closed, nothing]
  repeat rw [List.forall_mem_cons]
  dsimp only [exec, execSAdd, execSSub, execSMul, execSAnd,
    execSOr, execSXor, execSShl, execSShr, execSMin, execSMax, execSMinu, execSMaxu, execSAddi, execSAndi, execSOri, execSShli, execSShri,
    execSLi, execSPcnt, execSCeq, execSClt, execSCltu, execSCeqi, execSClti, execSPand, execSPnot, execSGetc, execSLd, execSSt, execSBr,
    execSBrz, execSBrnz, execSEnd, scalarTo, predTo]
  exact ⟨nothing _, nothing _, nothing _, nothing _, nothing _, nothing _, nothing _, nothing _, nothing _, nothing _, nothing _, nothing _,
    nothing _, nothing _, nothing _, nothing _, nothing _, nothing _, nothing _, nothing _, nothing _, nothing _, nothing _, nothing _,
    nothing _, nothing _, nothing _, setc, nothing _, nothing _, nothing _, nothing _, nothing _, nothing _, List.forall_mem_nil _⟩

/-! ### Context registers, data memory, branches and END (R236, R249) -/

/-- An index that R236 does not list. -/
theorem Eng.ctxReg_unlisted (e : Eng) {k : Nat} (h : 20 < k) : e.ctxReg k = none := by
  unfold Eng.ctxReg
  dsimp only
  split <;> first | omega | rfl

/-- No bit in error: the word is the one that its check bits agree with. -/
theorem ones64_eq_zero {w : DWord} (h : ones64 w = 0) : w = 0 := by
  apply BitVec.eq_of_getLsbD_eq
  intro i hi
  simp only [ones64, List.length_eq_zero_iff, List.filter_eq_nil_iff, List.mem_range] at h
  simpa using h i hi

theorem Eng.dmemCheck_clean {e : Eng} {k : Nat} (clean : e.dmemErrors k = 0) : e.dmemCheck k = e.dmemWord k :=
  BitVec.xor_eq_zero_iff.mp (ones64_eq_zero clean)

/-- An aligned load reads the word that its check bits give. -/
theorem Eng.dmemRead_aligned (e : Eng) {x : DWord} (aligned : x.toNat % 8 = 0) : e.dmemRead x = e.dmemCheck (x.toNat / 8) := by
  apply BitVec.eq_of_toNat_eq
  simp [Eng.dmemRead, aligned, Nat.add_mul_mod_self_left, Nat.mod_eq_of_lt (e.dmemCheck (x.toNat / 8)).isLt]

section
variable (e : Eng) (d : Nat) {x : DWord} (aligned : x.toNat % 8 = 0) (inside : x.toNat ≤ 65528)
include aligned inside

/-- An aligned load within the 64 KiB goes by the bits in error of its one word. -/
theorem Eng.dmemLoad_aligned :
    e.dmemLoad d x =
      if 2 ≤ e.dmemErrors (x.toNat / 8) then (e.capture { code := 0x071, unit := 5, inst := e.stw.run.getD 0 }).dmemFaulted
      else (if e.dmemErrors (x.toNat / 8) = 1 then e.corrected 5 else e).later (.scalar d (e.dmemCheck (x.toNat / 8))) := by
  have ok : dmemOk x = true := decide_eq_true (by omega)
  have one : dmemWords x = [x.toNat / 8] := if_pos aligned
  simp [Eng.dmemLoad, ok, one, e.dmemRead_aligned aligned]

theorem Eng.dmemLoad_clean (clean : e.dmemErrors (x.toNat / 8) = 0) :
    e.dmemLoad d x = e.later (.scalar d (e.dmemWord (x.toNat / 8))) := by
  rw [e.dmemLoad_aligned d aligned inside, clean, Eng.dmemCheck_clean clean]
  rfl

theorem Eng.dmemLoad_single (single : e.dmemErrors (x.toNat / 8) = 1) :
    e.dmemLoad d x = (e.corrected 5).later (.scalar d (e.dmemCheck (x.toNat / 8))) := by
  rw [e.dmemLoad_aligned d aligned inside, single]
  rfl

theorem Eng.dmemLoad_double (double : 2 ≤ e.dmemErrors (x.toNat / 8)) :
    e.dmemLoad d x = (e.capture { code := 0x071, unit := 5, inst := e.stw.run.getD 0 }).dmemFaulted := by
  rw [e.dmemLoad_aligned d aligned inside, if_pos double]

end

/-- Settles O17: each syllable is `scalar` of its effect; LD and ST go by the address as a number, `address_value`. -/
theorem scalarOthers : Obligations.ScalarOthers := by
  intro y gn g d a idx imm s up issues allowed A at_ w q to_
  have acts : ∀ f : Eng → Eng, scalar g gn s f = .next (s.withEng (f s.eng)) := scalar_acts up issues allowed
  have at_nat : at_ = ((s.eng.sreg a.toNat + imm18 imm).toNat : Int) := (address_value A imm).symm
  dsimp only [exec, execNopScalar, execSGetc, execSLd, execSSt, execSBr, execSBrz, execSBrnz, execSEnd]
  simp only [acts]
  generalize s.eng.sreg a.toNat + imm18 imm = x at at_nat ⊢
  have word : at_.toNat = x.toNat := by rw [at_nat]; rfl
  rw [word]
  refine ⟨live_up up _, fun v hv => ?getc, fun hi => ?getcFree, fun hi => ?setc, fun h8 hin => ?load, fun h8 hin => ?store, fun hout => ?beyond,
    rfl, ?brz, ?brnz, rfl⟩
  case getc => rw [hv]; rfl
  case getcFree => exact ⟨Config.freeValue s.eng.free, by rw [s.eng.ctxReg_unlisted hi]; rfl⟩
  case setc =>
    rw [execSSetc, if_neg (by omega), acts]
    rfl
  case load =>
    have aligned : x.toNat % 8 = 0 := by omega
    have inside : x.toNat ≤ 65528 := by omega
    refine ⟨fun clean => ?_, fun single => ?_, fun double => ?_⟩
    · rw [s.eng.dmemLoad_clean d.toNat aligned inside clean]; rfl
    · rw [s.eng.dmemLoad_single d.toNat aligned inside single]
    · rw [s.eng.dmemLoad_double d.toNat aligned inside double]
  case store =>
    have aligned : x.toNat % 8 = 0 := by omega
    have inside : dmemOk x = true := decide_eq_true (by omega)
    simp only [inside, if_true, Eng.dmemStore, aligned, Nat.mul_zero]
    rfl
  case beyond =>
    have outside : dmemOk x = false := decide_eq_false (by omega)
    simp only [Eng.dmemLoad, outside, Bool.not_false, if_true, Bool.false_eq_true, if_false]
    exact ⟨rfl, rfl⟩
  case brz => split <;> rfl
  case brnz => split <;> rfl

end Sys2Proof.Machine
end

section
/-!
The Steward's wide syllables (O20, O21): one rule for the writes of the enabled lanes, one for a comparison, and the permutation of WSORT.
-/
namespace Sys2Proof.Machine

/-! ### Insertion sorts -/

/-- The model's ordered insertion is the library's. -/
theorem oput_eq_orderedInsert {α : Type} (le : α → α → Bool) (x : α) (l : List α) :
    oput le x l = l.orderedInsert (fun a b => le a b = true) x := by
  induction l with
  | nil => rfl
  | cons y r ih => rw [oput, List.orderedInsert_cons, ih]

theorem osort_eq_insertionSort {α : Type} (le : α → α → Bool) (l : List α) :
    osort le l = l.insertionSort (fun a b => le a b = true) := by
  induction l with
  | nil => rfl
  | cons x l ih => rw [List.insertionSort_cons, ← ih, ← oput_eq_orderedInsert]; rfl

theorem osort_perm {α : Type} (le : α → α → Bool) (l : List α) : (osort le l).Perm l := by
  rw [osort_eq_insertionSort]
  exact List.perm_insertionSort _ l

/-- In ascending order of a key, ties in ascending order. -/
def KeyBefore (key : Nat → Nat) (l m : Nat) : Prop := key l < key m ∨ (key l = key m ∧ l < m)

/-- A number below all of a sorted list takes its place before those of its key. -/
theorem oput_keyBefore {key : Nat → Nat} {x : Nat} {l : List Nat} (below : ∀ y ∈ l, x < y) (sorted : l.Pairwise (KeyBefore key)) :
    (oput (fun a b => decide (key a ≤ key b)) x l).Pairwise (KeyBefore key) := by
  induction l with
  | nil => exact List.pairwise_singleton _ _
  | cons y r ih =>
    obtain ⟨first, rest⟩ := List.pairwise_cons.mp sorted
    unfold oput
    split
    · next before =>
      have atMost : key x ≤ key y := of_decide_eq_true before
      refine List.pairwise_cons.mpr ⟨fun z hz => ?_, sorted⟩
      have xz : x < z := below z hz
      have yz : key y ≤ key z := by
        rcases List.mem_cons.mp hz with rfl | hz
        · exact le_rfl
        · exact (first z hz).elim le_of_lt (fun t => t.1.le)
      unfold KeyBefore
      omega
    · next behind =>
      have more : key y < key x := by simpa using behind
      refine List.pairwise_cons.mpr ⟨fun z hz => ?_, ih (fun z hz => below z (List.mem_cons_of_mem _ hz)) rest⟩
      rw [oput_eq_orderedInsert, List.mem_orderedInsert] at hz
      rcases hz with rfl | hz
      · exact .inl more
      · exact first z hz

/-- The permutation of WSORT: ascending by value, ties by lane. -/
theorem sortLanes_keyBefore {on : List Nat} (ascending : on.Pairwise (· < ·)) (key : Nat → Nat) :
    (sortLanes on key).Pairwise (KeyBefore key) := by
  unfold sortLanes
  induction on with
  | nil => exact List.Pairwise.nil
  | cons x l ih =>
    obtain ⟨first, rest⟩ := List.pairwise_cons.mp ascending
    exact oput_keyBefore (fun y hy => first y ((osort_perm _ l).mem_iff.mp hy)) (ih rest)

/-! ### Writes of a bundle -/

/-- Writes queued one after another. -/
def Eng.laters (e : Eng) (w : List BWrite) : Eng := { e with stw := { e.stw with wr := e.stw.wr ++ w } }

theorem Eng.later_later (e : Eng) (v w : BWrite) : (e.later v).later w = e.laters [v, w] := by simp [Eng.later, Eng.laters]

/-- A list of steps, each of which queues some writes, queues all of them in order. -/
theorem Eng.foldl_laters {α : Type} (l : List α) (f : Eng → α → Eng) (w : α → List BWrite) (h : ∀ (e : Eng) x, f e x = e.laters (w x))
    (e : Eng) : l.foldl f e = e.laters (l.flatMap w) := by
  induction l generalizing e with
  | nil => simp [Eng.laters]
  | cons x l ih => rw [List.foldl_cons, h, ih]; simp [Eng.laters]

/-- The enabled lanes' writes, lane 0 first. -/
theorem Eng.laneWrites_eq (e : Eng) (g : BitVec 3) (gn : Bool) (d : Nat) (f : Nat → DWord) :
    e.laneWrites g gn d f = e.laters ((e.enabledLanes g gn).map (fun l => .lane (4 * d + l) (f l))) := by
  rw [Eng.laneWrites, ← List.foldl_filter, Eng.foldl_laters _ (fun x l => x.later (.lane (4 * d + l) (f l))) (fun l => [.lane (4 * d + l) (f l)])
    (fun _ _ => rfl), ← List.map_eq_flatMap]
  rfl

/-- The lanes that R232 enables. -/
theorem Eng.enabledLanes_eq (e : Eng) (g : BitVec 3) (gn : Bool) :
    e.enabledLanes g gn = (List.range 4).filter (fun l => (e.preg g.toNat).getLsbD l != gn) := rfl

/-- A wide syllable that the Steward issues. -/
theorem wide_acts {s : State} (up : s.boot.absent = false) (issues : s.eng.stwIssues = true) (hold : Nat) (f : Eng → Eng) :
    wide s hold f = .next (s.withEng ((f s.eng).closeBundle hold)) := by
  rw [wide, live_up up, issues]
  rfl

/-- Settles O20: each row of the table is its value in the writes of the enabled lanes. -/
theorem wideResults : Obligations.WideResults := by
  intro gn g d a b imm s up issues A B on close q
  have row : ∀ {f : Eng → Nat → DWord} {v : Nat → DWord}, (∀ l, f s.eng l = v l) → wideTo g gn d s f = .next (q v) := by
    intro f v values
    obtain rfl : f s.eng = v := funext values
    rw [wideTo, wide_acts up issues, s.eng.laneWrites_eq]
    rfl
  have nop : execWideNop s = .next (close []) := by
    rw [execWideNop, wide_acts up issues]
    simp [close]
  dsimp only [exec, execWAdd, execWSub, execWAnd, execWOr, execWMin, execWMax, execWMinu, execWMaxu, execWMul, execWShli, execWShri, execWMov,
    execWBc, execWLi]
  exact ⟨nop, row (fun l => add_value (A l) (B l)), row (fun l => sub_value (A l) (B l)), row (fun _ => rfl), row (fun _ => rfl),
    row (fun l => min_value (A l) (B l)), row (fun l => max_value (A l) (B l)), row (fun l => minu_value (A l) (B l)),
    row (fun l => maxu_value (A l) (B l)), row (fun l => mul_value (A l) (B l)), row (fun l => shl_value (A l) _),
    row (fun l => shr_value (A l) _), row (fun _ => rfl), row (fun _ => rfl), row (fun _ => rfl)⟩

/-- A predicate from its bits has them. -/
theorem pmask_bit (f : Nat → Bool) : ∀ l < 4, (pmask f).getLsbD l = f l := by
  have bits : ∀ b0 b1 b2 b3 : Bool, ∀ l < 4,
      (pmask (fun k => [b0, b1, b2, b3].getD k false)).getLsbD l = [b0, b1, b2, b3].getD l false := by decide
  intro l hl
  have same : pmask f = pmask (fun k => [f 0, f 1, f 2, f 3].getD k false) := rfl
  rw [same, bits _ _ _ _ l hl]
  interval_cases l <;> rfl

/-- A sum of words is the sum of their numbers. -/
theorem sum_value (l : List Nat) (A : Nat → DWord) (n : Nat) :
    l.foldl (fun n k => n + A k) (BitVec.ofNat 64 n) = BitVec.ofNat 64 (n + (l.map (fun k => (A k).toNat)).sum) := by
  induction l generalizing n with
  | nil => rfl
  | cons k l ih =>
    have step : BitVec.ofNat 64 n + A k = BitVec.ofNat 64 (n + (A k).toNat) := by rw [BitVec.ofNat_add, BitVec.ofNat_toNat, BitVec.setWidth_eq]
    rw [List.foldl_cons, step, ih, List.map_cons, List.sum_cons, Nat.add_assoc]

/-- Settles O21. -/
theorem wideReductions : Obligations.WideReductions := by
  intro gn g c d a b e imm s up issues A B en on close bits
  have acts : ∀ {f : Eng → Eng} {w : List BWrite}, f s.eng = s.eng.laters w → wide s 1 f = .next (close w) := by
    intro f w writes
    rw [wide_acts up issues, writes]
    rfl
  have compares : ∀ {f : Eng → Nat → Bool} {t : Nat → Bool}, (∀ l, f s.eng l = t l) →
      ∃ v, wideCmp g gn c s f = .next (close [.pred c.toNat v]) ∧ bits t v := by
    intro f t tests
    refine ⟨_, acts rfl, fun l hl => ?_⟩
    rw [pmask_bit _ l hl, tests]
    rfl
  dsimp only [exec, execWGet, execWCeq, execWClt, execWCltu, execWBit, execWSum, execWSort]
  refine ⟨acts rfl, compares (fun _ => rfl), compares (fun _ => rfl), compares (fun _ => rfl), compares (fun _ => rfl), acts ?sum,
    sortLanes on (fun l => (A l).toNat), osort_perm _ on, ?sorted, acts ?sort⟩
  case sum => exact congrArg (fun v => s.eng.later (.scalar d.toNat v)) ((sum_value on A 0).trans (by rw [Nat.zero_add]))
  case sorted =>
    have ascending : on.Pairwise (· < ·) := List.pairwise_lt_range.filter _
    refine (sortLanes_keyBefore ascending _).imp (fun {l m} before => before.imp_right (fun tie => ⟨?_, tie.2⟩))
    exact BitVec.eq_of_toNat_eq tie.1
  case sort =>
    refine Eng.foldl_laters _ _ (fun (p : Nat × Nat) => [.lane (4 * d.toNat + p.1) (A p.2), .lane (4 * e.toNat + p.1) (B p.2)])
      (fun x _ => x.later_later _ _) s.eng

end Sys2Proof.Machine
end

section
/-!
The end of a bundle (O19): what its queued writes leave, one after another with the last to a register standing, and the cycles of its hold.
-/
namespace Sys2Proof.Machine

/-- Counting changes the counters and their OVF bits, and nothing else. -/
theorem Eng.count_eq (e : Eng) (src amt : Nat) (pid inst : Option Nat) :
    e.count src amt pid inst = { e with
      regs := (e.count src amt pid inst).regs, dbg := { e.dbg with cnt := (e.count src amt pid inst).dbg.cnt } } := by
  have passes : e.Passes (e.count src amt pid inst) := by
    unfold Eng.count
    split
    · exact .refl e
    · exact e.countAmt_passes src amt pid inst
  have now := e.count_now src amt pid inst
  have kpr := e.count_kpr src amt pid inst
  have rest := passes.rest
  generalize e.count src amt pid inst = c at *
  rw [now] at rest
  rw [show ({ e.kpr with parts := c.kpr.parts } : Kpr) = e.kpr by rw [kpr]] at rest
  exact rest

/-- In a settled tick the cycles of the clock pass at once. -/
theorem Eng.passCycles_ended (e : Eng) (n : Nat) (ended : (e.cycles n).now = e.now ∨ (e.tickLeft = e ∧ ∀ t, e.nextStop t = none)) :
    e.passCycles n = e.cycles n := by
  rcases ended with same | ⟨left, stops⟩
  · simp [Eng.passCycles, same]
  · by_cases on : e.now < (e.cycles n).now
    · rw [e.passCycles_settled n (by rwa [left]) on (by rw [left]), left]
      have reached : (e.cycles n).now = max e.now (e.now + (e.tal.acc + n * accGain e.raf.rate) / accTick) := by
        simp only [Eng.cycles, Eng.pass_now, Eng.stall_now]
      have acc : (e.cycles n).tal.acc = (e.tal.acc + n * accGain e.raf.rate) % accTick := by
        simp only [Eng.cycles, (Eng.pass_passes _ _).tal_eq, Eng.stall_tal]
      rw [reached, acc, Nat.max_eq_right (Nat.le_add_right _ _)]
      rfl
    · simp [Eng.passCycles, on]

/-! ### The writes of a bundle (R233, R234, R236) -/

/-- The value that a list of writes, the last first, gives to what `f` takes out of them. -/
def lastOf {α : Type} (f : BWrite → Option α) (l : List BWrite) : Option α := l.reverse.findSome? f

/-- What one write gives to a scalar register, a lane, a predicate, a word of data memory, CFG and EST. -/
def scalarOf (r : Nat) (w : BWrite) : Option DWord :=
  match w with
  | .scalar k v => if k = r then some v else none
  | _ => none

def laneOf (i : Nat) (w : BWrite) : Option DWord :=
  match w with
  | .lane k v => if k = i then some v else none
  | _ => none

def predOf (r : Nat) (w : BWrite) : Option (BitVec 4) :=
  match w with
  | .pred k v => if k = r then some v else none
  | _ => none

def memOf (j : Nat) (w : BWrite) : Option DWord :=
  match w with
  | .mem k v => if k = j then some v else none
  | _ => none

def cfgOf (w : BWrite) : Option Nat :=
  match w with
  | .ctx k v => if k = 15 then some v.toNat else none
  | _ => none

def estOf (w : BWrite) : Option DWord :=
  match w with
  | .ctx k v => if k = 16 then some v else none
  | _ => none

theorem lastOf_append {α : Type} (f : BWrite → Option α) (l : List BWrite) (w : BWrite) :
    lastOf f (l ++ [w]) = (f w).or (lastOf f l) := by
  simp [lastOf, List.findSome?_cons]
  cases f w <;> rfl

/-- The writes taken in order. -/
def Eng.writeAll (e : Eng) (l : List BWrite) : Eng := l.foldl Eng.bundleWrite e

theorem Eng.writeAll_append (e : Eng) (l : List BWrite) (w : BWrite) : e.writeAll (l ++ [w]) = (e.writeAll l).bundleWrite w :=
  List.foldl_concat ..

/-- What the writes may change: the Steward's registers and data memory, and the port's words over them. -/
theorem Eng.writeAll_frame (e : Eng) (l : List BWrite) :
    e.writeAll l = { e with
      stw := { e.stw with
        s := (e.writeAll l).stw.s, v := (e.writeAll l).stw.v, q := (e.writeAll l).stw.q, dmem := (e.writeAll l).stw.dmem
        cfg := (e.writeAll l).stw.cfg, est := (e.writeAll l).stw.est }
      dbg := { e.dbg with mem := (e.writeAll l).dbg.mem } } := by
  induction l using List.reverseRecOn with
  | nil => rfl
  | append_singleton l w ih =>
    rw [e.writeAll_append]
    generalize e.writeAll l = x at ih ⊢
    rw [ih]
    cases w with
    | scalar r v => unfold Eng.bundleWrite; dsimp only; split <;> rfl
    | lane k v => rfl
    | pred r v => unfold Eng.bundleWrite; dsimp only; split <;> rfl
    | ctx k v => unfold Eng.bundleWrite; dsimp only; split <;> [rfl; (split <;> rfl)]
    | mem k v => rfl

/-- What one write gives to a reading is what the last write of it in the list leaves. -/
theorem Eng.writeAll_read {α : Type} (rd : Eng → α) (f : BWrite → Option α) (one : ∀ (e : Eng) w, rd (e.bundleWrite w) = (f w).getD (rd e))
    (e : Eng) (l : List BWrite) : rd (e.writeAll l) = (lastOf f l).getD (rd e) := by
  induction l using List.reverseRecOn with
  | nil => rfl
  | append_singleton l w ih =>
    rw [e.writeAll_append, one, lastOf_append, ih]
    cases f w <;> rfl

section
variable (e : Eng) (l : List BWrite)

theorem Eng.writeAll_sreg (r : Nat) : (e.writeAll l).sreg r = if r = 0 then 0 else (lastOf (scalarOf r) l).getD (e.sreg r) := by
  split
  case isTrue h => simp [Eng.sreg, h]
  case isFalse h =>
    refine Eng.writeAll_read (fun e => e.sreg r) (scalarOf r) (fun e w => ?_) e l
    cases w with
    | scalar k v =>
      by_cases k0 : k = 0
      · simp [Eng.bundleWrite, scalarOf, k0, Ne.symm h]
      · by_cases kr : k = r
        · subst kr; simp [Eng.bundleWrite, scalarOf, Eng.sreg, h]
        · simp [Eng.bundleWrite, scalarOf, Eng.sreg, k0, kr, tgetD_tsetD_ne _ _ _ (Ne.symm kr)]
    | pred k v => simp only [Eng.bundleWrite, scalarOf]; split <;> rfl
    | ctx k v => simp only [Eng.bundleWrite, scalarOf]; split <;> [rfl; (split <;> rfl)]
    | lane k v => rfl
    | mem k v => rfl

theorem Eng.writeAll_preg (r : Nat) : (e.writeAll l).preg r = if r = 0 then 15 else (lastOf (predOf r) l).getD (e.preg r) := by
  split
  case isTrue h => simp [Eng.preg, h]
  case isFalse h =>
    refine Eng.writeAll_read (fun e => e.preg r) (predOf r) (fun e w => ?_) e l
    cases w with
    | pred k v =>
      by_cases k0 : k = 0
      · simp [Eng.bundleWrite, predOf, k0, Ne.symm h]
      · by_cases kr : k = r
        · subst kr; simp [Eng.bundleWrite, predOf, Eng.preg, h]
        · simp [Eng.bundleWrite, predOf, Eng.preg, k0, kr, tgetD_tsetD_ne _ _ _ (Ne.symm kr)]
    | scalar k v => simp only [Eng.bundleWrite, predOf]; split <;> rfl
    | ctx k v => simp only [Eng.bundleWrite, predOf]; split <;> [rfl; (split <;> rfl)]
    | lane k v => rfl
    | mem k v => rfl

theorem Eng.writeAll_lane (r k : Nat) : (e.writeAll l).vlane r k = (lastOf (laneOf (4 * r + k)) l).getD (e.vlane r k) := by
  refine Eng.writeAll_read (fun e => e.vlane r k) (laneOf (4 * r + k)) (fun e w => ?_) e l
  cases w with
  | lane j v =>
    by_cases same : j = 4 * r + k
    · subst same; simp [Eng.bundleWrite, laneOf, Eng.vlane]
    · simp [Eng.bundleWrite, laneOf, Eng.vlane, same, tgetD_tsetD_ne _ _ _ (Ne.symm same)]
  | scalar k v => simp only [Eng.bundleWrite, laneOf]; split <;> rfl
  | pred k v => simp only [Eng.bundleWrite, laneOf]; split <;> rfl
  | ctx k v => simp only [Eng.bundleWrite, laneOf]; split <;> [rfl; (split <;> rfl)]
  | mem k v => rfl

theorem Eng.writeAll_dmem (j : Nat) : tgetD (e.writeAll l).stw.dmem j 0 = (lastOf (memOf j) l).getD (tgetD e.stw.dmem j 0) := by
  refine Eng.writeAll_read (fun e => tgetD e.stw.dmem j 0) (memOf j) (fun e w => ?_) e l
  cases w with
  | mem k v =>
    by_cases same : k = j
    · subst same; simp [Eng.bundleWrite, memOf]
    · simp [Eng.bundleWrite, memOf, same, tgetD_tsetD_ne _ _ _ (Ne.symm same)]
  | scalar k v => simp only [Eng.bundleWrite, memOf]; split <;> rfl
  | pred k v => simp only [Eng.bundleWrite, memOf]; split <;> rfl
  | ctx k v => simp only [Eng.bundleWrite, memOf]; split <;> [rfl; (split <;> rfl)]
  | lane k v => rfl

theorem Eng.writeAll_cfg : (e.writeAll l).stw.cfg = (lastOf cfgOf l).getD e.stw.cfg := by
  refine Eng.writeAll_read (fun e => e.stw.cfg) cfgOf (fun e w => ?_) e l
  cases w with
  | ctx k v => simp only [Eng.bundleWrite, cfgOf]; split <;> [rfl; (split <;> rfl)]
  | scalar k v => simp only [Eng.bundleWrite, cfgOf]; split <;> rfl
  | pred k v => simp only [Eng.bundleWrite, cfgOf]; split <;> rfl
  | lane k v => rfl
  | mem k v => rfl

theorem Eng.writeAll_est : (e.writeAll l).stw.est = (lastOf estOf l).getD e.stw.est := by
  refine Eng.writeAll_read (fun e => e.stw.est) estOf (fun e w => ?_) e l
  cases w with
  | ctx k v =>
    by_cases k15 : k = 15
    · simp [Eng.bundleWrite, estOf, k15]
    · simp only [Eng.bundleWrite, estOf, k15, if_false]; split <;> rfl
  | scalar k v => simp only [Eng.bundleWrite, estOf]; split <;> rfl
  | pred k v => simp only [Eng.bundleWrite, estOf]; split <;> rfl
  | lane k v => rfl
  | mem k v => rfl

/-- The write stores to the data memory word at a place of the port's memory. -/
def storesAt (k : Nat) (w : BWrite) : Bool :=
  match w with
  | .mem j _ => decide (k = 6 * 2 ^ 40 + 28 * 2048 + j)
  | _ => false

/-- A store ends what the port held over the word. -/
theorem Eng.writeAll_mem (k : Nat) : tget (e.writeAll l).dbg.mem k = if l.any (storesAt k) then none else tget e.dbg.mem k := by
  induction l using List.reverseRecOn with
  | nil => rfl
  | append_singleton l w ih =>
    have one : tget ((e.writeAll l).bundleWrite w).dbg.mem k = if storesAt k w then none else tget (e.writeAll l).dbg.mem k := by
      cases w with
      | mem j v =>
        by_cases same : k = 6 * 2 ^ 40 + 28 * 2048 + j
        · subst same; simp [Eng.bundleWrite, storesAt]
        · simp only [Eng.bundleWrite, storesAt, same, decide_false, Bool.false_eq_true, if_false]
          exact tget_tdel_ne _ same
      | scalar k v => simp only [Eng.bundleWrite, storesAt]; split <;> rfl
      | pred k v => simp only [Eng.bundleWrite, storesAt]; split <;> rfl
      | ctx k v => simp only [Eng.bundleWrite, storesAt]; split <;> [rfl; (split <;> rfl)]
      | lane k v => rfl
    rw [e.writeAll_append, one, ih]
    simp only [List.any_append, List.any_cons, List.any_nil, Bool.or_false]
    cases storesAt k w <;> cases l.any (storesAt k) <;> rfl

end

/-! ### The bundle closes -/

/-- The engine in which the writes of its bundle take effect: they are no longer queued. -/
def Eng.closing (e : Eng) : Eng := { e with stw := { e.stw with wr := [], seen := none }, dbg := { e.dbg with stepOne := false } }

/-- The writes have taken effect and `n` cycles are counted for the bundle, of which nothing is open any more. -/
def Eng.wrote (e : Eng) (n : Nat) : Eng :=
  let w := e.closing.writeAll e.stw.wr
  { w with stw := { w.stw with cycles := w.stw.cycles + n, target := none, ending := false, dmemFault := false } }

theorem Eng.wrote_frame (e : Eng) (n : Nat) :
    let w := e.closing.writeAll e.stw.wr
    e.wrote n = { e with
      stw := { e.stw with
        s := w.stw.s, v := w.stw.v, q := w.stw.q, dmem := w.stw.dmem, cfg := w.stw.cfg, est := w.stw.est
        cycles := e.stw.cycles + n, wr := [], target := none, ending := false, dmemFault := false, seen := none }
      dbg := { e.dbg with stepOne := false, mem := w.dbg.mem } } := by
  have frame := e.closing.writeAll_frame e.stw.wr
  unfold Eng.wrote
  generalize e.closing.writeAll e.stw.wr = w at *
  dsimp only
  rw [frame]
  rfl

/-- The end of a bundle is its writes and the count of its cycles (R600). -/
theorem Eng.bundleEnd_eq (e : Eng) {i : Nat} (n : Nat) (run : e.stw.run = some i) :
    e.bundleEnd n = (e.wrote n).count 0x1005 n (some ((e.wrote n).inst i).owner) (some i) := by
  unfold Eng.bundleEnd
  dsimp only
  split
  · next j hj => cases hj.symm.trans run; rfl
  · next stopped => cases stopped.symm.trans run

/-- All that the end of a bundle changes: the writes, the count of the cycles, and what was open. -/
theorem Eng.bundleEnd_frame (e : Eng) {i : Nat} (n : Nat) (run : e.stw.run = some i) :
    let w := e.closing.writeAll e.stw.wr
    e.bundleEnd n = { e with
      regs := (e.bundleEnd n).regs
      stw := { e.stw with
        s := w.stw.s, v := w.stw.v, q := w.stw.q, dmem := w.stw.dmem, cfg := w.stw.cfg, est := w.stw.est
        cycles := e.stw.cycles + n, wr := [], target := none, ending := false, dmemFault := false, seen := none }
      dbg := { e.dbg with stepOne := false, cnt := (e.bundleEnd n).dbg.cnt, mem := w.dbg.mem } } := by
  intro w
  rw [e.bundleEnd_eq n run, Eng.count_eq]
  generalize (e.wrote n).count 0x1005 n (some ((e.wrote n).inst i).owner) (some i) = counted
  rw [e.wrote_frame]

/-- No register but the counters' is another one. -/
theorem Eng.bundleEnd_reg (e : Eng) {i : Nat} (n : Nat) (run : e.stw.run = some i) (off sel : Nat) (hs : sel < 65536)
    (ht : tallyReg off = false) : (e.bundleEnd n).reg off sel = e.reg off sel := by
  have written : (e.wrote n).regs = e.regs := by rw [e.wrote_frame]
  rw [e.bundleEnd_eq n run, (Eng.count_reports ..).regs off sel hs ht]
  simp only [Eng.reg, written]

/-- The bundle that ends without END, fault or branch out of the program is followed by the one at its target or the next (R233, R247). -/
theorem Eng.bundleNext_on (e : Eng) {i uid : Nat} {w : Stw} (run : e.stw.run = some i) (same : (e.comp i).uid = uid) (fault : w.dmemFault = false)
    (ending : w.ending = false) (from0 : 0 ≤ w.target.getD ((w.pc : Int) + 1)) (inside : w.target.getD ((w.pc : Int) + 1) < e.progLen) :
    e.bundleNext i uid w = { e with stw := { e.stw with pc := (w.target.getD ((w.pc : Int) + 1)).toNat } } := by
  have stays : ¬(e.stw.run ≠ some i ∨ (e.comp i).uid ≠ uid) := by simp [run, same]
  have inProgram : ¬(w.target.getD ((w.pc : Int) + 1) < 0 ∨ (e.progLen : Int) ≤ w.target.getD ((w.pc : Int) + 1)) := by omega
  unfold Eng.bundleNext
  rw [if_neg stays, if_neg (by simp [fault]), if_neg (by simp [ending])]
  exact if_neg inProgram

/-- Settles O19: the frame of the bundle's end, that of the clock's cycles, and the readings that the writes leave. -/
theorem bundleCloses : Obligations.BundleCloses := by
  intro s i up issues run ending fault next end_ from0 inside quiet writes
  have ended : end_ = _ := s.eng.bundleEnd_frame 1 run
  have passed : end_.passCycles 1 = end_.cycles 1 := end_.passCycles_ended 1 (quiet.imp_right id)
  obtain ⟨cycled, clock, regs⟩ := end_.cycles_spec 1
  have endRegs : ∀ off sel, sel < 65536 → timeReg off = false → end_.reg off sel = s.eng.reg off sel :=
    fun off sel hs ht => s.eng.bundleEnd_reg 1 run off sel hs (tallyReg_of_timeReg ht)
  generalize hw : s.eng.closing.writeAll s.eng.stw.wr = w at ended
  generalize end_.cycles 1 = c at passed cycled clock regs
  have cStw : c.stw = end_.stw := by rw [cycled]
  have cComp : (c.comp i).uid = (s.eng.comp i).uid := by
    have cmp : c.cmp = s.eng.cmp := by rw [cycled, ended]
    simp only [Eng.comp, Eng.inst, cmp]
  have cLen : c.progLen = s.eng.progLen := by simp only [Eng.progLen, cStw, ended]
  have closes : exec .wideNop s = .next (s.withEng { c with stw := { c.stw with pc := next.toNat } }) := by
    change execWideNop s = _
    rw [execWideNop, wide_acts up issues]
    simp only [Eng.closeBundle, run, ending, Bool.false_eq_true, if_false]
    rw [passed, c.bundleNext_on (by rw [cStw, ended]; exact run) cComp fault ending from0 (by rw [cLen]; exact inside)]
  have s_eq : c.stw.s = w.stw.s := by rw [cStw, ended]
  have v_eq : c.stw.v = w.stw.v := by rw [cStw, ended]
  have q_eq : c.stw.q = w.stw.q := by rw [cStw, ended]
  have dmem_eq : c.stw.dmem = w.stw.dmem := by rw [cStw, ended]
  have cfg_eq : c.stw.cfg = w.stw.cfg := by rw [cStw, ended]
  have est_eq : c.stw.est = w.stw.est := by rw [cStw, ended]
  have mem_eq : c.dbg.mem = w.dbg.mem := by rw [cycled, ended]
  subst hw
  refine ⟨_, closes, fun r => ?scalar, fun r l => ?lane, fun r => ?pred, fun j => ?dmem, fun k => ?mem, ?cfg, ?est, ?clock, ?regs, ?frame⟩
  case scalar =>
    have read := s.eng.closing.writeAll_sreg s.eng.stw.wr r
    simp only [Eng.sreg, ← s_eq] at read
    exact read
  case lane =>
    have read := s.eng.closing.writeAll_lane s.eng.stw.wr r l
    simp only [Eng.vlane, ← v_eq] at read
    exact read
  case pred =>
    have read := s.eng.closing.writeAll_preg s.eng.stw.wr r
    simp only [Eng.preg, ← q_eq] at read
    exact read
  case dmem =>
    have read := s.eng.closing.writeAll_dmem s.eng.stw.wr j
    rw [← dmem_eq] at read
    exact read
  case mem =>
    have read := s.eng.closing.writeAll_mem s.eng.stw.wr k
    rw [← mem_eq] at read
    exact read
  case cfg =>
    have read := s.eng.closing.writeAll_cfg s.eng.stw.wr
    rw [← cfg_eq] at read
    exact read
  case est =>
    have read := s.eng.closing.writeAll_est s.eng.stw.wr
    rw [← est_eq] at read
    exact read
  case clock =>
    have now : end_.now = s.eng.now := by rw [ended]
    have tal : end_.tal = s.eng.tal := by rw [ended]
    have raf : end_.raf = s.eng.raf := by rw [ended]
    rwa [now, tal, raf, Nat.one_mul] at clock
  case regs => exact fun off sel hs ht => (regs off sel hs ht).trans (endRegs off sel hs ht)
  case frame =>
    refine congrArg s.withEng ?_
    change ({ c with stw := { c.stw with pc := next.toNat } } : Eng) = { s.eng with
      now := c.now, regs := c.regs
      tal := { s.eng.tal with acc := c.tal.acc }
      stw := { s.eng.stw with
        s := c.stw.s, v := c.stw.v, q := c.stw.q, dmem := c.stw.dmem, cfg := c.stw.cfg, est := c.stw.est
        pc := next.toNat, cycles := s.eng.stw.cycles + 1, wr := [], target := none, seen := none }
      kpr := { s.eng.kpr with parts := c.kpr.parts }
      dbg := { s.eng.dbg with stepOne := false, cnt := c.dbg.cnt, mem := c.dbg.mem } }
    rw [cycled, ended]
    simp only [ending, fault]

end Sys2Proof.Machine
end

section
/-!
Writes of registers by access type (O10) and of pairs (O11): the bits of the word that a write leaves, the frame of the write, and the
events that only report.
-/
namespace Sys2Proof.Machine

/-- A field's number is below its width. -/
theorem Eng.fv_lt (e : Eng) (f : Fld) (sel : Nat) : e.fv f sel < 2 ^ (f.hi + 1 - f.lo) := Nat.mod_lt _ (Nat.two_pow_pos _)

/-- A select register selects less than 65,536 copies. -/
theorem Eng.selOf_lt (e : Eng) (k : Sel) : e.selOf k < 65536 := by
  cases k <;> first | exact Nat.zero_lt_succ _ | exact Nat.lt_of_lt_of_le (e.fv_lt _ _) (by decide)

/-! ### The word that a write leaves (R7 to R12) -/

/-- The bits that a write takes as written: RW ones that nothing keeps, RWS ones, and RWL ones before the lock. -/
def RegRow.opened (r : RegRow) (kept : Word) (locked : Bool) (k : Nat) : Bool :=
  (r.rw.getLsbD k && !kept.getLsbD k) || r.rws.getLsbD k || (r.rwl.getLsbD k && !locked)

/-- A bit of the word: written by its access type, cleared by a 1, or as it was. -/
theorem Eng.wordAfter_bit (e : Eng) (r : RegRow) (off sel : Nat) (locked : Bool) (d : Word) {k : Nat} (hk : k < 32) (ho : off ≠ 0x2004)
    (apart : (r.rw ||| r.rws ||| r.rwl) &&& r.w1c = 0) :
    (e.wordAfter r off sel locked d).getLsbD k =
      (if r.opened (e.rwHeld r off sel ||| enBits off) locked k then d.getLsbD k
       else if r.w1c.getLsbD k then (e.reg off sel).getLsbD k && !d.getLsbD k
       else (e.reg off sel).getLsbD k) := by
  have lockBit : (if locked then (0 : Word) else r.rwl).getLsbD k = (r.rwl.getLsbD k && !locked) := by cases locked <;> simp
  have openBit : ((r.rw &&& ~~~e.rwHeld r off sel &&& ~~~enBits off) ||| r.rws ||| (if locked then 0 else r.rwl)).getLsbD k =
      r.opened (e.rwHeld r off sel ||| enBits off) locked k := by
    simp only [RegRow.opened, BitVec.getLsbD_or, BitVec.getLsbD_and, BitVec.getLsbD_not, hk, decide_true, Bool.true_and, lockBit, Bool.and_assoc,
      Bool.not_or]
  have noClear : (r.opened (e.rwHeld r off sel ||| enBits off) locked k && r.w1c.getLsbD k) = false := by
    have bit : ((r.rw.getLsbD k || r.rws.getLsbD k || r.rwl.getLsbD k) && r.w1c.getLsbD k) = false := by
      simpa using congrArg (fun w : Word => w.getLsbD k) apart
    cases hc : r.w1c.getLsbD k
    · exact Bool.and_false _
    · simp only [hc, Bool.and_true, Bool.or_eq_false_iff] at bit
      simp [RegRow.opened, bit]
  unfold Eng.wordAfter capTaken
  simp only [ho, if_false]
  generalize (r.rw &&& ~~~e.rwHeld r off sel &&& ~~~enBits off) ||| r.rws ||| (if locked then 0 else r.rwl) = taken at openBit ⊢
  generalize r.opened (e.rwHeld r off sel ||| enBits off) locked k = o at *
  simp only [BitVec.getLsbD_or, BitVec.getLsbD_and, BitVec.getLsbD_not, hk, decide_true, Bool.true_and, openBit]
  cases o <;> cases hc : r.w1c.getLsbD k <;> simp_all

/-! ### The frame of a write -/

/-- A write of one register: at once, or accepted or held to take effect later. -/
def Eng.regWrite (e : Eng) (r : RegRow) (off sel : Nat) (w : Word) : Eng :=
  if r.rws = 0 then e.putReg off sel w else e.rwsWrite off sel w

theorem Eng.regWrite_frame (e : Eng) (r : RegRow) (off sel : Nat) (w : Word) :
    e.regWrite r off sel w = { e with
      regs := (e.putReg off sel w).regs, pend := (e.regWrite r off sel w).pend, held := (e.regWrite r off sel w).held } := by
  unfold Eng.regWrite
  split
  · rfl
  · cases h : keyInst (regKey off sel) with
    | none => rw [e.rwsWrite_wide w h]; rfl
    | some i => rw [e.rwsWrite_inst_eq w h]; rfl

/-- The write of one register: its word, and events. -/
theorem Eng.wordsWrite_reports (e : Eng) (off0 off sel : Nat) (locked : Bool) (r : RegRow) (d : Word) :
    (e.regWrite r off sel (e.wordAfter r off sel locked d)).Reports (e.wordsWrite off0 sel locked [(r, off, d)]) := by
  unfold Eng.wordsWrite Eng.regWrite
  simp only [List.foldl, List.any, Bool.or_false]
  generalize (if r.rws = 0 then e.putReg off sel (e.wordAfter r off sel locked d)
    else e.rwsWrite off sel (e.wordAfter r off sel locked d)) = x
  split <;> split
  · exact (Eng.wwe_reports _ _).trans (Eng.wal_reports _ _)
  · exact Eng.wal_reports _ _
  · exact Eng.wwe_reports _ _
  · exact Eng.Reports.refl _

/-- A register that is no enable field and starts nothing is written and no more. -/
theorem Eng.afterWrite_plain (e was : Eng) {off : Nat} (stage : Nat) (d : Word) (inner : off % 0x1000 ≠ 0)
    (plain : off ∉ ([0x40, 0x2004, 0x3084, 0xE020, 0xF080, 0xF098] : List Nat)) : e.afterWrite was off stage d = e := by
  simp only [List.mem_cons, List.not_mem_nil, or_false, not_or] at plain
  obtain ⟨h40, -, h3084, hE020, hF080, hF098⟩ := plain
  have notEnable : ¬(1 ≤ off / 0x1000 ∧ off / 0x1000 ≤ 13 ∧ off = 0x1000 * (off / 0x1000)) := by omega
  simp [Eng.afterWrite, h40, h3084, hE020, hF080, hF098, notEnable]

/-- A 32-bit access at an aligned offset below the view is a write of a register. -/
theorem execRegisterWrite_four {s : State} (up : s.boot.absent = false) {off : Nat} (data : DWord) (low : off < 0x18000) (aligned : off % 4 = 0) :
    execRegisterWrite off 4 data s = write32 off (data.setWidth 32) s := by
  simp [execRegisterWrite, up, accessOk_four (show off < 0x20000 by omega) aligned, show ¬0x1C000 ≤ off by omega, show ¬0x18000 ≤ off by omega]

/-- Settles O10: the write is `regWrite` of the word that `wordAfter_bit` gives, and events. -/
theorem registerWriteByAccessType : Obligations.RegisterWriteByAccessType := by
  intro off data s r n k up low aligned inner plain quiet sel noRow noPair row names apart hk kept key
  have hsel : sel < 65536 := s.eng.selOf_lt r.sel
  let w := s.eng.wordAfter r off sel s.boot.locked (data.setWidth 32)
  let e' := s.eng.wordsWrite off sel s.boot.locked [(r, off, data.setWidth 32)]
  have reports : (s.eng.regWrite r off sel w).Reports e' := s.eng.wordsWrite_reports off off sel s.boot.locked r (data.setWidth 32)
  have writes : exec (.registerWrite off 4 data) s = .next (s.withEng e') := by
    change execRegisterWrite off 4 data s = _
    rw [execRegisterWrite_four up data low aligned, write32, noRow]
    simp only [noPair, live_up up, Eng.oneWrite, row]
    rw [if_neg (by simpa using names), Eng.afterWrite_plain _ _ _ _ inner plain]
  have regs : ∀ o i, i < 65536 → tallyReg o = false → e'.reg o i = (s.eng.putReg off sel w).reg o i := by
    intro o i hi ho
    rw [reports.regs o i hi ho, s.eng.regWrite_frame]
    rfl
  have word : e'.reg off sel = w := (regs off sel hsel quiet).trans (s.eng.reg_putReg_same off sel w)
  refine ⟨_, writes, ?bits, fun o i hi other ho => ?others, fun atOnce => ?atOnce, fun later => ?later, ?frame⟩
  case bits =>
    have dataBit : (data.setWidth 32).getLsbD k = data.getLsbD k := by simp [hk]
    simp only [State.withEng_eng, word]
    have bit := s.eng.wordAfter_bit r off sel s.boot.locked (data.setWidth 32) hk (by simp_all) apart
    rw [dataBit] at bit
    exact bit
  case others => exact (regs o i hi ho).trans (s.eng.reg_putReg_ne off sel w hsel hi other)
  case atOnce =>
    have put : s.eng.regWrite r off sel w = s.eng.putReg off sel w := if_pos atOnce
    rw [put] at reports
    exact ⟨reports.pend_eq, reports.held_eq⟩
  case later =>
    have put : s.eng.regWrite r off sel w = s.eng.rwsWrite off sel w := if_neg later
    rw [put] at reports
    have pend := reports.pend_eq
    have held := reports.held_eq
    simp only [State.withEng_eng, word, pend, held]
    cases h : keyInst key with
    | none => rw [s.eng.rwsWrite_wide w h]; exact ⟨rfl, rfl⟩
    | some i => rw [s.eng.rwsWrite_inst w h]; dsimp only; split <;> exact ⟨rfl, rfl⟩
  case frame =>
    have rest := reports.rest
    rw [s.eng.regWrite_frame] at rest
    dsimp only at rest
    rw [← reports.pend_eq, ← reports.held_eq] at rest
    exact congrArg s.withEng rest

/-! ### Pairs (R621) -/

/-- A window's enable field is found by the window, and lies in it. -/
theorem enableOf_window {a b : Nat} (h : a / 0x1000 = b / 0x1000) : enableOf a = enableOf b := by unfold enableOf; rw [h]

theorem enableOf_inWindow {o : Nat} {f : Fld} (h : enableOf o = some f) : f.off / 0x1000 = o / 0x1000 := by
  unfold enableOf at h
  split at h
  · next is14 => cases h; rw [is14]; rfl
  · next is16 => cases h; rw [is16]; rfl
  · split at h
    · cases h; dsimp only; omega
    · cases h

/-- A register without an enable field is not the one that governs its window. -/
theorem enableOf_ne {o off : Nat} {f : Fld} (h : enableOf o = some f) (noEnable : enBits off = 0) : f.off ≠ off := by
  rintro rfl
  have here : enableOf f.off = some f := (enableOf_window (enableOf_inWindow h)).trans h
  simp [enBits, here] at noEnable

theorem Eng.fv_putReg_ne (e : Eng) (f : Fld) (off : Nat) (w : Word) (other : f.off ≠ off) : (e.putReg off 0 w).fv f = e.fv f := by
  simp only [Eng.fv, e.reg_putReg_ne off 0 w (show (0 : Nat) < 65536 by decide) (show (0 : Nat) < 65536 by decide) (.inl other)]

theorem Eng.fb_putReg_ne (e : Eng) (f : Fld) (off : Nat) (w : Word) (other : f.off ≠ off) : (e.putReg off 0 w).fb f = e.fb f := by
  simp only [Eng.fb, e.fv_putReg_ne f off w other]

/-- What keeps a pair's high word from being written is not changed by a write of its low word, which holds no enable field. -/
theorem Eng.rwHeld_putReg_low (e : Eng) (h : RegRow) (off : Nat) (w : Word) (noEnable : enBits off = 0) :
    (e.putReg off 0 w).rwHeld h (off + 4) 0 = e.rwHeld h (off + 4) 0 := by
  unfold Eng.rwHeld
  dsimp only
  split
  · next cst =>
    rw [e.fb_putReg_ne F.TAL_CST_CTL_EN off w (by simp only [F.TAL_CST_CTL_EN]; omega)]
    rfl
  · split
    · next ring =>
      have same : (e.putReg off 0 w).ringEn 0 = e.ringEn 0 :=
        e.fb_putReg_ne F.HAT_RING_CFG_EN off w (by simp only [F.HAT_RING_CFG_EN]; omega)
      rw [same]
    · cases found : enableOf (off + 4) with
      | none => rfl
      | some f => simp only [e.fb_putReg_ne f off w (enableOf_ne found noEnable)]

/-- Settles O11: the low word waits in `pairLow`, and the high word's write is that of both registers. -/
theorem pairCommitsWithHighWord : Obligations.PairCommitsWithHighWord := by
  intro off lo hi s r h n m up low aligned noRow pairLow pairHigh notCst not2000 not2004 rowLow rowHigh noSel rws hws rw1c hw1c rrwl hrwl
    rfree hfree rplain hplain u
  have writesLow : exec (.registerWrite off 4 lo) s = .next u := by
    change execRegisterWrite off 4 lo s = _
    rw [execRegisterWrite_four up lo (by omega) aligned, write32, noRow]
    simp only [pairLow, if_true, live_up up]
    rfl
  let e : Eng := { u.eng with pairLow := tdel u.eng.pairLow off }
  let e1 := e.putReg off 0 (e.wordAfter r off 0 s.boot.locked (lo.setWidth 32))
  let e2 := e1.putReg (off + 4) 0 (e1.wordAfter h (off + 4) 0 s.boot.locked hi)
  have lowWord : e.wordAfter r off 0 s.boot.locked (lo.setWidth 32) = (s.eng.reg off 0 &&& ~~~r.rw) ||| (lo.setWidth 32 &&& r.rw) :=
    e.wordAfter_open r off 0 s.boot.locked (lo.setWidth 32) rfree rplain rws rrwl rw1c not2004
  have highWord : e1.wordAfter h (off + 4) 0 s.boot.locked hi = (s.eng.reg (off + 4) 0 &&& ~~~h.rw) ||| (hi &&& h.rw) := by
    rw [e1.wordAfter_open h (off + 4) 0 s.boot.locked hi ((e.rwHeld_putReg_low h off _ rplain).trans hfree) hplain hws hrwl hw1c (by omega),
      e.reg_putReg_ne off 0 _ (by decide) (by decide) (.inl (by omega))]
    rfl
  have writesHigh : exec (.pairHighWrite (off + 4) hi) u = .next (u.withEng e2) := by
    have held : tget u.eng.pairLow off = some (lo.setWidth 32) := tget_tput_same _ _ _
    have apart : ¬off = off + 4 := by omega
    have both := e.wordsWrite_pair off off (off + 4) 0 s.boot.locked r h (lo.setWidth 32) hi rws hws rfree hfree rrwl hrwl
    change execPairHighWrite (off + 4) hi u = _
    rw [execPairHighWrite, if_neg (by omega), live_up (s := u) up]
    simp only [Eng.highWrite, pairHigh, apart, if_false, held, Option.getD_some, Eng.pairWrite, rowLow, rowHigh, noSel]
    exact congrArg (fun x => Host.Outcome.next (u.withEng x)) both
  refine ⟨writesLow, u.withEng e2, writesHigh, ?_, ?_, tget_tdel_same _ _, fun o i hi other => ?_, rfl⟩
  · exact (e1.reg_putReg_ne (off + 4) 0 _ (by decide) (by decide) (.inl (by omega))).trans ((e.reg_putReg_same off 0 _).trans lowWord)
  · exact (e1.reg_putReg_same (off + 4) 0 _).trans highWord
  · exact (e1.reg_putReg_ne (off + 4) 0 _ (by decide) hi (by omega)).trans (e.reg_putReg_ne off 0 _ (by decide) hi (by omega))

end Sys2Proof.Machine
end

section
/-!
Resets and bring-up (R555 to R573): the engine's resets, the units' resets, the bring-up sequence and the power domains.
-/
namespace Sys2Proof.Machine

/-! ### Engine resets -/

/-- The domains that R565 names are ON or in RETAIN after reset, the others OFF. -/
theorem Eng.dom_reset (t d : Nat) :
    ((Eng.reset t).dom d).st = if d = 0 ∨ d = 96 ∨ d = 97 then 2 else if d = 7 then 3 else 0 := by
  simp only [Eng.dom, Eng.reset, resetDomains, tgetD, tget]
  grind

/-- The bring-up state after reset agrees with itself, whatever the cause and the controller's counter. -/
theorem Boot.Good.released (cause cmc : Nat) (cmcAt : Int) : Boot.Good { cause, cmc, cmcAt } :=
  ⟨by simp, by simp, by simp, by simp, by simp, by simp⟩

/-- The release of reset. -/
theorem exec_resetRelease {s : State} (absent : s.boot.absent = true) :
    exec .resetRelease s = .next { s with
      boot := { cause := s.boot.cause, cmc := s.boot.cmc, cmcAt := s.boot.cmc }
      eng := { Eng.reset s.boot.cmc with
        out := (s.boot.takes.map (fun w => Out.coreAnswer w.core 2 none)).reverse ++ s.eng.out, free := s.eng.free, dbg := s.eng.dbg } } :=
  if_pos absent

/-- A field that starts at bit 0. -/
theorem bitsOf_low (n hi : Nat) : bitsOf n hi 0 = n % 2 ^ (hi + 1) := by rw [bitsOf, Nat.pow_zero, Nat.div_one, Nat.sub_zero]

/-- Settles O29. -/
theorem engineResets : Obligations.EngineResets := by
  unfold Obligations.EngineResets
  intro data word s
  refine ⟨rfl, rfl, ?driver, ?clock, ?debug, ?release⟩
  case driver =>
    intro up key
    have key' : bitsOf data.toNat 15 0 = resetKey := by rw [bitsOf_low, resetKey]; omega
    have unit : bitsOf data.toNat 19 16 = 0 := by rw [bitsOf]; omega
    exact if_pos ⟨up, key', unit⟩
  case clock =>
    intro up
    exact if_neg (by rw [up]; exact Bool.false_ne_true)
  case debug =>
    intro up opened free key
    exact if_pos ⟨up, opened, free, (bitsOf_low _ 15).trans key⟩
  case release =>
    intro k
    exact ⟨_, exec_resetRelease rfl, rfl, Boot.Good.released .., rfl, rfl, rfl, fun _ _ => rfl, rfl, rfl, rfl, fun _ => rfl,
      Eng.dom_reset s.cmcNow, rfl, rfl, rfl, rfl, rfl, rfl⟩

/-! ### Unit resets -/

/-- A state whose table of rings lists ring 0 twice: first as after reset, then with a record in the overflow area. No command makes such
a table, but the statement quantifies over every state. -/
def State.ringTwice : State :=
  { boot := {}, eng := { hat := { rings := [(0, {}), (0, { ovf := [{ status := 0 }] })] } }, pending := [] }

/-- A reset of Hatch drops the entry that holds nothing over, and the one behind it then shows. -/
theorem unitReset_ringTwice {t : State} (run : exec (.unitReset 0x1D54A) State.ringTwice = .next t) :
    (t.eng.ring 0).ovf = [{ status := 0 }] := by
  have reset : exec (.unitReset 0x1D54A) State.ringTwice = .next { State.ringTwice with eng := State.ringTwice.eng.unitReset 1 } := by
    change execUnitReset _ _ = _
    rw [execUnitReset, live_up rfl, if_pos (by decide)]
    rfl
  obtain rfl := Host.Outcome.next.inj (reset.symm.trans run)
  decide

/-- Refutes O30: in a state whose table of rings lists ring 0 twice, the ring shows its second entry once a reset of Hatch has dropped
the first, so that it does not hold over what it held over before. The statement asks nothing of the tables of the state. -/
theorem not_unitResets : ¬ Obligations.UnitResets := by
  unfold Obligations.UnitResets
  intro holds
  obtain ⟨-, -, cleared⟩ := holds 0x1D54A State.ringTwice rfl
  obtain ⟨t, run, -, -, -, -, hatch, -⟩ := cleared (by decide) (by decide) (by decide) (by decide) (by decide)
  have kept := (hatch (by decide)).2 0
  have shows := unitReset_ringTwice run
  rw [kept] at shows
  exact absurd shows (by decide)

/-! ### Bring-up -/

/-- Of the counters and the debug port the passing of time changes the counts. -/
theorem Eng.Passes.dbg {e e' : Eng} (h : e.Passes e') : e'.dbg = { e.dbg with cnt := e'.dbg.cnt } := by
  rw [h.rest]

/-- A bit of a register word as a bit of its number. -/
theorem bitOf_toNat {n : Nat} (w : BitVec n) (i : Nat) : bitOf w.toNat i = w.getLsbD i := by
  rw [bitOf, ← BitVec.testBit_toNat, Nat.testBit_eq_decide_div_mod_eq]

/-- A table cut down to the keys of a kind. -/
theorem tget_filter {α : Type} (t : Tab α) (q : Nat → Bool) (k : Nat) :
    tget (t.filter (fun p => q p.1)) k = if q k then tget t k else none := by
  induction t with
  | nil => simp
  | cons p r ih =>
    rw [List.filter_cons]
    by_cases hp : q p.1 = true <;> by_cases hk : k = p.1 <;> simp_all [tget]

theorem exec_imageLoad (data : Word) {s : State} (up : s.boot.absent = false) (go : data.getLsbD 31 = true)
    (idle : s.boot.imgBusy = false) :
    exec (.imageLoad data) s = .next (if s.boot.stage = 1 then { s with boot := { s.boot with imgBusy := true } }
      else s.withEng (s.eng.bringupOrder 0x28 s.boot.stage)) := by
  change execImageLoad data s = _
  rw [execImageLoad, bootUp_up up, bitOf_toNat, go, idle]
  by_cases first : s.boot.stage = 1 <;> simp [first, State.withEng]

/-- Areas are told as cleared in their order. -/
theorem Eng.foldl_areaCleared (l : List (Nat × Nat)) (e : Eng) :
    l.foldl (fun e x => e.emit (.areaCleared x.1 x.2)) e = { e with out := l.reverse.map (fun x => .areaCleared x.1 x.2) ++ e.out } := by
  induction l generalizing e with
  | nil => rfl
  | cons x r ih => rw [List.foldl_cons, ih, Eng.emit]; simp

theorem exec_glbInit_order (data : Word) {s : State} (up : s.boot.absent = false) (go : data.getLsbD 31 = true)
    (stage : s.boot.stage ≠ 2) : exec (.glbInit data) s = .next (s.withEng (s.eng.bringupOrder 0x2C s.boot.stage)) := by
  change execGlbInit data s = _
  rw [execGlbInit, bootUp_up up, bitOf_toNat, go]
  simp [stage, State.withEng]

theorem exec_glbInit (data : Word) {s : State} (up : s.boot.absent = false) (go : data.getLsbD 31 = true)
    (idle : s.boot.initBusy = false) (stage : s.boot.stage = 2) :
    exec (.glbInit data) s = .next { s with
      boot := { s.boot with
        initBusy := true, initDue := s.eng.now + cdiv (sumBy (fun (x : Nat × Nat) => x.2) s.eng.initAreas) 16000 }
      eng := { s.eng with
        out := s.eng.initAreas.reverse.map (fun x => .areaCleared x.1 x.2) ++ s.eng.out
        led := { s.eng.led with pageCount := (s.eng.reg 0x2018 0).toNat % 2 ^ 25 }
        dbg := { s.eng.dbg with clearing := s.eng.initAreas } } } := by
  change execGlbInit data s = _
  rw [execGlbInit, bootUp_up up, bitOf_toNat, go]
  have pages : s.eng.fv F.LED_HIST_PAGES_PAGES = (s.eng.reg 0x2018 0).toNat % 2 ^ 25 := bitsOf_low _ 24
  simp only [Eng.foldl_areaCleared, stage, idle, ← pages]
  rfl

/-- The end of clearing. -/
theorem exec_initDone {s : State} (up : s.boot.absent = false) (busy : s.boot.initBusy = true) (settled : s.Settled) :
    exec .initDone s = .next { s with
      boot := { s.boot with initBusy := false, initDone := true, stage := 3 }
      eng := (s.eng.advance s.boot.initDue).areasDone } := by
  change timed s atInitDone = _
  rw [timed_settled s _ settled, atInitDone, bootUp_up up, busy]
  rfl

theorem exec_glbLock (data : Word) {s : State} (up : s.boot.absent = false) (lock : data.getLsbD 0 = true) :
    exec (.glbLock data) s = .next (if s.boot.stage = 3 then { s with boot := { s.boot with locked := true, stage := 4 } }
      else s.withEng (s.eng.bringupOrder 8 s.boot.stage)) := by
  change execGlbLock data s = _
  rw [execGlbLock, bootUp_up up, bitOf_toNat, lock]
  by_cases third : s.boot.stage = 3 <;> simp [third, State.withEng]

/-- The end of an image load that is refused. -/
theorem exec_imageLoadEnd_refused {image : List (BitVec 8)} {readOk cxl : Bool} {straps : Nat} {s : State}
    (up : s.boot.absent = false) (busy : s.boot.imgBusy = true) (bad : imgCheck (natBytes image) readOk straps ≠ 1) :
    exec (.imageLoadEnd image readOk straps cxl) s = .next { s with
      boot := { s.boot with imgBusy := false, imgResult := imgCheck (natBytes image) readOk straps } } := by
  change execImageLoadEnd image readOk straps cxl s = _
  rw [execImageLoadEnd, bootUp_up up, busy]
  simp [bad]

/-- The end of an image load that is accepted (R571). -/
theorem exec_imageLoadEnd_accepted {image : List (BitVec 8)} {readOk cxl : Bool} {straps : Nat} {s : State}
    (up : s.boot.absent = false) (busy : s.boot.imgBusy = true) (good : imgCheck (natBytes image) readOk straps = 1) :
    exec (.imageLoadEnd image readOk straps cxl) s = .next { s with
      boot := { s.boot with
        imgBusy := false, imgResult := 1, stage := 2, offline := false, cxlCache := cxl
        serial := imgField (natBytes image) 0x18 8, chipPos := imgField (natBytes image) 0x10 4 % 2 ^ 22, cal := imgCal (natBytes image) }
      eng := (s.eng.poke F.HAT_HELLO_CAPS_CXL_CACHE (b2n cxl)).imgTake (natBytes image) } := by
  change execImageLoadEnd image readOk straps cxl s = _
  rw [execImageLoadEnd, bootUp_up up, busy]
  simp [good]

/-- The next copy falls at the first multiple of its period from where it may. -/
theorem roundUp_unique {m t : Nat} (multiple : t % 10000 = 0) (reached : m ≤ t) (first : t < m + 10000) : roundUp m 10000 = t := by
  rw [roundUp, if_neg (by decide)]
  omega

/-- A copy of the Tally, at the next multiple of its period. -/
theorem exec_tallyCopy {s : State} {t : Nat} (up : s.boot.absent = false) (locked : s.eng.tal.state = 2) (settled : s.Settled)
    (copied : roundUp (max s.eng.now (if s.boot.nextCopy ≤ s.eng.now + 1 then s.boot.nextCopy else 0)) 10000 = t)
    (reached : s.eng.now ≤ t) :
    exec .tallyCopy s = .next { s with
      boot := { s.boot with cmc := t, cmcAt := t - s.eng.tal.jumped, nextCopy := t + 1 }
      eng := (s.eng.advance t).emit (.cmcTally t) } := by
  change timed s atTallyCopy = _
  have now : (s.eng.advance t).now = t := (s.eng.advance_now t).trans (Nat.max_eq_right reached)
  rw [timed_settled s _ settled, atTallyCopy, if_neg (by simp [up]), if_neg (not_not_intro locked), copied]
  simp only [Eng.ran, now, Eng.advance_tal]

/-- Settles O31. -/
theorem bringUpSequence : Obligations.BringUpSequence := by
  unfold Obligations.BringUpSequence
  intro data image readOk cxl straps s up
  refine ⟨?load, ?loadEnd, ?init, ?initEnd, ?lock, ?copy⟩
  case load => exact exec_imageLoad data up
  case loadEnd =>
    intro busy
    by_cases good : imgCheck (natBytes image) readOk straps = 1
    · refine ⟨_, exec_imageLoadEnd_accepted up busy good, rfl, good.symm, ?_, ?_, up, rfl, rfl, rfl, fun bad => absurd good bad⟩ <;>
        simp [good]
    · refine ⟨_, exec_imageLoadEnd_refused up busy good, rfl, rfl, ?_, ?_, up, rfl, rfl, rfl, fun _ => rfl⟩ <;> simp [good]
  case init =>
    intro go idle
    split
    case isTrue stage => exact ⟨_, exec_glbInit data up go idle stage, rfl, Nat.le_add_right _ _, rfl⟩
    case isFalse stage => exact exec_glbInit_order data up go stage
  case initEnd =>
    intro busy settled
    have dbg := (s.eng.advance_passes s.boot.initDue).dbg
    have clearing : (s.eng.advance s.boot.initDue).dbg.clearing = s.eng.dbg.clearing := by rw [dbg]
    have mem : (s.eng.advance s.boot.initDue).dbg.mem = s.eng.dbg.mem := by rw [dbg]
    clear dbg
    refine ⟨_, exec_initDone up busy settled, rfl, rfl, fun k => ?_, ?_⟩
    · simp only [Eng.areasDone, clearing, mem]
      rw [tget_filter _ (fun k => !(decide (k / 2 ^ 40 = 10) && inAreas s.eng.dbg.clearing (8 * (k % 2 ^ 40))))]
      split <;> split <;> simp_all
    · rw [← clearing, ← s.eng.advance_siv s.boot.initDue]
      rfl
  case lock => exact exec_glbLock data up
  case copy =>
    intro settled locked t next multiple reached due first
    have upTo : max s.eng.now next ≤ t := Nat.max_le.mpr ⟨reached, due⟩
    have copied : roundUp (max s.eng.now next) 10000 = t := roundUp_unique multiple upTo (by omega)
    exact exec_tallyCopy up locked settled copied reached

/-! ### Power domains -/

/-- A state whose tick's end changes nothing and leaves nothing, with no breakpoint armed, is settled. -/
theorem State.Settled.of_tickLeft {s : State} (left : s.eng.tickLeft = s.eng) (owes : s.eng.owesNext = false)
    (unarmed : s.eng.dbg.brks = []) : s.Settled := by
  refine ⟨left, fun t => ?_⟩
  simp [Eng.nextStop, owes, Eng.brkNext, unarmed, leastBy]

/-- Rafter enabled with a map loaded, its domain WAKING, every lane in OFF. -/
def Eng.rafterWakes : Eng := ({ pd := [(95, { st := 1 })], raf := { mapLoaded := true } } : Eng).poke F.RAF_CTL_EN 1

/-- Refutes O32: where Rafter's domain comes ON with EN set and a map loaded, its lanes start to train, so that the domains of their pairs
come ON too; the statement has every other domain stay, with no exception for Rafter's lanes. -/
theorem not_domainsChangeState : ¬ Obligations.DomainsChangeState := by
  unfold Obligations.DomainsChangeState
  intro holds
  let s : State := { boot := {}, eng := Eng.rafterWakes, pending := [] }
  have settled : s.Settled := State.Settled.of_tickLeft (by decide +kernel) (by decide +kernel) rfl
  obtain ⟨wake, -⟩ := holds 95 0 s rfl settled
  obtain ⟨t, run, -, stays, -⟩ := wake (by decide +kernel)
  change timed s (atDomainWakeDone 95) = _ at run
  rw [timed_settled s _ settled, atDomainWakeDone, live_up rfl] at run
  obtain rfl := Host.Outcome.next.inj run
  have stayed := congrArg Dom.st (stays 89 (by decide))
  exact absurd stayed (by decide +kernel)

end Sys2Proof.Machine
end

section
/-!
Counters (O33): what one addition leaves, the additions of one amount to the counters that select it, and the writes that set and clear them.
-/
namespace Sys2Proof.Machine

/-- The selection of a counter depends on its own register alone. -/
theorem Eng.cntSelects_congr {e e' : Eng} {n : Nat} (same : e'.reg (0x10100 + 4 * n) 0 = e.reg (0x10100 + 4 * n) 0)
    (src : Nat) (pid inst : Option Nat) : e'.cntSelects n src pid inst = e.cntSelects n src pid inst := by
  simp only [Eng.cntSelects, same]

/-- An addition to one counter leaves the others and their registers. -/
theorem Eng.cntAdd_ne (e : Eng) {m n : Nat} (amt : Nat) (ne : n ≠ m) :
    tgetD (e.cntAdd m amt).dbg.cnt n 0 = tgetD e.dbg.cnt n 0 ∧
      (e.cntAdd m amt).reg (0x10100 + 4 * n) 0 = e.reg (0x10100 + 4 * n) 0 := by
  unfold Eng.cntAdd
  dsimp only
  split
  · refine ⟨tgetD_tsetD_ne _ _ _ ne, ?_⟩
    exact Eng.reg_putReg_ne _ _ _ _ (by decide) (by decide) (.inl (fun same => ne (by dsimp only at same; omega)))
  · exact ⟨tgetD_tsetD_ne _ _ _ ne, rfl⟩

/-- Setting bit 31 of a word. -/
theorem setBits_top (w : Word) : setBits w 31 31 1 = w ||| 0x80000000 := by
  apply BitVec.eq_of_getLsbD_eq
  intro i hi
  rw [setBits_lsb w 31 31 1 i hi, BitVec.getLsbD_or]
  interval_cases i <;> simp

/-- An addition to a counter: modulo 2^64, with OVF set where it wraps. -/
theorem Eng.cntAdd_same (e : Eng) (n amt : Nat) :
    tgetD (e.cntAdd n amt).dbg.cnt n 0 = (tgetD e.dbg.cnt n 0 + amt) % 2 ^ 64 ∧
      (e.cntAdd n amt).reg (0x10100 + 4 * n) 0 =
        (if 2 ^ 64 ≤ tgetD e.dbg.cnt n 0 + amt then e.reg (0x10100 + 4 * n) 0 ||| 0x80000000 else e.reg (0x10100 + 4 * n) 0) := by
  unfold Eng.cntAdd
  dsimp only
  split
  · refine ⟨tgetD_tsetD_same _ _ _ _, ?_⟩
    rw [Eng.poke, Eng.reg_putReg_same, setBits_top]
    rfl
  · exact ⟨tgetD_tsetD_same _ _ _ _, rfl⟩

/-- One amount of a source offered to one counter. -/
def Eng.offer (src amt : Nat) (pid inst : Option Nat) (e : Eng) (n : Nat) : Eng :=
  if e.cntSelects n src pid inst then e.cntAdd n amt else e

/-- Counter n and its register. -/
def Eng.counter (e : Eng) (n : Nat) : Nat × Word := (tgetD e.dbg.cnt n 0, e.reg (0x10100 + 4 * n) 0)

/-- A counter and its register after an addition. -/
def counterPlus (c : Nat × Word) (amt : Nat) : Nat × Word :=
  ((c.1 + amt) % 2 ^ 64, if 2 ^ 64 ≤ c.1 + amt then c.2 ||| 0x80000000 else c.2)

section
variable (src amt : Nat) (pid inst : Option Nat)

theorem Eng.counter_offer_ne (e : Eng) {m n : Nat} (ne : n ≠ m) : (e.offer src amt pid inst m).counter n = e.counter n := by
  unfold Eng.offer
  split
  · obtain ⟨cnt, reg⟩ := e.cntAdd_ne amt ne
    exact Prod.ext cnt reg
  · rfl

theorem Eng.counter_offer_same (e : Eng) (n : Nat) :
    (e.offer src amt pid inst n).counter n = if e.cntSelects n src pid inst then counterPlus (e.counter n) amt else e.counter n := by
  unfold Eng.offer
  split
  · obtain ⟨cnt, reg⟩ := e.cntAdd_same n amt
    exact Prod.ext cnt reg
  · rfl

/-- A counter that is not among those offered stays. -/
theorem Eng.counter_offers_notMem (e : Eng) {n : Nat} {l : List Nat} (out : n ∉ l) :
    (l.foldl (Eng.offer src amt pid inst) e).counter n = e.counter n := by
  induction l generalizing e with
  | nil => rfl
  | cons m l ih =>
    rw [List.mem_cons, not_or] at out
    rw [List.foldl_cons, ih _ out.2, e.counter_offer_ne src amt pid inst out.1]

/-- A counter is offered the amount once. -/
theorem Eng.counter_offers (e : Eng) {n : Nat} {l : List Nat} (here : n ∈ l) (once : l.Nodup) :
    (l.foldl (Eng.offer src amt pid inst) e).counter n =
      if e.cntSelects n src pid inst then counterPlus (e.counter n) amt else e.counter n := by
  induction l generalizing e with
  | nil => exact absurd here (List.not_mem_nil)
  | cons m l ih =>
    rw [List.nodup_cons] at once
    obtain ⟨out, rest⟩ := once
    rw [List.foldl_cons]
    by_cases same : n = m
    · subst same
      rw [Eng.counter_offers_notMem src amt pid inst _ out, e.counter_offer_same]
    · have later := (List.mem_cons.mp here).resolve_left same
      have kept := e.counter_offer_ne src amt pid inst same
      rw [ih _ later rest, kept, Eng.cntSelects_congr (congrArg Prod.snd kept)]

/-- What one amount does to a counter while counting goes on. -/
theorem Eng.counter_count (e : Eng) {n : Nat} (low : n < 64) (counting : e.cntStopped e.now = false)
    (uncleared : e.dbg.clearAt ≠ some e.now) (some_ : 0 < amt) :
    (e.count src amt pid inst).counter n = if e.cntSelects n src pid inst then counterPlus (e.counter n) amt else e.counter n := by
  have offers : e.count src amt pid inst = cntRange.foldl (Eng.offer src amt pid inst) e := by
    rw [Eng.count, if_neg uncleared, Eng.countAmt, counting, if_neg (by simp; omega)]
    rfl
  rw [offers]
  exact e.counter_offers src amt pid inst (List.mem_range.mpr low) List.nodup_range

/-- While counting is stopped, and in the tick of a CLEAR, nothing is counted. -/
theorem Eng.count_stopped (e : Eng) (stopped : e.cntStopped e.now = true ∨ e.dbg.clearAt = some e.now) : e.count src amt pid inst = e := by
  rcases stopped with stopped | cleared
  · simp [Eng.count, Eng.countAmt, stopped]
  · exact if_pos cleared

end

theorem exec_cntSelWrite (n : Nat) (data : Word) {s : State} (low : n < 64) (up : s.boot.absent = false) :
    exec (.cntSelWrite n data) s = .next (s.withEng { s.eng with
      regs := (s.eng.putReg (0x10100 + 4 * n) 0
        ((data &&& 0x0FFFFFFF) ||| (s.eng.reg (0x10100 + 4 * n) 0 &&& ~~~data &&& 0x80000000))).regs
      dbg := { s.eng.dbg with cnt := tdel s.eng.dbg.cnt n } }) := by
  change execCntSelWrite n data s = _
  rw [execCntSelWrite, live_up up, if_neg (Nat.not_le.mpr low)]
  rfl

theorem exec_clear (data : Word) {s : State} (up : s.boot.absent = false) (clear : data.getLsbD 31 = true) :
    exec (.clear data) s = .next (s.withEng { s.eng.cntCtl s.boot.stage data with
      dbg := { (s.eng.cntCtl s.boot.stage data).dbg with cnt := [], clearAt := some s.eng.now } }) := by
  have now : (s.eng.cntCtl s.boot.stage data).now = s.eng.now := by
    unfold Eng.cntCtl
    split <;> simp [Eng.bringupOrder]
  change execClear data s = _
  rw [execClear, live_up up, bitOf_toNat, clear]
  simp only [now]
  rfl

theorem exec_cntFreezeAt {s : State} (up : s.boot.absent = false) (armed : (s.eng.reg 0x10000 0).getLsbD 2 = true) (settled : s.Settled) :
    exec .cntFreezeAt s = .next (s.withEng (s.eng.advance (s.eng.pairv 0x10008))) := by
  change timed s atCntFreezeAt = _
  have arm : s.eng.fb F.CNT_CTL_ARM = true := (s.eng.fb_bit 0x10000 2 0).trans armed
  rw [timed_settled s _ settled, atCntFreezeAt, live_up up, if_pos arm]

/-- Settles O33. -/
theorem countersWrapAndClear : Obligations.CountersWrapAndClear := by
  unfold Obligations.CountersWrapAndClear
  intro src amt n pid inst data s low up
  refine ⟨fun counting uncleared some_ => ?count, s.eng.count_stopped src amt pid inst, ?select, fun clear => ?clear,
    fun armed settled => exec_cntFreezeAt up armed settled⟩
  case count =>
    have counted := s.eng.counter_count src amt pid inst low counting uncleared some_
    split
    case isTrue selects =>
      rw [if_pos selects] at counted
      exact ⟨congrArg Prod.fst counted, congrArg Prod.snd counted⟩
    case isFalse selects =>
      rw [if_neg selects] at counted
      exact ⟨congrArg Prod.fst counted, congrArg Prod.snd counted⟩
  case select =>
    refine ⟨_, exec_cntSelWrite n data low up, ?_, fun k ne => tget_tdel_ne _ ne, Eng.reg_putReg_same .., rfl,
      fun o i hi other => Eng.reg_putReg_ne _ _ _ _ (by decide) hi other⟩
    exact congrArg (fun v => Option.getD v 0) (tget_tdel_same s.eng.dbg.cnt n)
  case clear =>
    have en : s.eng.fb F.CNT_CTL_EN = (s.eng.reg 0x10000 0).getLsbD 0 := s.eng.fb_bit 0x10000 0 0
    rw [exec_clear data up clear, Eng.cntCtl, en]
    rfl

end Sys2Proof.Machine
end

section
/-!
The debug port (O35 to O37): commands in the tick of another, OPEN and CLOSE, halts, and breakpoints.
-/
namespace Sys2Proof.Machine

/-! ### Commands of the port -/

/-- Of the counters and the debug port what only reports changes the counts. -/
theorem Eng.Reports.dbg {e e' : Eng} (h : e.Reports e') : e'.dbg = { e.dbg with cnt := e'.dbg.cnt } := by rw [h.rest]

/-- The state in which a command's result is BUSY: the capture register holds it, and nothing else has changed (R606, R607). -/
def State.portBusy (s : State) (op addr : Nat) : State := s.withEng (s.eng.captured op addr 1 0)

section
variable {s : State} (up : s.boot.absent = false) (opened : s.eng.dbg.isOpen = true)
include up opened

/-- A command in the tick of another is discarded. -/
theorem portOpen_busy (busy : s.eng.dbg.cmdAt = some s.eng.now) (op addr : Nat) (f : Eng → Eng) :
    portOpen op addr s f = .next (s.portBusy op addr) := by
  rw [portOpen, live_up up]
  simp [opened, busy, State.portBusy]

/-- The first command of its tick is taken. -/
theorem portOpen_first (free : s.eng.dbg.cmdAt ≠ some s.eng.now) (op addr : Nat) (f : Eng → Eng) :
    portOpen op addr s f = .next (s.withEng (f (s.eng.captured op addr 0 0))) := by
  rw [portOpen, live_up up]
  simp [opened, free]

theorem execDbgWrite_busy (busy : s.eng.dbg.cmdAt = some s.eng.now) (space addr : Nat) (data : DWord) :
    execDbgWrite space addr data s = .next (s.portBusy 9 addr) := by
  have discarded := portOpen_busy up opened busy 9 addr
  unfold execDbgWrite
  split
  case h_1 => exact discarded _
  case h_2 n _ =>
    cases spaceHolds space addr n
    case false => exact discarded (fun e => e.captured 9 addr 4 0)
    case true => simp [busy, discarded]

theorem execDbgReset_busy (busy : s.eng.dbg.cmdAt = some s.eng.now) (data : DWord) : execDbgReset data s = .next (s.portBusy 15 0) := by
  simp [execDbgReset, busy, portOpen_busy up opened]

end

/-! ### OPEN -/

/-- A wake leaves a domain that is not retired ON or WAKING; then the wait is what is left of the wake. -/
theorem Eng.needOn_waking (e : Eng) {d : Nat} {x : Dom} (woken : e.wake d = e.setDom d x) (waking : x.st = 1) :
    ((e.needOn d).dom d).st = 2 ∧ (e.needOn d).now = max e.now x.due := by
  unfold Eng.needOn
  rw [woken]
  dsimp only
  rw [Eng.dom_setDom, if_pos rfl, if_pos waking, Eng.dom_setDom, if_pos rfl]
  exact ⟨rfl, Eng.advance_now _ _⟩

theorem Eng.needOn_woken (e : Eng) {d : Nat} {x : Dom} (woken : e.wake d = e.setDom d x) (on : x.st = 2) :
    ((e.needOn d).dom d).st = 2 ∧ (e.needOn d).now = e.now := by
  unfold Eng.needOn
  rw [woken]
  dsimp only
  rw [Eng.dom_setDom, if_pos rfl, if_neg (by omega), Eng.dom_setDom, if_pos rfl]
  exact ⟨on, rfl⟩

/-- The wait for the debug port's domain. -/
theorem Eng.needOn_debug (e : Eng) (kept : (e.dom 98).retired = false) (listed : (e.dom 98).st ≤ 3) :
    ((e.needOn 98).dom 98).st = 2 ∧ (e.needOn 98).now =
      (if (e.dom 98).st = 2 ∨ ((e.dom 98).st ≠ 1 ∧ (e.dom 98).gated = some e.now) then e.now
       else if (e.dom 98).st = 1 then max e.now (e.dom 98).due else e.now + 1000) := by
  have latency : ∀ st, wakeLatency 98 st = 1000 := fun st => rfl
  rcases (by omega : (e.dom 98).st = 1 ∨ (e.dom 98).st = 2 ∨ ((e.dom 98).st = 0 ∨ (e.dom 98).st = 3)) with waking | on | off
  · rw [if_neg (by omega), if_pos waking]
    exact e.needOn_waking (x := { e.dom 98 with used := e.now, drop := false }) (by simp [Eng.wake, kept, waking]) waking
  · rw [if_pos (.inl on)]
    exact e.needOn_woken (x := { e.dom 98 with used := e.now, drop := false }) (by simp [Eng.wake, kept, on]) on
  · by_cases gated : (e.dom 98).gated = some e.now
    · rw [if_pos (.inr ⟨by omega, gated⟩)]
      exact e.needOn_woken (x := { e.dom 98 with st := 2, used := e.now }) (by simp [Eng.wake, kept, off, gated]) rfl
    · rw [if_neg (by simp [gated]; omega), if_neg (by omega)]
      have := e.needOn_waking (d := 98) (x := { e.dom 98 with st := 1, due := e.now + 1000, used := e.now, drop := false })
        (by simp [Eng.wake, kept, off, gated, latency]) rfl
      exact ⟨this.1, this.2.trans (Nat.max_eq_right (Nat.le_add_right _ _))⟩

/-- The domains are what the table of domains says. -/
theorem Eng.dom_congr {e e' : Eng} (same : e'.pd = e.pd) (d : Nat) : e'.dom d = e.dom d := by rw [Eng.dom, Eng.dom, same]

section
variable {us offs : List Nat}

/-- A change of the counters and the debug port alone. -/
theorem Eng.Only.setDbg (e : Eng) (d : Dbg) (port : 17 ∈ us) : e.Only us offs { e with dbg := d } := by
  refine .of_parts rfl rfl (fun u out => ?_)
  have ne : u ≠ 17 := fun h => out (h ▸ port)
  unfold Eng.partSame
  split <;> simp at ne ⊢

/-- A change of the power domains alone. -/
theorem Eng.Only.setPd (e : Eng) (d : Tab Dom) (domains : 15 ∈ us) : e.Only us offs { e with pd := d } := by
  refine .of_parts rfl rfl (fun u out => ?_)
  have ne : u ≠ 15 := fun h => out (h ▸ domains)
  unfold Eng.partSame
  split <;> simp at ne ⊢

end

/-- Of the counters and the debug port the wait for a domain changes the counts. -/
theorem Eng.needOn_dbg (e : Eng) (d : Nat) : (e.needOn d).dbg = { e.dbg with cnt := (e.needOn d).dbg.cnt } := by
  rw [e.needOn_rest d]

/-- The port is open; it was not open before, so that it is reported. -/
def Eng.portOpened (e : Eng) : Eng := ({ e with dbg := { e.dbg with isOpen := true } } : Eng).raise { code := 0x00C0, unit := 15 }

/-- OPEN, with PORT_EN set. -/
theorem exec_dbgOpen {s : State} (up : s.boot.absent = false) (free : s.eng.dbg.cmdAt ≠ some s.eng.now) (settled : s.Settled)
    (en : (s.eng.reg 0x11000 0).getLsbD 0 = true) :
    exec .dbgOpen s = .next (s.withEng (if s.eng.dbg.isOpen then (s.eng.captured 1 0 0 0).needOn 98
      else ((s.eng.captured 1 0 0 0).needOn 98).portOpened)) := by
  have en' : s.eng.fb F.DBG_CTL_PORT_EN = true := (s.eng.fb_bit 0x11000 0 0).trans en
  have was : ((s.eng.captured 1 0 0 0).needOn 98).dbg.isOpen = s.eng.dbg.isOpen := by rw [Eng.needOn_dbg]; rfl
  change timed s atDbgOpen = _
  rw [timed_settled s _ settled, atDbgOpen, live_up up, en', if_neg (by simp), if_neg free]
  dsimp only
  rw [was]
  rfl

theorem exec_dbgOpen_busy {s : State} (up : s.boot.absent = false) (busy : s.eng.dbg.cmdAt = some s.eng.now)
    (en : (s.eng.reg 0x11000 0).getLsbD 0 = true) : exec .dbgOpen s = .next (s.portBusy 1 0) := by
  have en' : s.eng.fb F.DBG_CTL_PORT_EN = true := (s.eng.fb_bit 0x11000 0 0).trans en
  refine timed_sameTick (?_ : atDbgOpen s = _) rfl
  rw [atDbgOpen, live_up up, en', if_neg (by simp), if_pos busy]
  rfl

/-- What OPEN leaves beside the state of the port: the port is open, and only what reports has changed. -/
structure Eng.Opened (e e' : Eng) : Prop where
  only : e.Only [0, 1, 12, 15, 17] [] e'
  dbg : e'.dbg = { e.dbg with isOpen := true, cnt := e'.dbg.cnt }
  pd : e'.pd = e.pd
  now : e'.now = e.now

theorem Eng.portOpened_opened (e : Eng) : e.Opened e.portOpened := by
  have raised := Eng.raise_reports ({ e with dbg := { e.dbg with isOpen := true } } : Eng) { code := 0x00C0, unit := 15 }
  exact ⟨(Eng.Only.setDbg e _ (by decide)).trans (.of_reports raised (by decide) (by decide)), raised.dbg, raised.pd_eq, raised.now_eq⟩

/-- A port that was open stays so. -/
theorem Eng.opened_of_open {e : Eng} (open_ : e.dbg.isOpen = true) : e.Opened e := by
  refine ⟨.refl e, ?_, rfl, rfl⟩
  rw [← open_]

/-! ### CLOSE -/

/-- RESUME of the engine, as the statements write it. -/
def Eng.engineOn (e : Eng) : Eng :=
  if e.dbg.engineHalted = false then e
  else ({ e with dbg := { e.dbg with engineHalted := false, resumed := some e.now, haltWas := some (e.now, e.stopped) } } : Eng).raise {
    code := 0x00C2, unit := 15 }

/-- RESUME of the Steward. -/
def Eng.stwOn (e : Eng) : Eng :=
  if e.dbg.stwHalted = false then e
  else ({ e with dbg := { e.dbg with stwHalted := false, stepOne := false, stwWas := some (e.now, e.stwStopped) } } : Eng).raise {
    code := 0x00C2, unit := 15, arg := 1 }

theorem Eng.resumeEngine_eq (e : Eng) : e.resumeEngine = e.engineOn := by
  cases halted : e.dbg.engineHalted <;> simp [Eng.resumeEngine, Eng.engineOn, halted, Eng.noteHalt, Eng.raiseE]

theorem Eng.resumeSteward_eq (e : Eng) : e.resumeSteward = e.stwOn := by
  cases halted : e.dbg.stwHalted <;> simp [Eng.resumeSteward, Eng.stwOn, halted, Eng.noteStw, Eng.raiseE]

/-- The resumption of both, from a port with breakpoints: what CLOSE leaves before the port is closed and its domain let go. -/
structure Eng.Resumed (e e' : Eng) : Prop where
  only : e.Only [1, 15, 17] [] e'
  pd : e'.pd = e.pd
  dbg : e'.dbg = { e.dbg with
    engineHalted := e'.dbg.engineHalted, resumed := e'.dbg.resumed, haltWas := e'.dbg.haltWas, stwHalted := e'.dbg.stwHalted
    stepOne := e'.dbg.stepOne, stwWas := e'.dbg.stwWas, cnt := e'.dbg.cnt }

theorem Eng.Resumed.trans {a b c : Eng} (h : a.Resumed b) (k : b.Resumed c) : a.Resumed c := by
  refine ⟨h.only.trans k.only, k.pd.trans h.pd, ?_⟩
  rw [k.dbg, h.dbg]

theorem Eng.engineOn_resumed (e : Eng) : e.Resumed e.engineOn ∧ e.engineOn.dbg.engineHalted = false := by
  unfold Eng.engineOn
  split
  case isTrue running => exact ⟨⟨.refl e, rfl, rfl⟩, running⟩
  case isFalse halted =>
    have raised := Eng.raise_reports ({ e with
      dbg := { e.dbg with engineHalted := false, resumed := some e.now, haltWas := some (e.now, e.stopped) } } : Eng) { code := 0x00C2, unit := 15 }
    have dbg := raised.dbg
    refine ⟨⟨(Eng.Only.setDbg e _ (by decide)).trans (.of_reports raised (by decide) (by decide)), raised.pd_eq, ?_⟩, ?_⟩ <;> rw [dbg]

theorem Eng.stwOn_resumed (e : Eng) :
    e.Resumed e.stwOn ∧ e.stwOn.dbg.stwHalted = false ∧ e.stwOn.dbg.engineHalted = e.dbg.engineHalted := by
  unfold Eng.stwOn
  split
  case isTrue running => exact ⟨⟨.refl e, rfl, rfl⟩, running, rfl⟩
  case isFalse halted =>
    have raised := Eng.raise_reports ({ e with
      dbg := { e.dbg with stwHalted := false, stepOne := false, stwWas := some (e.now, e.stwStopped) } } : Eng) { code := 0x00C2, unit := 15, arg := 1 }
    have dbg := raised.dbg
    refine ⟨⟨(Eng.Only.setDbg e _ (by decide)).trans (.of_reports raised (by decide) (by decide)), raised.pd_eq, ?_⟩, ?_, ?_⟩ <;> rw [dbg]

/-- CLOSE: the engine behind the resumption of both. -/
def Eng.portResumed (e : Eng) : Eng := (({ e with dbg := { e.dbg with brks := [] } } : Eng).engineOn).stwOn

/-- Behind the resumption of both nothing is halted, and no breakpoint is left. -/
theorem Eng.portResumed_resumed (e : Eng) :
    ({ e with dbg := { e.dbg with brks := [] } } : Eng).Resumed e.portResumed ∧
      e.portResumed.dbg.engineHalted = false ∧ e.portResumed.dbg.stwHalted = false := by
  obtain ⟨first, engine⟩ := Eng.engineOn_resumed { e with dbg := { e.dbg with brks := [] } }
  obtain ⟨second, stw, kept⟩ := Eng.stwOn_resumed (({ e with dbg := { e.dbg with brks := [] } } : Eng).engineOn)
  exact ⟨first.trans second, kept.trans engine, stw⟩

theorem exec_dbgClose {s : State} (up : s.boot.absent = false) (opened : s.eng.dbg.isOpen = true)
    (free : s.eng.dbg.cmdAt ≠ some s.eng.now) :
    exec .dbgClose s = .next (s.withEng
      (({ (s.eng.captured 2 0 0 0).portResumed with dbg := { (s.eng.captured 2 0 0 0).portResumed.dbg with isOpen := false } } : Eng).gate 98)) := by
  change execDbgClose s = _
  rw [execDbgClose, portOpen_first up opened free]
  simp only [Eng.resumeEngine_eq, Eng.resumeSteward_eq]
  rfl

/-- A gated domain is OFF, or goes OFF once it is ON. -/
theorem Eng.gate_debug (e : Eng) :
    e.gate 98 = { e with pd := (e.gate 98).pd } ∧
      (e.gate 98).dom 98 = (if (e.dom 98).st = 1 then { e.dom 98 with drop := true } else { e.dom 98 with st := 0, gated := none }) ∧
      ∀ d, d ≠ 98 → (e.gate 98).dom d = e.dom d := by
  unfold Eng.gate
  dsimp only
  split
  case isTrue waking => exact ⟨rfl, by rw [Eng.dom_setDom, if_pos rfl], fun d ne => by rw [Eng.dom_setDom, if_neg ne]⟩
  case isFalse steady => exact ⟨rfl, by rw [Eng.dom_setDom, if_pos rfl]; rfl, fun d ne => by rw [Eng.dom_setDom, if_neg ne]⟩

/-- Settles O35. -/
theorem debugPortOpensAndCloses : Obligations.DebugPortOpensAndCloses := by
  unfold Obligations.DebugPortOpensAndCloses
  intro s up e p now open_ engineOn stwOn busy
  refine ⟨fun opened busy space addr data => ?busy, exec_dbgOpen_busy up, fun free settled => ?open_, fun free => ?close⟩
  case busy =>
    have discarded := portOpen_busy up opened busy
    dsimp only [exec, execDbgClose, execHaltEngine, execHaltSteward, execResumeEngine, execResumeSteward, execDbgStep, execBrkCfg, execBrkVal,
      execDbgRead, execDbgWriteRaw]
    exact ⟨discarded 2 0 _, discarded 3 0 _, discarded 3 1 _, discarded 4 0 _, discarded 4 1 _, discarded 5 0 _, discarded 6 addr _,
      discarded 7 addr _, discarded 8 addr _, execDbgWrite_busy up opened busy space addr data, discarded 10 addr _,
      execDbgReset_busy up opened busy data⟩
  case open_ =>
    by_cases en : (s.eng.reg 0x11000 0).getLsbD 0 = true
    case neg =>
      refine ⟨_, execDbgOpen_locked up ((s.eng.fb_bit 0x11000 0 0).trans (eq_false_of_ne_true en)), ⟨rfl, rfl, ?_⟩, rfl, rfl, rfl, ?_⟩
      · exact Eng.Only.setDbg s.eng _ (by decide)
      · rw [if_neg en]
        exact ⟨rfl, rfl, rfl⟩
    case pos =>
      let e1 := (s.eng.captured 1 0 0 0).needOn 98
      have was : e1.dbg.isOpen = s.eng.dbg.isOpen := by rw [Eng.needOn_dbg]; rfl
      have opens : e1.Opened (if s.eng.dbg.isOpen then e1 else e1.portOpened) := by
        split
        case isTrue open_ => exact Eng.opened_of_open (was.trans open_)
        case isFalse shut => exact e1.portOpened_opened
      have run := exec_dbgOpen up free settled en
      change exec .dbgOpen s = .next (s.withEng (if s.eng.dbg.isOpen then e1 else e1.portOpened)) at run
      have dbg := opens.dbg
      rw [Eng.needOn_dbg] at dbg
      have only := ((Eng.Only.setDbg s.eng _ (by decide)).trans (Eng.Only.needOn (s.eng.captured 1 0 0 0) 98 (by decide) (by decide)
        (by decide) (by decide))).trans opens.only
      refine ⟨_, run, ⟨rfl, rfl, only⟩, congrArg Dbg.capOp dbg, congrArg Dbg.capAddr dbg, congrArg Dbg.capData dbg, ?_⟩
      rw [if_pos en]
      refine ⟨rfl, congrArg Dbg.isOpen dbg, congrArg Dbg.capStatus dbg, fun kept listed => ?_, fun d ne => ?_⟩
      · obtain ⟨on, now⟩ := Eng.needOn_debug (s.eng.captured 1 0 0 0) kept listed
        exact ⟨(congrArg Dom.st (Eng.dom_congr opens.pd 98)).trans on, opens.now.trans now⟩
      · exact (Eng.dom_congr opens.pd d).trans (Eng.needOn_dom_ne _ ne)
  case close =>
    by_cases opened : s.eng.dbg.isOpen = true
    case neg =>
      have locked : execDbgClose s = .next (s.portLocked 2 0) := portOpen_closed up (eq_false_of_ne_true opened) 2 0 _
      refine ⟨_, locked, ⟨rfl, rfl, ?_⟩, rfl, rfl, rfl, ?_⟩
      · exact Eng.Only.setDbg s.eng _ (by decide)
      · rw [if_neg opened]
        exact ⟨rfl, rfl⟩
    case pos =>
      obtain ⟨resumed, engine, stw⟩ := (s.eng.captured 2 0 0 0).portResumed_resumed
      let shut : Eng := { (s.eng.captured 2 0 0 0).portResumed with
        dbg := { (s.eng.captured 2 0 0 0).portResumed.dbg with isOpen := false } }
      obtain ⟨rest, own, others⟩ := shut.gate_debug
      have only : s.eng.Only [1, 15, 17] [] (shut.gate 98) := by
        rw [rest]
        exact (((Eng.Only.setDbg s.eng _ (by decide)).trans resumed.only).trans (.setDbg _ _ (by decide))).trans (.setPd _ _ (by decide))
      have dbg : (shut.gate 98).dbg = { (s.eng.captured 2 0 0 0).portResumed.dbg with isOpen := false } := by rw [rest]
      have dom : ∀ d, shut.dom d = s.eng.dom d := Eng.dom_congr resumed.pd
      rw [resumed.dbg] at dbg
      rw [dom] at own
      refine ⟨_, exec_dbgClose up opened free, ⟨rfl, rfl, only⟩, congrArg Dbg.capOp dbg, congrArg Dbg.capAddr dbg,
        congrArg Dbg.capData dbg, ?_⟩
      rw [if_pos opened]
      refine ⟨?_, congrArg Dbg.isOpen dbg, (congrArg Dbg.engineHalted dbg).trans engine,
        (congrArg Dbg.stwHalted dbg).trans stw, congrArg Dbg.brks dbg, congrArg Dbg.capStatus dbg, own,
        fun d ne => (others d ne).trans (dom d)⟩
      refine (congrArg s.withEng rest).trans ?_
      generalize same : stwOn (engineOn _) = e2
      obtain rfl : (s.eng.captured 2 0 0 0).portResumed = e2 := same
      rfl

/-! ### Halts -/

/-- What only reports leaves of a halt. -/
theorem Eng.Reports.stopped {e e' : Eng} (h : e.Reports e') : e'.stopped = e.stopped ∧ e'.stwStopped = e.stwStopped := by
  have now := h.now_eq
  rw [Eng.stopped, Eng.stopped, Eng.stwStopped, Eng.stwStopped, h.dbg, now]
  exact ⟨rfl, rfl⟩

/-- A halt of the engine that changes in a tick does not change whether it is stopped in that tick. -/
theorem Eng.stopped_noted (e : Eng) (halted : Bool) (resumed : Option Nat) :
    ({ e with dbg := { e.dbg with engineHalted := halted, resumed := resumed, haltWas := some (e.now, e.stopped) } } : Eng).stopped = e.stopped :=
  if_pos rfl

/-- The same of the Steward. -/
theorem Eng.stwStopped_noted (e : Eng) (halted one : Bool) :
    ({ e with dbg := { e.dbg with stwHalted := halted, stepOne := one, stwWas := some (e.now, e.stwStopped) } } : Eng).stwStopped =
      e.stwStopped :=
  if_pos rfl

theorem Eng.haltEngine_stopped (e : Eng) (brk : Option Nat) : (e.haltEngine brk).stopped = e.stopped := by
  unfold Eng.haltEngine
  split
  · rfl
  · exact (Eng.raise_reports _ _).stopped.1.trans (e.stopped_noted true _)

theorem Eng.resumeEngine_stopped (e : Eng) : e.resumeEngine.stopped = e.stopped := by
  unfold Eng.resumeEngine
  split
  · rfl
  · exact (Eng.raise_reports _ _).stopped.1.trans (e.stopped_noted false _)

theorem Eng.haltSteward_stopped (e : Eng) (brk : Option Nat) : (e.haltSteward brk).stwStopped = e.stwStopped := by
  unfold Eng.haltSteward
  split
  · rfl
  · exact (Eng.raise_reports _ _).stopped.2.trans (e.stwStopped_noted true _)

theorem Eng.resumeSteward_stopped (e : Eng) : e.resumeSteward.stwStopped = e.stwStopped := by
  unfold Eng.resumeSteward
  split
  · rfl
  · exact (Eng.raise_reports _ _).stopped.2.trans (e.stwStopped_noted false _)

/-- STEP of an engine whose capture register holds its result. -/
def Eng.stepped (e : Eng) : Eng :=
  if e.dbg.stwHalted then { e.noteStw with dbg := { e.noteStw.dbg with stepOne := true } } else e.captured 5 0 3 0

theorem Eng.stepped_stopped (e : Eng) : e.stepped.stwStopped = e.stwStopped := by
  unfold Eng.stepped
  split
  · exact e.stwStopped_noted _ true
  · rfl

/-- Equal engines make equal next states. -/
theorem State.next_withEng_congr (s : State) {e e' : Eng} (same : e = e') :
    (.next (s.withEng e) : Host.Outcome State Fault Refusal) = .next (s.withEng e') := by rw [same]

/-- Settles O36. -/
theorem debugHalts : Obligations.DebugHalts := by
  unfold Obligations.DebugHalts
  intro s up opened free
  have taken := portOpen_first up opened free
  have haltE : exec .haltEngine s = .next (s.withEng ((s.eng.captured 3 0 0 0).haltEngine none)) :=
    taken 3 0 (fun e => e.haltEngine none)
  have haltS : exec .haltSteward s = .next (s.withEng ((s.eng.captured 3 1 0 0).haltSteward none)) :=
    taken 3 1 (fun e => e.haltSteward none)
  have resumeE : exec .resumeEngine s = .next (s.withEng (s.eng.captured 4 0 0 0).resumeEngine) := taken 4 0 _
  have resumeS : exec .resumeSteward s = .next (s.withEng (s.eng.captured 4 1 0 0).resumeSteward) := taken 4 1 _
  have step : exec .dbgStep s = .next (s.withEng (s.eng.captured 5 0 0 0).stepped) := taken 5 0 Eng.stepped
  refine ⟨haltE.trans ?haltE, haltS.trans ?haltS, resumeE.trans ?resumeE, resumeS.trans ?resumeS, step.trans ?step,
    fun t => ⟨?engine, ?steward⟩⟩
  case haltE =>
    by_cases halted : s.eng.dbg.engineHalted = true
    · rw [if_pos halted]
      exact s.next_withEng_congr (if_pos halted)
    · rw [if_neg halted]
      exact s.next_withEng_congr (if_neg halted)
  case haltS =>
    by_cases halted : s.eng.dbg.stwHalted = true
    · rw [if_pos halted]
      exact s.next_withEng_congr (if_pos halted)
    · rw [if_neg halted]
      exact s.next_withEng_congr (if_neg halted)
  case resumeE =>
    rw [Eng.resumeEngine_eq]
    by_cases halted : s.eng.dbg.engineHalted = true
    · rw [if_pos halted]
      exact s.next_withEng_congr (if_neg (Bool.not_eq_false _ ▸ halted))
    · rw [if_neg halted]
      exact s.next_withEng_congr (if_pos (eq_false_of_ne_true halted))
  case resumeS =>
    rw [Eng.resumeSteward_eq]
    by_cases halted : s.eng.dbg.stwHalted = true
    · rw [if_pos halted]
      exact s.next_withEng_congr (if_neg (Bool.not_eq_false _ ▸ halted))
    · rw [if_neg halted]
      exact s.next_withEng_congr (if_pos (eq_false_of_ne_true halted))
  case step =>
    by_cases halted : s.eng.dbg.stwHalted = true
    · rw [if_pos halted]
      exact s.next_withEng_congr (if_pos halted)
    · rw [if_neg halted]
      exact s.next_withEng_congr (if_neg halted)
  case engine =>
    rintro (run | run)
    · obtain rfl := Host.Outcome.next.inj (haltE.symm.trans run)
      exact Eng.haltEngine_stopped _ none
    · obtain rfl := Host.Outcome.next.inj (resumeE.symm.trans run)
      exact Eng.resumeEngine_stopped _
  case steward =>
    rintro (run | run | run)
    · obtain rfl := Host.Outcome.next.inj (haltS.symm.trans run)
      exact Eng.haltSteward_stopped _ none
    · obtain rfl := Host.Outcome.next.inj (resumeS.symm.trans run)
      exact Eng.resumeSteward_stopped _
    · obtain rfl := Host.Outcome.next.inj (step.symm.trans run)
      exact Eng.stepped_stopped _

/-! ### Breakpoints -/

theorem Eng.brk_setBrk (e : Eng) (i j : Nat) (b : Brk) : (e.setBrk i b).brk j = if j = i then b else e.brk j := tgetD_tsetD _ _ _ _ _

/-- What setting a breakpoint leaves: the one set, and the others. -/
theorem exec_brkCfg (addr : Nat) {s : State} (up : s.boot.absent = false) (opened : s.eng.dbg.isOpen = true)
    (free : s.eng.dbg.cmdAt ≠ some s.eng.now) :
    exec (.brkCfg addr) s = .next (s.withEng ((s.eng.captured 6 addr 0 0).setBrk (addr % 4)
      { s.eng.brk (addr % 4) with
        typ := addr / 4 % 8, acts := addr / 32 % 16, hitAt := none, was := s.eng.slotState ((s.eng.brk (addr % 4)).val % 2 ^ 24) })) := by
  have index : bitsOf addr 1 0 = addr % 4 := bitsOf_low addr 1
  have slot := bitsOf_low (s.eng.brk (addr % 4)).val 23
  change execBrkCfg addr s = _
  rw [execBrkCfg, portOpen_first up opened free]
  simp only [index, Eng.brkArmed]
  change _ = Host.Outcome.next (s.withEng (Eng.setBrk _ _ { s.eng.brk (addr % 4) with
    typ := _, acts := _, hitAt := none, was := s.eng.slotState ((s.eng.brk (addr % 4)).val % 2 ^ (23 + 1)) }))
  rw [← slot]
  rfl

theorem exec_brkVal (addr : Nat) (data : DWord) {s : State} (up : s.boot.absent = false) (opened : s.eng.dbg.isOpen = true)
    (free : s.eng.dbg.cmdAt ≠ some s.eng.now) :
    exec (.brkVal addr data) s = .next (s.withEng ((s.eng.captured 7 addr 0 0).setBrk (addr % 4)
      { s.eng.brk (addr % 4) with val := data.toNat, hitAt := none, was := s.eng.slotState (data.toNat % 2 ^ 24) })) := by
  have index : bitsOf addr 1 0 = addr % 4 := bitsOf_low addr 1
  have slot := bitsOf_low data.toNat 23
  change execBrkVal addr data s = _
  rw [execBrkVal, portOpen_first up opened free]
  simp only [index, Eng.brkArmed, slot]
  rfl

/-- A tick whose end changes nothing and leaves nothing up to a Tally is over. -/
theorem Eng.tickOver_still {e : Eng} {n : Nat} (left : e.tickLeft = e) (still : e.nextStop n = none) : e.tickOver n = e := by
  unfold Eng.tickOver ticksTo
  dsimp only
  rw [left, still]

/-- What a command does where the tick that it leaves has nothing left to do on the way. -/
theorem timed_still {s t : State} {f : State → Host.Outcome State Fault Refusal} (left : s.eng.tickLeft = s.eng)
    (run : f s = .next t) (still : s.eng.nextStop t.eng.now = none) : timed s f = .next t := by
  rw [timed, run]
  dsimp only
  split
  · rw [Eng.tickOver_still left still]
    exact run
  · rfl

/-- What a halt of the engine keeps: all but the port's state and what reports. -/
structure Eng.HaltKept (e e' : Eng) : Prop where
  now : e'.now = e.now
  reg : ∀ off, tallyReg off = false → e'.reg off 0 = e.reg off 0
  led : e'.led = e.led
  cmp : e'.cmp = e.cmp
  stw : e'.stw = e.stw
  brks : e'.dbg.brks = e.dbg.brks
  stopped : e'.stopped = e.stopped

theorem Eng.haltEngine_kept (e : Eng) (brk : Option Nat) : e.HaltKept (e.haltEngine brk) ∧ (e.haltEngine brk).dbg.engineHalted = true := by
  have stopped := e.haltEngine_stopped brk
  by_cases halted : e.dbg.engineHalted = true
  · have same : e.haltEngine brk = e := if_pos halted
    rw [same]
    exact ⟨⟨rfl, fun _ _ => rfl, rfl, rfl, rfl, rfl, rfl⟩, halted⟩
  · have halt : e.haltEngine brk = ({ e with dbg := { e.dbg with engineHalted := true, haltWas := some (e.now, e.stopped) } } : Eng).raise
        { code := 0x00C1, unit := 15, arg := haltArg 0 brk } := if_neg halted
    have reports := Eng.raise_reports ({ e with dbg := { e.dbg with engineHalted := true, haltWas := some (e.now, e.stopped) } } : Eng)
      { code := 0x00C1, unit := 15, arg := haltArg 0 brk }
    rw [← halt] at reports
    have brks : (e.haltEngine brk).dbg.brks = e.dbg.brks := by rw [reports.dbg]
    have on : (e.haltEngine brk).dbg.engineHalted = true := by rw [reports.dbg]
    exact ⟨⟨reports.now_eq, fun off plain => reports.regs off 0 (by decide) plain, reports.led_eq, reports.cmp_eq, reports.stw_eq,
      brks, stopped⟩, on⟩

/-- The only action of a breakpoint that it halts the engine, or none. -/
def Eng.haltIf (e : Eng) (halts : Bool) (k : Nat) : Eng := if halts then e.haltEngine (some k) else e

theorem Eng.haltIf_kept (e : Eng) (halts : Bool) (k : Nat) :
    e.HaltKept (e.haltIf halts k) ∧ (e.haltIf halts k).dbg.engineHalted = (e.dbg.engineHalted || halts) := by
  cases halts
  case false => exact ⟨⟨rfl, fun _ _ => rfl, rfl, rfl, rfl, rfl, rfl⟩, (Bool.or_false _).symm⟩
  case true =>
    obtain ⟨kept, halted⟩ := e.haltEngine_kept (some k)
    exact ⟨kept, halted.trans (Bool.or_true _).symm⟩

/-- The actions of a hit whose only action may be to halt the engine. -/
theorem Eng.brkActs_halt (e : Eng) (i : Nat) {b : Brk} (acts : b.acts ≤ 1) (tally : b.typ = 1) :
    e.brkActs i b = e.haltIf (decide (b.acts = 1)) i := by
  rcases (by omega : b.acts = 0 ∨ b.acts = 1) with none_ | halt
  · simp [Eng.brkActs, Eng.haltIf, none_, tally, bitOf]
  · simp [Eng.brkActs, Eng.haltIf, halt, tally, bitOf]

/-- A halt of an earlier tick is what the engine goes by. -/
theorem Eng.stopped_of_earlier {e : Eng} (earlier : e.dbg.haltWas.all (fun w => decide (w.1 < e.now)) = true) :
    e.stopped = e.dbg.engineHalted := by
  unfold Eng.stopped
  split
  case h_1 t was noted =>
    rw [noted] at earlier
    exact if_neg (Nat.ne_of_lt (of_decide_eq_true earlier))
  case h_2 => rfl

/-- A breakpoint that hits, before its actions. -/
def Eng.brkMarked (e : Eng) (k : Nat) : Eng :=
  ((e.setBrk k { e.brk k with hitAt := some (e.brkKey (e.brk k)) }).poke ⟨0x11004, 4 + k, 4 + k⟩ 1).bump F.DBG_BRK_HITS_COUNT

theorem Eng.advance_brk (e : Eng) (t k : Nat) : (e.advance t).brk k = e.brk k := by
  rw [Eng.brk, (e.advance_passes t).dbg]
  rfl

section
variable (e : Eng) (k : Nat)

/-- Marking a hit changes the breakpoint's own mark and the registers of the hits. -/
theorem Eng.brkMarked_dbg : (e.brkMarked k).dbg =
    { e.dbg with brks := tsetD e.dbg.brks k { e.brk k with hitAt := some (e.brkKey (e.brk k)) } {} } := rfl

theorem Eng.brkMarked_now : (e.brkMarked k).now = e.now := rfl

theorem Eng.brkMarked_led : (e.brkMarked k).led = e.led := rfl

theorem Eng.brkMarked_cmp : (e.brkMarked k).cmp = e.cmp := rfl

theorem Eng.brkMarked_stw : (e.brkMarked k).stw = e.stw := rfl

end

/-- The state behind a hit: of a breakpoint of type TALLY at its value, with at most the action that halts the engine. -/
def Eng.brkAfter (e : Eng) (k : Nat) : Eng := ((e.advance (e.brk k).val).brkMarked k).haltIf (decide ((e.brk k).acts = 1)) k

theorem Eng.brkAfter_now (e : Eng) {k : Nat} (ahead : e.now ≤ (e.brk k).val) : (e.brkAfter k).now = (e.brk k).val := by
  rw [Eng.brkAfter, (Eng.haltIf_kept _ _ _).1.now, Eng.brkMarked_now, Eng.advance_now, Nat.max_eq_right ahead]

theorem exec_breakpointHit {k : Nat} {s : State} (up : s.boot.absent = false) (low : k < 4) (left : s.eng.tickLeft = s.eng)
    (still : s.eng.nextStop (s.eng.brk k).val = none) (tally : (s.eng.brk k).typ = 1) (acts : (s.eng.brk k).acts ≤ 1)
    (ahead : s.eng.now ≤ (s.eng.brk k).val) (fresh : (s.eng.brk k).hitAt ≠ some (s.eng.brk k).val) :
    exec (.breakpointHit k) s = .next (s.withEng (s.eng.brkAfter k)) := by
  have now : (s.eng.advance (s.eng.brk k).val).now = (s.eng.brk k).val := (Eng.advance_now _ _).trans (Nat.max_eq_right ahead)
  have at_ : s.eng.brkAt (s.eng.brk k) = s.eng.advance (s.eng.brk k).val := if_pos ⟨tally, ahead⟩
  have hits : (s.eng.advance (s.eng.brk k).val).brkHits (s.eng.brk k) = true := by
    simp only [Eng.brkHits, tally, now, fresh, ne_eq, not_false_eq_true, and_self, decide_true]
  have hit : atBreakpointHit k s = .next (s.withEng (s.eng.brkAfter k)) := by
    rw [atBreakpointHit, live_up up, at_]
    simp only [if_pos (And.intro low hits), Eng.brkHit, Eng.advance_brk]
    rw [Eng.brkActs_halt _ _ acts tally]
    simp only [Eng.brkAfter, Eng.brkMarked, Eng.advance_brk]
  exact timed_still left hit ((congrArg s.eng.nextStop (s.eng.brkAfter_now ahead)).trans still)

/-- The bit of a breakpoint that has hit. -/
theorem Eng.brkMarked_bit (e : Eng) {k : Nat} (low : k < 4) : ((e.brkMarked k).reg 0x11004 0).getLsbD (4 + k) = true := by
  rw [Eng.brkMarked, Eng.bump, Eng.poke, Eng.reg_putReg_ne _ _ _ _ (by decide) (by decide) (.inl (by decide)), Eng.poke,
    Eng.reg_putReg_same, setBits_lsb _ _ _ _ _ (show 4 + k < 32 by omega), if_pos ⟨Nat.le_refl _, Nat.lt_succ_self _⟩, Nat.sub_self]
  rfl

/-- The count of hits, up to its greatest value. -/
theorem Eng.brkMarked_count (e : Eng) (k : Nat) :
    ((e.brkMarked k).reg 0x11008 0).toNat = min ((e.reg 0x11008 0).toNat + 1) (2 ^ 32 - 1) := by
  have whole : ∀ x : Eng, x.fv F.DBG_BRK_HITS_COUNT 0 = (x.reg 0x11008 0).toNat :=
    fun x => (bitsOf_low _ 31).trans (Nat.mod_eq_of_lt (x.reg 0x11008 0).isLt)
  rw [← whole, ← whole, Eng.brkMarked, Eng.bump, Eng.fv_poke_same _ _ _ _ (by decide),
    Eng.fv_poke_ne _ _ _ _ _ _ (by decide) (by decide) (.inl (show 0x11008 ≠ 0x11004 by decide))]
  exact Nat.mod_eq_of_lt (Nat.lt_of_le_of_lt (Nat.min_le_right _ _) (by decide))

/-- Settles O37. -/
theorem breakpointsHit : Obligations.BreakpointsHit := by
  unfold Obligations.BreakpointsHit
  intro addr k data s up
  refine ⟨fun opened free => ⟨?cfg, ?val⟩, fun low left still tally acts ahead fresh => ?hit⟩
  case cfg =>
    refine ⟨_, exec_brkCfg addr up opened free, (Eng.brk_setBrk _ _ _ _).trans (if_pos rfl), fun j ne => ?_, rfl⟩
    exact (Eng.brk_setBrk _ _ _ _).trans (if_neg ne)
  case val =>
    refine ⟨_, exec_brkVal addr data up opened free, (Eng.brk_setBrk _ _ _ _).trans (if_pos rfl), fun j ne => ?_, rfl⟩
    exact (Eng.brk_setBrk _ _ _ _).trans (if_neg ne)
  case hit =>
    have passes := s.eng.advance_passes (s.eng.brk k).val
    have bit := (s.eng.advance (s.eng.brk k).val).brkMarked_bit low
    have count := (s.eng.advance (s.eng.brk k).val).brkMarked_count k
    have now := s.eng.brkAfter_now ahead
    have run := exec_breakpointHit up low left still tally acts ahead fresh
    have key : (s.eng.advance (s.eng.brk k).val).brkKey (s.eng.brk k) = (s.eng.brk k).val := by
      rw [Eng.brkKey, if_neg (by omega), Eng.advance_now, Nat.max_eq_right ahead]
    have dbg := (s.eng.advance (s.eng.brk k).val).brkMarked_dbg k
    rw [Eng.advance_brk, key, passes.dbg] at dbg
    obtain ⟨kept, halted⟩ := ((s.eng.advance (s.eng.brk k).val).brkMarked k).haltIf_kept (decide ((s.eng.brk k).acts = 1)) k
    rw [← Eng.brkAfter] at kept halted
    rw [passes.regs 0x11008 0 (by decide) rfl] at count
    generalize s.eng.brkAfter k = z at *
    have led := (kept.led.trans (Eng.brkMarked_led _ k)).trans passes.led_eq
    have cmp := (kept.cmp.trans (Eng.brkMarked_cmp _ k)).trans passes.cmp_eq
    have stw := (kept.stw.trans (Eng.brkMarked_stw _ k)).trans passes.stw_eq
    generalize (s.eng.advance (s.eng.brk k).val).brkMarked k = y at *
    have brk : ∀ j, z.brk j = if j = k then { s.eng.brk k with hitAt := some (s.eng.brk k).val } else s.eng.brk j := by
      intro j
      rw [Eng.brk, kept.brks, dbg]
      exact tgetD_tsetD _ _ _ _ _
    refine ⟨_, run, now, ?bit, ?count, ?halted, ?stopped, (brk k).trans (if_pos rfl), fun j ne => (brk j).trans (if_neg ne), led, cmp, stw, rfl⟩
    case bit =>
      change (z.reg 0x11004 0).getLsbD (4 + k) = true
      rw [kept.reg 0x11004 rfl]
      exact bit
    case count =>
      change (z.reg 0x11008 0).toNat = _
      rw [kept.reg 0x11008 rfl]
      exact count
    case halted =>
      change z.dbg.engineHalted = _
      rw [halted, dbg]
    case stopped =>
      intro earlier
      change z.stopped = _
      rw [kept.stopped, Eng.stopped_of_earlier, dbg]
      rw [dbg, ← kept.now, now]
      cases noted : s.eng.dbg.haltWas with
      | none => rfl
      | some w =>
        rw [noted] at earlier
        exact decide_eq_true (Nat.lt_of_lt_of_le (of_decide_eq_true earlier) ahead)

end Sys2Proof.Machine
end
section
/-!
Words that the debug port reads and writes (O38).
-/
namespace Sys2Proof.Machine

/-! ### The capture register shows nowhere else -/

section
variable (e : Eng) (op addr status data : Nat)

theorem fieldsAt_captured (b : Boot) (off sel : Nat) (w : Word) :
    fieldsAt b (e.captured op addr status data) off sel w = fieldsAt b e off sel w := by
  unfold fieldsAt
  split <;> rfl

/-- The capture register shows in no register of the bus. -/
theorem wordAtOff_captured (b : Boot) (off : Nat) : wordAtOff b (e.captured op addr status data) off = wordAtOff b e off := by
  unfold wordAtOff
  simp only [fieldsAt_captured]
  rfl

/-- Nor in a table in Store. -/
theorem Eng.tableFixes_captured (a : Nat) : (e.captured op addr status data).tableFixes a = e.tableFixes a := by
  have ledger : (e.captured op addr status data).ledgerWord a = e.ledgerWord a := rfl
  have history : (e.captured op addr status data).historyAt a = e.historyAt a := rfl
  have shelver : (e.captured op addr status data).shelverWord a = e.shelverWord a := rfl
  have step : (e.captured op addr status data).stepWord a = e.stepWord a := rfl
  have sieve : (e.captured op addr status data).sieveWord a = e.sieveWord a := rfl
  have spill : (e.captured op addr status data).spillWord a = e.spillWord a := rfl
  have overflow : (e.captured op addr status data).overflowWord a = e.overflowWord a := rfl
  have mirror : (e.captured op addr status data).mirrorWord a = e.mirrorWord a := rfl
  simp only [Eng.tableFixes, ledger, history, shelver, step, sieve, spill, overflow, mirror]

theorem storeWord_captured (l : List Eng) (a : Nat) : storeWord (e.captured op addr status data :: l) a = storeWord (e :: l) a := by
  unfold storeWord
  rw [Eng.tableFixes_captured]
  rfl

theorem Eng.storeDword_captured (old : List Eng) (k : Nat) :
    ((e.captured op addr status data).storeDword old k).1 = (e.storeDword old k).1 := by
  unfold Eng.storeDword
  simp only [storeWord_captured]
  split <;> rfl

end

/-! ### Check bits -/

theorem sumBy_eq_sum {α : Type} (m : α → Nat) (l : List α) : sumBy m l = (l.map m).sum := by
  have go : ∀ n, l.foldl (fun n x => n + m x) n = n + (l.map m).sum := by
    induction l with
    | nil => simp
    | cons x l ih => intro n; simp [ih, Nat.add_assoc]
  exact (go 0).trans (Nat.zero_add _)

/-- A sum of which one term alone is not 0. -/
theorem sumBy_single {α : Type} [DecidableEq α] {m : α → Nat} {l : List α} {a : α} (here : a ∈ l) (once : l.Nodup)
    (zero : ∀ x ∈ l, x ≠ a → m x = 0) : sumBy m l = m a := by
  rw [sumBy_eq_sum]
  induction l with
  | nil => exact absurd here List.not_mem_nil
  | cons x l ih =>
    rw [List.nodup_cons] at once
    rw [List.map_cons, List.sum_cons]
    rcases List.mem_cons.mp here with rfl | later
    · have rest : (l.map m).sum = 0 :=
        List.sum_eq_zero_iff.mpr (fun y hy => by
          obtain ⟨z, hz, rfl⟩ := List.mem_map.mp hy
          exact zero z (List.mem_cons_of_mem _ hz) (fun same => once.1 (same ▸ hz)))
      rw [rest, Nat.add_zero]
    · have other : x ≠ a := fun same => once.1 (same ▸ later)
      rw [zero x List.mem_cons_self other, Nat.zero_add]
      exact ih later once.2 (fun y hy => zero y (List.mem_cons_of_mem _ hy))

/-- The bits of a word, as the numbers of those that are set. -/
theorem ones64_eq_card (w : DWord) : ones64 w = ((List.range 64).filter (fun i => w.getLsbD i)).toFinset.card :=
  (List.toFinset_card_of_nodup (List.nodup_range.filter _)).symm

theorem ones64_zero : ones64 0#64 = 0 := by decide

/-- One bit changed. -/
theorem ones64_twoPow {i : Nat} (low : i < 64) : ones64 (BitVec.twoPow 64 i) = 1 := by
  rw [ones64_eq_card, Finset.card_eq_one]
  refine ⟨i, ?_⟩
  ext k
  simp only [List.mem_toFinset, List.mem_filter, List.mem_range, BitVec.getLsbD_twoPow, Finset.mem_singleton, Bool.and_eq_true,
    decide_eq_true_eq]
  omega

/-- Two bits changed. -/
theorem ones64_twoPow_two {i j : Nat} (lt : i < j) (low : j < 64) : ones64 (BitVec.twoPow 64 i ^^^ BitVec.twoPow 64 j) = 2 := by
  rw [ones64_eq_card, Finset.card_eq_two]
  refine ⟨i, j, Nat.ne_of_lt lt, ?_⟩
  ext k
  simp only [List.mem_toFinset, List.mem_filter, List.mem_range, BitVec.getLsbD_xor, BitVec.getLsbD_twoPow, Finset.mem_insert,
    Finset.mem_singleton]
  grind

theorem mem_codeword (space addr : Nat) : addr ∈ codeword space addr := by
  unfold codeword
  split
  · simp only [List.mem_cons, List.not_mem_nil, or_false]
    omega
  · split
    · rw [List.mem_map]
      exact ⟨addr % 4, List.mem_range.mpr (Nat.mod_lt _ (by decide)), by omega⟩
    · exact List.mem_singleton_self _

theorem nodup_codeword (space addr : Nat) : (codeword space addr).Nodup := by
  unfold codeword
  split
  · simp
  · split
    · exact (List.nodup_map_iff (fun a b h => by simpa using h)).mpr List.nodup_range
    · exact List.nodup_singleton _

/-- The keys of a codeword's words lie in its space. -/
theorem memKey_space {space addr a : Nat} (word : a ∈ codeword space addr) (low : addr + 4 < 2 ^ 40) : memKey space a / 2 ^ 40 = space := by
  have near : a < 2 ^ 40 := by
    unfold codeword at word
    split at word
    · simp only [List.mem_cons, List.not_mem_nil, or_false] at word
      omega
    · split at word
      · obtain ⟨k, hk, rfl⟩ := List.mem_map.mp word
        have := List.mem_range.mp hk
        omega
      · rw [List.mem_singleton.mp word]
        omega
  rw [memKey]
  omega

/-- Bits in error of a word whose codeword has no other in error. -/
theorem Eng.bitErrors_single (e : Eng) {space addr : Nat} {d c : DWord} (at_ : tget e.dbg.mem (memKey space addr) = some (d, c))
    (plain : ∀ a ∈ codeword space addr, a ≠ addr → e.heldWord space a = none)
    (agree : ∀ k x, k ≠ memKey space addr → tget e.dbg.mem k = some x → x.1 = x.2) :
    e.bitErrors space addr = ones64 (c ^^^ (e.heldWord space addr).getD d) := by
  rw [Eng.bitErrors, sumBy_single (mem_codeword space addr) (nodup_codeword space addr), at_]
  intro a word ne
  have key : memKey space a ≠ memKey space addr := fun same => ne (Nat.add_left_cancel same)
  split
  case h_1 x stored =>
    rw [plain a word ne, agree _ x key stored, Option.getD_none, BitVec.xor_self, ones64_zero]
  case h_2 => rfl

/-! ### Commands that name a word -/

/-- A later tick of a state in which nothing else has changed. -/
def State.Later (x y : State) : Prop := y.boot = x.boot ∧ y.old = x.old ∧ y.eng = { x.eng with now := y.eng.now } ∧ x.eng.now < y.eng.now

theorem spaceHolds_mem {space addr n : Nat} (low : addr < n) (mem : space ≠ 7 ∧ space ≠ 9) : spaceHolds space addr n = true := by
  simp [spaceHolds, low, mem.1, mem.2]

section
variable {s : State} (up : s.boot.absent = false) (opened : s.eng.dbg.isOpen = true) (free : s.eng.dbg.cmdAt ≠ some s.eng.now)
include up opened free

/-- A command that names a space that is not listed. -/
theorem badSpace {space addr : Nat} (data : DWord) (unlisted : spaceSize space = none) :
    exec (.dbgRead space addr) s = .next (s.withEng (s.eng.captured 8 addr 2 0)) ∧
      exec (.dbgWrite space addr data) s = .next (s.withEng (s.eng.captured 9 addr 2 0)) ∧
      exec (.dbgWriteRaw space addr data) s = .next (s.withEng (s.eng.captured 10 addr 2 0)) := by
  refine ⟨?_, ?_, ?_⟩
  · change execDbgRead space addr s = _
    rw [execDbgRead, portOpen_first up opened free, unlisted]
    rfl
  · change execDbgWrite space addr data s = _
    rw [execDbgWrite, unlisted]
    exact portOpen_first up opened free _ _ _
  · change execDbgWriteRaw space addr data s = _
    rw [execDbgWriteRaw, portOpen_first up opened free, unlisted]
    rfl

/-- A command that names no word of its space. -/
theorem badAddr {space addr n : Nat} (data : DWord) (size : spaceSize space = some n) (beyond : spaceHolds space addr n = false) :
    exec (.dbgRead space addr) s = .next (s.withEng (s.eng.captured 8 addr 4 0)) ∧
      exec (.dbgWrite space addr data) s = .next (s.withEng (s.eng.captured 9 addr 4 0)) := by
  refine ⟨?_, ?_⟩
  · change execDbgRead space addr s = _
    rw [execDbgRead, portOpen_first up opened free, size]
    simp only [beyond]
    rfl
  · change execDbgWrite space addr data s = _
    rw [execDbgWrite, size]
    simp only [beyond]
    exact portOpen_first up opened free 9 addr (fun e => e.captured 9 addr 4 0)

section
variable {space addr n : Nat} (size : spaceSize space = some n) (low : addr < n) (mem : space ≠ 7 ∧ space ≠ 9)
include size low mem

theorem exec_dbgRead_mem :
    exec (.dbgRead space addr) s = .next (s.withEng ((s.eng.captured 8 addr 0 0).memRead s.old space addr)) := by
  change execDbgRead space addr s = _
  rw [execDbgRead, portOpen_first up opened free, size]
  simp only [spaceHolds_mem low mem, mem.1, mem.2]
  rfl

theorem exec_dbgWrite_mem (data : DWord) :
    exec (.dbgWrite space addr data) s = .next (s.withEng (if (s.eng.captured 9 addr 0 0).mayWrite space addr
      then (s.eng.captured 9 addr 0 0).spaceWrite space addr data else s.eng.captured 9 addr 3 0)) := by
  change execDbgWrite space addr data s = _
  rw [execDbgWrite, size]
  simp only [spaceHolds_mem low mem, mem.2, false_and, if_false, Bool.not_true]
  exact portOpen_first up opened free 9 addr
    (fun e => if e.mayWrite space addr then e.spaceWrite space addr data else e.captured 9 addr 3 0)

theorem exec_dbgWriteRaw_mem (data : DWord) (raw : rawSpace space = true) (halted : (s.eng.captured 10 addr 0 0).mayWrite space addr = true) :
    exec (.dbgWriteRaw space addr data) s = .next (s.withEng ((s.eng.captured 10 addr 0 0).rawWrite s.old space addr data)) := by
  change execDbgWriteRaw space addr data s = _
  rw [execDbgWriteRaw, portOpen_first up opened free, size]
  simp only [spaceHolds_mem low mem, raw, halted]
  rfl

end

end

/-! ### Words that the port keeps -/

/-- The memories of R614 that the port's own words stand for, and Store. -/
def portSpaces : List Nat := [0, 1, 2, 3, 4, 5, 8, 10]

/-- The port keeps a word `d` with check bits that agree with `c`, and no other word is in error; the engine is halted. -/
structure State.WordAt (s : State) (space addr : Nat) (d c : DWord) : Prop where
  up : s.boot.absent = false
  opened : s.eng.dbg.isOpen = true
  halted : s.eng.dbg.engineHalted = true
  unheld : s.eng.heldWord space addr = none
  at_ : tget s.eng.dbg.mem (memKey space addr) = some (d, c)
  agree : ∀ k x, k ≠ memKey space addr → tget s.eng.dbg.mem k = some x → x.1 = x.2

/-- Beside the pages of the mask cache no such space holds a word of the engine's state. -/
theorem Eng.heldWord_none (e : Eng) {space : Nat} (addr : Nat) (steward : space ≠ 6) (masks : space ≠ 3) : e.heldWord space addr = none := by
  rw [Eng.heldWord, if_neg steward, if_neg masks]

theorem codeword_masks (addr : Nat) : codeword 3 addr = [addr] := rfl

theorem Eng.heldWord_beside (e : Eng) {space addr : Nat} (steward : space ≠ 6) :
    ∀ a ∈ codeword space addr, a ≠ addr → e.heldWord space a = none := by
  intro a word ne
  by_cases masks : space = 3
  · subst masks
    exact absurd (List.mem_singleton.mp word) ne
  · exact e.heldWord_none a steward masks

section
variable {s : State} {space addr n : Nat} {d c : DWord} (word : s.WordAt space addr d c)
include word

/-- The port's word, and the errors of its codeword. -/
theorem State.WordAt.raw (op : Nat) (steward : space ≠ 6) :
    (s.eng.captured op addr 0 0).rawWord s.old space addr = (d, c, s.eng.captured op addr 0 0) ∧
      (s.eng.captured op addr 0 0).bitErrors space addr = ones64 (c ^^^ d) := by
  have unheld : (s.eng.captured op addr 0 0).heldWord space addr = none := word.unheld
  have at_ : tget (s.eng.captured op addr 0 0).dbg.mem (memKey space addr) = some (d, c) := word.at_
  constructor
  · rw [Eng.rawWord, unheld, at_]
  · rw [Eng.bitErrors_single _ at_ (Eng.heldWord_beside _ steward) word.agree, unheld]
    rfl

/-- READ of a word that the port keeps. -/
theorem State.WordAt.read (free : s.eng.dbg.cmdAt ≠ some s.eng.now) (listed : space ∈ portSpaces) (size : spaceSize space = some n) (low : addr < n) :
    ∃ u, exec (.dbgRead space addr) s = .next u ∧
      (if space = 3 then (if ones64 (c ^^^ d) % 2 = 1 then u.eng.dbg.capStatus = 6 ∧ u.eng.dbg.capData = 0
          else u.eng.dbg.capStatus = 0 ∧ u.eng.dbg.capData = d.toNat)
       else if 2 ≤ ones64 (c ^^^ d) then u.eng.dbg.capStatus = 6 ∧ u.eng.dbg.capData = 0
       else u.eng.dbg.capStatus = 0 ∧ u.eng.dbg.capData = c.toNat) := by
  have mem : space ≠ 7 ∧ space ≠ 9 := by constructor <;> rintro rfl <;> exact absurd listed (by decide)
  have steward : space ≠ 6 := by rintro rfl; exact absurd listed (by decide)
  obtain ⟨raw, errors⟩ := word.raw 8 steward
  refine ⟨_, exec_dbgRead_mem word.up word.opened free size low mem, ?_⟩
  unfold Eng.memRead
  simp only [raw, errors]
  split
  · split <;> exact ⟨rfl, rfl⟩
  · split <;> exact ⟨rfl, rfl⟩

/-- WRITE_RAW of a word that the port keeps: its check bits stay. -/
theorem State.WordAt.writeRaw (w : DWord) (free : s.eng.dbg.cmdAt ≠ some s.eng.now) (listed : space ∈ portSpaces) (store : space ≠ 10)
    (size : spaceSize space = some n) (low : addr < n) :
    ∃ v, exec (.dbgWriteRaw space addr w) s = .next v ∧ v.eng.dbg.capStatus = 0 ∧ v.WordAt space addr w c ∧
      v.eng.dbg.cmdAt = some v.eng.now := by
  have mem : space ≠ 7 ∧ space ≠ 9 := by constructor <;> rintro rfl <;> exact absurd listed (by decide)
  have steward : space ≠ 6 := by rintro rfl; exact absurd listed (by decide)
  have rawly : rawSpace space = true := by
    simp only [portSpaces, List.mem_cons, List.not_mem_nil, or_false] at listed
    exact decide_eq_true (by omega)
  have may : (s.eng.captured 10 addr 0 0).mayWrite space addr = true := by
    rw [Eng.mayWrite, if_neg steward, if_neg mem.1, if_neg mem.2]
    exact word.halted
  have unheld : (s.eng.captured 10 addr 0 0).heldWord space addr = none := word.unheld
  refine ⟨_, exec_dbgWriteRaw_mem word.up word.opened free size low mem w rawly may, ?_⟩
  have written : (s.eng.captured 10 addr 0 0).rawWrite s.old space addr w = { s.eng.captured 10 addr 0 0 with
      dbg := { (s.eng.captured 10 addr 0 0).dbg with mem := tput s.eng.dbg.mem (memKey space addr) (w, c) } } := by
    rw [Eng.rawWrite, (word.raw 10 steward).1, unheld]
    rfl
  rw [written]
  refine ⟨rfl, ⟨word.up, word.opened, word.halted, word.unheld, tget_tput_same _ _ _, fun k x ne stored => ?_⟩, rfl⟩
  exact word.agree k x ne ((tget_tput_ne _ _ ne).symm.trans stored)

/-- A later tick keeps the word, and takes a command again. -/
theorem State.WordAt.later {s' : State} (taken : s.eng.dbg.cmdAt = some s.eng.now) (after : s.Later s') :
    s'.WordAt space addr d c ∧ s'.eng.dbg.cmdAt ≠ some s'.eng.now := by
  obtain ⟨boot, -, eng, later⟩ := after
  have dbg : s'.eng.dbg = s.eng.dbg := by rw [eng]
  have held : s'.eng.heldWord space addr = s.eng.heldWord space addr := by rw [eng]; rfl
  refine ⟨⟨boot ▸ word.up, dbg ▸ word.opened, dbg ▸ word.halted, held.trans word.unheld, dbg ▸ word.at_, dbg ▸ word.agree⟩, ?_⟩
  rw [dbg, taken]
  exact fun same => Nat.ne_of_lt later (Option.some.inj same)

end

/-! ### Words of the mask cache's pages -/

/-- The place of word `m` in a page. -/
def wordPlace (m : Nat) : Nat := 2 ^ (64 * m)

/-- A page with one word set. -/
def MaskPage.put (p : MaskPage) (m : Nat) (w : DWord) : MaskPage :=
  { p with bits := p.bits - p.bits / wordPlace m % 2 ^ 64 * wordPlace m + w.toNat * wordPlace m }

theorem word_replaced {b k w : Nat} (place : 0 < k) (word : w < 2 ^ 64) : (b - b / k % 2 ^ 64 * k + w * k) / k % 2 ^ 64 = w := by
  have whole : b - b / k % 2 ^ 64 * k + w * k = b % k + k * (2 ^ 64 * (b / k / 2 ^ 64) + w) := by
    have quotient := Nat.div_add_mod (b / k) (2 ^ 64)
    have parts := Nat.div_add_mod b k
    generalize b / k / 2 ^ 64 = h at *
    generalize b / k % 2 ^ 64 = v at *
    have split : k * (b / k) = k * (2 ^ 64 * h) + v * k := by rw [← quotient, Nat.mul_add, Nat.mul_comm k v]
    rw [Nat.mul_add, Nat.mul_comm w k]
    omega
  rw [whole, Nat.add_mul_div_left _ _ place, Nat.div_eq_of_lt (Nat.mod_lt _ place), Nat.zero_add, Nat.mul_add_mod, Nat.mod_eq_of_lt word]

theorem MaskPage.put_word (p : MaskPage) (m : Nat) (w : DWord) : (p.put m w).bits / wordPlace m % 2 ^ 64 = w.toNat :=
  word_replaced (Nat.two_pow_pos _) w.isLt

section
variable {e : Eng} {p : MaskPage} {addr : Nat} (page : e.siv.cache = [p]) (way : p.way = addr / 512)
include page way

theorem Eng.heldWord_page : e.heldWord 3 addr = some (BitVec.ofNat 64 (p.bits / wordPlace (addr % 512))) := by
  simp [Eng.heldWord, page, way, wordPlace]

theorem Eng.setHeld_page (w : DWord) : e.setHeld 3 addr w = { e with
    siv := { e.siv with cache := [p.put (addr % 512) w] }, dbg := { e.dbg with mem := tdel e.dbg.mem (memKey 3 addr) } } := by
  simp [Eng.setHeld, page, way, MaskPage.put, wordPlace]

end

/-- The word just set is held. -/
theorem ofNat_put (p : MaskPage) (m : Nat) (w : DWord) : BitVec.ofNat 64 ((p.put m w).bits / wordPlace m) = w := by
  apply BitVec.eq_of_toNat_eq
  rw [BitVec.toNat_ofNat, p.put_word m w]

/-- Two words whose difference has a bit are not equal. -/
theorem flip_ne {data : DWord} {i : Nat} (low : i < 64) : data ^^^ BitVec.twoPow 64 i ≠ data := by
  intro same
  have zero : BitVec.twoPow 64 i = 0#64 := by
    have both := congrArg (data ^^^ ·) same
    simpa only [← BitVec.xor_assoc, BitVec.xor_self, BitVec.zero_xor] using both
  have one := ones64_twoPow low
  rw [zero, ones64_zero] at one
  exact absurd one (by decide)

/-- A change of the Sieve alone. -/
theorem Eng.Only.setSiv {us offs : List Nat} (e : Eng) (x : Siv) (sieve : 9 ∈ us) : e.Only us offs { e with siv := x } := by
  refine .of_parts rfl rfl (fun u out => ?_)
  have ne : u ≠ 9 := fun h => out (h ▸ sieve)
  unfold Eng.partSame
  split <;> simp at ne ⊢

theorem Eng.Only.setSivDbg {us offs : List Nat} (e : Eng) (x : Siv) (d : Dbg) (sieve : 9 ∈ us) (port : 17 ∈ us) :
    e.Only us offs { e with siv := x, dbg := d } :=
  (Eng.Only.setDbg e d port).trans (Eng.Only.setSiv { e with dbg := d } x sieve)

/-- A word of the one page that the mask cache holds, with the port's record of its check bits: the word that they agree with, where it is not
the word itself. -/
structure State.PageAt (s : State) (halted : Bool) (addr : Nat) (p : MaskPage) (c : Option DWord) : Prop where
  up : s.boot.absent = false
  opened : s.eng.dbg.isOpen = true
  halt : s.eng.dbg.engineHalted = halted
  page : s.eng.siv.cache = [p]
  way : p.way = addr / 512
  at_ : (tget s.eng.dbg.mem (memKey 3 addr)).map Prod.snd = c

section
variable {s : State} {addr : Nat} {p : MaskPage} {c : Option DWord} {halted : Bool} (word : s.PageAt halted addr p c) (low : addr < 2 ^ 20)
include word

theorem State.PageAt.later {s' : State} (taken : s.eng.dbg.cmdAt = some s.eng.now) (after : s.Later s') :
    s'.PageAt halted addr p c ∧ s'.eng.dbg.cmdAt ≠ some s'.eng.now := by
  obtain ⟨boot, -, eng, later⟩ := after
  have dbg : s'.eng.dbg = s.eng.dbg := by rw [eng]
  have siv : s'.eng.siv = s.eng.siv := by rw [eng]
  refine ⟨⟨boot ▸ word.up, dbg ▸ word.opened, dbg ▸ word.halt, siv ▸ word.page, word.way, dbg ▸ word.at_⟩, ?_⟩
  rw [dbg, taken]
  exact fun same => Nat.ne_of_lt later (Option.some.inj same)

include low

/-- WRITE of a word of a page. -/
theorem State.PageAt.write (halt : halted = true) (free : s.eng.dbg.cmdAt ≠ some s.eng.now) (w : DWord) :
    ∃ t, exec (.dbgWrite 3 addr w) s = .next t ∧ t.PageAt halted addr (p.put (addr % 512) w) none ∧ t.eng.dbg.cmdAt = some t.eng.now ∧
      s.Only [9, 17] [] t := by
  have page : (s.eng.captured 9 addr 0 0).siv.cache = [p] := word.page
  have may : (s.eng.captured 9 addr 0 0).mayWrite 3 addr = true := word.halt.trans halt
  refine ⟨_, exec_dbgWrite_mem word.up word.opened free rfl low (by decide) w, ?_⟩
  rw [if_pos may, Eng.spaceWrite, if_neg (by decide), Eng.heldWord_page page word.way, if_pos Option.isSome_some, Eng.setHeld_page page word.way]
  refine ⟨⟨word.up, word.opened, word.halt, rfl, word.way, ?_⟩, rfl, rfl, rfl, ?_⟩
  · exact congrArg (Option.map Prod.snd) (tget_tdel_same _ _)
  · exact Eng.Only.setSivDbg s.eng _ _ (by decide) (by decide)

/-- WRITE_RAW of another word than the one held. -/
theorem State.PageAt.writeRaw (halt : halted = true) (free : s.eng.dbg.cmdAt ≠ some s.eng.now) (agrees : c = none) (w : DWord)
    (other : w ≠ BitVec.ofNat 64 (p.bits / wordPlace (addr % 512))) :
    ∃ v, exec (.dbgWriteRaw 3 addr w) s = .next v ∧
      v.PageAt halted addr (p.put (addr % 512) w) (some (BitVec.ofNat 64 (p.bits / wordPlace (addr % 512)))) ∧ v.eng.dbg.cmdAt = some v.eng.now := by
  have page : (s.eng.captured 10 addr 0 0).siv.cache = [p] := word.page
  have unlisted : tget (s.eng.captured 10 addr 0 0).dbg.mem (memKey 3 addr) = none := Option.map_eq_none_iff.mp (word.at_.trans agrees)
  have may : (s.eng.captured 10 addr 0 0).mayWrite 3 addr = true := word.halt.trans halt
  refine ⟨_, exec_dbgWriteRaw_mem word.up word.opened free rfl low (by decide) w rfl may, ?_⟩
  have raw : (s.eng.captured 10 addr 0 0).rawWord s.old 3 addr = (BitVec.ofNat 64 (p.bits / wordPlace (addr % 512)),
      BitVec.ofNat 64 (p.bits / wordPlace (addr % 512)), s.eng.captured 10 addr 0 0) := by
    rw [Eng.rawWord, Eng.heldWord_page page word.way, unlisted]
    rfl
  have held := Eng.heldWord_page page word.way
  simp only [Eng.rawWrite, raw, held, Option.isSome_some, if_true, Bool.true_and, decide_eq_true_eq, if_neg other, Eng.setHeld_page page word.way]
  refine ⟨⟨word.up, word.opened, word.halt, rfl, word.way, ?_⟩, rfl⟩
  exact congrArg (Option.map Prod.snd) (tget_tput_same _ _ _)

/-- READ of a word of a page. -/
theorem State.PageAt.read (free : s.eng.dbg.cmdAt ≠ some s.eng.now) :
    ∃ u, exec (.dbgRead 3 addr) s = .next u ∧
      (if c.elim 0 (fun x => ones64 (x ^^^ BitVec.ofNat 64 (p.bits / wordPlace (addr % 512)))) % 2 = 1
        then u.eng.dbg.capStatus = 6 ∧ u.eng.dbg.capData = 0
       else u = s.withEng (s.eng.captured 8 addr 0 (BitVec.ofNat 64 (p.bits / wordPlace (addr % 512))).toNat)) := by
  have page : (s.eng.captured 8 addr 0 0).siv.cache = [p] := word.page
  have held := Eng.heldWord_page page word.way
  have errors : (s.eng.captured 8 addr 0 0).bitErrors 3 addr =
      c.elim 0 (fun x => ones64 (x ^^^ BitVec.ofNat 64 (p.bits / wordPlace (addr % 512)))) := by
    have mem : (s.eng.captured 8 addr 0 0).dbg.mem = s.eng.dbg.mem := rfl
    rw [← word.at_, Eng.bitErrors, codeword_masks, sumBy_eq_sum, List.map_singleton, List.sum_singleton, held, mem]
    cases tget s.eng.dbg.mem (memKey 3 addr) <;> rfl
  have first : ((s.eng.captured 8 addr 0 0).rawWord s.old 3 addr).1 = BitVec.ofNat 64 (p.bits / wordPlace (addr % 512)) ∧
      ((s.eng.captured 8 addr 0 0).rawWord s.old 3 addr).2.2 = s.eng.captured 8 addr 0 0 := by
    rw [Eng.rawWord, held]
    exact ⟨rfl, rfl⟩
  refine ⟨_, exec_dbgRead_mem word.up word.opened free rfl low (by decide), ?_⟩
  simp only [Eng.memRead, errors, first.1, first.2, if_true]
  split
  · exact ⟨rfl, rfl⟩
  · rfl

end

/-! ### READ, WRITE and WRITE_RAW -/

/-- The largest space is Store. -/
theorem spaceSize_le {space n : Nat} (size : spaceSize space = some n) : n ≤ 2 ^ 37 := by
  unfold spaceSize at size
  split at size <;> simp at size <;> omega

section
variable {s : State} (up : s.boot.absent = false) (opened : s.eng.dbg.isOpen = true) (free : s.eng.dbg.cmdAt ≠ some s.eng.now)
include up opened free

/-- READ of a register. -/
theorem exec_dbgRead_register {addr : Nat} (low : addr < 0x20000) (aligned : addr % 4 = 0) :
    exec (.dbgRead 9 addr) s = .next (s.withEng (s.eng.captured 8 addr 0 ((wordAtOff s.boot s.eng addr).setWidth 64).toNat)) := by
  have held : spaceHolds 9 addr 0x20000 = true := by simp [spaceHolds, low, aligned]
  have narrow : ((wordAtOff s.boot s.eng addr).setWidth 64).toNat = (wordAtOff s.boot s.eng addr).toNat := by
    rw [BitVec.toNat_setWidth]
    exact Nat.mod_eq_of_lt (Nat.lt_trans (BitVec.isLt _) (by decide))
  have size : spaceSize 9 = some 0x20000 := rfl
  change execDbgRead 9 addr s = _
  rw [execDbgRead, portOpen_first up opened free, size, narrow]
  simp only [held, wordAtOff_captured]
  rfl

/-- WRITE of a register acts as the host's. -/
theorem exec_dbgWrite_register {addr : Nat} (data : DWord) (low : addr < 0x20000) (aligned : addr % 4 = 0) :
    exec (.dbgWrite 9 addr data) s = exec (.registerWrite addr 4 (data &&& 0xFFFFFFFF)) (s.withEng (s.eng.captured 9 addr 0 0)) := by
  have held : spaceHolds 9 addr 0x20000 = true := by simp [spaceHolds, low, aligned]
  have size : spaceSize 9 = some 0x20000 := rfl
  change execDbgWrite 9 addr data s = _
  rw [execDbgWrite, size]
  simp only [held, opened, free, up, ne_eq, not_false_eq_true, and_self]
  rfl

/-- READ of a word of Store that the port has not written. -/
theorem exec_dbgRead_store {addr : Nat} (low : addr < 2 ^ 37) (unwritten : tget s.eng.dbg.mem (10 * 2 ^ 40 + addr) = none) :
    ∃ t, exec (.dbgRead 10 addr) s = .next t ∧ t.eng.dbg.capStatus = 0 ∧ t.eng.dbg.capData = (s.eng.storeDword s.old addr).1.toNat := by
  have unlisted : tget (s.eng.captured 8 addr 0 0).dbg.mem (memKey 10 addr) = none := unwritten
  have unheld : (s.eng.captured 8 addr 0 0).heldWord 10 addr = none := rfl
  have errors : (s.eng.captured 8 addr 0 0).bitErrors 10 addr = 0 := by
    have alone : codeword 10 addr = [addr] := rfl
    rw [Eng.bitErrors, alone, sumBy_eq_sum, List.map_singleton, List.sum_singleton, unlisted]
  refine ⟨_, exec_dbgRead_mem up opened free rfl low (by decide), ?_⟩
  simp only [Eng.memRead, errors, Eng.rawWord, unlisted, unheld]
  exact ⟨rfl, congrArg BitVec.toNat (Eng.storeDword_captured s.eng 8 addr 0 0 s.old addr)⟩

/-- READ of a word of an SRAM that holds the zeros of a reset. -/
theorem exec_dbgRead_zero {space addr n u : Nat} (unit : spaceUnit space = some u) (still : u ∉ s.eng.dbg.worked)
    (size : spaceSize space = some n) (low : addr < n) (unheld : s.eng.heldWord space addr = none)
    (unwritten : ∀ k, k / 2 ^ 40 = space → tget s.eng.dbg.mem k = none) :
    exec (.dbgRead space addr) s = .next (s.withEng (s.eng.captured 8 addr 0 0)) := by
  have mem : space ≠ 7 ∧ space ≠ 9 := by constructor <;> rintro rfl <;> exact absurd unit (by simp [spaceUnit])
  have notStore : space ≠ 10 := by rintro rfl; exact absurd unit (by simp [spaceUnit])
  have near : addr + 4 < 2 ^ 40 := by have := spaceSize_le size; omega
  have errors : (s.eng.captured 8 addr 0 0).bitErrors space addr = 0 := by
    rw [Eng.bitErrors, sumBy_single (mem_codeword space addr) (nodup_codeword space addr)]
    · have unlisted : tget (s.eng.captured 8 addr 0 0).dbg.mem (memKey space addr) = none :=
        unwritten _ (memKey_space (mem_codeword space addr) near)
      rw [unlisted]
    · intro a word _
      have unlisted : tget (s.eng.captured 8 addr 0 0).dbg.mem (memKey space a) = none := unwritten _ (memKey_space word near)
      rw [unlisted]
  have zero : (s.eng.captured 8 addr 0 0).sramZero space = true := by
    rw [Eng.sramZero, unit]
    simpa [Eng.captured] using still
  have unheld' : (s.eng.captured 8 addr 0 0).heldWord space addr = none := unheld
  have unlisted : tget (s.eng.captured 8 addr 0 0).dbg.mem (memKey space addr) = none :=
    unwritten _ (memKey_space (mem_codeword space addr) near)
  have raw : (s.eng.captured 8 addr 0 0).rawWord s.old space addr = (0, 0, s.eng.captured 8 addr 0 0) := by
    simp only [Eng.rawWord, unheld', unlisted, if_neg notStore, zero, if_true]
  rw [exec_dbgRead_mem up opened free size low mem]
  simp only [Eng.memRead, errors, raw]
  split <;> rfl

/-- WRITE of a word that the port keeps. -/
theorem exec_dbgWrite_kept {space addr n : Nat} (data : DWord) (listed : space ∈ portSpaces) (size : spaceSize space = some n) (low : addr < n)
    (unheld : s.eng.heldWord space addr = none) (halted : s.eng.dbg.engineHalted = true)
    (agree : ∀ k x, tget s.eng.dbg.mem k = some x → x.1 = x.2) :
    ∃ t, exec (.dbgWrite space addr data) s = .next t ∧ t.WordAt space addr data data ∧
      t = s.withEng { s.eng with dbg := { s.eng.dbg with
        mem := tput s.eng.dbg.mem (memKey space addr) (data, data), capStatus := 0, capOp := 9, capAddr := addr % 2 ^ 40, capData := 0
        cmdAt := some s.eng.now } } := by
  have mem : space ≠ 7 ∧ space ≠ 9 := by constructor <;> rintro rfl <;> exact absurd listed (by decide)
  have steward : space ≠ 6 := by rintro rfl; exact absurd listed (by decide)
  have may : (s.eng.captured 9 addr 0 0).mayWrite space addr = true := by
    rw [Eng.mayWrite, if_neg steward, if_neg mem.1, if_neg mem.2]
    exact halted
  have unheld' : (s.eng.captured 9 addr 0 0).heldWord space addr = none := unheld
  refine ⟨_, exec_dbgWrite_mem up opened free size low mem data, ?_⟩
  rw [if_pos may, Eng.spaceWrite, if_neg mem.1, unheld', if_neg (by simp)]
  refine ⟨⟨up, opened, halted, unheld, tget_tput_same _ _ _, fun k x ne stored => ?_⟩, rfl⟩
  exact agree k x ((tget_tput_ne _ _ ne).symm.trans stored)

end

/-- Settles O38. -/
theorem debugWords : Obligations.DebugWords := by
  unfold Obligations.DebugWords
  intro space addr i j data s up opened free later cap arrays
  refine ⟨?space, ?addr, ?register, ?store, ?zero, ?page, ?kept⟩
  case space =>
    intro beyond
    have unlisted : spaceSize space = none := by
      unfold spaceSize
      split <;> first | rfl | omega
    exact badSpace up opened free data unlisted
  case addr =>
    intro n size beyond
    have out : spaceHolds space addr n = false := by simp [spaceHolds, Nat.not_lt.mpr beyond]
    exact badAddr up opened free data size out
  case register =>
    intro low aligned
    exact ⟨exec_dbgRead_register up opened free low aligned, exec_dbgWrite_register up opened free data low aligned⟩
  case store => exact fun low unwritten => exec_dbgRead_store up opened free low unwritten
  case zero => exact fun n u unit still size low unheld unwritten => exec_dbgRead_zero up opened free unit still size low unheld unwritten
  case page =>
    intro p page way low unwritten at_
    have unlisted : ∀ k, tget s.eng.dbg.mem k = none := fun k => Option.eq_none_iff_forall_ne_some.mpr (unwritten k)
    have modulo : ∀ b, BitVec.ofNat 64 (b / wordPlace (addr % 512)) = BitVec.ofNat 64 (at_ b) := fun b =>
      BitVec.eq_of_toNat_eq (by rw [BitVec.toNat_ofNat, BitVec.toNat_ofNat]; exact (Nat.mod_mod _ _).symm)
    refine ⟨?_, fun halted bit => ?_⟩
    · have word : s.PageAt s.eng.dbg.engineHalted addr p none := ⟨up, opened, rfl, page, way, congrArg (Option.map Prod.snd) (unlisted _)⟩
      obtain ⟨u, read, shown⟩ := word.read low free
      rw [Option.elim_none, if_neg (by decide)] at shown
      rw [read, shown, modulo]
      rfl
    · have word : s.PageAt true addr p none := ⟨up, opened, halted, page, way, congrArg (Option.map Prod.snd) (unlisted _)⟩
      obtain ⟨t, wrote, set_, taken, only⟩ := word.write low rfl free data
      refine ⟨t, p.put (addr % 512) data, wrote, set_.page, rfl, rfl, p.put_word (addr % 512) data, only, fun t' after => ?_⟩
      obtain ⟨set', free'⟩ := set_.later taken after
      have held := ofNat_put p (addr % 512) data
      obtain ⟨v, wroteRaw, flipped, taken'⟩ := set'.writeRaw low rfl free' rfl (data ^^^ BitVec.twoPow 64 i) (by rw [held]; exact flip_ne bit)
      refine ⟨v, wroteRaw, fun v' after' => ?_⟩
      obtain ⟨flipped', free''⟩ := flipped.later taken' after'
      obtain ⟨u, read, shown⟩ := flipped'.read low free''
      have one : ones64 (data ^^^ (data ^^^ BitVec.twoPow 64 i)) = 1 := by
        rw [← BitVec.xor_assoc, BitVec.xor_self, BitVec.zero_xor, ones64_twoPow bit]
      rw [held, ofNat_put, Option.elim_some, one, if_pos rfl] at shown
      exact ⟨u, read, shown⟩
  case kept =>
    intro n listed size low
    have steward : space ≠ 6 := by rintro rfl; exact absurd listed (by decide)
    have mem : space ≠ 7 ∧ space ≠ 9 := by constructor <;> rintro rfl <;> exact absurd listed (by decide)
    refine ⟨fun running => ?_, fun halted agree unpaged => ?_⟩
    · have may : (s.eng.captured 9 addr 0 0).mayWrite space addr = false := by
        rw [Eng.mayWrite, if_neg steward, if_neg mem.1, if_neg mem.2]
        exact running
      rw [exec_dbgWrite_mem up opened free size low mem data, may]
      rfl
    · have unheld : s.eng.heldWord space addr = none := by
        by_cases masks : space = 3
        · subst masks
          have none_ : s.eng.siv.cache.find? (fun p => decide (p.way = addr / 512)) = none :=
            List.find?_eq_none.mpr (fun p here => by simpa using unpaged rfl p here)
          simp [Eng.heldWord, none_]
        · exact s.eng.heldWord_none addr steward masks
      obtain ⟨t, wrote, word, shape⟩ := exec_dbgWrite_kept up opened free data listed size low unheld halted agree
      have taken : t.eng.dbg.cmdAt = some t.eng.now := by rw [shape]; rfl
      refine ⟨t, wrote, by rw [shape]; rfl, by rw [shape]; rfl, fun t' after => ?_⟩
      obtain ⟨word', free'⟩ := word.later taken after
      refine ⟨?_, fun bit store => ?_, fun lt bit store => ?_⟩
      · obtain ⟨u, read, shown⟩ := word'.read free' listed size low
        refine ⟨u, read, ?_⟩
        rw [BitVec.xor_self, ones64_zero] at shown
        split at shown <;> exact shown
      · obtain ⟨v, wroteRaw, status, flipped, taken'⟩ := word'.writeRaw (data ^^^ BitVec.twoPow 64 i) free' listed store size low
        refine ⟨v, wroteRaw, status, fun v' after' => ?_⟩
        obtain ⟨flipped', free''⟩ := flipped.later taken' after'
        obtain ⟨u, read, shown⟩ := flipped'.read free'' listed size low
        refine ⟨u, read, ?_⟩
        rw [← BitVec.xor_assoc, BitVec.xor_self, BitVec.zero_xor, ones64_twoPow bit] at shown
        exact shown
      · obtain ⟨v, wroteRaw, -, flipped, taken'⟩ :=
          word'.writeRaw (data ^^^ BitVec.twoPow 64 i ^^^ BitVec.twoPow 64 j) free' listed store size low
        refine ⟨v, wroteRaw, fun v' after' => ?_⟩
        obtain ⟨flipped', free''⟩ := flipped.later taken' after'
        obtain ⟨u, read, shown⟩ := flipped'.read free'' listed size low
        refine ⟨u, read, ?_⟩
        have two : ones64 (data ^^^ (data ^^^ BitVec.twoPow 64 i ^^^ BitVec.twoPow 64 j)) = 2 := by
          rw [BitVec.xor_assoc data, ← BitVec.xor_assoc, BitVec.xor_self, BitVec.zero_xor, ones64_twoPow_two lt bit]
        rw [two] at shown
        exact shown

end Sys2Proof.Machine
end

section
/-!
Edges and the cyclic slot table (O22, O23): accepted writes that take effect, the last for each register copy, and what an edge does
beside them.
-/
namespace Sys2Proof.Machine

/-! ### Writes that take effect -/

/-- A write leaves every other key alone, listed or not. -/
theorem tget_tsetD_ne {α : Type} [DecidableEq α] (t : Tab α) {j k : Nat} (v d : α) (ne : j ≠ k) : tget (tsetD t k v d) j = tget t j := by
  unfold tsetD
  split
  · exact tget_tdel_ne _ ne
  · exact tget_tput_ne _ _ ne

/-- A table of register words with writes made in order. -/
def forcedTab (t : Tab Word) (l : List (Nat × Word)) : Tab Word := l.foldl (fun t x => tsetD t x.1 x.2 (rstWord (x.1 / 65536))) t

theorem forcedTab_append (t : Tab Word) (l m : List (Nat × Word)) : forcedTab t (l ++ m) = forcedTab (forcedTab t l) m := List.foldl_append

/-- The last write of a list to a register copy. -/
def lastTo (l : List (Nat × Word)) (k : Nat) : Option Word := (l.reverse.find? (fun x => decide (x.1 = k))).map Prod.snd

theorem lastTo_cons (x : Nat × Word) (l : List (Nat × Word)) (k : Nat) :
    lastTo (x :: l) k = (lastTo l k).or (if x.1 = k then some x.2 else none) := by
  rw [lastTo, List.reverse_cons, List.find?_append, lastTo]
  by_cases same : x.1 = k <;> cases l.reverse.find? (fun x => decide (x.1 = k)) <;> simp [same]

/-- Each register copy holds the last word written to it. -/
theorem tgetD_forcedTab (t : Tab Word) (l : List (Nat × Word)) (k : Nat) :
    tgetD (forcedTab t l) k (rstWord (k / 65536)) = (lastTo l k).getD (tgetD t k (rstWord (k / 65536))) := by
  induction l generalizing t with
  | nil => rfl
  | cons x l ih =>
    rw [forcedTab, List.foldl_cons, ← forcedTab, ih, lastTo_cons]
    by_cases same : x.1 = k
    · subst same
      cases lastTo l x.1 <;> simp
    · have beside : tgetD (tsetD t x.1 x.2 (rstWord (x.1 / 65536))) k (rstWord (k / 65536)) = tgetD t k (rstWord (k / 65536)) :=
        congrArg (fun v => Option.getD v _) (tget_tsetD_ne t _ _ (Ne.symm same))
      rw [beside, if_neg same, Option.or_none]

/-- A key of a register whose new word does no more than come in force: not the cyclic table's control, a quota or a Cellar limit; and the
low-water mark only while no `Inst` is active. -/
def Eng.PlainKey (e : Eng) (k : Nat) : Prop :=
  k ≠ regKey 0xE020 0 ∧ k / 65536 ≠ 0x6084 ∧ k / 65536 ≠ 0x608C ∧ (k ≠ regKey F.SHV_WM_SHELF_LOW.off 0 ∨ e.activeInsts = [])

theorem Eng.takeEffect_plain (e : Eng) {k : Nat} (w : Word) (plain : e.PlainKey k) :
    e.takeEffect k w = { e with act := tsetD e.act k w (rstWord (k / 65536)) } := by
  obtain ⟨table, quota, cellar, mark⟩ := plain
  unfold Eng.takeEffect
  simp only [table, quota, cellar, false_and, if_false]
  split
  case isTrue low =>
    have none_ : ({ e with act := tsetD e.act k w (rstWord (k / 65536)) } : Eng).activeInsts = [] := mark.resolve_left (not_not_intro low.1)
    rw [none_]
    rfl
  case isFalse => rfl

/-- Writes that only come in force. -/
theorem Eng.foldl_takeEffect_plain (l : List (Nat × Word)) (e : Eng) (plain : ∀ x ∈ l, e.PlainKey x.1) :
    l.foldl (fun e x => e.takeEffect x.1 x.2) e = { e with act := forcedTab e.act l } := by
  induction l generalizing e with
  | nil => rfl
  | cons x l ih =>
    rw [List.foldl_cons, e.takeEffect_plain x.2 (plain x List.mem_cons_self)]
    exact ih _ (fun y hy => plain y (List.mem_cons_of_mem _ hy))

theorem lastTo_isSome {l : List (Nat × Word)} {k : Nat} (here : ∃ y ∈ l, y.1 = k) : (lastTo l k).isSome = true := by
  obtain ⟨y, hy, key⟩ := here
  rw [lastTo, Option.isSome_map, List.find?_isSome]
  exact ⟨y, List.mem_reverse.mpr hy, decide_eq_true key⟩

theorem mem_lastWrites {l : List (Nat × Word × Nat)} {x : Nat × Word × Nat} (here : x ∈ lastWrites l) : x ∈ l := by
  induction l with
  | nil => exact here
  | cons y l ih =>
    rw [lastWrites] at here
    split at here
    case isTrue => exact List.mem_cons_of_mem _ (ih here)
    case isFalse =>
      rcases List.mem_cons.mp here with rfl | rest
      · exact List.mem_cons_self
      · exact List.mem_cons_of_mem _ (ih rest)

/-- The last of the writes to each register copy is the last in the order of acceptance. -/
theorem lastTo_lastWrites (l : List (Nat × Word × Nat)) (k : Nat) :
    lastTo ((lastWrites l).map (fun x => (x.1, x.2.1))) k = lastTo (l.map (fun x => (x.1, x.2.1))) k := by
  induction l with
  | nil => rfl
  | cons x l ih =>
    rw [lastWrites]
    split
    case isTrue again =>
      rw [ih, List.map_cons, lastTo_cons]
      by_cases same : x.1 = k
      · obtain ⟨y, hy, key⟩ := List.any_eq_true.mp again
        have later := lastTo_isSome (l := l.map (fun x => (x.1, x.2.1))) (k := k)
          ⟨_, List.mem_map_of_mem hy, (of_decide_eq_true key).trans same⟩
        rw [Option.or_of_isSome later]
      · rw [if_neg same, Option.or_none]
    case isFalse last => rw [List.map_cons, List.map_cons, lastTo_cons, lastTo_cons, ih]

/-- Registers other than bucket rates start no bucket. -/
theorem foldl_rateStart_none (l : List (Nat × Word × Nat)) (e : Eng) {was : Nat × Word × Nat → Nat} (other : ∀ x ∈ l, x.1 / 65536 ∉ rateOffs) :
    l.foldl (fun e x => e.rateStart (was x) x.1) e = e := by
  induction l with
  | nil => rfl
  | cons x l ih =>
    have none_ : e.rateStart (was x) x.1 = e := by
      simp [Eng.rateStart, other x List.mem_cons_self]
    rw [List.foldl_cons, none_]
    exact ih (fun y hy => other y (List.mem_cons_of_mem _ hy))

/-- What accepted writes do that only come in force. -/
theorem Eng.applyPend_plain (e : Eng) (p : Nat × Word × Nat → Bool)
    (plain : ∀ x ∈ e.pend, p x = true → e.PlainKey x.1 ∧ x.1 / 65536 ∉ rateOffs) :
    ∃ deciding, e.applyPend p = { e with
      act := forcedTab e.act ((lastWrites (e.pend.filter p)).map (fun x => (x.1, x.2.1)))
      pend := e.pend.filter (fun x => !p x)
      kpr := { e.kpr with deciding } } := by
  unfold Eng.applyPend
  dsimp only
  split
  case isTrue none_ =>
    have empty : e.pend.filter p = [] := List.isEmpty_iff.mp none_
    have kept : e.pend.filter (fun x => !p x) = e.pend :=
      List.filter_eq_self.mpr (fun x hx => by simpa using List.filter_eq_nil_iff.mp empty x hx)
    refine ⟨e.kpr.deciding, ?_⟩
    rw [empty, kept]
    rfl
  case isFalse some_ =>
    have among : ∀ x ∈ lastWrites (e.pend.filter p), e.PlainKey x.1 ∧ x.1 / 65536 ∉ rateOffs := fun x hx => by
      have hit := List.mem_filter.mp (mem_lastWrites hx)
      exact plain x hit.1 hit.2
    have taken := Eng.foldl_takeEffect_plain ((lastWrites (e.pend.filter p)).map (fun x => (x.1, x.2.1)))
      { e with pend := e.pend.filter (fun x => !p x) } (fun y hy => by
        obtain ⟨x, hx, rfl⟩ := List.mem_map.mp hy
        exact (among x hx).1)
    rw [List.foldl_map] at taken
    refine ⟨true, ?_⟩
    rw [taken, List.foldl_map, foldl_rateStart_none _ _ (fun x hx => (among x hx).2)]
    rfl

/-- The last of the accepted writes to a register copy, as the statements find it. -/
theorem lastTo_accepted (l : List (Nat × Word × Nat)) (k : Nat) :
    lastTo (l.map (fun x => (x.1, x.2.1))) k = (l.reverse.find? (fun x => decide (x.1 = k))).map (fun x => x.2.1) := by
  rw [lastTo, ← List.map_reverse, List.find?_map, Option.map_map]
  rfl

/-- What is in force once the accepted writes have taken effect. -/
theorem tgetD_accepted (t : Tab Word) (l : List (Nat × Word × Nat)) (k : Nat) :
    tgetD (forcedTab t ((lastWrites l).map (fun x => (x.1, x.2.1)))) k (rstWord (k / 65536)) =
      match l.reverse.find? (fun x => decide (x.1 = k)) with
      | some x => x.2.1
      | none => tgetD t k (rstWord (k / 65536)) := by
  rw [tgetD_forcedTab, lastTo_lastWrites, lastTo_accepted]
  cases l.reverse.find? (fun x => decide (x.1 = k)) <;> rfl

/-! ### Idle edges -/

/-- The next multiple of a period is at or after the Tally. -/
theorem le_roundUp {m p : Nat} (period : 0 < p) : m ≤ roundUp m p := by
  rw [roundUp, if_neg (Nat.ne_of_gt period)]
  have := Nat.div_add_mod (m + p - 1) p
  have := Nat.mod_lt (m + p - 1) period
  rw [Nat.mul_comm]
  omega

theorem roundUp_mod (m : Nat) {p : Nat} (period : 0 < p) : roundUp m p % p = 0 := by
  rw [roundUp, if_neg (Nat.ne_of_gt period), Nat.mul_mod_left]

/-- The engine at an idle edge, before what the edge does. -/
def Eng.atIdle (e : Eng) : Eng :=
  { e.advance (roundUp (max e.now e.nextIdle) 10000) with nextIdle := roundUp (max e.now e.nextIdle) 10000 + 1 }

theorem exec_idleEdge {s : State} (up : s.boot.absent = false) (settled : s.Settled) :
    exec .idleEdge s = .next (s.withEng s.eng.atIdle.idleEdge) := by
  change timed s atIdleEdge = _
  rw [timed_settled s _ settled, atIdleEdge, live_up up]
  rfl

/-- The writes that an idle edge of the engine takes: all that were accepted before it. -/
theorem Eng.idleViews_plain (e : Eng) (idle : e.idle = true) (plain : ∀ x ∈ e.pend, keyInst x.1 = none ∧ e.PlainKey x.1 ∧ x.1 / 65536 ∉ rateOffs) :
    ∃ deciding, e.idleViews = { e with
      act := forcedTab e.act ((lastWrites (e.pend.filter (fun x => decide (x.2.2 < e.now)))).map (fun x => (x.1, x.2.1)))
      pend := e.pend.filter (fun x => decide (e.now ≤ x.2.2))
      kpr := { e.kpr with deciding } } := by
  have taken : ∀ x ∈ e.pend, (decide (x.2.2 < e.now) && (match keyInst x.1 with
      | some i => e.instIdle i
      | none => e.idle)) = decide (x.2.2 < e.now) := fun x hx => by
    rw [(plain x hx).1, idle, Bool.and_true]
  obtain ⟨deciding, views⟩ := e.applyPend_plain (fun x => decide (x.2.2 < e.now) && (match keyInst x.1 with
      | some i => e.instIdle i
      | none => e.idle)) (fun x hx _ => (plain x hx).2)
  have hit := List.filter_congr taken
  have kept : e.pend.filter (fun x => !(decide (x.2.2 < e.now) && (match keyInst x.1 with
      | some i => e.instIdle i
      | none => e.idle))) = e.pend.filter (fun x => decide (e.now ≤ x.2.2)) :=
    List.filter_congr (fun x hx => (congrArg not (taken x hx)).trans (by rw [← decide_not]; exact decide_eq_decide.mpr Nat.not_lt))
  rw [hit, kept] at views
  exact ⟨deciding, views⟩

/-- A change of the Gate, of Keeper and of the views alone. -/
theorem Eng.Only.setViews {us offs : List Nat} (e : Eng) (act : Tab Word) (pend : List (Nat × Word × Nat)) (gat : Gat) (kpr : Kpr) (nextIdle : Nat)
    (gate : 3 ∈ us) (keeper : 12 ∈ us) (views : 18 ∈ us) : e.Only us offs { e with act, pend, gat, kpr, nextIdle } :=
  .of_parts rfl rfl (fun u out => by unfold Eng.partSame; split <;> simp_all)

/-- The first part of O22: an idle edge of the engine. -/
theorem idleEdge_takes {s : State} (up : s.boot.absent = false) (settled : s.Settled) (inactive : s.eng.activeInsts = []) (idle : s.eng.idle = true)
    (plain : ∀ x ∈ s.eng.pend, keyInst x.1 = none ∧ x.1 ≠ regKey 0xE020 0 ∧ x.1 / 65536 ∉ rateOffs) :
    let T := roundUp (max s.eng.now s.eng.nextIdle) 10000
    ∃ t, exec .idleEdge s = .next t ∧ t.eng.now = T ∧ T % 10000 = 0 ∧ t.eng.nextIdle = T + 1 ∧
      t.eng.pend = s.eng.pend.filter (fun x => decide (T ≤ x.2.2)) ∧
      (∀ k, tgetD t.eng.act k (rstWord (k / 65536)) =
        match (s.eng.pend.filter (fun x => decide (x.2.2 < T))).reverse.find? (fun x => decide (x.1 = k)) with
        | some x => x.2.1
        | none => tgetD s.eng.act k (rstWord (k / 65536))) ∧
      t.eng.held = s.eng.held ∧ t.eng.cap = s.eng.cap ∧ t.eng.gat = { s.eng.gat with idles := some [] } ∧ s.Only [0, 3, 12, 17, 18] [] t := by
  intro T
  have reached : s.eng.now ≤ T := Nat.le_trans (Nat.le_max_left _ _) (le_roundUp (by decide))
  have now : s.eng.atIdle.now = T := (Eng.advance_now _ _).trans (Nat.max_eq_right reached)
  have noInst : ∀ k, keyInst k = none → k / 65536 ≠ 0x6084 ∧ k / 65536 ≠ 0x608C := fun k none_ => by
    constructor <;> intro off <;> simp [keyInst, off, instOffs] at none_
  have still : s.eng.atIdle.activeInsts = [] := (Eng.advance_activeInsts ..).trans inactive
  obtain ⟨deciding, views⟩ := s.eng.atIdle.idleViews_plain ((Eng.advance_idle ..).trans idle) (fun x hx => by
    obtain ⟨none_, table, rate⟩ := plain x ((Eng.advance_pend s.eng T) ▸ hx)
    exact ⟨none_, ⟨table, (noInst _ none_).1, (noInst _ none_).2, .inr still⟩, rate⟩)
  have pend : s.eng.atIdle.pend = s.eng.pend := Eng.advance_pend _ T
  have act : s.eng.atIdle.act = s.eng.act := Eng.advance_act _ T
  rw [now, pend, act] at views
  have edge : s.eng.atIdle.idleEdge = { s.eng.atIdle.idleViews with gat := { s.eng.atIdle.idleViews.gat with idles := some [] } } := by
    have none_ : s.eng.atIdle.idleViews.activeInsts = [] := by rw [views]; exact still
    rw [Eng.idleEdge, none_]
    rfl
  rw [views] at edge
  refine ⟨_, exec_idleEdge up settled, ?_⟩
  rw [edge]
  refine ⟨rfl, roundUp_mod _ (by decide), rfl, rfl, fun k => tgetD_accepted _ _ k, Eng.advance_held _ T, Eng.advance_cap _ T, ?_, rfl, rfl, ?_⟩
  · exact congrArg (fun g : Gat => { g with idles := some [] }) (Eng.advance_gat s.eng T)
  · rw [← now]
    exact (Eng.Only.advance s.eng T (by decide) (by decide) (by decide)).trans (.setViews _ _ _ _ _ _ (by decide) (by decide) (by decide))

/-! ### Edges of steps -/

/-- The captured values of plain keys, made in force in order. -/
theorem Eng.foldl_takeCaptured_plain (ks : List Nat) (e : Eng) (plain : ∀ k ∈ ks, e.PlainKey k) :
    ks.foldl (fun e k => e.takeEffect k (tgetD e.cap k (rstWord (k / 65536)))) e =
      { e with act := forcedTab e.act (ks.map (fun k => (k, tgetD e.cap k (rstWord (k / 65536))))) } := by
  induction ks generalizing e with
  | nil => rfl
  | cons k ks ih =>
    rw [List.foldl_cons, e.takeEffect_plain _ (plain k List.mem_cons_self)]
    exact ih _ (fun y hy => plain y (List.mem_cons_of_mem _ hy))

/-- A list of keys, each written once with a word of its own. -/
theorem lastTo_keys (ks : List Nat) (f : Nat → Word) (k : Nat) :
    lastTo (ks.map (fun k => (k, f k))) k = if k ∈ ks then some (f k) else none := by
  induction ks with
  | nil => rfl
  | cons x ks ih =>
    rw [List.map_cons, lastTo_cons, ih]
    by_cases later : k ∈ ks
    · rw [if_pos later, if_pos (List.mem_cons_of_mem _ later), Option.some_or]
    · by_cases same : x = k
      · subst same
        simp [later]
      · simp [later, same, Ne.symm same]

/-- Parked weights that make way change models alone. -/
theorem unpark_models (need fuel : Nat) (e : Eng) : ∃ models, unpark e need fuel = { e with shv := { e.shv with models } } := by
  induction fuel generalizing e with
  | zero => exact ⟨_, rfl⟩
  | succ n ih =>
    rw [unpark]
    split
    case isTrue => exact ⟨_, rfl⟩
    case isFalse =>
      split
      case h_1 => exact ⟨_, rfl⟩
      case h_2 p _ =>
        obtain ⟨models, freed⟩ := ih (e.setModel p.1 { p.2 with state := 0, chipBytes := 0, weightsIn := false })
        exact ⟨models, freed⟩

/-- A new quota comes in force: Shelver alone changes, and of its instances the quota of the one, as far as Store backs it. -/
theorem Eng.takeEffect_quota (e : Eng) (i : Nat) (w : Word) (small : i < 65536) :
    ∃ shv, e.takeEffect (regKey 0x6084 i) w = { e with act := tsetD e.act (regKey 0x6084 i) w (rstWord 0x6084), shv } ∧
      (tgetD e.act (regKey 0x6084 i) (rstWord 0x6084) = w → shv = e.shv) ∧
      ((e.inst i).active = true → tgetD e.act (regKey 0x6084 i) (rstWord 0x6084) ≠ w →
        tgetD shv.insts i {} = { e.shvi i with q := max (e.shvi i).qLoad (min (bitsOf w.toNat 23 0) (e.quotaRoom i)) }) := by
  have off : regKey 0x6084 i / 65536 = 0x6084 := by rw [regKey]; omega
  have sel : regKey 0x6084 i % 65536 = i := by rw [regKey]; omega
  have table : regKey 0x6084 i ≠ regKey 0xE020 0 := by simp only [regKey]; omega
  have mark : regKey 0x6084 i ≠ regKey F.SHV_WM_SHELF_LOW.off 0 := by simp only [regKey, F.SHV_WM_SHELF_LOW]; omega
  unfold Eng.takeEffect
  simp only [off, sel, table, mark, false_and, if_false, true_and]
  by_cases same : tgetD e.act (regKey 0x6084 i) (rstWord 0x6084) = w
  · exact ⟨e.shv, by simp [same], fun _ => rfl, fun _ other => absurd same other⟩
  · rw [if_pos same, Eng.quotaTake]
    cases active : (e.inst i).active
    case false =>
      have inactive : (({ e with act := tsetD e.act (regKey 0x6084 i) w (rstWord 0x6084) } : Eng).inst i).active = false := active
      rw [inactive]
      exact ⟨_, rfl, fun he => absurd he same, fun h => absurd h (by simp)⟩
    case true =>
      have active' : (({ e with act := tsetD e.act (regKey 0x6084 i) w (rstWord 0x6084) } : Eng).inst i).active = true := active
      rw [active']
      have asked : ({ e with act := tsetD e.act (regKey 0x6084 i) w (rstWord 0x6084) } : Eng).av F.SHV_INST_QUOTA_BLOCKS i = bitsOf w.toNat 23 0 :=
        congrArg (fun w : Word => bitsOf w.toNat 23 0) (tgetD_tsetD_same _ _ _ _)
      simp only [Bool.not_true, Bool.false_eq_true, if_false, asked]
      generalize made : ({ e with act := tsetD e.act (regKey 0x6084 i) w (rstWord 0x6084) } : Eng).setShvi i _ = y
      obtain ⟨models, freed⟩ := unpark_models 0 y.shv.models.length y
      rw [freed, ← made]
      exact ⟨_, rfl, fun he => absurd he same, fun _ _ => tgetD_tsetD_same _ _ _ _⟩

/-- A new Cellar limit comes in force: Shelver notes what is to be balanced, and of its instances nothing changes. -/
theorem Eng.takeEffect_cellar (e : Eng) (i : Nat) (w : Word) (small : i < 65536) :
    ∃ shv, e.takeEffect (regKey 0x608C i) w = { e with act := tsetD e.act (regKey 0x608C i) w (rstWord 0x608C), shv } ∧
      (tgetD e.act (regKey 0x608C i) (rstWord 0x608C) = w → shv = e.shv) ∧ shv.insts = e.shv.insts := by
  have off : regKey 0x608C i / 65536 = 0x608C := by rw [regKey]; omega
  have table : regKey 0x608C i ≠ regKey 0xE020 0 := by simp only [regKey]; omega
  have mark : regKey 0x608C i ≠ regKey F.SHV_WM_SHELF_LOW.off 0 := by simp only [regKey, F.SHV_WM_SHELF_LOW]; omega
  have quota : ¬ (0x608C = 0x6084) := by decide
  unfold Eng.takeEffect
  simp only [off, table, mark, quota, false_and, if_false, true_and]
  by_cases same : tgetD e.act (regKey 0x608C i) (rstWord 0x608C) = w
  · exact ⟨e.shv, by simp [same], fun _ => rfl, rfl⟩
  · rw [if_pos same]
    exact ⟨_, rfl, fun he => absurd he same, rfl⟩

/-- The keys of an `Inst`'s view that only come in force. -/
def plainInstKeys (i : Nat) : List Nat :=
  regKey (0xE080 + 4 * i) 0 :: [0x3088, 0x308C, 0x4044, 0x4048, 0x404C, 0x4050, 0x4054].map (fun o => regKey o i)

theorem instKeys_eq (i : Nat) : instKeys i = plainInstKeys i ++ [regKey 0x6084 i, regKey 0x608C i] := rfl

theorem plainInstKeys_plain (e : Eng) {i : Nat} (low : i < 16) : ∀ k ∈ plainInstKeys i, e.PlainKey k := by
  intro k hk
  simp only [plainInstKeys, List.mem_cons, List.map_cons, List.map_nil, List.not_mem_nil, or_false, regKey] at hk
  refine ⟨?_, ?_, ?_, .inl ?_⟩
  · rw [regKey]; omega
  · omega
  · omega
  · simp only [regKey, F.SHV_WM_SHELF_LOW]; omega

/-- The keys of an `Inst`'s view are of that view. -/
theorem keyInst_instKeys {i k : Nat} (low : i < 16) (view : k ∈ instKeys i) : keyInst k = some i := by
  simp only [instKeys, instOffs, List.mem_cons, List.map_cons, List.map_nil, List.not_mem_nil, or_false, regKey] at view
  rcases view with rfl | view
  · have off : ((0xE080 + 4 * i) * 65536 + 0) / 65536 = 0xE080 + 4 * i := by omega
    have outside : instOffs.contains (0xE080 + 4 * i) = false := by
      rw [← Bool.not_eq_true, List.contains_iff_mem]
      simp only [instOffs, List.mem_cons, List.not_mem_nil, or_false]
      omega
    have index : (0xE080 + 4 * i - 0xE080) / 4 = i := by omega
    rw [keyInst]
    simp only [off, outside, Bool.false_eq_true, if_false]
    rw [if_pos ⟨by omega, by omega⟩, index]
  · have off : instOffs.contains (k / 65536) = true := by
      rw [List.contains_iff_mem]
      simp only [instOffs, List.mem_cons, List.not_mem_nil, or_false]
      omega
    rw [keyInst]
    simp only [off, if_true]
    congr 1
    omega

/-- The captured values of an `Inst`'s view come in force. -/
theorem Eng.takeCaptured (e : Eng) {i : Nat} (low : i < 16) :
    ∃ shv, (instKeys i).foldl (fun e k => e.takeEffect k (tgetD e.cap k (rstWord (k / 65536)))) e =
        { e with act := forcedTab e.act ((instKeys i).map (fun k => (k, tgetD e.cap k (rstWord (k / 65536))))), shv } ∧
      (tgetD e.cap (regKey 0x6084 i) (rstWord 0x6084) = tgetD e.act (regKey 0x6084 i) (rstWord 0x6084) →
        tgetD e.cap (regKey 0x608C i) (rstWord 0x608C) = tgetD e.act (regKey 0x608C i) (rstWord 0x608C) → shv = e.shv) ∧
      ((e.inst i).active = true →
        tgetD e.cap (regKey 0x6084 i) (rstWord 0x6084) ≠ tgetD e.act (regKey 0x6084 i) (rstWord 0x6084) →
        tgetD shv.insts i {} = { e.shvi i with
          q := max (e.shvi i).qLoad (min (bitsOf (tgetD e.cap (regKey 0x6084 i) (rstWord 0x6084)).toNat 23 0) (e.quotaRoom i)) }) := by
  have small : i < 65536 := by omega
  have offQ : regKey 0x6084 i / 65536 = 0x6084 := by rw [regKey]; omega
  have offC : regKey 0x608C i / 65536 = 0x608C := by rw [regKey]; omega
  have notQ : regKey 0x6084 i ∉ plainInstKeys i := fun h => ((plainInstKeys_plain e low) _ h).2.1 offQ
  have notC : regKey 0x608C i ∉ plainInstKeys i := fun h => ((plainInstKeys_plain e low) _ h).2.2.1 offC
  have apart : regKey 0x608C i ≠ regKey 0x6084 i := by simp only [regKey]; omega
  have taken := e.foldl_takeCaptured_plain (plainInstKeys i) (plainInstKeys_plain e low)
  generalize hact : forcedTab e.act ((plainInstKeys i).map (fun k => (k, tgetD e.cap k (rstWord (k / 65536))))) = act at taken
  have actQ : tgetD act (regKey 0x6084 i) (rstWord 0x6084) = tgetD e.act (regKey 0x6084 i) (rstWord 0x6084) := by
    have found := tgetD_forcedTab e.act ((plainInstKeys i).map (fun k => (k, tgetD e.cap k (rstWord (k / 65536))))) (regKey 0x6084 i)
    rw [hact, lastTo_keys, if_neg notQ, offQ] at found
    exact found
  have actC : tgetD act (regKey 0x608C i) (rstWord 0x608C) = tgetD e.act (regKey 0x608C i) (rstWord 0x608C) := by
    have found := tgetD_forcedTab e.act ((plainInstKeys i).map (fun k => (k, tgetD e.cap k (rstWord (k / 65536))))) (regKey 0x608C i)
    rw [hact, lastTo_keys, if_neg notC, offC] at found
    exact found
  obtain ⟨shvQ, quota, sameQ, newQ⟩ := Eng.takeEffect_quota { e with act } i (tgetD e.cap (regKey 0x6084 i) (rstWord 0x6084)) small
  obtain ⟨shvC, cellar, sameC, instsC⟩ := Eng.takeEffect_cellar
    { e with act := tsetD act (regKey 0x6084 i) (tgetD e.cap (regKey 0x6084 i) (rstWord 0x6084)) (rstWord 0x6084), shv := shvQ } i
    (tgetD e.cap (regKey 0x608C i) (rstWord 0x608C)) small
  refine ⟨shvC, ?_, fun hq hc => ?_, fun active other => ?_⟩
  · rw [instKeys_eq, List.foldl_append, taken, List.map_append, forcedTab_append, hact]
    simp only [forcedTab, List.foldl_cons, List.foldl_nil, List.map_cons, List.map_nil, offQ, offC]
    exact (congrArg (fun y : Eng => y.takeEffect (regKey 0x608C i) (tgetD y.cap (regKey 0x608C i) (rstWord 0x608C))) quota).trans cellar
  · have unchanged := sameC (((congrArg (Option.getD · _) (tget_tsetD_ne _ _ _ apart)).trans actC).trans hc.symm)
    exact unchanged.trans (sameQ (actQ.trans hq.symm))
  · rw [instsC]
    exact newQ active (fun same => other (same.symm.trans actQ))

/-- What the edge of a step does to the views of its `Inst` and of the engine. -/
theorem Eng.edgeViews_plain (e : Eng) {i : Nat} (low : i < 16)
    (plain : ∀ x ∈ e.pend, ((keyInst x.1).isNone && decide (x.2.2 < e.now)) = true →
      x.1 ≠ regKey 0xE020 0 ∧ x.1 ≠ regKey 0x6050 0 ∧ x.1 / 65536 ∉ rateOffs) :
    ∃ shv deciding, e.edgeViews i = { e with
        act := forcedTab (forcedTab e.act ((instKeys i).map (fun k => (k, tgetD e.cap k (rstWord (k / 65536))))))
          ((lastWrites (e.pend.filter (fun x => (keyInst x.1).isNone && decide (x.2.2 < e.now)))).map (fun x => (x.1, x.2.1)))
        pend := e.pend.filter (fun x => !((keyInst x.1).isNone && decide (x.2.2 < e.now)) && decide (keyInst x.1 ≠ some i)) ++
          (e.held.filter (fun x => decide (x.1 = i))).map (fun x => (x.2.1, x.2.2, e.now))
        held := e.held.filter (fun x => decide (x.1 ≠ i))
        shv
        kpr := { e.kpr with deciding }
        cmp := { e.cmp with insts := tsetD e.cmp.insts i { e.inst i with win := false } {} } } ∧
      (tgetD e.cap (regKey 0x6084 i) (rstWord 0x6084) = tgetD e.act (regKey 0x6084 i) (rstWord 0x6084) →
        tgetD e.cap (regKey 0x608C i) (rstWord 0x608C) = tgetD e.act (regKey 0x608C i) (rstWord 0x608C) → shv = e.shv) ∧
      ((e.inst i).active = true →
        tgetD e.cap (regKey 0x6084 i) (rstWord 0x6084) ≠ tgetD e.act (regKey 0x6084 i) (rstWord 0x6084) →
        tgetD shv.insts i {} = { e.shvi i with
          q := max (e.shvi i).qLoad (min (bitsOf (tgetD e.cap (regKey 0x6084 i) (rstWord 0x6084)).toNat 23 0) (e.quotaRoom i)) }) := by
  obtain ⟨shv, captured, same, newQ⟩ := Eng.takeCaptured { e with pend := e.pend.filter (fun x => decide (keyInst x.1 ≠ some i)) } low
  have engineWide : ∀ k, (keyInst k).isNone = true → k / 65536 ≠ 0x6084 ∧ k / 65536 ≠ 0x608C := fun k none_ => by
    constructor <;> intro off <;> simp [keyInst, off, instOffs] at none_
  generalize hact : forcedTab e.act ((instKeys i).map (fun k => (k, tgetD e.cap k (rstWord (k / 65536))))) = act at captured ⊢
  obtain ⟨deciding, taken⟩ := Eng.applyPend_plain
    { e with pend := e.pend.filter (fun x => decide (keyInst x.1 ≠ some i)), act, shv }
    (fun x => (keyInst x.1).isNone && decide (x.2.2 < e.now)) (fun x hx hit => by
      obtain ⟨table, mark, rate⟩ := plain x (List.mem_filter.mp hx).1 hit
      have wide := engineWide x.1 (Bool.and_eq_true_iff.mp hit).1
      exact ⟨⟨table, wide.1, wide.2, .inl mark⟩, rate⟩)
  have hits : (e.pend.filter (fun x => decide (keyInst x.1 ≠ some i))).filter (fun x => (keyInst x.1).isNone && decide (x.2.2 < e.now)) =
      e.pend.filter (fun x => (keyInst x.1).isNone && decide (x.2.2 < e.now)) := by
    rw [List.filter_filter]
    refine List.filter_congr (fun x _ => ?_)
    cases keyInst x.1 <;> simp
  have kept : (e.pend.filter (fun x => decide (keyInst x.1 ≠ some i))).filter (fun x => !((keyInst x.1).isNone && decide (x.2.2 < e.now))) =
      e.pend.filter (fun x => !((keyInst x.1).isNone && decide (x.2.2 < e.now)) && decide (keyInst x.1 ≠ some i)) := List.filter_filter
  rw [hits, kept] at taken
  refine ⟨shv, deciding, ?_, same, newQ⟩
  have views : e.edgeViews i = (({ e with pend := e.pend.filter (fun x => decide (keyInst x.1 ≠ some i)), act, shv } : Eng).applyPend
      (fun x => (keyInst x.1).isNone && decide (x.2.2 < e.now))).closeWindow i := by
    rw [Eng.edgeViews]
    exact congrArg (fun y : Eng => (y.applyPend (fun x => (keyInst x.1).isNone && decide (x.2.2 < y.now))).closeWindow i) captured
  rw [views, taken]
  rfl

/-- What Store has for quotas hangs on its size, the Shelver and the instances. -/
theorem Eng.quotaRoom_congr {e e' : Eng} (i : Nat) (size : e'.fv F.SHV_STORE_SIZE_GIB = e.fv F.SHV_STORE_SIZE_GIB) (shv : e'.shv = e.shv)
    (cmp : e'.cmp = e.cmp) : e'.quotaRoom i = e.quotaRoom i := by
  unfold Eng.quotaRoom Eng.storeArea Eng.weightHeld Eng.quotaOthers Eng.quota Eng.groupBytes Eng.shvL Eng.instModel Eng.model Eng.shvi Eng.inst
  rw [size, shv, cmp]

/-- The step of an `Inst` whose edge it is. -/
def Eng.atEdge (e : Eng) (i : Nat) (st : Step) : Eng := (e.advance st.edge).edgeViews i

/-- The step has started, and the array is told. -/
def Eng.begun (e : Eng) (i : Nat) (st : Step) : Eng :=
  (e.modInst i (fun x => { x with step := some { st with started := true } })).tell (.startStep i st.num)

theorem Eng.inst_modInst (e : Eng) (i j : Nat) (f : Inst → Inst) : (e.modInst i f).inst j = if j = i then f (e.inst i) else e.inst j :=
  tgetD_tsetD _ _ _ _ _

theorem Eng.inst_begun (e : Eng) (i j : Nat) (st : Step) :
    (e.begun i st).inst j = if j = i then { e.inst i with step := some { st with started := true } } else e.inst j :=
  e.inst_modInst i j (fun x => { x with step := some { st with started := true } })

theorem Eng.begun_only {us offs : List Nat} (e : Eng) (i : Nat) (st : Step) (composer : 4 ∈ us) : e.Only us offs (e.begun i st) :=
  (Eng.Only.setCmp e _ composer).trans (.tell _ _)

theorem exec_stepEdge {s : State} {i : Nat} {st : Step} (up : s.boot.absent = false) (settled : s.Settled) (step : (s.eng.inst i).step = some st)
    (waits : st.started = false) (aligned : s.eng.aligned i = true) :
    exec (.stepEdge i) s = .next (s.withEng ((((s.eng.atEdge i st).begun i st).estEdge i).markEdge i)) := by
  change timed s (atStepEdge i) = _
  rw [timed_settled s _ settled, atStepEdge, live_up up, Eng.stepEdge]
  simp only [step, waits, aligned]
  rfl

/-- A change of the views, of the Composer's instances, of the Gate, the Shelver and Keeper. -/
theorem Eng.Only.setEdge {us offs : List Nat} (e : Eng) (act : Tab Word) (pend : List (Nat × Word × Nat)) (held : List (Nat × Nat × Word)) (shv : Shv)
    (kpr : Kpr) (cmp : Cmp) (composer : 4 ∈ us) (shelver : 6 ∈ us) (keeper : 12 ∈ us) (views : 18 ∈ us) :
    e.Only us offs { e with act, pend, held, shv, kpr, cmp } :=
  .of_parts rfl rfl (fun u out => by unfold Eng.partSame; split <;> simp_all)

/-- STEP_EST moves, and the edge is kept for the next one. -/
theorem Eng.estEdge_eq (e : Eng) (i : Nat) :
    ∃ regs, e.estEdge i = ({ e with regs } : Eng).modInst i (fun x => { x with lastEdge := some e.now }) ∧
      (∀ was, (e.inst i).lastEdge = some was →
        regs = (e.poke F.GAT_INST_STEP_EST_EST (stepEst (e.fv F.GAT_INST_STEP_EST_EST i) (e.now - was)) i).regs) ∧
      ((e.inst i).lastEdge = none → regs = e.regs) := by
  unfold Eng.estEdge
  dsimp only
  split
  case h_1 t last =>
    refine ⟨_, rfl, fun was same => ?_, fun none_ => by simp [last] at none_⟩
    obtain rfl : t = was := Option.some.inj (last.symm.trans same)
    rfl
  case h_2 last => exact ⟨_, rfl, fun was same => by simp [last] at same, fun _ => rfl⟩

theorem Eng.inst_estEdge (e : Eng) (i j : Nat) :
    (e.estEdge i).inst j = if j = i then { e.inst i with lastEdge := some e.now } else e.inst j := by
  obtain ⟨regs, eq, -, -⟩ := e.estEdge_eq i
  rw [eq]
  exact Eng.inst_modInst _ i j (fun x => { x with lastEdge := some e.now })

theorem Eng.fv_congr {e e' : Eng} (same : e'.regs = e.regs) (f : Fld) (sel : Nat) : e'.fv f sel = e.fv f sel :=
  congrArg (fun regs => bitsOf (tgetD regs (regKey f.off sel) (rstWord f.off)).toNat f.hi f.lo) same

theorem Eng.estEdge_est (e : Eng) (i : Nat) {was : Nat} (last : (e.inst i).lastEdge = some was) :
    (e.estEdge i).fv F.GAT_INST_STEP_EST_EST i = stepEst (e.fv F.GAT_INST_STEP_EST_EST i) (e.now - was) % 2 ^ 24 := by
  obtain ⟨regs, eq, moved, -⟩ := e.estEdge_eq i
  have regsEq : (e.estEdge i).regs = (e.poke F.GAT_INST_STEP_EST_EST (stepEst (e.fv F.GAT_INST_STEP_EST_EST i) (e.now - was)) i).regs :=
    (congrArg Eng.regs eq).trans (moved was last)
  exact (Eng.fv_congr regsEq _ _).trans (Eng.fv_poke_same _ _ _ _ (by decide))

theorem Eng.estEdge_only {us offs : List Nat} (e : Eng) {i : Nat} (low : i < 16) (composer : 4 ∈ us) (est : 0x3084 ∈ offs) :
    e.Only us offs (e.estEdge i) := by
  obtain ⟨regs, eq, moved, kept⟩ := e.estEdge_eq i
  rw [eq]
  refine Eng.Only.trans ?_ (.setCmp _ _ composer)
  cases last : (e.inst i).lastEdge with
  | none => rw [kept last]; exact .refl _
  | some was => rw [moved was last]; exact .poke _ _ _ _ (by omega) est

theorem Eng.markEdge_only {us offs : List Nat} (e : Eng) (i : Nat) (gate : 3 ∈ us) : e.Only us offs (e.markEdge i) :=
  .of_parts rfl rfl (fun u out => by unfold Eng.partSame; split <;> simp_all [Eng.markEdge])

/-- The second part of O22: the edge of a step. -/
theorem stepEdge_takes {s : State} {i : Nat} {st : Step} (up : s.boot.absent = false) (settled : s.Settled) (low : i < 16)
    (step : (s.eng.inst i).step = some st) (waits : st.started = false) (aligned : s.eng.aligned i = true) :
    let e := s.eng
    let now := max e.now st.edge
    let hit := fun (x : Nat × Word × Nat) => (keyInst x.1).isNone && decide (x.2.2 < now)
    (∀ x ∈ e.pend, hit x = true → x.1 ≠ regKey 0xE020 0 ∧ x.1 ≠ regKey 0x6050 0 ∧ x.1 / 65536 ∉ rateOffs) →
    let quota := fun (view : Tab Word) => tgetD view (regKey 0x6084 i) (rstWord 0x6084)
    let cellar := fun (view : Tab Word) => tgetD view (regKey 0x608C i) (rstWord 0x608C)
    ∃ t, exec (.stepEdge i) s = .next t ∧ t.eng.now = now ∧
      t.eng.inst i = { e.inst i with step := some { st with started := true }, win := false, lastEdge := some now } ∧
      (∀ j, j ≠ i → t.eng.inst j = e.inst j) ∧
      (∀ k, tgetD t.eng.act k (rstWord (k / 65536)) =
        if k ∈ instKeys i then tgetD e.cap k (rstWord (k / 65536))
        else match (e.pend.filter hit).reverse.find? (fun x => decide (x.1 = k)) with
          | some x => x.2.1
          | none => tgetD e.act k (rstWord (k / 65536))) ∧
      t.eng.pend = e.pend.filter (fun x => !hit x && decide (keyInst x.1 ≠ some i)) ++
        (e.held.filter (fun x => decide (x.1 = i))).map (fun x => (x.2.1, x.2.2, now)) ∧
      t.eng.held = e.held.filter (fun x => decide (x.1 ≠ i)) ∧ t.eng.cap = e.cap ∧
      t.eng.out = .array (.startStep i st.num) :: e.out ∧
      (∀ was, (e.inst i).lastEdge = some was → t.eng.fv F.GAT_INST_STEP_EST_EST i =
        stepEst (e.fv F.GAT_INST_STEP_EST_EST i) (now - was) % 2 ^ 24) ∧
      (quota e.cap = quota e.act → cellar e.cap = cellar e.act → t.eng.shv = e.shv) ∧
      ((e.inst i).active = true → quota e.cap ≠ quota e.act →
        t.eng.shvi i = { e.shvi i with q := max (e.shvi i).qLoad (min (bitsOf (quota e.cap).toNat 23 0) (e.quotaRoom i)) }) ∧
      t.eng.gat = { e.gat with edges := sinsert e.gat.edges i } ∧ s.Only [0, 3, 4, 6, 12, 17, 18] [0x3084] t := by
  intro e now hit plain quota cellar
  have nowEq : (e.advance st.edge).now = now := Eng.advance_now _ _
  have pendEq : (e.advance st.edge).pend = e.pend := Eng.advance_pend _ _
  obtain ⟨shv, deciding, views, same, newQ⟩ := (e.advance st.edge).edgeViews_plain low (by rw [nowEq, pendEq]; exact plain)
  have actEq : (e.advance st.edge).act = e.act := Eng.advance_act _ _
  have capEq : (e.advance st.edge).cap = e.cap := Eng.advance_cap _ _
  have heldEq : (e.advance st.edge).held = e.held := Eng.advance_held _ _
  have cmpEq : (e.advance st.edge).cmp = e.cmp := Eng.advance_cmp _ _
  have shvEq : (e.advance st.edge).shv = e.shv := Eng.advance_shv _ _
  have outEq : (e.advance st.edge).out = e.out := Eng.advance_out _ _
  have gatEq : (e.advance st.edge).gat = e.gat := Eng.advance_gat _ _
  have instEq : ∀ j, (e.advance st.edge).inst j = e.inst j := fun j => congrArg (fun c : Cmp => tgetD c.insts j {}) cmpEq
  have roomEq : (e.advance st.edge).quotaRoom i = e.quotaRoom i :=
    Eng.quotaRoom_congr i (Eng.advance_fv _ _ _ _ (by decide) (by decide)) shvEq cmpEq
  have estEq : (e.advance st.edge).fv F.GAT_INST_STEP_EST_EST i = e.fv F.GAT_INST_STEP_EST_EST i :=
    Eng.advance_fv _ _ _ _ (by omega) (by decide)
  have only := Eng.Only.advance (us := [0, 3, 4, 6, 12, 17, 18]) (offs := [0x3084]) e st.edge (by decide) (by decide) (by decide)
  rw [show (e.advance st.edge).shvi i = e.shvi i from congrArg (fun c : Shv => tgetD c.insts i {}) shvEq, roomEq, instEq i] at newQ
  rw [actEq, capEq] at same newQ
  rw [nowEq, pendEq, actEq, capEq, heldEq] at views
  rw [shvEq] at same
  refine ⟨_, exec_stepEdge up settled step waits aligned, ?_⟩
  have edge : s.eng.atEdge i st = _ := views
  generalize s.eng.atEdge i st = y at edge ⊢
  generalize e.advance st.edge = a at *
  have yNow : y.now = now := edge ▸ rfl
  have yEst : y.fv F.GAT_INST_STEP_EST_EST i = e.fv F.GAT_INST_STEP_EST_EST i := edge ▸ estEq
  have yInst : ∀ j, y.inst j = if j = i then { e.inst i with win := false } else e.inst j := fun j => by
    rw [edge, ← instEq i, ← instEq j]
    exact a.inst_modInst i j (fun x => { x with win := false })
  have yOnly : e.Only [0, 3, 4, 6, 12, 17, 18] [0x3084] y := by
    rw [edge, ← nowEq, ← capEq]
    exact only.trans (.setEdge (us := [0, 3, 4, 6, 12, 17, 18]) a _ _ _ _ _ _ (by decide) (by decide) (by decide) (by decide))
  have yAct : y.act = _ := congrArg Eng.act edge
  have yPend : y.pend = _ := congrArg Eng.pend edge
  have yHeld : y.held = _ := congrArg Eng.held edge
  have yCap : y.cap = _ := congrArg Eng.cap edge
  have yShv : y.shv = _ := congrArg Eng.shv edge
  have yGat : y.gat = e.gat := edge ▸ gatEq
  have yOut : y.out = e.out := edge ▸ outEq
  have beganInst : ∀ j, (y.begun i st).inst j =
      if j = i then { e.inst i with step := some { st with started := true }, win := false } else e.inst j := fun j => by
    rw [Eng.inst_begun, yInst i, yInst j, if_pos rfl]
    split <;> rfl
  have only := yOnly.trans (y.begun_only i st (by decide))
  obtain ⟨regs, moved, -, -⟩ := (y.begun i st).estEdge_eq i
  refine ⟨?_, ?_, fun j other => ?_, fun k => ?_, ?_, ?_, ?_, ?_, fun was last => ?_, fun hq hc => ?_, fun active other => ?_, ?_, ?_⟩
  · rw [moved]; exact yNow
  · change ((y.begun i st).estEdge i).inst i = _
    rw [Eng.inst_estEdge, if_pos rfl, beganInst i, if_pos rfl, show (y.begun i st).now = now from yNow]
  · change ((y.begun i st).estEdge i).inst j = _
    rw [Eng.inst_estEdge, if_neg other, beganInst j, if_neg other]
  · rw [moved]
    change tgetD y.act _ _ = _
    rw [yAct, tgetD_accepted, tgetD_forcedTab, lastTo_keys]
    by_cases view : k ∈ instKeys i
    · have none_ : (e.pend.filter (fun x => (keyInst x.1).isNone && decide (x.2.2 < now))).reverse.find? (fun x => decide (x.1 = k)) = none :=
        List.find?_eq_none.mpr (fun x hx => by
          have wide := (Bool.and_eq_true_iff.mp (List.mem_filter.mp (List.mem_reverse.mp hx)).2).1
          intro same
          rw [of_decide_eq_true same, keyInst_instKeys low view] at wide
          exact absurd wide (by simp))
      rw [if_pos view, if_pos view, none_]
      rfl
    · rw [if_neg view, if_neg view]
      rfl
  · rw [moved]; exact yPend
  · rw [moved]; exact yHeld
  · rw [moved]; exact yCap
  · rw [moved]; exact congrArg (List.cons _) yOut
  · have last' : ((y.begun i st).inst i).lastEdge = some was := by rw [beganInst, if_pos rfl]; exact last
    refine (Eng.fv_congr (e' := _) (e := (y.begun i st).estEdge i) rfl _ _).trans (((y.begun i st).estEdge_est i last').trans ?_)
    rw [show (y.begun i st).fv F.GAT_INST_STEP_EST_EST i = _ from yEst, show (y.begun i st).now = now from yNow]
  · rw [moved]; exact yShv.trans (same hq hc)
  · rw [moved]
    exact (congrArg (fun c : Shv => tgetD c.insts i {}) yShv).trans (newQ active other)
  · rw [moved]; exact congrArg (fun g : Gat => { g with edges := sinsert g.edges i }) yGat
  · exact ⟨rfl, rfl, (only.trans ((y.begun i st).estEdge_only low (by decide) (by decide))).trans (Eng.markEdge_only _ i (by decide))⟩

/-- Settles O22: an idle edge takes the accepted writes in order, and the edge of a step the captured view, then the engine-wide writes. -/
theorem edgesPutWritesInForce : Obligations.EdgesPutWritesInForce := by
  intro i st s up settled
  exact ⟨fun inactive idle plain => idleEdge_takes up settled inactive idle plain,
    fun low step waits aligned => stepEdge_takes up settled low step waits aligned⟩

end Sys2Proof.Machine
end
section
/-!
The cyclic slot table (O23): entries, frame boundaries and the starts of slots.
-/
namespace Sys2Proof.Machine

/-! ### Entries -/

theorem exec_cstEntryCommit {s : State} {data lo : Word} (up : s.boot.absent = false) (held : tget s.eng.pairLow 0xE034 = some lo) :
    exec (.cstEntryCommit data) s = .next (s.withEng
      (({ s.eng with pairLow := tdel s.eng.pairLow 0xE034 } : Eng).cstCommit (lo.toNat + two32 * data.toNat))) := by
  change execCstEntryCommit data s = _
  rw [execCstEntryCommit, live_up up]
  simp only [held]

/-- An entry of a bank that may be written. -/
theorem Eng.cstCommit_free (e : Eng) (v : Nat) (free : e.fb F.TAL_CST_CTL_EN = false ∨ e.fb F.TAL_CST_ADDR_BANK_SEL ≠ e.tal.activeBank) :
    e.cstCommit v =
      let w := BitVec.ofNat 64 (v % 2 ^ 39)
      let n := e.fv F.TAL_CST_ADDR_SLOT
      if e.fb F.TAL_CST_ADDR_BANK_SEL then { e with tal := { e.tal with bank1 := tsetD e.tal.bank1 n w 0 } }
      else { e with tal := { e.tal with bank0 := tsetD e.tal.bank0 n w 0 } } := by
  have open_ : ¬(e.fb F.TAL_CST_CTL_EN = true ∧ e.fb F.TAL_CST_ADDR_BANK_SEL = e.tal.activeBank) := fun ⟨en, active⟩ =>
    free.elim (fun off => by rw [off] at en; exact absurd en (by simp)) (fun other => other active)
  rw [Eng.cstCommit]
  exact if_neg open_

/-- The first part of O23: an entry is committed. -/
theorem cstEntryCommit_sets {s : State} {data lo : Word} (up : s.boot.absent = false) (held : tget s.eng.pairLow 0xE034 = some lo)
    (free : s.eng.fb F.TAL_CST_CTL_EN = false ∨ s.eng.fb F.TAL_CST_ADDR_BANK_SEL ≠ s.eng.tal.activeBank) :
    let e := s.eng
    let bank := e.fb F.TAL_CST_ADDR_BANK_SEL
    let n := e.fv F.TAL_CST_ADDR_SLOT
    ∃ t, exec (.cstEntryCommit data) s = .next t ∧
      tgetD (t.eng.cstBank bank) n 0 = BitVec.ofNat 64 ((lo.toNat + 2 ^ 32 * data.toNat) % 2 ^ 39) ∧
      (∀ k, k ≠ n → tgetD (t.eng.cstBank bank) k 0 = tgetD (e.cstBank bank) k 0) ∧ t.eng.cstBank (!bank) = e.cstBank (!bank) ∧
      tget t.eng.pairLow 0xE034 = none ∧
      t = s.withEng { e with
        pairLow := t.eng.pairLow, tal := { e.tal with bank0 := t.eng.tal.bank0, bank1 := t.eng.tal.bank1 } } := by
  intro e bank n
  have committed := ({ e with pairLow := tdel e.pairLow 0xE034 } : Eng).cstCommit_free (lo.toNat + two32 * data.toNat) free
  have ran := exec_cstEntryCommit (data := data) up held
  rw [committed] at ran
  cases hb : e.fb F.TAL_CST_ADDR_BANK_SEL
  · refine ⟨_, ran.trans (congrArg (fun y => Host.Outcome.next (s.withEng y)) (if_neg (ne_true_of_eq_false hb))), ?_⟩
    rw [show bank = false from hb]
    exact ⟨tgetD_tsetD_same _ _ _ _, fun k other => tgetD_tsetD_ne _ _ _ other, rfl, tget_tdel_same _ _, rfl⟩
  · refine ⟨_, ran.trans (congrArg (fun y => Host.Outcome.next (s.withEng y)) (if_pos hb)), ?_⟩
    rw [show bank = true from hb]
    exact ⟨tgetD_tsetD_same _ _ _ _, fun k other => tgetD_tsetD_ne _ _ _ other, rfl, tget_tdel_same _ _, rfl⟩

/-! ### The table as the Tally goes on -/

theorem Eng.advance_cstN (e : Eng) (t : Nat) (b : Bool) : (e.advance t).cstN b = e.cstN b := by
  unfold Eng.cstN
  rw [Eng.advance_fv _ _ _ _ (by decide) (by decide), Eng.advance_fv _ _ _ _ (by decide) (by decide)]

theorem Eng.advance_cstBank (e : Eng) (t : Nat) (b : Bool) : (e.advance t).cstBank b = e.cstBank b := by
  unfold Eng.cstBank
  rw [Eng.advance_tal]

theorem Eng.advance_cstLen (e : Eng) (t : Nat) (b : Bool) : (e.advance t).cstLen b = e.cstLen b := by
  unfold Eng.cstLen
  rw [Eng.advance_cstN, Eng.advance_cstBank]

theorem Eng.advance_cstBase (e : Eng) (t : Nat) : (e.advance t).cstBase = e.cstBase := by
  unfold Eng.cstBase Eng.pairv
  rw [Eng.advance_reg _ _ _ _ (by decide) (by decide), Eng.advance_reg _ _ _ _ (by decide) (by decide)]

theorem Eng.advance_frameStart (e : Eng) (t x : Nat) : (e.advance t).frameStart x = e.frameStart x := by
  unfold Eng.frameStart
  rw [Eng.advance_tal, Eng.advance_cstLen, Eng.advance_cstBase]

theorem Eng.advance_slotAt (e : Eng) (t x : Nat) : (e.advance t).slotAt x = e.slotAt x := by
  unfold Eng.slotAt
  dsimp only
  rw [Eng.advance_tal, Eng.advance_cstLen, Eng.advance_cstBase, Eng.advance_cstBank, Eng.advance_cstN]

theorem Eng.advance_usable (e : Eng) (t p x : Nat) : (e.advance t).usable p x = e.usable p x := by
  unfold Eng.usable
  rw [Eng.advance_tal, Eng.advance_slotAt]

theorem Eng.advance_bankOk (e : Eng) (t : Nat) (b : Bool) : (e.advance t).bankOk b = e.bankOk b := by
  unfold Eng.bankOk
  rw [Eng.advance_cstN, Eng.advance_cstBank]

/-! ### Frame boundaries -/

theorem exec_cstFrameBoundary {s : State} {x : Nat} (up : s.boot.absent = false) (settled : s.Settled) (switch : s.eng.tal.switchAt = some x)
    (start : s.eng.frameStart (max s.eng.now s.eng.tal.nextFrame) = x) :
    exec .cstFrameBoundary s = .next (s.withEng ((s.eng.advance x).frameBoundary x)) := by
  have next : s.eng.nextBoundary = x := by
    rw [Eng.nextBoundary, switch, start]
    exact ite_self _
  change timed s atCstFrameBoundary = _
  rw [timed_settled s _ settled, atCstFrameBoundary, live_up up, switch, next]
  rw [if_neg (fun ⟨_, h⟩ => by simp at h)]

/-- A boundary at which the bank that is selected becomes the active one. -/
theorem Eng.frameBoundary_switch (e : Eng) {x : Nat} (switch : e.tal.switchAt = some x)
    (other : decide (e.av F.TAL_CST_CTL_BANK = 1) ≠ e.tal.activeBank) (ok : e.bankOk (decide (e.av F.TAL_CST_CTL_BANK = 1)) = true) :
    e.frameBoundary x = (({ e with tal := { e.tal with
        barred := [], nextFrame := x + 1, switchAt := none, activeBank := decide (e.av F.TAL_CST_CTL_BANK = 1) } } : Eng).poke
      F.TAL_CST_CTL_ACTIVE_BANK (b2n (decide (e.av F.TAL_CST_CTL_BANK = 1)))).pokePair 0xE024 x := by
  rw [Eng.frameBoundary]
  simp only [switch, Nat.le_refl, if_true]
  rw [Eng.bankSwitch]
  refine (if_neg other).trans ((if_neg ?_).trans rfl)
  exact fun refused => Bool.noConfusion (ok.symm.trans ((Bool.not_eq_true' _).mp refused))

/-- A change of the Tally unit alone. -/
theorem Eng.Only.setTal {us offs : List Nat} (e : Eng) (x : Tal) (tally : 14 ∈ us) : e.Only us offs { e with tal := x } :=
  .of_parts rfl rfl (fun u out => by unfold Eng.partSame; split <;> simp_all)

/-- The second part of O23: a bank switch that waits is made at the boundary. -/
theorem cstFrameBoundary_switches {s : State} {x : Nat} (up : s.boot.absent = false) (settled : s.Settled)
    (switch : s.eng.tal.switchAt = some x) (ahead : s.eng.now ≤ x) (bound : x < 2 ^ 64)
    (start : s.eng.frameStart (max s.eng.now s.eng.tal.nextFrame) = x) :
    let e := s.eng
    let b := decide (e.av F.TAL_CST_CTL_BANK = 1)
    b ≠ e.tal.activeBank → e.bankOk b = true →
      ∃ t, exec .cstFrameBoundary s = .next t ∧ t.eng.now = x ∧ t.eng.cstBase = x ∧ t.eng.fb F.TAL_CST_CTL_ACTIVE_BANK = b ∧
        t.eng.tal = { e.tal with barred := [], nextFrame := x + 1, switchAt := none, activeBank := b } ∧
        s.Only [0, 12, 14, 17] [0xE020, 0xE024, 0xE028] t := by
  intro e b other ok
  have talEq : (e.advance x).tal = e.tal := Eng.advance_tal _ _
  have av : (e.advance x).av F.TAL_CST_CTL_BANK = e.av F.TAL_CST_CTL_BANK := by
    unfold Eng.av
    rw [Eng.advance_act]
  have boundary := (e.advance x).frameBoundary_switch (x := x) (by rw [talEq]; exact switch) (by rw [av, talEq]; exact other)
    (by rw [av, Eng.advance_bankOk]; exact ok)
  rw [av, talEq] at boundary
  refine ⟨_, exec_cstFrameBoundary up settled switch start, ?_⟩
  have only := Eng.Only.advance (us := [0, 12, 14, 17]) (offs := [0xE020, 0xE024, 0xE028]) e x (by decide) (by decide) (by decide)
  have now : (e.advance x).now = x := (Eng.advance_now _ _).trans (Nat.max_eq_right ahead)
  change let y : Eng := (e.advance x).frameBoundary x; _
  rw [boundary]
  generalize hz : ({ e.advance x with tal := { e.tal with barred := [], nextFrame := x + 1, switchAt := none, activeBank := b } } : Eng) = z
  have zOnly : e.Only [0, 12, 14, 17] [0xE020, 0xE024, 0xE028] z := hz ▸ only.trans (.setTal _ _ (by decide))
  have zNow : z.now = x := hz ▸ now
  have zTal : z.tal = { e.tal with barred := [], nextFrame := x + 1, switchAt := none, activeBank := b } := hz ▸ rfl
  refine ⟨zNow, ?_, ?_, zTal, rfl, rfl, zOnly.trans ((Eng.Only.poke _ _ _ _ (by decide) (by decide)).trans
    ((Eng.Only.putReg _ _ _ _ (by decide) (by decide)).trans (.putReg _ _ _ _ (by decide) (by decide))))⟩
  · exact (Eng.pairv_pokePair _ _ _ _ (by decide)).trans (Nat.mod_eq_of_lt bound)
  · have kept : ((z.poke F.TAL_CST_CTL_ACTIVE_BANK (b2n b)).pokePair 0xE024 x).fb F.TAL_CST_CTL_ACTIVE_BANK =
        (z.poke F.TAL_CST_CTL_ACTIVE_BANK (b2n b)).fb F.TAL_CST_CTL_ACTIVE_BANK := by
      unfold Eng.fb Eng.fv
      rw [Eng.reg_pokePair_ne _ _ _ _ (by decide) (by decide) (.inl (by decide))]
    exact kept.trans (Eng.fb_poke_same _ _ _ _ (by decide) rfl)

/-! ### Starts of slots -/

theorem mem_sinsert (l : List Nat) (x y : Nat) : y ∈ sinsert l x ↔ y = x ∨ y ∈ l := by
  induction l with
  | nil => simp [sinsert]
  | cons z r ih =>
    rw [sinsert]
    split
    case isTrue same => subst same; simp
    case isFalse =>
      split
      · simp
      · rw [List.mem_cons, ih, List.mem_cons]
        exact ⟨fun h => h.elim (fun a => .inr (.inl a)) (fun h => h.elim .inl (fun a => .inr (.inr a))),
          fun h => h.elim (fun a => .inr (.inl a)) (fun h => h.elim .inl (fun a => .inr (.inr a)))⟩

theorem mem_foldl_sinsert (ps l : List Nat) (y : Nat) : y ∈ ps.foldl sinsert l ↔ y ∈ l ∨ y ∈ ps := by
  induction ps generalizing l with
  | nil => simp
  | cons p ps ih =>
    rw [List.foldl_cons, ih, mem_sinsert, List.mem_cons]
    exact ⟨fun h => h.elim (fun h => h.elim (fun a => .inr (.inl a)) .inl) (fun a => .inr (.inr a)),
      fun h => h.elim (fun a => .inl (.inr a)) (fun h => h.elim (fun a => .inl (.inl a)) .inr)⟩

/-- Partitions are barred: each is added, and an event raised. -/
theorem foldl_bar {us offs : List Nat} (hatch : 1 ∈ us) (tally : 14 ∈ us) (port : 17 ∈ us) (arg : Eng → Nat → Nat) (inst : Eng → Nat → Option Nat) (ps : List Nat) (e : Eng) :
    let e' := ps.foldl (fun e p =>
      let e := { e with tal := { e.tal with barred := sinsert e.tal.barred p } }
      e.raiseP 0x0033 14 p (arg e p) (inst e p)) e
    e'.tal = { e.tal with barred := ps.foldl sinsert e.tal.barred } ∧ e'.now = e.now ∧ e.Only us offs e' := by
  induction ps generalizing e with
  | nil => exact ⟨rfl, rfl, .refl _⟩
  | cons p ps ih =>
    rw [List.foldl_cons, List.foldl_cons]
    dsimp only
    generalize hy : ({ e with tal := { e.tal with barred := sinsert e.tal.barred p } } : Eng) = y
    have reports := y.raiseP_reports 0x0033 14 p (arg y p) (inst y p)
    have yTal : y.tal = { e.tal with barred := sinsert e.tal.barred p } := hy ▸ rfl
    have yNow : y.now = e.now := hy ▸ rfl
    have yOnly : e.Only us offs y := hy ▸ .setTal _ _ tally
    obtain ⟨tal, now, only⟩ := ih (y.raiseP 0x0033 14 p (arg y p) (inst y p))
    rw [reports.tal_eq, yTal] at tal
    exact ⟨tal, (now.trans reports.now_eq).trans yNow, (yOnly.trans (.of_reports reports hatch port)).trans only⟩

theorem exec_cstSlotStart {s : State} {x : Nat} (up : s.boot.absent = false) (settled : s.Settled) (on : s.eng.cstOn = true)
    (start : s.eng.slotFrom (max s.eng.now s.eng.tal.nextSlot) = x) (inside : s.eng.frameStart x ≠ x) :
    exec .cstSlotStart s = .next (s.withEng
      ({ s.eng.advance x with tal := { s.eng.tal with nextSlot := x + 1 } } : Eng).slotBegins) := by
  have inside' : ¬((s.eng.advance x).frameStart x = x ∧ (s.eng.advance x).tal.nextFrame ≤ x) := by
    rw [Eng.advance_frameStart]
    exact fun ⟨h, _⟩ => inside h
  change timed s atCstSlotStart = _
  rw [timed_settled s _ settled, atCstSlotStart, live_up up]
  simp only [on, start, Bool.not_true, Bool.false_eq_true, if_false]
  rw [if_neg inside', Eng.advance_tal]

theorem Eng.mem_activeInsts (e : Eng) (i : Nat) : i ∈ e.activeInsts ↔ i < 16 ∧ (e.inst i).active = true := by
  rw [Eng.activeInsts, List.mem_filter, instRange, List.mem_range]

/-- A partition with a step outstanding: of an active `Inst` that this engine leads. -/
theorem Eng.outstandingOf_isSome (e : Eng) (p : Nat) :
    (e.outstandingOf p).isSome = true ↔
      ∃ i, i < 16 ∧ (e.inst i).active = true ∧ (e.inst i).lead = true ∧ (e.inst i).owner = p ∧ (e.inst i).step.isSome = true := by
  rw [Eng.outstandingOf, List.find?_isSome]
  constructor
  · rintro ⟨i, among, hit⟩
    obtain ⟨low, active⟩ := (e.mem_activeInsts i).mp among
    simp only [Bool.and_eq_true, decide_eq_true_eq] at hit
    obtain ⟨⟨lead, owner⟩, step⟩ := hit
    exact ⟨i, low, active, lead, owner, step⟩
  · rintro ⟨i, low, active, lead, owner, step⟩
    exact ⟨i, (e.mem_activeInsts i).mpr ⟨low, active⟩, by simp [lead, owner, step]⟩

/-- The third part of O23: partitions that may not use the slot are barred. -/
theorem cstSlotStart_bars {s : State} {x : Nat} (up : s.boot.absent = false) (settled : s.Settled) (on : s.eng.cstOn = true)
    (start : s.eng.slotFrom (max s.eng.now s.eng.tal.nextSlot) = x) (ahead : s.eng.now ≤ x) (inside : s.eng.frameStart x ≠ x) :
    let e := s.eng
    ∃ t, exec .cstSlotStart s = .next t ∧ t.eng.now = x ∧
      (∀ p, p ∈ t.eng.tal.barred ↔ p ∈ e.tal.barred ∨
        (p < 64 ∧ e.usable p x = false ∧ ∃ i, i < 16 ∧ (e.inst i).active = true ∧ (e.inst i).lead = true ∧ (e.inst i).owner = p ∧
          (e.inst i).step.isSome = true)) ∧
      t.eng.tal = { e.tal with nextSlot := x + 1, barred := t.eng.tal.barred } ∧ s.Only [0, 1, 12, 14, 17] [] t := by
  intro e
  refine ⟨_, exec_cstSlotStart up settled on start inside, ?_⟩
  have now : (e.advance x).now = x := (Eng.advance_now _ _).trans (Nat.max_eq_right ahead)
  have usable : ∀ p, ({ e.advance x with tal := { e.tal with nextSlot := x + 1 } } : Eng).usable p x = e.usable p x := fun p => by
    rw [← e.advance_usable x, ← Eng.advance_tal e x]
    rfl
  have outstanding : ∀ p, ({ e.advance x with tal := { e.tal with nextSlot := x + 1 } } : Eng).outstandingOf p = e.outstandingOf p := fun p => by
    have same : (e.advance x).outstandingOf p = e.outstandingOf p := by
      unfold Eng.outstandingOf Eng.activeInsts Eng.inst
      rw [Eng.advance_cmp]
    exact same
  have only := Eng.Only.advance (us := [0, 1, 12, 14, 17]) (offs := []) e x (by decide) (by decide) (by decide)
  generalize hz : ({ e.advance x with tal := { e.tal with nextSlot := x + 1 } } : Eng) = z at usable outstanding
  change let y : Eng := ({ e.advance x with tal := { e.tal with nextSlot := x + 1 } } : Eng).slotBegins; _
  rw [hz]
  have zNow : z.now = x := hz ▸ now
  have zTal : z.tal = { e.tal with nextSlot := x + 1 } := hz ▸ rfl
  have zOnly : e.Only [0, 1, 12, 14, 17] [] z := hz ▸ only.trans (.setTal _ _ (by decide))
  obtain ⟨tal, kept, bars⟩ := foldl_bar (us := [0, 1, 12, 14, 17]) (offs := []) (by decide) (by decide) (by decide)
    (fun e p => (e.outstandingOf p).getD 0 + 2 ^ 8 * (e.barEnd % 2 ^ 56)) (fun e p => e.outstandingOf p)
    (partRange.filter (fun p => !z.usable p z.now && (z.outstandingOf p).isSome)) z
  have begun : z.slotBegins.tal = _ := tal
  rw [zTal] at begun
  refine ⟨kept.trans zNow, fun p => ?_, ?_, rfl, rfl, zOnly.trans bars⟩
  · change p ∈ z.slotBegins.tal.barred ↔ _
    rw [begun, mem_foldl_sinsert, List.mem_filter, partRange, List.mem_range, zNow, usable, outstanding, Bool.and_eq_true,
      Eng.outstandingOf_isSome, Bool.not_eq_true']
  · change z.slotBegins.tal = { e.tal with nextSlot := x + 1, barred := z.slotBegins.tal.barred }
    rw [begun]

/-- Settles O23: entries are committed, boundaries switch banks and end bars, and slots bar the partitions that may not use them. -/
theorem cyclicSlotTable : Obligations.CyclicSlotTable := by
  intro data lo x s up
  exact ⟨fun held free => cstEntryCommit_sets up held free,
    fun settled switch ahead bound start other ok => cstFrameBoundary_switches up settled switch ahead bound start other ok,
    fun settled on start ahead inside => cstSlotStart_bars up settled on start ahead inside⟩

end Sys2Proof.Machine
end

section
/-!
Semaphores (O49): who is granted, who waits, and that no chain of waiters returns where the holder waits for nothing.
-/
namespace Sys2Proof.Machine

/-! ### Chains of waiters -/

theorem Eng.sem_setSem (e : Eng) (j k : Nat) (x : Sem) : (e.setSem k x).sem j = if j = k then x else e.sem j :=
  tgetD_tsetD _ _ _ _ _

/-- Chains of waiters hang on the semaphores alone. -/
theorem chainReturns_congr {e e' : Eng} (same : e'.kpr.sems = e.kpr.sems) (fuel : Nat) (seen : List Nat) (h : Nat) :
    chainReturns e' seen h fuel = chainReturns e seen h fuel := by
  have sem : ∀ k, e'.sem k = e.sem k := fun k => congrArg (fun t : Tab Sem => tgetD t k {}) same
  induction fuel generalizing seen h with
  | zero => rfl
  | succ n ih => simp only [chainReturns, Eng.waitedSems, sem, ih]

theorem Eng.semCycle_congr {e e' : Eng} (same : e'.kpr.sems = e.kpr.sems) (k : Nat) : e'.semCycle k = e.semCycle k := by
  have sem : e'.sem k = e.sem k := congrArg (fun t : Tab Sem => tgetD t k {}) same
  simp only [Eng.semCycle, sem, chainReturns_congr same]

/-- No chain returns at a semaphore whose holder waits for nothing, and where it is not among the waiters. -/
theorem Eng.semCycle_false (e : Eng) (k : Nat)
    (still : ∀ h, (e.sem k).holder = some h → (e.sem k).waiters ≠ [] → ∀ j, j < 64 → ∀ w ∈ (e.sem j).waiters, w.1 ≠ h)
    (low : k < 64) : e.semCycle k = false := by
  rw [Eng.semCycle]
  split
  case h_2 => rfl
  case h_1 h holds =>
    rw [List.any_eq_false]
    intro w among
    have free := still h holds (List.ne_nil_of_mem among)
    have waits : e.waitedSems h = [] := List.filter_eq_nil_iff.mpr (fun j range => by
      rw [List.any_eq_true]
      rintro ⟨v, hv, same⟩
      exact free j (List.mem_range.mp range) v hv (of_decide_eq_true same))
    rw [chainReturns, waits]
    simpa using Ne.symm (free k low w among)

/-- Keeper's note of the deadlocks raised, replaced. -/
def Eng.noteDeadlocks (e : Eng) (deadlocked : List Nat) : Eng := { e with kpr := { e.kpr with deadlocked } }

theorem Eng.semCycle_noteDeadlocks (e : Eng) (d : List Nat) (k : Nat) : (e.noteDeadlocks d).semCycle k = e.semCycle k :=
  Eng.semCycle_congr rfl k

theorem Eng.semWatch_still (e : Eng) (k : Nat) (still : e.semCycle k = false) : ∃ d, e.semWatch k = e.noteDeadlocks d := by
  refine ⟨e.kpr.deadlocked.filter (fun x => e.semCycle x), ?_⟩
  have still' := (e.semCycle_noteDeadlocks (e.kpr.deadlocked.filter (fun x => e.semCycle x)) k).trans still
  rw [Eng.semWatch]
  exact if_neg (fun returns => Bool.noConfusion (still'.symm.trans (Bool.and_eq_true_iff.mp returns).1))

/-- A semaphore that is not held by a swapped context, or that nobody waits for, starts no donation. -/
theorem Eng.donate_none (e : Eng) (k : Nat) (still : (e.sem k).swapped = false ∨ (e.sem k).waiters = []) : e.donate k = e := by
  rw [Eng.donate]
  split
  case h_2 => rfl
  case h_1 h w _ least =>
    rcases still with swapped | empty
    · exact if_neg (by simp [swapped])
    · rw [empty] at least
      exact absurd least (by simp [leastBy])

/-- With no chain that returns and nothing held by a swapped context waited for, Keeper starts nothing. -/
theorem Eng.donateAll_still (e : Eng) (cycles : ∀ k, k < 64 → e.semCycle k = false)
    (still : ∀ k, k < 64 → (e.sem k).swapped = false ∨ (e.sem k).waiters = []) : ∃ d, e.donateAll = e.noteDeadlocks d := by
  have fold : ∀ (ks : List Nat) (d : List Nat), (∀ k ∈ ks, k < 64) →
      ∃ d', ks.foldl (fun e k => (e.semWatch k).donate k) (e.noteDeadlocks d) = e.noteDeadlocks d' := by
    intro ks
    induction ks with
    | nil => exact fun d _ => ⟨d, rfl⟩
    | cons k ks ih =>
      intro d low
      have here : k < 64 := low k List.mem_cons_self
      obtain ⟨d', watched⟩ := (e.noteDeadlocks d).semWatch_still k ((e.semCycle_noteDeadlocks d k).trans (cycles k here))
      have kept : (e.noteDeadlocks d').donate k = e.noteDeadlocks d' := Eng.donate_none _ _ (still k here)
      rw [List.foldl_cons, watched]
      change ∃ d'', ks.foldl _ ((e.noteDeadlocks d').donate k) = _
      rw [kept]
      exact ih d' (fun j hj => low j (List.mem_cons_of_mem _ hj))
  exact fold semRange e.kpr.deadlocked (fun k hk => List.mem_range.mp hk)

theorem Eng.Only.setKpr {us offs : List Nat} (e : Eng) (x : Kpr) (keeper : 12 ∈ us) : e.Only us offs { e with kpr := x } :=
  .of_parts rfl rfl (fun u out => by unfold Eng.partSame; split <;> simp_all)

/-! ### ACQUIRE -/

/-- A count that takes its whole register. -/
theorem Eng.fv_bump_same (e : Eng) (f : Fld) (n sel : Nat) (hi : f.hi = 31) (lo : f.lo = 0) :
    (e.bump f n sel).fv f sel = min (e.fv f sel + n) (2 ^ 32 - 1) := by
  rw [Eng.bump, Eng.fv_poke_same _ _ _ _ (by omega), hi, lo, satN]
  exact Nat.mod_eq_of_lt (by omega)

theorem acquire_absent {s : State} (sem inst : Nat) (absent : s.boot.absent = true) :
    exec (.acquire sem inst) s = .next (s.withEng { s.eng with out := .array .engineAbsent :: s.eng.out }) := by
  change execAcquire sem inst s = _
  rw [execAcquire, liveOr_absent absent]
  rfl

theorem release_absent {s : State} (sem inst : Nat) (absent : s.boot.absent = true) :
    exec (.release sem inst) s = .next (s.withEng { s.eng with out := .array .engineAbsent :: s.eng.out }) := by
  change execRelease sem inst s = _
  rw [execRelease, liveOr_absent absent]
  rfl

section Acquire
variable {s : State} {sem inst : Nat} (up : s.boot.absent = false) (low : sem < 64) (serves : s.eng.unitHalted 12 = false)
  (active : (s.eng.inst inst).active = true)
include up low serves active

theorem acquire_refused (shut : bitOf (s.eng.semMask sem) (s.eng.inst inst).owner = false) :
    exec (.acquire sem inst) s = .next (s.withEng ((s.eng.bump F.KPR_SEM_DENIED_COUNT).tell (.semRefused sem inst))) := by
  change execAcquire sem inst s = _
  rw [execAcquire, liveOr_up up]
  simp only [active, serves, shut, Bool.not_true, Bool.not_false, Bool.false_or, Bool.or_false, decide_eq_true_eq, if_true]
  rw [if_neg (Nat.not_le.mpr low)]

theorem acquire_granted (mine : bitOf (s.eng.semMask sem) (s.eng.inst inst).owner = true) (free : (s.eng.sem sem).holder = none) :
    exec (.acquire sem inst) s = .next (s.withEng ((s.eng.setSem sem { s.eng.sem sem with
      holder := some inst, swapped := decide ((s.eng.ctx inst).state = 2) }).tell (.semGranted sem inst))) := by
  change execAcquire sem inst s = _
  rw [execAcquire, liveOr_up up]
  simp only [active, serves, mine, free, Bool.not_true, Bool.false_or, Bool.or_false, decide_eq_true_eq, Bool.false_eq_true, if_false]
  rw [if_neg (Nat.not_le.mpr low)]

theorem acquire_waits {h : Nat} (mine : bitOf (s.eng.semMask sem) (s.eng.inst inst).owner = true) (taken : (s.eng.sem sem).holder = some h)
    (new : ∀ w ∈ (s.eng.sem sem).waiters, w.1 ≠ inst) :
    exec (.acquire sem inst) s = .next (s.withEng (((s.eng.setSem sem { s.eng.sem sem with
      waiters := (s.eng.sem sem).waiters ++ [(inst, s.eng.now)] }).semWatch sem).donate sem)) := by
  have none_ : (s.eng.sem sem).waiters.any (fun w => decide (w.1 = inst)) = false :=
    List.any_eq_false.mpr (fun w hw => by simpa using new w hw)
  change execAcquire sem inst s = _
  rw [execAcquire, liveOr_up up]
  simp only [active, serves, mine, taken, none_, Bool.not_true, Bool.false_or, Bool.or_false, decide_eq_true_eq, Bool.false_eq_true, if_false]
  rw [if_neg (Nat.not_le.mpr low)]

end Acquire

/-- A new waiter for a semaphore whose holder is resident and waits for nothing. -/
theorem acquire_adds_waiter {s : State} {sem inst h : Nat} (up : s.boot.absent = false) (low : sem < 64) (serves : s.eng.unitHalted 12 = false)
    (active : (s.eng.inst inst).active = true) (mine : bitOf (s.eng.semMask sem) (s.eng.inst inst).owner = true)
    (taken : (s.eng.sem sem).holder = some h) (resident : (s.eng.sem sem).swapped = false) (other : h ≠ inst)
    (new : ∀ w ∈ (s.eng.sem sem).waiters, w.1 ≠ inst) (rests : ∀ k, k < 64 → ∀ w ∈ (s.eng.sem k).waiters, w.1 ≠ h) :
    ∃ t, exec (.acquire sem inst) s = .next t ∧
      t.eng.sem sem = { s.eng.sem sem with waiters := (s.eng.sem sem).waiters ++ [(inst, s.eng.now)] } ∧
      (∀ k, k ≠ sem → t.eng.sem k = s.eng.sem k) ∧ t.eng.out = s.eng.out ∧ s.Only [12] [] t := by
  have ran := acquire_waits up low serves active mine taken new
  generalize hx : ({ s.eng.sem sem with waiters := (s.eng.sem sem).waiters ++ [(inst, s.eng.now)] } : Sem) = x at ran
  have here : (s.eng.setSem sem x).sem sem = x := (Eng.sem_setSem ..).trans (if_pos rfl)
  have beside : ∀ k, k ≠ sem → (s.eng.setSem sem x).sem k = s.eng.sem k := fun k ne => (Eng.sem_setSem ..).trans (if_neg ne)
  have holder : x.holder = some h := hx ▸ taken
  have swapped : x.swapped = false := hx ▸ resident
  have free : (s.eng.setSem sem x).semCycle sem = false := Eng.semCycle_false _ _ (fun g holds _ j hj w hw => by
    rw [here, holder] at holds
    obtain rfl := Option.some.inj holds
    by_cases same : j = sem
    · subst same
      rw [here, ← hx] at hw
      rcases List.mem_append.mp hw with old | fresh
      · exact rests j hj w old
      · obtain rfl := List.mem_singleton.mp fresh
        exact Ne.symm other
    · rw [beside j same] at hw
      exact rests j hj w hw) low
  obtain ⟨d, watched⟩ := Eng.semWatch_still _ _ free
  have kept : ((s.eng.setSem sem x).noteDeadlocks d).donate sem = (s.eng.setSem sem x).noteDeadlocks d :=
    Eng.donate_none _ _ (.inl ((congrArg Sem.swapped here).trans swapped))
  rw [watched, kept] at ran
  exact ⟨_, ran, here, beside, rfl, rfl, rfl, .setKpr _ _ (by decide)⟩

/-! ### RELEASE -/

/-- The one of a list that is below every other is its least. -/
theorem leastBy_strict {α : Type} [DecidableEq α] (m : α → Nat) (l : List α) {w : α} (among : w ∈ l) (least : ∀ v ∈ l, v ≠ w → m w < m v) :
    leastBy m l = some w := by
  have fold : ∀ (l : List α) (acc : Option α), (∀ v ∈ l, v ≠ w → m w < m v) → (∀ v, acc = some v → v ≠ w → m w < m v) →
      (acc = some w ∨ w ∈ l) → l.foldl (fun acc x => match acc with
        | none => some x
        | some y => if m x < m y then some x else some y) acc = some w := by
    intro l
    induction l with
    | nil => exact fun acc _ _ hit => hit.elim id (fun h => absurd h List.not_mem_nil)
    | cons x l ih =>
      intro acc below accBelow hit
      rw [List.foldl_cons]
      refine ih _ (fun v hv => below v (List.mem_cons_of_mem _ hv)) ?_ ?_
      · intro v held other
        cases acc with
        | none => exact below v (List.mem_cons.mpr (.inl (Option.some.inj held).symm)) other
        | some y =>
          dsimp only at held
          split at held
          · exact below v (List.mem_cons.mpr (.inl (Option.some.inj held).symm)) other
          · exact accBelow v held other
      · rcases hit with rfl | hit
        · by_cases same : x = w
          · subst same
            exact .inl (if_neg (Nat.lt_irrefl _))
          · exact .inl (if_neg (Nat.lt_asymm (below x List.mem_cons_self same)))
        · rcases List.mem_cons.mp hit with rfl | later
          · left
            cases acc with
            | none => rfl
            | some y =>
              by_cases same : y = w
              · subst same
                exact if_neg (Nat.lt_irrefl _)
              · exact if_pos (accBelow y rfl same)
          · exact .inr later
  exact fold l none least (fun v h => absurd h (by simp)) (.inr among)

theorem exec_release {s : State} {sem inst : Nat} (up : s.boot.absent = false) (serves : s.eng.unitHalted 12 = false)
    (holds : (s.eng.sem sem).holder = some inst) (quiet : s.eng.kpr.dons = []) (same : (s.eng.semNext sem).kpr.dons = s.eng.kpr.dons) :
    exec (.release sem inst) s = .next (s.withEng (s.eng.semNext sem).donateAll) := by
  change execRelease sem inst s = _
  rw [execRelease, liveOr_up up]
  simp only [holds, serves, same, quiet, List.any_nil, ne_eq, not_true_eq_false, Bool.false_eq_true, or_self, if_false]

/-- A release that nobody waits for frees the semaphore. -/
theorem release_frees {s : State} {sem inst : Nat} (up : s.boot.absent = false) (serves : s.eng.unitHalted 12 = false)
    (holds : (s.eng.sem sem).holder = some inst) (quiet : s.eng.kpr.dons = []) (nobody : (s.eng.sem sem).waiters = [])
    (others : ∀ k, k < 64 → k ≠ sem → (s.eng.sem k).waiters = []) :
    ∃ t, exec (.release sem inst) s = .next t ∧ t.eng.sem sem = {} ∧ (∀ k, k ≠ sem → t.eng.sem k = s.eng.sem k) ∧ t.eng.out = s.eng.out ∧
      s.Only [12] [] t := by
  have next : s.eng.semNext sem = s.eng.setSem sem {} := by rw [Eng.semNext, nobody]; rfl
  have sem' : ∀ k, (s.eng.setSem sem {}).sem k = if k = sem then {} else s.eng.sem k := fun k => Eng.sem_setSem ..
  have waiters : ∀ k, k < 64 → ((s.eng.setSem sem {}).sem k).waiters = [] := fun k low => by
    rw [sem']
    split
    case isTrue => rfl
    case isFalse other => exact others k low other
  obtain ⟨d, still⟩ := (s.eng.setSem sem {}).donateAll_still
    (fun k low => Eng.semCycle_false _ k (fun h _ some_ => absurd (waiters k low) some_) low) (fun k low => .inr (waiters k low))
  have ran := exec_release up serves holds quiet (by rw [next]; rfl)
  rw [next, still] at ran
  exact ⟨_, ran, (sem' sem).trans (if_pos rfl), fun k other => (sem' k).trans (if_neg other), rfl, rfl, rfl, .setKpr _ _ (by decide)⟩

/-- A release passes the semaphore to the waiter that is first (R491). -/
theorem release_passes {s : State} {sem inst : Nat} {w : Nat × Nat} (up : s.boot.absent = false) (serves : s.eng.unitHalted 12 = false)
    (holds : (s.eng.sem sem).holder = some inst) (quiet : s.eng.kpr.dons = [])
    (others : ∀ k, k < 64 → k ≠ sem → (s.eng.sem k).waiters = []) (among : w ∈ (s.eng.sem sem).waiters) (resident : (s.eng.ctx w.1).state = 0)
    (small : ∀ v ∈ (s.eng.sem sem).waiters, (s.eng.inst v.1).owner < 64 ∧ v.1 < 16)
    (first : ∀ v ∈ (s.eng.sem sem).waiters, v ≠ w → v.1 ≠ w.1 ∧ (w.2 < v.2 ∨ (w.2 = v.2 ∧ ((s.eng.inst w.1).owner < (s.eng.inst v.1).owner ∨
      ((s.eng.inst w.1).owner = (s.eng.inst v.1).owner ∧ w.1 < v.1))))) :
    ∃ t, exec (.release sem inst) s = .next t ∧ (∀ k, k ≠ sem → t.eng.sem k = s.eng.sem k) ∧
      t.eng.out = .array (.semGranted sem w.1) :: s.eng.out ∧
      t.eng.sem sem = { holder := some w.1, swapped := false, waiters := (s.eng.sem sem).waiters.filter (fun v => decide (v ≠ w)) } ∧
      s.Only [12] [] t := by
  have least : leastBy s.eng.waitKey (s.eng.sem sem).waiters = some w := leastBy_strict _ _ among (fun v hv other => by
    have := small v hv
    have := small w among
    have := first v hv other
    unfold Eng.waitKey
    omega)
  generalize hx : ({ holder := some w.1, swapped := false, waiters := (s.eng.sem sem).waiters.filter (fun v => decide (v ≠ w)) } : Sem) = x
  have next : s.eng.semNext sem = (s.eng.setSem sem x).tell (.semGranted sem w.1) := by
    rw [Eng.semNext]
    simp only [least, resident]
    rw [← hx]
    rfl
  have sem' : ∀ k, ((s.eng.setSem sem x).tell (.semGranted sem w.1)).sem k = if k = sem then x else s.eng.sem k := fun k => Eng.sem_setSem ..
  have swapped : x.swapped = false := hx ▸ rfl
  have holder : x.holder = some w.1 := hx ▸ rfl
  have rests : ∀ v ∈ x.waiters, v.1 ≠ w.1 := fun v hv => by
    rw [← hx] at hv
    obtain ⟨old, other⟩ := List.mem_filter.mp hv
    exact (first v old (of_decide_eq_true other)).1
  have waiters : ∀ k, k < 64 → k ≠ sem → (((s.eng.setSem sem x).tell (.semGranted sem w.1)).sem k).waiters = [] := fun k low other => by
    rw [sem', if_neg other]
    exact others k low other
  obtain ⟨d, still⟩ := ((s.eng.setSem sem x).tell (.semGranted sem w.1)).donateAll_still
    (fun k low => Eng.semCycle_false _ k (fun h held some_ j hj v hv => by
      by_cases here : k = sem
      · rw [sem', if_pos here, holder] at held
        obtain rfl := Option.some.inj held
        by_cases same : j = sem
        · rw [sem', if_pos same] at hv
          exact rests v hv
        · rw [waiters j hj same] at hv
          exact absurd hv List.not_mem_nil
      · exact absurd (waiters k low here) some_) low)
    (fun k low => by
      by_cases here : k = sem
      · exact .inl ((congrArg Sem.swapped ((sem' k).trans (if_pos here))).trans swapped)
      · exact .inr (waiters k low here))
  have ran := exec_release up serves holds quiet (by rw [next]; rfl)
  rw [next, still] at ran
  exact ⟨_, ran, fun k other => (sem' k).trans (if_neg other), rfl, (sem' sem).trans (if_pos rfl), rfl, rfl,
    ((Eng.Only.setKpr _ _ (by decide)).trans (.tell _ _)).trans (.setKpr _ _ (by decide))⟩

/-! ### Donations -/

theorem exec_donationLong {s : State} {sem at_ : Nat} {d : Donation} (up : s.boot.absent = false) (settled : s.Settled)
    (only : s.eng.kpr.dons = [d]) (here : d.sem = sem) (began : d.start = some at_) (silent : d.warned = false) :
    let a := s.eng.advance (at_ + s.eng.av F.KPR_DONATE_WARN_WARN)
    exec (.donationLong sem) s = .next (s.withEng (({ a with kpr := { a.kpr with dons := [{ d with warned := true }] } } : Eng).raise
      { code := 0x0094, unit := 12, pid := d.wpid, part := true, arg := sem + 2 ^ 8 * d.holder, inst := some d.holder })) := by
  intro a
  subst here
  have found : s.eng.kpr.dons.find? (fun x => decide (x.sem = d.sem) && x.start.isSome && !x.warned) = some d := by
    rw [only]
    exact List.find?_cons_of_pos (by simp [began, silent])
  have start : ∀ t, d.start.getD t = at_ := fun t => by rw [began]; rfl
  have dons : a.kpr.dons = [d] := (congrArg (fun y : Eng => y.kpr.dons) (Eng.advance_passes s.eng _).rest).trans only
  change timed s (atDonationLong d.sem) = _
  rw [timed_settled s _ settled, atDonationLong, live_up up]
  simp only [found, start]
  have warned : a.modDon (fun x => decide (x.sem = d.sem)) (fun x => { x with warned := true }) =
      { a with kpr := { a.kpr with dons := [{ d with warned := true }] } } := by
    rw [Eng.modDon, dons]
    simp only [List.map_cons, List.map_nil, decide_true, if_true]
  have raised := congrArg (fun y : Eng => (Host.Outcome.next (s.withEng (y.raiseP 0x0094 12 d.wpid (d.sem + 2 ^ 8 * d.holder) (some d.holder))) : Host.Outcome State Fault Refusal)) warned
  exact raised

/-- Settles O49: who is granted a semaphore, who waits, and to whom it passes. -/
theorem semaphoresPass : Obligations.SemaphoresPass := by
  intro sem inst s e x o mine rest
  have mask : bitOf (e.semMask sem) o = decide mine := by
    rw [Eng.semMask, show two32 = 2 ^ 32 from rfl]
    rfl
  refine ⟨fun absent => ⟨acquire_absent sem inst absent, release_absent sem inst absent⟩, fun up low serves =>
    ⟨fun active shut => ?_, fun active open_ free => ?_, fun h active open_ taken resident other new rests => ?_,
      fun holds quiet others => ⟨fun nobody => release_frees up serves holds quiet nobody others,
        fun w among resident small first => release_passes up serves holds quiet others among resident small first⟩⟩,
    fun up settled d at_ only here began silent => exec_donationLong up settled only here began silent⟩
  · refine ⟨_, acquire_refused up low serves active (mask.trans (decide_eq_false shut)), rfl, ?_, rfl, rfl,
      (Eng.Only.poke _ _ _ _ (by decide) (by decide)).trans (.tell _ _)⟩
    exact (Eng.fv_congr (e := e.bump F.KPR_SEM_DENIED_COUNT) rfl _ _).trans (Eng.fv_bump_same e _ _ _ rfl rfl)
  · exact ⟨_, acquire_granted up low serves active (mask.trans (decide_eq_true open_)) free, rfl,
      fun k ne => (Eng.sem_setSem ..).trans (if_neg ne), (Eng.sem_setSem ..).trans (if_pos rfl), rfl⟩
  · exact acquire_adds_waiter up low serves active (mask.trans (decide_eq_true open_)) taken resident other new rests

end Sys2Proof.Machine
end

section
/-!
The registers of a partition (O48): its control word, its tile groups and its reserved link shares.
-/
namespace Sys2Proof.Machine

/-! ### Shared facts -/

/-- An accepted write of an engine-wide RWS register changes that register, and what is accepted. -/
theorem Eng.rwsWrite_taken (e : Eng) {off p : Nat} (w : Word) (wide : keyInst (regKey off p) = none) (low : p < 65536) :
    (e.rwsWrite off p w).reg off p = w ∧ (e.rwsWrite off p w).pend = e.pend ++ [(regKey off p, w, e.now)] ∧
      (∀ o j, j < 65536 → o ≠ off ∨ j ≠ p → (e.rwsWrite off p w).reg o j = e.reg o j) ∧
      e.rwsWrite off p w = { e with regs := (e.rwsWrite off p w).regs, pend := (e.rwsWrite off p w).pend } := by
  have eq := e.rwsWrite_wide w wide
  refine ⟨e.rwsWrite_reg .., by rw [eq], fun o j small other => ?_, by rw [eq]; rfl⟩
  rw [eq]
  exact Eng.reg_putReg_ne _ _ _ _ low small other

theorem Eng.Only.rwsWrite_wide {us offs : List Nat} (e : Eng) {off p : Nat} (w : Word) (wide : keyInst (regKey off p) = none) (low : p < 65536)
    (views : 18 ∈ us) (listed : off ∈ offs) : e.Only us offs (e.rwsWrite off p w) := by
  rw [Eng.rwsWrite_wide e w wide]
  exact (Eng.Only.putReg e off p w low listed).trans (.of_parts rfl rfl (fun u out => by unfold Eng.partSame; split <;> simp_all))

theorem keyInst_wide {off p : Nat} (low : p < 65536) (view : off ∉ instOffs) (quota : off < 0xE080 ∨ 0xE0C0 ≤ off) :
    keyInst (regKey off p) = none := by
  have key : regKey off p / 65536 = off := by rw [regKey]; omega
  have outside : instOffs.contains off = false := by rw [← Bool.not_eq_true, List.contains_iff_mem]; exact view
  rw [keyInst, key]
  simp only [outside, Bool.false_eq_true, if_false]
  exact if_neg (by omega)

theorem Eng.partSel_lt (e : Eng) : e.partSel < 64 := e.fv_lt F.KPR_PART_SEL_PID 0

/-- An `Inst` that is active and that this engine leads for a partition. -/
def Eng.leadsFor (e : Eng) (p k : Nat) : Prop := (e.inst k).active = true ∧ (e.inst k).lead = true ∧ (e.inst k).owner = p

theorem Eng.ownsInst_none (e : Eng) {p : Nat} (none_ : ∀ k, k < 16 → ¬ e.leadsFor p k) : e.ownsInst p = false := by
  rw [Eng.ownsInst, List.any_eq_false]
  intro k among owns
  obtain ⟨low, active⟩ := (e.mem_activeInsts k).mp among
  obtain ⟨lead, owner⟩ := Bool.and_eq_true_iff.mp owns
  exact none_ k low ⟨active, lead, (of_decide_eq_true owner).1⟩

theorem Eng.ownsInst_some (e : Eng) {p i : Nat} (low : i < 16) (leads : e.leadsFor p i)
    (loaded : (e.instModel i).state = 1 ∨ (e.instModel i).state = 2) : e.ownsInst p = true := by
  obtain ⟨active, lead, owner⟩ := leads
  exact List.any_eq_true.mpr ⟨i, (e.mem_activeInsts i).mpr ⟨low, active⟩, by rw [lead]; exact decide_eq_true ⟨owner, loaded⟩⟩

/-- The control word with its MODE kept. -/
theorem setBits_mode (data : Word) {mode : Nat} (small : mode < 4) :
    setBits data 2 1 mode &&& 0xFFFF0007 = (data &&& 0xFFFF0001) ||| BitVec.ofNat 32 (2 * mode) := by
  have kept : ∀ v : Word, (data &&& ~~~(6 : Word) ||| v) &&& 0xFFFF0007 = (data &&& 0xFFFF0001) ||| (v &&& 0xFFFF0007) := fun v => by
    rw [BitVec.and_or_distrib_right, BitVec.and_assoc]
    rfl
  refine (kept _).trans ?_
  congr 1
  have cases_ : mode = 0 ∨ mode = 1 ∨ mode = 2 ∨ mode = 3 := by omega
  rcases cases_ with rfl | rfl | rfl | rfl <;> rfl

/-! ### The control word -/

section Control
variable {s : State} {data : Word} (up : s.boot.absent = false)
include up

theorem partitionCtl_taken
    (stays : data.getLsbD 0 = true ∨ s.eng.fb F.KPR_PART_CTL_EN s.eng.partSel = false)
    (free : (decide (bitsOf data.toNat 2 1 ≠ s.eng.fv F.KPR_PART_CTL_MODE s.eng.partSel) && s.eng.ownsInst s.eng.partSel) = false) :
    exec (.partitionCtlWrite data) s = .next (s.withEng (s.eng.rwsWrite 0xC014 s.eng.partSel (data &&& 0xFFFF0007))) := by
  have en : (s.eng.rwsWrite 0xC014 s.eng.partSel (data &&& 0xFFFF0007)).fb F.KPR_PART_CTL_EN s.eng.partSel = data.getLsbD 0 := by
    refine (Eng.fb_bit _ 0xC014 0 _).trans ?_
    rw [Eng.rwsWrite_reg]
    simp
  change execPartitionCtlWrite data s = _
  rw [execPartitionCtlWrite, live_up up]
  simp only [free, Bool.false_eq_true, if_false, en]
  rw [if_neg (by rcases stays with h | h <;> simp [h])]

theorem partitionCtl_refused
    (stays : data.getLsbD 0 = true ∨ s.eng.fb F.KPR_PART_CTL_EN s.eng.partSel = false)
    (fixed : (decide (bitsOf data.toNat 2 1 ≠ s.eng.fv F.KPR_PART_CTL_MODE s.eng.partSel) && s.eng.ownsInst s.eng.partSel) = true) :
    exec (.partitionCtlWrite data) s = .next (s.withEng ((s.eng.rwsWrite 0xC014 s.eng.partSel
      ((data &&& 0xFFFF0001) ||| BitVec.ofNat 32 (2 * s.eng.fv F.KPR_PART_CTL_MODE s.eng.partSel))).wwe 0xC014)) := by
  have small : s.eng.fv F.KPR_PART_CTL_MODE s.eng.partSel < 4 := s.eng.fv_lt F.KPR_PART_CTL_MODE _
  generalize hw : ((data &&& 0xFFFF0001) ||| BitVec.ofNat 32 (2 * s.eng.fv F.KPR_PART_CTL_MODE s.eng.partSel) : Word) = w
  have en : ((s.eng.rwsWrite 0xC014 s.eng.partSel w).wwe 0xC014).fb F.KPR_PART_CTL_EN s.eng.partSel = data.getLsbD 0 := by
    have low := s.eng.partSel_lt
    refine (Eng.fb_bit _ 0xC014 0 _).trans ?_
    rw [(Eng.wwe_reports _ _).regs _ _ (by omega) (by decide), Eng.rwsWrite_reg, ← hw]
    have even : (BitVec.ofNat 32 (2 * s.eng.fv F.KPR_PART_CTL_MODE s.eng.partSel)).getLsbD 0 = false := by
      rw [BitVec.getLsbD_ofNat, Nat.testBit_zero, Nat.mul_mod_right]
      rfl
    rw [BitVec.getLsbD_or, even]
    simp
  change execPartitionCtlWrite data s = _
  rw [execPartitionCtlWrite, live_up up]
  simp only [fixed, if_true, setBits_mode data small, hw, en]
  rw [if_neg (by rcases stays with h | h <;> simp [h])]

theorem partitionCtl_leaves (clears : data.getLsbD 0 = false) (was : s.eng.fb F.KPR_PART_CTL_EN s.eng.partSel = true)
    (free : s.eng.ownsInst s.eng.partSel = false) :
    exec (.partitionCtlWrite data) s =
      .next (s.withEng ((s.eng.rwsWrite 0xC014 s.eng.partSel (data &&& 0xFFFF0007)).partLeave s.eng.partSel)) := by
  have en : (s.eng.rwsWrite 0xC014 s.eng.partSel (data &&& 0xFFFF0007)).fb F.KPR_PART_CTL_EN s.eng.partSel = false := by
    refine (Eng.fb_bit _ 0xC014 0 _).trans ?_
    rw [Eng.rwsWrite_reg, ← clears]
    simp
  change execPartitionCtlWrite data s = _
  rw [execPartitionCtlWrite, live_up up]
  simp only [free, Bool.and_false, Bool.false_eq_true, if_false, en, was, Bool.not_false, Bool.and_self, if_true]

end Control

theorem tget_mem {α : Type} (t : Tab α) {k : Nat} {v : α} (here : tget t k = some v) : (k, v) ∈ t := by
  induction t with
  | nil => exact absurd here (by simp [tget])
  | cons x t ih =>
    obtain ⟨j, u⟩ := x
    rw [tget] at here
    split at here
    case isTrue same =>
      obtain rfl := same
      obtain rfl := Option.some.inj here
      exact List.mem_cons_self
    case isFalse => exact List.mem_cons_of_mem _ (ih here)

/-- What is noted of the siblings of a partition that leaves service. -/
def Eng.noted (e : Eng) (p : Nat) : List Nat :=
  (e.led.recs.filter (fun r => decide (rqPid r.2.rqid = p) && r.2.live &&
      !(((e.part p).leaving).map (fun x => x % 2 ^ 40)).contains (r.1 + 2 ^ 24 * r.2.gen))).map
    (fun r => r.1 + 2 ^ 24 * r.2.gen + 2 ^ 40 * e.stepTag r.1 r.2 + 2 ^ 90 * e.now)

/-- A partition without instances and with no semaphore held: its siblings are noted. -/
theorem Eng.partLeave_notes (e : Eng) {p : Nat} (none_ : ∀ k, k < 16 → (e.inst k).active = true → (e.inst k).owner ≠ p)
    (free : e.kpr.sems = []) :
    ∃ d, e.partLeave p = (e.modPart p (fun k => { k with leaving := k.leaving ++ e.noted p })).noteDeadlocks d := by
  have own : e.activeInsts.filter (fun i => decide ((e.inst i).owner = p)) = [] := List.filter_eq_nil_iff.mpr (fun i among owner => by
    obtain ⟨low, active⟩ := (e.mem_activeInsts i).mp among
    exact none_ i low active (of_decide_eq_true owner))
  generalize hy : e.modPart p (fun k => { k with leaving := k.leaving ++ e.noted p }) = y
  have sems : ∀ k, y.sem k = {} := fun k => by
    rw [← hy]
    exact congrArg (fun t : Tab Sem => tgetD t k {}) free
  have own' : y.activeInsts.filter (fun i => decide ((y.inst i).owner = p)) = [] := by
    rw [← hy]
    exact own
  obtain ⟨d, still⟩ := y.donateAll_still (fun k low => Eng.semCycle_false _ k (fun h held _ => by rw [sems] at held; exact absurd held (by simp)) low)
    (fun k _ => .inr (by rw [sems]))
  have leaves : e.partLeave p = y.donateAll := by
    have begun : e.partLeave p = (let own := y.activeInsts.filter (fun i => decide ((y.inst i).owner = p))
        let z := (own.filter (fun i => (y.inst i).lead)).foldl (fun e i => (e.modInst i (fun x => { x with trig := none })).discardComp i) y
        let z := own.foldl (fun e i => e.imageLost i) z
        (own.foldl (fun e i => e.semBreak i) z).donateAll) := by
      rw [← hy]
      rfl
    rw [begun, own']
    rfl
  exact ⟨d, leaves.trans still⟩

/-- Every live sibling of the partition is then noted, anew or already. -/
theorem Eng.noted_all (e : Eng) {p x : Nat} {r : LRec} (here : e.rc x = some r) (of : rqPid r.rqid = p) (live : r.live = true)
    (slot : x < 2 ^ 24) (gen : r.gen < 2 ^ 16) : ∃ y ∈ (e.part p).leaving ++ e.noted p, y % 2 ^ 40 = x + 2 ^ 24 * r.gen := by
  by_cases old : (((e.part p).leaving).map (fun x => x % 2 ^ 40)).contains (x + 2 ^ 24 * r.gen) = true
  · obtain ⟨y, among, same⟩ := List.mem_map.mp (List.contains_iff_mem.mp old)
    exact ⟨y, List.mem_append_left _ among, same⟩
  · refine ⟨_, List.mem_append_right _ (List.mem_map_of_mem (List.mem_filter.mpr ⟨tget_mem _ here, ?_⟩)), ?_⟩
    · simp only [of, live, decide_true, Bool.and_self, Bool.true_and, Bool.not_eq_true', Bool.not_eq_true _ ▸ old]
    · dsimp only
      omega

/-! ### Tile groups and link shares -/

section Shares
variable {s : State} {data : Word} (up : s.boot.absent = false)
include up

theorem exec_tilesWrite : exec (.tilesWrite data) s = .next (s.withEng (
    if ((partRange.filter (fun q => decide (q ≠ s.eng.partSel))).map (fun q => s.eng.tileMask q)).any
        (fun m => decide (m &&& data.toNat % 2 ^ 16 ≠ 0)) then s.eng.raiseP 0x0090 12 s.eng.partSel (data.toNat % 2 ^ 16)
    else if data.toNat % 2 ^ 16 ≠ s.eng.tileMask s.eng.partSel ∧ s.eng.ownsInst s.eng.partSel = true then s.eng.wwe 0xC018
    else s.eng.poke F.KPR_PART_TILES_GROUPS (data.toNat % 2 ^ 16) s.eng.partSel)) := by
  have g : bitsOf data.toNat 15 0 = data.toNat % 2 ^ 16 := bitsOf_low _ _
  change execTilesWrite data s = _
  rw [execTilesWrite, live_up up, g]

theorem exec_rafResvWrite : exec (.rafResvWrite data) s = .next (s.withEng (
    if 256 < data.toNat % 2 ^ 8 + (((List.range 64).filter (fun q => decide (q ≠ s.eng.partSel))).map
          (fun q => s.eng.fv F.KPR_PART_RAF_RESV_RING q)).sum
        ∨ 256 < data.toNat / 2 ^ 8 % 2 ^ 8 + (((List.range 64).filter (fun q => decide (q ≠ s.eng.partSel))).map
          (fun q => s.eng.fv F.KPR_PART_RAF_RESV_SLED q)).sum then s.eng.raiseP 0x0091 12 s.eng.partSel (data.toNat % 2 ^ 16)
    else if data.toNat % 2 ^ 8 < 32 ∧ data.toNat % 2 ^ 8 < s.eng.fv F.KPR_PART_RAF_RESV_RING s.eng.partSel ∧
        s.eng.ownsWrapped s.eng.partSel = true then s.eng.wwe 0xC054
    else s.eng.rwsWrite 0xC054 s.eng.partSel (data &&& 0xFFFF))) := by
  have g : bitsOf data.toNat 15 0 = data.toNat % 2 ^ 16 := bitsOf_low _ _
  have ring : bitsOf data.toNat 7 0 = data.toNat % 2 ^ 8 := bitsOf_low _ _
  have sled : bitsOf data.toNat 15 8 = data.toNat / 2 ^ 8 % 2 ^ 8 := rfl
  change execRafResvWrite data s = _
  rw [execRafResvWrite, live_up up, g, ring, sled]
  simp only [sumBy_eq_sum, partRange]

end Shares

theorem Eng.ownsWrapped_none (e : Eng) {p : Nat} (none_ : ∀ k, k < 16 → (e.inst k).active = true → (e.inst k).owner ≠ p) :
    e.ownsWrapped p = false := by
  rw [Eng.ownsWrapped, List.any_eq_false]
  intro k among owns
  obtain ⟨low, active⟩ := (e.mem_activeInsts k).mp among
  simp only [Bool.and_eq_true, decide_eq_true_eq] at owns
  obtain ⟨⟨owner, _⟩, _⟩ := owns
  exact none_ k low active owner

theorem Eng.ownsWrapped_some (e : Eng) {p i : Nat} (low : i < 16) (active : (e.inst i).active = true) (owner : (e.inst i).owner = p)
    (resident : e.instIn i = true) (wraps : wrapped (e.inst i).chips = true) : e.ownsWrapped p = true :=
  List.any_eq_true.mpr ⟨i, (e.mem_activeInsts i).mpr ⟨low, active⟩, by simp [owner, resident, wraps]⟩

theorem others_any (f : Nat → Nat) (p g : Nat) :
    ((partRange.filter (fun q => decide (q ≠ p))).map f).any (fun m => decide (m &&& g ≠ 0)) = true ↔
      ∃ q ∈ (List.range 64).filter (fun q => decide (q ≠ p)), f q &&& g ≠ 0 := by
  rw [List.any_map, List.any_eq_true]
  exact ⟨fun ⟨q, hq, h⟩ => ⟨q, hq, of_decide_eq_true h⟩, fun ⟨q, hq, h⟩ => ⟨q, hq, decide_eq_true h⟩⟩

/-- Settles O48: the control word, its MODE kept where an `Inst` is owned, and the tile groups and link shares that others leave. -/
theorem partitionRegisters : Obligations.PartitionRegisters := by
  intro data i s up e p en mode g ring sled leads owns others taken tooMuch
  have small : p < 64 := e.partSel_lt
  have wide : ∀ off, off ∉ instOffs → off < 0xE080 → keyInst (regKey off p) = none := fun off view low =>
    keyInst_wide (by omega) view (.inl low)
  have isTaken : ∀ off w, off ∉ instOffs → off < 0xE080 → taken off w (s.withEng (e.rwsWrite off p w)) := fun off w view low => by
    obtain ⟨word, pend, beside, rest⟩ := e.rwsWrite_taken w (wide off view low) (by omega)
    exact ⟨word, pend, beside, congrArg s.withEng rest⟩
  have answers : ∀ {y z : Eng}, y = z → (Host.Outcome.next (s.withEng y) : Host.Outcome State Fault Refusal) = .next (s.withEng z) :=
    fun same => congrArg (fun y => Host.Outcome.next (s.withEng y)) same
  have clear : (∀ q ∈ others, e.fv F.KPR_PART_TILES_GROUPS q &&& g = 0) →
      ¬((partRange.filter (fun q => decide (q ≠ p))).map (fun q => e.tileMask q)).any (fun m => decide (m &&& g ≠ 0)) = true := fun apart any => by
    obtain ⟨q, hq, meets⟩ := (others_any _ _ _).mp any
    exact meets (apart q hq)
  have unowned : (∀ k, k < 16 → ¬ leads k) → e.ownsInst p = false := fun none_ => e.ownsInst_none none_
  have owned : owns → e.ownsInst p = true := fun ⟨low, lead, loaded⟩ => e.ownsInst_some low lead loaded
  refine ⟨fun stays free => ⟨_, partitionCtl_taken up stays ?_, isTaken _ _ (by decide) (by decide)⟩, fun stays moves own => ?_,
    fun clears was none_ free => ?_, fun ⟨q, hq, meets⟩ => ?_, fun apart => ⟨fun moves own => ?_, fun free => ?_⟩, fun much => ?_, fun fits =>
    ⟨fun little lowers low active owner resident wraps => ?_, fun free => ⟨_, ?_, isTaken 0xC054 _ (by decide) (by decide)⟩⟩⟩
  · rcases free with same | none_
    · exact Bool.and_eq_false_iff.mpr (.inl (decide_eq_false (not_not_intro same)))
    · exact Bool.and_eq_false_iff.mpr (.inr (unowned none_))
  · exact ⟨_, isTaken _ _ (by decide) (by decide),
      partitionCtl_refused up stays (Bool.and_eq_true_iff.mpr ⟨decide_eq_true moves, owned own⟩)⟩
  · have noLead : ∀ k, k < 16 → ¬ leads k := fun k low ⟨active, _, owner⟩ => none_ k low active owner
    obtain ⟨word, pend, beside, rest⟩ := e.rwsWrite_taken (data &&& 0xFFFF0007) (wide 0xC014 (by decide) (by decide)) (by omega)
    have ran := partitionCtl_leaves up clears was (unowned noLead)
    generalize hy : e.rwsWrite 0xC014 p (data &&& 0xFFFF0007) = y at word pend beside rest
    rw [show s.eng.rwsWrite 0xC014 s.eng.partSel (data &&& 0xFFFF0007) = y from hy] at ran
    obtain ⟨d, notes⟩ := y.partLeave_notes (p := p) (by rw [rest]; exact none_) (by rw [rest]; exact free)
    rw [show y.partLeave s.eng.partSel = _ from notes] at ran
    refine ⟨_, ran, word, pend, fun x r here of live slot gen => ?_, rfl, rfl, ?_⟩
    · have noted := y.noted_all (p := p) (by rw [rest]; exact here) of live slot gen
      have leaving : ((y.modPart p (fun k => { k with leaving := k.leaving ++ y.noted p })).noteDeadlocks d).part p =
          { y.part p with leaving := (y.part p).leaving ++ y.noted p } := tgetD_tsetD_same _ _ _ _
      exact leaving ▸ noted
    · have only : e.Only [12, 18] [0xC014] y :=
        hy ▸ Eng.Only.rwsWrite_wide e _ (wide 0xC014 (by decide) (by decide)) (by omega) (by decide) (by decide)
      exact (only.trans (.setKpr _ _ (by decide))).trans (.setKpr _ _ (by decide))
  · exact (exec_tilesWrite up).trans (answers (if_pos ((others_any _ _ _).mpr ⟨q, hq, meets⟩)))
  · exact (exec_tilesWrite up).trans (answers ((if_neg (clear apart)).trans (if_pos ⟨moves, owned own⟩)))
  · refine ⟨s.withEng (e.poke F.KPR_PART_TILES_GROUPS g p), ?_, ?_, fun o j low other => ?_, rfl⟩
    · refine (exec_tilesWrite up).trans (answers ((if_neg (clear apart)).trans (if_neg (fun ⟨moves, own⟩ => ?_))))
      rcases free with same | none_
      · exact moves same
      · exact Bool.noConfusion (own.symm.trans (unowned none_))
    · exact (Eng.fv_poke_same _ _ _ _ (by decide)).trans (Nat.mod_mod _ _)
    · exact Eng.reg_putReg_ne _ _ _ _ (by omega) low other
  · exact (exec_rafResvWrite up).trans (answers (if_pos much))
  · exact (exec_rafResvWrite up).trans (answers ((if_neg fits).trans
      (if_pos ⟨little, lowers, e.ownsWrapped_some low active owner resident wraps⟩)))
  · refine (exec_rafResvWrite up).trans (answers ((if_neg fits).trans (if_neg ?_)))
    rintro ⟨little, lowers, own⟩
    rcases free with much | kept | none_
    · exact absurd little (Nat.not_lt.mpr much)
    · exact absurd lowers (Nat.not_lt.mpr kept)
    · exact Bool.noConfusion (own.symm.trans (e.ownsWrapped_none none_))

end Sys2Proof.Machine
end

section
/-!
Keeper's and the Gate's periods (O47): activity points, refills and the close of an accounting interval.
-/
namespace Sys2Proof.Machine

/-- A change of the engine alone. -/
theorem State.Only.withEng {us offs : List Nat} {s : State} {e : Eng} (only : s.eng.Only us offs e) : s.Only us offs (s.withEng e) :=
  ⟨rfl, rfl, only⟩

/-! ### Changes of every partition -/

/-- Keeper's state of the partitions, replaced. -/
def Eng.setParts (e : Eng) (parts : Tab KPart) : Eng := { e with kpr := { e.kpr with parts } }

/-- A step that changes one partition at a time, each as `g` says, over a list of partitions. -/
theorem foldl_parts (e0 : Eng) (f : Eng → Nat → Eng) (g : Nat → KPart → KPart)
    (each : ∀ parts p, (∃ parts', f (e0.setParts parts) p = e0.setParts parts') ∧
      ∀ q, (f (e0.setParts parts) p).part q = if q = p then g p ((e0.setParts parts).part p) else (e0.setParts parts).part q)
    (ps : List Nat) (nodup : ps.Nodup) :
    (∃ parts, ps.foldl f e0 = e0.setParts parts) ∧ ∀ q, (ps.foldl f e0).part q = if q ∈ ps then g q (e0.part q) else e0.part q := by
  have go : ∀ (ps : List Nat) (parts : Tab KPart), ps.Nodup → (∃ parts', ps.foldl f (e0.setParts parts) = e0.setParts parts') ∧
      ∀ q, (ps.foldl f (e0.setParts parts)).part q = if q ∈ ps then g q ((e0.setParts parts).part q) else (e0.setParts parts).part q := by
    intro ps
    induction ps with
    | nil => exact fun parts _ => ⟨⟨parts, rfl⟩, fun q => rfl⟩
    | cons p ps ih =>
      intro parts nodup
      obtain ⟨fresh, rest⟩ := List.nodup_cons.mp nodup
      obtain ⟨⟨parts', step⟩, here⟩ := each parts p
      obtain ⟨whole, all⟩ := ih parts' rest
      rw [List.foldl_cons, step]
      refine ⟨whole, fun q => ?_⟩
      rw [step] at here
      rw [all, here]
      by_cases same : q = p
      · subst same
        simp [fresh]
      · simp [same]
  exact go ps e0.kpr.parts nodup

theorem partRange_nodup : partRange.Nodup := List.nodup_range

theorem mem_partRange {p : Nat} : p ∈ partRange ↔ p < 64 := List.mem_range

theorem Eng.Only.setParts {us offs : List Nat} (e : Eng) (parts : Tab KPart) (keeper : 12 ∈ us) : e.Only us offs (e.setParts parts) :=
  .setKpr _ _ keeper

theorem Eng.Only.setGat {us offs : List Nat} (e : Eng) (x : Gat) (gate : 3 ∈ us) : e.Only us offs { e with gat := x } :=
  .of_parts rfl rfl (fun u out => by unfold Eng.partSame; split <;> simp_all)

/-- A change of one partition's state, as a step of such a list. -/
theorem modPart_each (e0 : Eng) (g : Nat → KPart → KPart) (parts : Tab KPart) (p : Nat) :
    (∃ parts', (e0.setParts parts).modPart p (g p) = e0.setParts parts') ∧
      ∀ q, ((e0.setParts parts).modPart p (g p)).part q = if q = p then g p ((e0.setParts parts).part p) else (e0.setParts parts).part q :=
  ⟨⟨_, rfl⟩, Eng.part_setPart _ _ _⟩

/-! ### Periods -/

/-- The Tally at the next multiple of a period is that multiple. -/
theorem Eng.advance_due (e : Eng) (next : Nat) {period : Nat} (some_ : 0 < period) :
    (e.advance (roundUp (max e.now next) period)).now = roundUp (max e.now next) period :=
  (Eng.advance_now _ _).trans (Nat.max_eq_right (Nat.le_trans (Nat.le_max_left _ _) (le_roundUp some_)))

theorem Eng.advance_kprOn (e : Eng) (t : Nat) : (e.advance t).kprOn = e.kprOn := by
  unfold Eng.kprOn Eng.unitHalted Eng.cap_ Eng.domOn
  rw [Eng.advance_fb _ _ _ _ (by decide) (by decide), Eng.advance_ras, Eng.advance_dom]

/-! ### Activity points -/

/-- A partition found active at a point: eligible, or with a slot in a step. -/
def Eng.foundActive (e : Eng) (p : Nat) : Bool :=
  ((e.led.recs.filter (fun p => e.eligible p.2.inst p.1 e.now)).map (fun p => rqPid p.2.rqid)).contains p || e.stepPids.contains p

/-- The virtual time from which partitions start that become active. -/
def Eng.pointGvt (e : Eng) : Nat :=
  let was := partRange.filter (fun p => (e.part p).active)
  let old := was.filter e.foundActive
  match leastBy (fun p => (e.part p).pass) (if old.isEmpty then was else old) with
  | some p => (e.part p).pass
  | none => e.kpr.gvt

/-- What a point makes of a partition. -/
def KPart.atPoint (k : KPart) (active : Bool) (gvt : Nat) : KPart :=
  { k with active, pass := if active && !k.active then max k.pass gvt else k.pass }

/-- One partition at a point. -/
def Eng.pointPart (e0 e : Eng) (p : Nat) : Eng :=
  if e0.foundActive p = (e.part p).active then e
  else if e0.foundActive p then e.setPart p { e.part p with active := true, pass := max (e.part p).pass e0.pointGvt }
  else e.setPart p { e.part p with active := false }

theorem Eng.activity_on (e : Eng) (en : e.fb F.KPR_CTL_EN = true) :
    ∃ gvt, e.activity = { partRange.foldl e.pointPart e with kpr := { (partRange.foldl e.pointPart e).kpr with gvt } } := by
  rw [Eng.activity, en]
  exact ⟨_, rfl⟩

theorem pointPart_each (e0 : Eng) (parts : Tab KPart) (p : Nat) :
    (∃ parts', e0.pointPart (e0.setParts parts) p = e0.setParts parts') ∧
      ∀ q, (e0.pointPart (e0.setParts parts) p).part q =
        if q = p then ((e0.setParts parts).part p).atPoint (e0.foundActive p) e0.pointGvt else (e0.setParts parts).part q := by
  generalize hk : (e0.setParts parts).part p = k
  unfold Eng.pointPart
  rw [hk]
  split
  case isTrue same =>
    refine ⟨⟨parts, rfl⟩, fun q => ?_⟩
    split
    case isTrue here =>
      have kept : k.atPoint (e0.foundActive p) e0.pointGvt = k := by
        rw [KPart.atPoint, same]
        cases k with | mk pass active => cases active <;> rfl
      rw [here, hk, kept]
    case isFalse => rfl
  case isFalse differs =>
    split
    case isTrue on =>
      refine ⟨⟨_, rfl⟩, fun q => (Eng.part_setPart _ _ _ _).trans ?_⟩
      have was : k.active = false := by
        rw [on] at differs
        simpa using Ne.symm differs
      rw [KPart.atPoint, on, was]
      rfl
    case isFalse off =>
      refine ⟨⟨_, rfl⟩, fun q => (Eng.part_setPart _ _ _ _).trans ?_⟩
      rw [KPart.atPoint, Bool.eq_false_iff.mpr off]
      rfl

/-- With no partition active before, those that become active start at the virtual time. -/
theorem Eng.pointGvt_none (e : Eng) (none_ : ∀ p, p < 64 → (e.part p).active = false) : e.pointGvt = e.kpr.gvt := by
  have was : partRange.filter (fun p => (e.part p).active) = [] :=
    List.filter_eq_nil_iff.mpr (fun p hp => by rw [none_ p (mem_partRange.mp hp)]; exact Bool.false_ne_true)
  rw [Eng.pointGvt, was]
  rfl

theorem Eng.foundActive_eq (e : Eng) (p : Nat) :
    e.foundActive p = (e.led.recs.any (fun x => e.eligible x.2.inst x.1 e.now && decide (rqPid x.2.rqid = p)) || e.stepPids.contains p) := by
  have among : ((e.led.recs.filter (fun p => e.eligible p.2.inst p.1 e.now)).map (fun p => rqPid p.2.rqid)).contains p =
      e.led.recs.any (fun x => e.eligible x.2.inst x.1 e.now && decide (rqPid x.2.rqid = p)) := by
    rw [Bool.eq_iff_iff, List.contains_iff_mem, List.mem_map, List.any_eq_true]
    constructor
    · rintro ⟨x, hx, rfl⟩
      obtain ⟨here, eligible⟩ := List.mem_filter.mp hx
      exact ⟨x, here, by rw [eligible]; exact decide_eq_true rfl⟩
    · rintro ⟨x, here, hit⟩
      obtain ⟨eligible, pid⟩ := Bool.and_eq_true_iff.mp hit
      exact ⟨x, List.mem_filter.mpr ⟨here, eligible⟩, of_decide_eq_true pid⟩
  rw [Eng.foundActive, among]

/-- The first part of O47: an activity point. -/
theorem activityPoint_finds {s : State} (up : s.boot.absent = false) (settled : s.Settled) (en : s.eng.fb F.KPR_CTL_EN = true) :
    let e := s.eng
    let T := roundUp (max e.now e.kpr.nextPoint) 10000
    let a := e.advance T
    ∃ t, exec .activityPoint s = .next t ∧ t.eng.now = T ∧ t.eng.kpr.nextPoint = T + 1 ∧
      (∀ p, p < 64 → (t.eng.part p).active =
        (a.led.recs.any (fun x => a.eligible x.2.inst x.1 T && decide (rqPid x.2.rqid = p)) || a.stepPids.contains p)) ∧
      (∀ p, p < 64 → (e.part p).active = true ∨ (t.eng.part p).active = false → (t.eng.part p).pass = (e.part p).pass) ∧
      ((∀ p, p < 64 → (e.part p).active = false) → ∀ p, p < 64 → (t.eng.part p).active = true →
        (t.eng.part p).pass = max (e.part p).pass e.kpr.gvt) ∧
      s.Only [0, 12, 17] [] t := by
  intro e T a
  have now : a.now = T := e.advance_due _ (by decide)
  have ran : exec .activityPoint s = .next (s.withEng ({ a with kpr := { a.kpr with nextPoint := T + 1 } } : Eng).activity) := by
    change timed s atActivityPoint = _
    rw [timed_settled s _ settled, atActivityPoint, live_up up]
  have only : e.Only [0, 12, 17] [] a := .advance _ _ (by decide) (by decide) (by decide)
  have kept := (e.advance_passes T).parts
  have gvt : a.kpr.gvt = e.kpr.gvt := e.advance_kpr_gvt T
  have foundA : ∀ p, ({ a with kpr := { a.kpr with nextPoint := T + 1 } } : Eng).foundActive p =
      (a.led.recs.any (fun x => a.eligible x.2.inst x.1 T && decide (rqPid x.2.rqid = p)) || a.stepPids.contains p) := fun p => by
    rw [Eng.foundActive_eq, ← now]
    rfl
  generalize hb : ({ a with kpr := { a.kpr with nextPoint := T + 1 } } : Eng) = b at ran foundA
  have bNow : b.now = T := hb ▸ now
  have bPoint : b.kpr.nextPoint = T + 1 := hb ▸ rfl
  have bPart : ∀ p, b.part p = a.part p := fun p => hb ▸ rfl
  have bGvt : b.kpr.gvt = e.kpr.gvt := hb ▸ gvt
  have bOnly : e.Only [0, 12, 17] [] b := hb ▸ only.trans (.setKpr _ _ (by decide))
  have bEn : b.fb F.KPR_CTL_EN = true := by
    rw [← hb]
    exact (Eng.advance_fb _ _ _ _ (by decide) (by decide)).trans en
  obtain ⟨g, point⟩ := b.activity_on bEn
  obtain ⟨⟨parts, whole⟩, each⟩ := foldl_parts b b.pointPart (fun p k => k.atPoint (b.foundActive p) b.pointGvt) (pointPart_each b) partRange
    partRange_nodup
  rw [whole] at point each
  rw [point] at ran
  have part : ∀ p, p < 64 → (b.setParts parts).part p = (a.part p).atPoint (b.foundActive p) b.pointGvt := fun p low => by
    rw [each p, if_pos (mem_partRange.mpr low), bPart]
  refine ⟨_, ran, bNow, bPoint, fun p low => ?_, fun p low stays => ?_, fun none_ p low on => ?_, rfl, rfl,
    (bOnly.trans (.setParts _ _ (by decide))).trans (.setKpr _ _ (by decide))⟩
  · exact (congrArg KPart.active (part p low)).trans (foundA p)
  · have eq := part p low
    have same : (a.part p).active = (e.part p).active ∧ (a.part p).pass = (e.part p).pass := by rw [kept p]; exact ⟨rfl, rfl⟩
    refine (congrArg KPart.pass eq).trans ?_
    rw [KPart.atPoint]
    refine (if_neg (fun starts => ?_)).trans same.2
    obtain ⟨on, was⟩ := Bool.and_eq_true_iff.mp starts
    rcases stays with h | h
    · rw [same.1, h] at was
      exact absurd was (by simp)
    · have off : b.foundActive p = false := (congrArg KPart.active eq).symm.trans h
      exact Bool.noConfusion (on.symm.trans off)
  · have eq := part p low
    have same : ∀ p, (a.part p).active = (e.part p).active ∧ (a.part p).pass = (e.part p).pass := fun p => by rw [kept p]; exact ⟨rfl, rfl⟩
    have found : b.foundActive p = true := (congrArg KPart.active eq).symm.trans on
    refine (congrArg KPart.pass eq).trans ?_
    rw [KPart.atPoint, found, (same p).1, none_ p low, b.pointGvt_none (fun q hq => by rw [bPart, (same q).1, none_ q hq]), bGvt, (same p).2]
    rfl

/-! ### Refills -/

/-- What a refill makes of a partition: each bucket gains its rate up to its burst, and the credits are set anew. -/
def Eng.refilled (e : Eng) (p : Nat) (k : KPart) : KPart :=
  { k with
    store := refill1 (e.rates p).1 (e.av F.KPR_PART_STORE_BURST_BURST p) k.store
    cellar := refill1 (e.rates p).2.1 (e.av F.KPR_PART_CELLAR_BURST_BURST p) k.cellar
    raf := refill1 (e.rates p).2.2 (e.av F.KPR_PART_RAF_BURST_BURST p) k.raf
    credits := linkRange.foldl (fun t l => tsetD t l (e.windowCredit p l) 0) [] }

theorem tgetD_foldl_tsetD (f : Nat → Nat) (ls : List Nat) (t : Tab Nat) (l : Nat) :
    tgetD (ls.foldl (fun t l => tsetD t l (f l) 0) t) l 0 = if l ∈ ls then f l else tgetD t l 0 := by
  induction ls generalizing t with
  | nil => rfl
  | cons x ls ih =>
    rw [List.foldl_cons, ih, tgetD_tsetD]
    by_cases later : l ∈ ls
    · simp [later]
    · by_cases same : l = x
      · subst same
        simp [later]
      · simp [later, same]

theorem refillPart_each (e0 : Eng) (parts : Tab KPart) (p : Nat) :
    (∃ parts', (e0.setParts parts).refillPart p = e0.setParts parts') ∧
      ∀ q, ((e0.setParts parts).refillPart p).part q =
        if q = p then e0.refilled p ((e0.setParts parts).part p) else (e0.setParts parts).part q :=
  modPart_each e0 e0.refilled parts p

/-- The second part of O47: the regulator's refill. -/
theorem regulatorRefill_fills {s : State} (up : s.boot.absent = false) (settled : s.Settled) (on : s.eng.kprOn = true) :
    let e := s.eng
    let fill := fun (rate burst : Nat) (l : Int) => if rate = 0 then l else max l (min (burst : Int) (l + rate))
    let T := roundUp (max e.now e.kpr.nextRefill) 1024
    ∃ t, exec .regulatorRefill s = .next t ∧ t.eng.now = T ∧ t.eng.kpr.nextRefill = T + 1 ∧ t.eng.kpr.admitting = true ∧
      (∀ p, p < 64 →
        (t.eng.part p).store = fill (e.av F.KPR_PART_STORE_RATE_RATE p) (e.av F.KPR_PART_STORE_BURST_BURST p) (e.part p).store ∧
        (t.eng.part p).cellar = fill (e.av F.KPR_PART_CELLAR_RATE_RATE p) (e.av F.KPR_PART_CELLAR_BURST_BURST p) (e.part p).cellar ∧
        (t.eng.part p).raf = fill (e.av F.KPR_PART_RAF_RATE_RATE p) (e.av F.KPR_PART_RAF_BURST_BURST p) (e.part p).raf ∧
        ∀ l, l < 9 → tgetD (t.eng.part p).credits l 0 =
          if l < 7 then 25600 * e.av F.KPR_PART_RAF_RESV_SLED p / 256 else 51200 * e.av F.KPR_PART_RAF_RESV_RING p / 256) ∧
      s.Only [0, 12, 17] [] t := by
  intro e fill T
  have now : (e.advance T).now = T := e.advance_due _ (by decide)
  have avs : ∀ f p, (e.advance T).av f p = e.av f p := fun f p => Eng.advance_av e T f p
  have only : e.Only [0, 12, 17] [] (e.advance T) := .advance _ _ (by decide) (by decide) (by decide)
  have kept := (e.advance_passes T).parts
  have on' := (e.advance_kprOn T).trans on
  have ran : exec .regulatorRefill s = .next (s.withEng (let b := { e.advance T with kpr := { (e.advance T).kpr with nextRefill := T + 1 } }
      { partRange.foldl Eng.refillPart b with kpr := { (partRange.foldl Eng.refillPart b).kpr with admitting := true } })) := by
    change timed s atRegulatorRefill = _
    rw [timed_settled s _ settled, atRegulatorRefill, live_up up]
    exact congrArg (fun y => Host.Outcome.next (s.withEng y)) 
      (if_neg (fun off => Bool.noConfusion (on'.symm.trans ((Bool.not_eq_true' _).mp off))))
  generalize e.advance T = a at *
  dsimp only at ran
  generalize hb : ({ a with kpr := { a.kpr with nextRefill := T + 1 } } : Eng) = b at ran
  have bNow : b.now = T := hb ▸ now
  have bNext : b.kpr.nextRefill = T + 1 := hb ▸ rfl
  have bAv : ∀ f p, b.av f p = e.av f p := fun f p => hb ▸ avs f p
  have bPart : ∀ p, b.part p = a.part p := fun p => hb ▸ rfl
  have bOnly : e.Only [0, 12, 17] [] b := hb ▸ only.trans (.setKpr _ _ (by decide))
  obtain ⟨⟨parts, whole⟩, each⟩ := foldl_parts b Eng.refillPart b.refilled (refillPart_each b) partRange partRange_nodup
  rw [whole] at ran each
  refine ⟨_, ran, bNow, bNext, rfl, fun p low => ?_, rfl, rfl, (bOnly.trans (.setParts _ _ (by decide))).trans (.setKpr _ _ (by decide))⟩
  have part : (b.setParts parts).part p = b.refilled p (a.part p) := by rw [each p, if_pos (mem_partRange.mpr low), bPart]
  have same : (a.part p).store = (e.part p).store ∧ (a.part p).cellar = (e.part p).cellar ∧ (a.part p).raf = (e.part p).raf := by
    rw [kept p]
    exact ⟨rfl, rfl, rfl⟩
  obtain ⟨store, cellar, raf⟩ := same
  change ((b.setParts parts).part p).store = _ ∧ ((b.setParts parts).part p).cellar = _ ∧ ((b.setParts parts).part p).raf = _ ∧
    ∀ l, l < 9 → tgetD ((b.setParts parts).part p).credits l 0 = _
  rw [part]
  refine ⟨?_, ?_, ?_, fun l link => ?_⟩
  · simp only [Eng.refilled, Eng.rates, bAv, store]; rfl
  · simp only [Eng.refilled, Eng.rates, bAv, cellar]; rfl
  · simp only [Eng.refilled, Eng.rates, bAv, raf]; rfl
  · refine (tgetD_foldl_tsetD _ _ _ _).trans ((if_pos (List.mem_range.mpr link)).trans ?_)
    rw [Eng.windowCredit, bAv, bAv]

/-- A level of the admission bucket of a partition once it has gained its rate, up to its burst. -/
def Eng.gained (e : Eng) (p b : Nat) : Nat := max b (min (e.av F.GAT_PART_BURST_BURST p) (b + e.av F.GAT_PART_RATE_RATE p))

/-- The Gate's admission bucket of one partition, refilled. -/
def Eng.refillBucket (e : Eng) (p : Nat) : Eng :=
  if e.av F.GAT_PART_RATE_RATE p = 0 then e
  else { e with gat := { e.gat with bucket := tsetD e.gat.bucket p (e.gained p (tgetD e.gat.bucket p 0)) 0 } }

theorem foldl_refillBucket (ps : List Nat) (e : Eng) (nodup : ps.Nodup) :
    ∃ bucket, ps.foldl Eng.refillBucket e = { e with gat := { e.gat with bucket } } ∧
      ∀ p, tgetD bucket p 0 = if p ∈ ps ∧ e.av F.GAT_PART_RATE_RATE p ≠ 0 then e.gained p (tgetD e.gat.bucket p 0)
        else tgetD e.gat.bucket p 0 := by
  induction ps generalizing e with
  | nil => exact ⟨_, rfl, fun p => by simp⟩
  | cons q ps ih =>
    obtain ⟨fresh, rest⟩ := List.nodup_cons.mp nodup
    rw [List.foldl_cons]
    by_cases none_ : e.av F.GAT_PART_RATE_RATE q = 0
    · have kept : e.refillBucket q = e := if_pos none_
      obtain ⟨bucket, whole, each⟩ := ih e rest
      refine ⟨bucket, by rw [kept]; exact whole, fun p => (each p).trans ?_⟩
      by_cases same : p = q
      · subst same
        simp [none_]
      · simp [same]
    · have filled : e.refillBucket q =
          { e with gat := { e.gat with bucket := tsetD e.gat.bucket q (e.gained q (tgetD e.gat.bucket q 0)) 0 } } := if_neg none_
      obtain ⟨bucket, whole, each⟩ := ih (e.refillBucket q) rest
      rw [filled] at whole each
      refine ⟨bucket, by rw [filled]; exact whole, fun p => (each p).trans ?_⟩
      dsimp only
      by_cases same : p = q
      · subst same
        refine (if_neg (fun h => fresh h.1)).trans ((tgetD_tsetD_same _ _ _ _).trans ?_)
        exact (if_pos ⟨List.mem_cons_self, none_⟩).symm
      · rw [tgetD_tsetD_ne _ _ _ same]
        simp only [List.mem_cons, same, false_or]
        rfl

/-- The refill of every admission bucket, once the Tally is there. -/
theorem Eng.refillBuckets {e a : Eng} {T : Nat} (now : a.now = T) (avs : ∀ f p, a.av f p = e.av f p) (gat : a.gat = e.gat)
    (only : e.Only [0, 3, 12, 17] [] a) :
    let z := partRange.foldl Eng.refillBucket { a with gat := { a.gat with nextRefill := T + 1 } }
    z.now = T ∧ (∀ p, p < 64 → tgetD z.gat.bucket p 0 =
        if e.av F.GAT_PART_RATE_RATE p = 0 then tgetD e.gat.bucket p 0 else e.gained p (tgetD e.gat.bucket p 0)) ∧
      z.gat = { e.gat with nextRefill := T + 1, bucket := z.gat.bucket } ∧ e.Only [0, 3, 12, 17] [] z := by
  generalize hb : ({ a with gat := { a.gat with nextRefill := T + 1 } } : Eng) = b
  have bNow : b.now = T := hb ▸ now
  have bAv : ∀ f p, b.av f p = e.av f p := fun f p => hb ▸ avs f p
  have bGat : b.gat = { e.gat with nextRefill := T + 1 } := hb ▸ congrArg (fun g : Gat => { g with nextRefill := T + 1 }) gat
  have bOnly : e.Only [0, 3, 12, 17] [] b := hb ▸ only.trans (.setGat _ _ (by decide))
  obtain ⟨bucket, whole, each⟩ := foldl_refillBucket partRange b partRange_nodup
  rw [whole]
  refine ⟨bNow, fun p low => (each p).trans ?_, congrArg (fun g : Gat => { g with bucket }) bGat, bOnly.trans (.setGat _ _ (by decide))⟩
  have level : tgetD b.gat.bucket p 0 = tgetD e.gat.bucket p 0 := by rw [bGat]
  by_cases none_ : e.av F.GAT_PART_RATE_RATE p = 0
  · exact ((if_neg (fun h => h.2 ((bAv _ _).trans none_))).trans level).trans (if_pos none_).symm
  · refine (if_pos ⟨mem_partRange.mpr low, fun h => none_ ((bAv _ _).symm.trans h)⟩).trans (Eq.trans ?_ (if_neg none_).symm)
    rw [Eng.gained, Eng.gained, bAv, bAv, level]

/-- The third part of O47: the refill of the admission buckets. -/
theorem admissionBucketRefill_fills {s : State} (up : s.boot.absent = false) (settled : s.Settled) :
    let e := s.eng
    let T := roundUp (max e.now e.gat.nextRefill) 1000000
    ∃ t, exec .admissionBucketRefill s = .next t ∧ t.eng.now = T ∧
      (∀ p, p < 64 → tgetD t.eng.gat.bucket p 0 =
        (let b := tgetD e.gat.bucket p 0
         if e.av F.GAT_PART_RATE_RATE p = 0 then b else max b (min (e.av F.GAT_PART_BURST_BURST p) (b + e.av F.GAT_PART_RATE_RATE p)))) ∧
      t.eng.gat = { e.gat with nextRefill := T + 1, bucket := t.eng.gat.bucket } ∧ s.Only [0, 3, 12, 17] [] t := by
  intro e T
  have now : (e.advance T).now = T := e.advance_due _ (by decide)
  have avs : ∀ f p, (e.advance T).av f p = e.av f p := fun f p => Eng.advance_av e T f p
  have gat : (e.advance T).gat = e.gat := Eng.advance_gat e T
  have only : e.Only [0, 3, 12, 17] [] (e.advance T) := .advance _ _ (by decide) (by decide) (by decide)
  have ran : exec .admissionBucketRefill s = .next (s.withEng (partRange.foldl Eng.refillBucket
      { e.advance T with gat := { (e.advance T).gat with nextRefill := T + 1 } })) := by
    change timed s atAdmissionBucketRefill = _
    rw [timed_settled s _ settled, atAdmissionBucketRefill, live_up up]
    rfl
  have filled := Eng.refillBuckets now avs gat only
  generalize partRange.foldl Eng.refillBucket _ = z at ran filled
  obtain ⟨reached, levels, same, kept⟩ := filled
  exact ⟨_, ran, reached, levels, same, .withEng kept⟩

/-! ### The close of an accounting interval -/

theorem slowdown_lt (a c b : Nat) : slowdown a c b < 2 ^ 16 := by
  unfold slowdown
  split
  · decide
  · omega

/-- A partition's slowdown is shown and reported: its register alone, and reports. -/
theorem Eng.slowReport_shows (e : Eng) (n p : Nat) :
    (e.poke F.KPR_PART_SLOW_SLOW (slowdown (e.part p).aTicks (e.part p).cTicks (e.part p).bTicks) p).Reports (e.slowReport n p) := by
  unfold Eng.slowReport
  dsimp only
  split
  · exact Eng.raiseP_reports _ _ _ _ _ _
  · exact .refl _

theorem Eng.slowReport_only (e : Eng) (n : Nat) {p : Nat} (low : p < 64) : e.Only [1, 17] [0xC058] (e.slowReport n p) :=
  (Eng.Only.poke _ _ _ _ (by omega) (by decide)).trans (.of_reports (e.slowReport_shows n p) (by decide) (by decide))

theorem Eng.slowReport_here (e : Eng) (n : Nat) {p : Nat} (low : p < 64) :
    (e.slowReport n p).fv F.KPR_PART_SLOW_SLOW p = slowdown (e.part p).aTicks (e.part p).cTicks (e.part p).bTicks := by
  unfold Eng.fv
  rw [(e.slowReport_shows n p).regs _ _ (by omega) (by decide)]
  exact (Eng.fv_poke_same _ _ _ _ (by decide)).trans (Nat.mod_eq_of_lt (slowdown_lt _ _ _))

theorem Eng.slowReport_beside (e : Eng) (n : Nat) {p q : Nat} (low : p < 64) (low' : q < 64) (other : q ≠ p) :
    (e.slowReport n p).fv F.KPR_PART_SLOW_SLOW q = e.fv F.KPR_PART_SLOW_SLOW q := by
  unfold Eng.fv
  rw [(e.slowReport_shows n p).regs _ _ (by omega) (by decide)]
  exact Eng.fv_poke_ne _ _ _ _ _ _ (by omega) (by omega) (.inr other)

theorem foldl_slowReport (n : Nat) (ps : List Nat) (e : Eng) (low : ∀ p ∈ ps, p < 64) (nodup : ps.Nodup) :
    e.Only [1, 17] [0xC058] (ps.foldl (fun e p => e.slowReport n p) e) ∧
      ∀ p, p < 64 → (ps.foldl (fun e p => e.slowReport n p) e).fv F.KPR_PART_SLOW_SLOW p =
        if p ∈ ps then slowdown (e.part p).aTicks (e.part p).cTicks (e.part p).bTicks else e.fv F.KPR_PART_SLOW_SLOW p := by
  induction ps generalizing e with
  | nil => exact ⟨.refl _, fun p _ => rfl⟩
  | cons q ps ih =>
    obtain ⟨fresh, rest⟩ := List.nodup_cons.mp nodup
    have here : q < 64 := low q List.mem_cons_self
    obtain ⟨only, each⟩ := ih (e.slowReport n q) (fun p hp => low p (List.mem_cons_of_mem _ hp)) rest
    have keeper : (e.slowReport n q).kpr = e.kpr := (e.slowReport_only n here).parts 12 (by decide)
    have part : ∀ p, (e.slowReport n q).part p = e.part p := fun p => congrArg (fun k : Kpr => tgetD k.parts p {}) keeper
    rw [List.foldl_cons]
    refine ⟨(e.slowReport_only n here).trans only, fun p hp => (each p hp).trans ?_⟩
    rw [part]
    by_cases same : p = q
    · subst same
      rw [if_neg fresh, if_pos List.mem_cons_self, e.slowReport_here n here]
    · rw [e.slowReport_beside n here hp same]
      simp only [List.mem_cons, same, false_or]

/-- The record of a partition leaves all but Keeper and the count of records. -/
theorem Eng.acctPart_only (e : Eng) (n p : Nat) : e.Only [12] [0xC26C] (e.acctPart n p) := by
  unfold Eng.acctPart
  dsimp only
  split
  · exact .refl _
  · split
    · exact .setKpr _ _ (by decide)
    · exact ((Eng.Only.emit _ _).trans (.poke _ _ _ _ (by decide) (by decide))).trans (.setKpr _ _ (by decide))

theorem foldl_acctPart_nextClose (n : Nat) (ps : List Nat) (e : Eng) :
    (ps.foldl (fun e p => e.acctPart n p) e).kpr.nextClose = e.kpr.nextClose := by
  induction ps generalizing e with
  | nil => rfl
  | cons p ps ih =>
    refine (ih _).trans ?_
    unfold Eng.acctPart
    dsimp only
    split
    · rfl
    · split <;> rfl

theorem Eng.Only.weaken {us us' offs offs' : List Nat} {e e' : Eng} (only : e.Only us offs e') (units : ∀ u ∈ us, u ∈ us')
    (regs : ∀ o ∈ offs, o ∈ offs') : e.Only us' offs' e' :=
  ⟨fun u out => only.parts u (fun h => out (units u h)),
    fun o sel low out tally stall => only.regs o sel low (fun h => out (regs o h)) tally (fun h zero => stall h (units 0 zero)), only.out⟩

/-- The sums of an interval start again. -/
def KPart.restarted (k : KPart) : KPart := { k with aTicks := 0, cTicks := 0, bTicks := 0 }

/-- What the close of an interval does, once the Tally is there. -/
theorem closeInterval (b : Eng) :
    let n := b.fv F.KPR_SLOW_HEAD_HEAD
    let y := (b.emit (.slowBlock n (partRange.map b.slowRec))).poke F.KPR_SLOW_HEAD_HEAD ((n + 1) % two32)
    let y := partRange.foldl (fun e p => e.slowReport n p) y
    let y := partRange.foldl (fun e p => e.acctPart n p) y
    let z := partRange.foldl (fun e p => e.modPart p KPart.restarted) y
    z.kpr.nextClose = b.kpr.nextClose ∧ .slowBlock n (partRange.map b.slowRec) ∈ z.out ∧ z.fv F.KPR_SLOW_HEAD_HEAD = (n + 1) % 2 ^ 32 ∧
      (∀ p, p < 64 → z.fv F.KPR_PART_SLOW_SLOW p = slowdown (b.part p).aTicks (b.part p).cTicks (b.part p).bTicks) ∧
      (∀ p, p < 64 → (z.part p).aTicks = 0 ∧ (z.part p).cTicks = 0 ∧ (z.part p).bTicks = 0) ∧
      b.Only [1, 12, 17] [0xC058, 0xC098, 0xC26C] z := by
  intro n y1 y2 y3 z
  have begun : b.Only [1, 12, 17] [0xC058, 0xC098, 0xC26C] y1 := (Eng.Only.emit _ _).trans (.poke _ _ _ _ (by decide) (by decide))
  have head1 : y1.fv F.KPR_SLOW_HEAD_HEAD = (n + 1) % 2 ^ 32 := (Eng.fv_poke_same _ _ _ _ (by decide)).trans (Nat.mod_mod _ _)
  have out1 : .slowBlock n (partRange.map b.slowRec) ∈ y1.out := List.mem_cons_self
  have part1 : ∀ p, y1.part p = b.part p := fun p => rfl
  have next1 : y1.kpr.nextClose = b.kpr.nextClose := rfl
  clear_value y1
  obtain ⟨only2, slow2⟩ := foldl_slowReport n partRange y1 (fun p hp => mem_partRange.mp hp) partRange_nodup
  change y1.Only [1, 17] [0xC058] y2 at only2
  change ∀ p, p < 64 → y2.fv F.KPR_PART_SLOW_SLOW p = _ at slow2
  clear_value y2
  have next2 : y2.kpr.nextClose = y1.kpr.nextClose := congrArg Kpr.nextClose (only2.parts 12 (by decide))
  have whole3 : y3 = partRange.foldl (fun e p => e.acctPart n p) y2 := rfl
  have next3 := foldl_acctPart_nextClose n partRange y2
  rw [← whole3] at next3
  have only3 : y2.Only [12] [0xC26C] y3 := .foldl _ _ (fun e p _ => e.acctPart_only n p) _
  clear_value y3
  obtain ⟨⟨parts, whole⟩, each⟩ := foldl_parts y3 (fun e p => e.modPart p KPart.restarted) (fun _ => KPart.restarted)
    (modPart_each y3 (fun _ => KPart.restarted)) partRange partRange_nodup
  change z = y3.setParts parts at whole
  change ∀ q, z.part q = _ at each
  clear_value z
  have only4 : y3.Only [12] [] z := whole ▸ .setParts _ _ (by decide)
  have only := ((begun.trans (only2.weaken (by decide) (by decide))).trans (only3.weaken (by decide) (by decide))).trans
    (only4.weaken (by decide) (by decide))
  have reg : ∀ o p, p < 65536 → o ≠ 0xC058 → o ≠ 0xC26C → tallyReg o = false → o ≠ 0xB094 → z.reg o p = y1.reg o p := fun o p low a c t d =>
    ((only4.regs o p low List.not_mem_nil t (fun h => absurd h d)).trans (only3.regs o p low (by simp [c]) t (fun h => absurd h d))).trans
      (only2.regs o p low (by simp [a]) t (fun h => absurd h d))
  have slow : ∀ p, p < 64 → z.fv F.KPR_PART_SLOW_SLOW p = y2.fv F.KPR_PART_SLOW_SLOW p := fun p low => by
    have same : z.reg 0xC058 p = y2.reg 0xC058 p :=
      (only4.regs _ p (by omega) (by decide) (by decide) (by simp)).trans (only3.regs _ p (by omega) (by decide) (by decide) (by simp))
    exact congrArg (fun w : Word => bitsOf w.toNat 15 0) same
  have grows : ∀ x, x ∈ y1.out → x ∈ z.out := fun x hx => by
    obtain ⟨l2, o2⟩ := only2.out
    obtain ⟨l3, o3⟩ := only3.out
    obtain ⟨l4, o4⟩ := only4.out
    rw [o4, o3, o2]
    exact List.mem_append_right _ (List.mem_append_right _ (List.mem_append_right _ hx))
  refine ⟨by rw [whole]; exact (next3.trans next2).trans next1, grows _ out1, ?_, fun p low => ?_, fun p low => ?_, only⟩
  · exact (congrArg (fun w : Word => bitsOf w.toNat 31 0) (reg 0xC098 0 (by decide) (by decide) (by decide) (by decide) (by decide))).trans head1
  · rw [slow p low, slow2 p low, if_pos (mem_partRange.mpr low), part1]
  · rw [each p, if_pos (mem_partRange.mpr low)]
    exact ⟨rfl, rfl, rfl⟩

/-- The fourth part of O47: the close of an accounting interval. -/
theorem acctIntervalClose_reports {s : State} (up : s.boot.absent = false) (settled : s.Settled) (on : s.eng.kprOn = true) :
    let e := s.eng
    let T := roundUp (max e.now e.kpr.nextClose) (max 10000 (e.av F.KPR_ACCT_INTERVAL_INTERVAL))
    let a := e.advance T
    let n := e.fv F.KPR_SLOW_HEAD_HEAD
    let slow := fun (p : Nat) =>
      let k := a.part p
      if k.aTicks = 0 then 0 else min (k.aTicks * 256 / max (k.aTicks - min (k.cTicks + k.bTicks) k.aTicks) 1) 0xFFFF
    ∃ t, exec .acctIntervalClose s = .next t ∧ t.eng.now = T ∧ t.eng.kpr.nextClose = T + 1 ∧
      .slowBlock n ((List.range 64).map (fun p =>
        let k := a.part p
        (min k.aTicks (2 ^ 32 - 1), min k.cTicks (2 ^ 32 - 1), min k.bTicks (2 ^ 32 - 1), slow p, p))) ∈ t.eng.out ∧
      t.eng.fv F.KPR_SLOW_HEAD_HEAD = (n + 1) % 2 ^ 32 ∧ (∀ p, p < 64 → t.eng.fv F.KPR_PART_SLOW_SLOW p = slow p) ∧
      (∀ p, p < 64 → (t.eng.part p).aTicks = 0 ∧ (t.eng.part p).cTicks = 0 ∧ (t.eng.part p).bTicks = 0) ∧
      s.Only [0, 1, 12, 17] [0xC058, 0xC098, 0xC26C] t := by
  intro e T a n slow
  have now : a.now = T := e.advance_due _ (by omega)
  have head : a.fv F.KPR_SLOW_HEAD_HEAD = n := Eng.advance_fv _ _ _ _ (by decide) (by decide)
  have only : e.Only [0, 1, 12, 17] [0xC058, 0xC098, 0xC26C] a := .advance _ _ (by decide) (by decide) (by decide)
  have on' : a.kprOn = true := (e.advance_kprOn T).trans on
  have ran : exec .acctIntervalClose s = .next (s.withEng (
      let b : Eng := { a with kpr := { a.kpr with nextClose := T + 1 } }
      let n := b.fv F.KPR_SLOW_HEAD_HEAD
      let y := (b.emit (.slowBlock n (partRange.map b.slowRec))).poke F.KPR_SLOW_HEAD_HEAD ((n + 1) % two32)
      let y := partRange.foldl (fun e p => e.slowReport n p) y
      let y := partRange.foldl (fun e p => e.acctPart n p) y
      partRange.foldl (fun e p => e.modPart p KPart.restarted) y)) := by
    change timed s atAcctIntervalClose = _
    rw [timed_settled s _ settled, atAcctIntervalClose, live_up up]
    exact congrArg (fun y => Host.Outcome.next (s.withEng y))
      (if_neg (fun off => Bool.noConfusion (on'.symm.trans ((Bool.not_eq_true' _).mp off))))
  clear_value T a
  dsimp only at ran
  generalize hb : ({ a with kpr := { a.kpr with nextClose := T + 1 } } : Eng) = b at ran
  have bNow : b.now = T := hb ▸ now
  have bNext : b.kpr.nextClose = T + 1 := hb ▸ rfl
  have bHead : b.fv F.KPR_SLOW_HEAD_HEAD = n := hb ▸ head
  have bPart : ∀ p, b.part p = a.part p := fun p => hb ▸ rfl
  have bOnly : e.Only [0, 1, 12, 17] [0xC058, 0xC098, 0xC26C] b := hb ▸ only.trans (.setKpr _ _ (by decide))
  obtain ⟨next, block, head', slows, sums, kept⟩ := closeInterval b
  generalize partRange.foldl (fun e p => Eng.modPart e p KPart.restarted) _ = z at *
  have records : partRange.map b.slowRec = (List.range 64).map (fun p =>
      let k := a.part p
      (min k.aTicks (2 ^ 32 - 1), min k.cTicks (2 ^ 32 - 1), min k.bTicks (2 ^ 32 - 1), slow p, p)) :=
    List.map_congr_left (fun p _ => by rw [Eng.slowRec, bPart]; rfl)
  rw [bHead] at block head'
  rw [records] at block
  refine ⟨_, ran, ?_, next.trans bNext, block, head', fun p low => (slows p low).trans (by rw [bPart]; rfl), sums,
    .withEng (bOnly.trans (kept.weaken (by decide) (by decide)))⟩
  have same : z.now = b.now := kept.parts 0 (by decide)
  exact same.trans bNow

/-- Settles O47: the activity points, the refills and the close of an interval. -/
theorem refillsAndPoints : Obligations.RefillsAndPoints := by
  intro s up settled
  exact ⟨fun en => activityPoint_finds up settled en, fun on => regulatorRefill_fills up settled on, admissionBucketRefill_fills up settled,
    fun on => acctIntervalClose_reports up settled on⟩

end Sys2Proof.Machine
end

section
/-!
Faults (O59): captured by class, counted, acted on, and popped.
-/
namespace Sys2Proof.Machine

/-! ### Captures -/

theorem Eng.cap_setCap (e : Eng) (u k : Nat) (c : Cap) : (e.setCap u c).cap_ k = if k = u then c else e.cap_ k :=
  tgetD_tsetD _ _ _ _ _

theorem Eng.Reports.cap_ {e e' : Eng} (reports : e.Reports e') (k : Nat) : e'.cap_ k = e.cap_ k :=
  congrArg (fun r : Ras => tgetD r.caps k {}) reports.ras_eq

theorem Eng.Only.setRas {us offs : List Nat} (e : Eng) (x : Ras) (ras : 16 ∈ us) : e.Only us offs { e with ras := x } :=
  .of_parts rfl rfl (fun u out => by unfold Eng.partSame; split <;> simp_all)

theorem Eng.Only.setRsu {us offs : List Nat} (e : Eng) (x : Rsu) (random : 10 ∈ us) : e.Only us offs { e with rsu := x } :=
  .of_parts rfl rfl (fun u out => by unfold Eng.partSame; split <;> simp_all)

/-- A fault as it is captured: with the Tally, and whether another one was being handled. -/
def Eng.stamped (e : Eng) (f : FaultRec) : FaultRec := { f with stamp := e.now, handling := e.anyHandling }

/-- A CORRECTED fault is counted. -/
def Eng.counted (e : Eng) (f : FaultRec) : Eng := if f.cls = 0 then e.bump F.RAS_CORRECTED_COUNT else e

theorem Eng.counted_ras (e : Eng) (f : FaultRec) : (e.counted f).ras = e.ras := by unfold Eng.counted; split <;> rfl

theorem Eng.counted_log (e : Eng) (f : FaultRec) : (e.counted f).fb F.RAS_CTL_LOG_CORRECTED = e.fb F.RAS_CTL_LOG_CORRECTED := by
  unfold Eng.counted
  split
  · unfold Eng.fb
    rw [Eng.bump, Eng.fv_poke_ne _ _ _ _ _ _ (by decide) (by decide) (.inl (by decide))]
  · rfl

theorem Eng.counted_only {us offs : List Nat} (e : Eng) (f : FaultRec) (count : 0xF010 ∈ offs) : e.Only us offs (e.counted f) := by
  unfold Eng.counted
  split
  · exact .bump _ _ _ _ (by decide) count
  · exact .refl _

theorem Eng.capture_eq (e : Eng) (f : FaultRec) :
    e.capture f =
      if f.cls = 0 ∧ (!(e.counted f).fb F.RAS_CTL_LOG_CORRECTED) = true then e.counted f
      else if !((e.counted f).cap_ f.unit).handling then
        ((e.counted f).setCap f.unit { (e.counted f).cap_ f.unit with cap1 := some (e.stamped f), handling := true }).faultEvent (e.stamped f)
      else if ((e.counted f).cap_ f.unit).cap2.isNone then
        ((e.counted f).setCap f.unit { (e.counted f).cap_ f.unit with cap2 := some (e.stamped f) }).faultEvent (e.stamped f)
      else (e.counted f).poke F.RAS_UNIT_STATE_OVERFLOW (satN 16 ((e.counted f).fv F.RAS_UNIT_STATE_OVERFLOW f.unit + 1)) f.unit := rfl

/-- A fault that is not to be logged is counted only. -/
theorem Eng.capture_unlogged (e : Eng) {f : FaultRec} (corrected : f.cls = 0) (quiet : e.fb F.RAS_CTL_LOG_CORRECTED = false) :
    e.capture f = e.bump F.RAS_CORRECTED_COUNT := by
  have log := (e.counted_log f).trans quiet
  unfold Eng.counted at log
  rw [if_pos corrected] at log
  rw [Eng.capture]
  simp only [corrected, if_true, log, Bool.not_false, and_self]

/-- A fault whose unit has nothing captured takes the first place. -/
theorem Eng.capture_first (e : Eng) {f : FaultRec} (logged : f.cls ≠ 0 ∨ e.fb F.RAS_CTL_LOG_CORRECTED = true)
    (free : (e.cap_ f.unit).handling = false) :
    ((e.counted f).setCap f.unit { e.cap_ f.unit with cap1 := some (e.stamped f), handling := true }).Reports (e.capture f) := by
  have cap_ : (e.counted f).cap_ f.unit = e.cap_ f.unit := congrArg (fun r : Ras => tgetD r.caps f.unit {}) (e.counted_ras f)
  have goes : ¬(f.cls = 0 ∧ (!(e.counted f).fb F.RAS_CTL_LOG_CORRECTED) = true) := fun ⟨corrected, shut⟩ => by
    rcases logged with h | h
    · exact h corrected
    · rw [e.counted_log, h] at shut
      exact absurd shut (by simp)
  have eq : e.capture f = ((e.counted f).setCap f.unit { e.cap_ f.unit with cap1 := some (e.stamped f), handling := true }).faultEvent
      (e.stamped f) := by
    rw [← cap_]
    rw [← cap_] at free
    unfold Eng.capture
    refine (if_neg goes).trans ((if_pos ?_).trans rfl)
    exact (Bool.not_eq_true' _).mpr free
  rw [eq]
  exact Eng.raise_reports _ _

/-- A fault whose unit has both places taken is counted as an overflow. -/
theorem Eng.capture_overflow (e : Eng) {f : FaultRec} {r : FaultRec} (class_ : f.cls ≠ 0) (busy : (e.cap_ f.unit).handling = true)
    (full : (e.cap_ f.unit).cap2 = some r) :
    e.capture f = e.poke F.RAS_UNIT_STATE_OVERFLOW (satN 16 (e.fv F.RAS_UNIT_STATE_OVERFLOW f.unit + 1)) f.unit := by
  unfold Eng.capture
  simp only [class_, if_false, false_and, busy, full, Bool.not_true, Bool.false_eq_true, Option.isNone_some]

/-- A capture, once it is counted, changes its unit's places or counts an overflow. -/
theorem Eng.capture_after {us offs : List Nat} (e : Eng) {f : FaultRec} (low : f.unit < 65536) (hatch : 1 ∈ us) (ras : 16 ∈ us) (port : 17 ∈ us)
    (over_ : 0xF024 ∈ offs) : (e.counted f).Only us offs (e.capture f) := by
  have raised : ∀ (y : Eng) (c : Cap) (g : FaultRec), y.Only us offs ((y.setCap f.unit c).faultEvent g) := fun y c g =>
    (Eng.Only.setRas _ _ ras).trans (.of_reports (Eng.raise_reports _ _) hatch port)
  rw [Eng.capture_eq]
  refine .ite (fun _ => .refl _) (fun _ => .ite (fun _ => raised _ _ _) (fun _ => .ite (fun _ => raised _ _ _) (fun _ => ?_)))
  exact .poke _ _ _ _ low over_

/-- A capture changes its unit's places, and counts. -/
theorem Eng.capture_only {us offs : List Nat} (e : Eng) {f : FaultRec} (low : f.unit < 65536) (hatch : 1 ∈ us) (ras : 16 ∈ us) (port : 17 ∈ us)
    (count : 0xF010 ∈ offs ∨ f.cls ≠ 0) (over_ : 0xF024 ∈ offs) : e.Only us offs (e.capture f) := by
  have begun : e.Only us offs (e.counted f) := by
    rcases count with h | h
    · exact e.counted_only f h
    · rw [Eng.counted, if_neg h]
      exact .refl _
  exact begun.trans (e.capture_after low hatch ras port over_)

/-- A capture leaves every other unit's places. -/
theorem Eng.capture_beside (e : Eng) (f : FaultRec) {k : Nat} (other : k ≠ f.unit) : (e.capture f).cap_ k = e.cap_ k := by
  have begun : (e.counted f).cap_ k = e.cap_ k := congrArg (fun r : Ras => tgetD r.caps k {}) (e.counted_ras f)
  have raised : ∀ (y : Eng) (c : Cap) (g : FaultRec), ((y.setCap f.unit c).faultEvent g).cap_ k = y.cap_ k := fun y c g =>
    ((Eng.raise_reports _ _).cap_ k).trans ((Eng.cap_setCap ..).trans (if_neg other))
  rw [← begun, Eng.capture_eq]
  generalize e.counted f = y
  split
  · rfl
  · split
    · exact raised _ _ _
    · split
      · exact raised _ _ _
      · rfl

/-- Of RAS, a capture changes the captures alone. -/
theorem Eng.capture_ras (e : Eng) (f : FaultRec) : (e.capture f).ras = { e.ras with caps := (e.capture f).ras.caps } := by
  have raised : ∀ (y : Eng) (c : Cap) (g : FaultRec), ((y.setCap f.unit c).faultEvent g).ras =
      { y.ras with caps := ((y.setCap f.unit c).faultEvent g).ras.caps } := fun y c g => by
    rw [Eng.faultEvent, (Eng.raise_reports _ _).ras_eq]
    rfl
  rw [← e.counted_ras f, Eng.capture_eq]
  generalize e.counted f = y
  split
  · rfl
  · split
    · exact raised _ _ _
    · split
      · exact raised _ _ _
      · rfl

/-! ### Faults -/

/-- A fault with nothing lost by it: the last lane, pipe and Sieve engine are still there. -/
theorem Eng.faultAll_alone (e : Eng) {f : FaultIn} (lanes : (e.fault f).smp.map = e.smp.map) (pipes : (e.fault f).pan.retired = e.pan.retired)
    (sieves : (e.fault f).siv.retired = e.siv.retired) : e.faultAll f = e.fault f := by
  have active : (e.fault f).lanesActive = e.lanesActive := by
    unfold Eng.lanesActive Eng.lanePhys
    rw [lanes]
  unfold Eng.faultAll
  dsimp only
  have none1 : (decide (0 < e.lanesActive) && decide ((e.fault f).lanesActive = 0)) = false := by
    rw [active]
    by_cases h : e.lanesActive = 0 <;> simp [h]
  have none2 : (decide (e.pan.retired.length < 4) && decide (4 ≤ (e.fault f).pan.retired.length)) = false := by
    rw [pipes]
    by_cases h : e.pan.retired.length < 4
    · simp [h]
    · simp [h]
  have none3 : (decide (e.siv.retired.length < 4) && decide (4 ≤ (e.fault f).siv.retired.length)) = false := by
    rw [sieves]
    by_cases h : e.siv.retired.length < 4
    · simp [h]
    · simp [h]
  simp only [none1, none2, none3, Bool.false_eq_true, if_false]

theorem exec_fault {s : State} (up : s.boot.absent = false) (f : FaultIn) : exec (.fault f) s = .next (s.withEng (s.eng.faultAll f)) := by
  change execFault f s = _
  rw [execFault, live_up up]

/-- A CORRECTED or CONTAINED fault (R579, R580). -/
theorem Eng.fault_plain (e : Eng) {f : FaultIn} {cls : Nat} (class_ : faultClass f = some cls) (kept : f.code ≠ 0x033) (no2 : cls ≠ 2)
    (no3 : cls ≠ 3) : e.fault f = (e.capture (faultRec f cls (faultUnit f) false)).faultAction f := by
  unfold Eng.fault
  simp only [class_, kept, no2, no3, if_false, decide_false, Bool.false_and, Bool.or_false, Bool.false_eq_true]

/-- A UNIT fault with nothing else being handled (R584). -/
theorem Eng.fault_halts (e : Eng) {f : FaultIn} (class_ : faultClass f = some 2) (kept : f.code ≠ 0x033) (none_ : e.anyHandling = false) :
    e.fault f = ((e.capture (faultRec f 2 (faultUnit f) false)).faultAction f).haltUnit (faultUnit f) := by
  have no3 : ¬(2 = 3) := by decide
  unfold Eng.fault
  simp only [class_, kept, none_, no3, if_false, decide_false, Bool.and_false, Bool.false_and, Bool.or_false, Bool.false_eq_true, if_true]

/-- An ENGINE fault (R585). -/
theorem Eng.fault_quiesces (e : Eng) {f : FaultIn} (class_ : faultClass f = some 3) (kept : f.code ≠ 0x033) :
    e.fault f = ((e.capture (faultRec f 3 (faultUnit f) (!e.quiet))).faultAction f).quiesceStart f.code (faultUnit f) := by
  unfold Eng.fault
  simp only [class_, kept, if_false, decide_true, Bool.true_or, Bool.true_and, if_true]

/-- No fault is being handled in any unit. -/
theorem Eng.handling_none (e : Eng) (none_ : e.anyHandling = false) (u : Nat) : (e.cap_ u).handling = false := by
  rw [Eng.cap_, tgetD]
  cases here : tget e.ras.caps u with
  | none => rfl
  | some c =>
    have among := tget_mem _ here
    rw [Eng.anyHandling, List.any_eq_false] at none_
    exact Bool.eq_false_iff.mpr (none_ (u, c) among)

/-- The capture that a unit holds of a fault. -/
def Eng.Holds (e : Eng) (f : FaultIn) (at_ n cls : Nat) (esc : Bool) : Prop :=
  (e.cap_ n).handling = true ∧ ∃ r, (e.cap_ n).cap1 = some r ∧ r.code = f.code ∧ r.cls = cls ∧ r.unit = n ∧ r.escalated = esc ∧
    r.stamp = at_ ∧ r.rqid = f.rqid ∧ r.gen = f.gen ∧ r.addr = f.addr

theorem Eng.capture_holds (e : Eng) (f : FaultIn) {cls n : Nat} (esc : Bool) (logged : cls ≠ 0 ∨ e.fb F.RAS_CTL_LOG_CORRECTED = true)
    (free : (e.cap_ n).handling = false) : (e.capture (faultRec f cls n esc)).Holds f e.now n cls esc := by
  have first := e.capture_first (f := faultRec f cls n esc) logged free
  have cap_ := (first.cap_ n).trans ((Eng.cap_setCap ..).trans (if_pos rfl))
  rw [Eng.Holds, cap_]
  exact ⟨rfl, _, rfl, rfl, rfl, rfl, rfl, rfl, rfl, rfl, rfl⟩

theorem Eng.Holds.congr {e e' : Eng} {f : FaultIn} {at_ n cls : Nat} {esc : Bool} (holds : e.Holds f at_ n cls esc)
    (handling : (e'.cap_ n).handling = (e.cap_ n).handling) (cap1 : (e'.cap_ n).cap1 = (e.cap_ n).cap1) : e'.Holds f at_ n cls esc := by
  unfold Eng.Holds
  rw [handling, cap1]
  exact holds

/-- The first part of O59: a CORRECTED fault. -/
theorem fault_corrected {s : State} {f : FaultIn} (up : s.boot.absent = false) (code : f.code = 0x010) (low : f.unit < 64) :
    let e := s.eng
    let log := e.fb F.RAS_CTL_LOG_CORRECTED
    ∃ t, exec (.fault f) s = .next t ∧ t.eng.fv F.RAS_CORRECTED_COUNT = min (e.fv F.RAS_CORRECTED_COUNT + 1) (2 ^ 32 - 1) ∧
      (log = true → (e.cap_ f.unit).handling = false → t.eng.Holds f e.now f.unit 0 false) ∧
      (log = false → t.eng.ras = e.ras ∧ t.eng.out = e.out) ∧ s.Only [1, 16, 17] [0xF010, 0xF024] t := by
  intro e log
  have class_ : faultClass f = some 0 := by unfold faultClass; rw [code]; rfl
  have unit_ : faultUnit f = f.unit := by unfold faultUnit; rw [code]; rfl
  have action : ∀ y : Eng, y.faultAction f = y := fun y => by unfold Eng.faultAction; rw [code]; rfl
  have fault : e.fault f = e.capture (faultRec f 0 f.unit false) := by
    rw [e.fault_plain class_ (by rw [code]; decide) (by decide) (by decide), unit_, action]
  have only : e.Only [1, 16, 17] [0xF010, 0xF024] (e.fault f) := by
    rw [fault]
    exact e.capture_only (f := faultRec f 0 f.unit false) (Nat.lt_trans low (by decide)) (by decide) (by decide) (by decide) (.inl (by decide)) (by decide)
  have alone := e.faultAll_alone (f := f) (congrArg Smp.map (only.parts 8 (by decide))) (congrArg Pan.retired (only.parts 7 (by decide)))
    (congrArg Siv.retired (only.parts 9 (by decide)))
  have ran := exec_fault up f
  rw [show s.eng.faultAll f = _ from alone] at ran
  refine ⟨_, ran, ?_, fun logged free => ?_, fun quiet => ?_, .withEng only⟩
  · change (e.fault f).fv F.RAS_CORRECTED_COUNT = _
    rw [fault]
    have kept := (e.capture_after (us := [1, 16, 17]) (offs := [0xF024]) (f := faultRec f 0 f.unit false) (Nat.lt_trans low (by decide))
      (by decide) (by decide) (by decide) (by decide)).regs 0xF010 0 (by decide) (by decide) (by decide) (by decide)
    have counted : e.counted (faultRec f 0 f.unit false) = e.bump F.RAS_CORRECTED_COUNT := if_pos rfl
    rw [counted] at kept
    exact (congrArg (fun w : Word => bitsOf w.toNat 31 0) kept).trans (Eng.fv_bump_same e _ _ _ rfl rfl)
  · change (e.fault f).Holds f e.now f.unit 0 false
    rw [fault]
    exact e.capture_holds f false (.inr logged) free
  · change (e.fault f).ras = e.ras ∧ (e.fault f).out = e.out
    rw [fault, e.capture_unlogged rfl quiet]
    exact ⟨rfl, rfl⟩

/-- A fault that leaves the lanes, the pipes and the Sieve engines is all that its command does. -/
theorem exec_fault_only {s : State} {f : FaultIn} {us offs : List Nat} (up : s.boot.absent = false) (only : s.eng.Only us offs (s.eng.fault f))
    (lanes : 8 ∉ us) (pipes : 7 ∉ us) (sieves : 9 ∉ us) : exec (.fault f) s = .next (s.withEng (s.eng.fault f)) := by
  rw [exec_fault up, Eng.faultAll_alone]
  · exact congrArg Smp.map (only.parts 8 lanes)
  · exact congrArg Pan.retired (only.parts 7 pipes)
  · exact congrArg Siv.retired (only.parts 9 sieves)

/-- The second part of O59: a CONTAINED fault, DRAW_MISSING. -/
theorem fault_contained {s : State} {f : FaultIn} (up : s.boot.absent = false) (code : f.code = 0x090) :
    let e := s.eng
    ∃ t, exec (.fault f) s = .next t ∧ t.eng.kpr = { e.kpr with base := none } ∧ (∀ k, k ≠ 12 → t.eng.cap_ k = e.cap_ k) ∧
      s.Only [1, 12, 16, 17] [0xF024] t ∧ ((e.cap_ 12).handling = false → t.eng.Holds f e.now 12 1 false) ∧
      ((e.cap_ 12).handling = true → ∀ r, (e.cap_ 12).cap2 = some r → t.eng.cap_ 12 = e.cap_ 12 ∧
        t.eng.fv F.RAS_UNIT_STATE_OVERFLOW 12 = min (e.fv F.RAS_UNIT_STATE_OVERFLOW 12 + 1) (2 ^ 16 - 1)) := by
  intro e
  have class_ : faultClass f = some 1 := by unfold faultClass; rw [code]; rfl
  have unit_ : faultUnit f = 12 := by unfold faultUnit; rw [code]; rfl
  have action : ∀ y : Eng, y.faultAction f = { y with kpr := { y.kpr with base := none } } := fun y => by
    unfold Eng.faultAction; rw [code]; rfl
  have fault : e.fault f = { e.capture (faultRec f 1 12 false) with kpr := { (e.capture (faultRec f 1 12 false)).kpr with base := none } } := by
    rw [e.fault_plain class_ (by rw [code]; decide) (by decide) (by decide), unit_, action]
  have captured : e.Only [1, 16, 17] [0xF024] (e.capture (faultRec f 1 12 false)) :=
    e.capture_only (f := faultRec f 1 12 false) (show 12 < 65536 by decide) (by decide) (by decide) (by decide) (.inr (show (1 : Nat) ≠ 0 by decide)) (by decide)
  have only : e.Only [1, 12, 16, 17] [0xF024] (e.fault f) := fault ▸ (captured.weaken (by decide) (by decide)).trans (.setKpr _ _ (by decide))
  have ran := exec_fault_only up only (by decide) (by decide) (by decide)
  rw [show s.eng.fault f = _ from fault] at ran
  refine ⟨_, ran, congrArg (fun k : Kpr => { k with base := none }) (captured.parts 12 (by decide)),
    fun k other => e.capture_beside (faultRec f 1 12 false) other, .withEng (fault ▸ only),
    fun free => e.capture_holds f false (.inl (by decide)) free, fun busy r full => ?_⟩
  have overflow := e.capture_overflow (f := faultRec f 1 12 false) (show (1 : Nat) ≠ 0 by decide) busy full
  have cap_ := congrArg (fun y : Eng => y.cap_ 12) overflow
  have count := congrArg (fun y : Eng => y.fv F.RAS_UNIT_STATE_OVERFLOW 12) overflow
  have small : satN 16 (e.fv F.RAS_UNIT_STATE_OVERFLOW 12 + 1) < 2 ^ 16 := by unfold satN; omega
  exact ⟨cap_, count.trans ((Eng.fv_poke_same _ _ _ _ (by decide)).trans (Nat.mod_eq_of_lt small))⟩

/-- The third part of O59: a UNIT fault, of the jump unit. -/
theorem fault_unit {s : State} {f : FaultIn} (up : s.boot.absent = false) (code : f.code = 0x051) (none_ : s.eng.anyHandling = false) :
    let e := s.eng
    ∃ t, exec (.fault f) s = .next t ∧ t.eng.rsu = { e.rsu with jumpOk := false } ∧ (t.eng.cap_ 10).halted = true ∧
      (∀ k, k ≠ 10 → t.eng.cap_ k = e.cap_ k) ∧ t.eng.Holds f e.now 10 2 false ∧ s.Only [1, 10, 16, 17] [0xF024] t := by
  intro e
  have class_ : faultClass f = some 2 := by unfold faultClass; rw [code]; rfl
  have unit_ : faultUnit f = 10 := by unfold faultUnit; rw [code]; rfl
  have action : ∀ y : Eng, y.faultAction f = { y with rsu := { y.rsu with jumpOk := false } } := fun y => by
    unfold Eng.faultAction; rw [code]; rfl
  have captured : e.Only [1, 16, 17] [0xF024] (e.capture (faultRec f 2 10 false)) :=
    e.capture_only (f := faultRec f 2 10 false) (show 10 < 65536 by decide) (by decide) (by decide) (by decide) (.inr (show (2 : Nat) ≠ 0 by decide)) (by decide)
  have holds := e.capture_holds f (cls := 2) (n := 10) false (.inl (by decide)) (e.handling_none none_ 10)
  have beside : ∀ k, k ≠ 10 → (e.capture (faultRec f 2 10 false)).cap_ k = e.cap_ k := fun k other => e.capture_beside (faultRec f 2 10 false) other
  have fault : e.fault f = ({ e.capture (faultRec f 2 10 false) with
      rsu := { (e.capture (faultRec f 2 10 false)).rsu with jumpOk := false } } : Eng).haltUnit 10 := by
    rw [e.fault_halts class_ (by rw [code]; decide) none_, unit_, action]
  generalize e.capture (faultRec f 2 10 false) = y at *
  generalize hz : ({ y with rsu := { y.rsu with jumpOk := false } } : Eng) = z at fault
  have zOnly : e.Only [1, 10, 16, 17] [0xF024] z := hz ▸ (captured.weaken (by decide) (by decide)).trans (.setRsu _ _ (by decide))
  have zCap : ∀ k, z.cap_ k = y.cap_ k := fun k => hz ▸ rfl
  have yRsu : y.rsu = e.rsu := captured.parts 10 (by decide)
  have zRsu : z.rsu = { e.rsu with jumpOk := false } := by rw [← hz, ← yRsu]
  have reports : (z.setCap 10 { z.cap_ 10 with halted := true }).Reports (z.haltUnit 10) := by
    unfold Eng.haltUnit
    exact Eng.raiseE_reports _ _ _ _ _
  have cap_ : ∀ k, (z.haltUnit 10).cap_ k = if k = 10 then { z.cap_ 10 with halted := true } else z.cap_ k := fun k =>
    (reports.cap_ k).trans (Eng.cap_setCap ..)
  have only : e.Only [1, 10, 16, 17] [0xF024] (e.fault f) :=
    fault ▸ (zOnly.trans (.setRas _ _ (by decide))).trans (.of_reports reports (by decide) (by decide))
  have ran := exec_fault_only up only (by decide) (by decide) (by decide)
  rw [show s.eng.fault f = _ from fault] at ran
  rw [fault] at only
  have rsu : (z.haltUnit 10).rsu = { e.rsu with jumpOk := false } := reports.rsu_eq.trans zRsu
  have here : (z.haltUnit 10).cap_ 10 = { y.cap_ 10 with halted := true } := by rw [cap_, if_pos rfl, zCap]
  have others : ∀ k, k ≠ 10 → (z.haltUnit 10).cap_ k = e.cap_ k := fun k other => by rw [cap_, if_neg other, zCap, beside k other]
  generalize z.haltUnit 10 = w at *
  have still : w.Holds f e.now 10 2 false := holds.congr (by rw [here]) (by rw [here])
  exact ⟨_, ran, rsu, congrArg Cap.halted here, others, still, .withEng only⟩

/-! ### A quiesce that starts -/

/-- With no composition, every trigger is given up. -/
theorem foldl_discard (is : List Nat) (e : Eng) (none_ : ∀ k, (e.inst k).comp = none) :
    ∃ insts, is.foldl (fun e i => (e.discardComp i).modInst i (fun x => { x with trig := none, quiet := false })) e =
        { e with cmp := { e.cmp with insts } } ∧
      ∀ k, tgetD insts k {} = if k ∈ is then { e.inst k with trig := none, quiet := false } else e.inst k := by
  induction is generalizing e with
  | nil => exact ⟨_, rfl, fun k => rfl⟩
  | cons i is ih =>
    have kept : e.discardComp i = e := by rw [Eng.discardComp, none_ i]
    have here : ∀ k, (e.modInst i (fun x => { x with trig := none, quiet := false })).inst k =
        if k = i then { e.inst i with trig := none, quiet := false } else e.inst k := fun k =>
      e.inst_modInst i k (fun x => { x with trig := none, quiet := false })
    obtain ⟨insts, whole, each⟩ := ih (e.modInst i (fun x => { x with trig := none, quiet := false })) (fun k => by
      rw [here]
      split
      · exact none_ i
      · exact none_ k)
    rw [List.foldl_cons, kept]
    refine ⟨insts, whole, fun k => (each k).trans ?_⟩
    rw [here]
    by_cases same : k = i
    · subst same
      simp
    · simp [same]

theorem Eng.discardAll_bare (e : Eng) (none_ : ∀ k, (e.inst k).comp = none) :
    ∃ insts, e.discardAll = { e with cmp := { e.cmp with insts } } ∧
      ∀ k, k < 16 → tgetD insts k {} = { e.inst k with trig := none, quiet := false } := by
  obtain ⟨insts, whole, each⟩ := foldl_discard instRange e none_
  exact ⟨insts, whole, fun k low => (each k).trans (if_pos (List.mem_range.mpr low))⟩

theorem Eng.withdrawQueued_idle (e : Eng) (demand : e.pan.demand = []) (background : e.pan.background = []) (held : e.pan.held = []) :
    e.withdrawQueued = e := by
  unfold Eng.withdrawQueued
  simp only [demand, background, held, List.filter_nil, List.append_nil, List.foldl_nil]
  rw [← demand]
  have same : ({ e.pan with demand := e.pan.demand, background := e.pan.demand, held := e.pan.demand } : Pan) = e.pan := by
    conv_rhs => rw [show e.pan = { e.pan with demand := e.pan.demand, background := e.pan.background, held := e.pan.held } from rfl]
    rw [background, held, demand]
  rw [same]

/-- A quiesce that a step outstanding holds up. -/
theorem Eng.quiesceStart_waits (e : Eng) {code unit i : Nat} {st : Step} (awake : e.quiet = false) (low : i < 16)
    (step : (e.inst i).step = some st) (none_ : ∀ k, (e.inst k).comp = none) (demand : e.pan.demand = []) (background : e.pan.background = [])
    (held : e.pan.held = []) :
    ∃ insts, e.quiesceStart code unit = { e with
        ras := { e.ras with quiescing := true, quiesceAt := e.now, causeCode := code, causeUnit := unit }
        cmp := { e.cmp with insts } } ∧
      ∀ k, k < 16 → tgetD insts k {} = { e.inst k with trig := none, quiet := false } := by
  generalize hy : ({ e with ras := { e.ras with quiescing := true, quiesceAt := e.now, causeCode := code, causeUnit := unit } } : Eng) = y
  obtain ⟨insts, whole, each⟩ := y.discardAll_bare (fun k => hy ▸ none_ k)
  have yInst : ∀ k, y.inst k = e.inst k := fun k => hy ▸ rfl
  refine ⟨insts, ?_, fun k hk => (each k hk).trans (by rw [yInst])⟩
  have idle : y.discardAll.withdrawQueued = y.discardAll := by
    rw [whole]
    exact Eng.withdrawQueued_idle _ (hy ▸ demand) (hy ▸ background) (hy ▸ held)
  have open_ : instRange.any (fun k => (y.discardAll.inst k).step.isSome) = true := by
    refine List.any_eq_true.mpr ⟨i, List.mem_range.mpr low, ?_⟩
    rw [whole]
    change (tgetD insts i {}).step.isSome = true
    rw [each i low, yInst]
    exact Option.isSome_iff_exists.mpr ⟨st, step⟩
  have waits : y.discardAll.quiesceCheck = y.discardAll := by
    rw [Eng.quiesceCheck, open_, Bool.or_true]
    rfl
  rw [Eng.quiesceStart, awake, if_neg Bool.false_ne_true]
  change (Eng.withdrawQueued (Eng.discardAll ({ e with ras := { e.ras with quiescing := true, quiesceAt := e.now, causeCode := code, causeUnit := unit } }))).quiesceCheck = _
  rw [hy, idle, waits, whole, ← hy]

/-- The fourth part of O59: an ENGINE fault. -/
theorem fault_engine {s : State} {f : FaultIn} {i : Nat} {st : Step} (up : s.boot.absent = false) (code : f.code = 0x001)
    (awake : s.eng.quiet = false) (low : i < 16) (step : (s.eng.inst i).step = some st) (none_ : ∀ k, (s.eng.inst k).comp = none)
    (demand : s.eng.pan.demand = []) (background : s.eng.pan.background = []) (held : s.eng.pan.held = []) :
    let e := s.eng
    ∃ t, exec (.fault f) s = .next t ∧ t.eng.ras.quiescing = true ∧ t.eng.ras.quiesced = false ∧ t.eng.ras.quiesceAt = e.now ∧
      t.eng.ras.causeCode = 1 ∧ t.eng.ras.causeUnit = 15 ∧ (∀ k, k < 16 → t.eng.inst k = { e.inst k with trig := none, quiet := false }) ∧
      ((e.cap_ 15).handling = false → t.eng.Holds f e.now 15 3 true) ∧ s.Only [1, 4, 16, 17] [0xF024] t := by
  intro e
  have class_ : faultClass f = some 3 := by unfold faultClass; rw [code]; rfl
  have unit_ : faultUnit f = 15 := by unfold faultUnit; rw [code]; rfl
  have action : ∀ y : Eng, y.faultAction f = y := fun y => by unfold Eng.faultAction; rw [code]; rfl
  have fault : e.fault f = (e.capture (faultRec f 3 15 true)).quiesceStart 1 15 := by
    rw [e.fault_quiesces class_ (by rw [code]; decide), unit_, action, code, show e.quiet = false from awake]
    rfl
  have captured : e.Only [1, 16, 17] [0xF024] (e.capture (faultRec f 3 15 true)) :=
    e.capture_only (f := faultRec f 3 15 true) (show 15 < 65536 by decide) (by decide) (by decide) (by decide) (.inr (show (3 : Nat) ≠ 0 by decide)) (by decide)
  have holds : (e.cap_ 15).handling = false → (e.capture (faultRec f 3 15 true)).Holds f e.now 15 3 true :=
    fun free => e.capture_holds f true (.inl (by decide)) free
  have quiet : (e.capture (faultRec f 3 15 true)).ras.quiescing = e.ras.quiescing ∧ (e.capture (faultRec f 3 15 true)).ras.quiesced = e.ras.quiesced := by
    rw [e.capture_ras]
    exact ⟨rfl, rfl⟩
  generalize e.capture (faultRec f 3 15 true) = y at *
  have yInst : ∀ k, y.inst k = e.inst k := fun k => congrArg (fun c : Cmp => tgetD c.insts k {}) (captured.parts 4 (by decide))
  have yPan : y.pan = e.pan := captured.parts 7 (by decide)
  have yNow : y.now = e.now := captured.parts 0 (by decide)
  have yAwake : y.quiet = false := by
    rw [Eng.quiet, quiet.1, quiet.2]
    exact awake
  obtain ⟨insts, whole, each⟩ := y.quiesceStart_waits (code := 1) (unit := 15) yAwake low (by rw [yInst]; exact step) (fun k => by rw [yInst]; exact none_ k)
    (by rw [yPan]; exact demand) (by rw [yPan]; exact background) (by rw [yPan]; exact held)
  rw [whole] at fault
  have wider : e.Only [1, 4, 16, 17] [0xF024] y := captured.weaken (by decide) (by decide)
  have only : e.Only [1, 4, 16, 17] [0xF024] (e.fault f) := by
    rw [fault]
    refine (wider.trans (.setRas y { y.ras with quiescing := true, quiesceAt := y.now, causeCode := 1, causeUnit := 15 } (by decide))).trans ?_
    exact .setCmp _ _ (by decide)
  have ran := exec_fault_only up only (by decide) (by decide) (by decide)
  rw [show s.eng.fault f = _ from fault] at ran
  have notQuiesced : y.ras.quiesced = false := (Bool.or_eq_false_iff.mp yAwake).2
  exact ⟨_, ran, rfl, notQuiesced, yNow, rfl, rfl, fun k hk => (each k hk).trans (by rw [yInst]), fun free => (holds free).congr rfl rfl,
    .withEng (fault ▸ only)⟩

/-! ### POP -/

theorem pop_moves {s : State} {data : Word} (up : s.boot.absent = false) (first : 1 ≤ s.eng.fv F.RAS_UNIT_SEL_UNIT)
    (last : s.eng.fv F.RAS_UNIT_SEL_UNIT ≤ 16) (pops : data.getLsbD 0 = true) :
    let e := s.eng
    let u := e.fv F.RAS_UNIT_SEL_UNIT
    let c := e.cap_ u
    ∃ t, exec (.pop data) s = .next t ∧ (∀ k, k ≠ u → t.eng.cap_ k = e.cap_ k) ∧
      t = s.withEng { e with ras := { e.ras with caps := t.eng.ras.caps } } ∧
      t.eng.cap_ u = match c.cap2 with
        | some r => { c with cap1 := some r, cap2 := none }
        | none => { c with cap1 := none, handling := false } := by
  intro e u c
  have named : ¬(e.fv F.RAS_UNIT_SEL_UNIT = 0 ∨ 16 < e.fv F.RAS_UNIT_SEL_UNIT) := fun out =>
    out.elim (fun zero => absurd zero (Nat.ne_of_gt first)) (fun beyond => Nat.not_lt.mpr last beyond)
  have ran : exec (.pop data) s = .next (s.withEng (e.setCap u (match c.cap2 with
      | some r => { c with cap1 := some r, cap2 := none }
      | none => { c with cap1 := none, handling := false }))) := by
    change execPop data s = _
    rw [execPop, live_up up]
    refine congrArg (fun y => Host.Outcome.next (s.withEng y)) ((if_neg named).trans ((if_neg ?_).trans ?_))
    · rw [bitOf_toNat, pops]
      exact Bool.false_ne_true
    · change (match c.cap2 with
        | some r => e.setCap u { c with cap1 := some r, cap2 := none }
        | none => e.setCap u { c with cap1 := none, handling := false }) = _
      cases c.cap2 <;> rfl
  exact ⟨_, ran, fun k other => (Eng.cap_setCap ..).trans (if_neg other), rfl, (Eng.cap_setCap ..).trans (if_pos rfl)⟩

/-- Settles O59: faults are captured by class and acted on, and POP moves them up. -/
theorem faultsAreCapturedAndPopped : Obligations.FaultsAreCapturedAndPopped := by
  intro f data i st s up
  exact ⟨fun code low => fault_corrected up code low, fun code => fault_contained up code, fun code none_ => fault_unit up code none_,
    fun code awake low step none_ demand background held => fault_engine up code awake low step none_ demand background held,
    fun first last pops => pop_moves up first last pops⟩

end Sys2Proof.Machine
end

section
/-!
Redundancy and the end of a quiesce (O60).
-/
namespace Sys2Proof.Machine

/-! ### Lost buddies -/

/-- The record of a buddy. -/
def Ras.buddy (r : Ras) (ring : Bool) : Buddy := if ring then r.ring else r.sled

/-- A buddy is replaced. -/
def Ras.setBuddy (r : Ras) (ring : Bool) (b : Buddy) : Ras := if ring then { r with ring := b } else { r with sled := b }

theorem Eng.mirrorFree_none (e : Eng) (none_ : e.hat.heldRecs = []) : e.mirrorFree = e := by
  rw [Eng.mirrorFree, none_]
  change ({ e with hat := { e.hat with heldRecs := [] } } : Eng) = e
  rw [← none_]

theorem Eng.raiseE_mirrorFree (e : Eng) (code unit arg : Nat) (none_ : e.hat.heldRecs = []) :
    (e.raiseE code unit arg).mirrorFree = e.raise { code, unit, arg } :=
  Eng.mirrorFree_none _ ((congrArg (fun x : Eng => x.hat.heldRecs) (Eng.raiseE_reports e code unit arg none).rest).trans none_)

theorem buddyTimeout_lost {s : State} {ring : Bool} {ch : Nat} (up : s.boot.absent = false) (settled : s.Settled)
    (chip : (s.eng.ras.buddy ring).chip = some ch) (current : (s.eng.ras.buddy ring).state ≠ 3) (out : s.eng.reaches ch = false)
    (none_ : s.eng.hat.heldRecs = []) :
    let a := s.eng.advance (s.eng.linkDownAt ch + 2 * max 10000 (s.eng.av F.RAF_SYNC_CFG_INTERVAL))
    exec (.buddyTimeout ring) s = .next (s.withEng
      (({ a with ras := a.ras.setBuddy ring { s.eng.ras.buddy ring with state := 3 } } : Eng).raise
        { code := 0x00B0, unit := 16, arg := ch + 256 * ring.toNat })) := by
  intro a
  have ras : a.ras = s.eng.ras := Eng.advance_ras _ _
  have held : a.hat.heldRecs = [] := by rw [show a.hat = s.eng.hat from Eng.advance_hat _ _]; exact none_
  have number : b2n ring = ring.toNat := by cases ring <;> rfl
  have lost : a.buddyLost ring = ({ a with ras := a.ras.setBuddy ring { s.eng.ras.buddy ring with state := 3 } } : Eng).raise
      { code := 0x00B0, unit := 16, arg := ch + 256 * ring.toNat } := by
    rw [← ras] at chip current ⊢
    unfold Eng.buddyLost
    change (match (a.ras.buddy ring).chip with
      | none => a
      | some c => if (a.ras.buddy ring).state = 3 then a else
          (Eng.raiseE { a with ras := a.ras.setBuddy ring { a.ras.buddy ring with state := 3 } } 0x00B0 16 (c + 256 * b2n ring)).mirrorFree) = _
    have free : ({ a with ras := a.ras.setBuddy ring { a.ras.buddy ring with state := 3 } } : Eng).hat.heldRecs = [] := held
    generalize ({ a with ras := a.ras.setBuddy ring { a.ras.buddy ring with state := 3 } } : Eng) = y at *
    rw [chip]
    exact (if_neg current).trans ((Eng.raiseE_mirrorFree y _ _ _ free).trans (by rw [number]))
  change timed s (atBuddyTimeout ring) = _
  rw [timed_settled s _ settled, atBuddyTimeout, live_up up]
  simp only [show (if ring then s.eng.ras.ring else s.eng.ras.sled).chip = some ch from chip]
  refine congrArg (fun y => Host.Outcome.next (s.withEng y)) ((if_pos ⟨current, out⟩).trans ?_)
  exact lost

/-! ### The end of a quiesce

What a lost step of a lead leaves of an `Inst`, where nothing waits for it: each part is cleared by an operation of its own.
-/

theorem Eng.Only.setSmp {us offs : List Nat} (e : Eng) (x : Smp) (sampler : 8 ∈ us) : e.Only us offs { e with smp := x } :=
  .of_parts rfl rfl (fun u out => by unfold Eng.partSame; split <;> first | rfl | exact ⟨rfl, rfl, rfl, rfl⟩ | exact ⟨rfl, rfl⟩ | trivial)

theorem Eng.Only.setShv {us offs : List Nat} (e : Eng) (x : Shv) (shelver : 6 ∈ us) : e.Only us offs { e with shv := x } :=
  .of_parts rfl rfl (fun u out => by unfold Eng.partSame; split <;> first | rfl | exact ⟨rfl, rfl, rfl, rfl⟩ | exact ⟨rfl, rfl⟩ | trivial)

theorem Eng.Only.setRaf {us offs : List Nat} (e : Eng) (x : Raf) (links : 13 ∈ us) : e.Only us offs { e with raf := x } :=
  .of_parts rfl rfl (fun u out => by unfold Eng.partSame; split <;> first | rfl | exact ⟨rfl, rfl, rfl, rfl⟩ | exact ⟨rfl, rfl⟩ | trivial)

section Lost
variable {us offs : List Nat}

theorem Eng.Only.chargePart (e : Eng) (i : Nat) (st : Step) (p n : Nat) (keeper : 12 ∈ us) : e.Only us offs (e.chargePart i st p n) :=
  .ite (fun _ => .refl e) (fun _ => .setKpr e _ keeper)

theorem Eng.Only.chargeStep (e : Eng) (i : Nat) (st : Step) (keeper : 12 ∈ us) : e.Only us offs (e.chargeStep i st) := by
  unfold Eng.chargeStep
  refine .ite (fun _ => .refl e) (fun _ => ?_)
  refine Eng.Only.trans (b := partRange.foldl (fun e p => e.chargePart i st p (e.stepTok i p - tgetD e.kpr.lostToks (i * 64 + p) 0)) e)
    (.foldl _ _ (fun x p _ => .chargePart x i st p _ keeper) e) ?_
  exact .foldl _ _ (fun x k _ => .setKpr x _ keeper) _

theorem Eng.Only.unpin (e : Eng) (g : Nat) (shelver : 6 ∈ us) : e.Only us offs (e.unpin g) := by
  unfold Eng.unpin
  split
  · exact .refl e
  · exact .ite (fun _ => .ite (fun _ => .setShv e _ shelver) (fun _ => .setShv e _ shelver))
      (fun _ => .ite (fun _ => .setShv e _ shelver) (fun _ => .setShv e _ shelver))

theorem Eng.Only.unpinSlot (e : Eng) (x : Slot) (shelver : 6 ∈ us) : e.Only us offs (e.unpinSlot x) :=
  .foldl _ _ (fun y g _ => .unpin y g shelver) e

theorem Eng.Only.clearRows (e : Eng) (i : Nat) (sampler : 8 ∈ us) (random : 10 ∈ us) : e.Only us offs (e.clearRows i) :=
  Eng.Only.trans (.setSmp e _ sampler) (.setRsu _ _ random)

theorem Eng.Only.gate (e : Eng) (d : Nat) (domains : 15 ∈ us) : e.Only us offs (e.gate d) :=
  .ite (fun _ => .setPd e _ domains) (fun _ => .setPd e _ domains)

theorem Eng.Only.giveTrigger (e : Eng) (i : Nat) (composer : 4 ∈ us) : e.Only us offs (e.giveTrigger i) :=
  .ite (fun _ => .setCmp e _ composer) (fun _ => .refl e)

end Lost

theorem foldl_carry_step (l : List Slot) (x : Inst) : (l.foldl Inst.carry x).step = x.step := by
  induction l generalizing x with
  | nil => rfl
  | cons y l ih => exact ih _

theorem Eng.giveTrigger_step (e : Eng) (i k : Nat) : ((e.giveTrigger i).inst k).step = (e.inst k).step := by
  unfold Eng.giveTrigger
  dsimp only
  split
  · refine (congrArg Inst.step (Eng.inst_modInst e i k (fun x => { x with trig := some e.now }))).trans ?_
    split
    · next same => rw [same]
    · rfl
  · rfl

theorem Eng.rc_none (e : Eng) (none_ : e.led.recs = []) (k : Nat) : e.rc k = none := by
  rw [Eng.rc, none_]
  rfl

theorem Eng.reapSlots_none (e : Eng) (none_ : e.led.recs = []) (l : List Slot) : e.reapSlots l = e := by
  refine List.foldl_fixed' (fun x => ?_) l
  rw [Eng.sibs, sibSlots, Eng.rc_none e none_]
  rfl

theorem Eng.binPurge_none (e : Eng) (none_ : e.bin.entries = []) (i step : Nat) : e.binPurge i step = e := by
  rw [Eng.binPurge, none_]
  rfl

theorem Eng.discardComp_none (e : Eng) {i : Nat} (none_ : (e.inst i).comp = none) : e.discardComp i = e := by
  rw [Eng.discardComp, none_]

theorem Eng.stepLost_alone (e : Eng) {i : Nat} {st : Step} (here : (e.inst i).step = some st) (bare : (e.inst i).comp = none)
    (bins : e.bin.entries = []) (recs : e.led.recs = []) :
    ∃ y, e.stepLost i = y.quiesceCheck ∧ (e.tell (.discardStep i st.num)).Only [4, 6, 8, 10, 12] [] y ∧
      ∀ k, (y.inst k).step = if k = i then none else (e.inst k).step := by
  rw [Eng.stepLost, here]
  dsimp only
  rw [Eng.binPurge_none (e.tell (.discardStep i st.num)) bins, Eng.discardComp_none (e.tell (.discardStep i st.num)) bare]
  have charged : (e.tell (.discardStep i st.num)).Only [8, 10, 12] []
      ((((e.tell (.discardStep i st.num)).chargeStep i st).clearToks i).clearRows i) :=
    ((Eng.Only.chargeStep _ i st (by decide)).trans (.setKpr _ _ (by decide))).trans (.clearRows _ i (by decide) (by decide))
  generalize (((e.tell (.discardStep i st.num)).chargeStep i st).clearToks i).clearRows i = b at *
  have insts : b.cmp = e.cmp := charged.parts 4 (by decide)
  generalize hc : b.modInst i _ = c
  have steps : ∀ k, (c.inst k).step = if k = i then none else (e.inst k).step := by
    intro k
    rw [← hc, Eng.inst_modInst b i k]
    split
    · exact foldl_carry_step _ _
    · rw [Eng.inst, insts, Eng.inst]
  have carried : b.Only [4] [] c := hc ▸ .setCmp b _ (by decide)
  have freed : c.Only [6, 12] [] (((st.slots.filter (fun (x : Slot) => x.done && !x.lost)).foldl (fun e (x : Slot) => e.unpinSlot x) c).leaveEndStep i st.num) :=
    Eng.Only.trans (.foldl _ _ (fun y x _ => .unpinSlot y x (by decide)) c) (.setKpr _ _ (by decide))
  generalize ((st.slots.filter (fun (x : Slot) => x.done && !x.lost)).foldl (fun e (x : Slot) => e.unpinSlot x) c).leaveEndStep i st.num = d at *
  have ended : (e.tell (.discardStep i st.num)).Only [4, 6, 8, 10, 12] [] d :=
    ((charged.weaken (by decide) (by decide)).trans (carried.weaken (by decide) (by decide))).trans (freed.weaken (by decide) (by decide))
  have led : d.led = e.led := ended.parts 2 (by decide)
  rw [Eng.reapSlots_none d (by rw [led]; exact recs)]
  refine ⟨_, rfl, ended.trans (Eng.Only.trans (.giveTrigger d i (by decide)) (.setKpr _ _ (by decide))), fun k => ?_⟩
  have cmp : d.cmp = c.cmp := freed.parts 4 (by decide)
  refine (Eng.giveTrigger_step d i k).trans (Eq.trans ?_ (steps k))
  rw [Eng.inst, cmp, Eng.inst]

theorem Eng.flood_silent (e : Eng) (down : ∀ l, l < 9 → e.linkActive l = false) (src c t : Nat) (except : Option Nat) :
    e.flood src c t except = e := by
  have fold : ∀ ls : List Nat, (∀ l ∈ ls, l < 9) → ls.foldl (fun x l =>
      if except = some l || !x.linkActive l then x
      else x.linkPut l { typ := 7, src, dst := linkPeer x.self l, arg := c + 256 * (t % 2 ^ 56) }) e = e := by
    intro ls low
    induction ls with
    | nil => rfl
    | cons l ls ih =>
      rw [List.foldl_cons, down l (low l List.mem_cons_self), if_pos (by simp)]
      exact ih (fun k hk => low k (List.mem_cons_of_mem _ hk))
  exact fold linkRange (fun l hl => List.mem_range.mp hl)

theorem Eng.linkActive_congr {e e' : Eng} (raf : e'.raf = e.raf) (l : Nat) : e'.linkActive l = e.linkActive l := by
  unfold Eng.linkActive Eng.lanesOf Eng.lane
  rw [raf]

/-- The lanes' state is dropped and the quiesce noted as complete. -/
def Eng.quiesceOff (e : Eng) : Eng :=
  { e with raf := { e.raf with lanes := [] }, ras := { e.ras with quiescing := false, quiesced := true } }

/-- The domains of the lanes are gated. -/
def Eng.gateLanes (e : Eng) : Eng := (List.range 6).foldl (fun (e : Eng) k => e.gate (89 + k)) e

section Quiesced
variable (e : Eng)

theorem Eng.quiesceCheck_idle (idle : e.ras.quiescing = false) : e.quiesceCheck = e :=
  if_pos (by rw [idle]; rfl)

theorem Eng.quiesceCheck_done (on : e.ras.quiescing = true) (steps : ∀ k, k < 16 → (e.inst k).step = none) (recs : e.led.recs = [])
    (down : ∀ l, l < 9 → e.linkActive l = false) :
    e.quiesceCheck.ras = { e.ras with quiescing := false, quiesced := true } ∧ e.quiesceCheck.raf = { e.raf with lanes := [] } ∧
      e.Only [1, 13, 15, 16, 17] [] e.quiesceCheck := by
  have none_ : instRange.any (fun i => (e.inst i).step.isSome) = false := List.any_eq_false.mpr (fun k hk some_ => by
    rw [steps k (List.mem_range.mp hk)] at some_
    exact Bool.noConfusion some_)
  have ran : e.quiesceCheck = e.quiesceOff.gateLanes.raiseE 0x0008 16
      (e.quiesceOff.gateLanes.ras.causeCode + 2 ^ 16 * e.quiesceOff.gateLanes.ras.causeUnit) := by
    rw [Eng.quiesceCheck, if_neg (by rw [on, none_]; decide)]
    dsimp only
    rw [recs, List.filter_nil, List.foldl_nil, Eng.flood_silent e down, Eng.gateLanes, Eng.quiesceOff]
  rw [ran]
  have off : e.Only [13, 16] [] e.quiesceOff :=
    Eng.Only.trans (b := { e with raf := { e.raf with lanes := [] } }) (.setRaf e _ (by decide)) (.setRas _ _ (by decide))
  have ras : e.quiesceOff.ras = { e.ras with quiescing := false, quiesced := true } := rfl
  have raf : e.quiesceOff.raf = { e.raf with lanes := [] } := rfl
  generalize e.quiesceOff = y at *
  have gated : y.Only [15] [] y.gateLanes := .foldl _ _ (fun x k _ => .gate x _ (by decide)) y
  generalize y.gateLanes = z at *
  have raised : z.Only [1, 17] [] (z.raiseE 0x0008 16 (z.ras.causeCode + 2 ^ 16 * z.ras.causeUnit)) := .raise z _ (by decide) (by decide)
  exact ⟨((raised.parts 16 (by decide)).trans (gated.parts 16 (by decide))).trans ras,
    ((raised.parts 13 (by decide)).trans (gated.parts 13 (by decide))).trans raf,
    ((off.weaken (by decide) (by decide)).trans (gated.weaken (by decide) (by decide))).trans (raised.weaken (by decide) (by decide))⟩

theorem foldl_giveUp {i : Nat} (is : List Nat) (e : Eng) (mem : i ∈ is) (others : ∀ k ∈ is, k ≠ i → (e.inst k).step = none)
    (after : ∀ k ∈ is, ((e.giveUp i).inst k).step = none) : is.foldl (fun e i => e.giveUp i) e = e.giveUp i := by
  have rest : ∀ (x : Eng) (ks : List Nat), (∀ k ∈ ks, (x.inst k).step = none) → ks.foldl (fun e i => e.giveUp i) x = x := by
    intro x ks none_
    induction ks with
    | nil => rfl
    | cons k ks ih =>
      rw [List.foldl_cons, Eng.giveUp, none_ k List.mem_cons_self]
      exact ih (fun j hj => none_ j (List.mem_cons_of_mem _ hj))
  induction is with
  | nil => cases mem
  | cons k ks ih =>
    rw [List.foldl_cons]
    by_cases same : k = i
    · rw [same]
      exact rest _ ks (fun j hj => after j (List.mem_cons_of_mem _ hj))
    · have still : e.giveUp k = e := by rw [Eng.giveUp, others k List.mem_cons_self same]
      rw [still]
      exact ih (List.mem_of_ne_of_mem (Ne.symm same) mem) (fun j hj => others j (List.mem_cons_of_mem _ hj))
        (fun j hj => after j (List.mem_cons_of_mem _ hj))

/-- The lead of a step alone on this chip gives it up, which ends the quiesce. -/
theorem Eng.giveUp_alone {i : Nat} {st : Step} (on : e.ras.quiescing = true) (here : (e.inst i).step = some st)
    (lead : (e.inst i).lead = true) (bare : (e.inst i).comp = none) (alone : ∀ k ∈ (e.inst i).chips, k = e.self)
    (others : ∀ k, k < 16 → k ≠ i → (e.inst k).step = none) (recs : e.led.recs = []) (bins : e.bin.entries = [])
    (down : ∀ l, l < 9 → e.linkActive l = false) :
    (∀ k, k < 16 → ((e.giveUp i).inst k).step = none) ∧ (e.giveUp i).ras = { e.ras with quiescing := false, quiesced := true } ∧
      (e.giveUp i).raf = { e.raf with lanes := [] } ∧ .array (.discardStep i st.num) ∈ (e.giveUp i).out ∧
      e.Only [1, 4, 6, 8, 10, 12, 13, 15, 16, 17] [] (e.giveUp i) := by
  have nobody : e.others i = [] := List.filter_eq_nil_iff.mpr (fun k hk other => (of_decide_eq_true other) (alone k hk))
  rw [Eng.giveUp, here]
  dsimp only
  rw [if_pos lead, Eng.declareLost, here, nobody]
  dsimp only [List.foldl_nil]
  generalize ht : e.trace _ = x
  have traced : e.Only [1, 17] [] x := ht ▸ .trace e _ (by decide) (by decide)
  have cmp : x.cmp = e.cmp := traced.parts 4 (by decide)
  have led : x.led = e.led := traced.parts 2 (by decide)
  have insts : ∀ k, x.inst k = e.inst k := fun k => by rw [Eng.inst, cmp, Eng.inst]
  obtain ⟨y, lost, only, steps⟩ := x.stepLost_alone (i := i) (st := st) (by rw [insts]; exact here) (by rw [insts]; exact bare)
    ((congrArg Bin.entries (traced.parts 11 (by decide))).trans bins) (by rw [led]; exact recs)
  have ended : e.Only [1, 4, 6, 8, 10, 12, 17] [] y :=
    ((traced.weaken (by decide) (by decide)).trans (.tell x _)).trans (only.weaken (by decide) (by decide))
  have ras : y.ras = e.ras := ended.parts 16 (by decide)
  have raf : y.raf = e.raf := ended.parts 13 (by decide)
  have none_ : ∀ k, k < 16 → (y.inst k).step = none := by
    intro k low
    rw [steps k]
    split
    · rfl
    · next other => rw [insts]; exact others k low other
  obtain ⟨ras', raf', checked⟩ := y.quiesceCheck_done (by rw [ras]; exact on) none_
    ((congrArg Led.recs (ended.parts 2 (by decide))).trans recs)
    (fun l low => by
      rw [Eng.linkActive_congr raf]
      exact down l low)
  rw [lost]
  refine ⟨fun k low => ?_, by rw [ras', ras], by rw [raf', raf], ?_, (ended.weaken (by decide) (by decide)).trans (checked.weaken (by decide) (by decide))⟩
  · have same : y.quiesceCheck.cmp = y.cmp := checked.parts 4 (by decide)
    rw [Eng.inst, same]
    exact none_ k low
  · obtain ⟨l, hl⟩ := checked.out
    obtain ⟨m, hm⟩ := only.out
    rw [hl, hm]
    exact List.mem_append_right _ (List.mem_append_right _ List.mem_cons_self)

end Quiesced

theorem quiesceWaitExpiry_gives_up {s : State} {i : Nat} {st : Step} (up : s.boot.absent = false) (settled : s.Settled)
    (on : s.eng.ras.quiescing = true) (low : i < 16) (here : (s.eng.inst i).step = some st) (lead : (s.eng.inst i).lead = true)
    (bare : (s.eng.inst i).comp = none) (alone : ∀ k ∈ (s.eng.inst i).chips, k = s.eng.self)
    (others : ∀ k, k < 16 → k ≠ i → (s.eng.inst k).step = none) (recs : s.eng.led.recs = []) (bins : s.eng.bin.entries = [])
    (down : ∀ l, l < 9 → s.eng.linkActive l = false) :
    ∃ t, exec .quiesceWaitExpiry s = .next t ∧ t.eng.now = max s.eng.now (s.eng.ras.quiesceAt + s.eng.fv F.RAS_QUIESCE_WAIT_WAIT) ∧
      t.eng.ras = { s.eng.ras with quiescing := false, quiesced := true } ∧ (t.eng.inst i).step = none ∧
      .array (.discardStep i st.num) ∈ t.eng.out ∧ t.eng.raf = { s.eng.raf with lanes := [] } ∧
      s.Only [0, 1, 4, 6, 8, 10, 12, 13, 15, 16, 17] [0xC240] t := by
  have ran : exec .quiesceWaitExpiry s = .next (s.withEng
      (instRange.foldl (fun e i => e.giveUp i) (s.eng.advance (s.eng.ras.quiesceAt + s.eng.fv F.RAS_QUIESCE_WAIT_WAIT))).quiesceCheck) := by
    change timed s atQuiesceWaitExpiry = _
    rw [timed_settled s _ settled, atQuiesceWaitExpiry, live_up up]
    refine congrArg (fun y => Host.Outcome.next (s.withEng y)) (if_neg ?_)
    rw [on]
    decide
  rw [ran]
  generalize s.eng.ras.quiesceAt + s.eng.fv F.RAS_QUIESCE_WAIT_WAIT = T
  have now : (s.eng.advance T).now = max s.eng.now T := Eng.advance_now _ _
  have passed : s.eng.Only [0, 12, 17] [] (s.eng.advance T) := .advance _ _ (by decide) (by decide) (by decide)
  have insts : ∀ k, (s.eng.advance T).inst k = s.eng.inst k := fun k => Eng.advance_inst _ T k
  have self : (s.eng.advance T).self = s.eng.self := by
    unfold Eng.self
    rw [Eng.advance_fv _ _ _ _ (by decide) (by decide)]
  have ras : (s.eng.advance T).ras = s.eng.ras := passed.parts 16 (by decide)
  have raf : (s.eng.advance T).raf = s.eng.raf := passed.parts 13 (by decide)
  obtain ⟨steps, ras', raf', told, only⟩ := (s.eng.advance T).giveUp_alone (i := i) (st := st) (by rw [ras]; exact on) (by rw [insts]; exact here)
    (by rw [insts]; exact lead) (by rw [insts]; exact bare) (by rw [insts, self]; exact alone) (fun k h1 h2 => by rw [insts]; exact others k h1 h2)
    ((congrArg Led.recs (passed.parts 2 (by decide))).trans recs) ((congrArg Bin.entries (passed.parts 11 (by decide))).trans bins)
    (fun l h => by
      rw [Eng.linkActive_congr raf]
      exact down l h)
  rw [foldl_giveUp (i := i) instRange (s.eng.advance T) (List.mem_range.mpr low)
    (fun k hk other => by rw [insts]; exact others k (List.mem_range.mp hk) other) (fun k hk => steps k (List.mem_range.mp hk)),
    Eng.quiesceCheck_idle _ (by rw [ras'])]
  exact ⟨_, rfl, (only.parts 0 (by decide)).trans now, by rw [← ras]; exact ras', steps i low, told, by rw [← raf]; exact raf',
    .withEng ((passed.weaken (by decide) (by decide)).trans (only.weaken (by decide) (by decide)))⟩

/-! ### Takeovers -/

theorem Eng.takeoverCheck_poke (e : Eng) (n : Nat) : (e.poke F.RAS_TAKEOVER_CHIP n).takeoverCheck n = e.takeoverCheck n := by
  have self : (e.poke F.RAS_TAKEOVER_CHIP n).self = e.self := by
    unfold Eng.self
    rw [Eng.fv_poke_ne _ _ _ _ _ _ (by decide) (by decide) (.inl (by decide))]
  unfold Eng.takeoverCheck
  rw [self]
  rfl

theorem Eng.takeAll_none (e : Eng) (n : Nat) (shadow : List ShadowReq) (none_ : ∀ m ∈ e.ras.mirrors, m.chip = n → m.rc.live = false) :
    e.takeAll n shadow = (0, e) := by
  have all : e.ras.mirrors.filter (fun m => decide (m.chip = n) && m.rc.live) = [] := List.filter_eq_nil_iff.mpr (fun m hm live => by
    obtain ⟨chip, alive⟩ := Bool.and_eq_true_iff.mp live
    exact Bool.noConfusion (alive.symm.trans (none_ m hm (of_decide_eq_true chip))))
  rw [Eng.takeAll]
  dsimp only
  rw [all]
  rfl

theorem Eng.fv_setRas (e : Eng) (x : Ras) (f : Fld) (sel : Nat) : ({ e with ras := x } : Eng).fv f sel = e.fv f sel := rfl

section Takeover
variable {s : State} {data : Word} (shadow : List ShadowReq) (up : s.boot.absent = false) (go : data.getLsbD 31 = true)
include up go

theorem exec_takeover (r : Nat) (check : s.eng.takeoverCheck (data.toNat % 2 ^ 6) = r) :
    exec (.takeover data shadow) s = .next (s.withEng (
      let n := data.toNat % 2 ^ 6
      let e := (s.eng.poke F.RAS_TAKEOVER_CHIP n).poke F.RAS_TAKEOVER_STATUS_RESULT r
      if r ≠ 1 then e
      else
        let x := e.takeAll n shadow
        let e := x.2.poke F.RAS_TAKEOVER_STATUS_COUNT x.1
        { e with ras := { e.ras with taken := sinsert e.ras.taken n } })) := by
  have n : bitsOf data.toNat 5 0 = data.toNat % 2 ^ 6 := bitsOf_low _ _
  change execTakeover data shadow s = _
  rw [execTakeover, live_up up, n]
  refine congrArg (fun y => Host.Outcome.next (s.withEng y)) ((if_neg ?_).trans ?_)
  · rw [bitOf_toNat, go]
    exact Bool.false_ne_true
  · rw [Eng.takeoverCheck_poke, check]

theorem takeover_refused (alive : data.toNat % 2 ^ 6 ∉ s.eng.raf.lost) :
    ∃ t, exec (.takeover data shadow) s = .next t ∧ t.eng.fv F.RAS_TAKEOVER_CHIP = data.toNat % 2 ^ 6 ∧
      t.eng.fv F.RAS_TAKEOVER_STATUS_RESULT = 2 ∧ s.Only [] [0xF0A0, 0xF0A4] t := by
  have check : s.eng.takeoverCheck (data.toNat % 2 ^ 6) = 2 := by
    have unheard : s.eng.raf.lost.contains (data.toNat % 2 ^ 6) = false := by
      rw [← Bool.not_eq_true, List.contains_iff_mem]
      exact alive
    rw [Eng.takeoverCheck]
    exact if_pos (by rw [unheard]; rfl)
  refine ⟨_, exec_takeover shadow up go 2 check, ?_, ?_, .withEng ((Eng.Only.poke _ _ _ _ (by decide) (by decide)).trans
    (.poke _ _ _ _ (by decide) (by decide)))⟩
  · refine (Eng.fv_poke_ne _ _ _ _ _ _ (by decide) (by decide) (.inl (by decide))).trans ((Eng.fv_poke_same _ _ _ _ (by decide)).trans ?_)
    exact Nat.mod_mod _ _
  · exact Eng.fv_poke_same _ _ _ _ (by decide)

theorem takeover_empty (check : s.eng.takeoverCheck (data.toNat % 2 ^ 6) = 1)
    (none_ : ∀ m ∈ s.eng.ras.mirrors, m.chip = data.toNat % 2 ^ 6 → m.rc.live = false) :
    ∃ t, exec (.takeover data shadow) s = .next t ∧ t.eng.fv F.RAS_TAKEOVER_CHIP = data.toNat % 2 ^ 6 ∧
      t.eng.fv F.RAS_TAKEOVER_STATUS_RESULT = 1 ∧ t.eng.fv F.RAS_TAKEOVER_STATUS_COUNT = 0 ∧
      t.eng.ras = { s.eng.ras with taken := sinsert s.eng.ras.taken (data.toNat % 2 ^ 6) } ∧ s.Only [16] [0xF0A0, 0xF0A4] t := by
  have ran := exec_takeover shadow up go 1 check
  have small : data.toNat % 2 ^ 6 % 2 ^ 6 = data.toNat % 2 ^ 6 := Nat.mod_mod _ _
  generalize data.toNat % 2 ^ 6 = n at *
  dsimp only at ran
  rw [if_neg (show ¬ ((1 : Nat) ≠ 1) by decide),
    Eng.takeAll_none ((s.eng.poke F.RAS_TAKEOVER_CHIP n).poke F.RAS_TAKEOVER_STATUS_RESULT 1) n shadow none_] at ran
  dsimp only at ran
  have only : s.eng.Only [16] [0xF0A0, 0xF0A4] ((s.eng.poke F.RAS_TAKEOVER_CHIP n).poke F.RAS_TAKEOVER_STATUS_RESULT 1) :=
    (Eng.Only.poke _ _ _ _ (by decide) (by decide)).trans (.poke _ _ _ _ (by decide) (by decide))
  have chip : ((s.eng.poke F.RAS_TAKEOVER_CHIP n).poke F.RAS_TAKEOVER_STATUS_RESULT 1).fv F.RAS_TAKEOVER_CHIP = n :=
    (Eng.fv_poke_ne _ _ _ _ _ _ (by decide) (by decide) (.inl (by decide))).trans ((Eng.fv_poke_same _ _ _ _ (by decide)).trans small)
  have result : ((s.eng.poke F.RAS_TAKEOVER_CHIP n).poke F.RAS_TAKEOVER_STATUS_RESULT 1).fv F.RAS_TAKEOVER_STATUS_RESULT = 1 :=
    Eng.fv_poke_same _ _ _ _ (by decide)
  have ras : ((s.eng.poke F.RAS_TAKEOVER_CHIP n).poke F.RAS_TAKEOVER_STATUS_RESULT 1).ras = s.eng.ras := rfl
  generalize (s.eng.poke F.RAS_TAKEOVER_CHIP n).poke F.RAS_TAKEOVER_STATUS_RESULT 1 = x at *
  have chip' : (x.poke F.RAS_TAKEOVER_STATUS_COUNT 0).fv F.RAS_TAKEOVER_CHIP = n :=
    (Eng.fv_poke_ne _ _ _ _ _ _ (by decide) (by decide) (.inl (by decide))).trans chip
  have result' : (x.poke F.RAS_TAKEOVER_STATUS_COUNT 0).fv F.RAS_TAKEOVER_STATUS_RESULT = 1 :=
    (Eng.fv_poke_beside _ _ _ _ _ (by decide) (by decide) (by decide)).trans result
  have count : (x.poke F.RAS_TAKEOVER_STATUS_COUNT 0).fv F.RAS_TAKEOVER_STATUS_COUNT = 0 := Eng.fv_poke_same _ _ _ _ (by decide)
  have only' : s.eng.Only [16] [0xF0A0, 0xF0A4] (x.poke F.RAS_TAKEOVER_STATUS_COUNT 0) := only.trans (.poke _ _ _ _ (by decide) (by decide))
  have ras' : (x.poke F.RAS_TAKEOVER_STATUS_COUNT 0).ras = s.eng.ras := ras
  generalize x.poke F.RAS_TAKEOVER_STATUS_COUNT 0 = y at *
  refine ⟨_, ran, (Eng.fv_setRas y _ _ _).trans chip', (Eng.fv_setRas y _ _ _).trans result', (Eng.fv_setRas y _ _ _).trans count, ?_, .withEng (only'.trans (.setRas _ _ (by decide)))⟩
  rw [← ras']
  rfl

end Takeover

/-- Settles O60: a quiesce that has waited long enough gives up the one step left, a lost buddy is reported once, and a takeover takes what is
mirrored, here nothing. -/
theorem lossesAreMet : Obligations.LossesAreMet := by
  unfold Obligations.LossesAreMet
  intro data ring i st shadow s up
  refine ⟨fun settled on low here lead bare alone others recs bins down =>
      quiesceWaitExpiry_gives_up up settled on low here lead bare alone others recs bins down,
    fun ch settled chip current out none_ => buddyTimeout_lost up settled chip current out none_,
    fun go alive => takeover_refused shadow up go alive, fun go check none_ => takeover_empty shadow up go check none_⟩

end Sys2Proof.Machine
end

section
/-!
Doorbells, ring configuration and heads (O24).
-/
namespace Sys2Proof.Machine

/-! ### Counts taken -/

/-- The ring once a published count is taken. -/
def Eng.ringTaken (e : Eng) (r count stamp : Nat) : Ring :=
  if e.ringKind r = 0 then { e.ring r with tail := count % 2 ^ 32, stamps := (e.ring r).stamps ++ [(stamp, count % 2 ^ 32)] }
  else { e.ring r with head := count % 2 ^ 32 }

/-- The count may be taken: a submission ring is given more entries than it holds and no more than it has, another ring gives back no more
than are filled. -/
def Eng.countFits (e : Eng) (r count : Nat) : Prop :=
  let d := (count % 2 ^ 32 + 2 ^ 32 - (e.ring r).head) % 2 ^ 32
  (e.ringKind r = 0 ∧ e.ringFill r < d ∧ d ≤ e.ringDepth r) ∨ (e.ringKind r ≠ 0 ∧ d ≤ e.ringFill r)

theorem Eng.takeCount_taken (e : Eng) {r count : Nat} (stamp : Nat) (en : e.ringEn r = true) (runs : e.unitHalted 1 = false)
    (fits : e.countFits r count) : e.takeCount r count stamp = e.setRing r (e.ringTaken r count stamp) := by
  unfold Eng.countFits at fits
  rw [Eng.takeCount, en, runs, show two32 = 2 ^ 32 from rfl]
  refine (if_neg (by decide)).trans ?_
  rw [Eng.ringTaken]
  rcases fits with ⟨kind, ahead, within⟩ | ⟨kind, within⟩
  · rw [if_pos kind, if_pos kind, if_neg (Nat.not_lt.mpr within), if_neg (Nat.not_le.mpr ahead)]
  · rw [if_neg kind, if_neg kind, if_neg (Nat.not_lt.mpr within)]

theorem Eng.resolve_none (e : Eng) (none_ : e.hat.orders = []) : e.resolve = e := by
  rw [Eng.resolve, none_]
  rfl

theorem Eng.Only.setHat {us offs : List Nat} (e : Eng) (x : Hat) (hatch : 1 ∈ us) : e.Only us offs { e with hat := x } :=
  .of_parts rfl rfl (fun u out => by unfold Eng.partSame; split <;> simp_all)

theorem Eng.setRing_hat (e : Eng) (r : Nat) (x : Ring) : (e.setRing r x).hat = { e.hat with rings := (e.setRing r x).hat.rings } := rfl

section Doorbells
variable {s : State} {r count : Nat} (up : s.boot.absent = false) (none_ : s.eng.hat.orders = []) (en : s.eng.ringEn r = true)
  (runs : s.eng.unitHalted 1 = false) (fits : s.eng.countFits r count)
include none_ en runs fits

theorem Eng.takeCount_resolved : (s.eng.takeCount r count s.eng.now).resolve = s.eng.setRing r (s.eng.ringTaken r count s.eng.now) := by
  rw [s.eng.takeCount_taken _ en runs fits]
  exact Eng.resolve_none _ none_

include up

theorem doorbellSnoop_takes (mode : s.eng.fv F.HAT_RING_CFG_DB_MODE r = 0) :
    exec (.doorbellSnoop r count) s = .next (s.withEng (s.eng.setRing r (s.eng.ringTaken r count s.eng.now))) := by
  change execDoorbellSnoop r count s = _
  rw [execDoorbellSnoop, live_up up]
  exact congrArg (fun y => Host.Outcome.next (s.withEng y)) ((if_pos mode).trans (Eng.takeCount_resolved none_ en runs fits))

theorem hatDbwin_takes (mode : s.eng.fv F.HAT_RING_CFG_DB_MODE r = 1) :
    exec (.hatDbwin r count) s = .next (s.withEng (s.eng.setRing r (s.eng.ringTaken r count s.eng.now))) := by
  change execHatDbwin r count s = _
  rw [execHatDbwin, live_up up]
  refine congrArg (fun y => Host.Outcome.next (s.withEng y)) ((if_pos ?_).trans (Eng.takeCount_resolved none_ en runs fits))
  rw [en, mode]
  rfl

theorem doorbellPoll_takes (low : r < 256) (mode : s.eng.fv F.HAT_RING_CFG_DB_MODE r = 0) (settled : s.Settled)
    (period : 1000 * s.eng.fv F.HAT_CTL_POLL ≠ 0) :
    let T := roundUp (max s.eng.now s.eng.hat.nextPoll) (1000 * s.eng.fv F.HAT_CTL_POLL)
    ∃ t, exec (.doorbellPoll [(r, count)]) s = .next t ∧ t.eng.now = T ∧ t.eng.ring r = s.eng.ringTaken r count T ∧
      (∀ k, k ≠ r → t.eng.ring k = s.eng.ring k) ∧ t.eng.hat = { s.eng.hat with rings := t.eng.hat.rings, nextPoll := T + 1 } ∧
      s.Only [0, 1, 12, 17] [] t := by
  intro T
  have after : s.eng.now ≤ T := Nat.le_trans (Nat.le_max_left _ _) (le_roundUp (Nat.pos_of_ne_zero period))
  have ran : exec (.doorbellPoll [(r, count)]) s = .next (s.withEng
      (let e := s.eng.advance T
       let e := { e with hat := { e.hat with nextPoll := T + 1 } }
       (if e.fv F.HAT_RING_CFG_DB_MODE r = 0 then e.takeCount r count e.now else e).resolve)) := by
    change timed s (atDoorbellPoll [(r, count)]) = _
    rw [timed_settled s _ settled, atDoorbellPoll, live_up up, Nat.mul_comm]
    exact congrArg (fun y => Host.Outcome.next (s.withEng y)) (if_neg period)
  clear_value T
  have now : (s.eng.advance T).now = T := (Eng.advance_now _ _).trans (Nat.max_eq_right after)
  have fvs : ∀ f : Fld, timeReg f.off = false → (s.eng.advance T).fv f r = s.eng.fv f r := fun f reg =>
    Eng.advance_fv _ _ _ _ (Nat.lt_of_lt_of_le low (by decide)) reg
  have passed : s.eng.Only [0, 12, 17] [] (s.eng.advance T) := .advance _ _ (by decide) (by decide) (by decide)
  have hat : (s.eng.advance T).hat = s.eng.hat := Eng.advance_hat _ T
  have ras : (s.eng.advance T).ras = s.eng.ras := Eng.advance_ras _ T
  generalize s.eng.advance T = a at *
  dsimp only at ran
  have ring : ({ a with hat := { a.hat with nextPoll := T + 1 } } : Eng).ring = s.eng.ring := by
    funext k
    change tgetD a.hat.rings k {} = tgetD s.eng.hat.rings k {}
    rw [hat]
  have fvs' : ∀ f : Fld, timeReg f.off = false → ({ a with hat := { a.hat with nextPoll := T + 1 } } : Eng).fv f r = s.eng.fv f r := fvs
  have only : s.eng.Only [0, 1, 12, 17] [] { a with hat := { a.hat with nextPoll := T + 1 } } :=
    (passed.weaken (by decide) (by decide)).trans (.setHat a _ (by decide))
  have hat' : ({ a with hat := { a.hat with nextPoll := T + 1 } } : Eng).hat = { s.eng.hat with nextPoll := T + 1 } := by rw [hat]
  have ras' : ({ a with hat := { a.hat with nextPoll := T + 1 } } : Eng).ras = s.eng.ras := ras
  have now' : ({ a with hat := { a.hat with nextPoll := T + 1 } } : Eng).now = T := now
  generalize ({ a with hat := { a.hat with nextPoll := T + 1 } } : Eng) = b at *
  have kind : b.ringKind r = s.eng.ringKind r := fvs' _ (by decide)
  have depth : b.ringDepth r = s.eng.ringDepth r := by rw [Eng.ringDepth, fvs' _ (by decide), Eng.ringDepth]
  have fill : b.ringFill r = s.eng.ringFill r := by rw [Eng.ringFill, ring, Eng.ringFill]
  have taken : b.takeCount r count T = b.setRing r (b.ringTaken r count T) := by
    refine b.takeCount_taken _ ?_ ?_ ?_
    · rw [Eng.ringEn, Eng.fb, fvs' _ (by decide)]
      exact en
    · rw [Eng.unitHalted, Eng.cap_, ras']
      exact runs
    · unfold Eng.countFits at fits ⊢
      rw [kind, depth, fill, ring]
      exact fits
  rw [fvs' _ (by decide), if_pos mode, now, taken, Eng.resolve_none _ (by rw [Eng.setRing_hat_orders, hat']; exact none_)] at ran
  refine ⟨_, ran, now', ?_, fun k other => ?_, ?_, .withEng (only.trans ?_)⟩
  · refine (Eng.ring_setRing _ _ _ _).trans ((if_pos rfl).trans ?_)
    rw [Eng.ringTaken, kind, ring, Eng.ringTaken]
  · refine (Eng.ring_setRing _ _ _ _).trans ((if_neg other).trans ?_)
    rw [ring]
  · refine (Eng.setRing_hat b r _).trans ?_
    rw [hat']
    rfl
  · exact .setHat b _ (by decide)

end Doorbells

/-! ### The blocked state ends -/

theorem foldl_unquiet (is : List Nat) (e : Eng) :
    let f := is.foldl (fun (e : Eng) i => e.modInst i (fun x => { x with quiet := false })) e
    (∀ i, f.inst i = { e.inst i with quiet := (e.inst i).quiet && !is.contains i }) ∧ f = { e with cmp := { e.cmp with insts := f.cmp.insts } } := by
  induction is generalizing e with
  | nil => exact ⟨fun i => by rw [List.contains_nil, Bool.not_false, Bool.and_true]; rfl, rfl⟩
  | cons k ks ih =>
    obtain ⟨insts, rest⟩ := ih (e.modInst k (fun x => { x with quiet := false }))
    refine ⟨fun i => ?_, rest⟩
    rw [List.foldl_cons, insts i, Eng.inst_modInst e k i]
    by_cases same : i = k
    · rw [if_pos same, same, List.contains_cons, beq_self_eq_true, Bool.true_or, Bool.not_true, Bool.and_false, Bool.false_and]
    · rw [if_neg same, List.contains_cons, beq_false_of_ne same, Bool.false_or]

/-- The wait of R179 ends for every `Inst` whose records go to the ring, and nothing else changes. -/
theorem Eng.unblocked_quiet (e : Eng) (c : Nat) :
    (∀ i, (e.unblocked c).inst i = { e.inst i with quiet := (e.inst i).quiet && !(e.ringInsts c).contains i }) ∧
      e.unblocked c = { e with cmp := { e.cmp with insts := (e.unblocked c).cmp.insts } } :=
  foldl_unquiet (e.ringInsts c) e

/-! ### Ring configuration -/

section Configuration
variable {s : State} {data : Word} {r : Nat} (up : s.boot.absent = false) (none_ : s.eng.hat.orders = []) (low : r < 256)
  (sel : s.eng.fv F.HAT_RING_SEL_RING = r)

theorem setBits_en (w : Word) (b : Bool) : setBits w 3 3 (b2n b) = (w &&& ~~~8) ||| (if b then 8 else 0) := by
  cases b <;> rfl

theorem ofNat_ringCfg (data : Word) : BitVec.ofNat 32 (data.toNat &&& ringCfgMask) = data &&& 0x3FFF7FF7 := by
  refine BitVec.eq_of_toNat_eq ?_
  rw [BitVec.toNat_ofNat, BitVec.toNat_and]
  exact Nat.mod_eq_of_lt (Nat.lt_of_le_of_lt Nat.and_le_left data.isLt)

theorem ringCfg_disabled (data : Word) : (data &&& 0x3FFF7FF7) &&& ~~~8 = data &&& 0x3FFF7FF7 := by
  rw [BitVec.and_assoc]
  rfl

theorem ringCfg_cleared (data : Word) : ((data &&& 0x3FFF7FF7) ||| 8) &&& ~~~8 = data &&& 0x3FFF7FF7 := by
  rw [BitVec.and_or_distrib_right, ringCfg_disabled]
  exact BitVec.or_zero

/-- The engine with a ring configured anew and enabled. -/
def Eng.ringOpened (e : Eng) (data : Word) (r : Nat) : Eng :=
  ((e.putReg 0x1054 r (data &&& 0x3FFF7FF7)).poke F.HAT_RING_CFG_EN 1 r).setRing r { ovf := (e.ring r).ovf, lostFlag := (e.ring r).lostFlag }

theorem Eng.ringOpened_reg (e : Eng) (data : Word) (r : Nat) : (e.ringOpened data r).reg 0x1054 r = (data &&& 0x3FFF7FF7) ||| 8 := by
  change ((e.putReg 0x1054 r (data &&& 0x3FFF7FF7)).putReg 0x1054 r
    (setBits ((e.putReg 0x1054 r (data &&& 0x3FFF7FF7)).reg 0x1054 r) 3 3 (b2n true))).reg 0x1054 r = _
  rw [Eng.reg_putReg_same, Eng.reg_putReg_same, setBits_en, ringCfg_disabled]
  rfl

include up sel in
theorem exec_ringCfgWrite_enable (sets : data.getLsbD 3 = true) (was : s.eng.ringEn r = false) (free : s.eng.isCq r = false)
    (may : (s.eng.putReg 0x1054 r (data &&& 0x3FFF7FF7)).ringMayEnable data.toNat = true) :
    exec (.ringCfgWrite data) s = .next (s.withEng (
      let x := s.eng.ringOpened data r
      if (s.eng.ring r).overAt = some s.eng.now then (x.setRing r { x.ring r with overAt := (s.eng.ring r).overAt }).poke F.HAT_RING_CFG_EN 0 r
      else (if x.blocked r then x else x.unblocked r).resolve)) := by
  have off : bitOf (s.eng.reg 0x1054 r).toNat 3 = false := by
    rw [bitOf_toNat, ← Eng.fb_bit]
    exact was
  have on : bitOf data.toNat 3 = true := by rw [bitOf_toNat]; exact sets
  change live s (fun e => e.ringCfgWrite data) = _
  rw [live_up up, Eng.ringCfgWrite]
  dsimp only
  rw [sel, off, on, free, if_neg Bool.false_ne_true, Bool.false_and, if_neg Bool.false_ne_true, ofNat_ringCfg, Bool.not_true,
    if_neg Bool.false_ne_true, may, Bool.not_true, if_neg Bool.false_ne_true]
  rfl

include up low sel none_ in
theorem ringCfgWrite_enables (sets : data.getLsbD 3 = true) (was : s.eng.ringEn r = false) (free : s.eng.isCq r = false)
    (may : (s.eng.putReg 0x1054 r (data &&& 0x3FFF7FF7)).ringMayEnable data.toNat = true) :
    let g := s.eng.ring r
    let late := decide (g.overAt = some s.eng.now)
    ∃ t, exec (.ringCfgWrite data) s = .next t ∧ t.eng.reg 0x1054 r = (data &&& 0x3FFF7FF7) ||| (if late then 0 else 8) ∧
      t.eng.ring r = { ovf := g.ovf, lostFlag := g.lostFlag, overAt := if late then g.overAt else none } ∧
      (∀ k, k ≠ r → t.eng.ring k = s.eng.ring k) ∧ t.eng.hat = { s.eng.hat with rings := t.eng.hat.rings } ∧
      (∀ i, t.eng.inst i = { s.eng.inst i with
        quiet := (s.eng.inst i).quiet && (late || !g.ovf.isEmpty || !(t.eng.ringInsts r).contains i) }) ∧
      t.eng.cmp = { s.eng.cmp with insts := t.eng.cmp.insts } ∧ s.Only [1, 4] [0x1054] t := by
  intro g late
  have ran := exec_ringCfgWrite_enable up sel sets was free may
  have word := s.eng.ringOpened_reg data r
  have here : (s.eng.ringOpened data r).ring r = { ovf := g.ovf, lostFlag := g.lostFlag } := (Eng.ring_setRing _ _ _ _).trans (if_pos rfl)
  have beside : ∀ k, k ≠ r → (s.eng.ringOpened data r).ring k = s.eng.ring k := fun k other => (Eng.ring_setRing _ _ _ _).trans (if_neg other)
  have hat : (s.eng.ringOpened data r).hat = { s.eng.hat with rings := (s.eng.ringOpened data r).hat.rings } := rfl
  have cmp : (s.eng.ringOpened data r).cmp = s.eng.cmp := rfl
  have wide : r < 65536 := Nat.lt_of_lt_of_le low (by decide)
  have only : s.eng.Only [1, 4] [0x1054] (s.eng.ringOpened data r) :=
    ((Eng.Only.putReg _ _ _ _ wide (by decide)).trans (.poke _ _ _ _ wide (by decide))).trans (.setHat _ _ (by decide))
  generalize s.eng.ringOpened data r = x at *
  have insts : ∀ i, x.inst i = s.eng.inst i := fun i => by rw [Eng.inst, cmp, Eng.inst]
  by_cases over_ : g.overAt = some s.eng.now
  · have lateT : late = true := decide_eq_true over_
    dsimp only at ran
    rw [if_pos over_] at ran
    refine ⟨_, ran, ?_, ?_, fun k other => ?_, ?_, fun i => ?_, ?_, .withEng ?_⟩
    · change ((x.setRing r _).putReg 0x1054 r (setBits (x.reg 0x1054 r) 3 3 (b2n false))).reg 0x1054 r = _
      rw [Eng.reg_putReg_same, word, setBits_en, lateT, ringCfg_cleared]
      rfl
    · refine (Eng.ring_setRing _ _ _ _).trans ((if_pos rfl).trans ?_)
      rw [here, lateT]
      rfl
    · exact (Eng.ring_setRing _ _ _ _).trans ((if_neg other).trans (beside k other))
    · exact (Eng.setRing_hat x r _).trans (by rw [hat]; rfl)
    · rw [lateT, Bool.true_or, Bool.true_or, Bool.and_true]
      exact insts i
    · change x.cmp = { s.eng.cmp with insts := x.cmp.insts }
      rw [cmp]
    · exact only.trans ((Eng.Only.setHat _ _ (by decide)).trans (.poke _ _ _ _ wide (by decide)))
  · have lateF : late = false := decide_eq_false over_
    dsimp only at ran
    rw [if_neg over_] at ran
    have enabled : x.ringEn r = true := by
      refine (Eng.fb_bit x 0x1054 3 r).trans ?_
      rw [word, BitVec.getLsbD_or]
      exact Bool.or_true _
    have ring : x.ring r = { ovf := g.ovf, lostFlag := g.lostFlag, overAt := if late then g.overAt else none } := by rw [here, lateF]; rfl
    have reg : x.reg 0x1054 r = (data &&& 0x3FFF7FF7) ||| (if late then 0 else 8) := by rw [word, lateF]; rfl
    have orders : x.hat.orders = [] := by rw [hat]; exact none_
    have blocked : x.blocked r = !g.ovf.isEmpty := by
      rw [Eng.blocked, here, enabled]
      exact Bool.or_false _
    by_cases holds : g.ovf.isEmpty = true
    · obtain ⟨quiet, rest⟩ := x.unblocked_quiet r
      rw [if_neg (by rw [blocked, holds]; decide), Eng.resolve_none (x.unblocked r) (by rw [rest]; exact orders)] at ran
      have same : (x.unblocked r).ringInsts r = x.ringInsts r := by rw [rest]; rfl
      refine ⟨_, ran, ?_, ?_, ?_, ?_, fun i => ?_, ?_, .withEng (only.trans ?_)⟩
      · exact (congrArg (fun y : Eng => y.reg 0x1054 r) rest).trans reg
      · exact (congrArg (fun y : Eng => y.ring r) rest).trans ring
      · exact fun k other => (congrArg (fun y : Eng => y.ring k) rest).trans (beside k other)
      · exact (congrArg Eng.hat rest).trans (hat.trans (congrArg (fun l => ({ s.eng.hat with rings := l } : Hat)) (congrArg (fun y : Eng => y.hat.rings) rest).symm))
      · refine (quiet i).trans ?_
        rw [insts i, ← same, lateF, holds]
        rfl
      · exact (congrArg Eng.cmp rest).trans (congrArg (fun c => ({ c with insts := (x.unblocked r).cmp.insts } : Cmp)) cmp)
      · rw [rest]
        exact .setCmp _ _ (by decide)
    · rw [if_pos (by rw [blocked, Bool.eq_false_iff.mpr holds]; rfl), Eng.resolve_none _ orders] at ran
      refine ⟨_, ran, reg, ring, beside, hat, fun i => ?_, ?_, .withEng only⟩
      · refine (insts i).trans ?_
        rw [lateF, Bool.eq_false_iff.mpr holds, Bool.false_or, Bool.not_false, Bool.true_or, Bool.and_true]
      · change x.cmp = { s.eng.cmp with insts := x.cmp.insts }
        rw [cmp]

include up none_ low sel in
theorem ringCfgWrite_disables (keeps : data = s.eng.reg 0x1054 r &&& ~~~8) (en : s.eng.ringEn r = true) :
    ∃ t, exec (.ringCfgWrite data) s = .next t ∧ t.eng.reg 0x1054 r = data ∧ s.Only [] [0x1054] t ∧
      ∀ k, k < 65536 → k ≠ r → t.eng.reg 0x1054 k = s.eng.reg 0x1054 k := by
  have wide : r < 65536 := Nat.lt_of_lt_of_le low (by decide)
  have on : bitOf (s.eng.reg 0x1054 r).toNat 3 = true := by
    rw [bitOf_toNat, ← Eng.fb_bit]
    exact en
  have off : bitOf data.toNat 3 = false := by
    rw [bitOf_toNat, keeps, BitVec.getLsbD_and]
    exact Bool.and_false _
  have same : data.toNat &&& ringCfgMask = (s.eng.reg 0x1054 r).toNat &&& ringCfgMask := by
    rw [keeps, BitVec.toNat_and, Nat.and_assoc]
    rfl
  have ran : exec (.ringCfgWrite data) s = .next (s.withEng (s.eng.poke F.HAT_RING_CFG_EN 0 r)) := by
    change live s (fun e => e.ringCfgWrite data) = _
    rw [live_up up, Eng.ringCfgWrite]
    dsimp only
    rw [sel, on, off, if_pos rfl, if_neg Bool.false_ne_true, same, if_neg (by simp), Eng.resolve_none (s.eng.poke F.HAT_RING_CFG_EN 0 r) none_]
  refine ⟨_, ran, ?_, .withEng (.poke _ _ _ _ wide (by decide)), fun k lowk other => ?_⟩
  · change (s.eng.putReg 0x1054 r (setBits (s.eng.reg 0x1054 r) 3 3 (b2n false))).reg 0x1054 r = _
    rw [Eng.reg_putReg_same, setBits_en, keeps]
    exact BitVec.or_zero
  · exact Eng.reg_putReg_ne _ _ _ _ wide lowk (.inr other)

end Configuration

/-- Settles O24: a count that fits is taken with its stamp, enabling a ring starts its counts and ends the wait for it, disabling it keeps its
configuration, and a head moves past what has been read. -/
theorem ringsAndDoorbells : Obligations.RingsAndDoorbells := by
  unfold Obligations.RingsAndDoorbells
  intro data r count s up none_ low
  refine ⟨fun en runs fits => ⟨fun mode => doorbellSnoop_takes up none_ en runs fits mode, fun mode => hatDbwin_takes up none_ en runs fits mode,
      fun mode period settled => doorbellPoll_takes up none_ en runs fits low mode settled period⟩,
    fun sel sets was free may => ringCfgWrite_enables up none_ low sel sets was free may,
    fun sel keeps en => ringCfgWrite_disables up none_ low sel keeps en, fun kind behind => ?_⟩
  change execHeadAdvance r s = _
  rw [execHeadAdvance, live_up up]
  exact congrArg (fun y => Host.Outcome.next (s.withEng y)) (if_pos ⟨kind, behind⟩)

end Sys2Proof.Machine
end

section
/-!
Completion records, overflow areas and the hello exchange (O25).
-/
namespace Sys2Proof.Machine

/-! ### Records -/

/-- A ring has a free entry for a record. -/
def Eng.cqTakes (e : Eng) (c : Nat) : Bool :=
  e.fb F.HAT_CTL_EN && e.ringEn c && decide (e.ringKind c = 1 ∧ e.ringFill c < e.ringDepth c)

theorem Eng.cmpFull_eq (e : Eng) (c : Nat) : e.cmpFull c = !e.cqTakes c := by
  unfold Eng.cmpFull Eng.cqTakes
  rw [Bool.not_and, Bool.not_and, ← decide_not, Bool.or_assoc (!e.fb F.HAT_CTL_EN || !e.ringEn c), ← Bool.decide_or]
  congr 1
  exact decide_eq_decide.mpr (by omega)

/-- A record written to a ring: at its tail, with its PHASE, and the pointer line after it. -/
theorem Eng.cmpWrite_eq (e : Eng) (c : Nat) (v : CmpRec) :
    e.cmpWrite c v = { e.setRing c { e.ring c with tail := ((e.ring c).tail + 1) % 2 ^ 32 } with
      out := .pointerLine c (((e.ring c).tail + 1) % 2 ^ 32) :: .completion c (e.ring c).tail (e.ringPhase c (e.ring c).tail) v :: e.out } := rfl

theorem Eng.complete_takes (e : Eng) (v : CmpRec) (takes : e.cqTakes (e.cqOf v.ring) = true) (none_ : (e.ring (e.cqOf v.ring)).ovf = []) :
    e.complete v = e.cmpWrite (e.cqOf v.ring) v := by
  have en : e.ringEn (e.cqOf v.ring) = true := by
    obtain ⟨h, -⟩ := Bool.and_eq_true_iff.mp takes
    exact (Bool.and_eq_true_iff.mp h).2
  rw [Eng.complete]
  refine if_neg ?_
  rw [Eng.blocked, none_, en, Eng.cmpFull_eq, takes]
  decide

theorem Eng.complete_holds (e : Eng) (v : CmpRec) (holds : e.cqTakes (e.cqOf v.ring) = false ∨ (e.ring (e.cqOf v.ring)).ovf ≠ []) :
    e.complete v = (e.setRing (e.cqOf v.ring) { e.ring (e.cqOf v.ring) with ovf := (e.ring (e.cqOf v.ring)).ovf ++ [v] }).ovfWrite v := by
  rw [Eng.complete]
  refine if_pos (Bool.or_eq_true_iff.mpr ?_)
  rcases holds with full | held
  · exact .inr (by rw [Eng.cmpFull_eq, full]; rfl)
  · refine .inl (Bool.or_eq_true_iff.mpr (.inl ?_))
    rw [Bool.not_eq_true', List.isEmpty_eq_false_iff]
    exact held

/-- A record goes to the ring or to the overflow area. -/
theorem Eng.complete_either (e : Eng) (v : CmpRec) :
    e.complete v = e.cmpWrite (e.cqOf v.ring) v ∨
      e.complete v = (e.setRing (e.cqOf v.ring) { e.ring (e.cqOf v.ring) with ovf := (e.ring (e.cqOf v.ring)).ovf ++ [v] }).ovfWrite v := by
  by_cases takes : e.cqTakes (e.cqOf v.ring) = true
  · by_cases none_ : (e.ring (e.cqOf v.ring)).ovf = []
    · exact .inl (e.complete_takes v takes none_)
    · exact .inr (e.complete_holds v (.inr none_))
  · exact .inr (e.complete_holds v (.inl (Bool.eq_false_iff.mpr takes)))

theorem Eng.complete_rest (e : Eng) (v : CmpRec) : e.complete v = { e with
    out := (e.complete v).out
    hat := { e.hat with rings := (e.complete v).hat.rings, overNext := (e.complete v).hat.overNext, ovfArea := (e.complete v).hat.ovfArea } } := by
  rcases e.complete_either v with h | h <;> (rw [h]; rfl)

theorem Eng.complete_ring_beside (e : Eng) (v : CmpRec) {k : Nat} (other : k ≠ e.cqOf v.ring) : (e.complete v).ring k = e.ring k := by
  rcases e.complete_either v with h | h <;> (rw [h]; exact (Eng.ring_setRing _ _ _ _).trans (if_neg other))

/-! ### Drains -/

/-- The entries that a ring has free for records. -/
def Eng.cqFree (e : Eng) (c : Nat) : Nat :=
  if e.fb F.HAT_CTL_EN && e.ringEn c && decide (e.ringKind c = 1) then e.ringDepth c - e.ringFill c else 0

theorem Eng.cqFree_pos (e : Eng) (c : Nat) : e.cmpFull c = false ↔ 0 < e.cqFree c := by
  rw [Eng.cmpFull_eq, Bool.not_eq_false', Eng.cqTakes, Eng.cqFree, Bool.and_eq_true, decide_eq_true_eq]
  by_cases open_ : e.fb F.HAT_CTL_EN && e.ringEn c
  · by_cases kind : e.ringKind c = 1 <;> simp [open_, kind]
  · simp [open_]

theorem Eng.ringDepth_le (e : Eng) (c : Nat) : e.ringDepth c ≤ 2 ^ 19 :=
  Nat.pow_le_pow_right (by decide) (by have := e.fv_lt F.HAT_RING_CFG_LOG2_DEPTH c; change _ < 2 ^ 4 at this; omega)

/-- What is sent of `n` records drained in a row from the tail. -/
def Eng.drainOut (e : Eng) (c tail n : Nat) (l : List CmpRec) (d : CmpRec) : List Out :=
  (List.range n).reverse.flatMap (fun k => [.pointerLine c ((tail + (k + 1)) % 2 ^ 32),
    .completion c ((tail + k) % 2 ^ 32) (e.ringPhase c ((tail + k) % 2 ^ 32)) (l.getD k d)])

theorem Eng.drainOut_succ (e : Eng) {c tail n : Nat} {v : CmpRec} {l : List CmpRec} {d : CmpRec} (low : tail < 2 ^ 32) :
    e.drainOut c tail (n + 1) (v :: l) d = e.drainOut c ((tail + 1) % 2 ^ 32) n l d ++
      [.pointerLine c ((tail + 1) % 2 ^ 32), .completion c tail (e.ringPhase c tail) v] := by
  have shift : ∀ k, ((tail + 1) % 2 ^ 32 + k) % 2 ^ 32 = (tail + (k + 1)) % 2 ^ 32 := fun k => by rw [Nat.mod_add_mod]; congr 1; omega
  rw [Eng.drainOut, List.range_succ_eq_map, List.reverse_cons, List.flatMap_append, ← List.map_reverse, List.flatMap_map, Eng.drainOut]
  congr 1
  · refine List.flatMap_congr (fun k _ => ?_)
    rw [shift k, shift (k + 1)]
    rfl
  · have first : (tail + 0) % 2 ^ 32 = tail := Nat.mod_eq_of_lt low
    rw [List.flatMap_cons, List.flatMap_nil, List.append_nil, first]
    rfl

theorem Eng.drainOut_zero (e : Eng) (c tail : Nat) (l : List CmpRec) (d : CmpRec) : e.drainOut c tail 0 l d = [] := by
  rw [Eng.drainOut, List.range_zero, List.reverse_nil, List.flatMap_nil]

theorem Eng.drainOut_congr {e e' : Eng} (regs : e'.regs = e.regs) (c tail n : Nat) (l : List CmpRec) (d : CmpRec) :
    e'.drainOut c tail n l d = e.drainOut c tail n l d := by
  have depth : e'.ringDepth c = e.ringDepth c := by rw [Eng.ringDepth, Eng.fv_congr regs, Eng.ringDepth]
  unfold Eng.drainOut Eng.ringPhase
  rw [depth]

theorem Ring.same (g : Ring) {l : List CmpRec} (held : g.ovf = l) : g = { g with ovf := l, tail := g.tail } := by
  subst held
  rfl

/-- The engine once the first record held over has gone to the ring. -/
def Eng.drainOne (e : Eng) (c : Nat) (v : CmpRec) (l : List CmpRec) : Eng := (e.setRing c { e.ring c with ovf := l }).cmpWrite c v

theorem Eng.drainOne_ring (e : Eng) (c : Nat) (v : CmpRec) (l : List CmpRec) (k : Nat) :
    (e.drainOne c v l).ring k = if k = c then { e.ring c with ovf := l, tail := ((e.ring c).tail + 1) % 2 ^ 32 } else e.ring k := by
  rw [Eng.drainOne, Eng.cmpWrite_eq]
  refine (Eng.ring_setRing _ _ _ _).trans ?_
  rw [Eng.ring_setRing, Eng.ring_setRing, if_pos rfl]
  split <;> rfl

theorem Eng.drainOne_out (e : Eng) (c : Nat) (v : CmpRec) (l : List CmpRec) : (e.drainOne c v l).out =
    .pointerLine c (((e.ring c).tail + 1) % 2 ^ 32) :: .completion c (e.ring c).tail (e.ringPhase c (e.ring c).tail) v :: e.out := by
  rw [Eng.drainOne, Eng.cmpWrite_eq, Eng.ring_setRing, if_pos rfl]
  rfl

theorem Eng.drainOne_rest (e : Eng) (c : Nat) (v : CmpRec) (l : List CmpRec) : e.drainOne c v l =
    { e with hat := { e.hat with rings := (e.drainOne c v l).hat.rings }, out := (e.drainOne c v l).out } := by
  rw [Eng.drainOne, Eng.cmpWrite_eq]
  rfl

theorem Eng.drainOne_regs (e : Eng) (c : Nat) (v : CmpRec) (l : List CmpRec) : (e.drainOne c v l).regs = e.regs := by
  rw [e.drainOne_rest]

theorem Eng.drainOne_free (e : Eng) (c : Nat) (v : CmpRec) (l : List CmpRec) (head : (e.ring c).head < 2 ^ 32)
    (tail : (e.ring c).tail < 2 ^ 32) (free : 0 < e.cqFree c) : (e.drainOne c v l).cqFree c + 1 = e.cqFree c := by
  have small := e.ringDepth_le c
  have fill : (e.drainOne c v l).ringFill c = (((e.ring c).tail + 1) % 2 ^ 32 + 2 ^ 32 - (e.ring c).head) % 2 ^ 32 := by
    rw [Eng.ringFill, Eng.drainOne_ring, if_pos rfl]
    rfl
  have was : e.ringFill c = ((e.ring c).tail + 2 ^ 32 - (e.ring c).head) % 2 ^ 32 := rfl
  have regs := e.drainOne_regs c v l
  rw [Eng.cqFree, Eng.ringEn, Eng.ringKind, Eng.ringDepth, Eng.fb, Eng.fb, Eng.fv_congr regs, Eng.fv_congr regs, Eng.fv_congr regs,
    Eng.fv_congr regs, fill]
  change (if e.fb F.HAT_CTL_EN && e.ringEn c && decide (e.ringKind c = 1) then e.ringDepth c - _ else 0) + 1 = _
  rw [Eng.cqFree, was] at free ⊢
  generalize e.ringDepth c = depth at *
  generalize (e.ring c).tail = t at *
  generalize (e.ring c).head = h at *
  clear fill was regs
  split
  · next open_ =>
    rw [if_pos open_] at free
    omega
  · next closed =>
    rw [if_neg closed] at free
    exact absurd free (Nat.lt_irrefl 0)

theorem drainOvf_spec (l : List CmpRec) (c : Nat) (d : CmpRec) (e : Eng) (held : (e.ring c).ovf = l) (head : (e.ring c).head < 2 ^ 32)
    (tail : (e.ring c).tail < 2 ^ 32) :
    let f := drainOvf e c l
    let n := min l.length (e.cqFree c)
    f = { e with hat := { e.hat with rings := f.hat.rings }, out := f.out } ∧
      f.ring c = { e.ring c with ovf := l.drop n, tail := ((e.ring c).tail + n) % 2 ^ 32 } ∧ (∀ k, k ≠ c → f.ring k = e.ring k) ∧
      f.out = e.drainOut c (e.ring c).tail n l d ++ e.out := by
  induction l generalizing e with
  | nil =>
    rw [show drainOvf e c [] = e from rfl, List.length_nil, Nat.zero_min]
    dsimp only
    refine ⟨rfl, ?_, fun _ _ => rfl, by rw [Eng.drainOut_zero, List.nil_append]⟩
    rw [Nat.add_zero, Nat.mod_eq_of_lt tail, List.drop_zero]
    exact (e.ring c).same held
  | cons v l ih =>
    by_cases full : e.cmpFull c = true
    · have none_ : e.cqFree c = 0 := Nat.eq_zero_of_not_pos (fun some_ => by
        rw [(e.cqFree_pos c).mpr some_] at full
        exact Bool.noConfusion full)
      have still : drainOvf e c (v :: l) = e := by rw [drainOvf, if_pos full]
      rw [still, none_, Nat.min_zero]
      dsimp only
      refine ⟨rfl, ?_, fun _ _ => rfl, by rw [Eng.drainOut_zero, List.nil_append]⟩
      rw [Nat.add_zero, Nat.mod_eq_of_lt tail, List.drop_zero]
      exact (e.ring c).same held
    · have takes := (e.cqFree_pos c).mp (Bool.eq_false_iff.mpr full)
      rw [drainOvf, if_neg full]
      change let f := drainOvf (e.drainOne c v l) c l
        let n := min (v :: l).length (e.cqFree c)
        f = { e with hat := { e.hat with rings := f.hat.rings }, out := f.out } ∧
          f.ring c = { e.ring c with ovf := (v :: l).drop n, tail := ((e.ring c).tail + n) % 2 ^ 32 } ∧ (∀ k, k ≠ c → f.ring k = e.ring k) ∧
          f.out = e.drainOut c (e.ring c).tail n (v :: l) d ++ e.out
      have here : (e.drainOne c v l).ring c = { e.ring c with ovf := l, tail := ((e.ring c).tail + 1) % 2 ^ 32 } :=
        (e.drainOne_ring c v l c).trans (if_pos rfl)
      obtain ⟨rest, ring, beside, out⟩ := ih (e.drainOne c v l) (by rw [here]) (by rw [here]; exact head)
        (by rw [here]; exact Nat.mod_lt _ (by decide))
      have count : min (v :: l).length (e.cqFree c) = min l.length ((e.drainOne c v l).cqFree c) + 1 := by
        rw [← e.drainOne_free c v l head tail takes, List.length_cons]
        omega
      rw [count]
      generalize min l.length ((e.drainOne c v l).cqFree c) = n at *
      have one := e.drainOne_rest c v l
      have phases := Eng.drainOut_congr (e.drainOne_regs c v l) c
      have ringOne := e.drainOne_ring c v l
      have outOne := e.drainOne_out c v l
      generalize e.drainOne c v l = x at *
      generalize drainOvf x c l = f at *
      dsimp only
      refine ⟨?_, ring.trans ?_, ?_, ?_⟩
      · refine rest.trans ?_
        rw [one]
      · rw [here, List.drop_succ_cons]
        rw [Nat.mod_add_mod, Nat.add_assoc, Nat.add_comm 1 n]
      · intro k other
        have was := ringOne k
        rw [if_neg other] at was
        exact (beside k other).trans was
      · rw [out, here, outOne, phases, e.drainOut_succ tail, List.append_assoc]
        rfl

theorem Eng.Only.setHatOut {us offs : List Nat} (e : Eng) (x : Hat) (l : List Out) (hatch : 1 ∈ us) :
    e.Only us offs { e with hat := x, out := l ++ e.out } :=
  ⟨(Eng.Only.setHat (offs := offs) e x hatch).parts, fun _ _ _ _ _ _ => rfl, ⟨l, rfl⟩⟩

theorem drop_isEmpty {α : Type} (l : List α) (n : Nat) : (!(l.drop n).isEmpty) = decide (n < l.length) := by
  refine Bool.eq_iff_iff.mpr ?_
  rw [Bool.not_eq_true', List.isEmpty_eq_false_iff, ne_eq, List.drop_eq_nil_iff, decide_eq_true_eq, Nat.not_le]

/-- The blocked state ends with a drain where the ring is enabled and nothing is left that it holds over. -/
theorem drain_frees {l : List CmpRec} {n : Nat} {en : Bool} (within : n ≤ l.length) (closed : en = false → n = 0) :
    ((!l.isEmpty || !en) && !(decide (n < l.length) || !en)) = decide (l ≠ [] ∧ n = l.length) := by
  cases en with
  | false =>
    rw [closed rfl, Bool.not_false, Bool.or_true, Bool.or_true, Bool.not_true, Bool.and_false]
    refine (decide_eq_false (fun ⟨some_, none_⟩ => some_ ?_)).symm
    exact List.eq_nil_of_length_eq_zero none_.symm
  | true =>
    cases l with
    | nil => rfl
    | cons v l =>
      rw [Bool.not_true, Bool.or_false, Bool.or_false, List.isEmpty_cons, Bool.not_false, Bool.true_and, ← decide_not]
      exact decide_eq_decide.mpr ⟨fun h => ⟨List.cons_ne_nil v l, by omega⟩, fun ⟨_, h⟩ => by omega⟩

theorem overflowDrain_drains {s : State} (c : Nat) (d : CmpRec) (up : s.boot.absent = false) (head : (s.eng.ring c).head < 2 ^ 32)
    (tail : (s.eng.ring c).tail < 2 ^ 32) :
    let h := s.eng.ring c
    let n := min h.ovf.length (s.eng.cqFree c)
    ∃ t, exec (.overflowDrain c) s = .next t ∧ t.eng.ring c = { h with ovf := h.ovf.drop n, tail := (h.tail + n) % 2 ^ 32 } ∧
      t.eng.out = s.eng.drainOut c h.tail n h.ovf d ++ s.eng.out ∧ (∀ k, k ≠ c → t.eng.ring k = s.eng.ring k) ∧
      t.eng.hat = { s.eng.hat with rings := t.eng.hat.rings } ∧
      (∀ i, t.eng.inst i = { s.eng.inst i with
        quiet := (s.eng.inst i).quiet && !(decide (h.ovf ≠ [] ∧ n = h.ovf.length) && (s.eng.ringInsts c).contains i) }) ∧
      t.eng.cmp = { s.eng.cmp with insts := t.eng.cmp.insts } ∧ s.Only [1, 4] [] t := by
  intro h n
  obtain ⟨rest, ring, beside, out⟩ := drainOvf_spec h.ovf c d s.eng rfl head tail
  have ran : exec (.overflowDrain c) s = .next (s.withEng (
      let f := drainOvf s.eng c h.ovf
      if s.eng.blocked c && !f.blocked c then f.unblocked c else f)) := by
    change execOverflowDrain c s = _
    rw [execOverflowDrain, live_up up]
  have only : s.eng.Only [1] [] (drainOvf s.eng c h.ovf) := by
    rw [rest, out]
    exact .setHatOut s.eng _ _ (by decide)
  have en : (drainOvf s.eng c h.ovf).ringEn c = s.eng.ringEn c := by rw [rest]; rfl
  have insts : (drainOvf s.eng c h.ovf).ringInsts c = s.eng.ringInsts c := by rw [rest]; rfl
  have closed : s.eng.ringEn c = false → n = 0 := fun off => by
    have none_ : s.eng.cqFree c = 0 := by rw [Eng.cqFree, off, Bool.and_false, Bool.false_and, if_neg Bool.false_ne_true]
    change min _ _ = 0
    rw [none_, Nat.min_zero]
  generalize drainOvf s.eng c h.ovf = f at *
  have frees : (s.eng.blocked c && !f.blocked c) = decide (h.ovf ≠ [] ∧ n = h.ovf.length) := by
    rw [Eng.blocked, Eng.blocked, ring, en, drop_isEmpty]
    exact drain_frees (Nat.min_le_left _ _) closed
  have hat : f.hat = { s.eng.hat with rings := f.hat.rings } := congrArg Eng.hat rest
  have cmp : f.cmp = s.eng.cmp := only.parts 4 (by decide)
  have inst : ∀ i, f.inst i = s.eng.inst i := fun i => by rw [Eng.inst, cmp, Eng.inst]
  dsimp only at ran
  rw [frees] at ran
  cases ends : decide (h.ovf ≠ [] ∧ n = h.ovf.length) with
  | false =>
    rw [ends, if_neg Bool.false_ne_true] at ran
    refine ⟨_, ran, ring, out, beside, hat, fun i => ?_, ?_, .withEng (only.weaken (by decide) (by decide))⟩
    · rw [Bool.false_and, Bool.not_false, Bool.and_true]
      exact inst i
    · change f.cmp = { s.eng.cmp with insts := f.cmp.insts }
      rw [cmp]
  | true =>
    rw [ends, if_pos rfl] at ran
    obtain ⟨quiet, freed⟩ := f.unblocked_quiet c
    have hat' : (f.unblocked c).hat = f.hat := by rw [freed]
    refine ⟨_, ran, ?_, ?_, fun k other => ?_, ?_, fun i => ?_, ?_, .withEng ((only.weaken (by decide) (by decide)).trans ?_)⟩
    · exact (congrArg (fun y : Eng => y.ring c) freed).trans ring
    · exact (congrArg Eng.out freed).trans out
    · exact (congrArg (fun y : Eng => y.ring k) freed).trans (beside k other)
    · exact hat'.trans (hat.trans (congrArg (fun l => ({ s.eng.hat with rings := l } : Hat)) (congrArg Hat.rings hat'.symm)))
    · refine (quiet i).trans ?_
      rw [inst i, insts, Bool.true_and]
    · exact (congrArg Eng.cmp freed).trans (congrArg (fun x => ({ x with insts := (f.unblocked c).cmp.insts } : Cmp)) cmp)
    · rw [freed]
      exact .setCmp _ _ (by decide)

/-! ### The hello exchange -/

/-- The version named and the nonce echoed. -/
def Eng.helloNamed (e : Eng) (version : Nat) : Eng :=
  let e := e.poke F.HAT_HELLO_SELECT_VER version
  e.poke F.HAT_HELLO_ECHO_ECHO (e.fv F.HAT_HELLO_NONCE_NONCE)

/-- The result of the exchange. -/
def Eng.helloResult (e : Eng) (state reason : Nat) : Eng :=
  ((e.poke F.HAT_HELLO_RESULT_STATE state).poke F.HAT_HELLO_RESULT_REASON reason).poke F.HAT_HELLO_RESULT_VER (e.hat.version.getD 0)

theorem Eng.fv_setHat (e : Eng) (x : Hat) (f : Fld) (sel : Nat) : ({ e with hat := x } : Eng).fv f sel = e.fv f sel := rfl

theorem Eng.helloNamed_shows (e : Eng) {version : Nat} (low : version < 2 ^ 16) :
    (e.helloNamed version).fv F.HAT_HELLO_SELECT_VER = version ∧
      (e.helloNamed version).fv F.HAT_HELLO_ECHO_ECHO = e.fv F.HAT_HELLO_NONCE_NONCE ∧ (e.helloNamed version).hat = e.hat ∧
      e.Only [1] [0x1018, 0x1020, 0x1024] (e.helloNamed version) := by
  have nonce : (e.poke F.HAT_HELLO_SELECT_VER version).fv F.HAT_HELLO_NONCE_NONCE = e.fv F.HAT_HELLO_NONCE_NONCE :=
    Eng.fv_poke_ne _ _ _ _ _ _ (by decide) (by decide) (.inl (by decide))
  rw [Eng.helloNamed]
  rw [nonce]
  refine ⟨?_, ?_, rfl, (Eng.Only.poke _ _ _ _ (by decide) (by decide)).trans (.poke _ _ _ _ (by decide) (by decide))⟩
  · refine (Eng.fv_poke_ne _ _ _ _ _ _ (by decide) (by decide) (.inl (by decide))).trans ?_
    exact (Eng.fv_poke_same _ _ _ _ (by decide)).trans (Nat.mod_eq_of_lt low)
  · exact (Eng.fv_poke_same _ _ _ _ (by decide)).trans (Nat.mod_eq_of_lt (e.fv_lt F.HAT_HELLO_NONCE_NONCE 0))

theorem Eng.helloResult_shows (e : Eng) {state reason : Nat} (low : state < 4) (low' : reason < 16) :
    (∀ f : Fld, f.off ≠ 0x1020 → (e.helloResult state reason).fv f = e.fv f) ∧
      (e.helloResult state reason).fv F.HAT_HELLO_RESULT_STATE = state ∧
      (e.helloResult state reason).fv F.HAT_HELLO_RESULT_REASON = reason ∧
      (e.helloResult state reason).fv F.HAT_HELLO_RESULT_VER = e.hat.version.getD 0 % 2 ^ 16 ∧ (e.helloResult state reason).hat = e.hat ∧
      e.Only [1] [0x1018, 0x1020, 0x1024] (e.helloResult state reason) := by
  rw [Eng.helloResult]
  refine ⟨fun f other => ?_, ?_, ?_, Eng.fv_poke_same _ _ _ _ (by decide), rfl, ((Eng.Only.poke _ _ _ _ (by decide) (by decide)).trans
    (.poke _ _ _ _ (by decide) (by decide))).trans (.poke _ _ _ _ (by decide) (by decide))⟩
  · refine (Eng.fv_poke_ne _ _ _ _ _ _ (by decide) (by decide) (.inl other)).trans ?_
    refine (Eng.fv_poke_ne _ _ _ _ _ _ (by decide) (by decide) (.inl other)).trans ?_
    exact Eng.fv_poke_ne _ _ _ _ _ _ (by decide) (by decide) (.inl other)
  · refine (Eng.fv_poke_beside _ _ _ _ _ (by decide) (by decide) (by decide)).trans ?_
    refine (Eng.fv_poke_beside _ _ _ _ _ (by decide) (by decide) (by decide)).trans ?_
    exact (Eng.fv_poke_same _ _ _ _ (by decide)).trans (Nat.mod_eq_of_lt low)
  · refine (Eng.fv_poke_beside _ _ _ _ _ (by decide) (by decide) (by decide)).trans ?_
    exact (Eng.fv_poke_same _ _ _ _ (by decide)).trans (Nat.mod_eq_of_lt low')

/-- The versions of R122. -/
def helloListed (version : Nat) : Bool := [0x0200, 0x0201, 0x0202, 0x0300, 0x0301, 0x0302].contains version

section Hello
variable {s : State} {data : Word} (up : s.boot.absent = false) (go : data.getLsbD 31 = true)
include up go

theorem exec_helloGo : exec (.helloGo data) s = .next (s.withEng (s.eng.hello s.boot.stage data)) := by
  change execHelloGo data s = _
  rw [execHelloGo, live_up up]
  refine congrArg (fun y => Host.Outcome.next (s.withEng y)) (if_pos ?_)
  rw [bitOf_toNat]
  exact go

theorem helloGo_refused (busy : (s.eng.fb F.HAT_CTL_EN || (List.range 256).any s.eng.ringEn) = true) :
    exec (.helloGo data) s = .next (s.withEng (s.eng.raise { code := 0x0002, unit := 1, arg := 0x1018 })) := by
  rw [exec_helloGo up go]
  exact congrArg (fun y => Host.Outcome.next (s.withEng y)) (if_pos busy)

theorem exec_helloGo_idle (idle : (s.eng.fb F.HAT_CTL_EN || (List.range 256).any s.eng.ringEn) = false) :
    exec (.helloGo data) s = .next (s.withEng (
      let e := s.eng.helloNamed (data.toNat % 2 ^ 16)
      if s.boot.stage = 1 then e.helloResult 2 2
      else if helloListed (data.toNat % 2 ^ 16) then
        Eng.helloResult { e with hat := { e.hat with version := some (data.toNat % 2 ^ 16) } } 1 0
      else e.helloResult 2 1)) := by
  rw [exec_helloGo up go]
  refine congrArg (fun y => Host.Outcome.next (s.withEng y)) ((if_neg (Bool.eq_false_iff.mp idle)).trans ?_)
  rw [bitsOf_low]
  rfl

theorem helloGo_shows (idle : (s.eng.fb F.HAT_CTL_EN || (List.range 256).any s.eng.ringEn) = false) :
    let version := data.toNat % 2 ^ 16
    let agreed := decide (s.boot.stage ≠ 1) && helloListed version
    ∃ t, exec (.helloGo data) s = .next t ∧ t.eng.hat = { s.eng.hat with version := if agreed then some version else s.eng.hat.version } ∧
      t.eng.fv F.HAT_HELLO_SELECT_VER = version ∧ t.eng.fv F.HAT_HELLO_ECHO_ECHO = s.eng.fv F.HAT_HELLO_NONCE_NONCE ∧
      t.eng.fv F.HAT_HELLO_RESULT_STATE = (if agreed then 1 else 2) ∧
      t.eng.fv F.HAT_HELLO_RESULT_REASON = (if agreed then 0 else if s.boot.stage = 1 then 2 else 1) ∧
      t.eng.fv F.HAT_HELLO_RESULT_VER = (t.eng.hat.version.getD 0) % 2 ^ 16 ∧ s.Only [1] [0x1018, 0x1020, 0x1024] t := by
  intro version agreed
  have ran := exec_helloGo_idle up go idle
  obtain ⟨named, echo, hat, only⟩ := s.eng.helloNamed_shows (version := version) (Nat.mod_lt _ (by decide))
  have agreedEq : agreed = (decide (s.boot.stage ≠ 1) && helloListed version) := rfl
  change exec (.helloGo data) s = .next (s.withEng (
      let e := s.eng.helloNamed version
      if s.boot.stage = 1 then e.helloResult 2 2
      else if helloListed version then Eng.helloResult { e with hat := { e.hat with version := some version } } 1 0
      else e.helloResult 2 1)) at ran
  clear_value agreed version
  generalize s.eng.helloNamed version = e at *
  -- what a refusal or an agreement shows, whatever the reason
  have shown : ∀ (x : Eng) (state reason : Nat), state < 4 → reason < 16 → e.Only [1] [0x1018, 0x1020, 0x1024] x →
      (∀ f : Fld, x.fv f = e.fv f) → exec (.helloGo data) s = .next (s.withEng (x.helloResult state reason)) →
      ∃ t, exec (.helloGo data) s = .next t ∧ t.eng.hat = x.hat ∧ t.eng.fv F.HAT_HELLO_SELECT_VER = version ∧
        t.eng.fv F.HAT_HELLO_ECHO_ECHO = s.eng.fv F.HAT_HELLO_NONCE_NONCE ∧ t.eng.fv F.HAT_HELLO_RESULT_STATE = state ∧
        t.eng.fv F.HAT_HELLO_RESULT_REASON = reason ∧ t.eng.fv F.HAT_HELLO_RESULT_VER = (t.eng.hat.version.getD 0) % 2 ^ 16 ∧
        s.Only [1] [0x1018, 0x1020, 0x1024] t := by
    intro x state reason low low' changed same ran
    obtain ⟨beside, shows, why, ver, hatR, onlyR⟩ := x.helloResult_shows low low'
    exact ⟨_, ran, hatR, (beside _ (by decide)).trans ((same _).trans named), (beside _ (by decide)).trans ((same _).trans echo), shows, why,
      ver.trans (congrArg (fun h : Hat => h.version.getD 0 % 2 ^ 16) hatR.symm), .withEng ((only.trans changed).trans onlyR)⟩
  by_cases first : s.boot.stage = 1
  · have refused : agreed = false := by rw [agreedEq, first]; rfl
    rw [if_pos first] at ran
    obtain ⟨t, h, hatT, rest⟩ := shown e 2 2 (by decide) (by decide) (.refl e) (fun _ => rfl) ran
    rw [refused, first]
    exact ⟨t, h, hatT.trans hat, rest⟩
  · rw [decide_eq_true first, Bool.true_and] at agreedEq
    dsimp only at ran
    rw [if_neg first] at ran
    rw [if_neg first, agreedEq]
    cases listed : helloListed version with
    | false =>
      rw [listed, if_neg Bool.false_ne_true] at ran
      obtain ⟨t, h, hatT, rest⟩ := shown e 2 1 (by decide) (by decide) (.refl e) (fun _ => rfl) ran
      exact ⟨t, h, hatT.trans hat, rest⟩
    | true =>
      rw [listed, if_pos rfl] at ran
      obtain ⟨t, h, hatT, rest⟩ := shown { e with hat := { e.hat with version := some version } } 1 0 (by decide) (by decide) (.setHat e _ (by decide)) (fun f => e.fv_setHat _ f 0) ran
      exact ⟨t, h, hatT.trans (by rw [hat]; rfl), rest⟩

end Hello

/-- Settles O25: a record goes to its ring or to the overflow area, a drain moves as many as the ring has room for, and the hello exchange
agrees a listed version or says why not. -/
theorem completionsAndHello : Obligations.CompletionsAndHello := by
  unfold Obligations.CompletionsAndHello
  intro v c0 data s up
  refine ⟨s.eng.complete_rest v, fun k other => s.eng.complete_ring_beside v other, fun room none_ => ?_, fun holds => ?_, fun head tail => ?_,
    fun stay => ?_, fun go busy => helloGo_refused up go busy, fun go idle => ?_⟩
  · rw [s.eng.complete_takes v room none_, Eng.cmpWrite_eq]
    exact ⟨(Eng.ring_setRing _ _ _ _).trans (if_pos rfl), rfl, rfl, rfl⟩
  · rw [s.eng.complete_holds v holds]
    exact ⟨(Eng.ring_setRing _ _ _ _).trans (if_pos rfl), rfl, rfl, rfl⟩
  · have free : (if (s.eng.fb F.HAT_CTL_EN && s.eng.ringEn c0 && decide (s.eng.ringKind c0 = 1)) = true then
        min (s.eng.ring c0).ovf.length (s.eng.ringDepth c0 - s.eng.ringFill c0) else 0) = min (s.eng.ring c0).ovf.length (s.eng.cqFree c0) := by
      rw [Eng.cqFree]
      split
      · rfl
      · exact (Nat.min_zero _).symm
    obtain ⟨t, ran, ring, out, beside⟩ := overflowDrain_drains c0 v up head tail
    dsimp only
    rw [free]
    exact ⟨t, ran, ring, out, beside⟩
  · change live s (fun e => if bitOf data.toNat 31 then e.hello s.boot.stage data else e) = _
    rw [live_up up, bitOf_toNat, stay]
    rfl
  · exact helloGo_shows up go idle

end Sys2Proof.Machine
end

section
/-!
TAKEs that wait, hints that expire and entries that move (O28).
-/
namespace Sys2Proof.Machine

section Parts
variable {us offs : List Nat}

theorem Eng.Only.setBin (e : Eng) (x : Bin) (bins : 11 ∈ us) : e.Only us offs { e with bin := x } :=
  .of_parts rfl rfl (fun u out => by unfold Eng.partSame; split <;> simp_all)

theorem Eng.Only.binTrace (e : Eng) (kind : Nat) (core : Option Nat) (wait : Nat) (b : BinEnt) (head : 0xB06C ∈ offs) :
    e.Only us offs (e.binTrace kind core wait b) :=
  .ite (fun _ => (Eng.Only.emit e _).trans (.poke _ _ _ _ (by decide) head)) (fun _ => .refl e)

theorem Eng.Only.binHints (e : Eng) (bins : 11 ∈ us) (head : 0xB06C ∈ offs) : e.Only us offs e.binHints :=
  Eng.Only.trans (.foldl _ _ (fun x b _ => .binTrace x 6 none 0 b head) e) (.setBin _ _ bins)

end Parts

/-! ### Waiting TAKEs -/

section Takes
variable {s : State} {core : Nat} {w : TakeW} (up : s.boot.absent = false) (settled : s.Settled)
  (waits : s.eng.bin.waiting.find? (fun x => decide (x.core = core)) = some w)
include up settled waits

theorem holdBeat_beats (on : s.eng.binOn = true) :
    ∃ t, exec (.holdBeat core) s = .next t ∧
      t.eng.now = max s.eng.now (if w.lastBeat = w.since then w.since + 200 else w.lastBeat + 4000) ∧
      t.eng.bin = { s.eng.bin with
        waiting := s.eng.bin.waiting.map (fun x => if x.core = core then { x with lastBeat := t.eng.now } else x) } ∧
      t.eng.out = .coreAnswer core 3 none :: s.eng.out ∧ s.Only [0, 11, 12, 17] [] t := by
  generalize due : (if w.lastBeat = w.since then w.since + 200 else w.lastBeat + 4000) = T
  have ran : exec (.holdBeat core) s = .next (s.withEng
      (let a := s.eng.advance T
       Eng.coreAnswer { a with bin := { a.bin with
        waiting := a.bin.waiting.map (fun x => if x.core = core then { x with lastBeat := a.now } else x) } } core 3 none)) := by
    change timed s (atHoldBeat core) = _
    rw [timed_settled s _ settled, atHoldBeat, live_up up, waits, ← due]
    refine congrArg (fun y => Host.Outcome.next (s.withEng y)) (if_neg ?_)
    rw [on]
    decide
  have passed : s.eng.Only [0, 12, 17] [] (s.eng.advance T) := .advance _ _ (by decide) (by decide) (by decide)
  have now : (s.eng.advance T).now = max s.eng.now T := Eng.advance_now _ _
  have bin : (s.eng.advance T).bin = s.eng.bin := passed.parts 11 (by decide)
  have out : (s.eng.advance T).out = s.eng.out := Eng.advance_out _ _
  generalize s.eng.advance T = a at *
  refine ⟨_, ran, now, ?_, ?_, .withEng ((passed.weaken (by decide) (by decide)).trans ((Eng.Only.setBin a _ (by decide)).trans (.emit _ _)))⟩
  · change ({ a.bin with waiting := a.bin.waiting.map (fun x => if x.core = core then { x with lastBeat := a.now } else x) } : Bin) = _
    rw [bin]
    rfl
  · exact congrArg (Out.coreAnswer core 3 none :: ·) out

theorem takeTimeout_answers (on : s.eng.binOn = true) (some_ : s.eng.av F.BIN_TAKE_WAIT_WAIT ≠ 0) :
    ∃ t, exec (.takeTimeout core) s = .next t ∧ t.eng.now = max s.eng.now (w.since + s.eng.av F.BIN_TAKE_WAIT_WAIT) ∧
      t.eng.bin = { s.eng.bin with waiting := s.eng.bin.waiting.filter (fun x => decide (x.core ≠ core)) } ∧
      .coreAnswer core 1 none ∈ t.eng.out ∧ s.Only [0, 11, 12, 17] [0xB06C] t := by
  have ran : exec (.takeTimeout core) s = .next (s.withEng
      (let a := s.eng.advance (w.since + s.eng.av F.BIN_TAKE_WAIT_WAIT)
       Eng.coreAnswer (Eng.binTrace { a with bin := { a.bin with waiting := a.bin.waiting.filter (fun x => decide (x.core ≠ core)) } }
        7 (some core) 0 BinEnt.zero) core 1 none)) := by
    change timed s (atTakeTimeout core) = _
    rw [timed_settled s _ settled, atTakeTimeout, live_up up, waits]
    refine congrArg (fun y => Host.Outcome.next (s.withEng y)) (if_neg ?_)
    rw [on]
    exact fun h => h.elim some_ Bool.noConfusion
  generalize w.since + s.eng.av F.BIN_TAKE_WAIT_WAIT = T at *
  have passed : s.eng.Only [0, 12, 17] [] (s.eng.advance T) := .advance _ _ (by decide) (by decide) (by decide)
  have now : (s.eng.advance T).now = max s.eng.now T := Eng.advance_now _ _
  have bin : (s.eng.advance T).bin = s.eng.bin := passed.parts 11 (by decide)
  generalize s.eng.advance T = a at *
  dsimp only at ran
  rw [bin] at ran
  have only : a.Only [11] [] { a with bin := { s.eng.bin with waiting := s.eng.bin.waiting.filter (fun x => decide (x.core ≠ core)) } } :=
    .setBin a _ (by decide)
  have rest : ({ a with bin := { s.eng.bin with waiting := s.eng.bin.waiting.filter (fun x => decide (x.core ≠ core)) } } : Eng).bin =
    { s.eng.bin with waiting := s.eng.bin.waiting.filter (fun x => decide (x.core ≠ core)) } := rfl
  generalize ({ a with bin := { s.eng.bin with waiting := s.eng.bin.waiting.filter (fun x => decide (x.core ≠ core)) } } : Eng) = b at *
  have traced : b.Only [] [0xB06C] (b.binTrace 7 (some core) 0 BinEnt.zero) := .binTrace b _ _ _ _ (by decide)
  exact ⟨_, ran, ((traced.parts 0 (by decide)).trans (only.parts 0 (by decide))).trans now, (traced.parts 11 (by decide)).trans rest,
    List.mem_cons_self, .withEng (((passed.weaken (by decide) (by decide)).trans (only.weaken (by decide) (by decide))).trans
      ((traced.weaken (by decide) (by decide)).trans (.emit _ _)))⟩

theorem noDispatcher_answers (en : s.eng.fb F.BIN_CTL_EN = true) (stopped : s.eng.binOn = false) :
    ∃ t, exec (.noDispatcher core) s = .next t ∧ t.eng.now = max s.eng.now (w.lastBeat + 10000) ∧
      t.eng.bin = { s.eng.bin with waiting := s.eng.bin.waiting.filter (fun x => decide (x.core ≠ core)) } ∧
      t.eng.out = .coreAnswer core 2 none :: s.eng.out ∧ s.Only [0, 11, 12, 17] [] t := by
  have ran : exec (.noDispatcher core) s = .next (s.withEng
      (let a := s.eng.advance (w.lastBeat + 10000)
       Eng.coreAnswer { a with bin := { a.bin with waiting := a.bin.waiting.filter (fun x => decide (x.core ≠ core)) } } core 2 none)) := by
    change timed s (atNoDispatcher core) = _
    rw [timed_settled s _ settled, atNoDispatcher, up, if_neg Bool.false_ne_true, live_up up, waits]
    refine congrArg (fun y => Host.Outcome.next (s.withEng y)) (if_pos ?_)
    rw [en, stopped]
    rfl
  generalize w.lastBeat + 10000 = T at *
  have passed : s.eng.Only [0, 12, 17] [] (s.eng.advance T) := .advance _ _ (by decide) (by decide) (by decide)
  have now : (s.eng.advance T).now = max s.eng.now T := Eng.advance_now _ _
  have bin : (s.eng.advance T).bin = s.eng.bin := passed.parts 11 (by decide)
  have out : (s.eng.advance T).out = s.eng.out := Eng.advance_out _ _
  generalize s.eng.advance T = a at *
  refine ⟨_, ran, now, ?_, congrArg (Out.coreAnswer core 2 none :: ·) out,
    .withEng ((passed.weaken (by decide) (by decide)).trans ((Eng.Only.setBin a _ (by decide)).trans (.emit _ _)))⟩
  change ({ a.bin with waiting := a.bin.waiting.filter (fun x => decide (x.core ≠ core)) } : Bin) = _
  rw [bin]

end Takes

/-! ### The core's port -/

section Port
variable {s : State} {core : Nat}

theorem take_absent (absent : s.boot.absent = true) (low : core < 128) :
    exec (.take core) s = .next { s with boot := { s.boot with
      takes := s.boot.takes.filter (fun x => decide (x.core ≠ core)) ++ [{ core, since := s.boot.cmc, lastBeat := s.boot.cmc }] } } := by
  change execTake core s = _
  rw [execTake, if_pos absent, if_neg (Nat.not_le.mpr low)]
  rfl

theorem noDispatcher_absent {w : TakeW} (absent : s.boot.absent = true)
    (waits : s.boot.takes.find? (fun x => decide (x.core = core)) = some w) :
    exec (.noDispatcher core) s = .next { s with
      boot := { s.boot with
        cmc := max s.boot.cmc (w.lastBeat + 10000), takes := s.boot.takes.filter (fun x => decide (x.core ≠ core)) }
      eng := { s.eng with out := .coreAnswer core 2 none :: s.eng.out } } := by
  have here : w.core = core := by
    have found := List.find?_some waits
    exact of_decide_eq_true found
  have ran : atNoDispatcher core s = .next (s.portGivesUp w) := by rw [atNoDispatcher, if_pos absent, waits]
  change timed s (atNoDispatcher core) = _
  rw [timed, ran]
  refine (if_neg ?_).trans ?_
  · rw [absent, Bool.not_true, Bool.and_false]
    exact Bool.false_ne_true
  rw [State.portGivesUp, here]
  rfl

theorem take_disabled (up : s.boot.absent = false) (off : s.eng.fb F.BIN_CTL_EN = false) (low : core < 128) :
    exec (.take core) s = .next (s.withEng { s.eng with out := .coreAnswer core 2 none :: s.eng.out }) := by
  change execTake core s = _
  rw [execTake, if_neg (by rw [up]; decide), live_up up, if_neg (Nat.not_le.mpr low), if_pos (by rw [off]; rfl)]
  rfl

end Port

/-! ### Entries -/

theorem Eng.binHints_bin (e : Eng) : e.binHints.bin = { e.bin with
    entries := e.bin.entries.map (fun b => if b.affV && !b.released && e.hintOver b then { b with released := true } else b) } := by
  have traced : e.Only [] [0xB06C] ((e.bin.entries.filter (fun b => b.affV && !b.released && e.hintOver b)).foldl
      (fun e b => e.binTrace 6 none 0 b) e) := .foldl _ _ (fun x b _ => .binTrace x 6 none 0 b (by decide)) e
  have bin := traced.parts 11 (by decide)
  change ({ ((e.bin.entries.filter (fun b => b.affV && !b.released && e.hintOver b)).foldl (fun e b => e.binTrace 6 none 0 b) e).bin with
    entries := _ } : Bin) = _
  rw [show ((e.bin.entries.filter (fun b => b.affV && !b.released && e.hintOver b)).foldl (fun e b => e.binTrace 6 none 0 b) e).bin = e.bin from bin]

section Entries
variable {s : State} {b : BinEnt} (up : s.boot.absent = false) (on : s.eng.binOn = true) (entries : s.eng.bin.entries = [b])
include up on entries

theorem affRelease_releases (hint : b.affV = true) (bound : b.released = false) (young : s.eng.now - b.enq < 2 ^ 24)
    (past : b.enq ≤ s.eng.now) (left : s.eng.now - b.enq ≤ s.eng.av F.BIN_AFF_WAIT_WAIT) (settled : s.Settled) :
    ∃ t, exec .affRelease s = .next t ∧ t.eng.now = b.enq + s.eng.av F.BIN_AFF_WAIT_WAIT ∧
      t.eng.bin = { s.eng.bin with entries := [{ b with released := true }] } ∧ s.Only [0, 11, 12, 17] [0xB06C] t := by
  have age : s.eng.binAge b = s.eng.now - b.enq := by
    rw [Eng.binAge, show two32 = 2 ^ 32 from rfl]
    omega
  have ran : exec .affRelease s = .next (s.withEng (s.eng.advance (b.enq + s.eng.av F.BIN_AFF_WAIT_WAIT)).binHints) := by
    change timed s atAffRelease = _
    rw [timed_settled s _ settled, atAffRelease, live_up up, entries]
    have alone : [b].filter (fun b => b.affV && !b.released) = [b] := by rw [List.filter_cons, hint, bound]; rfl
    rw [alone]
    refine congrArg (fun y => Host.Outcome.next (s.withEng y)) ((if_pos on).trans ?_)
    rw [age]
    congr 2
    omega
  have small : s.eng.av F.BIN_AFF_WAIT_WAIT < 2 ^ 24 := Nat.mod_lt _ (by decide)
  have passed : s.eng.Only [0, 12, 17] [] (s.eng.advance (b.enq + s.eng.av F.BIN_AFF_WAIT_WAIT)) := .advance _ _ (by decide) (by decide) (by decide)
  have now : (s.eng.advance (b.enq + s.eng.av F.BIN_AFF_WAIT_WAIT)).now = b.enq + s.eng.av F.BIN_AFF_WAIT_WAIT := by
    rw [Eng.advance_now]
    omega
  have bin : (s.eng.advance (b.enq + s.eng.av F.BIN_AFF_WAIT_WAIT)).bin = s.eng.bin := passed.parts 11 (by decide)
  have wait : (s.eng.advance (b.enq + s.eng.av F.BIN_AFF_WAIT_WAIT)).av F.BIN_AFF_WAIT_WAIT = s.eng.av F.BIN_AFF_WAIT_WAIT := Eng.advance_av _ _ _ _
  generalize s.eng.advance (b.enq + s.eng.av F.BIN_AFF_WAIT_WAIT) = a at *
  have ended : a.hintOver b = true := by
    rw [Eng.hintOver, Eng.binAge, wait, now, show two32 = 2 ^ 32 from rfl]
    refine decide_eq_true ?_
    omega
  have hints : a.Only [11] [0xB06C] a.binHints := .binHints a (by decide) (by decide)
  refine ⟨_, ran, (hints.parts 0 (by decide)).trans now, ?_, .withEng ((passed.weaken (by decide) (by decide)).trans (hints.weaken (by decide) (by decide)))⟩
  have listed : a.bin.entries = [b] := by rw [bin]; exact entries
  refine a.binHints_bin.trans ?_
  rw [listed, List.map_cons, List.map_nil, ended, hint, bound, bin]
  rfl

theorem refill_moves {k : Nat} (stored : b.bank = none) (room : s.eng.av F.BIN_REFILL_LOW ≤ s.eng.bankPlaces) (free : s.eng.bankFree = some k) :
    ∃ t, exec .refill s = .next t ∧ t.eng.bin = { s.eng.bin with entries := [{ b with bank := some k }] } ∧ s.Only [11] [0xB06C, 0xB08C] t := by
  have one : s.eng.refillOne = some (((s.eng.setBins [{ b with bank := some k }]).bump F.BIN_REFILLS_COUNT).binTrace 2 none 0 b) := by
    rw [Eng.refillOne, if_neg (Nat.not_lt.mpr room), entries, free]
    have found : [b].find? (fun b => b.bank.isNone) = some b := List.find?_cons_of_pos (by rw [stored]; rfl)
    rw [found]
    dsimp only
    rw [List.map_cons, List.map_nil, if_pos rfl]
  have ran : exec .refill s = .next (s.withEng (((s.eng.setBins [{ b with bank := some k }]).bump F.BIN_REFILLS_COUNT).binTrace 2 none 0 b)) := by
    change execRefill s = _
    rw [execRefill, live_up up, entries]
    refine congrArg (fun y => Host.Outcome.next (s.withEng y)) ((if_pos on).trans ?_)
    change binRefill s.eng 1 = _
    rw [binRefill, one]
    rfl
  have bump : (s.eng.setBins [{ b with bank := some k }]).Only [] [0xB06C, 0xB08C] ((s.eng.setBins [{ b with bank := some k }]).bump F.BIN_REFILLS_COUNT) :=
    .bump _ _ _ _ (by decide) (by decide)
  have traced : ((s.eng.setBins [{ b with bank := some k }]).bump F.BIN_REFILLS_COUNT).Only [] [0xB06C, 0xB08C]
      (((s.eng.setBins [{ b with bank := some k }]).bump F.BIN_REFILLS_COUNT).binTrace 2 none 0 b) := .binTrace _ _ _ _ _ (by decide)
  exact ⟨_, ran, ((traced.parts 11 (by decide)).trans (bump.parts 11 (by decide))).trans rfl,
    .withEng ((Eng.Only.setBin s.eng _ (by decide)).trans ((bump.trans traced).weaken (by decide) (by decide)))⟩

end Entries

/-- Settles O28: a TAKE that waits is answered when its time comes, a hint that has expired is released, and an entry in Store moves to a bank. -/
theorem takesWaitAndEntriesMove : Obligations.TakesWaitAndEntriesMove := by
  unfold Obligations.TakesWaitAndEntriesMove
  intro core k w b s
  refine ⟨fun up settled waits => ⟨fun on => holdBeat_beats up settled waits on, fun on some_ => takeTimeout_answers up settled waits on some_,
      fun en stopped => noDispatcher_answers up settled waits en stopped⟩, fun absent low => take_absent absent low,
    fun absent waits => noDispatcher_absent absent waits, fun up off low => take_disabled up off low,
    fun up on entries => ⟨fun hint bound _ young past left settled => affRelease_releases up on entries hint bound young past left settled,
      fun stored room free => refill_moves up on entries stored room free⟩⟩

end Sys2Proof.Machine
end

section
/-!
Entries that are pushed, taken at the end of a tick and closed (O27), and what a tick's end does not do where nothing calls for it.
-/
namespace Sys2Proof.Machine

/-! ### A tick's end with nothing to do -/

section Still
variable (e : Eng)

theorem Eng.pipesGone_none (some_ : e.pan.retired.length < 4) : e.pipesGone = e := if_pos some_

theorem Eng.lateBlocks_none (none_ : e.shv.late = []) : e.lateBlocks = e := by
  rw [Eng.lateBlocks, none_]
  change ({ e with shv := { e.shv with late := [] } } : Eng) = e
  rw [← none_]

theorem Eng.edgeInsts_none (edges : e.gat.edges = []) (idles : e.gat.idles = none) : e.edgeInsts = [] := by
  rw [Eng.edgeInsts, edges, idles]
  rfl

theorem Eng.gateFresh_none (none_ : e.gat.fresh = []) : e.gateFresh = e := by
  rw [Eng.gateFresh, none_]
  refine (ite_eq_right_iff.mpr (fun _ => ?_))
  change ({ e with gat := { e.gat with fresh := [] } } : Eng) = e
  rw [← none_]

theorem Eng.gateTick_none (again : e.gat.again = []) (fresh : e.gat.fresh = []) : e.gateTick = e := by
  have same : ({ e with gat := { e.gat with again := [] } } : Eng) = e := by rw [← again]
  rw [Eng.gateTick, again]
  refine ite_eq_left_iff.mpr (fun _ => ?_)
  dsimp only
  rw [same, List.foldl_nil, e.gateFresh_none fresh, ite_self]

theorem Eng.decideTick_none (edges : e.gat.edges = []) (idles : e.gat.idles = none) (again : e.gat.again = []) (fresh : e.gat.fresh = []) :
    e.decideTick = e := by
  rw [Eng.decideTick, e.edgeInsts_none edges idles]
  change (if e.gat.idles.isSome then e.markAgain 16 else e).gateTick = e
  rw [if_neg (by rw [idles]; decide)]
  exact e.gateTick_none again fresh

theorem Eng.checkTick_none (edges : e.gat.edges = []) (idles : e.gat.idles = none) (queued : e.gat.queued = false) : e.checkTick = e := by
  rw [Eng.checkTick, e.edgeInsts_none edges idles]
  change (let x := if e.gat.idles.isSome then e.leaveEnds (fun _ r => r.waitsGate) else e
    if x.gat.queued then x.queuedCheck else x) = e
  have plain : (if e.gat.idles.isSome then e.leaveEnds (fun _ r => r.waitsGate) else e) = e := if_neg (by rw [idles]; exact Bool.false_ne_true)
  rw [plain]
  exact if_neg (by rw [queued]; exact Bool.false_ne_true)

theorem Eng.triggerTick_none (idles : e.gat.idles = none) : e.triggerTick = e := by
  rw [Eng.triggerTick, idles]
  rfl

theorem Eng.armHeld_none (none_ : e.raf.bcasts = []) : e.armHeld = e := by
  rw [Eng.armHeld, none_]
  rfl

theorem Eng.pointTick_none (none_ : e.kpr.pointDue = false) : e.pointTick = e := if_neg (by rw [none_]; decide)

theorem Eng.admitTick_none (none_ : e.kpr.admitting = false) : e.admitTick = e := if_neg (by rw [none_]; decide)

theorem Eng.leaveSettle_none (none_ : e.kpr.deciding = false) : e.leaveSettle = e := if_neg (by rw [none_]; exact Bool.false_ne_true)

theorem Eng.retryMoves_none (none_ : e.shv.retries = []) : e.retryMoves = e := by
  rw [Eng.retryMoves, none_]
  change ({ e with shv := { e.shv with retries := [] } } : Eng) = e
  rw [← none_]

theorem Eng.moveTick_none (calls : e.shv.recallDue = false) (balances : e.shv.balances = []) (retries : e.shv.retries = []) :
    e.moveTick = e := by
  have same : ({ e with shv := { e.shv with recallDue := false, balances := [] } } : Eng) = e := by rw [← calls, ← balances]
  rw [Eng.moveTick, calls, balances]
  refine ite_eq_left_iff.mpr (fun _ => ?_)
  dsimp only
  rw [same, e.retryMoves_none retries, if_neg Bool.false_ne_true]
  rfl

theorem Eng.startTick_none (edges : e.gat.edges = []) (idles : e.gat.idles = none) (calls : e.shv.recallDue = false)
    (balances : e.shv.balances = []) (retries : e.shv.retries = []) : e.startTick = e := by
  rw [Eng.startTick, e.edgeInsts_none edges idles]
  exact e.moveTick_none calls balances retries

theorem Eng.edgesDone_none (edges : e.gat.edges = []) (idles : e.gat.idles = none) (queued : e.gat.queued = false) : e.edgesDone = e := by
  rw [Eng.edgesDone, ← edges, ← idles, ← queued]

theorem Eng.brkTick_none (none_ : e.dbg.brks = []) : e.brkTick = e := by
  rw [Eng.brkTick, none_]
  rfl

/-- What of a tick's end comes before Bins has nothing to do. -/
theorem Eng.tickHead_rested (rested : e.Rested) :
    ((((((((e.pipesGone).lateBlocks).afterResume).resolve).decideTick).checkTick).triggerTick).armHeld) = e := by
  obtain ⟨resumed, orders, bcasts, pipes, -, edges, idles, queued, again, fresh, -, -, -, -, -, late, -⟩ := rested
  rw [e.pipesGone_none pipes, e.lateBlocks_none late, e.afterResume_none resumed, e.resolve_none orders,
    e.decideTick_none edges idles again fresh, e.checkTick_none edges idles queued, e.triggerTick_none idles, e.armHeld_none bcasts]

end Still

/-- An engine in which what of a tick's end comes behind Bins has nothing to do but to look at the contexts. -/
structure Eng.Calm (e : Eng) : Prop where
  point : e.kpr.pointDue = false
  admits : e.kpr.admitting = false
  decides : e.kpr.deciding = false
  edges : e.gat.edges = []
  idles : e.gat.idles = none
  queued : e.gat.queued = false
  calls : e.shv.recallDue = false
  balances : e.shv.balances = []
  retries : e.shv.retries = []
  brks : e.dbg.brks = []

theorem Eng.Rested.calm {e : Eng} (rested : e.Rested) : e.Calm := by
  obtain ⟨-, -, -, -, -, edges, idles, queued, -, -, admits, decides, -, calls, balances, -, retries, point, brks, -⟩ := rested
  exact ⟨point, admits, decides, edges, idles, queued, calls, balances, retries, brks⟩

theorem Eng.Calm.congr {e e' : Eng} (calm : e.Calm) (kpr : e'.kpr = e.kpr) (gat : e'.gat = e.gat) (shv : e'.shv = e.shv)
    (brks : e'.dbg.brks = e.dbg.brks) : e'.Calm :=
  ⟨by rw [kpr]; exact calm.point, by rw [kpr]; exact calm.admits, by rw [kpr]; exact calm.decides, by rw [gat]; exact calm.edges,
    by rw [gat]; exact calm.idles, by rw [gat]; exact calm.queued, by rw [shv]; exact calm.calls, by rw [shv]; exact calm.balances,
    by rw [shv]; exact calm.retries, brks.trans calm.brks⟩

/-- What of a tick's end comes behind Bins looks at the contexts alone. -/
theorem Eng.tickTail_calm {e : Eng} (calm : e.Calm) :
    (((((((e.pointTick).admitTick).leaveSettle).watchBlock).startTick).edgesDone).brkTick) = e.watchBlock := by
  rw [e.pointTick_none calm.point, e.admitTick_none calm.admits, e.leaveSettle_none calm.decides]
  rw [Eng.startTick_none e.watchBlock calm.edges calm.idles calm.calls calm.balances calm.retries,
    Eng.edgesDone_none e.watchBlock calm.edges calm.idles calm.queued, Eng.brkTick_none e.watchBlock calm.brks]

/-- A tick's end where only Bins has something to do. -/
theorem Eng.tickEnd_rested {e : Eng} (rested : e.Rested) (calm : e.binTick.Calm) : e.tickEnd = e.binTick.watchBlock := by
  rw [Eng.tickEnd]
  rw [e.tickHead_rested rested, Eng.tickTail_calm calm]

/-! ### The cycle that carries the Tally forward -/

/-- Nothing is owed to the next tick. -/
structure Eng.Clear (e : Eng) : Prop where
  pushes : e.bin.stalled = []
  orders : e.hat.orders = []
  resumed : e.dbg.resumed = none
  admits : e.kpr.admitting = false
  point : e.kpr.pointDue = false
  late : e.shv.late = []
  brks : e.dbg.brks = []
  seen : e.stw.seen = none

theorem Eng.Clear.nextStop {e : Eng} (clear : e.Clear) (t : Nat) : e.nextStop t = none := by
  have pushes : e.pushesFree = [] := by
    rw [Eng.pushesFree, clear.pushes]
    exact ite_self _
  have set : ({ e with now := e.now + 1 } : Eng).nextSet = none := by
    rw [Eng.nextSet]
    change (match leastBy (fun (o : Order) => o.stamp) (e.hat.orders.filter ({ e with now := e.now + 1 } : Eng).ordReady) with
      | none => none
      | some first => _) = none
    rw [clear.orders]
    rfl
  have owes : e.owesNext = false := by
    rw [Eng.owesNext, pushes, set, clear.resumed, clear.admits, clear.point, clear.late]
    rfl
  rw [Eng.nextStop, owes, if_neg Bool.false_ne_true, Eng.brkNext, clear.brks]
  rfl

theorem Eng.Clear.tickLeft {e : Eng} (clear : e.tickEnd.Clear) : e.tickLeft = e.tickEnd := by
  have seen := clear.seen
  rw [Eng.tickLeft]
  generalize e.tickEnd = x at *
  refine ite_eq_left_iff.mpr (fun _ => ?_)
  rw [← seen]

/-- The step on an empty queue where the Steward runs nothing and no breakpoint is armed: a cycle of the clock. -/
theorem step_idle {s : State} (up : s.boot.absent = false) (empty : s.pending = []) (run : s.eng.stw.run = none) :
    step s = .next (s.withEng (s.eng.passCycles 1)) := by
  have plain : ∀ i, s.eng.pcHits (s.eng.brk i) = false := fun i => by rw [Eng.pcHits, run]; simp
  have pc : s.eng.pcNext = none := List.find?_eq_none.mpr (fun i _ => by rw [plain i]; exact Bool.false_ne_true)
  have limit : s.eng.limitDue = false := by rw [Eng.limitDue, run]; rfl
  have issue : s.eng.issueNow = none := by
    rw [Eng.issueNow, Eng.stwIssues, run]
    rfl
  rw [step, empty]
  change idleStep s = _
  rw [idleStep, up, if_neg Bool.false_ne_true, pc, limit, issue]
  rfl

theorem Eng.cycles_forward (e : Eng) (due : accTick ≤ e.tal.acc + accGain e.raf.rate) : e.now < (e.cycles 1).now := by
  have reached : (e.cycles 1).now = max e.now (e.now + (e.tal.acc + 1 * accGain e.raf.rate) / accTick) := by
    simp only [Eng.cycles, Eng.pass_now, Eng.stall_now]
  have one : 0 < (e.tal.acc + 1 * accGain e.raf.rate) / accTick := Nat.div_pos (by rw [Nat.one_mul]; exact due) (by decide)
  omega

/-! ### Entries taken at the end of a tick -/

theorem Eng.Only.of_passes {us offs : List Nat} {e e' : Eng} (passes : e.Passes e') (tally : 0 ∈ us) (keeper : 12 ∈ us) (port : 17 ∈ us) :
    e.Only us offs e' := by
  refine ⟨fun u hu => ?_, fun o s hs _ ht hz => passes.regs o s hs (timeReg_of ht (fun c => hz c tally)), ⟨[], by rw [passes.rest]; rfl⟩⟩
  have a : u ≠ 0 := fun x => hu (x ▸ tally)
  have b : u ≠ 12 := fun x => hu (x ▸ keeper)
  have c : u ≠ 17 := fun x => hu (x ▸ port)
  unfold Eng.partSame
  rw [passes.rest]
  split <;> simp_all

theorem Eng.binOpen_none (e : Eng) (none_ : e.bin.stalled = []) : e.binOpen = e := by
  have pushes : e.pushesFree = [] := by
    rw [Eng.pushesFree, none_]
    exact ite_self _
  rw [Eng.binOpen, pushes]
  rfl

theorem Eng.binHints_none (e : Eng) (none_ : ∀ b ∈ e.bin.entries, b.affV = false) : e.binHints = e := by
  have filtered : e.bin.entries.filter (fun b => b.affV && !b.released && e.hintOver b) = [] := List.filter_eq_nil_iff.mpr (fun b hb hit => by
    rw [none_ b hb] at hit
    exact Bool.noConfusion hit)
  have same : e.bin.entries.map (fun b => if b.affV && !b.released && e.hintOver b then { b with released := true } else b) = e.bin.entries :=
    (List.map_congr_left (fun b hb => by rw [none_ b hb]; rfl)).trans (List.map_id _)
  rw [Eng.binHints]
  dsimp only
  rw [filtered, same]
  rfl

/-- What Bins gives at the end of a tick in which one TAKE waits. -/
def Eng.binGives (e : Eng) (w : TakeW) : Eng :=
  match e.bin.entries.find? (e.mayTake w.core) with
  | some b => e.giveEntry w.core b
  | none => e

/-- The mark that Bins has served in a tick. -/
def Eng.binServed (e : Eng) : Eng := { e with bin := { e.bin with servedAt := some e.now, fullLevels := e.levelsFull } }

theorem binServe_one (e : Eng) (w : TakeW) : binServe e [w] = e.binGives w := by
  rw [binServe, Eng.binGives]
  generalize e.bin.entries.find? (e.mayTake w.core) = found
  cases found <;> (dsimp only; rw [binServe])

theorem Eng.binTick_gives {e : Eng} {w : TakeW} (on : e.binOn = true) (stalled : e.bin.stalled = []) (closes : e.bin.closes = [])
    (fresh : e.bin.servedAt ≠ some e.now) (waits : e.bin.waiting = [w]) (plain : ∀ b ∈ e.bin.entries, b.affV = false) :
    e.binTick = (e.binGives w).binServed := by
  have same : ({ e with bin := { e.bin with closes := [] } } : Eng) = e := by rw [← closes]
  rw [Eng.binTick, if_pos (by rw [on, decide_eq_true fresh]; rfl), e.binOpen_none stalled]
  dsimp only
  rw [closes, List.foldl_nil, same, Eng.binRun, if_pos on, e.binHints_none plain]
  dsimp only
  rw [waits, binServe_one]
  rfl

/-- The entry leaves the lists and is held by the core. -/
def Eng.entryHeld (e : Eng) (core : Nat) (b : BinEnt) : Eng := { e with bin := { e.bin with
  entries := dropFirst b e.bin.entries, held := tput e.bin.held core (b, e.now), waiting := e.bin.waiting.filter (fun w => decide (w.core ≠ core)) } }

/-- The taking is counted. -/
def Eng.entryCounted (e : Eng) (core : Nat) (b : BinEnt) : Eng :=
  ((e.entryHeld core b).bump F.BIN_TAKES_COUNT).count 0x1013 1 (some b.pid) (some b.inst)

theorem Eng.giveEntry_eq (e : Eng) (core : Nat) (b : BinEnt) : e.giveEntry core b =
    (((e.entryCounted core b).binTrace 3 (some core) ((e.entryCounted core b).binAge b) b).coreAnswer core 0 (some b)).binReport b.inst b.epoch := rfl

theorem Eng.giveEntry_after (e : Eng) (core : Nat) (b : BinEnt) :
    (e.entryHeld core b).Only [17] [0xB06C, 0xB084] (e.giveEntry core b) ∧ .coreAnswer core 0 (some b) ∈ (e.giveEntry core b).out ∧
      .array (.binEntries b.inst b.epoch ((e.giveEntry core b).binCount b.inst b.epoch)) ∈ (e.giveEntry core b).out := by
  have counted : (e.entryHeld core b).Only [17] [0xB06C, 0xB084] (e.entryCounted core b) :=
    (Eng.Only.bump _ _ _ _ (by decide) (by decide)).trans (.count _ _ _ _ _ (by decide))
  rw [Eng.giveEntry_eq]
  generalize e.entryCounted core b = c at *
  exact ⟨counted.trans ((Eng.Only.binTrace c _ _ _ _ (by decide)).trans ((Eng.Only.emit _ _).trans (.tell _ _))),
    List.mem_cons_of_mem _ List.mem_cons_self, List.mem_cons_self⟩

theorem Eng.binTrace_dbg (e : Eng) (kind : Nat) (core : Option Nat) (wait : Nat) (b : BinEnt) : (e.binTrace kind core wait b).dbg = e.dbg := by
  rw [Eng.binTrace]
  split <;> rfl

theorem Eng.count_dbg (e : Eng) (src amt : Nat) (p i : Option Nat) : (e.count src amt p i).dbg = { e.dbg with cnt := (e.count src amt p i).dbg.cnt } :=
  congrArg Eng.dbg (e.count_reports src amt p i).rest

theorem Eng.giveEntry_dbg (e : Eng) (core : Nat) (b : BinEnt) : (e.giveEntry core b).dbg = { e.dbg with cnt := (e.giveEntry core b).dbg.cnt } := by
  have counted : (e.entryCounted core b).dbg = { e.dbg with cnt := (e.entryCounted core b).dbg.cnt } := Eng.count_dbg _ _ _ _ _
  rw [Eng.giveEntry_eq]
  generalize e.entryCounted core b = c at *
  have last : (((c.binTrace 3 (some core) (c.binAge b) b).coreAnswer core 0 (some b)).binReport b.inst b.epoch).dbg = c.dbg :=
    c.binTrace_dbg 3 (some core) (c.binAge b) b
  rw [last]
  exact counted

theorem Eng.binGives_dbg (e : Eng) (w : TakeW) : (e.binGives w).dbg = { e.dbg with cnt := (e.binGives w).dbg.cnt } := by
  rw [Eng.binGives]
  split
  · exact e.giveEntry_dbg _ _
  · rfl

theorem Eng.binGives_spec (e : Eng) {w : TakeW} (waits : e.bin.waiting = [w]) :
    e.Only [11, 17] [0xB06C, 0xB084] (e.binGives w) ∧
      match e.bin.entries.find? (e.mayTake w.core) with
      | some x => (e.binGives w).bin = { e.bin with
            entries := dropFirst x e.bin.entries, held := tput e.bin.held w.core (x, e.now), waiting := [] } ∧
          .coreAnswer w.core 0 (some x) ∈ (e.binGives w).out ∧
          .array (.binEntries x.inst x.epoch ((e.binGives w).binCount x.inst x.epoch)) ∈ (e.binGives w).out
      | none => e.binGives w = e := by
  rw [Eng.binGives]
  split
  · next x found =>
    obtain ⟨after, answered, told⟩ := e.giveEntry_after w.core x
    refine ⟨(Eng.Only.setBin e _ (by decide)).trans (after.weaken (by decide) (by decide)), ?_, answered, told⟩
    refine (after.parts 11 (by decide)).trans ?_
    have nobody : e.bin.waiting.filter (fun v => decide (v.core ≠ w.core)) = [] := by
      rw [waits, List.filter_cons, decide_eq_false (fun h => h rfl)]
      rfl
    rw [Eng.entryHeld, nobody]
  · exact ⟨.refl e, rfl⟩

theorem Eng.levelsFull_congr {e e' : Eng} (entries : e'.bin.entries = e.bin.entries)
    (depth : e'.fv F.BIN_SPILL_DEPTH_LOG2_DEPTH = e.fv F.BIN_SPILL_DEPTH_LOG2_DEPTH) : e'.levelsFull = e.levelsFull := by
  unfold Eng.levelsFull Eng.spillDepth Eng.spilled
  rw [entries, depth]

theorem Eng.Only.watchBlock {us offs : List Nat} (e : Eng) (keeper : 12 ∈ us) : e.Only us offs e.watchBlock := .setKpr e _ keeper

/-- The cycle that carries the Tally forward, behind a tick's end that owes nothing. -/
theorem step_cycle {s : State} (up : s.boot.absent = false) (empty : s.pending = []) (run : s.eng.stw.run = none)
    (due : accTick ≤ s.eng.tal.acc + accGain s.eng.raf.rate) (clear : s.eng.tickEnd.Clear) (same : s.eng.tickEnd.now = s.eng.now) :
    ∃ t, step s = .next t ∧ t.boot = s.boot ∧ t.pending = s.pending ∧ (∃ tal, ({ s.eng.tickEnd with tal } : Eng).Passes t.eng) ∧
      t.eng.now * accTick + t.eng.tal.acc = s.eng.now * accTick + s.eng.tal.acc + accGain s.eng.raf.rate := by
  obtain ⟨-, sum, -⟩ := s.eng.cycles_spec 1
  have forward := s.eng.cycles_forward due
  have left := clear.tickLeft
  have ran := step_idle up empty run
  rw [s.eng.passCycles_settled 1 (fun t => by rw [left]; exact clear.nextStop t) forward (by rw [left]; exact same), left] at ran
  have passes : ({ s.eng.tickEnd with tal := { s.eng.tickEnd.tal with acc := (s.eng.cycles 1).tal.acc } } : Eng).Passes
      ((({ s.eng.tickEnd with tal := { s.eng.tickEnd.tal with acc := (s.eng.cycles 1).tal.acc } } : Eng).stall 1).pass (s.eng.cycles 1).now) :=
    (Eng.stall_passes _ _).trans (Eng.pass_passes _ _)
  have reached : ((({ s.eng.tickEnd with tal := { s.eng.tickEnd.tal with acc := (s.eng.cycles 1).tal.acc } } : Eng).stall 1).pass (s.eng.cycles 1).now).now =
      (s.eng.cycles 1).now := by
    rw [Eng.pass_now, Eng.stall_now]
    change max s.eng.tickEnd.now _ = _
    rw [same]
    exact Nat.max_eq_right (Nat.le_of_lt forward)
  generalize Eng.pass _ _ = r at ran passes reached
  have acc : r.tal.acc = (s.eng.cycles 1).tal.acc := by rw [passes.tal_eq]
  refine ⟨_, ran, rfl, rfl, ⟨_, passes⟩, ?_⟩
  rw [Nat.one_mul] at sum
  rw [← sum, ← reached, ← acc]
  rfl

/-- The end of the tick gives a TAKE that waits alone its entry, where there is one. -/
theorem step_serves {s : State} {w : TakeW} (up : s.boot.absent = false) (on : s.eng.binOn = true) (stalled : s.eng.bin.stalled = [])
    (empty : s.pending = []) (rested : s.eng.Rested) (closes : s.eng.bin.closes = []) (fresh : s.eng.bin.servedAt ≠ some s.eng.now)
    (due : accTick ≤ s.eng.tal.acc + accGain s.eng.raf.rate) (waits : s.eng.bin.waiting = [w]) (plain : ∀ b ∈ s.eng.bin.entries, b.affV = false) :
    ∃ t, step s = .next t ∧ s.Only [14, 0, 11, 12, 17] [0xB06C, 0xB080, 0xB084] t ∧
      t.eng.now * accTick + t.eng.tal.acc = s.eng.now * accTick + s.eng.tal.acc + accGain s.eng.raf.rate ∧
      match s.eng.bin.entries.find? (s.eng.mayTake w.core) with
      | some x => t.eng.bin = { s.eng.bin with
          entries := dropFirst x s.eng.bin.entries, held := tput s.eng.bin.held w.core (x, s.eng.now), waiting := []
          servedAt := some s.eng.now, fullLevels := t.eng.levelsFull } ∧
          .coreAnswer w.core 0 (some x) ∈ t.eng.out ∧ .array (.binEntries x.inst x.epoch (t.eng.binCount x.inst x.epoch)) ∈ t.eng.out
      | none => t.eng.bin = { s.eng.bin with servedAt := some s.eng.now, fullLevels := t.eng.levelsFull } ∧ t.eng.out = s.eng.out := by
  obtain ⟨gave, given⟩ := s.eng.binGives_spec waits
  have tick := Eng.binTick_gives on stalled closes fresh waits plain
  have calm := rested.calm
  have dbg := s.eng.binGives_dbg w
  have stay : (s.eng.binGives w).bin.stalled = [] := by
    revert given
    split
    · intro given
      rw [given.1]
      exact stalled
    · intro same
      rw [same]
      exact stalled
  have brks : (s.eng.binGives w).binServed.dbg.brks = s.eng.dbg.brks := by
    have same := congrArg Dbg.brks dbg
    exact same
  have calm' : s.eng.binTick.Calm := by
    rw [tick]
    exact calm.congr (gave.parts 12 (by decide)) (gave.parts 3 (by decide)) (gave.parts 6 (by decide)) brks
  have ended := Eng.tickEnd_rested rested calm'
  obtain ⟨resumed, orders, -, -, run, -, -, -, -, -, -, -, -, -, -, late, -, -, -, seen⟩ := rested
  rw [tick] at ended
  have kpr : (s.eng.binGives w).kpr = s.eng.kpr := gave.parts 12 (by decide)
  have stays : (s.eng.binGives w).dbg.resumed = s.eng.dbg.resumed := by
    have same := congrArg Dbg.resumed dbg
    exact same
  have clear : (s.eng.binGives w).binServed.watchBlock.Clear :=
    ⟨stay, (congrArg Hat.orders (gave.parts 1 (by decide))).trans orders, stays.trans resumed,
      (congrArg Kpr.admitting kpr).trans calm.admits, (congrArg Kpr.pointDue kpr).trans calm.point,
      (congrArg Shv.late (gave.parts 6 (by decide))).trans late, brks.trans calm.brks, (congrArg Stw.seen (gave.parts 5 (by decide))).trans seen⟩
  rw [← ended] at clear
  have now : (s.eng.binGives w).now = s.eng.now := gave.parts 0 (by decide)
  obtain ⟨t, ran, boot, pending, ⟨tal, passes⟩, sum⟩ := step_cycle up empty run due clear (by rw [ended]; exact now)
  rw [ended] at passes
  have out : t.eng.out = (s.eng.binGives w).out := passes.out_eq
  have bin : t.eng.bin = (s.eng.binGives w).binServed.bin := passes.bin_eq
  have depth : t.eng.fv F.BIN_SPILL_DEPTH_LOG2_DEPTH = (s.eng.binGives w).fv F.BIN_SPILL_DEPTH_LOG2_DEPTH := by
    rw [Eng.fv, passes.regs _ _ (by decide) (by decide)]
    rfl
  have levels : t.eng.levelsFull = (s.eng.binGives w).levelsFull := Eng.levelsFull_congr (by rw [bin]; rfl) depth
  have served : (s.eng.binGives w).binServed.bin = { (s.eng.binGives w).bin with
    servedAt := some s.eng.now, fullLevels := t.eng.levelsFull } := by rw [levels, ← now]; rfl
  have only : s.eng.Only [14, 0, 11, 12, 17] [0xB06C, 0xB080, 0xB084] t.eng :=
    (((gave.weaken (by decide) (by decide)).trans (.setBin _ _ (by decide))).trans (.setKpr _ _ (by decide))).trans
      ((Eng.Only.setTal _ tal (by decide)).trans (.of_passes passes (by decide) (by decide) (by decide)))
  refine ⟨t, ran, ⟨boot, pending, only⟩, sum, ?_⟩
  rw [bin, served, out]
  revert given
  split
  · intro ⟨gone, answered, told⟩
    refine ⟨by rw [gone], answered, ?_⟩
    have count : t.eng.binCount = (s.eng.binGives w).binCount := by
      funext i epoch
      rw [Eng.binCount, bin]
      rfl
    rw [count]
    exact told
  · intro same
    exact ⟨by rw [same], by rw [same]⟩

/-! ### Pushes, TAKEs and DONE -/

/-- The entry of a push, numbered and placed. -/
def Eng.pushNumbered (e : Eng) (b : BinEnt) (k : Nat) : BinEnt :=
  { b with pid := (e.inst b.inst).owner, seq := tgetD e.bin.seqs b.level 0, enq := e.now % two32, bank := some k }

/-- The entry of a push goes to the end of its level. -/
def Eng.pushEntered (e : Eng) (b : BinEnt) (k : Nat) : Eng :=
  { e.works 11 with bin := { e.bin with
    entries := binInsert (e.pushNumbered b k) e.bin.entries, seqs := tsetD e.bin.seqs b.level ((tgetD e.bin.seqs b.level 0 + 1) % two32) 0 } }

theorem Eng.pushAccept_banked (e : Eng) (b : BinEnt) (k : Nat) : e.pushAccept b (some k) =
    ((((e.pushEntered b k).bump F.BIN_PUSHES_COUNT).count 0x1012 1 (some (e.pushNumbered b k).pid) (some b.inst)).binTrace 0 none 0
      (e.pushNumbered b k)).binReport b.inst b.epoch := rfl

theorem Eng.pushIn_banked (e : Eng) {entry : BitVec 256} {k : Nat} (stalled : e.bin.stalled = []) (ok : e.pushOk entry = true)
    (none_ : e.spilled (pushOf entry).level = 0) (free : e.bankFree = some k) : e.pushIn entry = e.pushAccept (pushOf entry) (some k) := by
  rw [Eng.pushIn]
  dsimp only
  rw [none_, if_pos rfl, free, stalled, List.any_nil, Option.isNone_some, Bool.false_and, Bool.false_or, if_neg Bool.false_ne_true, ok]
  exact if_neg Bool.false_ne_true

section Messages
variable {s : State} (up : s.boot.absent = false) (on : s.eng.binOn = true)
include up on

theorem binPush_enters {entry : BitVec 256} {k : Nat} (stalled : s.eng.bin.stalled = []) (ok : s.eng.pushOk entry = true)
    (none_ : s.eng.spilled (pushOf entry).level = 0) (free : s.eng.bankFree = some k) :
    let p := pushOf entry
    let seq := tgetD s.eng.bin.seqs p.level 0
    let b : BinEnt := { p with pid := (s.eng.inst p.inst).owner, seq, enq := s.eng.now % 2 ^ 32, bank := some k }
    ∃ t, exec (.binPush entry) s = .next t ∧
      t.eng.bin = { s.eng.bin with
        entries := binInsert b s.eng.bin.entries, seqs := tsetD s.eng.bin.seqs p.level ((seq + 1) % 2 ^ 32) 0 } ∧
      .array (.binEntries p.inst p.epoch (t.eng.binCount p.inst p.epoch)) ∈ t.eng.out ∧ t.eng.now = s.eng.now ∧
      s.Only [0, 11, 12, 17] [0xB06C, 0xB080, 0xB084] t := by
  rw [show (2 : Nat) ^ 32 = two32 from rfl]
  intro p seq b
  have entered : s.eng.Only [11, 17] [] (s.eng.pushEntered p k) := (Eng.Only.setDbg s.eng _ (by decide)).trans (.setBin _ _ (by decide))
  have ran : exec (.binPush entry) s = .next (s.withEng (((((s.eng.pushEntered p k).bump F.BIN_PUSHES_COUNT).count 0x1012 1
      (some (s.eng.pushNumbered p k).pid) (some p.inst)).binTrace 0 none 0 (s.eng.pushNumbered p k)).binReport p.inst p.epoch)) := by
    change execBinPush entry s = _
    rw [execBinPush, liveOr_up up]
    refine congrArg (fun y => Host.Outcome.next (s.withEng y)) ((if_pos on).trans ?_)
    rw [s.eng.pushIn_banked stalled ok none_ free, Eng.pushAccept_banked]
  have bin : (s.eng.pushEntered p k).bin = { s.eng.bin with
    entries := binInsert b s.eng.bin.entries, seqs := tsetD s.eng.bin.seqs p.level ((seq + 1) % two32) 0 } := rfl
  generalize s.eng.pushNumbered p k = n at *
  generalize s.eng.pushEntered p k = x at *
  have counted : x.Only [17] [0xB06C, 0xB080] (((x.bump F.BIN_PUSHES_COUNT).count 0x1012 1 (some n.pid) (some p.inst)).binTrace 0 none 0 n) :=
    ((Eng.Only.bump _ _ _ _ (by decide) (by decide)).trans (.count _ _ _ _ _ (by decide))).trans (.binTrace _ _ _ _ _ (by decide))
  generalize ((x.bump F.BIN_PUSHES_COUNT).count 0x1012 1 (some n.pid) (some p.inst)).binTrace 0 none 0 n = y at *
  have changed : s.eng.Only [0, 11, 12, 17] [0xB06C, 0xB080, 0xB084] y :=
    (entered.weaken (by decide) (by decide)).trans (counted.weaken (by decide) (by decide))
  exact ⟨_, ran, (counted.parts 11 (by decide)).trans bin, List.mem_cons_self, (counted.parts 0 (by decide)).trans (entered.parts 0 (by decide)),
    .withEng (changed.trans (.tell _ _))⟩

omit up in
theorem closeHeld_none {core : Nat} (none_ : tget s.eng.bin.held core = none) : s.eng.closeHeld core = s.eng := by
  rw [Eng.closeHeld, if_pos on, Eng.binClose, none_]

theorem take_waits {core : Nat} (low : core < 128) (none_ : tget s.eng.bin.held core = none) (alone : s.eng.bin.waiting = []) :
    ∃ t, exec (.take core) s = .next t ∧ t.eng.out = s.eng.out ∧
      t.eng.bin = { s.eng.bin with waiting := [{ core, since := s.eng.now, lastBeat := s.eng.now }] } ∧ s.Only [11] [] t := by
  have en : s.eng.fb F.BIN_CTL_EN = true := by
    rw [Eng.binOn, Eng.binServes, Bool.and_eq_true, Bool.and_eq_true] at on
    exact on.1.1
  have ran : exec (.take core) s = .next (s.withEng { s.eng with bin := { s.eng.bin with
      waiting := [{ core, since := s.eng.now, lastBeat := s.eng.now }] } }) := by
    change execTake core s = _
    rw [execTake, if_neg (by rw [up]; decide), live_up up, if_neg (Nat.not_le.mpr low), if_neg (by rw [en]; decide)]
    dsimp only
    rw [closeHeld_none on none_, alone]
    simp only [List.any_nil, Bool.false_eq_true, if_false]
    rw [alone]
    rfl
  exact ⟨_, ran, rfl, rfl, .withEng (.setBin _ _ (by decide))⟩

theorem done_closes {core : Nat} {h : BinEnt × Nat} (held : tget s.eng.bin.held core = some h) (keeper : s.eng.fb F.KPR_CTL_EN = true) :
    ∃ t, exec (.done core) s = .next t ∧ t.eng.bin = { s.eng.bin with held := tdel s.eng.bin.held core } ∧
      (t.eng.part h.1.pid).coreNs = (s.eng.part h.1.pid).coreNs + (s.eng.now - h.2) ∧
      (∀ q, q ≠ h.1.pid → t.eng.part q = s.eng.part q) ∧ s.Only [11, 12] [0xB06C, 0xB080, 0xB084] t := by
  have ran : exec (.done core) s = .next (s.withEng ((Eng.modPart { s.eng with bin := { s.eng.bin with held := tdel s.eng.bin.held core } }
      h.1.pid (fun k => { k with coreNs := k.coreNs + (s.eng.now - h.2) })).binTrace 4 (some core) (s.eng.now - h.2) h.1)) := by
    change execDone core s = _
    rw [execDone, live_up up]
    refine congrArg (fun y => Host.Outcome.next (s.withEng y)) ((if_pos on).trans ?_)
    rw [Eng.binClose, held]
    exact congrArg (fun y : Eng => y.binTrace 4 (some core) (s.eng.now - h.2) h.1) (if_pos keeper)
  have closed : s.eng.Only [11, 12] [] (Eng.modPart { s.eng with bin := { s.eng.bin with held := tdel s.eng.bin.held core } }
      h.1.pid (fun k => { k with coreNs := k.coreNs + (s.eng.now - h.2) })) := (Eng.Only.setBin _ _ (by decide)).trans (.setKpr _ _ (by decide))
  have bin : (Eng.modPart { s.eng with bin := { s.eng.bin with held := tdel s.eng.bin.held core } }
      h.1.pid (fun k => { k with coreNs := k.coreNs + (s.eng.now - h.2) })).bin = { s.eng.bin with held := tdel s.eng.bin.held core } := rfl
  have part : ∀ q, (Eng.modPart { s.eng with bin := { s.eng.bin with held := tdel s.eng.bin.held core } }
      h.1.pid (fun k => { k with coreNs := k.coreNs + (s.eng.now - h.2) })).part q =
      if q = h.1.pid then { s.eng.part h.1.pid with coreNs := (s.eng.part h.1.pid).coreNs + (s.eng.now - h.2) } else s.eng.part q :=
    fun q => tgetD_tsetD _ _ _ _ _
  generalize Eng.modPart { s.eng with bin := { s.eng.bin with held := tdel s.eng.bin.held core } }
      h.1.pid (fun k => { k with coreNs := k.coreNs + (s.eng.now - h.2) }) = x at *
  have traced : x.Only [] [0xB06C] (x.binTrace 4 (some core) (s.eng.now - h.2) h.1) := .binTrace x _ _ _ _ (by decide)
  have parts : ∀ q, (x.binTrace 4 (some core) (s.eng.now - h.2) h.1).part q = x.part q := fun q =>
    congrArg (fun k : Kpr => tgetD k.parts q {}) (traced.parts 12 (by decide))
  refine ⟨_, ran, (traced.parts 11 (by decide)).trans bin, ?_, fun q other => (parts q).trans ((part q).trans (if_neg other)),
    .withEng ((closed.weaken (by decide) (by decide)).trans (traced.weaken (by decide) (by decide)))⟩
  exact congrArg KPart.coreNs ((parts _).trans ((part _).trans (if_pos rfl)))

end Messages

/-- Settles O27: a push is numbered and placed, a TAKE waits for the tick's end and is served there, and a DONE closes what the core holds. -/
theorem entriesArePushedAndTaken : Obligations.EntriesArePushedAndTaken := by
  unfold Obligations.EntriesArePushedAndTaken
  intro entry core k w s up on stalled
  exact ⟨fun ok none_ free => binPush_enters up on stalled ok none_ free, fun low none_ alone => take_waits up on low none_ alone,
    fun empty rested closes fresh due waits plain => step_serves up on stalled empty rested closes fresh due waits plain,
    fun h held keeper => done_closes up on held keeper⟩

end Sys2Proof.Machine
end

section
/-!
Slices that end and blocked contexts that are evicted (O52).
-/
namespace Sys2Proof.Machine

theorem Eng.ctx_modCtx (e : Eng) (i : Nat) (f : Ctx → Ctx) (k : Nat) : (e.modCtx i f).ctx k = if k = i then f (e.ctx i) else e.ctx k :=
  tgetD_tsetD _ _ _ _ _

theorem Eng.Only.modCtx {us offs : List Nat} (e : Eng) (i : Nat) (f : Ctx → Ctx) (keeper : 12 ∈ us) : e.Only us offs (e.modCtx i f) := .setKpr e _ keeper

/-- One context is to be saved by drain, another one restored. -/
theorem Eng.ctx_swap (e : Eng) {i j : Nat} (other : j ≠ i) :
    ((e.wantDrain i).wantRestore j).ctx i = { e.ctx i with want := 1, area := 0 } ∧
      ((e.wantDrain i).wantRestore j).ctx j = { e.ctx j with want := 3 } ∧
      ∀ k, k ≠ i → k ≠ j → ((e.wantDrain i).wantRestore j).ctx k = e.ctx k := by
  refine ⟨?_, ?_, fun k ki kj => ?_⟩
  · exact (Eng.ctx_modCtx _ _ _ _).trans ((if_neg other.symm).trans ((Eng.ctx_modCtx _ _ _ _).trans (if_pos rfl)))
  · refine (Eng.ctx_modCtx _ _ _ _).trans ((if_pos rfl).trans ?_)
    rw [show (e.wantDrain i).ctx j = e.ctx j from (Eng.ctx_modCtx _ _ _ _).trans (if_neg other)]
  · exact (Eng.ctx_modCtx _ _ _ _).trans ((if_neg kj).trans ((Eng.ctx_modCtx _ _ _ _).trans (if_neg ki)))

theorem Eng.mem_rivals {e : Eng} {i j : Nat} (rival : j ∈ e.rivals i) : j ≠ i ∧ j < 16 := by
  rw [Eng.rivals] at rival
  split at rival
  · cases rival
  · obtain ⟨active, held⟩ := List.mem_filter.mp rival
    rw [Bool.and_eq_true, Bool.and_eq_true, Bool.and_eq_true] at held
    exact ⟨of_decide_eq_true held.1.1.1, ((Eng.mem_activeInsts e j).mp active).1⟩

/-! ### What time keeps of a register under any selection

A field of an `Inst`'s record may select a copy that no register has, whose place another register then takes: of those that the passing of
time may write and that lie behind KPR_PART_CTL, only bit 31, OVF, changes.
-/

/-- The words held from a place on keep their bits but bit 31, and a word that was not held has no other bit. -/
def Eng.LowKept (e : Eng) (b : Nat) (e' : Eng) : Prop :=
  ∀ key, b ≤ key →
    (∀ v, tget e.regs key = some v → ∃ v', tget e'.regs key = some v' ∧ ∀ i, i < 31 → v'.getLsbD i = v.getLsbD i) ∧
    (tget e.regs key = none → ∀ v', tget e'.regs key = some v' → ∀ i, i < 31 → v'.getLsbD i = false)

section Low
variable {e e' : Eng} {b : Nat}

theorem Eng.LowKept.of_same (same : ∀ key, b ≤ key → tget e'.regs key = tget e.regs key) : e.LowKept b e' := fun key high =>
  ⟨fun v here => ⟨v, (same key high).trans here, fun _ _ => rfl⟩,
    fun away v' here => by rw [same key high, away] at here; cases here⟩

theorem Eng.LowKept.of_regs (same : e'.regs = e.regs) : e.LowKept b e' := .of_same (fun _ _ => by rw [same])

theorem Eng.LowKept.trans {x y z : Eng} (xy : x.LowKept b y) (yz : y.LowKept b z) : x.LowKept b z := fun key high => by
  refine ⟨fun v here => ?_, fun away v'' after => ?_⟩
  · obtain ⟨v', here', low⟩ := (xy key high).1 v here
    obtain ⟨v'', here'', low'⟩ := (yz key high).1 v' here'
    exact ⟨v'', here'', fun i hi => (low' i hi).trans (low i hi)⟩
  · intro i hi
    cases between : tget y.regs key with
    | none => exact (yz key high).2 between v'' after i hi
    | some v' =>
      obtain ⟨u, here, low⟩ := (yz key high).1 v' between
      rw [after] at here
      rw [Option.some.inj here, low i hi]
      exact (xy key high).2 away v' between i hi

theorem Eng.lowKept_now (e : Eng) (T : Nat) : e.LowKept b { e with now := T } := .of_regs rfl

theorem Eng.LowKept.foldl {α : Type} (l : List α) (f : Eng → α → Eng) (step : ∀ (e : Eng) x, x ∈ l → e.LowKept b (f e x)) (e : Eng) :
    e.LowKept b (l.foldl f e) := by
  induction l generalizing e with
  | nil => exact .of_regs rfl
  | cons x l ih => exact (step e x List.mem_cons_self).trans (ih (fun e y hy => step e y (List.mem_cons_of_mem _ hy)) _)

theorem Eng.LowKept.ovf (e : Eng) {n : Nat} (low : n < 64) : e.LowKept b (e.poke ⟨0x10100 + 4 * n, 31, 31⟩ 1) := by
  have zero : rstWord (0x10100 + 4 * n) = 0#32 := by
    revert n
    decide +kernel
  intro key _
  by_cases same : key = regKey (0x10100 + 4 * n) 0
  · let w := setBits (tgetD e.regs key 0#32) 31 31 1
    have top : w.getLsbD 31 = true := (setBits_lsb _ 31 31 1 31 (by decide)).trans (if_pos (by decide))
    have after : tget (e.poke ⟨0x10100 + 4 * n, 31, 31⟩ 1).regs key = some w := by
      rw [Eng.poke, Eng.putReg, Eng.reg, same, tsetD, if_neg, tget_tput_same, zero, ← same]
      rw [zero, ← same]
      intro reset
      rw [show w = 0#32 from reset] at top
      exact absurd top (by decide)
    have low : ∀ i, i < 31 → w.getLsbD i = (tgetD e.regs key 0#32).getLsbD i := fun i hi =>
      (setBits_lsb _ 31 31 1 i (by omega)).trans (if_neg (by omega))
    refine ⟨fun v here => ⟨w, after, fun i hi => (low i hi).trans ?_⟩, fun away v' here i hi => ?_⟩
    · rw [tgetD, here, Option.getD_some]
    · rw [after] at here
      rw [← Option.some.inj here, low i hi, tgetD, away, Option.getD_none]
      exact BitVec.getLsbD_zero
  · have kept : tget (e.poke ⟨0x10100 + 4 * n, 31, 31⟩ 1).regs key = tget e.regs key := tget_tsetD_ne _ _ _ same
    refine ⟨fun v here => ⟨v, kept.trans here, fun _ _ => rfl⟩, fun away v' here => ?_⟩
    rw [kept, away] at here
    cases here

theorem Eng.LowKept.cntAdd (e : Eng) {n : Nat} (amt : Nat) (low : n < 64) : e.LowKept b (e.cntAdd n amt) := by
  unfold Eng.cntAdd
  dsimp only
  split
  · exact Eng.LowKept.trans (.of_regs rfl) (.ovf { e with dbg := { e.dbg with cnt := tsetD e.dbg.cnt n ((tgetD e.dbg.cnt n 0 + amt) % 2 ^ 64) 0 } } low)
  · exact .of_regs rfl

theorem Eng.LowKept.countAmt (e : Eng) (src amt : Nat) (pid inst : Option Nat) : e.LowKept b (e.countAmt src amt pid inst) := by
  unfold Eng.countAmt
  split
  · exact .of_regs rfl
  · refine .foldl _ _ (fun x n hn => ?_) e
    split
    · exact .cntAdd x amt (List.mem_range.mp hn)
    · exact .of_regs rfl

theorem Eng.LowKept.advance (e : Eng) (T : Nat) : e.LowKept (0xC014 * 65536) (e.advance T) := by
  have stall : ∀ n, e.LowKept (0xC014 * 65536) (e.stall n) := fun n => by
    unfold Eng.stall
    split
    · exact .of_same (fun key high => tget_tsetD_ne _ _ _ (by change key ≠ 0xB094 * 65536 + 0; omega))
    · exact .of_regs rfl
  refine Eng.LowKept.trans (y := e.stall ((T - e.now) * 6 / 5)) (stall _) ?_
  rw [Eng.advance]
  generalize e.stall ((T - e.now) * 6 / 5) = x
  unfold Eng.pass
  split
  · exact .of_regs rfl
  · extract_lets dt n e1 e2 e3 e4
    have slots : e1.LowKept (0xC014 * 65536) e2 := by
      refine .foldl _ _ (fun y s _ => ?_) e1
      split
      · exact .countAmt y _ _ _ _
      · exact .of_regs rfl
    have parts : e3.LowKept (0xC014 * 65536) e4 := by
      refine .foldl _ _ (fun y p _ => ?_) e3
      dsimp only
      split
      · exact .of_regs rfl
      · exact .of_regs rfl
    exact ((((Eng.LowKept.countAmt x _ _ _ _).trans slots).trans (.countAmt e2 _ _ _ _)).trans parts).trans (e4.lowKept_now T)

end Low

/-- A field of Keeper's window from KPR_PART_CTL on that resets to 0 stays as time passes, under any selection. -/
theorem Eng.advance_above (e : Eng) (T sel : Nat) {f : Fld} (zero : bitsOf (rstWord f.off).toNat f.hi f.lo = 0) (above : 0xC014 ≤ f.off)
    (low : f.hi < 31) : (e.advance T).fv f sel = e.fv f sel := by
  change bitsOf (tgetD (e.advance T).regs (regKey f.off sel) (rstWord f.off)).toNat f.hi f.lo =
    bitsOf (tgetD e.regs (regKey f.off sel) (rstWord f.off)).toNat f.hi f.lo
  have same : ∀ w w' : Word, (∀ i, i < 31 → w'.getLsbD i = w.getLsbD i) → bitsOf w'.toNat f.hi f.lo = bitsOf w.toNat f.hi f.lo := by
    intro w w' kept
    refine Nat.eq_of_testBit_eq (fun i => ?_)
    rw [bitsOf_testBit, bitsOf_testBit, BitVec.testBit_toNat, BitVec.testBit_toNat]
    by_cases within : f.lo + i ≤ f.hi
    · rw [kept (f.lo + i) (by omega)]
    · have beyond : decide (i < f.hi + 1 - f.lo) = false := decide_eq_false (by omega)
      rw [beyond, Bool.false_and, Bool.false_and]
  obtain ⟨held, fresh⟩ := Eng.LowKept.advance e T (regKey f.off sel) (by change _ ≤ f.off * 65536 + sel; omega)
  cases here : tget e.regs (regKey f.off sel) with
  | some v =>
    obtain ⟨v', after, kept⟩ := held v here
    rw [tgetD, tgetD, after, here]
    exact same v v' kept
  | none =>
    cases after : tget (e.advance T).regs (regKey f.off sel) with
    | none => rw [tgetD, tgetD, after, here]
    | some v' =>
      rw [tgetD, tgetD, after, here, Option.getD_some, Option.getD_none, zero,
        same 0#32 v' (fun i hi => (fresh here v' after i hi).trans BitVec.getLsbD_zero.symm), BitVec.toNat_zero]
      exact (congrArg (· % _) (Nat.zero_div _)).trans (Nat.zero_mod _)

theorem Eng.advance_mode (e : Eng) (T : Nat) {o : Nat} (mode : e.fv F.KPR_PART_CTL_MODE o = 1) : (e.advance T).fv F.KPR_PART_CTL_MODE o = 1 :=
  (e.advance_above T o (by decide +kernel) (by decide) (by decide)).trans mode

theorem Eng.rivals_eq (e : Eng) {i : Nat} (mode : e.fv F.KPR_PART_CTL_MODE (e.inst i).owner = 1) :
    e.rivals i = e.activeInsts.filter (fun j => decide (j ≠ i) && (e.inst j).lead && decide ((e.inst j).owner = (e.inst i).owner) && e.instIn j) :=
  if_neg (fun other => other mode)

theorem Eng.advance_rivals (e : Eng) (T : Nat) {i : Nat} (mode : e.fv F.KPR_PART_CTL_MODE (e.inst i).owner = 1) :
    (e.advance T).rivals i = e.rivals i := by
  have insts : ∀ k, (e.advance T).inst k = e.inst k := fun k => Eng.advance_inst e T k
  have inside : ∀ k, (e.advance T).instIn k = e.instIn k := fun k => by
    unfold Eng.instIn Eng.instModel Eng.model
    rw [insts, Eng.advance_shv]
  rw [Eng.rivals_eq _ (by rw [insts]; exact e.advance_mode T mode), e.rivals_eq mode, Eng.advance_activeInsts]
  refine List.filter_congr (fun j _ => ?_)
  rw [insts, insts, inside]

/-! ### Slices -/

theorem Eng.sliceNext_none (e : Eng) {i : Nat} (none_ : e.rivals i = []) : e.sliceNext i = none := by
  rw [Eng.sliceNext, none_]
  have nobody : ((List.range 16).map (fun k => (i + 1 + k) % 16)).filter (fun j => ([] : List Nat).contains j
      && decide ((e.ctx j).state = 2) && !(e.ctx j).held && !(e.ctx j).gone) = [] := List.filter_eq_nil_iff.mpr (fun j _ h => Bool.noConfusion h)
  rw [nobody]
  rfl

theorem mem_order {i j : Nat} (low : j < 16) : j ∈ (List.range 16).map (fun k => (i + 1 + k) % 16) :=
  List.mem_map.mpr ⟨(j + 15 * (i + 1)) % 16, List.mem_range.mpr (Nat.mod_lt _ (by decide)), by omega⟩

theorem find?_alone {α : Type} {l : List α} {p : α → Bool} {x : α} (mem : x ∈ l) (only : ∀ y ∈ l, y = x) (good : p x = true) :
    l.find? p = some x := by
  cases l with
  | nil => cases mem
  | cons y l =>
    rw [only y List.mem_cons_self]
    exact List.find?_cons_of_pos good

theorem Eng.sliceNext_chosen (e : Eng) {i j : Nat} (one : e.rivals i = [j]) (saved : (e.ctx j).state = 2) (free : (e.ctx j).held = false)
    (here : (e.ctx j).gone = false) (chosen : (e.ctx j).next = true) : e.sliceNext i = some j := by
  have low := (Eng.mem_rivals (e := e) (i := i) (j := j) (by rw [one]; exact List.mem_singleton_self j)).2
  have found : (((List.range 16).map (fun k => (i + 1 + k) % 16)).filter (fun j => (e.rivals i).contains j
      && decide ((e.ctx j).state = 2) && !(e.ctx j).held && !(e.ctx j).gone)).find? (fun j => (e.ctx j).next) = some j := by
    refine find?_alone (List.mem_filter.mpr ⟨mem_order low, ?_⟩) (fun x hx => ?_) chosen
    · rw [one, saved, free, here, List.contains_cons, beq_self_eq_true]
      rfl
    · have passes := (List.mem_filter.mp hx).2
      rw [one, Bool.and_eq_true, Bool.and_eq_true, Bool.and_eq_true] at passes
      exact List.mem_singleton.mp (List.contains_iff_mem.mp passes.1.1.1)
  rw [Eng.sliceNext, found]

/-- The first part of O52: the slice of a running `Inst` with a step outstanding ends. -/
theorem sliceEnd_moves {s : State} {pid i j from_ : Nat} (up : s.boot.absent = false) (settled : s.Settled) (on : s.eng.kprOn = true)
    (mode : s.eng.fv F.KPR_PART_CTL_MODE pid = 1) (en : s.eng.fb F.KPR_PART_CTL_EN pid = true) (running : s.eng.running pid = some i)
    (start : (s.eng.ctx i).sliceStart = some from_) (step : (s.eng.inst i).step.isSome = true) :
    let e := s.eng
    let c := e.ctx i
    let T := max e.now (from_ + (max 100000 (e.av F.KPR_PART_SLICE_SLICE pid) - c.sliceUsed))
    (e.rivals i = [] →
      ∃ t, exec (.sliceEnd pid) s = .next t ∧ t.eng.now = T ∧ t.eng.ctx i = { c with sliceStart := some T, sliceUsed := 0 } ∧
        (∀ k, k ≠ i → t.eng.ctx k = e.ctx k) ∧ s.Only [0, 12, 17] [] t) ∧
    (e.rivals i = [j] → (e.ctx j).state = 2 → (e.ctx j).held = false → (e.ctx j).gone = false → (e.ctx j).next = true →
      ∃ t, exec (.sliceEnd pid) s = .next t ∧ t.eng.now = T ∧ t.eng.ctx i = { c with want := 1, area := 0 } ∧
        t.eng.ctx j = { e.ctx j with want := 3 } ∧ (∀ k, k ≠ i → k ≠ j → t.eng.ctx k = e.ctx k) ∧ s.Only [0, 12, 17] [] t) := by
  intro e c T
  let a := e.advance (from_ + (e.sliceLen pid - c.sliceUsed))
  have now : a.now = T := Eng.advance_now _ _
  have ctxs : ∀ k, a.ctx k = e.ctx k := fun k => Eng.advance_ctx e _ k
  have only : e.Only [0, 12, 17] [] a := .advance _ _ (by decide) (by decide) (by decide)
  have owned : (e.inst i).owner = pid := by
    have found := List.find?_some running
    rw [Bool.and_eq_true, Bool.and_eq_true, Bool.and_eq_true] at found
    exact of_decide_eq_true found.1.1.1
  have rivals : a.rivals i = e.rivals i := e.advance_rivals _ (by rw [owned]; exact mode)
  have ran : exec (.sliceEnd pid) s = .next (s.withEng (match a.sliceNext i with
      | none => a.modCtx i (fun c => { c with sliceStart := some a.now, sliceUsed := 0 })
      | some j => (a.wantDrain i).wantRestore j)) := by
    have late : (e.inst i).step.isNone = false := Option.isNone_eq_false_iff.mpr step
    change timed s (atSliceEnd pid) = _
    rw [timed_settled s _ settled, atSliceEnd, live_up up]
    refine congrArg (fun x => Host.Outcome.next (s.withEng x)) ?_
    rw [on, decide_eq_true mode, running]
    change (match (if (!e.fb F.KPR_PART_CTL_EN pid) = true then none else Eng.sliceNext (if (!e.fb F.KPR_PART_CTL_EN pid ||
      !e.hasEligible i && (e.inst i).step.isNone) = true then e else e.advance (c.sliceStart.getD e.now + (e.sliceLen pid - c.sliceUsed))) i) with
      | none => _
      | some j => _) = _
    rw [en, late, start, Bool.and_false]
    rfl
  generalize a = x at ran now ctxs only rivals
  rw [← rivals]
  constructor
  · intro empty
    rw [x.sliceNext_none empty] at ran
    refine ⟨_, ran, now, ?_, fun k other => ?_, .withEng (only.trans (.modCtx _ _ _ (by decide)))⟩
    · exact (Eng.ctx_modCtx _ _ _ _).trans ((if_pos rfl).trans (by rw [ctxs, now]))
    · exact (Eng.ctx_modCtx _ _ _ _).trans ((if_neg other).trans (ctxs k))
  · intro one saved free here chosen
    rw [x.sliceNext_chosen one (by rw [ctxs]; exact saved) (by rw [ctxs]; exact free) (by rw [ctxs]; exact here)
      (by rw [ctxs]; exact chosen)] at ran
    have other := (Eng.mem_rivals (e := x) (i := i) (j := j) (by rw [one]; exact List.mem_singleton_self j)).1
    obtain ⟨goes, comes, rest⟩ := x.ctx_swap other
    exact ⟨_, ran, now, goes.trans (by rw [ctxs]), comes.trans (by rw [ctxs]), fun k ki kj => (rest k ki kj).trans (ctxs k),
      .withEng (only.trans ((Eng.Only.modCtx _ _ _ (by decide)).trans (.modCtx _ _ _ (by decide))))⟩

theorem leastBy_mem {α : Type} {f : α → Nat} {l : List α} {x : α} (least : leastBy f l = some x) : x ∈ l := by
  have fold : ∀ (l' : List α) (acc : Option α), (∀ y, acc = some y → y ∈ l) → (∀ y ∈ l', y ∈ l) → ∀ y, l'.foldl (fun acc x => match acc with
      | none => some x
      | some y => if f x < f y then some x else some y) acc = some y → y ∈ l := by
    intro l'
    induction l' with
    | nil => exact fun acc held _ y out => held y out
    | cons z l' ih =>
      refine fun acc held within => ih _ (fun y new => ?_) (fun y hy => within y (List.mem_cons_of_mem _ hy))
      have first := within z List.mem_cons_self
      cases acc with
      | none => exact Option.some.inj new ▸ first
      | some x =>
        dsimp only at new
        split at new
        · exact Option.some.inj new ▸ first
        · exact Option.some.inj new ▸ held x rfl
  exact fold l none (fun _ nobody => nomatch nobody) (fun _ h => h) x least

/-- The second part of O52: every resident context has been blocked for KPR_BLOCK_WINDOW, and one makes way for a runnable one. -/
theorem blockWindowExpiry_evicts {s : State} {i j from_ : Nat} (up : s.boot.absent = false) (settled : s.Settled) (on : s.eng.kprOn = true) :
    let e := s.eng
    let u := e.watchBlock
    let w := e.av F.KPR_BLOCK_WINDOW_WINDOW
    let a := u.advance (from_ + w)
    w ≠ 0 → u.kpr.blockSince = some from_ → u.takeRunnable = some j →
      ({ a with kpr := { a.kpr with blockSince := some a.now } } : Eng).evictee j = some i → (e.inst i).step = none → (e.ctx i).want = 0 →
      ∃ t, exec .blockWindowExpiry s = .next t ∧ t.eng.now = max e.now (from_ + w) ∧ t.eng.ctx i = { e.ctx i with want := 1, area := 0 } ∧
        t.eng.ctx j = { e.ctx j with want := 3 } ∧ (∀ k, k ≠ i → k ≠ j → t.eng.ctx k = e.ctx k) ∧
        t.eng.fv F.KPR_EVICTIONS_COUNT = min (e.fv F.KPR_EVICTIONS_COUNT + 1) (2 ^ 32 - 1) ∧ s.Only [0, 12, 17] [0xC1CC] t := by
  intro e u w a window since runnable evicted idle unwanted
  let b : Eng := { a with kpr := { a.kpr with blockSince := some a.now } }
  have now : b.now = max e.now (from_ + w) := Eng.advance_now _ _
  have ctxs : ∀ k, b.ctx k = e.ctx k := fun k => Eng.advance_ctx u _ k
  have inst : b.inst i = e.inst i := Eng.advance_inst u _ i
  have count : b.fv F.KPR_EVICTIONS_COUNT = e.fv F.KPR_EVICTIONS_COUNT := Eng.advance_fv u _ _ _ (by decide) (by decide)
  have only : e.Only [0, 12, 17] [] b :=
    (Eng.Only.watchBlock e (by decide)).trans ((Eng.Only.advance u _ (by decide) (by decide) (by decide)).trans (.setKpr _ _ (by decide)))
  have ran : exec .blockWindowExpiry s = .next (s.withEng (((b.wantDrain i).wantRestore j).bump F.KPR_EVICTIONS_COUNT)) := by
    change timed s atBlockWindowExpiry = _
    rw [timed_settled s _ settled, atBlockWindowExpiry, live_up up]
    refine congrArg (fun x => Host.Outcome.next (s.withEng x)) ?_
    have on' : u.kprOn = true := on
    change (match u.kprOn && decide (w ≠ 0), u.kpr.blockSince, u.takeRunnable with
      | true, some t, some r => _
      | _, _, _ => u) = _
    rw [on', decide_eq_true window, since, runnable]
    change (match b.evictee j with | some v => _ | none => _) = _
    rw [evicted]
    refine (if_neg (fun h => h ((congrArg Ctx.want (ctxs i)).trans unwanted))).trans ?_
    change Eng.bump (Eng.wantRestore (if (b.inst i).step.isSome = true then _ else _) j) _ = _
    rw [inst, idle]
    rfl
  have other : j ≠ i := fun same =>
    (Eng.mem_rivals (List.mem_filter.mp (leastBy_mem evicted)).1).1 same.symm
  generalize b = x at ran now ctxs count only
  obtain ⟨goes, comes, rest⟩ := x.ctx_swap other
  refine ⟨_, ran, now, goes.trans (by rw [ctxs]), comes.trans (by rw [ctxs]), fun k ki kj => (rest k ki kj).trans (ctxs k), ?_,
    .withEng (only.weaken (by decide) (by decide) |>.trans ((Eng.Only.modCtx _ _ _ (by decide)).trans ((Eng.Only.modCtx _ _ _ (by decide)).trans
      (.bump _ _ _ _ (by decide) (by decide)))))⟩
  exact (Eng.fv_bump_same _ _ _ _ rfl rfl).trans (congrArg (fun n => min (n + 1) (2 ^ 32 - 1)) count)

/-- Settles O52: each way a slice ends, and the eviction. -/
theorem slicesAndEvictions : Obligations.SlicesAndEvictions := by
  intro pid i j s up settled _ e c u w on
  exact ⟨fun from_ mode en running start step => sliceEnd_moves up settled on mode en running start step,
    fun from_ => blockWindowExpiry_evicts up settled on⟩

end Sys2Proof.Machine
end

section
/-!
Power leave (O53): windows, the start of a grant, and requests that have waited.
-/
namespace Sys2Proof.Machine

/-! ### What the windows keep -/

/-- A capture halts nothing. -/
theorem Eng.capture_unitHalted (e : Eng) (f : FaultRec) (u : Nat) : (e.capture f).unitHalted u = e.unitHalted u := by
  have begun : (e.counted f).unitHalted u = e.unitHalted u := congrArg (fun r : Ras => (tgetD r.caps u {}).halted) (e.counted_ras f)
  have raised : ∀ (y : Eng) (c : Cap) (g : FaultRec), c.halted = (y.cap_ f.unit).halted →
      ((y.setCap f.unit c).faultEvent g).unitHalted u = y.unitHalted u := fun y c g same => by
    refine (congrArg Cap.halted (((Eng.raise_reports _ _).cap_ u).trans (Eng.cap_setCap ..))).trans ?_
    split
    · next here => rw [here]; exact same
    · rfl
  rw [← begun, Eng.capture_eq]
  generalize e.counted f = y
  split
  · rfl
  · split
    · exact raised _ _ _ rfl
    · split
      · exact raised _ _ _ rfl
      · rfl

/-- Whether Keeper acts goes by its enable field, its unit's halt and its domain. -/
theorem Eng.kprOn_congr {e e' : Eng} (reg : e'.reg 0xC000 = e.reg 0xC000) (halted : e'.unitHalted 12 = e.unitHalted 12) (pd : e'.pd = e.pd) :
    e'.kprOn = e.kprOn := by
  unfold Eng.kprOn Eng.fb Eng.fv Eng.domOn Eng.dom
  change (decide (bitsOf (e'.reg 0xC000).toNat 0 0 = 1) && _ && _) = _
  rw [reg, halted, pd]
  rfl

theorem Eng.Only.kprOn {us offs : List Nat} {e e' : Eng} (only : e.Only us offs e') (reg : 0xC000 ∉ offs) (pd : 15 ∉ us) (ras : 16 ∉ us) :
    e'.kprOn = e.kprOn :=
  Eng.kprOn_congr (only.regs _ _ (by decide) reg (by decide) (fun stall => absurd stall (by decide)))
    (congrArg (fun r : Ras => (tgetD r.caps 12 {}).halted) (only.parts 16 ras)) (only.parts 15 pd)

/-- The tile groups of a partition stay as time passes, under any selection. -/
theorem Eng.advance_tiles (e : Eng) (T p : Nat) : (e.advance T).fv F.KPR_PART_TILES_GROUPS p = e.fv F.KPR_PART_TILES_GROUPS p :=
  e.advance_above T p (by decide +kernel) (by decide) (by decide)

/-! ### Windows -/

/-- Engine time of the window, over all partitions. -/
def Eng.winTotal (e : Eng) : Nat := ((List.range 64).map (fun p => (e.part p).winNs)).sum

/-- What a partition is charged of a draw when no grant stands: by engine time (R515). -/
def Eng.winShare (e : Eng) (d p : Nat) : Nat := if e.winTotal = 0 then 0 else d * 2500 * (e.part p).winNs / e.winTotal

theorem addEnergy_each (e0 : Eng) (g : Nat → Nat) (parts : Tab KPart) (p : Nat) :
    (∃ parts', (e0.setParts parts).addEnergy p (g p) = e0.setParts parts') ∧
      ∀ q, ((e0.setParts parts).addEnergy p (g p)).part q =
        if q = p then { (e0.setParts parts).part p with energy := ((e0.setParts parts).part p).energy + g p } else (e0.setParts parts).part q := by
  unfold Eng.addEnergy
  split
  · next zero =>
    refine ⟨⟨parts, rfl⟩, fun q => ?_⟩
    split
    · next same => rw [same, zero]; rfl
    · rfl
  · exact modPart_each e0 (fun p k => { k with energy := k.energy + g p }) parts p

/-- The shares of a draw, added to the partitions' energy. -/
def Eng.addShares (e : Eng) (d total : Nat) : Eng := partRange.foldl (fun y p => y.addEnergy p (d * 2500 * (y.part p).winNs / total)) e

theorem Eng.addShares_each (e : Eng) (d total : Nat) : ∃ parts, e.addShares d total = e.setParts parts ∧
    ∀ p, p < 64 → tgetD parts p {} = { e.part p with energy := (e.part p).energy + d * 2500 * (e.part p).winNs / total } := by
  obtain ⟨⟨parts, whole⟩, each⟩ := foldl_parts e (fun y p => y.addEnergy p (d * 2500 * (y.part p).winNs / total))
    (fun p k => { k with energy := k.energy + d * 2500 * k.winNs / total })
    (fun parts p => addEnergy_each e (fun p => d * 2500 * ((e.setParts parts).part p).winNs / total) parts p) partRange partRange_nodup
  rw [whole] at each
  exact ⟨parts, whole, fun p low => (each p).trans (if_pos (mem_partRange.mpr low))⟩

/-- A draw attributed to those that hold grants, and what is left of it to the partitions by engine time, as `Eng.deliver` does it. -/
def Eng.attributed (e : Eng) (draw a b : Nat) : Eng :=
  let total := draw * 2500
  let g := e.kpr.grants.foldl (fun (acc : Nat × Nat × Eng) l =>
    let r := acc.2.2.grantEnergy l a b
    (acc.1 + l.sum a b / 4, acc.2.1 + r.1, r.2)) (0, 0, e)
  let e := g.2.2
  let rest := total - g.1
  let ns := sumBy (fun p => (e.part p).winNs) partRange
  let given := if ns = 0 then 0 else sumBy (fun p => rest * (e.part p).winNs / ns) partRange
  let e := if ns = 0 then e else partRange.foldl (fun e p => e.addEnergy p (rest * (e.part p).winNs / ns)) e
  { e with kpr := { e.kpr with unattr := e.kpr.unattr + (total - g.2.1 - given), rho := if ns = 0 then 0 else rest * 2 ^ 32 / ns } }

/-- With no grant standing a draw is attributed by engine time, and the rest is unattributed. -/
theorem Eng.attribute_bare (e : Eng) (d a b : Nat) (bare : e.kpr.grants = []) :
    ∃ parts rho, e.attributed d a b = { e with kpr := { e.kpr with parts, rho, unattr := e.kpr.unattr + (d * 2500 - ((List.range 64).map (e.winShare d)).sum) } } ∧
      ∀ p, p < 64 → tgetD parts p {} = { e.part p with energy := (e.part p).energy + e.winShare d p } := by
  have ns : sumBy (fun p => (e.part p).winNs) partRange = e.winTotal := sumBy_eq_sum _ _
  obtain ⟨parts, whole, each⟩ := e.addShares_each d e.winTotal
  unfold Eng.attributed
  rw [bare, List.foldl_nil]
  dsimp only
  rw [Nat.sub_zero, ns, sumBy_eq_sum]
  by_cases none_ : e.winTotal = 0
  · have zero : ∀ p, e.winShare d p = 0 := fun p => if_pos none_
    have sum : ((List.range 64).map (e.winShare d)).sum = 0 :=
      List.sum_eq_zero (fun n hn => by obtain ⟨p, _, is⟩ := List.mem_map.mp hn; rw [← is, zero])
    rw [if_pos none_, if_pos none_, if_pos none_, sum]
    exact ⟨e.kpr.parts, 0, rfl, fun p _ => by rw [zero]; rfl⟩
  · have share : ∀ p, d * 2500 * (e.part p).winNs / e.winTotal = e.winShare d p := fun p =>
      (if_neg none_).symm
    have fold : partRange.foldl (fun y p => y.addEnergy p (d * 2500 * (y.part p).winNs / e.winTotal)) e = e.setParts parts := whole
    rw [if_neg none_, if_neg none_, if_neg none_, fold]
    simp only [share] at each ⊢
    exact ⟨parts, _, rfl, each⟩

theorem Eng.winShare_congr {e e' : Eng} (same : ∀ p, (e'.part p).winNs = (e.part p).winNs) (d p : Nat) : e'.winShare d p = e.winShare d p := by
  unfold Eng.winShare Eng.winTotal
  simp only [same]

/-- The draw of a window that ends becomes the baseline, less the leave that was charged in it, and a draw above the cap is counted. -/
def Eng.drawn (e : Eng) (d leave : Nat) : Eng :=
  let x := { e with kpr := { e.kpr with draw := d, base := some (d - leave), overCap := decide (e.capEff < d) } }
  if decide (e.capEff < d) then (x.bump F.KPR_POWER_OVER_COUNT).raiseE 0x0098 12 d else x

theorem Eng.deliver_eq (e : Eng) (d : Nat) : e.deliver d =
    (e.drawn d (sumBy (fun (l : Leave) => l.sum e.kpr.winStart e.now) e.kpr.grants / max 1 (e.now - e.kpr.winStart))).attributed d e.kpr.winStart e.now := rfl

theorem Eng.drawn_spec (e : Eng) (d leave : Nat) :
    (e.drawn d leave).kpr = { e.kpr with draw := d, base := some (d - leave), overCap := decide (e.capEff < d) } ∧
      (e.drawn d leave).now = e.now ∧ (e.drawn d leave).fv F.KPR_POWER_OVER_COUNT =
        (if e.capEff < d then min (e.fv F.KPR_POWER_OVER_COUNT + 1) (2 ^ 32 - 1) else e.fv F.KPR_POWER_OVER_COUNT) ∧
      e.Only [1, 12, 17] [0xC24C] (e.drawn d leave) := by
  unfold Eng.drawn
  dsimp only
  by_cases above : e.capEff < d
  · rw [if_pos above, if_pos (decide_eq_true above)]
    generalize hx : ({ e with kpr := { e.kpr with draw := d, base := some (d - leave), overCap := decide (e.capEff < d) } } : Eng) = x
    have kpr : x.kpr = { e.kpr with draw := d, base := some (d - leave), overCap := decide (e.capEff < d) } := by rw [← hx]
    have now : x.now = e.now := by rw [← hx]
    have count : x.fv F.KPR_POWER_OVER_COUNT = e.fv F.KPR_POWER_OVER_COUNT := Eng.fv_congr (by rw [← hx]) _ _
    have only : e.Only [1, 12, 17] [0xC24C] x := hx ▸ .setKpr _ _ (by decide)
    have reports := Eng.raiseE_reports (x.bump F.KPR_POWER_OVER_COUNT) 0x0098 12 d none
    refine ⟨reports.kpr_eq.trans kpr, reports.now_eq.trans now, ?_,
      only.trans ((Eng.Only.bump _ _ _ _ (by decide) (by decide)).trans (.of_reports reports (by decide) (by decide)))⟩
    rw [Eng.fv, reports.regs _ _ (by decide) (by decide)]
    exact (Eng.fv_bump_same _ _ _ _ rfl rfl).trans (by rw [count])
  · rw [if_neg above, if_neg (by rw [decide_eq_true_iff]; exact above)]
    exact ⟨rfl, rfl, Eng.fv_congr rfl _ _, .setKpr _ _ (by decide)⟩

/-- The draw of a window that ends, with no grant standing: the baseline is the draw, and it is attributed by engine time. -/
theorem Eng.deliver_bare (e : Eng) (d : Nat) (bare : e.kpr.grants = []) :
    ∃ parts rho, (e.deliver d).kpr = { e.kpr with
        draw := d, base := some d, overCap := decide (e.capEff < d), parts, rho
        unattr := e.kpr.unattr + (d * 2500 - ((List.range 64).map (e.winShare d)).sum) } ∧
      (∀ p, p < 64 → tgetD parts p {} = { e.part p with energy := (e.part p).energy + e.winShare d p }) ∧ (e.deliver d).now = e.now ∧
      (e.deliver d).fv F.KPR_POWER_OVER_COUNT =
        (if e.capEff < d then min (e.fv F.KPR_POWER_OVER_COUNT + 1) (2 ^ 32 - 1) else e.fv F.KPR_POWER_OVER_COUNT) ∧
      e.Only [1, 12, 17] [0xC24C] (e.deliver d) := by
  have delivered : e.deliver d = (e.drawn d 0).attributed d e.kpr.winStart e.now := by
    rw [Eng.deliver_eq, bare]
    exact congrArg (fun n => (e.drawn d n).attributed d e.kpr.winStart e.now) (Nat.zero_div _)
  obtain ⟨kpr, now, count, only⟩ := e.drawn_spec d 0
  rw [delivered]
  generalize e.drawn d 0 = y at kpr now count only
  have part : ∀ p, y.part p = e.part p := fun p => by rw [Eng.part, kpr]; rfl
  obtain ⟨parts, rho, whole, each⟩ := y.attribute_bare d e.kpr.winStart e.now (by rw [kpr]; exact bare)
  rw [whole]
  have share : y.winShare d = e.winShare d := funext (Eng.winShare_congr (fun p => by rw [part]) d)
  refine ⟨parts, rho, ?_, fun p low => by rw [each p low, part, share], now, (Eng.fv_congr rfl _ _).trans count, only.trans (.setKpr _ _ (by decide))⟩
  rw [kpr, share]
  rfl

theorem Eng.advance_grants (e : Eng) (T : Nat) : (e.advance T).kpr.grants = e.kpr.grants := by
  have kpr := congrArg Eng.kpr (e.advance_passes T).rest
  rw [kpr]

/-- A window ends: the engine times start again, the grants that have ended go, and the waiting requests are to be decided. -/
def Eng.windowEnd (e : Eng) (T : Nat) : Eng :=
  let y := partRange.foldl (fun e p => e.modPart p (fun k => { k with winNs := 0 })) e
  let z := { y with kpr := { y.kpr with nextWindow := T + 1, winStart := T, grants := y.kpr.grants.filter (fun (l : Leave) => l.ended.isNone) } }
  if z.kprOn then z.leaveDecide else z

theorem Eng.windowEnd_eq (e : Eng) (T : Nat) (on : e.kprOn = true) :
    ∃ parts, e.windowEnd T = { e with kpr := { e.kpr with
        parts, nextWindow := T + 1, winStart := T, deciding := true, grants := e.kpr.grants.filter (fun (l : Leave) => l.ended.isNone) } } ∧
      ∀ p, p < 64 → tgetD parts p {} = { e.part p with winNs := 0 } := by
  obtain ⟨⟨parts, whole⟩, each⟩ := foldl_parts e (fun e p => e.modPart p (fun k => { k with winNs := 0 })) (fun _ k => { k with winNs := 0 })
    (modPart_each e (fun _ k => { k with winNs := 0 })) partRange partRange_nodup
  rw [whole] at each
  refine ⟨parts, ?_, fun p low => (each p).trans (if_pos (mem_partRange.mpr low))⟩
  unfold Eng.windowEnd
  rw [whole]
  exact if_pos on

theorem exec_leaveWindowStart {s : State} (draw : Option Nat) (up : s.boot.absent = false) (settled : s.Settled) (on : s.eng.kprOn = true) :
    let T := roundUp (max s.eng.now s.eng.kpr.nextWindow) 10000
    exec (.leaveWindowStart draw) s = .next (s.withEng ((match draw with
      | some d => (s.eng.advance T).deliver (d % 8192)
      | none => (s.eng.advance T).drawMissing).windowEnd T)) := by
  intro T
  change timed s (atLeaveWindowStart draw) = _
  rw [timed_settled s _ settled, atLeaveWindowStart, live_up up]
  have on' : (s.eng.advance T).kprOn = true := (Eng.advance_kprOn _ _).trans on
  refine congrArg (fun x : Eng => Host.Outcome.next (s.withEng (x.windowEnd T))) ?_
  exact if_pos on'

/-- The first part of O53: a window's start with a draw delivered. -/
theorem leaveWindowStart_delivers {s : State} {d : Nat} (up : s.boot.absent = false) (settled : s.Settled) (on : s.eng.kprOn = true) (low : d < 8192)
    (bare : s.eng.kpr.grants = []) :
    let e := s.eng
    let T := roundUp (max e.now e.kpr.nextWindow) 10000
    ∃ t, exec (.leaveWindowStart (some d)) s = .next t ∧ t.eng.now = T ∧ t.eng.kpr.deciding = true ∧ t.eng.kpr.draw = d ∧ t.eng.kpr.base = some d ∧
      t.eng.kpr.overCap = decide (e.capEff < d) ∧ t.eng.kpr.winStart = T ∧ t.eng.kpr.nextWindow = T + 1 ∧
      (∀ p, p < 64 → (t.eng.part p).energy = (e.part p).energy + e.winShare d p ∧ (t.eng.part p).winNs = 0) ∧
      t.eng.kpr.unattr = e.kpr.unattr + (d * 2500 - ((List.range 64).map (e.winShare d)).sum) ∧
      t.eng.fv F.KPR_POWER_OVER_COUNT =
        (if e.capEff < d then min (e.fv F.KPR_POWER_OVER_COUNT + 1) (2 ^ 32 - 1) else e.fv F.KPR_POWER_OVER_COUNT) ∧
      s.Only [0, 1, 12, 17] [0xC24C] t := by
  intro e T
  have ran := exec_leaveWindowStart (some d) up settled on
  change exec (.leaveWindowStart (some d)) s = .next (s.withEng (((e.advance T).deliver (d % 8192)).windowEnd T)) at ran
  rw [Nat.mod_eq_of_lt low] at ran
  have aNow : (e.advance T).now = T := e.advance_due _ (by decide)
  have passes := e.advance_passes T
  have aPart := passes.parts
  have aOnly : e.Only [0, 12, 17] [] (e.advance T) := .advance _ _ (by decide) (by decide) (by decide)
  have aCap : (e.advance T).capEff = e.capEff := by
    unfold Eng.capEff
    rw [Eng.advance_av, Eng.advance_fv _ _ _ _ (by decide) (by decide)]
  have aCount : (e.advance T).fv F.KPR_POWER_OVER_COUNT = e.fv F.KPR_POWER_OVER_COUNT := Eng.advance_fv _ _ _ _ (by decide) (by decide)
  have aOn : (e.advance T).kprOn = true := (e.advance_kprOn T).trans on
  have aGrants : (e.advance T).kpr.grants = [] := (e.advance_grants T).trans bare
  have aUnattr : (e.advance T).kpr.unattr = e.kpr.unattr := by
    have kpr := congrArg Eng.kpr passes.rest
    rw [kpr]
  have share : (e.advance T).winShare d = e.winShare d := funext (Eng.winShare_congr (fun p => by rw [aPart p]) d)
  generalize e.advance T = a at ran aNow passes aPart aOnly aCap aCount aOn aGrants aUnattr share
  obtain ⟨parts, rho, kpr, each, now, count, only⟩ := a.deliver_bare d aGrants
  have xOn : (a.deliver d).kprOn = true := (only.kprOn (by decide) (by decide) (by decide)).trans aOn
  generalize a.deliver d = x at ran kpr now count only xOn
  obtain ⟨parts', whole, each'⟩ := x.windowEnd_eq T xOn
  rw [whole] at ran
  rw [aCap] at kpr count
  rw [share] at kpr each
  refine ⟨_, ran, now.trans aNow, rfl, congrArg Kpr.draw kpr, congrArg Kpr.base kpr, congrArg Kpr.overCap kpr, rfl, rfl, fun p low => ?_,
    (congrArg Kpr.unattr kpr).trans (by rw [← aUnattr]), (Eng.fv_congr rfl _ _).trans (count.trans (by rw [aCount])),
    .withEng ((aOnly.weaken (by decide) (by decide)).trans ((only.weaken (by decide) (by decide)).trans (.setKpr _ _ (by decide))))⟩
  have xPart : x.part p = { a.part p with energy := (a.part p).energy + e.winShare d p } := by
    rw [Eng.part, kpr]
    exact each p low
  refine ⟨(congrArg KPart.energy (each' p low)).trans ?_, congrArg KPart.winNs (each' p low)⟩
  rw [xPart, aPart p]

/-- The second part of O53: a window's start with no draw delivered. -/
theorem leaveWindowStart_missing {s : State} (up : s.boot.absent = false) (settled : s.Settled) (on : s.eng.kprOn = true) :
    let e := s.eng
    let T := roundUp (max e.now e.kpr.nextWindow) 10000
    ∃ t, exec (.leaveWindowStart none) s = .next t ∧ t.eng.now = T ∧
      t.eng.kpr = { (e.advance T).kpr with
        base := none, nextWindow := T + 1, winStart := T, grants := e.kpr.grants.filter (fun l => l.ended.isNone), deciding := true
        parts := t.eng.kpr.parts } ∧
      (∀ p, p < 64 → t.eng.part p = { (e.advance T).part p with winNs := 0 }) ∧
      ((e.cap_ 12).handling = false → (t.eng.cap_ 12).handling = true ∧
        ∃ f, (t.eng.cap_ 12).cap1 = some f ∧ f.code = 0x090 ∧ f.unit = 12 ∧ f.cls = 1 ∧ f.stamp = T) ∧
      (∀ u, u ≠ 12 → t.eng.cap_ u = e.cap_ u) ∧ s.Only [0, 1, 12, 16, 17] [0xF024] t := by
  intro e T
  have ran := exec_leaveWindowStart none up settled on
  change exec (.leaveWindowStart none) s = .next (s.withEng ((e.advance T).drawMissing.windowEnd T)) at ran
  have aNow : (e.advance T).now = T := e.advance_due _ (by decide)
  have aGrants : (e.advance T).kpr.grants = e.kpr.grants := e.advance_grants T
  have aOnly : e.Only [0, 12, 17] [] (e.advance T) := .advance _ _ (by decide) (by decide) (by decide)
  have aCap : ∀ u, (e.advance T).cap_ u = e.cap_ u := fun u => congrArg (fun r : Ras => tgetD r.caps u {}) (aOnly.parts 16 (by decide))
  have aOn : (e.advance T).kprOn = true := (e.advance_kprOn T).trans on
  generalize e.advance T = a at ran aNow aGrants aOnly aCap aOn
  let b : Eng := { a with kpr := { a.kpr with base := none } }
  let f : FaultRec := { code := 0x090, unit := 12 }
  have captured : b.Only [1, 16, 17] [0xF024] (b.capture f) :=
    b.capture_only (f := f) (show 12 < 65536 by decide) (by decide) (by decide) (by decide) (.inr (show (1 : Nat) ≠ 0 by decide)) (by decide)
  have xOn : (b.capture f).kprOn = true := (Eng.kprOn_congr (captured.regs _ _ (by decide) (by decide) (by decide) (fun stall => absurd stall (by decide)))
    (b.capture_unitHalted f 12) (captured.parts 15 (by decide))).trans aOn
  have kpr : (b.capture f).kpr = { a.kpr with base := none } := captured.parts 12 (by decide)
  have now : (b.capture f).now = T := (captured.parts 0 (by decide)).trans aNow
  have beside : ∀ u, u ≠ 12 → (b.capture f).cap_ u = e.cap_ u := fun u other => (b.capture_beside f other).trans (aCap u)
  have first : (e.cap_ 12).handling = false → ((b.capture f).cap_ 12).handling = true ∧
      ∃ r, ((b.capture f).cap_ 12).cap1 = some r ∧ r.code = 0x090 ∧ r.unit = 12 ∧ r.cls = 1 ∧ r.stamp = T := fun free => by
    have place := (b.capture_first (f := f) (.inl (show (1 : Nat) ≠ 0 by decide))
      ((congrArg Cap.handling (aCap 12)).trans free)).cap_ 12
    rw [place, show f.unit = 12 from rfl, Eng.cap_setCap, if_pos rfl]
    exact ⟨rfl, _, rfl, rfl, rfl, rfl, aNow⟩
  have drawn : a.drawMissing = b.capture f := rfl
  rw [drawn] at ran
  generalize b.capture f = x at ran captured xOn kpr now beside first
  obtain ⟨parts, whole, each⟩ := x.windowEnd_eq T xOn
  rw [whole] at ran
  refine ⟨_, ran, now, ?_, fun p low => (each p low).trans ?_, first, beside,
    .withEng ((aOnly.weaken (by decide) (by decide)).trans ((Eng.Only.setKpr _ _ (by decide)).trans
      ((captured.weaken (by decide) (by decide)).trans (.setKpr _ _ (by decide)))))⟩
  · change ({ x.kpr with
      parts, nextWindow := T + 1, winStart := T, deciding := true, grants := x.kpr.grants.filter (fun (l : Leave) => l.ended.isNone) } : Kpr) = _
    rw [kpr, ← aGrants]
    rfl
  · rw [Eng.part, kpr]
    rfl

/-! ### Grants that start -/

theorem Eng.Only.setPan {us offs : List Nat} (e : Eng) (x : Pan) (pantry : 7 ∈ us) : e.Only us offs { e with pan := x } :=
  .of_parts rfl rfl (fun u out => by unfold Eng.partSame; split <;> simp_all)

/-- The third part of O53: the start Tally of the grant that stands has come. -/
theorem leaveStart_tells {s : State} {g : Leave} (up : s.boot.absent = false) (settled : s.Settled) (one : s.eng.kpr.grants = [g])
    (fresh : g.started = false) (open_ : g.ended = none) (ahead : s.eng.now ≤ g.start) :
    let e := s.eng
    let on := fun (c : PanCmd) => if g.cls = 1 ∧ c.id = g.who then { c with leaveOk := true } else c
    ∃ t, exec .leaveStart s = .next t ∧ t.eng.now = g.start ∧ t.eng.kpr.grants = [{ g with started := true }] ∧
      .leaveTold g.cls g.who g.start ∈ t.eng.out ∧
      (g.cls = 0 → .array (.loadConfig g.who g.step (e.fv F.KPR_PART_TILES_GROUPS (e.inst g.who).owner)
        (e.instModel g.who).cfgAddr) ∈ t.eng.out) ∧
      t.eng.pan = { e.pan with demand := e.pan.demand.map on, background := e.pan.background.map on } ∧
      s.Only [0, 7, 12, 17] [] t := by
  intro e on
  have ran : exec .leaveStart s = .next (s.withEng ((e.advance g.start).leaveBegin g)) := by
    change timed s atLeaveStart = _
    rw [timed_settled s _ settled, atLeaveStart, live_up up, one]
    have first : leastBy (fun (l : Leave) => l.start) ([g].filter (fun (l : Leave) => !l.started && l.ended.isNone)) = some g := by
      rw [List.filter_cons_of_pos (by rw [fresh, open_]; rfl)]
      rfl
    rw [first]
  have now : (e.advance g.start).now = g.start := (Eng.advance_now _ _).trans (Nat.max_eq_right ahead)
  have grants := (e.advance_grants g.start).trans one
  have pan : (e.advance g.start).pan = e.pan := Eng.advance_pan _ _
  have only : e.Only [0, 12, 17] [] (e.advance g.start) := .advance _ _ (by decide) (by decide) (by decide)
  have groups := e.advance_tiles g.start (e.inst g.who).owner
  have inst : (e.advance g.start).inst g.who = e.inst g.who := Eng.advance_inst _ _ _
  have model : (e.advance g.start).instModel g.who = e.instModel g.who := by
    unfold Eng.instModel Eng.model
    rw [inst, Eng.advance_shv]
  generalize e.advance g.start = a at ran now grants pan only groups inst model
  let x : Eng := ({ a with kpr := { a.kpr with grants := [{ g with started := true }] } } : Eng).emit (.leaveTold g.cls g.who g.start)
  have told : e.Only [0, 7, 12, 17] [] x := (only.weaken (by decide) (by decide)).trans ((Eng.Only.setKpr _ _ (by decide)).trans (.emit _ _))
  have begun : a.leaveBegin g = if g.cls = 0 then x.tell (.loadConfig g.who g.step (a.fv F.KPR_PART_TILES_GROUPS (a.inst g.who).owner) (a.instModel g.who).cfgAddr)
      else if g.cls = 1 then { x with pan := { x.pan with demand := x.pan.demand.map (fun c => if c.id = g.who then { c with leaveOk := true } else c), background := x.pan.background.map (fun c => if c.id = g.who then { c with leaveOk := true } else c) } }
      else x := by
    unfold Eng.leaveBegin
    have map : [g].map (fun (l : Leave) => if l.cls = g.cls ∧ l.who = g.who ∧ l.start = g.start ∧ l.step = g.step then { l with started := true } else l) =
        [{ g with started := true }] := congrArg (fun l => [l]) (if_pos ⟨rfl, rfl, rfl, rfl⟩)
    rw [grants, map]
    rfl
  rw [inst, groups, model] at begun
  rw [begun] at ran
  have out : .leaveTold g.cls g.who g.start ∈ x.out := List.mem_cons_self
  by_cases config : g.cls = 0
  · rw [if_pos config] at ran
    have same : on = fun c => c := funext (fun c => if_neg (fun h => by rw [config] at h; exact absurd h.1 (by decide)))
    refine ⟨_, ran, now, rfl, List.mem_cons_of_mem _ out, fun _ => List.mem_cons_self, ?_, .withEng (told.trans (.tell _ _))⟩
    rw [same, List.map_id', List.map_id']
    exact pan
  · rw [if_neg config] at ran
    by_cases bulk : g.cls = 1
    · rw [if_pos bulk] at ran
      have same : on = fun c => if c.id = g.who then { c with leaveOk := true } else c := funext (fun c => by
        simp only [on, bulk, true_and])
      refine ⟨_, ran, now, rfl, out, fun zero => absurd zero config, ?_, .withEng (told.trans (.setPan _ _ (by decide)))⟩
      rw [same, ← pan]
      rfl
    · rw [if_neg bulk] at ran
      have same : on = fun c => c := funext (fun c => if_neg (fun h => bulk h.1))
      refine ⟨_, ran, now, rfl, out, fun zero => absurd zero config, ?_, .withEng told⟩
      rw [same, List.map_id', List.map_id']
      exact pan

/-! ### Requests that have waited -/

/-- The last part of O53: a request has waited KPR_LEAVE_WAIT. -/
theorem leaveWaitExpiry_ends {s : State} {g : Leave} (up : s.boot.absent = false) (settled : s.Settled) (on : s.eng.kprOn = true)
    (one : s.eng.kpr.queue = [g]) (none_ : s.eng.kpr.heldReqs = []) (made : g.unmade = false) (early : g.late = false)
    (wait : s.eng.av F.KPR_LEAVE_WAIT_WAIT ≠ 0) :
    let e := s.eng
    let W := max e.now (g.since + e.av F.KPR_LEAVE_WAIT_WAIT)
    (g.cls ≠ 2 →
      ∃ t, exec .leaveWaitExpiry s = .next t ∧ t.eng.now = W ∧ t.eng.kpr.deciding = true ∧ t.eng.kpr.queue = [{ g with late := true }] ∧
        t.eng.fv F.KPR_LEAVE_LATE_COUNT = min (e.fv F.KPR_LEAVE_LATE_COUNT + 1) (2 ^ 32 - 1) ∧ s.Only [0, 1, 12, 17] [0xC248] t) ∧
    (g.cls = 2 → g.step ≠ ((e.inst g.who).comp.getD Comp.none).num →
      ∃ t, exec .leaveWaitExpiry s = .next t ∧ t.eng.now = W ∧ t.eng.kpr.deciding = true ∧ t.eng.kpr.queue = [] ∧ t.eng.kpr.heldReqs = [] ∧
        t.eng.fv F.KPR_LEAVE_REFUSED_COUNT = min (e.fv F.KPR_LEAVE_REFUSED_COUNT + 1) (2 ^ 32 - 1) ∧
        s.Only [0, 1, 12, 17] [0xC244] t) := by
  intro e W
  let a := e.advance (g.since + e.av F.KPR_LEAVE_WAIT_WAIT)
  have ran : exec .leaveWaitExpiry s = .next (s.withEng (if g.cls = 2 then (a.leaveRefuse g).leaveDecide else a.leaveLate g)) := by
    change timed s atLeaveWaitExpiry = _
    rw [timed_settled s _ settled, atLeaveWaitExpiry, live_up up]
    refine congrArg (fun x => Host.Outcome.next (s.withEng x)) ?_
    have waits : (e.kpr.queue ++ e.kpr.heldReqs).filter (fun (x : Leave) => !x.unmade && !x.late) = [g] := by
      rw [one, none_, List.append_nil, List.filter_cons_of_pos (by rw [made, early]; rfl)]
      rfl
    change (match e.kprOn && decide (e.av F.KPR_LEAVE_WAIT_WAIT ≠ 0), (e.kpr.queue ++ e.kpr.heldReqs).filter (fun (x : Leave) => !x.unmade && !x.late) with
      | true, x :: r => _
      | _, _ => e) = _
    rw [on, decide_eq_true wait, waits]
    rfl
  have now : a.now = W := Eng.advance_now _ _
  have kpr := congrArg Eng.kpr (e.advance_passes (g.since + e.av F.KPR_LEAVE_WAIT_WAIT)).rest
  have queue : a.kpr.queue = [g] := (congrArg Kpr.queue kpr).trans one
  have held : a.kpr.heldReqs = [] := (congrArg Kpr.heldReqs kpr).trans none_
  have only : e.Only [0, 12, 17] [] a := .advance _ _ (by decide) (by decide) (by decide)
  have late : a.fv F.KPR_LEAVE_LATE_COUNT = e.fv F.KPR_LEAVE_LATE_COUNT := Eng.advance_fv _ _ _ _ (by decide) (by decide)
  have refused : a.fv F.KPR_LEAVE_REFUSED_COUNT = e.fv F.KPR_LEAVE_REFUSED_COUNT := Eng.advance_fv _ _ _ _ (by decide) (by decide)
  have inst : a.inst g.who = e.inst g.who := Eng.advance_inst _ _ _
  clear kpr
  generalize a = a at ran now queue held only late refused inst
  constructor
  · intro other
    rw [if_neg other] at ran
    have reports := Eng.raiseP_reports (a.bump F.KPR_LEAVE_LATE_COUNT) 0x0097 12 g.pid (g.cls + 2 ^ 16 * g.amt) none
    have rang : a.leaveLate g = ({ (a.bump F.KPR_LEAVE_LATE_COUNT).raiseP 0x0097 12 g.pid (g.cls + 2 ^ 16 * g.amt) with kpr := { a.kpr with
        queue := [{ g with late := true }], heldReqs := [], deciding := true } } : Eng) := by
      unfold Eng.leaveLate
      dsimp only
      have same : ((a.bump F.KPR_LEAVE_LATE_COUNT).raiseP 0x0097 12 g.pid (g.cls + 2 ^ 16 * g.amt)).kpr = a.kpr := reports.kpr_eq
      rw [same, queue, held, List.map_cons, if_pos rfl]
      rfl
    rw [rang] at ran
    have count := (reports.regs 0xC248 0 (by decide) (by decide))
    generalize (a.bump F.KPR_LEAVE_LATE_COUNT).raiseP 0x0097 12 g.pid (g.cls + 2 ^ 16 * g.amt) = x at ran reports count
    refine ⟨_, ran, reports.now_eq.trans now, rfl, rfl, ?_, .withEng ((only.weaken (by decide) (by decide)).trans
      ((Eng.Only.bump _ _ _ _ (by decide) (by decide)).trans ((Eng.Only.of_reports reports (by decide) (by decide)).trans (.setKpr _ _ (by decide)))))⟩
    change bitsOf (x.reg 0xC248 0).toNat 31 0 = _
    rw [count, ← late]
    exact Eng.fv_bump_same _ _ _ _ rfl rfl
  · intro prefill gone
    rw [if_pos prefill] at ran
    let r := ((a.bump F.KPR_LEAVE_REFUSED_COUNT).raiseP 0x0096 12 (a.inst g.who).owner (g.amt + 2 ^ 16 * (g.step % 2 ^ 48))).leaveTrace g 0x10
    have reports : (a.bump F.KPR_LEAVE_REFUSED_COUNT).Reports r := (Eng.raiseP_reports _ _ _ _ _ _).trans (Eng.trace_reports _ _)
    have same : r.kpr = a.kpr := reports.kpr_eq
    have sameInst : r.inst g.who = e.inst g.who := (congrArg (fun c : Cmp => tgetD c.insts g.who {}) reports.cmp_eq).trans inst
    have rang : a.leaveRefuse g = { r with kpr := { a.kpr with queue := [], heldReqs := [] } } := by
      change (if (({ r with kpr := { r.kpr with queue := r.kpr.queue.filter (fun (x : Leave) => decide (x ≠ g)), heldReqs := r.kpr.heldReqs.filter (fun (x : Leave) => decide (x ≠ g)) } } : Eng).comp g.who).num ≠ g.step then _ else _) = _
      have num : (({ r with kpr := { r.kpr with queue := r.kpr.queue.filter (fun (x : Leave) => decide (x ≠ g)), heldReqs := r.kpr.heldReqs.filter (fun (x : Leave) => decide (x ≠ g)) } } : Eng).comp g.who).num ≠ g.step := fun h =>
        gone (h.symm.trans (congrArg (fun x : Inst => (x.comp.getD Comp.none).num) sameInst))
      have empty : [g].filter (fun (x : Leave) => decide (x ≠ g)) = [] := by
        rw [List.filter_cons_of_neg (by rw [decide_eq_true_iff]; exact fun h => h rfl)]
        rfl
      rw [if_pos num, same, queue, held, empty]
      rfl
    rw [rang] at ran
    have count := (reports.regs 0xC244 0 (by decide) (by decide))
    generalize r = x at ran reports count
    refine ⟨_, ran, reports.now_eq.trans now, rfl, rfl, rfl, ?_, .withEng ((only.weaken (by decide) (by decide)).trans
      ((Eng.Only.bump _ _ _ _ (by decide) (by decide)).trans ((Eng.Only.of_reports reports (by decide) (by decide)).trans (.setKpr _ _ (by decide)))))⟩
    change bitsOf (x.reg 0xC244 0).toNat 31 0 = _
    rw [count, ← refused]
    exact Eng.fv_bump_same _ _ _ _ rfl rfl

/-- Settles O53: windows, starts and waits. -/
theorem powerLeaveRuns : Obligations.PowerLeaveRuns := by
  intro d g s up settled on low e T cap ns share stays on' W
  exact ⟨⟨fun bare => leaveWindowStart_delivers up settled on low bare, leaveWindowStart_missing up settled on⟩,
    fun one fresh open_ ahead => leaveStart_tells up settled one fresh open_ ahead,
    fun one none_ made early wait => leaveWaitExpiry_ends up settled on one none_ made early wait⟩

end Sys2Proof.Machine
end

section
/-!
The Tally's synchronisation over the link (O55).
-/
namespace Sys2Proof.Machine

/-! ### Lanes -/

theorem Eng.lane_setLane (e : Eng) (p k : Nat) (x : Lane) : (e.setLane p x).lane k = if k = p then x else e.lane k :=
  tgetD_tsetD _ _ _ _ _

theorem Eng.Only.setLane {us offs : List Nat} (e : Eng) (p : Nat) (x : Lane) (link : 13 ∈ us) : e.Only us offs (e.setLane p x) := .setRaf _ _ link

theorem Eng.rxCount_reports (e : Eng) (f : Frame) : e.Reports (e.rxCount f) := Eng.count_reports _ _ _ _ _

theorem Eng.laneSend_reports (e : Eng) (p : Nat) (f : Frame) : (e.emit (.laneFrame p f)).Reports (e.laneSend p f) := Eng.count_reports _ _ _ _ _

theorem Eng.laneSend_raf (e : Eng) (p : Nat) (f : Frame) : (e.laneSend p f).raf = e.raf := (e.laneSend_reports p f).raf_eq

theorem Eng.laneSend_out (e : Eng) (p : Nat) (f : Frame) : .laneFrame p f ∈ (e.laneSend p f).out ∧ ∀ o ∈ e.out, o ∈ (e.laneSend p f).out := by
  obtain ⟨l, out⟩ := (e.laneSend_reports p f).out
  rw [out]
  exact ⟨List.mem_append_right _ List.mem_cons_self, fun o old => List.mem_append_right _ (List.mem_cons_of_mem _ old)⟩

theorem Eng.Only.laneSend {us offs : List Nat} (e : Eng) (p : Nat) (f : Frame) (port : 17 ∈ us) : e.Only us offs (e.laneSend p f) :=
  (Eng.Only.emit _ _).trans (.count _ _ _ _ _ port)

/-! ### The tree -/

/-- The choice of a parent changes the Tally's state and the place in the tree alone. -/
theorem Eng.selectParent_shape (e : Eng) : ∃ tal parent depth syncOpen orphanAt locked8 nextRise,
    e.selectParent = { e with tal, raf := { e.raf with parent, depth, syncOpen, orphanAt, locked8, nextRise } } := by
  unfold Eng.selectParent
  split
  · unfold Eng.actingSet
    split
    · exact ⟨_, _, _, _, _, _, _, rfl⟩
    · exact ⟨_, _, _, _, _, _, _, rfl⟩
  · dsimp only
    split
    · exact ⟨_, _, _, _, _, _, _, rfl⟩
    · split
      · exact ⟨_, _, _, _, _, _, _, rfl⟩
      · split
        · exact ⟨_, _, _, _, _, _, _, rfl⟩
        · exact ⟨_, _, _, _, _, _, _, rfl⟩

theorem Eng.Only.selectParent {us offs : List Nat} (e : Eng) (link : 13 ∈ us) (tally : 14 ∈ us) : e.Only us offs e.selectParent := by
  obtain ⟨tal, _, _, _, _, _, _, eq⟩ := e.selectParent_shape
  rw [eq]
  exact (Eng.Only.setTal e tal tally).trans (.setRaf _ _ link)

/-- No step of a multi-chip `Inst` is to come to its edge. -/
def Eng.CalmSteps (e : Eng) : Prop := ∀ i, i < 16 → (e.inst i).active = true → (e.inst i).chips.length ≤ 1 ∨ e.stepAhead i = false

theorem Eng.CalmSteps.congr {e e' : Eng} (calm : e.CalmSteps) (insts : ∀ i, e'.inst i = e.inst i) : e'.CalmSteps := fun i low on => by
  unfold Eng.stepAhead
  rw [insts] at on ⊢
  exact calm i low on

/-- The Tally goes to FREE: no alignment is left where no step is to come to its edge. -/
theorem Eng.tallyTo_free (e : Eng) (calm : e.CalmSteps) :
    e.tallyTo 0 = { e with tal := { e.tal with state := 0, errBound := 255 }, raf := { e.raf with locked8 := 0, nextRise := e.now + 200000, parent := none, depth := 15 } } := by
  have still : ∀ (y : Eng), y.CalmSteps → y.activeInsts.foldl Eng.leaveAlign y = y := fun y quiet => by
    have all : ∀ l : List Nat, (∀ i ∈ l, i ∈ y.activeInsts) → l.foldl Eng.leaveAlign y = y := by
      intro l
      induction l with
      | nil => exact fun _ => rfl
      | cons i l ih =>
        intro within
        obtain ⟨low, on⟩ := (Eng.mem_activeInsts y i).mp (within i List.mem_cons_self)
        have stays : y.leaveAlign i = y := if_pos ((quiet i low on).imp_right (fun h => by rw [h]; rfl))
        rw [List.foldl_cons, stays]
        exact ih (fun j hj => within j (List.mem_cons_of_mem _ hj))
    exact all _ (fun _ h => h)
  exact still _ (calm.congr (fun _ => rfl))

theorem Eng.Only.tallyTo_free {us offs : List Nat} (e : Eng) (calm : e.CalmSteps) (link : 13 ∈ us) (tally : 14 ∈ us) : e.Only us offs (e.tallyTo 0) := by
  rw [e.tallyTo_free calm]
  exact (Eng.Only.setTal e { e.tal with state := 0, errBound := 255 } tally).trans (.setRaf _ _ link)

/-- The Tally goes to another state. -/
theorem Eng.tallyTo_other (e : Eng) {st : Nat} (other : st ≠ 0) :
    e.tallyTo st = { e with tal := { e.tal with state := st, errBound := errBoundOf st e.raf.depth e.tal.errBound },
                            raf := { e.raf with locked8 := 0, nextRise := e.now + 200000 } } := if_neg other

theorem Eng.isMaster_congr {e e' : Eng} {lanes : Tab Lane} (raf : e'.raf = { e.raf with lanes }) (self : e'.self = e.self) :
    e'.isMaster = e.isMaster ∧ e'.isActing = e.isActing := by
  unfold Eng.isMaster Eng.isActing Eng.acting Eng.voters Eng.masters
  rw [raf, self]
  exact ⟨rfl, rfl⟩

theorem Eng.Only.self {us offs : List Nat} {e e' : Eng} (only : e.Only us offs e') (pos : 0xD00C ∉ offs) : e'.self = e.self := by
  have reg := only.regs 0xD00C 0 (by decide) pos (by decide) (fun stall => absurd stall (by decide))
  change bitsOf (e'.reg 0xD00C 0).toNat 21 0 % 64 = bitsOf (e.reg 0xD00C 0).toNat 21 0 % 64
  rw [reg]

/-! ### SYNC_SEND -/

theorem leastBy_isSome {α : Type} (f : α → Nat) {l : List α} (some_ : l ≠ []) : ∃ x, leastBy f l = some x := by
  have fold : ∀ (l : List α) (y : α), ∃ x, l.foldl (fun acc x => match acc with
      | none => some x
      | some y => if f x < f y then some x else some y) (some y) = some x := by
    intro l
    induction l with
    | nil => exact fun y => ⟨y, rfl⟩
    | cons z l ih =>
      intro y
      rw [List.foldl_cons]
      dsimp only
      split
      · exact ih z
      · exact ih y
  cases l with
  | nil => exact absurd rfl some_
  | cons z l => exact fold l z

/-- The SYNC that goes out on a lane. -/
def Eng.syncOut (e : Eng) (cal : List Int) (l : Nat) : Eng :=
  match e.syncLane l with
  | some p => e.laneSend p { typ := 2, src := e.self, dst := linkPeer e.self l, len := 96, words := e.syncWords cal l p }
  | none => e

/-- Every link in service is sent a SYNC, on a lane of it. -/
theorem Eng.syncOut_sends (cal : List Int) (links : List Nat) (e : Eng) :
    let z := links.foldl (fun e l => e.syncOut cal l) e
    z.raf = e.raf ∧ z.now = e.now ∧ e.Only [17] [] z ∧
      ∀ l ∈ links, e.lanesOf l [3, 4] ≠ [] → ∃ p ∈ e.lanesOf l [3, 4], ∃ g, .laneFrame p g ∈ z.out ∧ g.typ = 2 ∧ g.len = 96 ∧
        g.src = e.self ∧ g.dst = linkPeer e.self l := by
  induction links generalizing e with
  | nil => exact ⟨rfl, rfl, .refl _, fun l none_ => absurd none_ List.not_mem_nil⟩
  | cons k links ih =>
    have first : (e.syncOut cal k).raf = e.raf ∧ (e.syncOut cal k).now = e.now ∧ e.Only [17] [] (e.syncOut cal k) ∧
        (e.lanesOf k [3, 4] ≠ [] → ∃ p ∈ e.lanesOf k [3, 4], ∃ g, .laneFrame p g ∈ (e.syncOut cal k).out ∧ g.typ = 2 ∧ g.len = 96 ∧
          g.src = e.self ∧ g.dst = linkPeer e.self k) := by
      unfold Eng.syncOut
      cases lane : e.syncLane k with
      | none =>
        refine ⟨rfl, rfl, .refl _, fun some_ => ?_⟩
        obtain ⟨p, is⟩ := leastBy_isSome (fun p => (e.lane p).log.getD 15) some_
        rw [Eng.syncLane, is] at lane
        cases lane
      | some p =>
        have only : e.Only [17] [] (e.laneSend p { typ := 2, src := e.self, dst := linkPeer e.self k, len := 96, words := e.syncWords cal k p }) :=
          .laneSend _ _ _ (by decide)
        exact ⟨e.laneSend_raf p _, only.parts 0 (by decide), only, fun _ => ⟨p, leastBy_mem lane, _, (e.laneSend_out p _).1, rfl, rfl, rfl, rfl⟩⟩
    obtain ⟨raf, now, only, sent⟩ := first
    obtain ⟨raf', now', only', sent'⟩ := ih (e.syncOut cal k)
    have self := only.self (by decide)
    have lanes : ∀ l, (e.syncOut cal k).lanesOf l [3, 4] = e.lanesOf l [3, 4] := fun l => by
      unfold Eng.lanesOf Eng.lane
      rw [raf]
    refine ⟨raf'.trans raf, now'.trans now, only.trans only', fun l among some_ => ?_⟩
    rcases List.mem_cons.mp among with here | later
    · subst here
      obtain ⟨p, hp, g, out, rest⟩ := sent some_
      obtain ⟨more, grown⟩ := only'.out
      exact ⟨p, hp, g, by rw [List.foldl_cons, grown]; exact List.mem_append_right _ out, rest⟩
    · obtain ⟨p, hp, g, out, typ, len, src, dst⟩ := sent' l later (by rw [lanes]; exact some_)
      rw [lanes] at hp
      rw [self] at src dst
      exact ⟨p, hp, g, out, typ, len, src, dst⟩

/-- The first part of O55: SYNC_SEND. -/
theorem syncSend_sends {s : State} (up : s.boot.absent = false) (settled : s.Settled) (on : s.eng.rafOn = true) :
    let e := s.eng
    ∃ t, exec .syncSend s = .next t ∧ t.eng.now = roundUp (max e.now e.raf.nextSync) (max 10000 (e.av F.RAF_SYNC_CFG_INTERVAL)) ∧
      t.eng.raf.nextSync = t.eng.now + 1 ∧ t.eng.raf.syncOpen = e.raf.parent.isSome ∧
      t.eng.fv F.RAF_SYNC_MISSED_COUNT = (if e.raf.syncOpen = true ∧ e.raf.parent.isSome = true
        then min (e.fv F.RAF_SYNC_MISSED_COUNT + 1) (2 ^ 32 - 1) else e.fv F.RAF_SYNC_MISSED_COUNT) ∧
      (∀ l, l < 9 → e.lanesOf l [3, 4] ≠ [] → ∃ p ∈ e.lanesOf l [3, 4], ∃ g, .laneFrame p g ∈ t.eng.out ∧ g.typ = 2 ∧ g.len = 96 ∧
        g.src = e.self ∧ g.dst = linkPeer e.self l) ∧ s.Only [0, 12, 13, 17] [0xD090] t := by
  intro e
  let T := roundUp (max e.now e.raf.nextSync) e.syncInterval
  let missed : Eng → Eng := fun y => if y.raf.syncOpen && y.raf.parent.isSome then y.bump F.RAF_SYNC_MISSED_COUNT else y
  let noted : Eng → Eng := fun y => { y with raf := { y.raf with
    nextSync := y.now + 1, syncOpen := y.raf.parent.isSome, stat := tput y.raf.stat y.self y.ownStat } }
  have ran : exec .syncSend s = .next (s.withEng (linkRange.foldl (fun e l => e.syncOut s.boot.cal l) (noted (missed (e.advance T))))) := by
    change timed s atSyncSend = _
    rw [timed_settled s _ settled, atSyncSend, live_up up]
    exact congrArg (fun x => Host.Outcome.next (s.withEng x)) (if_neg (by rw [on]; decide))
  have now : (e.advance T).now = T := e.advance_due _ (Nat.lt_of_lt_of_le (by decide) (Nat.le_max_left _ _))
  have raf : (e.advance T).raf = e.raf := Eng.advance_raf e T
  have only : e.Only [0, 12, 13, 17] [0xD090] (e.advance T) := .advance _ _ (by decide) (by decide) (by decide)
  have count : (e.advance T).fv F.RAF_SYNC_MISSED_COUNT = e.fv F.RAF_SYNC_MISSED_COUNT := Eng.advance_fv _ _ _ _ (by decide) (by decide)
  generalize e.advance T = a at ran now raf only count
  have counted : (missed a).now = a.now ∧ (missed a).raf = a.raf ∧ a.Only [13] [0xD090] (missed a) ∧ (missed a).fv F.RAF_SYNC_MISSED_COUNT =
      (if a.raf.syncOpen = true ∧ a.raf.parent.isSome = true then min (a.fv F.RAF_SYNC_MISSED_COUNT + 1) (2 ^ 32 - 1) else a.fv F.RAF_SYNC_MISSED_COUNT) := by
    by_cases open_ : a.raf.syncOpen = true ∧ a.raf.parent.isSome = true
    · have eq : missed a = a.bump F.RAF_SYNC_MISSED_COUNT := if_pos (Bool.and_eq_true_iff.mpr open_)
      rw [eq, if_pos open_]
      exact ⟨rfl, rfl, .bump _ _ _ _ (by decide) (by decide), Eng.fv_bump_same _ _ _ _ rfl rfl⟩
    · have eq : missed a = a := if_neg (fun h => open_ (Bool.and_eq_true_iff.mp h))
      rw [eq, if_neg open_]
      exact ⟨rfl, rfl, .refl _, rfl⟩
  obtain ⟨now', raf', only', count'⟩ := counted
  rw [count, raf] at count'
  rw [raf] at raf'
  rw [now] at now'
  generalize missed a = b at ran now' raf' only' count'
  have only'' : e.Only [0, 12, 13, 17] [0xD090] (noted b) :=
    only.trans ((only'.weaken (by decide) (by decide)).trans (.setRaf _ _ (by decide)))
  have nextSync : (noted b).raf.nextSync = T + 1 := congrArg (· + 1) now'
  have syncOpen : (noted b).raf.syncOpen = e.raf.parent.isSome := congrArg (fun r : Raf => r.parent.isSome) raf'
  have lanes : ∀ l, (noted b).lanesOf l [3, 4] = e.lanesOf l [3, 4] := fun l => by
    have same : b.raf.lanes = e.raf.lanes := congrArg Raf.lanes raf'
    change (noted b).raf.lanes = e.raf.lanes at same
    unfold Eng.lanesOf Eng.lane
    rw [same]
  have missedCount : (noted b).fv F.RAF_SYNC_MISSED_COUNT = b.fv F.RAF_SYNC_MISSED_COUNT := Eng.fv_congr rfl _ _
  have noted_ : (noted b).now = T := now'
  generalize noted b = c at ran only'' nextSync syncOpen lanes missedCount noted_
  have self := only''.self (by decide)
  obtain ⟨sraf, snow, sonly, sent⟩ := c.syncOut_sends s.boot.cal linkRange
  have scount : (linkRange.foldl (fun e l => e.syncOut s.boot.cal l) c).fv F.RAF_SYNC_MISSED_COUNT = c.fv F.RAF_SYNC_MISSED_COUNT :=
    congrArg (fun w : Word => bitsOf w.toNat 31 0) (sonly.regs 0xD090 0 (by decide) (by decide) (by decide) (fun stall => absurd stall (by decide)))
  generalize linkRange.foldl (fun e l => e.syncOut s.boot.cal l) c = z at ran sraf snow sonly sent scount
  refine ⟨_, ran, snow.trans noted_, ?_, (congrArg Raf.syncOpen sraf).trans syncOpen, scount.trans (missedCount.trans count'), fun l low some_ => ?_,
    .withEng (only''.trans (sonly.weaken (by decide) (by decide)))⟩
  · exact (congrArg Raf.nextSync sraf).trans (nextSync.trans (congrArg (· + 1) (snow.trans noted_).symm))
  · have frame := sent l (List.mem_range.mpr low) (by rw [lanes]; exact some_)
    rw [lanes, self] at frame
    exact frame

/-! ### SYNC -/

/-- A SYNC or SYNC_REPLY on a lane in service is heard. -/
def Eng.heardOn (e : Eng) (p : Nat) (f : Frame) : Eng := (e.rxCount f).setLane p { (e.rxCount f).lane p with lastFrame := (e.rxCount f).now }

theorem Eng.heardOn_raf (e : Eng) (p : Nat) (f : Frame) :
    (e.heardOn p f).raf = { e.raf with lanes := tsetD e.raf.lanes p { e.lane p with lastFrame := e.now } {} } := by
  have raf := (e.rxCount_reports f).raf_eq
  have now := (e.rxCount_reports f).now_eq
  unfold Eng.heardOn Eng.setLane Eng.lane
  rw [raf, now]

theorem Eng.heardOn_lane (e : Eng) (p : Nat) (f : Frame) (k : Nat) :
    (e.heardOn p f).lane k = if k = p then { e.lane p with lastFrame := e.now } else e.lane k := by
  rw [Eng.lane, e.heardOn_raf]
  exact tgetD_tsetD _ _ _ _ _

theorem Eng.Only.heardOn {us offs : List Nat} (e : Eng) (p : Nat) (f : Frame) (link : 13 ∈ us) (port : 17 ∈ us) : e.Only us offs (e.heardOn p f) :=
  (Eng.Only.count _ _ _ _ _ port).trans (.setLane _ _ _ link)

/-- A frame of the type and length is taken. -/
theorem Eng.syncFrame_takes (e : Eng) {p t len n : Nat} {m : RxFrame} {act : Eng → Nat → Frame → Eng} (log : (e.lane p).log = some n)
    (on : e.rafOn = true) (ok : rxOk m = true) (typ : (frameOf m).typ = t) (length : (frameOf m).len = len) :
    e.syncFrame p t len m act = act (e.heardOn p (frameOf m)) n (frameOf m) := by
  unfold Eng.syncFrame
  rw [log]
  refine (if_neg ?_).trans (if_neg ?_)
  · rw [on, decide_eq_false (fun h => h typ), Bool.and_false]
    decide
  · rw [ok, decide_eq_false (fun h => h.elim (fun h => h typ) (fun h => h length))]
    decide

/-- A frame with a bad CRC is discarded. -/
theorem Eng.syncFrame_bad (e : Eng) {p t len n : Nat} {m : RxFrame} {act : Eng → Nat → Frame → Eng} (log : (e.lane p).log = some n)
    (on : e.rafOn = true) (bad : rxOk m = false) (typ : (frameOf m).typ = t) :
    e.syncFrame p t len m act = (e.heardOn p (frameOf m)).badFrame := by
  unfold Eng.syncFrame
  rw [log]
  refine (if_neg ?_).trans (if_pos ?_)
  · rw [on, decide_eq_false (fun h => h typ), Bool.and_false]
    decide
  · rw [bad]
    rfl

/-- A chip's figures, later than its loss, show that it answers again. -/
def Eng.statBack (e : Eng) (c : Nat) (x : ChipStat) : Eng :=
  if e.raf.lost.contains c && e.raf.seenLost.all (fun y => decide (y.1 ≠ c ∨ y.2 < x.stamp)) then e.chipBack c else e

theorem Eng.statPut_eq (e : Eng) (c : Nat) (x : ChipStat) : e.statPut c x =
    if c = e.self ∨ (tget e.raf.stat c).isSome ∧ x.stamp ≤ (tgetD e.raf.stat c {}).stamp then e
    else (({ e with raf := { e.raf with stat := tput e.raf.stat c x } } : Eng).statBack c x).cstCompare c x.cstCrc := rfl

theorem Eng.statBack_keeps (e : Eng) (c : Nat) (x : ChipStat) :
    (∃ lost, (e.statBack c x).raf = { e.raf with lost }) ∧ e.Only [1, 13, 17] [] (e.statBack c x) := by
  unfold Eng.statBack
  split
  · exact ⟨⟨_, rfl⟩, .setRaf _ _ (by decide)⟩
  · exact ⟨⟨_, rfl⟩, .refl _⟩

theorem Eng.cstCompare_reports (e : Eng) (c crc : Nat) : e.Reports (e.cstCompare c crc) := by
  unfold Eng.cstCompare
  split
  · exact Eng.raiseE_reports _ _ _ _ _
  · exact .refl _

/-- The figures of a chip: only the status table and the list of the lost are touched in Rafter. -/
theorem Eng.statPut_keeps (e : Eng) (c : Nat) (x : ChipStat) :
    (∃ stat lost, (e.statPut c x).raf = { e.raf with stat, lost }) ∧ e.Only [1, 13, 17] [] (e.statPut c x) := by
  rw [Eng.statPut_eq]
  split
  · exact ⟨⟨_, _, rfl⟩, .refl _⟩
  · obtain ⟨⟨lost, raf⟩, only⟩ := Eng.statBack_keeps { e with raf := { e.raf with stat := tput e.raf.stat c x } } c x
    have reports := Eng.cstCompare_reports (({ e with raf := { e.raf with stat := tput e.raf.stat c x } } : Eng).statBack c x) c x.cstCrc
    exact ⟨⟨_, lost, reports.raf_eq.trans raf⟩,
      (Eng.Only.setRaf e { e.raf with stat := tput e.raf.stat c x } (by decide)).trans (only.trans (.of_reports reports (by decide) (by decide)))⟩

/-- The figures of several chips. -/
theorem Eng.statPuts_keep (l : List Nat) (b : Nat → Bool) (x : Nat → Nat) (g : Nat → ChipStat) (e : Eng) :
    (∃ stat lost, (l.foldl (fun (y : Eng) k => if b k then y.statPut (x k) (g k) else y) e).raf = { e.raf with stat, lost }) ∧
      e.Only [1, 13, 17] [] (l.foldl (fun (y : Eng) k => if b k then y.statPut (x k) (g k) else y) e) := by
  induction l generalizing e with
  | nil => exact ⟨⟨_, _, rfl⟩, .refl _⟩
  | cons k l ih =>
    have one : (∃ stat lost, (if b k then e.statPut (x k) (g k) else e).raf = { e.raf with stat, lost }) ∧
        e.Only [1, 13, 17] [] (if b k then e.statPut (x k) (g k) else e) := by
      split
      · exact e.statPut_keeps _ _
      · exact ⟨⟨_, _, rfl⟩, .refl _⟩
    obtain ⟨⟨stat, lost, eq⟩, only⟩ := one
    obtain ⟨⟨stat', lost', eq'⟩, only'⟩ := ih (if b k then e.statPut (x k) (g k) else e)
    exact ⟨⟨stat', lost', eq'.trans (by rw [eq])⟩, only.trans only'⟩

/-- The advertisement of a SYNC. -/
def advOf (w : List Nat) : Adv := {
  state := w.getD 1 0 / 2 ^ 16 % 4, depth := w.getD 1 0 / 2 ^ 18 % 16, errBound := w.getD 1 0 / 2 ^ 24 % 256
  voting := w.getD 2 0 / 2 ^ 32 % 8, voteTheta := sgn 32 (w.getD 3 0 % 2 ^ 32) }

/-- What the lane's link told before gives way to an advertisement, and the masters that it has out of the vote are out. -/
def Eng.advTake (e : Eng) (n : Nat) (a : Adv) : Eng :=
  let y := { e with raf := { e.raf with adv := tput (e.raf.adv.filter (fun p => decide (laneLink p.1 ≠ laneLink n))) n a } }
  let out := if a.voting = 0 then [] else
    ((List.range y.masters.length).zip y.masters).filterMap (fun (p : Nat × Nat) => if bitOf a.voting p.1 then none else some p.2)
  { y with raf := { y.raf with mastersOut := out.foldl sinsert y.raf.mastersOut } }

theorem Eng.syncTake_eq (e : Eng) (n c : Nat) (w : List Nat) : e.syncTake n c w =
    (List.range 4).foldl (fun (y : Eng) k => if bitOf (w.getD (4 + 2 * k) 0) 6 then
        y.statPut (w.getD (4 + 2 * k) 0 % 64) { freeGib := bitsOf (w.getD (4 + 2 * k) 0) 26 16, cstCrc := bitsOf (w.getD (4 + 2 * k) 0) 63 32, stamp := w.getD (5 + 2 * k) 0 }
      else y)
      ((e.advTake n { advOf w with voteTheta := sgn 32 (bitsOf (w.getD 3 0) 31 0) }).statPut c { freeGib := bitsOf (w.getD 1 0) 42 32, cstCrc := bitsOf (w.getD 2 0) 31 0, stamp := w.getD 0 0 }) := rfl

/-- What a SYNC tells takes the place of what its link told before. -/
theorem Eng.syncTake_keeps (e : Eng) (n c : Nat) (w : List Nat) :
    (∃ mastersOut stat lost, (e.syncTake n c w).raf = { e.raf with
        mastersOut, stat, lost, adv := tput (e.raf.adv.filter (fun p => decide (laneLink p.1 ≠ laneLink n))) n (advOf w) }) ∧
      e.Only [1, 13, 17] [] (e.syncTake n c w) := by
  have vote : bitsOf (w.getD 3 0) 31 0 = w.getD 3 0 % 2 ^ 32 := by
    rw [bitsOf, Nat.pow_zero, Nat.div_one]
  rw [Eng.syncTake_eq, vote]
  obtain ⟨⟨stat, lost, raf⟩, only⟩ := (e.advTake n (advOf w)).statPut_keeps c { freeGib := bitsOf (w.getD 1 0) 42 32, cstCrc := bitsOf (w.getD 2 0) 31 0, stamp := w.getD 0 0 }
  obtain ⟨⟨stat', lost', raf'⟩, only'⟩ := Eng.statPuts_keep (List.range 4) (fun k => bitOf (w.getD (4 + 2 * k) 0) 6) (fun k => w.getD (4 + 2 * k) 0 % 64)
    (fun k => { freeGib := bitsOf (w.getD (4 + 2 * k) 0) 26 16, cstCrc := bitsOf (w.getD (4 + 2 * k) 0) 63 32, stamp := w.getD (5 + 2 * k) 0 })
    ((e.advTake n (advOf w)).statPut c { freeGib := bitsOf (w.getD 1 0) 42 32, cstCrc := bitsOf (w.getD 2 0) 31 0, stamp := w.getD 0 0 })
  exact ⟨⟨_, stat', lost', raf'.trans (by rw [raf]; rfl)⟩, (Eng.Only.setRaf e _ (by decide)).trans (only.trans only')⟩

/-- The second part of O55: a SYNC is answered. -/
theorem sync_answers {s : State} {lane n : Nat} {frame : RxFrame} (up : s.boot.absent = false) (on : s.eng.rafOn = true)
    (log : (s.eng.lane lane).log = some n) (ok : rxOk frame = true) (typ : (frameOf frame).typ = 2) (len : (frameOf frame).len = 96) :
    let e := s.eng
    let w := fun (k : Nat) => (frameOf frame).words.getD k 0
    ∃ t g, exec (.sync lane frame) s = .next t ∧ .laneFrame lane g ∈ t.eng.out ∧ g.typ = 3 ∧ g.len = 48 ∧
      g.dst = linkPeer e.self (laneLink n) ∧ g.words.take 2 = [w 0, w 1 % 65536] ∧ t.eng.lane lane = { e.lane lane with lastFrame := e.now } ∧
      (∀ p, p ≠ lane → t.eng.lane p = e.lane p) ∧
      (∀ m, m ≠ n → laneLink m = laneLink n → tget t.eng.raf.adv m = none) ∧
      tget t.eng.raf.adv n = some (advOf (frameOf frame).words) ∧ s.Only [1, 13, 14, 17] [] t := by
  intro e w
  let h := e.heardOn lane (frameOf frame)
  let g : Frame := {
    typ := 3, src := h.self, dst := linkPeer h.self (laneLink n), len := 48
    words := [w 0, w 1 % 65536] ++ stampWords (phyStamp frame.arrival s.boot.cal lane) ++ stampWords (phyStamp h.stamp16 s.boot.cal lane) }
  have ran : exec (.sync lane frame) s = .next (s.withEng (((h.laneSend lane g).syncTake n (linkPeer (h.laneSend lane g).self (laneLink n)) (frameOf frame).words).selectParent)) := by
    change execSync lane frame s = _
    rw [execSync, live_up up, e.syncFrame_takes log on ok typ len]
  have hOnly : e.Only [1, 13, 14, 17] [] h := .heardOn _ _ _ (by decide) (by decide)
  have hRaf := e.heardOn_raf lane (frameOf frame)
  have self : h.self = e.self := hOnly.self (by decide)
  change h.raf = _ at hRaf
  have hLane := e.heardOn_lane lane (frameOf frame)
  change ∀ k, h.lane k = _ at hLane
  have dst : g.dst = linkPeer e.self (laneLink n) := congrArg (fun m => linkPeer m (laneLink n)) self
  have words : g.words.take 2 = [w 0, w 1 % 65536] := rfl
  have typ' : g.typ = 3 := rfl
  have len' : g.len = 48 := rfl
  generalize g = g at ran dst words typ' len'
  generalize h = h at ran hOnly hRaf hLane
  have sent := (h.laneSend_out lane g).1
  have sRaf := h.laneSend_raf lane g
  have sOnly : h.Only [1, 13, 14, 17] [] (h.laneSend lane g) := .laneSend _ _ _ (by decide)
  generalize h.laneSend lane g = x at ran sent sRaf sOnly
  obtain ⟨⟨mastersOut, stat, lost, tRaf⟩, tOnly⟩ := x.syncTake_keeps n (linkPeer x.self (laneLink n)) (frameOf frame).words
  generalize x.syncTake n (linkPeer x.self (laneLink n)) (frameOf frame).words = y at ran tRaf tOnly
  obtain ⟨tal, parent, depth, syncOpen, orphanAt, locked8, nextRise, shape⟩ := y.selectParent_shape
  have pOnly : y.Only [1, 13, 14, 17] [] y.selectParent := .selectParent _ (by decide) (by decide)
  have lanes : ∀ k, y.selectParent.lane k = h.lane k := fun k => by
    rw [shape]
    unfold Eng.lane
    rw [tRaf, sRaf]
  have adv : y.selectParent.raf.adv = tput (x.raf.adv.filter (fun p => decide (laneLink p.1 ≠ laneLink n))) n (advOf (frameOf frame).words) := by
    rw [shape, tRaf]
  obtain ⟨more, out⟩ := (tOnly.weaken (us' := [1, 13, 14, 17]) (offs' := []) (by decide) (by decide) |>.trans pOnly).out
  refine ⟨_, g, ran, ?_, typ', len', dst, words, (lanes lane).trans ((hLane lane).trans (if_pos rfl)),
    fun p other => (lanes p).trans ((hLane p).trans (if_neg other)), fun m other same => ?_, ?_,
    .withEng (hOnly.trans (sOnly.trans ((tOnly.weaken (by decide) (by decide)).trans pOnly)))⟩
  · change Out.laneFrame lane g ∈ y.selectParent.out
    rw [out]
    exact List.mem_append_right _ sent
  · change tget y.selectParent.raf.adv m = none
    rw [adv, tget_tput_ne _ _ other, tget_filter _ (fun k => decide (laneLink k ≠ laneLink n)), if_neg (by rw [decide_eq_true_iff]; exact fun h => h same)]
  · change tget y.selectParent.raf.adv n = _
    rw [adv, tget_tput_same]

/-- The third part of O55: a SYNC with a bad CRC is counted and discarded. -/
theorem sync_discards {s : State} {lane n : Nat} {frame : RxFrame} (up : s.boot.absent = false) (on : s.eng.rafOn = true)
    (log : (s.eng.lane lane).log = some n) (bad : rxOk frame = false) (typ : (frameOf frame).typ = 2) :
    let e := s.eng
    ∃ t, exec (.sync lane frame) s = .next t ∧ t.eng.lane lane = { e.lane lane with lastFrame := e.now } ∧
      (∀ p, p ≠ lane → t.eng.lane p = e.lane p) ∧
      t.eng.fv F.RAF_CRC_ERR_COUNT = min (e.fv F.RAF_CRC_ERR_COUNT + 1) (2 ^ 32 - 1) ∧ s.Only [13, 17] [0xD080] t := by
  intro e
  have ran : exec (.sync lane frame) s = .next (s.withEng ((e.heardOn lane (frameOf frame)).bump F.RAF_CRC_ERR_COUNT)) := by
    change execSync lane frame s = _
    rw [execSync, live_up up, e.syncFrame_bad log on bad typ]
    rfl
  have only : e.Only [13, 17] [0xD080] (e.heardOn lane (frameOf frame)) := .heardOn _ _ _ (by decide) (by decide)
  have lanes := e.heardOn_lane lane (frameOf frame)
  have count : (e.heardOn lane (frameOf frame)).fv F.RAF_CRC_ERR_COUNT = e.fv F.RAF_CRC_ERR_COUNT := by
    have regs := (e.rxCount_reports (frameOf frame)).regs 0xD080 0 (by decide) (by decide)
    exact congrArg (fun w : Word => bitsOf w.toNat 31 0) regs
  generalize e.heardOn lane (frameOf frame) = h at ran only lanes count
  exact ⟨_, ran, (lanes lane).trans (if_pos rfl), fun p other => (lanes p).trans (if_neg other),
    (Eng.fv_bump_same _ _ _ _ rfl rfl).trans (by rw [count]), .withEng (only.trans (.bump _ _ _ _ (by decide) (by decide)))⟩

/-! ### SYNC_REPLY -/

/-- The offset that a reply gives (R547). -/
def replyTheta (w : Nat → Nat) (t4 : Int) : Int :=
  sgn 48 (unsgn 48 (((stampOf (w 2) (w 3) - stampOf (w 0) (w 1)) + (stampOf (w 4) (w 5) - t4)).tdiv 2))

/-- An exchange with the parent, of an engine that is no master. -/
theorem Eng.exchange_parent (e : Eng) {n : Nat} (theta t4 : Int) (plain : e.isMaster = false) (acts : e.isActing = false)
    (parent : e.raf.parent.map laneLink = some (laneLink n)) :
    let x : Eng := { e with raf := { e.raf with syncOpen := false, theta } }
    e.exchange n theta t4 = if e.tal.state = 0 then (x.jumpTo (t4 + theta)).tallyTo 1 else (x.steer theta).tallyStep theta := by
  unfold Eng.exchange
  rw [plain]
  exact if_neg (fun h => h.elim (fun h => h parent) (fun h : e.isActing = true => by rw [acts] at h; exact Bool.noConfusion h))

/-- The last of the parts of O55 that a frame brings: the parent's answer. -/
theorem syncReply_steers {s : State} {lane n : Nat} {frame : RxFrame} (up : s.boot.absent = false) (on : s.eng.rafOn = true)
    (log : (s.eng.lane lane).log = some n) (ok : rxOk frame = true) (typ : (frameOf frame).typ = 3) (len : (frameOf frame).len = 48)
    (plain : s.eng.isMaster = false) (acts : s.eng.isActing = false) (parent : s.eng.raf.parent.map laneLink = some (laneLink n))
    (cal : s.boot.cal.getD lane 0 = 0) :
    let e := s.eng
    let t4 : Int := frame.arrival
    let theta := replyTheta (fun k => (frameOf frame).words.getD k 0) t4
    let interval := max 10000 (e.av F.RAF_SYNC_CFG_INTERVAL)
    (e.tal.state = 0 →
      ∃ t, exec (.syncReply lane frame) s = .next t ∧ t.eng.tal.state = 1 ∧ t.eng.now = unsgn 80 (t4 + theta) / 65536 ∧
        t.eng.raf.theta = theta ∧ t.eng.raf.syncOpen = false ∧ s.Only [0, 1, 3, 12, 13, 14, 17] [] t) ∧
    (e.tal.state = 2 → theta.natAbs ≤ 50 * 65536 → e.raf.depth ≤ 8 →
      ∃ t, exec (.syncReply lane frame) s = .next t ∧ t.eng.raf.theta = theta ∧ t.eng.raf.syncOpen = false ∧
        t.eng.raf.rate = max (-(2 ^ 26 : Int)) (min (2 ^ 26)
          ((theta * 2 ^ 23).tdiv interval + ((e.raf.servoAcc + theta) * 2 ^ 20).tdiv interval)) ∧
        t.eng.raf.servoAcc = sgn 64 (unsgn 64 (e.raf.servoAcc + theta)) ∧ s.Only [13, 17] [] t) ∧
    (e.tal.state = 2 ∨ e.tal.state = 3 → 50 * 65536 < theta.natAbs → e.CalmSteps →
      ∃ t, exec (.syncReply lane frame) s = .next t ∧ (t.eng.tal.state = 0 ∧ t.eng.tal.errBound = 255 ∧ t.eng.raf.parent = none ∧ t.eng.raf.depth = 15) ∧
        s.Only [13, 14, 17] [] t) := by
  intro e t4 theta interval
  have stamp : phyStamp frame.arrival s.boot.cal lane = t4 := by
    rw [phyStamp, calOf, cal, Int.add_zero]
  have ran : exec (.syncReply lane frame) s = .next (s.withEng ((e.heardOn lane (frameOf frame)).exchange n theta t4)) := by
    change execSyncReply lane frame s = _
    rw [execSyncReply, live_up up, e.syncFrame_takes log on ok typ len]
    dsimp only
    rw [stamp]
    rfl
  have only : e.Only [13, 17] [] (e.heardOn lane (frameOf frame)) := .heardOn _ _ _ (by decide) (by decide)
  have raf := e.heardOn_raf lane (frameOf frame)
  obtain ⟨masters, acting⟩ := Eng.isMaster_congr raf (only.self (by decide))
  have av : (e.heardOn lane (frameOf frame)).syncInterval = interval := by
    have act := (only.parts 18 (by decide)).1
    unfold Eng.syncInterval Eng.av
    rw [act]
    rfl
  rw [Eng.exchange_parent _ theta t4 (masters.trans plain) (acting.trans acts) (by rw [raf]; exact parent)] at ran
  have tal : (e.heardOn lane (frameOf frame)).tal = e.tal := only.parts 14 (by decide)
  have cmp : (e.heardOn lane (frameOf frame)).cmp = e.cmp := only.parts 4 (by decide)
  generalize e.heardOn lane (frameOf frame) = h at ran only raf av tal cmp
  have depth : h.raf.depth = e.raf.depth := by rw [raf]
  have acc : h.raf.servoAcc = e.raf.servoAcc := by rw [raf]
  refine ⟨fun free => ?_, fun locked near shallow => ?_, fun state far calm => ?_⟩
  · rw [if_pos (by rw [tal]; exact free), Eng.tallyTo_other _ (by decide)] at ran
    exact ⟨_, ran, rfl, rfl, rfl, rfl, .withEng ((only.weaken (by decide) (by decide)).trans (.of_parts rfl rfl (fun u out => by unfold Eng.partSame; split <;> simp_all [Eng.jumpTo])))⟩
  · rw [if_neg (by rw [tal, locked]; decide)] at ran
    have keeps : ∀ y : Eng, y.tal.state = 2 → y.raf.depth ≤ 8 → y.tallyStep theta = y := fun y two low => by
      unfold Eng.tallyStep
      exact (if_neg (fun h => absurd h.2 (by omega))).trans ((if_pos two).trans (if_neg (by omega)))
    rw [keeps _ (by change h.tal.state = 2; rw [tal]; exact locked) (by change h.raf.depth ≤ 8; rw [depth]; exact shallow)] at ran
    refine ⟨_, ran, rfl, rfl, ?_, ?_, .withEng (only.trans (.trans (b := { h with raf := { h.raf with syncOpen := false, theta } }) (.setRaf _ _ (by decide)) (.setRaf _ _ (by decide))))⟩
    · change (servo h.raf.servoAcc theta h.syncInterval).2 = _
      rw [av, acc]
      rfl
    · change sgn 64 (unsgn 64 (servo h.raf.servoAcc theta h.syncInterval).1) = _
      rw [av, acc]
      rfl
  · have away : h.tal.state ≠ 0 := by rw [tal]; omega
    rw [if_neg away] at ran
    have leaves : ∀ y : Eng, y.tal.state = 2 ∨ y.tal.state = 3 → y.tallyStep theta = y.tallyTo 0 := fun y two => if_pos ⟨two, far⟩
    have quiet : (Eng.steer { h with raf := { h.raf with syncOpen := false, theta } } theta).CalmSteps :=
      calm.congr (fun i => congrArg (fun c : Cmp => tgetD c.insts i {}) cmp)
    rw [leaves _ (by change h.tal.state = 2 ∨ h.tal.state = 3; rw [tal]; exact state)] at ran
    have left : h.Only [13, 14, 17] [] (Eng.steer { h with raf := { h.raf with syncOpen := false, theta } } theta) :=
      .trans (b := { h with raf := { h.raf with syncOpen := false, theta } }) (.setRaf _ _ (by decide)) (.setRaf _ _ (by decide))
    have end_ := Eng.tallyTo_free _ quiet
    have endOnly := Eng.Only.tallyTo_free (us := [13, 14, 17]) (offs := []) _ quiet (by decide) (by decide)
    generalize Eng.steer { h with raf := { h.raf with syncOpen := false, theta } } theta = x at ran left end_ endOnly
    refine ⟨_, ran, ?_, .withEng ((only.weaken (by decide) (by decide)).trans (left.trans endOnly))⟩
    change (x.tallyTo 0).tal.state = 0 ∧ _ ∧ _ ∧ (x.tallyTo 0).raf.depth = 15
    rw [State.withEng, end_]
    exact ⟨rfl, rfl, rfl, rfl⟩

/-! ### Timeouts -/

/-- The parent has been away for 2 intervals. -/
theorem tallyParentTimeout_ends {s : State} {lost : Nat} (up : s.boot.absent = false) (settled : s.Settled) (acts : s.eng.isActing = false)
    (parent : s.eng.raf.parent = none) (orphan : s.eng.raf.orphanAt = some lost) :
    let e := s.eng
    let T := max e.now (lost + 2 * max 10000 (e.av F.RAF_SYNC_CFG_INTERVAL))
    (e.tal.state = 1 → e.CalmSteps →
      ∃ t, exec .tallyParentTimeout s = .next t ∧ t.eng.now = T ∧
        (t.eng.tal.state = 0 ∧ t.eng.tal.errBound = 255 ∧ t.eng.raf.parent = none ∧ t.eng.raf.depth = 15) ∧ s.Only [0, 12, 13, 14, 17] [] t) ∧
    (e.tal.state = 2 →
      ∃ t, exec .tallyParentTimeout s = .next t ∧ t.eng.now = T ∧ t.eng.tal.state = 3 ∧ t.eng.tal.errBound = e.tal.errBound ∧
        t.eng.raf.parent = none ∧ t.eng.raf.nextRise = T + 200000 ∧ s.Only [0, 12, 13, 14, 17] [] t) := by
  intro e T
  let a := e.advance (lost + 2 * e.syncInterval)
  have ran : e.tal.state = 1 ∨ e.tal.state = 2 → exec .tallyParentTimeout s = .next (s.withEng (if a.tal.state = 1 then a.tallyTo 0 else a.tallyTo 3)) := by
    intro state
    have off : ¬(e.tal.state = 0 ∨ e.tal.state = 3) := by rcases state with h | h <;> rw [h] <;> decide
    change timed s atTallyParentTimeout = _
    rw [timed_settled s _ settled, atTallyParentTimeout, live_up up, parent, orphan]
    refine congrArg (fun x => Host.Outcome.next (s.withEng x)) (if_neg ?_)
    rw [acts, decide_eq_false off]
    decide
  have now : a.now = T := Eng.advance_now _ _
  have raf : a.raf = e.raf := Eng.advance_raf _ _
  have tal : a.tal = e.tal := Eng.advance_tal _ _
  have insts : ∀ i, a.inst i = e.inst i := fun i => Eng.advance_inst _ _ _
  have only : e.Only [0, 12, 13, 14, 17] [] a := .advance _ _ (by decide) (by decide) (by decide)
  generalize a = a at ran now raf tal insts only
  constructor
  · intro acquiring calm
    have ran := ran (.inl acquiring)
    rw [if_pos (by rw [tal]; exact acquiring)] at ran
    have free := a.tallyTo_free (calm.congr insts)
    refine ⟨_, ran, (congrArg Eng.now free).trans now, ?_, .withEng (only.trans (.tallyTo_free a (calm.congr insts) (by decide) (by decide)))⟩
    change (a.tallyTo 0).tal.state = 0 ∧ (a.tallyTo 0).tal.errBound = 255 ∧ (a.tallyTo 0).raf.parent = none ∧ (a.tallyTo 0).raf.depth = 15
    rw [free]
    exact ⟨rfl, rfl, rfl, rfl⟩
  · intro locked
    have ran := ran (.inr locked)
    rw [if_neg (by rw [tal, locked]; decide), Eng.tallyTo_other _ (by decide)] at ran
    have bound : errBoundOf 3 a.raf.depth a.tal.errBound = e.tal.errBound := by rw [tal]; rfl
    exact ⟨_, ran, now, rfl, bound, (congrArg Raf.parent raf).trans parent, congrArg (· + 200000) now,
      .withEng (only.trans (.of_parts rfl rfl (fun u out => by unfold Eng.partSame; split <;> simp_all)))⟩

/-- The bound rises in HOLDOVER. -/
theorem holdoverBoundRise_rises {s : State} (up : s.boot.absent = false) (settled : s.Settled) (holds : s.eng.tal.state = 3)
    (calm : s.eng.tal.errBound < 50 ∨ s.eng.CalmSteps) :
    let e := s.eng
    ∃ t, exec .holdoverBoundRise s = .next t ∧ t.eng.now = max e.now e.raf.nextRise ∧ s.Only [0, 12, 13, 14, 17] [] t ∧
      (if 50 ≤ e.tal.errBound then t.eng.tal.state = 0 ∧ t.eng.tal.errBound = 255 ∧ t.eng.raf.parent = none ∧ t.eng.raf.depth = 15
       else t.eng.tal.state = 3 ∧ t.eng.tal.errBound = e.tal.errBound + 1 ∧ t.eng.raf.nextRise = t.eng.now + 200000 ∧ t.eng.raf.parent = e.raf.parent) := by
  intro e
  let a := e.advance e.raf.nextRise
  let b : Eng := { a with tal := { a.tal with errBound := a.tal.errBound + 1 }, raf := { a.raf with nextRise := a.now + 200000 } }
  have ran : exec .holdoverBoundRise s = .next (s.withEng (if 50 < a.tal.errBound + 1 then b.tallyTo 0 else b)) := by
    change timed s atHoldoverBoundRise = _
    rw [timed_settled s _ settled, atHoldoverBoundRise, live_up up]
    exact congrArg (fun x => Host.Outcome.next (s.withEng x)) (if_neg (fun h => h holds))
  have now : b.now = max e.now e.raf.nextRise := Eng.advance_now _ _
  have tal : a.tal = e.tal := Eng.advance_tal _ _
  have araf : a.raf = e.raf := Eng.advance_raf _ _
  have parent : b.raf.parent = e.raf.parent := by
    change a.raf.parent = _
    rw [araf]
  have state : b.tal.state = 3 := (congrArg Tal.state tal).trans holds
  have bound : b.tal.errBound = e.tal.errBound + 1 := congrArg (fun t : Tal => t.errBound + 1) tal
  have rise : b.raf.nextRise = b.now + 200000 := rfl
  have insts : ∀ i, b.inst i = e.inst i := fun i => Eng.advance_inst _ _ _
  have only : e.Only [0, 12, 13, 14, 17] [] b := (Eng.Only.advance _ _ (by decide) (by decide) (by decide)).trans
    (.trans (b := { a with tal := { a.tal with errBound := a.tal.errBound + 1 } }) (.setTal _ _ (by decide)) (.setRaf _ _ (by decide)))
  rw [tal] at ran
  generalize b = b at ran now parent state bound rise insts only
  by_cases high : 50 ≤ e.tal.errBound
  · have quiet : e.CalmSteps := calm.resolve_left (Nat.not_lt.mpr high)
    rw [if_pos (by omega)] at ran
    have free := b.tallyTo_free (quiet.congr insts)
    refine ⟨_, ran, (congrArg Eng.now free).trans now, .withEng (only.trans (.tallyTo_free b (quiet.congr insts) (by decide) (by decide))), ?_⟩
    rw [if_pos high]
    change (b.tallyTo 0).tal.state = 0 ∧ (b.tallyTo 0).tal.errBound = 255 ∧ (b.tallyTo 0).raf.parent = none ∧ (b.tallyTo 0).raf.depth = 15
    rw [free]
    exact ⟨rfl, rfl, rfl, rfl⟩
  · rw [if_neg (by omega)] at ran
    refine ⟨_, ran, now, .withEng only, ?_⟩
    rw [if_neg high]
    exact ⟨state, bound, rise, parent⟩

/-- Settles O55: each exchange, and each timeout. -/
theorem tallySynchronises : Obligations.TallySynchronises := by
  intro lane n lost frame s up on e f w heard rest interval stamp t4 theta free calm
  refine ⟨fun settled => syncSend_sends up settled on, fun log => ⟨fun ok typ len => sync_answers up on log ok typ len,
    fun bad typ => sync_discards up on log bad typ, fun ok typ len plain acts parent cal => syncReply_steers up on log ok typ len plain acts parent cal⟩,
    fun settled acts parent orphan => tallyParentTimeout_ends up settled acts parent orphan,
    fun settled holds quiet => holdoverBoundRise_rises up settled holds quiet⟩

end Sys2Proof.Machine
end

section
/-!
Link credits and the loss of a peer (O56): what the sending of a frame changes, what every frame that arrives does, and the commands CREDIT,
CREDIT_REQ, CREDIT_RETURN and PEER_LOST.
-/
namespace Sys2Proof.Machine

/-! ### Sending on a link -/

theorem Eng.link_setLink (e : Eng) (l k : Nat) (x : Link) : (e.setLink l x).link k = if k = l then x else e.link k :=
  tgetD_tsetD _ _ _ _ _

/-- A change of one link alone, of what Keeper charges, and of what is counted. -/
structure Eng.OnLink (e : Eng) (l : Nat) (e' : Eng) : Prop where
  raf : ∃ links, e'.raf = { e.raf with links }
  others : ∀ k, k ≠ l → e'.link k = e.link k
  kpr : ∃ parts, e'.kpr = { e.kpr with parts }
  only : e.Only [12, 13, 17] [] e'

section OnLink
variable {e e' : Eng} {l : Nat}

theorem Eng.OnLink.refl (e : Eng) (l : Nat) : e.OnLink l e := ⟨⟨_, rfl⟩, fun _ _ => rfl, ⟨_, rfl⟩, .refl _⟩

theorem Eng.OnLink.trans {a b c : Eng} (ab : a.OnLink l b) (bc : b.OnLink l c) : a.OnLink l c := by
  obtain ⟨links, raf⟩ := ab.raf
  obtain ⟨links', raf'⟩ := bc.raf
  obtain ⟨parts, kpr⟩ := ab.kpr
  obtain ⟨parts', kpr'⟩ := bc.kpr
  exact ⟨⟨links', by rw [raf', raf]⟩, fun k other => (bc.others k other).trans (ab.others k other), ⟨parts', by rw [kpr', kpr]⟩, ab.only.trans bc.only⟩

theorem Eng.OnLink.setLink (e : Eng) (l : Nat) (x : Link) : e.OnLink l (e.setLink l x) :=
  ⟨⟨_, rfl⟩, fun k other => (e.link_setLink l k x).trans (if_neg other), ⟨_, rfl⟩, .setRaf _ _ (by decide)⟩

/-- What leaves Rafter alone is on every link. -/
theorem Eng.OnLink.of_raf (raf : e'.raf = e.raf) (kpr : ∃ parts, e'.kpr = { e.kpr with parts }) (only : e.Only [12, 13, 17] [] e') : e.OnLink l e' :=
  ⟨⟨e.raf.links, raf⟩, fun k _ => congrArg (fun r : Raf => tgetD r.links k {}) raf, kpr, only⟩

theorem Eng.OnLink.of_reports (reports : e.Reports e') (only : e.Only [12, 13, 17] [] e') : e.OnLink l e' := .of_raf reports.raf_eq ⟨_, reports.kpr_eq⟩ only

theorem Eng.OnLink.modPart (e : Eng) (l p : Nat) (f : KPart → KPart) : e.OnLink l (e.modPart p f) := .of_raf rfl ⟨_, rfl⟩ (.setKpr _ _ (by decide))

theorem Eng.OnLink.emit (e : Eng) (l : Nat) (o : Out) : e.OnLink l (e.emit o) := .of_raf rfl ⟨_, rfl⟩ (.emit _ _)

theorem Eng.OnLink.count (e : Eng) (l src amt : Nat) (pid : Option Nat) : e.OnLink l (e.count src amt pid) :=
  .of_reports (Eng.count_reports _ _ _ _ _) (.count _ _ _ _ _ (by decide))

theorem Eng.OnLink.regCharge (e : Eng) (l p st ce ra : Nat) : e.OnLink l (e.regCharge p st ce ra) := by
  unfold Eng.regCharge
  exact .modPart _ _ _ _

theorem Eng.OnLink.linkSend (e : Eng) (l : Nat) (f : Frame) (order : Nat) : e.OnLink l (e.linkSend l f order) := by
  unfold Eng.linkSend
  extract_lets k c g k' e1 e2 e3
  have sent : e.OnLink l e2 := (Eng.OnLink.setLink e l k').trans
    ((Eng.OnLink.emit _ l (.frame l g)).trans (.count e1 l 0x1014 g.bytes _))
  clear_value e2
  split
  · have charged : e.OnLink l e3 := sent.trans (.regCharge e2 l f.pid 0 0 g.bytes)
    clear_value e3
    split
    · exact charged.trans (.modPart e3 l f.pid _)
    · exact charged
  · exact sent

theorem Eng.OnLink.linkFlush (l : Nat) (fuel : List Frame) (e : Eng) : e.OnLink l (linkFlush e l fuel) := by
  induction fuel generalizing e with
  | nil => exact .refl _ _
  | cons _ r ih =>
    rw [Machine.linkFlush]
    split
    · exact .refl _ _
    · next f o _ => exact (Eng.OnLink.linkSend e l f o).trans (ih _)

theorem Eng.OnLink.flush (e : Eng) (l : Nat) : e.OnLink l (e.flush l) := by
  unfold Eng.flush
  split
  · exact .linkFlush _ _ _
  · exact .refl _ _

theorem Eng.OnLink.linkPut (e : Eng) (l : Nat) (f : Frame) : e.OnLink l (e.linkPut l f) := by
  unfold Eng.linkPut
  exact (Eng.OnLink.setLink _ _ _).trans (.flush _ _)

end OnLink

/-- A link with nothing waiting sends nothing. -/
theorem Eng.flush_idle (e : Eng) {l : Nat} (idle : (e.link l).waiting = []) : e.flush l = e := by
  unfold Eng.flush
  split
  · rw [idle]
    rfl
  · rfl

/-- A frame with its number, if it has one. -/
def Link.numbered (k : Link) (f : Frame) : Frame := if frameClass f.typ = 0 then f else { f with seq := k.sendSeq }

/-- A link that has sent a frame without a B credit. -/
def Link.sent (k : Link) (f : Frame) : Link :=
  { k with
    sendSeq := if frameClass f.typ = 0 then k.sendSeq else (k.sendSeq + 1) % 65536
    unacked := if frameClass f.typ = 0 then k.unacked else k.unacked ++ [k.numbered f]
    sSent := if frameClass f.typ = 1 then k.sSent + 1 else k.sSent }

theorem Link.sent_free (k : Link) {f : Frame} (free : frameClass f.typ = 0) : k.sent f = k := by
  rw [Link.sent, if_pos free, if_pos free, if_neg (by rw [free]; decide)]

/-- A link that has sent a frame. -/
def Link.after (k : Link) (f : Frame) (order : Nat) : Link :=
  { k with
    waiting := dropFirst f k.waiting
    sendSeq := if frameClass f.typ = 0 then k.sendSeq else (k.sendSeq + 1) % 65536
    unacked := if frameClass f.typ = 0 then k.unacked else k.unacked ++ [k.numbered f]
    sSent := if frameClass f.typ = 1 then k.sSent + 1 else k.sSent
    bHeld := if frameClass f.typ = 2 then tsetD k.bHeld f.inst (tgetD k.bHeld f.inst 0 - 1) 0 else k.bHeld
    rrPid := if order = 2 then f.pid else k.rrPid }

theorem Link.after_alone (k : Link) {f : Frame} (idle : k.waiting = []) (plain : frameClass f.typ ≠ 2) :
    ({ k with waiting := [f] } : Link).after f 1 = k.sent f := by
  have dropped : dropFirst f [f] = k.waiting := (if_pos rfl).trans idle.symm
  rw [Link.after, Link.sent, dropped, if_neg plain, if_neg (show ¬(1 = 2) by decide)]
  rfl

/-- A frame of no partition is not charged. -/
theorem Eng.linkSend_plain (e : Eng) (l : Nat) {f : Frame} (order : Nat) (free : f.pidV = false) :
    e.linkSend l f order =
      (((e.setLink l ((e.link l).after f order)).emit (.frame l ((e.link l).numbered f))).count 0x1014 ((e.link l).numbered f).bytes none) := by
  obtain ⟨typ, src, dst, pid, pidV, inst, seq, arg, len, words⟩ := f
  change pidV = false at free
  subst free
  rfl

/-- Only the list of links changes in Rafter, and what is counted. -/
structure Eng.Linked (e e' : Eng) : Prop where
  raf : ∃ links, e'.raf = { e.raf with links }
  only : e.Only [13, 17] [] e'

theorem Eng.Linked.refl (e : Eng) : e.Linked e := ⟨⟨_, rfl⟩, .refl _⟩

theorem Eng.Linked.trans {a b c : Eng} (ab : a.Linked b) (bc : b.Linked c) : a.Linked c := by
  obtain ⟨links, raf⟩ := ab.raf
  obtain ⟨links', raf'⟩ := bc.raf
  exact ⟨⟨links', by rw [raf', raf]⟩, ab.only.trans bc.only⟩

theorem Eng.Linked.setLink (e : Eng) (l : Nat) (x : Link) : e.Linked (e.setLink l x) := ⟨⟨_, rfl⟩, .setRaf _ _ (by decide)⟩

theorem Eng.Linked.of_reports {e e' : Eng} (reports : e.Reports e') (only : e.Only [13, 17] [] e') : e.Linked e' := ⟨⟨_, reports.raf_eq⟩, only⟩

/-- Whether a link is in service goes by the lanes. -/
theorem Eng.lanesOf_congr {e e' : Eng} (lanes : ∀ p, (e'.lane p).st = (e.lane p).st ∧ (e'.lane p).log = (e.lane p).log) (l : Nat) (sts : List Nat) :
    e'.lanesOf l sts = e.lanesOf l sts := by
  unfold Eng.lanesOf
  exact List.filter_congr (fun p _ => by
    obtain ⟨st, log⟩ := lanes p
    simp only [st, log])

theorem Eng.Linked.linkActive {e e' : Eng} (linked : e.Linked e') (l : Nat) : e'.linkActive l = e.linkActive l := by
  obtain ⟨links, raf⟩ := linked.raf
  unfold Eng.linkActive Eng.lanesOf Eng.lane
  rw [raf]

theorem Eng.Only.fb {us offs : List Nat} {e e' : Eng} (only : e.Only us offs e') {f : Fld} (reg : f.off ∉ offs) (tally : tallyReg f.off = false)
    (stall : f.off ≠ 0xB094) : e'.fb f = e.fb f := by
  have same := only.regs f.off 0 (by decide) reg tally (fun h => absurd h stall)
  unfold Eng.fb Eng.fv
  rw [same]

/-- One frame of no partition, put on an idle link in service that has a credit for it, goes out. -/
theorem Eng.linkPut_sends (e : Eng) {l : Nat} {f : Frame} (en : e.fb F.RAF_CTL_EN = true) (active : e.linkActive l = true)
    (idle : (e.link l).waiting = []) (free : f.pidV = false) (plain : frameClass f.typ ≠ 2) (credit : (e.link l).hasCredit f = true) :
    e.Linked (e.linkPut l f) ∧ (e.linkPut l f).link l = (e.link l).sent f ∧ (∀ k, k ≠ l → (e.linkPut l f).link k = e.link k) ∧
      .frame l ((e.link l).numbered f) ∈ (e.linkPut l f).out := by
  let x := e.setLink l { e.link l with waiting := [f] }
  have xLink : x.link l = { e.link l with waiting := [f] } := (e.link_setLink _ _ _).trans (if_pos rfl)
  have put : e.linkPut l f = x.flush l := by
    unfold Eng.linkPut
    have ask : (decide (frameClass f.typ = 2) && !(e.link l).bAsked.contains f.inst) = false := by rw [decide_eq_false plain, Bool.false_and]
    dsimp only
    rw [ask, idle]
    rfl
  have pick : x.linkPick l = some (f, 1) := by
    unfold Eng.linkPick
    have has : ({ e.link l with waiting := [f] } : Link).hasCredit f = true := credit
    rw [xLink]
    dsimp only
    rw [List.filter_cons_of_pos has, List.filter_nil, List.find?_cons_of_pos (by rw [free]; rfl)]
  have xLinked : e.Linked x := .setLink _ _ _
  have flushed : x.flush l = x.linkSend l f 1 := by
    unfold Eng.flush
    rw [if_pos (by rw [xLinked.linkActive, active, xLinked.only.fb (f := F.RAF_CTL_EN) (by decide) (by decide) (by decide), en]; rfl), xLink, linkFlush, pick]
    rfl
  rw [put, flushed, Eng.linkSend_plain x l 1 free, xLink, Link.after_alone _ idle plain]
  have numbered : ({ e.link l with waiting := [f] } : Link).numbered f = (e.link l).numbered f := rfl
  rw [numbered]
  have reports := Eng.count_reports ((x.setLink l ((e.link l).sent f)).emit (.frame l ((e.link l).numbered f))) 0x1014 ((e.link l).numbered f).bytes none none
  have links : ∀ k, (((x.setLink l ((e.link l).sent f)).emit (.frame l ((e.link l).numbered f))).count 0x1014 ((e.link l).numbered f).bytes none).link k =
      if k = l then (e.link l).sent f else x.link k := fun k =>
    (congrArg (fun r : Raf => tgetD r.links k {}) reports.raf_eq).trans (x.link_setLink l k _)
  obtain ⟨more, out⟩ := reports.out
  refine ⟨(xLinked.trans (.setLink _ _ _)).trans (.trans (b := (x.setLink l ((e.link l).sent f)).emit (.frame l ((e.link l).numbered f)))
    ⟨⟨_, rfl⟩, .emit _ _⟩ (.of_reports reports (.count _ _ _ _ _ (by decide)))), (links l).trans (if_pos rfl), fun k other => ?_, ?_⟩
  · exact (links k).trans ((if_neg other).trans ((e.link_setLink l k _).trans (if_neg other)))
  · rw [out]
    exact List.mem_append_right _ List.mem_cons_self

/-- A CREDIT on an idle link in service goes out, and leaves the link as it was. -/
theorem Eng.creditSend_sends (e : Eng) {l : Nat} (retry : Bool) (words : List (Nat × Nat)) (en : e.fb F.RAF_CTL_EN = true)
    (active : e.linkActive l = true) (idle : (e.link l).waiting = []) :
    let w := sumBy (fun (p : Nat × (Nat × Nat)) => (p.2.1 + 16 * p.2.2) * 2 ^ (16 * p.1)) ((List.range words.length).zip words)
    e.Linked (e.creditSend l retry words) ∧ (∀ k, (e.creditSend l retry words).link k = e.link k) ∧
      ∃ g, .frame l g ∈ (e.creditSend l retry words).out ∧ g.typ = 4 ∧ g.len = 2 * words.length ∧ g.words = if words.isEmpty then [] else [w] := by
  intro w
  let g : Frame := { typ := 4, src := e.self, dst := linkPeer e.self l, arg := (e.link l).sConsumed % 65536 + 2 ^ 16 * (e.link l).recvSeq + two32 * b2n retry, len := 2 * words.length, words := if words.isEmpty then [] else [w] }
  obtain ⟨linked, here, others, out⟩ := e.linkPut_sends (f := g) en active idle rfl (show frameClass 4 ≠ 2 by decide) rfl
  refine ⟨linked, fun k => ?_, g, out, rfl, rfl, rfl⟩
  by_cases same : k = l
  · subst same
    exact here.trans (Link.sent_free _ (show frameClass 4 = 0 by decide))
  · exact others k same

/-! ### What every frame does -/

theorem Eng.linkUp_of_linkActive {e : Eng} {l : Nat} (active : e.linkActive l = true) : e.linkUp l = true := by
  unfold Eng.linkActive at active
  unfold Eng.linkUp
  rw [Bool.not_eq_true', List.isEmpty_eq_false_iff] at active ⊢
  obtain ⟨p, among⟩ := List.exists_mem_of_ne_nil _ active
  refine List.ne_nil_of_mem (a := p) ?_
  unfold Eng.lanesOf at among ⊢
  obtain ⟨low, held⟩ := List.mem_filter.mp among
  obtain ⟨st, log⟩ := Bool.and_eq_true_iff.mp held
  refine List.mem_filter.mpr ⟨low, Bool.and_eq_true_iff.mpr ⟨?_, log⟩⟩
  rw [List.contains_iff_mem, List.mem_singleton] at st
  rw [List.contains_iff_mem, st]
  decide

/-- A frame is heard on its link's lanes: what a lane is in does not change. -/
structure Eng.Hears (e e' : Eng) : Prop where
  raf : ∃ lanes, e'.raf = { e.raf with lanes }
  lanes : ∀ p, (e'.lane p).st = (e.lane p).st ∧ (e'.lane p).log = (e.lane p).log
  only : e.Only [13, 17] [] e'

theorem Eng.Hears.trans {a b c : Eng} (ab : a.Hears b) (bc : b.Hears c) : a.Hears c := by
  obtain ⟨lanes, raf⟩ := ab.raf
  obtain ⟨lanes', raf'⟩ := bc.raf
  exact ⟨⟨lanes', by rw [raf', raf]⟩, fun p => ⟨(bc.lanes p).1.trans (ab.lanes p).1, (bc.lanes p).2.trans (ab.lanes p).2⟩, ab.only.trans bc.only⟩

theorem Eng.hears_lane (e : Eng) (p : Nat) : e.Hears (e.setLane p { e.lane p with lastFrame := e.now }) :=
  ⟨⟨_, rfl⟩, fun k => by
    rw [Eng.lane_setLane]
    split
    · next same => rw [same]; exact ⟨rfl, rfl⟩
    · exact ⟨rfl, rfl⟩, .setLane _ _ _ (by decide)⟩

theorem Eng.heard_hears (e : Eng) (l : Nat) (f : Frame) : e.Hears (e.heard l f) := by
  have first : e.Hears (e.rxCount f) := ⟨⟨_, (e.rxCount_reports f).raf_eq⟩, fun p => by
    rw [Eng.lane, (e.rxCount_reports f).raf_eq]
    exact ⟨rfl, rfl⟩, .count _ _ _ _ _ (by decide)⟩
  have rest : ∀ (ps : List Nat) (y : Eng), y.Hears (ps.foldl (fun e p => e.setLane p { e.lane p with lastFrame := e.now }) y) := by
    intro ps
    induction ps with
    | nil => exact fun y => ⟨⟨_, rfl⟩, fun _ => ⟨rfl, rfl⟩, .refl _⟩
    | cons p ps ih => exact fun y => (y.hears_lane p).trans (ih _)
  exact first.trans (rest _ _)

theorem Eng.Hears.linkActive {e e' : Eng} (hears : e.Hears e') (l : Nat) : e'.linkActive l = e.linkActive l := by
  unfold Eng.linkActive
  rw [Eng.lanesOf_congr hears.lanes]

theorem Eng.Hears.link {e e' : Eng} (hears : e.Hears e') (l : Nat) : e'.link l = e.link l := by
  obtain ⟨lanes, raf⟩ := hears.raf
  unfold Eng.link
  rw [raf]

theorem Eng.rafOn_en {e : Eng} (on : e.rafOn = true) : e.fb F.RAF_CTL_EN = true := by
  rw [Eng.rafOn, Bool.and_eq_true, Bool.and_eq_true] at on
  exact on.1.1

/-- A listed frame that is no credited one is taken. -/
theorem Eng.recv_free (e : Eng) {l t : Nat} {m : RxFrame} {act : Eng → Frame → Eng} (on : e.rafOn = true) (low : l < 9)
    (active : e.linkActive l = true) (ok : rxOk m = true) (typ : (frameOf m).typ = t) (free : frameClass t = 0) :
    e.recv l t m act = act (e.heard l (frameOf m)) (frameOf m) := by
  have active' := ((e.heard_hears l (frameOf m)).linkActive l).trans active
  unfold Eng.recv
  refine (if_neg ?_).trans ((if_neg ?_).trans ((if_neg ?_).trans ((if_pos free).trans (if_pos ok))))
  · rw [on, Eng.linkUp_of_linkActive active, decide_eq_false (by omega)]
    decide
  · rw [decide_eq_false (fun h => h typ), Bool.and_false]
    decide
  · rw [active', decide_eq_true typ]
    exact Bool.false_ne_true

/-- The link has taken the frame that it expects. -/
def Eng.inSeq (e : Eng) (l : Nat) : Eng := e.setLink l { e.link l with recvSeq := ((e.link l).recvSeq + 1) % 65536, gap := false }

theorem Eng.inSeq_linked (e : Eng) (l : Nat) : e.Linked (e.inSeq l) := .setLink _ _ _

/-- A credited frame for this engine that its link expects is taken and consumed. -/
theorem Eng.recv_expected (e : Eng) {l t : Nat} {m : RxFrame} {act : Eng → Frame → Eng} (on : e.rafOn = true) (low : l < 9)
    (active : e.linkActive l = true) (ok : rxOk m = true) (typ : (frameOf m).typ = t) (credited : frameClass t ≠ 0)
    (mine : (frameOf m).dst = e.self) (next : (frameOf m).seq = (e.link l).recvSeq) :
    e.recv l t m act = (act ((e.heard l (frameOf m)).inSeq l) (frameOf m)).consumed l (frameOf m) := by
  have hears := e.heard_hears l (frameOf m)
  have active' := (hears.linkActive l).trans active
  have order : (e.heard l (frameOf m)).inOrder l (frameOf m) true = (true, (e.heard l (frameOf m)).inSeq l) := by
    unfold Eng.inOrder
    exact if_pos (by rw [hears.link, decide_eq_true next]; rfl)
  have self : ((e.heard l (frameOf m)).inSeq l).self = e.self :=
    (((e.heard l (frameOf m)).inSeq_linked l).only.self (by decide)).trans (hears.only.self (by decide))
  unfold Eng.recv
  refine (if_neg ?_).trans ((if_neg ?_).trans ((if_neg ?_).trans ((if_neg credited).trans ?_)))
  · rw [on, Eng.linkUp_of_linkActive active, decide_eq_false (by omega)]
    decide
  · rw [decide_eq_false (fun h => h typ), Bool.and_false]
    decide
  · rw [active', decide_eq_true typ]
    exact Bool.false_ne_true
  · dsimp only
    rw [ok, if_pos rfl, order]
    exact congrArg (fun y : Eng => y.consumed l (frameOf m)) (if_pos (mine.trans self.symm))

/-- An S frame that has been consumed gives its credit back. -/
theorem Eng.consumed_one (e : Eng) {l : Nat} {f : Frame} (one : frameClass f.typ = 1) (en : e.fb F.RAF_CTL_EN = true)
    (active : e.linkActive l = true) (idle : (e.link l).waiting = []) :
    e.Linked (e.consumed l f) ∧ (e.consumed l f).link l = { e.link l with sConsumed := (e.link l).sConsumed + 1 } ∧
      ∀ k, k ≠ l → (e.consumed l f).link k = e.link k := by
  let x := e.setLink l { e.link l with sConsumed := (e.link l).sConsumed + 1 }
  have linked : e.Linked x := .setLink _ _ _
  have here : x.link l = { e.link l with sConsumed := (e.link l).sConsumed + 1 } := (e.link_setLink _ _ _).trans (if_pos rfl)
  have sends := x.creditSend_sends false [] ((linked.only.fb (by decide) (by decide) (by decide)).trans en)
    ((linked.linkActive l).trans active) (by rw [here]; exact idle)
  have eq : e.consumed l f = x.creditSend l false [] := if_pos one
  rw [eq]
  exact ⟨linked.trans sends.1, (sends.2.1 l).trans here, fun k other => (sends.2.1 k).trans ((e.link_setLink _ _ _).trans (if_neg other))⟩

/-! ### CREDIT -/

/-- The frames still open, sent again. -/
def Eng.resend (e : Eng) (l : Nat) (fs : List Frame) : Eng :=
  fs.foldl (fun e g => (e.emit (.frame l g)).count 0x1014 g.bytes (if g.pidV then some g.pid else none)) e

theorem Eng.resend_sends (e : Eng) (l : Nat) (fs : List Frame) :
    e.Reports (e.resend l fs) ∧ e.Only [13, 17] [] (e.resend l fs) ∧ ∀ g ∈ fs, .frame l g ∈ (e.resend l fs).out := by
  unfold Eng.resend
  induction fs generalizing e with
  | nil => exact ⟨.refl _, .refl _, fun g none_ => absurd none_ List.not_mem_nil⟩
  | cons f fs ih =>
    have one : e.Reports ((e.emit (.frame l f)).count 0x1014 f.bytes (if f.pidV then some f.pid else none)) :=
      (Eng.Reports.emit _ _).trans (Eng.count_reports _ _ _ _ _)
    have only : e.Only [13, 17] [] ((e.emit (.frame l f)).count 0x1014 f.bytes (if f.pidV then some f.pid else none)) :=
      (Eng.Only.emit _ _).trans (.count _ _ _ _ _ (by decide))
    obtain ⟨reports, more, sent⟩ := ih ((e.emit (.frame l f)).count 0x1014 f.bytes (if f.pidV then some f.pid else none))
    refine ⟨one.trans reports, only.trans more, fun g among => ?_⟩
    rcases List.mem_cons.mp among with here | later
    · obtain ⟨l1, out1⟩ := (Eng.count_reports (e.emit (.frame l f)) 0x1014 f.bytes (if f.pidV then some f.pid else none) none).out
      obtain ⟨l2, out2⟩ := reports.out
      rw [List.foldl_cons, out2, out1, here]
      exact List.mem_append_right _ (List.mem_append_right _ List.mem_cons_self)
    · exact sent g later

/-- The credits that a CREDIT gives an `Inst`, of those that have asked. -/
theorem creditHeld (k : Link) {len : Nat} (ws : List Nat) (length : len = 0 ∨ len = 2) (j : Nat) :
    let b := if len = 2 then (ws.getD 0 0 % 16, ws.getD 0 0 % 65536 / 16) else (0, 0)
    tgetD (((creditWords len ws).filter (fun p => k.bAsked.contains p.1)).foldl (fun t p => tsetD t p.1 (tgetD t p.1 0 + p.2) 0) k.bHeld) j 0 =
      tgetD k.bHeld j 0 + (if j = b.1 ∧ j ∈ k.bAsked then b.2 else 0) := by
  intro b
  rcases length with none_ | one
  · subst none_
    have zero : (if j = b.1 ∧ j ∈ k.bAsked then b.2 else 0) = 0 := by split <;> rfl
    rw [zero]
    rfl
  · subst one
    have words : creditWords 2 ws = [b] := by
      have low : ws.getD 0 0 / 2 ^ 0 % 65536 % 16 = ws.getD 0 0 % 16 := by omega
      have high : ws.getD 0 0 / 2 ^ 0 % 65536 / 16 = ws.getD 0 0 % 65536 / 16 := by omega
      change [(ws.getD 0 0 / 2 ^ 0 % 65536 % 16, ws.getD 0 0 / 2 ^ 0 % 65536 / 16)] = [(_, _)]
      rw [low, high]
    rw [words]
    by_cases asked : b.1 ∈ k.bAsked
    · rw [List.filter_cons_of_pos (p := fun p : Nat × Nat => k.bAsked.contains p.1) (List.contains_iff_mem.mpr asked), List.filter_nil]
      refine (tgetD_tsetD _ _ _ _ _).trans ?_
      by_cases same : j = b.1
      · rw [if_pos same, if_pos ⟨same, same ▸ asked⟩, same]
      · rw [if_neg same, if_neg (fun h => same h.1)]
        rfl
    · rw [List.filter_cons_of_neg (p := fun p : Nat × Nat => k.bAsked.contains p.1) (by rw [List.contains_iff_mem]; exact asked),
        if_neg (fun h : j = b.1 ∧ j ∈ k.bAsked => asked (h.1 ▸ h.2))]
      rfl

/-- The first part of O56: CREDIT. -/
theorem credit_returns {s : State} {link : Nat} {frame : RxFrame} (up : s.boot.absent = false) (on : s.eng.rafOn = true) (low : link < 9)
    (active : s.eng.linkActive link = true) (ok : rxOk frame = true) (idle : (s.eng.link link).waiting = [])
    (typ : (frameOf frame).typ = 4) (length : (frameOf frame).len = 0 ∨ (frameOf frame).len = 2) :
    let e := s.eng
    let f := frameOf frame
    let k := e.link link
    let open_ := k.unacked.filter (fun g => decide ((g.seq + 65536 - f.arg / 2 ^ 16 % 2 ^ 16) % 65536 < 32768))
    let b := if f.len = 2 then (f.words.getD 0 0 % 16, f.words.getD 0 0 % 65536 / 16) else (0, 0)
    ∃ t, exec (.credit link frame) s = .next t ∧ (∀ l, l ≠ link → t.eng.link l = e.link l) ∧
      t.eng.link link = { k with
        sDone := min k.sSent (k.sDone + (f.arg % 65536 + 65536 - k.sDone % 65536) % 65536)
        unacked := open_, bHeld := (t.eng.link link).bHeld } ∧
      (∀ j, tgetD (t.eng.link link).bHeld j 0 = tgetD k.bHeld j 0 + (if j = b.1 ∧ j ∈ k.bAsked then b.2 else 0)) ∧
      (f.arg / 2 ^ 32 % 2 = 1 ∧ open_ ≠ [] → (∀ g ∈ open_, .frame link g ∈ t.eng.out) ∧
        t.eng.fv F.RAF_RETRY_COUNT = min (e.fv F.RAF_RETRY_COUNT + 1) (2 ^ 32 - 1)) ∧ s.Only [13, 17] [0xD084] t := by
  intro e f k open_ b
  have hears := e.heard_hears link f
  have ran : exec (.credit link frame) s = .next (s.withEng ((e.heard link f).creditTake link f)) := by
    change execCredit link frame s = _
    rw [execCredit, live_up up, e.recv_free on low active ok typ (by decide)]
  generalize e.heard link f = h at ran hears
  let held := ((creditWords f.len f.words).filter (fun p => k.bAsked.contains p.1)).foldl (fun t p => tsetD t p.1 (tgetD t p.1 0 + p.2) 0) k.bHeld
  let k' : Link := { k with sDone := min k.sSent (k.sDone + (f.arg % 65536 + 65536 - k.sDone % 65536) % 65536), unacked := open_, bHeld := held }
  let x := h.setLink link k'
  have xLinked : h.Linked x := .setLink _ _ _
  have xLink : x.link link = k' := (h.link_setLink _ _ _).trans (if_pos rfl)
  have xOthers : ∀ l, l ≠ link → x.link l = e.link l := fun l other => (h.link_setLink _ _ _).trans ((if_neg other).trans (hears.link l))
  have xActive : x.linkActive link = true := (xLinked.linkActive link).trans ((hears.linkActive link).trans active)
  have xOnly : e.Only [13, 17] [0xD084] x := (hears.only.trans xLinked.only).weaken (by decide) (by decide)
  let sentAgain := bitOf f.arg 32 && !open_.isEmpty && x.linkActive link
  have took : h.creditTake link f = Eng.flush (if sentAgain then (x.resend link open_).bump F.RAF_RETRY_COUNT else x) link := by
    have arg : bitsOf f.arg 15 0 = f.arg % 65536 := by
      rw [bitsOf, Nat.pow_zero, Nat.div_one]
      rfl
    unfold Eng.creditTake
    rw [hears.link, arg]
    rfl
  obtain ⟨reports, rOnly, resent⟩ := x.resend_sends link open_
  have rLink : ∀ l, (x.resend link open_).link l = x.link l := fun l => congrArg (fun r : Raf => tgetD r.links l {}) reports.raf_eq
  have count : (x.resend link open_).fv F.RAF_RETRY_COUNT = e.fv F.RAF_RETRY_COUNT := by
    have r1 := reports.regs 0xD084 0 (by decide) (by decide)
    have r2 := (hears.only.trans xLinked.only).regs 0xD084 0 (by decide) (by decide) (by decide) (fun stall => absurd stall (by decide))
    exact congrArg (fun w : Word => bitsOf w.toNat 31 0) (r1.trans r2)
  have next : ∀ z : Eng, (z.link link).waiting = [] → h.creditTake link f = z.flush link → h.creditTake link f = z := fun z none_ eq =>
    eq.trans (z.flush_idle none_)
  have waiting : k'.waiting = [] := idle
  have bit : bitOf f.arg 32 = decide (f.arg / 2 ^ 32 % 2 = 1) := rfl
  by_cases again : f.arg / 2 ^ 32 % 2 = 1 ∧ open_ ≠ []
  · have yes : sentAgain = true := by
      change (bitOf f.arg 32 && !open_.isEmpty && x.linkActive link) = true
      rw [bit, decide_eq_true again.1, xActive, List.isEmpty_eq_false_iff.mpr again.2]
      rfl
    rw [if_pos yes] at took
    have done := next _ (by change ((x.resend link open_).link link).waiting = []; rw [rLink, xLink]; exact waiting) took
    rw [done] at ran
    have here : ((x.resend link open_).bump F.RAF_RETRY_COUNT).link link = k' := (rLink link).trans xLink
    refine ⟨_, ran, fun l other => (rLink l).trans (xOthers l other), ?_, fun j => ?_, fun _ => ⟨resent, ?_⟩,
      .withEng (xOnly.trans ((rOnly.weaken (by decide) (by decide)).trans (.bump _ _ _ _ (by decide) (by decide))))⟩
    · change ((x.resend link open_).bump F.RAF_RETRY_COUNT).link link = { k with
        sDone := _, unacked := _, bHeld := (((x.resend link open_).bump F.RAF_RETRY_COUNT).link link).bHeld }
      rw [here]
    · change tgetD (((x.resend link open_).bump F.RAF_RETRY_COUNT).link link).bHeld j 0 = _
      rw [here]
      exact creditHeld k f.words length j
    · exact (Eng.fv_bump_same _ _ _ _ rfl rfl).trans (by rw [count])
  · have no : sentAgain = false := by
      change (bitOf f.arg 32 && !open_.isEmpty && x.linkActive link) = false
      rw [bit, xActive, Bool.and_true, Bool.and_eq_false_iff]
      rcases not_and_or.mp again with bitOff | none_
      · exact .inl (decide_eq_false bitOff)
      · rw [not_not.mp none_]
        exact .inr rfl
    rw [if_neg (by rw [no]; decide)] at took
    have done := next _ (by rw [xLink]; exact waiting) took
    rw [done] at ran
    refine ⟨_, ran, xOthers, ?_, fun j => ?_, fun yes => absurd yes again, .withEng xOnly⟩
    · change x.link link = { k with sDone := _, unacked := _, bHeld := (x.link link).bHeld }
      rw [xLink]
    · change tgetD (x.link link).bHeld j 0 = _
      rw [xLink]
      exact creditHeld k f.words length j

/-! ### CREDIT_REQ and CREDIT_RETURN -/

/-- A link that has taken the frame that it expects. -/
def Link.next (k : Link) : Link := { k with recvSeq := (k.recvSeq + 1) % 65536, gap := false }

/-- What an expected S frame finds: the link brought forward, and in service as it was. -/
theorem Eng.inSeq_finds (e : Eng) (l : Nat) (f : Frame) (on : e.rafOn = true) :
    let x := (e.heard l f).inSeq l
    x.link l = (e.link l).next ∧ (∀ k, k ≠ l → x.link k = e.link k) ∧ e.Only [13, 17] [] x ∧ x.fb F.RAF_CTL_EN = true ∧
      (∀ k, x.linkActive k = e.linkActive k) ∧ x.self = e.self ∧ ∃ lanes links, x.raf = { e.raf with lanes, links } := by
  intro x
  have hears := e.heard_hears l f
  have linked := (e.heard l f).inSeq_linked l
  have only : e.Only [13, 17] [] x := hears.only.trans linked.only
  obtain ⟨lanes, raf⟩ := hears.raf
  obtain ⟨links, raf'⟩ := linked.raf
  refine ⟨?_, fun k other => ?_, only, (only.fb (by decide) (by decide) (by decide)).trans (Eng.rafOn_en on),
    fun k => (linked.linkActive k).trans (hears.linkActive k), only.self (by decide), lanes, links, raf'.trans (by rw [raf])⟩
  · refine ((Eng.link_setLink _ _ _ _).trans (if_pos rfl)).trans ?_
    rw [hears.link]
    rfl
  · exact ((Eng.link_setLink _ _ _ _).trans (if_neg other)).trans (hears.link k)

/-- The second part of O56: CREDIT_REQ. -/
theorem creditReq_grants {s : State} {link : Nat} {frame : RxFrame} (up : s.boot.absent = false) (on : s.eng.rafOn = true) (low : link < 9)
    (active : s.eng.linkActive link = true) (ok : rxOk frame = true) (idle : (s.eng.link link).waiting = []) (asks : (s.eng.link link).bAsks = [])
    (typ : (frameOf frame).typ = 5) (mine : (frameOf frame).dst = s.eng.self) (next : (frameOf frame).seq = (s.eng.link link).recvSeq) :
    let e := s.eng
    let f := frameOf frame
    let k := e.link link
    let i := f.arg % 16
    let n := f.arg / 16 % 16
    1 ≤ n → n ≤ 8 → n ≤ k.bFree →
      ∃ t g, exec (.creditReq link frame) s = .next t ∧ (∀ l, l ≠ link → t.eng.link l = e.link l) ∧ .frame link g ∈ t.eng.out ∧ g.typ = 4 ∧ g.len = 2 ∧
        g.words = [i + 16 * n] ∧ t.eng.link link = { k with
          recvSeq := (k.recvSeq + 1) % 65536, gap := false, sConsumed := k.sConsumed + 1, bFree := k.bFree - n
          bGiven := tsetD k.bGiven i (tgetD k.bGiven i 0 + n) 0 } ∧ s.Only [13, 17] [] t := by
  intro e f k i n least most free
  obtain ⟨here, others, only, en, act, -, -⟩ := e.inSeq_finds link f on
  have ran : exec (.creditReq link frame) s = .next (s.withEng ((grantHolds (((e.heard link f).inSeq link).setLink link
      { ((e.heard link f).inSeq link).link link with bAsks := [(i, n)] }) link [(i, n)]).consumed link f)) := by
    change execCreditReq link frame s = _
    rw [execCreditReq, live_up up, e.recv_expected on low active ok typ (by decide) mine next]
    refine congrArg (fun y : Eng => Host.Outcome.next (s.withEng (y.consumed link f))) ((if_neg ?_).trans ?_)
    · change ¬(n = 0 ∨ 8 < n)
      omega
    · have none_ : (((e.heard link f).inSeq link).link link).bAsks = [] := by rw [here]; exact asks
      dsimp only
      rw [none_]
      rfl
  generalize (e.heard link f).inSeq link = x at ran here others only en act
  let a := x.setLink link { x.link link with bAsks := [(i, n)] }
  have aLink : ∀ l, a.link l = if l = link then { k.next with bAsks := [(i, n)] } else x.link l := fun l => by
    rw [← here]
    exact x.link_setLink _ _ _
  have aHere : a.link link = { k.next with bAsks := [(i, n)] } := (aLink link).trans (if_pos rfl)
  let k' : Link := { k.next with bFree := k.bFree - n, bGiven := tsetD k.bGiven i (tgetD k.bGiven i 0 + n) 0 }
  let y := a.setLink link k'
  have granted : grantHolds a link [(i, n)] = y.creditSend link false [(i, n)] := by
    have all : min n (a.link link).bFree = n := by
      rw [aHere]
      exact Nat.min_eq_left free
    have asked : (a.link link).bAsks = [(i, n)] := by rw [aHere]
    rw [grantHolds, asked]
    dsimp only
    rw [all, if_neg (by omega), if_pos rfl, aHere, grantHolds]
    refine congrArg (fun z : Link => (a.setLink link z).creditSend link false [(i, n)]) ?_
    change ({ k.next with bFree := k.bFree - n, bGiven := tsetD k.bGiven i (tgetD k.bGiven i 0 + n) 0, bAsks := [] } : Link) = k'
    rw [← asks]
    rfl
  have yHere : y.link link = k' := (a.link_setLink _ _ _).trans (if_pos rfl)
  have yOthers : ∀ l, l ≠ link → y.link l = e.link l := fun l other =>
    (a.link_setLink _ _ _).trans ((if_neg other).trans ((aLink l).trans ((if_neg other).trans (others l other))))
  have yLinked : x.Linked y := (Eng.Linked.setLink _ _ _).trans (.setLink _ _ _)
  have yEn : y.fb F.RAF_CTL_EN = true := (yLinked.only.fb (by decide) (by decide) (by decide)).trans en
  have yActive : y.linkActive link = true := (yLinked.linkActive link).trans ((act link).trans active)
  have yIdle : (y.link link).waiting = [] := by
    rw [yHere]
    exact idle
  change exec (.creditReq link frame) s = .next (s.withEng ((grantHolds a link [(i, n)]).consumed link f)) at ran
  rw [granted] at ran
  obtain ⟨zLinked, zLink, g, sent, typ', len, words⟩ := y.creditSend_sends false [(i, n)] yEn yActive yIdle
  generalize y.creditSend link false [(i, n)] = z at ran zLinked zLink sent
  obtain ⟨cLinked, cHere, cOthers⟩ := z.consumed_one (f := f) (l := link) (by rw [show f.typ = 5 from typ]; decide)
    ((zLinked.only.fb (by decide) (by decide) (by decide)).trans yEn) ((zLinked.linkActive link).trans yActive) (by rw [zLink]; exact yIdle)
  obtain ⟨more, out⟩ := cLinked.only.out
  refine ⟨_, g, ran, fun l other => (cOthers l other).trans ((zLink l).trans (yOthers l other)), ?_, typ', len, ?_, ?_,
    .withEng (only.trans (yLinked.only.trans (zLinked.only.trans cLinked.only)))⟩
  · change Out.frame link g ∈ (z.consumed link f).out
    rw [out]
    exact List.mem_append_right _ sent
  · rw [words]
    exact congrArg (fun m => [m]) (by change 0 + (i + 16 * n) * 2 ^ (16 * 0) = _; omega)
  · refine cHere.trans ?_
    rw [zLink, yHere]
    rfl

/-- The third part of O56: CREDIT_RETURN. -/
theorem creditReturn_frees {s : State} {link : Nat} {frame : RxFrame} (up : s.boot.absent = false) (on : s.eng.rafOn = true) (low : link < 9)
    (active : s.eng.linkActive link = true) (ok : rxOk frame = true) (idle : (s.eng.link link).waiting = []) (asks : (s.eng.link link).bAsks = [])
    (typ : (frameOf frame).typ = 6) (mine : (frameOf frame).dst = s.eng.self) (next : (frameOf frame).seq = (s.eng.link link).recvSeq) :
    let e := s.eng
    let k := e.link link
    let i := (frameOf frame).arg % 16
    ∃ t, exec (.creditReturn link frame) s = .next t ∧ (∀ l, l ≠ link → t.eng.link l = e.link l) ∧
      t.eng.link link = { k with
        recvSeq := (k.recvSeq + 1) % 65536, gap := false, sConsumed := k.sConsumed + 1
        bFree := k.bFree + tgetD k.bGiven i 0, bGiven := tdel k.bGiven i } ∧ s.Only [13, 17] [] t := by
  intro e k i
  obtain ⟨here, others, only, en, act, -, -⟩ := e.inSeq_finds link (frameOf frame) on
  let k' : Link := { k.next with bFree := k.bFree + tgetD k.bGiven i 0, bGiven := tdel k.bGiven i }
  have ran : exec (.creditReturn link frame) s = .next (s.withEng ((((e.heard link (frameOf frame)).inSeq link).setLink link k').consumed link (frameOf frame))) := by
    change execCreditReturn link frame s = _
    rw [execCreditReturn, live_up up, e.recv_expected on low active ok typ (by decide) mine next]
    refine congrArg (fun y : Eng => Host.Outcome.next (s.withEng (y.consumed link (frameOf frame)))) ?_
    have filtered : (k.next.bAsks.filter (fun a => decide (a.1 ≠ i))) = k.bAsks := by
      change k.bAsks.filter _ = k.bAsks
      rw [asks]
      rfl
    dsimp only
    rw [here, filtered, asks, grantHolds]
    refine congrArg (Eng.setLink _ link) ?_
    rw [← asks]
    rfl
  generalize (e.heard link (frameOf frame)).inSeq link = x at ran here others only en act
  have yLinked : x.Linked (x.setLink link k') := .setLink _ _ _
  have yHere : (x.setLink link k').link link = k' := (x.link_setLink _ _ _).trans (if_pos rfl)
  obtain ⟨cLinked, cHere, cOthers⟩ := (x.setLink link k').consumed_one (f := frameOf frame) (l := link) (by rw [typ]; decide)
    ((yLinked.only.fb (by decide) (by decide) (by decide)).trans en) ((yLinked.linkActive link).trans ((act link).trans active))
    (by rw [yHere]; exact idle)
  refine ⟨_, ran, fun l other => (cOthers l other).trans ((x.link_setLink _ _ _).trans ((if_neg other).trans (others l other))), ?_,
    .withEng (only.trans (yLinked.only.trans cLinked.only))⟩
  refine cHere.trans ?_
  rw [yHere]
  rfl

/-! ### PEER_LOST -/

theorem Eng.OnLink.linkActive {e e' : Eng} {l : Nat} (on : e.OnLink l e') (k : Nat) : e'.linkActive k = e.linkActive k := by
  obtain ⟨links, raf⟩ := on.raf
  unfold Eng.linkActive Eng.lanesOf Eng.lane
  rw [raf]

/-- PEER_LOST on one link. -/
def Eng.floodOn (e : Eng) (src c t : Nat) (except : Option Nat) (l : Nat) : Eng :=
  if except = some l || !e.linkActive l then e
  else e.linkPut l { typ := 7, src, dst := linkPeer e.self l, arg := c + 256 * (t % 2 ^ 56) }

theorem Eng.floodOn_onLink (e : Eng) (src c t : Nat) (except : Option Nat) (l : Nat) : e.OnLink l (e.floodOn src c t except l) := by
  unfold Eng.floodOn
  split
  · exact .refl _ _
  · exact .linkPut _ _ _

/-- The loss goes out on every other link in service that is idle and has a credit. -/
theorem flood_sends (src c t : Nat) (except : Option Nat) (ls : List Nat) (nodup : ls.Nodup) (e : Eng) (en : e.fb F.RAF_CTL_EN = true) :
    let z := ls.foldl (fun e l => e.floodOn src c t except l) e
    (∃ links, z.raf = { e.raf with links }) ∧ (∀ k, k ∉ ls ∨ except = some k → z.link k = e.link k) ∧ e.Only [12, 13, 17] [] z ∧
      ∀ l ∈ ls, except ≠ some l → e.linkActive l = true → (e.link l).waiting = [] → (e.link l).sSent < (e.link l).sDone + 48 →
        ∃ g, .frame l g ∈ z.out ∧ g.typ = 7 ∧ g.src = src ∧ g.dst = linkPeer e.self l ∧ g.arg = c + 256 * (t % 2 ^ 56) := by
  induction ls generalizing e with
  | nil => exact ⟨⟨_, rfl⟩, fun _ _ => rfl, .refl _, fun l none_ => absurd none_ List.not_mem_nil⟩
  | cons l ls ih =>
    obtain ⟨fresh, nodup'⟩ := List.nodup_cons.mp nodup
    have one := e.floodOn_onLink src c t except l
    have self : (e.floodOn src c t except l).self = e.self := one.only.self (by decide)
    obtain ⟨⟨links', raf'⟩, others, only, sent⟩ := ih nodup' (e.floodOn src c t except l) ((one.only.fb (by decide) (by decide) (by decide)).trans en)
    obtain ⟨links, raf⟩ := one.raf
    refine ⟨⟨links', raf'.trans (by rw [raf])⟩, fun k out => ?_, one.only.trans only, fun k among allowed active idle credit => ?_⟩
    · have later : k ∉ ls ∨ except = some k := out.imp_left (fun h => fun within => h (List.mem_cons_of_mem _ within))
      refine (others k later).trans ?_
      by_cases same : k = l
      · subst same
        have stays : e.floodOn src c t except k = e :=
          if_pos (by rw [decide_eq_true (out.resolve_left (fun h => h List.mem_cons_self))]; rfl)
        rw [stays]
      · exact one.others k same
    · rcases List.mem_cons.mp among with here | later
      · subst here
        let g : Frame := { typ := 7, src, dst := linkPeer e.self k, arg := c + 256 * (t % 2 ^ 56) }
        have puts : e.floodOn src c t except k = e.linkPut k g := if_neg (by rw [decide_eq_false allowed, active]; decide)
        have out := (e.linkPut_sends (f := g) en active idle rfl (show frameClass 7 ≠ 2 by decide) (decide_eq_true credit)).2.2.2
        obtain ⟨more, grown⟩ := only.out
        rw [puts] at grown
        refine ⟨(e.link k).numbered g, ?_, rfl, rfl, rfl, rfl⟩
        rw [List.foldl_cons, puts, grown]
        exact List.mem_append_right _ out
      · have apart : k ≠ l := fun same => fresh (same ▸ later)
        obtain ⟨g, out, typ, from_, dst, arg⟩ := sent k later allowed ((one.linkActive k).trans active) (by rw [one.others k apart]; exact idle)
          (by rw [one.others k apart]; exact credit)
        exact ⟨g, out, typ, from_, by rw [dst, self], arg⟩

theorem mem_sinsert_self (l : List Nat) (x : Nat) : x ∈ sinsert l x := (mem_sinsert l x x).mpr (.inl rfl)

/-- A loss that is new is noted. -/
def Eng.lossNoted (e : Eng) (c t : Nat) : Eng :=
  { e with raf := { e.raf with
    lost := sinsert e.raf.lost c, plans := e.raf.plans.filter (fun p => decide (p.1 ≠ c)), seenLost := e.raf.seenLost ++ [(c, t)] } }

/-- What the loss of a chip does to the instances that it takes part in, and to the buddies. -/
def Eng.chipGone (e : Eng) (c : Nat) : Eng :=
  let e := e.activeInsts.foldl (fun (e : Eng) i =>
    let x := e.inst i
    if x.lead && x.chips.contains c then
      ((e.declareLost i).discardComp i).raiseP 0x00A5 13 x.owner (c + 256 * i + 2 ^ 12) (some i)
    else if !x.lead && decide (x.leadChip = c) then e.leadGone i
    else e) e
  let e := if e.ras.sled.chip = some c then e.buddyLost false else e
  if e.ras.ring.chip = some c then e.buddyLost true else e

theorem Eng.learnLost_eq (e : Eng) (c t : Nat) : e.learnLost c t =
    if e.raf.lost.contains c ∨ c = e.self then { e with raf := { e.raf with seenLost := e.raf.seenLost ++ [(c, t)] } }
    else (if (e.lossNoted c t).raf.mapLoaded then (e.lossNoted c t).selectParent else e.lossNoted c t).chipGone c := rfl

theorem Eng.chipGone_bare (e : Eng) (c : Nat) (none_ : ∀ i, i < 16 → (e.inst i).active = false) (sled : e.ras.sled.chip = none)
    (ring : e.ras.ring.chip = none) : e.chipGone c = e := by
  have empty : e.activeInsts = [] := List.eq_nil_iff_forall_not_mem.mpr (fun i among => by
    obtain ⟨low, on⟩ := (Eng.mem_activeInsts e i).mp among
    rw [none_ i low] at on
    cases on)
  unfold Eng.chipGone
  rw [empty, List.foldl_nil]
  dsimp only
  have noSled : ¬e.ras.sled.chip = some c := by rw [sled]; exact nofun
  have noRing : ¬e.ras.ring.chip = some c := by rw [ring]; exact nofun
  rw [if_neg noSled]
  exact if_neg noRing

/-- The loss of a chip, learnt where no `Inst`, no map and no buddy stands. -/
theorem Eng.learnLost_bare (e : Eng) {c : Nat} (t : Nat) (none_ : ∀ i, i < 16 → (e.inst i).active = false) (map : e.raf.mapLoaded = false)
    (sled : e.ras.sled.chip = none) (ring : e.ras.ring.chip = none) (other : c ≠ e.self) :
    ∃ lost plans, e.learnLost c t = { e with raf := { e.raf with lost, plans, seenLost := e.raf.seenLost ++ [(c, t)] } } ∧ c ∈ lost := by
  rw [Eng.learnLost_eq]
  by_cases known : e.raf.lost.contains c = true
  · exact ⟨e.raf.lost, e.raf.plans, if_pos (.inl known), List.contains_iff_mem.mp known⟩
  · refine ⟨sinsert e.raf.lost c, e.raf.plans.filter (fun p => decide (p.1 ≠ c)), (if_neg (fun h => h.elim known other)).trans ?_, mem_sinsert_self e.raf.lost c⟩
    have unloaded : (e.lossNoted c t).raf.mapLoaded = false := map
    rw [if_neg (by rw [unloaded]; decide)]
    exact Eng.chipGone_bare _ c none_ sled ring

/-- The last part of O56: PEER_LOST. -/
theorem peerLost_forwards {s : State} {link : Nat} {frame : RxFrame} (up : s.boot.absent = false) (on : s.eng.rafOn = true) (low : link < 9)
    (active : s.eng.linkActive link = true) (ok : rxOk frame = true) (idle : (s.eng.link link).waiting = [])
    (typ : (frameOf frame).typ = 7) (mine : (frameOf frame).dst = s.eng.self) (next : (frameOf frame).seq = (s.eng.link link).recvSeq)
    (none_ : ∀ j, j < 16 → (s.eng.inst j).active = false) (map : s.eng.raf.mapLoaded = false) (sled : s.eng.ras.sled.chip = none)
    (ring : s.eng.ras.ring.chip = none) :
    let e := s.eng
    let f := frameOf frame
    let k := e.link link
    let c := f.arg % 64
    let at_ := f.arg / 2 ^ 8 % 2 ^ 56
    c ≠ e.self → (c, at_) ∉ e.raf.seenLost →
      ∃ t, exec (.peerLost link frame) s = .next t ∧ c ∈ t.eng.raf.lost ∧ (c, at_) ∈ t.eng.raf.seenLost ∧
        (∀ l, l < 9 → l ≠ link → e.linkActive l = true → (e.link l).waiting = [] → (e.link l).sSent < (e.link l).sDone + 48 →
          ∃ g, .frame l g ∈ t.eng.out ∧ g.typ = 7 ∧ g.src = f.src ∧ g.dst = linkPeer e.self l ∧ g.arg = c + 256 * at_) ∧
        t.eng.link link = { k with recvSeq := (k.recvSeq + 1) % 65536, gap := false, sConsumed := k.sConsumed + 1 } ∧ s.Only [12, 13, 17] [] t := by
  intro e f k c at_ other fresh
  obtain ⟨here, others, only, en, act, self, lanes, links, raf⟩ := e.inSeq_finds link f on
  have ran : exec (.peerLost link frame) s = .next (s.withEng (((((e.heard link f).inSeq link).flood f.src c at_ (some link)).learnLost c at_).consumed link f)) := by
    change execPeerLost link frame s = _
    rw [execPeerLost, live_up up, e.recv_expected on low active ok typ (by decide) mine next]
    refine congrArg (fun y : Eng => Host.Outcome.next (s.withEng (y.consumed link f))) (if_neg ?_)
    change ¬((e.heard link f).inSeq link).raf.seenLost.contains (c, at_) = true
    rw [raf, List.contains_iff_mem]
    exact fresh
  generalize (e.heard link f).inSeq link = x at ran here others only en act self raf
  obtain ⟨⟨links', zRaf⟩, zLinks, zOnly, sent⟩ := flood_sends f.src c at_ (some link) linkRange List.nodup_range x en
  change exec _ s = .next (s.withEng (((linkRange.foldl (fun e l => e.floodOn f.src c at_ (some link) l) x).learnLost c at_).consumed link f)) at ran
  generalize linkRange.foldl (fun e l => e.floodOn f.src c at_ (some link) l) x = z at ran zRaf zLinks zOnly sent
  have zSelf : z.self = e.self := (zOnly.self (by decide)).trans self
  have cmp : z.cmp = e.cmp := (zOnly.parts 4 (by decide)).trans (only.parts 4 (by decide))
  have ras : z.ras = e.ras := (zOnly.parts 16 (by decide)).trans (only.parts 16 (by decide))
  have zActive : z.linkActive link = true := by
    have same : z.linkActive link = x.linkActive link := by
      unfold Eng.linkActive Eng.lanesOf Eng.lane
      rw [zRaf]
    exact same.trans ((act link).trans active)
  obtain ⟨lost, plans, learnt, among⟩ := z.learnLost_bare at_ (c := c) (fun i li => (congrArg (fun m : Cmp => (tgetD m.insts i {}).active) cmp).trans (none_ i li))
    (by rw [zRaf, raf]; exact map) (by rw [ras]; exact sled) (by rw [ras]; exact ring) (by rw [zSelf]; exact other)
  have yOnly : z.Only [12, 13, 17] [] (z.learnLost c at_) := by
    rw [learnt]
    exact .setRaf _ _ (by decide)
  have yRaf : (z.learnLost c at_).raf = { z.raf with lost, plans, seenLost := z.raf.seenLost ++ [(c, at_)] } := by rw [learnt]
  have yLink : (z.learnLost c at_).link link = k.next := by
    rw [Eng.link, yRaf]
    exact (zLinks link (.inr rfl)).trans here
  have yOut : (z.learnLost c at_).out = z.out := by rw [learnt]
  have yEn : (z.learnLost c at_).fb F.RAF_CTL_EN = true :=
    (yOnly.fb (by decide) (by decide) (by decide)).trans ((zOnly.fb (by decide) (by decide) (by decide)).trans en)
  have yActive : (z.learnLost c at_).linkActive link = true := by
    have same : (z.learnLost c at_).linkActive link = z.linkActive link := by
      unfold Eng.linkActive Eng.lanesOf Eng.lane
      rw [yRaf]
    exact same.trans zActive
  generalize z.learnLost c at_ = y at ran yOnly yRaf yLink yOut yEn yActive
  obtain ⟨cLinked, cHere, -⟩ := y.consumed_one (f := f) (l := link) (by rw [show f.typ = 7 from typ]; decide) yEn yActive (by rw [yLink]; exact idle)
  obtain ⟨links'', cRaf⟩ := cLinked.raf
  obtain ⟨more, cOut⟩ := cLinked.only.out
  refine ⟨_, ran, ?_, ?_, fun l ll apart live_ quiet credit => ?_, cHere.trans (by rw [yLink]; rfl),
    .withEng ((only.weaken (by decide) (by decide)).trans (zOnly.trans (yOnly.trans (cLinked.only.weaken (by decide) (by decide)))))⟩
  · change c ∈ (y.consumed link f).raf.lost
    rw [cRaf, yRaf]
    exact among
  · change (c, at_) ∈ (y.consumed link f).raf.seenLost
    rw [cRaf, yRaf]
    exact List.mem_append_right _ (List.mem_singleton_self _)
  · obtain ⟨g, out, typ', from_, dst, arg⟩ := sent l (List.mem_range.mpr ll) (fun same => apart (Option.some.inj same).symm) ((act l).trans live_)
      (by rw [others l apart]; exact quiet) (by rw [others l apart]; exact credit)
    refine ⟨g, ?_, typ', from_, by rw [dst, self], by rw [arg, Nat.mod_eq_of_lt (Nat.mod_lt _ (Nat.two_pow_pos _))]⟩
    change Out.frame l g ∈ (y.consumed link f).out
    rw [cOut, yOut]
    exact List.mem_append_right _ out

/-- Settles O56: each frame of credits, and PEER_LOST. -/
theorem linkCredits : Obligations.LinkCredits := by
  intro link frame s up on low active ok idle asks e f k rest i n given took expected open_ again b c at_
  exact ⟨fun typ length => credit_returns up on low active ok idle typ length,
    fun typ ⟨mine, next⟩ least most free => creditReq_grants up on low active ok idle asks typ mine next least most free,
    fun typ ⟨mine, next⟩ => creditReturn_frees up on low active ok idle asks typ mine next,
    fun typ ⟨mine, next⟩ none_ map sled ring other fresh => peerLost_forwards up on low active ok idle typ mine next none_ map sled ring other fresh⟩

end Sys2Proof.Machine
end

section
/-!
Frames of peers about steps, freezes and the Shelver (O57).
-/
namespace Sys2Proof.Machine

/-! ### What a consumed frame and a frame that is sent leave -/

theorem Eng.OnLink.creditSend (e : Eng) (l : Nat) (retry : Bool) (words : List (Nat × Nat)) : e.OnLink l (e.creditSend l retry words) := .linkPut _ _ _

theorem Eng.OnLink.consumed (e : Eng) (l : Nat) (f : Frame) : e.OnLink l (e.consumed l f) := by
  unfold Eng.consumed
  dsimp only
  split
  · exact (Eng.OnLink.setLink _ _ _).trans (.creditSend _ _ _ _)
  · split
    · split
      · exact .creditSend _ _ _ _
      · exact .refl _ _
    · exact .refl _ _

/-- A frame that this engine sends touches, in Rafter and Keeper, the links and what is charged alone. -/
structure Eng.Sends (e e' : Eng) : Prop where
  raf : ∃ links, e'.raf = { e.raf with links }
  kpr : ∃ parts, e'.kpr = { e.kpr with parts }
  only : e.Only [1, 12, 13, 17] [] e'

theorem Eng.Sends.refl (e : Eng) : e.Sends e := ⟨⟨_, rfl⟩, ⟨_, rfl⟩, .refl _⟩

theorem Eng.Sends.trans {a b c : Eng} (ab : a.Sends b) (bc : b.Sends c) : a.Sends c := by
  obtain ⟨links, raf⟩ := ab.raf
  obtain ⟨links', raf'⟩ := bc.raf
  obtain ⟨parts, kpr⟩ := ab.kpr
  obtain ⟨parts', kpr'⟩ := bc.kpr
  exact ⟨⟨links', by rw [raf', raf]⟩, ⟨parts', by rw [kpr', kpr]⟩, ab.only.trans bc.only⟩

theorem Eng.OnLink.sends {e e' : Eng} {l : Nat} (on : e.OnLink l e') : e.Sends e' := ⟨on.raf, on.kpr, on.only.weaken (by decide) (by decide)⟩

theorem Eng.Sends.of_reports {e e' : Eng} (reports : e.Reports e') : e.Sends e' :=
  ⟨⟨_, reports.raf_eq⟩, ⟨_, reports.kpr_eq⟩, .of_reports reports (by decide) (by decide)⟩

theorem Eng.Sends.sendVia (e : Eng) (f : Frame) (up : Bool) : e.Sends (e.sendVia f up) := by
  unfold Eng.sendVia
  split
  · exact .refl _
  · split
    · exact (Eng.OnLink.linkPut _ _ _).sends
    · exact .of_reports (Eng.raiseE_reports _ _ _ _ _)

theorem Eng.Sends.sendInst (e : Eng) (i : Nat) (f : Frame) : e.Sends (e.sendInst i f) := .sendVia _ _ _

theorem Eng.Sends.foldl {α : Type} (l : List α) (f : Eng → α → Eng) (each : ∀ (e : Eng) x, e.Sends (f e x)) (e : Eng) : e.Sends (l.foldl f e) := by
  induction l generalizing e with
  | nil => exact .refl _
  | cons x l ih => exact (each e x).trans (ih _)

/-! ### Frames that run -/

/-- The hypotheses on a credited frame for this engine that its link expects. -/
structure Expected (s : State) (link : Nat) (frame : RxFrame) : Prop where
  up : s.boot.absent = false
  on : s.eng.rafOn = true
  low : link < 9
  active : s.eng.linkActive link = true
  ok : rxOk frame = true
  mine : (frameOf frame).dst = s.eng.self
  next : (frameOf frame).seq = (s.eng.link link).recvSeq

/-- What the act of such a frame finds: the engine but for its lanes, its links and what is counted. -/
structure Eng.Finds (e x : Eng) : Prop where
  raf : ∃ lanes links, x.raf = { e.raf with lanes, links }
  only : e.Only [13, 17] [] x

theorem Eng.Finds.inst {e x : Eng} (finds : e.Finds x) (i : Nat) : x.inst i = e.inst i :=
  congrArg (fun c : Cmp => tgetD c.insts i {}) (finds.only.parts 4 (by decide))

theorem Eng.Finds.followed {e x : Eng} (finds : e.Finds x) (c i : Nat) : x.followed c i = e.followed c i := by
  have cmp : x.cmp = e.cmp := finds.only.parts 4 (by decide)
  unfold Eng.followed Eng.activeInsts Eng.inst
  rw [cmp]

theorem Eng.Finds.bcastGet {e x : Eng} (finds : e.Finds x) (c i n : Nat) : x.bcastGet c i n = e.bcastGet c i n := by
  obtain ⟨lanes, links, raf⟩ := finds.raf
  unfold Eng.bcastGet
  rw [raf]

theorem Eng.Finds.now {e x : Eng} (finds : e.Finds x) : x.now = e.now := finds.only.parts 0 (by decide)

/-- A credited frame for this engine runs its act, and is consumed. -/
theorem exec_frame {s : State} {link t : Nat} {frame : RxFrame} {act : Eng → Frame → Eng} {c : Instr} (hyp : Expected s link frame)
    (typ : (frameOf frame).typ = t) (credited : frameClass t ≠ 0) (runs : exec c s = live s (fun e => e.recv link t frame act)) :
    ∃ x, s.eng.Finds x ∧ exec c s = .next (s.withEng ((act x (frameOf frame)).consumed link (frameOf frame))) := by
  obtain ⟨-, -, only, -, -, -, raf⟩ := s.eng.inSeq_finds link (frameOf frame) hyp.on
  refine ⟨_, ⟨raf, only⟩, ?_⟩
  rw [runs, live_up hyp.up, s.eng.recv_expected hyp.on hyp.low hyp.active hyp.ok typ credited hyp.mine hyp.next]

/-! ### Broadcasts kept -/

/-- The broadcast that is put is the one found. -/
theorem Eng.bcastGet_bcastPut_same (e : Eng) (b : Bcast) : (e.bcastPut b).bcastGet b.src b.inst b.step = b := by
  have none_ : (e.raf.bcasts.filter (fun x => decide (x.src ≠ b.src ∨ x.inst ≠ b.inst ∨ b.step < x.step))).find?
      (fun x => decide (x.src = b.src ∧ x.inst = b.inst ∧ x.step = b.step)) = none := by
    refine List.find?_eq_none.mpr (fun x among same => ?_)
    have kept := of_decide_eq_true (List.mem_filter.mp among).2
    obtain ⟨src, inst, step⟩ := of_decide_eq_true same
    omega
  change (((_ : List Bcast) ++ [b]).find? _).getD _ = b
  rw [List.find?_append, none_, List.find?_cons_of_pos (p := fun x : Bcast => decide (x.src = b.src ∧ x.inst = b.inst ∧ x.step = b.step)) (decide_eq_true ⟨rfl, rfl, rfl⟩)]
  rfl

/-- A broadcast of another `Inst` stays. -/
theorem Eng.bcastGet_bcastPut_ne (e : Eng) (b : Bcast) {y z : Nat} (other : y ≠ b.src ∨ z ≠ b.inst) (n : Nat) :
    (e.bcastPut b).bcastGet y z n = e.bcastGet y z n := by
  have kept : (e.raf.bcasts.filter (fun x => decide (x.src ≠ b.src ∨ x.inst ≠ b.inst ∨ b.step < x.step))).find?
      (fun x => decide (x.src = y ∧ x.inst = z ∧ x.step = n)) = e.raf.bcasts.find? (fun x => decide (x.src = y ∧ x.inst = z ∧ x.step = n)) := by
    rw [List.find?_filter]
    refine congrArg (fun p => List.find? p e.raf.bcasts) (funext (fun x => ?_))
    refine decide_eq_decide.mpr ⟨fun h => of_decide_eq_true h.2, fun h => ⟨decide_eq_true ?_, decide_eq_true h⟩⟩
    obtain ⟨src, inst, -⟩ := h
    omega
  have away : [b].find? (fun x => decide (x.src = y ∧ x.inst = z ∧ x.step = n)) = none := by
    refine List.find?_eq_none.mpr (fun x among same => ?_)
    rw [List.mem_singleton.mp among] at same
    obtain ⟨src, inst, -⟩ := of_decide_eq_true same
    omega
  change (((_ : List Bcast) ++ [b]).find? _).getD _ = _
  rw [List.find?_append, kept, away, Option.or_none]
  rfl

theorem Eng.bcastGet_key (e : Eng) (c i n : Nat) : (e.bcastGet c i n).src = c ∧ (e.bcastGet c i n).inst = i ∧ (e.bcastGet c i n).step = n := by
  unfold Eng.bcastGet
  cases here : e.raf.bcasts.find? (fun x => decide (x.src = c ∧ x.inst = i ∧ x.step = n)) with
  | none => exact ⟨rfl, rfl, rfl⟩
  | some b => exact of_decide_eq_true (List.find?_some (p := fun x : Bcast => decide (x.src = c ∧ x.inst = i ∧ x.step = n)) here)

theorem Bcast.take_key (b : Bcast) (m seg : Nat) (last : Bool) (w : List Nat) :
    (b.take m seg last w).src = b.src ∧ (b.take m seg last w).inst = b.inst ∧ (b.take m seg last w).step = b.step := by
  unfold Bcast.take
  split
  · exact ⟨rfl, rfl, rfl⟩
  · exact ⟨rfl, rfl, rfl⟩

/-- A segment leaves a whole broadcast whole. -/
theorem Bcast.whole_take (b : Bcast) (m seg : Nat) (last : Bool) (w : List Nat) (whole : b.whole = true) : (b.take m seg last w).whole = true := by
  unfold Bcast.take
  split
  · exact whole
  · unfold Bcast.whole at whole ⊢
    rw [List.all_eq_true] at whole ⊢
    intro k among
    have held := whole k among
    dsimp only at held ⊢
    rw [List.any_append, held, Bool.true_or]

/-- The first part of O57: a segment of a step. -/
theorem stepBcast_keeps {s : State} {link i : Nat} {frame : RxFrame} (hyp : Expected s link frame) (typ : (frameOf frame).typ = 0x10) :
    let e := s.eng
    let f := frameOf frame
    let step := f.arg % 2 ^ 48
    let b := e.bcastGet f.src f.inst step
    let b' := b.take (f.arg / 2 ^ 48 % 8) (f.arg / 2 ^ 52 % 2 ^ 12) (decide (f.arg / 2 ^ 51 % 2 = 1)) f.words
    e.followed f.src f.inst = some i → bcastNext e.self f.src (e.inst i).chips = [] → b.dead = false → b.hdr = [] ∨ e.now < b.hdr.getD 2 0 →
      b'.whole = false →
      ∃ t, exec (.stepBcast link frame) s = .next t ∧ t.eng.bcastGet f.src f.inst step = b' ∧
        (∀ y z, y ≠ f.src ∨ z ≠ f.inst → ∀ n, t.eng.bcastGet y z n = e.bcastGet y z n) ∧ s.Only [12, 13, 17] [] t := by
  intro e f step b b' follows last alive open_ part
  obtain ⟨x, finds, ran⟩ := exec_frame hyp typ (by decide) (c := .stepBcast link frame) rfl
  have self : x.self = e.self := finds.only.self (by decide)
  have pass : x.passOn link f = [] := by
    have chips : x.frameChips f = (e.inst i).chips := by
      unfold Eng.frameChips
      have here : decide (f.typ = 0x11 ∨ f.typ = 0x18 ∧ f.words.headD 0 % 16 = 9) = false := decide_eq_false (fun h => by
        rw [show f.typ = 0x10 from typ] at h
        omega)
      rw [here]
      change (match x.followed f.src f.inst with | some i => (x.inst i).chips | none => _) = _
      rw [finds.followed, follows]
      exact congrArg Inst.chips (finds.inst i)
    unfold Eng.passOn
    dsimp only
    rw [chips, self, last]
    split
    · rfl
    · exact ite_self _
  have kept : x.segTake i f = x.bcastPut b' := by
    have notWhole : b.whole = false := Bool.eq_false_iff.mpr (fun whole => by
      rw [b.whole_take _ _ _ _ whole] at part
      cases part)
    have soon : decide (b.hdr ≠ [] ∧ b.hdr.getD 2 0 ≤ x.now) = false := by
      rw [finds.now]
      refine decide_eq_false (fun h => ?_)
      rcases open_ with empty | ahead
      · exact h.1 empty
      · exact absurd h.2 (Nat.not_le.mpr ahead)
    unfold Eng.segTake
    rw [finds.bcastGet]
    refine (if_neg ?_).trans ?_
    · change ¬(b.dead || b.whole || decide (b.hdr ≠ [] ∧ b.hdr.getD 2 0 ≤ x.now)) = true
      rw [alive, notWhole, soon]
      decide
    · refine if_neg ?_
      change ¬b'.whole = true
      rw [part]
      decide
  have ran' : exec (.stepBcast link frame) s = .next (s.withEng ((x.bcastPut b').consumed link f)) := by
    rw [ran]
    have forward : x.forward link f = x := by
      unfold Eng.forward
      rw [pass]
      rfl
    refine congrArg (fun y : Eng => Host.Outcome.next (s.withEng (y.consumed link f))) ?_
    change (match (x.forward link f).followed f.src f.inst with | some i => (x.forward link f).segTake i f | none => x.forward link f) = _
    rw [forward, finds.followed, follows]
    exact kept
  have consumed := Eng.OnLink.consumed (x.bcastPut b') link f
  obtain ⟨links, raf⟩ := consumed.raf
  have get : ∀ y z n, ((x.bcastPut b').consumed link f).bcastGet y z n = (x.bcastPut b').bcastGet y z n := fun y z n => by
    unfold Eng.bcastGet
    rw [raf]
  obtain ⟨src, inst, num⟩ := e.bcastGet_key f.src f.inst step
  obtain ⟨src', inst', num'⟩ := b.take_key (f.arg / 2 ^ 48 % 8) (f.arg / 2 ^ 52 % 2 ^ 12) (decide (f.arg / 2 ^ 51 % 2 = 1)) f.words
  refine ⟨_, ran', (get _ _ _).trans ?_, fun y z other n => (get y z n).trans (Eq.trans ?_ (finds.bcastGet y z n)),
    .withEng ((finds.only.weaken (by decide) (by decide)).trans ((Eng.Only.setRaf _ _ (by decide)).trans consumed.only))⟩
  · have same := x.bcastGet_bcastPut_same b'
    rw [show b'.src = f.src from src'.trans src, show b'.inst = f.inst from inst'.trans inst, show b'.step = step from num'.trans num] at same
    exact same
  · refine x.bcastGet_bcastPut_ne b' ?_ n
    rw [show b'.src = f.src from src'.trans src, show b'.inst = f.inst from inst'.trans inst]
    exact other

/-! ### STEP_LATE -/

theorem oinsert_last {α : Type} (le : α → α → Bool) (x : α) (l : List α) (all : ∀ y ∈ l, le y x = true) : oinsert le x l = l ++ [x] := by
  induction l with
  | nil => rfl
  | cons y l ih =>
    rw [oinsert, if_pos (all y List.mem_cons_self), ih (fun z hz => all z (List.mem_cons_of_mem _ hz))]
    rfl

/-- Slots carried in their order stand in it. -/
theorem foldl_carry (l : List Slot) (x : Inst) (order : (x.carried ++ l).Pairwise (fun a b => a.carriedLe b = true)) :
    l.foldl Inst.carry x = { x with carried := x.carried ++ l } := by
  induction l generalizing x with
  | nil => rw [List.foldl_nil, List.append_nil]
  | cons y l ih =>
    have last : oinsert Slot.carriedLe y x.carried = x.carried ++ [y] :=
      oinsert_last _ _ _ (fun z hz => (List.pairwise_append.mp order).2.2 z hz y List.mem_cons_self)
    have step : x.carry y = { x with carried := x.carried ++ [y] } := by rw [Inst.carry, last]
    rw [List.foldl_cons, step, ih _ (by rw [List.append_assoc]; exact order), List.append_assoc]
    rfl

/-- A step's slots with their places in it, those that have committed left out. -/
def Step.lostSlots (st : Step) : List Slot :=
  (((List.range st.slots.length).zip st.slots).map (fun p => { p.2 with lostStep := st.num, lostIdx := p.1 })).filter
    (fun (y : Slot) => !(y.done && !y.lost))

theorem Step.lostSlots_ordered (st : Step) : st.lostSlots.Pairwise (fun a b => a.carriedLe b = true) := by
  refine List.Pairwise.filter _ (List.pairwise_map.mpr ?_)
  have places : ((List.range st.slots.length).zip st.slots).Pairwise (fun a b => a.1 ≤ b.1) := by
    have firsts : (((List.range st.slots.length).zip st.slots).map Prod.fst).Pairwise (· ≤ ·) := by
      rw [List.map_fst_zip (by rw [List.length_range])]
      exact List.pairwise_le_range
    exact List.pairwise_map.mp firsts
  exact places.imp (fun {a b} le => by
    unfold Slot.carriedLe
    exact Bool.or_eq_true_iff.mpr (.inr (decide_eq_true ⟨rfl, le⟩)))

theorem Eng.reapSlots_live (e : Eng) (live : ∀ k r, e.rc k = some r → r.live = true) (l : List Slot) : e.reapSlots l = e := by
  have one : ∀ k, e.reap k = e := fun k => by
    unfold Eng.reap
    cases here : e.rc k with
    | none => rfl
    | some r => exact if_pos (by rw [live k r here]; rfl)
  have inner : ∀ ks : List Nat, ks.foldl (fun e s => e.reap s) e = e := by
    intro ks
    induction ks with
    | nil => rfl
    | cons k ks ih => rw [List.foldl_cons, one, ih]
  unfold Eng.reapSlots
  induction l with
  | nil => rfl
  | cons x l ih => rw [List.foldl_cons, inner, ih]

theorem Eng.inst_replaced (e : Eng) (i j : Nat) (x : Inst) : (e.setInst i x).inst j = if j = i then x else e.inst j := tgetD_tsetD _ _ _ _ _

theorem Eng.giveTrigger_inst (e : Eng) (i k : Nat) : (e.giveTrigger i).inst k = if k = i then { e.inst i with trig := ((e.giveTrigger i).inst i).trig } else e.inst k := by
  unfold Eng.giveTrigger
  dsimp only
  split
  · rw [Eng.inst_replaced, Eng.inst_replaced, if_pos rfl]
  · split
    · next same => rw [same]
    · rfl

/-- An `Inst` that loses its step carries its slots. -/
def Inst.lose (st : Step) (x : Inst) : Inst :=
  (st.lostSlots.filter (fun (y : Slot) => !(x.carried.any (fun (z : Slot) => decide (z.lslot = y.lslot))))).foldl Inst.carry { x with step := none }

theorem Inst.lose_fresh (st : Step) {x : Inst} (none_ : x.carried = []) : x.lose st = { x with step := none, carried := st.lostSlots } := by
  have fresh : st.lostSlots.filter (fun (y : Slot) => !(x.carried.any (fun (z : Slot) => decide (z.lslot = y.lslot)))) = st.lostSlots := by
    rw [none_]
    exact List.filter_eq_self.mpr (fun _ _ => rfl)
  rw [Inst.lose, fresh, foldl_carry _ _ (by rw [none_]; exact st.lostSlots_ordered), none_]
  rfl

/-- What a lost step gives back, once the array is told and its time charged. -/
def Eng.lossEnds (e : Eng) (i : Nat) (st : Step) : Eng :=
  (((st.slots.filter (fun (x : Slot) => x.done && !x.lost)).foldl (fun e (x : Slot) => e.unpinSlot x) (e.modInst i (Inst.lose st))).leaveEndStep i st.num)

theorem Eng.stepLost_eq (e : Eng) {i : Nat} {st : Step} (here : (e.inst i).step = some st) (bare : (e.inst i).comp = none) (bins : e.bin.entries = []) :
    e.stepLost i = ((((((((e.tell (.discardStep i st.num)).chargeStep i st).clearToks i).clearRows i).lossEnds i st).reapSlots st.slots).giveTrigger i).pointLater).quiesceCheck := by
  rw [Eng.stepLost, here]
  dsimp only
  rw [Eng.binPurge_none (e.tell (.discardStep i st.num)) bins, Eng.discardComp_none (e.tell (.discardStep i st.num)) bare]
  rfl

/-- A lead's step that is lost is told to the array, and its slots are carried. -/
theorem Eng.stepLost_carries (e : Eng) {i : Nat} {st : Step} (here : (e.inst i).step = some st) (bare : (e.inst i).comp = none)
    (none_ : (e.inst i).carried = []) (bins : e.bin.entries = []) (live : ∀ k r, e.rc k = some r → r.live = true) (calm : e.ras.quiescing = false) :
    .array (.discardStep i st.num) ∈ (e.stepLost i).out ∧ ((e.stepLost i).inst i).step = none ∧ ((e.stepLost i).inst i).carried = st.lostSlots ∧
      (∀ j, j ≠ i → (e.stepLost i).inst j = e.inst j) ∧ e.Only [4, 6, 8, 10, 12] [] (e.stepLost i) := by
  rw [e.stepLost_eq here bare bins]
  have charged : (e.tell (.discardStep i st.num)).Only [8, 10, 12] []
      ((((e.tell (.discardStep i st.num)).chargeStep i st).clearToks i).clearRows i) :=
    ((Eng.Only.chargeStep _ i st (by decide)).trans (.setKpr _ _ (by decide))).trans (.clearRows _ i (by decide) (by decide))
  generalize (((e.tell (.discardStep i st.num)).chargeStep i st).clearToks i).clearRows i = b at *
  have insts : ∀ k, b.inst k = e.inst k := fun k => congrArg (fun c : Cmp => tgetD c.insts k {}) (charged.parts 4 (by decide))
  have cInst : ∀ k, (b.modInst i (Inst.lose st)).inst k = if k = i then { e.inst i with step := none, carried := st.lostSlots } else e.inst k := fun k => by
    rw [Eng.inst_modInst b i k, insts, insts, Inst.lose_fresh st none_]
  have freed : (b.modInst i (Inst.lose st)).Only [6, 12] [] (b.lossEnds i st) :=
    Eng.Only.trans (.foldl _ _ (fun y x _ => .unpinSlot y x (by decide)) _) (.setKpr _ _ (by decide))
  have carried : b.Only [4] [] (b.modInst i (Inst.lose st)) := .setCmp b _ (by decide)
  have dInst : ∀ k, (b.lossEnds i st).inst k = (b.modInst i (Inst.lose st)).inst k := fun k =>
    congrArg (fun c : Cmp => tgetD c.insts k {}) (freed.parts 4 (by decide))
  have ended : (e.tell (.discardStep i st.num)).Only [4, 6, 8, 10, 12] [] (b.lossEnds i st) :=
    ((charged.weaken (by decide) (by decide)).trans (carried.weaken (by decide) (by decide))).trans (freed.weaken (by decide) (by decide))
  generalize b.lossEnds i st = d at *
  have led : d.led = e.led := ended.parts 2 (by decide)
  rw [d.reapSlots_live (fun k r => by rw [Eng.rc, led]; exact live k r)]
  have trigger : d.Only [4] [] (d.giveTrigger i) := .giveTrigger d i (by decide)
  have gInst := d.giveTrigger_inst i
  generalize d.giveTrigger i = g at *
  have still : g.pointLater.quiesceCheck = g.pointLater := if_pos (by
    have ras : g.pointLater.ras = e.ras := (trigger.parts 16 (by decide)).trans (ended.parts 16 (by decide))
    rw [ras, calm]
    rfl)
  rw [still]
  have whole : e.Only [4, 6, 8, 10, 12] [] g.pointLater :=
    (Eng.Only.tell e _).trans (ended.trans ((trigger.weaken (by decide) (by decide)).trans (.setKpr _ _ (by decide))))
  obtain ⟨more, out⟩ := (ended.trans (trigger.weaken (by decide) (by decide))).out
  have own : g.inst i = { d.inst i with trig := (g.inst i).trig } := (gInst i).trans (if_pos rfl)
  have mine : d.inst i = { e.inst i with step := none, carried := st.lostSlots } := (dInst i).trans ((cInst i).trans (if_pos rfl))
  refine ⟨?_, ?_, ?_, fun j other => ?_, whole⟩
  · change _ ∈ g.out
    rw [out]
    exact List.mem_append_right _ List.mem_cons_self
  · change (g.inst i).step = none
    rw [own, mine]
  · change (g.inst i).carried = _
    rw [own, mine]
  · exact (gInst j).trans ((if_neg other).trans ((dInst j).trans ((cInst j).trans (if_neg other))))

/-- The second part of O57: the lead declares a step lost. -/
theorem stepLate_declares {s : State} {link i : Nat} {st : Step} {frame : RxFrame} (hyp : Expected s link frame) (typ : (frameOf frame).typ = 0x11) :
    let e := s.eng
    let f := frameOf frame
    let x := e.inst i
    i = f.inst → x.active = true → x.lead = true → x.step = some st → st.num % 2 ^ 48 = f.arg % 2 ^ 48 → x.comp = none →
      x.carried = [] → e.bin.entries = [] → (∀ k r, e.rc k = some r → r.live = true) → e.ras.quiescing = false →
      ∃ t, exec (.stepLate link frame) s = .next t ∧ .array (.discardStep i st.num) ∈ t.eng.out ∧ (t.eng.inst i).step = none ∧
        (t.eng.inst i).carried = st.lostSlots ∧ (∀ j, j ≠ i → t.eng.inst j = e.inst j) ∧ s.Only [1, 4, 6, 8, 10, 12, 13, 17] [] t := by
  intro e f x own on lead step num bare none_ bins live calm
  obtain ⟨y, finds, ran⟩ := exec_frame hyp typ (by decide) (c := .stepLate link frame) rfl
  have inst : ∀ k, y.inst k = e.inst k := finds.inst
  have declares : exec (.stepLate link frame) s = .next (s.withEng ((y.declareLost i).consumed link f)) := by
    rw [ran]
    refine congrArg (fun z : Eng => Host.Outcome.next (s.withEng (z.consumed link f))) ?_
    have here : y.inst f.inst = x := (inst f.inst).trans (congrArg e.inst own.symm)
    change (match (y.inst f.inst).step with
      | some st => if (y.inst f.inst).active && (y.inst f.inst).lead && decide (st.num % 2 ^ 48 = f.arg % 2 ^ 48) then y.declareLost f.inst else y
      | none => y) = _
    rw [here, step, on, lead, ← own]
    exact if_pos (decide_eq_true num)
  have told : y.declareLost i = (((y.others i).foldl (fun e c => e.sendInst i { typ := 0x12, dst := c, arg := st.num % 2 ^ 48 }) y).trace
      { kind := 7, inst := i, pid := (((y.others i).foldl (fun e c => e.sendInst i { typ := 0x12, dst := c, arg := st.num % 2 ^ 48 }) y).inst i).owner, pidV := true, status := 0x3F, sib := 0x3F, step := st.num, arg := 0x3FFF + 2 ^ 16 * 4 }).stepLost i := by
    unfold Eng.declareLost
    rw [inst, show (e.inst i).step = some st from step]
  rw [told] at declares
  have sends : y.Sends ((y.others i).foldl (fun e c => e.sendInst i { typ := 0x12, dst := c, arg := st.num % 2 ^ 48 }) y) :=
    .foldl _ _ (fun e c => .sendInst e i _) y
  generalize (y.others i).foldl (fun e c => e.sendInst i { typ := 0x12, dst := c, arg := st.num % 2 ^ 48 }) y = a at declares sends
  have traced := Eng.trace_reports a { kind := 7, inst := i, pid := (a.inst i).owner, pidV := true, status := 0x3F, sib := 0x3F, step := st.num, arg := 0x3FFF + 2 ^ 16 * 4 }
  generalize a.trace { kind := 7, inst := i, pid := (a.inst i).owner, pidV := true, status := 0x3F, sib := 0x3F, step := st.num, arg := 0x3FFF + 2 ^ 16 * 4 } = b at declares traced
  have only : e.Only [1, 4, 6, 8, 10, 12, 13, 17] [] b := (finds.only.weaken (by decide) (by decide)).trans
    ((sends.only.weaken (by decide) (by decide)).trans (.of_reports traced (by decide) (by decide)))
  have parts : b.cmp = e.cmp ∧ b.bin = e.bin ∧ b.led = e.led ∧ b.ras = e.ras :=
    ⟨traced.cmp_eq.trans ((sends.only.parts 4 (by decide)).trans (finds.only.parts 4 (by decide))),
      traced.bin_eq.trans ((sends.only.parts 11 (by decide)).trans (finds.only.parts 11 (by decide))),
      traced.led_eq.trans ((sends.only.parts 2 (by decide)).trans (finds.only.parts 2 (by decide))),
      traced.ras_eq.trans ((sends.only.parts 16 (by decide)).trans (finds.only.parts 16 (by decide)))⟩
  obtain ⟨cmp, bin, led, ras⟩ := parts
  have bInst : ∀ k, b.inst k = e.inst k := fun k => congrArg (fun c : Cmp => tgetD c.insts k {}) cmp
  obtain ⟨out, gone, carried, others, lost⟩ := b.stepLost_carries (i := i) (st := st) (by rw [bInst]; exact step) (by rw [bInst]; exact bare)
    (by rw [bInst]; exact none_) (by rw [bin]; exact bins) (fun k r => by rw [Eng.rc, led]; exact live k r) (by rw [ras]; exact calm)
  generalize b.stepLost i = c at declares out gone carried others lost
  have consumed := Eng.OnLink.consumed c link f
  have cInst : ∀ k, (c.consumed link f).inst k = c.inst k := fun k => congrArg (fun c : Cmp => tgetD c.insts k {}) (consumed.only.parts 4 (by decide))
  obtain ⟨more, grown⟩ := consumed.only.out
  refine ⟨_, declares, ?_, (congrArg Inst.step (cInst i)).trans gone, (congrArg Inst.carried (cInst i)).trans carried,
    fun j other => (cInst j).trans ((others j other).trans (bInst j)),
    .withEng (only.trans ((lost.weaken (by decide) (by decide)).trans (consumed.only.weaken (by decide) (by decide))))⟩
  change _ ∈ (c.consumed link f).out
  rw [grown]
  exact List.mem_append_right _ out

/-! ### STEP_ABORT, FREEZE and SHELVER -/

theorem Eng.Only.setPend {us offs : List Nat} (e : Eng) (pend : List (Nat × Word × Nat)) (held : List (Nat × Nat × Word)) (edges : 18 ∈ us) :
    e.Only us offs { e with pend, held } :=
  .of_parts rfl rfl (fun u out => by unfold Eng.partSame; split <;> simp_all)

theorem Eng.Only.closeWindow {us offs : List Nat} (e : Eng) (i : Nat) (composer : 4 ∈ us) (edges : 18 ∈ us) : e.Only us offs (e.closeWindow i) :=
  (Eng.Only.setCmp e _ composer).trans (.setPend _ _ _ edges)

/-- The third part of O57: a follower's step is discarded. -/
theorem stepAbort_discards {s : State} {link i : Nat} {st : Step} {frame : RxFrame} (hyp : Expected s link frame) (typ : (frameOf frame).typ = 0x12) :
    let e := s.eng
    let f := frameOf frame
    let step := f.arg % 2 ^ 48
    let x := e.inst i
    e.followed f.src f.inst = some i → x.step = some st → st.num % 2 ^ 48 = step → e.bin.entries = [] →
      ∃ t, exec (.stepAbort link frame) s = .next t ∧ .array (.discardStep i st.num) ∈ t.eng.out ∧
        t.eng.inst i = { x with step := none, win := false } ∧ (∀ j, j ≠ i → t.eng.inst j = e.inst j) ∧ (t.eng.bcastGet f.src f.inst step).dead = true ∧
        s.Only [4, 6, 12, 13, 17, 18] [] t := by
  intro e f step x follows held num bins
  obtain ⟨y, finds, ran⟩ := exec_frame hyp typ (by decide) (c := .stepAbort link frame) rfl
  let dead : Bcast := { y.bcastGet f.src f.inst step with dead := true }
  let a := y.bcastPut dead
  have aInst : ∀ k, a.inst k = e.inst k := finds.inst
  have aBins : a.bin.entries = [] := (congrArg Bin.entries (finds.only.parts 11 (by decide))).trans bins
  let freed := st.slots.foldl (fun (e : Eng) z => e.unpinSlot z) ((a.tell (.discardStep i st.num)).modInst i (fun x => { x with step := none }))
  have discards : exec (.stepAbort link frame) s = .next (s.withEng ((freed.closeWindow i).consumed link f)) := by
    rw [ran]
    refine congrArg (fun z : Eng => Host.Outcome.next (s.withEng (z.consumed link f))) ?_
    change (match y.followed f.src f.inst with | some i => y.abort i f.src f.inst step | none => y) = _
    rw [finds.followed, follows]
    have any : (a.inst i).step.any (fun st => decide (st.num % 2 ^ 48 = step)) = true := by
      rw [aInst, show (e.inst i).step = some st from held]
      exact decide_eq_true num
    have stepDiscard : a.stepDiscard i = freed := by
      unfold Eng.stepDiscard
      rw [aInst, show (e.inst i).step = some st from held]
      dsimp only
      rw [Eng.binPurge_none (a.tell (.discardStep i st.num)) aBins]
    rw [← stepDiscard]
    exact if_pos any
  have mod : a.Only [4] [] ((a.tell (.discardStep i st.num)).modInst i (fun x => { x with step := none })) :=
    (Eng.Only.tell a (.discardStep i st.num)).trans (.setCmp (a.tell (.discardStep i st.num)) _ (by decide))
  have modInst : ∀ k, ((a.tell (.discardStep i st.num)).modInst i (fun x => { x with step := none })).inst k =
      if k = i then { e.inst i with step := none } else e.inst k := fun k => by
    refine (Eng.inst_modInst _ i k _).trans ?_
    change (if k = i then { a.inst i with step := none } else a.inst k) = _
    rw [aInst, aInst]
  have told : .array (.discardStep i st.num) ∈ ((a.tell (.discardStep i st.num)).modInst i (fun x => { x with step := none })).out := List.mem_cons_self
  have unpinned : ((a.tell (.discardStep i st.num)).modInst i (fun x => { x with step := none })).Only [6] [] freed :=
    .foldl _ _ (fun y z _ => .unpinSlot y z (by decide)) _
  have fRaf : freed.raf = a.raf := (unpinned.parts 13 (by decide)).trans (mod.parts 13 (by decide))
  have fInst : ∀ k, freed.inst k = if k = i then { e.inst i with step := none } else e.inst k := fun k =>
    (congrArg (fun c : Cmp => tgetD c.insts k {}) (unpinned.parts 4 (by decide))).trans (modInst k)
  have fOnly : a.Only [4, 6] [] freed := (mod.weaken (by decide) (by decide)).trans (unpinned.weaken (by decide) (by decide))
  have fOut : .array (.discardStep i st.num) ∈ freed.out := by
    obtain ⟨more, grown⟩ := unpinned.out
    rw [grown]
    exact List.mem_append_right _ told
  generalize freed = g at *
  have closed : g.Only [4, 18] [] (g.closeWindow i) := .closeWindow g i (by decide) (by decide)
  have cInst : ∀ k, (g.closeWindow i).inst k = if k = i then { e.inst i with step := none, win := false } else e.inst k := fun k => by
    refine (Eng.inst_modInst g i k (fun x => { x with win := false })).trans ?_
    rw [fInst, fInst, if_pos rfl]
    split
    · rfl
    · rfl
  have cRaf : (g.closeWindow i).raf = a.raf := fRaf
  have cOut : (g.closeWindow i).out = g.out := rfl
  generalize g.closeWindow i = z at *
  have consumed := Eng.OnLink.consumed z link f
  obtain ⟨links, raf⟩ := consumed.raf
  obtain ⟨more, grown⟩ := consumed.only.out
  have zInst : ∀ k, (z.consumed link f).inst k = z.inst k := fun k => congrArg (fun c : Cmp => tgetD c.insts k {}) (consumed.only.parts 4 (by decide))
  refine ⟨_, discards, ?_, (zInst i).trans ((cInst i).trans (if_pos rfl)), fun j other => (zInst j).trans ((cInst j).trans (if_neg other)), ?_,
    .withEng ((finds.only.weaken (by decide) (by decide)).trans ((Eng.Only.setRaf y _ (by decide)).trans ((fOnly.weaken (by decide) (by decide)).trans
      ((closed.weaken (by decide) (by decide)).trans (consumed.only.weaken (by decide) (by decide))))))⟩
  · change _ ∈ (z.consumed link f).out
    rw [grown, cOut]
    exact List.mem_append_right _ fOut
  · have get : (z.consumed link f).bcastGet f.src f.inst step = a.bcastGet f.src f.inst step := by
      unfold Eng.bcastGet
      rw [raf, cRaf]
    obtain ⟨src, inst, num'⟩ := y.bcastGet_key f.src f.inst step
    have same := y.bcastGet_bcastPut_same dead
    rw [show dead.src = f.src from src, show dead.inst = f.inst from inst, show dead.step = step from num'] at same
    change ((z.consumed link f).bcastGet f.src f.inst step).dead = true
    rw [get, same]

/-- The fourth part of O57: FREEZE. -/
theorem freeze_halts {s : State} {link i : Nat} {frame : RxFrame} (hyp : Expected s link frame) (typ : (frameOf frame).typ = 0x13) :
    let e := s.eng
    let f := frameOf frame
    e.followed f.src f.inst = some i →
      ∃ t, exec (.freeze link frame) s = .next t ∧ .array (.halt i (max f.arg e.now)) ∈ t.eng.out ∧
        t.eng.ctx i = { e.ctx i with state := 1, freeze := true, halted := false, haltAt := some (max f.arg e.now) } ∧
        (∀ j, j ≠ i → t.eng.ctx j = e.ctx j) ∧ s.Only [12, 13, 17] [] t := by
  intro e f follows
  obtain ⟨y, finds, ran⟩ := exec_frame hyp typ (by decide) (c := .freeze link frame) rfl
  have kpr : y.kpr = e.kpr := finds.only.parts 12 (by decide)
  let halt : Ctx → Ctx := fun c => { c with state := 1, freeze := true, halted := false, haltAt := some (max f.arg e.now) }
  have halts : exec (.freeze link frame) s = .next (s.withEng (((y.modCtx i halt).tell (.halt i (max f.arg e.now))).consumed link f)) := by
    rw [ran]
    refine congrArg (fun z : Eng => Host.Outcome.next (s.withEng (z.consumed link f))) ?_
    change (match y.followed f.src f.inst with
      | some i => (y.modCtx i (fun c => { c with state := 1, freeze := true, halted := false, haltAt := some (max f.arg y.now) })).tell (.halt i (max f.arg y.now))
      | none => y) = _
    rw [finds.followed, follows, finds.now]
  have ctxs : ∀ k, ((y.modCtx i halt).tell (.halt i (max f.arg e.now))).ctx k = if k = i then halt (e.ctx i) else e.ctx k := fun k => by
    refine (Eng.ctx_modCtx y i halt k).trans ?_
    unfold Eng.ctx
    rw [kpr]
  have only : y.Only [12, 13, 17] [] ((y.modCtx i halt).tell (.halt i (max f.arg e.now))) := (Eng.Only.modCtx _ _ _ (by decide)).trans (.tell _ _)
  have out : .array (.halt i (max f.arg e.now)) ∈ ((y.modCtx i halt).tell (.halt i (max f.arg e.now))).out := List.mem_cons_self
  generalize (y.modCtx i halt).tell (.halt i (max f.arg e.now)) = z at halts ctxs only out
  have consumed := Eng.OnLink.consumed z link f
  obtain ⟨parts, kpr'⟩ := consumed.kpr
  obtain ⟨more, grown⟩ := consumed.only.out
  have zCtx : ∀ k, (z.consumed link f).ctx k = z.ctx k := fun k => by
    unfold Eng.ctx
    rw [kpr']
  refine ⟨_, halts, ?_, (zCtx i).trans ((ctxs i).trans (if_pos rfl)), fun j other => (zCtx j).trans ((ctxs j).trans (if_neg other)),
    .withEng ((finds.only.weaken (by decide) (by decide)).trans (only.trans consumed.only))⟩
  change _ ∈ (z.consumed link f).out
  rw [grown]
  exact List.mem_append_right _ out

theorem Eng.fmap_fput (e : Eng) (i rqid sib : Nat) (m : SMap) : (e.fput i rqid sib m).fmap i rqid sib = some m := by
  change Option.map (fun x => x.2.2.2) (List.find? _ ((i, rqid, sib, m) :: _)) = _
  rw [List.find?_cons_of_pos (p := fun x : Nat × Nat × Nat × SMap => decide (x.1 = i ∧ x.2.1 = rqid ∧ x.2.2.1 = sib)) (decide_eq_true ⟨rfl, rfl, rfl⟩)]
  rfl

/-- The last part of O57: the record of a match starts a sibling's map. -/
theorem shelver_matches {s : State} {link i : Nat} {frame : RxFrame} (hyp : Expected s link frame) (typ : (frameOf frame).typ = 0x18) :
    let e := s.eng
    let f := frameOf frame
    e.followed f.src f.inst = some i → f.words.length = 4 → (shvRecOf f.words).kind = 1 →
      let r := shvRecOf f.words
      ∃ t node, exec (.shelver link frame) s = .next t ∧ t.eng.fmap i r.rqid 0 = some { resv := r.a, matching := true, root := some node } ∧
        (∀ y, y ∈ t.eng.shv.fdir ↔ y = (i, r.rqid, 0, { resv := r.a, matching := true, root := some node }) ∨
          (y ∈ e.shv.fdir ∧ ¬ (y.1 = i ∧ y.2.1 = r.rqid ∧ y.2.2.1 = 0))) ∧ s.Only [6, 12, 13, 17] [] t := by
  intro e f follows length kind r
  obtain ⟨y, finds, ran⟩ := exec_frame hyp typ (by decide) (c := .shelver link frame) rfl
  let m : SMap := { resv := r.a, matching := true, root := some y.newNode }
  have one : shvRecs f.words f.words = [r] := by
    obtain ⟨a, b, c, d, words⟩ : ∃ a b c d, f.words = [a, b, c, d] := by
      match f.words, length with
      | [a, b, c, d], _ => exact ⟨a, b, c, d, rfl⟩
    change shvRecs f.words f.words = [shvRecOf f.words]
    rw [words]
    rfl
  have starts : exec (.shelver link frame) s = .next (s.withEng (((y.fput i r.rqid 0 m).nodesCount 1 0).consumed link f)) := by
    rw [ran]
    refine congrArg (fun z : Eng => Host.Outcome.next (s.withEng (z.consumed link f))) ?_
    change (shvRecs f.words f.words).foldl _ y = _
    rw [one, List.foldl_cons, List.foldl_nil, if_neg (by rw [show r.kind = 1 from kind]; decide), finds.followed, follows]
    change y.shvApply i r = _
    unfold Eng.shvApply
    rw [show r.kind = 1 from kind]
    rfl
  have consumed := Eng.OnLink.consumed ((y.fput i r.rqid 0 m).nodesCount 1 0) link f
  have shv : (((y.fput i r.rqid 0 m).nodesCount 1 0).consumed link f).shv = ((y.fput i r.rqid 0 m).nodesCount 1 0).shv := consumed.only.parts 6 (by decide)
  have shvY : y.shv = e.shv := finds.only.parts 6 (by decide)
  refine ⟨_, y.newNode, starts, ?_, fun z => ?_, .withEng ((finds.only.weaken (by decide) (by decide)).trans
    (.trans (b := (y.fput i r.rqid 0 m).nodesCount 1 0) (.trans (b := y.fput i r.rqid 0 m) (.setShv _ _ (by decide)) (.setShv _ _ (by decide))) (consumed.only.weaken (by decide) (by decide))))⟩
  · change (((y.fput i r.rqid 0 m).nodesCount 1 0).consumed link f).fmap i r.rqid 0 = _
    unfold Eng.fmap
    rw [shv]
    exact y.fmap_fput i r.rqid 0 m
  · change z ∈ (((y.fput i r.rqid 0 m).nodesCount 1 0).consumed link f).shv.fdir ↔ _
    rw [shv]
    change z ∈ (i, r.rqid, 0, m) :: y.shv.fdir.filter (fun x => !decide (x.1 = i ∧ x.2.1 = r.rqid ∧ x.2.2.1 = 0)) ↔ _
    rw [List.mem_cons, List.mem_filter, shvY, Bool.not_eq_true', decide_eq_false_iff_not]

/-- Settles O57: each frame. -/
theorem peerFramesOfSteps : Obligations.PeerFramesOfSteps := by
  intro link i st frame s up on low active ok e f x step b b' insts again mine next
  have hyp : Expected s link frame := ⟨up, on, low, active, ok, mine, next⟩
  exact ⟨fun typ => stepBcast_keeps hyp typ, fun typ => stepLate_declares hyp typ, fun typ => stepAbort_discards hyp typ, fun typ => freeze_halts hyp typ,
    fun typ => shelver_matches hyp typ⟩

end Sys2Proof.Machine
end

section
/-!
Rafter's lanes (O54).
-/
namespace Sys2Proof.Machine

/-! ### A lane put in a state -/

theorem Eng.wake_out (e : Eng) (d : Nat) : (e.wake d).out = e.out := by
  unfold Eng.wake
  dsimp only
  repeat' split
  all_goals rfl

/-- A lane as it stands in a state that it has just entered. -/
def Lane.put (x : Lane) (st now : Nat) : Lane :=
  { x with st, since := now, log := if st = 3 ∨ st = 4 then x.log else none, ver := if st = 3 ∨ st = 4 then x.ver else 0 }

/-- Where a lane has left ACTIVE its logical lane notes it. -/
def Eng.leftAt (e : Eng) (p st : Nat) : Eng :=
  match (e.lane p).log with
  | some n => if (e.lane p).st = 3 ∧ st ≠ 3 then { e with raf := { e.raf with downAt := tput e.raf.downAt n e.now } } else e
  | none => e

theorem Eng.leftAt_shape (e : Eng) (p st : Nat) : ∃ downAt, e.leftAt p st = { e with raf := { e.raf with downAt } } := by
  unfold Eng.leftAt
  split
  · split
    · exact ⟨_, rfl⟩
    · exact ⟨_, rfl⟩
  · exact ⟨_, rfl⟩

theorem Eng.laneTo_eq (e : Eng) (p : Nat) {st : Nat} (on : st ≠ 0) :
    e.laneTo p st = ((e.leftAt p st).setLane p { (e.lane p) with
      st, since := (e.leftAt p st).now, log := if decide (st = 3 ∨ st = 4) then (e.lane p).log else none, ver := if decide (st = 3 ∨ st = 4) then (e.lane p).ver else 0 }).wake (lanePd p) :=
  if_pos on

/-- A lane's entry into a state: the lane and the Tally at which its logical lane left ACTIVE, and the domain of its pair. -/
theorem Eng.laneTo_spec (e : Eng) (p : Nat) {st : Nat} (on : st ≠ 0) :
    (∃ downAt, (e.laneTo p st).raf = { e.raf with downAt, lanes := tsetD e.raf.lanes p ((e.lane p).put st e.now) {} }) ∧
      e.Only [13, 15] [] (e.laneTo p st) ∧ (e.laneTo p st).out = e.out := by
  obtain ⟨downAt, shape⟩ := e.leftAt_shape p st
  have put : ({ (e.lane p) with
      st, since := e.now, log := if decide (st = 3 ∨ st = 4) then (e.lane p).log else none, ver := if decide (st = 3 ∨ st = 4) then (e.lane p).ver else 0 } : Lane) = (e.lane p).put st e.now := by
    unfold Lane.put
    by_cases up : st = 3 ∨ st = 4
    · simp only [up, decide_true, if_true]
    · simp only [up, decide_false, if_false, Bool.false_eq_true]
  have eq := e.laneTo_eq p on
  rw [shape] at eq
  have eq' : e.laneTo p st = (Eng.setLane { e with raf := { e.raf with downAt } } p ((e.lane p).put st e.now)).wake (lanePd p) := by
    rw [← put]
    exact eq
  rw [eq']
  have woken := Eng.Only.wake (us := [13, 15]) (offs := []) (Eng.setLane { e with raf := { e.raf with downAt } } p ((e.lane p).put st e.now)) (lanePd p) (by decide)
  have raf := (Eng.Only.wake (us := [15]) (offs := []) (Eng.setLane { e with raf := { e.raf with downAt } } p ((e.lane p).put st e.now)) (lanePd p) (by decide)).parts 13 (by decide)
  exact ⟨⟨downAt, raf⟩, (Eng.Only.setRaf e _ (by decide)).trans woken, Eng.wake_out _ _⟩

theorem Eng.laneTo_lane (e : Eng) (p : Nat) {st : Nat} (on : st ≠ 0) (k : Nat) :
    (e.laneTo p st).lane k = if k = p then (e.lane p).put st e.now else e.lane k := by
  obtain ⟨⟨downAt, raf⟩, -, -⟩ := e.laneTo_spec p on
  rw [Eng.lane, raf]
  exact tgetD_tsetD _ _ _ _ _

/-! ### IDENT -/

theorem Eng.count_out (e : Eng) (src amt : Nat) (pid inst : Option Nat) : (e.count src amt pid inst).out = e.out := by
  have fold : ∀ (ns : List Nat) (y : Eng), (ns.foldl (fun e n => if e.cntSelects n src pid inst then e.cntAdd n amt else e) y).out = y.out := by
    intro ns
    induction ns with
    | nil => exact fun _ => rfl
    | cons n ns ih =>
      intro y
      refine (ih _).trans ?_
      change (if y.cntSelects n src pid inst then y.cntAdd n amt else y).out = y.out
      split
      · unfold Eng.cntAdd
        dsimp only
        split <;> rfl
      · rfl
  unfold Eng.count
  split
  · rfl
  · unfold Eng.countAmt
    split
    · rfl
    · exact fold _ _

/-- The IDENT that a lane sends (R534). -/
def Eng.identOut (e : Eng) (p : Nat) : Frame :=
  { typ := 1, src := e.self, dst := e.lanePeer p, len := 16,
    words := [e.fv F.RAF_POS_POS + 2 ^ 22 * p + (if p = 11 then 2 ^ 26 else 0) + 2 ^ 32 * e.raf.mapId, 0x02010200] }

theorem Eng.sendIdent_eq (e : Eng) (p : Nat) : e.sendIdent p = (e.setLane p { e.lane p with identSent := e.now }).laneSend p (e.identOut p) := by
  have word : e.fv F.RAF_POS_POS + 2 ^ 22 * p + 2 ^ 26 * b2n (decide (p = 11)) + two32 * e.raf.mapId =
      e.fv F.RAF_POS_POS + 2 ^ 22 * p + (if p = 11 then 2 ^ 26 else 0) + 2 ^ 32 * e.raf.mapId := by
    have spare : 2 ^ 26 * b2n (decide (p = 11)) = if p = 11 then 2 ^ 26 else 0 := by
      by_cases h : p = 11
      · rw [if_pos h, decide_eq_true h]
        rfl
      · rw [if_neg h, decide_eq_false h]
        rfl
    rw [spare]
    rfl
  unfold Eng.sendIdent
  dsimp only
  rw [word]
  rfl

/-- IDENT goes out, and the lane notes when. -/
theorem Eng.sendIdent_spec (e : Eng) (p : Nat) :
    (e.sendIdent p).out = .laneFrame p (e.identOut p) :: e.out ∧
      (∀ k, (e.sendIdent p).lane k = if k = p then { e.lane p with identSent := e.now } else e.lane k) ∧ e.Only [13, 17] [] (e.sendIdent p) := by
  rw [Eng.sendIdent_eq]
  refine ⟨Eng.count_out _ _ _ _ _, fun k => ?_, (Eng.Only.setLane _ _ _ (by decide)).trans (.laneSend _ _ _ (by decide))⟩
  rw [Eng.lane, Eng.laneSend_raf]
  exact e.lane_setLane _ _ _

/-- What an IDENT holds goes by the position, the map and the spare's place. -/
theorem Eng.identOut_congr {e e' : Eng} (pos : e'.fv F.RAF_POS_POS = e.fv F.RAF_POS_POS) (map : e'.raf.mapId = e.raf.mapId)
    (spare : e'.raf.spareAsked = e.raf.spareAsked) (p : Nat) : e'.identOut p = e.identOut p := by
  unfold Eng.identOut Eng.lanePeer Eng.self
  rw [pos, map, spare]

theorem Eng.Only.pos {us offs : List Nat} {e e' : Eng} (only : e.Only us offs e') (reg : 0xD00C ∉ offs) : e'.fv F.RAF_POS_POS = e.fv F.RAF_POS_POS :=
  congrArg (fun w : Word => bitsOf w.toNat 21 0) (only.regs 0xD00C 0 (by decide) reg (by decide) (fun stall => absurd stall (by decide)))

section Lane
variable {s : State} {lane : Nat}

/-- A lane that starts anew. -/
def Lane.anew (x : Lane) : Lane := { x with st := 1, log := none, ver := 0 }

theorem Lane.put_out (x : Lane) {st now : Nat} (out : st ≠ 3 ∧ st ≠ 4) : x.put st now = { x.anew with st, since := now } := by
  unfold Lane.put
  rw [if_neg (by omega), if_neg (by omega)]
  rfl

/-- The first part of O54: a trained lane sends IDENT. -/
theorem laneTrained_idents (up : s.boot.absent = false) (on : s.eng.rafOn = true) (low : lane < 12) (phy : (s.eng.lane lane).st = 1) :
    let e := s.eng
    ∃ t, exec (.laneTrained lane) s = .next t ∧ t.eng.out = .laneFrame lane (e.identOut lane) :: e.out ∧ (∀ p, p ≠ lane → t.eng.lane p = e.lane p) ∧
      t.eng.lane lane = { (e.lane lane).anew with st := 2, since := e.now, fails := 0, identSent := e.now } ∧ s.Only [13, 15, 17] [] t := by
  intro e
  let a := e.laneTo lane 2
  let b := a.setLane lane { a.lane lane with fails := 0 }
  have ran : exec (.laneTrained lane) s = .next (s.withEng (b.sendIdent lane)) := by
    change execLaneTrained lane s = _
    rw [execLaneTrained, live_up up]
    exact congrArg (fun x => Host.Outcome.next (s.withEng x)) (if_pos (by rw [on, decide_eq_true ⟨low, phy⟩]; rfl))
  obtain ⟨⟨downAt, raf⟩, only, out⟩ := e.laneTo_spec lane (st := 2) (by decide)
  have lanes := e.laneTo_lane lane (st := 2) (by decide)
  have bLane : ∀ k, b.lane k = if k = lane then { (e.lane lane).put 2 e.now with fails := 0 } else e.lane k := fun k => by
    refine (a.lane_setLane lane k _).trans ?_
    split
    · exact congrArg (fun x : Lane => { x with fails := 0 }) ((lanes lane).trans (if_pos rfl))
    · next other => exact (lanes k).trans (if_neg other)
  have bOnly : e.Only [13, 15, 17] [] b := (only.weaken (by decide) (by decide)).trans (.setLane _ _ _ (by decide))
  have bOut : b.out = e.out := out
  have bNow : b.now = e.now := bOnly.parts 0 (by decide)
  have map : (e.laneTo lane 2).raf.mapId = e.raf.mapId := by rw [raf]
  have spare : (e.laneTo lane 2).raf.spareAsked = e.raf.spareAsked := by rw [raf]
  have ident : b.identOut lane = e.identOut lane := Eng.identOut_congr (bOnly.pos (by decide)) map spare lane
  clear_value b
  obtain ⟨sent, after, sOnly⟩ := b.sendIdent_spec lane
  refine ⟨_, ran, by rw [← ident, ← bOut]; exact sent, fun p other => (after p).trans ((if_neg other).trans ((bLane p).trans (if_neg other))), ?_,
    .withEng (bOnly.trans (sOnly.weaken (by decide) (by decide)))⟩
  refine (after lane).trans ((if_pos rfl).trans ?_)
  rw [bLane, if_pos rfl, bNow, Lane.put_out _ (by decide)]

/-- A lane rewritten and put in a state. -/
theorem Eng.laneTo_setLane (a : Eng) (lane : Nat) (y : Lane) {st : Nat} (nonzero : st ≠ 0) :
    (∀ k, ((a.setLane lane y).laneTo lane st).lane k = if k = lane then y.put st a.now else a.lane k) ∧
      a.Only [13, 15] [] ((a.setLane lane y).laneTo lane st) := by
  refine ⟨fun k => ?_, (Eng.Only.setLane _ _ _ (by decide)).trans (Eng.laneTo_spec (a.setLane lane y) lane nonzero).2.1⟩
  rw [Eng.laneTo_lane _ _ nonzero, Eng.lane_setLane, Eng.lane_setLane, if_pos rfl]
  split
  · rfl
  · rfl

/-- What 500,000,000 t without lock do to a lane: the third time it is disabled. -/
def Eng.laneRetry (a : Eng) (lane : Nat) (x : Lane) : Eng :=
  if 2 ≤ x.fails then ((a.setLane lane { x with fails := 0 }).laneTo lane 5).laneDownEvent lane
  else (a.setLane lane { x with fails := x.fails + 1 }).laneTo lane 1

theorem Eng.laneDownEvent_reports (e : Eng) (lane : Nat) : e.Reports (e.laneDownEvent lane) := Eng.raiseE_reports e 0x00A0 13 lane none

theorem Eng.laneRetry_spec (a : Eng) (lane : Nat) (x : Lane) :
    (∀ p, p ≠ lane → (a.laneRetry lane x).lane p = a.lane p) ∧ a.Only [1, 12, 13, 15, 17] [] (a.laneRetry lane x) ∧
      (a.laneRetry lane x).lane lane = if x.fails < 2 then { x.anew with since := a.now, fails := x.fails + 1 } else { x.anew with st := 5, since := a.now, fails := 0 } := by
  unfold Eng.laneRetry
  by_cases third : 2 ≤ x.fails
  · rw [if_pos third, if_neg (Nat.not_lt.2 third)]
    obtain ⟨lanes, only⟩ := a.laneTo_setLane lane { x with fails := 0 } (st := 5) (by decide)
    generalize (a.setLane lane { x with fails := 0 }).laneTo lane 5 = z at lanes only
    have reports := z.laneDownEvent_reports lane
    generalize z.laneDownEvent lane = w at reports
    have same : ∀ k, w.lane k = z.lane k := fun k => congrArg (fun r : Raf => tgetD r.lanes k {}) reports.raf_eq
    exact ⟨fun p other => (same p).trans ((lanes p).trans (if_neg other)),
      (only.weaken (by decide) (by decide)).trans (.of_reports reports (by decide) (by decide)),
      (same lane).trans ((lanes lane).trans ((if_pos rfl).trans (Lane.put_out _ (by decide))))⟩
  · rw [if_neg third, if_pos (Nat.lt_of_not_le third)]
    obtain ⟨lanes, only⟩ := a.laneTo_setLane lane { x with fails := x.fails + 1 } (st := 1) (by decide)
    exact ⟨fun p other => (lanes p).trans (if_neg other), only.weaken (by decide) (by decide),
      (lanes lane).trans ((if_pos rfl).trans (Lane.put_out _ (by decide)))⟩

/-- The second part of O54: 500,000,000 t without lock. -/
theorem laneTrainTimeout_retries (up : s.boot.absent = false) (settled : s.Settled) (on : s.eng.rafOn = true) (low : lane < 12) (phy : (s.eng.lane lane).st = 1) :
    let e := s.eng
    let x := e.lane lane
    let T := max e.now (x.since + 500000000)
    ∃ t, exec (.laneTrainTimeout lane) s = .next t ∧ t.eng.now = T ∧ (∀ p, p ≠ lane → t.eng.lane p = e.lane p) ∧ s.Only [0, 1, 12, 13, 15, 17] [] t ∧
      t.eng.lane lane = if x.fails < 2 then { x.anew with since := T, fails := x.fails + 1 } else { x.anew with st := 5, since := T, fails := 0 } := by
  intro e x T
  have ran : exec (.laneTrainTimeout lane) s = .next (s.withEng ((e.advance (x.since + 500000000)).laneRetry lane x)) := by
    change timed s (atLaneTrainTimeout lane) = _
    rw [timed_settled s _ settled, atLaneTrainTimeout, live_up up]
    exact congrArg (fun x => Host.Outcome.next (s.withEng x)) (if_pos (by rw [on, decide_eq_true ⟨low, phy⟩]; rfl))
  have now : (e.advance (x.since + 500000000)).now = T := Eng.advance_now _ _
  have raf : (e.advance (x.since + 500000000)).raf = e.raf := Eng.advance_raf e _
  have only : e.Only [0, 1, 12, 13, 15, 17] [] (e.advance (x.since + 500000000)) := .advance _ _ (by decide) (by decide) (by decide)
  clear_value T
  generalize e.advance (x.since + 500000000) = a at ran now raf only
  obtain ⟨others, tried, own⟩ := a.laneRetry_spec lane x
  generalize a.laneRetry lane x = z at ran others tried own
  subst now
  exact ⟨_, ran, tried.parts 0 (by decide), fun p other => (others p other).trans (congrArg (fun r : Raf => tgetD r.lanes p {}) raf),
    .withEng (only.trans (tried.weaken (by decide) (by decide))), own⟩

theorem identTimeout_waits (up : s.boot.absent = false) (on : s.eng.rafOn = true) (low : lane < 12) (settled : s.Settled) (ident : (s.eng.lane lane).st = 2) :
    let e := s.eng
    let x := e.lane lane
    ∃ t, exec (.identTimeout lane) s = .next t ∧ t.eng.now = max e.now (x.since + 1000000) ∧ (∀ p, p ≠ lane → t.eng.lane p = e.lane p) ∧
      t.eng.lane lane = { x.anew with since := t.eng.now } ∧ s.Only [0, 12, 13, 15, 17] [] t := by
  intro e x
  have ran : exec (.identTimeout lane) s = .next (s.withEng ((e.advance (x.since + 1000000)).laneTo lane 1)) := by
    change timed s (atIdentTimeout lane) = _
    rw [timed_settled s _ settled, atIdentTimeout, live_up up]
    exact congrArg (fun x => Host.Outcome.next (s.withEng x)) (if_pos (by rw [on, decide_eq_true ⟨low, ident⟩]; rfl))
  have now : (e.advance (x.since + 1000000)).now = max e.now (x.since + 1000000) := Eng.advance_now _ _
  have raf : (e.advance (x.since + 1000000)).raf = e.raf := Eng.advance_raf e _
  have only : e.Only [0, 12, 13, 15, 17] [] (e.advance (x.since + 1000000)) := .advance _ _ (by decide) (by decide) (by decide)
  generalize e.advance (x.since + 1000000) = a at ran now raf only
  have aLane : ∀ k, a.lane k = e.lane k := fun k => congrArg (fun r : Raf => tgetD r.lanes k {}) raf
  have after := a.laneTo_lane lane (st := 1) (by decide)
  have spec := (a.laneTo_spec lane (st := 1) (by decide)).2.1
  generalize a.laneTo lane 1 = b at ran after spec
  have stays : b.now = a.now := spec.parts 0 (by decide)
  refine ⟨_, ran, stays.trans now, fun p other => (after p).trans ((if_neg other).trans (aLane p)), ?_, .withEng (only.trans (spec.weaken (by decide) (by decide)))⟩
  refine (after lane).trans ((if_pos rfl).trans ?_)
  rw [aLane, Lane.put_out _ (by decide)]
  exact congrArg (fun n => { x.anew with since := n }) stays.symm

theorem identResend_sends (up : s.boot.absent = false) (on : s.eng.rafOn = true) (low : lane < 12) (settled : s.Settled) (ident : (s.eng.lane lane).st = 2)
    (early : (s.eng.lane lane).identSent + 10000 < (s.eng.lane lane).since + 1000000) :
    let e := s.eng
    let x := e.lane lane
    ∃ t, exec (.identResend lane) s = .next t ∧ t.eng.now = max e.now (x.identSent + 10000) ∧ (∀ p, p ≠ lane → t.eng.lane p = e.lane p) ∧
      t.eng.out = .laneFrame lane (e.identOut lane) :: e.out ∧ t.eng.lane lane = { x with identSent := t.eng.now } ∧
      s.Only [0, 12, 13, 17] [] t := by
  intro e x
  have ran : exec (.identResend lane) s = .next (s.withEng ((e.advance (x.identSent + 10000)).sendIdent lane)) := by
    change timed s (atIdentResend lane) = _
    rw [timed_settled s _ settled, atIdentResend, live_up up]
    exact congrArg (fun x => Host.Outcome.next (s.withEng x)) (if_pos (by rw [on, decide_eq_true ⟨low, ident, early⟩]; rfl))
  have now : (e.advance (x.identSent + 10000)).now = max e.now (x.identSent + 10000) := Eng.advance_now _ _
  have raf : (e.advance (x.identSent + 10000)).raf = e.raf := Eng.advance_raf e _
  have out : (e.advance (x.identSent + 10000)).out = e.out := Eng.advance_out e _
  have only : e.Only [0, 12, 13, 17] [] (e.advance (x.identSent + 10000)) := .advance _ _ (by decide) (by decide) (by decide)
  generalize e.advance (x.identSent + 10000) = a at ran now raf out only
  have aLane : ∀ k, a.lane k = e.lane k := fun k => congrArg (fun r : Raf => tgetD r.lanes k {}) raf
  have same : a.identOut lane = e.identOut lane := Eng.identOut_congr (only.pos (by decide)) (congrArg Raf.mapId raf) (congrArg Raf.spareAsked raf) lane
  obtain ⟨sent, after, sOnly⟩ := a.sendIdent_spec lane
  generalize a.sendIdent lane = b at ran sent after sOnly
  have stays : b.now = a.now := sOnly.parts 0 (by decide)
  refine ⟨_, ran, stays.trans now, fun p other => (after p).trans ((if_neg other).trans (aLane p)), by rw [← same, ← out]; exact sent, ?_,
    .withEng (only.trans (sOnly.weaken (by decide) (by decide)))⟩
  refine (after lane).trans ((if_pos rfl).trans ?_)
  rw [aLane]
  exact congrArg (fun n => { x with identSent := n }) stays.symm

/-- The third part of O54: no IDENT has come, and IDENT is sent again. -/
theorem ident_waits (up : s.boot.absent = false) (on : s.eng.rafOn = true) (low : lane < 12) (settled : s.Settled) (ident : (s.eng.lane lane).st = 2) :
    let e := s.eng
    let x := e.lane lane
    (∃ t, exec (.identTimeout lane) s = .next t ∧ t.eng.now = max e.now (x.since + 1000000) ∧ (∀ p, p ≠ lane → t.eng.lane p = e.lane p) ∧
      t.eng.lane lane = { x.anew with since := t.eng.now } ∧ s.Only [0, 12, 13, 15, 17] [] t) ∧
    (x.identSent + 10000 < x.since + 1000000 →
      ∃ t, exec (.identResend lane) s = .next t ∧ t.eng.now = max e.now (x.identSent + 10000) ∧ (∀ p, p ≠ lane → t.eng.lane p = e.lane p) ∧
        t.eng.out = .laneFrame lane (e.identOut lane) :: e.out ∧ t.eng.lane lane = { x with identSent := t.eng.now } ∧
        s.Only [0, 12, 13, 17] [] t) :=
  ⟨identTimeout_waits up on low settled ident, identResend_sends up on low settled ident⟩

end Lane

/-! ### A lane that is lost -/

theorem laneLink_linkLanes {l : Nat} (low : l < 9) {n : Nat} (among : n ∈ linkLanes l) : laneLink n = l := by
  have all : ∀ l, l < 9 → ∀ n ∈ linkLanes l, laneLink n = l := by decide
  exact all l low n among

theorem Eng.mem_lanesOf (e : Eng) (l : Nat) (sts : List Nat) (p : Nat) :
    p ∈ e.lanesOf l sts ↔ p < 12 ∧ (e.lane p).st ∈ sts ∧ ∃ n, (e.lane p).log = some n ∧ n ∈ linkLanes l := by
  unfold Eng.lanesOf
  rw [List.mem_filter, List.mem_range]
  cases log : (e.lane p).log with
  | none => simp [log]
  | some n => simp [log]

/-- A link that nothing waits on has nothing to cut. -/
theorem Eng.linkCut_idle (e : Eng) {l : Nat} (idle : (e.link l).waiting = []) : e.linkCut l = e.setLink l (e.link l) := by
  have same : { e.link l with waiting := [] } = e.link l := by rw [← idle]
  unfold Eng.linkCut
  dsimp only
  rw [idle]
  exact congrArg (e.setLink l) same

/-- A lane that leaves its link while another one keeps it. -/
theorem Eng.laneOut_kept (e : Eng) {p st n : Nat} (log : (e.lane p).log = some n) (kept : (e.laneTo p st).linkActive (laneLink n) = true) :
    e.laneOut p st = if (e.laneTo p st).raf.mapLoaded then (e.laneTo p st).selectParent else e.laneTo p st := by
  unfold Eng.laneOut
  rw [log]
  dsimp only
  rw [kept, Bool.not_true, Bool.and_false, if_neg Bool.false_ne_true]

/-- What the loss of lanes leaves of Rafter: the links' contents and the map. -/
structure Eng.Loses (us offs : List Nat) (e e' : Eng) : Prop where
  link : ∀ k, e'.link k = e.link k
  map : e'.raf.mapLoaded = e.raf.mapLoaded
  only : e.Only us offs e'

section Loses
variable {us offs : List Nat}

theorem Eng.Loses.refl (e : Eng) : Eng.Loses us offs e e := ⟨fun _ => rfl, rfl, .refl _⟩

theorem Eng.Loses.trans {a b c : Eng} (ab : Eng.Loses us offs a b) (bc : Eng.Loses us offs b c) : Eng.Loses us offs a c :=
  ⟨fun k => (bc.link k).trans (ab.link k), bc.map.trans ab.map, ab.only.trans bc.only⟩

theorem Eng.Loses.of_raf {e e' : Eng} (raf : e'.raf = e.raf) (only : e.Only us offs e') : Eng.Loses us offs e e' :=
  ⟨fun k => congrArg (fun r : Raf => tgetD r.links k {}) raf, congrArg Raf.mapLoaded raf, only⟩

theorem Eng.Loses.weaken {us' offs' : List Nat} {e e' : Eng} (loses : Eng.Loses us offs e e') (units : ∀ u ∈ us, u ∈ us') (regs : ∀ o ∈ offs, o ∈ offs') :
    Eng.Loses us' offs' e e' := ⟨loses.link, loses.map, loses.only.weaken units regs⟩

end Loses

theorem Eng.laneTo_loses (e : Eng) (p : Nat) {st : Nat} (on : st ≠ 0) : Eng.Loses [13, 15] [] e (e.laneTo p st) := by
  obtain ⟨⟨downAt, raf⟩, only, -⟩ := e.laneTo_spec p on
  refine ⟨fun k => ?_, by rw [raf], only⟩
  rw [Eng.link, raf]
  rfl

theorem Eng.setLink_self_loses (e : Eng) (l : Nat) : Eng.Loses [13, 15] [] e (e.setLink l (e.link l)) := by
  refine ⟨fun k => (e.link_setLink l k _).trans ?_, rfl, .setRaf _ _ (by decide)⟩
  split
  · next here => rw [here]
  · rfl

/-- A lane that leaves a link that nothing waits on, without a map. -/
theorem Eng.laneOut_bare (e : Eng) (p : Nat) {st : Nat} (on : st ≠ 0) (map : e.raf.mapLoaded = false)
    (idle : ∀ n, (e.lane p).log = some n → (e.link (laneLink n)).waiting = []) :
    (∀ k, (e.laneOut p st).lane k = if k = p then (e.lane p).put st e.now else e.lane k) ∧ Eng.Loses [13, 15] [] e (e.laneOut p st) := by
  have loses := e.laneTo_loses p on
  have lanes := e.laneTo_lane p on
  unfold Eng.laneOut
  generalize e.laneTo p st = a at loses lanes
  split
  · exact ⟨lanes, loses⟩
  · next n log =>
    dsimp only
    have cut : ∃ b, (if e.linkActive (laneLink n) && !a.linkActive (laneLink n) then a.linkCut (laneLink n) else a) = b ∧
        (∀ k, b.lane k = a.lane k) ∧ Eng.Loses [13, 15] [] a b := by
      split
      · rw [a.linkCut_idle (by rw [loses.link]; exact idle n log)]
        exact ⟨_, rfl, fun _ => rfl, a.setLink_self_loses _⟩
      · exact ⟨_, rfl, fun _ => rfl, .refl _⟩
    obtain ⟨b, eq, same, after⟩ := cut
    rw [eq, after.map, loses.map, map, if_neg Bool.false_ne_true]
    exact ⟨fun k => (same k).trans (lanes k), loses.trans after⟩

/-- The capture that a lost lane makes. -/
def Eng.laneFault (e : Eng) (p : Nat) : Eng := e.capture { code := 0x080, unit := 13, part := p }

theorem Eng.laneFault_keeps (e : Eng) (p : Nat) : (e.laneFault p).raf = e.raf ∧ (e.laneFault p).now = e.now ∧
    (e.laneFault p).ras = { e.ras with caps := (e.laneFault p).ras.caps } ∧ e.Only [1, 16, 17] [0xF024] (e.laneFault p) := by
  have only : e.Only [1, 16, 17] [0xF024] (e.laneFault p) := e.capture_only (show 13 < 65536 by decide) (by decide) (by decide) (by decide) (.inr (show 1 ≠ 0 by decide)) (by decide)
  exact ⟨only.parts 13 (by decide), only.parts 0 (by decide), e.capture_ras _, only⟩

/-- A lane is lost where nothing waits on its link, without a map. -/
theorem Eng.laneLost_bare (e : Eng) (p : Nat) (map : e.raf.mapLoaded = false)
    (idle : ∀ n, (e.lane p).log = some n → (e.link (laneLink n)).waiting = []) :
    (∀ k, (e.laneLost p).lane k = if k = p then (e.lane p).put 1 e.now else e.lane k) ∧
      (∃ caps, (e.laneLost p).ras = { e.ras with caps }) ∧ Eng.Loses [1, 13, 15, 16, 17] [0xF024] e (e.laneLost p) := by
  obtain ⟨raf, now, ras, only⟩ := e.laneFault_keeps p
  change (∀ k, (((e.laneFault p).laneOut p 1).laneDownEvent p).lane k = _) ∧ (∃ caps, (((e.laneFault p).laneOut p 1).laneDownEvent p).ras = _) ∧
    Eng.Loses [1, 13, 15, 16, 17] [0xF024] e (((e.laneFault p).laneOut p 1).laneDownEvent p)
  generalize e.laneFault p = a at raf now ras only
  have lane : ∀ k, a.lane k = e.lane k := fun k => congrArg (fun r : Raf => tgetD r.lanes k {}) raf
  have link : ∀ k, a.link k = e.link k := fun k => congrArg (fun r : Raf => tgetD r.links k {}) raf
  obtain ⟨lanes, loses⟩ := a.laneOut_bare p (st := 1) (by decide) ((congrArg Raf.mapLoaded raf).trans map)
    (fun n log => by rw [link]; exact idle n ((congrArg Lane.log (lane p)).symm.trans log))
  have rasB : (a.laneOut p 1).ras = a.ras := loses.only.parts 16 (by decide)
  generalize a.laneOut p 1 = b at lanes loses rasB
  have reports := b.laneDownEvent_reports p
  generalize b.laneDownEvent p = c at reports
  refine ⟨fun k => ?_, ⟨_, reports.ras_eq.trans (rasB.trans ras)⟩,
    (Eng.Loses.of_raf raf (only.weaken (by decide) (by decide))).trans ((loses.weaken (by decide) (by decide)).trans (.of_raf reports.raf_eq (.of_reports reports (by decide) (by decide))))⟩
  refine (congrArg (fun r : Raf => tgetD r.lanes k {}) reports.raf_eq).trans ((lanes k).trans ?_)
  rw [lane, lane, now]


theorem Eng.linkActive_of_lane (e : Eng) {q m l : Nat} (low : q < 12) (active : (e.lane q).st = 3) (served : (e.lane q).log = some m)
    (same : m ∈ linkLanes l) : e.linkActive l = true := by
  have among : q ∈ e.lanesOf l [3] := (e.mem_lanesOf l [3] q).mpr ⟨low, by rw [active]; decide, m, served, same⟩
  unfold Eng.linkActive
  cases lanes : e.lanesOf l [3] with
  | nil => rw [lanes] at among; exact absurd among List.not_mem_nil
  | cons p ps => rfl

theorem Eng.selectParent_keeps (e : Eng) : (∀ k, e.selectParent.lane k = e.lane k) ∧ e.selectParent.now = e.now ∧ e.Only [13, 14] [] e.selectParent := by
  have only : e.Only [13, 14] [] e.selectParent := .selectParent e (by decide) (by decide)
  obtain ⟨tal, parent, depth, syncOpen, orphanAt, locked8, nextRise, eq⟩ := e.selectParent_shape
  exact ⟨fun k => by rw [eq]; rfl, only.parts 0 (by decide), only⟩

/-- The fourth part of O54: a lane in service that loses lock while another one keeps its link. -/
theorem fecLockLoss_trains {s : State} {lane n q m : Nat} (up : s.boot.absent = false) (on : s.eng.rafOn = true)
    (log : (s.eng.lane lane).log = some n) (low : q < 12) (other : q ≠ lane) (active : (s.eng.lane q).st = 3) (served : (s.eng.lane q).log = some m)
    (same : (linkLanes (laneLink n)).contains m = true) :
    ∃ t, exec (.fecLockLoss lane) s = .next t ∧ t.eng.lane lane = { (s.eng.lane lane).anew with since := s.eng.now } ∧
      (∀ p, p ≠ lane → t.eng.lane p = s.eng.lane p) ∧ t.eng.now = s.eng.now ∧ s.Only [1, 13, 14, 15, 16, 17] [0xF024] t := by
  have ran : exec (.fecLockLoss lane) s = .next (s.withEng (if (s.eng.laneLost lane).linkUp (laneLink n) then s.eng.laneLost lane
      else (s.eng.laneLost lane).chipSilent (linkPeer (s.eng.laneLost lane).self (laneLink n)))) := by
    change execFecLockLoss lane s = _
    rw [execFecLockLoss, live_up up, log]
    exact congrArg (fun x => Host.Outcome.next (s.withEng x)) (if_neg (by rw [on]; decide))
  obtain ⟨raf, now, -, only⟩ := s.eng.laneFault_keeps lane
  have lost : s.eng.laneLost lane = ((s.eng.laneFault lane).laneOut lane 1).laneDownEvent lane := rfl
  rw [lost] at ran
  generalize s.eng.laneFault lane = a at raf now only ran
  have aLane : ∀ k, a.lane k = s.eng.lane k := fun k => congrArg (fun r : Raf => tgetD r.lanes k {}) raf
  have serves : ∀ y : Eng, y.lane q = s.eng.lane q → y.linkActive (laneLink n) = true := fun y here =>
    y.linkActive_of_lane low (by rw [here]; exact active) (by rw [here]; exact served) (List.contains_iff_mem.mp same)
  have lanes : ∀ k, (a.laneTo lane 1).lane k = if k = lane then (s.eng.lane lane).put 1 s.eng.now else s.eng.lane k := fun k => by
    rw [a.laneTo_lane lane (by decide), aLane, aLane, now]
  have toOnly := (a.laneTo_spec lane (st := 1) (by decide)).2.1
  have out := a.laneOut_kept ((congrArg Lane.log (aLane lane)).trans log) (serves _ ((lanes q).trans (if_neg other)))
  generalize a.laneTo lane 1 = b at lanes toOnly out
  have chosen : (∀ k, (a.laneOut lane 1).lane k = b.lane k) ∧ (a.laneOut lane 1).now = b.now ∧ b.Only [13, 14] [] (a.laneOut lane 1) := by
    rw [out]
    split
    · exact b.selectParent_keeps
    · exact ⟨fun _ => rfl, rfl, .refl _⟩
  generalize a.laneOut lane 1 = c at chosen ran
  obtain ⟨cLane, cNow, cOnly⟩ := chosen
  have reports := c.laneDownEvent_reports lane
  generalize c.laneDownEvent lane = d at ran reports
  have dLane : ∀ k, d.lane k = if k = lane then (s.eng.lane lane).put 1 s.eng.now else s.eng.lane k := fun k =>
    (congrArg (fun r : Raf => tgetD r.lanes k {}) reports.raf_eq).trans ((cLane k).trans (lanes k))
  rw [if_pos (Eng.linkUp_of_linkActive (serves d ((dLane q).trans (if_neg other))))] at ran
  refine ⟨_, ran, ((dLane lane).trans (if_pos rfl)).trans (Lane.put_out _ (by decide)), fun p apart => (dLane p).trans (if_neg apart),
    reports.now_eq.trans (cNow.trans ((toOnly.parts 0 (by decide)).trans now)), .withEng ?_⟩
  exact (only.weaken (by decide) (by decide)).trans ((toOnly.weaken (by decide) (by decide)).trans ((cOnly.weaken (by decide) (by decide)).trans
    (.of_reports reports (by decide) (by decide))))

/-- The loss of every lane of a link. -/
theorem foldl_laneLost (e : Eng) {link : Nat} (map : e.raf.mapLoaded = false) (idle : (e.link link).waiting = []) (ps : List Nat)
    (mine : ∀ p ∈ ps, ∀ n, (e.lane p).log = some n → laneLink n = link) :
    let z := ps.foldl (fun e p => e.laneLost p) e
    (∀ k, k ∈ ps → (z.lane k).st = 1 ∧ (z.lane k).log = none) ∧ (∀ k, k ∉ ps → z.lane k = e.lane k) ∧
      (∃ caps, z.ras = { e.ras with caps }) ∧ Eng.Loses [1, 13, 15, 16, 17] [0xF024] e z := by
  induction ps generalizing e with
  | nil => exact ⟨fun k none_ => absurd none_ List.not_mem_nil, fun _ _ => rfl, ⟨_, rfl⟩, .refl _⟩
  | cons p ps ih =>
    obtain ⟨lanes, ⟨caps, ras⟩, loses⟩ := e.laneLost_bare p map (fun n log => by rw [mine p List.mem_cons_self n log]; exact idle)
    rw [List.foldl_cons]
    generalize e.laneLost p = a at lanes ras loses
    have here : (a.lane p).st = 1 ∧ (a.lane p).log = none := by
      rw [lanes, if_pos rfl, Lane.put_out _ (by decide)]
      exact ⟨rfl, rfl⟩
    obtain ⟨gone, others, ⟨caps', ras'⟩, after⟩ := ih a (loses.map.trans map) (by rw [loses.link]; exact idle) (fun k among n log => by
      by_cases same : k = p
      · rw [same, here.2] at log
        cases log
      · rw [lanes, if_neg same] at log
        exact mine k (List.mem_cons_of_mem _ among) n log)
    refine ⟨fun k among => ?_, fun k out => ?_, ⟨caps', ras'.trans (by rw [ras])⟩, loses.trans after⟩
    · by_cases later : k ∈ ps
      · exact gone k later
      · rw [others k later, (List.mem_cons.mp among).resolve_right later]
        exact here
    · have apart : k ≠ p ∧ k ∉ ps := ⟨fun same => out (same ▸ List.mem_cons_self), fun later => out (List.mem_cons_of_mem _ later)⟩
      rw [others k apart.2, lanes, if_neg apart.1]

theorem linkPeer_ne (me l : Nat) (low : me < 64) (link : l < 9) : linkPeer me l ≠ me := by
  have all : ∀ me, me < 64 → ∀ l, l < 9 → linkPeer me l ≠ me := by decide +kernel
  exact all me low l link

theorem Eng.self_low (e : Eng) : e.self < 64 := Nat.mod_lt _ (by decide)

/-- The loss of a chip that falls silent, where no `Inst`, no map and no buddy stands. -/
theorem Eng.chipSilent_bare (e : Eng) {c : Nat} (none_ : ∀ i, i < 16 → (e.inst i).active = false) (map : e.raf.mapLoaded = false)
    (sled : e.ras.sled.chip = none) (ring : e.ras.ring.chip = none) (other : c ≠ e.self) (en : e.fb F.RAF_CTL_EN = true) :
    c ∈ (e.chipSilent c).raf.lost ∧ (∀ k, (e.chipSilent c).lane k = e.lane k) ∧ e.Only [12, 13, 17] [] (e.chipSilent c) := by
  obtain ⟨⟨links, raf⟩, -, only, -⟩ := flood_sends e.self c e.now none linkRange List.nodup_range e en
  have eq : e.chipSilent c = (linkRange.foldl (fun y l => y.floodOn e.self c e.now none l) e).learnLost c (e.now % 2 ^ 56) := rfl
  generalize linkRange.foldl (fun y l => y.floodOn e.self c e.now none l) e = z at raf only eq
  have cmp : z.cmp = e.cmp := only.parts 4 (by decide)
  have ras : z.ras = e.ras := only.parts 16 (by decide)
  obtain ⟨lost, plans, learnt, among⟩ := z.learnLost_bare (e.now % 2 ^ 56) (c := c)
    (fun i li => (congrArg (fun m : Cmp => (tgetD m.insts i {}).active) cmp).trans (none_ i li))
    (by rw [raf]; exact map) (by rw [ras]; exact sled) (by rw [ras]; exact ring) (by rw [only.self (by decide)]; exact other)
  rw [eq, learnt]
  refine ⟨among, fun k => ?_, only.trans (.setRaf _ _ (by decide))⟩
  change tgetD z.raf.lanes k {} = _
  rw [raf]
  rfl

/-- The fifth part of O54: a link that has been silent. -/
theorem linkSilence_loses {s : State} {link : Nat} (up : s.boot.absent = false) (on : s.eng.rafOn = true) (settled : s.Settled) (low : link < 9)
    (some_ : s.eng.lanesOf link [3, 4] ≠ []) (none_ : ∀ i, i < 16 → (s.eng.inst i).active = false) (map : s.eng.raf.mapLoaded = false)
    (idle : (s.eng.link link).waiting = []) (sled : s.eng.ras.sled.chip = none) (ring : s.eng.ras.ring.chip = none) :
    let e := s.eng
    let last := ((e.lanesOf link [3, 4]).map (fun p => (e.lane p).lastFrame)).foldl max 0
    ∃ t, exec (.linkSilence link) s = .next t ∧ t.eng.now = max e.now (last + 2 * e.syncInterval) ∧ linkPeer e.self link ∈ t.eng.raf.lost ∧
      (∀ p, p ∈ e.lanesOf link [3, 4] → (t.eng.lane p).st = 1 ∧ (t.eng.lane p).log = none) ∧
      (∀ p, p ∉ e.lanesOf link [3, 4] → t.eng.lane p = e.lane p) ∧ s.Only [0, 1, 12, 13, 15, 16, 17] [0xF024] t := by
  intro e last
  have ran : exec (.linkSilence link) s = .next (s.withEng (((e.lanesOf link [3, 4]).foldl (fun e p => e.laneLost p) (e.advance (last + 2 * e.syncInterval))).chipSilent
      (linkPeer ((e.lanesOf link [3, 4]).foldl (fun e p => e.laneLost p) (e.advance (last + 2 * e.syncInterval))).self link))) := by
    change timed s (atLinkSilence link) = _
    rw [timed_settled s _ settled, atLinkSilence, live_up up]
    have some' : (e.lanesOf link [3, 4]).isEmpty = false := List.isEmpty_eq_false_iff.mpr some_
    have latest : (e.lanesOf link [3, 4]).foldl (fun m p => max m (e.lane p).lastFrame) 0 = last := List.foldl_map.symm
    refine congrArg (fun x => Host.Outcome.next (s.withEng x)) ((if_neg ?_).trans ?_)
    · rw [on, some', decide_eq_false (Nat.not_le.2 low)]
      decide
    · dsimp only
      rw [latest]
  have mine : ∀ p ∈ e.lanesOf link [3, 4], ∀ n, (e.lane p).log = some n → laneLink n = link := fun p among n log => by
    obtain ⟨-, -, m, served, here⟩ := (e.mem_lanesOf link [3, 4] p).mp among
    rw [served] at log
    exact laneLink_linkLanes low (Option.some.inj log ▸ here)
  have now : (e.advance (last + 2 * e.syncInterval)).now = max e.now (last + 2 * e.syncInterval) := Eng.advance_now _ _
  have raf : (e.advance (last + 2 * e.syncInterval)).raf = e.raf := Eng.advance_raf e _
  have ras : (e.advance (last + 2 * e.syncInterval)).ras = e.ras := Eng.advance_ras e _
  have inst : ∀ i, (e.advance (last + 2 * e.syncInterval)).inst i = e.inst i := fun i => Eng.advance_inst e _ i
  have only : e.Only [0, 12, 17] [] (e.advance (last + 2 * e.syncInterval)) := .advance _ _ (by decide) (by decide) (by decide)
  generalize e.advance (last + 2 * e.syncInterval) = a at ran now raf ras inst only
  have aLane : ∀ k, a.lane k = e.lane k := fun k => congrArg (fun r : Raf => tgetD r.lanes k {}) raf
  obtain ⟨gone, others, ⟨caps, bRas⟩, loses⟩ := foldl_laneLost a (by rw [raf]; exact map)
    (by rw [Eng.link, raf]; exact idle) (e.lanesOf link [3, 4]) (fun p among n log => mine p among n (by rw [← aLane]; exact log))
  generalize (e.lanesOf link [3, 4]).foldl (fun e p => e.laneLost p) a = b at ran gone others bRas loses
  have bOnly : e.Only [0, 1, 12, 13, 15, 16, 17] [0xF024] b := (only.weaken (by decide) (by decide)).trans (loses.only.weaken (by decide) (by decide))
  have self : b.self = e.self := bOnly.self (by decide)
  have bInst : ∀ i, b.inst i = e.inst i := fun i =>
    (congrArg (fun m : Cmp => tgetD m.insts i {}) (loses.only.parts 4 (by decide))).trans (inst i)
  obtain ⟨lost, lanes, cOnly⟩ := b.chipSilent_bare (c := linkPeer b.self link) (fun i li => by rw [bInst]; exact none_ i li) (loses.map.trans (by rw [raf]; exact map))
    (by rw [bRas, ras]; exact sled) (by rw [bRas, ras]; exact ring) (linkPeer_ne _ _ b.self_low low)
    ((bOnly.fb (by decide) (by decide) (by decide)).trans (Eng.rafOn_en on))
  have cNow := cOnly.parts 0 (by decide)
  generalize b.chipSilent (linkPeer b.self link) = c at ran lost lanes cOnly cNow
  refine ⟨_, ran, ?_, by rw [← self]; exact lost, fun p among => by rw [show (s.withEng c).eng.lane p = b.lane p from lanes p]; exact gone p among,
    fun p out => (lanes p).trans ((others p out).trans (aLane p)), .withEng (bOnly.trans (cOnly.weaken (by decide) (by decide)))⟩
  exact (show c.now = b.now from cNow).trans ((show b.now = a.now from loses.only.parts 0 (by decide)).trans now)

/-- The sixth part of O54: the spare takes the place of a logical lane. -/
theorem spareJoin_trains {s : State} {n : Nat} (up : s.boot.absent = false) (on : s.eng.rafOn = true) (settled : s.Settled) (low : n < 11)
    (map : s.eng.raf.mapLoaded = true) (out : ∀ p, p < 12 → (s.eng.lane p).st = 3 → (s.eng.lane p).log ≠ some n) (off : (s.eng.lane 11).st = 0) :
    let e := s.eng
    ∃ t, exec (.spareJoin n) s = .next t ∧ t.eng.now = max e.now (tgetD e.raf.downAt n 0 + 2 * e.syncInterval) ∧
      t.eng.raf.spareAsked = some n ∧ t.eng.lane 11 = { (e.lane 11).anew with since := t.eng.now } ∧
      (∀ p, p ≠ 11 → t.eng.lane p = e.lane p) ∧ s.Only [0, 1, 12, 13, 15, 17] [] t := by
  intro e
  let asked (y : Eng) : Eng := { y with raf := { y.raf with spareAsked := some n } }
  have ran : exec (.spareJoin n) s = .next (s.withEng (((asked (e.advance (tgetD e.raf.downAt n 0 + 2 * e.syncInterval))).laneTo 11 1).raiseE 0x00A6 13 n none)) := by
    change timed s (atSpareJoin n) = _
    rw [timed_settled s _ settled, atSpareJoin, live_up up]
    have unserved : laneRange.any (fun p => decide ((e.lane p).st = 3 ∧ (e.lane p).log = some n)) = false := by
      rw [List.any_eq_false]
      intro p among
      rw [decide_eq_true_eq]
      exact fun ⟨active, log⟩ => out p (List.mem_range.mp among) active log
    refine congrArg (fun x => Host.Outcome.next (s.withEng x)) (if_neg ?_)
    rw [on, map, unserved, decide_eq_false (Nat.not_le.2 low), decide_eq_false (not_not.2 off)]
    decide
  have now : (e.advance (tgetD e.raf.downAt n 0 + 2 * e.syncInterval)).now = max e.now (tgetD e.raf.downAt n 0 + 2 * e.syncInterval) := Eng.advance_now _ _
  have raf : (e.advance (tgetD e.raf.downAt n 0 + 2 * e.syncInterval)).raf = e.raf := Eng.advance_raf e _
  have only : e.Only [0, 12, 17] [] (e.advance (tgetD e.raf.downAt n 0 + 2 * e.syncInterval)) := .advance _ _ (by decide) (by decide) (by decide)
  generalize e.advance (tgetD e.raf.downAt n 0 + 2 * e.syncInterval) = a at ran now raf only
  have bLane : ∀ k, (asked a).lane k = e.lane k := fun k => (congrArg (fun r : Raf => tgetD r.lanes k {}) raf : a.lane k = e.lane k)
  have bOnly : a.Only [13] [] (asked a) := .setRaf _ _ (by decide)
  have bNow : (asked a).now = a.now := rfl
  have bAsked : (asked a).raf.spareAsked = some n := rfl
  generalize asked a = b at ran bLane bOnly bNow bAsked
  obtain ⟨⟨downAt, cRaf⟩, cOnly, -⟩ := b.laneTo_spec 11 (st := 1) (by decide)
  have lanes := b.laneTo_lane 11 (st := 1) (by decide)
  have cNow : (b.laneTo 11 1).now = b.now := cOnly.parts 0 (by decide)
  have cAsked : (b.laneTo 11 1).raf.spareAsked = some n := by rw [cRaf]; exact bAsked
  generalize b.laneTo 11 1 = c at ran lanes cOnly cNow cAsked
  have reports := Eng.raiseE_reports c 0x00A6 13 n none
  generalize c.raiseE 0x00A6 13 n none = d at ran reports
  have dLane : ∀ k, d.lane k = if k = 11 then (b.lane 11).put 1 b.now else b.lane k := fun k =>
    (congrArg (fun r : Raf => tgetD r.lanes k {}) reports.raf_eq).trans (lanes k)
  have dNow : d.now = b.now := reports.now_eq.trans cNow
  refine ⟨_, ran, dNow.trans (bNow.trans now), (congrArg Raf.spareAsked reports.raf_eq).trans cAsked, ?_,
    fun p other => ((dLane p).trans (if_neg other)).trans (bLane p), .withEng ?_⟩
  · refine ((dLane 11).trans (if_pos rfl)).trans ?_
    rw [bLane, Lane.put_out _ (by decide)]
    exact congrArg (fun T => { (e.lane 11).anew with st := 1, since := T }) dNow.symm
  · exact (only.weaken (by decide) (by decide)).trans ((bOnly.weaken (by decide) (by decide)).trans ((cOnly.weaken (by decide) (by decide)).trans
      (.of_reports reports (by decide) (by decide))))

end Sys2Proof.Machine
end

section
/-!
IDENT, and Rafter's lanes as a whole (O54).
-/
namespace Sys2Proof.Machine

/-- The lane that an IDENT tells of. -/
def Eng.identPeer (e : Eng) (lane : Nat) (f : Frame) : Lane :=
  { e.lane lane with
    peerPos := f.words.getD 0 0 % 2 ^ 22, peerLane := f.words.getD 0 0 / 2 ^ 22 % 2 ^ 4, peerMap := f.words.getD 0 0 / 2 ^ 32 % 2 ^ 32,
    verMin := f.words.getD 1 0 % 2 ^ 16, verMax := f.words.getD 1 0 / 2 ^ 16 % 2 ^ 16, lastFrame := e.now }

theorem Eng.takeIdent_eq (e : Eng) (lane : Nat) (f : Frame) : e.takeIdent lane f = e.setLane lane (e.identPeer lane f) := by
  unfold Eng.takeIdent
  dsimp only
  rw [bitsOf_low, bitsOf_low]
  rfl

/-- Where a lane is placed goes by the map, the position, the spare's place and what the other lanes serve. -/
theorem Eng.placeLane_congr {e e' : Eng} {p : Nat} (pos : e'.fv F.RAF_POS_POS = e.fv F.RAF_POS_POS) (chips : e'.raf.chips = e.raf.chips)
    (spare : e'.raf.spareAsked = e.raf.spareAsked) (lanes : ∀ q, q ≠ p → (e'.lane q).log = (e.lane q).log) (c q : Nat) :
    e'.placeLane p c q = e.placeLane p c q := by
  have served : e'.served p = e.served p := by
    unfold Eng.served
    refine List.filterMap_congr (fun k _ => ?_)
    by_cases same : k = p
    · rw [if_pos same, if_pos same]
    · rw [if_neg same, if_neg same]
      exact lanes k same
  unfold Eng.placeLane
  rw [served]
  unfold Eng.self
  rw [pos, chips, spare]

/-- A lane placed: what it serves, and the event where that is another logical lane than its own. -/
def Eng.placed (e : Eng) (p l : Nat) (x : Lane) : Eng :=
  let e := (e.setLane p { x with log := some l, ver := linkVer x.verMax }).remapTo l p
  if l = p then e else e.raiseE 0x00A2 13 (l + 16 * p)

/-- A lane placed where version or map differ. -/
def Eng.courtesy (e : Eng) (p l me : Nat) (x : Lane) : Eng :=
  let e := (e.laneTo p 4).raiseE 0x00A3 13 (l + 2 ^ 16 * x.verMax)
  if x.peerMap ≠ me then e.raiseE 0x00A4 13 x.peerMap else e

/-- A lane placed in service. -/
def Eng.inService (e : Eng) (p l c : Nat) : Eng := ((((e.laneTo p 3).chipBack c).selectParent).buddyBack c).flush (laneLink l)

theorem Eng.decideLane_some (e : Eng) {p l : Nat} {x : Lane} (lane : e.lane p = x) (fresh : x.log = none)
    (place : (e.setLane p { x with log := none }).placeLane p x.peerPos x.peerLane = some l) :
    e.decideLane p = if x.verMax / 256 ≠ 2 ∨ x.peerMap ≠ e.raf.mapId then ((e.setLane p { x with log := none }).placed p l x).courtesy p l e.raf.mapId x
      else ((e.setLane p { x with log := none }).placed p l x).inService p l (x.peerPos % 64) := by
  unfold Eng.decideLane
  dsimp only
  rw [lane, place]
  dsimp only
  rw [fresh]
  by_cases court : x.verMax / 256 ≠ 2 ∨ x.peerMap ≠ e.raf.mapId
  · rw [if_pos (decide_eq_true court), if_pos court]
    rfl
  · rw [if_neg (by rw [decide_eq_false court]; exact Bool.false_ne_true), if_neg court]
    rfl

theorem Eng.decideLane_none (e : Eng) {p : Nat} {x : Lane} (lane : e.lane p = x)
    (place : (e.setLane p { x with log := none }).placeLane p x.peerPos x.peerLane = none) :
    e.decideLane p = (((e.setLane p { x with log := none }).setLane p x).laneOut p 5).raiseE 0x00A1 13 (p + 256 * (x.peerPos % 2 ^ 22)) none := by
  unfold Eng.decideLane
  dsimp only
  rw [lane, place]

/-- The lane that is placed, and its place. -/
theorem Eng.placed_spec (e : Eng) (p l : Nat) (x : Lane) :
    (∀ k, (e.placed p l x).lane k = if k = p then { x with log := some l, ver := linkVer x.verMax } else e.lane k) ∧
      (∃ lanes, (e.placed p l x).raf = { e.raf with lanes, remap := tsetD e.raf.remap l p l }) ∧ e.Only [1, 13, 17] [] (e.placed p l x) := by
  let y := (e.setLane p { x with log := some l, ver := linkVer x.verMax }).remapTo l p
  have reports : y.Reports (e.placed p l x) := by
    change y.Reports (if l = p then y else y.raiseE 0x00A2 13 (l + 16 * p) none)
    split
    · exact .refl _
    · exact Eng.raiseE_reports _ _ _ _ _
  have raf := reports.raf_eq
  refine ⟨fun k => ?_, ⟨_, raf⟩, Eng.Only.trans (.setRaf e y.raf (by decide)) (.of_reports reports (by decide) (by decide))⟩
  exact (congrArg (fun r : Raf => tgetD r.lanes k {}) raf).trans (e.lane_setLane p k _)

theorem Eng.courtesy_spec (e : Eng) (p l me : Nat) (x : Lane) :
    (∀ k, (e.courtesy p l me x).lane k = if k = p then (e.lane p).put 4 e.now else e.lane k) ∧ e.Only [1, 13, 15, 17] [] (e.courtesy p l me x) := by
  have reports : (e.laneTo p 4).Reports (e.courtesy p l me x) := by
    unfold Eng.courtesy
    dsimp only
    have first := Eng.raiseE_reports (e.laneTo p 4) 0x00A3 13 (l + 2 ^ 16 * x.verMax) none
    split
    · exact first.trans (Eng.raiseE_reports _ _ _ _ _)
    · exact first
  obtain ⟨-, only, -⟩ := e.laneTo_spec p (st := 4) (by decide)
  exact ⟨fun k => (congrArg (fun r : Raf => tgetD r.lanes k {}) reports.raf_eq).trans (e.laneTo_lane p (by decide) k),
    (only.weaken (by decide) (by decide)).trans (.of_reports reports (by decide) (by decide))⟩

/-- Whether mirroring is on goes by the registers and the map. -/
theorem Eng.Only.mirrorOn {us : List Nat} {e e' : Eng} (only : e.Only us [] e') (map : e'.raf.mapLoaded = e.raf.mapLoaded) : e'.mirrorOn = e.mirrorOn := by
  have stride : e'.fv F.RAS_SHADOW_STRIDE_GIB = e.fv F.RAS_SHADOW_STRIDE_GIB :=
    congrArg (fun w : Word => bitsOf w.toNat 7 0) (only.regs 0xF098 0 (by decide) (by decide) (by decide) (fun stall => absurd stall (by decide)))
  unfold Eng.mirrorOn
  rw [only.fb (by decide) (by decide) (by decide), map, stride]

theorem Eng.inService_spec (e : Eng) (p l c : Nat) (off : e.mirrorOn = false) (idle : (e.link (laneLink l)).waiting = []) :
    (∀ k, (e.inService p l c).lane k = if k = p then (e.lane p).put 3 e.now else e.lane k) ∧
      (e.inService p l c).raf.lost = e.raf.lost.filter (fun x => decide (x ≠ c)) ∧ (e.inService p l c).raf.remap = e.raf.remap ∧
      e.Only [13, 14, 15] [] (e.inService p l c) := by
  obtain ⟨⟨downAt, raf⟩, only, -⟩ := e.laneTo_spec p (st := 3) (by decide)
  have lanes := e.laneTo_lane p (st := 3) (by decide)
  unfold Eng.inService
  generalize e.laneTo p 3 = a at raf only lanes
  have back : a.Only [13] [] (a.chipBack c) := .setRaf _ _ (by decide)
  have bRaf : (a.chipBack c).raf = { a.raf with lost := a.raf.lost.filter (fun x => decide (x ≠ c)) } := rfl
  generalize a.chipBack c = b at back bRaf
  obtain ⟨tal, parent, depth, syncOpen, orphanAt, locked8, nextRise, eq⟩ := b.selectParent_shape
  have choice : b.Only [13, 14] [] b.selectParent := .selectParent b (by decide) (by decide)
  have cRaf : b.selectParent.raf = { b.raf with parent, depth, syncOpen, orphanAt, locked8, nextRise } := by rw [eq]
  generalize b.selectParent = x at choice cRaf
  have all : e.Only [13, 14, 15] [] x := (only.weaken (by decide) (by decide)).trans ((back.weaken (by decide) (by decide)).trans (choice.weaken (by decide) (by decide)))
  have same : x.buddyBack c = x := if_pos (by rw [all.mirrorOn (by rw [cRaf, bRaf, raf]), off]; rfl)
  rw [same, x.flush_idle (by rw [Eng.link, cRaf, bRaf, raf]; exact idle)]
  refine ⟨fun k => ?_, by rw [cRaf, bRaf, raf], by rw [cRaf, bRaf, raf], all⟩
  rw [← lanes k, Eng.lane, cRaf, bRaf]
  rfl

section Ident
variable {s : State} {lane : Nat} {frame : RxFrame}

theorem ident_ran (up : s.boot.absent = false) (on : s.eng.rafOn = true) (low : lane < 12) (st : (s.eng.lane lane).st = 2) (ok : rxOk frame = true)
    (typ : (frameOf frame).typ = 1) (len : (frameOf frame).len = 16) :
    ∃ y, exec (.ident lane frame) s = .next (s.withEng (y.decideLane lane)) ∧ (∀ k, y.lane k = if k = lane then s.eng.identPeer lane (frameOf frame) else s.eng.lane k) ∧
      (∃ lanes, y.raf = { s.eng.raf with lanes }) ∧ s.eng.Only [1, 13, 17] [] y := by
  have reports := s.eng.rxCount_reports (frameOf frame)
  have ran : exec (.ident lane frame) s = .next (s.withEng (((s.eng.rxCount (frameOf frame)).takeIdent lane (frameOf frame)).decideLane lane)) := by
    change execIdent lane frame s = _
    rw [execIdent, live_up up]
    refine congrArg (fun y => Host.Outcome.next (s.withEng y)) ((if_neg ?_).trans ((if_neg ?_).trans ((if_neg ?_).trans (if_pos st))))
    · rw [on, decide_eq_false (Nat.not_le.2 low), decide_eq_false (by rw [st]; decide)]
      decide
    · rw [decide_eq_false (not_not.2 typ), Bool.and_false]
      exact Bool.false_ne_true
    · rw [ok, decide_eq_false (not_not.2 typ), decide_eq_false (not_not.2 len)]
      decide
  rw [Eng.takeIdent_eq] at ran
  generalize s.eng.rxCount (frameOf frame) = r at ran reports
  have same : ∀ k, r.lane k = s.eng.lane k := fun k => congrArg (fun x : Raf => tgetD x.lanes k {}) reports.raf_eq
  have peer : r.identPeer lane (frameOf frame) = s.eng.identPeer lane (frameOf frame) := by
    unfold Eng.identPeer
    rw [same, reports.now_eq]
  refine ⟨_, ran, fun k => ?_, ⟨_, congrArg (fun x : Raf => { x with lanes := tsetD x.lanes lane (r.identPeer lane (frameOf frame)) {} }) reports.raf_eq⟩,
    (Eng.Only.of_reports reports (by decide) (by decide)).trans (.setLane _ _ _ (by decide))⟩
  rw [r.lane_setLane, same, peer]

/-- The last part of O54: an IDENT. -/
theorem ident_places (up : s.boot.absent = false) (on : s.eng.rafOn = true) (low : lane < 12) (st : (s.eng.lane lane).st = 2)
    (log : (s.eng.lane lane).log = none) (ok : rxOk frame = true) (typ : (frameOf frame).typ = 1) (len : (frameOf frame).len = 16) :
    let e := s.eng
    let peer := e.identPeer lane (frameOf frame)
    let fits := peer.verMax / 256 = 2 ∧ peer.peerMap = e.raf.mapId
    (∀ n, e.placeLane lane peer.peerPos peer.peerLane = some n →
      (fits → e.mirrorOn = false → (e.link (laneLink n)).waiting = [] →
        ∃ t, exec (.ident lane frame) s = .next t ∧ (∀ p, p ≠ lane → t.eng.lane p = e.lane p) ∧ tgetD t.eng.raf.remap n n = lane ∧
          t.eng.lane lane = { peer with st := 3, since := e.now, log := some n, ver := min 0x0201 peer.verMax } ∧
          t.eng.raf.lost = e.raf.lost.filter (fun c => decide (c ≠ peer.peerPos % 64)) ∧ s.Only [1, 13, 14, 15, 17] [] t) ∧
      (¬fits →
        ∃ t, exec (.ident lane frame) s = .next t ∧ (∀ p, p ≠ lane → t.eng.lane p = e.lane p) ∧
          t.eng.lane lane = { peer with st := 4, since := e.now, log := some n, ver := min 0x0201 peer.verMax } ∧ s.Only [1, 13, 15, 17] [] t)) ∧
    (e.placeLane lane peer.peerPos peer.peerLane = none →
      ∃ t, exec (.ident lane frame) s = .next t ∧ (∀ p, p ≠ lane → t.eng.lane p = e.lane p) ∧
        t.eng.lane lane = { peer with st := 5, since := e.now, log := none, ver := 0 } ∧ s.Only [1, 13, 15, 17] [] t) := by
  intro e peer fits
  obtain ⟨y, ran, lanes, ⟨ls, raf⟩, only⟩ := ident_ran up on low st ok typ len
  have here : y.lane lane = peer := (lanes lane).trans (if_pos rfl)
  have fresh : peer.log = none := log
  clear_value peer
  have now : y.now = e.now := only.parts 0 (by decide)
  have map : y.raf.mapId = e.raf.mapId := by rw [raf]
  have aLanes : ∀ k, (y.setLane lane { peer with log := none }).lane k = if k = lane then { peer with log := none } else e.lane k := fun k => by
    rw [y.lane_setLane, lanes]
    split
    · rfl
    · rfl
  have aRaf : ∃ ls, (y.setLane lane { peer with log := none }).raf = { e.raf with lanes := ls } := ⟨_, by rw [Eng.setLane, raf]⟩
  have aOnly : e.Only [1, 13, 17] [] (y.setLane lane { peer with log := none }) := only.trans (.setLane _ _ _ (by decide))
  have some_ := fun n => y.decideLane_some (l := n) here fresh
  have none_ := y.decideLane_none here
  have aNow : (y.setLane lane { peer with log := none }).now = e.now := now
  generalize y.setLane lane { peer with log := none } = a at aLanes aRaf aOnly some_ none_ aNow
  obtain ⟨ls', aRaf⟩ := aRaf
  have place : ∀ c q, a.placeLane lane c q = e.placeLane lane c q := fun c q =>
    Eng.placeLane_congr (aOnly.pos (by decide)) (by rw [aRaf]) (by rw [aRaf]) (fun q other => by rw [aLanes, if_neg other]) c q
  refine ⟨fun n at_ => ?_, fun at_ => ?_⟩
  · have decided := some_ n ((place _ _).trans at_)
    obtain ⟨pLanes, ⟨ps, pRaf⟩, pOnly⟩ := a.placed_spec lane n peer
    have pNow : (a.placed lane n peer).now = e.now := (pOnly.parts 0 (by decide)).trans aNow
    have upOnly : e.Only [1, 13, 17] [] (a.placed lane n peer) := aOnly.trans pOnly
    generalize a.placed lane n peer = b at decided pLanes pRaf pOnly pNow upOnly
    have pMine : b.lane lane = { peer with log := some n, ver := min 0x0201 peer.verMax } := (pLanes lane).trans (if_pos rfl)
    have pOther : ∀ k, k ≠ lane → b.lane k = e.lane k := fun k other => (pLanes k).trans ((if_neg other).trans ((aLanes k).trans (if_neg other)))
    refine ⟨fun fit off idle => ?_, fun unfit => ?_⟩
    · rw [decided, if_neg (by rw [map]; exact fun bad => bad.elim (fun h => h fit.1) (fun h => h fit.2))] at ran
      obtain ⟨sLanes, lost, remap, sOnly⟩ := b.inService_spec lane n (peer.peerPos % 64) ((upOnly.mirrorOn (by rw [pRaf, aRaf])).trans off)
        (by rw [Eng.link, pRaf, aRaf]; exact idle)
      generalize b.inService lane n (peer.peerPos % 64) = z at ran sLanes lost remap sOnly
      refine ⟨_, ran, fun p other => (sLanes p).trans ((if_neg other).trans (pOther p other)), ?_, ?_, lost.trans (by rw [pRaf, aRaf]),
        .withEng ((upOnly.weaken (by decide) (by decide)).trans (sOnly.weaken (by decide) (by decide)))⟩
      · change tgetD z.raf.remap n n = lane
        rw [remap, pRaf]
        exact tgetD_tsetD_same _ _ _ _
      · refine (sLanes lane).trans ((if_pos rfl).trans ?_)
        rw [pMine, pNow]
        rfl
    · have bad : peer.verMax / 256 ≠ 2 ∨ peer.peerMap ≠ y.raf.mapId := by
        rw [map]
        exact (not_and_or.mp unfit)
      rw [decided, if_pos bad] at ran
      obtain ⟨sLanes, sOnly⟩ := b.courtesy_spec lane n y.raf.mapId peer
      generalize b.courtesy lane n y.raf.mapId peer = z at ran sLanes sOnly
      refine ⟨_, ran, fun p other => (sLanes p).trans ((if_neg other).trans (pOther p other)), ?_,
        .withEng ((upOnly.weaken (by decide) (by decide)).trans sOnly)⟩
      refine (sLanes lane).trans ((if_pos rfl).trans ?_)
      rw [pMine, pNow]
      rfl
  · rw [none_ ((place _ _).trans at_)] at ran
    have bLanes : ∀ k, (a.setLane lane peer).lane k = if k = lane then peer else a.lane k := fun k => a.lane_setLane _ _ _
    have bOnly : e.Only [1, 13, 17] [] (a.setLane lane peer) := aOnly.trans (.setLane _ _ _ (by decide))
    have bNow : (a.setLane lane peer).now = e.now := aNow
    generalize a.setLane lane peer = b at ran bLanes bOnly bNow
    have bMine : b.lane lane = peer := (bLanes lane).trans (if_pos rfl)
    have out : b.laneOut lane 5 = b.laneTo lane 5 := by
      unfold Eng.laneOut
      rw [bMine, fresh]
    rw [out] at ran
    obtain ⟨-, sOnly, -⟩ := b.laneTo_spec lane (st := 5) (by decide)
    have sLanes := b.laneTo_lane lane (st := 5) (by decide)
    generalize b.laneTo lane 5 = c at ran sOnly sLanes
    have reports := Eng.raiseE_reports c 0x00A1 13 (lane + 256 * (peer.peerPos % 2 ^ 22)) none
    generalize c.raiseE 0x00A1 13 (lane + 256 * (peer.peerPos % 2 ^ 22)) none = z at ran reports
    have zLane : ∀ k, z.lane k = c.lane k := fun k => congrArg (fun r : Raf => tgetD r.lanes k {}) reports.raf_eq
    refine ⟨_, ran, fun p other => (zLane p).trans ((sLanes p).trans ((if_neg other).trans ((bLanes p).trans ((if_neg other).trans ((aLanes p).trans (if_neg other)))))), ?_,
      .withEng ((bOnly.weaken (by decide) (by decide)).trans ((sOnly.weaken (by decide) (by decide)).trans (.of_reports reports (by decide) (by decide))))⟩
    refine (zLane lane).trans ((sLanes lane).trans ((if_pos rfl).trans ?_))
    rw [bMine, bNow, Lane.put_out _ (by decide)]
    rfl

end Ident

/-- Settles O54: each way in which a lane of Rafter changes its state. -/
theorem lanesChangeState : Obligations.LanesChangeState := by
  intro lane frame s up on low e x rest out1 identFrame interval
  have ident : identFrame (e.identOut lane) := ⟨rfl, rfl, rfl, rfl, rfl⟩
  refine ⟨fun phy => ⟨?_, fun settled => laneTrainTimeout_retries up settled on low phy⟩, fun settled st => ?_,
    fun n q m log lq other active served same => fecLockLoss_trains up on log lq other active served same,
    fun link settled ll some_ none_ map idle sled ring => linkSilence_loses up on settled ll some_ none_ map idle sled ring,
    fun n settled ln map out off => spareJoin_trains up on settled ln map out off, ?_⟩
  · obtain ⟨t, ran, sent, others, own, only⟩ := laneTrained_idents up on low phy
    exact ⟨t, _, ran, sent, ident, others, own, only⟩
  · obtain ⟨waits, again⟩ := ident_waits up on low settled st
    refine ⟨waits, fun early => ?_⟩
    obtain ⟨t, ran, now, others, sent, own, only⟩ := again early
    exact ⟨t, _, ran, now, others, sent, ident, own, only⟩
  · intro f w0 w1 pos peer fits st log ok typ len
    obtain ⟨place, none_⟩ := ident_places up on low st log ok typ len
    exact ⟨fun n at_ _ => place n at_, none_⟩

end Sys2Proof.Machine
end

section
/-!
Orders on a request: what their resolution finds and changes (O26, O58).
-/
namespace Sys2Proof.Machine

/-! ### Looks at records -/

theorem Eng.wake_eq (e : Eng) (d : Nat) : e.wake d = { e with pd := (e.wake d).pd } := by
  unfold Eng.wake
  dsimp only
  repeat' split
  all_goals rfl

theorem Eng.wake_beside (e : Eng) {d k : Nat} (other : k ≠ d) : (e.wake d).dom k = e.dom k := by
  have set : ∀ x : Dom, (e.setDom d x).dom k = e.dom k := fun x => (tgetD_tsetD _ _ _ _ _).trans (if_neg other)
  unfold Eng.wake
  dsimp only
  repeat' split
  all_goals first | rfl | exact set _

/-- The hot records after a look at one. -/
def hotFirst (h : List Nat) (s : Nat) : List Nat := if h.contains s then s :: h.filter (fun x => decide (x ≠ s)) else h

theorem hotFirst_twice (h : List Nat) (s : Nat) : hotFirst (hotFirst h s) s = hotFirst h s := by
  unfold hotFirst
  by_cases among : h.contains s = true
  · rw [if_pos among, if_pos (by rw [List.contains_cons, beq_self_eq_true, Bool.true_or]), List.filter_cons,
      if_neg (by simp), List.filter_filter]
    simp only [Bool.and_self]
  · rw [if_neg among, if_neg among]

theorem hotFirst_among {h : List Nat} {s : Nat} (among : s ∈ h) : hotFirst h s = s :: h.filter (fun x => decide (x ≠ s)) :=
  if_pos (List.contains_iff_mem.mpr among)

/-- A look at one record. -/
theorem Eng.recUse_eq (e : Eng) (s : Nat) : e.recUse s = { e with
    led := { e.led with hot := hotFirst e.led.hot s }, pd := (if e.fb F.LED_CTL_EN then e.wake (1 + s % 4) else e).pd } := by
  have woken : (if e.fb F.LED_CTL_EN then e.wake (1 + s % 4) else e) = { e with pd := (if e.fb F.LED_CTL_EN then e.wake (1 + s % 4) else e).pd } := by
    split
    · exact e.wake_eq _
    · rfl
  unfold Eng.recUse hotFirst
  dsimp only
  rw [woken]
  dsimp only
  split
  · rfl
  · rfl

theorem Eng.recUse_beside (e : Eng) {s k : Nat} (other : k ≠ 1 + s % 4) : (e.recUse s).dom k = e.dom k := by
  rw [Eng.recUse_eq]
  change tgetD (if e.fb F.LED_CTL_EN then e.wake (1 + s % 4) else e).pd k { st := 0 } = e.dom k
  split
  · exact e.wake_beside other
  · rfl

/-- Looks at records change the order of the hot ones, and their banks' domains. -/
theorem foldl_recUse (l : List Nat) (e : Eng) : ∃ pd, l.foldl Eng.recUse e = { e with led := { e.led with hot := l.foldl hotFirst e.led.hot }, pd } ∧
    ∀ k, (∀ y ∈ l, k ≠ 1 + y % 4) → tgetD pd k { st := 0 } = e.dom k := by
  induction l generalizing e with
  | nil => exact ⟨_, rfl, fun _ _ => rfl⟩
  | cons s l ih =>
    obtain ⟨pd, eq, beside⟩ := ih (e.recUse s)
    refine ⟨pd, ?_, fun k out => ?_⟩
    · rw [List.foldl_cons, eq, List.foldl_cons, Eng.recUse_eq]
    · exact (beside k (fun y among => out y (List.mem_cons_of_mem _ among))).trans (e.recUse_beside (out s List.mem_cons_self))

theorem Eng.lookUp_named (e : Eng) {rqid gen s : Nat} (named : e.named rqid gen = some s) : e.lookUp rqid gen = (e.sibs s).foldl Eng.recUse e := by
  unfold Eng.lookUp
  rw [named]

/-! ### What goes by the records alone -/

theorem sibSlots_congr {e e' : Eng} (recs : e'.led.recs = e.led.recs) (slot fuel : Nat) : sibSlots e' slot fuel = sibSlots e slot fuel := by
  induction fuel generalizing slot with
  | zero => rfl
  | succ fuel ih =>
    unfold sibSlots Eng.rc
    rw [recs]
    cases tget e.led.recs slot with
    | none => rfl
    | some r =>
      dsimp only
      rw [ih]

theorem Eng.rc_congr {e e' : Eng} (recs : e'.led.recs = e.led.recs) (s : Nat) : e'.rc s = e.rc s := congrArg (fun t => tget t s) recs

theorem Eng.sibs_congr {e e' : Eng} (recs : e'.led.recs = e.led.recs) (s : Nat) : e'.sibs s = e.sibs s := sibSlots_congr recs s 64

theorem Eng.named_congr {e e' : Eng} (recs : e'.led.recs = e.led.recs) (rqid gen : Nat) : e'.named rqid gen = e.named rqid gen := by
  unfold Eng.named
  dsimp only
  rw [Eng.rc_congr recs]

theorem Eng.ordTargets_congr {e e' : Eng} (recs : e'.led.recs = e.led.recs) (op first : Nat) : e'.ordTargets op first = e.ordTargets op first := by
  unfold Eng.ordTargets
  rw [Eng.sibs_congr recs]
  exact List.filter_congr (fun s _ => by rw [Eng.rc_congr recs])

theorem Eng.allEnded_congr {e e' : Eng} (recs : e'.led.recs = e.led.recs) (first : Nat) : e'.allEnded first = e.allEnded first := by
  unfold Eng.allEnded
  rw [Eng.sibs_congr recs]
  exact congrArg (fun p => (e.sibs first).all p) (funext (fun s => by rw [Eng.rc_congr recs]))

/-- The one sibling of a request. -/
theorem Eng.sibs_alone (e : Eng) {x : Nat} {q : LRec} (rc : e.rc x = some q) (last : q.nextSib = 0xFFFFFF) : e.sibs x = [x] := by
  change sibSlots e x 64 = [x]
  unfold sibSlots
  rw [rc]
  dsimp only
  rw [if_pos last]

theorem Eng.sib_has_record (e : Eng) (x fuel : Nat) : ∀ y ∈ sibSlots e x fuel, (e.rc y).isSome = true := by
  induction fuel generalizing x with
  | zero => exact fun y among => absurd among List.not_mem_nil
  | succ fuel ih =>
    intro y among
    unfold sibSlots at among
    cases rc : e.rc x with
    | none =>
      rw [rc] at among
      exact absurd among List.not_mem_nil
    | some r =>
      rw [rc] at among
      dsimp only at among
      rcases List.mem_cons.mp among with here | later
      · rw [here, rc]
        rfl
      · split at later
        · exact absurd later List.not_mem_nil
        · exact ih _ _ later

/-! ### The resolution of an order that waits alone -/

theorem winner_alone (o : Order) (l : List Order) (alone : ∀ x ∈ l, x = o) : winner o l = o := by
  induction l with
  | nil => rfl
  | cons x l ih =>
    have same : x = o := alone x List.mem_cons_self
    unfold winner
    rw [same, ite_self]
    exact ih (fun y among => alone y (List.mem_cons_of_mem _ among))

theorem Order.contends_self (o : Order) : o.contends o = true := decide_eq_true ⟨rfl, rfl, rfl⟩

section Alone
variable {e : Eng} {o : Order} (alone : e.hat.orders = [o])
include alone

theorem Eng.setWinner_alone : e.setWinner o = o := by
  unfold Eng.setWinner
  rw [alone]
  exact winner_alone o _ (fun x among => List.mem_singleton.mp (List.mem_of_mem_filter among))

/-- An order that waits alone and is ready is the next to be resolved. -/
theorem Eng.nextSet_alone (past : o.stamp < e.now) (fetched : e.fetchedUpTo o.stamp = true) (behind : e.hat.behind = []) : e.nextSet = some o := by
  have ready : e.ordReady o = true := by
    unfold Eng.ordReady
    rw [behind, decide_eq_true past, fetched, List.any_nil, Bool.and_false]
    rfl
  have free : ∀ bars, e.setFree bars o = true := fun bars => by
    unfold Eng.setFree
    rw [Eng.setWinner_alone alone, behind, alone]
    dsimp only
    rw [List.any_nil, List.any_cons, List.any_nil, Order.contends_self, decide_eq_false (fun h => Nat.lt_irrefl _ h.2), Bool.and_false]
    cases o.peer <;> rfl
  unfold Eng.nextSet
  have only : e.hat.orders.filter e.ordReady = [o] := by rw [alone, List.filter_cons_of_pos ready, List.filter_nil]
  rw [only]
  change ((List.filter (fun x : Order => decide (x.stamp = o.stamp)) [o]).find? (e.setFree fun _ => true)).or _ = some o
  rw [List.filter_cons, if_pos (decide_eq_true rfl), List.filter_nil, List.find?_cons_of_pos (free _)]
  rfl

/-- The engine in which an order that waits alone takes effect: its records looked at, and no order waiting. -/
def Eng.ordFound (e : Eng) (o : Order) : Eng :=
  let x := e.noteSeen.lookUp o.rqid o.gen
  { x with hat := { x.hat with orders := [] } }

omit alone in
theorem Eng.noteSeen_eq (e : Eng) : e.noteSeen = { e with stw := { e.stw with
    seen := some (e.seenNow.getD { tick := e.now, recs := e.led.recs, insts := e.cmp.insts }) } } ∨ (e.noteSeen = e ∧ ∃ v, e.seenNow = some v) := by
  unfold Eng.noteSeen
  cases seen : e.seenNow with
  | none => exact .inl rfl
  | some v => exact .inr ⟨rfl, v, rfl⟩

omit alone in
/-- The records as the first look of the tick finds them are kept for the bundle of the tick. -/
theorem Eng.noteSeen_keeps (e : Eng) : e.noteSeen = { e with stw := { e.stw with
    seen := some (e.seenNow.getD { tick := e.now, recs := e.led.recs, insts := e.cmp.insts }) } } := by
  rcases e.noteSeen_eq with eq | ⟨eq, v, seen⟩
  · exact eq
  · rw [eq, seen, Option.getD_some]
    have kept : e.stw.seen = some v := (Option.filter_eq_some_iff.mp seen).1
    rw [← kept]

omit alone in
/-- What an order finds: looks at records, and what a bundle of the tick goes on seeing. -/
theorem Eng.ordFound_eq (e : Eng) {o : Order} {s : Nat} (named : e.named o.rqid o.gen = some s) : ∃ pd, e.ordFound o = { e with
    led := { e.led with hot := (e.sibs s).foldl hotFirst e.led.hot }, pd, hat := { e.hat with orders := [] }
    stw := { e.stw with seen := some (e.seenNow.getD { tick := e.now, recs := e.led.recs, insts := e.cmp.insts }) } } ∧
    ∀ k, (∀ y ∈ e.sibs s, k ≠ 1 + y % 4) → tgetD pd k { st := 0 } = e.dom k := by
  have seen := e.noteSeen_keeps
  have recs : e.noteSeen.led = e.led := by rw [seen]
  have looked := Eng.lookUp_named e.noteSeen ((Eng.named_congr (congrArg Led.recs recs) o.rqid o.gen).trans named)
  rw [Eng.sibs_congr (congrArg Led.recs recs)] at looked
  obtain ⟨pd, eq, beside⟩ := foldl_recUse (e.sibs s) e.noteSeen
  refine ⟨pd, ?_, fun k out => (beside k out).trans (by rw [seen]; rfl)⟩
  unfold Eng.ordFound
  rw [looked, eq, recs, seen]

theorem Eng.ordSet_alone {s : Nat} (named : e.named o.rqid o.gen = some s) (accepted : (e.ordFound o).ordStatus o = 0) :
    e.ordSet o = (((e.ordFound o).ordChange o s).ordAnswer o 0).ordFollow o s ((e.ordFound o).ordTargets o.opcode s) := by
  obtain ⟨pd, eq, -⟩ := e.ordFound_eq named
  have looked : (e.noteSeen.lookUp o.rqid o.gen).hat.orders = [o] := by
    have recs : e.noteSeen.led = e.led := by rw [e.noteSeen_keeps]
    have looked := Eng.lookUp_named e.noteSeen ((Eng.named_congr (congrArg Led.recs recs) o.rqid o.gen).trans named)
    obtain ⟨pd, eq, -⟩ := foldl_recUse (e.noteSeen.sibs s) e.noteSeen
    rw [looked, eq, e.noteSeen_keeps]
    exact alone
  have filtered : [o].filter (fun x => x.contends o) = [o] := by
    rw [List.filter_cons, if_pos o.contends_self, List.filter_nil]
  have gone : [o].filter (fun x => !x.contends o) = [] := by rw [List.filter_cons, o.contends_self]; rfl
  have won : winner o [o] = o := winner_alone o _ (fun x among => List.mem_singleton.mp among)
  have losers : [o].filter (fun x => decide (x ≠ o)) = [] := by rw [List.filter_cons, if_neg (by simp), List.filter_nil]
  have named' : (e.ordFound o).named o.rqid o.gen = some s := by
    rw [eq]
    exact (Eng.named_congr (e := e) rfl o.rqid o.gen).trans named
  unfold Eng.ordSet
  unfold Eng.ordFound at accepted named' ⊢
  dsimp only
  rw [looked, filtered, gone, won, losers]
  dsimp only at accepted named'
  rw [named', accepted]
  rfl

/-- An order that waits alone and is ready is resolved. -/
theorem Eng.resolve_alone (past : o.stamp < e.now) (fetched : e.fetchedUpTo o.stamp = true) (behind : e.hat.behind = [])
    (after : (e.ordSet o).hat.behind = []) : e.resolve = e.ordSet o := by
  have same : ({ e.ordSet o with hat := { (e.ordSet o).hat with behind := [] } } : Eng) = e.ordSet o := by rw [← after]
  unfold Eng.resolve
  rw [alone]
  change resolveLoop e 1 = _
  unfold resolveLoop
  rw [Eng.nextSet_alone alone past fetched behind]
  dsimp only
  rw [after, same]
  rfl

end Alone

/-! ### PREEMPT -/

theorem Eng.mirror_off (e : Eng) (off : e.mirrorOn = false) (s : Nat) : e.mirror s = e := by
  unfold Eng.mirror
  split
  · exact if_pos (by rw [off]; rfl)
  · rfl

/-- A sibling is PAUSED. -/
def LRec.paused (r : LRec) : LRec := { r with prior := r.state, state := 7 }

def Eng.pauseOne (e : Eng) (s : Nat) : Eng :=
  match e.rc s with
  | none => e
  | some r => (((e.recUse s).modRc s LRec.paused).mirror s).balance r.inst

theorem Eng.ordChange_pause (e : Eng) {o : Order} (op : o.opcode = 5) (first : Nat) :
    e.ordChange o first = (e.ordTargets 5 first).foldl Eng.pauseOne e := by
  unfold Eng.ordChange
  rw [op]
  rfl

theorem Eng.pauseOne_eq (e : Eng) {s : Nat} {r : LRec} (rc : e.rc s = some r) (off : e.mirrorOn = false) :
    ∃ hot pd, e.pauseOne s = { e with led := { e.led with hot, recs := tmod e.led.recs s LRec.paused }, pd, shv := { e.shv with
      balances := sinsert e.shv.balances r.inst } } ∧ hot = hotFirst e.led.hot s ∧ ∀ k, k ≠ 1 + s % 4 → tgetD pd k { st := 0 } = e.dom k := by
  refine ⟨hotFirst e.led.hot s, (e.recUse s).pd, ?_, rfl, fun k other => e.recUse_beside other⟩
  have same : (e.recUse s).modRc s LRec.paused = { e with led := { e.led with hot := hotFirst e.led.hot s, recs := tmod e.led.recs s LRec.paused }, pd := (e.recUse s).pd } := by
    rw [Eng.recUse_eq]
    rfl
  unfold Eng.pauseOne
  rw [rc]
  dsimp only
  rw [Eng.mirror_off _ (by rw [same]; exact off), same]
  rfl

/-- Siblings PAUSED, one after another. -/
theorem foldl_pauseOne (l : List Nat) (nodup : l.Nodup) (e : Eng) (some_ : ∀ s ∈ l, (e.rc s).isSome = true) (off : e.mirrorOn = false) :
    ∃ recs pd, l.foldl Eng.pauseOne e = { e with led := { e.led with hot := l.foldl hotFirst e.led.hot, recs }, pd, shv := { e.shv with
        balances := (l.filterMap e.rc).foldl (fun b v => sinsert b v.inst) e.shv.balances } } ∧
      (∀ y, tget recs y = (e.rc y).map (fun v => if y ∈ l then v.paused else v)) ∧
      ∀ k, (∀ y ∈ l, k ≠ 1 + y % 4) → tgetD pd k { st := 0 } = e.dom k := by
  induction l generalizing e with
  | nil => exact ⟨_, _, rfl, fun y => by simp [Eng.rc], fun _ _ => rfl⟩
  | cons s l ih =>
    obtain ⟨fresh, nodup'⟩ := List.nodup_cons.mp nodup
    obtain ⟨r, rc⟩ := Option.isSome_iff_exists.mp (some_ s List.mem_cons_self)
    obtain ⟨hot, pd, one, first, beside⟩ := e.pauseOne_eq rc off
    have rc' : ∀ y, (e.pauseOne s).rc y = if y = s then (e.rc s).map LRec.paused else e.rc y := fun y => by
      rw [one]
      exact tget_tmod _ _ _ _
    obtain ⟨recs', pd', eq, paused, beside'⟩ := ih nodup' (e.pauseOne s) (fun y among => by
      rw [rc', if_neg (ne_of_mem_of_not_mem among fresh)]
      exact some_ y (List.mem_cons_of_mem _ among)) (by rw [one]; exact off)
    have later : l.filterMap (e.pauseOne s).rc = l.filterMap e.rc := List.filterMap_congr (fun y among => by
      rw [rc', if_neg (ne_of_mem_of_not_mem among fresh)])
    refine ⟨recs', pd', ?_, fun y => ?_, fun k out => ?_⟩
    · rw [List.foldl_cons, eq, later, List.filterMap_cons_some rc, List.foldl_cons, List.foldl_cons, one, first]
    · rw [paused, rc']
      by_cases here : y = s
      · rw [if_pos here, here, rc, Option.map_some, Option.map_some, Option.map_some, if_neg fresh, if_pos List.mem_cons_self]
      · rw [if_neg here]
        simp only [List.mem_cons, here, false_or]
    · refine (beside' k (fun y among => out y (List.mem_cons_of_mem _ among))).trans ?_
      rw [one]
      exact beside k (out s List.mem_cons_self)

end Sys2Proof.Machine
end

section
/-!
Mirrors, orders of peers and the topology map (O58).
-/
namespace Sys2Proof.Machine

/-! ### Frames that this engine sends -/

/-- A frame on its way changes, beside the links and what is charged, only what reports. -/
structure Eng.Puts (e e' : Eng) : Prop where
  rest : e' = { e with
    regs := e'.regs, out := e'.out, raf := { e.raf with links := e'.raf.links }, kpr := { e.kpr with parts := e'.kpr.parts }
    hat := { e.hat with rings := e'.hat.rings }, dbg := { e.dbg with cnt := e'.dbg.cnt } }
  only : e.Only [1, 12, 13, 17] [] e'

section Puts
variable {e e' : Eng} {l : Nat}

theorem Eng.Puts.refl (e : Eng) : e.Puts e := ⟨rfl, .refl e⟩

theorem Eng.Puts.trans {a b c : Eng} (ab : a.Puts b) (bc : b.Puts c) : a.Puts c := by
  refine ⟨?_, ab.only.trans bc.only⟩
  have rest := bc.rest
  rw [ab.rest] at rest
  exact rest

theorem Eng.Puts.of_reports (reports : e.Reports e') : e.Puts e' := by
  refine ⟨?_, .of_reports reports (by decide) (by decide)⟩
  have raf := reports.raf_eq
  have kpr := reports.kpr_eq
  have rest := reports.rest
  rw [raf, kpr]
  exact rest

theorem Eng.Puts.setLink (e : Eng) (l : Nat) (x : Link) : e.Puts (e.setLink l x) := ⟨rfl, .setRaf _ _ (by decide)⟩

theorem Eng.Puts.modPart (e : Eng) (p : Nat) (f : KPart → KPart) : e.Puts (e.modPart p f) := ⟨rfl, .setKpr _ _ (by decide)⟩

theorem Eng.Puts.emit (e : Eng) (o : Out) : e.Puts (e.emit o) := ⟨rfl, .emit _ _⟩

theorem Eng.Puts.regCharge (e : Eng) (p st ce ra : Nat) : e.Puts (e.regCharge p st ce ra) := by
  unfold Eng.regCharge
  exact .modPart _ _ _

theorem Eng.Puts.linkSend (e : Eng) (l : Nat) (f : Frame) (order : Nat) : e.Puts (e.linkSend l f order) := by
  unfold Eng.linkSend
  extract_lets k c g k' e1 e2 e3
  have sent : e.Puts e2 := (Eng.Puts.setLink e l k').trans ((Eng.Puts.emit _ (.frame l g)).trans (.of_reports (e1.count_reports 0x1014 g.bytes _ none)))
  clear_value e2
  split
  · have charged : e.Puts e3 := sent.trans (.regCharge e2 f.pid 0 0 g.bytes)
    clear_value e3
    split
    · exact charged.trans (.modPart e3 f.pid _)
    · exact charged
  · exact sent

theorem Eng.Puts.linkFlush (l : Nat) (fuel : List Frame) (e : Eng) : e.Puts (linkFlush e l fuel) := by
  induction fuel generalizing e with
  | nil => exact .refl _
  | cons _ r ih =>
    rw [Machine.linkFlush]
    split
    · exact .refl _
    · next f o _ => exact (Eng.Puts.linkSend e l f o).trans (ih _)

theorem Eng.Puts.flush (e : Eng) (l : Nat) : e.Puts (e.flush l) := by
  unfold Eng.flush
  split
  · exact .linkFlush _ _ _
  · exact .refl _

theorem Eng.Puts.linkPut (e : Eng) (l : Nat) (f : Frame) : e.Puts (e.linkPut l f) := by
  unfold Eng.linkPut
  exact (Eng.Puts.setLink _ _ _).trans (.flush _ _)

theorem Eng.Puts.send (e : Eng) (f : Frame) : e.Puts (e.send f) := by
  unfold Eng.send Eng.sendVia
  dsimp only
  split
  · exact .refl _
  · split
    · exact .linkPut _ _ _
    · exact .of_reports (Eng.raiseE_reports _ _ _ _ _)

theorem Eng.Puts.consumed (e : Eng) (l : Nat) (f : Frame) : e.Puts (e.consumed l f) := by
  unfold Eng.consumed
  dsimp only
  split
  · exact (Eng.Puts.setLink _ _ _).trans (.linkPut _ _ _)
  · split
    · split
      · exact .linkPut _ _ _
      · exact .refl _
    · exact .refl _

end Puts

theorem Eng.linkActive_of_nextLink {e : Eng} {c r : Nat} {up : Bool} (next : e.nextLink c up = some r) : e.linkActive r = true := by
  have among := List.mem_of_mem_head? (Option.mem_def.mpr next)
  obtain ⟨route, -, at_⟩ := List.mem_filterMap.mp among
  revert at_
  split
  · exact nofun
  · split
    · next l there =>
      split
      · next ok =>
        intro same
        rw [← Option.some.inj same]
        exact (Bool.and_eq_true_iff.mp ok).1
      · exact nofun
    · exact nofun

/-- A frame of no partition goes out on the link to its engine, where that is idle and has a credit. -/
theorem Eng.send_sends (e : Eng) {f : Frame} {r : Nat} (on : e.rafOn = true) (other : f.dst ≠ e.self)
    (next : e.nextLink f.dst (shortUp e.self f.dst) = some r) (idle : (e.link r).waiting = []) (credit : (e.link r).sSent < (e.link r).sDone + 48)
    (free : f.pidV = false) (one : frameClass f.typ = 1) :
    ∃ g, .frame r g ∈ (e.send f).out ∧ g.typ = f.typ ∧ g.src = e.self ∧ g.dst = f.dst ∧ g.arg = f.arg ∧ g.words = f.words := by
  have quiet : e.ras.quiesced = false := by
    rw [Eng.rafOn, Bool.and_eq_true, Bool.and_eq_true] at on
    exact (Bool.not_eq_true' _).mp on.1.2
  have sends : e.send f = e.linkPut r { f with src := e.self } := by
    unfold Eng.send Eng.sendVia
    dsimp only
    rw [quiet, decide_eq_false other, Bool.false_or, if_neg Bool.false_ne_true, next]
  obtain ⟨-, -, -, out⟩ := e.linkPut_sends (f := { f with src := e.self }) (Eng.rafOn_en on) (Eng.linkActive_of_nextLink next) idle free
    (by rw [show frameClass f.typ = 1 from one]; decide) (by
      unfold Link.hasCredit
      rw [show frameClass f.typ = 1 from one, if_pos rfl, decide_eq_true credit])
  rw [sends]
  refine ⟨_, out, ?_⟩
  unfold Link.numbered
  split
  · exact ⟨rfl, rfl, rfl, rfl, rfl⟩
  · exact ⟨rfl, rfl, rfl, rfl, rfl⟩

/-! ### Frames that it takes -/

/-- A field below bit 31 that resets to 0 stays under any selection. -/
theorem Eng.LowKept.fv {e e' : Eng} {b : Nat} (low : e.LowKept b e') {f : Fld} {sel : Nat} (above : b ≤ regKey f.off sel) (under : f.hi < 31)
    (reset : bitsOf (rstWord f.off).toNat f.hi f.lo = 0) : e'.fv f sel = e.fv f sel := by
  have word : ∀ v v' : Word, (∀ i, i < 31 → v'.getLsbD i = v.getLsbD i) → bitsOf v'.toNat f.hi f.lo = bitsOf v.toNat f.hi f.lo := fun v v' same =>
    Nat.eq_of_testBit_eq (fun i => by
      rw [bitsOf_testBit, bitsOf_testBit, BitVec.testBit_toNat, BitVec.testBit_toNat]
      by_cases within : i < f.hi + 1 - f.lo
      · rw [same (f.lo + i) (by omega)]
      · rw [decide_eq_false within, Bool.false_and, Bool.false_and])
  change bitsOf (tgetD e'.regs (regKey f.off sel) (rstWord f.off)).toNat f.hi f.lo = bitsOf (tgetD e.regs (regKey f.off sel) (rstWord f.off)).toNat f.hi f.lo
  obtain ⟨held, fresh⟩ := low _ above
  cases was : tget e.regs (regKey f.off sel) with
  | some v =>
    obtain ⟨v', is, same⟩ := held v was
    rw [tgetD, is, tgetD, was, Option.getD_some, Option.getD_some]
    exact word v v' same
  | none =>
    rw [show tgetD e.regs (regKey f.off sel) (rstWord f.off) = rstWord f.off by rw [tgetD, was, Option.getD_none], reset]
    cases is : tget e'.regs (regKey f.off sel) with
    | none => rw [tgetD, is, Option.getD_none, reset]
    | some v' =>
      rw [tgetD, is, Option.getD_some, word 0#32 v' (fun i hi => (fresh was v' is i hi).trans BitVec.getLsbD_zero.symm)]
      exact Nat.eq_of_testBit_eq (fun i => by rw [bitsOf_testBit, BitVec.testBit_toNat, BitVec.getLsbD_zero, Bool.and_false, Nat.zero_testBit])

/-- The completion ring of a ring, whatever its number. -/
theorem Eng.LowKept.cqOf {e e' : Eng} (low : e.LowKept 0 e') (r : Nat) : e'.cqOf r = e.cqOf r :=
  low.fv (f := F.HAT_RING_CFG_CQ) (Nat.zero_le _) (by decide) (by decide +kernel)

theorem Eng.LowKept.count (e : Eng) (b src amt : Nat) (pid inst : Option Nat) : e.LowKept b (e.count src amt pid inst) := by
  unfold Eng.count
  split
  · exact .of_regs rfl
  · exact .countAmt _ _ _ _ _

theorem Eng.heard_low (e : Eng) (l : Nat) (f : Frame) : e.LowKept 0 (e.heard l f) :=
  Eng.LowKept.trans (y := e.rxCount f) (.count e 0 _ _ _ _) (.foldl _ (fun e p => e.setLane p { e.lane p with lastFrame := e.now }) (fun _ _ _ => .of_regs rfl) _)

/-- What the act of a credited frame that its link expects finds. -/
structure Eng.Taken (e x : Eng) : Prop where
  raf : ∃ lanes links, x.raf = { e.raf with lanes, links }
  active : ∀ k, x.linkActive k = e.linkActive k
  link : ∀ k, (x.link k).waiting = (e.link k).waiting ∧ (x.link k).sSent = (e.link k).sSent ∧ (x.link k).sDone = (e.link k).sDone
  only : e.Only [13, 17] [] x
  low : e.LowKept 0 x

theorem Eng.Taken.self {e x : Eng} (taken : e.Taken x) : x.self = e.self := taken.only.self (by decide)

theorem Eng.Only.rafOn {us : List Nat} {e e' : Eng} (only : e.Only us [] e') (ras : 16 ∉ us) : e'.rafOn = e.rafOn := by
  have same : e'.ras = e.ras := only.parts 16 ras
  unfold Eng.rafOn Eng.unitHalted Eng.cap_
  rw [only.fb (by decide) (by decide) (by decide), same]

theorem Eng.nextLink_congr {e x : Eng} (self : x.self = e.self) (active : ∀ k, x.linkActive k = e.linkActive k) (lost : x.raf.lost = e.raf.lost)
    (c : Nat) (up : Bool) : x.nextLink c up = e.nextLink c up := by
  unfold Eng.nextLink
  rw [self, lost]
  refine congrArg List.head? (List.filterMap_congr (fun route _ => ?_))
  cases route with
  | nil => rfl
  | cons c rest =>
    dsimp only
    split
    · rw [active]
    · rfl

theorem Eng.Taken.send {e x y : Eng} (taken : e.Taken x) (raf : y.raf = x.raf) (only : x.Only [1, 13, 16, 17] [] y) (ras : y.rafOn = x.rafOn) {f : Frame} {r : Nat}
    (on : e.rafOn = true) (other : f.dst ≠ e.self) (next : e.nextLink f.dst (shortUp e.self f.dst) = some r) (idle : (e.link r).waiting = [])
    (credit : (e.link r).sSent < (e.link r).sDone + 48) (free : f.pidV = false) (one : frameClass f.typ = 1) :
    ∃ g, .frame r g ∈ (y.send f).out ∧ g.typ = f.typ ∧ g.src = e.self ∧ g.dst = f.dst ∧ g.arg = f.arg ∧ g.words = f.words := by
  have self : y.self = e.self := (only.self (by decide)).trans taken.self
  have link : y.link r = x.link r := congrArg (fun m : Raf => tgetD m.links r {}) raf
  obtain ⟨waiting, sent, done⟩ := taken.link r
  have active : ∀ k, y.linkActive k = e.linkActive k := fun k => by
    refine Eq.trans ?_ (taken.active k)
    unfold Eng.linkActive Eng.lanesOf Eng.lane
    rw [raf]
  have lost : y.raf.lost = e.raf.lost := by
    obtain ⟨lanes, links, eq⟩ := taken.raf
    rw [raf, eq]
  rw [← self]
  exact y.send_sends (ras.trans ((taken.only.rafOn (by decide)).trans on)) (by rw [self]; exact other)
    (by rw [Eng.nextLink_congr self active lost, self]; exact next) (by rw [link, waiting]; exact idle) (by rw [link, sent, done]; exact credit) free one

/-- A credited frame for this engine runs its act on what is taken, and is consumed. -/
theorem exec_taken {s : State} {link t : Nat} {frame : RxFrame} {act : Eng → Frame → Eng} {c : Instr} (hyp : Expected s link frame)
    (typ : (frameOf frame).typ = t) (credited : frameClass t ≠ 0) (runs : exec c s = live s (fun e => e.recv link t frame act)) :
    ∃ x, s.eng.Taken x ∧ exec c s = .next (s.withEng ((act x (frameOf frame)).consumed link (frameOf frame))) := by
  obtain ⟨here, others, only, -, active, -, raf⟩ := s.eng.inSeq_finds link (frameOf frame) hyp.on
  refine ⟨_, ⟨raf, active, fun k => ?_, only, .trans (s.eng.heard_low _ _) (.of_regs rfl)⟩, ?_⟩
  · by_cases same : k = link
    · rw [same, here]
      exact ⟨rfl, rfl, rfl⟩
    · rw [others k same]
      exact ⟨rfl, rfl, rfl⟩
  · rw [runs, live_up hyp.up, s.eng.recv_expected hyp.on hyp.low hyp.active hyp.ok typ credited hyp.mine hyp.next]

/-! ### Mirrors -/

/-- The entry of a MIRROR frame. -/
def mirrorOf (f : Frame) : Mirror :=
  { chip := f.src, slot := f.words.getD 0 0 % 2 ^ 24, rc := recOf (BitVec.ofNat 1024 (ofWords ((f.words.drop 1).take 16))) }

theorem mirrorTake_one (e : Eng) (c : Nat) {w : List Nat} (length : w.length = 17) (plain : w.getD 0 0 / 2 ^ 24 % 2 = 0) :
    mirrorTake e c w w = e.mirrorKeep c { chip := c, slot := w.getD 0 0 % 2 ^ 24, rc := recOf (BitVec.ofNat 1024 (ofWords ((w.drop 1).take 16))) } := by
  have noStack : bitOf (w.getD 0 0) 24 = false := decide_eq_false (by rw [plain]; decide)
  have rest : ∀ (y : Eng) (fuel : List Nat), mirrorTake y c (w.drop 17) fuel = y := fun y fuel => by
    cases fuel with
    | nil => rfl
    | cons z r => exact if_pos (by rw [List.length_drop, length]; decide)
  cases w with
  | nil => exact absurd length (by decide)
  | cons z r =>
    refine (if_neg (by rw [length]; decide)).trans ?_
    dsimp only
    rw [noStack, if_neg Bool.false_ne_true, if_neg Bool.false_ne_true, rest, bitsOf_low]

section Frames
variable {s : State} {link : Nat} {frame : RxFrame}

/-- The first part of O58: a MIRROR entry is kept, or removed, and acknowledged. -/
theorem mirror_keeps {r : Nat} (hyp : Expected s link frame) (typ : (frameOf frame).typ = 0x20) (other : (frameOf frame).src ≠ s.eng.self)
    (length : (frameOf frame).words.length = 17) (plain : (frameOf frame).words.getD 0 0 / 2 ^ 24 % 2 = 0) :
    let e := s.eng
    let f := frameOf frame
    let m := mirrorOf f
    let others := e.ras.mirrors.filter (fun y => decide (y.chip ≠ m.chip ∨ y.slot ≠ m.slot))
    ∃ t, exec (.mirror link frame) s = .next t ∧ (e.nextLink f.src (shortUp e.self f.src) = some r → (e.link r).waiting = [] →
        (e.link r).sSent < (e.link r).sDone + 48 →
        ∃ g, .frame r g ∈ t.eng.out ∧ g.typ = 0x21 ∧ g.src = e.self ∧ g.dst = f.src ∧ g.arg = f.arg ∧ g.words = []) ∧
      t.eng.ras = { e.ras with mirrors := if m.rc.state = 0 then others else others ++ [m] } ∧ s.Only [1, 12, 13, 16, 17] [] t := by
  intro e f m others
  obtain ⟨x, taken, ran⟩ := exec_taken (c := .mirror link frame) hyp typ (by decide) rfl
  rw [mirrorTake_one x f.src length plain] at ran
  have ras : x.ras = e.ras := taken.only.parts 16 (by decide)
  have kept : (x.mirrorKeep f.src m).ras = { e.ras with mirrors := if m.rc.state = 0 then others else others ++ [m] } := by
    change ({ x.ras with mirrors := _ } : Ras) = _
    rw [ras]
    rfl
  have only : x.Only [16] [] (x.mirrorKeep f.src m) := .setRas _ _ (by decide)
  have raf : (x.mirrorKeep f.src m).raf = x.raf := rfl
  have on : (x.mirrorKeep f.src m).rafOn = x.rafOn := rfl
  change exec (.mirror link frame) s = .next (s.withEng (((x.mirrorKeep f.src m).send { typ := 0x21, dst := f.src, arg := f.arg }).consumed link f)) at ran
  generalize x.mirrorKeep f.src m = y at ran kept only raf on
  have sends := fun next idle credit => taken.send (f := { typ := 0x21, dst := f.src, arg := f.arg }) (r := r) raf (only.weaken (by decide) (by decide)) on hyp.on other
    next idle credit rfl (show frameClass 0x21 = 1 by decide)
  have puts := Eng.Puts.send y { typ := 0x21, dst := f.src, arg := f.arg }
  generalize y.send { typ := 0x21, dst := f.src, arg := f.arg } = z at ran sends puts
  have last := Eng.Puts.consumed z link f
  generalize z.consumed link f = w at ran last
  obtain ⟨more, out⟩ := last.only.out
  refine ⟨_, ran, fun next idle credit => ?_, ?_, .withEng ((taken.only.weaken (by decide) (by decide)).trans ((only.weaken (by decide) (by decide)).trans
    ((puts.only.weaken (by decide) (by decide)).trans (last.only.weaken (by decide) (by decide)))))⟩
  · obtain ⟨g, sent, facts⟩ := sends next idle credit
    refine ⟨g, ?_, facts⟩
    change _ ∈ w.out
    rw [out]
    exact List.mem_append_right _ sent
  · exact (last.only.parts 16 (by decide)).trans ((puts.only.parts 16 (by decide)).trans kept)

/-- A held record that is no longer owed goes out, where it is the only one. -/
theorem Eng.mirrorFree_alone (e : Eng) {n : Nat} {v : CmpRec} (held : e.hat.heldRecs = [(n, v)]) (paid : e.mirrorOwed v.rqid n = false) :
    e.mirrorFree = { e.complete v with hat := { (e.complete v).hat with heldRecs := [] } } := by
  unfold Eng.mirrorFree
  rw [held, releaseHeld, paid, if_neg (show ¬(false || heldBefore [] v) = true from Bool.false_ne_true), releaseHeld]

theorem Eng.complete_out (e : Eng) (v : CmpRec) : ∃ l, (e.complete v).out = l ++ e.out := by
  rcases e.complete_either v with eq | eq
  · rw [eq]
    exact ⟨[_, _], rfl⟩
  · rw [eq]
    exact ⟨[_], rfl⟩

theorem Eng.Only.complete {us offs : List Nat} (e : Eng) (v : CmpRec) (hatch : 1 ∈ us) : e.Only us offs (e.complete v) := by
  obtain ⟨l, out⟩ := e.complete_out v
  rw [Eng.complete_rest, out]
  exact .setHatOut e _ l hatch

/-- A ring that has a free entry has one where neither it nor what configures it has changed. -/
theorem Eng.Only.ringFree {us : List Nat} {e e' : Eng} (only : e.Only us [] e') {c : Nat} (ring : e'.ring c = e.ring c) (low : c < 65536)
    (open_ : e.blocked c = false) (room : e.cmpFull c = false) :
    e'.cqTakes c = true ∧ (∀ n, e'.ringPhase c n = e.ringPhase c n) ∧ (e.ring c).ovf = [] := by
  have reg : e'.reg 0x1054 c = e.reg 0x1054 c := only.regs _ _ low List.not_mem_nil (by decide) (fun stall => absurd stall (by decide))
  have takes : e.cqTakes c = true := by
    rw [Eng.cmpFull_eq] at room
    exact (Bool.not_eq_false' _).mp room
  have depth : e'.ringDepth c = e.ringDepth c := congrArg (fun w : Word => 2 ^ (bitsOf w.toNat 7 4 + 4)) reg
  refine ⟨?_, fun n => by rw [Eng.ringPhase, depth]; rfl, ?_⟩
  · rw [← takes]
    have en : e'.ringEn c = e.ringEn c := congrArg (fun w : Word => decide (bitsOf w.toNat 3 3 = 1)) reg
    have kind : e'.ringKind c = e.ringKind c := congrArg (fun w : Word => bitsOf w.toNat 1 0) reg
    unfold Eng.cqTakes Eng.ringFill
    rw [only.fb (by decide) (by decide) (by decide), en, kind, ring, depth]
  · unfold Eng.blocked at open_
    obtain ⟨none_, -⟩ := Bool.or_eq_false_iff.mp open_
    exact List.isEmpty_iff.mp ((Bool.not_eq_false' _).mp none_)

/-- The second part of O58: an acknowledgement lets a held record out. -/
theorem mirrorAck_frees {n : Nat} {v : CmpRec} (hyp : Expected s link frame) (typ : (frameOf frame).typ = 0x21)
    (chip : s.eng.ras.sled.chip = some (frameOf frame).src) (live_ : s.eng.ras.sled.state = 2) (ring : s.eng.ras.ring.chip = none)
    (state : s.eng.ras.ring.state = 0) (held : s.eng.hat.heldRecs = [(n, v)]) (covered : n ≤ (frameOf frame).arg) :
    let e := s.eng
    let c := e.cqOf v.ring
    ∃ t, exec (.mirrorAck link frame) s = .next t ∧ t.eng.ras = { e.ras with sled := { e.ras.sled with
        acked := max e.ras.sled.acked (frameOf frame).arg } } ∧ t.eng.hat.heldRecs = [] ∧
      (e.blocked c = false → e.cmpFull c = false → .completion c (e.ring c).tail (e.ringPhase c (e.ring c).tail) v ∈ t.eng.out) ∧
      s.Only [1, 12, 13, 16, 17] [] t := by
  intro e c
  obtain ⟨x, taken, ran⟩ := exec_taken (c := .mirrorAck link frame) hyp typ (by decide) rfl
  have ras : x.ras = e.ras := taken.only.parts 16 (by decide)
  have hat : x.hat = e.hat := taken.only.parts 1 (by decide)
  let acked : Ras := { e.ras with sled := { e.ras.sled with acked := max e.ras.sled.acked (frameOf frame).arg } }
  have sled : e.ras.sled.ack (frameOf frame).src (frameOf frame).arg = { e.ras.sled with acked := max e.ras.sled.acked (frameOf frame).arg } := by
    unfold Buddy.ack Buddy.takes
    refine (if_neg (by rw [chip, live_]; simp)).trans (if_neg (fun h => ?_))
    obtain ⟨fresh, -⟩ := h
    exact absurd (live_.symm.trans fresh) (by decide)
  have other : e.ras.ring.ack (frameOf frame).src (frameOf frame).arg = e.ras.ring := if_pos (.inl (by rw [ring]; exact nofun))
  rw [ras, sled, other] at ran
  let y : Eng := { x with ras := acked }
  have paid : y.mirrorOwed v.rqid n = false := by
    have sledPaid : y.buddyOwes y.ras.sled v.rqid n = false := by
      have late : ¬(max e.ras.sled.acked (frameOf frame).arg < n ∧ n ≤ e.ras.sled.sent) := fun h => by omega
      unfold Eng.buddyOwes
      dsimp only
      change (y.mirrorOn && decide (max e.ras.sled.acked (frameOf frame).arg < n ∧ n ≤ e.ras.sled.sent) && _) = false
      rw [decide_eq_false late, Bool.and_false, Bool.false_and]
    have ringPaid : y.buddyOwes y.ras.ring v.rqid n = false := by
      unfold Eng.buddyOwes
      dsimp only
      change (_ && (decide (e.ras.ring.state = 2) || decide (e.ras.ring.state = 1) && _)) = false
      rw [state]
      exact Bool.and_false _
    unfold Eng.mirrorOwed
    rw [sledPaid, ringPaid]
    rfl
  have freed := y.mirrorFree_alone (n := n) (v := v) (by rw [← held, ← hat]) paid
  change exec (.mirrorAck link frame) s = .next (s.withEng (y.mirrorFree.consumed link (frameOf frame))) at ran
  rw [freed] at ran
  have yOnly : x.Only [16] [] y := .setRas _ _ (by decide)
  have yRas : y.ras = acked := rfl
  have yHat : y.hat = e.hat := hat
  have yRegs : y.regs = x.regs := rfl
  have yLow : e.LowKept 0 y := taken.low.trans (.of_regs rfl)
  clear_value y
  have yc : y.cqOf v.ring = c := yLow.cqOf v.ring
  have done : y.Only [1] [] (y.complete v) := .complete y v (by decide)
  have wrote : e.blocked c = false → e.cmpFull c = false → .completion c (e.ring c).tail (e.ringPhase c (e.ring c).tail) v ∈ (y.complete v).out := fun open_ room => by
    have yOf : e.Only [13, 16, 17] [] y := (taken.only.weaken (by decide) (by decide)).trans (yOnly.weaken (by decide) (by decide))
    have ring : y.ring c = e.ring c := congrArg (fun h : Hat => tgetD h.rings c {}) yHat
    obtain ⟨takes, phase, none_⟩ := yOf.ringFree ring (Nat.lt_trans (e.fv_lt F.HAT_RING_CFG_CQ v.ring) (by decide)) open_ room
    rw [y.complete_takes v (by rw [yc]; exact takes) (by rw [yc, ring]; exact none_), yc, Eng.cmpWrite_eq, ring, phase]
    exact List.mem_cons_of_mem _ List.mem_cons_self
  generalize y.complete v = z at ran done wrote
  have only : z.Only [1] [] { z with hat := { z.hat with heldRecs := [] } } := .setHat _ _ (by decide)
  have none_ : ({ z with hat := { z.hat with heldRecs := [] } } : Eng).hat.heldRecs = [] := rfl
  have out : ({ z with hat := { z.hat with heldRecs := [] } } : Eng).out = z.out := rfl
  generalize ({ z with hat := { z.hat with heldRecs := [] } } : Eng) = u at ran only none_ out
  have last := Eng.OnLink.consumed u link (frameOf frame)
  generalize u.consumed link (frameOf frame) = w at ran last
  obtain ⟨more, grown⟩ := last.only.out
  have all : x.Only [1, 16] [] u := (yOnly.weaken (by decide) (by decide)).trans ((done.weaken (by decide) (by decide)).trans (only.weaken (by decide) (by decide)))
  refine ⟨_, ran, ?_, (congrArg Hat.heldRecs (last.only.parts 1 (by decide))).trans none_, fun open_ room => ?_,
    .withEng ((taken.only.weaken (by decide) (by decide)).trans ((all.weaken (by decide) (by decide)).trans (last.only.weaken (by decide) (by decide))))⟩
  · exact (last.only.parts 16 (by decide)).trans ((only.parts 16 (by decide)).trans ((done.parts 16 (by decide)).trans yRas))
  · change _ ∈ w.out
    rw [grown, out]
    exact List.mem_append_right _ (wrote open_ room)

/-- The third part of O58: an ORDER with an opcode that is not listed. -/
theorem order_refused {r : Nat} (hyp : Expected s link frame) (typ : (frameOf frame).typ = 0x28) (other : (frameOf frame).src ≠ s.eng.self)
    (unlisted : (ordOf (BitVec.ofNat 1024 (ofWords ((frameOf frame).words.take 16)))).opcode < 2 ∨ 6 < (ordOf (BitVec.ofNat 1024 (ofWords ((frameOf frame).words.take 16)))).opcode) :
    let e := s.eng
    let f := frameOf frame
    ∃ t, exec (.order link frame) s = .next t ∧ (e.nextLink f.src (shortUp e.self f.src) = some r → (e.link r).waiting = [] →
        (e.link r).sSent < (e.link r).sDone + 48 →
        ∃ g, .frame r g ∈ t.eng.out ∧ g.typ = 0x2A ∧ g.src = e.self ∧ g.dst = f.src ∧ g.arg = f.arg ∧ g.words = [0x2C]) ∧ s.Only [1, 12, 13, 17] [] t := by
  intro e f
  obtain ⟨x, taken, ran⟩ := exec_taken (c := .order link frame) hyp typ (by decide) rfl
  have refused : x.peerOrder f = x.send { typ := 0x2A, dst := f.src, arg := f.arg, len := 8, words := [0x2C] } := if_pos unlisted
  rw [show frameOf frame = f from rfl, refused] at ran
  have sends := fun next idle credit => taken.send (f := { typ := 0x2A, dst := f.src, arg := f.arg, len := 8, words := [0x2C] }) (r := r) rfl (.refl x) rfl hyp.on other
    next idle credit rfl (show frameClass 0x2A = 1 by decide)
  have puts := Eng.Puts.send x { typ := 0x2A, dst := f.src, arg := f.arg, len := 8, words := [0x2C] }
  generalize x.send { typ := 0x2A, dst := f.src, arg := f.arg, len := 8, words := [0x2C] } = z at ran sends puts
  have last := Eng.Puts.consumed z link f
  generalize z.consumed link f = w at ran last
  obtain ⟨more, out⟩ := last.only.out
  refine ⟨_, ran, fun next idle credit => ?_, .withEng ((taken.only.weaken (by decide) (by decide)).trans (puts.only.trans last.only))⟩
  obtain ⟨g, sent, facts⟩ := sends next idle credit
  refine ⟨g, ?_, facts⟩
  change _ ∈ w.out
  rw [out]
  exact List.mem_append_right _ sent

/-- The order that an ORDER frame brings. -/
def peerOrderOf (f : Frame) (now : Nat) : Order :=
  let o := ordOf (BitVec.ofNat 1024 (ofWords (f.words.take 16)))
  { opcode := o.opcode, rqid := o.rqid, gen := o.gen, stamp := now, peer := some f.src, seq := f.arg, tag := o.userTag
    flags := b2n o.setDeadline + 2 * b2n o.setMaxNew, deadline := o.deadlineLast, maxNew := o.maxNew }

/-- An order that has come in this tick waits. -/
theorem Eng.resolve_fresh (e : Eng) {o : Order} (alone : e.hat.orders = [o]) (now : o.stamp = e.now) : e.resolve = e := by
  have waits : e.ordReady o = false := by
    unfold Eng.ordReady
    rw [now, decide_eq_false (Nat.lt_irrefl _)]
    rfl
  have none_ : e.nextSet = none := by
    unfold Eng.nextSet
    rw [alone, List.filter_cons, waits, List.filter_nil]
    rfl
  unfold Eng.resolve
  rw [alone]
  change resolveLoop e 1 = e
  unfold resolveLoop
  rw [none_]

/-- The fourth part of O58: an ORDER that is in form waits. -/
theorem order_waits (hyp : Expected s link frame) (typ : (frameOf frame).typ = 0x28)
    (least : 2 ≤ (ordOf (BitVec.ofNat 1024 (ofWords ((frameOf frame).words.take 16)))).opcode)
    (most : (ordOf (BitVec.ofNat 1024 (ofWords ((frameOf frame).words.take 16)))).opcode ≤ 6)
    (ok : ordOk (BitVec.ofNat 1024 (ofWords ((frameOf frame).words.take 16))) = true) (none_ : s.eng.hat.orders = []) :
    ∃ t, exec (.order link frame) s = .next t ∧ t.eng.hat = { s.eng.hat with orders := [peerOrderOf (frameOf frame) s.eng.now] } ∧ s.Only [1, 12, 13, 17] [] t := by
  obtain ⟨x, taken, ran⟩ := exec_taken (c := .order link frame) hyp typ (by decide) rfl
  have hat : x.hat = s.eng.hat := taken.only.parts 1 (by decide)
  have now : x.now = s.eng.now := taken.only.parts 0 (by decide)
  let y : Eng := { x with hat := { x.hat with orders := x.hat.orders ++ [peerOrderOf (frameOf frame) x.now] } }
  have waits : x.peerOrder (frameOf frame) = y.resolve := (if_neg (by omega)).trans (if_neg (by rw [ok]; decide))
  have alone : y.hat.orders = [peerOrderOf (frameOf frame) x.now] := by
    change x.hat.orders ++ _ = _
    rw [hat, none_, List.nil_append]
  have only : x.Only [1] [] y := .setHat _ _ (by decide)
  rw [waits, y.resolve_fresh alone rfl] at ran
  have kept : y.hat = { s.eng.hat with orders := [peerOrderOf (frameOf frame) s.eng.now] } := by
    change ({ x.hat with orders := y.hat.orders } : Hat) = _
    rw [alone, hat, now]
  clear_value y
  have last := Eng.OnLink.consumed y link (frameOf frame)
  exact ⟨_, ran, (last.only.parts 1 (by decide)).trans kept, .withEng ((taken.only.weaken (by decide) (by decide)).trans
    ((only.weaken (by decide) (by decide)).trans (last.only.weaken (by decide) (by decide))))⟩

/-- The fifth part of O58: an answer to an order of this engine's is noted. -/
theorem orderAnswer_noted (hyp : Expected s link frame) {t : Nat} {status : Frame → Nat} {c : Instr} (typ : (frameOf frame).typ = t) (credited : frameClass t ≠ 0)
    (runs : exec c s = live s (fun e => e.recv link t frame (fun e f => e.orderAnswered f.arg (status f)))) :
    ∃ t, exec c s = .next t ∧ t.eng.raf.sentOrders = s.eng.raf.sentOrders ++ [((frameOf frame).arg, status (frameOf frame))] ∧ s.Only [12, 13, 17] [] t := by
  obtain ⟨x, taken, ran⟩ := exec_taken hyp typ credited runs
  obtain ⟨lanes, links, raf⟩ := taken.raf
  have noted : (x.orderAnswered (frameOf frame).arg (status (frameOf frame))).raf.sentOrders =
      s.eng.raf.sentOrders ++ [((frameOf frame).arg, status (frameOf frame))] := by
    change x.raf.sentOrders ++ _ = _
    rw [raf]
  have only : x.Only [13] [] (x.orderAnswered (frameOf frame).arg (status (frameOf frame))) := .setRaf _ _ (by decide)
  generalize x.orderAnswered (frameOf frame).arg (status (frameOf frame)) = y at ran noted only
  have last := Eng.OnLink.consumed y link (frameOf frame)
  obtain ⟨links', raf'⟩ := last.raf
  exact ⟨_, ran, (congrArg Raf.sentOrders raf').trans noted, .withEng ((taken.only.weaken (by decide) (by decide)).trans
    ((only.weaken (by decide) (by decide)).trans last.only))⟩

end Frames

end Sys2Proof.Machine
end

section
/-!
The topology map, and the order of a peer at the end of a tick (O58).
-/
namespace Sys2Proof.Machine

/-! ### The map -/

theorem mapLoad_notes {s : State} {data : Word} (up : s.boot.absent = false) :
    let e := s.eng
    ∃ t, exec (.mapLoad data) s = .next t ∧ t.eng.raf = { e.raf with mapBusy := e.raf.mapBusy || data.getLsbD 31 } ∧
      t.eng.fv F.RAF_MAP_CTL_SPACE = data.toNat / 2 % 2 ∧ s.Only [13] [0xD018] t := by
  intro e
  let y := e.poke F.RAF_MAP_CTL_SPACE (bitsOf data.toNat 1 1)
  have ran : exec (.mapLoad data) s = .next (s.withEng (if data.getLsbD 31 && !y.raf.mapBusy then { y with raf := { y.raf with mapBusy := true } } else y)) := by
    change execMapLoad data s = _
    rw [execMapLoad, live_up up, bitOf_toNat]
  have space : y.fv F.RAF_MAP_CTL_SPACE = data.toNat / 2 % 2 := by
    refine (Eng.fv_poke_same _ _ _ _ (by decide)).trans ?_
    exact Nat.mod_mod _ _
  have only : e.Only [13] [0xD018] y := .poke _ _ _ _ (by decide) (by decide)
  have raf : y.raf = e.raf := rfl
  clear_value y
  by_cases starts : (data.getLsbD 31 && !y.raf.mapBusy) = true
  · rw [if_pos starts] at ran
    refine ⟨_, ran, ?_, space, .withEng (only.trans (.setRaf _ _ (by decide)))⟩
    obtain ⟨bit, -⟩ := Bool.and_eq_true_iff.mp starts
    rw [bit, Bool.or_true, ← raf]
    rfl
  · rw [if_neg starts] at ran
    refine ⟨_, ran, ?_, space, .withEng only⟩
    have same : (e.raf.mapBusy || data.getLsbD 31) = e.raf.mapBusy := by
      rw [raf] at starts
      revert starts
      cases e.raf.mapBusy <;> cases data.getLsbD 31 <;> simp
    rw [same]
    exact raf

/-- No lane is in service. -/
def Eng.Silent (e : Eng) : Prop := ∀ p, p < 12 → (e.lane p).st ≠ 3 ∧ (e.lane p).st ≠ 4

theorem Eng.Silent.linkActive {e : Eng} (silent : e.Silent) (l : Nat) : e.linkActive l = false := by
  have empty : e.lanesOf l [3] = [] := List.eq_nil_iff_forall_not_mem.mpr (fun p among => by
    obtain ⟨low, st, -⟩ := (e.mem_lanesOf l [3] p).mp among
    exact (silent p low).1 (List.mem_singleton.mp st))
  unfold Eng.linkActive
  rw [empty]
  rfl

theorem Eng.Silent.reaches {e : Eng} (silent : e.Silent) (c : Nat) : e.reaches c = false := by
  unfold Eng.reaches
  split
  · exact silent.linkActive _
  · rfl

/-- The registers that hold the floors of the edge leads. -/
def floorOffs : List Nat := (List.range 16).map (fun i => 0xE0C0 + 4 * i)

/-- What follows the taking of a map leaves the map, and no lane is then in service that was not. -/
structure Eng.MapKept (e e' : Eng) : Prop where
  busy : e'.raf.mapBusy = e.raf.mapBusy
  result : e'.raf.mapResult = e.raf.mapResult
  loaded : e'.raf.mapLoaded = e.raf.mapLoaded
  id : e'.raf.mapId = e.raf.mapId
  chips : e'.raf.chips = e.raf.chips
  taken : e'.ras.taken = e.ras.taken
  silent : e.Silent → e'.Silent
  only : e.Only [1, 2, 12, 13, 14, 15, 16, 17] floorOffs e'

section MapKept
variable {e e' : Eng}

theorem Eng.MapKept.refl (e : Eng) : e.MapKept e := ⟨rfl, rfl, rfl, rfl, rfl, rfl, fun h => h, .refl e⟩

theorem Eng.MapKept.trans {a b c : Eng} (ab : a.MapKept b) (bc : b.MapKept c) : a.MapKept c :=
  ⟨bc.busy.trans ab.busy, bc.result.trans ab.result, bc.loaded.trans ab.loaded, bc.id.trans ab.id, bc.chips.trans ab.chips, bc.taken.trans ab.taken,
    fun h => bc.silent (ab.silent h), ab.only.trans bc.only⟩

theorem Eng.MapKept.of_same (raf : e'.raf = e.raf) (taken : e'.ras.taken = e.ras.taken) (only : e.Only [1, 2, 12, 13, 14, 15, 16, 17] floorOffs e') : e.MapKept e' :=
  ⟨by rw [raf], by rw [raf], by rw [raf], by rw [raf], by rw [raf], taken, fun h p low => by
    rw [Eng.lane, raf]
    exact h p low, only⟩

theorem Eng.MapKept.of_reports (reports : e.Reports e') : e.MapKept e' :=
  .of_same reports.raf_eq (congrArg Ras.taken reports.ras_eq) (.of_reports reports (by decide) (by decide))

theorem Eng.MapKept.foldl {α : Type} (l : List α) (f : Eng → α → Eng) (each : ∀ (e : Eng) x, x ∈ l → e.MapKept (f e x)) (e : Eng) : e.MapKept (l.foldl f e) := by
  induction l generalizing e with
  | nil => exact .refl e
  | cons x l ih => exact (each e x List.mem_cons_self).trans (ih (fun e y among => each e y (List.mem_cons_of_mem _ among)) _)

theorem Eng.MapKept.setLane (e : Eng) (p : Nat) (x : Lane) (quiet : x.st ≠ 3 ∧ x.st ≠ 4 ∨ x.st = (e.lane p).st) : e.MapKept (e.setLane p x) := by
  refine ⟨rfl, rfl, rfl, rfl, rfl, rfl, fun h k low => ?_, .setLane _ _ _ (by decide)⟩
  rw [Eng.lane_setLane]
  split
  · next here =>
    rcases quiet with out | same
    · exact out
    · rw [same, ← here]
      exact h k low
  · exact h k low

theorem Eng.MapKept.laneTo (e : Eng) (p : Nat) : e.MapKept (e.laneTo p 1) := by
  obtain ⟨⟨downAt, raf⟩, only, -⟩ := e.laneTo_spec p (st := 1) (by decide)
  have ras : (e.laneTo p 1).ras = e.ras := only.parts 16 (by decide)
  refine ⟨by rw [raf], by rw [raf], by rw [raf], by rw [raf], by rw [raf], by rw [ras], fun h k low => ?_, only.weaken (by decide) (by decide)⟩
  rw [e.laneTo_lane p (by decide)]
  split
  · exact ⟨(by decide : 1 ≠ 3), (by decide : 1 ≠ 4)⟩
  · exact h k low

theorem Eng.MapKept.selectParent (e : Eng) : e.MapKept e.selectParent := by
  have only : e.Only [13, 14] [] e.selectParent := .selectParent e (by decide) (by decide)
  obtain ⟨tal, parent, depth, syncOpen, orphanAt, locked8, nextRise, eq⟩ := e.selectParent_shape
  refine ⟨by rw [eq], by rw [eq], by rw [eq], by rw [eq], by rw [eq], by rw [eq], fun h p low => ?_, only.weaken (by decide) (by decide)⟩
  rw [eq]
  exact h p low

theorem Eng.MapKept.floorSet (e : Eng) {i : Nat} (low : i < 16) : e.MapKept (e.floorSet i) := by
  have clamped : ∀ (y : Eng) (w : Nat), y.MapKept (y.leadClamped i w) := fun y w => by
    unfold Eng.leadClamped
    dsimp only
    split
    · exact .refl y
    · exact .of_reports (Eng.raise_reports _ _)
  have poked : ∀ v, e.MapKept (e.poke (F.TAL_EDGE_FLOOR_n_FLOOR.at 4 i) v) := fun v =>
    .of_same rfl rfl (.poke _ _ _ _ (by decide) (List.mem_map.mpr ⟨i, List.mem_range.mpr low, rfl⟩))
  unfold Eng.floorSet
  dsimp only
  split
  · exact (poked _).trans (clamped _ _)
  · exact poked _

theorem Eng.MapKept.lanesStart (e : Eng) : e.MapKept e.lanesStart := by
  unfold Eng.lanesStart
  split
  · refine .foldl _ _ (fun y p _ => ?_) e
    split
    · exact .laneTo y p
    · exact .refl y
  · exact .refl e

theorem releaseHeld_only (l : List (Nat × CmpRec)) (kept : List (Nat × CmpRec)) (e : Eng) : e.Only [1] [] (releaseHeld e kept l) := by
  induction l generalizing kept e with
  | nil => exact .setHat _ _ (by decide)
  | cons x l ih =>
    unfold releaseHeld
    split
    · exact ih _ e
    · exact (Eng.Only.complete e x.2 (by decide)).trans (ih _ _)

/-- A buddy that this engine reaches is met. -/
def Eng.buddyMet (e : Eng) (c : Option Nat) : Eng :=
  match c with
  | some c => if e.reaches c then e.buddyBack c else e
  | none => e

theorem Eng.buddiesSet_eq (e : Eng) : ∃ sled ring a b, e.buddiesSet =
    (((({ e with ras := { e.ras with sled, ring } } : Eng).buddyMet a).buddyMet b).mirrorFree).trimHot := ⟨_, _, _, _, rfl⟩

theorem Eng.buddyMet_silent (e : Eng) (silent : e.Silent) (c : Option Nat) : e.buddyMet c = e := by
  cases c with
  | none => rfl
  | some c => exact if_neg (by rw [silent.reaches]; exact Bool.false_ne_true)

/-- The buddies after a map has been taken, where no lane is in service. -/
theorem Eng.MapKept.buddiesSet (e : Eng) (silent : e.Silent) : e.MapKept e.buddiesSet := by
  obtain ⟨sled, ring, c, d, eq⟩ := e.buddiesSet_eq
  have named : e.MapKept { e with ras := { e.ras with sled, ring } } := .of_same rfl rfl (.setRas _ _ (by decide))
  have quiet := named.silent silent
  rw [eq]
  generalize ({ e with ras := { e.ras with sled, ring } } : Eng) = a at named quiet
  rw [a.buddyMet_silent quiet, a.buddyMet_silent quiet]
  have freed : a.Only [1] [] a.mirrorFree := releaseHeld_only _ _ _
  exact (named.trans (.of_same (freed.parts 13 (by decide)) (congrArg Ras.taken (freed.parts 16 (by decide))) (freed.weaken (by decide) (fun _ none_ => absurd none_ List.not_mem_nil)))).trans
    (.of_same rfl rfl (.setLed _ _ (by decide)))

end MapKept

/-- The taking of a map's entries. -/
def Eng.mapEntered (e : Eng) (img : List Nat) : Eng :=
  { e with
    raf := { e.raf with
      chips := chipRange.foldl (fun t c => tsetD t c (mapEnt img c) {}) [], mapLoaded := true, mapId := imgField img 8 4
      npresent := bitsOf (imgField img 0xC 4) 6 0, mastersOut := [] }
    ras := { e.ras with taken := [] } }

/-- A lane as the taking of a map finds it. -/
def Eng.mapLane (e : Eng) (p : Nat) : Eng :=
  let st := (e.lane p).st
  if st = 3 ∨ st = 4 then e.decideLane p
  else if st = 5 ∧ e.fb F.RAF_CTL_EN then (e.setLane p { e.lane p with fails := 0 }).laneTo p 1
  else e

theorem Eng.mapTake_eq (e : Eng) (img : List Nat) : e.mapTake img =
    ((laneRange.foldl Eng.mapLane (instRange.foldl Eng.floorSet (e.mapEntered img))).lanesStart.selectParent).buddiesSet := rfl

theorem Eng.MapKept.mapLanes (e : Eng) (silent : e.Silent) : e.MapKept (laneRange.foldl Eng.mapLane e) := by
  have all : ∀ (l : List Nat), (∀ p ∈ l, p < 12) → ∀ y : Eng, y.Silent → y.MapKept (l.foldl Eng.mapLane y) := by
    intro l
    induction l with
    | nil => exact fun _ y _ => .refl y
    | cons p l ih =>
      intro low y quiet
      have one : y.MapKept (y.mapLane p) := by
        obtain ⟨no3, no4⟩ := quiet p (low p List.mem_cons_self)
        unfold Eng.mapLane
        dsimp only
        rw [if_neg (not_or.mpr ⟨no3, no4⟩)]
        split
        · exact (Eng.MapKept.setLane y p { y.lane p with fails := 0 } (.inr rfl)).trans (.laneTo _ p)
        · exact .refl y
      exact one.trans (ih (fun p among => low p (List.mem_cons_of_mem _ among)) _ (one.silent quiet))
  exact all laneRange (fun p among => List.mem_range.mp among) e silent

theorem tgetD_foldl_entries {α : Type} [DecidableEq α] (f : Nat → α) (d : α) (l : List Nat) (t : Tab α) (k : Nat) :
    tgetD (l.foldl (fun t c => tsetD t c (f c) d) t) k d = if k ∈ l then f k else tgetD t k d := by
  induction l generalizing t with
  | nil => rfl
  | cons c l ih =>
    rw [List.foldl_cons, ih, tgetD_tsetD]
    by_cases later : k ∈ l
    · rw [if_pos later, if_pos (List.mem_cons_of_mem _ later)]
    · by_cases here : k = c
      · rw [if_neg later, if_pos here, if_pos (by rw [here]; exact List.mem_cons_self), here]
      · rw [if_neg later, if_neg here, if_neg (fun h => (List.mem_cons.mp h).elim here later)]

section MapLoad
variable {s : State} {image : List (BitVec 8)} {readOk : Bool} (up : s.boot.absent = false) (busy : s.eng.raf.mapBusy = true)
include up busy

/-- A map that does not pass every check takes no effect. -/
theorem mapLoadEnd_refused (bad : mapResult (s.eng.fv F.RAF_POS_POS) (natBytes image) readOk ≠ 1) :
    exec (.mapLoadEnd image readOk) s = .next (s.withEng { s.eng with raf := { s.eng.raf with
      mapBusy := false, mapResult := mapResult (s.eng.fv F.RAF_POS_POS) (natBytes image) readOk } }) := by
  change execMapLoadEnd image readOk s = _
  rw [execMapLoadEnd, live_up up]
  exact congrArg (fun y => Host.Outcome.next (s.withEng y)) ((if_neg (by rw [busy]; decide)).trans (if_neg bad))

/-- A map that passes every check takes effect. -/
theorem mapLoadEnd_takes (good : mapResult (s.eng.fv F.RAF_POS_POS) (natBytes image) readOk = 1) (silent : s.eng.Silent) :
    ∃ t, exec (.mapLoadEnd image readOk) s = .next t ∧ t.eng.raf.mapBusy = false ∧ t.eng.raf.mapResult = 1 ∧ t.eng.raf.mapLoaded = true ∧
      t.eng.raf.mapId = imgField (natBytes image) 8 4 ∧ t.eng.ras.taken = [] ∧
      (∀ ch, ch < 64 → tgetD t.eng.raf.chips ch {} = mapEnt (natBytes image) ch) ∧
      s.Only [1, 2, 12, 13, 14, 15, 16, 17] floorOffs t := by
  let x : Eng := { s.eng with raf := { s.eng.raf with mapBusy := false, mapResult := 1 } }
  have ran : exec (.mapLoadEnd image readOk) s = .next (s.withEng (x.mapTake (natBytes image))) := by
    change execMapLoadEnd image readOk s = _
    rw [execMapLoadEnd, live_up up]
    refine congrArg (fun y => Host.Outcome.next (s.withEng y)) ((if_neg (by rw [busy]; decide)).trans ((if_pos good).trans ?_))
    rw [good]
  let a := x.mapEntered (natBytes image)
  have only : s.eng.Only [1, 2, 12, 13, 14, 15, 16, 17] floorOffs a := (Eng.Only.setRaf s.eng a.raf (by decide)).trans (.setRas _ a.ras (by decide))
  have quiet : a.Silent := silent
  have floors : a.MapKept (instRange.foldl Eng.floorSet a) := .foldl _ _ (fun y i among => .floorSet y (List.mem_range.mp among)) a
  have lanes := Eng.MapKept.mapLanes _ (floors.silent quiet)
  have begun := (floors.trans lanes).trans ((Eng.MapKept.lanesStart _).trans (.selectParent _))
  have kept := begun.trans (.buddiesSet _ (begun.silent quiet))
  rw [Eng.mapTake_eq] at ran
  refine ⟨_, ran, kept.busy, kept.result, kept.loaded, kept.id, kept.taken, fun ch low => ?_, .withEng (only.trans kept.only)⟩
  refine (congrArg (fun t => tgetD t ch {}) kept.chips).trans ?_
  exact (tgetD_foldl_entries (mapEnt (natBytes image)) {} chipRange [] ch).trans (if_pos (List.mem_range.mpr low))

end MapLoad

end Sys2Proof.Machine
end

section
/-!
The order of a peer at the end of a tick (O58).
-/
namespace Sys2Proof.Machine

/-- What a Ledger domain is: one of its four banks. -/
theorem bank_ne {k : Nat} (high : 5 ≤ k) (y : Nat) : k ≠ 1 + y % 4 := by omega

theorem Eng.Only.binOn {us : List Nat} {e e' : Eng} (only : e.Only us [] e') (ras : 16 ∉ us) (dom : e'.dom 87 = e.dom 87) : e'.binOn = e.binOn := by
  have same : e'.ras = e.ras := only.parts 16 ras
  unfold Eng.binOn Eng.binServes Eng.unitHalted Eng.cap_ Eng.domOn
  rw [only.fb (by decide) (by decide) (by decide), same, dom]

theorem Eng.Only.setStw {us offs : List Nat} (e : Eng) (x : Stw) (steward : 5 ∈ us) : e.Only us offs { e with stw := x } :=
  .of_parts rfl rfl (fun u out => by unfold Eng.partSame; split <;> simp_all)

theorem Eng.binTick_off {e : Eng} (off : e.binOn = false) : e.binTick = e := if_neg (by rw [off]; exact Bool.false_ne_true)

/-- What the moves of a tick leave where the Shelver is not in service. -/
theorem Eng.moveTick_off {e : Eng} (off : e.fb F.SHV_CTL_EN = false) (retries : e.shv.retries = []) (calls : e.shv.recallDue = false) :
    e.moveTick = { e with shv := { e.shv with recallDue := false, balances := [] } } := by
  have still : ∀ (l : List Nat) (y : Eng), y.fb F.SHV_CTL_EN = false → l.foldl Eng.balanceNow y = y := by
    intro l
    induction l with
    | nil => exact fun _ _ => rfl
    | cons i l ih =>
      intro y closed
      have one : y.balanceNow i = y := if_pos (by rw [closed]; rfl)
      rw [List.foldl_cons, one]
      exact ih y closed
  have none_ := Eng.retryMoves_none { e with shv := { e.shv with recallDue := false, balances := [] } } retries
  unfold Eng.moveTick
  rw [off, Bool.false_and, if_neg Bool.false_ne_true]
  dsimp only
  rw [calls, if_neg Bool.false_ne_true, none_]
  exact still _ _ off

section Peer
variable {s : State} {p : Order} {q : LRec} {x src : Nat}

/-- The engine in which a peer's PREEMPT of a running request has taken effect, before it is answered. -/
def Eng.peerPaused (e : Eng) (p : Order) (x : Nat) : Eng := (e.ordFound p).ordChange p x

theorem Eng.ordStatus_listed {e : Eng} (named : e.named p.rqid p.gen = some x) (rc : e.rc x = some q) (last : q.nextSib = 0xFFFFFF)
    (live_ : q.live = true) (listed : ordListed p.opcode q.state = true) (plain : p.opcode ≠ 4) :
    e.ordStatus p = 0 ∧ e.ordTargets p.opcode x = [x] := by
  have sibs := e.sibs_alone rc last
  have targets : e.ordTargets p.opcode x = [x] := by
    unfold Eng.ordTargets
    rw [sibs]
    refine List.filter_eq_self.mpr (fun y among => ?_)
    rw [List.mem_singleton.mp among, rc]
    exact listed
  have ended : e.allEnded x = false := by
    unfold Eng.allEnded
    rw [sibs, List.all_cons, rc]
    dsimp only
    rw [live_]
    rfl
  refine ⟨?_, targets⟩
  unfold Eng.ordStatus
  rw [named]
  dsimp only
  rw [ended, targets, if_neg Bool.false_ne_true, if_neg (show ¬[x].isEmpty = true from Bool.false_ne_true), if_neg (fun h => plain h.1)]

/-- A PREEMPT of a running request of one sibling, found at the end of its stamp's tick. -/
theorem Eng.peerPaused_eq {e : Eng} (op : p.opcode = 5) (named : e.named p.rqid p.gen = some x) (rc : e.rc x = some q) (last : q.nextSib = 0xFFFFFF)
    (least : 3 ≤ q.state) (most : q.state ≤ 6) (off : e.mirrorOn = false) :
    (e.ordFound p).ordStatus p = 0 ∧ (e.ordFound p).ordTargets p.opcode x = [x] ∧ ∃ recs pd, e.peerPaused p x = { e with
        led := { e.led with hot := hotFirst e.led.hot x, recs }, pd, hat := { e.hat with orders := [] }
        stw := { e.stw with seen := some (e.seenNow.getD { tick := e.now, recs := e.led.recs, insts := e.cmp.insts }) }
        shv := { e.shv with balances := sinsert e.shv.balances q.inst } } ∧
      (∀ y, tget recs y = if y = x then some q.paused else e.rc y) ∧ ∀ k, k ≠ 1 + x % 4 → tgetD pd k { st := 0 } = e.dom k := by
  have sibs := e.sibs_alone rc last
  obtain ⟨pd, found, beside⟩ := e.ordFound_eq named
  rw [sibs] at found beside
  have rc' : (e.ordFound p).rc x = some q := by
    rw [found]
    exact rc
  have named' : (e.ordFound p).named p.rqid p.gen = some x := by
    rw [found]
    exact (Eng.named_congr (e := e) rfl p.rqid p.gen).trans named
  obtain ⟨status, targets⟩ := Eng.ordStatus_listed named' rc' last (decide_eq_true ⟨by omega, by omega⟩) (by rw [op]; exact decide_eq_true ⟨least, most⟩)
    (by rw [op]; decide)
  refine ⟨status, targets, ?_⟩
  obtain ⟨recs, pd', eq, paused, beside'⟩ := foldl_pauseOne [x] (List.nodup_singleton x) (e.ordFound p) (fun y among => by
    rw [List.mem_singleton.mp among, rc']
    rfl) (by rw [found]; exact off)
  rw [op] at targets
  refine ⟨recs, pd', ?_, fun y => ?_, fun k out => ?_⟩
  · unfold Eng.peerPaused
    rw [Eng.ordChange_pause _ op, targets, eq, List.filterMap_cons_some rc', List.filterMap_nil, found]
    congr 1
    change ({ e.led with hot := hotFirst (hotFirst e.led.hot x) x, recs } : Led) = _
    rw [hotFirst_twice]
  · rw [paused]
    have same : (e.ordFound p).rc y = e.rc y := by
      rw [found]
      rfl
    rw [same]
    by_cases here : y = x
    · rw [if_pos here, here, rc, Option.map_some, if_pos (List.mem_singleton_self x)]
    · rw [if_neg here]
      simp only [List.mem_singleton, here, if_false, Option.map_id']
  · refine (beside' k (fun y among => by rw [List.mem_singleton.mp among]; exact out)).trans ?_
    rw [found]
    exact beside k (fun y among => by rw [List.mem_singleton.mp among]; exact out)

/-- What of a tick's end comes behind the orders, where a PREEMPT alone has called for something. -/
theorem Eng.tickEnd_preempted {e r : Eng} (rested : ({ e with hat := { e.hat with orders := [] } } : Eng).Rested) (resolved : e.resolve = r)
    (gat : r.gat = e.gat) (raf : r.raf.bcasts = []) (off : r.binOn = false) (kpr : ∃ parts, r.kpr = { e.kpr with parts })
    (shv : ∃ balances, r.shv = { e.shv with balances }) (dbg : ∃ cnt, r.dbg = { e.dbg with cnt }) (still : r.fb F.SHV_CTL_EN = false) :
    e.tickEnd = { r.watchBlock with shv := { r.shv with recallDue := false, balances := [] } } := by
  obtain ⟨resumed, -, -, pipes, -, edges, idles, queued, again, fresh, admits, decides, -, calls, -, late, retries, point, brks, -⟩ := rested
  obtain ⟨parts, kpr⟩ := kpr
  obtain ⟨balances, shv⟩ := shv
  obtain ⟨cnt, dbg⟩ := dbg
  have rEdges : r.gat.edges = [] := by rw [gat]; exact edges
  have rIdles : r.gat.idles = none := by rw [gat]; exact idles
  have rQueued : r.gat.queued = false := by rw [gat]; exact queued
  have rRetries : r.watchBlock.shv.retries = [] := by change r.shv.retries = []; rw [shv]; exact retries
  have rCalls : r.watchBlock.shv.recallDue = false := by change r.shv.recallDue = false; rw [shv]; exact calls
  have moved := Eng.moveTick_off (e := r.watchBlock) still rRetries rCalls
  have started : r.watchBlock.startTick = { r.watchBlock with shv := { r.shv with recallDue := false, balances := [] } } := by
    rw [Eng.startTick, moved, Eng.edgeInsts_none r.watchBlock rEdges rIdles]
    rfl
  rw [Eng.tickEnd]
  rw [e.pipesGone_none pipes, e.lateBlocks_none late, e.afterResume_none resumed, resolved,
    r.decideTick_none rEdges rIdles (by rw [gat]; exact again) (by rw [gat]; exact fresh), r.checkTick_none rEdges rIdles rQueued,
    r.triggerTick_none rIdles, r.armHeld_none raf, Eng.binTick_off off, r.pointTick_none (by rw [kpr]; exact point),
    r.admitTick_none (by rw [kpr]; exact admits), r.leaveSettle_none (by rw [kpr]; exact decides), started]
  have done : ∀ w : Eng, w.gat = r.gat → w.dbg = r.dbg → w.edgesDone.brkTick = w := fun w sameGat sameDbg => by
    rw [w.edgesDone_none (by rw [sameGat]; exact rEdges) (by rw [sameGat]; exact rIdles) (by rw [sameGat]; exact rQueued),
      w.brkTick_none (by rw [sameDbg, dbg]; exact brks)]
  exact done _ rfl rfl

/-- The tick that is left, whatever a bundle goes on seeing. -/
theorem Eng.tickLeft_seen (e : Eng) : ∃ seen, e.tickLeft = { e.tickEnd with stw := { e.tickEnd.stw with seen } } := by
  unfold Eng.tickLeft
  dsimp only
  split
  · exact ⟨e.tickEnd.stw.seen, rfl⟩
  · exact ⟨none, rfl⟩

/-- The cycle that carries the Tally forward, behind a tick that owes nothing to the next one. -/
theorem step_forward {s : State} (up : s.boot.absent = false) (empty : s.pending = []) (run : s.eng.stw.run = none) (forward : s.eng.now < s.tick.eng.now)
    (stops : ∀ t, s.eng.tickLeft.nextStop t = none) (same : s.eng.tickLeft.now = s.eng.now) :
    ∃ t, step s = .next t ∧ t.boot = s.boot ∧ t.pending = s.pending ∧ ∃ tal, ({ s.eng.tickLeft with tal } : Eng).Passes t.eng := by
  have due : s.eng.now < (s.eng.cycles 1).now := by
    by_contra stays
    have passed : s.eng.passCycles 1 = s.eng.cycles 1 := if_neg stays
    exact stays (Nat.lt_of_lt_of_eq forward (congrArg Eng.now passed))
  have ran := step_idle up empty run
  rw [s.eng.passCycles_settled 1 stops due same] at ran
  exact ⟨_, ran, rfl, rfl, _, (Eng.stall_passes _ _).trans (Eng.pass_passes _ _)⟩

/-- The answer to a peer's order. -/
theorem Eng.ordAnswer_peer (e : Eng) (peer : p.peer = some src) :
    ∃ y, e.Reports y ∧ e.ordAnswer p 0 = y.send { typ := 0x2A, dst := src, arg := p.seq, len := 8, words := [0] } := by
  refine ⟨_, e.trace_reports { kind := 11, pid := rqPid p.rqid, pidV := true, status := 0, sib := 0x3F, rqid := p.rqid, gen := p.gen, arg := p.opcode + 2 ^ 8 * (src + 2 ^ 8) }, ?_⟩
  unfold Eng.ordAnswer
  rw [peer]
  rfl

/-- The last part but two of O58: the order of a peer that waits alone is applied at the end of its stamp's tick, and answered. -/
theorem peerOrder_pauses {r : Nat} (up : s.boot.absent = false) (empty : s.pending = [])
    (rested : ({ s.eng with hat := { s.eng.hat with orders := [] } } : Eng).Rested) (forward : s.eng.now < s.tick.eng.now) (binOff : s.eng.binOn = false)
    (stalled : s.eng.bin.stalled = []) (alone : s.eng.hat.orders = [p]) (behind : s.eng.hat.behind = []) (peer : p.peer = some src) (op : p.opcode = 5)
    (past : p.stamp < s.eng.now) (fetched : s.eng.fetchedUpTo p.stamp = true) (off : s.eng.mirrorOn = false) (shvOff : s.eng.fb F.SHV_CTL_EN = false)
    (named : s.eng.named p.rqid p.gen = some x) (rc : s.eng.rc x = some q) (last : q.nextSib = 0xFFFFFF) (least : 3 ≤ q.state) (most : q.state ≤ 6) :
    let e := s.eng
    ∃ t, step s = .next t ∧ t.eng.rc x = some q.paused ∧ (∀ y, y ≠ x → t.eng.rc y = e.rc y) ∧ t.eng.hat.orders = [] ∧
      (e.rafOn = true → src ≠ e.self → e.nextLink src (shortUp e.self src) = some r → (e.link r).waiting = [] → (e.link r).sSent < (e.link r).sDone + 48 →
        ∃ g, .frame r g ∈ t.eng.out ∧ g.typ = 0x2A ∧ g.src = e.self ∧ g.dst = src ∧ g.arg = p.seq ∧ g.words = [0]) ∧
      s.Only [0, 1, 2, 5, 6, 12, 13, 14, 15, 17] [] t := by
  intro e
  obtain ⟨resumed, -, bcasts, -, run, -, -, -, -, -, admits, -, -, -, -, late, -, point, brks, -⟩ := id rested
  obtain ⟨status, targets, recs, pd, eq, paused, beside⟩ := Eng.peerPaused_eq (e := e) op named rc last least most off
  have set := Eng.ordSet_alone alone named status
  rw [targets] at set
  have unfollowed : ∀ y : Eng, y.ordFollow p x [x] = y := fun y => by
    unfold Eng.ordFollow
    rw [op]
    rfl
  rw [unfollowed] at set
  change e.ordSet p = (e.peerPaused p x).ordAnswer p 0 at set
  generalize e.peerPaused p x = c at set eq
  have cOnly : e.Only [1, 2, 5, 6, 15] [] c := by
    rw [eq]
    exact .of_parts rfl rfl (fun u out => by unfold Eng.partSame; split <;> simp_all)
  have cDom : c.dom 87 = e.dom 87 := by
    rw [eq]
    exact beside 87 (bank_ne (by decide) x)
  obtain ⟨y, reports, answered⟩ := c.ordAnswer_peer peer
  have puts := Eng.Puts.send y { typ := 0x2A, dst := src, arg := p.seq, len := 8, words := [0] }
  have yOnly : e.Only [1, 2, 5, 6, 15, 17] [] y := (cOnly.weaken (by decide) (by decide)).trans (.of_reports reports (by decide) (by decide))
  have yRaf : y.raf = e.raf := yOnly.parts 13 (by decide)
  have sends := fun on other next idle credit => y.send_sends (f := { typ := 0x2A, dst := src, arg := p.seq, len := 8, words := [0] }) (r := r)
    ((yOnly.rafOn (by decide)).trans on) other next idle credit rfl (show frameClass 0x2A = 1 by decide)
  rw [answered] at set
  generalize y.send { typ := 0x2A, dst := src, arg := p.seq, len := 8, words := [0] } = a at set puts sends
  have toPuts : c.Puts a := (Eng.Puts.of_reports reports).trans puts
  have aOnly : e.Only [1, 2, 5, 6, 12, 13, 15, 17] [] a := (yOnly.weaken (by decide) (by decide)).trans (puts.only.weaken (by decide) (by decide))
  have rest := toPuts.rest
  rw [eq] at rest
  have resolved : e.resolve = a := (Eng.resolve_alone alone past fetched behind (by rw [set, rest]; exact behind)).trans set
  have aDom : a.dom 87 = e.dom 87 := by
    rw [← cDom, toPuts.rest]
    rfl
  have ended := Eng.tickEnd_preempted rested resolved (by rw [rest]) (by rw [rest]; exact bcasts) ((aOnly.binOn (by decide) aDom).trans binOff)
    ⟨_, by rw [rest]⟩ ⟨_, by rw [rest]⟩ ⟨_, by rw [rest]⟩ ((aOnly.fb (by decide) (by decide) (by decide)).trans shvOff)
  obtain ⟨seen, left⟩ := e.tickLeft_seen
  rw [ended] at left
  have clear : ({ a.watchBlock with shv := { a.shv with recallDue := false, balances := [] }, stw := { a.stw with seen := none } } : Eng).Clear :=
    ⟨(congrArg Bin.stalled (aOnly.parts 11 (by decide))).trans stalled, congrArg (fun w : Eng => w.hat.orders) rest,
      (congrArg (fun w : Eng => w.dbg.resumed) rest).trans resumed, (congrArg (fun w : Eng => w.kpr.admitting) rest).trans admits,
      (congrArg (fun w : Eng => w.kpr.pointDue) rest).trans point, (congrArg (fun w : Eng => w.shv.late) rest).trans late,
      (congrArg (fun w : Eng => w.dbg.brks) rest).trans brks, rfl⟩
  have stops : ∀ t, e.tickLeft.nextStop t = none := fun t => by
    rw [left]
    exact clear.nextStop t
  have now : e.tickLeft.now = e.now := by
    rw [left]
    exact aOnly.parts 0 (by decide)
  obtain ⟨t, ran, boot, pending, tal, passes⟩ := step_forward up empty run forward stops now
  have leftOnly : a.Only [5, 6, 12] [] e.tickLeft := by
    rw [left]
    exact ((Eng.Only.watchBlock a (by decide)).trans (.setShv _ _ (by decide))).trans (.setStw _ _ (by decide))
  have only : e.Only [0, 1, 2, 5, 6, 12, 13, 14, 15, 17] [] t.eng :=
    (aOnly.weaken (by decide) (by decide)).trans ((leftOnly.weaken (by decide) (by decide)).trans ((Eng.Only.setTal _ tal (by decide)).trans
      (.of_passes passes (by decide) (by decide) (by decide))))
  have led : t.eng.led = a.led := passes.led_eq.trans (by rw [left]; rfl)
  have recsHere : ∀ y, t.eng.rc y = if y = x then some q.paused else e.rc y := fun y => by
    rw [← paused y, Eng.rc, led, rest]
  have hat : t.eng.hat = a.hat := passes.hat_eq.trans (by rw [left]; rfl)
  have out : t.eng.out = a.out := passes.out_eq.trans (by rw [left]; rfl)
  refine ⟨t, ran, (recsHere x).trans (if_pos rfl), fun y other => (recsHere y).trans (if_neg other), by rw [hat, rest], fun on other next idle credit => ?_,
    ⟨boot, pending, only⟩⟩
  have self : y.self = e.self := yOnly.self (by decide)
  have link : y.link r = e.link r := congrArg (fun m : Raf => tgetD m.links r {}) yRaf
  have active : ∀ k, y.linkActive k = e.linkActive k := fun k => by
    unfold Eng.linkActive Eng.lanesOf Eng.lane
    rw [yRaf]
  rw [out, ← self]
  exact sends on (by rw [self]; exact other) (by rw [Eng.nextLink_congr self active (by rw [yRaf]), self]; exact next) (by rw [link]; exact idle)
    (by rw [link]; exact credit)

end Peer

/-- Settles O58: each frame of mirrors and orders, the order of a peer at the end of a tick, and the topology map. -/
theorem mirrorsOrdersAndMap : Obligations.MirrorsOrdersAndMap := by
  intro link r frame data image readOk q v p s up e f k m others sent o order x c img result
  refine ⟨fun on low active ok mine next other => ?_, fun src empty rested forward binOff stalled alone behind peer op past fetched off shvOff named rc last least most =>
      peerOrder_pauses up empty rested forward binOff stalled alone behind peer op past fetched off shvOff named rc last least most,
    mapLoad_notes up, fun busy => ⟨fun bad => mapLoadEnd_refused up busy bad, fun good silent => mapLoadEnd_takes up busy good silent⟩⟩
  have hyp : Expected s link frame := ⟨up, on, low, active, ok, mine, next⟩
  exact ⟨fun typ length plain => mirror_keeps hyp typ other length plain,
    fun n typ chip live_ ring state held covered => mirrorAck_frees hyp typ chip live_ ring state held covered,
    fun typ unlisted => order_refused hyp typ other unlisted,
    fun typ least most ok none_ => order_waits hyp typ least most ok none_,
    fun typ => orderAnswer_noted (status := fun _ => 0x1A) hyp typ (by decide) rfl, fun typ => by
      obtain ⟨t, ran, noted, only⟩ := orderAnswer_noted (c := .orderReply link frame) (status := fun f => f.words.getD 0 0 % 256) hyp typ (by decide) rfl
      exact ⟨t, ran, only, noted⟩⟩

end Sys2Proof.Machine
end

section
/-!
Orders that a ring brings (O26): how one is fetched, found and answered.
-/
namespace Sys2Proof.Machine

/-- The hypotheses on an order that Hatch fetches and resolves at once. -/
structure Fetches (s : State) (d : DescBits) (r stamp : Nat) (e1 : Eng) : Prop where
  up : s.boot.absent = false
  orders : s.eng.hat.orders = []
  behind : s.eng.hat.behind = []
  held : s.eng.hat.heldRecs = []
  off : s.eng.mirrorOn = false
  low : r < 256
  fetch : s.eng.fetch = some (r, stamp, e1)
  past : stamp < s.eng.now
  all : e1.fetchedUpTo stamp = true
  other : s.eng.cqOf r ≠ r
  none_ : (s.eng.ring (s.eng.cqOf r)).ovf = []
  room : s.eng.cmpFull (s.eng.cqOf r) = false
  en : s.eng.ringEn (s.eng.cqOf r) = true
  pid : rqPid (ordOf d).rqid = s.eng.ringPid r
  part : s.eng.fb F.KPR_PART_CTL_EN (s.eng.ringPid r) = true
  ok : ordOk d = true

/-- The order that a descriptor brings. -/
def ringOrder (d : DescBits) (op r stamp seq : Nat) : Order :=
  let o := ordOf d
  { opcode := op, rqid := o.rqid, gen := o.gen, stamp, ring := r, seq, tag := o.userTag
    flags := b2n o.setDeadline + 2 * b2n o.setMaxNew, deadline := o.deadlineLast, maxNew := o.maxNew }

/-- The engine with an order taken. -/
def Eng.withOrder (e : Eng) (o : Order) : Eng := { e with hat := { e.hat with orders := e.hat.orders ++ [o], orderSeq := e.hat.orderSeq + 1 } }

/-- A fetch takes a descriptor's place in its ring. -/
theorem Eng.fetch_eq {e e1 : Eng} {r stamp : Nat} (fetch : e.fetch = some (r, stamp, e1)) :
    ∃ g rr left, e1 = { e.setRing r g with hat := { (e.setRing r g).hat with rrRing := rr, rrLeft := left } } := by
  unfold Eng.fetch at fetch
  obtain ⟨p, -, eq⟩ := Option.map_eq_some_iff.mp fetch
  obtain ⟨same, eq⟩ := Prod.mk.inj eq
  obtain ⟨-, eq⟩ := Prod.mk.inj eq
  exact ⟨_, p.1, _, by rw [← eq, ← same]⟩

/-- The engine in which a fetched order is found: its descriptor is taken, and it waits alone. -/
structure Eng.Found (e : Eng) (o : Order) (r : Nat) (x : Eng) : Prop where
  eq : ∃ rings rr left seq, x = { e with hat := { e.hat with rings, rrRing := rr, rrLeft := left, orders := [o], orderSeq := seq } }
  rings : ∀ k, k ≠ r → x.ring k = e.ring k
  all : x.fetchedUpTo o.stamp = true

section Fetched
variable {s : State} {d : DescBits} {r stamp : Nat} {e1 : Eng} (hyp : Fetches s d r stamp e1)
include hyp

/-- A fetched order is resolved at once. -/
theorem exec_order {op : Nat} {c : Instr} (code : recField d 0 7 0 = op) (plain : op ≠ 1) (runs : exec c s = live s (fun e => e.ordFetched op d)) :
    ∃ x, s.eng.Found (ringOrder d op r stamp e1.hat.orderSeq) r x ∧ exec c s = .next (s.withEng x.resolve) := by
  obtain ⟨g, rr, left, eq⟩ := Eng.fetch_eq hyp.fetch
  have regs : e1.regs = s.eng.regs := by rw [eq]; rfl
  have none_ : e1.hat.orders = [] := by rw [eq]; exact hyp.orders
  have pid : e1.ringPid r = s.eng.ringPid r := Eng.fv_congr regs _ _
  let x := e1.withOrder (ringOrder d op r stamp e1.hat.orderSeq)
  have found : s.eng.Found (ringOrder d op r stamp e1.hat.orderSeq) r x := by
    refine ⟨⟨e1.hat.rings, rr, left, e1.hat.orderSeq + 1, ?_⟩, fun k apart => ?_, hyp.all⟩
    · change ({ e1 with hat := { e1.hat with orders := e1.hat.orders ++ _, orderSeq := _ } } : Eng) = _
      rw [none_, List.nil_append, eq]
      rfl
    · change tgetD e1.hat.rings k {} = s.eng.ring k
      rw [eq]
      exact (s.eng.ring_setRing _ _ _).trans (if_neg apart)
  refine ⟨x, found, ?_⟩
  rw [runs, live_up hyp.up]
  refine congrArg (fun y => Host.Outcome.next (s.withEng y)) ?_
  unfold Eng.ordFetched Eng.fetched
  dsimp only
  rw [code, if_neg (fun h => h.1 rfl), hyp.fetch]
  dsimp only
  rw [if_neg plain, if_neg (fun h => h rfl), pid, Eng.fb, Eng.fv_congr regs, show decide (s.eng.fv F.KPR_PART_CTL_EN (s.eng.ringPid r) = 1) = true from hyp.part,
    if_neg (by decide), if_neg (not_not.mpr hyp.pid), hyp.ok, if_neg (by decide)]
  rfl

end Fetched

/-! ### Records that answer -/

/-- A record that is owed to no buddy goes out. -/
theorem Eng.report_complete (e : Eng) (v : CmpRec) (off : e.mirrorOn = false) (none_ : e.hat.heldRecs = []) : e.report v = e.complete v := by
  have owed : ∀ (b : Buddy) (n : Nat), e.buddyOwes b v.rqid n = false := fun b n => by
    unfold Eng.buddyOwes
    rw [off]
    rfl
  refine if_neg ?_
  unfold Eng.mirrorOwed
  rw [owed, owed, none_]
  exact Bool.false_ne_true

/-- An order's record goes to the ring of its own, where that takes it. -/
structure Eng.Answered (e : Eng) (c : Nat) (v : CmpRec) (z : Eng) : Prop where
  only : e.Only [1, 17] [] z
  out : .completion c (e.ring c).tail (e.ringPhase c (e.ring c).tail) v ∈ z.out
  ring : z.ring c = { e.ring c with tail := ((e.ring c).tail + 1) % 2 ^ 32 }
  held : z.hat.heldRecs = []
  behind : z.hat.behind = e.hat.behind
  orders : z.hat.orders = e.hat.orders

/-- A record that a ring takes. -/
theorem Eng.complete_answers (e : Eng) (v : CmpRec) (takes : e.cqTakes (e.cqOf v.ring) = true) (none_ : (e.ring (e.cqOf v.ring)).ovf = [])
    (held : e.hat.heldRecs = []) : e.Answered (e.cqOf v.ring) v (e.complete v) := by
  refine ⟨.complete e v (by decide), ?_, ?_, ?_, ?_, ?_⟩
  · rw [e.complete_takes v takes none_, Eng.cmpWrite_eq]
    exact List.mem_cons_of_mem _ List.mem_cons_self
  · rw [e.complete_takes v takes none_, Eng.cmpWrite_eq]
    exact (e.ring_setRing _ _ _).trans (if_pos rfl)
  · rw [e.complete_rest]
    exact held
  · rw [e.complete_rest]
  · rw [e.complete_rest]

theorem Eng.ordAnswer_ring {e : Eng} {o : Order} {c : Nat} (own : o.peer = none) (off : e.mirrorOn = false) (held : e.hat.heldRecs = []) (low : o.ring < 256)
    (cq : e.cqOf o.ring = c) (takes : e.cqTakes c = true) (none_ : (e.ring c).ovf = []) :
    e.Answered c (ordRec 0 o.ring o.gen o.rqid o.tag e.now) (e.ordAnswer o 0) := by
  have cLow : c < 256 := by
    rw [← cq]
    exact e.fv_lt F.HAT_RING_CFG_CQ o.ring
  have reports := e.trace_reports { kind := 11, pid := rqPid o.rqid, pidV := true, status := 0, sib := 0x3F, rqid := o.rqid, gen := o.gen, arg := o.opcode + 2 ^ 8 * o.ring }
  have eq : e.ordAnswer o 0 = (e.trace { kind := 11, pid := rqPid o.rqid, pidV := true, status := 0, sib := 0x3F, rqid := o.rqid, gen := o.gen, arg := o.opcode + 2 ^ 8 * o.ring }).report
      (ordRec 0 o.ring o.gen o.rqid o.tag (e.trace { kind := 11, pid := rqPid o.rqid, pidV := true, status := 0, sib := 0x3F, rqid := o.rqid, gen := o.gen, arg := o.opcode + 2 ^ 8 * o.ring }).now) := by
    unfold Eng.ordAnswer
    rw [own]
  rw [eq]
  generalize e.trace _ = z at reports
  have only : e.Only [1, 17] [] z := .of_reports reports (by decide) (by decide)
  have kind : e.ringKind c ≠ 2 := by
    obtain ⟨-, h⟩ := Bool.and_eq_true_iff.mp takes
    rw [(of_decide_eq_true h).1]
    decide
  have ring : z.ring c = e.ring c := reports.ring c cLow kind
  have zHeld : z.hat.heldRecs = [] := (congrArg (fun w : Eng => w.hat.heldRecs) reports.rest).trans held
  have zBehind : z.hat.behind = e.hat.behind := by rw [reports.rest]
  have zOrders : z.hat.orders = e.hat.orders := by rw [reports.rest]
  have zCq : z.cqOf o.ring = c :=
    (congrArg (fun w : Word => bitsOf w.toNat 23 16) (only.regs 0x1054 o.ring (by omega) List.not_mem_nil (by decide) (fun stall => absurd stall (by decide)))).trans cq
  have room : e.cmpFull c = false := by rw [e.cmpFull_eq, takes]; rfl
  have open_ : e.blocked c = false := by
    obtain ⟨h, -⟩ := Bool.and_eq_true_iff.mp takes
    unfold Eng.blocked
    rw [none_, (Bool.and_eq_true_iff.mp h).2]
    rfl
  obtain ⟨zTakes, phase, -⟩ := only.ringFree ring (by omega) open_ room
  rw [z.report_complete _ ((only.mirrorOn (by rw [reports.raf_eq])).trans off) zHeld, reports.now_eq]
  have answered := z.complete_answers (ordRec 0 o.ring o.gen o.rqid o.tag e.now) (by change z.cqTakes (z.cqOf o.ring) = true; rw [zCq]; exact zTakes)
    (by change (z.ring (z.cqOf o.ring)).ovf = []; rw [zCq, ring]; exact none_) zHeld
  change z.Answered (z.cqOf o.ring) _ _ at answered
  rw [zCq] at answered
  generalize z.complete (ordRec 0 o.ring o.gen o.rqid o.tag e.now) = w at answered
  obtain ⟨wOnly, out, wRing, wHeld, behind, orders⟩ := answered
  rw [ring] at out wRing
  exact ⟨only.trans wOnly, by rw [← phase]; exact out, wRing, wHeld, behind.trans zBehind,
    orders.trans zOrders⟩

/-! ### What a fetched order finds -/

/-- The engine in which a fetched order takes effect. -/
structure Eng.Looked (e : Eng) (x r : Nat) (f : Eng) : Prop where
  eq : ∃ hat pd, f = { e with led := { e.led with hot := (e.sibs x).foldl hotFirst e.led.hot }, pd, hat, stw := { e.stw with
    seen := some (e.seenNow.getD { tick := e.now, recs := e.led.recs, insts := e.cmp.insts }) } }
  held : f.hat.heldRecs = e.hat.heldRecs
  behind : f.hat.behind = e.hat.behind
  rings : ∀ k, k ≠ r → f.ring k = e.ring k
  dom : ∀ k, (∀ y ∈ e.sibs x, k ≠ 1 + y % 4) → f.dom k = e.dom k

section Looked
variable {e f : Eng} {x r : Nat} (looked : e.Looked x r f)
include looked

theorem Eng.Looked.recs : f.led.recs = e.led.recs := by
  obtain ⟨hat, pd, eq⟩ := looked.eq
  rw [eq]

theorem Eng.Looked.only : e.Only [1, 2, 5, 15] [] f := by
  obtain ⟨hat, pd, eq⟩ := looked.eq
  have parts : ∀ y : Eng, y = { e with led := y.led, pd := y.pd, hat := y.hat, stw := y.stw } → e.Only [1, 2, 5, 15] [] y := fun y same => by
    rw [same]
    exact .of_parts rfl rfl (fun u out => by unfold Eng.partSame; split <;> simp_all)
  exact parts f (by rw [eq])

theorem Eng.Looked.stw : f.stw = { e.stw with seen := some (e.seenNow.getD { tick := e.now, recs := e.led.recs, insts := e.cmp.insts }) } := by
  obtain ⟨hat, pd, eq⟩ := looked.eq
  rw [eq]

theorem Eng.Looked.led : f.led = { e.led with hot := (e.sibs x).foldl hotFirst e.led.hot } := by
  obtain ⟨hat, pd, eq⟩ := looked.eq
  rw [eq]

end Looked

theorem Eng.Found.looked {e y : Eng} {o : Order} {r x : Nat} (found : e.Found o r y) (named : e.named o.rqid o.gen = some x) : e.Looked x r (y.ordFound o) := by
  obtain ⟨rings, rr, left, seq, eq⟩ := found.eq
  have recs : y.led = e.led := by rw [eq]
  obtain ⟨pd, at_, beside⟩ := y.ordFound_eq ((Eng.named_congr (congrArg Led.recs recs) o.rqid o.gen).trans named)
  have sibs : y.sibs x = e.sibs x := Eng.sibs_congr (congrArg Led.recs recs) x
  refine ⟨⟨{ y.hat with orders := [] }, pd, ?_⟩, ?_, ?_, fun k other => ?_, fun k out => ?_⟩
  · rw [at_, sibs, eq]
    rfl
  · rw [at_, eq]
  · rw [at_, eq]
  · rw [at_]
    exact found.rings k other
  · rw [at_]
    refine (beside k (by rw [sibs]; exact out)).trans ?_
    rw [eq]
    rfl

section Order
variable {s : State} {d : DescBits} {r stamp : Nat} {e1 : Eng} (hyp : Fetches s d r stamp e1)
include hyp

/-- A fetched order that is accepted changes its request, is answered, and what follows the answer follows. -/
theorem order_answered {op x : Nat} {c : Instr} (code : recField d 0 7 0 = op) (plain : op ≠ 1) (runs : exec c s = live s (fun e => e.ordFetched op d))
    (named : s.eng.named (ordOf d).rqid (ordOf d).gen = some x) :
    let o := ringOrder d op r stamp e1.hat.orderSeq
    let e := s.eng
    ∃ f, e.Looked x r f ∧ (f.ordStatus o = 0 → ∀ us, 0 ∉ us → 13 ∉ us → e.Only us [] (f.ordChange o x) → (f.ordChange o x).hat = f.hat →
      ∃ a, (f.ordChange o x).Only [1, 17] [] a ∧
        .completion (e.cqOf r) (e.ring (e.cqOf r)).tail (e.ringPhase (e.cqOf r) (e.ring (e.cqOf r)).tail)
          (ordRec 0 r (ordOf d).gen (ordOf d).rqid (ordOf d).userTag e.now) ∈ a.out ∧
        a.ring (e.cqOf r) = { e.ring (e.cqOf r) with tail := ((e.ring (e.cqOf r)).tail + 1) % 2 ^ 32 } ∧ a.hat.heldRecs = [] ∧ a.hat.behind = [] ∧
        ((a.ordFollow o x (f.ordTargets op x)).hat.behind = [] → exec c s = .next (s.withEng (a.ordFollow o x (f.ordTargets op x))))) := by
  intro o e
  obtain ⟨y, found, ran⟩ := exec_order hyp code plain runs
  have looked := found.looked (o := o) named
  refine ⟨y.ordFound o, looked, fun status us tally links only hat => ?_⟩
  obtain ⟨rings, rr, left, seq, eq⟩ := found.eq
  have set := Eng.ordSet_alone (e := y) (o := o) (by rw [eq]) (by rw [eq]; exact (Eng.named_congr (e := e) rfl _ _).trans named) status
  have ring : ((y.ordFound o).ordChange o x).ring (e.cqOf r) = e.ring (e.cqOf r) := by
    rw [Eng.ring, hat]
    exact looked.rings _ hyp.other
  have open_ : e.blocked (e.cqOf r) = false := by
    unfold Eng.blocked
    rw [hyp.none_, hyp.en]
    rfl
  have cLow : e.cqOf r < 256 := e.fv_lt F.HAT_RING_CFG_CQ r
  obtain ⟨takes, phase, none_⟩ := only.ringFree ring (by omega) open_ hyp.room
  have now : ((y.ordFound o).ordChange o x).now = e.now := only.parts 0 tally
  have cq : ((y.ordFound o).ordChange o x).cqOf r = e.cqOf r :=
    congrArg (fun w : Word => bitsOf w.toNat 23 16) (only.regs 0x1054 r (by have := hyp.low; omega) List.not_mem_nil (by decide) (fun stall => absurd stall (by decide)))
  have answered := Eng.ordAnswer_ring (e := (y.ordFound o).ordChange o x) (o := o) (c := e.cqOf r) rfl
    ((only.mirrorOn (congrArg Raf.mapLoaded (only.parts 13 links))).trans hyp.off) ((congrArg Hat.heldRecs hat).trans (looked.held.trans hyp.held)) hyp.low cq takes
    (by rw [ring]; exact none_)
  rw [now] at answered
  obtain ⟨aOnly, out, aRing, held, behind_, -⟩ := answered
  rw [ring] at out aRing
  rw [phase] at out
  refine ⟨_, aOnly, out, aRing, held, behind_.trans ((congrArg Hat.behind hat).trans (looked.behind.trans hyp.behind)), fun behind => ?_⟩
  rw [ran]
  refine congrArg (fun z => Host.Outcome.next (s.withEng z)) ?_
  have resolved := Eng.resolve_alone (e := y) (o := o) (by rw [eq]) (by rw [eq]; exact hyp.past) found.all (by rw [eq]; exact hyp.behind)
    (by rw [set]; exact behind)
  rw [resolved, set]
  rfl

end Order

end Sys2Proof.Machine
end

section
/-!
PREEMPT and MODIFY of requests of any number of siblings (O26).
-/
namespace Sys2Proof.Machine

/-- The siblings of a request in a range of states. -/
def Eng.listed (e : Eng) (x a b : Nat) : List Nat := (e.sibs x).filter (fun y => (e.rc y).any (fun v => decide (a ≤ v.state ∧ v.state ≤ b)))

theorem Eng.ordTargets_listed (e : Eng) {op a b : Nat} (range : ∀ st, ordListed op st = decide (a ≤ st ∧ st ≤ b)) (x : Nat) :
    e.ordTargets op x = e.listed x a b := by
  unfold Eng.ordTargets Eng.listed
  refine List.filter_congr (fun y _ => ?_)
  cases e.rc y with
  | none => rfl
  | some v => exact range v.state

theorem Eng.listed_congr {e f : Eng} (recs : f.led.recs = e.led.recs) (x a b : Nat) : f.listed x a b = e.listed x a b := by
  unfold Eng.listed
  rw [Eng.sibs_congr recs]
  exact List.filter_congr (fun y _ => by rw [Eng.rc_congr recs])

theorem Eng.mem_listed {e : Eng} {x a b y : Nat} (among : y ∈ e.listed x a b) : y ∈ e.sibs x ∧ ∃ v, e.rc y = some v ∧ a ≤ v.state ∧ v.state ≤ b := by
  obtain ⟨sib, state⟩ := List.mem_filter.mp among
  cases rc : e.rc y with
  | none =>
    rw [rc] at state
    exact absurd state Bool.false_ne_true
  | some v =>
    rw [rc] at state
    exact ⟨sib, v, rfl, of_decide_eq_true state⟩

/-- A request with a listed sibling has not ended. -/
theorem Eng.allEnded_listed {e : Eng} {x a b : Nat} (least : 1 ≤ a) (most : b ≤ 8) (some_ : e.listed x a b ≠ []) : e.allEnded x = false := by
  obtain ⟨y, among⟩ := List.exists_mem_of_ne_nil _ some_
  obtain ⟨sib, v, rc, low, high⟩ := Eng.mem_listed among
  unfold Eng.allEnded
  rw [List.all_eq_false]
  refine ⟨y, sib, ?_⟩
  rw [rc]
  dsimp only
  rw [LRec.live, decide_eq_true ⟨by omega, by omega⟩]
  decide

/-- An order that does not change what is reserved is accepted where it lists a sibling. -/
theorem Eng.ordStatus_plain {e : Eng} {o : Order} {x : Nat} (named : e.named o.rqid o.gen = some x) (live_ : e.allEnded x = false)
    (some_ : e.ordTargets o.opcode x ≠ []) (plain : ¬(o.opcode = 4 ∧ o.flags / 2 % 2 = 1)) : e.ordStatus o = 0 := by
  unfold Eng.ordStatus
  rw [named]
  dsimp only
  rw [live_, if_neg Bool.false_ne_true, if_neg (fun h => some_ (List.isEmpty_iff.mp h)), if_neg plain]

/-! ### What an order leaves besides the records -/

/-- What is true of an order that has changed siblings `l` of the request at `x` and has been answered. -/
structure Ordered (s : State) (d : DescBits) (r x : Nat) (l : List Nat) (t : State) : Prop where
  out : .completion (s.eng.cqOf r) (s.eng.ring (s.eng.cqOf r)).tail (s.eng.ringPhase (s.eng.cqOf r) (s.eng.ring (s.eng.cqOf r)).tail)
    (ordRec 0 r (ordOf d).gen (ordOf d).rqid (ordOf d).userTag s.eng.now) ∈ t.eng.out
  now : t.eng.now = s.eng.now
  stw : t.eng.stw = { s.eng.stw with seen := some (s.eng.seenNow.getD { tick := s.eng.now, recs := s.eng.led.recs, insts := s.eng.cmp.insts }) }
  hot : t.eng.led.hot = l.foldl hotFirst ((s.eng.sibs x).foldl hotFirst s.eng.led.hot)
  dom : ∀ k, (∀ y ∈ s.eng.sibs x, k ≠ 1 + y % 4) → t.eng.dom k = s.eng.dom k

section Order
variable {s : State} {d : DescBits} {r stamp : Nat} {e1 : Eng} (hyp : Fetches s d r stamp e1)
include hyp

/-- PREEMPT pauses the siblings that run. -/
theorem preempt_pauses {x : Nat} (code : recField d 0 7 0 = 5) (named : s.eng.named (ordOf d).rqid (ordOf d).gen = some x)
    (nodup : (s.eng.sibs x).Nodup) (some_ : s.eng.listed x 3 6 ≠ []) :
    ∃ t, exec (.preempt d) s = .next t ∧ (∀ y, t.eng.rc y = (s.eng.rc y).map (fun v => if y ∈ s.eng.listed x 3 6 then v.paused else v)) ∧
      Ordered s d r x (s.eng.listed x 3 6) t ∧ t.eng.led = { s.eng.led with recs := t.eng.led.recs, hot := t.eng.led.hot } ∧
      t.eng.shv = { s.eng.shv with balances := ((s.eng.listed x 3 6).filterMap s.eng.rc).foldl (fun l v => sinsert l v.inst) s.eng.shv.balances } ∧
      s.Only [1, 2, 5, 6, 15, 17] [] t := by
  obtain ⟨f, looked, next⟩ := order_answered hyp (c := .preempt d) code (by decide) rfl named
  have recs := looked.recs
  have targets : f.ordTargets 5 x = s.eng.listed x 3 6 := (f.ordTargets_listed (fun _ => rfl) x).trans (Eng.listed_congr recs x 3 6)
  have status := Eng.ordStatus_plain (e := f) (o := ringOrder d 5 r stamp e1.hat.orderSeq) ((Eng.named_congr recs _ _).trans named)
    ((Eng.allEnded_congr recs x).trans (Eng.allEnded_listed (by decide) (by decide) some_)) (by change f.ordTargets 5 x ≠ []; rw [targets]; exact some_)
    (fun h => absurd h.1 (by decide : (5 : Nat) ≠ 4))
  obtain ⟨recs', pd, eq, paused, beside⟩ := foldl_pauseOne (s.eng.listed x 3 6) (nodup.filter _) f (fun y among => by
    obtain ⟨-, v, rc, -⟩ := Eng.mem_listed among
    rw [Eng.rc_congr recs, rc]
    rfl) ((looked.only.mirrorOn (congrArg Raf.mapLoaded (looked.only.parts 13 (by decide)))).trans hyp.off)
  rw [← targets, ← Eng.ordChange_pause f (o := ringOrder d 5 r stamp e1.hat.orderSeq) rfl x, targets] at eq
  have shv : f.shv = s.eng.shv := looked.only.parts 6 (by decide)
  have rc : ∀ y, f.rc y = s.eng.rc y := Eng.rc_congr recs
  have only : s.eng.Only [1, 2, 5, 6, 15] [] (f.ordChange (ringOrder d 5 r stamp e1.hat.orderSeq) x) := by
    refine (looked.only.weaken (by decide) (by decide)).trans ?_
    rw [eq]
    exact ((Eng.Only.setLed f _ (by decide)).trans (.setPd _ pd (by decide))).trans (.setShv _ _ (by decide))
  obtain ⟨a, aOnly, out, -, -, behind, ran⟩ := next status _ (by decide) (by decide) only (by rw [eq])
  generalize f.ordChange (ringOrder d 5 r stamp e1.hat.orderSeq) x = c at eq only aOnly
  have led : a.led = c.led := aOnly.parts 2 (by decide)
  refine ⟨_, ran behind, fun y => ?_, ⟨out, (aOnly.parts 0 (by decide)).trans (only.parts 0 (by decide)), ?_, ?_, fun k other => ?_⟩, ?_, ?_,
    .withEng ((only.weaken (by decide) (by decide)).trans (aOnly.weaken (by decide) (by decide)))⟩
  · change tget a.led.recs y = _
    rw [led, eq, ← rc]
    exact paused y
  · exact (show a.stw = c.stw from aOnly.parts 5 (by decide)).trans (by rw [eq]; exact looked.stw)
  · change a.led.hot = _
    rw [led, eq]
    change (s.eng.listed x 3 6).foldl hotFirst f.led.hot = _
    rw [looked.led]
  · refine (congrArg (fun p => tgetD p k { st := 0 }) (show a.pd = c.pd from aOnly.parts 15 (by decide))).trans ?_
    rw [eq]
    exact (beside k (fun y among => other y (Eng.mem_listed among).1)).trans (looked.dom k other)
  · change a.led = { s.eng.led with recs := a.led.recs, hot := a.led.hot }
    rw [led, eq, looked.led]
  · refine (show a.shv = c.shv from aOnly.parts 6 (by decide)).trans ?_
    rw [eq, shv, show f.rc = s.eng.rc from funext rc]

end Order

/-! ### MODIFY -/

theorem ringOrder_setsDeadline (d : DescBits) (op r stamp seq : Nat) : (ringOrder d op r stamp seq).flags % 2 = 1 ↔ (ordOf d).setDeadline = true := by
  change (b2n (ordOf d).setDeadline + 2 * b2n (ordOf d).setMaxNew) % 2 = 1 ↔ _
  cases (ordOf d).setDeadline <;> cases (ordOf d).setMaxNew <;> decide

theorem ringOrder_setsMaxNew (d : DescBits) (op r stamp seq : Nat) : (ringOrder d op r stamp seq).flags / 2 % 2 = 1 ↔ (ordOf d).setMaxNew = true := by
  change (b2n (ordOf d).setDeadline + 2 * b2n (ordOf d).setMaxNew) / 2 % 2 = 1 ↔ _
  cases (ordOf d).setDeadline <;> cases (ordOf d).setMaxNew <;> decide

/-- A sibling with what a MODIFY sets. -/
def LRec.modified (o : OrdDesc) (v : LRec) : LRec := { v with
  deadlineLast := if o.setDeadline then o.deadlineLast else v.deadlineLast
  maxNew := if o.setMaxNew then o.maxNew else v.maxNew
  pagesResv := if o.setMaxNew && decide (v.admitStamp ≠ 0) then tokenPages o.maxNew - v.pages.length else v.pagesResv }

/-- A MODIFY of one sibling. -/
def Eng.modifyOne (o : Order) (e : Eng) (s : Nat) : Eng :=
  match e.rc s with
  | none => e
  | some r =>
    let e := e.recUse s
    let e := if o.flags % 2 = 1 then e.modRc s (fun r => { r with deadlineLast := o.deadline }) else e
    let e := if o.flags / 2 % 2 = 1 then
        let z := resizeBy r o.maxNew
        let n := if r.admitStamp = 0 then r.pagesResv else r.pagesResv + z.1 - z.2
        let e := { e with led := { e.led with pagesReserved := e.led.pagesReserved + n - r.pagesResv } }
        e.modRc s (fun r => { r with maxNew := o.maxNew, pagesResv := n })
      else e
    e.mirror s

theorem Eng.ordChange_modify (e : Eng) {o : Order} (op : o.opcode = 4) (first : Nat) :
    e.ordChange o first = (e.ordTargets 4 first).foldl (Eng.modifyOne o) e := by
  unfold Eng.ordChange
  rw [op]
  rfl

/-- The deadline of one sibling set. -/
def Eng.setLast (o : Order) (s : Nat) (e : Eng) : Eng := if o.flags % 2 = 1 then e.modRc s (fun r => { r with deadlineLast := o.deadline }) else e

/-- The largest number of tokens of one sibling set, with the pages that it reserves. -/
def Eng.setMost (o : Order) (s : Nat) (r : LRec) (e : Eng) : Eng :=
  if o.flags / 2 % 2 = 1 then
    let z := resizeBy r o.maxNew
    let n := if r.admitStamp = 0 then r.pagesResv else r.pagesResv + z.1 - z.2
    let e := { e with led := { e.led with pagesReserved := e.led.pagesReserved + n - r.pagesResv } }
    e.modRc s (fun r => { r with maxNew := o.maxNew, pagesResv := n })
  else e

section Modify
variable (d : DescBits) (op r stamp seq : Nat)

theorem Eng.setLast_eq (e : Eng) {s : Nat} {v : LRec} (rc : e.rc s = some v) :
    ∃ recs, (e.setLast (ringOrder d op r stamp seq) s) = { e with led := { e.led with recs } } ∧
      ∀ y, tget recs y = if y = s then some { v with deadlineLast := if (ordOf d).setDeadline then (ordOf d).deadlineLast else v.deadlineLast } else e.rc y := by
  unfold Eng.setLast
  by_cases sets : (ordOf d).setDeadline = true
  · rw [if_pos ((ringOrder_setsDeadline d op r stamp seq).mpr sets), if_pos sets]
    exact ⟨_, rfl, fun y => (tget_tmod _ _ _ _).trans (by rw [show tget e.led.recs s = some v from rc]; rfl)⟩
  · rw [if_neg (fun h => sets ((ringOrder_setsDeadline d op r stamp seq).mp h)), if_neg sets]
    refine ⟨_, rfl, fun y => ?_⟩
    split
    · next here => rw [here]; exact rc
    · rfl

/-- The pages that a sibling reserves once the largest number of tokens is set. -/
theorem resize_reserves (v : LRec) (n : Nat) : (if v.admitStamp = 0 then v.pagesResv else v.pagesResv + (resizeBy v n).1 - (resizeBy v n).2) =
    if decide (v.admitStamp ≠ 0) then tokenPages n - v.pages.length else v.pagesResv := by
  unfold resizeBy
  dsimp only
  by_cases out : v.admitStamp = 0
  · rw [if_pos out, if_neg (by rw [decide_eq_true_eq]; exact fun h => h out)]
  · rw [if_neg out, if_pos (decide_eq_true out)]
    omega

theorem Eng.setMost_eq (e : Eng) {s : Nat} {v w : LRec} (rc : e.rc s = some w) :
    ∃ recs pagesReserved, (e.setMost (ringOrder d op r stamp seq) s v) = { e with led := { e.led with recs, pagesReserved } } ∧
      (∀ y, tget recs y = if y = s then some { w with
        maxNew := if (ordOf d).setMaxNew then (ordOf d).maxNew else w.maxNew
        pagesResv := if (ordOf d).setMaxNew then (if decide (v.admitStamp ≠ 0) then tokenPages (ordOf d).maxNew - v.pages.length else v.pagesResv) else w.pagesResv }
        else e.rc y) ∧
      pagesReserved = if (ordOf d).setMaxNew then
        e.led.pagesReserved + (if decide (v.admitStamp ≠ 0) then tokenPages (ordOf d).maxNew - v.pages.length else v.pagesResv) - v.pagesResv else e.led.pagesReserved := by
  unfold Eng.setMost
  dsimp only
  rw [resize_reserves]
  by_cases sets : (ordOf d).setMaxNew = true
  · rw [if_pos ((ringOrder_setsMaxNew d op r stamp seq).mpr sets), if_pos sets, if_pos sets, if_pos sets]
    exact ⟨_, _, rfl, fun y => (tget_tmod _ _ _ _).trans (by rw [show tget e.led.recs s = some w from rc]; rfl), rfl⟩
  · rw [if_neg (fun h => sets ((ringOrder_setsMaxNew d op r stamp seq).mp h)), if_neg sets, if_neg sets, if_neg sets]
    refine ⟨_, _, rfl, fun y => ?_, rfl⟩
    split
    · next here => rw [here]; exact rc
    · rfl

theorem Eng.modifyOne_eq (e : Eng) {s : Nat} {v : LRec} (rc : e.rc s = some v) (off : e.mirrorOn = false) :
    ∃ recs pagesReserved pd, e.modifyOne (ringOrder d op r stamp seq) s = { e with led := { e.led with hot := hotFirst e.led.hot s, recs, pagesReserved }, pd } ∧
      (∀ y, tget recs y = if y = s then some (v.modified (ordOf d)) else e.rc y) ∧
      (pagesReserved = if (ordOf d).setMaxNew then e.led.pagesReserved + (v.modified (ordOf d)).pagesResv - v.pagesResv else e.led.pagesReserved) ∧
      ∀ k, k ≠ 1 + s % 4 → tgetD pd k { st := 0 } = e.dom k := by
  have used := e.recUse_eq s
  have rcU : (e.recUse s).rc s = some v := by rw [used]; exact rc
  obtain ⟨recs1, eq1, rc1⟩ := (e.recUse s).setLast_eq d op r stamp seq rcU
  obtain ⟨recs2, pages, eq2, rc2, reserved⟩ := Eng.setMost_eq d op r stamp seq ((e.recUse s).setLast (ringOrder d op r stamp seq) s) (s := s) (v := v)
    (w := { v with deadlineLast := if (ordOf d).setDeadline then (ordOf d).deadlineLast else v.deadlineLast }) (by rw [eq1]; exact (rc1 s).trans (if_pos rfl))
  have unfolded : e.modifyOne (ringOrder d op r stamp seq) s =
      (((e.recUse s).setLast (ringOrder d op r stamp seq) s).setMost (ringOrder d op r stamp seq) s v).mirror s := by
    unfold Eng.modifyOne
    rw [rc]
    rfl
  have whole : ((e.recUse s).setLast (ringOrder d op r stamp seq) s).setMost (ringOrder d op r stamp seq) s v =
      { e with led := { e.led with hot := hotFirst e.led.hot s, recs := recs2, pagesReserved := pages }, pd := (e.recUse s).pd } := by
    rw [eq2, eq1, used]
  refine ⟨recs2, pages, (e.recUse s).pd, ?_, fun y => ?_, ?_, fun k other => e.recUse_beside other⟩
  · rw [unfolded, Eng.mirror_off _ (by rw [whole]; exact off), whole]
  · rw [rc2 y]
    by_cases here : y = s
    · rw [if_pos here, if_pos here]
      unfold LRec.modified
      cases (ordOf d).setMaxNew <;> rfl
    · rw [if_neg here, if_neg here, eq1]
      refine (rc1 y).trans ((if_neg here).trans ?_)
      rw [used]
      rfl
  · rw [reserved, eq1, used]
    unfold LRec.modified
    cases (ordOf d).setMaxNew <;> rfl

end Modify

/-- What counts of a sibling whose largest number of tokens is set, once it is admitted. -/
def LRec.share (o : OrdDesc) (f : LRec → Nat) (v : LRec) : Nat := if o.setMaxNew ∧ v.admitStamp ≠ 0 then f v else 0

/-- The sum of it over siblings. -/
def Eng.total (e : Eng) (o : OrdDesc) (l : List Nat) (f : LRec → Nat) : Nat := ((l.filterMap e.rc).map (LRec.share o f)).sum

theorem Eng.total_congr {e f : Eng} (o : OrdDesc) {l : List Nat} (g : LRec → Nat) (same : ∀ y ∈ l, f.rc y = e.rc y) : f.total o l g = e.total o l g := by
  unfold Eng.total
  rw [List.filterMap_congr same]

theorem Eng.total_cons (e : Eng) (o : OrdDesc) {s : Nat} {v : LRec} (l : List Nat) (g : LRec → Nat) (rc : e.rc s = some v) :
    e.total o (s :: l) g = v.share o g + e.total o l g := by
  unfold Eng.total
  rw [List.filterMap_cons_some rc, List.map_cons, List.sum_cons]

theorem LRec.share_in {o : OrdDesc} {v : LRec} (sets : o.setMaxNew = true) (admitted : v.admitStamp ≠ 0) (f : LRec → Nat) : v.share o f = f v :=
  if_pos ⟨sets, admitted⟩

theorem LRec.share_out {o : OrdDesc} {v : LRec} (out : ¬(o.setMaxNew = true ∧ v.admitStamp ≠ 0)) (f : LRec → Nat) : v.share o f = 0 := if_neg out

theorem LRec.modified_reserves (o : OrdDesc) (v : LRec) {pages : Nat} (enough : v.share o LRec.pagesResv ≤ pages) :
    (if o.setMaxNew then pages + (v.modified o).pagesResv - v.pagesResv else pages) + v.share o LRec.pagesResv =
      pages + v.share o (fun v => tokenPages o.maxNew - v.pages.length) := by
  by_cases counts : o.setMaxNew = true ∧ v.admitStamp ≠ 0
  · obtain ⟨sets, admitted⟩ := counts
    have reserves : (v.modified o).pagesResv = tokenPages o.maxNew - v.pages.length := if_pos (by rw [sets, decide_eq_true admitted]; rfl)
    rw [LRec.share_in sets admitted] at enough ⊢
    rw [LRec.share_in sets admitted, if_pos sets, reserves]
    omega
  · have reserves : o.setMaxNew = true → (v.modified o).pagesResv = v.pagesResv := fun sets =>
      if_neg (by rw [sets, decide_eq_false (fun admitted => counts ⟨sets, admitted⟩)]; exact Bool.false_ne_true)
    rw [LRec.share_out counts, LRec.share_out counts]
    split
    · next sets => rw [reserves sets, Nat.add_sub_cancel]
    · rfl

/-- A MODIFY of siblings, one after another. -/
theorem foldl_modifyOne (d : DescBits) (op r stamp seq : Nat) (l : List Nat) (nodup : l.Nodup) (e : Eng) (some_ : ∀ s ∈ l, (e.rc s).isSome = true)
    (off : e.mirrorOn = false) :
    ∃ recs pages pd, l.foldl (Eng.modifyOne (ringOrder d op r stamp seq)) e =
        { e with led := { e.led with hot := l.foldl hotFirst e.led.hot, recs, pagesReserved := pages }, pd } ∧
      (∀ y, tget recs y = (e.rc y).map (fun v => if y ∈ l then v.modified (ordOf d) else v)) ∧
      (e.total (ordOf d) l LRec.pagesResv ≤ e.led.pagesReserved →
        pages + e.total (ordOf d) l LRec.pagesResv = e.led.pagesReserved + e.total (ordOf d) l (fun v => tokenPages (ordOf d).maxNew - v.pages.length)) ∧
      ∀ k, (∀ y ∈ l, k ≠ 1 + y % 4) → tgetD pd k { st := 0 } = e.dom k := by
  induction l generalizing e with
  | nil => exact ⟨_, _, _, rfl, fun y => by simp [Eng.rc], fun _ => rfl, fun _ _ => rfl⟩
  | cons s l ih =>
    obtain ⟨fresh, nodup'⟩ := List.nodup_cons.mp nodup
    obtain ⟨v, rc⟩ := Option.isSome_iff_exists.mp (some_ s List.mem_cons_self)
    obtain ⟨recs, pages, pd, one, set, reserved, beside⟩ := e.modifyOne_eq d op r stamp seq rc off
    rw [List.foldl_cons]
    generalize e.modifyOne (ringOrder d op r stamp seq) s = a at one
    have rc' : ∀ y, a.rc y = if y = s then some (v.modified (ordOf d)) else e.rc y := fun y => by
      rw [one]
      exact set y
    have same : ∀ y ∈ l, a.rc y = e.rc y := fun y among => by rw [rc', if_neg (ne_of_mem_of_not_mem among fresh)]
    obtain ⟨recs', pages', pd', eq, changed, sums, beside'⟩ := ih nodup' a (fun y among => by
      rw [same y among]
      exact some_ y (List.mem_cons_of_mem _ among)) (by rw [one]; exact off)
    rw [Eng.total_congr _ _ same, Eng.total_congr _ _ same] at sums
    refine ⟨recs', pages', pd', ?_, fun y => ?_, fun enough => ?_, fun k out => ?_⟩
    · rw [eq, List.foldl_cons, one]
    · rw [changed, rc']
      by_cases here : y = s
      · rw [if_pos here, here, rc, Option.map_some, Option.map_some, if_neg fresh, if_pos List.mem_cons_self]
      · rw [if_neg here]
        simp only [List.mem_cons, here, false_or]
    · rw [Eng.total_cons e _ l _ rc] at enough ⊢
      rw [Eng.total_cons e _ l _ rc]
      have head := v.modified_reserves (ordOf d) (pages := e.led.pagesReserved) (by omega)
      rw [← reserved] at head
      have pagesA : a.led.pagesReserved = pages := by rw [one]
      rw [pagesA] at sums
      have tail := sums (by omega)
      omega
    · refine (beside' k (fun y among => out y (List.mem_cons_of_mem _ among))).trans ?_
      rw [one]
      exact beside k (out s List.mem_cons_self)

/-- The pages that a MODIFY asks for, and those that it gives back. -/
theorem foldl_resizeBy (e : Eng) (o : OrdDesc) (sets : o.setMaxNew = true) (n : Nat) (l : List Nat) (a : Nat × Nat) :
    l.foldl (fun (a : Nat × Nat) x => match e.rc x with
      | some r => if r.admitStamp = 0 then a else (a.1 + (resizeBy r n).1, a.2 + (resizeBy r n).2)
      | none => a) a = (a.1 + e.total o l (fun v => (resizeBy v n).1), a.2 + e.total o l (fun v => (resizeBy v n).2)) := by
  induction l generalizing a with
  | nil => rfl
  | cons s l ih =>
    rw [List.foldl_cons, ih]
    cases rc : e.rc s with
    | none =>
      unfold Eng.total
      rw [List.filterMap_cons_none rc]
    | some v =>
      rw [Eng.total_cons e o l _ rc, Eng.total_cons e o l _ rc]
      unfold LRec.share
      dsimp only
      by_cases admitted : v.admitStamp ≠ 0
      · rw [if_neg admitted, if_pos ⟨sets, admitted⟩, if_pos ⟨sets, admitted⟩, Nat.add_assoc, Nat.add_assoc]
      · rw [if_pos (not_not.mp admitted), if_neg (fun h => admitted h.2), if_neg (fun h => admitted h.2), Nat.zero_add, Nat.zero_add]

theorem pair_less {n a b : Nat} {p : Nat × Nat} (eq : p = (a, b)) (less : n + p.2 < p.1) : n + b < a := by
  rw [eq] at less
  exact less

/-- A MODIFY is accepted where it lists a sibling and the pages suffice. -/
theorem Eng.ordStatus_modify {e : Eng} {d : DescBits} {r stamp seq x : Nat} (named : e.named (ordOf d).rqid (ordOf d).gen = some x)
    (some_ : e.listed x 1 8 ≠ []) (suffice : e.total (ordOf d) (e.listed x 1 8) (fun v => tokenPages (ordOf d).maxNew - v.pages.length - v.pagesResv) ≤
      e.pagesFree + e.total (ordOf d) (e.listed x 1 8) (fun v => v.pagesResv - (tokenPages (ordOf d).maxNew - v.pages.length))) :
    e.ordStatus (ringOrder d 4 r stamp seq) = 0 := by
  have targets : e.ordTargets 4 x = e.listed x 1 8 := e.ordTargets_listed (fun _ => rfl) x
  by_cases sets : (ordOf d).setMaxNew = true
  · unfold Eng.ordStatus
    rw [show e.named (ringOrder d 4 r stamp seq).rqid (ringOrder d 4 r stamp seq).gen = some x from named]
    dsimp only
    rw [Eng.allEnded_listed (by decide) (by decide) some_, if_neg Bool.false_ne_true, show e.ordTargets (ringOrder d 4 r stamp seq).opcode x = e.listed x 1 8 from targets,
      if_neg (fun h => some_ (List.isEmpty_iff.mp h)), if_pos ⟨rfl, (ringOrder_setsMaxNew d 4 r stamp seq).mpr sets⟩]
    refine if_neg (fun short => Nat.not_lt.mpr suffice ?_)
    have less := pair_less (foldl_resizeBy e (ordOf d) sets (ordOf d).maxNew (e.listed x 1 8) (0, 0)) short
    rw [Nat.zero_add, Nat.zero_add] at less
    exact less
  · exact Eng.ordStatus_plain named (Eng.allEnded_listed (by decide) (by decide) some_) (by change e.ordTargets 4 x ≠ []; rw [targets]; exact some_)
      (fun h => sets ((ringOrder_setsMaxNew d 4 r stamp seq).mp h.2))

end Sys2Proof.Machine
end

section
/-!
Orders on a request of one sibling, and the ends that follow them (O26).
-/
namespace Sys2Proof.Machine

/-! ### The end of a sibling without work outstanding and without holdings -/

/-- The FINAL record of a sibling. -/
def LRec.finalRec (v : LRec) (status now : Nat) : CmpRec :=
  { status, final := true, sib := v.sib, gen := v.gen, ring := v.ring, rqid := v.rqid, tag := v.userTag, stamp := now, step := 0 }

/-- A sibling that has stopped. -/
def LRec.stopped (v : LRec) (state : Nat) : LRec := { v with state, draftN := 0 }

/-- A sibling that is the only one of its request, has no work outstanding and holds nothing. -/
structure Eng.Bare (e : Eng) (x : Nat) (v : LRec) : Prop where
  rc : e.rc x = some v
  last : v.nextSib = 0xFFFFFF
  slots : (e.inst v.inst).openSlots = []
  draft : v.draftV = false
  map : e.smap x = none
  first : rqSlot v.rqid = x

theorem Eng.reap_bare {e : Eng} {x : Nat} {v : LRec} (bare : e.Bare x v) : e.reap x = e := by
  have dropped : ∀ fin, e.dropHoldings x fin = e := fun fin => by
    unfold Eng.dropHoldings
    rw [bare.rc]
    dsimp only
    rw [bare.first, bare.map]
    dsimp only
    split
    · rfl
    · exact if_neg (by rw [bare.map]; exact Bool.false_ne_true)
  have draft : e.dropDraft x = e := by
    unfold Eng.dropDraft
    rw [bare.rc]
    dsimp only
    rw [bare.draft]
    exact if_neg Bool.false_ne_true
  unfold Eng.reap
  rw [bare.rc]
  dsimp only
  split
  · rfl
  · rw [draft]
    exact dropped _

/-- A record used and changed. -/
theorem Eng.recUse_modRc (e : Eng) (s : Nat) (f : LRec → LRec) : (e.recUse s).modRc s f =
    { e with led := { e.led with hot := hotFirst e.led.hot s, recs := tmod e.led.recs s f }, pd := (e.recUse s).pd } := by
  rw [Eng.recUse_eq]
  rfl

theorem Eng.stopSib_bare {e : Eng} {x n : Nat} {v : LRec} (bare : e.Bare x v) (off : e.mirrorOn = false) (ended : n = 9 ∨ n = 10) :
    ∃ recs pd gat, e.stopSib x n = { e with led := { e.led with hot := hotFirst e.led.hot x, recs }, pd, gat } ∧
      (∀ y, tget recs y = if y = x then some (v.stopped n) else e.rc y) ∧ ∀ k, k ≠ 1 + x % 4 → tgetD pd k { st := 0 } = e.dom k := by
  let b : Eng := { e with led := { e.led with hot := hotFirst e.led.hot x, recs := tmod e.led.recs x (fun r => r.stopped n) }, pd := (e.recUse x).pd }
  have eq : (e.recUse x).modRc x (fun r => r.stopped n) = b := e.recUse_modRc x _
  have rc : ∀ y, b.rc y = if y = x then some (v.stopped n) else e.rc y := fun y =>
    (tget_tmod _ _ _ _).trans (by rw [show tget e.led.recs x = some v from bare.rc]; rfl)
  have stopped : b.Bare x (v.stopped n) := ⟨(rc x).trans (if_pos rfl), bare.last, bare.slots, bare.draft, bare.map, bare.first⟩
  have first : b.firstOf x = x := by
    unfold Eng.firstOf
    rw [stopped.rc]
    exact bare.first
  have gone : (b.sibs x).any (fun s => match b.rc s with
    | some r => decide (r.state = 1)
    | none => false) = false := by
    rw [b.sibs_alone stopped.rc stopped.last, List.any_cons, List.any_nil, stopped.rc]
    dsimp only
    rw [Bool.or_false]
    exact decide_eq_false (show ¬n = 1 by omega)
  refine ⟨b.led.recs, b.pd, { b.gat with deferq := b.gat.deferq.filter (fun y => decide (y ≠ x)), fresh := b.gat.fresh.filter (fun y => decide (y.2 ≠ x)) }, ?_, rc,
    fun k other => e.recUse_beside other⟩
  unfold Eng.stopSib
  dsimp only
  rw [show (e.recUse x).modRc x (fun r => { r with state := n, draftN := 0 }) = b from eq, b.mirror_off off, Eng.reap_bare stopped, first]
  exact if_neg (fun h => Bool.false_ne_true (gone.symm.trans h))

/-- What the end of such a sibling changes. -/
structure Eng.Ends (e : Eng) (x status : Nat) (v : LRec) (z : Eng) : Prop where
  rc : ∀ y, z.rc y = if y = x then some (v.stopped (if status = 0x19 then 10 else 9)) else e.rc y
  led : z.led = { e.led with recs := z.led.recs, hot := hotFirst e.led.hot x }
  dom : ∀ k, k ≠ 1 + x % 4 → z.dom k = e.dom k
  only : e.Only [1, 2, 3, 15] [] z
  behind : z.hat.behind = e.hat.behind
  record : e.cqTakes (e.cqOf v.ring) = true → (e.ring (e.cqOf v.ring)).ovf = [] →
    .completion (e.cqOf v.ring) (e.ring (e.cqOf v.ring)).tail (e.ringPhase (e.cqOf v.ring) (e.ring (e.cqOf v.ring)).tail) (v.finalRec status e.now) ∈ z.out

theorem Eng.endSib_ends {e : Eng} {x status : Nat} {v : LRec} (bare : e.Bare x v) (live_ : v.live = true) (off : e.mirrorOn = false) (held : e.hat.heldRecs = []) :
    e.Ends x status v (e.endSib x status) := by
  obtain ⟨recs, pd, gat, stop, rc, dom⟩ := Eng.stopSib_bare bare off (n := if status = 0x19 then 10 else 9) (by split <;> simp)
  have eq : e.endSib x status = (e.stopSib x (if status = 0x19 then 10 else 9)).report (v.finalRec status e.now) := by
    unfold Eng.endSib
    rw [bare.rc]
    dsimp only
    rw [live_]
    rfl
  have only : e.Only [2, 3, 15] [] (e.stopSib x (if status = 0x19 then 10 else 9)) := by
    rw [stop]
    exact ((Eng.Only.setLed e _ (by decide)).trans (.setPd _ pd (by decide))).trans (.setGat _ gat (by decide))
  have hat : (e.stopSib x (if status = 0x19 then 10 else 9)).hat = e.hat := by rw [stop]
  rw [eq, Eng.report_complete _ _ (by rw [stop]; exact off) (by rw [hat]; exact held)]
  generalize e.stopSib x (if status = 0x19 then 10 else 9) = b at stop only hat
  have done := Eng.Only.complete (us := [1]) (offs := []) b (v.finalRec status e.now) (by decide)
  have led : (b.complete (v.finalRec status e.now)).led = b.led := done.parts 2 (by decide)
  refine ⟨fun y => ?_, ?_, fun k other => ?_, (only.weaken (by decide) (by decide)).trans (done.weaken (by decide) (by decide)), ?_, fun takes none_ => ?_⟩
  · rw [Eng.rc, led, stop]
    exact rc y
  · rw [led, stop]
  · refine (congrArg (fun p => tgetD p k { st := 0 }) (show (b.complete (v.finalRec status e.now)).pd = b.pd from done.parts 15 (by decide))).trans ?_
    rw [stop]
    exact dom k other
  · rw [b.complete_rest]
    change b.hat.behind = e.hat.behind
    rw [hat]
  · have same : b.regs = e.regs := by rw [stop]
    have cq : b.cqOf v.ring = e.cqOf v.ring := Eng.fv_congr same _ _
    have ring : b.ring (e.cqOf v.ring) = e.ring (e.cqOf v.ring) := by rw [Eng.ring, hat]; rfl
    have answered := b.complete_answers (v.finalRec status e.now) (by
      change b.cqTakes (b.cqOf v.ring) = true
      rw [cq, ← takes, stop]
      rfl) (by change (b.ring (b.cqOf v.ring)).ovf = []; rw [cq, ring]; exact none_) (by rw [hat]; exact held)
    have out := answered.out
    change Out.completion (b.cqOf v.ring) (b.ring (b.cqOf v.ring)).tail (b.ringPhase (b.cqOf v.ring) (b.ring (b.cqOf v.ring)).tail) _ ∈ _ at out
    rw [cq, ring] at out
    have phase : b.ringPhase (e.cqOf v.ring) (e.ring (e.cqOf v.ring)).tail = e.ringPhase (e.cqOf v.ring) (e.ring (e.cqOf v.ring)).tail := by
      unfold Eng.ringPhase Eng.ringDepth
      rw [Eng.fv_congr same]
    rw [← phase]
    exact out

end Sys2Proof.Machine
end

section
/-!
Orders on a request of one sibling, and MODIFY of several (O26).
-/
namespace Sys2Proof.Machine

theorem Eng.Only.setLedPd {us offs : List Nat} (e : Eng) (led : Led) (pd : Tab Dom) (led_ : 2 ∈ us) (pd_ : 15 ∈ us) : e.Only us offs { e with led, pd } :=
  (Eng.Only.setLed e led led_).trans (.setPd { e with led } pd pd_)

/-- A request that is named is at its slot, with its RQID. -/
theorem Eng.named_is {e : Eng} {rqid gen x : Nat} {v : LRec} (named : e.named rqid gen = some x) (rc : e.rc x = some v) : rqSlot rqid = x ∧ v.rqid = rqid := by
  unfold Eng.named at named
  dsimp only at named
  split at named
  · cases named
  · split at named
    · cases named
    · cases found : e.rc (rqSlot rqid) with
      | none =>
        rw [found] at named
        cases named
      | some w =>
        rw [found] at named
        dsimp only at named
        split at named
        · next is =>
          have slot := Option.some.inj named
          rw [slot, rc] at found
          rw [Option.some.inj found]
          exact ⟨slot, is.2.1⟩
        · cases named

/-! ### One sibling changed -/

/-- What an order on the one sibling at `x` leaves of the engine's records. -/
structure Eng.Wrote (e : Eng) (x : Nat) (v : LRec) (pages : Nat) (z : Eng) : Prop where
  rc : ∀ y, z.rc y = if y = x then some v else e.rc y
  hot : x ∈ e.led.hot → z.led.hot = x :: e.led.hot.filter (fun y => decide (y ≠ x))
  led : z.led = { e.led with recs := z.led.recs, hot := z.led.hot, pagesReserved := pages }
  stw : z.stw = { e.stw with seen := some (e.seenNow.getD { tick := e.now, recs := e.led.recs, insts := e.cmp.insts }) }
  dom : ∀ k, k ≠ 1 + x % 4 → z.dom k = e.dom k

theorem Eng.Wrote.keep {e z w : Eng} {x pages : Nat} {v : LRec} (wrote : e.Wrote x v pages z) {us offs : List Nat} (only : z.Only us offs w) (led : 2 ∉ us) (stw : 5 ∉ us)
    (pd : 15 ∉ us) : e.Wrote x v pages w := by
  have sameLed : w.led = z.led := only.parts 2 led
  refine ⟨fun y => ?_, fun among => ?_, ?_, (show w.stw = z.stw from only.parts 5 stw).trans wrote.stw, fun k other => ?_⟩
  · rw [Eng.rc, sameLed]
    exact wrote.rc y
  · rw [sameLed]
    exact wrote.hot among
  · rw [sameLed]
    exact wrote.led
  · exact (show w.dom k = z.dom k by rw [Eng.dom, show w.pd = z.pd from only.parts 15 pd]; rfl).trans (wrote.dom k other)

theorem Eng.Wrote.ends {e z w : Eng} {x status pages : Nat} {v : LRec} (wrote : e.Wrote x v pages z) (ends : z.Ends x status v w) :
    e.Wrote x (v.stopped (if status = 0x19 then 10 else 9)) pages w := by
  refine ⟨fun y => ?_, fun among => ?_, ?_, (show w.stw = z.stw from ends.only.parts 5 (by decide)).trans wrote.stw, fun k other => (ends.dom k other).trans (wrote.dom k other)⟩
  · rw [ends.rc, wrote.rc]
    split <;> rfl
  · have hot : w.led.hot = hotFirst z.led.hot x := congrArg Led.hot ends.led
    rw [hot, wrote.hot among, ← hotFirst_among among, hotFirst_twice]
  · have led := ends.led
    rw [wrote.led] at led
    rw [led]

/-- The record of the one sibling that has been used and changed. -/
theorem Eng.Looked.wrote {e f : Eng} {x r : Nat} {q v : LRec} (looked : e.Looked x r f) (rc : e.rc x = some q) (last : q.nextSib = 0xFFFFFF)
    {recs : List (Nat × LRec)} {hot : List Nat} {pages : Nat} {pd : List (Nat × Dom)} {z : Eng}
    (eq : z.led = { f.led with hot, recs, pagesReserved := pages } ∧ z.pd = pd ∧ z.stw = f.stw)
    (set : ∀ y, tget recs y = if y = x then some v else f.rc y) (first : x ∈ f.led.hot → hot = hotFirst f.led.hot x)
    (beside : ∀ k, k ≠ 1 + x % 4 → tgetD pd k { st := 0 } = f.dom k) : e.Wrote x v pages z := by
  obtain ⟨led, pd', stw⟩ := eq
  have sibs := e.sibs_alone rc last
  have before : f.led.hot = hotFirst e.led.hot x := by
    rw [looked.led, sibs]
    rfl
  refine ⟨fun y => ?_, fun among => ?_, ?_, stw.trans looked.stw, fun k other => ?_⟩
  · rw [Eng.rc, led, ← Eng.rc_congr looked.recs]
    exact set y
  · rw [led]
    refine (first ?_).trans ?_
    · rw [before, hotFirst_among among]
      exact List.mem_cons_self
    · rw [before, hotFirst_twice, hotFirst_among among]
  · rw [led, looked.led]
  · refine (congrArg (fun p => tgetD p k { st := 0 }) pd').trans ((beside k other).trans (looked.dom k (fun y among => ?_)))
    rw [sibs, List.mem_singleton] at among
    rw [among]
    exact other

theorem Eng.Looked.pages {e f : Eng} {x r : Nat} (looked : e.Looked x r f) : f.led.pagesReserved = e.led.pagesReserved := by
  rw [looked.led]

/-- The record that a listed order answers with. -/
abbrev answerOf (s : State) (d : DescBits) (r : Nat) : Out :=
  .completion (s.eng.cqOf r) (s.eng.ring (s.eng.cqOf r)).tail (s.eng.ringPhase (s.eng.cqOf r) (s.eng.ring (s.eng.cqOf r)).tail)
    (ordRec 0 r (ordOf d).gen (ordOf d).rqid (ordOf d).userTag s.eng.now)

/-- What the engine `a` shows of an order that it has answered. -/
structure Wrotes (s : State) (d : DescBits) (r x : Nat) (v : LRec) (pages : Nat) (us : List Nat) (a : Eng) : Prop where
  wrote : s.eng.Wrote x v pages a
  now : a.now = s.eng.now
  out : answerOf s d r ∈ a.out
  only : s.eng.Only us [] a
  ring : a.ring (s.eng.cqOf r) = { s.eng.ring (s.eng.cqOf r) with tail := ((s.eng.ring (s.eng.cqOf r)).tail + 1) % 2 ^ 32 }
  held : a.hat.heldRecs = []
  behind : a.hat.behind = []

section Order
variable {s : State} {d : DescBits} {r stamp : Nat} {e1 : Eng} (hyp : Fetches s d r stamp e1)
include hyp

/-- An order on the one sibling of a request. -/
theorem order_of_one {op x : Nat} {q v : LRec} {c : Instr} (code : recField d 0 7 0 = op) (plain : op ≠ 1) (runs : exec c s = live s (fun e => e.ordFetched op d))
    (named : s.eng.named (ordOf d).rqid (ordOf d).gen = some x) (rc : s.eng.rc x = some q) (last : q.nextSib = 0xFFFFFF) (lists : ordListed op q.state = true)
    (live_ : q.live = true) {pages : Nat} {us : List Nat} (tally : 0 ∉ us) (links : 13 ∉ us)
    (accepts : ∀ f : Eng, s.eng.Looked x r f → f.ordTargets op x = [x] → f.allEnded x = false → f.named (ordOf d).rqid (ordOf d).gen = some x → f.mirrorOn = false → f.rc x = some q →
      f.ordStatus (ringOrder d op r stamp e1.hat.orderSeq) = 0 ∧ s.eng.Wrote x v pages (f.ordChange (ringOrder d op r stamp e1.hat.orderSeq) x) ∧
        f.Only us [] (f.ordChange (ringOrder d op r stamp e1.hat.orderSeq) x) ∧ (f.ordChange (ringOrder d op r stamp e1.hat.orderSeq) x).hat = f.hat) :
    ∃ f a, s.eng.Looked x r f ∧ f.rc x = some q ∧ f.ordTargets op x = [x] ∧ f.mirrorOn = false ∧ (f.ordChange (ringOrder d op r stamp e1.hat.orderSeq) x).Only [1, 17] [] a ∧ Wrotes s d r x v pages ([1, 2, 5, 15, 17] ++ us) a ∧
      ((a.ordFollow (ringOrder d op r stamp e1.hat.orderSeq) x [x]).hat.behind = [] →
        exec c s = .next (s.withEng (a.ordFollow (ringOrder d op r stamp e1.hat.orderSeq) x [x]))) := by
  obtain ⟨f, looked, next⟩ := order_answered hyp code plain runs named
  have recs := looked.recs
  have rcF : f.rc x = some q := (Eng.rc_congr recs x).trans rc
  have sibs := f.sibs_alone rcF last
  have targets : f.ordTargets op x = [x] := by
    unfold Eng.ordTargets
    rw [sibs]
    refine List.filter_eq_self.mpr (fun y among => ?_)
    rw [List.mem_singleton.mp among, rcF]
    exact lists
  have ended : f.allEnded x = false := by
    unfold Eng.allEnded
    rw [sibs, List.all_cons, rcF]
    dsimp only
    rw [live_]
    rfl
  have off : f.mirrorOn = false := (looked.only.mirrorOn (congrArg Raf.mapLoaded (looked.only.parts 13 (by decide)))).trans hyp.off
  obtain ⟨status, wrote, changed, hat⟩ := accepts f looked targets ended ((Eng.named_congr recs _ _).trans named) off rcF
  have only : s.eng.Only ([1, 2, 5, 15] ++ us) [] (f.ordChange (ringOrder d op r stamp e1.hat.orderSeq) x) :=
    (looked.only.weaken (fun _ h => List.mem_append_left _ h) (by decide)).trans (changed.weaken (fun _ h => List.mem_append_right _ h) (by decide))
  have tally' : 0 ∉ [1, 2, 5, 15] ++ us := by rw [List.mem_append, not_or]; exact ⟨by decide, tally⟩
  obtain ⟨a, aOnly, out, ring, held, behind, ran⟩ := next status _ tally'
    (by rw [List.mem_append, not_or]; exact ⟨by decide, links⟩) only hat
  rw [targets] at ran
  refine ⟨f, a, looked, rcF, targets, off, aOnly, ⟨wrote.keep aOnly (by decide) (by decide) (by decide), (aOnly.parts 0 (by decide)).trans (only.parts 0 tally'), out, ?_, ring, held, behind⟩, ran⟩
  refine (only.weaken ?_ (by decide)).trans (aOnly.weaken ?_ (by decide)) <;> (intro u; simp; tauto)

end Order

/-! ### Each order on one sibling -/

/-- An order that is accepted where it lists the one sibling. -/
theorem status_of_one {d : DescBits} {r stamp seq op x : Nat} {f : Eng} (targets : f.ordTargets op x = [x]) (ended : f.allEnded x = false)
    (named : f.named (ordOf d).rqid (ordOf d).gen = some x) (plain : op = 4 → (ordOf d).setMaxNew = false) :
    f.ordStatus (ringOrder d op r stamp seq) = 0 :=
  Eng.ordStatus_plain named ended (by change f.ordTargets op x ≠ []; rw [targets]; exact List.cons_ne_nil _ _)
    (fun h => Bool.false_ne_true ((plain h.1).symm.trans ((ringOrder_setsMaxNew d op r stamp seq).mp h.2)))

theorem Eng.ordChange_admit {f : Eng} {o : Order} {x : Nat} {q : LRec} (op : o.opcode = 2) (targets : f.ordTargets 2 x = [x]) (rc : f.rc x = some q)
    (off : f.mirrorOn = false) : f.ordChange o x = (f.recUse x).modRc x (fun r => { r with state := 1 }) := by
  unfold Eng.ordChange
  rw [op, targets, List.foldl_cons, List.foldl_nil, rc]
  dsimp only
  rw [if_pos rfl]
  exact Eng.mirror_off _ (by rw [show (f.recUse x).modRc x _ = _ from f.recUse_modRc x _]; exact off) x

theorem Eng.ordChange_cancel {f : Eng} {o : Order} {x : Nat} {q : LRec} (op : o.opcode = 6) (targets : f.ordTargets 6 x = [x]) (rc : f.rc x = some q) :
    f.ordChange o x = f.recUse x := by
  unfold Eng.ordChange
  rw [op, targets, List.foldl_cons, List.foldl_nil, rc]
  rfl

theorem Eng.ordChange_resume {f : Eng} {o : Order} {x : Nat} {q : LRec} (op : o.opcode = 3) (targets : f.ordTargets 3 x = [x]) (rc : f.rc x = some q)
    (off : f.mirrorOn = false) : f.ordChange o x =
      ((((f.recUse x).modRc x (fun r => { r with state := q.prior })).touch x).recall x).modInst q.inst (fun i => { i with quiet := false }) := by
  unfold Eng.ordChange
  rw [op, targets, List.foldl_cons, List.foldl_nil, rc]
  dsimp only
  rw [if_neg (by decide), if_pos rfl]
  refine congrArg (fun e : Eng => ((e.touch x).recall x).modInst q.inst (fun i => { i with quiet := false })) ?_
  exact Eng.mirror_off _ (by rw [show (f.recUse x).modRc x _ = _ from f.recUse_modRc x _]; exact off) x

/-- A record that is used is the most recently used of the hot ones. -/
theorem Eng.recUse_hot (e : Eng) (x : Nat) : ∃ pd, e.recUse x = { e with led := { e.led with hot := hotFirst e.led.hot x }, pd } ∧
    ∀ k, k ≠ 1 + x % 4 → tgetD pd k { st := 0 } = e.dom k :=
  ⟨(e.recUse x).pd, by rw [Eng.recUse_eq], fun _ other => e.recUse_beside other⟩

/-- A record that is touched is among the hot ones, the most recently used of those that were. -/
theorem Eng.touch_eq (e : Eng) (x : Nat) : ∃ hot pd dbg, e.touch x = { e with led := { e.led with hot }, pd, dbg } ∧
    (x ∈ e.led.hot → hot = hotFirst e.led.hot x) ∧ ∀ k, k ≠ 1 + x % 4 → tgetD pd k { st := 0 } = e.dom k := by
  obtain ⟨pd, used, beside⟩ := e.recUse_hot x
  have kept : x ∈ e.led.hot → (hotFirst e.led.hot x).contains x = true := fun among => by
    rw [hotFirst_among among, List.contains_cons, beq_self_eq_true, Bool.true_or]
  unfold Eng.touch
  rw [used]
  dsimp only
  split
  · exact ⟨_, pd, e.dbg, rfl, fun _ => rfl, beside⟩
  · next out =>
    split
    · exact ⟨_, pd, { e.dbg with worked := sinsert e.dbg.worked 2 }, rfl, fun among => absurd (kept among) out, beside⟩
    · exact ⟨_, pd, e.dbg, rfl, fun _ => rfl, beside⟩

section Order
variable {s : State} {d : DescBits} {r stamp : Nat} {e1 : Eng} (hyp : Fetches s d r stamp e1)
include hyp

/-- ADMIT makes a HELD request QUEUED and hands it to the Gate. -/
theorem admit_queues {x : Nat} {q : LRec} (code : recField d 0 7 0 = 2) (named : s.eng.named (ordOf d).rqid (ordOf d).gen = some x)
    (rc : s.eng.rc x = some q) (last : q.nextSib = 0xFFFFFF) (held : q.state = 2) :
    ∃ t, exec (.admitOrder d) s = .next t ∧ t.eng.gat = (s.eng.queueFresh e1.hat.orderSeq x).gat ∧ s.eng.Wrote x { q with state := 1 } s.eng.led.pagesReserved t.eng ∧
      t.eng.now = s.eng.now ∧ answerOf s d r ∈ t.eng.out ∧ s.Only [1, 2, 3, 5, 15, 17] [] t := by
  obtain ⟨f, a, looked, rcF, targets, off, aOnly, wrotes, ran⟩ := order_of_one hyp (v := { q with state := 1 }) (pages := s.eng.led.pagesReserved) (us := [2, 15]) (c := .admitOrder d) code (by decide) rfl named rc last (by rw [held]; rfl)
    (by rw [LRec.live, held]; rfl) (by decide) (by decide) (fun f looked targets ended named off rcF => by
      refine ⟨status_of_one targets ended named (fun h => absurd h (by decide)), ?_⟩
      rw [Eng.ordChange_admit rfl targets rcF off, f.recUse_modRc]
      refine ⟨looked.wrote rc last (pages := s.eng.led.pagesReserved) ⟨by rw [← looked.pages], rfl, rfl⟩ (fun y => (tget_tmod _ _ _ _).trans (by rw [show tget f.led.recs x = some q from rcF]; rfl)) (fun _ => rfl)
        (fun k other => f.recUse_beside other), ?_, rfl⟩
      exact Eng.Only.setLedPd f _ (f.recUse x).pd (by decide) (by decide))
  have follow : a.ordFollow (ringOrder d 2 r stamp e1.hat.orderSeq) x [x] = a.queueFresh e1.hat.orderSeq x := rfl
  rw [follow] at ran
  have gat : a.gat = s.eng.gat := wrotes.only.parts 3 (by decide)
  have only : a.Only [3] [] (a.queueFresh e1.hat.orderSeq x) := .setGat a _ (by decide)
  refine ⟨_, ran wrotes.behind, ?_, wrotes.wrote.keep only (by decide) (by decide) (by decide), wrotes.now, wrotes.out,
    .withEng ((wrotes.only.weaken (by decide) (by decide)).trans (only.weaken (by decide) (by decide)))⟩
  · change (a.queueFresh e1.hat.orderSeq x).gat = _
    unfold Eng.queueFresh
    rw [gat]

/-- RESUME gives a PAUSED sibling the state that it had. -/
theorem resume_returns {x : Nat} {q : LRec} (code : recField d 0 7 0 = 3) (named : s.eng.named (ordOf d).rqid (ordOf d).gen = some x)
    (rc : s.eng.rc x = some q) (last : q.nextSib = 0xFFFFFF) (paused : q.state = 7) (away : s.eng.away x = 0) :
    ∃ t, exec (.resume d) s = .next t ∧ (∀ i, t.eng.inst i = if i = q.inst then { s.eng.inst i with quiet := false } else s.eng.inst i) ∧
      s.eng.Wrote x { q with state := q.prior } s.eng.led.pagesReserved t.eng ∧ t.eng.now = s.eng.now ∧ answerOf s d r ∈ t.eng.out ∧
      s.Only [1, 2, 4, 5, 15, 17] [] t := by
  have changes : ∀ f : Eng, s.eng.Looked x r f → f.ordTargets 3 x = [x] → f.mirrorOn = false → f.rc x = some q →
      ∃ hot recs pd dbg, f.ordChange (ringOrder d 3 r stamp e1.hat.orderSeq) x =
        ({ f with led := { f.led with hot, recs }, pd, dbg } : Eng).modInst q.inst (fun i => { i with quiet := false }) ∧
        (∀ y, tget recs y = if y = x then some { q with state := q.prior } else f.rc y) ∧ (x ∈ f.led.hot → hot = hotFirst f.led.hot x) ∧
        ∀ k, k ≠ 1 + x % 4 → tgetD pd k { st := 0 } = f.dom k := fun f looked targets off rcF => by
    have near : f.away x = 0 := by
      obtain ⟨hat, pd, eq⟩ := looked.eq
      rw [← away, eq]
      rfl
    have used := f.recUse_modRc x (fun r => { r with state := q.prior })
    rw [Eng.ordChange_resume rfl targets rcF off]
    generalize (f.recUse x).modRc x _ = b at used
    obtain ⟨hot, pd, dbg, touched, first, beside⟩ := b.touch_eq x
    have still : (b.touch x).recall x = b.touch x := if_pos (by
      rw [← near, touched, used]
      rfl)
    refine ⟨hot, b.led.recs, pd, dbg, ?_, fun y => ?_, fun among => ?_, fun k other => ?_⟩
    · rw [still, touched, used]
    · rw [used]
      exact (tget_tmod _ _ _ _).trans (by rw [show tget f.led.recs x = some q from rcF]; rfl)
    · rw [used] at first
      rw [first (by change x ∈ hotFirst f.led.hot x; rw [hotFirst_among among]; exact List.mem_cons_self)]
      exact hotFirst_twice _ _
    · refine (beside k other).trans ?_
      rw [used]
      exact f.recUse_beside other
  obtain ⟨f, a, looked, rcF, targets, off, aOnly, wrotes, ran⟩ := order_of_one hyp (v := { q with state := q.prior }) (pages := s.eng.led.pagesReserved) (us := [2, 4, 15, 17]) (c := .resume d) code
    (by decide) rfl named rc last (by rw [paused]; rfl)
    (by rw [LRec.live, paused]; rfl) (by decide) (by decide) (fun f looked targets ended named off rcF => by
      refine ⟨status_of_one targets ended named (fun h => absurd h (by decide)), ?_⟩
      obtain ⟨hot, recs, pd, dbg, eq, set, first, beside⟩ := changes f looked targets off rcF
      rw [eq]
      refine ⟨looked.wrote (recs := recs) (hot := hot) (pd := pd) rc last ⟨by rw [← looked.pages]; rfl, rfl, rfl⟩ set first beside, ?_, rfl⟩
      exact (((Eng.Only.setLed f _ (by decide)).trans (.setPd _ pd (by decide))).trans (.setDbg _ dbg (by decide))).trans (.setCmp _ _ (by decide)))
  have follow : a.ordFollow (ringOrder d 3 r stamp e1.hat.orderSeq) x [x] = a := rfl
  rw [follow] at ran
  refine ⟨_, ran wrotes.behind, fun i => ?_, wrotes.wrote, wrotes.now, wrotes.out, .withEng (wrotes.only.weaken (by decide) (by decide))⟩
  obtain ⟨hot, recs, pd, dbg, eq, -⟩ := changes f looked targets off rcF
  have cmp : a.cmp = (f.ordChange (ringOrder d 3 r stamp e1.hat.orderSeq) x).cmp := aOnly.parts 4 (by decide)
  have same : f.cmp = s.eng.cmp := looked.only.parts 4 (by decide)
  change tgetD a.cmp.insts i {} = _
  rw [cmp, eq]
  refine (Eng.inst_modInst _ _ _ _).trans ?_
  change (if i = q.inst then { tgetD f.cmp.insts q.inst {} with quiet := false } else tgetD f.cmp.insts i {}) = _
  rw [same]
  by_cases here : i = q.inst
  · rw [if_pos here, if_pos here, here]
    rfl
  · rw [if_neg here, if_neg here]
    rfl

/-! ### MODIFY of any number of siblings -/

omit hyp in
/-- The pages that suffice before the order is found suffice where it takes effect. -/
theorem Eng.Looked.suffice {f : Eng} {x : Nat} (looked : s.eng.Looked x r f) (o : OrdDesc)
    (suffice : s.eng.total o (s.eng.listed x 1 8) (fun v => tokenPages o.maxNew - v.pages.length - v.pagesResv) ≤
      s.eng.pagesFree + s.eng.total o (s.eng.listed x 1 8) (fun v => v.pagesResv - (tokenPages o.maxNew - v.pages.length))) :
    f.total o (f.listed x 1 8) (fun v => tokenPages o.maxNew - v.pages.length - v.pagesResv) ≤
      f.pagesFree + f.total o (f.listed x 1 8) (fun v => v.pagesResv - (tokenPages o.maxNew - v.pages.length)) := by
  have rc : ∀ y, f.rc y = s.eng.rc y := Eng.rc_congr looked.recs
  have free : f.pagesFree = s.eng.pagesFree := by
    obtain ⟨hat, pd, eq⟩ := looked.eq
    rw [eq]
    rfl
  rw [Eng.listed_congr looked.recs, Eng.total_congr _ _ (fun y _ => rc y), Eng.total_congr _ _ (fun y _ => rc y), free]
  exact suffice

omit hyp in
/-- No end follows a MODIFY that leaves every sibling more tokens to come. -/
theorem Eng.ordFollow_still {a : Eng} {o : Order} {x : Nat} (l : List Nat) (op : o.opcode = 4)
    (more : o.flags / 2 % 2 = 1 → ∀ y ∈ l, ∀ v, a.rc y = some v → v.newCount < v.maxNew) : a.ordFollow o x l = a := by
  unfold Eng.ordFollow
  rw [op, if_neg (by decide)]
  split
  · next sets =>
    replace more := more sets.2
    induction l with
    | nil => rfl
    | cons y l ih =>
      rw [List.foldl_cons]
      refine Eq.trans (congrArg (fun z => List.foldl _ z l) ?_) (ih (fun w among => more w (List.mem_cons_of_mem _ among)))
      cases rc : a.rc y with
      | none => rfl
      | some v => exact if_neg (fun h => absurd h.1 (Nat.not_le.mpr (more y List.mem_cons_self v rc)))
  · exact if_neg (by decide)

/-- MODIFY sets the deadline, the largest number of tokens, or both, of every sibling listed. -/
theorem modify_sets {x : Nat} (code : recField d 0 7 0 = 4) (named : s.eng.named (ordOf d).rqid (ordOf d).gen = some x)
    (nodup : (s.eng.sibs x).Nodup) (some_ : s.eng.listed x 1 8 ≠ [])
    (suffice : s.eng.total (ordOf d) (s.eng.listed x 1 8) (fun v => tokenPages (ordOf d).maxNew - v.pages.length - v.pagesResv) ≤
      s.eng.pagesFree + s.eng.total (ordOf d) (s.eng.listed x 1 8) (fun v => v.pagesResv - (tokenPages (ordOf d).maxNew - v.pages.length)))
    (more : (ordOf d).setMaxNew = true → ∀ v ∈ (s.eng.listed x 1 8).filterMap s.eng.rc, v.newCount < (ordOf d).maxNew) :
    ∃ t, exec (.modify d) s = .next t ∧
      (∀ y, t.eng.rc y = (s.eng.rc y).map (fun v => if y ∈ s.eng.listed x 1 8 then v.modified (ordOf d) else v)) ∧ answerOf s d r ∈ t.eng.out ∧
      (s.eng.total (ordOf d) (s.eng.listed x 1 8) LRec.pagesResv ≤ s.eng.led.pagesReserved →
        t.eng.led.pagesReserved + s.eng.total (ordOf d) (s.eng.listed x 1 8) LRec.pagesResv =
          s.eng.led.pagesReserved + s.eng.total (ordOf d) (s.eng.listed x 1 8) (fun v => tokenPages (ordOf d).maxNew - v.pages.length)) ∧
      t.eng.led = { s.eng.led with recs := t.eng.led.recs, hot := t.eng.led.hot, pagesReserved := t.eng.led.pagesReserved } ∧
      s.Only [1, 2, 5, 15, 17] [] t := by
  obtain ⟨f, looked, next⟩ := order_answered hyp (c := .modify d) code (by decide) rfl named
  have recs := looked.recs
  have rc : ∀ y, f.rc y = s.eng.rc y := Eng.rc_congr recs
  have listed := Eng.listed_congr recs x 1 8
  have targets : f.ordTargets 4 x = s.eng.listed x 1 8 := (f.ordTargets_listed (fun _ => rfl) x).trans listed
  have status := Eng.ordStatus_modify (r := r) (stamp := stamp) (seq := e1.hat.orderSeq) ((Eng.named_congr recs _ _).trans named) (by rw [listed]; exact some_)
    (looked.suffice _ suffice)
  obtain ⟨recs', pages, pd, eq, set, reserved, beside⟩ := foldl_modifyOne d 4 r stamp e1.hat.orderSeq (s.eng.listed x 1 8) (nodup.filter _) f (fun y among => by
    obtain ⟨-, v, at_, -⟩ := Eng.mem_listed among
    rw [rc, at_]
    rfl) ((looked.only.mirrorOn (congrArg Raf.mapLoaded (looked.only.parts 13 (by decide)))).trans hyp.off)
  rw [← targets, ← Eng.ordChange_modify f (o := ringOrder d 4 r stamp e1.hat.orderSeq) rfl x, targets] at eq
  rw [Eng.total_congr _ _ (fun y _ => rc y), Eng.total_congr _ _ (fun y _ => rc y), looked.pages] at reserved
  have only : s.eng.Only [1, 2, 5, 15] [] (f.ordChange (ringOrder d 4 r stamp e1.hat.orderSeq) x) := by
    refine (looked.only.weaken (by decide) (by decide)).trans ?_
    rw [eq]
    exact .setLedPd f _ pd (by decide) (by decide)
  obtain ⟨a, aOnly, out, -, -, behind, ran⟩ := next status _ (by decide) (by decide) only (by rw [eq])
  generalize f.ordChange (ringOrder d 4 r stamp e1.hat.orderSeq) x = c at eq only aOnly
  have led : a.led = c.led := aOnly.parts 2 (by decide)
  have set' : ∀ y, a.rc y = (s.eng.rc y).map (fun v => if y ∈ s.eng.listed x 1 8 then v.modified (ordOf d) else v) := fun y => by
    rw [Eng.rc, led, eq, ← rc]
    exact set y
  have still : a.ordFollow (ringOrder d 4 r stamp e1.hat.orderSeq) x (f.ordTargets 4 x) = a := by
    rw [targets]
    refine Eng.ordFollow_still _ rfl (fun sets y among v at_ => ?_)
    have on := (ringOrder_setsMaxNew d 4 r stamp _).mp sets
    obtain ⟨-, w, was, -⟩ := Eng.mem_listed among
    rw [set', was, Option.map_some, if_pos among] at at_
    rw [← Option.some.inj at_]
    change w.newCount < if (ordOf d).setMaxNew = true then (ordOf d).maxNew else w.maxNew
    rw [if_pos on]
    exact more on w (List.mem_filterMap.mpr ⟨y, among, was⟩)
  rw [still] at ran
  refine ⟨_, ran behind, set', out, fun enough => ?_, ?_, .withEng ((only.weaken (by decide) (by decide)).trans (aOnly.weaken (by decide) (by decide)))⟩
  · change a.led.pagesReserved + _ = _
    rw [led, eq]
    exact reserved enough
  · change a.led = { s.eng.led with recs := a.led.recs, hot := a.led.hot, pagesReserved := a.led.pagesReserved }
    rw [led, eq, looked.led]

/-! ### MODIFY of one sibling, and the ends -/

omit hyp in
theorem Eng.ordChange_one_modify {f : Eng} {x seq : Nat} {q : LRec} (looked : s.eng.Looked x r f) (rc : s.eng.rc x = some q) (last : q.nextSib = 0xFFFFFF)
    (targets : f.ordTargets 4 x = [x]) (off : f.mirrorOn = false) :
    ∃ pages, s.eng.Wrote x (q.modified (ordOf d)) pages (f.ordChange (ringOrder d 4 r stamp seq) x) ∧
      (pages = if (ordOf d).setMaxNew then s.eng.led.pagesReserved + (q.modified (ordOf d)).pagesResv - q.pagesResv else s.eng.led.pagesReserved) ∧
      f.Only [2, 15] [] (f.ordChange (ringOrder d 4 r stamp seq) x) ∧ (f.ordChange (ringOrder d 4 r stamp seq) x).hat = f.hat := by
  have rcF : f.rc x = some q := (Eng.rc_congr looked.recs x).trans rc
  obtain ⟨recs, pages, pd, eq, set, reserved, beside⟩ := f.modifyOne_eq d 4 r stamp seq rcF off
  rw [looked.pages] at reserved
  rw [Eng.ordChange_modify f (o := ringOrder d 4 r stamp seq) rfl x, targets, List.foldl_cons, List.foldl_nil, eq]
  exact ⟨pages, looked.wrote rc last ⟨rfl, rfl, rfl⟩ set (fun _ => rfl) beside, reserved,
    Eng.Only.setLedPd f _ pd (by decide) (by decide), rfl⟩

/-- MODIFY sets the deadline of one sibling. -/
theorem modify_sets_deadline {x : Nat} {q : LRec} (code : recField d 0 7 0 = 4) (named : s.eng.named (ordOf d).rqid (ordOf d).gen = some x)
    (rc : s.eng.rc x = some q) (last : q.nextSib = 0xFFFFFF) (sets : (ordOf d).setDeadline = true) (keeps : (ordOf d).setMaxNew = false) (live_ : q.live = true) :
    ∃ t, exec (.modify d) s = .next t ∧ s.eng.Wrote x { q with deadlineLast := (ordOf d).deadlineLast } s.eng.led.pagesReserved t.eng ∧ t.eng.now = s.eng.now ∧
      answerOf s d r ∈ t.eng.out ∧ s.Only [1, 2, 5, 15, 17] [] t := by
  have modified : q.modified (ordOf d) = { q with deadlineLast := (ordOf d).deadlineLast } := by
    unfold LRec.modified
    rw [sets, keeps]
    rfl
  obtain ⟨f, a, -, -, -, -, -, wrotes, ran⟩ := order_of_one hyp (v := q.modified (ordOf d)) (pages := s.eng.led.pagesReserved) (us := [2, 15]) (c := .modify d) code
    (by decide) rfl named rc last live_ live_ (by decide) (by decide) (fun f looked targets ended named off rcF => by
      obtain ⟨pages, wrote, reserved, only, hat⟩ := Eng.ordChange_one_modify (d := d) (stamp := stamp) (seq := e1.hat.orderSeq) looked rc last targets off
      rw [keeps] at reserved
      rw [show pages = s.eng.led.pagesReserved from reserved] at wrote
      exact ⟨status_of_one targets ended named (fun _ => keeps), wrote, only, hat⟩)
  have still : a.ordFollow (ringOrder d 4 r stamp e1.hat.orderSeq) x [x] = a := Eng.ordFollow_still _ rfl (fun on =>
    absurd ((ringOrder_setsMaxNew d 4 r stamp _).mp on) (by rw [keeps]; exact Bool.false_ne_true))
  rw [still] at ran
  rw [modified] at wrotes
  exact ⟨_, ran wrotes.behind, wrotes.wrote, wrotes.now, wrotes.out, .withEng (wrotes.only.weaken (by decide) (by decide))⟩

/-- The second record of the tick has room where the ring had room for two. -/
theorem Wrotes.second {a : Eng} {x pages : Nat} {v : LRec} {us : List Nat} (wrotes : Wrotes s d r x v pages us a)
    (room : s.eng.ringFill (s.eng.cqOf r) + 1 < s.eng.ringDepth (s.eng.cqOf r)) (tail : (s.eng.ring (s.eng.cqOf r)).tail < 2 ^ 32)
    (head : (s.eng.ring (s.eng.cqOf r)).head < 2 ^ 32) :
    a.cqOf r = s.eng.cqOf r ∧ a.cqTakes (s.eng.cqOf r) = true ∧ (a.ring (s.eng.cqOf r)).ovf = [] ∧ ∀ n, a.ringPhase (s.eng.cqOf r) n = s.eng.ringPhase (s.eng.cqOf r) n := by
  have only := wrotes.only
  have low : s.eng.cqOf r < 256 := s.eng.fv_lt F.HAT_RING_CFG_CQ r
  have cq : a.cqOf r = s.eng.cqOf r :=
    congrArg (fun w : Word => bitsOf w.toNat 23 16) (only.regs 0x1054 r (by have := hyp.low; omega) List.not_mem_nil (by decide) (fun stall => absurd stall (by decide)))
  have depthLe := s.eng.ringDepth_le (s.eng.cqOf r)
  have takes : s.eng.cqTakes (s.eng.cqOf r) = true := by
    have full := hyp.room
    rw [Eng.cmpFull_eq] at full
    exact (Bool.not_eq_false' _).mp full
  have ring := wrotes.ring
  have none_ := hyp.none_
  generalize s.eng.cqOf r = c at *
  have reg : a.reg 0x1054 c = s.eng.reg 0x1054 c := only.regs _ _ (by omega) List.not_mem_nil (by decide) (fun stall => absurd stall (by decide))
  have depth : a.ringDepth c = s.eng.ringDepth c := congrArg (fun w : Word => 2 ^ (bitsOf w.toNat 7 4 + 4)) reg
  have en : a.ringEn c = s.eng.ringEn c := congrArg (fun w : Word => decide (bitsOf w.toNat 3 3 = 1)) reg
  have kind : a.ringKind c = s.eng.ringKind c := congrArg (fun w : Word => bitsOf w.toNat 1 0) reg
  have fill : a.ringFill c = s.eng.ringFill c + 1 := by
    unfold Eng.ringFill at room ⊢
    rw [ring]
    dsimp only
    unfold two32 at room ⊢
    omega
  refine ⟨cq, ?_, by rw [ring]; exact none_, fun n => by rw [Eng.ringPhase, depth]; rfl⟩
  obtain ⟨open_, holds⟩ := Bool.and_eq_true_iff.mp takes
  unfold Eng.cqTakes
  rw [only.fb (by decide) (by decide) (by decide), en, kind, fill, depth, open_, Bool.true_and, decide_eq_true_eq]
  exact ⟨(of_decide_eq_true holds).1, room⟩

/-- The end of the one sibling that follows an order, with its FINAL record beside the order's. -/
theorem Wrotes.ended {a : Eng} {x pages status : Nat} {v : LRec} (wrotes : Wrotes s d r x v pages [1, 2, 5, 15, 17, 2, 15] a)
    (slot : rqSlot v.rqid = x) (last : v.nextSib = 0xFFFFFF) (live_ : v.live = true)
    (slots : (s.eng.inst v.inst).openSlots = []) (draft : v.draftV = false) (map : s.eng.smap x = none) (ring : v.ring = r) :
    s.eng.Wrote x (v.stopped (if status = 0x19 then 10 else 9)) pages (a.endSib x status) ∧ (a.endSib x status).now = s.eng.now ∧
      answerOf s d r ∈ (a.endSib x status).out ∧ (a.endSib x status).hat.behind = [] ∧
      (s.eng.ringFill (s.eng.cqOf r) + 1 < s.eng.ringDepth (s.eng.cqOf r) → (s.eng.ring (s.eng.cqOf r)).tail < 2 ^ 32 → (s.eng.ring (s.eng.cqOf r)).head < 2 ^ 32 →
        .completion (s.eng.cqOf r) (((s.eng.ring (s.eng.cqOf r)).tail + 1) % 2 ^ 32) (s.eng.ringPhase (s.eng.cqOf r) (((s.eng.ring (s.eng.cqOf r)).tail + 1) % 2 ^ 32))
          (v.finalRec status s.eng.now) ∈ (a.endSib x status).out) ∧
      s.eng.Only [1, 2, 3, 5, 15, 17] [] (a.endSib x status) := by
  have cmp : a.cmp = s.eng.cmp := wrotes.only.parts 4 (by decide)
  have shv : a.shv = s.eng.shv := wrotes.only.parts 6 (by decide)
  have bare : a.Bare x v := ⟨(wrotes.wrote.rc x).trans (if_pos rfl), last, by rw [Eng.inst, cmp]; exact slots, draft, by rw [Eng.smap, shv]; exact map, slot⟩
  have ends := Eng.endSib_ends (status := status) bare live_ ((wrotes.only.mirrorOn (congrArg Raf.mapLoaded (wrotes.only.parts 13 (by decide)))).trans hyp.off) wrotes.held
  obtain ⟨more, grown⟩ := ends.only.out
  refine ⟨wrotes.wrote.ends ends, (ends.only.parts 0 (by decide)).trans wrotes.now, ?_, ends.behind.trans wrotes.behind, fun room tail head => ?_,
    (wrotes.only.weaken (by decide) (by decide)).trans (ends.only.weaken (by decide) (by decide))⟩
  · rw [grown]
    exact List.mem_append_right _ wrotes.out
  · obtain ⟨cq, takes, none_, phase⟩ := wrotes.second hyp room tail head
    have record := ends.record (by rw [ring, cq]; exact takes) (by rw [ring, cq]; exact none_)
    rw [ring, cq, wrotes.ring, phase, wrotes.now] at record
    exact record

/-- CANCEL ends a request. -/
theorem cancel_ends {x : Nat} {q : LRec} (code : recField d 0 7 0 = 6) (named : s.eng.named (ordOf d).rqid (ordOf d).gen = some x)
    (rc : s.eng.rc x = some q) (last : q.nextSib = 0xFFFFFF) (live_ : q.live = true) (slots : (s.eng.inst q.inst).openSlots = []) (draft : q.draftV = false)
    (map : s.eng.smap x = none) (ring : q.ring = r) :
    ∃ t, exec (.cancel d) s = .next t ∧ s.eng.Wrote x (q.stopped 10) s.eng.led.pagesReserved t.eng ∧ t.eng.now = s.eng.now ∧ answerOf s d r ∈ t.eng.out ∧
      (s.eng.ringFill (s.eng.cqOf r) + 1 < s.eng.ringDepth (s.eng.cqOf r) → (s.eng.ring (s.eng.cqOf r)).tail < 2 ^ 32 → (s.eng.ring (s.eng.cqOf r)).head < 2 ^ 32 →
        .completion (s.eng.cqOf r) (((s.eng.ring (s.eng.cqOf r)).tail + 1) % 2 ^ 32) (s.eng.ringPhase (s.eng.cqOf r) (((s.eng.ring (s.eng.cqOf r)).tail + 1) % 2 ^ 32))
          (q.finalRec 0x19 s.eng.now) ∈ t.eng.out) ∧ s.Only [1, 2, 3, 5, 15, 17] [] t := by
  obtain ⟨slot, rqid⟩ := Eng.named_is named rc
  obtain ⟨f, a, -, -, -, -, -, wrotes, ran⟩ := order_of_one hyp (v := q) (pages := s.eng.led.pagesReserved) (us := [2, 15]) (c := .cancel d) code
    (by decide) rfl named rc last live_ live_ (by decide) (by decide) (fun f looked targets ended named off rcF => by
      obtain ⟨pd, used, beside⟩ := f.recUse_hot x
      refine ⟨status_of_one targets ended named (fun h => absurd h (by decide)), ?_⟩
      rw [Eng.ordChange_cancel rfl targets rcF, used]
      refine ⟨looked.wrote rc last (pages := s.eng.led.pagesReserved) ⟨by rw [← looked.pages], rfl, rfl⟩ (fun y => ?_) (fun _ => rfl) beside,
        .setLedPd f _ pd (by decide) (by decide), rfl⟩
      split
      · next here => rw [here]; exact rcF
      · rfl)
  obtain ⟨wrote, now, out, behind, second, only⟩ := wrotes.ended hyp (status := 0x19) (by rw [rqid]; exact slot) last live_ slots draft map ring
  exact ⟨_, ran behind, wrote, now, out, second, .withEng only⟩

/-- MODIFY ends a request that has as many tokens already. -/
theorem modify_ends {x : Nat} {q : LRec} (code : recField d 0 7 0 = 4) (named : s.eng.named (ordOf d).rqid (ordOf d).gen = some x)
    (rc : s.eng.rc x = some q) (last : q.nextSib = 0xFFFFFF) (slots : (s.eng.inst q.inst).openSlots = []) (draft : q.draftV = false)
    (map : s.eng.smap x = none) (ring : q.ring = r) (sets : (ordOf d).setMaxNew = true) (enough : (ordOf d).maxNew ≤ q.newCount)
    (state : q.state = 5 ∨ q.state = 7 ∨ q.state = 8)
    (suffice : s.eng.total (ordOf d) (s.eng.listed x 1 8) (fun v => tokenPages (ordOf d).maxNew - v.pages.length - v.pagesResv) ≤
      s.eng.pagesFree + s.eng.total (ordOf d) (s.eng.listed x 1 8) (fun v => v.pagesResv - (tokenPages (ordOf d).maxNew - v.pages.length))) :
    ∃ t pages, exec (.modify d) s = .next t ∧ s.eng.Wrote x ((q.modified (ordOf d)).stopped 9) pages t.eng ∧
      (pages = if (ordOf d).setMaxNew then s.eng.led.pagesReserved + (q.modified (ordOf d)).pagesResv - q.pagesResv else s.eng.led.pagesReserved) ∧
      t.eng.now = s.eng.now ∧ answerOf s d r ∈ t.eng.out ∧
      (s.eng.ringFill (s.eng.cqOf r) + 1 < s.eng.ringDepth (s.eng.cqOf r) → (s.eng.ring (s.eng.cqOf r)).tail < 2 ^ 32 → (s.eng.ring (s.eng.cqOf r)).head < 2 ^ 32 →
        .completion (s.eng.cqOf r) (((s.eng.ring (s.eng.cqOf r)).tail + 1) % 2 ^ 32) (s.eng.ringPhase (s.eng.cqOf r) (((s.eng.ring (s.eng.cqOf r)).tail + 1) % 2 ^ 32))
          (q.finalRec 9 s.eng.now) ∈ t.eng.out) ∧ s.Only [1, 2, 3, 5, 15, 17] [] t := by
  obtain ⟨slot, rqid⟩ := Eng.named_is named rc
  have live_ : q.live = true := decide_eq_true (by omega)
  have pagesOf : ∃ pages, pages = if (ordOf d).setMaxNew then s.eng.led.pagesReserved + (q.modified (ordOf d)).pagesResv - q.pagesResv else s.eng.led.pagesReserved := ⟨_, rfl⟩
  obtain ⟨pages, reserved⟩ := pagesOf
  obtain ⟨f, a, -, -, -, -, -, wrotes, ran⟩ := order_of_one hyp (v := q.modified (ordOf d)) (pages := pages) (us := [2, 15]) (c := .modify d) code
    (by decide) rfl named rc last live_ live_ (by decide) (by decide) (fun f looked targets ended named off rcF => by
      obtain ⟨pages', wrote, same, only, hat⟩ := Eng.ordChange_one_modify (d := d) (stamp := stamp) (seq := e1.hat.orderSeq) looked rc last targets off
      rw [same, ← reserved] at wrote
      exact ⟨Eng.ordStatus_modify named (by rw [← f.ordTargets_listed (op := 4) (fun _ => rfl), targets]; exact List.cons_ne_nil _ _) (looked.suffice _ suffice),
        wrote, only, hat⟩)
  have follow : a.ordFollow (ringOrder d 4 r stamp e1.hat.orderSeq) x [x] = a.endSib x 9 := by
    have rcA : a.rc x = some (q.modified (ordOf d)) := (wrotes.wrote.rc x).trans (if_pos rfl)
    have still : a.inStep x = false := by
      unfold Eng.inStep
      have none_ : (a.inst (q.modified (ordOf d)).inst).openSlots = [] := by
        unfold Eng.inst
        rw [show a.cmp = s.eng.cmp from wrotes.only.parts 4 (by decide)]
        exact slots
      rw [rcA]
      dsimp only
      rw [none_]
      rfl
    have most : (q.modified (ordOf d)).maxNew = (ordOf d).maxNew := if_pos sets
    unfold Eng.ordFollow
    rw [show (ringOrder d 4 r stamp e1.hat.orderSeq).opcode = 4 from rfl, if_neg (by decide), if_pos ⟨rfl, (ringOrder_setsMaxNew d 4 r stamp _).mpr sets⟩,
      List.foldl_cons, List.foldl_nil, rcA]
    refine if_pos ⟨by rw [most]; exact enough, decide_eq_true state, ?_⟩
    rw [still]
    rfl
  rw [follow] at ran
  obtain ⟨wrote, now, out, behind, second, only⟩ := wrotes.ended hyp (status := 9) (by rw [show (q.modified (ordOf d)).rqid = q.rqid from rfl, rqid]; exact slot) last live_ slots draft map ring
  exact ⟨_, pages, ran behind, wrote, reserved, now, out, second, .withEng only⟩

end Order

/-- The sum over the one sibling of a request. -/
theorem Eng.total_one {e : Eng} {x : Nat} {q : LRec} (o : OrdDesc) (f : LRec → Nat) (rc : e.rc x = some q) (last : q.nextSib = 0xFFFFFF) (live_ : q.live = true) :
    e.total o (e.listed x 1 8) f = q.share o f := by
  have one : e.listed x 1 8 = [x] := by
    unfold Eng.listed
    rw [e.sibs_alone rc last]
    refine List.filter_eq_self.mpr (fun y among => ?_)
    rw [List.mem_singleton.mp among, rc]
    exact live_
  rw [one, Eng.total_cons e o [] f rc]
  exact Nat.add_zero _

/-- Settles O26: an order that Hatch fetches and resolves at once finds its request, is accepted, changes the siblings that it lists and is answered; an end,
where one follows, has its record at the next place of the ring. -/
theorem ordersTakeEffect : Obligations.OrdersTakeEffect := by
  unfold Obligations.OrdersTakeEffect
  intro d r stamp e1 q s up e o x op c g rec_ final ended wroteIn wrote modified listed total pagesSuffice
    reserved orders behind held off low fetch past all other none_ room en pid part ok named rc
  have hyp : Fetches s d r stamp e1 := ⟨up, orders, behind, held, off, low, fetch, past, all, other, none_, room, en, pid, part, ok⟩
  obtain ⟨slot, -⟩ := Eng.named_is named rc
  have wroteOf : ∀ {v : LRec} {pages : Nat} {t : State}, e.Wrote x v pages t.eng → t.eng.now = e.now → answerOf s d r ∈ t.eng.out → wroteIn t :=
    fun w now out => ⟨fun y apart => (w.rc y).trans (if_neg apart), now, out, w.hot, w.stw, w.dom⟩
  have atX : ∀ {v : LRec} {pages : Nat} {t : State}, e.Wrote x v pages t.eng → t.eng.rc x = some v := fun w => (w.rc x).trans (if_pos rfl)
  refine ⟨fun nodup => ⟨fun code some_ => ?_, fun code some_ suffice more => ?_⟩, fun last => ⟨fun code state => ?_, fun code state away => ?_,
    fun code sets keeps live_ => ?_, fun code least most => ?_, fun slots draft map ring => ⟨fun code live_ => ?_, fun code sets enough state suffice => ?_⟩⟩⟩
  · obtain ⟨t, ran, rcs, ordered, led, shv, only⟩ := preempt_pauses hyp code named nodup some_
    exact ⟨t, ran, rcs, ordered.out, led, shv, only⟩
  · exact modify_sets hyp code named nodup some_ suffice more
  · obtain ⟨t, ran, gat, w, now, out, only⟩ := admit_queues hyp code named rc last state
    exact ⟨t, ran, atX w, ⟨wroteOf w now out, w.led⟩, gat, only⟩
  · obtain ⟨t, ran, insts, w, now, out, only⟩ := resume_returns hyp code named rc last state away
    exact ⟨t, ran, atX w, ⟨wroteOf w now out, w.led⟩, insts, only⟩
  · obtain ⟨t, ran, w, now, out, only⟩ := modify_sets_deadline hyp code named rc last sets keeps live_
    exact ⟨t, ran, atX w, ⟨wroteOf w now out, w.led⟩, only⟩
  · have sibs := e.sibs_alone rc last
    have one : e.listed x 3 6 = [x] := by
      unfold Eng.listed
      rw [sibs]
      refine List.filter_eq_self.mpr (fun y among => ?_)
      rw [List.mem_singleton.mp among, rc]
      exact decide_eq_true ⟨least, most⟩
    obtain ⟨t, ran, rcs, ordered, led, shv, only⟩ := preempt_pauses hyp code named (by rw [sibs]; exact List.nodup_singleton x) (by rw [one]; exact List.cons_ne_nil _ _)
    rw [one] at rcs shv ordered
    refine ⟨t, ran, ?_, ⟨⟨fun y apart => ?_, ordered.now, ordered.out, fun among => ?_, ordered.stw, fun k beside => ordered.dom k (fun y among => ?_)⟩, led⟩, ?_, only⟩
    · rw [rcs, rc, Option.map_some, if_pos List.mem_cons_self]
      rfl
    · rw [rcs]
      refine (Option.map_congr (fun v _ => if_neg (fun h => apart (List.mem_singleton.mp h)))).trans (congrFun Option.map_id _)
    · have hot := ordered.hot
      rw [sibs] at hot
      exact hot.trans ((hotFirst_twice _ _).trans (hotFirst_among among))
    · rw [sibs, List.mem_singleton] at among
      rw [among]
      exact beside
    · rw [shv, List.filterMap_cons_some rc]
      rfl
  · obtain ⟨t, ran, w, now, out, second, only⟩ := cancel_ends hyp code named rc last live_ slots draft map ring
    exact ⟨t, ran, atX w, ⟨wroteOf w now out, w.led⟩, second, only⟩
  · obtain ⟨t, pages, ran, w, reserves, now, out, second, only⟩ := modify_ends hyp code named rc last slots draft map ring sets enough state suffice
    have live_ : q.live = true := decide_eq_true (by omega)
    refine ⟨t, ran, atX w, wroteOf w now out, fun within => ?_, second, ?_, only⟩
    · have sum : ∀ f : LRec → Nat, total f = q.share o f := fun f => Eng.total_one o f rc last live_
      rw [sum] at within
      rw [sum, sum, show t.eng.led.pagesReserved = pages from congrArg Led.pagesReserved w.led, reserves]
      exact q.modified_reserves o within
    · rw [show t.eng.led = _ from w.led]

end Sys2Proof.Machine
end

section
/-!
Grammars, mask pages, jumps, service draws and the probe (O46).
-/
namespace Sys2Proof.Machine

/-! ### A GO write of SIV_INSTALL_CTL -/

/-- GRAMMAR_ID and OP written. -/
def Eng.installCtl (e : Eng) (id op : Nat) : Eng := (e.poke F.SIV_INSTALL_CTL_GRAMMAR_ID id).poke F.SIV_INSTALL_CTL_OP op

theorem Eng.installCtl_only (e : Eng) (id op : Nat) : e.Only [] [0x9028] (e.installCtl id op) :=
  (Eng.Only.poke e _ _ _ (by decide) (by decide)).trans (.poke _ _ _ _ (by decide) (by decide))

/-- The fields of SIV_INSTALL_CTL that a write leaves. -/
abbrev installRegs (data : Word) (e : Eng) : Prop :=
  e.fv F.SIV_INSTALL_CTL_GRAMMAR_ID = data.toNat / 2 ^ 0 % 2 ^ 16 ∧ e.fv F.SIV_INSTALL_CTL_OP = data.toNat / 2 ^ 16 % 2 ^ 1

theorem Eng.installCtl_regs (e : Eng) (data : Word) : installRegs data (e.installCtl (bitsOf data.toNat 15 0) (bitsOf data.toNat 16 16)) := by
  constructor
  · rw [Eng.installCtl, Eng.fv_poke_beside _ F.SIV_INSTALL_CTL_OP F.SIV_INSTALL_CTL_GRAMMAR_ID _ _ rfl (by decide) (.inl (by decide)),
      Eng.fv_poke_same _ _ _ _ (by decide)]
    exact Nat.mod_mod _ _
  · rw [Eng.installCtl, Eng.fv_poke_same _ _ _ _ (by decide)]
    exact Nat.mod_mod _ _

/-- What is written of SIV_INSTALL_CTL stays while its register does. -/
theorem installRegs.keep {data : Word} {e e' : Eng} (regs : installRegs data e) {us : List Nat} (only : e.Only us [] e') : installRegs data e' := by
  have word : e'.reg 0x9028 = e.reg 0x9028 := only.regs _ _ (by decide) List.not_mem_nil (by decide) (fun stall => absurd stall (by decide))
  constructor
  · rw [← regs.1, Eng.fv, Eng.fv]
    exact congrArg (fun w : Word => bitsOf w.toNat 15 0) word
  · rw [← regs.2, Eng.fv, Eng.fv]
    exact congrArg (fun w : Word => bitsOf w.toNat 16 16) word

/-! ### Grammars installed and removed -/

/-- A grammar of the directory set. -/
theorem Eng.gram_setGram (e : Eng) (id z : Nat) (g : Gram) : (e.setGram id g).gram z = if z = id then g else e.gram z := tgetD_tsetD _ _ _ _ _

theorem Eng.gram_congr {e e' : Eng} (siv : e'.siv = e.siv) (z : Nat) : e'.gram z = e.gram z := congrArg (fun x : Siv => tgetD x.dir z {}) siv

/-- A Sieve with the RESULT of the last command. -/
def Eng.sivResult (e : Eng) (r : Nat) : Eng := { e with siv := { e.siv with result := r } }

/-- The removal of a grammar, or its start. -/
def Eng.removeGram (e : Eng) (id : Nat) : Eng :=
  if !(e.gram id).valid then e.sivResult 9
  else if (e.gram id).live = 0 then ((e.setGram id (e.gram id).removed).sivResult 1).raiseE 0x0072 9 id
  else (e.setGram id { e.gram id with draining := true }).sivResult 1

theorem Eng.removeGram_spec (e : Eng) (id : Nat) :
    ((e.gram id).valid = false → (e.removeGram id).siv = { e.siv with result := 9 }) ∧
    ((e.gram id).valid = true → (e.removeGram id).siv.result = 1 ∧ (e.removeGram id).gram id =
      if (e.gram id).live = 0 then (e.gram id).removed else { e.gram id with draining := true }) ∧
    (∀ z, z ≠ id → (e.removeGram id).gram z = e.gram z) ∧ e.Only [1, 9, 17] [] (e.removeGram id) := by
  have set : ∀ g, e.Only [1, 9, 17] [] ((e.setGram id g).sivResult 1) := fun g => .setSiv e _ (by decide)
  have gram : ∀ g z, ((e.setGram id g).sivResult 1).gram z = if z = id then g else e.gram z := fun g z => e.gram_setGram id z g
  cases valid : (e.gram id).valid with
  | false =>
    have eq : e.removeGram id = e.sivResult 9 := if_pos (by rw [valid]; rfl)
    rw [eq]
    exact ⟨fun _ => rfl, fun no => absurd no (by decide), fun _ _ => rfl, .setSiv e _ (by decide)⟩
  | true =>
    refine ⟨fun no => absurd no (by decide), ?_⟩
    by_cases free : (e.gram id).live = 0
    · have reports := ((e.setGram id (e.gram id).removed).sivResult 1).raiseE_reports 0x0072 9 id none
      have eq : e.removeGram id = ((e.setGram id (e.gram id).removed).sivResult 1).raiseE 0x0072 9 id :=
        (if_neg (by rw [valid]; exact Bool.false_ne_true)).trans (if_pos free)
      rw [← eq] at reports
      have same : ∀ z, (e.removeGram id).gram z = ((e.setGram id (e.gram id).removed).sivResult 1).gram z :=
        Eng.gram_congr reports.siv_eq
      refine ⟨fun _ => ⟨by rw [reports.siv_eq]; rfl, ?_⟩, fun z apart => ?_, (set _).trans (.of_reports reports (by decide) (by decide))⟩
      · rw [same, gram, if_pos rfl, if_pos free]
      · rw [same, gram, if_neg apart]
    · have eq : e.removeGram id = (e.setGram id { e.gram id with draining := true }).sivResult 1 :=
        (if_neg (by rw [valid]; exact Bool.false_ne_true)).trans (if_neg free)
      rw [eq]
      exact ⟨fun _ => ⟨rfl, by rw [gram, if_pos rfl, if_neg free]⟩, fun z apart => by rw [gram, if_neg apart], set _⟩

section Grammars
variable {s : State} {data : Word} (up : s.boot.absent = false)
include up

/-- An install starts at GO unless one is in progress. -/
theorem grammarInstall_starts : ∃ t, exec (.grammarInstall data) s = .next t ∧ installRegs data t.eng ∧
    (data.getLsbD 31 = true → data.getLsbD 16 = false → s.eng.siv.install = none →
      t.eng.siv = { s.eng.siv with install := some (data.toNat / 2 ^ 0 % 2 ^ 16, s.eng.pairv 0x9020 / 4096 * 4096), result := 0 }) ∧
    (data.getLsbD 31 = false ∨ data.getLsbD 16 = true ∨ s.eng.siv.install ≠ none → t.eng.siv = s.eng.siv) ∧ s.Only [9] [0x9028] t := by
  have runs : exec (.grammarInstall data) s = .next (s.withEng (
      let y := s.eng.installCtl (bitsOf data.toNat 15 0) (bitsOf data.toNat 16 16)
      if !bitOf data.toNat 31 || bitOf data.toNat 16 || y.siv.install.isSome then y
      else { y with siv := { y.siv with install := some (data.toNat / 2 ^ 0 % 2 ^ 16, y.pairv 0x9020 / 4096 * 4096), result := 0 } })) := by
    change execGrammarInstall data s = _
    rw [execGrammarInstall, live_up up]
    rfl
  have regs := s.eng.installCtl_regs data
  have only := s.eng.installCtl_only (bitsOf data.toNat 15 0) (bitsOf data.toNat 16 16)
  rw [bitOf_toNat, bitOf_toNat] at runs
  generalize s.eng.installCtl (bitsOf data.toNat 15 0) (bitsOf data.toNat 16 16) = y at runs regs only
  dsimp only at runs
  have siv : y.siv = s.eng.siv := only.parts 9 (by decide)
  have whole := only.weaken (us' := [9]) (offs' := [0x9028]) (by decide) (by decide)
  have pair : y.pairv 0x9020 = s.eng.pairv 0x9020 := by
    unfold Eng.pairv
    rw [only.regs 0x9020 _ (by decide) (by decide) (by decide) (fun stall => absurd stall (by decide)),
      only.regs (0x9020 + 4) _ (by decide) (by decide) (by decide) (fun stall => absurd stall (by decide))]
  rw [siv, pair] at runs
  split at runs
  · next no =>
    refine ⟨_, runs, regs, fun go op none_ => ?_, fun _ => siv, .withEng whole⟩
    rw [go, op, none_] at no
    exact absurd no (by decide)
  · next yes =>
    have more : y.Only [9] [] { y with siv := { s.eng.siv with install := some (data.toNat / 2 ^ 0 % 2 ^ 16, s.eng.pairv 0x9020 / 4096 * 4096), result := 0 } } :=
      .setSiv y _ (by decide)
    refine ⟨_, runs, regs.keep more, fun _ _ _ => rfl, fun no => absurd ?_ yes, .withEng (whole.trans (more.weaken (by decide) (by decide)))⟩
    rcases no with go | op | some_
    · rw [go]
      rfl
    · rw [op, Bool.or_true, Bool.true_or]
    · rw [Option.isSome_iff_ne_none.mpr some_, Bool.or_true]

/-- A grammar is removed at once, or drains. -/
theorem grammarRemove_removes : ∃ t, exec (.grammarRemove data) s = .next t ∧ installRegs data t.eng ∧
    (data.getLsbD 31 = true → data.getLsbD 16 = true → s.eng.siv.install = none →
      ((s.eng.gram (data.toNat / 2 ^ 0 % 2 ^ 16)).valid = false → t.eng.siv = { s.eng.siv with result := 9 }) ∧
      ((s.eng.gram (data.toNat / 2 ^ 0 % 2 ^ 16)).valid = true → t.eng.siv.result = 1 ∧ t.eng.gram (data.toNat / 2 ^ 0 % 2 ^ 16) =
        if (s.eng.gram (data.toNat / 2 ^ 0 % 2 ^ 16)).live = 0 then (s.eng.gram (data.toNat / 2 ^ 0 % 2 ^ 16)).removed
        else { s.eng.gram (data.toNat / 2 ^ 0 % 2 ^ 16) with draining := true })) ∧
    (∀ z, z ≠ data.toNat / 2 ^ 0 % 2 ^ 16 → t.eng.gram z = s.eng.gram z) ∧ s.Only [1, 9, 17] [0x9028] t := by
  have runs : exec (.grammarRemove data) s = .next (s.withEng (
      let y := s.eng.installCtl (bitsOf data.toNat 15 0) (bitsOf data.toNat 16 16)
      if !bitOf data.toNat 31 || !bitOf data.toNat 16 || y.siv.install.isSome then y else y.removeGram (data.toNat / 2 ^ 0 % 2 ^ 16))) := by
    change execGrammarRemove data s = _
    rw [execGrammarRemove, live_up up]
    rfl
  have regs := s.eng.installCtl_regs data
  have only := s.eng.installCtl_only (bitsOf data.toNat 15 0) (bitsOf data.toNat 16 16)
  rw [bitOf_toNat, bitOf_toNat] at runs
  generalize s.eng.installCtl (bitsOf data.toNat 15 0) (bitsOf data.toNat 16 16) = y at runs regs only
  dsimp only at runs
  have siv : y.siv = s.eng.siv := only.parts 9 (by decide)
  have gram : ∀ z, y.gram z = s.eng.gram z := Eng.gram_congr siv
  have whole := only.weaken (us' := [1, 9, 17]) (offs' := [0x9028]) (by decide) (by decide)
  rw [siv] at runs
  split at runs
  · next no =>
    refine ⟨_, runs, regs, fun go op none_ => ?_, fun z _ => gram z, .withEng whole⟩
    rw [go, op, none_] at no
    exact absurd no (by decide)
  · obtain ⟨invalid, valid, others, more⟩ := y.removeGram_spec (data.toNat / 2 ^ 0 % 2 ^ 16)
    rw [gram] at invalid valid
    rw [siv] at invalid
    exact ⟨_, runs, regs.keep more, fun _ _ _ => ⟨invalid, valid⟩, fun z apart => (others z apart).trans (gram z),
      .withEng (whole.trans (more.weaken (by decide) (by decide)))⟩

/-- An install ends with its RESULT: the image is taken, or the directory stays. -/
theorem grammarInstall_ends {image : List (BitVec 8)} {larder : Option LarderBits} {readOk : Bool} {id addr : Nat} (busy : s.eng.siv.install = some (id, addr)) :
    let g := natBytes image
    let res := installResult g (larderVocab larder (imgField g 8 2 % 4096)) ((s.eng.gram id).valid || (s.eng.gram id).draining) readOk
    ∃ t, exec (.grammarInstallEnd image larder readOk) s = .next t ∧ t.eng.siv.install = none ∧ t.eng.siv.result = res ∧
      t.eng.gram id = (if res = 1 then { valid := true, mid := imgField g 8 2 % 4096, addr, bytes := imgField g 0x28 4, image } else s.eng.gram id) ∧
      (∀ z, z ≠ id → t.eng.gram z = s.eng.gram z) ∧
      t.eng.siv.cache = (if res = 1 then s.eng.siv.cache.filter (fun p => decide (p.gid ≠ id)) else s.eng.siv.cache) ∧ s.Only [1, 9, 17] [] t := by
  intro g res
  let b : Eng := { s.eng with siv := { s.eng.siv with install := none, result := res } }
  let x : Gram := { valid := true, mid := imgField g 8 2 % 4096, addr, bytes := imgField g 0x28 4, image }
  let c : Eng := { b with siv := { b.siv with cache := b.siv.cache.filter (fun p => decide (p.gid ≠ id)) } }
  have runs : exec (.grammarInstallEnd image larder readOk) s = .next (s.withEng (
      if res = 1 then (c.setGram id x).raiseE 0x0070 9 id else b.raiseE 0x0071 9 (id + 2 ^ 16 * res))) := by
    change execGrammarInstallEnd image larder readOk s = _
    rw [execGrammarInstallEnd, live_up up]
    dsimp only
    rw [busy]
  by_cases good : res = 1
  · rw [if_pos good] at runs
    have reports := (c.setGram id x).raiseE_reports 0x0070 9 id none
    have only : s.eng.Only [1, 9, 17] [] (c.setGram id x) := .setSiv s.eng _ (by decide)
    generalize (c.setGram id x).raiseE 0x0070 9 id = z at runs reports
    have gram : ∀ w, z.gram w = if w = id then x else s.eng.gram w := fun w => (Eng.gram_congr reports.siv_eq w).trans (c.gram_setGram id w x)
    refine ⟨_, runs, ?_, ?_, ?_, fun w apart => (gram w).trans (if_neg apart), ?_, .withEng (only.trans (.of_reports reports (by decide) (by decide)))⟩
    · exact congrArg Siv.install reports.siv_eq
    · exact congrArg Siv.result reports.siv_eq
    · exact (gram id).trans ((if_pos rfl).trans (if_pos good).symm)
    · exact (congrArg Siv.cache reports.siv_eq).trans (if_pos good).symm
  · rw [if_neg good] at runs
    have reports := b.raiseE_reports 0x0071 9 (id + 2 ^ 16 * res) none
    have only : s.eng.Only [1, 9, 17] [] b := .setSiv s.eng _ (by decide)
    generalize b.raiseE 0x0071 9 (id + 2 ^ 16 * res) = z at runs reports
    have gram : ∀ w, z.gram w = s.eng.gram w := fun w => Eng.gram_congr (e := b) reports.siv_eq w
    refine ⟨_, runs, ?_, ?_, (gram id).trans (if_neg good).symm, fun w _ => gram w, ?_, .withEng (only.trans (.of_reports reports (by decide) (by decide)))⟩
    · exact congrArg Siv.install reports.siv_eq
    · exact congrArg Siv.result reports.siv_eq
    · exact (congrArg Siv.cache reports.siv_eq).trans (if_neg good).symm

end Grammars

/-! ### Mask pages -/

/-- A place of the cache is free while fewer than 2,048 pages stand in it. -/
theorem freeWay_free {l : List MaskPage} (room : l.length < 2048) : ∀ p ∈ l, p.way ≠ freeWay l := by
  have some_ : ((List.range 2048).find? (fun w => !(l.any (fun p => decide (p.way = w))))).isSome = true := by
    rw [List.find?_isSome]
    by_contra none_
    push Not at none_
    have all : List.range 2048 ⊆ l.map (fun p => p.way) := fun w low => by
      have taken := none_ w low
      rw [ne_eq, Bool.not_eq_true, Bool.not_eq_false', List.any_eq_true] at taken
      obtain ⟨p, among, way⟩ := taken
      exact List.mem_map.mpr ⟨p, among, of_decide_eq_true way⟩
    have many := (List.nodup_range.subperm all).length_le
    rw [List.length_range, List.length_map] at many
    omega
  obtain ⟨w, found⟩ := Option.isSome_iff_exists.mp some_
  intro p among same
  have free := List.find?_some found
  rw [freeWay, found] at same
  rw [Bool.not_eq_true', List.any_eq_false] at free
  exact free p among (decide_eq_true same)

/-- The bits of a sum of distinct powers of two. -/
theorem bitOf_sumBy (f : Nat → Bool) (n k : Nat) : bitOf (sumBy (fun i => if f i then 2 ^ i else 0) (List.range n)) k = (decide (k < n) && f k) := by
  have sum : ∀ n, sumBy (fun i => if f i then 2 ^ i else 0) (List.range (n + 1)) =
      sumBy (fun i => if f i then 2 ^ i else 0) (List.range n) + if f n then 2 ^ n else 0 := fun n => by
    unfold sumBy
    rw [List.range_succ, List.foldl_append]
    rfl
  have small : ∀ n, sumBy (fun i => if f i then 2 ^ i else 0) (List.range n) < 2 ^ n := fun n => by
    induction n with
    | zero => exact Nat.one_pos
    | succ n ih =>
      rw [sum, Nat.pow_succ]
      split <;> omega
  have test : ∀ v k, bitOf v k = v.testBit k := fun v k => (Nat.testBit_eq_decide_div_mod_eq).symm
  rw [test]
  induction n with
  | zero => exact Nat.zero_testBit k
  | succ n ih =>
    rw [sum]
    rcases Nat.lt_trichotomy k n with below | rfl | above
    · rw [decide_eq_true (Nat.lt_succ_of_lt below)]
      rw [decide_eq_true below] at ih
      rw [← ih]
      split
      · rw [Nat.add_comm]
        exact Nat.testBit_two_pow_add_gt below _
      · rfl
    · rw [decide_eq_true (Nat.lt_succ_self k), Bool.true_and]
      rw [decide_eq_false (Nat.lt_irrefl k), Bool.false_and] at ih
      cases f k with
      | true => rw [if_pos rfl, Nat.add_comm, Nat.testBit_two_pow_add_eq, ih]; rfl
      | false => exact ih
    · rw [decide_eq_false (by omega), Bool.false_and, ← sum]
      exact Nat.testBit_lt_two_pow (Nat.lt_of_lt_of_le (small (n + 1)) (Nat.pow_le_pow_right (by decide) above))

/-- The bitmap of a page: the tokens of the vocabulary that its class allows. -/
theorem bitOf_pageBits (g : GImg) {cls page k : Nat} (low : k < 32768) :
    bitOf (pageBits g cls page) k = (decide (32768 * page + k < gVocab g) && gAllows g (gClass g cls) (32768 * page + k)) := by
  rw [pageBits, bitOf_sumBy]
  congr 1
  exact decide_eq_decide.mpr (by omega)

/-- What the intake of rows leaves of the Sampler: all but the rows' INTAKE and MASK. -/
structure Eng.TakesIn (e e' : Eng) : Prop where
  siv : e'.siv = e.siv
  mem : e'.dbg = e.dbg
  smp : e'.smp = { e.smp with slots := e'.smp.slots }
  slots : ∀ k, (e'.smpSlot k).map (fun z => { z with rows := [] }) = (e.smpSlot k).map (fun z => { z with rows := [] })
  rows : ∀ k m, ((e'.smpSlot k).bind (fun z => tget z.rows m)).map (fun y => { y with intake := [], mask := [] }) =
    ((e.smpSlot k).bind (fun z => tget z.rows m)).map (fun y => { y with intake := [], mask := [] })
  misses : e'.fv F.SIV_CACHE_MISS_COUNT = e.fv F.SIV_CACHE_MISS_COUNT
  only : e.Only [8] [0x9048] e'

theorem Eng.TakesIn.refl (e : Eng) : e.TakesIn e := ⟨rfl, rfl, rfl, fun _ => rfl, fun _ _ => rfl, rfl, .refl e⟩

theorem Eng.TakesIn.trans {a b c : Eng} (h : a.TakesIn b) (k : b.TakesIn c) : a.TakesIn c :=
  ⟨k.siv.trans h.siv, k.mem.trans h.mem, by rw [k.smp, h.smp], fun n => (k.slots n).trans (h.slots n), fun n m => (k.rows n m).trans (h.rows n m),
    k.misses.trans h.misses, h.only.trans k.only⟩

theorem Eng.TakesIn.foldl {α : Type} (l : List α) (f : Eng → α → Eng) (each : ∀ (e : Eng) x, e.dbg.mem = [] → e.TakesIn (f e x)) (e : Eng) (none_ : e.dbg.mem = []) :
    e.TakesIn (l.foldl f e) := by
  induction l generalizing e with
  | nil => exact .refl e
  | cons x l ih => exact (each e x none_).trans (ih _ (by rw [(each e x none_).mem]; exact none_))

/-- A row with its intake and mask. -/
def Row.took (r : Row) (mask : Tab Nat) (intake : List LaneIn) : Row := { r with mask, intake }

theorem Eng.takesIn_row (e : Eng) (k j n : Nat) (mask : Tab Nat) (intake : List LaneIn) :
    e.TakesIn ((e.modSmp k (fun s => { s with rows := tmod s.rows j (fun r => r.took mask intake) })).bump F.SIV_STALL_COUNT n) := by
  let f : SmpSlot → SmpSlot := fun s => { s with rows := tmod s.rows j (fun r => r.took mask intake) }
  have slot : ∀ w, (e.modSmp k f).smpSlot w = if w = k then (e.smpSlot k).map f else e.smpSlot w := fun w => tget_tmod _ _ _ _
  have set : e.TakesIn (e.modSmp k f) := by
    refine ⟨rfl, rfl, rfl, fun w => ?_, fun w m => ?_, rfl, .setSmp e _ (by decide)⟩
    · rw [slot]
      split
      · next here => rw [here, Option.map_map]; rfl
      · rfl
    · rw [slot]
      split
      · next here =>
        rw [here]
        cases e.smpSlot k with
        | none => rfl
        | some z =>
          change (tget (tmod z.rows j (fun r => r.took mask intake)) m).map _ = (tget z.rows m).map _
          rw [tget_tmod]
          split
          · next same => rw [same, Option.map_map]; rfl
          · rfl
      · rfl
  have count : ∀ b : Eng, b.TakesIn (b.bump F.SIV_STALL_COUNT n) := fun b =>
    ⟨rfl, rfl, rfl, fun _ => rfl, fun _ _ => rfl, Eng.fv_poke_ne _ _ F.SIV_CACHE_MISS_COUNT _ _ _ (by decide) (by decide) (.inl (by decide)),
      .bump b _ _ _ (by decide) (by decide)⟩
  exact set.trans (count _)

theorem Eng.rowIntake_takes (e : Eng) (k j gid : Nat) (g : GImg) (r : Row) (none_ : e.dbg.mem = []) : e.TakesIn (e.rowIntake k j gid g r) := by
  unfold Eng.rowIntake
  split
  · exact .refl e
  · split
    · exact .refl e
    · rw [none_]
      exact e.takesIn_row _ _ _ _ _

theorem Eng.intakeAll_takes (e : Eng) (gid : Nat) (none_ : e.dbg.mem = []) : e.TakesIn (e.intakeAll gid) := by
  refine .foldl _ _ (fun y p empty => ?_) e none_
  split
  · exact .refl y
  · dsimp only
    split
    · exact .foldl _ _ (fun z r empty' => z.rowIntake_takes _ _ _ _ _ empty') y empty
    · exact .refl y

theorem maskPageFetch_fetches {s : State} {gid cls page : Nat} (up : s.boot.absent = false) (valid : (s.eng.gram gid).valid = true) (serves : s.eng.sieveOn = true)
    (class_ : cls < imgField (s.eng.gramImg gid) 0x1C 4) (within : page < maskPages (gVocab (s.eng.gramImg gid))) (out : s.eng.pageIn gid cls page = false)
    (room : s.eng.siv.cache.length < 2048) (none_ : s.eng.dbg.mem = []) :
    let e := s.eng
    let word := e.gramImg gid
    ∃ t b, exec (.maskPageFetch gid cls page) s = .next t ∧
      t.eng.siv = { e.siv with cache := { gid, cls, page, way := freeWay e.siv.cache, bits := b } :: e.siv.cache } ∧
      (∀ k, k < 32768 → bitOf b k =
        (decide (32768 * page + k < gVocab word) && gAllows word (gClass word cls) (32768 * page + k))) ∧
      (∀ p ∈ e.siv.cache, p.way ≠ freeWay e.siv.cache) ∧ t.eng.smp = { e.smp with slots := t.eng.smp.slots } ∧
      (∀ k, (t.eng.smpSlot k).map (fun z => { z with rows := [] }) = (e.smpSlot k).map (fun z => { z with rows := [] }) ∧
        ∀ m, ((t.eng.smpSlot k).bind (fun z => tget z.rows m)).map (fun y => { y with intake := [], mask := [] }) =
          ((e.smpSlot k).bind (fun z => tget z.rows m)).map (fun y => { y with intake := [], mask := [] })) ∧
      t.eng.fv F.SIV_CACHE_MISS_COUNT = min (e.fv F.SIV_CACHE_MISS_COUNT + 1) (2 ^ 32 - 1) ∧ s.Only [8, 9, 17] [0x9044, 0x9048] t := by
  intro e word
  let p : MaskPage := { gid, cls, page, way := freeWay e.siv.cache, bits := pageBits word cls page }
  let held : Eng := ({ e with siv := { e.siv with cache := p :: e.siv.cache }, dbg := { e.dbg with mem := [] } } : Eng).works 9
  have dropped : (List.range 512).foldl (fun (m : Tab (DWord × DWord)) k => tdel m (3 * 2 ^ 40 + 512 * p.way + k)) e.dbg.mem = [] := by
    rw [none_]
    exact List.foldl_fixed' (fun _ => rfl) _
  have ran : exec (.maskPageFetch gid cls page) s = .next (s.withEng ((held.bump F.SIV_CACHE_MISS_COUNT).intakeAll gid)) := by
    change execMaskPageFetch gid cls page s = _
    rw [execMaskPageFetch, live_up up]
    refine congrArg (fun y => Host.Outcome.next (s.withEng y)) ((if_neg ?_).trans ?_)
    · rw [valid, serves, out, decide_eq_false (by omega)]
      exact Bool.false_ne_true
    · dsimp only
      rw [if_pos room, if_neg (Nat.not_le.mpr room), dropped]
  have only : e.Only [8, 9, 17] [0x9044, 0x9048] (held.bump F.SIV_CACHE_MISS_COUNT) :=
    (Eng.Only.setSivDbg e { e.siv with cache := p :: e.siv.cache } held.dbg (by decide) (by decide)).trans (.bump held _ _ _ (by decide) (by decide))
  have takes := (held.bump F.SIV_CACHE_MISS_COUNT).intakeAll_takes gid rfl
  have misses := held.fv_bump_same F.SIV_CACHE_MISS_COUNT 1 0 rfl rfl
  generalize (held.bump F.SIV_CACHE_MISS_COUNT).intakeAll gid = z at ran takes
  exact ⟨_, pageBits word cls page, ran, takes.siv, fun k low => bitOf_pageBits word low, freeWay_free room, takes.smp, fun k => ⟨takes.slots k, takes.rows k⟩,
    takes.misses.trans misses, .withEng (only.trans (takes.only.weaken (by decide) (by decide)))⟩

/-! ### The jump-ahead unit, the service and the probe -/

/-- A count of another register. -/
theorem Eng.fv_bump_ne (e : Eng) (f g : Fld) (n : Nat) (other : g.off ≠ f.off) : (e.bump f n).fv g = e.fv g :=
  Eng.fv_poke_ne e f g _ 0 0 (by decide) (by decide) (.inl other)

theorem Eng.fv_tell (e : Eng) (m : ArrMsg) (f : Fld) : (e.tell m).fv f = e.fv f := rfl

/-- A jump counted. -/
def Eng.jumpCount (e : Eng) : Eng := e.bump F.RSU_JUMPS_COUNT

/-- A jump's state handed to the one that asked. -/
def Eng.jumpHand (e : Eng) (j : Jump) : Eng :=
  let g := (rootOf j.seed).jump j.pos
  if e.genBad j.gen then e
  else if j.gen < 68 then
    if (tgetD e.smp.slots j.key {}).st = 2 then { e with rsu := { e.rsu with ready := e.rsu.ready ++ [(j.key, j.sub, g)] } } else e
  else if j.gen < 72 then { e with rsu := { e.rsu with gens := tput e.rsu.gens j.gen g } }
  else if j.gen = 72 then (e.bump F.RSU_SVC_DRAWS_COUNT j.key).tell (.service (g.draws j.key))
  else { e with rsu := { e.rsu with probeBusy := false, probeOut := g.scramble } }

theorem Eng.jumpGive_eq (e : Eng) (j : Jump) :
    e.jumpGive j = ({ e with rsu := { e.rsu with queue := dropFirst j e.rsu.queue } } : Eng).jumpCount.jumpHand j := rfl

/-- What a jump that is handed over leaves. -/
theorem Eng.jumpGive_spec (e : Eng) (j : Jump) :
    let gen := (rootOf j.seed).jump j.pos
    let z := e.jumpGive j
    z.rsu.queue = dropFirst j e.rsu.queue ∧ z.fv F.RSU_JUMPS_COUNT = min (e.fv F.RSU_JUMPS_COUNT + 1) (2 ^ 32 - 1) ∧
    (e.genBad j.gen = false →
      (j.gen < 68 → (tgetD e.smp.slots j.key {}).st = 2 → z.rsu.ready = e.rsu.ready ++ [(j.key, j.sub, gen)]) ∧
      (68 ≤ j.gen → j.gen < 72 → tget z.rsu.gens j.gen = some gen) ∧
      (j.gen = 72 → .array (.service (gen.draws j.key)) ∈ z.out) ∧
      (72 < j.gen → z.rsu.probeBusy = false ∧ z.rsu.probeOut = gen.scramble)) ∧
    e.Only [10] [0xA080, 0xA084] z := by
  intro gen z
  let a : Eng := { e with rsu := { e.rsu with queue := dropFirst j e.rsu.queue } }
  have dropped : e.Only [10] [0xA080, 0xA084] a := .setRsu e _ (by decide)
  have before : a.fv F.RSU_JUMPS_COUNT = e.fv F.RSU_JUMPS_COUNT := rfl
  have eq : z = a.jumpCount.jumpHand j := e.jumpGive_eq j
  have rsu : a.rsu = { e.rsu with queue := dropFirst j e.rsu.queue } := rfl
  have smp : a.smp = e.smp := rfl
  clear_value z
  generalize a = a at *
  have count := (a.fv_bump_same F.RSU_JUMPS_COUNT 1 0 rfl rfl)
  rw [before] at count
  have only := dropped.trans (Eng.Only.bump a F.RSU_JUMPS_COUNT 1 0 (by decide) (by decide))
  have rsuB : (a.bump F.RSU_JUMPS_COUNT).rsu = a.rsu := rfl
  have smpB : (a.bump F.RSU_JUMPS_COUNT).smp = a.smp := rfl
  have queue : (a.bump F.RSU_JUMPS_COUNT).rsu.queue = dropFirst j e.rsu.queue := by rw [rsuB, rsu]
  have ready : (a.bump F.RSU_JUMPS_COUNT).rsu.ready = e.rsu.ready := by rw [rsuB, rsu]
  have slots : (a.bump F.RSU_JUMPS_COUNT).smp.slots = e.smp.slots := by rw [smpB, smp]
  have bad : (a.bump F.RSU_JUMPS_COUNT).genBad j.gen = e.genBad j.gen := by
    unfold Eng.genBad
    rw [rsuB, rsu]
  unfold Eng.jumpCount at eq
  generalize a.bump F.RSU_JUMPS_COUNT = b at *
  unfold Eng.jumpHand at eq
  dsimp only at eq
  rw [bad] at eq
  cases out : e.genBad j.gen with
  | true =>
    rw [out, if_pos rfl] at eq
    rw [eq]
    exact ⟨queue, count, fun no => absurd no (by decide), only⟩
  | false =>
    rw [out, if_neg Bool.false_ne_true] at eq
    by_cases lane : j.gen < 68
    · rw [if_pos lane] at eq
      refine ⟨?_, ?_, fun _ => ⟨fun _ waits => ?_, fun no => by omega, fun no => by omega, fun no => by omega⟩, ?_⟩
      · rw [eq]; split <;> exact queue
      · rw [eq]; split <;> exact count
      · rw [eq, slots, if_pos waits, ← ready]
      · rw [eq]
        split
        · exact only.trans (.setRsu b _ (by decide))
        · exact only
    · rw [if_neg lane] at eq
      by_cases pipe : j.gen < 72
      · rw [if_pos pipe] at eq
        rw [eq]
        exact ⟨queue, count, fun _ => ⟨fun no => absurd no lane, fun _ _ => tget_tput_same _ _ _, fun no => by omega, fun no => by omega⟩,
          only.trans (.setRsu b _ (by decide))⟩
      · rw [if_neg pipe] at eq
        by_cases service : j.gen = 72
        · rw [if_pos service] at eq
          have others := b.fv_bump_ne F.RSU_SVC_DRAWS_COUNT F.RSU_JUMPS_COUNT j.key (by decide)
          have counted := Eng.Only.bump (us := [10]) (offs := [0xA080, 0xA084]) b F.RSU_SVC_DRAWS_COUNT j.key 0 (by decide) (by decide)
          have same : (b.bump F.RSU_SVC_DRAWS_COUNT j.key).rsu = b.rsu := rfl
          generalize b.bump F.RSU_SVC_DRAWS_COUNT j.key = c at eq others counted same
          rw [eq]
          exact ⟨(congrArg Rsu.queue same).trans queue, (c.fv_tell _ _).trans (others.trans count),
            fun _ => ⟨fun no => absurd no lane, fun _ no => absurd no pipe, fun _ => List.mem_cons_self, fun no => by omega⟩,
            only.trans (counted.trans (.tell c _))⟩
        · rw [if_neg service] at eq
          rw [eq]
          exact ⟨queue, count, fun _ => ⟨fun no => absurd no lane, fun _ no => absurd no pipe, fun no => absurd no service, fun _ => ⟨rfl, rfl⟩⟩,
            only.trans (.setRsu b _ (by decide))⟩

theorem jumpDone_gives {s : State} {j : Jump} (up : s.boot.absent = false) (serves : s.eng.rsuOn = true) (ok : s.eng.rsu.jumpOk = true)
    (next : s.eng.nextJump = some j) : exec .jumpDone s = .next (s.withEng (s.eng.jumpGive j)) := by
  change execJumpDone s = _
  rw [execJumpDone, live_up up, serves, ok, next]
  rfl

theorem serviceRequest_bad {s : State} {req : BitVec 128} (up : s.boot.absent = false) (serves : s.eng.unitHalted 10 = false) (ok : s.eng.rsu.svcOk = true)
    (none_ : s.eng.svcSlot req = none) :
    ∃ t, exec (.serviceRequest req) s = .next t ∧ .array (.service (List.replicate ((req.extractLsb' 72 16).toNat + 1) 0)) ∈ t.eng.out ∧
      t.eng.fv F.RSU_SVC_BAD_COUNT = min (s.eng.fv F.RSU_SVC_BAD_COUNT + 1) (2 ^ 32 - 1) ∧ s.Only [] [0xA088] t := by
  refine ⟨s.withEng ((s.eng.bump F.RSU_SVC_BAD_COUNT).tell (.service (List.replicate ((req.extractLsb' 72 16).toNat + 1) 0))), ?_, List.mem_cons_self,
    s.eng.fv_bump_same F.RSU_SVC_BAD_COUNT 1 0 rfl rfl, .withEng ((Eng.Only.bump s.eng _ _ _ (by decide) (by decide)).trans (.tell _ _))⟩
  change execServiceRequest req s = _
  rw [execServiceRequest, liveOr_up up]
  dsimp only
  rw [serves, ok, none_]
  rfl

theorem serviceRequest_waits {s : State} {req : BitVec 128} {x : Slot} (up : s.boot.absent = false) (serves : s.eng.unitHalted 10 = false)
    (ok : s.eng.rsu.svcOk = true) (some_ : s.eng.svcSlot req = some x) :
    exec (.serviceRequest req) s = .next (s.withEng { s.eng with rsu := { s.eng.rsu with queue := s.eng.rsu.queue ++
      [{ rank := 2, gen := 72, seed := s.eng.pairv 0xA010 + 2 ^ 64 * s.eng.pairv 0xA018
         pos := streamNo (s.eng.inst (req.extractLsb' 0 4).toNat).mid (drawRqid x.rqid x.drawSlot) x.sib x.pos (12 + (req.extractLsb' 38 2).toNat) * 2 ^ 64 +
           (req.extractLsb' 40 32).toNat
         key := (req.extractLsb' 72 16).toNat + 1 }] } }) := by
  change execServiceRequest req s = _
  rw [execServiceRequest, liveOr_up up]
  dsimp only
  rw [serves, ok, some_]
  rfl

/-- Settles O46: each command of the Sieve and of the RSU, with what it leaves of its unit. -/
theorem grammarsAndDraws : Obligations.GrammarsAndDraws := by
  unfold Obligations.GrammarsAndDraws
  intro gid cls page id addr data image larder readOk req j x s e f go op regs g img old res word gen n sent svc coord cf probe
  refine ⟨fun absent => ?_, fun up => ⟨?_, ?_, fun busy => grammarInstall_ends up busy, fun valid serves class_ within out room none_ => ?_,
    fun serves ok next => ?_, fun halted => ⟨?_, ?_⟩, fun serves bad => ?_, fun serves ok none_ => serviceRequest_bad up serves ok none_,
    fun serves ok some_ => serviceRequest_waits up serves ok some_, fun serves starts free => ?_⟩⟩
  · change execServiceRequest req s = _
    rw [execServiceRequest, liveOr_absent absent]
    rfl
  · exact grammarInstall_starts up
  · exact grammarRemove_removes up
  · exact maskPageFetch_fetches up valid serves class_ within out room none_
  · obtain ⟨queue, count, given, only⟩ := s.eng.jumpGive_spec j
    exact ⟨_, jumpDone_gives up serves ok next, queue, count, given, .withEng only⟩
  · change execServiceRequest req s = _
    rw [execServiceRequest, liveOr_up up]
    dsimp only
    rw [if_pos halted]
    rfl
  · change execRsuProbe data s = _
    rw [execRsuProbe, live_up up]
    exact congrArg (fun y => Host.Outcome.next (s.withEng y)) (if_pos (by rw [halted, Bool.or_true]))
  · change execServiceRequest req s = _
    rw [execServiceRequest, liveOr_up up]
    dsimp only
    rw [serves, bad]
    rfl
  · change execRsuProbe data s = _
    rw [execRsuProbe, live_up up]
    exact congrArg (fun y => Host.Outcome.next (s.withEng y)) (if_neg (by
      rw [show data.getLsbD 31 = true from starts, free, serves]
      exact Bool.false_ne_true))

end Sys2Proof.Machine
end

section
/-!
Pantry pieces, old frames and streaming grants (O44).
-/
namespace Sys2Proof.Machine

/-! ### The Pantry's commands -/

theorem pickPiece_mem {e : Eng} {barred : List Nat} {l : List PanCmd} {c : PanCmd} {k : Nat} (picked : pickPiece e barred l = some (c, k)) :
    c ∈ l ∧ c.next = some k := by
  induction l generalizing barred with
  | nil => cases picked
  | cons x l ih =>
    unfold pickPiece at picked
    split at picked
    · obtain ⟨among, next⟩ := ih picked
      exact ⟨List.mem_cons_of_mem _ among, next⟩
    · next n first =>
      dsimp only at picked
      split at picked
      · obtain ⟨same, piece⟩ := Prod.mk.inj (Option.some.inj picked)
        rw [← same, ← piece]
        exact ⟨List.mem_cons_self, first⟩
      · obtain ⟨among, next⟩ := ih picked
        exact ⟨List.mem_cons_of_mem _ among, next⟩

/-- A command replaced by number is found by its number. -/
theorem find_replaced (c : PanCmd) (l : List PanCmd) (some_ : ∃ x ∈ l, x.id = c.id) :
    (l.map (fun x => if x.id = c.id then c else x)).find? (fun x => decide (x.id = c.id)) = some c := by
  induction l with
  | nil =>
    obtain ⟨x, among, -⟩ := some_
    cases among
  | cons y l ih =>
    rw [List.map_cons]
    by_cases here : y.id = c.id
    · rw [if_pos here]
      exact List.find?_cons_of_pos (decide_eq_true rfl)
    · rw [if_neg here, List.find?_cons_of_neg (by rw [decide_eq_true_eq]; exact here)]
      obtain ⟨x, among, same⟩ := some_
      rcases List.mem_cons.mp among with rfl | rest
      · exact absurd same here
      · exact ih ⟨x, rest, same⟩

/-- No command of a number is left where they have been taken out. -/
theorem find_dropped (id : Nat) (l : List PanCmd) : (l.filter (fun x => decide (x.id ≠ id))).find? (fun x => decide (x.id = id)) = none := by
  rw [List.find?_eq_none]
  intro x among
  rw [List.mem_filter, decide_eq_true_eq] at among
  rw [decide_eq_true_eq]
  exact among.2

/-- A command put back is the one of its number; the pipes and the commands held back stay. -/
theorem Eng.panUpdate_eq (e : Eng) (c : PanCmd) (none_ : e.pan.held = []) (some_ : ∃ x ∈ e.pan.running ++ e.pan.demand ++ e.pan.background, x.id = c.id) :
    ∃ pan, e.panUpdate c = { e with pan } ∧ pan.pipes = e.pan.pipes ∧ pan.held = [] ∧
      (pan.running ++ pan.demand ++ pan.background).find? (fun (x : PanCmd) => decide (x.id = c.id)) = some c := by
  unfold Eng.panUpdate
  dsimp only
  split
  · refine ⟨_, rfl, rfl, none_, ?_⟩
    rw [← List.map_append, ← List.map_append]
    exact find_replaced c _ some_
  · refine ⟨{ e.pan with
        demand := e.pan.demand.filter (fun x => decide (x.id ≠ c.id)), background := e.pan.background.filter (fun x => decide (x.id ≠ c.id))
        running := e.pan.running.filter (fun x => decide (x.id ≠ c.id)) ++ [c], held := [] }, ?_, rfl, rfl, ?_⟩
    · unfold Eng.panFill
      rw [none_]
      rfl
    · dsimp only
      rw [List.append_assoc, List.append_assoc, List.find?_append, find_dropped, Option.none_or]
      exact List.find?_cons_of_pos (decide_eq_true rfl)

/-- A command taken out is found no more. -/
theorem Eng.panDrop_eq (e : Eng) (id : Nat) (none_ : e.pan.held = []) :
    ∃ pan, e.panDrop id = { e with pan } ∧ pan.pipes = e.pan.pipes ∧ (pan.running ++ pan.demand ++ pan.background).find? (fun (x : PanCmd) => decide (x.id = id)) = none := by
  refine ⟨{ e.pan with
      demand := e.pan.demand.filter (fun x => decide (x.id ≠ id)), background := e.pan.background.filter (fun x => decide (x.id ≠ id))
      running := e.pan.running.filter (fun x => decide (x.id ≠ id)), held := [] }, ?_, rfl, ?_⟩
  · unfold Eng.panDrop Eng.panFill
    dsimp only
    rw [none_]
    rfl
  · dsimp only
    rw [List.find?_append, List.find?_append, find_dropped, find_dropped, find_dropped]
    rfl

/-! ### PIECE_START -/

/-- The bytes of a piece charged to its partition and, for a group of its own, to its request. -/
def Eng.pieceBill (e : Eng) (c : PanCmd) (b : Nat × Nat) : Eng :=
  let e := if e.imageCmd c then e.modPart c.pid (fun q => { q with storeB := q.storeB + b.1, cellarB := q.cellarB + b.2 })
    else e.regCharge c.pid b.1 b.2 0
  if c.own then e.reqBytes (rqSlot c.rqid) b.1 b.2 0 else e

theorem Eng.part_modPart (e : Eng) (p q : Nat) (f : KPart → KPart) : (e.modPart p f).part q = if q = p then f (e.part p) else e.part q :=
  Eng.part_setPart _ _ _ _

theorem Eng.pieceBill_eq (e : Eng) (c : PanCmd) (b : Nat × Nat) : ∃ kpr, e.pieceBill c b = { e with kpr } ∧
    ∀ q, (tgetD kpr.parts q {}).storeB = (e.part q).storeB + (if q = c.pid then b.1 else 0) ∧
      (tgetD kpr.parts q {}).cellarB = (e.part q).cellarB + (if q = c.pid then b.2 else 0) := by
  have charged : ∃ x : Eng, (if e.imageCmd c then e.modPart c.pid (fun q => { q with storeB := q.storeB + b.1, cellarB := q.cellarB + b.2 })
      else e.regCharge c.pid b.1 b.2 0) = { e with kpr := x.kpr } ∧ ∀ q, (x.part q).storeB = (e.part q).storeB + (if q = c.pid then b.1 else 0) ∧
      (x.part q).cellarB = (e.part q).cellarB + (if q = c.pid then b.2 else 0) := by
    split
    · refine ⟨e.modPart c.pid (fun q => { q with storeB := q.storeB + b.1, cellarB := q.cellarB + b.2 }), rfl, fun q => ?_⟩
      rw [Eng.part_modPart]
      split
      · next here => rw [here]; exact ⟨rfl, rfl⟩
      · exact ⟨rfl, rfl⟩
    · refine ⟨e.regCharge c.pid b.1 b.2 0, rfl, fun q => ?_⟩
      unfold Eng.regCharge
      dsimp only
      rw [Eng.part_modPart]
      split
      · next here => rw [here]; exact ⟨rfl, rfl⟩
      · exact ⟨rfl, rfl⟩
  obtain ⟨x, eq, sums⟩ := charged
  unfold Eng.pieceBill
  dsimp only
  rw [eq]
  split
  · exact ⟨_, rfl, sums⟩
  · exact ⟨_, rfl, sums⟩

theorem Eng.wake_dom (e : Eng) (d : Nat) : ∃ pd, e.wake d = { e with pd } ∧ ∀ k, k ≠ d → tgetD pd k { st := 0 } = e.dom k :=
  ⟨(e.wake d).pd, e.wake_eq d, fun _ other => e.wake_beside other⟩

theorem Eng.Only.setPanRsu {us offs : List Nat} (e : Eng) (pan : Pan) (rsu : Rsu) (pantry : 7 ∈ us) (random : 10 ∈ us) : e.Only us offs { e with pan, rsu } :=
  (Eng.Only.setPan e pan pantry).trans (.setRsu { e with pan } rsu random)

/-- The command's piece on its pipe, and the generator load that it asks for where it converts. -/
def Eng.pieceRuns (e : Eng) (c : PanCmd) (k p : Nat) : Eng :=
  let e := { e with pan := { e.pan with pipes := tput e.pan.pipes p { cmd := c.id, piece := k } } }
  if c.converts then { e with rsu := { e.rsu with queue := e.rsu.queue ++ [e.panJump c k p] } } else e

theorem Eng.pieceRuns_eq (e : Eng) (c : PanCmd) (k p : Nat) : e.pieceRuns c k p = { e with
    pan := { e.pan with pipes := tput e.pan.pipes p { cmd := c.id, piece := k } }
    rsu := { e.rsu with queue := if c.kind = 1 ∧ c.srcFmt ≠ c.dstFmt then e.rsu.queue ++ [e.panJump c k p] else e.rsu.queue } } := by
  unfold Eng.pieceRuns PanCmd.converts
  dsimp only
  by_cases converts : c.kind = 1 ∧ c.srcFmt ≠ c.dstFmt
  · rw [if_pos (decide_eq_true converts), if_pos converts]
    rfl
  · rw [if_neg (by rw [decide_eq_true_eq]; exact converts), if_neg converts]

theorem pieceStart_starts {s : State} {p k : Nat} {c : PanCmd} (up : s.boot.absent = false) (en : s.eng.fb F.PAN_CTL_EN = true) (serves : s.eng.unitHalted 7 = false)
    (free : s.eng.freePipe = some p) (none_ : s.eng.pan.held = [])
    (picked : pickPiece s.eng [] ((s.eng.pan.running.filter (fun y => y.next.isSome)).filter (fun y => y.demand) ++ s.eng.pan.demand ++
      (s.eng.pan.running.filter (fun y => y.next.isSome)).filter (fun y => !y.demand) ++ s.eng.pan.background) = some (c, k)) :
    let e := s.eng
    let b := e.pieceCharge c k
    ∃ t, exec .pieceStart s = .next t ∧ (∀ q, tget t.eng.pan.pipes q = if q = p then some { cmd := c.id, piece := k } else tget e.pan.pipes q) ∧
      (c.rerun = [] → t.eng.panCmd c.id = some { c with started := k + 1 }) ∧
      (t.eng.part c.pid).storeB = (e.part c.pid).storeB + b.1 ∧ (t.eng.part c.pid).cellarB = (e.part c.pid).cellarB + b.2 ∧
      (∀ q, q ≠ c.pid → (t.eng.part q).storeB = (e.part q).storeB ∧ (t.eng.part q).cellarB = (e.part q).cellarB) ∧
      t.eng.rsu = { e.rsu with queue := if c.kind = 1 ∧ c.srcFmt ≠ c.dstFmt then e.rsu.queue ++ [e.panJump c k p] else e.rsu.queue } ∧
      (∀ j, j ≠ 10 + p → t.eng.dom j = e.dom j) ∧ s.Only [7, 10, 12, 15, 17] [] t := by
  intro e b
  obtain ⟨among, -⟩ := pickPiece_mem picked
  obtain ⟨among, -⟩ := pickPiece_mem picked
  obtain ⟨pd, woken, beside⟩ := e.wake_dom (10 + p)
  let a : Eng := { e with pd, dbg := { e.dbg with worked := sinsert e.dbg.worked 7 } }
  have ran : exec .pieceStart s = .next (s.withEng (((a.pieceBill c b).panUpdate (c.start k)).pieceRuns c k p)) := by
    change execPieceStart s = _
    rw [execPieceStart, live_up up]
    refine congrArg (fun y => Host.Outcome.next (s.withEng y)) ((if_pos (by rw [en, serves]; rfl)).trans ?_)
    unfold Eng.pieceStart
    dsimp only
    rw [free, picked]
    dsimp only
    rw [woken]
    rfl
  obtain ⟨kpr, billed, sums⟩ := a.pieceBill_eq c b
  have sameId : (c.start k).id = c.id := by
    unfold PanCmd.start
    split
    · split <;> rfl
    · rfl
  have listed : c ∈ e.pan.running ++ e.pan.demand ++ e.pan.background := by
    simp only [List.mem_append, List.mem_filter] at among ⊢
    tauto
  obtain ⟨pan, updated, pipes, -, found⟩ := ({ a with kpr } : Eng).panUpdate_eq (c.start k) none_ ⟨c, listed, sameId.symm⟩
  rw [billed, updated, Eng.pieceRuns_eq] at ran
  refine ⟨_, ran, fun q => ?_, fun first => ?_, ?_, ?_, fun q apart => ?_, rfl, beside, .withEng ?_⟩
  · by_cases here : q = p
    · rw [if_pos here, here]
      exact tget_tput_same _ _ _
    · rw [if_neg here]
      exact (tget_tput_ne _ _ here).trans (by rw [pipes])
  · have started : c.start k = { c with started := k + 1 } := by
      unfold PanCmd.start
      rw [first]
    rw [← started]
    rw [sameId] at found
    exact found
  · exact (sums c.pid).1.trans (by rw [if_pos rfl]; rfl)
  · exact (sums c.pid).2.trans (by rw [if_pos rfl]; rfl)
  · obtain ⟨store, cellar⟩ := sums q
    rw [if_neg apart] at store cellar
    exact ⟨store, cellar⟩
  · have woke : e.Only [7, 10, 12, 15, 17] [] a := (Eng.Only.setPd e pd (by decide)).trans (.setDbg _ { e.dbg with worked := sinsert e.dbg.worked 7 } (by decide))
    exact (woke.trans (.setKpr a kpr (by decide))).trans (.setPanRsu { a with kpr } _ _ (by decide) (by decide))

/-! ### What a count leaves of every register, whatever copy it is read as -/

/-- Every register that stands has the low bits that it had, and no other stands that did not. -/
def Eng.LowRegs (e e' : Eng) : Prop :=
  ∀ k d, (tgetD e'.regs k d).toNat % 2 ^ 31 = (tgetD e.regs k d : Word).toNat % 2 ^ 31

theorem setBits_top_low (w : Word) (v : Nat) : (setBits w 31 31 v).toNat % 2 ^ 31 = w.toNat % 2 ^ 31 := by
  refine Nat.eq_of_testBit_eq (fun i => ?_)
  rw [Nat.testBit_mod_two_pow, Nat.testBit_mod_two_pow]
  by_cases low : i < 31
  · have bit := setBits_lsb w 31 31 v i (by omega)
    rw [if_neg (by omega)] at bit
    rw [decide_eq_true low, Bool.true_and, Bool.true_and]
    exact bit
  · rw [decide_eq_false low, Bool.false_and, Bool.false_and]

theorem rstWord_counters : ∀ n, n < 64 → rstWord (0x10100 + 4 * n) = 0 := by decide +kernel

theorem tgetD_of_tget {α : Type} {t : Tab α} {k : Nat} {v : α} (some_ : tget t k = some v) (d : α) : tgetD t k d = v := by
  unfold tgetD
  rw [some_]
  rfl

theorem tgetD_of_same {α : Type} {t u : Tab α} {k : Nat} (same : tget t k = tget u k) (d : α) : tgetD t k d = tgetD u k d := by
  unfold tgetD
  rw [same]

/-- A counter that selects a source stands, and adding to it sets its OVF alone. -/
theorem Eng.cntAdd_low {e : Eng} {n src amt : Nat} {pid inst : Option Nat} (low : n < 64) (selects : e.cntSelects n src pid inst = true) : e.LowRegs (e.cntAdd n amt) := by
  have source : bitsOf (e.reg (0x10100 + 4 * n)).toNat 15 0 = src ∧ src ≠ 0 := by
    obtain ⟨both, -⟩ := Bool.and_eq_true_iff.mp selects
    exact of_decide_eq_true (Bool.and_eq_true_iff.mp both).1
  have nonzero : (e.reg (0x10100 + 4 * n)).toNat % 2 ^ 31 ≠ 0 := fun zero => by
    have field : bitsOf (e.reg (0x10100 + 4 * n)).toNat 15 0 = (e.reg (0x10100 + 4 * n)).toNat % 2 ^ 16 := by
      unfold bitsOf
      rw [Nat.pow_zero, Nat.div_one]
    omega
  have stands : ∃ w, tget e.regs (regKey (0x10100 + 4 * n) 0) = some w ∧ e.reg (0x10100 + 4 * n) = w := by
    cases word : tget e.regs (regKey (0x10100 + 4 * n) 0) with
    | none =>
      refine absurd ?_ nonzero
      have reset : e.reg (0x10100 + 4 * n) = 0 := by
        unfold Eng.reg tgetD
        rw [word]
        exact rstWord_counters n low
      rw [reset]
      rfl
    | some w => exact ⟨w, rfl, tgetD_of_tget word _⟩
  obtain ⟨w, word, same⟩ := stands
  rw [same] at nonzero
  have changed : e.LowRegs (e.poke ⟨0x10100 + 4 * n, 31, 31⟩ 1) := fun k d => by
    have put : (e.poke ⟨0x10100 + 4 * n, 31, 31⟩ 1).regs = tput e.regs (regKey (0x10100 + 4 * n) 0) (setBits w 31 31 1) := by
      change tsetD e.regs (regKey (0x10100 + 4 * n) 0) (setBits (e.reg (0x10100 + 4 * n)) 31 31 1) (rstWord (0x10100 + 4 * n)) = _
      rw [same]
      refine if_neg (fun reset => nonzero ?_)
      rw [← setBits_top_low w 1, reset, rstWord_counters n low]
      rfl
    rw [put]
    by_cases here : k = regKey (0x10100 + 4 * n) 0
    · rw [here, tgetD_of_tget (tget_tput_same _ _ _), tgetD_of_tget word]
      exact setBits_top_low w 1
    · rw [tgetD_of_same (tget_tput_ne _ _ here)]
  unfold Eng.cntAdd
  dsimp only
  split
  · exact changed
  · exact fun _ _ => rfl

theorem Eng.LowRegs.trans {a b c : Eng} (h : a.LowRegs b) (k : b.LowRegs c) : a.LowRegs c := fun x d => (k x d).trans (h x d)

/-- A count leaves the low bits of every register. -/
theorem Eng.count_low (e : Eng) (src amt : Nat) (pid inst : Option Nat) : e.LowRegs (e.count src amt pid inst) := by
  have each : ∀ (l : List Nat) (e : Eng), (∀ n ∈ l, n < 64) → e.LowRegs (l.foldl (fun e n => if e.cntSelects n src pid inst then e.cntAdd n amt else e) e) := fun l => by
    induction l with
    | nil => exact fun _ _ _ _ => rfl
    | cons n l ih =>
      intro e low
      have one : e.LowRegs (if e.cntSelects n src pid inst then e.cntAdd n amt else e) := by
        split
        · next selects => exact Eng.cntAdd_low (low n List.mem_cons_self) selects
        · exact fun _ _ => rfl
      exact one.trans (ih _ (fun m among => low m (List.mem_cons_of_mem _ among)))
  unfold Eng.count Eng.countAmt
  split
  · exact fun _ _ => rfl
  · split
    · exact fun _ _ => rfl
    · exact each cntRange e (fun n among => List.mem_range.mp among)

/-- A field of a register's low bits stays, of whatever copy. -/
theorem Eng.LowRegs.fv {e e' : Eng} (low : e.LowRegs e') (f : Fld) (sel : Nat) (below : f.hi < 31) (ordered : f.lo ≤ f.hi) : e'.fv f sel = e.fv f sel := by
  have word := low (regKey f.off sel) (rstWord f.off)
  have bits : ∀ v : Nat, bitsOf v f.hi f.lo = bitsOf (v % 2 ^ 31) f.hi f.lo := fun v => by
    unfold bitsOf
    refine Nat.eq_of_testBit_eq (fun i => ?_)
    rw [Nat.testBit_mod_two_pow, Nat.testBit_mod_two_pow, Nat.testBit_div_two_pow, Nat.testBit_div_two_pow, Nat.testBit_mod_two_pow]
    by_cases within : i < f.hi + 1 - f.lo
    · rw [decide_eq_true (show i + f.lo < 31 by omega), Bool.true_and]
    · rw [decide_eq_false within, Bool.false_and, Bool.false_and]
  change bitsOf (tgetD e'.regs (regKey f.off sel) (rstWord f.off)).toNat f.hi f.lo = bitsOf (tgetD e.regs (regKey f.off sel) (rstWord f.off)).toNat f.hi f.lo
  rw [bits, word, ← bits]

/-- A field of a register above the one written, of whatever copy. -/
theorem Eng.fv_bump_above (e : Eng) (f g : Fld) (n sel : Nat) (above : f.off < g.off) : (e.bump f n).fv g sel = e.fv g sel := by
  have apart : regKey g.off sel ≠ regKey f.off 0 := by
    unfold regKey
    omega
  unfold Eng.fv Eng.bump Eng.poke Eng.putReg Eng.reg
  dsimp only
  unfold tsetD
  split
  · rw [tgetD_of_same (tget_tdel_ne _ apart)]
  · rw [tgetD_of_same (tget_tput_ne _ _ apart)]

/-! ### PIECE_DONE -/

/-- A piece read and written: its counters alone change, and its bytes go out, zeros to the frame's end where it converts nothing. -/
structure Eng.Wrote7 (e : Eng) (c : PanCmd) (k : Nat) (src : List (BitVec 8)) (z : Eng) : Prop where
  only : e.Only [17] [0x7044, 0x7048] z
  out : c.kind ≠ 1 → .pantryBytes c.id k (e.pieceAddr c k) (src ++ if c.kind = 3 then [] else List.replicate ((e.pieceBytes c k).2 - src.length) 0) ∈ z.out
  tiles : ∀ p, z.fv F.KPR_PART_TILES_GROUPS p = e.fv F.KPR_PART_TILES_GROUPS p

theorem map_natBytes (l : List (BitVec 8)) : (natBytes l).map (fun v => BitVec.ofNat 8 v) = l := by
  unfold natBytes
  rw [List.map_map]
  refine (List.map_congr_left (fun b _ => ?_)).trans (List.map_id l)
  exact (BitVec.ofNat_toNat 8 b).trans (BitVec.setWidth_eq b)

/-- The bytes of a piece as they are written, with the elements saturated and the scales that are not finite. -/
def Eng.pieceRead (e : Eng) (c : PanCmd) (pipe : Nat) (src : List Nat) : List Nat × Nat × Nat :=
  let draws := if c.draws then
      match tget e.rsu.gens (68 + pipe) with
      | some g => some (g.draws (e.cmdElems c))
      | none => none
    else none
  if c.kind = 1 then convCrate c.srcFmt c.dstFmt (e.cmdElems c) src draws else (src, 0, 0)

/-- What a piece counts. -/
def Eng.pieceCounts (e : Eng) (c : PanCmd) (k : Nat) (r : Nat × Nat) : Eng :=
  let b := (e.bump F.PAN_SAT_COUNT r.1).bump F.PAN_NONFINITE_COUNT r.2
  (b.count 0x100F (e.pieceBytes c k).1 (some c.pid) (some c.inst)).count 0x1010 (e.pieceBytes c k).2 (some c.pid) (some c.inst)

theorem Eng.pieceWrite_eq (e : Eng) (c : PanCmd) (k pipe : Nat) (src : List Nat) : e.pieceWrite c k pipe src =
    (e.pieceCounts c k (e.pieceRead c pipe src).2).emit (.pantryBytes c.id k ((e.pieceCounts c k (e.pieceRead c pipe src).2).pieceAddr c k)
      (((e.pieceRead c pipe src).1 ++ if c.kind = 3 then [] else List.replicate ((e.pieceBytes c k).2 - (e.pieceRead c pipe src).1.length) 0).map (fun v => BitVec.ofNat 8 v))) :=
  rfl

theorem Eng.pieceCounts_only (e : Eng) (c : PanCmd) (k : Nat) (r : Nat × Nat) : e.Only [17] [0x7044, 0x7048] (e.pieceCounts c k r) :=
  (((Eng.Only.bump e F.PAN_SAT_COUNT r.1 0 (by decide) (by decide)).trans (.bump _ F.PAN_NONFINITE_COUNT r.2 0 (by decide) (by decide))).trans
    (.count _ _ _ _ _ (by decide))).trans (.count _ _ _ _ _ (by decide))

theorem Eng.pieceCounts_tiles (e : Eng) (c : PanCmd) (k p : Nat) (r : Nat × Nat) :
    (e.pieceCounts c k r).fv F.KPR_PART_TILES_GROUPS p = e.fv F.KPR_PART_TILES_GROUPS p := by
  unfold Eng.pieceCounts
  dsimp only
  rw [((Eng.count_low _ _ _ _ _).trans (Eng.count_low _ _ _ _ _)).fv F.KPR_PART_TILES_GROUPS p (by decide) (by decide),
    Eng.fv_bump_above _ F.PAN_NONFINITE_COUNT F.KPR_PART_TILES_GROUPS _ _ (by decide), Eng.fv_bump_above _ F.PAN_SAT_COUNT F.KPR_PART_TILES_GROUPS _ _ (by decide)]

theorem Eng.pieceAddr_congr {e e' : Eng} (shv : e'.shv = e.shv) (cmp : e'.cmp = e.cmp) (c : PanCmd) (k : Nat) : e'.pieceAddr c k = e.pieceAddr c k := by
  have model : e'.instModel c.inst = e.instModel c.inst := by
    unfold Eng.instModel Eng.model Eng.inst
    rw [shv, cmp]
  have group : e'.grp c.dstGroup = e.grp c.dstGroup := by
    unfold Eng.grp
    rw [shv]
  unfold Eng.pieceAddr Eng.cmdElems Eng.cmdFmts
  rw [model, group]

theorem Eng.pieceWrite_wrote (e : Eng) (c : PanCmd) (k pipe : Nat) (src : List (BitVec 8)) : e.Wrote7 c k src (e.pieceWrite c k pipe (natBytes src)) := by
  have only := e.pieceCounts_only c k (e.pieceRead c pipe (natBytes src)).2
  have tiles := fun p => e.pieceCounts_tiles c k p (e.pieceRead c pipe (natBytes src)).2
  have addr := Eng.pieceAddr_congr (only.parts 6 (by decide)) (only.parts 4 (by decide)) c k
  rw [Eng.pieceWrite_eq]
  generalize e.pieceCounts c k (e.pieceRead c pipe (natBytes src)).2 = z at only tiles addr
  refine ⟨only.trans (.emit z _), fun plain => ?_, tiles⟩
  have read : (e.pieceRead c pipe (natBytes src)).1 = natBytes src := congrArg Prod.fst (if_neg plain)
  rw [addr, read, List.map_append, map_natBytes]
  refine List.mem_cons.mpr (.inl ?_)
  unfold natBytes
  rw [List.length_map]
  split
  · rfl
  · rw [List.map_replicate]
    rfl

/-- The engine with a pipe whose piece is done: free, its domain used now. -/
def Eng.pipeFreed (e : Eng) (pipe : Nat) : Eng :=
  let free := { e with pan := { e.pan with pipes := tdel e.pan.pipes pipe } }
  free.setDom (10 + pipe) { free.dom (10 + pipe) with used := e.now }

/-- A command with one more piece written. -/
def PanCmd.wrote (c : PanCmd) : PanCmd := { c with written := c.written + 1 }

/-- The engine once a piece has been written and its command put back. -/
def Eng.pieceKept (e : Eng) (c : PanCmd) (k pipe : Nat) (src : List Nat) : Eng := ((e.pipeFreed pipe).pieceWrite c k pipe src).panUpdate c.wrote

section Done
variable {s : State} {pipe k : Nat} {c : PanCmd} {src : List (BitVec 8)} (up : s.boot.absent = false) (runs : tget s.eng.pan.pipes pipe = some { cmd := c.id, piece := k })
  (found : s.eng.panCmd c.id = some c) (ready : s.eng.pipeWaits pipe c = false) (none_ : s.eng.pan.held = [])
include up runs found ready none_

omit none_ in
theorem exec_pieceDone : exec (.pieceDone pipe 0 src) s = .next (s.withEng (
    if c.wrote.written = c.wrote.pieces then (s.eng.pieceKept c k pipe (natBytes src)).cmdEnd c.wrote 0 else s.eng.pieceKept c k pipe (natBytes src))) := by
  change execPieceDone pipe 0 src s = _
  rw [execPieceDone, live_up up]
  refine congrArg (fun y => Host.Outcome.next (s.withEng y)) ?_
  unfold Eng.pieceDone
  rw [runs]
  dsimp only
  rw [found]
  dsimp only
  rw [ready, Bool.and_false, if_neg Bool.false_ne_true, if_neg (by decide)]
  rfl

omit up runs ready in
/-- What a piece that is done leaves before its command ends. -/
theorem pieceKept_eq : ∃ w pan, s.eng.pieceKept c k pipe (natBytes src) = { w with pan } ∧ (s.eng.pipeFreed pipe).Wrote7 c k src w ∧ pan.held = [] ∧
    pan.pipes = tdel s.eng.pan.pipes pipe ∧ (pan.running ++ pan.demand ++ pan.background).find? (fun (x : PanCmd) => decide (x.id = c.id)) = some c.wrote := by
  have wrote := (s.eng.pipeFreed pipe).pieceWrite_wrote c k pipe src
  have pan : ((s.eng.pipeFreed pipe).pieceWrite c k pipe (natBytes src)).pan = { s.eng.pan with pipes := tdel s.eng.pan.pipes pipe } := wrote.only.parts 7 (by decide)
  unfold Eng.pieceKept
  generalize (s.eng.pipeFreed pipe).pieceWrite c k pipe (natBytes src) = w at wrote pan
  have listed : ∃ x ∈ w.pan.running ++ w.pan.demand ++ w.pan.background, x.id = c.wrote.id := by
    rw [pan]
    exact ⟨c, List.mem_of_find?_eq_some found, rfl⟩
  obtain ⟨pan', eq, pipes, held, at_⟩ := w.panUpdate_eq c.wrote (by rw [pan]; exact none_) listed
  exact ⟨w, pan', eq, wrote, held, by rw [pipes, pan], at_⟩

omit up runs found ready none_ in
theorem Eng.pipeFreed_only (e : Eng) (pipe : Nat) : e.Only [7, 15] [] (e.pipeFreed pipe) :=
  (Eng.Only.setPan e _ (by decide)).trans (.setPd { e with pan := { e.pan with pipes := tdel e.pan.pipes pipe } } _ (by decide))

omit up runs found ready none_ in
theorem Eng.pipeFreed_dom (e : Eng) (pipe : Nat) : (e.pipeFreed pipe).dom (10 + pipe) = { e.dom (10 + pipe) with used := e.now } :=
  tgetD_tsetD_same _ _ _ _

theorem pieceDone_goes_on (more : c.written + 1 ≠ c.pieces) :
    let e := s.eng
    ∃ t, exec (.pieceDone pipe 0 src) s = .next t ∧ (∀ q, tget t.eng.pan.pipes q = if q = pipe then none else tget e.pan.pipes q) ∧
      t.eng.panCmd c.id = some c.wrote ∧ (c.kind ≠ 1 → .pantryBytes c.id k (e.pieceAddr c k)
        (src ++ (if c.kind = 3 then [] else List.replicate ((e.pieceBytes c k).2 - src.length) 0)) ∈ t.eng.out) ∧
      t.eng.dom (10 + pipe) = { e.dom (10 + pipe) with used := e.now } ∧ s.Only [7, 12, 15, 17] [0x7044, 0x7048] t := by
  intro e
  obtain ⟨w, pan, kept, wrote, -, pipes, at_⟩ := pieceKept_eq (k := k) (pipe := pipe) (src := src) found none_
  have ran := exec_pieceDone (src := src) up runs found ready
  rw [if_neg (show ¬c.wrote.written = c.wrote.pieces from more), kept] at ran
  refine ⟨_, ran, fun q => ?_, at_, wrote.out, ?_, .withEng ?_⟩
  · change tget pan.pipes q = _
    rw [pipes]
    split
    · next here => rw [here]; exact tget_tdel_same _ _
    · next apart => exact tget_tdel_ne _ apart
  · exact (Eng.dom_congr (e := s.eng.pipeFreed pipe) (wrote.only.parts 15 (by decide)) _).trans (s.eng.pipeFreed_dom pipe)
  · exact ((s.eng.pipeFreed_only pipe).weaken (by decide) (by decide)).trans ((wrote.only.weaken (by decide) (by decide)).trans (.setPan w pan (by decide)))

omit up runs found ready none_ in
/-- The configurations of a model's loads are asked for, one after another. -/
theorem foldl_askConfig (l : List Nat) (e : Eng) (free : e.av F.KPR_LEAVE_AMT_CONFIG = 0) :
    l.foldl (fun e i => e.askConfig i 0) e = { e with out := (l.reverse.map (fun i =>
      Out.array (.loadConfig i 0 (e.fv F.KPR_PART_TILES_GROUPS (e.inst i).owner) (e.instModel i).cfgAddr))) ++ e.out } := by
  induction l generalizing e with
  | nil => rfl
  | cons i l ih =>
    have asked : e.askConfig i 0 = e.tell (.loadConfig i 0 (e.fv F.KPR_PART_TILES_GROUPS (e.inst i).owner) (e.instModel i).cfgAddr) := if_pos free
    rw [List.foldl_cons, asked]
    refine (ih (e.tell _) free).trans ?_
    rw [List.reverse_cons, List.map_append, List.append_assoc]
    rfl

omit up runs found ready none_ in
/-- Leave that ends is Keeper's to decide again. -/
theorem Eng.leaveEnd_keeper (e : Eng) (cls who : Nat) : ∃ kpr, e.leaveEnd cls who = { e with kpr } := ⟨_, rfl⟩

omit up runs found ready none_ in
theorem Eng.opEnd_weights {e : Eng} {id : Nat} {op : ShvOp} (opens : tget e.shv.ops id = some op) (weights : op.what = 2) :
    e.opEnd id 0 = ({ e with shv := { e.shv with ops := tdel e.shv.ops id } } : Eng).weightsDone op.mid := by
  unfold Eng.opEnd
  rw [opens]
  dsimp only
  rw [weights, if_neg (fun h => absurd h.1 (by decide))]
  rfl

omit up runs found ready none_ in
theorem Eng.model_setModel (e : Eng) (m n : Nat) (x : Model) : (e.setModel m x).model n = if n = m then x else e.model n := tgetD_tsetD _ _ _ _ _

/-- The end of a weight copy: its model's weights are in, and the array is asked for the configurations that are being loaded. -/
theorem pieceDone_ends {op : ShvOp} (all : c.written + 1 = c.pieces) (bulk : c.kind = 3) (opens : tget s.eng.shv.ops c.id = some op) (weights : op.what = 2)
    (free : s.eng.av F.KPR_LEAVE_AMT_CONFIG = 0) :
    let e := s.eng
    ∃ t, exec (.pieceDone pipe 0 src) s = .next t ∧ t.eng.panCmd c.id = none ∧ .pantryBytes c.id k (e.pieceAddr c k) src ∈ t.eng.out ∧
      t.eng.fv F.PAN_CMDS_COUNT = min (e.fv F.PAN_CMDS_COUNT + 1) (2 ^ 32 - 1) ∧ tget t.eng.shv.ops c.id = none ∧
      t.eng.model op.mid = { e.model op.mid with weightsIn := true } ∧
      (∀ j ∈ e.loadingOf op.mid, .array (.loadConfig j 0 (e.fv F.KPR_PART_TILES_GROUPS (e.inst j).owner) (e.instModel j).cfgAddr) ∈ t.eng.out) ∧
      s.Only [6, 7, 12, 15, 17] [0x7040, 0x7044, 0x7048] t := by
  intro e
  obtain ⟨w, pan, kept, wrote, held, -, -⟩ := pieceKept_eq (k := k) (pipe := pipe) (src := src) found none_
  have ran := exec_pieceDone (src := src) up runs found ready
  rw [if_pos (show c.wrote.written = c.wrote.pieces from all), kept] at ran
  obtain ⟨pan', dropped, -, gone⟩ := ({ w with pan } : Eng).panDrop_eq c.id held
  have whole : s.eng.Only [6, 7, 12, 15, 17] [0x7040, 0x7044, 0x7048] w :=
    ((s.eng.pipeFreed_only pipe).weaken (by decide) (by decide)).trans (wrote.only.weaken (by decide) (by decide))
  have out : .pantryBytes c.id k (e.pieceAddr c k) src ∈ w.out := by
    have bytes := wrote.out (by rw [bulk]; decide)
    rw [if_pos bulk, List.append_nil] at bytes
    exact bytes
  have shv : w.shv = e.shv := wrote.only.parts 6 (by decide)
  have cmp : w.cmp = e.cmp := wrote.only.parts 4 (by decide)
  have act : w.act = e.act := (wrote.only.parts 18 (by decide)).1
  have cmds : w.fv F.PAN_CMDS_COUNT = e.fv F.PAN_CMDS_COUNT := by
    rw [Eng.fv, Eng.fv]
    exact congrArg (fun v : Word => bitsOf v.toNat 31 0) (wrote.only.regs 0x7040 0 (by decide) (by decide) (by decide) (fun stall => absurd stall (by decide)))
  have tiles : ∀ p, w.fv F.KPR_PART_TILES_GROUPS p = e.fv F.KPR_PART_TILES_GROUPS p := wrote.tiles
  have step : ({ w with pan } : Eng).cmdEnd c.wrote 0 = ((({ w with pan := pan' } : Eng).bump F.PAN_CMDS_COUNT).leaveEnd 1 c.id).opEnd c.id 0 := by
    unfold Eng.cmdEnd
    dsimp only
    rw [show ({ w with pan } : Eng).panDrop c.wrote.id = { w with pan := pan' } from dropped, if_pos rfl, if_pos (show c.wrote.kind = 3 from bulk)]
    rfl
  have base : s.eng.Only [6, 7, 12, 15, 17] [0x7040, 0x7044, 0x7048] (({ w with pan := pan' } : Eng).bump F.PAN_CMDS_COUNT) :=
    (whole.trans (.setPan w pan' (by decide))).trans (.bump _ _ _ _ (by decide) (by decide))
  have count := ({ w with pan := pan' } : Eng).fv_bump_same F.PAN_CMDS_COUNT 1 0 rfl rfl
  have above := fun p => ({ w with pan := pan' } : Eng).fv_bump_above F.PAN_CMDS_COUNT F.KPR_PART_TILES_GROUPS 1 p (by decide)
  have keeps : ∃ b : Eng, b = (({ w with pan := pan' } : Eng).bump F.PAN_CMDS_COUNT) ∧ b.shv = w.shv ∧ b.cmp = w.cmp ∧ b.act = w.act ∧ b.out = w.out ∧ b.pan = pan' :=
    ⟨_, rfl, rfl, rfl, rfl, rfl, rfl⟩
  obtain ⟨b, same, bShv, bCmp, bAct, bOut, bPan⟩ := keeps
  rw [← same] at step base count above
  obtain ⟨kpr, ended⟩ := b.leaveEnd_keeper 1 c.id
  rw [step, ended, Eng.opEnd_weights (op := op) (by change tget b.shv.ops c.id = _; rw [bShv, shv]; exact opens) weights] at ran
  let g : Eng := { b with kpr, shv := { b.shv with ops := tdel b.shv.ops c.id } }
  let m : Eng := g.setModel op.mid { g.model op.mid with weightsIn := true }
  have asked := foldl_askConfig (g.loadingOf op.mid) m (by unfold Eng.av; rw [show m.act = e.act from bAct.trans act]; exact free)
  have done : g.weightsDone op.mid = { m with out := ((g.loadingOf op.mid).reverse.map (fun i =>
      Out.array (.loadConfig i 0 (m.fv F.KPR_PART_TILES_GROUPS (m.inst i).owner) (m.instModel i).cfgAddr))) ++ m.out } := asked
  have model : ∀ n, g.model n = e.model n := fun n => by
    change tgetD b.shv.models n {} = _
    rw [bShv, shv]
    rfl
  have insts : ∀ i, m.inst i = e.inst i := fun i => by
    change tgetD b.cmp.insts i {} = _
    rw [bCmp, cmp]
    rfl
  rw [show ({ b with kpr, shv := { b.shv with ops := tdel b.shv.ops c.id } } : Eng).weightsDone op.mid = _ from done] at ran
  refine ⟨_, ran, ?_, ?_, ?_, tget_tdel_same _ _, ?_, fun j loads => ?_, .withEng ?_⟩
  · change (b.pan.running ++ b.pan.demand ++ b.pan.background).find? (fun (x : PanCmd) => decide (x.id = c.id)) = none
    rw [bPan]
    exact gone
  · refine List.mem_append_right _ ?_
    change _ ∈ b.out
    rw [bOut]
    exact out
  · change b.fv F.PAN_CMDS_COUNT = _
    rw [count, ← cmds]
    rfl
  · refine (g.model_setModel op.mid op.mid _).trans ((if_pos rfl).trans ?_)
    rw [model]
  · refine List.mem_append_left _ (List.mem_map.mpr ⟨j, ?_, ?_⟩)
    · rw [List.mem_reverse]
      have same : g.loadingOf op.mid = e.loadingOf op.mid := by
        have list : ∀ x : Eng, x.loadingOf op.mid = (instRange.filter (fun i => (tgetD x.cmp.insts i {}).active)).filter
            (fun j => (tgetD x.cmp.insts j {}).loading && decide ((tgetD x.cmp.insts j {}).mid = op.mid)) := fun _ => rfl
        rw [list, list, show g.cmp = e.cmp from bCmp.trans cmp]
      rw [same]
      exact loads
    · have address : (m.instModel j).cfgAddr = (e.instModel j).cfgAddr := by
        unfold Eng.instModel
        rw [insts]
        refine (congrArg Model.cfgAddr (g.model_setModel op.mid (e.inst j).mid _)).trans ?_
        split
        · next here => rw [here, model]
        · rw [model]
      rw [insts, address, show m.fv F.KPR_PART_TILES_GROUPS (e.inst j).owner = b.fv F.KPR_PART_TILES_GROUPS (e.inst j).owner from rfl, above,
        show ({ w with pan := pan' } : Eng).fv F.KPR_PART_TILES_GROUPS (e.inst j).owner = w.fv F.KPR_PART_TILES_GROUPS (e.inst j).owner from rfl, tiles]
  · have set : b.Only [6, 7, 12, 15, 17] [0x7040, 0x7044, 0x7048] m := (Eng.Only.setKpr b kpr (by decide)).trans (.setShv { b with kpr } m.shv (by decide))
    exact base.trans (set.trans ⟨fun u _ => by unfold Eng.partSame; split <;> simp, fun _ _ _ _ _ _ => rfl, ⟨_, rfl⟩⟩)

end Done

/-! ### Streaming grants -/

/-- A grant of 65,536 bytes given and charged. -/
def Eng.streamGranted (e : Eng) (i : Nat) : Eng :=
  let e := e.regCharge (e.inst i).owner 0 65536 0
  { e with kpr := { e.kpr with streamGrants := tsetD e.kpr.streamGrants i (tgetD e.kpr.streamGrants i 0 + 65536) 0 } }

theorem Eng.streamGive_some {e : Eng} {i : Nat} (admits : e.regOpen (e.inst i).owner 0 65536 0 = true) :
    e.streamGive i = some (((e.streamGranted i).count 0x1011 65536 (some (e.inst i).owner) (some i)).tell (.streamGrant i 65536)) := if_pos admits

section Stream
variable {s : State} {i : Nat} (up : s.boot.absent = false) (active : (s.eng.inst i).active = true)
  (first : ∀ x ∈ s.eng.kpr.streamWait, (s.eng.inst x.1).owner ≠ (s.eng.inst i).owner)
include up active first

/-- A request for a grant that no other of its partition waits before is tried. -/
theorem exec_streamGrant : exec (.cellarStreamGrant i) s = .next (s.withEng ((s.eng.streamGive i).getD
    { s.eng with kpr := { s.eng.kpr with streamWait := s.eng.kpr.streamWait ++ [(i, s.eng.now)] } })) := by
  have none_ : s.eng.kpr.streamWait.filter (fun x => decide ((s.eng.inst x.1).owner = (s.eng.inst i).owner)) = [] :=
    List.filter_eq_nil_iff.mpr (fun x among => by rw [decide_eq_true_eq]; exact first x among)
  change execCellarStreamGrant i s = _
  rw [execCellarStreamGrant, liveOr_up up]
  dsimp only
  rw [active, none_]
  refine congrArg (fun y => Host.Outcome.next (s.withEng y)) ?_
  cases s.eng.streamGive i <;> rfl

theorem streamGrant_given (admits : s.eng.regOpen (s.eng.inst i).owner 0 65536 0 = true) :
    let e := s.eng
    let own := (e.inst i).owner
    ∃ t, exec (.cellarStreamGrant i) s = .next t ∧ .array (.streamGrant i 65536) ∈ t.eng.out ∧
      (∀ j, tgetD t.eng.kpr.streamGrants j 0 = tgetD e.kpr.streamGrants j 0 + (if j = i then 65536 else 0)) ∧
      (t.eng.part own).cellarB = (e.part own).cellarB + 65536 ∧
      (e.fb F.KPR_CTL_EN = true → e.av F.KPR_PART_CELLAR_RATE_RATE own ≠ 0 →
        (t.eng.part own).cellar = max (-(2 ^ 31 : Int)) ((e.part own).cellar - 65536)) ∧
      (∀ q, q ≠ own → t.eng.part q = e.part q) ∧ s.Only [12, 17] [] t := by
  intro e own
  have ran := exec_streamGrant up active first
  rw [Eng.streamGive_some admits, Option.getD_some] at ran
  have granted : e.Only [12, 17] [] (e.streamGranted i) := .setKpr e _ (by decide)
  have counted := Eng.Only.count (us := [17]) (offs := []) (e.streamGranted i) 0x1011 65536 (some own) (some i) (by decide)
  have part : ∀ q, (e.streamGranted i).part q = if q = own then
      { e.part own with
        store := if e.fb F.KPR_CTL_EN && decide ((e.rates own).1 ≠ 0) then levelSub (e.part own).store 0 else (e.part own).store
        cellar := if e.fb F.KPR_CTL_EN && decide ((e.rates own).2.1 ≠ 0) then levelSub (e.part own).cellar 65536 else (e.part own).cellar
        raf := if e.fb F.KPR_CTL_EN && decide ((e.rates own).2.2 ≠ 0) then levelSub (e.part own).raf 0 else (e.part own).raf
        storeB := (e.part own).storeB + 0, cellarB := (e.part own).cellarB + 65536, rafB := (e.part own).rafB + 0 }
      else e.part q := fun q => by
    change (e.regCharge own 0 65536 0).part q = _
    unfold Eng.regCharge
    exact e.part_modPart own q _
  have grants : ∀ j, tgetD (e.streamGranted i).kpr.streamGrants j 0 = if j = i then tgetD e.kpr.streamGrants i 0 + 65536 else tgetD e.kpr.streamGrants j 0 :=
    fun j => by
      change tgetD (tsetD e.kpr.streamGrants i (tgetD e.kpr.streamGrants i 0 + 65536) 0) j 0 = _
      exact tgetD_tsetD _ _ _ _ _
  have kpr : ((e.streamGranted i).count 0x1011 65536 (some own) (some i)).kpr = (e.streamGranted i).kpr := counted.parts 12 (by decide)
  have only := granted.trans (counted.weaken (us' := [12, 17]) (by decide) (by decide))
  generalize (e.streamGranted i).count 0x1011 65536 (some own) (some i) = z at ran kpr only
  have partZ : ∀ q, (z.tell (.streamGrant i 65536)).part q = (e.streamGranted i).part q := fun q => congrArg (fun k : Kpr => tgetD k.parts q {}) kpr
  refine ⟨_, ran, List.mem_cons_self, fun j => ?_, ?_, fun on rate => ?_, fun q apart => (partZ q).trans ((part q).trans (if_neg apart)),
    .withEng (only.trans (.tell z _))⟩
  · change tgetD z.kpr.streamGrants j 0 = _
    rw [kpr, grants]
    split
    · next here => rw [here]
    · rfl
  · exact congrArg KPart.cellarB ((partZ own).trans ((part own).trans (if_pos rfl)))
  · refine (congrArg KPart.cellar ((partZ own).trans ((part own).trans (if_pos rfl)))).trans (if_pos ?_)
    rw [on, Bool.true_and]
    exact decide_eq_true rate

end Stream

/-- Settles O44: each command of the Pantry, with what it leaves; a weight copy's last piece asks for the configurations of its model's loads. -/
theorem piecesAndGrants : Obligations.PiecesAndGrants := by
  unfold Obligations.PiecesAndGrants
  intro p k pipe i grp c src op s e b dom c' frame m own again
  refine ⟨fun absent => ?_, fun up => ⟨fun en serves free none_ picked => pieceStart_starts up en serves free none_ picked,
    fun runs found ready none_ => ⟨fun more => pieceDone_goes_on up runs found ready none_ more,
      fun all bulk opens weights free => pieceDone_ends up runs found ready none_ all bulk opens weights free⟩, ?_,
    fun active first => ⟨fun admits => streamGrant_given up active first admits, fun shut => ?_⟩⟩⟩
  · change execCellarStreamGrant i s = _
    rw [execCellarStreamGrant, liveOr_absent absent]
    rfl
  · change execOldFramesFreed grp s = _
    rw [execOldFramesFreed, live_up up]
    rfl
  · have none_ : e.streamGive i = none := if_neg (by rw [shut]; exact Bool.false_ne_true)
    refine (exec_streamGrant up active first).trans ?_
    rw [none_]
    rfl

end Sys2Proof.Machine
end

section
/-!
The selection unit's syllables and APPEND (O43): what an append changes, the grants of WFIT, and the candidates that fill the lanes.
-/
namespace Sys2Proof.Machine

/-! ### What an append changes -/

section Pins
variable {us offs : List Nat}

theorem Eng.Only.takeBlock {e e' : Eng} {i first : Nat} (took : e.takeBlock i first = some e') (shelver : 6 ∈ us) : e.Only us offs e' := by
  unfold Eng.takeBlock at took
  split at took
  · split at took <;> cases took
    exact .refl e
  · split at took
    · cases took
      exact .setShv e _ shelver
    · split at took <;> cases took
      exact .refl e

theorem Eng.Only.newGroup (e : Eng) (i kind key block owner : Nat) (half : Bool) (shelver : 6 ∈ us) (port : 17 ∈ us) :
    e.Only us offs (e.newGroup i kind key block owner half).2 := by
  have works : e.Only us offs (e.works 6) := .setDbg e _ port
  have fresh : (e.works 6).Only us offs (e.works 6).fresh.2 :=
    .of_parts rfl rfl (fun u _ => by unfold Eng.partSame; split <;> first | rfl | exact ⟨rfl, rfl, rfl, rfl⟩ | exact ⟨rfl, rfl⟩ | trivial)
  exact (works.trans fresh).trans (.setShv _ _ shelver)

theorem Eng.Only.mapPut {e e' : Eng} {s first block g : Nat} (put : e.mapPut s first block g = some e') (shelver : 6 ∈ us) :
    e.Only us offs e' := by
  have node : ∀ n x, e.takeNode first = some (n, x) → e.Only us offs x := by
    intro n x took
    unfold Eng.takeNode at took
    split at took
    · cases took
    · split at took
      · cases took
        exact .setShv e _ shelver
      · split at took <;> cases took
        exact .setShv e _ shelver
  unfold Eng.mapPut at put
  split at put
  · cases put
  · split at put
    · cases put
      exact .setShv e _ shelver
    · split at put
      · cases put
      · next n x took =>
        cases put
        exact (node n x took).trans (.setShv _ _ shelver)

theorem Eng.Only.pinGrp {e e' : Eng} {g : Nat} (pinned : e.pinGrp g = some e') (shelver : 6 ∈ us) : e.Only us offs e' := by
  unfold Eng.pinGrp at pinned
  split at pinned
  · cases pinned
  · split at pinned <;> cases pinned
    exact .setShv e _ shelver

theorem Eng.Only.pinAll {e e' : Eng} {l : List Nat} (pinned : pinAll e l = some e') (shelver : 6 ∈ us) : e.Only us offs e' := by
  induction l generalizing e with
  | nil => cases pinned; exact .refl _
  | cons g r ih =>
    unfold Machine.pinAll at pinned
    split at pinned
    · cases pinned
    · next x one => exact (Eng.Only.pinGrp one shelver).trans (ih pinned)

/-- Pinning a run of blocks changes the Shelver's part. -/
theorem Eng.Only.pinBlocks {n : Nat} {e e' : Eng} {s first i b : Nat} {l : List Nat} (pinned : pinBlocks e s first i b n = some (l, e'))
    (shelver : 6 ∈ us) (port : 17 ∈ us) : e.Only us offs e' := by
  induction n generalizing e b l with
  | zero => cases pinned; exact .refl _
  | succ k ih =>
    unfold Machine.pinBlocks at pinned
    dsimp only at pinned
    split at pinned
    · cases pinned
    · next g x got =>
      have upTo : e.Only us offs x := by
        split at got
        · cases got; exact .refl e
        · split at got
          · next y r took _ =>
            obtain ⟨z, put, same⟩ := Option.map_eq_some_iff.mp got
            cases same
            exact ((Eng.Only.takeBlock took shelver).trans (.newGroup _ _ _ _ _ _ _ shelver port)).trans (.mapPut put shelver)
          · cases got
      split at pinned
      · cases pinned
      · next y one =>
        obtain ⟨⟨m, z⟩, rest, same⟩ := Option.map_eq_some_iff.mp pinned
        cases same
        exact (upTo.trans (.pinGrp one shelver)).trans (ih rest)

/-- Pinning what a need asks for changes the Shelver's part. -/
theorem Eng.Only.pinNeed {e e' : Eng} {s i : Nat} {n : Need} {gs : List Nat} {ents : List CrateEnt}
    (pinned : e.pinNeed s i n = some (gs, ents, e')) (shelver : 6 ∈ us) (port : 17 ∈ us) : e.Only us offs e' := by
  unfold Eng.pinNeed at pinned
  split at pinned
  · split at pinned <;> cases pinned
    exact .refl e
  · extract_lets b at pinned
    generalize got : b = found at pinned
    split at pinned
    · cases pinned
    · next l x =>
      extract_lets w r blocks we re at pinned
      clear_value w r blocks we re
      split at pinned
      · cases pinned
      · obtain ⟨y, all, same⟩ := Option.map_eq_some_iff.mp pinned
        cases same
        refine Eng.Only.trans (b := x) ?_ (.pinAll all shelver)
        dsimp only [b] at got
        split at got
        · exact .pinBlocks got shelver port
        · cases got

theorem Eng.Only.traceBind (e : Eng) (i idx row : Nat) (x : Slot) (hatch : 1 ∈ us) (port : 17 ∈ us) :
    e.Only us offs (e.traceBind i idx row x) := .trace e _ hatch port

end Pins

/-- What a slot bound at its append may change: the Shelver's part, the voids counted, and what reports. -/
abbrev Eng.Binds (e e' : Eng) : Prop := e.Only [1, 6, 17] [F.CMP_VOID_COUNT.off] e'

/-- A slot that is made void is the sibling's still, with its budget. -/
theorem voidSlot_binds (e : Eng) (i idx row : Nat) (x : Slot) :
    e.Binds (e.voidSlot i idx row x).2 ∧ (e.voidSlot i idx row x).1.lslot = x.lslot ∧ (e.voidSlot i idx row x).1.tok = x.tok := by
  refine ⟨?_, rfl, rfl⟩
  have counted : e.Binds ((e.bump F.CMP_VOID_COUNT).count 0x1004 1 (some (rqPid x.rqid)) (some i)) :=
    Eng.Only.trans (.bump e _ _ _ (by decide) (by decide)) (.count _ _ _ _ _ (by decide))
  exact .ite (fun _ => counted) (fun _ => counted.trans (.traceBind _ _ _ _ _ (by decide) (by decide)))

/-- Completing the entries of a slot keeps its sibling and its budget. -/
theorem pinBound_binds {e e' : Eng} {x y : Slot} {r : LRec} (bound : e.pinBound x r = some (y, e')) :
    e.Binds e' ∧ y.lslot = x.lslot ∧ y.tok = x.tok := by
  unfold Eng.pinBound at bound
  split at bound
  · cases bound
    exact ⟨.refl e, rfl, rfl⟩
  · split at bound
    · cases bound
    · next gs z pinned =>
      cases bound
      exact ⟨(Eng.Only.pinBlocks pinned (by decide) (by decide)).trans (.setShv _ _ (by decide)), rfl, rfl⟩

/-- A slot that is bound is its sibling's still, with its budget. -/
theorem bindSlot_binds (e : Eng) (i idx : Nat) (x : Slot) :
    e.Binds (e.bindSlot i idx x).2 ∧ (e.bindSlot i idx x).1.lslot = x.lslot ∧ (e.bindSlot i idx x).1.tok = x.tok := by
  unfold Eng.bindSlot
  split
  · exact voidSlot_binds e i idx 2 x
  · split
    · exact voidSlot_binds e i idx 1 x
    · split
      · exact voidSlot_binds e i idx 2 x
      · split
        · exact voidSlot_binds e i idx 3 x
        · split
          · exact voidSlot_binds e i idx 5 x
          · split
            · exact voidSlot_binds e i idx 0 x
            · next y z bound =>
              obtain ⟨upTo, slot, tok⟩ := pinBound_binds bound
              refine ⟨upTo.trans (.ite (fun _ => .refl z) (fun _ => .traceBind z _ _ _ _ (by decide) (by decide))), ?_, ?_⟩
              · rw [← slot]
                dsimp only
                split <;> rfl
              · rw [← tok]
                dsimp only
                split <;> rfl

/-! ### APPEND -/

/-- What an append may change: the Composer's part beside. -/
abbrev Eng.Appends (e e' : Eng) : Prop := e.Only [1, 4, 6, 17] [F.CMP_VOID_COUNT.off, F.CMP_REJECT_COUNT.off, F.SHV_PIN_FAIL_COUNT.off] e'

theorem Eng.Binds.appends {e e' : Eng} (binds : e.Binds e') : e.Appends e' :=
  Eng.Only.weaken binds (by decide) (by decide)

/-- A slot that APPEND makes, and the engine in which it stands, before it is put into the composition: the instances keep their
compositions. -/
structure Eng.Makes (e : Eng) (i : Nat) (y : Slot) (e' : Eng) : Prop where
  only : e.Appends e'
  comp : (e'.inst i).comp = (e.inst i).comp

theorem Eng.Binds.makes {e e' : Eng} (binds : e.Binds e') (i : Nat) (y : Slot) : e.Makes i y e' := by
  refine ⟨binds.appends, ?_⟩
  have same : e'.cmp = e.cmp := binds.parts 4 (by decide)
  rw [Eng.inst, same, ← Eng.inst]

/-- What the last step of an append does. -/
def Eng.addSlot (e : Eng) (i : Nat) (y : Slot) : Eng := (e.modComp i (fun c => { c with slots := c.slots ++ [y] })).balance i

theorem Eng.addSlot_slots {e : Eng} {i : Nat} (composing : (e.inst i).comp.isSome = true) (y : Slot) :
    ((e.addSlot i y).comp i).slots = (e.comp i).slots ++ [y] := by
  obtain ⟨c, is⟩ := Option.isSome_iff_exists.mp composing
  have now : ((e.addSlot i y).inst i).comp = (e.inst i).comp.map (fun c => { c with slots := c.slots ++ [y] }) :=
    congrArg Inst.comp ((Eng.inst_modInst e i i (fun x => { x with comp := x.comp.map (fun c => { c with slots := c.slots ++ [y] }) })).trans
      (if_pos rfl))
  rw [Eng.comp, now, Eng.comp, is]
  rfl

/-- The candidate that an append takes, if it takes one: its code, and otherwise the slot that it makes and where. -/
theorem appendOne_cases (e : Eng) (i h n : Nat) :
    ((e.appendOne i h n).1 ≠ 0 ∧ (e.appendOne i h n).2.2.2 = e) ∨
    ∃ cnt y x, e.appendOne i h n = (0, (e.comp i).slots.length, cnt, x.addSlot i y) ∧ e.Makes i y x ∧ y.lslot = h % 2 ^ 24 ∧
      (y.reissue = false → y.tok = n) := by
  unfold Eng.appendOne
  extract_lets c idx v
  split
  · exact .inl ⟨Nat.one_ne_zero, rfl⟩
  · next s pre named =>
    have slot : s = h % 2 ^ 24 := by
      unfold Eng.unhandle at named
      split at named
      · cases named
      · split at named
        · split at named <;> cases named
          rfl
        · cases named
    split
    · exact .inl ⟨Nat.one_ne_zero, rfl⟩
    · next r known =>
      extract_lets turn fit need cnt code
      split
      · next refused => exact .inl ⟨refused, rfl⟩
      · split
        · exact .inl ⟨(by decide : (7 : Nat) ≠ 0), rfl⟩
        · next pins ents z pinned =>
          have pinning : e.Binds z := .pinNeed pinned (by decide) (by decide)
          refine .inr ⟨_, _, _, rfl, ?_⟩
          split
          · next lost carried =>
            have sibling : lost.lslot = s := by
              have test := List.find?_some carried
              simp only [decide_eq_true_eq] at test
              exact test.1
            have traced : e.Binds (z.traceBind i idx 1 lost) := Eng.Only.trans pinning (.traceBind z _ _ _ _ (by decide) (by decide))
            refine ⟨⟨?_, ?_⟩, sibling.trans slot, fun one => absurd one.symm Bool.false_ne_true⟩
            · exact Eng.Only.trans traced.appends (.setCmp _ _ (by decide))
            · exact (congrArg Inst.comp ((Eng.inst_modInst _ i i _).trans (if_pos rfl))).trans (traced.makes i lost).comp
          · split
            · obtain ⟨binds, same, tok⟩ := bindSlot_binds z i idx _
              have made : e.Binds _ := Eng.Only.trans pinning binds
              exact ⟨made.makes i _, same.trans slot, fun _ => tok⟩
            · exact ⟨pinning.makes i _, slot, fun _ => rfl⟩

theorem Eng.Only.appendOne (e : Eng) (i h n : Nat) : e.Appends (e.appendOne i h n).2.2.2 := by
  rcases appendOne_cases e i h n with ⟨_, same⟩ | ⟨cnt, y, x, is, made, _⟩
  · rw [same]
    exact .refl e
  · rw [is]
    exact made.only.trans (Eng.Only.trans (.setCmp x _ (by decide)) (.setShv _ _ (by decide)))

theorem Eng.Only.appendLane (e : Eng) (i h n : Nat) : e.Appends (e.appendLane i h n).2.2 := by
  unfold Eng.appendLane
  extract_lets a c x y lane z
  have taken : e.Appends a.2.2.2 := .appendOne e i h n
  have counted : a.2.2.2.Appends x :=
    .ite (fun _ => .refl _) (fun _ => Eng.Only.trans (.bump _ _ _ _ (by decide) (by decide)) (.setCmp _ _ (by decide)))
  have pinned : x.Appends y := .ite (fun _ => .bump _ _ _ _ (by decide) (by decide)) (fun _ => .refl _)
  refine (taken.trans (counted.trans pinned)).trans ?_
  have traced : ∀ t, y.Appends (y.trace t) := fun t => .trace y t (by decide) (by decide)
  change y.Appends z
  dsimp only [z]
  split
  · exact traced _
  · exact traced _

/-- The lanes of an append leave the Steward's part. -/
theorem appendLanes_stw (e : Eng) (i : Nat) (l : List (Nat × Nat × Nat)) : (appendLanes e i l).2.2.stw = e.stw := by
  induction l generalizing e with
  | nil => rfl
  | cons a l ih =>
    obtain ⟨lane, h, g⟩ := a
    exact (ih _).trans ((Eng.Only.appendLane e i h g).parts 5 (by decide))

/-! ### The grants of WFIT -/

/-- What a lane is granted of a budget: its want, or what its class may take of the rest. -/
def fitGrant (want : Nat) (cls : Bool) (avail : Nat) : Nat :=
  let gran := if cls then 64 else 1
  if want ≤ avail then want else if avail / gran * gran < gran then 0 else avail / gran * gran

theorem fitGrant_whole {want : Nat} (cls : Bool) {avail : Nat} (fits : want ≤ avail) : fitGrant want cls avail = want := if_pos fits

theorem fitGrant_le (want : Nat) (cls : Bool) (avail : Nat) : fitGrant want cls avail ≤ want ∧ fitGrant want cls avail ≤ avail := by
  unfold fitGrant
  extract_lets gran
  by_cases fits : want ≤ avail
  · rw [if_pos fits]
    exact ⟨le_rfl, fits⟩
  · have cut : avail / gran * gran ≤ avail := Nat.div_mul_le_self _ _
    rw [if_neg fits]
    split <;> omega

/-- A lane that is turned off, or comes after the fit has stopped, is granted nothing. -/
theorem wfit_skip {want : Nat} {cls en : Bool} {stop : Bool} (r : List (Nat × Bool × Bool)) (avail slots : Nat) (fit : Bool)
    (skip : en = false ∨ stop = true) :
    wfit ((want, cls, en) :: r) avail slots stop fit = (0 :: (wfit r avail slots stop fit).1, (wfit r avail slots stop fit).2) := by
  have test : (!en || stop) = true := by rcases skip with rfl | rfl <;> simp
  exact if_pos test

/-- Without a slot left the fit stops. -/
theorem wfit_full (want : Nat) (cls : Bool) (r : List (Nat × Bool × Bool)) (avail : Nat) (fit : Bool) :
    wfit ((want, cls, true) :: r) avail 0 false fit = (0 :: (wfit r avail 0 true fit).1, (wfit r avail 0 true fit).2) := rfl

/-- A lane that is served is granted its part, and the fit goes on where that is all that it wants. -/
theorem wfit_serve (want : Nat) (cls : Bool) (r : List (Nat × Bool × Bool)) (avail : Nat) {slots : Nat} (fit : Bool) (room : slots ≠ 0) :
    wfit ((want, cls, true) :: r) avail slots false fit =
      let g := fitGrant want cls avail
      let x := wfit r (avail - g) (if g = 0 then slots else slots - 1) (!decide (want ≤ avail)) (fit || !decide (want ≤ avail))
      (g :: x.1, x.2) := by
  have grant : (if decide (want ≤ avail) = true then want
      else if avail / (if cls then 64 else 1) * (if cls then 64 else 1) < (if cls then 64 else 1) then 0
        else avail / (if cls then 64 else 1) * (if cls then 64 else 1)) = fitGrant want cls avail := by
    simp only [decide_eq_true_eq]
    rfl
  rw [wfit, if_neg (by simp), if_neg room]
  dsimp only
  rw [grant]

/-- What holds of the grants: by lane no more than the want, in all no more than the budget, and no more of them than slots. -/
structure Fits (l : List (Nat × Bool × Bool)) (avail slots : Nat) (grants : List Nat) : Prop where
  length : grants.length = l.length
  wants : ∀ k x, l[k]? = some x → grants.getD k 0 ≤ if x.2.2 then x.1 else 0
  budget : grants.sum ≤ avail
  slots : (grants.filter (fun g => decide (g ≠ 0))).length ≤ slots

/-- One lane more. -/
theorem Fits.cons {l : List (Nat × Bool × Bool)} {avail slots g : Nat} {grants : List Nat} {want : Nat} {cls en : Bool}
    (rest : Fits l (avail - g) (if g = 0 then slots else slots - 1) grants) (wanted : g ≤ if en then want else 0) (paid : g ≤ avail)
    (room : g = 0 ∨ slots ≠ 0) : Fits ((want, cls, en) :: l) avail slots (g :: grants) := by
  obtain ⟨length, wants, budget, count⟩ := rest
  refine ⟨congrArg (· + 1) length, fun k x is => ?_, ?_, ?_⟩
  · rcases k with _ | k
    · obtain rfl := Option.some.inj is
      exact wanted
    · exact wants k x is
  · rw [List.sum_cons]
    omega
  · rw [List.filter_cons]
    by_cases none : g = 0
    · simpa [none] using count
    · rw [if_neg none] at count
      rw [if_pos (decide_eq_true none), List.length_cons]
      have some := room.resolve_left none
      omega

theorem wfit_fits (l : List (Nat × Bool × Bool)) (avail slots : Nat) (stop fit : Bool) : Fits l avail slots (wfit l avail slots stop fit).1 := by
  induction l generalizing avail slots stop fit with
  | nil => exact ⟨rfl, fun _ _ none => absurd none (Option.some_ne_none _).symm, Nat.zero_le _, Nat.zero_le _⟩
  | cons y r ih =>
    obtain ⟨want, cls, en⟩ := y
    have zero : ∀ stop fit, Fits ((want, cls, en) :: r) avail slots (0 :: (wfit r avail slots stop fit).1) := fun stop fit =>
      .cons (ih avail slots stop fit) (Nat.zero_le _) (Nat.zero_le _) (.inl rfl)
    by_cases skip : en = false ∨ stop = true
    · rw [wfit_skip r avail slots fit skip]
      exact zero stop fit
    · obtain ⟨rfl, rfl⟩ : en = true ∧ stop = false := by
        rcases en with _ | _ <;> rcases stop with _ | _ <;> simp_all
      by_cases full : slots = 0
      · subst full
        rw [wfit_full]
        exact zero true fit
      · rw [wfit_serve want cls r avail fit full]
        exact .cons (ih _ _ _ _) (fitGrant_le _ _ _).1 (fitGrant_le _ _ _).2 (.inr full)

/-- Where the budget and the slots suffice, each lane that is enabled has what it wants, and the fit does not stop. -/
theorem wfit_all (l : List (Nat × Bool × Bool)) (avail slots : Nat) (fit : Bool)
    (budget : ((l.filter (fun x => x.2.2)).map (fun x => x.1)).sum ≤ avail) (room : (l.filter (fun x => x.2.2)).length ≤ slots) :
    wfit l avail slots false fit = (l.map (fun x => if x.2.2 then x.1 else 0), fit) := by
  induction l generalizing avail slots with
  | nil => rfl
  | cons y r ih =>
    obtain ⟨want, cls, en⟩ := y
    rcases en with _ | _
    · rw [wfit_skip r avail slots fit (.inl rfl), ih avail slots budget room]
      rfl
    · simp only [List.filter_cons, if_true, List.map_cons, List.sum_cons, List.length_cons] at budget room
      have fits : want ≤ avail := by omega
      have rest := ih (avail - want) (if want = 0 then slots else slots - 1) (by omega) (by split <;> omega)
      rw [wfit_serve want cls r avail fit (by omega), fitGrant_whole cls fits, decide_eq_true fits, Bool.not_true, Bool.or_false]
      dsimp only
      rw [rest]
      rfl

/-! ### The lanes that are filled -/

theorem length_takeWhile_ne (l : List Nat) (k : Nat) : (l.takeWhile (fun j => decide (j ≠ k))).length = l.idxOf k := by
  induction l with
  | nil => rfl
  | cons a l ih =>
    by_cases same : a = k
    · simp [same]
    · simp only [List.takeWhile_cons, ne_eq, same, not_false_eq_true, decide_true, if_true, List.length_cons,
        List.idxOf_cons_ne _ same]
      exact congrArg (· + 1) ih

/-- The handle that a lane is filled with, 0 where no candidate is left for it. -/
def Eng.handleAt (e : Eng) (i : Nat) (p : Option (Nat × Bool)) : DWord :=
  match p with
  | some p => BitVec.ofNat 64 ((e.asSeen i).handle p)
  | none => 0

/-- The writes of candidates to the lanes listed. -/
def Eng.fillWrites (e : Eng) (i : Nat) (on : List Nat) (d c : Nat) (l : List (Nat × Bool)) (v : BitVec 4) : List BWrite :=
  (List.range on.length).map (fun k => .lane (4 * d + on.getD k 0) (e.handleAt i l[k]?)) ++ [.pred c v]

/-- The lanes that candidates fill, lane 0 first. -/
def filledMask (on : List Nat) (n : Nat) : BitVec 4 := pmask (fun k => on.contains k && decide (on.idxOf k < n))

theorem filledMask_bit (on : List Nat) (n l : Nat) (low : l < 4) : (filledMask on n).getLsbD l = decide (l ∈ on.take n) := by
  rw [filledMask, pmask_bit _ l low]
  by_cases listed : l ∈ on
  · simp [List.mem_take_iff_idxOf_lt listed, listed]
  · have out : l ∉ on.take n := fun h => listed (List.mem_of_mem_take h)
    simp [listed, out]

/-- Filling the lanes queues the candidates' handles, and tells which lanes are filled. -/
theorem Eng.fillLanes_eq (e : Eng) (g : BitVec 3) (gn : Bool) (d : BitVec 5) (c : BitVec 3) (l : List (Nat × Bool)) :
    e.fillLanes g gn d c l =
      e.laters (e.fillWrites (e.stw.run.getD 0) (e.enabledLanes g gn) d.toNat c.toNat l (filledMask (e.enabledLanes g gn) l.length)) := by
  have once : (e.enabledLanes g gn).Nodup := List.Nodup.filter _ (by decide : lanes4.Nodup)
  unfold Eng.fillLanes
  extract_lets on pos e'
  have place : ∀ k, pos k = on.idxOf k := length_takeWhile_ne on
  have lanes : e' = e.laters (on.map (fun k => .lane (4 * d.toNat + k) (e.handleAt (e.stw.run.getD 0) l[pos k]?))) :=
    e.laneWrites_eq g gn d.toNat (fun k => e.handleAt (e.stw.run.getD 0) l[pos k]?)
  have ordered : on.map (fun k => BWrite.lane (4 * d.toNat + k) (e.handleAt (e.stw.run.getD 0) l[pos k]?)) =
      (List.range on.length).map (fun k => BWrite.lane (4 * d.toNat + on.getD k 0) (e.handleAt (e.stw.run.getD 0) l[k]?)) := by
    refine List.ext_getElem (by simp) (fun k below _ => ?_)
    have short : k < on.length := by simpa using below
    have here : on.idxOf on[k] = k := List.Nodup.idxOf_getElem once k short
    simp [place, here, short]
  rw [lanes, ordered]
  simp only [place, Eng.later, Eng.laters, Eng.fillWrites, filledMask, List.append_assoc]
  rfl

/-! ### Fields of the Ledger -/

/-- The field of the candidate that a handle names: 0 where it names none, and none where R243 lists no such field. -/
def Eng.laneField (e : Eng) (i k h : Nat) : Option DWord :=
  match e.candidate i h with
  | none => some 0
  | some p => (e.asSeen i).ledgerField i p k

/-- One lane of LFLD. -/
def Eng.fieldTo (x : Eng) (n : Nat) (v : Option DWord) : Eng :=
  match v with
  | some v => x.later (.lane n v)
  | none => let f := x.fresh; f.2.later (.lane n f.1)

/-- Every field that R243 lists has a value. -/
theorem ledgerField_listed (e : Eng) (i : Nat) (p : Nat × Bool) {k : Nat} (listed : k ≤ 15) : ∃ v, e.ledgerField i p k = some v := by
  unfold Eng.ledgerField
  cases e.rc p.1 with
  | none => exact ⟨_, rfl⟩
  | some r =>
    dsimp only
    cases e.slack i p.1 (e.comp i).start with
    | none => interval_cases k <;> exact ⟨_, rfl⟩
    | some x => interval_cases k <;> exact ⟨_, rfl⟩

/-- The fields that the record holds. -/
theorem ledgerField_record {e : Eng} {i : Nat} {p : Nat × Bool} {r : LRec} (is : e.rc p.1 = some r) {k : Nat} (listed : k ≤ 7) :
    e.ledgerField i p k = some (BitVec.ofNat 64 ([rqPid r.rqid, r.state, r.pos, r.promptLen, r.newCount, r.maxNew, r.relDeadline,
      r.submitStamp].getD k 0)) := by
  unfold Eng.ledgerField
  rw [is]
  dsimp only
  interval_cases k <;> rfl

/-- The lanes of LFLD: each gets its field, or some value where there is none. -/
theorem foldl_fieldTo (l : List Nat) (d : Nat) (field : Nat → Option DWord) (once : l.Nodup) (x : Eng) :
    ∃ (n : Nat) (v : Nat → DWord),
      l.foldl (fun x k => x.fieldTo (4 * d + k) (field k)) x =
        { x with free := n, stw := { x.stw with wr := x.stw.wr ++ l.map (fun k => .lane (4 * d + k) (v k)) } } ∧
      ((∀ k, ∃ w, field k = some w) → n = x.free) ∧ ∀ k ∈ l, ∀ w, field k = some w → v k = w := by
  induction l generalizing x with
  | nil => exact ⟨x.free, fun _ => 0, by simp, fun _ => rfl, fun _ none => absurd none List.not_mem_nil⟩
  | cons a l ih =>
    obtain ⟨apart, rest⟩ := List.nodup_cons.mp once
    obtain ⟨n, v, runs, counted, values⟩ := ih rest (x.fieldTo (4 * d + a) (field a))
    have others : ∀ w, l.map (fun k => BWrite.lane (4 * d + k) (if k = a then w else v k)) = l.map (fun k => BWrite.lane (4 * d + k) (v k)) :=
      fun w => List.map_congr_left (fun k hk => by rw [if_neg (fun same : k = a => apart (same ▸ hk))])
    cases is : field a with
    | some w =>
      refine ⟨n, fun k => if k = a then w else v k, ?_, fun all => ?_, fun k hk u has => ?_⟩
      · rw [List.foldl_cons, runs, is, List.map_cons, others]
        simp [Eng.fieldTo, Eng.later]
      · rw [counted all, is]
        rfl
      · by_cases first : k = a
        · rw [first, is] at has
          simp [first, Option.some.inj has]
        · simpa [first] using values k ((List.mem_cons.mp hk).resolve_left first) u has
    | none =>
      refine ⟨n, fun k => if k = a then x.fresh.1 else v k, ?_, fun all => ?_, fun k hk u has => ?_⟩
      · rw [List.foldl_cons, runs, is, List.map_cons, others]
        simp [Eng.fieldTo, Eng.later, Eng.fresh]
      · obtain ⟨w, has⟩ := all a
        cases is.symm.trans has
      · by_cases first : k = a
        · rw [first, is] at has
          cases has
        · simpa [first] using values k ((List.mem_cons.mp hk).resolve_left first) u has

/-! ### The grants by lane -/

/-- The sum over the lanes of a list that holds nothing at a lane that is not enabled. -/
theorem sum_enabled_le (on : List Nat) (grants : List Nat) (four : grants.length = 4) (lanes : on.Sublist (List.range 4)) :
    (on.map (fun l => grants.getD l 0)).sum ≤ grants.sum := by
  have all : (List.range 4).map (fun l => grants.getD l 0) = grants := by
    refine List.ext_getElem (by simp [four]) (fun k h1 h2 => by simp [h2])
  calc (on.map (fun l => grants.getD l 0)).sum
      ≤ ((List.range 4).map (fun l => grants.getD l 0)).sum := (lanes.map _).sum_le_sum (fun _ _ => Nat.zero_le _)
    _ = grants.sum := by rw [all]

theorem count_enabled_le (on : List Nat) (grants : List Nat) (four : grants.length = 4) (lanes : on.Sublist (List.range 4)) :
    (on.filter (fun l => decide (grants.getD l 0 ≠ 0))).length ≤ (grants.filter (fun g => decide (g ≠ 0))).length := by
  have all : (List.range 4).map (fun l => grants.getD l 0) = grants := by
    refine List.ext_getElem (by simp [four]) (fun k h1 h2 => by simp [h2])
  calc (on.filter (fun l => decide (grants.getD l 0 ≠ 0))).length
      ≤ ((List.range 4).filter (fun l => decide (grants.getD l 0 ≠ 0))).length := (lanes.filter _).length_le
    _ = (grants.filter (fun g => decide (g ≠ 0))).length := by
      conv_rhs => rw [← all, List.filter_map, List.length_map]
      rfl

theorem Eng.laters_later (e : Eng) (l : List BWrite) (w : BWrite) : (e.laters l).later w = e.laters (l ++ [w]) := by
  simp [Eng.later, Eng.laters]

/-- A syllable that the Steward issues closes its bundle. -/
theorem appends_acts {s : State} (up : s.boot.absent = false) (issues : s.eng.stwIssues = true) (f : Eng → Eng) :
    live s (fun e => if e.stwIssues then f e else e) = .next (s.withEng (f s.eng)) := by
  rw [live_up up, if_pos issues]

/-- Settles O43: the lanes that candidates fill, the fields of the Ledger, the grants of the fit, and the slots that an append makes. -/
theorem selectionResults : Obligations.SelectionResults := by
  intro gn g c d a b imm s
  have empty : ∀ l : List Nat, l.isEmpty = false ↔ l ≠ [] := fun l => by cases l <;> simp
  refine ⟨fun undefined issues acts => ?_, fun up issues => ?_⟩
  · exact if_pos ⟨by omega, issues, (empty _).mpr acts⟩
  intro e i A B on close filled marks drew next ins r
  have writes : ∀ l n, filled l (filledMask on n) = e.fillWrites i on d.toNat c.toNat l (filledMask on n) := fun l n => rfl
  have lanes : on.Sublist (List.range 4) := List.filter_sublist
  refine ⟨fun defined => ?begin, ⟨filledMask on drew.length, ?sel, fun l low => filledMask_bit on _ l low⟩, ?draws,
    ⟨filledMask on next.length, ?scan, fun l low => filledMask_bit on _ l low⟩, ?field, ?fit, ?append, fun h n composing => ?one⟩
  case begin =>
    have allowed : ¬(1 < imm.toNat ∧ s.issues = true ∧ (e.enabledLanes g gn).isEmpty = false) := by
      rintro ⟨large, _, acts⟩
      exact defined.elim (fun small => absurd small (by omega)) (fun none => (empty _).mp acts none)
    change execKBegin g gn imm s = _
    rw [execKBegin, if_neg allowed, wide_acts up issues]
    refine congrArg (fun y : Eng => Host.Outcome.next (s.withEng (y.closeBundle 2000))) ?_
    by_cases none : on = []
    · have shut : (e.enabledLanes g gn).isEmpty = true := List.isEmpty_iff.mpr none
      dsimp only
      rw [if_pos shut, if_pos none, List.append_nil]
    · have opened : ¬(e.enabledLanes g gn).isEmpty = true := fun shut => none (List.isEmpty_iff.mp shut)
      dsimp only
      rw [if_neg opened, if_neg none, List.append_nil]
  case sel =>
    change execKSel g gn d c s = _
    rw [execKSel, wide_acts up issues, writes]
    dsimp only
    rw [Eng.fillLanes_eq]
    rfl
  case draws =>
    intro done
    have none : e.kselReady i = [] := by
      unfold Eng.kselReady
      dsimp only
      split
      · rfl
      · refine if_pos ?_
        rcases done with stop | full | spent
        · exact Bool.or_eq_true_iff.mpr (.inl stop)
        · exact Bool.or_eq_true_iff.mpr (.inr (decide_eq_true (.inl full)))
        · exact Bool.or_eq_true_iff.mpr (.inr (decide_eq_true (.inr spent)))
    exact (congrArg (List.take on.length) none).trans List.take_nil
  case scan =>
    change execLScan g gn d c s = _
    rw [execLScan, wide_acts up issues, writes]
    dsimp only
    rw [Eng.fillLanes_eq]
    change (Host.Outcome.next (s.withEng (Eng.closeBundle (match next.getLast? with
      | some p => _
      | none => _) 1)) : Host.Outcome State Fault Refusal) = _
    cases next.getLast? with
    | none => rfl
    | some p => rfl
  case field =>
    obtain ⟨n, v, runs, counted, values⟩ :=
      foldl_fieldTo on d.toNat (fun l => e.laneField i imm.toNat (A l).toNat) (List.nodup_range.filter _) e
    refine ⟨n, v, ?_, fun listed => counted (fun l => ?_), fun l hl => ⟨fun none => ?_, fun p q named is small => ?_⟩⟩
    · change execLFld g gn d a imm s = _
      rw [execLFld, wide_acts up issues, ← runs]
      refine congrArg (fun y : Eng => Host.Outcome.next (s.withEng (y.closeBundle 1))) ?_
      refine congrArg (fun f => on.foldl f e) (funext (fun x => funext (fun l => ?_)))
      unfold Eng.laneField Eng.fieldTo
      cases e.candidate i (A l).toNat with
      | none => rfl
      | some p => rfl
    · unfold Eng.laneField
      split
      · exact ⟨0, rfl⟩
      · exact ledgerField_listed _ _ _ listed
    · refine values l hl 0 ?_
      unfold Eng.laneField
      rw [none]
    · refine values l hl _ ?_
      unfold Eng.laneField
      rw [named]
      exact ledgerField_record is small
  case fit =>
    let want := fun l => ((A l).toNat, (B l).getLsbD 30, e.guardLane g gn l)
    let fit := wfit (lanes4.map want) (e.budgetLeft i (e.comp i)) (e.slotsLeft i (e.comp i)) false false
    have fits : Fits (lanes4.map want) (e.budgetLeft i (e.comp i)) (e.slotsLeft i (e.comp i)) fit.1 := wfit_fits _ _ _ _ _
    have four : fit.1.length = 4 := fits.length
    have wanted : ∀ l, l < 4 → fit.1.getD l 0 ≤ if e.guardLane g gn l then (A l).toNat else 0 := fun l low =>
      fits.wants l (want l) (by interval_cases l <;> rfl)
    have low : ∀ l ∈ on, l < 4 := fun l hl => List.mem_range.mp (List.mem_of_mem_filter hl)
    have enabled : ∀ l ∈ on, e.guardLane g gn l = true := fun l hl => (List.mem_filter.mp hl).2
    refine ⟨pmask (fun l => decide (0 < fit.1.getD l 0)), fun l => fit.1.getD l 0, fit.2, ?runs, fun l hl => ?_,
      (sum_enabled_le on fit.1 four lanes).trans fits.budget, (count_enabled_le on fit.1 four lanes).trans fits.slots, fun l hl => ?_,
      fun budget room => ?_⟩
    case runs =>
      change execWFit g gn d a b c s = _
      rw [execWFit, wide_acts up issues]
      refine congrArg (fun y : Eng => Host.Outcome.next (s.withEng (y.closeBundle 1))) ?_
      dsimp only
      rw [Eng.laneWrites_eq, Eng.laters_later]
      change (if fit.2 = true then _ else _) = _
      cases fit.2 with
      | false => rw [Bool.or_false]; rfl
      | true => rw [Bool.or_true]; rfl
    · have most := wanted l (low l hl)
      rw [enabled l hl, if_pos rfl] at most
      exact most
    · rw [pmask_bit _ l hl]
      refine decide_eq_decide.mpr ⟨fun granted => ⟨?_, granted.ne'⟩, fun granted => Nat.pos_of_ne_zero granted.2⟩
      refine List.mem_filter.mpr ⟨List.mem_range.mpr hl, ?_⟩
      by_contra shut
      have none : fit.1.getD l 0 ≤ 0 := (wanted l hl).trans_eq (if_neg shut)
      omega
    · have asked : (lanes4.map want).filter (fun x => x.2.2) = on.map want := by rw [List.filter_map]; rfl
      have all : fit = ((lanes4.map want).map (fun x => if x.2.2 then x.1 else 0), false) :=
        wfit_all _ _ _ _ (by rw [asked, List.map_map]; exact budget) (by rw [asked, List.length_map]; exact room)
      refine ⟨congrArg Prod.snd all, fun l hl => ?_⟩
      have here : ((lanes4.map want).map (fun x => if x.2.2 then x.1 else 0)).getD l 0 = if e.guardLane g gn l then (A l).toNat else 0 := by
        have below := low l hl
        interval_cases l <;> rfl
      exact (congrArg (fun l' : List Nat => l'.getD l 0) (congrArg Prod.fst all)).trans (here.trans (if_pos (enabled l hl)))
  case append =>
    change execAppend g gn d a b s = _
    rw [execAppend, appends_acts up issues]
    refine congrArg (fun y : Eng => Host.Outcome.next (s.withEng (y.closeBundle (8 + (r.2.1 - 64 + 7) / 8)))) ?_
    change r.1.foldl (fun x p => x.later (.lane (4 * d.toNat + p.1) (BitVec.ofNat 64 p.2))) r.2.2 = _
    have steward : r.2.2.stw = e.stw := appendLanes_stw e i ins
    have queued := Eng.foldl_laters r.1 (fun x p => x.later (.lane (4 * d.toNat + p.1) (BitVec.ofNat 64 p.2)))
      (fun p => [.lane (4 * d.toNat + p.1) (BitVec.ofNat 64 p.2)]) (fun _ _ => rfl) r.2.2
    rw [queued, ← List.map_eq_flatMap, Eng.laters, steward]
  case one =>
    rcases appendOne_cases e i h n with ⟨refused, same⟩ | ⟨cnt, y, x, is, made, slot, tok⟩
    · exact ⟨fun _ => same, fun taken => absurd taken refused⟩
    · refine ⟨fun refused => absurd (by rw [is]) refused, fun _ => ⟨by rw [is], y, ?_, slot, tok⟩⟩
      have composing' : (x.inst i).comp.isSome = true := by rw [made.comp]; exact composing
      rw [is]
      refine (Eng.addSlot_slots composing' y).trans ?_
      rw [Eng.comp, made.comp]
      rfl

end Sys2Proof.Machine
end

section
/-!
The restore of a context, and the discard of an image (O51).
-/
namespace Sys2Proof.Machine

/-! ### What is traced -/

/-- A trace record leaves Hatch. -/
theorem Eng.trace_hat (e : Eng) (t : TraceRec) : (e.trace t).hat = e.hat := by
  unfold Eng.trace
  split
  · exact (Eng.Only.count (us := [17]) (offs := []) _ _ _ _ _ (by decide)).parts 1 (by decide)
  · rfl

/-- A trace record changes what counts alone. -/
theorem Eng.Only.traced {us offs : List Nat} (e : Eng) (t : TraceRec) (port : 17 ∈ us) : e.Only us offs (e.trace t) := by
  have reports : e.Reports (e.trace t) := e.trace_reports t
  have hat : (e.trace t).hat = e.hat := e.trace_hat t
  generalize e.trace t = z at reports hat
  refine ⟨fun u out => ?_, fun o s low _ tally _ => reports.regs o s low tally, reports.out⟩
  have apart : u ≠ 17 := fun same => out (same ▸ port)
  unfold Eng.partSame
  split
  case h_2 => exact hat
  case h_18 => exact absurd rfl apart
  case h_21 => trivial
  all_goals rw [reports.rest]
  all_goals trivial

/-! ### The command word -/

section Command
variable {w : Word}

/-- GO of an operation, with no command in progress. -/
theorem Eng.ctxGo_of {e : Eng} {op : Nat} (go : w.getLsbD 31 = true) (idle : e.kpr.cmd = none) (is : w.toNat % 8 = op) : e.ctxGo w op = true := by
  have field : bitsOf w.toNat 2 0 = op := (congrArg (· % 2 ^ 3) (Nat.div_one w.toNat)).trans is
  rw [Eng.ctxGo, bitOf_toNat, go, idle, field, decide_eq_true rfl]
  rfl

theorem ctxInst_of {i : Nat} (is : w.toNat / 2 ^ 8 % 16 = i) : ctxInst w = i := is

end Command

/-- Keeper's part changes, and something is sent. -/
theorem Eng.Only.setKprOut {us offs : List Nat} (e : Eng) (x : Kpr) (o : Out) (keeper : 12 ∈ us) :
    e.Only us offs { e with kpr := x, out := o :: e.out } :=
  Eng.Only.trans (.setKpr e x keeper) (.emit { e with kpr := x } o)

/-- The command word changes its register alone. -/
theorem Eng.Only.ctxCmdWrite (e : Eng) (w : Word) : e.Only [12] [0xC100] (e.ctxCmdWrite w) := .putReg e _ _ _ (by decide) (by decide)

/-- A refused RESTORE ends the command with its status. -/
theorem restoreRefused_spec (e : Eng) (i dest status : Nat) :
    (e.restoreRefused i dest status).kpr = { e.kpr with cmd := none, cmdStatus := status } ∧ e.Only [12, 17] [0xC100] (e.restoreRefused i dest status) :=
  ⟨(Eng.trace_reports _ _).kpr_eq, Eng.Only.trans (.setKpr e _ (by decide)) (.traced _ _ (by decide))⟩

/-! ### The start of a restore -/

/-- A pair of registers holds 64 bits. -/
theorem Eng.pairv_lt (e : Eng) (off sel : Nat) : e.pairv off sel < 2 ^ 64 := by
  have low := (e.reg off sel).isLt
  have high := (e.reg (off + 4) sel).isLt
  unfold Eng.pairv two32
  omega

/-- A context that is to be restored. -/
def Ctx.restoring (c : Ctx) (t : Nat) (logical : Bool) : Ctx :=
  { c with state := 3, want := 0, next := false, cfgIn := false, readyAt := t, logicalOnly := logical, exported := none }

/-- The question for the configuration of an image. -/
def Eng.askOf (e : Eng) (i cfg : Nat) : Out :=
  .array (.loadConfig i cfg (e.fv F.KPR_PART_TILES_GROUPS (e.inst i).owner) (e.instModel i).cfgAddr)

/-- A restore of an image without array state starts: the context is RESTORING, its image is read, and the array is asked for its
configuration. -/
theorem restoreStart_spec {e : Eng} {i : Nat} {logical : Bool} (bare : (e.ctx i).frozen = false) (free : e.av F.KPR_LEAVE_AMT_CONFIG = 0) :
    ∃ ctxs parts, e.restoreStart i logical none = { e with out := e.askOf i (e.ctx i).imgCfg :: e.out, kpr := { e.kpr with
        ctxs, parts, back := e.kpr.back.filter (fun j => decide (j ≠ i)) } } ∧
      (∀ k, tgetD ctxs k {} = if k = i then (e.ctx i).restoring e.now logical else e.ctx k) ∧
      ∀ p, tgetD parts p {} = { e.part p with storeB := (e.part p).storeB + if p = (e.inst i).owner then (e.ctx i).imgBytes else 0 } := by
  let bill := fun k : KPart => { k with storeB := k.storeB + (e.ctx i).imgBytes, cellarB := k.cellarB + 0, rafB := k.rafB + 0 }
  let begun := e.modCtx i (fun c => c.restoring e.now logical)
  let paid := { begun with kpr := { begun.kpr with back := begun.kpr.back.filter (fun j => decide (j ≠ i)) } }.modPart (e.inst i).owner bill
  have whole : ((e.ctx i).frozen && !logical) = false := by rw [bare]; rfl
  have start : e.restoreStart i logical none = paid.askConfig i (e.ctx i).imgCfg := by
    unfold Eng.restoreStart
    dsimp only
    rw [whole]
    exact congrArg (fun y : Eng => y.askConfig i (e.ctx i).imgCfg) (if_pos (Eng.pairv_lt _ _ _))
  refine ⟨paid.kpr.ctxs, paid.kpr.parts, ?_, fun k => ?_, fun p => ?_⟩
  · rw [start]
    exact if_pos free
  · exact Eng.ctx_modCtx e i (fun c => c.restoring e.now logical) k
  · refine (Eng.part_modPart _ (e.inst i).owner p bill).trans ?_
    by_cases own : p = (e.inst i).owner
    · rw [if_pos own, if_pos own, own]
      rfl
    · rw [if_neg own, if_neg own]
      rfl

/-- What a LOCAL restore is checked for holds. -/
theorem localCheck_passes {e : Eng} {i ring : Nat} {logical : Bool} {others : List DWord} (kept : (e.ctx i).gone = false)
    (active : (e.inst i).active = true) (saved : (e.ctx i).state = 2) (own : e.ringPid ring = (e.inst i).owner) (bare : (e.ctx i).frozen = false) :
    e.localCheck i ring logical others = 0 := by
  unfold Eng.localCheck
  dsimp only
  rw [kept, active, decide_eq_true saved, bare, if_neg Bool.false_ne_true, if_neg (by decide), if_neg (fun other => other own)]
  rfl

/-- An image that is not valid is turned down before all else. -/
theorem imageCheck_invalid (e : Eng) (i ring : Nat) (logical : Bool) {m : Image} (others : List DWord) (bad : imgValid m = false) :
    e.imageCheck i ring logical m others = 0x2B := by
  unfold Eng.imageCheck
  dsimp only
  rw [bad]
  rfl

/-- A word of the command register leaves the tile groups and the slicing of a partition. -/
theorem Eng.ctxCmdWrite_fv (e : Eng) (w : Word) {f : Fld} {p : Nat} (low : p < 65536) (other : f.off ≠ 0xC100) :
    (e.ctxCmdWrite w).fv f p = e.fv f p :=
  congrArg (fun v : Word => bitsOf v.toNat f.hi f.lo) (Eng.reg_putReg_ne e 0xC100 0 _ (by decide) low (.inl other))

theorem Eng.ctxCmdWrite_regionFree (e : Eng) (w : Word) (i : Nat) (low : (e.inst i).owner < 65536) :
    (e.ctxCmdWrite w).regionFree i = e.regionFree i := by
  have mode : (e.ctxCmdWrite w).fv F.KPR_PART_CTL_MODE ((e.ctxCmdWrite w).inst i).owner = e.fv F.KPR_PART_CTL_MODE (e.inst i).owner :=
    e.ctxCmdWrite_fv w low (by decide)
  unfold Eng.regionFree Eng.rivals
  dsimp only
  rw [mode]
  rfl

section Local
variable {w : Word} {inst : Nat} {s : State} {source : RestoreSource}

/-- The driver's RESTORE command, once its word is a command's. -/
theorem exec_restore (up : s.boot.absent = false) (go : w.getLsbD 31 = true) (idle : s.eng.kpr.cmd = none) (op : w.toNat % 8 = 2)
    (of : w.toNat / 2 ^ 8 % 16 = inst) :
    exec (.restore (some w) inst source) s = .next (s.withEng ((s.eng.ctxCmdWrite w).driverRestore w source.image source.shapes)) := by
  change execRestore (some w) inst source s = _
  rw [execRestore, live_up up]
  dsimp only
  rw [Eng.ctxGo_of go idle op, ctxInst_of of, decide_eq_true rfl]
  rfl

/-- A RESTORE of a LOCAL image that its checks let through. -/
theorem driverRestore_local {e : Eng} {i : Nat} {others : List DWord} {image : Option Image} (of : ctxInst w = i) (here : w.getLsbD 4 = false)
    (passes : e.localCheck i (w.toNat / 2 ^ 16 % 256) (w.getLsbD 5) others = 0) :
    e.driverRestore w image others = if e.regionFree i = false
      then (e.modCtx i (fun c => { c with held := false, next := true, logicalOnly := w.getLsbD 5 })).cmdDone 0
      else ({ e with kpr := { e.kpr with cmd := some i } } : Eng).restoreStart i (w.getLsbD 5) none := by
  unfold Eng.driverRestore
  extract_lets i' ring logical kpr busy
  have field : i' = i := of
  have flag : logical = w.getLsbD 5 := bitOf_toNat w 5
  have checked : e.localCheck i' ring logical others = 0 := by rw [field, flag]; exact passes
  dsimp only [busy, kpr]
  rw [bitOf_toNat, here, if_neg Bool.false_ne_true]
  refine (if_neg (fun no => no checked)).trans ?_
  rw [field, flag]
  by_cases room : e.regionFree i = true
  · rw [if_neg (by rw [room]; decide), if_neg (by rw [room]; decide)]
  · rw [Bool.eq_false_of_not_eq_true room, if_pos rfl]
    rfl

end Local

/-! ### Tables in order -/

/-- The keys of a table in order rise. -/
theorem Tab.sorted_keys {α : Type} {t : Tab α} (sorted : Tab.sorted t = true) : (t.map Prod.fst).Pairwise (· < ·) := by
  induction t with
  | nil => exact List.Pairwise.nil
  | cons p r ih =>
    rw [Tab.sorted_cons, Bool.and_eq_true_iff] at sorted
    obtain ⟨below, rest⟩ := sorted
    refine List.pairwise_cons.mpr ⟨fun k hk => ?_, ih rest⟩
    cases r with
    | nil => cases hk
    | cons q r =>
      have first : p.1 < q.1 := of_decide_eq_true below
      rcases List.mem_cons.mp hk with rfl | later
      · exact first
      · exact first.trans ((List.pairwise_cons.mp (ih rest)).1 k later)

/-- A table in order holds what it lists. -/
theorem tget_of_mem {α : Type} {t : Tab α} (sorted : Tab.sorted t = true) {k : Nat} {v : α} (listed : (k, v) ∈ t) : tget t k = some v := by
  induction t with
  | nil => cases listed
  | cons p r ih =>
    obtain ⟨j, u⟩ := p
    have keys := Tab.sorted_keys sorted
    rw [Tab.sorted_cons, Bool.and_eq_true_iff] at sorted
    rcases List.mem_cons.mp listed with same | later
    · cases same
      exact if_pos rfl
    · have rises : j < k := (List.pairwise_cons.mp keys).1 k (List.mem_map_of_mem later)
      exact (if_neg (show k ≠ j by omega)).trans (ih sorted.2 later)

section Held
variable {e : Eng} (sorted : Tab.sorted e.led.recs = true)
include sorted

/-- The slots of an `Inst`'s admitted records, each once. -/
theorem Eng.instSlots_nodup (i : Nat) : (e.instSlots i).Nodup :=
  ((Tab.sorted_keys sorted).sublist (List.filter_sublist.map Prod.fst)).imp (fun h => Nat.ne_of_lt h)

theorem Eng.mem_instSlots {i k : Nat} : k ∈ e.instSlots i ↔ ∃ r, e.rc k = some r ∧ r.inst = i ∧ r.admitStamp ≠ 0 := by
  constructor
  · intro listed
    obtain ⟨⟨j, r⟩, among, same⟩ := List.mem_map.mp listed
    obtain ⟨here, test⟩ := List.mem_filter.mp among
    cases same
    exact ⟨r, tget_of_mem sorted here, of_decide_eq_true test⟩
  · rintro ⟨r, is, of⟩
    exact List.mem_map.mpr ⟨(k, r), List.mem_filter.mpr ⟨tget_mem _ is, decide_eq_true of⟩, rfl⟩

end Held

/-! ### Siblings return -/

/-- A record that was SWAPPED is in the state that it had. -/
def LRec.swappedIn (r : LRec) : LRec :=
  if r.state = 8 then { r with state := r.prior, prior := if r.prior = 7 then r.priorPaused else r.prior } else r

/-- One sibling's return. -/
def Eng.swapOne (e : Eng) (s : Nat) : Eng :=
  match e.rc s with
  | some r =>
    if r.state = 8 then
      ((e.setRc s { r with state := r.prior, prior := if r.prior = 7 then r.priorPaused else r.prior }).touch s).mirror s
    else e
  | none => e

theorem Eng.swapIn_eq (e : Eng) (i : Nat) : e.swapIn i = (e.instSlots i).foldl Eng.swapOne e := rfl

theorem Eng.swapOne_spec (e : Eng) (s : Nat) (off : e.mirrorOn = false) :
    ∃ recs hot pd dbg, e.swapOne s = { e with led := { e.led with recs, hot }, pd, dbg } ∧
      ∀ k, tget recs k = if k = s then (e.rc k).map LRec.swappedIn else e.rc k := by
  unfold Eng.swapOne
  cases is : e.rc s with
  | none =>
    refine ⟨e.led.recs, e.led.hot, e.pd, e.dbg, rfl, fun k => ?_⟩
    by_cases here : k = s
    · rw [if_pos here, here, is]
      exact is
    · rw [if_neg here]
      rfl
  | some r =>
    dsimp only
    by_cases swapped : r.state = 8
    · let v : LRec := { r with state := r.prior, prior := if r.prior = 7 then r.priorPaused else r.prior }
      obtain ⟨hot, pd, dbg, touched, -⟩ := (e.setRc s v).touch_eq s
      rw [if_pos swapped, touched, Eng.mirror_off ({ e.setRc s v with led := { (e.setRc s v).led with hot }, pd, dbg } : Eng) off]
      refine ⟨_, hot, pd, dbg, rfl, fun k => ?_⟩
      by_cases here : k = s
      · rw [if_pos here, here, is]
        exact (tget_tput_same _ _ _).trans (congrArg some (if_pos swapped).symm)
      · rw [if_neg here]
        exact tget_tput_ne _ _ here
    · rw [if_neg swapped]
      refine ⟨e.led.recs, e.led.hot, e.pd, e.dbg, rfl, fun k => ?_⟩
      by_cases here : k = s
      · rw [if_pos here, here, is]
        exact is.trans (congrArg some (if_neg swapped).symm)
      · rw [if_neg here]
        rfl

/-- Records changed one after another, each once, and looked at as that goes. -/
theorem foldl_records (g : Eng → Nat → Eng) (f : LRec → LRec)
    (one : ∀ (e : Eng) (s : Nat), e.mirrorOn = false → ∃ recs hot pd dbg, g e s = { e with led := { e.led with recs, hot }, pd, dbg } ∧
      ∀ k, tget recs k = if k = s then (e.rc k).map f else e.rc k)
    (l : List Nat) (once : l.Nodup) (e : Eng) (off : e.mirrorOn = false) :
    ∃ recs hot pd dbg, l.foldl g e = { e with led := { e.led with recs, hot }, pd, dbg } ∧
      ∀ k, tget recs k = if k ∈ l then (e.rc k).map f else e.rc k := by
  induction l generalizing e with
  | nil => exact ⟨_, _, _, _, rfl, fun _ => rfl⟩
  | cons s l ih =>
    obtain ⟨apart, rest⟩ := List.nodup_cons.mp once
    obtain ⟨recs, hot, pd, dbg, this, first⟩ := one e s off
    obtain ⟨recs', hot', pd', dbg', others, then_⟩ := ih rest (g e s) (by rw [this]; exact off)
    refine ⟨recs', hot', pd', dbg', ?_, fun k => ?_⟩
    · rw [List.foldl_cons, others, this]
    · have before : (g e s).rc k = tget recs k := by rw [this]; rfl
      rw [then_ k, before, first k]
      by_cases here : k = s
      · rw [here, if_neg apart, if_pos rfl, if_pos List.mem_cons_self]
      · rw [if_neg here]
        simp only [List.mem_cons, here, false_or]

/-! ### The end of a restore -/

section Ends
variable {e : Eng} {i : Nat}

theorem Eng.modDon_none (none : e.kpr.dons = []) (p : Donation → Bool) (f : Donation → Donation) : e.modDon p f = e := by
  have same : e.kpr.dons.map (fun d => if p d then f d else d) = e.kpr.dons := by rw [none]; rfl
  unfold Eng.modDon
  rw [same]

/-- The Bins entries that stay with an `Inst` in its own epoch. -/
theorem Eng.binEpochs_eq (steady : (e.inst i).changing = false) :
    ∃ out, e.binEpochs i = { e with
      bin := { e.bin with entries := e.bin.entries.filter (fun b => decide (b.inst ≠ i ∨ b.epoch = (e.inst i).epoch)) }
      out := out ++ e.out } := by
  have told : ∀ (l : List Nat) (y : Eng), ∃ out, l.foldl (fun y ep => y.binReport i ep) y = { y with out := out ++ y.out } := by
    intro l
    induction l with
    | nil => exact fun y => ⟨[], rfl⟩
    | cons ep l ih =>
      intro y
      obtain ⟨out, rest⟩ := ih (y.binReport i ep)
      exact ⟨out ++ [.array (.binEntries i ep (y.binCount i ep))], by rw [List.foldl_cons, rest, List.append_assoc]; rfl⟩
  unfold Eng.binEpochs
  extract_lets x ok off
  have own : ok = fun b => decide (b.inst ≠ i ∨ b.epoch = (e.inst i).epoch) := funext (fun b => by
    change (decide _ || ((e.inst i).changing && decide _)) = _
    rw [steady, Bool.false_and, Bool.or_false])
  rw [← own]
  exact told _ _

/-- The semaphores of a holder, marked. -/
theorem Eng.semSwap_eq (e : Eng) (i : Nat) (swapped : Bool) :
    ∃ sems, e.semSwap i swapped = { e with kpr := { e.kpr with sems } } ∧
      ∀ k, k < 64 → tgetD sems k {} = if (e.sem k).holder = some i then { e.sem k with swapped } else e.sem k := by
  have fold : ∀ (l : List Nat) (y : Eng), l.Nodup →
      ∃ sems, l.foldl (fun e k => if (e.sem k).holder = some i then e.setSem k { e.sem k with swapped } else e) y = { y with kpr := { y.kpr with sems } } ∧
        ∀ k, tgetD sems k {} = if k ∈ l ∧ (y.sem k).holder = some i then { y.sem k with swapped } else y.sem k := by
    intro l
    induction l with
    | nil => exact fun y _ => ⟨y.kpr.sems, rfl, fun k => by simp [Eng.sem]⟩
    | cons a l ih =>
      intro y once
      obtain ⟨apart, rest⟩ := List.nodup_cons.mp once
      obtain ⟨sems, runs, each⟩ := ih (if (y.sem a).holder = some i then y.setSem a { y.sem a with swapped } else y) rest
      refine ⟨sems, ?_, fun k => ?_⟩
      · rw [List.foldl_cons, runs]
        split <;> rfl
      · rw [each k]
        by_cases holds : (y.sem a).holder = some i
        · rw [if_pos holds, Eng.sem_setSem]
          by_cases here : k = a
          · simp [here, apart, holds]
          · simp [here]
        · rw [if_neg holds]
          by_cases here : k = a
          · simp [here, apart, holds]
          · simp [here]
  obtain ⟨sems, runs, each⟩ := fold semRange e List.nodup_range
  refine ⟨sems, runs, fun k low => ?_⟩
  rw [each k]
  simp [semRange, low]

/-- Steps of the RSU alone, one after another. -/
theorem foldl_rsu {α : Type} (l : List α) (f : Eng → α → Eng) (step : ∀ y x, ∃ rsu, f y x = { y with rsu }) (e : Eng) :
    ∃ rsu, l.foldl f e = { e with rsu } := by
  induction l generalizing e with
  | nil => exact ⟨e.rsu, rfl⟩
  | cons x l ih =>
    obtain ⟨rsu, one⟩ := step e x
    obtain ⟨rsu', rest⟩ := ih (f e x)
    exact ⟨rsu', by rw [List.foldl_cons, rest, one]⟩

/-- The draws of a frozen step are asked for again. -/
theorem Eng.redraw_eq (e : Eng) (i : Nat) : ∃ rsu, e.redraw i = { e with rsu } := by
  unfold Eng.redraw
  extract_lets l
  change ∃ rsu, l.foldl _ (e.dropDraws _) = { e.dropDraws (fun k => decide (k / 16384 = i)) with rsu }
  refine foldl_rsu l _ (fun y p => ?_) _
  split
  · exact ⟨_, rfl⟩
  · exact ⟨y.rsu, rfl⟩

/-- The draws are asked for again of a frozen step alone. -/
theorem Eng.redrawn (e : Eng) (i : Nat) (frozen : Bool) : ∃ rsu, (if frozen then e.redraw i else e) = { e with rsu } := by
  cases frozen with
  | false => exact ⟨e.rsu, rfl⟩
  | true => exact e.redraw_eq i

theorem sumBy_zero {α : Type} {f : α → Nat} {l : List α} (zero : ∀ x ∈ l, f x = 0) : sumBy f l = 0 := by
  rw [sumBy_eq_sum, List.sum_eq_zero]
  intro n among
  obtain ⟨x, hx, same⟩ := List.mem_map.mp among
  exact same.symm.trans (zero x hx)

/-- With no group in Cellar, or on its way there, nothing is recalled. -/
theorem Eng.recall_none (near : ∀ z ∈ e.shv.groups, z.2.tier ≠ 2 ∧ (z.2.state = 2 → z.2.dest ≠ 2)) (s : Nat) : e.recall s = e := by
  have away : e.away s = 0 := by
    unfold Eng.away
    split
    · rfl
    · refine sumBy_zero (fun b _ => ?_)
      split
      · next g is =>
        obtain ⟨tier, moving⟩ := near (b.2, g) (tget_mem _ is)
        have there : (decide (g.tier = 2) || decide (g.state = 2 ∧ g.dest = 2)) = false := by
          rw [Bool.or_eq_false_iff]
          exact ⟨decide_eq_false tier, decide_eq_false (fun h => moving h.1 h.2)⟩
        rw [there]
        rfl
      · rfl
  exact if_pos away

/-- An `Inst` in the epoch and configuration of an image. -/
def Inst.renewed (x : Inst) (c : Ctx) : Inst :=
  { x with
    epoch := c.imgEpoch, cfg := c.imgCfg, quiet := false
    step := if c.frozen then x.step.map (fun st => { st with arrayDone := false, timer := none }) else x.step }

/-- A context that is resident again. -/
def Ctx.resumed (c : Ctx) (slice : Option Nat) : Ctx :=
  { c with
    state := 0, held := false, frozen := false, cfgIn := false, area := 0, imgBins := [], donating := false, logicalOnly := false
    sliceStart := slice }

/-- The engine with a context resident again. -/
def Eng.resident (e : Eng) (i : Nat) : Eng :=
  (e.modInst i (fun x => x.renewed (e.ctx i))).modCtx i (fun c =>
    c.resumed (if decide (e.fv F.KPR_PART_CTL_MODE (e.inst i).owner = 1) then some e.now else none))

theorem Eng.resident_inst (e : Eng) (i k : Nat) : (e.resident i).inst k = if k = i then (e.inst i).renewed (e.ctx i) else e.inst k :=
  Eng.inst_modInst e i k (fun x => x.renewed (e.ctx i))

theorem Eng.resident_ctx (e : Eng) (i k : Nat) : (e.resident i).ctx k = if k = i
    then (e.ctx i).resumed (if e.fv F.KPR_PART_CTL_MODE (e.inst i).owner = 1 then some e.now else none) else e.ctx k := by
  refine (Eng.ctx_modCtx (e.modInst i (fun x => x.renewed (e.ctx i))) i (fun c =>
    c.resumed (if decide (e.fv F.KPR_PART_CTL_MODE (e.inst i).owner = 1) then some e.now else none)) k).trans ?_
  simp only [decide_eq_true_eq]
  rfl

/-- The engine with a context resident again, its siblings' records back, its entries left and its semaphores its own. -/
def Eng.returned (e : Eng) (i : Nat) (recs : Tab LRec) (hot : List Nat) (pd : Tab Dom) (dbg : Dbg) (rsu : Rsu) (out : List Out) (sems : Tab Sem) : Eng :=
  { e with
    cmp := (e.resident i).cmp, led := { e.led with recs, hot }, pd, dbg, rsu, out := out ++ e.out, kpr := { (e.resident i).kpr with sems }
    bin := { e.bin with entries := e.bin.entries.filter (fun b => decide (b.inst ≠ i ∨ b.epoch = (e.ctx i).imgEpoch)) } }

/-- The driver's command for a context, if it is one, is done. -/
def Eng.doneFor (e : Eng) (i : Nat) : Eng := if e.kpr.cmd = some i then e.cmdDone 0 else e

/-- What the end of a restore does before it is counted. -/
theorem restoreEnd_eq (dons : e.kpr.dons = []) (sorted : Tab.sorted e.led.recs = true) (off : e.mirrorOn = false)
    (near : ∀ z ∈ e.shv.groups, z.2.tier ≠ 2 ∧ (z.2.state = 2 → z.2.dest ≠ 2)) (steady : (e.inst i).changing = false)
    (bins : (e.ctx i).imgBins = []) (whole : (e.ctx i).logicalOnly = false) (alone : (e.ctx i).saveAfter = none) :
    ∃ recs hot pd dbg rsu out sems t,
      e.restoreEnd i = ((((e.returned i recs hot pd dbg rsu out sems).bump F.KPR_RESTORES_COUNT).trace t).doneFor i).donateAll ∧
      (∀ k, tget recs k = if k ∈ e.instSlots i then (e.rc k).map LRec.swappedIn else e.rc k) ∧
      ∀ k, k < 64 → tgetD sems k {} = if (e.sem k).holder = some i then { e.sem k with swapped := false } else e.sem k := by
  unfold Eng.restoreEnd
  extract_lets c sliced e1 don e2 e3 e4 e5 e6 e7 e8 e9 e10 e11 e12 e13
  have noDon : don = false := by
    change e.kpr.dons.any _ = false
    rw [dons]
    rfl
  have back : e3 = e.resident i := by
    change e2.modDon _ _ = _
    rw [Eng.modDon_none (e := e2) dons]
    dsimp only [e2]
    rw [noDon]
    simp only [Bool.not_false, Bool.and_true]
    rfl
  obtain ⟨recs, hot, pd, dbg, swapped, records⟩ := foldl_records _ _ Eng.swapOne_spec (e.instSlots i) (Eng.instSlots_nodup sorted i) (e.resident i) off
  have in_ : e4 = { e.resident i with led := { e.led with recs, hot }, pd, dbg } := by
    change e3.swapIn i = _
    rw [back]
    exact swapped
  have thawed : e4.binThaw i c.imgBins = e4 := by
    change e4.binThaw i (e.ctx i).imgBins = _
    rw [bins]
    rfl
  have own : (e.resident i).inst i = (e.inst i).renewed (e.ctx i) := (e.resident_inst i i).trans (if_pos rfl)
  have own4 : e4.inst i = (e.resident i).inst i := by rw [in_]; rfl
  obtain ⟨out, kept⟩ := Eng.binEpochs_eq (e := e4) (i := i) (by rw [own4, own]; exact steady)
  have epochs : e5 = { e4 with
      bin := { e.bin with entries := e.bin.entries.filter (fun b => decide (b.inst ≠ i ∨ b.epoch = (e.ctx i).imgEpoch)) }, out := out ++ e.out } := by
    change (e4.binThaw i c.imgBins).binEpochs i = _
    rw [thawed, kept, own4, own, in_]
    rfl
  have reports : e6 = e5 := by
    change (((e.ctx i).imgBins.map (fun b => b.epoch)).eraseDups.foldl _ e5) = _
    rw [bins]
    rfl
  obtain ⟨sems, marked, held⟩ := e6.semSwap_eq i false
  have swap7 : e7 = { e6 with kpr := { e6.kpr with sems } } := marked
  have keep : c.logicalOnly = false := whole
  obtain ⟨rsu, drawn⟩ := e7.redrawn i c.frozen
  have draw8 : e8 = { e7 with rsu } := by
    dsimp only [e8]
    rw [keep, if_neg Bool.false_ne_true]
    exact drawn
  have given : e8 = e.returned i recs hot pd dbg rsu out sems := by
    rw [draw8, swap7, reports, epochs, in_]
    rfl
  have own8 : (e8.inst i).changing = false := by
    rw [given]
    exact (congrArg Inst.changing own).trans steady
  have near8 : ∀ z ∈ e8.shv.groups, z.2.tier ≠ 2 ∧ (z.2.state = 2 → z.2.dest ≠ 2) := by
    rw [given]
    exact near
  have pend9 : e9 = e8 := if_neg (by rw [own8]; exact Bool.false_ne_true)
  have call10 : e10 = e8 := by
    change (e9.instSlots i).foldl _ e9 = _
    rw [pend9]
    generalize e8.instSlots i = l
    induction l with
    | nil => rfl
    | cons s l ih => rw [List.foldl_cons, Eng.recall_none near8, ih]
  have last : e13 = e12.doneFor i := by
    dsimp only [e13]
    rw [show c.saveAfter = none from alone]
    rfl
  obtain ⟨t, traced⟩ : ∃ t, e12 = (e10.bump F.KPR_RESTORES_COUNT).trace t := ⟨_, rfl⟩
  rw [call10, given] at traced
  refine ⟨recs, hot, pd, dbg, rsu, out, sems, t, by rw [last, traced], records, fun k low => (held k low).trans ?_⟩
  rw [reports, epochs, in_]
  rfl

end Ends

/-- What the end of a restore brings, and what it may change. -/
structure Eng.Returns (e : Eng) (i : Nat) (z : Eng) : Prop where
  now : z.now = e.now
  inst : ∀ k, z.inst k = (e.resident i).inst k
  ctx : ∀ k, z.ctx k = (e.resident i).ctx k
  rc : ∀ k, z.rc k = (e.rc k).map (fun r => if r.inst = i ∧ r.admitStamp ≠ 0 ∧ r.state = 8
    then { r with state := r.prior, prior := if r.prior = 7 then r.priorPaused else r.prior } else r)
  sem : ∀ k, k < 64 → (z.sem k).swapped = ((e.sem k).swapped && decide ((e.sem k).holder ≠ some i))
  cmd : e.kpr.cmd = some i → z.kpr.cmd = none ∧ z.kpr.cmdStatus = 0
  bin : z.bin = { e.bin with entries := e.bin.entries.filter (fun b => decide (b.inst ≠ i ∨ b.epoch = (e.ctx i).imgEpoch)) }
  count : z.fv F.KPR_RESTORES_COUNT = min (e.fv F.KPR_RESTORES_COUNT + 1) (2 ^ 32 - 1)
  only : e.Only [2, 4, 10, 11, 12, 15, 17] [0xC1C8] z

/-- The records, read through the list of the `Inst`'s slots. -/
theorem swappedIn_listed {e : Eng} (sorted : Tab.sorted e.led.recs = true) (i k : Nat) :
    (if k ∈ e.instSlots i then (e.rc k).map LRec.swappedIn else e.rc k) = (e.rc k).map (fun r => if r.inst = i ∧ r.admitStamp ≠ 0 ∧ r.state = 8
      then { r with state := r.prior, prior := if r.prior = 7 then r.priorPaused else r.prior } else r) := by
  have listed := Eng.mem_instSlots sorted (i := i) (k := k)
  cases is : e.rc k with
  | none => split <;> rfl
  | some r =>
    rw [is] at listed
    by_cases of : r.inst = i ∧ r.admitStamp ≠ 0
    · rw [if_pos (listed.mpr ⟨r, rfl, of⟩)]
      simp [LRec.swappedIn, of]
    · have out : ¬(r.inst = i ∧ r.admitStamp ≠ 0 ∧ r.state = 8) := fun h => of ⟨h.1, h.2.1⟩
      rw [if_neg (fun h => of (by obtain ⟨q, same, h⟩ := listed.mp h; cases same; exact h)), Option.map_some, if_neg out]

theorem restoreEnd_returns {e : Eng} {i : Nat} (dons : e.kpr.dons = []) (sorted : Tab.sorted e.led.recs = true) (off : e.mirrorOn = false)
    (near : ∀ z ∈ e.shv.groups, z.2.tier ≠ 2 ∧ (z.2.state = 2 → z.2.dest ≠ 2)) (steady : (e.inst i).changing = false)
    (bins : (e.ctx i).imgBins = []) (whole : (e.ctx i).logicalOnly = false) (alone : (e.ctx i).saveAfter = none)
    (free : ∀ k, k < 64 → (e.sem k).waiters = []) : e.Returns i (e.restoreEnd i) := by
  obtain ⟨recs, hot, pd, dbg, rsu, out, sems, t, ends, records, marked⟩ := restoreEnd_eq dons sorted off near steady bins whole alone
  rw [ends]
  clear ends
  let b := e.returned i recs hot pd dbg rsu out sems
  change e.Returns i (((b.bump F.KPR_RESTORES_COUNT).trace t).doneFor i).donateAll
  have changed : e.Only [2, 4, 10, 11, 12, 15, 17] [0xC1C8] b := by
    refine ⟨fun u away => ?_, fun _ _ _ _ _ _ => rfl, ⟨out, rfl⟩⟩
    unfold Eng.partSame
    split <;> first | exact absurd (by decide) away | rfl | exact ⟨rfl, rfl, rfl, rfl⟩ | exact ⟨rfl, rfl⟩ | trivial
  have counts : e.Only [2, 4, 10, 11, 12, 15, 17] [0xC1C8] (b.bump F.KPR_RESTORES_COUNT) := changed.trans (.bump _ _ _ _ (by decide) (by decide))
  let x := (b.bump F.KPR_RESTORES_COUNT).trace t
  have traced : (b.bump F.KPR_RESTORES_COUNT).Only [2, 4, 10, 11, 12, 15, 17] [0xC1C8] x := Eng.Only.traced (us := [2, 4, 10, 11, 12, 15, 17]) (b.bump F.KPR_RESTORES_COUNT) t (by decide)
  have kpr : x.kpr = b.kpr := (Eng.trace_reports (b.bump F.KPR_RESTORES_COUNT) t).kpr_eq
  have cmp : x.cmp = b.cmp := (Eng.trace_reports (b.bump F.KPR_RESTORES_COUNT) t).cmp_eq
  have led : x.led = b.led := (Eng.trace_reports (b.bump F.KPR_RESTORES_COUNT) t).led_eq
  have bin : x.bin = b.bin := (Eng.trace_reports (b.bump F.KPR_RESTORES_COUNT) t).bin_eq
  have now : x.now = b.now := (Eng.trace_reports (b.bump F.KPR_RESTORES_COUNT) t).now_eq
  have count : x.fv F.KPR_RESTORES_COUNT = min (e.fv F.KPR_RESTORES_COUNT + 1) (2 ^ 32 - 1) := by
    have word : x.reg 0xC1C8 = (b.bump F.KPR_RESTORES_COUNT).reg 0xC1C8 :=
      (Eng.trace_reports (b.bump F.KPR_RESTORES_COUNT) t).regs 0xC1C8 0 (by decide) (by decide)
    refine (congrArg (fun w : Word => bitsOf w.toNat 31 0) word).trans ?_
    exact (Eng.fv_bump_same b F.KPR_RESTORES_COUNT 1 0 rfl rfl).trans (by rw [show b.fv F.KPR_RESTORES_COUNT = e.fv F.KPR_RESTORES_COUNT from Eng.fv_congr rfl _ _])
  have only := counts.trans traced
  change e.Returns i (x.doneFor i).donateAll
  clear_value x
  have sems_ : ∀ (y : Eng), y.kpr.sems = b.kpr.sems → ∀ k, k < 64 → (y.sem k).waiters = [] := fun y same k low => by
    have here : y.sem k = tgetD sems k {} := congrArg (fun t : Tab Sem => tgetD t k {}) same
    rw [here, marked k low]
    split <;> exact free k low
  have semsx : x.kpr.sems = b.kpr.sems := congrArg Kpr.sems kpr
  have ctxsx : x.kpr.ctxs = b.kpr.ctxs := congrArg Kpr.ctxs kpr
  let v := x.doneFor i
  obtain ⟨kprv, is, sem, cmd⟩ : ∃ kpr', v = { x with kpr := kpr' } ∧ (kpr'.sems = b.kpr.sems ∧ kpr'.ctxs = b.kpr.ctxs) ∧
      (e.kpr.cmd = some i → kpr'.cmd = none ∧ kpr'.cmdStatus = 0) := by
    by_cases mine : x.kpr.cmd = some i
    · refine ⟨{ x.kpr with cmd := none, cmdStatus := 0 }, if_pos mine, ⟨semsx, ctxsx⟩, fun _ => ⟨rfl, rfl⟩⟩
    · exact ⟨x.kpr, if_neg mine, ⟨semsx, ctxsx⟩, fun h => absurd ((congrArg Kpr.cmd kpr).trans h) mine⟩
  obtain ⟨sem, ctxs⟩ := sem
  obtain ⟨d, still⟩ := Eng.donateAll_still v
    (fun k low => v.semCycle_false k (fun h holds waits j low' => absurd (sems_ v (by rw [is]; exact sem) k low) waits) low)
    (fun k low => .inr (sems_ v (by rw [is]; exact sem) k low))
  change e.Returns i v.donateAll
  rw [still, is]
  refine ⟨now, fun k => ?_, fun k => ?_, fun k => ?_, fun k low => ?_, cmd, bin, count, only.trans (.setKpr x _ (by decide))⟩
  · exact congrArg (fun c : Cmp => tgetD c.insts k {}) cmp
  · exact congrArg (fun t : Tab Ctx => tgetD t k {}) ctxs
  · refine Eq.trans ?_ ((records k).trans (swappedIn_listed sorted i k))
    exact congrArg (fun l : Led => tget l.recs k) led
  · refine (congrArg (fun t : Tab Sem => (tgetD t k {}).swapped) sem).trans ?_
    refine (congrArg Sem.swapped (marked k low)).trans ?_
    by_cases holds : (e.sem k).holder = some i
    · simp [holds]
    · simp [holds]

/-- Time leaves whether records are mirrored. -/
theorem Eng.advance_mirrorOn (e : Eng) (T : Nat) : (e.advance T).mirrorOn = e.mirrorOn := by
  unfold Eng.mirrorOn
  rw [e.advance_raf, e.advance_fb T _ _ (by decide) (by decide), e.advance_fv T _ _ (by decide) (by decide)]

/-! ### The discard of an image -/

/-- An image of a context that holds no step and no composition goes alone. -/
theorem imageDrop_bare {e : Eng} {i : Nat} (comp : (e.inst i).comp = none) (step : (e.inst i).step = none) :
    ∃ kpr, e.imageDrop i = { e with kpr } ∧ ∀ k, tgetD kpr.ctxs k {} = if k = i
      then { e.ctx i with gone := true, frozen := false, imgBins := [], want := 0, next := false, area := 0 } else e.ctx k := by
  let f := fun c : Ctx => { c with gone := true, frozen := false, imgBins := [], want := 0, next := false, area := 0 }
  let z := { e.modCtx i f with kpr := { (e.modCtx i f).kpr with back := (e.modCtx i f).kpr.back.filter (fun j => decide (j ≠ i)) } }
  have comp' : (z.inst i).comp = none := comp
  have kept : z.discardComp i = z := by
    unfold Eng.discardComp
    rw [comp']
  have step' : (z.inst i).step = none := step
  have same : e.imageDrop i = z := by
    unfold Eng.imageDrop
    dsimp only
    change (match ((z.discardComp i).inst i).step with
      | none => z.discardComp i
      | some st => _) = z
    rw [kept, step']
  exact ⟨z.kpr, same, fun k => Eng.ctx_modCtx e i f k⟩

section Discard
variable {w : Word} {s : State} {image : Option Image}

/-- DISCARD, once its word is a command's. -/
theorem exec_discard (up : s.boot.absent = false) (go : w.getLsbD 31 = true) (idle : s.eng.kpr.cmd = none) (op : w.toNat % 8 = 3) :
    exec (.discard w image) s = .next (s.withEng (if w.getLsbD 4 then
        match image with
        | some m => if imgValid m then ({ s.eng.ctxCmdWrite w with kpr := { s.eng.kpr with
            exports := s.eng.kpr.exports.filter (fun y => decide (y.1 ≠ s.eng.ctxAddr w)) } } : Eng).cmdDone 0
          else (s.eng.ctxCmdWrite w).cmdDone 0x2B
        | none => (s.eng.ctxCmdWrite w).cmdDone 0x2B
      else if (s.eng.ctx (ctxInst w)).state = 2 then ((s.eng.ctxCmdWrite w).imageDrop (ctxInst w)).cmdDone 0
      else (s.eng.ctxCmdWrite w).cmdDone 0x2A)) := by
  change execDiscard w image s = _
  rw [execDiscard, live_up up]
  dsimp only
  rw [Eng.ctxGo_of go idle op, Bool.not_true, if_neg Bool.false_ne_true, bitOf_toNat]
  rfl

end Discard

/-- Settles O51: the start of a restore by Keeper and by the driver, its end, and the discard of an image. -/
theorem contextsAreRestored : Obligations.ContextsAreRestored := by
  intro w source image m inst s up low e x c rest go logical ask restoring read addr
  refine ⟨fun free saved kept bare => ⟨fun on want next region waits => ?keeper, fun ⟨started, idle, op, of⟩ here active own => ⟨fun region => ?driver, fun region => ?next⟩⟩,
    fun ⟨started, idle, op, of⟩ bad => ?refused, fun settled state loaded steady alone whole bins dons waiters sorted off near => ?ends,
    fun ⟨started, idle, op, of⟩ => ⟨fun here saved comp step => ?drop, fun here saved => ?unsaved, fun there valid => ?exported⟩⟩
  case keeper =>
    obtain ⟨ctxs, parts, begun, each, bills⟩ := restoreStart_spec (logical := false) bare free
    refine ⟨s.withEng { e with out := ask :: e.out, kpr := { e.kpr with ctxs, parts, back := e.kpr.back.filter (fun j => decide (j ≠ inst)) } }, ?_,
      (each inst).trans (if_pos rfl), fun k other => (each k).trans (if_neg other), bills, rfl⟩
    change execRestore none inst source s = _
    rw [execRestore, live_up up]
    dsimp only
    have due : (e.kprOn && decide (c.state = 2 ∧ c.want = 3) && !c.gone && e.regionFree inst && !e.backWaits inst) = true := by
      rw [on, decide_eq_true ⟨saved, want⟩, kept, region, waits]
      rfl
    have flag : (c.next && c.logicalOnly) = false := by rw [next]; rfl
    refine congrArg (fun y => Host.Outcome.next (s.withEng y)) ((if_pos due).trans ?_)
    change e.restoreStart inst (c.next && c.logicalOnly) none = _
    rw [flag]
    exact begun
  case driver =>
    have narrow : x.owner < 65536 := own ▸ (e.fv_lt F.HAT_RING_CFG_PID _).trans (by decide)
    let f := e.ctxCmdWrite w
    have ring : f.ringPid (w.toNat / 2 ^ 16 % 256) = x.owner := (e.ctxCmdWrite_fv w (by omega) (by decide)).trans own
    have passes : f.localCheck inst (w.toNat / 2 ^ 16 % 256) (w.getLsbD 5) source.shapes = 0 := localCheck_passes kept active saved ring bare
    have there : f.regionFree inst = true := (e.ctxCmdWrite_regionFree w inst narrow).trans region
    obtain ⟨ctxs, parts, begun, each, bills⟩ := restoreStart_spec (e := { f with kpr := { f.kpr with cmd := some inst } }) (i := inst) (logical := logical) bare free
    have tiles : f.fv F.KPR_PART_TILES_GROUPS x.owner = e.fv F.KPR_PART_TILES_GROUPS x.owner := e.ctxCmdWrite_fv w narrow (by decide)
    refine ⟨_, (exec_restore up started idle op of).trans (congrArg (fun y => Host.Outcome.next (s.withEng y))
      ((driverRestore_local (ctxInst_of of) here passes).trans ((if_neg (by rw [there]; exact Bool.noConfusion)).trans begun))),
      (each inst).trans (if_pos rfl), fun k other => (each k).trans (if_neg other), bills, rfl, ?_, rfl, rfl, ?_⟩
    · change Out.array (.loadConfig inst c.imgCfg (f.fv F.KPR_PART_TILES_GROUPS x.owner) _) :: e.out = _
      rw [tiles]
      rfl
    · exact (Eng.Only.ctxCmdWrite e w).trans (Eng.Only.setKprOut f _ _ (by decide))
  case next =>
    have narrow : x.owner < 65536 := own ▸ (e.fv_lt F.HAT_RING_CFG_PID _).trans (by decide)
    let f := e.ctxCmdWrite w
    have ring : f.ringPid (w.toNat / 2 ^ 16 % 256) = x.owner := (e.ctxCmdWrite_fv w (by omega) (by decide)).trans own
    have passes : f.localCheck inst (w.toNat / 2 ^ 16 % 256) (w.getLsbD 5) source.shapes = 0 := localCheck_passes kept active saved ring bare
    have there : f.regionFree inst = false := (e.ctxCmdWrite_regionFree w inst narrow).trans region
    let chosen := fun c : Ctx => { c with held := false, next := true, logicalOnly := w.getLsbD 5 }
    refine ⟨_, (exec_restore up started idle op of).trans (congrArg (fun y => Host.Outcome.next (s.withEng y))
      ((driverRestore_local (ctxInst_of of) here passes).trans (if_pos there))),
      rfl, rfl, fun k other => (Eng.ctx_modCtx f inst chosen k).trans (if_neg other), (Eng.ctx_modCtx f inst chosen inst).trans (if_pos rfl), rfl, rfl,
      (Eng.Only.ctxCmdWrite e w).trans (Eng.Only.trans (.modCtx f inst chosen (by decide)) (.setKpr _ _ (by decide)))⟩
  case refused =>
    let f := e.ctxCmdWrite w
    have turned : ∃ dest, f.driverRestore w source.image source.shapes = f.restoreRefused inst dest 0x2B := by
      unfold Eng.driverRestore
      extract_lets i ring logical kpr busy
      have field : i = inst := ctxInst_of of
      rw [← field, bitOf_toNat]
      by_cases there : w.getLsbD 4 = true
      · rw [if_pos there] at bad ⊢
        cases is : source.image with
        | none => exact ⟨1, rfl⟩
        | some y =>
          have status : f.imageCheck i ring logical y source.shapes = 0x2B := imageCheck_invalid _ _ _ _ _ (bad y is)
          dsimp only
          rw [status]
          exact ⟨1, rfl⟩
      · rw [if_neg there] at bad ⊢
        have status : f.localCheck i ring logical source.shapes = 0x2B := by
          rw [field]
          exact if_pos bad
        have refuse : f.localCheck i ring logical source.shapes ≠ 0 := by rw [status]; decide
        exact ⟨0, (if_pos refuse).trans (congrArg (f.restoreRefused i 0) status)⟩
    obtain ⟨dest, refuses⟩ := turned
    obtain ⟨kpr, only⟩ := restoreRefused_spec f inst dest 0x2B
    refine ⟨_, (exec_restore up started idle op of).trans (congrArg (fun y => Host.Outcome.next (s.withEng y)) refuses), kpr, rfl, rfl, ?_⟩
    exact ((Eng.Only.ctxCmdWrite e w).weaken (by decide) (by decide)).trans only
  case ends =>
    let T := c.readyAt + 2000
    let a := e.advance T
    have far : a.Returns inst (a.restoreEnd inst) := by
      refine restoreEnd_returns ?_ ?_ ?_ ?_ ?_ ?_ ?_ ?_ ?_
      · rw [e.advance_kpr_dons]; exact dons
      · rw [e.advance_led]; exact sorted
      · rw [e.advance_mirrorOn]; exact off
      · rw [e.advance_shv]; exact near
      · rw [e.advance_inst]; exact steady
      · rw [e.advance_ctx]; exact bins
      · rw [e.advance_ctx]; exact whole
      · rw [e.advance_ctx]; exact alone
      · intro k low
        rw [Eng.sem, e.advance_kpr_sems]
        exact waiters k low
    have passes : e.Passes a := e.advance_passes T
    have mode : a.fv F.KPR_PART_CTL_MODE x.owner = e.fv F.KPR_PART_CTL_MODE x.owner :=
      e.advance_above T x.owner (by decide +kernel) (by decide) (by decide)
    have sem : ∀ k, a.sem k = e.sem k := fun k => by rw [Eng.sem, e.advance_kpr_sems]; rfl
    have inst_ : ∀ k, a.inst k = e.inst k := e.advance_inst T
    have ctx_ : ∀ k, a.ctx k = e.ctx k := e.advance_ctx T
    have now : a.now = max e.now T := e.advance_now T
    have rc : ∀ k, a.rc k = e.rc k := e.advance_rc T
    have bin : a.bin = e.bin := e.advance_bin T
    have cmd : a.kpr.cmd = e.kpr.cmd := e.advance_kpr_cmd T
    have count : a.fv F.KPR_RESTORES_COUNT = e.fv F.KPR_RESTORES_COUNT := e.advance_fv T _ _ (by decide) (by decide)
    have ran : exec (.restoreComplete inst) s = .next (s.withEng (a.restoreEnd inst)) := by
      change timed s (atRestoreComplete inst) = _
      rw [timed_settled s _ settled, atRestoreComplete, live_up up]
      dsimp only
      have due : ¬(!(decide (c.state = 3) && c.cfgIn)) = true := by rw [decide_eq_true state, loaded]; decide
      refine congrArg (fun y => Host.Outcome.next (s.withEng y)) ((if_neg due).trans ?_)
      change (match c.saveAfter with
        | some w => _
        | none => a.restoreEnd inst) = _
      rw [alone]
    clear_value a
    generalize a.restoreEnd inst = z at far ran
    refine ⟨s.withEng z, ran, far.now.trans now, fun k other => ?_, ?_, fun k other => ?_, ?_, fun k => ?_, fun k low => ?_, fun mine => ?_, ?_, ?_, rfl, rfl, ?_⟩
    · exact (far.ctx k).trans ((a.resident_ctx inst k).trans ((if_neg other).trans (ctx_ k)))
    · refine (far.inst inst).trans ((a.resident_inst inst inst).trans ((if_pos rfl).trans ?_))
      rw [inst_, ctx_]
      rfl
    · exact (far.inst k).trans ((a.resident_inst inst k).trans ((if_neg other).trans (inst_ k)))
    · refine (far.ctx inst).trans ((a.resident_ctx inst inst).trans ((if_pos rfl).trans ?_))
      rw [inst_, ctx_, mode]
      change c.resumed _ = c.resumed (if e.fv F.KPR_PART_CTL_MODE x.owner = 1 then some z.now else none)
      rw [far.now]
    · exact (far.rc k).trans (by rw [rc])
    · exact (far.sem k low).trans (by rw [sem])
    · exact far.cmd (cmd.trans mine)
    · exact far.bin.trans (by rw [bin, ctx_])
    · exact far.count.trans (by rw [count])
    · have waited : e.Only [0, 2, 4, 10, 11, 12, 15, 17] [0xC1C8] a := .of_passes passes (by decide) (by decide) (by decide)
      exact waited.trans (far.only.weaken (by decide) (by decide))
  case drop =>
    obtain ⟨kpr, dropped, each⟩ := imageDrop_bare (e := e.ctxCmdWrite w) (i := inst) comp step
    refine ⟨s.withEng { e.ctxCmdWrite w with kpr := { kpr with cmd := none, cmdStatus := 0 } }, ?_,
      fun k other => (each k).trans (if_neg other), rfl, rfl, (each inst).trans (if_pos rfl), rfl, rfl,
      (Eng.Only.ctxCmdWrite e w).trans (.setKpr _ _ (by decide))⟩
    rw [exec_discard up started idle op, here, if_neg Bool.false_ne_true, show ctxInst w = inst from of, if_pos saved, dropped]
    rfl
  case unsaved =>
    refine ⟨s.withEng ((e.ctxCmdWrite w).cmdDone 0x2A), ?_, rfl, rfl, rfl, (Eng.Only.ctxCmdWrite e w).trans (.setKpr _ _ (by decide))⟩
    rw [exec_discard up started idle op, here, if_neg Bool.false_ne_true, show ctxInst w = inst from of, if_neg saved]
  case exported =>
    have address : e.ctxAddr w = addr := by
      change _ + 2 ^ 64 * b2n (bitOf w.toNat 6) = _ + 2 ^ 64 * (w.getLsbD 6).toNat
      rw [bitOf_toNat]
      cases w.getLsbD 6 <;> rfl
    refine ⟨s.withEng (({ e.ctxCmdWrite w with kpr := { e.kpr with exports := e.kpr.exports.filter (fun y => decide (y.1 ≠ addr)) } } : Eng).cmdDone 0), ?_,
      ⟨rfl, rfl, (Eng.Only.ctxCmdWrite e w).trans (.setKpr (e.ctxCmdWrite w) _ (by decide))⟩, rfl⟩
    rw [exec_discard up started idle op, there, if_pos rfl]
    dsimp only
    rw [if_pos valid, address]

end Sys2Proof.Machine
end

section
/-!
The save of a context, by drain and by freeze (O50).
-/
namespace Sys2Proof.Machine

/-! ### Siblings go -/

/-- A record that is live is SWAPPED, with its state kept. -/
def LRec.swappedOut (r : LRec) : LRec :=
  if 1 ≤ r.state ∧ r.state ≤ 7 then { r with prior := r.state, state := 8, priorPaused := r.prior } else r

/-- One sibling's going. -/
def Eng.swapAway (e : Eng) (s : Nat) : Eng :=
  match e.rc s with
  | some r =>
    if 1 ≤ r.state ∧ r.state ≤ 7 then
      ((e.setRc s { r with prior := r.state, state := 8, priorPaused := r.prior }).recUse s).mirror s
    else e
  | none => e

theorem Eng.swapOut_eq (e : Eng) (i : Nat) : e.swapOut i = (e.instSlots i).foldl Eng.swapAway e := rfl

theorem Eng.swapAway_spec (e : Eng) (s : Nat) (off : e.mirrorOn = false) :
    ∃ recs hot pd dbg, e.swapAway s = { e with led := { e.led with recs, hot }, pd, dbg } ∧
      ∀ k, tget recs k = if k = s then (e.rc k).map LRec.swappedOut else e.rc k := by
  have still : ∀ r, e.rc s = some r → ¬(1 ≤ r.state ∧ r.state ≤ 7) → ∀ k, e.rc k = if k = s then (e.rc k).map LRec.swappedOut else e.rc k := by
    intro r is out k
    by_cases here : k = s
    · rw [if_pos here, here, is]
      exact congrArg some (if_neg out).symm
    · rw [if_neg here]
  unfold Eng.swapAway
  cases is : e.rc s with
  | none =>
    refine ⟨e.led.recs, e.led.hot, e.pd, e.dbg, rfl, fun k => ?_⟩
    by_cases here : k = s
    · rw [if_pos here, here, is]
      exact is
    · rw [if_neg here]
      rfl
  | some r =>
    dsimp only
    by_cases live : 1 ≤ r.state ∧ r.state ≤ 7
    · let v : LRec := { r with prior := r.state, state := 8, priorPaused := r.prior }
      obtain ⟨pd, used, -⟩ := (e.setRc s v).recUse_hot s
      rw [if_pos live, used, Eng.mirror_off ({ e.setRc s v with led := { (e.setRc s v).led with hot := hotFirst (e.setRc s v).led.hot s }, pd } : Eng) off]
      refine ⟨_, _, pd, e.dbg, rfl, fun k => ?_⟩
      by_cases here : k = s
      · rw [if_pos here, here, is]
        exact (tget_tput_same _ _ _).trans (congrArg some (if_pos live).symm)
      · rw [if_neg here]
        exact tget_tput_ne _ _ here
    · rw [if_neg live]
      exact ⟨e.led.recs, e.led.hot, e.pd, e.dbg, rfl, still r is live⟩

/-- The records, read through the list of the `Inst`'s slots. -/
theorem swappedOut_listed {e : Eng} (sorted : Tab.sorted e.led.recs = true) (i k : Nat) :
    (if k ∈ e.instSlots i then (e.rc k).map LRec.swappedOut else e.rc k) =
      (e.rc k).map (fun r => if r.inst = i ∧ r.admitStamp ≠ 0 ∧ 1 ≤ r.state ∧ r.state ≤ 7
        then { r with prior := r.state, state := 8, priorPaused := r.prior } else r) := by
  have listed := Eng.mem_instSlots sorted (i := i) (k := k)
  cases is : e.rc k with
  | none => split <;> rfl
  | some r =>
    rw [is] at listed
    by_cases of : r.inst = i ∧ r.admitStamp ≠ 0
    · rw [if_pos (listed.mpr ⟨r, rfl, of⟩)]
      simp [LRec.swappedOut, of]
    · have out : ¬(r.inst = i ∧ r.admitStamp ≠ 0 ∧ 1 ≤ r.state ∧ r.state ≤ 7) := fun h => of ⟨h.1, h.2.1⟩
      rw [if_neg (fun h => of (by obtain ⟨q, same, h⟩ := listed.mp h; cases same; exact h)), Option.map_some, if_neg out]

/-- Records without drafts drop none. -/
theorem foldl_dropDraft (l : List Nat) {e : Eng} (none : ∀ k r, e.rc k = some r → r.draftV = false) : l.foldl (fun e s => e.dropDraft s) e = e := by
  induction l with
  | nil => rfl
  | cons s l ih =>
    have same : e.dropDraft s = e := by
      unfold Eng.dropDraft
      cases is : e.rc s with
      | none => rfl
      | some r => exact if_neg (by rw [none s r is]; exact Bool.false_ne_true)
    rw [List.foldl_cons, same, ih]

/-! ### What is returned and withdrawn -/

section Returned
variable {e : Eng} {i : Nat}

theorem Eng.withdrawMoves_none (none : ∀ y ∈ e.pan.demand ++ e.pan.background ++ e.pan.held, y.inst ≠ i) : e.withdrawMoves i = e := by
  have empty : (e.pan.demand ++ e.pan.background ++ e.pan.held).filter (fun c => decide (c.inst = i ∧ c.kind = 1 ∧ c.started = 0)) = [] :=
    List.filter_eq_nil_iff.mpr (fun y hy hit => none y hy (of_decide_eq_true hit).1)
  unfold Eng.withdrawMoves
  dsimp only
  rw [empty]
  rfl

theorem Eng.movesOpen_none (none : e.shv.ops = []) : e.movesOpen i = false := by
  unfold Eng.movesOpen
  rw [none]
  rfl

theorem Eng.copiesOpen_none (none : e.shv.ops = []) : e.copiesOpen i = false := by
  unfold Eng.copiesOpen
  rw [none]
  rfl

/-- With no streaming grant and no buffer on a link there is little to return. -/
theorem Eng.returnCredits_none (grants : tget e.kpr.streamGrants i = none) (links : ∀ l, l < 9 → i ∉ (e.link l).bAsked) :
    ∃ streamGrants streamWait, e.returnCredits i = { e with kpr := { e.kpr with streamGrants, streamWait } } := by
  have nothing : tgetD e.kpr.streamGrants i 0 = 0 := by rw [tgetD, grants]; rfl
  have held : ∀ (l : List Nat) (y : Eng), (∀ k ∈ l, i ∉ (y.link k).bAsked) → l.foldl (fun e l => e.holdReturn l i) y = y := by
    intro l
    induction l with
    | nil => exact fun _ _ => rfl
    | cons k l ih =>
      intro y out
      have same : y.holdReturn k i = y := if_neg (fun h => out k List.mem_cons_self (List.contains_iff_mem.mp h))
      rw [List.foldl_cons, same, ih y (fun k hk => out k (List.mem_cons_of_mem _ hk))]
  refine ⟨tdel e.kpr.streamGrants i, e.kpr.streamWait.filter (fun x => decide (x.1 ≠ i)), ?_⟩
  unfold Eng.returnCredits
  extract_lets n f e1 kpr e2
  have first : e1 = e := if_pos nothing
  rw [held linkRange e2 (fun k hk => ?_)]
  · dsimp only [e2, kpr]
    rw [first]
  · dsimp only [e2, kpr]
    rw [first]
    exact links k (List.mem_range.mp hk)

/-- With no donation a save serves none. -/
theorem Eng.donateSaved_none (none : e.kpr.dons = []) : e.donateSaved i = e := by
  unfold Eng.donateSaved
  extract_lets e1 e2
  have first : e1 = e := Eng.modDon_none none _ _
  have second : e2 = e := by
    dsimp only [e2]
    rw [first, none]
    rfl
  rw [second, none]
  rfl

end Returned

/-! ### The end of a save -/

/-- The engine with an image written: the siblings' records changed, the context's trigger gone and Keeper's part set. -/
def Eng.imaged (e : Eng) (i : Nat) (recs : Tab LRec) (hot : List Nat) (pd : Tab Dom) (dbg : Dbg) (free : Nat) (kpr : Kpr) (o : Out) : Eng :=
  { e with
    cmp := (e.modInst i (fun x => { x with trig := none })).cmp, led := { e.led with recs, hot }, pd, dbg, free, kpr, out := o :: e.out }

/-- The register in which a save is counted. -/
def savesCount (freeze : Bool) : Fld := if freeze then F.KPR_SAVES_FREEZE_COUNT else F.KPR_SAVES_DRAIN_COUNT

/-- The bytes of array state that a save of a context writes. -/
def Eng.savedBytes (e : Eng) (i : Nat) : Nat := if (e.ctx i).freeze then e.arrayBytes i * max 1 (e.inst i).chips.length else 0

/-- A context that is saved. -/
structure Ctx.Saved (c : Ctx) (b : Nat) (c' : Ctx) : Prop where
  state : c'.state = 2
  frozen : c'.frozen = c.freeze
  bytes : c'.imgBytes = b
  held : c'.held = (c.holdAfter || c.exported.isSome || (c.held && c.byKeeper))

/-- The requests of an image are those of the Ledger's records. -/
theorem Eng.imageReqs_congr {e e' : Eng} (led : e'.led = e.led) (gat : e'.gat = e.gat) (siv : e'.siv = e.siv) (i : Nat) :
    e'.imageReqs i = e.imageReqs i := by
  have recs : e'.led.recs = e.led.recs := congrArg Led.recs led
  have rc : ∀ k, e'.rc k = e.rc k := Eng.rc_congr recs
  have sibs : ∀ k, e'.sibs k = e.sibs k := Eng.sibs_congr recs
  have view : ∀ k, e'.recView k = e.recView k := fun k => by
    unfold Eng.recView
    simp only [rc, gat]
  have entry : ∀ k, e'.sibEntry k = e.sibEntry k := fun k => by
    unfold Eng.sibEntry Eng.stackLine
    rw [rc k, view k, siv]
  have reqs : e'.instReqs i = e.instReqs i := by
    unfold Eng.instReqs Eng.instSlots Eng.firstOf
    simp only [rc, recs]
  unfold Eng.imageReqs
  simp only [reqs, sibs, entry, led]

/-- An image's bytes are in its owner's accounting. -/
theorem Eng.imageTraffic_eq (e : Eng) (i addr n : Nat) : ∃ parts, e.imageTraffic i addr n = { e with kpr := { e.kpr with parts } } := by
  unfold Eng.imageTraffic
  split
  · exact ⟨_, rfl⟩
  · exact ⟨_, rfl⟩

/-- What the end of a save does. -/
theorem saveEnd_eq {e : Eng} {i : Nat} (others : List DWord) (sorted : Tab.sorted e.led.recs = true) (off : e.mirrorOn = false)
    (draftless : ∀ k r, e.rc k = some r → r.draftV = false) (kept : (e.ctx i).gone = false) :
    ∃ recs hot pd dbg free kpr m b t, e.saveEnd i others =
        (((((((e.imaged i recs hot pd dbg free kpr (.image i ((e.ctx i).exported.getD (e.pairv 0xC118)) b m)).bump
          (savesCount (e.ctx i).freeze)).trace t).doneFor i).semSwap i true).donateSaved i).donateAll).balance i ∧
      (∀ k, tget recs k = if k ∈ e.instSlots i then (e.rc k).map LRec.swappedOut else e.rc k) ∧
      b = 256 + ((imgSections m).map (fun l => l.length)).sum + e.savedBytes i ∧
      m.shape = (e.shapeWords i others).map (BitVec.ofNat 64) ∧
      (∀ z : Eng, z.led = { e.led with recs, hot } → z.gat = e.gat → z.siv = e.siv → m.reqs = z.imageReqs i) ∧
      (kpr.sems = e.kpr.sems ∧ kpr.dons = e.kpr.dons ∧ kpr.cmd = e.kpr.cmd ∧ (e.ctx i).Saved b (tgetD kpr.ctxs i {}) ∧
        ∀ k, k ≠ i → tgetD kpr.ctxs k {} = e.ctx k) := by
  obtain ⟨recs, hot, pd, dbg, swapped, records⟩ := foldl_records _ _ Eng.swapAway_spec (e.instSlots i) (Eng.instSlots_nodup sorted i) e off
  let g : Eng := { e with led := { e.led with recs, hot }, pd, dbg }
  have away : e.swapOut i = g := swapped
  have drafts : (if (e.ctx i).freeze then g else (g.instSlots i).foldl (fun e s => e.dropDraft s) g) = g := by
    split
    · rfl
    · refine foldl_dropDraft _ (fun k r is => ?_)
      have here : (if k ∈ e.instSlots i then (e.rc k).map LRec.swappedOut else e.rc k) = some r := (records k).symm.trans is
      cases was : e.rc k with
      | none => rw [was] at here; split at here <;> cases here
      | some q =>
        rw [was] at here
        have bare := draftless k q was
        split at here
        · cases here
          unfold LRec.swappedOut
          split <;> exact bare
        · cases here
          exact bare
  unfold Eng.saveEnd
  extract_lets c x e1 e2 shape array f e3 m bytes addr moved used e4 e5 k5 e6 e7 k7 e8 e9 e10 e11 e12
  have one : e1 = g := away
  have two : e2 = g := by
    dsimp only [e2]
    rw [one]
    exact drafts
  obtain ⟨free, three⟩ : ∃ free, e3 = { g with free } := by
    change ∃ free, (if c.freeze then e2.fresh.2 else e2) = _
    rw [two]
    split
    · exact ⟨g.free + 1, rfl⟩
    · exact ⟨g.free, rfl⟩
  have words : shape = e.shapeWords i others := by
    dsimp only [shape]
    rw [two]
    rfl
  have state : array = e.savedBytes i := by
    dsimp only [array]
    rw [two]
    rfl
  have place : addr = (e.ctx i).exported.getD (e.pairv 0xC118) := by
    dsimp only [addr]
    rw [three]
    rfl
  have reqs : ∀ z : Eng, z.led = { e.led with recs, hot } → z.gat = e.gat → z.siv = e.siv → m.reqs = z.imageReqs i := fun z led gat siv =>
    (show m.reqs = e3.imageReqs i from rfl).trans (Eng.imageReqs_congr (by rw [three, led]) (by rw [three, gat]) (by rw [three, siv]) i)
  have shapes : m.shape = (e.shapeWords i others).map (BitVec.ofNat 64) := (show m.shape = shape.map (BitVec.ofNat 64) from rfl).trans (by rw [words])
  have size : bytes = 256 + ((imgSections m).map (fun l => l.length)).sum + e.savedBytes i := by
    dsimp only [bytes]
    rw [state, sumBy_eq_sum]
  let saved := fun c : Ctx => { c with
    state := 2, held := c.holdAfter || c.exported.isSome || (c.held && c.byKeeper), frozen := c.freeze, imgEpoch := x.epoch, imgCfg := x.cfg,
    imgBytes := bytes, imgShape := shape, sliceStart := none, sliceUsed := used, donating := false, haltAt := none, copies := none
    area := if c.freeze ∧ c.exported = none then bytes else 0 }
  have ctxs : ∀ k, e5.ctx k = if k = i then saved (e.ctx i) else e.ctx k := fun k => by
    refine (Eng.ctx_modCtx e4 i saved k).trans ?_
    dsimp only [e4]
    rw [three]
    rfl
  obtain ⟨parts, seven⟩ := e6.imageTraffic_eq i addr bytes
  obtain ⟨exports, eight⟩ : ∃ exports, e8 = { e7 with kpr := { e7.kpr with exports } } := by
    dsimp only [e8]
    split
    · exact ⟨_, rfl⟩
    · exact ⟨e7.kpr.exports, rfl⟩
  have written : e8 = { g with
      free, cmp := e4.cmp, kpr := { e5.kpr with imgBytes := bytes, parts, exports }, out := .image i addr bytes m :: e.out } := by
    rw [eight]
    dsimp only [e7]
    rw [seven]
    dsimp only [e6, k5, e5, e4, Eng.emit]
    rw [three]
    rfl
  have cmp : e4.cmp = (e.modInst i (fun x => { x with trig := none })).cmp := by
    dsimp only [e4]
    rw [three]
    rfl
  have keeper : e5.kpr = { e.kpr with ctxs := e5.kpr.ctxs } := by
    dsimp only [e5, e4]
    rw [three]
    rfl
  have done : e8 = e.imaged i recs hot pd dbg free { e.kpr with ctxs := e5.kpr.ctxs, imgBytes := bytes, parts, exports }
      (.image i ((e.ctx i).exported.getD (e.pairv 0xC118)) bytes m) := by
    rw [written, cmp, keeper, place]
    rfl
  obtain ⟨t, traced⟩ : ∃ t, e10 = (e8.bump (savesCount (e.ctx i).freeze)).trace t := by
    refine ⟨_, congrArg (fun y : Eng => y.ctxTrace i 1 (b2n c.freeze) (b2n c.exported.isSome) 0 c.byKeeper) ?_⟩
    change (if c.freeze = true then _ else _) = _
    unfold savesCount
    cases (e.ctx i).freeze <;> rfl
  refine ⟨recs, hot, pd, dbg, free, { e.kpr with ctxs := e5.kpr.ctxs, imgBytes := bytes, parts, exports }, m, bytes, t, ?_, records, size, shapes, reqs,
    rfl, rfl, rfl, ?_, fun k other => (ctxs k).trans (if_neg other)⟩
  · rw [← done, ← traced]
    exact if_neg (by rw [show c.gone = false from kept]; exact Bool.false_ne_true)
  · have own := (ctxs i).trans (if_pos rfl)
    change tgetD e5.kpr.ctxs i {} = _ at own
    rw [own]
    exact ⟨rfl, rfl, rfl, rfl⟩

/-- What the end of a save brings, and what it may change. -/
structure Eng.Saves (e : Eng) (i : Nat) (others : List DWord) (b : Nat) (m : Image) (z : Eng) : Prop where
  now : z.now = e.now
  out : .image i ((e.ctx i).exported.getD (e.pairv 0xC118)) b m ∈ z.out
  size : b = 256 + ((imgSections m).map (fun l => l.length)).sum + e.savedBytes i
  shape : m.shape = (e.shapeWords i others).map (BitVec.ofNat 64)
  reqs : m.reqs = z.imageReqs i
  ctx : (e.ctx i).Saved b (z.ctx i)
  others : ∀ k, k ≠ i → z.ctx k = e.ctx k
  rc : ∀ k, z.rc k = (e.rc k).map (fun r => if r.inst = i ∧ r.admitStamp ≠ 0 ∧ 1 ≤ r.state ∧ r.state ≤ 7
    then { r with prior := r.state, state := 8, priorPaused := r.prior } else r)
  sem : ∀ k, k < 64 → (z.sem k).swapped = ((e.sem k).swapped || decide ((e.sem k).holder = some i))
  cmd : e.kpr.cmd = some i → z.kpr.cmd = none ∧ z.kpr.cmdStatus = 0
  count : z.fv (savesCount (e.ctx i).freeze) = min (e.fv (savesCount (e.ctx i).freeze) + 1) (2 ^ 32 - 1)
  only : e.Only [2, 4, 6, 12, 15, 17] [0xC1C0, 0xC1C4] z

/-- The driver's command, if it is this context's, is done; Keeper's part is else kept. -/
theorem Eng.doneFor_eq (e : Eng) (i : Nat) : ∃ kpr, e.doneFor i = { e with kpr } ∧ (kpr.sems = e.kpr.sems ∧ kpr.dons = e.kpr.dons ∧ kpr.ctxs = e.kpr.ctxs) ∧
    (e.kpr.cmd = some i → kpr.cmd = none ∧ kpr.cmdStatus = 0) := by
  by_cases mine : e.kpr.cmd = some i
  · exact ⟨{ e.kpr with cmd := none, cmdStatus := 0 }, if_pos mine, ⟨rfl, rfl, rfl⟩, fun _ => ⟨rfl, rfl⟩⟩
  · exact ⟨e.kpr, if_neg mine, ⟨rfl, rfl, rfl⟩, fun h => absurd h mine⟩

/-- What Keeper does of semaphores and donations once a context is saved, with no donation and nobody waiting: the holder's semaphores are marked. -/
theorem saved_settles {e : Eng} (i : Nat) (dons : e.kpr.dons = []) (free : ∀ k, k < 64 → (e.sem k).waiters = []) :
    ∃ sems deadlocked, ((e.semSwap i true).donateSaved i).donateAll = { e with kpr := { e.kpr with sems, deadlocked } } ∧
      ∀ k, k < 64 → (tgetD sems k {}).swapped = ((e.sem k).swapped || decide ((e.sem k).holder = some i)) := by
  obtain ⟨sems, swaps, marked⟩ := e.semSwap_eq i true
  have empty : ∀ k, k < 64 → (({ e with kpr := { e.kpr with sems } } : Eng).sem k).waiters = [] := fun k low => by
    change (tgetD sems k {}).waiters = []
    rw [marked k low]
    split <;> exact free k low
  have kept : (e.semSwap i true).donateSaved i = { e with kpr := { e.kpr with sems } } := by
    rw [swaps]
    exact Eng.donateSaved_none dons
  obtain ⟨d, still⟩ := Eng.donateAll_still { e with kpr := { e.kpr with sems } }
    (fun k low => Eng.semCycle_false _ k (fun h holds waits j low' => absurd (empty k low) waits) low) (fun k low => .inr (empty k low))
  refine ⟨sems, d, ?_, fun k low => ?_⟩
  · rw [kept]
    exact still
  · rw [marked k low]
    by_cases holds : (e.sem k).holder = some i
    · simp [holds]
    · simp [holds]

theorem saveEnd_saves {e : Eng} {i : Nat} (others : List DWord) (sorted : Tab.sorted e.led.recs = true) (off : e.mirrorOn = false)
    (draftless : ∀ k r, e.rc k = some r → r.draftV = false) (kept : (e.ctx i).gone = false) (dons : e.kpr.dons = [])
    (free : ∀ k, k < 64 → (e.sem k).waiters = []) : ∃ b m, e.Saves i others b m (e.saveEnd i others) := by
  obtain ⟨recs, hot, pd, dbg, free', kpr, m, b, t, ends, records, size, shape, reqs, sems, dons', cmd, saved, rest⟩ :=
    saveEnd_eq others sorted off draftless kept
  refine ⟨b, m, ?_⟩
  rw [ends]
  clear ends
  let x := e.imaged i recs hot pd dbg free' kpr (.image i ((e.ctx i).exported.getD (e.pairv 0xC118)) b m)
  let cnt := savesCount (e.ctx i).freeze
  let y := (x.bump cnt).trace t
  change e.Saves i others b m ((((y.doneFor i).semSwap i true).donateSaved i).donateAll.balance i)
  have changed : e.Only [2, 4, 6, 12, 15, 17] [0xC1C0, 0xC1C4] x := by
    refine ⟨fun u away => ?_, fun _ _ _ _ _ _ => rfl, ⟨[_], rfl⟩⟩
    unfold Eng.partSame
    split <;> first | exact absurd (by decide) away | rfl | exact ⟨rfl, rfl, rfl, rfl⟩ | exact ⟨rfl, rfl⟩ | trivial
  have listed : cnt.off ∈ [0xC1C0, 0xC1C4] := by
    dsimp only [cnt, savesCount]
    split <;> decide
  have traced : (x.bump cnt).Only [2, 4, 6, 12, 15, 17] [0xC1C0, 0xC1C4] y := Eng.Only.traced (us := [2, 4, 6, 12, 15, 17]) (x.bump cnt) t (by decide)
  have only : e.Only [2, 4, 6, 12, 15, 17] [0xC1C0, 0xC1C4] y := (changed.trans (.bump x cnt 1 0 (by decide) listed)).trans traced
  have reports : (x.bump cnt).Reports y := Eng.trace_reports _ _
  have keeper : y.kpr = kpr := reports.kpr_eq
  have led : y.led = { e.led with recs, hot } := reports.led_eq
  have gat : y.gat = e.gat := reports.gat_eq
  have siv : y.siv = e.siv := reports.siv_eq
  have now : y.now = e.now := reports.now_eq
  have out : .image i ((e.ctx i).exported.getD (e.pairv 0xC118)) b m ∈ y.out := by
    obtain ⟨l, is⟩ := reports.out
    rw [is]
    exact List.mem_append_right _ List.mem_cons_self
  have count : y.fv cnt = min (e.fv cnt + 1) (2 ^ 32 - 1) := by
    have field : cnt = ⟨cnt.off, 31, 0⟩ := by
      dsimp only [cnt, savesCount]
      split <;> rfl
    have same : tallyReg cnt.off = false := by
      dsimp only [cnt, savesCount]
      split <;> decide
    have word : y.reg cnt.off = (x.bump cnt).reg cnt.off := reports.regs cnt.off 0 (by decide) same
    have before : x.fv cnt = e.fv cnt := Eng.fv_congr rfl _ _
    have bumped := Eng.fv_bump_same x cnt 1 0 (congrArg Fld.hi field) (congrArg Fld.lo field)
    rw [before] at bumped
    exact (congrArg (fun w : Word => bitsOf w.toNat cnt.hi cnt.lo) word).trans bumped
  clear_value y
  obtain ⟨kpr', ended, ⟨sems', dons'', ctxs'⟩, ends⟩ := y.doneFor_eq i
  have sem : ∀ k, (({ y with kpr := kpr' } : Eng).sem k) = e.sem k := fun k =>
    congrArg (fun t : Tab Sem => tgetD t k {}) (sems'.trans ((congrArg Kpr.sems keeper).trans sems))
  obtain ⟨sems'', d, settles, marked⟩ := saved_settles (e := { y with kpr := kpr' }) i (dons''.trans ((congrArg Kpr.dons keeper).trans (dons'.trans dons)))
    (fun k low => by rw [sem]; exact free k low)
  rw [ended, settles]
  have ctx : ∀ k, tgetD kpr'.ctxs k {} = tgetD kpr.ctxs k {} := fun k => by rw [ctxs', keeper]
  refine ⟨now, out, size, shape, reqs _ led gat siv, ?_, fun k other => (ctx k).trans (rest k other), fun k => ?_, fun k low => ?_, fun mine => ?_, count,
    only.trans (Eng.Only.trans (.setKpr y _ (by decide)) (.setShv _ _ (by decide)))⟩
  · have own := saved
    rw [← ctx i] at own
    exact own
  · refine Eq.trans ?_ ((records k).trans (swappedOut_listed sorted i k))
    exact congrArg (fun l : Led => tget l.recs k) led
  · exact (marked k low).trans (by rw [sem])
  · exact ends ((congrArg Kpr.cmd keeper).trans (cmd.trans mine))

/-! ### The start of a save -/

/-- A context that is being saved. -/
def Ctx.saving (c : Ctx) (freeze keeper : Bool) (h : Nat) : Ctx :=
  { c with
    state := 1, want := 0, freeze, exported := none, byKeeper := keeper, holdAfter := !keeper, halted := false
    haltAt := if freeze then some h else none, flushed := false, gone := false, copies := none, area := if freeze then c.area else 0 }

/-- The Tally at which a context that is frozen now halts. -/
def Eng.haltTally (e : Eng) (i : Nat) : Nat := e.now + e.leadEff i (e.av (F.TAL_EDGE_LEAD_n_LEAD.at 4 i))

section Starts
variable {e : Eng} {i : Nat}

theorem saveStart_drain (e : Eng) (i : Nat) (keeper : Bool) :
    e.saveStart i false none keeper = e.modCtx i (fun c => c.saving false keeper (e.haltTally i)) := rfl

/-- Nothing is billed. -/
theorem Eng.ownBytes_zero (e : Eng) (i : Nat) : ∃ parts, e.ownBytes i 0 0 0 = { e with kpr := { e.kpr with parts } } ∧
    ∀ p, tgetD parts p {} = e.part p := by
  refine ⟨_, rfl, fun p => (Eng.part_modPart e (e.inst i).owner p (fun k => { k with storeB := k.storeB + 0, cellarB := k.cellarB + 0, rafB := k.rafB + 0 })).trans ?_⟩
  by_cases own : p = (e.inst i).owner
  · rw [if_pos own, own]
    rfl
  · rw [if_neg own]

theorem saveStart_freeze (alone : ∀ k ∈ (e.inst i).chips, k = e.self) (keeper : Bool) :
    ∃ parts, e.saveStart i true none keeper = { e with
        out := .array (.halt i (e.haltTally i)) :: e.out
        kpr := { e.kpr with ctxs := (e.modCtx i (fun c => c.saving true keeper (e.haltTally i))).kpr.ctxs, parts } } ∧
      ∀ p, tgetD parts p {} = e.part p := by
  let z := e.modCtx i (fun c => c.saving true keeper (e.haltTally i))
  have empty : z.others i = [] := List.filter_eq_nil_iff.mpr (fun k hk other => of_decide_eq_true other (alone k hk))
  obtain ⟨parts, billed, same⟩ := z.ownBytes_zero i
  refine ⟨parts, ?_, same⟩
  unfold Eng.saveStart
  extract_lets h x y
  have told : y = z := by
    change (z.others i).foldl _ z = z
    rw [empty]
    rfl
  rw [if_pos rfl, told, empty, List.length_nil, Nat.zero_mul, billed]
  rfl

/-- Keeper wants a context saved by freeze where the image finds room, and by drain else. -/
theorem wantFreeze_spec (e : Eng) (i : Nat) : ∃ (n want area : Nat), e.wantFreeze i = ({ e with free := n } : Eng).modCtx i (fun c => { c with want, area }) ∧
    (want = 2 → area ≤ e.areaFree i) := by
  unfold Eng.wantFreeze
  extract_lets f n
  by_cases room : n ≤ e.areaFree i
  · exact ⟨e.free + 1, 2, n, if_pos room, fun _ => room⟩
  · exact ⟨e.free, 1, 0, if_neg room, fun h => absurd h (by decide)⟩

end Starts

section Driver
variable {w : Word} {inst : Nat} {s : State}

theorem exec_save_drain (up : s.boot.absent = false) (go : w.getLsbD 31 = true) (idle : s.eng.kpr.cmd = none) (op : w.toNat % 8 = 1)
    (of : w.toNat / 2 ^ 8 % 16 = inst) (drain : w.getLsbD 3 = false) :
    exec (.saveDrain (some w) inst) s = .next (s.withEng ((s.eng.ctxCmdWrite w).driverSave w)) := by
  change execSaveDrain (some w) inst s = _
  rw [execSaveDrain, live_up up]
  dsimp only
  rw [Eng.ctxGo_of go idle op, ctxInst_of of, bitOf_toNat, drain, decide_eq_true rfl]
  rfl

theorem exec_save_freeze (up : s.boot.absent = false) (go : w.getLsbD 31 = true) (idle : s.eng.kpr.cmd = none) (op : w.toNat % 8 = 1)
    (of : w.toNat / 2 ^ 8 % 16 = inst) (freeze : w.getLsbD 3 = true) :
    exec (.saveFreeze (some w) inst) s = .next (s.withEng ((s.eng.ctxCmdWrite w).driverSave w)) := by
  change execSaveFreeze (some w) inst s = _
  rw [execSaveFreeze, live_up up]
  dsimp only
  rw [Eng.ctxGo_of go idle op, ctxInst_of of, bitOf_toNat, freeze, decide_eq_true rfl]
  rfl

end Driver

/-- A driver's SAVE of a resident context, LOCAL: by drain, or as the freeze finds room. -/
theorem driverSave_local {e : Eng} {w : Word} {i : Nat} (of : ctxInst w = i) (here : w.getLsbD 4 = false)
    (home : (e.inst i).active = true ∧ (e.inst i).lead = true ∧ e.instIn i = true ∧ (e.ctx i).state = 0) :
    e.driverSave w = if w.getLsbD 3 = true
      then (({ e with kpr := { e.kpr with cmd := some i } } : Eng).wantFreeze i).saveStart i
        (decide (((({ e with kpr := { e.kpr with cmd := some i } } : Eng).wantFreeze i).ctx i).want = 2)) none false
      else ({ e with kpr := { e.kpr with cmd := some i } } : Eng).saveStart i false none false := by
  obtain ⟨active, lead, loaded, state⟩ := home
  subst of
  have resident : ¬(!((e.inst (ctxInst w)).active && (e.inst (ctxInst w)).lead && e.instIn (ctxInst w))) = true := by
    rw [active, lead, loaded]
    decide
  unfold Eng.driverSave
  dsimp only
  refine (if_neg resident).trans ?_
  rw [state, if_neg (by decide), if_neg (by decide), if_neg (by decide)]
  simp only [bitOf_toNat, here, Option.isSome_none, Bool.or_false, Bool.false_eq_true, if_false]

/-- A SAVE of an `Inst` that is not here, or is SAVED. -/
theorem driverSave_refused {e : Eng} {w : Word} {i : Nat} (of : ctxInst w = i)
    (bad : (e.inst i).active = false ∨ e.instIn i = false ∨ (e.ctx i).state = 2) : e.driverSave w = e.cmdDone 0x2A := by
  subst of
  unfold Eng.driverSave
  extract_lets i c x kpr busy dest
  by_cases resident : (!(x.active && x.lead && e.instIn i)) = true
  · exact if_pos resident
  · rw [if_neg resident]
    have saved : c.state = 2 := by
      rcases bad with away | away | saved
      · exact absurd (by rw [show x.active = false from away]; rfl) resident
      · exact absurd (by rw [show e.instIn i = false from away, Bool.and_false]; rfl) resident
      · exact saved
    rw [saved, if_neg (by decide), if_neg (by decide), if_pos rfl]

/-- The command word leaves the Tally at which a context would halt. -/
theorem Eng.ctxCmdWrite_haltTally (e : Eng) (w : Word) {i : Nat} (low : i < 16) : (e.ctxCmdWrite w).haltTally i = e.haltTally i := by
  have floor : (e.ctxCmdWrite w).fv (F.TAL_EDGE_FLOOR_n_FLOOR.at 4 i) = e.fv (F.TAL_EDGE_FLOOR_n_FLOOR.at 4 i) :=
    e.ctxCmdWrite_fv w (by decide) (by interval_cases i <;> decide)
  unfold Eng.haltTally Eng.leadEff
  rw [floor]
  rfl

/-- Reports of the entries of an `Inst` tell the array alone. -/
theorem foldl_binReport (l : List Nat) (i : Nat) (e : Eng) : ∃ out, l.foldl (fun e ep => e.binReport i ep) e = { e with out := out ++ e.out } := by
  induction l generalizing e with
  | nil => exact ⟨[], rfl⟩
  | cons ep l ih =>
    obtain ⟨out, rest⟩ := ih (e.binReport i ep)
    exact ⟨out ++ [.array (.binEntries i ep (e.binCount i ep))], by rw [List.foldl_cons, rest, List.append_assoc]; rfl⟩

/-- A context whose array has halted. -/
def Ctx.haltedAt (c : Ctx) (t : Nat) (bins : List BinEnt) : Ctx := { c with halted := true, haltAt := some t, imgBins := bins }

/-- An `Inst` whose array has halted: no step is done and no timer runs. -/
def Inst.stilled (x : Inst) : Inst := { x with step := x.step.map (fun st => { st with arrayDone := false, timer := none }) }

/-- The engine with a context's array halted, its Bins entries in its image. -/
def Eng.halts (e : Eng) (i : Nat) (out : List Out) : Eng :=
  { e with
    cmp := (e.modInst i Inst.stilled).cmp, out := out ++ e.out
    bin := { e.bin with entries := e.bin.entries.filter (fun b => decide (b.inst ≠ i)) }
    kpr := { e.kpr with ctxs := (e.modCtx i (fun c => c.haltedAt e.now (e.bin.entries.filter (fun b => decide (b.inst = i))))).kpr.ctxs } }

theorem Eng.Only.halts (e : Eng) (i : Nat) (out : List Out) : e.Only [0, 4, 11, 12, 17] [] (e.halts i out) := by
  refine ⟨fun u away => ?_, fun _ _ _ _ _ _ => rfl, ⟨out, rfl⟩⟩
  unfold Eng.partSame
  split <;> first | exact absurd (by decide) away | rfl | exact ⟨rfl, rfl, rfl, rfl⟩ | exact ⟨rfl, rfl⟩ | trivial

/-- What the halt of a frozen context does. -/
theorem freezeHalt_spec {s : State} {inst h : Nat} (up : s.boot.absent = false) (settled : s.Settled) (state : (s.eng.ctx inst).state = 1)
    (halted : (s.eng.ctx inst).halted = false) (at_ : (s.eng.ctx inst).haltAt = some h)
    (copied : (s.eng.ctx inst).exported = none ∨ (s.eng.ctx inst).copies ≠ none) :
    ∃ out, exec (.freezeHalt inst) s = .next (s.withEng ((s.eng.advance h).halts inst out)) := by
  let a := s.eng.advance h
  let bins := a.bin.entries.filter (fun b => decide (b.inst = inst))
  let z := (a.binFreeze inst).2.modCtx inst (fun c => c.haltedAt a.now bins)
  obtain ⟨out, told⟩ := foldl_binReport (bins.map (fun x => x.epoch)).eraseDups inst z
  have gone : (fun b : BinEnt => !decide (b.inst = inst)) = fun b => decide (b.inst ≠ inst) := funext (fun b => by simp)
  have left : z.bin = { a.bin with entries := a.bin.entries.filter (fun b => decide (b.inst ≠ inst)) } := by
    rw [← gone]
    rfl
  refine ⟨out, ?_⟩
  change timed s (atFreezeHalt inst) = _
  rw [timed_settled s _ settled, atFreezeHalt, live_up up]
  have going : ¬((s.eng.ctx inst).state ≠ 1 ∨ (s.eng.ctx inst).halted = true) := by
    rw [state, halted]
    decide
  have made : ¬((s.eng.ctx inst).exported.isSome && (s.eng.ctx inst).copies.isNone) = true := by
    rcases copied with local_ | copies
    · rw [local_]
      exact Bool.false_ne_true
    · cases is : (s.eng.ctx inst).copies with
      | none => exact absurd is copies
      | some l => simp
  dsimp only
  rw [at_]
  refine congrArg (fun y => Host.Outcome.next (s.withEng y)) ((if_neg going).trans ((if_neg made).trans ?_))
  refine (congrArg (fun y : Eng => y.modInst inst Inst.stilled) told).trans ?_
  unfold Eng.halts
  rw [← left]
  rfl

/-- The end of a save that has come to rest, where nothing is in the Pantry or on a link: little is returned, and time passes. -/
theorem saveFinish_spec {e : Eng} {i : Nat} {others : List DWord} (moves : ∀ y ∈ e.pan.demand ++ e.pan.background ++ e.pan.held, y.inst ≠ i)
    (ops : e.shv.ops = []) (rate : (e.ctx i).freeze = true → e.saveRate ≠ 0) (copies : (e.ctx i).exported.isSome = true → (e.ctx i).copies.isSome = true)
    (grants : tget e.kpr.streamGrants i = none) (links : ∀ l, l < 9 → i ∉ (e.link l).bAsked) (at_ : (e.ctx i).freeze = true → (e.ctx i).haltAt.isSome = true) :
    ∃ streamGrants streamWait a, e.saveFinish i others = a.saveEnd i others ∧ ({ e with kpr := { e.kpr with streamGrants, streamWait } } : Eng).Passes a ∧
      (∀ p, a.fv F.KPR_PART_TILES_GROUPS p = e.fv F.KPR_PART_TILES_GROUPS p) ∧
      a.now = max e.now (if (e.ctx i).freeze = true then (e.ctx i).haltAt.getD 0 + 15000 + cdiv (e.arrayBytes i) e.saveRate + 2000
        else if (e.ctx i).exported = none then e.now + 2000 else e.now) := by
  obtain ⟨streamGrants, streamWait, returned⟩ := Eng.returnCredits_none grants links
  let z : Eng := { e with kpr := { e.kpr with streamGrants, streamWait } }
  have moving : ¬(e.movesOpen i || ((e.ctx i).freeze && decide (e.saveRate = 0))) = true := by
    rw [Eng.movesOpen_none ops, Bool.false_or]
    cases is : (e.ctx i).freeze with
    | false => exact Bool.false_ne_true
    | true => rw [decide_eq_false (rate is)]; exact Bool.false_ne_true
  have copying : ¬((e.ctx i).exported.isSome && (e.ctx i).copies.isNone) = true := by
    cases there : (e.ctx i).exported.isSome with
    | false => exact Bool.false_ne_true
    | true =>
      obtain ⟨l, made⟩ := Option.isSome_iff_exists.mp (copies there)
      rw [made]
      exact Bool.false_ne_true
  have opened : ¬e.copiesOpen i = true := by
    rw [Eng.copiesOpen_none ops]
    exact Bool.false_ne_true
  have finish : e.saveFinish i others = (if (e.ctx i).freeze then
        z.advance ((e.ctx i).haltAt.getD z.now + 15000 + cdiv (z.arrayBytes i) z.saveRate + 2000)
      else if (e.ctx i).exported.isNone then z.advance (z.now + 2000) else z).saveEnd i others := by
    unfold Eng.saveFinish
    dsimp only
    rw [Eng.withdrawMoves_none moves]
    refine (if_neg moving).trans ((if_neg copying).trans ((if_neg opened).trans ?_))
    rw [returned]
  have after : ∀ T, z.Passes (z.advance T) ∧ (∀ p, (z.advance T).fv F.KPR_PART_TILES_GROUPS p = e.fv F.KPR_PART_TILES_GROUPS p) ∧
      (z.advance T).now = max e.now T := fun T => ⟨z.advance_passes T, z.advance_tiles T, z.advance_now T⟩
  refine ⟨streamGrants, streamWait, ?_⟩
  rw [finish]
  by_cases freeze : (e.ctx i).freeze = true
  · obtain ⟨h, is⟩ := Option.isSome_iff_exists.mp (at_ freeze)
    rw [if_pos freeze, if_pos freeze, is]
    exact ⟨_, rfl, after _⟩
  · rw [if_neg freeze, if_neg freeze]
    cases (e.ctx i).exported with
    | none => exact ⟨_, rfl, after (e.now + 2000)⟩
    | some a => exact ⟨z, rfl, .refl z, fun _ => rfl, (Nat.max_self e.now).symm⟩

/-- The shapes of an `Inst`'s chips hang on its placement, the tile groups and the clusters. -/
theorem Eng.shapeWords_congr {e e' : Eng} (cmp : e'.cmp = e.cmp) (act : e'.act = e.act) (pos : e'.fv F.RAF_POS_POS = e.fv F.RAF_POS_POS)
    (tiles : ∀ p, e'.fv F.KPR_PART_TILES_GROUPS p = e.fv F.KPR_PART_TILES_GROUPS p) (i : Nat) (others : List DWord) :
    e'.shapeWords i others = e.shapeWords i others := by
  have inst : e'.inst i = e.inst i := by rw [Eng.inst, cmp]; rfl
  have cluster : ∀ c, e'.clusterMask c = e.clusterMask c := fun c => by
    unfold Eng.clusterMask Eng.av
    rw [act]
  have shape : ∀ p, e'.shape p = e.shape p := fun p => by
    unfold Eng.shape Eng.tileMask
    simp only [tiles, cluster]
  unfold Eng.shapeWords Eng.self
  dsimp only
  rw [inst, pos, shape]

/-- Settles O50: the start of a save by Keeper and by the driver, the halt of a freeze, and the end of a save. -/
theorem contextsAreSaved : Obligations.ContextsAreSaved := by
  intro w inst shapes s up low e x c rest lead go saving frozen home
  have here : e.now + lead = e.haltTally inst := rfl
  refine ⟨fun resident on => ⟨fun want step => ?drain, fun want alone => ?freeze⟩, fun ⟨started, idle, op, of⟩ kind => ⟨fun resident dest => ?driverDrain, fun bad => ?refused⟩,
    fun ⟨started, idle, op, of⟩ kind resident dest alone => ?driverFreeze, fun h settled state halted at_ later copied => ?halt,
    fun settled state rested copies kept sorted draftless off dons free ops moves grants links => ?complete⟩
  case drain =>
    obtain ⟨active, leads, loaded, state⟩ := resident
    have due : (e.kprOn && e.ctxResident inst && decide (c.want = 1) && (e.inst inst).step.isNone) = true := by
      rw [on, Eng.ctxResident, Eng.ctxHere, leads, active, loaded, decide_eq_true state, decide_eq_true want, step]
      rfl
    refine ⟨s.withEng (e.saveStart inst false none true), ?_, (Eng.ctx_modCtx e inst (fun c => c.saving false true (e.haltTally inst)) inst).trans (if_pos rfl),
      fun k other => (Eng.ctx_modCtx e inst (fun c => c.saving false true (e.haltTally inst)) k).trans (if_neg other), rfl⟩
    change execSaveDrain none inst s = _
    rw [execSaveDrain, live_up up]
    exact congrArg (fun y => Host.Outcome.next (s.withEng y)) (if_pos due)
  case freeze =>
    obtain ⟨active, leads, loaded, state⟩ := resident
    have due : (e.kprOn && e.ctxResident inst && decide ((e.ctx inst).want = 2)) = true := by
      rw [on, Eng.ctxResident, Eng.ctxHere, leads, active, loaded, decide_eq_true state, decide_eq_true want]
      rfl
    obtain ⟨parts, begun, same⟩ := saveStart_freeze alone true
    refine ⟨s.withEng { e with out := .array (.halt inst (e.haltTally inst)) :: e.out, kpr := { e.kpr with
        ctxs := (e.modCtx inst (fun c => c.saving true true (e.haltTally inst))).kpr.ctxs, parts } }, ?_,
      (Eng.ctx_modCtx e inst (fun c => c.saving true true (e.haltTally inst)) inst).trans (if_pos rfl),
      fun k other => (Eng.ctx_modCtx e inst (fun c => c.saving true true (e.haltTally inst)) k).trans (if_neg other), same, rfl⟩
    change execSaveFreeze none inst s = _
    rw [execSaveFreeze, live_up up]
    exact congrArg (fun y => Host.Outcome.next (s.withEng y)) ((if_pos due).trans begun)
  case driverDrain =>
    let f : Eng := { e.ctxCmdWrite w with kpr := { e.kpr with cmd := some inst } }
    have saves := (driverSave_local (e := e.ctxCmdWrite w) (ctxInst_of of) dest resident).trans (if_neg (by rw [kind]; exact Bool.false_ne_true))
    refine ⟨s.withEng (f.saveStart inst false none false), ?_,
      (Eng.ctx_modCtx f inst (fun c => c.saving false false (f.haltTally inst)) inst).trans (if_pos rfl),
      fun k other => (Eng.ctx_modCtx f inst (fun c => c.saving false false (f.haltTally inst)) k).trans (if_neg other), rfl, ?_, rfl, rfl, ?_⟩
    · exact (exec_save_drain up started idle op of kind).trans (congrArg (fun y => Host.Outcome.next (s.withEng y)) saves)
    · exact Eng.reg_putReg_same e 0xC100 0 _
    · exact (Eng.Only.ctxCmdWrite e w).trans (.setKpr (e.ctxCmdWrite w) _ (by decide))
  case refused =>
    refine ⟨s.withEng ((e.ctxCmdWrite w).cmdDone 0x2A), ?_, rfl, rfl, rfl, (Eng.Only.ctxCmdWrite e w).trans (.setKpr _ _ (by decide))⟩
    exact (exec_save_drain up started idle op of kind).trans (congrArg (fun y => Host.Outcome.next (s.withEng y)) (driverSave_refused (ctxInst_of of) bad))
  case driverFreeze =>
    let f : Eng := { e.ctxCmdWrite w with kpr := { e.kpr with cmd := some inst } }
    have saves := (driverSave_local (e := e.ctxCmdWrite w) (ctxInst_of of) dest resident).trans (if_pos kind)
    obtain ⟨n, want, area, wants, room⟩ := wantFreeze_spec f inst
    let z : Eng := ({ f with free := n } : Eng).modCtx inst (fun c => { c with want, area })
    have own : z.ctx inst = { c with want, area } := (Eng.ctx_modCtx { f with free := n } inst (fun c => { c with want, area }) inst).trans (if_pos rfl)
    have others : ∀ k, k ≠ inst → z.ctx k = e.ctx k := fun k other =>
      (Eng.ctx_modCtx { f with free := n } inst (fun c => { c with want, area }) k).trans (if_neg other)
    have tally : z.haltTally inst = e.haltTally inst := e.ctxCmdWrite_haltTally w low
    have self : z.self = e.self := congrArg (· % 64) (e.ctxCmdWrite_fv w (by decide) (by decide) : (e.ctxCmdWrite w).fv F.RAF_POS_POS = _)
    have upTo : e.Only [12] [0xC100] z := (Eng.Only.ctxCmdWrite e w).trans (Eng.Only.trans (.setKpr (e.ctxCmdWrite w) z.kpr (by decide)) (.of_parts rfl rfl (fun u _ => by
      unfold Eng.partSame
      split <;> first | rfl | exact ⟨rfl, rfl, rfl, rfl⟩ | exact ⟨rfl, rfl⟩ | trivial)))
    have ran : exec (.saveFreeze (some w) inst) s = .next (s.withEng (z.saveStart inst (decide ((z.ctx inst).want = 2)) none false)) := by
      refine (exec_save_freeze up started idle op of kind).trans (congrArg (fun y => Host.Outcome.next (s.withEng y)) (saves.trans ?_))
      exact congrArg (fun y : Eng => y.saveStart inst (decide ((y.ctx inst).want = 2)) none false) wants
    rw [own] at ran
    by_cases found : want = 2
    · rw [decide_eq_true found] at ran
      obtain ⟨parts, begun, -⟩ := saveStart_freeze (e := z) (i := inst) (fun k hk => (alone k hk).trans self.symm) false
      rw [begun] at ran
      have saving := fun k => Eng.ctx_modCtx z inst (fun c => c.saving true false (z.haltTally inst)) k
      have mine := (saving inst).trans (if_pos rfl)
      rw [own] at mine
      refine ⟨_, ran, congrArg Ctx.state mine, congrArg Ctx.holdAfter mine, rfl, fun k other => ((saving k).trans (if_neg other)).trans (others k other),
        fun _ => ⟨?_, ?_, ?_⟩, rfl, rfl, upTo.trans (.setKprOut z _ _ (by decide))⟩
      · change Out.array (.halt inst (z.haltTally inst)) :: e.out = _
        rw [tally]
        rfl
      · exact (congrArg Ctx.haltAt mine).trans (congrArg some tally)
      · refine (congrArg Ctx.area mine).trans_le ((room found).trans_eq ?_)
        unfold Eng.areaFree
        rw [show f.fv F.KPR_SAVE_SIZE_GIB = e.fv F.KPR_SAVE_SIZE_GIB from e.ctxCmdWrite_fv w (by decide) (by decide)]
    · rw [decide_eq_false found, saveStart_drain] at ran
      have saving := fun k => Eng.ctx_modCtx z inst (fun c => c.saving false false (z.haltTally inst)) k
      have mine := (saving inst).trans (if_pos rfl)
      exact ⟨_, ran, congrArg Ctx.state mine, congrArg Ctx.holdAfter mine, rfl, fun k other => ((saving k).trans (if_neg other)).trans (others k other),
        fun freezes => absurd ((congrArg Ctx.freeze mine).symm.trans freezes) Bool.false_ne_true, rfl, rfl, upTo.trans (.setKpr z _ (by decide))⟩
  case halt =>
    obtain ⟨out, ran⟩ := freezeHalt_spec up settled state halted at_ copied
    let a := e.advance h
    have now : a.now = h := (e.advance_now h).trans (Nat.max_eq_right later)
    have bin : a.bin = e.bin := e.advance_bin h
    have ctx : ∀ k, a.ctx k = e.ctx k := e.advance_ctx h
    have inst_ : ∀ k, a.inst k = e.inst k := e.advance_inst h
    have waited : e.Only [0, 4, 11, 12, 17] [] a := .of_passes (e.advance_passes h) (by decide) (by decide) (by decide)
    change exec (.freezeHalt inst) s = .next (s.withEng (a.halts inst out)) at ran
    clear_value a
    have ctxs : ∀ k, (a.halts inst out).ctx k = if k = inst
        then (a.ctx inst).haltedAt a.now (a.bin.entries.filter (fun b => decide (b.inst = inst))) else a.ctx k := fun k =>
      Eng.ctx_modCtx a inst (fun c => c.haltedAt a.now (a.bin.entries.filter (fun b => decide (b.inst = inst)))) k
    have insts : ∀ k, (a.halts inst out).inst k = if k = inst then (a.inst inst).stilled else a.inst k := fun k => Eng.inst_modInst a inst k Inst.stilled
    refine ⟨_, ran, now, fun k other => ((ctxs k).trans (if_neg other)).trans (ctx k), ((ctxs inst).trans (if_pos rfl)).trans ?_, ?_,
      ((insts inst).trans (if_pos rfl)).trans (congrArg Inst.stilled (inst_ inst)), fun k other => ((insts k).trans (if_neg other)).trans (inst_ k), rfl, rfl,
      waited.trans (.halts a inst out)⟩
    · rw [ctx, now, bin]
      rfl
    · exact congrArg (fun y : Bin => { y with entries := y.entries.filter (fun b => decide (b.inst ≠ inst)) }) bin
  case complete =>
    intro done array counted
    have rates : c.freeze = true → e.saveRate ≠ 0 := fun freeze => by
      rw [if_pos freeze] at rested
      obtain ⟨-, -, -, rate, -⟩ := rested
      unfold Eng.saveRate
      omega
    have tally : c.freeze = true → c.haltAt.isSome = true := fun freeze => by
      rw [if_pos freeze] at rested
      exact rested.2.2.2.2
    obtain ⟨streamGrants, streamWait, a, finish, passes, tiles, now⟩ :=
      saveFinish_spec (others := shapes) moves ops rates copies grants links tally
    have ran : exec (.saveComplete { inst, shapes }) s = .next (s.withEng (a.saveEnd inst shapes)) := by
      change timed s (atSaveComplete { inst, shapes }) = _
      rw [timed_settled s _ settled, atSaveComplete, live_up up]
      refine congrArg (fun y => Host.Outcome.next (s.withEng y)) (Eq.trans ?_ finish)
      dsimp only
      refine (if_neg (fun other => other state)).trans ?_
      by_cases freeze : c.freeze = true
      · rw [if_pos freeze] at rested
        obtain ⟨halted, idle, rows, -, -⟩ := rested
        refine (if_pos freeze).trans (if_pos ?_)
        rw [halted, decide_eq_true idle, rows]
        rfl
      · rw [if_neg freeze] at rested
        obtain ⟨comp, step, flushed⟩ := rested
        refine (if_neg freeze).trans (if_pos ?_)
        have idle : (x.comp.isNone && x.step.isNone && (c.flushed || !e.pendingCopy inst)) = true := by rw [comp, step, flushed]; rfl
        exact idle
    have keeper : a.kpr = { e.kpr with streamGrants, streamWait, parts := a.kpr.parts } := congrArg Eng.kpr passes.rest
    have ctxs : a.kpr.ctxs = e.kpr.ctxs := (congrArg Kpr.ctxs keeper).trans rfl
    have sems : a.kpr.sems = e.kpr.sems := (congrArg Kpr.sems keeper).trans rfl
    have ctx : ∀ k, a.ctx k = e.ctx k := fun k => congrArg (fun t : Tab Ctx => tgetD t k {}) ctxs
    have sem : ∀ k, a.sem k = e.sem k := fun k => congrArg (fun t : Tab Sem => tgetD t k {}) sems
    have led : a.led = e.led := passes.led_eq
    have rc : ∀ k, a.rc k = e.rc k := fun k => congrArg (fun l : Led => tget l.recs k) led
    have cmp : a.cmp = e.cmp := passes.cmp_eq
    have waited : e.Only [0, 2, 4, 6, 12, 15, 17] [0xC1C0, 0xC1C4] a :=
      Eng.Only.trans (.setKpr e _ (by decide)) (.of_passes passes (by decide) (by decide) (by decide))
    have word : ∀ off, timeReg off = false → a.reg off = e.reg off := fun off own => passes.regs off 0 (by decide) own
    have mirror : a.mirrorOn = e.mirrorOn := by
      have only : e.Only [0, 12, 17] [] a := Eng.Only.trans (.setKpr e _ (by decide)) (.of_passes passes (by decide) (by decide) (by decide))
      exact only.mirrorOn (congrArg Raf.mapLoaded passes.raf_eq)
    have shape : a.shapeWords inst shapes = e.shapeWords inst shapes :=
      Eng.shapeWords_congr cmp passes.act_eq (congrArg (fun v : Word => bitsOf v.toNat F.RAF_POS_POS.hi F.RAF_POS_POS.lo) (word F.RAF_POS_POS.off (by decide))) tiles inst shapes
    have bytes : a.savedBytes inst = array := by
      unfold Eng.savedBytes Eng.arrayBytes Eng.tileMask
      rw [ctx, tiles, Eng.inst, cmp]
      rfl
    have place : a.pairv 0xC118 = e.pairv 0xC118 := by
      unfold Eng.pairv
      rw [word 0xC118 (by decide), word (0xC118 + 4) (by decide)]
    have count : a.fv counted = e.fv counted := by
      have low : timeReg counted.off = false := by
        dsimp only [counted]
        split <;> decide
      exact congrArg (fun v : Word => bitsOf v.toNat counted.hi counted.lo) (word counted.off low)
    obtain ⟨b, m, saves⟩ := saveEnd_saves (e := a) (i := inst) shapes (by rw [led]; exact sorted) (mirror.trans off) (fun k r is => draftless k r ((rc k).symm.trans is))
      (by rw [ctx]; exact kept) ((congrArg Kpr.dons keeper).trans dons) (fun k low => by rw [sem]; exact free k low)
    generalize a.saveEnd inst shapes = z at saves ran
    obtain ⟨savedAt, out, size, shapeIs, reqs, saved, others, recs, swapped, cmd, counts, only⟩ := saves
    rw [ctx] at saved
    obtain ⟨isSaved, frozen_, imgBytes, held⟩ := saved
    refine ⟨s.withEng z, b, m, ran, savedAt.trans now, ?_, by rw [size, bytes], by rw [shapeIs, shape], reqs, isSaved, frozen_, imgBytes, held,
      fun k other => (others k other).trans (ctx k), fun k => (recs k).trans (by rw [rc]), fun k low => (swapped k low).trans (by rw [sem]),
      fun mine => cmd ((congrArg Kpr.cmd keeper).trans mine), ?_, rfl, rfl, waited.trans (only.weaken (by decide) (by decide))⟩
    · rw [ctx, place] at out
      exact out
    · rw [ctx] at counts
      exact counts.trans (by rw [show savesCount (e.ctx inst).freeze = counted from rfl, count])

end Sys2Proof.Machine
end

section
/-!
The Ledger's clockwork (O39).
-/
namespace Sys2Proof.Machine

/-! ### The event of a missed first deadline -/

/-- A request of `Inst` 0 that decodes, whose DEADLINE_FIRST is 4. -/
def LRec.firstDue : LRec := { state := 5, gen := 1, rqid := 5, deadlineFirst := 4 }

/-- An engine with that request in slot 5, and event ring 1 open for every event. -/
def Eng.firstLate : Eng :=
  [(F.HAT_CTL_EN, 0, 1), (F.HAT_RING_CFG_KIND, 1, 2), (F.HAT_RING_CFG_FILTER_ALL, 1, 1), (F.HAT_RING_CFG_EN, 1, 1)].foldl
    (fun e (field, ring, value) => e.poke field value ring) { led := { recs := [(5, LRec.firstDue)] } }

/-- Every event that has been sent names no `Inst` for the filter of R601. -/
def Eng.eventsNameless (e : Eng) : Bool := e.out.all (fun o => match o with
  | .event _ _ _ _ ev => ev.inst.isNone
  | _ => true)

theorem Eng.eventsNameless_inst {e : Eng} {k tail phase : Nat} {lost : Bool} {ev : EvtRec} (nameless : e.eventsNameless = true)
    (sent : .event k tail phase lost ev ∈ e.out) : ev.inst = none :=
  Option.isNone_iff_eq_none.mp (List.all_eq_true.mp nameless _ sent)

/-- Refutes O39: the record of DEADLINE_FIRST_MISSED reaches an open event ring without an `Inst` for the filter of R601; the statement
has it name the request's `Inst`. -/
theorem not_recordsOfTheLedger : ¬ Obligations.RecordsOfTheLedger := by
  unfold Obligations.RecordsOfTheLedger
  intro holds
  let s : State := { boot := {}, eng := Eng.firstLate, pending := [] }
  have settled : s.Settled := State.Settled.of_tickLeft (by decide +kernel) (by decide +kernel) rfl
  obtain ⟨-, sibling, -⟩ := holds 5 0 LRec.firstDue {} s rfl
  obtain ⟨-, first, -⟩ := sibling rfl rfl rfl rfl rfl
  obtain ⟨t, run, -, -, -, event, -⟩ := first settled (by decide) rfl rfl (by decide) (by decide)
  change timed s (atDeadlineFirstPass 5) = _ at run
  rw [timed_settled s _ settled, atDeadlineFirstPass, live_up rfl] at run
  obtain rfl := Host.Outcome.next.inj run
  have sent := event 1 (by decide) (by decide +kernel) (by decide +kernel) (by decide +kernel) (by decide +kernel) (by decide +kernel)
  have nameless := Eng.eventsNameless_inst (e := (((Eng.firstLate.advance 5).recUse 5).modRc 5 (fun r => { r with firstMissed := true })).raise
    { code := 0x0020, unit := 2, pid := 0, part := true, rqid := 5, gen := 1, arg := 4 }) (by decide +kernel) sent
  exact absurd nameless (Option.some_ne_none _)

end Sys2Proof.Machine
end

section
/-!
Configurations (O42).
-/
namespace Sys2Proof.Machine

/-- A model whose load waits for its configuration. -/
def Model.awaitsConfig : Model := { state := 1, weightsIn := true }

/-- An engine that loads model 7 on `Inst` 0, with completion ring 0 open and Store overfull. Its table of models lists 7 twice: the second
entry is PARKED. -/
def Eng.modelTwice : Eng :=
  [(F.HAT_CTL_EN, 0, 1), (F.HAT_RING_CFG_KIND, 0, 1), (F.HAT_RING_CFG_EN, 0, 1)].foldl (fun e (field, ring, value) => e.poke field value ring)
    { cmp := { insts := [(0, { active := true, lead := true, loading := true, mid := 7 })] }
      shv := { models := [(7, Model.awaitsConfig), (7, { state := 3, chipBytes := 2 ^ 60, parkedAt := 1 })] } }

/-- Refutes O42: in a state whose table of models lists a MID twice, PARKED weights that make room for the quota are those of the second
entry, which then replaces the first, so that the load completes another model than the one that was loading. The statement asks nothing of
the tables of the state. -/
theorem not_configurationsAndPrograms : ¬ Obligations.ConfigurationsAndPrograms := by
  unfold Obligations.ConfigurationsAndPrograms
  intro holds
  let s : State := { boot := {}, eng := Eng.modelTwice, pending := [] }
  obtain ⟨configured, -⟩ := holds 0 0 0 0 0 [] 0 0 [] true s rfl (by decide)
  obtain ⟨loaded, -⟩ := configured (by decide +kernel)
  obtain ⟨t, run, -, -, -, -, model, -⟩ := loaded (by decide +kernel) (by decide +kernel) (.inl (by decide +kernel)) (by decide +kernel)
    (by decide +kernel) (by decide +kernel) (by decide +kernel)
  change execArrayConfigLoaded 0 0 [] s = _ at run
  rw [execArrayConfigLoaded, live_up rfl] at run
  obtain rfl := Host.Outcome.next.inj run
  exact absurd (congrArg Model.parkedAt model) (by decide +kernel)

end Sys2Proof.Machine
end

section
/-!
Fetched descriptors (O40).
-/
namespace Sys2Proof.Machine

/-- A SUBMIT in form of two tokens, which names a grammar that the directory does not hold. -/
def DescBits.unknownGrammar : DescBits := BitVec.ofNat 1024 (putFields [(0, 7, 0, 1), (1, 1, 1, 1), (0x10, 63, 0, 64), (0x18, 31, 0, 2),
  (0x1C, 31, 0, 4), (0x44, 31, 0, 0x3F800000), (0x50, 31, 0, 0x3F800000)])

/-- An engine with one entry in submission ring 0, whose completion ring 1 is open. -/
def Eng.oneEntry : Eng :=
  let e := [(F.HAT_CTL_EN, 0, 1), (F.HAT_RING_CFG_CQ, 0, 1), (F.HAT_RING_CFG_EN, 0, 1), (F.HAT_RING_CFG_KIND, 1, 1), (F.HAT_RING_CFG_EN, 1, 1),
    (F.KPR_PART_CTL_EN, 0, 1)].foldl (fun e (field, sel, value) => e.poke field value sel) ({} : Eng)
  e.setRing 0 { tail := 1, stamps := [(0, 1)] }

/-- A SUBMIT in form whose prompt is not of the length that it names changes nothing: it is not fetched. -/
theorem submit_otherLength {d : DescBits} {larder : Option LarderBits} {prompt : List Word} {bias : List DWord} {s : State}
    (up : s.boot.absent = false) (op : recField d 0 7 0 = 1) (form : subFieldsOk (subOf d) = true) (other : prompt.length ≠ (subOf d).promptLen) :
    exec (.submit d larder prompt bias) s = .next s := by
  change execSubmit d larder prompt bias s = _
  rw [execSubmit, live_up up]
  exact congrArg (fun y => Host.Outcome.next (s.withEng y)) (if_pos ⟨op, form, .inl other⟩)

/-- Refutes O40: a SUBMIT that names an unknown grammar with a prompt of another length than it names is not fetched, while the statement has
it fetched and answered, asking the prompt's length only of a SUBMIT that is admitted. -/
theorem not_descriptorsAreApplied : ¬ Obligations.DescriptorsAreApplied := by
  unfold Obligations.DescriptorsAreApplied
  intro holds
  let s : State := { boot := {}, eng := Eng.oneEntry, pending := [] }
  obtain ⟨⟨r, stamp, e1⟩, fetched⟩ := Option.isSome_iff_exists.mp (show Eng.oneEntry.fetch.isSome = true by decide +kernel)
  have ring : Eng.oneEntry.fetch.map Prod.fst = some 0 := by decide +kernel
  rw [fetched] at ring
  obtain rfl : r = 0 := Option.some.inj ring
  obtain ⟨-, -, -, -, descriptors⟩ := holds DescBits.unknownGrammar none 0 [] [] [] [] true [] 0 stamp 0 0 0 e1
    { chip := 0, inst := 0, owner := 0, chips := [], excess := 0 } s rfl
  obtain ⟨-, refused, -⟩ := descriptors rfl rfl fetched (by decide +kernel) (by decide +kernel) (by decide +kernel) (by decide +kernel)
  obtain ⟨t, run, taken, -⟩ := refused (by decide +kernel) (by decide +kernel)
  rw [submit_otherLength rfl (by decide +kernel) (by decide +kernel) (by decide +kernel)] at run
  obtain rfl := Host.Outcome.next.inj run
  exact absurd taken (by decide +kernel)

end Sys2Proof.Machine
end

section
/-!
Triggers, compositions and the emission of steps (O41).
-/
namespace Sys2Proof.Machine

/-! ### What leaves the instances as they are -/

/-- The Composer's instances are as they were. -/
def Eng.SameInsts (e e' : Eng) : Prop := e'.cmp.insts = e.cmp.insts

section Same
variable {e a b c : Eng}

theorem Eng.SameInsts.refl (e : Eng) : e.SameInsts e := rfl

theorem Eng.SameInsts.trans (ab : a.SameInsts b) (bc : b.SameInsts c) : a.SameInsts c := Eq.trans bc ab

theorem Eng.SameInsts.of_only {us offs : List Nat} (only : a.Only us offs b) (composer : 4 ∉ us) : a.SameInsts b :=
  congrArg Cmp.insts (show b.cmp = a.cmp from only.parts 4 composer)

theorem Eng.SameInsts.foldl {α : Type} (l : List α) (f : Eng → α → Eng) (each : ∀ (e : Eng) x, e.SameInsts (f e x)) (e : Eng) :
    e.SameInsts (l.foldl f e) := by
  induction l generalizing e with
  | nil => exact .refl e
  | cons x l ih => exact (each e x).trans (ih _)

theorem Eng.SameInsts.inst (same : a.SameInsts b) (i : Nat) : b.inst i = a.inst i := congrArg (fun t : Tab Inst => tgetD t i {}) same

theorem Eng.SameInsts.sendInst (e : Eng) (i : Nat) (f : Frame) : e.SameInsts (e.sendInst i f) := .of_only (Eng.Sends.sendInst e i f).only (by decide)

theorem Eng.SameInsts.shvTell (e : Eng) (i : Nat) (r : ShvRec) : e.SameInsts (e.shvTell i r) := by
  unfold Eng.shvTell
  split
  · exact .foldl _ _ (fun y _ => .sendInst y _ _) e
  · exact .refl e

theorem Eng.SameInsts.dropRef (e : Eng) (g : Nat) : e.SameInsts (e.dropRef g) := by
  unfold Eng.dropRef
  dsimp only
  repeat' split
  all_goals rfl

theorem Eng.SameInsts.dropReservation (e : Eng) (first : Nat) : e.SameInsts (e.dropReservation first) := by
  unfold Eng.dropReservation
  split <;> rfl

/-- A group that may be there is dropped. -/
theorem Eng.SameInsts.dropSome (e : Eng) (o : Option Nat) : e.SameInsts (match o with
    | some g => e.dropRef g
    | none => e) := by
  cases o with
  | none => exact .refl e
  | some g => exact .dropRef e g

theorem Eng.SameInsts.dropHoldings (e : Eng) (s : Nat) (last : Bool) : e.SameInsts (e.dropHoldings s last) := by
  unfold Eng.dropHoldings
  split
  · exact .refl e
  · extract_lets first y
    have dropped : e.SameInsts y := by
      unfold y
      split
      · exact .refl e
      · rename_i m _
        extract_lets e1 e2 e3 used shelver e4 e5
        have blocks : e.SameInsts e1 := .foldl _ _ (fun z (b : Nat × Nat) => .dropRef z b.2) e
        have told : e.SameInsts e5 := ((blocks.trans (.dropSome e1 m.draft0)).trans (.dropSome e2 m.draft1)).trans
          (show e3.SameInsts e5 from Eng.SameInsts.trans (b := e4) rfl (.shvTell e4 _ _))
        clear_value e5
        split <;> exact told
    clear_value y
    split
    · exact dropped
    · split
      · exact dropped.trans (Eng.SameInsts.dropReservation y first)
      · exact dropped

theorem Eng.SameInsts.dropDraft (e : Eng) (s : Nat) : e.SameInsts (e.dropDraft s) := by
  unfold Eng.dropDraft
  split
  · exact .refl e
  · rename_i r _
    split
    · extract_lets composer e1 e2
      have dropped : e1.SameInsts e2 := by
        unfold e2
        split
        · rename_i m _
          extract_lets e3 e4
          exact (Eng.SameInsts.dropSome e1 m.draft0).trans (Eng.SameInsts.dropSome e3 m.draft1)
        · exact .refl e1
      clear_value e2
      exact dropped
    · exact .refl e

theorem Eng.SameInsts.reap (e : Eng) (s : Nat) : e.SameInsts (e.reap s) := by
  unfold Eng.reap
  split
  · exact .refl e
  · split
    · exact .refl e
    · exact (Eng.SameInsts.dropDraft e s).trans (.dropHoldings _ s _)

theorem Eng.SameInsts.mirrorTo (e : Eng) (chip n s : Nat) (r : LRec) : e.SameInsts (e.mirrorTo chip n s r) :=
  Eng.SameInsts.trans (b := e.send _) (.of_only (Eng.Sends.sendVia e _ _).only (by decide)) rfl

theorem Eng.SameInsts.mirror (e : Eng) (s : Nat) (block : Bool) (words : Nat) : e.SameInsts (e.mirror s block words) := by
  unfold Eng.mirror
  split
  · rename_i r _
    unfold Eng.mirrorRec
    split
    · exact .refl e
    · extract_lets n rafter e1 e2 go e3 up
      have to_ : ∀ (y : Eng) (b : Buddy), y.SameInsts (go y b) := fun y b => by
        unfold go
        split
        · split
          · exact .mirrorTo y _ _ _ _
          · exact .refl y
        · exact .refl y
      have shadow : e.SameInsts e2 := by
        unfold e2 Eng.shadowPut Eng.cellarLevel
        dsimp only
        split <;> rfl
      exact (shadow.trans (to_ e2 _)).trans (to_ _ _)
  · exact .refl e

theorem Eng.SameInsts.unqueue (e : Eng) (first : Nat) : e.SameInsts (e.unqueue first) := by
  unfold Eng.unqueue
  dsimp only
  split <;> rfl

theorem Eng.SameInsts.stopSib (e : Eng) (s state : Nat) : e.SameInsts (e.stopSib s state) := by
  unfold Eng.stopSib
  dsimp only
  have used : e.SameInsts ((e.recUse s).modRc s (fun r => { r with state, draftN := 0 })) := by
    rw [Eng.recUse_modRc]
    rfl
  exact ((used.trans (.mirror _ s false 0)).trans (.reap _ s)).trans (.unqueue _ _)

theorem Eng.SameInsts.report (e : Eng) (v : CmpRec) : e.SameInsts (e.report v) := by
  unfold Eng.report
  dsimp only
  split
  · rfl
  · exact .of_only (us := [1]) (offs := []) (.complete e v (by decide)) (by decide)

theorem Eng.SameInsts.endSib (e : Eng) (s status : Nat) (at_ : Option (Nat × Nat)) : e.SameInsts (e.endSib s status at_) := by
  unfold Eng.endSib
  split
  · exact .refl e
  · split
    · exact .refl e
    · exact (Eng.SameInsts.stopSib e s _).trans (.report _ _)

theorem Eng.SameInsts.leaveEndStep (e : Eng) (i num : Nat) : e.SameInsts (e.leaveEndStep i num) := rfl

theorem Eng.SameInsts.pfxDrop (e : Eng) (k : Nat) : e.SameInsts (e.pfxDrop k) := by
  unfold Eng.pfxDrop
  split
  · exact .refl e
  · extract_lets i shelver e1
    exact (show e.SameInsts (e1.dropRef _) from Eng.SameInsts.dropRef e1 _).trans (.shvTell _ _ _)

theorem Eng.SameInsts.pfxEnter (e : Eng) (k : Nat) (r : LRec) (block g mid dom hash parent : Nat) (toks : List Nat) :
    e.SameInsts (e.pfxEnter k r block g mid dom hash parent toks) := by
  unfold Eng.pfxEnter
  exact Eng.SameInsts.shvTell _ _ _

theorem Eng.SameInsts.insertBlock (e : Eng) (s block mid dom hash parent : Nat) (toks : List Nat) (upto : Option Nat) :
    e.SameInsts (e.insertBlock s block mid dom hash parent toks upto) := by
  unfold Eng.insertBlock
  dsimp only
  repeat' split
  all_goals first
    | rfl
    | exact .pfxEnter _ _ _ _ _ _ _ _ _ _
    | exact (Eng.SameInsts.pfxDrop _ _).trans (.pfxEnter _ _ _ _ _ _ _ _ _ _)

theorem Eng.SameInsts.blocksWritten (e : Eng) (s pos n : Nat) (atEnd : Bool) : e.SameInsts (e.blocksWritten s pos n atEnd) := by
  unfold Eng.blocksWritten
  split
  · exact .refl e
  · refine .foldl _ _ (fun y k => ?_) e
    extract_lets y1
    have full : y.SameInsts y1 := by
      unfold y1
      split <;> rfl
    clear_value y1
    repeat' split
    all_goals first
      | exact full
      | exact full.trans (.insertBlock _ _ _ _ _ _ _ _ _)

theorem Eng.SameInsts.ffull (e : Eng) (i rqid sib pos n : Nat) : e.SameInsts (e.ffull i rqid sib pos n) := by
  unfold Eng.ffull
  split
  · exact .refl e
  · exact .foldl _ (fun y (b : Nat × Nat) => y.modGrp b.2 (fun x => { x with full := true })) (fun _ _ => rfl) e

theorem Eng.SameInsts.stepBlocks (e : Eng) (i : Nat) (st : Step) : e.SameInsts (e.stepBlocks i st) := by
  refine .foldl _ _ (fun y x => ?_) e
  dsimp only
  repeat' split
  all_goals first
    | exact .refl y
    | exact .blocksWritten y _ _ _ _
    | exact .ffull y _ _ _ _ _

theorem Eng.SameInsts.reapSlots (e : Eng) (l : List Slot) : e.SameInsts (e.reapSlots l) :=
  .foldl _ _ (fun y _ => .foldl _ _ (fun z _ => .reap z _) y) e

theorem Eng.SameInsts.flood (e : Eng) (src chip at_ : Nat) (except : Option Nat) : e.SameInsts (e.flood src chip at_ except) := by
  unfold Eng.flood
  refine .foldl _ _ (fun y l => ?_) e
  split
  · exact .refl y
  · exact .of_only (Eng.OnLink.linkPut y l _).only (by decide)

theorem Eng.SameInsts.gate (e : Eng) (d : Nat) : e.SameInsts (e.gate d) := .of_only (us := [15]) (offs := []) (.gate e d (by decide)) (by decide)

theorem Eng.SameInsts.quiesceCheck (e : Eng) : e.SameInsts e.quiesceCheck := by
  unfold Eng.quiesceCheck
  split
  · exact .refl e
  · extract_lets e1 e2 rafter errors e3 e4
    have ended : e.SameInsts e1 := .foldl _ (fun y (p : Nat × LRec) => y.endSib p.1 0x39) (fun y p => .endSib y p.1 0x39 none) e
    have flooded : e1.SameInsts e2 := .flood e1 _ _ _ _
    clear_value e1 e2
    have rest : e2.SameInsts e3 := rfl
    clear_value rafter errors e3
    have gated : e3.SameInsts e4 := .foldl _ (fun y (k : Nat) => y.gate (89 + k)) (fun y k => .gate y _) e3
    clear_value e4
    exact (((ended.trans flooded).trans rest).trans gated).trans (congrArg Cmp.insts (e4.raiseE_cmp _ _ _ _))

end Same

/-! ### What leaves the outstanding steps as they are -/

/-- The outstanding steps of the instances are as they were. -/
def Eng.SameSteps (e e' : Eng) : Prop := ∀ j, (e'.inst j).step = (e.inst j).step

section Steps
variable {e a b c : Eng}

theorem Eng.SameSteps.refl (e : Eng) : e.SameSteps e := fun _ => rfl

theorem Eng.SameSteps.trans (ab : a.SameSteps b) (bc : b.SameSteps c) : a.SameSteps c := fun j => (bc j).trans (ab j)

theorem Eng.SameInsts.steps (same : a.SameInsts b) : a.SameSteps b := fun j => congrArg Inst.step (same.inst j)

theorem Eng.SameSteps.foldl {α : Type} (l : List α) (f : Eng → α → Eng) (each : ∀ (e : Eng) x, e.SameSteps (f e x)) (e : Eng) :
    e.SameSteps (l.foldl f e) := by
  induction l generalizing e with
  | nil => exact .refl e
  | cons x l ih => exact (each e x).trans (ih _)

theorem Eng.SameSteps.modInst (e : Eng) (i : Nat) (f : Inst → Inst) (keeps : ∀ x, (f x).step = x.step) : e.SameSteps (e.modInst i f) := fun j => by
  rw [Eng.inst_modInst]
  split
  · rename_i here
    rw [keeps, here]
  · rfl

theorem Eng.SameInsts.bindWhere (i : Nat) (p : Eng → Slot → Bool) (l : List Slot) (idx : Nat) (e : Eng) : e.SameInsts (bindWhere e i idx p l).2 := by
  induction l generalizing e idx with
  | nil => exact .refl e
  | cons x l ih =>
    unfold Sys2Proof.Machine.bindWhere
    dsimp only
    split
    · exact (Eng.SameInsts.of_only (bindSlot_binds e i idx x).1 (by decide)).trans (ih _ _)
    · exact ih _ _

theorem Eng.SameSteps.bindSlots (e : Eng) (i : Nat) : e.SameSteps (e.bindSlots i) := by
  unfold Eng.bindSlots
  split
  · exact .refl e
  · exact (Eng.SameInsts.bindWhere i _ _ 0 e).steps.trans (.modInst _ i _ (fun _ => rfl))

theorem Eng.SameSteps.dropSlots (e : Eng) (i : Nat) (l : List Slot) : e.SameSteps (e.dropSlots i l) :=
  .foldl _ _ (fun y x => by
    split
    · exact (Eng.SameInsts.foldl _ _ (fun z g => .of_only (us := [6]) (offs := []) (.unpin z g (by decide)) (by decide)) y).steps.trans
        (.modInst _ i _ (fun _ => rfl))
    · exact (Eng.SameInsts.of_only (us := [6]) (offs := []) (.unpinSlot y x (by decide)) (by decide)).steps) e

theorem Eng.SameSteps.giveTrigger (e : Eng) (i : Nat) : e.SameSteps (e.giveTrigger i) := fun j => by
  rw [Eng.giveTrigger_inst]
  split
  · rename_i here
    rw [here]
  · rfl

theorem Eng.SameSteps.closeWindow (e : Eng) (i : Nat) : e.SameSteps (e.closeWindow i) :=
  Eng.SameSteps.trans (b := e.modInst i (fun x => { x with win := false })) (.modInst e i _ (fun _ => rfl)) (fun _ => rfl)

theorem Eng.SameSteps.allVoidEnd (e : Eng) (i : Nat) : e.SameSteps (e.allVoidEnd i) := by
  unfold Eng.allVoidEnd
  extract_lets ended e1 e2
  have dropped : e.SameSteps e1 := .dropSlots e i _
  have gone : e1.SameSteps e2 := .modInst e1 i _ (fun _ => rfl)
  clear_value e1 e2
  have left : e2.SameSteps (e2.leaveEndStep i ended.num) := (Eng.SameInsts.leaveEndStep e2 i ended.num).steps
  generalize e2.leaveEndStep i ended.num = e3 at left ⊢
  exact (((dropped.trans gone).trans left).trans (.closeWindow e3 i)).trans (.giveTrigger _ i)

theorem Eng.SameSteps.bindReady (e : Eng) (i : Nat) : e.SameSteps (e.bindReady i) := by
  unfold Eng.bindReady
  refine (Eng.SameSteps.bindSlots e i).trans ?_
  generalize e.bindSlots i = y
  unfold Eng.voidCheck
  dsimp only
  split
  · exact .allVoidEnd y i
  · exact .refl y

/-- A step that has been resolved is not outstanding. -/
theorem Eng.resolveStep_step (e : Eng) (i : Nat) : ((e.resolveStep i).inst i).step = none := by
  unfold Eng.resolveStep
  split
  · assumption
  · rename_i st _
    extract_lets e1 e2 e3 e4 e5 e6
    have gone : (e3.inst i).step = none := by
      unfold e3
      rw [Eng.inst_modInst, if_pos rfl]
    clear_value e3
    have unpinned : e3.SameInsts e4 := .foldl _ _ (fun y x => by
      split
      · exact .refl y
      · exact .of_only (us := [6]) (offs := []) (.unpinSlot y x (by decide)) (by decide)) e3
    have blocks : e4.SameInsts e5 := .stepBlocks e4 i st
    have reaped : e5.SameInsts e6 := (Eng.SameInsts.leaveEndStep e5 i st.num).trans (.reapSlots _ _)
    clear_value e4 e5 e6
    have ready : e6.SameSteps (((e6.bindReady i).balance i).pointLater) := (Eng.SameSteps.bindReady e6 i).trans (fun _ => rfl)
    exact ((((unpinned.trans blocks).trans reaped).steps.trans ready).trans (Eng.SameInsts.quiesceCheck _).steps i).trans gone

end Steps

end Sys2Proof.Machine
end

section
/-!
Triggers, and the ends of the array's steps (O41).
-/
namespace Sys2Proof.Machine

section Triggers
variable {i : Nat} {s : State} {st : Step}

/-- The first part of O41: an idle `Inst` with an eligible sibling triggers. -/
theorem instanceTrigger_triggers (up : s.boot.absent = false) (may : s.eng.mayCompose i = true) (idle : s.eng.instIdle i = true)
    (loud : (s.eng.inst i).quiet = false) (eligible : s.eng.hasEligible i = true) :
    exec (.instanceTrigger i) s = .next (s.withEng (s.eng.setInst i { s.eng.inst i with trig := some s.eng.now })) := by
  change execInstanceTrigger i s = _
  rw [execInstanceTrigger, live_up up]
  refine congrArg (fun y => Host.Outcome.next (s.withEng y)) ((if_neg (by rw [loud]; exact Bool.false_ne_true)).trans ?_)
  have may' : ({ s.eng with dbg := { s.eng.dbg with engineHalted := false, haltWas := none } } : Eng).mayCompose i = true := by
    unfold Eng.mayCompose at may ⊢
    simp only [Bool.and_eq_true] at may ⊢
    obtain ⟨⟨⟨⟨⟨⟨⟨⟨may, -⟩, composer⟩, steward⟩, ctx⟩, frozen⟩, lost⟩, aligned⟩, room⟩ := may
    exact ⟨⟨⟨⟨⟨⟨⟨⟨may, rfl⟩, composer⟩, steward⟩, ctx⟩, frozen⟩, lost⟩, aligned⟩, room⟩
  have free : (s.eng.inst i).comp.isNone = true ∧ (s.eng.inst i).trig.isNone = true := by
    unfold Eng.instIdle at idle
    simp only [Bool.and_eq_true] at idle
    exact ⟨idle.1.1.1, idle.1.2⟩
  rw [Eng.selfTrigger, if_pos (by rw [idle, eligible]; rfl)]
  exact if_pos (by rw [may', free.1, free.2]; rfl)

/-- The second part of O41: the array has sent every row of a lead's step. -/
theorem arrayStepDone_rowed (up : s.boot.absent = false) (step : (s.eng.inst i).step = some st) (started : st.started = true)
    (running : st.arrayDone = false) (lead : (s.eng.inst i).lead = true) (rowed : ∃ y ∈ st.slots, y.rowed = true) :
    exec (.arrayStepDone i) s = .next (s.withEng (s.eng.setInst i { s.eng.inst i with
      step := some { st with arrayDone := true, timer := some (s.eng.now + s.eng.joinTimeout) } })) := by
  change execArrayStepDone i s = _
  rw [execArrayStepDone, live_up up]
  refine congrArg (fun y => Host.Outcome.next (s.withEng y)) ?_
  have rows : ((s.eng.inst i).lead && st.slots.any (fun x => x.rowed)) = true := by
    rw [lead, List.any_eq_true.mpr rowed]
    rfl
  rw [step]
  dsimp only
  rw [started, running, rows]
  rfl

/-- The second part of O41: a step without rows has ended. -/
theorem arrayStepDone_rowless (up : s.boot.absent = false) (step : (s.eng.inst i).step = some st) (started : st.started = true)
    (running : st.arrayDone = false) (rowless : ∀ y ∈ st.slots, y.rowed = false) :
    ∃ t, exec (.arrayStepDone i) s = .next t ∧ (t.eng.inst i).step = none := by
  have rows : ((s.eng.inst i).lead && st.slots.any (fun x => x.rowed)) = false := by
    rw [List.any_eq_false.mpr (fun y among => by rw [rowless y among]; exact Bool.false_ne_true), Bool.and_false]
  have resolved : ∃ y : Eng, execArrayStepDone i s = .next (s.withEng (y.resolveStep i)) := by
    rw [execArrayStepDone, live_up up, step]
    dsimp only
    rw [started, running, rows]
    generalize s.eng.modInst i _ = y
    by_cases lead : (y.inst i).lead = true
    · exact ⟨_, congrArg (fun y => Host.Outcome.next (s.withEng y)) (if_pos lead)⟩
    · exact ⟨_, congrArg (fun y => Host.Outcome.next (s.withEng y)) (if_neg lead)⟩
  obtain ⟨y, ran⟩ := resolved
  exact ⟨_, ran, y.resolveStep_step i⟩

/-- The last part of O41: no token of the old epoch remains. -/
theorem epochDrained_noted (up : s.boot.absent = false) : exec (.epochDrained i) s =
    .next (if (s.eng.inst i).changing then s.withEng (s.eng.setInst i { s.eng.inst i with drained := true }) else s) := by
  change execEpochDrained i s = _
  rw [execEpochDrained, live_up up]
  split
  · exact congrArg (fun y => Host.Outcome.next (s.withEng y)) rfl
  · rfl

end Triggers

end Sys2Proof.Machine
end

section
/-!
The start of a composition (O41).
-/
namespace Sys2Proof.Machine

section Compose
variable {e : Eng} {i : Nat} {s : State}

theorem Eng.Only.setCaptured {us offs : List Nat} (e : Eng) (cap : Tab Word) (views : 18 ∈ us) : e.Only us offs { e with cap } :=
  .of_parts rfl rfl (fun u out => by unfold Eng.partSame; split <;> simp_all)

/-- An `Inst` whose trigger has been taken. -/
def Inst.taken (x : Inst) : Inst := { x with trig := none }

/-- An `Inst` with a composition that has just started. -/
def Inst.opened (x : Inst) (c : Comp) : Inst := { x with comp := some c, win := true, quiet := false }

theorem Inst.carried_none {x : Inst} (none_ : x.carried = []) : { x with carried := [] } = x := by rw [← none_]

/-- The Steward at the entry of a program. -/
def Stw.begun (w : Stw) (i prog cfg : Nat) (passes : Tab Nat) : Stw := { w with
  s := [], v := [], q := [], run := some i, prog, pc := (tgetD w.progs prog {}).entry, cycles := 0, wr := [], target := none, ending := false
  dmemFault := false, cfg, est := 0, fitStop := false, mode := none, drawn := [], cursor := 0, passes }

/-- A table written at several keys, each with the default of its key. -/
theorem tgetD_written {α : Type} [DecidableEq α] {l : List Nat} (w d : Nat → α) {k : Nat} (among : k ∈ l) (t : Tab α) :
    tgetD (l.foldl (fun t k => tsetD t k (w k) (d k)) t) k (d k) = w k := by
  have kept : ∀ (l : List Nat) (t : Tab α), tgetD t k (d k) = w k → tgetD (l.foldl (fun t k => tsetD t k (w k) (d k)) t) k (d k) = w k := by
    intro l
    induction l with
    | nil => exact fun _ held => held
    | cons j l ih =>
      intro t held
      refine ih _ ?_
      by_cases here : k = j
      · rw [← here, tgetD_tsetD_same]
      · rw [← held]
        dsimp only
        unfold tgetD tsetD
        split <;> simp only [tget_tput_ne, tget_tdel_ne, ne_eq, here, not_false_eq_true]
  induction l generalizing t with
  | nil => exact absurd among List.not_mem_nil
  | cons j l ih =>
    rcases List.mem_cons.mp among with rfl | later
    · exact kept l _ (tgetD_tsetD_same _ _ _ _)
    · exact ih later _

theorem Eng.haltEnds_none (halts : ∀ u, e.unitHalted u = false) (engines : e.siv.retired.length < 4) (i : Nat) : e.haltEnds i = e := by
  have still : ∀ k, e.waitsHalted k = false := fun k => by
    unfold Eng.waitsHalted
    split
    · rfl
    · simp only [halts, decide_eq_false (Nat.not_le.mpr engines), Bool.false_or, Bool.false_and]
  unfold Eng.haltEnds
  simp only [still, Bool.and_false, Bool.false_and, List.filter_false, List.foldl_nil]

theorem Eng.activity_kpr (e : Eng) : ∃ kpr, e.activity = { e with kpr } := by
  have parts : ∀ (l : List Nat) (y : Eng), ∃ kpr, l.foldl e.pointPart y = { y with kpr } := by
    intro l
    induction l with
    | nil => exact fun y => ⟨y.kpr, rfl⟩
    | cons p l ih =>
      intro y
      rw [List.foldl_cons, Eng.pointPart]
      split
      · exact ih y
      · split
        · exact ih _
        · exact ih _
  by_cases on : e.fb F.KPR_CTL_EN = true
  · obtain ⟨gvt, eq⟩ := e.activity_on on
    obtain ⟨kpr, found⟩ := parts partRange e
    exact ⟨{ kpr with gvt }, by rw [eq, found]⟩
  · exact ⟨e.kpr, if_pos (by rw [Bool.eq_false_iff.mpr on]; rfl)⟩

/-- The composition that the Composer starts, before the wants are summed. -/
def Eng.freshComp (e : Eng) (i : Nat) : Comp :=
  { num := (e.inst i).stepNo + 1, start := e.now, blocked := ringRange.filter (fun r => decide (e.ringKind r = 0) && e.blocked (e.cqOf r))
    prog := e.progSlot i, uid := e.cmp.nextUid }

theorem Eng.placeCarried_none {c : Comp} (composing : (e.inst i).comp = some c) (none_ : (e.inst i).carried = []) :
    e.placeCarried i = e.setInst i { e.inst i with comp := some c, carried := [] } := by
  unfold Eng.placeCarried
  dsimp only
  rw [composing]
  dsimp only
  rw [none_]
  rfl

theorem Eng.composeStart_starts (on : e.fb F.STW_CTL_EN = true) (none_ : (e.inst i).carried = []) (halts : ∀ u, e.unitHalted u = false)
    (engines : e.siv.retired.length < 4) (plain : ∀ q ∈ e.led.recs, (e.param (rqSlot q.2.rqid)).specEn = false) :
    ∃ wants passes, (∀ j, (e.composeStart i).inst j = if j = i then (e.inst i).taken.opened { e.freshComp i with wants } else e.inst j) ∧
      (e.composeStart i).stw = e.stw.begun i (e.progSlot i) (if (e.inst i).changing then (e.inst i).newCfg else (e.inst i).cfg) passes ∧
      (∀ q, q < 64 → tgetD passes q 0 = ((e.composeStart i).part q).pass) ∧
      (∀ k ∈ instKeys i, tgetD (e.composeStart i).cap k (rstWord (k / 65536)) = e.keyWord k) ∧
      (e.composeStart i).act = e.act ∧ (e.composeStart i).pend = e.pend ∧ (e.composeStart i).held = e.held ∧
      e.Only [4, 5, 12, 17, 18] [] (e.composeStart i) := by
  let e1 := e.modInst i Inst.taken
  have halted : e1.haltEnds i = e1 := Eng.haltEnds_none (e := e1) halts engines i
  obtain ⟨kpr, active⟩ := e1.activity_kpr
  unfold Eng.composeStart
  extract_lets a1 a2 a3 x blocked c a4 a5 prog a6 a7 a8 passes
  have first : a1 = e1 := halted
  have second : a2 = { e1 with kpr } := by
    rw [← active, ← first]
  have third : a3 = { e1 with kpr, cap := (instKeys i).foldl (fun t k => tsetD t k (e.keyWord k) (rstWord (k / 65536))) e.cap } := by
    unfold a3
    rw [second]
    rfl
  have instThird : ∀ j, a3.inst j = if j = i then (e.inst i).taken else e.inst j := fun j => by
    rw [third]
    exact e.inst_modInst i j _
  have here : x = (e.inst i).taken := (instThird i).trans (if_pos rfl)
  have program : a3.progSlot i = e.progSlot i := by
    have owner : (a3.inst i).owner = (e.inst i).owner := (congrArg Inst.owner here).trans rfl
    unfold Eng.progSlot
    rw [owner, third]
    rfl
  have blocks : blocked = (e.freshComp i).blocked := by
    unfold blocked
    rw [third]
    rfl
  have made : c = e.freshComp i := by
    unfold c
    rw [program, blocks, here, third]
    rfl
  have thirdOnly : e.Only [4, 5, 12, 17, 18] [] a3 := by
    rw [third]
    exact (Eng.Only.setCmp e e1.cmp (by decide)).trans ((Eng.Only.setKpr e1 kpr (by decide)).trans
      (.setCaptured { e1 with kpr } _ (by decide)))
  have led : a3.led = e.led := by
    rw [third]
    rfl
  have stw : a3.stw = e.stw := by
    rw [third]
    rfl
  have regs : a3.regs = e.regs := by
    rw [third]
    rfl
  have rest : a3.act = e.act ∧ a3.pend = e.pend ∧ a3.held = e.held := by
    rw [third]
    exact ⟨rfl, rfl, rfl⟩
  have captured : ∀ k ∈ instKeys i, tgetD a3.cap k (rstWord (k / 65536)) = e.keyWord k := fun k among => by
    rw [third]
    exact tgetD_written _ (fun k => rstWord (k / 65536)) among _
  clear_value a3 x blocked c
  have fourth : ∀ j, a4.inst j = if j = i then x.opened c else a3.inst j := fun j => Eng.inst_replaced _ i j (x.opened c)
  have fifth : a5 = a4 := by
    unfold a5
    rw [List.filter_eq_nil_iff.mpr (fun q among => ?_)]
    · rfl
    · have recs : q ∈ e.led.recs := by
        rw [← led]
        exact among
      have unspec : (a4.param (rqSlot q.2.rqid)).specEn = false := by
        rw [← plain q recs]
        exact congrArg (fun l : Led => (subOf ((tget l.params (rqSlot q.2.rqid)).getD 0)).specEn) led
      rw [unspec, Bool.and_false]
      exact Bool.false_ne_true
  have fourOnly : e.Only [4, 5, 12, 17, 18] [] a4 := thirdOnly.trans (((Eng.Only.setCmp a3 a3.takeUid.cmp (by decide)).trans
    (.setDbg a3.takeUid ((a3.takeUid.works 4).works 6).dbg (by decide))).trans (.setCmp _ _ (by decide)))
  have sixReports : a4.Reports a6 := by
    unfold a6
    rw [fifth]
    exact a4.trace_reports _
  have sixOnly : e.Only [4, 5, 12, 17, 18] [] a6 := fourOnly.trans (by
    unfold a6
    rw [fifth]
    exact .traced a4 _ (by decide))
  have inst6 : ∀ j, a6.inst j = if j = i then x.opened c else e.inst j := fun j => by
    refine (congrArg (fun w : Cmp => tgetD w.insts j {}) sixReports.cmp_eq).trans ((fourth j).trans ?_)
    split
    · rfl
    · rename_i other
      exact (instThird j).trans (if_neg other)
  have enabled : a6.fb F.STW_CTL_EN = true := (sixOnly.fb (by decide) (by decide) (by decide)).trans on
  have program5 : prog = e.progSlot i := by
    rw [← program]
    unfold prog Eng.progSlot
    rw [fifth]
    have owner : (a4.inst i).owner = (a3.inst i).owner := by
      rw [instThird i, if_pos rfl, ← here]
      exact (congrArg Inst.owner (a₂ := x.opened c) ((fourth i).trans (if_pos rfl))).trans rfl
    rw [owner]
    rfl
  have now := (inst6 i).trans (if_pos rfl)
  have fresh : (x.opened c).carried = [] := by
    rw [here]
    exact none_
  have seventh : a7 = a6.setInst i (x.opened c) := by
    refine (Eng.placeCarried_none (c := c) (congrArg Inst.comp now) (by rw [now]; exact fresh)).trans ?_
    rw [now]
    exact congrArg (a6.setInst i) (Inst.carried_none fresh)
  have stw6 : a6.stw = e.stw := sixReports.stw_eq.trans stw
  have views6 : a6.act = e.act ∧ a6.pend = e.pend ∧ a6.held = e.held ∧ a6.cap = a3.cap := by
    rw [sixReports.rest]
    exact ⟨rest.1, rest.2.1, rest.2.2, rfl⟩
  obtain ⟨wants, eighth⟩ : ∃ wants, a8 = (a6.setInst i (x.opened c)).setInst i (x.opened { c with wants }) := ⟨a7.wantsOf i, by
    unfold a8
    generalize a7.wantsOf i = wants
    unfold Eng.modComp Eng.modInst
    rw [seventh, Eng.inst_replaced, if_pos rfl]
    rfl⟩
  clear_value a6 a8 prog
  rw [if_neg (by rw [enabled]; exact Bool.false_ne_true)]
  have stw8 : a8.stw = e.stw := by
    rw [eighth]
    exact stw6
  have eightOnly : e.Only [4, 5, 12, 17, 18] [] a8 := by
    rw [eighth]
    exact sixOnly.trans ((Eng.Only.setCmp a6 _ (by decide)).trans (.setCmp _ _ (by decide)))
  have views8 : a8.act = e.act ∧ a8.pend = e.pend ∧ a8.held = e.held ∧ a8.cap = a3.cap := by
    rw [eighth]
    exact views6
  refine ⟨wants, passes, fun j => ?_, ?_, fun q low => ?_, fun k among => ?_, views8.1, views8.2.1, views8.2.2.1, ?_⟩
  · change a8.inst j = _
    rw [eighth, Eng.inst_replaced]
    split
    · rw [made, here]
    · rename_i other
      exact (Eng.inst_replaced a6 i j _).trans ((if_neg other).trans ((inst6 j).trans (if_neg other)))
  · change a8.stw.begun i prog (if x.changing then x.newCfg else x.cfg) passes = _
    rw [stw8, program5, here]
    rfl
  · exact tgetD_written (fun p => (a8.part p).pass) (fun _ => 0) (List.mem_range.mpr low) ([] : Tab Nat)
  · exact (congrArg (fun t => tgetD t k (rstWord (k / 65536))) views8.2.2.2).trans (captured k among)
  · exact eightOnly.trans (.setStw a8 _ (by decide))

/-- The third part of O41: the composition that is next starts. -/
theorem composeStart_begins (up : s.boot.absent = false) (run : s.eng.stw.run = none) (next : s.eng.nextTrigger = some i)
    (on : s.eng.fb F.STW_CTL_EN = true) (none_ : (s.eng.inst i).carried = []) (halts : ∀ u, s.eng.unitHalted u = false)
    (engines : s.eng.siv.retired.length < 4) (plain : ∀ q ∈ s.eng.led.recs, (s.eng.param (rqSlot q.2.rqid)).specEn = false) :
    let e := s.eng
    let x := e.inst i
    let prog := e.progSlot i
    ∃ t d, exec .composeStart s = .next t ∧ (∀ j, j ≠ i → t.eng.inst j = e.inst j) ∧
      t.eng.inst i = { x with trig := none, comp := some d, win := true, quiet := false } ∧ d.num = x.stepNo + 1 ∧ d.start = e.now ∧
      d.waiting = false ∧ d.slots = [] ∧ d.prog = prog ∧
      t.eng.stw = { e.stw with
        s := [], v := [], q := [], run := some i, prog, pc := (tgetD e.stw.progs prog {}).entry, cycles := 0, wr := [], target := none
        ending := false, dmemFault := false, cfg := if x.changing then x.newCfg else x.cfg, est := 0, fitStop := false, mode := none
        drawn := [], cursor := 0, passes := t.eng.stw.passes } ∧
      (∀ q, q < 64 → tgetD t.eng.stw.passes q 0 = (t.eng.part q).pass) ∧
      (∀ k ∈ instKeys i, tgetD t.eng.cap k (rstWord (k / 65536)) = e.keyWord k) ∧
      t.eng.act = e.act ∧ t.eng.pend = e.pend ∧ t.eng.held = e.held ∧ s.Only [4, 5, 12, 17, 18] [] t := by
  intro e x prog
  have ran : exec .composeStart s = .next (s.withEng (e.composeStart i)) := by
    change execComposeStart s = _
    rw [execComposeStart, live_up up, run, next]
  obtain ⟨wants, passes, inst, stw, each, captured, act, pend, held, only⟩ := e.composeStart_starts on none_ halts engines plain
  refine ⟨_, { e.freshComp i with wants }, ran, fun j other => (inst j).trans (if_neg other), (inst i).trans (if_pos rfl), rfl, rfl, rfl, rfl, rfl,
    ?_, fun q low => ?_, captured, act, pend, held, rfl, rfl, only⟩
  · change (e.composeStart i).stw = e.stw.begun i prog (if x.changing then x.newCfg else x.cfg) (e.composeStart i).stw.passes
    rw [stw]
    rfl
  · change tgetD (e.composeStart i).stw.passes q 0 = ((e.composeStart i).part q).pass
    rw [stw]
    exact each q low

end Compose

end Sys2Proof.Machine
end

section
/-!
The end of a composition at the cycle limit (O41).
-/
namespace Sys2Proof.Machine

section Limit
variable {e : Eng} {i : Nat} {s : State} {c : Comp}

theorem bindWhere_bound (e : Eng) (i : Nat) (p : Eng → Slot → Bool) {l : List Slot} (bound : ∀ y ∈ l, y.bound = true) (idx : Nat) :
    bindWhere e i idx p l = (l, e) := by
  induction l generalizing idx with
  | nil => rfl
  | cons y l ih =>
    unfold bindWhere
    dsimp only
    rw [bound y (List.mem_cons_self ..), if_neg (show ¬(!true && p e y) = true from Bool.false_ne_true), ih (fun z among => bound z (List.mem_cons_of_mem _ among))]

/-- A composition whose slots are all bound, and not all void, stays as it is. -/
theorem Eng.bindReady_bound (composing : (e.inst i).comp = some c) (bound : ∀ y ∈ c.slots, y.bound = true) (some_ : ∃ y ∈ c.slots, y.kind ≠ 0) :
    e.bindReady i = e.setInst i (e.inst i) := by
  have same : e.bindSlots i = e.setInst i (e.inst i) := by
    unfold Eng.bindSlots
    rw [composing]
    dsimp only
    rw [bindWhere_bound e i _ bound]
    unfold Eng.modComp Eng.modInst
    have kept : (e.inst i).comp.map (fun d : Comp => { d with slots := c.slots }) = (e.inst i).comp := by rw [composing, Option.map_some]
    dsimp only
    rw [kept]
  unfold Eng.bindReady
  rw [same]
  have here : (e.setInst i (e.inst i)).comp i = c := by
    unfold Eng.comp
    rw [Eng.inst_replaced, if_pos rfl, composing]
    rfl
  have filled : allVoid c.slots = false := by
    obtain ⟨y, among, kind⟩ := some_
    exact List.all_eq_false.mpr ⟨y, among, by rw [decide_eq_false kind]; exact Bool.false_ne_true⟩
  unfold Eng.voidCheck
  dsimp only
  rw [here, filled, Bool.and_false]
  exact if_neg Bool.false_ne_true

theorem prefillSplit_none {l : List Slot} (none_ : ∀ y ∈ l, y.kind ≠ 2) : prefillSplit l = [] := by
  refine List.filterMap_eq_nil_iff.mpr (fun p _ => ?_)
  dsimp only
  rw [sumBy_zero (fun y among => if_neg (fun h => none_ y among h.1)), if_pos rfl]

theorem Eng.prefillAmount_zero (e : Eng) : e.prefillAmount 0 = 0 := by
  unfold Eng.prefillAmount cdiv
  split <;> simp

/-- The Steward once it has left a composition. -/
def Stw.left (w : Stw) : Stw := { w with run := none, wr := [], target := none, ending := false, dmemFault := false }

/-- A composition that waits for its emission, as the Steward has left it. -/
def Comp.ended (c : Comp) (w : Stw) : Comp := { c with waiting := true, est := w.est.toNat % 2 ^ 32, cfg := w.cfg % 16, cycles := w.cycles }

/-- An `Inst` whose composition has ended. -/
def Inst.composed (x : Inst) (c : Comp) (w : Stw) : Inst := { x with lastCycles := min w.cycles (2 ^ 16 - 1), comp := some (c.ended w) }

/-- The engine with other instances. -/
def Eng.withInsts (e : Eng) (insts : Tab Inst) : Eng := { e with cmp := { e.cmp with insts } }

/-- The engine once the Steward has left, with other instances. -/
def Eng.handedBack (e : Eng) (insts : Tab Inst) : Eng := { e with stw := e.stw.left, cmp := { e.cmp with insts } }

theorem Eng.rejectEvent_reports (e : Eng) (i : Nat) (c : Comp) : e.Reports (e.rejectEvent i c) := by
  unfold Eng.rejectEvent
  split
  · exact .refl e
  · exact e.raiseP_reports _ _ _ _ _

/-- A composition ends with slots that are bound and need no leave. -/
theorem Eng.endComp_waits (composing : (e.inst i).comp = some c) (none_ : (e.inst i).carried = []) (still : (e.inst i).changing = false)
    (cfg : e.stw.cfg % 16 = (e.inst i).cfg) (some_ : ∃ y ∈ c.slots, y.kind ≠ 0) (ready : ∀ y ∈ c.slots, y.bound = true ∧ y.kind ≠ 2) :
    ∃ insts y insts', (e.handedBack insts).Reports y ∧ e.endComp i = y.withInsts insts' ∧
      ∀ j, (e.endComp i).inst j = if j = i then (e.inst i).composed c e.stw else e.inst j := by
  unfold Eng.endComp
  extract_lets w e1 e2 e3 c1 cfg1 e4 e5 e6 x changed told e7 e8 parts amt
  have inst2 : e2.inst i = { e.inst i with lastCycles := min w.cycles (2 ^ 16 - 1) } := (Eng.inst_modInst e1 i i _).trans (if_pos rfl)
  have third : e3 = e2.setInst i { e2.inst i with comp := some c, carried := [] } :=
    Eng.placeCarried_none (by rw [inst2]; exact composing) (by rw [inst2]; exact none_)
  have inst3 : e3.inst i = { e.inst i with lastCycles := min w.cycles (2 ^ 16 - 1), comp := some c } := by
    rw [third, inst2]
    refine ((Eng.inst_replaced e2 i i _).trans (if_pos rfl)).trans ?_
    exact Inst.carried_none (x := { e.inst i with lastCycles := min w.cycles (2 ^ 16 - 1), comp := some c }) none_
  have here : c1 = c := by
    unfold c1 Eng.comp
    rw [inst3]
    rfl
  have inst4 : ∀ j, e4.inst j = if j = i then (e.inst i).composed c w else e.inst j := fun j => by
    refine (Eng.inst_modInst e3 i j _).trans ?_
    split
    · rw [inst3]
      rfl
    · rename_i other
      rw [third, Eng.inst_replaced, if_neg other]
      exact (Eng.inst_modInst e1 i j _).trans (if_neg other)
  have fourth : ∃ insts, e4 = e.handedBack insts := ⟨e4.cmp.insts, by
    unfold e4
    rw [third]
    rfl⟩
  have reports : e4.Reports e6 := (e4.trace_reports _).trans (e5.rejectEvent_reports i c1)
  have seventh : (!x.changing && decide (cfg1 ≠ x.cfg)) = false → e7 = e6 := fun stays => if_neg (by rw [stays]; exact Bool.false_ne_true)
  clear_value e4 e6 c1 told e7
  obtain ⟨insts, eq4⟩ := fourth
  have inst6 : ∀ j, e6.inst j = if j = i then (e.inst i).composed c w else e.inst j := fun j =>
    (congrArg (fun w : Cmp => tgetD w.insts j {}) reports.cmp_eq).trans (inst4 j)
  have now : x = (e.inst i).composed c w := (inst6 i).trans (if_pos rfl)
  have filled : c1.slots.isEmpty = false := by
    obtain ⟨y, among, -⟩ := some_
    rw [here]
    exact List.isEmpty_eq_false_iff.mpr (List.ne_nil_of_mem among)
  have ends : (c1.slots.isEmpty || (x.changing && decide (cfg1 ≠ x.newCfg))) = false := by
    rw [filled, now, show ((e.inst i).composed c w).changing = false from still]
    rfl
  have stays : (!x.changing && decide (cfg1 ≠ x.cfg)) = false := by
    rw [now, decide_eq_false (fun other => other cfg), Bool.and_false]
  have bound : e6.bindReady i = e6.setInst i (e6.inst i) := Eng.bindReady_bound (c := c.ended w)
    ((congrArg Inst.comp ((inst6 i).trans (if_pos rfl))).trans rfl) (fun y among => (ready y among).1) some_
  have eighth : e8 = e6.setInst i (e6.inst i) := by
    unfold e8
    rw [seventh stays, bound]
  have free : amt = 0 := by
    unfold amt parts
    rw [prefillSplit_none (fun y among => (ready y (by rw [← here]; exact among)).2)]
    exact Eng.prefillAmount_zero _
  rw [if_neg (by rw [ends]; exact Bool.false_ne_true), if_pos free, eighth]
  refine ⟨insts, e6, _, by rw [← eq4]; exact reports, rfl, fun j => (Eng.inst_replaced e6 i j _).trans ?_⟩
  split
  · exact (inst6 i).trans (if_pos rfl)
  · rename_i other
    exact (inst6 j).trans (if_neg other)

/-- The fourth part of O41: the composition ends at the cycle limit. -/
theorem cycleLimit_ends (up : s.boot.absent = false) (run : s.eng.stw.run = some i) (limit : s.eng.stwLimit ≤ s.eng.stw.cycles)
    (going : s.eng.stwStopped = false) (composing : (s.eng.inst i).comp = some c) (none_ : (s.eng.inst i).carried = [])
    (still : (s.eng.inst i).changing = false) (cfg : s.eng.stw.cfg % 16 = (s.eng.inst i).cfg) (some_ : ∃ y ∈ c.slots, y.kind ≠ 0)
    (ready : ∀ y ∈ c.slots, y.bound = true ∧ y.kind ≠ 2) :
    let e := s.eng
    let x := e.inst i
    let w := e.stw
    ∃ t, exec .cycleLimit s = .next t ∧ (∀ j, j ≠ i → t.eng.inst j = e.inst j) ∧
      t.eng.inst i = { x with
        lastCycles := min w.cycles (2 ^ 16 - 1)
        comp := some { c with waiting := true, est := w.est.toNat % 2 ^ 32, cfg := x.cfg, cycles := w.cycles } } ∧
      t.eng.stw = { w with run := none, wr := [], target := none, ending := false, dmemFault := false } ∧
      t.eng.fv F.STW_OVERRUNS_COUNT = min (e.fv F.STW_OVERRUNS_COUNT + 1) (2 ^ 32 - 1) ∧ s.Only [1, 4, 5, 17] [0x5030] t := by
  intro e x w
  let raised := e.raiseP 0x0042 5 x.owner (satN 16 w.cycles + 2 ^ 16 * i) (some i)
  have reports : e.Reports raised := e.raiseP_reports _ _ _ _ _
  have ran : exec .cycleLimit s = .next (s.withEng ((raised.bump F.STW_OVERRUNS_COUNT).endComp i)) := by
    change execCycleLimit s = _
    rw [execCycleLimit, live_up up, run]
    refine congrArg (fun y => Host.Outcome.next (s.withEng y)) (if_neg ?_)
    rw [going]
    exact fun h => h.elim (Nat.not_lt.mpr limit) Bool.false_ne_true
  clear_value raised
  have cmp : raised.cmp = e.cmp := reports.cmp_eq
  have stw : raised.stw = w := reports.stw_eq
  have inst : ∀ j, (raised.bump F.STW_OVERRUNS_COUNT).inst j = e.inst j := fun j => congrArg (fun w : Cmp => tgetD w.insts j {}) cmp
  obtain ⟨insts, y, insts', ends, eq, each⟩ := Eng.endComp_waits (e := raised.bump F.STW_OVERRUNS_COUNT) (i := i) (c := c) (by rw [inst]; exact composing)
    (by rw [inst]; exact none_) (by rw [inst]; exact still) (by rw [inst]; exact (congrArg (fun w : Stw => w.cfg % 16) stw).trans cfg) some_ ready
  have left : ((raised.bump F.STW_OVERRUNS_COUNT).endComp i).stw = w.left := by
    rw [eq]
    exact ends.stw_eq.trans (congrArg Stw.left stw)
  have counted : ((raised.bump F.STW_OVERRUNS_COUNT).endComp i).fv F.STW_OVERRUNS_COUNT = min (e.fv F.STW_OVERRUNS_COUNT + 1) (2 ^ 32 - 1) := by
    rw [eq]
    refine (ends.fv F.STW_OVERRUNS_COUNT 0 (by decide) (by decide)).trans ((raised.fv_bump_same F.STW_OVERRUNS_COUNT 1 0 rfl rfl).trans ?_)
    rw [reports.fv F.STW_OVERRUNS_COUNT 0 (by decide) (by decide)]
  have only : e.Only [1, 4, 5, 17] [0x5030] ((raised.bump F.STW_OVERRUNS_COUNT).endComp i) := by
    have counts : e.Only [1, 4, 5, 17] [0x5030] (raised.bump F.STW_OVERRUNS_COUNT) :=
      (Eng.Only.of_reports reports (by decide) (by decide)).trans (.bump raised F.STW_OVERRUNS_COUNT 1 0 (by decide) (by decide))
    have handed : e.Only [1, 4, 5, 17] [0x5030] ((raised.bump F.STW_OVERRUNS_COUNT).handedBack insts) :=
      by
      let left : Eng := { raised.bump F.STW_OVERRUNS_COUNT with stw := (raised.bump F.STW_OVERRUNS_COUNT).stw.left }
      have leaves : e.Only [1, 4, 5, 17] [0x5030] left := counts.trans (.setStw _ _ (by decide))
      exact leaves.trans (.setCmp left _ (by decide))
    have ended : e.Only [1, 4, 5, 17] [0x5030] y := handed.trans (.of_reports ends (by decide) (by decide))
    rw [eq]
    exact ended.trans (.setCmp y _ (by decide))
  refine ⟨_, ran, fun j other => (each j).trans ((if_neg other).trans (inst j)), (each i).trans ((if_pos rfl).trans ?_), left, counted, rfl, rfl, only⟩
  rw [inst]
  refine (congrArg (x.composed c) stw).trans ?_
  have same : w.cfg % 16 = x.cfg := cfg
  unfold Inst.composed Comp.ended
  rw [same]

end Limit

end Sys2Proof.Machine
end

section
/-!
The emission of a step (O41).
-/
namespace Sys2Proof.Machine

section Emit
variable {e : Eng} {i : Nat} {s : State} {c : Comp} {insts : Tab Inst}

/-! ### What an emission finds -/

theorem Eng.withInsts_inst (same : ∀ j, tgetD insts j {} = e.inst j) : (e.withInsts insts).inst = e.inst := funext same

theorem Eng.withInsts_emitReady (same : ∀ j, tgetD insts j {} = e.inst j) (i : Nat) : (e.withInsts insts).emitReady i = e.emitReady i := by
  unfold Eng.emitReady Eng.aligned
  rw [Eng.withInsts_inst same]
  rfl

theorem Eng.setInst_self (e : Eng) (i : Nat) : ∃ insts, e.setInst i (e.inst i) = e.withInsts insts ∧ ∀ j, tgetD insts j {} = e.inst j :=
  ⟨_, rfl, fun j => by
    refine (Eng.inst_replaced e i j (e.inst i)).trans ?_
    split
    · rename_i here
      rw [here]
    · rfl⟩

theorem voidWhere_none (e : Eng) (i row : Nat) {p : Slot → Bool} {l : List Slot} (none_ : ∀ x ∈ l, p x = false) (idx : Nat) :
    voidWhere e i idx row p l = (l, e) := by
  induction l generalizing idx with
  | nil => rfl
  | cons x l ih =>
    unfold voidWhere
    dsimp only
    rw [none_ x (List.mem_cons_self ..), Bool.and_false, if_neg Bool.false_ne_true, ih (fun z among => none_ z (List.mem_cons_of_mem _ among))]

/-- The slots of a composition of which none is void. -/
theorem Eng.modComp_self (composing : (e.inst i).comp = some c) : e.modComp i (fun d => { d with slots := c.slots }) = e.setInst i (e.inst i) := by
  have kept : (e.inst i).comp.map (fun d : Comp => { d with slots := c.slots }) = (e.inst i).comp := by rw [composing, Option.map_some]
  unfold Eng.modComp Eng.modInst
  dsimp only
  rw [kept]

theorem Eng.comp_of (composing : (e.inst i).comp = some c) : e.comp i = c := by
  unfold Eng.comp
  rw [composing]
  rfl

/-- A slot that is sent as it is: bound again, or with its blocks here and its sibling in time. -/
def Eng.sound (e : Eng) (edge : Nat) (y : Slot) : Prop :=
  y.reissue = false → e.belowHere y = true ∧ ∃ r, e.rc y.lslot = some r ∧ (r.deadlineLast = 0 ∨ edge ≤ r.deadlineLast)

theorem Eng.sound.congr {e' : Eng} {edge : Nat} {y : Slot} (sound : e.sound edge y) (shv : e'.shv = e.shv) (led : e'.led = e.led) : e'.sound edge y := by
  have below : e'.belowHere y = e.belowHere y := by
    unfold Eng.belowHere Eng.mapOf Eng.blockGrp Eng.smap Eng.grp Eng.rc
    rw [shv, led]
  intro again
  rw [below, Eng.rc, led]
  exact sound again

theorem Eng.tierVoid_none (composing : (e.inst i).comp = some c) {edge : Nat} (sound : ∀ y ∈ c.slots, e.sound edge y) :
    e.tierVoid i = e.setInst i (e.inst i) := by
  unfold Eng.tierVoid
  rw [Eng.comp_of composing]
  dsimp only
  rw [voidWhere_none e i 3 (fun y among => ?_)]
  · exact Eng.modComp_self composing
  · cases again : y.reissue with
    | true => rfl
    | false => rw [(sound y among again).1]; rfl

theorem Eng.deadlineVoid_none (composing : (e.inst i).comp = some c) {edge : Nat} (sound : ∀ y ∈ c.slots, e.sound edge y) :
    e.deadlineVoid i edge = e.setInst i (e.inst i) := by
  unfold Eng.deadlineVoid
  rw [Eng.comp_of composing]
  dsimp only
  rw [voidWhere_none e i 4 (fun y among => ?_)]
  · exact Eng.modComp_self composing
  · cases again : y.reissue with
    | true => rfl
    | false =>
      obtain ⟨-, r, rc, intime⟩ := sound y among again
      rw [rc]
      exact decide_eq_false (fun late => intime.elim late.1 (fun after => Nat.not_lt.mpr after late.2))

/-- The lead that an `Inst`'s edges have over their emission. -/
def Eng.edgeLead (e : Eng) (i : Nat) : Nat := e.leadEff i (e.cv (F.TAL_EDGE_LEAD_n_LEAD.at 4 i))

/-- A composition that is sent at its first edge, with its slots as they are. -/
theorem Eng.stepEmit_sends (ready : e.emitReady i = true) (composing : (e.inst i).comp = some c) (bound : ∀ y ∈ c.slots, y.bound = true)
    (some_ : ∃ y ∈ c.slots, y.kind ≠ 0) (plain : e.cstOn = false) (sound : ∀ y ∈ c.slots, e.sound (max (e.now + e.edgeLead i) c.notBefore) y) :
    ∃ first last, (∀ j, tgetD first j {} = e.inst j) ∧ (∀ j, tgetD last j {} = e.inst j) ∧
      e.stepEmit i = (((e.withInsts first).advance (max (e.now + e.edgeLead i) c.notBefore - e.edgeLead i)).withInsts last).emitPacket i
        (max (e.now + e.edgeLead i) c.notBefore) := by
  obtain ⟨first, same, firstInst⟩ := e.setInst_self i
  have filled : allVoid c.slots = false := by
    obtain ⟨y, among, kind⟩ := some_
    exact List.all_eq_false.mpr ⟨y, among, by rw [decide_eq_false kind]; exact Bool.false_ne_true⟩
  have inst1 : (e.withInsts first).inst = e.inst := Eng.withInsts_inst firstInst
  have lead1 : (e.withInsts first).leadEff i ((e.withInsts first).cv (F.TAL_EDGE_LEAD_n_LEAD.at 4 i)) = e.edgeLead i := rfl
  have placed : (e.withInsts first).placeEdge ((e.withInsts first).inst i).owner (max ((e.withInsts first).now + e.edgeLead i) c.notBefore) c.est =
      some (max (e.now + e.edgeLead i) c.notBefore, false) := if_pos (by
    unfold Eng.edgePermitted
    rw [show (e.withInsts first).cstOn = false from plain]
    rfl)
  unfold Eng.stepEmit
  dsimp only
  rw [Eng.bindReady_bound composing bound some_, same, Eng.withInsts_emitReady firstInst, ready, if_neg (by decide),
    Eng.comp_of (e := e.withInsts first) ((congrArg (fun f => (f i).comp) inst1).trans composing), filled, if_neg Bool.false_ne_true, lead1, placed]
  dsimp only
  rw [if_neg Bool.false_ne_true]
  generalize max (e.now + e.edgeLead i) c.notBefore = edge at sound ⊢
  have advanced : ∀ j, ((e.withInsts first).advance (edge - e.edgeLead i)).inst j = e.inst j := fun j => (Eng.advance_inst _ _ _).trans (firstInst j)
  have sound2 : ∀ y ∈ c.slots, ((e.withInsts first).advance (edge - e.edgeLead i)).sound edge y := fun y among =>
    (sound y among).congr (Eng.advance_shv _ _) (Eng.advance_led _ _)
  obtain ⟨e2, at2⟩ : ∃ y, (e.withInsts first).advance (edge - e.edgeLead i) = y := ⟨_, rfl⟩
  rw [at2] at sound2 ⊢
  simp only [at2] at advanced
  have composing2 : (e2.inst i).comp = some c := (congrArg Inst.comp (advanced i)).trans composing
  obtain ⟨second, same2, secondInst⟩ := e2.setInst_self i
  have composing3 : ((e2.withInsts second).inst i).comp = some c := (congrArg Inst.comp (secondInst i)).trans composing2
  obtain ⟨third, same3, thirdInst⟩ := (e2.withInsts second).setInst_self i
  have composing4 : (((e2.withInsts second).withInsts third).inst i).comp = some c := (congrArg Inst.comp (thirdInst i)).trans composing3
  refine ⟨first, third, firstInst, fun j => (thirdInst j).trans ((secondInst j).trans (advanced j)), ?_⟩
  rw [at2, Eng.tierVoid_none composing2 sound2, same2, Eng.deadlineVoid_none composing3 (fun y among => (sound2 y among).congr rfl rfl), same3,
    Eng.comp_of composing4, filled, if_neg Bool.false_ne_true]
  exact congrArg (fun y : Eng => y.emitPacket i edge) (show (e2.withInsts second).withInsts third = e2.withInsts third from rfl)

/-! ### What an emission changes -/

theorem Eng.Only.emitCounts {us offs : List Nat} (e : Eng) (i : Nat) (c : Comp) (keeper : 12 ∈ us) (port : 17 ∈ us) : e.Only us offs (e.emitCounts i c) := by
  unfold Eng.emitCounts
  extract_lets e1 e2
  have counted : e.Only us offs e1 := .count e _ _ _ _ port
  clear_value e1
  have cleared : e1.Only us offs (e1.clearToks i) := .setKpr e1 _ keeper
  have slots : (e1.clearToks i).Only us offs e2 := .foldl _ _ (fun y x _ => by
    extract_lets p k keeper1 y1 y2
    have got : y.Only us offs y1 := .setKpr y _ keeper
    have tokens : y1.Only us offs y2 := (Eng.Only.count y1 _ _ _ _ port).trans (.count _ _ _ _ _ port)
    clear_value y1 y2
    exact .ite (fun _ => got) (fun _ => (got.trans tokens).trans (.setKpr y2 _ keeper))) _
  clear_value e2
  exact ((counted.trans cleared).trans slots).trans (.setKpr e2 _ keeper)

theorem foldl_led (l : List Nat) (f : Eng → Nat → Eng) (off : e.mirrorOn = false) (each : ∀ (y : Eng) x, y.mirrorOn = false → ∃ led, f y x = { y with led }) :
    ∃ led, l.foldl f e = { e with led } := by
  induction l generalizing e with
  | nil => exact ⟨e.led, rfl⟩
  | cons x l ih =>
    obtain ⟨led, eq⟩ := each e x off
    rw [List.foldl_cons, eq]
    exact ih (e := { e with led }) off

theorem Eng.setState_led (off : e.mirrorOn = false) (k state : Nat) : ∃ led, e.setState k state = { e with led } :=
  ⟨_, (e.modRc k (fun r => { r with state })).mirror_off off k⟩

/-- A sibling whose prefill begins with the slot of a record. -/
def Eng.prefills (r : LRec) (x : Slot) (e : Eng) (s : Nat) : Eng :=
  if (e.rc s).any (fun q => decide (q.state = 3) && (decide (s = x.lslot) || (r.shared && q.shared))) then e.setState s 4 else e

theorem Eng.emitStates_led (off : e.mirrorOn = false) (l : List Slot) : ∃ led, e.emitStates l = { e with led } := by
  unfold Eng.emitStates
  induction l generalizing e with
  | nil => exact ⟨e.led, rfl⟩
  | cons x l ih =>
    rw [List.foldl_cons]
    have one : ∃ led, (match e.rc x.lslot with
        | none => e
        | some r =>
          if x.kind = 0 then e
          else
            let e := e.setRc x.lslot { r with draftN := x.ndraft }
            if x.kind = 2 ∧ r.state = 3 then
              (e.sibs (rqSlot r.rqid)).foldl (fun e s =>
                if (e.rc s).any (fun q => decide (q.state = 3) && (decide (s = x.lslot) || (r.shared && q.shared))) then e.setState s 4 else e) e
            else if x.kind = 3 ∧ r.state = 5 then e.setState x.lslot 6
            else e) = { e with led } := by
      split
      · exact ⟨e.led, rfl⟩
      · split
        · exact ⟨e.led, rfl⟩
        · rename_i r _ _
          extract_lets e1
          have off1 : e1.mirrorOn = false := off
          by_cases prefill : x.kind = 2 ∧ r.state = 3
          · rw [if_pos prefill]
            obtain ⟨led, eq⟩ := foldl_led (e1.sibs (rqSlot r.rqid)) (Eng.prefills r x) off1 (fun y k still => by
              unfold Eng.prefills
              split
              · exact Eng.setState_led still k 4
              · exact ⟨y.led, rfl⟩)
            exact ⟨led, eq⟩
          · rw [if_neg prefill]
            split
            · obtain ⟨led, eq⟩ := Eng.setState_led off1 x.lslot 6
              exact ⟨led, eq⟩
            · exact ⟨e1.led, rfl⟩
    obtain ⟨led, eq⟩ := one
    obtain ⟨led', eq'⟩ := ih (e := { e with led }) off
    exact ⟨led', by rw [← eq']; exact congrArg (fun y => l.foldl _ y) eq⟩

theorem Eng.Only.sendControl {us offs : List Nat} (i step epoch : Nat) (l : List (Nat × Slot)) (sampler : 8 ∈ us) (e : Eng) :
    e.Only us offs (sendControl e i step epoch l) := by
  induction l generalizing e with
  | nil => exact .refl e
  | cons p l ih =>
    unfold Sys2Proof.Machine.sendControl
    split
    · extract_lets row k e1
      have sent : e.Only us offs e1 := .emit e _
      clear_value e1
      exact (sent.trans (.setSmp e1 _ sampler)).trans (ih _)
    · exact ih e

theorem Eng.Only.wakeLanes {us offs : List Nat} (e : Eng) (domains : 15 ∈ us) : e.Only us offs e.wakeLanes :=
  .foldl _ _ (fun y _ _ => .wake y _ domains) e

/-- The step that a composition becomes. -/
def Eng.outgoing (e : Eng) (i : Nat) (c : Comp) (edge : Nat) : Step :=
  { num := (e.inst i).stepNo + 1, edge, emit := e.now, est := c.est
    epoch := if (e.inst i).changing then (e.inst i).nextEpoch else (e.inst i).epoch, cfg := c.cfg, slots := c.slots, uid := c.uid }

/-- The packet of that step. -/
def Step.packet (st : Step) (x : Inst) (i : Nat) : Packet :=
  { epoch := st.epoch, inst := i, mid := x.mid, cfg := st.cfg, owner := x.owner, leadInst := i, step := st.num, edge := st.edge, emit := st.emit
    est := st.est, slots := st.slots, ents := st.slots.flatMap (fun y => y.ents) }

/-- The `Inst` whose step is outstanding. -/
def Inst.sent (x : Inst) (st : Step) : Inst :=
  { x with
    comp := none, step := some st, stepNo := st.num, epoch := st.epoch, cfg := st.cfg, changing := false
    cfgLoaded := x.cfgLoaded || x.changing, drained := x.drained || x.changing
    lastSlots := (st.slots.filter (fun y => decide (y.kind ≠ 0))).length, lastTokens := slotTokens st.slots }

theorem Eng.Only.packetAddr {us : List Nat} {e' : Eng} (only : e.Only us [] e') (i num : Nat) : e'.packetAddr i num = e.packetAddr i num := by
  unfold Eng.packetAddr Eng.pairv
  rw [only.regs 0x4008 0 (by decide) (by decide) (by decide) (fun stall => absurd stall (by decide)),
    only.regs (0x4008 + 4) 0 (by decide) (by decide) (by decide) (fun stall => absurd stall (by decide))]

theorem Eng.emitPacket_emits {edge : Nat} (composing : (e.inst i).comp = some c) (alone : e.others i = []) (off : e.mirrorOn = false)
    (turns : (e.inst i).changing = true → c.cfg = (e.inst i).newCfg) :
    let st := e.outgoing i c edge
    (∀ j, (e.emitPacket i edge).inst j = if j = i then (e.inst i).sent st else e.inst j) ∧
      .array (.packet (st.packet (e.inst i) i) (e.packetAddr i st.num)) ∈ (e.emitPacket i edge).out ∧
      tget (e.emitPacket i edge).cmp.packets (2 * i + st.num % 2) = some (st.packet (e.inst i) i) ∧
      e.Only [2, 4, 8, 10, 12, 15, 17] [] (e.emitPacket i edge) := by
  intro st
  have turn_ : ((e.inst i).changing && decide (c.cfg = (e.inst i).newCfg)) = (e.inst i).changing := by
    cases now : (e.inst i).changing with
    | false => rfl
    | true => exact decide_eq_true (turns now)
  unfold Eng.emitPacket
  rw [Eng.comp_of composing]
  extract_lets c1 x num turn epoch p st1 e1 e2 e3 e4 e5 e6 e7 e8
  have same : turn = x.changing := turn_
  have number : epoch = st.epoch := by
    unfold epoch
    rw [same]
    rfl
  have step : st1 = st := by
    unfold st1
    rw [number]
    rfl
  have packet : p = st.packet x i := by
    unfold p
    rw [number]
    rfl
  have second : e2 = e1.setInst i (x.sent st) := by
    unfold e2
    rw [step, number, same, Bool.and_not_self]
    rfl
  have counts : e.Only [2, 4, 8, 10, 12, 15, 17] [] e1 := .emitCounts e i c (by decide) (by decide)
  have cmp1 : e1.cmp = e.cmp := (Eng.Only.emitCounts (us := [12, 17]) (offs := []) e i c (by decide) (by decide)).parts 4 (by decide)
  have raf1 : e1.raf = e.raf := counts.parts 13 (by decide)
  clear_value e1 e2 p st1 epoch
  have off1 : e1.mirrorOn = false := by
    have only : e.Only [2, 4, 8, 10, 12, 15, 17] [] e1 := counts
    rw [only.mirrorOn (congrArg Raf.mapLoaded raf1)]
    exact off
  obtain ⟨led, eq3⟩ := Eng.emitStates_led (e := e2) (by rw [second]; exact off1) c1.slots
  have third : e3 = { e1.setInst i (x.sent st) with led } := by rw [← second]; exact eq3
  clear_value e3
  have thirdOnly : e.Only [2, 4, 8, 10, 12, 15, 17] [] e3 := by
    rw [third]
    exact (counts.trans (.setCmp e1 _ (by decide))).trans (.setLed _ _ (by decide))
  have inst3 : ∀ j, e3.inst j = if j = i then x.sent st else e.inst j := fun j => by
    rw [third]
    refine (Eng.inst_replaced e1 i j (x.sent st)).trans ?_
    split
    · rfl
    · exact congrArg (fun w : Cmp => tgetD w.insts j {}) cmp1
  have addr : e3.packetAddr i num = e.packetAddr i st.num := thirdOnly.packetAddr i num
  have fourthOnly : e.Only [2, 4, 8, 10, 12, 15, 17] [] e4 := thirdOnly.trans (.putPacket e3 i num p (by decide))
  have shown : .array (.packet (st.packet x i) (e.packetAddr i st.num)) ∈ e4.out := by
    rw [← packet, ← addr]
    exact List.mem_cons_self ..
  have kept : tget e4.cmp.packets (2 * i + st.num % 2) = some (st.packet x i) := by
    rw [← packet]
    exact tget_tput_same _ _ _
  have inst4 : ∀ j, e4.inst j = if j = i then x.sent st else e.inst j := inst3
  clear_value e4
  have controlled : e4.Only [8, 10, 15, 17] [] e5 := (Eng.Only.clearRows e4 i (by decide) (by decide)).trans (.sendControl i _ _ _ (by decide) _)
  clear_value e5
  have woken : e5.Only [8, 10, 15, 17] [] e6 := .ite (fun _ => .wakeLanes e5 (by decide)) (fun _ => .refl e5)
  clear_value e6
  have sixth : e4.Only [8, 10, 15, 17] [] e6 := controlled.trans woken
  have inst6 : ∀ j, e6.inst j = if j = i then x.sent st else e.inst j := fun j =>
    (congrArg (fun w : Cmp => tgetD w.insts j {}) (show e6.cmp = e4.cmp from sixth.parts 4 (by decide))).trans (inst4 j)
  have seventh : e7 = e6 := by
    have others : e6.others i = [] := by
      rw [← alone]
      unfold Eng.others
      rw [inst6 i, if_pos rfl, (fourthOnly.trans (sixth.weaken (by decide) (by decide))).self (by decide)]
      rfl
    exact if_pos (by rw [others]; rfl)
  have tail : e6.Only [8, 10, 15, 17] [] (e8.trace { kind := 5, inst := i, pid := x.owner, pidV := true, step := num, arg := edge }) := by
    have turned : e7.Only [8, 10, 15, 17] [] e8 := .ite (fun _ => .traced e7 _ (by decide)) (fun _ => .refl e7)
    rw [← seventh]
    exact turned.trans (.traced e8 _ (by decide))
  generalize e8.trace _ = z at tail
  have rest : e4.Only [8, 10, 15, 17] [] z := sixth.trans tail
  have cmp : z.cmp = e4.cmp := rest.parts 4 (by decide)
  refine ⟨fun j => (congrArg (fun w : Cmp => tgetD w.insts j {}) cmp).trans (inst4 j), ?_, by rw [cmp]; exact kept, fourthOnly.trans (rest.weaken (by decide) (by decide))⟩
  obtain ⟨more, out⟩ := rest.out
  rw [out]
  exact List.mem_append_right more shown

/-- The fifth part of O41: a step is emitted one lead before its edge. -/
theorem stepEmit_emits (up : s.boot.absent = false) (settled : s.Settled) (composing : (s.eng.inst i).comp = some c) (ready : s.eng.emitReady i = true)
    (bound : ∀ y ∈ c.slots, y.bound = true) (some_ : ∃ y ∈ c.slots, y.kind ≠ 0) (plain : s.eng.cstOn = false)
    (turns : (s.eng.inst i).changing = true → c.cfg = (s.eng.inst i).newCfg)
    (sound : ∀ y ∈ c.slots, s.eng.sound (max (s.eng.now + s.eng.edgeLead i) c.notBefore) y) (alone : s.eng.others i = [])
    (off : s.eng.mirrorOn = false) :
    let e := s.eng
    let x := e.inst i
    let lead := e.leadEff i (e.cv (F.TAL_EDGE_LEAD_n_LEAD.at 4 i))
    let edge := max (e.now + lead) c.notBefore
    let num := x.stepNo + 1
    let epoch := if x.changing then x.nextEpoch else x.epoch
    let out : Step := { num, edge, emit := edge - lead, est := c.est, epoch, cfg := c.cfg, slots := c.slots, uid := c.uid }
    let p : Packet := {
      epoch, inst := i, mid := x.mid, cfg := c.cfg, owner := x.owner, leadInst := i, step := num, edge, emit := edge - lead, est := c.est
      slots := c.slots, ents := c.slots.flatMap (fun y => y.ents) }
    ∃ t, exec (.stepEmit i) s = .next t ∧ (∀ j, j ≠ i → t.eng.inst j = e.inst j) ∧ t.eng.now = edge - lead ∧
      .array (.packet p (e.packetAddr i num)) ∈ t.eng.out ∧
      t.eng.inst i = { x with
        comp := none, step := some out, stepNo := num, epoch, cfg := c.cfg, changing := false
        cfgLoaded := x.cfgLoaded || x.changing, drained := x.drained || x.changing
        lastSlots := (t.eng.inst i).lastSlots, lastTokens := (t.eng.inst i).lastTokens } ∧
      tget t.eng.cmp.packets (2 * i + num % 2) = some p ∧ s.Only [0, 2, 4, 8, 10, 12, 15, 17] [] t := by
  intro e x lead edge num epoch out p
  have ran : exec (.stepEmit i) s = .next (s.withEng (e.stepEmit i)) := by
    change timed s (atStepEmit i) = _
    rw [timed_settled s _ settled, atStepEmit, live_up up]
    have composes : (e.inst i).comp.isNone = false := by rw [composing]; rfl
    refine congrArg (fun y => Host.Outcome.next (s.withEng y)) (if_neg ?_)
    unfold Eng.flushDue
    dsimp only
    rw [composes]
    simp only [Bool.and_false, Bool.false_and]
    exact Bool.false_ne_true
  obtain ⟨first, last, firstInst, lastInst, sends⟩ := Eng.stepEmit_sends ready composing bound some_ plain sound
  rw [sends] at ran
  obtain ⟨y, at_⟩ : ∃ y, ((e.withInsts first).advance (edge - lead)).withInsts last = y := ⟨_, rfl⟩
  have only : e.Only [0, 2, 4, 8, 10, 12, 15, 17] [] y := by
    rw [← at_]
    exact ((Eng.Only.setCmp e _ (by decide)).trans (.advance (e.withInsts first) _ (by decide) (by decide) (by decide))).trans (.setCmp _ _ (by decide))
  have inst : ∀ j, y.inst j = e.inst j := fun j => by
    rw [← at_]
    exact lastInst j
  have after : e.now + lead ≤ edge := Nat.le_max_left _ _
  have now : y.now = edge - lead := by
    rw [← at_]
    exact (Eng.advance_now _ _).trans (Nat.max_eq_right (Nat.le_sub_of_add_le after))
  have raf : y.raf = e.raf := only.parts 13 (by decide)
  have others : y.others i = [] := by
    rw [← alone]
    unfold Eng.others
    rw [inst, only.self (by decide)]
  change exec (.stepEmit i) s = .next (s.withEng ((((e.withInsts first).advance (edge - lead)).withInsts last).emitPacket i edge)) at ran
  rw [at_] at ran
  obtain ⟨each, shown, kept, emits⟩ := Eng.emitPacket_emits (e := y) (c := c) (edge := edge) (by rw [inst]; exact composing) others
    (by rw [only.mirrorOn (congrArg Raf.mapLoaded raf)]; exact off) (by rw [inst]; exact turns)
  have step : y.outgoing i c edge = out := by
    unfold Eng.outgoing
    rw [now, inst]
  rw [step] at each shown kept
  rw [inst] at each shown kept
  rw [only.packetAddr] at shown
  refine ⟨_, ran, fun j other => (each j).trans ((if_neg other).trans (inst j)), ?_, shown, ?_, kept, rfl, rfl, only.trans (emits.weaken (by decide) (by decide))⟩
  · exact (show (y.emitPacket i edge).now = y.now from emits.parts 0 (by decide)).trans now
  · have here : (s.withEng (y.emitPacket i edge)).eng.inst i = x.sent out := (each i).trans (if_pos rfl)
    rw [here]
    rfl

end Emit

/-- Settles O41: each command of triggers, compositions and steps by its own lemma. -/
theorem stepsAreComposed : Obligations.StepsAreComposed := by
  intro i st c s up low e x w others prog lead edge num epoch out p
  refine ⟨instanceTrigger_triggers up, fun step started running => ⟨arrayStepDone_rowed up step started running, arrayStepDone_rowless up step started running⟩,
    composeStart_begins up, cycleLimit_ends up, fun settled composing ready bound some_ plain turns sound alone off => ?_, epochDrained_noted up⟩
  exact stepEmit_emits up settled composing ready bound some_ plain turns sound alone off

end Sys2Proof.Machine
end

section
/-!
The Sampler's rows and slots (O45).
-/
namespace Sys2Proof.Machine

section Sampler
variable {e : Eng} {i idx k : Nat} {s : State} {st : Step} {x y : Slot} {ss : SmpSlot}

/-! ### The Sampler's slots -/

theorem Eng.smpSlot_modSmp (e : Eng) (k j : Nat) (f : SmpSlot → SmpSlot) :
    (e.modSmp k f).smpSlot j = if j = k then (e.smpSlot k).map f else e.smpSlot j := tget_tmod _ _ _ _

/-- A change of the count tables alone. -/
def Eng.withCounts (e : Eng) (counts : Tab (Nat × Nat × Tab Nat)) : Eng := { e with smp := { e.smp with counts } }

theorem foldl_counts {α : Type} (l : List α) (f : Eng → α → Eng) (each : ∀ (y : Eng) a, ∃ counts, f y a = y.withCounts counts) (e : Eng) :
    ∃ counts, l.foldl f e = e.withCounts counts := by
  induction l generalizing e with
  | nil => exact ⟨e.smp.counts, rfl⟩
  | cons a l ih =>
    obtain ⟨counts, eq⟩ := each e a
    obtain ⟨counts', eq'⟩ := ih (e.withCounts counts)
    exact ⟨counts', by rw [List.foldl_cons, eq, eq']; rfl⟩

theorem Eng.countRow_counts (e : Eng) (k j : Nat) (r : Row) : ∃ counts, e.countRow k j r = e.withCounts counts := by
  unfold Eng.countRow
  split
  · exact ⟨e.smp.counts, rfl⟩
  · dsimp only
    split
    · exact ⟨e.smp.counts, rfl⟩
    · refine foldl_counts _ _ (fun y n => ?_) e
      split
      · exact ⟨y.smp.counts, rfl⟩
      · exact ⟨_, rfl⟩

/-- Filling the count tables changes nothing else. -/
theorem Eng.countFill_counts (e : Eng) : ∃ counts, e.countFill = e.withCounts counts := by
  unfold Eng.countFill
  extract_lets sampler e1
  have filled : ∃ counts, e1.smp.slots.foldl (fun e s => s.2.rows.foldl (fun e r => e.countRow s.1 r.1 r.2) e) e1 = e1.withCounts counts :=
    foldl_counts _ _ (fun y (p : Nat × SmpSlot) => foldl_counts _ _ (fun z (r : Nat × Row) => z.countRow_counts p.1 r.1 r.2) y) e1
  obtain ⟨counts, eq⟩ := filled
  exact ⟨counts, eq⟩

theorem mem_indexed {α : Type} {l : List α} {m : Nat} {a : α} (at_ : l[m]? = some a) : (m, a) ∈ (List.range l.length).zip l := by
  obtain ⟨low, rfl⟩ := List.getElem?_eq_some_iff.mp at_
  refine List.mem_iff_getElem.mpr ⟨m, by simpa using low, ?_⟩
  simp

theorem Eng.rowsExpected_of {m : Nat} (step : (e.inst i).step = some st) (at_ : st.slots[m]? = some y) (rowed : y.rowed = true) (going : y.done = false)
    (few : (tgetD e.smp.slots (i * 16384 + m) {}).got y.rows < y.rows) : e.rowsExpected i = true := by
  unfold Eng.rowsExpected
  rw [step]
  refine List.any_eq_true.mpr ⟨(m, y), mem_indexed at_, ?_⟩
  rw [rowed, going]
  exact decide_eq_true few

theorem Eng.lastRow_of {m : Nat} (step : (e.inst i).step = some st) (at_ : st.slots[m]? = some y) (rowed : y.rowed = true) (going : y.done = false)
    (few : (tgetD e.smp.slots (i * 16384 + m) {}).got y.rows < y.rows) : e.lastRow i = e :=
  if_pos (Eng.rowsExpected_of step at_ rowed going few)

/-- A step with a row-bearing slot that is not done does not resolve. -/
theorem Eng.stepCheck_of {m : Nat} (step : (e.inst i).step = some st) (at_ : st.slots[m]? = some y) (rowed : y.rowed = true) (going : y.done = false) :
    e.stepCheck i = e := by
  unfold Eng.stepCheck
  rw [step]
  have among : y ∈ st.slots.filter (fun x => x.rowed) := List.mem_filter.mpr ⟨List.mem_of_getElem? at_, rowed⟩
  exact if_pos (by rw [List.all_eq_false.mpr ⟨y, among, by rw [going]; exact Bool.false_ne_true⟩]; simp)

theorem lmod_beside {α : Type} (l : List α) (f : α → α) {m n : Nat} (other : m ≠ n) : (lmod l n f)[m]? = l[m]? := by
  induction l generalizing m n with
  | nil => rfl
  | cons a l ih =>
    cases n with
    | zero =>
      cases m with
      | zero => exact absurd rfl other
      | succ m => rfl
    | succ n =>
      cases m with
      | zero => rfl
      | succ m => exact ih (fun same => other (congrArg Nat.succ same))

theorem Eng.bindReady_idle (bare : (e.inst i).comp = none) : e.bindReady i = e := by
  unfold Eng.bindReady Eng.bindSlots
  rw [bare]
  unfold Eng.voidCheck Eng.comp
  rw [bare]
  exact if_neg Bool.false_ne_true

theorem Eng.stepSlot_of (step : (e.inst i).step = some st) (at_ : st.slots[idx]? = some x) : e.stepSlot i idx = some (st, x) := by
  unfold Eng.stepSlot
  rw [step]
  dsimp only
  rw [at_]
  rfl

/-! ### Lost slots -/

theorem Eng.Only.fv {us offs : List Nat} {e' : Eng} (only : e.Only us offs e') (f : Fld) (away : f.off ∉ offs) (plain : tallyReg f.off = false)
    (stalls : f.off ≠ 0xB094) : e'.fv f = e.fv f :=
  congrArg (fun w : Word => bitsOf w.toNat f.hi f.lo) (only.regs f.off 0 (by decide) away plain (fun stall => absurd stall stalls))

theorem Eng.Only.chargeReqs {us offs : List Nat} (e : Eng) (i : Nat) (st : Step) (l : List Slot) (keeper : 12 ∈ us) :
    e.Only us offs (e.chargeReqs i st l) := by
  unfold Eng.chargeReqs
  exact .foldl _ _ (fun y _ _ => .setKpr y _ keeper) e

theorem Eng.Only.chargeSlot {us offs : List Nat} (e : Eng) (i : Nat) (st : Step) (x : Slot) (keeper : 12 ∈ us) : e.Only us offs (e.chargeSlot i st x) := by
  unfold Eng.chargeSlot
  extract_lets k e1
  have charged : e.Only us offs e1 := (Eng.Only.chargePart e _ _ _ _ keeper).trans (.chargeReqs _ _ _ _ keeper)
  clear_value e1
  exact .ite (fun _ => .refl e) (fun _ => charged.trans (.setKpr e1 _ keeper))

/-- A slot that has been lost, as it is carried. -/
def Slot.dropped (x : Slot) (num idx : Nat) : Slot := { x with lostStep := num, lostIdx := idx }

/-- A step with a slot lost. -/
def Step.losing (st : Step) (idx : Nat) : Step := { st with slots := lmod st.slots idx (fun q => { q with done := true, lost := true }) }

/-- An `Inst` that has lost a slot of its step. -/
def Inst.losing (v : Inst) (st : Step) (idx : Nat) (x : Slot) : Inst :=
  { v with carried := oinsert Slot.carriedLe (x.dropped st.num idx) v.carried, step := some (st.losing idx) }

theorem Eng.loseSlot_loses {m cause : Nat} (step : (e.inst i).step = some st) (at_ : st.slots[idx]? = some x)
    (held : e.smpSlot (smpKey i idx) = some ss) (bare : (e.inst i).comp = none) (open_ : x.done = false) (other : m ≠ idx)
    (mAt : st.slots[m]? = some y) (rowed : y.rowed = true) (going : y.done = false)
    (few : (tgetD e.smp.slots (i * 16384 + m) {}).got y.rows < y.rows) :
    (∀ q, (e.loseSlot i idx cause).smpSlot q = if q = smpKey i idx then some { st := 3 } else e.smpSlot q) ∧
      (e.loseSlot i idx cause).inst i = (e.inst i).losing st idx x ∧
      (e.loseSlot i idx cause).fv F.SMP_LOST_COUNT = min (e.fv F.SMP_LOST_COUNT + 1) (2 ^ 32 - 1) ∧
      e.Only [1, 4, 8, 10, 12, 17] [0x8050] (e.loseSlot i idx cause) := by
  unfold Eng.loseSlot
  rw [Eng.stepSlot_of step at_]
  dsimp -zeta only
  rw [if_neg (fun ended => Bool.false_ne_true (open_.symm.trans ended))]
  extract_lets k' e1 e2 p e3 e4 e5 e6
  obtain ⟨counts, filled⟩ := (e.modSmp k' (fun _ => { st := 3 })).countFill_counts
  have slots1 : ∀ q, e1.smpSlot q = if q = smpKey i idx then some { st := 3 } else e.smpSlot q := fun q => by
    unfold e1
    rw [filled]
    refine (e.smpSlot_modSmp k' q _).trans ?_
    rw [show e.smpSlot k' = some ss from held]
    rfl
  have only1 : e.Only [1, 4, 8, 10, 12, 17] [0x8050] e1 := by
    unfold e1
    rw [filled]
    exact (Eng.Only.setSmp e _ (by decide)).trans (.setSmp _ _ (by decide))
  have cmp1 : e1.cmp = e.cmp := by
    unfold e1
    rw [filled]
    rfl
  have regs1 : e1.regs = e.regs := by
    unfold e1
    rw [filled]
    rfl
  clear_value e1
  have dropped : e1.Only [1, 4, 8, 10, 12, 17] [0x8050] ((e1.dropDraws (fun q => decide (q = k'))).bump F.SMP_LOST_COUNT) :=
    (Eng.Only.setRsu e1 _ (by decide)).trans (.bump _ F.SMP_LOST_COUNT 1 0 (by decide) (by decide))
  have charged : Eng.Only [12] [] ((e1.dropDraws (fun q => decide (q = k'))).bump F.SMP_LOST_COUNT) e2 := .chargeSlot _ i st x (by decide)
  have reports : e2.Reports e4 := (e2.raise_reports _).trans (e3.trace_reports _)
  have only4 : e.Only [1, 4, 8, 10, 12, 17] [0x8050] e4 :=
    (only1.trans dropped).trans ((charged.weaken (by decide) (by decide)).trans (.of_reports reports (by decide) (by decide)))
  have slots4 : ∀ q, e4.smpSlot q = e1.smpSlot q := fun q => congrArg (fun w : Smp => tget w.slots q)
    (reports.smp_eq.trans (show e2.smp = e1.smp from charged.parts 8 (by decide)))
  have cmp4 : e4.cmp = e.cmp := (reports.cmp_eq.trans (show e2.cmp = e1.cmp from charged.parts 4 (by decide))).trans cmp1
  have lost4 : e4.fv F.SMP_LOST_COUNT = min (e.fv F.SMP_LOST_COUNT + 1) (2 ^ 32 - 1) := by
    rw [reports.fv F.SMP_LOST_COUNT 0 (by decide) (by decide)]
    have kept : e2.fv F.SMP_LOST_COUNT = ((e1.dropDraws (fun q => decide (q = k'))).bump F.SMP_LOST_COUNT).fv F.SMP_LOST_COUNT :=
      charged.fv F.SMP_LOST_COUNT (by decide) (by decide) (by decide)
    rw [kept, Eng.fv_bump_same _ _ _ _ rfl rfl]
    exact congrArg (fun n => min (n + 1) (2 ^ 32 - 1)) (Eng.fv_congr (e := e) regs1 _ _)
  clear_value e4
  have inst4 : ∀ j, e4.inst j = e.inst j := fun j => congrArg (fun w : Cmp => tgetD w.insts j {}) cmp4
  have inst5 : e5.inst i = { e.inst i with step := some (st.losing idx) } := by
    refine (Eng.inst_modInst e4 i i _).trans ((if_pos rfl).trans ?_)
    rw [inst4, step]
    rfl
  have carried : e5.reissueLost i { x with lostStep := st.num, lostIdx := idx } = e5.modInst i (fun v => v.carry (x.dropped st.num idx)) := by
    unfold Eng.reissueLost
    rw [inst5]
    dsimp only
    rw [bare]
    rfl
  have inst6 : (e5.modInst i (fun v => v.carry (x.dropped st.num idx))).inst i = (e.inst i).losing st idx x := by
    refine (Eng.inst_modInst e5 i i _).trans ((if_pos rfl).trans ?_)
    rw [inst5]
    rfl
  have sixth : e6 = (e5.modInst i (fun v => v.carry (x.dropped st.num idx))).pointLater := by
    unfold e6
    rw [carried, Eng.bindReady_idle (by rw [inst6]; exact bare)]
  have only6 : e4.Only [1, 4, 8, 10, 12, 17] [0x8050] e6 := by
    rw [sixth]
    exact ((Eng.Only.setCmp e4 _ (by decide)).trans (.setCmp e5 _ (by decide))).trans (.setKpr _ _ (by decide))
  have slots6 : ∀ q, e6.smpSlot q = if q = smpKey i idx then some { st := 3 } else e.smpSlot q := fun q => by
    rw [sixth]
    exact (slots4 q).trans (slots1 q)
  have here : e6.inst i = (e.inst i).losing st idx x := by
    rw [sixth]
    exact inst6
  have lost6 : e6.fv F.SMP_LOST_COUNT = min (e.fv F.SMP_LOST_COUNT + 1) (2 ^ 32 - 1) := by
    rw [sixth]
    exact lost4
  clear_value e6
  have step6 : (e6.inst i).step = some (st.losing idx) := by rw [here]; rfl
  have mAt6 : (st.losing idx).slots[m]? = some y := (lmod_beside _ _ other).trans mAt
  have few6 : (tgetD e6.smp.slots (i * 16384 + m) {}).got y.rows < y.rows := by
    have apart : i * 16384 + m ≠ smpKey i idx := fun same => other (Nat.add_left_cancel same)
    have same : tget e6.smp.slots (i * 16384 + m) = tget e.smp.slots (i * 16384 + m) := (slots6 _).trans (if_neg apart)
    unfold tgetD
    rw [same]
    exact few
  rw [Eng.lastRow_of step6 mAt6 rowed going few6, Eng.stepCheck_of step6 mAt6 rowed going]
  exact ⟨slots6, here, lost6, only4.trans only6⟩

end Sampler

end Sys2Proof.Machine
end

section
/-!
The commands that lose and accept rows (O45).
-/
namespace Sys2Proof.Machine

section Rows
variable {i idx j len fmt lane : Nat} {s : State} {st : Step} {x y : Slot} {ss : SmpSlot} {tag : DWord} {payload : List (BitVec 8)}

/-- The first part of O45: a row of another length or format is discarded. -/
theorem logitRow_discarded (up : s.boot.absent = false) (on : s.eng.smpOn = true) (named : tag.toNat / 2 ^ 41 % 16 = i)
    (bad : 4 < fmt ∨ len ≠ (s.eng.instModel i).vocab) :
    ∃ t, exec (.logitRow tag len fmt payload) s = .next t ∧
      t.eng.fv F.SMP_DISCARD_BAD_COUNT = min (s.eng.fv F.SMP_DISCARD_BAD_COUNT + 1) (2 ^ 32 - 1) ∧ s.Only [17] [0x804C] t := by
  let b := s.eng.bump F.SMP_DISCARD_BAD_COUNT
  have reports : b.Reports (b.count 0x1008 (portBytes fmt len)) := b.count_reports _ _ _ _
  have ran : atLogitRow tag len fmt payload s = .next (s.withEng (b.count 0x1008 (portBytes fmt len))) := by
    rw [atLogitRow, live_up up]
    refine congrArg (fun y => Host.Outcome.next (s.withEng y)) ?_
    have here : bitsOf tag.toNat 44 41 = i := named
    dsimp only
    rw [here, on, if_neg (show ¬(!true) = true from Bool.false_ne_true)]
    exact if_pos (bad.elim .inl (fun other => .inr (.inr other)))
  have now : (b.count 0x1008 (portBytes fmt len)).now = s.eng.now := reports.now_eq
  refine ⟨_, timed_sameTick ran now, ?_, rfl, rfl, (Eng.Only.bump s.eng F.SMP_DISCARD_BAD_COUNT 1 0 (by decide) (by decide)).trans
    (.count b _ _ _ _ (by decide))⟩
  exact (reports.fv F.SMP_DISCARD_BAD_COUNT 0 (by decide) (by decide)).trans (s.eng.fv_bump_same F.SMP_DISCARD_BAD_COUNT 1 0 rfl rfl)

/-- The second part of O45: a spare lane is in service once it is powered. -/
theorem spareLane_serves {w : Nat × Nat} (up : s.boot.absent = false) (settled : s.Settled)
    (waking : s.eng.smp.waking.find? (fun z => decide (z.2 = lane)) = some w) :
    ∃ t, exec (.spareLaneInService lane) s = .next t ∧ t.eng.smp = { s.eng.smp with
      waking := s.eng.smp.waking.filter (fun z => decide (z ≠ w)) } ∧ s.Only [0, 8, 12, 15, 17] [] t := by
  have powered : s.eng.Only [0, 12, 15, 17] [] (s.eng.needOn (14 + w.1)) := .needOn _ _ (by decide) (by decide) (by decide) (by decide)
  have smp : (s.eng.needOn (14 + w.1)).smp = s.eng.smp := powered.parts 8 (by decide)
  refine ⟨s.withEng { s.eng.needOn (14 + w.1) with smp := { (s.eng.needOn (14 + w.1)).smp with
    waking := (s.eng.needOn (14 + w.1)).smp.waking.filter (fun z => decide (z ≠ w)) } }, ?_, ?_, rfl, rfl,
    (powered.weaken (by decide) (by decide)).trans (.setSmp _ _ (by decide))⟩
  · change timed s (atSpareLaneInService lane) = _
    rw [timed_settled s _ settled, atSpareLaneInService, live_up up, waking]
  · change { (s.eng.needOn (14 + w.1)).smp with waking := (s.eng.needOn (14 + w.1)).smp.waking.filter (fun z => decide (z ≠ w)) } = _
    rw [smp]

/-- The control half of a slot that has no rows yet is kept. -/
theorem rowControlJoin_keeps {c : RowCtl} (up : s.boot.absent = false) (step : (s.eng.inst i).step = some st) (at_ : st.slots[idx]? = some x)
    (held : s.eng.smpSlot (i * 16384 + idx) = some ss) (on : s.eng.smpOn = true) (none_ : ss.ctl = none) (pending : ss.st = 0)
    (area : tget s.eng.smp.area ((2 * i + st.num % 2) * 16384 + idx) = some c) (plain : (s.eng.param (s.eng.firstOf x.lslot)).grammarEn = false) :
    ∃ t, exec (.rowControlJoin i idx) s = .next t ∧ t.eng.smpSlot (i * 16384 + idx) = some { ss with ctl := some c } ∧
      (∀ q, q ≠ i * 16384 + idx → t.eng.smpSlot q = s.eng.smpSlot q) ∧ s.Only [8] [] t := by
  have free : ∀ e : Eng, (e.param (e.firstOf x.lslot)).grammarEn = false → e.reqGrammar (e.firstOf x.lslot) = none := fun e off => by
    unfold Eng.reqGrammar
    exact if_neg (by rw [off]; exact Bool.false_ne_true)
  have key : s.eng.areaKey i idx = (2 * i + st.num % 2) * 16384 + idx := by
    unfold Eng.areaKey
    rw [step]
  have ran : exec (.rowControlJoin i idx) s = .next (s.withEng (s.eng.modSmp (smpKey i idx) (fun w => { w with ctl := some c }))) := by
    refine timed_sameTick ?_ rfl
    rw [atRowControlJoin, live_up up, Eng.stepSlot_of step at_]
    refine congrArg (fun y => Host.Outcome.next (s.withEng y)) ?_
    dsimp only
    rw [show s.eng.smpSlot (smpKey i idx) = some ss from held, key, area]
    dsimp only
    have kept : (s.eng.modSmp (smpKey i idx) (fun w => { w with ctl := some c })).reqGrammar
        ((s.eng.modSmp (smpKey i idx) (fun w => { w with ctl := some c })).firstOf x.lslot) = none := free _ plain
    rw [none_, pending, on, kept]
    rfl
  have slots := fun q => s.eng.smpSlot_modSmp (smpKey i idx) q (fun w => { w with ctl := some c })
  refine ⟨_, ran, (slots _).trans ((if_pos rfl).trans ?_), fun q other => (slots q).trans (if_neg other), rfl, rfl, .setSmp _ _ (by decide)⟩
  rw [show s.eng.smpSlot (smpKey i idx) = some ss from held]
  rfl

/-- What the loss of a slot leaves. -/
def State.loses (s t : State) (i idx : Nat) (st st' : Step) (x : Slot) (now : Nat) : Prop :=
  t.eng.now = now ∧ t.eng.smpSlot (i * 16384 + idx) = some { st := 3 } ∧ (∀ q, q ≠ i * 16384 + idx → t.eng.smpSlot q = s.eng.smpSlot q) ∧
    t.eng.inst i = { s.eng.inst i with
      carried := oinsert Slot.carriedLe { x with lostStep := st.num, lostIdx := idx } (s.eng.inst i).carried
      step := some { st' with slots := lmod st.slots idx (fun q => { q with done := true, lost := true }) } } ∧
    t.eng.fv F.SMP_LOST_COUNT = min (s.eng.fv F.SMP_LOST_COUNT + 1) (2 ^ 32 - 1) ∧ s.Only [0, 1, 4, 8, 10, 12, 17] [0x8050] t

/-- A slot whose data timer ends is lost. -/
theorem dataTimer_loses {T : Nat} (up : s.boot.absent = false) (settled : s.Settled) (step : (s.eng.inst i).step = some st)
    (at_ : st.slots[idx]? = some x) (held : s.eng.smpSlot (i * 16384 + idx) = some ss) (bare : (s.eng.inst i).comp = none) (open_ : x.done = false)
    (waits : ss.st = 1) (due : ss.due = some T) {m : Nat} (other : m ≠ idx) (mAt : st.slots[m]? = some y) (rowed : y.rowed = true)
    (going : y.done = false) (few : (tgetD s.eng.smp.slots (i * 16384 + m) {}).got y.rows < y.rows) :
    ∃ t, exec (.dataTimerExpiry i idx) s = .next t ∧ s.loses t i idx st st x (max s.eng.now T) := by
  have ran : exec (.dataTimerExpiry i idx) s = .next (s.withEng ((s.eng.advance T).loseSlot i idx 1)) := by
    change timed s (atDataTimerExpiry i idx) = _
    rw [timed_settled s _ settled, atDataTimerExpiry, live_up up, show s.eng.smpSlot (smpKey i idx) = some ss from held]
    dsimp only
    rw [waits, due]
    rfl
  have inst : ∀ j, (s.eng.advance T).inst j = s.eng.inst j := fun j => Eng.advance_inst _ _ _
  have smp : (s.eng.advance T).smp = s.eng.smp := Eng.advance_smp _ _
  have slots : ∀ q, (s.eng.advance T).smpSlot q = s.eng.smpSlot q := fun q => congrArg (fun w : Smp => tget w.slots q) smp
  obtain ⟨each, here, lost, only⟩ := Eng.loseSlot_loses (e := s.eng.advance T) (i := i) (idx := idx) (st := st) (x := x) (y := y) (ss := ss) (m := m) (cause := 1)
    (by rw [inst]; exact step) at_ ((slots _).trans held) (by rw [inst]; exact bare) open_ other mAt rowed going (by rw [smp]; exact few)
  have passed : s.eng.Only [0, 12, 17] [] (s.eng.advance T) := .advance _ _ (by decide) (by decide) (by decide)
  refine ⟨_, ran, (show _ = (s.eng.advance T).now from only.parts 0 (by decide)).trans (Eng.advance_now _ _), (each _).trans (if_pos rfl),
    fun q away => (each q).trans ((if_neg away).trans (slots q)), ?_, ?_, rfl, rfl, (passed.weaken (by decide) (by decide)).trans (only.weaken (by decide) (by decide))⟩
  · refine here.trans ?_
    rw [inst]
    rfl
  · exact lost.trans (congrArg (fun n => min (n + 1) (2 ^ 32 - 1)) (passed.fv F.SMP_LOST_COUNT (by decide) (by decide) (by decide)))

/-! ### What the step timer finds -/

theorem drawsFor_congr {e e' : Eng} (rsu : e'.rsu = e.rsu) (k depth : Nat) (sibs : List Nat) : drawsFor e' k depth sibs = drawsFor e k depth sibs := by
  induction sibs with
  | nil => rfl
  | cons a l ih => simp only [drawsFor, ih, Eng.drawFor, rsu]

/-- What the step timer finds depends on the Sampler's slots, the Ledger's records, the grammars and the draws alone. -/
theorem Eng.stepTimerHits_congr {e e' : Eng} (smp : e'.smp = e.smp) (led : e'.led = e.led) (siv : e'.siv = e.siv) (rsu : e'.rsu = e.rsu)
    (ras : e'.ras = e.ras) (on : e'.fb F.SIV_CTL_EN = e.fb F.SIV_CTL_EN) (i : Nat) : e'.stepTimerHits i = e.stepTimerHits i := by
  have first : ∀ n, e'.firstOf n = e.firstOf n := fun n => congrArg (fun w : Led => match tget w.recs n with
    | some r => rqSlot r.rqid
    | none => n) led
  have drawers : ∀ x n, e'.drawers x n = e.drawers x n := fun x n => by
    simp only [Eng.drawers, first, Eng.sibs_congr (congrArg Led.recs led), Eng.rc, led]
  have controls : ∀ n, e'.controls n = e.controls n := fun n => congrArg (fun w : Led => ({ led := w } : Eng).controls n) led
  have grammar : ∀ n, e'.reqGrammar n = e.reqGrammar n := fun n =>
    congrArg₂ (fun (w : Led) (z : Siv) => ({ led := w, siv := z } : Eng).reqGrammar n) led siv
  have empty : ∀ z r, e'.maskEmpty z r = e.maskEmpty z r := fun z r => by simp only [Eng.maskEmpty, first, grammar]
  have serves : e'.sieveOn = e.sieveOn := by simp only [Eng.sieveOn, Eng.unitHalted, Eng.cap_, on, ras, siv]
  have counts : ∀ k j r, e'.rowCounts k j r = e.rowCounts k j r := fun k j r => congrArg (fun w : Smp => ({ smp := w } : Eng).rowCounts k j r) smp
  have waits : ∀ k j z c r, e'.drawWaits k j z c r = e.drawWaits k j z c r := fun k j z c r => by
    simp only [Eng.drawWaits, Eng.maskReady, Eng.countWaits, first, drawers, controls, grammar, empty, serves, counts, drawsFor_congr rsu]
  funext p
  unfold Eng.stepTimerHits
  rw [smp]
  dsimp only
  simp only [waits]

/-- A step whose timer has ended. -/
def Step.untimed (st : Step) : Step := { st with timer := none }

/-- The slot that the step timer finds without its rows is lost. -/
theorem stepTimer_loses {T : Nat} (up : s.boot.absent = false) (settled : s.Settled) (step : (s.eng.inst i).step = some st)
    (at_ : st.slots[idx]? = some x) (held : s.eng.smpSlot (i * 16384 + idx) = some ss) (bare : (s.eng.inst i).comp = none) (open_ : x.done = false)
    (due : st.timer = some T) (hits : ((List.range st.slots.length).zip st.slots).filter (s.eng.stepTimerHits i) = [(idx, x)])
    {m : Nat} (other : m ≠ idx) (mAt : st.slots[m]? = some y) (rowed : y.rowed = true)
    (going : y.done = false) (few : (tgetD s.eng.smp.slots (i * 16384 + m) {}).got y.rows < y.rows) :
    ∃ t, exec (.stepTimerExpiry i) s = .next t ∧ s.loses t i idx st st.untimed x (max s.eng.now T) := by
  let a := s.eng.advance T
  let b := a.modInst i (fun x => { x with step := x.step.map (fun y => { y with timer := none }) })
  have passed : s.eng.Only [0, 12, 17] [] a := .advance _ _ (by decide) (by decide) (by decide)
  have smp : b.smp = s.eng.smp := Eng.advance_smp _ _
  have found : b.stepTimerHits i = s.eng.stepTimerHits i :=
    Eng.stepTimerHits_congr smp (Eng.advance_led _ _) (Eng.advance_siv _ _) (Eng.advance_rsu _ _) (Eng.advance_ras _ _)
      (Eng.advance_fb _ T F.SIV_CTL_EN 0 (by decide) (by decide)) i
  have ran : exec (.stepTimerExpiry i) s = .next (s.withEng (b.loseSlot i idx 2)) := by
    change timed s (atStepTimerExpiry i) = _
    rw [timed_settled s _ settled, atStepTimerExpiry, live_up up, step]
    dsimp only
    rw [due]
    dsimp only
    have alone : ((List.range st.slots.length).zip st.slots).filter (b.stepTimerHits i) = [(idx, x)] :=
      (congrArg (fun f => ((List.range st.slots.length).zip st.slots).filter f) found).trans hits
    exact congrArg (fun l : List (Nat × Slot) => Host.Outcome.next (s.withEng (l.foldl (fun e p => e.loseSlot i p.1 2) b))) alone
  have inst : b.inst i = { s.eng.inst i with step := some st.untimed } := by
    refine (Eng.inst_modInst a i i _).trans ((if_pos rfl).trans ?_)
    rw [show a.inst i = s.eng.inst i from Eng.advance_inst _ _ _, step]
    rfl
  have only1 : s.eng.Only [0, 4, 12, 17] [] b := (passed.weaken (by decide) (by decide)).trans (.setCmp a _ (by decide))
  have now : b.now = max s.eng.now T := Eng.advance_now _ _
  have slots : ∀ q, b.smpSlot q = s.eng.smpSlot q := fun q => congrArg (fun w : Smp => tget w.slots q) smp
  clear_value b
  obtain ⟨each, here, lost, only⟩ := Eng.loseSlot_loses (e := b) (i := i) (idx := idx) (st := st.untimed) (x := x) (y := y) (ss := ss) (m := m) (cause := 2)
    (by rw [inst]) at_ ((slots _).trans held) (by rw [inst]; exact bare) open_ other mAt rowed going (by rw [smp]; exact few)
  refine ⟨_, ran, (show _ = b.now from only.parts 0 (by decide)).trans now, (each _).trans (if_pos rfl),
    fun q away => (each q).trans ((if_neg away).trans (slots q)), ?_, ?_, rfl, rfl, (only1.weaken (by decide) (by decide)).trans (only.weaken (by decide) (by decide))⟩
  · refine here.trans ?_
    rw [inst]
    rfl
  · exact lost.trans (congrArg (fun n => min (n + 1) (2 ^ 32 - 1)) (only1.fv F.SMP_LOST_COUNT (by decide) (by decide) (by decide)))

end Rows

end Sys2Proof.Machine
end

section
/-!
The commands that accept and sample rows (O45).
-/
namespace Sys2Proof.Machine

section Rows
variable {e : Eng} {i idx j len fmt lane : Nat} {s : State} {st : Step} {x y : Slot} {ss : SmpSlot} {tag : DWord} {payload : List (BitVec 8)}

theorem Eng.modSmp_act (e : Eng) (k : Nat) (f : SmpSlot → SmpSlot) : (e.modSmp k f).act = e.act := rfl

theorem Eng.modSmp_now (e : Eng) (k : Nat) (f : SmpSlot → SmpSlot) : (e.modSmp k f).now = e.now := rfl

/-- A row that has come to a lane. -/
def Row.come (fmt len lane : Nat) (payload : List (BitVec 8)) : Row := { fmt, len, data := payload, lane, gang := gangSize fmt len }

/-- A slot with a row that waits for its control. -/
def SmpSlot.joining (ss : SmpSlot) (j : Nat) (r : Row) (due : Nat) : SmpSlot := { ss with st := 1, due := some due, rows := tput ss.rows j r }

theorem Eng.acceptRow_joins {m : Nat} (step : (e.inst i).step = some st)
    (held : e.smpSlot (smpKey i idx) = some ss) (fresh : ss.st = 0) (none_ : ss.ctl = none) (other : m ≠ idx)
    (mAt : st.slots[m]? = some y) (rowed : y.rowed = true) (going : y.done = false)
    (few : (tgetD e.smp.slots (i * 16384 + m) {}).got y.rows < y.rows) :
    (∀ q, (e.acceptRow i idx j fmt len lane payload x).smpSlot q = if q = smpKey i idx then
        some (ss.joining j (.come fmt len lane payload) ((e.acceptRow i idx j fmt len lane payload x).now + e.joinTimeout)) else e.smpSlot q) ∧
      e.Only [0, 8, 12, 15, 17] [0x8054] (e.acceptRow i idx j fmt len lane payload x) := by
  unfold Eng.acceptRow
  extract_lets k e1 e2 e3 e4 r e5 w e6
  have only4 : e.Only [0, 12, 15, 17] [0x8054] e4 := by
    have worked : e.Only [0, 12, 15, 17] [0x8054] e1 := .setDbg e _ (by decide)
    have woken : e1.Only [0, 12, 15, 17] [0x8054] e2 := .foldl _ _ (fun z n _ => by
      split
      · exact .needOn _ _ (by decide) (by decide) (by decide) (by decide)
      · exact .refl z) e1
    have counted : e2.Only [0, 12, 15, 17] [0x8054] e3 := (Eng.Only.count e2 0x1008 _ none none (by decide)).trans (.count _ 0x1007 _ _ _ (by decide))
    exact (worked.trans woken).trans (counted.trans (.bump e3 F.SMP_NONFINITE_COUNT _ 0 (by decide) (by decide)))
  clear_value e4
  have smp4 : e4.smp = e.smp := only4.parts 8 (by decide)
  have slots4 : ∀ q, e4.smpSlot q = e.smpSlot q := fun q => congrArg (fun z : Smp => tget z.slots q) smp4
  have slots5 : ∀ q, e5.smpSlot q = if q = smpKey i idx then some { ss with rows := tput ss.rows j r } else e.smpSlot q := fun q => by
    refine (e4.smpSlot_modSmp k q _).trans ?_
    rw [slots4, slots4, show e.smpSlot k = some ss from held]
    rfl
  have found : w = { ss with rows := tput ss.rows j r } := by
    have here : tget e5.smp.slots k = some { ss with rows := tput ss.rows j r } := (slots5 k).trans (if_pos rfl)
    unfold w tgetD
    rw [here]
    rfl
  have wSt : w.st = 0 := by rw [found]; exact fresh
  have wCtl : w.ctl = none := by rw [found]; exact none_
  have joinT : e5.joinTimeout = e.joinTimeout := by
    have acts : e4.act = e.act ∧ e4.cap = e.cap ∧ e4.pend = e.pend ∧ e4.held = e.held := only4.parts 18 (by decide)
    have act : e5.act = e.act := (e4.modSmp_act k _).trans acts.1
    unfold Eng.joinTimeout Eng.av
    rw [act]
  have sixth : e6 = e5.modSmp k (fun s => { s with st := 1, due := some (e5.now + e5.joinTimeout) }) := by
    unfold e6
    rw [wSt, wCtl]
    rfl
  have now6 : e6.now = e5.now := by rw [sixth, Eng.modSmp_now]
  have slots6 : ∀ q, e6.smpSlot q = if q = smpKey i idx then some (ss.joining j r (e6.now + e.joinTimeout)) else e.smpSlot q := fun q => by
    rw [now6, sixth]
    refine (e5.smpSlot_modSmp k q _).trans ?_
    rw [slots5, slots5, if_pos rfl, joinT]
    exact ite_congr rfl (fun _ => rfl) (fun away => if_neg away)
  have only6 : e.Only [0, 8, 12, 15, 17] [0x8054] e6 := by
    rw [sixth]
    exact (only4.weaken (by decide) (by decide)).trans ((Eng.Only.setSmp e4 _ (by decide)).trans (.setSmp e5 _ (by decide)))
  clear_value e6
  have cmp6 : e6.cmp = e.cmp := only6.parts 4 (by decide)
  have step6 : (e6.inst i).step = some st := (congrArg (fun z : Cmp => (tgetD z.insts i {}).step) cmp6).trans step
  have few6 : (tgetD e6.smp.slots (i * 16384 + m) {}).got y.rows < y.rows := by
    have apart : i * 16384 + m ≠ smpKey i idx := fun same => other (Nat.add_left_cancel same)
    have same : tget e6.smp.slots (i * 16384 + m) = tget e.smp.slots (i * 16384 + m) := (slots6 _).trans (if_neg apart)
    unfold tgetD
    rw [same]
    exact few
  rw [Eng.lastRow_of step6 mAt rowed going few6]
  exact ⟨slots6, only6⟩

/-- A row that comes in form to a slot without its control is kept, and the data timer starts. -/
theorem logitRow_accepted (up : s.boot.absent = false) (settled : s.Settled) (step : (s.eng.inst i).step = some st)
    (at_ : st.slots[idx]? = some x) (held : s.eng.smpSlot (i * 16384 + idx) = some ss) (on : s.eng.smpOn = true)
    (named : tag.toNat / 2 ^ 41 % 16 = i) (placed : tag.toNat / 2 ^ 16 % 2 ^ 14 = idx) (row : tag.toNat / 2 ^ 30 % 2 ^ 7 = j)
    (epoch : tag.toNat / 2 ^ 37 % 16 = st.epoch) (number : tag.toNat % 2 ^ 16 = st.num % 65536) (form : fmt ≤ 4)
    (active : (s.eng.inst i).active = true) (lead : (s.eng.inst i).lead = true) (vocab : len = (s.eng.instModel i).vocab)
    (fresh : ss.st = 0) (none_ : ss.ctl = none) (free : tget ss.rows j = none) (room : s.eng.joinUsed < 128) (gang : s.eng.gangFor fmt len = some lane)
    {m : Nat} (other : m ≠ idx) (mAt : st.slots[m]? = some y) (rowed : y.rowed = true)
    (going : y.done = false) (few : (tgetD s.eng.smp.slots (i * 16384 + m) {}).got y.rows < y.rows) :
    ∃ t, exec (.logitRow tag len fmt payload) s = .next t ∧ (∀ q, q ≠ i * 16384 + idx → t.eng.smpSlot q = s.eng.smpSlot q) ∧
      t.eng.smpSlot (i * 16384 + idx) = some (ss.joining j (.come fmt len lane payload) (t.eng.now + s.eng.joinTimeout)) ∧
      s.Only [0, 8, 12, 15, 17] [0x8054] t := by
  have ran : exec (.logitRow tag len fmt payload) s = .next (s.withEng (s.eng.acceptRow i idx j fmt len lane payload x)) := by
    change timed s (atLogitRow tag len fmt payload) = _
    rw [timed_settled s _ settled, atLogitRow, live_up up]
    refine congrArg (fun y => Host.Outcome.next (s.withEng y)) ?_
    have inst : bitsOf tag.toNat 44 41 = i := named
    have slot : bitsOf tag.toNat 29 16 = idx := placed
    have line : bitsOf tag.toNat 36 30 = j := row
    have same : bitsOf tag.toNat 40 37 = st.epoch := epoch
    have num : bitsOf tag.toNat 15 0 = st.num % 65536 := by
      unfold bitsOf
      rw [Nat.pow_zero, Nat.div_one]
      exact number
    dsimp only
    rw [inst, slot, line, on, active, lead, step]
    refine (if_neg (by decide)).trans ((if_neg (by
      rintro (bad | bad | bad)
      · omega
      · exact absurd bad (by decide)
      · exact bad vocab)).trans ?_)
    dsimp only
    refine (if_neg (fun differ => differ same)).trans ?_
    rw [at_, show s.eng.smpSlot (smpKey i idx) = some ss from held]
    dsimp only
    rw [none_, free, gang]
    refine (if_neg (by simp [num, fresh])).trans ((if_neg (fun full => Nat.not_le.mpr room full.2)).trans rfl)
  obtain ⟨slots, only⟩ := Eng.acceptRow_joins (j := j) (fmt := fmt) (len := len) (lane := lane) (payload := payload) (x := x)
    step held fresh none_ other mAt rowed going few
  exact ⟨_, ran, fun q away => (slots q).trans (if_neg away), (slots _).trans (if_pos rfl), .withEng only⟩

/-! ### Rows are sampled -/

/-- A row whose draws are made. -/
def Row.sampled (r : Row) (o : RowOut) : Row := { r with res := some o, data := [] }

/-- A slot with a row whose draws are made. -/
def SmpSlot.sampled (ss : SmpSlot) (j : Nat) (r : Row) (o : RowOut) : SmpSlot := { ss with rows := tput ss.rows j (r.sampled o) }

theorem tmod_of {α : Type} {t : Tab α} {k : Nat} {v : α} (at_ : tget t k = some v) (f : α → α) : tmod t k f = tput t k (f v) := by
  unfold tmod
  rw [at_]

theorem Eng.reqGrammar_free {first : Nat} (free : (e.param first).grammarEn = false) : e.reqGrammar first = none :=
  if_neg (by rw [free]; exact Bool.false_ne_true)

theorem Eng.drawers_one (one : x.kind = 1) (n : Nat) : e.drawers x n = [(x.sib, x.lslot)] :=
  if_neg (fun both => absurd (one.symm.trans both.1) (by decide))

theorem Eng.nodesOf_one (one : x.kind = 1) (i : Nat) : e.nodesOf i x = [] :=
  if_pos (by rw [one]; decide)

/-- The results of a row are put in its place, and its lanes are used. -/
def Eng.putRow (e : Eng) (k j : Nat) (r : Row) (o : RowOut) : Eng :=
  let e := (e.modSmp k (fun s => { s with rows := tmod s.rows j (fun r => { r with res := some o, data := [] }) })).countFill
  (e.rowLanes r).foldl (fun e p => e.wake (14 + p)) e

theorem Eng.putRow_puts {k : Nat} {rw : Row} (held : e.smpSlot k = some ss) (row : tget ss.rows j = some rw) (o : RowOut) :
    (∀ q, (e.putRow k j rw o).smpSlot q = if q = k then some (ss.sampled j rw o) else e.smpSlot q) ∧ e.Only [8, 15] [] (e.putRow k j rw o) := by
  unfold Eng.putRow
  extract_lets a
  obtain ⟨counts, filled⟩ := (e.modSmp k (fun s => { s with rows := tmod s.rows j (fun r => { r with res := some o, data := [] }) })).countFill_counts
  have slots : ∀ q, a.smpSlot q = if q = k then some (ss.sampled j rw o) else e.smpSlot q := fun q => by
    unfold a
    rw [filled]
    refine (e.smpSlot_modSmp k q _).trans ?_
    rw [held, Option.map_some, tmod_of row]
    rfl
  have only : e.Only [8, 15] [] a := by
    unfold a
    rw [filled]
    exact (Eng.Only.setSmp e _ (by decide)).trans (.setSmp _ _ (by decide))
  clear_value a
  have woken : a.Only [15] [] ((a.rowLanes rw).foldl (fun e p => e.wake (14 + p)) a) := .foldl _ _ (fun z _ _ => .wake z _ (by decide)) a
  have smp : ((a.rowLanes rw).foldl (fun e p => e.wake (14 + p)) a).smp = a.smp := woken.parts 8 (by decide)
  exact ⟨fun q => (congrArg (fun z : Smp => tget z.slots q) smp).trans (slots q), only.trans (woken.weaken (by decide) (by decide))⟩

/-- A row of a DECODE slot without grammar, at temperature 0, is sampled. -/
theorem Eng.sampleRow_of {c : RowCtl} {rw : Row} (held : e.smpSlot (smpKey i idx) = some ss) (row : tget ss.rows j = some rw) (one : x.kind = 1)
    (free : (e.param (e.firstOf x.lslot)).grammarEn = false) (cold : f32Pos (e.param (e.firstOf x.lslot)).temperature = false) :
    ∃ n, e.sampleRow i idx j x c rw = ((e.putRow (smpKey i idx) j rw (rowOut (e.controls (e.firstOf x.lslot))
      (e.rowSet x rw ((e.rowCounts (smpKey i idx) j rw).getD []) (fun _ => true)) [0])).bump F.SMP_ROWS_COUNT).bump F.SMP_REFINE_COUNT n := by
  unfold Eng.sampleRow
  rw [Eng.drawers_one one]
  extract_lets k first ct sibs nd depth put us mask a
  have noGrammar : e.reqGrammar first = none := Eng.reqGrammar_free free
  have full : e.maskEmpty x rw = false := by
    unfold Eng.maskEmpty
    rw [show e.reqGrammar (e.firstOf x.lslot) = none from noGrammar]
  have draws : us = some [0] := if_neg (by rw [show f32Pos ct.temp = false from cold]; exact Bool.false_ne_true)
  have open_ : mask = fun _ => true := if_neg (by rw [noGrammar]; exact Bool.false_ne_true)
  have set : a = e.rowSet x rw ((e.rowCounts (smpKey i idx) j rw).getD []) (fun _ => true) := congrArg (e.rowSet x rw _) open_
  rw [full, draws]
  dsimp only
  rw [← set]
  have only := (Eng.putRow_puts held row (rowOut ct a [0])).2
  let b := ((e.putRow k j rw (rowOut ct a [0])).bump F.SMP_ROWS_COUNT).bump F.SMP_REFINE_COUNT (rowPasses ct a [0] - 3)
  have led : b.led = e.led := only.parts 2 (by decide)
  have still : b.reqGrammar first = none := Eng.reqGrammar_free ((congrArg (fun w : Led => (subOf ((tget w.params first).getD 0)).grammarEn) led).trans free)
  refine ⟨rowPasses ct a [0] - 3, (if_neg Bool.false_ne_true).trans (?_ : _ = b)⟩
  change (match b.reqGrammar first, rw.cls with
    | some _, some cl => (b.bump F.SIV_ROWS_COUNT).usePages (b.param first).grammarId cl
    | _, _ => b) = b
  rw [still]

theorem rowSampled_samples {c : RowCtl} {rw : Row} (up : s.boot.absent = false) (step : (s.eng.inst i).step = some st)
    (at_ : st.slots[idx]? = some x) (held : s.eng.smpSlot (i * 16384 + idx) = some ss) (on : s.eng.smpOn = true) (ctl : ss.ctl = some c)
    (going : ss.st = 2) (one : x.kind = 1) (free : (s.eng.param (s.eng.firstOf x.lslot)).grammarEn = false) (row : tget ss.rows j = some rw)
    (fresh : rw.res = none) (cold : f32Pos (s.eng.param (s.eng.firstOf x.lslot)).temperature = false)
    (counted : s.eng.countWaits (i * 16384 + idx) j x rw = false) :
    ∃ t, exec (.rowSampled i idx j) s = .next t ∧
      t.eng.smpSlot (i * 16384 + idx) = some (ss.sampled j rw (rowOut (s.eng.controls (s.eng.firstOf x.lslot))
        (s.eng.rowSet x rw ((s.eng.rowCounts (i * 16384 + idx) j rw).getD []) (fun _ => true)) [0])) ∧
      (∀ q, q ≠ i * 16384 + idx → t.eng.smpSlot q = s.eng.smpSlot q) ∧
      t.eng.fv F.SMP_ROWS_COUNT = min (s.eng.fv F.SMP_ROWS_COUNT + 1) (2 ^ 32 - 1) ∧ s.Only [8, 15] [0x8040, 0x8058] t := by
  obtain ⟨n, sampled⟩ := Eng.sampleRow_of (j := j) (c := c) (i := i) held row one free cold
  have ready : s.eng.maskReady x rw = true := by
    unfold Eng.maskReady
    rw [Eng.reqGrammar_free free]
    rfl
  have ran : exec (.rowSampled i idx j) s = .next (s.withEng (s.eng.sampleRow i idx j x c rw)) := by
    change execRowSampled i idx j s = _
    rw [execRowSampled, live_up up]
    refine congrArg (fun y => Host.Outcome.next (s.withEng y)) ?_
    rw [Eng.stepSlot_of step at_, show s.eng.smpSlot (smpKey i idx) = some ss from held]
    dsimp only
    rw [ctl, row]
    have waits : s.eng.countWaits (smpKey i idx) j x rw = false := counted
    exact if_pos ⟨going, fresh, on, ready, by rw [waits]; rfl⟩
  rw [sampled] at ran
  obtain ⟨slots, only⟩ := Eng.putRow_puts held row (rowOut (s.eng.controls (s.eng.firstOf x.lslot))
    (s.eng.rowSet x rw ((s.eng.rowCounts (smpKey i idx) j rw).getD []) (fun _ => true)) [0])
  have rows : ∀ b : Eng, s.eng.Only [8, 15] [] b → (((b.bump F.SMP_ROWS_COUNT).bump F.SMP_REFINE_COUNT n).fv F.SMP_ROWS_COUNT =
      min (s.eng.fv F.SMP_ROWS_COUNT + 1) (2 ^ 32 - 1) ∧
      s.eng.Only [8, 15] [0x8040, 0x8058] ((b.bump F.SMP_ROWS_COUNT).bump F.SMP_REFINE_COUNT n)) := fun b puts => by
    refine ⟨?_, (puts.weaken (by decide) (by decide)).trans
      ((Eng.Only.bump b F.SMP_ROWS_COUNT 1 0 (by decide) (by decide)).trans (.bump _ F.SMP_REFINE_COUNT n 0 (by decide) (by decide)))⟩
    rw [Eng.fv_bump_ne _ _ _ _ (by decide), Eng.fv_bump_same _ _ _ _ rfl rfl]
    exact congrArg (fun n => min (n + 1) (2 ^ 32 - 1)) (puts.fv F.SMP_ROWS_COUNT (by decide) (by decide) (by decide))
  obtain ⟨each, all⟩ := rows _ only
  exact ⟨_, ran, (slots _).trans (if_pos rfl), fun q away => (slots q).trans (if_neg away), each, .withEng all⟩

end Rows

end Sys2Proof.Machine
end

section
/-!
A slot commits (O45).
-/
namespace Sys2Proof.Machine

section Commit
variable {e : Eng} {i idx k : Nat} {s : State} {st : Step} {x y : Slot} {ss : SmpSlot} {r : LRec} {d : Drawn} {rw : Row} {o : RowOut} {c : RowCtl}

/-! ### What counting leaves of a ring's configuration -/

theorem Eng.count_zero (e : Eng) (src : Nat) (p n : Option Nat) : e.count src 0 p n = e := by
  unfold Eng.count Eng.countAmt
  rw [if_pos (show (e.cntStopped e.now || decide (0 = 0)) = true by simp), ite_self]

theorem tgetD_alias {α β : Type} [DecidableEq α] (f : α → β) (t : Tab α) (j k : Nat) {v d d' : α} (word : f v = f (tgetD t k d)) (rst : f d = f d') :
    f (tgetD (tsetD t k v d) j d') = f (tgetD t j d') := by
  by_cases same : j = k
  · subst same
    have old : f (tgetD t j d) = f (tgetD t j d') := by
      unfold tgetD
      cases tget t j with
      | none => exact rst
      | some w => rfl
    unfold tsetD
    split
    · next reset =>
      have gone : tgetD (tdel t j) j d' = d' := congrArg (·.getD d') (tget_tdel_same t j)
      rw [gone, ← old, ← word, reset, rst]
    · have put : tgetD (tput t j v) j d' = v := congrArg (·.getD d') (tget_tput_same t j v)
      rw [put, ← old, word]
  · exact congrArg (fun z : Option α => f (z.getD d')) (tget_tsetD_ne t v d same)

/-- A completion ring's number reads the same beside a register whose word keeps the bits that would name one, wherever the ring's own is. -/
theorem Eng.cqOf_poke (e : Eng) (f : Fld) (v sel n : Nat)
    (word : bitsOf (setBits (e.reg f.off sel) f.hi f.lo v).toNat 23 16 = bitsOf (e.reg f.off sel).toNat 23 16)
    (rst : bitsOf (rstWord f.off).toNat 23 16 = 0) : (e.poke f v sel).cqOf n = e.cqOf n :=
  tgetD_alias (fun w : Word => bitsOf w.toNat 23 16) e.regs (regKey 0x1054 n) (regKey f.off sel) word (rst.trans (show 0 = _ by decide))

/-- A full word put back as it was. -/
theorem setBits_whole (w : Word) : setBits w 31 0 (satN 32 (bitsOf w.toNat 31 0 + 0)) = w := by
  have whole : ∀ v : Word, bitsOf v.toNat 31 0 = v.toNat := fun v => by
    have small := v.isLt
    unfold bitsOf
    omega
  refine BitVec.eq_of_toNat_eq ?_
  have small := w.isLt
  rw [← whole (setBits _ _ _ _), bitsOf_setBits_same _ 31 0 _ (by decide), whole]
  unfold satN
  omega

theorem Eng.cqOf_bumpNone (e : Eng) (n : Nat) : (e.bump F.SMP_DRAFT_NODES_COUNT 0).cqOf n = e.cqOf n :=
  Eng.cqOf_poke e F.SMP_DRAFT_NODES_COUNT _ 0 n (congrArg (fun w : Word => bitsOf w.toNat 23 16) (setBits_whole _)) (by decide)

/-! ### A token is kept -/

/-- The walk over the rows of a slot that goes no further than its first one. -/
theorem walkFrom_one {w : WalkIn} (row : tget w.rows 0 = some rw) (res : rw.res = some o) (drawn : o.drawn w.which = some d) (free : w.g = none)
    (stop : w.stop ≠ some d.tok) (left : 1 < w.left) (bare : w.nodes = []) (n : Nat) : walkFrom w 0 { pda := none } (n + 1) = { out := [d] } := by
  have goes : endsSibling w d.tok 1 none = none := by
    unfold endsSibling
    rw [if_neg stop]
    simp [Nat.not_le.mpr left]
  simp [walkFrom, row, res, drawn, free, goes, bare]

/-- The engine with a token at the end of a sibling's history, within an open page. -/
def Eng.keepsToken (e : Eng) (l tok : Nat) : Eng := { e with led := { e.led with gent := tput e.led.gent l (tgetD e.led.gent l [] ++ [tok]) } }

theorem Eng.histPut_open {l : Nat} (open_ : (tgetD e.led.gent l []).length % 1020 ≠ 0) (tok : Nat) : e.histPut l tok = e.keepsToken l tok :=
  if_neg open_

theorem Eng.mirror_still (e : Eng) (off : e.mirrorOn = false) (l : Nat) (block : Bool) (words : Nat) : e.mirror l block words = e := by
  unfold Eng.mirror
  split
  · exact if_pos (by rw [off]; rfl)
  · rfl

/-- The completion record of one token. -/
def Eng.doneRec (e : Eng) (r : LRec) (d : Drawn) (num : Nat) : CmpRec :=
  { status := 0, logprob := decide ((e.param (rqSlot r.rqid)).nlogprob ≠ 0 ∧ r.newCount + 1 ≤ (e.param (rqSlot r.rqid)).maxNew), ntok := 1,
    toks := [d.tok], sib := r.sib, gen := r.gen, ring := r.ring, rqid := r.rqid, tag := r.userTag, stamp := e.now, step := num }

/-- The engine with the record of a sibling that has one token more, before it is reported. -/
def Eng.countsToken (e : Eng) (i : Nat) (st : Step) (x : Slot) (r : LRec) (d : Drawn) : Eng :=
  let z := ((e.keepsToken x.lslot d.tok).recUse x.lslot).modRc x.lslot (fun q => commitRec q st x { out := [d] } (r.pos + 1) (e.keepsToken x.lslot d.tok).now 0)
  let z := (z.count 0x1006 1 (some (rqPid r.rqid)) (some i)).modReq (rqSlot r.rqid) (fun a => { a with tokens := a.tokens + 1 })
  if (e.param (rqSlot r.rqid)).nlogprob = 0 then z else logprobPut z (e.param (rqSlot r.rqid)) r.sib r.newCount [d]

theorem Eng.Only.logprobPut {us offs : List Nat} (e : Eng) (p : SubDesc) (sib g : Nat) (d : Drawn) : e.Only us offs (logprobPut e p sib g [d]) :=
  .ite (fun _ => .emit e _) (fun _ => .refl e)

theorem Eng.cqOf_logprobPut (e : Eng) (p : SubDesc) (sib g : Nat) (d : Drawn) (n : Nat) : (logprobPut e p sib g [d]).cqOf n = e.cqOf n := by
  change (if g < p.maxNew then _ else e).cqOf n = _
  split <;> rfl

/-- What the record of a sibling's token leaves, before it is reported. -/
structure Eng.Counted (e : Eng) (st : Step) (x : Slot) (r : LRec) (d : Drawn) (z : Eng) : Prop where
  only : e.Only [2, 12, 15, 17] [] z
  cq : ∀ n, z.cqOf n = e.cqOf n
  recs : ∀ q, z.rc q = if q = x.lslot then some (commitRec r st x { out := [d] } (r.pos + 1) e.now 0) else e.rc q
  gent : tgetD z.led.gent x.lslot [] = tgetD e.led.gent x.lslot [] ++ [d.tok]
  params : z.led.params = e.led.params
  tokens : (tgetD z.kpr.reqs (rqSlot r.rqid) {}).tokens = (tgetD e.kpr.reqs (rqSlot r.rqid) {}).tokens + 1

theorem Eng.countsToken_counted (rc : e.rc x.lslot = some r) : e.Counted st x r d (e.countsToken i st x r d) := by
  unfold Eng.countsToken
  extract_lets z1 z2
  have only1 : e.Only [2, 12, 15, 17] [] z1 := (Eng.Only.setLed e _ (by decide)).trans
    ((Eng.Only.recUse _ _ (by decide) (by decide)).trans (.setLed _ _ (by decide)))
  have kept := (e.keepsToken x.lslot d.tok).recUse_modRc x.lslot
    (fun q => commitRec q st x { out := [d] } (r.pos + 1) (e.keepsToken x.lslot d.tok).now 0)
  have regs1 : z1.regs = e.regs := (congrArg Eng.regs kept :)
  have recs1 : z1.led.recs = tmod e.led.recs x.lslot (fun q => commitRec q st x { out := [d] } (r.pos + 1) e.now 0) := congrArg (fun z : Eng => z.led.recs) kept
  have gent1 : z1.led.gent = tput e.led.gent x.lslot (tgetD e.led.gent x.lslot [] ++ [d.tok]) := congrArg (fun z : Eng => z.led.gent) kept
  have params1 : z1.led.params = e.led.params := (congrArg (fun z : Eng => z.led.params) kept :)
  have kpr1 : z1.kpr = e.kpr := (congrArg Eng.kpr kept :)
  clear_value z1
  let z := z1.count 0x1006 1 (some (rqPid r.rqid)) (some i)
  have reports : z1.Reports z := z1.count_reports _ _ _ _
  have only2 : z1.Only [2, 12, 15, 17] [] z2 := (Eng.Only.count z1 0x1006 1 _ _ (by decide)).trans (.setKpr z _ (by decide))
  have cq2 : ∀ n, z2.cqOf n = e.cqOf n := fun n => ((Eng.LowKept.count z1 0 0x1006 1 _ _).cqOf n).trans (Eng.fv_congr regs1 _ _)
  have led2 : z2.led = z1.led := reports.led_eq
  have tokens2 : (tgetD z2.kpr.reqs (rqSlot r.rqid) {}).tokens = (tgetD e.kpr.reqs (rqSlot r.rqid) {}).tokens + 1 := by
    have kpr : z.kpr = e.kpr := reports.kpr_eq.trans kpr1
    have put : tgetD z2.kpr.reqs (rqSlot r.rqid) {} = { tgetD z.kpr.reqs (rqSlot r.rqid) {} with
      tokens := (tgetD z.kpr.reqs (rqSlot r.rqid) {}).tokens + 1 } := tgetD_tsetD_same _ _ _ _
    rw [put, kpr]
  clear_value z2
  have base : e.Counted st x r d z2 := by
    refine ⟨only1.trans only2, cq2, fun q => ?_, ?_, (congrArg Led.params led2).trans params1, tokens2⟩
    · unfold Eng.rc
      rw [led2, recs1, tget_tmod, show tget e.led.recs x.lslot = some r from rc]
      rfl
    · unfold tgetD
      rw [led2, gent1, tget_tput_same]
      rfl
  split
  · exact base
  · have emits : z2.Only [] [] (logprobPut z2 (e.param (rqSlot r.rqid)) r.sib r.newCount [d]) := .logprobPut _ _ _ _ _
    have led : (logprobPut z2 (e.param (rqSlot r.rqid)) r.sib r.newCount [d]).led = z2.led := emits.parts 2 (by decide)
    have kpr : (logprobPut z2 (e.param (rqSlot r.rqid)) r.sib r.newCount [d]).kpr = z2.kpr := emits.parts 12 (by decide)
    exact ⟨base.only.trans (emits.weaken (by decide) (by decide)), fun n => (z2.cqOf_logprobPut _ _ _ _ n).trans (base.cq n),
      fun q => (congrArg (fun w : Led => tget w.recs q) led).trans (base.recs q), (congrArg (fun w : Led => tgetD w.gent x.lslot []) led).trans base.gent, (congrArg Led.params led).trans base.params,
      (congrArg (fun w : Kpr => (tgetD w.reqs (rqSlot r.rqid) {}).tokens) kpr).trans base.tokens⟩

theorem Eng.settle_commits (rc : e.rc x.lslot = some r) (state : r.state = 5)
    (free : (e.param (rqSlot r.rqid)).grammarEn = false) (row : tget (tgetD e.smp.slots (smpKey i idx) {}).rows 0 = some rw)
    (res : rw.res = some o) (drawn : o.drawn 0 = some d) (goes : (e.param (rqSlot r.rqid)).stopEn = false ∨ (e.param (rqSlot r.rqid)).stopToken ≠ d.tok)
    (left : r.newCount + 2 ≤ r.maxNew) (time : r.deadlineLast = 0 ∨ e.now ≤ r.deadlineLast) (one : x.kind = 1)
    (hist : (tgetD e.led.gent x.lslot []).length % 1020 ≠ 0) (off : e.mirrorOn = false)
    (serves : ((e.countsToken i st x r d).report (e.doneRec r d st.num)).waitsHalted x.lslot = false) :
    e.settle i idx st x x.lslot 0 0 none = ({ out := [d] }, (e.countsToken i st x r d).report (e.doneRec r d st.num)) := by
  unfold Eng.settle
  rw [rc]
  dsimp -zeta only
  extract_lets at_ first p rows w toks n pos z1 z2 z3 z4 z5 z6 z7 base z8 siv z9 z10
  have live : r.live = true := by
    unfold LRec.live
    rw [state]
    rfl
  have walk : w = { out := [d] } := by
    refine walkFrom_one row res drawn (Eng.reqGrammar_free free) ?_ (Nat.lt_sub_of_add_lt (by omega)) (Eng.nodesOf_one one i) 65
    rcases goes with never | other
    · simp [p, first, never]
    · dsimp only
      split
      · exact fun same => other (Option.some.inj same)
      · exact (Option.some_ne_none _).symm
  refine (if_neg (by rw [live]; decide)).trans ((if_neg (by omega)).trans ((if_neg (by rw [show p.grammarEn = false from free]; exact Bool.false_ne_true)).trans
    ((if_neg (by omega)).trans ?_)))
  clear_value w
  subst walk
  have kept : z1 = e.keepsToken x.lslot d.tok := Eng.histPut_open hist d.tok
  have still : z3.mirrorOn = false := by
    have used : z1.Only [2, 15] [] z3 := (Eng.Only.recUse z1 _ (by decide) (by decide)).trans (.setLed _ _ (by decide))
    have histed : e.Only [2, 15] [] z1 := by
      rw [kept]
      exact .setLed e _ (by decide)
    exact ((histed.trans used).mirrorOn (by rw [show z3.raf = e.raf from (histed.trans used).parts 13 (by decide)])).trans off
  have alone : z4 = z3 := z3.mirror_still still x.lslot false n
  have place : pos = r.pos + 1 := if_neg (by rw [one]; decide)
  have counted : z7 = e.countsToken i st x r d := by
    unfold z7 z6 z5 Eng.countsToken
    rw [alone]
    unfold z3 z2
    rw [place, kept]
    rfl
  have now : z7.now = e.now := by
    rw [counted]
    exact (Eng.countsToken_counted rc).only.parts 0 (by decide)
  have record : base = { status := 0, sib := r.sib, gen := r.gen, ring := r.ring, rqid := r.rqid, tag := r.userTag, stamp := e.now, step := st.num } := by
    unfold base
    rw [now]
  have reported : z8 = (e.countsToken i st x r d).report (e.doneRec r d st.num) := by
    unfold z8
    rw [record, counted]
    rfl
  have done : z9 = (e.countsToken i st x r d).report (e.doneRec r d st.num) := (if_neg (by unfold siv; simp)).trans reported
  dsimp only
  rw [done, serves]
  rfl

/-- A committed token, of an engine that reports it. -/
structure Eng.Kept (e : Eng) (st : Step) (x : Slot) (r : LRec) (d : Drawn) (z : Eng) : Prop where
  only : e.Only [1, 2, 12, 15, 17] [] z
  recs : ∀ q, z.rc q = if q = x.lslot then some (commitRec r st x { out := [d] } (r.pos + 1) e.now 0) else e.rc q
  gent : tgetD z.led.gent x.lslot [] = tgetD e.led.gent x.lslot [] ++ [d.tok]
  params : z.led.params = e.led.params
  tokens : (tgetD z.kpr.reqs (rqSlot r.rqid) {}).tokens = (tgetD e.kpr.reqs (rqSlot r.rqid) {}).tokens + 1
  out : .completion (e.cqOf r.ring) (e.ring (e.cqOf r.ring)).tail (e.ringPhase (e.cqOf r.ring) (e.ring (e.cqOf r.ring)).tail) (e.doneRec r d st.num) ∈ z.out

theorem Eng.countsToken_reports (rc : e.rc x.lslot = some r) (off : e.mirrorOn = false) (held : e.hat.heldRecs = [])
    (open_ : e.blocked (e.cqOf r.ring) = false) (room : e.cmpFull (e.cqOf r.ring) = false) :
    e.Kept st x r d ((e.countsToken i st x r d).report (e.doneRec r d st.num)) := by
  obtain ⟨only, cq, recs, gent, params, tokens⟩ := Eng.countsToken_counted (i := i) (st := st) (d := d) rc
  generalize e.countsToken i st x r d = z at only cq recs gent params tokens
  have hat : z.hat = e.hat := only.parts 1 (by decide)
  have mirror : z.mirrorOn = false := (only.mirrorOn (by rw [show z.raf = e.raf from only.parts 13 (by decide)])).trans off
  have same : z.cqOf (e.doneRec r d st.num).ring = e.cqOf r.ring := cq r.ring
  have ring : ∀ c, z.ring c = e.ring c := fun c => congrArg (fun h : Hat => tgetD h.rings c {}) hat
  obtain ⟨takes, phase, none_⟩ := only.ringFree (c := e.cqOf r.ring) (ring _) (Nat.lt_trans (e.fv_lt F.HAT_RING_CFG_CQ r.ring) (by decide)) open_ room
  have answered := z.complete_answers (e.doneRec r d st.num) (by rw [same]; exact takes) (by rw [same, ring]; exact none_) (by rw [hat]; exact held)
  rw [z.report_complete _ mirror (by rw [hat]; exact held)]
  have out := answered.out
  rw [same, ring, phase] at out
  have led : (z.complete (e.doneRec r d st.num)).led = z.led := answered.only.parts 2 (by decide)
  have kpr : (z.complete (e.doneRec r d st.num)).kpr = z.kpr := answered.only.parts 12 (by decide)
  exact ⟨(only.weaken (by decide) (by decide)).trans (answered.only.weaken (by decide) (by decide)),
    fun q => (congrArg (fun w : Led => tget w.recs q) led).trans (recs q), (congrArg (fun w : Led => tgetD w.gent x.lslot []) led).trans gent,
    (congrArg Led.params led).trans params, (congrArg (fun w : Kpr => (tgetD w.reqs (rqSlot r.rqid) {}).tokens) kpr).trans tokens, out⟩

theorem Eng.waitsHalted_none {l : Nat} (halts : ∀ u, e.unitHalted u = false) (free : ∀ v, e.rc l = some v → (e.param (rqSlot v.rqid)).grammarEn = false) :
    e.waitsHalted l = false := by
  unfold Eng.waitsHalted
  split
  · rfl
  · next v here => simp [halts, free v here]

/-! ### A slot of one row commits -/

/-- What lets a slot of one row commit its token, beside the state of its row. -/
structure Eng.Commits (e : Eng) (i idx : Nat) (x : Slot) (r : LRec) (rw : Row) (o : RowOut) (d : Drawn) : Prop where
  rc : e.rc x.lslot = some r
  state : r.state = 5
  draft : r.draftV = false
  free : (e.param (rqSlot r.rqid)).grammarEn = false
  row : tget (tgetD e.smp.slots (smpKey i idx) {}).rows 0 = some rw
  res : rw.res = some o
  drawn : o.drawn 0 = some d
  goes : (e.param (rqSlot r.rqid)).stopEn = false ∨ (e.param (rqSlot r.rqid)).stopToken ≠ d.tok
  left : r.newCount + 2 ≤ r.maxNew
  time : r.deadlineLast = 0 ∨ e.now ≤ r.deadlineLast
  one : x.kind = 1
  hist : (tgetD e.led.gent x.lslot []).length % 1020 ≠ 0
  off : e.mirrorOn = false
  held : e.hat.heldRecs = []
  halts : ∀ u, e.unitHalted u = false
  open_ : e.blocked (e.cqOf r.ring) = false
  room : e.cmpFull (e.cqOf r.ring) = false

theorem Eng.settle_kept (hyp : e.Commits i idx x r rw o d) :
    ∃ z, e.settle i idx st x x.lslot 0 0 none = ({ out := [d] }, z) ∧ e.Kept st x r d z := by
  have kept : e.Kept st x r d ((e.countsToken i st x r d).report (e.doneRec r d st.num)) :=
    Eng.countsToken_reports hyp.rc hyp.off hyp.held hyp.open_ hyp.room
  refine ⟨_, Eng.settle_commits hyp.rc hyp.state hyp.free hyp.row hyp.res hyp.drawn hyp.goes hyp.left hyp.time hyp.one hyp.hist hyp.off ?_, kept⟩
  generalize (e.countsToken i st x r d).report (e.doneRec r d st.num) = z at kept
  have ras : z.ras = e.ras := kept.only.parts 16 (by decide)
  refine Eng.waitsHalted_none (fun u => (congrArg (fun w : Ras => (tgetD w.caps u {}).halted) ras).trans (hyp.halts u)) (fun v here => ?_)
  have same : commitRec r st x { out := [d] } (r.pos + 1) e.now 0 = v := Option.some.inj (((kept.recs x.lslot).trans (if_pos rfl)).symm.trans here)
  have rqid : v.rqid = r.rqid := same ▸ rfl
  rw [rqid]
  exact (congrArg (fun t => (subOf ((tget t (rqSlot r.rqid)).getD 0)).grammarEn) kept.params).trans hyp.free

/-- A count of no draft nodes. -/
def Eng.draftsNone (e : Eng) : Eng := e.bump F.SMP_DRAFT_NODES_COUNT 0

theorem Eng.draftsNone_only (e : Eng) : e.Only [] [] e.draftsNone := by
  refine ⟨fun u _ => ?_, fun off sel low _ _ _ => ?_, ⟨[], rfl⟩⟩
  · exact (Eng.Only.bump (us := []) e F.SMP_DRAFT_NODES_COUNT 0 0 (offs := [0x805C]) (by decide) (by decide)).parts u List.not_mem_nil
  · by_cases same : off = 0x805C ∧ sel = 0
    · obtain ⟨rfl, rfl⟩ := same
      exact (e.reg_putReg_same 0x805C 0 _).trans (setBits_whole _)
    · exact e.reg_putReg_ne 0x805C 0 _ (by decide) low (by omega)

theorem Eng.Commits.drafts (hyp : e.Commits i idx x r rw o d) : e.draftsNone.Commits i idx x r rw o d := by
  have cq : e.draftsNone.cqOf r.ring = e.cqOf r.ring := e.cqOf_bumpNone _
  have low : e.cqOf r.ring < 65536 := Nat.lt_trans (e.fv_lt F.HAT_RING_CFG_CQ r.ring) (by decide)
  obtain ⟨takes, -, none_⟩ := e.draftsNone_only.ringFree (c := e.cqOf r.ring) rfl low hyp.open_ hyp.room
  refine ⟨hyp.rc, hyp.state, hyp.draft, hyp.free, hyp.row, hyp.res, hyp.drawn, hyp.goes, hyp.left, hyp.time, hyp.one, hyp.hist,
    (e.draftsNone_only.mirrorOn rfl).trans hyp.off, hyp.held, hyp.halts, ?_, ?_⟩
  · rw [cq]
    have en : e.draftsNone.ringEn (e.cqOf r.ring) = true := (Bool.and_eq_true_iff.mp (Bool.and_eq_true_iff.mp takes).1).2
    unfold Eng.blocked
    rw [en, show e.draftsNone.ring (e.cqOf r.ring) = e.ring (e.cqOf r.ring) from rfl, none_]
    rfl
  · rw [cq, Eng.cmpFull_eq, takes]
    rfl

theorem Eng.firstOf_of {l : Nat} (rc : e.rc l = some r) : e.firstOf l = rqSlot r.rqid := by
  unfold Eng.firstOf
  rw [rc]

theorem Eng.commitOne_kept (hyp : e.Commits i idx x r rw o d) :
    ∃ z, e.commitOne i idx st x = ({ out := [d] }, 1, z.bump F.SMP_DRAFT_ACCEPTED_COUNT 0) ∧ e.draftsNone.Kept st x r d z := by
  obtain ⟨z, settled, kept⟩ := Eng.settle_kept (st := st) hyp.drafts
  refine ⟨z, ?_, kept⟩
  unfold Eng.commitOne
  extract_lets root nodes p e1 dr posted y a e2 e3
  have bare : root = none := by
    unfold root Eng.sibPda
    rw [Eng.firstOf_of hyp.rc, Eng.reqGrammar_free hyp.free]
    exact if_neg Bool.false_ne_true
  have none_ : nodes = 0 := if_neg (by rw [hyp.one]; decide)
  have first : e1 = e.draftsNone := by
    unfold e1
    rw [none_, Eng.count_zero]
    rfl
  have plain : dr = none := by
    unfold dr
    rw [first, show e.draftsNone.rc x.lslot = some r from hyp.rc]
    exact if_neg (by rw [hyp.draft]; exact Bool.false_ne_true)
  have walked : y = ({ out := [d] }, z) := by
    unfold y posted
    rw [first, bare, plain]
    exact settled
  clear_value dr y e1
  subst plain walked
  have counted : e2 = z.bump F.SMP_DRAFT_ACCEPTED_COUNT 0 := Eng.count_zero _ _ _ _
  change (({ out := [d] } : Walk), 1, e2) = _
  rw [counted]

theorem Eng.Commits.seen (hyp : e.Commits i idx x r rw o d) : e.noteSeen.Commits i idx x r rw o d := by
  rw [e.noteSeen_keeps]
  exact ⟨hyp.rc, hyp.state, hyp.draft, hyp.free, hyp.row, hyp.res, hyp.drawn, hyp.goes, hyp.left, hyp.time, hyp.one, hyp.hist, hyp.off, hyp.held,
    hyp.halts, hyp.open_, hyp.room⟩

/-- A step with a slot committed. -/
def Step.committing (st : Step) (idx : Nat) : Step := { st with slots := lmod st.slots idx (fun z => { z with done := true }) }

/-- What the commit of a slot leaves. -/
structure Eng.Committed (e : Eng) (i idx : Nat) (st : Step) (x : Slot) (r : LRec) (d : Drawn) (t : Eng) : Prop where
  slots : ∀ q, t.smpSlot q = if q = smpKey i idx then some { st := 4 } else e.smpSlot q
  inst : t.inst i = { e.inst i with step := some (st.committing idx) }
  recs : ∀ q, t.rc q = if q = x.lslot then some (commitRec r st x { out := [d] } (r.pos + 1) e.now 0) else e.rc q
  gent : tgetD t.led.gent x.lslot [] = tgetD e.led.gent x.lslot [] ++ [d.tok]
  tokens : (tgetD t.kpr.reqs (rqSlot r.rqid) {}).tokens = (tgetD e.kpr.reqs (rqSlot r.rqid) {}).tokens + 1
  out : .completion (e.cqOf r.ring) (e.ring (e.cqOf r.ring)).tail (e.ringPhase (e.cqOf r.ring) (e.ring (e.cqOf r.ring)).tail) (e.doneRec r d st.num) ∈ t.out
  stw : t.stw = e.noteSeen.stw
  only : e.Only [1, 2, 4, 5, 8, 10, 12, 15, 17] [0x805C, 0x8060] t

/-- The end of a commit: the slot is free of its rows and draws, and the step may be resolved. -/
theorem Eng.commitEnd_ends {m : Nat} (v : TraceRec) (held : e.smpSlot (smpKey i idx) = some ss)
    (step : (e.inst i).step = some st) (bare : (e.inst i).comp = none) (other : m ≠ idx) (mAt : st.slots[m]? = some y) (rowed : y.rowed = true)
    (going : y.done = false) :
    ∃ t, ((((((e.bump F.SMP_DRAFT_ACCEPTED_COUNT 0).trace v).modSmp (smpKey i idx) (fun _ => { st := 4 })).countFill.dropDraws
        (fun q => decide (q = smpKey i idx))).modStepSlot i idx (fun y => { y with done := true })).bindReady i).stepCheck i = t ∧
      (∀ q, t.smpSlot q = if q = smpKey i idx then some { st := 4 } else e.smpSlot q) ∧ t.inst i = { e.inst i with step := some (st.committing idx) } ∧
      e.Only [1, 4, 8, 10, 17] [0x8060] t := by
  let e4 := (e.bump F.SMP_DRAFT_ACCEPTED_COUNT 0).trace v
  have reports : (e.bump F.SMP_DRAFT_ACCEPTED_COUNT 0).Reports e4 := Eng.trace_reports _ v
  have only4 : e.Only [1, 4, 8, 10, 17] [0x8060] e4 := (Eng.Only.bump e F.SMP_DRAFT_ACCEPTED_COUNT 0 0 (by decide) (by decide)).trans
    (.of_reports reports (by decide) (by decide))
  have smp4 : e4.smp = e.smp := reports.smp_eq
  have cmp4 : e4.cmp = e.cmp := reports.cmp_eq
  change ∃ t, (((((e4.modSmp (smpKey i idx) (fun _ => { st := 4 })).countFill.dropDraws
        (fun q => decide (q = smpKey i idx))).modStepSlot i idx (fun y => { y with done := true })).bindReady i).stepCheck i = t ∧ _)
  clear_value e4
  obtain ⟨counts, filled⟩ := (e4.modSmp (smpKey i idx) (fun _ => { st := 4 })).countFill_counts
  rw [filled]
  let e5 := (e4.modSmp (smpKey i idx) (fun _ => { st := 4 })).withCounts counts
  let e6 := (e5.dropDraws (fun q => decide (q = smpKey i idx))).modStepSlot i idx (fun y => { y with done := true })
  have inst6 : e6.inst i = { e.inst i with step := some (st.committing idx) } := by
    refine (Eng.inst_modInst (e5.dropDraws _) i i _).trans ((if_pos rfl).trans ?_)
    have same : (e5.dropDraws (fun q => decide (q = smpKey i idx))).inst i = e.inst i := congrArg (fun w : Cmp => tgetD w.insts i {}) cmp4
    rw [same, step]
    rfl
  have slots6 : ∀ q, e6.smpSlot q = if q = smpKey i idx then some { st := 4 } else e.smpSlot q := fun q => by
    refine (e4.smpSlot_modSmp (smpKey i idx) q (fun _ => { st := 4 })).trans ?_
    have same : ∀ q, e4.smpSlot q = e.smpSlot q := fun q => congrArg (fun w : Smp => tget w.slots q) smp4
    rw [same, same, held]
    rfl
  have only6 : e4.Only [1, 4, 8, 10, 17] [0x8060] e6 := ((Eng.Only.setSmp e4 _ (by decide)).trans (.setSmp _ _ (by decide))).trans
    ((Eng.Only.setRsu e5 _ (by decide)).trans (.setCmp _ _ (by decide)))
  change ∃ t, (e6.bindReady i).stepCheck i = t ∧ _
  clear_value e6
  have step6 : (e6.inst i).step = some (st.committing idx) := by rw [inst6]
  rw [Eng.bindReady_idle (by rw [inst6]; exact bare), Eng.stepCheck_of (y := y) (m := m) step6 ((lmod_beside _ _ other).trans mAt) rowed going]
  exact ⟨e6, rfl, slots6, inst6, only4.trans only6⟩

theorem Eng.commitSlot_commits {m n : Nat} {toks parents : List Nat} (hyp : e.Commits i idx x r rw o d) (held : e.smpSlot (smpKey i idx) = some ss)
    (step : (e.inst i).step = some st) (bare : (e.inst i).comp = none) (other : m ≠ idx) (mAt : st.slots[m]? = some y) (rowed : y.rowed = true)
    (going : y.done = false) : e.Committed i idx st x r d (e.commitSlot i idx n toks parents st x c) := by
  obtain ⟨z, one, kept⟩ := Eng.commitOne_kept (st := st) hyp.seen
  have noted : e.Only [5] [] e.noteSeen := by
    rw [e.noteSeen_keeps]
    exact .setStw e _ (by decide)
  have passed : e.Only [5] [] e.noteSeen.draftsNone := noted.trans (e.noteSeen.draftsNone_only.weaken (by decide) (by decide))
  have all : e.Only [1, 2, 5, 12, 15, 17] [] z := (passed.weaken (by decide) (by decide)).trans (kept.only.weaken (by decide) (by decide))
  have smp : z.smp = e.smp := all.parts 8 (by decide)
  have cmp : z.cmp = e.cmp := all.parts 4 (by decide)
  have inst : z.inst i = e.inst i := congrArg (fun w : Cmp => tgetD w.insts i {}) cmp
  have slot : ∀ q, z.smpSlot q = e.smpSlot q := fun q => congrArg (fun w : Smp => tget w.slots q) smp
  have ended : ∃ v, e.commitSlot i idx n toks parents st x c = ((((((z.bump F.SMP_DRAFT_ACCEPTED_COUNT 0).trace v).modSmp (smpKey i idx)
      (fun _ => { st := 4 })).countFill.dropDraws (fun q => decide (q = smpKey i idx))).modStepSlot i idx (fun y => { y with done := true })).bindReady i).stepCheck i := by
    unfold Eng.commitSlot
    extract_lets k e1 e2 y' e3 e4 e5 e6
    have second : e2 = e1 := by
      unfold e2
      rw [show e1.rc x.lslot = some r from hyp.seen.rc]
      exact if_neg (by rw [hyp.draft]; exact Bool.false_ne_true)
    have walked : y' = ({ out := [d] }, 1, z.bump F.SMP_DRAFT_ACCEPTED_COUNT 0) := by
      refine (if_neg (by rw [hyp.one]; decide)).trans ?_
      rw [second]
      exact one
    clear_value y'
    subst walked
    exact ⟨_, rfl⟩
  obtain ⟨v, ended⟩ := ended
  obtain ⟨t, final, slots, here, only⟩ := z.commitEnd_ends v ((slot _).trans held) (by rw [inst]; exact step) (by rw [inst]; exact bare) other mAt rowed going
  rw [ended, final]
  have led : t.led = z.led := only.parts 2 (by decide)
  have kpr : t.kpr = z.kpr := only.parts 12 (by decide)
  have stw : t.stw = z.stw := only.parts 5 (by decide)
  have stw' : z.stw = e.noteSeen.draftsNone.stw := kept.only.parts 5 (by decide)
  have led' : e.noteSeen.draftsNone.led = e.led := passed.parts 2 (by decide)
  have kpr' : e.noteSeen.draftsNone.kpr = e.kpr := passed.parts 12 (by decide)
  have hat' : e.noteSeen.draftsNone.hat = e.hat := passed.parts 1 (by decide)
  have now' : e.noteSeen.draftsNone.now = e.now := passed.parts 0 (by decide)
  have cq : e.noteSeen.draftsNone.cqOf r.ring = e.cqOf r.ring := (e.noteSeen.cqOf_bumpNone _).trans (by rw [e.noteSeen_keeps]; rfl)
  have ring : ∀ q, e.noteSeen.draftsNone.ring q = e.ring q := fun q => congrArg (fun w : Hat => tgetD w.rings q {}) hat'
  have phase : ∀ n, e.noteSeen.draftsNone.ringPhase (e.cqOf r.ring) n = e.ringPhase (e.cqOf r.ring) n :=
    (passed.ringFree (c := e.cqOf r.ring) (ring _) (Nat.lt_trans (e.fv_lt F.HAT_RING_CFG_CQ r.ring) (by decide)) hyp.open_ hyp.room).2.1
  have done : e.noteSeen.draftsNone.doneRec r d st.num = e.doneRec r d st.num := by
    unfold Eng.doneRec Eng.param
    rw [led', now']
  obtain ⟨more, grown⟩ := only.out
  have sent := kept.out
  rw [cq, ring, phase, done] at sent
  refine ⟨fun q => (slots q).trans (by rw [slot]), here.trans (by rw [inst]), fun q => ?_, ?_, ?_, ?_, stw.trans stw', ?_⟩
  · have each := kept.recs q
    unfold Eng.rc at each ⊢
    rw [led, each, led', now']
  · rw [led, kept.gent, led']
  · rw [kpr, kept.tokens, kpr']
  · rw [grown]
    exact List.mem_append_right _ sent
  · exact (all.weaken (by decide) (by decide)).trans (only.weaken (by decide) (by decide))

end Commit

end Sys2Proof.Machine
end

section
/-!
The commit of a slot by its command, and the statement on rows and slots (O45).
-/
namespace Sys2Proof.Machine

section Settled
variable {i idx j : Nat} {s : State} {st : Step} {x y : Slot} {ss : SmpSlot} {r : LRec} {d : Drawn} {rw : Row} {o : RowOut} {c : RowCtl}

/-- The record of a DECODING sibling without drafts that has one token more. -/
theorem commitRec_one (state : r.state = 5) (draft : r.draftV = false) (now : Nat) :
    commitRec r st x { out := [d] } (r.pos + 1) now 0 = { r with
      newCount := r.newCount + 1, pos := r.pos + 1, lastToken := d.tok, lastStep := st.num
      firstStamp := if r.firstStamp = 0 then now else r.firstStamp, draftN := 0, copyN := 0, posted := 0, shared := false
      replay := 0 } := by
  cases r
  simp only at state draft
  subst state draft
  rfl

theorem SmpSlot.ready_one (row : tget ss.rows 0 = some rw) (res : rw.res = some o) (one : x.kind = 1) : ss.ready x.rows = true := by
  have single : x.rows = 1 := by
    unfold Slot.rows Slot.rowed
    rw [one]
    rfl
  unfold SmpSlot.ready tgetD
  rw [single, show List.range 1 = [0] from rfl, List.all_cons, row]
  change (rw.res.isSome && true) = true
  rw [res]
  rfl

/-- A DECODE slot whose row is sampled commits. -/
theorem slotCommit_commits {m n : Nat} {toks parents : List Nat} (up : s.boot.absent = false) (step : (s.eng.inst i).step = some st)
    (at_ : st.slots[idx]? = some x) (held : s.eng.smpSlot (smpKey i idx) = some ss) (on : s.eng.smpOn = true) (ctl : ss.ctl = some c)
    (going : ss.st = 2) (row : tget ss.rows 0 = some rw) (hyp : s.eng.Commits i idx x r rw o d) (bare : (s.eng.inst i).comp = none) (other : m ≠ idx)
    (mAt : st.slots[m]? = some y) (rowed : y.rowed = true) (waits : y.done = false) :
    ∃ t, exec (.slotCommit i idx n toks parents) s = .next (s.withEng t) ∧ s.eng.Committed i idx st x r d t := by
  refine ⟨s.eng.commitSlot i idx n toks parents st x c, ?_, Eng.commitSlot_commits hyp held step bare other mAt rowed waits⟩
  change execSlotCommit i idx n toks parents s = _
  rw [execSlotCommit, live_up up]
  refine congrArg (fun y => Host.Outcome.next (s.withEng y)) ?_
  rw [Eng.stepSlot_of step at_, held]
  dsimp only
  rw [ctl]
  have free : s.eng.reqGrammar (s.eng.firstOf x.lslot) = none := Eng.reqGrammar_free (by rw [Eng.firstOf_of hyp.rc]; exact hyp.free)
  refine if_pos ⟨going, ?_, ?_, on⟩
  · rw [SmpSlot.ready_one row hyp.res hyp.one]
    rfl
  · rw [free]
    rfl

end Settled

/-- Settles O45: a row with another one still to come leaves its step as it is, a lost slot is carried, and a committed slot's token goes through its
sibling's record, its history and its ring. -/
theorem rowsAreSampledAndCommitted : Obligations.RowsAreSampledAndCommitted := by
  unfold Obligations.RowsAreSampledAndCommitted
  intro tag len fmt lane i idx j n T payload toks parents st x y ss c rw o d r w s up _
  refine ⟨logitRow_discarded up, spareLane_serves up, fun step at_ held _ => ⟨?_, ?_, ?_, ?_⟩⟩
  · rintro settled on named placed row epoch number form active lead vocab fresh none_ free room gang ⟨m, other, mAt, rowed, going, -, few⟩
    exact logitRow_accepted up settled step at_ held on named placed row epoch number form active lead vocab fresh none_ free room gang other mAt rowed going few
  · exact fun on none_ fresh area plain => rowControlJoin_keeps up step at_ held on none_ fresh area plain
  · rintro settled bare open_
    refine ⟨?_, ?_⟩
    · rintro waits due ⟨m, other, mAt, rowed, going, -, few⟩
      exact dataTimer_loses up settled step at_ held bare open_ waits due other mAt rowed going few
    · rintro due hits ⟨m, other, mAt, rowed, going, -, few⟩
      exact stepTimer_loses up settled step at_ held bare open_ due hits other mAt rowed going few
  · intro on ctl going one rc free
    have first : s.eng.firstOf x.lslot = rqSlot r.rqid := Eng.firstOf_of rc
    refine ⟨fun row fresh cold counted => ?_, ?_⟩
    · have sampled := rowSampled_samples (j := j) up step at_ held on ctl going one (by rw [first]; exact free) row fresh (by rw [first]; exact cold) counted
      rw [first] at sampled
      exact sampled
    · rintro row res drawn state draft goes left time hist off none_ halts open_ room bare ⟨m, other, mAt, rowed, waits⟩
      have slot : tgetD s.eng.smp.slots (smpKey i idx) {} = ss := congrArg (fun z : Option SmpSlot => z.getD {}) held
      obtain ⟨t, ran, done⟩ := slotCommit_commits (n := n) (toks := toks) (parents := parents) up step at_ held on ctl going row
        ⟨rc, state, draft, free, by rw [slot]; exact row, res, drawn, goes, left, time, one, hist, off, none_, halts, open_, room⟩ bare other mAt rowed waits
      refine ⟨s.withEng t, ran, (done.slots _).trans (if_pos rfl), fun q away => (done.slots q).trans (if_neg away), done.inst,
        (done.recs _).trans ((if_pos rfl).trans (congrArg some (commitRec_one state draft _))), fun z away => (done.recs z).trans (if_neg away),
        done.gent, done.out, done.tokens, ?_, .withEng done.only⟩
      refine done.stw.trans ?_
      rw [s.eng.noteSeen_keeps]

end Sys2Proof.Machine
end
